-- ==== Sys2Proof/Word.lean ====
section
/-! DEFINITION. The 32-bit word of the manual (R63, R97) and its plainest arithmetic.  A word is a bit
vector; the value of a field, an index, a count or a time is a natural number taken from it. -/

namespace Sys2Proof

/-- A little-endian 32-bit word of an object, an entry, the Scoreboard or a payload. -/
abbrev W32 := BitVec 32

/-- The value that bits `[hi:lo]` of a number hold. -/
def natBits (n hi lo : Nat) : Nat := (n / 2 ^ lo) % 2 ^ (hi + 1 - lo)

/-- A number with bits `[hi:lo]` replaced by the low bits of `v`. -/
def natPut (n hi lo v : Nat) : Nat :=
  n - natBits n hi lo * 2 ^ lo + (v % 2 ^ (hi + 1 - lo)) * 2 ^ lo

/-- The value that bits `[hi:lo]` of a word hold. -/
def W32.get (w : W32) (hi lo : Nat) : Nat := natBits w.toNat hi lo

/-- A word with bits `[hi:lo]` replaced by the low bits of `v`. -/
def W32.put (w : W32) (hi lo v : Nat) : W32 := BitVec.ofNat 32 (natPut w.toNat hi lo v)

/-- Bit `i` of a number. -/
def natBit (n i : Nat) : Bool := n / 2 ^ i % 2 == 1

/-- A number with bit `i` set to `b`. -/
def natSetBit (n i : Nat) (b : Bool) : Nat := natPut n i i (if b then 1 else 0)

/-- The mask of bits `[hi:lo]`. -/
def natMask (hi lo : Nat) : Nat := (2 ^ (hi + 1 - lo) - 1) * 2 ^ lo

/-- 0 or 1. -/
def b2n (b : Bool) : Nat := if b then 1 else 0

/-- An `n`-bit two's complement number as an integer. -/
def signedOf (n v : Nat) : Int := if v % 2 ^ n < 2 ^ (n - 1) then (v % 2 ^ n : Nat) else (v % 2 ^ n : Nat) - (2 ^ n : Nat)

/-- An integer as an `n`-bit two's complement number. -/
def toSigned (n : Nat) (i : Int) : Nat := (i % (2 ^ n : Nat)).toNat

/-- Counters that saturate at `top`. -/
def satAdd (top a b : Nat) : Nat := if a + b > top then top else a + b

end Sys2Proof
end

