-- ==== Sys2Proof/Syntax.lean ====
section
/-! DEFINITION. The commands of the block: one constructor per row of spec/opcode_table.json.  A mailbox command
is named by the ring and index of its entry (R64), whose words the fetch took; the other operands are what reaches
the block from outside: the words a buffer held (none when the buffer cannot be reached), the verdict on a
signature, a sample, a level, a frame. -/

namespace Sys2Proof

/-- A station's areas and substitute rule in a logic image (R296): station, I area, Q area (byte address, bytes),
rule, values declared. -/
structure LgStation where
  stn : Nat
  iAddr : Nat
  iLen : Nat
  qAddr : Nat
  qLen : Nat
  rule : Nat
  values : List Nat
  deriving DecidableEq, Repr

/-- A logic image (R306, Table 11.1): the facts of its header, its SVN and CRC-32C, and the content of its sections.
The manual gives no layout of the header and of the last sections, so the content stands for them. -/
structure LogicImage where
  version : Nat
  total : Nat
  /-- byte offset and length of the sections, in the order of Table 11.1 -/
  sections : List (Nat × Nat)
  vmask : Nat
  svn : Nat
  crc : Nat
  /-- instruction words (Table 10.3) -/
  code : List W32
  /-- per task: its number, symbol ID, words 0 to 4 of LG_TASK -/
  tasks : List (Nat × Nat × List W32)
  /-- instance records (Table 11.2) -/
  insts : List (List W32)
  /-- owned Q bytes: byte, task, safe value -/
  qown : List (Nat × Nat × Nat)
  stations : List LgStation
  /-- per task: points read, points stored to -/
  psets : List (Nat × List Nat × List Nat)
  deriving DecidableEq, Repr

/-- A block on a lane (R468): the lane within its port's bond, the sync header, and the 64 scrambled bits, first on the line lowest. -/
structure LineBlock where
  lane : Nat
  sync : Nat
  bits : BitVec 64
  deriving DecidableEq, Repr

/-- A beat as the SDRAM gives it back (R549): the byte address of the read, and the ten symbols of its byte lanes, lane 0 lowest:
d0 to d7, p0, p1. -/
structure SdBeat where
  addr : Nat
  syms : BitVec 80
  deriving DecidableEq, Repr

/-- A PTP message as it arrives (R509, R513): messageType (0 Sync, 2 Pdelay_Req, 3 Pdelay_Resp, 8 Follow_Up, 0xA
Pdelay_Resp_Follow_Up, 0xB Announce), domain, twoStepFlag and sequenceId; the hardware's stamp of its arrival and the time it
carries with its correction (of a one-step Pdelay_Resp its turnaround time), in ps; of an Announce the grandmaster's clockClass and
identity, currentUtcOffset, leap61 (bit 1) and leap59 (bit 0), and whether the best master clock algorithm makes its sender the
parent. -/
structure PtpFrame where
  kind : Nat
  domain : Nat
  twoStep : Bool
  seq : Nat
  ingress : Int
  origin : Int
  clockClass : Nat
  identity : Nat
  utc : Int
  leap : Nat
  best : Bool
  deriving DecidableEq, Repr

inductive Instr where
  /-- R77. Command that does nothing and completes with OK. -/
  | nop (ring idx : Nat)
  /-- R74. Cancels an in-flight command, chosen by tag or index, that has not reached its commit point; the target completes ABORTED, otherwise ABORT completes NO_MATCH. -/
  | abort (ring idx : Nat)
  /-- R75. Returns COUNT words of an object from FIRST, inline or into a buffer. -/
  | objRead (ring idx : Nat) (dmaOk : Bool)
  /-- R75. Writes COUNT words of an object as one step at the owning unit's commit point; this is also the write of every register without a row of its own. -/
  | objWrite (ring idx : Nat) (buf : Option (List W32))
  /-- R75. Masked write of one object word; only the bits set in the mask are written. -/
  | objModify (ring idx : Nat)
  /-- R75. Returns the word count of an object and the map of its writable words. -/
  | objDescribe (ring idx : Nat)
  /-- R78. Checks a signed configuration image for signature, structure, presence and field values, then stages it. -/
  | cfgLoad (ring idx : Nat) (buf : Option (List W32)) (sigOk : Bool)
  /-- R78. Rechecks the staged image and places each unit's part in that unit's staging area; it commits when the last unit's staging is complete and the image becomes the committed image. -/
  | cfgApply (ring idx : Nat)
  /-- R78. Discards the staged configuration image. -/
  | cfgDiscard (ring idx : Nat)
  /-- R558. Reports, or copies whole into a buffer, the committed or the staged image. -/
  | cfgRead (ring idx : Nat) (dmaOk : Bool)
  /-- R556. Requests a mode transition, which is checked against Table 2.2 and R30 to R34 and R41. -/
  | modeRequest (ring idx : Nat)
  /-- R33. Leaves SAFE for RUN or COMMISSION with a control cold start once the cause of SAFE has cleared. -/
  | safeExit (ring idx : Nat)
  /-- R367. Re-enters BOOT for the service and control partitions only, keeping protection, safety, TM latches, the time counter and the configuration in force. -/
  | coldRestart (ring idx : Nat)
  /-- R368. Triggers a Let L1 or a Let L2 on request. -/
  | letRequest (ring idx : Nat)
  /-- R77. Routes a notification code, or all codes of a unit, to an event ring. -/
  | notifyRoute (ring idx : Nat)
  /-- R135. Opens a raw, fine or fast sample stream of a channel to a stream ring. -/
  | streamOpen (ring idx : Nat)
  /-- R135. Closes a stream and completes once its last entry is written. -/
  | streamClose (ring idx : Nat)
  /-- R387. Writes an EV_FREEZE record, freezes the event ring and copies records into a host buffer. -/
  | evFreeze (ring idx : Nat) (reached : Nat) (dmaOk : Bool)
  /-- R388. Ends a freeze in force, which starts the drain of the staged records. -/
  | evRelease (ring idx : Nat)
  /-- R403. Manual disturbance-recorder trigger at the command's commit instant. -/
  | drTrigger (ring idx : Nat)
  /-- R407. Writes a complete disturbance record into a buffer as COMTRADE files. -/
  | drExport (ring idx : Nat) (dmaOk : Bool)
  /-- R155. Checks the target banks, then schedules an FC swap group, an LE loop or an LE swap group to move to the named bank at a swap instant. -/
  | bankSwap (ring idx : Nat)
  /-- R247. Requests a loop or axis state, which takes effect at the next sample boundary. -/
  | loopState (ring idx : Nat)
  /-- R257. Starts relay auto-tune of a loop in HOLD or TRACK. -/
  | autotuneStart (ring idx : Nat)
  /-- R260. Stops a running auto-tune, which aborts with cause 0x05. -/
  | autotuneStop (ring idx : Nat)
  /-- R340. Forces a point, a DI or a DO in COMMISSION. -/
  | forceSet (ring idx : Nat)
  /-- R340. Removes a force, or every point force. -/
  | forceClear (ring idx : Nat)
  /-- R134. Replaces the inputs of the named channels of a core with a calibration-DAC waveform. -/
  | injectStart (ring idx : Nat)
  /-- R134. Reconnects the injected inputs of a core. -/
  | injectStop (ring idx : Nat)
  /-- R265. Runs the cogging and friction table capture of a HELD axis. -/
  | tableCapture (ring idx : Nat)
  /-- R308. Checks a signed logic image, loads it into the Bullpen and builds the carry-over plan. -/
  | bullpenLoad (ring idx : Nat) (image : Option LogicImage) (sigOk : Bool)
  /-- R310. Starts quiescing for the switch to the READY Bullpen image named by its CRC. -/
  | bullpenSwitch (ring idx : Nat)
  /-- R316. Starts quiescing for a switch back to the PREVIOUS image. -/
  | bullpenRollback (ring idx : Nat)
  /-- R337. Reads one point record, a range of records, or a remote point. -/
  | pointRead (ring idx : Nat) (dmaOk : Bool) (beat : Option (Nat × SdBeat))
  /-- R337. Writes one or many points through the Umpire, or a remote point. -/
  | pointWrite (ring idx : Nat) (buf : Option (List W32))
  /-- R349. RECIPE_CTL LOAD: writes steps into step memory between two ticks, all or none. -/
  | recipeLoad (ring idx : Nat) (buf : Option (List W32))
  /-- R349. RECIPE_CTL START: puts a lane into RUNNING at a step. -/
  | recipeStart (ring idx : Nat)
  /-- R349. RECIPE_CTL HOLD: moves a lane from RUNNING to HELD. -/
  | recipeHold (ring idx : Nat)
  /-- R349. RECIPE_CTL RESUME: moves a lane from HELD to RUNNING. -/
  | recipeResume (ring idx : Nat)
  /-- R349. RECIPE_CTL CANCEL: moves a lane to IDLE without writes. -/
  | recipeCancel (ring idx : Nat)
  /-- R492. Sends CMD run to a Substitute station and waits for it to become Live. -/
  | stationEnable (ring idx : Nat)
  /-- R526. Returns an owner-session nonce for the issuing master. -/
  | authChallenge (ring idx : Nat) (nonce : List W32)
  /-- R526. Takes one part of the signed response; part 2 verifies it and opens an owner session. -/
  | authResponse (ring idx : Nat) (sigOk : Bool) (handle : Nat)
  /-- R526. Ends the issuing master's own owner session. -/
  | authEnd (ring idx : Nat)
  /-- R527. Writes a signed attestation report followed by the device certificate. -/
  | attest (ring idx : Nat) (hashes : List W32) (dmaOk : Bool)
  /-- R525. Installs a new owner certificate under a signed transfer record. -/
  | ownerTransfer (ring idx : Nat) (record : Option (Nat × Nat × Bool)) (cert : List W32) (sigOk : Bool)
  /-- R530. UNLOCK 0b00: returns an unlock nonce. -/
  | unlockNonce (ring idx : Nat) (nonce : List W32) (dmaOk : Bool)
  /-- R531. UNLOCK 0b01: takes an OPEN token, zeroises secrets, blows OPEN_CNT and enables debug. -/
  | unlockOpen (ring idx : Nat) (buf : Option (List W32)) (sigOk : Bool) (handle : Nat)
  /-- R534. UNLOCK 0b10: generates new device and continuity keys and returns a certificate request. -/
  | unlockReprovisionRequest (ring idx : Nat) (request : List W32) (dmaOk : Bool)
  /-- R534. UNLOCK 0b11: installs a PROVISION token's certificate and re-provisions the device. -/
  | unlockProvision (ring idx : Nat) (buf : Option (List W32)) (sigOk keyOk : Bool)
  /-- R523. Checks a firmware image, writes it to the slot that is not booting and marks that slot pending. -/
  | fwUpdate (ring idx : Nat) (image : Option (Nat × Nat × Nat)) (sigOk : Bool)
  /-- R60. Doorbell KIND 0b00: sets a new PROD of a command ring. -/
  | doorbellProd (hot : Bool) (word : W32)
  /-- R60. Doorbell KIND 0b01: sets a new CONS of a completion, event or stream ring. -/
  | doorbellCons (hot : Bool) (word : W32)
  /-- R68. Doorbell KIND 0b10: copies a hot-port staging slot into a command ring, or refuses the post. -/
  | stagingPost (hot : Bool) (word : W32)
  /-- R70. Fetches a pending command entry once a credit is free. -/
  | commandFetch (entry : Option (List W32))
  /-- R71. Writes or discards a completion once the completion ring has space, freeing the credit. -/
  | completionWrite (ring idx : Nat) (ok : Bool)
  /-- R59. A write of EN from 0 to 1 in a ring register block resets PROD, CONS and the phase, or is refused. -/
  | ringEnable (ring : Nat) (word2 : W32)
  /-- R88. A write of HE_INTCTL.GEN from 0 to 1 raises a message for each pending, unmasked vector. -/
  | msixGenEnable (word : W32)
  /-- R87. A write to a BAR0 register without a row of its own, such as the MSI-X table or HE_BAR4CFG. -/
  | bar0RegisterWrite (addr bytes value : Nat)
  /-- R90. A BAR4 write that submits a point value to the Umpire, or is discarded and counted. -/
  | bar4Write (addr bytes value : Nat)
  /-- R89. A write to BAR2, which is discarded and counted. -/
  | bar2Write (addr bytes value : Nat)
  /-- R95. A hot-port write that lands in a staging slot, or is discarded and counted. -/
  | hotPortWrite (addr : Nat) (value : W32)
  /-- R86. A hot reset or FLR disables LOC = 0 rings and clears the MSI-X table. -/
  | pcieHotReset
  /-- R86. Entry to D3hot stops bus mastering and disables the host-memory rings. -/
  | d3hotEntry
  /-- R213. TM_CTL.RST_MASK write or a TM_XIN rising edge resets a captured trip-channel latch, holds the reset pending, or ignores it. -/
  | latchReset (mask : W32)
  /-- R392. EV_CTL.RECOVER tests the ring and carries the last-resort records back into it. -/
  | evRecover (ringOk : Bool)
  /-- R434. FD_CTL.CLR_UV releases latched supply cut-offs. -/
  | clrUv (mask : W32)
  /-- R424. FD_CTL.CLR_OL releases latched overloads. -/
  | clrOl (mask : W32)
  /-- R401. AR_CFG.RETEST tests a failed archive channel and restores it on a pass. -/
  | arRetest (chan : Nat) (ok : Bool)
  /-- R500. Sets a new INCREMENT, which acts from the next fabric cycle. -/
  | tuIncrementWrite (frac : W32) (ns : Nat)
  /-- R501. Starts a slew of SLEW_NS spread over SLEW_MS. -/
  | tuSlew (ns : Int) (ms : Nat)
  /-- R502. Requests a step of the time counter at the next pass commit point. -/
  | tuStepRequest (secs nanos : Int)
  /-- R504. LOCK = 1 moves the time unit to LOCKED or GM. -/
  | tuLock
  /-- R505. HOLD = 1 moves the time unit into HOLDOVER. -/
  | tuHold
  /-- R502. Applies a requested step at a pass commit point, realigns the derived activities and moves the unit to ACQUIRE. -/
  | timeStepApply
  /-- R501. A running slew completes and TU_STAT.SLEWING clears. -/
  | slewEnd
  /-- R505. No TU_ADJ write for SERVO_TO moves the time unit from LOCKED or GM to HOLDOVER. -/
  | servoTimeout
  /-- R506. Sets the Keeper's real-time counter from the time counter at each entry to LOCKED or GM and every 60 s there. -/
  | rtcSet
  /-- R35. VDD_KEEP applied with the main rails absent enters KEEPER. -/
  | vddKeepApplied
  /-- R542. VDD_KEEP below 1.60 V clears the Keeper domain. -/
  | vddKeepLoss
  /-- R50. RESET_N released with the main rails in range starts BOOT and the start-up timeline. -/
  | resetNRelease
  /-- R32. RESET_N low preempts everything except the KEEPER transition and resets the device. -/
  | resetNLow
  /-- R539. VDD_CORE below its monitor threshold for 1 µs enters KEEPER. -/
  | vddCoreLow
  /-- R50. The ROM and fuse checks complete and fix the variant, or fail with BOOTSTAT 0x01. -/
  | romCheckDone (ok : Bool)
  /-- R522. Firmware signature verification ends: the Captain starts, or ROM recovery is presented. -/
  | firmwareVerified (okA okB : Bool)
  /-- R51. The Captain becomes ready, configuration-retry ends and MB_CAP.FWMAJ becomes valid. -/
  | captainReady
  /-- R52. The self-test of the on-die SRAMs ends, possibly with boot failure 0x03 or 0x04. -/
  | sramSelfTestDone (protOk otherOk : Bool)
  /-- R52. SDRAM training ends, possibly with boot failure 0x05; the continuity slot is loaded. -/
  | sdramTrained (ok : Bool) (mib : Nat) (slotOk : Bool)
  /-- R50. The committed image is verified and applied and the reference buffers are enabled, or the device awaits a configuration load. -/
  | bootConfigApply (bad : Nat) (logicOk : Bool) (badFactory badField : List Nat)
  /-- R50. Fine paths settle, the sentinel path is armed, the first pass runs and the device enters TRAIN. -/
  | localProtectionReady
  /-- R54. TRAIN ends once every required lane is up and control is loaded; control then resumes warm or starts cold. -/
  | trainExit
  /-- R55. TRAIN_TIMEOUT expiry fails the missing links and exits TRAIN, or enters SAFE. -/
  | trainTimeout
  /-- R42. An entry step t1 to t6 completes once its engines reach their boundaries or their work is done. -/
  | sentinelEntryStep
  /-- R42. A wake source before the PLLs stop undoes the entry steps and returns the device to RUN. -/
  | sentinelEntryCancel (source : Nat)
  /-- R46. A wake source in SENTINEL starts the wake sequence of Table 2.8. -/
  | wakeSource (source : Nat)
  /-- R46. The PLLs lock during wake, so tiles, slices and the time counter restart. -/
  | wakePllLocked
  /-- R46. Captain, SDRAM and control are running again: sentinel hold ends and the mode code reads RUN. -/
  | wakeControlRunning
  /-- R48. The PLLs have not locked 50 µs after enabling: one retry, then wake failure, SAFE and the last-resort records. -/
  | wakePllTimeout
  /-- R37. WAKE_N held low for at least 1 µs in SENTINEL is a wake source. -/
  | wakeNLow
  /-- R37. The real-time alarm falls due: WAKE_N is pulled low in KEEPER, or the device wakes from SENTINEL. -/
  | keeperAlarmDue
  /-- R40. The crystal stops; the real-time counter continues from the RC oscillator and a class A error is raised. -/
  | crystalStop
  /-- R40. Loss of REFCLK or loss of lock of the fabric or AFE PLL is a protection hardware fault. -/
  | clockLoss
  /-- R57. A lockstep mismatch, Captain watchdog expiry or Captain PLL loss restarts the service partition or triggers Let L1. -/
  | captainFault
  /-- R21. No pass commit for 250 µs: class D, SAFE, protection-failed flag and the DD_FLP heartbeat stopped. -/
  | protectionWatchdogExpiry
  /-- R178. Every 125 µs: apply staged settings, compute phasors, evaluate stage 2 and 3 elements, and commit at pass start + 100 µs. -/
  | protectionPass (freqs : List Nat)
  /-- R158. A tracker in Hold for 2 s moves to Nominal. -/
  | trackerHoldExpiry (tracker : Nat)
  /-- R105. A slice converts at its slot; the result reaches FC 240 ns later with its correction applied. -/
  | sliceConversion (chan slice slot : Nat) (code : Int) (window fault : Bool)
  /-- R143. A fast-path sample becomes available; fast elements and the breaker-failure criterion are evaluated on it. -/
  | fastSample (chan stamp : Nat)
  /-- R212. MIN_ON of an asserted channel runs out. -/
  | minOnExpiry (channel : Nat)
  /-- R145. A fine-path sample with its side-band status becomes available. -/
  | fineSample (chan stamp : Nat)
  /-- R159. A resampled sample at a tracker instant becomes available. -/
  | resampledSample (chan : Nat)
  /-- R132. An arc-light input's state changes; the ARC element evaluates and it wakes the device from SENTINEL. -/
  | arcLightChange (input : Nat) (on : Bool)
  /-- R131. A sentinel wake comparator switches: a wake in SENTINEL, WAKE_SEEN elsewhere. -/
  | wakeComparatorSwitch (chan : Nat)
  /-- R45. A direct-trip comparator switches, drives its DD_SNT line, and is recorded as AF_DTRIP. -/
  | directTripComparatorSwitch (chan : Nat) (on : Bool)
  /-- R45. The 200 ms direct-trip hold ends and the output follows DD_FLP again. -/
  | directTripHoldExpiry (line : Nat)
  /-- R430. No DD_FLP heartbeat for 250 µs puts DO_24 to DO_31 in their safe states until reset. -/
  | heartbeatLoss
  /-- R222. The breaker-failure timer reaches RT_T, which sets the retrip bit. -/
  | bfRetripTimer (breaker : Nat)
  /-- R222. The breaker-failure timer reaches BF_T, which sets the backup bit. -/
  | bfBackupTimer (breaker : Nat)
  /-- R220. A contradictory contact pair held for DISC_T makes POS invalid. -/
  | breakerPosDiscExpiry (breaker : Nat)
  /-- R217. No protection message from DEVID for 2 ms makes a remote bit stale. -/
  | remoteBitStale (bit : Nat)
  /-- R474. A TRIP frame updates the remote bits of the matrix. -/
  | tripFrameReceive (src : Nat) (words : List W32)
  /-- R475. A ZONE frame delivers remote zone samples, ZBLK and time state. -/
  | zoneFrameReceive (src : Nat) (words : List W32)
  /-- R228. The deadline of a remote sample stamp passes; a missing stamp counts as a gap. -/
  | zoneSampleDeadline (zone slot stamp : Nat)
  /-- R233. REC after all causes have cleared, the zone unblocks and ZONE_OK is sent. -/
  | zoneRecoveryExpiry (zone : Nat)
  /-- R117. A new per-slice mismatch estimate, which may decide retirement. -/
  | sliceEstimate (core slice : Nat) (offset gain skew : Int) (missingCode : Bool)
  /-- R118. The retired schedule takes effect at the frame boundary and SLICE_RETIRED is sent. -/
  | sliceRetirementSwitch (core : Nat)
  /-- R128. A reference monitor leaves or returns to its window. -/
  | refMonitorChange (core : Nat) (inWindow : Bool)
  /-- R128. The reference has been back in its window for 100 µs, so the REF interval ends. -/
  | refOkExpiry (core : Nat)
  /-- R109. A timer or PWM event starts a triggered scan, defers it, or drops it as an overrun. -/
  | scanTrigger (core : Nat)
  /-- R112. AF_TMR produces an event at k × PERIOD. -/
  | sampleTimerEvent (timer : Nat)
  /-- R125. An urgent entry's trigger requests a conversion and posts its result. -/
  | urgentConversion (entry slice slot : Nat) (code : Int) (window : Bool)
  /-- R133. The once-per-second test of an arc sensor loop. -/
  | arcSupervisionTest (input result : Nat)
  /-- R155. At tb every chain of the group changes bank and SWAP_DONE is sent. -/
  | fcBankSwapInstant (group : Nat)
  /-- R160. A sampled-value frame is taken or dropped. -/
  | svFrameReceive (appid mac confRev : Nat) (ethertype : Nat) (flags : Nat) (asdus : List (Nat × Bool × List (Int × Nat)))
  /-- R165. 100 ms without a taken frame puts a stream in state lost. -/
  | svStreamLost (stream : Nat)
  /-- R136. An AF or FC stream entry is written to its ring, or dropped. -/
  | streamEntryWrite (ring : Nat)
  /-- R244. A loop samples its inputs, computes its law and applies the output one period later. -/
  | loopSample
  /-- R240. A sample not committed by tk + T repeats the previous output. -/
  | loopOverrun (axis : Bool) (n : Nat)
  /-- R251. A loop or group changes bank at the swap sample. -/
  | leSwapInstant
  /-- R260. TMAX passes before the tuning measurement is complete, so the tuning aborts. -/
  | autotuneTmaxExpiry (loop : Nat)
  /-- R261. An axis samples position and computes profile and regulation. -/
  | axisSample
  /-- R266. An SSI or BiSS-C position transfer completes, or is LATE. -/
  | encoderTransfer (enc : Nat) (data : Option Nat) (error warn : Bool) (crc : Nat)
  /-- R267. A PWM period starts and latches its duty. -/
  | pwmPeriodStart (pwm : Nat)
  /-- R268. A loop lane is marked failed and its loops and axes migrate. -/
  | loopLaneFailure (lane : Nat) (lost : Bool)
  /-- R288. A task takes its snapshot and executes its program. -/
  | logicCycleSnapshot (task : Nat)
  /-- R290. At END the task hands its Q bytes and stored points to the Umpire and the cycle completes. -/
  | logicOutputWrite (task : Nat)
  /-- R294. A cycle exceeds WDT and is abandoned. -/
  | cycleWatchdogExpiry (task : Nat)
  /-- R293. An event task's trigger starts a cycle or is latched or lost. -/
  | eventTaskTrigger (task : Nat)
  /-- R295. The error task runs one cycle for a queued cause. -/
  | errorTaskRun (core : Nat)
  /-- R299. A logic core is marked failed and its tasks move to live cores. -/
  | logicCoreFailure (core cause : Nat)
  /-- R311. Quiescing ends, the banks swap on all cores and the state carries over. -/
  | bullpenSwap
  /-- R312. Quiescing exceeds SW_WAIT and the switch is cancelled. -/
  | bullpenSwWaitExpiry
  /-- R320. Every 1 µs the Umpire resolves every target and applies the winners. -/
  | umpireRound
  /-- R332. A scan class reads its sources and publishes the new values. -/
  | scanClassBoundary (class_ : Nat)
  /-- R338. A PT_REC updates mirror records. -/
  | mirrorRecordReceive (src : Nat) (words : List W32)
  /-- R338. No record for twice the period plus 2 ms makes the mirror stale. -/
  | mirrorStale (index : Nat)
  /-- R479. An origin takes a subscription request, or its cancellation. -/
  | ptSubReceive (src : Nat) (words : List W32)
  /-- R479. An origin takes a remote read or write and answers with PT_RSP. -/
  | ptReqReceive (src : Nat) (words : List W32)
  /-- R339. A remote reply completes the waiting command. -/
  | ptRspReceive (src : Nat) (words : List W32)
  /-- R339. No reply within 50 ms completes the remote command with INTERNAL. -/
  | remotePointTimeout (tag : Nat)
  /-- R348. A lane executes its steps and registers its writes. -/
  | recipeTick (lane : Nat)
  /-- R369. Let L1: the Captain restarts while the engines run on. -/
  | letL1Trigger
  /-- R370. Let L2: Captain, logic and recipe engines restart. -/
  | letL2Trigger (cause : Nat)
  /-- R82. The restarted Captain writes the journalled completions and LET_BEGIN, held notifications, LET_END, then resumes. -/
  | letEnd (resume : Bool) (bad : List (Nat × Nat))
  /-- R372. The Let class bound passes and the device enters SAFE. -/
  | letBoundExceeded
  /-- R357. A continuity-store block is uncorrectable or fails its CRC. -/
  | storeBlockError (block : Nat) (beat : Option SdBeat)
  /-- R361. PFW_N low for 10 µs takes a cut and writes an MRAM slot. -/
  | powerFailWarning
  /-- R360. A slot write ends with WRITE_DONE, or fails. -/
  | slotWriteDone (ok : Bool) (us block : Nat)
  /-- R363. PFW_N high with rails in range resumes control from the image just written. -/
  | powerReturn
  /-- R376. An arriving error is handled, preempts, or is queued. -/
  | errorHandling
  /-- R375. Handling of an error ends and the next queued error is served. -/
  | errorHandlingEnd
  /-- R385. EV writes a handed-over record into the ring, staging or last-resort ring. -/
  | eventRecordWrite (fifo : Nat)
  /-- R385. A hand-off FIFO falls below half after losses and a loss record is written. -/
  | handoffLost (fifo : Nat)
  /-- R387. A freeze ends 500 ms after its record. -/
  | freezeLimitExpiry
  /-- R388. Staged records, OVERFLOW and EV_RELEASE are written after a freeze. -/
  | freezeDrain
  /-- R386. With ARCH = 1 the ring freezes when it would overwrite unarchived records, and thaws when 4,096 are freed. -/
  | archiveLagFreeze
  /-- R390. EV enters last-resort operation and writes LOG_FAILED. -/
  | lastResortEntry (cause failed : Nat)
  /-- R394. CH records a point change, or drops and counts it. -/
  | changeIngest
  /-- R395. CH writes an EPOCH record. -/
  | epochBoundary
  /-- R396. Once there is room, CH writes a GAP record for the lost changes. -/
  | chGapWrite
  /-- R399. AR programs a page of a stream. -/
  | archivePageProgram (ok : Bool) (block bytes erased : Nat)
  /-- R399. 100 ms after a page's first record, the partial page is written. -/
  | partialPageExpiry (stream : Nat) (ok : Bool) (block erased : Nat)
  /-- R401. A ready-busy wait over 10 ms fails the channel. -/
  | readyBusyTimeout (chan : Nat)
  /-- R403. A DR_TRIG source starts or extends a disturbance record. -/
  | drTriggerEvent
  /-- R404. A record's last sample is available and DR_DONE is sent. -/
  | drRecordComplete
  /-- R413. Every 10 µs each DI is classified, filtered and supervised. -/
  | diSample (inputs : List (Nat × Nat))
  /-- R419. A DI held at 1 for STUCK_T sets STUCK. -/
  | diStuckExpiry (input : Nat)
  /-- R423. Every 10 µs each output takes its ruling row of Table 15.4. -/
  | doStep (outs : List (Nat × Nat × Bool)) (fldMv : Nat) (temp : Int)
  /-- R424. Current limit beyond its time switches the channel off. -/
  | overloadSwitchOff (out : Nat)
  /-- R424. After 100 ms a channel retries, or latches off after three failures. -/
  | overloadRetry (out : Nat)
  /-- R424. Junction above 150 °C switches the channel off until below 135 °C. -/
  | thermalShutdown (out : Nat) (temp : Int)
  /-- R426. The 10 ms off-state check for short and open wire. -/
  | offStateCheck (out : Nat) (ball ballTest : Bool)
  /-- R427. An on output is darkened for TP_W and checked. -/
  | darkTestPulse (out : Nat) (fell : Bool)
  /-- R429. The Umpire's output stage refreshes the field watchdog. -/
  | fieldWatchdogRefresh
  /-- R429. No refresh for WD_TIME puts DO_00 to DO_23 in their safe states. -/
  | fieldWatchdogExpiry
  /-- R431. FLD_24V crosses a threshold and the supply state changes. -/
  | fldSupplyCrossing (mv : Nat)
  /-- R434. After 50 ms of good supply, non-latched outputs are restored. -/
  | supplyGoodExpiry
  /-- R439. Every 10 µs SF evaluates all functions and sends commands and heartbeat. -/
  | sfEvaluationCycle
  /-- R442. No SF heartbeat for 1 ms drives the owned outputs, pulse sources and OTE off. -/
  | sfHeartbeatLoss
  /-- R441. An internal diagnostic fails, which is a safety partition fault. -/
  | sfDiagnosticFailure (cause : Nat)
  /-- R444. A discrepancy beyond DISC_T puts the function in FAULT. -/
  | sfDiscrepancyExpiry (fn : Nat)
  /-- R454. A pulse source darkens for TP_W and tests its channel. -/
  | sfTestPulse (source : Nat)
  /-- R455. A test window closes with pass, fail or inconclusive. -/
  | sfTestWindowEnd (fn : Nat) (chanB : Bool)
  /-- R452. 5 ms after a switch-off the ball is checked. -/
  | sfReadbackCheck (out : Nat)
  /-- R457. SF recomputes SF_CFG.CRC after a commit. -/
  | sfCrcRecompute
  /-- R463. LOS or LOL of a lane changes. -/
  | laneDetectorChange (lane : Nat) (los lol quad : Bool)
  /-- R464. A port or lane reaches its next training step. -/
  | trainingStepReached (port : Bool) (n step : Nat) (skew : List Nat)
  /-- R464. A step not completed within its bound returns the port to step 1. -/
  | trainingStepTimeout (port : Bool) (n : Nat)
  /-- R466. A port in service goes down and retrains. -/
  | portDown (port : Nat)
  /-- R482. A received frame is checked, delivered, forwarded or discarded. -/
  | renbyFrameReceive (port : Nat) (blocks : List LineBlock) (tagOk : Bool)
  /-- R478. The capability exchange of step 6. -/
  | capFrameReceive (port : Nat) (words : List W32)
  /-- R528. HELLO, CERT, FINISH or ALERT of mutual authentication. -/
  | authFrameReceive (port : Nat) (words : List W32) (verdict : Nat)
  /-- R476. A TOPO frame every millisecond and on every mode change. -/
  | topoSend
  /-- R477. No TOPO from a device for 3 ms marks its link failed. -/
  | deviceUnreachable (dev : Nat)
  /-- R488. An ST_OUT frame is sent to each station with a boundary. -/
  | stationCycleBoundary
  /-- R490. An ST_IN frame is applied whole. -/
  | stInReceive (stn : Nat) (words : List W32)
  /-- R490. A cycle ends without ST_IN; the MISS-th consecutive miss drops the station out. -/
  | stationMiss (stn : Nat)
  /-- R492. No live ST_IN within 100 cycles or 100 ms returns the station to Substitute. -/
  | stationEnableTimeout (stn : Nat)
  /-- R493. An Ethernet frame is routed to FC, TU or the Captain, or dropped. -/
  | ethernetFrameReceive (lane ethertype len : Nat) (ptp : Option PtpFrame)
  /-- R495. A GOOSE frame at a change or repeat interval. -/
  | goosePublish
  /-- R510. Hardware sends Sync on master ports. -/
  | syncSend
  /-- R510. Hardware sends Pdelay_Req every 62.5 ms. -/
  | pdelayReqSend
  /-- R509. A PTP message is received and stamped. -/
  | timeFrameReceive (port : Nat) (message : PtpFrame)
  /-- R510. Firmware sends Announce every second and runs BMCA. -/
  | announceSend (states : List Nat)
  /-- R521. The key-store monitor zeroises the secret area on a violation. -/
  | keyTamper (cause : Nat)
  /-- R86. Return of the endpoint from D3hot to D0, which restores bus mastering and normal BAR access. -/
  | d0Restore
  /-- R50. The PCIe link on LANE_00 to LANE_03 completes training, or loses it, which changes SB_LANE.UP of the PCIe lanes. -/
  | pcieLinkTrained (up : Bool)
  /-- R217. A device sends its protection-class TRIP message again once 500 µs have passed without a change. -/
  | protectionMessageRepeat
  /-- R338. At each boundary of a subscription's period the origin sends the subscribed record to the mirror. -/
  | originPeriodBoundary (code : Nat)
  /-- R266. An edge on a quadrature encoder's A, B or Z ball counts, latches ZPOS and sets ZSEEN, or sets ERR. -/
  | encoderEdge (enc : Nat) (a b z : Bool)
  /-- R486. At the end of each 31.25 µs measurement window RB sets or clears RB_PORT.C0_OVER and sends C0_OVERLOAD. -/
  | c0LoadWindow (port bytes : Nat)
  /-- R535. An IEEE 1149.1 instruction on the JTAG balls acts as BYPASS, IDCODE, SAMPLE/PRELOAD, EXTEST, CLAMP or HIGHZ, or as debug once opened. -/
  | jtagInstruction (code : Nat)
  /-- R505. Three Announce intervals pass without an Announce from the parent, so the firmware servo enters HOLDOVER and BMCA re-decides the port states. -/
  | announceReceiptTimeout (states : List Nat)
  /-- R31. The service-partition restart after a Captain fault in BOOT, TRAIN or SAFE completes and the mailbox runs again without a mode change. -/
  | captainRestartDone
  deriving DecidableEq, Repr

end Sys2Proof
end

