-- ==== Sys2Proof/Config.lean ====
section
/-! DEFINITION. What an implementation fixes and the values the manual leaves open.  A free value is an opaque
constant: nothing can evaluate it, so a statement about it holds whatever it is. -/

namespace Sys2Proof

/-- The three variants (Table 0.1). -/
inductive Variant where
  | cpx9640 | cpx9632 | cpx9616
  deriving DecidableEq, Repr

/-- A 32-bit value the manual leaves open, one per draw (assumption 4). -/
opaque Config.freeValue : Nat → W32

/-- The unpublished coefficients of the fixed responses (R559): response, rate, coefficient. -/
opaque Config.romCoef : Nat → Nat → Nat → W32

/-- Taps that R559 leaves unpublished or that Table 6.1 and R162 do not give: the half-band decimator and the front stage's cubic kernel (24
fraction bits; the kernel by the span between its two middle points and the place in it, in 3.125 ns, and the tap), the fast FIR
(23 fraction bits, by distance from the centre), the resampler's kernel (24 fraction bits; by place between two fine samples in 2^-32
ns, fine period in ns and tap), and the kernel of the process-bus ingest (24 fraction bits; by distance in ns and rate). -/
opaque Config.halfBandTap : Nat → Int
opaque Config.cubicTap : Nat → Nat → Nat → Int
opaque Config.fastTap : Nat → Int
opaque Config.resampleTap : Nat → Nat → Nat → Int
opaque Config.ingestTap : Int → Nat → Int

/-- Where an injected sine or square starts (R134 gives no phase), 2^-40 turns, per start. -/
opaque Config.injPhase : Nat → Nat

/-- The sign and payload bits of a NaN result (R237 names IEEE 754, which leaves them open), per format width. -/
opaque Config.nanBits : Nat → Nat

/-- The files of a COMTRADE export (R407): the words and byte lengths of CFG and DAT, whose formats the manual leaves to
IEEE C37.111. -/
opaque Config.comtrade : List W32 → (List W32 × Nat) × (List W32 × Nat)

/-- Erzomet's Vendor ID and the revision of the PCIe function (Table 4.1 names them and gives no number), and the words of its
configuration space beyond them, which the PCI Express specification lays out. -/
opaque Config.pcieVendor : Nat
opaque Config.pcieRevision : Nat
opaque Config.pcieConfig : Nat → W32

/-- AES-GMAC tag of a Renby frame (R471): port, KEPOCH, the words it covers, word of the tag; the link's keys have no value in the
model. -/
opaque Config.linkTag : Nat → Nat → List Nat → Nat → W32

/-- Cause of the class B error at the first correction of an SDRAM device (Table 13.10), of which the manual gives the class alone;
0x80 to 0xFF, as it comes without a notification (R374). -/
opaque Config.sdFirstCause : BitVec 7

/-- Erzomet's manufacturer identity in IDCODE (R535), which the manual does not give. -/
opaque Config.jtagMaker : Nat

end Sys2Proof
end

