-- ==== Sys2Proof/Machine/Map.lean ====
section
/-! DEFINITION. Sparse data by a numeric key, in one canonical form: keys strictly rising, and no entry equal
to what an unlisted key reads as.  Every register, memory and table of State is held so. -/

namespace Sys2Proof.Machine

/-- A sparse table: the listed keys with their values. -/
abbrev AMap (α : Type) := List (Nat × α)

/-- The value at a key; `d` says what an unlisted key reads as. -/
def mget {α : Type} (d : Nat → α) : AMap α → Nat → α
  | [], k => d k
  | (k', v) :: t, k => if k = k' then v else if k < k' then d k else mget d t k

/-- The table with key `k` set to `v`, in canonical form again. -/
def mset {α : Type} [DecidableEq α] (d : Nat → α) (k : Nat) (v : α) : AMap α → AMap α
  | [] => if v = d k then [] else [(k, v)]
  | (k', v') :: t =>
    if k = k' then (if v = d k then t else (k, v) :: t)
    else if k < k' then (if v = d k then (k', v') :: t else (k, v) :: (k', v') :: t)
    else (k', v') :: mset d k v t

/-- Every listed key is above `lo` and keys rise strictly; no entry equals its unlisted value. -/
def mapOkFrom {α : Type} [DecidableEq α] (d : Nat → α) : Nat → AMap α → Bool
  | _, [] => true
  | lo, (k, v) :: t => decide (lo ≤ k) && decide (v ≠ d k) && mapOkFrom d (k + 1) t

/-- The canonical form. -/
def mapOk {α : Type} [DecidableEq α] (d : Nat → α) (m : AMap α) : Bool := mapOkFrom d 0 m

/-- Apply a function to the value at a key. -/
def mmod {α : Type} [DecidableEq α] (d : Nat → α) (k : Nat) (f : α → α) (m : AMap α) : AMap α :=
  mset d k (f (mget d m k)) m

/-- Write consecutive keys. -/
def msetList {α : Type} [DecidableEq α] (d : Nat → α) : Nat → List α → AMap α → AMap α
  | _, [], m => m
  | k, v :: t, m => msetList d (k + 1) t (mset d k v m)

/-- Read `n` consecutive keys. -/
def mgetList {α : Type} (d : Nat → α) (m : AMap α) : Nat → Nat → List α
  | _, 0 => []
  | k, n + 1 => mget d m k :: mgetList d m (k + 1) n

end Sys2Proof.Machine
end

