-- ==== Sys2Proof/Machine/CoreTypes.lean ====
section
/-! DEFINITION. Plain-data types of the state of the modes, the Keeper, the mailbox, the host endpoint, the
Scoreboard, the error controller, the event recorder and the continuity store. -/

namespace Sys2Proof.Machine

/-- A time of the time counter: TAI seconds and nanoseconds (R64, R382). -/
structure Stamp where
  sec : Nat
  ns : Nat
  deriving DecidableEq, Repr

/-- MB_CPL.TIME and EV_REC.TIME: bits [63:30] the low 34 bits of the seconds, bits [29:0] nanoseconds. -/
def Stamp.word (t : Stamp) : Nat := (t.sec % 2 ^ 34) * 2 ^ 30 + t.ns % 2 ^ 30

/-- TAI nanoseconds since the epoch. -/
def Stamp.tai (t : Stamp) : Nat := t.sec * 1000000000 + t.ns

/-- The stamp of a count of TAI nanoseconds. -/
def Stamp.ofTai (n : Nat) : Stamp := ⟨n / 1000000000, n % 1000000000⟩

/-- The modes of Table 2.1. -/
inductive Mode where
  | keeper | boot | train | commission | run | sentinel | letMode | safe
  deriving DecidableEq, Repr

/-- The mode code of Table 2.1. -/
def Mode.code : Mode → Nat
  | .keeper => 0 | .boot => 1 | .train => 2 | .commission => 3
  | .run => 4 | .sentinel => 5 | .letMode => 6 | .safe => 7

/-- The mode of a 3-bit code. -/
def Mode.ofCode : Nat → Mode
  | 0 => .keeper | 1 => .boot | 2 => .train | 3 => .commission
  | 4 => .run | 5 => .sentinel | 6 => .letMode | _ => .safe

/-- The start-up step that comes next (Table 2.10, Table 2.11). -/
inductive BootStep where
  | resetLow | rom | firmware | captain | sram | sdram | config | protection | done
  | stuck | recovery | awaitConfig
  deriving DecidableEq, Repr

/-- Where SENTINEL stands (Tables 2.7 and 2.8): out of it, entering with `k` entry steps done, asleep, or
waking after the wake flag (`retried`: the PLL retry of R48 has been spent) or after w4. -/
inductive SentStep where
  | out
  | entering (k : Nat)
  | asleep
  | waking (retried : Bool)
  | locked
  deriving DecidableEq, Repr

/-- The sources of KP_WAKE.CAUSE (Table 2.5), in bit order. -/
inductive WakeSrc where
  | comparator | directTrip | arcLight | wakeN | di | alarm | doorbell | field
  deriving DecidableEq, Repr

def WakeSrc.bit : WakeSrc → Nat
  | .comparator => 0 | .directTrip => 1 | .arcLight => 2 | .wakeN => 3
  | .di => 4 | .alarm => 5 | .doorbell => 6 | .field => 7

/-- Modes, start-up and SENTINEL (02_modes_and_startup.md). -/
structure Modes where
  mode : Mode
  prev : Mode
  cause : Nat
  bootstat : Nat
  /-- target of a transition in progress (MB_MODESTAT.PEND and TARGET) -/
  pend : Option Mode
  /-- mode to which a pending RUN/COMMISSION change or SAFE exit goes, and the command that asked -/
  pendCmd : Option (Nat × Nat)
  entry : Stamp
  boot : BootStep
  /-- Captain running and its services up (R51, R31) -/
  captain : Bool
  /-- a class D boot failure waits for TRAIN exit (Table 2.11), with the status code that names it, 0 for none -/
  bootFail : Bool
  bootCode : Nat
  /-- SDRAM training of this BOOT has ended: whether it succeeded (Table 2.10) -/
  sdram : Option Bool
  /-- BOOT was entered through COLD_RESTART (R367) -/
  coldBoot : Bool
  /-- control partition loaded (R54) -/
  controlLoaded : Bool
  /-- control partition running; false before TRAIN exit, in SENTINEL after t1 and on a power-fail cut -/
  control : Bool
  /-- first control output write since the last start is still to come -/
  firstWrite : Bool
  sent : SentStep
  /-- SENTINEL entry halted by a power-fail write (R362) -/
  sentHalt : Bool
  /-- elapsed time at which the entry began, the PLLs were enabled (w2), and LG_MONO at the latch (R283) -/
  sentAt : Nat
  pllAt : Nat
  sentMono : Nat
  /-- TAI ns of t5, at which passes and paths stopped -/
  sentPass : Nat
  /-- elapsed time of t1, at which control stopped -/
  sentStop : Nat
  /-- elapsed time of TRAIN entry -/
  trainAt : Nat
  /-- protection-failed flag (R21) -/
  protFail : Bool
  /-- Let class in progress, 0 for none, its trigger, and the mode it left -/
  letClass : Nat
  letStart : Stamp
  letFrom : Mode
  /-- elapsed time of the first trigger; logic and recipe engines run again after a Let L2 (R370); class of a Let that ended
  in SAFE with its completions still to come (R82) -/
  letAt : Nat
  /-- elapsed time of the Let L2 trigger, which an escalation brings later than the first trigger -/
  letL2At : Nat
  letResumed : Bool
  letOwed : Nat
  /-- protection heartbeat on DD_FLP running (R14) -/
  heartbeat : Bool
  heart : Nat
  /-- RESET_N level, main rails in range, VDD_KEEP applied -/
  resetN : Bool
  rails : Bool
  vddKeep : Bool
  /-- sentinel direct-trip path armed (R45) -/
  sentArmed : Bool
  deriving DecidableEq, Repr

/-- A record for the event recorder: EV_REC words 1 to 6 (Table 14.1) and its priority (R383). -/
structure EvRec where
  code : Nat
  src : Nat
  time : Stamp
  par0 : Nat
  par1 : Nat
  par2 : Nat
  prio : Bool
  deriving DecidableEq, Repr

/-- A record with the sequence EV gave it. -/
structure EvEntry where
  seq : Nat
  body : EvRec
  deriving DecidableEq, Repr

/-- EV_PFMARK (R393): newest written and newest archived SEQ of EV, the same of CH. -/
structure PfMark where
  evWritten : Nat
  evArchived : Nat
  chWritten : Nat
  chArchived : Nat
  deriving DecidableEq, Repr

/-- The Keeper domain, which RESET_N does not reset (R35). -/
structure Keeper where
  rtcSec : Nat
  /-- crystal ticks within the second, 0 to 32767 -/
  rtcTick : Nat
  /-- part of the next crystal tick, in 1/390625 of a tick per fabric cycle -/
  rtcPhase : Nat
  /-- the counter runs from the RC oscillator (R40) -/
  fromRc : Bool
  /-- its error waits for the core die -/
  rcErr : Bool
  /-- the alarm has fallen due and none of its fields was written since (R37) -/
  alarmSpent : Bool
  /-- the wake controller pulls WAKE_N low (R37) -/
  wakeNLow : Bool
  /-- counters latched on one crystal edge at SENTINEL entry (R36): time counter TAI ns at that edge, RTC ticks -/
  latchTai : Nat
  latchTicks : Nat
  /-- time-counter advance per crystal tick before entry, in units of 2^-32 ns -/
  crystalPer : Nat
  lring : List EvEntry
  /-- EV_LRSTAT non-priority count, first and last -/
  npLost : Nat
  npFirst : Stamp
  npLast : Stamp
  /-- priority and all records lost into entry 511 -/
  lrPrioLost : Nat
  lrLost : Nat
  lrLostFirst : Stamp
  lrLostLast : Stamp
  pfMark : Option PfMark
  /-- newest SEQ that EV left at t4 (R48) -/
  sentSeq : Nat
  deriving DecidableEq, Repr

/-- Who issued a command (R68, R77): it decides the Umpire rank and the owner of a session. -/
inductive Master where
  | hostA | hostB | hotPort
  deriving DecidableEq, Repr

/-- Status codes (Table 3.11). -/
inductive Status where
  | ok | badOpcode | badObject | unitAbsent | modeForbids | loopNotOpen | ownerConflict | bankBusy | badLength
  | dmaFault | imageInvalid | noMatch | authFail | authRequired | busyRetry | aborted | internal
  deriving DecidableEq, Repr

def Status.code : Status → Nat
  | .ok => 0 | .badOpcode => 0x10 | .badObject => 0x11 | .unitAbsent => 0x12 | .modeForbids => 0x13
  | .loopNotOpen => 0x14 | .ownerConflict => 0x15 | .bankBusy => 0x16 | .badLength => 0x17
  | .dmaFault => 0x18 | .imageInvalid => 0x19 | .noMatch => 0x1A | .authFail => 0x20
  | .authRequired => 0x21 | .busyRetry => 0x30 | .aborted => 0x31 | .internal => 0xFF

/-- Where an in-flight command stands (R71 to R74). -/
inductive CmdPhase where
  /-- fetched, its checks not yet run -/
  | fetched
  /-- its checks passed; its effect waits for a boundary of the owning unit -/
  | started
  /-- its outcome is decided; the completion waits for ring space.  `time` is the commit instant, none for a
  command without effect or that fails, which carries the instant of the write (R64). -/
  | decided (status : Status) (r0 r1 r2 r3 : Nat) (time : Option Stamp)
  deriving DecidableEq, Repr

/-- A command in flight (R70): its ring, index and entry, the number of its fetch, its issuer. -/
structure Cmd where
  ring : Nat
  idx : Nat
  words : List W32
  order : Nat
  prio : Bool
  master : Master
  /-- staging slot it came from (R68) -/
  slot : Option Nat
  /-- when it was fetched (TAI) -/
  fetchAt : Nat
  /-- another MODE_REQUEST, SAFE_EXIT, LET_REQUEST or COLD_RESTART ran when it was fetched (R72) -/
  busy : Bool
  phase : CmdPhase
  deriving DecidableEq, Repr

/-- A notification (Table 3.5) before it is written to a ring. -/
structure Ntf where
  unit : Nat
  code : Nat
  par0 : Nat
  par1 : Nat
  par2 : Nat
  par3 : Nat
  time : Stamp
  deriving DecidableEq, Repr

/-- One object record of a configuration image (Table 3.15). -/
structure ImgRec where
  objid : Nat
  first : Nat
  words : List W32
  deriving DecidableEq, Repr

/-- A configuration image that passed its structure check (R557). -/
structure CfgImage where
  /-- the whole image, as CFG_READ copies it -/
  raw : List W32
  len : Nat
  crc : Nat
  svn : Nat
  vmask : Nat
  /-- its signature verified -/
  signed : Bool
  objs : List ImgRec
  points : Option (List (List W32))
  steps : List (Nat × List (List W32))
  goose : List W32
  deriving DecidableEq, Repr

/-- A write that waits for the boundary of its unit (R17, R73): the command that issued it (none for a part of
an image) and its words. -/
structure StagedWrite where
  cmd : Option (Nat × Nat)
  objid : Nat
  first : Nat
  words : List (W32 × W32)
  deriving DecidableEq, Repr

/-- The last data the device wrote into a command's buffer: location bit, address, words. -/
structure DmaWrite where
  loc : Nat
  addr : Nat
  words : List W32
  deriving DecidableEq, Repr

/-- The Captain mailbox (03_captain_mailbox.md). -/
structure Mailbox where
  inflight : List Cmd
  fetchNo : Nat
  /-- ring after which the round-robin of R70 continues -/
  rr : Nat
  /-- phase bit of each ring, 1 after enable (R59) -/
  phase : AMap Bool
  /-- SEQ of each event ring, and the sequence of each stream ring -/
  nseq : AMap Nat
  /-- ring memory written by the device or by a staging post: key ring * 65536 + index -/
  ringMem : AMap (List W32)
  /-- routes: key unit * 65536 + code, value ring + 1 -/
  routes : AMap Nat
  /-- notifications that arose during a Let (R82) -/
  held : List Ntf
  /-- doorbells latched in LET and SENTINEL: key kind * 64 + ring, value index + 1 -/
  latched : AMap Nat
  staged : Option CfgImage
  committed : Option CfgImage
  /-- images committed before it, newest first (Table 2.11, 0x06) -/
  older : List CfgImage
  /-- CFG_APPLY past its commit point: the command, its commit time; and the units its image names (R72) -/
  applying : Option (Nat × Nat × Stamp)
  applyUnits : List Nat
  lastDma : Option DmaWrite
  deriving DecidableEq, Repr

/-- The host endpoint (04_host_endpoint_and_scoreboard.md). -/
structure HostEp where
  d3hot : Bool
  linkUp : Bool
  /-- MSI-X messages sent per vector, and the time of the last one (R67) -/
  msgs : AMap Nat
  msgTime : AMap Nat
  deriving DecidableEq, Repr

/-- Scoreboard words that have a writer of their own (Table 4.5); the rest are views of other state. -/
structure Scoreboard where
  protSeq : Nat
  protPass : Nat
  pu : AMap Nat
  op : AMap Nat
  /-- staging slot words, key slot * 32 + word, and the completion mirrors with their sequence words -/
  slots : AMap Nat
  rejected : Nat
  /-- the contents at SENTINEL entry, by word address (R44) -/
  asleep : AMap Nat
  /-- sequence words of the five-word map entries of PD (R341), by entry -/
  mapSeq : AMap Nat
  deriving DecidableEq, Repr

/-- An error raised (R374): code, class 1 to 4, time. -/
structure ErrRec where
  code : Nat
  cls : Nat
  deriving DecidableEq, Repr

/-- The error controller (R375 to R377). -/
structure ErrCtl where
  /-- errors that have arisen and are not yet taken by the controller, in order -/
  arrivals : List ErrRec
  /-- how many of them, from the oldest, arose in BOOT or before it: their class D waits for TRAIN exit (R32) -/
  inBoot : Nat
  /-- in handling: the head, then the errors it preempted -/
  handling : List ErrRec
  queue : List ErrRec
  lost : Nat
  /-- 0x0282 was raised and the queue has not fallen below 16 since -/
  ovf : Bool
  lastCode : Nat
  deriving DecidableEq, Repr

/-- Losses of a hand-off FIFO: count, first, last (R382). -/
structure Loss where
  cnt : Nat
  first : Stamp
  last : Stamp
  deriving DecidableEq, Repr

def Loss.none : Loss := ⟨0, ⟨0, 0⟩, ⟨0, 0⟩⟩

/-- An EV_FREEZE command whose copy runs (R387): its place, the records it copies, the SEQ of the EV_FREEZE record,
whether the freeze has ended under it. -/
structure EvCopy where
  cmd : Nat × Nat
  recs : List EvEntry
  seq : Nat
  ended : Bool
  deriving DecidableEq, Repr

/-- The event recorder (R381 to R393). -/
structure EvSt where
  /-- hand-off FIFOs by source: 0 the protection partition, else the unit ID -/
  fifo : AMap (List EvRec)
  loss : AMap Loss
  /-- the ring, oldest record first, at most 1,048,576 -/
  ring : List EvEntry
  nextSeq : Nat
  /-- newest records of the ring that wait for the archive (EV_CFG.ARCH = 1) -/
  unarch : Nat
  /-- the SEQ after the newest archived record -/
  archNext : Nat
  /-- a record was ever written, archived -/
  anyWritten : Bool
  anyArchived : Bool
  /-- freeze in force: its cause, when it began (elapsed) -/
  frozen : Option Nat
  freezeAt : Nat
  copy : Option EvCopy
  staging : List EvRec
  stLoss : Loss
  stPrioLost : Nat
  /-- cause with which the freeze ended, while its drain is still to come -/
  drain : Option Nat
  lr : Bool
  logDeg : Bool
  rcv : Nat
  lost : Nat
  /-- RECOVER was written and its test is still to come -/
  rcvReq : Bool
  deriving DecidableEq, Repr

def EvSt.init : EvSt :=
  { fifo := [], loss := [], ring := [], nextSeq := 0, unarch := 0, archNext := 0, anyWritten := false, anyArchived := false, frozen := none,
    freezeAt := 0, copy := none, staging := [], stLoss := Loss.none, stPrioLost := 0, drain := none, lr := false,
    logDeg := false, rcv := 0, lost := 0, rcvReq := false }

end Sys2Proof.Machine
end

