-- ==== Sys2Proof/Machine/AnalogTypes.lean ====
section
/-! DEFINITION. Plain-data types of the state of the analog front end and the filter chains (05, 06). -/

namespace Sys2Proof.Machine

/-- A raw sample as FC receives it (R105, R142): its slot time (TAI ns), how far its slot lies behind the start of its scan, the
spacing of its channel, and its word (Table 5.9). -/
structure Raw where
  t : Nat
  off : Nat
  step : Nat
  word : W32
  deriving DecidableEq, Repr

/-- The coefficients of a fine FIR: a fixed response at a rate, or those of a bank, centre tap first (R153, R154). -/
inductive FcCoef where
  | rom (resp rate : Nat)
  | bank (ws : List W32)
  deriving DecidableEq, Repr

/-- The settings by which the samples stamped below `upto` are computed (R151): the trim (FC_CHAN.PHASE_TRIM), DESKEW and the
coefficients. -/
structure FcSet where
  upto : Nat
  trim : Nat
  deskew : Bool
  coef : FcCoef
  deriving DecidableEq, Repr

/-- A marked run of output samples (R150): first and last stamp, settling or invalid, FC reason. -/
structure Mark where
  a : Nat
  b : Nat
  settle : Bool
  reason : Nat
  deriving DecidableEq, Repr

/-- A delivered sample: its instant, sample word (Table 6.3) and side-band word (Table 6.4). -/
structure Smp where
  t : Nat
  word : W32
  stat : W32
  deriving DecidableEq, Repr

/-- One channel's chain (R142 to R159). -/
structure FcChan where
  /-- raw samples within reach of a window, newest first -/
  raws : List Raw
  /-- reasons for giving no raw samples that have ended, newest first: when, and the reason (Table 5.5) -/
  past : List (Nat × Nat)
  /-- settings that have ended but whose samples are still to come, newest first -/
  sets : List FcSet
  fineMarks : List Mark
  fastMarks : List Mark
  /-- last fine samples, newest first, at most 32 -/
  fine : List Smp
  /-- last resampled samples, newest first, at most 224 -/
  res : List Smp
  /-- last resampling instant delivered, 2^-32 ns -/
  resLast : Nat
  /-- events of Table 6.5 since RESET_N -/
  chg : Nat
  /-- stamps of the fine and of the fast sample that come next -/
  fineAt : Nat
  fastAt : Nat
  deriving DecidableEq, Repr

def FcChan.init : FcChan := ⟨[], [], [], [], [], [], [], 0, 0, 0, 0⟩

/-- An injection in force on a core (R134), and its start (TAI ns). -/
structure Inject where
  mask : Nat
  wave : Nat
  amp : Int
  freq : Nat
  start : Nat
  deriving DecidableEq, Repr

/-- A slice (R115 to R120). -/
structure Slice where
  /-- last estimates, newest first, at most 16: offset, gain, skew -/
  ests : List (Int × Int × Int)
  /-- times of conversion faults (TAI ns), newest first -/
  faults : List Nat
  /-- corrections in force: offset in 1/16 code, gain Q2.22, delay trim in 50 fs -/
  ofsC : Int
  gnC : Nat
  skewC : Int
  /-- slot of its last conversion -/
  lastAt : Nat
  deriving DecidableEq, Repr

def Slice.init : Slice := ⟨[], [], 0, 0x400000, 0, 0⟩

/-- A slice decided for retirement: its number, the decision and the switch (R118). -/
structure Retire where
  slice : Nat
  decided : Nat
  switch : Nat
  deriving DecidableEq, Repr

/-- A conversion that a triggered core has still to make (R109, R125): its channel, slot and slice; the start of its scan, none for
an urgent conversion. -/
structure Planned where
  chan : Nat
  slot : Nat
  slice : Nat
  scan : Option Nat
  deriving DecidableEq, Repr

/-- A converter core beyond its registers. -/
structure AfCore where
  /-- slices decided for retirement, oldest first -/
  retire : List Retire
  /-- from where the rotation of a retired schedule counts (R119); slot after the last one converted -/
  rotAt : Nat
  convAt : Nat
  /-- when REF_EN was set -/
  refEnAt : Nat
  refIn : Bool
  refInAt : Nat
  /-- the monitor left its window and REF_OK_EXPIRY has not ended the interval (R128) -/
  refFault : Bool
  /-- conversions have carried reason REF since the last event that ended a REF interval (R152) -/
  refSeen : Bool
  inj : Option Inject
  /-- conversions of a triggered core that are due, in order; the last position of the last scan; the start deferred behind it -/
  plan : List Planned
  scanLast : Nat
  deferred : Option Nat
  /-- triggers dropped within the last second, and when TRIG_OVERRUN was sent -/
  drops : List Nat
  ovrAt : Nat
  deriving DecidableEq, Repr

def AfCore.init : AfCore := ⟨[], 0, 0, 0, false, 0, false, false, none, [], 0, none, [], 0⟩

/-- Settings of AF that a commit replaced: conversions whose slot lies below `upto` complete under them (R138). -/
structure AfBefore where
  upto : Nat
  regs : AMap W32
  cores : AMap AfCore
  deriving DecidableEq, Repr

/-- A sample of a stream, and its distance to the next one of the stream in ns (R136). -/
structure StrSmp where
  smp : Smp
  step : Nat
  deriving DecidableEq, Repr

/-- An open sample stream (R135, R166). -/
structure Stream where
  /-- unit 0x08 raw, 0x09 fine or fast -/
  unit : Nat
  chan : Nat
  fast : Bool
  decim : Nat
  startSec : Nat
  seq : Nat
  /-- samples seen since the last one taken -/
  skip : Nat
  /-- samples waiting for an entry, oldest first -/
  buf : List StrSmp
  closing : Option (Nat × Nat)
  deriving DecidableEq, Repr

/-- The analog front end beyond its registers. -/
structure AfSt where
  cores : AMap AfCore
  slices : AMap Slice
  /-- the factory values that the corrections of the slices start from (R115) -/
  sliceFac : AMap Slice
  /-- settings in force before the last commits, newest first -/
  before : List AfBefore
  /-- at start-up: when the cores that the image enables begin to convert (R127) -/
  enPend : Option (Nat × List Nat)
  /-- sample timers: no event before this instant (TAI ns) -/
  tmrAt : AMap Nat
  /-- trigger events not yet taken: the core and the start they ask for (R109) -/
  trigs : List (Nat × Nat)
  /-- urgent requests: entry, earliest slot time (R125) -/
  urg : List (Nat × Nat)
  streams : AMap (Option Stream)
  /-- direct-trip comparators switched on -/
  dtrip : AMap Bool
  /-- factory constants that failed their signature at BOOT; field constants that fail their CRC or were never
  written (true = usable) -/
  calBad : AMap Bool
  fieldOk : AMap Bool
  fallback : AMap Bool
  deriving DecidableEq, Repr

/-- A tracker beyond its registers (R158, R159). -/
structure Track where
  /-- resampling instants with their index in the second, newest first, 2^-32 ns, at most 512 -/
  insts : List (Nat × Nat)
  /-- when Hold began (TAI ns) -/
  holdAt : Nat
  anchored : Bool
  deriving DecidableEq, Repr

def Track.init : Track := ⟨[], 0, false⟩

/-- One received ASDU: instant, time of receipt, synchronised, quantities with their quality words. -/
structure SvVal where
  t : Nat
  /-- when its frame was received -/
  rx : Nat
  sync : Bool
  vals : List (Int × Nat)
  deriving DecidableEq, Repr

/-- A sampled-value stream beyond its registers. -/
structure SvSt where
  hist : List SvVal
  /-- CONFREV_MISMATCH last sent -/
  confAt : Nat
  deriving DecidableEq, Repr

def SvSt.init : SvSt := ⟨[], 0⟩

/-- A swap pending on a group (R155, R251): bank, its instant in TAI ns, its command. -/
structure Swap where
  bank : Nat
  tb : Nat
  cmd : Nat × Nat
  deriving DecidableEq, Repr

/-- The filter chains beyond their registers. -/
structure FcSt where
  ch : AMap FcChan
  trk : AMap Track
  sv : AMap SvSt
  swaps : AMap (Option Swap)
  /-- banks that hold a copied fixed response (R153): key channel * 2 + bank, value 1 + RESP * 4 + RATE -/
  rom : AMap Nat
  deriving DecidableEq, Repr

end Sys2Proof.Machine
end

