-- ==== Sys2Proof/Machine/ControlTypes.lean ====
section
/-! DEFINITION. Plain-data types of the state of the loop engine and axes (09). -/

namespace Sys2Proof.Machine

open Sys2Proof

/-- A relay tuning in progress (R258 to R260); binary32 numbers. -/
structure TuneRun where
  u0 : Nat
  /-- elapsed time of the start -/
  startAt : Nat
  high : Bool
  /-- samples since the start; the sample of the last switch to u0 + D plus one -/
  n : Nat
  lastUp : Nat
  /-- complete cycles -/
  cycles : Nat
  /-- periods measured (samples) and half peak-to-peak of each, newest first -/
  periods : List Nat
  amps : List Nat
  ymin : Nat
  ymax : Nat
  deriving DecidableEq, Repr

/-- The states of a notch: x_prev, x_prev2, out_prev, out_prev2 (R245). -/
structure NotchSt where
  x1 : Nat
  x2 : Nat
  y1 : Nat
  y2 : Nat
  deriving DecidableEq, Repr

/-- The law's own state, which an overrun sets back (R240, R244): binary32 numbers. -/
structure LawSt where
  u : Nat
  i : Nat
  d : Nat
  e : Nat
  q : Nat
  w : Nat
  n1 : NotchSt
  n2 : NotchSt
  /-- last y and r -/
  y : Nat
  r : Nat
  kicked : Bool
  deriving DecidableEq, Repr

def LawSt.init : LawSt := ⟨0, 0, 0, 0, 0, 0, ⟨0, 0, 0, 0⟩, ⟨0, 0, 0, 0⟩, 0, 0, false⟩

/-- A bank swap pending on a loop (R251): bank, instant (TAI ns), command, group (0 for a single loop). -/
structure LoopSwap where
  bank : Nat
  tb : Nat
  cmd : Nat × Nat
  grp : Nat
  deriving DecidableEq, Repr

/-- A loop (R244 to R260); numbers are binary32 patterns. -/
structure LoopSt where
  law : LawSt
  /-- the law's state before the sample in flight -/
  old : LawSt
  /-- last good setpoint and feed-forward -/
  sp : Nat
  ff : Nat
  /-- consecutive good samples while frozen (R242), frozen -/
  good : Nat
  frozen : Bool
  /-- output to which the loop moves under its rate limits -/
  goal : Option Nat
  feCount : Nat
  overruns : Nat
  overran : Bool
  /-- the next sample enters CLOSED (R248) -/
  entry : Bool
  /-- bank before a swap, whose proportional step the next sample absorbs (R252) -/
  absorb : Option Nat
  /-- LOOP_STATE that waits for the next sample: state, command -/
  req : Option (Nat × (Nat × Nat))
  /-- the control point as last seen: raw value and CTIME, plus one; 0 before the first sample -/
  ctl : Nat
  swap : Option LoopSwap
  tune : Option TuneRun
  /-- destination value of the last sample and whether it is still to be applied; value applied; time of the sample -/
  next : Nat
  flying : Bool
  out : Nat
  at_ : Nat
  deriving DecidableEq, Repr

def LoopSt.init : LoopSt :=
  { law := LawSt.init, old := LawSt.init, sp := 0, ff := 0, good := 0, frozen := false, goal := none, feCount := 0
    overruns := 0, overran := false, entry := false, absorb := none, req := none, ctl := 0, swap := none, tune := none
    next := 0, flying := false, out := 0, at_ := 0 }

/-- A table capture in progress (R265): command, CAP_V, leg (0 run-in, 1 forward, 2 back, 3 return), start position
(binary64), and per bin the sum of the effort (binary32) and the number of samples, forward and back. -/
structure CapRun where
  cmd : Nat × Nat
  capV : Nat
  leg : Nat
  start : Nat
  fwd : AMap (Nat × Nat)
  rev : AMap (Nat × Nat)
  deriving DecidableEq, Repr

/-- An axis (R261 to R265): positions and the profile are binary64 patterns, the rest binary32. -/
structure AxisSt where
  pos : Nat
  vel : Nat
  rPos : Nat
  vRef : Nat
  aRef : Nat
  target : Nat
  iv : Nat
  ev : Nat
  u : Nat
  notch : NotchSt
  feCount : Nat
  good : Nat
  frozen : Bool
  /-- unwrapped encoder count, the last raw count, and whether there was one -/
  count : Int
  rawCount : Nat
  seen : Bool
  /-- weight of the compensation (binary32), moves left of the start-up phase, recovery, a following-error fault
  since the last regulating state, HELD since the last start, since when at standstill (elapsed) -/
  g : Nat
  startup : Nat
  recovery : Bool
  feTripped : Bool
  began : Bool
  stillAt : Nat
  req : Option (Nat × (Nat × Nat))
  ctl : Nat
  cap : Option CapRun
  next : Nat
  flying : Bool
  overran : Bool
  at_ : Nat
  deriving DecidableEq, Repr

def AxisSt.init : AxisSt :=
  { pos := 0, vel := 0, rPos := 0, vRef := 0, aRef := 0, target := 0, iv := 0, ev := 0, u := 0, notch := ⟨0, 0, 0, 0⟩
    feCount := 0, good := 0, frozen := false, count := 0, rawCount := 0, seen := false, g := 0, startup := 0
    recovery := false, feTripped := false, began := false, stillAt := 0, req := none, ctl := 0, cap := none, next := 0
    flying := false, overran := false, at_ := 0 }

/-- An encoder interface (R266): ball levels; time, signal (0 A, 1 B) and count of the last edge; position bits above
the 32 that COUNT shows; position invalid until the axis is enabled again; errors since ENC_ERROR was sent, and when. -/
structure EncSt where
  a : Bool
  b : Bool
  z : Bool
  edgeAt : Nat
  edgeSig : Nat
  edgeDelta : Int
  hi : Nat
  bad : Bool
  errs : Nat
  errAt : Nat
  deriving DecidableEq, Repr

def EncSt.init : EncSt := ⟨false, false, false, 0, 0, 0, 0, false, 0, 0⟩

/-- The loop engine and axes. -/
structure LeSt where
  loops : AMap LoopSt
  axes : AMap AxisSt
  encs : AMap EncSt
  /-- failed loop lanes -/
  lanes : List Nat
  /-- duty commanded per PWM generator, binary32; index of its last period plus one -/
  duty : AMap Nat
  pwmAt : AMap Nat
  /-- drive references handed to stations: key station * 16 + slot -/
  refs : AMap Nat
  /-- index of the last sample instant of loops and of axes plus one -/
  loopAt : Nat
  axisAt : Nat
  /-- an axis before its sample in flight, with its state code (R240) -/
  axOld : AMap (AxisSt × Nat)
  deriving DecidableEq, Repr

def LeSt.init : LeSt :=
  { loops := [], axes := [], encs := [], lanes := [], duty := [], pwmAt := [], refs := [], loopAt := 0, axisAt := 0, axOld := [] }

end Sys2Proof.Machine
end

