-- ==== Sys2Proof/Machine/FieldTypes.lean ====
section
/-! DEFINITION. Plain-data types of the state of the field dies and the safety evaluator (15, 16). -/

namespace Sys2Proof.Machine

open Sys2Proof

/-- A field input beyond its registers (R416 to R419). -/
structure DiSt where
  /-- a valid sample was taken since the filter started -/
  init : Bool
  /-- filtered value beneath a chatter freeze -/
  flt : Bool
  /-- consecutive samples classed as open wire, and as any fault -/
  ow : Nat
  bad : Nat
  /-- transitions of the window, newest first: elapsed time and the value before -/
  trs : List (Nat × Bool)
  /-- value held by a chatter freeze -/
  frozen : Bool
  /-- elapsed time since which the filtered value is 1 -/
  hi : Nat
  deriving DecidableEq, Repr

def DiSt.init0 : DiSt := ⟨false, false, 0, 0, [], false, 0⟩

/-- A field output beyond its registers (R423 to R434); times in elapsed units. -/
structure DoSt where
  /-- state held by sentinel hold -/
  held : Bool
  /-- ball at watchdog expiry or heartbeat loss -/
  ball : Bool
  onAt : Nat
  offAt : Nat
  limAt : Option Nat
  retries : Nat
  /-- switched off for current limit, a retry to come -/
  wait : Bool
  latched : Bool
  /-- supply cut-off or latched supply off -/
  cut : Bool
  rfAt : Option Nat
  rfEnd : Nat
  owAt : Option Nat
  scsAt : Option Nat
  darkUntil : Nat
  /-- second of the last dark pulse or skipped pulse plus one -/
  darkSec : Nat
  /-- last off-state check plus one -/
  checkAt : Nat
  /-- DD_SNT line active, and the end of its hold -/
  snt : Bool
  sntUntil : Nat
  /-- the DD_FLP command seen last -/
  flp : Bool
  deriving DecidableEq, Repr

def DoSt.init : DoSt :=
  { held := false, ball := false, onAt := 0, offAt := 0, limAt := none, retries := 0, wait := false, latched := false,
    cut := false, rfAt := none, rfEnd := 0, owAt := none, scsAt := none, darkUntil := 0, darkSec := 0, checkAt := 0,
    snt := false, sntUntil := 0, flp := false }

/-- The field die beyond its registers. -/
structure FdSt where
  di : AMap DiSt
  dos : AMap DoSt
  /-- forces of inputs, at the core die's side (R421) -/
  forceDi : AMap (Option Bool)
  /-- index of the last input sample and of the last output step plus one -/
  diAt : Nat
  doAt : Nat
  /-- field watchdog: armed, last refresh, on-time refreshes in a row, index of the last refresh plus one -/
  wdArmed : Bool
  wdAt : Nat
  wdRun : Nat
  wdIdx : Nat
  /-- last heartbeat on DD_FLP plus one; 0 while none has come since reset or wake -/
  hbAt : Nat
  /-- the heartbeat check is suspended by sentinel hold, until the first heartbeat after it (R43) -/
  hbHold : Bool
  /-- a cut-off in progress: detection, FLD_24V in mV, next slot, outputs switched off -/
  cut : Option (Nat × Nat × Nat × Nat)
  /-- start of the 50 ms of good supply -/
  goodAt : Option Nat
  /-- start of the last dark test pulse plus one -/
  darkAt : Nat
  /-- DD_SF: safe-off commands, pulse sources driven on, last heartbeat plus one, heartbeat lost -/
  sfOff : AMap Bool
  sfPulse : AMap Bool
  sfHbAt : Nat
  sfLost : Bool
  /-- notifications by code and channel: when last sent plus one, and how many since -/
  ntf : AMap (Nat × Nat)
  deriving DecidableEq, Repr

def FdSt.init0 : FdSt :=
  { di := [], dos := [], forceDi := [], diAt := 0, doAt := 0, wdArmed := false, wdAt := 0, wdRun := 0, wdIdx := 0, hbAt := 0, hbHold := false,
    cut := none, goodAt := none, darkAt := 0, sfOff := [], sfPulse := [], sfHbAt := 0, sfLost := false, ntf := [] }

/-- A channel of a safety function (R443): its debounced reading, samples that disagree with it in a row. -/
structure SfChan where
  dem : Bool
  run : Nat
  deriving DecidableEq, Repr

/-- Channels read demanded until enough samples read healthy. -/
def SfChan.init : SfChan := ⟨true, 0⟩

/-- A test of an input in progress (R454 to R456); times in elapsed units: start and end of the pulse, end of the
window, whether a 0 was read, whether another channel read demanded, whether it belongs to TESTING. -/
structure SfTest where
  start : Nat
  pulseEnd : Nat
  stop : Nat
  zero : Bool
  other : Bool
  reset : Bool
  deriving DecidableEq, Repr

/-- A safety function beyond its registers. -/
structure SfFn where
  chA : SfChan
  chB : SfChan
  chC : SfChan
  chD : SfChan
  /-- the reset input; of two-hand control, whether its contacts are valid -/
  rst : SfChan
  /-- elapsed time since which the reset input reads 1 -/
  pressAt : Option Nat
  /-- the one reset after a start is still to come (R446) -/
  needReset : Bool
  /-- discrepancy timing since, per pair -/
  disc0 : Option Nat
  disc1 : Option Nat
  /-- after a discrepancy fault: demanded together was read, then healthy together -/
  sawDem : Bool
  sawHealthy : Bool
  /-- first press of a two-hand actuation -/
  firstPress : Option Nat
  /-- an OSSD reads 0 alone since -/
  ossdA : Option Nat
  ossdB : Option Nat
  testA : Option SfTest
  testB : Option SfTest
  /-- reset-time test: 0 none, 1 IN_A under way or due, 2 IN_B due or under way; when the next pulse is due -/
  phase : Nat
  due : Nat
  deriving DecidableEq, Repr

def SfFn.init : SfFn :=
  { chA := SfChan.init, chB := SfChan.init, chC := SfChan.init, chD := SfChan.init, rst := ⟨false, 0⟩, pressAt := none,
    needReset := true, disc0 := none, disc1 := none, sawDem := false, sawHealthy := false, firstPress := none,
    ossdA := none, ossdB := none, testA := none, testB := none, phase := 0, due := 0 }

/-- The safety partition beyond its registers. -/
structure SfSt where
  fn : AMap SfFn
  /-- index of the last evaluation cycle plus one -/
  cycleAt : Nat
  /-- readback checks pending: output, elapsed time of its switch-off -/
  checks : AMap Nat
  /-- OTE is held off until RESET_N (R452) -/
  oteOff : Bool
  /-- the CRC is still to be recomputed after a commit (R457) -/
  crcDue : Option Nat
  /-- pulse sources driven dark: end of the pulse, elapsed; second of the last periodic pulse plus one -/
  dark : AMap Nat
  pulseSec : AMap Nat
  deriving DecidableEq, Repr

def SfSt.init : SfSt := ⟨[], 0, [], false, none, [], []⟩

end Sys2Proof.Machine
end

