-- ==== Sys2Proof/Machine/Regs.lean ====
section
/-! DEFINITION. The register map: every field of every object and BAR0 register of the field maps of spec/,
one constant per field, and the object table (Tables 5.10, 6.9, 8.9, 9.10, 10.10 and R141, R170, R272, R305,
R325, R353, R379, R410, R411, R437, R460, R498, R518, R537).  A field is a place (unit, field group, word,
bit range), an access code (Table 0.4) and a reset value (R9); a repeated field has a stride and a count. -/

namespace Sys2Proof.Machine

/-- Access codes of Table 0.4 (a reserved bit is a bit no field names). -/
inductive Acc where
  | rw | ro | w1c | wo
  deriving DecidableEq, Repr

/-- One field of a field map. -/
structure Field where
  unit : Nat
  grp : Nat
  word : Nat
  stride : Nat
  cnt : Nat
  hi : Nat
  lo : Nat
  acc : Acc
  reset : Nat
  deriving DecidableEq, Repr

/-- The word of a field's repetition `k`. -/
def Field.wordAt (f : Field) (k : Nat) : Nat := f.word + f.stride * k

/-- One object (a field group of a unit): its words, the index range in each variant (`hi + 1`, 0 for absent;
Table 0.1), a second range present in every variant, and its fields. -/
structure ObjSpec where
  unit : Nat
  grp : Nat
  nwords : Nat
  lo : Nat
  n9640 : Nat
  n9632 : Nat
  n9616 : Nat
  exLo : Nat
  exHi : Nat
  fields : List Field
  deriving DecidableEq, Repr

/-! KP_WAKE: Table 2.5, 02_modes_and_startup.md. -/
def KP_WAKE_ALARM_EN : Field := ⟨1, 1, 0, 0, 1, 31, 31, .rw, 0⟩
def KP_WAKE_WAKEN_EN : Field := ⟨1, 1, 0, 0, 1, 30, 30, .rw, 1⟩
def KP_WAKE_DI_EN : Field := ⟨1, 1, 0, 0, 1, 29, 29, .rw, 0⟩
def KP_WAKE_HOST_EN : Field := ⟨1, 1, 0, 0, 1, 28, 28, .rw, 1⟩
def KP_WAKE_FLD_EN : Field := ⟨1, 1, 0, 0, 1, 27, 27, .rw, 1⟩
def KP_WAKE_DI_MASK_LO : Field := ⟨1, 1, 1, 0, 1, 31, 0, .rw, 0⟩
def KP_WAKE_DI_MASK_HI : Field := ⟨1, 1, 2, 0, 1, 15, 0, .rw, 0⟩
def KP_WAKE_ALARM_SEC : Field := ⟨1, 1, 3, 0, 1, 31, 0, .rw, 0⟩
def KP_WAKE_ALARM_TICK : Field := ⟨1, 1, 4, 0, 1, 14, 0, .rw, 0⟩
def KP_WAKE_CAUSE : Field := ⟨1, 1, 5, 0, 1, 7, 0, .w1c, 0⟩
/-! MB_CAP: Table 3.9, 03_captain_mailbox.md. -/
def MB_CAP_PART : Field := ⟨2, 0, 0, 0, 1, 31, 16, .ro, 0⟩
def MB_CAP_STEPPING : Field := ⟨2, 0, 0, 0, 1, 15, 8, .ro, 0⟩
def MB_CAP_FWMAJ : Field := ⟨2, 0, 0, 0, 1, 7, 4, .ro, 0⟩
def MB_CAP_N_CONV : Field := ⟨2, 0, 1, 0, 1, 31, 24, .ro, 0⟩
def MB_CAP_N_AIN : Field := ⟨2, 0, 1, 0, 1, 23, 16, .ro, 0⟩
def MB_CAP_N_VCH : Field := ⟨2, 0, 1, 0, 1, 15, 8, .ro, 0⟩
def MB_CAP_N_LGCORE : Field := ⟨2, 0, 1, 0, 1, 7, 0, .ro, 0⟩
def MB_CAP_N_PE : Field := ⟨2, 0, 2, 0, 1, 31, 16, .ro, 0⟩
def MB_CAP_N_TRIPCH : Field := ⟨2, 0, 2, 0, 1, 15, 8, .ro, 0⟩
def MB_CAP_N_BRK : Field := ⟨2, 0, 2, 0, 1, 7, 0, .ro, 0⟩
def MB_CAP_N_LOOP : Field := ⟨2, 0, 3, 0, 1, 31, 16, .ro, 0⟩
def MB_CAP_N_AXIS : Field := ⟨2, 0, 3, 0, 1, 15, 8, .ro, 0⟩
def MB_CAP_N_LANE : Field := ⟨2, 0, 3, 0, 1, 7, 0, .ro, 0⟩
def MB_CAP_SF : Field := ⟨2, 0, 4, 0, 1, 7, 7, .ro, 0⟩
def MB_CAP_ZONEDIFF : Field := ⟨2, 0, 4, 0, 1, 6, 6, .ro, 0⟩
def MB_CAP_TWIN : Field := ⟨2, 0, 4, 0, 1, 5, 5, .ro, 0⟩
def MB_CAP_FCBANK : Field := ⟨2, 0, 4, 0, 1, 4, 4, .ro, 0⟩
def MB_CAP_N_ARCH : Field := ⟨2, 0, 4, 0, 1, 3, 2, .ro, 0⟩
def MB_CAP_N_RBDEV : Field := ⟨2, 0, 5, 0, 1, 31, 16, .ro, 0⟩
def MB_CAP_N_STATION : Field := ⟨2, 0, 5, 0, 1, 15, 0, .ro, 0⟩
def MB_CAP_N_POINT : Field := ⟨2, 0, 6, 0, 1, 31, 0, .ro, 0⟩
def MB_CAP_N_RING : Field := ⟨2, 0, 7, 0, 1, 31, 24, .ro, 0⟩
def MB_CAP_N_CREDIT : Field := ⟨2, 0, 7, 0, 1, 23, 16, .ro, 0⟩
def MB_CAP_FWMIN : Field := ⟨2, 0, 7, 0, 1, 15, 0, .ro, 0⟩
def MB_CAP_SDRAM_MIB : Field := ⟨2, 0, 8, 0, 1, 31, 0, .ro, 0⟩
def MB_CAP_SERIAL : Field := ⟨2, 0, 9, 1, 2, 31, 0, .ro, 0⟩
def MB_CAP_OPENED : Field := ⟨2, 0, 11, 0, 1, 0, 0, .ro, 0⟩
/-! MB_MODECFG: Table 2.3, 02_modes_and_startup.md. -/
def MB_MODECFG_TRAIN_TIMEOUT : Field := ⟨2, 1, 0, 0, 1, 31, 16, .rw, 0x3e8⟩
def MB_MODECFG_START_COMM : Field := ⟨2, 1, 0, 0, 1, 3, 3, .rw, 0⟩
def MB_MODECFG_SENT_EN : Field := ⟨2, 1, 0, 0, 1, 2, 2, .rw, 0⟩
def MB_MODECFG_TO_POLICY : Field := ⟨2, 1, 0, 0, 1, 1, 0, .rw, 0⟩
def MB_MODECFG_REQ_LANE : Field := ⟨2, 1, 1, 0, 1, 19, 4, .rw, 0⟩
/-! MB_MODESTAT: Table 2.4, 02_modes_and_startup.md. -/
def MB_MODESTAT_CAUSE : Field := ⟨2, 2, 0, 0, 1, 31, 24, .ro, 0⟩
def MB_MODESTAT_BOOTSTAT : Field := ⟨2, 2, 0, 0, 1, 23, 16, .ro, 0⟩
def MB_MODESTAT_PEND : Field := ⟨2, 2, 0, 0, 1, 11, 11, .ro, 0⟩
def MB_MODESTAT_TARGET : Field := ⟨2, 2, 0, 0, 1, 10, 8, .ro, 0⟩
def MB_MODESTAT_PREV : Field := ⟨2, 2, 0, 0, 1, 5, 3, .ro, 0⟩
def MB_MODESTAT_MODE : Field := ⟨2, 2, 0, 0, 1, 2, 0, .ro, 1⟩
def MB_MODESTAT_ENTRY_TIME : Field := ⟨2, 2, 1, 1, 2, 31, 0, .ro, 0⟩
/-! AF_CORE: Table 5.11, 05_analog_front_end.md. -/
def AF_CORE_EN : Field := ⟨8, 1, 0, 0, 1, 31, 31, .rw, 0⟩
def AF_CORE_REF_EN : Field := ⟨8, 1, 0, 0, 1, 30, 30, .rw, 0⟩
def AF_CORE_MODE : Field := ⟨8, 1, 0, 0, 1, 29, 28, .rw, 0⟩
def AF_CORE_TWIN : Field := ⟨8, 1, 0, 0, 1, 27, 27, .rw, 0⟩
def AF_CORE_TWIN_CH : Field := ⟨8, 1, 0, 0, 1, 26, 25, .rw, 0⟩
def AF_CORE_TRIG_CTR : Field := ⟨8, 1, 0, 0, 1, 21, 21, .rw, 0⟩
def AF_CORE_TRIG : Field := ⟨8, 1, 0, 0, 1, 20, 16, .rw, 0⟩
def AF_CORE_DELAY : Field := ⟨8, 1, 0, 0, 1, 15, 0, .rw, 0⟩
def AF_CORE_SCAN : Field := ⟨8, 1, 1, 0, 1, 3, 0, .rw, 0⟩
def AF_CORE_REF_OK : Field := ⟨8, 1, 2, 0, 1, 31, 31, .ro, 0⟩
def AF_CORE_LIVE : Field := ⟨8, 1, 2, 0, 1, 30, 28, .ro, 4⟩
def AF_CORE_LOST : Field := ⟨8, 1, 2, 0, 1, 27, 27, .ro, 0⟩
def AF_CORE_OVRUN : Field := ⟨8, 1, 2, 0, 1, 15, 0, .ro, 0⟩
def AF_CORE_RESULT : Field := ⟨8, 1, 4, 1, 4, 31, 0, .ro, 0⟩
def AF_CORE_SCAN_NS : Field := ⟨8, 1, 8, 0, 1, 29, 0, .ro, 0⟩
/-! AF_HEALTH: Table 5.15, 05_analog_front_end.md. -/
def AF_HEALTH_STATE : Field := ⟨8, 2, 0, 1, 4, 31, 30, .ro, 0⟩
def AF_HEALTH_CAUSE : Field := ⟨8, 2, 0, 1, 4, 29, 24, .ro, 0⟩
def AF_HEALTH_OFS : Field := ⟨8, 2, 0, 1, 4, 23, 16, .ro, 0⟩
def AF_HEALTH_GAIN : Field := ⟨8, 2, 0, 1, 4, 15, 8, .ro, 0⟩
def AF_HEALTH_SKEW : Field := ⟨8, 2, 0, 1, 4, 7, 0, .ro, 0⟩
/-! AF_CHAN: Table 5.12, 05_analog_front_end.md. -/
def AF_CHAN_KIND : Field := ⟨8, 0x10, 0, 0, 1, 31, 30, .rw, 0⟩
def AF_CHAN_GAIN : Field := ⟨8, 0x10, 0, 0, 1, 29, 28, .rw, 0⟩
def AF_CHAN_CAL_SEL : Field := ⟨8, 0x10, 0, 0, 1, 27, 27, .rw, 0⟩
def AF_CHAN_SNT_EN : Field := ⟨8, 0x10, 0, 0, 1, 26, 26, .rw, 0⟩
def AF_CHAN_SNT_LINE : Field := ⟨8, 0x10, 0, 0, 1, 25, 23, .rw, 0⟩
def AF_CHAN_WAKE_THR : Field := ⟨8, 0x10, 0, 0, 1, 15, 8, .rw, 0⟩
def AF_CHAN_TRIP_THR : Field := ⟨8, 0x10, 0, 0, 1, 7, 0, .rw, 0⟩
def AF_CHAN_OVR_SEEN : Field := ⟨8, 0x10, 1, 0, 1, 31, 31, .w1c, 0⟩
def AF_CHAN_WAKE_SEEN : Field := ⟨8, 0x10, 1, 0, 1, 30, 30, .w1c, 0⟩
def AF_CHAN_TRIP_SEEN : Field := ⟨8, 0x10, 1, 0, 1, 29, 29, .w1c, 0⟩
def AF_CHAN_REASON : Field := ⟨8, 0x10, 1, 0, 1, 27, 24, .ro, 1⟩
def AF_CHAN_POS : Field := ⟨8, 0x10, 1, 0, 1, 23, 22, .ro, 0⟩
def AF_CHAN_SPACING : Field := ⟨8, 0x10, 1, 0, 1, 21, 0, .ro, 0⟩
/-! AF_CAL: Table 5.13, 05_analog_front_end.md. -/
def AF_CAL_OFS : Field := ⟨8, 0x11, 0, 2, 4, 15, 0, .rw, 0⟩
def AF_CAL_GN : Field := ⟨8, 0x11, 1, 2, 4, 23, 0, .rw, 0x400000⟩
def AF_CAL_STAMP : Field := ⟨8, 0x11, 8, 0, 1, 31, 0, .ro, 0⟩
/-! AF_CALF: Table 5.13, 05_analog_front_end.md. -/
def AF_CALF_OFS : Field := ⟨8, 0x12, 0, 2, 4, 15, 0, .ro, 0⟩
def AF_CALF_GN : Field := ⟨8, 0x12, 1, 2, 4, 23, 0, .ro, 0x400000⟩
def AF_CALF_STAMP : Field := ⟨8, 0x12, 8, 0, 1, 31, 0, .ro, 0⟩
/-! AF_TMR: Table 5.14, 05_analog_front_end.md. -/
def AF_TMR_EN : Field := ⟨8, 0x20, 0, 0, 1, 31, 31, .rw, 0⟩
def AF_TMR_PERIOD : Field := ⟨8, 0x20, 1, 0, 1, 31, 0, .rw, 0⟩
/-! AF_URG: Table 5.14, 05_analog_front_end.md. -/
def AF_URG_EN : Field := ⟨8, 0x21, 0, 0, 1, 31, 31, .rw, 0⟩
def AF_URG_CHAN : Field := ⟨8, 0x21, 0, 0, 1, 29, 24, .rw, 0⟩
def AF_URG_TRIG_CTR : Field := ⟨8, 0x21, 0, 0, 1, 21, 21, .rw, 0⟩
def AF_URG_TRIG : Field := ⟨8, 0x21, 0, 0, 1, 20, 16, .rw, 0⟩
def AF_URG_DELAY : Field := ⟨8, 0x21, 0, 0, 1, 15, 0, .rw, 0⟩
def AF_URG_COUNT : Field := ⟨8, 0x21, 1, 0, 1, 31, 0, .ro, 0⟩
def AF_URG_RESULT : Field := ⟨8, 0x21, 2, 0, 1, 31, 0, .ro, 0⟩
def AF_URG_SLOT_NS : Field := ⟨8, 0x21, 3, 0, 1, 29, 0, .ro, 0⟩
/-! AF_ARC: Table 5.14, 05_analog_front_end.md. -/
def AF_ARC_SUP_EN : Field := ⟨8, 0x30, 0, 0, 1, 31, 31, .rw, 0⟩
def AF_ARC_THR : Field := ⟨8, 0x30, 0, 0, 1, 7, 0, .rw, 0⟩
def AF_ARC_LIGHT : Field := ⟨8, 0x30, 1, 0, 1, 31, 31, .ro, 0⟩
def AF_ARC_SEEN : Field := ⟨8, 0x30, 1, 0, 1, 30, 30, .w1c, 0⟩
def AF_ARC_SUP : Field := ⟨8, 0x30, 1, 0, 1, 29, 28, .ro, 0⟩
/-! FC_CHAN: Table 6.10, 06_filter_chains.md. -/
def FC_CHAN_RATE : Field := ⟨9, 1, 0, 0, 1, 31, 30, .rw, 0⟩
def FC_CHAN_DESKEW : Field := ⟨9, 1, 0, 0, 1, 29, 29, .rw, 1⟩
def FC_CHAN_RESP : Field := ⟨9, 1, 0, 0, 1, 27, 24, .rw, 0⟩
def FC_CHAN_SWAP_GRP : Field := ⟨9, 1, 0, 0, 1, 23, 20, .rw, 0⟩
def FC_CHAN_TRACK : Field := ⟨9, 1, 0, 0, 1, 19, 17, .rw, 0⟩
def FC_CHAN_PHASE_TRIM : Field := ⟨9, 1, 0, 0, 1, 16, 0, .rw, 0⟩
def FC_CHAN_ACT_BANK : Field := ⟨9, 1, 1, 0, 1, 31, 31, .ro, 0⟩
def FC_CHAN_SWAP_PEND : Field := ⟨9, 1, 1, 0, 1, 30, 30, .ro, 0⟩
def FC_CHAN_PHASE_EFF : Field := ⟨9, 1, 1, 0, 1, 16, 0, .ro, 0⟩
def FC_CHAN_FINE_STAT : Field := ⟨9, 1, 2, 0, 1, 31, 0, .ro, 0x84000000⟩
def FC_CHAN_FINE_LAST : Field := ⟨9, 1, 3, 0, 1, 31, 0, .ro, 0x80000000⟩
def FC_CHAN_FAST_STAT : Field := ⟨9, 1, 4, 0, 1, 31, 0, .ro, 0x84000000⟩
def FC_CHAN_FAST_LAST : Field := ⟨9, 1, 5, 0, 1, 31, 0, .ro, 0x80000000⟩
/-! FC_BANKA: Table 6.11, 06_filter_chains.md. -/
def FC_BANKA_RATE : Field := ⟨9, 2, 0, 0, 1, 31, 30, .rw, 0⟩
def FC_BANKA_NCOEF : Field := ⟨9, 2, 0, 0, 1, 9, 0, .rw, 0x7a⟩
def FC_BANKA_CRC : Field := ⟨9, 2, 1, 0, 1, 31, 0, .rw, 0⟩
def FC_BANKA_COEF : Field := ⟨9, 2, 2, 1, 997, 23, 0, .rw, 0⟩
/-! FC_BANKB: Table 6.11, 06_filter_chains.md. -/
def FC_BANKB_RATE : Field := ⟨9, 3, 0, 0, 1, 31, 30, .rw, 0⟩
def FC_BANKB_NCOEF : Field := ⟨9, 3, 0, 0, 1, 9, 0, .rw, 0x7a⟩
def FC_BANKB_CRC : Field := ⟨9, 3, 1, 0, 1, 31, 0, .rw, 0⟩
def FC_BANKB_COEF : Field := ⟨9, 3, 2, 1, 997, 23, 0, .rw, 0⟩
/-! FC_GRP: Table 6.12, 06_filter_chains.md. -/
def FC_GRP_PEND : Field := ⟨9, 4, 0, 0, 1, 31, 31, .ro, 0⟩
def FC_GRP_BANK : Field := ⟨9, 4, 0, 0, 1, 30, 30, .ro, 0⟩
def FC_GRP_SWAP_SEC : Field := ⟨9, 4, 1, 0, 1, 31, 0, .ro, 0⟩
/-! FC_VCH: Table 6.12, 06_filter_chains.md. -/
def FC_VCH_EN : Field := ⟨9, 5, 0, 0, 1, 31, 31, .rw, 0⟩
def FC_VCH_ACCEPT_TEST : Field := ⟨9, 5, 0, 0, 1, 30, 30, .rw, 0⟩
def FC_VCH_STR : Field := ⟨9, 5, 0, 0, 1, 29, 25, .rw, 0⟩
def FC_VCH_QTY : Field := ⟨9, 5, 0, 0, 1, 24, 22, .rw, 0⟩
def FC_VCH_LAT : Field := ⟨9, 5, 0, 0, 1, 8, 0, .rw, 0x20⟩
def FC_VCH_FS : Field := ⟨9, 5, 1, 0, 1, 31, 0, .rw, 1⟩
/-! FC_TRACK: Table 6.12, 06_filter_chains.md. -/
def FC_TRACK_EN : Field := ⟨9, 6, 0, 0, 1, 31, 31, .rw, 0⟩
def FC_TRACK_NOM : Field := ⟨9, 6, 0, 0, 1, 30, 30, .rw, 0⟩
def FC_TRACK_SRC2 : Field := ⟨9, 6, 0, 0, 1, 13, 7, .rw, 0x7f⟩
def FC_TRACK_SRC : Field := ⟨9, 6, 0, 0, 1, 6, 0, .rw, 0⟩
def FC_TRACK_FREQ : Field := ⟨9, 6, 1, 0, 1, 31, 0, .ro, 0x2faf080⟩
def FC_TRACK_STATE : Field := ⟨9, 6, 2, 0, 1, 31, 30, .ro, 0⟩
/-! FC_SVSTR: Table 6.12, 06_filter_chains.md. -/
def FC_SVSTR_EN : Field := ⟨9, 7, 0, 0, 1, 31, 31, .rw, 0⟩
def FC_SVSTR_SPC : Field := ⟨9, 7, 0, 0, 1, 30, 30, .rw, 0⟩
def FC_SVSTR_NOMF : Field := ⟨9, 7, 0, 0, 1, 29, 29, .rw, 0⟩
def FC_SVSTR_APPID : Field := ⟨9, 7, 0, 0, 1, 15, 0, .rw, 0x4000⟩
def FC_SVSTR_MAC_HI : Field := ⟨9, 7, 1, 0, 1, 31, 0, .rw, 0⟩
def FC_SVSTR_MAC_LO : Field := ⟨9, 7, 2, 0, 1, 31, 16, .rw, 0⟩
def FC_SVSTR_CONFREV : Field := ⟨9, 7, 3, 0, 1, 31, 0, .rw, 1⟩
def FC_SVSTR_STATE : Field := ⟨9, 7, 4, 0, 1, 31, 30, .ro, 0⟩
def FC_SVSTR_DROP : Field := ⟨9, 7, 5, 0, 1, 31, 0, .ro, 0⟩
/-! PE_ELEM: Table 7.2, 07_protection_elements.md. -/
def PE_ELEM_EN : Field := ⟨0x10, 1, 0, 0, 1, 31, 31, .rw, 0⟩
def PE_ELEM_TYPE : Field := ⟨0x10, 1, 0, 0, 1, 30, 24, .rw, 0⟩
def PE_ELEM_MEAS : Field := ⟨0x10, 1, 0, 0, 1, 21, 16, .rw, 0⟩
def PE_ELEM_QTY : Field := ⟨0x10, 1, 0, 0, 1, 15, 12, .rw, 0⟩
def PE_ELEM_EST : Field := ⟨0x10, 1, 0, 0, 1, 11, 11, .rw, 0⟩
def PE_ELEM_EVT : Field := ⟨0x10, 1, 0, 0, 1, 10, 10, .rw, 0⟩
def PE_ELEM_BLKA : Field := ⟨0x10, 1, 1, 0, 1, 31, 16, .rw, 0⟩
def PE_ELEM_BLKB_KIND : Field := ⟨0x10, 1, 1, 0, 1, 15, 14, .rw, 0⟩
def PE_ELEM_BLKB_INV : Field := ⟨0x10, 1, 1, 0, 1, 13, 13, .rw, 0⟩
def PE_ELEM_BLKB_INDEX : Field := ⟨0x10, 1, 1, 0, 1, 10, 0, .rw, 0⟩
def PE_ELEM_P : Field := ⟨0x10, 1, 2, 1, 12, 31, 0, .rw, 0⟩
/-! PE_ESTAT: Table 7.3, 07_protection_elements.md. -/
def PE_ESTAT_PU : Field := ⟨0x10, 2, 0, 0, 1, 31, 31, .ro, 0⟩
def PE_ESTAT_OP : Field := ⟨0x10, 2, 0, 0, 1, 30, 30, .ro, 0⟩
def PE_ESTAT_QBLK : Field := ⟨0x10, 2, 0, 0, 1, 29, 29, .ro, 0⟩
def PE_ESTAT_BLKD : Field := ⟨0x10, 2, 0, 0, 1, 28, 28, .ro, 0⟩
def PE_ESTAT_PU_PH : Field := ⟨0x10, 2, 0, 0, 1, 27, 25, .ro, 0⟩
def PE_ESTAT_OP_PH : Field := ⟨0x10, 2, 0, 0, 1, 24, 22, .ro, 0⟩
def PE_ESTAT_OVR : Field := ⟨0x10, 2, 0, 0, 1, 21, 21, .ro, 0⟩
def PE_ESTAT_RSTR : Field := ⟨0x10, 2, 0, 0, 1, 20, 20, .ro, 0⟩
def PE_ESTAT_STATE : Field := ⟨0x10, 2, 0, 0, 1, 19, 16, .ro, 0⟩
def PE_ESTAT_ACC : Field := ⟨0x10, 2, 1, 0, 1, 31, 0, .ro, 0⟩
def PE_ESTAT_VAL : Field := ⟨0x10, 2, 2, 0, 1, 23, 0, .ro, 0⟩
def PE_ESTAT_OP_NS : Field := ⟨0x10, 2, 3, 0, 1, 29, 0, .ro, 0⟩
def PE_ESTAT_OP_SEC : Field := ⟨0x10, 2, 4, 0, 1, 31, 0, .ro, 0⟩
/-! PE_MEAS: Table 7.4, 07_protection_elements.md. -/
def PE_MEAS_EN : Field := ⟨0x10, 0x10, 0, 0, 1, 31, 31, .rw, 0⟩
def PE_MEAS_KIND : Field := ⟨0x10, 0x10, 0, 0, 1, 30, 30, .rw, 0⟩
def PE_MEAS_ROT : Field := ⟨0x10, 0x10, 0, 0, 1, 29, 29, .rw, 0⟩
def PE_MEAS_VCONN : Field := ⟨0x10, 0x10, 0, 0, 1, 28, 28, .rw, 0⟩
def PE_MEAS_CH_A : Field := ⟨0x10, 0x10, 1, 0, 1, 30, 24, .rw, 0⟩
def PE_MEAS_CH_B : Field := ⟨0x10, 0x10, 1, 0, 1, 22, 16, .rw, 0⟩
def PE_MEAS_CH_C : Field := ⟨0x10, 0x10, 1, 0, 1, 14, 8, .rw, 0⟩
def PE_MEAS_CH_N : Field := ⟨0x10, 0x10, 1, 0, 1, 6, 0, .rw, 0⟩
/-! PE_UCURVE: Table 7.15, 07_protection_elements.md. -/
def PE_UCURVE_NPTS : Field := ⟨0x10, 0x20, 0, 0, 1, 5, 0, .rw, 0⟩
def PE_UCURVE_M : Field := ⟨0x10, 0x20, 1, 2, 32, 31, 0, .rw, 0⟩
def PE_UCURVE_T : Field := ⟨0x10, 0x20, 2, 2, 32, 31, 0, .rw, 0⟩
/-! PE_XBLK: Table 7.15, 07_protection_elements.md. -/
def PE_XBLK_BITS_LO : Field := ⟨0x10, 0x30, 0, 0, 1, 31, 0, .rw, 0⟩
def PE_XBLK_BITS_HI : Field := ⟨0x10, 0x30, 1, 0, 1, 31, 0, .rw, 0⟩
/-! TM_CTL: Table 8.10, 08_trip_path.md. -/
def TM_CTL_RST_MASK : Field := ⟨0x11, 0, 0, 0, 1, 31, 0, .wo, 0⟩
/-! TM_TCH: Table 8.10, 08_trip_path.md. -/
def TM_TCH_LATCH : Field := ⟨0x11, 1, 0, 0, 1, 31, 30, .rw, 0⟩
def TM_TCH_TBLK : Field := ⟨0x11, 1, 0, 0, 1, 29, 29, .rw, 0⟩
def TM_TCH_TA : Field := ⟨0x11, 1, 0, 0, 1, 28, 28, .rw, 0⟩
def TM_TCH_RB : Field := ⟨0x11, 1, 0, 0, 1, 27, 27, .rw, 0⟩
def TM_TCH_GOOSE : Field := ⟨0x11, 1, 0, 0, 1, 26, 26, .rw, 0⟩
def TM_TCH_OUT : Field := ⟨0x11, 1, 0, 0, 1, 15, 8, .rw, 0⟩
def TM_TCH_RST_X : Field := ⟨0x11, 1, 0, 0, 1, 6, 0, .rw, 0x7f⟩
def TM_TCH_MIN_ON : Field := ⟨0x11, 1, 1, 0, 1, 31, 0, .rw, 0⟩
def TM_TCH_ASSERTED : Field := ⟨0x11, 1, 2, 0, 1, 31, 31, .ro, 0⟩
def TM_TCH_LATCHED : Field := ⟨0x11, 1, 2, 0, 1, 30, 30, .ro, 0⟩
def TM_TCH_SRC : Field := ⟨0x11, 1, 2, 0, 1, 29, 29, .ro, 0⟩
def TM_TCH_TBLK_EFF : Field := ⟨0x11, 1, 2, 0, 1, 28, 28, .ro, 0⟩
def TM_TCH_TBLK_PEND : Field := ⟨0x11, 1, 2, 0, 1, 27, 27, .ro, 0⟩
def TM_TCH_RSTIGN : Field := ⟨0x11, 1, 2, 0, 1, 23, 16, .ro, 0⟩
def TM_TCH_COUNT : Field := ⟨0x11, 1, 2, 0, 1, 15, 0, .ro, 0⟩
def TM_TCH_LAST_NS : Field := ⟨0x11, 1, 3, 0, 1, 29, 0, .ro, 0⟩
def TM_TCH_LAST_SEC : Field := ⟨0x11, 1, 4, 0, 1, 31, 0, .ro, 0⟩
/-! TM_MASK: Table 8.1, 08_trip_path.md. -/
def TM_MASK_W : Field := ⟨0x11, 2, 0, 1, 134, 31, 0, .rw, 0⟩
/-! TM_BRK: Table 8.11, 08_trip_path.md. -/
def TM_BRK_EN : Field := ⟨0x11, 0x10, 0, 0, 1, 31, 31, .rw, 0⟩
def TM_BRK_BF_MODE : Field := ⟨0x11, 0x10, 0, 0, 1, 30, 29, .rw, 0⟩
def TM_BRK_RT_EN : Field := ⟨0x11, 0x10, 0, 0, 1, 28, 28, .rw, 0⟩
def TM_BRK_BF_NOSEAL : Field := ⟨0x11, 0x10, 0, 0, 1, 27, 27, .rw, 0⟩
def TM_BRK_CUR_GRP : Field := ⟨0x11, 0x10, 0, 0, 1, 26, 21, .rw, 0⟩
def TM_BRK_AUXA : Field := ⟨0x11, 0x10, 0, 0, 1, 20, 14, .rw, 0x7f⟩
def TM_BRK_AUXB : Field := ⟨0x11, 0x10, 0, 0, 1, 13, 7, .rw, 0x7f⟩
def TM_BRK_BFI_X : Field := ⟨0x11, 0x10, 0, 0, 1, 6, 0, .rw, 0x7f⟩
def TM_BRK_TRIP_MASK : Field := ⟨0x11, 0x10, 1, 0, 1, 31, 0, .rw, 0⟩
def TM_BRK_IBF : Field := ⟨0x11, 0x10, 2, 0, 1, 23, 0, .rw, 0⟩
def TM_BRK_RT_T : Field := ⟨0x11, 0x10, 3, 0, 1, 31, 0, .rw, 0⟩
def TM_BRK_BF_T : Field := ⟨0x11, 0x10, 4, 0, 1, 31, 0, .rw, 0⟩
def TM_BRK_CCW : Field := ⟨0x11, 0x10, 5, 0, 1, 31, 0, .rw, 0⟩
def TM_BRK_DISC_T : Field := ⟨0x11, 0x10, 6, 0, 1, 31, 16, .rw, 0⟩
def TM_BRK_CLOSE_DO : Field := ⟨0x11, 0x10, 6, 0, 1, 15, 10, .rw, 0x3f⟩
def TM_BRK_INH_EN : Field := ⟨0x11, 0x10, 7, 0, 1, 31, 31, .rw, 0⟩
def TM_BRK_CUR_EN : Field := ⟨0x11, 0x10, 7, 0, 1, 30, 30, .rw, 0⟩
def TM_BRK_INH_EL : Field := ⟨0x11, 0x10, 7, 0, 1, 10, 0, .rw, 0⟩
/-! TM_BRKST: Table 8.11, 08_trip_path.md. -/
def TM_BRKST_POS : Field := ⟨0x11, 0x11, 0, 0, 1, 31, 30, .ro, 0⟩
def TM_BRKST_TRIP : Field := ⟨0x11, 0x11, 0, 0, 1, 29, 29, .ro, 0⟩
def TM_BRKST_CUR : Field := ⟨0x11, 0x11, 0, 0, 1, 28, 28, .ro, 0⟩
def TM_BRKST_CUR_Q : Field := ⟨0x11, 0x11, 0, 0, 1, 27, 27, .ro, 0⟩
def TM_BRKST_BF_RUN : Field := ⟨0x11, 0x11, 0, 0, 1, 26, 26, .ro, 0⟩
def TM_BRKST_RETRIP : Field := ⟨0x11, 0x11, 0, 0, 1, 25, 25, .ro, 0⟩
def TM_BRKST_BACKUP : Field := ⟨0x11, 0x11, 0, 0, 1, 24, 24, .ro, 0⟩
def TM_BRKST_CLOSE_INH : Field := ⟨0x11, 0x11, 0, 0, 1, 23, 23, .ro, 0⟩
def TM_BRKST_EN : Field := ⟨0x11, 0x11, 0, 0, 1, 22, 22, .ro, 0⟩
def TM_BRKST_TRIPS : Field := ⟨0x11, 0x11, 1, 0, 1, 31, 16, .ro, 0⟩
def TM_BRKST_BFOPS : Field := ⟨0x11, 0x11, 1, 0, 1, 15, 0, .ro, 0⟩
def TM_BRKST_CLR_US : Field := ⟨0x11, 0x11, 2, 0, 1, 31, 0, .ro, 0⟩
def TM_BRKST_BF_SEEN : Field := ⟨0x11, 0x11, 3, 0, 1, 31, 31, .w1c, 0⟩
def TM_BRKST_RT_SEEN : Field := ⟨0x11, 0x11, 3, 0, 1, 30, 30, .w1c, 0⟩
def TM_BRKST_DISC_SEEN : Field := ⟨0x11, 0x11, 3, 0, 1, 29, 29, .w1c, 0⟩
/-! TM_ZONE: Table 8.12, 08_trip_path.md. -/
def TM_ZONE_EN : Field := ⟨0x11, 0x20, 0, 0, 1, 31, 31, .rw, 0⟩
def TM_ZONE_LAT : Field := ⟨0x11, 0x20, 0, 0, 1, 30, 28, .rw, 0⟩
def TM_ZONE_RATE : Field := ⟨0x11, 0x20, 0, 0, 1, 27, 26, .rw, 0⟩
def TM_ZONE_ZID : Field := ⟨0x11, 0x20, 0, 0, 1, 15, 0, .rw, 0⟩
def TM_ZONE_CRC : Field := ⟨0x11, 0x20, 1, 0, 1, 31, 0, .ro, 0⟩
def TM_ZONE_SLOT_EN : Field := ⟨0x11, 0x20, 2, 2, 64, 31, 31, .rw, 0⟩
def TM_ZONE_POL : Field := ⟨0x11, 0x20, 2, 2, 64, 30, 30, .rw, 0⟩
def TM_ZONE_DEVID : Field := ⟨0x11, 0x20, 2, 2, 64, 25, 16, .rw, 0⟩
def TM_ZONE_GROUP : Field := ⟨0x11, 0x20, 2, 2, 64, 5, 0, .rw, 0⟩
def TM_ZONE_TAP : Field := ⟨0x11, 0x20, 3, 2, 64, 23, 0, .rw, 0x100000⟩
/-! TM_ZSTAT: Table 8.12, 08_trip_path.md. -/
def TM_ZSTAT_BLK : Field := ⟨0x11, 0x21, 0, 0, 1, 31, 31, .ro, 1⟩
def TM_ZSTAT_CAUSE : Field := ⟨0x11, 0x21, 0, 0, 1, 30, 24, .ro, 8⟩
def TM_ZSTAT_FIRST_DEV : Field := ⟨0x11, 0x21, 0, 0, 1, 9, 0, .ro, 0⟩
def TM_ZSTAT_GAPS : Field := ⟨0x11, 0x21, 1, 0, 1, 31, 0, .ro, 0⟩
def TM_ZSTAT_LATE : Field := ⟨0x11, 0x21, 2, 0, 1, 31, 0, .ro, 0⟩
def TM_ZSTAT_SLOT_OK : Field := ⟨0x11, 0x21, 3, 1, 2, 31, 0, .ro, 0⟩
/-! TM_XIN: Table 8.12, 08_trip_path.md. -/
def TM_XIN_BITS_LO : Field := ⟨0x11, 0x30, 0, 0, 1, 31, 0, .rw, 0⟩
def TM_XIN_BITS_HI : Field := ⟨0x11, 0x30, 1, 0, 1, 31, 0, .rw, 0⟩
/-! TM_RX: Table 8.12, 08_trip_path.md. -/
def TM_RX_EN : Field := ⟨0x11, 0x31, 0, 0, 1, 31, 31, .rw, 0⟩
def TM_RX_SUBST : Field := ⟨0x11, 0x31, 0, 0, 1, 30, 30, .rw, 0⟩
def TM_RX_DEVID : Field := ⟨0x11, 0x31, 0, 0, 1, 29, 20, .rw, 0⟩
def TM_RX_CH : Field := ⟨0x11, 0x31, 0, 0, 1, 19, 15, .rw, 0⟩
def TM_RX_VAL : Field := ⟨0x11, 0x31, 1, 0, 1, 31, 31, .ro, 0⟩
def TM_RX_STALE : Field := ⟨0x11, 0x31, 1, 0, 1, 30, 30, .ro, 0⟩
/-! LE_LOOP: Table 9.11, 09_loop_engine.md. -/
def LE_LOOP_EN : Field := ⟨0x18, 1, 0, 0, 1, 31, 31, .rw, 0⟩
def LE_LOOP_LAW : Field := ⟨0x18, 1, 0, 0, 1, 30, 29, .rw, 0⟩
def LE_LOOP_RATE : Field := ⟨0x18, 1, 0, 0, 1, 28, 26, .rw, 0⟩
def LE_LOOP_NOTCH : Field := ⟨0x18, 1, 0, 0, 1, 25, 24, .rw, 0⟩
def LE_LOOP_SWAP_GRP : Field := ⟨0x18, 1, 0, 0, 1, 23, 20, .rw, 0⟩
def LE_LOOP_BAD_ACT : Field := ⟨0x18, 1, 0, 0, 1, 19, 18, .rw, 0⟩
def LE_LOOP_FE_ACT : Field := ⟨0x18, 1, 0, 0, 1, 17, 16, .rw, 0⟩
def LE_LOOP_START : Field := ⟨0x18, 1, 0, 0, 1, 15, 14, .rw, 0⟩
def LE_LOOP_AT_PERMIT : Field := ⟨0x18, 1, 0, 0, 1, 13, 13, .rw, 0⟩
def LE_LOOP_BL : Field := ⟨0x18, 1, 0, 0, 1, 12, 12, .rw, 1⟩
def LE_LOOP_PRIO : Field := ⟨0x18, 1, 0, 0, 1, 11, 10, .rw, 0⟩
def LE_LOOP_ACT : Field := ⟨0x18, 1, 0, 0, 1, 9, 9, .rw, 0⟩
def LE_LOOP_PV_SRC : Field := ⟨0x18, 1, 1, 0, 1, 31, 0, .rw, 0⟩
def LE_LOOP_SP_SRC : Field := ⟨0x18, 1, 2, 0, 1, 31, 0, .rw, 0⟩
def LE_LOOP_FF_SRC : Field := ⟨0x18, 1, 3, 0, 1, 31, 0, .rw, 0⟩
def LE_LOOP_TRK_SRC : Field := ⟨0x18, 1, 4, 0, 1, 31, 0, .rw, 0⟩
def LE_LOOP_OUT_DST : Field := ⟨0x18, 1, 5, 0, 1, 31, 0, .rw, 0⟩
def LE_LOOP_CTL_EN : Field := ⟨0x18, 1, 6, 0, 1, 31, 31, .rw, 0⟩
def LE_LOOP_CTL_PT : Field := ⟨0x18, 1, 6, 0, 1, 22, 0, .rw, 0⟩
def LE_LOOP_SAFE_OUT : Field := ⟨0x18, 1, 7, 0, 1, 31, 0, .rw, 0⟩
def LE_LOOP_FE_LIMIT : Field := ⟨0x18, 1, 8, 0, 1, 31, 0, .rw, 0⟩
def LE_LOOP_FE_TIME : Field := ⟨0x18, 1, 9, 0, 1, 31, 0, .rw, 0⟩
def LE_LOOP_PV_GAIN : Field := ⟨0x18, 1, 10, 0, 1, 31, 0, .rw, 0x3f800000⟩
def LE_LOOP_PV_OFS : Field := ⟨0x18, 1, 11, 0, 1, 31, 0, .rw, 0⟩
def LE_LOOP_OUT_GAIN : Field := ⟨0x18, 1, 12, 0, 1, 31, 0, .rw, 0x3f800000⟩
def LE_LOOP_OUT_OFS : Field := ⟨0x18, 1, 13, 0, 1, 31, 0, .rw, 0⟩
/-! LE_BANKA: Table 9.12, 09_loop_engine.md. -/
def LE_BANKA_KP : Field := ⟨0x18, 2, 0, 0, 1, 31, 0, .rw, 0⟩
def LE_BANKA_KI : Field := ⟨0x18, 2, 1, 0, 1, 31, 0, .rw, 0⟩
def LE_BANKA_KD : Field := ⟨0x18, 2, 2, 0, 1, 31, 0, .rw, 0⟩
def LE_BANKA_N : Field := ⟨0x18, 2, 3, 0, 1, 31, 0, .rw, 0⟩
def LE_BANKA_B : Field := ⟨0x18, 2, 4, 0, 1, 31, 0, .rw, 0⟩
def LE_BANKA_C : Field := ⟨0x18, 2, 5, 0, 1, 31, 0, .rw, 0⟩
def LE_BANKA_TT : Field := ⟨0x18, 2, 6, 0, 1, 31, 0, .rw, 0⟩
def LE_BANKA_UMIN : Field := ⟨0x18, 2, 7, 0, 1, 31, 0, .rw, 0⟩
def LE_BANKA_UMAX : Field := ⟨0x18, 2, 8, 0, 1, 31, 0, .rw, 0⟩
def LE_BANKA_RUP : Field := ⟨0x18, 2, 9, 0, 1, 31, 0, .rw, 0⟩
def LE_BANKA_RDN : Field := ⟨0x18, 2, 10, 0, 1, 31, 0, .rw, 0⟩
def LE_BANKA_KFF : Field := ⟨0x18, 2, 11, 0, 1, 31, 0, .rw, 0⟩
def LE_BANKA_N1_F : Field := ⟨0x18, 2, 12, 0, 1, 31, 0, .rw, 0⟩
def LE_BANKA_N1_ZZ : Field := ⟨0x18, 2, 13, 0, 1, 31, 0, .rw, 0⟩
def LE_BANKA_N1_ZP : Field := ⟨0x18, 2, 14, 0, 1, 31, 0, .rw, 0⟩
def LE_BANKA_N2_F : Field := ⟨0x18, 2, 15, 0, 1, 31, 0, .rw, 0⟩
def LE_BANKA_N2_ZZ : Field := ⟨0x18, 2, 16, 0, 1, 31, 0, .rw, 0⟩
def LE_BANKA_N2_ZP : Field := ⟨0x18, 2, 17, 0, 1, 31, 0, .rw, 0⟩
def LE_BANKA_MSP : Field := ⟨0x18, 2, 18, 0, 1, 31, 0, .rw, 0⟩
def LE_BANKA_MKICK : Field := ⟨0x18, 2, 19, 0, 1, 31, 0, .rw, 0⟩
def LE_BANKA_KICK : Field := ⟨0x18, 2, 20, 0, 1, 31, 0, .rw, 0⟩
def LE_BANKA_BI : Field := ⟨0x18, 2, 24, 0, 1, 31, 0, .ro, 0⟩
def LE_BANKA_BT : Field := ⟨0x18, 2, 25, 0, 1, 31, 0, .ro, 0⟩
def LE_BANKA_AD : Field := ⟨0x18, 2, 26, 0, 1, 31, 0, .ro, 0⟩
def LE_BANKA_BD : Field := ⟨0x18, 2, 27, 0, 1, 31, 0, .ro, 0⟩
def LE_BANKA_N1_B0 : Field := ⟨0x18, 2, 28, 0, 1, 31, 0, .ro, 0⟩
def LE_BANKA_N1_B1 : Field := ⟨0x18, 2, 29, 0, 1, 31, 0, .ro, 0⟩
def LE_BANKA_N1_B2 : Field := ⟨0x18, 2, 30, 0, 1, 31, 0, .ro, 0⟩
def LE_BANKA_N1_A1 : Field := ⟨0x18, 2, 31, 0, 1, 31, 0, .ro, 0⟩
def LE_BANKA_N1_A2 : Field := ⟨0x18, 2, 32, 0, 1, 31, 0, .ro, 0⟩
def LE_BANKA_N2_B0 : Field := ⟨0x18, 2, 33, 0, 1, 31, 0, .ro, 0⟩
def LE_BANKA_N2_B1 : Field := ⟨0x18, 2, 34, 0, 1, 31, 0, .ro, 0⟩
def LE_BANKA_N2_B2 : Field := ⟨0x18, 2, 35, 0, 1, 31, 0, .ro, 0⟩
def LE_BANKA_N2_A1 : Field := ⟨0x18, 2, 36, 0, 1, 31, 0, .ro, 0⟩
def LE_BANKA_N2_A2 : Field := ⟨0x18, 2, 37, 0, 1, 31, 0, .ro, 0⟩
/-! LE_BANKB: Table 9.12, 09_loop_engine.md. -/
def LE_BANKB_KP : Field := ⟨0x18, 3, 0, 0, 1, 31, 0, .rw, 0⟩
def LE_BANKB_KI : Field := ⟨0x18, 3, 1, 0, 1, 31, 0, .rw, 0⟩
def LE_BANKB_KD : Field := ⟨0x18, 3, 2, 0, 1, 31, 0, .rw, 0⟩
def LE_BANKB_N : Field := ⟨0x18, 3, 3, 0, 1, 31, 0, .rw, 0⟩
def LE_BANKB_B : Field := ⟨0x18, 3, 4, 0, 1, 31, 0, .rw, 0⟩
def LE_BANKB_C : Field := ⟨0x18, 3, 5, 0, 1, 31, 0, .rw, 0⟩
def LE_BANKB_TT : Field := ⟨0x18, 3, 6, 0, 1, 31, 0, .rw, 0⟩
def LE_BANKB_UMIN : Field := ⟨0x18, 3, 7, 0, 1, 31, 0, .rw, 0⟩
def LE_BANKB_UMAX : Field := ⟨0x18, 3, 8, 0, 1, 31, 0, .rw, 0⟩
def LE_BANKB_RUP : Field := ⟨0x18, 3, 9, 0, 1, 31, 0, .rw, 0⟩
def LE_BANKB_RDN : Field := ⟨0x18, 3, 10, 0, 1, 31, 0, .rw, 0⟩
def LE_BANKB_KFF : Field := ⟨0x18, 3, 11, 0, 1, 31, 0, .rw, 0⟩
def LE_BANKB_N1_F : Field := ⟨0x18, 3, 12, 0, 1, 31, 0, .rw, 0⟩
def LE_BANKB_N1_ZZ : Field := ⟨0x18, 3, 13, 0, 1, 31, 0, .rw, 0⟩
def LE_BANKB_N1_ZP : Field := ⟨0x18, 3, 14, 0, 1, 31, 0, .rw, 0⟩
def LE_BANKB_N2_F : Field := ⟨0x18, 3, 15, 0, 1, 31, 0, .rw, 0⟩
def LE_BANKB_N2_ZZ : Field := ⟨0x18, 3, 16, 0, 1, 31, 0, .rw, 0⟩
def LE_BANKB_N2_ZP : Field := ⟨0x18, 3, 17, 0, 1, 31, 0, .rw, 0⟩
def LE_BANKB_MSP : Field := ⟨0x18, 3, 18, 0, 1, 31, 0, .rw, 0⟩
def LE_BANKB_MKICK : Field := ⟨0x18, 3, 19, 0, 1, 31, 0, .rw, 0⟩
def LE_BANKB_KICK : Field := ⟨0x18, 3, 20, 0, 1, 31, 0, .rw, 0⟩
def LE_BANKB_BI : Field := ⟨0x18, 3, 24, 0, 1, 31, 0, .ro, 0⟩
def LE_BANKB_BT : Field := ⟨0x18, 3, 25, 0, 1, 31, 0, .ro, 0⟩
def LE_BANKB_AD : Field := ⟨0x18, 3, 26, 0, 1, 31, 0, .ro, 0⟩
def LE_BANKB_BD : Field := ⟨0x18, 3, 27, 0, 1, 31, 0, .ro, 0⟩
def LE_BANKB_N1_B0 : Field := ⟨0x18, 3, 28, 0, 1, 31, 0, .ro, 0⟩
def LE_BANKB_N1_B1 : Field := ⟨0x18, 3, 29, 0, 1, 31, 0, .ro, 0⟩
def LE_BANKB_N1_B2 : Field := ⟨0x18, 3, 30, 0, 1, 31, 0, .ro, 0⟩
def LE_BANKB_N1_A1 : Field := ⟨0x18, 3, 31, 0, 1, 31, 0, .ro, 0⟩
def LE_BANKB_N1_A2 : Field := ⟨0x18, 3, 32, 0, 1, 31, 0, .ro, 0⟩
def LE_BANKB_N2_B0 : Field := ⟨0x18, 3, 33, 0, 1, 31, 0, .ro, 0⟩
def LE_BANKB_N2_B1 : Field := ⟨0x18, 3, 34, 0, 1, 31, 0, .ro, 0⟩
def LE_BANKB_N2_B2 : Field := ⟨0x18, 3, 35, 0, 1, 31, 0, .ro, 0⟩
def LE_BANKB_N2_A1 : Field := ⟨0x18, 3, 36, 0, 1, 31, 0, .ro, 0⟩
def LE_BANKB_N2_A2 : Field := ⟨0x18, 3, 37, 0, 1, 31, 0, .ro, 0⟩
/-! LE_STAT: Table 9.13, 09_loop_engine.md. -/
def LE_STAT_STATE : Field := ⟨0x18, 4, 0, 0, 1, 31, 29, .ro, 0⟩
def LE_STAT_REPEAT : Field := ⟨0x18, 4, 0, 0, 1, 28, 28, .ro, 0⟩
def LE_STAT_INBAD : Field := ⟨0x18, 4, 0, 0, 1, 27, 27, .ro, 0⟩
def LE_STAT_ACT_BANK : Field := ⟨0x18, 4, 0, 0, 1, 26, 26, .ro, 0⟩
def LE_STAT_SWAP_PEND : Field := ⟨0x18, 4, 0, 0, 1, 25, 25, .ro, 0⟩
def LE_STAT_LIMIT : Field := ⟨0x18, 4, 0, 0, 1, 24, 24, .ro, 0⟩
def LE_STAT_RLIMIT : Field := ⟨0x18, 4, 0, 0, 1, 23, 23, .ro, 0⟩
def LE_STAT_LANE : Field := ⟨0x18, 4, 0, 0, 1, 22, 21, .ro, 0⟩
def LE_STAT_FCAUSE : Field := ⟨0x18, 4, 0, 0, 1, 15, 8, .ro, 0⟩
def LE_STAT_U : Field := ⟨0x18, 4, 1, 0, 1, 31, 0, .ro, 0⟩
def LE_STAT_Y : Field := ⟨0x18, 4, 2, 0, 1, 31, 0, .ro, 0⟩
def LE_STAT_R : Field := ⟨0x18, 4, 3, 0, 1, 31, 0, .ro, 0⟩
def LE_STAT_I : Field := ⟨0x18, 4, 4, 0, 1, 31, 0, .ro, 0⟩
def LE_STAT_OVRUN : Field := ⟨0x18, 4, 5, 0, 1, 31, 0, .ro, 0⟩
/-! LE_GRP: Table 6.12, 06_filter_chains.md. -/
def LE_GRP_PEND : Field := ⟨0x18, 5, 0, 0, 1, 31, 31, .ro, 0⟩
def LE_GRP_BANK : Field := ⟨0x18, 5, 0, 0, 1, 30, 30, .ro, 0⟩
def LE_GRP_SWAP_SEC : Field := ⟨0x18, 5, 1, 0, 1, 31, 0, .ro, 0⟩
/-! LE_SURGE: Table 9.14, 09_loop_engine.md. -/
def LE_SURGE_NPTS : Field := ⟨0x18, 6, 0, 0, 1, 4, 0, .rw, 0⟩
def LE_SURGE_HEAD_SRC : Field := ⟨0x18, 6, 1, 0, 1, 31, 0, .rw, 0⟩
def LE_SURGE_Q : Field := ⟨0x18, 6, 2, 2, 16, 31, 0, .rw, 0⟩
def LE_SURGE_H : Field := ⟨0x18, 6, 3, 2, 16, 31, 0, .rw, 0⟩
/-! LE_TUNE: Table 9.14, 09_loop_engine.md. -/
def LE_TUNE_RULE : Field := ⟨0x18, 7, 0, 0, 1, 31, 28, .rw, 0⟩
def LE_TUNE_NCYC : Field := ⟨0x18, 7, 0, 0, 1, 27, 24, .rw, 4⟩
def LE_TUNE_D : Field := ⟨0x18, 7, 1, 0, 1, 31, 0, .rw, 0⟩
def LE_TUNE_HYS : Field := ⟨0x18, 7, 2, 0, 1, 31, 0, .rw, 0⟩
def LE_TUNE_YLO : Field := ⟨0x18, 7, 3, 0, 1, 31, 0, .rw, 0⟩
def LE_TUNE_YHI : Field := ⟨0x18, 7, 4, 0, 1, 31, 0, .rw, 0⟩
def LE_TUNE_TMAX : Field := ⟨0x18, 7, 5, 0, 1, 31, 0, .rw, 0x78⟩
def LE_TUNE_RES : Field := ⟨0x18, 7, 6, 0, 1, 31, 30, .ro, 0⟩
def LE_TUNE_CAUSE : Field := ⟨0x18, 7, 6, 0, 1, 29, 24, .ro, 0⟩
def LE_TUNE_KU : Field := ⟨0x18, 7, 7, 0, 1, 31, 0, .ro, 0⟩
def LE_TUNE_PU : Field := ⟨0x18, 7, 8, 0, 1, 31, 0, .ro, 0⟩
def LE_TUNE_A : Field := ⟨0x18, 7, 9, 0, 1, 31, 0, .ro, 0⟩
def LE_TUNE_U0 : Field := ⟨0x18, 7, 10, 0, 1, 31, 0, .ro, 0⟩
/-! AX_AXIS: Table 9.15, 09_loop_engine.md. -/
def AX_AXIS_EN : Field := ⟨0x19, 1, 0, 0, 1, 31, 31, .rw, 0⟩
def AX_AXIS_RATE : Field := ⟨0x19, 1, 0, 0, 1, 30, 28, .rw, 0⟩
def AX_AXIS_VLOOP : Field := ⟨0x19, 1, 0, 0, 1, 27, 27, .rw, 0⟩
def AX_AXIS_PROF : Field := ⟨0x19, 1, 0, 0, 1, 26, 26, .rw, 0⟩
def AX_AXIS_TBL_EN : Field := ⟨0x19, 1, 0, 0, 1, 25, 25, .rw, 0⟩
def AX_AXIS_FE_ACT : Field := ⟨0x19, 1, 0, 0, 1, 24, 23, .rw, 0⟩
def AX_AXIS_BAD_ACT : Field := ⟨0x19, 1, 0, 0, 1, 22, 21, .rw, 0⟩
def AX_AXIS_PRIO : Field := ⟨0x19, 1, 0, 0, 1, 20, 19, .rw, 0⟩
def AX_AXIS_STARTUP_MOVES : Field := ⟨0x19, 1, 0, 0, 1, 15, 8, .rw, 0⟩
def AX_AXIS_FB_SRC : Field := ⟨0x19, 1, 1, 0, 1, 31, 0, .rw, 0⟩
def AX_AXIS_VFB_SRC : Field := ⟨0x19, 1, 2, 0, 1, 31, 0, .rw, 0⟩
def AX_AXIS_OUT_DST : Field := ⟨0x19, 1, 3, 0, 1, 31, 0, .rw, 0⟩
def AX_AXIS_TGT_PT : Field := ⟨0x19, 1, 4, 0, 1, 22, 0, .rw, 0⟩
def AX_AXIS_CTL : Field := ⟨0x19, 1, 5, 0, 1, 31, 0, .rw, 0⟩
def AX_AXIS_KPP : Field := ⟨0x19, 1, 6, 0, 1, 31, 0, .rw, 0⟩
def AX_AXIS_KVP : Field := ⟨0x19, 1, 7, 0, 1, 31, 0, .rw, 0⟩
def AX_AXIS_KVI : Field := ⟨0x19, 1, 8, 0, 1, 31, 0, .rw, 0⟩
def AX_AXIS_KVFF : Field := ⟨0x19, 1, 9, 0, 1, 31, 0, .rw, 0⟩
def AX_AXIS_KAFF : Field := ⟨0x19, 1, 10, 0, 1, 31, 0, .rw, 0⟩
def AX_AXIS_VMAX : Field := ⟨0x19, 1, 11, 0, 1, 31, 0, .rw, 0⟩
def AX_AXIS_AMAX : Field := ⟨0x19, 1, 12, 0, 1, 31, 0, .rw, 0⟩
def AX_AXIS_DMAX : Field := ⟨0x19, 1, 13, 0, 1, 31, 0, .rw, 0⟩
def AX_AXIS_JMAX : Field := ⟨0x19, 1, 14, 0, 1, 31, 0, .rw, 0⟩
def AX_AXIS_UMIN : Field := ⟨0x19, 1, 15, 0, 1, 31, 0, .rw, 0⟩
def AX_AXIS_UMAX : Field := ⟨0x19, 1, 16, 0, 1, 31, 0, .rw, 0⟩
def AX_AXIS_SAFE_OUT : Field := ⟨0x19, 1, 17, 0, 1, 31, 0, .rw, 0⟩
def AX_AXIS_FE_LIMIT : Field := ⟨0x19, 1, 18, 0, 1, 31, 0, .rw, 0⟩
def AX_AXIS_FE_TIME : Field := ⟨0x19, 1, 19, 0, 1, 31, 0, .rw, 0⟩
def AX_AXIS_STANDSTILL_T : Field := ⟨0x19, 1, 20, 0, 1, 31, 16, .rw, 0⟩
def AX_AXIS_TBL_FADE : Field := ⟨0x19, 1, 20, 0, 1, 15, 0, .rw, 0⟩
def AX_AXIS_TBL_SPAN : Field := ⟨0x19, 1, 21, 1, 2, 31, 0, .rw, 0⟩
def AX_AXIS_POS_SCALE : Field := ⟨0x19, 1, 23, 0, 1, 31, 0, .rw, 0x3f800000⟩
def AX_AXIS_N_F : Field := ⟨0x19, 1, 24, 0, 1, 31, 0, .rw, 0⟩
def AX_AXIS_N_ZZ : Field := ⟨0x19, 1, 25, 0, 1, 31, 0, .rw, 0⟩
def AX_AXIS_N_ZP : Field := ⟨0x19, 1, 26, 0, 1, 31, 0, .rw, 0⟩
/-! AX_STAT: Table 9.15, 09_loop_engine.md. -/
def AX_STAT_STATE : Field := ⟨0x19, 2, 0, 0, 1, 31, 29, .ro, 0⟩
def AX_STAT_TBL_ACT : Field := ⟨0x19, 2, 0, 0, 1, 28, 28, .ro, 0⟩
def AX_STAT_POSLOST : Field := ⟨0x19, 2, 0, 0, 1, 27, 27, .w1c, 0⟩
def AX_STAT_INBAD : Field := ⟨0x19, 2, 0, 0, 1, 26, 26, .ro, 0⟩
def AX_STAT_REPEAT : Field := ⟨0x19, 2, 0, 0, 1, 25, 25, .ro, 0⟩
def AX_STAT_MOVES : Field := ⟨0x19, 2, 0, 0, 1, 15, 0, .ro, 0⟩
def AX_STAT_POS : Field := ⟨0x19, 2, 1, 1, 2, 31, 0, .ro, 0⟩
def AX_STAT_RPOS : Field := ⟨0x19, 2, 3, 1, 2, 31, 0, .ro, 0⟩
def AX_STAT_VEL : Field := ⟨0x19, 2, 5, 0, 1, 31, 0, .ro, 0⟩
def AX_STAT_FERR : Field := ⟨0x19, 2, 6, 0, 1, 31, 0, .ro, 0⟩
/-! AX_COG: Table 9.10. -/
def AX_COG_W : Field := ⟨0x19, 3, 0, 1, 256, 31, 0, .rw, 0⟩
/-! AX_FRIC: Table 9.10. -/
def AX_FRIC_W : Field := ⟨0x19, 4, 0, 1, 256, 31, 0, .rw, 0⟩
/-! AX_ENC: Table 9.16, 09_loop_engine.md. -/
def AX_ENC_EN : Field := ⟨0x19, 0x10, 0, 0, 1, 31, 31, .rw, 0⟩
def AX_ENC_MODE : Field := ⟨0x19, 0x10, 0, 0, 1, 30, 28, .rw, 0⟩
def AX_ENC_FILT : Field := ⟨0x19, 0x10, 0, 0, 1, 27, 24, .rw, 0⟩
def AX_ENC_BITS : Field := ⟨0x19, 0x10, 0, 0, 1, 23, 16, .rw, 0⟩
def AX_ENC_CLKDIV : Field := ⟨0x19, 0x10, 0, 0, 1, 15, 0, .rw, 0x27⟩
def AX_ENC_LEAD : Field := ⟨0x19, 0x10, 1, 0, 1, 12, 0, .rw, 0⟩
def AX_ENC_COUNT : Field := ⟨0x19, 0x10, 2, 0, 1, 31, 0, .ro, 0⟩
def AX_ENC_ERR : Field := ⟨0x19, 0x10, 3, 0, 1, 31, 31, .ro, 0⟩
def AX_ENC_LATE : Field := ⟨0x19, 0x10, 3, 0, 1, 30, 30, .ro, 0⟩
def AX_ENC_WARN : Field := ⟨0x19, 0x10, 3, 0, 1, 29, 29, .ro, 0⟩
def AX_ENC_ZSEEN : Field := ⟨0x19, 0x10, 3, 0, 1, 28, 28, .w1c, 0⟩
def AX_ENC_ERRS : Field := ⟨0x19, 0x10, 3, 0, 1, 15, 0, .ro, 0⟩
def AX_ENC_ZPOS : Field := ⟨0x19, 0x10, 4, 0, 1, 31, 0, .ro, 0⟩
/-! AX_PWM: Table 9.16, 09_loop_engine.md. -/
def AX_PWM_EN : Field := ⟨0x19, 0x11, 0, 0, 1, 31, 31, .rw, 0⟩
def AX_PWM_ALIGN : Field := ⟨0x19, 0x11, 0, 0, 1, 30, 30, .rw, 0⟩
def AX_PWM_POL : Field := ⟨0x19, 0x11, 0, 0, 1, 29, 29, .rw, 0⟩
def AX_PWM_SAFE_LVL : Field := ⟨0x19, 0x11, 0, 0, 1, 28, 28, .rw, 0⟩
def AX_PWM_PERIOD : Field := ⟨0x19, 0x11, 1, 0, 1, 31, 0, .rw, 0⟩
def AX_PWM_DUTY : Field := ⟨0x19, 0x11, 2, 0, 1, 31, 0, .ro, 0⟩
/-! LG_CORE: Table 10.11, 10_logic_engine.md. -/
def LG_CORE_STATE : Field := ⟨0x20, 1, 0, 0, 1, 31, 30, .ro, 1⟩
def LG_CORE_NTASK : Field := ⟨0x20, 1, 0, 0, 1, 29, 24, .ro, 0⟩
def LG_CORE_FCAUSE : Field := ⟨0x20, 1, 0, 0, 1, 15, 8, .ro, 0⟩
def LG_CORE_BUSY : Field := ⟨0x20, 1, 1, 0, 1, 31, 0, .ro, 0⟩
def LG_CORE_UNDO_HWM : Field := ⟨0x20, 1, 2, 0, 1, 31, 0, .ro, 0⟩
/-! LG_TASK: Table 10.11, 10_logic_engine.md. -/
def LG_TASK_EN : Field := ⟨0x20, 2, 0, 0, 1, 31, 31, .ro, 0⟩
def LG_TASK_KIND : Field := ⟨0x20, 2, 0, 0, 1, 30, 29, .ro, 0⟩
def LG_TASK_PRIO : Field := ⟨0x20, 2, 0, 0, 1, 28, 26, .ro, 0⟩
def LG_TASK_CORE : Field := ⟨0x20, 2, 0, 0, 1, 25, 24, .ro, 0⟩
def LG_TASK_HOME : Field := ⟨0x20, 2, 0, 0, 1, 23, 22, .ro, 0⟩
def LG_TASK_STOPPED : Field := ⟨0x20, 2, 0, 0, 1, 21, 21, .ro, 0⟩
def LG_TASK_ENTRY : Field := ⟨0x20, 2, 0, 0, 1, 20, 0, .ro, 0⟩
def LG_TASK_WDT : Field := ⟨0x20, 2, 1, 0, 1, 31, 0, .rw, 0⟩
def LG_TASK_MIN_INT : Field := ⟨0x20, 2, 2, 0, 1, 31, 0, .rw, 0⟩
def LG_TASK_TRIG : Field := ⟨0x20, 2, 3, 0, 1, 31, 28, .ro, 0⟩
def LG_TASK_EDGE : Field := ⟨0x20, 2, 3, 0, 1, 27, 26, .ro, 0⟩
def LG_TASK_SRC : Field := ⟨0x20, 2, 3, 0, 1, 22, 0, .ro, 0⟩
def LG_TASK_INTERVAL : Field := ⟨0x20, 2, 4, 0, 1, 31, 0, .ro, 0⟩
/-! LG_TSTAT: Table 10.11, 10_logic_engine.md. -/
def LG_TSTAT_CYCLE : Field := ⟨0x20, 3, 0, 1, 2, 31, 0, .ro, 0⟩
def LG_TSTAT_LAST : Field := ⟨0x20, 3, 2, 0, 1, 31, 0, .ro, 0⟩
def LG_TSTAT_MIN : Field := ⟨0x20, 3, 3, 0, 1, 31, 0, .ro, 0xffffffff⟩
def LG_TSTAT_MAX : Field := ⟨0x20, 3, 4, 0, 1, 31, 0, .ro, 0⟩
def LG_TSTAT_ABANDON : Field := ⟨0x20, 3, 5, 0, 1, 31, 16, .ro, 0⟩
def LG_TSTAT_EVT_LOST : Field := ⟨0x20, 3, 5, 0, 1, 15, 0, .ro, 0⟩
/-! LG_ERR: Table 10.6, 10_logic_engine.md. -/
def LG_ERR_CAUSE : Field := ⟨0x20, 4, 0, 0, 1, 31, 16, .ro, 0⟩
def LG_ERR_TASK : Field := ⟨0x20, 4, 0, 0, 1, 15, 8, .ro, 0⟩
def LG_ERR_CORE : Field := ⟨0x20, 4, 0, 0, 1, 7, 0, .ro, 0⟩
def LG_ERR_PAR0 : Field := ⟨0x20, 4, 1, 0, 1, 31, 0, .ro, 0⟩
def LG_ERR_PAR1 : Field := ⟨0x20, 4, 2, 0, 1, 31, 0, .ro, 0⟩
def LG_ERR_INDEX : Field := ⟨0x20, 4, 3, 0, 1, 20, 0, .ro, 0⟩
def LG_ERR_MONO : Field := ⟨0x20, 4, 4, 1, 2, 31, 0, .ro, 0⟩
def LG_ERR_SEC : Field := ⟨0x20, 4, 6, 0, 1, 31, 0, .ro, 0⟩
def LG_ERR_NS : Field := ⟨0x20, 4, 7, 0, 1, 29, 0, .ro, 0⟩
/-! LG_BULLPEN: Table 11.9, 11_bullpen_and_umpire.md. -/
def LG_BULLPEN_STATE : Field := ⟨0x20, 5, 0, 0, 1, 31, 29, .ro, 0⟩
def LG_BULLPEN_ACTIVE : Field := ⟨0x20, 5, 0, 0, 1, 28, 28, .ro, 0⟩
def LG_BULLPEN_CRC : Field := ⟨0x20, 5, 1, 0, 1, 31, 0, .ro, 0⟩
def LG_BULLPEN_ACT_CRC : Field := ⟨0x20, 5, 2, 0, 1, 31, 0, .ro, 0⟩
def LG_BULLPEN_KEPT : Field := ⟨0x20, 5, 3, 0, 1, 31, 16, .ro, 0⟩
def LG_BULLPEN_NEW : Field := ⟨0x20, 5, 3, 0, 1, 15, 0, .ro, 0⟩
def LG_BULLPEN_DROPPED : Field := ⟨0x20, 5, 4, 0, 1, 31, 16, .ro, 0⟩
def LG_BULLPEN_RESIZED : Field := ⟨0x20, 5, 4, 0, 1, 15, 0, .ro, 0⟩
def LG_BULLPEN_SW_WAIT : Field := ⟨0x20, 5, 5, 0, 1, 31, 0, .rw, 0x2710⟩
def LG_BULLPEN_GAP_NS : Field := ⟨0x20, 5, 6, 0, 1, 31, 0, .ro, 0⟩
def LG_BULLPEN_SW_SEC : Field := ⟨0x20, 5, 7, 0, 1, 31, 0, .ro, 0⟩
def LG_BULLPEN_SW_NS : Field := ⟨0x20, 5, 8, 0, 1, 29, 0, .ro, 0⟩
/-! UM_CFG: Table 11.9, 11_bullpen_and_umpire.md. -/
def UM_CFG_PANEL_EN : Field := ⟨0x21, 0, 0, 0, 1, 31, 31, .rw, 0⟩
def UM_CFG_PANEL_DEV : Field := ⟨0x21, 0, 0, 0, 1, 13, 4, .rw, 0⟩
def UM_CFG_PANEL : Field := ⟨0x21, 0, 0, 0, 1, 3, 0, .rw, 0⟩
/-! UM_DO: Table 11.9, 11_bullpen_and_umpire.md. -/
def UM_DO_SAFE_DIR_LO : Field := ⟨0x21, 1, 0, 0, 1, 31, 0, .rw, 0⟩
def UM_DO_SAFE_DIR_HI : Field := ⟨0x21, 1, 1, 0, 1, 15, 0, .rw, 0⟩
/-! UM_OWN: Table 11.9, 11_bullpen_and_umpire.md. -/
def UM_OWN_VALUE : Field := ⟨0x21, 2, 0, 0, 1, 8, 8, .ro, 0⟩
def UM_OWN_OWNER : Field := ⟨0x21, 2, 0, 0, 1, 7, 0, .ro, 0⟩
def UM_OWN_SEC : Field := ⟨0x21, 2, 1, 0, 1, 31, 0, .ro, 0⟩
/-! UM_STAT: Table 11.9, 11_bullpen_and_umpire.md. -/
def UM_STAT_CONFLICTS : Field := ⟨0x21, 3, 0, 0, 1, 31, 0, .ro, 0⟩
def UM_STAT_LOSSES : Field := ⟨0x21, 3, 1, 0, 1, 31, 0, .ro, 0⟩
/-! PD_SCAN: Table 12.8, 12_points_and_recipes.md. -/
def PD_SCAN_PERIOD : Field := ⟨0x22, 1, 0, 0, 1, 3, 0, .rw, 3⟩
def PD_SCAN_POINTS : Field := ⟨0x22, 1, 1, 0, 1, 31, 0, .ro, 0⟩
/-! PD_SBMAP: Table 12.8, 12_points_and_recipes.md. -/
def PD_SBMAP_EN : Field := ⟨0x22, 2, 0, 0, 1, 31, 31, .rw, 0⟩
def PD_SBMAP_FORM : Field := ⟨0x22, 2, 0, 0, 1, 30, 28, .rw, 0⟩
def PD_SBMAP_WORD : Field := ⟨0x22, 2, 0, 0, 1, 13, 0, .rw, 0x1000⟩
def PD_SBMAP_INDEX : Field := ⟨0x22, 2, 1, 0, 1, 22, 0, .rw, 0⟩
/-! PD_STAT: Table 12.8, 12_points_and_recipes.md. -/
def PD_STAT_DEFINED : Field := ⟨0x22, 3, 0, 0, 1, 31, 0, .ro, 0⟩
def PD_STAT_RETAINED : Field := ⟨0x22, 3, 1, 0, 1, 31, 0, .ro, 0⟩
def PD_STAT_MIRRORS : Field := ⟨0x22, 3, 2, 0, 1, 31, 0, .ro, 0⟩
def PD_STAT_STALE : Field := ⟨0x22, 3, 3, 0, 1, 31, 0, .ro, 0⟩
def PD_STAT_MEMERR : Field := ⟨0x22, 3, 4, 0, 1, 31, 0, .ro, 0⟩
def PD_STAT_FORCED : Field := ⟨0x22, 3, 5, 0, 1, 31, 0, .ro, 0⟩
/-! RP_LANE: Table 12.8, 12_points_and_recipes.md. -/
def RP_LANE_FAST : Field := ⟨0x23, 1, 0, 0, 1, 31, 31, .rw, 0⟩
def RP_LANE_STRICT : Field := ⟨0x23, 1, 0, 0, 1, 30, 30, .rw, 0⟩
/-! RP_LSTAT: Table 12.8, 12_points_and_recipes.md. -/
def RP_LSTAT_STATE : Field := ⟨0x23, 2, 0, 0, 1, 31, 29, .ro, 0⟩
def RP_LSTAT_DEPTH : Field := ⟨0x23, 2, 0, 0, 1, 28, 25, .ro, 0⟩
def RP_LSTAT_PC : Field := ⟨0x23, 2, 0, 0, 1, 19, 0, .ro, 0⟩
def RP_LSTAT_ERR : Field := ⟨0x23, 2, 1, 0, 1, 31, 24, .ro, 0⟩
def RP_LSTAT_END_CODE : Field := ⟨0x23, 2, 1, 0, 1, 23, 16, .ro, 0⟩
def RP_LSTAT_LOST : Field := ⟨0x23, 2, 1, 0, 1, 15, 0, .ro, 0⟩
def RP_LSTAT_COUNT : Field := ⟨0x23, 2, 2, 0, 1, 31, 0, .ro, 0⟩
/-! RP_STEPS: Table 12.8, 12_points_and_recipes.md. -/
def RP_STEPS_DIRTY : Field := ⟨0x23, 3, 0, 0, 1, 11, 0, .ro, 0⟩
/-! CS_CFG: Table 13.12, 13_continuity_and_let.md. -/
def CS_CFG_WARM_POL : Field := ⟨0x28, 1, 0, 0, 1, 31, 30, .rw, 1⟩
def CS_CFG_MAX_GAP : Field := ⟨0x28, 1, 0, 0, 1, 16, 0, .rw, 0xe10⟩
/-! CS_STAT: Table 13.12, 13_continuity_and_let.md. -/
def CS_STAT_SLOT_A : Field := ⟨0x28, 2, 0, 0, 1, 31, 30, .ro, 0⟩
def CS_STAT_SLOT_B : Field := ⟨0x28, 2, 0, 0, 1, 29, 28, .ro, 0⟩
def CS_STAT_NEWEST : Field := ⟨0x28, 2, 0, 0, 1, 27, 27, .ro, 0⟩
def CS_STAT_RESUMABLE : Field := ⟨0x28, 2, 0, 0, 1, 26, 26, .ro, 0⟩
def CS_STAT_LAST_START : Field := ⟨0x28, 2, 0, 0, 1, 25, 24, .ro, 0⟩
def CS_STAT_BAD_BLOCKS : Field := ⟨0x28, 2, 0, 0, 1, 23, 16, .ro, 0⟩
def CS_STAT_WRITE_US : Field := ⟨0x28, 2, 0, 0, 1, 15, 0, .ro, 0⟩
def CS_STAT_WRITE_SEC : Field := ⟨0x28, 2, 1, 0, 1, 31, 0, .ro, 0⟩
def CS_STAT_LETS : Field := ⟨0x28, 2, 2, 0, 1, 31, 16, .ro, 0⟩
def CS_STAT_LAST_LET : Field := ⟨0x28, 2, 2, 0, 1, 15, 14, .ro, 0⟩
def CS_STAT_LET_MS : Field := ⟨0x28, 2, 2, 0, 1, 13, 0, .ro, 0⟩
/-! EV_CTL: Table 14.9, 14_recording.md. -/
def EV_CTL_RECOVER : Field := ⟨0x30, 0, 0, 0, 1, 0, 0, .wo, 0⟩
/-! EV_CFG: Table 14.9, 14_recording.md. -/
def EV_CFG_ARCH : Field := ⟨0x30, 1, 0, 0, 1, 31, 31, .rw, 0⟩
/-! EV_STAT: Table 14.9, 14_recording.md. -/
def EV_STAT_FROZEN : Field := ⟨0x30, 2, 0, 0, 1, 31, 31, .ro, 0⟩
def EV_STAT_LR : Field := ⟨0x30, 2, 0, 0, 1, 30, 30, .ro, 0⟩
def EV_STAT_RCV : Field := ⟨0x30, 2, 0, 0, 1, 29, 28, .ro, 0⟩
def EV_STAT_STAGED : Field := ⟨0x30, 2, 0, 0, 1, 12, 0, .ro, 0⟩
def EV_STAT_NEWEST : Field := ⟨0x30, 2, 1, 0, 1, 31, 0, .ro, 0⟩
def EV_STAT_OLDEST : Field := ⟨0x30, 2, 2, 0, 1, 31, 0, .ro, 0⟩
def EV_STAT_ARCHIVED : Field := ⟨0x30, 2, 3, 0, 1, 31, 0, .ro, 0⟩
def EV_STAT_LOST : Field := ⟨0x30, 2, 4, 0, 1, 31, 0, .ro, 0⟩
/-! EV_LRSTAT: Table 14.9, 14_recording.md. -/
def EV_LRSTAT_USED : Field := ⟨0x30, 3, 0, 0, 1, 9, 0, .ro, 0⟩
def EV_LRSTAT_NP_LOST : Field := ⟨0x30, 3, 1, 0, 1, 31, 0, .ro, 0⟩
def EV_LRSTAT_FIRST : Field := ⟨0x30, 3, 2, 1, 2, 31, 0, .ro, 0⟩
def EV_LRSTAT_LAST : Field := ⟨0x30, 3, 4, 1, 2, 31, 0, .ro, 0⟩
/-! EV_LRING: R410, 14_recording.md. -/
def EV_LRING_W : Field := ⟨0x30, 0x10, 0, 1, 4096, 31, 0, .ro, 0⟩
/-! CH_CFG: Table 14.9, 14_recording.md. -/
def CH_CFG_EN : Field := ⟨0x31, 1, 0, 0, 1, 31, 31, .rw, 0⟩
def CH_CFG_BUF_MIB : Field := ⟨0x31, 1, 0, 0, 1, 13, 0, .rw, 0x400⟩
/-! CH_STAT: Table 14.9, 14_recording.md. -/
def CH_STAT_STOPPED : Field := ⟨0x31, 2, 0, 0, 1, 31, 31, .ro, 0⟩
def CH_STAT_FILL : Field := ⟨0x31, 2, 0, 0, 1, 13, 0, .ro, 0⟩
def CH_STAT_NEXT : Field := ⟨0x31, 2, 1, 1, 2, 31, 0, .ro, 0⟩
def CH_STAT_ARCHIVED : Field := ⟨0x31, 2, 3, 1, 2, 31, 0, .ro, 0⟩
def CH_STAT_LOST : Field := ⟨0x31, 2, 5, 0, 1, 31, 0, .ro, 0⟩
/-! AR_CFG: Table 14.9, 14_recording.md. -/
def AR_CFG_CH_EN : Field := ⟨0x33, 1, 0, 0, 1, 31, 30, .rw, 0⟩
def AR_CFG_RETEST : Field := ⟨0x33, 1, 0, 0, 1, 29, 28, .wo, 0⟩
def AR_CFG_EV_BLK : Field := ⟨0x33, 1, 1, 0, 1, 31, 0, .rw, 0⟩
def AR_CFG_CH_BLK : Field := ⟨0x33, 1, 2, 0, 1, 31, 0, .rw, 0⟩
def AR_CFG_DR_BLK : Field := ⟨0x33, 1, 3, 0, 1, 31, 0, .rw, 0⟩
/-! AR_STAT: Table 14.9, 14_recording.md. -/
def AR_STAT_STATE : Field := ⟨0x33, 2, 0, 0, 1, 31, 30, .ro, 0⟩
def AR_STAT_RETIRED : Field := ⟨0x33, 2, 0, 0, 1, 15, 0, .ro, 0⟩
def AR_STAT_EV_OLDEST : Field := ⟨0x33, 2, 1, 0, 1, 31, 0, .ro, 0⟩
def AR_STAT_CH_OLDEST : Field := ⟨0x33, 2, 2, 0, 1, 31, 0, .ro, 0⟩
def AR_STAT_DR_OLDEST : Field := ⟨0x33, 2, 3, 0, 1, 31, 0, .ro, 0⟩
/-! DR_CFG: Table 14.10, 14_recording.md. -/
def DR_CFG_EN : Field := ⟨0x32, 1, 0, 0, 1, 31, 31, .rw, 0⟩
def DR_CFG_FULL : Field := ⟨0x32, 1, 0, 0, 1, 30, 30, .rw, 0⟩
def DR_CFG_EXTEND : Field := ⟨0x32, 1, 0, 0, 1, 29, 29, .rw, 1⟩
def DR_CFG_ARCH : Field := ⟨0x32, 1, 0, 0, 1, 28, 28, .rw, 0⟩
def DR_CFG_BUF_MIB : Field := ⟨0x32, 1, 0, 0, 1, 13, 0, .rw, 0x400⟩
def DR_CFG_PRE : Field := ⟨0x32, 1, 1, 0, 1, 31, 0, .rw, 0⟩
def DR_CFG_POST : Field := ⟨0x32, 1, 2, 0, 1, 31, 0, .rw, 0⟩
def DR_CFG_MAXLEN : Field := ⟨0x32, 1, 3, 0, 1, 31, 0, .rw, 0⟩
def DR_CFG_FAST_PRE : Field := ⟨0x32, 1, 4, 0, 1, 31, 0, .rw, 0⟩
def DR_CFG_FAST_POST : Field := ⟨0x32, 1, 5, 0, 1, 31, 0, .rw, 0⟩
def DR_CFG_FINE_MASK : Field := ⟨0x32, 1, 6, 1, 3, 31, 0, .rw, 0⟩
def DR_CFG_FAST_MASK : Field := ⟨0x32, 1, 9, 1, 2, 31, 0, .rw, 0⟩
def DR_CFG_DI_MASK : Field := ⟨0x32, 1, 11, 1, 2, 31, 0, .rw, 0⟩
def DR_CFG_NAME : Field := ⟨0x32, 1, 13, 1, 8, 31, 0, .rw, 0⟩
/-! DR_TRIG: Table 14.10, 14_recording.md. -/
def DR_TRIG_EN : Field := ⟨0x32, 2, 0, 0, 1, 31, 31, .rw, 0⟩
def DR_TRIG_KIND : Field := ⟨0x32, 2, 0, 0, 1, 30, 28, .rw, 0⟩
def DR_TRIG_EDGE : Field := ⟨0x32, 2, 0, 0, 1, 27, 26, .rw, 0⟩
def DR_TRIG_INDEX : Field := ⟨0x32, 2, 0, 0, 1, 10, 0, .rw, 0⟩
/-! DR_CH: Table 14.10, 14_recording.md. -/
def DR_CH_MULT : Field := ⟨0x32, 3, 0, 0, 1, 31, 0, .rw, 0x3f800000⟩
def DR_CH_UNIT : Field := ⟨0x32, 3, 1, 0, 1, 7, 0, .rw, 0⟩
def DR_CH_NAME : Field := ⟨0x32, 3, 2, 1, 4, 31, 0, .rw, 0⟩
/-! DR_REC: Table 14.10, 14_recording.md. -/
def DR_REC_STATE : Field := ⟨0x32, 4, 0, 0, 1, 31, 30, .ro, 0⟩
def DR_REC_NTRIG : Field := ⟨0x32, 4, 0, 0, 1, 29, 25, .ro, 0⟩
def DR_REC_EXP_KIB : Field := ⟨0x32, 4, 0, 0, 1, 24, 0, .ro, 0⟩
def DR_REC_SERIAL : Field := ⟨0x32, 4, 1, 0, 1, 31, 0, .ro, 0⟩
def DR_REC_TR : Field := ⟨0x32, 4, 2, 1, 2, 31, 0, .ro, 0⟩
def DR_REC_LEN_US : Field := ⟨0x32, 4, 4, 0, 1, 31, 0, .ro, 0⟩
/-! FD_CTL: Table 15.11, 15_field_io.md. -/
def FD_CTL_WD_EN : Field := ⟨0x38, 0, 0, 0, 1, 31, 31, .rw, 1⟩
def FD_CTL_WD_TIME : Field := ⟨0x38, 0, 0, 0, 1, 7, 0, .rw, 0x64⟩
def FD_CTL_CLR_UV : Field := ⟨0x38, 0, 1, 0, 1, 31, 0, .wo, 0⟩
def FD_CTL_CLR_OL : Field := ⟨0x38, 0, 2, 0, 1, 31, 0, .wo, 0⟩
/-! FD_STAT: Table 15.11, 15_field_io.md. -/
def FD_STAT_FLD : Field := ⟨0x38, 1, 0, 0, 1, 31, 30, .ro, 0⟩
def FD_STAT_WD_EXP : Field := ⟨0x38, 1, 0, 0, 1, 29, 29, .ro, 0⟩
def FD_STAT_HB_LOST : Field := ⟨0x38, 1, 0, 0, 1, 28, 28, .ro, 0⟩
def FD_STAT_HOLD : Field := ⟨0x38, 1, 0, 0, 1, 27, 27, .ro, 0⟩
def FD_STAT_FLD_MV : Field := ⟨0x38, 1, 0, 0, 1, 15, 0, .ro, 0⟩
def FD_STAT_TEMP : Field := ⟨0x38, 1, 1, 0, 1, 31, 24, .ro, 0⟩
def FD_STAT_WD_COUNT : Field := ⟨0x38, 1, 2, 0, 1, 31, 0, .ro, 0⟩
/-! FD_DI: Table 15.11, 15_field_io.md. -/
def FD_DI_TYPE : Field := ⟨0x38, 0x10, 0, 0, 1, 31, 31, .rw, 0⟩
def FD_DI_WB_EN : Field := ⟨0x38, 0x10, 0, 0, 1, 30, 30, .rw, 0⟩
def FD_DI_CHAT_INV : Field := ⟨0x38, 0x10, 0, 0, 1, 29, 29, .rw, 0⟩
def FD_DI_CHAT_K : Field := ⟨0x38, 0x10, 0, 0, 1, 27, 24, .rw, 0⟩
def FD_DI_CHAT_W : Field := ⟨0x38, 0x10, 0, 0, 1, 23, 16, .rw, 0⟩
def FD_DI_FILT_N : Field := ⟨0x38, 0x10, 0, 0, 1, 15, 0, .rw, 0x64⟩
def FD_DI_STUCK_T : Field := ⟨0x38, 0x10, 1, 0, 1, 31, 16, .rw, 0⟩
def FD_DI_VAL : Field := ⟨0x38, 0x10, 2, 0, 1, 31, 31, .ro, 0⟩
def FD_DI_VALID : Field := ⟨0x38, 0x10, 2, 0, 1, 30, 30, .ro, 0⟩
def FD_DI_RAW : Field := ⟨0x38, 0x10, 2, 0, 1, 29, 29, .ro, 0⟩
def FD_DI_OW : Field := ⟨0x38, 0x10, 2, 0, 1, 28, 28, .ro, 0⟩
def FD_DI_BAND : Field := ⟨0x38, 0x10, 2, 0, 1, 27, 27, .ro, 0⟩
def FD_DI_CHAT : Field := ⟨0x38, 0x10, 2, 0, 1, 26, 26, .ro, 0⟩
def FD_DI_STUCK : Field := ⟨0x38, 0x10, 2, 0, 1, 25, 25, .ro, 0⟩
def FD_DI_FORCED : Field := ⟨0x38, 0x10, 2, 0, 1, 24, 24, .ro, 0⟩
def FD_DI_I_UA : Field := ⟨0x38, 0x10, 2, 0, 1, 11, 0, .ro, 0⟩
def FD_DI_TRANS : Field := ⟨0x38, 0x10, 3, 0, 1, 31, 16, .ro, 0⟩
def FD_DI_CNT : Field := ⟨0x38, 0x10, 3, 0, 1, 15, 0, .ro, 0⟩
def FD_DI_LAST_NS : Field := ⟨0x38, 0x10, 4, 0, 1, 29, 0, .ro, 0⟩
def FD_DI_LAST_SEC : Field := ⟨0x38, 0x10, 5, 0, 1, 31, 0, .ro, 0⟩
/-! FD_DO: Table 15.11, 15_field_io.md. -/
def FD_DO_SAFE : Field := ⟨0x38, 0x20, 0, 0, 1, 31, 30, .rw, 0⟩
def FD_DO_LATCH_UV : Field := ⟨0x38, 0x20, 0, 0, 1, 29, 29, .rw, 0⟩
def FD_DO_OL_RETRY : Field := ⟨0x38, 0x20, 0, 0, 1, 28, 28, .rw, 0⟩
def FD_DO_OW_ON_EN : Field := ⟨0x38, 0x20, 0, 0, 1, 27, 27, .rw, 0⟩
def FD_DO_OW_OFF_EN : Field := ⟨0x38, 0x20, 0, 0, 1, 26, 26, .rw, 0⟩
def FD_DO_TP_EN : Field := ⟨0x38, 0x20, 0, 0, 1, 25, 25, .rw, 0⟩
def FD_DO_TP_W : Field := ⟨0x38, 0x20, 0, 0, 1, 23, 16, .rw, 0x28⟩
def FD_DO_MODE : Field := ⟨0x38, 0x20, 0, 0, 1, 15, 14, .rw, 0⟩
def FD_DO_CMD : Field := ⟨0x38, 0x20, 1, 0, 1, 31, 31, .ro, 0⟩
def FD_DO_BALL : Field := ⟨0x38, 0x20, 1, 0, 1, 30, 30, .ro, 0⟩
def FD_DO_ON : Field := ⟨0x38, 0x20, 1, 0, 1, 29, 29, .ro, 0⟩
def FD_DO_OL : Field := ⟨0x38, 0x20, 1, 0, 1, 28, 28, .ro, 0⟩
def FD_DO_OL_T : Field := ⟨0x38, 0x20, 1, 0, 1, 27, 27, .ro, 0⟩
def FD_DO_OW_ON : Field := ⟨0x38, 0x20, 1, 0, 1, 26, 26, .ro, 0⟩
def FD_DO_OW_OFF : Field := ⟨0x38, 0x20, 1, 0, 1, 25, 25, .ro, 0⟩
def FD_DO_SCS : Field := ⟨0x38, 0x20, 1, 0, 1, 24, 24, .ro, 0⟩
def FD_DO_RF : Field := ⟨0x38, 0x20, 1, 0, 1, 23, 23, .ro, 0⟩
def FD_DO_OVT : Field := ⟨0x38, 0x20, 1, 0, 1, 22, 22, .ro, 0⟩
def FD_DO_XFEED : Field := ⟨0x38, 0x20, 1, 0, 1, 21, 21, .ro, 0⟩
def FD_DO_UV_OFF : Field := ⟨0x38, 0x20, 1, 0, 1, 20, 20, .ro, 0⟩
def FD_DO_FORCED : Field := ⟨0x38, 0x20, 1, 0, 1, 19, 19, .ro, 0⟩
def FD_DO_ROW : Field := ⟨0x38, 0x20, 1, 0, 1, 18, 15, .ro, 0xa⟩
def FD_DO_I_MA : Field := ⟨0x38, 0x20, 1, 0, 1, 11, 0, .ro, 0⟩
def FD_DO_OL_COUNT : Field := ⟨0x38, 0x20, 2, 0, 1, 31, 16, .ro, 0⟩
def FD_DO_TP_FAIL : Field := ⟨0x38, 0x20, 2, 0, 1, 15, 0, .ro, 0⟩
def FD_DO_SEEN : Field := ⟨0x38, 0x20, 3, 0, 1, 31, 24, .w1c, 0⟩
/-! SF_CFG: Table 16.7, 16_safety_functions.md. -/
def SF_CFG_OTE : Field := ⟨0x39, 1, 0, 0, 1, 5, 0, .rw, 0x3f⟩
def SF_CFG_CRC : Field := ⟨0x39, 1, 1, 0, 1, 31, 0, .ro, 0⟩
def SF_CFG_EXP_CRC : Field := ⟨0x39, 1, 2, 0, 1, 31, 0, .rw, 0⟩
/-! SF_STAT: Table 16.7, 16_safety_functions.md. -/
def SF_STAT_PFAULT : Field := ⟨0x39, 2, 0, 0, 1, 31, 31, .ro, 0⟩
def SF_STAT_PCAUSE : Field := ⟨0x39, 2, 0, 0, 1, 30, 28, .ro, 0⟩
def SF_STAT_SEC_CNT : Field := ⟨0x39, 2, 0, 0, 1, 15, 0, .ro, 0⟩
def SF_STAT_RUN_MASK : Field := ⟨0x39, 2, 1, 0, 1, 31, 0, .ro, 0⟩
def SF_STAT_FAULT_MASK : Field := ⟨0x39, 2, 2, 0, 1, 31, 0, .ro, 0⟩
/-! SF_FUNC: Table 16.7, 16_safety_functions.md. -/
def SF_FUNC_EN : Field := ⟨0x39, 0x10, 0, 0, 1, 31, 31, .rw, 0⟩
def SF_FUNC_KIND : Field := ⟨0x39, 0x10, 0, 0, 1, 30, 28, .rw, 0⟩
def SF_FUNC_CONTACT : Field := ⟨0x39, 0x10, 0, 0, 1, 27, 27, .rw, 0⟩
def SF_FUNC_LOCK_EN : Field := ⟨0x39, 0x10, 0, 0, 1, 26, 26, .rw, 0⟩
def SF_FUNC_RST_MODE : Field := ⟨0x39, 0x10, 0, 0, 1, 25, 24, .rw, 0⟩
def SF_FUNC_DEB : Field := ⟨0x39, 0x10, 0, 0, 1, 23, 16, .rw, 3⟩
def SF_FUNC_DISC_T : Field := ⟨0x39, 0x10, 0, 0, 1, 15, 0, .rw, 0x64⟩
def SF_FUNC_IN_A : Field := ⟨0x39, 0x10, 1, 0, 1, 29, 24, .rw, 0x3f⟩
def SF_FUNC_IN_B : Field := ⟨0x39, 0x10, 1, 0, 1, 21, 16, .rw, 0x3f⟩
def SF_FUNC_IN_C : Field := ⟨0x39, 0x10, 1, 0, 1, 13, 8, .rw, 0x3f⟩
def SF_FUNC_IN_D : Field := ⟨0x39, 0x10, 1, 0, 1, 5, 0, .rw, 0x3f⟩
def SF_FUNC_TPA : Field := ⟨0x39, 0x10, 2, 0, 1, 29, 24, .rw, 0x3f⟩
def SF_FUNC_TPB : Field := ⟨0x39, 0x10, 2, 0, 1, 21, 16, .rw, 0x3f⟩
def SF_FUNC_RST_DI : Field := ⟨0x39, 0x10, 2, 0, 1, 13, 8, .rw, 0x3f⟩
def SF_FUNC_OSSD_TPW : Field := ⟨0x39, 0x10, 3, 0, 1, 31, 16, .rw, 0⟩
def SF_FUNC_TP_W : Field := ⟨0x39, 0x10, 3, 0, 1, 15, 8, .rw, 0x1e⟩
def SF_FUNC_TP_REC : Field := ⟨0x39, 0x10, 3, 0, 1, 7, 0, .rw, 0xa⟩
def SF_FUNC_OUT_MASK : Field := ⟨0x39, 0x10, 4, 0, 1, 23, 0, .rw, 0⟩
def SF_FUNC_PT_EN : Field := ⟨0x39, 0x10, 5, 0, 1, 31, 31, .rw, 0⟩
def SF_FUNC_PT : Field := ⟨0x39, 0x10, 5, 0, 1, 22, 0, .rw, 0⟩
/-! SF_FSTAT: Table 16.7, 16_safety_functions.md. -/
def SF_FSTAT_STATE : Field := ⟨0x39, 0x11, 0, 0, 1, 31, 29, .ro, 0⟩
def SF_FSTAT_FCAUSE : Field := ⟨0x39, 0x11, 0, 0, 1, 28, 24, .ro, 0⟩
def SF_FSTAT_DEM : Field := ⟨0x39, 0x11, 0, 0, 1, 23, 20, .ro, 0⟩
def SF_FSTAT_TEST_A : Field := ⟨0x39, 0x11, 0, 0, 1, 19, 18, .ro, 0⟩
def SF_FSTAT_TEST_B : Field := ⟨0x39, 0x11, 0, 0, 1, 17, 16, .ro, 0⟩
def SF_FSTAT_DEMANDS : Field := ⟨0x39, 0x11, 0, 0, 1, 15, 0, .ro, 0⟩
def SF_FSTAT_INCONC : Field := ⟨0x39, 0x11, 1, 0, 1, 31, 16, .ro, 0⟩
def SF_FSTAT_RST_IGN : Field := ⟨0x39, 0x11, 1, 0, 1, 15, 0, .ro, 0⟩
def SF_FSTAT_LAST_NS : Field := ⟨0x39, 0x11, 2, 0, 1, 29, 0, .ro, 0⟩
def SF_FSTAT_LAST_SEC : Field := ⟨0x39, 0x11, 3, 0, 1, 31, 0, .ro, 0⟩
/-! LN_LANE: Table 17.15, 17_lanes_and_renby.md. -/
def LN_LANE_PROTO : Field := ⟨0x40, 1, 0, 0, 1, 31, 29, .rw, 0⟩
def LN_LANE_FEC : Field := ⟨0x40, 1, 0, 0, 1, 28, 28, .rw, 0⟩
def LN_LANE_RX_INV : Field := ⟨0x40, 1, 0, 0, 1, 27, 27, .rw, 0⟩
def LN_LANE_TX_INV : Field := ⟨0x40, 1, 0, 0, 1, 26, 26, .rw, 0⟩
def LN_LANE_LOS : Field := ⟨0x40, 1, 1, 0, 1, 31, 31, .ro, 0⟩
def LN_LANE_LOL : Field := ⟨0x40, 1, 1, 0, 1, 30, 30, .ro, 0⟩
def LN_LANE_UP : Field := ⟨0x40, 1, 1, 0, 1, 29, 29, .ro, 0⟩
def LN_LANE_FAILED : Field := ⟨0x40, 1, 1, 0, 1, 28, 28, .ro, 0⟩
def LN_LANE_STEP : Field := ⟨0x40, 1, 1, 0, 1, 27, 24, .ro, 0⟩
def LN_LANE_LOS_CNT : Field := ⟨0x40, 1, 2, 0, 1, 31, 16, .ro, 0⟩
def LN_LANE_LOL_CNT : Field := ⟨0x40, 1, 2, 0, 1, 15, 0, .ro, 0⟩
def LN_LANE_ERR_BLK : Field := ⟨0x40, 1, 3, 0, 1, 31, 0, .ro, 0⟩
def LN_LANE_SKEW : Field := ⟨0x40, 1, 4, 0, 1, 15, 0, .ro, 0⟩
/-! RB_CFG: Table 17.15, 17_lanes_and_renby.md. -/
def RB_CFG_EN : Field := ⟨0x41, 1, 0, 0, 1, 31, 31, .rw, 0⟩
def RB_CFG_HOPS : Field := ⟨0x41, 1, 0, 0, 1, 19, 10, .rw, 0x3ff⟩
def RB_CFG_DEVID : Field := ⟨0x41, 1, 0, 0, 1, 9, 0, .rw, 0⟩
/-! RB_PORT: Table 17.15, 17_lanes_and_renby.md. -/
def RB_PORT_EN : Field := ⟨0x41, 2, 0, 0, 1, 31, 31, .rw, 0⟩
def RB_PORT_SEG : Field := ⟨0x41, 2, 0, 0, 1, 30, 28, .rw, 0⟩
def RB_PORT_BOND : Field := ⟨0x41, 2, 0, 0, 1, 27, 26, .rw, 0⟩
def RB_PORT_LANE : Field := ⟨0x41, 2, 0, 0, 1, 20, 16, .rw, 4⟩
def RB_PORT_NKIND : Field := ⟨0x41, 2, 1, 0, 1, 31, 30, .ro, 0⟩
def RB_PORT_NDEV : Field := ⟨0x41, 2, 1, 0, 1, 21, 12, .ro, 0⟩
def RB_PORT_NSTN : Field := ⟨0x41, 2, 1, 0, 1, 11, 0, .ro, 0⟩
def RB_PORT_C0_OVER : Field := ⟨0x41, 2, 2, 0, 1, 31, 31, .ro, 0⟩
def RB_PORT_KEPOCH : Field := ⟨0x41, 2, 2, 0, 1, 7, 0, .ro, 0⟩
def RB_PORT_CRC_ERR : Field := ⟨0x41, 2, 3, 0, 1, 31, 16, .ro, 0⟩
def RB_PORT_AUTH_ERR : Field := ⟨0x41, 2, 3, 0, 1, 15, 0, .ro, 0⟩
def RB_PORT_REPLAY : Field := ⟨0x41, 2, 4, 0, 1, 31, 16, .ro, 0⟩
def RB_PORT_FRAME_ERR : Field := ⟨0x41, 2, 4, 0, 1, 15, 0, .ro, 0⟩
/-! RB_STN: Table 17.15, 17_lanes_and_renby.md. -/
def RB_STN_EN : Field := ⟨0x41, 3, 0, 0, 1, 31, 31, .rw, 0⟩
def RB_STN_SEG : Field := ⟨0x41, 3, 0, 0, 1, 30, 28, .rw, 0⟩
def RB_STN_CYCLE : Field := ⟨0x41, 3, 0, 0, 1, 27, 24, .rw, 5⟩
def RB_STN_MISS : Field := ⟨0x41, 3, 0, 0, 1, 23, 20, .rw, 3⟩
def RB_STN_WD : Field := ⟨0x41, 3, 0, 0, 1, 19, 16, .rw, 4⟩
def RB_STN_APPLY : Field := ⟨0x41, 3, 0, 0, 1, 15, 0, .rw, 0x32⟩
def RB_STN_OUT_LEN : Field := ⟨0x41, 3, 1, 0, 1, 28, 16, .rw, 0⟩
def RB_STN_IN_LEN : Field := ⟨0x41, 3, 1, 0, 1, 12, 0, .rw, 0⟩
def RB_STN_NREF : Field := ⟨0x41, 3, 2, 0, 1, 4, 0, .rw, 0⟩
/-! RB_STNST: Table 17.15, 17_lanes_and_renby.md. -/
def RB_STNST_STATE : Field := ⟨0x41, 4, 0, 0, 1, 31, 30, .ro, 0⟩
def RB_STNST_SST : Field := ⟨0x41, 4, 0, 0, 1, 29, 28, .ro, 3⟩
def RB_STNST_MISSES : Field := ⟨0x41, 4, 0, 0, 1, 15, 0, .ro, 0⟩
def RB_STNST_DROPS : Field := ⟨0x41, 4, 1, 0, 1, 31, 0, .ro, 0⟩
/-! EN_PORT: Table 17.15, 17_lanes_and_renby.md. -/
def EN_PORT_AN : Field := ⟨0x42, 1, 0, 0, 1, 31, 31, .rw, 0⟩
def EN_PORT_VLAN : Field := ⟨0x42, 1, 0, 0, 1, 30, 30, .rw, 0⟩
def EN_PORT_PCP : Field := ⟨0x42, 1, 0, 0, 1, 14, 12, .rw, 4⟩
def EN_PORT_VID : Field := ⟨0x42, 1, 0, 0, 1, 11, 0, .rw, 0⟩
def EN_PORT_MAC_HI : Field := ⟨0x42, 1, 1, 0, 1, 31, 0, .ro, 0⟩
def EN_PORT_MAC_LO : Field := ⟨0x42, 1, 2, 0, 1, 31, 16, .ro, 0⟩
def EN_PORT_RX_DROP : Field := ⟨0x42, 1, 3, 0, 1, 31, 0, .ro, 0⟩
/-! EN_GOOSE: Table 17.15, 17_lanes_and_renby.md. -/
def EN_GOOSE_EN : Field := ⟨0x42, 2, 0, 0, 1, 31, 31, .rw, 0⟩
def EN_GOOSE_APPID : Field := ⟨0x42, 2, 0, 0, 1, 15, 0, .rw, 0⟩
def EN_GOOSE_T0 : Field := ⟨0x42, 2, 1, 0, 1, 31, 16, .rw, 0x3e8⟩
def EN_GOOSE_T1 : Field := ⟨0x42, 2, 1, 0, 1, 15, 0, .rw, 2⟩
def EN_GOOSE_PORTS : Field := ⟨0x42, 2, 2, 0, 1, 15, 0, .rw, 0⟩
def EN_GOOSE_CONFREV : Field := ⟨0x42, 2, 3, 0, 1, 31, 0, .rw, 1⟩
/-! TU_CFG: Table 18.4, 18_time_unit.md. -/
def TU_CFG_ROLE : Field := ⟨0x43, 1, 0, 0, 1, 31, 30, .rw, 0⟩
def TU_CFG_SERVO : Field := ⟨0x43, 1, 0, 0, 1, 29, 29, .rw, 0⟩
def TU_CFG_DOMAIN : Field := ⟨0x43, 1, 0, 0, 1, 23, 16, .rw, 0⟩
def TU_CFG_RB_SYNC : Field := ⟨0x43, 1, 0, 0, 1, 7, 0, .rw, 5⟩
def TU_CFG_SERVO_TO : Field := ⟨0x43, 1, 1, 0, 1, 31, 16, .rw, 0xfa0⟩
def TU_CFG_HO_PPB : Field := ⟨0x43, 1, 1, 0, 1, 15, 0, .rw, 0xa⟩
def TU_CFG_UTC_OFS : Field := ⟨0x43, 1, 2, 0, 1, 31, 16, .rw, 0x25⟩
def TU_CFG_LEAP61 : Field := ⟨0x43, 1, 2, 0, 1, 15, 15, .rw, 0⟩
def TU_CFG_LEAP59 : Field := ⟨0x43, 1, 2, 0, 1, 14, 14, .rw, 0⟩
/-! TU_ADJ: Table 18.4, 18_time_unit.md. -/
def TU_ADJ_INC_FRAC : Field := ⟨0x43, 2, 0, 0, 1, 31, 0, .rw, 0x40000000⟩
def TU_ADJ_INC_NS : Field := ⟨0x43, 2, 1, 0, 1, 1, 0, .rw, 1⟩
def TU_ADJ_SLEW_NS : Field := ⟨0x43, 2, 2, 0, 1, 31, 0, .wo, 0⟩
def TU_ADJ_SLEW_MS : Field := ⟨0x43, 2, 3, 0, 1, 15, 0, .wo, 0⟩
def TU_ADJ_STEP_S : Field := ⟨0x43, 2, 4, 0, 1, 31, 0, .wo, 0⟩
def TU_ADJ_STEP_NS : Field := ⟨0x43, 2, 5, 0, 1, 31, 0, .wo, 0⟩
def TU_ADJ_LOCK : Field := ⟨0x43, 2, 6, 0, 1, 31, 31, .wo, 0⟩
def TU_ADJ_HOLD : Field := ⟨0x43, 2, 6, 0, 1, 30, 30, .wo, 0⟩
/-! TU_STAT: Table 18.4, 18_time_unit.md. -/
def TU_STAT_STATE : Field := ⟨0x43, 3, 0, 0, 1, 31, 29, .ro, 0⟩
def TU_STAT_EVER : Field := ⟨0x43, 3, 0, 0, 1, 28, 28, .ro, 0⟩
def TU_STAT_SLEWING : Field := ⟨0x43, 3, 0, 0, 1, 27, 27, .ro, 0⟩
def TU_STAT_STEPS : Field := ⟨0x43, 3, 1, 0, 1, 31, 0, .ro, 0⟩
def TU_STAT_NOW_SEC_LO : Field := ⟨0x43, 3, 2, 0, 1, 31, 0, .ro, 0⟩
def TU_STAT_NOW_SEC_HI : Field := ⟨0x43, 3, 3, 0, 1, 31, 16, .ro, 0⟩
def TU_STAT_NOW_FRAC : Field := ⟨0x43, 3, 3, 0, 1, 15, 0, .ro, 0⟩
def TU_STAT_NOW_NS : Field := ⟨0x43, 3, 4, 0, 1, 31, 0, .ro, 0⟩
/-! TU_PORT: Table 18.4, 18_time_unit.md. -/
def TU_PORT_ASYM : Field := ⟨0x43, 4, 0, 0, 1, 31, 0, .rw, 0⟩
def TU_PORT_MPD : Field := ⟨0x43, 4, 1, 0, 1, 31, 0, .ro, 0⟩
def TU_PORT_PD_OK : Field := ⟨0x43, 4, 2, 0, 1, 31, 31, .ro, 0⟩
def TU_PORT_PSTATE : Field := ⟨0x43, 4, 2, 0, 1, 30, 29, .ro, 0⟩
/-! SC_STAT: Table 19.6, 19_identity_and_access.md. -/
def SC_STAT_OWNED : Field := ⟨0x48, 1, 0, 0, 1, 31, 31, .ro, 0⟩
def SC_STAT_OPENED : Field := ⟨0x48, 1, 0, 0, 1, 30, 30, .ro, 0⟩
def SC_STAT_TAMPER : Field := ⟨0x48, 1, 0, 0, 1, 29, 29, .ro, 0⟩
def SC_STAT_UNSIGNED : Field := ⟨0x48, 1, 0, 0, 1, 28, 28, .ro, 0⟩
def SC_STAT_FW_SLOT : Field := ⟨0x48, 1, 0, 0, 1, 27, 27, .ro, 0⟩
def SC_STAT_FW_PEND : Field := ⟨0x48, 1, 0, 0, 1, 26, 26, .ro, 0⟩
def SC_STAT_SESSIONS : Field := ⟨0x48, 1, 0, 0, 1, 25, 22, .ro, 0⟩
def SC_STAT_FW_SVN : Field := ⟨0x48, 1, 0, 0, 1, 21, 16, .ro, 0⟩
def SC_STAT_CFG_SVN : Field := ⟨0x48, 1, 0, 0, 1, 15, 0, .ro, 0⟩
def SC_STAT_OWN_CNT : Field := ⟨0x48, 1, 1, 0, 1, 23, 16, .ro, 0⟩
def SC_STAT_OPEN_CNT : Field := ⟨0x48, 1, 1, 0, 1, 15, 8, .ro, 0⟩
def SC_STAT_PROV_CNT : Field := ⟨0x48, 1, 1, 0, 1, 7, 0, .ro, 0⟩
/-! SC_CERT: R519, 19_identity_and_access.md; its size is DESIGN CHOICE (assumption 5). -/
def SC_CERT_W : Field := ⟨0x48, 2, 0, 1, 1024, 31, 0, .ro, 0⟩
/-! MB_RINGREG: Table 3.2, 03_captain_mailbox.md. -/
def MB_RINGREG_BASE_LO : Field := ⟨0x100, 0, 0, 0, 1, 31, 6, .rw, 0⟩
def MB_RINGREG_BASE_HI : Field := ⟨0x100, 0, 1, 0, 1, 31, 0, .rw, 0⟩
def MB_RINGREG_EN : Field := ⟨0x100, 0, 2, 0, 1, 31, 31, .rw, 0⟩
def MB_RINGREG_LOC : Field := ⟨0x100, 0, 2, 0, 1, 30, 30, .rw, 0⟩
def MB_RINGREG_KIND : Field := ⟨0x100, 0, 2, 0, 1, 29, 28, .rw, 0⟩
def MB_RINGREG_PRIO : Field := ⟨0x100, 0, 2, 0, 1, 27, 27, .rw, 0⟩
def MB_RINGREG_MASTER : Field := ⟨0x100, 0, 2, 0, 1, 26, 25, .rw, 0⟩
def MB_RINGREG_CPL_RING : Field := ⟨0x100, 0, 2, 0, 1, 21, 16, .rw, 0⟩
def MB_RINGREG_SIZE_LOG2 : Field := ⟨0x100, 0, 2, 0, 1, 15, 11, .rw, 0⟩
def MB_RINGREG_INT_EN : Field := ⟨0x100, 0, 2, 0, 1, 6, 6, .rw, 0⟩
def MB_RINGREG_VEC : Field := ⟨0x100, 0, 2, 0, 1, 5, 0, .rw, 0⟩
def MB_RINGREG_PROD : Field := ⟨0x100, 0, 3, 0, 1, 15, 0, .ro, 0⟩
def MB_RINGREG_CONS : Field := ⟨0x100, 0, 4, 0, 1, 15, 0, .ro, 0⟩
def MB_RINGREG_FAULT : Field := ⟨0x100, 0, 5, 0, 1, 31, 31, .w1c, 0⟩
def MB_RINGREG_FCODE : Field := ⟨0x100, 0, 5, 0, 1, 30, 24, .ro, 0⟩
def MB_RINGREG_DROP : Field := ⟨0x100, 0, 5, 0, 1, 23, 0, .ro, 0⟩
/-! HE_INTCTL: Table 4.3, 04_host_endpoint_and_scoreboard.md. -/
def HE_INTCTL_GEN : Field := ⟨0x100, 1, 0, 0, 1, 31, 31, .rw, 0⟩
def HE_INTCTL_SB_VEC : Field := ⟨0x100, 1, 0, 0, 1, 13, 8, .rw, 0⟩
def HE_INTCTL_SB_TRIP : Field := ⟨0x100, 1, 0, 0, 1, 2, 2, .rw, 0⟩
def HE_INTCTL_SB_ERR : Field := ⟨0x100, 1, 0, 0, 1, 1, 1, .rw, 0⟩
def HE_INTCTL_SB_MODE : Field := ⟨0x100, 1, 0, 0, 1, 0, 0, .rw, 0⟩
def HE_INTCTL_SB_CAUSE : Field := ⟨0x100, 1, 1, 0, 1, 2, 0, .w1c, 0⟩
/-! HE_BAR4CFG: Table 4.4, 04_host_endpoint_and_scoreboard.md. -/
def HE_BAR4CFG_WR_EN : Field := ⟨0x100, 2, 0, 0, 1, 31, 31, .rw, 0⟩
def HE_BAR4CFG_MASTER : Field := ⟨0x100, 2, 0, 0, 1, 30, 30, .rw, 0⟩
def HE_BAR4CFG_DROP : Field := ⟨0x100, 2, 1, 0, 1, 31, 0, .ro, 0⟩
/-! MSIX_TABLE: Table 4.2 (layout of the PCI Express MSI-X table, PRESUMED). -/
def MSIX_TABLE_ADDR_LO : Field := ⟨0x100, 3, 0, 0, 1, 31, 0, .rw, 0⟩
def MSIX_TABLE_ADDR_HI : Field := ⟨0x100, 3, 1, 0, 1, 31, 0, .rw, 0⟩
def MSIX_TABLE_DATA : Field := ⟨0x100, 3, 2, 0, 1, 31, 0, .rw, 0⟩
def MSIX_TABLE_MASK : Field := ⟨0x100, 3, 3, 0, 1, 0, 0, .rw, 1⟩
/-! MSIX_PBA: Table 4.2. -/
def MSIX_PBA_PEND : Field := ⟨0x100, 4, 0, 1, 2, 31, 0, .ro, 0⟩
/-! Setting words P0 to P11 of PE_ELEM by element type: Table 7.14 and Table 8.10, overlays of the words 2 to 13. -/
def PE_OC_CURVE : Field := ⟨0x10, 1, 2, 0, 1, 31, 24, .rw, 0⟩
def PE_OC_IS : Field := ⟨0x10, 1, 2, 0, 1, 23, 0, .rw, 0⟩
def PE_OC_TMS : Field := ⟨0x10, 1, 3, 0, 1, 31, 16, .rw, 0⟩
def PE_OC_RESET : Field := ⟨0x10, 1, 3, 0, 1, 9, 8, .rw, 0⟩
def PE_OC_HYST : Field := ⟨0x10, 1, 3, 0, 1, 7, 0, .rw, 0⟩
def PE_OC_TD : Field := ⟨0x10, 1, 4, 0, 1, 31, 0, .rw, 0⟩
def PE_OC_TMIN : Field := ⟨0x10, 1, 5, 0, 1, 31, 0, .rw, 0⟩
def PE_OC_TRD : Field := ⟨0x10, 1, 6, 0, 1, 31, 0, .rw, 0⟩
def PE_OC_RESET_TR : Field := ⟨0x10, 1, 7, 0, 1, 31, 16, .rw, 0⟩
def PE_OC_MMAX : Field := ⟨0x10, 1, 7, 0, 1, 15, 8, .rw, 0⟩
def PE_OC_DIRSUP : Field := ⟨0x10, 1, 8, 0, 1, 31, 30, .rw, 0⟩
def PE_OC_DIRFB : Field := ⟨0x10, 1, 8, 0, 1, 29, 29, .rw, 0⟩
def PE_OC_DIREL : Field := ⟨0x10, 1, 8, 0, 1, 10, 0, .rw, 0⟩
def PE_DIR_RCA : Field := ⟨0x10, 1, 2, 0, 1, 15, 0, .rw, 0⟩
def PE_DIR_HALF : Field := ⟨0x10, 1, 3, 0, 1, 15, 0, .rw, 0⟩
def PE_DIR_IMIN : Field := ⟨0x10, 1, 4, 0, 1, 23, 0, .rw, 0⟩
def PE_DIR_VMIN : Field := ⟨0x10, 1, 5, 0, 1, 23, 0, .rw, 0⟩
def PE_DIR_MEMT : Field := ⟨0x10, 1, 6, 0, 1, 31, 0, .rw, 0⟩
def PE_DIR_VGRP : Field := ⟨0x10, 1, 7, 0, 1, 5, 0, .rw, 0⟩
def PE_VOLT_CURVE : Field := ⟨0x10, 1, 2, 0, 1, 31, 24, .rw, 0⟩
def PE_VOLT_VS : Field := ⟨0x10, 1, 2, 0, 1, 23, 0, .rw, 0⟩
def PE_VOLT_TMS : Field := ⟨0x10, 1, 3, 0, 1, 31, 16, .rw, 0⟩
def PE_VOLT_ALL : Field := ⟨0x10, 1, 3, 0, 1, 8, 8, .rw, 0⟩
def PE_VOLT_HYST : Field := ⟨0x10, 1, 3, 0, 1, 7, 0, .rw, 0⟩
def PE_VOLT_TD : Field := ⟨0x10, 1, 4, 0, 1, 31, 0, .rw, 0⟩
def PE_VOLT_VBLK : Field := ⟨0x10, 1, 5, 0, 1, 23, 0, .rw, 0⟩
def PE_FREQ_FS : Field := ⟨0x10, 1, 2, 0, 1, 31, 0, .rw, 0⟩
def PE_FREQ_TD : Field := ⟨0x10, 1, 3, 0, 1, 31, 0, .rw, 0⟩
def PE_FREQ_VMIN : Field := ⟨0x10, 1, 4, 0, 1, 23, 0, .rw, 0⟩
def PE_ROCOF_DIRN : Field := ⟨0x10, 1, 2, 0, 1, 31, 30, .rw, 0⟩
def PE_ROCOF_RS : Field := ⟨0x10, 1, 2, 0, 1, 23, 0, .rw, 0⟩
def PE_ROCOF_NWIN : Field := ⟨0x10, 1, 3, 0, 1, 15, 0, .rw, 0⟩
def PE_ROCOF_TD : Field := ⟨0x10, 1, 4, 0, 1, 31, 0, .rw, 0⟩
def PE_ROCOF_VMIN : Field := ⟨0x10, 1, 5, 0, 1, 23, 0, .rw, 0⟩
def PE_THERM_IB : Field := ⟨0x10, 1, 2, 0, 1, 23, 0, .rw, 0⟩
def PE_THERM_K : Field := ⟨0x10, 1, 3, 0, 1, 31, 16, .rw, 0⟩
def PE_THERM_K2 : Field := ⟨0x10, 1, 3, 0, 1, 15, 0, .rw, 0⟩
def PE_THERM_TAUR : Field := ⟨0x10, 1, 4, 0, 1, 31, 0, .rw, 0⟩
def PE_THERM_TAUS : Field := ⟨0x10, 1, 5, 0, 1, 31, 0, .rw, 0⟩
def PE_THERM_ALARM : Field := ⟨0x10, 1, 6, 0, 1, 31, 24, .rw, 0⟩
def PE_THERM_RESTART : Field := ⟨0x10, 1, 6, 0, 1, 23, 16, .rw, 0⟩
def PE_THERM_INIT : Field := ⟨0x10, 1, 6, 0, 1, 15, 8, .rw, 0⟩
def PE_THERM_ISTOP : Field := ⟨0x10, 1, 7, 0, 1, 23, 0, .rw, 0⟩
def PE_MSTART_ISTART : Field := ⟨0x10, 1, 2, 0, 1, 23, 0, .rw, 0⟩
def PE_MSTART_IRUN : Field := ⟨0x10, 1, 3, 0, 1, 23, 0, .rw, 0⟩
def PE_MSTART_ISTOP : Field := ⟨0x10, 1, 4, 0, 1, 23, 0, .rw, 0⟩
def PE_MSTART_ILR : Field := ⟨0x10, 1, 5, 0, 1, 23, 0, .rw, 0⟩
def PE_MSTART_TSTART : Field := ⟨0x10, 1, 6, 0, 1, 31, 0, .rw, 0⟩
def PE_MSTART_ISTALL : Field := ⟨0x10, 1, 7, 0, 1, 23, 0, .rw, 0⟩
def PE_MSTART_TSTALL : Field := ⟨0x10, 1, 8, 0, 1, 31, 0, .rw, 0⟩
def PE_RSTINH_THERM_EN : Field := ⟨0x10, 1, 2, 0, 1, 27, 27, .rw, 0⟩
def PE_RSTINH_THERMEL : Field := ⟨0x10, 1, 2, 0, 1, 26, 16, .rw, 0⟩
def PE_RSTINH_STARTEL : Field := ⟨0x10, 1, 2, 0, 1, 10, 0, .rw, 0⟩
def PE_RSTINH_NSTART : Field := ⟨0x10, 1, 3, 0, 1, 7, 0, .rw, 0⟩
def PE_RSTINH_TWIN : Field := ⟨0x10, 1, 4, 0, 1, 31, 0, .rw, 0⟩
def PE_RSTINH_TINH : Field := ⟨0x10, 1, 5, 0, 1, 31, 0, .rw, 0⟩
def PE_UC_IUC : Field := ⟨0x10, 1, 2, 0, 1, 23, 0, .rw, 0⟩
def PE_UC_IMIN : Field := ⟨0x10, 1, 3, 0, 1, 23, 0, .rw, 0⟩
def PE_UC_TD : Field := ⟨0x10, 1, 4, 0, 1, 31, 0, .rw, 0⟩
def PE_PREV_RATIO : Field := ⟨0x10, 1, 2, 0, 1, 15, 0, .rw, 0⟩
def PE_PREV_XMIN : Field := ⟨0x10, 1, 3, 0, 1, 23, 0, .rw, 0⟩
def PE_PREV_TD : Field := ⟨0x10, 1, 4, 0, 1, 31, 0, .rw, 0⟩
def PE_DIFF_W4_EN : Field := ⟨0x10, 1, 2, 0, 1, 19, 19, .rw, 0⟩
def PE_DIFF_W3_EN : Field := ⟨0x10, 1, 2, 0, 1, 18, 18, .rw, 0⟩
def PE_DIFF_W4 : Field := ⟨0x10, 1, 2, 0, 1, 17, 12, .rw, 0⟩
def PE_DIFF_W3 : Field := ⟨0x10, 1, 2, 0, 1, 11, 6, .rw, 0⟩
def PE_DIFF_W2 : Field := ⟨0x10, 1, 2, 0, 1, 5, 0, .rw, 0⟩
def PE_DIFF_VG : Field := ⟨0x10, 1, 3, 1, 4, 31, 28, .rw, 0⟩
def PE_DIFF_ZSR : Field := ⟨0x10, 1, 3, 1, 4, 27, 27, .rw, 0⟩
def PE_DIFF_TAP : Field := ⟨0x10, 1, 3, 1, 4, 23, 0, .rw, 0⟩
def PE_DIFF_IDMIN : Field := ⟨0x10, 1, 7, 0, 1, 23, 0, .rw, 0⟩
def PE_DIFF_K1 : Field := ⟨0x10, 1, 8, 0, 1, 31, 16, .rw, 0⟩
def PE_DIFF_K2 : Field := ⟨0x10, 1, 8, 0, 1, 15, 0, .rw, 0⟩
def PE_DIFF_IB2 : Field := ⟨0x10, 1, 9, 0, 1, 23, 0, .rw, 0⟩
def PE_DIFF_H2 : Field := ⟨0x10, 1, 10, 0, 1, 31, 24, .rw, 0⟩
def PE_DIFF_H5 : Field := ⟨0x10, 1, 10, 0, 1, 23, 16, .rw, 0⟩
def PE_DIFF_XBLK : Field := ⟨0x10, 1, 10, 0, 1, 15, 15, .rw, 0⟩
def PE_DIFF_IDU : Field := ⟨0x10, 1, 11, 0, 1, 23, 0, .rw, 0⟩
def PE_ARC_LONLY : Field := ⟨0x10, 1, 2, 0, 1, 31, 31, .rw, 0⟩
def PE_ARC_INMASK : Field := ⟨0x10, 1, 2, 0, 1, 7, 0, .rw, 0⟩
def PE_ARC_ITHR : Field := ⟨0x10, 1, 3, 0, 1, 23, 0, .rw, 0⟩
def PE_ARC_CWIN : Field := ⟨0x10, 1, 4, 0, 1, 31, 0, .rw, 0⟩
def PE_FIOC_THR : Field := ⟨0x10, 1, 2, 0, 1, 23, 0, .rw, 0⟩
def PE_ZDIF_ZONE : Field := ⟨0x10, 1, 2, 0, 1, 2, 0, .rw, 0⟩
def PE_ZDIF_REC : Field := ⟨0x10, 1, 3, 0, 1, 15, 0, .rw, 0⟩

/-- KP_WAKE. -/
def KP_WAKE_obj : ObjSpec := ⟨1, 1, 6, 0, 1, 1, 1, 0, 0,
  [KP_WAKE_ALARM_EN, KP_WAKE_WAKEN_EN, KP_WAKE_DI_EN, KP_WAKE_HOST_EN, KP_WAKE_FLD_EN, KP_WAKE_DI_MASK_LO,
   KP_WAKE_DI_MASK_HI, KP_WAKE_ALARM_SEC, KP_WAKE_ALARM_TICK, KP_WAKE_CAUSE]⟩
/-- MB_CAP. -/
def MB_CAP_obj : ObjSpec := ⟨2, 0, 12, 0, 1, 1, 1, 0, 0,
  [MB_CAP_PART, MB_CAP_STEPPING, MB_CAP_FWMAJ, MB_CAP_N_CONV, MB_CAP_N_AIN, MB_CAP_N_VCH, MB_CAP_N_LGCORE,
   MB_CAP_N_PE, MB_CAP_N_TRIPCH, MB_CAP_N_BRK, MB_CAP_N_LOOP, MB_CAP_N_AXIS, MB_CAP_N_LANE, MB_CAP_SF,
   MB_CAP_ZONEDIFF, MB_CAP_TWIN, MB_CAP_FCBANK, MB_CAP_N_ARCH, MB_CAP_N_RBDEV, MB_CAP_N_STATION, MB_CAP_N_POINT,
   MB_CAP_N_RING, MB_CAP_N_CREDIT, MB_CAP_FWMIN, MB_CAP_SDRAM_MIB, MB_CAP_SERIAL, MB_CAP_OPENED]⟩
/-- MB_MODECFG. -/
def MB_MODECFG_obj : ObjSpec := ⟨2, 1, 2, 0, 1, 1, 1, 0, 0,
  [MB_MODECFG_TRAIN_TIMEOUT, MB_MODECFG_START_COMM, MB_MODECFG_SENT_EN, MB_MODECFG_TO_POLICY, MB_MODECFG_REQ_LANE]⟩
/-- MB_MODESTAT. -/
def MB_MODESTAT_obj : ObjSpec := ⟨2, 2, 3, 0, 1, 1, 1, 0, 0,
  [MB_MODESTAT_CAUSE, MB_MODESTAT_BOOTSTAT, MB_MODESTAT_PEND, MB_MODESTAT_TARGET, MB_MODESTAT_PREV, MB_MODESTAT_MODE,
   MB_MODESTAT_ENTRY_TIME]⟩
/-- AF_CORE. -/
def AF_CORE_obj : ObjSpec := ⟨8, 1, 9, 0, 16, 8, 4, 0, 0,
  [AF_CORE_EN, AF_CORE_REF_EN, AF_CORE_MODE, AF_CORE_TWIN, AF_CORE_TWIN_CH, AF_CORE_TRIG_CTR, AF_CORE_TRIG,
   AF_CORE_DELAY, AF_CORE_SCAN, AF_CORE_REF_OK, AF_CORE_LIVE, AF_CORE_LOST, AF_CORE_OVRUN, AF_CORE_RESULT,
   AF_CORE_SCAN_NS]⟩
/-- AF_HEALTH. -/
def AF_HEALTH_obj : ObjSpec := ⟨8, 2, 4, 0, 16, 8, 4, 0, 0,
  [AF_HEALTH_STATE, AF_HEALTH_CAUSE, AF_HEALTH_OFS, AF_HEALTH_GAIN, AF_HEALTH_SKEW]⟩
/-- AF_CHAN. -/
def AF_CHAN_obj : ObjSpec := ⟨8, 0x10, 2, 0, 64, 32, 16, 0, 0,
  [AF_CHAN_KIND, AF_CHAN_GAIN, AF_CHAN_CAL_SEL, AF_CHAN_SNT_EN, AF_CHAN_SNT_LINE, AF_CHAN_WAKE_THR, AF_CHAN_TRIP_THR,
   AF_CHAN_OVR_SEEN, AF_CHAN_WAKE_SEEN, AF_CHAN_TRIP_SEEN, AF_CHAN_REASON, AF_CHAN_POS, AF_CHAN_SPACING]⟩
/-- AF_CAL. -/
def AF_CAL_obj : ObjSpec := ⟨8, 0x11, 9, 0, 64, 32, 16, 0, 0,
  [AF_CAL_OFS, AF_CAL_GN, AF_CAL_STAMP]⟩
/-- AF_CALF. -/
def AF_CALF_obj : ObjSpec := ⟨8, 0x12, 9, 0, 64, 32, 16, 0, 0,
  [AF_CALF_OFS, AF_CALF_GN, AF_CALF_STAMP]⟩
/-- AF_TMR. -/
def AF_TMR_obj : ObjSpec := ⟨8, 0x20, 2, 0, 16, 16, 16, 0, 0,
  [AF_TMR_EN, AF_TMR_PERIOD]⟩
/-- AF_URG. -/
def AF_URG_obj : ObjSpec := ⟨8, 0x21, 4, 0, 64, 64, 64, 0, 0,
  [AF_URG_EN, AF_URG_CHAN, AF_URG_TRIG_CTR, AF_URG_TRIG, AF_URG_DELAY, AF_URG_COUNT, AF_URG_RESULT, AF_URG_SLOT_NS]⟩
/-- AF_ARC. -/
def AF_ARC_obj : ObjSpec := ⟨8, 0x30, 2, 0, 8, 8, 8, 0, 0,
  [AF_ARC_SUP_EN, AF_ARC_THR, AF_ARC_LIGHT, AF_ARC_SEEN, AF_ARC_SUP]⟩
/-- FC_CHAN. -/
def FC_CHAN_obj : ObjSpec := ⟨9, 1, 6, 0, 64, 32, 16, 64, 96,
  [FC_CHAN_RATE, FC_CHAN_DESKEW, FC_CHAN_RESP, FC_CHAN_SWAP_GRP, FC_CHAN_TRACK, FC_CHAN_PHASE_TRIM, FC_CHAN_ACT_BANK,
   FC_CHAN_SWAP_PEND, FC_CHAN_PHASE_EFF, FC_CHAN_FINE_STAT, FC_CHAN_FINE_LAST, FC_CHAN_FAST_STAT, FC_CHAN_FAST_LAST]⟩
/-- FC_BANKA. -/
def FC_BANKA_obj : ObjSpec := ⟨9, 2, 999, 0, 64, 0, 0, 0, 0,
  [FC_BANKA_RATE, FC_BANKA_NCOEF, FC_BANKA_CRC, FC_BANKA_COEF]⟩
/-- FC_BANKB. -/
def FC_BANKB_obj : ObjSpec := ⟨9, 3, 999, 0, 64, 0, 0, 0, 0,
  [FC_BANKB_RATE, FC_BANKB_NCOEF, FC_BANKB_CRC, FC_BANKB_COEF]⟩
/-- FC_GRP. -/
def FC_GRP_obj : ObjSpec := ⟨9, 4, 2, 1, 16, 0, 0, 0, 0,
  [FC_GRP_PEND, FC_GRP_BANK, FC_GRP_SWAP_SEC]⟩
/-- FC_VCH. -/
def FC_VCH_obj : ObjSpec := ⟨9, 5, 2, 64, 96, 96, 96, 0, 0,
  [FC_VCH_EN, FC_VCH_ACCEPT_TEST, FC_VCH_STR, FC_VCH_QTY, FC_VCH_LAT, FC_VCH_FS]⟩
/-- FC_TRACK. -/
def FC_TRACK_obj : ObjSpec := ⟨9, 6, 3, 0, 8, 8, 8, 0, 0,
  [FC_TRACK_EN, FC_TRACK_NOM, FC_TRACK_SRC2, FC_TRACK_SRC, FC_TRACK_FREQ, FC_TRACK_STATE]⟩
/-- FC_SVSTR. -/
def FC_SVSTR_obj : ObjSpec := ⟨9, 7, 6, 0, 32, 32, 32, 0, 0,
  [FC_SVSTR_EN, FC_SVSTR_SPC, FC_SVSTR_NOMF, FC_SVSTR_APPID, FC_SVSTR_MAC_HI, FC_SVSTR_MAC_LO, FC_SVSTR_CONFREV,
   FC_SVSTR_STATE, FC_SVSTR_DROP]⟩
/-- PE_ELEM. -/
def PE_ELEM_obj : ObjSpec := ⟨0x10, 1, 14, 0, 2048, 1024, 512, 0, 0,
  [PE_ELEM_EN, PE_ELEM_TYPE, PE_ELEM_MEAS, PE_ELEM_QTY, PE_ELEM_EST, PE_ELEM_EVT, PE_ELEM_BLKA, PE_ELEM_BLKB_KIND,
   PE_ELEM_BLKB_INV, PE_ELEM_BLKB_INDEX, PE_ELEM_P]⟩
/-- PE_ESTAT. -/
def PE_ESTAT_obj : ObjSpec := ⟨0x10, 2, 5, 0, 2048, 1024, 512, 0, 0,
  [PE_ESTAT_PU, PE_ESTAT_OP, PE_ESTAT_QBLK, PE_ESTAT_BLKD, PE_ESTAT_PU_PH, PE_ESTAT_OP_PH, PE_ESTAT_OVR,
   PE_ESTAT_RSTR, PE_ESTAT_STATE, PE_ESTAT_ACC, PE_ESTAT_VAL, PE_ESTAT_OP_NS, PE_ESTAT_OP_SEC]⟩
/-- PE_MEAS. -/
def PE_MEAS_obj : ObjSpec := ⟨0x10, 0x10, 2, 0, 64, 64, 64, 0, 0,
  [PE_MEAS_EN, PE_MEAS_KIND, PE_MEAS_ROT, PE_MEAS_VCONN, PE_MEAS_CH_A, PE_MEAS_CH_B, PE_MEAS_CH_C, PE_MEAS_CH_N]⟩
/-- PE_UCURVE. -/
def PE_UCURVE_obj : ObjSpec := ⟨0x10, 0x20, 65, 0, 16, 16, 16, 0, 0,
  [PE_UCURVE_NPTS, PE_UCURVE_M, PE_UCURVE_T]⟩
/-- PE_XBLK. -/
def PE_XBLK_obj : ObjSpec := ⟨0x10, 0x30, 2, 0, 1, 1, 1, 0, 0,
  [PE_XBLK_BITS_LO, PE_XBLK_BITS_HI]⟩
/-- TM_CTL. -/
def TM_CTL_obj : ObjSpec := ⟨0x11, 0, 1, 0, 1, 1, 1, 0, 0,
  [TM_CTL_RST_MASK]⟩
/-- TM_TCH. -/
def TM_TCH_obj : ObjSpec := ⟨0x11, 1, 5, 0, 32, 32, 32, 0, 0,
  [TM_TCH_LATCH, TM_TCH_TBLK, TM_TCH_TA, TM_TCH_RB, TM_TCH_GOOSE, TM_TCH_OUT, TM_TCH_RST_X, TM_TCH_MIN_ON,
   TM_TCH_ASSERTED, TM_TCH_LATCHED, TM_TCH_SRC, TM_TCH_TBLK_EFF, TM_TCH_TBLK_PEND, TM_TCH_RSTIGN, TM_TCH_COUNT,
   TM_TCH_LAST_NS, TM_TCH_LAST_SEC]⟩
/-- TM_MASK. -/
def TM_MASK_obj : ObjSpec := ⟨0x11, 2, 134, 0, 32, 32, 32, 0, 0,
  [TM_MASK_W]⟩
/-- TM_BRK. -/
def TM_BRK_obj : ObjSpec := ⟨0x11, 0x10, 8, 0, 32, 32, 32, 0, 0,
  [TM_BRK_EN, TM_BRK_BF_MODE, TM_BRK_RT_EN, TM_BRK_BF_NOSEAL, TM_BRK_CUR_GRP, TM_BRK_AUXA, TM_BRK_AUXB, TM_BRK_BFI_X,
   TM_BRK_TRIP_MASK, TM_BRK_IBF, TM_BRK_RT_T, TM_BRK_BF_T, TM_BRK_CCW, TM_BRK_DISC_T, TM_BRK_CLOSE_DO, TM_BRK_INH_EN,
   TM_BRK_CUR_EN, TM_BRK_INH_EL]⟩
/-- TM_BRKST. -/
def TM_BRKST_obj : ObjSpec := ⟨0x11, 0x11, 4, 0, 32, 32, 32, 0, 0,
  [TM_BRKST_POS, TM_BRKST_TRIP, TM_BRKST_CUR, TM_BRKST_CUR_Q, TM_BRKST_BF_RUN, TM_BRKST_RETRIP, TM_BRKST_BACKUP,
   TM_BRKST_CLOSE_INH, TM_BRKST_EN, TM_BRKST_TRIPS, TM_BRKST_BFOPS, TM_BRKST_CLR_US, TM_BRKST_BF_SEEN,
   TM_BRKST_RT_SEEN, TM_BRKST_DISC_SEEN]⟩
/-- TM_ZONE. -/
def TM_ZONE_obj : ObjSpec := ⟨0x11, 0x20, 130, 0, 8, 0, 0, 0, 0,
  [TM_ZONE_EN, TM_ZONE_LAT, TM_ZONE_RATE, TM_ZONE_ZID, TM_ZONE_CRC, TM_ZONE_SLOT_EN, TM_ZONE_POL, TM_ZONE_DEVID,
   TM_ZONE_GROUP, TM_ZONE_TAP]⟩
/-- TM_ZSTAT. -/
def TM_ZSTAT_obj : ObjSpec := ⟨0x11, 0x21, 5, 0, 8, 0, 0, 0, 0,
  [TM_ZSTAT_BLK, TM_ZSTAT_CAUSE, TM_ZSTAT_FIRST_DEV, TM_ZSTAT_GAPS, TM_ZSTAT_LATE, TM_ZSTAT_SLOT_OK]⟩
/-- TM_XIN. -/
def TM_XIN_obj : ObjSpec := ⟨0x11, 0x30, 2, 0, 1, 1, 1, 0, 0,
  [TM_XIN_BITS_LO, TM_XIN_BITS_HI]⟩
/-- TM_RX. -/
def TM_RX_obj : ObjSpec := ⟨0x11, 0x31, 2, 0, 64, 64, 64, 0, 0,
  [TM_RX_EN, TM_RX_SUBST, TM_RX_DEVID, TM_RX_CH, TM_RX_VAL, TM_RX_STALE]⟩
/-- LE_LOOP. -/
def LE_LOOP_obj : ObjSpec := ⟨0x18, 1, 14, 0, 1024, 512, 0, 0, 0,
  [LE_LOOP_EN, LE_LOOP_LAW, LE_LOOP_RATE, LE_LOOP_NOTCH, LE_LOOP_SWAP_GRP, LE_LOOP_BAD_ACT, LE_LOOP_FE_ACT,
   LE_LOOP_START, LE_LOOP_AT_PERMIT, LE_LOOP_BL, LE_LOOP_PRIO, LE_LOOP_ACT, LE_LOOP_PV_SRC, LE_LOOP_SP_SRC,
   LE_LOOP_FF_SRC, LE_LOOP_TRK_SRC, LE_LOOP_OUT_DST, LE_LOOP_CTL_EN, LE_LOOP_CTL_PT, LE_LOOP_SAFE_OUT,
   LE_LOOP_FE_LIMIT, LE_LOOP_FE_TIME, LE_LOOP_PV_GAIN, LE_LOOP_PV_OFS, LE_LOOP_OUT_GAIN, LE_LOOP_OUT_OFS]⟩
/-- LE_BANKA. -/
def LE_BANKA_obj : ObjSpec := ⟨0x18, 2, 38, 0, 1024, 512, 0, 0, 0,
  [LE_BANKA_KP, LE_BANKA_KI, LE_BANKA_KD, LE_BANKA_N, LE_BANKA_B, LE_BANKA_C, LE_BANKA_TT, LE_BANKA_UMIN,
   LE_BANKA_UMAX, LE_BANKA_RUP, LE_BANKA_RDN, LE_BANKA_KFF, LE_BANKA_N1_F, LE_BANKA_N1_ZZ, LE_BANKA_N1_ZP,
   LE_BANKA_N2_F, LE_BANKA_N2_ZZ, LE_BANKA_N2_ZP, LE_BANKA_MSP, LE_BANKA_MKICK, LE_BANKA_KICK, LE_BANKA_BI,
   LE_BANKA_BT, LE_BANKA_AD, LE_BANKA_BD, LE_BANKA_N1_B0, LE_BANKA_N1_B1, LE_BANKA_N1_B2, LE_BANKA_N1_A1,
   LE_BANKA_N1_A2, LE_BANKA_N2_B0, LE_BANKA_N2_B1, LE_BANKA_N2_B2, LE_BANKA_N2_A1, LE_BANKA_N2_A2]⟩
/-- LE_BANKB. -/
def LE_BANKB_obj : ObjSpec := ⟨0x18, 3, 38, 0, 1024, 512, 0, 0, 0,
  [LE_BANKB_KP, LE_BANKB_KI, LE_BANKB_KD, LE_BANKB_N, LE_BANKB_B, LE_BANKB_C, LE_BANKB_TT, LE_BANKB_UMIN,
   LE_BANKB_UMAX, LE_BANKB_RUP, LE_BANKB_RDN, LE_BANKB_KFF, LE_BANKB_N1_F, LE_BANKB_N1_ZZ, LE_BANKB_N1_ZP,
   LE_BANKB_N2_F, LE_BANKB_N2_ZZ, LE_BANKB_N2_ZP, LE_BANKB_MSP, LE_BANKB_MKICK, LE_BANKB_KICK, LE_BANKB_BI,
   LE_BANKB_BT, LE_BANKB_AD, LE_BANKB_BD, LE_BANKB_N1_B0, LE_BANKB_N1_B1, LE_BANKB_N1_B2, LE_BANKB_N1_A1,
   LE_BANKB_N1_A2, LE_BANKB_N2_B0, LE_BANKB_N2_B1, LE_BANKB_N2_B2, LE_BANKB_N2_A1, LE_BANKB_N2_A2]⟩
/-- LE_STAT. -/
def LE_STAT_obj : ObjSpec := ⟨0x18, 4, 6, 0, 1024, 512, 0, 0, 0,
  [LE_STAT_STATE, LE_STAT_REPEAT, LE_STAT_INBAD, LE_STAT_ACT_BANK, LE_STAT_SWAP_PEND, LE_STAT_LIMIT, LE_STAT_RLIMIT,
   LE_STAT_LANE, LE_STAT_FCAUSE, LE_STAT_U, LE_STAT_Y, LE_STAT_R, LE_STAT_I, LE_STAT_OVRUN]⟩
/-- LE_GRP. -/
def LE_GRP_obj : ObjSpec := ⟨0x18, 5, 2, 1, 16, 16, 0, 0, 0,
  [LE_GRP_PEND, LE_GRP_BANK, LE_GRP_SWAP_SEC]⟩
/-- LE_SURGE. -/
def LE_SURGE_obj : ObjSpec := ⟨0x18, 6, 34, 0, 1024, 512, 0, 0, 0,
  [LE_SURGE_NPTS, LE_SURGE_HEAD_SRC, LE_SURGE_Q, LE_SURGE_H]⟩
/-- LE_TUNE. -/
def LE_TUNE_obj : ObjSpec := ⟨0x18, 7, 11, 0, 1024, 512, 0, 0, 0,
  [LE_TUNE_RULE, LE_TUNE_NCYC, LE_TUNE_D, LE_TUNE_HYS, LE_TUNE_YLO, LE_TUNE_YHI, LE_TUNE_TMAX, LE_TUNE_RES,
   LE_TUNE_CAUSE, LE_TUNE_KU, LE_TUNE_PU, LE_TUNE_A, LE_TUNE_U0]⟩
/-- AX_AXIS. -/
def AX_AXIS_obj : ObjSpec := ⟨0x19, 1, 27, 0, 128, 64, 0, 0, 0,
  [AX_AXIS_EN, AX_AXIS_RATE, AX_AXIS_VLOOP, AX_AXIS_PROF, AX_AXIS_TBL_EN, AX_AXIS_FE_ACT, AX_AXIS_BAD_ACT,
   AX_AXIS_PRIO, AX_AXIS_STARTUP_MOVES, AX_AXIS_FB_SRC, AX_AXIS_VFB_SRC, AX_AXIS_OUT_DST, AX_AXIS_TGT_PT,
   AX_AXIS_CTL, AX_AXIS_KPP, AX_AXIS_KVP, AX_AXIS_KVI, AX_AXIS_KVFF, AX_AXIS_KAFF, AX_AXIS_VMAX, AX_AXIS_AMAX,
   AX_AXIS_DMAX, AX_AXIS_JMAX, AX_AXIS_UMIN, AX_AXIS_UMAX, AX_AXIS_SAFE_OUT, AX_AXIS_FE_LIMIT, AX_AXIS_FE_TIME,
   AX_AXIS_STANDSTILL_T, AX_AXIS_TBL_FADE, AX_AXIS_TBL_SPAN, AX_AXIS_POS_SCALE, AX_AXIS_N_F, AX_AXIS_N_ZZ,
   AX_AXIS_N_ZP]⟩
/-- AX_STAT. -/
def AX_STAT_obj : ObjSpec := ⟨0x19, 2, 7, 0, 128, 64, 0, 0, 0,
  [AX_STAT_STATE, AX_STAT_TBL_ACT, AX_STAT_POSLOST, AX_STAT_INBAD, AX_STAT_REPEAT, AX_STAT_MOVES, AX_STAT_POS,
   AX_STAT_RPOS, AX_STAT_VEL, AX_STAT_FERR]⟩
/-- AX_COG. -/
def AX_COG_obj : ObjSpec := ⟨0x19, 3, 256, 0, 128, 64, 0, 0, 0,
  [AX_COG_W]⟩
/-- AX_FRIC. -/
def AX_FRIC_obj : ObjSpec := ⟨0x19, 4, 256, 0, 128, 64, 0, 0, 0,
  [AX_FRIC_W]⟩
/-- AX_ENC. -/
def AX_ENC_obj : ObjSpec := ⟨0x19, 0x10, 5, 0, 16, 16, 0, 0, 0,
  [AX_ENC_EN, AX_ENC_MODE, AX_ENC_FILT, AX_ENC_BITS, AX_ENC_CLKDIV, AX_ENC_LEAD, AX_ENC_COUNT, AX_ENC_ERR,
   AX_ENC_LATE, AX_ENC_WARN, AX_ENC_ZSEEN, AX_ENC_ERRS, AX_ENC_ZPOS]⟩
/-- AX_PWM. -/
def AX_PWM_obj : ObjSpec := ⟨0x19, 0x11, 3, 0, 16, 16, 0, 0, 0,
  [AX_PWM_EN, AX_PWM_ALIGN, AX_PWM_POL, AX_PWM_SAFE_LVL, AX_PWM_PERIOD, AX_PWM_DUTY]⟩
/-- LG_CORE. -/
def LG_CORE_obj : ObjSpec := ⟨0x20, 1, 3, 0, 4, 4, 2, 0, 0,
  [LG_CORE_STATE, LG_CORE_NTASK, LG_CORE_FCAUSE, LG_CORE_BUSY, LG_CORE_UNDO_HWM]⟩
/-- LG_TASK. -/
def LG_TASK_obj : ObjSpec := ⟨0x20, 2, 5, 0, 64, 64, 64, 0, 0,
  [LG_TASK_EN, LG_TASK_KIND, LG_TASK_PRIO, LG_TASK_CORE, LG_TASK_HOME, LG_TASK_STOPPED, LG_TASK_ENTRY, LG_TASK_WDT,
   LG_TASK_MIN_INT, LG_TASK_TRIG, LG_TASK_EDGE, LG_TASK_SRC, LG_TASK_INTERVAL]⟩
/-- LG_TSTAT. -/
def LG_TSTAT_obj : ObjSpec := ⟨0x20, 3, 6, 0, 64, 64, 64, 0, 0,
  [LG_TSTAT_CYCLE, LG_TSTAT_LAST, LG_TSTAT_MIN, LG_TSTAT_MAX, LG_TSTAT_ABANDON, LG_TSTAT_EVT_LOST]⟩
/-- LG_ERR. -/
def LG_ERR_obj : ObjSpec := ⟨0x20, 4, 8, 0, 1, 1, 1, 0, 0,
  [LG_ERR_CAUSE, LG_ERR_TASK, LG_ERR_CORE, LG_ERR_PAR0, LG_ERR_PAR1, LG_ERR_INDEX, LG_ERR_MONO, LG_ERR_SEC, LG_ERR_NS]⟩
/-- LG_BULLPEN. -/
def LG_BULLPEN_obj : ObjSpec := ⟨0x20, 5, 9, 0, 1, 1, 1, 0, 0,
  [LG_BULLPEN_STATE, LG_BULLPEN_ACTIVE, LG_BULLPEN_CRC, LG_BULLPEN_ACT_CRC, LG_BULLPEN_KEPT, LG_BULLPEN_NEW,
   LG_BULLPEN_DROPPED, LG_BULLPEN_RESIZED, LG_BULLPEN_SW_WAIT, LG_BULLPEN_GAP_NS, LG_BULLPEN_SW_SEC, LG_BULLPEN_SW_NS]⟩
/-- UM_CFG. -/
def UM_CFG_obj : ObjSpec := ⟨0x21, 0, 1, 0, 1, 1, 1, 0, 0,
  [UM_CFG_PANEL_EN, UM_CFG_PANEL_DEV, UM_CFG_PANEL]⟩
/-- UM_DO. -/
def UM_DO_obj : ObjSpec := ⟨0x21, 1, 2, 0, 1, 1, 1, 0, 0,
  [UM_DO_SAFE_DIR_LO, UM_DO_SAFE_DIR_HI]⟩
/-- UM_OWN. -/
def UM_OWN_obj : ObjSpec := ⟨0x21, 2, 2, 0, 24, 24, 24, 0, 0,
  [UM_OWN_VALUE, UM_OWN_OWNER, UM_OWN_SEC]⟩
/-- UM_STAT. -/
def UM_STAT_obj : ObjSpec := ⟨0x21, 3, 2, 0, 1, 1, 1, 0, 0,
  [UM_STAT_CONFLICTS, UM_STAT_LOSSES]⟩
/-- PD_SCAN. -/
def PD_SCAN_obj : ObjSpec := ⟨0x22, 1, 2, 0, 16, 16, 16, 0, 0,
  [PD_SCAN_PERIOD, PD_SCAN_POINTS]⟩
/-- PD_SBMAP. -/
def PD_SBMAP_obj : ObjSpec := ⟨0x22, 2, 2, 0, 12288, 12288, 12288, 0, 0,
  [PD_SBMAP_EN, PD_SBMAP_FORM, PD_SBMAP_WORD, PD_SBMAP_INDEX]⟩
/-- PD_STAT. -/
def PD_STAT_obj : ObjSpec := ⟨0x22, 3, 6, 0, 1, 1, 1, 0, 0,
  [PD_STAT_DEFINED, PD_STAT_RETAINED, PD_STAT_MIRRORS, PD_STAT_STALE, PD_STAT_MEMERR, PD_STAT_FORCED]⟩
/-- RP_LANE. -/
def RP_LANE_obj : ObjSpec := ⟨0x23, 1, 1, 0, 64, 64, 64, 0, 0,
  [RP_LANE_FAST, RP_LANE_STRICT]⟩
/-- RP_LSTAT. -/
def RP_LSTAT_obj : ObjSpec := ⟨0x23, 2, 3, 0, 64, 64, 64, 0, 0,
  [RP_LSTAT_STATE, RP_LSTAT_DEPTH, RP_LSTAT_PC, RP_LSTAT_ERR, RP_LSTAT_END_CODE, RP_LSTAT_LOST, RP_LSTAT_COUNT]⟩
/-- RP_STEPS. -/
def RP_STEPS_obj : ObjSpec := ⟨0x23, 3, 1, 0, 1, 1, 1, 0, 0,
  [RP_STEPS_DIRTY]⟩
/-- CS_CFG. -/
def CS_CFG_obj : ObjSpec := ⟨0x28, 1, 1, 0, 1, 1, 1, 0, 0,
  [CS_CFG_WARM_POL, CS_CFG_MAX_GAP]⟩
/-- CS_STAT. -/
def CS_STAT_obj : ObjSpec := ⟨0x28, 2, 3, 0, 1, 1, 1, 0, 0,
  [CS_STAT_SLOT_A, CS_STAT_SLOT_B, CS_STAT_NEWEST, CS_STAT_RESUMABLE, CS_STAT_LAST_START, CS_STAT_BAD_BLOCKS,
   CS_STAT_WRITE_US, CS_STAT_WRITE_SEC, CS_STAT_LETS, CS_STAT_LAST_LET, CS_STAT_LET_MS]⟩
/-- EV_CTL. -/
def EV_CTL_obj : ObjSpec := ⟨0x30, 0, 1, 0, 1, 1, 1, 0, 0,
  [EV_CTL_RECOVER]⟩
/-- EV_CFG. -/
def EV_CFG_obj : ObjSpec := ⟨0x30, 1, 1, 0, 1, 1, 1, 0, 0,
  [EV_CFG_ARCH]⟩
/-- EV_STAT. -/
def EV_STAT_obj : ObjSpec := ⟨0x30, 2, 5, 0, 1, 1, 1, 0, 0,
  [EV_STAT_FROZEN, EV_STAT_LR, EV_STAT_RCV, EV_STAT_STAGED, EV_STAT_NEWEST, EV_STAT_OLDEST, EV_STAT_ARCHIVED,
   EV_STAT_LOST]⟩
/-- EV_LRSTAT. -/
def EV_LRSTAT_obj : ObjSpec := ⟨0x30, 3, 6, 0, 1, 1, 1, 0, 0,
  [EV_LRSTAT_USED, EV_LRSTAT_NP_LOST, EV_LRSTAT_FIRST, EV_LRSTAT_LAST]⟩
/-- EV_LRING. -/
def EV_LRING_obj : ObjSpec := ⟨0x30, 0x10, 4096, 0, 1, 1, 1, 0, 0,
  [EV_LRING_W]⟩
/-- CH_CFG. -/
def CH_CFG_obj : ObjSpec := ⟨0x31, 1, 1, 0, 1, 1, 1, 0, 0,
  [CH_CFG_EN, CH_CFG_BUF_MIB]⟩
/-- CH_STAT. -/
def CH_STAT_obj : ObjSpec := ⟨0x31, 2, 6, 0, 1, 1, 1, 0, 0,
  [CH_STAT_STOPPED, CH_STAT_FILL, CH_STAT_NEXT, CH_STAT_ARCHIVED, CH_STAT_LOST]⟩
/-- AR_CFG. -/
def AR_CFG_obj : ObjSpec := ⟨0x33, 1, 4, 0, 1, 1, 1, 0, 0,
  [AR_CFG_CH_EN, AR_CFG_RETEST, AR_CFG_EV_BLK, AR_CFG_CH_BLK, AR_CFG_DR_BLK]⟩
/-- AR_STAT. -/
def AR_STAT_obj : ObjSpec := ⟨0x33, 2, 4, 0, 2, 1, 1, 0, 0,
  [AR_STAT_STATE, AR_STAT_RETIRED, AR_STAT_EV_OLDEST, AR_STAT_CH_OLDEST, AR_STAT_DR_OLDEST]⟩
/-- DR_CFG. -/
def DR_CFG_obj : ObjSpec := ⟨0x32, 1, 21, 0, 1, 1, 1, 0, 0,
  [DR_CFG_EN, DR_CFG_FULL, DR_CFG_EXTEND, DR_CFG_ARCH, DR_CFG_BUF_MIB, DR_CFG_PRE, DR_CFG_POST, DR_CFG_MAXLEN,
   DR_CFG_FAST_PRE, DR_CFG_FAST_POST, DR_CFG_FINE_MASK, DR_CFG_FAST_MASK, DR_CFG_DI_MASK, DR_CFG_NAME]⟩
/-- DR_TRIG. -/
def DR_TRIG_obj : ObjSpec := ⟨0x32, 2, 1, 0, 32, 32, 32, 0, 0,
  [DR_TRIG_EN, DR_TRIG_KIND, DR_TRIG_EDGE, DR_TRIG_INDEX]⟩
/-- DR_CH. -/
def DR_CH_obj : ObjSpec := ⟨0x32, 3, 6, 0, 96, 96, 96, 0, 0,
  [DR_CH_MULT, DR_CH_UNIT, DR_CH_NAME]⟩
/-- DR_REC. -/
def DR_REC_obj : ObjSpec := ⟨0x32, 4, 5, 0, 64, 64, 64, 0, 0,
  [DR_REC_STATE, DR_REC_NTRIG, DR_REC_EXP_KIB, DR_REC_SERIAL, DR_REC_TR, DR_REC_LEN_US]⟩
/-- FD_CTL. -/
def FD_CTL_obj : ObjSpec := ⟨0x38, 0, 3, 0, 1, 1, 1, 0, 0,
  [FD_CTL_WD_EN, FD_CTL_WD_TIME, FD_CTL_CLR_UV, FD_CTL_CLR_OL]⟩
/-- FD_STAT. -/
def FD_STAT_obj : ObjSpec := ⟨0x38, 1, 3, 0, 1, 1, 1, 0, 0,
  [FD_STAT_FLD, FD_STAT_WD_EXP, FD_STAT_HB_LOST, FD_STAT_HOLD, FD_STAT_FLD_MV, FD_STAT_TEMP, FD_STAT_WD_COUNT]⟩
/-- FD_DI. -/
def FD_DI_obj : ObjSpec := ⟨0x38, 0x10, 6, 0, 48, 48, 48, 0, 0,
  [FD_DI_TYPE, FD_DI_WB_EN, FD_DI_CHAT_INV, FD_DI_CHAT_K, FD_DI_CHAT_W, FD_DI_FILT_N, FD_DI_STUCK_T, FD_DI_VAL,
   FD_DI_VALID, FD_DI_RAW, FD_DI_OW, FD_DI_BAND, FD_DI_CHAT, FD_DI_STUCK, FD_DI_FORCED, FD_DI_I_UA, FD_DI_TRANS,
   FD_DI_CNT, FD_DI_LAST_NS, FD_DI_LAST_SEC]⟩
/-- FD_DO. -/
def FD_DO_obj : ObjSpec := ⟨0x38, 0x20, 4, 0, 32, 32, 32, 0, 0,
  [FD_DO_SAFE, FD_DO_LATCH_UV, FD_DO_OL_RETRY, FD_DO_OW_ON_EN, FD_DO_OW_OFF_EN, FD_DO_TP_EN, FD_DO_TP_W, FD_DO_MODE,
   FD_DO_CMD, FD_DO_BALL, FD_DO_ON, FD_DO_OL, FD_DO_OL_T, FD_DO_OW_ON, FD_DO_OW_OFF, FD_DO_SCS, FD_DO_RF, FD_DO_OVT,
   FD_DO_XFEED, FD_DO_UV_OFF, FD_DO_FORCED, FD_DO_ROW, FD_DO_I_MA, FD_DO_OL_COUNT, FD_DO_TP_FAIL, FD_DO_SEEN]⟩
/-- SF_CFG. -/
def SF_CFG_obj : ObjSpec := ⟨0x39, 1, 3, 0, 1, 1, 0, 0, 0,
  [SF_CFG_OTE, SF_CFG_CRC, SF_CFG_EXP_CRC]⟩
/-- SF_STAT. -/
def SF_STAT_obj : ObjSpec := ⟨0x39, 2, 3, 0, 1, 1, 0, 0, 0,
  [SF_STAT_PFAULT, SF_STAT_PCAUSE, SF_STAT_SEC_CNT, SF_STAT_RUN_MASK, SF_STAT_FAULT_MASK]⟩
/-- SF_FUNC. -/
def SF_FUNC_obj : ObjSpec := ⟨0x39, 0x10, 7, 0, 32, 32, 0, 0, 0,
  [SF_FUNC_EN, SF_FUNC_KIND, SF_FUNC_CONTACT, SF_FUNC_LOCK_EN, SF_FUNC_RST_MODE, SF_FUNC_DEB, SF_FUNC_DISC_T,
   SF_FUNC_IN_A, SF_FUNC_IN_B, SF_FUNC_IN_C, SF_FUNC_IN_D, SF_FUNC_TPA, SF_FUNC_TPB, SF_FUNC_RST_DI,
   SF_FUNC_OSSD_TPW, SF_FUNC_TP_W, SF_FUNC_TP_REC, SF_FUNC_OUT_MASK, SF_FUNC_PT_EN, SF_FUNC_PT]⟩
/-- SF_FSTAT. -/
def SF_FSTAT_obj : ObjSpec := ⟨0x39, 0x11, 4, 0, 32, 32, 0, 0, 0,
  [SF_FSTAT_STATE, SF_FSTAT_FCAUSE, SF_FSTAT_DEM, SF_FSTAT_TEST_A, SF_FSTAT_TEST_B, SF_FSTAT_DEMANDS,
   SF_FSTAT_INCONC, SF_FSTAT_RST_IGN, SF_FSTAT_LAST_NS, SF_FSTAT_LAST_SEC]⟩
/-- LN_LANE. -/
def LN_LANE_obj : ObjSpec := ⟨0x40, 1, 5, 0, 20, 12, 8, 0, 0,
  [LN_LANE_PROTO, LN_LANE_FEC, LN_LANE_RX_INV, LN_LANE_TX_INV, LN_LANE_LOS, LN_LANE_LOL, LN_LANE_UP, LN_LANE_FAILED,
   LN_LANE_STEP, LN_LANE_LOS_CNT, LN_LANE_LOL_CNT, LN_LANE_ERR_BLK, LN_LANE_SKEW]⟩
/-- RB_CFG. -/
def RB_CFG_obj : ObjSpec := ⟨0x41, 1, 1, 0, 1, 1, 1, 0, 0,
  [RB_CFG_EN, RB_CFG_HOPS, RB_CFG_DEVID]⟩
/-- RB_PORT. -/
def RB_PORT_obj : ObjSpec := ⟨0x41, 2, 5, 0, 16, 8, 4, 0, 0,
  [RB_PORT_EN, RB_PORT_SEG, RB_PORT_BOND, RB_PORT_LANE, RB_PORT_NKIND, RB_PORT_NDEV, RB_PORT_NSTN, RB_PORT_C0_OVER,
   RB_PORT_KEPOCH, RB_PORT_CRC_ERR, RB_PORT_AUTH_ERR, RB_PORT_REPLAY, RB_PORT_FRAME_ERR]⟩
/-- RB_STN. -/
def RB_STN_obj : ObjSpec := ⟨0x41, 3, 3, 0, 4096, 4096, 4096, 0, 0,
  [RB_STN_EN, RB_STN_SEG, RB_STN_CYCLE, RB_STN_MISS, RB_STN_WD, RB_STN_APPLY, RB_STN_OUT_LEN, RB_STN_IN_LEN,
   RB_STN_NREF]⟩
/-- RB_STNST. -/
def RB_STNST_obj : ObjSpec := ⟨0x41, 4, 2, 0, 4096, 4096, 4096, 0, 0,
  [RB_STNST_STATE, RB_STNST_SST, RB_STNST_MISSES, RB_STNST_DROPS]⟩
/-- EN_PORT. -/
def EN_PORT_obj : ObjSpec := ⟨0x42, 1, 4, 4, 20, 12, 8, 0, 0,
  [EN_PORT_AN, EN_PORT_VLAN, EN_PORT_PCP, EN_PORT_VID, EN_PORT_MAC_HI, EN_PORT_MAC_LO, EN_PORT_RX_DROP]⟩
/-- EN_GOOSE. -/
def EN_GOOSE_obj : ObjSpec := ⟨0x42, 2, 4, 0, 1, 1, 1, 0, 0,
  [EN_GOOSE_EN, EN_GOOSE_APPID, EN_GOOSE_T0, EN_GOOSE_T1, EN_GOOSE_PORTS, EN_GOOSE_CONFREV]⟩
/-- TU_CFG. -/
def TU_CFG_obj : ObjSpec := ⟨0x43, 1, 3, 0, 1, 1, 1, 0, 0,
  [TU_CFG_ROLE, TU_CFG_SERVO, TU_CFG_DOMAIN, TU_CFG_RB_SYNC, TU_CFG_SERVO_TO, TU_CFG_HO_PPB, TU_CFG_UTC_OFS,
   TU_CFG_LEAP61, TU_CFG_LEAP59]⟩
/-- TU_ADJ. -/
def TU_ADJ_obj : ObjSpec := ⟨0x43, 2, 7, 0, 1, 1, 1, 0, 0,
  [TU_ADJ_INC_FRAC, TU_ADJ_INC_NS, TU_ADJ_SLEW_NS, TU_ADJ_SLEW_MS, TU_ADJ_STEP_S, TU_ADJ_STEP_NS, TU_ADJ_LOCK,
   TU_ADJ_HOLD]⟩
/-- TU_STAT. -/
def TU_STAT_obj : ObjSpec := ⟨0x43, 3, 5, 0, 1, 1, 1, 0, 0,
  [TU_STAT_STATE, TU_STAT_EVER, TU_STAT_SLEWING, TU_STAT_STEPS, TU_STAT_NOW_SEC_LO, TU_STAT_NOW_SEC_HI,
   TU_STAT_NOW_FRAC, TU_STAT_NOW_NS]⟩
/-- TU_PORT. -/
def TU_PORT_obj : ObjSpec := ⟨0x43, 4, 3, 0, 16, 8, 4, 0, 0,
  [TU_PORT_ASYM, TU_PORT_MPD, TU_PORT_PD_OK, TU_PORT_PSTATE]⟩
/-- SC_STAT. -/
def SC_STAT_obj : ObjSpec := ⟨0x48, 1, 2, 0, 1, 1, 1, 0, 0,
  [SC_STAT_OWNED, SC_STAT_OPENED, SC_STAT_TAMPER, SC_STAT_UNSIGNED, SC_STAT_FW_SLOT, SC_STAT_FW_PEND,
   SC_STAT_SESSIONS, SC_STAT_FW_SVN, SC_STAT_CFG_SVN, SC_STAT_OWN_CNT, SC_STAT_OPEN_CNT, SC_STAT_PROV_CNT]⟩
/-- SC_CERT. -/
def SC_CERT_obj : ObjSpec := ⟨0x48, 2, 1024, 0, 1, 1, 1, 0, 0,
  [SC_CERT_W]⟩
/-- MB_RINGREG. -/
def MB_RINGREG_obj : ObjSpec := ⟨0x100, 0, 8, 0, 64, 64, 64, 0, 0,
  [MB_RINGREG_BASE_LO, MB_RINGREG_BASE_HI, MB_RINGREG_EN, MB_RINGREG_LOC, MB_RINGREG_KIND, MB_RINGREG_PRIO,
   MB_RINGREG_MASTER, MB_RINGREG_CPL_RING, MB_RINGREG_SIZE_LOG2, MB_RINGREG_INT_EN, MB_RINGREG_VEC, MB_RINGREG_PROD,
   MB_RINGREG_CONS, MB_RINGREG_FAULT, MB_RINGREG_FCODE, MB_RINGREG_DROP]⟩
/-- HE_INTCTL. -/
def HE_INTCTL_obj : ObjSpec := ⟨0x100, 1, 2, 0, 1, 1, 1, 0, 0,
  [HE_INTCTL_GEN, HE_INTCTL_SB_VEC, HE_INTCTL_SB_TRIP, HE_INTCTL_SB_ERR, HE_INTCTL_SB_MODE, HE_INTCTL_SB_CAUSE]⟩
/-- HE_BAR4CFG. -/
def HE_BAR4CFG_obj : ObjSpec := ⟨0x100, 2, 2, 0, 1, 1, 1, 0, 0,
  [HE_BAR4CFG_WR_EN, HE_BAR4CFG_MASTER, HE_BAR4CFG_DROP]⟩
/-- MSIX_TABLE. -/
def MSIX_TABLE_obj : ObjSpec := ⟨0x100, 3, 4, 0, 64, 64, 64, 0, 0,
  [MSIX_TABLE_ADDR_LO, MSIX_TABLE_ADDR_HI, MSIX_TABLE_DATA, MSIX_TABLE_MASK]⟩
/-- MSIX_PBA. -/
def MSIX_PBA_obj : ObjSpec := ⟨0x100, 4, 2, 0, 1, 1, 1, 0, 0,
  [MSIX_PBA_PEND]⟩

def objs01 : List ObjSpec := [KP_WAKE_obj]
def objs02 : List ObjSpec := [MB_CAP_obj, MB_MODECFG_obj, MB_MODESTAT_obj]
def objs08 : List ObjSpec := [AF_CORE_obj, AF_HEALTH_obj, AF_CHAN_obj, AF_CAL_obj, AF_CALF_obj, AF_TMR_obj, AF_URG_obj, AF_ARC_obj]
def objs09 : List ObjSpec := [FC_CHAN_obj, FC_BANKA_obj, FC_BANKB_obj, FC_GRP_obj, FC_VCH_obj, FC_TRACK_obj, FC_SVSTR_obj]
def objs10 : List ObjSpec := [PE_ELEM_obj, PE_ESTAT_obj, PE_MEAS_obj, PE_UCURVE_obj, PE_XBLK_obj]
def objs11 : List ObjSpec := [TM_CTL_obj, TM_TCH_obj, TM_MASK_obj, TM_BRK_obj, TM_BRKST_obj, TM_ZONE_obj, TM_ZSTAT_obj, TM_XIN_obj, TM_RX_obj]
def objs18 : List ObjSpec := [LE_LOOP_obj, LE_BANKA_obj, LE_BANKB_obj, LE_STAT_obj, LE_GRP_obj, LE_SURGE_obj, LE_TUNE_obj]
def objs19 : List ObjSpec := [AX_AXIS_obj, AX_STAT_obj, AX_COG_obj, AX_FRIC_obj, AX_ENC_obj, AX_PWM_obj]
def objs20 : List ObjSpec := [LG_CORE_obj, LG_TASK_obj, LG_TSTAT_obj, LG_ERR_obj, LG_BULLPEN_obj]
def objs21 : List ObjSpec := [UM_CFG_obj, UM_DO_obj, UM_OWN_obj, UM_STAT_obj]
def objs22 : List ObjSpec := [PD_SCAN_obj, PD_SBMAP_obj, PD_STAT_obj]
def objs23 : List ObjSpec := [RP_LANE_obj, RP_LSTAT_obj, RP_STEPS_obj]
def objs28 : List ObjSpec := [CS_CFG_obj, CS_STAT_obj]
def objs30 : List ObjSpec := [EV_CTL_obj, EV_CFG_obj, EV_STAT_obj, EV_LRSTAT_obj, EV_LRING_obj]
def objs31 : List ObjSpec := [CH_CFG_obj, CH_STAT_obj]
def objs33 : List ObjSpec := [AR_CFG_obj, AR_STAT_obj]
def objs32 : List ObjSpec := [DR_CFG_obj, DR_TRIG_obj, DR_CH_obj, DR_REC_obj]
def objs38 : List ObjSpec := [FD_CTL_obj, FD_STAT_obj, FD_DI_obj, FD_DO_obj]
def objs39 : List ObjSpec := [SF_CFG_obj, SF_STAT_obj, SF_FUNC_obj, SF_FSTAT_obj]
def objs40 : List ObjSpec := [LN_LANE_obj]
def objs41 : List ObjSpec := [RB_CFG_obj, RB_PORT_obj, RB_STN_obj, RB_STNST_obj]
def objs42 : List ObjSpec := [EN_PORT_obj, EN_GOOSE_obj]
def objs43 : List ObjSpec := [TU_CFG_obj, TU_ADJ_obj, TU_STAT_obj, TU_PORT_obj]
def objs48 : List ObjSpec := [SC_STAT_obj, SC_CERT_obj]
def bar0Objs : List ObjSpec := [MB_RINGREG_obj, HE_INTCTL_obj, HE_BAR4CFG_obj, MSIX_TABLE_obj, MSIX_PBA_obj]

/-- The objects of one unit (Table 1.3); a unit ID without objects has none.  The pseudo-unit 0x100 holds the
BAR0 register blocks, which no object ID reaches (Table 3.8 gives the unit eight bits). -/
def unitObjs (u : Nat) : List ObjSpec :=
  match u with
  | 1 => objs01
  | 2 => objs02
  | 8 => objs08
  | 9 => objs09
  | 0x10 => objs10
  | 0x11 => objs11
  | 0x18 => objs18
  | 0x19 => objs19
  | 0x20 => objs20
  | 0x21 => objs21
  | 0x22 => objs22
  | 0x23 => objs23
  | 0x28 => objs28
  | 0x30 => objs30
  | 0x31 => objs31
  | 0x33 => objs33
  | 0x32 => objs32
  | 0x38 => objs38
  | 0x39 => objs39
  | 0x40 => objs40
  | 0x41 => objs41
  | 0x42 => objs42
  | 0x43 => objs43
  | 0x48 => objs48
  | 0x100 => bar0Objs
  | _ => []

def pePHOCFields : List Field := [PE_OC_CURVE, PE_OC_IS, PE_OC_TMS, PE_OC_RESET, PE_OC_HYST, PE_OC_TD, PE_OC_TMIN, PE_OC_TRD, PE_OC_RESET_TR, PE_OC_MMAX, PE_OC_DIRSUP, PE_OC_DIRFB, PE_OC_DIREL]
def peDIRFields : List Field := [PE_DIR_RCA, PE_DIR_HALF, PE_DIR_IMIN, PE_DIR_VMIN, PE_DIR_MEMT, PE_DIR_VGRP]
def peUVFields : List Field := [PE_VOLT_CURVE, PE_VOLT_VS, PE_VOLT_TMS, PE_VOLT_ALL, PE_VOLT_HYST, PE_VOLT_TD, PE_VOLT_VBLK]
def peUFFields : List Field := [PE_FREQ_FS, PE_FREQ_TD, PE_FREQ_VMIN]
def peROCOFFields : List Field := [PE_ROCOF_DIRN, PE_ROCOF_RS, PE_ROCOF_NWIN, PE_ROCOF_TD, PE_ROCOF_VMIN]
def peTHERMFields : List Field := [PE_THERM_IB, PE_THERM_K, PE_THERM_K2, PE_THERM_TAUR, PE_THERM_TAUS, PE_THERM_ALARM, PE_THERM_RESTART, PE_THERM_INIT, PE_THERM_ISTOP]
def peMSTARTFields : List Field := [PE_MSTART_ISTART, PE_MSTART_IRUN, PE_MSTART_ISTOP, PE_MSTART_ILR, PE_MSTART_TSTART, PE_MSTART_ISTALL, PE_MSTART_TSTALL]
def peRSTINHFields : List Field := [PE_RSTINH_THERM_EN, PE_RSTINH_THERMEL, PE_RSTINH_STARTEL, PE_RSTINH_NSTART, PE_RSTINH_TWIN, PE_RSTINH_TINH]
def peUCFields : List Field := [PE_UC_IUC, PE_UC_IMIN, PE_UC_TD]
def pePREVFields : List Field := [PE_PREV_RATIO, PE_PREV_XMIN, PE_PREV_TD]
def peDIFFFields : List Field := [PE_DIFF_W4_EN, PE_DIFF_W3_EN, PE_DIFF_W4, PE_DIFF_W3, PE_DIFF_W2, PE_DIFF_VG, PE_DIFF_ZSR, PE_DIFF_TAP, PE_DIFF_IDMIN, PE_DIFF_K1, PE_DIFF_K2, PE_DIFF_IB2, PE_DIFF_H2, PE_DIFF_H5, PE_DIFF_XBLK, PE_DIFF_IDU]
def peARCFields : List Field := [PE_ARC_LONLY, PE_ARC_INMASK, PE_ARC_ITHR, PE_ARC_CWIN]
def peFIOCFields : List Field := [PE_FIOC_THR]
def peZDIFFields : List Field := [PE_ZDIF_ZONE, PE_ZDIF_REC]

end Sys2Proof.Machine
end

