-- ==== Sys2Proof/Machine/Keys.lean ====
section
/-! DEFINITION. Where a word of an object stands in the register table, and its reset value (R9). -/

namespace Sys2Proof.Machine

/-- The key of a word: unit, 8-bit field group, 16-bit index and word of Table 3.8; no object has 4,096 words. -/
def regKey (unit grp i word : Nat) : Nat := ((unit * 256 + grp % 256) * 65536 + i % 65536) * 4096 + word % 4096

/-- The object of a unit with a field group. -/
def findObj (unit grp : Nat) : Option ObjSpec := (unitObjs unit).find? (fun o => o.grp == grp)

/-- Does the field cover word `w`? -/
def Field.covers (f : Field) (w : Nat) : Bool :=
  if f.stride = 0 then w == f.word
  else decide (f.word ≤ w) && (w - f.word) % f.stride == 0 && decide ((w - f.word) / f.stride < f.cnt)

/-- The reset word that a list of fields gives word `w`. -/
def resetOfFields (w : Nat) : List Field → Nat
  | [] => 0
  | f :: t => (if f.covers w then f.reset * 2 ^ f.lo else 0) + resetOfFields w t

/-- The reset value of a word of an object. -/
def resetWord (unit grp w : Nat) : W32 :=
  match findObj unit grp with
  | none => 0
  | some o => BitVec.ofNat 32 (resetOfFields w o.fields)

/-- What a word that nothing changed since reset reads as, by its key. -/
def regDefault (k : Nat) : W32 :=
  resetWord (k / 4096 / 65536 / 256) (k / 4096 / 65536 % 256) (k % 4096)

/-- The bits of word `w` with one of the given access codes. -/
def maskOfFields (acc : Acc → Bool) (w : Nat) : List Field → Nat
  | [] => 0
  | f :: t => (if f.covers w && acc f.acc then natMask f.hi f.lo else 0) ||| maskOfFields acc w t

end Sys2Proof.Machine
end

