-- ==== Sys2Proof/Machine/LaneTypes.lean ====
section
/-! DEFINITION. Plain-data types of the state of the lanes, Renby ports, stations and Ethernet (17). -/

namespace Sys2Proof.Machine

open Sys2Proof

/-- A STATION_ENABLE under way (R492): the command, the first cycle boundary that counts (TAI ns), the deadline
(elapsed). -/
structure StnEnable where
  cmd : Nat × Nat
  start : Nat
  deadline : Nat
  deriving DecidableEq, Repr

/-- A remote station beyond its registers. -/
structure StnSt where
  /-- delivers live inputs to logic -/
  live : Bool
  /-- its last live input bytes -/
  inp : List Nat
  /-- sent CMD run before TRAIN exit, to start Live there -/
  starting : Bool
  /-- boundary of the cycle under way (TAI ns plus one; 0 none); an ST_IN for it arrived; it was counted as missed -/
  cur : Nat
  got : Bool
  judged : Bool
  /-- consecutive misses -/
  run : Nat
  /-- a running ST_IN was ever taken -/
  seen : Bool
  /-- payload words of the last ST_OUT -/
  out : List Nat
  enable : Option StnEnable
  deriving DecidableEq, Repr

def StnSt.init : StnSt :=
  { live := false, inp := [], starting := false, cur := 0, got := false, judged := false, run := 0, seen := false, out := [],
    enable := none }

/-- A Renby port beyond its registers; times in elapsed units. -/
structure PortSt where
  /-- last step of the port, 5 to 8, or 0 while its lanes train -/
  step : Nat
  stepAt : Nat
  /-- training begins again no sooner than this -/
  retryAt : Nat
  /-- the capability exchange was accepted -/
  capOk : Bool
  /-- AUTH messages received: bit 0 HELLO, bit 1 CERT, bit 2 FINISH accepted -/
  auth : Nat
  /-- last accepted LCTR plus one, LCTR of the next frame sent -/
  lctrRx : Nat
  lctrTx : Nat
  /-- times of AUTH_ERR and REPLAY drops within a second, newest first; AUTH_ALARM last sent plus one -/
  drops : List Nat
  alarmAt : Nat
  /-- the neighbour's CAP frame was refused: the port stays at step 5 (R478) -/
  capBad : Bool
  /-- frames under reassembly, the innermost first: class, and data blocks newest first (R470) -/
  frames : List (Nat × List (BitVec 64))
  deriving DecidableEq, Repr

def PortSt.init : PortSt :=
  { step := 0, stepAt := 0, retryAt := 0, capOk := false, auth := 0, lctrRx := 0, lctrTx := 0, drops := [], alarmAt := 0,
    capBad := false, frames := [] }

/-- A frame as it left: header and payload words, the ports it left by, how many of its class. -/
structure FrameOut where
  words : List Nat
  ports : List Nat
  count : Nat
  deriving DecidableEq, Repr

def FrameOut.init : FrameOut := ⟨[], [], 0⟩

/-- GOOSE publication (R495): dataset sent last, numbers, interval to the next repeat in ms, when it was sent plus one. -/
structure GooseSt where
  data : Nat
  stNum : Nat
  sqNum : Nat
  interval : Nat
  sentAt : Nat
  test : Bool
  count : Nat
  deriving DecidableEq, Repr

/-- Lanes, ports, stations and Ethernet. -/
structure RbSt where
  stn : AMap StnSt
  port : AMap PortSt
  /-- elapsed time since which a lane's LOL is clear; time of its last step -/
  lolClr : AMap Nat
  laneAt : AMap Nat
  /-- the last block received on a lane, as the descrambler holds it, and which of its last 64 sync headers were invalid, newest
  first (R466, R468) -/
  lastBlk : AMap (BitVec 64)
  badSync : AMap (List Bool)
  /-- SEQ of the next frame, and the last frame sent, by class -/
  seq : AMap Nat
  sent : AMap FrameOut
  /-- the last frame forwarded -/
  fwd : FrameOut
  /-- newest sequence numbers seen, by key of R482 -/
  seen : AMap (List Nat)
  /-- segment on which a device's TOPO frames arrive first, plus one; its ZIDs -/
  seg : AMap Nat
  zids : AMap (List Nat)
  /-- index of the last TOPO millisecond plus one, the mode it showed -/
  topoAt : Nat
  topoMode : Nat
  /-- Captain's Ethernet queue; drops by lane within the last second, newest first; EN_DROP last sent plus one; PAUSE frames -/
  capQ : Nat
  enDrops : AMap (List Nat)
  enAt : AMap Nat
  pauses : Nat
  goose : GooseSt
  /-- gocbRef, datSet and goID of EN_GOOSE (R495), 16 words each -/
  gooseStr : List W32
  deriving DecidableEq, Repr

def RbSt.init : RbSt :=
  { stn := [], port := [], lolClr := [], laneAt := [], lastBlk := [], badSync := [], seq := [], sent := [], fwd := FrameOut.init, seen := [], seg := [],
    zids := [], topoAt := 0, topoMode := 1, capQ := 0, enDrops := [], enAt := [], pauses := 0,
    goose := ⟨0, 0, 0, 0, 0, false, 0⟩, gooseStr := [] }

end Sys2Proof.Machine
end

