-- ==== Sys2Proof/Machine/LogicTypes.lean ====
section
/-! DEFINITION. Plain-data types of the state of the logic engine and the Bullpen (10, 11). -/

namespace Sys2Proof.Machine

open Sys2Proof

/-- A cause for the error task (Table 10.5, Table 10.6): cause, task, core, parameters, instruction index, LG_MONO,
time. -/
structure LgCause where
  cause : Nat
  task : Nat
  core : Nat
  par0 : Nat
  par1 : Nat
  index : Nat
  mono : Nat
  time : Stamp
  deriving DecidableEq, Repr

/-- How a task's execution ended. -/
inductive LgEnd where
  /-- END was reached; the output write is to come -/
  | done
  /-- END is not reached before the cycle watchdog expires -/
  | endless
  /-- a fault that abandons the cycle: cause, instruction index -/
  | fault (cause index : Nat)
  deriving DecidableEq, Repr

/-- An open cycle: its snapshot (elapsed), LG_MONO there, what it staged, its undo log, how it ended. -/
structure LgOpen where
  snapAt : Nat
  /-- the watchdog limit taken at the snapshot, µs -/
  wdt : Nat
  q : AMap (Option Nat)
  /-- staged point values: raw value and failed conversion -/
  p : AMap (Option (Nat × Bool))
  /-- old values of M words written, with the entries used -/
  undo : AMap (Option Nat)
  entries : Nat
  ended : LgEnd
  /-- stations live at the snapshot -/
  liveStn : List Nat
  deriving DecidableEq, Repr

/-- A task beyond its registers. -/
structure LgTask where
  open_ : Option LgOpen
  /-- last snapshot (elapsed) plus one, for MIN_INT and LAST -/
  lastSnap : Nat
  /-- MIN_INT as taken at the last snapshot, µs (R305) -/
  minInt : Nat
  /-- consecutive abandonments -/
  fails : Nat
  /-- a trigger pends, one more is latched -/
  pend : Bool
  latched : Bool
  /-- triggers lost in the last second (TAI), and when EVT_LOST was last sent -/
  lost : List Nat
  lostAt : Nat
  /-- the last interval instant that triggered (TAI) plus one -/
  trigAt : Nat
  deriving DecidableEq, Repr

def LgTask.init : LgTask :=
  { open_ := none, lastSnap := 0, minInt := 0, fails := 0, pend := false, latched := false, lost := [], lostAt := 0, trigAt := 0 }

/-- A switch or rollback under way (R311): its command, since when it quiesces (elapsed). -/
structure LgSwitch where
  cmd : Nat × Nat
  rollback : Bool
  since : Nat
  deriving DecidableEq, Repr

/-- Busy time of a core: fabric cycles in the running second, and the instant (elapsed) up to which they are counted. -/
structure LgBusy where
  acc : Nat
  upTo : Nat
  deriving DecidableEq, Repr

/-- The logic engine. -/
structure LgSt where
  active : Option LogicImage
  bullpen : Option LogicImage
  /-- the committed logic image, which BOOT loads (R315) -/
  committed : Option LogicImage
  /-- the Bullpen image came in without a signature (R533) -/
  bpUnsigned : Bool
  switch : Option LgSwitch
  /-- no task runs before this instant (elapsed): end of a carry-over -/
  holdTo : Nat
  /-- M, by word -/
  m : AMap Nat
  /-- Q images, by byte -/
  q : AMap Nat
  tasks : AMap LgTask
  /-- causes that wait, per core, and causes merged into OVERFLOW -/
  causes : AMap (List LgCause)
  merged : AMap Nat
  busy : AMap LgBusy
  /-- LG_MONO counts from here (elapsed), from the first cold start on -/
  monoBase : Option Int
  /-- tasks run: false before the start, in SAFE and in SENTINEL -/
  running : Bool
  deriving DecidableEq, Repr

def LgSt.init : LgSt :=
  { active := none, bullpen := none, committed := none, bpUnsigned := false, switch := none, holdTo := 0, m := [], q := [], tasks := [],
    causes := [], merged := [], busy := [], monoBase := none, running := false }

end Sys2Proof.Machine
end

