-- ==== Sys2Proof/Machine/PointTypes.lean ====
section
/-! DEFINITION. Plain-data types of the state of the point directory, the Umpire and the recipe engine (11, 12). -/

namespace Sys2Proof.Machine

open Sys2Proof

/-- A point record without its definition bits (Table 12.1): raw value, owner byte, 16-bit quality, CTIME. -/
structure PtRec where
  raw : Nat
  owner : Nat
  qual : Nat
  ctime : Nat
  deriving DecidableEq, Repr

def PtRec.zero : PtRec := ⟨0, 0, 0, 0⟩

/-- A point definition (Table 12.3). -/
structure PtDef where
  type : Nat
  safeDir : Nat
  record : Bool
  retain : Bool
  sinkBad : Nat
  bind : Nat
  scan : Nat
  op : Nat
  op2 : Nat
  deadband : Nat
  init : Nat
  offset : Nat
  deriving DecidableEq, Repr

/-- A mirror's reception (R338): elapsed time of the last record plus one, stale, origin asleep. -/
structure MirSt where
  rx : Nat
  stale : Bool
  asleep : Bool
  deriving DecidableEq, Repr

def MirSt.init : MirSt := ⟨0, false, false⟩

/-- A subscription this device serves (R338): subscriber, point, period code, elapsed time and record last sent. -/
structure SubSt where
  dev : Nat
  index : Nat
  period : Nat
  sentAt : Nat
  sent : List Nat
  deriving DecidableEq, Repr

/-- A remote request that waits for its reply (R339): tag, device, elapsed time; the command and entry it serves;
whether it reads. -/
structure RemReq where
  tag : Nat
  dev : Nat
  time : Nat
  cmd : Option (Nat × Nat)
  pos : Nat
  read : Bool
  deriving DecidableEq, Repr

/-- A change handed to the change recorder (R334, R394): index, raw value, quality bits [15:8], TAI ns of CTIME. -/
structure PtChange where
  index : Nat
  raw : Nat
  qual : Nat
  time : Nat
  deriving DecidableEq, Repr

/-- A POINT_WRITE under way: entries still undecided, entries in all, whether it carries a buffer, the first loss
(position, rank) and the losses. -/
structure WriteCmd where
  cmd : Nat × Nat
  waiting : Nat
  buf : Bool
  lossAt : Nat
  lossRank : Nat
  lost : Nat
  /-- status of an entry that failed otherwise -/
  bad : Option Status
  deriving DecidableEq, Repr

/-- New values of a scan class that become visible together (R332): when (elapsed); index, raw value, quality, CTIME. -/
structure ScanOut where
  due : Nat
  vals : List (Nat × Nat × Nat × Nat)
  deriving DecidableEq, Repr

/-- The point directory. -/
structure PdSt where
  defs : AMap (Option PtDef)
  recs : AMap PtRec
  /-- input forces: raw values (R340) -/
  forces : AMap (Option Nat)
  mirrors : AMap MirSt
  subs : List SubSt
  reqs : List RemReq
  tag : Nat
  writes : List WriteCmd
  /-- mirrors that went stale since MIRROR_STALE was last sent; the first of them; when it was sent plus one -/
  staleCnt : Nat
  staleFirst : Nat
  staleAt : Nat
  /-- the last point frame sent, with its destination and type first; frames sent -/
  tx : List Nat
  txCount : Nat
  /-- index of the last boundary of each scan class plus one -/
  scanAt : AMap Nat
  /-- scan classes run from this instant (elapsed) on (R344) -/
  scanFrom : Nat
  /-- scanned values that are not visible yet -/
  scanned : List ScanOut
  /-- index of the last boundary of each origin period plus one -/
  originAt : AMap Nat
  /-- changes on their way to the change recorder, at most 65,536; what did not fit (R396) -/
  changes : List PtChange
  chLoss : Loss
  /-- uncorrectable SDRAM errors in records (R343) -/
  memErrs : Nat
  deriving DecidableEq, Repr

def PdSt.init : PdSt :=
  { defs := [], recs := [], forces := [], mirrors := [], subs := [], reqs := [], tag := 0, writes := [],
    staleCnt := 0, staleFirst := 0, staleAt := 0, tx := [], txCount := 0, scanAt := [], scanFrom := 0, scanned := [], originAt := [], changes := [],
    chLoss := Loss.none, memErrs := 0 }

/-- A one-shot write registered for the next round (R320). -/
structure UWrite where
  index : Nat
  raw : Nat
  /-- the stored value stands for a conversion that failed (R329) -/
  bad : Bool
  rank : Nat
  src : Nat
  /-- peer device of source 0x9, else 0 -/
  dev : Nat
  cmd : Option (Nat × Nat)
  pos : Nat
  /-- tag of a peer's request -/
  tag : Option Nat
  lane : Option Nat
  /-- replaced by a later write of its source -/
  gone : Bool
  deriving DecidableEq, Repr

/-- A standing demand on a point: raw value, when it was placed (TAI ns). -/
structure PDemand where
  raw : Nat
  time : Nat
  deriving DecidableEq, Repr

/-- The Umpire. -/
structure UmSt where
  writes : List UWrite
  /-- standing demands on points, key index * 16 + rank -/
  stand : AMap (Option PDemand)
  /-- safety evaluator's OFF demands, and forces, on outputs -/
  sfOff : AMap Bool
  forceDo : AMap (Option Bool)
  /-- logic demands by Q byte, and forces of station bytes -/
  q : AMap (Option Nat)
  forceQ : AMap (Option Nat)
  /-- logic bytes handed over once, whose demand ends with the next round (R313) -/
  qOnce : List Nat
  /-- station output bytes as resolved; as the last rounds left them, newest first, each with its end in µs -/
  qOut : AMap Nat
  qPast : List (Nat × AMap Nat)
  /-- conflicts reported: target, winner and loser bytes -/
  told : List (Nat × Nat × Nat)
  /-- index of the last round plus one -/
  roundAt : Nat
  deriving DecidableEq, Repr

def UmSt.init : UmSt :=
  { writes := [], stand := [], sfOff := [], forceDo := [], q := [], forceQ := [], qOnce := [], qOut := [], qPast := [], told := [], roundAt := 0 }

/-- A lane operation that waits for a tick: operation, step, command, earliest TAI ns. -/
structure LaneReq where
  op : Nat
  step : Nat
  cmd : Nat × Nat
  notBefore : Nat
  deriving DecidableEq, Repr

/-- A recipe lane (R346 to R352). -/
structure RpLane where
  /-- 0 IDLE, 1 RUNNING, 2 HELD, 3 ENDED, 4 ERROR -/
  state : Nat
  pc : Nat
  stack : List Nat
  /-- j of RAMP or w of WAIT, the step under way, the latched start of a RAMP (binary64) -/
  count : Nat
  inStep : Bool
  start : Nat
  err : Nat
  endCode : Nat
  lost : Nat
  /-- a write was lost under STRICT -/
  lostErr : Bool
  reqs : List LaneReq
  /-- index of the last tick plus one -/
  tickAt : Nat
  deriving DecidableEq, Repr

def RpLane.init : RpLane :=
  { state := 0, pc := 0, stack := [], count := 0, inStep := false, start := 0, err := 0, endCode := 0, lost := 0,
    lostErr := false, reqs := [], tickAt := 0 }

/-- A lane's tick whose writes are on their way to the round that begins 50 µs after it: lane, that round (TAI ns), writes, the lane
before the tick. -/
structure LaneOut where
  lane : Nat
  due : Nat
  writes : List (Nat × Nat × Bool)
  before : RpLane
  deriving DecidableEq, Repr

/-- The recipe engine. -/
structure RpSt where
  lanes : AMap RpLane
  /-- step memory: words 0 to 4 of a step -/
  steps : AMap (List W32)
  /-- blocks written by LOAD since the committed image -/
  dirty : AMap Bool
  out : List LaneOut
  /-- lanes tick from this instant (elapsed) on (R351) -/
  ticksFrom : Nat
  deriving DecidableEq, Repr

def RpSt.init : RpSt := ⟨[], [], [], [], 0⟩

end Sys2Proof.Machine
end

