-- ==== Sys2Proof/Machine/Fixed.lean ====
section
/-! DEFINITION. Exact integer arithmetic for the formulas the manual writes over the reals: square roots, powers and
logarithms to a fixed number of fraction bits, complex numbers, the unit circle.  The manual states formulas and
tolerances and no arithmetic, so the fraction bits are the model's (assumption 30); they are far inside Table 7.12. -/

namespace Sys2Proof.Machine

open Sys2Proof

/-! Roots, powers, logarithms. -/

/-- Bits of the root below `k`, most significant first. -/
def isqrtGo (n : Nat) : Nat → Nat → Nat
  | 0, r => r
  | k + 1, r => if (r + 2 ^ k) * (r + 2 ^ k) ≤ n then isqrtGo n k (r + 2 ^ k) else isqrtGo n k r

/-- Integer square root. -/
def isqrt (n : Nat) : Nat := isqrtGo n (n.log2 / 2 + 1) 0

/-- Fraction bits of a logarithm: `m` in [1, 2) with 60 fraction bits. -/
def log2Go : Nat → Nat → Nat → Nat
  | 0, _, acc => acc
  | k + 1, m, acc =>
    let m2 := m * m / 2 ^ 60
    if 2 ^ 61 ≤ m2 then log2Go k (m2 / 2) (acc * 2 + 1) else log2Go k m2 (acc * 2)

/-- log2 of `x / 2^40`, with 40 fraction bits; `x` positive. -/
def log2Q (x : Nat) : Int :=
  let e := x.log2
  let m := if e ≤ 60 then x * 2 ^ (60 - e) else x / 2 ^ (e - 60)
  (Int.ofNat e - 40) * 2 ^ 40 + log2Go 40 m 0

/-- Product of the powers 2^(2^-k) that the fraction bits select, most significant first. -/
def exp2Go : Nat → Nat → Nat → Nat → Nat
  | 0, _, _, acc => acc
  | k + 1, f, c, acc => exp2Go k f (isqrt (c * 2 ^ 60)) (if natBit f k then acc * c / 2 ^ 60 else acc)

/-- 2 to the power `e / 2^40`, with 40 fraction bits. -/
def exp2Q (e : Int) : Nat :=
  let i := e / 2 ^ 40
  let f := (e % 2 ^ 40).toNat
  let v := exp2Go 40 f (isqrt (2 * 2 ^ 120)) (2 ^ 60)
  if 0 ≤ i then v * 2 ^ i.toNat / 2 ^ 20 else v / 2 ^ (20 + (-i).toNat)

/-- `(x / 2^40) ^ (num / den)` with 40 fraction bits. -/
def powQ (x num den : Nat) : Nat :=
  if num = 2 * den then x * x / 2 ^ 40 else if num = den then x else exp2Q (log2Q x * num / den)

/-- e to the power `-x / 2^40`, with 40 fraction bits (log2 e with 40 fraction bits is 1586259972792). -/
def expNegQ (x : Nat) : Nat := exp2Q (-((x * 1586259972792 / 2 ^ 40 : Nat) : Int))

/-! The unit circle. -/

/-- cos(2π k / 64) times 2^30 for k = 0 to 16. -/
def cosQuarter : List Int :=
  [1073741824, 1068571464, 1053110176, 1027506862, 992008094, 946955747, 892783698, 830013654, 759250125,
   681174602, 596538995, 506158392, 410903207, 311690799, 209476638, 105245103, 0]

/-- cos(2π k / 64) times 2^30. -/
def cos64 (k : Nat) : Int :=
  let r := k % 64
  if r ≤ 16 then cosQuarter.getD r 0
  else if r ≤ 32 then -(cosQuarter.getD (32 - r) 0)
  else if r ≤ 48 then -(cosQuarter.getD (r - 32) 0)
  else cosQuarter.getD (64 - r) 0

/-- sin(2π k / 64) times 2^30. -/
def sin64 (k : Nat) : Int := cos64 (k + 48)

/-- Taylor sum of alternating terms from degree `d`: `t` the present term, `x2` the square of the angle, 60 bits. -/
def taylorGo (x2 : Int) : Nat → Int → Int → Int → Int
  | 0, _, _, acc => acc
  | k + 1, d, t, acc => taylorGo x2 k (d + 2) (-(t * x2 / 2 ^ 60) / ((d + 1) * (d + 2))) (acc + t)

/-- cos and sin (40 fraction bits) of `t / 2^40` turns: the octant, then a Taylor sum (2π is 7244019458077122842 / 2^60). -/
def cisTurns (t : Int) : Int × Int :=
  let u := t % 2 ^ 40
  let q := u / 2 ^ 38
  let x := (u % 2 ^ 38) * 7244019458077122842 / 2 ^ 40
  let c := taylorGo (x * x / 2 ^ 60) 16 0 (2 ^ 60) 0 / 2 ^ 20
  let s := taylorGo (x * x / 2 ^ 60) 16 1 x 0 / 2 ^ 20
  if q = 0 then (c, s) else if q = 1 then (-s, c) else if q = 2 then (-c, -s) else (s, -c)

/-! Complex numbers. -/

/-- A complex number; phasors carry 16 fraction bits. -/
structure Cx where
  re : Int
  im : Int
  deriving DecidableEq, Repr

def Cx.add (a b : Cx) : Cx := ⟨a.re + b.re, a.im + b.im⟩
def Cx.sub (a b : Cx) : Cx := ⟨a.re - b.re, a.im - b.im⟩
def Cx.neg (a : Cx) : Cx := ⟨-a.re, -a.im⟩
def Cx.div (a : Cx) (n : Int) : Cx := ⟨a.re / n, a.im / n⟩
/-- Rotation by a unit vector with 40 fraction bits. -/
def Cx.rot (a : Cx) (u : Int × Int) : Cx :=
  ⟨(a.re * u.1 - a.im * u.2) / 2 ^ 40, (a.re * u.2 + a.im * u.1) / 2 ^ 40⟩
/-- Square of the magnitude. -/
def Cx.sq (a : Cx) : Nat := (a.re * a.re + a.im * a.im).toNat
/-- Magnitude, with the fraction bits of the number. -/
def Cx.mag (a : Cx) : Nat := isqrt a.sq
/-- Product with the conjugate of another number (32 fraction bits for two phasors). -/
def Cx.mulConj (a b : Cx) : Cx := ⟨a.re * b.re + a.im * b.im, a.im * b.re - a.re * b.im⟩
def Cx.sum (l : List Cx) : Cx := l.foldl Cx.add ⟨0, 0⟩

/-- Turns of `n` tenths of a degree. -/
def tenths (n : Int) : Int := n * 2 ^ 40 / 3600

/-- a = 1∠120° and its square. -/
def unitA : Int × Int := cisTurns (tenths 1200)
def unitA2 : Int × Int := cisTurns (tenths 2400)

end Sys2Proof.Machine
end

