-- ==== Sys2Proof/Machine/ProtTypes.lean ====
section
/-! DEFINITION. Plain-data types of the state of the protection elements and the trip path (07, 08). -/

namespace Sys2Proof.Machine

/-- Running state of one phase of an element, or of the element as a whole. -/
structure PePh where
  /-- accumulator G with 56 fraction bits (R186) -/
  g : Nat
  /-- passes since pickup -/
  held : Nat
  /-- passes with G at 1 -/
  full : Nat
  /-- passes with pickup clear (R188) -/
  clr : Nat
  /-- consecutive counts: fast samples above (R204), passes unrestrained (R201) -/
  cnt : Nat
  /-- passes quality-blocked without interruption, at most 801 -/
  qb : Nat
  pu : Bool
  op : Bool
  /-- polarising memory: the phasor, the instant its window ends at, and the start of its pass (R191) -/
  mem : Option (Cx × Nat × Nat)
  deriving DecidableEq, Repr

def PePh.init : PePh := ⟨0, 0, 0, 0, 0, 0, false, false, none⟩

/-- Running state of an element (R170 to R209). -/
structure PeEl where
  a : PePh
  b : PePh
  c : PePh
  e : PePh
  /-- THERM: θ with 48 fraction bits, last valid q with 48 fraction bits and whether running -/
  theta : Nat
  lastQ : Nat
  lastRun : Bool
  /-- MSTART: state, S in µs with 32 fraction bits, consecutive passes below ISTOP, and at or above ISTALL -/
  st : Nat
  sAcc : Nat
  lowT : Nat
  stallT : Nat
  /-- RSTINH: start stamps (elapsed, newest first) and when the stopped state was last entered -/
  starts : List Nat
  stopAt : Option Nat
  /-- ROCOF: FREQ values, newest first -/
  freqs : List Nat
  /-- ARC: when a sample last reached ITHR (TAI ns) -/
  curAt : Option Nat
  pu : Bool
  op : Bool
  qblk : Bool
  blkd : Bool
  puPh : Nat
  opPh : Nat
  ovr : Bool
  rstr : Bool
  acc : Nat
  val : Nat
  /-- PU, OP and QBLK as last handed to EV (R180) -/
  comPu : Bool
  comOp : Bool
  comQ : Bool
  /-- a fast element after SENTINEL, before its first valid fast sample (R209) -/
  asleep : Bool
  deriving DecidableEq, Repr

def PeEl.init : PeEl :=
  { a := PePh.init, b := PePh.init, c := PePh.init, e := PePh.init, theta := 0, lastQ := 0, lastRun := false,
    st := 0, sAcc := 0, lowT := 0, stallT := 0, starts := [], stopAt := none, freqs := [], curAt := none,
    pu := false, op := false, qblk := false, blkd := false, puPh := 0, opPh := 0, ovr := false, rstr := false,
    acc := 0, val := 0, comPu := false, comOp := false, comQ := false, asleep := false }

/-- The protection elements beyond their registers. -/
structure PeSt where
  el : AMap PeEl
  /-- elapsed time of the last pass commit (R21) -/
  lastPass : Nat
  /-- index of the last pass plus one -/
  passAt : Nat
  deriving DecidableEq, Repr

/-- A trip channel beyond its registers: when it asserted, and a reset held pending (R213). -/
structure TmChan where
  onAt : Nat
  rstPend : Bool
  deriving DecidableEq, Repr

def TmChan.init : TmChan := ⟨0, false⟩

/-- A breaker beyond its registers (R220 to R222); times in elapsed units. -/
structure TmBrk where
  /-- last sample at or above IBF, and last invalid sample -/
  aboveAt : Option Nat
  invalidAt : Option Nat
  bfAt : Nat
  /-- position bits disagree since -/
  discAt : Option Nat
  deriving DecidableEq, Repr

def TmBrk.init : TmBrk := ⟨none, none, 0, none⟩

/-- What the last zone frame of a member carried (R228). -/
structure ZMember where
  crc : Nat
  zblk : Bool
  /-- 0 locked, 1 holdover, 2 not yet locked, and the holdover age in s -/
  time : Nat
  age : Nat
  /-- when it came, as elapsed time plus one -/
  heardAt : Nat
  deriving DecidableEq, Repr

/-- A device of the Renby network (R476, R477, R231); instants as elapsed time plus one, 0 for none. -/
structure DevSt where
  /-- its last TOPO frame, the mode that showed, its serial number -/
  topoAt : Nat
  mode : Nat
  serial : Nat
  /-- it is unreachable -/
  lost : Bool
  /-- it last announced SENTINEL -/
  sleepAt : Nat
  /-- its last zone frame whose ZID no enabled zone here has -/
  otherAt : Nat
  deriving DecidableEq, Repr

def DevSt.init : DevSt := ⟨0, 0, 0, false, 0, 0⟩

/-- A zone beyond its registers (R231 to R233); times in elapsed units. -/
structure ZoneSt where
  members : AMap (Option ZMember)
  blkAt : Nat
  clearAt : Option Nat
  deriving DecidableEq, Repr

/-- Zones start blocked (TM_ZSTAT reset). -/
def ZoneSt.init : ZoneSt := ⟨[], 0, none⟩

/-- A protection-class message or zone frame as it left (R217, R228): its payload words and when. -/
structure TxRec where
  words : List Nat
  time : Nat
  count : Nat
  deriving DecidableEq, Repr

/-- The trip path beyond its registers. -/
structure TmSt where
  ch : AMap TmChan
  brk : AMap TmBrk
  zone : AMap ZoneSt
  /-- last protection message per device: bits, elapsed time of receipt plus one -/
  rxBits : AMap Nat
  rxAt : AMap Nat
  /-- devices by ID -/
  devs : AMap DevSt
  /-- protection messages sent -/
  tx : TxRec
  /-- zone frames sent, per zone -/
  ztx : AMap TxRec
  /-- the 800 ns tick in which the breakers were last evaluated, plus one (R221, R222) -/
  bfTick : Nat
  deriving DecidableEq, Repr

def TxRec.init : TxRec := ⟨[], 0, 0⟩

end Sys2Proof.Machine
end

