-- ==== Sys2Proof/Machine/RecordTypes.lean ====
section
/-! DEFINITION. Plain-data types of the state of the change recorder, the disturbance recorder and the archive port (14). -/

namespace Sys2Proof.Machine

open Sys2Proof

/-- A change record (Table 14.4), with the epoch in force where it stands. -/
structure ChRec where
  epoch : Nat
  offset : Nat
  index : Nat
  stream : Bool
  qual : Nat
  value : Nat
  deriving DecidableEq, Repr

/-- The change recorder (R394 to R397). -/
structure ChSt where
  /-- records that wait for the archive, oldest first -/
  buf : List ChRec
  /-- next sequence; the sequence after the newest archived one; whether one was ever archived -/
  next : Nat
  archNext : Nat
  anyArchived : Bool
  /-- epoch in force after the newest archived record -/
  archEpoch : Nat
  /-- epoch of the last EPOCH record since the start -/
  epoch : Option Nat
  /-- changes lost to a full buffer since the last GAP record, first and last in TAI ns -/
  lossCnt : Nat
  lossFirst : Nat
  lossLast : Nat
  lost : Nat
  stopped : Bool
  /-- START was written -/
  started : Bool
  deriving DecidableEq, Repr

def ChSt.init : ChSt := ⟨[], 0, 0, false, 0, none, 0, 0, 0, 0, false, false⟩

/-- A page in the archive (Table 14.6): number in its stream, first sequence, records or bytes, epoch. -/
structure ArPage where
  seq : Nat
  first : Nat
  count : Nat
  epoch : Nat
  deriving DecidableEq, Repr

/-- The archive port (R398 to R402).  Streams: 0 events, 1 changes, 2 disturbance files. -/
structure ArSt where
  /-- pages held, oldest first, key channel * 4 + stream -/
  pages : AMap (List ArPage)
  /-- blocks retired, by the same key -/
  retired : AMap Nat
  /-- next page number of a stream, the channel that took its last page -/
  pageSeq : AMap Nat
  lastCh : AMap Nat
  /-- elapsed time plus one since which a stream's partial page waits -/
  pageAt : AMap Nat
  /-- every page counts as due: after a power-fail warning -/
  flush : Bool
  /-- retests asked for through AR_CFG.RETEST -/
  retest : AMap Bool
  /-- AR_FAILED was sent -/
  failed : Bool
  deriving DecidableEq, Repr

def ArSt.init : ArSt := ⟨[], [], [], [], [], false, [], false⟩

/-- A digital instant of the 31.25 µs grid: time, trip channels, DIs (R404). -/
structure DrDig where
  t : Nat
  trip : Nat
  di : Nat
  deriving DecidableEq, Repr

/-- A disturbance record (R403 to R407); times in TAI ns. -/
structure DrRec where
  /-- 1 capturing, 2 complete, 3 ended in SENTINEL -/
  state : Nat
  serial : Nat
  /-- triggers listed: entry (32 for DR_TRIGGER) and tr; triggers beyond the 16 listed -/
  trigs : List (Nat × Nat)
  more : Nat
  start : Nat
  stop : Nat
  fastStart : Nat
  fastStop : Nat
  fineMask : Nat
  fastMask : Nat
  diMask : Nat
  /-- fine rate of each channel at the start -/
  rates : AMap Nat
  fine : AMap (List Smp)
  fast : AMap (List Smp)
  dig : List DrDig
  /-- EXP_KIB -/
  expKib : Nat
  /-- bytes of its file archived; whether all of it is -/
  archOff : Nat
  archived : Bool
  deriving DecidableEq, Repr

/-- The disturbance recorder. -/
structure DrSt where
  /-- the slots of DR_REC -/
  recs : AMap (Option DrRec)
  serial : Nat
  /-- triggers that wait: entry and tr -/
  queue : List (Nat × Nat)
  /-- continuous history, newest first -/
  fine : AMap (List Smp)
  fast : AMap (List Smp)
  dig : List DrDig
  deriving DecidableEq, Repr

def DrSt.init : DrSt := ⟨[], 0, [], [], [], []⟩

end Sys2Proof.Machine
end

