-- ==== Sys2Proof/Machine/ServiceTypes.lean ====
section
/-! DEFINITION. Plain-data types of the state of the time unit, the security unit and the continuity store. -/

namespace Sys2Proof.Machine

/-- Time states (Table 18.1). -/
inductive TimeState where
  | unset | acquire | locked | holdover | gm
  deriving DecidableEq, Repr

def TimeState.code : TimeState → Nat
  | .unset => 0 | .acquire => 1 | .locked => 2 | .holdover => 3 | .gm => 4

/-- A step asked for through TU_ADJ (R502): its amounts, the command, and the counter value from which a commit
point applies it. -/
structure StepReq where
  secs : Int
  nanos : Int
  cmd : Option (Nat × Nat)
  notBefore : Nat
  deriving DecidableEq, Repr

/-- A PTP message as it left a port (R509, R510, R513): type, domain, clock identity, port number, sequence, time (TAI in ps),
clockClass of an Announce. -/
structure PtpMsg where
  kind : Nat
  domain : Nat
  identity : Nat
  port : Nat
  seq : Nat
  time : Nat
  cls : Nat
  deriving DecidableEq, Repr

/-- The time unit (18_time_unit.md). -/
structure TimeUnit where
  /-- the counter of R499: seconds (48 bits), nanoseconds, and the 32 fraction bits -/
  sec : Nat
  ns : Nat
  frac : Nat
  /-- fabric cycle counter (FAB_CYC), which starts at fabric PLL lock -/
  fabCyc : Nat
  /-- the clocks run (every mode but KEEPER and SENTINEL past t6, and not while RESET_N is low) -/
  running : Bool
  /-- slew (R501): total in 2^-32 ns, cycles in all, cycles done -/
  slewTotal : Int
  slewCycles : Nat
  slewDone : Nat
  slewing : Bool
  /-- words 2 and 4 of TU_ADJ as written last -/
  slewNs : Nat
  stepS : Nat
  step : Option StepReq
  /-- at the last step: the time before and after it (R508); 0 for none -/
  stepOld : Nat
  stepNew : Nat
  state : TimeState
  ever : Bool
  /-- elapsed time at which the holdover flag last became 1, in 1.25 ns units (SB_HOLD_AGE) -/
  holdSince : Nat
  steps : Nat
  /-- last write to TU_ADJ, last setting of the real-time counter, elapsed -/
  adjAt : Nat
  rtcAt : Nat
  /-- last peer-delay results of a port in ps, newest first, at most three (R512) -/
  pdHist : AMap (List Int)
  /-- last Announce of a port: clockClass and parent identity, and when plus one (R510) -/
  announce : AMap (List Nat)
  annAt : AMap Nat
  /-- consecutive Sync messages with a small offset (R505), the last offset in ps -/
  syncRun : Nat
  offset : Int
  /-- indexes of the last Sync, Pdelay_Req and Announce plus one -/
  syncIdx : Nat
  pdIdx : Nat
  annIdx : Nat
  /-- last message sent per port and type, key port * 16 + type; an Ethernet lane counts as port 256 + lane -/
  ptpTx : AMap (Option PtpMsg)
  /-- Ethernet lanes (R513): lane and identity of the parent; mean path delay in ps; the first half of a two-step Sync or
  Pdelay_Resp by lane * 16 + type: sequence, stamp of arrival, time carried -/
  ethParent : Option (Nat × Nat)
  ethDelay : AMap Int
  ethHalf : AMap (Option (Nat × Int × Int))
  deriving DecidableEq, Repr

/-- What each master's authentication holds (R526). -/
structure AuthSt where
  /-- session handle, 0 for none -/
  session : Nat
  /-- outstanding nonce and the elapsed time of its issue -/
  nonce : Option (List W32 × Nat)
  /-- signature parts received -/
  parts : List (Nat × List W32)
  /-- elapsed times of failures, newest first -/
  fails : List Nat
  blockedUntil : Nat
  deriving DecidableEq, Repr

def AuthSt.init : AuthSt := ⟨0, none, [], [], 0⟩

/-- A firmware slot (R522, R523): the security version of its image and the version it reports, if it holds one. -/
structure FwSlot where
  svn : Nat
  maj : Nat
  min : Nat
  deriving DecidableEq, Repr

/-- The JTAG instruction in force (R535). -/
inductive JtagInstr where
  | bypass | idcode | samplePreload | extest | clamp | highz | debug
  deriving DecidableEq, Repr

/-- The security unit and key store (19_identity_and_access.md). -/
structure SecSt where
  owned : Bool
  /-- owner certificate as installed by OWNER_TRANSFER -/
  ownerCert : List W32
  /-- device certificate in DER words -/
  devCert : List W32
  devCertLen : Nat
  ownCnt : Nat
  cfgSvn : Nat
  /-- CRC-32C of the adopted configuration and logic images (R525) -/
  adoptedCfg : Option Nat
  adoptedLogic : Option Nat
  /-- secret area present: device private key, continuity key -/
  secrets : Bool
  marker : Bool
  openCnt : Nat
  provCnt : Nat
  fwSvn : Nat
  /-- booting slot: false A, true B; the other slot pending; the slot this BOOT came from -/
  fwSlot : Bool
  fwPend : Bool
  fwBooted : Bool
  slotA : Option FwSlot
  slotB : Option FwSlot
  tamper : Bool
  unsignedCfg : Bool
  unsignedLogic : Bool
  authA : AuthSt
  authB : AuthSt
  authHp : AuthSt
  /-- debug session: its handle, 0 for none, and the master that opened it -/
  debugSession : Nat
  debugMaster : Master
  debugEnabled : Bool
  unlockNonce : Option (List W32 × Nat)
  /-- a re-provisioning key pair was generated and waits for its certificate (R534) -/
  newKey : Bool
  /-- number of the continuity key in force: a new one is generated at R534 -/
  keyNo : Nat
  /-- re-provisioned, effective at the next BOOT (R534): what the device was, opened (true) or tampered with -/
  reprovisioned : Option Bool
  lastReject : Option Nat
  jtag : JtagInstr
  deriving DecidableEq, Repr

/-- State of an MRAM slot (Table 13.12). -/
inductive SlotState where
  | empty | complete | incomplete | failed
  deriving DecidableEq, Repr

def SlotState.code : SlotState → Nat
  | .empty => 0 | .complete => 1 | .incomplete => 2 | .failed => 3

/-- Kinds of journal records (R358). -/
inductive JKind where
  | writeStart | writeDone | pfMark | consumed
  deriving DecidableEq, Repr

/-- A journal record (R358): sequence, kind, slot (false A), mode, cause, TAI time. -/
structure JRec where
  seq : Nat
  kind : JKind
  slot : Bool
  mode : Nat
  cause : Nat
  time : Stamp
  deriving DecidableEq, Repr

end Sys2Proof.Machine
end

