-- ==== Sys2Proof/Machine/StoreTypes.lean ====
section
/-! DEFINITION. Plain-data types of the state of the continuity store and the continuity memory die (13). -/

namespace Sys2Proof.Machine

open Sys2Proof

/-- One image of the continuity store (Table 13.1). -/
structure CsImage where
  /-- CS_HDR: mode and cause at the cut, its time, CRC-32C of the committed logic image -/
  mode : Nat
  cause : Nat
  time : Stamp
  logicCrc : Option Nat
  /-- LG_DATA, LG_TASKS: M, Q images, tasks, waiting causes, LG_MONO at the cut -/
  m : AMap Nat
  q : AMap Nat
  tasks : AMap LgTask
  causes : AMap (List LgCause)
  merged : AMap Nat
  mono : Nat
  /-- LE_STATE and AX_STATE -/
  loops : AMap LoopSt
  axes : AMap AxisSt
  /-- UM_STATE: standing demands on points, logic demands and resolved station bytes -/
  stand : AMap (Option PDemand)
  umQ : AMap (Option Nat)
  qOut : AMap Nat
  /-- stations in Substitute (LG_TASKS) -/
  subs : List Nat
  /-- PD_RETAIN -/
  recs : AMap PtRec
  /-- RP_STATE -/
  lanes : AMap RpLane
  dirty : AMap Bool
  /-- status words that LE, AX, LG and UM show, by register key -/
  regs : AMap W32
  /-- number of the continuity key it is written under (R520) -/
  key : Nat
  deriving DecidableEq, Repr

/-- A slot write under way (R360): slot (false A), cause (1 PFW_N, 2 SENTINEL), elapsed time of its start. -/
structure CsWrite where
  slot : Bool
  cause : Nat
  since : Nat
  deriving DecidableEq, Repr

/-- The continuity store and the continuity memory die. -/
structure CsSt where
  /-- the image sealed at the last cut, in the SDRAM store -/
  sealed : Option CsImage
  /-- the image loaded from a slot in BOOT (R364), and whether its block CRCs passed -/
  loaded : Option CsImage
  /-- blocks marked bad: block, elapsed time of the mark -/
  bad : List (Nat × Nat)
  /-- MRAM slots -/
  slotA : SlotState
  slotB : SlotState
  imgA : Option CsImage
  imgB : Option CsImage
  /-- journal, oldest record first, at most 16,384; the next sequence -/
  journal : List JRec
  jseq : Nat
  writing : Option CsWrite
  /-- a cut is in force: control is held (R359) -/
  cut : Bool
  /-- a power-fail warning is in force: when it came (elapsed) -/
  pfAt : Option Nat
  /-- the power-fail write failed -/
  pfFailed : Bool
  /-- both slots failed: no warm restart until RESET_N -/
  dead : Bool
  /-- a CONSUMED record is due at the first output write: the slot -/
  consume : Option Bool
  /-- SDRAM byte lanes whose first correction has been reported since SDRAM was trained (Table 13.10) -/
  sdSeen : List Nat
  deriving DecidableEq, Repr

def CsSt.init : CsSt :=
  { sealed := none, loaded := none, bad := [], slotA := .empty, slotB := .empty, imgA := none, imgB := none, journal := []
    jseq := 0, writing := none, cut := false, pfAt := none, pfFailed := false, dead := false, consume := none, sdSeen := [] }

end Sys2Proof.Machine
end

