-- ==== Sys2Proof/Machine/State.lean ====
section
/-! DEFINITION. The state of the block, as plain data: every register of spec/ in one sparse table, and beside it
what each unit holds that no register shows.  Reset is the state right after RESET_N release (R9). -/

namespace Sys2Proof.Machine

/-- Why the block stops with a fault.  No command of this block does: the type has one reason, which nothing
raises (safe). -/
inductive Fault where
  /-- raised by nothing; stands for a stop the model does not have (safe) -/
  | none
  deriving DecidableEq, Repr

/-- Why a command has no meaning. -/
inductive Refusal where
  /-- raised by an arm of exec whose command has no meaning yet (safe) -/
  | notModelled (mnemonic : String)
  deriving DecidableEq, Repr

/-- The machine. -/
structure State where
  /-- the variant, fixed by fuses (Table 0.1) -/
  var : Variant
  /-- the 64-bit serial number, fixed at manufacture (MB_CAP.SERIAL) -/
  serial : Nat
  /-- every register word that differs from its reset value -/
  regs : AMap W32
  /-- elapsed time in units of 1.25 ns since reset; it runs in every mode -/
  elapsed : Nat
  mo : Modes
  kp : Keeper
  tu : TimeUnit
  mb : Mailbox
  he : HostEp
  sb : Scoreboard
  ec : ErrCtl
  ev : EvSt
  ch : ChSt
  dr : DrSt
  ar : ArSt
  sc : SecSt
  af : AfSt
  fc : FcSt
  pe : PeSt
  tm : TmSt
  pd : PdSt
  um : UmSt
  rp : RpSt
  le : LeSt
  fd : FdSt
  sf : SfSt
  lg : LgSt
  cs : CsSt
  rb : RbSt
  /-- writes that wait for a boundary of their unit, oldest first (R17, R73) -/
  staged : List StagedWrite
  /-- the model's own: free values drawn so far -/
  free : Nat
  /-- commands that wait, first in first out -/
  pending : List Instr
  deriving DecidableEq, Repr

/-! Reset (R9): RESET_N has just been released for the first time since power came on. -/

def Modes.init : Modes :=
  { mode := .boot, prev := .keeper, cause := 0, bootstat := 0, pend := none, pendCmd := none, entry := ⟨0, 0⟩, boot := .rom
    captain := false, bootFail := false, bootCode := 0, sdram := none, coldBoot := false, controlLoaded := false, control := false, firstWrite := false
    sent := .out, sentHalt := false, sentAt := 0, pllAt := 0, sentMono := 0, sentPass := 0, sentStop := 0, trainAt := 0, protFail := false
    letClass := 0, letStart := ⟨0, 0⟩, letFrom := .run, letAt := 0, letL2At := 0, letResumed := false, letOwed := 0
    heartbeat := false, heart := 0, resetN := true, rails := true, vddKeep := true, sentArmed := false }

/-- The Keeper at the first application of VDD_KEEP (R35, R542). -/
def Keeper.init : Keeper :=
  { rtcSec := 0, rtcTick := 0, rtcPhase := 0, fromRc := false, rcErr := false, alarmSpent := false, wakeNLow := false
    latchTai := 0, latchTicks := 0, crystalPer := 0, lring := [], npLost := 0, npFirst := ⟨0, 0⟩, npLast := ⟨0, 0⟩
    lrPrioLost := 0, lrLost := 0, lrLostFirst := ⟨0, 0⟩, lrLostLast := ⟨0, 0⟩, pfMark := none, sentSeq := 0 }

/-- The time unit after RESET_N: UNSET. -/
def TimeUnit.init : TimeUnit :=
  { sec := 0, ns := 0, frac := 0, fabCyc := 0, running := true, slewTotal := 0, slewCycles := 0, slewDone := 0, slewing := false
    slewNs := 0, stepS := 0, step := none, stepOld := 0, stepNew := 0, state := .unset, ever := false, holdSince := 0, steps := 0
    adjAt := 0, rtcAt := 0, pdHist := [], announce := [], annAt := [], syncRun := 0, offset := 0, syncIdx := 0, pdIdx := 0
    annIdx := 0, ptpTx := [], ethParent := none, ethDelay := [], ethHalf := [] }

def Mailbox.init : Mailbox :=
  { inflight := [], fetchNo := 0, rr := 0, phase := [], nseq := [], ringMem := [], routes := [], held := [], latched := []
    staged := none, committed := none, older := [], applying := none, applyUnits := [], lastDma := none }

/-- A device new from the factory: no owner, secrets in place, slot A holds the firmware (assumption 3). -/
def SecSt.init : SecSt :=
  { owned := false, ownerCert := [], devCert := [], devCertLen := 0, ownCnt := 0, cfgSvn := 0, adoptedCfg := none
    adoptedLogic := none, secrets := true, marker := false, openCnt := 0, provCnt := 0, fwSvn := 0, fwSlot := false
    fwPend := false, fwBooted := false, slotA := some ⟨0, 1, 0⟩, slotB := none, tamper := false, unsignedCfg := false
    unsignedLogic := false, authA := AuthSt.init, authB := AuthSt.init, authHp := AuthSt.init, debugSession := 0
    debugMaster := .hostA, debugEnabled := false, unlockNonce := none, newKey := false, keyNo := 0, reprovisioned := none
    lastReject := none, jtag := .idcode }

def AfSt.init : AfSt :=
  { cores := [], slices := [], sliceFac := [], before := [], enPend := none, tmrAt := [], trigs := [], urg := [], streams := []
    dtrip := [], calBad := [], fieldOk := [], fallback := [] }

def FcSt.init : FcSt := { ch := [], trk := [], sv := [], swaps := [], rom := [] }

def TmSt.init : TmSt :=
  { ch := [], brk := [], zone := [], rxBits := [], rxAt := [], devs := [], tx := TxRec.init, ztx := [], bfTick := 0 }

def ErrCtl.init : ErrCtl := { arrivals := [], inBoot := 0, handling := [], queue := [], lost := 0, ovf := false, lastCode := 0 }

def Scoreboard.init : Scoreboard := { protSeq := 0, protPass := 0, pu := [], op := [], slots := [], rejected := 0, asleep := [], mapSeq := [] }

/-- The machine right after RESET_N release: every register at the reset value of its field map. -/
def State.reset : State :=
  { var := .cpx9640, serial := 0, regs := [], elapsed := 0, mo := Modes.init, kp := Keeper.init, tu := TimeUnit.init
    mb := Mailbox.init, he := { d3hot := false, linkUp := false, msgs := [], msgTime := [] }, sb := Scoreboard.init
    ec := ErrCtl.init, ev := EvSt.init, ch := ChSt.init, dr := DrSt.init, ar := ArSt.init, sc := SecSt.init, af := AfSt.init
    fc := FcSt.init, pe := { el := [], lastPass := 0, passAt := 0 }, tm := TmSt.init, pd := PdSt.init, um := UmSt.init, rp := RpSt.init
    le := LeSt.init, fd := FdSt.init0, sf := SfSt.init, lg := LgSt.init, cs := CsSt.init, rb := RbSt.init, staged := []
    free := 0, pending := [] }

end Sys2Proof.Machine
end

