-- ==== Sys2Proof/Machine/Ops.lean ====
section
/-! DEFINITION. The named operations every meaning is built from: reading and writing registers, the current time,
handing a record to the event recorder, sending a notification, raising an error, writing a ring entry, raising an
interrupt message, deciding a command. -/

namespace Sys2Proof.Machine

open Sys2Proof

/-- What a meaning answers. -/
abbrev Res := Host.Outcome State Fault Refusal

/-! Registers. -/

/-- The stored word of an object. -/
def State.word (s : State) (unit grp i w : Nat) : W32 := mget regDefault s.regs (regKey unit grp i w)

/-- Store a word of an object. -/
def State.putWord (s : State) (unit grp i w : Nat) (v : W32) : State :=
  { s with regs := mset regDefault (regKey unit grp i w) v s.regs }

/-- The value of a field of index `i`, repetition `k`. -/
def State.rdk (s : State) (f : Field) (i k : Nat) : Nat := (s.word f.unit f.grp i (f.wordAt k)).get f.hi f.lo

/-- The value of a field of index `i`. -/
def State.rd (s : State) (f : Field) (i : Nat) : Nat := s.rdk f i 0

/-- Set a field of index `i`, repetition `k`. -/
def State.wrk (s : State) (f : Field) (i k v : Nat) : State :=
  s.putWord f.unit f.grp i (f.wordAt k) ((s.word f.unit f.grp i (f.wordAt k)).put f.hi f.lo v)

/-- Set a field of index `i`. -/
def State.wr (s : State) (f : Field) (i v : Nat) : State := s.wrk f i 0 v

/-- A one-bit field as a truth value. -/
def State.flag (s : State) (f : Field) (i : Nat) : Bool := s.rd f i != 0

/-- Set a one-bit field. -/
def State.setFlag (s : State) (f : Field) (i : Nat) (b : Bool) : State := s.wr f i (b2n b)

/-- Count up a field that saturates at its width. -/
def State.bump (s : State) (f : Field) (i n : Nat) : State :=
  s.wr f i (satAdd (2 ^ (f.hi + 1 - f.lo) - 1) (s.rd f i) n)

/-- Count up a field that wraps at its width. -/
def State.wrapInc (s : State) (f : Field) (i n : Nat) : State := s.wr f i (s.rd f i + n)

/-! Time. -/

/-- The time counter now. -/
def State.now (s : State) : Stamp := ⟨s.tu.sec, s.tu.ns⟩

/-- The state with its clocks at another time. -/
def State.withClocks (s : State) (t : Stamp) (elapsed : Nat) : State :=
  { s with tu := { s.tu with sec := t.sec, ns := t.ns }, elapsed := elapsed }

/-- TAI nanoseconds now. -/
def State.tai (s : State) : Nat := s.now.tai

/-- An activity of a grid may act at the boundary at or before now: after a step, at the first instant of the new grid that
lies at least one period after its last one (Table 18.2). -/
def State.gridOk (s : State) (period : Nat) : Bool :=
  s.tu.stepNew == 0 || decide (period + s.tu.stepNew ≤ s.tai / period * period + s.tu.stepOld % period)

/-- Elapsed time of a TAI instant near now. -/
def State.elapsedAt (s : State) (t : Nat) : Nat :=
  if t ≤ s.tai then s.elapsed - (s.tai - t) * 4 / 5 else s.elapsed + (t - s.tai) * 4 / 5

/-- Run with the clocks at an instant that lies before now. -/
def State.atInstant (s : State) (t : Nat) (f : State → State) : State :=
  State.withClocks (f (s.withClocks (Stamp.ofTai t) (s.elapsed - (s.tai - t) * 4 / 5))) s.now s.elapsed

/-- The TAI second with given low 32 bits that lies nearest to now. -/
def State.nearSecond (s : State) (lo : Nat) : Nat :=
  let c := s.tu.sec / 2 ^ 32 * 2 ^ 32 + lo
  if c + 2 ^ 31 < s.tu.sec then c + 2 ^ 32 else if s.tu.sec + 2 ^ 31 < c ∧ 2 ^ 32 ≤ c then c - 2 ^ 32 else c

/-- The holdover flag SB_SYS.HOLDOVER (R504). -/
def State.holdover (s : State) : Bool := !(s.tu.state == .locked || s.tu.state == .gm)

/-- Device opened (R532). -/
def State.opened (s : State) : Bool := decide (s.sc.provCnt < s.sc.openCnt)

/-- The device is bound by R34: opened, or re-provisioned and not through BOOT since. -/
def State.boundByR34 (s : State) : Bool := s.opened || s.sc.reprovisioned == some true

/-- The device behaves as opened under R84 and R533: opened, tampered with (R521), or re-provisioned and not through BOOT
since (R534). -/
def State.openedLike (s : State) : Bool := s.opened || s.sc.tamper || s.sc.reprovisioned.isSome

/-- Number of converter cores, and so on: pick by variant (Table 0.1). -/
def State.byVar {α : Type} (s : State) (a b c : α) : α :=
  match s.var with
  | .cpx9640 => a
  | .cpx9632 => b
  | .cpx9616 => c

/-! The hand-off to the event recorder (R19, R385). -/

/-- The FIFO a unit hands over through: 0 for the protection partition. -/
def fifoOf (unit : Nat) : Nat := if unit = 0x08 || unit = 0x09 || unit = 0x10 || unit = 0x11 then 0 else unit

/-- Entries of a hand-off FIFO (R385). -/
def fifoCap (fifo : Nat) : Nat := if fifo = 0 then 8192 else 1024

def Loss.add (l : Loss) (t : Stamp) : Loss :=
  if l.cnt = 0 then ⟨1, t, t⟩ else ⟨satAdd 0xFFFFFFFF l.cnt 1, l.first, t⟩

/-- Hand a record to EV: into the unit's FIFO, or dropped and counted when it is full. -/
def State.handOff (s : State) (unit : Nat) (r : EvRec) : State :=
  let q := mget (fun _ => []) s.ev.fifo (fifoOf unit)
  if q.length < fifoCap (fifoOf unit) then
    { s with ev := { s.ev with fifo := mset (fun _ => []) (fifoOf unit) (q ++ [r]) s.ev.fifo } }
  else
    { s with ev := { s.ev with loss := mmod (fun _ => Loss.none) (fifoOf unit) (fun l => l.add r.time) s.ev.loss } }

/-- A state record (R382): CODE bit 15, the unit and the kind, at a given time. -/
def State.stateRecAt (s : State) (unit kind src : Nat) (t : Stamp) (p0 p1 p2 : Nat) (prio : Bool) : State :=
  s.handOff unit ⟨0x8000 + unit * 256 + kind, src, t, p0 % 2 ^ 32, p1 % 2 ^ 32, p2 % 2 ^ 32, prio⟩

/-- A state record stamped now. -/
def State.stateRec (s : State) (unit kind src p0 p1 p2 : Nat) (prio : Bool) : State :=
  s.stateRecAt unit kind src s.now p0 p1 p2 prio

/-- A change that DR_TRIG entries may name (R403): each enabled entry of its kind and index is triggered at `t`; `edge` is 1
for a rising and 2 for a falling edge of an input, 3 otherwise. -/
def State.drFire (s : State) (kind index edge t : Nat) : State :=
  if s.flag DR_CFG_EN 0 then
    let hits := (List.range 32).filter (fun k => s.flag DR_TRIG_EN k && s.rd DR_TRIG_KIND k == kind
      && s.rd DR_TRIG_INDEX k == index && (kind != 4 || natBit (s.rd DR_TRIG_EDGE k) (edge - 1)))
    { s with dr := { s.dr with queue := s.dr.queue ++ hits.map (fun k => (k, t)) } }
  else s

/-! Interrupt messages (R67, R88). -/

/-- Set the pending bit of a vector. -/
def State.pendVector (s : State) (vec : Nat) : State :=
  s.wrk MSIX_PBA_PEND 0 (vec / 32) (natSetBit (s.rdk MSIX_PBA_PEND 0 (vec / 32)) (vec % 32) true)

/-- Send the message of a vector. -/
def State.sendMessage (s : State) (vec : Nat) : State :=
  { s with he := { s.he with
    msgs := mmod (fun _ => 0) vec (· + 1) s.he.msgs
    msgTime := mset (fun _ => 0) vec (s.elapsed + 1) s.he.msgTime } }

/-- The last message of a vector is less than 2 µs old (R67). -/
def State.msgFresh (s : State) (vec : Nat) : Bool :=
  let last := mget (fun _ => 0) s.he.msgTime vec
  last != 0 && decide (s.elapsed + 1 < last + 1600)

/-- The device may send messages (R86, R88). -/
def State.msgOn (s : State) : Bool := s.flag HE_INTCTL_GEN 0 && !(s.mo.mode == .letMode) && !s.he.d3hot

/-- A cause of vector `vec` occurred: a message when the device may send one, else its pending bit.  Causes within 2 µs of a
message share the one that follows it (R67, assumption 8). -/
def State.raiseVector (s : State) (vec : Nat) : State :=
  if s.msgOn && s.rd MSIX_TABLE_MASK vec == 0 && !s.msgFresh vec then s.sendMessage vec else s.pendVector vec

/-- The pending bit of a vector. -/
def State.msgPending (s : State) (v : Nat) : Bool := natBit (s.rdk MSIX_PBA_PEND 0 (v / 32)) (v % 32)

/-- Pending messages of unmasked vectors are sent and their bits clear, those in `hold` excepted (R88). -/
def State.sendPending (s : State) (hold : State → Nat → Bool) : State :=
  if s.msgOn then
    (List.range 64).foldl (fun s v =>
      if s.msgPending v && s.rd MSIX_TABLE_MASK v == 0 && !hold s v then
        State.sendMessage (s.wrk MSIX_PBA_PEND 0 (v / 32) (natSetBit (s.rdk MSIX_PBA_PEND 0 (v / 32)) (v % 32) false)) v
      else s) s
  else s

/-- Every pending message that may be sent is sent. -/
def State.flushPending (s : State) : State := s.sendPending (fun _ _ => false)

/-- Causes that waited for the 2 µs of R67 to pass raise their message. -/
def State.sendWaiting (s : State) : State :=
  if s.rdk MSIX_PBA_PEND 0 0 == 0 && s.rdk MSIX_PBA_PEND 0 1 == 0 then s else s.sendPending State.msgFresh

/-- A Scoreboard cause of HE_INTCTL (bit 0 mode, 1 error class, 2 trip word). -/
def State.sbCause (s : State) (en : Field) (bit : Nat) : State :=
  if s.flag en 0 then
    let s1 := s.wr HE_INTCTL_SB_CAUSE 0 (natSetBit (s.rd HE_INTCTL_SB_CAUSE 0) bit true)
    if s.mo.mode == .letMode then s1 else s1.raiseVector (s1.rd HE_INTCTL_SB_VEC 0)
  else s

/-! Rings (R58 to R65). -/

def State.ringSize (s : State) (n : Nat) : Nat := 2 ^ s.rd MB_RINGREG_SIZE_LOG2 n

/-- Ring enabled with the given kind. -/
def State.ringIs (s : State) (n kind : Nat) : Bool := s.flag MB_RINGREG_EN n && s.rd MB_RINGREG_KIND n == kind

def State.ringFull (s : State) (n : Nat) : Bool :=
  (s.rd MB_RINGREG_PROD n + 1) % s.ringSize n == s.rd MB_RINGREG_CONS n

def State.ringEmpty (s : State) (n : Nat) : Bool := s.rd MB_RINGREG_PROD n == s.rd MB_RINGREG_CONS n

def State.ringPhase (s : State) (n : Nat) : Bool := mget (fun _ => true) s.mb.phase n

/-- Write an entry at PROD, advance PROD, invert the phase at the wrap (R64), raise the vector (R67). -/
def State.ringPush (s : State) (n : Nat) (entry : List W32) : State :=
  let p := s.rd MB_RINGREG_PROD n
  let p' := (p + 1) % s.ringSize n
  let s1 := { s with mb := { s.mb with
    ringMem := mset (fun _ => []) (n * 65536 + p) entry s.mb.ringMem
    phase := if p' = 0 then mset (fun _ => true) n (!s.ringPhase n) s.mb.phase else s.mb.phase } }
  let s2 := s1.wr MB_RINGREG_PROD n p'
  if s2.flag MB_RINGREG_INT_EN n then s2.raiseVector (s2.rd MB_RINGREG_VEC n) else s2

/-- Words 6 and 7 of an entry. -/
def Stamp.words (t : Stamp) : List W32 := [BitVec.ofNat 32 t.word, BitVec.ofNat 32 (t.word / 2 ^ 32)]

/-- The route of a notification code: the ring, or none (R77). -/
def State.routeOf (s : State) (unit code : Nat) : Option Nat :=
  match mget (fun _ => 0) s.mb.routes (unit * 65536 + code) with
  | 0 =>
    match mget (fun _ => 0) s.mb.routes (unit * 65536 + 0xFFFF) with
    | 0 => none
    | r + 1 => some r
  | r + 1 => some r

/-- The notification entry of Table 3.5. -/
def Ntf.entry (n : Ntf) (phase : Bool) (seq : Nat) : List W32 :=
  [BitVec.ofNat 32 (n.code * 65536 + n.unit * 256), BitVec.ofNat 32 (b2n phase * 2 ^ 31 + seq),
   BitVec.ofNat 32 n.par0, BitVec.ofNat 32 n.par1, BitVec.ofNat 32 n.par2, BitVec.ofNat 32 n.par3] ++ n.time.words

/-- Deliver a notification to its ring (R65): SEQ advances in every case; an entry is written when the ring is
an enabled event ring with space, and otherwise DROP counts it. -/
def State.deliver (s : State) (n : Ntf) : State :=
  match s.routeOf n.unit n.code with
  | none => s
  | some r =>
    let seq := mget (fun _ => 0) s.mb.nseq r
    let s1 := { s with mb := { s.mb with nseq := mset (fun _ => 0) r ((seq + 1) % 2 ^ 31) s.mb.nseq } }
    if s1.ringIs r 2 && !s1.ringFull r then s1.ringPush r (n.entry (s1.ringPhase r) seq)
    else s1.bump MB_RINGREG_DROP r 1

/-- Notifications wait while the Captain does not run them: in LET and through a service restart (R82). -/
def State.holdsNtf (s : State) : Bool := s.mo.mode == .letMode || !s.mo.captain

def State.deliverOrHold (s : State) (n : Ntf) : State :=
  if s.holdsNtf then { s with mb := { s.mb with held := s.mb.held ++ [n] } } else s.deliver n

/-- Codes whose record is a priority record whatever their class (R383, R531). -/
def alwaysPrio (code : Nat) : Bool :=
  code == 0x4802 || code == 0x0201 || code == 0x0203 || code == 0x0204 || code == 0x3001 || code == 0x3002 || code == 0x3003

/-- An error arises (R374).  One that arises in BOOT marks itself, and with it every older one, as none of TRAIN's (R32). -/
def State.arrive (s : State) (code cls : Nat) : State :=
  { s with ec := { s.ec with
    arrivals := s.ec.arrivals ++ [⟨code, cls⟩]
    inBoot := if s.mo.mode == .boot then s.ec.arrivals.length + 1 else s.ec.inBoot } }

/-- Send a notification of a given error class (0 none, 1 A to 4 D) at a given time: recorded once (R382),
routed, and, with a class, raised as an error (R374). -/
def State.notifyAt (s : State) (unit code cls : Nat) (t : Stamp) (p0 p1 p2 p3 : Nat) : State :=
  let c := unit * 256 + code
  let s1 := s.handOff unit ⟨c, 0, t, p0 % 2 ^ 32, p1 % 2 ^ 32, p2 % 2 ^ 32, decide (3 ≤ cls) || alwaysPrio c⟩
  let s2 := if cls = 0 then s1 else s1.arrive c cls
  s2.deliverOrHold ⟨unit, code, p0 % 2 ^ 32, p1 % 2 ^ 32, p2 % 2 ^ 32, p3 % 2 ^ 32, t⟩

/-- Send a notification stamped now. -/
def State.notify (s : State) (unit code cls p0 p1 p2 p3 : Nat) : State :=
  s.notifyAt unit code cls s.now p0 p1 p2 p3

/-- Raise an error that has no notification (Table 13.9). -/
def State.raiseErr (s : State) (code cls : Nat) : State :=
  (s.handOff (code / 256) ⟨code, 0, s.now, 0, 0, 0, decide (3 ≤ cls)⟩).arrive code cls

/-! Free values. -/

/-- Draw one free value. -/
def State.freeWord (s : State) : W32 := Config.freeValue s.free

def State.drawn (s : State) : State := { s with free := s.free + 1 }

/-! Commands in flight (R70 to R74). -/

/-- The command came from the given entry of the given ring. -/
def Cmd.isAt (c : Cmd) (ring idx : Nat) : Bool := c.ring == ring && c.idx == idx

/-- What names a command for good: its ring and the number of its fetch.  An index returns while an earlier command of that index
is still in flight when the ring is small. -/
def Cmd.ref (c : Cmd) : Nat × Nat := (c.ring, c.order)

def Cmd.isThe (c : Cmd) (ring order : Nat) : Bool := c.ring == ring && c.order == order

/-- The command of a ring with the given fetch number. -/
def State.findCmd (s : State) (ring order : Nat) : Option Cmd := s.mb.inflight.find? (fun c => c.isThe ring order)

/-- The earliest command of an entry whose checks have not yet run. -/
def State.waitingAt (s : State) (ring idx : Nat) : Option Cmd :=
  s.mb.inflight.find? (fun c => c.isAt ring idx && c.phase == .fetched)

/-- Its outcome is still open. -/
def Cmd.undecided (c : Cmd) : Bool :=
  match c.phase with
  | .decided .. => false
  | _ => true

/-- The earliest command of an entry whose completion is to be written. -/
def State.decidedAt (s : State) (ring idx : Nat) : Option Cmd :=
  s.mb.inflight.find? (fun c => c.isAt ring idx && !c.undecided)

/-- Give a command in flight whose outcome is open a new phase. -/
def State.setPhase (s : State) (ring order : Nat) (p : CmdPhase) : State :=
  { s with mb := { s.mb with
    inflight := s.mb.inflight.map (fun c => if c.isThe ring order && c.undecided then { c with phase := p } else c) } }

/-- Decide a command that has no effect or fails: its time is that of the completion write (R64). -/
def State.fail (s : State) (c : Cmd) (st : Status) (r0 : Nat) : State :=
  s.setPhase c.ring c.order (.decided st r0 0 0 0 none)

/-- Decide a command that succeeds without an effect, as a read does: its time is that of the completion write (R64). -/
def State.answer (s : State) (c : Cmd) (r0 r1 r2 r3 : Nat) : State :=
  s.setPhase c.ring c.order (.decided .ok r0 r1 r2 r3 none)

/-- Decide a command whose effect takes place now. -/
def State.done (s : State) (c : Cmd) (r0 r1 r2 r3 : Nat) : State :=
  s.setPhase c.ring c.order (.decided .ok r0 r1 r2 r3 (some s.now))

/-- Decide a command by its name, if it is still in flight and undecided. -/
def State.settle (s : State) (at_ : Option (Nat × Nat)) (st : Status) (r0 r1 : Nat) (t : Option Stamp) : State :=
  match at_ with
  | none => s
  | some (r, i) =>
    match s.findCmd r i with
    | some c =>
      match c.phase with
      | .decided .. => s
      | _ => s.setPhase r i (.decided st r0 r1 0 0 t)
    | none => s

/-- Write data into a command's buffer (its location bit and address). -/
def State.dmaOut (s : State) (loc addr : Nat) (ws : List W32) : State :=
  { s with mb := { s.mb with lastDma := some ⟨loc, addr, ws⟩ } }

/-! Checksums. -/

/-- One bit of the reflected CRC-32C (polynomial 0x1EDC6F41, reversed 0x82F63B78). -/
def crcBit (c : Nat) : Nat := if c % 2 = 1 then (c / 2) ^^^ 0x82F63B78 else c / 2

def crcByte (c b : Nat) : Nat :=
  crcBit (crcBit (crcBit (crcBit (crcBit (crcBit (crcBit (crcBit (c ^^^ b))))))))

/-- Take a little-endian word into a running CRC. -/
def crcWord (c w : Nat) : Nat :=
  crcByte (crcByte (crcByte (crcByte c (w % 256)) (w / 256 % 256)) (w / 65536 % 256)) (w / 16777216 % 256)

/-- CRC-32C of a list of little-endian words. -/
def crc32c (ws : List W32) : Nat := (ws.foldl (fun c w => crcWord c w.toNat) 0xFFFFFFFF) ^^^ 0xFFFFFFFF

end Sys2Proof.Machine
end

