-- ==== Sys2Proof/Machine/Flags.lean ====
section
/-! DEFINITION. The flag words that several units show: SB_SYS (Table 4.6), SB_ERR (Table 4.7), SB_HOLD_AGE, and
MB_MODESTAT (Table 2.4). -/

namespace Sys2Proof.Machine

open Sys2Proof

/-- The target of a transition in progress: a pending change, a SENTINEL entry, a wake. -/
def State.target (s : State) : Option Mode :=
  match s.mo.sent with
  | .entering _ => some .sentinel
  | .waking _ | .locked => some .run
  | _ => s.mo.pend

/-- Code of a pending target mode. -/
def State.targetCode (s : State) : Nat := (s.target.map Mode.code).getD 0

/-- SB_SYS (Table 4.6).  DEDUCED (assumption 80): until the ROM and fuse checks are done it reads 0x0000_0001, as R100 says of it
from RESET_N release; then the holdover flag of R36 and the fuses show. -/
def State.sbSys (s : State) : W32 :=
  if s.mo.mode == .boot && s.mo.boot == .rom then 1
  else BitVec.ofNat 32 (b2n s.mo.protFail * 2 ^ 31 + b2n s.ev.logDeg * 2 ^ 30 + b2n s.holdover * 2 ^ 29 + b2n s.opened * 2 ^ 28
    + s.rd FD_STAT_FLD 0 * 2 ^ 26 + s.mo.letClass % 4 * 2 ^ 24 + s.mo.heart % 256 * 2 ^ 8 + b2n s.target.isSome * 2 ^ 7
    + s.targetCode * 2 ^ 4 + s.mo.mode.code)

/-- Highest class in handling. -/
def State.errClass (s : State) : Nat := (s.ec.handling.map (·.cls)).foldl max 0

/-- Nested class C errors: in handling, preempted or queued (R377). -/
def State.nestC (s : State) : Nat := min 3 ((s.ec.handling ++ s.ec.queue).filter (fun e => e.cls == 3)).length

/-- SB_ERR (Table 4.7). -/
def State.sbErr (s : State) : W32 :=
  BitVec.ofNat 32 (s.ec.lastCode % 65536 * 2 ^ 16 + min 32 s.ec.queue.length * 2 ^ 8 + s.nestC * 2 ^ 4 + s.errClass)

/-- SB_HOLD_AGE: whole seconds of holdover. -/
def State.holdAge (s : State) : Nat :=
  if s.holdover then min 0xFFFFFFFF ((s.elapsed - s.tu.holdSince) / 800000000) else 0

end Sys2Proof.Machine
end

