-- ==== Sys2Proof/Machine/Operands.lean ====
section
/-! DEFINITION. The operand forms of the mailbox: the fields of a command entry (Table 3.3), of an object ID
(Table 3.8) and of a doorbell word (Table 3.7), the inline parameters, and the plan of writes over an object. -/

namespace Sys2Proof.Machine

open Sys2Proof

/-! The command entry. -/

def Cmd.word (c : Cmd) (k : Nat) : W32 := c.words.getD k 0

def Cmd.opcode (c : Cmd) : Nat := (c.word 0).get 31 16
def Cmd.tag (c : Cmd) : Nat := (c.word 0).get 15 0
def Cmd.fence (c : Cmd) : Bool := (c.word 1).get 18 18 == 1
def Cmd.bufLoc (c : Cmd) : Nat := (c.word 1).get 17 17
def Cmd.buf (c : Cmd) : Bool := (c.word 1).get 16 16 == 1
def Cmd.len (c : Cmd) : Nat := (c.word 1).get 15 0
def Cmd.objid (c : Cmd) : Nat := (c.word 2).toNat
def Cmd.session (c : Cmd) : Nat := (c.word 3).get 15 0
def Cmd.bufAddr (c : Cmd) : Nat := (c.word 5).toNat * 2 ^ 32 + (c.word 4).toNat
def Cmd.bufLen (c : Cmd) : Nat := (c.word 6).toNat
def Cmd.bufDir (c : Cmd) : Nat := (c.word 7).get 0 0

/-- Inline parameter word `k`: from word 4 with BUF = 0, from word 8 with BUF = 1, where words 4 to 7 are the
buffer descriptor (Table 3.3). -/
def Cmd.par (c : Cmd) (k : Nat) : W32 := if c.buf then c.word (8 + k) else c.word (4 + k)

/-- The inline parameters from `k` on. -/
def Cmd.pars (c : Cmd) (k : Nat) : List W32 := if c.buf then c.words.drop (8 + k) else c.words.drop (4 + k)

/-! The object ID. -/

def objUnit (o : Nat) : Nat := o / 2 ^ 24 % 256
def objInst (o : Nat) : Nat := o / 256 % 65536
def objGrp (o : Nat) : Nat := o % 256
def mkObjId (unit i grp : Nat) : Nat := unit * 2 ^ 24 + i * 256 + grp

/-! The doorbell word. -/

def dbKind (w : W32) : Nat := w.get 31 30
def dbRing (w : W32) : Nat := w.get 29 24
def dbIndex (w : W32) : Nat := w.get 15 0

/-! A write of an object: its words as they stand and as they would stand. -/

/-- A write of one object (R75): the words before and after, and which words the write names. -/
structure WReq where
  unit : Nat
  grp : Nat
  i : Nat
  first : Nat
  ws : List (W32 × W32)

/-- Does the write name word `w`? -/
def WReq.names (r : WReq) (w : Nat) : Bool := decide (r.first ≤ w) && decide (w < r.first + r.ws.length)

/-- The value bits that a write puts into word `w`: mask and value. -/
def WReq.at (r : WReq) (w : Nat) : W32 × W32 := if r.names w then r.ws.getD (w - r.first) (0, 0) else (0, 0)

/-- Bits of `old` outside the mask, bits of `v` inside. -/
def blend (old mask v : Nat) : Nat := (old &&& (0xFFFFFFFF - mask)) ||| (v &&& mask)

/-- The object's word as the write would leave it, judged over its RW bits; WO bits show the value written. -/
def WReq.newWord (s : State) (r : WReq) (w : Nat) : W32 :=
  match findObj r.unit r.grp with
  | none => 0
  | some o =>
    BitVec.ofNat 32 (blend (s.word r.unit r.grp r.i w).toNat
      (maskOfFields (fun a => a == .rw || a == .wo) w o.fields &&& (r.at w).1.toNat) (r.at w).2.toNat)

/-- A field as the write would leave it. -/
def WReq.newk (s : State) (r : WReq) (f : Field) (k : Nat) : Nat := (r.newWord s (f.wordAt k)).get f.hi f.lo
def WReq.new (s : State) (r : WReq) (f : Field) : Nat := r.newk s f 0
/-- A field as it stands. -/
def WReq.old (s : State) (r : WReq) (f : Field) : Nat := s.rd f r.i
/-- Does the write change the field? -/
def WReq.changes (s : State) (r : WReq) (f : Field) : Bool := r.new s f != r.old s f
def WReq.changesk (s : State) (r : WReq) (f : Field) (k : Nat) : Bool := r.newk s f k != s.rdk f r.i k
/-- Does the write name one of the field's bits? -/
def WReq.touches (r : WReq) (f : Field) : Bool := natBits (r.at f.word).1.toNat f.hi f.lo != 0
/-- The write is one of the given object. -/
def WReq.isObj (r : WReq) (o : ObjSpec) : Bool := r.unit == o.unit && r.grp == o.grp

/-- A range check on a field a write names. -/
def WReq.inRange (s : State) (r : WReq) (f : Field) (lo hi : Nat) : Bool :=
  !r.touches f || (decide (lo ≤ r.new s f) && decide (r.new s f ≤ hi))

end Sys2Proof.Machine
end

