-- ==== Sys2Proof/Machine/Presence.lean ====
section
/-! DEFINITION. What a variant has: units, instances and functions present or absent (R3, R4, R6, Table 0.1, Table 1.3). -/

namespace Sys2Proof.Machine

open Sys2Proof

/-- The instance lies in the CPX-9640 range of its object (R4). -/
def ObjSpec.full (o : ObjSpec) (i : Nat) : Bool :=
  (decide (o.lo ≤ i) && decide (i < o.n9640)) || (decide (o.exLo ≤ i) && decide (i < o.exHi))

/-- The instance is present in the variant. -/
def State.present (s : State) (o : ObjSpec) (i : Nat) : Bool :=
  (decide (o.lo ≤ i) && decide (i < s.byVar o.n9640 o.n9632 o.n9616)) || (decide (o.exLo ≤ i) && decide (i < o.exHi))

/-- A whole unit that the variant lacks: LE, AX and SF in CPX-9616 (Table 1.3). -/
def State.unitAbsent (s : State) (u : Nat) : Bool := s.var == .cpx9616 && (u == 0x18 || u == 0x19 || u == 0x39)

/-- UNIT_ABSENT for an object ID: an absent unit, or an instance that CPX-9640 has and the variant lacks. -/
def State.objAbsent (s : State) (u grp i : Nat) : Bool :=
  s.unitAbsent u || (match findObj u grp with
    | some o => o.full i && !s.present o i
    | none => false)

/-- A Renby device of a system: CPX-9616 knows 64 of them (Table 0.1). -/
def State.nDev (s : State) : Nat := s.byVar 1024 1024 64

/-- UNIT_ABSENT for the object ID of a command: its unit, or an instance that CPX-9640 has and the variant lacks (R3). -/
def State.absentObj (s : State) (c : Cmd) : Option Nat :=
  if s.objAbsent (objUnit c.objid) (objGrp c.objid) (objInst c.objid) then some c.objid else none

/-- BAD_OBJECT for an object ID: an unknown unit or field group, an instance beyond the CPX-9640 range. -/
def objUnknown (u grp i : Nat) : Bool :=
  match findObj u grp with
  | some o => !o.full i
  | none => true

end Sys2Proof.Machine
end

