-- ==== Sys2Proof/Machine/Runner.lean ====
section
/-! DEFINITION. Running a command in flight (R63, R71 to R74, R77, R80): when it may start, the order of its checks, and
its outcome. -/

namespace Sys2Proof.Machine

open Sys2Proof

/-- Opcodes (Table 3.10). -/
def opNop : Nat := 0x0001
def opAbort : Nat := 0x0002
def opRead : Nat := 0x0100
def opWrite : Nat := 0x0101
def opModify : Nat := 0x0102
def opDescribe : Nat := 0x0103
def opCfgLoad : Nat := 0x0200
def opCfgApply : Nat := 0x0201
def opCfgDiscard : Nat := 0x0202
def opCfgRead : Nat := 0x0203
def opModeRequest : Nat := 0x0300
def opSafeExit : Nat := 0x0301
def opColdRestart : Nat := 0x0302
def opLetRequest : Nat := 0x0303
def opNotifyRoute : Nat := 0x0400
def opStreamOpen : Nat := 0x0401
def opStreamClose : Nat := 0x0402
def opEvFreeze : Nat := 0x0500
def opEvRelease : Nat := 0x0501
def opDrTrigger : Nat := 0x0502
def opDrExport : Nat := 0x0503
def opBankSwap : Nat := 0x0600
def opLoopState : Nat := 0x0601
def opAutotune : Nat := 0x0602
def opForceSet : Nat := 0x0603
def opForceClear : Nat := 0x0604
def opInjectStart : Nat := 0x0605
def opInjectStop : Nat := 0x0606
def opTableCapture : Nat := 0x0607
def opBullpenLoad : Nat := 0x0700
def opBullpenSwitch : Nat := 0x0701
def opBullpenRollback : Nat := 0x0702
def opPointRead : Nat := 0x0800
def opPointWrite : Nat := 0x0801
def opRecipeCtl : Nat := 0x0802
def opStationEnable : Nat := 0x0803
def opAuthChallenge : Nat := 0x0900
def opAuthResponse : Nat := 0x0901
def opAuthEnd : Nat := 0x0902
def opAttest : Nat := 0x0903
def opOwnerTransfer : Nat := 0x0904
def opUnlock : Nat := 0x0905
def opFwUpdate : Nat := 0x0906

/-- Every opcode of Table 3.10. -/
def opcodes : List Nat :=
  [0x0001, 0x0002, 0x0100, 0x0101, 0x0102, 0x0103, 0x0200, 0x0201, 0x0202, 0x0203, 0x0300, 0x0301, 0x0302, 0x0303]
  ++ [0x0400, 0x0401, 0x0402, 0x0500, 0x0501, 0x0502, 0x0503, 0x0600, 0x0601, 0x0602, 0x0603, 0x0604, 0x0605, 0x0606]
  ++ [0x0607, 0x0700, 0x0701, 0x0702, 0x0800, 0x0801, 0x0802, 0x0803, 0x0900, 0x0901, 0x0902, 0x0903, 0x0904, 0x0905]
  ++ [0x0906]

/-! When a command may start (R72, R81). -/

/-- ROM recovery presents its small mailbox (Table 2.11, Table 3.12). -/
def State.romRecovery (s : State) : Bool := s.mo.boot == .recovery

/-- Commands run: the Captain runs (or ROM recovery serves), and no Let is in progress. -/
def State.cmdsRun (s : State) : Bool :=
  (s.mo.captain || s.romRecovery) && s.mo.letClass == 0 && s.mo.mode != .keeper && s.mo.sent != .asleep

/-- The mode by which a command is judged: a SENTINEL entry counts as RUN until t4. -/
def State.cmdMode (s : State) : Mode := if s.mo.mode == .sentinel then .run else s.mo.mode

def State.inMode (s : State) (l : List Mode) : Bool := l.contains s.cmdMode

/-- The "Accepted in" sets of Table 3.10. -/
def modesAll : List Mode := [.boot, .train, .commission, .run, .safe]
def modesTrain : List Mode := [.train, .commission, .run, .safe]
def modesCrs : List Mode := [.commission, .run, .safe]
def modesCr : List Mode := [.commission, .run]
def modesCs : List Mode := [.commission, .safe]
def modesC : List Mode := [.commission]

/-- Units that an image names. -/
def CfgImage.units (im : CfgImage) : List Nat :=
  (im.objs.map (fun r => objUnit r.objid)) ++ (if im.points.isSome then [0x22] else [])
    ++ (if im.steps.isEmpty then [] else [0x23]) ++ (if im.goose.isEmpty then [] else [0x42])

/-- The command is the CFG_APPLY past its commit point (R78). -/
def State.pastCommit (s : State) (c : Cmd) : Bool :=
  match s.mb.applying with
  | some a => c.isThe a.1 a.2.1
  | none => false

/-- Units of the image that a CFG_APPLY applies: the staged one, or the one it has committed. -/
def State.applyUnits (s : State) (a : Cmd) : List Nat :=
  if s.pastCommit a then s.mb.applyUnits else (s.mb.staged.map CfgImage.units).getD []

def Cmd.writes (c : Cmd) : Bool := c.opcode == opWrite || c.opcode == opModify

/-- CFG_APPLY and writes to the units its image names run one after another. -/
def State.applyOrder (s : State) (a b : Cmd) : Bool :=
  (a.opcode == opCfgApply && (b.opcode == opCfgApply || (b.writes && (s.applyUnits a).contains (objUnit b.objid))))
  || (b.opcode == opCfgApply && a.writes && (s.applyUnits b).contains (objUnit a.objid))

/-- A swap that waits for its instant does not hold back another of the same group or loop, which completes with BANK_BUSY
(R157, R251; DEDUCED, assumption 71). -/
def Cmd.swapsPast (a c : Cmd) : Bool := a.opcode == opBankSwap && c.opcode == opBankSwap && a.phase == .started

/-- SC commands, which run one after another (R536). -/
def Cmd.ofSc (c : Cmd) : Bool := c.opcode / 256 == 9

/-- Command `a`, fetched before `c`, keeps `c` from starting. -/
def State.holdsBack (s : State) (a c : Cmd) : Bool :=
  decide (a.order < c.order) && ((a.objid != 0 && a.objid == c.objid && !a.swapsPast c)
    || (a.ring == c.ring && (a.fence || c.fence)) || s.applyOrder a c
    || (a.ofSc && c.ofSc))

def State.blocked (s : State) (c : Cmd) : Bool := s.mb.inflight.any (fun a => s.holdsBack a c)

/-! Checks (R80). -/

/-- Owner authority (R77): the command carries the session of its master. -/
def State.authOf (s : State) (m : Master) : AuthSt :=
  match m with
  | .hostA => s.sc.authA
  | .hostB => s.sc.authB
  | .hotPort => s.sc.authHp

/-- Commands for which the debug session is no authority (R533): those of R84, and FW_UPDATE. -/
def noDebug : List Nat := [opAuthChallenge, opAuthResponse, opAttest, opOwnerTransfer, opFwUpdate]

/-- The debug session acts as owner authority on an opened device (R533). -/
def State.debugAuth (s : State) (c : Cmd) : Bool :=
  s.opened && c.session == s.sc.debugSession && c.master == s.sc.debugMaster && !noDebug.contains c.opcode

def State.authorized (s : State) (c : Cmd) : Bool :=
  c.session != 0 && (c.session == (s.authOf c.master).session || s.debugAuth c)

/-- What an opcode says of a command, in the terms of R80. -/
structure Checks where
  /-- BUF, BUF_DIR and LENGTH are as the opcode allows -/
  form : Bool
  /-- an absent instance or function that a parameter names: the object ID (R3); an absent object ID is judged for every
  command alike -/
  absent : Option Nat := none
  /-- BAD_OBJECT for the object ID or a parameter: RES0 and RES1 -/
  bad : Option (Nat × Nat) := none
  /-- owner authority is needed -/
  auth : Bool
  /-- the current mode accepts the command -/
  modes : Bool
  /-- the opcode's own checks -/
  own : Option (Status × Nat × Nat) := none

/-- The frame of an entry: reserved bits of words 1 and 3; then LENGTH and BUF_LEN. -/
def Cmd.frameBad (c : Cmd) : Bool := (c.word 1).get 31 19 != 0 || (c.word 3).get 31 16 != 0

def Cmd.lengthOk (c : Cmd) : Bool :=
  c.len % 4 == 0 && decide (c.len ≤ if c.buf then 32 else 48)
    && (!c.buf || (decide (1 ≤ c.bufLen) && decide (c.bufLen ≤ 33554432)))

/-- Word 7 and the alignment of a buffer. -/
def Cmd.bufBad (c : Cmd) : Bool := c.buf && ((c.word 7).get 31 1 != 0 || c.bufAddr % 64 != 0)

/-- The first status that applies, with RES0 and RES1; none when the command passes. -/
def State.verdict (s : State) (c : Cmd) (k : Checks) : Option (Status × Nat × Nat) :=
  if c.frameBad then some (.badObject, c.objid, 0)
  else if !c.lengthOk || !k.form then some (.badLength, 0, 0)
  else match (s.absentObj c).orElse (fun _ => k.absent) with
    | some o => some (.unitAbsent, o, 0)
    | none =>
      if c.bufBad then some (.badObject, c.objid, 0)
      else match k.bad with
        | some r => some (.badObject, r.1, r.2)
        | none =>
          if k.auth && !s.authorized c then some (.authRequired, 0, 0)
          else if !k.modes then some (.modeForbids, s.cmdMode.code, 0)
          else k.own

/-- No buffer, at least `n` inline bytes; a longer LENGTH within Table 3.3 is accepted (assumption 67). -/
def Cmd.inline (c : Cmd) (n : Nat) : Bool := !c.buf && decide (n ≤ c.len)

/-- A buffer of the given direction, at least `n` inline bytes. -/
def Cmd.buffer (c : Cmd) (dir n : Nat) : Bool := c.buf && c.bufDir == dir && decide (n ≤ c.len)

/-- Decide a command with a status, RES0 and RES1, without effect.  A DMA_FAULT of a buffer in device SDRAM is an uncorrectable
SDRAM error outside the store and PD (Table 3.11), error 0x5080 (Table 13.9). -/
def State.refuse (s : State) (c : Cmd) (v : Status × Nat × Nat) : State :=
  let s1 := s.setPhase c.ring c.order (.decided v.1 v.2.1 v.2.2 0 0 none)
  if v.1 == .dmaFault && c.buf && c.bufLoc == 1 then s1.arrive 0x5080 2 else s1

/-- What ROM recovery serves (Table 3.12). -/
def Cmd.recoverable (c : Cmd) : Bool :=
  c.opcode == opNop || c.opcode == opFwUpdate || (c.opcode == opRead && (c.objid == 0x02000000 || c.objid == 0x02000002))

/-- Run the command at (ring, idx), when it is one of the row's: its checks, then its effect.  A row that names no
such command, or one that may not start yet, changes nothing (assumption 2). -/
def State.runCmd (s : State) (ring idx : Nat) (mine : Cmd → Bool) (checks : State → Cmd → Checks)
    (go : State → Cmd → State) : Res :=
  match s.waitingAt ring idx with
  | none => .next s
  | some c =>
    if !mine c || !s.cmdsRun || s.blocked c then .next s
    else if s.romRecovery && !c.recoverable then .next (s.refuse c (.badOpcode, 0, 0))
    else match s.verdict c (checks s c) with
      | some v => .next (s.refuse c v)
      | none => .next (go s c)

/-- The command has one opcode. -/
def isOp (op : Nat) (c : Cmd) : Bool := c.opcode == op

/-- Mark a command as running until a boundary of its unit. -/
def State.start (s : State) (c : Cmd) : State := s.setPhase c.ring c.order .started

/-- A command's buffer can be reached: device SDRAM, or host memory over a trained link in D0 (R86). -/
def State.bufReach (s : State) (c : Cmd) : Bool := c.bufLoc == 1 || (s.he.linkUp && !s.he.d3hot)

/-- What a buffer holds, when it can be reached. -/
def State.reach {α : Type} (s : State) (c : Cmd) (buf : Option α) : Option α := if s.bufReach c then buf else none

/-- DMA_FAULT for a buffer that could not be reached. -/
def State.dmaCheck (s : State) (c : Cmd) (ok : Bool) : Option (Status × Nat × Nat) :=
  if ok && s.bufReach c then none else some (.dmaFault, 0, 0)

end Sys2Proof.Machine
end

