-- ==== Sys2Proof/Machine/Events.lean ====
section
/-! DEFINITION. The event recorder (14_recording.md, R381 to R393): the ring, freezes and the staging buffer, the last-resort
ring, restart numbering. -/

namespace Sys2Proof.Machine

open Sys2Proof

/-- Records of the event ring (R386), entries of the staging buffer and those open to any record (R388). -/
def ringCap : Nat := 1048576
def stageCap : Nat := 4096
def stageAny : Nat := 3840

/-- EV writes: from SDRAM trained in BOOT, in every mode but KEEPER, and not between t4 and w8 of SENTINEL (Table 14.8). -/
def State.evOn (s : State) : Bool :=
  s.tu.running && s.mo.mode != .keeper
    && (s.mo.boot == .config || s.mo.boot == .protection || s.mo.boot == .done || s.mo.boot == .awaitConfig)
    && (match s.mo.sent with
      | .out => true
      | .entering k => decide (k < 4)
      | _ => false)

/-- In the BOOT of a COLD_RESTART protection is armed and EV stages before SDRAM is trained (Table 14.8). -/
def State.evStages (s : State) : Bool := s.tu.running && s.mo.mode == .boot && s.mo.coldBoot && !s.evOn

def State.arch (s : State) : Bool := s.flag EV_CFG_ARCH 0

/-- A record as the eight words of Table 14.1. -/
def EvEntry.words (e : EvEntry) : List W32 :=
  let w := [BitVec.ofNat 32 e.seq, BitVec.ofNat 32 (e.body.code * 65536 + e.body.src)] ++ e.body.time.words
    ++ [BitVec.ofNat 32 e.body.par0, BitVec.ofNat 32 e.body.par1, BitVec.ofNat 32 e.body.par2]
  w ++ [BitVec.ofNat 32 (crc32c w)]

def seqNext (n : Nat) : Nat := (n + 1) % 2 ^ 32
def seqPrev (n : Nat) : Nat := (n + 2 ^ 32 - 1) % 2 ^ 32

/-- EV's own notification and error: its record is EV's own and is written apart (R382). -/
def State.evError (s : State) (code cls : Nat) (t : Stamp) (p0 p1 p2 : Nat) : State :=
  let s1 := s.arrive (0x3000 + code) cls
  s1.deliverOrHold ⟨0x30, code, p0 % 2 ^ 32, p1 % 2 ^ 32, p2 % 2 ^ 32, 0, t⟩

/-- Count losses into EV_STAT.LOST. -/
def State.evLost (s : State) (n : Nat) : State := { s with ev := { s.ev with lost := satAdd 0xFFFFFFFF s.ev.lost n } }

/-- Write a record into the ring with the next SEQ (R384, R386). -/
def State.evRing (s : State) (r : EvRec) : State :=
  let kept := if s.ev.ring.length < ringCap then s.ev.ring else s.ev.ring.drop 1
  let s1 : State := { s with ev := { s.ev with
    ring := kept ++ [(⟨s.ev.nextSeq, r⟩ : EvEntry)], nextSeq := seqNext s.ev.nextSeq, anyWritten := true
    unarch := if s.arch then min ringCap (s.ev.unarch + 1) else 0 } }
  if s.arch && s.ev.unarch == 0 then
    { s1 with ar := { s1.ar with pageAt := mset (fun _ => 0) 0 (s.elapsed + 1) s1.ar.pageAt } }
  else s1

/-- PAR0 of an OVERFLOW record (R388). -/
def overflowPar (prio all : Nat) : Nat := min 255 prio * 2 ^ 24 + min 0xFFFFFF all

/-- Write a record into the last-resort ring (R391): priority records only, entry 511 an OVERFLOW record updated in place. -/
def State.evLast (s : State) (r : EvRec) : State :=
  if !r.prio then
    { s with kp := { s.kp with
      npLost := satAdd 0xFFFFFFFF s.kp.npLost 1
      npFirst := if s.kp.npLost = 0 then r.time else s.kp.npFirst
      npLast := r.time } }
  else if s.kp.lring.length < 511 then
    { s with kp := { s.kp with lring := s.kp.lring ++ [(⟨s.ev.nextSeq, r⟩ : EvEntry)] }
             ev := { s.ev with nextSeq := seqNext s.ev.nextSeq, anyWritten := true } }
  else
    let t := s.now
    let first := s.kp.lring.length = 511
    let p := s.kp.lrPrioLost + 1
    let a := s.kp.lrLost + 1
    let t0 := if first then t else s.kp.lrLostFirst
    let seq := if first then s.ev.nextSeq else ((s.kp.lring.getLast?).map (·.seq)).getD 0
    let e : EvEntry := ⟨seq, ⟨0x3001, 0, t0, overflowPar p a, t.sec % 2 ^ 32, t.ns, true⟩⟩
    let kp : Keeper := { s.kp with
      lring := s.kp.lring.take 511 ++ [e], lrPrioLost := p, lrLost := a, lrLostFirst := t0, lrLostLast := t }
    let s1 : State := { s with kp := kp, ev := { s.ev with nextSeq := if first then seqNext s.ev.nextSeq else s.ev.nextSeq } }
    let s2 := s1.evLost 1
    if first then s2.evError 1 1 t0 e.body.par0 e.body.par1 e.body.par2 else s2

/-- Stage a record while the ring is frozen (R388). -/
def State.evStage (s : State) (r : EvRec) : State :=
  let n := s.ev.staging.length
  if n < stageAny || (n < stageCap && r.prio) then { s with ev := { s.ev with staging := s.ev.staging ++ [r] } }
  else { s with ev := { s.ev with stLoss := s.ev.stLoss.add s.now, stPrioLost := s.ev.stPrioLost + b2n r.prio } }

/-- The next write would overwrite a record not yet archived (R386). -/
def State.evFull (s : State) (more : Nat) : Bool := s.arch && decide (ringCap < s.ev.unarch + more)

def freezeRec (s : State) (cause : Nat) : EvRec := ⟨0xB001, 0, s.now, cause, 0, 0, true⟩

/-- Freeze the ring (R386, R387, R389).  With cause 3 the ring takes no more records, so the EV_FREEZE record is the first
staged one. -/
def State.evFreeze (s : State) (cause : Nat) : State :=
  let mark (s : State) : State := { s with ev := { s.ev with frozen := some cause, freezeAt := s.elapsed } }
  if s.ev.frozen.isSome || s.ev.lr then s
  else if s.evFull 1 then (mark s).evStage (freezeRec s cause)
  else mark (s.evRing (freezeRec s cause))

/-- Write a record where it belongs. -/
def State.evWrite (s : State) (r : EvRec) : State :=
  if s.ev.lr then s.evLast r
  else if s.ev.frozen.isSome then s.evStage r
  else if s.evFull 1 then (s.evFreeze 3).evStage r
  else s.evRing r

/-- A freeze ends with a cause; a copy that runs stops there (R387), and the drain follows. -/
def State.evThaw (s : State) (cause : Nat) : State :=
  if s.ev.frozen.isSome then
    { s with ev := { s.ev with frozen := none, drain := some cause, copy := s.ev.copy.map (fun c => { c with ended := true }) } }
  else s

/-- The OVERFLOW record of a loss (R388). -/
def overflowRec (prio : Nat) (l : Loss) : EvRec :=
  ⟨0x3001, 0, l.first, overflowPar prio l.cnt, l.last.sec % 2 ^ 32, l.last.ns, true⟩

def EvRec.error (r : EvRec) (s : State) (code cls : Nat) : State := s.evError code cls r.time r.par0 r.par1 r.par2

/-- Write the staged records and, when any was lost, one OVERFLOW record. -/
def State.evUnstage (s : State) : State :=
  let l := s.ev.stLoss
  let r := overflowRec s.ev.stPrioLost l
  let s0 : State := { s with ev := { s.ev with staging := [], stLoss := Loss.none, stPrioLost := 0 } }
  let s1 := s.ev.staging.foldl State.evWrite s0
  if l.cnt = 0 then s1 else r.error ((s1.evWrite r).evLost l.cnt) 1 1

/-- The drain after a freeze (R388).  When the archive leaves no room for it, the ring freezes again with cause 3. -/
def State.evDrain (s : State) : State :=
  match s.ev.drain with
  | none => s
  | some cause =>
    let s0 : State := { s with ev := { s.ev with drain := none } }
    if s.evFull (s.ev.staging.length + 2) then
      State.evStage { s0 with ev := { s0.ev with frozen := some 3, freezeAt := s.elapsed } } (freezeRec s 3)
    else s0.evUnstage.evWrite ⟨0xB002, 0, s.now, cause, s.ev.staging.length, s.ev.stLoss.cnt, true⟩

/-- FREEZE_DRAIN (R388). -/
def execFreezeDrain (s : State) : Res := if s.evOn then .next s.evDrain else .next s

/-- FREEZE_LIMIT_EXPIRY (R387): 500 ms after EV_FREEZE; a freeze in force at a Let runs on to LET_END (R389). -/
def execFreezeLimitExpiry (s : State) : Res :=
  if s.evOn && s.ev.frozen == some 1 && s.mo.letClass == 0 && decide (s.ev.freezeAt + 400000000 ≤ s.elapsed) then
    .next (s.evThaw 2)
  else .next s

/-- ARCHIVE_LAG_FREEZE (R386): the ring freezes before it would overwrite a record not archived; it thaws once archiving has
freed 4,096 entries. -/
def execArchiveLagFreeze (s : State) : Res :=
  if !s.evOn || s.ev.lr then .next s
  else if s.ev.frozen == some 3 then
    (if s.ev.unarch + 4096 ≤ ringCap then .next (s.evThaw 4) else .next s)
  else if s.evFull 1 then .next (s.evFreeze 3)
  else .next s

/-- EVENT_RECORD_WRITE (R384, R385, R388, R391): EV takes the oldest record of a hand-off FIFO; during a drain they wait. -/
def execEventRecordWrite (fifo : Nat) (s : State) : Res :=
  match mget (fun _ => []) s.ev.fifo fifo with
  | [] => .next s
  | r :: t =>
    let s1 : State := { s with ev := { s.ev with fifo := mset (fun _ => []) fifo t s.ev.fifo } }
    if s.evOn && s.ev.drain.isNone then .next (s1.evWrite r)
    else if s.evStages then .next (s1.evStage r)
    else .next s

/-- HANDOFF_LOST (R385): the unit ID of the source; 0x10 stands for the protection partition. -/
def execHandoffLost (fifo : Nat) (s : State) : Res :=
  let l := mget (fun _ => Loss.none) s.ev.loss fifo
  if s.evOn && s.ev.drain.isNone && l.cnt != 0
      && decide (2 * (mget (fun _ => []) s.ev.fifo fifo).length < fifoCap fifo) then
    let r : EvRec := ⟨0x3003, if fifo = 0 then 0x10 else fifo, l.first, l.cnt, l.last.sec % 2 ^ 32, l.last.ns, true⟩
    let s1 : State := { s with ev := { s.ev with loss := mset (fun _ => Loss.none) fifo Loss.none s.ev.loss } }
    .next (r.error ((s1.evWrite r).evLost l.cnt) 3 1)
  else .next s

/-! Commands (R387). -/

def evCtlObj : Nat := 0x30000000

/-- Records of the ring from a SEQ on. -/
def fromSeq (ring : List EvEntry) (first : Nat) : List EvEntry :=
  if first = 0xFFFFFFFF then ring else ring.dropWhile (fun e => e.seq != first)

/-- The copy of an EV_FREEZE command ends after `n` records: the command commits. -/
def State.evCopied (s : State) (c : Cmd) (x : EvCopy) (n : Nat) : State :=
  let recs := x.recs.take n
  let s1 : State := { s with ev := { s.ev with copy := none } }
  (s1.dmaOut c.bufLoc c.bufAddr (recs.flatMap EvEntry.words)).done c (((recs.head?).map (·.seq)).getD 0) recs.length x.seq 0

/-- EV_FREEZE starts (R387): it freezes the ring and starts the copy. -/
def State.evFreezeCmd (s : State) (ring idx : Nat) : Res :=
  s.runCmd ring idx (isOp opEvFreeze)
    (fun s c =>
      { form := c.buffer 1 8 && c.bufLen == 32 * (c.par 1).toNat
        bad := if c.objid != evCtlObj || ((c.par 0).toNat != 0xFFFFFFFF && (fromSeq s.ev.ring (c.par 0).toNat).isEmpty) then
            some (c.objid, 0) else none
        auth := false
        modes := s.inMode modesTrain
        own := if s.ev.lr then some (.modeForbids, s.cmdMode.code, 0)
          else if s.ev.frozen.isSome || s.ev.drain.isSome then some (.busyRetry, 0, 0)
          else none })
    (fun s c =>
      let s1 := s.evFreeze 1
      let seq := seqPrev s1.ev.nextSeq
      let x : EvCopy := ⟨c.ref, (fromSeq s1.ev.ring (c.par 0).toNat).take (c.par 1).toNat, seq, false⟩
      State.start { s1 with ev := { s1.ev with copy := some x } } c)

/-- The command whose copy runs, when it came from the given entry. -/
def State.copyAt (s : State) (ring idx : Nat) : Option (EvCopy × Cmd) :=
  match s.ev.copy with
  | some x => ((s.findCmd x.cmd.1 x.cmd.2).filter (fun c => c.isAt ring idx)).map (fun c => (x, c))
  | none => none

/-- EV_FREEZE (R387): a later occurrence of the row is the end of the copy, with `reached` records copied, which falls short only
where the freeze ended first. -/
def execEvFreeze (ring idx reached : Nat) (dmaOk : Bool) (s : State) : Res :=
  match s.copyAt ring idx with
  | some (x, c) =>
    if !s.evOn || !s.cmdsRun then .next s
    else if !dmaOk || !s.bufReach c then .next (State.refuse { s with ev := { s.ev with copy := none } } c (.dmaFault, 0, 0))
    else if x.ended || decide (x.recs.length ≤ reached) then .next (s.evCopied c x reached)
    else .next s
  | none => s.evFreezeCmd ring idx

/-- EV_RELEASE (R387): ends the freeze of EV_FREEZE; without one it changes nothing. -/
def execEvRelease (ring idx : Nat) (s : State) : Res :=
  s.runCmd ring idx (isOp opEvRelease)
    (fun s c =>
      { form := !c.buf
        bad := if c.objid != evCtlObj then some (c.objid, 0) else none
        auth := false
        modes := s.inMode modesAll })
    (fun s c => if s.ev.frozen == some 1 then (s.evThaw 1).done c 0 0 0 0 else s.answer c 0 0 0 0)

/-- ABORT of an EV_FREEZE whose copy runs (R74): the copy ends, the freeze stands. -/
def State.evCopyDrop (s : State) (cmd : Nat × Nat) : State :=
  match s.ev.copy with
  | some x => if x.cmd = cmd then { s with ev := { s.ev with copy := none } } else s
  | none => s

/-! Let (R389). -/

/-- A Let begins: the ring freezes, or a freeze in force runs on; an uncommitted copy is given up. -/
def State.evLetBegin (s : State) : State :=
  let s1 := s.evDrain.evFreeze 2
  { s1 with ev := { s1.ev with copy := none } }

/-- LET_END: the freeze ends. -/
def State.evLetEnd (s : State) : State := s.evThaw 3

/-! Last resort (R390 to R392). -/

/-- Last-resort operation with a cause, PAR1, and whether EV raises its class B error. -/
def State.evLastResort (s : State) (cause p1 : Nat) (tell : Bool) : State :=
  if s.ev.lr then s
  else
    let r : EvRec := ⟨0x3002, 0, s.now, cause, p1 % 2 ^ 32, seqPrev s.ev.nextSeq, true⟩
    let s0 : State := { s with ev := { s.ev with
      lr := true, logDeg := true, frozen := none, drain := none, copy := s.ev.copy.map (fun c => { c with ended := true }) } }
    let s1 := s0.evLast r
    let s2 := if tell then r.error s1 2 2 else s1
    s2.evUnstage

/-- LAST_RESORT_ENTRY (R390): cause 1 a ring block failed, with the first SEQ of the block; cause 2 the archive failed. -/
def execLastResortEntry (cause failed : Nat) (s : State) : Res :=
  if !s.evOn then .next s
  else if cause = 1 then .next (s.evLastResort 1 failed true)
  else if cause = 2 && s.arch && s.ar.failed then .next (s.evLastResort 2 (seqPrev s.ev.archNext) true)
  else .next s

/-- A channel that can write, where archiving needs one. -/
def State.arLive (s : State) (c : Nat) : Bool := decide (c < s.byVar 2 1 1) && s.rd AR_STAT_STATE c == 1
def State.arLives (s : State) : List Nat := (List.range 2).filter s.arLive

/-- Recovery passed (R392): the last-resort records are carried back with their SEQ values. -/
def State.evRecovered (s : State) : State :=
  let l := s.kp.lring
  let n := s.kp.npLost
  let room := ringCap - l.length
  let s1 : State := { s with
    ev := { s.ev with
      ring := s.ev.ring.drop (s.ev.ring.length - room) ++ l, lr := false, logDeg := false, rcv := 1, rcvReq := false
      unarch := if s.arch then min ringCap (s.ev.unarch + l.length) else 0 }
    kp := { s.kp with lring := [], npLost := 0, npFirst := ⟨0, 0⟩, npLast := ⟨0, 0⟩, lrPrioLost := 0, lrLost := 0 } }
  let o := overflowRec 0 ⟨n, s.kp.npFirst, s.kp.npLast⟩
  let s2 := if n = 0 then s1 else o.error ((s1.evWrite o).evLost n) 1 1
  s2.evWrite ⟨0xB004, 0, s.now, ((l.head?).map (·.seq)).getD 0, ((l.getLast?).map (·.seq)).getD 0, 0, true⟩

/-- EV_RECOVER (R392): the test of the ring memory answers `ringOk`. -/
def execEvRecover (ringOk : Bool) (s : State) : Res :=
  if s.evOn && s.ev.lr && s.mo.letClass == 0 && s.inMode modesCrs then
    let s1 : State := { s with ev := { s.ev with rcvReq := false } }
    if !ringOk then .next { s1 with ev := { s1.ev with rcv := 2 } }
    else if s.arch && s.arLives.isEmpty then .next { s1 with ev := { s1.ev with rcv := 3 } }
    else .next s1.evRecovered
  else .next s

/-! Power fail and restart (R393). -/

/-- EV_PFMARK, held by the Keeper. -/
def State.pfMark (s : State) : State :=
  { s with kp := { s.kp with
    pfMark := some ⟨seqPrev s.ev.nextSeq, seqPrev s.ev.archNext, s.ch.next - 1, s.ch.archNext - 1⟩ } }

/-- EV restarts in BOOT with `arch` the ARCH setting that applies: its numbering, EV_RESTART, the staged records. -/
def State.evRestart (s : State) (arch : Bool) : State :=
  let old := s.ev
  let plan : Nat × Nat × Nat := match s.kp.pfMark with
    | some m => (seqNext m.evWritten, m.evWritten, 1)
    | none => if arch then ((old.archNext + 1048576) % 2 ^ 32, 0xFFFFFFFF, 2) else (0, 0xFFFFFFFF, 3)
  let lr := !s.kp.lring.isEmpty
  let s1 : State := { s with
    kp := { s.kp with pfMark := none }
    ev := { EvSt.init with
      fifo := old.fifo, loss := old.loss, nextSeq := plan.1, archNext := old.archNext, anyWritten := true
      anyArchived := old.anyArchived, staging := old.staging, stLoss := old.stLoss, stPrioLost := old.stPrioLost, lr := lr
      logDeg := lr } }
  (s1.evWrite ⟨0xB003, 0, s.now, seqPrev old.archNext, plan.2.1, plan.2.2, true⟩).evUnstage

/-- EV loses what a reset of its partition clears: everything but the archived position; the records still handed over by
the partitions in `keep` stay (R367). -/
def State.evReset (s : State) (keep : List Nat) : State :=
  { s with ev := { EvSt.init with
    fifo := s.ev.fifo.filter (fun e => keep.contains e.1), loss := s.ev.loss.filter (fun e => keep.contains e.1)
    archNext := s.ev.archNext, anyArchived := s.ev.anyArchived } }

/-! EV objects (Table 14.9). -/

def State.evStat (s : State) (w : Nat) : Nat :=
  match w with
  | 0 => b2n s.ev.frozen.isSome * 2 ^ 31 + b2n s.ev.lr * 2 ^ 30 + s.ev.rcv * 2 ^ 28 + min 4096 s.ev.staging.length
  | 1 => if s.ev.anyWritten then seqPrev s.ev.nextSeq else 0
  | 2 => ((s.ev.ring.head?).map (·.seq)).getD 0
  | 3 => if s.ev.anyArchived then seqPrev s.ev.archNext else 0
  | _ => s.ev.lost

def State.evLrstat (s : State) (w : Nat) : Nat :=
  match w with
  | 0 => min 512 s.kp.lring.length
  | 1 => s.kp.npLost
  | 2 => s.kp.npFirst.word % 2 ^ 32
  | 3 => s.kp.npFirst.word / 2 ^ 32
  | 4 => s.kp.npLast.word % 2 ^ 32
  | _ => s.kp.npLast.word / 2 ^ 32

/-- EV_LRING. -/
def State.evLring (s : State) (w : Nat) : W32 :=
  match s.kp.lring[w / 8]? with
  | some e => e.words.getD (w % 8) 0
  | none => 0

/-- A change of ARCH: records count as waiting for the archive from then on. -/
def State.evCommit (s old : State) : State :=
  if s.arch == old.arch then s else { s with ev := { s.ev with unarch := 0 } }

end Sys2Proof.Machine
end

