-- ==== Sys2Proof/Machine/Ecc.lean ====
section
/-! DEFINITION. The code of the SDRAM port (20_electrical_and_package.md, R549): a shortened Reed-Solomon code over GF(2^8), ten
stored symbols and four of the address; a read's verdict, and what it does (13, Table 13.10). -/

namespace Sys2Proof.Machine

open Sys2Proof

/-- A symbol: an element of GF(2^8) with x^8 + x^4 + x^3 + x^2 + 1. -/
abbrev Sym := BitVec 8

/-- Times α = 0x02. -/
def Sym.dbl (a : Sym) : Sym := (a <<< 1) ^^^ (if a.getLsbD 7 then 0x1D#8 else 0#8)

/-- The product, from the top bit of the second factor down. -/
def Sym.mulFrom (a b : Sym) : Nat → Sym
  | 0 => 0#8
  | n + 1 => (Sym.mulFrom a (b >>> 1) n).dbl ^^^ (if b.getLsbD 0 then a else 0#8)

def Sym.mul (a b : Sym) : Sym := Sym.mulFrom a b 8

/-- Symbols of a codeword, the coefficient of x^0 first: its value at 1 and at α. -/
def atOne : List Sym → Sym
  | [] => 0#8
  | a :: t => a ^^^ atOne t

def atAlpha : List Sym → Sym
  | [] => 0#8
  | a :: t => a ^^^ (atAlpha t).dbl

/-- Address symbols a0 to a3 of a byte address. -/
def addrSyms (addr : Nat) : List Sym := (List.range 4).map (fun k => BitVec.ofNat 8 (addr / 2 ^ (3 + 8 * k)))

/-- Symbol on a byte lane of a beat. -/
def laneSym (w : BitVec 80) (lane : Nat) : Sym := w.extractLsb' (8 * lane) 8

/-- c(x) of a beat: p0, p1, d0 to d7, a0 to a3. -/
def beatCode (b : SdBeat) : List Sym :=
  [laneSym b.syms 8, laneSym b.syms 9] ++ (List.range 8).map (laneSym b.syms) ++ addrSyms b.addr

/-- The inverse of 1 + α. -/
def invThree : Sym := 0xF4#8

/-- What a write stores: p1 and p0 such that c(1) = 0 and c(α) = 0. -/
def sdWrite (addr : Nat) (data : BitVec 64) : SdBeat :=
  let bare := beatCode ⟨addr, data.zeroExtend 80⟩
  let s0 := atOne bare
  let p1 := Sym.mul (s0 ^^^ atAlpha bare) invThree
  let p0 := s0 ^^^ p1
  ⟨addr, data.zeroExtend 80 ||| (p0.zeroExtend 80 <<< 64) ||| (p1.zeroExtend 80 <<< 72)⟩

/-- The verdict on a beat: good, corrected with the place of the symbol in c(x) and the mended symbols, or uncorrectable, possibly
as an address error. -/
inductive SdVerdict where
  | good
  | corrected (j : Nat) (syms : BitVec 80)
  | uncorrectable (address : Bool)
  deriving DecidableEq, Repr

/-- The byte lane of place j of c(x). -/
def laneOf (j : Nat) : Nat := if j < 2 then 8 + j else j - 2

/-- j = log_alpha(s1 / s0) when it lies below a bound: the first power of α that takes s0 to s1. -/
def logAlpha (s0 s1 : Sym) : Nat → Nat → Option Nat
  | _, 0 => none
  | j, n + 1 => if s0 = s1 then some j else logAlpha s0.dbl s1 (j + 1) n

/-- A read (R549). -/
def sdRead (b : SdBeat) : SdVerdict :=
  let s0 := atOne (beatCode b)
  let s1 := atAlpha (beatCode b)
  if s0 = 0#8 ∧ s1 = 0#8 then .good
  else if s0 ≠ 0#8 ∧ s1 ≠ 0#8 then
    match logAlpha s0 s1 0 14 with
    | some j => if j ≤ 9 then .corrected j (b.syms ^^^ (s0.zeroExtend 80 <<< (8 * laneOf j))) else .uncorrectable true
    | none => .uncorrectable false
  else .uncorrectable false

/-- What every read does: the first correction of each device raises a class B error (Table 13.10), whose code the manual does not
give.  DESIGN CHOICE (assumption 45): a device is told by its byte lane, as no rule says which rank an address names. -/
def State.sdJudge (s : State) (b : SdBeat) : State :=
  match sdRead b with
  | .corrected j _ =>
    if s.cs.sdSeen.contains (laneOf j) then s
    else State.arrive { s with cs := { s.cs with sdSeen := s.cs.sdSeen ++ [laneOf j] } } (0x5080 + Config.sdFirstCause.toNat) 2
  | _ => s

end Sys2Proof.Machine
end

