-- ==== Sys2Proof/Machine/Analog.lean ====
section
/-! DEFINITION. The analog front end (05_analog_front_end.md): the slot grid and its slices, raw quality, calibration, the
marks of changed settings, and what FC keeps of the raw samples. -/

namespace Sys2Proof.Machine

open Sys2Proof

def State.afCore (s : State) (k : Nat) : AfCore := mget (fun _ => AfCore.init) s.af.cores k

def State.setAfCore (s : State) (k : Nat) (c : AfCore) : State :=
  { s with af := { s.af with cores := mset (fun _ => AfCore.init) k c s.af.cores } }

def State.slice (s : State) (core sl : Nat) : Slice := mget (fun _ => Slice.init) s.af.slices (core * 4 + sl)

def State.setSlice (s : State) (core sl : Nat) (x : Slice) : State :=
  { s with af := { s.af with slices := mset (fun _ => Slice.init) (core * 4 + sl) x s.af.slices } }

def State.fcChan (s : State) (c : Nat) : FcChan := mget (fun _ => FcChan.init) s.fc.ch c

def State.setFcChan (s : State) (c : Nat) (x : FcChan) : State :=
  { s with fc := { s.fc with ch := mset (fun _ => FcChan.init) c x s.fc.ch } }

/-- Converters and paths run: from configuration apply in BOOT, in every mode but KEEPER and SENTINEL past t5
(R139, R168). -/
def State.pathsOn (s : State) : Bool :=
  s.tu.running && !(s.mo.mode == .keeper) && (s.mo.coldBoot || s.mo.boot == .protection || s.mo.boot == .done) &&
  (match s.mo.sent with
   | .out => true
   | .entering k => decide (k < 5)
   | .asleep => false
   | .waking _ => false
   | .locked => true)

/-- Analog channels of the variant (Table 0.1). -/
def State.nAin (s : State) : Nat := s.byVar 64 32 16

/-- A number rounded up to a whole multiple. -/
def ceilTo (n m : Nat) : Nat := (n + m - 1) / m * m

/-! Scan masks, twin interleave, schedules (R105 to R121). -/

/-- Bits set among positions below `n`. -/
def popBelow (mask : Nat) : Nat → Nat
  | 0 => 0
  | n + 1 => popBelow mask n + (if natBit mask n then 1 else 0)

/-- The even core of a channel's pair. -/
def pairCore (chan : Nat) : Nat := chan / 8 * 2

/-- The channel's pair is twinned (R113). -/
def State.twinned (s : State) (chan : Nat) : Bool := s.flag AF_CORE_TWIN (pairCore chan)

/-- The channel is the one its twinned pair samples. -/
def State.twinChan (s : State) (chan : Nat) : Bool :=
  s.twinned chan && chan % 8 == s.rd AF_CORE_TWIN_CH (pairCore chan)

/-- The core whose settings govern a channel. -/
def State.coreOf (s : State) (chan : Nat) : Nat := if s.twinned chan then pairCore chan else chan / 4

/-- The cores that convert a channel (R121): of a twinned pair both while all eight slices are live, otherwise the one with four live
slices, or with more of them, the even one on a tie. -/
def State.servants (s : State) (chan : Nat) : List Nat :=
  if s.twinned chan then
    let k := pairCore chan
    let a := s.rd AF_CORE_LIVE k
    let b := s.rd AF_CORE_LIVE (k + 1)
    if a = 4 ∧ b = 4 then [k, k + 1] else if a < b then [k + 1] else [k]
  else [chan / 4]

/-- Live slices of the cores that convert a channel; 8 for a full pair. -/
def State.liveFor (s : State) (chan : Nat) : Nat := ((s.servants chan).map (fun k => s.rd AF_CORE_LIVE k)).sum

/-- Frame length and offset (ns) of position `p` of `n` with `live` slices: R106 and Table 5.3. -/
def frameOf (live n p : Nat) : Nat × Nat :=
  if live = 8 then (25, 0)
  else if live = 4 then (50 * n, 50 * p)
  else if n = 1 then (100, 0)
  else if n = 2 then (200, 100 * p)
  else if n = 3 then (if live = 3 then (200, 50 * p) else (300, 100 * p))
  else (400, 100 * p)

/-- Number of enabled channels of a core, and the scan position of a channel. -/
def State.scanN (s : State) (chan : Nat) : Nat :=
  if s.twinned chan then 1 else popBelow (s.rd AF_CORE_SCAN (chan / 4)) 4

def State.scanPos (s : State) (chan : Nat) : Nat :=
  if s.twinned chan then 0 else popBelow (s.rd AF_CORE_SCAN (chan / 4)) (chan % 4)

/-- The channel is converted: its core enabled and, outside twin interleave, its scan bit set (R108, R114). -/
def State.sampled (s : State) (chan : Nat) : Bool :=
  s.flag AF_CORE_EN (s.coreOf chan) &&
  (if s.twinned chan then s.twinChan chan else natBit (s.rd AF_CORE_SCAN (chan / 4)) (chan % 4))

/-- Triggered mode (R109). -/
def State.triggered (s : State) (chan : Nat) : Bool := s.rd AF_CORE_MODE (s.coreOf chan) == 1

/-- Spacing of a channel in ns (Table 5.2, Table 5.3). -/
def State.spacingNs (s : State) (chan : Nat) : Nat := (frameOf (s.liveFor chan) (s.scanN chan) 0).1

/-- Where a channel's slot lies behind the start of its scan, ns. -/
def State.slotOff (s : State) (chan : Nat) : Nat := (frameOf (s.liveFor chan) (s.scanN chan) (s.scanPos chan)).2

/-- Does a slot time fall on the channel's grid, counted from the epoch (R107)? -/
def State.onGrid (s : State) (chan slot : Nat) : Bool :=
  let f := frameOf (s.liveFor chan) (s.scanN chan) (s.scanPos chan)
  slot % f.1 == f.2 % f.1

/-- The first slot of a channel at or after a time. -/
def State.firstSlot (s : State) (chan t : Nat) : Nat :=
  let off := s.slotOff chan
  ceilTo (t - off) (s.spacingNs chan) + off

/-- A slice of a core converts: not retired, or decided for retirement with the switch still to come (R118). -/
def State.sliceLive (s : State) (core sl : Nat) : Bool :=
  s.rdk AF_HEALTH_STATE core sl != 2 || (s.afCore core).retire.any (fun r => r.slice == sl)

/-- The live slices of a core. -/
def State.coreSlices (s : State) (core : Nat) : List Nat := (List.range 4).filter (fun sl => s.sliceLive core sl)

/-- The live slices that convert a channel in their order; those of the odd core of a pair count from 4. -/
def State.slicesOf (s : State) (chan : Nat) : List Nat :=
  (s.servants chan).flatMap (fun k => (s.coreSlices k).map (· + (if s.twinned chan then k % 2 * 4 else 0)))

/-- The core of a slice that converts a channel. -/
def State.sliceCore (s : State) (chan slice : Nat) : Nat := (if s.twinned chan then pairCore chan else chan / 4) + slice / 4

/-- Slots of a core's schedule up to a time, counted from the epoch. -/
def State.slotNo (s : State) (chan t : Nat) : Nat := t / max 1 (s.spacingNs chan) * s.scanN chan + s.scanPos chan

/-- The slice that takes a slot of the grid: the live slices in rotation (R106, R119).  DEDUCED (assumption 25): with every slice
live, slot n from the epoch goes to slice n modulo their number, as Table 5.4 shows it; after a retirement the rotation counts from
the switch. -/
def State.rotSlice (s : State) (chan slot : Nat) : Nat :=
  let l := s.slicesOf chan
  let base := ((s.servants chan).map (fun k => (s.afCore k).rotAt)).foldl max 0
  let n := s.slotNo chan slot - base / max 1 (s.spacingNs chan) * s.scanN chan
  l.getD (n % max 1 l.length) 0

/-! Raw quality (R129): the lowest nonzero code of Table 5.5. -/

/-- The first code of a list whose condition holds. -/
def firstCode : List (Bool × Nat) → Nat
  | [] => 0
  | (b, n) :: t => if b then n else firstCode t

/-- The reference buffer of a core is enabled (R127); the settings of the even core of a twinned pair hold for both (R113). -/
def State.refOn (s : State) (core : Nat) : Bool :=
  s.flag AF_CORE_REF_EN (if s.twinned (core * 4) then pairCore (core * 4) else core)

/-- The reference of a core is not settled, or out of window, at a time (R127, R128). -/
def State.refBad (s : State) (core t : Nat) : Bool :=
  let c := s.afCore core
  !s.refOn core || decide (t < c.refEnAt + 2000000) || !c.refIn || decide (t < c.refInAt) || c.refFault

/-- AF_CORE.REF_OK: the reference is settled and in its window now (Table 5.11). -/
def State.refOk (s : State) (core : Nat) : Bool := !s.refBad core s.tai

/-- The channel is switched off: its core disabled or, outside twin interleave, its scan bit clear (R108). -/
def State.chanOff (s : State) (chan : Nat) : Bool :=
  !s.flag AF_CORE_EN (s.coreOf chan) || (!s.twinned chan && !natBit (s.rd AF_CORE_SCAN (chan / 4)) (chan % 4))

/-- Every core that could convert the channel is lost (R120, R121). -/
def State.chanLost (s : State) (chan : Nat) : Bool := (s.servants chan).all (fun k => s.flag AF_CORE_LOST k)

/-- A conversion by a slice at a slot starts after the slice was decided for retirement (R118). -/
def State.sliceRetiring (s : State) (chan slice t : Nat) : Bool :=
  (s.afCore (s.sliceCore chan slice)).retire.any (fun r => r.slice == slice % 4 && decide (r.decided < t))

/-- The reason of a conversion of a channel by a slice at a slot time. -/
def State.rawReason (s : State) (chan slice t : Nat) : Nat :=
  firstCode [
    (s.chanOff chan, 1),
    (s.chanLost chan, 2),
    (mget (fun _ => false) s.af.calBad chan, 3),
    ((s.servants chan).any (fun k => s.refBad k t), 4),
    (s.twinned chan && !s.twinChan chan, 5),
    (s.sliceRetiring chan slice t, 7)]

/-- The reason of a channel that gives no raw samples to its paths (R108, R111, R114, R120); 0 when it does. -/
def State.pathReason (s : State) (chan : Nat) : Nat :=
  firstCode [
    (s.chanOff chan, 1),
    (s.chanLost chan, 2),
    (s.twinned chan && !s.twinChan chan, 5),
    (s.triggered chan, 6)]

/-! Correction and calibration (R122, R123). -/

/-- `num / den` rounded to the nearest integer, ties away from zero. -/
def roundAway (num : Int) (den : Nat) : Int :=
  if num < 0 then -(((-num).toNat * 2 + den) / (2 * den) : Nat) else ((num.toNat * 2 + den) / (2 * den) : Nat)

/-- A value clamped to ±8,388,607 (R122, R148). -/
def clamp24 (v : Int) : Int := max (-8388607) (min 8388607 v)

/-- The calibrated value of R122 for a raw code. -/
def calibrate (x : Int) (sl : Slice) (ofs : Int) (gn : Nat) : Int :=
  clamp24 (roundAway ((((16 * x - sl.ofsC) * sl.gnC - ofs * 4194304) * gn) * 256) (16 * 4194304 * 4194304))

/-- The field set of a channel is usable and selected. -/
def State.fieldSet (s : State) (chan : Nat) : Bool :=
  s.flag AF_CHAN_CAL_SEL chan && mget (fun _ => false) s.af.fieldOk chan

/-- Offset and gain in use for a channel's range. -/
def State.calOf (s : State) (chan : Nat) : Int × Nat :=
  let g := s.rd AF_CHAN_GAIN chan
  if s.fieldSet chan then (signedOf 16 (s.rdk AF_CAL_OFS chan g), s.rdk AF_CAL_GN chan g)
  else (signedOf 16 (s.rdk AF_CALF_OFS chan g), s.rdk AF_CALF_GN chan g)

/-- The raw sample word of Table 5.9. -/
def rawWord (reason : Nat) (ovr inj : Bool) (v : Int) : W32 :=
  BitVec.ofNat 32 ((if reason = 0 then 0 else 2) * 2 ^ 30 + b2n ovr * 2 ^ 29 + b2n inj * 2 ^ 28 + reason * 2 ^ 24
    + toSigned 24 v)

/-- A channel is injected at a slot (R134). -/
def State.injected (s : State) (chan slot : Nat) : Bool :=
  match (s.afCore (chan / 4)).inj with
  | some j => natBit j.mask (chan % 4) && decide (j.start ≤ slot)
  | none => false

/-- Phase of an injected waveform at a slot, 2^-40 turns; where it starts is not stated (assumption 20). -/
def Inject.phase (j : Inject) (slot : Nat) : Nat :=
  (Config.injPhase j.start + (slot - j.start) * j.freq * 2 ^ 40 / 1000000000) % 2 ^ 40

/-- The code of an injected waveform at a slot (R134): DC, sine, square. -/
def Inject.code (j : Inject) (slot : Nat) : Int :=
  if j.wave = 0 then j.amp
  else if j.wave = 1 then roundAway (j.amp * (cisTurns (j.phase slot)).2) (2 ^ 40)
  else if j.phase slot < 2 ^ 39 then j.amp else -j.amp

/-- The code the slice sees: the calibration DAC replaces the input of an injected channel. -/
def State.codeOf (s : State) (chan slot : Nat) (code : Int) : Int :=
  match (s.afCore (chan / 4)).inj with
  | some j => if s.injected chan slot then j.code slot else code
  | none => code

/-- One conversion: the sample word, its reason and OVR (R103, R104, R122, R129, R134).  DESIGN CHOICE (assumption 79): the window
comparator, which looks at the input, sets no OVR on a channel whose code an injection replaces. -/
def State.convert (s : State) (chan slice t : Nat) (code : Int) (window : Bool) : W32 × Nat × Bool :=
  let x := max (-32768) (min 32767 (s.codeOf chan t code))
  let inj := s.injected chan t
  let ovr := (window && !inj) || x == 32767 || x == -32768
  let reason := s.rawReason chan slice t
  let cal := s.calOf chan
  (rawWord reason ovr (inj && reason == 0) (calibrate x (s.slice (s.sliceCore chan slice) (slice % 4)) cal.1 cal.2), reason, ovr)

/-! Marks of changed settings (R150). -/

/-- Fine period of a channel in ns (Table 6.2). -/
def State.finePeriod (s : State) (chan : Nat) : Nat := 31250 * 2 ^ s.rd FC_CHAN_RATE chan

/-- Mark eleven fine samples for an event at `te`. -/
def State.markFine (s : State) (chan te : Nat) (settle : Bool) (reason : Nat) : State :=
  let t := s.finePeriod chan
  let k0 := ceilTo (if settle then te else te - 5 * t) t
  let x := s.fcChan chan
  s.setFcChan chan { x with fineMarks := x.fineMarks ++ [⟨k0, k0 + 10 * t, settle, reason⟩] }

/-- Mark three fast samples for an event at `te`. -/
def State.markFast (s : State) (chan te : Nat) (settle : Bool) (reason : Nat) : State :=
  let k0 := ceilTo (if settle then te else te - 1200) 800
  let x := s.fcChan chan
  s.setFcChan chan { x with fastMarks := x.fastMarks ++ [⟨k0, k0 + 1600, settle, reason⟩] }

/-- Count an event of Table 6.5 on a channel (FC_STAT.CHG). -/
def State.countChg (s : State) (chan : Nat) : State :=
  s.setFcChan chan { s.fcChan chan with chg := ((s.fcChan chan).chg + 1) % 65536 }

/-- Conversion start on a channel: 11 fine and 3 fast samples invalid, START. -/
def State.evStart (s : State) (chan te : Nat) : State :=
  ((s.countChg chan).markFine chan te false 1).markFast chan te false 1

/-- Gain change: 11 fine and 3 fast samples invalid, CHANGE. -/
def State.evGain (s : State) (chan te : Nat) : State :=
  ((s.countChg chan).markFine chan te false 2).markFast chan te false 2

/-- Scan-mask or response change: 11 fine samples invalid, CHANGE. -/
def State.evScan (s : State) (chan te : Nat) : State := (s.countChg chan).markFine chan te false 2

/-- Apply a function to each of a list of numbers. -/
def State.each (s : State) (l : List Nat) (f : State → Nat → State) : State := l.foldl f s

/-- The channels of a core, or of its pair when twinned. -/
def State.coreChans (s : State) (core : Nat) : List Nat :=
  if s.twinned (core * 4) then (List.range 8).map (· + pairCore (core * 4) * 4) else (List.range 4).map (· + core * 4)

/-! What FC keeps of the raw samples. -/

def Raw.reason (r : Raw) : Nat := r.word.get 27 24
def Raw.ovr (r : Raw) : Bool := r.word.get 29 29 == 1
def Raw.value (r : Raw) : Int := signedOf 24 (r.word.get 23 0)

/-- A raw sample joins those of its channel that a window can still reach: the widest spans ten fine periods of 250 µs and a trim of
100 µs either way. -/
def addRaw (l : List Raw) (r : Raw) : List Raw := r :: l.takeWhile (fun x => decide (r.t < x.t + 2800000))

/-- A channel's reason for giving no raw samples (0: it gives them) has changed: the one before held until now (R152). -/
def State.pathMoved (s old : State) (chan : Nat) : State :=
  if s.pathReason chan = old.pathReason chan then s
  else
    let x := s.fcChan chan
    s.setFcChan chan { x with past := ((s.tai, old.pathReason chan) :: x.past).take 32 }

/-- Show scan position, spacing and reason of a channel (Table 5.12). -/
def State.afShow (s : State) (chan : Nat) : State :=
  let on := s.sampled chan && !s.chanLost chan
  let s1 := s.wr AF_CHAN_POS chan (if on then s.scanPos chan else 0)
  let s2 := s1.wr AF_CHAN_SPACING chan (if on && !s.triggered chan then s.spacingNs chan * 8 / 25 else 0)
  s2.wr AF_CHAN_REASON chan (s.pathReason chan)

/-- Settings that a commit now replaces stay for the conversions in flight (R138). -/
def State.keepBefore (s : State) : State :=
  { s with af := { s.af with
    before := ⟨s.tai, s.regs, s.af.cores⟩ :: s.af.before.takeWhile (fun b => decide (s.tai < b.upto + 1000000)) } }

/-- The settings under which a conversion at a slot completes (R138). -/
def State.asOf (s : State) (slot : Nat) : State :=
  match (s.af.before.filter (fun b => decide (slot < b.upto))).getLast? with
  | some b => { s with regs := b.regs, af := { s.af with cores := b.cores } }
  | none => s

end Sys2Proof.Machine
end

