-- ==== Sys2Proof/Machine/Conversions.lean ====
section
/-! DEFINITION. What happens in the analog front end (05_analog_front_end.md): conversions, mismatch estimates and retirement,
reference monitors, triggered scans, urgent conversions, arc supervision, and the commit of its settings. -/

namespace Sys2Proof.Machine

open Sys2Proof

/-! Results. -/

/-- Give a sample to the open streams of a unit, channel and path, each taking every DECIM-th (R135, R166); `step` is the distance of
the path's samples.  In SENTINEL nothing is streamed (R137). -/
def State.feedStreams (s : State) (unit chan : Nat) (fast : Bool) (step : Nat) (x : Smp) : State :=
  if s.mo.mode == .sentinel then s
  else
    { s with af := { s.af with streams := s.af.streams.map (fun e =>
      match e.2 with
      | some st =>
        if st.unit == unit && st.chan == chan && st.fast == fast && st.closing.isNone
            && decide (st.startSec = 0 ∨ st.startSec ≤ x.t / 1000000000 % 2 ^ 32) then
          if decide (st.decim ≤ st.skip + 1) then (e.1, some { st with skip := 0, buf := st.buf ++ [⟨x, step * st.decim⟩] })
          else (e.1, some { st with skip := st.skip + 1 })
        else e
      | none => e) } }

/-! Triggered cores: the plan of conversions to come (R109, R110, R125). -/

/-- The slice that has been idle longest, the lowest of several: its number and its last slot. -/
def oldestSlice : List (Nat × Nat) → Option (Nat × Nat)
  | [] => none
  | x :: t =>
    match oldestSlice t with
    | none => some x
    | some y => if y.2 < x.2 then some y else some x

/-- Lay conversions on the slices (R105, R109): each at its time, 50 ns or more after the one before it, on the next free slice, which
is the one idle longest once 200 ns have passed since its last slot. -/
def layPlan : List (Nat × Nat) → Nat → List Planned → List Planned
  | _, _, [] => []
  | busy, prev, p :: rest =>
    match oldestSlice busy with
    | none => []
    | some y =>
      let t := max p.slot (max (prev + 50) (y.2 + 200))
      { p with slot := t, slice := y.1 } :: layPlan (busy.map (fun b => if b.1 = y.1 then (b.1, t) else b)) t rest

/-- Lay the conversions of a core anew. -/
def State.layCore (s : State) (core : Nat) (l : List Planned) : State :=
  let c := s.afCore core
  let busy := (s.coreSlices core).map (fun sl => (sl, (s.slice core sl).lastAt))
  let plan := layPlan busy (c.convAt - 1) l
  let last := (plan.filter (fun p => p.scan.isSome)).getLast?
  s.setAfCore core { c with plan := plan, scanLast := (last.map (·.slot)).getD c.scanLast }

/-- The enabled channels of a core in scan order. -/
def State.scanChans (s : State) (core : Nat) : List Nat :=
  ((List.range 4).filter (fun p => natBit (s.rd AF_CORE_SCAN core) p)).map (· + 4 * core)

/-- A scan starts at `t`: its positions follow 50 ns apart (R109). -/
def State.addScan (s : State) (core t : Nat) : State :=
  let new := (s.scanChans core).zipIdx.map (fun e => (⟨e.1, t + 50 * e.2, 0, some t⟩ : Planned))
  let plan := (s.afCore core).plan
  s.layCore core (plan.filter (fun p => decide (p.slot < t)) ++ new ++ plan.filter (fun p => decide (t ≤ p.slot)))

/-- An urgent conversion takes the next free slice; positions not yet converted move (R125). -/
def State.addUrgent (s : State) (core chan t : Nat) : State :=
  let plan := (s.afCore core).plan
  s.layCore core (plan.filter (fun p => decide (p.slot < t)) ++ [⟨chan, t, 0, none⟩] ++ plan.filter (fun p => decide (t ≤ p.slot)))

/-- A deferred scan starts once its instant has come (R110). -/
def State.startDeferred (s : State) (core t : Nat) : State :=
  match (s.afCore core).deferred with
  | some d => if d ≤ t then (s.setAfCore core { s.afCore core with deferred := none }).addScan core d else s
  | none => s

/-- The conversion of a triggered core that comes next is this one. -/
def State.planNext (s : State) (core chan slice slot : Nat) (urgent : Bool) : Option Planned :=
  match (s.afCore core).plan with
  | p :: _ => if p.chan = chan ∧ p.slice = slice ∧ p.slot = slot ∧ p.scan.isNone = urgent then some p else none
  | [] => none

/-! SLICE_CONVERSION. -/

/-- A slice has converted at a slot. -/
def State.converted (s : State) (chan slice slot : Nat) : State :=
  let k := s.sliceCore chan slice
  let s1 := s.setSlice k (slice % 4) { s.slice k (slice % 4) with lastAt := slot }
  let core := s1.coreOf chan
  s1.setAfCore core { s1.afCore core with convAt := slot + 1 }

/-- Retire a slice (R117, R118): its state and cause, the decision, the first frame boundary of the new schedule at least 200 ns
later, and the fine marks of its channels.  Slices decided while another waits follow one after another. -/
def State.retireSlice (s : State) (core sl cause : Nat) : State :=
  if s.rdk AF_HEALTH_STATE core sl == 2 then s
  else
    let s1 := (s.wrk AF_HEALTH_STATE core sl 2).wrk AF_HEALTH_CAUSE core sl cause
    let c := s1.afCore core
    let chan := if s1.twinned (core * 4) then pairCore (core * 4) * 4 + s1.rd AF_CORE_TWIN_CH (pairCore (core * 4)) else core * 4
    let after := s1.wr AF_CORE_LIVE core (s1.rd AF_CORE_LIVE core - (c.retire.length + 1))
    let sw := ceilTo (s1.tai + 200) (max 1 (after.spacingNs chan))
    let s2 := s1.setAfCore core { c with retire := c.retire ++ [⟨sl, s1.tai, sw⟩] }
    s2.each ((s2.coreChans core).filter (fun c => s2.sampled c)) (fun s c => s.evScan c s.tai)

/-- A conversion fault of a slice: three within 1 s retire it (R117). -/
def State.sliceFault (s : State) (core sl : Nat) : State :=
  let x := s.slice core sl
  let fs := (s.tai :: x.faults).filter (fun t => decide (s.tai < t + 1000000000))
  let s1 := s.setSlice core sl { x with faults := fs.take 3 }
  if decide (3 ≤ fs.length) then s1.retireSlice core sl 5 else s1

/-- The instant from which the references of a channel are good: the last to settle and to enter its window (R127). -/
def State.refEnd (s : State) (chan : Nat) : Nat :=
  ((s.servants chan).map (fun k => max ((s.afCore k).refEnAt + 2000000) (s.afCore k).refInAt)).foldl max 0

/-- The end of a REF interval that conversions have shown is an event of Table 6.5 (R152). -/
def State.refSeen (s : State) (chan reason : Nat) : State :=
  let core := s.coreOf chan
  let c := s.afCore core
  if reason = 4 then s.setAfCore core { c with refSeen := true }
  else if reason < 4 && decide (reason != 0) || !c.refSeen then s
  else
    let s1 := s.setAfCore core { c with refSeen := false }
    s1.each (s1.coreChans core) (fun s k => s.evGain k (s.refEnd chan))

/-- A conversion's result: into the scan results of a triggered core with the start of the scan (R111), otherwise into the
channel's chain and its raw streams. -/
def State.postRaw (s : State) (o : State) (chan slice t : Nat) (word : W32) (reason : Nat) (ovr : Bool) : State :=
  let s0 := (if ovr then s.setFlag AF_CHAN_OVR_SEEN chan true else s).converted chan slice t
  if o.triggered chan then
    let core := chan / 4
    let c := s0.afCore core
    match o.planNext core chan slice t false with
    | some p =>
      let s1 := s0.setAfCore core { c with plan := c.plan.filter (fun q => q != p) }
      (s1.wrk AF_CORE_RESULT core (o.scanPos chan) word.toNat).wr AF_CORE_SCAN_NS core (p.scan.getD 0 % 1000000000)
    | none => s0
  else
    let s1 := (s0.wr AF_CHAN_REASON chan reason).refSeen chan reason
    let x := s1.fcChan chan
    (s1.setFcChan chan { x with raws := addRaw x.raws ⟨t, o.slotOff chan, o.spacingNs chan, word⟩ }).feedStreams 0x08 chan false
      (o.spacingNs chan) ⟨t, word, 0⟩

/-- A conversion of a channel by a slice belongs to a slot: of the grid, on the slice whose turn it is, or the next of a scan in
triggered mode (R105 to R107, R109). -/
def State.slotDue (s : State) (chan slice slot : Nat) : Bool :=
  s.sampled chan && (if s.triggered chan then (s.planNext (chan / 4) chan slice slot false).isSome
    else s.onGrid chan slot && slice == s.rotSlice chan slot)

/-- SLICE_CONVERSION (R105): the result of a conversion reaches FC, 240 ns after its slot or later; slots of a core come in order.
The conversion completes under the settings that were in force at its slot (R138). -/
def execSliceConversion (chan slice slot : Nat) (code : Int) (window fault : Bool) (s0 : State) : Res :=
  let s := s0.startDeferred (chan / 4) s0.tai
  let o := s.asOf slot
  if !s.pathsOn || decide (s.nAin ≤ chan) || decide (s.tai < slot + 240) || !o.slotDue chan slice slot
      || decide (slot < (s.afCore (o.coreOf chan)).convAt) then .next s0
  else
    let r := o.convert chan slice slot code window
    let s1 := s.postRaw o chan slice slot r.1 r.2.1 r.2.2
    .next (if fault then s1.sliceFault (o.sliceCore chan slice) (slice % 4) else s1)

/-! SLICE_ESTIMATE, SLICE_RETIREMENT_SWITCH. -/

/-- Largest minus smallest of a list of integers. -/
def spread (l : List Int) : Int := l.foldl max (l.headD 0) - l.foldl min (l.headD 0)

/-- The cause of retirement that the estimates give, 0 for none (R117). -/
def estimateCause (es : List (Int × Int × Int)) : Nat :=
  let beyond (f : Int × Int × Int → Int) (lim : Int) : Bool :=
    decide (2 ≤ es.length) && (es.take 2).all (fun e => decide (lim < f e) || decide (f e < -lim))
  firstCode [
    (beyond (fun e => e.1) 100, 1),
    (beyond (fun e => e.2.1) 100, 2),
    (beyond (fun e => e.2.2) 80, 3),
    (decide (16 ≤ es.length) && (decide (50 < spread (es.map (fun e => e.1)))
      || decide (50 < spread (es.map (fun e => e.2.1))) || decide (40 < spread (es.map (fun e => e.2.2)))), 4)]

/-- A correction moves by a quarter of its difference to the estimate, rounded toward where it stands, so never by more (R115;
assumption 21). -/
def quarterStep (cur target : Int) : Int := cur + (target - cur).tdiv 4

/-- The delay trim stays within ±400 ps, in steps of 50 fs (R115). -/
def clampSkew (x : Int) : Int := max (-8000) (min 8000 x)

/-- Clamp a signed estimate to its 8-bit field. -/
def est8 (e : Int) : Nat := toSigned 8 (max (-128) (min 127 e))

/-- A new estimate of a slice (R115, R117): the health word, the corrections, and the decision to retire. -/
def State.estimate (s : State) (core slice : Nat) (offset gain skew : Int) : State :=
  let x := s.slice core slice
  let es := ((offset, gain, skew) :: x.ests).take 16
  let s1 := s.setSlice core slice { x with
    ests := es
    ofsC := quarterStep x.ofsC (offset * 10)
    gnC := (quarterStep x.gnC (4194304 * 20000 / (20000 + gain))).toNat
    skewC := clampSkew (quarterStep x.skewC (skew * 100)) }
  let watch := decide (75 < offset) || decide (offset < -75) || decide (75 < gain) || decide (gain < -75)
    || decide (60 < skew) || decide (skew < -60)
  let s2 := (((s1.wrk AF_HEALTH_STATE core slice (b2n watch)).wrk AF_HEALTH_OFS core slice (est8 offset)).wrk
    AF_HEALTH_GAIN core slice (est8 gain)).wrk AF_HEALTH_SKEW core slice (est8 skew)
  let cause := estimateCause es
  if cause = 0 then s2 else s2.retireSlice core slice cause

/-- SLICE_ESTIMATE (R115, R117).  A missing-code check of the idle windows that failed counts as a conversion fault; estimates are
frozen while an injection runs on the core. -/
def execSliceEstimate (core slice : Nat) (offset gain skew : Int) (missingCode : Bool) (s : State) : Res :=
  if !s.pathsOn || decide (s.byVar 16 8 4 ≤ core) || decide (4 ≤ slice) || s.rdk AF_HEALTH_STATE core slice == 2 then .next s
  else
    let s1 := if missingCode then s.sliceFault core slice else s
    .next (if (s.afCore core).inj.isSome || s1.rdk AF_HEALTH_STATE core slice == 2 then s1 else s1.estimate core slice offset gain skew)

/-- SLICE_RETIREMENT_SWITCH (R118 to R121): from the frame boundary on, the schedule of the remaining slices; SLICE_RETIRED, and with
the third retirement CORE_LOST. -/
def execSliceRetirementSwitch (core : Nat) (s : State) : Res :=
  match (s.afCore core).retire with
  | [] => .next s
  | r :: rest =>
    if decide (s.tai < r.switch) then .next s
    else
      let live := s.rd AF_CORE_LIVE core - 1
      let s0 : State := { s with af := { s.af with
        before := ⟨r.switch, s.regs, s.af.cores⟩ :: s.af.before.takeWhile (fun b => decide (s.tai < b.upto + 1000000)) } }
      let s1 := (s0.setAfCore core { s0.afCore core with retire := rest, rotAt := r.switch }).wr AF_CORE_LIVE core live
      let s2 := s1.notify 0x08 1 2 core r.slice (s1.rdk AF_HEALTH_CAUSE core r.slice) live
      let s3 := if decide (live ≤ 1) && !s.flag AF_CORE_LOST core then (s2.setFlag AF_CORE_LOST core true).notify 0x08 2 2 core 0 0 0 else s2
      let s4 := s3.layCore core (s3.afCore core).plan
      .next (s4.each (s4.coreChans core) (fun t c => (t.pathMoved s c).afShow c))

/-! REF_MONITOR_CHANGE, REF_OK_EXPIRY (R127, R128). -/

/-- REF_MONITOR_CHANGE: each exit once the reference had settled sends REF_FAULT; the return sends REF_OK, and the REF interval goes
on until REF_OK_EXPIRY. -/
def execRefMonitorChange (core : Nat) (inWindow : Bool) (s : State) : Res :=
  if decide (s.byVar 16 8 4 ≤ core) || !s.refOn core || (s.afCore core).refIn == inWindow then .next s
  else
    let c := s.afCore core
    if inWindow then
      let s1 := s.setAfCore core { c with refIn := true, refInAt := s.tai }
      .next (if c.refFault then s1.notify 0x08 4 0 core 0 0 0 else s1)
    else
      let fault := decide (c.refEnAt + 2000000 ≤ s.tai) || c.refFault
      let s1 := s.setAfCore core { c with refIn := false, refFault := fault }
      .next (if fault then s1.notify 0x08 3 2 core 0 0 0 else s1)

/-- REF_OK_EXPIRY: 100 µs back in the window end the REF interval, which counts as a gain change of each channel of the core (R128). -/
def execRefOkExpiry (core : Nat) (s : State) : Res :=
  let c := s.afCore core
  if c.refFault && c.refIn && decide (c.refInAt + 100000 ≤ s.tai) then
    let s1 := s.setAfCore core { c with refFault := false, refSeen := false }
    .next (s1.each (s1.coreChans core) (fun s k => s.evGain k s.tai))
  else .next s

/-! Triggers (R109 to R112, R125). -/

/-- The sample-clock edge (3.125 ns) at or after an instant of 1/8 ns and a delay in fabric cycles, in ns. -/
def edgeNs (at8 cycles : Nat) : Nat := ceilTo (at8 + cycles * 10) 25 / 8

/-- An urgent entry is triggered (R125): its request waits; a triggered core plans its conversion unless one of the channel that can
serve it is planned. -/
def State.urgentAsk (s : State) (at8 e : Nat) : State :=
  let chan := s.rd AF_URG_CHAN e
  let d := edgeNs at8 (s.rd AF_URG_DELAY e)
  let s1 : State := { s with af := { s.af with urg := s.af.urg ++ [(e, d)] } }
  if s.triggered chan && !s.twinned chan then
    if (s.afCore (chan / 4)).plan.any (fun p => p.scan.isNone && p.chan == chan && decide (d ≤ p.slot)) then s1
    else s1.addUrgent (chan / 4) chan d
  else s1

/-- A core in triggered mode that its own settings govern (R109, R113). -/
def State.trigCore (s : State) (k : Nat) : Bool :=
  s.flag AF_CORE_EN k && s.rd AF_CORE_MODE k == 1 && !s.twinned (k * 4)

/-- An event of a trigger source (0 to 15 sample timers, 16 to 31 PWM generators; `centre` for PWM period centre) at an instant in
1/8 ns: it reaches the triggered cores and the urgent entries that name the source. -/
def State.trigEvent (s : State) (src : Nat) (centre : Bool) (at8 : Nat) : State :=
  let match_ (tr ctr : Nat) : Bool := tr == src && (decide (src < 16) || (ctr == 1) == centre)
  let cores := (List.range (s.byVar 16 8 4)).filter (fun k =>
    s.trigCore k && match_ (s.rd AF_CORE_TRIG k) (s.rd AF_CORE_TRIG_CTR k))
  let urg := (List.range 64).filter (fun e =>
    s.flag AF_URG_EN e && match_ (s.rd AF_URG_TRIG e) (s.rd AF_URG_TRIG_CTR e))
  let s1 : State := { s with af := { s.af with
    trigs := s.af.trigs ++ cores.map (fun k => (k, edgeNs at8 (s.rd AF_CORE_DELAY k))) } }
  s1.each urg (fun t e => t.urgentAsk at8 e)

/-- The last instant k × PERIOD fabric cycles after a second boundary, in 1/8 ns (R112). -/
def State.timerInstant (s : State) (timer : Nat) : Nat :=
  let p := max 1 (s.rd AF_TMR_PERIOD timer)
  s.tu.sec * 8000000000 + s.tu.ns * 8 / 10 / p * p * 10

/-- SAMPLE_TIMER_EVENT (R112): a running timer produces one event at each of its instants. -/
def execSampleTimerEvent (timer : Nat) (s : State) : Res :=
  let t := s.timerInstant timer
  if s.pathsOn && decide (timer < 16) && s.flag AF_TMR_EN timer && decide (mget (fun _ => 0) s.af.tmrAt timer ≤ t) then
    .next (State.trigEvent { s with af := { s.af with tmrAt := mset (fun _ => 0) timer (t + 1) s.af.tmrAt } } timer false t)
  else .next s

/-- A trigger that met a deferred start is dropped and counted; TRIG_OVERRUN reports the drops of the last second, at most once per
second (R110, R140). -/
def State.trigDrop (s : State) (core : Nat) : State :=
  let c := s.afCore core
  let drops := s.tai :: c.drops.filter (fun t => decide (s.tai < t + 1000000000))
  let s1 := s.bump AF_CORE_OVRUN core 1
  if decide (c.ovrAt = 0) || decide (c.ovrAt + 1000000000 ≤ s.tai) then
    (s1.setAfCore core { c with drops := drops, ovrAt := s.tai }).notify 0x08 7 1 core drops.length 0 0
  else s1.setAfCore core { c with drops := drops }

/-- SCAN_TRIGGER (R109, R110): an event starts a scan after its delay, defers it behind the previous scan, or is dropped and counted
while one start is deferred. -/
def execScanTrigger (core : Nat) (s : State) : Res :=
  match s.af.trigs.find? (fun e => e.1 == core) with
  | none => .next s
  | some e =>
    if !s.pathsOn then .next s
    else
      let s0 : State := { s with af := { s.af with trigs := s.af.trigs.erase e } }
      let s1 := s0.startDeferred core s.tai
      let c := s1.afCore core
      if !s.trigCore core then .next s0
      else if c.deferred.isSome then .next (s1.trigDrop core)
      else if c.scanLast + 50 ≤ e.2 then .next (s1.addScan core e.2)
      else .next (s1.setAfCore core { c with deferred := some (c.scanLast + 50) })

/-- The result of an urgent request (R126). -/
def State.urgentPost (s : State) (word : W32) (slot e : Nat) : State :=
  ((s.wr AF_URG_RESULT e word.toNat).wr AF_URG_SLOT_NS e (slot % 1000000000)).wrapInc AF_URG_COUNT e 1

/-- One conversion serves the waiting requests that `mine` picks. -/
def State.urgentServe (s : State) (word : W32) (slot : Nat) (mine : Nat × Nat → Bool) : State :=
  let served := s.af.urg.filter mine
  let s1 : State := { s with af := { s.af with urg := s.af.urg.filter (fun e => !mine e) } }
  s1.each (served.map (·.1)) (fun t e => t.urgentPost word slot e)

/-- The conversion of a continuous channel that serves a request delayed to `d`: the first that starts then or later (R125). -/
def State.urgentRaw (s : State) (chan d : Nat) : Option Raw :=
  ((s.fcChan chan).raws.filter (fun r => decide (d ≤ r.t))).getLast?

/-- URGENT_CONVERSION (R125, R126): a waiting entry is served by the conversion of its channel at a slot, which serves every other
waiting entry of the channel too.  In a continuous core that is the grid's own conversion; a triggered core makes one of its own, with
the slice, code and comparator state of the row. -/
def execUrgentConversion (entry slice slot : Nat) (code : Int) (window : Bool) (s : State) : Res :=
  let chan := s.rd AF_URG_CHAN entry
  match s.af.urg.find? (fun e => e.1 == entry) with
  | none => .next s
  | some e =>
    if !s.pathsOn || decide (s.nAin ≤ chan) then .next s
    else if s.triggered chan then
      let core := chan / 4
      match s.planNext core chan slice slot true with
      | none => .next s
      | some p =>
        if decide (s.tai < slot + 240) || !s.flag AF_CORE_EN core then .next s
        else
          let r := s.convert chan slice slot code window
          let s1 := (if r.2.2 then s.setFlag AF_CHAN_OVR_SEEN chan true else s).converted chan slice slot
          let c := s1.afCore core
          let s2 := s1.setAfCore core { c with plan := c.plan.filter (fun q => q != p) }
          .next (s2.urgentServe r.1 slot (fun u => s.rd AF_URG_CHAN u.1 == chan && decide (u.2 ≤ slot)))
    else
      match s.urgentRaw chan e.2 with
      | none => .next s
      | some r =>
        if r.t = slot then
          .next (s.urgentServe r.word slot (fun u => s.rd AF_URG_CHAN u.1 == chan && s.urgentRaw chan u.2 == some r))
        else .next s

/-! ARC_SUPERVISION_TEST (R133). -/

/-- ARC_SUPERVISION_TEST: the result of the test of a supervised input (0 good, 1 open, 2 short); a change to a
failure is reported. -/
def execArcSupervisionTest (input result : Nat) (s : State) : Res :=
  if decide (8 ≤ input) || decide (3 ≤ result) || !s.flag AF_ARC_SUP_EN input || !s.pathsOn then .next s
  else
    let s1 := s.wr AF_ARC_SUP input result
    .next (if result != 0 && s.rd AF_ARC_SUP input != result then s1.notify 0x08 6 2 input result 0 0 else s1)

/-! Checks of writes to AF objects (R108, R112, R113, R124, R125, R130, R138). -/

/-- A value that names something the variant lacks (R3, R109, R113, R126). -/
def afAbsent (s : State) (r : WReq) : Bool :=
  (r.isObj AF_CORE_obj && s.var == .cpx9616 && ((r.touches AF_CORE_TWIN && r.new s AF_CORE_TWIN == 1)
    || (r.touches AF_CORE_TRIG && decide (16 ≤ r.new s AF_CORE_TRIG)))) ||
  (r.isObj AF_URG_obj && ((s.var == .cpx9616 && r.touches AF_URG_TRIG && decide (16 ≤ r.new s AF_URG_TRIG))
    || (r.touches AF_URG_CHAN && decide (s.nAin ≤ r.new s AF_URG_CHAN))))

/-- A channel outside the scan mask of a continuous core (R125); of a twinned pair, one that it does not sample. -/
def State.offMask (s : State) (chan : Nat) : Bool :=
  if s.twinned chan then !s.twinChan chan
  else s.rd AF_CORE_MODE (chan / 4) == 0 && !natBit (s.rd AF_CORE_SCAN (chan / 4)) (chan % 4)

/-- A value AF refuses with BAD_OBJECT. -/
def afBad (s : State) (r : WReq) : Bool :=
  (r.isObj AF_CORE_obj &&
    (decide (2 ≤ r.new s AF_CORE_MODE)
     || (r.new s AF_CORE_EN == 1 && r.new s AF_CORE_SCAN == 0)
     || (r.new s AF_CORE_TWIN == 1 && (r.i % 2 == 1 || r.new s AF_CORE_MODE == 1)))) ||
  (r.isObj AF_CHAN_obj &&
    (r.new s AF_CHAN_KIND == 3
     || (r.new s AF_CHAN_TRIP_THR != 0 && r.new s AF_CHAN_WAKE_THR != 0
         && decide (r.new s AF_CHAN_TRIP_THR < r.new s AF_CHAN_WAKE_THR)))) ||
  (r.isObj AF_CAL_obj && (List.range 4).any (fun g =>
    r.names (2 * g + 1) && (decide (r.newk s AF_CAL_GN g < 0x39999A) || decide (0x466666 < r.newk s AF_CAL_GN g)))) ||
  (r.isObj AF_TMR_obj && (r.touches AF_TMR_PERIOD || r.new s AF_TMR_EN == 1) &&
    (decide (r.new s AF_TMR_PERIOD < 40) || decide (800000000 < r.new s AF_TMR_PERIOD)
     || 800000000 % r.new s AF_TMR_PERIOD != 0)) ||
  (r.isObj AF_URG_obj && r.touches AF_URG_CHAN && s.offMask (r.new s AF_URG_CHAN))

/-- A change the mode forbids (R124, R138). -/
def afModeForbids (s : State) (r : WReq) : Bool :=
  (s.mo.mode == .run && r.isObj AF_CORE_obj &&
    (r.changes s AF_CORE_EN || r.changes s AF_CORE_MODE || r.changes s AF_CORE_SCAN || r.changes s AF_CORE_TWIN
     || r.changes s AF_CORE_TWIN_CH || r.changes s AF_CORE_REF_EN)) ||
  (s.mo.mode == .run && r.isObj AF_CHAN_obj &&
    (r.changes s AF_CHAN_KIND || r.changes s AF_CHAN_GAIN || r.changes s AF_CHAN_CAL_SEL)) ||
  (r.isObj AF_CAL_obj && !(s.mo.mode == .commission))

/-! What a commit of AF settings does beyond its words. -/

/-- CALIBRATION fallback of a channel (R123): sent once each time it begins for the range in use. -/
def State.calFallback (s : State) (chan : Nat) : State :=
  let f := s.flag AF_CHAN_CAL_SEL chan && !mget (fun _ => false) s.af.fieldOk chan
  let key := chan * 4 + s.rd AF_CHAN_GAIN chan
  let was := mget (fun _ => false) s.af.fallback key
  let fb := mset (fun _ => false) key f (s.af.fallback.filter (fun e => e.1 / 4 != chan))
  let s1 := { s with af := { s.af with fallback := fb } }
  if f && !was then s1.notify 0x08 5 1 chan (s.rd AF_CHAN_GAIN chan) 0 0 else s1

/-- The reference buffer of a core is switched on or off (R127). -/
def State.refCommit (s old : State) (k : Nat) : State :=
  if s.refOn k && !old.refOn k then
    s.setAfCore k { s.afCore k with refEnAt := s.tai, refIn := false, refFault := false, refSeen := false }
  else if !s.refOn k then s.setAfCore k { s.afCore k with refIn := false, refFault := false, refSeen := false }
  else s

/-- Scans of a core whose EN, MODE, SCAN or TWIN changed are over (R109). -/
def State.planCommit (s old : State) (k : Nat) : State :=
  if s.trigCore k == old.trigCore k && s.rd AF_CORE_SCAN k == old.rd AF_CORE_SCAN k then s
  else
    State.setAfCore { s with af := { s.af with trigs := s.af.trigs.filter (fun e => e.1 != k) } } k
      { s.afCore k with plan := [], deferred := none }

/-- The event of Table 6.5 that new core settings are for a channel (R114). -/
def State.chanEvent (s old : State) (c : Nat) : State :=
  let was := old.sampled c && !old.triggered c
  let is := s.sampled c && !s.triggered c
  if is && !was then s.evStart c (s.firstSlot c s.tai)
  else if old.twinned c != s.twinned c then s.evScan c s.tai
  else if is && was && old.rd AF_CORE_SCAN (c / 4) != s.rd AF_CORE_SCAN (c / 4) && !s.twinned c then s.evScan c s.tai
  else s

/-- After a commit that changed settings of some cores: references, scans, and each channel of their pairs once. -/
def State.afCoresCommit (s old : State) (cores : List Nat) : State :=
  let pairs := (cores.map (· / 2)).dedup
  let ks := pairs.flatMap (fun p => [2 * p, 2 * p + 1])
  let s1 := ks.foldl (fun t k => (t.refCommit old k).planCommit old k) s
  let chans := pairs.flatMap (fun p => (List.range 8).map (· + 8 * p))
  s1.each chans (fun t c => ((if s.pathsOn then t.chanEvent old c else t).pathMoved old c).afShow c)

/-- After a commit that changed a channel or its constants: a change of range or constants in use counts as a gain change. -/
def State.afChanCommit (s old : State) (c : Nat) : State :=
  let s1 := if s.calOf c != old.calOf c || s.rd AF_CHAN_GAIN c != old.rd AF_CHAN_GAIN c then s.evGain c s.tai else s
  s1.calFallback c

/-- Write of field constants (R124): the stamp and the CRC of the field set. -/
def State.afCalWritten (s : State) (c : Nat) : State :=
  let s1 := s.wr AF_CAL_STAMP c s.now.sec
  { s1 with af := { s1.af with fieldOk := mset (fun _ => false) c true s1.af.fieldOk } }

/-- A timer that a commit names counts from there. -/
def State.afTimerCommit (s : State) (n : Nat) : State :=
  { s with af := { s.af with tmrAt := mset (fun _ => 0) n (s.tai * 8) s.af.tmrAt } }

/-- The instances of one AF object that writes name. -/
def afNames (l : List WReq) (grp : Nat) : List Nat := ((l.filter (fun r => r.unit == 8 && r.grp == grp)).map (·.i)).dedup

/-- What a commit of AF settings does beyond its words. -/
def State.afCommit (s old : State) (l : List WReq) : State :=
  let s1 : State := { s with af := { s.af with before := old.keepBefore.af.before } }
  let s2 := (s1.each (afNames l 0x11) State.afCalWritten).afCoresCommit old (afNames l 1)
  let s3 := s2.each (afNames l 0x10 ++ afNames l 0x11).dedup (fun t c => t.afChanCommit old c)
  s3.each (afNames l 0x20) State.afTimerCommit

/-- At start-up the cores begin to convert 2 ms after their reference buffers were enabled (R127). -/
def State.coresOn (s : State) (cores : List Nat) : State :=
  let s1 := cores.foldl (fun t k => t.setFlag AF_CORE_EN k true) { s with af := { s.af with enPend := none } }
  s1.afCoresCommit s cores

/-- The instant for which the cores wait has come. -/
def State.coresDue (s : State) : State :=
  match s.af.enPend with
  | some p => if p.1 ≤ s.tai then s.coresOn p.2 else s
  | none => s

end Sys2Proof.Machine
end

