-- ==== Sys2Proof/Machine/Chain.lean ====
section
/-! DEFINITION. The arithmetic of a channel's chain (R142 to R146, R153, R559): the stages of Table 6.1 over the raw samples, with the
published response of the CICs and the coefficients of ROM or bank; and the bounds that the manual states for the coefficients it does
not publish. -/

namespace Sys2Proof.Machine

open Sys2Proof

/-! Settings of a chain. -/

/-- Unique coefficients for a rate: (L + 1) / 2 with L = 10 × D − 7 (Table 6.1). -/
def ncoefOf (rate : Nat) : Nat := if rate = 0 then 122 else if rate = 1 then 247 else if rate = 2 then 497 else 997

/-- Field group of a bank. -/
def bankGrp (b : Nat) : Nat := if b = 0 then 0x02 else 0x03

/-- The code of the fixed response a bank holds, 0 for written coefficients. -/
def State.romOf (s : State) (c b : Nat) : Nat := mget (fun _ => 0) s.fc.rom (c * 2 + b)

/-- The coefficients in use: of the active bank in CPX-9640, of the selected response elsewhere (R153). -/
def State.coefNow (s : State) (c : Nat) : FcCoef :=
  if s.var == .cpx9640 && decide (c < 64) then
    let b := s.rd FC_CHAN_ACT_BANK c
    if s.romOf c b = 0 then .bank (mgetList regDefault s.regs (regKey 0x09 (bankGrp b) c 2) (ncoefOf (s.rd FC_CHAN_RATE c)))
    else .rom ((s.romOf c b - 1) / 4) ((s.romOf c b - 1) % 4)
  else .rom (s.rd FC_CHAN_RESP c) (s.rd FC_CHAN_RATE c)

/-- The settings of a chain now, in force for stamps below `upto`. -/
def State.fcSet (s : State) (c upto : Nat) : FcSet :=
  ⟨upto, s.rd FC_CHAN_PHASE_TRIM c, s.flag FC_CHAN_DESKEW c, s.coefNow c⟩

/-- The settings in force at a stamp (R151). -/
def State.fcSetAt (s : State) (c t : Nat) : FcSet :=
  (((s.fcChan c).sets.filter (fun f => decide (t < f.upto))).getLast?).getD (s.fcSet c 0)

/-- The settings that a change replaces stay for the samples stamped below `upto`. -/
def State.fcKeep (s old : State) (c upto : Nat) : State :=
  let x := s.fcChan c
  s.setFcChan c { x with sets := old.fcSet c upto :: x.sets.takeWhile (fun f => decide (upto < f.upto + 3000000)) }

/-- The trim of some settings in 1/8 ns. -/
def FcSet.trim8 (f : FcSet) : Int := signedOf 17 f.trim * 25

/-- How much later a negative trim makes a sample available, ns (R147). -/
def FcSet.late (f : FcSet) : Nat := (ceilTo (-f.trim8).toNat 8) / 8

/-- Where the front stage places a raw sample, 1/8 ns: at its slot, or with DESKEW = 0 at the start of its scan, and the trim later
(R146). -/
def FcSet.place (f : FcSet) (r : Raw) : Int := Int.ofNat ((r.t - if f.deskew then 0 else r.off) * 8) + f.trim8

/-- The raw samples that the front stage places within `w` ns of a stamp. -/
def FcSet.inWindow (f : FcSet) (l : List Raw) (t w : Nat) : List Raw :=
  l.filter (fun r => decide ((f.place r - Int.ofNat (t * 8)).natAbs ≤ w * 8))

/-! Stages. -/

/-- Sum of two lists, place by place. -/
def addLists : List Int → List Int → List Int
  | [], b => b
  | a, [] => a
  | x :: a, y :: b => (x + y) :: addLists a b

/-- Convolution. -/
def conv : List Int → List Int → List Int
  | [], _ => []
  | x :: a, b => addLists (b.map (x * ·)) (0 :: conv a b)

/-- Impulse response of a CIC of an order and decimation, its sum dec ^ order: the boxcar convolved with itself; its transform is
H(f) = [sin(π f dec / fs) / (dec sin(π f / fs))]^order times that sum (R142). -/
def cicTaps (dec : Nat) : Nat → List Int
  | 0 => [1]
  | n + 1 => conv (List.replicate dec 1) (cicTaps dec n)

/-- A symmetric filter's tap `k` of `n`, given by its distance from the centre. -/
def symTap (tap : Nat → Int) (n k : Nat) : Int := tap (Int.natAbs ((k : Int) - ((n - 1) / 2 : Nat)))

/-- The sum of a filter's taps times values at evenly spaced places around a centre. -/
def tapSum (taps : List Int) (step : Int) (centre : Int) (f : Int → Int) : Int :=
  let n : Int := ((taps.length - 1) / 2 : Nat)
  (taps.zipIdx.map (fun e => e.1 * f (centre + (Int.ofNat e.2 - n) * step))).foldl (· + ·) 0

/-- A twinned channel's samples reduced from 40 to 20 MS/s (15-tap half-band); the others as they are.  24 fraction bits. -/
def halfBand (f : FcSet) (l : List Raw) : List (Int × Int) :=
  l.filterMap (fun r =>
    if r.step = 25 then
      if r.t % 50 = 0 then
        some (f.place r, tapSum ((List.range 15).map (symTap Config.halfBandTap 15)) 25 (Int.ofNat r.t)
          (fun t => match l.find? (fun x => Int.ofNat x.t == t) with
            | some x => x.value
            | none => 0))
      else none
    else some (f.place r, r.value * 2 ^ 24))

/-- The front stage at a grid instant (1/8 ns): the 4-point cubic over the two points before and the two after it, at 3.125 ns
resolution; points newest first.  48 fraction bits. -/
def cubicAt (pts : List (Int × Int)) (g : Int) : Int :=
  let after := (pts.takeWhile (fun p => decide (g < p.1))).reverse
  let upTo := pts.dropWhile (fun p => decide (g < p.1))
  let p (l : List (Int × Int)) (k : Nat) : Int × Int := l.getD k (g, 0)
  let span := ((p after 0).1 - (p upTo 0).1).toNat / 25
  let place := (g - (p upTo 0).1).toNat / 25
  Config.cubicTap span place 0 * (p upTo 1).2 + Config.cubicTap span place 1 * (p upTo 0).2
    + Config.cubicTap span place 2 * (p after 0).2 + Config.cubicTap span place 3 * (p after 1).2

/-- The value of a fast sample (Table 6.1): the CIC of order 2 on the 50 ns grid, then the 7-tap FIR on its 5 MS/s.  Raw samples of a
retiring slice are skipped (R144). -/
def fastValue (f : FcSet) (l : List Raw) (t : Nat) : Int :=
  let pts := halfBand f (l.filter (fun r => r.reason != 7))
  let cic (u : Int) : Int := tapSum (cicTaps 4 2) 400 u (cubicAt pts)
  roundAway (tapSum ((List.range 7).map (symTap Config.fastTap 7)) 1600 (Int.ofNat (t * 8)) cic) (2 ^ 48 * 4 ^ 2 * 2 ^ 23)

/-- Coefficient `k` from the centre, signed Q1.23. -/
def FcCoef.at (c : FcCoef) (k : Nat) : Int :=
  match c with
  | .rom resp rate => if k < ncoefOf rate then signedOf 24 (Config.romCoef resp rate k).toNat else 0
  | .bank ws => signedOf 24 (ws.getD k 0).toNat

/-- The value of a fine sample (Table 6.1): the CIC of order 4 and decimation 25, then the FIR on its 800 kS/s. -/
def fineValue (f : FcSet) (rate : Nat) (l : List Raw) (t : Nat) : Int :=
  let pts := halfBand f l
  let cic (u : Int) : Int := tapSum (cicTaps 25 4) 400 u (cubicAt pts)
  let taps := 2 * ncoefOf rate - 1
  roundAway (tapSum ((List.range taps).map (symTap f.coef.at taps)) 10000 (Int.ofNat (t * 8)) cic) (2 ^ 48 * 25 ^ 4 * 2 ^ 23)

/-- The value of a resampled sample from the 8 fine samples around its instant, newest first; `p` is the fine period. -/
def resampleValue (p u : Nat) (near : List (Nat × Int)) : Int :=
  let place := u - (near.getD 4 (0, 0)).1 * 2 ^ 32
  roundAway ((near.zipIdx.map (fun e => Config.resampleTap place p e.2 * e.1.2)).foldl (· + ·) 0) (2 ^ 24)

/-- The quantity that the ingest kernel gives at an instant from the sampled values around it (R162), 24 fraction bits. -/
def ingestSum (fsv u : Nat) (vals : List (Nat × Int)) : Int :=
  (vals.map (fun v => Config.ingestTap (Int.ofNat v.1 - Int.ofNat u) fsv * v.2)).foldl (· + ·) 0

/-! Bounds of the unpublished coefficients (R143, R153, R559): what binds for any device.  Nothing in the model rests on them. -/

/-- The response of a CIC and the symmetric FIR of 2 n − 1 taps behind it, at a frequency relative to the CIC's input rate, lies in
magnitude between `lo` and `hi` dB. -/
def respWithin (dec order n : Nat) (tap : Nat → Int) (f : ℝ) (lo hi : ℝ) : Prop :=
  let cic := (Real.sin (Real.pi * f * dec) / (dec * Real.sin (Real.pi * f))) ^ order
  let h (k : Nat) : ℝ := tap k / 2 ^ 23
  let fir := h 0 + 2 * ((List.range (n - 1)).map (fun k => h (k + 1) * Real.cos (2 * Real.pi * f * dec * (k + 1)))).sum
  (10 : ℝ) ^ (lo / 20) ≤ abs (cic * fir) ∧ abs (cic * fir) ≤ (10 : ℝ) ^ (hi / 20)

/-- Table 6.6: passband edge and stopband edge in hundredths of the output rate, ripple in thousandths of a dB, attenuation in dB. -/
def respTable : List (Nat × Nat × Nat × Nat) :=
  [(25, 10, 75, 80), (25, 50, 70, 80), (25, 1, 75, 72), (22, 10, 70, 85), (20, 10, 70, 90), (20, 1, 75, 80), (18, 10, 65, 95),
   (15, 10, 60, 100), (15, 1, 65, 90), (12, 10, 55, 105), (10, 10, 50, 110), (10, 1, 55, 100), (8, 10, 45, 115), (5, 10, 40, 120),
   (30, 50, 80, 70), (35, 100, 85, 60)]

/-- Output decimation of the fine FIR for a rate (Table 6.1). -/
def fineDec (rate : Nat) : Nat := 25 * 2 ^ rate

/-- A fixed response meets its row of Table 6.6 with the CIC before it; `x` is a frequency in units of the output rate. -/
def romMeets (resp rate : Nat) : Prop :=
  let row := respTable.getD resp (0, 0, 0, 0)
  let within (x lo hi : ℝ) : Prop :=
    respWithin 25 4 (ncoefOf rate) (FcCoef.rom resp rate).at (x / (25 * fineDec rate)) lo hi
  (∀ x : ℝ, 0 < x → x ≤ row.1 / 100 → within x (-(row.2.1 : ℝ) / 1000) (row.2.1 / 1000)) ∧
  (∀ x lo : ℝ, row.2.2.1 / 100 ≤ x → x ≤ fineDec rate / 2 → within x lo lo → lo ≤ -(row.2.2.2 : ℝ))

/-- The fast path meets R143: flat within 0.1 dB to 100 kHz, 3 dB down at 250 kHz, at least 60 dB down from 937.5 kHz on. -/
def fastMeets : Prop :=
  let within (x lo hi : ℝ) : Prop := respWithin 4 2 4 Config.fastTap (x / 20000000) lo hi
  (∀ x : ℝ, 0 < x → x ≤ 100000 → within x (-(1 / 10)) (1 / 10)) ∧ within 250000 (-3) (-3) ∧
  (∀ x lo : ℝ, 937500 ≤ x → x ≤ 2500000 → within x lo lo → lo ≤ -60)

end Sys2Proof.Machine
end

