-- ==== Sys2Proof/Machine/Filters.lean ====
section
/-! DEFINITION. The filter and decimation chains (06_filter_chains.md): sample words and side-band status, marks,
coefficient banks and swap groups, trackers and resampling, process-bus streams, stream entries. -/

namespace Sys2Proof.Machine

open Sys2Proof

/-! Channels and status words. -/

/-- A channel with a chain in the variant: local, or virtual 64 to 95. -/
def State.fcHas (s : State) (c : Nat) : Bool := decide (c < s.nAin) || (decide (64 ≤ c) && decide (c < 96))

/-- An instant moved back by the trim in force at it: what the sample stamped there represents (R146). -/
def State.repr (s : State) (c t : Nat) : Nat := (Int.ofNat (t * 8) - (s.fcSetAt c t).trim8).toNat / 8

/-- How much later a negative trim makes the sample of a stamp available (R147). -/
def State.trimLate (s : State) (c t : Nat) : Nat := (s.fcSetAt c t).late

/-- Side-band status word (Table 6.4). -/
def statWord (qual af fc count chg : Nat) : W32 :=
  BitVec.ofNat 32 (qual * 2 ^ 30 + af % 16 * 2 ^ 26 + fc % 16 * 2 ^ 22 + count % 32 * 2 ^ 17 + chg % 65536)

/-- Sample word (Table 6.3). -/
def sampleWord (qual : Nat) (ovr syn : Bool) (seq : Nat) (v : Int) : W32 :=
  BitVec.ofNat 32 (qual * 2 ^ 30 + b2n ovr * 2 ^ 29 + b2n syn * 2 ^ 28 + seq % 16 * 2 ^ 24 + toSigned 24 (clamp24 v))

def Smp.qual (x : Smp) : Nat := x.stat.get 31 30
def Smp.value (x : Smp) : Int := signedOf 24 (x.word.get 23 0)
def Smp.inst (x : Smp) : Nat := x.t

/-- Marks of a list that cover a stamp. -/
def marksAt (ms : List Mark) (t : Nat) : List Mark := ms.filter (fun m => decide (m.a ≤ t) && decide (t ≤ m.b))

/-- Length of the unbroken run of marked stamps from `t` on, at most `fuel` (FC_STAT.COUNT). -/
def runCount (ms : List Mark) (t step : Nat) : Nat → Nat
  | 0 => 0
  | n + 1 => if (marksAt ms t).isEmpty then 0 else 1 + runCount ms (t + step) step n

/-- Lowest nonzero number of a list, 0 for none. -/
def lowest (l : List Nat) : Nat :=
  l.foldl (fun m x => if x = 0 then m else if m = 0 then x else min m x) 0

/-- Reasons for giving no raw samples (0: none) that held at some time from `a` to `b`: `now` since the newest entry of `past`, each
entry's up to its time (R152). -/
def pathIn (now : Nat) (past : List (Nat × Nat)) (a b : Nat) : List Nat :=
  match past with
  | [] => [now]
  | (t, r) :: rest => (if t ≤ b then [now] else []) ++ (if a < t then pathIn r rest a b else [])

/-- QUAL and FC reason from the marks, the raw reason and other FC reasons that invalidate (R149, R151). -/
def judge (ms : List Mark) (af : Nat) (svReasons : List Nat) : Nat × Nat :=
  let inv := ((ms.filter (fun m => !m.settle)).map (·.reason)) ++ svReasons
  let set := (ms.filter (fun m => m.settle)).map (·.reason)
  if af != 0 || !inv.isEmpty then (2, lowest inv)
  else if !set.isEmpty then (1, lowest set)
  else (0, 0)

/-! Trackers (R158, R159). -/

def State.track (s : State) (k : Nat) : Track := mget (fun _ => Track.init) s.fc.trk k

def State.setTrack (s : State) (k : Nat) (x : Track) : State :=
  { s with fc := { s.fc with trk := mset (fun _ => Track.init) k x s.fc.trk } }

/-- Spacing of a tracker's instants, 2^-32 ns. -/
def State.trackPeriod (s : State) (k : Nat) : Nat := 10 ^ 15 * 2 ^ 32 / (64 * s.rd FC_TRACK_FREQ k)

/-- One second in 2^-32 ns. -/
def secFrac : Nat := 1000000000 * 2 ^ 32

/-- Anchor a tracker: its first instant at or after `start` on whole multiples counted from a second boundary. -/
def State.anchor (s : State) (k start : Nat) : State :=
  let p := s.trackPeriod k
  let base := start / 1000000000 * secFrac
  let n := (start % 1000000000 * 2 ^ 32 + p - 1) / p
  s.setTrack k { s.track k with insts := [(base + n * p, n)], anchored := true }

/-- Append `n` further instants at spacing `p`, the newest first. -/
def moreInsts (p : Nat) : Nat → List (Nat × Nat) → List (Nat × Nat)
  | 0, l => l
  | n + 1, l =>
    match l with
    | [] => []
    | (u, i) :: t =>
      moreInsts p n ((u + p, if u / secFrac = (u + p) / secFrac then i + 1 else 0) :: (u, i) :: t)

/-- Run a tracker's instants on to time `t` (ns) at the spacing in force. -/
def State.extendTrack (s : State) (k t : Nat) : State :=
  let x := s.track k
  match x.insts with
  | [] => s
  | (u, _) :: _ =>
    let p := s.trackPeriod k
    let n := if u ≤ t * 2 ^ 32 then (t * 2 ^ 32 - u) / p + 1 else 0
    s.setTrack k { x with insts := (moreInsts p (min n 512) x.insts).take 512 }

/-- Every tracker re-anchored at a time (w4 of a wake, a step of the time counter). -/
def State.anchorAll (s : State) (start : Nat) : State := s.each (List.range 8) (fun s k => s.anchor k start)

/-- Nominal frequency of a tracker, µHz. -/
def State.trackNom (s : State) (k : Nat) : Nat := if s.flag FC_TRACK_NOM k then 60000000 else 50000000

/-- TRACKER_UPDATE (R158): with a usable estimate the tracker tracks it; without one it holds, and an inactive
tracker is Nominal. -/
def State.trackUpdate (s : State) (k : Nat) (est : Option Nat) : State :=
  let s0 := s.extendTrack k (s.tai / 125000 * 125000)
  let st := s0.rd FC_TRACK_STATE k
  if !s0.flag FC_TRACK_EN k then (s0.wr FC_TRACK_FREQ k (s0.trackNom k)).wr FC_TRACK_STATE k 0
  else
    match est with
    | some f =>
      if decide (45000000 ≤ f) && decide (f ≤ 65000000) then
        let s1 := (s0.wr FC_TRACK_FREQ k f).wr FC_TRACK_STATE k 1
        if st = 1 then s1 else s1.notify 0x09 3 0 k f 0 0
      else if st = 1 then
        ((s0.wr FC_TRACK_STATE k 2).setTrack k { s0.track k with holdAt := s0.tai }).notify 0x09 2 1 k (s0.rd FC_TRACK_FREQ k) 0 0
      else s0
    | none =>
      if st = 1 then
        ((s0.wr FC_TRACK_STATE k 2).setTrack k { s0.track k with holdAt := s0.tai }).notify 0x09 2 1 k (s0.rd FC_TRACK_FREQ k) 0 0
      else s0

/-- Next pass boundary strictly after a time (ns). -/
def nextPass (t : Nat) : Nat := t / 125000 * 125000 + 125000

/-- TRACKER_HOLD_EXPIRY (R158, R159): 2 s in Hold end in Nominal; up to the next pass boundary the instants keep their spacing. -/
def execTrackerHoldExpiry (tracker : Nat) (s : State) : Res :=
  if decide (tracker < 8) && s.rd FC_TRACK_STATE tracker == 2 && decide ((s.track tracker).holdAt + 2000000000 ≤ s.tai) then
    .next (((s.extendTrack tracker (nextPass s.tai)).wr FC_TRACK_FREQ tracker (s.trackNom tracker)).wr FC_TRACK_STATE tracker 0)
  else .next s

/-! Process-bus streams (R160 to R165). -/

def State.sv (s : State) (k : Nat) : SvSt := mget (fun _ => SvSt.init) s.fc.sv k

def State.setSv (s : State) (k : Nat) (x : SvSt) : State :=
  { s with fc := { s.fc with sv := mset (fun _ => SvSt.init) k x s.fc.sv } }

/-- Sampled-value rate of a stream. -/
def State.fsv (s : State) (k : Nat) : Nat :=
  (if s.flag FC_SVSTR_SPC k then 256 else 80) * (if s.flag FC_SVSTR_NOMF k then 60 else 50)

/-- Instant of a count within the second nearest to now. -/
def State.svInstant (s : State) (k cnt : Nat) : Nat :=
  let off := cnt * 1000000000 / s.fsv k
  let here := s.tu.sec * 1000000000 + off
  if here > s.tai + 500000000 ∧ 0 < s.tu.sec then here - 1000000000
  else if here + 500000000 ≤ s.tai then here + 1000000000
  else here

/-- Channels that a stream's quantities are mapped on. -/
def State.svUsers (s : State) (k : Nat) : List Nat :=
  ((List.range 32).map (· + 64)).filter (fun c => s.flag FC_VCH_EN c && s.rd FC_VCH_STR c == k)

/-- Reach of the ingest kernel to each side, ns (R162). -/
def State.svReach (s : State) (k : Nat) : Nat := 4 * 1000000000 / s.fsv k

/-- The instant at which the fine sample of a virtual channel stamped `t` is available (R147, R162). -/
def State.ingestDue (s : State) (c t : Nat) : Nat :=
  t + s.svReach (s.rd FC_VCH_STR c) + s.rd FC_VCH_LAT c * 31250 + s.trimLate c t

/-- The instant by which a channel's first fine sample that needs a value of instant `t` must have received it: the first stamp
whose kernel, moved by the trim, reaches the value. -/
def State.svDue (s : State) (k c t : Nat) : Nat :=
  let from_ := (Int.ofNat ((t - s.svReach k) * 8) + (s.fcSet c 0).trim8).toNat
  s.ingestDue c (ceilTo ((from_ + 7) / 8) (s.finePeriod c)) - 2000

/-- Take one ASDU: range, duplicate and lateness drop it; otherwise it is kept, with the START event of a first
value or of one after a gap (R161, R162, R165). -/
def State.svTake (s : State) (k : Nat) (a : Nat × Bool × List (Int × Nat)) : State :=
  let t := s.svInstant k a.1
  let x := s.sv k
  let users := s.svUsers k
  if decide (s.fsv k ≤ a.1) || x.hist.any (fun v => v.t == t)
      || (!users.isEmpty && users.all (fun c => decide (s.svDue k c t < s.tai))) then s.bump FC_SVSTR_DROP k 1
  else
    let first := s.rd FC_SVSTR_STATE k != 1
    let s1 := s.setSv k { x with hist := (⟨t, s.tai, a.2.1, a.2.2⟩ :: x.hist).take 320 }
    let s2 := s1.wr FC_SVSTR_STATE k 1
    if first then
      let s3 := users.foldl (fun s c => (s.countChg c).markFine c t false 1) s2
      if s.rd FC_SVSTR_STATE k == 2 then s3.notify 0x09 5 0 k 0 0 0 else s3
    else s2

/-- SV_FRAME_RECEIVE (R160): the frame is matched on every key; a confRev mismatch, another profile, a security
extension or the simulation flag (`flags` nonzero) drops and counts it. -/
def execSvFrameReceive (appid mac confRev ethertype flags : Nat) (asdus : List (Nat × Bool × List (Int × Nat)))
    (s : State) : Res :=
  if !s.pathsOn || ethertype != 0x88BA then .next s
  else
    match (List.range 32).find? (fun k => s.flag FC_SVSTR_EN k && s.rd FC_SVSTR_APPID k == appid
        && s.rd FC_SVSTR_MAC_HI k * 65536 + s.rd FC_SVSTR_MAC_LO k == mac) with
    | none => .next s
    | some k =>
      if flags != 0 || asdus.length != (if s.flag FC_SVSTR_SPC k then 8 else 1) then .next (s.bump FC_SVSTR_DROP k 1)
      else if s.rd FC_SVSTR_CONFREV k != confRev then
        let s1 := s.bump FC_SVSTR_DROP k 1
        if decide ((s.sv k).confAt + 1000000000 ≤ s.tai) then
          .next ((s1.setSv k { s.sv k with confAt := s.tai }).notify 0x09 6 1 k confRev 0 0)
        else .next s1
      else .next (asdus.foldl (fun s a => s.svTake k a) s)

/-- SV_STREAM_LOST (R165): 100 ms without a taken frame. -/
def execSvStreamLost (stream : Nat) (s : State) : Res :=
  match (s.sv stream).hist with
  | [] => .next s
  | v :: _ =>
    if decide (stream < 32) && s.flag FC_SVSTR_EN stream && s.rd FC_SVSTR_STATE stream == 1
        && decide (v.rx + 100000000 ≤ s.tai) then
      .next ((s.wr FC_SVSTR_STATE stream 2).notify 0x09 4 2 stream 0 0 0)
    else .next s

/-- Quality bits of a sampled-value quantity (IEC 61850-7-3 order, PRESUMED): validity, overflow, out of range, test. -/
def svInvalid (s : State) (c q : Nat) : Bool :=
  q % 4 != 0 || (natBit q 11 && !(s.flag FC_VCH_ACCEPT_TEST c && s.mo.mode == .commission))

/-- The sampled values in the kernel of a virtual channel's fine sample that were received in time (R162). -/
def State.svIn (s : State) (c t : Nat) : List SvVal :=
  let k := s.rd FC_VCH_STR c
  let h := s.svReach k
  let u := s.repr c t
  (s.sv k).hist.filter (fun v =>
    decide (u ≤ v.t + h) && decide (v.t ≤ u + h) && decide (v.rx + 2000 ≤ s.ingestDue c t))

/-- The kernel of a virtual channel's fine sample: the reasons that invalidate it and its OVR (R162, R163). -/
def State.svKernel (s : State) (c t : Nat) : List Nat × Bool :=
  let f := s.fsv (s.rd FC_VCH_STR c)
  let h := s.svReach (s.rd FC_VCH_STR c)
  let u := s.repr c t
  let qty := s.rd FC_VCH_QTY c
  let inK := s.svIn c t
  let need := ((u + h) * f / 1000000000) - ((u - h) * f + 999999999) / 1000000000 + 1
  let vals := inK.map (fun v => v.vals.getD qty (0, 0))
  ((if decide (inK.length < need) then [3] else []) ++ (if vals.any (fun v => svInvalid s c v.2) then [4] else [])
    ++ (if inK.any (fun v => !v.sync) then [5] else []),
   vals.any (fun v => natBit v.2 2 || natBit v.2 3))

/-! Samples. -/

/-- The word pair of a virtual channel's fine sample: the quantity that the ingest kernel gives, its scale, quality and marks (R148
to R151, R162 to R164). -/
def State.ingestWords (s : State) (c t : Nat) : W32 × W32 :=
  let p := s.finePeriod c
  let x := s.fcChan c
  let fs := s.rd FC_VCH_FS c
  let qty := s.rd FC_VCH_QTY c
  let sum := ingestSum (s.fsv (s.rd FC_VCH_STR c)) (s.repr c t) ((s.svIn c t).map (fun v => (v.t, (v.vals.getD qty (0, 0)).1)))
  let v := roundAway (sum * 8000000) (2 ^ 24 * max 1 fs)
  let k := if s.flag FC_VCH_EN c then s.svKernel c t else ([3], false)
  let q := judge (marksAt x.fineMarks t) 0 k.1
  let big := decide (sum * 100 > Int.ofNat (fs * 102 * 2 ^ 24)) || decide (sum * 100 < -Int.ofNat (fs * 102 * 2 ^ 24))
  (sampleWord q.1 (k.2 || big || clamp24 v != v) (t % 1000000000 == 0) (t % 1000000000 / p) v,
   statWord q.1 0 q.2 (runCount x.fineMarks t p 31) x.chg)

/-- FINE_SAMPLE's word pair: value, quality, marks (R145, R148 to R152). -/
def State.fineWords (s : State) (c t : Nat) : W32 × W32 :=
  if 64 ≤ c then s.ingestWords c t
  else
    let p := s.finePeriod c
    let x := s.fcChan c
    let f := s.fcSetAt c t
    let w := f.inWindow x.raws t (5 * p - 2000)
    let u := s.repr c t
    let value := fineValue f (s.rd FC_CHAN_RATE c) x.raws t
    let af := lowest (pathIn (s.pathReason c) x.past (u - (5 * p - 2000)) (u + 5 * p - 2000) ++ w.map (·.reason))
    let q := judge (marksAt x.fineMarks t) af []
    (sampleWord q.1 (w.any (·.ovr) || clamp24 value != value) (t % 1000000000 == 0) (t % 1000000000 / p) value,
     statWord q.1 af q.2 (runCount x.fineMarks t p 31) x.chg)

/-- Longest stretch of a window of `w` ns to each side of a stamp without a valid raw sample, 1/8 ns: from its start to the first,
between two, from the last to its end (R144). -/
def rawGap (f : FcSet) (l : List Raw) (t w : Nat) : Int :=
  let lo := Int.ofNat (t * 8) - Int.ofNat (w * 8)
  let hi := Int.ofNat (t * 8) + Int.ofNat (w * 8)
  let g := (l.filter (fun r => r.reason == 0)).foldl (fun (a : Int × Int) r => (max a.1 (a.2 - f.place r), f.place r)) (0, hi)
  max g.1 (g.2 - lo)

/-- FAST_SAMPLE's word pair (R143, R144): SLICE samples are skipped unless more than 1 µs is without a valid one. -/
def State.fastWords (s : State) (c t : Nat) : W32 × W32 :=
  let x := s.fcChan c
  let f := s.fcSetAt c t
  let w := f.inWindow x.raws t 1200
  let u := s.repr c t
  let value := fastValue f x.raws t
  let bad := w.filter (fun r => r.reason != 7)
  let gap := decide (8000 < rawGap f w t 1200)
  let af := lowest (pathIn (s.pathReason c) x.past (u - 1200) (u + 1200) ++ bad.map (·.reason) ++ (if gap then [7] else []))
  let q := judge (marksAt x.fastMarks t) af []
  (sampleWord q.1 (w.any (·.ovr) || clamp24 value != value) (t % 1000000000 == 0) (t % 1000000000 / 800) value,
   statWord q.1 af q.2 (runCount x.fastMarks t 800 31) x.chg)

/-- A fine sample is available: the channel's words, its history, its streams, and the start of its tracker. -/
def State.fineDeliver (s : State) (c t : Nat) : State :=
  let w := s.fineWords c t
  let x := s.fcChan c
  let smp : Smp := ⟨t, w.1, w.2⟩
  let s1 := s.setFcChan c { x with
    fine := (smp :: x.fine).take 32
    fineMarks := x.fineMarks.filter (fun m => decide (t < m.b))
    fineAt := t + s.finePeriod c }
  let s2 := (s1.wr FC_CHAN_FINE_STAT c w.2.toNat).wr FC_CHAN_FINE_LAST c w.1.toNat
  let k := s2.rd FC_CHAN_TRACK c
  let s3 := if (s2.track k).anchored then s2 else s2.anchor k t
  s3.feedStreams 0x09 c false (s.finePeriod c) smp

/-- A fast sample is available: the channel's words and its streams. -/
def State.fastDeliver (s : State) (c t : Nat) : State :=
  let w := s.fastWords c t
  let x := s.fcChan c
  let s1 := s.setFcChan c { x with fastMarks := x.fastMarks.filter (fun m => decide (t < m.b)), fastAt := t + 800 }
  ((s1.wr FC_CHAN_FAST_STAT c w.2.toNat).wr FC_CHAN_FAST_LAST c w.1.toNat).feedStreams 0x09 c true 800 ⟨t, w.1, w.2⟩

/-- The worst of a list of samples: invalid, then settling; of several, the newest. -/
def worst (l : List Smp) : Option Smp :=
  l.foldl (fun m x => match m with
    | none => some x
    | some y => if y.qual < x.qual then some x else some y) none

/-- A channel number above 255 names a remote stream of a zone (R227): zone * 192 + slot * 3 + phase. -/
def remoteChan (z slot ph : Nat) : Nat := 256 + z * 192 + slot * 3 + ph

/-- This device's ID (RB_CFG.DEVID). -/
def State.localDev (s : State) : Nat := s.rd RB_CFG_DEVID 0

/-- Tracker of a stream: that of its channel, or the zone tracker, the tracker of the local slot's group. -/
def State.streamTrack (s : State) (c : Nat) : Nat :=
  if c < 256 then s.rd FC_CHAN_TRACK c
  else
    let z := (c - 256) / 192
    match (List.range 64).find? (fun k => s.rdk TM_ZONE_SLOT_EN z k == 1 && s.rdk TM_ZONE_DEVID z k == s.localDev) with
    | some k => s.rd FC_CHAN_TRACK (s.rd PE_MEAS_CH_A (s.rdk TM_ZONE_GROUP z k))
    | none => 0

/-- Fine period of a stream. -/
def State.streamPeriod (s : State) (c : Nat) : Nat :=
  if c < 256 then s.finePeriod c else 31250 * 2 ^ s.rd TM_ZONE_RATE ((c - 256) / 192)

/-- When the resampled sample at an instant (ns) of a channel is available (R159); a remote stream's, once its fine samples are. -/
def State.resDue (s : State) (c ns : Nat) : Nat := if c < 256 then ns + 9 * s.finePeriod c + s.trimLate c ns else ns

/-- RESAMPLED_SAMPLE (R159): the next instant of a channel or a remote zone stream, once the 8 fine samples around
it are there. -/
def execResampledSample (chan : Nat) (s : State) : Res :=
  if !s.pathsOn || !(s.fcHas chan || (decide (256 ≤ chan) && decide (chan < 256 + 1536))) then .next s
  else
    let x := s.fcChan chan
    let p := s.streamPeriod chan
    match ((s.track (s.streamTrack chan)).insts.filter (fun u => decide (x.resLast < u.1))).getLast? with
    | none => .next s
    | some (u, i) =>
      let ns := u / 2 ^ 32
      let near := x.fine.filter (fun f => decide (ns ≤ f.t + 4 * p) && decide (f.t < ns + 4 * p))
      let skipped := if x.fine.any (fun f => decide (ns + 4 * p ≤ f.t)) then s.setFcChan chan { x with resLast := u } else s
      match worst near with
      | none => .next skipped
      | some w =>
        if decide (near.length < 8) then .next skipped
        else if s.tai < s.resDue chan ns then .next s
        else
          let value := resampleValue p u (near.map (fun f => (f.t, f.value)))
          let ovr := near.any (fun f => f.word.get 29 29 == 1) || clamp24 value != value
          let word := sampleWord w.qual ovr (u % secFrac == 0) i value
          .next (s.setFcChan chan { x with res := (⟨u, word, w.stat⟩ :: x.res).take 224, resLast := u })

/-! Coefficient banks and swaps (R153 to R157). -/


/-- A word of a bank that holds a copied fixed response (R153, R559). -/
def romWord (code w : Nat) : W32 :=
  let resp := (code - 1) / 4
  let rate := (code - 1) % 4
  let coef (k : Nat) : W32 := if decide (k < ncoefOf rate) then (Config.romCoef resp rate k).put 31 24 0 else 0
  if w = 0 then BitVec.ofNat 32 (rate * 2 ^ 30 + ncoefOf rate)
  else if w = 1 then BitVec.ofNat 32 (crc32c ((List.range (ncoefOf rate)).map coef))
  else coef (w - 2)


/-- A bank's word. -/
def State.bankWord (s : State) (c b w : Nat) : W32 :=
  if s.romOf c b = 0 then s.word 0x09 (bankGrp b) c w else romWord (s.romOf c b) w

/-- Before a write, a bank that holds a fixed response becomes its words. -/
def State.bankOwn (s : State) (c b : Nat) : State :=
  let code := s.romOf c b
  if code = 0 then s
  else
    let s1 := (List.range (2 + ncoefOf ((code - 1) % 4))).foldl
      (fun s w => s.putWord 0x09 (bankGrp b) c w (romWord code w)) s
    { s1 with fc := { s1.fc with rom := mset (fun _ => 0) (c * 2 + b) 0 s1.fc.rom } }

/-- Copy the selected response into both banks; bank A becomes active (R153; CPX-9640). -/
def State.bankCopy (s : State) (c : Nat) : State :=
  if s.var == .cpx9640 && decide (c < 64) then
    let code := 1 + s.rd FC_CHAN_RESP c * 4 + s.rd FC_CHAN_RATE c
    let rom := mset (fun _ => 0) (c * 2 + 1) code (mset (fun _ => 0) (c * 2) code s.fc.rom)
    { s with fc := { s.fc with rom := rom } }.wr FC_CHAN_ACT_BANK c 0
  else s

/-- The checks of R156 on a bank of a channel. -/
def State.bankOk (s : State) (c b : Nat) : Bool :=
  let rate := s.rd FC_CHAN_RATE c
  if s.romOf c b != 0 then (s.romOf c b - 1) % 4 == rate
  else
    let n := (s.bankWord c b 0).get 9 0
    let coefs := mgetList regDefault s.regs (regKey 0x09 (bankGrp b) c 2) n
    let sum := (coefs.drop 1).foldl (fun (a : Int) w => a + signedOf 24 (w.get 23 0)) 0
    let gain := signedOf 24 ((coefs.headD 0).get 23 0) + 2 * sum
    n == ncoefOf rate && (s.bankWord c b 0).get 31 30 == rate && (s.bankWord c b 1).toNat == crc32c coefs
      && decide (8388608 - 8192 ≤ gain) && decide (gain ≤ 8388608 + 8192)

/-- Members of a swap group. -/
def State.swapMembers (s : State) (g : Nat) : List Nat :=
  (List.range 64).filter (fun c => s.rd FC_CHAN_SWAP_GRP c == g)

def State.swapOf (s : State) (g : Nat) : Option Swap := mget (fun _ => none) s.fc.swaps g

def State.setSwap (s : State) (g : Nat) (x : Option Swap) : State :=
  { s with fc := { s.fc with swaps := mset (fun _ => none) g x s.fc.swaps } }

/-- The TAI second with given low 32 bits that comes next. -/
def namedSecond (now lo : Nat) : Nat :=
  let c := now / 2 ^ 32 * 2 ^ 32 + lo
  if c < now then c + 2 ^ 32 else c

/-- Swap instant of R155 and R251 in TAI ns: 0 asks for the first boundary. -/
def State.swapInstant (s : State) (lo : Nat) : Nat :=
  if lo = 0 then ceilTo (nextPass s.tai + 125000) 250000 else namedSecond s.tu.sec lo * 1000000000

/-- Is a named boundary 250 µs to 60 s ahead? -/
def State.boundaryOk (s : State) (lo : Nat) : Bool :=
  lo == 0 || (decide (s.tai + 250000 ≤ s.swapInstant lo) && decide (s.swapInstant lo ≤ s.tai + 60000000000))

/-- BANK_SWAP of a filter group (R155 to R157). -/
def State.fcBankSwap (s : State) (c : Cmd) : State :=
  let g := objInst c.objid
  let bank := (c.par 0).get 0 0
  if (s.swapOf g).isSome then s.fail c .bankBusy 0
  else
    let ms := s.swapMembers g
    match ms.find? (fun k => !s.bankOk k bank) with
    | some k => s.fail c .badObject (mkObjId 0x09 k (bankGrp bank))
    | none =>
      if ms.isEmpty then s.answer c 0 0 0 0
      else
        let s1 := (s.setSwap g (some ⟨bank, s.swapInstant (c.par 1).toNat, c.ref⟩)).setPhase c.ring c.order .started
        let s2 := ((s1.setFlag FC_GRP_PEND g true).wr FC_GRP_BANK g bank).wr FC_GRP_SWAP_SEC g (c.par 1).toNat
        s2.each ms (fun s k => s.setFlag FC_CHAN_SWAP_PEND k true)

/-- End a pending swap of a group, done or cancelled. -/
def State.swapOver (s : State) (g : Nat) : State :=
  ((((s.setSwap g none).setFlag FC_GRP_PEND g false).wr FC_GRP_SWAP_SEC g 0).each (s.swapMembers g)
    (fun s k => s.setFlag FC_CHAN_SWAP_PEND k false))

/-- FC_BANK_SWAP_INSTANT (R155, R157): at tb every member not yet on the bank changes and is marked settling. -/
def execFcBankSwapInstant (group : Nat) (s : State) : Res :=
  match s.swapOf group with
  | none => .next s
  | some w =>
    if !s.pathsOn || decide (s.tai < w.tb) then .next s
    else
      let moved := (s.swapMembers group).filter (fun k => s.rd FC_CHAN_ACT_BANK k != w.bank)
      let s1 := s.each moved (fun s k => (((s.wr FC_CHAN_ACT_BANK k w.bank).fcKeep s k w.tb).countChg k).markFine k w.tb true 6)
      let s2 := s1.swapOver group
      .next ((s2.settle (some w.cmd) .ok 0 0 (some (Stamp.ofTai w.tb))).notifyAt 0x09 1 0 (Stamp.ofTai w.tb) group w.bank
        moved.length 0)

/-! Stream entries (R135 to R137, R166). -/

def State.stream (s : State) (ring : Nat) : Option Stream := mget (fun _ => none) s.af.streams ring

def State.setStream (s : State) (ring : Nat) (x : Option Stream) : State :=
  { s with af := { s.af with streams := mset (fun _ => none) ring x s.af.streams } }

/-- How many samples of a buffer follow one another by the distance in force at the first: a schedule change or a gap ends them. -/
def evenRun : List StrSmp → Nat
  | a :: b :: t => if b.smp.t = a.smp.t + a.step ∧ b.step = a.step then 1 + evenRun (b :: t) else 1
  | [_] => 1
  | [] => 0

/-- Samples of the next entry: evenly spaced, at most 12 (R136). -/
def Stream.take (st : Stream) : List StrSmp := st.buf.take (min 12 (evenRun st.buf))

/-- Sample words of an entry, padded to 12. -/
def padWords (l : List W32) : List W32 := l ++ List.replicate (12 - l.length) 0

/-- The entry of Table 5.6 or Table 6.7. -/
def streamEntry (st : Stream) : List W32 :=
  let l := st.take.map (·.smp)
  let t0 : Nat := (l.headD ⟨0, 0, 0⟩).t
  let w1 := if st.unit = 0x08 then
      let step := match st.take with
        | a :: _ => a.step / 25
        | [] => 0
      st.chan * 2 ^ 26 + l.length * 2 ^ 22 + step % 2 ^ 22
    else
      let bad := (l.filter (fun x => x.qual != 0)).headD ⟨0, 0, 0⟩
      st.chan * 2 ^ 25 + b2n st.fast * 2 ^ 24 + l.length * 2 ^ 20 + bad.stat.get 29 26 * 2 ^ 16 + bad.stat.get 25 22 * 2 ^ 12
  [BitVec.ofNat 32 st.seq, BitVec.ofNat 32 w1] ++ (Stamp.ofTai t0).words ++ padWords (l.map (·.word))

/-- A closing stream whose samples are all written ends, and STREAM_CLOSE completes (R135). -/
def State.streamEnd (s : State) (ring : Nat) (st : Stream) : State :=
  match st.closing with
  | some at_ => if st.buf.isEmpty then (s.setStream ring none).settle (some at_) .ok 0 0 (some s.now) else s.setStream ring (some st)
  | none => s.setStream ring (some st)

/-- STREAM_ENTRY_WRITE (R136, R137): the next entry of the ring's stream, or its loss: a full ring, and in LET a
ring in host memory, drop it and count.  In SENTINEL, from entry to wake, no entry is written. -/
def execStreamEntryWrite (ring : Nat) (s : State) : Res :=
  match s.stream ring with
  | none => .next s
  | some st =>
    if !s.pathsOn || s.mo.mode == .sentinel then .next s
    else if st.buf.isEmpty then .next (s.streamEnd ring st)
    else
      let st' := { st with seq := (st.seq + 1) % 2 ^ 32, buf := st.buf.drop st.take.length }
      let s1 := if s.ringIs ring 3 && !s.ringFull ring && !(s.mo.mode == .letMode && !s.flag MB_RINGREG_LOC ring) then
          s.ringPush ring (streamEntry st)
        else s.bump MB_RINGREG_DROP ring 1
      .next (s1.streamEnd ring st')

/-- Open streams of a unit. -/
def State.openStreams (s : State) (unit : Nat) : List Stream :=
  s.af.streams.filterMap (fun e => match e.2 with
    | some st => if st.unit == unit then some st else none
    | none => none)

/-- Samples per second of a stream before DECIM; a channel that is not sampled has no raw samples. -/
def State.streamRate (s : State) (unit chan : Nat) (fast : Bool) : Nat :=
  if unit = 0x08 then (if s.sampled chan && !s.chanLost chan then 1000000000 / max 1 (s.spacingNs chan) else 0)
  else if fast then 1250000 else 1000000000 / s.finePeriod chan

/-- The rate limit of R135 or R166, as an exact sum of fractions over a common denominator. -/
def rateOk (l : List (Nat × Nat)) (limit : Nat) : Bool :=
  let den := (l.map (·.2)).foldl Nat.lcm 1
  decide ((l.map (fun r => r.1 * (den / r.2))).foldl (· + ·) 0 ≤ limit * den)

/-- What R135 and R166 refuse of a STREAM_OPEN: reserved bits, a ring of another kind or in use, DECIM 0, a channel of a
triggered core, a fast stream of a virtual channel, a rate beyond the limit. -/
def State.streamBad (s : State) (c : Cmd) : Bool :=
  let unit := objUnit c.objid
  let chan := objInst c.objid
  let ring := (c.par 0).get 21 16
  let decim := (c.par 0).get 15 0
  let fast := unit == 0x09 && (c.par 0).get 31 31 == 1
  let rates := (s.streamRate unit chan fast, decim) ::
    (s.openStreams unit).map (fun st => (s.streamRate unit st.chan st.fast, st.decim))
  (c.par 0).get 30 22 != 0 || (unit == 0x08 && (c.par 0).get 31 31 == 1)
    || !s.ringIs ring 3 || (s.stream ring).isSome || decim == 0
    || (unit == 0x08 && s.triggered chan) || (fast && decide (64 ≤ chan))
    || !rateOk rates (if unit = 0x08 then 160000000 else 96000000)

/-- STREAM_OPEN (R135, R166): the stream starts at once or at the boundary of the named second. -/
def State.streamOpen (s : State) (c : Cmd) : State :=
  let ring := (c.par 0).get 21 16
  let decim := (c.par 0).get 15 0
  let start := (c.par 1).toNat
  let st : Stream :=
    { unit := objUnit c.objid, chan := objInst c.objid, fast := objUnit c.objid == 0x09 && (c.par 0).get 31 31 == 1
      decim := decim, startSec := if start = 0 then 0 else namedSecond s.tu.sec start
      seq := mget (fun _ => 0) s.mb.nseq ring, skip := decim, buf := [], closing := none }
  (s.setStream ring (some st)).done c 0 0 0 0

/-- STREAM_CLOSE (R135): completes once the last entry is written. -/
def State.streamClose (s : State) (c : Cmd) : State :=
  let ring := (c.par 0).get 5 0
  match s.stream ring with
  | none => s
  | some st => (s.setPhase c.ring c.order .started).streamEnd ring { st with closing := some c.ref }

/-! Checks of writes to FC objects (R154, R157, R167). -/

/-- A channel number the variant lacks. -/
def State.chanAbsent (s : State) (c : Nat) : Bool := decide (s.nAin ≤ c) && decide (c < 64)

def fcAbsent (s : State) (r : WReq) : Bool :=
  (r.isObj FC_CHAN_obj && !(s.var == .cpx9640) && r.new s FC_CHAN_SWAP_GRP != 0) ||
  (r.isObj FC_TRACK_obj && (r.touches FC_TRACK_SRC && s.chanAbsent (r.new s FC_TRACK_SRC)
    || r.touches FC_TRACK_SRC2 && s.chanAbsent (r.new s FC_TRACK_SRC2)))

def fcBad (s : State) (r : WReq) : Bool :=
  (r.isObj FC_CHAN_obj && (decide (32000 < signedOf 17 (r.new s FC_CHAN_PHASE_TRIM))
    || decide (signedOf 17 (r.new s FC_CHAN_PHASE_TRIM) < -32000))) ||
  (r.isObj FC_VCH_obj && (decide (320 < r.new s FC_VCH_LAT) || r.new s FC_VCH_FS == 0
    || decide (0x7FFFFFFF < r.new s FC_VCH_FS))) ||
  (r.isObj FC_TRACK_obj && (decide (95 < r.new s FC_TRACK_SRC)
    || (decide (95 < r.new s FC_TRACK_SRC2) && r.new s FC_TRACK_SRC2 != 0x7F)))

/-- A write of the standby bank and its kin asks for TRAIN, COMMISSION, RUN or SAFE. -/
def State.workMode (s : State) : Bool :=
  s.mo.mode == .train || s.mo.mode == .commission || s.mo.mode == .run || s.mo.mode == .safe

def fcModeForbids (s : State) (r : WReq) : Bool :=
  (s.mo.mode == .run &&
    ((r.isObj FC_CHAN_obj && (r.changes s FC_CHAN_RATE || r.changes s FC_CHAN_RESP || r.changes s FC_CHAN_DESKEW
      || r.changes s FC_CHAN_SWAP_GRP || r.changes s FC_CHAN_TRACK)) ||
     (r.isObj FC_VCH_obj && (r.changes s FC_VCH_EN || r.changes s FC_VCH_ACCEPT_TEST || r.changes s FC_VCH_STR
      || r.changes s FC_VCH_QTY || r.changes s FC_VCH_FS)) ||
     (r.isObj FC_SVSTR_obj && (List.range 4).any (fun w => r.newWord s w != s.word r.unit r.grp r.i w)) ||
     (r.isObj FC_TRACK_obj && r.newWord s 0 != s.word r.unit r.grp r.i 0))) ||
  ((r.isObj FC_BANKA_obj && s.rd FC_CHAN_ACT_BANK r.i == 0) || (r.isObj FC_BANKB_obj && s.rd FC_CHAN_ACT_BANK r.i == 1))

/-- BANK_BUSY of R154 and R157. -/
def fcBusy (s : State) (r : WReq) : Bool :=
  let g := s.rd FC_CHAN_SWAP_GRP r.i
  let pend := g != 0 && (s.swapOf g).isSome
  ((r.isObj FC_BANKA_obj || r.isObj FC_BANKB_obj) && pend) ||
  (r.isObj FC_CHAN_obj && pend && (r.changes s FC_CHAN_RATE || r.changes s FC_CHAN_RESP || r.changes s FC_CHAN_DESKEW
    || r.changes s FC_CHAN_SWAP_GRP))

/-! What a commit of FC settings does beyond its words. -/

/-- A new fine rate moves the next stamp onto its grid. -/
def State.fineRegrid (s : State) (c : Nat) : State :=
  s.setFcChan c { s.fcChan c with fineAt := ceilTo (s.fcChan c).fineAt (s.finePeriod c) }

/-- After a commit that changed a channel's settings: the events of Table 6.5, the copy of R153, PHASE_EFF.  RESP and DESKEW have no
effect on a virtual channel (R162). -/
def State.fcChanCommit (s old : State) (c : Nat) : State :=
  let moved (f : Field) : Bool := s.rd f c != old.rd f c
  let resp := moved FC_CHAN_RATE || (moved FC_CHAN_RESP && decide (c < 64))
  let event := resp || (moved FC_CHAN_DESKEW && decide (c < 64))
  let s0 := if event || moved FC_CHAN_PHASE_TRIM then s.fcKeep old c s.tai else s
  let s1 := if resp then s0.bankCopy c else s0
  let s2 := if moved FC_CHAN_RATE then s1.fineRegrid c else s1
  let s3 := if event then s2.evScan c s.tai else s2
  let s4 := if moved FC_CHAN_PHASE_TRIM then
      ((s3.countChg c).markFine c (ceilTo s.tai (s3.finePeriod c)) true 7).markFast c (ceilTo s.tai 800) true 7
    else s3
  s4.wr FC_CHAN_PHASE_EFF c (s4.rd FC_CHAN_PHASE_TRIM c)

/-- After a commit that activated the mapping of a virtual channel: its fine samples start on the grid. -/
def State.fcVchCommit (s old : State) (c : Nat) : State :=
  if s.flag FC_VCH_EN c && !old.flag FC_VCH_EN c then
    s.setFcChan c { s.fcChan c with fineAt := ceilTo s.tai (s.finePeriod c) }
  else s

/-- After a commit that changed a subscription: it starts as never received. -/
def State.fcStreamCommit (s old : State) (k : Nat) : State :=
  if (List.range 4).any (fun w => s.word 0x09 0x07 k w != old.word 0x09 0x07 k w) then
    (s.setSv k SvSt.init).wr FC_SVSTR_STATE k 0
  else s

/-- A tracker that is made inactive is Nominal (Table 6.12). -/
def State.fcTrackCommit (s : State) (k : Nat) : State :=
  if s.flag FC_TRACK_EN k && s.rd FC_TRACK_STATE k != 0 then s
  else ((s.extendTrack k s.tai).wr FC_TRACK_FREQ k (s.trackNom k)).wr FC_TRACK_STATE k 0

/-- A channel's path begins at `te`: what came before lies on another stretch of time. -/
def State.pathBegin (s : State) (c te : Nat) : State :=
  let x := s.fcChan c
  let t := s.finePeriod c
  s.setFcChan c { x with
    raws := [], past := [], sets := [], fineAt := ceilTo (te - 5 * t) t, fastAt := ceilTo (te - 1200) 800 }

/-- When a fine sample stamped `t` becomes available (R145, R147, R162). -/
def State.fineDue (s : State) (c t : Nat) : Nat :=
  if 64 ≤ c then s.ingestDue c t else t + 5 * s.finePeriod c + s.trimLate c t

/-- Scans, slots and timers count from `te` on. -/
def State.afBegin (s : State) (te : Nat) : State :=
  let cores := (List.range 16).foldl (fun m k =>
    mset (fun _ => AfCore.init) k { s.afCore k with plan := [], deferred := none, scanLast := 0, convAt := 0, drops := [] } m) s.af.cores
  { s with af := { s.af with
    cores := cores, slices := s.af.slices.map (fun e => (e.1, { e.2 with lastAt := 0 })), before := [], trigs := [], urg := []
    tmrAt := (List.range 16).foldl (fun m k => mset (fun _ => 0) k (te * 8) m) s.af.tmrAt } }

/-- Every path begins at `te` (BOOT); a channel that is sampled starts (Table 6.5). -/
def State.pathsBegin (s : State) (te : Nat) : State :=
  let s1 := (s.afBegin te).each (List.range s.nAin ++ (List.range 32).map (· + 64)) (fun s c => s.pathBegin c te)
  s1.each ((List.range s.nAin).filter (fun c => s.sampled c && !s.triggered c)) (fun s c => s.evStart c (s.firstSlot c te))

/-- The paths restart and the trackers anchor (w4, a step of the time counter; R159). -/
def State.pathsStart (s : State) (te : Nat) : State := (s.pathsBegin te).anchorAll te

/-- The selected responses are copied into both banks of every chain at configuration apply (R153). -/
def State.banksLoad (s : State) : State := s.each (List.range s.nAin) (fun t c => (t.bankCopy c).fcKeep t c t.tai)

end Sys2Proof.Machine
end

