-- ==== Sys2Proof/Machine/Phasors.lean ====
section
/-! DEFINITION. Phasor estimation (R174 to R176, R560): the window of a group, phasors, sequence components, the
quantities of Table 7.5, and the usable estimates of the trackers (R158). -/

namespace Sys2Proof.Machine

open Sys2Proof

/-- sqrt 2 with 40 fraction bits. -/
def sqrt2Q : Int := isqrt (2 * 2 ^ 80)

/-- A phasor with its quality and OVR (R176). -/
structure PhIn where
  x : Cx
  q : Nat
  ovr : Bool

/-- An input the group lacks: invalid. -/
def PhIn.none : PhIn := ⟨⟨0, 0⟩, 2, false⟩

/-- The sum of x[n] exp(-j 2π h n / 64) over samples newest first, the first of index `n`; 30 fraction bits. -/
def dftGo (h : Nat) : Nat → List Int → Cx → Cx
  | _, [], acc => acc
  | n, v :: t, acc => dftGo h (n - 1) t ⟨acc.re + v * cos64 (h * n), acc.im - v * sin64 (h * n)⟩

/-- X[h] over 64 samples newest first, with 16 fraction bits. -/
def phasorFull (h : Nat) (l : List Int) : Cx :=
  let y := dftGo h 63 l ⟨0, 0⟩
  ⟨y.re * sqrt2Q / 2 ^ 60, y.im * sqrt2Q / 2 ^ 60⟩

/-- X[0] over 64 samples: their mean, with 16 fraction bits. -/
def phasorDc (l : List Int) : Int := l.foldl (· + ·) 0 * 2 ^ 10

/-- Xhalf over the newest 32 samples. -/
def phasorHalf (l : List Int) : Cx :=
  let y := dftGo 1 63 (l.take 32) ⟨0, 0⟩
  ⟨y.re * sqrt2Q / 2 ^ 59, y.im * sqrt2Q / 2 ^ 59⟩

/-- The 64 resampling instants of a tracker that end at `u`, newest first. -/
def State.stampsTo (s : State) (k u : Nat) : List Nat :=
  (((s.track k).insts.map (·.1)).filter (fun t => decide (t ≤ u))).take 64

/-- A stream's resampled sample at an instant. -/
def State.resAt (s : State) (c u : Nat) : Option Smp := (s.fcChan c).res.find? (fun x => x.t == u)

/-- A stream's samples at instants; one that is missing counts as invalid with value 0. -/
def State.window (s : State) (c : Nat) (stamps : List Nat) : List (Option Smp) := stamps.map (s.resAt c)

def winValues (w : List (Option Smp)) : List Int := w.map (fun x => match x with
  | some y => y.value
  | none => 0)

def winQual (w : List (Option Smp)) : Nat := (w.map (fun x => match x with
  | some y => y.qual
  | none => 2)).foldl max 0

def winOvr (w : List (Option Smp)) : Bool := w.any (fun x => match x with
  | some y => y.word.get 29 29 == 1
  | none => false)

/-- The phasor of a window: harmonic `h`, or the half-cycle estimate. -/
def phOf (w : List (Option Smp)) (half : Bool) (h : Nat) : PhIn :=
  let v := if half then w.take 32 else w
  ⟨if half then phasorHalf (winValues w) else phasorFull h (winValues w),
   if v.length < (if half then 32 else 64) then 2 else winQual v, winOvr v⟩

/-- The channels of a group in use. -/
def State.grpChans (s : State) (g : Nat) : List Nat :=
  [s.rd PE_MEAS_CH_A g, s.rd PE_MEAS_CH_B g, s.rd PE_MEAS_CH_C g, s.rd PE_MEAS_CH_N g].filter (fun c => c != 0x7F)

/-- A resampled instant was available on a channel at the start of the pass in progress (R26, R147, R159). -/
def State.resThere (s : State) (c u : Nat) : Bool :=
  (s.resAt c u).isSome && decide (s.resDue c (u / 2 ^ 32) ≤ s.tai / 125000 * 125000)

/-- The newest instant available on every one of some channels at the pass start (R174). -/
def State.commonU (s : State) (chans : List Nat) : Option Nat :=
  match chans with
  | [] => none
  | c :: _ => ((s.fcChan c).res.find? (fun x => chans.all (fun d => s.resThere d x.t))).map (·.t)

/-- The inputs of a group at some instants. -/
structure GrpIn where
  volt : Bool
  rot : Bool
  vconn : Bool
  hasN : Bool
  a : PhIn
  b : PhIn
  c : PhIn
  n : PhIn

/-- A group's phasors of harmonic `h` over given instants. -/
def State.grpIn (s : State) (g : Nat) (stamps : List Nat) (half : Bool) (h : Nat) : GrpIn :=
  let ph (c : Nat) : PhIn := if c = 0x7F || !s.flag PE_MEAS_EN g then PhIn.none else phOf (s.window c stamps) half h
  { volt := s.flag PE_MEAS_KIND g, rot := s.flag PE_MEAS_ROT g, vconn := s.flag PE_MEAS_VCONN g
    hasN := s.rd PE_MEAS_CH_N g != 0x7F
    a := ph (s.rd PE_MEAS_CH_A g), b := ph (s.rd PE_MEAS_CH_B g), c := ph (s.rd PE_MEAS_CH_C g)
    n := ph (s.rd PE_MEAS_CH_N g) }

/-- The instants of a group's window: those that end at the newest one available on each of its channels (R174). -/
def State.grpStamps (s : State) (g : Nat) : List Nat :=
  let chans := s.grpChans g
  match s.commonU chans with
  | some u => s.stampsTo (s.rd FC_CHAN_TRACK (chans.headD 0)) u
  | none => []

/-- Worst quality and any OVR of inputs, around a number. -/
def PhIn.ofAll (x : Cx) (l : List PhIn) : PhIn := ⟨x, (l.map (·.q)).foldl max 0, l.any (·.ovr)⟩

/-- Role b and role c of the phase sequence (R560). -/
def GrpIn.rb (g : GrpIn) : PhIn := if g.rot then g.c else g.b
def GrpIn.rc (g : GrpIn) : PhIn := if g.rot then g.b else g.c

/-- The phase-to-phase phasors ab, bc, ca by role: computed, or the measured channels (R560). -/
def GrpIn.pp (g : GrpIn) : PhIn × PhIn × PhIn :=
  if g.vconn then
    if g.rot then (PhIn.ofAll g.c.x.neg [g.c], PhIn.ofAll g.b.x.neg [g.b], PhIn.ofAll g.a.x.neg [g.a]) else (g.a, g.b, g.c)
  else (PhIn.ofAll (g.a.x.sub g.rb.x) [g.a, g.rb], PhIn.ofAll (g.rb.x.sub g.rc.x) [g.rb, g.rc],
        PhIn.ofAll (g.rc.x.sub g.a.x) [g.rc, g.a])

/-- Zero, positive and negative sequence of three phasors (R175). -/
def seq3 (a b c : Cx) : Cx × Cx × Cx :=
  ((Cx.sum [a, b, c]).div 3, (Cx.sum [a, b.rot unitA, c.rot unitA2]).div 3, (Cx.sum [a, b.rot unitA2, c.rot unitA]).div 3)

/-- A number divided by √3·1∠30°. -/
def Cx.overRoot3 (x : Cx) : Cx :=
  let u := cisTurns (tenths (-300))
  let r : Int := isqrt (3 * 2 ^ 80)
  x.rot (u.1 * 2 ^ 40 / r, u.2 * 2 ^ 40 / r)

/-- X1 and X2 of a group. -/
def GrpIn.pos (g : GrpIn) : PhIn :=
  if g.volt && g.vconn then PhIn.ofAll (seq3 g.pp.1.x g.pp.2.1.x g.pp.2.2.x).2.1.overRoot3 [g.a, g.b, g.c]
  else PhIn.ofAll (seq3 g.a.x g.rb.x g.rc.x).2.1 [g.a, g.b, g.c]

def GrpIn.negSeq (g : GrpIn) : PhIn :=
  if g.volt && g.vconn then PhIn.ofAll (seq3 g.pp.1.x g.pp.2.1.x g.pp.2.2.x).2.2.overRoot3 [g.a, g.b, g.c]
  else PhIn.ofAll (seq3 g.a.x g.rb.x g.rc.x).2.2 [g.a, g.b, g.c]

/-- 3I0, or 3V0 from CH_N when present. -/
def GrpIn.resid (g : GrpIn) : PhIn :=
  if g.volt && g.hasN then g.n else PhIn.ofAll (Cx.sum [g.a.x, g.b.x, g.c.x]) [g.a, g.b, g.c]

/-- The quantities of Table 7.5, by phase for 0x0 and 0x1 and in the first place otherwise. -/
def GrpIn.qty (g : GrpIn) (q : Nat) : List PhIn :=
  if q = 0 then [g.a, g.b, g.c]
  else if q = 1 then
    if g.vconn then [g.a, g.b, g.c]
    else if g.rot then [g.pp.1, g.pp.2.2, g.pp.2.1] else [g.pp.1, g.pp.2.1, g.pp.2.2]
  else if q = 2 then [g.resid]
  else if q = 3 then [g.n]
  else if q = 4 then [g.pos]
  else [g.negSeq]

/-! The estimates of the trackers (R158). -/

/-- The fundamental of a channel over one cycle that ends at an instant of its own tracker. -/
def State.cycleAt (s : State) (c u : Nat) : PhIn := phOf (s.window c (s.stampsTo (s.rd FC_CHAN_TRACK c) u)) false 1

/-- Turn of a complex number in [0, 1), 30 bits, most significant first: a bit is set when the rest of the turn still lies ahead. -/
def turnGo : Nat → Cx → Nat → Nat
  | 0, _, acc => acc
  | k + 1, z, acc =>
    let y := z.rot (cisTurns (-(2 ^ (k + 10) : Int)))
    let ahead := if acc = 0 ∧ k = 29 then decide (z.im < 0 ∨ (z.im = 0 ∧ z.re < 0)) else decide (0 ≤ y.im)
    if ahead then turnGo k y (acc * 2 + 1) else turnGo k z (acc * 2)

/-- The angle of a complex number as a signed turn with 40 fraction bits, within a half turn either way. -/
def Cx.turn (z : Cx) : Int :=
  let t : Int := turnGo 30 z 0 * 2 ^ 10
  if t < 2 ^ 39 then t else t - 2 ^ 40

/-- The frequency of a channel's fundamental in µHz: its phase advance over the last two cycles of its tracker's instants.  None while
its samples are not good or the fundamental is below 5 % of full scale. -/
def State.srcFreq (s : State) (c : Nat) : Option Nat :=
  match (s.fcChan c).fine, (s.fcChan c).res with
  | f :: _, r :: _ =>
    let stamps := (s.track (s.rd FC_CHAN_TRACK c)).insts.map (·.1) |>.filter (fun t => decide (t ≤ r.t))
    match stamps[64]?, stamps[128]? with
    | some u1, some u2 =>
      let x0 := s.cycleAt c r.t
      let x1 := s.cycleAt c u1
      let x2 := s.cycleAt c u2
      let good := f.qual == 0 && x0.q == 0 && x1.q == 0 && x2.q == 0
        && decide (400000 * 2 ^ 16 * 1000000 ≤ x0.x.mag * 1414214)
      let adv := 2 * 2 ^ 40 + (x0.x.mulConj x1.x).turn + (x1.x.mulConj x2.x).turn
      if good && decide (u2 < r.t) then some ((adv.toNat * 10 ^ 15 * 2 ^ 32) / (2 ^ 40 * (r.t - u2))) else none
    | _, _ => none
  | _, _ => none

/-- The usable estimate of a tracker, from its source or, while that is unusable, its fallback: within 1 mHz of the frequency the
phase advance gives, where `freq` says (0: that frequency itself; assumption 33). -/
def State.trackEst (s : State) (k : Nat) (freq : Nat) : Option Nat :=
  let c2 := s.rd FC_TRACK_SRC2 k
  let est := (s.srcFreq (s.rd FC_TRACK_SRC k)).orElse (fun _ => if c2 = 0x7F then none else s.srcFreq c2)
  est.map (fun f => if freq = 0 then f else max (f - 1000) (min (f + 1000) freq))

end Sys2Proof.Machine
end

