-- ==== Sys2Proof/Machine/Elements.lean ====
section
/-! DEFINITION. The protection elements (07_protection_elements.md): block sources, overcurrent, directional, voltage,
frequency, motor, undercurrent, phase-reversal and differential elements, the fast elements, and the checks of their
settings. -/

namespace Sys2Proof.Machine

open Sys2Proof

/-! Element table. -/

/-- Element instances of the variant. -/
def State.nElem (s : State) : Nat := s.byVar 2048 1024 512

def State.el (s : State) (n : Nat) : PeEl := mget (fun _ => PeEl.init) s.pe.el n

def State.setEl (s : State) (n : Nat) (x : PeEl) : State :=
  { s with pe := { s.pe with el := mset (fun _ => PeEl.init) n x s.pe.el } }

/-- Instances of an object of which word `w` differs from reset. -/
def State.listed (s : State) (unit grp w : Nat) : List Nat :=
  s.regs.filterMap (fun e =>
    if e.1 / 2 ^ 28 = unit * 256 + grp ∧ e.1 % 4096 = w then some (e.1 / 4096 % 65536) else none)

/-- Enabled elements, in index order. -/
def State.enabledEls (s : State) : List Nat := (s.listed 0x10 1 0).filter (fun n => s.flag PE_ELEM_EN n)

def State.elType (s : State) (n : Nat) : Nat := s.rd PE_ELEM_TYPE n

/-- Stage of a type (Table 7.1): 2, 3, or 0 for a fast element. -/
def stageOf (ty : Nat) : Nat :=
  if ty = 0x11 ∨ ty = 0x12 then 0
  else if ty = 0x04 ∨ ty = 0x07 ∨ ty = 0x08 ∨ ty = 0x09 ∨ ty = 0x0A ∨ ty = 0x0B then 2
  else 3

/-- The running state of another element as R179 lets element `n` read it: `s0` at the previous commit, `s` with the
earlier stages of this pass. -/
def refEl (s0 s : State) (n k : Nat) : PeEl :=
  if stageOf (s.elType k) < stageOf (s.elType n) ∧ stageOf (s.elType k) ≠ 0 then s.el k else s0.el k

/-! Blocking (R172). -/

/-- A block source (16 bits) is active. -/
def srcActive (s0 s : State) (n src : Nat) : Bool :=
  let kind := natBits src 15 14
  let idx := natBits src 10 0
  let bit := if kind = 1 then (refEl s0 s n idx).pu
    else if kind = 2 then (refEl s0 s n idx).op
    else natBit (s.rd PE_XBLK_BITS_LO 0 + s.rd PE_XBLK_BITS_HI 0 * 2 ^ 32) (idx % 64)
  if kind = 0 then false else bit != natBit src 13

def isBlocked (s0 s : State) (n : Nat) : Bool :=
  srcActive s0 s n (s.rd PE_ELEM_BLKA n) || srcActive s0 s n ((s.word 0x10 1 n 1).get 15 0)

/-! Timing shared by the phases (R186, R188, R183). -/

/-- Times in µs rounded up to whole passes (R210). -/
def passesOf (us : Nat) : Nat := (us + 124) / 125

/-- One second of accumulation per pass at a rate `num / den` per second, with 56 fraction bits. -/
def perPass (num den : Nat) : Nat := if den = 0 then 0 else num * 125 * 2 ^ 56 / (den * 1000000)

/-- A definite timer: operate once pickup has lasted `td` passes. -/
def defTime (pu : Bool) (td : Nat) (p : PePh) : PePh :=
  let held := if pu then (if p.pu then p.held + 1 else 0) else 0
  { p with pu := pu, held := held, op := pu && decide (td ≤ held) }

/-- Quality blocking of a phase or element (R183, R233): values hold through 100 ms, which is 800 passes, and reset in the next. -/
def underQual (bad : Bool) (p : PePh) (f : PePh → PePh) : PePh :=
  if bad then
    if decide (800 ≤ p.qb) then { PePh.init with qb := 801 } else { p with qb := p.qb + 1, mem := none, cnt := 0 }
  else f { p with qb := 0 }

/-- What a block leaves of a phase: timers and accumulators cleared, quality and polarising memory as they are (R172, R191). -/
def PePh.blocked (p : PePh) : PePh := { PePh.init with qb := p.qb, mem := p.mem }

/-- What a block leaves of an element: bits at 0, timers and accumulators cleared; FREQ values and the last current sample stand
(R172, R194, R205). -/
def PeEl.blocked (e : PeEl) : PeEl :=
  { e with a := e.a.blocked, b := e.b.blocked, c := e.c.blocked, e := e.e.blocked
           pu := false, op := false, puPh := 0, opPh := 0, acc := 0, blkd := true }

/-- The reset state of an element, with what EV knows of it (R180, R181). -/
def PeEl.fresh (e : PeEl) : PeEl :=
  { PeEl.init with comPu := e.comPu, comOp := e.comOp, comQ := e.comQ, asleep := e.asleep }

def PePh.shownPu (p : PePh) : Bool := p.pu && p.qb == 0
def PePh.shownOp (p : PePh) : Bool := p.op && p.qb == 0

/-! Curves (Table 7.7, R187). -/

/-- m^x - 1 with 40 fraction bits, 0 below 1. -/
def powLess1 (m num den : Nat) : Nat := powQ m num den - 2 ^ 40

/-- Points of a user curve. -/
def State.curvePts (s : State) (k : Nat) : List (Nat × Nat) :=
  (List.range (s.rd PE_UCURVE_NPTS k)).map (fun i => (s.rdk PE_UCURVE_M k i, s.rdk PE_UCURVE_T k i))

/-- log2 of a number over 1,000, with 40 fraction bits. -/
def lgMilli (m : Nat) : Int := log2Q (m * 2 ^ 40 / 1000)

/-- Time in µs (with 40 fraction bits) of a user curve at log2 m, 0 below the first point. -/
def curveTime (lm : Int) : List (Nat × Nat) → Nat
  | (m1, t1) :: (m2, t2) :: rest =>
    if lm < lgMilli m1 then 0
    else if lm ≤ lgMilli m2 then
      let a := log2Q (t1 * 2 ^ 40)
      let b := log2Q (t2 * 2 ^ 40)
      exp2Q (a + (b - a) * (lm - lgMilli m1) / (lgMilli m2 - lgMilli m1))
    else curveTime lm ((m2, t2) :: rest)
  | [(m1, t1)] => if lm < lgMilli m1 then 0 else t1 * 2 ^ 40
  | [] => 0

/-- rate(m) as a fraction per second, for m with 40 fraction bits, at least 1 (Table 7.7). -/
def State.curveRate (s : State) (curve tms m : Nat) : Nat × Nat :=
  let iec (k1000 num den : Nat) : Nat × Nat := (powLess1 m num den * 1000000, 2 ^ 40 * tms * k1000)
  let ieee (a b num den : Nat) : Nat × Nat :=
    let x := powLess1 m num den
    (x * 1000 * 10000, tms * (a * 2 ^ 40 + b * x))
  if curve = 0x01 then iec 140 2 100
  else if curve = 0x02 then iec 13500 1 1
  else if curve = 0x03 then iec 80000 2 1
  else if curve = 0x04 then iec 120000 1 1
  else if curve = 0x11 then ieee 515 1140 2 100
  else if curve = 0x12 then ieee 196100 4910 2 1
  else if curve = 0x13 then ieee 282000 1217 2 1
  else
    let t := curveTime (log2Q m) (s.curvePts (curve - 0x20))
    if t = 0 then (0, 1) else (1000000 * 2 ^ 40 * 1000, tms * t)

/-- TR of a curve in units of 0.01 s. -/
def curveTr (curve own : Nat) : Nat :=
  if curve = 0x11 then 485 else if curve = 0x12 then 2160 else if curve = 0x13 then 2910 else own

/-- |X| / setting with 40 fraction bits. -/
def ratioQ (x : PhIn) (set : Nat) : Nat := if set = 0 then 0 else x.x.mag * 2 ^ 24 / set

/-! Overcurrent (R185 to R189). -/

/-- The inverse branch of R186: G advances by the rate, and operates after TD and TMIN. -/
def inverseStep (inc td tmin : Nat) (p : PePh) : PePh :=
  let g := p.g + inc
  if 2 ^ 56 ≤ g then
    { p with g := 2 ^ 56, op := p.op || (decide (td ≤ p.full) && decide (tmin ≤ p.held)), full := p.full + 1 }
  else { p with g := g, full := 0 }

/-- Pickup clear (R188). -/
def ocReset (s : State) (n m : Nat) (p : PePh) : PePh :=
  let reset := s.rd PE_OC_RESET n
  let q := { p with pu := false, op := false, clr := if p.pu then 0 else p.clr + 1 }
  if reset = 0 then { q with g := 0, held := 0, full := 0 }
  else if reset = 1 then
    if decide (passesOf (s.rd PE_OC_TRD n) ≤ q.clr) then { q with g := 0, held := 0, full := 0 } else q
  else
    let one := 2 ^ 40
    let dec := perPass ((one * one - m * m) * 100000) (one * one * s.rd PE_OC_TMS n * curveTr (s.rd PE_OC_CURVE n) (s.rd PE_OC_RESET_TR n))
    let g := q.g - dec
    { q with g := g, full := if g < 2 ^ 56 then 0 else q.full, held := 0 }

/-- One phase of PHOC, EFOC or NSOC in one pass; `dirOk` is the direction's permission (R189). -/
def ocPhase (s : State) (n : Nat) (dirOk : Bool) (x : PhIn) (p : PePh) : PePh :=
  let m := min (ratioQ x (s.rd PE_OC_IS n)) (s.rd PE_OC_MMAX n * 2 ^ 40)
  let pu := dirOk && (if p.pu then decide (2 ^ 40 * (100 - s.rd PE_OC_HYST n) ≤ m * 100) else decide (2 ^ 40 ≤ m))
  if pu then
    let held := if p.pu then p.held + 1 else if s.rd PE_OC_RESET n = 1 then p.held else 0
    let q := { p with pu := true, held := held }
    let td := passesOf (s.rd PE_OC_TD n)
    if s.rd PE_OC_CURVE n = 0 then { q with op := decide (td ≤ held) }
    else if 2 ^ 40 ≤ m then
      let r := s.curveRate (s.rd PE_OC_CURVE n) (s.rd PE_OC_TMS n) m
      inverseStep (perPass r.1 r.2) td (passesOf (s.rd PE_OC_TMIN n)) q
    else inverseStep 0 td (passesOf (s.rd PE_OC_TMIN n)) q
  else ocReset s n m p

/-- The direction that phase `k` of an overcurrent element needs is there (R189). -/
def dirOk (s0 s : State) (n k : Nat) (perPhase : Bool) : Bool :=
  let sup := s.rd PE_OC_DIRSUP n
  if sup = 0 then true
  else
    let j := s.rd PE_OC_DIREL n
    let d := refEl s0 s n j
    if !s.flag PE_ELEM_EN j || d.qblk || d.blkd then s.flag PE_OC_DIRFB n
    else if perPhase then natBit (if sup = 1 then d.puPh else d.opPh) (2 - k)
    else if sup = 1 then d.pu else d.op

/-! Assembling an element from its phases. -/

/-- Three bits in the order A, B, C. -/
def bits3 (a b c : Bool) : Nat := b2n a * 4 + b2n b * 2 + b2n c

/-- Largest of three numbers. -/
def max3 (a b c : Nat) : Nat := max a (max b c)

/-- G with 56 fraction bits as Q8.24. -/
def q824 (g : Nat) : Nat := min (g / 2 ^ 32) 0xFFFFFFFF

/-- Elapsed over TD as Q8.24. -/
def timeQ (held td : Nat) : Nat := if td = 0 then 0 else min (held * 2 ^ 24 / td) 0xFFFFFFFF

/-- A magnitude as a 24-bit value. -/
def magVal (x : PhIn) : Nat := min (x.x.mag / 2 ^ 16) 0xFFFFFF

/-- Bits of an element from its three phases; `shown` says whether it reports phases. -/
def PeEl.fromPhases (e : PeEl) (shown : Bool) : PeEl :=
  { e with
    pu := e.a.shownPu || e.b.shownPu || e.c.shownPu
    op := e.a.shownOp || e.b.shownOp || e.c.shownOp
    puPh := if shown then bits3 e.a.shownPu e.b.shownPu e.c.shownPu else 0
    opPh := if shown then bits3 e.a.shownOp e.b.shownOp e.c.shownOp else 0
    qblk := e.a.qb != 0 || e.b.qb != 0 || e.c.qb != 0 }

/-- Bits of an element that has one state. -/
def PeEl.fromE (e : PeEl) : PeEl :=
  { e with pu := e.e.shownPu, op := e.e.shownOp, puPh := 0, opPh := 0, qblk := e.e.qb != 0 }

/-- Inputs of an element's own group. -/
def State.elGrp (s : State) (n : Nat) : GrpIn :=
  s.grpIn (s.rd PE_ELEM_MEAS n) (s.grpStamps (s.rd PE_ELEM_MEAS n)) (s.flag PE_ELEM_EST n) 1

/-- A phase of a group that is not there. -/
def State.hasPhase (s : State) (g k : Nat) : Bool :=
  (if k = 0 then s.rd PE_MEAS_CH_A g else if k = 1 then s.rd PE_MEAS_CH_B g else s.rd PE_MEAS_CH_C g) != 0x7F

/-- PHOC, EFOC, NSOC. -/
def evalOc (s0 s : State) (n : Nat) (e : PeEl) : PeEl :=
  let q := s.rd PE_ELEM_QTY n
  let l := (s.elGrp n).qty q
  let per := q == 0
  let g := s.rd PE_ELEM_MEAS n
  let ph (k : Nat) (p : PePh) : PePh :=
    match l[k]? with
    | some x =>
      if per && !s.hasPhase g k then PePh.init
      else underQual (x.q == 2) p (ocPhase s n (dirOk s0 s n k (s.elType n == 1)) x)
    | none => PePh.init
  let e1 := { e with a := ph 0 e.a, b := ph 1 e.b, c := ph 2 e.c, ovr := l.any (·.ovr), val := (l.map magVal).foldl max 0 }
  let acc := if s.rd PE_OC_CURVE n = 0 then timeQ (max3 e1.a.held e1.b.held e1.c.held) (passesOf (s.rd PE_OC_TD n))
    else q824 (max3 e1.a.g e1.b.g e1.c.g)
  { e1 with acc := acc }.fromPhases per

/-! Directional (R190, R191). -/

/-- |wrap(arg z)| ≤ `half` tenths of a degree, at most 900: with z the operating phasor against the polarising one. -/
def within (z : Cx) (half : Nat) : Bool :=
  let c := (cisTurns (tenths half)).1 / 2 ^ 16
  decide (0 ≤ z.re) && decide (z.sq * (c * c).toNat ≤ (z.re * z.re).toNat * 2 ^ 48)

/-- One phase of DIR: forward (pu) and reverse (op), with its memory; the polarising window ends at `u` (ns with 32 fraction bits).
The memory's age is the time between the two windows' ends, its life MEMT counts from its pass (R191; assumption 85). -/
def dirPhase (s : State) (n : Nat) (useMem : Bool) (u : Nat) (i v : PhIn) (p : PePh) : PePh :=
  let imin := s.rd PE_DIR_IMIN n * 2 ^ 16
  let vmin := s.rd PE_DIR_VMIN n * 2 ^ 16
  let live := decide (vmin ≤ v.x.mag)
  let start := s.tai / 125000 * 125000
  let fresh : Option (Cx × Nat × Nat) := if live then some (v.x, u, start) else p.mem
  let f := s.rd FC_TRACK_FREQ (s.rd FC_CHAN_TRACK (s.rd PE_MEAS_CH_A (s.rd PE_ELEM_MEAS n)))
  let pol : Option Cx :=
    if live then some v.x
    else if !useMem then none
    else match p.mem with
      | some (x, u0, t) =>
        if s.rd PE_DIR_MEMT n = 0 ∨ t + passesOf (s.rd PE_DIR_MEMT n) * 125000 < start then none
        else some (x.rot (cisTurns (f * (u - u0) / 2 ^ 32 % 10 ^ 15 * 2 ^ 40 / 10 ^ 15)))
      | none => none
  match pol with
  | none => { p with pu := false, op := false, mem := fresh }
  | some x =>
    let z := (i.x.mulConj x).rot (cisTurns (-(tenths (signedOf 16 (s.rd PE_DIR_RCA n)))))
    let ok := decide (imin ≤ i.x.mag)
    { p with pu := ok && within z (s.rd PE_DIR_HALF n), op := ok && within z.neg (s.rd PE_DIR_HALF n), mem := fresh }

/-- DIR. -/
def evalDir (s : State) (n : Nat) (e : PeEl) : PeEl :=
  let q := s.rd PE_ELEM_QTY n
  let gi := s.rd PE_ELEM_MEAS n
  let gv := s.rd PE_DIR_VGRP n
  let i := s.grpIn gi (s.grpStamps gi) false 1
  let v := s.grpIn gv (s.grpStamps gv) false 1
  let neg (x : PhIn) : PhIn := ⟨x.x.neg, x.q, x.ovr⟩
  let pairs : List (PhIn × PhIn) :=
    if q = 0 then
      if i.rot then [(i.a, v.pp.2.1), (i.b, v.pp.1), (i.c, v.pp.2.2)] else [(i.a, v.pp.2.1), (i.b, v.pp.2.2), (i.c, v.pp.1)]
    else if q = 2 then [(i.resid, neg v.resid)] else [(i.negSeq, neg v.negSeq)]
  let ph (k : Nat) (p : PePh) : PePh :=
    match pairs[k]? with
    | some (a, b) =>
      if q = 0 && !s.hasPhase gi k then PePh.init
      else underQual (a.q != 0 || b.q != 0) p (dirPhase s n (q == 0) ((s.grpStamps gv).headD 0) a b)
    | none => PePh.init
  let e1 : PeEl := { e with
    a := ph 0 e.a
    b := ph 1 e.b
    c := ph 2 e.c
    ovr := pairs.any (fun x => x.1.ovr || x.2.ovr)
    val := (pairs.map (fun x => magVal x.1)).foldl max 0 }
  e1.fromPhases (q == 0)

/-! Voltage (R192). -/

/-- Pickup of one voltage quantity. -/
def voltPick (s : State) (n : Nat) (under : Bool) (x : PhIn) (was : Bool) : Bool :=
  let m := ratioQ x (s.rd PE_VOLT_VS n)
  let h := s.rd PE_VOLT_HYST n
  if under then
    !x.ovr && (if was then decide (m * 100 ≤ 2 ^ 40 * (100 + h)) else decide (m ≤ 2 ^ 40))
  else if was then decide (2 ^ 40 * (100 - h) ≤ m * 100) else decide (2 ^ 40 ≤ m)

/-- Timing of a voltage element at `m`: definite, or inverse followed by TD; reset is instantaneous. -/
def voltTime (s : State) (n : Nat) (under pu : Bool) (m : Nat) (p : PePh) : PePh :=
  let td := passesOf (s.rd PE_VOLT_TD n)
  if !pu then { p with pu := false, op := false, held := 0, g := 0, full := 0 }
  else if s.rd PE_VOLT_CURVE n = 0 then defTime true td p
  else
    let d := if under then 2 ^ 40 - m else m - 2 ^ 40
    inverseStep (perPass (d * 1000) (2 ^ 40 * s.rd PE_VOLT_TMS n)) td 0
      { p with pu := true, held := if p.pu then p.held + 1 else 0 }

/-- UV and OV.  Quality comes before VBLK: an invalid phase is quality-blocked whatever it reads (R182, R192). -/
def evalVolt (s : State) (n : Nat) (under : Bool) (e : PeEl) : PeEl :=
  let q := s.rd PE_ELEM_QTY n
  let g := s.rd PE_ELEM_MEAS n
  let l0 := (s.elGrp n).qty q
  let l : List PhIn := if q = 0 then (l0.zipIdx.filter (fun x => s.hasPhase g x.2)).map (fun x => x.1) else l0
  let vblk := s.rd PE_VOLT_VBLK n
  let dead := under && vblk != 0 && l.all (fun x => decide (x.x.mag < vblk * 2 ^ 16))
  let anyBad := l.any (fun x => x.q == 2)
  let bad (x : PhIn) : Bool := if q = 0 && !s.flag PE_VOLT_ALL n then x.q == 2 else anyBad
  let one (k : Nat) (p : PePh) : PePh :=
    match l0[k]? with
    | some x =>
      if (dead && !bad x) || (q == 0 && !s.hasPhase g k) then PePh.init
      else underQual (bad x) p (fun p => voltTime s n under (voltPick s n under x p.pu) (ratioQ x (s.rd PE_VOLT_VS n)) p)
    | none => PePh.init
  let e1 := { e with a := one 0 e.a, b := one 1 e.b, c := one 2 e.c, ovr := l.any (·.ovr),
                     val := (l.map magVal).foldl max 0 }
  let td := passesOf (s.rd PE_VOLT_TD n)
  let accOf (p : PePh) : Nat := if s.rd PE_VOLT_CURVE n = 0 then timeQ p.held td else q824 p.g
  if s.flag PE_VOLT_ALL n then
    let ps := (l0.zipIdx.filter (fun x => q != 0 || s.hasPhase g x.2)).map (fun x =>
      if x.2 = 0 then e1.a else if x.2 = 1 then e1.b else e1.c)
    let ms := l.map (fun x => ratioQ x (s.rd PE_VOLT_VS n))
    let m := if under then ms.foldl min (ms.headD 0) else ms.foldl max 0
    let e2 := { e1 with e := if dead && !anyBad then PePh.init else underQual anyBad e.e (voltTime s n under (ps.all (·.pu)) m) }
    let e3 := { e2.fromE with acc := accOf e2.e }
    { e3 with puPh := if q ≤ 1 then bits3 e1.a.shownPu e1.b.shownPu e1.c.shownPu else 0,
              opPh := if q ≤ 1 && e3.op then bits3 e1.a.shownPu e1.b.shownPu e1.c.shownPu else 0 }
  else { e1 with acc := max3 (accOf e1.a) (accOf e1.b) (accOf e1.c) }.fromPhases (decide (q ≤ 1))

/-! Frequency and ROCOF (R193, R194). -/

/-- Tracker of an element's group. -/
def State.elTrack (s : State) (n : Nat) : Nat := s.rd FC_CHAN_TRACK (s.rd PE_MEAS_CH_A (s.rd PE_ELEM_MEAS n))

/-- The quality block of frequency elements. -/
def freqBad (s : State) (n vmin : Nat) : Bool :=
  let g := s.elGrp n
  s.rd FC_TRACK_STATE (s.elTrack n) != 1 || decide (g.pos.x.mag < vmin * 2 ^ 16) || g.pos.q == 2

/-- UF and OF. -/
def evalFreq (s : State) (n : Nat) (under : Bool) (e : PeEl) : PeEl :=
  let f := s.rd FC_TRACK_FREQ (s.elTrack n)
  let fs := s.rd PE_FREQ_FS n * 1000
  let td := passesOf (s.rd PE_FREQ_TD n)
  let step (p : PePh) : PePh :=
    let pu := if under then (if p.pu then decide (f ≤ fs + 20000) else decide (f ≤ fs))
      else if p.pu then decide (fs ≤ f + 20000) else decide (fs ≤ f)
    defTime pu td p
  let e1 := { e with e := underQual (freqBad s n (s.rd PE_FREQ_VMIN n)) e.e step, ovr := (s.elGrp n).pos.ovr,
                     val := min (f / 1000) 0xFFFFFF }
  { e1.fromE with acc := timeQ e1.e.held td }

/-- ROCOF. -/
def evalRocof (s : State) (n : Nat) (e : PeEl) : PeEl :=
  let bad := freqBad s n (s.rd PE_ROCOF_VMIN n)
  let nwin := s.rd PE_ROCOF_NWIN n
  let fs := if bad then [] else (s.rd FC_TRACK_FREQ (s.elTrack n) :: e.freqs).take (nwin + 1)
  let full := fs.length == nwin + 1
  let d : Int := (Int.ofNat (fs.headD 0) - fs.getLastD 0) * 8
  let rs : Int := s.rd PE_ROCOF_RS n * nwin
  let dirn := s.rd PE_ROCOF_DIRN n
  let td := passesOf (s.rd PE_ROCOF_TD n)
  let step (p : PePh) : PePh :=
    let up := natBit dirn 0 && decide (rs ≤ d)
    let down := natBit dirn 1 && decide (d ≤ -rs)
    let pu := full && (if p.pu then decide (rs * 95 ≤ d * 100) || decide (d * 100 ≤ -(rs * 95)) else up || down)
    defTime pu td p
  let e1 := { e with freqs := fs, e := underQual bad e.e step,
                     val := if full && nwin != 0 then min (d.natAbs / nwin) 0xFFFFFF else e.val }
  { e1.fromE with acc := timeQ e1.e.held td }

/-! Motor elements (R195 to R197). -/

/-- THERM.  The bits keep their hysteresis in `e`; a quality block holds them at 0 and integrates the last valid q. -/
def evalTherm (s : State) (n : Nat) (e : PeEl) : PeEl :=
  let g := s.elGrp n
  let bad := g.pos.q == 2 || g.negSeq.q == 2
  let i1 := g.pos.x.mag
  let run := if bad then e.lastRun else decide (s.rd PE_THERM_ISTOP n * 2 ^ 16 ≤ i1)
  let ieq2 := g.pos.x.sq * 100 + s.rd PE_THERM_K2 n * g.negSeq.x.sq
  let kib := s.rd PE_THERM_K n * s.rd PE_THERM_IB n
  let q := if bad then e.lastQ
    else if run && kib != 0 then ieq2 * 1000000 * 2 ^ 16 / (100 * kib * kib) else 0
  let tau := if run then s.rd PE_THERM_TAUR n else s.rd PE_THERM_TAUS n
  let th : Int := e.theta + (Int.ofNat q - e.theta) * 125 / (1000 * max 1 tau)
  let theta := min th.toNat (10 * 2 ^ 48)
  let pct (k : Nat) : Nat := k * 2 ^ 48 / 100
  let alarm := s.rd PE_THERM_ALARM n
  let pu := if e.e.pu then decide (pct (alarm - 2) ≤ theta) else decide (pct alarm ≤ theta)
  let op := if e.e.op then decide (pct (s.rd PE_THERM_RESTART n) ≤ theta) else decide (2 ^ 48 ≤ theta)
  let e1 := { e with theta := theta, lastQ := q, lastRun := run, st := b2n run, acc := min (theta / 2 ^ 24) 0xFFFFFFFF,
                     e := { PePh.init with pu := pu, op := op }, val := magVal g.pos, ovr := g.pos.ovr }
  { e1 with pu := pu && !bad, op := op && !bad, puPh := 0, opPh := 0, qblk := bad }

/-- MSTART: 0 stopped, 1 starting, 2 running (Table 7.10).  A time counts from the first pass that meets its condition, as R186
counts held; TSTART is rounded up to whole passes (R210). -/
def evalMstart (s : State) (n : Nat) (e : PeEl) : PeEl :=
  let g := s.elGrp n
  if g.pos.q == 2 then { e with pu := false, op := false, qblk := true }
  else
    let i := g.pos.x.mag
    let lim (f : Field) : Nat := s.rd f n * 2 ^ 16
    let low := if decide (i < lim PE_MSTART_ISTOP) then min (e.lowT + 1) 801 else 0
    let stall := if e.st = 2 ∧ lim PE_MSTART_ISTALL ≤ i then e.stallT + 1 else 0
    let ilr := max 1 (lim PE_MSTART_ILR)
    let ts := passesOf (s.rd PE_MSTART_TSTART n) * 125
    let sum := e.sAcc + i * i * 125 * 2 ^ 32 / (ilr * ilr)
    let e1 := if e.st = 0 then
        if decide (lim PE_MSTART_ISTART ≤ i) then { e with st := 1, sAcc := 0, lowT := 0, stallT := 0 } else e
      else if decide (801 ≤ low) then { e with st := 0, sAcc := 0, lowT := 0, stallT := 0, e := PePh.init }
      else if e.st = 1 then
        if decide (i < lim PE_MSTART_IRUN) then { e with st := 2, lowT := low, stallT := 0 }
        else { e with sAcc := sum, lowT := low,
                      e := { e.e with op := e.e.op || decide (ts * 2 ^ 32 ≤ sum) } }
      else { e with lowT := low, stallT := stall,
                    e := { e.e with op := e.e.op || decide (passesOf (s.rd PE_MSTART_TSTALL n) + 1 ≤ stall) } }
    { e1 with pu := e1.st == 1, op := e1.e.op, qblk := false, val := magVal g.pos, ovr := g.pos.ovr,
              acc := if ts = 0 then 0 else min (e1.sAcc / 2 ^ 8 / ts) 0xFFFFFFFF }

/-- Elapsed units (1.25 ns) in a second. -/
def unitsPerSec : Nat := 800000000

/-- RSTINH: starts of STARTEL within TWIN, the thermal reserve, and the time since the last stop. -/
def evalRstinh (s0 s : State) (n : Nat) (e : PeEl) : PeEl :=
  let k := s.rd PE_RSTINH_STARTEL n
  let was := (s0.el k).st
  let is_ := (s.el k).st
  let starts := ((if was = 0 ∧ is_ = 1 then [s.elapsed] else []) ++ e.starts).filter
    (fun t => decide (s.elapsed < t + s.rd PE_RSTINH_TWIN n * unitsPerSec))
  let stopAt := if was ≠ 0 ∧ is_ = 0 then some s.elapsed else e.stopAt
  let count := (starts.take 255).length
  let j := s.rd PE_RSTINH_THERMEL n
  let hot := s.flag PE_RSTINH_THERM_EN n && decide (s.rd PE_THERM_RESTART j * 2 ^ 48 / 100 ≤ (s.el j).theta)
  let rest := match stopAt with
    | some t => decide (s.elapsed < t + s.rd PE_RSTINH_TINH n * unitsPerSec)
    | none => false
  { e with starts := starts.take 255, stopAt := stopAt, pu := count + 1 == s.rd PE_RSTINH_NSTART n
           op := decide (s.rd PE_RSTINH_NSTART n ≤ count) || hot || rest, qblk := false, acc := count * 2 ^ 24 }

/-! Undercurrent and phase reversal (R198, R199). -/

def evalUc (s : State) (n : Nat) (e : PeEl) : PeEl :=
  let g := s.rd PE_ELEM_MEAS n
  let l : List PhIn := (((s.elGrp n).qty 0).zipIdx.filter (fun x => s.hasPhase g x.2)).map (fun x => x.1)
  let i := (l.map (·.x.mag)).foldl max 0
  let iuc := s.rd PE_UC_IUC n * 2 ^ 16
  let imin := s.rd PE_UC_IMIN n * 2 ^ 16
  let td := passesOf (s.rd PE_UC_TD n)
  let step (p : PePh) : PePh :=
    defTime (!l.any (·.ovr) && (if p.pu then decide (i * 100 < iuc * 105) && decide (imin * 95 ≤ i * 100)
      else decide (i < iuc) && decide (imin ≤ i))) td p
  let e1 := { e with e := underQual (l.any (fun x => x.q == 2)) e.e step, ovr := l.any (·.ovr), val := min (i / 2 ^ 16) 0xFFFFFF }
  { e1.fromE with acc := timeQ e1.e.held td }

def evalPrev (s : State) (n : Nat) (e : PeEl) : PeEl :=
  let g := s.elGrp n
  let x1 := g.pos.x.mag
  let x2 := g.negSeq.x.mag
  let ratio := s.rd PE_PREV_RATIO n
  let xmin := s.rd PE_PREV_XMIN n * 2 ^ 16
  let td := passesOf (s.rd PE_PREV_TD n)
  let step (p : PePh) : PePh :=
    defTime (if p.pu then decide (ratio * x1 * 95 ≤ x2 * 100000) && decide (xmin * 95 ≤ x2 * 100)
      else decide (ratio * x1 ≤ x2 * 1000) && decide (xmin ≤ x2)) td p
  let e1 := { e with e := underQual (g.pos.q == 2 || g.negSeq.q == 2) e.e step, ovr := g.negSeq.ovr, val := magVal g.negSeq }
  { e1.fromE with acc := timeQ e1.e.held td }

/-! Biased differential (R200, R201). -/

/-- The compensated phase phasors of a winding. -/
def windingComp (g : GrpIn) (vg : Nat) (zsr : Bool) (tap : Nat) : List Cx :=
  let s3 := seq3 g.a.x g.rb.x g.rc.x
  let z := if zsr || vg % 2 == 1 then ⟨0, 0⟩ else s3.1
  let p := s3.2.1.rot (cisTurns (-(tenths (300 * vg))))
  let m := s3.2.2.rot (cisTurns (tenths (300 * vg)))
  let scale (x : Cx) : Cx := ⟨x.re * tap / 2 ^ 20, x.im * tap / 2 ^ 20⟩
  [scale (Cx.sum [z, p, m]), scale (Cx.sum [z, p.rot unitA2, m.rot unitA]), scale (Cx.sum [z, p.rot unitA, m.rot unitA2])]

/-- Ith(Ib), with 16 fraction bits (R201). -/
def biasThr (s : State) (n ib : Nat) : Nat :=
  let ib2 := s.rd PE_DIFF_IB2 n * 2 ^ 16
  let k1 := s.rd PE_DIFF_K1 n
  let k2 := s.rd PE_DIFF_K2 n
  max (s.rd PE_DIFF_IDMIN n * 2 ^ 16) (if ib ≤ ib2 then k1 * ib / 1000 else (k1 * ib2 + k2 * (ib - ib2)) / 1000)

/-- One phase of R201: `rstr` restrained, `ovr` an input carried OVR (R184). -/
def diffPhase (s : State) (n : Nat) (id ib : Nat) (rstr ovr : Bool) (p : PePh) : PePh :=
  let pu := decide (biasThr s n ib < id)
  let idu := s.rd PE_DIFF_IDU n
  let fast := idu != 0 && decide (idu * 2 ^ 16 ≤ id)
  let cnt := if pu && !rstr && !ovr then p.cnt + 1 else 0
  let keep := pu || fast
  { p with pu := pu, cnt := min cnt 2, op := keep && (p.op || fast || decide (2 ≤ cnt)) }

/-- DIFF and ZDIF from their phase sums: Id, Ib, Id2, Id5 by role. -/
def diffFrom (s : State) (n : Nat) (rot bad ovr : Bool) (l : List (Nat × Nat × Nat × Nat)) (e : PeEl) : PeEl :=
  let h2 := s.rd PE_DIFF_H2 n
  let h5 := s.rd PE_DIFF_H5 n
  let restr (x : Nat × Nat × Nat × Nat) : Bool :=
    (h2 != 0 && decide (h2 * x.1 ≤ x.2.2.1 * 100)) || (h5 != 0 && decide (h5 * x.1 ≤ x.2.2.2 * 100))
  let any := l.any restr
  let x (k : Nat) : Nat × Nat × Nat × Nat := l.getD (if rot && k != 0 then 3 - k else k) (0, 0, 0, 0)
  let ph (k : Nat) (p : PePh) : PePh :=
    underQual bad p (diffPhase s n (x k).1 (x k).2.1 (restr (x k) || (s.flag PE_DIFF_XBLK n && any)) ovr)
  let e1 : PeEl := { e with
    a := ph 0 e.a
    b := ph 1 e.b
    c := ph 2 e.c
    ovr := ovr
    rstr := any && !bad
    val := min ((l.map (fun y => y.1)).foldl max 0 / 2 ^ 16) 0xFFFFFF }
  e1.fromPhases true

/-- Sums over windings for each phase by role: |Σ I'| and half of Σ |I'|. -/
def sumPhases (ws : List (List Cx)) : List (Nat × Nat) :=
  (List.range 3).map (fun k =>
    let xs := ws.map (fun w => w.getD k ⟨0, 0⟩)
    ((Cx.sum xs).mag, (xs.map Cx.mag).foldl (· + ·) 0 / 2))

/-- Windings in use: group and setting index. -/
def windings (s : State) (n : Nat) : List (Nat × Nat) :=
  [(s.rd PE_ELEM_MEAS n, 0), (s.rd PE_DIFF_W2 n, 1)] ++
  (if s.flag PE_DIFF_W3_EN n then [(s.rd PE_DIFF_W3 n, 2)] else []) ++
  (if s.flag PE_DIFF_W4_EN n then [(s.rd PE_DIFF_W4 n, 3)] else [])

def evalDiff (s : State) (n : Nat) (e : PeEl) : PeEl :=
  let ws := windings s n
  let comp (half : Bool) (h : Nat) : List (List Cx) := ws.map (fun w =>
    windingComp (s.grpIn w.1 (s.grpStamps w.1) half h) (s.rdk PE_DIFF_VG n w.2) (s.rdk PE_DIFF_ZSR n w.2 == 1)
      (s.rdk PE_DIFF_TAP n w.2))
  let half := s.flag PE_ELEM_EST n && s.rd PE_DIFF_H2 n == 0 && s.rd PE_DIFF_H5 n == 0
  let ins := ws.flatMap (fun w => let g := s.grpIn w.1 (s.grpStamps w.1) half 1; [g.a, g.b, g.c])
  let f := sumPhases (comp (s.flag PE_ELEM_EST n) 1)
  let d2 := sumPhases (comp false 2)
  let d5 := sumPhases (comp false 5)
  let l := (List.range 3).map (fun k => ((f.getD k (0, 0)).1, (f.getD k (0, 0)).2, (d2.getD k (0, 0)).1, (d5.getD k (0, 0)).1))
  diffFrom s n (s.flag PE_MEAS_ROT (s.rd PE_ELEM_MEAS n)) (ins.any (fun x => x.q != 0)) (ins.any (·.ovr)) l e

/-! Zone differential (R227, R230, R231). -/

def State.zoneSt (s : State) (z : Nat) : ZoneSt := mget (fun _ => ZoneSt.init) s.tm.zone z

def State.setZone (s : State) (z : Nat) (x : ZoneSt) : State :=
  { s with tm := { s.tm with zone := mset (fun _ => ZoneSt.init) z x s.tm.zone } }

/-- ZLAT of a zone, ns. -/
def State.zlat (s : State) (z : Nat) : Nat := (s.rd TM_ZONE_LAT z + 1) * 31250

def State.zonePeriod (s : State) (z : Nat) : Nat := 31250 * 2 ^ s.rd TM_ZONE_RATE z

/-- Enabled slots of a zone. -/
def State.zoneSlots (s : State) (z : Nat) : List Nat := (List.range 64).filter (fun k => s.rdk TM_ZONE_SLOT_EN z k == 1)

/-- The streams of a slot's three phases, by channel: local channels or remote streams. -/
def State.slotChans (s : State) (z k : Nat) : List Nat :=
  if s.rdk TM_ZONE_DEVID z k == s.localDev then
    let g := s.rdk TM_ZONE_GROUP z k
    [s.rd PE_MEAS_CH_A g, s.rd PE_MEAS_CH_B g, s.rd PE_MEAS_CH_C g]
  else [remoteChan z k 0, remoteChan z k 1, remoteChan z k 2]

/-- The instants of the window of R230 for a pass start (ns). -/
def State.zoneStamps (s : State) (z start : Nat) : List Nat :=
  let k := s.streamTrack (remoteChan z 0 0)
  let lim := (start - 9 * s.zonePeriod z - s.zlat z) * 2 ^ 32
  match ((s.track k).insts.map (·.1)).find? (fun u => decide (u ≤ lim)) with
  | some u => s.stampsTo k u
  | none => []

/-- ZDIF: quality-blocked while its zone is. -/
def evalZdif (s : State) (n : Nat) (e : PeEl) : PeEl :=
  let z := s.rd PE_ZDIF_ZONE n
  let st := s.zoneStamps z (s.tai / 125000 * 125000)
  let contrib (k : Nat) : List PhIn := (s.slotChans z k).map (fun c => phOf (s.window c st) false 1)
  let slots := s.zoneSlots z
  let ins := slots.flatMap contrib
  let ws := slots.map (fun k => (contrib k).map (fun p =>
    let t : Int := s.rdk TM_ZONE_TAP z k
    let g : Int := if s.rdk TM_ZONE_POL z k = 1 then -t else t
    (⟨p.x.re * g / 2 ^ 20, p.x.im * g / 2 ^ 20⟩ : Cx)))
  let l := (sumPhases ws).map (fun x => (x.1, x.2, 0, 0))
  diffFrom s n false (!s.flag TM_ZONE_EN z || s.flag TM_ZSTAT_BLK z) (ins.any (·.ovr)) l e

/-! Evaluation of one phasor element in a pass (R172, R178 to R183). -/

/-- Types that keep counting while blocked. -/
def keepsCounting (ty : Nat) : Bool := ty == 0x0A || ty == 0x0B || ty == 0x0C

/-- The meaning of an element's type. -/
def evalType (s0 s : State) (n : Nat) (e : PeEl) : PeEl :=
  let ty := s.elType n
  if ty ≤ 3 then evalOc s0 s n e
  else if ty = 0x04 then evalDir s n e
  else if ty = 0x05 then evalVolt s n true e
  else if ty = 0x06 then evalVolt s n false e
  else if ty = 0x07 then evalFreq s n true e
  else if ty = 0x08 then evalFreq s n false e
  else if ty = 0x09 then evalRocof s n e
  else if ty = 0x0A then evalTherm s n e
  else if ty = 0x0B then evalMstart s n e
  else if ty = 0x0C then evalRstinh s0 s n e
  else if ty = 0x0D then evalUc s n e
  else if ty = 0x0E then evalPrev s n e
  else if ty = 0x0F then evalDiff s n e
  else evalZdif s n e

/-- One element in one pass: a block holds its bits at 0 and clears its timers and accumulators at once (R172). -/
def evalElem (s0 s : State) (n : Nat) : PeEl :=
  let r := evalType s0 s n (s.el n)
  if !isBlocked s0 s n then { r with blkd := false }
  else if keepsCounting (s.elType n) then { r with blkd := true, pu := false, op := false }
  else r.blocked

/-- Evaluate every enabled element of a stage. -/
def evalStage (s0 s : State) (stage : Nat) : State :=
  (s.enabledEls.filter (fun n => stageOf (s.elType n) == stage)).foldl (fun t n => t.setEl n (evalElem s0 s n)) s

/-! Status and records (R180, Table 7.3, Table 14.2). -/

/-- Status word 0 of an element. -/
def PeEl.word0 (e : PeEl) (ty : Nat) : W32 :=
  BitVec.ofNat 32 (b2n e.pu * 2 ^ 31 + b2n e.op * 2 ^ 30 + b2n e.qblk * 2 ^ 29 + b2n e.blkd * 2 ^ 28 + e.puPh * 2 ^ 25
    + e.opPh * 2 ^ 22 + b2n e.ovr * 2 ^ 21 + b2n e.rstr * 2 ^ 20
    + (if ty = 0x0A ∨ ty = 0x0B then e.st * 2 ^ 16 else 0))

/-- Records of an element's changes since EV was last told: OP and QBLK always, PU with EVT; and the triggers of DR (R180). -/
def State.elRecords (s : State) (n : Nat) (e : PeEl) (t : Stamp) (pass : Nat) : State :=
  let w := (e.word0 (s.elType n)).toNat
  let put (s : State) (kind : Nat) (prio : Bool) : State := s.stateRecAt 0x10 kind n t w e.val pass prio
  let s0 := if e.pu && !e.comPu then s.drFire 2 n 3 t.tai else s
  let s1 := if s.flag PE_ELEM_EVT n && e.comPu != e.pu then put s0 (if e.pu then 1 else 2) false else s0
  let s1 := if e.op && !e.comOp then s1.drFire 1 n 3 t.tai else s1
  let s2 := if e.comOp != e.op then put s1 (if e.op then 3 else 4) true else s1
  if e.comQ != e.qblk then put s2 (if e.qblk then 5 else 6) false else s2

/-- The stamp of an operate: OP_NS and OP_SEC. -/
def State.opStamp (s : State) (n : Nat) (e : PeEl) (t : Stamp) : State :=
  if e.op && !e.comOp then (s.wr PE_ESTAT_OP_NS n t.ns).wr PE_ESTAT_OP_SEC n t.sec else s

/-- An element's state stands, and its changes are handed to EV. -/
def State.handEl (s : State) (n : Nat) (e : PeEl) (t : Stamp) (pass : Nat) : State :=
  ((s.setEl n { e with comPu := e.pu, comOp := e.op, comQ := e.qblk }).elRecords n e t pass).opStamp n e t

/-- Write an element's status group. -/
def State.showEl (s : State) (n : Nat) : State :=
  let e := s.el n
  ((s.putWord 0x10 2 n 0 (e.word0 (s.elType n))).wr PE_ESTAT_ACC n e.acc).wr PE_ESTAT_VAL n e.val

/-! Fast elements (R204 to R206). -/

/-- A fast sample of FIOC channel: count and bits. -/
def fiocPhase (thr : Nat) (x : Smp) (p : PePh) : PePh :=
  let above := x.qual != 2 && (decide (thr ≤ x.value.natAbs) || x.word.get 29 29 == 1)
  let cnt := if above then min (p.cnt + 1) 3 else 0
  { p with cnt := cnt, pu := decide (1 ≤ cnt), op := decide (3 ≤ cnt), qb := if x.qual == 2 then 1 else 0 }

/-- FIOC on a fast sample of channel `c`. -/
def evalFioc (s : State) (n c : Nat) (x : Smp) (e : PeEl) : PeEl :=
  let g := s.rd PE_ELEM_MEAS n
  let f := fiocPhase (s.rd PE_FIOC_THR n) x
  let e1 := if s.rd PE_ELEM_QTY n = 3 then { e with a := if s.rd PE_MEAS_CH_N g = c then f e.a else e.a }
    else { e with
      a := if s.rd PE_MEAS_CH_A g = c then f e.a else e.a
      b := if s.rd PE_MEAS_CH_B g = c then f e.b else e.b
      c := if s.rd PE_MEAS_CH_C g = c then f e.c else e.c }
  { e1 with ovr := x.word.get 29 29 == 1, val := min x.value.natAbs 0xFFFFFF }.fromPhases (s.rd PE_ELEM_QTY n == 0)

/-- Light of ARC: the masked inputs. -/
def State.arcLight (s : State) (mask : Nat) : Bool := (List.range 8).any (fun k => natBit mask k && s.flag AF_ARC_LIGHT k)

/-- ARC, at a light change (no sample) or on a fast sample. -/
def evalArc (s : State) (n : Nat) (x : Option Smp) (e : PeEl) : PeEl :=
  let at_ := match x with
    | some y => if y.qual != 2 && (decide (s.rd PE_ARC_ITHR n ≤ y.value.natAbs) || y.word.get 29 29 == 1) then some s.tai else e.curAt
    | none => e.curAt
  let cur := match at_ with
    | some t => decide (s.tai ≤ t + s.rd PE_ARC_CWIN n * 1000)
    | none => false
  let light := s.arcLight (s.rd PE_ARC_INMASK n)
  { e with curAt := at_, pu := light, op := light && (cur || s.flag PE_ARC_LONLY n), qblk := false
           val := match x with
             | some y => min y.value.natAbs 0xFFFFFF
             | none => e.val }

/-- A fast element's new state, with its blocks (R172, R206). -/
def fastElem (s : State) (n : Nat) (e : PeEl) : PeEl :=
  if isBlocked s s n then e.blocked else { e with blkd := false }

/-- Set a fast element, with its records at its evaluation instant. -/
def State.setFast (s : State) (n : Nat) (e : PeEl) : State := s.handEl n e s.now 0xFFFFFFFF

/-- Enabled fast elements that run: after SENTINEL, those that have seen a valid fast sample (R209). -/
def State.fastEls (s : State) : List Nat := s.enabledEls.filter (fun n => stageOf (s.elType n) == 0 && !(s.el n).asleep)

/-- A fast sample reaches an element: a valid one ends its rest after SENTINEL. -/
def PeEl.woken (e : PeEl) (x : Smp) : PeEl := { e with asleep := e.asleep && x.qual == 2 }

/-- Every fast element that channel `c` belongs to, on its sample. -/
def State.fastElems (s : State) (c : Nat) (x : Smp) : State :=
  s.enabledEls.foldl (fun s n =>
    let g := s.rd PE_ELEM_MEAS n
    let three := [s.rd PE_MEAS_CH_A g, s.rd PE_MEAS_CH_B g, s.rd PE_MEAS_CH_C g].contains c
    let e := (s.el n).woken x
    if e.asleep then s
    else if s.elType n = 0x12 ∧ s.flag PE_MEAS_EN g ∧ (if s.rd PE_ELEM_QTY n = 3 then s.rd PE_MEAS_CH_N g = c else three = true) then
      s.setFast n (fastElem s n (evalFioc s n c x e))
    else if s.elType n = 0x11 ∧ three = true then s.setFast n (fastElem s n (evalArc s n (some x) e))
    else s) s

/-- Every ARC element, at a change of light. -/
def State.arcElems (s : State) : State :=
  s.fastEls.foldl (fun s n =>
    if s.elType n = 0x11 then s.setFast n (fastElem s n (evalArc s n none (s.el n))) else s) s

/-- Fast elements read their block sources continuously: apply a change at once. -/
def State.fastBlocks (s : State) : State :=
  s.fastEls.foldl (fun s n =>
    if isBlocked s s n != (s.el n).blkd then
      if s.elType n = 0x11 then s.setFast n (fastElem s n (evalArc s n none (s.el n)))
      else s.setFast n (fastElem s n (s.el n))
    else s) s

/-! Restart of elements (R181, R209). -/

/-- The reset state of an element: THERM starts from INIT. -/
def State.elReset (s : State) (n : Nat) : PeEl :=
  if s.elType n = 0x0A then { (s.el n).fresh with theta := s.rd PE_THERM_INIT n * 2 ^ 48 / 100 } else (s.el n).fresh

/-- A change that restarts element `n`. -/
def restarts (s old : State) (n : Nat) : Bool :=
  let g := s.rd PE_ELEM_MEAS n
  s.rd PE_ELEM_EN n != old.rd PE_ELEM_EN n || s.elType n != old.elType n || g != old.rd PE_ELEM_MEAS n
    || s.rd PE_ELEM_QTY n != old.rd PE_ELEM_QTY n || s.rd PE_ELEM_EST n != old.rd PE_ELEM_EST n
    || s.word 0x10 0x10 g 0 != old.word 0x10 0x10 g 0 || s.word 0x10 0x10 g 1 != old.word 0x10 0x10 g 1
    || (s.elType n == 0x0A && s.rd PE_THERM_IB n != old.rd PE_THERM_IB n)

/-- After settings took effect: restart what R181 restarts; a disabled element's bits read 0. -/
def State.peCommit (s old : State) : State :=
  (s.listed 0x10 1 0 ++ old.listed 0x10 1 0).foldl (fun t n => if restarts s old n then t.setEl n (s.elReset n) else t) s

/-- Every element starts from its reset state (power-up, RESET_N, cold restart). -/
def State.peResetAll (s : State) : State :=
  s.enabledEls.foldl (fun t n => t.setEl n (t.elReset n)) { s with pe := { s.pe with el := [] } }

/-- t5 of SENTINEL entry: reset state, shown, but θ of THERM, the start stamps of RSTINH and the stopped state of MSTART stay
(R209). -/
def State.peSleep (s : State) : State :=
  s.enabledEls.foldl (fun t n =>
    let e := s.el n
    (t.setEl n { e.fresh with theta := if s.elType n = 0x0A then e.theta else 0
                              starts := if s.elType n = 0x0C then e.starts else []
                              asleep := stageOf (s.elType n) == 0 }).showEl n) s

/-- Wake: THERM has cooled for `dt` ns at TAUS. -/
def State.peWake (s : State) (dt : Nat) : State :=
  s.enabledEls.foldl (fun t n =>
    if s.elType n = 0x0A then
      let e := s.el n
      let x := dt * 2 ^ 40 / (1000000 * max 1 (s.rd PE_THERM_TAUS n))
      t.setEl n { e with theta := if 64 * 2 ^ 40 ≤ x then 0 else e.theta * expNegQ x / 2 ^ 40 }
    else t) s

/-! Checks of settings (R171, R173, R187, R190, R196, R200, R202, R226, R227); `p` is the state as it will stand. -/

/-- The setting fields a type uses. -/
def peFields (ty : Nat) : List Field :=
  if ty ≤ 3 then pePHOCFields
  else if ty = 4 then peDIRFields
  else if ty ≤ 6 then peUVFields
  else if ty ≤ 8 then peUFFields
  else if ty = 9 then peROCOFFields
  else if ty = 0xA then peTHERMFields
  else if ty = 0xB then peMSTARTFields
  else if ty = 0xC then peRSTINHFields
  else if ty = 0xD then peUCFields
  else if ty = 0xE then pePREVFields
  else if ty = 0xF then peDIFFFields
  else if ty = 0x10 then [PE_ZDIF_ZONE, PE_ZDIF_REC, PE_DIFF_IDMIN, PE_DIFF_K1, PE_DIFF_K2, PE_DIFF_IB2, PE_DIFF_IDU]
  else if ty = 0x11 then peARCFields
  else peFIOCFields

/-- No bit is set in a P word that the type does not use. -/
def unusedZero (p : State) (n : Nat) : Bool :=
  (List.range 12).all (fun k =>
    (p.word 0x10 1 n (2 + k)).toNat &&& (0xFFFFFFFF - maskOfFields (fun _ => true) (2 + k) (peFields (p.elType n))) == 0)

def within_ (v lo hi : Nat) : Bool := decide (lo ≤ v) && decide (v ≤ hi)

/-- Channel of a group present. -/
def State.has3 (p : State) (g : Nat) : Bool := p.rd PE_MEAS_CH_B g != 0x7F && p.rd PE_MEAS_CH_C g != 0x7F
def State.hasN (p : State) (g : Nat) : Bool := p.rd PE_MEAS_CH_N g != 0x7F

/-- Tracker of a group. -/
def State.grpTrack (p : State) (g : Nat) : Nat := p.rd FC_CHAN_TRACK (p.rd PE_MEAS_CH_A g)

/-- A group holds a virtual channel. -/
def State.grpVirtual (p : State) (g : Nat) : Bool := (p.grpChans g).any (fun c => decide (64 ≤ c))

/-- The quantity is refused for the group, or needs a channel it lacks (Table 7.5, R173). -/
def qtyRefused (p : State) (g q : Nat) : Bool :=
  let v := p.flag PE_MEAS_KIND g
  let conn := p.flag PE_MEAS_VCONN g
  p.flag PE_MEAS_EN g &&
  (if q = 0 then v && conn
   else if q = 1 then !v || !p.has3 g
   else if q = 2 then if v then (if conn then !p.hasN g else !p.hasN g && !p.has3 g) else !p.has3 g
   else if q = 3 then v || !p.hasN g
   else !p.has3 g)

/-- QTY allowed for a type (Table 7.1). -/
def qtyAllowed (ty q : Nat) : Bool :=
  if ty = 2 then q == 2 || q == 3
  else if ty = 3 then q == 5
  else if ty = 4 then q == 0 || q == 2 || q == 5
  else if ty = 5 then q == 0 || q == 1 || q == 4
  else if ty = 6 then q == 0 || q == 1 || q == 2 || q == 4 || q == 5
  else if ty = 0x12 then q == 0 || q == 3
  else q == 0

/-- A user curve keeps R187. -/
def curveOk (p : State) (k : Nat) : Bool :=
  let l := p.curvePts k
  within_ l.length 2 32 && decide (1050 ≤ (l.headD (0, 0)).1) && decide ((l.getLastD (0, 0)).1 ≤ 40000)
    && (l.zip (l.drop 1)).all (fun x => decide (x.1.1 < x.2.1)) && l.all (fun x => within_ x.2 1000 600000000)

/-- Passband edge of a response in thousandths of fs (Table 6.6). -/
def respEdge (r : Nat) : Nat := [250, 250, 250, 220, 200, 200, 180, 150, 150, 120, 100, 100, 80, 50, 300, 350].getD r 0

/-- Passband edge of a channel in Hz. -/
def State.edgeHz (p : State) (c : Nat) : Nat := respEdge (p.rd FC_CHAN_RESP c) * (32 / 2 ^ p.rd FC_CHAN_RATE c)

/-- Ranges and rules of a type's settings. -/
def peRanges (p : State) (n : Nat) : Bool :=
  let ty := p.elType n
  let r (f : Field) (lo hi : Nat) : Bool := within_ (p.rd f n) lo hi
  let g := p.rd PE_ELEM_MEAS n
  let other (k t : Nat) : Bool := k != n && p.elType k == t
  let needs3 := p.flag PE_MEAS_EN g && !p.has3 g
  if ty ≤ 3 then
    let c := p.rd PE_OC_CURVE n
    (c ≤ 4 || within_ c 0x11 0x13 || (within_ c 0x20 0x2F && curveOk p (c - 0x20)))
      && r PE_OC_IS 1 8388607 && r PE_OC_TMS 1 65535 && r PE_OC_RESET 0 2 && r PE_OC_HYST 1 10
      && r PE_OC_TD 0 600000000 && r PE_OC_TMIN 0 600000000 && r PE_OC_TRD 0 600000000 && r PE_OC_MMAX 2 40
      && r PE_OC_DIRSUP 0 2 && (p.rd PE_OC_DIRSUP n == 0 || other (p.rd PE_OC_DIREL n) 4)
      && !(p.rd PE_OC_RESET n == 2 && (c == 0 || (curveTr c (p.rd PE_OC_RESET_TR n) == 0)))
  else if ty = 4 then
    let v := p.rd PE_DIR_VGRP n
    let rca := signedOf 16 (p.rd PE_DIR_RCA n)
    decide (-1800 ≤ rca) && decide (rca ≤ 1800) && r PE_DIR_HALF 300 900 && r PE_DIR_MEMT 0 2000000
      && !p.flag PE_MEAS_KIND g && p.flag PE_MEAS_KIND v && p.grpTrack g == p.grpTrack v
      && !(p.rd PE_ELEM_QTY n == 2 && qtyRefused p v 2) && !(p.rd PE_ELEM_QTY n != 2 && p.flag PE_MEAS_EN v && !p.has3 v)
  else if ty = 5 ∨ ty = 6 then
    r PE_VOLT_CURVE 0 1 && r PE_VOLT_VS 1 8388607 && r PE_VOLT_HYST 1 10
      && (if p.rd PE_VOLT_CURVE n = 0 then p.rd PE_VOLT_TMS n == 0 else p.rd PE_VOLT_TMS n != 0)
      && (ty == 5 || p.rd PE_VOLT_VBLK n == 0)
  else if ty = 7 ∨ ty = 8 then r PE_FREQ_FS 45000 65000 && !needs3
  else if ty = 9 then r PE_ROCOF_DIRN 1 3 && r PE_ROCOF_RS 10 10000 && r PE_ROCOF_NWIN 80 8000 && !needs3
  else if ty = 0xA then
    r PE_THERM_K 1000 1500 && r PE_THERM_K2 0 1000 && r PE_THERM_TAUR 10000 36000000 && r PE_THERM_TAUS 10000 36000000
      && r PE_THERM_ALARM 50 100 && r PE_THERM_RESTART 10 100 && r PE_THERM_INIT 0 100 && !needs3
  else if ty = 0xB then
    decide (p.rd PE_MSTART_ISTOP n < p.rd PE_MSTART_IRUN n) && decide (p.rd PE_MSTART_IRUN n < p.rd PE_MSTART_ISTART n)
      && decide (p.rd PE_MSTART_ISTART n ≤ p.rd PE_MSTART_ILR n) && decide (p.rd PE_MSTART_IRUN n < p.rd PE_MSTART_ISTALL n)
      && !needs3
  else if ty = 0xC then
    other (p.rd PE_RSTINH_STARTEL n) 0xB && r PE_RSTINH_NSTART 1 255 && r PE_RSTINH_TWIN 60 86400 && r PE_RSTINH_TINH 0 86400
      && (if p.flag PE_RSTINH_THERM_EN n then other (p.rd PE_RSTINH_THERMEL n) 0xA else p.rd PE_RSTINH_THERMEL n == 0)
  else if ty = 0xD then true
  else if ty = 0xE then r PE_PREV_RATIO 100 1000 && !needs3
  else if ty = 0xF then
    let ws := windings p n
    (p.flag PE_DIFF_W3_EN n || (p.rd PE_DIFF_W3 n == 0 && p.word 0x10 1 n 5 == 0))
      && (p.flag PE_DIFF_W4_EN n || (p.rd PE_DIFF_W4 n == 0 && p.word 0x10 1 n 6 == 0))
      && ws.all (fun w => !p.flag PE_MEAS_KIND w.1 && p.grpTrack w.1 == p.grpTrack g && decide (p.rdk PE_DIFF_VG n w.2 ≤ 11)
        && decide (0x10000 ≤ p.rdk PE_DIFF_TAP n w.2) && !(p.flag PE_MEAS_EN w.1 && !p.has3 w.1)
        && (p.grpChans w.1).all (fun c => decide (64 ≤ c) ||
          ((p.rd PE_DIFF_H2 n == 0 || decide (130 ≤ p.edgeHz c)) && (p.rd PE_DIFF_H5 n == 0 || decide (325 ≤ p.edgeHz c)))))
      && r PE_DIFF_K1 100 1000 && r PE_DIFF_K2 (p.rd PE_DIFF_K1 n) 2000
      && (p.rd PE_DIFF_H2 n == 0 || r PE_DIFF_H2 5 50) && (p.rd PE_DIFF_H5 n == 0 || r PE_DIFF_H5 5 50)
  else if ty = 0x10 then
    let z := p.rd PE_ZDIF_ZONE n
    r PE_ZDIF_REC 0 10000 && r PE_DIFF_K1 100 1000 && r PE_DIFF_K2 (p.rd PE_DIFF_K1 n) 2000
      && (p.zoneSlots z).any (fun k => p.rdk TM_ZONE_DEVID z k == p.localDev && p.rdk TM_ZONE_GROUP z k == g)
  else if ty = 0x11 then r PE_ARC_CWIN 1 2000 && !p.grpVirtual g
  else !p.grpVirtual g

/-- A block source names the element itself, or an external bit that does not exist. -/
def srcBad (n src : Nat) : Bool :=
  let k := natBits src 15 14
  let i := natBits src 10 0
  ((k == 1 || k == 2) && i == n) || (k == 3 && decide (63 < i))

/-- The settings of an enabled element are good. -/
def elemOk (p : State) (n : Nat) : Bool :=
  !p.flag PE_ELEM_EN n ||
  (let ty := p.elType n
   decide (1 ≤ ty) && decide (ty ≤ 0x12) && qtyAllowed ty (p.rd PE_ELEM_QTY n)
    && (!p.flag PE_ELEM_EST n || decide (ty ≤ 3) || ty == 0xF)
    && !srcBad n (p.rd PE_ELEM_BLKA n) && !srcBad n ((p.word 0x10 1 n 1).get 15 0)
    && unusedZero p n && !((decide (ty ≤ 6) || ty == 0x12) && qtyRefused p (p.rd PE_ELEM_MEAS n) (p.rd PE_ELEM_QTY n))
    && peRanges p n)

/-- A group keeps R173. -/
def measOk (p : State) (g : Nat) : Bool :=
  !p.flag PE_MEAS_EN g ||
  (p.rd PE_MEAS_CH_A g != 0x7F && (p.grpChans g).all (fun c => decide (c < 96) && p.rd FC_CHAN_TRACK c == p.grpTrack g))

/-- A group used by an element. -/
def usesGroup (p : State) (n g : Nat) : Bool :=
  p.rd PE_ELEM_MEAS n == g || (p.elType n == 4 && p.rd PE_DIR_VGRP n == g)
    || (p.elType n == 0xF && (windings p n).any (fun w => w.1 == g))

/-- References of an element: block sources and element fields that name an index beyond the variant (R171). -/
def elemAbsent (p : State) (n : Nat) : Bool :=
  let ty := p.elType n
  let src (x : Nat) : Bool := (natBits x 15 14 == 1 || natBits x 15 14 == 2) && decide (p.nElem ≤ natBits x 10 0)
  src (p.rd PE_ELEM_BLKA n) || src ((p.word 0x10 1 n 1).get 15 0)
    || (ty == 0x10 && !(p.var == .cpx9640))
    || (decide (1 ≤ ty) && decide (ty ≤ 3) && decide (p.nElem ≤ p.rd PE_OC_DIREL n))
    || (ty == 0xC && (decide (p.nElem ≤ p.rd PE_RSTINH_STARTEL n) || decide (p.nElem ≤ p.rd PE_RSTINH_THERMEL n)))

/-- What a write of a PE object makes absent. -/
def peAbsent (p : State) (unit grp i : Nat) : Bool :=
  unit == 0x10 && ((grp == 1 && elemAbsent p i) || (grp == 0x10 && (p.grpChans i).any p.chanAbsent))

/-- What a write of a PE object makes wrong: the object, and the enabled elements that use it. -/
def peBad (p : State) (unit grp i : Nat) : Bool :=
  unit == 0x10 &&
  ((grp == 1 && !elemOk p i)
   || (grp == 1 && p.enabledEls.any (fun n => n != i && !elemOk p n
        && ((p.rd PE_OC_DIREL n == i && decide (p.elType n ≤ 3))
            || (p.elType n == 0xC && (p.rd PE_RSTINH_STARTEL n == i || p.rd PE_RSTINH_THERMEL n == i)))))
   || (grp == 0x10 && (!measOk p i || p.enabledEls.any (fun n => usesGroup p n i && !elemOk p n)))
   || (grp == 0x20 && p.enabledEls.any (fun n => decide (p.elType n ≤ 3) && p.rd PE_OC_CURVE n == 0x20 + i && !curveOk p i)))

end Sys2Proof.Machine
end

