-- ==== Sys2Proof/Machine/Float.lean ====
section
/-! DEFINITION. IEEE 754 binary32 and binary64 with round-to-nearest-even (R237), over bit patterns: every operation
works on the exact value and rounds once. -/

namespace Sys2Proof.Machine

open Sys2Proof

/-- A format: stored mantissa bits and exponent bits. -/
structure Fmt where
  mb : Nat
  eb : Nat

def f32 : Fmt := ⟨23, 8⟩
def f64 : Fmt := ⟨52, 11⟩

def Fmt.bias (f : Fmt) : Int := 2 ^ (f.eb - 1) - 1

/-- A value: not a number, an infinity, or (-1)^neg * m * 2^e. -/
inductive FV where
  | nan
  | inf (neg : Bool)
  | fin (neg : Bool) (m : Nat) (e : Int)
  deriving DecidableEq, Repr

/-- The value of a bit pattern. -/
def unpack (f : Fmt) (w : Nat) : FV :=
  let neg := natBit w (f.mb + f.eb)
  let e := natBits w (f.mb + f.eb - 1) f.mb
  let m := natBits w (f.mb - 1) 0
  if e = 2 ^ f.eb - 1 then (if m = 0 then .inf neg else .nan)
  else if e = 0 then .fin neg m (1 - f.bias - f.mb)
  else .fin neg (2 ^ f.mb + m) (e - f.bias - f.mb)

def signBit (f : Fmt) (neg : Bool) : Nat := b2n neg * 2 ^ (f.mb + f.eb)

def packInf (f : Fmt) (neg : Bool) : Nat := signBit f neg + (2 ^ f.eb - 1) * 2 ^ f.mb

def packNan (f : Fmt) : Nat :=
  (2 ^ f.eb - 1) * 2 ^ f.mb + 2 ^ (f.mb - 1) + Config.nanBits f.mb % 2 ^ (f.mb - 1)
    + Config.nanBits (f.mb + 1) % 2 * 2 ^ (f.mb + f.eb)

/-- `m / 2^k` rounded to nearest, ties to even. -/
def shiftEven (m k : Nat) : Nat :=
  if k = 0 then m
  else
    let q := m / 2 ^ k
    let r := m % 2 ^ k
    let half := 2 ^ (k - 1)
    if half < r ∨ (r = half ∧ q % 2 = 1) then q + 1 else q

/-- Round a finite value to the format. -/
def roundF (f : Fmt) (neg : Bool) (m : Nat) (e : Int) : Nat :=
  if m = 0 then signBit f neg
  else
    let bits : Int := m.log2 + 1
    let emin : Int := 1 - f.bias - f.mb
    let shift : Int := max (bits - (f.mb + 1)) (emin - e)
    let q := if 0 < shift then shiftEven m shift.toNat else m * 2 ^ (-shift).toNat
    let e' := e + shift
    if q < 2 ^ f.mb then signBit f neg + q
    else
      let q' := if q = 2 ^ (f.mb + 1) then 2 ^ f.mb else q
      let e2 := if q = 2 ^ (f.mb + 1) then e' + 1 else e'
      let be := e2 + f.mb + f.bias
      if (2 ^ f.eb - 1 : Int) ≤ be then packInf f neg
      else signBit f neg + be.toNat * 2 ^ f.mb + (q' - 2 ^ f.mb)

/-- Exact signed sum of two finite values as sign, mantissa, exponent. -/
def addExact (n1 : Bool) (m1 : Nat) (e1 : Int) (n2 : Bool) (m2 : Nat) (e2 : Int) : Bool × Nat × Int :=
  let e := min e1 e2
  let a : Int := (if n1 then -1 else 1) * (m1 * 2 ^ (e1 - e).toNat : Nat)
  let b : Int := (if n2 then -1 else 1) * (m2 * 2 ^ (e2 - e).toNat : Nat)
  let s := a + b
  (if s = 0 then n1 && n2 else decide (s < 0), s.natAbs, e)

def fadd (f : Fmt) (a b : Nat) : Nat :=
  match unpack f a, unpack f b with
  | .nan, _ => packNan f
  | _, .nan => packNan f
  | .inf n, .inf m => if n == m then packInf f n else packNan f
  | .inf n, .fin .. => packInf f n
  | .fin .., .inf m => packInf f m
  | .fin n1 m1 e1, .fin n2 m2 e2 => let r := addExact n1 m1 e1 n2 m2 e2; roundF f r.1 r.2.1 r.2.2

/-- Sign change. -/
def fneg (f : Fmt) (a : Nat) : Nat := natSetBit a (f.mb + f.eb) (!natBit a (f.mb + f.eb))

def fabs (f : Fmt) (a : Nat) : Nat := natSetBit a (f.mb + f.eb) false

def fsub (f : Fmt) (a b : Nat) : Nat := fadd f a (fneg f b)

def fmul (f : Fmt) (a b : Nat) : Nat :=
  match unpack f a, unpack f b with
  | .nan, _ => packNan f
  | _, .nan => packNan f
  | .inf n, .inf m => packInf f (n != m)
  | .inf n, .fin m x _ => if x = 0 then packNan f else packInf f (n != m)
  | .fin n x _, .inf m => if x = 0 then packNan f else packInf f (n != m)
  | .fin n1 m1 e1, .fin n2 m2 e2 => roundF f (n1 != n2) (m1 * m2) (e1 + e2)

/-- A quotient with a sticky bit below its last place. -/
def divSticky (a b : Nat) : Nat := a / b * 2 + (if a % b = 0 then 0 else 1)

def fdiv (f : Fmt) (a b : Nat) : Nat :=
  match unpack f a, unpack f b with
  | .nan, _ => packNan f
  | _, .nan => packNan f
  | .inf _, .inf _ => packNan f
  | .inf n, .fin m _ _ => packInf f (n != m)
  | .fin n _ _, .inf m => signBit f (n != m)
  | .fin n1 m1 e1, .fin n2 m2 e2 =>
    if m2 = 0 then (if m1 = 0 then packNan f else packInf f (n1 != n2))
    else
      let k := 2 * f.mb + 4
      roundF f (n1 != n2) (divSticky (m1 * 2 ^ k) m2) (e1 - e2 - k - 1)

def fsqrt (f : Fmt) (a : Nat) : Nat :=
  match unpack f a with
  | .nan => packNan f
  | .inf n => if n then packNan f else a
  | .fin n m e =>
    if m = 0 then a
    else if n then packNan f
    else
      let k : Nat := 2 * f.mb + 4 + (if e % 2 = 0 then 0 else 1)
      let x := m * 2 ^ k
      let r := isqrt x
      roundF f false (r * 2 + (if r * r = x then 0 else 1)) ((e - k) / 2 - 1)

/-- A finite number. -/
def finite (f : Fmt) (a : Nat) : Bool := natBits a (f.mb + f.eb - 1) f.mb != 2 ^ f.eb - 1

def isNan (f : Fmt) (a : Nat) : Bool := unpack f a == .nan

/-- Order: less than; false for a NaN. -/
def flt (f : Fmt) (a b : Nat) : Bool :=
  match unpack f a, unpack f b with
  | .nan, _ => false
  | _, .nan => false
  | .inf n, .inf m => n && !m
  | .inf n, .fin .. => n
  | .fin .., .inf m => !m
  | .fin n1 m1 e1, .fin n2 m2 e2 => let r := addExact n1 m1 e1 (!n2) m2 e2; r.1 && r.2.1 != 0

/-- Equality; +0 equals -0. -/
def feq (f : Fmt) (a b : Nat) : Bool :=
  match unpack f a, unpack f b with
  | .nan, _ => false
  | _, .nan => false
  | .inf n, .inf m => n == m
  | .inf _, .fin .. => false
  | .fin .., .inf _ => false
  | .fin n1 m1 e1, .fin n2 m2 e2 => (addExact n1 m1 e1 (!n2) m2 e2).2.1 == 0

def fle (f : Fmt) (a b : Nat) : Bool := flt f a b || feq f a b

def fmax (f : Fmt) (a b : Nat) : Nat := if flt f a b then b else a
def fmin (f : Fmt) (a b : Nat) : Nat := if flt f b a then b else a

/-- An integer in the format. -/
def ofInt (f : Fmt) (i : Int) : Nat := roundF f (decide (i < 0)) i.natAbs 0

/-- A ratio of naturals in the format, rounded once. -/
def ofRatio (f : Fmt) (neg : Bool) (num den : Nat) : Nat :=
  if num = 0 then signBit f neg
  else
    let k := 2 * f.mb + 4 + (den.log2 + 1 - num.log2)
    roundF f neg (divSticky (num * 2 ^ k) den) (-(k : Int) - 1)

/-- One format to another, rounded once. -/
def convF (f g : Fmt) (a : Nat) : Nat :=
  match unpack f a with
  | .nan => packNan g
  | .inf n => packInf g n
  | .fin n m e => roundF g n m e

/-- Toward zero. -/
def truncF (f : Fmt) (a : Nat) : Int :=
  match unpack f a with
  | .fin n m e =>
    let v : Int := (if 0 ≤ e then m * 2 ^ e.toNat else m / 2 ^ (-e).toNat : Nat)
    if n then -v else v
  | _ => 0

/-- To the nearest integer, ties to even. -/
def roundIntF (f : Fmt) (a : Nat) : Int :=
  match unpack f a with
  | .fin n m e =>
    let v : Int := (if 0 ≤ e then m * 2 ^ e.toNat else shiftEven m (-e).toNat : Nat)
    if n then -v else v
  | _ => 0

/-- Downwards. -/
def floorF (f : Fmt) (a : Nat) : Int :=
  match unpack f a with
  | .fin n m e =>
    let v : Int := (if 0 ≤ e then m * 2 ^ e.toNat else m / 2 ^ (-e).toNat : Nat)
    let exact := decide (0 ≤ e) || m % 2 ^ (-e).toNat == 0
    if n then (if exact then -v else -v - 1) else v
  | _ => 0

/-! Sine and cosine to 120 fraction bits, for coefficients. -/

/-- π with 120 fraction bits. -/
def pi120 : Nat := 4175892906503776358826876457663557747

def taylor120 (x2 : Int) : Nat → Int → Int → Int → Int
  | 0, _, _, acc => acc
  | k + 1, d, t, acc => taylor120 x2 k (d + 2) (-(t * x2 / 2 ^ 120) / ((d + 1) * (d + 2))) (acc + t)

/-- sin and cos of an angle in [0, 4) with 120 fraction bits. -/
def sinCos120 (x : Int) : Int × Int :=
  (taylor120 (x * x / 2 ^ 120) 30 1 x 0, taylor120 (x * x / 2 ^ 120) 30 0 (2 ^ 120) 0)

/-- A finite value as a fixed-point number with 120 fraction bits. -/
def toFix (f : Fmt) (a : Nat) : Int :=
  match unpack f a with
  | .fin n m e =>
    let k := e + 120
    let v : Int := (if 0 ≤ k then m * 2 ^ k.toNat else m / 2 ^ (-k).toNat : Nat)
    if n then -v else v
  | _ => 0

/-- A fixed-point number with 120 fraction bits in the format. -/
def ofFix (f : Fmt) (i : Int) : Nat := roundF f (decide (i < 0)) i.natAbs (-120)

end Sys2Proof.Machine
end

