-- ==== Sys2Proof/Machine/PointValues.lean ====
section
/-! DEFINITION. Point values (Table 12.2, R329): raw forms, comparison in a type, and the conversions; the words of
a point record (Table 12.1). -/

namespace Sys2Proof.Machine

open Sys2Proof

/-- A raw value is in the form of its type. -/
def rawOk (ty raw : Nat) : Bool :=
  if ty = 0 then decide (raw ≤ 1)
  else if ty = 1 then decide (raw < 2 ^ 31) || (decide (2 ^ 64 - 2 ^ 31 ≤ raw) && decide (raw < 2 ^ 64))
  else if ty = 2 ∨ ty = 4 then decide (raw < 2 ^ 32)
  else ty != 7 && decide (raw < 2 ^ 64)

/-- Saturate to an interval. -/
def satInt (lo hi v : Int) : Int := max lo (min hi v)

/-- A finite or infinite binary64 rounded to an integer and saturated. -/
def satRound (lo hi : Int) (x : Nat) : Int :=
  if finite f64 x then satInt lo hi (roundIntF f64 x) else if natBit x 63 then lo else hi

/-- Store a binary64 into a point: raw value, and whether the conversion failed (a NaN into a BOOL or integer). -/
def fromF64 (ty x : Nat) : Nat × Bool :=
  if ty = 4 then (convF f64 f32 x, false)
  else if ty = 5 then (x, false)
  else if isNan f64 x then (0, true)
  else if ty = 0 then (b2n (!feq f64 x 0), false)
  else if ty = 1 then (toSigned 64 (satRound (-2147483648) 2147483647 x), false)
  else if ty = 2 then (toSigned 64 (satRound 0 4294967295 x), false)
  else (toSigned 64 (satRound (-9223372036854775808) 9223372036854775807 x), false)

/-- Store a binary32. -/
def fromF32 (ty w : Nat) : Nat × Bool := if ty = 4 then (w, false) else fromF64 ty (convF f32 f64 w)

/-- Store an INT32, given as a 32-bit pattern. -/
def fromI32 (ty w : Nat) : Nat :=
  let v := signedOf 32 w
  if ty = 0 then b2n (w != 0)
  else if ty = 2 then (max v 0).toNat
  else if ty = 4 then ofInt f32 v
  else if ty = 5 then ofInt f64 v
  else toSigned 64 v

/-- A point's value as binary64; exact but for 64-bit integers. -/
def toF64 (ty raw : Nat) : Nat :=
  if ty = 4 then convF f32 f64 raw
  else if ty = 5 then raw
  else if ty = 6 then ofInt f64 (signedOf 32 raw)
  else ofInt f64 (signedOf 64 raw)

/-- Read as INT32: a 32-bit pattern. -/
def toI32 (ty raw : Nat) : Nat :=
  if ty = 4 ∨ ty = 5 then
    let x := toF64 ty raw
    if isNan f64 x then 0 else toSigned 32 (satRound (-2147483648) 2147483647 x)
  else if ty = 6 then raw % 2 ^ 32
  else toSigned 32 (satInt (-2147483648) 2147483647 (signedOf 64 raw))

/-- Read as binary32. -/
def toF32 (ty raw : Nat) : Nat :=
  if ty = 4 then raw
  else if ty = 5 then convF f64 f32 raw
  else if ty = 6 then ofInt f32 (signedOf 32 raw)
  else ofInt f32 (signedOf 64 raw)

/-- The value is not zero in its type; NaN is not zero, −0.0 is. -/
def notZero (ty raw : Nat) : Bool :=
  if ty = 4 then isNan f32 raw || !feq f32 raw 0
  else if ty = 5 then isNan f64 raw || !feq f64 raw 0
  else raw != 0

/-- Below, in the type of the point: NaN lies above every number. -/
def ptLt (ty a b : Nat) : Bool :=
  if ty = 4 ∨ ty = 5 then
    let x := toF64 ty a
    let y := toF64 ty b
    if isNan f64 x then false else if isNan f64 y then true else flt f64 x y
  else if ty = 1 ∨ ty = 3 then decide (signedOf 64 a < signedOf 64 b)
  else decide (a < b)

/-- Equal in the type of the point. -/
def ptEq (ty a b : Nat) : Bool := !ptLt ty a b && !ptLt ty b a

/-- A condition of WAIT and BRANCH (RP_STEP.CMP). -/
def ptCmp (cmp ty a b : Nat) : Bool :=
  match cmp with
  | 0 => ptEq ty a b
  | 1 => !ptEq ty a b
  | 2 => ptLt ty a b
  | 3 => !ptLt ty b a
  | 4 => ptLt ty b a
  | _ => !ptLt ty a b

/-! Quality (Table 12.1). -/

def qInvalid : Nat := 0x4000
def qQuestionable : Nat := 0xC000
def qSubst : Nat := 0x2000
def qTest : Nat := 0x1000
def qOvr : Nat := 0x800
def qOld : Nat := 0x400
def qForced : Nat := 0x200

/-- A detail code in its place. -/
def qDetail (d : Nat) : Nat := d * 16

/-- VALIDITY is invalid or questionable (R328). -/
def PtRec.bad (r : PtRec) : Bool := natBit r.qual 14

/-- Quality bits [15:8]. -/
def PtRec.high (r : PtRec) : Nat := r.qual / 256 % 256

/-! Definitions and records of the directory. -/

def State.ptDef (s : State) (i : Nat) : Option PtDef := mget (fun _ => none) s.pd.defs i

def State.ptRec (s : State) (i : Nat) : PtRec := mget (fun _ => PtRec.zero) s.pd.recs i

/-- Word 2 of a record. -/
def ptWord2 (d : PtDef) (r : PtRec) : Nat :=
  d.type * 2 ^ 29 + d.safeDir * 2 ^ 27 + b2n d.record * 2 ^ 26 + b2n d.retain * 2 ^ 25 + b2n (d.bind == 7) * 2 ^ 24
    + r.owner % 256 * 2 ^ 16 + r.qual % 65536

/-- The four words of a record; an index without a definition reads as zero (R327). -/
def State.ptWords (s : State) (i : Nat) : List Nat :=
  match s.ptDef i with
  | none => [0, 0, 0, 0]
  | some d =>
    let r := s.ptRec i
    [r.raw % 2 ^ 32, r.raw / 2 ^ 32 % 2 ^ 32, ptWord2 d r, r.ctime % 2 ^ 32]

/-- Type of a point; BITS64 for none. -/
def State.ptType (s : State) (i : Nat) : Nat :=
  match s.ptDef i with
  | some d => d.type
  | none => 6

end Sys2Proof.Machine
end

