-- ==== Sys2Proof/Machine/Renby.lean ====
section
/-! DEFINITION. Sending Renby frames (17_lanes_and_renby.md, R471, R481): the header of Table 17.4, the sequence numbers, and
the ports a frame leaves by. -/

namespace Sys2Proof.Machine

open Sys2Proof

def State.port (s : State) (p : Nat) : PortSt := mget (fun _ => PortSt.init) s.rb.port p

def State.setPort (s : State) (p : Nat) (x : PortSt) : State :=
  { s with rb := { s.rb with port := mset (fun _ => PortSt.init) p x s.rb.port } }

def State.nPort (s : State) : Nat := s.byVar 16 8 4
def State.nLane (s : State) : Nat := s.byVar 20 12 8

/-- A port in use, with Renby in use. -/
def State.portUsed (s : State) (p : Nat) : Bool := s.flag RB_CFG_EN 0 && decide (p < s.nPort) && s.flag RB_PORT_EN p

/-- Ports in use whose link keys are in use: they carry every frame. -/
def State.portsUp (s : State) : List Nat := (List.range s.nPort).filter (fun p => s.portUsed p && decide (7 ≤ (s.port p).step))

def State.portsOf (s : State) (seg : Nat) : List Nat := s.portsUp.filter (fun p => s.rd RB_PORT_SEG p == seg)

/-- Ports towards a device: of the segment on which its TOPO frames arrive first, else every port (R483). -/
def State.portsTo (s : State) (dev : Nat) : List Nat :=
  match mget (fun _ => 0) s.rb.seg dev with
  | 0 => s.portsUp
  | k + 1 => s.portsOf k

/-- Send a frame with its class, type, DMODE, destination, station and group (R471, R481). -/
def State.rbSend (s : State) (cls type dmode dst stn group : Nat) (payload ports : List Nat) : State :=
  if s.flag RB_CFG_EN 0 then
    let pay := if payload.length % 2 = 1 then payload ++ [0] else payload
    let seq := mget (fun _ => 0) s.rb.seq cls
    let words := [2 ^ 28 + cls * 2 ^ 26 + type * 2 ^ 16 + (pay.length + 12) / 2,
      s.rd RB_CFG_DEVID 0 * 2 ^ 22 + dst * 2 ^ 12 + dmode * 2 ^ 10 + s.rd RB_CFG_HOPS 0, seq, stn * 2 ^ 20 + group] ++ pay
    let was := mget (fun _ => FrameOut.init) s.rb.sent cls
    let s1 : State := { s with rb := { s.rb with
      seq := mset (fun _ => 0) cls ((seq + 1) % 2 ^ 32) s.rb.seq
      sent := mset (fun _ => FrameOut.init) cls ⟨words, ports, was.count + 1⟩ s.rb.sent } }
    ports.foldl (fun s p => s.setPort p { s.port p with lctrTx := (s.port p).lctrTx + 1 }) s1
  else s

end Sys2Proof.Machine
end

