-- ==== Sys2Proof/Machine/Points.lean ====
section
/-! DEFINITION. The point directory (12_points_and_recipes.md, R327 to R345): values and their sources, definitions,
subscriptions and remote access, and the checks of PD settings. -/

namespace Sys2Proof.Machine

open Sys2Proof

/-- The Umpire and the directory run from the end of BOOT's protection step on, while the clocks run (R318, R344). -/
def State.umOn (s : State) : Bool := s.tu.running && s.mo.boot == .done

/-- Scan classes run: control is running (R344). -/
def State.scanOn (s : State) : Bool := s.umOn && s.mo.control

/-! Engine-owned points (R243, R318). -/

/-- A destination selector names the point. -/
def selPoint (sel i : Nat) : Bool := sel / 2 ^ 28 == 1 && sel % 2 ^ 23 == i

/-- Configured loops and axes. -/
def State.loops (s : State) : List Nat := (s.listed 0x18 1 0).filter (fun n => s.flag LE_LOOP_EN n)
def State.axisList (s : State) : List Nat := (s.listed 0x19 1 0).filter (fun n => s.flag AX_AXIS_EN n)

/-- Owner byte of an engine that owns the point: LE 0xFB, AX 0xFC. -/
def State.engineOwner (s : State) (i : Nat) : Option Nat :=
  if s.loops.any (fun n => selPoint (s.rd LE_LOOP_OUT_DST n) i) then some 0xFB
  else if s.axisList.any (fun n => selPoint (s.rd AX_AXIS_OUT_DST n) i) then some 0xFC
  else none

/-! Values taking effect (R334). -/

/-- TAI nanoseconds modulo 2^32 (CTIME). -/
def ctimeOf (t : Nat) : Nat := t % 2 ^ 32

/-- Hand a change to the change recorder, or count it when the hand-off is full (R396). -/
def State.pdHand (s : State) (c : PtChange) : State :=
  if s.pd.changes.length < 65536 then { s with pd := { s.pd with changes := s.pd.changes ++ [c] } }
  else { s with pd := { s.pd with chLoss := s.pd.chLoss.add (Stamp.ofTai c.time) } }

/-- The latest time at or before now whose low 32 bits of ns are given. -/
def State.fullTime (s : State) (c : Nat) : Nat :=
  let t := s.tai / 2 ^ 32 * 2 ^ 32 + c % 2 ^ 32
  if t ≤ s.tai then t else t - 2 ^ 32

/-- The sequence words of five-word map entries follow the records they show (R98, R341): both increments. -/
def State.mapBump (s old : State) : State :=
  let l := (s.listed 0x22 2 0).filter (fun k => s.flag PD_SBMAP_EN k && s.rd PD_SBMAP_FORM k == 4
    && s.ptWords (s.rd PD_SBMAP_INDEX k) != old.ptWords (s.rd PD_SBMAP_INDEX k))
  { s with sb := { s.sb with mapSeq := l.foldl (fun m k => mmod (fun _ => 0) k (fun n => (n + 2) % 2 ^ 32) m) s.sb.mapSeq } }

/-- Set a point's record. -/
def State.putRec (s : State) (i : Nat) (r : PtRec) : State :=
  State.mapBump { s with pd := { s.pd with recs := mset (fun _ => PtRec.zero) i r s.pd.recs } } s

/-- Give a point a value with its quality and owner at a time (TAI ns): a change sets CTIME and is handed to the change
recorder when REC = 1; without a change of value or of quality bits [15:8] CTIME stays. -/
def State.ptSet (s : State) (i raw owner qual t : Nat) : State :=
  match s.ptDef i with
  | none => s
  | some d =>
    let r := s.ptRec i
    if r.raw = raw ∧ r.high = qual / 256 % 256 then
      s.putRec i { r with owner := owner, qual := qual }
    else
      let s1 := s.putRec i ⟨raw, owner, qual, ctimeOf t⟩
      if d.record then s1.pdHand ⟨i, raw, qual / 256 % 256, t⟩ else s1

/-- Change only quality bits of a point. -/
def State.ptQual (s : State) (i : Nat) (qual t : Nat) : State :=
  let r := s.ptRec i
  s.ptSet i r.raw r.owner qual t

/-- A deadband lets the new value through, compared in binary64. -/
def beyondDeadband (d : PtDef) (old new : Nat) : Bool :=
  let diff := fabs f64 (fsub f64 (toF64 d.type new) (toF64 d.type old))
  flt f64 (convF f32 f64 d.deadband) diff

/-- A value from the point's own binding (kinds 0x1, 0x2, 0x6): a force stands before it, a deadband may keep it out. -/
def State.ptSource (s : State) (i raw qual ctime : Nat) : State :=
  match s.ptDef i with
  | none => s
  | some d =>
    match mget (fun _ => none) s.pd.forces i with
    | some _ => s
    | none =>
      let r := s.ptRec i
      if r.high = qual / 256 % 256 ∧ (d.bind = 2 ∨ d.bind = 6) ∧ beyondDeadband d r.raw raw = false then s
      else s.ptSet i raw 0xF0 qual ctime

/-- Points of a binding kind, in index order. -/
def State.ptsOf (s : State) (k : Nat) : List (Nat × PtDef) :=
  s.pd.defs.filterMap (fun e => match e.2 with
    | some d => if d.bind = k then some (e.1, d) else none
    | none => none)

/-! Field inputs as the core die sees them (R420, R421). -/

def State.diForce (s : State) (n : Nat) : Option Bool := mget (fun _ => none) s.fd.forceDi n
def State.diVal (s : State) (n : Nat) : Bool := (s.diForce n).getD (s.flag FD_DI_VAL n)
def State.diValid (s : State) (n : Nat) : Bool := (s.diForce n).isSome || s.flag FD_DI_VALID n

/-! Scan classes (R332, R333). -/

/-- Periods of PD_SCAN.PERIOD in ns. -/
def scanPeriod (code : Nat) : Nat :=
  [125000, 250000, 500000, 1000000, 2000000, 5000000, 10000000, 20000000, 50000000, 100000000, 200000000, 500000000,
   1000000000, 2000000000, 5000000000, 10000000000].getD code 1000000

/-- Quality of a fine sample (Table 6.3). -/
def sampleQual (x : Smp) : Nat :=
  (if x.qual = 2 then qInvalid + qDetail 2 else if x.qual = 1 then qDetail 1 else 0)
    + (if x.word.get 29 29 = 1 then qOvr else 0) + (if x.stat.get 16 16 = 1 then qTest else 0)

/-- VALUE × SCALE + OFFSET in binary64. -/
def scaled (d : PtDef) (v : Int) : Nat :=
  fadd f64 (fmul f64 (ofInt f64 v) (convF f32 f64 d.op2)) (convF f32 f64 d.offset)

/-- What the source of a point of a class gives at a boundary `t`: value, quality and CTIME; none before the first sample. -/
def State.scanPoint (s : State) (t : Nat) (d : PtDef) : Option (Nat × Nat × Nat) :=
  if d.bind = 1 then
    some (fromI32 d.type (b2n (s.diVal d.op)), if s.diValid d.op then 0 else qInvalid + qDetail 7,
      s.nearSecond (s.rd FD_DI_LAST_SEC d.op) * 1000000000 + s.rd FD_DI_LAST_NS d.op)
  else
    ((s.fcChan d.op).fine.find? (fun x => decide (s.fineDue d.op x.t ≤ t))).map (fun x =>
      let v := fromF64 d.type (scaled d x.value)
      (v.1, if v.2 then qInvalid + qDetail 6 else sampleQual x, x.t))

/-- Points of a scan class. -/
def State.scanOf (s : State) (k : Nat) : List (Nat × PtDef) := (s.ptsOf 1 ++ s.ptsOf 2).filter (fun e => e.2.scan == k)

/-- Scanned values whose instant has come become visible (R332). -/
def State.scanShow (s : State) : State :=
  let l := s.pd.scanned.filter (fun o => decide (o.due ≤ s.elapsed))
  l.foldl (fun s o => o.vals.foldl (fun s v => s.ptSource v.1 v.2.1 v.2.2.1 v.2.2.2) s)
    { s with pd := { s.pd with scanned := s.pd.scanned.filter (fun o => decide (s.elapsed < o.due)) } }

/-- The boundary of a class at or before now. -/
def State.scanBound (s : State) (k : Nat) : Nat :=
  s.tai / scanPeriod (s.rd PD_SCAN_PERIOD k) * scanPeriod (s.rd PD_SCAN_PERIOD k)

/-- SCAN_CLASS_BOUNDARY (R332): the class's boundary at or before now, once, and not one of before the classes run again; its values
are visible 5 µs and 2 ns per point later. -/
def execScanClassBoundary (class_ : Nat) (s : State) : Res :=
  let b := s.tai / scanPeriod (s.rd PD_SCAN_PERIOD class_) + 1
  let t := s.scanBound class_
  if !s.scanOn || decide (16 ≤ class_) || !s.gridOk (scanPeriod (s.rd PD_SCAN_PERIOD class_))
      || b == mget (fun _ => 0) s.pd.scanAt class_ || decide (s.elapsedAt t < s.pd.scanFrom) then .next s
  else
    let l := s.scanOf class_
    let vals := l.filterMap (fun e => (s.scanPoint t e.2).map (fun v => (e.1, v)))
    .next (State.scanShow { s with pd := { s.pd with
      scanAt := mset (fun _ => 0) class_ b s.pd.scanAt
      scanned := s.pd.scanned ++ [⟨s.elapsedAt (t + 5000 + 2 * l.length), vals⟩] } })

/-! Station inputs (kind 0x6, R333). -/

/-- Little-endian value of bytes. -/
def leBytes : List Nat → Nat
  | [] => 0
  | b :: t => b % 256 + 256 * leBytes t

/-- Bytes that a value of a type takes. -/
def typeBytes (ty : Nat) : Nat := if ty = 0 then 1 else if ty = 1 ∨ ty = 2 ∨ ty = 4 then 4 else 8

/-- Raw value of a station point in a frame's bytes. -/
def stationRaw (d : PtDef) (bytes : List Nat) : Nat :=
  let b := (bytes.drop (d.op / 8 % 8192)).take (typeBytes d.type)
  if d.type = 0 then b2n (natBit (leBytes b) (d.op % 8))
  else if d.type = 1 then toSigned 64 (signedOf 32 (leBytes b))
  else leBytes b

/-- A station's input bytes reach its points, live or as substitutes. -/
def State.stationPoints (s : State) (stn : Nat) (bytes : List Nat) (live : Bool) : State :=
  (s.ptsOf 6).foldl (fun s e =>
    if e.2.op / 2 ^ 16 % 4096 = stn then
      s.ptSource e.1 (stationRaw e.2 bytes) (if live then 0 else qQuestionable + qSubst + qDetail 3) s.tai
    else s) s

/-! Protection points (kinds 0x3 to 0x5): standing demands at rank 0x8 (R333). -/

/-- The value that protection demands of a point. -/
def State.protValue (s : State) (d : PtDef) : Nat :=
  if d.bind = 3 then b2n (if d.op / 2048 % 2 = 0 then (s.el (d.op % 2048)).pu else (s.el (d.op % 2048)).op)
  else if d.bind = 4 then b2n (s.flag TM_TCH_ASSERTED (d.op % 32))
  else (s.word 0x11 0x11 (d.op % 32) 0).toNat

def standKey (i rank : Nat) : Nat := i * 16 + rank

/-- Place or withdraw a standing demand on a point. -/
def State.setStand (s : State) (i rank : Nat) (d : Option PDemand) : State :=
  { s with um := { s.um with stand := mset (fun _ => none) (standKey i rank) d s.um.stand } }

def State.standOf (s : State) (i rank : Nat) : Option PDemand := mget (fun _ => none) s.um.stand (standKey i rank)

/-- Renew the demand of every protection point whose value changed, stamped with a time (TAI ns). -/
def State.protPoints (s : State) (t : Nat) : State :=
  (s.ptsOf 3 ++ s.ptsOf 4 ++ s.ptsOf 5).foldl (fun s e =>
    let v := s.protValue e.2
    match s.standOf e.1 8 with
    | some d => if d.raw = v then s else s.setStand e.1 8 (some ⟨v, t⟩)
    | none => s.setStand e.1 8 (some ⟨v, t⟩)) s

/-! Sinks (kinds 0x8 and 0x9, R335). -/

/-- The bit a sink passes, or none to leave the last good one. -/
def State.sinkBit (s : State) (i : Nat) (d : PtDef) : Option Bool :=
  let r := s.ptRec i
  if !r.bad then some (notZero d.type r.raw)
  else if d.sinkBad = 0 then none else some (d.sinkBad == 2)

/-- Set bit `k` of a two-word object of bits. -/
def State.setBit64 (s : State) (lo hi : Field) (k : Nat) (b : Bool) : State :=
  if k < 32 then s.wr lo 0 (natSetBit (s.rd lo 0) k b) else s.wr hi 0 (natSetBit (s.rd hi 0) (k - 32) b)

/-- PE and TM take the bits at a pass boundary. -/
def State.takeSinks (s : State) : State :=
  let s1 := (s.ptsOf 8).foldl (fun s e => match s.sinkBit e.1 e.2 with
    | some b => s.setBit64 PE_XBLK_BITS_LO PE_XBLK_BITS_HI (e.2.op % 64) b
    | none => s) s
  (s.ptsOf 9).foldl (fun s e => match s.sinkBit e.1 e.2 with
    | some b => s.setBit64 TM_XIN_BITS_LO TM_XIN_BITS_HI (e.2.op % 64) b
    | none => s) s1

/-! Definitions (R330, R331). -/

/-- A definition record and its index. -/
def ptDefOf (ws : List W32) : Nat × PtDef :=
  let w (k : Nat) : W32 := ws.getD k 0
  ((w 0).get 22 0,
   { type := (w 0).get 31 29, safeDir := (w 0).get 28 27, record := (w 0).get 26 26 == 1, retain := (w 0).get 25 25 == 1,
     sinkBad := (w 0).get 24 23, bind := (w 1).get 31 28, scan := (w 1).get 27 24, op := (w 2).toNat, op2 := (w 3).toNat,
     deadband := (w 4).toNat, init := (w 5).toNat + (w 6).toNat * 2 ^ 32, offset := (w 7).toNat })

/-- A point's operand names something the variant lacks. -/
def State.ptAbsent (s : State) (d : PtDef) : Bool :=
  (d.bind == 3 && decide (s.nElem ≤ d.op % 2048)) || (d.bind == 2 && decide (s.nAin ≤ d.op) && decide (d.op < 64))
    || (d.bind == 7 && decide (s.nDev ≤ d.op2))

/-- A definition breaks R331 by itself. -/
def ptBadAlone (d : PtDef) (w1 : W32) : Bool :=
  let scale := d.op2
  d.type == 7 || d.safeDir == 3 || d.sinkBad == 3 || decide (10 ≤ d.bind) || w1.get 23 0 != 0 || !rawOk d.type d.init
  || (d.sinkBad != 0 && d.bind != 8 && d.bind != 9)
  || (d.bind != 1 && d.bind != 2 && d.bind != 7 && d.scan != 0)
  || (d.bind == 0 && d.op != 0) || (d.bind == 1 && decide (48 ≤ d.op)) || (d.bind == 2 && decide (96 ≤ d.op))
  || (d.bind == 3 && decide (4096 ≤ d.op)) || ((d.bind == 4 || d.bind == 5) && decide (32 ≤ d.op))
  || (d.bind == 6 && (decide (2 ^ 28 ≤ d.op) || (d.type != 0 && d.op % 8 != 0)))
  || (d.bind == 7 && (decide (2 ^ 23 ≤ d.op) || decide (1024 ≤ d.op2)))
  || ((d.bind == 8 || d.bind == 9) && decide (64 ≤ d.op))
  || (if d.bind = 2 then !finite f32 scale || feq f32 scale 0 || !finite f32 d.offset
      else d.offset != 0 || (d.op2 != 0 && d.bind != 7))
  || (if d.bind = 2 ∨ d.bind = 6 then !(finite f32 d.deadband && !natBit d.deadband 31) else d.deadband != 0)
  || ((d.bind == 3 || d.bind == 4 || d.bind == 8 || d.bind == 9) && d.type != 0) || (d.bind == 5 && d.type != 6)

/-- Points scanned per second, of a list of definitions, in units of points per 10 s. -/
def State.scanLoad (p : State) (defs : List (Nat × PtDef)) : Nat :=
  (List.range 16).foldl (fun a k =>
    a + (defs.filter (fun e => e.2.scan = k && (e.2.bind == 1 || e.2.bind == 2))).length
      * (10000000000 / scanPeriod (p.rd PD_SCAN_PERIOD k))) 0

/-- Points that selectors of loops and axes name. -/
def State.selPoints (p : State) : List Nat :=
  let sel (v : Nat) : List Nat := if v / 2 ^ 28 = 1 then [v % 2 ^ 23] else []
  (p.loops.foldl (fun l n => sel (p.rd LE_LOOP_PV_SRC n) ++ sel (p.rd LE_LOOP_SP_SRC n) ++ sel (p.rd LE_LOOP_FF_SRC n)
    ++ sel (p.rd LE_LOOP_TRK_SRC n) ++ sel (p.rd LE_LOOP_OUT_DST n) ++ l) [])
  ++ (p.axisList.foldl (fun l n => sel (p.rd AX_AXIS_FB_SRC n) ++ sel (p.rd AX_AXIS_VFB_SRC n)
    ++ sel (p.rd AX_AXIS_OUT_DST n) ++ l) [])

/-- Pinned points (R342). -/
def State.pinned (p : State) (defs : List (Nat × PtDef)) : Nat :=
  let kinds := (defs.filter (fun e => [3, 4, 5, 8, 9].contains e.2.bind)).map (·.1)
  let maps := ((p.listed 0x22 2 0).filter (fun k => p.flag PD_SBMAP_EN k)).map (fun k => p.rd PD_SBMAP_INDEX k)
  kinds.length + ((maps ++ p.selPoints).eraseDups.filter (fun i => !kinds.contains i)).length

/-- A definition is a sink (kinds 0x8 and 0x9). -/
def PtDef.isSink (d : PtDef) : Bool := d.bind == 8 || d.bind == 9

/-- The record `ws` offends after the definitions `before`: by itself, with one of them, or over a limit. -/
def State.pointFault (p : State) (before : List (Nat × PtDef)) (ws : List W32) (sinkWrites : PtDef → Bool) : Bool :=
  let e := ptDefOf ws
  let upTo := before ++ [e]
  ptBadAlone e.2 (ws.getD 1 0) || sinkWrites e.2
    || before.any (fun x => x.1 == e.1 || (e.2.isSink && x.2.bind == e.2.bind && x.2.op == e.2.op))
    || decide (262144 < (upTo.filter (fun x => x.2.bind == 7)).length) || decide (262144 < (upTo.filter (fun x => x.2.retain)).length)
    || decide (196608 < p.pinned upTo) || decide (500000000 < p.scanLoad upTo)

/-- The check of a points section (R331) over the settings `p` as they will stand; `sinkWrites` tells whether the image
also writes a sink's bit.  The first offending index. -/
def State.pointsBad (p : State) (recs : List (List W32)) (sinkWrites : PtDef → Bool) : Option Nat :=
  (recs.zipIdx.find? (fun e => p.pointFault ((recs.take e.2).map ptDefOf) e.1 sinkWrites)).map (fun e => (ptDefOf e.1).1)

/-- The first definition that names something absent. -/
def State.pointsAbsent (s : State) (recs : List (List W32)) : Bool := recs.any (fun ws => s.ptAbsent (ptDefOf ws).2)

/-- A point at a cold start (R345). -/
def coldRec (d : PtDef) (t : Nat) : PtRec :=
  ⟨d.init, 0, if d.bind = 0 ∨ d.bind = 8 ∨ d.bind = 9 then 0 else qInvalid + qDetail 8, ctimeOf t⟩

/-- Every defined point at a cold start. -/
def State.pointsCold (s : State) : State :=
  s.pd.defs.foldl (fun s e => match e.2 with
    | some d => s.putRec e.1 (coldRec d s.tai)
    | none => s) s

/-- A definition keeps the point's record. -/
def keepsRec (a b : PtDef) : Bool :=
  a.type == b.type && a.bind == b.bind && a.op == b.op && a.op2 == b.op2 && a.deadband == b.deadband && a.offset == b.offset

/-- Send a frame of point traffic. -/
def State.ptSend (s : State) (dev type : Nat) (ws : List Nat) : State :=
  let s1 : State := { s with pd := { s.pd with tx := dev :: type :: ws, txCount := s.pd.txCount + 1 } }
  s1.rbSend 2 type 0 dev 0 0 ws (s1.portsTo dev)

/-- Subscribe every mirror at its origin. -/
def State.subscribe (s : State) : State :=
  (s.ptsOf 7).foldl (fun s e =>
    s.ptSend e.2.op2 0x22 [s.rd PD_SCAN_PERIOD e.2.scan * 2 ^ 27 + e.2.op, 0]) s

/-- A point keeps its definition under a new set of definitions, or not: then it restarts, without its force. -/
def State.keepsPoint (s : State) (new : AMap (Option PtDef)) (i : Nat) : Bool :=
  match s.ptDef i, mget (fun _ => none) new i with
  | some a, some b => keepsRec a b
  | _, _ => false

/-- A points section replaces the whole set of definitions (R330, R557). -/
def State.pointsApply (s : State) (recs : List (List W32)) : State :=
  let defs := recs.map ptDefOf
  let new := defs.foldl (fun m e => mset (fun _ => none) e.1 (some e.2) m) []
  let recs' := defs.foldl (fun m e =>
    mset (fun _ => PtRec.zero) e.1 (if s.keepsPoint new e.1 then s.ptRec e.1 else coldRec e.2 s.tai) m) []
  let p : PdSt := { s.pd with
    defs := new
    recs := recs'
    mirrors := s.pd.mirrors.filter (fun e => s.keepsPoint new e.1)
    forces := s.pd.forces.filter (fun e => s.keepsPoint new e.1) }
  let s1 : State := { s with pd := p }
  let s2 : State := { s1 with um := { s1.um with stand := s1.um.stand.filter (fun e =>
    (mget (fun _ => none) new (e.1 / 16)).isSome && e.1 % 16 != 8 && (e.1 % 16 != 7 || s.keepsPoint new (e.1 / 16))) } }
  ((s2.protPoints s2.tai).mapBump s).subscribe

/-! Checks of PD settings (R341, R353). -/

/-- Words that a map entry takes. -/
def State.sbmapSpan (s : State) (k : Nat) : Nat × Nat :=
  (s.rd PD_SBMAP_WORD k, s.rd PD_SBMAP_WORD k + (if s.rd PD_SBMAP_FORM k = 4 then 5 else 1))

def pdBad (p : State) (grp i : Nat) : Bool :=
  if grp = 2 then
    let a := p.sbmapSpan i
    decide (5 ≤ p.rd PD_SBMAP_FORM i) || decide (a.1 < 0x1000) || decide (0x4000 < a.2)
      || (p.flag PD_SBMAP_EN i && (p.listed 0x22 2 0).any (fun k => k != i && p.flag PD_SBMAP_EN k
        && decide ((p.sbmapSpan k).1 < a.2) && decide (a.1 < (p.sbmapSpan k).2)))
  else if grp = 1 then
    decide (500000000 < p.scanLoad (p.pd.defs.filterMap (fun e => e.2.map (fun d => (e.1, d)))))
  else false

/-! Status of the directory (PD_STAT, PD_SCAN.POINTS). -/

def State.pdDefined (s : State) : Nat := s.pd.defs.length
def State.pdRetained (s : State) : Nat := (s.pd.defs.filter (fun e => match e.2 with
  | some d => d.retain
  | none => false)).length
def State.pdMirrors (s : State) : Nat := (s.ptsOf 7).length
def State.mirror (s : State) (i : Nat) : MirSt := mget (fun _ => MirSt.init) s.pd.mirrors i
def State.pdStale (s : State) : Nat := ((s.ptsOf 7).filter (fun e => (s.mirror e.1).stale)).length
def State.forced (s : State) : List Nat :=
  (s.pd.forces.map (·.1)) ++ (s.um.stand.filter (fun e => e.1 % 16 == 7)).map (fun e => e.1 / 16)
def State.scanCount (s : State) (k : Nat) : Nat := ((s.ptsOf 1 ++ s.ptsOf 2).filter (fun e => e.2.scan == k)).length

/-! Mirrors (R338). -/

def State.setMirror (s : State) (i : Nat) (m : MirSt) : State :=
  { s with pd := { s.pd with mirrors := mset (fun _ => MirSt.init) i m s.pd.mirrors } }

/-- One record of a PT_REC frame from a device: every mirror of that point shows it. -/
def State.mirrorRec (s : State) (dev : Nat) (r : List W32) : State :=
  let w (k : Nat) : Nat := (r.getD k 0).toNat
  (s.ptsOf 7).foldl (fun s e =>
    if e.2.op2 = dev ∧ e.2.op = w 0 % 2 ^ 23 then
      let s1 := s.setMirror e.1 ⟨s.elapsed + 1, false, false⟩
      let raw := w 2 + w 3 * 2 ^ 32
      let old := s1.ptRec e.1
      let new : PtRec := ⟨raw, w 4 / 2 ^ 16 % 256, w 4 % 2 ^ 16, w 5⟩
      let s2 := s1.putRec e.1 new
      if e.2.record && (old.raw != raw || old.high != new.high) then s2.pdHand ⟨e.1, raw, new.high, s.fullTime (w 5)⟩ else s2
    else s) s

/-- Blocks of six words. -/
def blocks6 : Nat → List W32 → List (List W32)
  | 0, _ => []
  | n + 1, l => l.take 6 :: blocks6 n (l.drop 6)

/-- MIRROR_RECORD_RECEIVE (R338, R479): a PT_REC frame; records with a request tag answer no mirror. -/
def execMirrorRecordReceive (src : Nat) (words : List W32) (s : State) : Res :=
  let n := (words.getD 0 0).get 15 0
  if !s.umOn || n = 0 || decide (256 < n) || words.length != 2 + 6 * n then .next s
  else .next ((blocks6 n (words.drop 2)).foldl (fun s r => if (r.getD 1 0) = 0 then s.mirrorRec src r else s) s)

/-- Quality of a mirror that is stale, or whose origin sleeps. -/
def State.mirrorOld (s : State) (i q : Nat) : State :=
  s.ptQual i (natPut (natSetBit (natPut (s.ptRec i).qual 15 14 q) 10 true) 7 4 4) s.tai

/-- A mirror enters the stale state; MIRROR_STALE goes out at most once per second. -/
def State.mirrorStale (s : State) (i dev : Nat) : State :=
  let s1 := (s.setMirror i { s.mirror i with stale := true }).mirrorOld i 1
  let first := if s1.pd.staleCnt = 0 then i else s1.pd.staleFirst
  let n := s1.pd.staleCnt + 1
  if s1.pd.staleAt = 0 ∨ s1.pd.staleAt + unitsPerSec ≤ s1.elapsed + 1 then
    let s2 : State := { s1 with pd := { s1.pd with staleCnt := 0, staleFirst := 0, staleAt := s1.elapsed + 1 } }
    s2.notify 0x22 1 1 first dev n 0
  else { s1 with pd := { s1.pd with staleCnt := n, staleFirst := first } }

/-- MIRROR_STALE (R338): twice the period plus 2 ms without a record, or the link to the origin is marked failed. -/
def execMirrorStale (index : Nat) (s : State) : Res :=
  match s.ptDef index with
  | none => .next s
  | some d =>
    let m := s.mirror index
    let dv := mget (fun _ => DevSt.init) s.tm.devs d.op2
    let late := decide (m.rx + (2 * scanPeriod (s.rd PD_SCAN_PERIOD d.scan) + 2000000) * 4 / 5 ≤ s.elapsed + 1)
    if s.umOn && d.bind == 7 && !m.stale && !m.asleep && (late || dv.lost) then .next (s.mirrorStale index d.op2)
    else .next s

/-- The link to an origin is marked failed: its mirrors are stale at once. -/
def State.mirrorsLost (s : State) (dev : Nat) : State :=
  (s.ptsOf 7).foldl (fun s e =>
    if e.2.op2 == dev && !(s.mirror e.1).stale && !(s.mirror e.1).asleep then s.mirrorStale e.1 dev else s) s

/-- The origin announced SENTINEL: its mirrors keep their value, questionable and old. -/
def State.mirrorsAsleep (s : State) (dev : Nat) : State :=
  (s.ptsOf 7).foldl (fun s e =>
    if e.2.op2 = dev then (s.setMirror e.1 { s.mirror e.1 with asleep := true, stale := false }).mirrorOld e.1 3 else s) s

/-! Subscriptions served (R338, R479). -/

/-- Send a record to a subscriber. -/
def State.sendRec (s : State) (x : SubSt) : State :=
  let ws := s.ptWords x.index
  let s1 := s.ptSend x.dev 0x23 ([1, 0, x.index, 0] ++ ws)
  { s1 with pd := { s1.pd with subs := s1.pd.subs.map (fun y =>
    if y.dev = x.dev ∧ y.index = x.index then { y with sentAt := s.elapsed + 1, sent := ws } else y) } }

/-- PT_SUB_RECEIVE: subscribe, renew or cancel; at most 262,144 are served. -/
def execPtSubReceive (src : Nat) (words : List W32) (s : State) : Res :=
  let w := words.getD 0 0
  let i := w.get 22 0
  let rest := s.pd.subs.filter (fun x => !(x.dev == src && x.index == i))
  if !s.umOn || words.length != 2 then .next s
  else if w.get 31 31 = 1 then .next { s with pd := { s.pd with subs := rest } }
  else if 262144 ≤ rest.length then .next s
  else
    let x : SubSt := ⟨src, i, w.get 30 27, 0, []⟩
    .next (State.sendRec { s with pd := { s.pd with subs := rest ++ [x] } } x)

/-- Records that changed since they were last sent go out, at most once per 125 µs each. -/
def State.sendChanged (s : State) : State :=
  s.pd.subs.foldl (fun s x =>
    if s.ptWords x.index != x.sent && decide (x.sentAt + usUnits125 ≤ s.elapsed + 1) then s.sendRec x else s) s
where
  usUnits125 : Nat := 125 * 800

/-- ORIGIN_PERIOD_BOUNDARY (R338): every subscription of the period gets its record. -/
def execOriginPeriodBoundary (code : Nat) (s : State) : Res :=
  let b := s.tai / scanPeriod code + 1
  if !s.umOn || decide (16 ≤ code) || b == mget (fun _ => 0) s.pd.originAt code then .next s
  else
    let s1 : State := { s with pd := { s.pd with originAt := mset (fun _ => 0) code b s.pd.originAt } }
    .next (s1.pd.subs.foldl (fun s x => if x.period = code then s.sendRec x else s) s1)

end Sys2Proof.Machine
end

