-- ==== Sys2Proof/Machine/Trip.lean ====
section
/-! DEFINITION. The trip path (08_trip_path.md): the trip matrix and its channels, latch resets, test block, breakers and
breaker failure, remote bits, zones, and the checks of TM settings. -/

namespace Sys2Proof.Machine

open Sys2Proof

/-- PE and TM run: from local protection ready on, while the paths run, until a hardware fault of the partition (R209, R234,
Table 1.4). -/
def State.protOn (s : State) : Bool := s.pathsOn && (s.mo.coldBoot || s.mo.boot == .done) && !s.mo.protFail

def State.tch (s : State) (c : Nat) : TmChan := mget (fun _ => TmChan.init) s.tm.ch c

def State.setTch (s : State) (c : Nat) (x : TmChan) : State :=
  { s with tm := { s.tm with ch := mset (fun _ => TmChan.init) c x s.tm.ch } }

def State.brk (s : State) (n : Nat) : TmBrk := mget (fun _ => TmBrk.init) s.tm.brk n

def State.setBrk (s : State) (n : Nat) (x : TmBrk) : State :=
  { s with tm := { s.tm with brk := mset (fun _ => TmBrk.init) n x s.tm.brk } }

def State.dev (s : State) (d : Nat) : DevSt := mget (fun _ => DevSt.init) s.tm.devs d

def State.setDev (s : State) (d : Nat) (x : DevSt) : State :=
  { s with tm := { s.tm with devs := mset (fun _ => DevSt.init) d x s.tm.devs } }

/-- Elapsed units of 1.25 ns in `n` µs. -/
def usUnits (n : Nat) : Nat := n * 800

/-- The link towards a device is marked failed (R477): no TOPO frame for 3 ms, be it one that never sent any; not while it sleeps. -/
def State.linkFailed (s : State) (d : Nat) : Bool :=
  (s.dev d).mode != 5 && ((s.dev d).lost || ((s.dev d).topoAt == 0 && decide (usUnits 3000 ≤ s.elapsed)))

/-! The matrix (R211, R212). -/

/-- Bit of a channel's source mask. -/
def State.maskBit (s : State) (c idx : Nat) : Bool := natBit (s.rdk TM_MASK_W c (idx / 32)) (idx % 32)

/-- Bit of TM_XIN. -/
def State.xin (s : State) (k : Nat) : Bool :=
  if k < 32 then natBit (s.rd TM_XIN_BITS_LO 0) k else if k < 64 then natBit (s.rd TM_XIN_BITS_HI 0) (k - 32) else false

/-- The source state of a channel: the OR of its masked sources (Table 8.1). -/
def State.srcState (s : State) (c : Nat) : Bool :=
  s.pe.el.any (fun e => (e.2.op && s.maskBit c e.1) || (e.2.pu && s.maskBit c (0x800 + e.1)))
    || (List.range 64).any (fun k => (s.maskBit c (0x1000 + k) && s.xin k) || (s.maskBit c (0x1040 + k) && s.flag TM_RX_VAL k))
    || (List.range 32).any (fun k => (s.maskBit c (0x1080 + k) && s.flag TM_BRKST_RETRIP k)
        || (s.maskBit c (0x10A0 + k) && s.flag TM_BRKST_BACKUP k))

/-- MIN_ON of an asserted channel has run. -/
def State.minOnDone (s : State) (c : Nat) : Bool :=
  decide ((s.tch c).onAt + usUnits (s.rd TM_TCH_MIN_ON c) ≤ s.elapsed)

/-- A record of a channel. -/
def State.tchRecord (s : State) (kind c : Nat) (prio : Bool) : State :=
  s.stateRec 0x11 kind c (s.word 0x11 1 c 2).toNat 0 0 prio

/-- A change of the test block takes effect (R214). -/
def State.tblkApply (s : State) (c : Nat) : State :=
  let b := s.rd TM_TCH_TBLK c
  let s1 := s.wr TM_TCH_TBLK_PEND c 0
  if b = s.rd TM_TCH_TBLK_EFF c then s1
  else ((s1.wr TM_TCH_TBLK_EFF c b).tchRecord 4 c false).notify 0x11 5 1 c b 0 0

/-- A channel asserts. -/
def State.tchAssert (s : State) (c : Nat) : State :=
  let s1 := s.setTch c { onAt := s.elapsed, rstPend := false }
  let s2 := ((s1.wr TM_TCH_ASSERTED c 1).wr TM_TCH_LATCHED c (b2n (s.rd TM_TCH_LATCH c == 1))).wrapInc TM_TCH_COUNT c 1
  ((((s2.wr TM_TCH_LAST_NS c s.now.ns).wr TM_TCH_LAST_SEC c s.now.sec).tchRecord 1 c true).drFire 3 c 3 s.tai).sbCause
    HE_INTCTL_SB_TRIP 2

/-- A channel deasserts, and a pending test-block change takes effect. -/
def State.tchDeassert (s : State) (c : Nat) : State :=
  let latched := s.flag TM_TCH_LATCHED c
  let s1 := ((s.setTch c { s.tch c with rstPend := false }).wr TM_TCH_ASSERTED c 0).wr TM_TCH_LATCHED c 0
  let s2 := (s1.tchRecord 2 c true).sbCause HE_INTCTL_SB_TRIP 2
  let s3 := if latched then s2.tchRecord 3 c false else s2
  if s3.flag TM_TCH_TBLK_PEND c then s3.tblkApply c else s3

/-- One channel in one fabric cycle: its source state, then its assertion, deassertion or the judgement of a pending
reset (R212, R213). -/
def State.tchStep (s : State) (c : Nat) : State :=
  let src := s.srcState c
  let s0 := s.setFlag TM_TCH_SRC c src
  if !s0.flag TM_TCH_ASSERTED c then (if src then s0.tchAssert c else s0)
  else if !s0.minOnDone c then s0
  else if s0.rd TM_TCH_LATCH c != 1 then (if src then s0 else s0.tchDeassert c)
  else if (s0.tch c).rstPend then
    if src then (s0.setTch c { s0.tch c with rstPend := false }).bump TM_TCH_RSTIGN c 1 else s0.tchDeassert c
  else s0

/-- Channels asserted, as a word (SB word 0x0190); asserted and not test-blocked. -/
def State.tchWord (_s : State) (p : Nat → Bool) : Nat :=
  (List.range 32).foldl (fun w c => if p c then w + 2 ^ c else w) 0

def State.assertedWord (s : State) : Nat := s.tchWord (fun c => s.flag TM_TCH_ASSERTED c)
def State.latchedWord (s : State) : Nat := s.tchWord (fun c => s.flag TM_TCH_LATCHED c)
def State.drives (s : State) (c : Nat) : Bool := s.flag TM_TCH_ASSERTED c && !s.flag TM_TCH_TBLK_EFF c

/-- DO_(24+k) is driven by a channel (R216). -/
def State.tripDrives (s : State) (k : Nat) : Bool :=
  (List.range 32).any (fun c => s.drives c && natBit (s.rd TM_TCH_OUT c) k)

/-- TRIP_ASSERT_N is low (R216). -/
def State.tripAssertLow (s : State) : Bool := (List.range 32).any (fun c => s.drives c && s.flag TM_TCH_TA c)

/-! Protection messages (R217, R474). -/

/-- MASK and STATE of the TRIP frame. -/
def State.tripMask (s : State) : Nat := s.tchWord (fun c => s.flag TM_TCH_RB c)
def State.tripState (s : State) : Nat := s.tchWord (fun c => s.flag TM_TCH_RB c && s.drives c)

/-- Send a TRIP frame stamped with the last change. -/
def State.sendTrip (s : State) (changed : Bool) : State :=
  let t := if changed then [s.now.sec % 2 ^ 32, s.now.ns] else s.tm.tx.words.drop 2
  let ws := [s.tripMask, s.tripState] ++ t
  let s1 : State := { s with tm := { s.tm with tx := ⟨ws, s.elapsed, s.tm.tx.count + 1⟩ } }
  s1.rbSend 0 0x01 1 0 0 0 ws s1.portsUp

/-- Send one at every change of the state of the channels with RB = 1. -/
def State.tripMessage (s : State) : State :=
  if s.flag RB_CFG_EN 0 && s.tm.tx.words.take 2 != [s.tripMask, s.tripState] then s.sendTrip true else s

/-! Breakers (R220 to R223). -/

/-- A record of a breaker. -/
def State.brkRecord (s : State) (kind n : Nat) (prio : Bool) : State :=
  s.stateRec 0x11 kind n (s.word 0x11 0x11 n 0).toNat 0 0 prio

/-- A named TM_XIN bit, false for none. -/
def State.xinOf (s : State) (k : Nat) : Bool := decide (k < 64) && s.xin k

/-- TRIP of a breaker. -/
def State.brkTrip (s : State) (n : Nat) : Bool :=
  s.flag TM_BRK_EN n && (List.range 32).any (fun c => natBit (s.rd TM_BRK_TRIP_MASK n) c && s.drives c)

def State.recent (s : State) (t : Option Nat) (us : Nat) : Bool :=
  match t with
  | some x => decide (s.elapsed ≤ x + usUnits us)
  | none => false

/-- The current criterion. -/
def State.brkCur (s : State) (n : Nat) : Bool :=
  s.flag TM_BRK_CUR_EN n && (s.recent (s.brk n).aboveAt (s.rd TM_BRK_CCW n) || s.recent (s.brk n).invalidAt (s.rd TM_BRK_CCW n))

/-- The breaker-failure criterion (R221). -/
def State.brkCrit (s : State) (n : Nat) : Bool :=
  let contact := s.rd TM_BRKST_POS n != 1
  match s.rd TM_BRK_BF_MODE n with
  | 0 => s.brkCur n
  | 1 => s.brkCur n || contact
  | _ => contact

/-- CLOSE_INH (R223). -/
def State.closeInh (s : State) (n : Nat) : Bool :=
  s.flag TM_BRK_EN n && (s.flag TM_BRKST_TRIP n || s.flag TM_BRKST_BF_RUN n || s.flag TM_BRKST_BACKUP n
    || s.rd TM_BRKST_POS n == 3 || (s.flag TM_BRK_INH_EN n && (s.el (s.rd TM_BRK_INH_EL n)).op))

/-- End RUNNING: bits off, the duration kept. -/
def State.bfEnd (s : State) (n : Nat) : State :=
  let r := s.flag TM_BRKST_RETRIP n
  let b := s.flag TM_BRKST_BACKUP n
  let s1 := (((s.wr TM_BRKST_BF_RUN n 0).wr TM_BRKST_RETRIP n 0).wr TM_BRKST_BACKUP n 0).wr TM_BRKST_CLR_US n
    ((s.elapsed - (s.brk n).bfAt) / 800)
  let s2 := s1.brkRecord 0x11 n true
  let s3 := if r then s2.brkRecord 0x12 n true else s2
  if b then s3.brkRecord 0x13 n true else s3

/-- Breaker failure is initiated (R222). -/
def State.bfInit (s : State) (n : Nat) : Bool := s.brkTrip n || s.xinOf (s.rd TM_BRK_BFI_X n)

/-- A running breaker failure goes on (Table 8.4): the criterion holds, and with NOSEAL initiation too. -/
def State.bfGoes (s : State) (n : Nat) : Bool := s.brkCrit n && (!s.flag TM_BRK_BF_NOSEAL n || s.bfInit n)

/-- A breaker: TRIP, the criterion and, with `due` at an 800 ns tick, the transitions of Table 8.4 that no timer makes; CLOSE_INH. -/
def State.brkStep (due : Bool) (s : State) (n : Nat) : State :=
  let trip := s.brkTrip n
  let s0 := if trip && !s.flag TM_BRKST_TRIP n then s.wrapInc TM_BRKST_TRIPS n 1 else s
  let s1 := ((s0.setFlag TM_BRKST_TRIP n trip).setFlag TM_BRKST_CUR n (s0.brkCur n)).setFlag TM_BRKST_CUR_Q n
    (s.flag TM_BRK_CUR_EN n && s.recent (s.brk n).invalidAt (s.rd TM_BRK_CCW n))
  let s2 := if !due then s1
    else if s1.flag TM_BRKST_BF_RUN n then (if s1.bfGoes n then s1 else s1.bfEnd n)
    else if s1.bfInit n && s1.brkCrit n then ((s1.setBrk n { s1.brk n with bfAt := s1.elapsed }).wr TM_BRKST_BF_RUN n 1).brkRecord 0x11 n true
    else s1
  s2.setFlag TM_BRKST_CLOSE_INH n (s2.closeInh n)

/-- Active breakers. -/
def State.brks (s : State) : List Nat := (List.range 32).filter (fun n => s.flag TM_BRK_EN n)

/-- One fabric cycle of TM (R212): the matrix, the breakers, the message.  The breakers' transitions keep the 800 ns ticks of the
fast path (R221, R222); a retrip or backup bit that changes reaches the channels in the next cycle. -/
def State.tmStep (s : State) : State :=
  if !s.protOn then s
  else
    let s1 := (List.range 32).foldl State.tchStep s
    let tk := s.tai / 800 + 1
    let s2 := s1.brks.foldl (State.brkStep (s.tm.bfTick != tk)) s1
    let s3 : State := { s2 with tm := { s2.tm with bfTick := tk } }
    s3.tripMessage.protPoints s3.tai

/-- Position of a breaker from its contacts: some code, or none while they contradict. -/
def State.contactPos (s : State) (n : Nat) : Option Nat :=
  let a := s.rd TM_BRK_AUXA n
  let b := s.rd TM_BRK_AUXB n
  let one (x : Bool) : Nat := if x then 2 else 1
  if a < 64 ∧ b < 64 then (if s.xin a == s.xin b then none else some (one (s.xin a)))
  else if a < 64 then some (one (s.xin a))
  else if b < 64 then some (one (!s.xin b))
  else some 0

/-- Set POS, with its record and, on invalid, its notification. -/
def State.setPos (s : State) (n p : Nat) : State :=
  if s.rd TM_BRKST_POS n = p then s
  else
    let s1 := (s.wr TM_BRKST_POS n p).brkRecord 0x10 n false
    if p = 3 then (s1.wr TM_BRKST_DISC_SEEN n 1).notify 0x11 3 1 n 0 0 0 else s1

/-- POS at a pass boundary (R220). -/
def State.posStep (s : State) (n : Nat) : State :=
  match s.contactPos n with
  | some p => (s.setBrk n { s.brk n with discAt := none }).setPos n p
  | none => if (s.brk n).discAt.isSome then s else s.setBrk n { s.brk n with discAt := some s.elapsed }

/-- BREAKER_POS_DISC_EXPIRY (R220). -/
def execBreakerPosDiscExpiry (breaker : Nat) (s : State) : Res :=
  if s.protOn && decide (breaker < 32) && s.flag TM_BRK_EN breaker && (s.contactPos breaker).isNone then
    match (s.brk breaker).discAt with
    | some t =>
      if decide (t + usUnits (1000 * s.rd TM_BRK_DISC_T breaker) ≤ s.elapsed) then .next ((s.setPos breaker 3).tmStep) else .next s
    | none => .next s
  else .next s

/-- BF_RETRIP_TIMER (R222): while RUNNING goes on. -/
def execBfRetripTimer (breaker : Nat) (s : State) : Res :=
  if s.protOn && decide (breaker < 32) && s.flag TM_BRKST_BF_RUN breaker && s.bfGoes breaker && s.flag TM_BRK_RT_EN breaker
      && !s.flag TM_BRKST_RETRIP breaker && decide ((s.brk breaker).bfAt + usUnits (s.rd TM_BRK_RT_T breaker) ≤ s.elapsed) then
    let s1 := ((s.wr TM_BRKST_RETRIP breaker 1).wr TM_BRKST_RT_SEEN breaker 1).brkRecord 0x12 breaker true
    .next (s1.notify 0x11 1 0 breaker 0 0 0).tmStep
  else .next s

/-- BF_BACKUP_TIMER (R222): while RUNNING goes on. -/
def execBfBackupTimer (breaker : Nat) (s : State) : Res :=
  if s.protOn && decide (breaker < 32) && s.flag TM_BRKST_BF_RUN breaker && s.bfGoes breaker && !s.flag TM_BRKST_BACKUP breaker
      && decide ((s.brk breaker).bfAt + usUnits (s.rd TM_BRK_BF_T breaker) ≤ s.elapsed) then
    let s1 := (((s.wr TM_BRKST_BACKUP breaker 1).wr TM_BRKST_BF_SEEN breaker 1).wrapInc TM_BRKST_BFOPS breaker 1).brkRecord
      0x13 breaker true
    .next ((s1.drFire 5 breaker 3 s1.tai).notify 0x11 2 0 breaker s1.assertedWord 0 0).tmStep
  else .next s

/-- The breakers' current samples (R221). -/
def State.brkSample (s : State) (c : Nat) (x : Smp) : State :=
  s.brks.foldl (fun s n =>
    let g := s.rd TM_BRK_CUR_GRP n
    if s.flag TM_BRK_CUR_EN n && [s.rd PE_MEAS_CH_A g, s.rd PE_MEAS_CH_B g, s.rd PE_MEAS_CH_C g].contains c then
      if x.qual = 2 then s.setBrk n { s.brk n with invalidAt := some s.elapsed }
      else if s.rd TM_BRK_IBF n ≤ x.value.natAbs then s.setBrk n { s.brk n with aboveAt := some s.elapsed } else s
    else s) s

/-! Latch resets (R213). -/

/-- A latch reset of one channel; while one is pending, further ones change nothing. -/
def State.latchReset (s : State) (c : Nat) : State :=
  if s.rd TM_TCH_LATCH c = 1 ∧ s.flag TM_TCH_LATCHED c = true ∧ (s.tch c).rstPend = false then
    if s.srcState c then s.bump TM_TCH_RSTIGN c 1
    else if s.minOnDone c then s.tchDeassert c
    else s.setTch c { s.tch c with rstPend := true }
  else s

/-- LATCH_RESET (R213): the channels of a mask. -/
def State.latchResets (s : State) (mask : Nat) : State :=
  ((List.range 32).filter (fun c => natBit mask c)).foldl State.latchReset s

def execLatchReset (mask : W32) (s : State) : Res :=
  if s.protOn then .next (s.latchResets mask.toNat).tmStep else .next s

/-- MIN_ON_EXPIRY (R212, R213). -/
def execMinOnExpiry (channel : Nat) (s : State) : Res :=
  if s.protOn && decide (channel < 32) && s.flag TM_TCH_ASSERTED channel && s.minOnDone channel then .next s.tmStep else .next s

/-! Remote bits (R217). -/

/-- A remote bit becomes stale. -/
def State.rxStale (s : State) (k : Nat) : State :=
  ((s.wr TM_RX_STALE k 1).wr TM_RX_VAL k (s.rd TM_RX_SUBST k)).notify 0x11 4 2 k (s.rd TM_RX_DEVID k) 0 0

/-- No message from the device of a remote bit for 2 ms, or the link to it is marked failed. -/
def State.rxSilent (s : State) (k : Nat) : Bool :=
  let d := s.rd TM_RX_DEVID k
  decide (mget (fun _ => 0) s.tm.rxAt d + usUnits 2000 ≤ s.elapsed + 1) || s.linkFailed d

/-- A remote bit as its mapping, its device and its last message make it: 0 for a device that sleeps, SUBST while stale. -/
def State.rxJudge (s : State) (k : Nat) : State :=
  let d := s.rd TM_RX_DEVID k
  if !s.flag TM_RX_EN k || (s.dev d).mode == 5 then (s.wr TM_RX_VAL k 0).wr TM_RX_STALE k 0
  else if !s.rxSilent k then
    (s.setFlag TM_RX_VAL k (natBit (mget (fun _ => 0) s.tm.rxBits d) (s.rd TM_RX_CH k))).wr TM_RX_STALE k 0
  else if s.flag TM_RX_STALE k then s.wr TM_RX_VAL k (s.rd TM_RX_SUBST k)
  else s.rxStale k

/-- The remote bits mapped on a device, judged again. -/
def State.rxOf (s : State) (d : Nat) : State :=
  ((List.range 64).filter (fun k => s.flag TM_RX_EN k && s.rd TM_RX_DEVID k == d)).foldl State.rxJudge s

/-- TRIP_FRAME_RECEIVE (R217, R474): payload words MASK, STATE, SEC, NS from a device. -/
def execTripFrameReceive (src : Nat) (words : List W32) (s : State) : Res :=
  if !s.protOn || words.length != 4 then .next s
  else
    let st := (words.getD 1 0).toNat
    let s1 := { s with tm := { s.tm with
      rxBits := mset (fun _ => 0) src st s.tm.rxBits
      rxAt := mset (fun _ => 0) src (s.elapsed + 1) s.tm.rxAt } }
    .next (s1.rxOf src).tmStep

/-- A peer announced SENTINEL: its remote bits are 0 and not stale. -/
def State.remoteAsleep (s : State) (d : Nat) : State :=
  ((List.range 64).filter (fun k => s.flag TM_RX_EN k && s.rd TM_RX_DEVID k == d)).foldl
    (fun s k => (s.wr TM_RX_VAL k 0).wr TM_RX_STALE k 0) s

/-- REMOTE_BIT_STALE (R217). -/
def execRemoteBitStale (bit : Nat) (s : State) : Res :=
  if s.protOn && decide (bit < 64) && s.flag TM_RX_EN bit && !s.flag TM_RX_STALE bit && (s.dev (s.rd TM_RX_DEVID bit)).mode != 5
      && s.rxSilent bit then
    .next (s.rxStale bit).tmStep
  else .next s

/-- PROTECTION_MESSAGE_REPEAT (R217). -/
def execProtectionMessageRepeat (s : State) : Res :=
  if s.protOn && s.flag RB_CFG_EN 0 && decide (s.tm.tx.time + usUnits 500 ≤ s.elapsed) then .next (s.sendTrip false) else .next s

/-! Zones (R226 to R233). -/

def State.zmember (s : State) (z d : Nat) : Option ZMember := mget (fun _ => none) (s.zoneSt z).members d

def State.setMember (s : State) (z d : Nat) (m : ZMember) : State :=
  s.setZone z { s.zoneSt z with members := mset (fun _ => none) d (some m) (s.zoneSt z).members }

/-- The deadline of a stamp of a zone (R228). -/
def State.zoneDeadline (s : State) (z stamp : Nat) : Nat := stamp + 5 * s.zonePeriod z + s.zlat z

/-- One slot block of a ZONE frame. -/
def State.zoneBlock (s : State) (z src stamp : Nat) (b : List W32) : State :=
  let w := b.getD 0 0
  let k := w.get 29 24
  if s.rdk TM_ZONE_SLOT_EN z k = 1 ∧ s.rdk TM_ZONE_DEVID z k = src then
    if s.zoneDeadline z stamp < s.tai then s.bump TM_ZSTAT_LATE z 1
    else
      let put (s : State) (ph rsn : Nat) : State :=
        let c := remoteChan z k ph
        let word := b.getD (1 + ph) 0
        let smp : Smp := ⟨stamp, word, statWord (word.get 31 30) (rsn / 16) rsn 0 0⟩
        if (s.fcChan c).fine.any (fun x => x.t == stamp) then s
        else s.setFcChan c { s.fcChan c with fine := (smp :: (s.fcChan c).fine).take 32 }
      put (put (put s 0 (w.get 23 16)) 1 (w.get 15 8)) 2 (w.get 7 0)
  else s

/-- Split a list into blocks of four. -/
def blocks4 : Nat → List W32 → List (List W32)
  | 0, _ => []
  | n + 1, l => l.take 4 :: blocks4 n (l.drop 4)

/-- ZONE_FRAME_RECEIVE (R228, R475, Table 17.6). -/
def execZoneFrameReceive (src : Nat) (words : List W32) (s : State) : Res :=
  let w (k : Nat) : W32 := words.getD k 0
  if !s.protOn || !(s.var == .cpx9640) then .next s
  else match (List.range 8).find? (fun z => s.flag TM_ZONE_EN z && s.rd TM_ZONE_ZID z == (w 0).get 31 16) with
    | none => .next (s.setDev src { s.dev src with otherAt := s.elapsed + 1 })
    | some z =>
      let stamp := s.nearSecond (w 2).toNat * 1000000000 + (w 3).get 29 0
      let s1 := s.setMember z src { crc := (w 1).toNat, zblk := (w 0).get 15 15 == 1, time := (w 0).get 14 13,
                                    age := (w 0).get 12 0, heardAt := s.elapsed + 1 }
      .next ((blocks4 ((w 4).get 5 0) (words.drop 6)).foldl (fun s b => s.zoneBlock z src stamp b) s1)

/-- ZONE_SAMPLE_DEADLINE (R228): a stamp missing from a remote slot counts once. -/
def execZoneSampleDeadline (zone slot stamp : Nat) (s : State) : Res :=
  let c := remoteChan zone slot 0
  let x := s.fcChan c
  if s.protOn && decide (zone < 8) && decide (slot < 64) && s.flag TM_ZONE_EN zone && s.rdk TM_ZONE_SLOT_EN zone slot == 1
      && s.rdk TM_ZONE_DEVID zone slot != s.localDev && decide (s.zoneDeadline zone stamp ≤ s.tai)
      && !x.fine.any (fun f => f.t == stamp) && !x.fineMarks.any (fun m => m.a == stamp) then
    .next ((s.setFcChan c { x with fineMarks := (⟨stamp, stamp, false, 0⟩ :: x.fineMarks).take 32 }).bump TM_ZSTAT_GAPS zone 1)
  else .next s

/-- Devices that hold slots of a zone, in slot order. -/
def State.zoneDevs (s : State) (z : Nat) : List Nat := ((s.zoneSlots z).map (fun k => s.rdk TM_ZONE_DEVID z k)).eraseDups

/-- This device is time-blocked for zones: not locked since BOOT, or more than 10 s in holdover. -/
def State.localTimeBad (s : State) : Bool :=
  !s.tu.ever || (s.holdover && decide (s.tu.holdSince + 10 * unitsPerSec < s.elapsed))

/-- Time state of this device as a zone frame carries it. -/
def State.zoneTime (s : State) : Nat × Nat :=
  if !s.tu.ever then (2, 0)
  else if s.holdover then (1, min 8191 ((s.elapsed - s.tu.holdSince) / unitsPerSec)) else (0, 0)

/-- When a member's last frame of a zone came, as elapsed time plus one. -/
def State.heardAt (s : State) (z d : Nat) : Nat := match s.zmember z d with
  | some m => m.heardAt
  | none => 0

/-- A member sends zone frames, but for two periods none with the ZID of the zone: its ZID differs (assumption 34). -/
def State.zidDiffers (s : State) (z d : Nat) : Bool :=
  (s.dev d).otherAt != 0 && decide (s.heardAt z d + 2 * s.zonePeriod z * 4 / 5 < (s.dev d).otherAt)

/-- The causes of Table 8.5 at a pass start, each with the device it comes from. -/
def State.zoneCauses (s : State) (z start : Nat) : List (Bool × Nat) :=
  let stamps := s.zoneStamps z start
  let slots := s.zoneSlots z
  let gap (k : Nat) : Bool := stamps.length != 64 || (s.slotChans z k).any (fun c => stamps.any (fun u => (s.resAt c u).isNone))
  let qual (k : Nat) : Bool := (s.slotChans z k).any (fun c => stamps.any (fun u => match s.resAt c u with
    | some x => x.qual != 0
    | none => false))
  let devs := (s.zoneDevs z).filter (fun d => d != s.localDev)
  let mem (p : ZMember → Bool) (d : Nat) : Bool := match s.zmember z d with
    | some m => p m
    | none => false
  let slotDev (o : Option Nat) : Bool × Nat := match o with
    | some k => (true, s.rdk TM_ZONE_DEVID z k)
    | none => (false, 0)
  let devOf (o : Option Nat) : Bool × Nat := match o with
    | some d => (true, d)
    | none => (false, 0)
  [slotDev (slots.find? gap), slotDev (slots.find? qual), devOf (devs.find? (mem (·.zblk))),
   if s.localTimeBad then (true, s.localDev)
   else devOf (devs.find? (mem (fun m => m.time == 2 || (m.time == 1 && decide (10 < m.age))))),
   devOf (devs.find? (fun d => mem (fun m => m.crc != s.rd TM_ZONE_CRC z) d || s.zidDiffers z d)),
   devOf (devs.find? s.linkFailed),
   devOf (devs.find? (fun d => decide (s.heardAt z d < (s.dev d).sleepAt)))]

/-- A list of truth values as a number, first bit least. -/
def bitsOf : List Bool → Nat
  | [] => 0
  | b :: t => b2n b + 2 * bitsOf t

/-- REC of a zone in elapsed units: the longest of its ZDIF elements. -/
def State.zoneRec (s : State) (z : Nat) : Nat :=
  ((s.enabledEls.filter (fun n => s.elType n == 0x10 && s.rd PE_ZDIF_ZONE n == z)).map
    (fun n => usUnits (1000 * s.rd PE_ZDIF_REC n))).foldl max 0

/-- Elapsed time at the start of the pass in progress. -/
def State.passElapsed (s : State) : Nat := s.elapsed - s.tai % 125000 * 4 / 5

/-- The zone unblocks at the first pass at or after REC past the instant at which all causes had cleared (R233). -/
def State.zoneRecover (s : State) (z : Nat) : State :=
  match (s.zoneSt z).clearAt with
  | some t =>
    if s.flag TM_ZSTAT_BLK z && decide (t + s.zoneRec z ≤ s.passElapsed) then
      ((s.setZone z { s.zoneSt z with clearAt := none }).wr TM_ZSTAT_BLK z 0).notify 0x11 7 0 z
        ((s.elapsed - (s.zoneSt z).blkAt) / 800) 0 0
    else s
  | none => s

/-- A zone at a pass start (R231, R233). -/
def State.zoneStep (s : State) (z : Nat) : State :=
  let cs := s.zoneCauses z (s.tai / 125000 * 125000)
  let cause := bitsOf (cs.map (·.1))
  let stamps := s.zoneStamps z (s.tai / 125000 * 125000)
  let ok := (s.zoneSlots z).filter (fun k => stamps.length == 64 && (s.slotChans z k).all (fun c => stamps.all (fun u => (s.resAt c u).isSome)))
  let s0 := ((s.wr TM_ZSTAT_CAUSE z cause).wrk TM_ZSTAT_SLOT_OK z 0 ((ok.filter (· < 32)).foldl (fun w k => w + 2 ^ k) 0)).wrk
    TM_ZSTAT_SLOT_OK z 1 ((ok.filter (32 ≤ ·)).foldl (fun w k => w + 2 ^ (k - 32)) 0)
  if cause = 0 then
    let zs := s0.zoneSt z
    (if s0.flag TM_ZSTAT_BLK z && zs.clearAt.isNone then s0.setZone z { zs with clearAt := some s.passElapsed } else s0).zoneRecover z
  else
    let s1 := s0.setZone z { s0.zoneSt z with clearAt := none }
    if s1.flag TM_ZSTAT_BLK z then s1
    else
      let first := ((cs.find? (·.1)).getD (false, 0)).2
      (((s1.setZone z { s1.zoneSt z with blkAt := s.elapsed }).wr TM_ZSTAT_BLK z 1).wr TM_ZSTAT_FIRST_DEV z first).notify
        0x11 6 2 z cause first 0

/-- Enabled zones. -/
def State.zones (s : State) : List Nat := if s.var == .cpx9640 then (List.range 8).filter (fun z => s.flag TM_ZONE_EN z) else []

/-- ZONE_RECOVERY_EXPIRY (R233). -/
def execZoneRecoveryExpiry (zone : Nat) (s : State) : Res :=
  if s.protOn && s.zones.contains zone && s.rd TM_ZSTAT_CAUSE zone == 0 then .next (s.zoneRecover zone) else .next s

/-- The ZONE frame of this device's slots for stamp `t`, once every one of their samples is there (R228, R475). -/
def State.zoneSend (s : State) (z t : Nat) : State :=
  let mine := (s.zoneSlots z).filter (fun k => s.rdk TM_ZONE_DEVID z k == s.localDev)
  let find (c : Nat) : Option Smp := (s.fcChan c).fine.find? (fun x => x.t == t)
  if mine.isEmpty || mine.any (fun k => (s.slotChans z k).any (fun c => (find c).isNone)) then s
  else
    let smp (c : Nat) : Smp := (find c).getD ⟨t, 0, 0⟩
    let rsn (c : Nat) : Nat := (smp c).stat.get 29 22
    let block (k : Nat) : List Nat :=
      let cs := s.slotChans z k
      let c (j : Nat) : Nat := cs.getD j 0
      [k * 2 ^ 24 + rsn (c 0) * 2 ^ 16 + rsn (c 1) * 2 ^ 8 + rsn (c 2), (smp (c 0)).word.toNat, (smp (c 1)).word.toNat, (smp (c 2)).word.toNat]
    let tm := s.zoneTime
    let zblk := b2n (s.rd TM_ZSTAT_CAUSE z % 128 / 8 * 8 + s.rd TM_ZSTAT_CAUSE z % 4 != 0)
    let words := [s.rd TM_ZONE_ZID z * 2 ^ 16 + zblk * 2 ^ 15 + tm.1 * 2 ^ 13 + tm.2, s.rd TM_ZONE_CRC z,
      t / 1000000000 % 2 ^ 32, t % 1000000000, mine.length, 0] ++ mine.flatMap block
    let was := mget (fun _ => TxRec.init) s.tm.ztx z
    let s1 : State := { s with tm := { s.tm with ztx := mset (fun _ => TxRec.init) z ⟨words, s.elapsed, was.count + 1⟩ s.tm.ztx } }
    s1.rbSend 0 0x02 2 0 0 (s.rd TM_ZONE_ZID z) words s1.portsUp

/-- After a fine sample: the ZONE frames that it completes. -/
def State.zoneFine (s : State) (c t : Nat) : State :=
  (s.zones.filter (fun z => (s.zoneSlots z).any (fun k => s.rdk TM_ZONE_DEVID z k == s.localDev && (s.slotChans z k).contains c))).foldl
    (fun s z => s.zoneSend z t) s

/-! Checks of TM settings (R211, R222, R226); `p` is the state as it will stand. -/

def bitOrNone (v : Nat) : Bool := decide (v < 64) || v == 0x7F

def tmAbsent (p : State) (unit grp i : Nat) : Bool :=
  unit == 0x11 &&
  ((grp == 2 && (List.range 128).any (fun w => decide (p.nElem ≤ w % 64 * 32) && p.rdk TM_MASK_W i w != 0))
   || (grp == 0x10 && decide (p.nElem ≤ p.rd TM_BRK_INH_EL i))
   || (grp == 0x31 && decide (p.nDev ≤ p.rd TM_RX_DEVID i)))

/-- A breaker keeps R222, whatever EN says; the ranges of its times hold while it is active (assumption 85). -/
def brkOk (p : State) (n : Nat) : Bool :=
  let mode := p.rd TM_BRK_BF_MODE n
  let cur := p.flag TM_BRK_CUR_EN n
  mode != 3 && bitOrNone (p.rd TM_BRK_AUXA n) && bitOrNone (p.rd TM_BRK_AUXB n) && bitOrNone (p.rd TM_BRK_BFI_X n)
    && (decide (p.rd TM_BRK_CLOSE_DO n ≤ 23) || p.rd TM_BRK_CLOSE_DO n == 0x3F)
    && (cur || p.rd TM_BRK_CUR_GRP n == 0) && !(cur && p.grpVirtual (p.rd TM_BRK_CUR_GRP n))
    && (cur || mode == 2) && (!p.flag TM_BRK_RT_EN n || decide (p.rd TM_BRK_RT_T n < p.rd TM_BRK_BF_T n))
    && (!p.flag TM_BRK_EN n ||
      (within_ (p.rd TM_BRK_RT_T n) 0 1000000 && within_ (p.rd TM_BRK_BF_T n) 1000 1000000
       && (!cur || (within_ (p.rd TM_BRK_CCW n) 1000 20000 && within_ (p.rd TM_BRK_IBF n) 1 8388607))
       && within_ (p.rd TM_BRK_DISC_T n) 1 10000
       && (!p.flag TM_BRK_INH_EN n || p.elType (p.rd TM_BRK_INH_EL n) == 0xC)))

/-- A zone keeps R226, whatever EN says. -/
def zoneOk (p : State) (z : Nat) : Bool :=
  let slots := p.zoneSlots z
  let mine := slots.filter (fun k => p.rdk TM_ZONE_DEVID z k == p.localDev)
  (p.rd TM_ZONE_ZID z != 0 && decide (2 ≤ slots.length) && !mine.isEmpty
    && slots.all (fun k => decide (0x10000 ≤ p.rdk TM_ZONE_TAP z k))
    && mine.all (fun k =>
      let g := p.rdk TM_ZONE_GROUP z k
      p.flag PE_MEAS_EN g && !p.flag PE_MEAS_KIND g && p.has3 g && !p.grpVirtual g
        && (p.slotChans z k).all (fun c => p.rd FC_CHAN_RATE c == p.rd TM_ZONE_RATE z)))

def tmBad (p : State) (unit grp i : Nat) : Bool :=
  unit == 0x11 &&
  ((grp == 1 && (decide (2 ≤ p.rd TM_TCH_LATCH i) || !bitOrNone (p.rd TM_TCH_RST_X i) || decide (2000000 < p.rd TM_TCH_MIN_ON i)))
   || (grp == 0x10 && !brkOk p i) || (grp == 0x20 && !zoneOk p i))

/-! What a commit of TM settings does beyond its words. -/

/-- CRC of a zone (R226). -/
def State.zoneCrc (s : State) (z : Nat) : Nat :=
  crc32c (s.word 0x11 0x20 z 0 :: mgetList regDefault s.regs (regKey 0x11 0x20 z 2) 128)

/-- Rising TM_XIN bits that reset latches. -/
def State.xinResets (s old : State) : State :=
  ((List.range 32).filter (fun c => let x := s.rd TM_TCH_RST_X c; s.xinOf x && !old.xinOf x)).foldl State.latchReset s

/-- A breaker object is switched off: RUNNING ends, its position is unknown (R235: each change is handed to EV). -/
def State.brkOff (s : State) (n : Nat) : State :=
  let s1 := (if s.flag TM_BRKST_BF_RUN n then s.bfEnd n else s).setPos n 0
  (s1.setBrk n TmBrk.init).putWord 0x11 0x11 n 0 0

/-- LATCHED after a change of LATCH: 1 for an asserted channel in latch mode, from its assertion to a reset (R212, R215). -/
def State.latchMode (s : State) (c : Nat) : State :=
  let on := s.flag TM_TCH_ASSERTED c && s.rd TM_TCH_LATCH c == 1
  if s.flag TM_TCH_LATCHED c == on then s
  else
    let s1 := (s.setTch c { s.tch c with rstPend := false }).setFlag TM_TCH_LATCHED c on
    if on then s1 else s1.tchRecord 3 c false

/-- After a commit: test blocks, latches, zone CRC, breakers switched off, remote bits, latch resets. -/
def State.tmCommit (s old : State) : State :=
  let s1 := (List.range 32).foldl (fun s0 c =>
    let s := s0.latchMode c
    if s.rd TM_TCH_TBLK c = s.rd TM_TCH_TBLK_EFF c then s.wr TM_TCH_TBLK_PEND c 0
    else if s.flag TM_TCH_ASSERTED c then s.wr TM_TCH_TBLK_PEND c 1 else s.tblkApply c) s
  let s2 := (List.range 8).foldl (fun s z =>
    if s.zoneCrc z = old.zoneCrc z then s
    else ((s.setZone z { s.zoneSt z with blkAt := s.elapsed, clearAt := none }).wr TM_ZONE_CRC z (s.zoneCrc z)).wr TM_ZSTAT_BLK z 1) s1
  let s3 := (List.range 32).foldl (fun s n =>
    let on := s.flag TM_BRK_EN n
    let s' := s.setFlag TM_BRKST_EN n on
    if !on && old.flag TM_BRK_EN n then s'.brkOff n else s') s2
  let s4 := ((List.range 64).filter (fun k => s3.word 0x11 0x31 k 0 != old.word 0x11 0x31 k 0)).foldl State.rxJudge s3
  s4.xinResets old

end Sys2Proof.Machine
end

