-- ==== Sys2Proof/Machine/Umpire.lean ====
section
/-! DEFINITION. The Umpire (11_bullpen_and_umpire.md, R318 to R326), the point commands and the remote point traffic
(R336, R337, R339), and the forces of points (R340). -/

namespace Sys2Proof.Machine

open Sys2Proof

/-! Registering writes (R318 to R320). -/

/-- Rank and source of a one-shot write: the local panel's, or its own (R319). -/
def State.rankOf (s : State) (rank src dev : Nat) : Nat × Nat :=
  if s.flag UM_CFG_PANEL_EN 0 && s.rd UM_CFG_PANEL 0 == src && (src != 9 || s.rd UM_CFG_PANEL_DEV 0 == dev) then (6, 4)
  else (rank, src)

/-- Rank and source of a master's writes (Table 11.7). -/
def State.masterRank (s : State) (m : Master) : Nat × Nat :=
  match m with
  | .hostA => s.rankOf 3 7 0
  | .hostB => s.rankOf 3 8 0
  | .hotPort => s.rankOf 1 0xA 0

/-- Register a write for this round; it replaces its source's earlier write to the target. -/
def State.umAdd (s : State) (w : UWrite) : State :=
  let old := s.um.writes.map (fun x => if x.index = w.index ∧ x.src = w.src ∧ x.dev = w.dev then { x with gone := true } else x)
  { s with um := { s.um with writes := old ++ [w] } }

/-- The next request tag, never 0. -/
def State.newTag (s : State) : Nat := s.pd.tag % (2 ^ 32 - 1) + 1

/-- Send a request to an origin and wait for its reply (R339, R479). -/
def State.ptRequest (s : State) (dev index : Nat) (write : Bool) (raw : Nat) (cmd : Option (Nat × Nat)) (pos : Nat) : State :=
  let t := s.newTag
  let s1 := s.ptSend dev 0x24 [t, b2n write * 2 ^ 30 + index, raw % 2 ^ 32, raw / 2 ^ 32]
  { s1 with pd := { s1.pd with tag := t, reqs := s1.pd.reqs ++ [⟨t, dev, s.elapsed, cmd, pos, !write⟩] } }

/-- Register a local write: to the Umpire, or to the origin of a mirror. -/
def State.umWrite (s : State) (w : UWrite) : State :=
  match s.ptDef w.index with
  | none => s
  | some d => if d.bind = 7 then s.ptRequest d.op2 d.op true w.raw w.cmd w.pos else s.umAdd w

/-! Outcomes. -/

/-- A POINT_WRITE whose last entry was decided completes (R322, R337). -/
def State.writeEnd (s : State) (x : WriteCmd) (t : Stamp) : State :=
  let s1 : State := { s with pd := { s.pd with writes := s.pd.writes.filter (fun y => y.cmd != x.cmd) } }
  match x.bad with
  | some st => s1.settle (some x.cmd) st x.lossRank 0 (if st = .internal then none else some t)
  | none =>
    if x.lost = 0 then s1.settle (some x.cmd) .ok 0 0 (some t)
    else match s1.findCmd x.cmd.1 x.cmd.2 with
      | some c => s1.setPhase c.ring c.order
          (.decided .ownerConflict x.lossRank (if x.buf then x.lossAt else 0) (if x.buf then x.lost else 0) 0 (some t))
      | none => s1

/-- One entry of a POINT_WRITE is decided: won, lost to a rank, or failed otherwise. -/
def State.entryDone (s : State) (cmd : Nat × Nat) (pos : Nat) (won : Bool) (rank : Nat) (bad : Option Status) (t : Stamp) :
    State :=
  match s.pd.writes.find? (fun y => y.cmd == cmd) with
  | none => s
  | some x =>
    let first := !won && (x.lost == 0 || decide (pos < x.lossAt))
    let y : WriteCmd := { x with
      waiting := x.waiting - 1
      lost := x.lost + b2n (!won)
      lossAt := if first then pos else x.lossAt
      lossRank := if first then rank else x.lossRank
      bad := if x.buf then x.bad else bad }
    let s1 : State := { s with pd := { s.pd with writes := s.pd.writes.map (fun z => if z.cmd = cmd then y else z) } }
    if y.waiting = 0 then s1.writeEnd y t else s1

/-- A conflict event and CONFLICT, once per target and pair of sources (R323). -/
def State.conflict (s : State) (target winner loser dev value : Nat) : State :=
  if s.um.told.contains (target, winner, loser) then s
  else
    let s1 : State := { s with um := { s.um with told := s.um.told ++ [(target, winner, loser)] } }
    (s1.bump UM_STAT_CONFLICTS 0 1).notify 0x21 1 1 target (winner % 256 * 256 + loser % 256) dev value

/-- The owner of a target changed: its conflicts may be told again. -/
def State.forget (s : State) (target : Nat) (changed : Bool) : State :=
  if changed then { s with um := { s.um with told := s.um.told.filter (fun x => x.1 != target) } } else s

/-- A lane's write was lost (R350). -/
def State.laneLost (s : State) (n : Nat) : State :=
  let x := mget (fun _ => RpLane.init) s.rp.lanes n
  let y : RpLane := { x with
    lost := satAdd 0xFFFF x.lost 1
    err := 3
    lostErr := x.lostErr || s.flag RP_LANE_STRICT n }
  { s with rp := { s.rp with lanes := mset (fun _ => RpLane.init) n y s.rp.lanes } }

/-- The end of the round that is resolved, TAI ns (R320). -/
def State.roundEnd (s : State) : Nat := s.um.roundAt * 1000

/-- What a decided write brings its issuer, at the round end (R322). -/
def State.outcome (s : State) (w : UWrite) (won : Bool) (winner value : Nat) : State :=
  let rank := winner / 16
  let s0 := if won then s else s.bump UM_STAT_LOSSES 0 1
  let s1 := match w.cmd with
    | some c => s0.entryDone c w.pos won rank none (Stamp.ofTai s.roundEnd)
    | none => if won then s0 else s0.conflict w.index winner (w.rank * 16 + w.src) w.dev value
  let s2 := match w.tag with
    | some t => s1.ptSend w.dev 0x25 ([t, (if won then 0 else 0x15 * 2 ^ 16 + rank)] ++
        [(Stamp.ofTai s.roundEnd).word % 2 ^ 32, (Stamp.ofTai s.roundEnd).word / 2 ^ 32] ++ s1.ptWords w.index)
    | none => s1
  match w.lane with
  | some n => if won then s2 else s2.laneLost n
  | none => s2

/-! The round (R320). -/

/-- A member of a round: rank, source, raw value, failed conversion, its time. -/
structure Cand where
  rank : Nat
  src : Nat
  raw : Nat
  bad : Bool
  time : Nat

/-- Smallest or largest member in the point's type. -/
def pickBy (ty : Nat) (lower : Bool) : List Cand → Nat → Nat
  | [], v => v
  | c :: t, v => pickBy ty lower t (if (if lower then ptLt ty c.raw v else ptLt ty v c.raw) then c.raw else v)

/-- The value of a round. -/
def roundValue (ty safeDir inForce : Nat) (win : List Cand) : Nat :=
  match win with
  | [] => inForce
  | c :: t =>
    if t.all (fun x => ptEq ty x.raw c.raw) then c.raw
    else if safeDir = 0 then pickBy ty true t c.raw
    else if safeDir = 1 then pickBy ty false t c.raw
    else inForce

/-- Standing demands on a point: safety, protection, force; protection's carry the instant of their commit or assertion (R333),
the others act at the round end (R334). -/
def State.standing (s : State) (i : Nat) : List Cand :=
  ([(9, 1), (8, 2), (7, 3)].filterMap (fun p => match s.standOf i p.1 with
    | some d => some ⟨p.1, p.2, d.raw, false, if p.1 = 8 then d.time else s.roundEnd⟩
    | none => none))

/-- Every write to a target loses to an owner outside the arbitration. -/
def State.allLose (s : State) (owner value : Nat) (ws : List UWrite) : State :=
  ws.foldl (fun s w => s.outcome w false owner value) s

/-- Resolve one point. -/
def State.resolvePoint (s : State) (i : Nat) : State :=
  let ws := s.um.writes.filter (fun w => w.index == i)
  match s.ptDef i with
  | none => s
  | some d =>
    let r := s.ptRec i
    match s.engineOwner i with
    | some o => s.allLose o r.raw ws
    | none =>
      if d.bind = 1 ∨ d.bind = 2 ∨ d.bind = 6 then s.allLose 0xF0 r.raw ws
      else
        let cand := s.standing i ++ (ws.filter (fun w => !w.gone)).map (fun w => (⟨w.rank, w.src, w.raw, w.bad, s.roundEnd⟩ : Cand))
        let top := (cand.map (·.rank)).foldl max 0
        let win := cand.filter (fun c => c.rank == top)
        let v := roundValue d.type d.safeDir r.raw win
        let by_ := win.find? (fun c => ptEq d.type c.raw v)
        let s1 := match by_ with
          | some c => (s.ptSet i c.raw (top * 16 + c.src)
              (if top = 7 then qForced else if c.bad then qInvalid + qDetail 6 else 0) c.time).forget i
              (r.owner != top * 16 + c.src)
          | none => s
        let owner := (s1.ptRec i).owner
        let s2 := match win.find? (fun c => !ptEq d.type c.raw v) with
          | some c => s1.conflict i owner (top * 16 + c.src)
              ((ws.find? (fun w => w.rank == c.rank && w.src == c.src)).elim 0 (·.dev)) v
          | none => s1
        ws.foldl (fun s w => s.outcome w (!w.gone && ptEq d.type w.raw v) owner v) s2

/-- TM's OFF demand on an output (R223). -/
def State.tmOff (s : State) (n : Nat) : Bool :=
  s.brks.any (fun b => s.flag TM_BRKST_CLOSE_INH b && s.rd TM_BRK_CLOSE_DO b == n)

/-- The demand that governs an output: owner byte and value. -/
def State.doDemand (s : State) (n : Nat) : Option (Nat × Bool) :=
  if mget (fun _ => false) s.um.sfOff n then some (0x91, false)
  else if s.tmOff n then some (0x82, false)
  else match mget (fun _ => none) s.um.forceDo n with
    | some b => some (0x73, b)
    | none => match mget (fun _ => none) s.um.q (n / 8) with
      | some q => some (0x55, natBit q (n % 8))
      | none => none

/-- Resolve one output; a safety pulse source is not the Umpire's (R428). -/
def State.resolveDo (s : State) (n : Nat) : State :=
  match if s.rd FD_DO_MODE n = 1 then none else s.doDemand n with
  | none => s
  | some (o, v) =>
    let s1 := s.setFlag UM_OWN_VALUE n v
    if s.rd UM_OWN_OWNER n = o then s1
    else ((s1.wr UM_OWN_OWNER n o).wr UM_OWN_SEC n s.tu.sec).forget (0x800000 + n) true

/-- Resolve the station output bytes: force, else logic. -/
def State.resolveBytes (s : State) : State :=
  let ks := ((s.um.q.map (·.1)) ++ (s.um.forceQ.map (·.1))).filter (fun k => decide (0x1000 ≤ k))
  ks.foldl (fun s k =>
    match mget (fun _ => none) s.um.forceQ k, mget (fun _ => none) s.um.q k with
    | some v, _ => { s with um := { s.um with qOut := mset (fun _ => 0) k (v % 256) s.um.qOut } }
    | none, some v => { s with um := { s.um with qOut := mset (fun _ => 0) k (v % 256) s.um.qOut } }
    | none, none => s) s

/-- Every output and station byte takes its arbitrated value: at a round, and in the cycle in which forces end (R29). -/
def State.resolveOutputs (s : State) : State := ((List.range 24).foldl State.resolveDo s).resolveBytes

/-- Register the writes of lane ticks whose round has begun (R346), in lane order. -/
def State.laneWrites (s : State) (roundStart : Nat) : State :=
  let due := (s.rp.out.filter (fun o => decide (o.due ≤ roundStart))).mergeSort (fun a b => decide (a.lane ≤ b.lane))
  let s1 : State := { s with rp := { s.rp with out := s.rp.out.filter (fun o => decide (roundStart < o.due)) } }
  due.foldl (fun s o => o.writes.foldl (fun s w =>
    s.umWrite ⟨w.1, w.2.1, w.2.2, 4, 6, 0, none, 0, none, some o.lane, false⟩) s) s1

/-- Every point with a standing demand or a write. -/
def State.targets (s : State) : List Nat :=
  (((s.um.stand.map (fun e => e.1 / 16)) ++ (s.um.writes.map (fun w => w.index)) : List Nat)).eraseDups

/-- Demands handed over once end with their round (R313). -/
def State.endOnce (s : State) : State :=
  { s with um := { s.um with q := s.um.qOnce.foldl (fun q b => mset (fun _ => none) b none q) s.um.q, qOnce := [] } }

/-- What the round left in the station bytes, for the frames of the next microseconds (R488). -/
def State.keepBytes (s : State) (e : Nat) : State := { s with um := { s.um with qPast := (e, s.um.qOut) :: s.um.qPast.take 3 } }

/-- UMPIRE_ROUND (R320, R322): the round that ended at the last whole microsecond, once.  During a consistent cut no point
write is registered, and the outputs are still resolved (R359). -/
def execUmpireRound (s : State) : Res :=
  let e := s.tai / 1000
  if !s.umOn || !s.gridOk 1000 || e == s.um.roundAt then .next s
  else
    let s0 : State := { s with um := { s.um with roundAt := e } }
    if s.cs.cut then .next (s0.resolveOutputs.keepBytes e)
    else
    let s1 := s0.laneWrites (e * 1000 - 1000)
    let s2 := s1.targets.foldl State.resolvePoint s1
    let s3 : State := { s2 with um := { s2.um with writes := [] } }
    .next (s3.resolveOutputs.keepBytes e).endOnce.sendChanged

/-! Checks of UM settings (R319, R321). -/

def umBad (p : State) (grp : Nat) : Bool :=
  if grp = 0 then
    (p.flag UM_CFG_PANEL_EN 0 || p.rd UM_CFG_PANEL 0 != 0) && !([7, 8, 9, 0xA].contains (p.rd UM_CFG_PANEL 0))
  else if grp = 1 then
    (List.range 24).any (fun n =>
      if n < 16 then natBits (p.rd UM_DO_SAFE_DIR_LO 0) (2 * n + 1) (2 * n) == 3
      else natBits (p.rd UM_DO_SAFE_DIR_HI 0) (2 * (n - 16) + 1) (2 * (n - 16)) == 3)
  else false

/-! POINT_READ and POINT_WRITE (R336, R337, R339). -/

def pdObj : Nat := 0x22000000

/-- P0, P1 and what they name. -/
def Cmd.remote (c : Cmd) : Bool := (c.par 0).get 31 31 == 1
def Cmd.devid (c : Cmd) : Nat := (c.par 0).get 25 16
def Cmd.ptIndex (c : Cmd) : Nat := (c.par 1).get 22 0
def Cmd.rawPar (c : Cmd) : Nat := (c.par 2).toNat + (c.par 3).toNat * 2 ^ 32

def Cmd.p0Bad (c : Cmd) : Bool :=
  (c.par 0).get 30 26 != 0 || (c.par 0).get 15 0 != 0 || (!c.remote && c.devid != 0)

/-- The command reaches another device. -/
def State.goesOut (s : State) (c : Cmd) : Bool := c.remote && c.devid != s.rd RB_CFG_DEVID 0

/-- A device is in the system: a TOPO frame of it has arrived. -/
def State.inSystem (s : State) (d : Nat) : Bool := (s.dev d).topoAt != 0

/-- The link to a device is marked failed, or it has announced SENTINEL. -/
def State.linkDown (s : State) (d : Nat) : Bool := s.linkFailed d || (s.dev d).mode == 5

/-- Checks common to both: absence, parameters, the origin. -/
def State.ptAbsentOf (s : State) (c : Cmd) : Option Nat :=
  if c.remote && decide (s.nDev ≤ c.devid) then some c.objid else none

def State.ptBadOf (s : State) (c : Cmd) : Bool :=
  c.objid != pdObj || c.p0Bad || (s.goesOut c && !s.inSystem c.devid)

def downCheck (s : State) (down : Bool) : Option (Status × Nat × Nat) :=
  if down then some (.modeForbids, s.cmdMode.code, 0) else none

/-- Ask an origin for the records of a POINT_READ with BUF = 1, one request each; a reply's record goes to its place in the buffer. -/
def State.readEntries (s : State) (c : Cmd) (n : Nat) : State :=
  (List.range n).foldl (fun s k => s.ptRequest c.devid (c.ptIndex + k) false 0 (some c.ref) k)
    { s.start c with pd := { s.pd with writes := s.pd.writes ++ [⟨c.ref, n, false, 0, 0, 0, none⟩] } }

/-- A point is pinned in the cache (R342). -/
def State.ptPinned (s : State) (i : Nat) : Bool :=
  match s.ptDef i with
  | none => false
  | some d => [3, 4, 5, 8, 9].contains d.bind || s.selPoints.contains i
      || (s.listed 0x22 2 0).any (fun k => s.flag PD_SBMAP_EN k && s.rd PD_SBMAP_INDEX k == i)

/-- An uncorrectable SDRAM error in the record of a point (R343): an unpinned point reads 0, invalid with DETAIL 0x5, until its next
write or refresh; a pinned one keeps the record of the cache. -/
def State.ptMemError (s : State) (i : Nat) : State :=
  let s1 := if s.ptPinned i then s else s.ptSet i 0 (s.ptRec i).owner (qInvalid + qDetail 5) s.tai
  State.notify { s1 with pd := { s1.pd with memErrs := min (s1.pd.memErrs + 1) (2 ^ 32 - 1) } } 0x22 2 2 i 0 0 0

/-- Points whose records a local POINT_READ reads. -/
def State.readsPoint (s : State) (c : Cmd) (i : Nat) : Bool :=
  !s.goesOut c && (s.ptDef i).isSome && decide (c.ptIndex ≤ i) && decide (i < c.ptIndex + if c.buf then (c.par 2).toNat else 1)

/-- A beat of a record as the SDRAM gave it to the read (R343, R549); without one the records stand in the cache or read good. -/
def State.recordBeat (s : State) (c : Cmd) (beat : Option (Nat × SdBeat)) : State :=
  match beat with
  | none => s
  | some (i, b) =>
    if !s.readsPoint c i then s
    else match sdRead b with
      | .uncorrectable _ => (s.sdJudge b).ptMemError i
      | _ => s.sdJudge b

/-- POINT_READ (R337, R339, R343). -/
def execPointRead (ring idx : Nat) (dmaOk : Bool) (beat : Option (Nat × SdBeat)) (s : State) : Res :=
  s.runCmd ring idx (isOp opPointRead)
    (fun s c =>
      let n := (c.par 2).toNat
      { form := c.inline 8 || (c.buffer 1 12 && decide (1 ≤ n) && decide (n ≤ 1048576) && c.bufLen == 16 * n
          && decide (c.ptIndex + n ≤ 2 ^ 23))
        absent := s.ptAbsentOf c
        bad := if s.ptBadOf c || (c.par 1).get 31 23 != 0 then some (c.objid, 0) else none
        auth := false
        modes := s.inMode modesTrain
        own := if s.goesOut c && s.linkDown c.devid then downCheck s true else if c.buf then s.dmaCheck c dmaOk else none })
    (fun s c =>
      if s.goesOut c && c.buf then s.readEntries c (c.par 2).toNat
      else if s.goesOut c then (s.start c).ptRequest c.devid c.ptIndex false 0 (some c.ref) 0
      else
      let s := s.recordBeat c beat
      if c.buf then
        let ws := ((List.range (c.par 2).toNat).map (fun k => s.ptWords (c.ptIndex + k))).flatten.map (BitVec.ofNat 32)
        (s.dmaOut c.bufLoc c.bufAddr ws).answer c 0 0 0 0
      else
        let w := s.ptWords c.ptIndex
        s.answer c (w.getD 0 0) (w.getD 1 0) (w.getD 2 0) (w.getD 3 0))

/-- Entries of a POINT_WRITE: word 0 with the index, word 1, raw value. -/
def Cmd.entries (c : Cmd) (buf : List W32) : List (Nat × Nat × Nat) :=
  if c.buf then
    (List.range (c.bufLen / 16)).map (fun k =>
      ((buf.getD (4 * k) 0).toNat, (buf.getD (4 * k + 1) 0).toNat,
       (buf.getD (4 * k + 2) 0).toNat + (buf.getD (4 * k + 3) 0).toNat * 2 ^ 32))
  else [((c.par 1).toNat, 0, c.rawPar)]

/-- An entry that a local write refuses: reserved bits, an index without definition, a raw value not in form. -/
def State.entryBad (s : State) (out : Bool) (e : Nat × Nat × Nat) : Bool :=
  decide (2 ^ 23 ≤ e.1) || e.2.1 != 0 || (!out && match s.ptDef e.1 with
    | some d => !rawOk d.type e.2.2
    | none => true)

/-- The origin of a mirror that an entry names cannot be reached. -/
def State.entryDown (s : State) (e : Nat × Nat × Nat) : Bool :=
  match s.ptDef e.1 with
  | some d => d.bind == 7 && s.linkDown d.op2
  | none => false

/-- Register every entry of a POINT_WRITE in one round. -/
def State.writeEntries (s : State) (c : Cmd) (l : List (Nat × Nat × Nat)) : State :=
  let at_ : Nat × Nat := c.ref
  let out := s.goesOut c
  let r := s.masterRank c.master
  let s1 : State := { s.start c with pd := { s.pd with writes := s.pd.writes ++ [⟨at_, l.length, c.buf, 0, 0, 0, none⟩] } }
  (l.zipIdx).foldl (fun s e =>
    if out then s.ptRequest c.devid e.1.1 true e.1.2.2 (some at_) e.2
    else s.umWrite ⟨e.1.1, e.1.2.2, false, r.1, r.2, 0, some at_, e.2, none, none, false⟩) s1

/-- POINT_WRITE (R337, R339). -/
def execPointWrite (ring idx : Nat) (buf : Option (List W32)) (s : State) : Res :=
  s.runCmd ring idx (isOp opPointWrite)
    (fun s c =>
      let l := c.entries (buf.getD [])
      let readable := (s.reach c buf).isSome || !c.buf
      { form := c.inline 16 || (c.buffer 0 4 && c.bufLen % 16 == 0 && decide (16 ≤ c.bufLen) && decide (c.bufLen ≤ 65536))
        absent := s.ptAbsentOf c
        bad := if s.ptBadOf c || (readable && l.any (s.entryBad (s.goesOut c))) then some (c.objid, 0) else none
        auth := false
        modes := s.inMode modesTrain
        own := if !readable then some (.dmaFault, 0, 0)
          else downCheck s (if s.goesOut c then s.linkDown c.devid else l.any s.entryDown) })
    (fun s c => s.writeEntries c (c.entries (buf.getD [])))

/-- PT_REQ_RECEIVE (R339, R479): a peer reads, or writes at peer rank. -/
def execPtReqReceive (src : Nat) (words : List W32) (s : State) : Res :=
  let tag := (words.getD 0 0).toNat
  let w1 := words.getD 1 0
  let i := w1.get 22 0
  let raw := (words.getD 2 0).toNat + (words.getD 3 0).toNat * 2 ^ 32
  let reply (st : Status) : State := s.ptSend src 0x25 ([tag, st.code * 2 ^ 16, s.now.word % 2 ^ 32, s.now.word / 2 ^ 32]
    ++ s.ptWords i)
  if !s.umOn || words.length != 4 || tag = 0 || decide (2 ≤ w1.get 31 30) then .next s
  else if w1.get 31 30 = 0 then .next (reply .ok)
  else match s.ptDef i with
    | none => .next (reply .badObject)
    | some d =>
      if !rawOk d.type raw || d.bind == 7 then .next (reply .badObject)
      else
        let r := s.rankOf 2 9 src
        .next (s.umAdd ⟨i, raw, false, r.1, r.2, src, none, 0, some tag, none, false⟩)

/-- The status of a code. -/
def Status.ofCode (n : Nat) : Status :=
  ([.ok, .badOpcode, .badObject, .unitAbsent, .modeForbids, .loopNotOpen, .ownerConflict, .bankBusy, .badLength, .dmaFault,
    .imageInvalid, .noMatch, .authFail, .authRequired, .busyRetry, .aborted].find? (fun x => Status.code x == n)).getD .internal

/-- A request is answered: its command completes with the origin's outcome. -/
def State.replied (s : State) (r : RemReq) (st : Status) (res0 : Nat) (t : Stamp) (ws : List Nat) : State :=
  let s1 : State := { s with pd := { s.pd with reqs := s.pd.reqs.filter (fun x => x.tag != r.tag) } }
  match r.cmd with
  | none => s1
  | some c =>
    if r.read then
      match s1.findCmd c.1 c.2 with
      | some k =>
        if k.buf then
          let s2 := if st = .ok then s1.dmaOut k.bufLoc (k.bufAddr + 16 * r.pos) (ws.map (BitVec.ofNat 32)) else s1
          s2.entryDone c r.pos (st == .ok) res0 (if st = .ok then none else some st) t
        else s1.setPhase k.ring k.order (if st = .ok then
          .decided .ok (ws.getD 0 0) (ws.getD 1 0) (ws.getD 2 0) (ws.getD 3 0) (some t) else .decided st res0 0 0 0 (some t))
      | none => s1
    else s1.entryDone c r.pos (st == .ok) res0 (if st = .ok ∨ st = .ownerConflict then none else some st) t

/-- PT_RSP_RECEIVE (R339, R479). -/
def execPtRspReceive (src : Nat) (words : List W32) (s : State) : Res :=
  let w (k : Nat) : Nat := (words.getD k 0).toNat
  let t := w 2 + w 3 * 2 ^ 32
  match s.pd.reqs.find? (fun r => r.tag == w 0 && r.dev == src) with
  | some r =>
    if s.umOn && words.length == 8 then
      .next (s.replied r (Status.ofCode (w 1 / 2 ^ 16)) (w 1 % 256) ⟨t / 2 ^ 30, t % 2 ^ 30⟩ ((words.drop 4).map (·.toNat)))
    else .next s
  | none => .next s

/-- REMOTE_POINT_TIMEOUT (R339): no reply within 50 ms. -/
def execRemotePointTimeout (tag : Nat) (s : State) : Res :=
  match s.pd.reqs.find? (fun r => r.tag == tag) with
  | some r => if decide (r.time + usUnits 50000 ≤ s.elapsed) then .next (s.replied r .internal 1 s.now []) else .next s
  | none => .next s

/-! Forces of points (R340). -/

/-- FORCE_SET names an undefined point, a mirror, or a value outside the point's type. -/
def State.forceBad (s : State) (i raw : Nat) : Bool :=
  match s.ptDef i with
  | none => true
  | some d => d.bind == 7 || !rawOk d.type raw

/-- What FORCE_SET on a point is refused with by the point's owner, or by the number of forces. -/
def State.forceRefused (s : State) (i : Nat) : Option (Status × Nat × Nat) :=
  match s.ptDef i with
  | none => none
  | some d =>
    if (s.engineOwner i).isSome then some (.ownerConflict, 0xF, 0)
    else if d.bind = 3 ∨ d.bind = 4 ∨ d.bind = 5 then some (.ownerConflict, 8, 0)
    else if 1024 ≤ s.forced.length ∧ s.forced.contains i = false then some (.modeForbids, s.cmdMode.code, 0)
    else none

/-- Force a point. -/
def State.forcePoint (s : State) (i raw : Nat) : State :=
  match s.ptDef i with
  | none => s
  | some d =>
    if d.bind = 0 ∨ d.bind = 8 ∨ d.bind = 9 then s.setStand i 7 (some ⟨raw, s.tai⟩)
    else State.ptSet { s with pd := { s.pd with forces := mset (fun _ => none) i (some raw) s.pd.forces } } i raw 0xF0 qForced s.tai

/-- Clear a point's force. -/
def State.unforcePoint (s : State) (i : Nat) : State :=
  let s1 := { s with pd := { s.pd with forces := mset (fun _ => none) i none s.pd.forces } }
  let s2 := State.setStand s1 i 7 none
  s2.ptQual i (natSetBit (s2.ptRec i).qual 9 false) s2.tai

/-- Clear every point force. -/
def State.unforcePoints (s : State) : State := s.forced.foldl State.unforcePoint s

end Sys2Proof.Machine
end

