-- ==== Sys2Proof/Machine/LogicCpu.lean ====
section
/-! DEFINITION. The logic core: operand spaces, instructions and instances (10_logic_engine.md, R274 to R289). -/

namespace Sys2Proof.Machine

open Sys2Proof

/-! Operand spaces (R274 to R277). -/

def State.lgTask (s : State) (n : Nat) : LgTask := mget (fun _ => LgTask.init) s.lg.tasks n

def State.setLgTask (s : State) (n : Nat) (x : LgTask) : State :=
  { s with lg := { s.lg with tasks := mset (fun _ => LgTask.init) n x s.lg.tasks } }

/-- LG_MONO (R283): fabric cycles since the first cold start. -/
def State.mono (s : State) : Nat :=
  match s.lg.monoBase with
  | some b => ((s.elapsed : Int) - b).toNat
  | none => 0

def State.stn (s : State) (n : Nat) : StnSt := mget (fun _ => StnSt.init) s.rb.stn n

def State.setStn (s : State) (n : Nat) (x : StnSt) : State :=
  { s with rb := { s.rb with stn := mset (fun _ => StnSt.init) n x s.rb.stn } }

/-- A bit vector from a predicate, low bit first. -/
def packBits (n : Nat) (p : Nat → Bool) : Nat := (List.range n).foldl (fun a k => a + b2n (p k) * 2 ^ k) 0

/-- Byte `k` of a number. -/
def byteOf (v k : Nat) : Nat := v / 2 ^ (8 * k) % 256

/-- Words of an error record (Table 10.6). -/
def LgCause.words (c : LgCause) : List Nat :=
  [c.cause * 65536 + c.task % 256 * 256 + c.core % 256, c.par0 % 2 ^ 32, c.par1 % 2 ^ 32, c.index, c.mono % 2 ^ 32,
   c.mono / 2 ^ 32 % 2 ^ 32, c.time.sec % 2 ^ 32, c.time.ns]

/-- What a station area shows: live inputs, or the substitute of its rule (R296). -/
def State.areaByte (s : State) (m : LgStation) (k : Nat) : Nat :=
  let x := s.stn m.stn
  if x.live ∨ m.rule = 0 then x.inp.getD k 0 else if m.rule = 1 then 0 else m.values.getD k 0

/-- A byte of the I space for a task (Table 10.2). -/
def State.iByte (s : State) (task : Nat) (err : Option LgCause) (a : Nat) : Nat :=
  if a < 6 then packBits 8 (fun k => s.diVal (8 * a + k))
  else if 8 ≤ a ∧ a < 0xE then packBits 8 (fun k => s.diValid (8 * (a - 8) + k))
  else if 0x10 ≤ a ∧ a < 0x14 then packBits 8 (fun k => s.flag FD_DO_BALL (8 * (a - 0x10) + k))
  else if 0x18 ≤ a ∧ a < 0x1C then byteOf s.assertedWord (a - 0x18)
  else if 0x1C ≤ a ∧ a < 0x20 then byteOf s.sbSys.toNat (a - 0x1C)
  else if 0x20 ≤ a ∧ a < 0x28 then byteOf s.mono (a - 0x20)
  else if 0x28 ≤ a ∧ a < 0x2C then byteOf s.tu.sec (a - 0x28)
  else if 0x2C ≤ a ∧ a < 0x30 then byteOf s.tu.ns (a - 0x2C)
  else if 0x30 ≤ a ∧ a < 0x34 then byteOf (s.rdk LG_TSTAT_CYCLE task 0) (a - 0x30)
  else if 0x34 ≤ a ∧ a < 0x38 then byteOf (s.rdk LG_TSTAT_CYCLE task 1) (a - 0x34)
  else if 0x38 ≤ a ∧ a < 0x3C then byteOf (s.rd LG_TSTAT_LAST task) (a - 0x38)
  else if 0x40 ≤ a ∧ a < 0x240 then packBits 8 (fun k => (s.stn (8 * (a - 0x40) + k)).live)
  else if 0x300 ≤ a ∧ a < 0x320 then
    match err with
    | some c => byteOf (c.words.getD ((a - 0x300) / 4) 0) ((a - 0x300) % 4)
    | none => 0
  else if 0x1000 ≤ a then
    match s.lg.active with
    | some im =>
      match im.stations.find? (fun m => decide (m.iAddr ≤ a) && decide (a < m.iAddr + m.iLen)) with
      | some m => s.areaByte m (a - m.iAddr)
      | none => 0
    | none => 0
  else 0

/-! The core's state for a task (R279, R280, R282). -/

structure LgCpu where
  pc : Nat
  ba : Bool
  cs : Bool
  wa : Nat
  ov : Bool
  nest : List (Bool × Nat)
  calls : List (Nat × Nat)
  q : AMap (Option Nat)
  p : AMap (Option (Nat × Bool))
  m : AMap Nat
  undo : AMap (Option Nat)
  entries : Nat
  cost : Nat
  /-- free values drawn -/
  free : Nat

/-- What a cycle reads beside its own state: the machine at the snapshot, the task, its error record. -/
structure LgEnv where
  s : State
  task : Nat
  err : Option LgCause
  mono : Nat

def LgCpu.mw (c : LgCpu) (w : Nat) : Nat := mget (fun _ => 0) c.m w

/-- Write an M word, logged first; none when the undo store is full (R289). -/
def LgCpu.putM (c : LgCpu) (w v : Nat) : Option LgCpu :=
  match mget (fun _ => none) c.undo w with
  | some _ => some { c with m := mset (fun _ => 0) w (v % 2 ^ 32) c.m }
  | none =>
    if 65536 ≤ c.entries then none
    else some { c with m := mset (fun _ => 0) w (v % 2 ^ 32) c.m, undo := mset (fun _ => none) w (some (c.mw w)) c.undo
                       entries := c.entries + 1 }

def LgCpu.qByte (e : LgEnv) (c : LgCpu) (a : Nat) : Nat := (mget (fun _ => none) c.q a).getD (mget (fun _ => 0) e.s.lg.q a)

def LgCpu.putQ (c : LgCpu) (a v : Nat) : LgCpu := { c with q := mset (fun _ => none) a (some (v % 256)) c.q }

/-- Raw value of a point: staged, or as it stood at the snapshot; an undefined point reads 0. -/
def LgCpu.pRaw (e : LgEnv) (c : LgCpu) (i : Nat) : Nat :=
  match mget (fun _ => none) c.p i with
  | some v => v.1
  | none => if (e.s.ptDef i).isSome then (e.s.ptRec i).raw else 0

def LgCpu.putP (c : LgCpu) (i : Nat) (v : Nat × Bool) : LgCpu := { c with p := mset (fun _ => none) i (some v) c.p }

/-- Read a bit operand. -/
def LgCpu.readBit (e : LgEnv) (c : LgCpu) (space a : Nat) : Bool :=
  if space = 0 then natBit (e.s.iByte e.task e.err (a / 8)) (a % 8)
  else if space = 1 then natBit (c.qByte e (a / 8)) (a % 8)
  else if space = 2 then natBit (c.mw (a / 32)) (a % 32)
  else notZero (e.s.ptType a) (c.pRaw e a)

/-- Read a word operand as INT32; `flt` reads a point as binary32. -/
def LgCpu.readWord (e : LgEnv) (c : LgCpu) (flt : Bool) (space a : Nat) : Nat :=
  if space = 0 then leBytes ((List.range 4).map (fun k => e.s.iByte e.task e.err (a + k)))
  else if space = 1 then leBytes ((List.range 4).map (fun k => c.qByte e (a + k)))
  else if space = 2 then c.mw (a / 4)
  else if flt then toF32 (e.s.ptType a) (c.pRaw e a) else toI32 (e.s.ptType a) (c.pRaw e a)

/-- Write a bit operand. -/
def LgCpu.writeBit (e : LgEnv) (c : LgCpu) (space a : Nat) (b : Bool) : Option LgCpu :=
  if space = 1 then some (c.putQ (a / 8) (natSetBit (c.qByte e (a / 8)) (a % 8) b))
  else if space = 2 then c.putM (a / 32) (natSetBit (c.mw (a / 32)) (a % 32) b)
  else some (c.putP a (fromI32 (e.s.ptType a) (b2n b), false))

/-- Write a word operand. -/
def LgCpu.writeWord (e : LgEnv) (c : LgCpu) (flt : Bool) (space a v : Nat) : Option LgCpu :=
  if space = 1 then some ((List.range 4).foldl (fun c k => c.putQ (a + k) (byteOf v k)) c)
  else if space = 2 then c.putM (a / 4) v
  else some (c.putP a (if flt then fromF32 (e.s.ptType a) v else (fromI32 (e.s.ptType a) v, false)))

/-! Bits (R279). -/

/-- A read form: `v` into BA by an operation, 0 load, 1 and, 2 or, 3 exclusive or. -/
def LgCpu.bitRead (c : LgCpu) (op : Nat) (v : Bool) : LgCpu :=
  let b := if op = 0 ∨ c.cs = true then v else if op = 1 then c.ba && v else if op = 2 then c.ba || v else c.ba != v
  { c with ba := b, cs := false }

/-! Integers and floats (R280). -/

def i32 (w : Nat) : Int := signedOf 32 w

/-- An exact result narrowed to 32 bits, with OV on signed overflow. -/
def LgCpu.intRes (c : LgCpu) (r : Int) : LgCpu :=
  { c with wa := toSigned 32 r, ov := c.ov || decide (r < -2147483648) || decide (2147483647 < r) }

/-- A result the manual does not state: a free value in WA. -/
def LgCpu.freeWa (c : LgCpu) : LgCpu := { c with wa := (Config.freeValue c.free).toNat, free := c.free + 1 }

/-- DIV; the quotient 2^31 of −2^31 and −1 and its OV are open. -/
def LgCpu.div (c : LgCpu) (x : Nat) : LgCpu :=
  if x = 0 then { c with wa := 0, ov := true }
  else
    let q := Int.tdiv (i32 c.wa) (i32 x)
    if q = 2147483648 then
      let d := c.freeWa
      { d with ov := c.ov || (Config.freeValue d.free).toNat % 2 == 1, free := d.free + 1 }
    else { c with wa := toSigned 32 q }

/-- FTI; the integer for a NaN is open, and OV sets. -/
def LgCpu.fti (c : LgCpu) : LgCpu :=
  if isNan f32 c.wa then { c.freeWa with ov := true }
  else
    let x := convF f32 f64 c.wa
    let r := satRound (-2147483648) 2147483647 x
    { c with wa := toSigned 32 r, ov := c.ov || !finite f32 c.wa || roundIntF f64 x != r }

def sar (w k : Nat) : Nat := toSigned 32 (i32 w / (2 ^ k : Nat))

/-! Instances (R284 to R287). -/

/-- Write several M words. -/
def LgCpu.putMs (c : LgCpu) : List (Nat × Nat) → Option LgCpu
  | [] => some c
  | (w, v) :: t => match c.putM w v with
    | some d => d.putMs t
    | none => none

/-- RED and FED (R285). -/
def LgCpu.edge (c : LgCpu) (rising : Bool) (a : Nat) : Option LgCpu :=
  let w := c.mw (a / 4)
  let mem := natBit w 30
  let out := natBit w 31 && (if rising then c.ba && !mem else mem && !c.ba)
  match c.putM (a / 4) (natSetBit (natSetBit w 31 true) 30 c.ba) with
  | some d => some { d with ba := out, cs := false }
  | none => none

/-- Timers (R286): kind 0 TON, 1 TOF, 2 TP; `t` is LG_MONO at the snapshot. -/
def LgCpu.timer (c : LgCpu) (kind t a : Nat) : Option LgCpu :=
  let b := a / 4
  let w := c.mw b
  let in_ := c.ba
  let init := natBit w 31
  let pin := if init then natBit w 30 else in_
  let q0 := if init then natBit w 28 else kind == 1 && in_
  let et := if init then c.mw (b + 1) + c.mw (b + 2) * 2 ^ 32 else 0
  let stamp := if init then c.mw (b + 3) + c.mw (b + 4) * 2 ^ 32 else t
  let unit := if natBit w 29 then 800000 else 800
  let ptc := c.wa * unit
  let d := t - stamp
  let up := min (et + d) ptc
  let r : Nat × Bool :=
    if kind = 0 then
      let e := if in_ && pin then up else 0
      (e, in_ && decide (ptc ≤ e))
    else if kind = 1 then
      if in_ then (0, true) else if pin then (0, decide (0 < ptc)) else if q0 then (up, decide (up < ptc)) else (et, q0)
    else
      if q0 then (up, decide (up < ptc))
      else if in_ && !pin && decide (0 < ptc) then (0, true) else if !in_ then (0, false) else (et, false)
  let w' := natSetBit (natSetBit (natSetBit w 31 true) 30 in_) 28 r.2
  match c.putMs [(b, w'), (b + 1, r.1 % 2 ^ 32), (b + 2, r.1 / 2 ^ 32), (b + 3, t % 2 ^ 32), (b + 4, t / 2 ^ 32)] with
  | some x => some { x with ba := r.2, cs := false, wa := r.1 / unit % 2 ^ 32 }
  | none => none

/-- CTU and CTD (R287). -/
def LgCpu.count (c : LgCpu) (up : Bool) (a : Nat) : Option LgCpu :=
  let b := a / 4
  let w := c.mw b
  let edge := natBit w 31 && c.ba && !natBit w 30
  let cv := i32 (c.mw (b + 1))
  let cv' := if edge then (if up then min (cv + 1) 2147483647 else max (cv - 1) (-2147483648)) else cv
  match c.putMs [(b, natSetBit (natSetBit w 31 true) 30 c.ba), (b + 1, toSigned 32 cv')] with
  | some x => some { x with ba := (if up then decide (i32 c.wa ≤ cv') else decide (cv' ≤ 0)), wa := toSigned 32 cv', cs := false }
  | none => none

/-! One instruction (Table 10.3). -/

/-- Cycles of an instruction; `taken` for a conditional jump. -/
def lgCost (op : Nat) (taken : Bool) : Nat :=
  if 0x13 ≤ op ∧ op ≤ 0x1B then 4
  else if op = 0x22 then 2
  else if op = 0x23 then 12
  else if op = 0x35 then 10
  else if [0x32, 0x33, 0x34, 0x36, 0x37, 0x38, 0x39].contains op then 3
  else if [0x3A, 0x3D, 0x3E].contains op then 2
  else if (op = 0x3B ∨ op = 0x3C) ∧ taken = true then 2
  else 1

/-- What an instruction leads to. -/
inductive LgStep where
  | go (c : LgCpu)
  | end_ (c : LgCpu)
  | fault (cause : Nat)

/-- A step that may find the undo store full. -/
def lgMaybe : Option LgCpu → LgStep
  | some c => .go c
  | none => .fault 4

/-- A compare: BA, and CS clear. -/
def LgCpu.cmp (c : LgCpu) (b : Bool) : LgStep := .go { c with ba := b, cs := false }

/-- A jump to an instruction, or on. -/
def LgCpu.jump (c : LgCpu) (taken : Bool) (dest : Nat) : LgStep := .go (if taken then { c with pc := dest } else c)

/-- Run one instruction; the program counter of `c` already points to the next one. -/
def lgInstr (e : LgEnv) (c : LgCpu) (op sp a : Nat) : LgStep :=
  let x (f : Bool) : Nat := c.readWord e f sp a
  match op with
  | 0x00 => .go c
  | 0x01 => .go (c.bitRead 0 (c.readBit e sp a))
  | 0x02 => .go (c.bitRead 0 (!c.readBit e sp a))
  | 0x03 => .go (c.bitRead 1 (c.readBit e sp a))
  | 0x04 => .go (c.bitRead 1 (!c.readBit e sp a))
  | 0x05 => .go (c.bitRead 2 (c.readBit e sp a))
  | 0x06 => .go (c.bitRead 2 (!c.readBit e sp a))
  | 0x07 => .go (c.bitRead 3 (c.readBit e sp a))
  | 0x08 => .go (c.bitRead 3 (!c.readBit e sp a))
  | 0x09 | 0x0A | 0x0B =>
    if 16 ≤ c.nest.length then .fault 2 else .go { c with nest := (c.ba, op - 8) :: c.nest, cs := true }
  | 0x0C => match c.nest with
    | [] => .fault 2
    | (v, o) :: t =>
      let b := if c.cs then v else if o = 1 then v && c.ba else if o = 2 then v || c.ba else v != c.ba
      .go { c with nest := t, ba := b, cs := false }
  | 0x0D => .go { c with ba := !c.ba }
  | 0x0E => .go { c with ba := (if a = 0 then false else if a = 1 then true else c.ov), ov := c.ov && a != 2, cs := false }
  | 0x0F => lgMaybe (c.writeBit e sp a c.ba)
  | 0x10 => lgMaybe (c.writeBit e sp a (!c.ba))
  | 0x11 => if c.ba then lgMaybe (c.writeBit e sp a true) else .go c
  | 0x12 => if c.ba then lgMaybe (c.writeBit e sp a false) else .go c
  | 0x13 => lgMaybe (c.edge true a)
  | 0x14 => lgMaybe (c.edge false a)
  | 0x15 => lgMaybe (c.timer 0 e.mono a)
  | 0x16 => lgMaybe (c.timer 1 e.mono a)
  | 0x17 => lgMaybe (c.timer 2 e.mono a)
  | 0x18 => lgMaybe (c.count true a)
  | 0x19 => lgMaybe (c.count false a)
  | 0x1A => if c.ba then lgMaybe (c.putM (a / 4 + 1) 0) else .go c
  | 0x1B => if c.ba then lgMaybe (c.putM (a / 4 + 1) c.wa) else .go c
  | 0x1C => .go { c with wa := x false }
  | 0x1D => lgMaybe (c.writeWord e false sp a c.wa)
  | 0x1E => .go { c with wa := toSigned 32 (signedOf 24 a) }
  | 0x1F => .go { c with wa := a % 65536 * 65536 + c.wa % 65536 }
  | 0x20 => .go (c.intRes (i32 c.wa + i32 (x false)))
  | 0x21 => .go (c.intRes (i32 c.wa - i32 (x false)))
  | 0x22 => .go (c.intRes (i32 c.wa * i32 (x false)))
  | 0x23 => .go (c.div (x false))
  | 0x24 => .go { c with wa := c.wa &&& x false }
  | 0x25 => .go { c with wa := c.wa ||| x false }
  | 0x26 => .go { c with wa := c.wa ^^^ x false }
  | 0x27 => .go { c with wa := c.wa * 2 ^ (a % 32) % 2 ^ 32 }
  | 0x28 => .go { c with wa := c.wa / 2 ^ (a % 32) }
  | 0x29 => .go { c with wa := sar c.wa (a % 32) }
  | 0x2A => c.cmp (c.wa == x false)
  | 0x2B => c.cmp (c.wa != x false)
  | 0x2C => c.cmp (decide (i32 c.wa < i32 (x false)))
  | 0x2D => c.cmp (decide (i32 c.wa ≤ i32 (x false)))
  | 0x2E => c.cmp (decide (i32 (x false) < i32 c.wa))
  | 0x2F => c.cmp (decide (i32 (x false) ≤ i32 c.wa))
  | 0x30 => .go { c with wa := x true }
  | 0x31 => lgMaybe (c.writeWord e true sp a c.wa)
  | 0x32 => .go { c with wa := fadd f32 c.wa (x true) }
  | 0x33 => .go { c with wa := fsub f32 c.wa (x true) }
  | 0x34 => .go { c with wa := fmul f32 c.wa (x true) }
  | 0x35 => .go { c with wa := fdiv f32 c.wa (x true) }
  | 0x36 => c.cmp (flt f32 c.wa (x true))
  | 0x37 => c.cmp (flt f32 (x true) c.wa)
  | 0x38 => .go { c with wa := ofInt f32 (i32 c.wa) }
  | 0x39 => .go c.fti
  | 0x3A => c.jump true (a % 2 ^ 21)
  | 0x3B => c.jump c.ba (a % 2 ^ 21)
  | 0x3C => c.jump (!c.ba) (a % 2 ^ 21)
  | 0x3D =>
    if 32 ≤ c.calls.length then .fault 3
    else .go { c with calls := (c.pc, c.nest.length) :: c.calls, pc := a % 2 ^ 21 }
  | 0x3E => match c.calls with
    | [] => .fault 3
    | (r, d) :: t => if d = c.nest.length then .go { c with calls := t, pc := r } else .fault 3
  | _ => if c.nest.isEmpty then .end_ c else .fault 2

/-- Opcode, space and operand of a word (R278). -/
def lgOp (w : W32) : Nat := w.get 31 26
def lgSpace (w : W32) : Nat := w.get 25 24
def lgArg (w : W32) : Nat := w.get 23 0

/-- Is a conditional jump taken? -/
def LgCpu.taken (c : LgCpu) (op : Nat) : Bool := (op == 0x3B && c.ba) || (op == 0x3C && !c.ba)

/-- Run from the program counter until END, a fault, or the fabric cycles of the watchdog are spent. -/
def lgRun (e : LgEnv) (code : List W32) (limit : Nat) : Nat → LgCpu → LgCpu × LgEnd
  | 0, c => (c, .endless)
  | n + 1, c =>
    if limit ≤ c.cost then (c, .endless)
    else
      let w := code.getD c.pc 0
      let op := lgOp w
      match lgInstr e { c with pc := c.pc + 1, cost := c.cost + lgCost op (c.taken op) } op (lgSpace w) (lgArg w) with
      | .go d => lgRun e code limit n d
      | .end_ d => (d, .done)
      | .fault k => (c, .fault k c.pc)

/-- A core at the start of a cycle (R278). -/
def LgCpu.start (s : State) (entry : Nat) : LgCpu :=
  { pc := entry, ba := false, cs := true, wa := 0, ov := false, nest := [], calls := [], q := [], p := [], m := s.lg.m
    undo := [], entries := 0, cost := 0, free := s.free }

end Sys2Proof.Machine
end

