-- ==== Sys2Proof/Machine/Logic.lean ====
section
/-! DEFINITION. The logic engine (10_logic_engine.md): causes and the error task, cycles, triggers, stations as tasks see
them, core failure, restarts, and the checks of LG settings. -/

namespace Sys2Proof.Machine

open Sys2Proof

/-! Tasks and cores. -/

/-- Logic cores (R273). -/
def State.nCore (s : State) : Nat := s.byVar 4 4 2

def State.coreFailed (s : State) (k : Nat) : Bool := s.rd LG_CORE_STATE k == 2

def State.liveCores (s : State) : List Nat := (List.range s.nCore).filter (fun k => !s.coreFailed k)

/-- Defined tasks, in number order. -/
def State.lgTasks (s : State) : List Nat := (List.range 64).filter (fun n => s.flag LG_TASK_EN n)

def State.homed (s : State) (k : Nat) : List Nat := s.lgTasks.filter (fun n => s.rd LG_TASK_HOME n == k)

/-- The error task of the active image. -/
def State.errorTask (s : State) : Option Nat := s.lgTasks.find? (fun n => s.rd LG_TASK_KIND n == 2)

/-- Core states and task counts as they show. -/
def State.lgShow (s : State) : State :=
  (List.range s.nCore).foldl (fun s k =>
    let n := (s.homed k).length
    let s1 := s.wr LG_CORE_NTASK k n
    if s1.coreFailed k then s1 else s1.wr LG_CORE_STATE k (if s1.lg.running && n != 0 then 0 else 1)) s

/-! Causes (R295). -/

def State.causes (s : State) (k : Nat) : List LgCause := mget (fun _ => []) s.lg.causes k
def State.mergedOf (s : State) (k : Nat) : Nat := mget (fun _ => 0) s.lg.merged k

/-- Show a cause in LG_ERR. -/
def State.lgErrShow (s : State) (c : LgCause) : State :=
  (c.words.zipIdx).foldl (fun s e => s.putWord 0x20 4 0 e.2 (BitVec.ofNat 32 e.1)) s

/-- The OVERFLOW record of a core: it carries the count of the causes merged. -/
def State.overflow (s : State) (core : Nat) : LgCause := ⟨0xFF, 0xFF, core, s.mergedOf core, 0, 0, s.mono, s.now⟩

/-- A cause waits on a core for the error task; beyond 64 it is merged into OVERFLOW. -/
def State.waitCause (s : State) (core : Nat) (c : LgCause) : State :=
  if s.errorTask.isNone then s
  else if (s.causes core).length < 64 then
    { s with lg := { s.lg with causes := mset (fun _ => []) core (s.causes core ++ [c]) s.lg.causes } }
  else
    let s1 : State := { s with lg := { s.lg with merged := mset (fun _ => 0) core (s.mergedOf core + 1) s.lg.merged } }
    s1.lgErrShow (s1.overflow core)

/-- A cause that arose on one core, for the error task on another: LG_ERR, the event recorder, and its wait. -/
def State.causeAt (s : State) (arose core cause task par0 par1 index : Nat) : State :=
  let c : LgCause := ⟨cause, task, arose, par0, par1, index, s.mono, s.now⟩
  ((s.lgErrShow c).stateRec 0x20 (cause % 256) (task % 256) (par0 % 2 ^ 32) (par1 % 2 ^ 32) index false).waitCause core c

/-- A cause on a core. -/
def State.causeOn (s : State) (core cause task par0 par1 index : Nat) : State := s.causeAt core core cause task par0 par1 index

/-- A cause that concerns a task waits on its core; one that concerns none, on the lowest-numbered live core. -/
def State.taskCause (s : State) (cause task par0 par1 index : Nat) : State :=
  s.causeOn (s.rd LG_TASK_HOME task) cause task par0 par1 index

def State.freeCause (s : State) (cause par0 par1 : Nat) : State :=
  s.causeOn (s.liveCores.headD 0) cause 0xFF par0 par1 0

/-- Causes wait on a core, and an error task takes them. -/
def State.causesWait (s : State) (k : Nat) : Bool :=
  s.errorTask.isSome && (!(s.causes k).isEmpty || s.mergedOf k != 0)

/-! Demands of logic (R290, R301). -/

/-- Hand a Q byte to the Umpire as a logic demand. -/
def State.handQ (s : State) (b v : Nat) : State :=
  { s with um := { s.um with
    q := mset (fun _ => none) b (some (v % 256)) s.um.q
    qOnce := s.um.qOnce.filter (fun x => x != b) } }

/-- Owned bytes of a task: byte and safe value. -/
def State.owned (s : State) (n : Nat) : List (Nat × Nat) :=
  match s.lg.active with
  | some im => (im.qown.filter (fun o => o.2.1 == n)).map (fun o => (o.1, o.2.2))
  | none => []

/-- A task's outputs take their safe values. -/
def State.safeOutputs (s : State) (n : Nat) : State :=
  (s.owned n).foldl (fun s o =>
    State.handQ { s with lg := { s.lg with q := mset (fun _ => 0) o.1 (o.2 % 256) s.lg.q } } o.1 o.2) s

/-- Every task's outputs take their safe values (R300, R301, R303). -/
def State.allSafe (s : State) : State := s.lgTasks.foldl State.safeOutputs s

/-! Cycles. -/

/-- Some task of a core has its cycle open. -/
def State.coreBusy (s : State) (k : Nat) : Bool := (s.homed k).any (fun n => (s.lgTask n).open_.isSome)

/-- Count a core's busy time up to now: fabric cycles with a cycle open (LG_CORE.BUSY). -/
def State.busyTo (s : State) (k : Nat) : State :=
  let b := mget (fun _ => ⟨0, 0⟩) s.lg.busy k
  let n := if s.coreBusy k then s.elapsed - b.upTo else 0
  { s with lg := { s.lg with busy := mset (fun _ => ⟨0, 0⟩) k ⟨b.acc + n, s.elapsed⟩ s.lg.busy } }

/-- A second ends (of the block's run time, assumption 42): LG_CORE.BUSY shows its busy cycles. -/
def State.busyRoll (s : State) : State :=
  (List.range s.nCore).foldl (fun s k =>
    let s1 := s.busyTo k
    State.wr { s1 with lg := { s1.lg with busy := mset (fun _ => ⟨0, 0⟩) k ⟨0, s.elapsed⟩ s1.lg.busy } } LG_CORE_BUSY k
      (mget (fun _ => ⟨0, 0⟩) s1.lg.busy k).acc) s

/-- Undo an open cycle's writes of M (R289). -/
def undoM (m : AMap Nat) (log : AMap (Option Nat)) : AMap Nat :=
  log.foldl (fun m e => match e.2 with
    | some v => mset (fun _ => 0) e.1 v m
    | none => m) m

/-- Drop a task's open cycle without a trace in M, Q or P; a trigger latched during it pends (R293, R294). -/
def State.dropCycle (s : State) (n : Nat) : State :=
  let x := s.lgTask n
  match x.open_ with
  | none => s
  | some o =>
    let s1 := s.busyTo (s.rd LG_TASK_HOME n)
    State.setLgTask { s1 with lg := { s1.lg with m := undoM s1.lg.m o.undo } } n
      { x with open_ := none, pend := x.pend || x.latched, latched := false }

/-- Drop every open cycle (R301, R302). -/
def State.dropCycles (s : State) : State :=
  s.lgTasks.foldl (fun s n => if (s.lgTask n).open_.isSome then (s.dropCycle n).bump LG_TSTAT_ABANDON n 1 else s) s

/-- Abandon a task's open cycle for a cause (R294): a second one in succession stops the task. -/
def State.abandon (s : State) (n cause par1 index : Nat) : State :=
  let s1 := (s.dropCycle n).bump LG_TSTAT_ABANDON n 1
  if s.errorTask = some n then s1.notify 0x20 1 3 n cause 0 0
  else
    let x := s1.lgTask n
    let s2 := (s1.setLgTask n { x with fails := x.fails + 1 }).taskCause cause n n par1 index
    let s3 := s2.notify 0x20 1 2 n cause 0 0
    if x.fails = 0 then s3 else ((s3.wr LG_TASK_STOPPED n 1).safeOutputs n).notify 0x20 2 3 n 0 0 0

/-- Tasks may run (R301, R302). -/
def State.lgOn (s : State) : Bool :=
  s.umOn && s.lg.running && (s.mo.letClass != 2 || s.mo.letResumed) && (s.mo.mode == .commission || s.mo.mode == .run || s.mo.mode == .letMode)

/-- Open cycles complete: tasks run, or a SENTINEL entry has not reached t1 (R301). -/
def State.lgEnds (s : State) : Bool :=
  s.lgOn || (s.umOn && s.lg.running && s.mo.mode == .sentinel && s.mo.sent == .entering 0)

/-- No switch quiesces and no carry-over is under way (R311). -/
def State.lgFree (s : State) : Bool := s.lg.switch.isNone && decide (s.lg.holdTo ≤ s.elapsed)

/-- A user task is ready by itself: its kind's trigger, MIN_INT, and no open cycle. -/
def State.taskReady (s : State) (n : Nat) : Bool :=
  let x := s.lgTask n
  s.flag LG_TASK_EN n && !s.flag LG_TASK_STOPPED n && x.open_.isNone && !s.coreFailed (s.rd LG_TASK_HOME n)
    && (match s.rd LG_TASK_KIND n with
      | 0 => x.lastSnap == 0 || decide (x.lastSnap + usUnits x.minInt ≤ s.elapsed + 1)
      | 1 => x.pend
      | _ => false)

/-- Its core is free for it: no cause waits, no task of higher priority is ready or open, none of its own priority is
open or, ready, has waited longer: tasks of equal priority take turns (R292, R295). -/
def State.coreFree (s : State) (n : Nat) : Bool :=
  let k := s.rd LG_TASK_HOME n
  !s.causesWait k && (s.homed k).all (fun t =>
    t == n || s.rd LG_TASK_KIND t == 2 ||
      (if s.rd LG_TASK_PRIO n < s.rd LG_TASK_PRIO t then !s.taskReady t && (s.lgTask t).open_.isNone
       else s.rd LG_TASK_PRIO t < s.rd LG_TASK_PRIO n || ((s.lgTask t).open_.isNone
        && !(s.taskReady t && decide ((s.lgTask t).lastSnap < (s.lgTask n).lastSnap)))))

/-- No cycle of higher priority preempts an open one (R292). -/
def State.notPreempted (s : State) (n : Nat) : Bool :=
  (s.homed (s.rd LG_TASK_HOME n)).all (fun t =>
    s.rd LG_TASK_KIND t == 2 || decide (s.rd LG_TASK_PRIO t ≤ s.rd LG_TASK_PRIO n) || (s.lgTask t).open_.isNone)

/-- Stations of the active image that deliver live inputs. -/
def State.liveStations (s : State) : List Nat :=
  match s.lg.active with
  | some im => (im.stations.filter (fun m => (s.stn m.stn).live)).map (·.stn)
  | none => []

/-- Execute a task from its entry at this snapshot. -/
def State.execTask (s : State) (n : Nat) (err : Option LgCause) : State × LgOpen :=
  let wdt := s.rd LG_TASK_WDT n
  let code := match s.lg.active with
    | some im => im.code
    | none => []
  let r := lgRun ⟨s, n, err, s.mono⟩ code (wdt * 800) (wdt * 800 + 1) (LgCpu.start s (s.rd LG_TASK_ENTRY n))
  let c := r.1
  ({ s with lg := { s.lg with m := c.m }, free := c.free },
   ⟨s.elapsed, wdt, c.q, c.p, c.undo, c.entries, r.2, s.liveStations⟩)

/-- High-water mark of a core's undo store. -/
def State.undoMark (s : State) (k entries : Nat) : State :=
  if s.rd LG_CORE_UNDO_HWM k < entries then s.wr LG_CORE_UNDO_HWM k entries else s

/-- A cycle time is known at the next snapshot (R291). -/
def State.cycleTime (s : State) (n : Nat) : State :=
  let x := s.lgTask n
  if x.lastSnap = 0 then s
  else
    let t := min 0xFFFFFFFF ((s.elapsed + 1 - x.lastSnap) * 5 / 4)
    let s1 := s.wr LG_TSTAT_LAST n t
    let s2 := if t < s1.rd LG_TSTAT_MIN n then s1.wr LG_TSTAT_MIN n t else s1
    if s2.rd LG_TSTAT_MAX n < t then s2.wr LG_TSTAT_MAX n t else s2

/-- LOGIC_CYCLE_SNAPSHOT (R288, R289, R292): the snapshot and the execution; a fault abandons the cycle. -/
def execLogicCycleSnapshot (task : Nat) (s : State) : Res :=
  if !s.lgOn || !s.lgFree || decide (64 ≤ task) || !s.taskReady task || !s.coreFree task then .next s
  else
    let s0 := (s.cycleTime task).busyTo (s.rd LG_TASK_HOME task)
    let r := s0.execTask task none
    let x := r.1.lgTask task
    let s1 := (r.1.setLgTask task { x with
      open_ := some r.2
      lastSnap := s.elapsed + 1
      minInt := s.rd LG_TASK_MIN_INT task
      pend := false }).undoMark (s.rd LG_TASK_HOME task) r.2.entries
    match r.2.ended with
    | .fault k i => .next (s1.abandon task k i i)
    | _ => .next s1


/-- The station whose Q area holds a byte. -/
def State.qStation (s : State) (b : Nat) : Option LgStation :=
  match s.lg.active with
  | some im => im.stations.find? (fun m => decide (m.qAddr ≤ b) && decide (b < m.qAddr + m.qLen))
  | none => none

/-- Bytes of a station that dropped out, or came back, during the cycle are not sent (R297, R298). -/
def State.qSent (s : State) (o : LgOpen) (b : Nat) : Bool :=
  match s.qStation b with
  | some m => o.liveStn.contains m.stn && (s.stn m.stn).live
  | none => true

/-- The output write (R290). -/
def State.outputWrite (s : State) (n : Nat) (o : LgOpen) : State :=
  let s1 := (s.owned n).foldl (fun s e =>
    let v := (mget (fun _ => none) o.q e.1).getD (mget (fun _ => 0) s.lg.q e.1)
    let s1 : State := { s with lg := { s.lg with q := mset (fun _ => 0) e.1 v s.lg.q } }
    if s.qSent o e.1 then s1.handQ e.1 v else s1) s
  o.p.foldl (fun s e => match e.2 with
    | some v => s.umWrite ⟨e.1, v.1, v.2, 5, 5, 0, none, 0, none, none, false⟩
    | none => s) s1

/-- Count a completed cycle (LG_TSTAT.CYCLE). -/
def State.countCycle (s : State) (n : Nat) : State :=
  let c := s.rdk LG_TSTAT_CYCLE n 0 + s.rdk LG_TSTAT_CYCLE n 1 * 2 ^ 32 + 1
  (s.wrk LG_TSTAT_CYCLE n 0 (c % 2 ^ 32)).wrk LG_TSTAT_CYCLE n 1 (c / 2 ^ 32 % 2 ^ 32)

/-- Close a cycle that reached END. -/
def State.closeCycle (s : State) (n : Nat) (o : LgOpen) : State :=
  let s1 := ((s.outputWrite n o).busyTo (s.rd LG_TASK_HOME n)).countCycle n
  let x := s1.lgTask n
  s1.setLgTask n { x with open_ := none, fails := 0, pend := x.pend || x.latched, latched := false }

/-- A trigger is lost: counted, and EVT_LOST with the losses of the last second at most once per second. -/
def State.evtLost (s : State) (n : Nat) (x : LgTask) : State :=
  let lost := s.tai :: x.lost.filter (fun t => decide (s.tai < t + 1000000000))
  let s1 := s.bump LG_TSTAT_EVT_LOST n 1
  if x.lostAt = 0 ∨ x.lostAt + unitsPerSec ≤ s.elapsed + 1 then
    (s1.setLgTask n { x with lost := lost, lostAt := s.elapsed + 1 }).notify 0x20 4 1 n lost.length 0 0
  else s1.setLgTask n { x with lost := lost }

/-- The last instant of an event task's interval, counted from the second boundary. -/
def State.intervalAt (s : State) (n : Nat) : Nat :=
  s.tu.sec * 1000000000 + s.tu.ns / (s.rd LG_TASK_INTERVAL n * 1000) * (s.rd LG_TASK_INTERVAL n * 1000)

/-- A trigger of the task's kind: an interval triggers once, at its instant; the row reports the edges and changes of the other
kinds (assumption 42). -/
def State.trigDue (s : State) (n : Nat) : Bool :=
  s.rd LG_TASK_TRIG n != 3 || decide ((s.lgTask n).trigAt ≤ s.intervalAt n)

/-- EVENT_TASK_TRIGGER (R293): one pends, one more is latched, the rest are counted. -/
def execEventTaskTrigger (task : Nat) (s : State) : Res :=
  let x : LgTask := if s.rd LG_TASK_TRIG task = 3 then { s.lgTask task with trigAt := s.intervalAt task + 1 } else s.lgTask task
  if !s.umOn || !s.lg.running || !s.flag LG_TASK_EN task || s.rd LG_TASK_KIND task != 1 || s.flag LG_TASK_STOPPED task
      || !s.trigDue task then .next s
  else if !x.pend && x.open_.isNone then .next (s.setLgTask task { x with pend := true })
  else if !x.latched then .next (s.setLgTask task { x with latched := true })
  else .next (s.evtLost task x)

/-- Take the next cause of a core: the oldest, then the merged ones as OVERFLOW. -/
def State.nextCause (s : State) (k : Nat) : Option (LgCause × State) :=
  match s.causes k with
  | c :: t => some (c, { s with lg := { s.lg with causes := mset (fun _ => []) k t s.lg.causes } })
  | [] =>
    if s.mergedOf k = 0 then none
    else some (s.overflow k, { s with lg := { s.lg with merged := mset (fun _ => 0) k 0 s.lg.merged } })

/-- The error task runs one cycle for the next cause of a core (R295): the state, and whether it wrote outputs. -/
def State.errorTaskRun (s : State) (core : Nat) : Option (State × Bool) :=
  match s.errorTask with
  | none => none
  | some n =>
    if !s.lgOn || !s.lgFree || decide (s.nCore ≤ core) || s.coreFailed core || s.flag LG_TASK_STOPPED n then none
    else match s.nextCause core with
      | none => none
      | some (c, s0) =>
        let r := (s0.cycleTime n).execTask n (some c)
        let s1 := (r.1.setLgTask n { r.1.lgTask n with open_ := some r.2, lastSnap := s.elapsed + 1 }).undoMark core r.2.entries
        match r.2.ended with
        | .done => some (s1.closeCycle n r.2, true)
        | .fault k i => some (s1.abandon n k i i, false)
        | .endless => some (s1.abandon n 1 (min 0xFFFFFFFF (r.2.wdt * 1000)) 0, false)

/-! Stations as tasks see them (R297, R298). -/

/-- Tasks that own Q bytes of a station's area.  A task that only reads its inputs is found by its code. -/
def readsArea (code : List W32) (m : LgStation) (pcs : List Nat) : Bool :=
  pcs.any (fun p =>
    let w := code.getD p 0
    let op := lgOp w
    let a := if op ≤ 0x12 then lgArg w / 8 else lgArg w
    lgSpace w == 0 && op != 0 && (decide (op ≤ 0x08) || op == 0x1C || (decide (0x20 ≤ op) && decide (op ≤ 0x37)))
      && decide (m.iAddr < a + (if op ≤ 0x12 then 1 else 4)) && decide (a < m.iAddr + m.iLen))

/-- Instructions that may follow one. -/
def lgNexts (code : List W32) (p : Nat) : List Nat :=
  let w := code.getD p 0
  let op := lgOp w
  let t := lgArg w % 2 ^ 21
  if op = 0x3F ∨ op = 0x3E then [] else if op = 0x3A then [t]
  else if op = 0x3B ∨ op = 0x3C ∨ op = 0x3D then [p + 1, t] else [p + 1]

/-- Instructions reachable from a worklist. -/
def lgReach (code : List W32) : Nat → List Nat → List Nat → List Nat
  | 0, _, seen => seen
  | _ + 1, [], seen => seen
  | n + 1, p :: t, seen =>
    if seen.contains p || decide (code.length ≤ p) then lgReach code n t seen
    else lgReach code n (lgNexts code p ++ t) (p :: seen)

def imgReach (im : LogicImage) (entry : Nat) : List Nat := lgReach im.code (3 * im.code.length + 1) [entry] []

/-- Does a task of the active image use a station? -/
def State.usesStation (s : State) (n : Nat) (stn : Nat) : Bool :=
  match s.lg.active with
  | none => false
  | some im => im.stations.any (fun m => m.stn == stn &&
      ((s.owned n).any (fun o => decide (m.qAddr ≤ o.1) && decide (o.1 < m.qAddr + m.qLen))
        || readsArea im.code m (imgReach im (s.rd LG_TASK_ENTRY n))))

/-- Number of a task's last cycle with live inputs of a station that drops out now: the open cycle, or the one before the next. -/
def State.lastLive (s : State) (n stn : Nat) : Nat :=
  let c := s.rdk LG_TSTAT_CYCLE n 0 + s.rdk LG_TSTAT_CYCLE n 1 * 2 ^ 32
  match (s.lgTask n).open_ with
  | some o => if o.liveStn.contains stn then c else c - 1
  | none => c - 1

/-- STATION_LOST (0x10) or STATION_BACK (0x11) for every user task of a station, with PAR1 of each. -/
def State.stationCause (s : State) (cause stn : Nat) (par1 : Nat → Nat) : State :=
  (s.lgTasks.filter (fun n => s.rd LG_TASK_KIND n != 2 && s.usesStation n stn)).foldl (fun s n =>
    s.taskCause cause n stn (par1 n) 0) s

/-- A station drops out: its live bit clears and substitutes follow. -/
def State.stnLost (s : State) (stn : Nat) : State :=
  if (s.stn stn).live then
    (s.setStn stn { s.stn stn with live := false }).stationCause 0x10 stn (fun n => s.lastLive n stn % 2 ^ 32)
  else s

/-- A station delivers live inputs again. -/
def State.stnBack (s : State) (stn : Nat) : State :=
  if (s.stn stn).live then s else (s.setStn stn { s.stn stn with live := true }).stationCause 0x11 stn (fun _ => 0)

/-! Core failure (R299, R300). -/

/-- The live core with the smallest measured busy time. -/
def State.idlest (s : State) (l : List Nat) : Nat :=
  l.foldl (fun b k => if s.rd LG_CORE_BUSY k < s.rd LG_CORE_BUSY b then k else b) (l.headD 0)

/-- The causes that wait on a failed core follow their tasks; those of no task, and the merged ones, wait on core `k`. -/
def State.moveCauses (s : State) (core k : Nat) : State :=
  let s1 : State := { s with lg := { s.lg with
    causes := mset (fun _ => []) core [] s.lg.causes
    merged := mset (fun _ => 0) core 0 (mset (fun _ => 0) k (s.mergedOf k + s.mergedOf core) s.lg.merged) } }
  (s.causes core).foldl (fun s c => s.waitCause (if c.task < 64 then s.rd LG_TASK_HOME c.task else k) c) s1

/-- LOGIC_CORE_FAILURE: its cycles are abandoned and its tasks move; with the last core, LG stops. -/
def execLogicCoreFailure (core cause : Nat) (s : State) : Res :=
  if !s.umOn || decide (s.nCore ≤ core) || s.coreFailed core then .next s
  else
    let moved := s.homed core
    let s1 := (s.wr LG_CORE_STATE core 2).wr LG_CORE_FCAUSE core cause
    let s2 := moved.foldl (fun s n => if (s.lgTask n).open_.isSome then (s.dropCycle n).bump LG_TSTAT_ABANDON n 1 else s) s1
    let live := s2.liveCores
    if live.isEmpty then
      let s3 := s2.allSafe
      .next ((State.lgShow { s3 with lg := { s3.lg with running := false } }).notify 0x20 3 4 core moved.length 0 0)
    else
      let s3 := moved.foldl (fun s n => s.wr LG_TASK_HOME n (s.idlest live)) s2
      let s4 := s3.moveCauses core (live.headD 0)
      let s5 := (moved.filter (fun n => s.rd LG_TASK_KIND n != 2)).foldl (fun s n =>
        s.causeAt core (s.rd LG_TASK_HOME n) 0x20 n core (s.rd LG_TASK_HOME n) 0) s4
      .next (s5.lgShow.notify 0x20 3 2 core moved.length live.length 0)

/-! Restarts (R301 to R303). -/

/-- Give the timers of the active image their time base, in cleared M. -/
def imgFreshM (im : LogicImage) : AMap Nat :=
  im.insts.foldl (fun m r =>
    let w := r.getD 0 0
    if w.get 31 28 = 3 ∧ w.get 25 25 = 1 then mset (fun _ => 0) (w.get 23 0 / 4) (2 ^ 29) m else m) []

/-- A task starts: not stopped, on the core that its image names, or on a live one. -/
def State.homeTask (s : State) (n : Nat) : State :=
  let k := s.rd LG_TASK_CORE n
  ((s.wr LG_TASK_STOPPED n 0).wr LG_TASK_HOME n (if s.coreFailed k then s.idlest s.liveCores else k)).wr LG_TASK_EN n 1

/-- Every task of the active image starts; WDT and MIN_INT stay as written (R305, R367). -/
def State.rehome (s : State) : State :=
  match s.lg.active with
  | none => s.lgShow
  | some im => (im.tasks.foldl (fun s t => s.homeTask t.1) s).lgShow

/-- Show the tasks of an image (R305), every word. -/
def State.homeTasks (s : State) : State :=
  let s0 := (List.range 64).foldl (fun s n =>
    (List.range 5).foldl (fun s w => s.putWord 0x20 2 n w 0) s) s
  match s.lg.active with
  | none => s0.lgShow
  | some im =>
    State.rehome (im.tasks.foldl (fun s t =>
      (t.2.2.zipIdx).foldl (fun s e => if e.2 < 5 then s.putWord 0x20 2 t.1 e.2 e.1 else s) s) s0)

/-- STATION_LOST for the stations of the active image that are not live (R296, R313), but those in `old`. -/
def State.lostStations (s : State) (old : List Nat) : State :=
  match s.lg.active with
  | none => s
  | some im => (im.stations.filter (fun m => !old.contains m.stn && !(s.stn m.stn).live)).foldl
      (fun s m => s.stationCause 0x10 m.stn (fun _ => 0)) s

/-- A cold start of LG (R303). -/
def State.lgCold (s : State) : State :=
  let m := match s.lg.active with
    | some im => imgFreshM im
    | none => []
  let s1 : State := { s with lg := { s.lg with
    m := m
    q := []
    tasks := []
    causes := []
    merged := []
    holdTo := 0
    monoBase := some (s.lg.monoBase.getD s.elapsed)
    running := s.lg.active.isSome && !s.liveCores.isEmpty } }
  let s2 := (List.range 64).foldl (fun s n => (List.range 6).foldl (fun s w =>
    s.putWord 0x20 3 n w (resetWord 0x20 3 w)) s) s1
  let s3 := (List.range s.nCore).foldl (fun s k => s.wr LG_CORE_UNDO_HWM k 0) s2
  (State.allSafe { s3.rehome with um := { s3.um with q := [], qOnce := [] } }).lostStations []

/-- RESUMED for every user task (R302): 1 Let L2, 2 wake, 3 warm restart; the gap in ms. -/
def State.lgResumed (s : State) (kind gapMs : Nat) : State :=
  (s.lgTasks.filter (fun n => s.rd LG_TASK_KIND n != 2)).foldl (fun s n => s.taskCause 0x40 n kind gapMs 0) s

/-! Checks of LG settings (R305, R325). -/

def lgBad (s p : State) (r : WReq) : Bool :=
  if r.grp = 2 then !r.inRange s LG_TASK_WDT 1 10000000 || !r.inRange s LG_TASK_MIN_INT 0 10000000
  else if r.grp = 5 then !(decide (100 ≤ p.rd LG_BULLPEN_SW_WAIT 0) && decide (p.rd LG_BULLPEN_SW_WAIT 0 ≤ 10000000))
  else false

end Sys2Proof.Machine
end

