-- ==== Sys2Proof/Machine/Bullpen.lean ====
section
/-! DEFINITION. The Bullpen (11_bullpen_and_umpire.md): the checks of a logic image, loading, the switch, its carry-over,
rollback and cancellation. -/

namespace Sys2Proof.Machine

open Sys2Proof

/-! Image checks (Table 11.3). -/

/-- Byte offset and length of a section of Table 11.1, counted from the header. -/
def imgSection (im : LogicImage) (k : Nat) : Nat × Nat := im.sections.getD k (0, 0)

/-- The variant's bit in an image's variant mask. -/
def State.variantBit (s : State) : Nat := s.byVar 0 1 2

/-- Two sections overlap. -/
def overlap (a b : Nat × Nat) : Bool := decide (a.1 < b.1 + b.2) && decide (b.1 < a.1 + a.2)

/-- Some two entries of a list clash. -/
def anyPair {α : Type} (clash : α → α → Bool) : List α → Bool
  | [] => false
  | a :: t => t.any (clash a) || anyPair clash t

/-- Check 2: the header.  `room` is the length of the buffer. -/
def imgHeaderBad (im : LogicImage) (room : Nat) : Bool :=
  im.version != 1 || decide (16777216 < im.total) || decide (room < im.total) || im.sections.length != 8
    || im.sections.any (fun x => decide (im.total < x.1 + x.2)) || anyPair overlap im.sections
    || (imgSection im 1).2 != 4 * im.code.length || decide (2097152 < im.code.length)
    || (imgSection im 2).2 != 32 * im.tasks.length || (imgSection im 3).2 != 16 * im.insts.length

/-- Core a task record names. -/
def taskCore (t : Nat × Nat × List W32) : Nat := (t.2.2.getD 0 0).get 25 24

/-- Check 3: the object that is absent. -/
def State.imgAbsent (s : State) (im : LogicImage) : Option Nat :=
  match im.tasks.find? (fun t => decide (s.nCore ≤ taskCore t)) with
  | some t => some (mkObjId 0x20 t.1 2)
  | none => if natBit im.vmask s.variantBit then none
    else some (mkObjId 0x20 ((im.tasks.map (·.1)).headD 0) 2)

/-- Classes of Table 10.3: 0 bit, 1 word, 2 instance, 3 immediate. -/
def lgClass (op : Nat) : Nat :=
  if (1 ≤ op ∧ op ≤ 8) ∨ (0xF ≤ op ∧ op ≤ 0x12) then 0
  else if 0x13 ≤ op ∧ op ≤ 0x1B then 2
  else if op = 0x1C ∨ op = 0x1D ∨ (0x20 ≤ op ∧ op ≤ 0x26) ∨ (0x2A ≤ op ∧ op ≤ 0x37) then 1
  else 3

/-- Instructions that store to their operand. -/
def lgStores (op : Nat) : Bool := (decide (0xF ≤ op) && decide (op ≤ 0x12)) || op == 0x1D || op == 0x31

/-- Bytes of the I space that hold something (Table 10.2). -/
def iDefined (a : Nat) : Bool :=
  decide (a < 6) || (decide (8 ≤ a) && decide (a < 0xE)) || (decide (0x10 ≤ a) && decide (a < 0x14))
    || (decide (0x18 ≤ a) && decide (a < 0x3C)) || (decide (0x40 ≤ a) && decide (a < 0x240))
    || (decide (0x300 ≤ a) && decide (a < 0x320)) || (decide (0x1000 ≤ a) && decide (a < 0x40000))

/-- Bytes of the Q space that carry something (R276). -/
def qDefined (a : Nat) : Bool := decide (a < 3) || (decide (0x1000 ≤ a) && decide (a < 0x40000))

/-- An address of a space is usable: the byte that holds the bit, or the word's address. -/
def addrOk (space a : Nat) (word : Bool) : Bool :=
  if space = 0 then iDefined a
  else if space = 1 then qDefined a
  else decide (a < if word then 0x400000 else 0x200000)

/-- Operand bits an immediate instruction uses (R281). -/
def immBits (op : Nat) : Nat :=
  if op = 0x0E then 2 else if op = 0x1E then 24 else if op = 0x1F then 16 else if 0x27 ≤ op ∧ op ≤ 0x29 then 5
  else if 0x3A ≤ op ∧ op ≤ 0x3D then 21 else 0

/-- Kind of an instance record (Table 11.2), its function, time base, address, size, symbol. -/
def instKind (r : List W32) : Nat := (r.getD 0 0).get 31 28
def instFunc (r : List W32) : Nat := (r.getD 0 0).get 27 26
def instTb (r : List W32) : Nat := (r.getD 0 0).get 25 25
def instAddr (r : List W32) : Nat := (r.getD 0 0).get 23 0
def instSize (r : List W32) : Nat := (r.getD 1 0).toNat
def instSym (r : List W32) : Nat := (r.getD 2 0).toNat + (r.getD 3 0).toNat * 2 ^ 32

/-- Kind and function an instance opcode needs. -/
def lgKindOf (op : Nat) : Nat × Option Nat :=
  if op ≤ 0x14 then (1, none) else if op ≤ 0x17 then (3, some (op - 0x15)) else (2, none)

/-- The operand lies on a declared instance of the opcode's kind, and, with `func`, of its function. -/
def onInstance (im : LogicImage) (op a : Nat) (func : Bool) : Bool :=
  im.insts.any (fun r => instAddr r == a && instKind r == (lgKindOf op).1
    && (!func || match (lgKindOf op).2 with
      | some f => instFunc r == f
      | none => true))

/-- Size of a kind (Table 10.4). -/
def kindSize (k : Nat) : Nat := if k = 1 then 4 else if k = 2 then 8 else 32

/-- Q bytes an instruction stores to. -/
def qTouched (w : W32) : List Nat :=
  if !lgStores (lgOp w) || lgSpace w != 1 then []
  else if lgClass (lgOp w) = 0 then [lgArg w / 8] else (List.range 4).map (fun k => lgArg w + k)

/-- Tasks and the Q bytes their code stores to. -/
def qWriters (im : LogicImage) : List (Nat × List Nat) :=
  im.tasks.map (fun t => (t.1, (imgReach im ((t.2.2.getD 0 0).get 20 0)).flatMap (fun p => qTouched (im.code.getD p 0))))

/-- Check 4 for one instruction (R278, R281). -/
def lgWordBad (im : LogicImage) (writers : List (Nat × List Nat)) (w : W32) : Bool :=
  let op := lgOp w
  let sp := lgSpace w
  let a := lgArg w
  match lgClass op with
  | 0 => (lgStores op && sp == 0) || (if sp = 3 then natBit a 23 else !addrOk sp (a / 8) false)
      || (qTouched w).any (fun b => decide (1 < (writers.filter (fun x => x.2.contains b)).length))
  | 1 => (lgStores op && sp == 0) || (if sp = 3 then natBit a 23 else a % 4 != 0 || !addrOk sp a true)
      || (qTouched w).any (fun b => decide (1 < (writers.filter (fun x => x.2.contains b)).length))
  | 2 => sp != 2 || a % kindSize (lgKindOf op).1 != 0 || !onInstance im op a false
  | _ => sp != 0 || decide (2 ^ immBits op ≤ a) || (op == 0x0E && a == 3)

/-- Byte offset of the first instruction that fails a check. -/
def firstInstr (im : LogicImage) (bad : W32 → Bool) : Option Nat :=
  (im.code.zipIdx.find? (fun e => bad e.1)).map (fun e => (imgSection im 1).1 + 4 * e.2)

/-- Check 5 for one task. -/
def imgTaskBad (im : LogicImage) (t : Nat × Nat × List W32) : Bool :=
  let w0 := t.2.2.getD 0 0
  let w3 := t.2.2.getD 3 0
  let wdt := (t.2.2.getD 1 0).toNat
  let trig := w3.get 31 28
  decide (64 ≤ t.1) || decide (im.code.length ≤ w0.get 20 0) || w0.get 30 29 == 3
    || !(decide (1 ≤ wdt) && decide (wdt ≤ 10000000)) || decide (10000000 < (t.2.2.getD 2 0).toNat) || w3.get 25 23 != 0
    || (if w0.get 30 29 = 1 then
          !(decide (1 ≤ trig) && decide (trig ≤ 4))
            || ((trig == 1 || trig == 4) && w3.get 27 26 == 0)
            || (trig == 1 && decide (48 ≤ w3.get 22 0)) || (trig == 4 && decide (32 ≤ w3.get 22 0))
            || (trig == 3 && (let n := (t.2.2.getD 4 0).toNat
                 !(decide (10 ≤ n) && decide (n ≤ 1000000)) || 1000000 % n != 0))
        else trig != 0)

/-- Check 5: the byte offset of the first task at fault. -/
def imgTasks (im : LogicImage) : Option Nat :=
  let at_ (k : Nat) : Nat := (imgSection im 2).1 + 32 * k
  let errs := im.tasks.zipIdx.filter (fun e => (e.1.2.2.getD 0 0).get 30 29 == 2)
  let twice := im.tasks.zipIdx.find? (fun e => (im.tasks.take e.2).any (fun t => t.1 == e.1.1))
  if 64 < im.tasks.length then some (at_ 64)
  else if 1 < errs.length then some (at_ ((errs.map (·.2)).getD 1 0))
  else match im.tasks.zipIdx.find? (fun e => imgTaskBad im e.1), twice with
    | some e, _ => some (at_ e.2)
    | none, some e => some (at_ e.2)
    | none, none => none

/-- Check 6 for one record alone (R307). -/
def instBad (r : List W32) : Bool :=
  let k := instKind r
  let size := instSize r
  !(decide (1 ≤ k) && decide (k ≤ 4)) || (r.getD 0 0).get 24 24 != 0
    || (if k = 3 then instFunc r == 3 else instFunc r != 0 || instTb r != 0)
    || (if k = 4 then !(decide (4 ≤ size) && decide (size ≤ 2097152)) || size % 4 != 0 || instAddr r % 4 != 0
        else size != kindSize k || instAddr r % kindSize k != 0)
    || decide (0x400000 < instAddr r + size)

/-- Two records clash: one symbol, or one place in M. -/
def instClash (a b : List W32) : Bool :=
  instSym a == instSym b || overlap (instAddr a, instSize a) (instAddr b, instSize b)

/-- A store into an instance (R284): data blocks take stores. -/
def storesInst (im : LogicImage) (w : W32) : Bool :=
  let a := if lgClass (lgOp w) = 0 then lgArg w / 8 else lgArg w
  lgStores (lgOp w) && lgSpace w == 2
    && im.insts.any (fun r => instKind r != 4 && overlap (instAddr r, instSize r) (a, if lgClass (lgOp w) = 0 then 1 else 4))

/-- Check 6: the byte offset at fault. -/
def imgInsts (im : LogicImage) : Option Nat :=
  match im.insts.zipIdx.find? (fun e => instBad e.1 || (im.insts.take e.2).any (instClash e.1)) with
  | some e => some ((imgSection im 3).1 + 16 * e.2)
  | none => firstInstr im (fun w => storesInst im w || (lgClass (lgOp w) == 2 && !onInstance im (lgOp w) (lgArg w) true))

/-- Check 7: Q ownership, of every byte that a task stores to (R276), station areas and P-read sets. -/
def imgLastBad (im : LogicImage) : Bool :=
  anyPair (fun a b => a.1 == b.1) im.qown
    || im.qown.any (fun o => !qDefined o.1 || !(im.tasks.map (·.1)).contains o.2.1 || decide (256 ≤ o.2.2))
    || im.stations.any (fun m => decide (4096 ≤ m.stn) || m.rule == 3
        || (m.iLen != 0 && (decide (m.iAddr < 0x1000) || decide (0x40000 < m.iAddr + m.iLen)))
        || (m.qLen != 0 && (decide (m.qAddr < 0x1000) || decide (0x40000 < m.qAddr + m.qLen))))
    || anyPair (fun a b => a.stn == b.stn || overlap (a.iAddr, a.iLen) (b.iAddr, b.iLen)
        || overlap (a.qAddr, a.qLen) (b.qAddr, b.qLen)) im.stations
    || im.psets.any (fun p => decide (65536 < p.2.1.length))
    || (qWriters im).any (fun w => w.2.any (fun b => qDefined b && !(im.qown.any (fun o => o.1 == b && o.2.1 == w.1))))

/-- The first check that fails: status, RES0, and whether RES0 is open (the manual gives the place no layout). -/
def State.imgFault (s : State) (im : LogicImage) (room : Nat) (sigOk : Bool) : Option (Status × Nat × Bool) :=
  if !s.openedLike && (!sigOk || decide (im.svn < s.sc.cfgSvn)) then some (.authFail, 0, false)
  else if imgHeaderBad im room then some (.imageInvalid, 0, true)
  else match s.imgAbsent im with
    | some o => some (.unitAbsent, o, false)
    | none => match firstInstr im (lgWordBad im (qWriters im)) with
      | some o => some (.imageInvalid, o, false)
      | none => match imgTasks im with
        | some o => some (.imageInvalid, o, false)
        | none => match imgInsts im with
          | some o => some (.imageInvalid, o, false)
          | none => if imgLastBad im then some (.imageInvalid, 0, true) else none

/-! The plan (R309, R313). -/

/-- The old record that a new one carries on. -/
def carriedFrom (old : List (List W32)) (r : List W32) : Option (List W32) :=
  old.find? (fun o => instSym o == instSym r && instKind o == instKind r && (instKind r != 3 || instFunc o == instFunc r))

/-- Show the plan's counts. -/
def State.plan (s : State) (im : LogicImage) : State :=
  match s.lg.active with
  | none => (((s.wr LG_BULLPEN_KEPT 0 0).wr LG_BULLPEN_NEW 0 0).wr LG_BULLPEN_DROPPED 0 0).wr LG_BULLPEN_RESIZED 0 0
  | some old =>
    let kept := im.insts.filter (fun r => (carriedFrom old.insts r).isSome)
    let resized := kept.filter (fun r => match carriedFrom old.insts r with
      | some o => instSize o != instSize r
      | none => false)
    (((s.wr LG_BULLPEN_KEPT 0 (min 65535 kept.length)).wr LG_BULLPEN_NEW 0 (min 65535 (im.insts.length - kept.length))).wr
      LG_BULLPEN_DROPPED 0 (min 65535 (old.insts.length - kept.length))).wr LG_BULLPEN_RESIZED 0 (min 65535 resized.length)

/-- Show what the two banks hold. -/
def State.bankShow (s : State) (state : Nat) : State :=
  ((((s.wr LG_BULLPEN_STATE 0 state).setFlag LG_BULLPEN_ACTIVE 0 s.lg.active.isSome).wr LG_BULLPEN_CRC 0
    ((s.lg.bullpen.map (·.crc)).getD 0)).wr LG_BULLPEN_ACT_CRC 0 ((s.lg.active.map (·.crc)).getD 0))

def bullpenObj : Nat := 0x20000005

/-- Checks of the Bullpen's commands; `parBad` a parameter at fault. -/
def bullpenChecks (auth : Bool) (modes : List Mode) (form : Cmd → Bool) (parBad : Bool)
    (own : State → Cmd → Option (Status × Nat × Nat)) (s : State) (c : Cmd) : Checks :=
  { form := form c, bad := (if c.objid = bullpenObj then (if parBad then some (bullpenObj, 0) else none) else some (c.objid, 0))
    auth := auth, modes := s.inMode modes, own := own s c }

/-- BULLPEN_LOAD (R308, R309): checks, and the Bullpen READY; a failed load leaves it empty. -/
def execBullpenLoad (ring idx : Nat) (image : Option LogicImage) (sigOk : Bool) (s : State) : Res :=
  s.runCmd ring idx (isOp opBullpenLoad)
    (bullpenChecks false modesTrain (fun c => c.buffer 0 0) false (fun s c => s.dmaCheck c image.isSome))
    (fun s c => match image with
      | none => s
      | some im => match s.imgFault im c.bufLen sigOk with
        | some (st, r0, open_) =>
          let s1 := State.bankShow { s with lg := { s.lg with bullpen := none, bpUnsigned := false } } 0
          let s2 := s1.fail c st (if open_ then s.freeWord.toNat else r0)
          if open_ then s2.drawn else s2
        | none =>
          let s1 := State.bankShow { s with lg := { s.lg with bullpen := some im, bpUnsigned := s.openedLike && !sigOk } } 2
          (s1.plan im).done c 0 0 0 0)

/-- A switch begins to quiesce (R311). -/
def State.switchStart (s : State) (c : Cmd) (rollback : Bool) : State :=
  (State.wr { s with lg := { s.lg with switch := some ⟨c.ref, rollback, s.elapsed⟩ } } LG_BULLPEN_STATE 0 3).start c

/-- BULLPEN_SWITCH (R310); a CRC that differs is a parameter at fault (R80). -/
def execBullpenSwitch (ring idx : Nat) (s : State) : Res :=
  s.runCmd ring idx (isOp opBullpenSwitch)
    (fun s c => bullpenChecks true modesCr (fun c => c.inline 4) ((c.par 0).toNat != s.rd LG_BULLPEN_CRC 0) (fun s _ =>
      if s.rd LG_BULLPEN_STATE 0 != 2 then some (.modeForbids, s.cmdMode.code, 0) else none) s c)
    (fun s c => s.switchStart c false)

/-- BULLPEN_ROLLBACK (R316): the plan is computed now. -/
def execBullpenRollback (ring idx : Nat) (s : State) : Res :=
  s.runCmd ring idx (isOp opBullpenRollback)
    (bullpenChecks true modesCr (fun c => c.inline 0) false (fun s _ =>
      if s.rd LG_BULLPEN_STATE 0 != 4 then some (.modeForbids, s.cmdMode.code, 0) else none))
    (fun s c => match s.lg.bullpen with
      | some im => (s.plan im).switchStart c true
      | none => s.switchStart c true)

/-! The swap (R311, R313 to R316). -/

/-- Word `k` of an instance of the new image after carry-over, and whether it was copied or cleared. -/
def carriedWord (m : AMap Nat) (r : List W32) (from_ : Option (List W32)) (k : Nat) : Nat × Bool :=
  let tb (v : Nat) : Nat := if instKind r = 3 ∧ k = 0 then natPut v 29 29 (instTb r) else v
  match from_ with
  | some o =>
    if 4 * k < instSize o then (tb (mget (fun _ => 0) m (instAddr o / 4 + k)), instAddr o != instAddr r) else (0, true)
  | none => (tb 0, true)

/-- M after carry-over, and the words copied or cleared. -/
def carryM (old new : LogicImage) (m : AMap Nat) : AMap Nat × Nat :=
  new.insts.foldl (fun a r =>
    let f := carriedFrom old.insts r
    (List.range (instSize r / 4)).foldl (fun a k =>
      let v := carriedWord m r f k
      (mset (fun _ => 0) (instAddr r / 4 + k) v.1 a.1, a.2 + b2n v.2)) a) (m, 0)

/-- The task record of an image with a symbol. -/
def taskOfSym (im : LogicImage) (sym : Nat) : Option Nat := (im.tasks.find? (fun t => t.2.1 == sym)).map (·.1)

/-- Task status moves with its symbol; a stopped task starts again, and every task is due. -/
def State.carryTasks (s before : State) (old new : LogicImage) : State :=
  let s0 : State := (List.range 64).foldl (fun s n => (List.range 6).foldl (fun s w =>
    s.putWord 0x20 3 n w (resetWord 0x20 3 w)) s) { s with lg := { s.lg with tasks := [] } }
  new.tasks.foldl (fun s t =>
    match taskOfSym old t.2.1 with
    | none => s
    | some n =>
      let s1 := (List.range 6).foldl (fun s w => s.putWord 0x20 3 t.1 w (before.word 0x20 3 n w)) s
      let x := before.lgTask n
      s1.setLgTask t.1 { LgTask.init with pend := x.pend, latched := x.latched, lost := x.lost, lostAt := x.lostAt }) s0

/-- Q bytes at a switch: those given up go to the Umpire once at their old safe values; those newly owned take their
new safe value. -/
def State.carryQ (s : State) (old new : LogicImage) : State :=
  let gone := old.qown.filter (fun o => !(new.qown.any (fun n => n.1 == o.1)))
  let fresh := new.qown.filter (fun n => !(old.qown.any (fun o => o.1 == n.1)))
  let s1 := gone.foldl (fun s o => s.handQ o.1 o.2.2) s
  let s2 := fresh.foldl (fun s o =>
    State.handQ { s with lg := { s.lg with q := mset (fun _ => 0) o.1 (o.2.2 % 256) s.lg.q } } o.1 o.2.2) s1
  { s2 with um := { s2.um with qOnce := s2.um.qOnce ++ gone.map (·.1) } }

/-- The carry-over from one image to another, and its length in fabric cycles. -/
def State.carryOver (s : State) (old new : LogicImage) : State × Nat :=
  let r := carryM old new s.lg.m
  let s1 : State := { s with lg := { s.lg with m := r.1 } }
  let s2 := ((State.homeTasks s1).carryTasks s old new).carryQ old new
  (s2.lostStations (old.stations.map (·.stn)), 800 + 40 * new.insts.length + 2 * r.2)

/-- BULLPEN_SWAP (R311 to R316): in the cycle after the last open cycle has written its outputs. -/
def execBullpenSwap (s : State) : Res :=
  match s.lg.switch, s.lg.bullpen with
  | some x, some new =>
    if !s.umOn || s.lgTasks.any (fun n => (s.lgTask n).open_.isSome) then .next s
    else
      let uns := s.sc.unsignedLogic
      let s1 : State := { s with lg := { s.lg with
        active := some new
        bullpen := s.lg.active
        committed := some new
        switch := none
        bpUnsigned := uns } }
      let s2 : State := { s1 with sc := { s1.sc with unsignedLogic := s.lg.bpUnsigned } }
      let r : State × Nat := match s.lg.active with
        | some old => s2.carryOver old new
        | none => (s2.lgCold, 0)
      let s3 : State := { r.1 with lg := { r.1.lg with holdTo := s.elapsed + r.2 } }
      let s4 := s3.bankShow (if s.lg.active.isSome then 4 else 0)
      let gap := r.2 * 5 / 4
      let s5 := ((s4.wr LG_BULLPEN_GAP_NS 0 gap).wr LG_BULLPEN_SW_SEC 0 s.tu.sec).wr LG_BULLPEN_SW_NS 0 s.tu.ns
      .next ((s5.notify 0x20 5 0 (if x.rollback then 2 else 1) new.crc gap 0).settle (some x.cmd) .ok 0 0 (some s.now))
  | _, _ => .next s

/-- A switch is cancelled before its swap (R312, R317): BULLPEN_CANCELLED with its cause. -/
def State.lgCancel (s : State) (cause : Nat) : State :=
  match s.lg.switch with
  | none => s
  | some x =>
    let s1 := State.wr { s with lg := { s.lg with switch := none } } LG_BULLPEN_STATE 0 (if x.rollback then 4 else 2)
    (s1.notify 0x20 6 0 cause 0 0 0).settle (some x.cmd) (if cause = 2 then .aborted else .busyRetry) 0 0 none

/-- BULLPEN_SW_WAIT_EXPIRY (R312). -/
def execBullpenSwWaitExpiry (s : State) : Res :=
  match s.lg.switch with
  | some x =>
    if s.umOn && decide (x.since + usUnits (s.rd LG_BULLPEN_SW_WAIT 0) ≤ s.elapsed)
        && s.lgTasks.any (fun n => (s.lgTask n).open_.isSome) then .next (s.lgCancel 1)
    else .next s
  | none => .next s

end Sys2Proof.Machine
end

