-- ==== Sys2Proof/Machine/Loops.lean ====
section
/-! DEFINITION. The loop engine (09_loop_engine.md): selectors, banks, the control law, states, surge margin, relay
tuning, swaps, placement on lanes, and the checks of LE settings. -/

namespace Sys2Proof.Machine

open Sys2Proof

/-! Loops, rates, banks. -/

def State.loop (s : State) (n : Nat) : LoopSt := mget (fun _ => LoopSt.init) s.le.loops n

def State.setLoop (s : State) (n : Nat) (x : LoopSt) : State :=
  { s with le := { s.le with loops := mset (fun _ => LoopSt.init) n x s.le.loops } }

/-- Loops and axes of the variant (R236). -/
def State.nLoop (s : State) : Nat := s.byVar 1024 512 0
def State.nAxis (s : State) : Nat := s.byVar 128 64 0

/-- Sample period of a rate code, ns (R238). -/
def periodNs (rate : Nat) : Nat := [1000000, 500000, 200000, 100000, 50000, 20000, 10000].getD rate 1000000

/-- T in a format. -/
def periodF (f : Fmt) (rate : Nat) : Nat := ofRatio f false (periodNs rate) 1000000000

/-- LE and AX take samples (Table 9.8). -/
def State.leOn (s : State) : Bool :=
  s.umOn && s.mo.control && (s.mo.mode == .commission || s.mo.mode == .run || s.mo.mode == .letMode || s.mo.mode == .safe)

/-- State of a loop (Table 9.4). -/
def State.loopState (s : State) (n : Nat) : Nat := s.rd LE_STAT_STATE n

/-- Active bank of a loop. -/
def State.actBank (s : State) (n : Nat) : Nat := s.rd LE_STAT_ACT_BANK n

/-- A word of a bank (Table 9.12). -/
def State.bk (s : State) (n b w : Nat) : Nat := (s.word 0x18 (2 + b) n w).toNat

/-! Selectors (R241, R242). -/

def f32Zero : Nat := 0
def f32One : Nat := 0x3F800000

/-- A sample word as a binary32 count and its invalidity. -/
def sampleF32 (w : Nat) : Nat × Bool := (ofInt f32 (signedOf 24 w), natBits w 31 30 == 2)

def State.enc (s : State) (n : Nat) : EncSt := mget (fun _ => EncSt.init) s.le.encs n

def State.setEnc (s : State) (n : Nat) (x : EncSt) : State :=
  { s with le := { s.le with encs := mset (fun _ => EncSt.init) n x s.le.encs } }

/-- Position of an encoder: signed for a quadrature counter, else the position bits. -/
def State.encPos (s : State) (n : Nat) : Int :=
  if s.rd AX_ENC_MODE n = 0 then signedOf 32 (s.rd AX_ENC_COUNT n)
  else ((s.rd AX_ENC_COUNT n + (s.enc n).hi * 2 ^ 32 : Nat) : Int)

/-- The encoder reports ERR or LATE, or its count was lost. -/
def State.encBad (s : State) (n : Nat) : Bool := s.flag AX_ENC_ERR n || s.flag AX_ENC_LATE n || (s.enc n).bad

/-- The station of a station point runs on substitutes. -/
def State.pointSubst (s : State) (i : Nat) : Bool :=
  match s.ptDef i with
  | some d => d.bind == 6 && !(s.stn (d.op / 2 ^ 16 % 4096)).live
  | none => true

/-- A source's value as binary32 and its invalidity, at this instant; `j` numbers the reads of one sample, for the
encoder velocity, whose measure the manual does not give (free value). -/
def State.readSel (s : State) (j sel : Nat) : Nat × Bool :=
  let a := sel % 2 ^ 28
  let r : Nat × Bool :=
    match sel / 2 ^ 28 with
    | 1 => (toF32 (s.ptType (a % 2 ^ 23)) (s.ptRec (a % 2 ^ 23)).raw, (s.ptRec (a % 2 ^ 23)).bad || s.pointSubst (a % 2 ^ 23))
    | 2 => sampleF32 (s.rdk AF_CORE_RESULT (a / 16 % 16) (a % 4))
    | 3 => sampleF32 (s.rd AF_URG_RESULT (a % 64))
    | 4 => sampleF32 (s.rd FC_CHAN_FAST_LAST (a % 128))
    | 5 => sampleF32 (s.rd FC_CHAN_FINE_LAST (a % 128))
    | 6 => ((s.loop (a % 1024)).out, false)
    | 7 => (ofInt f32 (s.encPos (a % 16)), s.encBad (a % 16))
    | 8 => ((Config.freeValue (s.free + j)).toNat, s.encBad (a % 16))
    | _ => (0, false)
  (r.1, r.2 || !finite f32 r.1)

/-- Does one of the selectors read an encoder velocity? -/
def usesVel (sels : List Nat) : Bool := sels.any (fun x => x / 2 ^ 28 == 8)

/-- Use up the free values of one sample. -/
def State.drawnFor (s : State) (sels : List Nat) : State :=
  if usesVel sels then { s with free := s.free + sels.length } else s

/-- Write a destination (R241, R243): a point, a PWM duty or a drive reference. -/
def State.writeDst (s : State) (sel owner v t : Nat) : State :=
  let a := sel % 2 ^ 28
  match sel / 2 ^ 28 with
  | 1 =>
    let r := fromF32 (s.ptType (a % 2 ^ 23)) v
    if (s.ptDef (a % 2 ^ 23)).isSome then
      s.ptSet (a % 2 ^ 23) r.1 owner (if r.2 then qInvalid + qDetail 6 else 0) t
    else s
  | 0xA => { s with le := { s.le with duty := mset (fun _ => 0) (a % 16) v s.le.duty } }
  | 0xB => { s with le := { s.le with refs := mset (fun _ => 0) (a / 4096 % 4096 * 16 + a % 16) v s.le.refs } }
  | _ => s

/-! Derived coefficients (R244, R245): binary64, rounded once. -/

def f64Of (w : Nat) : Nat := convF f32 f64 w
def toW (x : Nat) : Nat := convF f64 f32 x
def piF : Nat := ofFix f64 pi120
def two64 : Nat := ofInt f64 2

/-- tan of a binary64 angle below π/2. -/
def tanF (x : Nat) : Nat :=
  let r := sinCos120 (toFix f64 x)
  ofRatio f64 (decide (r.1 < 0)) r.1.natAbs r.2.natAbs

/-- Filter constant Tf = (KD / KP) / N. -/
def tfOf (kp kd n : Nat) : Nat := fdiv f64 (fdiv f64 (f64Of kd) (f64Of kp)) (f64Of n)

/-- BI, BT, AD, BD. -/
def derivedPid (rate kp ki kd n tt : Nat) : List Nat :=
  let t := periodF f64 rate
  let tf2 := fmul f64 two64 (tfOf kp kd n)
  let zero := notZero 4 kd == false
  [toW (fdiv f64 (fmul f64 (f64Of ki) t) two64),
   (if notZero 4 tt then toW (fdiv f64 t (f64Of tt)) else 0),
   (if zero then 0 else toW (fdiv f64 (fsub f64 tf2 t) (fadd f64 tf2 t))),
   (if zero then 0 else toW (fdiv f64 (fmul f64 two64 (f64Of kd)) (fadd f64 tf2 t)))]

/-- b0, b1, b2, a1, a2 of a notch. -/
def derivedNotch (rate f zz zp : Nat) : List Nat :=
  let t := periodF f64 rate
  let w0 := fmul f64 (fmul f64 two64 piF) (f64Of f)
  let k := fdiv f64 w0 (tanF (fmul f64 (fmul f64 piF (f64Of f)) t))
  let k2 := fmul f64 k k
  let w2 := fmul f64 w0 w0
  let mid (z : Nat) : Nat := fmul f64 (fmul f64 (fmul f64 two64 (f64Of z)) w0) k
  let g := fadd f64 (fadd f64 k2 (mid zp)) w2
  let b1 := toW (fdiv f64 (fmul f64 two64 (fsub f64 w2 k2)) g)
  [toW (fdiv f64 (fadd f64 (fadd f64 k2 (mid zz)) w2) g), b1,
   toW (fdiv f64 (fadd f64 (fsub f64 k2 (mid zz)) w2) g), b1,
   toW (fdiv f64 (fadd f64 (fsub f64 k2 (mid zp)) w2) g)]

/-- Recompute the derived words of a bank. -/
def State.derive (s : State) (n b : Nat) : State :=
  let rate := s.rd LE_LOOP_RATE n
  let w (k : Nat) : Nat := s.bk n b k
  let ws := derivedPid rate (w 0) (w 1) (w 2) (w 3) (w 6) ++
    (if notZero 4 (w 12) then derivedNotch rate (w 12) (w 13) (w 14) else List.replicate 5 0) ++
    (if notZero 4 (w 15) then derivedNotch rate (w 15) (w 16) (w 17) else List.replicate 5 0)
  (ws.zipIdx).foldl (fun s e => s.putWord 0x18 (2 + b) n (24 + e.2) (BitVec.ofNat 32 e.1)) s

/-- 0.45 × rate and 0.01 as binary32. -/
def notchTop (rate : Nat) : Nat := ofRatio f32 false (45 * 10 ^ 7) (periodNs rate)
def hundredth : Nat := ofRatio f32 false 1 100

/-- The conditions of R246 that depend on the rate. -/
def rateOkBank (rate notches : Nat) (w : Nat → Nat) : Bool :=
  (!notZero 4 (w 2) || fle f64 (fdiv f64 (periodF f64 rate) two64) (tfOf (w 0) (w 2) (w 3)))
    && (!notZero 4 (w 6) || fle f32 (periodF f32 rate) (w 6))
    && (List.range notches).all (fun m => fle f32 (w (12 + 3 * m)) (notchTop rate))

/-- A bank is valid (R246): words `w` for a loop's rate, notches, law and safe output. -/
def bankValid (rate notches law safe : Nat) (w : Nat → Nat) : Bool :=
  let ge0 (k : Nat) : Bool := fle f32 0 (w k)
  (List.range 21).all (fun k => finite f32 (w k))
    && ge0 0 && ge0 1 && ge0 2 && ge0 9 && ge0 10 && (!notZero 4 (w 2) || flt f32 0 (w 0))
    && (!notZero 4 (w 2) || (fle f32 (ofInt f32 2) (w 3) && fle f32 (w 3) (ofInt f32 100)))
    && fle f32 0 (w 4) && fle f32 (w 4) f32One && fle f32 0 (w 5) && fle f32 (w 5) f32One
    && ge0 6 && flt f32 (w 7) (w 8) && fle f32 (w 7) safe && fle f32 safe (w 8)
    && (List.range notches).all (fun m =>
        fle f32 f32One (w (12 + 3 * m)) && fle f32 0 (w (13 + 3 * m)) && flt f32 (w (13 + 3 * m)) (w (14 + 3 * m))
          && fle f32 hundredth (w (14 + 3 * m)) && fle f32 (w (14 + 3 * m)) f32One)
    && (law != 1 || (flt f32 (w 19) (w 18) && fle f32 0 (w 20) && fle f32 (w 20) (fsub f32 (w 8) (w 7))))
    && rateOkBank rate notches w

def State.leBankOk (s : State) (n b : Nat) : Bool :=
  bankValid (s.rd LE_LOOP_RATE n) (s.rd LE_LOOP_NOTCH n) (s.rd LE_LOOP_LAW n) (s.rd LE_LOOP_SAFE_OUT n) (s.bk n b)

/-! The law (R244 to R248, R255, R256). -/

/-- One notch: `c` its five coefficients. -/
def notchStep (c : Nat → Nat) (x : Nat) (st : NotchSt) : Nat × NotchSt :=
  let o := fsub f32 (fsub f32 (fadd f32 (fadd f32 (fmul f32 (c 0) x) (fmul f32 (c 1) st.x1)) (fmul f32 (c 2) st.x2))
    (fmul f32 (c 3) st.y1)) (fmul f32 (c 4) st.y2)
  (o, ⟨x, st.x1, o, st.y1⟩)

/-- `v` through the notches in use. -/
def notches (count : Nat) (w : Nat → Nat) (v : Nat) (a b : NotchSt) : Nat × NotchSt × NotchSt :=
  if count = 0 then (v, a, b)
  else
    let r := notchStep (fun k => w (28 + k)) v a
    if count = 1 then (r.1, r.2, b)
    else
      let q := notchStep (fun k => w (33 + k)) r.1 b
      (q.1, r.2, q.2)

/-- A rate-limited move from `up` to `u` in one sample. -/
def rateLimit (w : Nat → Nat) (rate up u : Nat) : Nat :=
  let t := periodF f32 rate
  let a := if flt f32 0 (w 9) then fmin f32 u (fadd f32 up (fmul f32 (w 9) t)) else u
  if flt f32 0 (w 10) then fmax f32 a (fsub f32 up (fmul f32 (w 10) t)) else a

/-- Amplitude limits. -/
def ampLimit (w : Nat → Nat) (v : Nat) : Nat := fmin f32 (fmax f32 v (w 7)) (w 8)

/-- What a sample computes: the law's state, LIMIT, RLIMIT. -/
structure LawOut where
  st : LawSt
  limit : Bool
  rlimit : Bool

/-- The law's equations at one sample: `w` the bank, `r` and `y` after ACT, `ff`; `entry` for R248; `absorb` the old
bank of a bumpless swap (R252); `surge` for R256. -/
def lawStep (w : Nat → Nat) (rate count : Nat) (r y ff : Nat) (entry : Bool) (absorb : Option (Nat → Nat)) (surge : Bool)
    (x : LawSt) : LawOut :=
  let e := fsub f32 r y
  let p := fmul f32 (w 0) (fsub f32 (fmul f32 (w 4) r) y)
  let q := fsub f32 (fmul f32 (w 5) r) y
  let kf := fmul f32 (w 11) ff
  let d := if entry then 0 else fadd f32 (fmul f32 (w 26) x.d) (fmul f32 (w 27) (fsub f32 q x.q))
  let i0 :=
    if entry then fsub f32 x.u (fadd f32 (fadd f32 p d) kf)
    else fadd f32 (fadd f32 x.i (fmul f32 (w 24) (fadd f32 e x.e))) (fmul f32 (w 25) (fsub f32 x.u x.w))
  let i := match absorb with
    | some o => fsub f32 (fadd f32 i0 (fmul f32 (o 0) (fsub f32 (fmul f32 (o 4) r) y))) p
    | none => i0
  let v := fadd f32 (fadd f32 (fadd f32 p i) d) kf
  let n1 : NotchSt := if entry then ⟨x.u, x.u, x.u, x.u⟩ else x.n1
  let n2 : NotchSt := if entry then ⟨x.u, x.u, x.u, x.u⟩ else x.n2
  let f := notches count w v n1 n2
  let ua := ampLimit w f.1
  let ur := rateLimit w rate x.u ua
  let kick := surge && flt f32 y (w 19) && !x.kicked
  let u := if kick then fmin f32 (w 8) (fmax f32 ur (fadd f32 x.u (w 20))) else ur
  let kicked := surge && (kick || (x.kicked && flt f32 y (w 18)))
  { st := { u := u, i := (if kick then fadd f32 i (fsub f32 u f.1) else i), d := d, e := e, q := q, w := f.1, n1 := f.2.1
            n2 := f.2.2, y := y, r := r, kicked := kicked }
    limit := flt f32 f.1 (w 7) || flt f32 (w 8) f.1
    rlimit := !kick && ur != ua }

/-- Point `k` of a surge line: flow and head. -/
def State.surgeAt (s : State) (n k : Nat) : Nat × Nat := (s.rdk LE_SURGE_Q n k, s.rdk LE_SURGE_H n k)

/-- Flow on the surge line at a head (R255). -/
def State.surgeFlow (s : State) (n h : Nat) : Nat :=
  let last := s.rd LE_SURGE_NPTS n - 2
  let i := ((List.range last).find? (fun k => flt f32 h (s.surgeAt n (k + 1)).2)).getD last
  let a := s.surgeAt n i
  let b := s.surgeAt n (i + 1)
  fadd f32 a.1 (fdiv f32 (fmul f32 (fsub f32 h a.2) (fsub f32 b.1 a.1)) (fsub f32 b.2 a.2))

/-- The inputs of a sample: y and its invalidity before ACT, r, feed-forward, tracking value. -/
structure LoopIn where
  y : Nat
  bad : Bool
  r : Nat
  rBad : Bool
  ff : Nat
  ffBad : Bool
  trk : Nat
  trkBad : Bool

/-- The selectors of a loop. -/
def State.loopSels (s : State) (n : Nat) : List Nat :=
  [s.rd LE_LOOP_PV_SRC n, s.rd LE_LOOP_SP_SRC n, s.rd LE_LOOP_FF_SRC n, s.rd LE_LOOP_TRK_SRC n, s.rd LE_SURGE_HEAD_SRC n]

/-- Input scale: PV_GAIN × v + PV_OFS. -/
def State.pvScale (s : State) (n v : Nat) : Nat := fadd f32 (fmul f32 (s.rd LE_LOOP_PV_GAIN n) v) (s.rd LE_LOOP_PV_OFS n)

/-- Latch the inputs of a loop. -/
def State.loopIn (s : State) (n : Nat) : LoopIn :=
  let pv := s.readSel 0 (s.rd LE_LOOP_PV_SRC n)
  let sp := s.readSel 1 (s.rd LE_LOOP_SP_SRC n)
  let ff := s.readSel 2 (s.rd LE_LOOP_FF_SRC n)
  let tr := s.readSel 3 (s.rd LE_LOOP_TRK_SRC n)
  if s.rd LE_LOOP_LAW n = 1 then
    let h := s.readSel 4 (s.rd LE_SURGE_HEAD_SRC n)
    let q := s.pvScale n pv.1
    let qs := s.surgeFlow n (s.pvScale n h.1)
    ⟨fdiv f32 (fsub f32 q qs) qs, pv.2 || h.2 || !flt f32 0 qs, s.bk n (s.actBank n) 18, false, ff.1, ff.2, tr.1, tr.2⟩
  else ⟨s.pvScale n pv.1, pv.2, sp.1, sp.2, ff.1, ff.2, tr.1, tr.2⟩

/-! States (R247 to R249, R254). -/

/-- Enter a state: CLOSED is entered bumpless at this sample; SAFE applies SAFE_OUT at once. -/
def State.loopEnter (s : State) (n st : Nat) : State :=
  let x := s.loop n
  let s1 := s.wr LE_STAT_STATE n st
  if st = 4 then (s1.wr LE_STAT_FCAUSE n 0).setLoop n { x with entry := true, feCount := 0, frozen := false, good := 0, goal := none }
  else if st = 3 then
    s1.setLoop n { x with law := { x.law with u := s.rd LE_LOOP_SAFE_OUT n }, goal := none, frozen := false, entry := false }
  else s1.setLoop n { x with goal := none, frozen := false, entry := false }

/-- SAFE with SAFE_OUT reached by the rate limits. -/
def State.loopSafeSlow (s : State) (n cause : Nat) : State :=
  let x := s.loop n
  ((s.wr LE_STAT_STATE n 3).wr LE_STAT_FCAUSE n cause).setLoop n
    { x with goal := some (s.rd LE_LOOP_SAFE_OUT n), frozen := false, entry := false }

/-- A request is taken from this state (Table 9.5). -/
def reqTaken (st want : Nat) : Bool := decide (1 ≤ want) && decide (want ≤ 4) && st != 0 && st != 6 && st != want

/-- The control point as it stands: raw value and CTIME, plus one. -/
def State.ctlSeen (s : State) (i : Nat) : Nat := (s.ptRec i).raw * 2 ^ 32 + (s.ptRec i).ctime + 1

/-- Requests at a sample boundary: a write of the control point, else LOOP_STATE. -/
def State.loopRequests (s : State) (n tk : Nat) : State :=
  let x := s.loop n
  let pt := s.rd LE_LOOP_CTL_PT n
  let seen := if s.flag LE_LOOP_CTL_EN n then s.ctlSeen pt else 0
  let ctlNew := s.flag LE_LOOP_CTL_EN n && x.ctl != 0 && x.ctl != seen && !(s.ptRec pt).bad
  let want := toI32 (s.ptType pt) (s.ptRec pt).raw
  let s1 := s.setLoop n { x with ctl := seen, req := none }
  let go (s : State) (w : Nat) : State := if reqTaken (s.loopState n) w && (w == 3 || s.mo.mode != .safe) then s.loopEnter n w else s
  let s2 := if ctlNew && decide (1 ≤ want) && decide (want ≤ 4) then go s1 want
    else match x.req with
      | some (w, _) => go s1 w
      | none => s1
  match x.req with
  | some (_, c) => s2.settle (some c) .ok 0 0 (some (Stamp.ofTai tk))
  | none => s2

/-- Start of a loop: its START state, from SAFE_OUT. -/
def State.loopStart (s : State) (n : Nat) : State :=
  let x := s.loop n
  let law : LawSt := { LawSt.init with u := s.rd LE_LOOP_SAFE_OUT n }
  let s1 := s.setLoop n { LoopSt.init with
    law := law
    old := law
    swap := x.swap
    req := x.req
    out := x.out }
  s1.loopEnter n (if s.mo.mode == .safe then 3 else [3, 2, 4].getD (s.rd LE_LOOP_START n) 3)

/-! Relay tuning (R257 to R260). -/

/-- Tuning ends without a result. -/
def State.tuneAbort (s : State) (n cause : Nat) : State :=
  let x := s.loop n
  match x.tune with
  | none => s
  | some t =>
    let s1 := s.setLoop n { x with tune := none, goal := some t.u0 }
    ((((s1.wr LE_STAT_STATE n 1).wr LE_TUNE_RES n 2).wr LE_TUNE_CAUSE n cause)).notify 0x18 6 0 n cause 0 0

/-- Kp, Ti, Td of a rule, binary32 (Table 9.6, R237). -/
def tuneRule (rule ku pu : Nat) : Nat × Nat × Nat :=
  let m (x num den : Nat) : Nat := fmul f32 x (ofRatio f32 false num den)
  let d (x num den : Nat) : Nat := fdiv f32 x (ofRatio f32 false num den)
  match rule with
  | 0 => (m ku 45 100, d pu 12 10, 0)
  | 1 => (m ku 6 10, d pu 2 1, d pu 8 1)
  | 2 => (d ku 32 10, m pu 22 10, 0)
  | 3 => (d ku 22 10, m pu 22 10, d pu 63 10)
  | 4 => (m ku 33 100, d pu 2 1, d pu 3 1)
  | _ => (m ku 2 10, d pu 2 1, d pu 3 1)

/-- Tuning is complete: results, bank B, HOLD at u0 (R258, R259).  Binary32, each operation rounded once: the means are a sum in the
order measured, divided by the number (R237; assumption 37). -/
def State.tuneDone (s : State) (n : Nat) (t : TuneRun) : State :=
  let rate := s.rd LE_LOOP_RATE n
  let cnt := ofInt f32 t.periods.length
  let ts := periodF f32 rate
  let two := ofInt f32 2
  let pu := fdiv f32 (fmul f32 (ofInt f32 (t.periods.foldl (· + ·) 0 : Nat)) ts) cnt
  let a := fdiv f32 (t.amps.reverse.foldl (fadd f32) 0) cnt
  let ku := fdiv f32 (fmul f32 (ofInt f32 4) (s.rd LE_TUNE_D n)) (fmul f32 (ofFix f32 pi120) a)
  let r := tuneRule (s.rd LE_TUNE_RULE n) ku pu
  let small := flt f32 (fdiv f32 r.2.2 (ofInt f32 10)) (fdiv f32 ts two)
  let nn := if small then fdiv f32 (fmul f32 two r.2.2) ts else ofInt f32 10
  let noD := !notZero 4 r.2.2 || (small && flt f32 nn two)
  let tt := if notZero 4 r.2.2 then fsqrt f32 (fmul f32 r.2.1 r.2.2) else r.2.1
  let s1 := (List.range 24).foldl (fun s k => s.putWord 0x18 3 n k (s.word 0x18 2 n k)) s
  let put (s : State) (k v : Nat) : State := s.putWord 0x18 3 n k (BitVec.ofNat 32 v)
  let s2 := put (put (put (put (put s1 0 r.1) 1 (fdiv f32 r.1 r.2.1)) 2 (if noD then 0 else fmul f32 r.1 r.2.2)) 3 nn) 6 tt
  let s3 := State.derive s2 n 1
  let x := s3.loop n
  let s4 := s3.setLoop n { x with tune := none, goal := some t.u0 }
  let s5 := ((((((s4.wr LE_STAT_STATE n 1).wr LE_TUNE_RES n 1).wr LE_TUNE_CAUSE n 0).wr LE_TUNE_KU n ku).wr LE_TUNE_PU n
    pu).wr LE_TUNE_A n a).wr LE_TUNE_U0 n t.u0
  s5.notify 0x18 5 0 n ku pu 0

/-- A measured period differs by more than 10 % from the mean. -/
def uneven (l : List Nat) : Bool :=
  let sum := l.foldl (· + ·) 0
  l.any (fun p => decide (sum < 10 * (p * l.length - sum)) || decide (sum < 10 * (sum - p * l.length)))

/-- One sample of the relay: its output, and the measurement. -/
def State.tuneSample (s : State) (n : Nat) (inp : LoopIn) : State :=
  let x := s.loop n
  match x.tune with
  | none => s
  | some t =>
    if inp.bad then s.tuneAbort n 4
    else if flt f32 inp.y (s.rd LE_TUNE_YLO n) || flt f32 (s.rd LE_TUNE_YHI n) inp.y then s.tuneAbort n 1
    else
      let neg := s.flag LE_LOOP_ACT n
      let r := if inp.rBad then x.sp else inp.r
      let e0 := fsub f32 r inp.y
      let e := if neg then fneg f32 e0 else e0
      let hys := s.rd LE_TUNE_HYS n
      let up := flt f32 hys e
      let down := flt f32 e (fneg f32 hys)
      let want := if up then fadd f32 t.u0 (s.rd LE_TUNE_D n)
        else if down then fsub f32 t.u0 (s.rd LE_TUNE_D n) else x.law.u
      let w := s.bk n (s.actBank n)
      let u := rateLimit w (s.rd LE_LOOP_RATE n) x.law.u (ampLimit w want)
      let rise := up && !t.high
      let cyc := rise && t.lastUp != 0
      let keep := cyc && decide (2 ≤ t.cycles)
      let t1 : TuneRun := { t with
        high := (t.high || up) && !down
        n := t.n + 1
        lastUp := (if rise then t.n + 1 else t.lastUp)
        cycles := (if cyc then t.cycles + 1 else t.cycles)
        periods := (if keep then (t.n + 1 - t.lastUp) :: t.periods else t.periods)
        amps := (if keep then fdiv f32 (fsub f32 t.ymax t.ymin) (ofInt f32 2) :: t.amps else t.amps)
        ymin := (if rise then inp.y else fmin f32 t.ymin inp.y)
        ymax := (if rise then inp.y else fmax f32 t.ymax inp.y) }
      let s1 := s.setLoop n { x with law := { x.law with u := u, y := inp.y, r := r }, tune := some t1, sp := r }
      if keep && decide (s.rd LE_TUNE_NCYC n ≤ t1.periods.length) then
        (if uneven t1.periods then s1.tuneAbort n 3 else s1.tuneDone n t1)
      else s1

/-! A sample (R238, R242, R244). -/

/-- Move the output towards a goal under the rate limits. -/
def State.loopMove (s : State) (n : Nat) : State :=
  let x := s.loop n
  match x.goal with
  | none => s
  | some g =>
    let w := s.bk n (s.actBank n)
    let u := rateLimit w (s.rd LE_LOOP_RATE n) x.law.u g
    s.setLoop n { x with law := { x.law with u := u }, goal := (if u = g then none else some g) }

/-- TRACK: the tracking value through limits and rate limits; none acts as HOLD, and so does an invalid one. -/
def State.loopTrack (s : State) (n : Nat) (inp : LoopIn) : State :=
  let x := s.loop n
  if s.rd LE_LOOP_TRK_SRC n = 0 || inp.trkBad then s
  else
    let w := s.bk n (s.actBank n)
    s.setLoop n { x with law := { x.law with u := rateLimit w (s.rd LE_LOOP_RATE n) x.law.u (ampLimit w inp.trk) } }

/-- A following-error fault (R254). -/
def State.feFault (s : State) (n diff : Nat) (inp : LoopIn) : State :=
  let s1 := (s.wr LE_STAT_FCAUSE n 1).notify 0x18 1 1 n diff 0 0
  match s.rd LE_LOOP_FE_ACT n with
  | 0 => s1.loopEnter n 5
  | 1 => (s1.loopEnter n 2).loopTrack n inp
  | _ => (s1.loopSafeSlow n 1).loopMove n

/-- CLOSED with an invalid process value (R242). -/
def State.loopBad (s : State) (n : Nat) : State :=
  let x := s.loop n
  let act := s.rd LE_LOOP_BAD_ACT n
  let s1 := if x.frozen then s else s.notify 0x18 2 1 n act 0 0
  match act with
  | 0 => s1.setLoop n { x with frozen := true, good := 0, feCount := 0 }
  | 1 => (s1.loopSafeSlow n 2).loopMove n
  | _ => (s1.loopEnter n 3).wr LE_STAT_FCAUSE n 2

/-- Time counted as following error at this sample. -/
def State.feNext (s : State) (n diff : Nat) (x : LoopSt) : Nat :=
  if flt f32 0 (s.rd LE_LOOP_FE_LIMIT n) && flt f32 (s.rd LE_LOOP_FE_LIMIT n) diff then x.feCount + 1 else 0

/-- CLOSED with a valid process value. -/
def State.loopLaw (s : State) (n : Nat) (inp : LoopIn) : State :=
  let x := s.loop n
  let good := x.good + 1
  if x.frozen && decide (good < 3) then s.setLoop n { x with good := good }
  else
    let r := if inp.rBad then x.sp else inp.r
    let ff := if inp.ffBad then x.ff else inp.ff
    let neg := s.flag LE_LOOP_ACT n
    let r' := if neg then fneg f32 r else r
    let y' := if neg then fneg f32 inp.y else inp.y
    let diff := fabs f32 (fsub f32 r' y')
    let entry := x.entry || x.frozen
    let fe := if entry then 0 else s.feNext n diff x
    let rate := s.rd LE_LOOP_RATE n
    let s0 := s.setLoop n { x with sp := r, ff := ff, feCount := fe, frozen := false, good := 0 }
    if fe != 0 && decide (s.rd LE_LOOP_FE_TIME n * 1000 ≤ fe * periodNs rate) then
      let y := s0.loop n
      (s0.setLoop n { y with law := { y.law with y := y', r := r' } }).feFault n diff inp
    else
      let b := s.actBank n
      let old := x.absorb.map (fun o => s.bk n o)
      let o := lawStep (s.bk n b) rate (s.rd LE_LOOP_NOTCH n) r' y' ff entry (if entry then none else old)
        (s.rd LE_LOOP_LAW n == 1) x.law
      ((s0.setLoop n { s0.loop n with law := o.st, entry := false, absorb := none }).setFlag LE_STAT_LIMIT n o.limit).setFlag
        LE_STAT_RLIMIT n o.rlimit

/-- Show the law's words. -/
def State.loopShow (s : State) (n : Nat) : State :=
  let l := (s.loop n).law
  (((s.wr LE_STAT_U n l.u).wr LE_STAT_Y n l.y).wr LE_STAT_R n l.r).wr LE_STAT_I n l.i

/-- Destination value of an output: OUT_GAIN × u + OUT_OFS. -/
def State.loopDest (s : State) (n u : Nat) : Nat := fadd f32 (fmul f32 (s.rd LE_LOOP_OUT_GAIN n) u) (s.rd LE_LOOP_OUT_OFS n)

/-- A sample of a running loop at `tk`. -/
def State.loopRun (s : State) (n tk : Nat) : State :=
  let s0 := (if s.loopState n = 0 then s.loopStart n else s).loopRequests n tk
  let inp := s0.loopIn n
  let x0 := s0.loop n
  let s1 := s0.setLoop n { x0 with old := x0.law }
  let bad := inp.bad || inp.rBad || inp.ffBad
  let s2 := match s1.loopState n with
    | 2 => s1.loopTrack n inp
    | 4 => if inp.bad then s1.loopBad n else s1.loopLaw n inp
    | 6 => s1.tuneSample n inp
    | _ => s1.loopMove n
  let x := s2.loop n
  let s3 := s2.setFlag LE_STAT_INBAD n (bad || x.frozen)
  let s4 := s3.setLoop n { x with next := s3.loopDest n x.law.u, flying := true, at_ := tk }
  (s4.loopShow n).drawnFor (s4.loopSels n)

/-- A sample boundary of one loop: OFF when not configured. -/
def State.loopSample (s : State) (n tk : Nat) : State :=
  if s.flag LE_LOOP_EN n then s.loopRun n tk
  else if s.loopState n = 0 then s
  else (s.wr LE_STAT_STATE n 0).setLoop n { LoopSt.init with swap := (s.loop n).swap, out := (s.loop n).out }

/-- The output of the last sample reaches its destination. -/
def State.loopApply (s : State) (n t : Nat) : State :=
  let x := s.loop n
  if !x.flying then s
  else
    let s1 := (s.writeDst (s.rd LE_LOOP_OUT_DST n) 0xFB x.next t).setFlag LE_STAT_REPEAT n x.overran
    s1.setLoop n { x with out := x.next, flying := false, overran := false, overruns := (if x.overran then x.overruns else 0) }

/-- Loops that sample at `tk`: configured, or still in a state. -/
def State.loopsAt (s : State) (tk : Nat) : List Nat :=
  ((s.listed 0x18 1 0 ++ s.listed 0x18 4 0).eraseDups).filter (fun n => tk % periodNs (s.rd LE_LOOP_RATE n) == 0
    && s.gridOk (periodNs (s.rd LE_LOOP_RATE n)))

/-- Every loop's sample at an instant: outputs first, then the samples. -/
def State.loopSamples (s : State) (tk : Nat) : State :=
  let l := s.loopsAt tk
  l.foldl (fun s n => s.loopSample n tk) (l.foldl (fun s n => s.loopApply n tk) s)

/-- A loop's sample in flight is lost (R240): the previous output again, from the state before it. -/
def State.loopOverrun (s : State) (n : Nat) : State :=
  let x := s.loop n
  let k := x.overruns + 1
  let s1 := s.setLoop n { x with law := x.old, next := x.out, overran := true, overruns := k }
  (((s1.setFlag LE_STAT_REPEAT n true).bump LE_STAT_OVRUN n 1).loopShow n).notify 0x18 7 (if k = 3 then 2 else 1) n k 0 0

/-! Swaps (R251, R252). -/

/-- Members of an LE swap group. -/
def State.leMembers (s : State) (g : Nat) : List Nat := (s.listed 0x18 1 0).filter (fun n => s.rd LE_LOOP_SWAP_GRP n == g)

/-- Instant of an LE swap, TAI ns. -/
def State.leInstant (s : State) (lo unit : Nat) : Nat :=
  if lo = 0 then ceilTo (s.tai + 2000) unit else namedSecond s.tu.sec lo * 1000000000

/-- BANK_SWAP of a loop or of a group of loops. -/
def State.leBankSwap (s : State) (c : Cmd) : State :=
  let n := objInst c.objid
  let grp := objGrp c.objid == 5
  let bank := (c.par 0).get 0 0
  let lo := (c.par 1).toNat
  let ms := if grp then s.leMembers n else [n]
  if ms.any (fun k => (s.loop k).swap.isSome) || (grp && s.flag LE_GRP_PEND n) then s.fail c .bankBusy 0
  else match ms.find? (fun k => !s.leBankOk k bank) with
    | some k => s.fail c .badObject (mkObjId 0x18 k (2 + bank))
    | none =>
      if ms.isEmpty then s.answer c 0 0 0 0
      else
        let tb := s.leInstant lo (if grp then 1000000 else periodNs (s.rd LE_LOOP_RATE n))
        let s1 := s.start c
        let s2 := if grp then ((s1.setFlag LE_GRP_PEND n true).wr LE_GRP_BANK n bank).wr LE_GRP_SWAP_SEC n lo else s1
        s2.each ms (fun s k => (s.setLoop k { s.loop k with swap := some ⟨bank, tb, c.ref, if grp then n else 0⟩ }).setFlag
          LE_STAT_SWAP_PEND k true)

/-- End the pending swap of a loop. -/
def State.leSwapOff (s : State) (n : Nat) : State :=
  match (s.loop n).swap with
  | none => s
  | some w =>
    let s1 := (s.setLoop n { s.loop n with swap := none }).setFlag LE_STAT_SWAP_PEND n false
    if w.grp = 0 then s1 else (s1.setFlag LE_GRP_PEND w.grp false).wr LE_GRP_SWAP_SEC w.grp 0

/-- One loop changes bank. -/
def State.loopSwap (s : State) (n : Nat) (w : LoopSwap) : State :=
  let b := s.actBank n
  let s1 := s.leSwapOff n
  let x := s1.loop n
  let s2 := s1.wr LE_STAT_ACT_BANK n w.bank
  if b != w.bank && s.loopState n == 4 && s.flag LE_LOOP_BL n then s2.setLoop n { x with absorb := some b } else s2

/-- Pending swaps. -/
def State.leSwaps (s : State) : List (Nat × LoopSwap) :=
  s.le.loops.filterMap (fun e => e.2.swap.map (fun w => (e.1, w)))

/-- LE_SWAP_INSTANT: every swap whose instant has come. -/
def execLeSwapInstant (s : State) : Res :=
  if !s.leOn then .next s
  else
    let due := s.leSwaps.filter (fun e => decide (e.2.tb ≤ s.tai))
    let s1 := due.foldl (fun s e => s.loopSwap e.1 e.2) s
    let cmds := (due.map (fun e => (e.2.cmd, e.2.tb, (if e.2.grp = 0 then e.1 else e.2.grp), e.2.bank))).eraseDups
    .next (cmds.foldl (fun s e =>
      let t := Stamp.ofTai e.2.1
      (s.settle (some e.1) .ok 0 0 (some t)).notifyAt 0x18 4 0 t e.2.2.1 e.2.2.2 0 0) s1)

/-- Cancel the swap of a command (ABORT). -/
def State.leSwapDrop (s : State) (cmd : Nat × Nat) : State :=
  s.leSwaps.foldl (fun s e => if e.2.cmd = cmd then s.leSwapOff e.1 else s) s

/-! LOOP_OVERRUN, tuning commands. -/

def leObj (c : Cmd) : Bool := objUnit c.objid == 0x18 && objGrp c.objid == 1

/-- A variant without LE and AX lacks their commands, whatever object they name (R236). -/
def State.leAbsentOf (s : State) (c : Cmd) : Option Nat := if s.unitAbsent 0x18 then some c.objid else none

/-- Operation of AUTOTUNE. -/
def Cmd.tuneOp (c : Cmd) : Nat := (c.par 0).get 1 0

def tuneBad (c : Cmd) : Bool :=
  !leObj c || decide (1024 ≤ objInst c.objid) || (c.par 0).get 31 2 != 0

/-- Tuning may run in the present mode. -/
def State.tuneMode (s : State) (n : Nat) : Bool :=
  s.cmdMode == .commission || (s.cmdMode == .run && s.flag LE_LOOP_AT_PERMIT n)

/-- AUTOTUNE_START (R257); other operations are refused here. -/
def execAutotuneStart (ring idx : Nat) (s : State) : Res :=
  s.runCmd ring idx (fun c => c.opcode == opAutotune && c.tuneOp != 2)
    (fun s c =>
      let n := objInst c.objid
      let st := s.loopState n
      { form := c.inline 4, absent := s.leAbsentOf c
        bad := if tuneBad c || c.tuneOp != 1 || decide (5 < s.rd LE_TUNE_RULE n) then some (c.objid, 0) else none
        auth := false, modes := s.tuneMode n
        own := if st != 1 && st != 2 then some (.loopNotOpen, n, 0)
          else if s.actBank n != 0 || (s.loop n).swap.isSome then some (.bankBusy, 0, 0)
          else if (s.loopIn n).bad then some (.modeForbids, s.cmdMode.code, 0) else none })
    (fun s c =>
      let n := objInst c.objid
      let x := s.loop n
      let t : TuneRun := ⟨x.law.u, s.elapsed, false, 0, 0, 0, [], [], (s.loopIn n).y, (s.loopIn n).y⟩
      let r := s.loopIn n
      ((s.setLoop n { x with tune := some t, goal := none, sp := (if r.rBad then x.sp else r.r) }).wr LE_STAT_STATE n 6).done c 0 0 0 0)

/-- AUTOTUNE_STOP (R260). -/
def execAutotuneStop (ring idx : Nat) (s : State) : Res :=
  s.runCmd ring idx (fun c => c.opcode == opAutotune && c.tuneOp == 2)
    (fun s c =>
      { form := c.inline 4, absent := s.leAbsentOf c, bad := if tuneBad c then some (c.objid, 0) else none
        auth := false, modes := s.tuneMode (objInst c.objid) })
    (fun s c => (s.tuneAbort (objInst c.objid) 5).done c 0 0 0 0)

/-- AUTOTUNE_TMAX_EXPIRY (R260). -/
def execAutotuneTmaxExpiry (loop : Nat) (s : State) : Res :=
  match (s.loop loop).tune with
  | some t =>
    if s.leOn && decide (t.startAt + s.rd LE_TUNE_TMAX loop * unitsPerSec ≤ s.elapsed) then .next (s.tuneAbort loop 2)
    else .next s
  | none => .next s

/-- Tunings that the mode no longer allows abort with cause 0x06. -/
def State.tuneModeEnd (s : State) : State :=
  s.le.loops.foldl (fun s e =>
    if e.2.tune.isSome && s.mo.mode != .commission && s.mo.mode != .letMode
        && !(s.mo.mode == .run && s.flag LE_LOOP_AT_PERMIT e.1) then s.tuneAbort e.1 6
    else s) s

/-! Load and lanes (R239, R268, R269). -/

/-- Load of a loop and of an axis, fabric cycles per second. -/
def State.loopLoad (s : State) (n : Nat) : Nat :=
  (60 + 20 * s.rd LE_LOOP_NOTCH n + (if s.rd LE_LOOP_LAW n = 1 then 40 else 0)) * (1000000000 / periodNs (s.rd LE_LOOP_RATE n))

def State.axisLoad (s : State) (n : Nat) : Nat :=
  ((if s.flag AX_AXIS_VLOOP n then 170 else 110) + (if notZero 4 (s.rd AX_AXIS_N_F n) then 20 else 0)
    + (if s.flag AX_AXIS_TBL_EN n then 20 else 0)) * (1000000000 / periodNs (s.rd AX_AXIS_RATE n))

/-- Every configured loop and axis: axis or loop, number, load, priority. -/
def State.leItems (s : State) : List (Bool × Nat × Nat × Nat) :=
  s.loops.map (fun n => (false, n, s.loopLoad n, s.rd LE_LOOP_PRIO n))
    ++ s.axisList.map (fun n => (true, n, s.axisLoad n, s.rd AX_AXIS_PRIO n))

def State.leLoad (s : State) : Nat := (s.leItems.map (fun e => e.2.2.1)).foldl (· + ·) 0

/-- The budget of R239. -/
def leBudget : Nat := 2316000000

/-- Live loop lanes. -/
def State.liveLanes (s : State) : List Nat := (List.range 4).filter (fun k => !s.le.lanes.contains k)

/-- Insert behind every entry whose key is at least as large. -/
def insertDown {α : Type} (key : α → Nat) (x : α) : List α → List α
  | [] => [x]
  | y :: t => if key y < key x then x :: y :: t else y :: insertDown key x t

/-- Sort by decreasing key; equal keys keep their order. -/
def sortDown {α : Type} (key : α → Nat) (l : List α) : List α := l.foldl (fun a x => insertDown key x a) []

/-- The least-loaded lane of a list of lanes with their loads. -/
def leastLane : List (Nat × Nat) → Nat × Nat → Nat × Nat
  | [], b => b
  | e :: t, b => leastLane t (if e.2 < b.2 then e else b)

/-- Place items in order, each onto the least-loaded lane; with `cap`, one that does not fit stays out. -/
def placeOn (cap : Option Nat) : List (Bool × Nat × Nat × Nat) → List (Nat × Nat) → List ((Bool × Nat) × Option Nat)
  | [], _ => []
  | e :: t, lanes =>
    match lanes with
    | [] => ((e.1, e.2.1), none) :: placeOn cap t lanes
    | b :: r =>
      let l := leastLane r b
      let fits := match cap with
        | some c => decide (l.2 + e.2.2.1 ≤ c)
        | none => true
      if fits then ((e.1, e.2.1), some l.1) ::
        placeOn cap t (lanes.map (fun x => if x.1 = l.1 then (x.1, x.2 + e.2.2.1) else x))
      else ((e.1, e.2.1), none) :: placeOn cap t lanes

/-- Placement of every item: by load, or by priority when the load exceeds what the live lanes carry. -/
def State.placement (s : State) : List ((Bool × Nat) × Option Nat) :=
  let lanes := s.liveLanes.map (fun k => (k, 0))
  if s.leLoad ≤ s.liveLanes.length * 800000000 then placeOn none (sortDown (fun e => e.2.2.1) s.leItems) lanes
  else placeOn (some 800000000) (sortDown (fun e => e.2.2.2) s.leItems) lanes

/-- Show the lanes in use. -/
def State.showLanes (s : State) : State :=
  s.placement.foldl (fun s e => match e.1.1, e.2 with
    | false, some k => s.wr LE_STAT_LANE e.1.2 k
    | _, _ => s) s

/-! Modes and restarts (Table 9.8). -/

/-- Device SAFE: every loop but those OFF is SAFE with SAFE_OUT. -/
def State.leSafe (s : State) : State :=
  let s0 := s.loops.foldl (fun s n => s.tuneAbort n 6) s
  (s0.loops.filter (fun n => s0.loopState n != 0)).foldl (fun s n =>
    let s1 := s.loopEnter n 3
    let v := s1.loopDest n (s1.loop n).law.u
    State.writeDst (s1.setLoop n { s1.loop n with next := v, out := v, flying := false }) (s1.rd LE_LOOP_OUT_DST n) 0xFB v s1.tai) s0

/-- A cold start of control: every configured loop begins in its START state. -/
def State.leCold (s : State) : State := s.loops.foldl (fun s n => s.loopStart n) s

/-- The station of a drive reference drops out: the loop enters HOLD (R243). -/
def State.leStationLost (s : State) (stn : Nat) : State :=
  s.loops.foldl (fun s n =>
    let d := s.rd LE_LOOP_OUT_DST n
    if d / 2 ^ 28 = 0xB ∧ d / 4096 % 4096 = stn ∧ s.loopState n ≠ 0 then
      ((if s.loopState n = 6 then s.tuneAbort n 4 else s).loopEnter n 1).wr LE_STAT_FCAUSE n 4
    else s) s

/-! Checks of LE settings (R241, R246, R250, R253, R255, R257). -/

/-- A selector that R241 refuses; `dest` for a destination. -/
def selBad (dest : Bool) (sel : Nat) : Bool :=
  let a := sel % 2 ^ 28
  match sel / 2 ^ 28 with
  | 0 => a != 0
  | 1 => decide (2 ^ 23 ≤ a)
  | 2 => dest || a / 256 != 0 || natBits a 3 2 != 0
  | 3 => dest || decide (64 ≤ a)
  | 4 => dest || decide (64 ≤ a)
  | 5 => dest || decide (96 ≤ a)
  | 6 => dest || decide (1024 ≤ a)
  | 7 => dest || decide (16 ≤ a)
  | 8 => dest || decide (16 ≤ a)
  | 0xA => !dest || decide (16 ≤ a)
  | 0xB => !dest || decide (2 ^ 24 ≤ a) || natBits a 11 4 != 0
  | _ => true

/-- A selector that names what the variant lacks. -/
def State.selAbsent (s : State) (sel : Nat) : Bool :=
  let a := sel % 2 ^ 28
  match sel / 2 ^ 28 with
  | 2 => decide (s.byVar 16 8 4 ≤ a / 16) && decide (a / 16 < 16)
  | 4 => decide (s.nAin ≤ a) && decide (a < 64)
  | 5 => decide (s.nAin ≤ a) && decide (a < 64)
  | 6 => decide (s.nLoop ≤ a) && decide (a < 1024)
  | _ => false

/-- Destinations in use: loop or axis, number, selector. -/
def State.dstUse (s : State) : List (Bool × Nat × Nat) :=
  (s.loops.map (fun n => (false, n, s.rd LE_LOOP_OUT_DST n)) ++ s.axisList.map (fun n => (true, n, s.rd AX_AXIS_OUT_DST n))).filter
    (fun e => e.2.2 != 0)

/-- A second user of a destination. -/
def State.dstTaken (p : State) (axis : Bool) (n sel : Nat) : Bool :=
  sel != 0 && p.dstUse.any (fun e => e.2.2 == sel && !(e.1 == axis && e.2.1 == n))

/-- A surge line that R255 refuses. -/
def surgeBad (p : State) (n : Nat) : Bool :=
  let k := p.rd LE_SURGE_NPTS n
  !(decide (2 ≤ k) && decide (k ≤ 16))
    || (List.range k).any (fun i => !finite f32 (p.surgeAt n i).1 || !finite f32 (p.surgeAt n i).2 || !flt f32 0 (p.surgeAt n i).1
        || (i != 0 && !flt f32 (p.surgeAt n (i - 1)).2 (p.surgeAt n i).2))

/-- The structural fields of a loop (R253), as a list of values. -/
def State.structure_ (s : State) (n : Nat) : List Nat :=
  [s.rd LE_LOOP_EN n, s.rd LE_LOOP_LAW n, s.rd LE_LOOP_ACT n, s.rd LE_LOOP_RATE n, s.rd LE_LOOP_NOTCH n]
    ++ (List.range 5).map (fun k => (s.word 0x18 1 n (k + 1)).toNat)
    ++ (List.range 34).map (fun k => (s.word 0x18 6 n k).toNat)

/-- LE settings in the planned state `p` that LE refuses: the object at fault.  `s` is the state before. -/
def leBad (s p : State) (grp n : Nat) : Bool :=
  if grp = 1 then
    decide (2 ≤ p.rd LE_LOOP_LAW n) || p.rd LE_LOOP_RATE n == 7 || p.rd LE_LOOP_NOTCH n == 3 || p.rd LE_LOOP_BAD_ACT n == 3
      || p.rd LE_LOOP_FE_ACT n == 3 || p.rd LE_LOOP_START n == 3
      || (List.range 4).any (fun k => selBad false (p.word 0x18 1 n (k + 1)).toNat) || selBad true (p.rd LE_LOOP_OUT_DST n)
      || decide (600000000 < p.rd LE_LOOP_FE_TIME n)
      || (p.flag LE_LOOP_EN n && p.dstTaken false n (p.rd LE_LOOP_OUT_DST n))
      || (p.flag LE_LOOP_EN n && p.rd LE_LOOP_LAW n == 1 && (p.rd LE_LOOP_SP_SRC n != 0 || p.flag LE_LOOP_ACT n || surgeBad p n))
      || (p.flag LE_LOOP_EN n && p.rd LE_LOOP_RATE n != s.rd LE_LOOP_RATE n
          && !rateOkBank (p.rd LE_LOOP_RATE n) (p.rd LE_LOOP_NOTCH n) (p.bk n (p.actBank n)))
  else if grp = 6 then
    selBad false (p.rd LE_SURGE_HEAD_SRC n) || (p.flag LE_LOOP_EN n && p.rd LE_LOOP_LAW n == 1 && surgeBad p n)
  else if grp = 7 then
    !(decide (2 ≤ p.rd LE_TUNE_NCYC n) && decide (p.rd LE_TUNE_NCYC n ≤ 15))
      || !(decide (1 ≤ p.rd LE_TUNE_TMAX n) && decide (p.rd LE_TUNE_TMAX n ≤ 3600))
  else false

/-- Something the variant lacks, named in LE settings. -/
def leSelAbsent (p : State) (grp n : Nat) : Bool :=
  if grp = 1 then (List.range 5).any (fun k => p.selAbsent (p.word 0x18 1 n (k + 1)).toNat)
  else if grp = 6 then p.selAbsent (p.rd LE_SURGE_HEAD_SRC n)
  else false

/-- A write that the state of the bank or the mode forbids (R250, R257). -/
def leModeForbids (s p : State) (grp n : Nat) : Bool :=
  if grp = 2 ∨ grp = 3 then s.actBank n == grp - 2
  else if grp = 1 then p.rd LE_LOOP_AT_PERMIT n != s.rd LE_LOOP_AT_PERMIT n && !(s.mo.mode == .commission)
  else false

/-- LOOP_NOT_OPEN and BANK_BUSY of R250, R251, R253. -/
def leOwn (s p : State) (grp n : Nat) : Option (Status × Nat × Nat) :=
  let pend := (s.loop n).swap.isSome
  if (grp = 2 ∨ grp = 3) ∧ pend = true then some (.bankBusy, 0, 0)
  else if (grp = 1 ∨ grp = 6) ∧ p.structure_ n ≠ s.structure_ n then
    if s.loopState n = 4 ∨ s.loopState n = 6 then some (.loopNotOpen, n, 0)
    else if pend then some (.bankBusy, 0, 0) else none
  else none

/-- The destination of a loop that is not running takes SAFE_OUT (Table 9.8). -/
def State.loopSafeOut (s : State) (n : Nat) : State :=
  s.writeDst (s.rd LE_LOOP_OUT_DST n) 0xFB (s.loopDest n (s.rd LE_LOOP_SAFE_OUT n)) s.tai

/-- What a write of LE settings does beyond its words; in TRAIN a configured loop's destination stands at SAFE_OUT. -/
def State.leCommit (s : State) (grp n : Nat) : State :=
  let s1 := if grp = 1 then (s.derive n 0).derive n 1
    else if grp = 2 ∨ grp = 3 then s.derive n (grp - 2) else s
  if grp = 1 then (if s.mo.mode == .train && s.flag LE_LOOP_EN n then s1.loopSafeOut n else s1).showLanes else s1

end Sys2Proof.Machine
end

