-- ==== Sys2Proof/Machine/Axes.lean ====
section
/-! DEFINITION. Axes, encoders and PWM generators (09_loop_engine.md): position, profile, regulation, tables and their
capture, the encoder interfaces, PWM periods, lane failure, and the checks of AX settings. -/

namespace Sys2Proof.Machine

open Sys2Proof

def State.axis (s : State) (n : Nat) : AxisSt := mget (fun _ => AxisSt.init) s.le.axes n

def State.setAxis (s : State) (n : Nat) (x : AxisSt) : State :=
  { s with le := { s.le with axes := mset (fun _ => AxisSt.init) n x s.le.axes } }

/-- State of an axis (R263): 0 OFF, 1 HELD, 2 MOVING, 3 HALTING, 4 FAULT, 5 SAFE, 6 CAPTURE. -/
def State.axisState (s : State) (n : Nat) : Nat := s.rd AX_STAT_STATE n

/-- Regulating states. -/
def regulating (st : Nat) : Bool := st == 1 || st == 2 || st == 3 || st == 6

/-! Inputs (R261). -/

/-- The encoder a selector names. -/
def selEnc (sel : Nat) : Option Nat := if sel / 2 ^ 28 = 7 then some (sel % 16) else none

/-- Position and its invalidity: POS_SCALE times the unwrapped count, or times another source's value. -/
def State.axisPos (s : State) (n : Nat) : AxisSt × Bool :=
  let x := s.axis n
  let sel := s.rd AX_AXIS_FB_SRC n
  let sc := f64Of (s.rd AX_AXIS_POS_SCALE n)
  match selEnc sel with
  | some e =>
    let raw := s.rd AX_ENC_COUNT e
    let cnt := if s.rd AX_ENC_MODE e = 0 ∧ x.seen = true then
        x.count + signedOf 32 ((raw + 2 ^ 32 - x.rawCount) % 2 ^ 32) else s.encPos e
    ({ x with count := cnt, rawCount := raw, seen := true, pos := fmul f64 sc (ofInt f64 cnt) }, s.encBad e)
  | none =>
    let v := s.readSel 0 sel
    ({ x with pos := fmul f64 sc (f64Of v.1) }, v.2)

/-- Velocity: of its source, or the change of position over T. -/
def State.axisVel (s : State) (n old new : Nat) : Nat × Bool :=
  let sel := s.rd AX_AXIS_VFB_SRC n
  if sel = 0 then (toW (fdiv f64 (fsub f64 new old) (periodF f64 (s.rd AX_AXIS_RATE n))), false) else s.readSel 1 sel

/-! The profile generator (R262). -/

/-- Clamp a binary64 to ±m. -/
def clampAbs (m v : Nat) : Nat := fmin f64 m (fmax f64 (fneg f64 m) v)

/-- An open acceleration within bounds: two free words make a binary64; one that is not finite stands for 0. -/
def State.freeAcc (s : State) (j : Nat) : Nat :=
  let v := (Config.freeValue (s.free + j)).toNat + (Config.freeValue (s.free + j + 1)).toNat * 2 ^ 32
  if finite f64 v then v else 0

/-- One sample of a move or a halt.  The manual bounds velocity, acceleration and jerk and places the end of a move
exactly on its target; the course within the bounds and the sample at which it ends are open (free values), but for
a halt with PROF = 0, which decelerates at DMAX. -/
def State.profile (s : State) (n : Nat) (halting : Bool) (x : AxisSt) : AxisSt × Bool :=
  let t := periodF f64 (s.rd AX_AXIS_RATE n)
  let dmax := f64Of (s.rd AX_AXIS_DMAX n)
  let amax := f64Of (s.rd AX_AXIS_AMAX n)
  let a0 := s.freeAcc 2
  let slowing := flt f64 (fmul f64 a0 x.vRef) 0
  let a1 := clampAbs (if slowing || halting then dmax else amax) a0
  let a2 := if s.flag AX_AXIS_PROF n then
      let j := fmul f64 (f64Of (s.rd AX_AXIS_JMAX n)) t
      fmin f64 (fadd f64 x.aRef j) (fmax f64 (fsub f64 x.aRef j) a1)
    else a1
  let a := if halting && !s.flag AX_AXIS_PROF n then (if flt f64 0 x.vRef then fneg f64 dmax else dmax) else a2
  let v0 := fadd f64 x.vRef (fmul f64 a t)
  let beyond := flt f64 (fmul f64 v0 x.vRef) 0 || !notZero 5 v0
  let still := halting && (beyond || !notZero 5 x.vRef)
  let v := if still then 0 else clampAbs (f64Of (s.rd AX_AXIS_VMAX n)) v0
  let ends := (Config.freeValue (s.free + 4)).toNat % 2 == 1
  if halting then
    ({ x with rPos := fadd f64 x.rPos (fmul f64 v t), vRef := v, aRef := (if still then 0 else a) }, still)
  else if ends then ({ x with rPos := x.target, vRef := 0, aRef := 0 }, true)
  else ({ x with rPos := fadd f64 x.rPos (fmul f64 v t), vRef := v, aRef := a }, false)

/-! Tables (R264). -/

/-- A finite binary64 as an integer multiple of 2^-1074. -/
def exact64 (w : Nat) : Int :=
  match unpack f64 w with
  | .fin n m e => (if n then -1 else 1) * ((m * 2 ^ (e + 1074).toNat : Nat) : Int)
  | _ => 0

/-- Bin of a position, and the fraction within it as binary32: x = (pos modulo span) / span × 256, each operation rounded once in
binary64, as positions and TBL_SPAN are (R237, R264).  Without a span, bin 0. -/
def tableBin (pos span : Nat) : Nat × Nat :=
  let sp := (exact64 span).toNat
  if sp = 0 then (0, 0)
  else
    let x := fmul f64 (fdiv f64 (roundF f64 false ((exact64 pos) % (sp : Int)).toNat (-1074)) span) (ofInt f64 256)
    let b := floorF f64 x
    (b.toNat % 256, toW (fsub f64 x (ofInt f64 b)))

/-- Linear interpolation in a table. -/
def State.tableAt (s : State) (grp n : Nat) (b : Nat × Nat) : Nat :=
  let v (k : Nat) : Nat := (s.word 0x19 grp n (k % 256)).toNat
  fadd f32 (v b.1) (fmul f32 (fsub f32 (v (b.1 + 1)) (v b.1)) b.2)

/-- comp = COG(x) + FRIC(x) × sgn(v_ref). -/
def State.comp (s : State) (n : Nat) (x : AxisSt) : Nat :=
  let b := tableBin x.pos (s.rdk AX_AXIS_TBL_SPAN n 0 + s.rdk AX_AXIS_TBL_SPAN n 1 * 2 ^ 32)
  let fr := s.tableAt 4 n b
  let sg := if flt f64 0 x.vRef then fr else if flt f64 x.vRef 0 then fneg f32 fr else 0
  fadd f32 (s.tableAt 3 n b) sg

/-- The tables are active. -/
def State.tableActive (s : State) (n : Nat) (x : AxisSt) : Bool :=
  s.flag AX_AXIS_TBL_EN n && (s.mo.mode == .commission || x.startup != 0 || x.recovery)

/-- The weight moves linearly over TBL_FADE. -/
def State.fade (s : State) (n : Nat) (x : AxisSt) : Nat :=
  let st := ofRatio f32 false (periodNs (s.rd AX_AXIS_RATE n)) (s.rd AX_AXIS_TBL_FADE n * 1000000)
  let step := if s.rd AX_AXIS_TBL_FADE n = 0 then f32One else st
  if s.tableActive n x then fmin f32 f32One (fadd f32 x.g step) else fmax f32 0 (fsub f32 x.g step)

/-! Regulation (R261). -/

/-- The axis notch's coefficients. -/
def State.axisNotch (s : State) (n : Nat) : Nat → Nat :=
  let l := derivedNotch (s.rd AX_AXIS_RATE n) (s.rd AX_AXIS_N_F n) (s.rd AX_AXIS_N_ZZ n) (s.rd AX_AXIS_N_ZP n)
  fun k => l.getD k 0

/-- The regulator at one sample: the axis afterwards and the effort without compensation. -/
def State.regulate (s : State) (n : Nat) (x : AxisSt) : AxisSt × Nat :=
  let err := toW (fsub f64 x.rPos x.pos)
  let vc := fadd f32 (fmul f32 (s.rd AX_AXIS_KPP n) err) (fmul f32 (s.rd AX_AXIS_KVFF n) (toW x.vRef))
  let lo := s.rd AX_AXIS_UMIN n
  let hi := s.rd AX_AXIS_UMAX n
  if !s.flag AX_AXIS_VLOOP n then ({ x with u := fmin f32 (fmax f32 vc lo) hi }, vc)
  else
    let ev := fsub f32 vc x.vel
    let half := fdiv f32 (fmul f32 (s.rd AX_AXIS_KVI n) (periodF f32 (s.rd AX_AXIS_RATE n))) (ofInt f32 2)
    let iv := fadd f32 x.iv (fmul f32 half (fadd f32 ev x.ev))
    let w0 := fadd f32 (fadd f32 (fmul f32 (s.rd AX_AXIS_KVP n) ev) iv) (fmul f32 (s.rd AX_AXIS_KAFF n) (toW x.aRef))
    let w1 := if notZero 4 x.g then fadd f32 w0 (fmul f32 x.g (s.comp n x)) else w0
    let f := if notZero 4 (s.rd AX_AXIS_N_F n) then notchStep (s.axisNotch n) w1 x.notch else (w1, x.notch)
    let clamped := flt f32 f.1 lo || flt f32 hi f.1
    ({ x with ev := ev, iv := (if clamped then x.iv else iv), notch := f.2, u := fmin f32 (fmax f32 f.1 lo) hi }, w0)

/-! States (R261 to R263). -/

/-- End a capture with a status (R265). -/
def State.capEnd (s : State) (n : Nat) (st : Status) (t : Option Stamp) : State :=
  let x := s.axis n
  match x.cap with
  | none => s
  | some c => (s.setAxis n { x with cap := none }).settle (some c.cmd) st 0 0 t

/-- HELD at the measured position, bumpless. -/
def State.axisHold (s : State) (n : Nat) : State :=
  let s1 := s.capEnd n .aborted none
  let x := s1.axis n
  let first := !x.began
  let y : AxisSt := { x with
    rPos := x.pos
    vRef := 0
    aRef := 0
    iv := fsub f32 x.u (fmul f32 (s.rd AX_AXIS_KAFF n) 0)
    ev := 0
    notch := ⟨x.u, x.u, x.u, x.u⟩
    target := toF64 (s.ptType (s.rd AX_AXIS_TGT_PT n)) (s.ptRec (s.rd AX_AXIS_TGT_PT n)).raw
    feCount := 0
    frozen := false
    good := 0
    began := true
    startup := (if first then s.rd AX_AXIS_STARTUP_MOVES n else x.startup)
    recovery := x.recovery || x.feTripped
    feTripped := false
    stillAt := s.elapsed }
  let s2 := s1.wr AX_STAT_STATE n 1
  (match selEnc (s.rd AX_AXIS_FB_SRC n) with
    | some e => s2.setEnc e { s2.enc e with bad := false }
    | none => s2).setAxis n y

/-- SAFE: SAFE_OUT, no regulation. -/
def State.axisSafe (s : State) (n : Nat) : State :=
  let s1 := s.capEnd n .aborted none
  (s1.wr AX_STAT_STATE n 5).setAxis n { s1.axis n with u := s.rd AX_AXIS_SAFE_OUT n, vRef := 0, aRef := 0, frozen := false, feCount := 0 }

/-- HALT: decelerate; a capture ends. -/
def State.axisHalt (s : State) (n : Nat) : State :=
  let st := s.axisState n
  let s1 := s.capEnd n .aborted none
  if st = 2 ∨ st = 6 then s1.wr AX_STAT_STATE n 3 else s1

/-- Take a request: 1 HELD, 3 SAFE, 5 HALT. -/
def State.axisTake (s : State) (n want : Nat) : State :=
  if s.mo.mode == .safe && want != 3 then s
  else match want with
    | 1 => if s.axisState n = 1 then s else s.axisHold n
    | 3 => s.axisSafe n
    | 5 => s.axisHalt n
    | _ => s

/-- Requests at a sample boundary: a write of the control point, else LOOP_STATE. -/
def State.axisRequests (s : State) (n tk : Nat) : State :=
  let x := s.axis n
  let ctl := s.rd AX_AXIS_CTL n
  let pt := ctl % 2 ^ 23
  let en := natBit ctl 31
  let seen := if en then s.ctlSeen pt else 0
  let ctlNew := en && x.ctl != 0 && x.ctl != seen && !(s.ptRec pt).bad
  let want := toI32 (s.ptType pt) (s.ptRec pt).raw
  let s1 := s.setAxis n { x with ctl := seen, req := none }
  let s2 := if ctlNew && [1, 3, 5].contains want then s1.axisTake n want
    else match x.req with
      | some (w, _) => s1.axisTake n w
      | none => s1
  match x.req with
  | some (_, c) => s2.settle (some c) .ok 0 0 (some (Stamp.ofTai tk))
  | none => s2

/-- A changed target starts a move, or re-plans it. -/
def State.axisTarget (s : State) (n : Nat) : State :=
  let x := s.axis n
  let pt := s.rd AX_AXIS_TGT_PT n
  let v := toF64 (s.ptType pt) (s.ptRec pt).raw
  let st := s.axisState n
  if (st != 1 && st != 2) || (s.ptRec pt).bad || !finite f64 v || v = x.target then s
  else
    let long := st = 1 ∧ x.stillAt + s.rd AX_AXIS_STANDSTILL_T n * unitsPerSec < s.elapsed
    (s.wr AX_STAT_STATE n 2).setAxis n { x with
      target := v
      startup := (if long then s.rd AX_AXIS_STARTUP_MOVES n else x.startup) }

/-- A move is complete. -/
def State.moveDone (s : State) (n : Nat) : State :=
  let x := s.axis n
  ((s.wr AX_STAT_STATE n 1).wrapInc AX_STAT_MOVES n 1).setAxis n
    { x with startup := x.startup - 1, recovery := false, stillAt := s.elapsed }

/-! Capture (R265). -/

/-- Where a capture's course ends on each leg, and its direction. -/
def capGoal (c : CapRun) (span : Nat) : Nat × Bool :=
  let run := fdiv f64 span (ofInt f64 16)
  match c.leg with
  | 0 => (fadd f64 c.start run, true)
  | 1 => (fadd f64 (fadd f64 c.start run) span, true)
  | 2 => (fadd f64 c.start run, false)
  | _ => (c.start, false)

/-- Advance the reference along the course; the next leg begins at the end of one. -/
def State.capMove (s : State) (n : Nat) (x : AxisSt) (c : CapRun) : AxisSt × CapRun × Bool :=
  let span := s.rdk AX_AXIS_TBL_SPAN n 0 + s.rdk AX_AXIS_TBL_SPAN n 1 * 2 ^ 32
  let g := capGoal c span
  let v := if g.2 then f64Of c.capV else fneg f64 (f64Of c.capV)
  let r := fadd f64 x.rPos (fmul f64 v (periodF f64 (s.rd AX_AXIS_RATE n)))
  let past := if g.2 then fle f64 g.1 r else fle f64 r g.1
  if !past then ({ x with rPos := r, vRef := v, aRef := 0 }, c, false)
  else if c.leg < 3 then ({ x with rPos := g.1, vRef := v, aRef := 0 }, { c with leg := c.leg + 1 }, false)
  else ({ x with rPos := c.start, vRef := 0, aRef := 0 }, c, true)

/-- Add a sample's effort to its bin. -/
def capAdd (m : AMap (Nat × Nat)) (bin w : Nat) : AMap (Nat × Nat) :=
  let b := mget (fun _ => (0, 0)) m bin
  mset (fun _ => (0, 0)) bin (fadd f32 b.1 w, b.2 + 1) m

/-- Mean effort of a bin. -/
def capMean (m : AMap (Nat × Nat)) (bin : Nat) : Nat :=
  let b := mget (fun _ => (0, 0)) m bin
  fdiv f32 b.1 (ofInt f32 b.2)

/-- The course is complete: both tables in one step, or INTERNAL for a bin without a sample. -/
def State.capDone (s : State) (n tk : Nat) (c : CapRun) : State :=
  let empty := (List.range 256).any (fun k =>
    (mget (fun _ => (0, 0)) c.fwd k).2 == 0 || (mget (fun _ => (0, 0)) c.rev k).2 == 0)
  let x := s.axis n
  let s0 := (s.wr AX_STAT_STATE n 1).setAxis n { x with stillAt := s.elapsed }
  if empty then (s0.capEnd n .internal none).raiseErr 0x02FF 2
  else
    let two := ofInt f32 2
    let s1 := (List.range 256).foldl (fun s k =>
      let f := capMean c.fwd k
      let r := capMean c.rev k
      (s.putWord 0x19 3 n k (BitVec.ofNat 32 (fdiv f32 (fadd f32 f r) two))).putWord 0x19 4 n k
        (BitVec.ofNat 32 (fdiv f32 (fsub f32 f r) two))) s0
    (s1.capEnd n .ok (some (Stamp.ofTai tk))).notifyAt 0x19 3 0 (Stamp.ofTai tk) n 0 0 0

/-! A sample (R261). -/

/-- A following-error fault of an axis. -/
def State.axisFault (s : State) (n diff : Nat) : State :=
  let s1 := (s.capEnd n .aborted none).notify 0x19 1 1 n diff 0 0
  if s.rd AX_AXIS_FE_ACT n = 0 then (s1.wr AX_STAT_STATE n 4).setAxis n { s1.axis n with feTripped := true, vRef := 0, aRef := 0 }
  else
    let s2 := s1.axisSafe n
    s2.setAxis n { s2.axis n with feTripped := true }

/-- An invalid position or velocity in a regulating state. -/
def State.axisBad (s : State) (n : Nat) : State :=
  if s.rd AX_AXIS_BAD_ACT n = 0 then s.setAxis n { s.axis n with frozen := true, good := 0, feCount := 0 } else s.axisSafe n

/-- The course of the reference at this sample. -/
def State.axisCourse (s : State) (n tk : Nat) : State :=
  let x := s.axis n
  match s.axisState n with
  | 2 =>
    let r := s.profile n false x
    let s1 : State := { s.setAxis n r.1 with free := s.free + 5 }
    if r.2 then s1.moveDone n else s1
  | 3 =>
    let r := s.profile n true x
    let s1 : State := { s.setAxis n r.1 with free := s.free + 5 }
    if r.2 then s1.moveDone n else s1
  | 6 => match x.cap with
    | some c =>
      let r := s.capMove n x c
      let s1 := s.setAxis n { r.1 with cap := some r.2.1 }
      if r.2.2 then s1.capDone n tk r.2.1 else s1
    | none => s
  | _ => s

/-- A regulating sample with valid inputs. -/
def State.axisLaw (s : State) (n tk : Nat) : State :=
  let x0 := s.axis n
  if x0.frozen && decide (x0.good < 2) then s.setAxis n { x0 with good := x0.good + 1 }
  else
    let s0 := if x0.frozen then
        s.setAxis n { x0 with frozen := false, good := 0, rPos := x0.pos, vRef := 0, aRef := 0, iv := x0.u, ev := 0 }
      else s
    let s1 := (s0.axisTarget n).axisCourse n tk
    let x1 := s1.axis n
    let x2 : AxisSt := { x1 with g := s1.fade n x1 }
    let diff := fabs f32 (toW (fsub f64 x2.rPos x2.pos))
    let beyond := flt f32 0 (s.rd AX_AXIS_FE_LIMIT n) && flt f32 (s.rd AX_AXIS_FE_LIMIT n) diff
    let fe := if beyond then x2.feCount + 1 else 0
    if fe != 0 && decide (s.rd AX_AXIS_FE_TIME n * 1000 ≤ fe * periodNs (s.rd AX_AXIS_RATE n)) then
      (s1.setAxis n { x2 with feCount := 0 }).axisFault n diff
    else
      let r := s1.regulate n { x2 with feCount := fe }
      let y := match r.1.cap with
        | some c =>
          let b := (tableBin r.1.pos (s.rdk AX_AXIS_TBL_SPAN n 0 + s.rdk AX_AXIS_TBL_SPAN n 1 * 2 ^ 32)).1
          if c.leg = 1 then { r.1 with cap := some { c with fwd := capAdd c.fwd b r.2 } }
          else if c.leg = 2 then { r.1 with cap := some { c with rev := capAdd c.rev b r.2 } }
          else r.1
        | none => r.1
      s1.setAxis n y

/-- Show an axis. -/
def State.axisShow (s : State) (n : Nat) (bad : Bool) : State :=
  let x := s.axis n
  let s1 := (((s.setFlag AX_STAT_TBL_ACT n (notZero 4 x.g)).setFlag AX_STAT_INBAD n (bad || x.frozen)).wrk AX_STAT_POS n 0
    (x.pos % 2 ^ 32)).wrk AX_STAT_POS n 1 (x.pos / 2 ^ 32)
  (((s1.wrk AX_STAT_RPOS n 0 (x.rPos % 2 ^ 32)).wrk AX_STAT_RPOS n 1 (x.rPos / 2 ^ 32)).wr AX_STAT_VEL n x.vel).wr AX_STAT_FERR n
    (toW (fsub f64 x.rPos x.pos))

/-- Keep an axis as it stood before its sample. -/
def State.keepAxis (s : State) (n : Nat) (x : AxisSt) (st : Nat) : State :=
  { s with le := { s.le with axOld := mset (fun _ => (AxisSt.init, 0)) n (x, st) s.le.axOld } }

/-- A sample of one axis at `tk`. -/
def State.axisRun (s : State) (n tk : Nat) : State :=
  let p := s.axisPos n
  let v := s.axisVel n (s.axis n).pos p.1.pos
  let bad := p.2 || v.2 || !finite f64 p.1.pos || !finite f32 v.1
  let s1 := (s.setAxis n (if bad then { p.1 with pos := (s.axis n).pos } else { p.1 with vel := v.1 })).axisRequests n tk
  let s2 := if !regulating (s1.axisState n) then s1 else if bad then s1.axisBad n else s1.axisLaw n tk
  let x := s2.axis n
  let s3 := if s2.axisState n = 0 then s2
    else (s2.setAxis n { x with next := x.u, flying := true, at_ := tk }).keepAxis n (s.axis n) (s.axisState n)
  ((s3.axisShow n bad)).drawnFor [s.rd AX_AXIS_FB_SRC n, s.rd AX_AXIS_VFB_SRC n]

def State.axisSample (s : State) (n tk : Nat) : State :=
  if s.flag AX_AXIS_EN n then s.axisRun n tk
  else if s.axisState n = 0 then s
  else ((s.capEnd n .aborted none).wr AX_STAT_STATE n 0).setAxis n AxisSt.init

/-- The output of an axis reaches its destination. -/
def State.axisApply (s : State) (n t : Nat) : State :=
  let x := s.axis n
  if !x.flying then s
  else
    let s1 := (s.writeDst (s.rd AX_AXIS_OUT_DST n) 0xFC x.next t).setFlag AX_STAT_REPEAT n x.overran
    s1.setAxis n { x with flying := false, overran := false }

def State.axesAt (s : State) (tk : Nat) : List Nat :=
  ((s.listed 0x19 1 0 ++ s.listed 0x19 2 0).eraseDups).filter (fun n => tk % periodNs (s.rd AX_AXIS_RATE n) == 0
    && s.gridOk (periodNs (s.rd AX_AXIS_RATE n)))

/-- Every axis' sample at an instant: outputs first, then the samples. -/
def State.axisSamples (s : State) (tk : Nat) : State :=
  let l := s.axesAt tk
  l.foldl (fun s n => s.axisSample n tk) (l.foldl (fun s n => s.axisApply n tk) s)

/-! LOOP_STATE, TABLE_CAPTURE, overruns and lane failure. -/

/-- LOOP_STATE (R247, R249, R263): waits for the loop's or axis' next sample boundary. -/
def execLoopState (ring idx : Nat) (s : State) : Res :=
  s.runCmd ring idx (isOp opLoopState)
    (fun s c =>
      let u := objUnit c.objid
      let n := objInst c.objid
      let want := (c.par 0).toNat
      let ax := u == 0x19
      { form := c.inline 4, absent := s.leAbsentOf c
        bad := if objGrp c.objid != 1 || !(u == 0x18 || ax) || decide ((if ax then 128 else 1024) ≤ n)
            || !((if ax then [1, 3, 5] else [1, 2, 3, 4]).contains want) then some (c.objid, 0) else none
        auth := false
        modes := s.inMode modesCrs && !(s.mo.mode == .safe && want != 3)
        own := if ax then (if s.flag AX_AXIS_EN n then none else some (.modeForbids, s.cmdMode.code, 0))
          else if s.loopState n == 0 || s.loopState n == 6 then some (.modeForbids, s.cmdMode.code, 0) else none })
    (fun s c =>
      let n := objInst c.objid
      let at_ : Nat × Nat := c.ref
      let want := (c.par 0).toNat
      if objUnit c.objid = 0x19 then (s.setAxis n { s.axis n with req := some (want, at_) }).start c
      else (s.setLoop n { s.loop n with req := some (want, at_) }).start c)

/-- Drop the waiting request, or the capture, of a command (ABORT). -/
def State.leReqDrop (s : State) (cmd : Nat × Nat) : State :=
  let s1 := s.le.loops.foldl (fun s e => match e.2.req with
    | some (_, c) => if c = cmd then s.setLoop e.1 { s.loop e.1 with req := none } else s
    | none => s) s
  s.le.axes.foldl (fun s e =>
    let s2 := match e.2.req with
      | some (_, c) => if c = cmd then s.setAxis e.1 { s.axis e.1 with req := none } else s
      | none => s
    match e.2.cap with
    | some c => if c.cmd = cmd then (s2.setAxis e.1 { s2.axis e.1 with cap := none }).wr AX_STAT_STATE e.1 1 else s2
    | none => s2) s1

/-- TABLE_CAPTURE (R265). -/
def execTableCapture (ring idx : Nat) (s : State) : Res :=
  s.runCmd ring idx (isOp opTableCapture)
    (fun s c =>
      let n := objInst c.objid
      { form := c.inline 4, absent := s.leAbsentOf c
        bad := if objUnit c.objid != 0x19 || objGrp c.objid != 1 || decide (128 ≤ n) || !finite f32 (c.par 0).toNat
            || !flt f32 0 (c.par 0).toNat then some (c.objid, 0) else none
        auth := true, modes := s.inMode modesC
        own := if s.axisState n != 1 || !s.flag AX_AXIS_VLOOP n then some (.modeForbids, s.cmdMode.code, 0) else none })
    (fun s c =>
      let n := objInst c.objid
      let x := s.axis n
      ((s.wr AX_STAT_STATE n 6).setAxis n { x with cap := some ⟨c.ref, (c.par 0).toNat, 0, x.rPos, [], []⟩ }).start c)

/-- Leaving COMMISSION ends every capture. -/
def State.capModeEnd (s : State) : State :=
  s.le.axes.foldl (fun s e => if e.2.cap.isSome then (s.capEnd e.1 .aborted none).wr AX_STAT_STATE e.1 1 else s) s

/-- The sample in flight of an axis is lost (R240): the previous output again, from the state before it unless that changed. -/
def State.axisOverrun (s : State) (n : Nat) : State :=
  let x := s.axis n
  let o := mget (fun _ => (AxisSt.init, 0)) s.le.axOld n
  let y : AxisSt := if o.2 = s.axisState n then { x with
      pos := o.1.pos, vel := o.1.vel, rPos := o.1.rPos, vRef := o.1.vRef, aRef := o.1.aRef, iv := o.1.iv, ev := o.1.ev, u := o.1.u
      notch := o.1.notch, g := o.1.g }
    else x
  (s.setAxis n { y with next := o.1.u, overran := true }).setFlag AX_STAT_REPEAT n true

/-- LOOP_OVERRUN (R240): the sample in flight of a loop, or of an axis, was not committed by tk + T. -/
def execLoopOverrun (axis : Bool) (n : Nat) (s : State) : Res :=
  if !s.leOn then .next s
  else if axis then
    let x := s.axis n
    if x.flying && !x.overran && decide (x.at_ + periodNs (s.rd AX_AXIS_RATE n) ≤ s.tai) then .next (s.axisOverrun n) else .next s
  else
    let x := s.loop n
    if x.flying && !x.overran && decide (x.at_ + periodNs (s.rd LE_LOOP_RATE n) ≤ s.tai) then .next (s.loopOverrun n) else .next s

/-- An item that no lane carries enters SAFE. -/
def State.laneShort (s : State) (e : Bool × Nat) : State :=
  if e.1 then s.axisSafe e.2 else if s.loopState e.2 = 0 then s else (s.loopEnter e.2 3).wr LE_STAT_FCAUSE e.2 3

/-- LOOP_LANE_FAILURE (R268, R269): its loops and axes migrate; with `lost`, their samples in flight are lost. -/
def execLoopLaneFailure (lane : Nat) (lost : Bool) (s : State) : Res :=
  if !s.umOn || decide (4 ≤ lane) || s.var == .cpx9616 || s.le.lanes.contains lane then .next s
  else
    let moved := (s.placement.filter (fun e => e.2 == some lane)).map (·.1)
    let s1 : State := { s with le := { s.le with lanes := lane :: s.le.lanes } }
    let s2 := if lost then moved.foldl (fun s e =>
        if e.1 then (if (s.axis e.2).flying then s.axisOverrun e.2 else s)
        else if (s.loop e.2).flying then s.loopOverrun e.2 else s) s1
      else s1
    let s3 := s2.notify 0x18 3 2 lane moved.length s1.liveLanes.length 0
    let short := (s3.placement.filter (fun e => e.2.isNone)).map (·.1)
    let s4 := short.foldl State.laneShort s3.showLanes
    if s4.liveLanes.isEmpty then .next (s4.raiseErr 0x1880 4)
    else if short.isEmpty then .next s4
    else .next (s4.raiseErr 0x1803 3)

/-! Encoders (R266). -/

/-- Count an error report; ENC_ERROR at most once per second. -/
def State.encError (s : State) (n : Nat) (tell : Bool) : State :=
  let s1 := s.bump AX_ENC_ERRS n 1
  let x := s1.enc n
  let k := x.errs + b2n tell
  if tell && (x.errAt = 0 || decide (x.errAt + unitsPerSec ≤ s.elapsed + 1)) then
    (s1.setEnc n { x with errs := 0, errAt := s.elapsed + 1 }).notify 0x19 2 2 n k 0 0
  else s1.setEnc n { x with errs := k }

/-- Gray code to binary, `n` bits. -/
def grayToBin (n v : Nat) : Nat := (List.range n).foldl (fun a k =>
  let i := n - 1 - k
  let above := if k = 0 then false else natBit a (i + 1)
  if natBit v i != above then a + 2 ^ i else a) 0

/-- CRC with polynomial x^6 + x + 1 over `n` bits, most significant first. -/
def crc6 (n v : Nat) : Nat := (List.range n).foldl (fun c k =>
  let b := natBit v (n - 1 - k)
  let top := natBit c 5
  let c2 := c * 2 % 64
  if b != top then c2 ^^^ 3 else c2) 0

/-- ENCODER_TRANSFER (R266): an SSI or BiSS-C transfer completes with its position bits, error and warning bit and
CRC (as received), or is LATE (no data). -/
def execEncoderTransfer (enc : Nat) (data : Option Nat) (error warn : Bool) (crc : Nat) (s : State) : Res :=
  let mode := s.rd AX_ENC_MODE enc
  let bits := s.rd AX_ENC_BITS enc
  if !s.leOn || decide (16 ≤ enc) || s.var == .cpx9616 || !s.flag AX_ENC_EN enc || mode == 0 then .next s
  else match data with
    | none => .next ((((s.setFlag AX_ENC_LATE enc true).setFlag AX_ENC_ERR enc false).setFlag AX_ENC_WARN enc false).encError enc true)
    | some d =>
      let v := d % 2 ^ bits
      let pos := if mode = 2 then grayToBin bits v else v
      let biss := mode == 3
      let sent := crc6 (bits + 2) (v * 4 + b2n error * 2 + b2n warn)
      let err := biss && (!error || crc % 64 != 63 - sent)
      let wrn := biss && !warn
      let s1 := ((s.setFlag AX_ENC_LATE enc false).setFlag AX_ENC_ERR enc err).setFlag AX_ENC_WARN enc wrn
      let s2 := (s1.wr AX_ENC_COUNT enc pos).setEnc enc { s1.enc enc with hi := pos / 2 ^ 32 }
      .next (if err || wrn then s2.encError enc err else s2)

/-- Count of one quadrature edge: A leading B counts up. -/
def quadStep (a b a' b' : Bool) : Int :=
  if a != a' then (if a' == b' then -1 else 1) else if b != b' then (if a' == b' then 1 else -1) else 0

/-- ENCODER_EDGE (R266): new levels of A, B and Z of a quadrature encoder. -/
def execEncoderEdge (enc : Nat) (a b z : Bool) (s : State) : Res :=
  if !s.leOn || decide (16 ≤ enc) || s.var == .cpx9616 || !s.flag AX_ENC_EN enc || s.rd AX_ENC_MODE enc != 0 then .next s
  else
    let x := s.enc enc
    let s0 := s.setEnc enc { x with a := a, b := b, z := z }
    let both := x.a != a && x.b != b
    let s1 :=
      if both then ((s0.setFlag AX_ENC_ERR enc true).setEnc enc { s0.enc enc with bad := true }).encError enc true
      else if x.a == a && x.b == b then s0
      else
        let sig := if x.a != a then 0 else 1
        let pair := x.edgeAt != 0 && x.edgeSig == sig && decide (s.elapsed + 1 < x.edgeAt + s.rd AX_ENC_FILT enc)
        let d := if pair then -x.edgeDelta else quadStep x.a x.b a b
        (s0.setEnc enc { s0.enc enc with
          edgeAt := (if pair then 0 else s.elapsed + 1)
          edgeSig := sig
          edgeDelta := d }).wr AX_ENC_COUNT enc (toSigned 32 (signedOf 32 (s.rd AX_ENC_COUNT enc) + d))
    if z && !x.z then .next ((s1.wr AX_ENC_ZPOS enc (s1.rd AX_ENC_COUNT enc)).setFlag AX_ENC_ZSEEN enc true) else .next s1

/-! PWM (R267). -/

/-- Generators run in these modes (Table 9.8). -/
def State.pwmOn (s : State) (n : Nat) : Bool :=
  s.leOn && s.mo.mode != .safe && s.flag AX_PWM_EN n && s.rd AX_PWM_PERIOD n != 0 && s.var != .cpx9616

/-- High time of a duty, fabric cycles: clamped to 0 to 1, to the nearest cycle. -/
def pwmHigh (duty period : Nat) : Nat :=
  let d := if isNan f32 duty then 0 else fmin f32 f32One (fmax f32 0 duty)
  (roundIntF f64 (fmul f64 (f64Of d) (ofInt f64 period))).toNat

/-- PWM_PERIOD_START: the period whose start passed last, once; its duty, and its events for triggered scans. -/
def execPwmPeriodStart (pwm : Nat) (s : State) : Res :=
  let p := s.rd AX_PWM_PERIOD pwm
  let k := s.tai * 4 / 5 / max 1 p
  if decide (16 ≤ pwm) || !s.pwmOn pwm || !s.gridOk (max 1 p * 5 / 4) || mget (fun _ => 0) s.le.pwmAt pwm == k + 1 then .next s
  else
    let s1 : State := { s with le := { s.le with pwmAt := mset (fun _ => 0) pwm (k + 1) s.le.pwmAt } }
    let s2 := s1.wr AX_PWM_DUTY pwm (pwmHigh (mget (fun _ => 0) s.le.duty pwm) p)
    .next ((s2.trigEvent (16 + pwm) false (k * p * 10)).trigEvent (16 + pwm) true (k * p * 10 + p / 2 * 10))

/-- The level of the ball of a generator, none while it has no power (R236, R267, Tables 9.8 and 20.10): low on a CPX-9616, under
RESET_N and in BOOT up to configuration apply, SAFE_LVL while stopped, else high for DUTY cycles from the start of the period or
around its centre, inverted with POL (assumption 37). -/
def State.pwmBall (s : State) (n : Nat) : Option Bool :=
  if !s.mo.rails || s.mo.mode == .keeper then none
  else if s.var == .cpx9616 || !s.mo.resetN || (s.mo.mode == .boot && s.mo.boot != .protection && s.mo.boot != .done) then some false
  else if !s.pwmOn n then some (s.flag AX_PWM_SAFE_LVL n)
  else
    let p := s.rd AX_PWM_PERIOD n
    let d := s.rd AX_PWM_DUTY n
    let ph := s.tai * 4 / 5 % p
    let from_ := if s.flag AX_PWM_ALIGN n then (p - d) / 2 else 0
    some ((decide (from_ ≤ ph) && decide (ph < from_ + d)) != s.flag AX_PWM_POL n)

/-! Modes and restarts. -/

/-- The destination of an axis that is not running takes SAFE_OUT (Table 9.8). -/
def State.axisSafeOut (s : State) (n : Nat) : State := s.writeDst (s.rd AX_AXIS_OUT_DST n) 0xFC (s.rd AX_AXIS_SAFE_OUT n) s.tai

/-- Device SAFE: every axis is SAFE; generators stop. -/
def State.axSafe (s : State) : State :=
  let s1 := s.axisList.foldl (fun s n =>
    let s1 := s.axisSafe n
    State.writeDst (s1.setAxis n { s1.axis n with flying := false }) (s1.rd AX_AXIS_OUT_DST n) 0xFC (s1.axis n).u s1.tai) s
  (List.range 16).foldl (fun s k => s.wr AX_PWM_DUTY k 0) s1

/-- A cold start of control: every axis OFF. -/
def State.axCold (s : State) : State :=
  let s1 : State := { s with le := { s.le with axes := [] } }
  s.axisList.foldl (fun s n => (s.wr AX_STAT_STATE n 0).setAxis n { AxisSt.init with u := s.rd AX_AXIS_SAFE_OUT n }) s1

/-- After SENTINEL or a power loss, quadrature axes report POSLOST (Table 9.8, R365); after a power loss they are OFF,
and the others HELD at the measured position. -/
def State.axPosLost (s : State) (off : Bool) : State :=
  s.axisList.foldl (fun s n => match selEnc (s.rd AX_AXIS_FB_SRC n) with
    | some e =>
      if s.rd AX_ENC_MODE e = 0 then
        let s1 := s.setFlag AX_STAT_POSLOST n true
        if off then s1.wr AX_STAT_STATE n 0 else s1
      else if off && s.axisState n != 0 then (s.axisHold n) else s
    | none => s) s

/-! Checks of AX settings (R241, R261 to R267). -/

/-- The settings of an axis that need OFF, SAFE or FAULT. -/
def State.axStructure (s : State) (n : Nat) : List Nat :=
  [s.rd AX_AXIS_RATE n, s.rd AX_AXIS_VLOOP n, s.rd AX_AXIS_PROF n, s.rd AX_AXIS_TBL_EN n, s.rd AX_AXIS_FB_SRC n,
   s.rd AX_AXIS_VFB_SRC n, s.rd AX_AXIS_OUT_DST n, s.rd AX_AXIS_TGT_PT n]

def pwmPeriodBad (p : Nat) : Bool := !(decide (80 ≤ p) && decide (p ≤ 800000)) || 800000000 % p != 0

/-- AX settings in the planned state `p` that AX refuses; `s` is the state before. -/
def axBad (s p : State) (grp n : Nat) : Bool :=
  let changed (f : Field) : Bool := p.rd f n != s.rd f n
  if grp = 1 then
    p.rd AX_AXIS_RATE n == 7 || decide (2 ≤ p.rd AX_AXIS_FE_ACT n) || p.rd AX_AXIS_BAD_ACT n == 3
      || natBits (p.rd AX_AXIS_CTL n) 30 23 != 0
      || selBad false (p.rd AX_AXIS_FB_SRC n) || selBad false (p.rd AX_AXIS_VFB_SRC n) || selBad true (p.rd AX_AXIS_OUT_DST n)
      || (p.flag AX_AXIS_TBL_EN n && !p.flag AX_AXIS_VLOOP n)
      || (changed AX_AXIS_STANDSTILL_T && p.rd AX_AXIS_STANDSTILL_T n == 0)
      || (changed AX_AXIS_TBL_FADE && !(decide (1 ≤ p.rd AX_AXIS_TBL_FADE n) && decide (p.rd AX_AXIS_TBL_FADE n ≤ 1000)))
      || (p.flag AX_AXIS_EN n && p.dstTaken true n (p.rd AX_AXIS_OUT_DST n))
  else if grp = 0x10 then
    decide (4 ≤ p.rd AX_ENC_MODE n)
      || (if p.rd AX_ENC_MODE n = 0 then p.rd AX_ENC_BITS n != 0
          else !(decide (8 ≤ p.rd AX_ENC_BITS n) && decide (p.rd AX_ENC_BITS n ≤ 48)))
      || !(decide (39 ≤ p.rd AX_ENC_CLKDIV n) && decide (p.rd AX_ENC_CLKDIV n ≤ 3999)) || decide (8000 < p.rd AX_ENC_LEAD n)
  else if grp = 0x11 then (p.flag AX_PWM_EN n || changed AX_PWM_PERIOD) && pwmPeriodBad (p.rd AX_PWM_PERIOD n)
  else false

def axSelAbsent (p : State) (grp n : Nat) : Bool :=
  grp == 1 && (p.selAbsent (p.rd AX_AXIS_FB_SRC n) || p.selAbsent (p.rd AX_AXIS_VFB_SRC n))

/-- LOOP_NOT_OPEN of R263. -/
def axOwn (s p : State) (grp n : Nat) : Option (Status × Nat × Nat) :=
  let st := s.axisState n
  let busy := st != 0 && st != 4 && st != 5
  if grp = 1 then (if busy && p.axStructure n != s.axStructure n then some (.loopNotOpen, n, 0) else none)
  else if grp = 3 ∨ grp = 4 then (if busy && s.tableActive n (s.axis n) then some (.loopNotOpen, n, 0) else none)
  else none

/-- What a write of AX settings does beyond its words. -/
def State.axCommit (s old : State) (grp n : Nat) : State :=
  if grp = 1 then (if s.mo.mode == .train && s.flag AX_AXIS_EN n then s.axisSafeOut n else s).showLanes
  else if grp = 0x10 && (s.rd AX_ENC_MODE n != old.rd AX_ENC_MODE n || s.rd AX_ENC_EN n != old.rd AX_ENC_EN n) then
    s.setEnc n { EncSt.init with a := (s.enc n).a, b := (s.enc n).b, z := (s.enc n).z }
  else s

end Sys2Proof.Machine
end

