-- ==== Sys2Proof/Machine/Blocks.lean ====
section
/-! DEFINITION. Renby coding (17_lanes_and_renby.md, R468 to R472): the scrambler, the blocks of Table 17.3, a frame on the line with
its trailer, and the alignment markers of a bond.  Bit `k` of a block's 64 is the k-th on the line, so byte 0 stands lowest. -/

namespace Sys2Proof.Machine

open Sys2Proof

/-! The scrambler x^58 + x^39 + 1 of one lane. -/

/-- The delayed bits of a line block after the block `prev`: by 39 places and by 58, added. -/
def lineMix (prev x : BitVec 64) : BitVec 64 := ((prev >>> 25) ^^^ (x <<< 39)) ^^^ ((prev >>> 6) ^^^ (x <<< 58))

/-- What a received block carries, after `prev` on its lane. -/
def descramble (prev x : BitVec 64) : BitVec 64 := x ^^^ lineMix prev x

/-- The block on the line that carries `d` after `prev`.  The first 39 bits depend on `prev` alone, so two passes fix all. -/
def scramble (prev d : BitVec 64) : BitVec 64 := d ^^^ lineMix prev (d ^^^ lineMix prev 0)

/-! Blocks (R468, Table 17.3). -/

/-- What a block is. -/
inductive Block where
  | data (d : BitVec 64)
  | idle
  | start (cls : Nat)
  | stop (cls : Nat)
  | marker
  | invalid
  deriving DecidableEq, Repr

/-- Read a block by its sync header and its descrambled bits. -/
def blockOf (sync : Nat) (d : BitVec 64) : Block :=
  let cls := natBits d.toNat 15 14
  if sync = 1 then .data d
  else if sync = 2 then
    (match d.toNat % 256 with
      | 0x1E => .idle
      | 0x78 => .start cls
      | 0x87 => .stop cls
      | 0x4B => .marker
      | _ => .invalid)
  else .invalid

/-- A sync header is valid when its two bits differ. -/
def syncOk (sync : Nat) : Bool := sync == 1 || sync == 2

/-! A frame on the line (R470, R471). -/

/-- Two words of a frame in one data block. -/
def wordBlocks : List Nat → List (BitVec 64)
  | a :: b :: r => BitVec.ofNat 64 (a % 2 ^ 32 + b % 2 ^ 32 * 2 ^ 32) :: wordBlocks r
  | [a] => [BitVec.ofNat 64 (a % 2 ^ 32)]
  | [] => []

/-- The words of data blocks. -/
def blockWords (l : List (BitVec 64)) : List W32 := l.flatMap (fun d => [BitVec.ofNat 32 d.toNat, BitVec.ofNat 32 (d.toNat / 2 ^ 32)])

/-- START, data and END blocks of a frame: sync header and bits. -/
def frameBlocks (cls : Nat) (words : List Nat) : List (Nat × BitVec 64) :=
  (2, BitVec.ofNat 64 (0x78 + cls * 2 ^ 14)) :: (wordBlocks words).map (fun d => (1, d)) ++ [(2, BitVec.ofNat 64 (0x87 + cls * 2 ^ 14))]

/-- The trailer of a frame on a port (Table 17.4): LCTR, CRC, KEPOCH and TAG, both zero before step 7.  The tag is an open function of
the link's keys and of what it covers. -/
def State.trailer (s : State) (p : Nat) (words : List Nat) : List Nat :=
  let l := (s.port p).lctrTx
  let lctr := [l % 2 ^ 32, l / 2 ^ 32 % 2 ^ 32]
  let keyed := decide (7 ≤ (s.port p).step)
  let epoch := if keyed then s.rd RB_PORT_KEPOCH p else 0
  let body := words ++ lctr ++ [crc32c ((words ++ lctr).map (BitVec.ofNat 32)), epoch]
  lctr ++ body.drop (words.length + 2) ++ (if keyed then (List.range 4).map (fun k => (Config.linkTag p epoch body k).toNat) else [0, 0, 0, 0])

/-- The AM block of a lane of a bond (R469): bond code, lane, marker count. -/
def amBlock (bond lane count : Nat) : BitVec 64 :=
  BitVec.ofNat 64 (0x4B + (bond * 64 + lane) * 2 ^ 8 + count % 65536 * 2 ^ 16 + 0x594E4252 * 2 ^ 32)

/-- A block stream of a port of 2^bond lanes from stream position `pos` on: block i goes to lane i modulo the bond, and before every
16,384th block of the lanes stand their AM blocks (R469). -/
def streamBlocks (bond : Nat) : Nat → List (Nat × BitVec 64) → List (Nat × Nat × BitVec 64)
  | _, [] => []
  | pos, x :: r =>
    let b := 2 ^ bond
    let ams := if pos % (b * 16384) = 0 then (List.range b).map (fun k => (k, 2, amBlock bond k (pos / (b * 16384)))) else []
    ams ++ (((pos + ams.length) % b, x) :: streamBlocks bond (pos + ams.length + 1) r)

/-- A block stream scrambled lane by lane, after the blocks `prev`. -/
def lineBlocks : (Nat → BitVec 64) → List (Nat × Nat × BitVec 64) → List LineBlock
  | _, [] => []
  | prev, (k, h, d) :: r =>
    let x := scramble (prev k) d
    ⟨k, h, x⟩ :: lineBlocks (fun j => if j = k then x else prev j) r

end Sys2Proof.Machine
end

