-- ==== Sys2Proof/Machine/Time.lean ====
section
/-! DEFINITION. The time unit (18_time_unit.md, R499 to R518): INCREMENT, slews and steps, the time states, the real-time
counter's setting, and time messages. -/

namespace Sys2Proof.Machine

open Sys2Proof

/-- Every write to TU_ADJ refreshes the servo timeout (R518). -/
def State.tuRefresh (s : State) : State := { s with tu := { s.tu with adjAt := s.elapsed } }

/-- Set the Keeper's real-time counter from the time counter, to one crystal tick (R506). -/
def State.rtcFromTime (s : State) : State :=
  { s with
    kp := { s.kp with rtcSec := s.tu.sec, rtcTick := s.tu.ns * 32768 / 1000000000, rtcPhase := 0 }
    tu := { s.tu with rtcAt := s.elapsed } }

/-- Enter a time state (Table 18.1), with TIME_STATE, class A on HOLDOVER (R517). -/
def State.tuEnter (s : State) (st : TimeState) : State :=
  if s.tu.state = st then s
  else
    let old := s.tu.state
    let was := s.holdover
    let locks := st == .locked || st == .gm
    let s1 : State := { s with tu := { s.tu with state := st, ever := s.tu.ever || locks, syncRun := 0 } }
    let s2 : State := if s1.holdover && !was then { s1 with tu := { s1.tu with holdSince := s1.elapsed } } else s1
    let s3 := s2.notify 0x43 1 (if st = .holdover then 1 else 0) st.code old.code 0 0
    if locks then s3.rtcFromTime else s3

/-- INCREMENT in 2^-32 ns: 1.25 ns ±1,000 ppm (R500). -/
def incOk (v : Nat) : Bool := decide (5363340411 ≤ v) && decide (v ≤ 5374077829)

def State.setIncrement (s : State) (frac ns : Nat) : State := (s.wr TU_ADJ_INC_FRAC 0 frac).wr TU_ADJ_INC_NS 0 ns

/-- A slew (R501): the amount spread over the fabric cycles of its time; in UNSET it moves to ACQUIRE. -/
def slewOk (ns : Int) (ms : Nat) : Bool := decide (1 ≤ ms) && decide (ns.natAbs ≤ 500 * ms)

def State.setSlew (s : State) (ns : Int) (ms : Nat) : State :=
  let s1 : State := { s with tu := { s.tu with
    slewTotal := ns * 2 ^ 32, slewCycles := ms * 800000, slewDone := 0, slewing := true } }
  if s.tu.state = .unset then s1.tuEnter .acquire else s1

/-- A step is accepted in UNSET, ACQUIRE and HOLDOVER (R502). -/
def State.stepAllowed (s : State) : Bool := s.tu.state == .unset || s.tu.state == .acquire || s.tu.state == .holdover

/-- The first pass commit point at or after an instant: 100 µs into each pass (R21). -/
def commitPoint (t : Nat) : Nat := (t + 25000 + 124999) / 125000 * 125000 - 25000

def State.setStep (s : State) (secs nanos : Int) (cmd : Option (Nat × Nat)) : State :=
  { s with tu := { s.tu with step := some ⟨secs, nanos, cmd, commitPoint (s.tai + 2000)⟩ } }

/-- LOCK = 1. -/
def State.tuLock (s : State) : State :=
  if s.tu.state = .locked ∨ s.tu.state = .gm then s
  else s.tuEnter (if s.rd TU_CFG_ROLE 0 = 1 then .gm else .locked)

/-- HOLD = 1. -/
def State.tuHold (s : State) : State :=
  if s.tu.state = .locked ∨ s.tu.state = .gm ∨ s.tu.state = .acquire then s.tuEnter .holdover else s

/-! The servo's writes, one field group of TU_ADJ each. -/

/-- TU_INCREMENT_WRITE (R500). -/
def execTuIncrementWrite (frac : W32) (ns : Nat) (s : State) : Res :=
  if s.tu.running && decide (ns < 4) && incOk (ns * 2 ^ 32 + frac.toNat) then .next (s.tuRefresh.setIncrement frac.toNat ns)
  else .next s

/-- TU_SLEW (R501). -/
def execTuSlew (ns : Int) (ms : Nat) (s : State) : Res :=
  if s.tu.running && slewOk ns ms && decide (ms < 65536) then .next (s.tuRefresh.setSlew ns ms) else .next s

/-- TU_STEP_REQUEST (R502). -/
def execTuStepRequest (secs nanos : Int) (s : State) : Res :=
  if s.tu.running && s.stepAllowed && decide (nanos.natAbs ≤ 999999999) then .next (s.tuRefresh.setStep secs nanos none) else .next s

/-- TU_LOCK (R504). -/
def execTuLock (s : State) : Res := if s.tu.running then .next s.tuRefresh.tuLock else .next s

/-- TU_HOLD (R505). -/
def execTuHold (s : State) : Res := if s.tu.running then .next s.tuRefresh.tuHold else .next s

/-- SLEW_END (R501). -/
def execSlewEnd (s : State) : Res :=
  if s.tu.slewing && decide (s.tu.slewCycles ≤ s.tu.slewDone) then .next { s with tu := { s.tu with slewing := false } } else .next s

/-- SERVO_TIMEOUT (R505). -/
def execServoTimeout (s : State) : Res :=
  if s.tu.running && (s.tu.state == .locked || s.tu.state == .gm)
      && decide (s.tu.adjAt + s.rd TU_CFG_SERVO_TO 0 * 800000 ≤ s.elapsed) then .next (s.tuEnter .holdover)
  else .next s

/-- RTC_SET (R506): every 60 s in LOCKED or GM. -/
def execRtcSet (s : State) : Res :=
  if s.tu.running && (s.tu.state == .locked || s.tu.state == .gm) && decide (s.tu.rtcAt + 60 * 800000000 ≤ s.elapsed) then
    .next s.rtcFromTime
  else .next s

/-! Steps (R502, R508). -/

/-- TIME_STEP_APPLY (R502): at a pass commit point at least 2 µs after the request. -/
def execTimeStepApply (s : State) : Res :=
  match s.tu.step with
  | none => .next s
  | some r =>
    if !s.tu.running || decide (s.tai < r.notBefore) then .next s
    else
      let t := Stamp.ofTai (max 0 (Int.ofNat s.tai + r.secs * 1000000000 + r.nanos)).toNat
      let s1 : State := { s with tu := { s.tu with
        sec := t.sec % 2 ^ 48, ns := t.ns, step := none, steps := satAdd 0xFFFFFFFF s.tu.steps 1, stepOld := s.tai, stepNew := t.tai } }
      let s2 := s1.notify 0x43 2 1 (toSigned 32 r.secs) (toSigned 32 r.nanos) 0 0
      let s3 := s2.tuEnter .acquire
      let s4 := if s3.pathsOn then s3.pathsStart t.tai else s3
      .next (s4.settle r.cmd .ok 0 0 (some s4.now))

/-! Time messages (R509, R510, R512). -/

/-- The Renby lanes run (Table 17.13), and through the BOOT of a COLD_RESTART (R516). -/
def State.lanesOn (s : State) : Bool :=
  s.tu.running && (match s.mo.mode with
    | .train | .commission | .run | .safe | .letMode => true
    | .sentinel => (match s.mo.sent with
        | .entering _ => true
        | _ => false)
    | .boot => s.mo.coldBoot
    | .keeper => false)

/-- The time counter in ps of TAI. -/
def State.taiPs (s : State) : Nat := s.tai * 1000 + s.tu.frac * 1000 / 2 ^ 32

/-- The last message of a type that left a port, and the sequence number of the next. -/
def State.ptpLast (s : State) (port kind : Nat) : Option PtpMsg := mget (fun _ => none) s.tu.ptpTx (port * 16 + kind)
def State.ptpSeq (s : State) (port kind : Nat) : Nat := (s.ptpLast port kind).elim 0 (fun m => (m.seq + 1) % 65536)

/-- A message leaves a port. -/
def State.ptpPut (s : State) (port : Nat) (m : PtpMsg) : State :=
  { s with tu := { s.tu with ptpTx := mset (fun _ => none) (port * 16 + m.kind) (some m) s.tu.ptpTx } }

/-- Send a PTP message on a Renby port, in a TIME frame (R509). -/
def State.ptpSend (s : State) (p kind cls seq : Nat) : State :=
  let s1 := s.ptpPut p ⟨kind, s.rd TU_CFG_DOMAIN 0, s.serial, p + 1, seq, s.taiPs, cls⟩
  let s2 := s1.setPort p { s1.port p with lctrTx := (s1.port p).lctrTx + 1 }
  { s2 with rb := { s2.rb with seq := mmod (fun _ => 0) 1 (fun n => (n + 1) % 2 ^ 32) s2.rb.seq } }

/-- Send the next of its type. -/
def State.ptpNext (s : State) (p kind cls : Nat) : State := s.ptpSend p kind cls (s.ptpSeq p kind)

/-- SYNC_SEND (R510): every master port, at multiples of 2^−RB_SYNC s. -/
def execSyncSend (s : State) : Res :=
  let k := s.tai * 2 ^ s.rd TU_CFG_RB_SYNC 0 / 1000000000 + 1
  if !s.lanesOn || s.tu.syncIdx == k || !s.gridOk (1000000000 / 2 ^ s.rd TU_CFG_RB_SYNC 0) then .next s
  else
    let s1 : State := { s with tu := { s.tu with syncIdx := k } }
    .next ((s1.portsUp.filter (fun p => s1.rd TU_PORT_PSTATE p == 1)).foldl (fun s p => s.ptpNext p 0 0) s1)

/-- The firmware runs: its protocol engines act (R503). -/
def State.firmwareOn (s : State) : Bool := s.mo.captain && s.mo.letClass == 0

/-- A PTP message of this device leaves an Ethernet lane: an ordinary clock of clockClass 255 in domain 0 (R513). -/
def State.ethSend (s : State) (lane kind seq : Nat) : State :=
  s.ptpPut (256 + lane) ⟨kind, 0, s.serial, lane, seq, s.taiPs, 255⟩

/-- Ethernet lanes that are up (R461, R465). -/
def State.ethLanes (s : State) : List Nat :=
  (List.range s.nLane).filter (fun l => decide (4 ≤ l) && decide (2 ≤ s.rd LN_LANE_PROTO l) && s.flag LN_LANE_UP l)

/-- PDELAY_REQ_SEND (R510): every up port, every 62.5 ms; the firmware asks on the Ethernet lanes at every whole second (R513). -/
def execPdelayReqSend (s : State) : Res :=
  let k := s.tai / 62500000 + 1
  if !s.lanesOn || s.tu.pdIdx == k || !s.gridOk 62500000 then .next s
  else
    let s1 : State := { s with tu := { s.tu with pdIdx := k } }
    let s2 := s1.portsUp.foldl (fun s p => s.ptpNext p 2 0) s1
    .next (if s2.firmwareOn && decide (s.tai / 1000000000 ≠ (s.tu.pdIdx - 1) / 16 ∨ s.tu.pdIdx = 0) then
      s2.ethLanes.foldl (fun s l => s.ethSend l 2 (s.ptpSeq (256 + l) 2)) s2
    else s2)

/-- clockClass that this device announces (R510). -/
def State.clockClass (s : State) : Nat :=
  if s.rd TU_CFG_ROLE 0 = 1 then (if s.tu.state = .gm then 6 else if s.tu.state = .holdover then 7 else 248) else 248

/-- The port states that the best master clock algorithm decided: 0 disabled, 1 master, 2 slave, 3 passive. -/
def State.setPstates (s : State) (l : List Nat) : State :=
  (List.range s.nPort).foldl (fun s p => s.wr TU_PORT_PSTATE p (if 7 ≤ (s.port p).step then l.getD p 0 else 0)) s

/-- The firmware servo holds the unit (R505). -/
def State.servoHold (s : State) : State :=
  if s.firmwareOn && !s.flag TU_CFG_SERVO 0 && (s.tu.state == .locked || s.tu.state == .gm) then s.tuRefresh.tuEnter .holdover else s

/-- The slave port. -/
def State.slavePort (s : State) : Option Nat := (List.range s.nPort).find? (fun p => s.rd TU_PORT_PSTATE p == 2)

/-- What the best master clock algorithm decided for the Renby ports, and for the parent on Ethernet (R510, R513): a slave port means
that the parent is on Renby, and a change of the master is holdover (R505). -/
def State.bmca (s : State) (states : List Nat) (eth : Option (Nat × Nat)) : State :=
  let s1 := s.setPstates states
  let e := if s1.slavePort.isSome then none else eth
  let s2 : State := { s1 with tu := { s1.tu with ethParent := e } }
  if (s.slavePort, s.tu.ethParent) = (s2.slavePort, e) then s2
  else
    let s3 : State := { s2 with tu := { s2.tu with syncRun := 0 } }
    if s.slavePort.isSome || s.tu.ethParent.isSome then s3.servoHold else s3

/-- ANNOUNCE_SEND (R510): every second; `states` is what the algorithm of IEEE 1588-2019 decides for each port. -/
def execAnnounceSend (states : List Nat) (s : State) : Res :=
  let k := s.tu.sec + 1
  if !s.lanesOn || !s.firmwareOn || s.tu.annIdx == k then .next s
  else
    let s1 := State.bmca { s with tu := { s.tu with annIdx := k } } states s.tu.ethParent
    .next ((s1.portsUp.filter (fun p => s1.rd TU_PORT_PSTATE p == 1)).foldl (fun s p => s.ptpNext p 0xB s1.clockClass) s1)

/-- The port of the parent: the slave port, or an Ethernet lane as 256 + lane. -/
def State.parentPort (s : State) : Option Nat :=
  match s.slavePort, s.tu.ethParent with
  | some p, _ => some p
  | none, some e => some (256 + e.1)
  | none, none => none

/-- ANNOUNCE_RECEIPT_TIMEOUT (R505): three intervals without an Announce from the parent. -/
def execAnnounceReceiptTimeout (states : List Nat) (s : State) : Res :=
  match s.parentPort with
  | none => .next s
  | some p =>
    if s.lanesOn && s.firmwareOn && decide (mget (fun _ => 0) s.tu.annAt p + 3 * 800000000 ≤ s.elapsed + 1) then
      .next (s.servoHold.bmca states none)
    else .next s

/-- Three results within 2 ns of one another. -/
def pdAgree (l : List Int) : Bool := decide (3 ≤ l.length) && l.all (fun a => l.all (fun b => decide ((a - b).natAbs ≤ 2000)))

/-- The offset of a Sync from the parent: the firmware servo declares LOCKED after 16 in a row below 20 ns (R505). -/
def State.syncTake (s : State) (offset : Int) : State :=
  let run := if offset.natAbs < 20000 then s.tu.syncRun + 1 else 0
  let s1 : State := { s with tu := { s.tu with syncRun := min run 16, offset := offset } }
  if s1.firmwareOn && !s1.flag TU_CFG_SERVO 0 && decide (16 ≤ run) then
    (if s1.tu.state = .locked ∨ s1.tu.state = .gm then s1 else s1.tuRefresh.tuLock)
  else s1

/-- Offset of a Sync on a port: what lies between its origin and its arrival, less the path delay and the known asymmetry
(R511). -/
def State.syncOffset (s : State) (p : Nat) (m : PtpFrame) : Int :=
  m.ingress - m.origin - signedOf 32 (s.rd TU_PORT_MPD p) - signedOf 32 (s.rd TU_PORT_ASYM p)

/-- The peer delay that a response to the request `seq` of a port shows: half of the round trip less the turnaround time. -/
def State.peerDelay (s : State) (port seq : Nat) (ingress turn : Int) : Option Int :=
  match s.ptpLast port 2 with
  | some m => if m.seq = seq then some ((ingress - Int.ofNat m.time - turn) / 2) else none
  | none => none

/-- A result of a peer-delay exchange on a Renby port; PD_OK after three that agree (R512). -/
def State.delayTake (s : State) (p : Nat) (d : Int) : State :=
  let h := (d :: mget (fun _ => []) s.tu.pdHist p).take 3
  let s1 : State := { s with tu := { s.tu with pdHist := mset (fun _ => []) p h s.tu.pdHist } }
  let s2 := s1.wr TU_PORT_MPD p (toSigned 32 d)
  if pdAgree h then s2.wr TU_PORT_PD_OK p 1 else s2

/-- Under ROLE 0b00 the firmware takes the UTC offset and the leap flags from the parent's Announce (R515). -/
def State.utcTake (s : State) (m : PtpFrame) : State :=
  if s.firmwareOn && s.rd TU_CFG_ROLE 0 == 0 then
    ((s.wr TU_CFG_UTC_OFS 0 (toSigned 16 m.utc)).wr TU_CFG_LEAP61 0 (m.leap / 2 % 2)).wr TU_CFG_LEAP59 0 (m.leap % 2)
  else s

/-- An Announce of a port is noted. -/
def State.announceNote (s : State) (port : Nat) (m : PtpFrame) : State :=
  { s with tu := { s.tu with
    announce := mset (fun _ => []) port [m.clockClass, m.identity] s.tu.announce
    annAt := mset (fun _ => 0) port (s.elapsed + 1) s.tu.annAt } }

/-- TIME_FRAME_RECEIVE (R509 to R512, R515): Sync, Pdelay_Req, Pdelay_Resp or Announce of a port, in the domain; others are
dropped. -/
def execTimeFrameReceive (port : Nat) (m : PtpFrame) (s : State) : Res :=
  if !s.lanesOn || !s.portsUp.contains port || m.domain != s.rd TU_CFG_DOMAIN 0 then .next s
  else
    let slave := s.rd TU_PORT_PSTATE port == 2
    match m.kind with
    | 0 => .next (if slave then s.syncTake (s.syncOffset port m) else s)
    | 2 => .next (s.ptpSend port 3 0 m.seq)
    | 3 => .next ((s.peerDelay port m.seq m.ingress m.origin).elim s (s.delayTake port))
    | 0xB =>
      let old := mget (fun _ => []) s.tu.announce port
      let s1 := s.announceNote port m
      .next (if slave then (if !old.isEmpty && old.getD 1 0 != m.identity then s1.servoHold else s1).utcTake m else s1)
    | _ => .next s

/-! Ethernet lanes (R513): a slave-only ordinary clock of the profile of IEC/IEEE 61850-9-3. -/

/-- The first half of a two-step exchange waits for its Follow_Up. -/
def State.setEthHalf (s : State) (lane kind : Nat) (h : Option (Nat × Int × Int)) : State :=
  { s with tu := { s.tu with ethHalf := mset (fun _ => none) (lane * 16 + kind) h s.tu.ethHalf } }

/-- The first half that a Follow_Up with this sequence number completes. -/
def State.ethHalfOf (s : State) (lane kind seq : Nat) : Option (Int × Int) :=
  match mget (fun _ => none) s.tu.ethHalf (lane * 16 + kind) with
  | some h => if h.1 = seq then some h.2 else none
  | none => none

def State.setEthDelay (s : State) (lane : Nat) (d : Int) : State :=
  { s with tu := { s.tu with ethDelay := mset (fun _ => 0) lane d s.tu.ethDelay } }

/-- A Sync of the parent, whole: it arrived at `ingress` and left at `origin`. -/
def State.ethSync (s : State) (lane : Nat) (ingress origin : Int) : State :=
  s.syncTake (ingress - origin - mget (fun _ => 0) s.tu.ethDelay lane)

/-- An Announce: the algorithm may make its sender the parent (`best`), and the Renby ports masters with it. -/
def State.ethAnnounce (s : State) (lane : Nat) (m : PtpFrame) : State :=
  let s1 := s.announceNote (256 + lane) m
  let s2 := if m.best then s1.bmca ((List.range s1.nPort).map (fun p => if s1.rd TU_PORT_PSTATE p = 2 then 1 else s1.rd TU_PORT_PSTATE p))
      (some (lane, m.identity)) else s1
  if s2.tu.ethParent = some (lane, m.identity) then s2.utcTake m else s2

/-- A time message on an Ethernet lane; the firmware's engine pauses during a Let. -/
def State.ethTime (s : State) (lane : Nat) (m : PtpFrame) : State :=
  if !s.firmwareOn || m.domain != 0 then s
  else
    let parent := s.tu.ethParent == some (lane, m.identity)
    match m.kind with
    | 0 => if !parent then s else if m.twoStep then s.setEthHalf lane 0 (some (m.seq, m.ingress, 0)) else s.ethSync lane m.ingress m.origin
    | 8 => (match s.ethHalfOf lane 0 m.seq with
      | some h => if parent then (s.setEthHalf lane 0 none).ethSync lane h.1 m.origin else s
      | none => s)
    | 2 => (s.ethSend lane 3 m.seq).ethSend lane 0xA m.seq
    | 3 => if m.twoStep then s.setEthHalf lane 3 (some (m.seq, m.ingress, m.origin))
        else (s.peerDelay (256 + lane) m.seq m.ingress m.origin).elim s (s.setEthDelay lane)
    | 0xA => (match s.ethHalfOf lane 3 m.seq with
      | some h => ((s.peerDelay (256 + lane) m.seq h.1 (m.origin - h.2)).elim s (s.setEthDelay lane)).setEthHalf lane 3 none
      | none => s)
    | 0xB => s.ethAnnounce lane m
    | _ => s

/-- A port goes down: its path delay is unknown, and the loss of the slave port is holdover (R505). -/
def State.tuPortDown (s : State) (p : Nat) : State :=
  let slave := s.rd TU_PORT_PSTATE p == 2
  let s1 : State := { s with tu := { s.tu with
    pdHist := mset (fun _ => []) p [] s.tu.pdHist
    announce := mset (fun _ => []) p [] s.tu.announce } }
  let s2 := (s1.wr TU_PORT_PD_OK p 0).wr TU_PORT_PSTATE p 0
  if slave && (s2.tu.state == .locked || s2.tu.state == .gm) then s2.tuEnter .holdover else s2

/-! Checks and effects of TU settings (R500 to R503, Table 18.4). -/

def tuBad (p : State) (grp : Nat) : Bool :=
  if grp = 1 then
    decide (2 ≤ p.rd TU_CFG_ROLE 0) || decide (128 ≤ p.rd TU_CFG_DOMAIN 0)
      || decide (p.rd TU_CFG_RB_SYNC 0 < 3) || decide (7 < p.rd TU_CFG_RB_SYNC 0)
      || decide (p.rd TU_CFG_SERVO_TO 0 < 1000) || decide (60000 < p.rd TU_CFG_SERVO_TO 0)
      || p.rd TU_CFG_HO_PPB 0 == 0 || decide (10000 < p.rd TU_CFG_HO_PPB 0)
  else false

/-- A word of a write: its value under the mask over what stands. -/
def WReq.onto (r : WReq) (w old : Nat) : Nat := blend old (r.at w).1.toNat (r.at w).2.toNat

/-- What a write of TU_ADJ asks: slew amount and time, step amounts. -/
def State.adjSlew (s : State) (r : WReq) : Int × Nat := (signedOf 32 (r.onto 2 s.tu.slewNs), r.onto 3 0)
def State.adjStep (s : State) (r : WReq) : Int × Int := (signedOf 32 (r.onto 4 s.tu.stepS), signedOf 32 (r.onto 5 0))

def State.adjBad (s : State) (r : WReq) : Bool :=
  !incOk (r.new s TU_ADJ_INC_NS * 2 ^ 32 + r.new s TU_ADJ_INC_FRAC)
    || (r.names 3 && !slewOk (s.adjSlew r).1 (s.adjSlew r).2)
    || (r.names 5 && decide (999999999 < (s.adjStep r).2.natAbs))
    || (natBit (r.at 6).2.toNat 31 && natBit (r.at 6).2.toNat 30)

/-- MODE_FORBIDS: the firmware is the servo, or a step while locked. -/
def State.adjForbids (s : State) (r : WReq) : Bool := !s.flag TU_CFG_SERVO 0 || (r.names 5 && !s.stepAllowed)

/-- A write of TU_ADJ commits in the order INCREMENT, slew, step, state request (R503); tells whether a step waits. -/
def State.adjCommit (s : State) (r : WReq) (cmd : Option (Nat × Nat)) : State × Bool :=
  let s0 := s.tuRefresh
  let sl := s.adjSlew r
  let st := s.adjStep r
  let s1 := s0.setIncrement (r.new s TU_ADJ_INC_FRAC) (r.new s TU_ADJ_INC_NS)
  let s2 : State := { s1 with tu := { s1.tu with slewNs := r.onto 2 s.tu.slewNs, stepS := r.onto 4 s.tu.stepS } }
  let s3 := if r.names 3 then s2.setSlew sl.1 sl.2 else s2
  let s4 := if r.names 5 then s3.setStep st.1 st.2 cmd else s3
  let w6 := ((r.at 6).1.toNat &&& (r.at 6).2.toNat)
  let s5 := if natBit w6 31 then s4.tuLock else if natBit w6 30 then s4.tuHold else s4
  (s5, r.names 5)

/-- TU_STAT (Table 18.4). -/
def State.tuStat (s : State) (w : Nat) : W32 :=
  match w with
  | 0 => BitVec.ofNat 32 (s.tu.state.code * 2 ^ 29 + b2n s.tu.ever * 2 ^ 28 + b2n s.tu.slewing * 2 ^ 27)
  | 1 => BitVec.ofNat 32 s.tu.steps
  | 2 => BitVec.ofNat 32 s.tu.sec
  | 3 => BitVec.ofNat 32 (s.tu.sec / 2 ^ 32 % 65536 * 65536 + s.tu.frac / 65536)
  | 4 => BitVec.ofNat 32 s.tu.ns
  | _ => 0

end Sys2Proof.Machine
end

