-- ==== Sys2Proof/Machine/Lanes.lean ====
section
/-! DEFINITION. Serial lanes, Renby ports, received frames, devices, remote stations and Ethernet
(17_lanes_and_renby.md, R461 to R498). -/

namespace Sys2Proof.Machine

open Sys2Proof

/-! Lanes and ports (R461 to R467). -/

/-- Lanes of a port. -/
def State.portLanes (s : State) (p : Nat) : List Nat :=
  (List.range (2 ^ s.rd RB_PORT_BOND p)).map (fun k => s.rd RB_PORT_LANE p + k)

/-- The port that uses a lane. -/
def State.portOf (s : State) (lane : Nat) : Option Nat :=
  (List.range s.nPort).find? (fun p => s.portUsed p && (s.portLanes p).contains lane)

/-- The last step a port's lanes have all reached, or the port's own. -/
def State.portStep (s : State) (p : Nat) : Nat :=
  if 5 ≤ (s.port p).step then (s.port p).step else ((s.portLanes p).map (fun l => s.rd LN_LANE_STEP l)).foldl min 4

def State.setLaneAt (s : State) (lane : Nat) : State :=
  { s with rb := { s.rb with laneAt := mset (fun _ => 0) lane s.elapsed s.rb.laneAt } }

/-- A lane starts over. -/
def State.laneDown (s : State) (lane : Nat) : State := ((s.wr LN_LANE_STEP lane 0).wr LN_LANE_UP lane 0).setLaneAt lane

/-- A port starts over: frames and link keys are dropped; one that was in service marks its lanes failed outside TRAIN and
reports (R466, R467). -/
def State.portDown (s : State) (p : Nat) (wait : Nat) : State :=
  let x := s.port p
  let served := x.step == 8
  let s1 := (s.portLanes p).foldl State.laneDown s
  let s2 := s1.setPort p { PortSt.init with stepAt := s.elapsed, retryAt := s.elapsed + wait, drops := x.drops, alarmAt := x.alarmAt }
  let s3 := (s2.putWord 0x41 2 p 1 0).tuPortDown p
  if served then
    let s4 := if s3.mo.mode = .train then s3 else (s3.portLanes p).foldl (fun s l => s.wr LN_LANE_FAILED l 1) s3
    s4.notify 0x41 2 2 p x.step 0 0
  else s3

/-- PORT_DOWN (R466): the coding layer lost the port: invalid sync headers, missed AM blocks, or skew. -/
def execPortDown (port : Nat) (s : State) : Res :=
  if s.lanesOn && s.portUsed port then .next (s.portDown port 0) else .next s

/-- A lane goes down, with its port. -/
def State.laneFails (s : State) (lane : Nat) : State :=
  match s.portOf lane with
  | some p => (s.portDown p 0).laneDown lane
  | none => s.laneDown lane

/-- The detectors of one lane as they are now (R463). -/
def State.detect (s : State) (lane : Nat) (los lol : Bool) : State :=
  let oldLos := s.flag LN_LANE_LOS lane
  let oldLol := s.flag LN_LANE_LOL lane
  let s1 := (s.setFlag LN_LANE_LOS lane los).setFlag LN_LANE_LOL lane lol
  let s2 := if los && !oldLos then (s1.bump LN_LANE_LOS_CNT lane 1).notify 0x40 1 1 lane 1 0 0
    else if oldLos && !los then s1.notify 0x40 2 0 lane 0 0 0 else s1
  let s3 := if lol && !oldLol then (s2.bump LN_LANE_LOL_CNT lane 1).notify 0x40 1 1 lane 2 0 0
    else if oldLol && !lol then
      State.notify { s2 with rb := { s2.rb with lolClr := mset (fun _ => 0) lane s.elapsed s2.rb.lolClr } } 0x40 2 0 lane 0 0 0
    else s2
  if (los && !oldLos) || (lol && !oldLol) then s3.laneFails lane else s3

/-- LANE_DETECTOR_CHANGE (R463, R40): one lane's detectors; `quad` tells that the lane PLL of its quad has unlocked, which sets LOL on
every lane of the quad. -/
def execLaneDetectorChange (lane : Nat) (los lol quad : Bool) (s : State) : Res :=
  if decide (s.nLane ≤ lane) || !s.tu.running then .next s
  else if quad then
    .next ((List.range 4).foldl (fun s k =>
      let l := lane / 4 * 4 + k
      s.detect l (if l = lane then los else s.flag LN_LANE_LOS l) true) s)
  else .next (s.detect lane los lol)

/-- An enabled lane with a protocol. -/
def State.laneUsed (s : State) (lane : Nat) : Bool :=
  decide (4 ≤ lane) && decide (lane < s.nLane) && s.rd LN_LANE_PROTO lane != 0

/-- A lane may reach its step 1 to 4 now (Table 17.2, R465). -/
def State.laneMay (s : State) (lane step : Nat) : Bool :=
  s.laneUsed lane && s.rd LN_LANE_STEP lane + 1 == step
    && (match step with
        | 1 => !s.flag LN_LANE_LOS lane
        | 2 => !s.flag LN_LANE_LOL lane && decide (mget (fun _ => 0) s.rb.lolClr lane + 80000 ≤ s.elapsed)
        | 3 => true
        | 4 => s.rd LN_LANE_PROTO lane == 1
        | _ => false)
    && (match s.portOf lane with
        | some p => decide ((s.port p).retryAt ≤ s.elapsed)
        | none => s.rd LN_LANE_PROTO lane != 1)

/-- Show a port's step on its lanes. -/
def State.showStep (s : State) (p : Nat) : State :=
  (s.portLanes p).foldl (fun s l => s.wr LN_LANE_STEP l (s.port p).step) s

/-- Stations in Hold return to Live once their segment has trained, or at a cancelled entry's next cycle (R492). -/
def State.stationsWake (s : State) (mine : Nat → Bool) : State :=
  (s.listed 0x41 3 0).foldl (fun s n =>
    if s.rd RB_STNST_STATE n = 3 ∧ mine n = true then
      (s.wr RB_STNST_STATE n 1).setStn n { s.stn n with run := 0, cur := 0 }
    else s) s

/-- A port reaches step 8: in service, its lanes up and no longer failed (R467, R512). -/
def State.portServes (s : State) (p : Nat) : State :=
  let s1 := (s.portLanes p).foldl (fun s l => (s.wr LN_LANE_UP l 1).wr LN_LANE_FAILED l 0) s
  let s2 := s1.notify 0x41 1 0 p (s1.word 0x41 2 p 1).toNat 0 0
  s2.stationsWake (fun n => s2.rd RB_STN_SEG n == s2.rd RB_PORT_SEG p)

/-- A port may reach its step 5 to 8 now. -/
def State.portMay (s : State) (p step : Nat) (skew : List Nat) : Bool :=
  let x := s.port p
  s.portUsed p && (match step with
    | 5 => x.step == 0 && s.portStep p == 4 && decide (skew.foldl max 0 ≤ 400)
    | 6 => x.step == 5 && x.capOk
    | 7 => x.step == 6 && x.auth == 7 && s.firmwareOn
    | 8 => x.step == 7 && s.flag TU_PORT_PD_OK p && !s.holdover
    | _ => false)

/-- The payload of this device's CAP frame. -/
def State.capWords (s : State) (p : Nat) : List Nat :=
  [2 ^ 30 + s.localDev * 2 ^ 12, s.byVar 0x9640 0x9632 0x9616 * 2 ^ 16 + 2 ^ s.rd RB_PORT_BOND p,
   s.serial % 2 ^ 32, s.serial / 2 ^ 32, s.byVar 1024 1024 64 * 2 ^ 16, 0]

/-- This device's CAP frame goes out. -/
def State.capSend (s : State) (p : Nat) : State := s.rbSend 2 0x20 3 0 0 0 (s.capWords p) [p]

/-- TRAINING_STEP_REACHED (R464, R465): of a lane, steps 1 to 4, or of a port, steps 5 to 8 (`skew` per lane in ns).  At step 5 the port sends its CAP frame.
-/
def execTrainingStepReached (port : Bool) (n step : Nat) (skew : List Nat) (s : State) : Res :=
  if !s.lanesOn then .next s
  else if port then
    if decide (s.nPort ≤ n) || !s.portMay n step skew then .next s
    else
      let s1 := s.setPort n { s.port n with step := step, stepAt := s.elapsed }
      let s2 := s1.showStep n
      let s3 := if step = 5 then State.capSend (((s2.portLanes n).zipIdx).foldl (fun s e => s.wr LN_LANE_SKEW e.1 (skew.getD e.2 0)) s2) n
        else if step = 7 then
          (s2.wrapInc RB_PORT_KEPOCH n 1).setPort n { s2.port n with lctrRx := 0, lctrTx := 0 }
        else s2
      .next (if step = 8 then s3.portServes n else s3)
  else if s.laneMay n step then
    let s1 := (s.wr LN_LANE_STEP n step).setLaneAt n
    .next (if step = 3 ∧ s1.rd LN_LANE_PROTO n ≠ 1 then (s1.wr LN_LANE_UP n 1).wr LN_LANE_FAILED n 0 else s1)
  else .next s

/-- The bound of the step after `step`, in elapsed units (Table 17.2); none without a bound. -/
def stepBound (step : Nat) : Option Nat :=
  match step with
  | 1 => some 800000
  | 2 => some 80000
  | 3 => some 160000
  | 4 => some 80000
  | 5 => some 800000
  | 6 => some 400000000
  | _ => none

/-- TRAINING_STEP_TIMEOUT (R464): back to step 1 after 10 ms; step 7 is tried again after 1 s. -/
def execTrainingStepTimeout (port : Bool) (n : Nat) (s : State) : Res :=
  if !s.lanesOn then .next s
  else if port then
    let x := s.port n
    let late (at_ : Nat) : Bool := match stepBound (s.portStep n) with
      | some b => decide (at_ + b < s.elapsed)
      | none => false
    let laneAt := ((s.portLanes n).map (fun l => mget (fun _ => 0) s.rb.laneAt l)).foldl max 0
    if !s.portUsed n || decide (x.step = 6 ∧ s.firmwareOn = false) || decide (x.step = 5 ∧ x.capBad = true)
        || !late (if 5 ≤ x.step then x.stepAt else laneAt) then .next s
    else if x.step = 6 then .next (s.setPort n { x with auth := 0, stepAt := s.elapsed + 800000000 })
    else .next (s.portDown n 8000000)
  else if s.laneUsed n && s.rd LN_LANE_PROTO n != 1 && decide (s.rd LN_LANE_STEP n < 3)
      && (match stepBound (s.rd LN_LANE_STEP n) with
          | some b => decide (mget (fun _ => 0) s.rb.laneAt n + b < s.elapsed)
          | none => false) then .next (s.laneDown n)
  else .next s

/-! The capability exchange and authentication (R478, R528). -/

/-- CAP_FRAME_RECEIVE (R478): a neighbour that does not fit keeps the port at step 5, until a later CAP frame fits. -/
def State.capReceive (s : State) (p : Nat) (words : List W32) : State :=
  let w0 := words.getD 0 0
  let kind := w0.get 31 30
  let dev := w0.get 21 12
  let bond := (words.getD 1 0).get 7 0
  let s1 := ((s.wr RB_PORT_NKIND p kind).wr RB_PORT_NDEV p dev).wr RB_PORT_NSTN p (w0.get 11 0)
  let dup := kind == 1 && dev == s.localDev
  if kind = 0 ∨ bond ≠ 2 ^ s.rd RB_PORT_BOND p ∨ dup = true then
    let s2 := (s1.setPort p { s1.port p with capBad := true }).notify 0x41 2 2 p 6 0 0
    if dup then s2.notify 0x41 8 2 dev p 0 0 else s2
  else
    let x := s1.port p
    (s1.setPort p { x with capOk := true, capBad := false, stepAt := if x.capBad then s.elapsed else x.stepAt }).capSend p

def execCapFrameReceive (port : Nat) (words : List W32) (s : State) : Res :=
  if s.lanesOn && s.portUsed port && (s.port port).step == 5 && words.length == 6 then
    .next (s.capReceive port words)
  else .next s

/-- An AUTH frame of this device: message and reason. -/
def State.authSend (s : State) (p msg reason : Nat) : State :=
  s.rbSend 2 0x21 3 0 0 0 [msg * 2 ^ 24 + reason * 2 ^ 16, 0] [p]

/-- An attempt ends: the port retries after 1 s. -/
def State.authFail (s : State) (p : Nat) : State := s.setPort p { s.port p with auth := 0, stepAt := s.elapsed + 800000000 }

/-- AUTH_FRAME_RECEIVE (R528, R529): HELLO, CERT, FINISH or ALERT; `verdict` is 0 when what it proves is accepted, else the
REASON of the ALERT. -/
def State.authReceive (s : State) (p : Nat) (words : List W32) (verdict : Nat) : State :=
  let msg := (words.getD 0 0).get 31 24
  let x := s.port p
  let take (bit : Nat) : State := (s.setPort p { x with auth := natSetBit x.auth bit true }).authSend p msg 0
  if msg = 4 then s.authFail p
  else if s.sc.secrets = false then (s.authSend p 4 4).authFail p
  else if verdict ≠ 0 then (s.authSend p 4 verdict).authFail p
  else if msg = 1 then take 0
  else if msg = 2 ∧ natBit x.auth 0 = true then take 1
  else if msg = 3 ∧ x.auth % 4 = 3 then take 2
  else s

def execAuthFrameReceive (port : Nat) (words : List W32) (verdict : Nat) (s : State) : Res :=
  if s.lanesOn && s.firmwareOn && s.portUsed port && (s.port port).step == 6
      && decide ((s.port port).stepAt ≤ s.elapsed) then .next (s.authReceive port words verdict)
  else .next s

/-! Devices (R476, R477, R484). -/

/-- Forget the sequence windows of an origin (R482). -/
def frameKey (src fstn stn cls : Nat) : Nat := ((src * 2 + fstn) * 4096 + stn) * 4 + cls

def State.clearWindows (s : State) (src fstn stn : Nat) : State :=
  { s with rb := { s.rb with seen := s.rb.seen.filter (fun e => e.1 / 4 != frameKey src fstn stn 0 / 4) } }

/-- A TOPO frame of a device. -/
def State.topoReceive (s : State) (src port : Nat) (words : List W32) : State :=
  let w (k : Nat) : Nat := (words.getD k 0).toNat
  let serial := w 1 + w 2 * 2 ^ 32
  if src = s.localDev then (if serial = s.serial then s else s.notify 0x41 8 2 src port 0 0)
  else
    let d := s.dev src
    let mode := w 0 % 8
    let zids := ((List.range 4).flatMap (fun k => [w (4 + k) / 65536, w (4 + k) % 65536])).filter (fun z => z != 0)
    let s1 := s.setDev src { d with
      topoAt := s.elapsed + 1, mode := mode, serial := serial, lost := false
      sleepAt := if mode = 5 ∧ d.mode ≠ 5 then s.elapsed + 1 else d.sleepAt }
    let s2 : State := { s1 with rb := { s1.rb with
      seg := if mget (fun _ => 0) s1.rb.seg src = 0 then mset (fun _ => 0) src (s.rd RB_PORT_SEG port + 1) s1.rb.seg else s1.rb.seg
      zids := mset (fun _ => []) src zids s1.rb.zids } }
    let s3 := if d.lost then (s2.notify 0x41 4 0 src 0 0 0).rxOf src else s2
    if mode = 5 ∧ d.mode ≠ 5 then (s3.remoteAsleep src).mirrorsAsleep src else s3

/-- DEVICE_UNREACHABLE (R477): no TOPO frame for 3 ms; a device asleep is not marked failed. -/
def execDeviceUnreachable (dev : Nat) (s : State) : Res :=
  let d := s.dev dev
  if s.lanesOn && d.topoAt != 0 && !d.lost && decide (d.topoAt + 2400000 ≤ s.elapsed + 1) then
    let s1 := s.clearWindows dev 0 0
    let s2 : State := { s1 with rb := { s1.rb with seg := mset (fun _ => 0) dev 0 s1.rb.seg } }
    if d.mode = 5 then .next s2
    else .next ((((s2.setDev dev { d with lost := true }).notify 0x41 3 2 dev 0 0 0).rxOf dev).mirrorsLost dev)
  else .next s

/-- This device's TOPO frame. -/
def State.sendTopo (s : State) : State :=
  let zid (k : Nat) : Nat := if s.flag TM_ZONE_EN k && s.var == .cpx9640 then s.rd TM_ZONE_ZID k else 0
  let zs := (List.range 4).map (fun k => zid (2 * k) * 65536 + zid (2 * k + 1))
  s.rbSend 1 0x13 1 0 0 0 ([b2n s.holdover * 8 + s.mo.mode.code, s.serial % 2 ^ 32, s.serial / 2 ^ 32,
    s.byVar 0x9640 0x9632 0x9616 * 2 ^ 16] ++ zs) s.portsUp

/-- TOPO_SEND (R476): each whole millisecond, and at once on a mode change. -/
def execTopoSend (s : State) : Res :=
  let k := s.tai / 1000000 + 1
  if !s.lanesOn || ((s.rb.topoAt == k || !s.gridOk 1000000) && s.rb.topoMode == s.mo.mode.code) then .next s
  else .next (State.sendTopo { s with rb := { s.rb with topoAt := k, topoMode := s.mo.mode.code } })

/-! Remote stations (R487 to R492). -/

/-- Cycle of a station in ns. -/
def cycleNs (code : Nat) : Nat :=
  [31250, 62500, 125000, 250000, 500000, 1000000, 2000000, 5000000, 10000000].getD code 1000000

def State.stnCycle (s : State) (n : Nat) : Nat := cycleNs (s.rd RB_STN_CYCLE n)

/-- Configured stations. -/
def State.stations (s : State) : List Nat := (s.listed 0x41 3 0).filter (fun n => s.flag RB_STN_EN n)

/-- A Live station drops out (R492): 1 misses, 2 SST. -/
def State.stnDrop (s : State) (n cause : Nat) : State :=
  let s1 := ((s.wr RB_STNST_STATE n 2).wrapInc RB_STNST_DROPS n 1).setStn n { s.stn n with run := 0 }
  let s2 := (s1.notify 0x41 5 1 n cause 0 0).stnLost n
  ((s2.leStationLost n).stationPoints n (s2.stn n).inp false).clearWindows s2.localDev 1 n

/-- The cycle under way ends without its ST_IN (R490). -/
def State.stnMiss (s : State) (n : Nat) : State :=
  let x := s.stn n
  if x.cur = 0 ∨ x.got = true ∨ x.judged = true ∨ s.tai + 1 < x.cur + s.stnCycle n then s
  else
    let s1 := s.setStn n { x with judged := true, run := x.run + 1 }
    if s.rd RB_STNST_STATE n = 1 then
      let s2 := s1.bump RB_STNST_MISSES n 1
      if s.rd RB_STN_MISS n ≤ x.run + 1 then s2.stnDrop n 1 else s2
    else s1

/-- STATION_MISS (R490). -/
def execStationMiss (stn : Nat) (s : State) : Res :=
  if s.lanesOn && s.flag RB_STN_EN stn then .next (s.stnMiss stn) else .next s

/-- The command a station is sent: 0 run, 1 hold, 2 stop. -/
def State.stnCmd (s : State) (n : Nat) : Nat :=
  match s.rd RB_STNST_STATE n with
  | 1 => 0
  | 3 => 1
  | _ => if (s.stn n).starting || (s.stn n).enable.isSome then 0 else 2

/-- The station bytes as the round that ended at or before `t` - 1 µs left them (R488). -/
def State.qAt (s : State) (t : Nat) : AMap Nat :=
  match s.um.qPast.find? (fun e => decide (e.1 * 1000 + 1000 ≤ t)) with
  | some e => e.2
  | none => ((s.um.qPast.getLast?).map (·.2)).getD s.um.qOut

/-- A station's Q bytes for the boundary `t`. -/
def State.stnBytes (s : State) (n t : Nat) : List Nat :=
  let base := match s.lg.active with
    | some im => (im.stations.find? (fun m => m.stn == n)).map (fun m => (m.qAddr, m.qLen))
    | none => none
  (List.range (s.rd RB_STN_OUT_LEN n)).map (fun k => match base with
    | some (a, l) => if k < l then mget (fun _ => 0) (s.qAt t) (a + k) else 0
    | none => 0)

/-- Words of a list of bytes, little-endian. -/
def bytesToWords : Nat → List Nat → List Nat
  | 0, _ => []
  | n + 1, l => (if l.isEmpty then [] else (l.getD 0 0 + l.getD 1 0 * 256 + l.getD 2 0 * 65536 + l.getD 3 0 * 2 ^ 24)
      :: bytesToWords n (l.drop 4))

/-- A station's ST_OUT payload for boundary `t` (Table 17.11). -/
def State.stOut (s : State) (n t : Nat) : List Nat :=
  let len := s.rd RB_STN_OUT_LEN n
  let nref := s.rd RB_STN_NREF n
  [s.stnCmd n * 2 ^ 30 + len, s.rd RB_STN_WD n * 2 ^ 20 + nref, t / 1000000000 % 2 ^ 32, t % 1000000000]
    ++ bytesToWords 1024 (s.stnBytes n t)
    ++ (List.range nref).map (fun k => mget (fun _ => 0) s.le.refs (n * 16 + k))

/-- A station in Hold after a cancelled SENTINEL entry, its segment in service, returns to Live at its next cycle (R492). -/
def State.stnUnhold (s : State) (n : Nat) : State :=
  if s.mo.sent == .out && s.rd RB_STNST_STATE n == 3
      && (List.range s.nPort).any (fun p => s.portUsed p && s.rd RB_PORT_SEG p == s.rd RB_STN_SEG n && (s.port p).step == 8) then
    s.stationsWake (fun m => m == n)
  else s

/-- One station at its boundary: the cycle before is judged, and an ST_OUT goes out (R488). -/
def State.stnBoundary (s : State) (n : Nat) : State :=
  let c := s.stnCycle n
  let t := s.tai / c * c
  if (s.stn n).cur = t + 1 ∨ s.gridOk c = false then s
  else
    let s1 := (s.stnMiss n).stnUnhold n
    let ws := s1.stOut n t
    let s2 := s1.setStn n { s1.stn n with cur := t + 1, got := false, judged := false, out := ws }
    s2.rbSend 1 0x10 0 s2.localDev n 0 ws (s2.portsOf (s2.rd RB_STN_SEG n))

/-- STATION_CYCLE_BOUNDARY (R488). -/
def execStationCycleBoundary (s : State) : Res :=
  if s.lanesOn then .next (s.stations.foldl State.stnBoundary s) else .next s

/-- A station becomes Live: its inputs reach logic and PD. -/
def State.stnLive (s : State) (n : Nat) : State :=
  ((s.wr RB_STNST_STATE n 1).setStn n { s.stn n with run := 0, enable := none, starting := false }).stnBack n

/-- Bytes of a list of words, little-endian. -/
def wordsToBytes (ws : List W32) : List Nat :=
  ws.flatMap (fun w => [w.toNat % 256, w.toNat / 256 % 256, w.toNat / 65536 % 256, w.toNat / 2 ^ 24])

/-- An ST_IN frame for the cycle under way is taken whole (R490, R492). -/
def State.stIn (s : State) (n : Nat) (words : List W32) : State :=
  let w0 := words.getD 0 0
  let x := s.stn n
  let t := s.nearSecond (words.getD 2 0).toNat * 1000000000 + (words.getD 3 0).get 29 0
  let sst := w0.get 31 30
  let s1 := s.wr RB_STNST_SST n sst
  if w0.get 12 0 ≠ s.rd RB_STN_IN_LEN n then s
  else if sst ≠ 0 then (if s1.rd RB_STNST_STATE n = 1 then s1.stnDrop n 2 else s1)
  else if x.cur ≠ t + 1 then s1
  else
    let bytes := (wordsToBytes (words.drop 4)).take (s.rd RB_STN_IN_LEN n)
    let s2 := s1.setStn n { x with got := true, run := 0, seen := true }
    if s2.rd RB_STNST_STATE n = 1 then (s2.setStn n { s2.stn n with inp := bytes }).stationPoints n bytes true
    else match x.enable with
      | some e =>
        if e.start ≤ t then
          let s3 := (s2.setStn n { s2.stn n with inp := bytes }).stnLive n
          ((s3.stationPoints n bytes true).notify 0x41 6 0 n 0 0 0).settle (some e.cmd) .ok 0 0 (some s3.now)
        else s2
      | none => if x.starting then s2.setStn n { s2.stn n with inp := bytes } else s2

def execStInReceive (stn : Nat) (words : List W32) (s : State) : Res :=
  if s.lanesOn && decide (stn < 4096) && s.flag RB_STN_EN stn && decide (4 ≤ words.length) then .next (s.stIn stn words) else .next s

/-- STATION_ENABLE (R492). -/
def execStationEnable (ring idx : Nat) (s : State) : Res :=
  s.runCmd ring idx (isOp opStationEnable)
    (fun s c =>
      { form := !c.buf
        bad := if objUnit c.objid != 0x41 || objGrp c.objid != 3 || decide (4096 ≤ objInst c.objid)
            || !s.flag RB_STN_EN (objInst c.objid) then some (c.objid, 0) else none
        auth := false
        modes := s.inMode modesTrain })
    (fun s c =>
      let n := objInst c.objid
      let cy := s.stnCycle n
      if s.rd RB_STNST_STATE n = 2 then
        (s.start c).setStn n { s.stn n with
          enable := some ⟨c.ref, s.tai / cy * cy + cy, s.elapsed + max (100 * cy * 4 / 5) 80000000⟩ }
      else s.answer c 0 0 0 0)

/-- STATION_ENABLE_TIMEOUT (R492). -/
def execStationEnableTimeout (stn : Nat) (s : State) : Res :=
  match (s.stn stn).enable with
  | some e =>
    if decide (e.deadline ≤ s.elapsed) then
      .next ((s.setStn stn { s.stn stn with enable := none }).settle (some e.cmd) .noMatch 0 0 none)
    else .next s
  | none => .next s

/-- ABORT ends a STATION_ENABLE under way (R74). -/
def State.stnEnableDrop (s : State) (cmd : Nat × Nat) : State :=
  s.stations.foldl (fun s n => match (s.stn n).enable with
    | some e => if e.cmd = cmd then s.setStn n { s.stn n with enable := none } else s
    | none => s) s

/-- TRAIN exit: configured stations whose inputs arrive start Live, the others in Substitute (R492). -/
def State.stationsStart (s : State) : State :=
  s.stations.foldl (fun s n =>
    let x := s.stn n
    if x.starting then
      if x.seen ∧ x.run < s.rd RB_STN_MISS n then
        (s.wr RB_STNST_STATE n 1).setStn n { x with starting := false, live := true, run := 0 }
      else s.setStn n { x with starting := false }
    else s) s

/-- t3 of SENTINEL entry: every Live station enters Hold. -/
def State.stationsHold (s : State) : State :=
  s.stations.foldl (fun s n => if s.rd RB_STNST_STATE n = 1 then s.wr RB_STNST_STATE n 3 else s) s

/-! Received frames (R471 to R473, R482, R483). -/

/-- Class and DMODE of a frame type (Table 17.5). -/
def frameType (type : Nat) : Option (Nat × Nat) :=
  match type with
  | 0x01 => some (0, 1)
  | 0x02 => some (0, 2)
  | 0x10 | 0x11 => some (1, 0)
  | 0x12 => some (1, 3)
  | 0x13 => some (1, 1)
  | 0x20 | 0x21 => some (2, 3)
  | 0x22 | 0x23 | 0x24 | 0x25 => some (2, 0)
  | _ => none

/-- The state a meaning answers, for a frame handed on. -/
def nextOf (s : State) (r : Res) : State :=
  match r with
  | .next t => t
  | _ => s

/-- More than 16 AUTH_ERR or REPLAY drops within 1 s (R472). -/
def State.authDrop (s : State) (p : Nat) (f : Field) : State :=
  let x := s.port p
  let d := (s.elapsed :: x.drops).filter (fun t => decide (s.elapsed < t + 800000000))
  let s1 := s.bump f p 1
  if 16 < d.length ∧ (x.alarmAt = 0 ∨ x.alarmAt + 800000000 ≤ s.elapsed + 1) then
    (s1.setPort p { x with drops := d, alarmAt := s.elapsed + 1 }).notify 0x41 7 2 p d.length 0 0
  else s1.setPort p { x with drops := d }

/-- Deliver a frame's payload to its unit. -/
def State.deliverFrame (s : State) (type src stn port : Nat) (ws : List W32) : State :=
  match type with
  | 0x01 => nextOf s (execTripFrameReceive src (ws.take 4) s)
  | 0x02 => nextOf s (execZoneFrameReceive src ws s)
  | 0x11 => if s.rd RB_STN_SEG stn = s.rd RB_PORT_SEG port then nextOf s (execStInReceive stn ws s) else s
  | 0x13 => s.topoReceive src port ws
  | 0x20 => nextOf s (execCapFrameReceive port ws s)
  | 0x22 => nextOf s (execPtSubReceive src ws s)
  | 0x23 => nextOf s (execMirrorRecordReceive src ws s)
  | 0x24 => nextOf s (execPtReqReceive src ws s)
  | 0x25 => nextOf s (execPtRspReceive src ws s)
  | _ => s

/-- Ports a frame is forwarded by: the other port of its segment, and the other segments of R483. -/
def State.forwardPorts (s : State) (port dmode dst group : Nat) : List Nat :=
  let seg := s.rd RB_PORT_SEG port
  let same := (s.portsOf seg).filter (fun p => p != port)
  let others := s.portsUp.filter (fun p => s.rd RB_PORT_SEG p != seg)
  same ++ (match dmode with
    | 1 => others
    | 2 => others.filter (fun p => s.rb.zids.any (fun e => e.2.contains group
        && mget (fun _ => 0) s.rb.seg e.1 == s.rd RB_PORT_SEG p + 1))
    | 0 => (match mget (fun _ => 0) s.rb.seg dst with
        | 0 => others
        | k + 1 => others.filter (fun p => s.rd RB_PORT_SEG p == k))
    | _ => [])

/-- A frame that passed the checks of R472 and R473 (R482). -/
def State.frameAccepted (s : State) (port : Nat) (h : List W32) (ws : List W32) : State :=
  let h1 := h.getD 1 0
  let h3 := h.getD 3 0
  let cls := (h.getD 0 0).get 27 26
  let type := (h.getD 0 0).get 23 16
  let src := h1.get 31 22
  let dst := h1.get 21 12
  let dmode := h1.get 11 10
  let hops := h1.get 9 0
  let stn := h3.get 31 20
  let fstn := h3.get 19 19
  let group := h3.get 15 0
  let own := s.localDev
  if type = 0x13 ∧ src = own then s.topoReceive src port ws
  else if fstn = 0 ∧ src = own ∧ type ≠ 0x20 then s
  else
    let key := frameKey src fstn stn cls
    let seq := (h.getD 2 0).toNat
    let win := mget (fun _ => []) s.rb.seen key
    if win.contains seq then s
    else
      let s1 : State := { s with rb := { s.rb with seen := mset (fun _ => []) key ((seq :: win).take 1024) s.rb.seen } }
      let mine := dmode == 1 || dmode == 3 || (dmode == 0 && dst == own)
        || (dmode == 2 && s.zones.any (fun z => s.rd TM_ZONE_ZID z == group))
      let s2 := if mine && !(s.var == .cpx9616 && decide (64 ≤ src)) then s1.deliverFrame type src stn port ws else s1
      if dmode = 3 ∨ (dmode = 0 ∧ dst = own) ∨ hops = 0 then s2
      else
        let ports := s2.forwardPorts port dmode dst group
        if ports.isEmpty then s2
        else
          let words := [h.getD 0 0, h1 - 1, h.getD 2 0, h3].map (·.toNat) ++ ws.map (·.toNat)
          let s3 : State := { s2 with rb := { s2.rb with fwd := ⟨words, ports, s2.rb.fwd.count + 1⟩ } }
          ports.foldl (fun s p => s.setPort p { s.port p with lctrTx := (s.port p).lctrTx + 1 }) s3

/-- Frames under reassembly are dropped. -/
def State.dropFrames (s : State) (p : Nat) : State := s.setPort p { s.port p with frames := [] }

/-- An error of framing drops every open frame and counts (R470). -/
def State.frameErr (s : State) (p : Nat) : State := (s.dropFrames p).bump RB_PORT_FRAME_ERR p 1

/-- A whole frame of a START block's class: the checks of R472 and R473 in order; `tagOk` tells that its tag verifies. -/
def State.frameTaken (s : State) (port cls : Nat) (frame : List W32) (tagOk : Bool) : State :=
  let h := frame.take 4
  let ws := (frame.drop 4).take (frame.length - 12)
  let t := frame.drop (frame.length - 8)
  let h0 := h.getD 0 0
  let len8 := h0.get 10 0
  let x := s.port port
  let lctr := (t.getD 0 0).toNat + (t.getD 1 0).toNat * 2 ^ 32
  if frame.length != 2 * len8 || decide (len8 < 6) || decide (1152 < len8) then s.frameErr port
  else if h0.get 31 28 != 1 then s.bump RB_PORT_FRAME_ERR port 1
  else if (t.getD 2 0).toNat != crc32c (h ++ ws ++ t.take 2) then s.bump RB_PORT_CRC_ERR port 1
  else
    let link := (h0.get 23 16 == 0x20 || h0.get 23 16 == 0x21) && (h.getD 1 0).get 11 10 == 3
    let zero := (t.drop 4).all (fun w => w == 0) && (t.getD 3 0).get 7 0 == 0
    if x.step < 7 && !(link && zero) then s
    else if decide (7 ≤ x.step) && ((t.getD 3 0).get 7 0 != s.rd RB_PORT_KEPOCH port || !tagOk) then s.authDrop port RB_PORT_AUTH_ERR
    else if lctr < x.lctrRx then s.authDrop port RB_PORT_REPLAY
    else
      let s1 := s.setPort port { x with lctrRx := lctr + 1 }
      match frameType (h0.get 23 16) with
      | none => s1.bump RB_PORT_FRAME_ERR port 1
      | some (c, d) =>
        if c != h0.get 27 26 || c != cls || d != (h.getD 1 0).get 11 10 then s1.bump RB_PORT_FRAME_ERR port 1
        else s1.frameAccepted port h ws

/-- A data, START or END block of a port (R470): a frame of higher class may stand inside another. -/
def State.frameBlock (s : State) (p : Nat) (b : Block) (tagOk : Bool) : State :=
  let x := s.port p
  match b with
  | .data d => (match x.frames with
      | (c, l) :: r => s.setPort p { x with frames := (c, d :: l) :: r }
      | [] => s.frameErr p)
  | .start c => if c < 3 ∧ x.frames.all (fun f => decide (c < f.1)) = true then s.setPort p { x with frames := (c, []) :: x.frames }
      else s.frameErr p
  | .stop c => (match x.frames with
      | (c0, l) :: r => if c = c0 then (s.setPort p { x with frames := r }).frameTaken p c (blockWords l.reverse) tagOk else s.frameErr p
      | [] => s.frameErr p)
  | _ => s

/-- A block with an invalid sync header or type is counted and drops every open frame; 16 invalid sync headers within 64 lose block
lock (R466, R468). -/
def State.badBlock (s : State) (p lane : Nat) (sync : Nat) : State :=
  let s1 := (s.bump LN_LANE_ERR_BLK lane 1).dropFrames p
  if syncOk sync = false ∧ 16 ≤ (mget (fun _ => []) s.rb.badSync lane).countP id then
    State.laneFails ({ s1 with rb := { s1.rb with badSync := mset (fun _ => []) lane [] s1.rb.badSync } }.notify 0x40 1 1 lane 3 0 0) lane
  else s1

/-- One block of a port, descrambled on its lane; nothing is read before block lock (step 3), and no frame before step 5. -/
def State.blockIn (s : State) (p : Nat) (tagOk : Bool) (b : LineBlock) : State :=
  let lane := s.rd RB_PORT_LANE p + b.lane % 2 ^ s.rd RB_PORT_BOND p
  let d := descramble (mget (fun _ => 0) s.rb.lastBlk lane) b.bits
  let bad := ((!syncOk b.sync) :: mget (fun _ => []) s.rb.badSync lane).take 64
  let s1 : State := { s with rb := { s.rb with
    lastBlk := mset (fun _ => 0) lane b.bits s.rb.lastBlk, badSync := mset (fun _ => []) lane bad s.rb.badSync } }
  if s.rd LN_LANE_STEP lane < 3 then s1
  else match blockOf b.sync d with
    | .invalid => s1.badBlock p lane b.sync
    | k => if (s.port p).step < 5 then s1 else s1.frameBlock p k tagOk

/-- RENBY_FRAME_RECEIVE (R468 to R473, R482): the blocks that a port's lanes received since the last, in stream order; `tagOk` is the
verdict on the tags of the frames that end in them. -/
def execRenbyFrameReceive (port : Nat) (blocks : List LineBlock) (tagOk : Bool) (s : State) : Res :=
  if !s.lanesOn || !s.portUsed port then .next s else .next (blocks.foldl (fun s b => s.blockIn port tagOk b) s)

/-- C0_LOAD_WINDOW (R486): class 0 bytes of a port in a window of 31.25 µs, against 25 % of its payload rate. -/
def execC0LoadWindow (port bytes : Nat) (s : State) : Res :=
  if !s.lanesOn || !s.portUsed port then .next s
  else
    let tight := decide (2 ^ s.rd RB_PORT_BOND port * 390625 < bytes * 33)
    let s1 := s.setFlag RB_PORT_C0_OVER port tight
    .next (if tight && !s.flag RB_PORT_C0_OVER port then s1.notify 0x41 9 2 port 0 0 0 else s1)

/-! Ethernet (R493 to R495). -/

/-- A frame for the Captain is dropped; EN_DROP at most once per second, with the drops of the last second. -/
def State.enDrop (s : State) (lane : Nat) : State :=
  let l := (s.elapsed :: mget (fun _ => []) s.rb.enDrops lane).filter (fun t => decide (s.elapsed < t + 800000000))
  let a := mget (fun _ => 0) s.rb.enAt lane
  let s1 : State := State.bump { s with rb := { s.rb with enDrops := mset (fun _ => []) lane l s.rb.enDrops } } EN_PORT_RX_DROP lane 1
  if a = 0 ∨ a + 800000000 ≤ s.elapsed + 1 then
    State.notify { s1 with rb := { s1.rb with enAt := mset (fun _ => 0) lane (s.elapsed + 1) s1.rb.enAt } } 0x42 1 1 lane l.length 0 0
  else s1

/-- ETHERNET_FRAME_RECEIVE (R493, R494, R513): sampled values go to FC (SV_FRAME_RECEIVE) and time frames to TU; every other frame to
the Captain. -/
def execEthernetFrameReceive (lane ethertype len : Nat) (ptp : Option PtpFrame) (s : State) : Res :=
  if !s.laneUsed lane || s.rd LN_LANE_PROTO lane == 1 || !s.flag LN_LANE_UP lane || decide (len < 64) || decide (1522 < len) then
    .next s
  else if ethertype = 0x8808 then .next { s with rb := { s.rb with pauses := s.rb.pauses + 1 } }
  else if ethertype = 0x88BA then .next s
  else if ethertype = 0x88F7 then .next (ptp.elim s (s.ethTime lane))
  else if s.mo.letClass != 0 || s.mo.mode == .sentinel || decide (4096 ≤ s.rb.capQ) then .next (s.enDrop lane)
  else if s.mo.captain then .next { s with rb := { s.rb with capQ := 0 } }
  else .next { s with rb := { s.rb with capQ := s.rb.capQ + 1 } }

/-- The dataset (R495). -/
def State.gooseData (s : State) : Nat := s.tchWord (fun c => s.flag TM_TCH_GOOSE c && s.drives c)

/-- GOOSE_PUBLISH (R495): at a change, or when the repeat is due. -/
def execGoosePublish (s : State) : Res :=
  let g := s.rb.goose
  let d := s.gooseData
  let t0 := s.rd EN_GOOSE_T0 0
  let t1 := s.rd EN_GOOSE_T1 0
  if !s.lanesOn || !s.flag EN_GOOSE_EN 0 || !s.firmwareOn || s.mo.mode == .sentinel then .next s
  else if g.sentAt = 0 ∨ g.data ≠ d then
    .next { s with rb := { s.rb with goose :=
      ⟨d, (g.stNum + 1) % 2 ^ 32, 0, min t1 t0, s.elapsed + 1, s.mo.mode == .commission, g.count + 1⟩ } }
  else if g.sentAt + g.interval * 800000 ≤ s.elapsed + 1 then
    .next { s with rb := { s.rb with goose :=
      ⟨d, g.stNum, (g.sqNum + 1) % 2 ^ 32, min (2 * g.interval) t0, s.elapsed + 1, s.mo.mode == .commission, g.count + 1⟩ } }
  else .next s

/-! Checks and effects of LN, RB and EN settings (R461, R462, R469, R480, R484, R486, Table 17.15). -/

def rbAbsent (s : State) (r : WReq) : Bool :=
  r.unit == 0x41 && ((r.grp == 1 && decide (s.nDev ≤ r.new s RB_CFG_DEVID))
    || (r.grp == 2 && (List.range (2 ^ s.rd RB_PORT_BOND r.i % 8)).any (fun k =>
        let l := s.rd RB_PORT_LANE r.i + k
        decide (s.nLane ≤ l) && decide (l < 20) && (r.touches RB_PORT_LANE || r.touches RB_PORT_BOND))))

/-- Bytes per 10 ms of a station's frames: outwards and inwards, with their START and END blocks. -/
def State.stnLoad (p : State) (n : Nat) : Nat × Nat :=
  let up (b : Nat) : Nat := (b + 7) / 8 * 8
  let k := 10000000 / p.stnCycle n
  (k * (64 + up (16 + (p.rd RB_STN_OUT_LEN n + 3) / 4 * 4 + 4 * p.rd RB_STN_NREF n)), k * (64 + up (16 + p.rd RB_STN_IN_LEN n)))

/-- The stations of a segment load a port above 40 % of its payload rate (R486). -/
def State.segOver (p : State) (seg : Nat) : Bool :=
  let l := (p.stations.filter (fun n => p.rd RB_STN_SEG n == seg)).map p.stnLoad
  let load : Nat := max (l.foldl (fun a x => a + x.1) 0) (l.foldl (fun a x => a + x.2) 0)
  (List.range p.nPort).any (fun q => p.flag RB_PORT_EN q && p.rd RB_PORT_SEG q == seg
    && decide (2 ^ p.rd RB_PORT_BOND q * 200000000 < load * 33))

def lnBad (p : State) (n : Nat) : Bool :=
  let pr := p.rd LN_LANE_PROTO n
  decide (n < 4) || decide (5 ≤ pr) || (p.flag LN_LANE_FEC n && pr != 4)
    || (List.range 4).any (fun k => let q := n / 4 * 4 + k
        pr != 0 && p.rd LN_LANE_PROTO q != 0 && p.rd LN_LANE_PROTO q != pr)

def State.portBad (p : State) (q : Nat) : Bool :=
  let b := 2 ^ p.rd RB_PORT_BOND q
  let l := p.rd RB_PORT_LANE q
  p.rd RB_PORT_BOND q == 3
    || (p.flag RB_PORT_EN q && (decide (l < 4) || (l - 4) % b != 0 || l / 4 != (l + b - 1) / 4 || decide (p.nLane < l + b)
      || (List.range p.nPort).any (fun o => o != q && p.flag RB_PORT_EN o && (p.portLanes o).any (fun x => (p.portLanes q).contains x))
      || decide (2 < ((List.range p.nPort).filter (fun o => p.flag RB_PORT_EN o && p.rd RB_PORT_SEG o == p.rd RB_PORT_SEG q)).length)
      || p.segOver (p.rd RB_PORT_SEG q)))

def rbBad (p : State) (grp n : Nat) : Bool :=
  if grp = 1 then p.rd RB_CFG_HOPS 0 == 0
  else if grp = 2 then p.portBad n
  else if grp = 3 then
    decide (9 ≤ p.rd RB_STN_CYCLE n) || p.rd RB_STN_MISS n == 0 || p.rd RB_STN_WD n == 0 || p.rd RB_STN_APPLY n == 0
      || decide (p.stnCycle n < p.rd RB_STN_APPLY n * 1000) || decide (4096 < p.rd RB_STN_OUT_LEN n)
      || decide (4096 < p.rd RB_STN_IN_LEN n) || decide (16 < p.rd RB_STN_NREF n)
      || (p.flag RB_STN_EN n && p.segOver (p.rd RB_STN_SEG n))
  else false

def enBad (p : State) (grp : Nat) : Bool :=
  grp == 2 && (decide (p.rd EN_GOOSE_T0 0 < 100) || decide (60000 < p.rd EN_GOOSE_T0 0)
    || p.rd EN_GOOSE_T1 0 == 0 || decide (100 < p.rd EN_GOOSE_T1 0))

/-- New lane settings take the lane down, and its port. -/
def State.lnCommit (s old : State) (n : Nat) : State :=
  if s.word 0x40 1 n 0 = old.word 0x40 1 n 0 then s else s.laneFails n

/-- New port and station settings; with Renby out of use every port goes down. -/
def State.rbCommit (s old : State) (grp n : Nat) : State :=
  if grp = 1 ∧ s.flag RB_CFG_EN 0 = false ∧ old.flag RB_CFG_EN 0 = true then
    ((List.range s.nPort).filter (fun p => s.flag RB_PORT_EN p)).foldl (fun s p => s.portDown p 0) s
  else if grp = 2 ∧ s.word 0x41 2 n 0 ≠ old.word 0x41 2 n 0 then
    let s1 := if old.flag RB_PORT_EN n then (old.portLanes n).foldl State.laneDown (s.portDown n 0) else s
    s1.setPort n { s1.port n with retryAt := s.elapsed }
  else if grp = 3 then
    if s.flag RB_STN_EN n && !old.flag RB_STN_EN n then
      (s.wr RB_STNST_STATE n 2).setStn n { StnSt.init with starting := !s.mo.control }
    else if !s.flag RB_STN_EN n && old.flag RB_STN_EN n then
      (s.stnLost n).wr RB_STNST_STATE n 0
    else s
  else s

end Sys2Proof.Machine
end

