-- ==== Sys2Proof/Machine/Access.lean ====
section
/-! DEFINITION. Identity, ownership, sessions, attestation, opening and re-provisioning, firmware update, JTAG
(19_identity_and_access.md, R519 to R537), and the capability object (R2, R76). -/

namespace Sys2Proof.Machine

open Sys2Proof

/-! The capability object. -/

/-- The firmware slot the Captain runs from. -/
def State.runningFw (s : State) : Option FwSlot := if s.sc.fwBooted then s.sc.slotB else s.sc.slotA

/-- MB_CAP (Table 3.9). -/
def State.capWord (s : State) (w : Nat) : W32 :=
  let fw := if s.mo.captain then s.runningFw else none
  let v : Nat := match w with
    | 0 => s.byVar 0x9640 0x9632 0x9616 * 2 ^ 16 + 0x01 * 2 ^ 8 + (fw.map (·.maj)).getD 0 % 16 * 2 ^ 4
    | 1 => s.byVar 16 8 4 * 2 ^ 24 + s.byVar 64 32 16 * 2 ^ 16 + 32 * 2 ^ 8 + s.byVar 4 4 2
    | 2 => s.byVar 2048 1024 512 * 2 ^ 16 + 32 * 2 ^ 8 + 32
    | 3 => s.byVar 1024 512 0 * 2 ^ 16 + s.byVar 128 64 0 * 2 ^ 8 + s.byVar 20 12 8
    | 4 => s.byVar 1 1 0 * 2 ^ 7 + s.byVar 1 0 0 * 2 ^ 6 + s.byVar 1 1 0 * 2 ^ 5 + s.byVar 1 0 0 * 2 ^ 4 + s.byVar 2 1 1 * 2 ^ 2
    | 5 => s.byVar 1024 1024 64 * 2 ^ 16 + 4096
    | 6 => 8388608
    | 7 => 64 * 2 ^ 24 + 64 * 2 ^ 16 + (fw.map (·.min)).getD 0 % 2 ^ 16
    | 8 => s.rd MB_CAP_SDRAM_MIB 0
    | 9 => s.serial % 2 ^ 32
    | 10 => s.serial / 2 ^ 32 % 2 ^ 32
    | _ => b2n s.opened
  BitVec.ofNat 32 v

/-! Sessions. -/

/-- Source codes of the masters (Table 11.7). -/
def Master.source : Master → Nat
  | .hostA => 0x07 | .hostB => 0x08 | .hotPort => 0x0A

def State.setAuth (s : State) (m : Master) (a : AuthSt) : State :=
  match m with
  | .hostA => { s with sc := { s.sc with authA := a } }
  | .hostB => { s with sc := { s.sc with authB := a } }
  | .hotPort => { s with sc := { s.sc with authHp := a } }

def AuthSt.closed (a : AuthSt) : AuthSt := { a with session := 0 }

/-- End every owner session. -/
def State.endSessions (s : State) : State :=
  { s with sc := { s.sc with authA := s.sc.authA.closed, authB := s.sc.authB.closed, authHp := s.sc.authHp.closed } }

/-- End the debug session. -/
def State.endDebug (s : State) : State := { s with sc := { s.sc with debugSession := 0 } }

/-- Owner and debug sessions open. -/
def State.sessionCount (s : State) : Nat :=
  b2n (s.sc.authA.session != 0) + b2n (s.sc.authB.session != 0) + b2n (s.sc.authHp.session != 0) + b2n (s.sc.debugSession != 0)

/-- A handle is a nonzero number of 16 bits that names no open session. -/
def State.handleOk (s : State) (h : Nat) : Bool :=
  h != 0 && decide (h < 65536)
    && !([s.sc.authA.session, s.sc.authB.session, s.sc.authHp.session, s.sc.debugSession].contains h)

/-- AUTH_CHALLENGE (R526): the nonce goes to RES0 to RES3. -/
def execAuthChallenge (ring idx : Nat) (nonce : List W32) (s : State) : Res :=
  s.runCmd ring idx (isOp opAuthChallenge)
    (fun s c =>
      { form := !c.buf
        auth := false
        modes := s.inMode modesAll
        own := if s.openedLike || decide (s.elapsed < (s.authOf c.master).blockedUntil) then some (.authFail, 0, 0) else none })
    (fun s c =>
      let n := (List.range 4).map (fun k => nonce.getD k 0)
      (s.setAuth c.master { s.authOf c.master with nonce := some (n, s.elapsed), parts := [] }).done c
        (n.getD 0 0).toNat (n.getD 1 0).toNat (n.getD 2 0).toNat (n.getD 3 0).toNat)

/-- A response of a master failed (R526, R536): five within 60 s block its challenges for 60 s. -/
def State.authFailed (s : State) (c : Cmd) : State :=
  let a := s.authOf c.master
  let f := (s.elapsed :: a.fails).filter (fun t => decide (s.elapsed < t + 48000000000))
  let s1 := s.setAuth c.master { a with
    nonce := none, parts := [], fails := f
    blockedUntil := if 5 ≤ f.length then s.elapsed + 48000000000 else a.blockedUntil }
  let s2 := match s.sc.lastReject with
    | some t =>
      if s.elapsed < t + 800000000 then s1
      else State.notify { s1 with sc := { s1.sc with lastReject := some s.elapsed } } 0x48 5 1 c.master.source f.length 0 0
    | none => State.notify { s1 with sc := { s1.sc with lastReject := some s.elapsed } } 0x48 5 1 c.master.source f.length 0 0
  s2.fail c .authFail 0

/-- PART of an AUTH_RESPONSE. -/
def Cmd.part (c : Cmd) : Nat := (c.par 0).get 1 0

/-- AUTH_RESPONSE (R526): `sigOk` is the verdict on the signature, `handle` the handle SC draws. -/
def execAuthResponse (ring idx : Nat) (sigOk : Bool) (handle : Nat) (s : State) : Res :=
  if !s.handleOk handle then .next s
  else s.runCmd ring idx (isOp opAuthResponse)
    (fun s c =>
      { form := c.inline (if c.part = 2 then 12 else 48)
        bad := if c.part = 3 then some (c.objid, 0) else none
        auth := false
        modes := s.inMode modesAll
        own := if s.openedLike then some (.authFail, 0, 0) else none })
    (fun s c =>
      let a := s.authOf c.master
      if c.part ≠ 2 then
        (s.setAuth c.master { a with parts := (c.part, c.pars 1) :: a.parts.filter (fun e => e.1 != c.part) }).done c 0 0 0 0
      else
        let live := match a.nonce with
          | some n => decide (s.elapsed ≤ n.2 + 24000000000)
          | none => false
        if live && a.parts.any (fun e => e.1 == 0) && a.parts.any (fun e => e.1 == 1) && sigOk then
          (s.setAuth c.master { a with session := handle, nonce := none, parts := [] }).done c handle 0 0 0
        else s.authFailed c)

/-- AUTH_END (R526): only the issuing master's own session ends. -/
def execAuthEnd (ring idx : Nat) (s : State) : Res :=
  s.runCmd ring idx (isOp opAuthEnd)
    (fun s c => { form := !c.buf, auth := false, modes := s.inMode modesAll })
    (fun s c =>
      let a := s.authOf c.master
      let s1 := if c.session != 0 && a.session == c.session then s.setAuth c.master a.closed
        else if c.session != 0 && s.sc.debugSession == c.session && s.sc.debugMaster == c.master then s.endDebug
        else s
      s1.done c 0 0 0 0)

/-! Attestation. -/

/-- Hash number `k` of the operand: running firmware, committed configuration, active logic image, owner certificate. -/
def hashOf (hashes : List W32) (k : Nat) : List W32 := (List.range 12).map (fun j => hashes.getD (12 * k + j) 0)

def zeroHash : List W32 := List.replicate 12 0

/-- The report of Table 19.3. -/
def State.report (s : State) (nonce hashes : List W32) : List W32 :=
  let flags := s.mo.mode.code * 2 ^ 29 + b2n s.sc.tamper * 4 + b2n s.sc.owned * 2 + b2n s.opened
  [1, BitVec.ofNat 32 s.serial, BitVec.ofNat 32 (s.serial / 2 ^ 32), s.capWord 0]
    ++ (List.range 8).map (fun k => nonce.getD k 0) ++ s.now.words
    ++ [BitVec.ofNat 32 flags, BitVec.ofNat 32 (s.sc.cfgSvn * 2 ^ 16 + s.sc.fwSvn), BitVec.ofNat 32 (s.sc.openCnt * 2 ^ 8 + s.sc.provCnt)]
    ++ hashOf hashes 0 ++ hashOf hashes 1
    ++ (if s.lg.active.isSome then hashOf hashes 2 else zeroHash)
    ++ (if s.sc.owned then hashOf hashes 3 else zeroHash)
    ++ (List.range 24).map (fun j => hashes.getD (48 + j) 0)

/-- ATTEST (R527): `hashes` are the four digests and the signature, as SC computes them. -/
def execAttest (ring idx : Nat) (hashes : List W32) (dmaOk : Bool) (s : State) : Res :=
  s.runCmd ring idx (isOp opAttest)
    (fun s c =>
      { form := c.buffer 1 32 && decide (4096 ≤ c.bufLen)
        auth := false
        modes := s.inMode modesAll
        own := if s.openedLike then some (.authFail, 0, 0) else s.dmaCheck c dmaOk })
    (fun s c => (s.dmaOut c.bufLoc c.bufAddr (s.report (c.pars 0) hashes ++ s.sc.devCert)).done c 356 s.sc.devCertLen 0 0)

/-! Ownership. -/

/-- OWNER_TRANSFER (R525): `record` holds the serial, OWN_CNT and ADOPT of the transfer record (none: the buffer could not be
reached), `cert` the new owner certificate, `sigOk` the verdict against the present authority of Table 19.2. -/
def execOwnerTransfer (ring idx : Nat) (record : Option (Nat × Nat × Bool)) (cert : List W32) (sigOk : Bool) (s : State) : Res :=
  s.runCmd ring idx (isOp opOwnerTransfer)
    (fun s c =>
      { form := c.buffer 0 0
        auth := s.sc.owned && !s.openedLike
        modes := s.inMode modesCs
        own := if s.openedLike then some (.authFail, 0, 0)
          else match s.reach c record with
            | none => some (.dmaFault, 0, 0)
            | some r => if r.1 != s.serial || r.2.1 != s.sc.ownCnt + 1 || !sigOk then some (.authFail, 0, 0) else none })
    (fun s c =>
      match record with
      | none => s
      | some r =>
        let adopt := r.2.2
        let sc : SecSt := { s.sc with
          owned := true, ownerCert := cert, ownCnt := r.2.1, cfgSvn := 0
          adoptedCfg := if adopt then s.mb.committed.map (·.crc) else none
          adoptedLogic := if adopt then s.lg.committed.map (·.crc) else none }
        let s1 : State := State.endSessions { s with sc := sc }
        let s2 : State := if adopt then s1
          else { s1 with mb := { s1.mb with committed := none, older := [] }, lg := { s1.lg with committed := none } }
        (s2.notify 0x48 1 0 s2.sc.ownCnt 0 0 0).done c 0 0 0 0)

/-! Opening (R530 to R532). -/

/-- The secret area is zeroised (R521, R531): owner sessions end, link keys are lost and every port goes down. -/
def State.zeroise (s : State) : State :=
  let s1 : State := State.endSessions { s with sc := { s.sc with secrets := false } }
  (List.range s1.nPort).foldl (fun s p => if s.flag RB_PORT_EN p then s.portDown p 0 else s) s1

/-- The identity entries that opening zeroises (Table 19.1). -/
def State.zeroIdentity (s : State) : State :=
  { s with sc := { s.sc with ownerCert := [], ownCnt := 0, adoptedCfg := none, adoptedLogic := none } }

/-- Step 1: it writes the marker last. -/
def State.openStep1 (s : State) : State :=
  let s1 := s.zeroise.zeroIdentity
  { s1 with sc := { s1.sc with marker := true } }

/-- Step 2: one fuse bit of OPEN_CNT, then the marker is cleared. -/
def State.openStep2 (s : State) : State := { s with sc := { s.sc with openCnt := s.sc.openCnt + 1, marker := false } }

/-- The steps of R531; a device in RUN then leaves for COMMISSION. -/
def State.openDevice (s : State) : State :=
  let s1 := s.openStep1.openStep2
  let s2 : State := { s1 with sc := { s1.sc with debugEnabled := true } }
  let s3 : State := if s2.mo.mode == .run && s2.mo.pend.isNone then { s2 with mo := { s2.mo with pend := some .commission } } else s2
  s3.notify 0x48 2 2 s3.sc.openCnt 0 0 0

/-- UNLOCK with one of the four operations of R530. -/
def isUnlock (k : Nat) (c : Cmd) : Bool := c.opcode == opUnlock && (c.par 0).get 1 0 == k

/-- What a token must hold (Table 19.5). -/
def State.tokenOk (s : State) (kind : Nat) (bufLen : Nat) (w : List W32) : Bool :=
  let n := 68 + (w.getD 16 0).toNat + 96
  let live := match s.sc.unlockNonce with
    | some x => decide (s.elapsed ≤ x.2 + 240000000000) && (w.drop 3).take 12 == x.1
    | none => false
  (w.getD 0 0).toNat == 0x10000 + kind && (w.getD 1 0).toNat + (w.getD 2 0).toNat * 2 ^ 32 == s.serial && live
    && (w.getD 15 0).toNat == s.sc.openCnt && decide (n ≤ 4096) && decide (n ≤ bufLen)
    && (kind != 1 || (w.getD 16 0).toNat == 0)

/-- A token consumes the nonce. -/
def State.noNonce (s : State) : State := { s with sc := { s.sc with unlockNonce := none } }

/-- UNLOCK 0b00 (R530). -/
def execUnlockNonce (ring idx : Nat) (nonce : List W32) (dmaOk : Bool) (s : State) : Res :=
  s.runCmd ring idx (isUnlock 0)
    (fun s c =>
      { form := c.buffer 1 4 && decide (48 ≤ c.bufLen)
        auth := false
        modes := s.inMode modesAll
        own := s.dmaCheck c dmaOk })
    (fun s c =>
      let n := (List.range 12).map (fun k => nonce.getD k 0)
      (State.dmaOut { s with sc := { s.sc with unlockNonce := some (n, s.elapsed) } } c.bufLoc c.bufAddr n).done c 0 0 0 0)

/-- UNLOCK 0b01 (R84, R530, R531, R533): `buf` is the token, `sigOk` the verdict on its signature. -/
def execUnlockOpen (ring idx : Nat) (buf : Option (List W32)) (sigOk : Bool) (handle : Nat) (s : State) : Res :=
  if !s.handleOk handle then .next s
  else s.runCmd ring idx (isUnlock 1)
    (fun s c =>
      { form := c.buffer 0 4
        auth := false
        modes := s.inMode modesAll
        own := if s.openedLike then none else s.dmaCheck c buf.isSome })
    (fun s c =>
      let debug (s : State) : State :=
        { s with sc := { s.sc with debugEnabled := true, debugSession := handle, debugMaster := c.master } }
      if s.opened then (debug s).done c handle 0 0 0
      else if s.openedLike then s.answer c 0 0 0 0
      else if s.tokenOk 1 c.bufLen (buf.getD []) && sigOk && decide (s.sc.openCnt < 16) then
        (debug s.noNonce.openDevice).done c handle 0 0 0
      else s.noNonce.fail c .authFail 0)

/-- UNLOCK 0b10 (R534): `request` is the certificate request over the new key pair. -/
def execUnlockReprovisionRequest (ring idx : Nat) (request : List W32) (dmaOk : Bool) (s : State) : Res :=
  s.runCmd ring idx (isUnlock 2)
    (fun s c =>
      { form := c.buffer 1 4 && decide (4 * request.length ≤ c.bufLen)
        auth := !s.sc.tamper
        modes := s.inMode modesAll
        own := if !s.sc.tamper && !(s.opened && c.session == s.sc.debugSession && c.master == s.sc.debugMaster) then
            some (.authRequired, 0, 0)
          else s.dmaCheck c dmaOk })
    (fun s c =>
      (State.dmaOut { s with sc := { s.sc with newKey := true, keyNo := s.sc.keyNo + 1 } } c.bufLoc c.bufAddr request).done c 0 0 0 0)

/-- An accepted PROVISION token (R534). -/
def State.provision (s : State) (cert : List W32) (len : Nat) : State :=
  let was := s.opened
  let sc : SecSt := { s.sc with
    marker := false, devCert := cert, devCertLen := len, provCnt := s.sc.openCnt, tamper := false, owned := false
    secrets := true, newKey := false, debugEnabled := false, debugSession := 0, reprovisioned := some was }
  State.notify { s with sc := sc } 0x48 3 0 0 0 0 0

/-- UNLOCK 0b11 (R534): `keyOk` says that the certificate holds the new public key. -/
def execUnlockProvision (ring idx : Nat) (buf : Option (List W32)) (sigOk keyOk : Bool) (s : State) : Res :=
  s.runCmd ring idx (isUnlock 3)
    (fun s c =>
      { form := c.buffer 0 4
        auth := false
        modes := s.inMode modesAll
        own := s.dmaCheck c buf.isSome })
    (fun s c =>
      let w := buf.getD []
      let len := (w.getD 16 0).toNat
      if s.tokenOk 2 c.bufLen w && sigOk && keyOk && s.sc.newKey then
        (s.noNonce.provision ((w.drop 17).take ((len + 3) / 4)) len).done c 0 0 0 0
      else s.noNonce.fail c .authFail 0)

/-! Firmware (R523). -/

/-- FW_UPDATE: `image` holds SVN, major and minor version of the image (none: the buffer could not be reached).  DESIGN CHOICE
(assumption 82): an image whose major version is not 1 to 15, which R76 rules out, fails its check. -/
def execFwUpdate (ring idx : Nat) (image : Option (Nat × Nat × Nat)) (sigOk : Bool) (s : State) : Res :=
  s.runCmd ring idx (isOp opFwUpdate)
    (fun s c =>
      { form := c.buffer 0 0
        auth := !(s.romRecovery || s.openedLike)
        modes := s.romRecovery || s.inMode modesCs
        own := match s.reach c image with
          | none => some (.dmaFault, 0, 0)
          | some x =>
            if !sigOk || decide (x.1 < s.sc.fwSvn) || decide (63 < x.1) || x.2.1 == 0 || decide (15 < x.2.1) then
              some (.authFail, 0, 0)
            else none })
    (fun s c =>
      match image with
      | none => s
      | some x =>
        let img : FwSlot := ⟨x.1, x.2.1, x.2.2⟩
        let sc : SecSt := { s.sc with fwPend := true }
        State.done { s with sc := if s.sc.fwSlot then { sc with slotA := some img } else { sc with slotB := some img } } c 0 0 0 0)

/-! The key-store monitor (R521). -/

/-- KEY_TAMPER: cause 1 supply, 2 temperature, 3 clock.  In KEEPER only the Keeper domain is there to act. -/
def execKeyTamper (cause : Nat) (s : State) : Res :=
  if !(decide (1 ≤ cause) && decide (cause ≤ 3)) || !s.mo.vddKeep then .next s
  else
    let s1 := s.zeroise
    let s2 : State := { s1 with sc := { s1.sc with tamper := true } }
    let s3 := s2.evLast ⟨0x4804, 0, s2.now, cause, 0, 0, true⟩
    if s.mo.mode == .keeper then .next s3 else .next (s3.notify 0x48 4 3 cause 0 0 0)

/-! Boundary scan (R535). -/

/-- The code of a JTAG instruction of the row. -/
def jtagOf : Nat → JtagInstr
  | 1 => .idcode | 2 => .samplePreload | 3 => .extest | 4 => .clamp | 5 => .highz | 6 => .debug | _ => .bypass

/-- JTAG_INSTRUCTION. -/
def execJtagInstruction (code : Nat) (s : State) : Res := .next { s with sc := { s.sc with jtag := jtagOf code } }

/-- The instruction as it acts. -/
def State.jtagActs (s : State) : JtagInstr :=
  match s.sc.jtag with
  | .extest => if s.mo.resetN then .bypass else .extest
  | .clamp => if s.mo.resetN then .bypass else .clamp
  | .highz => if s.mo.resetN then .bypass else .highz
  | .debug => if s.sc.debugEnabled && s.opened then .debug else .bypass
  | j => j

/-- IDCODE. -/
def State.idcode (s : State) : W32 :=
  BitVec.ofNat 32 (1 * 2 ^ 28 + s.byVar 0x9640 0x9632 0x9616 * 2 ^ 12 + Config.jtagMaker % 2 ^ 11 * 2 + 1)

/-! SC_STAT (Table 19.6). -/

def State.scStat (s : State) (w : Nat) : W32 :=
  let x := s.sc
  let v : Nat := match w with
    | 0 => b2n x.owned * 2 ^ 31 + b2n s.opened * 2 ^ 30 + b2n x.tamper * 2 ^ 29 + b2n (x.unsignedCfg || x.unsignedLogic) * 2 ^ 28
        + b2n x.fwSlot * 2 ^ 27 + b2n x.fwPend * 2 ^ 26 + min 15 s.sessionCount * 2 ^ 22 + x.fwSvn % 64 * 2 ^ 16 + x.cfgSvn % 2 ^ 16
    | _ => x.ownCnt % 256 * 2 ^ 16 + x.openCnt % 256 * 2 ^ 8 + x.provCnt % 256
  BitVec.ofNat 32 v

/-- BOOT: sessions, nonces and the debug session end (R77, R533), a re-provisioning takes effect (R534). -/
def State.scBoot (s : State) : State :=
  let sc : SecSt := { s.sc with
    authA := AuthSt.init, authB := AuthSt.init, authHp := AuthSt.init, debugSession := 0, unlockNonce := none
    debugEnabled := s.opened, reprovisioned := none }
  { s with sc := sc }

/-- BOOT finds the marker of an interrupted opening: it completes step 2, or the fuse was blown already (R532). -/
def State.markerRecover (s : State) : State :=
  if !s.sc.marker then s
  else
    let s1 : State := if s.sc.openCnt = s.sc.provCnt then s.openStep2 else { s with sc := { s.sc with marker := false } }
    { s1 with sc := { s1.sc with debugEnabled := s1.opened } }

end Sys2Proof.Machine
end

