-- ==== Sys2Proof/Machine/Archive.lean ====
section
/-! DEFINITION. The change recorder and the archive port (14_recording.md, R394 to R402). -/

namespace Sys2Proof.Machine

open Sys2Proof

/-! The change recorder (R394 to R397). -/

/-- CH runs: enabled, PD running, its buffer's SDRAM powered (Table 14.8). -/
def State.chOn (s : State) : Bool := s.flag CH_CFG_EN 0 && s.ch.started

/-- Records of 16 bytes the buffer holds. -/
def State.chCap (s : State) : Nat := s.rd CH_CFG_BUF_MIB 0 * 65536

def State.chRoom (s : State) (n : Nat) : Bool := decide (s.ch.buf.length + n ≤ s.chCap)

/-- Append a record (R396). -/
def State.chPut (s : State) (r : ChRec) : State :=
  let s1 : State := { s with ch := { s.ch with buf := s.ch.buf ++ [r], next := s.ch.next + 1, epoch := some r.epoch } }
  if s.ch.buf.isEmpty then
    { s1 with ar := { s1.ar with pageAt := mset (fun _ => 0) 1 (s.elapsed + 1) s1.ar.pageAt } }
  else s1

def epochOf (t : Nat) : Nat := t / 2 ^ 32

/-- The EPOCH record of an epoch. -/
def State.chEpoch (s : State) (e : Nat) : State := s.chPut ⟨e, 0, 1, true, 0, e⟩

/-- Records that one at TAI time `t` needs: its own, and an EPOCH record when its epoch is not the current one (R395). -/
def State.chNeed (s : State) (t : Nat) : Nat := if s.ch.epoch = some (epochOf t) then 1 else 2

/-- A record at TAI time `t`, after its EPOCH record where one is needed. -/
def State.chAt (s : State) (t index : Nat) (stream : Bool) (qual value : Nat) : State :=
  let e := epochOf t
  let s1 := if s.ch.epoch = some e then s else s.chEpoch e
  s1.chPut ⟨e, t % 2 ^ 32, index, stream, qual, value⟩

/-- Changes lost since the last GAP record: to the buffer and to the hand-off of PD. -/
def State.chLosses (s : State) : Nat := s.ch.lossCnt + s.pd.chLoss.cnt

/-- First and last of them. -/
def State.chLossSpan (s : State) : Nat × Nat :=
  if s.pd.chLoss.cnt = 0 then (s.ch.lossFirst, s.ch.lossLast)
  else if s.ch.lossCnt = 0 then (s.pd.chLoss.first.tai, s.pd.chLoss.last.tai)
  else (min s.ch.lossFirst s.pd.chLoss.first.tai, max s.ch.lossLast s.pd.chLoss.last.tai)

/-- Write the GAP record of the losses and send CH_GAP (R396). -/
def State.chGap (s : State) : State :=
  let n := s.chLosses
  let p := s.chLossSpan
  let s1 := s.chAt p.1 2 true 0 (min 0xFFFFFFFF n + min 0xFFFFFFFF ((p.2 - p.1) / 1000) * 2 ^ 32)
  let s2 : State := { s1 with
    ch := { s1.ch with lost := satAdd 0xFFFFFFFF s1.ch.lost s.pd.chLoss.cnt, lossCnt := 0, stopped := false }
    pd := { s1.pd with chLoss := Loss.none } }
  s2.notify 0x31 1 1 (min 0xFFFFFFFF n) 0 0 0

/-- A change that finds the buffer full: dropped and counted; with the archive failed, CH_STOPPED once (R396, R397). -/
def State.chDrop (s : State) (t : Nat) : State :=
  let s1 : State := { s with ch := { s.ch with
    lossCnt := s.ch.lossCnt + 1, lossFirst := if s.ch.lossCnt = 0 then t else s.ch.lossFirst, lossLast := t
    lost := satAdd 0xFFFFFFFF s.ch.lost 1 } }
  if s.ar.failed && !s.ch.stopped then
    State.notify { s1 with ch := { s1.ch with stopped := true } } 0x31 2 2 (s.rd CH_CFG_BUF_MIB 0) 0 0 0
  else s1

/-- CHANGE_INGEST (R394 to R397): the oldest change that PD handed over; a loss before it is named first. -/
def execChangeIngest (s : State) : Res :=
  match s.pd.changes with
  | [] => .next s
  | c :: t =>
    let s0 : State := { s with pd := { s.pd with changes := t } }
    if !s.chOn then .next s0
    else
      let s1 := if s0.chLosses != 0 && s0.chRoom 4 then s0.chGap else s0
      if s1.chLosses != 0 || !s1.chRoom (s1.chNeed c.time) then .next (s1.chDrop c.time)
      else .next (s1.chAt c.time c.index false c.qual c.raw)

/-- EPOCH_BOUNDARY (R395): once per epoch. -/
def execEpochBoundary (s : State) : Res :=
  if s.chOn && s.tu.running && s.ch.epoch != some (epochOf s.tai) && s.chRoom 1 then .next (s.chEpoch (epochOf s.tai)) else .next s

/-- CH_GAP_WRITE (R396). -/
def execChGapWrite (s : State) : Res :=
  if s.chOn && s.chLosses != 0 && s.chRoom 2 then .next s.chGap else .next s

/-- The START record (Table 14.8): cause 1 BOOT, 2 wake. -/
def State.chStart (s : State) (cause : Nat) : State :=
  let s0 : State := { s with ch := { s.ch with started := true } }
  if s.flag CH_CFG_EN 0 && s0.chRoom 2 then s0.chAt s.tai 3 true 0 cause else s0

/-- The SLEEP record at t1 of SENTINEL entry. -/
def State.chSleep (s : State) : State := if s.chOn && s.chRoom 2 then s.chAt s.tai 4 true 0 0 else s

/-- At BOOT the buffer is empty and numbering follows the archive (R396). -/
def State.chReset (s : State) : State :=
  { s with ch := { ChSt.init with
    next := s.ch.archNext, archNext := s.ch.archNext, anyArchived := s.ch.anyArchived, archEpoch := s.ch.archEpoch } }

/-- CH_STAT (Table 14.9). -/
def State.chStat (s : State) (w : Nat) : Nat :=
  let arch := if s.ch.anyArchived then s.ch.archNext - 1 else 0
  match w with
  | 0 => b2n s.ch.stopped * 2 ^ 31 + min 16383 ((s.ch.buf.length + 65535) / 65536)
  | 1 => s.ch.next % 2 ^ 32
  | 2 => s.ch.next / 2 ^ 32 % 2 ^ 32
  | 3 => arch % 2 ^ 32
  | 4 => arch / 2 ^ 32 % 2 ^ 32
  | _ => satAdd 0xFFFFFFFF s.ch.lost s.pd.chLoss.cnt

/-! The archive port (R398 to R402). -/

/-- AR archives: like EV, and not during a Let (R401). -/
def State.arOn (s : State) : Bool := s.evOn && s.mo.letClass == 0

def arKey (c stream : Nat) : Nat := c * 4 + stream
def State.arPages (s : State) (c stream : Nat) : List ArPage := mget (fun _ => []) s.ar.pages (arKey c stream)
def State.arRetired (s : State) (c stream : Nat) : Nat := mget (fun _ => 0) s.ar.retired (arKey c stream)

/-- Blocks of a stream's region on every channel. -/
def State.arBlocks (s : State) (stream : Nat) : Nat :=
  s.rd (if stream = 0 then AR_CFG_EV_BLK else if stream = 1 then AR_CFG_CH_BLK else AR_CFG_DR_BLK) 0

/-- The disturbance record that is archived next (R407). -/
def State.arFile (s : State) : Option (Nat × DrRec) :=
  if s.flag DR_CFG_ARCH 0 then
    (List.range 64).findSome? (fun n => match mget (fun _ => none) s.dr.recs n with
      | some r => if r.state = 2 ∧ r.archived = false then some (n, r) else none
      | none => none)
  else none

/-- What a stream has to write: records, or a file. -/
def State.arData (s : State) (stream : Nat) : Nat :=
  if stream = 0 then (if s.arch then min s.ev.unarch s.ev.ring.length else 0)
  else if stream = 1 then s.ch.buf.length
  else b2n s.arFile.isSome

/-- Records of a full page (R400). -/
def arFull (stream : Nat) : Nat := if stream = 0 then 510 else if stream = 1 then 1020 else 1

/-- The channel of a stream's next page: pages alternate between the live channels (R399). -/
def State.arPick (s : State) (stream : Nat) : Option Nat :=
  match s.arLives with
  | [] => none
  | [c] => some c
  | c :: d :: _ => if mget (fun _ => 1) s.ar.lastCh stream = c then some d else some c

/-- Oldest held, as AR_STAT shows it. -/
def State.arShow (s : State) (c : Nat) : State :=
  let old (k : Nat) : Nat := (((s.arPages c k).head?).map (fun p => if k = 2 then p.first / 2 ^ 32 else p.first)).getD 0
  ((s.wr AR_STAT_EV_OLDEST c (old 0)).wr AR_STAT_CH_OLDEST c (old 1)).wr AR_STAT_DR_OLDEST c (old 2)

/-- No channel is left: AR_FAILED (R401); EV and CH act on it. -/
def State.arGone (s : State) : State :=
  if s.arLives.isEmpty && !s.ar.failed then
    let s1 := State.notify { s with ar := { s.ar with failed := true } } 0x33 2 3 0 0 0 0
    if s1.arch then s1.evLastResort 2 (seqPrev s1.ev.archNext) true else s1
  else s

/-- A channel fails (R401): cause 1 blocks, 2 ready-busy. -/
def State.arFail (s : State) (c cause : Nat) : State :=
  ((s.wr AR_STAT_STATE c 2).notify 0x33 1 2 c cause 0 0).arGone

/-- A page takes its data: first sequence, records, epoch, and the state without them. -/
def State.arTake (s : State) (stream bytes : Nat) : (Nat × Nat × Nat) × State :=
  if stream = 0 then
    let un := min s.ev.unarch s.ev.ring.length
    let k := min 510 un
    let first := ((s.ev.ring[s.ev.ring.length - un]?).map (·.seq)).getD 0
    ((first, k, 0), { s with ev := { s.ev with unarch := un - k, archNext := (first + k) % 2 ^ 32, anyArchived := true } })
  else if stream = 1 then
    let k := min 1020 s.ch.buf.length
    let last := (((s.ch.buf.take k).getLast?).map (·.epoch)).getD s.ch.archEpoch
    ((s.ch.archNext, k, s.ch.archEpoch), { s with ch := { s.ch with
      buf := s.ch.buf.drop k, archNext := s.ch.archNext + k, anyArchived := true, archEpoch := last } })
  else match s.arFile with
    | some (n, r) =>
      let k := if bytes = 0 then 16320 else min bytes 16320
      ((r.serial * 2 ^ 32 + r.archOff, k, 0), { s with dr := { s.dr with
        recs := mset (fun _ => none) n (some { r with archOff := r.archOff + k, archived := bytes != 0 }) s.dr.recs } })
    | none => ((0, 0, 0), s)

/-- Program a page of a stream on a channel, after `erased` pages of the oldest block made room (R399, R400). -/
def State.arWrite (s : State) (c stream bytes erased : Nat) : State :=
  let t := s.arTake stream bytes
  let seq := mget (fun _ => 0) s.ar.pageSeq stream
  let page : ArPage := ⟨seq, t.1.1, t.1.2.1, t.1.2.2⟩
  let s1 := t.2
  let at_ := if s1.arData stream = 0 ∨ stream = 2 then 0 else s.elapsed + 1
  State.arShow { s1 with ar := { s1.ar with
    pages := mset (fun _ => []) (arKey c stream) (((s1.arPages c stream).drop erased) ++ [page]) s1.ar.pages
    pageSeq := mset (fun _ => 0) stream (seq + 1) s1.ar.pageSeq
    lastCh := mset (fun _ => 1) stream c s1.ar.lastCh
    pageAt := mset (fun _ => 0) stream at_ s1.ar.pageAt } } c

/-- One page slot of a stream: the program succeeds, or block `block` fails it, is retired, and the page goes to the next
good block; a region without one fails the channel. -/
def State.arSlot (s : State) (stream : Nat) (ok : Bool) (block bytes erased : Nat) : State :=
  match s.arPick stream with
  | none => s
  | some c =>
    let s1 := if ok then s else
      let s1 : State := { s with ar := { s.ar with retired := mmod (fun _ => 0) (arKey c stream) (· + 1) s.ar.retired } }
      (s1.bump AR_STAT_RETIRED c 1).notify 0x33 3 0 c block 0 0
    if s1.arBlocks stream ≤ s1.arRetired c stream then s1.arFail c 1 else s1.arWrite c stream bytes erased

/-- A stream's page is full, or due after a power-fail warning. -/
def State.arDue (s : State) (stream : Nat) : Bool :=
  decide (arFull stream ≤ s.arData stream) || (s.ar.flush && stream != 2 && s.arData stream != 0)

/-- ARCHIVE_PAGE_PROGRAM (R399, R402): events first, then changes, then disturbance files; `bytes` is the payload of a
page that ends a file, 0 otherwise. -/
def execArchivePageProgram (ok : Bool) (block bytes erased : Nat) (s : State) : Res :=
  if s.arOn then
    match [0, 1, 2].find? s.arDue with
    | some stream => .next (s.arSlot stream ok block bytes erased)
    | none => .next s
  else .next s

/-- PARTIAL_PAGE_EXPIRY (R399): 100 ms after the page's first record. -/
def execPartialPageExpiry (stream : Nat) (ok : Bool) (block erased : Nat) (s : State) : Res :=
  let t := mget (fun _ => 0) s.ar.pageAt stream
  if s.arOn && decide (stream < 2) && t != 0 && decide (t - 1 + 80000000 ≤ s.elapsed) && s.arData stream != 0
      && decide (s.arData stream < arFull stream) then
    .next (s.arSlot stream ok block 0 erased)
  else .next s

/-- Write every page of a stream, the partial one too. -/
def State.arAll (s : State) (stream : Nat) : Nat → State
  | 0 => s
  | n + 1 => if s.arData stream = 0 then s else (s.arSlot stream true 0 0 0).arAll stream n

/-- Partial pages go out at the Let trigger and before t4 of SENTINEL entry (R399). -/
def State.arPartial (s : State) : State :=
  if s.arOn then
    let s1 := s.arAll 0 (s.arData 0 / 510 + 1)
    s1.arAll 1 (s1.arData 1 / 1020 + 1)
  else s

/-- READY_BUSY_TIMEOUT (R401). -/
def execReadyBusyTimeout (chan : Nat) (s : State) : Res :=
  if s.evOn && s.arLive chan then .next (s.arFail chan 2) else .next s

/-- AR_RETEST (R401): a read and write test of a failed channel. -/
def execArRetest (chan : Nat) (ok : Bool) (s : State) : Res :=
  let s0 : State := { s with ar := { s.ar with retest := mset (fun _ => false) chan false s.ar.retest } }
  if s.evOn && decide (chan < s.byVar 2 1 1) && s.rd AR_STAT_STATE chan == 2 && ok then
    .next (State.wr { s0 with ar := { s0.ar with failed := false } } AR_STAT_STATE chan 1)
  else .next s0

/-- Channels come up or go down with AR_CFG.CH_EN; a failed one stays failed. -/
def State.arEnable (s : State) : State :=
  (List.range (s.byVar 2 1 1)).foldl (fun s c =>
    if s.rd AR_STAT_STATE c = 2 then s else s.wr AR_STAT_STATE c (b2n (natBit (s.rd AR_CFG_CH_EN 0) c))) s

/-- Write to AR_CFG: channels, and retests asked for. -/
def State.arCommit (s : State) (retest : Nat) : State :=
  let s1 := if s.evOn then s.arEnable else s
  (List.range (s.byVar 2 1 1)).foldl (fun s c =>
    if natBit retest c then { s with ar := { s.ar with retest := mset (fun _ => false) c true s.ar.retest } } else s) s1

/-! Checks of the settings of EV, CH and AR (R398, R410). -/

def recAbsent (s : State) (r : WReq) : Bool :=
  r.unit == 0x33 && s.var != .cpx9640 && (natBit (r.new s AR_CFG_CH_EN) 1 || (r.touches AR_CFG_RETEST && natBit (r.new s AR_CFG_RETEST) 1))

def chBad (p : State) : Bool := !(decide (64 ≤ p.rd CH_CFG_BUF_MIB 0) && decide (p.rd CH_CFG_BUF_MIB 0 ≤ 8192))

end Sys2Proof.Machine
end

