-- ==== Sys2Proof/Machine/Field.lean ====
section
/-! DEFINITION. Field inputs and outputs (15_field_io.md): the samples of the inputs, what drives each output, overload and
diagnostics, dark pulses, the field watchdog, heartbeat loss and the field supply; FORCE_SET and FORCE_CLEAR. -/

namespace Sys2Proof.Machine

open Sys2Proof

def State.din (s : State) (n : Nat) : DiSt := mget (fun _ => DiSt.init0) s.fd.di n

def State.setDin (s : State) (n : Nat) (x : DiSt) : State :=
  { s with fd := { s.fd with di := mset (fun _ => DiSt.init0) n x s.fd.di } }

def State.dout (s : State) (n : Nat) : DoSt := mget (fun _ => DoSt.init) s.fd.dos n

def State.setDout (s : State) (n : Nat) (x : DoSt) : State :=
  { s with fd := { s.fd with dos := mset (fun _ => DoSt.init) n x s.fd.dos } }

/-- The field die is powered and out of reset (Table 15.8). -/
def State.fieldOn (s : State) : Bool := s.mo.rails && s.mo.resetN && s.mo.mode != .keeper

/-- Index of the 10 µs boundary at or before now, plus one: of the core die's time, or of the field die's own clock while
that is stopped (R413, Table 15.8). -/
def State.fieldIdx (s : State) : Nat := if s.tu.running then 2 * (s.tai / 10000) + 1 else 2 * (s.elapsed / 8000) + 2

/-- The stamp of a sample: the boundary; in SENTINEL the real-time counter. -/
def State.fieldStamp (s : State) : Stamp :=
  if s.tu.running then Stamp.ofTai (s.tai / 10000 * 10000) else ⟨s.kp.rtcSec, s.kp.rtcTick * 1000000000 / 32768⟩

/-- A notification of FD, at most once per second per channel and code, with a count in PAR2 (R436).  The limit holds back the
message alone: the occurrence is still handed to the event recorder and raised as an error (R374). -/
def State.fdNotify (s : State) (code ch cls p0 p1 : Nat) : State :=
  let k := code * 64 + ch
  let x := mget (fun _ => (0, 0)) s.fd.ntf k
  let put (v : Nat × Nat) : State := { s with fd := { s.fd with ntf := mset (fun _ => (0, 0)) k v s.fd.ntf } }
  if x.1 != 0 && decide (s.elapsed + 1 < x.1 + 800000000) then
    let s1 := (put (x.1, x.2 + 1)).handOff 0x38 ⟨0x3800 + code, 0, s.now, p0 % 2 ^ 32, p1 % 2 ^ 32, x.2 + 1, decide (3 ≤ cls)⟩
    if cls = 0 then s1 else s1.arrive (0x3800 + code) cls
  else (put (s.elapsed + 1, 0)).notify 0x38 code cls p0 p1 (x.2 + 1) 0

/-! Digital inputs (R413 to R420). -/

/-- Supply states 0b10 and 0b11 make every input invalid (R432). -/
def State.inputsOff (s : State) : Bool := decide (2 ≤ s.rd FD_STAT_FLD 0)

/-- Switching limits of Table 15.1 in mV: lowest and highest falling, lowest and highest rising. -/
def diLimits (type3 : Bool) : Nat × Nat × Nat × Nat :=
  if type3 then (7500, 8500, 9000, 10000) else (10500, 11500, 12500, 13500)

/-- Class of a sample by voltage: inside the tolerance of the switching point it is a free value. -/
def State.voltClass (s : State) (n mv : Nat) : Nat × State :=
  let l := diLimits (s.flag FD_DI_TYPE n)
  if l.2.2.2 ≤ mv then (1, s)
  else if mv ≤ l.1 then (0, s)
  else if s.flag FD_DI_RAW n then
    (if l.2.1 ≤ mv then (1, s) else (s.freeWord.toNat % 2, s.drawn))
  else if mv ≤ l.2.2.1 then (0, s) else (s.freeWord.toNat % 2, s.drawn)

/-- Class of a sample by current (Table 15.2, scaled by FLD_24V): 0 open, 1 closed, 2 open wire, 3 band fault. -/
def currClass (mv ua : Nat) : Nat :=
  let x := ua * 24000
  if x < 350 * mv then 2 else if x < 900 * mv then 3 else if x ≤ 1400 * mv then 0 else if x ≤ 2000 * mv then 3 else 1

/-- DI_DIAG (Table 15.9). -/
def State.diDiag (s : State) (n : Nat) : State := s.fdNotify 3 n 1 n (s.word 0x38 0x10 n 2).toNat

/-- Set a flag of an input, reported when it sets. -/
def State.diFlag (s : State) (f : Field) (n : Nat) : State := if s.flag f n then s else (s.wr f n 1).diDiag n

/-- The chatter window in elapsed units. -/
def State.chatWin (s : State) (n : Nat) : Nat := s.rd FD_DI_CHAT_W n * 8000000

/-- An edge of an input, as the core die sees it, that DR triggers may name; a forced input shows none of its own (R421). -/
def State.diEdge (s : State) (n : Nat) (v : Bool) (t : Nat) : State :=
  if (s.diForce n).isSome then s else s.drFire 4 n (if v then 1 else 2) t

/-- Show the filtered value: a change is stamped (R413). -/
def State.diShow (s : State) (n : Nat) (v : Bool) : State :=
  if s.flag FD_DI_VAL n == v then s
  else
    let t := s.fieldStamp
    let s1 := (((s.setFlag FD_DI_VAL n v).wr FD_DI_LAST_NS n t.ns).wr FD_DI_LAST_SEC n t.sec).diEdge n v t.tai
    if v then s1.setDin n { s1.din n with hi := s.elapsed } else s1.wr FD_DI_STUCK n 0

/-- Show it unless OW or BAND holds the value (R416, R420). -/
def State.diLet (s : State) (n : Nat) (v : Bool) : State :=
  if s.flag FD_DI_OW n || s.flag FD_DI_BAND n then s else s.diShow n v

/-- Chatter supervision after a sample (R418); `moved` tells whether the filtered value changed, and from what. -/
def State.diChatter (s : State) (n : Nat) (moved : Bool) (before : Bool) : State :=
  let x := s.din n
  let w := s.chatWin n
  let k := s.rd FD_DI_CHAT_K n
  let trs := ((if moved then [(s.elapsed, before)] else []) ++ x.trs).filter (fun e => decide (s.elapsed < e.1 + w))
  if k = 0 then ((s.setDin n { x with trs := [] }).wr FD_DI_CHAT n 0).diLet n x.flt
  else if s.flag FD_DI_CHAT n then
    if trs.isEmpty then ((s.setDin n { x with trs := [] }).wr FD_DI_CHAT n 0).diLet n x.flt
    else s.setDin n { x with trs := trs }
  else if k < trs.length then
    let old := (trs.getLast?.map (·.2)).getD x.flt
    ((s.setDin n { x with trs := trs, frozen := old }).diShow n old).diFlag FD_DI_CHAT n
  else (s.setDin n { x with trs := trs }).diLet n x.flt

/-- One sample into the counter filter (R417). -/
def State.diFilter (s : State) (n c : Nat) : State :=
  let x := s.din n
  let top := s.rd FD_DI_FILT_N n
  let cnt := if !x.init then top * c else if c = 1 then min (s.rd FD_DI_CNT n + 1) top else s.rd FD_DI_CNT n - 1
  let v := if cnt = 0 then false else if cnt = top then true else x.flt
  let moved := v != x.flt
  let s1 := (s.setDin n { x with init := true, flt := v }).wr FD_DI_CNT n cnt
  let s2 := if moved then s1.wrapInc FD_DI_TRANS n 1 else s1
  s2.diChatter n moved x.flt

/-- The valid bit (R420). -/
def State.diJudge (s : State) (n : Nat) : State :=
  s.setFlag FD_DI_VALID n ((s.din n).init && !s.inputsOff && !s.flag FD_DI_OW n && !s.flag FD_DI_BAND n
    && !(s.flag FD_DI_CHAT n && s.flag FD_DI_CHAT_INV n))

/-- A sample that is no value (R416). -/
def State.diFault (s : State) (n c : Nat) : State :=
  let x := s.din n
  let ow := if c = 2 then x.ow + 1 else 0
  let s1 := s.setDin n { x with ow := min ow 20, bad := min (x.bad + 1) 20 }
  let s2 := if 20 ≤ ow then s1.diFlag FD_DI_OW n else if 20 ≤ x.bad + 1 then s1.diFlag FD_DI_BAND n else s1
  s2.diChatter n false false

/-- One input at a sample: ball voltage in mV, input current in µA. -/
def State.diSample (s : State) (n : Nat) (m : Nat × Nat) : State :=
  let cs := if s.flag FD_DI_WB_EN n then (currClass (s.rd FD_STAT_FLD_MV 0) m.2, s) else s.voltClass n m.1
  let s1 := (cs.2.setFlag FD_DI_RAW n (cs.1 == 1)).wr FD_DI_I_UA n (min 4095 m.2)
  let s2 := if s1.inputsOff then s1
    else if cs.1 < 2 then
      (((s1.wr FD_DI_OW n 0).wr FD_DI_BAND n 0).setDin n { s1.din n with ow := 0, bad := 0 }).diFilter n cs.1
    else s1.diFault n cs.1
  s2.diJudge n

/-- What DI_SAMPLE does in the field die (R413): every input, once per 10 µs. -/
def fieldSample (inputs : List (Nat × Nat)) (s : State) : Res :=
  if !s.fieldOn || s.fd.diAt == s.fieldIdx then .next s
  else
    let s1 : State := { s with fd := { s.fd with diAt := s.fieldIdx } }
    .next ((List.range 48).foldl (fun s n => s.diSample n (inputs.getD n (0, 0))) s1)

/-- DI_STUCK_EXPIRY (R419). -/
def execDiStuckExpiry (input : Nat) (s : State) : Res :=
  let t := s.rd FD_DI_STUCK_T input
  if s.fieldOn && decide (input < 48) && t != 0 && s.flag FD_DI_VAL input
      && decide ((s.din input).hi + t * 800000000 ≤ s.elapsed) then .next (s.diFlag FD_DI_STUCK input) else .next s

/-- The filter of an input starts (R417). -/
def State.diRestart (s : State) (n : Nat) : State :=
  (s.setDin n { s.din n with init := false, ow := 0, bad := 0 }).diJudge n

/-! What drives an output (R423). -/

/-- Safe state of an output. -/
def State.doSafe (s : State) (n : Nat) : Bool :=
  match s.rd FD_DO_SAFE n with
  | 1 => true
  | 2 => (s.dout n).ball
  | _ => false

/-- A safety pulse source (R428). -/
def State.pulseSrc (s : State) (n : Nat) : Bool := decide (n < 24) && s.rd FD_DO_MODE n == 1

/-- Rows 6 to 10 of Table 15.4. -/
def State.doCmd (s : State) (n : Nat) : Nat × Bool :=
  let x := s.dout n
  if n < 24 then
    if s.flag FD_STAT_WD_EXP 0 && s.flag FD_CTL_WD_EN 0 then (6, !s.pulseSrc n && s.doSafe n)
    else if s.flag FD_STAT_HOLD 0 then (7, !s.pulseSrc n && x.held)
    else if s.elapsed < x.darkUntil then (8, false)
    else if s.pulseSrc n then (9, mget (fun _ => false) s.fd.sfPulse n)
    else (9, s.flag UM_OWN_VALUE n)
  else if x.snt || decide (s.elapsed < x.sntUntil) then (7, true)
  else if s.tripDrives (n - 24) then (8, true)
  else if s.flag FD_STAT_HB_LOST 0 then (9, s.doSafe n)
  else (10, false)

/-- The ruling row of Table 15.4 and its command. -/
def State.doRow (s : State) (n : Nat) : Nat × Bool :=
  let x := s.dout n
  if x.cut then (1, false)
  else if s.flag FD_DO_OL_T n then (2, false)
  else if s.flag FD_DO_RF n || decide (s.elapsed < x.rfEnd) then (3, false)
  else if decide (n < 24) && mget (fun _ => false) s.fd.sfOff n then (4, false)
  else if x.latched || x.wait then (5, false)
  else s.doCmd n

/-- Release an overload of an output. -/
def State.olRelease (s : State) (n : Nat) : State :=
  let x := s.dout n
  if x.latched || x.wait then
    (s.setDout n { x with latched := false, wait := false, retries := 0, limAt := none }).wr FD_DO_OL n (s.rd FD_DO_OL_T n)
  else s

/-- Rising trip commands release a latched overload; a retry that waits ends with its command (R424). -/
def State.olEdges (s : State) (n : Nat) : State :=
  if n < 24 then (if (s.dout n).wait && !(s.doCmd n).2 then s.olRelease n else s)
  else
    let now := s.tripDrives (n - 24)
    let rise := now && !(s.dout n).flp
    let s1 := s.setDout n { s.dout n with flp := now }
    if rise || ((s.dout n).wait && !(s.doCmd n).2) then s1.olRelease n else s1

/-- Set the driver of one output to its ruling row. -/
def State.doDrive (s : State) (n : Nat) : State :=
  let s0 := s.olEdges n
  let r := s0.doRow n
  let was := s0.flag FD_DO_ON n
  let s1 := (((s0.setFlag FD_DO_CMD n r.2).setFlag FD_DO_ON n r.2).wr FD_DO_ROW n r.1).setFlag FD_DO_FORCED n
    (decide (n < 24) && s0.rd UM_OWN_OWNER n == 0x73)
  let x := s1.dout n
  if r.2 && !was then s1.setDout n { x with onAt := s.elapsed, limAt := none, owAt := none }
  else if was && !r.2 then s1.setDout n { x with offAt := s.elapsed, limAt := none, owAt := none, scsAt := none }
  else s1

/-- DO_DIAG (Table 15.9): class B for OL and RF. -/
def State.doDiag (s : State) (n cls : Nat) : State := s.fdNotify 2 n cls n (s.word 0x38 0x20 n 1).toNat

/-- Set the SEEN bit of a condition. -/
def State.doSeen (s : State) (n bit : Nat) : State := s.wr FD_DO_SEEN n (natSetBit (s.rd FD_DO_SEEN n) bit true)

/-- A condition of Table 15.5 arises. -/
def State.doFlag (s : State) (f : Field) (n bit cls : Nat) : State :=
  if s.flag f n then s else ((s.wr f n 1).doSeen n bit).doDiag n cls

/-- The supply cut-off of outputs whose slot has come: output k at 5 µs × k (R433). -/
def State.cutSlots (s : State) : Nat → State
  | 0 => s
  | fuel + 1 =>
    match s.fd.cut with
    | none => s
    | some (t, mv, k, m) =>
      if k = 32 then
        State.stateRec { s with fd := { s.fd with cut := none } } 0x38 0x02 0 m mv 0 true
      else if s.elapsed < t + 4000 * k then s
      else
        let on := s.flag FD_DO_ON k
        let s1 := s.setDout k { s.dout k with cut := true }
        let s2 := if on then s1.doFlag FD_DO_UV_OFF k 0 1 else s1
        let s3 : State := { s2 with fd := { s2.fd with cut := some (t, mv, k + 1, m + b2n on * 2 ^ k) } }
        s3.cutSlots fuel

/-- Every output takes its ruling row. -/
def State.fdDrive (s : State) : State := (List.range 32).foldl State.doDrive (s.cutSlots 34)

/-! The measurements of an output (Table 15.5). -/

/-- Time since which a condition holds. -/
def since (c : Bool) (t : Option Nat) (now : Nat) : Option Nat := if c then some (t.getD now) else none

/-- A condition has held for some units. -/
def held (t : Option Nat) (units now : Nat) : Bool :=
  match t with
  | some x => decide (x + units ≤ now)
  | none => false

/-- One output's ball voltage in mV, load current in mA and current limit. -/
def State.doMeasure (s : State) (n : Nat) (m : Nat × Nat × Bool) : State :=
  let e := s.elapsed
  let on := s.flag FD_DO_ON n
  let x := s.dout n
  let y : DoSt := { x with
    limAt := since (on && m.2.2) x.limAt e
    retries := if on && !m.2.2 then 0 else x.retries
    owAt := since (on && s.flag FD_DO_OW_ON_EN n && decide (m.2.1 < 3)) x.owAt e
    scsAt := since (!on && decide (12000 < m.1)) x.scsAt e
    rfAt := since (decide (s.rd FD_STAT_FLD_MV 0 + 500 < m.1)) x.rfAt e
    rfEnd := if s.flag FD_DO_RF n && decide (m.1 ≤ s.rd FD_STAT_FLD_MV 0 + 500) then e + 800000 else x.rfEnd }
  let s1 := ((s.setDout n y).setFlag FD_DO_BALL n (decide (12000 < m.1))).wr FD_DO_I_MA n (min 4095 m.2.1)
  let s2 := if held y.owAt 16000000 e then s1.doFlag FD_DO_OW_ON n 6 1 else if y.owAt.isNone then s1.wr FD_DO_OW_ON n 0 else s1
  let s3 := if held y.scsAt 800000 e then s2.doFlag FD_DO_SCS n 4 1 else s2
  if held y.rfAt 80000 e then s3.doFlag FD_DO_RF n 3 2 else if y.rfAt.isNone then s3.wr FD_DO_RF n 0 else s3

/-- The junction temperature: above 135 °C every channel reports OVT, below 125 °C it clears. -/
def State.doTemp (s : State) (temp : Int) : State :=
  let s1 := s.wr FD_STAT_TEMP 0 (toSigned 8 (max (-128) (min 127 temp)))
  if 135 < temp then (List.range 32).foldl (fun s n => s.doFlag FD_DO_OVT n 2 1) s1
  else if temp < 125 then (List.range 32).foldl (fun s n => s.wr FD_DO_OVT n 0) s1
  else s1

/-- What DO_STEP does (R423, R425): measurements, then every output takes its ruling row, once per 10 µs. -/
def fieldStep (outs : List (Nat × Nat × Bool)) (fldMv : Nat) (temp : Int) (s : State) : Res :=
  if !s.fieldOn || s.fd.doAt == s.fieldIdx then .next s
  else
    let s1 := State.wr { s with fd := { s.fd with doAt := s.fieldIdx } } FD_STAT_FLD_MV 0 (min 65535 fldMv)
    let s2 := (List.range 32).foldl (fun s n => s.doMeasure n (outs.getD n (0, 0, false))) s1
    .next (s2.doTemp temp).fdDrive

/-! Overload (R424). -/

/-- A channel switches off for current limit: it latches, or waits for its retry. -/
def State.overload (s : State) (n : Nat) : State :=
  let x := s.dout n
  let latch := !s.flag FD_DO_OL_RETRY n || decide (3 ≤ x.retries)
  let s1 := (s.setDout n { x with latched := latch, wait := !latch, limAt := none }).bump FD_DO_OL_COUNT n 1
  (s1.doFlag FD_DO_OL n 7 2).fdDrive

/-- What OVERLOAD_SWITCH_OFF does (R424): more than 100 µs in current limit; on a trip-class output more than 1 ms after the first
200 ms. -/
def fieldOverload (out : Nat) (s : State) : Res :=
  let x := s.dout out
  match x.limAt with
  | none => .next s
  | some t =>
    let due := if out < 24 then t + 80000 else max t (x.onAt + 160000000) + 800000
    if s.fieldOn && decide (out < 32) && s.flag FD_DO_ON out && decide (due < s.elapsed) then .next (s.overload out) else .next s

/-- OVERLOAD_RETRY (R424): 100 ms after the switch-off, while still commanded on. -/
def execOverloadRetry (out : Nat) (s : State) : Res :=
  let x := s.dout out
  if s.fieldOn && decide (out < 32) && x.wait && decide (x.offAt + 80000000 ≤ s.elapsed) && (s.doCmd out).2 then
    .next ((s.setDout out { x with wait := false, retries := x.retries + 1 }).wr FD_DO_OL out (s.rd FD_DO_OL_T out)).fdDrive
  else .next s

/-- What THERMAL_SHUTDOWN does (R424): a channel's junction temperature above 150 °C, or back below 135 °C. -/
def fieldThermal (out : Nat) (temp : Int) (s : State) : Res :=
  if !s.fieldOn || decide (32 ≤ out) then .next s
  else if 150 < temp ∧ s.flag FD_DO_OL_T out = false then
    let s1 := (s.wr FD_DO_OL_T out 1).bump FD_DO_OL_COUNT out 1
    let s2 := if s1.flag FD_DO_OL out then s1.doDiag out 2 else s1.doFlag FD_DO_OL out 7 2
    .next s2.fdDrive
  else if temp < 135 ∧ s.flag FD_DO_OL_T out = true then
    .next ((s.wr FD_DO_OL_T out 0).wr FD_DO_OL out (b2n ((s.dout out).latched || (s.dout out).wait))).fdDrive
  else .next s

/-- CLR_OL (R424). -/
def State.clrOl (s : State) (mask : Nat) : State :=
  (((List.range 32).filter (fun n => natBit mask n && (s.dout n).latched)).foldl State.olRelease s).fdDrive

def execClrOl (mask : W32) (s : State) : Res := if s.fieldOn then .next (s.clrOl mask.toNat) else .next s

/-! Off-state check and dark pulses (R426, R427). -/

/-- What OFF_STATE_CHECK does (R426): the ball above 12 V without and with the test current. -/
def fieldOffState (out : Nat) (ball ballTest : Bool) (s : State) : Res :=
  let x := s.dout out
  if s.fieldOn && decide (out < 32) && !s.flag FD_DO_ON out && decide (x.offAt + 800000 ≤ s.elapsed)
      && (x.checkAt == 0 || decide (x.checkAt + 8000000 ≤ s.elapsed + 1)) then
    let s1 := s.setDout out { x with checkAt := s.elapsed + 1 }
    if ball then .next (s1.doFlag FD_DO_SCS out 4 1)
    else
      let s2 := s1.wr FD_DO_SCS out 0
      if !s.flag FD_DO_OW_OFF_EN out then .next s2
      else if ballTest then .next (s2.doFlag FD_DO_OW_OFF out 5 1) else .next (s2.wr FD_DO_OW_OFF out 0)
  else .next s

/-- Outputs whose drivers are on. -/
def State.onMask (s : State) : Nat := s.tchWord (fun n => s.flag FD_DO_ON n)

/-- A dark test pulse (R427): once per second, 1 ms clear of the pulse before; skipped while a higher row rules.  Tells
whether the pulse failed. -/
def State.darkPulse (s : State) (out : Nat) (fell : Bool) : State × Bool :=
  let x := s.dout out
  let sec := s.tu.sec + 1
  if s.fieldOn && s.tu.running && decide (out < 24) && s.flag FD_DO_TP_EN out && (s.doCmd out).2 && x.darkSec != sec
      && (s.fd.darkAt == 0 || decide (s.fd.darkAt + 800000 ≤ s.elapsed + 1)) then
    let s1 := s.setDout out { x with darkSec := sec }
    if (s.doRow out).1 != 9 then (s1, false)
    else
      let s2 : State := s1.setDout out { x with darkSec := sec, darkUntil := s.elapsed + s.rd FD_DO_TP_W out * 8000 }
      let s3 := State.fdDrive { s2 with fd := { s2.fd with darkAt := s.elapsed + 1 } }
      let s4 := if fell then s3.wr FD_DO_XFEED out 0
        else (((s3.wr FD_DO_XFEED out 1).doSeen out 1).bump FD_DO_TP_FAIL out 1).fdNotify 5 out 2 out s3.onMask
      (s4, !fell)
  else (s, false)

/-! Watchdog and heartbeat (R429, R430). -/

/-- Outputs of a range as a word. -/
def outsWhere (lo n : Nat) (p : Nat → Bool) : Nat := (List.range n).foldl (fun a k => a + b2n (p (lo + k)) * 2 ^ (lo + k)) 0

/-- FIELD_WATCHDOG_REFRESH (R429): the Umpire's output stage, every 500 µs.  Once the device has woken, it ends sentinel hold
(R43). -/
def execFieldWatchdogRefresh (s : State) : Res :=
  let k := s.tai / 500000 + 1
  if !s.fieldOn || !s.umOn || s.fd.wdIdx == k || (s.mo.mode == .sentinel && s.flag FD_STAT_HOLD 0) then .next s
  else
    let onTime := s.fd.wdArmed && decide (s.elapsed ≤ s.fd.wdAt + s.rd FD_CTL_WD_TIME 0 * 800000)
    let run := if onTime then min 3 (s.fd.wdRun + 1) else 0
    let s1 : State := { s with fd := { s.fd with wdArmed := true, wdAt := s.elapsed, wdRun := run, wdIdx := k } }
    let s2 := s1.wr FD_STAT_HOLD 0 0
    .next (if 3 ≤ run then s2.wr FD_STAT_WD_EXP 0 0 else s2).fdDrive

/-- FIELD_WATCHDOG_EXPIRY (R429). -/
def execFieldWatchdogExpiry (s : State) : Res :=
  if s.fieldOn && s.fd.wdArmed && s.flag FD_CTL_WD_EN 0 && !s.flag FD_STAT_HOLD 0 && !s.flag FD_STAT_WD_EXP 0
      && decide (s.fd.wdAt + s.rd FD_CTL_WD_TIME 0 * 800000 ≤ s.elapsed) then
    let s1 := (List.range 24).foldl (fun s n => s.setDout n { s.dout n with ball := s.flag FD_DO_BALL n }) s
    let s2 := ((s1.wr FD_STAT_WD_EXP 0 1).bump FD_STAT_WD_COUNT 0 1).fdDrive
    let s3 : State := { s2 with fd := { s2.fd with wdRun := 0 } }
    .next ((s3.stateRec 0x38 0x01 0 (outsWhere 0 24 (fun n => s3.rd FD_DO_ROW n == 6)) 0 0 true).fdNotify 4 0 3
      (s3.rd FD_CTL_WD_TIME 0) 0)
  else .next s

/-- A heartbeat on DD_FLP, once per protection pass (Table 1.2); after a SENTINEL entry was cancelled or the device woke, it ends
the suspension of the check (R43). -/
def State.flpHeartbeat (s : State) : State :=
  { s with fd := { s.fd with hbAt := s.elapsed + 1, hbHold := s.fd.hbHold && (match s.mo.sent with
      | .entering _ => true
      | _ => false) } }

/-- HEARTBEAT_LOSS (R14, R430). -/
def execHeartbeatLoss (s : State) : Res :=
  if s.fieldOn && s.fd.hbAt != 0 && !s.flag FD_STAT_HB_LOST 0 && !s.fd.hbHold
      && decide (s.fd.hbAt + 200000 ≤ s.elapsed + 1) then
    let s1 := (List.range 8).foldl (fun s k => s.setDout (24 + k) { s.dout (24 + k) with ball := s.flag FD_DO_BALL (24 + k) }) s
    let s2 := (s1.wr FD_STAT_HB_LOST 0 1).fdDrive
    .next (s2.stateRec 0x38 0x01 1 (outsWhere 24 8 (fun n => s2.rd FD_DO_ROW n == 9)) 0 0 true)
  else .next s

/-- Sentinel hold begins (R43): the last state, beneath a dark test pulse. -/
def State.fieldHold (s : State) : State :=
  let s1 := (List.range 24).foldl (fun s n => s.setDout n { s.dout n with
    held := s.flag FD_DO_ON n || (s.rd FD_DO_ROW n == 8 && s.flag UM_OWN_VALUE n) }) s
  State.wr { s1 with fd := { s1.fd with hbAt := 0, hbHold := true, wdRun := 0 } } FD_STAT_HOLD 0 1

/-! The field supply (R431 to R434). -/

/-- Entry threshold of a state, and exit threshold upwards, in mV. -/
def fldEntry (k : Nat) : Nat := if k = 1 then 19200 else if k = 2 then 18000 else 15000
def fldExit (k : Nat) : Nat := if k = 1 then 19600 else if k = 2 then 18400 else 15400

/-- Enter a supply state. -/
def State.fldEnter (s : State) (k mv : Nat) : State :=
  let up := decide (k < s.rd FD_STAT_FLD 0)
  let wasOff := s.inputsOff
  let s1 := s.wr FD_STAT_FLD 0 k
  let s2 := if k = 0 then { s1 with fd := { s1.fd with goodAt := some s.elapsed } }
    else { s1 with fd := { s1.fd with goodAt := none } }
  let s3 := if up && wasOff && decide (k < 2) then (List.range 48).foldl State.diRestart s2
    else if s2.inputsOff then (List.range 48).foldl State.diJudge s2 else s2
  let s4 := if k = 3 ∧ s3.fd.cut.isNone then { s3 with fd := { s3.fd with cut := some (s.elapsed, mv, 0, 0) } } else s3
  s4.fdNotify 1 0 (if k = 0 then 0 else if k = 1 then 1 else 2) k mv

/-- Pass through the states one by one, downwards or upwards. -/
def State.fldMove (s : State) (mv : Nat) : Nat → State
  | 0 => s
  | fuel + 1 =>
    let k := s.rd FD_STAT_FLD 0
    if k < 3 ∧ mv < fldEntry (k + 1) then (s.fldEnter (k + 1) mv).fldMove mv fuel
    else if 0 < k ∧ fldExit k < mv then (s.fldEnter (k - 1) mv).fldMove mv fuel
    else s

/-- What FLD_SUPPLY_CROSSING does (R431): FLD_24V as the monitor measures it. -/
def fieldCrossing (mv : Nat) (s : State) : Res :=
  if s.fieldOn then .next ((s.wr FD_STAT_FLD_MV 0 (min 65535 mv)).fldMove mv 4).fdDrive else .next s

/-- Let outputs go that the supply held off. -/
def State.uvRelease (s : State) (l : List Nat) : State :=
  l.foldl (fun s n => (s.setDout n { s.dout n with cut := false }).wr FD_DO_UV_OFF n 0) s

/-- SUPPLY_GOOD_EXPIRY (R434). -/
def execSupplyGoodExpiry (s : State) : Res :=
  match s.fd.goodAt with
  | none => .next s
  | some t =>
    if s.fieldOn && s.rd FD_STAT_FLD 0 == 0 && decide (t + 40000000 ≤ s.elapsed) && s.fd.cut.isNone then
      let off := (List.range 32).filter (fun n => (s.dout n).cut)
      let back := off.filter (fun n => !s.flag FD_DO_LATCH_UV n)
      let s1 := State.uvRelease { s with fd := { s.fd with goodAt := none } } back
      let w (l : List Nat) : Nat := s.tchWord (fun n => l.contains n)
      let s2 := if off.isEmpty then s1
        else s1.stateRec 0x38 0x03 0 (w back) (w (off.filter (fun n => s.flag FD_DO_LATCH_UV n))) 0 true
      .next s2.fdDrive
    else .next s

/-- CLR_UV (R434): latched outputs of a mask, while the supply is good. -/
def State.clrUv (s : State) (mask : Nat) : State :=
  if s.rd FD_STAT_FLD 0 = 0 then
    (s.uvRelease ((List.range 32).filter (fun n => natBit mask n && (s.dout n).cut
      && (s.flag FD_DO_LATCH_UV n || s.fd.goodAt.isNone)))).fdDrive
  else s

def execClrUv (mask : W32) (s : State) : Res := if s.fieldOn then .next (s.clrUv mask.toNat) else .next s

/-! Direct trips on DD_SNT (R45). -/

/-- Line k switches: DO_(24+k) is on while the line is active and for at least 200 ms. -/
def State.sntLine (s : State) (k : Nat) (on : Bool) : State :=
  let x := s.dout (24 + k)
  let s1 := s.setDout (24 + k) { x with snt := on, sntUntil := if on && !x.snt then s.elapsed + 160000000 else x.sntUntil }
  (if on && !x.snt then s1.olRelease (24 + k) else s1).fdDrive

/-- DIRECT_TRIP_HOLD_EXPIRY (R45). -/
def execDirectTripHoldExpiry (line : Nat) (s : State) : Res :=
  if s.fieldOn && decide (line < 8) && decide ((s.dout (24 + line)).sntUntil ≤ s.elapsed) then .next s.fdDrive else .next s

/-! Checks and effects of FD settings (R428, Table 15.11). -/

def fdAbsent (s : State) (r : WReq) : Bool := r.grp == 0x20 && r.new s FD_DO_MODE == 1 && s.var == .cpx9616

def fdBad (p : State) (grp n : Nat) : Bool :=
  if grp = 0 then p.rd FD_CTL_WD_TIME 0 == 0 || decide (250 < p.rd FD_CTL_WD_TIME 0)
  else if grp = 0x10 then
    p.rd FD_DI_FILT_N n == 0 || (p.rd FD_DI_CHAT_K n != 0 && p.rd FD_DI_CHAT_W n == 0)
  else if grp = 0x20 then
    p.rd FD_DO_SAFE n == 3 || decide (2 ≤ p.rd FD_DO_MODE n) || decide (p.rd FD_DO_TP_W n < 10) || decide (40 < p.rd FD_DO_TP_W n)
      || (decide (24 ≤ n) && (p.flag FD_DO_TP_EN n || p.rd FD_DO_MODE n == 1))
  else false

def fdModeForbids (s : State) (r : WReq) : Bool := r.grp == 0x20 && r.changes s FD_DO_MODE && s.cmdMode == .run

/-- Effects of new FD settings. -/
def State.fdCommit (s old : State) (grp n : Nat) : State :=
  if grp = 0x10 then
    if s.rd FD_DI_FILT_N n != old.rd FD_DI_FILT_N n || s.rd FD_DI_TYPE n != old.rd FD_DI_TYPE n
        || s.rd FD_DI_WB_EN n != old.rd FD_DI_WB_EN n then s.diRestart n else s
  else s.fdDrive

/-! FORCE_SET and FORCE_CLEAR (R340, R421, R428). -/

/-- What the object of a force is: an input, an output, a point. -/
inductive ForceObj where
  | di (n : Nat)
  | dout (n : Nat)
  | point
  | bad
  deriving DecidableEq, Repr

def forceObj (s : State) (o : Nat) : ForceObj :=
  if o = pdObj then .point
  else if objUnit o = 0x38 ∧ objGrp o = 0x10 ∧ objInst o < 48 then .di (objInst o)
  else if objUnit o = 0x38 ∧ objGrp o = 0x20 ∧ objInst o < 24 ∧ s.rd FD_DO_MODE (objInst o) = 0 then .dout (objInst o)
  else .bad

/-- Set or clear the force of an input; the step of its value is an edge at that instant (R421). -/
def State.setForceDi (s : State) (n : Nat) (b : Option Bool) : State :=
  let s1 := State.setFlag { s with fd := { s.fd with forceDi := mset (fun _ => none) n b s.fd.forceDi } } FD_DI_FORCED n b.isSome
  if s1.diVal n == s.diVal n then s1 else s1.drFire 4 n (if s1.diVal n then 1 else 2) s.tai

def State.setForceDo (s : State) (n : Nat) (b : Option Bool) : State :=
  { s with um := { s.um with forceDo := mset (fun _ => none) n b s.um.forceDo } }

/-- FORCE_SET. -/
def execForceSet (ring idx : Nat) (s : State) : Res :=
  s.runCmd ring idx (isOp opForceSet)
    (fun s c =>
      let o := forceObj s c.objid
      { form := match o with
          | .point => c.inline 16
          | _ => c.inline 4
        bad := match o with
          | .point =>
            if c.remote || c.p0Bad || (c.par 1).get 31 23 != 0 || s.forceBad c.ptIndex c.rawPar then some (c.objid, 0) else none
          | .bad => some (c.objid, 0)
          | _ => if decide (1 < (c.par 0).toNat) then some (c.objid, 0) else none
        auth := true
        modes := s.inMode modesC
        own := match o with
          | .point => s.forceRefused c.ptIndex
          | _ => none })
    (fun s c =>
      match forceObj s c.objid with
      | .point => (s.forcePoint c.ptIndex c.rawPar).done c 0 0 0 0
      | .di n => (s.setForceDi n (some (natBit (c.par 0).toNat 0))).done c 0 0 0 0
      | .dout n => (s.setForceDo n (some (natBit (c.par 0).toNat 0))).done c 0 0 0 0
      | .bad => s)

/-- P0 of FORCE_CLEAR on points: bit 30 clears all. -/
def Cmd.clearBad (c : Cmd) : Bool :=
  (c.par 0).get 31 31 == 1 || (c.par 0).get 29 0 != 0 || (c.par 1).get 31 23 != 0

/-- FORCE_CLEAR. -/
def execForceClear (ring idx : Nat) (s : State) : Res :=
  s.runCmd ring idx (isOp opForceClear)
    (fun s c =>
      let o := forceObj s c.objid
      { form := match o with
          | .point => c.inline 8
          | _ => !c.buf
        bad := match o with
          | .point => if c.clearBad || ((c.par 0).get 30 30 == 0 && (s.ptDef c.ptIndex).isNone) then some (c.objid, 0) else none
          | .bad => some (c.objid, 0)
          | _ => none
        auth := true
        modes := s.inMode modesC })
    (fun s c =>
      match forceObj s c.objid with
      | .point =>
        let l := if (c.par 0).get 30 30 = 1 then s.forced else s.forced.filter (· == c.ptIndex)
        if l.isEmpty then s.answer c 0 0 0 0 else (l.foldl State.unforcePoint s).done c 0 0 0 0
      | .di n =>
        if (mget (fun _ => none) s.fd.forceDi n).isNone then s.answer c 0 0 0 0 else (s.setForceDi n none).done c 0 0 0 0
      | .dout n =>
        if (mget (fun _ => none) s.um.forceDo n).isNone then s.answer c 0 0 0 0 else (s.setForceDo n none).done c 0 0 0 0
      | .bad => s)

/-- Leaving COMMISSION clears every force (R29). -/
def State.clearForces (s : State) : State :=
  let s1 := (List.range 48).foldl (fun s n => s.setForceDi n none) s.unforcePoints
  { s1 with um := { s1.um with forceDo := [], forceQ := [] } }

end Sys2Proof.Machine
end

