-- ==== Sys2Proof/Machine/Comparators.lean ====
section
/-! DEFINITION. The sentinel comparators and the arc-light inputs (R130 to R132, R561): switching, the DD_SNT lines, and what a
commit of their thresholds does. -/

namespace Sys2Proof.Machine

open Sys2Proof

/-- Level of a DD_SNT line: the OR of its channels. -/
def State.sntLevel (s : State) (k : Nat) : Bool :=
  s.af.dtrip.any (fun e => e.2 && s.flag AF_CHAN_SNT_EN e.1 && s.rd AF_CHAN_SNT_LINE e.1 == k)

/-- The lines whose level changed move. -/
def State.sntUpdate (s old : State) : State :=
  s.each (List.range 8) (fun t k => if s.sntLevel k == old.sntLevel k then t else t.sntLine k (s.sntLevel k))

/-- The instant of a comparator's switching (R561): of the time counter, and in SENTINEL of the real-time counter. -/
def State.switchStamp (s : State) : Stamp :=
  if s.tu.running then s.now else ⟨s.kp.rtcSec, s.kp.rtcTick * 1000000000 / 32768⟩

/-- A direct-trip comparator can be on: of a current channel, with a threshold (R130). -/
def State.dtripCan (s : State) (chan : Nat) : Bool := s.rd AF_CHAN_KIND chan == 1 && s.rd AF_CHAN_TRIP_THR chan != 0

/-- A direct-trip comparator switches: TRIP_SEEN, the record, the lines (R131, R561). -/
def State.dtripSet (s : State) (chan : Nat) (on : Bool) : State :=
  let s1 : State := { s with af := { s.af with dtrip := mset (fun _ => false) chan on s.af.dtrip } }
  let p1 := s.rd AF_CHAN_SNT_EN chan * 2 ^ 31 + s.rd AF_CHAN_SNT_LINE chan
  let s2 := (s1.wr AF_CHAN_TRIP_SEEN chan 1).stateRecAt 0x08 1 chan s.switchStamp (b2n on) p1 0 true
  s2.sntUpdate s

/-- The light state of an arc input changes: SEEN, the arc elements, the trip matrix (R132). -/
def State.arcSet (s : State) (input : Nat) (lit : Bool) : State :=
  let s1 := s.setFlag AF_ARC_LIGHT input lit
  let s2 := if lit then s1.wr AF_ARC_SEEN input 1 else s1
  if s2.protOn then s2.arcElems.fastBlocks.tmStep else s2

/-- After a commit of channel and arc settings: a comparator that its settings switch off releases, lines follow SNT_EN and SNT_LINE,
an input with THR = 0 is dark (R130 to R132). -/
def State.thresholdsCommit (s old : State) (chans arcs : List Nat) : State :=
  let s1 := s.each (chans.filter (fun c => mget (fun _ => false) s.af.dtrip c && !s.dtripCan c)) (fun t c => t.dtripSet c false)
  let s2 := s1.each (List.range 8) (fun t k => if s.sntLevel k == old.sntLevel k then t else t.sntLine k (s1.sntLevel k))
  s2.each (arcs.filter (fun k => s.flag AF_ARC_LIGHT k && s.rd AF_ARC_THR k == 0)) (fun t k => t.arcSet k false)

end Sys2Proof.Machine
end

