-- ==== Sys2Proof/Machine/Disturb.lean ====
section
/-! DEFINITION. The disturbance recorder (14_recording.md, R403 to R408, R411). -/

namespace Sys2Proof.Machine

open Sys2Proof

def State.drRec (s : State) (n : Nat) : Option DrRec := mget (fun _ => none) s.dr.recs n

/-- Show a record in its slot of DR_REC (Table 14.10). -/
def State.drShow (s : State) (n : Nat) : State :=
  match s.drRec n with
  | none => (List.range 5).foldl (fun s w => s.putWord 0x32 4 n w 0) s
  | some r =>
    let tr := (Stamp.ofTai (((r.trigs.head?).map (·.2)).getD 0)).word
    let s1 := ((s.wr DR_REC_STATE n r.state).wr DR_REC_NTRIG n r.trigs.length).wr DR_REC_EXP_KIB n r.expKib
    (((s1.wr DR_REC_SERIAL n r.serial).wrk DR_REC_TR n 0 tr).wrk DR_REC_TR n 1 (tr / 2 ^ 32)).wr DR_REC_LEN_US n
      ((r.stop - r.start) / 1000)

def State.setDrRec (s : State) (n : Nat) (r : Option DrRec) : State :=
  State.drShow { s with dr := { s.dr with recs := mset (fun _ => none) n r s.dr.recs } } n

/-- DR captures: enabled, from protection ready on, while the paths run (Table 14.8). -/
def State.drOn (s : State) : Bool := s.flag DR_CFG_EN 0 && s.protOn

/-- A mask of several words. -/
def State.maskOf (s : State) (f : Field) (n : Nat) : Nat :=
  (List.range n).foldl (fun a k => a + s.rdk f 0 k * 2 ^ (32 * k)) 0

def State.drFineMask (s : State) : Nat := s.maskOf DR_CFG_FINE_MASK 3
def State.drFastMask (s : State) : Nat := s.maskOf DR_CFG_FAST_MASK 2
def State.drDiMask (s : State) : Nat := s.maskOf DR_CFG_DI_MASK 2

def msNs (ms : Nat) : Nat := ms * 1000000

/-- The digital channels now: trip channels, and the DIs. -/
def State.drDigNow (s : State) : DrDig :=
  ⟨s.tai, s.assertedWord, (List.range 48).foldl (fun a n => a + b2n (s.diVal n) * 2 ^ n) 0⟩

/-- Change every capturing record. -/
def State.drEach (s : State) (f : DrRec → DrRec) : State :=
  { s with dr := { s.dr with recs := s.dr.recs.map (fun e => (e.1, e.2.map (fun r => if r.state = 1 then f r else r))) } }

/-- The grid of the digital channels, 31.25 µs (R404): called when the time counter reaches one of its instants. -/
def State.drGrid (s : State) : State :=
  if s.drOn then
    let d := s.drDigNow
    let keep := msNs (s.rd DR_CFG_PRE 0 + 10)
    let s1 : State := { s with dr := { s.dr with dig := d :: s.dr.dig.takeWhile (fun e => decide (s.tai ≤ e.t + keep)) } }
    s1.drEach (fun r => if r.start ≤ d.t ∧ d.t ≤ r.stop then { r with dig := r.dig ++ [{ d with di := d.di &&& r.diMask }] } else r)
  else s

/-- A fine sample of channel `c` became available (R404). -/
def State.drFine (s : State) (c : Nat) (x : Smp) : State :=
  if s.drOn then
    let keep := msNs (s.rd DR_CFG_PRE 0 + 10)
    let s1 : State := if natBit s.drFineMask c then
      { s with dr := { s.dr with fine := mmod (fun _ => []) c (fun l => x :: l.takeWhile (fun y => decide (x.t ≤ y.t + keep))) s.dr.fine } }
      else s
    s1.drEach (fun r => if natBit r.fineMask c ∧ r.start ≤ x.t ∧ x.t ≤ r.stop then
      { r with fine := mmod (fun _ => []) c (fun l => l ++ [x]) r.fine } else r)
  else s

/-- A fast sample of AIN_P_c became available (R404). -/
def State.drFast (s : State) (c : Nat) (x : Smp) : State :=
  if s.drOn then
    let keep := s.rd DR_CFG_FAST_PRE 0 * 1000 + msNs 10
    let s1 : State := if natBit s.drFastMask c then
      { s with dr := { s.dr with fast := mmod (fun _ => []) c (fun l => x :: l.takeWhile (fun y => decide (x.t ≤ y.t + keep))) s.dr.fast } }
      else s
    s1.drEach (fun r => if natBit r.fastMask c ∧ r.fastStart ≤ x.t ∧ x.t ≤ r.fastStop then
      { r with fast := mmod (fun _ => []) c (fun l => l ++ [x]) r.fast } else r)
  else s

/-- Bytes a record takes of DR_CFG.BUF_MIB: 4 per sample and 12 per digital instant (assumption 49: the manual gives no figure). -/
def DrRec.bytes (r : DrRec) : Nat :=
  let span := r.stop - r.start
  let fine := (List.range 96).foldl (fun a c => if natBit r.fineMask c then
    a + span / (31250 * 2 ^ mget (fun _ => 0) r.rates c) * 4 else a) 0
  let fast := (List.range 64).foldl (fun a c => if natBit r.fastMask c then a + (r.fastStop - r.fastStart) / 800 * 4 else a) 0
  fine + fast + span / 31250 * 12

def State.drHeld (s : State) : List (Nat × DrRec) :=
  (List.range 64).filterMap (fun n => (s.drRec n).map (fun r => (n, r)))

/-- Evict the oldest record that is not capturing, where FULL = 0 (R406). -/
def State.drEvict (s : State) : Option State :=
  if s.flag DR_CFG_FULL 0 then none
  else match s.drHeld.filter (fun e => e.2.state != 1) with
    | [] => none
    | e :: t => some (s.setDrRec (t.foldl (fun a b => if b.2.serial < a.2.serial then b else a) e).1 none)

/-- A free slot, where the buffer has space for `need` bytes more. -/
def State.drFree (s : State) (need : Nat) : Option Nat :=
  if s.drHeld.foldl (fun a e => a + e.2.bytes) 0 + need ≤ s.rd DR_CFG_BUF_MIB 0 * 1048576 then
    (List.range 64).find? (fun n => (s.drRec n).isNone)
  else none

/-- A slot for a new record, evicting as long as that is allowed. -/
def State.drSlot (s : State) (need : Nat) : Nat → Option (Nat × State)
  | 0 => none
  | k + 1 =>
    match s.drFree need with
    | some n => some (n, s)
    | none => match s.drEvict with
      | some s1 => s1.drSlot need k
      | none => none

/-- A new record for a trigger at `tr`, with what the history holds of it (R404). -/
def State.drNew (s : State) (entry tr : Nat) : DrRec :=
  let start := tr - msNs (s.rd DR_CFG_PRE 0)
  let stop := tr + msNs (s.rd DR_CFG_POST 0)
  let fs := tr - s.rd DR_CFG_FAST_PRE 0 * 1000
  let fe := tr + s.rd DR_CFG_FAST_POST 0 * 1000
  let pick (m : AMap (List Smp)) (mask a b : Nat) : AMap (List Smp) :=
    (m.filter (fun e => natBit mask e.1)).map (fun e => (e.1, (e.2.filter (fun x => decide (a ≤ x.t) && decide (x.t ≤ b))).reverse))
  { state := 1, serial := s.dr.serial, trigs := [(entry, tr)], more := 0, start := start, stop := stop, fastStart := fs, fastStop := fe
    fineMask := s.drFineMask, fastMask := s.drFastMask, diMask := s.drDiMask
    rates := (List.range 96).foldl (fun m c => mset (fun _ => 0) c (s.rd FC_CHAN_RATE c) m) []
    fine := (pick s.dr.fine s.drFineMask start stop).filter (fun e => !e.2.isEmpty)
    fast := (pick s.dr.fast s.drFastMask fs fe).filter (fun e => !e.2.isEmpty)
    dig := (s.dr.dig.filter (fun d => decide (start ≤ d.t) && decide (d.t ≤ stop))).reverse.map
      (fun d => { d with di := d.di &&& s.drDiMask })
    expKib := 0, archOff := 0, archived := false }

/-- The capturing record that a trigger at `tr` extends (R405). -/
def State.drOpen (s : State) (tr : Nat) : Option (Nat × DrRec) :=
  if s.flag DR_CFG_EXTEND 0 then s.drHeld.find? (fun e => e.2.state == 1 && decide (tr ≤ e.2.stop)) else none

/-- A new record takes a slot, or the trigger is lost (R406). -/
def State.drBegin (s : State) (r : DrRec) (entry fuel : Nat) : State :=
  match s.drSlot r.bytes fuel with
  | some (n, s1) => s1.setDrRec n (some r)
  | none => s.notify 0x32 2 1 r.serial entry 0 0

/-- A trigger (R403, R405, R406): it extends a record, or starts one with the next serial number, or is lost. -/
def State.drTrigger (s : State) (entry tr : Nat) : State :=
  match s.drOpen tr with
  | some (n, r) =>
    let stop := max r.stop (min (tr + msNs (s.rd DR_CFG_POST 0)) (r.start + msNs (s.rd DR_CFG_MAXLEN 0)))
    s.setDrRec n (some { r with
      stop := stop, trigs := if r.trigs.length < 16 then r.trigs ++ [(entry, tr)] else r.trigs
      more := if r.trigs.length < 16 then r.more else r.more + 1 })
  | none =>
    let r := s.drNew entry tr
    let s0 : State := { s with dr := { s.dr with serial := (s.dr.serial + 1) % 2 ^ 32 } }
    s0.drBegin r entry 65

/-- DR_TRIGGER_EVENT (R403): the oldest change of a source that an enabled entry names. -/
def execDrTriggerEvent (s : State) : Res :=
  match s.dr.queue with
  | [] => .next s
  | q :: t =>
    let s0 : State := { s with dr := { s.dr with queue := t } }
    if s0.drOn then .next (s0.drTrigger q.1 q.2) else .next s0

/-- DR_TRIGGER (R403): tr is the commit instant; 32 stands for the entry. -/
def execDrTrigger (ring idx : Nat) (s : State) : Res :=
  s.runCmd ring idx (isOp opDrTrigger)
    (fun s c =>
      { form := !c.buf
        bad := if c.objid != 0x32000001 then some (c.objid, 0) else none
        auth := false
        modes := s.inMode modesCrs })
    (fun s c => if s.drOn then (s.drTrigger 32 s.tai).done c 0 0 0 0 else s.answer c 0 0 0 0)

/-- Every channel of a record has delivered its last sample. -/
def State.drArrived (s : State) (r : DrRec) : Bool :=
  decide (r.stop ≤ s.tai)
    && (List.range 96).all (fun c => !natBit r.fineMask c || (match mget (fun _ => []) s.dr.fine c with
      | [] => true
      | x :: _ => decide (r.stop < x.t + s.finePeriod c)))
    && (List.range 64).all (fun c => !natBit r.fastMask c || (match mget (fun _ => []) s.dr.fast c with
      | [] => true
      | x :: _ => decide (r.fastStop < x.t + 800)))

/-- A record ends, in state 2 complete or 3 ended in SENTINEL; its export bound is a free value. -/
def State.drEnd (s : State) (n : Nat) (r : DrRec) (st stop : Nat) : State :=
  (s.drawn).setDrRec n (some { r with state := st, stop := stop, expKib := s.freeWord.toNat % 2 ^ 25 })

/-- DR_RECORD_COMPLETE (R404): the oldest capturing record whose last sample is available. -/
def execDrRecordComplete (s : State) : Res :=
  if s.drOn then
    match s.drHeld.find? (fun e => e.2.state == 1 && s.drArrived e.2) with
    | some (n, r) => .next ((s.drEnd n r 2 r.stop).notify 0x32 1 0 n r.serial 0 0)
    | none => .next s
  else .next s

/-- t5 of SENTINEL entry: records end with their samples up to t5 (Table 14.8). -/
def State.drSleep (s : State) : State :=
  (s.drHeld.filter (fun e => e.2.state == 1)).foldl (fun s e => s.drEnd e.1 e.2 3 (min e.2.stop s.tai)) s

/-- BOOT: no record, no history; the serial number restarts. -/
def State.drReset (s : State) : State := (List.range 64).foldl (fun s n => s.setDrRec n none) { s with dr := DrSt.init }

/-! DR_EXPORT (R407, R408). -/

def expBad (w : W32) : Bool :=
  let rev := w.get 31 30
  let form := w.get 29 28
  decide (2 ≤ rev) || form == 3 || (form == 2 && rev != 1) || (w.get 27 27 == 1 && rev != 1) || w.get 23 0 != 0

/-- Analog channels that an export takes: of the fine samples at RATE, or of the fast burst. -/
def DrRec.chans (r : DrRec) (w : W32) : List Nat :=
  if w.get 26 26 = 1 then (List.range 64).filter (natBit r.fastMask)
  else (List.range 96).filter (fun c => natBit r.fineMask c && mget (fun _ => 0) r.rates c == w.get 25 24)

/-- What an export draws on: the record and its channels' samples. -/
def DrRec.data (r : DrRec) (w : W32) : List W32 :=
  let smp (m : AMap (List Smp)) (c : Nat) : List W32 := (mget (fun _ => []) m c).flatMap (fun x =>
    [BitVec.ofNat 32 (x.t / 2 ^ 32), BitVec.ofNat 32 x.t, x.word])
  [w, BitVec.ofNat 32 r.serial] ++ (r.chans w).flatMap (smp (if w.get 26 26 = 1 then r.fast else r.fine))
    ++ r.dig.flatMap (fun d => [BitVec.ofNat 32 (d.t / 2 ^ 32), BitVec.ofNat 32 d.t, BitVec.ofNat 32 d.trip, BitVec.ofNat 32 d.di,
      BitVec.ofNat 32 (d.di / 2 ^ 32)])

/-- The tmq_code of the 2013 forms (R515): 0 locked, 0xF before the first lock, else the smallest code of IEEE C37.118 (code k bounds
10^(k - 1) ns, up to 10 s) that covers 50 ns and the assumed drift over the holdover age. -/
def State.tmqCode (s : State) : Nat :=
  if s.tu.state = .locked ∨ s.tu.state = .gm then 0
  else if s.tu.state = .unset ∨ (s.tu.state = .acquire ∧ s.tu.ever = false) then 0xF
  else
    let err := 50000000000 + s.rd TU_CFG_HO_PPB 0 * ((s.elapsed - s.tu.holdSince) * 5 / 4)
    ((List.range 12).find? (fun k => decide (1 ≤ k) && decide (err ≤ 10 ^ (k - 1) * 1000000000))).getD 0xF

/-- The files of an export are those of IEEE C37.111, which the manual does not set out: an open function of the form and the
data (words and byte lengths of CFG and DAT). -/
def State.drFiles (s : State) (r : DrRec) (w : W32) : (List W32 × Nat) × (List W32 × Nat) :=
  Config.comtrade ((r.chans w).flatMap (fun c => s.word 0x32 3 c 0 :: s.word 0x32 3 c 1 :: mgetList regDefault s.regs (regKey 0x32 3 c 2) 4)
    ++ mgetList regDefault s.regs (regKey 0x32 1 0 13) 8 ++ [s.word 0x43 1 0 2, BitVec.ofNat 32 s.tmqCode] ++ r.data w)

def execDrExport (ring idx : Nat) (dmaOk : Bool) (s : State) : Res :=
  s.runCmd ring idx (isOp opDrExport)
    (fun s c =>
      let n := objInst c.objid
      let w := c.par 0
      { form := c.buffer 1 4 && (match s.drRec n with
          | some r => r.state == 1 || decide (r.expKib * 1024 ≤ c.bufLen)
          | none => true)
        bad := if objUnit c.objid != 0x32 || objGrp c.objid != 4 || decide (64 ≤ n) || expBad w then some (c.objid, 0) else none
        auth := false
        modes := s.inMode modesAll
        own := match s.drRec n with
          | none => some (.modeForbids, s.cmdMode.code, 0)
          | some r =>
            if r.state = 1 then some (.modeForbids, s.cmdMode.code, 0)
            else if w.get 26 26 = 0 ∧ (r.chans w).isEmpty = true then some (.noMatch, 0, 0)
            else s.dmaCheck c dmaOk })
    (fun s c => match s.drRec (objInst c.objid) with
      | none => s
      | some r =>
        let w := c.par 0
        let f := s.drFiles r w
        let dis := (List.range 48).filter (natBit r.diMask)
        (s.dmaOut c.bufLoc c.bufAddr (f.1.1 ++ f.2.1)).answer c f.1.2 (if w.get 27 27 = 1 then 0 else f.2.2) (r.chans w).length
          (32 + dis.length))

/-! Checks of DR settings (R403, R411). -/

/-- The instance an enabled entry names is one the variant lacks. -/
def drAbsent (s : State) (r : WReq) : Bool :=
  if r.grp = 2 then r.new s DR_TRIG_EN == 1 && (r.new s DR_TRIG_KIND == 1 || r.new s DR_TRIG_KIND == 2)
    && decide (s.nElem ≤ r.new s DR_TRIG_INDEX)
  else if r.grp = 1 then
    (List.range 64).any (fun c => decide (s.nAin ≤ c)
      && (natBit (r.newk s DR_CFG_FINE_MASK (c / 32)) (c % 32) || natBit (r.newk s DR_CFG_FAST_MASK (c / 32)) (c % 32)))
  else false

/-- Field values as they would stand (`p`), for the object that is written. -/
def drBad (p : State) (r : WReq) : Bool :=
  if r.grp = 1 then
    let en := p.flag DR_CFG_EN 0
    let rng (f : Field) (lo hi : Nat) : Bool := (en || r.touches f) && !(decide (lo ≤ p.rd f 0) && decide (p.rd f 0 ≤ hi))
    rng DR_CFG_BUF_MIB 256 8192 || rng DR_CFG_PRE 0 10000 || rng DR_CFG_POST 1 60000 || rng DR_CFG_MAXLEN (p.rd DR_CFG_POST 0) 120000
      || rng DR_CFG_FAST_PRE 0 100000 || rng DR_CFG_FAST_POST 0 100000
  else if r.grp = 2 then
    let k := p.rd DR_TRIG_KIND r.i
    let n := p.rd DR_TRIG_INDEX r.i
    p.flag DR_TRIG_EN r.i && (k == 0 || decide (6 ≤ k) || ((k == 3 || k == 5) && decide (32 ≤ n)) || (k == 4 && decide (48 ≤ n))
      || (k == 4 && p.rd DR_TRIG_EDGE r.i == 0))
  else if r.grp = 3 then decide (5 ≤ p.rd DR_CH_UNIT r.i) || !finite f32 (p.rd DR_CH_MULT r.i)
  else false

end Sys2Proof.Machine
end

