-- ==== Sys2Proof/Machine/Safe.lean ====
section
/-! DEFINITION. The machine safety evaluator (16_safety_functions.md, R438 to R460). -/

namespace Sys2Proof.Machine

open Sys2Proof

def State.sfn (s : State) (k : Nat) : SfFn := mget (fun _ => SfFn.init) s.sf.fn k

def State.setSfn (s : State) (k : Nat) (x : SfFn) : State :=
  { s with sf := { s.sf with fn := mset (fun _ => SfFn.init) k x s.sf.fn } }

/-- SF evaluates: present, clocked, past its start diagnostics at 90 ms (R438, Table 16.5). -/
def State.sfOn (s : State) : Bool :=
  s.var != .cpx9616 && s.fieldOn && s.tu.running && !s.flag SF_STAT_PFAULT 0
    && (s.mo.coldBoot || [BootStep.sdram, .config, .protection, .done, .awaitConfig].contains s.mo.boot)

/-- States of Table 16.4. -/
def sfOff : Nat := 0
def sfStop : Nat := 1
def sfReady : Nat := 2
def sfTesting : Nat := 3
def sfRun : Nat := 4
def sfFault : Nat := 5

def State.sfState (s : State) (k : Nat) : Nat := s.rd SF_FSTAT_STATE k

/-- Enabled functions. -/
def State.sfFns (s : State) : List Nat := (List.range 32).filter (fun k => s.sfState k != sfOff)

/-- Two-hand control. -/
def State.twoHand (s : State) (k : Nat) : Bool := s.rd SF_FUNC_KIND k == 3

/-- Channels demanded, bit c for channel c (Table 16.6). -/
def State.sfDemMask (s : State) (k : Nat) : Nat :=
  let d := s.rd SF_FSTAT_DEM k
  b2n (natBit d 3) + 2 * b2n (natBit d 2) + 4 * b2n (natBit d 1) + 8 * b2n (natBit d 0)

/-! Outputs and demands (R452, R453). -/

/-- Enabled functions that name an output. -/
def State.sfNames (s : State) (n : Nat) : List Nat := s.sfFns.filter (fun k => natBit (s.rd SF_FUNC_OUT_MASK k) n)

def State.sfOwned (s : State) (n : Nat) : Bool := !(s.sfNames n).isEmpty

/-- An owned output is released while every function that names it is in RUN. -/
def State.sfReleased (s : State) (n : Nat) : Bool := (s.sfNames n).all (fun k => s.sfState k == sfRun)

/-- Safe-off commands of an output in the field die and the same demand in the Umpire, that of SF_CFG.OTE too (R15); a switch-off
of an owned output starts a readback check. -/
def State.sfOutput (s : State) (n : Nat) : State :=
  let owned := s.sfOwned n
  let off := owned && !s.sfReleased n
  let was := !mget (fun _ => false) s.fd.sfOff n
  let ote := s.sf.oteOff && s.rd SF_CFG_OTE 0 == n
  let keep := s.fd.sfLost && mget (fun _ => false) s.fd.sfOff n
  { s with
    um := { s.um with sfOff := mset (fun _ => false) n (off || ote) s.um.sfOff }
    fd := { s.fd with sfOff := mset (fun _ => false) n (off || ote || keep) s.fd.sfOff }
    sf := { s.sf with
      checks := if was && off then mset (fun _ => 0) n (s.elapsed + 1) s.sf.checks else s.sf.checks } }

/-- The demand of a function on its status point. -/
def State.sfPoint (s : State) (k : Nat) : State :=
  if s.sfState k != sfOff && s.flag SF_FUNC_PT_EN k then
    let i := s.rd SF_FUNC_PT k
    let v := b2n (s.sfState k == sfRun)
    match s.standOf i 9 with
    | some d => if d.raw = v then s else s.setStand i 9 (some ⟨v, s.tai⟩)
    | none => s.setStand i 9 (some ⟨v, s.tai⟩)
  else s

/-- Masks, output commands and demands follow the states. -/
def State.sfOutputs (s : State) : State :=
  let m (st : Nat) : Nat := s.tchWord (fun k => s.sfState k == st)
  let s1 := (s.wr SF_STAT_RUN_MASK 0 (m sfRun)).wr SF_STAT_FAULT_MASK 0 (m sfFault)
  let s2 := (List.range 24).foldl State.sfOutput s1
  ((List.range 32).foldl State.sfPoint s2).fdDrive

/-! State changes (R445, R459). -/

/-- Enter a state: stamp, record, counters and notifications. -/
def State.sfEnter (s : State) (k st cause : Nat) : State :=
  let old := s.sfState k
  if old = st ∧ s.rd SF_FSTAT_FCAUSE k = cause then s
  else
    let s1 := (((s.wr SF_FSTAT_STATE k st).wr SF_FSTAT_FCAUSE k cause).wr SF_FSTAT_LAST_NS k s.now.ns).wr SF_FSTAT_LAST_SEC k
      s.now.sec
    let stopped := st = sfStop ∧ 2 ≤ old ∧ old ≤ 4
    let s2 := if stopped then s1.wrapInc SF_FSTAT_DEMANDS k 1 else s1
    let x := s2.sfn k
    let s3 := s2.setSfn k { x with
      phase := 0
      firstPress := none
      sawDem := if st = sfFault then false else x.sawDem
      sawHealthy := if st = sfFault then false else x.sawHealthy }
    let s4 := s3.stateRec 0x39 0x01 k (s3.word 0x39 0x11 k 0).toNat (s3.sfDemMask k) 0 true
    if stopped then s4.notify 0x39 1 0 k (s4.sfDemMask k) 0 0
    else if st = sfFault then s4.notify 0x39 2 2 k cause 0 0
    else if st = sfRun then s4.notify 0x39 5 0 k 0 0 0
    else s4

/-- A function starts: STOP, and one reset to come (R446). -/
def State.sfRestart (s : State) (k : Nat) : State :=
  let s1 := s.setSfn k SfFn.init
  s1.sfEnter k sfStop 0

/-! Channels (R443, R448, R449). -/

/-- A DI of a function: its raw value, and whether it is valid. -/
def State.sfRaw (s : State) (n : Nat) : Bool := s.flag FD_DI_RAW n
def State.sfValid (s : State) (n : Nat) : Bool := decide (n < 48) && s.flag FD_DI_VALID n

/-- One sample of a channel: `dem` its reading; inside a test window a demand waits for the window's end. -/
def SfChan.sample (c : SfChan) (dem window : Bool) (deb : Nat) : SfChan :=
  if dem == c.dem then ⟨c.dem, 0⟩
  else if deb ≤ c.run + 1 then (if window && dem then ⟨c.dem, deb⟩ else ⟨dem, 0⟩)
  else ⟨c.dem, c.run + 1⟩

/-- The reading of a channel: the demand value of Table 16.3, or an invalid input; for two-hand control a contact out of
its pressed position. -/
def State.sfReads (s : State) (k n : Nat) (no : Bool) : Bool :=
  !s.sfValid n || (if s.twoHand k then s.sfRaw n != no else s.sfRaw n == no)

/-- The four contacts of two-hand control are valid: an invalid contact is no released one (R443, R448).  Debounced, this stands
where the other kinds have their reset input, which two-hand control has not. -/
def State.twoValid (s : State) (k : Nat) : Bool :=
  s.sfValid (s.rd SF_FUNC_IN_A k) && s.sfValid (s.rd SF_FUNC_IN_B k) && s.sfValid (s.rd SF_FUNC_IN_C k)
    && s.sfValid (s.rd SF_FUNC_IN_D k)

/-- Channels of a function after a sample. -/
def State.sfChannels (s : State) (k : Nat) : SfFn :=
  let x := s.sfn k
  let deb := s.rd SF_FUNC_DEB k
  let kind := s.rd SF_FUNC_KIND k
  let smp (c : SfChan) (f : Field) (no win used : Bool) : SfChan :=
    if used then c.sample (s.sfReads k (s.rd f k) no) win deb else ⟨false, 0⟩
  { x with
    chA := smp x.chA SF_FUNC_IN_A (kind == 3) x.testA.isSome true
    chB := smp x.chB SF_FUNC_IN_B (kind != 3 && s.flag SF_FUNC_CONTACT k) x.testB.isSome true
    chC := smp x.chC SF_FUNC_IN_C (kind == 3) false (kind == 3 || (kind == 2 && s.flag SF_FUNC_LOCK_EN k))
    chD := smp x.chD SF_FUNC_IN_D false false (kind == 3)
    rst := if kind = 3 then x.rst.sample (s.twoValid k) false deb else x.rst }

/-- Discrepancy of the first pair, and of the second. -/
def SfFn.disc (x : SfFn) (second : Bool) : Bool := if second then x.chC.dem != x.chD.dem else x.chA.dem != x.chB.dem

/-- The function reads demanded; `tpw` is OSSD_TPW in elapsed units. -/
def SfFn.demanded (x : SfFn) (kind tpw now : Nat) : Bool :=
  if kind = 4 then
    (x.chA.dem && x.chB.dem) || held x.ossdA (tpw + 1) now || held x.ossdB (tpw + 1) now
  else x.chA.dem || x.chB.dem || x.chC.dem

/-- The timers that follow the channels' readings. -/
def SfFn.timers (x : SfFn) (kind now : Nat) : SfFn :=
  let two := kind == 3
  let d0 := x.disc false
  let d1 := two && x.disc true
  let allDem := x.chA.dem && x.chB.dem && (!two || (x.chC.dem && x.chD.dem))
  let allOk := !x.chA.dem && !x.chB.dem && (!two || (!x.chC.dem && !x.chD.dem))
  { x with
    disc0 := since d0 x.disc0 now
    disc1 := since d1 x.disc1 now
    ossdA := since (kind == 4 && x.chA.dem) x.ossdA now
    ossdB := since (kind == 4 && x.chB.dem) x.ossdB now
    sawDem := x.sawDem || allDem
    sawHealthy := x.sawHealthy || (x.sawDem && allOk) }

/-- A test sees the samples of its window (R455). -/
def SfTest.see (t : SfTest) (zero other : Bool) (now : Nat) : SfTest :=
  { t with zero := t.zero || (zero && decide (now < t.pulseEnd)), other := t.other || (other && decide (now < t.stop)) }

/-! Resets (R446, R447). -/

/-- The cause of a fault has cleared. -/
def State.sfCleared (s : State) (k : Nat) : Bool :=
  match s.rd SF_FSTAT_FCAUSE k with
  | 1 => (s.sfn k).sawHealthy && (s.sfn k).disc0.isNone && (s.sfn k).disc1.isNone
  | 2 => s.rd SF_FSTAT_TEST_A k == 1
  | 3 => s.rd SF_FSTAT_TEST_B k == 1
  | 4 => (List.range 24).all (fun n => !natBit (s.rd SF_FUNC_OUT_MASK k) n || !s.flag FD_DO_BALL n)
  | _ => false

/-- Enter TESTING: IN_A at the next sample instant (R456); without pulse sources RUN in the same cycle. -/
def State.sfTest (s : State) (k : Nat) : State :=
  let s1 := s.sfEnter k sfTesting 0
  let due := s.elapsed + (10000 - s.tai % 10000) * 4 / 5
  if s.rd SF_FUNC_TPA k != 0x3F then s1.setSfn k { s1.sfn k with phase := 1, due := due }
  else if s.rd SF_FUNC_TPB k != 0x3F then s1.setSfn k { s1.sfn k with phase := 2, due := due }
  else s1.sfEnter k sfRun 0

/-- A reset is accepted, or ignored and counted. -/
def State.sfReset (s : State) (k : Nat) : State :=
  let st := s.sfState k
  if st = sfReady ∧ (s.rd SF_FUNC_RST_MODE k = 0 ∨ (s.sfn k).needReset = true) then
    (s.setSfn k { s.sfn k with needReset := false }).sfTest k
  else if st = sfFault ∧ s.sfCleared k = true then (s.setSfn k { s.sfn k with needReset := true }).sfEnter k sfStop 0
  else s.bump SF_FSTAT_RST_IGN k 1

/-- The reset input of a function: an edge under DEB, a press of 100 to 5,000 ms.  An invalid input gives no edge. -/
def State.sfResetInput (s : State) (k : Nat) : State :=
  let n := s.rd SF_FUNC_RST_DI k
  let x := s.sfn k
  if n = 0x3F then s
  else if s.sfValid n = false then s.setSfn k { x with rst := ⟨false, 0⟩, pressAt := none }
  else
    let c := x.rst.sample (s.sfRaw n) false (s.rd SF_FUNC_DEB k)
    if c.dem && !x.rst.dem then s.setSfn k { x with rst := c, pressAt := some s.elapsed }
    else if !c.dem && x.rst.dem then
      let s1 := s.setSfn k { x with rst := c, pressAt := none }
      match x.pressAt with
      | none => s1
      | some t =>
        if decide (t + 80000000 ≤ s.elapsed) && decide (s.elapsed ≤ t + 4000000000) then s1.sfReset k
        else s1.bump SF_FSTAT_RST_IGN k 1
    else s.setSfn k { x with rst := c }

/-! The evaluation cycle (R439, R445, R448). -/

/-- Two-hand control after its channels. -/
def State.sfTwoHand (s : State) (k : Nat) : State :=
  let x := s.sfn k
  let p1 := !x.chA.dem && !x.chB.dem
  let p2 := !x.chC.dem && !x.chD.dem
  let r1 := x.chA.dem && x.chB.dem
  let r2 := x.chC.dem && x.chD.dem
  let st := s.sfState k
  if st = sfStop then (if r1 && r2 && x.rst.dem then s.sfEnter k sfReady 0 else s)
  else if st = sfReady then
    let first := since (p1 || p2) x.firstPress s.elapsed
    if p1 && p2 then
      (match first with
       | some t => if s.elapsed ≤ t + 400000000 then s.sfEnter k sfRun 0 else s.sfEnter k sfStop 0
       | none => s)
    else s.setSfn k { x with firstPress := first }
  else if st = sfRun then (if p1 && p2 then s else s.sfEnter k sfStop 0)
  else s

/-- The other kinds. -/
def State.sfOther (s : State) (k : Nat) : State :=
  let x := s.sfn k
  let dem := x.demanded (s.rd SF_FUNC_KIND k) (s.rd SF_FUNC_OSSD_TPW k * 800) s.elapsed
  let st := s.sfState k
  if st = sfStop then
    (if !dem && !x.chA.dem && !x.chB.dem && x.disc0.isNone then s.sfEnter k sfReady 0 else s)
  else if st = sfReady then
    if dem then s.sfEnter k sfStop 0
    else if s.rd SF_FUNC_RST_MODE k = 1 ∧ x.needReset = false then s.sfTest k
    else s
  else if st = sfTesting ∨ st = sfRun then (if dem then s.sfEnter k sfStop 0 else s)
  else s

/-- One function in one cycle: channels, timers, tests, transitions, reset. -/
def State.sfEval (s : State) (k : Nat) : State :=
  let kind := s.rd SF_FUNC_KIND k
  let x := (s.sfChannels k).timers kind s.elapsed
  let y : SfFn := { x with
    testA := x.testA.map (fun t => t.see (!s.sfRaw (s.rd SF_FUNC_IN_A k)) (x.chB.dem || x.chC.dem) s.elapsed)
    testB := x.testB.map (fun t => t.see (!s.sfRaw (s.rd SF_FUNC_IN_B k)) (x.chA.dem || x.chC.dem) s.elapsed) }
  let s1 := (s.setSfn k y).wr SF_FSTAT_DEM k
    (8 * b2n y.chA.dem + 4 * b2n y.chB.dem + 2 * b2n y.chC.dem + b2n y.chD.dem)
  let s2 := if s1.twoHand k then s1.sfTwoHand k else s1.sfOther k
  s2.sfResetInput k

/-- Pulse sources are driven on outside their pulses (R454). -/
def State.sfSources (s : State) : State :=
  (List.range 24).foldl (fun s n =>
    let on := s.pulseSrc n && decide (mget (fun _ => 0) s.sf.dark n ≤ s.elapsed)
    { s with fd := { s.fd with sfPulse := mset (fun _ => false) n on s.fd.sfPulse } }) s

/-- The heartbeat on DD_SF, every 100 µs (R442). -/
def State.sfHeart (s : State) : State :=
  if s.fd.sfHbAt = 0 ∨ s.fd.sfHbAt + 80000 ≤ s.elapsed + 1 then { s with fd := { s.fd with sfHbAt := s.elapsed + 1 } } else s

/-- SF_EVALUATION_CYCLE (R439), once per sample of the inputs. -/
def execSfEvaluationCycle (s : State) : Res :=
  if !s.sfOn || s.sf.cycleAt == s.fieldIdx then .next s
  else
    let s1 : State := { s with sf := { s.sf with cycleAt := s.fieldIdx } }
    .next ((s1.sfFns.foldl State.sfEval s1).sfHeart.sfSources.sfOutputs)

/-- SF_HEARTBEAT_LOSS (R442): the field die, after 1 ms without a heartbeat. -/
def execSfHeartbeatLoss (s : State) : Res :=
  if s.fieldOn && s.fd.sfHbAt != 0 && !s.fd.sfLost && !s.flag FD_STAT_HOLD 0 && decide (s.fd.sfHbAt + 800000 ≤ s.elapsed + 1) then
    let ns := (List.range 24).filter (fun n => s.sfOwned n || s.pulseSrc n || s.rd SF_CFG_OTE 0 == n)
    .next (State.fdDrive { s with fd := { s.fd with
      sfLost := true
      sfOff := ns.foldl (fun m n => mset (fun _ => false) n true m) s.fd.sfOff } })
  else .next s

/-- SF_DIAGNOSTIC_FAILURE (R441, R442): cause 1 RAM, 2 ROM, 3 program flow, 4 clock; 0 a corrected single-bit error. -/
def execSfDiagnosticFailure (cause : Nat) (s : State) : Res :=
  if s.var == .cpx9616 || !s.fieldOn || !s.tu.running || decide (4 < cause) then .next s
  else if cause = 0 then .next (s.bump SF_STAT_SEC_CNT 0 1)
  else if s.flag SF_STAT_PFAULT 0 then .next s
  else
    let s1 := (s.wr SF_STAT_PFAULT 0 1).wr SF_STAT_PCAUSE 0 cause
    let s2 := s1.sfFns.foldl (fun s k => s.sfEnter k sfFault 7) s1
    .next (s2.sfOutputs.notify 0x39 4 3 cause 0 0 0)

/-- SF_DISCREPANCY_EXPIRY (R444). -/
def execSfDiscrepancyExpiry (fn : Nat) (s : State) : Res :=
  let x := s.sfn fn
  let lim := s.rd SF_FUNC_DISC_T fn * 800000 + 1
  if s.sfOn && decide (fn < 32) && decide (1 ≤ s.sfState fn) && decide (s.sfState fn ≤ 4)
      && (held x.disc0 lim s.elapsed || held x.disc1 lim s.elapsed) then .next (s.sfEnter fn sfFault 1).sfOutputs
  else .next s

/-! Test pulses (R454 to R456). -/

/-- Functions that a source feeds, and the timing of its pulse: the lowest-numbered one's. -/
def State.sfFed (s : State) (n : Nat) : List Nat :=
  s.sfFns.filter (fun k => s.rd SF_FUNC_TPA k == n || s.rd SF_FUNC_TPB k == n)

/-- A test of one channel begins, or is skipped while the channel reads demanded. -/
def State.sfTestBegin (s : State) (k : Nat) (b : Bool) (t : SfTest) : State :=
  let x := s.sfn k
  if (if b then x.chB.dem else x.chA.dem) then (s.bump SF_FSTAT_INCONC k 1).wr (if b then SF_FSTAT_TEST_B else SF_FSTAT_TEST_A) k 2
  else if b then s.setSfn k { x with testB := some { t with other := x.chA.dem || x.chC.dem, reset := x.phase == 2 } }
  else s.setSfn k { x with testA := some { t with other := x.chB.dem || x.chC.dem, reset := x.phase == 1 } }

/-- SF_TEST_PULSE (R454, R456): the source's pulse of this second, begun in the evaluation cycle of its instant, or one that a
function in TESTING waits for. -/
def execSfTestPulse (source : Nat) (s : State) : Res :=
  let fed := s.sfFed source
  let periodic := decide (20000000 * source + 500000 ≤ s.tu.ns) && decide (s.tu.ns < 20000000 * source + 510000) && mget (fun _ => 0) s.sf.pulseSec source != s.tu.sec + 1
  let resetDue := fed.any (fun k => s.sfState k == sfTesting && decide ((s.sfn k).due ≤ s.elapsed)
    && (((s.sfn k).phase == 1 && s.rd SF_FUNC_TPA k == source && (s.sfn k).testA.isNone)
      || ((s.sfn k).phase == 2 && s.rd SF_FUNC_TPB k == source && (s.sfn k).testB.isNone)))
  match fed with
  | [] => .next s
  | k0 :: _ =>
    if !s.sfOn || !s.pulseSrc source || decide (s.elapsed < mget (fun _ => 0) s.sf.dark source) || !(periodic || resetDue) then .next s
    else
      let stop := s.elapsed + s.rd SF_FUNC_TP_W k0 * 8000
      let t : SfTest := ⟨s.elapsed, stop, stop + s.rd SF_FUNC_TP_REC k0 * 8000, false, false, false⟩
      let s1 : State := { s with sf := { s.sf with
        dark := mset (fun _ => 0) source stop s.sf.dark
        pulseSec := if periodic then mset (fun _ => 0) source (s.tu.sec + 1) s.sf.pulseSec else s.sf.pulseSec } }
      let s2 := fed.foldl (fun s k => s.sfTestBegin k (s.rd SF_FUNC_TPA k != source) t) s1
      .next s2.sfSources.fdDrive

/-- A reset-time test passed: the other channel's, or RUN. -/
def State.sfTestNext (s : State) (k : Nat) (b : Bool) : State :=
  if s.sfState k != sfTesting then s
  else if !b && s.rd SF_FUNC_TPB k != 0x3F then s.setSfn k { s.sfn k with phase := 2, due := s.elapsed + 40000 }
  else s.sfEnter k sfRun 0

/-- SF_TEST_WINDOW_END (R455). -/
def execSfTestWindowEnd (fn : Nat) (chanB : Bool) (s : State) : Res :=
  let x := s.sfn fn
  let f := if chanB then SF_FSTAT_TEST_B else SF_FSTAT_TEST_A
  match if chanB then x.testB else x.testA with
  | none => .next s
  | some t =>
    if !s.sfOn || decide (s.elapsed < t.stop) then .next s
    else
      let low := !s.sfRaw (s.rd (if chanB then SF_FUNC_IN_B else SF_FUNC_IN_A) fn)
      let y : SfFn := if chanB then { x with testB := none, chB := if low then ⟨true, 0⟩ else x.chB }
        else { x with testA := none, chA := if low then ⟨true, 0⟩ else x.chA }
      let s1 := s.setSfn fn y
      let mine := t.reset && s1.sfState fn == sfTesting
      if !t.zero then
        let s2 := s1.wr f fn 3
        .next (if 1 ≤ s2.sfState fn ∧ s2.sfState fn ≤ 4 then s2.sfEnter fn sfFault (if chanB then 3 else 2) else s2).sfOutputs
      else if low || t.other then
        let s2 := (s1.wr f fn 2).bump SF_FSTAT_INCONC fn 1
        .next (if mine then s2.sfEnter fn sfStop 0 else s2).sfOutputs
      else
        let s2 := s1.wr f fn 1
        .next (if mine then s2.sfTestNext fn chanB else s2).sfOutputs

/-! Readback (R452). -/

/-- A readback failure of an output. -/
def State.sfOutFail (s : State) (n : Nat) : State :=
  let ks := s.sfNames n
  let s1 := s.notify 0x39 3 2 n (s.tchWord (fun k => ks.contains k)) 0 0
  let s2 := ks.foldl (fun s k => if s.sfState k = sfFault then s else s.sfEnter k sfFault 4) s1
  State.sfOutputs { s2 with sf := { s2.sf with oteOff := true } }

/-- SF_READBACK_CHECK (R452): 5 ms after a switch-off. -/
def execSfReadbackCheck (out : Nat) (s : State) : Res :=
  let t := mget (fun _ => 0) s.sf.checks out
  if s.sfOn && t != 0 && decide (t + 4000000 ≤ s.elapsed + 1) then
    let s1 : State := { s with sf := { s.sf with checks := mset (fun _ => 0) out 0 s.sf.checks } }
    .next (if s.flag FD_DO_BALL out then s1.sfOutFail out else s1)
  else .next s

/-- DARK_TEST_PULSE (R427); a pulse that fails on an owned output is a readback failure (R452). -/
def execDarkTestPulse (out : Nat) (fell : Bool) (s : State) : Res :=
  let r := s.darkPulse out fell
  .next (if r.2 && s.sfOn && s.sfOwned out then r.1.sfOutFail out else r.1)

/-! Configuration (R457). -/

/-- CRC-32C of words 0 to 6 of every function. -/
def State.sfCrc (s : State) : Nat :=
  crc32c ((List.range 32).flatMap (fun k => (List.range 7).map (fun w => s.word 0x39 0x10 k w)))

/-- Every enabled function is in FAULT with cause 0x06 while CRC differs from EXP_CRC. -/
def State.sfJudge (s : State) : State :=
  if s.rd SF_CFG_CRC 0 = s.rd SF_CFG_EXP_CRC 0 then
    (s.sfFns.filter (fun k => s.sfState k == sfFault && s.rd SF_FSTAT_FCAUSE k == 6)).foldl State.sfRestart s
  else (s.sfFns.filter (fun k => !(s.sfState k == sfFault && s.rd SF_FSTAT_FCAUSE k == 7))).foldl (fun s k => s.sfEnter k sfFault 6) s

/-- SF_CRC_RECOMPUTE (R457). -/
def execSfCrcRecompute (s : State) : Res :=
  if s.sfOn && s.sf.crcDue.isSome then
    .next (State.sfJudge (State.wr { s with sf := { s.sf with crcDue := none } } SF_CFG_CRC 0 s.sfCrc)).sfOutputs
  else .next s

/-- An input or output number, or none. -/
def numOr (top v : Nat) : Bool := decide (v < top) || v == 0x3F

/-- A pulse source named by TPA or TPB. -/
def sfSourceBad (p : State) (v : Nat) : Bool := v != 0x3F && !(decide (v < 24) && p.rd FD_DO_MODE v == 1)

/-- The checks of an enabled function. -/
def sfEnBad (p : State) (k : Nat) : Bool :=
  let kind := p.rd SF_FUNC_KIND k
  let tpa := p.rd SF_FUNC_TPA k
  let tpb := p.rd SF_FUNC_TPB k
  let rst := p.rd SF_FUNC_RST_DI k
  let auto := p.rd SF_FUNC_RST_MODE k == 1
  kind == 0 || decide (5 ≤ kind) || decide (48 ≤ p.rd SF_FUNC_IN_A k) || decide (48 ≤ p.rd SF_FUNC_IN_B k)
    || ((kind == 3 || (kind == 2 && p.flag SF_FUNC_LOCK_EN k)) && decide (48 ≤ p.rd SF_FUNC_IN_C k))
    || (kind == 3 && decide (48 ≤ p.rd SF_FUNC_IN_D k))
    || sfSourceBad p tpa || sfSourceBad p tpb || (tpa != 0x3F && tpa == tpb)
    || ((kind == 3 || kind == 4) && (tpa != 0x3F || tpb != 0x3F)) || (p.flag SF_FUNC_CONTACT k && tpb != 0x3F)
    || (kind == 1 && auto) || (if kind = 3 then auto || rst != 0x3F else rst == 0x3F)
    || (kind == 4 && (p.flag SF_FUNC_CONTACT k || decide (p.rd SF_FUNC_OSSD_TPW k < 100) || decide (2000 < p.rd SF_FUNC_OSSD_TPW k)))
    || (List.range 24).any (fun n => natBit (p.rd SF_FUNC_OUT_MASK k) n && p.rd FD_DO_MODE n != 0)
    || (p.flag SF_FUNC_PT_EN k && (match p.ptDef (p.rd SF_FUNC_PT k) with
        | some d => d.type != 0 || d.bind != 0
        | none => true))

def sfBad (p : State) (grp k : Nat) : Bool :=
  if grp = 1 then !numOr 24 (p.rd SF_CFG_OTE 0)
  else if grp = 0x10 then
    decide (2 ≤ p.rd SF_FUNC_RST_MODE k) || p.rd SF_FUNC_DEB k == 0 || decide (100 < p.rd SF_FUNC_DEB k)
      || decide (p.rd SF_FUNC_DISC_T k < 10) || decide (2000 < p.rd SF_FUNC_DISC_T k)
      || !numOr 48 (p.rd SF_FUNC_IN_A k) || !numOr 48 (p.rd SF_FUNC_IN_B k) || !numOr 48 (p.rd SF_FUNC_IN_C k)
      || !numOr 48 (p.rd SF_FUNC_IN_D k) || !numOr 48 (p.rd SF_FUNC_RST_DI k)
      || !numOr 24 (p.rd SF_FUNC_TPA k) || !numOr 24 (p.rd SF_FUNC_TPB k)
      || decide (p.rd SF_FUNC_TP_W k < 10) || decide (40 < p.rd SF_FUNC_TP_W k) || decide (100 < p.rd SF_FUNC_TP_REC k)
      || (p.flag SF_FUNC_EN k && sfEnBad p k)
  else false

/-- SF takes settings in COMMISSION and SAFE, and from BOOT's configuration. -/
def sfModeForbids (s : State) : Bool := !([Mode.commission, .safe, .boot].contains s.cmdMode)

/-- Withdraw the demand of a function's former status point. -/
def State.sfPointOff (s old : State) (k : Nat) : State :=
  if old.flag SF_FUNC_PT_EN k then s.setStand (old.rd SF_FUNC_PT k) 9 none else s

/-- A change commits: each function whose words change restarts, and the CRC is to be recomputed. -/
def State.sfCommit (s old : State) (grp k : Nat) : State :=
  let s0 : State := { s with sf := { s.sf with crcDue := some s.elapsed } }
  if grp = 0x10 ∧ (List.range 7).any (fun w => s.word 0x39 0x10 k w != old.word 0x39 0x10 k w) = true then
    let s1 := s0.sfPointOff old k
    if s1.flag SF_STAT_PFAULT 0 then
      (if s1.flag SF_FUNC_EN k then s1.sfEnter k sfFault 7 else s1.sfEnter k sfOff 0).sfOutputs
    else if s1.flag SF_FUNC_EN k then
      (if s1.rd SF_CFG_CRC 0 = s1.rd SF_CFG_EXP_CRC 0 then s1.sfRestart k else (s1.setSfn k SfFn.init).sfEnter k sfFault 6).sfOutputs
    else (s1.sfEnter k sfOff 0).sfOutputs
  else if grp = 1 then s0.sfJudge.sfOutputs
  else s0

/-- Every function enters STOP, owned outputs and pulse sources off (SENTINEL t3, Table 16.5). -/
def State.sfSentinel (s : State) : State :=
  let l := s.sfFns.filter (fun k => !(s.sfState k == sfFault && decide (6 ≤ s.rd SF_FSTAT_FCAUSE k)))
  let s1 := (l.foldl State.sfRestart s).sfOutputs
  State.fdDrive { s1 with fd := { s1.fd with sfPulse := [], sfHbAt := 0 }, sf := { s1.sf with dark := [] } }

/-- Functions need a reset after a wake or a cancelled entry (R42, R446). -/
def State.sfStart (s : State) : State :=
  (s.sfFns.filter (fun k => s.sfState k == sfStop)).foldl (fun s k => s.setSfn k { s.sfn k with needReset := true }) s

end Sys2Proof.Machine
end

