-- ==== Sys2Proof/Machine/Recipes.lean ====
section
/-! DEFINITION. The recipe engine (12_points_and_recipes.md): steps, lane ticks, RECIPE_CTL, errors, restarts. -/

namespace Sys2Proof.Machine

open Sys2Proof

/-! Lanes and steps. -/

def State.lane (s : State) (n : Nat) : RpLane := mget (fun _ => RpLane.init) s.rp.lanes n

def State.setLane (s : State) (n : Nat) (x : RpLane) : State :=
  { s with rp := { s.rp with lanes := mset (fun _ => RpLane.init) n x s.rp.lanes } }

/-- Words 0 to 4 of a step; step memory that holds nothing reads as zero. -/
def State.stepOf (s : State) (pc : Nat) : List W32 := mget (fun _ => []) s.rp.steps pc

/-- Fields of a step (Table 12.5). -/
def stKind (w : List W32) : Nat := (w.getD 0 0).get 31 28
def stLink (w : List W32) : Bool := (w.getD 0 0).get 27 27 == 1
def stCmp (w : List W32) : Nat := (w.getD 0 0).get 26 24
def stPoint (w : List W32) : Nat := (w.getD 0 0).get 22 0
def stVal (w : List W32) : Nat := (w.getD 1 0).toNat + (w.getD 2 0).toNat * 2 ^ 32
def stTicks (w : List W32) : Nat := (w.getD 3 0).toNat
def stTarget (w : List W32) : Nat := (w.getD 4 0).get 19 0

/-- A point that a SET or RAMP may name: defined, no mirror, not of kinds 0x1 to 0x6. -/
def stWritable (p : State) (i : Nat) : Bool :=
  match p.ptDef i with
  | some d => d.bind == 0 || decide (8 ≤ d.bind)
  | none => false

/-- The step's point, of the given definitions, suits the step (R349). -/
def stPointBad (p : State) (w : List W32) : Bool :=
  let i := stPoint w
  let ty := p.ptType i
  match stKind w with
  | 1 => !stWritable p i || !rawOk ty (stVal w)
  | 2 => !stWritable p i || ty == 0 || ty == 6
  | 3 => (p.ptDef i).isSome && !rawOk ty (stVal w)
  | 5 => (p.ptDef i).isSome && !rawOk ty (stVal w)
  | _ => false

/-- A step that breaks Table 12.5 by itself; eight words. -/
def stFormBad (w : List W32) : Bool :=
  let k := stKind w
  !(decide (1 ≤ k) && decide (k ≤ 6)) || (w.getD 0 0).get 23 23 != 0 || (w.getD 4 0).get 31 20 != 0
    || (w.getD 5 0) != 0 || (w.getD 6 0) != 0 || (w.getD 7 0) != 0
    || (if k = 3 ∨ k = 5 then decide (5 < stCmp w) else stCmp w != 0)
    || ((k == 4 || k == 6) && stPoint w != 0)
    || (k == 6 && ((w.getD 1 0).get 31 8 != 0 || (w.getD 2 0) != 0))
    || (if k = 2 then stTicks w == 0 else k != 3 && stTicks w != 0)
    || (!([3, 4, 5].contains k) && stTarget w != 0)

/-- The index of the first step that LOAD, or an image, refuses. -/
def stepsBad (p : State) (l : List (List W32)) : Option Nat :=
  (l.zipIdx.find? (fun e => stFormBad e.1 || stPointBad p e.1)).map (·.2)

/-- Steps of a buffer. -/
def stepsOf (ws : List W32) (n : Nat) : List (List W32) := (List.range n).map (fun k => (ws.drop (8 * k)).take 8)

/-- Write steps. -/
def State.putSteps (s : State) (first : Nat) (l : List (List W32)) : State :=
  { s with rp := { s.rp with steps := l.zipIdx.foldl (fun m e => mset (fun _ => []) (first + e.2) (e.1.take 5) m) s.rp.steps } }

/-- Mark the 256-step blocks of a range dirty (R352). -/
def State.dirtySteps (s : State) (first n : Nat) : State :=
  let d := (List.range n).foldl (fun m k => mset (fun _ => false) ((first + k) / 256) true m) s.rp.dirty
  { s with rp := { s.rp with dirty := d } }

/-! A tick (R346, R348). -/

/-- A tick in progress: the lane, its staged writes; `stop` with what ended the tick. -/
structure RpRun where
  x : RpLane
  out : List (Nat × Nat × Bool)
  /-- recipe error -/
  err : Option Nat
  /-- the lane reached END -/
  ended : Bool

/-- Stage a write: a later one to the same point takes the earlier one's place. -/
def RpRun.stage (r : RpRun) (i : Nat) (v : Nat × Bool) : RpRun :=
  { r with out := r.out.filter (fun w => w.1 != i) ++ [(i, v.1, v.2)] }

/-- Go on at a step. -/
def RpRun.to (r : RpRun) (pc : Nat) : RpRun := { r with x := { r.x with pc := pc, inStep := false, count := 0 } }

/-- What one step leads to: stop here, or go on with the step's LINK, or go on at once. -/
inductive RpNext where
  | halt (r : RpRun)
  | linked (r : RpRun)
  | again (r : RpRun)

def RpRun.fail (r : RpRun) (code : Nat) : RpNext := .halt { r with err := some code }

/-- The value of a RAMP at tick `j`, binary64. -/
def rampAt (start target j ticks : Nat) : Nat :=
  if j = ticks then target
  else fadd f64 start (fdiv f64 (fmul f64 (fsub f64 target start) (ofInt f64 j)) (ofInt f64 ticks))

/-- A step's condition on its latched point. -/
def State.stCond (s : State) (w : List W32) : Bool :=
  let r := s.ptRec (stPoint w)
  !r.bad && ptCmp (stCmp w) (s.ptType (stPoint w)) r.raw (stVal w)

/-- Run one step. -/
def State.rpStep (s : State) (r : RpRun) (w : List W32) : RpNext :=
  let x := r.x
  let i := stPoint w
  let known := (s.ptDef i).isSome
  match stKind w with
  | 1 =>
    if stPointBad s w then r.fail 1 else .linked ((r.stage i (stVal w, false)).to (x.pc + 1))
  | 2 =>
    if stPointBad s w then r.fail 1
    else
      let st := if x.inStep then x.start else toF64 (s.ptType i) (s.ptRec i).raw
      let j := if x.inStep then x.count + 1 else 1
      if !finite f64 st then r.fail 7
      else
        let r1 := r.stage i (fromF64 (s.ptType i) (rampAt st (stVal w) j (stTicks w)))
        if j < stTicks w then .halt { r1 with x := { x with inStep := true, start := st, count := j } }
        else .linked (r1.to (x.pc + 1))
  | 3 =>
    if !known || stPointBad s w then r.fail 1
    else
      let n := if x.inStep then x.count + 1 else 0
      if s.stCond w then .linked (r.to (x.pc + 1))
      else if 0 < stTicks w ∧ stTicks w ≤ n then
        if stTarget w = 0xFFFFF then .halt { r with x := { x with inStep := true, count := n }, err := some 4 }
        else .again (r.to (stTarget w))
      else .halt { r with x := { x with inStep := true, count := n } }
  | 4 =>
    if 8 ≤ x.stack.length then r.fail 2
    else .linked (RpRun.to { r with x := { x with stack := (x.pc + 1) :: x.stack } } (stTarget w))
  | 5 =>
    if !known || stPointBad s w then r.fail 1
    else if (s.ptRec i).bad then r.fail 5
    else .linked (r.to (if s.stCond w then stTarget w else x.pc + 1))
  | 6 =>
    let code := stVal w % 256
    match x.stack with
    | p :: t =>
      if code = 0 then .linked (RpRun.to { r with x := { x with stack := t } } p)
      else .halt { r with x := { x with state := 3, endCode := code, err := 8 }, ended := true }
    | [] =>
      .halt { r with x := { x with state := 3, endCode := code, err := (if code = 0 then x.err else 8) }, ended := true }
  | _ => r.fail 1

/-- Run steps: at most 64 in a tick. -/
def State.rpSteps (s : State) : Nat → RpRun → RpRun
  | 0, r => { r with err := some 6 }
  | n + 1, r =>
    let w := s.stepOf r.x.pc
    match s.rpStep r w with
    | .halt q => q
    | .linked q => if stLink w then s.rpSteps n q else q
    | .again q => s.rpSteps n q

/-- A recipe error (R350): ERROR, RECIPE_ERROR of class A, and RECIPE_ERR for the error task. -/
def State.rpError (s : State) (n : Nat) (x : RpLane) (code : Nat) : State :=
  ((s.setLane n { x with state := 4, err := code, lostErr := false }).notify 0x23 2 1 n code x.pc 0).freeCause 0x30 n code

/-- An operation of RECIPE_CTL at a tick: the state it leads to, none where it is not taken (R349). -/
def rpOp (op step : Nat) (x : RpLane) : Option RpLane :=
  match op with
  | 2 => if x.state = 0 ∨ x.state = 3 ∨ x.state = 4 then
      some { x with state := 1, pc := step, stack := [], count := 0, inStep := false, lostErr := false } else none
  | 3 => if x.state = 1 then some { x with state := 2 } else none
  | 4 => if x.state = 2 then some { x with state := 1 } else none
  | 5 => if x.state = 1 ∨ x.state = 2 then some { x with state := 0 } else none
  | _ => none

/-- Take the operations that wait for a tick at or before `t`. -/
def State.rpOps (s : State) (n t : Nat) : State :=
  let x := s.lane n
  let due := x.reqs.filter (fun r => decide (r.notBefore ≤ t))
  let s1 := s.setLane n { x with reqs := x.reqs.filter (fun r => decide (t < r.notBefore)) }
  due.foldl (fun s r =>
    match rpOp r.op r.step (s.lane n) with
    | some y => (s.setLane n y).settle (some r.cmd) .ok 0 0 (some (Stamp.ofTai t))
    | none => s.settle (some r.cmd) .modeForbids s.cmdMode.code 0 none) s1

/-- Run a lane for one tick; its writes reach the round that begins 50 µs later. -/
def State.rpRunLane (s : State) (n t : Nat) : State :=
  let x := s.lane n
  if x.state != 1 then s
  else if x.lostErr then s.rpError n x 3
  else
    let r := s.rpSteps 64 ⟨x, [], none, false⟩
    match r.err with
    | some e => s.rpError n r.x e
    | none =>
      let s1 := s.setLane n r.x
      let s2 : State := { s1 with rp := { s1.rp with out := s1.rp.out ++ [⟨n, t + 50000, r.out, x⟩] } }
      if r.ended then s2.notify 0x23 1 0 n r.x.endCode 0 0 else s2

/-- Lanes tick (R351). -/
def State.rpOn (s : State) : Bool :=
  s.umOn && s.mo.control && (s.mo.letClass != 2 || s.mo.letResumed) && (s.mo.mode == .commission || s.mo.mode == .run || s.mo.mode == .letMode)

/-- Tick length of a lane, ns. -/
def State.rpPeriod (s : State) (n : Nat) : Nat := if s.flag RP_LANE_FAST n then 250000 else 1000000

/-- RECIPE_TICK (R346): the tick whose boundary passed last, once, and not one of before the lanes tick again (R351). -/
def execRecipeTick (lane : Nat) (s : State) : Res :=
  let k := s.tai / s.rpPeriod lane
  if !s.rpOn || decide (64 ≤ lane) || !s.gridOk (s.rpPeriod lane) || (s.lane lane).tickAt == k + 1
      || decide (s.elapsedAt (k * s.rpPeriod lane) < s.rp.ticksFrom) then .next s
  else
    let t := k * s.rpPeriod lane
    let s1 := s.setLane lane { s.lane lane with tickAt := k + 1 }
    .next ((s1.rpOps lane t).rpRunLane lane t)

/-! RECIPE_CTL (R349). -/

def rpStepsObj : Nat := 0x23000003

/-- Operation of RECIPE_CTL. -/
def Cmd.rpOpOf (c : Cmd) : Nat := (c.par 0).get 3 0

/-- The command is RECIPE_CTL with this operation. -/
def isRp (op : Nat) (c : Cmd) : Bool := c.opcode == opRecipeCtl && c.rpOpOf == op

/-- Steps the MODE_FORBIDS rule of LOAD protects: PC and return indices of RUNNING and HELD lanes. -/
def State.rpHolds (s : State) (first n : Nat) : Bool :=
  (List.range 64).any (fun k =>
    let x := s.lane k
    (x.state == 1 || x.state == 2) && (x.pc :: x.stack).any (fun p => decide (first ≤ p) && decide (p < first + n)))

/-- RECIPE_CTL LOAD; a command whose operation no row names is refused here. -/
def execRecipeLoad (ring idx : Nat) (buf : Option (List W32)) (s : State) : Res :=
  s.runCmd ring idx (fun c => c.opcode == opRecipeCtl && !([2, 3, 4, 5].contains c.rpOpOf))
    (fun s c =>
      let n := c.bufLen / 32
      let first := (c.par 1).get 19 0
      let ws := buf.getD []
      { form := c.rpOpOf != 1 || (c.buffer 0 12 && c.bufLen % 32 == 0 && decide (32 ≤ c.bufLen)
          && decide (first + n ≤ 1048576))
        bad := if c.rpOpOf != 1 || c.objid != rpStepsObj || (c.par 0).get 31 4 != 0 || (c.par 1).get 31 20 != 0
          then some (c.objid, 0) else none
        auth := false
        modes := s.inMode modesCr
        own := if (s.reach c buf).isNone then some (.dmaFault, 0, 0)
          else if crc32c (ws.take (8 * n)) != (c.par 2).toNat then some (.badObject, c.objid, 0)
          else match stepsBad s (stepsOf ws n) with
            | some k => some (.imageInvalid, 32 * k, 0)
            | none => if s.rpHolds first n then some (.modeForbids, s.cmdMode.code, 0) else none })
    (fun s c =>
      let n := c.bufLen / 32
      let first := (c.par 1).get 19 0
      ((s.putSteps first (stepsOf (buf.getD []) n)).dirtySteps first n).done c 0 0 0 0)

/-- Checks of a lane operation: the lane, the parameters, the state it needs. -/
def laneChecks (op : Nat) (s : State) (c : Cmd) : Checks :=
  { form := c.inline (if op = 2 then 8 else 4)
    bad := if objUnit c.objid != 0x23 || objGrp c.objid != 1 || decide (64 ≤ objInst c.objid) || (c.par 0).get 31 4 != 0
        || (op == 2 && (c.par 1).get 31 20 != 0)
      then some (c.objid, 0) else none
    auth := false
    modes := s.inMode modesCr
    own := if (rpOp op 0 (s.lane (objInst c.objid))).isNone then some (.modeForbids, s.cmdMode.code, 0) else none }

/-- A lane operation waits for its tick: the first at least 10 µs after the fetch. -/
def State.laneAsk (s : State) (op : Nat) (c : Cmd) : State :=
  let n := objInst c.objid
  let x := s.lane n
  (s.setLane n { x with reqs := x.reqs ++ [⟨op, (c.par 1).get 19 0, c.ref, c.fetchAt + 10000⟩] }).start c

/-- RECIPE_CTL START. -/
def execRecipeStart (ring idx : Nat) (s : State) : Res := s.runCmd ring idx (isRp 2) (laneChecks 2) (fun s c => s.laneAsk 2 c)

/-- RECIPE_CTL HOLD. -/
def execRecipeHold (ring idx : Nat) (s : State) : Res := s.runCmd ring idx (isRp 3) (laneChecks 3) (fun s c => s.laneAsk 3 c)

/-- RECIPE_CTL RESUME. -/
def execRecipeResume (ring idx : Nat) (s : State) : Res := s.runCmd ring idx (isRp 4) (laneChecks 4) (fun s c => s.laneAsk 4 c)

/-- RECIPE_CTL CANCEL. -/
def execRecipeCancel (ring idx : Nat) (s : State) : Res := s.runCmd ring idx (isRp 5) (laneChecks 5) (fun s c => s.laneAsk 5 c)

/-- Drop a command's lane operation (ABORT). -/
def State.laneDrop (s : State) (cmd : Nat × Nat) : State :=
  (List.range 64).foldl (fun s n =>
    let x := s.lane n
    if x.reqs.any (fun r => r.cmd == cmd) then s.setLane n { x with reqs := x.reqs.filter (fun r => r.cmd != cmd) } else s) s

/-! Modes and restarts (R351, R352). -/

/-- SAFE: RUNNING lanes become HELD. -/
def State.rpHoldAll (s : State) : State :=
  (List.range 64).foldl (fun s n => if (s.lane n).state = 1 then s.setLane n { s.lane n with state := 2 } else s) s

/-- A Let L2 trigger discards the tick in progress with its writes: the lane stands where it stood before the tick. -/
def State.rpDiscard (s : State) : State :=
  s.rp.out.foldl (fun s o => s.setLane o.lane { o.before with
    reqs := (s.lane o.lane).reqs, tickAt := (s.lane o.lane).tickAt, lost := (s.lane o.lane).lost })
    { s with rp := { s.rp with out := [] } }

/-- A cold start: every lane IDLE, step memory kept; operations that wait for a tick wait on. -/
def State.rpCold (s : State) : State :=
  { s with rp := { s.rp with
    lanes := (s.rp.lanes.filter (fun e => !e.2.reqs.isEmpty)).map (fun e =>
      (e.1, { RpLane.init with reqs := e.2.reqs, tickAt := e.2.tickAt }))
    out := [] } }

/-- A warm restart after power loss: step memory holds the committed image's steps, and no operation waits; a lane, not IDLE, in a
block that LOAD wrote comes back in ERROR with RESUME_LOST. -/
def State.rpWarm (s : State) (steps : List (Nat × List (List W32))) : State :=
  let dirty := s.rp.dirty
  let s1 : State := { s with rp := { s.rp with steps := [], dirty := [], out := [] } }
  let s2 := steps.foldl (fun s e => s.putSteps e.1 e.2) s1
  (List.range 64).foldl (fun s n =>
    let x : RpLane := { s.lane n with reqs := [] }
    if x.state != 0 && (x.pc :: x.stack).any (fun p => mget (fun _ => false) dirty (p / 256)) then s.rpError n x 9 else s.setLane n x) s2

/-- The steps of a configuration image take effect: its ranges are written, and no block counts as written by LOAD. -/
def State.rpApply (s : State) (steps : List (Nat × List (List W32))) : State :=
  steps.foldl (fun s e => s.putSteps e.1 e.2) { s with rp := { s.rp with dirty := [] } }

/-! Settings and what the objects show (R353). -/

/-- RP_LANE.FAST is written only while the lane is IDLE, ENDED or ERROR. -/
def rpModeForbids (s : State) (r : WReq) : Bool :=
  r.grp == 1 && r.touches RP_LANE_FAST && (let x := s.lane r.i; x.state == 1 || x.state == 2)

/-- A word of RP_LSTAT. -/
def State.rpLstat (s : State) (n w : Nat) : Nat :=
  let x := s.lane n
  if w = 0 then x.state * 2 ^ 29 + x.stack.length % 16 * 2 ^ 25 + x.pc % 2 ^ 20
  else if w = 1 then x.err * 2 ^ 24 + x.endCode * 2 ^ 16 + x.lost
  else x.count

/-- RP_STEPS.DIRTY. -/
def State.rpDirty (s : State) : Nat := min 4095 s.rp.dirty.length

end Sys2Proof.Machine
end

