-- ==== Sys2Proof/Machine/Signals.lean ====
section
/-! DEFINITION. The commands on signal paths: sample streams (R135, R137, R166), injection (R134), coefficient bank swaps
(R155, R251). -/

namespace Sys2Proof.Machine

open Sys2Proof

/-! Streams. -/

/-- STREAM_OPEN (R135, R166). -/
def execStreamOpen (ring idx : Nat) (s : State) : Res :=
  s.runCmd ring idx (isOp opStreamOpen)
    (fun s c =>
      let u := objUnit c.objid
      let named := (u == 0x08 && objGrp c.objid == 0x10) || (u == 0x09 && objGrp c.objid == 1)
      { form := c.inline 8
        bad := if !named || objUnknown u (objGrp c.objid) (objInst c.objid) || s.streamBad c then some (c.objid, 0) else none
        auth := false
        modes := s.inMode modesTrain })
    State.streamOpen

/-- STREAM_CLOSE (R135): the ring must carry a stream that is not already closing. -/
def execStreamClose (ring idx : Nat) (s : State) : Res :=
  s.runCmd ring idx (isOp opStreamClose)
    (fun s c =>
      let live := match s.stream ((c.par 0).get 5 0) with
        | some st => st.closing.isNone
        | none => false
      { form := c.inline 4
        bad := if (c.par 0).get 31 6 != 0 || !live then some (c.objid, 0) else none
        auth := false
        modes := s.inMode modesAll })
    State.streamClose

/-! Injection. -/

/-- The channels of a core that a set of positions names. -/
def injChans (core mask : Nat) : List Nat := ((List.range 4).filter (fun p => natBit mask p)).map (· + 4 * core)

/-- Start or stop counts as a gain change of the injected channels (R134). -/
def State.injChange (s : State) (core mask : Nat) : State :=
  s.each (injChans core mask) (fun s c => s.evGain c s.tai)

/-- The inputs of a core are connected again. -/
def State.injStop (s : State) (core : Nat) : State :=
  match (s.afCore core).inj with
  | none => s
  | some j => (State.setAfCore s.keepBefore core { s.afCore core with inj := none }).injChange core j.mask

/-- Leaving COMMISSION stops every injection (R29). -/
def State.stopInjections (s : State) : State := s.each (List.range (s.byVar 16 8 4)) State.injStop

def isCoreObj (c : Cmd) : Bool := objUnit c.objid == 0x08 && objGrp c.objid == 1

/-- The kind of object an injection command names: a core. -/
def State.coreChecks (_s : State) (c : Cmd) (k : Checks) : Checks :=
  { k with
    bad := if !isCoreObj c || objUnknown 0x08 1 (objInst c.objid) then some (c.objid, 0) else k.bad }

/-- INJECT_START (R134). -/
def execInjectStart (ring idx : Nat) (s : State) : Res :=
  s.runCmd ring idx (isOp opInjectStart)
    (fun s c => s.coreChecks c
      { form := c.inline 12
        bad := if (c.par 0).get 31 4 != 0 || (c.par 1).get 29 0 != 0 || (c.par 1).get 31 30 == 3 || (c.par 2).get 15 0 == 0 then
            some (c.objid, 0) else none
        auth := true
        modes := s.inMode modesC
        own := if (s.afCore (objInst c.objid)).inj.isSome then some (.modeForbids, s.cmdMode.code, 0) else none })
    (fun s c =>
      let k := objInst c.objid
      let j : Inject :=
        { mask := (c.par 0).get 3 0, wave := (c.par 1).get 31 30, amp := signedOf 16 ((c.par 2).get 31 16), freq := (c.par 2).get 15 0
          start := s.tai }
      ((s.setAfCore k { s.afCore k with inj := some j }).injChange k j.mask).done c 0 0 0 0)

/-- INJECT_STOP (R134); with no injection running it changes nothing. -/
def execInjectStop (ring idx : Nat) (s : State) : Res :=
  s.runCmd ring idx (isOp opInjectStop)
    (fun s c => s.coreChecks c { form := !c.buf, auth := true, modes := s.inMode modesAll })
    (fun s c =>
      if (s.afCore (objInst c.objid)).inj.isSome then (s.injStop (objInst c.objid)).done c 0 0 0 0 else s.answer c 0 0 0 0)

/-! Bank swaps. -/

/-- A variant without swappable filter banks lacks the swaps of FC, and one without LE every swap (R3). -/
def State.swapAbsent (s : State) (c : Cmd) : Option Nat :=
  if (objUnit c.objid == 0x09 && s.var != .cpx9640) || s.unitAbsent 0x18 then some c.objid else none

/-- BANK_SWAP (R3, R155, R251): of an FC group, an LE loop, or an LE group.  DEDUCED (assumption 71): R167 accepts a swap of FC in
TRAIN too, where Table 3.10 leaves TRAIN out. -/
def execBankSwap (ring idx : Nat) (s : State) : Res :=
  s.runCmd ring idx (isOp opBankSwap)
    (fun s c =>
      let u := objUnit c.objid
      let g := objGrp c.objid
      let i := objInst c.objid
      let named := (u == 0x09 && g == 4) || (u == 0x18 && (g == 1 || g == 5))
      { form := c.inline 8
        absent := s.swapAbsent c
        bad := if !named || objUnknown u g i || (c.par 0).get 31 1 != 0 || !s.boundaryOk (c.par 1).toNat then some (c.objid, 0) else none
        auth := true
        modes := s.inMode (if u == 0x09 then modesTrain else modesCrs) })
    (fun s c => if objUnit c.objid == 0x09 then s.fcBankSwap c else s.leBankSwap c)

end Sys2Proof.Machine
end

