-- ==== Sys2Proof/Machine/Store.lean ====
section
/-! DEFINITION. The continuity store and the continuity memory die: the cut, slot writes, the journal, warm and cold starts
of the control partition (13_continuity_and_let.md, R355 to R367). -/

namespace Sys2Proof.Machine

open Sys2Proof

/-! The journal (R358). -/

/-- Journal a record; the journal holds 16,384. -/
def State.journal (s : State) (kind : JKind) (slot : Bool) (mode cause : Nat) : State :=
  let r : JRec := ⟨s.cs.jseq, kind, slot, mode, cause, s.now⟩
  let old := if s.cs.journal.length < 16384 then s.cs.journal else s.cs.journal.drop 1
  { s with cs := { s.cs with journal := old ++ [r], jseq := (s.cs.jseq + 1) % 2 ^ 32 } }

/-- The newest record of a kind. -/
def State.newestOf (s : State) (kind : JKind) : Option JRec := s.cs.journal.reverse.find? (fun r => r.kind == kind)

/-- The slot that holds the newest complete image. -/
def State.newestSlot (s : State) : Option Bool := (s.newestOf .writeDone).map (·.slot)

def State.slotState (s : State) (b : Bool) : SlotState := if b then s.cs.slotB else s.cs.slotA
def State.slotImage (s : State) (b : Bool) : Option CsImage := if b then s.cs.imgB else s.cs.imgA

/-- Set the state of a slot, and what it holds when the write completed. -/
def State.setSlot (s : State) (b : Bool) (st : SlotState) (img : Option CsImage) : State :=
  if b then { s with cs := { s.cs with slotB := st, imgB := img } } else { s with cs := { s.cs with slotA := st, imgA := img } }

/-! Store blocks (R355, R357, Table 13.1). -/

/-- Blocks of the regions kept continuously: LG_DATA and LG_TASKS, RP_STATE. -/
def continuousBlock (b : Nat) : Bool := (decide (16 ≤ b) && decide (b < 1136)) || (decide (2512 ≤ b) && decide (b < 2544))

/-- The owning engine has rewritten a bad block (R357): 1 ms after its mark, unless a Let L2 held the engine. -/
def State.rewritten (s : State) (e : Nat × Nat) : Bool :=
  continuousBlock e.1 && decide (e.2 + 800000 ≤ s.elapsed) && !(s.mo.letClass == 2 && decide (s.mo.letL2At ≤ e.2))

/-- Blocks marked bad now. -/
def State.badNow (s : State) : List (Nat × Nat) := s.cs.bad.filter (fun e => !s.rewritten e)

/-- The store is there: SDRAM is trained. -/
def State.storeOn (s : State) : Bool := s.tu.running && s.mo.sdram == some true

/-- The block is marked bad; STORE_ERROR with its class B error. -/
def State.blockBad (s : State) (block : Nat) : State :=
  if s.badNow.any (fun e => e.1 == block) then s
  else State.notify { s with cs := { s.cs with bad := s.badNow ++ [(block, s.elapsed)] } } 0x28 3 2 block 0 0 0

/-- STORE_BLOCK_ERROR (R357, R549): the block fails its CRC, or the port reads a beat of it, whose code corrects one symbol and
gives the block up beyond that. -/
def execStoreBlockError (block : Nat) (beat : Option SdBeat) (s : State) : Res :=
  if !s.storeOn || decide (3072 ≤ block) then .next s
  else match beat with
    | none => .next (s.blockBad block)
    | some b =>
      match sdRead b with
      | .uncorrectable _ => .next ((s.sdJudge b).blockBad block)
      | _ => .next (s.sdJudge b)

/-! The cut (R359). -/

/-- Status words that the store keeps of LE, AX, LG and UM. -/
def keptWord (k : Nat) : Bool :=
  let u := k / 4096 / 65536 / 256
  let g := k / 4096 / 65536 % 256
  (u == 0x18 && (g == 4 || g == 5)) || (u == 0x19 && g == 2) || (u == 0x20 && (g == 2 || g == 3 || g == 4)) || (u == 0x21 && g == 2)

/-- The image of the control state as it stands. -/
def State.image (s : State) (mode cause : Nat) : CsImage :=
  { mode := mode, cause := cause, time := s.now, logicCrc := s.lg.committed.map (·.crc)
    m := s.lg.m, q := s.lg.q, tasks := s.lg.tasks, causes := s.lg.causes, merged := s.lg.merged, mono := s.mono
    loops := s.le.loops, axes := s.le.axes, stand := s.um.stand, umQ := s.um.q, qOut := s.um.qOut
    subs := (s.listed 0x41 3 0).filter (fun n => s.rd RB_STNST_STATE n == 2)
    recs := s.pd.recs.filter (fun e => match s.ptDef e.1 with
      | some d => d.retain
      | none => false)
    lanes := s.rp.lanes, dirty := s.rp.dirty, regs := s.regs.filter (fun e => keptWord e.1), key := s.sc.keyNo }

/-- Loops and axes complete the sample in flight. -/
def State.landSamples (s : State) : State :=
  let s1 := s.loops.foldl (fun s n => s.loopApply n s.tai) s
  s1.axisList.foldl (fun s n => s.axisApply n s.tai) s1

/-- Control stops at its boundaries: open cycles abandoned, the tick in progress discarded, samples in flight completed. -/
def State.stopControl (s : State) : State :=
  let s1 := s.dropCycles.rpDiscard.landSamples
  { s1 with mo := { s1.mo with control := false }, lg := { s1.lg with running := false } }

/-- A consistent cut: control stops, the Umpire registers no writes to points, the at-cut regions are copied and sealed. -/
def State.takeCut (s : State) (mode cause : Nat) : State :=
  let s1 := s.stopControl
  { s1 with cs := { s1.cs with
    cut := true, bad := s1.badNow.filter (fun e => continuousBlock e.1), sealed := some (s1.image mode cause) } }

/-! Slot writes (R360). -/

/-- The slot that the next write takes. -/
def State.nextSlot (s : State) : Bool :=
  match s.newestSlot with
  | some b => !b
  | none => s.cs.slotA == .failed

/-- Begin a slot write: WRITE_START, and the slot is incomplete. -/
def State.writeStart (s : State) (mode cause : Nat) : State :=
  let b := s.nextSlot
  let s1 := (s.journal .writeStart b mode cause).setSlot b .incomplete none
  { s1 with cs := { s1.cs with writing := some ⟨b, cause, s.elapsed⟩ } }

/-- A slot write failed: `st` says whether a bad store block stopped it or the memory failed. -/
def State.writeFailed (s : State) (w : CsWrite) (st : SlotState) (block : Nat) : State :=
  let s1 := s.setSlot w.slot st none
  let both := s1.cs.slotA == .failed && s1.cs.slotB == .failed
  let s2 : State := { s1 with cs := { s1.cs with
    writing := none, pfFailed := s1.cs.pfFailed || w.cause == 1, dead := s1.cs.dead || both } }
  s2.notify 0x28 2 (if both then 3 else 2) (b2n w.slot) block 0 0

/-- SLOT_WRITE_DONE (R360): the read-back of every block was good (`ok`), or failed first at `block`; `us` is the duration. -/
def execSlotWriteDone (ok : Bool) (us block : Nat) (s : State) : Res :=
  match s.cs.writing, s.cs.sealed with
  | some w, some img =>
    match s.badNow with
    | e :: l => .next (s.writeFailed w .incomplete ((l.map (·.1)).foldl min e.1))
    | [] =>
      if !ok then .next (s.writeFailed w .failed block)
      else
        let s1 := (s.journal .writeDone w.slot img.mode w.cause).setSlot w.slot .complete (some img)
        let s2 : State := { s1 with cs := { s1.cs with writing := none } }
        let s3 := (s2.wr CS_STAT_WRITE_US 0 us).wr CS_STAT_WRITE_SEC 0 s2.now.sec
        let s4 := s3.notify 0x28 1 0 (b2n w.slot) w.cause us 0
        .next (if w.cause = 1 then s4.pfMark else s4)
  | _, _ => .next s

/-! Starting control (R364 to R366). -/

/-- The newest image would resume, the outage apart (CS_STAT.RESUMABLE). -/
def State.resumable (s : State) : Option (Bool × CsImage) :=
  match s.cs.journal.getLast? with
  | some r =>
    if (r.kind == .writeDone || r.kind == .pfMark) && !s.cs.dead && s.slotState r.slot == .complete then
      match s.slotImage r.slot with
      | some img =>
        if (img.mode == 3 || img.mode == 4) && s.sc.secrets && img.key == s.sc.keyNo
            && img.logicCrc == s.lg.committed.map (·.crc) then some (r.slot, img)
        else none
      | none => none
    else none
  | none => none

/-- TAI nanoseconds by the real-time counter. -/
def State.rtcTai (s : State) : Nat := s.kp.rtcSec * 1000000000 + s.kp.rtcTick * 1000000000 / 32768

/-- The outage since the slot's journal time, ns. -/
def State.outage (s : State) : Nat :=
  match s.newestOf .writeDone with
  | some r => s.rtcTai - r.time.tai
  | none => 0

/-- A warm restart is possible: the image loaded in BOOT, with its slot. -/
def State.warmImage (s : State) : Option (Bool × CsImage) :=
  match s.resumable with
  | some x =>
    if s.cs.loaded == some x.2 && decide (s.outage ≤ s.rd CS_CFG_MAX_GAP 0 * 1000000000) then some x else none
  | none => none

/-- Tasks may run: an image is active and a core lives. -/
def State.logicReady (s : State) : Bool := s.lg.active.isSome && !s.liveCores.isEmpty

/-- Control runs from here, scan classes and recipe lanes from their first boundary; its first output write is still to come. -/
def State.controlOn (s : State) : State :=
  { s with
    mo := { s.mo with control := true, firstWrite := true }
    cs := { s.cs with cut := false }
    pd := { s.pd with scanFrom := s.elapsed }
    rp := { s.rp with ticksFrom := s.elapsed } }

/-- Loops come back (R365): TUNE in HOLD, CLOSED through its bumpless entry; what asked for a state or a swap is gone. -/
def State.loopsBack (s : State) : State :=
  s.loops.foldl (fun s n =>
    let x := s.loop n
    let st := s.loopState n
    let s1 := s.setLoop n { x with
      tune := none, req := none, flying := false, entry := st == 4 || x.entry
      swap := x.swap.map (fun w => { w with cmd := (64, 0) }) }
    if st = 6 then s1.wr LE_STAT_STATE n 1 else s1) s

/-- Axes come back (R365): a capture is gone; then the position feedback decides. -/
def State.axesBack (s : State) : State :=
  (s.axisList.foldl (fun s n =>
    let x := s.axis n
    let s1 := s.setAxis n { x with cap := none, req := none, flying := false }
    if s.axisState n = 6 then s1.wr AX_STAT_STATE n 1 else s1) s).axPosLost true

/-- COLD_STARTED and CS_STAT.LAST_START; a resumable image is consumed (R366). -/
def State.coldStart (s : State) (cause : Nat) : State :=
  let s1 := match s.resumable with
    | some x => s.journal .consumed x.1 x.2.mode 0
    | none => s
  let s2 := s1.clearForces.lgCold.pointsCold.rpCold.leCold.axCold
  let s3 : State := { s2.controlOn with cs := { s2.controlOn.cs with consume := none } }
  (s3.wr CS_STAT_LAST_START 0 0).notify 0x28 5 0 cause 0 0 0

/-- The status bits of a kept word come back. -/
def State.backWord (s : State) (k : Nat) (v : W32) : State :=
  let cur := mget regDefault s.regs k
  let mask := match findObj (k / 4096 / 65536 / 256) (k / 4096 / 65536 % 256) with
    | some o => maskOfFields (fun a => a == .ro || a == .w1c) (k % 4096) o.fields
    | none => 0
  { s with regs := mset regDefault k (BitVec.ofNat 32 (blend cur.toNat mask v.toNat)) s.regs }

/-- Stations recorded in Substitute stay there (Table 13.1, R492); the others start Live. -/
def State.subsBack (s : State) (subs : List Nat) : State :=
  subs.foldl (fun s n => s.setStn n { s.stn n with starting := false }) s

/-- Every region of Table 13.1 comes back from an image after a power loss. -/
def State.restore (s : State) (img : CsImage) (gapNs : Nat) : State :=
  let s0 := s.clearForces.pointsCold
  let steps := match s0.mb.committed with
    | some im => im.steps
    | none => []
  let recs := img.recs.foldl (fun m e => match s0.ptDef e.1 with
    | some d => if d.retain then mset (fun _ => PtRec.zero) e.1 e.2 m else m
    | none => m) s0.pd.recs
  let s1 : State := { s0 with
    lg := { s0.lg with
      m := img.m, q := img.q, tasks := img.tasks, causes := img.causes, merged := img.merged, holdTo := 0
      monoBase := some (Int.ofNat s0.elapsed - Int.ofNat (img.mono + gapNs * 4 / 5)) }
    le := { s0.le with
      loops := img.loops.filter (fun e => s0.flag LE_LOOP_EN e.1)
      axes := (img.axes.filter (fun e => s0.flag AX_AXIS_EN e.1)).map (fun e => (e.1, { e.2 with began := false })) }
    um := { s0.um with stand := img.stand, q := img.umQ, qOut := img.qOut, qPast := [] }
    pd := { s0.pd with recs := recs }
    rp := { s0.rp with lanes := img.lanes, dirty := img.dirty } }
  let s2 := img.regs.foldl (fun s e => s.backWord e.1 e.2) (s1.mapBump s0)
  (s2.rpWarm steps).subsBack img.subs

/-- Control resumes from the state it holds (R365): RESUMED first on every task. -/
def State.resumeControl (s : State) (slot : Option Bool) (start gapMs : Nat) : State :=
  let s1 := s.loopsBack.axesBack
  let s2 : State := { s1.controlOn with lg := { s1.lg with running := s1.logicReady } }
  let s3 : State := (State.lgResumed { s2 with cs := { s2.cs with consume := slot } } 3 gapMs).lgShow
  (s3.wr CS_STAT_LAST_START 0 start).notify 0x28 4 0 3 gapMs 0 0

/-- A warm resume at TRAIN exit (R364, R365). -/
def State.warmStart (s : State) (slot : Bool) (img : CsImage) : State :=
  (s.restore img s.outage).resumeControl (some slot) 1 (s.outage / 1000000)

/-- At the first control output write, an image that control resumed from is consumed (R365, R42). -/
def State.firstOutput (s : State) : State :=
  let s1 : State := { s with mo := { s.mo with firstWrite := false } }
  match s1.cs.consume with
  | some b => State.journal { s1 with cs := { s1.cs with consume := none } } .consumed b s1.mo.mode.code 0
  | none => s1

/-! Power fail (R361 to R363). -/

/-- The mode a cut is recorded under: the mode a Let left, RUN for a SENTINEL entry. -/
def State.cutMode (s : State) : Nat :=
  if s.mo.mode == .letMode then s.mo.letFrom.code else if s.mo.mode == .sentinel then 4 else s.mo.mode.code

/-- The warning stands from now. -/
def State.pfTake (s : State) : State :=
  let s1 := s.pfMark
  { s1 with cs := { s1.cs with pfAt := some s.elapsed, pfFailed := false }, ar := { s1.ar with flush := true } }

/-- A SENTINEL entry that has done `k` steps and whose continuity write (t2) is still to come or under way. -/
def State.beforeT2 (s : State) : Bool :=
  match s.mo.sent with
  | .entering k => decide (k < 2) || (k == 2 && s.cs.writing.isSome)
  | _ => false

/-- POWER_FAIL_WARNING (R361, R362): PFW_N low for 10 µs. -/
def execPowerFailWarning (s : State) : Res :=
  if s.mo.mode == .keeper || s.mo.mode == .boot || !s.mo.rails || !s.mo.resetN || s.cs.pfAt.isSome then .next s
  else if s.mo.mode == .sentinel && !s.beforeT2 then
    let s1 := s.pfTake
    .next (match s1.newestSlot with
      | some b => s1.journal .pfMark b 4 1
      | none => s1)
  else
    let s1 := (s.pfTake.lgCancel 5)
    let s2 := if s1.cs.writing.isSome then s1 else (s1.takeCut s1.cutMode 1).writeStart s1.cutMode 1
    .next (if s2.mo.mode == .sentinel then { s2 with mo := { s2.mo with sentHalt := true } } else s2)

/-- The warning is over. -/
def State.pfOver (s : State) : State :=
  { s with cs := { s.cs with pfAt := none }, ar := { s.ar with flush := false } }

/-- Milliseconds since the warning. -/
def State.pfGap (s : State) : Nat :=
  match s.cs.pfAt with
  | some t => (s.elapsed - t) / 800000
  | none => 0

/-- Control after the power returned: resumed from the image just written, or started cold where its write failed, for a
cause that the manual does not number. -/
def State.pfResume (s : State) : State :=
  if s.cs.pfFailed then s.drawn.coldStart s.freeWord.toNat
  else s.clearForces.resumeControl s.newestSlot 2 s.pfGap

/-! CS_STAT (Table 13.12). -/

def State.csStat (s : State) (w : Nat) : W32 :=
  let old := s.word 0x28 2 0 w
  if w = 0 then
    old ||| BitVec.ofNat 32 (s.cs.slotA.code * 2 ^ 30 + s.cs.slotB.code * 2 ^ 28 + b2n (s.newestSlot == some true) * 2 ^ 27
      + b2n s.resumable.isSome * 2 ^ 26 + min 255 s.badNow.length * 2 ^ 16)
  else old

end Sys2Proof.Machine
end

