-- ==== Sys2Proof/Machine/Modes.lean ====
section
/-! DEFINITION. Modes and their transitions (02_modes_and_startup.md, R28 to R34), the error controller (R374 to R377), and
TRAIN exit (R53 to R55). -/

namespace Sys2Proof.Machine

open Sys2Proof

/-! Changing mode. -/

/-- COMMISSION, or a Let taken from it (R29). -/
def State.inCommission (s : State) : Bool :=
  s.mo.mode == .commission || (s.mo.mode == .letMode && s.mo.letFrom == .commission)

/-- Leaving COMMISSION: forces and injections end, and what only COMMISSION permits (R29). -/
def State.leaveCommission (s : State) : State := s.capModeEnd.clearForces.resolveOutputs.stopInjections.tuneModeEnd

/-- The mode code changes (R28, R30): one cause, one record, the Scoreboard cause; a command that waited for the change is
answered, with BUSY_RETRY when another transition took its place (R32, R556).  A device bound by R34 that returns to RUN leaves it
at its next boundary (R531). -/
def State.setMode (s : State) (m : Mode) (cause : Nat) : State :=
  let old := s.mo.mode
  let left := s.inCommission && m != .commission && m != .letMode
  let s1 : State := { s with mo := { s.mo with
    mode := m, prev := old, cause := cause, entry := s.now, pend := none, pendCmd := none } }
  let s2 := if left then s1.leaveCommission else s1
  let s3 := if s.mo.pend == some m then s2.settle s.mo.pendCmd .ok m.code 0 (some s.now)
    else s2.settle s.mo.pendCmd .busyRetry 0 0 none
  let s4 : State := if m == .run && s3.boundByR34 then { s3 with mo := { s3.mo with pend := some .commission } } else s3
  (s4.notify 0x02 1 0 old.code m.code cause 0).sbCause HE_INTCTL_SB_MODE 0

/-- Logic cycles are open. -/
def State.cyclesOpen (s : State) : Bool := s.lgTasks.any (fun n => (s.lgTask n).open_.isSome)

/-- A pending change between RUN and COMMISSION takes place at a logic cycle boundary (Table 2.2); an opened device does not
go to RUN (R34). -/
def State.modeBoundary (s : State) : State :=
  match s.mo.pend with
  | some m =>
    if !(s.mo.mode == .run || s.mo.mode == .commission) then s
    else if m == .run && s.boundByR34 then
      (State.settle { s with mo := { s.mo with pend := none, pendCmd := none } } s.mo.pendCmd .modeForbids s.mo.mode.code 0 none)
    else s.setMode m 3
  | none => s

/-! SAFE. -/

/-- Passes and paths start again after SENTINEL (R42, R209): THERM has cooled since t5, and the watchdog of R21 counts from here. -/
def State.pathsBack (s : State) : State :=
  let s1 := s.peWake (s.tai - s.mo.sentPass)
  State.pathsStart { s1 with pe := { s1.pe with lastPass := s1.elapsed } } s.tai

/-- What a SENTINEL entry stopped beyond control starts again (R42, t5 to t3): paths, heartbeat and service. -/
def State.sentUndo (s : State) : State :=
  match s.mo.sent with
  | .entering k =>
    let s1 := if 5 ≤ k then s.pathsBack else s
    let mo : Modes := { s1.mo with sent := .out, sentHalt := false, heartbeat := s1.mo.heartbeat || decide (5 ≤ k), captain := true }
    let s2 : State := { s1 with mo := mo, cs := { s1.cs with cut := false } }
    let s3 := if 3 ≤ k then s2.sfStart else s2
    if 1 ≤ k then s3.chStart 2 else s3
  | .locked => State.chStart { s with mo := { s.mo with sent := .out, captain := true } } 2
  | _ => s

/-- What CS_STAT keeps of a Let that ends. -/
def State.letOver (s : State) : State :=
  if s.mo.letClass = 0 then s
  else (s.wr CS_STAT_LAST_LET 0 s.mo.letClass).wr CS_STAT_LET_MS 0 (min 16383 ((s.elapsed - s.mo.letAt) / 800000))

/-- SAFE entry (Table 2.1, Table 2.2): control outputs go to their safe states, whatever transition is in progress ends, and
the error queue and its nesting are cleared (R377).  A Let that ends here still owes its completions (R82). -/
def State.enterSafe (s : State) (cause : Nat) : State :=
  if s.mo.mode == .safe || s.mo.mode == .keeper || s.mo.mode == .boot then s
  else
    let s1 := (s.letOver.lgCancel 4).sentUndo
    let s2 := s1.dropCycles.rpDiscard.rpHoldAll
    let s3 : State := (State.allSafe { s2 with lg := { s2.lg with running := false } }).lgShow.leSafe.axSafe
    let s4 := s3.setMode .safe cause
    let mo : Modes := { s4.mo with letClass := 0, letOwed := if s4.mo.letClass = 0 then s4.mo.letOwed else s4.mo.letClass, letResumed := false }
    let s5 : State := { s4 with mo := mo, ec := { s4.ec with handling := [], queue := [], ovf := false } }
    if s.errClass = 0 then s5 else s5.sbCause HE_INTCTL_SB_ERR 1

/-- A class D cause persists (R33, R377): protection failed, FLD_24V below 15 V, no loop lane, no logic core, a boot failure. -/
def State.safeHolds (s : State) : Bool :=
  s.mo.protFail || s.rd FD_STAT_FLD 0 == 3 || s.mo.bootFail || (s.le.lanes.length == 4) || s.liveCores.isEmpty

/-! Errors (R374 to R377). -/

/-- The head of the errors in handling changes; a change of SB_ERR.CLASS is a Scoreboard cause. -/
def State.setHandling (s : State) (h q : List ErrRec) : State :=
  let s1 : State := { s with ec := { s.ec with handling := h, queue := q, ovf := s.ec.ovf && decide (16 ≤ q.length) } }
  if s1.errClass == s.errClass then s1 else s1.sbCause HE_INTCTL_SB_ERR 1

/-- An error is handed to the event recorder without being queued. -/
def State.errRecord (s : State) (code cls : Nat) : State := s.handOff (code / 256) ⟨code, 0, s.now, 0, 0, 0, decide (3 ≤ cls)⟩

/-- One arriving error (R376); `boot` tells that it arose in BOOT, so that its SAFE entry waits for TRAIN exit (R32). -/
def State.handleError (s : State) (e : ErrRec) (boot : Bool) : State :=
  let s1 : State := { s with ec := { s.ec with lastCode := e.code } }
  if e.cls = 4 then
    if s1.mo.mode == .boot || (boot && s1.mo.mode == .train) then { s1 with mo := { s1.mo with bootFail := true } }
    else if e.code = 0x0284 then s1
    else s1.enterSafe 9
  else if e.cls = 3 ∧ s1.nestC = 2 then
    let s2 := s1.errRecord 0x0283 4
    State.enterSafe { s2 with ec := { s2.ec with lastCode := 0x0283 } } 0xA
  else match s1.ec.handling with
    | [] => s1.setHandling [e] s1.ec.queue
    | h :: t =>
      if h.cls < e.cls then s1.setHandling (e :: h :: t) s1.ec.queue
      else if 32 ≤ s1.ec.queue.length then
        let s2 : State := { s1 with ec := { s1.ec with lost := satAdd 0xFFFFFFFF s1.ec.lost 1 } }
        if s2.ec.ovf then s2 else State.raiseErr { s2 with ec := { s2.ec with ovf := true } } 0x0282 3
      else s1.setHandling (h :: t) (s1.ec.queue ++ [e])

/-- ERROR_HANDLING (R376): the error that arrived first. -/
def execErrorHandling (s : State) : Res :=
  match s.ec.arrivals with
  | [] => .next s
  | e :: t =>
    if !s.tu.running then .next s
    else .next (State.handleError { s with ec := { s.ec with arrivals := t, inBoot := s.ec.inBoot - 1 } } e (decide (0 < s.ec.inBoot)))

/-- Class C errors that end with the Let they triggered (R375). -/
def letErr (code : Nat) : Bool := code == 0x0280 || code == 0x2080 || code == 0x2081

/-- The head of the errors in handling ends: the one it preempted resumes, or the queue is served. -/
def State.endHead (s : State) : State :=
  match s.ec.handling with
  | [] => s
  | [_] =>
    match s.ec.queue with
    | [] => s.setHandling [] []
    | e :: q => s.setHandling [e] q
  | _ :: t => s.setHandling t s.ec.queue

/-- ERROR_HANDLING_END (R375); an error that triggered a Let ends at LET_END. -/
def execErrorHandlingEnd (s : State) : Res :=
  match s.ec.handling with
  | [] => .next s
  | e :: _ => if s.mo.letClass != 0 && letErr e.code then .next s else .next s.endHead

/-! Mode requests (R30 to R34, R41, R556). -/

/-- A request for SENTINEL is allowed (R41). -/
def State.sentAllowed (s : State) : Bool :=
  s.mo.mode == .run && s.flag MB_MODECFG_SENT_EN 0 && !s.boundByR34
    && s.assertedWord == 0 && s.enabledEls.all (fun n => !(s.el n).pu)
    && s.loops.all (fun n => s.loopState n != 4 && s.loopState n != 6)
    && s.axisList.all (fun n => !([2, 3, 6].contains (s.axisState n)))
    && (List.range 64).all (fun n => (s.lane n).state != 1 && (s.lane n).state != 2)
    && s.lg.switch.isNone && s.ev.frozen.isNone

/-- The transitions a request may ask for (Table 2.2). -/
def State.mayGo (s : State) (m : Mode) : Bool :=
  match m with
  | .commission => s.mo.mode == .run
  | .run => s.mo.mode == .commission && !s.boundByR34
  | .sentinel => s.sentAllowed
  | .safe => s.mo.mode == .train || s.mo.mode == .commission || s.mo.mode == .run
  | _ => false

/-- A transition is in progress. -/
def State.inTransition (s : State) : Bool := s.mo.pend.isSome || s.mo.mode == .sentinel

/-- SENTINEL entry is accepted: the mode code reads 5, and the wake sources are armed (Table 2.7). -/
def State.sentAccept (s : State) : State :=
  let s1 := s.setMode .sentinel 3
  { s1 with mo := { s1.mo with sent := .entering 0, sentAt := s.elapsed, sentHalt := false } }

/-- What a mode command carries: a target code, nothing else. -/
def Cmd.target (c : Cmd) : Mode := Mode.ofCode ((c.par 0).get 2 0)

def Cmd.targetBad (c : Cmd) : Bool := c.objid != 0 || (c.par 0).get 31 3 != 0

/-- MODE_REQUEST (R556). -/
def execModeRequest (ring idx : Nat) (s : State) : Res :=
  s.runCmd ring idx (isOp opModeRequest)
    (fun s c =>
      { form := c.inline 4 && c.len == 4
        bad := if c.targetBad then some (c.objid, 0) else none
        auth := c.target == .commission || s.mo.mode == .commission
        modes := s.inMode modesTrain
        own := if c.busy || s.inTransition then some (.busyRetry, 0, 0)
          else if c.target == s.mo.mode || s.mayGo c.target then none
          else some (.modeForbids, s.mo.mode.code, 0) })
    (fun s c =>
      let m := c.target
      if m == s.mo.mode then s.answer c m.code 0 0 0
      else if m == .safe then (s.enterSafe 3).done c 7 0 0 0
      else if m == .sentinel then s.sentAccept.done c 5 0 0 0
      else
        let s1 := s.start c
        let s2 : State := { s1 with mo := { s1.mo with pend := some m, pendCmd := some c.ref } }
        if s2.cyclesOpen then s2 else s2.modeBoundary)

/-- SAFE_EXIT (R33, R556): control starts cold in the named mode. -/
def execSafeExit (ring idx : Nat) (s : State) : Res :=
  s.runCmd ring idx (isOp opSafeExit)
    (fun s c =>
      { form := c.inline 4 && c.len == 4
        bad := if c.targetBad || !(c.target == .commission || c.target == .run) then some (c.objid, 0) else none
        auth := true
        modes := s.inMode [.safe]
        own := if c.busy then some (.busyRetry, 0, 0)
          else if s.safeHolds || (c.target == .run && s.boundByR34) then some (.modeForbids, 7, 0)
          else none })
    (fun s c =>
      let s1 := s.setMode c.target 3
      let s2 := (s1.coldStart 2).stationsStart
      s2.setPhase c.ring c.order (.decided .ok c.target.code 0 0 0 (some s.now)))

/-! Logic cycle boundaries. -/

/-- The first control output write since the start, and a pending change of mode. -/
def State.afterCycle (s : State) (wrote : Bool) : State :=
  let s1 := if wrote && s.mo.firstWrite then s.firstOutput else s
  s1.modeBoundary

/-- LOGIC_OUTPUT_WRITE (R290), of a cycle that no other preempts. -/
def execLogicOutputWrite (task : Nat) (s : State) : Res :=
  match (s.lgTask task).open_ with
  | some o => if s.lgEnds && o.ended == .done && s.notPreempted task then .next ((s.closeCycle task o).afterCycle true) else .next s
  | none => .next s

/-- CYCLE_WATCHDOG_EXPIRY (R294). -/
def execCycleWatchdogExpiry (task : Nat) (s : State) : Res :=
  match (s.lgTask task).open_ with
  | some o =>
    if s.lgEnds && decide (o.snapAt + usUnits o.wdt ≤ s.elapsed) then
      .next ((s.abandon task 1 (min 0xFFFFFFFF ((s.elapsed - o.snapAt) * 5 / 4)) 0).afterCycle false)
    else .next s
  | none => .next s

/-- ERROR_TASK_RUN (R295). -/
def execErrorTaskRun (core : Nat) (s : State) : Res :=
  match s.errorTaskRun core with
  | some x => .next (x.1.afterCycle x.2)
  | none => .next s

/-! TRAIN exit (R53 to R55, R364). -/

/-- Lanes of the required-link set that are not up. -/
def State.missingLanes (s : State) : List Nat :=
  (List.range 20).filter (fun n => decide (4 ≤ n) && natBit (s.rd MB_MODECFG_REQ_LANE 0) (n - 4) && !s.flag LN_LANE_UP n)

/-- A class D of BOOT has come or still waits for the error controller. -/
def State.bootFailed (s : State) : Bool := s.mo.bootFail || (s.ec.arrivals.take s.ec.inBoot).any (fun e => e.cls == 4)

/-- TRAIN ends: SAFE after a boot failure, or where WARM_POL asks for a resume that is not possible; otherwise the mode of
START_COMM and R34, control resumed or started cold. -/
def State.trainExit (s : State) (cause : Nat) : State :=
  let warm := if s.mo.coldBoot || s.rd CS_CFG_WARM_POL 0 == 0 then none else s.warmImage
  let cold : State := { s with mo := { s.mo with coldBoot := false } }
  if s.bootFailed || (s.rd CS_CFG_WARM_POL 0 == 2 && warm.isNone && !s.mo.coldBoot) then cold.enterSafe 0xB
  else
    let m : Mode := if s.flag MB_MODECFG_START_COMM 0 || s.boundByR34 then .commission else .run
    let s1 := cold.setMode m cause
    let s2 := match warm with
      | some x => s1.warmStart x.1 x.2
      | none => s1.coldStart (if s.mo.coldBoot then 3 else 1)
    s2.stationsStart

/-- TRAIN_EXIT (R54): every required lane is up and the control partition is loaded. -/
def execTrainExit (s : State) : Res :=
  if s.mo.mode == .train && s.mo.controlLoaded && s.missingLanes.isEmpty && !s.cs.cut then .next (s.trainExit 4) else .next s

/-- TRAIN_TIMEOUT (R54, R55): it has run since TRAIN entry.  DESIGN CHOICE (assumption 74): with a boot failure pending, TO_POLICY
0b01 ends TRAIN as a boot failure does, with cause 0x0B and the missing lanes marked failed. -/
def execTrainTimeout (s : State) : Res :=
  if s.mo.mode == .train && !s.cs.cut && decide (s.mo.trainAt + s.rd MB_MODECFG_TRAIN_TIMEOUT 0 * 8000000 ≤ s.elapsed) then
    if s.rd MB_MODECFG_TO_POLICY 0 = 1 && !s.bootFailed then .next (s.enterSafe 5)
    else
      let l := s.missingLanes
      let s1 := l.foldl (fun s n => s.wr LN_LANE_FAILED n 1) s
      let s2 := if l.isEmpty then s1 else s1.raiseErr 0x0285 2
      .next (s2.trainExit 5)
  else .next s

end Sys2Proof.Machine
end

