-- ==== Sys2Proof/Machine/Rings.lean ====
section
/-! DEFINITION. The mailbox rings: fetching, completions, doorbells, staging posts, ABORT, NOP, and message flushing
(03_captain_mailbox.md, R58 to R74). -/

namespace Sys2Proof.Machine

open Sys2Proof

/-! When the mailbox is there (R51, R81). -/

/-- The Captain became ready in this BOOT, or ROM recovery serves: the endpoint answers and doorbells act. -/
def State.hostOn (s : State) : Bool :=
  s.mo.resetN && s.mo.rails && s.mo.mode != .keeper
    && !(s.mo.boot == .resetLow || s.mo.boot == .rom || s.mo.boot == .firmware || s.mo.boot == .captain
      || (s.mo.boot == .stuck && s.mo.bootstat == 1))


/-- Rings that ROM recovery serves (Table 3.12). -/
def State.ringServed (s : State) (n : Nat) : Bool := decide (n < 64) && (!s.romRecovery || decide (n ≤ 1))

/-- ROM recovery has RING_00 as its only command ring and RING_01 as its only completion ring (Table 3.12). -/
def State.ringActs (s : State) (n kind : Nat) : Bool :=
  s.ringServed n && s.ringIs n kind && (!s.romRecovery || n == kind)

/-- Ring memory can be reached: device SDRAM, or host memory over a trained link in D0. -/
def State.ringReach (s : State) (n : Nat) : Bool := s.flag MB_RINGREG_LOC n || (s.he.linkUp && !s.he.d3hot)


/-! Ring faults (R62, R66). -/

def State.ringFault (s : State) (n code : Nat) : State := (s.wr MB_RINGREG_FAULT n 1).wr MB_RINGREG_FCODE n code

/-- A fetch or a completion write failed: the ring is disabled, RING_FAULT.  In device SDRAM the cause is an uncorrectable error
outside the store and PD (R62), error 0x5080 (Table 13.9). -/
def State.ringDmaFault (s : State) (n : Nat) : State :=
  let s1 := ((s.wr MB_RINGREG_EN n 0).ringFault n 3).notify 0x02 2 0 n 3 0 0
  if s.flag MB_RINGREG_LOC n then s1.arrive 0x5080 2 else s1

/-! Doorbells (R60, R66). -/

/-- A new PROD of a command ring (kind 0) or CONS of another ring (kind 1). -/
def State.dbApply (s : State) (kind ring index : Nat) : State :=
  if !s.ringServed ring then s
  else if !s.flag MB_RINGREG_EN ring || (s.rd MB_RINGREG_KIND ring == 0) != (kind == 0) || decide (s.ringSize ring ≤ index) then
    s.ringFault ring 1
  else if kind = 0 then s.wr MB_RINGREG_PROD ring index
  else s.wr MB_RINGREG_CONS ring index

/-- A doorbell in LET and SENTINEL is latched: the last index per ring counts (Table 3.12). -/
def State.dbLatch (s : State) (kind ring index : Nat) : State :=
  { s with mb := { s.mb with latched := mset (fun _ => 0) (kind * 64 + ring) (index + 1) s.mb.latched } }

/-- Latched doorbells act. -/
def State.applyLatched (s : State) : State :=
  s.mb.latched.foldl (fun s e => s.dbApply (e.1 / 64) (e.1 % 64) (e.2 - 1)) { s with mb := { s.mb with latched := [] } }

/-! Staging slots (R68, R69). -/

def State.slotWord (s : State) (k w : Nat) : Nat := mget (fun _ => 0) s.sb.slots (k * 32 + w)

/-- Write a slot's completion mirror under its sequence word (R98): both increments. -/
def State.putMirror (s : State) (k : Nat) (ws : List W32) : State :=
  let m1 := mset (fun _ => 0) (k * 32 + 16) ((s.slotWord k 16 + 2) % 2 ^ 32) s.sb.slots
  let m2 := (ws.zipIdx).foldl (fun m e => mset (fun _ => 0) (k * 32 + 17 + e.2) e.1.toNat m) m1
  { s with sb := { s.sb with slots := m2 } }

/-- The words of a completion (Table 3.4). -/
def cplWords (status tag phase notq ring idx : Nat) (r : List Nat) (t : Stamp) : List W32 :=
  [BitVec.ofNat 32 (status * 2 ^ 16 + tag), BitVec.ofNat 32 (phase * 2 ^ 31 + notq * 2 ^ 30 + ring * 2 ^ 24 + idx)]
    ++ (List.range 4).map (fun k => BitVec.ofNat 32 (r.getD k 0)) ++ t.words

/-- A staging post: the slot's words become the entry at PROD, followed by the slot's number plus one; or they are refused in
the slot's mirror (R69).  DESIGN CHOICE (assumption 68): a post that names a disabled or wrong ring is refused there only and sets
no FAULT on the ring, although R66 speaks of every doorbell. -/
def State.stagingPost (s : State) (ring slot : Nat) : State :=
  let ws := (List.range 16).map (fun w => BitVec.ofNat 32 (s.slotWord slot w))
  if s.ringActs ring 0 && s.flag MB_RINGREG_LOC ring && !s.ringFull ring then
    let p := s.rd MB_RINGREG_PROD ring
    let s1 : State := { s with mb := { s.mb with
      ringMem := mset (fun _ => []) (ring * 65536 + p) (ws ++ [BitVec.ofNat 32 (slot + 1)]) s.mb.ringMem } }
    s1.wr MB_RINGREG_PROD ring ((p + 1) % s.ringSize ring)
  else
    s.putMirror slot (cplWords Status.busyRetry.code (s.slotWord slot 0 % 65536) 0 1 ring 0 [] s.now)

/-! Fetching (R70). -/

/-- Enabled command rings with pending entries that can be reached. -/
def State.pendingRings (s : State) : List Nat :=
  (List.range 64).filter (fun n => s.ringActs n 0 && !s.ringEmpty n && s.ringReach n)

/-- The ring whose entry the next credit takes: a PRIO ring first, otherwise the next in turn among the 56 open credits.  DESIGN
CHOICE (assumption 69): of several PRIO rings the lowest number. -/
def State.nextRing (s : State) : Option Nat :=
  if 64 ≤ s.mb.inflight.length then none
  else
    let l := s.pendingRings
    match l.find? (fun n => s.flag MB_RINGREG_PRIO n) with
    | some n => some n
    | none =>
      if 56 ≤ (s.mb.inflight.filter (fun c => !c.prio)).length then none
      else match l.find? (fun n => decide (s.mb.rr < n)) with
        | some n => some n
        | none => l.head?

/-- Commands of which one runs at a time (R72). -/
def modeCommand (op : Nat) : Bool := op == opModeRequest || op == opSafeExit || op == opLetRequest || op == opColdRestart

/-- Take an entry into flight: an opcode outside Table 3.10 is decided at once. -/
def State.fetchEntry (s : State) (n : Nat) (ws : List W32) (slot : Option Nat) : State :=
  let idx := s.rd MB_RINGREG_CONS n
  let words := (List.range 16).map (fun k => ws.getD k 0)
  let op := (words.getD 0 0).get 31 16
  let m : Master := if slot.isSome then .hotPort else if s.rd MB_RINGREG_MASTER n = 1 then .hostB else .hostA
  let c : Cmd :=
    { ring := n, idx := idx, words := words, order := s.mb.fetchNo, prio := s.flag MB_RINGREG_PRIO n, master := m, slot := slot, fetchAt := s.tai
      busy := modeCommand op && s.mb.inflight.any (fun a => modeCommand a.opcode && a.undecided)
      phase := if opcodes.contains op then .fetched else .decided .badOpcode 0 0 0 0 none }
  let s1 := s.wr MB_RINGREG_CONS n ((idx + 1) % s.ringSize n)
  { s1 with mb := { s1.mb with
    inflight := s1.mb.inflight ++ [c], fetchNo := s1.mb.fetchNo + 1, rr := if c.prio then s1.mb.rr else n } }

/-- The Captain fetches: not in LET, and no new fetch after a SENTINEL entry was accepted. -/
def State.fetches (s : State) : Bool := s.cmdsRun && s.mo.mode != .letMode && s.mo.mode != .sentinel && s.hostOn

/-- COMMAND_FETCH (R70): the words that host memory holds, or none when the fetch fails (R62); an entry of a ring in device
SDRAM is the one that a staging post left. -/
def execCommandFetch (entry : Option (List W32)) (s : State) : Res :=
  if !s.fetches then .next s
  else match s.nextRing, entry with
    | none, _ => .next s
    | some n, none => .next (s.ringDmaFault n)
    | some n, some ws =>
      if s.flag MB_RINGREG_LOC n then
        let e := mget (fun _ => []) s.mb.ringMem (n * 65536 + s.rd MB_RINGREG_CONS n)
        let k := (e.getD 16 0).toNat
        .next (s.fetchEntry n e (if k = 0 then none else some (k - 1)))
      else .next (s.fetchEntry n ws none)

/-! Completions (R61, R64, R71). -/

/-- A command leaves flight. -/
def State.unflight (s : State) (c : Cmd) : State :=
  { s with mb := { s.mb with inflight := s.mb.inflight.filter (fun a => !a.isThe c.ring c.order) } }

/-- The Captain writes completions: not in LET, in SENTINEL until t4. -/
def State.completes (s : State) : Bool := s.cmdsRun && s.mo.mode != .letMode && s.hostOn

/-- The completion of a decided command is written into its completion ring, discarded when that ring is not there, or waits
for space; `ok` false is a failed write (R62). -/
def State.writeCpl (s : State) (c : Cmd) (ok : Bool) : State :=
  match c.phase with
  | .decided st r0 r1 r2 r3 t =>
    let n := s.rd MB_RINGREG_CPL_RING c.ring
    let w : List W32 := cplWords st.code c.tag (b2n (s.ringPhase n)) 0 c.ring c.idx [r0, r1, r2, r3] (t.getD s.now)
    let mirrored : State := match c.slot with
      | some k => s.putMirror k w
      | none => s
    if !s.ringActs n 1 then (mirrored.unflight c).bump MB_RINGREG_DROP n 1
    else if !s.ringReach n || s.ringFull n then s
    else if !ok then ((mirrored.ringDmaFault n).unflight c).bump MB_RINGREG_DROP n 1
    else (mirrored.ringPush n w).unflight c
  | _ => s

/-- COMPLETION_WRITE. -/
def execCompletionWrite (ring idx : Nat) (ok : Bool) (s : State) : Res :=
  match s.decidedAt ring idx with
  | some c => if s.completes then .next (s.writeCpl c ok) else .next s
  | none => .next s

/-! NOP, ABORT. -/

/-- NOP. -/
def execNop (ring idx : Nat) (s : State) : Res :=
  s.runCmd ring idx (isOp opNop) (fun s c => { form := !c.buf, auth := false, modes := s.romRecovery || s.inMode modesAll })
    (fun s c => s.fail c .ok 0)

/-- What units hold for a command that has not committed goes (R74). -/
def State.dropWork (s : State) (at_ : Nat × Nat) : State :=
  let s0 : State := { s with
    staged := s.staged.filter (fun w => w.cmd != some at_)
    um := { s.um with writes := s.um.writes.filter (fun w => w.cmd != some at_) }
    pd := { s.pd with
      writes := s.pd.writes.filter (fun w => w.cmd != at_)
      reqs := s.pd.reqs.filter (fun w => w.cmd != some at_) }
    tu := { s.tu with step := match s.tu.step with
      | some r => if r.cmd = some at_ then none else some r
      | none => none }
    af := { s.af with streams := s.af.streams.map (fun e => match e.2 with
      | some st => if st.closing = some at_ then (e.1, some { st with closing := none }) else e
      | none => e) } }
  let s1 : State := { s0 with mo := if s0.mo.pendCmd = some at_ then { s0.mo with pend := none, pendCmd := none } else s0.mo }
  let s2 := (List.range 16).foldl (fun s g => match s.swapOf g with
    | some w => if w.cmd = at_ then s.swapOver g else s
    | none => s) s1
  ((((s2.leSwapDrop at_).leReqDrop at_).laneDrop at_).stnEnableDrop at_).evCopyDrop at_


/-- The target of an ABORT: by CMD_INDEX, or by tag the earliest fetched. -/
def State.abortTarget (s : State) (c : Cmd) : Option Cmd :=
  let r := (c.par 0).get 29 24
  (s.mb.inflight.filter (fun a => a.ring == r && !a.isThe c.ring c.order
    && (if (c.par 1).get 31 31 = 1 then a.idx == (c.par 1).get 15 0 else a.tag == (c.par 0).get 15 0))).head?

/-- ABORT (R74). -/
def execAbort (ring idx : Nat) (s : State) : Res :=
  s.runCmd ring idx (isOp opAbort)
    (fun s c =>
      { form := !c.buf && c.len == 8
        bad := if c.objid != 0 || (c.par 0).get 31 30 != 0 || (c.par 0).get 23 16 != 0 || (c.par 1).get 30 16 != 0 then
            some (c.objid, 0) else none
        auth := false
        modes := s.inMode modesAll })
    (fun s c =>
      match s.abortTarget c with
      | some a =>
        if a.undecided && !s.pastCommit a then
          let s1 := match s.lg.switch with
            | some x => if x.cmd = a.ref then s.lgCancel 2 else s
            | none => s
          ((s1.dropWork a.ref).settle (some a.ref) .aborted 0 0 none).done c 0 0 0 0
        else s.fail c .noMatch 0
      | none => s.fail c .noMatch 0)

/-! NOTIFY_ROUTE (R77). -/

/-- Unit IDs of Table 1.3. -/
def unitIds : List Nat :=
  [0x01, 0x02, 0x03, 0x04, 0x08, 0x09, 0x10, 0x11, 0x18, 0x19, 0x20, 0x21, 0x22, 0x23, 0x28, 0x30, 0x31, 0x32, 0x33, 0x38, 0x39,
   0x40, 0x41, 0x42, 0x43, 0x48, 0x50]

/-- NOTIFY_ROUTE: a later route of all codes of a unit replaces the routes of its single codes.  DESIGN CHOICE (assumption 70): an
OBJID with an instance or a field group, or of an unknown unit, completes with BAD_OBJECT. -/
def execNotifyRoute (ring idx : Nat) (s : State) : Res :=
  s.runCmd ring idx (isOp opNotifyRoute)
    (fun s c =>
      let u := objUnit c.objid
      { form := c.inline 4
        bad := if !unitIds.contains u || c.objid % 2 ^ 24 != 0 || (c.par 0).get 15 6 != 0 then some (c.objid, 0) else none
        auth := false
        modes := s.inMode modesAll })
    (fun s c =>
      let u := objUnit c.objid
      let code := (c.par 0).get 31 16
      let old := if code = 0xFFFF then s.mb.routes.filter (fun e => e.1 / 65536 != u) else s.mb.routes
      let s1 : State := { s with mb := { s.mb with routes := mset (fun _ => 0) (u * 65536 + code) ((c.par 0).get 5 0 + 1) old } }
      s1.done c 0 0 0 0)

end Sys2Proof.Machine
end

