-- ==== Sys2Proof/Machine/Let.lean ====
section
/-! DEFINITION. Let L1 and Let L2, and service restarts without a Let (R31, R57, R82, R368 to R373). -/

namespace Sys2Proof.Machine

open Sys2Proof

/-! The trigger. -/

/-- What a Let L2 adds to a Let L1 (Table 13.6): a switch is cancelled, open cycles and the recipe tick in progress are given up. -/
def State.letTwo (s : State) : State :=
  let s1 := (s.lgCancel 3).dropCycles.rpDiscard
  { s1 with mo := { s1.mo with letClass := 2, letL2At := s.elapsed, letResumed := false } }

/-- A Let of a class begins (R369, R370): partial archive pages go out, the ring freezes, the Captain is held in reset. -/
def State.letTrigger (s : State) (cls : Nat) : State :=
  let s1 := s.arPartial.evLetBegin.handOff 0x02 ⟨0x0203, 0, s.now, cls, 0, 0, true⟩
  let s2 := s1.setMode .letMode 7
  let s3 : State := { s2 with mo := { s2.mo with
    letClass := cls, letStart := s.now, letFrom := s.mo.mode, letAt := s.elapsed, captain := false } }
  let s4 := s3.wrapInc CS_STAT_LETS 0 1
  if cls = 2 then s4.letTwo else s4

/-- The modes from which a Let is entered (R368). -/
def State.letFromHere (s : State) : Bool := s.mo.mode == .run || s.mo.mode == .commission

/-- LET_REQUEST (R368): the trigger is its commit point. -/
def execLetRequest (ring idx : Nat) (s : State) : Res :=
  s.runCmd ring idx (isOp opLetRequest)
    (fun s c =>
      { form := c.inline 4
        bad := if c.objid != 0x28000000 || !((c.par 0).toNat == 1 || (c.par 0).toNat == 2) then some (c.objid, 0) else none
        auth := true
        modes := s.inMode modesCr
        own := if c.busy || s.inTransition then some (.busyRetry, 0, 0) else none })
    (fun s c => (s.done c 0 0 0 0).letTrigger (c.par 0).toNat)

/-- LET_L1_TRIGGER (R369): in other modes there is no Let. -/
def execLetL1Trigger (s : State) : Res := if s.letFromHere then .next (s.letTrigger 1) else .next s

/-- LET_L2_TRIGGER (R368, Table 13.7): error 0x2080 (an uncorrectable error in logic program memory or the Bullpen) or 0x2081 (a
sequencer's monitor). -/
def execLetL2Trigger (cause : Nat) (s : State) : Res :=
  if !(cause == 0x80 || cause == 0x81) || !s.umOn then .next s
  else
    let s1 := s.raiseErr (0x2000 + cause) 3
    if s.letFromHere then .next (s1.letTrigger 2)
    else if s.mo.mode == .letMode && s.mo.letClass == 1 then .next s1.letTwo
    else .next s1

/-- CAPTAIN_FAULT (R31, R57, Table 13.7). -/
def execCaptainFault (s : State) : Res :=
  if s.mo.mode == .letMode then
    (if s.mo.letClass = 1 then .next (s.raiseErr 0x0280 3).letTwo else .next (s.raiseErr 0x0280 4))
  else if s.mo.boot == .captain && s.tu.running then .next (s.raiseErr 0x0280 3)
  else if !s.mo.captain then .next s
  else if s.letFromHere then .next ((s.raiseErr 0x0280 3).letTrigger 1)
  else
    let s1 := s.raiseErr 0x0280 3
    .next { s1 with mo := { s1.mo with captain := false } }

/-! The journal (R82). -/

/-- A command whose work stands through a Let (R29, R78, R157, R251, R317): its completion follows it. -/
def State.outlives (s : State) (c : Cmd) : Bool :=
  [opBankSwap, opTableCapture, opBullpenSwitch, opBullpenRollback].contains c.opcode || s.pastCommit c

/-- The journal entry of a command is lost: it completes with INTERNAL, whatever was decided. -/
def State.spoil (s : State) (c : Cmd) : State :=
  { s with mb := { s.mb with inflight := s.mb.inflight.map (fun a =>
    if a.isThe c.ring c.order then { a with phase := .decided .internal 0 0 0 0 none } else a) } }

/-- One journalled command after the restart; `bad` names the entries (ring, fetch number) that fail their CRC. -/
def State.journalled (s : State) (bad : List (Nat × Nat)) (c : Cmd) : State :=
  let at_ := c.ref
  let stands := match c.phase with
    | .decided .. => true
    | .started => s.outlives c
    | .fetched => false
  let s1 := if stands then s else s.dropWork at_
  if bad.contains at_ then (s1.spoil c).raiseErr 0x02FF 2
  else if stands then s1
  else s1.settle (some at_) .busyRetry 0 0 none

def Cmd.retries (c : Cmd) : Bool :=
  match c.phase with
  | .decided st .. => st == .busyRetry
  | _ => false

/-- The completions of every journalled command; with the number of recorded outcomes and of BUSY_RETRY completions.  DESIGN CHOICE
(assumption 77): an outcome BUSY_RETRY that was decided before the Let counts in both numbers, and a damaged entry in neither. -/
def State.journalEnd (s : State) (bad : List (Nat × Nat)) : State × Nat × Nat :=
  let kept := (s.mb.inflight.filter (fun c => !c.undecided && !bad.contains c.ref)).length
  let s1 := s.mb.inflight.foldl (fun s c => s.journalled bad c) s
  let retry := (s1.mb.inflight.filter Cmd.retries).length
  (s1.mb.inflight.foldl (fun s c => s.writeCpl c true) s1, kept, retry)

/-- Notifications that waited are delivered. -/
def State.deliverHeld (s : State) : State :=
  s.mb.held.foldl State.deliver { s with mb := { s.mb with held := [] } }

/-! The end. -/

/-- Logic and recipe engines run again after a Let L2 (R302, R370): every region comes from the store; a bad block makes the
image unusable (Table 13.7). -/
def State.letRestore (s : State) : State :=
  if s.badNow.any (fun e => continuousBlock e.1) then s.raiseErr 0x2882 4
  else
    let gap := (s.elapsed - s.mo.letL2At) / 800000
    let s1 : State := { s with
      lg := { s.lg with active := s.lg.committed, running := s.lg.running && s.lg.committed.isSome }
      rp := { s.rp with ticksFrom := s.elapsed }
      mo := { s.mo with letResumed := true } }
    ((s1.lgResumed 1 gap).lgShow).notify 0x28 4 0 1 gap 0 0

/-- The restarted Captain completes the journal and sends LET_BEGIN, what was held, and LET_END (R82). -/
def State.letTell (s : State) (cls : Nat) (bad : List (Nat × Nat)) : State :=
  let j := s.journalEnd bad
  let s1 := (j.1.deliver ⟨0x02, 3, cls, 0, 0, 0, s.mo.letStart⟩).deliverHeld
  let s2 := s1.handOff 0x02 ⟨0x0204, 0, s.now, cls, j.2.1, j.2.2, true⟩
  let s3 := s2.deliver ⟨0x02, 4, cls, j.2.1, j.2.2, 0, s.now⟩
  { s3 with mo := { s3.mo with captain := true, letOwed := 0 } }

/-- Doorbells, messages and the recorder's freeze after LET_END (R81, R88, R389). -/
def State.letOpen (s : State) : State :=
  let s1 := s.applyLatched.flushPending
  let s2 := if s1.rd HE_INTCTL_SB_CAUSE 0 != 0 then s1.raiseVector (s1.rd HE_INTCTL_SB_VEC 0) else s1
  s2.evLetEnd

/-- Errors that ended with the Let leave handling (R375). -/
def State.letErrsEnd (s : State) : State :=
  match s.ec.handling with
  | e :: _ => if letErr e.code then s.endHead else s
  | [] => s

/-- The mode left is restored (Table 2.2). -/
def State.letFinish (s : State) (bad : List (Nat × Nat)) : State :=
  let s1 := s.letOver.letTell s.mo.letClass bad
  let s2 : State := { s1 with mo := { s1.mo with letClass := 0, letResumed := false } }
  (s2.setMode s.mo.letFrom 0xE).letErrsEnd.letOpen

/-- LET_END (R82, R369, R370): `resume` true is the resume of the logic and recipe engines of a Let L2, false the end; `bad` names
journal entries that fail their CRC.  A Let that ended in SAFE still gets its completions. -/
def execLetEnd (resume : Bool) (bad : List (Nat × Nat)) (s : State) : Res :=
  if s.mo.letOwed != 0 && s.mo.mode == .safe && s.tu.running then .next (s.letTell s.mo.letOwed bad).letOpen
  else if s.mo.mode != .letMode || s.cs.cut then .next s
  else
    let two := s.mo.letClass == 2 && !s.mo.letResumed
    let s1 := if two then s.letRestore else s
    if resume then .next s1
    else if two && !s1.mo.letResumed then .next s1
    else .next (s1.letFinish bad)

/-- LET_BOUND_EXCEEDED (R372): 800 ms for a Let L1, 2,000 ms for a Let L2, from the first trigger. -/
def execLetBoundExceeded (s : State) : Res :=
  let ms := if s.mo.letClass = 2 then 2000 else 800
  if s.mo.mode == .letMode && decide (s.mo.letAt + ms * 800000 < s.elapsed) then .next ((s.enterSafe 8).raiseErr 0x0281 4)
  else .next s

/-- CAPTAIN_RESTART_DONE (R31): the service partition runs again without a change of mode. -/
def execCaptainRestartDone (s : State) : Res :=
  let early := s.mo.boot == .resetLow || s.mo.boot == .rom || s.mo.boot == .firmware || s.mo.boot == .captain
    || s.mo.boot == .recovery || s.mo.boot == .stuck
  if s.mo.captain || s.mo.letOwed != 0 || early || !s.tu.running || s.mo.mode == .keeper || s.mo.mode == .letMode then .next s
  else match s.mo.sent with
    | .out | .entering 0 | .entering 1 | .entering 2 | .entering 3 =>
      let s1 := (s.journalEnd []).1
      .next (State.deliverHeld { s1 with mo := { s1.mo with captain := true } })
    | _ => .next s

end Sys2Proof.Machine
end

