-- ==== Sys2Proof/Machine/Scoreboard.lean ====
section
/-! DEFINITION. What the Scoreboard shows (04_host_endpoint_and_scoreboard.md, Table 4.5, R97, R100), and what it keeps in
SENTINEL (R44). -/

namespace Sys2Proof.Machine

open Sys2Proof

/-- The hot port is answered and its staging words take writes (R100). -/
def State.hotOn (s : State) : Bool := s.mo.resetN && s.mo.rails && s.mo.mode != .keeper

/-- A lane word (Table 4.8). -/
def State.sbLane (s : State) (n : Nat) : Nat :=
  if s.byVar 20 12 8 ≤ n then 0
  else s.rd LN_LANE_LOL n * 2 ^ 11 + s.rd LN_LANE_LOS n * 2 ^ 10 + s.rd LN_LANE_FAILED n * 2 ^ 9 + s.rd LN_LANE_UP n * 2 ^ 8
    + s.rd LN_LANE_STEP n

/-- A station word: bit b tells whether station 32 m + b runs on live data. -/
def State.sbStations (s : State) (m : Nat) : Nat := s.tchWord (fun b => s.rd RB_STNST_STATE (32 * m + b) == 1)

/-- A word that an enabled map entry shows (R341). -/
def State.sbMapped (s : State) (k a : Nat) : Nat :=
  let i := s.rd PD_SBMAP_INDEX k
  match s.ptDef i with
  | none => 0
  | some d =>
    let w := s.ptWords i
    let raw := (s.ptRec i).raw
    match s.rd PD_SBMAP_FORM k with
    | 0 => w.getD 0 0
    | 1 => toI32 d.type raw
    | 2 => toF32 d.type raw
    | 3 => w.getD 2 0
    | _ => if a = s.rd PD_SBMAP_WORD k then mget (fun _ => 0) s.sb.mapSeq k else w.getD (a - s.rd PD_SBMAP_WORD k - 1) 0

/-- A user-mapped word. -/
def State.sbUser (s : State) (a : Nat) : Nat :=
  match (s.listed 0x22 2 0).find? (fun k => s.flag PD_SBMAP_EN k && decide ((s.sbmapSpan k).1 ≤ a) && decide (a < (s.sbmapSpan k).2)) with
  | some k => s.sbMapped k a
  | none => 0

/-- A word as the units keep it up. -/
def State.sbLive (s : State) (a : Nat) : Nat :=
  if a = 0 then s.sbSys.toNat
  else if a = 1 then s.sbErr.toNat
  else if a = 2 then s.holdAge
  else if a = 0x100 then s.sb.protSeq
  else if a = 0x101 then s.sb.protPass
  else if 0x102 ≤ a ∧ a < 0x142 then mget (fun _ => 0) s.sb.pu (a - 0x102)
  else if 0x142 ≤ a ∧ a < 0x182 then mget (fun _ => 0) s.sb.op (a - 0x142)
  else if a = 0x190 then s.assertedWord
  else if a = 0x191 then s.latchedWord
  else if 0x1A0 ≤ a ∧ a < 0x1C0 then (s.word 0x11 0x11 (a - 0x1A0) 0).toNat
  else if 0x200 ≤ a ∧ a < 0x214 then s.sbLane (a - 0x200)
  else if 0x280 ≤ a ∧ a < 0x300 then s.sbStations (a - 0x280)
  else if 0xF00 ≤ a ∧ a < 0xF80 ∧ a % 32 < 25 then s.slotWord ((a - 0xF00) / 32) (a % 32)
  else if a = 0xFF1 then s.sb.rejected
  else if 0x1000 ≤ a ∧ a < 0x4000 then s.sbUser a
  else 0

/-- The words that stand still in SENTINEL: every word of Table 4.5 but the staging slots and the counter of rejected writes, which
the hot port still writes there (R95, R100), and the user-mapped words, whose points no unit writes then. -/
def sbKept : List Nat :=
  [0, 1, 2] ++ List.range' 0x100 0x82 ++ [0x190, 0x191] ++ List.range' 0x1A0 32 ++ List.range' 0x200 20 ++ List.range' 0x280 128

/-- SENTINEL entry is complete: the Scoreboard keeps what it shows, word 0 with mode 5 and no transition (R44, assumption 81). -/
def State.keepScoreboard (s : State) : State :=
  let t : State := { s with mo := { s.mo with mode := .sentinel, sent := .asleep, pend := none } }
  { s with sb := { s.sb with asleep := sbKept.foldl (fun m a => mset (fun _ => 0) a (t.sbLive a) m) [] } }

/-- The Scoreboard shows what it kept: asleep, and until the tiles run again at w4. -/
def State.sbAsleep (s : State) : Bool :=
  match s.mo.sent with
  | .asleep => true
  | .waking _ => true
  | _ => false

/-- A Scoreboard word (R97, Table 4.5); zero while RESET_N is low (R100). -/
def State.sbWord (s : State) (a : Nat) : Nat :=
  if !s.hotOn then 0
  else if s.sbAsleep && sbKept.contains a then mget (fun _ => 0) s.sb.asleep a
  else s.sbLive a

end Sys2Proof.Machine
end

