-- ==== Sys2Proof/Machine/Sentinel.lean ====
section
/-! DEFINITION. SENTINEL: the steps of entry, its cancelling, wake sources, the wake sequence; the Keeper's alarm and
crystal; the return of power after a warning (02_modes_and_startup.md, R35 to R48; R363). -/

namespace Sys2Proof.Machine

open Sys2Proof

/-! The entry (Table 2.7). -/

/-- What the recorder's hand-off FIFOs hold is written before t4. -/
def State.evFlush (s : State) : State :=
  if s.ev.drain.isSome then s
  else
    (s.ev.fifo.flatMap (fun e => e.2)).foldl State.evWrite
      { s with ev := { s.ev with fifo := [] } }

/-- t1: the engines stop at their boundaries. -/
def State.sentOne (s : State) : State :=
  let s1 := s.landSamples.chSleep
  { s1 with
    mo := { s1.mo with control := false, sentStop := s.elapsed, sent := .entering 1 }
    lg := { s1.lg with running := false } }

/-- t2: the control state goes to the continuity store and to a slot. -/
def State.sentTwo (s : State) : State :=
  let s1 := (s.takeCut 4 2).writeStart 4 2
  { s1 with mo := { s1.mo with sent := .entering 2 } }

/-- t3: safety outputs off, sentinel hold, stations held, peers told. -/
def State.sentThree (s : State) : State :=
  let s1 := s.sfSentinel.fieldHold.stationsHold.sendTopo
  { s1 with mo := { s1.mo with sent := .entering 3 } }

/-- t4: partial archive pages and records are written, the Captain halts, EV leaves its newest SEQ in the Keeper. -/
def State.sentFour (s : State) : State :=
  let s1 := s.evFlush.arPartial
  { s1 with
    mo := { s1.mo with captain := false, sent := .entering 4 }
    kp := { s1.kp with sentSeq := seqPrev s1.ev.nextSeq } }

/-- t5: passes, paths and the heartbeat stop. -/
def State.sentFive (s : State) : State :=
  let s1 := s.drSleep.peSleep
  { s1 with mo := { s1.mo with heartbeat := false, sent := .entering 5, sentPass := s.tai } }

/-- Every lane beyond PCIe is off; its port trains again after wake (Table 17.13). -/
def State.lanesOff (s : State) : State :=
  let s1 := ((List.range s.nLane).filter (fun l => decide (4 ≤ l))).foldl State.laneDown s
  ((List.range s.nPort).filter (fun p => s.flag RB_PORT_EN p)).foldl (fun s p =>
    let x := s.port p
    let y : PortSt := { PortSt.init with stepAt := s.elapsed, drops := x.drops, alarmAt := x.alarmAt }
    ((s.setPort p y).putWord 0x41 2 p 1 0).tuPortDown p) s1

/-- Crystal ticks of the real-time counter. -/
def State.rtcTicks (s : State) : Nat := s.kp.rtcSec * 32768 + s.kp.rtcTick

/-- t6: PLLs off; both counters are latched on one crystal edge, the last one before (R36).  The Scoreboard keeps what it shows
now (R44). -/
def State.sentSix (s : State) : State :=
  let s1 := s.keepScoreboard.lanesOff
  let inc := s1.rd TU_ADJ_INC_NS 0 * 2 ^ 32 + s1.rd TU_ADJ_INC_FRAC 0
  { s1 with
    mo := { s1.mo with sent := .asleep, sentMono := s1.mono - s1.kp.rtcPhase / 16 }
    tu := { s1.tu with running := false }
    kp := { s1.kp with
      latchTai := s1.tai - s1.kp.rtcPhase * inc / 16 / 2 ^ 32, latchTicks := s1.rtcTicks, crystalPer := inc * 390625 / 16 } }

/-- SENTINEL_ENTRY_STEP (R42): the next step, once its engines have reached their boundaries or its work is done. -/
def execSentinelEntryStep (s : State) : Res :=
  if s.mo.mode != .sentinel || s.mo.sentHalt then .next s
  else match s.mo.sent with
    | .entering 0 => if s.cyclesOpen then .next s else .next s.sentOne
    | .entering 1 => if s.cs.writing.isSome then .next s else .next s.sentTwo
    | .entering 2 => if s.cs.writing.isSome then .next s else .next s.sentThree
    | .entering 3 => if s.mb.inflight.isEmpty then .next s.sentFour else .next s
    | .entering 4 => .next s.sentFive
    | .entering 5 => .next s.sentSix
    | _ => .next s

/-! Cancelling (R42, R362). -/

/-- Milliseconds since control stopped at t1. -/
def State.sleepMs (s : State) : Nat := (s.elapsed - s.mo.sentStop) / 800000

/-- Control resumes with the state it held: RESUMED with PAR0 2, and `slot` consumed at the first output write. -/
def State.sentResume (s : State) (slot : Option Bool) : State :=
  let s1 : State := { s.controlOn with cs := { s.controlOn.cs with consume := slot } }
  ((State.lgResumed { s1 with lg := { s1.lg with running := s1.logicReady } } 2 s.sleepMs)).lgShow

/-- Doorbells and notifications that waited (Table 3.12). -/
def State.serviceBack (s : State) : State := s.deliverHeld.applyLatched.flushPending

/-- An entry is cancelled: its steps are undone in reverse order, RUN with cause 0x0D.  One that a power-fail write halted
resumes control from the image of that write. -/
def State.sentCancel (s : State) : State :=
  match s.mo.sent with
  | .entering k =>
    let slot := if 2 ≤ k && s.cs.writing.isNone then s.newestSlot else none
    let drop : State := if s.mo.sentHalt then s else match s.cs.writing with
      | some w => State.setSlot { s with cs := { s.cs with writing := none } } w.slot .incomplete none
      | none => s
    let s1 := (drop.sentUndo).setMode .run 0xD
    let s2 := if 3 ≤ k then s1.sendTopo else s1
    let s3 := if s.mo.sentHalt then s2.pfResume else if 1 ≤ k then s2.sentResume slot else s2
    s3.serviceBack
  | _ => s

/-! Wake sources (Table 2.5). -/

/-- The source may wake the device: comparators, direct trips and arc light always do. -/
def State.wakeEnabled (s : State) (src : WakeSrc) : Bool :=
  match src with
  | .comparator | .directTrip | .arcLight => true
  | .wakeN => s.flag KP_WAKE_WAKEN_EN 0
  | .di => s.flag KP_WAKE_DI_EN 0
  | .alarm => s.flag KP_WAKE_ALARM_EN 0
  | .doorbell => s.flag KP_WAKE_HOST_EN 0
  | .field => s.flag KP_WAKE_FLD_EN 0

/-- The wake controller notes a cause. -/
def State.wakeCause (s : State) (src : WakeSrc) : State :=
  s.wr KP_WAKE_CAUSE 0 (natSetBit (s.rd KP_WAKE_CAUSE 0) src.bit true)

/-- A wake source fires: it cancels an entry, or starts the wake sequence.  An entry that a power-fail write halted cannot
resume before that write has ended (R363). -/
def State.wakeBy (s : State) (src : WakeSrc) : State :=
  if s.mo.mode != .sentinel || !s.wakeEnabled src then s
  else
    let s1 := s.wakeCause src
    match s1.mo.sent with
    | .entering _ => if s1.mo.sentHalt && s1.cs.writing.isSome then s1 else s1.sentCancel
    | .asleep => { s1 with mo := { s1.mo with sent := .waking false, pllAt := s1.elapsed } }
    | _ => s1

/-- The source of a number: the bit order of KP_WAKE.CAUSE. -/
def wakeSrcOf (n : Nat) : Option WakeSrc :=
  [WakeSrc.comparator, .directTrip, .arcLight, .wakeN, .di, .alarm, .doorbell, .field][n]?

def State.entering (s : State) : Bool :=
  match s.mo.sent with
  | .entering _ => true
  | _ => false

/-- SENTINEL_ENTRY_CANCEL (R42): a wake source before the PLLs stop. -/
def execSentinelEntryCancel (source : Nat) (s : State) : Res :=
  match wakeSrcOf source with
  | some src => if s.entering then .next (s.wakeBy src) else .next s
  | none => .next s

/-- WAKE_SOURCE (R46): a wake source after they stopped. -/
def execWakeSource (source : Nat) (s : State) : Res :=
  match wakeSrcOf source with
  | some src => if s.entering then .next s else .next (s.wakeBy src)
  | none => .next s

/-- WAKE_N_LOW (R37). -/
def execWakeNLow (s : State) : Res := .next (s.wakeBy .wakeN)

/-- The real-time counter stands at or past the alarm time, judged on the low 32 bits of the seconds (R37). -/
def State.alarmPast (s : State) : Bool :=
  let d := (s.kp.rtcSec % 2 ^ 32 + 2 ^ 32 - s.rd KP_WAKE_ALARM_SEC 0) % 2 ^ 32
  decide (d < 2 ^ 31) && (d != 0 || decide (s.rd KP_WAKE_ALARM_TICK 0 ≤ s.kp.rtcTick))

/-- KEEPER_ALARM_DUE (R37): once, until a field of the alarm is written. -/
def execKeeperAlarmDue (s : State) : Res :=
  if s.mo.vddKeep && s.flag KP_WAKE_ALARM_EN 0 && !s.kp.alarmSpent && s.alarmPast then
    let s1 : State := { s with kp := { s.kp with alarmSpent := true } }
    if s.mo.mode == .keeper then .next ({ s1 with kp := { s1.kp with wakeNLow := true } } |>.wakeCause .alarm)
    else .next (s1.wakeBy .alarm)
  else .next s

/-! The field die in SENTINEL (R43, Table 15.8). -/

/-- A wake input changed. -/
def State.diWake (old s : State) : State :=
  let mask := s.rd KP_WAKE_DI_MASK_LO 0 + s.rd KP_WAKE_DI_MASK_HI 0 * 2 ^ 32
  if (List.range 48).any (fun n => natBit mask n && s.rd FD_DI_VAL n != old.rd FD_DI_VAL n) then s.wakeBy .di else s

/-- A supply warning or an output diagnostic arose. -/
def State.fieldWake (old s : State) : State := if s.fd.ntf != old.fd.ntf then s.wakeBy .field else s

/-- DI_SAMPLE (R413): every input, once per 10 µs; in SENTINEL changes of wake inputs wake the device. -/
def execDiSample (inputs : List (Nat × Nat)) (s : State) : Res := .next (s.diWake (nextOf s (fieldSample inputs s)))

/-- DO_STEP (R423). -/
def execDoStep (outs : List (Nat × Nat × Bool)) (fldMv : Nat) (temp : Int) (s : State) : Res :=
  .next (s.fieldWake (nextOf s (fieldStep outs fldMv temp s)))

/-- OVERLOAD_SWITCH_OFF (R424). -/
def execOverloadSwitchOff (out : Nat) (s : State) : Res := .next (s.fieldWake (nextOf s (fieldOverload out s)))

/-- THERMAL_SHUTDOWN (R424). -/
def execThermalShutdown (out : Nat) (temp : Int) (s : State) : Res := .next (s.fieldWake (nextOf s (fieldThermal out temp s)))

/-- OFF_STATE_CHECK (R426). -/
def execOffStateCheck (out : Nat) (ball ballTest : Bool) (s : State) : Res :=
  .next (s.fieldWake (nextOf s (fieldOffState out ball ballTest s)))

/-- FLD_SUPPLY_CROSSING (R431). -/
def execFldSupplyCrossing (mv : Nat) (s : State) : Res := .next (s.fieldWake (nextOf s (fieldCrossing mv s)))

/-! Waking (Table 2.8). -/

/-- Nanoseconds since the edge of the latch, as the crystal ticks, the part of a tick since the last edge, and the crystal period
before entry give them (R36). -/
def State.sleptNs (s : State) : Nat :=
  ((s.rtcTicks - s.kp.latchTicks) * s.kp.crystalPer + s.kp.rtcPhase * s.kp.crystalPer / 390625) / 2 ^ 32

/-- What a slew had still to do at entry, ns. -/
def State.slewLeft (s : State) : Int :=
  if s.tu.slewing && decide (s.tu.slewDone < s.tu.slewCycles) then
    (s.tu.slewTotal - s.tu.slewTotal * s.tu.slewDone / max 1 s.tu.slewCycles) / 2 ^ 32
  else 0

/-- The time counter is reloaded (R36), and LG_MONO advances by the sleep (R283). -/
def State.timeBack (s : State) : State :=
  let slept := s.sleptNs
  let t := Stamp.ofTai (max 0 (Int.ofNat (s.kp.latchTai + slept) + s.slewLeft)).toNat
  { s with
    tu := { s.tu with
      running := true, sec := t.sec % 2 ^ 48, ns := t.ns, frac := 0, fabCyc := 0, slewing := false, slewDone := s.tu.slewCycles }
    lg := { s.lg with monoBase := s.lg.monoBase.map (fun _ => Int.ofNat s.elapsed - Int.ofNat (s.mo.sentMono + slept * 4 / 5)) } }

/-- WAKE_PLL_LOCKED (w3 to w6): tiles, slices and the time counter run again. -/
def execWakePllLocked (s : State) : Res :=
  match s.mo.sent with
  | .waking _ =>
    let s1 := s.timeBack
    let s2 : State := { s1 with mo := { s1.mo with sent := .locked, heartbeat := true } }
    let s4 := s2.sfStart.pathsBack
    .next (if s4.tu.state == .locked || s4.tu.state == .gm then s4.tuEnter .holdover else s4)
  | _ => .next s

/-- WAKE_CONTROL_RUNNING (w8): control, Captain and mailbox run; RUN with cause 0x06. -/
def execWakeControlRunning (s : State) : Res :=
  match s.mo.sent with
  | .locked =>
    let s1 : State := { s with mo := { s.mo with sent := .out, captain := true } }
    let s2 := s1.setMode .run 6
    let s3 := ((s2.chStart 2).axPosLost false).sentResume s2.newestSlot
    .next s3.serviceBack
  | _ => .next s

/-- The wake failed (R48): sentinel hold ends, mode 7, protection-failed flag, the two records of the wake controller. -/
def State.wakeFail (s : State) : State :=
  let s1 := (s.wr FD_STAT_HOLD 0 0).fdDrive
  let s2 : State := { s1 with
    mo := { s1.mo with sent := .out, protFail := true }
    fd := { s1.fd with hbAt := s1.elapsed + 1, hbHold := false, wdAt := s1.elapsed } }
  let s3 := s2.setMode .safe 9
  let s4 := (s3.evLastResort 3 s3.kp.sentSeq false).evLast ⟨0x1081, 0, s3.now, 0, 0, 0, true⟩
  { s4 with ec := { s4.ec with lastCode := 0x1081 } }

/-- WAKE_PLL_TIMEOUT (R48): 50 µs without lock; one retry. -/
def execWakePllTimeout (s : State) : Res :=
  match s.mo.sent with
  | .waking retried =>
    if s.elapsed < s.mo.pllAt + 40000 then .next s
    else if retried then .next s.wakeFail
    else .next { s with mo := { s.mo with sent := .waking true, pllAt := s.elapsed } }
  | _ => .next s

/-! Clocks and the protection watchdog (R21, R40). -/

/-- A protection hardware fault: class D, the protection-failed flag, no more heartbeat. -/
def State.protFault (s : State) : State :=
  State.raiseErr { s with mo := { s.mo with protFail := true, heartbeat := false } } 0x1080 4

/-- PROTECTION_WATCHDOG_EXPIRY (R21): 250 µs without a pass commit. -/
def execProtectionWatchdogExpiry (s : State) : Res :=
  if s.protOn && decide (s.pe.lastPass + 200000 ≤ s.elapsed) then .next s.protFault else .next s

/-- CLOCK_LOSS (R40): REFCLK, the fabric PLL or the AFE sample PLL. -/
def execClockLoss (s : State) : Res := if s.tu.running && !s.mo.protFail then .next s.protFault else .next s

/-- CRYSTAL_STOP (R40): the counter runs on from the RC oscillator; the error waits while the core die has no power. -/
def execCrystalStop (s : State) : Res :=
  if !s.mo.vddKeep || s.kp.fromRc then .next s
  else
    let s1 : State := { s with kp := { s.kp with fromRc := true } }
    if s.mo.mode == .keeper || !s.mo.resetN then .next { s1 with kp := { s1.kp with rcErr := true } }
    else .next (s1.raiseErr 0x0180 1)

/-! Power returns (R362, R363). -/

/-- Loops and axes resume in a Let L2, whose logic and recipe engines resume at its end. -/
def State.pfLetTwo (s : State) : State :=
  let s1 := s.clearForces.loopsBack.axesBack.controlOn
  { s1 with lg := { s1.lg with running := s1.logicReady }, cs := { s1.cs with consume := s.newestSlot } }

/-- POWER_RETURN (R363): PFW_N high again, the rails never out of range; no earlier than 1 ms later and WRITE_DONE. -/
def execPowerReturn (s : State) : Res :=
  if s.cs.pfAt.isNone || s.cs.writing.isSome || !s.mo.rails then .next s
  else match s.mo.mode with
    | .train | .boot => .next (State.pfOver { s with cs := { s.cs with cut := false } })
    | .safe => .next (State.pfOver { s with
        cs := { s.cs with cut := false }, mo := { s.mo with control := true }, pd := { s.pd with scanFrom := s.elapsed } })
    | .run | .commission => .next s.pfResume.pfOver
    | .letMode => if s.mo.letClass = 2 && !s.mo.letResumed && !s.cs.pfFailed then .next s.pfLetTwo.pfOver else .next s.pfResume.pfOver
    | .sentinel => if s.mo.sentHalt then .next s.sentCancel.pfOver else .next s.pfOver
    | _ => .next s

end Sys2Proof.Machine
end

