-- ==== Sys2Proof/Machine/Objects.lean ====
section
/-! DEFINITION. Object access: what an object reads as, the checks of a write, how it commits, and OBJ_READ, OBJ_WRITE,
OBJ_MODIFY, OBJ_DESCRIBE (03_captain_mailbox.md, R73, R75, R76; R4, R7, R8). -/

namespace Sys2Proof.Machine

open Sys2Proof

/-! Reading. -/

/-- MB_MODESTAT (Table 2.4). -/
def State.modeStat (s : State) (w : Nat) : W32 :=
  BitVec.ofNat 32 (match w with
    | 0 => s.mo.cause % 256 * 2 ^ 24 + s.mo.bootstat % 256 * 2 ^ 16 + b2n s.target.isSome * 2 ^ 11 + s.targetCode * 2 ^ 8
        + s.mo.prev.code * 2 ^ 3 + s.mo.mode.code
    | 1 => s.mo.entry.sec
    | _ => s.mo.entry.ns)

/-- PD_STAT (Table 12.8). -/
def State.pdStat (s : State) (w : Nat) : Nat :=
  match w with
  | 0 => s.pdDefined
  | 1 => s.pdRetained
  | 2 => s.pdMirrors
  | 3 => s.pdStale
  | 4 => s.pd.memErrs
  | _ => s.forced.length

/-- FD_DI word 2: VAL and VALID as forces make them. -/
def State.diShown (s : State) (n : Nat) : W32 :=
  ((s.word 0x38 0x10 n 2).put 31 31 (b2n (s.diVal n))).put 30 30 (b2n (s.diValid n))

/-- What a word of an object reads as. -/
def State.objWord (s : State) (u g i w : Nat) : W32 :=
  if u = 2 ∧ g = 0 then s.capWord w
  else if u = 2 ∧ g = 2 then s.modeStat w
  else if u = 8 ∧ g = 1 ∧ w = 2 then (s.word 8 1 i 2).put 31 31 (b2n (s.refOk i))
  else if u = 9 ∧ (g = 2 ∨ g = 3) then s.bankWord i (g - 2) w
  else if u = 0x22 ∧ g = 1 ∧ w = 1 then BitVec.ofNat 32 (s.scanCount i)
  else if u = 0x22 ∧ g = 3 then BitVec.ofNat 32 (s.pdStat w)
  else if u = 0x23 ∧ g = 2 then BitVec.ofNat 32 (s.rpLstat i w)
  else if u = 0x23 ∧ g = 3 then BitVec.ofNat 32 s.rpDirty
  else if u = 0x28 ∧ g = 2 then s.csStat w
  else if u = 0x30 ∧ g = 2 then BitVec.ofNat 32 (s.evStat w)
  else if u = 0x30 ∧ g = 3 then BitVec.ofNat 32 (s.evLrstat w)
  else if u = 0x30 ∧ g = 0x10 then s.evLring w
  else if u = 0x31 ∧ g = 2 then BitVec.ofNat 32 (s.chStat w)
  else if u = 0x38 ∧ g = 0x10 ∧ w = 2 then s.diShown i
  else if u = 0x43 ∧ g = 3 then s.tuStat w
  else if u = 0x48 ∧ g = 1 then s.scStat w
  else if u = 0x48 ∧ g = 2 then s.sc.devCert.getD w 0
  else s.word u g i w

/-! Writing words. -/

/-- A write of an object ID. -/
def wreq (objid first : Nat) (ws : List (W32 × W32)) : WReq := ⟨objUnit objid, objGrp objid, objInst objid, first, ws⟩

def StagedWrite.req (w : StagedWrite) : WReq := wreq w.objid w.first w.words

def WReq.objid (r : WReq) : Nat := mkObjId r.unit r.i r.grp

/-- Whole words, as OBJ_WRITE and an image name them. -/
def wholeWords (ws : List W32) : List (W32 × W32) := ws.map (fun w => (0xFFFFFFFF, w))

/-- A word after a write: RW bits take the value, W1C bits written 1 are cleared, RO and WO bits stand (R75). -/
def wroteWord (fs : List Field) (w old mask v : Nat) : W32 :=
  let a := blend old (maskOfFields (· == .rw) w fs &&& mask) v
  BitVec.ofNat 32 (a &&& (0xFFFFFFFF - (maskOfFields (· == .w1c) w fs &&& mask &&& v)))

/-- The words of an object as a write leaves them. -/
def State.applyWords (s : State) (r : WReq) : State :=
  let s0 := if r.unit = 9 ∧ (r.grp = 2 ∨ r.grp = 3) then s.bankOwn r.i (r.grp - 2) else s
  let fs := ((findObj r.unit r.grp).map (·.fields)).getD []
  (r.ws.zipIdx).foldl (fun s e =>
    let w := r.first + e.2
    s.putWord r.unit r.grp r.i w (wroteWord fs w (s.word r.unit r.grp r.i w).toNat e.1.1.toNat e.1.2.toNat)) s0

/-- The settings in force, overlaid by every write already staged (R78, R171). -/
def State.planned (s : State) : State := s.staged.foldl (fun s w => s.applyWords w.req) s

/-! Checks (R75, R80). -/

/-- A reserved bit is written nonzero (R8); PE_ELEM.BLKA has the format of BLKB, reserved bits included (Table 7.2). -/
def WReq.rsvBad (r : WReq) : Bool :=
  let fs := ((findObj r.unit r.grp).map (·.fields)).getD []
  (r.ws.zipIdx).any (fun e =>
    e.1.1.toNat &&& e.1.2.toNat &&& (0xFFFFFFFF - maskOfFields (fun _ => true) (r.first + e.2) fs) != 0)
    || (r.isObj PE_ELEM_obj && natBits ((r.at 1).1.toNat &&& (r.at 1).2.toNat) 28 27 != 0)

/-- The WO bits written 1. -/
def WReq.pulses (r : WReq) (f : Field) : Nat := natBits ((r.at f.word).1.toNat &&& (r.at f.word).2.toNat) f.hi f.lo

/-- A value that names something the variant lacks; `p` is the state as it will stand. -/
def absentValue (p : State) (r : WReq) : Bool :=
  match r.unit with
  | 0x02 => r.grp == 1 && (List.range 16).any (fun b => natBit (p.rd MB_MODECFG_REQ_LANE 0) b && decide (p.byVar 20 12 8 ≤ b + 4))
  | 0x08 => afAbsent p r
  | 0x09 => fcAbsent p r
  | 0x10 => peAbsent p r.unit r.grp r.i
  | 0x11 => tmAbsent p r.unit r.grp r.i
  | 0x18 => leSelAbsent p r.grp r.i
  | 0x19 => axSelAbsent p r.grp r.i
  | 0x21 => r.grp == 0 && decide (p.nDev ≤ p.rd UM_CFG_PANEL_DEV 0)
  | 0x32 => drAbsent p r
  | 0x33 => r.grp == 1 && recAbsent p r
  | 0x38 => fdAbsent p r
  | 0x41 => rbAbsent p r
  | 0x42 => r.grp == 2 && (List.range 16).any (fun b => natBit (p.rd EN_GOOSE_PORTS 0) b && decide (p.nLane ≤ b + 4))
  | _ => false

/-- `p` with the words of one object as they stand in `s`. -/
def State.without (s p : State) (r : WReq) : State :=
  match findObj r.unit r.grp with
  | some o => (List.range o.nwords).foldl (fun q w => q.putWord r.unit r.grp r.i w (s.word r.unit r.grp r.i w)) p
  | none => p

/-- The write spoils a group, an element, a breaker or a zone that would be good without it (R171, R226): a channel, a group or the
device ID may be what another object's check rests on. -/
def spoils (s p : State) (r : WReq) : Bool :=
  (r.isObj FC_CHAN_obj || r.isObj PE_MEAS_obj || r.isObj PE_ELEM_obj || r.isObj TM_ZONE_obj || r.isObj RB_CFG_obj) &&
  (let q := s.without p r
   (List.range 64).any (fun g => !measOk p g && measOk q g) || p.enabledEls.any (fun n => !elemOk p n && elemOk q n)
     || (List.range 32).any (fun n => !brkOk p n && brkOk q n)
     || (p.var == .cpx9640 && (List.range 8).any (fun z => !zoneOk p z && zoneOk q z)))

/-- A field value that the object's unit refuses; `s` is the state before, `p` the state as it will stand. -/
def badValue (s p : State) (r : WReq) : Bool :=
  r.rsvBad || spoils s p r ||
  (match r.unit with
  | 0x02 => r.grp == 1 && (p.rd MB_MODECFG_TRAIN_TIMEOUT 0 == 0 || decide (2 ≤ p.rd MB_MODECFG_TO_POLICY 0))
  | 0x08 => afBad p r
  | 0x09 => fcBad p r
  | 0x10 => peBad p r.unit r.grp r.i
  | 0x11 => tmBad p r.unit r.grp r.i
  | 0x18 => leBad s p r.grp r.i
  | 0x19 => axBad s p r.grp r.i
  | 0x20 => lgBad s p r
  | 0x21 => umBad p r.grp
  | 0x22 => pdBad p r.grp r.i
  | 0x28 => r.grp == 1 && (p.rd CS_CFG_WARM_POL 0 == 3 || p.rd CS_CFG_MAX_GAP 0 == 0 || decide (86400 < p.rd CS_CFG_MAX_GAP 0))
  | 0x31 => r.grp == 1 && chBad p
  | 0x32 => drBad p r
  | 0x38 => fdBad p r.grp r.i
  | 0x39 => sfBad p r.grp r.i
  | 0x40 => lnBad p r.i
  | 0x41 => rbBad p r.grp r.i
  | 0x42 => enBad p r.grp
  | 0x43 => tuBad p r.grp || (r.grp == 2 && p.adjBad r)
  | _ => false)

/-- The loops and axes need more than the lanes give (R239). -/
def overBudget (p : State) (r : WReq) : Bool := (r.unit == 0x18 || r.unit == 0x19) && r.grp == 1 && decide (leBudget < p.leLoad)

/-- Objects that follow R78: their settings do not change in RUN (R330, R411, R437, R461, R518). -/
def followsR78 (u g : Nat) : Bool :=
  u == 0x22 || (u == 0x32 && g != 4) || u == 0x38 || u == 0x40 || u == 0x41 || (u == 0x43 && g == 1)

/-- A write changes a setting. -/
def changesObj (s p : State) (u g i : Nat) : Bool :=
  match findObj u g with
  | some o => (List.range o.nwords).any (fun w =>
      let m := maskOfFields (· == .rw) w o.fields
      (s.word u g i w).toNat &&& m != (p.word u g i w).toNat &&& m)
  | none => false

/-- A SENTINEL entry counts as RUN for the units' mode rules. -/
def State.asCmdMode (s : State) : State := { s with mo := { s.mo with mode := s.cmdMode } }

/-- The mode, or the state of the unit, forbids the write. -/
def modeForbids (s pre p : State) (r : WReq) : Bool :=
  (s.cmdMode == .run && followsR78 r.unit r.grp && changesObj pre p r.unit r.grp r.i) ||
  (match r.unit with
  | 0x08 => afModeForbids pre.asCmdMode r
  | 0x09 => fcModeForbids pre.asCmdMode r
  | 0x18 => leModeForbids pre p r.grp r.i
  | 0x20 => r.grp == 2 && !s.inMode modesCrs
  | 0x23 => rpModeForbids s r
  | 0x30 => r.grp == 0 && r.pulses EV_CTL_RECOVER != 0 && !s.inMode modesCrs
  | 0x39 => sfModeForbids s
  | 0x43 => r.grp == 2 && s.adjForbids r
  | _ => false)

/-- The unit's other checks against its state: BANK_BUSY, LOOP_NOT_OPEN. -/
def ownState (s p : State) (r : WReq) : Option (Status × Nat × Nat) :=
  match r.unit with
  | 0x09 => if fcBusy s r then some (.bankBusy, 0, 0) else none
  | 0x18 => leOwn s p r.grp r.i
  | 0x19 => axOwn s p r.grp r.i
  | _ => none

/-- Writes that need owner authority (Table 3.10, R379, R410, R437). -/
def needsOwner (r : WReq) : Bool :=
  [0x01, 0x08, 0x09, 0x10, 0x11, 0x39, 0x48, 0x43].contains r.unit
    || (r.unit == 0x38 && (r.grp == 0 || (r.grp == 0x10 && decide (r.first ≤ 1)) || (r.grp == 0x20 && r.first == 0)))
    || ((r.unit == 0x30 || r.unit == 0x31 || r.unit == 0x33) && decide (r.grp ≤ 1)) || (r.unit == 0x28 && r.grp == 1)

/-! Commits (R17, R73). -/

def protUnit (u : Nat) : Bool := u == 0x08 || u == 0x09 || u == 0x10 || u == 0x11

/-- What one protection object does when it commits, beyond its words and the passes over PE and TM. -/
def State.protObject (s old : State) (r : WReq) : State :=
  if r.unit = 9 then
    if r.grp = 1 then s.fcChanCommit old r.i
    else if r.grp = 5 then s.fcVchCommit old r.i
    else if r.grp = 6 then s.fcTrackCommit r.i
    else if r.grp = 7 then s.fcStreamCommit old r.i
    else s
  else if r.unit = 0x11 ∧ r.grp = 0 then s.latchResets (r.pulses TM_CTL_RST_MASK)
  else s

/-- A write of a coefficient bank. -/
def WReq.ofBank (r : WReq) : Bool := r.unit == 9 && (r.grp == 2 || r.grp == 3)

/-- Protection settings commit together; banks after the responses that the other settings copy into them (R153). -/
def State.protCommit (s : State) (l : List WReq) : State :=
  let s0 := (l.filter (fun r => !r.ofBank)).foldl State.applyWords s
  let s1 := if l.any (fun r => r.unit == 8) then
      (s0.afCommit s l).thresholdsCommit s (afNames l 0x10) (afNames l 0x30)
    else s0
  let s2 := (l.filter WReq.ofBank).foldl State.applyWords (l.foldl (fun t r => t.protObject s r) s1)
  let s3 := if l.any (fun r => r.unit == 0x10) then s2.peCommit s else s2
  if l.any (fun r => r.unit == 0x11) then s3.tmCommit s else s3

/-- What a commit does beyond its words, in the units that take it at once. -/
def State.unitCommit (s old : State) (r : WReq) : State :=
  match r.unit with
  | 0x01 =>
    if r.touches KP_WAKE_ALARM_EN || r.touches KP_WAKE_ALARM_SEC || r.touches KP_WAKE_ALARM_TICK then
      { s with kp := { s.kp with alarmSpent := false } }
    else s
  | 0x18 => s.leCommit r.grp r.i
  | 0x19 => s.axCommit old r.grp r.i
  | 0x30 =>
    if r.grp = 0 then (if r.pulses EV_CTL_RECOVER = 0 then s else { s with ev := { s.ev with rcvReq := true } })
    else s.evCommit old
  | 0x33 => if r.grp = 1 then s.arCommit (r.pulses AR_CFG_RETEST) else s
  | 0x38 =>
    let s1 := s.fdCommit old r.grp r.i
    if r.grp = 0 then (s1.clrUv (r.pulses FD_CTL_CLR_UV)).clrOl (r.pulses FD_CTL_CLR_OL) else s1
  | 0x39 => s.sfCommit old r.grp r.i
  | 0x40 => s.lnCommit old r.i
  | 0x41 => s.rbCommit old r.grp r.i
  | _ => s

/-- A write commits now; tells whether a step of the time counter still waits (R502). -/
def State.commitWrite (s : State) (r : WReq) (cmd : Option (Nat × Nat)) : State × Bool :=
  if protUnit r.unit then (s.protCommit [r], false)
  else if r.unit = 0x43 ∧ r.grp = 2 then s.adjCommit r cmd
  else ((s.applyWords r).unitCommit s r, false)

/-- The write waits for a boundary of its unit: a pass, a sample of its loop or axis. -/
def State.waits (s : State) (u : Nat) : Bool :=
  (protUnit u && s.protOn && s.mo.boot == .done) || ((u == 0x18 || u == 0x19) && s.leOn)

/-- A CFG_APPLY past its commit point completes when the last unit took its part (R78). -/
def State.applyDone (s : State) : State :=
  match s.mb.applying with
  | some (r, i, t) =>
    if s.staged.any (fun w => w.cmd == none) then s
    else State.settle { s with mb := { s.mb with applying := none, applyUnits := [] } } (some (r, i)) .ok 0 0 (some t)
  | none => s

/-- Staged writes that `due` picks take effect at `t`, in order; their commands are decided. -/
def State.takeStaged (s : State) (due : StagedWrite → Bool) (t : Nat) : State :=
  let now := s.staged.filter due
  if now.isEmpty then s
  else
    let s0 : State := { s with staged := s.staged.filter (fun w => !due w) }
    let reqs := now.map StagedWrite.req
    let sb := if now.any (fun w => w.cmd.isNone && protUnit (objUnit w.objid)) then s0.banksLoad else s0
    let s1 := if reqs.any (fun r => protUnit r.unit) then sb.protCommit (reqs.filter (fun r => protUnit r.unit)) else sb
    let s2 := (reqs.filter (fun r => !protUnit r.unit)).foldl (fun s r => (s.commitWrite r none).1) s1
    (now.foldl (fun s w => s.settle w.cmd .ok 0 0 (some (Stamp.ofTai t))) s2).applyDone

/-- Pass boundary: the protection settings, and loop settings whose lanes have stopped, at the instant of the boundary. -/
def State.passTake (s : State) (t : Nat) : State :=
  s.atInstant t (fun x => x.takeStaged (fun w => protUnit (objUnit w.objid) || !s.leOn) t)

/-- Sample boundary of LE (0x18) or AX (0x19): the settings of each loop or axis that samples at `t`, under its new rate. -/
def State.sampleTake (s : State) (u t : Nat) : State :=
  let p := s.planned
  s.takeStaged (fun w =>
    objUnit w.objid == u
      && (let per := periodNs (if u = 0x18 then p.rd LE_LOOP_RATE (objInst w.objid) else p.rd AX_AXIS_RATE (objInst w.objid))
          (u == 0x18 && objGrp w.objid == 5) || (u == 0x19 && decide (0x10 ≤ objGrp w.objid))
            || (t % per == 0 && s.gridOk per))) t

/-! OBJ_READ, OBJ_WRITE, OBJ_MODIFY, OBJ_DESCRIBE. -/

def Cmd.first (c : Cmd) : Nat := (c.par 0).get 31 16
def Cmd.count (c : Cmd) : Nat := (c.par 0).get 15 0

/-- COUNT is not 0 and the words lie within the object. -/
def Cmd.wordsFit (c : Cmd) : Bool :=
  c.count != 0 && (match findObj (objUnit c.objid) (objGrp c.objid) with
    | some o => decide (c.first + c.count ≤ o.nwords)
    | none => true)


def Cmd.unknownObj (c : Cmd) : Bool := objUnknown (objUnit c.objid) (objGrp c.objid) (objInst c.objid)

/-- OBJ_READ (R75). -/
def execObjRead (ring idx : Nat) (dmaOk : Bool) (s : State) : Res :=
  s.runCmd ring idx (isOp opRead)
    (fun s c =>
      { form := c.wordsFit && (if c.buf then c.buffer 1 4 && decide (4 * c.count ≤ c.bufLen) else c.inline 4 && decide (c.count ≤ 4))
        bad := if c.unknownObj then some (c.objid, 0) else none
        auth := false
        modes := s.romRecovery || s.inMode modesAll
        own := if c.buf then s.dmaCheck c dmaOk else none })
    (fun s c =>
      let ws := (List.range c.count).map (fun k => s.objWord (objUnit c.objid) (objGrp c.objid) (objInst c.objid) (c.first + k))
      if c.buf then (s.dmaOut c.bufLoc c.bufAddr ws).answer c 0 0 0 0
      else
        let r (k : Nat) : Nat := (ws.getD k 0).toNat
        s.answer c (r 0) (r 1) (r 2) (r 3))

/-- The checks a write shares, whatever its form.  A value that names something absent is reported before an instance beyond the
CPX-9640 range (R7). -/
def State.writeChecks (s : State) (c : Cmd) (form : Bool) (r : WReq) (dma : Option (Status × Nat × Nat)) : Checks :=
  let pre := s.planned
  let p := pre.applyWords r
  let gone : Option Nat := if dma.isNone && absentValue p r then some c.objid else none
  if objUnknown r.unit r.grp r.i || s.objAbsent r.unit r.grp r.i || dma.isSome then
    { form := form, absent := gone, bad := if c.unknownObj then some (c.objid, 0) else none
      auth := needsOwner r, modes := s.inMode modesTrain, own := dma }
  else
    { form := form
      absent := gone
      bad := if badValue pre p r || overBudget p r then some (c.objid, 0) else none
      auth := needsOwner r
      modes := s.inMode modesTrain
      own := if modeForbids s pre p r then some (.modeForbids, s.cmdMode.code, 0) else ownState pre p r }

/-- A write that passed its checks: it commits now, or waits for its unit's boundary (R73). -/
def State.goWrite (s : State) (c : Cmd) (r : WReq) : State :=
  if s.waits r.unit then
    State.start { s with staged := s.staged ++ [⟨some c.ref, c.objid, r.first, r.ws⟩] } c
  else
    let x := s.commitWrite r (some c.ref)
    if x.2 then x.1.start c else x.1.done c 0 0 0 0

/-- The write of an OBJ_WRITE: inline words from word 5, or the words of its buffer. -/
def Cmd.writeReq (c : Cmd) (buf : Option (List W32)) : WReq :=
  let ws := if c.buf then buf.getD [] else c.pars 1
  wreq c.objid c.first (wholeWords ((List.range c.count).map (fun k => ws.getD k 0)))

/-- OBJ_WRITE (R75). -/
def execObjWrite (ring idx : Nat) (buf : Option (List W32)) (s : State) : Res :=
  s.runCmd ring idx (isOp opWrite)
    (fun s c =>
      s.writeChecks c
        (c.wordsFit && (if c.buf then c.buffer 0 4 && decide (4 * c.count ≤ c.bufLen)
          else decide (c.count ≤ 11) && c.inline (4 + 4 * c.count)))
        (c.writeReq buf) (if c.buf then s.dmaCheck c buf.isSome else none))
    (fun s c => s.goWrite c (c.writeReq buf))

/-- The write of an OBJ_MODIFY: the bits of the mask, of one word. -/
def Cmd.modifyReq (c : Cmd) : WReq := wreq c.objid c.first [(c.par 1, c.par 2)]

/-- OBJ_MODIFY (R75). -/
def execObjModify (ring idx : Nat) (s : State) : Res :=
  s.runCmd ring idx (isOp opModify)
    (fun s c => s.writeChecks c (c.inline 12 && c.count == 1 && c.wordsFit) c.modifyReq none)
    (fun s c => s.goWrite c c.modifyReq)

/-- The words of an object that a write can change, as a mask. -/
def writableWords (o : ObjSpec) : Nat :=
  (List.range 32).foldl (fun a w => if maskOfFields (· != .ro) w o.fields = 0 then a else a + 2 ^ w) 0

/-- OBJ_DESCRIBE (R75). -/
def execObjDescribe (ring idx : Nat) (s : State) : Res :=
  s.runCmd ring idx (isOp opDescribe)
    (fun s c =>
      { form := !c.buf, bad := if c.unknownObj then some (c.objid, 0) else none, auth := false
        modes := s.inMode modesAll })
    (fun s c => match findObj (objUnit c.objid) (objGrp c.objid) with
      | some o => s.answer c o.nwords (writableWords o) 0 0
      | none => s.answer c 0 0 0 0)

end Sys2Proof.Machine
end

