-- ==== Sys2Proof/Machine/Images.lean ====
section
/-! DEFINITION. Configuration images: their structure (R557), their checks, CFG_LOAD, CFG_APPLY, CFG_DISCARD and CFG_READ
(R6, R78, R558). -/

namespace Sys2Proof.Machine

open Sys2Proof

/-! The structure of an image (R557, Table 3.15). -/

/-- Word at a byte offset. -/
def imgWord (ws : List W32) (off : Nat) : Nat := (ws.getD (off / 4) 0).toNat

/-- `n` words from a byte offset. -/
def imgWords (ws : List W32) (off n : Nat) : List W32 := (ws.drop (off / 4)).take n

/-- Offset and length of section `k`: objects, points, steps, goose, signature. -/
def cfgSection (ws : List W32) (k : Nat) : Nat × Nat := (imgWord ws (8 + 8 * k), imgWord ws (12 + 8 * k))

/-- The first fault of the section table from section `k` on: `pos` is where the sections before it end. -/
def sectionsFault (ws : List W32) (total : Nat) : Nat → Nat → Nat → Option Nat
  | 0, _, _ => none
  | n + 1, k, pos =>
    let x := cfgSection ws k
    if x.1 = 0 ∧ x.2 = 0 then sectionsFault ws total n (k + 1) pos
    else if x.1 % 4 ≠ 0 ∨ x.1 < pos ∨ total < x.1 then some (8 + 8 * k)
    else if x.2 % 4 ≠ 0 ∨ total < x.1 + x.2 then some (12 + 8 * k)
    else sectionsFault ws total n (k + 1) (x.1 + x.2)

/-- The object records of a section that lies from `off` to `stop`: the records, or the byte offset of the first fault. -/
def readObjs (ws : List W32) (stop : Nat) : Nat → Nat → List ImgRec → Except Nat (List ImgRec)
  | 0, _, acc => .ok acc.reverse
  | n + 1, off, acc =>
    if stop ≤ off then .ok acc.reverse
    else if stop < off + 8 then .error off
    else
      let o := imgWord ws off
      let w1 := imgWord ws (off + 4)
      let first := w1 / 65536
      let count := w1 % 65536
      match findObj (objUnit o) (objGrp o) with
      | none => .error off
      | some spec =>
        if count = 0 ∨ stop < off + 8 + 4 * count ∨ spec.nwords < first + count then .error (off + 4)
        else readObjs ws stop n (off + 8 + 4 * count) (⟨o, first, imgWords ws (off + 8) count⟩ :: acc)

/-- The step blocks of a section. -/
def readSteps (ws : List W32) (stop : Nat) : Nat → Nat → List (List W32 × Nat × List (List W32))
    → Except Nat (List (List W32 × Nat × List (List W32)))
  | 0, _, acc => .ok acc.reverse
  | n + 1, off, acc =>
    if stop ≤ off then .ok acc.reverse
    else if stop < off + 16 then .error off
    else
      let k := imgWord ws (off + 4)
      if k = 0 ∨ 1048576 < k ∨ stop < off + 16 + 32 * k then .error (off + 4)
      else readSteps ws stop n (off + 16 + 32 * k)
        ((imgWords ws off 4, imgWord ws off % 2 ^ 20, stepsOf (imgWords ws (off + 16) (8 * k)) k) :: acc)

/-- An image whose structure holds, with its reserved words still to be judged. -/
structure RawImage where
  image : CfgImage
  /-- the heads of the step blocks -/
  heads : List (List W32)

/-- The structure check: the image, or the byte offset of the first word at fault.  `room` is the buffer's length.  DESIGN CHOICE
(assumption 72): a total length below 64 or no multiple of 4, a step count of 0 or above 1,048,576, and a GOOSE section of another
length than 192 are faults too; a record that overruns its section is at fault in the word of its count. -/
def readImage (ws : List W32) (room : Nat) (signed : Bool) : Except Nat RawImage :=
  let total := imgWord ws 4
  if imgWord ws 0 % 65536 ≠ 1 then .error 0
  else if room < total ∨ total < 64 ∨ total % 4 ≠ 0 then .error 4
  else match sectionsFault ws total 5 0 64 with
    | some f => .error f
    | none =>
      let so := cfgSection ws 0
      let sp := cfgSection ws 1
      let ss := cfgSection ws 2
      let sg := cfgSection ws 3
      match readObjs ws (so.1 + so.2) (so.2 / 4) so.1 [] with
      | .error f => .error f
      | .ok objs =>
        if sp.2 % 32 ≠ 0 then .error (sp.1 + sp.2 / 32 * 32)
        else match readSteps ws (ss.1 + ss.2) (ss.2 / 4) ss.1 [] with
          | .error f => .error f
          | .ok steps =>
            if sg.2 ≠ 0 ∧ sg.2 ≠ 192 then .error sg.1
            else
              let raw := imgWords ws 0 (total / 4)
              let im : CfgImage :=
                { raw := raw, len := total, crc := crc32c raw, svn := imgWord ws 52 % 65536, vmask := imgWord ws 48 % 8, signed := signed
                  objs := objs
                  points := if sp.2 = 0 then none else some ((List.range (sp.2 / 32)).map (fun k => imgWords ws (sp.1 + 32 * k) 8))
                  steps := steps.map (fun e => (e.2.1, e.2.2))
                  goose := if sg.2 = 0 then [] else imgWords ws sg.1 48 }
              .ok ⟨im, steps.map (·.1)⟩

/-- Reserved fields of the header and of a step block (R8). -/
def RawImage.rsvBad (x : RawImage) : Bool :=
  let w (k : Nat) : W32 := x.image.raw.getD k 0
  (w 0).get 31 16 != 0 || (w 12).get 31 3 != 0 || (w 13).get 31 16 != 0 || w 14 != 0 || w 15 != 0

/-! Presence and field values (R6, R78). -/

/-- The object IDs under which the sections other than the objects are reported. -/
def pointsObj : Nat := 0x22000000
def stepsObj : Nat := 0x23000003
def gooseObj : Nat := 0x42000002

def ImgRec.req (r : ImgRec) : WReq := wreq r.objid r.first (wholeWords r.words)

/-- The settings as they will stand once the image is applied. -/
def State.withImage (s : State) (im : CfgImage) : State :=
  let p := (im.objs.filter (fun r => !objUnknown (objUnit r.objid) (objGrp r.objid) (objInst r.objid))).foldl
    (fun s r => s.applyWords r.req) s.planned
  match im.points with
  | none => p
  | some recs => { p with pd := { p.pd with defs := (recs.map ptDefOf).foldl (fun m e => mset (fun _ => none) e.1 (some e.2) m) [] } }

/-- The first record that names something absent, by its object ID or by a value, over the settings `q` as the records before it
leave them; a later record does not take such a value back (R6). -/
def recordAbsent : State → List ImgRec → Option Nat
  | _, [] => none
  | q, r :: t =>
    let q' := q.applyWords r.req
    if q.objAbsent (objUnit r.objid) (objGrp r.objid) (objInst r.objid) || absentValue q' r.req then some r.objid
    else recordAbsent q' t

/-- The first thing an image names that the variant lacks (R6): RES0. -/
def State.imageAbsent (s p : State) (im : CfgImage) : Option Nat :=
  if im.vmask / s.byVar 1 2 4 % 2 = 0 then some 0x02000000
  else match recordAbsent s.planned im.objs with
    | some o => some o
    | none => if p.pointsAbsent (im.points.getD []) then some pointsObj else none

/-- The records of an image in order, with the settings after each: the first whose values are refused.  `p` is the state once
the whole image is applied. -/
def recordBad (s p : State) : State → List ImgRec → Option Nat
  | _, [] => none
  | q, r :: t =>
    if objUnknown (objUnit r.objid) (objGrp r.objid) (objInst r.objid) then some r.objid
    else
      let q' := q.applyWords r.req
      if badValue s p r.req || (overBudget p r.req && overBudget q' r.req) then some r.objid else recordBad s p q' t

/-- The image writes the bit of a sink point by an object record (R331). -/
def CfgImage.writesSink (im : CfgImage) (d : PtDef) : Bool :=
  (d.bind == 8 || d.bind == 9) && im.objs.any (fun r =>
    r.objid == (if d.bind = 8 then 0x10000030 else 0x11000030) && decide (r.first ≤ d.op / 32) && decide (d.op / 32 < r.first + r.words.length))

/-- The field-value check: RES0 and RES1 of the first refusal. -/
def State.imageBad (s p : State) (im : CfgImage) : Option (Nat × Nat) :=
  match recordBad s p s.planned im.objs with
  | some o => some (o, 0)
  | none =>
    match (im.points.bind (fun recs => p.pointsBad recs im.writesSink)) with
    | some i => some (pointsObj, i)
    | none =>
      if im.steps.any (fun e => decide (1048576 < e.1 + e.2.length) || (stepsBad p e.2).isSome) then some (stepsObj, 0)
      else none

/-- Signature, structure, presence, field values (R78, R524): what the image refuses with. -/
def State.loadFault (s : State) (ws : List W32) (room : Nat) (sigOk : Bool) : Option (Status × Nat × Nat) :=
  if !s.openedLike && (!sigOk || decide (imgWord ws 52 % 65536 < s.sc.cfgSvn)) then some (.authFail, 0, 0)
  else match readImage ws room (sigOk || !s.openedLike) with
    | .error f => some (.imageInvalid, f, 0)
    | .ok x =>
      let p := s.withImage x.image
      match s.imageAbsent p x.image with
      | some o => some (.unitAbsent, o, 0)
      | none =>
        if x.rsvBad then some (.badObject, 0, 0)
        else if x.heads.any (fun h => (h.getD 0 0).get 31 20 != 0 || h.getD 2 0 != 0 || h.getD 3 0 != 0) then some (.badObject, stepsObj, 0)
        else (s.imageBad p x.image).map (fun e => (.badObject, e.1, e.2))

/-- CFG_LOAD (R78). -/
def execCfgLoad (ring idx : Nat) (buf : Option (List W32)) (sigOk : Bool) (s : State) : Res :=
  s.runCmd ring idx (isOp opCfgLoad)
    (fun s c =>
      { form := c.buffer 0 0, auth := false, modes := s.inMode modesAll
        own := match s.reach c buf with
          | none => some (.dmaFault, 0, 0)
          | some ws => s.loadFault ws c.bufLen sigOk })
    (fun s c =>
      match readImage (buf.getD []) c.bufLen (sigOk || !s.openedLike) with
      | .ok x => State.done { s with mb := { s.mb with staged := some x.image } } c 0 0 0 0
      | .error _ => s)

/-! Applying an image (R78). -/

/-- What an image may change in RUN: protection settings, the standby banks, the settings of loops and axes that are not
structural. -/
def freeInRun (s p : State) (r : WReq) : Bool :=
  match r.unit with
  | 0x08 => !afModeForbids s.asCmdMode r
  | 0x09 => !fcModeForbids s.asCmdMode r
  | 0x10 => true
  | 0x11 => true
  | 0x18 =>
    if r.grp = 1 then p.structure_ r.i == s.structure_ r.i && !leModeForbids s p 1 r.i
    else (r.grp == 2 || r.grp == 3) && !leModeForbids s p r.grp r.i
  | 0x19 => r.grp == 1 && p.axStructure r.i == s.axStructure r.i
  | _ => false

/-- A record asks for an action beyond settings: a WO bit. -/
def WReq.acts (r : WReq) : Bool :=
  let fs := ((findObj r.unit r.grp).map (·.fields)).getD []
  (r.ws.zipIdx).any (fun e => maskOfFields (· == .wo) (r.first + e.2) fs &&& e.1.2.toNat != 0)

/-- The first object of the image, in image order, that RUN does not let it change. -/
def State.runForbids (s p : State) (im : CfgImage) : Option Nat :=
  match im.objs.find? (fun r =>
      let q := r.req
      (changesObj s p q.unit q.grp q.i || q.acts || (q.unit == 8 && q.grp == 0x11)) && !freeInRun s p q) with
  | some r => some r.objid
  | none =>
    if im.points.isSome && p.pd.defs != s.pd.defs then some pointsObj
    else if im.steps.any (fun e => (e.2.zipIdx).any (fun x => mget (fun _ => []) s.rp.steps (e.1 + x.2) != x.1.take 5)) then some stepsObj
    else if !im.goose.isEmpty && im.goose != s.rb.gooseStr then some gooseObj
    else none

/-- States of the units that refuse a record. -/
def State.imageState (s p : State) (im : CfgImage) : Option (Status × Nat × Nat) :=
  im.objs.findSome? (fun r => ownState s p r.req)

/-- The own checks of CFG_APPLY. -/
def State.applyFault (s : State) : Option (Status × Nat × Nat) :=
  match s.mb.staged with
  | none => some (.noMatch, 0, 0)
  | some im =>
    let p := s.withImage im
    match s.imageBad p im with
    | some e => some (.badObject, e.1, e.2)
    | none =>
      match (if s.cmdMode == .run then s.runForbids p im else none) with
      | some o => some (.modeForbids, o, 0)
      | none => s.imageState p im

/-- Every part of an image takes effect or is staged for its unit's boundary. -/
def State.takeImage (s : State) (im : CfgImage) : State :=
  let reqs := im.objs.map ImgRec.req
  let wait := reqs.filter (fun r => s.waits r.unit)
  let prot := reqs.filter (fun r => protUnit r.unit && !s.waits r.unit)
  let now := reqs.filter (fun r => !protUnit r.unit && !s.waits r.unit)
  let sb := if wait.any (fun r => protUnit r.unit) then s else s.banksLoad
  let s1 : State := { sb with staged := sb.staged ++ wait.map (fun r => ⟨none, r.objid, r.first, r.ws⟩) }
  let s2 := now.foldl (fun s r => (s.commitWrite r none).1) (if prot.isEmpty then s1 else s1.protCommit prot)
  let s3 := match im.points with
    | some recs => s2.pointsApply recs
    | none => s2
  let s4 := s3.rpApply im.steps
  if im.goose.isEmpty then s4 else { s4 with rb := { s4.rb with gooseStr := im.goose } }

/-- The image becomes the committed one, in force (R78, R524). -/
def State.commitImage (s : State) (im : CfgImage) : State :=
  { s with
    mb := { s.mb with staged := none, committed := some im, older := s.mb.committed.toList ++ s.mb.older }
    sc := { s.sc with cfgSvn := max s.sc.cfgSvn im.svn, unsignedCfg := !im.signed } }

/-- The paths begin at configuration apply; the cores that the image enables begin to convert 2 ms later, when their reference buffers
have settled (R127, Table 2.10). -/
def State.bootPaths (s : State) : State :=
  let cores := (List.range 16).filter (fun k => s.flag AF_CORE_EN k)
  let s1 := cores.foldl (fun t k => t.setFlag AF_CORE_EN k false) s
  State.pathsBegin { s1 with af := { s1.af with enPend := some (s.tai + 2000000, cores) } } s.tai

/-- CFG_APPLY (R78, R562). -/
def execCfgApply (ring idx : Nat) (s : State) : Res :=
  s.runCmd ring idx (isOp opCfgApply)
    (fun s c =>
      { form := !c.buf, auth := true
        modes := s.inMode modesCrs || (s.mo.mode == .boot && s.mo.boot == .awaitConfig)
        own := s.applyFault })
    (fun s c =>
      match s.mb.staged with
      | none => s
      | some im =>
        let s1 : State := (s.commitImage im).takeImage im
        if s.mo.mode == .boot then
          State.done
            (State.bootPaths { s1 with mo := { s1.mo with boot := .protection, controlLoaded := s1.mo.sdram.isSome } }) c 0 0 0 0
        else
          State.applyDone
            (State.start { s1 with mb := { s1.mb with applying := some (c.ring, c.order, s.now), applyUnits := im.units } } c))

/-- CFG_DISCARD (R78). -/
def execCfgDiscard (ring idx : Nat) (s : State) : Res :=
  s.runCmd ring idx (isOp opCfgDiscard)
    (fun s c => { form := !c.buf, auth := false, modes := s.inMode modesAll })
    (fun s c =>
      if s.mb.staged.isNone then s.answer c 0 0 0 0 else State.done { s with mb := { s.mb with staged := none } } c 0 0 0 0)

/-- The image that a parameter selects (R558). -/
def State.selImage (s : State) (c : Cmd) : Option CfgImage := if (c.par 0).get 0 0 = 1 then s.mb.staged else s.mb.committed

/-- CFG_READ (R558). -/
def execCfgRead (ring idx : Nat) (dmaOk : Bool) (s : State) : Res :=
  s.runCmd ring idx (isOp opCfgRead)
    (fun s c =>
      { form := (if c.buf then c.buffer 1 4 else c.inline 4) && (match s.selImage c with
          | some im => !c.buf || decide (im.len ≤ c.bufLen)
          | none => true)
        bad := if (c.par 0).get 31 1 != 0 then some (c.objid, 0) else none
        auth := false
        modes := s.inMode modesAll
        own := if (s.selImage c).isNone then some (.noMatch, 0, 0) else if c.buf then s.dmaCheck c dmaOk else none })
    (fun s c => match s.selImage c with
      | some im =>
        let s1 := if c.buf then s.dmaOut c.bufLoc c.bufAddr im.raw else s
        s1.answer c im.len im.crc im.svn im.vmask
      | none => s)

end Sys2Proof.Machine
end

