-- ==== Sys2Proof/Machine/Host.lean ====
section
/-! DEFINITION. The host endpoint, the hot port and the Scoreboard (04_host_endpoint_and_scoreboard.md, R85 to R101), and the
doorbells, staging posts and ring enables of 03_captain_mailbox.md (R59, R60, R66 to R69). -/

namespace Sys2Proof.Machine

open Sys2Proof


/-! Doorbells (R60, R66, R68, Table 3.12). -/

/-- Memory writes of the host reach the endpoint (R51, R86). -/
def State.hostWrites (s : State) : Bool := s.hostOn && s.he.linkUp && !s.he.d3hot

/-- In LET and, once asleep, in SENTINEL a doorbell is latched. -/
def State.dbLatched (s : State) : Bool :=
  s.mo.mode == .letMode || (match s.mo.sent with
    | .out => false
    | .entering _ => false
    | _ => true)

/-- A doorbell word: its effect, then the wake it may be in SENTINEL (R42, R44).  DESIGN CHOICE (assumption 76): a word of KIND 0b11
acts on no ring but wakes as every doorbell does, and a doorbell in SENTINEL is latched whether or not it may wake. -/
def State.doorbell (s : State) (w : W32) : State :=
  let s1 :=
    if dbKind w = 3 then s
    else if dbKind w = 2 then s.stagingPost (dbRing w) (dbIndex w % 4)
    else if s.dbLatched then s.dbLatch (dbKind w) (dbRing w) (dbIndex w)
    else s.dbApply (dbKind w) (dbRing w) (dbIndex w)
  s1.wakeBy .doorbell

/-- A doorbell reaches the device: the hot port, or BAR0. -/
def State.rings (s : State) (hot : Bool) : Bool := s.hostOn && (if hot then s.hotOn else s.hostWrites)

/-- A doorbell of one kind. -/
def State.doorbellRow (s : State) (hot : Bool) (w : W32) (kind : Nat) : State :=
  if s.rings hot && dbKind w == kind then s.doorbell w else s

/-- DOORBELL_PROD. -/
def execDoorbellProd (hot : Bool) (word : W32) (s : State) : Res := .next (s.doorbellRow hot word 0)

/-- DOORBELL_CONS. -/
def execDoorbellCons (hot : Bool) (word : W32) (s : State) : Res := .next (s.doorbellRow hot word 1)

/-- STAGING_POST. -/
def execStagingPost (hot : Bool) (word : W32) (s : State) : Res := .next (s.doorbellRow hot word 2)

/-! Ring registers (R58, R59). -/

/-- A write of words of a BAR0 register, by its fields. -/
def State.bar0Fields (s : State) (grp i w v : Nat) : State :=
  s.applyWords ⟨0x100, grp, i, w, [(0xFFFFFFFF, BitVec.ofNat 32 v)]⟩

/-- What refuses an enable (Table 3.2).  DESIGN CHOICE (assumption 75): so does a BASE_HI that is not 0 with LOC = 1, where the table
only says that it must be 0. -/
def State.enableBad (s : State) (n : Nat) : Bool :=
  let k := s.rd MB_RINGREG_SIZE_LOG2 n
  decide (k < 4) || decide (16 < k) || (s.rd MB_RINGREG_KIND n == 0 && decide (2 ≤ s.rd MB_RINGREG_MASTER n))
    || (s.flag MB_RINGREG_LOC n && s.rd MB_RINGREG_BASE_HI n != 0)

/-- A write of word 2: an enabled ring takes only EN = 0; an enable sets PROD and CONS to 0 and the phase to 1, or is refused. -/
def State.ringWord2 (s : State) (n v : Nat) : State :=
  let en := natBit v 31
  if s.flag MB_RINGREG_EN n then (if en then s else s.wr MB_RINGREG_EN n 0)
  else
    let s1 := s.bar0Fields 0 n 2 (v % 2 ^ 31)
    if !en then s1
    else if s1.enableBad n then s1.ringFault n 2
    else
      let s2 := ((s1.wr MB_RINGREG_EN n 1).wr MB_RINGREG_PROD n 0).wr MB_RINGREG_CONS n 0
      { s2 with mb := { s2.mb with phase := mset (fun _ => true) n true s2.mb.phase } }

/-- A write of a ring register block. -/
def State.ringWrite (s : State) (n w v : Nat) : State :=
  if !s.ringServed n then s
  else if w = 2 then s.ringWord2 n v
  else if w < 2 then (if s.flag MB_RINGREG_EN n then s else s.bar0Fields 0 n w v)
  else s.bar0Fields 0 n w v

/-- RING_ENABLE (R59): a write of word 2 that changes EN from 0 to 1. -/
def execRingEnable (ring : Nat) (word2 : W32) (s : State) : Res :=
  if s.hostWrites && decide (ring < 64) && word2.get 31 31 == 1 && !s.flag MB_RINGREG_EN ring then
    .next (s.ringWrite ring 2 word2.toNat)
  else .next s

/-! BAR0 (R87, R88). -/

/-- A write of HE_INTCTL word 0: when GEN goes from 0 to 1, pending messages are raised. -/
def State.intctlWrite (s : State) (v : Nat) : State :=
  let s1 := s.bar0Fields 1 0 0 v
  if s1.flag HE_INTCTL_GEN 0 && !s.flag HE_INTCTL_GEN 0 then s1.flushPending else s1

/-- MSIX_GEN_ENABLE (R88). -/
def execMsixGenEnable (word : W32) (s : State) : Res :=
  if s.hostWrites && word.get 31 31 == 1 && !s.flag HE_INTCTL_GEN 0 then .next (s.intctlWrite word.toNat) else .next s

/-- One 32-bit word of BAR0. -/
def State.bar0Word (s : State) (a v : Nat) : State :=
  if a < 0x800 then s.ringWrite (a / 32) (a % 32 / 4) v
  else if a = 0x800 then s.doorbell (BitVec.ofNat 32 v)
  else if a = 0x1100 then s.intctlWrite v
  else if a = 0x1104 then s.bar0Fields 1 0 1 v
  else if a = 0x1200 then s.bar0Fields 2 0 0 v
  else if 0x2000 ≤ a ∧ a < 0x2400 then (s.bar0Fields 3 ((a - 0x2000) / 16) (a % 16 / 4) v).flushPending
  else s

/-- BAR0_REGISTER_WRITE (R87): single aligned 32-bit words, and aligned 64-bit accesses to the MSI-X table. -/
def execBar0RegisterWrite (addr bytes value : Nat) (s : State) : Res :=
  if !s.hostWrites then .next s
  else if bytes = 4 ∧ addr % 4 = 0 then .next (s.bar0Word addr (value % 2 ^ 32))
  else if bytes = 8 ∧ addr % 8 = 0 ∧ 0x2000 ≤ addr ∧ addr < 0x2400 then
    .next ((s.bar0Word addr (value % 2 ^ 32)).bar0Word (addr + 4) (value / 2 ^ 32 % 2 ^ 32))
  else .next s

/-! BAR2, BAR4, the hot port (R89, R90, R95). -/

/-- A rejected write is counted in word 0x0FF1. -/
def State.rejectWrite (s : State) : State := { s with sb := { s.sb with rejected := satAdd 0xFFFFFFFF s.sb.rejected 1 } }

/-- BAR2_WRITE (R89): discarded and counted. -/
def execBar2Write (_addr _bytes _value : Nat) (s : State) : Res := if s.hostWrites then .next s.rejectWrite else .next s

/-- A BAR4 write acts (R90): an aligned write of bytes 0 to 7 of a record that the directory holds, its value in form.  DESIGN CHOICE
(assumption 78): one that names a mirror whose origin cannot be reached, or that comes before the Umpire runs, does not act and is
counted in DROP. -/
def State.bar4Acts (s : State) (addr bytes value : Nat) : Bool :=
  s.flag HE_BAR4CFG_WR_EN 0 && bytes == 8 && addr % 16 == 0 && s.umOn && !(s.mo.mode == .letMode) && !(s.mo.mode == .sentinel)
    && !s.entryBad false (addr / 16, 0, value) && !s.entryDown (addr / 16, 0, value)

/-- BAR4_WRITE. -/
def execBar4Write (addr bytes value : Nat) (s : State) : Res :=
  if !s.hostWrites then .next s
  else if s.bar4Acts addr bytes value then
    let r := s.masterRank (if s.flag HE_BAR4CFG_MASTER 0 then .hostB else .hostA)
    .next (s.umWrite ⟨addr / 16, value, false, r.1, r.2, 0, none, 0, none, none, false⟩)
  else .next (s.bump HE_BAR4CFG_DROP 0 1)

/-- HOT_PORT_WRITE (R95, R100): command words of the staging slots, the doorbell word; every other write is rejected. -/
def execHotPortWrite (addr : Nat) (value : W32) (s : State) : Res :=
  if !s.hotOn then .next s
  else if 0xF00 ≤ addr ∧ addr < 0xF80 ∧ addr % 32 < 16 then
    .next { s with sb := { s.sb with slots := mset (fun _ => 0) ((addr - 0xF00) / 32 * 32 + addr % 32) value.toNat s.sb.slots } }
  else if addr = 0xFF0 then .next (if s.rings true then s.doorbell value else s)
  else .next s.rejectWrite

/-! Reads (R51, R85, R87, R89, R90).  A read changes nothing, and the table has no row for one: what it answers is a function of the
state. -/

/-- The completion of a read request: data, or a completion status of the PCI Express specification. -/
inductive ReadAnswer where
  | data (ws : List W32)
  | retry
  | unsupported
  | completerAbort
  deriving DecidableEq, Repr

/-- A word of BAR0 (Table 4.2); reserved ranges and the doorbell word read 0. -/
def State.bar0Shows (s : State) (a : Nat) : W32 :=
  if a < 0x800 then s.word 0x100 0 (a / 32) (a % 32 / 4)
  else if 0x1000 ≤ a ∧ a < 0x1030 then s.capWord ((a - 0x1000) / 4)
  else if 0x1100 ≤ a ∧ a < 0x1108 then s.word 0x100 1 0 ((a - 0x1100) / 4)
  else if 0x1200 ≤ a ∧ a < 0x1208 then s.word 0x100 2 0 ((a - 0x1200) / 4)
  else if 0x2000 ≤ a ∧ a < 0x2400 then s.word 0x100 3 ((a - 0x2000) / 16) (a % 16 / 4)
  else if 0x3000 ≤ a ∧ a < 0x3008 then BitVec.ofNat 32 (s.rdk MSIX_PBA_PEND 0 ((a - 0x3000) / 4))
  else 0

/-- The words that an aligned range of bytes covers. -/
def coverWords (addr bytes : Nat) : List Nat := List.range' (addr / 4) ((addr + bytes + 3) / 4 - addr / 4)

/-- A memory read of BAR0 (R87): aligned 32-bit words, and aligned 64-bit accesses to the MSI-X table. -/
def State.bar0Read (s : State) (addr bytes : Nat) : ReadAnswer :=
  if !s.hostWrites then .unsupported
  else if bytes = 4 ∧ addr % 4 = 0 then .data [s.bar0Shows addr]
  else if bytes = 8 ∧ addr % 8 = 0 ∧ 0x2000 ≤ addr ∧ addr < 0x2400 then .data [s.bar0Shows addr, s.bar0Shows (addr + 4)]
  else .completerAbort

/-- A memory read of BAR2 (R89): Scoreboard words at 4 × their address. -/
def State.bar2Read (s : State) (addr bytes : Nat) : ReadAnswer :=
  if !s.hostWrites then .unsupported
  else if addr % 4 ≠ 0 ∨ bytes % 4 ≠ 0 then .completerAbort
  else .data ((coverWords addr bytes).map (fun a => BitVec.ofNat 32 (s.sbWord a)))

/-- A word of the point window: the record of a point at 16 × its index, zero where the directory holds none (R90, R91). -/
def State.bar4Shows (s : State) (w : Nat) : W32 :=
  if (s.ptDef (w / 4)).isSome then BitVec.ofNat 32 ((s.ptWords (w / 4)).getD (w % 4) 0) else 0

/-- A memory read of BAR4 (R90), from one snapshot: the words that the request covers. -/
def State.bar4Read (s : State) (addr bytes : Nat) : ReadAnswer :=
  if !s.hostWrites then .unsupported
  else if s.mo.mode == .sentinel then .completerAbort
  else .data ((coverWords addr bytes).map s.bar4Shows)

/-- The function's identity in its Type 0 header (Table 4.1): Device ID by variant, class code, header type 0; Erzomet's Vendor ID
and the revision are the manual's to give, and it does not. -/
def State.cfgShows (s : State) (w : Nat) : W32 :=
  match w with
  | 0 => BitVec.ofNat 32 (s.byVar 0x9640 0x9632 0x9616 * 2 ^ 16 + Config.pcieVendor % 2 ^ 16)
  | 2 => BitVec.ofNat 32 (0x118000 * 2 ^ 8 + Config.pcieRevision % 2 ^ 8)
  | 3 => 0
  | _ => Config.pcieConfig w

/-- Sizes of the BARs in bytes (Table 4.1): BAR0, BAR2, and the 64-bit pair BAR4 and BAR5. -/
def barSize : Nat → Option Nat
  | 0 => some 0x10000
  | 2 => some 0x10000
  | 4 => some 0x8000000
  | _ => none

/-- A configuration read: configuration-retry until the Captain is ready or ROM recovery serves (R51, Table 2.11). -/
def State.cfgRead (s : State) (w : Nat) : ReadAnswer := if s.hostOn then .data [s.cfgShows w] else .retry

/-! The link (R86). -/

/-- The endpoint has power and has left the ROM check. -/
def State.endpointOn (s : State) : Bool :=
  s.mo.resetN && s.mo.rails && s.mo.mode != .keeper
    && !(s.mo.boot == .resetLow || s.mo.boot == .rom || (s.mo.boot == .stuck && s.mo.bootstat == 1))

/-- Hot reset, FLR, D3hot: rings in host memory are disabled, the MSI-X table takes its reset state. -/
def State.endpointReset (s : State) : State :=
  let s1 := (List.range 64).foldl (fun s n =>
    if s.flag MB_RINGREG_EN n && !s.flag MB_RINGREG_LOC n then s.wr MB_RINGREG_EN n 0 else s) s
  (List.range 64).foldl (fun s v => (List.range 4).foldl (fun s w => s.putWord 0x100 3 v w (resetWord 0x100 3 w)) s) s1

/-- PCIE_HOT_RESET (R86). -/
def execPcieHotReset (s : State) : Res := if s.endpointOn && s.he.linkUp then .next s.endpointReset else .next s

/-- D3HOT_ENTRY (R86). -/
def execD3hotEntry (s : State) : Res :=
  if s.hostOn && s.he.linkUp && !s.he.d3hot then
    let s1 := s.endpointReset
    .next { s1 with he := { s1.he with d3hot := true } }
  else .next s

/-- D0_RESTORE (R86). -/
def execD0Restore (s : State) : Res :=
  if s.hostOn && s.he.linkUp && s.he.d3hot then .next (State.flushPending { s with he := { s.he with d3hot := false } }) else .next s

/-- PCIE_LINK_TRAINED (R50, R51): the link of LANE_00 to LANE_03 comes up, or is lost. -/
def execPcieLinkTrained (up : Bool) (s : State) : Res :=
  if !s.endpointOn then .next s
  else .next ((List.range 4).foldl (fun s n => s.setFlag LN_LANE_UP n up) { s with he := { s.he with linkUp := up } })

end Sys2Proof.Machine
end

