-- ==== Sys2Proof/Machine/Boot.lean ====
section
/-! DEFINITION. Start-up: power, RESET_N, the steps of BOOT, and COLD_RESTART (02_modes_and_startup.md, R35, R36, R49 to R52,
R562; R367). -/

namespace Sys2Proof.Machine

open Sys2Proof

/-! What a reset leaves. -/

/-- Registers that RESET_N does not reset: the Keeper's (R35), and the field calibration constants, which are non-volatile
(R123). -/
def keptReg (k : Nat) : Bool :=
  let g := k / 2 ^ 28
  g / 256 == 1 || g == 0x811 || g == 0x812

/-- What stays when the main domain is reset: fuses, the key store, the Keeper, the continuity memory die with its journal,
the committed images, the archive in NAND, the field calibration constants; the model's own counters. -/
def State.cleared (s : State) : State :=
  { State.reset with
    var := s.var, serial := s.serial, elapsed := s.elapsed, free := s.free, pending := s.pending, kp := s.kp, sc := s.sc
    regs := s.regs.filter (fun e => keptReg e.1)
    tu := { TimeUnit.init with running := false }
    mb := { Mailbox.init with committed := s.mb.committed, older := s.mb.older }
    lg := { LgSt.init with committed := s.lg.committed }
    cs := { CsSt.init with
      slotA := s.cs.slotA, slotB := s.cs.slotB, imgA := s.cs.imgA, imgB := s.cs.imgB, journal := s.cs.journal
      jseq := s.cs.jseq }
    ar := { ArSt.init with pages := s.ar.pages, retired := s.ar.retired, pageSeq := s.ar.pageSeq, lastCh := s.ar.lastCh }
    ev := { EvSt.init with archNext := s.ev.archNext, anyArchived := s.ev.anyArchived }
    ch := { ChSt.init with
      next := s.ch.archNext, archNext := s.ch.archNext, anyArchived := s.ch.anyArchived, archEpoch := s.ch.archEpoch }
    af := { AfSt.init with
      calBad := s.af.calBad, fieldOk := s.af.fieldOk, sliceFac := s.af.sliceFac, slices := s.af.sliceFac } }

/-- RESET_N_LOW (R32): the device is held in BOOT; in KEEPER nothing but the ball changes. -/
def execResetNLow (s : State) : Res :=
  if !s.mo.resetN then .next s
  else if s.mo.mode == .keeper then .next { s with mo := { s.mo with resetN := false } }
  else
    let mo : Modes := { Modes.init with prev := s.mo.mode, cause := 2, boot := .resetLow, resetN := false, vddKeep := s.mo.vddKeep }
    .next { s.cleared with mo := mo }

/-- VDD_CORE_LOW (R539): from any mode to KEEPER. -/
def execVddCoreLow (s : State) : Res :=
  if s.mo.mode == .keeper then .next s
  else
    let mo : Modes := { Modes.init with
      mode := .keeper, prev := s.mo.mode, boot := .resetLow, resetN := false, rails := false, vddKeep := s.mo.vddKeep }
    .next { s.cleared with mo := mo }

/-- The Keeper domain takes its reset values (R35, R542). -/
def State.keeperReset (s : State) : State :=
  { s with kp := Keeper.init, regs := s.regs.filter (fun e => !(e.1 / 2 ^ 28 / 256 == 1)) }

/-- VDD_KEEP_APPLIED (R35). -/
def execVddKeepApplied (s : State) : Res :=
  if s.mo.vddKeep then .next s
  else
    let s1 := s.keeperReset
    .next { s1 with mo := { s1.mo with vddKeep := true } }

/-- VDD_KEEP_LOSS (R542). -/
def execVddKeepLoss (s : State) : Res :=
  let s1 := s.keeperReset
  .next { s1 with mo := { s1.mo with vddKeep := false } }

/-- The time counter is loaded from the real-time counter (R36). -/
def State.timeLoad (s : State) : State :=
  let n := s.kp.rtcTick * 1000000000
  { s with tu := { TimeUnit.init with
      sec := s.kp.rtcSec % 2 ^ 48, ns := n / 32768, frac := n % 32768 * 2 ^ 17, holdSince := s.elapsed, adjAt := s.elapsed } }

/-- RESET_N_RELEASE (R50): BOOT begins, from KEEPER with the rails back or after RESET_N low; every field has its reset value. -/
def execResetNRelease (s : State) : Res :=
  if s.mo.resetN || !s.mo.vddKeep then .next s
  else
    let power := s.mo.mode == .keeper
    let prev := if power then Mode.keeper else s.mo.prev
    let cause := if power then 1 else 2
    let s0 := s.cleared.timeLoad
    let s1 : State := { s0 with
      mo := { Modes.init with prev := prev, cause := cause, entry := s0.now }
      kp := { s0.kp with wakeNLow := false, rcErr := false } }
    let s2 := s1.scBoot.notify 0x02 1 0 prev.code 1 cause 0
    .next (if s.kp.rcErr then s2.raiseErr 0x0180 1 else s2)

/-! The steps of Table 2.10. -/

/-- A step of BOOT is due. -/
def State.bootAt (s : State) (b : BootStep) : Bool := s.mo.mode == .boot && s.mo.resetN && s.mo.rails && s.mo.boot == b

/-- The device stays in BOOT, or goes on with a status code (Table 2.11). -/
def State.bootTo (s : State) (b : BootStep) (stat : Nat) : State := { s with mo := { s.mo with boot := b, bootstat := stat } }

/-- ROM_CHECK_DONE. -/
def execRomCheckDone (ok : Bool) (s : State) : Res :=
  if s.bootAt .rom then .next (if ok then s.bootTo .firmware 0 else s.bootTo .stuck 1) else .next s

/-- The image of a firmware slot (false A): present, its signature good, its SVN not below FW_SVN (R522, R523). -/
def State.fwGood (s : State) (b okA okB : Bool) : Bool :=
  match if b then s.sc.slotB else s.sc.slotA with
  | some x => (if b then okB else okA) && decide (s.sc.fwSvn ≤ x.svn)
  | none => false

/-- FIRMWARE_VERIFIED (R522): the slot marked pending, then the one that last booted. -/
def execFirmwareVerified (okA okB : Bool) (s : State) : Res :=
  if !s.bootAt .firmware then .next s
  else
    let order := if s.sc.fwPend then [!s.sc.fwSlot, s.sc.fwSlot] else [s.sc.fwSlot]
    match order.find? (fun b => s.fwGood b okA okB) with
    | some b => .next (State.bootTo { s with sc := { s.sc with fwBooted := b } } .captain s.mo.bootstat)
    | none => .next (s.bootTo .recovery 2)

/-- CAPTAIN_READY (R51): the mailbox opens; after a boot from the pending slot, FW_SVN and the booting slot follow (R523). -/
def execCaptainReady (s : State) : Res :=
  if !s.bootAt .captain then .next s
  else
    let s1 : State := { s with mo := { s.mo with captain := true, boot := .sram } }
    let s2 : State := match s1.runningFw with
      | some x =>
        if s1.sc.fwPend && s1.sc.fwBooted != s1.sc.fwSlot then
          { s1 with sc := { s1.sc with fwSvn := max s1.sc.fwSvn x.svn, fwSlot := s1.sc.fwBooted, fwPend := false } }
        else s1
      | none => s1
    .next s2.deliverHeld

/-- A failure of Table 2.11 that leads to SAFE at TRAIN exit: error 0x0284, class D.  Of several failures the last stands in
BOOTSTAT, and 0x04 and 0x05 stand there again from TRAIN entry (assumption 73). -/
def State.bootError (s : State) (stat : Nat) : State :=
  State.raiseErr { s with mo := { s.mo with bootFail := true, bootCode := stat, bootstat := stat } } 0x0284 4

/-- SRAM_SELF_TEST_DONE (R52); COLD_RESTART skips the protection SRAM (R367). -/
def execSramSelfTestDone (protOk otherOk : Bool) (s : State) : Res :=
  if !s.bootAt .sram then .next s
  else if !protOk && !s.mo.coldBoot then .next (State.bootTo { s with mo := { s.mo with protFail := true } } .stuck 3)
  else
    let s1 := if otherOk then s else s.bootError 4
    .next { s1 with mo := { s1.mo with boot := .sdram } }

/-- EV restarts with the ARCH setting that will apply. -/
def State.evBegin (s : State) : State :=
  let arch := if s.mo.coldBoot then s.arch
    else match s.mb.committed with
      | some im => (s.withImage im).arch
      | none => s.arch
  s.evRestart arch

/-- SDRAM training may end: from the SRAM self-test on, also after the steps that do not wait for it (R50). -/
def State.sdramDue (s : State) : Bool :=
  s.mo.sdram.isNone && s.mo.resetN && s.mo.rails
    && ((s.mo.mode == .boot && (s.mo.boot == .sdram || s.mo.boot == .protection || s.mo.boot == .awaitConfig))
      || (s.mo.mode == .train && s.mo.boot == .done))

/-- SDRAM_TRAINED (R50, R52, R364, R392, R393): the recorder starts, and the newest slot is loaded into the store.  The control
partition is loaded once the configuration stands too. -/
def execSdramTrained (ok : Bool) (mib : Nat) (slotOk : Bool) (s : State) : Res :=
  if !s.sdramDue then .next s
  else
    let s0 : State := { s with mo := { s.mo with
      sdram := some ok, boot := if s.mo.boot == .sdram then .config else s.mo.boot
      controlLoaded := s.mo.boot == .protection || s.mo.boot == .done } }
    if !ok then .next ((s0.bootError 5).evBegin.evLastResort 1 0 true)
    else
      let s1 := (s0.wr MB_CAP_SDRAM_MIB 0 mib).evBegin
      .next { s1 with cs := { s1.cs with loaded := if slotOk then s1.resumable.map (·.2) else none, sdSeen := [] } }

/-- The committed logic image is loaded when it verifies (R315, R524); with another failure of the step, or alone, BOOTSTAT
reads 0x06. -/
def State.bootLogic (s : State) (ok : Bool) : State :=
  match s.lg.committed with
  | none => State.bankShow (State.homeTasks { s with lg := { s.lg with active := none } }) 0
  | some im =>
    if !ok then State.bankShow (State.homeTasks { s with lg := { s.lg with active := none }, mo := { s.mo with bootstat := 6 } }) 0
    else if s.mo.coldBoot && s.lg.active == some im then (s.bankShow 0)
    else State.bankShow (State.homeTasks { s with lg := { s.lg with active := some im } }) 0

/-- The constants of AF as BOOT finds them (R123): factory sets whose signature fails, field sets whose CRC fails. -/
def State.calFound (s : State) (badFactory badField : List Nat) : State :=
  let fac := badFactory.foldl (fun m c => mset (fun _ => false) c true m) ([] : AMap Bool)
  let fld := badField.foldl (fun m c => mset (fun _ => false) c false m) s.af.fieldOk
  { s with af := { s.af with calBad := fac, fieldOk := fld } }

/-- BOOT_CONFIG_APPLY (R50, R52, R524, R532): the newest committed image that verifies is applied; `bad` counts those newer
that do not; with none the device awaits a configuration load (R562).  Protection does not wait for SDRAM, whose training may
still run (R50; assumption 84). -/
def execBootConfigApply (bad : Nat) (logicOk : Bool) (badFactory badField : List Nat) (s : State) : Res :=
  if !s.bootAt .config && !s.bootAt .sdram then .next s
  else if s.mo.coldBoot then
    let s1 := s.bootLogic logicOk
    .next { s1 with mo := { s1.mo with boot := .protection, controlLoaded := s1.mo.sdram.isSome } }
  else
    let s0 := (s.markerRecover).calFound badFactory badField
    let l := (s0.mb.committed.toList ++ s0.mb.older).drop bad
    match l with
    | [] => .next ((State.bootLogic s0 logicOk).bootTo .awaitConfig 6)
    | im :: t =>
      let s1 : State := { s0 with
        mb := { s0.mb with committed := some im, older := t }
        sc := { s0.sc with unsignedCfg := !im.signed } }
      let s1 : State := if bad = 0 then s1 else { s1 with mo := { s1.mo with bootstat := 6 } }
      let s2 := (State.bootLogic (s1.takeImage im) logicOk).bootPaths
      .next { s2 with mo := { s2.mo with boot := .protection, controlLoaded := s2.mo.sdram.isSome } }

/-! TRAIN entry. -/

/-- Control outputs take their safe values: Q bytes, loop and axis destinations (Tables 9.8 and 10.8). -/
def State.controlSafe (s : State) : State :=
  let s1 := s.loops.foldl State.loopSafeOut s.allSafe
  s1.axisList.foldl State.axisSafeOut s1

/-- LOCAL_PROTECTION_READY (R50): the sentinel path is armed, the heartbeat starts, TRAIN is entered. -/
def execLocalProtectionReady (s : State) : Res :=
  if !s.bootAt .protection then .next s
  else
    let s1 := s.setMode .train 0xC
    let mo : Modes := { s1.mo with
      boot := .done, trainAt := s1.elapsed, sentArmed := true
      bootstat := if s1.mo.bootstat = 6 then s1.mo.bootCode else s1.mo.bootstat
      heartbeat := if s1.mo.coldBoot then s1.mo.heartbeat else !s1.mo.protFail }
    let pe : PeSt := if s1.mo.coldBoot then s1.pe else { s1.pe with lastPass := s1.elapsed }
    .next ((State.controlSafe { s1 with mo := mo, pe := pe }).chStart 1)

/-! COLD_RESTART (R367). -/

/-- The status words of a restarting control partition; LG_CORE, whose failures last until RESET_N, stays. -/
def coldStatus (k : Nat) : Bool :=
  let g := k / 2 ^ 28
  g == 0x1804 || g == 0x1805 || g == 0x1902 || g == 0x2003 || g == 0x2004 || g == 0x2102

/-- A status word with its RO and W1C bits at reset. -/
def statusReset (k : Nat) (v : W32) : W32 :=
  let mask := match findObj (k / 2 ^ 36) (k / 2 ^ 28 % 256) with
    | some o => maskOfFields (fun a => a == .ro || a == .w1c) (k % 4096) o.fields
    | none => 0
  BitVec.ofNat 32 (blend v.toNat mask (regDefault k).toNat)

/-- The control partition loses its state; settings in force stay. -/
def State.controlLost (s : State) : State :=
  let s0 := s.clearForces.dropCycles.rpCold
  (s0.regs.filter (fun e => coldStatus e.1)).foldl (fun s e => { s with regs := mset regDefault e.1 (statusReset e.1 e.2) s.regs })
    { s0 with
      lg := { s0.lg with bullpen := none, bpUnsigned := false, switch := none, holdTo := 0, causes := [], merged := [], running := false }
      le := { LeSt.init with lanes := s0.le.lanes, encs := s0.le.encs, loopAt := s0.le.loopAt, axisAt := s0.le.axisAt }
      um := { UmSt.init with sfOff := s0.um.sfOff, roundAt := s0.um.roundAt }
      rp := { s0.rp with lanes := [] }
      pd := { s0.pd with writes := [], reqs := [], scanned := [] }
      cs := { s0.cs with loaded := none, consume := none } }

/-- The service partition loses its state (R83): rings, journal, routes, staged writes of commands, streams, error queue. -/
def State.serviceLost (s : State) : State :=
  let s1 := (List.range 64).foldl (fun s n => s.wr MB_RINGREG_EN n 0) s
  let s2 : State := { s1 with
    mb := { Mailbox.init with committed := s1.mb.committed, older := s1.mb.older }
    staged := s1.staged.filter (fun w => w.cmd == none)
    af := { s1.af with streams := [] }
    tu := { s1.tu with step := match s1.tu.step with
      | some r => if r.cmd.isSome then none else some r
      | none => none }
    ec := { s1.ec with handling := [], queue := [], ovf := false }
    ar := { s1.ar with pageAt := [], retest := [] } }
  ((s2.evReset [0, 0x39]).chReset).drReset

/-- BOOT of the service and control partitions; the BOOT in progress starts again where protection is not armed yet. -/
def State.coldRestart (s : State) : State :=
  let s1 := s.serviceLost.controlLost
  let cold := s.mo.coldBoot || s.mo.boot == .done
  let mo : Modes := { s1.mo with
    captain := false, boot := .firmware, bootstat := 0, coldBoot := cold, bootFail := false, bootCode := 0, sdram := none, control := false, controlLoaded := false
    firstWrite := false, letClass := 0, letOwed := 0, letResumed := false }
  let s2 := State.scBoot { s1 with mo := mo }
  let s3 := s2.setMode .boot 3
  (State.fdDrive { s3 with fd := { s3.fd with wdArmed := false } }).peResetAll

/-- COLD_RESTART.  Its completion is never written. -/
def execColdRestart (ring idx : Nat) (s : State) : Res :=
  s.runCmd ring idx (isOp opColdRestart)
    (fun s c =>
      { form := !c.buf
        bad := if c.objid != 0x28000000 then some (c.objid, 0) else none
        auth := true
        modes := s.inMode modesAll
        own := if c.busy || s.inTransition then some (.busyRetry, 0, 0) else none })
    (fun s _ => s.coldRestart)

end Sys2Proof.Machine
end

