-- ==== Sys2Proof/Machine/Pass.lean ====
section
/-! DEFINITION. The protection pass, the samples it and the fast elements run on, the comparators and arc inputs (R130 to
R132, R143, R145, R178 to R180, R209), and the sample instants of loops and axes (R244, R262). -/

namespace Sys2Proof.Machine

open Sys2Proof

/-! Samples. -/


/-- The fine sample of a channel is the next one, on the fine grid and available: of every channel of the variant, also of one that
gives no raw samples (R108, R111, R114), and of a virtual channel whose mapping is active. -/
def State.fineNext (s : State) (c t : Nat) : Bool :=
  s.pathsOn && s.fcHas c && (decide (c < 64) || s.flag FC_VCH_EN c)
    && t % 1000000000 % s.finePeriod c == 0 && t == (s.fcChan c).fineAt && decide (s.fineDue c t ≤ s.tai)

/-- FINE_SAMPLE (R145). -/
def execFineSample (chan stamp : Nat) (s : State) : Res :=
  if !s.fineNext chan stamp then .next s
  else
    let s1 := s.fineDeliver chan stamp
    match (s1.fcChan chan).fine with
    | x :: _ =>
      let s2 := s1.drFine chan x
      .next (if s2.protOn then s2.zoneFine chan stamp else s2)
    | [] => .next s1

/-- A fast sample of a channel is the next one (R143). -/
def State.fastNext (s : State) (c t : Nat) : Bool :=
  s.pathsOn && decide (c < s.nAin) && t % 800 == 0 && t == (s.fcChan c).fastAt && decide (t + 1600 + s.trimLate c t ≤ s.tai)

/-- The fast sample delivered last. -/
def State.lastFast (s : State) (c t : Nat) : Smp :=
  ⟨t, BitVec.ofNat 32 (s.rd FC_CHAN_FAST_LAST c), BitVec.ofNat 32 (s.rd FC_CHAN_FAST_STAT c)⟩

/-- FAST_SAMPLE (R143, R204, R205, R221): fast elements, the current criterion of breaker failure, the trip matrix. -/
def execFastSample (chan stamp : Nat) (s : State) : Res :=
  if !s.fastNext chan stamp then .next s
  else
    let s1 := s.fastDeliver chan stamp
    let x := s1.lastFast chan stamp
    let s2 := s1.drFast chan x
    .next (if s2.protOn then ((s2.fastElems chan x).brkSample chan x).fastBlocks.tmStep else s2)

/-! Comparators and arc inputs. -/

/-- The AFE die has power and its comparators are armed (R45, Table 5.7). -/
def State.armed (s : State) : Bool := s.mo.sentArmed && s.mo.rails && s.mo.resetN && s.mo.mode != .keeper

/-- WAKE_COMPARATOR_SWITCH (R131): wakes from SENTINEL; seen in every mode. -/
def execWakeComparatorSwitch (chan : Nat) (s : State) : Res :=
  if s.armed && decide (chan < s.nAin) && s.rd AF_CHAN_KIND chan == 1 && s.rd AF_CHAN_WAKE_THR chan != 0 then
    .next ((s.wr AF_CHAN_WAKE_SEEN chan 1).wakeBy .comparator)
  else .next s

/-- DIRECT_TRIP_COMPARATOR_SWITCH (R131, R561): the record, the DD_SNT line, the wake. -/
def execDirectTripComparatorSwitch (chan : Nat) (on : Bool) (s : State) : Res :=
  if s.armed && decide (chan < s.nAin) && (s.dtripCan chan || !on) && mget (fun _ => false) s.af.dtrip chan != on then
    let s1 := s.dtripSet chan on
    .next (if on then s1.wakeBy .directTrip else s1)
  else .next s

/-- ARC_LIGHT_CHANGE (R132): the light state, the arc elements, the wake. -/
def execArcLightChange (input : Nat) (on : Bool) (s : State) : Res :=
  let lit := on && s.rd AF_ARC_THR input != 0
  if s.armed && decide (input < 8) && s.flag AF_ARC_LIGHT input != lit then
    let s1 := s.arcSet input lit
    .next (if lit then s1.wakeBy .arcLight else s1)
  else .next s

/-! The pass (R178). -/

/-- Bits of a group's words, 32 elements a word. -/
def elBits (p : PeEl → Bool) (l : AMap PeEl) : AMap Nat :=
  (l.filter (fun e => p e.2)).foldl (fun m e => mmod (fun _ => 0) (e.1 / 32) (· + 2 ^ (e.1 % 32)) m) []

/-- Nanoseconds from now to the commit instant, 100 µs after the start of the pass. -/
def State.toCommit (s : State) (start : Nat) : Nat := start + 100000 - s.tai

/-- Elements whose status a commit writes: the enabled ones, and disabled ones that still show or owe something (R171). -/
def State.shownEls (s : State) : List Nat :=
  s.enabledEls ++ ((s.pe.el.map (·.1) ++ s.listed 0x10 2 0 ++ s.listed 0x10 2 1 ++ s.listed 0x10 2 2).filter
    (fun n => !s.flag PE_ELEM_EN n)).eraseDups

/-- The commit of a pass started at `start` (R180): status, records stamped at the commit, the Scoreboard group, the heartbeat.
A fast element that the boundary restarted or disabled hands over what that dropped, stamped with the boundary. -/
def State.passCommit (s : State) (start : Nat) : State :=
  let t := Stamp.ofTai (start + 100000)
  let no := start % 1000000000 / 125000
  let s1 := s.shownEls.foldl (fun x n =>
    (if stageOf (s.elType n) = 0 then x.handEl n (s.el n) (Stamp.ofTai start) 0xFFFFFFFF else x.handEl n (s.el n) t no).showEl n) s
  { s1 with
    sb := { s1.sb with
      protSeq := (s1.sb.protSeq + 2) % 2 ^ 32, protPass := start / 1000000000 % 65536 * 65536 + no
      pu := elBits (·.pu) s1.pe.el, op := elBits (·.op) s1.pe.el }
    mo := { s1.mo with heart := (s1.mo.heart + 1) % 256 }
    pe := { s1.pe with lastPass := s1.elapsed + s1.toCommit start * 4 / 5, passAt := start / 125000 + 1 } }

/-- Run with the clocks at the commit instant. -/
def State.atCommit (s : State) (start : Nat) (f : State → State) : State :=
  State.withClocks (f (s.withClocks (Stamp.ofTai (s.tai + s.toCommit start)) (s.elapsed + s.toCommit start * 4 / 5))) s.now s.elapsed

/-- PROTECTION_PASS: `freqs` are the trackers' estimates in µHz, 0 for none. -/
def State.pass (s : State) (freqs : List Nat) : State :=
  let start := s.tai / 125000 * 125000
  let s1 := s.passTake start
  let s2 := s1.takeSinks.xinResets s1
  let s3 := (List.range 8).foldl (fun s k => s.trackUpdate k (s.trackEst k (freqs.getD k 0))) s2
  let s4 := s3.zones.foldl State.zoneStep (s3.brks.foldl State.posStep s3)
  let s5 := evalStage s4 (evalStage s4 s4 2) 3
  let s6 := (s5.passCommit start).fastBlocks
  let s7 := s6.atCommit start State.tmStep
  if s7.mo.heartbeat then s7.flpHeartbeat else s7

def execProtectionPass (freqs : List Nat) (s : State) : Res :=
  if s.protOn && s.gridOk 125000 && s.pe.passAt != s.tai / 125000 + 1 then .next (s.pass freqs) else .next s

/-! Sample instants of loops and axes. -/

/-- LOOP_SAMPLE (R244): the loops whose period starts at the 10 µs instant that passed last, once. -/
def execLoopSample (s : State) : Res :=
  let tk := s.tai / 10000 * 10000
  if s.leOn && s.gridOk 10000 && s.le.loopAt != tk / 10000 + 1 then
    let s1 := s.sampleTake 0x18 tk
    .next (State.loopSamples { s1 with le := { s1.le with loopAt := tk / 10000 + 1 } } tk)
  else .next s

/-- AXIS_SAMPLE (R262). -/
def execAxisSample (s : State) : Res :=
  let tk := s.tai / 10000 * 10000
  if s.leOn && s.gridOk 10000 && s.le.axisAt != tk / 10000 + 1 then
    let s1 := s.sampleTake 0x19 tk
    .next (State.axisSamples { s1 with le := { s1.le with axisAt := tk / 10000 + 1 } } tk)
  else .next s

end Sys2Proof.Machine
end

