-- ==== Sys2Proof/Machine/Dispatch.lean ====
section
/-! DEFINITION. What each command does: one arm per constructor, each one direct call of its meaning. -/

namespace Sys2Proof.Machine

open Sys2Proof

def exec (i : Instr) (s : State) : Host.Outcome State Fault Refusal :=
  match i with
  | .nop ring idx => Sys2Proof.Machine.execNop ring idx s
  | .abort ring idx => Sys2Proof.Machine.execAbort ring idx s
  | .objRead ring idx dmaOk => Sys2Proof.Machine.execObjRead ring idx dmaOk s
  | .objWrite ring idx buf => Sys2Proof.Machine.execObjWrite ring idx buf s
  | .objModify ring idx => Sys2Proof.Machine.execObjModify ring idx s
  | .objDescribe ring idx => Sys2Proof.Machine.execObjDescribe ring idx s
  | .cfgLoad ring idx buf sigOk => Sys2Proof.Machine.execCfgLoad ring idx buf sigOk s
  | .cfgApply ring idx => Sys2Proof.Machine.execCfgApply ring idx s
  | .cfgDiscard ring idx => Sys2Proof.Machine.execCfgDiscard ring idx s
  | .cfgRead ring idx dmaOk => Sys2Proof.Machine.execCfgRead ring idx dmaOk s
  | .modeRequest ring idx => Sys2Proof.Machine.execModeRequest ring idx s
  | .safeExit ring idx => Sys2Proof.Machine.execSafeExit ring idx s
  | .coldRestart ring idx => Sys2Proof.Machine.execColdRestart ring idx s
  | .letRequest ring idx => Sys2Proof.Machine.execLetRequest ring idx s
  | .notifyRoute ring idx => Sys2Proof.Machine.execNotifyRoute ring idx s
  | .streamOpen ring idx => Sys2Proof.Machine.execStreamOpen ring idx s
  | .streamClose ring idx => Sys2Proof.Machine.execStreamClose ring idx s
  | .evFreeze ring idx reached dmaOk => Sys2Proof.Machine.execEvFreeze ring idx reached dmaOk s
  | .evRelease ring idx => Sys2Proof.Machine.execEvRelease ring idx s
  | .drTrigger ring idx => Sys2Proof.Machine.execDrTrigger ring idx s
  | .drExport ring idx dmaOk => Sys2Proof.Machine.execDrExport ring idx dmaOk s
  | .bankSwap ring idx => Sys2Proof.Machine.execBankSwap ring idx s
  | .loopState ring idx => Sys2Proof.Machine.execLoopState ring idx s
  | .autotuneStart ring idx => Sys2Proof.Machine.execAutotuneStart ring idx s
  | .autotuneStop ring idx => Sys2Proof.Machine.execAutotuneStop ring idx s
  | .forceSet ring idx => Sys2Proof.Machine.execForceSet ring idx s
  | .forceClear ring idx => Sys2Proof.Machine.execForceClear ring idx s
  | .injectStart ring idx => Sys2Proof.Machine.execInjectStart ring idx s
  | .injectStop ring idx => Sys2Proof.Machine.execInjectStop ring idx s
  | .tableCapture ring idx => Sys2Proof.Machine.execTableCapture ring idx s
  | .bullpenLoad ring idx image sigOk => Sys2Proof.Machine.execBullpenLoad ring idx image sigOk s
  | .bullpenSwitch ring idx => Sys2Proof.Machine.execBullpenSwitch ring idx s
  | .bullpenRollback ring idx => Sys2Proof.Machine.execBullpenRollback ring idx s
  | .pointRead ring idx dmaOk beat => Sys2Proof.Machine.execPointRead ring idx dmaOk beat s
  | .pointWrite ring idx buf => Sys2Proof.Machine.execPointWrite ring idx buf s
  | .recipeLoad ring idx buf => Sys2Proof.Machine.execRecipeLoad ring idx buf s
  | .recipeStart ring idx => Sys2Proof.Machine.execRecipeStart ring idx s
  | .recipeHold ring idx => Sys2Proof.Machine.execRecipeHold ring idx s
  | .recipeResume ring idx => Sys2Proof.Machine.execRecipeResume ring idx s
  | .recipeCancel ring idx => Sys2Proof.Machine.execRecipeCancel ring idx s
  | .stationEnable ring idx => Sys2Proof.Machine.execStationEnable ring idx s
  | .authChallenge ring idx nonce => Sys2Proof.Machine.execAuthChallenge ring idx nonce s
  | .authResponse ring idx sigOk handle => Sys2Proof.Machine.execAuthResponse ring idx sigOk handle s
  | .authEnd ring idx => Sys2Proof.Machine.execAuthEnd ring idx s
  | .attest ring idx hashes dmaOk => Sys2Proof.Machine.execAttest ring idx hashes dmaOk s
  | .ownerTransfer ring idx record cert sigOk => Sys2Proof.Machine.execOwnerTransfer ring idx record cert sigOk s
  | .unlockNonce ring idx nonce dmaOk => Sys2Proof.Machine.execUnlockNonce ring idx nonce dmaOk s
  | .unlockOpen ring idx buf sigOk handle => Sys2Proof.Machine.execUnlockOpen ring idx buf sigOk handle s
  | .unlockReprovisionRequest ring idx request dmaOk => Sys2Proof.Machine.execUnlockReprovisionRequest ring idx request dmaOk s
  | .unlockProvision ring idx buf sigOk keyOk => Sys2Proof.Machine.execUnlockProvision ring idx buf sigOk keyOk s
  | .fwUpdate ring idx image sigOk => Sys2Proof.Machine.execFwUpdate ring idx image sigOk s
  | .doorbellProd hot word => Sys2Proof.Machine.execDoorbellProd hot word s
  | .doorbellCons hot word => Sys2Proof.Machine.execDoorbellCons hot word s
  | .stagingPost hot word => Sys2Proof.Machine.execStagingPost hot word s
  | .commandFetch entry => Sys2Proof.Machine.execCommandFetch entry s
  | .completionWrite ring idx ok => Sys2Proof.Machine.execCompletionWrite ring idx ok s
  | .ringEnable ring word2 => Sys2Proof.Machine.execRingEnable ring word2 s
  | .msixGenEnable word => Sys2Proof.Machine.execMsixGenEnable word s
  | .bar0RegisterWrite addr bytes value => Sys2Proof.Machine.execBar0RegisterWrite addr bytes value s
  | .bar4Write addr bytes value => Sys2Proof.Machine.execBar4Write addr bytes value s
  | .bar2Write addr bytes value => Sys2Proof.Machine.execBar2Write addr bytes value s
  | .hotPortWrite addr value => Sys2Proof.Machine.execHotPortWrite addr value s
  | .pcieHotReset => Sys2Proof.Machine.execPcieHotReset s
  | .d3hotEntry => Sys2Proof.Machine.execD3hotEntry s
  | .latchReset mask => Sys2Proof.Machine.execLatchReset mask s
  | .evRecover ringOk => Sys2Proof.Machine.execEvRecover ringOk s
  | .clrUv mask => Sys2Proof.Machine.execClrUv mask s
  | .clrOl mask => Sys2Proof.Machine.execClrOl mask s
  | .arRetest chan ok => Sys2Proof.Machine.execArRetest chan ok s
  | .tuIncrementWrite frac ns => Sys2Proof.Machine.execTuIncrementWrite frac ns s
  | .tuSlew ns ms => Sys2Proof.Machine.execTuSlew ns ms s
  | .tuStepRequest secs nanos => Sys2Proof.Machine.execTuStepRequest secs nanos s
  | .tuLock => Sys2Proof.Machine.execTuLock s
  | .tuHold => Sys2Proof.Machine.execTuHold s
  | .timeStepApply => Sys2Proof.Machine.execTimeStepApply s
  | .slewEnd => Sys2Proof.Machine.execSlewEnd s
  | .servoTimeout => Sys2Proof.Machine.execServoTimeout s
  | .rtcSet => Sys2Proof.Machine.execRtcSet s
  | .vddKeepApplied => Sys2Proof.Machine.execVddKeepApplied s
  | .vddKeepLoss => Sys2Proof.Machine.execVddKeepLoss s
  | .resetNRelease => Sys2Proof.Machine.execResetNRelease s
  | .resetNLow => Sys2Proof.Machine.execResetNLow s
  | .vddCoreLow => Sys2Proof.Machine.execVddCoreLow s
  | .romCheckDone ok => Sys2Proof.Machine.execRomCheckDone ok s
  | .firmwareVerified okA okB => Sys2Proof.Machine.execFirmwareVerified okA okB s
  | .captainReady => Sys2Proof.Machine.execCaptainReady s
  | .sramSelfTestDone protOk otherOk => Sys2Proof.Machine.execSramSelfTestDone protOk otherOk s
  | .sdramTrained ok mib slotOk => Sys2Proof.Machine.execSdramTrained ok mib slotOk s
  | .bootConfigApply bad logicOk badFactory badField => Sys2Proof.Machine.execBootConfigApply bad logicOk badFactory badField s
  | .localProtectionReady => Sys2Proof.Machine.execLocalProtectionReady s
  | .trainExit => Sys2Proof.Machine.execTrainExit s
  | .trainTimeout => Sys2Proof.Machine.execTrainTimeout s
  | .sentinelEntryStep => Sys2Proof.Machine.execSentinelEntryStep s
  | .sentinelEntryCancel source => Sys2Proof.Machine.execSentinelEntryCancel source s
  | .wakeSource source => Sys2Proof.Machine.execWakeSource source s
  | .wakePllLocked => Sys2Proof.Machine.execWakePllLocked s
  | .wakeControlRunning => Sys2Proof.Machine.execWakeControlRunning s
  | .wakePllTimeout => Sys2Proof.Machine.execWakePllTimeout s
  | .wakeNLow => Sys2Proof.Machine.execWakeNLow s
  | .keeperAlarmDue => Sys2Proof.Machine.execKeeperAlarmDue s
  | .crystalStop => Sys2Proof.Machine.execCrystalStop s
  | .clockLoss => Sys2Proof.Machine.execClockLoss s
  | .captainFault => Sys2Proof.Machine.execCaptainFault s
  | .protectionWatchdogExpiry => Sys2Proof.Machine.execProtectionWatchdogExpiry s
  | .protectionPass freqs => Sys2Proof.Machine.execProtectionPass freqs s
  | .trackerHoldExpiry tracker => Sys2Proof.Machine.execTrackerHoldExpiry tracker s
  | .sliceConversion chan slice slot code window fault => Sys2Proof.Machine.execSliceConversion chan slice slot code window fault s
  | .fastSample chan stamp => Sys2Proof.Machine.execFastSample chan stamp s
  | .minOnExpiry channel => Sys2Proof.Machine.execMinOnExpiry channel s
  | .fineSample chan stamp => Sys2Proof.Machine.execFineSample chan stamp s
  | .resampledSample chan => Sys2Proof.Machine.execResampledSample chan s
  | .arcLightChange input on => Sys2Proof.Machine.execArcLightChange input on s
  | .wakeComparatorSwitch chan => Sys2Proof.Machine.execWakeComparatorSwitch chan s
  | .directTripComparatorSwitch chan on => Sys2Proof.Machine.execDirectTripComparatorSwitch chan on s
  | .directTripHoldExpiry line => Sys2Proof.Machine.execDirectTripHoldExpiry line s
  | .heartbeatLoss => Sys2Proof.Machine.execHeartbeatLoss s
  | .bfRetripTimer breaker => Sys2Proof.Machine.execBfRetripTimer breaker s
  | .bfBackupTimer breaker => Sys2Proof.Machine.execBfBackupTimer breaker s
  | .breakerPosDiscExpiry breaker => Sys2Proof.Machine.execBreakerPosDiscExpiry breaker s
  | .remoteBitStale bit => Sys2Proof.Machine.execRemoteBitStale bit s
  | .tripFrameReceive src words => Sys2Proof.Machine.execTripFrameReceive src words s
  | .zoneFrameReceive src words => Sys2Proof.Machine.execZoneFrameReceive src words s
  | .zoneSampleDeadline zone slot stamp => Sys2Proof.Machine.execZoneSampleDeadline zone slot stamp s
  | .zoneRecoveryExpiry zone => Sys2Proof.Machine.execZoneRecoveryExpiry zone s
  | .sliceEstimate core slice offset gain skew missingCode => Sys2Proof.Machine.execSliceEstimate core slice offset gain skew missingCode s
  | .sliceRetirementSwitch core => Sys2Proof.Machine.execSliceRetirementSwitch core s
  | .refMonitorChange core inWindow => Sys2Proof.Machine.execRefMonitorChange core inWindow s
  | .refOkExpiry core => Sys2Proof.Machine.execRefOkExpiry core s
  | .scanTrigger core => Sys2Proof.Machine.execScanTrigger core s
  | .sampleTimerEvent timer => Sys2Proof.Machine.execSampleTimerEvent timer s
  | .urgentConversion entry slice slot code window => Sys2Proof.Machine.execUrgentConversion entry slice slot code window s
  | .arcSupervisionTest input result => Sys2Proof.Machine.execArcSupervisionTest input result s
  | .fcBankSwapInstant group => Sys2Proof.Machine.execFcBankSwapInstant group s
  | .svFrameReceive appid mac confRev ethertype flags asdus => Sys2Proof.Machine.execSvFrameReceive appid mac confRev ethertype flags asdus s
  | .svStreamLost stream => Sys2Proof.Machine.execSvStreamLost stream s
  | .streamEntryWrite ring => Sys2Proof.Machine.execStreamEntryWrite ring s
  | .loopSample => Sys2Proof.Machine.execLoopSample s
  | .loopOverrun axis n => Sys2Proof.Machine.execLoopOverrun axis n s
  | .leSwapInstant => Sys2Proof.Machine.execLeSwapInstant s
  | .autotuneTmaxExpiry loop => Sys2Proof.Machine.execAutotuneTmaxExpiry loop s
  | .axisSample => Sys2Proof.Machine.execAxisSample s
  | .encoderTransfer enc data error warn crc => Sys2Proof.Machine.execEncoderTransfer enc data error warn crc s
  | .pwmPeriodStart pwm => Sys2Proof.Machine.execPwmPeriodStart pwm s
  | .loopLaneFailure lane lost => Sys2Proof.Machine.execLoopLaneFailure lane lost s
  | .logicCycleSnapshot task => Sys2Proof.Machine.execLogicCycleSnapshot task s
  | .logicOutputWrite task => Sys2Proof.Machine.execLogicOutputWrite task s
  | .cycleWatchdogExpiry task => Sys2Proof.Machine.execCycleWatchdogExpiry task s
  | .eventTaskTrigger task => Sys2Proof.Machine.execEventTaskTrigger task s
  | .errorTaskRun core => Sys2Proof.Machine.execErrorTaskRun core s
  | .logicCoreFailure core cause => Sys2Proof.Machine.execLogicCoreFailure core cause s
  | .bullpenSwap => Sys2Proof.Machine.execBullpenSwap s
  | .bullpenSwWaitExpiry => Sys2Proof.Machine.execBullpenSwWaitExpiry s
  | .umpireRound => Sys2Proof.Machine.execUmpireRound s
  | .scanClassBoundary class_ => Sys2Proof.Machine.execScanClassBoundary class_ s
  | .mirrorRecordReceive src words => Sys2Proof.Machine.execMirrorRecordReceive src words s
  | .mirrorStale index => Sys2Proof.Machine.execMirrorStale index s
  | .ptSubReceive src words => Sys2Proof.Machine.execPtSubReceive src words s
  | .ptReqReceive src words => Sys2Proof.Machine.execPtReqReceive src words s
  | .ptRspReceive src words => Sys2Proof.Machine.execPtRspReceive src words s
  | .remotePointTimeout tag => Sys2Proof.Machine.execRemotePointTimeout tag s
  | .recipeTick lane => Sys2Proof.Machine.execRecipeTick lane s
  | .letL1Trigger => Sys2Proof.Machine.execLetL1Trigger s
  | .letL2Trigger cause => Sys2Proof.Machine.execLetL2Trigger cause s
  | .letEnd resume bad => Sys2Proof.Machine.execLetEnd resume bad s
  | .letBoundExceeded => Sys2Proof.Machine.execLetBoundExceeded s
  | .storeBlockError block beat => Sys2Proof.Machine.execStoreBlockError block beat s
  | .powerFailWarning => Sys2Proof.Machine.execPowerFailWarning s
  | .slotWriteDone ok us block => Sys2Proof.Machine.execSlotWriteDone ok us block s
  | .powerReturn => Sys2Proof.Machine.execPowerReturn s
  | .errorHandling => Sys2Proof.Machine.execErrorHandling s
  | .errorHandlingEnd => Sys2Proof.Machine.execErrorHandlingEnd s
  | .eventRecordWrite fifo => Sys2Proof.Machine.execEventRecordWrite fifo s
  | .handoffLost fifo => Sys2Proof.Machine.execHandoffLost fifo s
  | .freezeLimitExpiry => Sys2Proof.Machine.execFreezeLimitExpiry s
  | .freezeDrain => Sys2Proof.Machine.execFreezeDrain s
  | .archiveLagFreeze => Sys2Proof.Machine.execArchiveLagFreeze s
  | .lastResortEntry cause failed => Sys2Proof.Machine.execLastResortEntry cause failed s
  | .changeIngest => Sys2Proof.Machine.execChangeIngest s
  | .epochBoundary => Sys2Proof.Machine.execEpochBoundary s
  | .chGapWrite => Sys2Proof.Machine.execChGapWrite s
  | .archivePageProgram ok block bytes erased => Sys2Proof.Machine.execArchivePageProgram ok block bytes erased s
  | .partialPageExpiry stream ok block erased => Sys2Proof.Machine.execPartialPageExpiry stream ok block erased s
  | .readyBusyTimeout chan => Sys2Proof.Machine.execReadyBusyTimeout chan s
  | .drTriggerEvent => Sys2Proof.Machine.execDrTriggerEvent s
  | .drRecordComplete => Sys2Proof.Machine.execDrRecordComplete s
  | .diSample inputs => Sys2Proof.Machine.execDiSample inputs s
  | .diStuckExpiry input => Sys2Proof.Machine.execDiStuckExpiry input s
  | .doStep outs fldMv temp => Sys2Proof.Machine.execDoStep outs fldMv temp s
  | .overloadSwitchOff out => Sys2Proof.Machine.execOverloadSwitchOff out s
  | .overloadRetry out => Sys2Proof.Machine.execOverloadRetry out s
  | .thermalShutdown out temp => Sys2Proof.Machine.execThermalShutdown out temp s
  | .offStateCheck out ball ballTest => Sys2Proof.Machine.execOffStateCheck out ball ballTest s
  | .darkTestPulse out fell => Sys2Proof.Machine.execDarkTestPulse out fell s
  | .fieldWatchdogRefresh => Sys2Proof.Machine.execFieldWatchdogRefresh s
  | .fieldWatchdogExpiry => Sys2Proof.Machine.execFieldWatchdogExpiry s
  | .fldSupplyCrossing mv => Sys2Proof.Machine.execFldSupplyCrossing mv s
  | .supplyGoodExpiry => Sys2Proof.Machine.execSupplyGoodExpiry s
  | .sfEvaluationCycle => Sys2Proof.Machine.execSfEvaluationCycle s
  | .sfHeartbeatLoss => Sys2Proof.Machine.execSfHeartbeatLoss s
  | .sfDiagnosticFailure cause => Sys2Proof.Machine.execSfDiagnosticFailure cause s
  | .sfDiscrepancyExpiry fn => Sys2Proof.Machine.execSfDiscrepancyExpiry fn s
  | .sfTestPulse source => Sys2Proof.Machine.execSfTestPulse source s
  | .sfTestWindowEnd fn chanB => Sys2Proof.Machine.execSfTestWindowEnd fn chanB s
  | .sfReadbackCheck out => Sys2Proof.Machine.execSfReadbackCheck out s
  | .sfCrcRecompute => Sys2Proof.Machine.execSfCrcRecompute s
  | .laneDetectorChange lane los lol quad => Sys2Proof.Machine.execLaneDetectorChange lane los lol quad s
  | .trainingStepReached port n step skew => Sys2Proof.Machine.execTrainingStepReached port n step skew s
  | .trainingStepTimeout port n => Sys2Proof.Machine.execTrainingStepTimeout port n s
  | .portDown port => Sys2Proof.Machine.execPortDown port s
  | .renbyFrameReceive port blocks tagOk => Sys2Proof.Machine.execRenbyFrameReceive port blocks tagOk s
  | .capFrameReceive port words => Sys2Proof.Machine.execCapFrameReceive port words s
  | .authFrameReceive port words verdict => Sys2Proof.Machine.execAuthFrameReceive port words verdict s
  | .topoSend => Sys2Proof.Machine.execTopoSend s
  | .deviceUnreachable dev => Sys2Proof.Machine.execDeviceUnreachable dev s
  | .stationCycleBoundary => Sys2Proof.Machine.execStationCycleBoundary s
  | .stInReceive stn words => Sys2Proof.Machine.execStInReceive stn words s
  | .stationMiss stn => Sys2Proof.Machine.execStationMiss stn s
  | .stationEnableTimeout stn => Sys2Proof.Machine.execStationEnableTimeout stn s
  | .ethernetFrameReceive lane ethertype len ptp => Sys2Proof.Machine.execEthernetFrameReceive lane ethertype len ptp s
  | .goosePublish => Sys2Proof.Machine.execGoosePublish s
  | .syncSend => Sys2Proof.Machine.execSyncSend s
  | .pdelayReqSend => Sys2Proof.Machine.execPdelayReqSend s
  | .timeFrameReceive port message => Sys2Proof.Machine.execTimeFrameReceive port message s
  | .announceSend states => Sys2Proof.Machine.execAnnounceSend states s
  | .keyTamper cause => Sys2Proof.Machine.execKeyTamper cause s
  | .d0Restore => Sys2Proof.Machine.execD0Restore s
  | .pcieLinkTrained up => Sys2Proof.Machine.execPcieLinkTrained up s
  | .protectionMessageRepeat => Sys2Proof.Machine.execProtectionMessageRepeat s
  | .originPeriodBoundary code => Sys2Proof.Machine.execOriginPeriodBoundary code s
  | .encoderEdge enc a b z => Sys2Proof.Machine.execEncoderEdge enc a b z s
  | .c0LoadWindow port bytes => Sys2Proof.Machine.execC0LoadWindow port bytes s
  | .jtagInstruction code => Sys2Proof.Machine.execJtagInstruction code s
  | .announceReceiptTimeout states => Sys2Proof.Machine.execAnnounceReceiptTimeout states s
  | .captainRestartDone => Sys2Proof.Machine.execCaptainRestartDone s

end Sys2Proof.Machine
end

