-- ==== Sys2Proof/Machine/Tick.lean ====
section
/-! DEFINITION. One fabric cycle of 1.25 ns: what passes while no command is there (R36, R499 to R501, R404). -/

namespace Sys2Proof.Machine

open Sys2Proof

/-- The slew share of the next cycle, in 2^-32 ns: the amount spread evenly over its cycles (R501). -/
def TimeUnit.share (t : TimeUnit) : Int :=
  if t.slewing && decide (t.slewDone < t.slewCycles) then
    t.slewTotal * (t.slewDone + 1 : Nat) / (t.slewCycles : Nat) - t.slewTotal * (t.slewDone : Nat) / (t.slewCycles : Nat)
  else 0

/-- The time counter after one cycle (R499): INCREMENT and the slew share are added. -/
def TimeUnit.advance (t : TimeUnit) (inc : Nat) : TimeUnit :=
  let n := (Int.ofNat (t.ns * 2 ^ 32 + t.frac + inc) + t.share).toNat
  let ns := n / 2 ^ 32
  let go := t.slewing && decide (t.slewDone < t.slewCycles)
  { t with
    sec := (t.sec + ns / 1000000000) % 2 ^ 48, ns := ns % 1000000000, frac := n % 2 ^ 32, fabCyc := t.fabCyc + 1
    slewDone := if go then t.slewDone + 1 else t.slewDone }

/-- The real-time counter after one cycle: 390,625 / 16 cycles are one crystal tick. -/
def Keeper.advance (k : Keeper) : Keeper :=
  if k.rtcPhase + 16 < 390625 then { k with rtcPhase := k.rtcPhase + 16 }
  else if k.rtcTick + 1 < 32768 then { k with rtcPhase := k.rtcPhase + 16 - 390625, rtcTick := k.rtcTick + 1 }
  else { k with rtcPhase := k.rtcPhase + 16 - 390625, rtcTick := 0, rtcSec := k.rtcSec + 1 }

/-- INCREMENT in 2^-32 ns. -/
def State.increment (s : State) : Nat := s.rd TU_ADJ_INC_NS 0 * 2 ^ 32 + s.rd TU_ADJ_INC_FRAC 0

/-- The clocks advance by one cycle. -/
def State.clocks (s : State) : State :=
  { s with
    elapsed := s.elapsed + 1
    kp := if s.mo.vddKeep then s.kp.advance else s.kp
    tu := if s.tu.running then s.tu.advance s.increment else s.tu }

/-- A fabric cycle: the clocks, the messages that waited for the 2 µs of R67, the cores' schedules, the trip matrix (R212), scanned values (R332), the
digital grid of the disturbance recorder, the seconds of LG_CORE.BUSY, a change of mode that no open cycle holds up. -/
def State.tick (s : State) : State :=
  let s1 := s.clocks.sendWaiting.coresDue.tmStep.scanShow
  let s2 := if s1.tai / 31250 = s.tai / 31250 then s1 else s1.drGrid
  let s3 := if s2.umOn && s2.elapsed % unitsPerSec == 0 then s2.busyRoll else s2
  if s3.mo.pend.isSome && !s3.cyclesOpen then s3.modeBoundary else s3

end Sys2Proof.Machine
end

