-- ==== Sys2Proof/Safety.lean ====
section
/-! DEFINITION. What a safe run is, in the terms statements use: a run goes on, the register table keeps its canonical
form, and a command changes only the kinds of state its rules name. -/

namespace Sys2Proof.Machine

open Sys2Proof

/-- The step answers a next state. -/
def Runs (s : State) : Prop := ∃ t, step s = .next t

/-- The register table is in canonical form, so that equal registers are equal data. -/
def State.regsOk (s : State) : Bool := mapOk regDefault s.regs

/-- The hand-off FIFOs are in canonical form. -/
def State.fifosOk (s : State) : Bool := mapOk (fun _ => []) s.ev.fifo

/-- What every step keeps: the canonical form of the register table and of the hand-off FIFOs, and no more provisionings than
openings (R531, R534). -/
def State.Inv (s : State) : Prop := s.regsOk = true ∧ s.fifosOk = true ∧ s.sc.provCnt ≤ s.sc.openCnt

/-- The records that a hand-off FIFO holds. -/
def State.handedOver (s : State) (fifo : Nat) : List EvRec := mget (fun _ => []) s.ev.fifo fifo

/-- The kinds of state of the block. -/
inductive Part where
  /-- the variant and the serial number, fixed at manufacture -/
  | ident
  /-- the one-way counters of fuses: openings, provisionings, firmware security version -/
  | fuses
  /-- identity and access (Chapter 19), the fuses among it -/
  | access
  /-- the command queue -/
  | queue
  /-- elapsed time -/
  | elapsed
  /-- free values drawn -/
  | free
  /-- writes waiting for a boundary -/
  | staged
  /-- modes, reset, LET and SENTINEL sequences -/
  | mo
  /-- Keeper -/
  | kp
  /-- time unit -/
  | tu
  /-- Captain mailbox -/
  | mb
  /-- host endpoint -/
  | he
  /-- Scoreboard -/
  | sb
  /-- error handling -/
  | ec
  /-- event recorder -/
  | ev
  /-- change history -/
  | ch
  /-- disturbance recorder -/
  | dr
  /-- archive -/
  | ar
  /-- analog front end -/
  | af
  /-- filter chains -/
  | fc
  /-- protection elements -/
  | pe
  /-- trip path -/
  | tm
  /-- point directory -/
  | pd
  /-- Umpire -/
  | um
  /-- recipes -/
  | rp
  /-- loops and axes -/
  | le
  /-- field I/O -/
  | fd
  /-- safety functions -/
  | sf
  /-- logic engine -/
  | lg
  /-- continuity store -/
  | cs
  /-- lanes and stations -/
  | rb
  /-- the mode in force, the mode before it, the cause and the entry time -/
  | mode
  /-- the commands in flight, whatever their phases -/
  | flight
  /-- the commands in flight, with how far each has come -/
  | phases
  /-- commands in flight with their outcomes decided: those that are stay so -/
  | outcomes
  /-- the configuration images: staged, committed, committed before -/
  | images
  /-- records handed over to the event recorder: those that wait still wait -/
  | handed
  /-- errors raised: those that wait for handling still wait -/
  | errors
  /-- the register words of a unit -/
  | regs (unit : Nat)
  deriving DecidableEq, Repr

/-- The units with registers (Table 1.1), and 0x100 for the registers of the host's address windows. -/
def unitNumbers : List Nat :=
  [0x01, 0x02, 0x08, 0x09, 0x10, 0x11, 0x18, 0x19, 0x20, 0x21, 0x22, 0x23, 0x28, 0x30, 0x31, 0x32, 0x33, 0x38, 0x39, 0x40,
    0x41, 0x42, 0x43, 0x48, 0x100]

/-- The number of a kind of state, for sets of kinds held as bit masks. -/
def Part.bit : Part → Nat
  | .ident => 0
  | .fuses => 1
  | .access => 2
  | .queue => 3
  | .elapsed => 4
  | .free => 5
  | .staged => 6
  | .mo => 7
  | .kp => 8
  | .tu => 9
  | .mb => 10
  | .he => 11
  | .sb => 12
  | .ec => 13
  | .ev => 14
  | .ch => 15
  | .dr => 16
  | .ar => 17
  | .af => 18
  | .fc => 19
  | .pe => 20
  | .tm => 21
  | .pd => 22
  | .um => 23
  | .rp => 24
  | .le => 25
  | .fd => 26
  | .sf => 27
  | .lg => 28
  | .cs => 29
  | .rb => 30
  | .mode => 300
  | .flight => 301
  | .phases => 304
  | .images => 305
  | .outcomes => 306
  | .handed => 302
  | .errors => 303
  | .regs u => if unitNumbers.contains u then 32 + u else 31

/-- A command in flight but for its phase. -/
def Cmd.bare (c : Cmd) : Cmd := { c with phase := .fetched }

/-- The second state keeps what the first holds of one kind of state. -/
def Part.kept : Part → State → State → Prop
  | .ident, s, t => s.var = t.var ∧ s.serial = t.serial
  | .fuses, s, t => s.sc.openCnt = t.sc.openCnt ∧ s.sc.provCnt = t.sc.provCnt ∧ s.sc.fwSvn = t.sc.fwSvn
  | .access, s, t => s.sc = t.sc
  | .queue, s, t => s.pending = t.pending
  | .elapsed, s, t => s.elapsed = t.elapsed
  | .free, s, t => s.free = t.free
  | .staged, s, t => s.staged = t.staged
  | .mo, s, t => s.mo = t.mo
  | .kp, s, t => s.kp = t.kp
  | .tu, s, t => s.tu = t.tu
  | .mb, s, t => s.mb = t.mb
  | .he, s, t => s.he = t.he
  | .sb, s, t => s.sb = t.sb
  | .ec, s, t => s.ec = t.ec
  | .ev, s, t => s.ev = t.ev
  | .ch, s, t => s.ch = t.ch
  | .dr, s, t => s.dr = t.dr
  | .ar, s, t => s.ar = t.ar
  | .af, s, t => s.af = t.af
  | .fc, s, t => s.fc = t.fc
  | .pe, s, t => s.pe = t.pe
  | .tm, s, t => s.tm = t.tm
  | .pd, s, t => s.pd = t.pd
  | .um, s, t => s.um = t.um
  | .rp, s, t => s.rp = t.rp
  | .le, s, t => s.le = t.le
  | .fd, s, t => s.fd = t.fd
  | .sf, s, t => s.sf = t.sf
  | .lg, s, t => s.lg = t.lg
  | .cs, s, t => s.cs = t.cs
  | .rb, s, t => s.rb = t.rb
  | .mode, s, t => s.mo.mode = t.mo.mode ∧ s.mo.prev = t.mo.prev ∧ s.mo.cause = t.mo.cause ∧ s.mo.entry = t.mo.entry
  | .flight, s, t => s.mb.inflight.map Cmd.bare = t.mb.inflight.map Cmd.bare
  | .phases, s, t => s.mb.inflight = t.mb.inflight
  | .outcomes, s, t => ∀ c, c ∈ s.mb.inflight → c.undecided = false → c ∈ t.mb.inflight
  | .images, s, t => s.mb.staged = t.mb.staged ∧ s.mb.committed = t.mb.committed ∧ s.mb.older = t.mb.older
  | .handed, s, t => ∀ u, s.handedOver u <+: t.handedOver u
  | .errors, s, t => s.ec.arrivals <+: t.ec.arrivals
  | .regs u, s, t => ∀ k, k / 2 ^ 36 = u → mget regDefault s.regs k = mget regDefault t.regs k

/-- Nothing but the listed kinds of state differs. -/
def OnlyChanges (ps : List Part) (s t : State) : Prop := ∀ p, p ∉ ps → p.kept s t

end Sys2Proof.Machine
end

