-- ==== Sys2Proof/Machine/Terms.lean ====
section
/-! DEFINITION. The terms in which statements about commands are made: a mailbox command that may run, its outcome, the
family of a command, and the kinds of state that a command may change. -/

namespace Sys2Proof.Machine

open Sys2Proof

/-- Command `c` stands at (ring, idx), waits for its checks, and may run now: the mailbox runs, no earlier command holds it back
(R72), the device does not present ROM recovery (Table 3.12), and has the object that the command names (R3). -/
def State.Ready (s : State) (ring idx : Nat) (c : Cmd) : Prop :=
  s.waitingAt ring idx = some c ∧ s.cmdsRun = true ∧ s.blocked c = false ∧ s.romRecovery = false ∧ s.absentObj c = none

/-- An entry of opcode `op` in good form, without a buffer, with at least `len` inline parameter bytes (Table 3.3). -/
def Cmd.Plain (c : Cmd) (op len : Nat) : Prop :=
  c.opcode = op ∧ c.frameBad = false ∧ c.lengthOk = true ∧ c.buf = false ∧ len ≤ c.len

/-- An entry of opcode `op` in good form, with an aligned buffer of direction `dir` and at least `len` inline bytes. -/
def Cmd.WithBuffer (c : Cmd) (op dir len : Nat) : Prop :=
  c.opcode = op ∧ c.frameBad = false ∧ c.lengthOk = true ∧ c.buf = true ∧ c.bufDir = dir ∧ c.bufBad = false ∧ len ≤ c.len

/-- The command is in flight with this outcome; its completion is still to be written. -/
def State.Outcome (t : State) (c : Cmd) (st : Status) (r0 r1 r2 r3 : Nat) (time : Option Stamp) : Prop :=
  { c with phase := .decided st r0 r1 r2 r3 time } ∈ t.mb.inflight

/-- The command is in flight, and its effect waits for a boundary of the owning unit (R73). -/
def State.Awaits (t : State) (c : Cmd) : Prop := { c with phase := .started } ∈ t.mb.inflight

/-- A family of commands: the chapters of the manual whose rows these are. -/
inductive Family where
  /-- modes, start-up, SENTINEL (Chapter 2), supplies (Chapter 20) -/
  | power
  /-- mailbox, host endpoint, Scoreboard (Chapters 3 and 4) -/
  | host
  /-- analog front end and filter chains (Chapters 5 and 6) -/
  | measurement
  /-- protection elements and trip path (Chapters 7 and 8) -/
  | protection
  /-- loops and axes (Chapter 9) -/
  | control
  /-- logic engine, Bullpen, Umpire (Chapters 10 and 11) -/
  | logic
  /-- points and recipes (Chapter 12) -/
  | points
  /-- continuity store, Let, errors (Chapter 13) -/
  | continuity
  /-- event, change and disturbance recording (Chapter 14) -/
  | recording
  /-- field inputs and outputs, safety functions (Chapters 15 and 16) -/
  | field
  /-- lanes, Renby, stations (Chapter 17) -/
  | lanes
  /-- time unit (Chapter 18) -/
  | time
  /-- identity and access (Chapter 19) -/
  | access
  deriving DecidableEq, Repr

/-- The family of a command: the chapter that owns its row. -/
def commandFamily : Instr → Family
  | .nop _ _ => .host
  | .abort _ _ => .host
  | .objRead _ _ _ => .host
  | .objWrite _ _ _ => .host
  | .objModify _ _ => .host
  | .objDescribe _ _ => .host
  | .cfgLoad _ _ _ _ => .host
  | .cfgApply _ _ => .host
  | .cfgDiscard _ _ => .host
  | .cfgRead _ _ _ => .host
  | .modeRequest _ _ => .power
  | .safeExit _ _ => .power
  | .coldRestart _ _ => .continuity
  | .letRequest _ _ => .continuity
  | .notifyRoute _ _ => .host
  | .streamOpen _ _ => .measurement
  | .streamClose _ _ => .measurement
  | .evFreeze _ _ _ _ => .recording
  | .evRelease _ _ => .recording
  | .drTrigger _ _ => .recording
  | .drExport _ _ _ => .recording
  | .bankSwap _ _ => .measurement
  | .loopState _ _ => .control
  | .autotuneStart _ _ => .control
  | .autotuneStop _ _ => .control
  | .forceSet _ _ => .points
  | .forceClear _ _ => .points
  | .injectStart _ _ => .measurement
  | .injectStop _ _ => .measurement
  | .tableCapture _ _ => .control
  | .bullpenLoad _ _ _ _ => .logic
  | .bullpenSwitch _ _ => .logic
  | .bullpenRollback _ _ => .logic
  | .pointRead _ _ _ _ => .points
  | .pointWrite _ _ _ => .points
  | .recipeLoad _ _ _ => .points
  | .recipeStart _ _ => .points
  | .recipeHold _ _ => .points
  | .recipeResume _ _ => .points
  | .recipeCancel _ _ => .points
  | .stationEnable _ _ => .lanes
  | .authChallenge _ _ _ => .access
  | .authResponse _ _ _ _ => .access
  | .authEnd _ _ => .access
  | .attest _ _ _ _ => .access
  | .ownerTransfer _ _ _ _ _ => .access
  | .unlockNonce _ _ _ _ => .access
  | .unlockOpen _ _ _ _ _ => .access
  | .unlockReprovisionRequest _ _ _ _ => .access
  | .unlockProvision _ _ _ _ _ => .access
  | .fwUpdate _ _ _ _ => .access
  | .doorbellProd _ _ => .host
  | .doorbellCons _ _ => .host
  | .stagingPost _ _ => .host
  | .commandFetch _ => .host
  | .completionWrite _ _ _ => .host
  | .ringEnable _ _ => .host
  | .msixGenEnable _ => .host
  | .bar0RegisterWrite _ _ _ => .host
  | .bar4Write _ _ _ => .host
  | .bar2Write _ _ _ => .host
  | .hotPortWrite _ _ => .host
  | .pcieHotReset => .host
  | .d3hotEntry => .host
  | .latchReset _ => .protection
  | .evRecover _ => .recording
  | .clrUv _ => .field
  | .clrOl _ => .field
  | .arRetest _ _ => .recording
  | .tuIncrementWrite _ _ => .time
  | .tuSlew _ _ => .time
  | .tuStepRequest _ _ => .time
  | .tuLock => .time
  | .tuHold => .time
  | .timeStepApply => .time
  | .slewEnd => .time
  | .servoTimeout => .time
  | .rtcSet => .time
  | .vddKeepApplied => .power
  | .vddKeepLoss => .power
  | .resetNRelease => .power
  | .resetNLow => .power
  | .vddCoreLow => .power
  | .romCheckDone _ => .power
  | .firmwareVerified _ _ => .access
  | .captainReady => .power
  | .sramSelfTestDone _ _ => .power
  | .sdramTrained _ _ _ => .power
  | .bootConfigApply _ _ _ _ => .power
  | .localProtectionReady => .power
  | .trainExit => .power
  | .trainTimeout => .power
  | .sentinelEntryStep => .power
  | .sentinelEntryCancel _ => .power
  | .wakeSource _ => .power
  | .wakePllLocked => .power
  | .wakeControlRunning => .power
  | .wakePllTimeout => .power
  | .wakeNLow => .power
  | .keeperAlarmDue => .power
  | .crystalStop => .power
  | .clockLoss => .power
  | .captainFault => .continuity
  | .protectionWatchdogExpiry => .protection
  | .protectionPass _ => .protection
  | .trackerHoldExpiry _ => .measurement
  | .sliceConversion _ _ _ _ _ _ => .measurement
  | .fastSample _ _ => .measurement
  | .minOnExpiry _ => .protection
  | .fineSample _ _ => .measurement
  | .resampledSample _ => .measurement
  | .arcLightChange _ _ => .measurement
  | .wakeComparatorSwitch _ => .measurement
  | .directTripComparatorSwitch _ _ => .measurement
  | .directTripHoldExpiry _ => .field
  | .heartbeatLoss => .field
  | .bfRetripTimer _ => .protection
  | .bfBackupTimer _ => .protection
  | .breakerPosDiscExpiry _ => .protection
  | .remoteBitStale _ => .protection
  | .tripFrameReceive _ _ => .lanes
  | .zoneFrameReceive _ _ => .lanes
  | .zoneSampleDeadline _ _ _ => .protection
  | .zoneRecoveryExpiry _ => .protection
  | .sliceEstimate _ _ _ _ _ _ => .measurement
  | .sliceRetirementSwitch _ => .measurement
  | .refMonitorChange _ _ => .measurement
  | .refOkExpiry _ => .measurement
  | .scanTrigger _ => .measurement
  | .sampleTimerEvent _ => .measurement
  | .urgentConversion _ _ _ _ _ => .measurement
  | .arcSupervisionTest _ _ => .measurement
  | .fcBankSwapInstant _ => .measurement
  | .svFrameReceive _ _ _ _ _ _ => .measurement
  | .svStreamLost _ => .measurement
  | .streamEntryWrite _ => .measurement
  | .loopSample => .control
  | .loopOverrun _ _ => .control
  | .leSwapInstant => .control
  | .autotuneTmaxExpiry _ => .control
  | .axisSample => .control
  | .encoderTransfer _ _ _ _ _ => .control
  | .pwmPeriodStart _ => .control
  | .loopLaneFailure _ _ => .control
  | .logicCycleSnapshot _ => .logic
  | .logicOutputWrite _ => .logic
  | .cycleWatchdogExpiry _ => .logic
  | .eventTaskTrigger _ => .logic
  | .errorTaskRun _ => .logic
  | .logicCoreFailure _ _ => .logic
  | .bullpenSwap => .logic
  | .bullpenSwWaitExpiry => .logic
  | .umpireRound => .logic
  | .scanClassBoundary _ => .points
  | .mirrorRecordReceive _ _ => .points
  | .mirrorStale _ => .points
  | .ptSubReceive _ _ => .lanes
  | .ptReqReceive _ _ => .lanes
  | .ptRspReceive _ _ => .points
  | .remotePointTimeout _ => .points
  | .recipeTick _ => .points
  | .letL1Trigger => .continuity
  | .letL2Trigger _ => .continuity
  | .letEnd _ _ => .host
  | .letBoundExceeded => .continuity
  | .storeBlockError _ _ => .continuity
  | .powerFailWarning => .continuity
  | .slotWriteDone _ _ _ => .continuity
  | .powerReturn => .continuity
  | .errorHandling => .continuity
  | .errorHandlingEnd => .continuity
  | .eventRecordWrite _ => .recording
  | .handoffLost _ => .recording
  | .freezeLimitExpiry => .recording
  | .freezeDrain => .recording
  | .archiveLagFreeze => .recording
  | .lastResortEntry _ _ => .recording
  | .changeIngest => .recording
  | .epochBoundary => .recording
  | .chGapWrite => .recording
  | .archivePageProgram _ _ _ _ => .recording
  | .partialPageExpiry _ _ _ _ => .recording
  | .readyBusyTimeout _ => .recording
  | .drTriggerEvent => .recording
  | .drRecordComplete => .recording
  | .diSample _ => .field
  | .diStuckExpiry _ => .field
  | .doStep _ _ _ => .field
  | .overloadSwitchOff _ => .field
  | .overloadRetry _ => .field
  | .thermalShutdown _ _ => .field
  | .offStateCheck _ _ _ => .field
  | .darkTestPulse _ _ => .field
  | .fieldWatchdogRefresh => .field
  | .fieldWatchdogExpiry => .field
  | .fldSupplyCrossing _ => .field
  | .supplyGoodExpiry => .field
  | .sfEvaluationCycle => .field
  | .sfHeartbeatLoss => .field
  | .sfDiagnosticFailure _ => .field
  | .sfDiscrepancyExpiry _ => .field
  | .sfTestPulse _ => .field
  | .sfTestWindowEnd _ _ => .field
  | .sfReadbackCheck _ => .field
  | .sfCrcRecompute => .field
  | .laneDetectorChange _ _ _ _ => .lanes
  | .trainingStepReached _ _ _ _ => .lanes
  | .trainingStepTimeout _ _ => .lanes
  | .portDown _ => .lanes
  | .renbyFrameReceive _ _ _ => .lanes
  | .capFrameReceive _ _ => .lanes
  | .authFrameReceive _ _ _ => .access
  | .topoSend => .lanes
  | .deviceUnreachable _ => .lanes
  | .stationCycleBoundary => .lanes
  | .stInReceive _ _ => .lanes
  | .stationMiss _ => .lanes
  | .stationEnableTimeout _ => .lanes
  | .ethernetFrameReceive _ _ _ _ => .lanes
  | .goosePublish => .lanes
  | .syncSend => .time
  | .pdelayReqSend => .time
  | .timeFrameReceive _ _ => .time
  | .announceSend _ => .time
  | .keyTamper _ => .access
  | .d0Restore => .host
  | .pcieLinkTrained _ => .host
  | .protectionMessageRepeat => .protection
  | .originPeriodBoundary _ => .points
  | .encoderEdge _ _ _ _ => .control
  | .c0LoadWindow _ _ => .lanes
  | .jtagInstruction _ => .access
  | .announceReceiptTimeout _ => .time
  | .captainRestartDone => .continuity

/-- What `nop`, `objRead`, `objDescribe`, `cfgRead`, `notifyRoute`, `drExport` and others may change. -/
def nopParts : List Part :=
  [.mb, .ec, .phases]

/-- What `abort` may change. -/
def abortParts : List Part :=
  [.staged, .mo, .tu, .mb, .he, .ec, .ev, .af, .fc, .pd, .um, .rp, .le, .lg, .rb, .regs 0x09, .regs 0x18,
   .regs 0x19, .regs 0x20, .regs 0x100, .phases]

/-- What `objWrite`, `objModify` may change. -/
def objWriteParts : List Part :=
  [.staged, .kp, .tu, .mb, .he, .sb, .ec, .ev, .dr, .ar, .af, .fc, .pe, .tm, .pd, .um, .le, .fd, .sf, .lg, .rb,
   .phases]

/-- What `cfgLoad`, `cfgDiscard` may change. -/
def cfgLoadParts : List Part :=
  [.mb, .ec, .phases, .images]

/-- What `cfgApply` may change. -/
def cfgApplyParts : List Part :=
  [.access, .staged, .mo, .kp, .tu, .mb, .he, .sb, .ec, .ev, .dr, .ar, .af, .fc, .pe, .tm, .pd, .um, .rp, .le,
   .fd, .sf, .lg, .rb, .phases, .images]

/-- What `modeRequest`, `letBoundExceeded` may change. -/
def modeRequestParts : List Part :=
  [.mo, .mb, .he, .sb, .ec, .ev, .ch, .dr, .ar, .af, .fc, .pe, .pd, .um, .rp, .le, .fd, .sf, .lg, .cs,
   .regs 0x18, .regs 0x19, .regs 0x20, .regs 0x21, .regs 0x28, .regs 0x38, .regs 0x100, .mode, .phases]

/-- What `safeExit` may change. -/
def safeExitParts : List Part :=
  [.mo, .mb, .he, .sb, .ec, .ev, .dr, .af, .fc, .pd, .um, .rp, .le, .fd, .lg, .cs, .rb, .regs 0x18, .regs 0x19,
   .regs 0x20, .regs 0x21, .regs 0x28, .regs 0x38, .regs 0x41, .regs 0x100, .mode, .phases]

/-- What `coldRestart` may change. -/
def coldRestartParts : List Part :=
  [.access, .staged, .mo, .tu, .mb, .he, .sb, .ec, .ev, .ch, .dr, .ar, .af, .fc, .pe, .pd, .um, .rp, .le, .fd,
   .lg, .cs, .mode, .flight, .handed, .phases, .images, .outcomes]

/-- What `letRequest`, `captainFault`, `letL1Trigger`, `letL2Trigger` may change. -/
def letRequestParts : List Part :=
  [.mo, .kp, .mb, .he, .sb, .ec, .ev, .ch, .dr, .ar, .af, .fc, .pd, .um, .rp, .le, .fd, .lg, .regs 0x18,
   .regs 0x19, .regs 0x20, .regs 0x21, .regs 0x28, .regs 0x33, .regs 0x38, .regs 0x100, .mode, .phases]

/-- What `streamOpen`, `streamClose` may change. -/
def streamOpenParts : List Part :=
  [.mb, .ec, .af, .phases]

/-- What `evFreeze` may change. -/
def evFreezeParts : List Part :=
  [.mb, .ec, .ev, .ar, .phases]

/-- What `evRelease` may change. -/
def evReleaseParts : List Part :=
  [.mb, .ec, .ev, .phases]

/-- What `drTrigger` may change. -/
def drTriggerParts : List Part :=
  [.mb, .he, .ec, .ev, .dr, .regs 0x32, .regs 0x100, .phases]

/-- What `bankSwap` may change. -/
def bankSwapParts : List Part :=
  [.mb, .ec, .fc, .le, .regs 0x09, .regs 0x18, .phases]

/-- What `loopState` may change. -/
def loopStateParts : List Part :=
  [.mb, .ec, .le, .phases]

/-- What `autotuneStart` may change. -/
def autotuneStartParts : List Part :=
  [.mb, .ec, .le, .regs 0x18, .phases]

/-- What `autotuneStop`, `leSwapInstant` may change. -/
def autotuneStopParts : List Part :=
  [.mb, .he, .ec, .ev, .le, .regs 0x18, .regs 0x100, .phases]

/-- What `forceSet`, `forceClear` may change. -/
def forceSetParts : List Part :=
  [.mb, .sb, .ec, .dr, .pd, .um, .fd, .regs 0x38, .phases]

/-- What `injectStart`, `injectStop` may change. -/
def injectStartParts : List Part :=
  [.mb, .ec, .af, .fc, .phases]

/-- What `tableCapture` may change. -/
def tableCaptureParts : List Part :=
  [.mb, .ec, .le, .regs 0x19, .phases]

/-- What `bullpenLoad` may change. -/
def bullpenLoadParts : List Part :=
  [.free, .mb, .ec, .lg, .regs 0x20, .phases]

/-- What `bullpenSwitch`, `bullpenRollback` may change. -/
def bullpenSwitchParts : List Part :=
  [.mb, .ec, .lg, .regs 0x20, .phases]

/-- What `pointRead` may change. -/
def pointReadParts : List Part :=
  [.mb, .he, .sb, .ec, .ev, .pd, .cs, .rb, .regs 0x100, .phases]

/-- What `pointWrite` may change. -/
def pointWriteParts : List Part :=
  [.mb, .ec, .pd, .um, .rb, .phases]

/-- What `recipeLoad`, `recipeStart`, `recipeHold`, `recipeResume`, `recipeCancel` may change. -/
def recipeLoadParts : List Part :=
  [.mb, .ec, .rp, .phases]

/-- What `stationEnable` may change. -/
def stationEnableParts : List Part :=
  [.mb, .ec, .rb, .phases]

/-- What `authChallenge`, `authEnd`, `unlockNonce`, `unlockReprovisionRequest`, `fwUpdate` may change. -/
def authChallengeParts : List Part :=
  [.access, .mb, .ec, .phases]

/-- What `authResponse` may change. -/
def authResponseParts : List Part :=
  [.access, .mb, .he, .ec, .ev, .regs 0x100, .phases]

/-- What `ownerTransfer` may change. -/
def ownerTransferParts : List Part :=
  [.access, .mb, .he, .ec, .ev, .lg, .regs 0x100, .phases, .images]

/-- What `unlockOpen` may change. -/
def unlockOpenParts : List Part :=
  [.fuses, .access, .mo, .kp, .tu, .mb, .he, .ec, .ev, .rb, .regs 0x40, .regs 0x41, .regs 0x43, .regs 0x100,
   .phases]

/-- What `unlockProvision` may change. -/
def unlockProvisionParts : List Part :=
  [.fuses, .access, .mb, .he, .ec, .ev, .regs 0x100, .phases]

/-- What `doorbellProd`, `doorbellCons`, `stagingPost`, `hotPortWrite`, `sentinelEntryCancel`, `wakeSource` and others may change. -/
def doorbellProdParts : List Part :=
  [.free, .mo, .mb, .he, .sb, .ec, .ev, .ch, .dr, .ar, .af, .fc, .pe, .pd, .um, .rp, .le, .fd, .sf, .lg, .cs,
   .rb, .regs 0x01, .regs 0x18, .regs 0x19, .regs 0x20, .regs 0x21, .regs 0x28, .regs 0x38, .regs 0x100, .mode,
   .phases]

/-- What `commandFetch` may change. -/
def commandFetchParts : List Part :=
  [.mb, .he, .ec, .ev, .regs 0x100, .flight, .phases, .outcomes]

/-- What `completionWrite` may change. -/
def completionWriteParts : List Part :=
  [.mb, .he, .sb, .ec, .ev, .regs 0x100, .flight, .phases, .outcomes]

/-- What `ringEnable` may change. -/
def ringEnableParts : List Part :=
  [.mb, .fc]

/-- What `msixGenEnable` may change. -/
def msixGenEnableParts : List Part :=
  [.he, .fc]

/-- What `bar0RegisterWrite` may change. -/
def bar0RegisterWriteParts : List Part :=
  [.free, .mo, .mb, .he, .sb, .ec, .ev, .ch, .dr, .ar, .af, .fc, .pe, .pd, .um, .rp, .le, .fd, .sf, .lg, .cs,
   .rb, .mode, .phases]

/-- What `bar4Write` may change. -/
def bar4WriteParts : List Part :=
  [.pd, .um, .rb, .regs 0x100]

/-- What `bar2Write` may change. -/
def bar2WriteParts : List Part :=
  [.sb]

/-- What `pcieHotReset` may change. -/
def pcieHotResetParts : List Part :=
  [.regs 0x100]

/-- What `d3hotEntry`, `d0Restore` may change. -/
def d3hotEntryParts : List Part :=
  [.he, .regs 0x100]

/-- What `latchReset`, `minOnExpiry`, `bfRetripTimer`, `bfBackupTimer`, `breakerPosDiscExpiry`, `remoteBitStale` and others may change. -/
def latchResetParts : List Part :=
  [.mb, .he, .ec, .ev, .dr, .tm, .um, .rb, .regs 0x11, .regs 0x100]

/-- What `evRecover`, `handoffLost`, `freezeDrain`, `lastResortEntry` may change. -/
def evRecoverParts : List Part :=
  [.kp, .mb, .he, .ec, .ev, .ar, .regs 0x100]

/-- What `clrUv`, `clrOl`, `directTripHoldExpiry`, `heartbeatLoss`, `diStuckExpiry`, `overloadRetry` and others may change. -/
def clrUvParts : List Part :=
  [.mb, .he, .ec, .ev, .fd, .regs 0x38, .regs 0x100]

/-- What `arRetest` may change. -/
def arRetestParts : List Part :=
  [.ar, .regs 0x33]

/-- What `tuIncrementWrite` may change. -/
def tuIncrementWriteParts : List Part :=
  [.tu, .regs 0x43]

/-- What `tuSlew`, `tuLock`, `tuHold`, `servoTimeout` may change. -/
def tuSlewParts : List Part :=
  [.kp, .tu, .mb, .he, .ec, .ev, .regs 0x100]

/-- What `tuStepRequest`, `slewEnd` may change. -/
def tuStepRequestParts : List Part :=
  [.tu]

/-- What `timeStepApply` may change. -/
def timeStepApplyParts : List Part :=
  [.kp, .tu, .mb, .he, .ec, .ev, .af, .fc, .regs 0x100, .phases]

/-- What `rtcSet` may change. -/
def rtcSetParts : List Part :=
  [.kp, .tu]

/-- What `vddKeepApplied`, `vddKeepLoss` may change. -/
def vddKeepAppliedParts : List Part :=
  [.mo, .kp]

/-- What `resetNRelease` may change. -/
def resetNReleaseParts : List Part :=
  [.access, .staged, .mo, .kp, .tu, .mb, .he, .sb, .ec, .ev, .ch, .dr, .ar, .af, .fc, .pe, .tm, .pd, .um, .rp,
   .le, .fd, .sf, .lg, .cs, .rb, .mode, .flight, .handed, .errors, .phases, .images, .outcomes]

/-- What `resetNLow`, `vddCoreLow` may change. -/
def resetNLowParts : List Part :=
  [.staged, .mo, .tu, .mb, .he, .sb, .ec, .ev, .ch, .dr, .ar, .af, .fc, .pe, .tm, .pd, .um, .rp, .le, .fd, .sf,
   .lg, .cs, .rb, .mode, .flight, .handed, .errors, .phases, .images, .outcomes]

/-- What `romCheckDone` may change. -/
def romCheckDoneParts : List Part :=
  [.mo]

/-- What `firmwareVerified` may change. -/
def firmwareVerifiedParts : List Part :=
  [.access, .mo]

/-- What `captainReady` may change. -/
def captainReadyParts : List Part :=
  [.fuses, .access, .mo, .mb, .he, .regs 0x100]

/-- What `sramSelfTestDone`, `clockLoss`, `protectionWatchdogExpiry` may change. -/
def sramSelfTestDoneParts : List Part :=
  [.mo, .ec, .ev]

/-- What `sdramTrained` may change. -/
def sdramTrainedParts : List Part :=
  [.mo, .kp, .mb, .he, .ec, .ev, .ar, .cs, .regs 0x02, .regs 0x100]

/-- What `bootConfigApply` may change. -/
def bootConfigApplyParts : List Part :=
  [.fuses, .access, .staged, .mo, .kp, .tu, .mb, .he, .sb, .ec, .ev, .dr, .ar, .af, .fc, .pe, .tm, .pd, .um,
   .rp, .le, .fd, .sf, .lg, .rb, .images]

/-- What `localProtectionReady` may change. -/
def localProtectionReadyParts : List Part :=
  [.mo, .mb, .he, .sb, .ec, .ev, .ch, .dr, .ar, .af, .fc, .pe, .pd, .um, .le, .fd, .lg, .regs 0x18, .regs 0x19,
   .regs 0x21, .regs 0x38, .regs 0x100, .mode, .phases]

/-- What `trainExit`, `trainTimeout` may change. -/
def trainExitParts : List Part :=
  [.mo, .mb, .he, .sb, .ec, .ev, .ch, .dr, .ar, .af, .fc, .pe, .pd, .um, .rp, .le, .fd, .sf, .lg, .cs, .rb,
   .mode, .phases]

/-- What `sentinelEntryStep` may change. -/
def sentinelEntryStepParts : List Part :=
  [.free, .mo, .kp, .tu, .mb, .he, .sb, .ec, .ev, .ch, .dr, .ar, .pe, .pd, .um, .rp, .le, .fd, .sf, .lg, .cs,
   .rb, .regs 0x10, .regs 0x18, .regs 0x19, .regs 0x20, .regs 0x32, .regs 0x33, .regs 0x38, .regs 0x39,
   .regs 0x40, .regs 0x41, .regs 0x43, .regs 0x100, .handed]

/-- What `wakePllLocked` may change. -/
def wakePllLockedParts : List Part :=
  [.mo, .kp, .tu, .mb, .he, .ec, .ev, .af, .fc, .pe, .sf, .lg, .regs 0x100]

/-- What `wakeControlRunning` may change. -/
def wakeControlRunningParts : List Part :=
  [.mo, .mb, .he, .sb, .ec, .ev, .ch, .dr, .ar, .af, .fc, .pd, .um, .rp, .le, .fd, .lg, .cs, .regs 0x18,
   .regs 0x19, .regs 0x20, .regs 0x21, .regs 0x38, .regs 0x100, .mode, .phases]

/-- What `wakePllTimeout` may change. -/
def wakePllTimeoutParts : List Part :=
  [.mo, .kp, .mb, .he, .sb, .ec, .ev, .dr, .ar, .af, .fc, .pd, .um, .le, .fd, .regs 0x18, .regs 0x19,
   .regs 0x21, .regs 0x38, .regs 0x100, .mode, .phases]

/-- What `keeperAlarmDue` may change. -/
def keeperAlarmDueParts : List Part :=
  [.free, .mo, .kp, .mb, .he, .sb, .ec, .ev, .ch, .dr, .ar, .af, .fc, .pe, .pd, .um, .rp, .le, .fd, .sf, .lg,
   .cs, .rb, .regs 0x01, .regs 0x18, .regs 0x19, .regs 0x20, .regs 0x21, .regs 0x28, .regs 0x38, .regs 0x100,
   .mode, .phases]

/-- What `crystalStop` may change. -/
def crystalStopParts : List Part :=
  [.kp, .ec, .ev]

/-- What `protectionPass` may change. -/
def protectionPassParts : List Part :=
  [.staged, .mo, .kp, .tu, .mb, .he, .sb, .ec, .ev, .dr, .ar, .af, .fc, .pe, .tm, .pd, .um, .le, .fd, .sf, .lg,
   .rb, .phases]

/-- What `trackerHoldExpiry` may change. -/
def trackerHoldExpiryParts : List Part :=
  [.fc, .regs 0x09]

/-- What `sliceConversion`, `sliceEstimate` may change. -/
def sliceConversionParts : List Part :=
  [.af, .fc, .regs 0x08]

/-- What `fastSample` may change. -/
def fastSampleParts : List Part :=
  [.mb, .he, .ec, .ev, .dr, .af, .fc, .pe, .tm, .um, .rb, .regs 0x09, .regs 0x10, .regs 0x11, .regs 0x100]

/-- What `fineSample` may change. -/
def fineSampleParts : List Part :=
  [.dr, .af, .fc, .tm, .rb, .regs 0x09]

/-- What `resampledSample` may change. -/
def resampledSampleParts : List Part :=
  [.fc]

/-- What `arcLightChange` may change. -/
def arcLightChangeParts : List Part :=
  [.free, .mo, .mb, .he, .sb, .ec, .ev, .ch, .dr, .ar, .af, .fc, .pe, .tm, .pd, .um, .rp, .le, .fd, .sf, .lg,
   .cs, .rb, .regs 0x01, .regs 0x08, .regs 0x10, .regs 0x11, .regs 0x18, .regs 0x19, .regs 0x20, .regs 0x21,
   .regs 0x28, .regs 0x38, .regs 0x100, .mode, .phases]

/-- What `wakeComparatorSwitch`, `directTripComparatorSwitch` may change. -/
def wakeComparatorSwitchParts : List Part :=
  [.free, .mo, .mb, .he, .sb, .ec, .ev, .ch, .dr, .ar, .af, .fc, .pe, .pd, .um, .rp, .le, .fd, .sf, .lg, .cs,
   .rb, .regs 0x01, .regs 0x08, .regs 0x18, .regs 0x19, .regs 0x20, .regs 0x21, .regs 0x28, .regs 0x38,
   .regs 0x100, .mode, .phases]

/-- What `zoneFrameReceive` may change. -/
def zoneFrameReceiveParts : List Part :=
  [.fc, .tm, .regs 0x11]

/-- What `zoneSampleDeadline` may change. -/
def zoneSampleDeadlineParts : List Part :=
  [.fc, .regs 0x11]

/-- What `zoneRecoveryExpiry` may change. -/
def zoneRecoveryExpiryParts : List Part :=
  [.mb, .he, .ec, .ev, .tm, .regs 0x11, .regs 0x100]

/-- What `sliceRetirementSwitch` may change. -/
def sliceRetirementSwitchParts : List Part :=
  [.mb, .he, .ec, .ev, .af, .fc, .regs 0x08, .regs 0x100]

/-- What `refMonitorChange` may change. -/
def refMonitorChangeParts : List Part :=
  [.mb, .he, .ec, .ev, .af, .regs 0x100]

/-- What `refOkExpiry` may change. -/
def refOkExpiryParts : List Part :=
  [.af, .fc]

/-- What `scanTrigger` may change. -/
def scanTriggerParts : List Part :=
  [.mb, .he, .ec, .ev, .af, .regs 0x08, .regs 0x100]

/-- What `sampleTimerEvent` may change. -/
def sampleTimerEventParts : List Part :=
  [.af]

/-- What `urgentConversion` may change. -/
def urgentConversionParts : List Part :=
  [.af, .regs 0x08]

/-- What `arcSupervisionTest` may change. -/
def arcSupervisionTestParts : List Part :=
  [.mb, .he, .ec, .ev, .regs 0x08, .regs 0x100]

/-- What `fcBankSwapInstant` may change. -/
def fcBankSwapInstantParts : List Part :=
  [.mb, .he, .ec, .ev, .fc, .regs 0x09, .regs 0x100, .phases]

/-- What `svFrameReceive` may change. -/
def svFrameReceiveParts : List Part :=
  [.mb, .he, .ec, .ev, .fc, .regs 0x09, .regs 0x100]

/-- What `svStreamLost` may change. -/
def svStreamLostParts : List Part :=
  [.mb, .he, .ec, .ev, .regs 0x09, .regs 0x100]

/-- What `streamEntryWrite` may change. -/
def streamEntryWriteParts : List Part :=
  [.mb, .he, .af, .regs 0x100, .phases]

/-- What `loopSample`, `axisSample` may change. -/
def loopSampleParts : List Part :=
  [.free, .staged, .kp, .tu, .mb, .he, .sb, .ec, .ev, .dr, .ar, .af, .fc, .pe, .tm, .pd, .um, .le, .fd, .sf,
   .lg, .rb, .phases]

/-- What `loopOverrun` may change. -/
def loopOverrunParts : List Part :=
  [.mb, .he, .ec, .ev, .le, .regs 0x18, .regs 0x19, .regs 0x100]

/-- What `autotuneTmaxExpiry` may change. -/
def autotuneTmaxExpiryParts : List Part :=
  [.mb, .he, .ec, .ev, .le, .regs 0x18, .regs 0x100]

/-- What `encoderTransfer`, `encoderEdge` may change. -/
def encoderTransferParts : List Part :=
  [.mb, .he, .ec, .ev, .le, .regs 0x19, .regs 0x100]

/-- What `pwmPeriodStart` may change. -/
def pwmPeriodStartParts : List Part :=
  [.af, .le, .regs 0x19]

/-- What `loopLaneFailure` may change. -/
def loopLaneFailureParts : List Part :=
  [.mb, .he, .ec, .ev, .le, .regs 0x18, .regs 0x19, .regs 0x100, .phases]

/-- What `logicCycleSnapshot` may change. -/
def logicCycleSnapshotParts : List Part :=
  [.free, .mb, .he, .ec, .ev, .um, .lg, .regs 0x20, .regs 0x100]

/-- What `logicOutputWrite` may change. -/
def logicOutputWriteParts : List Part :=
  [.mo, .mb, .he, .sb, .ec, .ev, .dr, .af, .fc, .pd, .um, .le, .fd, .lg, .cs, .rb, .regs 0x18, .regs 0x19,
   .regs 0x20, .regs 0x21, .regs 0x38, .regs 0x100, .mode, .phases]

/-- What `cycleWatchdogExpiry` may change. -/
def cycleWatchdogExpiryParts : List Part :=
  [.mo, .mb, .he, .sb, .ec, .ev, .dr, .af, .fc, .pd, .um, .le, .fd, .lg, .cs, .regs 0x18, .regs 0x19,
   .regs 0x20, .regs 0x21, .regs 0x38, .regs 0x100, .mode, .phases]

/-- What `eventTaskTrigger` may change. -/
def eventTaskTriggerParts : List Part :=
  [.mb, .he, .ec, .ev, .lg, .regs 0x20, .regs 0x100]

/-- What `errorTaskRun` may change. -/
def errorTaskRunParts : List Part :=
  [.free, .mo, .mb, .he, .sb, .ec, .ev, .dr, .af, .fc, .pd, .um, .le, .fd, .lg, .cs, .rb, .regs 0x18,
   .regs 0x19, .regs 0x20, .regs 0x21, .regs 0x38, .regs 0x100, .mode, .phases]

/-- What `logicCoreFailure` may change. -/
def logicCoreFailureParts : List Part :=
  [.mb, .he, .ec, .ev, .um, .lg, .regs 0x20, .regs 0x100]

/-- What `bullpenSwap` may change. -/
def bullpenSwapParts : List Part :=
  [.access, .mb, .he, .ec, .ev, .um, .lg, .regs 0x20, .regs 0x100, .phases]

/-- What `bullpenSwWaitExpiry` may change. -/
def bullpenSwWaitExpiryParts : List Part :=
  [.mb, .he, .ec, .ev, .lg, .regs 0x20, .regs 0x100, .phases]

/-- What `umpireRound` may change. -/
def umpireRoundParts : List Part :=
  [.mb, .he, .sb, .ec, .ev, .pd, .um, .rp, .rb, .regs 0x21, .regs 0x100, .phases]

/-- What `scanClassBoundary`, `mirrorRecordReceive` may change. -/
def scanClassBoundaryParts : List Part :=
  [.sb, .pd]

/-- What `mirrorStale` may change. -/
def mirrorStaleParts : List Part :=
  [.mb, .he, .sb, .ec, .ev, .pd, .regs 0x100]

/-- What `ptSubReceive`, `originPeriodBoundary` may change. -/
def ptSubReceiveParts : List Part :=
  [.pd, .rb]

/-- What `ptReqReceive` may change. -/
def ptReqReceiveParts : List Part :=
  [.pd, .um, .rb]

/-- What `ptRspReceive`, `remotePointTimeout` may change. -/
def ptRspReceiveParts : List Part :=
  [.mb, .pd, .phases]

/-- What `recipeTick` may change. -/
def recipeTickParts : List Part :=
  [.mb, .he, .ec, .ev, .rp, .lg, .regs 0x20, .regs 0x100, .phases]

/-- What `letEnd` may change. -/
def letEndParts : List Part :=
  [.staged, .mo, .tu, .mb, .he, .sb, .ec, .ev, .dr, .af, .fc, .pd, .um, .rp, .le, .fd, .lg, .rb, .regs 0x09,
   .regs 0x18, .regs 0x19, .regs 0x20, .regs 0x21, .regs 0x28, .regs 0x38, .regs 0x100, .mode, .flight, .phases,
   .outcomes]

/-- What `storeBlockError` may change. -/
def storeBlockErrorParts : List Part :=
  [.mb, .he, .ec, .ev, .cs, .regs 0x100]

/-- What `powerFailWarning` may change. -/
def powerFailWarningParts : List Part :=
  [.mo, .kp, .mb, .he, .sb, .ec, .ev, .ar, .pd, .rp, .le, .lg, .cs, .regs 0x18, .regs 0x19, .regs 0x20,
   .regs 0x100, .phases]

/-- What `slotWriteDone` may change. -/
def slotWriteDoneParts : List Part :=
  [.kp, .mb, .he, .ec, .ev, .cs, .regs 0x28, .regs 0x100]

/-- What `powerReturn` may change. -/
def powerReturnParts : List Part :=
  [.free, .mo, .mb, .he, .sb, .ec, .ev, .ch, .dr, .ar, .af, .fc, .pe, .pd, .um, .rp, .le, .fd, .sf, .lg, .cs,
   .rb, .regs 0x18, .regs 0x19, .regs 0x20, .regs 0x21, .regs 0x28, .regs 0x38, .regs 0x100, .mode, .phases]

/-- What `errorHandling` may change. -/
def errorHandlingParts : List Part :=
  [.mo, .mb, .he, .sb, .ec, .ev, .ch, .dr, .ar, .af, .fc, .pe, .pd, .um, .rp, .le, .fd, .sf, .lg, .cs,
   .regs 0x18, .regs 0x19, .regs 0x20, .regs 0x21, .regs 0x28, .regs 0x38, .regs 0x100, .mode, .errors, .phases]

/-- What `errorHandlingEnd` may change. -/
def errorHandlingEndParts : List Part :=
  [.he, .ec, .regs 0x100]

/-- What `eventRecordWrite` may change. -/
def eventRecordWriteParts : List Part :=
  [.kp, .mb, .he, .ec, .ev, .ar, .regs 0x100, .handed]

/-- What `freezeLimitExpiry` may change. -/
def freezeLimitExpiryParts : List Part :=
  [.ev]

/-- What `archiveLagFreeze` may change. -/
def archiveLagFreezeParts : List Part :=
  [.ev, .ar]

/-- What `changeIngest`, `chGapWrite` may change. -/
def changeIngestParts : List Part :=
  [.mb, .he, .ec, .ev, .ch, .ar, .pd, .regs 0x100]

/-- What `epochBoundary` may change. -/
def epochBoundaryParts : List Part :=
  [.ch, .ar]

/-- What `archivePageProgram`, `partialPageExpiry` may change. -/
def archivePageProgramParts : List Part :=
  [.kp, .mb, .he, .ec, .ev, .ch, .dr, .ar, .regs 0x33, .regs 0x100]

/-- What `readyBusyTimeout` may change. -/
def readyBusyTimeoutParts : List Part :=
  [.kp, .mb, .he, .ec, .ev, .ar, .regs 0x33, .regs 0x100]

/-- What `drTriggerEvent` may change. -/
def drTriggerEventParts : List Part :=
  [.mb, .he, .ec, .ev, .dr, .regs 0x32, .regs 0x100]

/-- What `drRecordComplete` may change. -/
def drRecordCompleteParts : List Part :=
  [.free, .mb, .he, .ec, .ev, .dr, .regs 0x32, .regs 0x100]

/-- What `darkTestPulse`, `sfEvaluationCycle`, `sfDiagnosticFailure`, `sfDiscrepancyExpiry`, `sfTestWindowEnd`, `sfReadbackCheck` and others may change. -/
def darkTestPulseParts : List Part :=
  [.mb, .he, .ec, .ev, .um, .fd, .sf, .regs 0x38, .regs 0x39, .regs 0x100]

/-- What `sfTestPulse` may change. -/
def sfTestPulseParts : List Part :=
  [.mb, .he, .ec, .ev, .fd, .sf, .regs 0x38, .regs 0x39, .regs 0x100]

/-- What `laneDetectorChange`, `trainingStepTimeout`, `portDown` may change. -/
def laneDetectorChangeParts : List Part :=
  [.kp, .tu, .mb, .he, .ec, .ev, .rb, .regs 0x40, .regs 0x41, .regs 0x43, .regs 0x100]

/-- What `trainingStepReached` may change. -/
def trainingStepReachedParts : List Part :=
  [.mb, .he, .ec, .ev, .rb, .regs 0x40, .regs 0x41, .regs 0x100]

/-- What `renbyFrameReceive` may change. -/
def renbyFrameReceiveParts : List Part :=
  [.kp, .tu, .mb, .he, .sb, .ec, .ev, .dr, .fc, .tm, .pd, .um, .le, .lg, .rb, .regs 0x11, .regs 0x18,
   .regs 0x20, .regs 0x40, .regs 0x41, .regs 0x43, .regs 0x100, .phases]

/-- What `capFrameReceive` may change. -/
def capFrameReceiveParts : List Part :=
  [.mb, .he, .ec, .ev, .rb, .regs 0x41, .regs 0x100]

/-- What `authFrameReceive`, `topoSend`, `goosePublish` may change. -/
def authFrameReceiveParts : List Part :=
  [.rb]

/-- What `deviceUnreachable` may change. -/
def deviceUnreachableParts : List Part :=
  [.mb, .he, .sb, .ec, .ev, .tm, .pd, .rb, .regs 0x11, .regs 0x100]

/-- What `stationCycleBoundary`, `stationMiss` may change. -/
def stationCycleBoundaryParts : List Part :=
  [.mb, .he, .sb, .ec, .ev, .pd, .le, .lg, .rb, .regs 0x18, .regs 0x20, .regs 0x41, .regs 0x100]

/-- What `stInReceive` may change. -/
def stInReceiveParts : List Part :=
  [.mb, .he, .sb, .ec, .ev, .pd, .le, .lg, .rb, .regs 0x18, .regs 0x20, .regs 0x41, .regs 0x100, .phases]

/-- What `stationEnableTimeout` may change. -/
def stationEnableTimeoutParts : List Part :=
  [.mb, .rb, .phases]

/-- What `ethernetFrameReceive` may change. -/
def ethernetFrameReceiveParts : List Part :=
  [.kp, .tu, .mb, .he, .ec, .ev, .rb, .regs 0x42, .regs 0x43, .regs 0x100]

/-- What `syncSend`, `pdelayReqSend` may change. -/
def syncSendParts : List Part :=
  [.tu, .rb]

/-- What `timeFrameReceive`, `announceSend` may change. -/
def timeFrameReceiveParts : List Part :=
  [.kp, .tu, .mb, .he, .ec, .ev, .rb, .regs 0x43, .regs 0x100]

/-- What `keyTamper` may change. -/
def keyTamperParts : List Part :=
  [.access, .kp, .tu, .mb, .he, .ec, .ev, .rb, .regs 0x40, .regs 0x41, .regs 0x43, .regs 0x100]

/-- What `pcieLinkTrained` may change. -/
def pcieLinkTrainedParts : List Part :=
  [.he, .regs 0x40]

/-- What `protectionMessageRepeat` may change. -/
def protectionMessageRepeatParts : List Part :=
  [.tm, .rb]

/-- What `c0LoadWindow` may change. -/
def c0LoadWindowParts : List Part :=
  [.mb, .he, .ec, .ev, .regs 0x41, .regs 0x100]

/-- What `jtagInstruction` may change. -/
def jtagInstructionParts : List Part :=
  [.access]

/-- What `announceReceiptTimeout` may change. -/
def announceReceiptTimeoutParts : List Part :=
  [.kp, .tu, .mb, .he, .ec, .ev, .regs 0x43, .regs 0x100]

/-- What `captainRestartDone` may change. -/
def captainRestartDoneParts : List Part :=
  [.staged, .mo, .tu, .mb, .he, .sb, .ec, .ev, .af, .fc, .pd, .um, .rp, .le, .rb, .regs 0x09, .regs 0x18,
   .regs 0x19, .regs 0x100, .flight, .phases, .outcomes]

/-- The kinds of state that a command may change, whatever the state (the rules of its row, and of what it sets off). -/
def commandParts : Instr → List Part
  | .nop _ _ => nopParts
  | .abort _ _ => abortParts
  | .objRead _ _ _ => nopParts
  | .objWrite _ _ _ => objWriteParts
  | .objModify _ _ => objWriteParts
  | .objDescribe _ _ => nopParts
  | .cfgLoad _ _ _ _ => cfgLoadParts
  | .cfgApply _ _ => cfgApplyParts
  | .cfgDiscard _ _ => cfgLoadParts
  | .cfgRead _ _ _ => nopParts
  | .modeRequest _ _ => modeRequestParts
  | .safeExit _ _ => safeExitParts
  | .coldRestart _ _ => coldRestartParts
  | .letRequest _ _ => letRequestParts
  | .notifyRoute _ _ => nopParts
  | .streamOpen _ _ => streamOpenParts
  | .streamClose _ _ => streamOpenParts
  | .evFreeze _ _ _ _ => evFreezeParts
  | .evRelease _ _ => evReleaseParts
  | .drTrigger _ _ => drTriggerParts
  | .drExport _ _ _ => nopParts
  | .bankSwap _ _ => bankSwapParts
  | .loopState _ _ => loopStateParts
  | .autotuneStart _ _ => autotuneStartParts
  | .autotuneStop _ _ => autotuneStopParts
  | .forceSet _ _ => forceSetParts
  | .forceClear _ _ => forceSetParts
  | .injectStart _ _ => injectStartParts
  | .injectStop _ _ => injectStartParts
  | .tableCapture _ _ => tableCaptureParts
  | .bullpenLoad _ _ _ _ => bullpenLoadParts
  | .bullpenSwitch _ _ => bullpenSwitchParts
  | .bullpenRollback _ _ => bullpenSwitchParts
  | .pointRead _ _ _ _ => pointReadParts
  | .pointWrite _ _ _ => pointWriteParts
  | .recipeLoad _ _ _ => recipeLoadParts
  | .recipeStart _ _ => recipeLoadParts
  | .recipeHold _ _ => recipeLoadParts
  | .recipeResume _ _ => recipeLoadParts
  | .recipeCancel _ _ => recipeLoadParts
  | .stationEnable _ _ => stationEnableParts
  | .authChallenge _ _ _ => authChallengeParts
  | .authResponse _ _ _ _ => authResponseParts
  | .authEnd _ _ => authChallengeParts
  | .attest _ _ _ _ => nopParts
  | .ownerTransfer _ _ _ _ _ => ownerTransferParts
  | .unlockNonce _ _ _ _ => authChallengeParts
  | .unlockOpen _ _ _ _ _ => unlockOpenParts
  | .unlockReprovisionRequest _ _ _ _ => authChallengeParts
  | .unlockProvision _ _ _ _ _ => unlockProvisionParts
  | .fwUpdate _ _ _ _ => authChallengeParts
  | .doorbellProd _ _ => doorbellProdParts
  | .doorbellCons _ _ => doorbellProdParts
  | .stagingPost _ _ => doorbellProdParts
  | .commandFetch _ => commandFetchParts
  | .completionWrite _ _ _ => completionWriteParts
  | .ringEnable _ _ => ringEnableParts
  | .msixGenEnable _ => msixGenEnableParts
  | .bar0RegisterWrite _ _ _ => bar0RegisterWriteParts
  | .bar4Write _ _ _ => bar4WriteParts
  | .bar2Write _ _ _ => bar2WriteParts
  | .hotPortWrite _ _ => doorbellProdParts
  | .pcieHotReset => pcieHotResetParts
  | .d3hotEntry => d3hotEntryParts
  | .latchReset _ => latchResetParts
  | .evRecover _ => evRecoverParts
  | .clrUv _ => clrUvParts
  | .clrOl _ => clrUvParts
  | .arRetest _ _ => arRetestParts
  | .tuIncrementWrite _ _ => tuIncrementWriteParts
  | .tuSlew _ _ => tuSlewParts
  | .tuStepRequest _ _ => tuStepRequestParts
  | .tuLock => tuSlewParts
  | .tuHold => tuSlewParts
  | .timeStepApply => timeStepApplyParts
  | .slewEnd => tuStepRequestParts
  | .servoTimeout => tuSlewParts
  | .rtcSet => rtcSetParts
  | .vddKeepApplied => vddKeepAppliedParts
  | .vddKeepLoss => vddKeepAppliedParts
  | .resetNRelease => resetNReleaseParts
  | .resetNLow => resetNLowParts
  | .vddCoreLow => resetNLowParts
  | .romCheckDone _ => romCheckDoneParts
  | .firmwareVerified _ _ => firmwareVerifiedParts
  | .captainReady => captainReadyParts
  | .sramSelfTestDone _ _ => sramSelfTestDoneParts
  | .sdramTrained _ _ _ => sdramTrainedParts
  | .bootConfigApply _ _ _ _ => bootConfigApplyParts
  | .localProtectionReady => localProtectionReadyParts
  | .trainExit => trainExitParts
  | .trainTimeout => trainExitParts
  | .sentinelEntryStep => sentinelEntryStepParts
  | .sentinelEntryCancel _ => doorbellProdParts
  | .wakeSource _ => doorbellProdParts
  | .wakePllLocked => wakePllLockedParts
  | .wakeControlRunning => wakeControlRunningParts
  | .wakePllTimeout => wakePllTimeoutParts
  | .wakeNLow => doorbellProdParts
  | .keeperAlarmDue => keeperAlarmDueParts
  | .crystalStop => crystalStopParts
  | .clockLoss => sramSelfTestDoneParts
  | .captainFault => letRequestParts
  | .protectionWatchdogExpiry => sramSelfTestDoneParts
  | .protectionPass _ => protectionPassParts
  | .trackerHoldExpiry _ => trackerHoldExpiryParts
  | .sliceConversion _ _ _ _ _ _ => sliceConversionParts
  | .fastSample _ _ => fastSampleParts
  | .minOnExpiry _ => latchResetParts
  | .fineSample _ _ => fineSampleParts
  | .resampledSample _ => resampledSampleParts
  | .arcLightChange _ _ => arcLightChangeParts
  | .wakeComparatorSwitch _ => wakeComparatorSwitchParts
  | .directTripComparatorSwitch _ _ => wakeComparatorSwitchParts
  | .directTripHoldExpiry _ => clrUvParts
  | .heartbeatLoss => clrUvParts
  | .bfRetripTimer _ => latchResetParts
  | .bfBackupTimer _ => latchResetParts
  | .breakerPosDiscExpiry _ => latchResetParts
  | .remoteBitStale _ => latchResetParts
  | .tripFrameReceive _ _ => latchResetParts
  | .zoneFrameReceive _ _ => zoneFrameReceiveParts
  | .zoneSampleDeadline _ _ _ => zoneSampleDeadlineParts
  | .zoneRecoveryExpiry _ => zoneRecoveryExpiryParts
  | .sliceEstimate _ _ _ _ _ _ => sliceConversionParts
  | .sliceRetirementSwitch _ => sliceRetirementSwitchParts
  | .refMonitorChange _ _ => refMonitorChangeParts
  | .refOkExpiry _ => refOkExpiryParts
  | .scanTrigger _ => scanTriggerParts
  | .sampleTimerEvent _ => sampleTimerEventParts
  | .urgentConversion _ _ _ _ _ => urgentConversionParts
  | .arcSupervisionTest _ _ => arcSupervisionTestParts
  | .fcBankSwapInstant _ => fcBankSwapInstantParts
  | .svFrameReceive _ _ _ _ _ _ => svFrameReceiveParts
  | .svStreamLost _ => svStreamLostParts
  | .streamEntryWrite _ => streamEntryWriteParts
  | .loopSample => loopSampleParts
  | .loopOverrun _ _ => loopOverrunParts
  | .leSwapInstant => autotuneStopParts
  | .autotuneTmaxExpiry _ => autotuneTmaxExpiryParts
  | .axisSample => loopSampleParts
  | .encoderTransfer _ _ _ _ _ => encoderTransferParts
  | .pwmPeriodStart _ => pwmPeriodStartParts
  | .loopLaneFailure _ _ => loopLaneFailureParts
  | .logicCycleSnapshot _ => logicCycleSnapshotParts
  | .logicOutputWrite _ => logicOutputWriteParts
  | .cycleWatchdogExpiry _ => cycleWatchdogExpiryParts
  | .eventTaskTrigger _ => eventTaskTriggerParts
  | .errorTaskRun _ => errorTaskRunParts
  | .logicCoreFailure _ _ => logicCoreFailureParts
  | .bullpenSwap => bullpenSwapParts
  | .bullpenSwWaitExpiry => bullpenSwWaitExpiryParts
  | .umpireRound => umpireRoundParts
  | .scanClassBoundary _ => scanClassBoundaryParts
  | .mirrorRecordReceive _ _ => scanClassBoundaryParts
  | .mirrorStale _ => mirrorStaleParts
  | .ptSubReceive _ _ => ptSubReceiveParts
  | .ptReqReceive _ _ => ptReqReceiveParts
  | .ptRspReceive _ _ => ptRspReceiveParts
  | .remotePointTimeout _ => ptRspReceiveParts
  | .recipeTick _ => recipeTickParts
  | .letL1Trigger => letRequestParts
  | .letL2Trigger _ => letRequestParts
  | .letEnd _ _ => letEndParts
  | .letBoundExceeded => modeRequestParts
  | .storeBlockError _ _ => storeBlockErrorParts
  | .powerFailWarning => powerFailWarningParts
  | .slotWriteDone _ _ _ => slotWriteDoneParts
  | .powerReturn => powerReturnParts
  | .errorHandling => errorHandlingParts
  | .errorHandlingEnd => errorHandlingEndParts
  | .eventRecordWrite _ => eventRecordWriteParts
  | .handoffLost _ => evRecoverParts
  | .freezeLimitExpiry => freezeLimitExpiryParts
  | .freezeDrain => evRecoverParts
  | .archiveLagFreeze => archiveLagFreezeParts
  | .lastResortEntry _ _ => evRecoverParts
  | .changeIngest => changeIngestParts
  | .epochBoundary => epochBoundaryParts
  | .chGapWrite => changeIngestParts
  | .archivePageProgram _ _ _ _ => archivePageProgramParts
  | .partialPageExpiry _ _ _ _ => archivePageProgramParts
  | .readyBusyTimeout _ => readyBusyTimeoutParts
  | .drTriggerEvent => drTriggerEventParts
  | .drRecordComplete => drRecordCompleteParts
  | .diSample _ => doorbellProdParts
  | .diStuckExpiry _ => clrUvParts
  | .doStep _ _ _ => doorbellProdParts
  | .overloadSwitchOff _ => doorbellProdParts
  | .overloadRetry _ => clrUvParts
  | .thermalShutdown _ _ => doorbellProdParts
  | .offStateCheck _ _ _ => doorbellProdParts
  | .darkTestPulse _ _ => darkTestPulseParts
  | .fieldWatchdogRefresh => clrUvParts
  | .fieldWatchdogExpiry => clrUvParts
  | .fldSupplyCrossing _ => doorbellProdParts
  | .supplyGoodExpiry => clrUvParts
  | .sfEvaluationCycle => darkTestPulseParts
  | .sfHeartbeatLoss => clrUvParts
  | .sfDiagnosticFailure _ => darkTestPulseParts
  | .sfDiscrepancyExpiry _ => darkTestPulseParts
  | .sfTestPulse _ => sfTestPulseParts
  | .sfTestWindowEnd _ _ => darkTestPulseParts
  | .sfReadbackCheck _ => darkTestPulseParts
  | .sfCrcRecompute => darkTestPulseParts
  | .laneDetectorChange _ _ _ _ => laneDetectorChangeParts
  | .trainingStepReached _ _ _ _ => trainingStepReachedParts
  | .trainingStepTimeout _ _ => laneDetectorChangeParts
  | .portDown _ => laneDetectorChangeParts
  | .renbyFrameReceive _ _ _ => renbyFrameReceiveParts
  | .capFrameReceive _ _ => capFrameReceiveParts
  | .authFrameReceive _ _ _ => authFrameReceiveParts
  | .topoSend => authFrameReceiveParts
  | .deviceUnreachable _ => deviceUnreachableParts
  | .stationCycleBoundary => stationCycleBoundaryParts
  | .stInReceive _ _ => stInReceiveParts
  | .stationMiss _ => stationCycleBoundaryParts
  | .stationEnableTimeout _ => stationEnableTimeoutParts
  | .ethernetFrameReceive _ _ _ _ => ethernetFrameReceiveParts
  | .goosePublish => authFrameReceiveParts
  | .syncSend => syncSendParts
  | .pdelayReqSend => syncSendParts
  | .timeFrameReceive _ _ => timeFrameReceiveParts
  | .announceSend _ => timeFrameReceiveParts
  | .keyTamper _ => keyTamperParts
  | .d0Restore => d3hotEntryParts
  | .pcieLinkTrained _ => pcieLinkTrainedParts
  | .protectionMessageRepeat => protectionMessageRepeatParts
  | .originPeriodBoundary _ => ptSubReceiveParts
  | .encoderEdge _ _ _ _ => encoderTransferParts
  | .c0LoadWindow _ _ => c0LoadWindowParts
  | .jtagInstruction _ => jtagInstructionParts
  | .announceReceiptTimeout _ => announceReceiptTimeoutParts
  | .captainRestartDone => captainRestartDoneParts

/-- Commands that write settings of any unit, or reset the register table. -/
def commandAnyRegs : Instr → Bool
  | .objWrite _ _ _ => true
  | .objModify _ _ => true
  | .cfgApply _ _ => true
  | .coldRestart _ _ => true
  | .ringEnable _ _ => true
  | .msixGenEnable _ => true
  | .bar0RegisterWrite _ _ _ => true
  | .vddKeepApplied => true
  | .vddKeepLoss => true
  | .resetNRelease => true
  | .resetNLow => true
  | .vddCoreLow => true
  | .bootConfigApply _ _ _ _ => true
  | .trainExit => true
  | .trainTimeout => true
  | .protectionPass _ => true
  | .loopSample => true
  | .axisSample => true
  | _ => false

/-- Nothing but the kinds of state that the command's row names differs. -/
def Framed (i : Instr) (s t : State) : Prop :=
  ∀ p, p ∉ commandParts i → (commandAnyRegs i = true → ∀ u, p ≠ .regs u) → p.kept s t

end Sys2Proof.Machine
end

