-- ==== Sys2Proof/Certificates/Slice0/Obligations.lean ====
section
/-! DEFINITION. The statements about the model, for the provers. -/

namespace Sys2Proof.Machine

open Sys2Proof

/-- Units whose commit does nothing beyond the words written (R73): their writes take effect at once. -/
def plainUnits : List Nat := [0x02, 0x20, 0x21, 0x22, 0x23, 0x28, 0x31, 0x32, 0x42]

/-- Bit `b` of word `w` after a write of value `v` under mask `m`: an RW bit takes the value, a W1C bit written 1 is cleared, any
other bit and every bit outside the mask stands (R75). -/
def bitWritten (fs : List Field) (w b : Nat) (old m v : W32) : Bool :=
  (if (maskOfFields (fun a => a == .rw) w fs).testBit b && m.getLsbD b then v.getLsbD b else old.getLsbD b)
    && !((maskOfFields (fun a => a == .w1c) w fs).testBit b && m.getLsbD b && v.getLsbD b)

/-- The fine samples of a stream that lie within four periods of a resampling instant (R159). -/
def State.nearFine (s : State) (chan u : Nat) : List Smp :=
  (s.fcChan chan).fine.filter (fun f => decide (u / 2 ^ 32 ≤ f.t + 4 * s.streamPeriod chan)
    && decide (f.t < u / 2 ^ 32 + 4 * s.streamPeriod chan))

/-- The tables of the loop engine are in canonical form. -/
def State.controlMapsOk (s : State) : Bool :=
  mapOk (fun _ => LoopSt.init) s.le.loops && mapOk (fun _ => AxisSt.init) s.le.axes && mapOk (fun _ => EncSt.init) s.le.encs
    && mapOk (fun _ => 0) s.le.duty && mapOk (fun _ => 0) s.le.pwmAt

/-- The tables of the point directory, of the Umpire's point demands and of recipes are in canonical form. -/
def State.pointMapsOk (s : State) : Bool :=
  mapOk (fun _ => PtRec.zero) s.pd.recs && mapOk (fun _ => none) s.pd.forces && mapOk (fun _ => none) s.um.stand
    && mapOk (fun _ => MirSt.init) s.pd.mirrors && mapOk (fun _ => none) s.fd.forceDi && mapOk (fun _ => none) s.um.forceDo
    && mapOk (fun _ => []) s.rp.steps && mapOk (fun _ => RpLane.init) s.rp.lanes

/-- The tables of the field die and of the safety partition are in canonical form. -/
def State.fieldMapsOk (s : State) : Bool :=
  mapOk (fun _ => DiSt.init0) s.fd.di && mapOk (fun _ => DoSt.init) s.fd.dos && mapOk (fun _ => false) s.fd.sfOff
    && mapOk (fun _ => false) s.fd.sfPulse && mapOk (fun _ => (0, 0)) s.fd.ntf && mapOk (fun _ => SfFn.init) s.sf.fn
    && mapOk (fun _ => 0) s.sf.checks && mapOk (fun _ => 0) s.sf.dark && mapOk (fun _ => 0) s.sf.pulseSec
    && mapOk (fun _ => false) s.um.sfOff

/-- None of the rows 1 to 5 of Table 15.4 applies to output `n`, and no cut-off is under way. -/
def State.RowFree (s : State) (n : Nat) : Prop :=
  s.fd.cut = none ∧ (s.dout n).cut = false ∧ s.flag FD_DO_OL_T n = false ∧ s.flag FD_DO_RF n = false ∧
    (s.dout n).rfEnd ≤ s.elapsed ∧ (24 ≤ n ∨ mget (fun _ => false) s.fd.sfOff n = false) ∧ (s.dout n).latched = false ∧
    (s.dout n).wait = false

/-- The tables of ports, stations and devices are in canonical form. -/
def State.laneMapsOk (s : State) : Bool :=
  mapOk (fun _ => PortSt.init) s.rb.port && mapOk (fun _ => StnSt.init) s.rb.stn && mapOk (fun _ => 0) s.rb.seg
    && mapOk (fun _ => []) s.rb.seen && mapOk (fun _ => FrameOut.init) s.rb.sent && mapOk (fun _ => 0) s.rb.lastBlk

/-- The blocks carry a frame of a class to a port, scrambled after what its lanes received last, each block on some lane of the bond. -/
def State.OnLine (s : State) (p cls : Nat) (words : List W32) (blocks : List LineBlock) : Prop :=
  ∃ l : List (Nat × Nat × BitVec 64), l.map (·.2) = frameBlocks cls (words.map (·.toNat)) ∧
    (∀ x, x ∈ l → x.1 < 2 ^ s.rd RB_PORT_BOND p) ∧
    blocks = lineBlocks (fun k => mget (fun _ => 0) s.rb.lastBlk (s.rd RB_PORT_LANE p + k)) l

/-- Every lane of the port has block lock, and no frame is open. -/
def State.PortReads (s : State) (p : Nat) : Prop :=
  (∀ k, k < 2 ^ s.rd RB_PORT_BOND p → 3 ≤ s.rd LN_LANE_STEP (s.rd RB_PORT_LANE p + k)) ∧ (s.port p).frames = []

end Sys2Proof.Machine

open Sys2Proof Sys2Proof.Machine

/-- A step takes the command at the front of the queue and runs it with the queue's rest (the model's frame of a block). -/
def Obligations.StepRunsFrontCommand : Prop :=
  ∀ (s : State) (c : Instr) (rest : List Instr), s.pending = c :: rest →
    step s = exec c { s with pending := rest }

/-- With no command waiting, one fabric cycle passes (DESIGN CHOICE, log entry 1); a running time counter without a slew adds
INCREMENT (R499). -/
def Obligations.EmptyQueueStepIsOneFabricCycle : Prop :=
  ∀ s : State, s.Inv → s.pending = [] →
    ∃ t, step s = .next t ∧ t.elapsed = s.elapsed + 1 ∧ t.pending = [] ∧
      (s.tu.running = false → t.tu = s.tu) ∧
      (s.tu.running = true → s.tu.slewing = false → s.tu.sec + 1 < 2 ^ 48 → s.tu.ns < 1000000000 →
        s.tu.frac < 2 ^ 32 →
        (t.tai * 2 ^ 32 + t.tu.frac = s.tai * 2 ^ 32 + s.tu.frac + s.increment) ∧ t.tu.ns < 1000000000)

/-- R9: at reset, every word of every object, and of every BAR0 register, holds the reset values of its field map. -/
def Obligations.RegistersAtResetReadTheirFieldMaps : Prop :=
  (∀ u g i w : Nat, u < 2 ^ 12 → g < 256 → i < 65536 → w < 4096 → State.reset.word u g i w = resetWord u g w) ∧
    State.reset.mo.mode = .boot ∧ State.reset.pending = []

/-- The state after reset meets the invariant that every step keeps. -/
def Obligations.ResetMeetsInvariant : Prop :=
  State.reset.Inv

/-- The invariant is kept by every step: the register table and the hand-off FIFOs stay in their one canonical form, so that equal
contents are equal data, and the device never counts more provisionings than openings (R531, R534). -/
def Obligations.EveryStepKeepsInvariant : Prop :=
  ∀ s : State, s.Inv → ∃ t, step s = .next t ∧ t.Inv

/-- The counters held in fuses (OPEN_CNT of R531, PROV_CNT of R534, FW_SVN of R523) never fall, and the variant and the serial
number never change, whatever the step. -/
def Obligations.OneWayCountersNeverFall : Prop :=
  ∀ s t : State, s.Inv → step s = .next t →
    t.var = s.var ∧ t.serial = s.serial ∧ s.sc.openCnt ≤ t.sc.openCnt ∧ s.sc.provCnt ≤ t.sc.provCnt ∧ s.sc.fwSvn ≤ t.sc.fwSvn

/-- Frame of the commands of modes, start-up, SENTINEL and supplies: each answers a next state, in which only the kinds of state that its rules
name differ (`commandParts`; with `commandAnyRegs`, also register words of any unit). -/
def Obligations.PowerCommandsChangeOnlyTheirKinds : Prop :=
  ∀ (i : Instr) (s : State), commandFamily i = .power → s.Inv → ∃ t, exec i s = .next t ∧ Framed i s t

/-- Frame of the commands of the mailbox, the host endpoint and the hot port: each answers a next state, in which only the kinds of state that its rules
name differ (`commandParts`; with `commandAnyRegs`, also register words of any unit). -/
def Obligations.HostCommandsChangeOnlyTheirKinds : Prop :=
  ∀ (i : Instr) (s : State), commandFamily i = .host → s.Inv → ∃ t, exec i s = .next t ∧ Framed i s t

/-- Frame of the commands of the analog front end and the filter chains: each answers a next state, in which only the kinds of state that its rules
name differ (`commandParts`; with `commandAnyRegs`, also register words of any unit). -/
def Obligations.MeasurementCommandsChangeOnlyTheirKinds : Prop :=
  ∀ (i : Instr) (s : State), commandFamily i = .measurement → s.Inv → ∃ t, exec i s = .next t ∧ Framed i s t

/-- Frame of the commands of the protection elements and the trip path: each answers a next state, in which only the kinds of state that its rules
name differ (`commandParts`; with `commandAnyRegs`, also register words of any unit). -/
def Obligations.ProtectionCommandsChangeOnlyTheirKinds : Prop :=
  ∀ (i : Instr) (s : State), commandFamily i = .protection → s.Inv → ∃ t, exec i s = .next t ∧ Framed i s t

/-- Frame of the commands of loops and axes: each answers a next state, in which only the kinds of state that its rules
name differ (`commandParts`; with `commandAnyRegs`, also register words of any unit). -/
def Obligations.ControlCommandsChangeOnlyTheirKinds : Prop :=
  ∀ (i : Instr) (s : State), commandFamily i = .control → s.Inv → ∃ t, exec i s = .next t ∧ Framed i s t

/-- Frame of the commands of the logic engine, the Bullpen and the Umpire: each answers a next state, in which only the kinds of state that its rules
name differ (`commandParts`; with `commandAnyRegs`, also register words of any unit). -/
def Obligations.LogicCommandsChangeOnlyTheirKinds : Prop :=
  ∀ (i : Instr) (s : State), commandFamily i = .logic → s.Inv → ∃ t, exec i s = .next t ∧ Framed i s t

/-- Frame of the commands of points and recipes: each answers a next state, in which only the kinds of state that its rules
name differ (`commandParts`; with `commandAnyRegs`, also register words of any unit). -/
def Obligations.PointCommandsChangeOnlyTheirKinds : Prop :=
  ∀ (i : Instr) (s : State), commandFamily i = .points → s.Inv → ∃ t, exec i s = .next t ∧ Framed i s t

/-- Frame of the commands of the continuity store, Let and errors: each answers a next state, in which only the kinds of state that its rules
name differ (`commandParts`; with `commandAnyRegs`, also register words of any unit). -/
def Obligations.ContinuityCommandsChangeOnlyTheirKinds : Prop :=
  ∀ (i : Instr) (s : State), commandFamily i = .continuity → s.Inv → ∃ t, exec i s = .next t ∧ Framed i s t

/-- Frame of the commands of the event, change and disturbance recorders and the archive: each answers a next state, in which only the kinds of state that its rules
name differ (`commandParts`; with `commandAnyRegs`, also register words of any unit). -/
def Obligations.RecordingCommandsChangeOnlyTheirKinds : Prop :=
  ∀ (i : Instr) (s : State), commandFamily i = .recording → s.Inv → ∃ t, exec i s = .next t ∧ Framed i s t

/-- Frame of the commands of field inputs and outputs and the safety functions: each answers a next state, in which only the kinds of state that its rules
name differ (`commandParts`; with `commandAnyRegs`, also register words of any unit). -/
def Obligations.FieldCommandsChangeOnlyTheirKinds : Prop :=
  ∀ (i : Instr) (s : State), commandFamily i = .field → s.Inv → ∃ t, exec i s = .next t ∧ Framed i s t

/-- Frame of the commands of lanes, Renby and stations: each answers a next state, in which only the kinds of state that its rules
name differ (`commandParts`; with `commandAnyRegs`, also register words of any unit). -/
def Obligations.LaneCommandsChangeOnlyTheirKinds : Prop :=
  ∀ (i : Instr) (s : State), commandFamily i = .lanes → s.Inv → ∃ t, exec i s = .next t ∧ Framed i s t

/-- Frame of the commands of the time unit: each answers a next state, in which only the kinds of state that its rules
name differ (`commandParts`; with `commandAnyRegs`, also register words of any unit). -/
def Obligations.TimeCommandsChangeOnlyTheirKinds : Prop :=
  ∀ (i : Instr) (s : State), commandFamily i = .time → s.Inv → ∃ t, exec i s = .next t ∧ Framed i s t

/-- Frame of the commands of identity and access: each answers a next state, in which only the kinds of state that its rules
name differ (`commandParts`; with `commandAnyRegs`, also register words of any unit). -/
def Obligations.AccessCommandsChangeOnlyTheirKinds : Prop :=
  ∀ (i : Instr) (s : State), commandFamily i = .access → s.Inv → ∃ t, exec i s = .next t ∧ Framed i s t

/-- R32, R35, R50, R539, R542: what the power and reset events do. The field calibration constants are non-volatile (R123), which the
reset keeps (log entry 22). -/
def Obligations.PowerAndResetEventsAct : Prop :=
  (∀ s : State, s.Inv → s.mo.vddKeep = false →
      ∃ t, exec .vddKeepApplied s = .next t ∧ t.mo.vddKeep = true ∧ t.kp = Keeper.init) ∧
    (∀ s : State, s.Inv → ∃ t, exec .vddKeepLoss s = .next t ∧ t.mo.vddKeep = false ∧ t.kp = Keeper.init) ∧
    (∀ s : State, s.Inv → s.mo.resetN = true → s.mo.mode ≠ .keeper →
      ∃ t, exec .resetNLow s = .next t ∧ t.mo.mode = .boot ∧ t.mo.boot = .resetLow ∧ t.mo.resetN = false ∧ t.mo.cause = 2 ∧
        t.mo.prev = s.mo.mode ∧ t.mb.inflight = [] ∧ t.tu.running = false ∧
        (∀ u g i w : Nat, u ≠ 1 → g < 256 → ¬(u = 8 ∧ (g = 0x11 ∨ g = 0x12)) → t.word u g i w = resetWord u g (w % 4096))) ∧
    (∀ s : State, s.Inv → s.mo.mode ≠ .keeper →
      ∃ t, exec .vddCoreLow s = .next t ∧ t.mo.mode = .keeper ∧ t.mo.prev = s.mo.mode ∧ t.mb.inflight = [] ∧ t.mo.rails = false) ∧
    (∀ s : State, s.Inv → s.mo.resetN = false → s.mo.vddKeep = true →
      ∃ t, exec .resetNRelease s = .next t ∧ t.mo.mode = .boot ∧ t.mo.boot = .rom ∧ t.mo.resetN = true ∧
        t.mo.cause = (if s.mo.mode = .keeper then 1 else 2) ∧ t.tu.sec = s.kp.rtcSec % 2 ^ 48 ∧ t.holdover = true ∧
        t.kp.wakeNLow = false)

/-- Table 2.10 and Table 2.11: what each step of BOOT does when it passes and when it fails. -/
def Obligations.BootStepsFollowStartUpTimeline : Prop :=
  (∀ s : State, s.Inv → s.bootAt .rom = true →
      (∃ t, exec (.romCheckDone true) s = .next t ∧ t.mo.boot = .firmware ∧ t.mo.mode = .boot) ∧
      (∃ t, exec (.romCheckDone false) s = .next t ∧ t.mo.boot = .stuck ∧ t.mo.bootstat = 1 ∧ t.mo.mode = .boot)) ∧
    (∀ s : State, s.Inv → s.bootAt .firmware = true →
      (∃ t, exec (.firmwareVerified false false) s = .next t ∧ t.mo.boot = .recovery ∧ t.mo.bootstat = 2) ∧
      (∀ x, s.sc.fwPend = false → s.sc.fwSlot = false → s.sc.slotA = some x → s.sc.fwSvn ≤ x.svn →
        ∃ t, exec (.firmwareVerified true true) s = .next t ∧ t.mo.boot = .captain ∧ t.sc.fwBooted = false)) ∧
    (∀ s : State, s.Inv → s.bootAt .captain = true →
      ∃ t, exec .captainReady s = .next t ∧ t.mo.captain = true ∧ t.mo.boot = .sram ∧ t.mo.mode = .boot) ∧
    (∀ s : State, s.Inv → s.bootAt .sram = true →
      (s.mo.coldBoot = false → ∃ t, exec (.sramSelfTestDone false true) s = .next t ∧ t.mo.boot = .stuck ∧ t.mo.bootstat = 3 ∧
        t.mo.protFail = true) ∧
      (∃ t, exec (.sramSelfTestDone true true) s = .next t ∧ t.mo.boot = .sdram ∧ t.mo.bootFail = s.mo.bootFail) ∧
      (∃ t, exec (.sramSelfTestDone true false) s = .next t ∧ t.mo.boot = .sdram ∧ t.mo.bootFail = true ∧ t.mo.bootstat = 4 ∧
        ⟨0x0284, 4⟩ ∈ t.ec.arrivals)) ∧
    (∀ (s : State) (mib : Nat) (slotOk : Bool), s.Inv → s.bootAt .sdram = true → s.mo.sdram = none → mib < 2 ^ 32 →
      (∃ t, exec (.sdramTrained true mib slotOk) s = .next t ∧ t.mo.boot = .config) ∧
      (∃ t, exec (.sdramTrained false mib slotOk) s = .next t ∧ t.mo.boot = .config ∧ t.mo.bootFail = true ∧ t.mo.bootstat = 5 ∧
        t.ev.lr = true)) ∧
    (∀ (s : State) (bf bd : List Nat), s.Inv → s.bootAt .config = true → s.mo.coldBoot = false → s.lg.committed = none →
      (s.mb.committed = none → s.mb.older = [] → s.sc.marker = false →
        ∃ t, exec (.bootConfigApply 0 true bf bd) s = .next t ∧ t.mo.boot = .awaitConfig ∧ t.mo.bootstat = 6 ∧ t.mo.mode = .boot) ∧
      (∀ im, s.mb.committed = some im → s.sc.marker = false →
        ∃ t, exec (.bootConfigApply 0 true bf bd) s = .next t ∧ t.mo.boot = .protection ∧ t.mo.controlLoaded = s.mo.sdram.isSome ∧
          t.mb.committed = some im)) ∧
    (∀ s : State, s.Inv → s.bootAt .protection = true →
      ∃ t, exec .localProtectionReady s = .next t ∧ t.mo.mode = .train ∧ t.mo.cause = 0xC ∧ t.mo.prev = .boot ∧
        t.mo.boot = .done ∧ t.mo.sentArmed = true ∧ t.mo.trainAt = s.elapsed)

/-- R54, R55: the two ends of TRAIN; R34: a device bound by it exits to COMMISSION. -/
def Obligations.TrainExitsByLanesOrTimeout : Prop :=
  (∀ s : State, s.Inv → s.mo.mode = .train → s.mo.controlLoaded = true → s.missingLanes = [] → s.cs.cut = false →
      s.bootFailed = false → s.rd CS_CFG_WARM_POL 0 ≠ 2 →
      ∃ t, exec .trainExit s = .next t ∧ t.mo.cause = 4 ∧ t.mo.prev = .train ∧
        t.mo.mode = (if s.flag MB_MODECFG_START_COMM 0 = true ∨ s.boundByR34 = true then .commission else .run)) ∧
    (∀ s : State, s.Inv → s.mo.mode = .train → s.cs.cut = false → s.bootFailed = false →
      s.mo.trainAt + s.rd MB_MODECFG_TRAIN_TIMEOUT 0 * 8000000 ≤ s.elapsed →
      (s.rd MB_MODECFG_TO_POLICY 0 = 1 →
        ∃ t, exec .trainTimeout s = .next t ∧ t.mo.mode = .safe ∧ t.mo.cause = 5 ∧ t.mo.prev = .train) ∧
      (s.rd MB_MODECFG_TO_POLICY 0 = 0 → s.rd CS_CFG_WARM_POL 0 ≠ 2 →
        ∃ t, exec .trainTimeout s = .next t ∧ t.mo.cause = 5 ∧
          t.mo.mode = (if s.flag MB_MODECFG_START_COMM 0 = true ∨ s.boundByR34 = true then .commission else .run)))

/-- R42, Table 2.7: each entry step and the cancelling of the entry. -/
def Obligations.SentinelEntryRunsItsSteps : Prop :=
  (∀ s : State, s.Inv → s.mo.mode = .sentinel → s.mo.sentHalt = false →
      (s.mo.sent = .entering 0 → s.cyclesOpen = false →
        ∃ t, exec .sentinelEntryStep s = .next t ∧ t.mo.sent = .entering 1 ∧ t.mo.control = false ∧ t.mo.mode = .sentinel) ∧
      (s.mo.sent = .entering 1 → s.cs.writing = none →
        ∃ t, exec .sentinelEntryStep s = .next t ∧ t.mo.sent = .entering 2 ∧ t.mo.mode = .sentinel) ∧
      (s.mo.sent = .entering 2 → s.cs.writing = none →
        ∃ t, exec .sentinelEntryStep s = .next t ∧ t.mo.sent = .entering 3) ∧
      (s.mo.sent = .entering 3 → s.mb.inflight = [] →
        ∃ t, exec .sentinelEntryStep s = .next t ∧ t.mo.sent = .entering 4 ∧ t.mo.captain = false) ∧
      (s.mo.sent = .entering 4 →
        ∃ t, exec .sentinelEntryStep s = .next t ∧ t.mo.sent = .entering 5 ∧ t.mo.heartbeat = false) ∧
      (s.mo.sent = .entering 5 →
        ∃ t, exec .sentinelEntryStep s = .next t ∧ t.mo.sent = .asleep ∧ t.tu.running = false ∧
          t.kp.latchTai = s.tai - s.kp.rtcPhase * s.increment / 16 / 2 ^ 32)) ∧
    (∀ (s : State) (n k : Nat) (src : WakeSrc), s.Inv → s.mo.mode = .sentinel → s.mo.sent = .entering k → s.mo.sentHalt = false →
      wakeSrcOf n = some src → s.wakeEnabled src = true →
      ∃ t, exec (.sentinelEntryCancel n) s = .next t ∧ t.mo.mode = .run ∧ t.mo.cause = 0xD ∧ t.mo.prev = .sentinel ∧ t.mo.sent = .out)

/-- R37, R46, R48, Table 2.8: the wake sequence, its sources and its failure. -/
def Obligations.WakeFollowsItsSequence : Prop :=
  (∀ (s : State) (n : Nat) (src : WakeSrc), s.Inv → s.mo.mode = .sentinel → s.mo.sent = .asleep → wakeSrcOf n = some src →
      s.wakeEnabled src = true →
      ∃ t, exec (.wakeSource n) s = .next t ∧ t.mo.sent = .waking false ∧ t.mo.pllAt = s.elapsed ∧ t.mo.mode = .sentinel ∧
        t.rd KP_WAKE_CAUSE 0 = natSetBit (s.rd KP_WAKE_CAUSE 0) src.bit true % 256) ∧
    (∀ s : State, s.Inv → s.mo.mode = .sentinel → s.mo.sent = .asleep → s.flag KP_WAKE_WAKEN_EN 0 = true →
      ∃ t, exec .wakeNLow s = .next t ∧ t.mo.sent = .waking false) ∧
    (∀ (s : State) (r : Bool), s.Inv → s.mo.sent = .waking r →
      ∃ t, exec .wakePllLocked s = .next t ∧ t.mo.sent = .locked ∧ t.tu.running = true ∧ t.mo.heartbeat = true ∧
        t.mo.mode = s.mo.mode) ∧
    (∀ s : State, s.Inv → s.mo.mode = .sentinel → s.mo.sent = .locked →
      ∃ t, exec .wakeControlRunning s = .next t ∧ t.mo.mode = .run ∧ t.mo.cause = 6 ∧ t.mo.captain = true ∧ t.mo.sent = .out) ∧
    (∀ s : State, s.Inv → s.mo.pllAt + 40000 ≤ s.elapsed →
      (s.mo.sent = .waking false → ∃ t, exec .wakePllTimeout s = .next t ∧ t.mo.sent = .waking true ∧ t.mo.pllAt = s.elapsed) ∧
      (s.mo.sent = .waking true → ∃ t, exec .wakePllTimeout s = .next t ∧ t.mo.mode = .safe ∧ t.mo.protFail = true ∧
        t.mo.sent = .out ∧ t.ev.lr = true)) ∧
    (∀ s : State, s.Inv → s.mo.vddKeep = true → s.flag KP_WAKE_ALARM_EN 0 = true → s.kp.alarmSpent = false → s.alarmPast = true →
      s.mo.mode = .keeper →
      ∃ t, exec .keeperAlarmDue s = .next t ∧ t.kp.wakeNLow = true ∧ t.kp.alarmSpent = true ∧ t.mo.mode = .keeper)

/-- R21 and R40: protection hardware faults and the crystal. -/
def Obligations.ClockAndWatchdogFaultsStopHeartbeat : Prop :=
  (∀ s : State, s.Inv → s.tu.running = true → s.mo.protFail = false →
      ∃ t, exec .clockLoss s = .next t ∧ t.mo.protFail = true ∧ t.mo.heartbeat = false ∧ ⟨0x1080, 4⟩ ∈ t.ec.arrivals) ∧
    (∀ s : State, s.Inv → s.protOn = true → s.pe.lastPass + 200000 ≤ s.elapsed →
      ∃ t, exec .protectionWatchdogExpiry s = .next t ∧ t.mo.protFail = true ∧ t.mo.heartbeat = false ∧
        ⟨0x1080, 4⟩ ∈ t.ec.arrivals) ∧
    (∀ s : State, s.Inv → s.mo.vddKeep = true → s.kp.fromRc = false → s.mo.mode ≠ .keeper → s.mo.resetN = true →
      ∃ t, exec .crystalStop s = .next t ∧ t.kp.fromRc = true ∧ ⟨0x0180, 1⟩ ∈ t.ec.arrivals)

/-- R77 (NOP), R75 (OBJ_DESCRIBE). -/
def Obligations.NopCompletesAndDescribeNamesTheObject : Prop :=
  (∀ (s : State) (ring idx : Nat) (c : Cmd), s.Inv → s.Ready ring idx c → c.Plain opNop 0 → s.inMode modesAll = true →
      ∃ t, exec (.nop ring idx) s = .next t ∧ t.Outcome c .ok 0 0 0 0 none) ∧
    (∀ (s : State) (ring idx : Nat) (c : Cmd) (o : ObjSpec), s.Inv → s.Ready ring idx c → c.Plain opDescribe 0 →
      s.inMode modesAll = true → findObj (objUnit c.objid) (objGrp c.objid) = some o → o.full (objInst c.objid) = true →
      s.objAbsent (objUnit c.objid) (objGrp c.objid) (objInst c.objid) = false →
      ∃ t m, exec (.objDescribe ring idx) s = .next t ∧ t.Outcome c .ok o.nwords m 0 0 none ∧
        ∀ n, n < 32 → m.testBit n = (maskOfFields (fun a => a != .ro) n o.fields != 0))

/-- R74: the two outcomes of ABORT. -/
def Obligations.AbortEndsACommandBeforeItsCommitPoint : Prop :=
  (∀ (s : State) (ring idx : Nat) (c a : Cmd), s.Inv → s.Ready ring idx c → c.Plain opAbort 8 → c.len = 8 →
      c.objid = 0 → (c.par 0).get 31 30 = 0 → (c.par 0).get 23 16 = 0 → (c.par 1).get 30 16 = 0 → s.inMode modesAll = true →
      s.abortTarget c = some a → a.undecided = true → s.pastCommit a = false →
      (∀ x, x ∈ s.mb.inflight → (x.ref = a.ref → x = a) ∧ (x.ref = c.ref → x = c)) → s.lg.switch = none →
      ∃ t, exec (.abort ring idx) s = .next t ∧ t.Outcome a .aborted 0 0 0 0 none) ∧
    (∀ (s : State) (ring idx : Nat) (c : Cmd), s.Inv → s.Ready ring idx c → c.Plain opAbort 8 → c.len = 8 →
      c.objid = 0 → (c.par 0).get 31 30 = 0 → (c.par 0).get 23 16 = 0 → (c.par 1).get 30 16 = 0 → s.inMode modesAll = true →
      (s.abortTarget c = none ∨ ∃ a, s.abortTarget c = some a ∧ a.undecided = false) →
      ∃ t, exec (.abort ring idx) s = .next t ∧ t.Outcome c .noMatch 0 0 0 0 none ∧
        ∀ a, a ∈ s.mb.inflight → a.undecided = false → a ∈ t.mb.inflight)

/-- R75: OBJ_READ with BUF = 0 and with BUF = 1. -/
def Obligations.ObjReadReturnsTheWordsAsked : Prop :=
  (∀ (s : State) (ring idx : Nat) (dmaOk : Bool) (c : Cmd) (o : ObjSpec), s.Inv → s.Ready ring idx c → s.inMode modesAll = true →
      findObj (objUnit c.objid) (objGrp c.objid) = some o → o.full (objInst c.objid) = true →
      s.objAbsent (objUnit c.objid) (objGrp c.objid) (objInst c.objid) = false →
      1 ≤ c.count → c.first + c.count ≤ o.nwords →
      (c.Plain opRead 4 → c.count ≤ 4 →
        ∃ t, exec (.objRead ring idx dmaOk) s = .next t ∧ t.regs = s.regs ∧
          ∀ r : Nat → Nat, (∀ k, r k = if k < c.count then
              (s.objWord (objUnit c.objid) (objGrp c.objid) (objInst c.objid) (c.first + k)).toNat else 0) →
            t.Outcome c .ok (r 0) (r 1) (r 2) (r 3) none) ∧
      (c.WithBuffer opRead 1 4 → 4 * c.count ≤ c.bufLen → dmaOk = true → s.bufReach c = true →
        ∃ t, exec (.objRead ring idx dmaOk) s = .next t ∧ t.regs = s.regs ∧ t.Outcome c .ok 0 0 0 0 none ∧
          ∃ d, t.mb.lastDma = some d ∧ d.loc = c.bufLoc ∧ d.addr = c.bufAddr ∧ d.words.length = c.count ∧
            ∀ k, k < c.count → d.words[k]? =
              some (s.objWord (objUnit c.objid) (objGrp c.objid) (objInst c.objid) (c.first + k))))

/-- R75: what a write of an object does to each bit; R73: as one step, the completion carrying the instant. -/
def Obligations.ObjWriteAndModifyWriteTheWordsNamed : Prop :=
  (∀ (s : State) (ring idx : Nat) (buf : Option (List W32)) (c : Cmd) (o : ObjSpec), s.Inv → s.Ready ring idx c →
      c.Plain opWrite (4 + 4 * c.count) → c.count ≤ 11 → c.wordsFit = true →
      objUnit c.objid ∈ plainUnits → findObj (objUnit c.objid) (objGrp c.objid) = some o → c.words.length = 16 →
      s.verdict c (s.writeChecks c true (c.writeReq buf) none) = none →
      ∃ t, exec (.objWrite ring idx buf) s = .next t ∧ t.Outcome c .ok 0 0 0 0 (some s.now) ∧
        (∀ k b, k < c.count → b < 32 →
          (t.word (objUnit c.objid) (objGrp c.objid) (objInst c.objid) (c.first + k)).getLsbD b =
            bitWritten o.fields (c.first + k) b
              (s.word (objUnit c.objid) (objGrp c.objid) (objInst c.objid) (c.first + k)) 0xFFFFFFFF (c.par (1 + k))) ∧
        (∀ w, w < 4096 → (w < c.first ∨ c.first + c.count ≤ w) →
          t.word (objUnit c.objid) (objGrp c.objid) (objInst c.objid) w =
            s.word (objUnit c.objid) (objGrp c.objid) (objInst c.objid) w)) ∧
    (∀ (s : State) (ring idx : Nat) (c : Cmd) (o : ObjSpec), s.Inv → s.Ready ring idx c →
      c.Plain opModify 12 → c.count = 1 → c.wordsFit = true →
      objUnit c.objid ∈ plainUnits → findObj (objUnit c.objid) (objGrp c.objid) = some o →
      s.verdict c (s.writeChecks c true c.modifyReq none) = none →
      ∃ t, exec (.objModify ring idx) s = .next t ∧ t.Outcome c .ok 0 0 0 0 (some s.now) ∧
        (∀ b, b < 32 →
          (t.word (objUnit c.objid) (objGrp c.objid) (objInst c.objid) c.first).getLsbD b =
            bitWritten o.fields c.first b (s.word (objUnit c.objid) (objGrp c.objid) (objInst c.objid) c.first)
              (c.par 1) (c.par 2)) ∧
        (∀ w, w < 4096 → w ≠ c.first →
          t.word (objUnit c.objid) (objGrp c.objid) (objInst c.objid) w =
            s.word (objUnit c.objid) (objGrp c.objid) (objInst c.objid) w))

/-- R17: protection settings never change while a pass is in progress; the write is staged for the next pass boundary. -/
def Obligations.ProtectionSettingsWaitForThePass : Prop :=
  (∀ (s : State) (ring idx : Nat) (buf : Option (List W32)) (c : Cmd), s.Inv → s.Ready ring idx c →
      c.Plain opWrite (4 + 4 * c.count) → c.count ≤ 11 → c.wordsFit = true → s.protOn = true → s.mo.boot = .done →
      protUnit (objUnit c.objid) = true → s.verdict c (s.writeChecks c true (c.writeReq buf) none) = none →
      ∃ t, exec (.objWrite ring idx buf) s = .next t ∧ t.Awaits c ∧ t.regs = s.regs ∧
        t.staged = s.staged ++ [⟨some c.ref, c.objid, c.first, (c.writeReq buf).ws⟩]) ∧
    (∀ (s : State) (ring idx : Nat) (c : Cmd), s.Inv → s.Ready ring idx c → c.Plain opModify 12 → c.count = 1 →
      c.wordsFit = true → s.protOn = true → s.mo.boot = .done → protUnit (objUnit c.objid) = true →
      s.verdict c (s.writeChecks c true c.modifyReq none) = none →
      ∃ t, exec (.objModify ring idx) s = .next t ∧ t.Awaits c ∧ t.regs = s.regs ∧
        t.staged = s.staged ++ [⟨some c.ref, c.objid, c.first, [(c.par 1, c.par 2)]⟩])

/-- R78 and R558: the four commands of configuration images. -/
def Obligations.ConfigurationImagesAreStagedAppliedAndRead : Prop :=
  (∀ (s : State) (ring idx : Nat) (ws : List W32) (sig : Bool) (c : Cmd), s.Inv → s.Ready ring idx c → c.WithBuffer opCfgLoad 0 0 →
      s.inMode modesAll = true → s.bufReach c = true → s.loadFault ws c.bufLen sig = none →
      ∃ t x, exec (.cfgLoad ring idx (some ws) sig) s = .next t ∧ readImage ws c.bufLen (sig || !s.openedLike) = .ok x ∧
        t.mb.staged = some x.image ∧ t.mb.committed = s.mb.committed ∧ t.regs = s.regs ∧ t.Outcome c .ok 0 0 0 0 (some s.now)) ∧
    (∀ (s : State) (ring idx : Nat) (c : Cmd), s.Inv → s.Ready ring idx c → c.Plain opCfgDiscard 0 → s.inMode modesAll = true →
      ∃ t, exec (.cfgDiscard ring idx) s = .next t ∧ t.mb.staged = none ∧ t.mb.committed = s.mb.committed ∧ t.regs = s.regs ∧
        t.Outcome c .ok 0 0 0 0 (if s.mb.staged = none then none else some s.now)) ∧
    (∀ (s : State) (ring idx : Nat) (c : Cmd) (im : CfgImage), s.Inv → s.Ready ring idx c → c.Plain opCfgApply 0 →
      s.authorized c = true → s.mb.staged = some im → s.applyFault = none →
      (s.inMode modesCrs = true →
        ∃ t, exec (.cfgApply ring idx) s = .next t ∧ t.mb.committed = some im ∧ t.mb.staged = none ∧
          t.mb.older = s.mb.committed.toList ++ s.mb.older) ∧
      (s.mo.mode = .boot → s.mo.boot = .awaitConfig →
        ∃ t, exec (.cfgApply ring idx) s = .next t ∧ t.mb.committed = some im ∧ t.mb.staged = none ∧ t.mo.boot = .protection ∧
          t.mo.bootstat = s.mo.bootstat)) ∧
    (∀ (s : State) (ring idx : Nat) (dmaOk : Bool) (c : Cmd), s.Inv → s.Ready ring idx c → c.Plain opCfgRead 4 →
      s.inMode modesAll = true → (c.par 0).get 31 1 = 0 →
      ∃ t, exec (.cfgRead ring idx dmaOk) s = .next t ∧ t.regs = s.regs ∧
        (∀ im, (if (c.par 0).get 0 0 = 1 then s.mb.staged else s.mb.committed) = some im →
          t.Outcome c .ok im.len im.crc im.svn im.vmask none) ∧
        ((if (c.par 0).get 0 0 = 1 then s.mb.staged else s.mb.committed) = none → t.Outcome c .noMatch 0 0 0 0 none))

/-- R77, NOTIFY_ROUTE; that the later of two routes wins is log entry 13. -/
def Obligations.NotifyRouteSetsTheRouteOfACode : Prop :=
  ∀ (s : State) (ring idx : Nat) (c : Cmd), s.Inv → s.Ready ring idx c → c.Plain opNotifyRoute 4 → s.inMode modesAll = true →
    objUnit c.objid ∈ unitIds → c.objid % 2 ^ 24 = 0 → (c.par 0).get 15 6 = 0 → s.unitAbsent (objUnit c.objid) = false →
    ∃ t, exec (.notifyRoute ring idx) s = .next t ∧ t.Outcome c .ok 0 0 0 0 (some s.now) ∧
      t.routeOf (objUnit c.objid) ((c.par 0).get 31 16) = some ((c.par 0).get 5 0) ∧
      ((c.par 0).get 31 16 = 0xFFFF → ∀ code, code < 65536 → t.routeOf (objUnit c.objid) code = some ((c.par 0).get 5 0))

/-- R30, R33, R41, R42, R556. -/
def Obligations.ModeCommandsFollowTheTransitionTable : Prop :=
  (∀ (s : State) (ring idx : Nat) (c : Cmd), s.Inv → s.Ready ring idx c → c.Plain opModeRequest 4 → c.len = 4 → c.targetBad = false →
      s.inMode modesTrain = true → c.busy = false → s.inTransition = false →
      (c.target = .commission ∨ s.mo.mode = .commission → s.authorized c = true) →
      (c.target = s.mo.mode → ∃ t, exec (.modeRequest ring idx) s = .next t ∧ t.mo = s.mo ∧
        t.Outcome c .ok s.mo.mode.code 0 0 0 none) ∧
      (c.target = .safe → (s.mo.mode = .train ∨ s.mo.mode = .commission ∨ s.mo.mode = .run) →
        ∃ t, exec (.modeRequest ring idx) s = .next t ∧ t.mo.mode = .safe ∧ t.mo.cause = 3 ∧ t.mo.prev = s.mo.mode) ∧
      (c.target = .sentinel → s.sentAllowed = true →
        ∃ t, exec (.modeRequest ring idx) s = .next t ∧ t.mo.mode = .sentinel ∧ t.mo.cause = 3 ∧ t.mo.sent = .entering 0) ∧
      (c.target = .commission → s.mo.mode = .run →
        (s.cyclesOpen = false → s.findCmd c.ring c.order = some c →
          ∃ t, exec (.modeRequest ring idx) s = .next t ∧ t.mo.mode = .commission ∧ t.mo.cause = 3 ∧ t.mo.prev = .run ∧
            t.Outcome c .ok 3 0 0 0 (some s.now)) ∧
        (s.cyclesOpen = true →
          ∃ t, exec (.modeRequest ring idx) s = .next t ∧ t.mo.mode = .run ∧ t.mo.pend = some .commission ∧ t.Awaits c)) ∧
      (c.target = .run → s.mo.mode = .commission → s.boundByR34 = false → s.cyclesOpen = false →
        ∃ t, exec (.modeRequest ring idx) s = .next t ∧ t.mo.mode = .run ∧ t.mo.cause = 3 ∧ t.mo.prev = .commission) ∧
      (c.target ≠ s.mo.mode → (c.target = .boot ∨ c.target = .train ∨ c.target = .letMode ∨ c.target = .keeper) →
        ∃ t, exec (.modeRequest ring idx) s = .next t ∧ t.mo = s.mo ∧
          t.Outcome c .modeForbids s.mo.mode.code 0 0 0 none)) ∧
    (∀ (s : State) (ring idx : Nat) (c : Cmd), s.Inv → s.Ready ring idx c → c.Plain opSafeExit 4 → c.len = 4 → c.targetBad = false →
      (c.target = .commission ∨ c.target = .run) → s.authorized c = true → s.mo.mode = .safe → c.busy = false →
      s.safeHolds = false → (c.target = .run → s.boundByR34 = false) → s.mo.pend = none → s.mo.pendCmd = none →
      ∃ t, exec (.safeExit ring idx) s = .next t ∧ t.mo.mode = c.target ∧ t.mo.cause = 3 ∧ t.mo.prev = .safe ∧
        t.mo.control = true ∧ t.Outcome c .ok c.target.code 0 0 0 (some s.now))

/-- R367, R83 (COLD_RESTART) and R368 (LET_REQUEST). -/
def Obligations.RestartCommandsEnterBootOrLet : Prop :=
  (∀ (s : State) (ring idx : Nat) (c : Cmd), s.Inv → s.Ready ring idx c → c.Plain opColdRestart 0 → c.objid = 0x28000000 →
      s.authorized c = true → s.inMode modesAll = true → c.busy = false → s.inTransition = false →
      ∃ t, exec (.coldRestart ring idx) s = .next t ∧ t.mo.mode = .boot ∧ t.mo.cause = 3 ∧ t.mo.boot = .firmware ∧
        t.mo.captain = false ∧ t.mb.inflight = [] ∧ t.mb.routes = [] ∧ (∀ n, n < 64 → t.flag MB_RINGREG_EN n = false) ∧
        t.tu.sec = s.tu.sec ∧ t.tu.ns = s.tu.ns ∧ t.tu.state = s.tu.state) ∧
    (∀ (s : State) (ring idx : Nat) (c : Cmd), s.Inv → s.Ready ring idx c → c.Plain opLetRequest 4 → c.objid = 0x28000000 →
      ((c.par 0).toNat = 1 ∨ (c.par 0).toNat = 2) → s.authorized c = true → (s.mo.mode = .run ∨ s.mo.mode = .commission) →
      c.busy = false → s.inTransition = false →
      ∃ t, exec (.letRequest ring idx) s = .next t ∧ t.mo.mode = .letMode ∧ t.mo.cause = 7 ∧ t.mo.letClass = (c.par 0).toNat ∧
        t.mo.letFrom = s.mo.mode ∧ t.mo.captain = false ∧ t.Outcome c .ok 0 0 0 0 (some s.now))

/-- R80: the order of the statuses; R73: a command that fails before its commit point has no effect. -/
def Obligations.EarlierStatusOfTheOrderIsReturned : Prop :=
  (∀ (s : State) (c : Cmd) (k : Checks),
      (c.frameBad = true → s.verdict c k = some (.badObject, c.objid, 0)) ∧
      (c.frameBad = false → (c.lengthOk = false ∨ k.form = false) → s.verdict c k = some (.badLength, 0, 0)) ∧
      (∀ o, c.frameBad = false → c.lengthOk = true → k.form = true →
        (s.absentObj c = some o ∨ s.absentObj c = none ∧ k.absent = some o) → s.verdict c k = some (.unitAbsent, o, 0)) ∧
      (∀ r, c.frameBad = false → c.lengthOk = true → k.form = true → s.absentObj c = none → k.absent = none → c.bufBad = false → k.bad = some r →
        s.verdict c k = some (.badObject, r.1, r.2)) ∧
      (c.frameBad = false → c.lengthOk = true → k.form = true → s.absentObj c = none → k.absent = none → c.bufBad = false → k.bad = none →
        (k.auth = true → s.authorized c = false → s.verdict c k = some (.authRequired, 0, 0)) ∧
        ((k.auth = true → s.authorized c = true) → k.modes = false → s.verdict c k = some (.modeForbids, s.cmdMode.code, 0)) ∧
        ((k.auth = true → s.authorized c = true) → k.modes = true → s.verdict c k = k.own))) ∧
    (∀ (s : State) (ring idx : Nat) (c : Cmd), s.Inv → s.Ready ring idx c → c.Plain opCfgApply 0 →
      (s.authorized c = false →
        ∃ t, exec (.cfgApply ring idx) s = .next t ∧ t.Outcome c .authRequired 0 0 0 0 none ∧
          (∀ p : Part, p ≠ .mb → p ≠ .phases → p.kept s t) ∧ t.mb.staged = s.mb.staged) ∧
      (s.authorized c = true → s.mo.mode = .boot → s.mo.boot ≠ .awaitConfig →
        ∃ t, exec (.cfgApply ring idx) s = .next t ∧ t.Outcome c .modeForbids 1 0 0 0 none ∧
          (∀ p : Part, p ≠ .mb → p ≠ .phases → p.kept s t) ∧ t.mb.staged = s.mb.staged) ∧
      (s.authorized c = true → s.inMode modesCrs = true → s.mb.staged = none →
        ∃ t, exec (.cfgApply ring idx) s = .next t ∧ t.Outcome c .noMatch 0 0 0 0 none ∧
          (∀ p : Part, p ≠ .mb → p ≠ .phases → p.kept s t)))

/-- R60, R66, R68, R69 and Table 3.12: what a doorbell word does. -/
def Obligations.DoorbellsMoveTheirRingIndices : Prop :=
  (∀ (s : State) (hot : Bool) (w : W32), s.Inv → s.rings hot = true → dbKind w = 0 → s.mo.mode ≠ .letMode → s.mo.mode ≠ .sentinel →
      s.mo.sent = .out → s.ringServed (dbRing w) = true →
      (s.ringIs (dbRing w) 0 = true → dbIndex w < s.ringSize (dbRing w) →
        ∃ t, exec (.doorbellProd hot w) s = .next t ∧ t.rd MB_RINGREG_PROD (dbRing w) = dbIndex w ∧
          t.rd MB_RINGREG_CONS (dbRing w) = s.rd MB_RINGREG_CONS (dbRing w)) ∧
      ((s.ringIs (dbRing w) 0 = false ∨ s.ringSize (dbRing w) ≤ dbIndex w) →
        ∃ t, exec (.doorbellProd hot w) s = .next t ∧ t.rd MB_RINGREG_FAULT (dbRing w) = 1 ∧ t.rd MB_RINGREG_FCODE (dbRing w) = 1 ∧
          t.rd MB_RINGREG_PROD (dbRing w) = s.rd MB_RINGREG_PROD (dbRing w) ∧
          t.rd MB_RINGREG_CONS (dbRing w) = s.rd MB_RINGREG_CONS (dbRing w))) ∧
    (∀ (s : State) (hot : Bool) (w : W32), s.Inv → s.rings hot = true → dbKind w = 1 → s.mo.mode ≠ .letMode → s.mo.mode ≠ .sentinel →
      s.mo.sent = .out → s.ringServed (dbRing w) = true → s.flag MB_RINGREG_EN (dbRing w) = true →
      s.rd MB_RINGREG_KIND (dbRing w) ≠ 0 → dbIndex w < s.ringSize (dbRing w) →
      ∃ t, exec (.doorbellCons hot w) s = .next t ∧ t.rd MB_RINGREG_CONS (dbRing w) = dbIndex w ∧
        t.rd MB_RINGREG_PROD (dbRing w) = s.rd MB_RINGREG_PROD (dbRing w)) ∧
    (∀ (s : State) (hot : Bool) (w : W32), s.Inv → s.rings hot = true → dbKind w = 0 → s.mo.mode = .letMode →
      ∃ t, exec (.doorbellProd hot w) s = .next t ∧ t.regs = s.regs ∧
        mget (fun _ => 0) t.mb.latched (dbRing w) = dbIndex w + 1) ∧
    (∀ (s : State) (hot : Bool) (w : W32), s.Inv → s.rings hot = true → dbKind w = 2 → s.mo.mode ≠ .sentinel →
      s.ringServed (dbRing w) = true →
      (s.ringActs (dbRing w) 0 = true → s.flag MB_RINGREG_LOC (dbRing w) = true → s.ringFull (dbRing w) = false →
        s.rd MB_RINGREG_SIZE_LOG2 (dbRing w) ≤ 16 →
        ∃ t, exec (.stagingPost hot w) s = .next t ∧
          t.rd MB_RINGREG_PROD (dbRing w) = (s.rd MB_RINGREG_PROD (dbRing w) + 1) % s.ringSize (dbRing w) ∧
          ∀ k, k < 16 → (mget (fun _ => []) t.mb.ringMem (dbRing w * 65536 + s.rd MB_RINGREG_PROD (dbRing w)))[k]? =
            some (BitVec.ofNat 32 (s.slotWord (dbIndex w % 4) k))) ∧
      ((s.ringActs (dbRing w) 0 = false ∨ s.flag MB_RINGREG_LOC (dbRing w) = false ∨ s.ringFull (dbRing w) = true) →
        ∃ t, exec (.stagingPost hot w) s = .next t ∧ t.regs = s.regs ∧
          t.slotWord (dbIndex w % 4) 17 = 0x30 * 65536 + s.slotWord (dbIndex w % 4) 0 % 65536 ∧
          t.slotWord (dbIndex w % 4) 18 = 2 ^ 30 + dbRing w * 2 ^ 24))

/-- R61, R62, R64, R70, R71. -/
def Obligations.FetchTakesAnEntryAndCompletionFreesIt : Prop :=
  (∀ (s : State) (n : Nat) (ws : List W32), s.Inv → s.fetches = true → s.nextRing = some n → s.flag MB_RINGREG_LOC n = false →
      ws.length = 16 → s.rd MB_RINGREG_SIZE_LOG2 n ≤ 16 →
      ∃ t c, exec (.commandFetch (some ws)) s = .next t ∧ t.mb.inflight = s.mb.inflight ++ [c] ∧ c.ring = n ∧
        c.idx = s.rd MB_RINGREG_CONS n ∧ c.words = ws ∧ c.order = s.mb.fetchNo ∧ c.slot = none ∧
        (opcodes.contains c.opcode = true → c.phase = .fetched) ∧
        (opcodes.contains c.opcode = false → c.phase = .decided .badOpcode 0 0 0 0 none) ∧
        t.rd MB_RINGREG_CONS n = (s.rd MB_RINGREG_CONS n + 1) % s.ringSize n) ∧
    (∀ (s : State) (n : Nat), s.Inv → s.fetches = true → s.nextRing = some n →
      ∃ t, exec (.commandFetch none) s = .next t ∧ t.mb.inflight = s.mb.inflight ∧ t.flag MB_RINGREG_EN n = false ∧
        ((s.handedOver 2).length < 1024 → ⟨0x0202, 0, s.now, n, 3, 0, false⟩ ∈ t.handedOver 2)) ∧
    (∀ (s : State) (ring idx : Nat) (ok : Bool) (c : Cmd) (st : Status) (r0 r1 r2 r3 : Nat) (tm : Option Stamp), s.Inv →
      s.decidedAt ring idx = some c → s.completes = true → c.phase = .decided st r0 r1 r2 r3 tm →
      (s.ringActs (s.rd MB_RINGREG_CPL_RING c.ring) 1 = true → s.ringReach (s.rd MB_RINGREG_CPL_RING c.ring) = true →
        s.ringFull (s.rd MB_RINGREG_CPL_RING c.ring) = false → ok = true →
        ∃ t, exec (.completionWrite ring idx ok) s = .next t ∧
          t.mb.inflight = s.mb.inflight.filter (fun a => !a.isThe c.ring c.order) ∧
          (mget (fun _ => []) t.mb.ringMem
            (s.rd MB_RINGREG_CPL_RING c.ring * 65536 + s.rd MB_RINGREG_PROD (s.rd MB_RINGREG_CPL_RING c.ring)))[0]? =
            some (BitVec.ofNat 32 (st.code * 65536 + c.tag))) ∧
      (s.ringActs (s.rd MB_RINGREG_CPL_RING c.ring) 1 = false →
        ∃ t, exec (.completionWrite ring idx ok) s = .next t ∧
          t.mb.inflight = s.mb.inflight.filter (fun a => !a.isThe c.ring c.order) ∧
          t.rd MB_RINGREG_DROP (s.rd MB_RINGREG_CPL_RING c.ring) =
            min 0xFFFFFF (s.rd MB_RINGREG_DROP (s.rd MB_RINGREG_CPL_RING c.ring) + 1)) ∧
      (s.ringActs (s.rd MB_RINGREG_CPL_RING c.ring) 1 = true → s.ringFull (s.rd MB_RINGREG_CPL_RING c.ring) = true →
        exec (.completionWrite ring idx ok) s = .next s))

/-- R59, R87, R88, R89, R90, R95. -/
def Obligations.HostRegisterWritesAct : Prop :=
  (∀ (s : State) (n : Nat) (w : W32), s.Inv → s.hostWrites = true → n < 64 → s.ringServed n = true → w.get 31 31 = 1 →
      s.flag MB_RINGREG_EN n = false →
      (4 ≤ w.get 15 11 → w.get 15 11 ≤ 16 → (w.get 29 28 = 0 → w.get 26 25 < 2) →
        (w.get 30 30 = 1 → s.rd MB_RINGREG_BASE_HI n = 0) →
        ∃ t, exec (.ringEnable n w) s = .next t ∧ t.flag MB_RINGREG_EN n = true ∧ t.rd MB_RINGREG_PROD n = 0 ∧
          t.rd MB_RINGREG_CONS n = 0 ∧ t.ringPhase n = true ∧ t.rd MB_RINGREG_KIND n = w.get 29 28 ∧
          t.rd MB_RINGREG_SIZE_LOG2 n = w.get 15 11) ∧
      ((w.get 15 11 < 4 ∨ 16 < w.get 15 11) →
        ∃ t, exec (.ringEnable n w) s = .next t ∧ t.flag MB_RINGREG_EN n = false ∧ t.rd MB_RINGREG_FAULT n = 1 ∧
          t.rd MB_RINGREG_FCODE n = 2)) ∧
    (∀ (s : State) (w : W32), s.Inv → s.hostWrites = true → w.get 31 31 = 1 → s.flag HE_INTCTL_GEN 0 = false → s.mo.mode ≠ .letMode →
      ∃ t, exec (.msixGenEnable w) s = .next t ∧ t.flag HE_INTCTL_GEN 0 = true ∧
        ∀ v, v < 64 → s.rd MSIX_TABLE_MASK v = 0 → natBit (t.rdk MSIX_PBA_PEND 0 (v / 32)) (v % 32) = false) ∧
    (∀ (s : State) (v : Nat), s.Inv → s.hostWrites = true →
      (v < 2 ^ 32 → ∃ t, exec (.bar0RegisterWrite 0x1200 4 v) s = .next t ∧ t.rd HE_BAR4CFG_WR_EN 0 = natBits v 31 31 ∧
        t.rd HE_BAR4CFG_MASTER 0 = natBits v 30 30 ∧ t.rd HE_BAR4CFG_DROP 0 = s.rd HE_BAR4CFG_DROP 0) ∧
      (∀ a, a % 4 ≠ 0 → exec (.bar0RegisterWrite a 4 v) s = .next s)) ∧
    (∀ (s : State) (a b v : Nat), s.Inv → s.hostWrites = true →
      ∃ t, exec (.bar2Write a b v) s = .next t ∧ t.sb.rejected = min 0xFFFFFFFF (s.sb.rejected + 1) ∧
        ∀ p : Part, p ≠ .sb → p.kept s t) ∧
    (∀ (s : State) (a b v : Nat), s.Inv → s.hostWrites = true →
      (s.bar4Acts a b v = false → ∃ t, exec (.bar4Write a b v) s = .next t ∧ t.um = s.um ∧
        t.rd HE_BAR4CFG_DROP 0 = min 0xFFFFFFFF (s.rd HE_BAR4CFG_DROP 0 + 1)) ∧
      (s.bar4Acts a b v = true → (∀ d, s.ptDef (a / 16) = some d → d.bind ≠ 7) →
        ∃ t x, exec (.bar4Write a b v) s = .next t ∧ x ∈ t.um.writes ∧ x.index = a / 16 ∧ x.raw = v)) ∧
    (∀ (s : State) (a : Nat) (v : W32), s.Inv → s.hotOn = true →
      (∀ k w, k < 4 → w < 16 → a = 0xF00 + 0x20 * k + w → (v ≠ 0 ∨ mapOk (fun _ => 0) s.sb.slots = true) →
        ∃ t, exec (.hotPortWrite a v) s = .next t ∧ t.slotWord k w = v.toNat ∧ t.sb.rejected = s.sb.rejected) ∧
      ((a < 0xF00 ∨ 0xF80 ≤ a) → a ≠ 0xFF0 →
        ∃ t, exec (.hotPortWrite a v) s = .next t ∧ t.sb.rejected = min 0xFFFFFFFF (s.sb.rejected + 1) ∧ t.sb.slots = s.sb.slots))

/-- R86: resets of the endpoint; R50: the PCIe link. -/
def Obligations.EndpointResetsDisableHostRings : Prop :=
  (∀ s : State, s.Inv → s.endpointOn = true → s.he.linkUp = true →
      ∃ t, exec .pcieHotReset s = .next t ∧
        (∀ n, n < 64 → t.flag MB_RINGREG_EN n = (s.flag MB_RINGREG_EN n && s.flag MB_RINGREG_LOC n)) ∧
        (∀ v w, v < 64 → w < 4 → t.word 0x100 3 v w = resetWord 0x100 3 w)) ∧
    (∀ s : State, s.Inv → s.hostOn = true → s.he.linkUp = true → s.he.d3hot = false →
      ∃ t, exec .d3hotEntry s = .next t ∧ t.he.d3hot = true ∧
        (∀ n, n < 64 → t.flag MB_RINGREG_EN n = (s.flag MB_RINGREG_EN n && s.flag MB_RINGREG_LOC n)) ∧
        (∀ v w, v < 64 → w < 4 → t.word 0x100 3 v w = resetWord 0x100 3 w)) ∧
    (∀ s : State, s.Inv → s.hostOn = true → s.he.linkUp = true → s.he.d3hot = true →
      ∃ t, exec .d0Restore s = .next t ∧ t.he.d3hot = false) ∧
    (∀ (s : State) (up : Bool), s.Inv → s.endpointOn = true →
      ∃ t, exec (.pcieLinkTrained up) s = .next t ∧ t.he.linkUp = up ∧ ∀ n, n < 4 → t.flag LN_LANE_UP n = up)

/-- R104 and R129 through `State.convert`; R111, R126: where results land; R117, R118, R120: retirement. -/
def Obligations.ConversionsAreCorrectedJudgedAndDelivered : Prop :=
  (∀ (s : State) (chan slice slot : Nat) (code : Int) (window : Bool), s.Inv → s.pathsOn = true → chan < s.nAin →
      slot + 240 ≤ s.tai → (s.afCore (chan / 4)).deferred = none → (s.asOf slot).slotDue chan slice slot = true →
      (s.afCore ((s.asOf slot).coreOf chan)).convAt ≤ slot →
      ((s.asOf slot).triggered chan = false →
        ∃ t r, exec (.sliceConversion chan slice slot code window false) s = .next t ∧
          t.rd AF_CHAN_REASON chan = ((s.asOf slot).convert chan slice slot code window).2.1 ∧
          (t.fcChan chan).raws.head? = some r ∧ r.t = slot ∧
          r.word = ((s.asOf slot).convert chan slice slot code window).1) ∧
      (∀ p, (s.asOf slot).triggered chan = true → (s.asOf slot).planNext (chan / 4) chan slice slot false = some p →
        ∃ t, exec (.sliceConversion chan slice slot code window false) s = .next t ∧
          t.rdk AF_CORE_RESULT (chan / 4) ((s.asOf slot).scanPos chan) =
            ((s.asOf slot).convert chan slice slot code window).1.toNat ∧
          t.rd AF_CORE_SCAN_NS (chan / 4) = p.scan.getD 0 % 1000000000)) ∧
    (∀ (s : State) (entry slice slot : Nat) (code : Int) (window : Bool), s.Inv → s.pathsOn = true →
      s.rd AF_URG_CHAN entry < s.nAin → (∀ e, e ∈ s.af.urg → e.1 < 64) →
      (∀ w r, s.triggered (s.rd AF_URG_CHAN entry) = false → s.af.urg.find? (fun e => e.1 == entry) = some w →
        s.urgentRaw (s.rd AF_URG_CHAN entry) w.2 = some r → r.t = slot →
        ∃ t, exec (.urgentConversion entry slice slot code window) s = .next t ∧
          ∀ e, e ∈ s.af.urg → s.rd AF_URG_CHAN e.1 = s.rd AF_URG_CHAN entry →
            s.urgentRaw (s.rd AF_URG_CHAN entry) e.2 = some r →
            t.rd AF_URG_RESULT e.1 = r.word.toNat ∧ t.rd AF_URG_SLOT_NS e.1 = slot % 1000000000 ∧ e ∉ t.af.urg) ∧
      (∀ p, s.triggered (s.rd AF_URG_CHAN entry) = true → (∃ w, w ∈ s.af.urg ∧ w.1 = entry) →
        s.planNext (s.rd AF_URG_CHAN entry / 4) (s.rd AF_URG_CHAN entry) slice slot true = some p → slot + 240 ≤ s.tai →
        s.flag AF_CORE_EN (s.rd AF_URG_CHAN entry / 4) = true →
        ∃ t, exec (.urgentConversion entry slice slot code window) s = .next t ∧
          ∀ e, e ∈ s.af.urg → s.rd AF_URG_CHAN e.1 = s.rd AF_URG_CHAN entry → e.2 ≤ slot →
            t.rd AF_URG_RESULT e.1 = (s.convert (s.rd AF_URG_CHAN entry) slice slot code window).1.toNat ∧
            t.rd AF_URG_SLOT_NS e.1 = slot % 1000000000 ∧ e ∉ t.af.urg)) ∧
    (∀ (s : State) (core slice : Nat) (offset gain skew : Int), s.Inv → s.pathsOn = true → core < s.byVar 16 8 4 → slice < 4 →
      (s.afCore core).inj = none → s.rdk AF_HEALTH_STATE core slice ≠ 2 →
      (estimateCause (((offset, gain, skew) :: (s.slice core slice).ests).take 16) = 0 →
        ∃ t, exec (.sliceEstimate core slice offset gain skew false) s = .next t ∧
          t.rdk AF_HEALTH_OFS core slice = est8 offset ∧ t.rdk AF_HEALTH_GAIN core slice = est8 gain ∧
          t.rdk AF_HEALTH_SKEW core slice = est8 skew ∧ t.rdk AF_HEALTH_STATE core slice < 2) ∧
      (∀ e l, (s.slice core slice).ests = e :: l → 100 < gain → 100 < e.2.1 →
        -100 ≤ offset → offset ≤ 100 →
        ∃ t, exec (.sliceEstimate core slice offset gain skew false) s = .next t ∧
          t.rdk AF_HEALTH_STATE core slice = 2 ∧ t.rdk AF_HEALTH_CAUSE core slice = 2 ∧
          ∃ r, r ∈ (t.afCore core).retire ∧ r.slice = slice ∧ r.decided = s.tai ∧ s.tai + 200 ≤ r.switch)) ∧
    (∀ (s : State) (core sl dec sw : Nat) (l : List Retire), s.Inv → core < 16 → sl < 4 →
      (s.afCore core).retire = ⟨sl, dec, sw⟩ :: l → sw ≤ s.tai →
      (s.handedOver 0).length < 8191 →
      ∃ t, exec (.sliceRetirementSwitch core) s = .next t ∧ t.rd AF_CORE_LIVE core = s.rd AF_CORE_LIVE core - 1 ∧
        ⟨0x0801, 0, s.now, core, sl, s.rdk AF_HEALTH_CAUSE core sl, false⟩ ∈ t.handedOver 0 ∧ ⟨0x0801, 2⟩ ∈ t.ec.arrivals ∧
        (t.afCore core).retire = l ∧
        (s.rd AF_CORE_LIVE core ≤ 2 → t.flag AF_CORE_LOST core = true ∧
          (s.flag AF_CORE_LOST core = false → ⟨0x0802, 2⟩ ∈ t.ec.arrivals)))

/-- R109, R110, R112, R125, R127, R128, R131 to R133, R561. -/
def Obligations.FrontEndEventsActOnTheirRegisters : Prop :=
  (∀ (s : State) (core : Nat), s.Inv → core < s.byVar 16 8 4 → s.refOn core = true →
      ((s.afCore core).refIn = true → (s.afCore core).refEnAt + 2000000 ≤ s.tai →
        ∃ t, exec (.refMonitorChange core false) s = .next t ∧ (t.afCore core).refFault = true ∧ (t.afCore core).refIn = false ∧
          t.refOk core = false ∧ ⟨0x0803, 2⟩ ∈ t.ec.arrivals) ∧
      ((s.afCore core).refIn = false → (s.afCore core).refFault = true → (s.handedOver 0).length < 8192 →
        ∃ t, exec (.refMonitorChange core true) s = .next t ∧ (t.afCore core).refIn = true ∧ (t.afCore core).refInAt = s.tai ∧
          ⟨0x0804, 0, s.now, core, 0, 0, false⟩ ∈ t.handedOver 0)) ∧
    (∀ (s : State) (core : Nat), s.Inv → core < 16 → (s.afCore core).refFault = true → (s.afCore core).refIn = true →
      (s.afCore core).refInAt + 100000 ≤ s.tai →
      ∃ t, exec (.refOkExpiry core) s = .next t ∧ (t.afCore core).refFault = false ∧
        (s.refOn core = true → (s.afCore core).refEnAt + 2000000 ≤ s.tai → t.refOk core = true)) ∧
    (∀ (s : State) (core at_ : Nat), s.Inv → core < 16 → s.pathsOn = true → s.trigCore core = true →
      s.af.trigs.find? (fun e => e.1 == core) = some (core, at_) →
      ((s.afCore core).deferred = none → (s.afCore core).scanLast + 50 ≤ at_ → s.coreSlices core ≠ [] →
        ∃ t, exec (.scanTrigger core) s = .next t ∧ t.af.trigs = s.af.trigs.erase (core, at_) ∧ t.regs = s.regs ∧
          ∀ c, c ∈ s.scanChans core → ∃ p, p ∈ (t.afCore core).plan ∧ p.chan = c ∧ p.scan = some at_ ∧ at_ ≤ p.slot) ∧
      ((s.afCore core).deferred = none → at_ < (s.afCore core).scanLast + 50 →
        ∃ t, exec (.scanTrigger core) s = .next t ∧ (t.afCore core).deferred = some ((s.afCore core).scanLast + 50) ∧
          t.regs = s.regs) ∧
      (∀ d, (s.afCore core).deferred = some d → s.tai < d →
        ∃ t, exec (.scanTrigger core) s = .next t ∧ t.rd AF_CORE_OVRUN core = min 0xFFFF (s.rd AF_CORE_OVRUN core + 1) ∧
          (t.afCore core).deferred = some d ∧ (t.afCore core).plan = (s.afCore core).plan)) ∧
    (∀ (s : State) (timer : Nat), s.Inv → s.pathsOn = true → timer < 16 → s.flag AF_TMR_EN timer = true →
      mget (fun _ => 0) s.af.tmrAt timer ≤ s.timerInstant timer →
      ∃ t, exec (.sampleTimerEvent timer) s = .next t ∧
        (∀ k, k < s.byVar 16 8 4 → s.trigCore k = true → s.rd AF_CORE_TRIG k = timer →
          (k, edgeNs (s.timerInstant timer) (s.rd AF_CORE_DELAY k)) ∈ t.af.trigs) ∧
        (∀ e, e < 64 → s.flag AF_URG_EN e = true → s.rd AF_URG_TRIG e = timer →
          (e, edgeNs (s.timerInstant timer) (s.rd AF_URG_DELAY e)) ∈ t.af.urg)) ∧
    (∀ (s : State) (chan : Nat), s.Inv → s.armed = true → chan < s.nAin → s.rd AF_CHAN_KIND chan = 1 →
      (s.rd AF_CHAN_WAKE_THR chan ≠ 0 →
        ∃ t, exec (.wakeComparatorSwitch chan) s = .next t ∧ t.flag AF_CHAN_WAKE_SEEN chan = true) ∧
      (s.rd AF_CHAN_TRIP_THR chan ≠ 0 → mget (fun _ => false) s.af.dtrip chan = false → s.tu.running = true → s.mo.mode ≠ .sentinel →
        (s.handedOver 0).length < 8192 →
        ∃ t, exec (.directTripComparatorSwitch chan true) s = .next t ∧ t.flag AF_CHAN_TRIP_SEEN chan = true ∧
          mget (fun _ => false) t.af.dtrip chan = true ∧
          ⟨0x8801, chan, s.now, 1, s.rd AF_CHAN_SNT_EN chan * 2 ^ 31 + s.rd AF_CHAN_SNT_LINE chan, 0, true⟩ ∈ t.handedOver 0)) ∧
    (∀ (s : State) (input : Nat) (on : Bool), s.Inv → s.armed = true → input < 8 →
      s.flag AF_ARC_LIGHT input ≠ (on && s.rd AF_ARC_THR input != 0) →
      ∃ t, exec (.arcLightChange input on) s = .next t ∧ t.flag AF_ARC_LIGHT input = (on && s.rd AF_ARC_THR input != 0) ∧
        (t.flag AF_ARC_LIGHT input = true → t.flag AF_ARC_SEEN input = true)) ∧
    (∀ (s : State) (input result : Nat), s.Inv → s.pathsOn = true → input < 8 → result < 3 → s.flag AF_ARC_SUP_EN input = true →
      ∃ t, exec (.arcSupervisionTest input result) s = .next t ∧ t.rd AF_ARC_SUP input = result ∧
        (result ≠ 0 → s.rd AF_ARC_SUP input ≠ result → ⟨0x0806, 2⟩ ∈ t.ec.arrivals))

/-- R143, R145, R149, R159: samples; R135 to R137, R166: streams. -/
def Obligations.SamplesReachChannelsAndStreams : Prop :=
  (∀ (s : State) (chan stamp : Nat), s.Inv → s.fineNext chan stamp = true →
      ∃ t, exec (.fineSample chan stamp) s = .next t ∧
        t.rd FC_CHAN_FINE_LAST chan = (s.fineWords chan stamp).1.toNat ∧
        t.rd FC_CHAN_FINE_STAT chan = (s.fineWords chan stamp).2.toNat ∧
        (t.fcChan chan).fine.head? = some ⟨stamp, (s.fineWords chan stamp).1, (s.fineWords chan stamp).2⟩) ∧
    (∀ (s : State) (chan stamp : Nat), s.Inv → s.fastNext chan stamp = true →
      ∃ t, exec (.fastSample chan stamp) s = .next t ∧
        t.rd FC_CHAN_FAST_LAST chan = (s.fastWords chan stamp).1.toNat ∧
        t.rd FC_CHAN_FAST_STAT chan = (s.fastWords chan stamp).2.toNat) ∧
    (∀ (s : State) (chan u i : Nat) (w : Smp), s.Inv → s.pathsOn = true → s.fcHas chan = true →
      ((s.track (s.streamTrack chan)).insts.filter (fun x => decide ((s.fcChan chan).resLast < x.1))).getLast? = some (u, i) →
      worst (s.nearFine chan u) = some w → 8 ≤ (s.nearFine chan u).length → s.resDue chan (u / 2 ^ 32) ≤ s.tai →
      ∃ t x, exec (.resampledSample chan) s = .next t ∧ (t.fcChan chan).res.head? = some x ∧ x.t = u ∧ x.stat = w.stat ∧
        x.word.get 31 30 = w.qual ∧ x.word.get 27 24 = i % 16 ∧
        x.word.get 23 0 = toSigned 24 (clamp24 (resampleValue (s.streamPeriod chan) u
          ((s.nearFine chan u).map (fun f => (f.t, f.value))))) ∧ (t.fcChan chan).resLast = u) ∧
    (∀ (s : State) (ring idx : Nat) (c : Cmd), s.Inv → s.Ready ring idx c → c.Plain opStreamOpen 8 → s.inMode modesTrain = true →
      (objUnit c.objid = 0x08 ∧ objGrp c.objid = 0x10 ∨ objUnit c.objid = 0x09 ∧ objGrp c.objid = 1) →
      s.objAbsent (objUnit c.objid) (objGrp c.objid) (objInst c.objid) = false →
      objUnknown (objUnit c.objid) (objGrp c.objid) (objInst c.objid) = false → s.streamBad c = false →
      ∃ t st, exec (.streamOpen ring idx) s = .next t ∧ t.Outcome c .ok 0 0 0 0 (some s.now) ∧
        t.stream ((c.par 0).get 21 16) = some st ∧ st.unit = objUnit c.objid ∧ st.chan = objInst c.objid ∧
        st.decim = (c.par 0).get 15 0 ∧ st.buf = [] ∧ st.closing = none) ∧
    (∀ (s : State) (ring : Nat) (st : Stream), s.Inv → s.pathsOn = true → ring < 64 → s.stream ring = some st → st.buf ≠ [] →
      s.mo.mode ≠ .sentinel →
      (s.ringIs ring 3 = true → s.ringFull ring = false → s.mo.mode ≠ .letMode → s.rd MB_RINGREG_SIZE_LOG2 ring ≤ 16 →
        ∃ t, exec (.streamEntryWrite ring) s = .next t ∧
          mget (fun _ => []) t.mb.ringMem (ring * 65536 + s.rd MB_RINGREG_PROD ring) = streamEntry st ∧
          t.rd MB_RINGREG_PROD ring = (s.rd MB_RINGREG_PROD ring + 1) % s.ringSize ring) ∧
      (s.ringFull ring = true →
        ∃ t, exec (.streamEntryWrite ring) s = .next t ∧ t.mb.ringMem = s.mb.ringMem ∧
          t.rd MB_RINGREG_DROP ring = min 0xFFFFFF (s.rd MB_RINGREG_DROP ring + 1))) ∧
    (∀ (s : State) (ring idx : Nat) (c : Cmd) (st : Stream), s.Inv → s.Ready ring idx c → c.Plain opStreamClose 4 →
      s.inMode modesAll = true → (c.par 0).get 31 6 = 0 → s.stream ((c.par 0).get 5 0) = some st → st.closing = none →
      st.buf = [] → s.findCmd c.ring c.order = some c → mapOk (fun _ => none) s.af.streams = true →
      ∃ t, exec (.streamClose ring idx) s = .next t ∧ t.stream ((c.par 0).get 5 0) = none ∧
        t.Outcome c .ok 0 0 0 0 (some s.now))

/-- R134, R154 to R158, R160, R161, R165. -/
def Obligations.BanksInjectionsAndProcessBusAct : Prop :=
  (∀ (s : State) (ring idx : Nat) (c : Cmd), s.Inv → s.Ready ring idx c → c.Plain opBankSwap 8 → s.authorized c = true →
      s.inMode modesTrain = true → s.var = .cpx9640 → objUnit c.objid = 9 → objGrp c.objid = 4 →
      objUnknown 9 4 (objInst c.objid) = false → (c.par 0).get 31 1 = 0 → s.boundaryOk (c.par 1).toNat = true →
      s.swapOf (objInst c.objid) = none → s.swapMembers (objInst c.objid) ≠ [] →
      (∀ k, k ∈ s.swapMembers (objInst c.objid) → s.bankOk k ((c.par 0).get 0 0) = true) →
      ∃ t, exec (.bankSwap ring idx) s = .next t ∧ t.Awaits c ∧
        t.swapOf (objInst c.objid) = some ⟨(c.par 0).get 0 0, s.swapInstant (c.par 1).toNat, c.ref⟩ ∧
        t.flag FC_GRP_PEND (objInst c.objid) = true ∧ t.rd FC_GRP_SWAP_SEC (objInst c.objid) = (c.par 1).toNat) ∧
    (∀ (s : State) (g : Nat) (w : Swap) (c : Cmd), s.Inv → s.pathsOn = true → g < 16 → s.swapOf g = some w → w.tb ≤ s.tai → w.bank < 2 →
      c ∈ s.mb.inflight → s.findCmd w.cmd.1 w.cmd.2 = some c → c.phase = .started →
      ∃ t, exec (.fcBankSwapInstant g) s = .next t ∧
        (∀ k, k ∈ s.swapMembers g → t.rd FC_CHAN_ACT_BANK k = w.bank ∧ t.flag FC_CHAN_SWAP_PEND k = false) ∧
        t.flag FC_GRP_PEND g = false ∧ t.Outcome c .ok 0 0 0 0 (some (Stamp.ofTai w.tb))) ∧
    (∀ (s : State) (ring idx : Nat) (c : Cmd), s.Inv → s.Ready ring idx c → s.authorized c = true → isCoreObj c = true →
      s.objAbsent 8 1 (objInst c.objid) = false → objUnknown 8 1 (objInst c.objid) = false →
      (c.Plain opInjectStart 12 → s.inMode modesC = true → (c.par 0).get 31 4 = 0 → (c.par 1).get 29 0 = 0 →
        (c.par 1).get 31 30 ≠ 3 → (c.par 2).get 15 0 ≠ 0 → (s.afCore (objInst c.objid)).inj = none →
        ∃ t, exec (.injectStart ring idx) s = .next t ∧ t.Outcome c .ok 0 0 0 0 (some s.now) ∧
          (t.afCore (objInst c.objid)).inj =
            some ⟨(c.par 0).get 3 0, (c.par 1).get 31 30, signedOf 16 ((c.par 2).get 31 16), (c.par 2).get 15 0, s.tai⟩) ∧
      (c.Plain opInjectStop 0 → s.inMode modesAll = true → mapOk (fun _ => AfCore.init) s.af.cores = true →
        ∃ t, exec (.injectStop ring idx) s = .next t ∧
          t.Outcome c .ok 0 0 0 0 (if (s.afCore (objInst c.objid)).inj = none then none else some s.now) ∧
          (t.afCore (objInst c.objid)).inj = none)) ∧
    (∀ (s : State) (k appid mac confRev cnt : Nat) (sync : Bool) (vals : List (Int × Nat)), s.Inv → s.pathsOn = true →
      (List.range 32).find? (fun k => s.flag FC_SVSTR_EN k && s.rd FC_SVSTR_APPID k == appid
        && s.rd FC_SVSTR_MAC_HI k * 65536 + s.rd FC_SVSTR_MAC_LO k == mac) = some k →
      s.flag FC_SVSTR_SPC k = false → s.rd FC_SVSTR_CONFREV k = confRev → cnt < s.fsv k → s.svUsers k = [] →
      (∀ v, v ∈ (s.sv k).hist → v.t ≠ s.svInstant k cnt) →
      ∃ t, exec (.svFrameReceive appid mac confRev 0x88BA 0 [(cnt, sync, vals)]) s = .next t ∧ t.rd FC_SVSTR_STATE k = 1 ∧
        (t.sv k).hist.head? = some ⟨s.svInstant k cnt, s.tai, sync, vals⟩ ∧ t.rd FC_SVSTR_DROP k = s.rd FC_SVSTR_DROP k) ∧
    (∀ (s : State) (k : Nat) (v : SvVal) (l : List SvVal), s.Inv → k < 32 → (s.sv k).hist = v :: l → s.flag FC_SVSTR_EN k = true →
      s.rd FC_SVSTR_STATE k = 1 → v.rx + 100000000 ≤ s.tai →
      ∃ t, exec (.svStreamLost k) s = .next t ∧ t.rd FC_SVSTR_STATE k = 2 ∧ ⟨0x0904, 2⟩ ∈ t.ec.arrivals) ∧
    (∀ (s : State) (k : Nat), s.Inv → k < 8 → s.rd FC_TRACK_STATE k = 2 → (s.track k).holdAt + 2000000000 ≤ s.tai →
      ∃ t, exec (.trackerHoldExpiry k) s = .next t ∧ t.rd FC_TRACK_STATE k = 0 ∧
        t.rd FC_TRACK_FREQ k = (if s.flag FC_TRACK_NOM k then 60000000 else 50000000))

/-- R122: xs := (x - ofs_slice / 16) * gn_slice, v := (xs - ofs_chan / 16) * gn_chan, value := round(v * 256), ties away from zero,
clamped. -/
def Obligations.CalibratedValueFollowsItsFormula : Prop :=
  (∀ (x : Int) (sl : Slice) (ofs : Int) (gn : Nat), ∃ r : Int,
      calibrate x sl ofs gn = max (-8388607) (min 8388607 r) ∧
      |256 * (((x : ℚ) - sl.ofsC / 16) * (sl.gnC / 4194304) - ofs / 16) * (gn / 4194304) - r| ≤ 1 / 2 ∧
      (|256 * (((x : ℚ) - sl.ofsC / 16) * (sl.gnC / 4194304) - ofs / 16) * (gn / 4194304) - r| = 1 / 2 →
        |256 * (((x : ℚ) - sl.ofsC / 16) * (sl.gnC / 4194304) - ofs / 16) * (gn / 4194304)| < |(r : ℚ)|)) ∧
    calibrate 31250 Slice.init 0 0x400000 = 8000000 ∧ calibrate (-31250) Slice.init 0 0x400000 = -8000000 ∧
    (∀ (s : State) (chan slice t : Nat) (code : Int) (window : Bool), s.twinned chan = false → slice < 4 →
      s.injected chan t = false →
      (s.convert chan slice t code window).1.get 23 0 =
        toSigned 24 (calibrate (max (-32768) (min 32767 code)) (s.slice (chan / 4) slice) (s.calOf chan).1 (s.calOf chan).2) ∧
      (s.convert chan slice t code window).1.get 29 29 =
        b2n (window || decide (32767 ≤ code) || decide (code ≤ -32768)))

/-- R178, R180, R181: the pass; R211 to R213: assertion, latch resets, MIN_ON. -/
def Obligations.TripChannelsFollowSourcesAndResets : Prop :=
  (∀ (s : State) (freqs : List Nat), s.Inv → s.protOn = true → s.gridOk 125000 = true → s.pe.passAt ≠ s.tai / 125000 + 1 →
      (∃ t, exec (.protectionPass freqs) s = .next t ∧ ∀ w, w ∈ t.staged → protUnit (objUnit w.objid) = false) ∧
      (s.staged = [] →
        ∃ t, exec (.protectionPass freqs) s = .next t ∧ t.pe.passAt = s.tai / 125000 + 1 ∧ t.pe.lastPass = s.elapsed + s.toCommit (s.tai / 125000 * 125000) * 4 / 5 ∧
          t.sb.protSeq = (s.sb.protSeq + 2) % 2 ^ 32 ∧ t.mo.heart = (s.mo.heart + 1) % 256 ∧ t.mo.mode = s.mo.mode ∧
          t.sb.protPass = s.tai / 125000 * 125000 / 1000000000 % 65536 * 65536 + s.tai / 125000 * 125000 % 1000000000 / 125000)) ∧
    (∀ (s : State) (mask : W32), s.Inv → s.protOn = true →
      ∃ t, exec (.latchReset mask) s = .next t ∧
        (∀ c, c < 32 → s.srcState c = true → t.flag TM_TCH_ASSERTED c = true) ∧
        ∀ c, c < 32 → natBit mask.toNat c = true → s.rd TM_TCH_LATCH c = 1 → s.flag TM_TCH_LATCHED c = true →
          s.flag TM_TCH_ASSERTED c = true → (s.tch c).rstPend = false →
          (s.srcState c = false → s.minOnDone c = true →
            t.flag TM_TCH_ASSERTED c = false ∧ t.flag TM_TCH_LATCHED c = false) ∧
          (s.srcState c = false → s.minOnDone c = false → t.flag TM_TCH_ASSERTED c = true ∧ (t.tch c).rstPend = true) ∧
          (s.srcState c = true → t.rd TM_TCH_RSTIGN c = min 255 (s.rd TM_TCH_RSTIGN c + 1))) ∧
    (∀ (s : State) (c : Nat), s.Inv → s.protOn = true → c < 32 → s.flag TM_TCH_ASSERTED c = true → s.minOnDone c = true →
      (s.rd TM_TCH_LATCH c = 0 → s.srcState c = false →
        ∃ t, exec (.minOnExpiry c) s = .next t ∧ t.flag TM_TCH_ASSERTED c = false) ∧
      (s.rd TM_TCH_LATCH c = 1 → (s.tch c).rstPend = true → s.srcState c = false →
        ∃ t, exec (.minOnExpiry c) s = .next t ∧ t.flag TM_TCH_ASSERTED c = false ∧ t.flag TM_TCH_LATCHED c = false) ∧
      (s.rd TM_TCH_LATCH c = 1 → (s.tch c).rstPend = true → s.srcState c = true →
        ∃ t, exec (.minOnExpiry c) s = .next t ∧ t.flag TM_TCH_ASSERTED c = true ∧
          t.rd TM_TCH_RSTIGN c = min 255 (s.rd TM_TCH_RSTIGN c + 1)))

/-- R217, R220, R222 (Table 8.4), R228, R233. -/
def Obligations.BreakersRemoteBitsAndZonesAct : Prop :=
  (∀ (s : State) (n : Nat), s.Inv → s.protOn = true → n < 32 → s.flag TM_BRKST_BF_RUN n = true → (s.handedOver 0).length < 8190 →
      (s.flag TM_BRK_RT_EN n = true → s.flag TM_BRKST_RETRIP n = false →
        (s.brk n).bfAt + usUnits (s.rd TM_BRK_RT_T n) ≤ s.elapsed → s.bfGoes n = true →
        ∃ t, exec (.bfRetripTimer n) s = .next t ∧ t.flag TM_BRKST_RT_SEEN n = true ∧
          ⟨0x1101, 0, s.now, n, 0, 0, false⟩ ∈ t.handedOver 0 ∧
          (s.rd TM_BRK_BF_MODE n = 2 → s.rd TM_BRKST_POS n ≠ 1 → s.flag TM_BRK_BF_NOSEAL n = false →
            t.flag TM_BRKST_RETRIP n = true ∧ t.flag TM_BRKST_BF_RUN n = true)) ∧
      (s.flag TM_BRKST_BACKUP n = false → (s.brk n).bfAt + usUnits (s.rd TM_BRK_BF_T n) ≤ s.elapsed → s.bfGoes n = true →
        ∃ t, exec (.bfBackupTimer n) s = .next t ∧ t.flag TM_BRKST_BF_SEEN n = true ∧
          t.rd TM_BRKST_BFOPS n = (s.rd TM_BRKST_BFOPS n + 1) % 65536 ∧
          ⟨0x1102, 0, s.now, n, s.assertedWord, 0, false⟩ ∈ t.handedOver 0 ∧
          (s.rd TM_BRK_BF_MODE n = 2 → s.rd TM_BRKST_POS n ≠ 1 → s.flag TM_BRK_BF_NOSEAL n = false →
            t.flag TM_BRKST_BACKUP n = true ∧ t.flag TM_BRKST_BF_RUN n = true))) ∧
    (∀ (s : State) (n x : Nat), s.Inv → s.protOn = true → n < 32 → s.flag TM_BRK_EN n = true → s.contactPos n = none →
      (s.brk n).discAt = some x → x + usUnits (1000 * s.rd TM_BRK_DISC_T n) ≤ s.elapsed → s.rd TM_BRKST_POS n ≠ 3 →
      ∃ t, exec (.breakerPosDiscExpiry n) s = .next t ∧ t.rd TM_BRKST_POS n = 3 ∧ t.flag TM_BRKST_DISC_SEEN n = true ∧
        ⟨0x1103, 1⟩ ∈ t.ec.arrivals) ∧
    (∀ (s : State) (src : Nat) (w0 w1 w2 w3 : W32), s.Inv → s.protOn = true →
      ∃ t, exec (.tripFrameReceive src [w0, w1, w2, w3]) s = .next t ∧
        ∀ k, k < 64 → s.flag TM_RX_EN k = true → s.rd TM_RX_DEVID k = src →
          ((s.dev src).mode ≠ 5 → s.linkFailed src = false →
            t.flag TM_RX_VAL k = natBit w1.toNat (s.rd TM_RX_CH k) ∧ t.flag TM_RX_STALE k = false) ∧
          ((s.dev src).mode = 5 → t.flag TM_RX_VAL k = false ∧ t.flag TM_RX_STALE k = false)) ∧
    (∀ (s : State) (k : Nat), s.Inv → s.protOn = true → k < 64 → s.flag TM_RX_EN k = true → s.flag TM_RX_STALE k = false →
      (s.dev (s.rd TM_RX_DEVID k)).mode ≠ 5 →
      (mget (fun _ => 0) s.tm.rxAt (s.rd TM_RX_DEVID k) + usUnits 2000 ≤ s.elapsed + 1 ∨ s.linkFailed (s.rd TM_RX_DEVID k) = true) →
      ∃ t, exec (.remoteBitStale k) s = .next t ∧ t.flag TM_RX_STALE k = true ∧ t.rd TM_RX_VAL k = s.rd TM_RX_SUBST k ∧
        ⟨0x1104, 2⟩ ∈ t.ec.arrivals) ∧
    (∀ s : State, s.Inv → s.protOn = true → s.flag RB_CFG_EN 0 = true → s.tm.tx.time + usUnits 500 ≤ s.elapsed →
      ∃ t, exec .protectionMessageRepeat s = .next t ∧ t.tm.tx.words.take 2 = [s.tripMask, s.tripState] ∧
        t.tm.tx.time = s.elapsed ∧ t.tm.tx.count = s.tm.tx.count + 1) ∧
    (∀ (s : State) (src z : Nat) (words : List W32), s.Inv → s.protOn = true → s.var = .cpx9640 →
      (List.range 8).find? (fun z => s.flag TM_ZONE_EN z && s.rd TM_ZONE_ZID z == (words.getD 0 0).get 31 16) = some z →
      ∃ t, exec (.zoneFrameReceive src words) s = .next t ∧
        t.zmember z src = some ⟨(words.getD 1 0).toNat, (words.getD 0 0).get 15 15 == 1, (words.getD 0 0).get 14 13,
          (words.getD 0 0).get 12 0, s.elapsed + 1⟩) ∧
    (∀ (s : State) (z k stamp : Nat), s.Inv → s.protOn = true → z < 8 → k < 64 → s.flag TM_ZONE_EN z = true →
      s.rdk TM_ZONE_SLOT_EN z k = 1 → s.rdk TM_ZONE_DEVID z k ≠ s.localDev → s.zoneDeadline z stamp ≤ s.tai →
      (∀ x, x ∈ (s.fcChan (remoteChan z k 0)).fine → x.t ≠ stamp) → (∀ m, m ∈ (s.fcChan (remoteChan z k 0)).fineMarks → m.a ≠ stamp) →
      ∃ t, exec (.zoneSampleDeadline z k stamp) s = .next t ∧ t.rd TM_ZSTAT_GAPS z = min 0xFFFFFFFF (s.rd TM_ZSTAT_GAPS z + 1)) ∧
    (∀ (s : State) (z x : Nat), s.Inv → s.protOn = true → z < 8 → z ∈ s.zones → s.rd TM_ZSTAT_CAUSE z = 0 → s.flag TM_ZSTAT_BLK z = true →
      (s.zoneSt z).clearAt = some x → x + s.zoneRec z ≤ s.passElapsed → (s.handedOver 0).length < 8192 →
      ∃ t, exec (.zoneRecoveryExpiry z) s = .next t ∧ t.flag TM_ZSTAT_BLK z = false ∧
        ⟨0x1107, 0, s.now, z, (s.elapsed - (s.zoneSt z).blkAt) / 800 % 2 ^ 32, 0, false⟩ ∈ t.handedOver 0)

/-- R240, R247, R251, R257, R260, R263, R265, R268. -/
def Obligations.LoopCommandsSwapsOverrunsAndLanes : Prop :=
  (∀ (s : State) (ring idx : Nat) (c : Cmd), s.Inv → s.controlMapsOk = true → s.Ready ring idx c → c.Plain opLoopState 4 →
      s.leAbsentOf c = none → objGrp c.objid = 1 → s.inMode modesCrs = true →
      (s.mo.mode = .safe → (c.par 0).toNat = 3) →
      (objUnit c.objid = 0x18 → objInst c.objid < 1024 → (c.par 0).toNat ∈ [1, 2, 3, 4] →
        s.loopState (objInst c.objid) ≠ 0 → s.loopState (objInst c.objid) ≠ 6 →
        ∃ t, exec (.loopState ring idx) s = .next t ∧ t.Awaits c ∧ t.regs = s.regs ∧
          (t.loop (objInst c.objid)).req = some ((c.par 0).toNat, c.ref)) ∧
      (objUnit c.objid = 0x19 → objInst c.objid < 128 → (c.par 0).toNat ∈ [1, 3, 5] → s.flag AX_AXIS_EN (objInst c.objid) = true →
        ∃ t, exec (.loopState ring idx) s = .next t ∧ t.Awaits c ∧ t.regs = s.regs ∧
          (t.axis (objInst c.objid)).req = some ((c.par 0).toNat, c.ref))) ∧
    (∀ (s : State) (ring idx : Nat) (c : Cmd), s.Inv → s.controlMapsOk = true → s.Ready ring idx c → c.Plain opAutotune 4 →
      s.leAbsentOf c = none → tuneBad c = false → s.tuneMode (objInst c.objid) = true →
      (c.tuneOp = 1 → s.rd LE_TUNE_RULE (objInst c.objid) ≤ 5 →
        (s.loopState (objInst c.objid) = 1 ∨ s.loopState (objInst c.objid) = 2) → s.actBank (objInst c.objid) = 0 →
        (s.loop (objInst c.objid)).swap = none → (s.loopIn (objInst c.objid)).bad = false →
        ∃ t r, exec (.autotuneStart ring idx) s = .next t ∧ t.Outcome c .ok 0 0 0 0 (some s.now) ∧
          t.loopState (objInst c.objid) = 6 ∧ (t.loop (objInst c.objid)).tune = some r ∧
          r.u0 = (s.loop (objInst c.objid)).law.u ∧ r.startAt = s.elapsed) ∧
      (c.tuneOp = 2 → ∀ r, (s.loop (objInst c.objid)).tune = some r →
        ∃ t, exec (.autotuneStop ring idx) s = .next t ∧ t.Outcome c .ok 0 0 0 0 (some s.now) ∧
          t.loopState (objInst c.objid) = 1 ∧ t.rd LE_TUNE_RES (objInst c.objid) = 2 ∧ t.rd LE_TUNE_CAUSE (objInst c.objid) = 5 ∧
          (t.loop (objInst c.objid)).tune = none ∧ (t.loop (objInst c.objid)).goal = some r.u0)) ∧
    (∀ (s : State) (n : Nat) (r : TuneRun), s.Inv → s.controlMapsOk = true → n < 1024 → s.leOn = true → (s.loop n).tune = some r →
      r.startAt + s.rd LE_TUNE_TMAX n * unitsPerSec ≤ s.elapsed →
      ∃ t, exec (.autotuneTmaxExpiry n) s = .next t ∧ t.loopState n = 1 ∧ t.rd LE_TUNE_RES n = 2 ∧ t.rd LE_TUNE_CAUSE n = 2 ∧
        (t.loop n).tune = none ∧ (t.loop n).goal = some r.u0) ∧
    (∀ (s : State) (ring idx : Nat) (c : Cmd), s.Inv → s.controlMapsOk = true → s.Ready ring idx c → c.Plain opTableCapture 4 →
      s.leAbsentOf c = none → objUnit c.objid = 0x19 → objGrp c.objid = 1 → objInst c.objid < 128 →
      finite f32 (c.par 0).toNat = true → flt f32 0 (c.par 0).toNat = true → s.authorized c = true → s.inMode modesC = true →
      s.axisState (objInst c.objid) = 1 → s.flag AX_AXIS_VLOOP (objInst c.objid) = true →
      ∃ t r, exec (.tableCapture ring idx) s = .next t ∧ t.Awaits c ∧ t.axisState (objInst c.objid) = 6 ∧
        (t.axis (objInst c.objid)).cap = some r ∧ r.cmd = c.ref ∧ r.capV = (c.par 0).toNat ∧ r.leg = 0 ∧
        r.start = (s.axis (objInst c.objid)).rPos) ∧
    (∀ (s : State) (n : Nat) (w : LoopSwap) (c : Cmd), s.Inv → s.controlMapsOk = true → n < 1024 → s.leOn = true →
      s.leSwaps = [(n, w)] → w.tb ≤ s.tai → w.bank < 2 → w.grp = 0 → c.ref = w.cmd → s.findCmd c.ring c.order = some c →
      c.undecided = true →
      ∃ t, exec .leSwapInstant s = .next t ∧ t.actBank n = w.bank ∧ (t.loop n).swap = none ∧ t.flag LE_STAT_SWAP_PEND n = false ∧
        t.Outcome c .ok 0 0 0 0 (some (Stamp.ofTai w.tb))) ∧
    (∀ (s : State) (n : Nat), s.Inv → s.controlMapsOk = true → s.leOn = true →
      (n < 1024 → (s.loop n).flying = true → (s.loop n).overran = false →
        (s.loop n).at_ + periodNs (s.rd LE_LOOP_RATE n) ≤ s.tai →
        ∃ t, exec (.loopOverrun false n) s = .next t ∧ (t.loop n).next = (s.loop n).out ∧ (t.loop n).law = (s.loop n).old ∧
          t.flag LE_STAT_REPEAT n = true ∧ t.rd LE_STAT_OVRUN n = min 0xFFFFFFFF (s.rd LE_STAT_OVRUN n + 1) ∧
          ⟨0x1807, if (s.loop n).overruns = 2 then 2 else 1⟩ ∈ t.ec.arrivals) ∧
      (n < 128 → (s.axis n).flying = true → (s.axis n).overran = false → (s.axis n).at_ + periodNs (s.rd AX_AXIS_RATE n) ≤ s.tai →
        ∃ t, exec (.loopOverrun true n) s = .next t ∧ (t.axis n).overran = true ∧ t.flag AX_STAT_REPEAT n = true ∧
          (t.axis n).next = (mget (fun _ => (AxisSt.init, 0)) s.le.axOld n).1.u ∧
          ((mget (fun _ => (AxisSt.init, 0)) s.le.axOld n).2 = s.axisState n →
            (t.axis n).u = (mget (fun _ => (AxisSt.init, 0)) s.le.axOld n).1.u ∧
            (t.axis n).rPos = (mget (fun _ => (AxisSt.init, 0)) s.le.axOld n).1.rPos))) ∧
    (∀ (s : State) (lane : Nat) (lost : Bool), s.Inv → s.umOn = true → lane < 4 → s.var ≠ .cpx9616 → lane ∉ s.le.lanes →
      ∃ t, exec (.loopLaneFailure lane lost) s = .next t ∧ t.le.lanes = lane :: s.le.lanes ∧ ⟨0x1803, 2⟩ ∈ t.ec.arrivals ∧
        (s.liveLanes = [lane] → ⟨0x1880, 4⟩ ∈ t.ec.arrivals))

/-- R238 to R244 (samples), R261, R263 (axes), R266 (encoders), R267 (PWM). -/
def Obligations.LoopsAxesEncodersAndPwmAct : Prop :=
  (∀ (s : State) (n : Nat), s.Inv → s.controlMapsOk = true → n < 1024 → s.leOn = true → s.gridOk 10000 = true → s.staged = [] →
      s.le.loopAt ≠ s.tai / 10000 + 1 → s.loopsAt (s.tai / 10000 * 10000) = [n] → s.flag LE_LOOP_EN n = true →
      s.flag LE_LOOP_CTL_EN n = false → (s.loop n).req = none →
      (s.loopState n = 1 → (s.loop n).flying = false → (s.loop n).goal = none →
        ∃ t, exec .loopSample s = .next t ∧ t.le.loopAt = s.tai / 10000 + 1 ∧ (t.loop n).law = (s.loop n).law ∧
          (t.loop n).next = fadd f32 (fmul f32 (s.rd LE_LOOP_OUT_GAIN n) (s.loop n).law.u) (s.rd LE_LOOP_OUT_OFS n) ∧
          (t.loop n).flying = true ∧ (t.loop n).at_ = s.tai / 10000 * 10000 ∧ t.loopState n = 1 ∧
          t.rd LE_STAT_U n = (s.loop n).law.u % 2 ^ 32) ∧
      (s.loopState n = 4 → (s.loop n).flying = false → (s.loop n).frozen = false → (s.loop n).entry = false →
        (s.loop n).absorb = none → s.flag LE_LOOP_ACT n = false → s.rd LE_LOOP_FE_LIMIT n = 0 →
        (s.loopIn n).bad = false → (s.loopIn n).rBad = false → (s.loopIn n).ffBad = false →
        ∃ t, exec .loopSample s = .next t ∧ (t.loop n).law =
            (lawStep (s.bk n (s.actBank n)) (s.rd LE_LOOP_RATE n) (s.rd LE_LOOP_NOTCH n) (s.loopIn n).r (s.loopIn n).y
              (s.loopIn n).ff false none (s.rd LE_LOOP_LAW n == 1) (s.loop n).law).st ∧
          (t.loop n).next = s.loopDest n (t.loop n).law.u ∧ t.loopState n = 4 ∧ t.flag LE_STAT_INBAD n = false) ∧
      (s.loopState n = 1 → (s.loop n).flying = true → s.rd LE_LOOP_OUT_DST n / 2 ^ 28 = 0xA →
        ∃ t, exec .loopSample s = .next t ∧ mget (fun _ => 0) t.le.duty (s.rd LE_LOOP_OUT_DST n % 16) = (s.loop n).next ∧
          (t.loop n).out = (s.loop n).next)) ∧
    (∀ (s : State) (n : Nat), s.Inv → s.controlMapsOk = true → n < 128 → s.leOn = true → s.gridOk 10000 = true → s.staged = [] →
      s.le.axisAt ≠ s.tai / 10000 + 1 → s.axesAt (s.tai / 10000 * 10000) = [n] → s.flag AX_AXIS_EN n = true → natBit (s.rd AX_AXIS_CTL n) 31 = false → (s.axis n).req = none → (s.axis n).flying = false →
      s.axisState n = 1 → (s.axis n).cap = none →
      ((s.axisPos n).2 = true →
        ∃ t, exec .axisSample s = .next t ∧ t.le.axisAt = s.tai / 10000 + 1 ∧ t.flag AX_STAT_INBAD n = true ∧
          (t.axis n).flying = true ∧ (t.axis n).at_ = s.tai / 10000 * 10000 ∧ (t.axis n).pos = (s.axis n).pos ∧
          (s.rd AX_AXIS_BAD_ACT n = 0 → t.axisState n = 1 ∧ (t.axis n).frozen = true ∧ (t.axis n).next = (s.axis n).u) ∧
          (s.rd AX_AXIS_BAD_ACT n ≠ 0 → t.axisState n = 5 ∧ (t.axis n).next = s.rd AX_AXIS_SAFE_OUT n)) ∧
      (∀ p v : Nat, (s.axisPos n).2 = false → (s.axisPos n).1.pos = p → s.axisVel n (s.axis n).pos p = (v, false) →
        finite f64 p = true → finite f32 v = true → (s.axis n).frozen = false → s.rd AX_AXIS_FE_LIMIT n = 0 →
        (s.axis n).target = toF64 (s.ptType (s.rd AX_AXIS_TGT_PT n)) (s.ptRec (s.rd AX_AXIS_TGT_PT n)).raw →
        ∃ t, exec .axisSample s = .next t ∧ t.le.axisAt = s.tai / 10000 + 1 ∧ t.flag AX_STAT_INBAD n = false ∧
          t.axisState n = 1 ∧ (t.axis n).pos = p ∧ (t.axis n).vel = v ∧ (t.axis n).rPos = (s.axis n).rPos ∧
          (t.axis n).flying = true ∧ (t.axis n).at_ = s.tai / 10000 * 10000 ∧ (t.axis n).next = (t.axis n).u ∧
          t.rdk AX_STAT_POS n 0 = p % 2 ^ 32 ∧
          (s.flag AX_AXIS_VLOOP n = false →
            (t.axis n).u = fmin f32 (fmax f32 (fadd f32
              (fmul f32 (s.rd AX_AXIS_KPP n) (toW (fsub f64 (s.axis n).rPos p)))
              (fmul f32 (s.rd AX_AXIS_KVFF n) (toW (s.axis n).vRef))) (s.rd AX_AXIS_UMIN n)) (s.rd AX_AXIS_UMAX n)))) ∧
    (∀ (s : State) (e : Nat) (error warn : Bool) (crc : Nat), s.Inv → e < 16 → s.leOn = true → s.var ≠ .cpx9616 →
      s.flag AX_ENC_EN e = true → s.rd AX_ENC_MODE e ≠ 0 →
      (∃ t, exec (.encoderTransfer e none error warn crc) s = .next t ∧ t.flag AX_ENC_LATE e = true ∧ t.flag AX_ENC_ERR e = false ∧
        t.rd AX_ENC_ERRS e = min 0xFFFF (s.rd AX_ENC_ERRS e + 1) ∧ t.rd AX_ENC_COUNT e = s.rd AX_ENC_COUNT e) ∧
      (∀ d, ∃ t, exec (.encoderTransfer e (some d) error warn crc) s = .next t ∧ t.flag AX_ENC_LATE e = false ∧
        (s.rd AX_ENC_MODE e = 2 → t.rd AX_ENC_COUNT e = grayToBin (s.rd AX_ENC_BITS e) (d % 2 ^ s.rd AX_ENC_BITS e) % 2 ^ 32) ∧
        (s.rd AX_ENC_MODE e ≠ 2 → t.rd AX_ENC_COUNT e = d % 2 ^ s.rd AX_ENC_BITS e % 2 ^ 32) ∧
        (s.rd AX_ENC_MODE e = 3 → t.flag AX_ENC_WARN e = !warn ∧
          t.flag AX_ENC_ERR e = (!error || crc % 64 != 63 - crc6 (s.rd AX_ENC_BITS e + 2)
            (d % 2 ^ s.rd AX_ENC_BITS e * 4 + b2n error * 2 + b2n warn))))) ∧
    (∀ (s : State) (e : Nat) (a b z : Bool), s.Inv → e < 16 → s.leOn = true → s.var ≠ .cpx9616 → s.flag AX_ENC_EN e = true →
      s.rd AX_ENC_MODE e = 0 → (s.enc e).edgeAt = 0 →
      ((s.enc e).a ≠ a → (s.enc e).b = b →
        ∃ t, exec (.encoderEdge e a b z) s = .next t ∧
          t.rd AX_ENC_COUNT e = (s.rd AX_ENC_COUNT e + if a = b then 2 ^ 32 - 1 else 1) % 2 ^ 32) ∧
      ((s.enc e).a = a → (s.enc e).b ≠ b →
        ∃ t, exec (.encoderEdge e a b z) s = .next t ∧
          t.rd AX_ENC_COUNT e = (s.rd AX_ENC_COUNT e + if a = b then 1 else 2 ^ 32 - 1) % 2 ^ 32) ∧
      ((s.enc e).a ≠ a → (s.enc e).b ≠ b →
        ∃ t, exec (.encoderEdge e a b z) s = .next t ∧ t.flag AX_ENC_ERR e = true ∧
          t.rd AX_ENC_ERRS e = min 0xFFFF (s.rd AX_ENC_ERRS e + 1) ∧ t.rd AX_ENC_COUNT e = s.rd AX_ENC_COUNT e) ∧
      ((s.enc e).z = false → z = true →
        ∃ t, exec (.encoderEdge e a b z) s = .next t ∧ t.flag AX_ENC_ZSEEN e = true ∧
          t.rd AX_ENC_ZPOS e = t.rd AX_ENC_COUNT e)) ∧
    (∀ (s : State) (p : Nat), s.Inv → s.controlMapsOk = true → p < 16 → s.pwmOn p = true →
      s.gridOk (s.rd AX_PWM_PERIOD p * 5 / 4) = true →
      mget (fun _ => 0) s.le.pwmAt p ≠ s.tai * 4 / 5 / s.rd AX_PWM_PERIOD p + 1 →
      ∃ t, exec (.pwmPeriodStart p) s = .next t ∧
        t.rd AX_PWM_DUTY p = pwmHigh (mget (fun _ => 0) s.le.duty p) (s.rd AX_PWM_PERIOD p) % 2 ^ 32 ∧
        ∀ k, k < s.byVar 16 8 4 → s.trigCore k = true → s.rd AF_CORE_TRIG k = 16 + p →
          (k, edgeNs (s.tai * 4 / 5 / s.rd AX_PWM_PERIOD p * s.rd AX_PWM_PERIOD p * 10 +
            (if s.rd AF_CORE_TRIG_CTR k = 1 then s.rd AX_PWM_PERIOD p / 2 * 10 else 0)) (s.rd AF_CORE_DELAY k)) ∈ t.af.trigs)

/-- R308, R310 to R313, R316 (Bullpen); R318, R320, R322 (Umpire). -/
def Obligations.LogicImagesSwitchAndDemandsResolve : Prop :=
  (∀ (s : State) (ring idx : Nat) (im : LogicImage) (sig : Bool) (c : Cmd), s.Inv → s.Ready ring idx c →
      c.WithBuffer opBullpenLoad 0 0 → c.objid = bullpenObj → s.inMode modesTrain = true → s.bufReach c = true →
      (s.imgFault im c.bufLen sig = none →
        ∃ t, exec (.bullpenLoad ring idx (some im) sig) s = .next t ∧ t.lg.bullpen = some im ∧ t.lg.active = s.lg.active ∧
          t.lg.m = s.lg.m ∧ t.rd LG_BULLPEN_STATE 0 = 2 ∧ t.rd LG_BULLPEN_CRC 0 = im.crc % 2 ^ 32 ∧
          t.Outcome c .ok 0 0 0 0 (some s.now)) ∧
      (∀ st r0, s.imgFault im c.bufLen sig = some (st, r0, false) →
        ∃ t, exec (.bullpenLoad ring idx (some im) sig) s = .next t ∧ t.lg.bullpen = none ∧ t.lg.active = s.lg.active ∧
          t.lg.m = s.lg.m ∧ t.rd LG_BULLPEN_STATE 0 = 0 ∧ t.Outcome c st r0 0 0 0 none)) ∧
    (∀ (s : State) (ring idx : Nat) (c : Cmd), s.Inv → s.Ready ring idx c → c.objid = bullpenObj → s.authorized c = true →
      s.inMode modesCr = true →
      (c.Plain opBullpenSwitch 4 → s.rd LG_BULLPEN_STATE 0 = 2 →
        ((c.par 0).toNat = s.rd LG_BULLPEN_CRC 0 →
          ∃ t, exec (.bullpenSwitch ring idx) s = .next t ∧ t.lg.switch = some ⟨c.ref, false, s.elapsed⟩ ∧
            t.rd LG_BULLPEN_STATE 0 = 3 ∧ t.lg.active = s.lg.active ∧ t.Awaits c) ∧
        ((c.par 0).toNat ≠ s.rd LG_BULLPEN_CRC 0 →
          ∃ t, exec (.bullpenSwitch ring idx) s = .next t ∧ t.lg = s.lg ∧ t.regs = s.regs ∧
            t.Outcome c .badObject 0x20000005 0 0 0 none)) ∧
      (c.Plain opBullpenRollback 0 → s.rd LG_BULLPEN_STATE 0 = 4 →
        ∃ t, exec (.bullpenRollback ring idx) s = .next t ∧ t.lg.switch = some ⟨c.ref, true, s.elapsed⟩ ∧
          t.rd LG_BULLPEN_STATE 0 = 3 ∧ t.lg.active = s.lg.active ∧ t.Awaits c)) ∧
    (∀ (s : State) (x : LgSwitch) (new old : LogicImage) (c : Cmd), s.Inv → s.umOn = true → s.lg.switch = some x →
      s.lg.bullpen = some new → s.lg.active = some old → (∀ n, n ∈ s.lgTasks → (s.lgTask n).open_ = none) →
      mapOk (fun _ => 0) s.lg.m = true → x.cmd = c.ref → s.findCmd c.ring c.order = some c → c.undecided = true →
      ∃ t, exec .bullpenSwap s = .next t ∧ t.lg.active = some new ∧ t.lg.bullpen = some old ∧ t.lg.committed = some new ∧
        t.lg.switch = none ∧ t.rd LG_BULLPEN_STATE 0 = 4 ∧ t.Outcome c .ok 0 0 0 0 (some s.now) ∧
        (∀ w, (∀ r, r ∈ new.insts → ∀ k, k < instSize r / 4 → instAddr r / 4 + k ≠ w) →
          mget (fun _ => 0) t.lg.m w = mget (fun _ => 0) s.lg.m w) ∧
        (∀ r o k, new.insts = [r] → carriedFrom old.insts r = some o → instKind r ≠ 3 → k < instSize r / 4 →
          mget (fun _ => 0) t.lg.m (instAddr r / 4 + k) =
            if 4 * k < instSize o then mget (fun _ => 0) s.lg.m (instAddr o / 4 + k) else 0)) ∧
    (∀ (s : State) (x : LgSwitch) (n : Nat) (c : Cmd), s.Inv → s.umOn = true → s.lg.switch = some x →
      x.since + usUnits (s.rd LG_BULLPEN_SW_WAIT 0) ≤ s.elapsed → n ∈ s.lgTasks → (s.lgTask n).open_ ≠ none →
      x.cmd = c.ref → s.findCmd c.ring c.order = some c → c.undecided = true →
      ∃ t, exec .bullpenSwWaitExpiry s = .next t ∧ t.lg.switch = none ∧ t.lg.active = s.lg.active ∧ t.lg.m = s.lg.m ∧
        t.rd LG_BULLPEN_STATE 0 = (if x.rollback then 4 else 2) ∧ t.Outcome c .busyRetry 0 0 0 0 none) ∧
    (∀ (s : State), s.Inv → s.umOn = true → s.gridOk 1000 = true → s.um.roundAt ≠ s.tai / 1000 → s.cs.cut = false →
      s.um.stand = [] → s.rp.out = [] →
      (∀ w d c, s.um.writes = [w] → w.gone = false → w.bad = false → w.tag = none → w.lane = none → w.cmd = some c.ref →
        s.pd.writes = [⟨c.ref, 1, false, 0, 0, 0, none⟩] → s.findCmd c.ring c.order = some c → c.undecided = true →
        s.ptDef w.index = some d → d.bind = 0 → s.engineOwner w.index = none → 0 < w.rank →
        ∃ t, exec .umpireRound s = .next t ∧ t.um.roundAt = s.tai / 1000 ∧ t.um.writes = [] ∧
          (t.ptRec w.index).raw = w.raw ∧ (t.ptRec w.index).owner = w.rank * 16 + w.src ∧
          t.Outcome c .ok 0 0 0 0 (some (Stamp.ofTai (s.tai / 1000 * 1000)))) ∧
      (s.um.writes = [] →
        ∃ t, exec .umpireRound s = .next t ∧ t.um.roundAt = s.tai / 1000 ∧ t.pd.recs = s.pd.recs ∧
          ∀ n o v, n < 24 → s.rd FD_DO_MODE n ≠ 1 → s.doDemand n = some (o, v) →
            t.flag UM_OWN_VALUE n = v ∧ t.rd UM_OWN_OWNER n = o))

/-- R288, R290, R293 to R295, R299, R300; the machine runs a task at its snapshot (log entry 39). -/
def Obligations.TasksCycleAndCoresFail : Prop :=
  (∀ (s : State) (n : Nat), s.Inv → n < 64 → s.lgOn = true → s.lgFree = true → s.taskReady n = true → s.coreFree n = true →
      (∀ o, (((s.cycleTime n).busyTo (s.rd LG_TASK_HOME n)).execTask n none).2 = o →
        ((∀ k i, o.ended ≠ .fault k i) →
          ∃ t, exec (.logicCycleSnapshot n) s = .next t ∧ (t.lgTask n).open_ = some o ∧ o.snapAt = s.elapsed ∧
            t.lg.m = (((s.cycleTime n).busyTo (s.rd LG_TASK_HOME n)).execTask n none).1.lg.m ∧ t.lg.q = s.lg.q ∧ t.um.q = s.um.q) ∧
        (∀ k i, o.ended = .fault k i → (s.lgTask n).fails = 0 →
          ∃ t, exec (.logicCycleSnapshot n) s = .next t ∧ (t.lgTask n).open_ = none ∧ (t.lgTask n).fails = 1 ∧
            t.rd LG_TSTAT_ABANDON n = min 0xFFFF (s.rd LG_TSTAT_ABANDON n + 1) ∧ ⟨0x2001, 2⟩ ∈ t.ec.arrivals ∧
            t.lg.q = s.lg.q ∧ t.um.q = s.um.q))) ∧
    (∀ (s : State) (n : Nat) (o : LgOpen), s.Inv → n < 64 → (s.lgTask n).open_ = some o → s.lgEnds = true → s.mo.pend = none →
      s.mo.firstWrite = false → mapOk (fun _ => 0) s.lg.q = true → mapOk (fun _ => LgTask.init) s.lg.tasks = true →
      (o.ended = .done → s.notPreempted n = true → o.p = [] → ∀ b v, s.owned n = [(b, v)] → b < 0x1000 → s.qStation b = none →
        ∃ t, exec (.logicOutputWrite n) s = .next t ∧ (t.lgTask n).open_ = none ∧ (t.lgTask n).fails = 0 ∧
          t.rdk LG_TSTAT_CYCLE n 0 = (s.rdk LG_TSTAT_CYCLE n 0 + 1) % 2 ^ 32 ∧
          (∀ x, mget (fun _ => none) o.q b = some x → mget (fun _ => none) t.um.q b = some (x % 256) ∧
            mget (fun _ => 0) t.lg.q b = x)) ∧
      (s.errorTask ≠ some n → o.snapAt + usUnits o.wdt ≤ s.elapsed →
        ∃ t, exec (.cycleWatchdogExpiry n) s = .next t ∧ (t.lgTask n).open_ = none ∧
          t.rd LG_TSTAT_ABANDON n = min 0xFFFF (s.rd LG_TSTAT_ABANDON n + 1) ∧ (t.lgTask n).fails = (s.lgTask n).fails + 1 ∧
          ⟨0x2001, 2⟩ ∈ t.ec.arrivals ∧
          ((s.lgTask n).fails ≠ 0 → t.flag LG_TASK_STOPPED n = true ∧ ⟨0x2002, 3⟩ ∈ t.ec.arrivals))) ∧
    (∀ (s : State) (n : Nat), s.Inv → n < 64 → s.umOn = true → s.lg.running = true → s.flag LG_TASK_EN n = true →
      s.rd LG_TASK_KIND n = 1 → s.flag LG_TASK_STOPPED n = false → s.trigDue n = true →
      ((s.lgTask n).pend = false → (s.lgTask n).open_ = none →
        ∃ t, exec (.eventTaskTrigger n) s = .next t ∧ (t.lgTask n).pend = true ∧ t.regs = s.regs) ∧
      (((s.lgTask n).pend = true ∨ (s.lgTask n).open_ ≠ none) → (s.lgTask n).latched = false →
        ∃ t, exec (.eventTaskTrigger n) s = .next t ∧ (t.lgTask n).latched = true ∧ t.regs = s.regs) ∧
      (((s.lgTask n).pend = true ∨ (s.lgTask n).open_ ≠ none) → (s.lgTask n).latched = true →
        ∃ t, exec (.eventTaskTrigger n) s = .next t ∧ (t.lgTask n).latched = true ∧
          t.rd LG_TSTAT_EVT_LOST n = min 0xFFFF (s.rd LG_TSTAT_EVT_LOST n + 1))) ∧
    (∀ (s : State) (core n : Nat) (c : LgCause) (rest : List LgCause), s.Inv → s.errorTask = some n → s.lgOn = true →
      s.lgFree = true → core < s.nCore → s.coreFailed core = false → s.flag LG_TASK_STOPPED n = false → s.mo.pend = none →
      s.mo.firstWrite = false → s.causes core = c :: rest → mapOk (fun _ => []) s.lg.causes = true →
      ∃ t, exec (.errorTaskRun core) s = .next t ∧ t.causes core = rest ∧ (t.lgTask n).open_ = none) ∧
    (∀ (s : State) (core cause : Nat), s.Inv → s.umOn = true → core < s.nCore → s.coreFailed core = false →
      (s.liveCores ≠ [core] →
        ∃ t, exec (.logicCoreFailure core cause) s = .next t ∧ t.rd LG_CORE_STATE core = 2 ∧
          t.rd LG_CORE_FCAUSE core = cause % 256 ∧ ⟨0x2003, 2⟩ ∈ t.ec.arrivals ∧
          ∀ n, n ∈ s.homed core → t.rd LG_TASK_HOME n ≠ core ∧ t.rd LG_TASK_HOME n ∈ s.liveCores) ∧
      (s.liveCores = [core] →
        ∃ t, exec (.logicCoreFailure core cause) s = .next t ∧ t.rd LG_CORE_STATE core = 2 ∧ t.lg.running = false ∧
          ⟨0x2003, 4⟩ ∈ t.ec.arrivals))

/-- R332, R333 (scan), R337 (commands), R338 (mirrors), R339 (remote points), R340 (forces), R479 (frames). -/
def Obligations.PointCommandsForcesAndRemoteTrafficAct : Prop :=
  (∀ (s : State) (ring idx : Nat) (c : Cmd) (d : PtDef), s.Inv → s.Ready ring idx c → s.inMode modesTrain = true → c.objid = pdObj →
      c.remote = false → c.p0Bad = false → (c.par 1).get 31 23 = 0 → s.ptDef c.ptIndex = some d →
      (c.Plain opPointRead 8 →
        (∀ ok, ∃ t, exec (.pointRead ring idx ok none) s = .next t ∧ t.pd = s.pd ∧
          t.Outcome c .ok ((s.ptRec c.ptIndex).raw % 2 ^ 32) ((s.ptRec c.ptIndex).raw / 2 ^ 32 % 2 ^ 32)
            (ptWord2 d (s.ptRec c.ptIndex)) ((s.ptRec c.ptIndex).ctime % 2 ^ 32) none) ∧
        (∀ ok b a, sdRead b = .uncorrectable a → s.ptPinned c.ptIndex = false →
          ∃ t, exec (.pointRead ring idx ok (some (c.ptIndex, b))) s = .next t ∧ (t.ptRec c.ptIndex).raw = 0 ∧
            (t.ptRec c.ptIndex).bad = true ∧ t.pd.memErrs = min (s.pd.memErrs + 1) (2 ^ 32 - 1) ∧ ⟨0x2202, 2⟩ ∈ t.ec.arrivals ∧
            t.Outcome c .ok 0 0 (ptWord2 d (t.ptRec c.ptIndex)) ((t.ptRec c.ptIndex).ctime % 2 ^ 32) none)) ∧
      (c.Plain opPointWrite 16 → d.bind ≠ 7 → rawOk d.type c.rawPar = true →
        ∃ t, exec (.pointWrite ring idx none) s = .next t ∧ t.Awaits c ∧ t.pd.recs = s.pd.recs ∧
          ⟨c.ptIndex, c.rawPar, false, (s.masterRank c.master).1, (s.masterRank c.master).2, 0, some c.ref, 0, none, none, false⟩
            ∈ t.um.writes)) ∧
    (∀ (s : State) (ring idx : Nat) (c : Cmd), s.Inv → s.pointMapsOk = true → s.Ready ring idx c → s.authorized c = true →
      s.inMode modesC = true →
      (∀ d, c.objid = pdObj → c.remote = false → c.p0Bad = false → (c.par 1).get 31 23 = 0 → s.ptDef c.ptIndex = some d →
        (c.Plain opForceSet 16 → s.forceBad c.ptIndex c.rawPar = false → s.forceRefused c.ptIndex = none →
          ((d.bind = 0 ∨ d.bind = 8 ∨ d.bind = 9) →
            ∃ t, exec (.forceSet ring idx) s = .next t ∧ t.standOf c.ptIndex 7 = some ⟨c.rawPar, s.tai⟩ ∧
              t.Outcome c .ok 0 0 0 0 (some s.now)) ∧
          ((d.bind = 1 ∨ d.bind = 2 ∨ d.bind = 6) →
            ∃ t, exec (.forceSet ring idx) s = .next t ∧ (t.ptRec c.ptIndex).raw = c.rawPar ∧ (t.ptRec c.ptIndex).owner = 0xF0 ∧
              mget (fun _ => none) t.pd.forces c.ptIndex = some c.rawPar ∧ t.Outcome c .ok 0 0 0 0 (some s.now))) ∧
        (c.Plain opForceClear 8 → (c.par 0).toNat = 0 → c.ptIndex ∉ s.forced →
          ∃ t, exec (.forceClear ring idx) s = .next t ∧ t.pd = s.pd ∧ t.um = s.um ∧ t.Outcome c .ok 0 0 0 0 none) ∧
        (c.Plain opForceClear 8 → (c.par 0).toNat = 0 → c.ptIndex ∈ s.forced →
          ∃ t, exec (.forceClear ring idx) s = .next t ∧ t.standOf c.ptIndex 7 = none ∧
            mget (fun _ => none) t.pd.forces c.ptIndex = none ∧ (t.ptRec c.ptIndex).raw = (s.ptRec c.ptIndex).raw ∧
            natBit (t.ptRec c.ptIndex).qual 9 = false ∧ t.Outcome c .ok 0 0 0 0 (some s.now))) ∧
      (∀ n, objUnit c.objid = 0x38 → objGrp c.objid = 0x10 → objInst c.objid = n → n < 48 →
        (c.Plain opForceSet 4 → (c.par 0).toNat ≤ 1 →
          ∃ t, exec (.forceSet ring idx) s = .next t ∧ t.diVal n = ((c.par 0).toNat == 1) ∧ t.diValid n = true ∧
            t.flag FD_DI_FORCED n = true ∧ t.Outcome c .ok 0 0 0 0 (some s.now)) ∧
        (c.Plain opForceClear 0 → s.diForce n ≠ none →
          ∃ t, exec (.forceClear ring idx) s = .next t ∧ t.diVal n = s.flag FD_DI_VAL n ∧ t.flag FD_DI_FORCED n = false ∧
            t.Outcome c .ok 0 0 0 0 (some s.now)) ∧
        (c.Plain opForceClear 0 → s.diForce n = none →
          ∃ t, exec (.forceClear ring idx) s = .next t ∧ t.fd = s.fd ∧ t.regs = s.regs ∧ t.Outcome c .ok 0 0 0 0 none))) ∧
    (∀ (s : State) (k i : Nat) (d : PtDef), s.Inv → s.pointMapsOk = true → s.scanOn = true → k < 16 →
      s.gridOk (scanPeriod (s.rd PD_SCAN_PERIOD k)) = true →
      mget (fun _ => 0) s.pd.scanAt k ≠ s.tai / scanPeriod (s.rd PD_SCAN_PERIOD k) + 1 → s.ptsOf 1 = [(i, d)] → s.ptsOf 2 = [] →
      s.ptDef i = some d → d.bind = 1 → d.scan = k → mget (fun _ => none) s.pd.forces i = none →
      s.pd.scanFrom ≤ s.elapsedAt (s.scanBound k) → s.pd.scanned = [] →
      (s.elapsed < s.elapsedAt (s.scanBound k + 5002) →
        ∃ t q x, exec (.scanClassBoundary k) s = .next t ∧ t.pd.recs = s.pd.recs ∧
          t.pd.scanned = [⟨s.elapsedAt (s.scanBound k + 5002), [(i, (fromI32 d.type (b2n (s.diVal d.op)), q, x))]⟩] ∧
          q = if s.diValid d.op then 0 else qInvalid + qDetail 7) ∧
      (s.elapsedAt (s.scanBound k + 5002) ≤ s.elapsed →
        ∃ t, exec (.scanClassBoundary k) s = .next t ∧ (t.ptRec i).raw = fromI32 d.type (b2n (s.diVal d.op)) ∧
          (t.ptRec i).owner = 0xF0 ∧ ((t.ptRec i).bad = !s.diValid d.op))) ∧
    (∀ (s : State) (src i : Nat) (d : PtDef) (r : PtRec), s.Inv → s.pointMapsOk = true → s.umOn = true → s.ptsOf 7 = [(i, d)] →
      s.ptDef i = some d → d.bind = 7 →
      (d.op2 = src → d.op < 2 ^ 23 → r.raw < 2 ^ 64 → r.owner < 256 → r.qual < 2 ^ 16 → r.ctime < 2 ^ 32 →
        ∃ t, exec (.mirrorRecordReceive src ([1, 0, d.op, 0, r.raw % 2 ^ 32, r.raw / 2 ^ 32, r.owner * 2 ^ 16 + r.qual, r.ctime].map
            (BitVec.ofNat 32))) s = .next t ∧ t.ptRec i = r ∧ t.mirror i = ⟨s.elapsed + 1, false, false⟩) ∧
      ((s.mirror i).stale = false → (s.mirror i).asleep = false →
        (s.mirror i).rx + (2 * scanPeriod (s.rd PD_SCAN_PERIOD d.scan) + 2000000) * 4 / 5 ≤ s.elapsed →
        ∃ t, exec (.mirrorStale i) s = .next t ∧ (t.mirror i).stale = true ∧ (t.ptRec i).raw = (s.ptRec i).raw ∧
          natBits (t.ptRec i).qual 15 14 = 1 ∧ natBit (t.ptRec i).qual 10 = true)) ∧
    (∀ (s : State) (r : RemReq) (c : Cmd), s.Inv → s.umOn = true → s.pd.reqs = [r] → r.cmd = some c.ref → r.read = true → c.buf = false →
      s.findCmd c.ring c.order = some c → c.undecided = true →
      (∀ words : List W32, words.length = 8 → (words.getD 0 0).toNat = r.tag → (words.getD 1 0).toNat = 0 →
        ∃ t, exec (.ptRspReceive r.dev words) s = .next t ∧ t.pd.reqs = [] ∧ ∃ x,
          t.Outcome c .ok (words.getD 4 0).toNat (words.getD 5 0).toNat (words.getD 6 0).toNat (words.getD 7 0).toNat (some x)) ∧
      (r.time + usUnits 50000 ≤ s.elapsed →
        ∃ t, exec (.remotePointTimeout r.tag) s = .next t ∧ t.pd.reqs = [] ∧ t.Outcome c .internal 1 0 0 0 (some s.now))) ∧
    (∀ (s : State) (src : Nat) (w v : W32), s.Inv → s.umOn = true →
      (w.get 31 31 = 1 → ∃ t, exec (.ptSubReceive src [w, v]) s = .next t ∧
        ∀ x, x ∈ t.pd.subs → ¬(x.dev = src ∧ x.index = w.get 22 0)) ∧
      (w.get 31 31 = 0 → s.pd.subs.length < 262144 →
        ∃ t x, exec (.ptSubReceive src [w, v]) s = .next t ∧ x ∈ t.pd.subs ∧ x.dev = src ∧ x.index = w.get 22 0 ∧
          x.period = w.get 30 27 ∧ x.sent = s.ptWords (w.get 22 0) ∧
          t.pd.tx = src :: 0x23 :: 1 :: 0 :: w.get 22 0 :: 0 :: s.ptWords (w.get 22 0))) ∧
    (∀ (s : State) (src : Nat) (g w lo hi : W32), s.Inv → s.umOn = true → g ≠ 0 →
      (w.get 31 30 = 0 →
        ∃ t, exec (.ptReqReceive src [g, w, lo, hi]) s = .next t ∧ t.um = s.um ∧
          t.pd.tx = src :: 0x25 :: ([g.toNat, 0, s.now.word % 2 ^ 32, s.now.word / 2 ^ 32] ++ s.ptWords (w.get 22 0))) ∧
      (∀ d, w.get 31 30 = 1 → s.ptDef (w.get 22 0) = some d → d.bind ≠ 7 → rawOk d.type (lo.toNat + hi.toNat * 2 ^ 32) = true →
        s.flag UM_CFG_PANEL_EN 0 = false →
        ∃ t, exec (.ptReqReceive src [g, w, lo, hi]) s = .next t ∧
          ⟨w.get 22 0, lo.toNat + hi.toNat * 2 ^ 32, false, 2, 9, src, none, 0, some g.toNat, none, false⟩ ∈ t.um.writes)) ∧
    (∀ (s : State) (k : Nat) (x : SubSt), s.Inv → s.umOn = true → k < 16 →
      mget (fun _ => 0) s.pd.originAt k ≠ s.tai / scanPeriod k + 1 → s.pd.subs = [x] → x.period = k →
      ∃ t, exec (.originPeriodBoundary k) s = .next t ∧ t.pd.tx = x.dev :: 0x23 :: 1 :: 0 :: x.index :: 0 :: s.ptWords x.index ∧
        t.pd.subs = [{ x with sentAt := s.elapsed + 1, sent := s.ptWords x.index }])

/-- R346 to R350. -/
def Obligations.RecipesLoadStartAndTick : Prop :=
  (∀ (s : State) (ring idx : Nat) (ws : List W32) (c : Cmd), s.Inv → s.pointMapsOk = true → s.Ready ring idx c →
      c.WithBuffer opRecipeCtl 0 12 → c.rpOpOf = 1 → c.objid = rpStepsObj → (c.par 0).get 31 4 = 0 → (c.par 1).get 31 20 = 0 →
      c.bufLen % 32 = 0 → 32 ≤ c.bufLen → s.bufReach c = true → ws.length = c.bufLen / 4 → (c.par 1).get 19 0 + c.bufLen / 32 ≤ 1048576 → s.inMode modesCr = true →
      crc32c ws = (c.par 2).toNat → stepsBad s (stepsOf ws (c.bufLen / 32)) = none →
      s.rpHolds ((c.par 1).get 19 0) (c.bufLen / 32) = false →
      ∃ t, exec (.recipeLoad ring idx (some ws)) s = .next t ∧ t.Outcome c .ok 0 0 0 0 (some s.now) ∧ t.rp.lanes = s.rp.lanes ∧
        ∀ k, k < c.bufLen / 32 → t.stepOf ((c.par 1).get 19 0 + k) = (ws.drop (8 * k)).take 5) ∧
    (∀ (s : State) (ring idx : Nat) (c : Cmd) (op : Nat) (i : Instr), s.Inv → s.Ready ring idx c → c.Plain opRecipeCtl 8 →
      (op, i) ∈ [(2, Instr.recipeStart ring idx), (3, .recipeHold ring idx), (4, .recipeResume ring idx),
        (5, .recipeCancel ring idx)] →
      c.rpOpOf = op → objUnit c.objid = 0x23 → objGrp c.objid = 1 → objInst c.objid < 64 → (c.par 0).get 31 4 = 0 →
      (c.par 1).get 31 20 = 0 → s.inMode modesCr = true → rpOp op 0 (s.lane (objInst c.objid)) ≠ none →
      ∃ t, exec i s = .next t ∧ t.Awaits c ∧
        ⟨op, (c.par 1).get 19 0, c.ref, c.fetchAt + 10000⟩ ∈ (t.lane (objInst c.objid)).reqs) ∧
    (∀ (s : State) (n : Nat), s.Inv → s.pointMapsOk = true → n < 64 → s.rpOn = true → s.gridOk (s.rpPeriod n) = true →
      (s.lane n).tickAt ≠ s.tai / s.rpPeriod n + 1 → s.rp.ticksFrom ≤ s.elapsedAt (s.tai / s.rpPeriod n * s.rpPeriod n) →
      (∀ c step nb, (s.lane n).reqs = [⟨2, step, c.ref, nb⟩] → nb ≤ s.tai / s.rpPeriod n * s.rpPeriod n → (s.lane n).state = 0 →
        s.findCmd c.ring c.order = some c → c.undecided = true → stKind (s.stepOf step) = 1 → stLink (s.stepOf step) = false →
        stPointBad s (s.stepOf step) = false →
        ∃ t b, exec (.recipeTick n) s = .next t ∧ (t.lane n).state = 1 ∧ (t.lane n).pc = step + 1 ∧ b.pc = step ∧
          t.Outcome c .ok 0 0 0 0 (some (Stamp.ofTai (s.tai / s.rpPeriod n * s.rpPeriod n))) ∧
          t.rp.out = s.rp.out ++ [⟨n, s.tai / s.rpPeriod n * s.rpPeriod n + 50000,
            [(stPoint (s.stepOf step), stVal (s.stepOf step), false)], b⟩]) ∧
      ((s.lane n).reqs = [] → (s.lane n).state = 1 → (s.lane n).lostErr = false →
        (stKind (s.stepOf (s.lane n).pc) = 2 → stPointBad s (s.stepOf (s.lane n).pc) = false → (s.lane n).inStep = false →
          1 < stTicks (s.stepOf (s.lane n).pc) →
          ∀ st, st = toF64 (s.ptType (stPoint (s.stepOf (s.lane n).pc))) (s.ptRec (stPoint (s.stepOf (s.lane n).pc))).raw →
            finite f64 st = true →
            ∃ t v b, exec (.recipeTick n) s = .next t ∧ (t.lane n).pc = (s.lane n).pc ∧ b.pc = (s.lane n).pc ∧ b.inStep = false ∧ (t.lane n).count = 1 ∧
              (t.lane n).start = st ∧
              v = fromF64 (s.ptType (stPoint (s.stepOf (s.lane n).pc))) (fadd f64 st (fdiv f64 (fmul f64
                (fsub f64 (stVal (s.stepOf (s.lane n).pc)) st) (ofInt f64 1)) (ofInt f64 (stTicks (s.stepOf (s.lane n).pc))))) ∧
              t.rp.out = s.rp.out ++ [⟨n, s.tai / s.rpPeriod n * s.rpPeriod n + 50000,
                [(stPoint (s.stepOf (s.lane n).pc), v.1, v.2)], b⟩]) ∧
        (stKind (s.stepOf (s.lane n).pc) = 6 → stVal (s.stepOf (s.lane n).pc) % 256 ≠ 0 →
          ∃ t b, exec (.recipeTick n) s = .next t ∧ (t.lane n).state = 3 ∧ (t.lane n).err = 8 ∧
            (t.lane n).endCode = stVal (s.stepOf (s.lane n).pc) % 256 ∧ b.pc = (s.lane n).pc ∧
            t.rp.out = s.rp.out ++ [⟨n, s.tai / s.rpPeriod n * s.rpPeriod n + 50000, [], b⟩]) ∧
        (stKind (s.stepOf (s.lane n).pc) = 5 → (s.ptDef (stPoint (s.stepOf (s.lane n).pc))).isSome = true →
          stPointBad s (s.stepOf (s.lane n).pc) = false → (s.ptRec (stPoint (s.stepOf (s.lane n).pc))).bad = true →
          ∃ t, exec (.recipeTick n) s = .next t ∧ (t.lane n).state = 4 ∧ (t.lane n).err = 5 ∧ t.rp.out = s.rp.out ∧
            ⟨0x2302, 1⟩ ∈ t.ec.arrivals)))

/-- R357, R360, R361, R363 (store and power fail); R368, R370, R372, R31, R57 (Lets); R375 to R377 (errors). -/
def Obligations.LetsErrorsAndPowerFailsRunTheirCourse : Prop :=
  (∀ s : State, s.Inv → (s.mo.mode = .run ∨ s.mo.mode = .commission) →
      (∃ t, exec .letL1Trigger s = .next t ∧ t.mo.mode = .letMode ∧ t.mo.cause = 7 ∧ t.mo.letClass = 1 ∧
        t.mo.letFrom = s.mo.mode ∧ t.mo.captain = false) ∧
      (∀ k, (k = 0x80 ∨ k = 0x81) → s.umOn = true →
        ∃ t, exec (.letL2Trigger k) s = .next t ∧ t.mo.mode = .letMode ∧ t.mo.cause = 7 ∧ t.mo.letClass = 2 ∧
          t.mo.letFrom = s.mo.mode ∧ t.mo.captain = false ∧ ⟨0x2000 + k, 3⟩ ∈ t.ec.arrivals) ∧
      (s.mo.captain = true → s.mo.boot ≠ .captain →
        ∃ t, exec .captainFault s = .next t ∧ t.mo.mode = .letMode ∧ t.mo.letClass = 1 ∧ t.mo.captain = false ∧
          ⟨0x0280, 3⟩ ∈ t.ec.arrivals)) ∧
    (∀ s : State, s.Inv → s.mo.mode = .letMode →
      (s.mo.letClass = 1 →
        (∀ k, (k = 0x80 ∨ k = 0x81) → s.umOn = true →
          ∃ t, exec (.letL2Trigger k) s = .next t ∧ t.mo.mode = .letMode ∧ t.mo.letClass = 2 ∧ ⟨0x2000 + k, 3⟩ ∈ t.ec.arrivals) ∧
        (∃ t, exec .captainFault s = .next t ∧ t.mo.mode = .letMode ∧ t.mo.letClass = 2 ∧ ⟨0x0280, 3⟩ ∈ t.ec.arrivals)) ∧
      (s.mo.letClass = 2 → ∃ t, exec .captainFault s = .next t ∧ ⟨0x0280, 4⟩ ∈ t.ec.arrivals) ∧
      (s.cs.cut = false → (∀ e, e ∈ s.badNow → continuousBlock e.1 = false) → (s.mo.letClass = 1 ∨ s.mo.letClass = 2) →
        (∃ t, exec (.letEnd false []) s = .next t ∧ t.mo.mode = s.mo.letFrom ∧ t.mo.cause = 0xE ∧ t.mo.letClass = 0 ∧
          t.mo.captain = true) ∧
        (s.mo.letClass = 2 → s.mo.letResumed = false →
          ∃ t, exec (.letEnd true []) s = .next t ∧ t.mo.mode = .letMode ∧ t.mo.letResumed = true)) ∧
      (s.mo.letAt + (if s.mo.letClass = 2 then 2000 else 800) * 800000 < s.elapsed →
        ∃ t, exec .letBoundExceeded s = .next t ∧ t.mo.mode = .safe ∧ t.mo.cause = 8 ∧ t.mo.letClass = 0 ∧
          ⟨0x0281, 4⟩ ∈ t.ec.arrivals)) ∧
    (∀ s : State, s.Inv → (s.mo.mode = .train ∨ s.mo.mode = .safe) → s.mo.boot = .done →
      (s.mo.captain = true → ∃ t, exec .captainFault s = .next t ∧ t.mo.mode = s.mo.mode ∧ t.mo.captain = false ∧
        ⟨0x0280, 3⟩ ∈ t.ec.arrivals) ∧
      (s.mo.captain = false → s.mo.letOwed = 0 → s.tu.running = true → s.mo.sent = .out →
        ∃ t, exec .captainRestartDone s = .next t ∧ t.mo.mode = s.mo.mode ∧ t.mo.captain = true)) ∧
    (∀ (s : State) (b : Nat), s.Inv → s.storeOn = true → b < 3072 → (∀ e, e ∈ s.badNow → e.1 ≠ b) →
      (∃ t, exec (.storeBlockError b none) s = .next t ∧ (b, s.elapsed) ∈ t.cs.bad ∧ ⟨0x2803, 2⟩ ∈ t.ec.arrivals) ∧
      (∀ x a, sdRead x = .uncorrectable a →
        ∃ t, exec (.storeBlockError b (some x)) s = .next t ∧ (b, s.elapsed) ∈ t.cs.bad ∧ ⟨0x2803, 2⟩ ∈ t.ec.arrivals) ∧
      (∀ x j y, sdRead x = .corrected j y →
        ∃ t, exec (.storeBlockError b (some x)) s = .next t ∧ t.cs.bad = s.cs.bad ∧ t.cs.sdSeen.contains (laneOf j) = true ∧
          (s.cs.sdSeen.contains (laneOf j) = false → ⟨0x5080 + Config.sdFirstCause.toNat, 2⟩ ∈ t.ec.arrivals)) ∧
      (∀ x, sdRead x = .good → exec (.storeBlockError b (some x)) s = .next s)) ∧
    (∀ (addr : Nat) (data : BitVec 64), sdRead (sdWrite addr data) = .good ∧
      (∀ (lane : Nat) (e : Sym), lane < 10 → e ≠ 0 → ∃ j, laneOf j = lane ∧
        sdRead ⟨addr, (sdWrite addr data).syms ^^^ (e.zeroExtend 80 <<< (8 * lane))⟩ = .corrected j (sdWrite addr data).syms) ∧
      (∀ k other, k < 4 → (addrSyms addr).getD k 0 ≠ (addrSyms other).getD k 0 →
        (∀ m, m < 4 → m ≠ k → (addrSyms addr).getD m 0 = (addrSyms other).getD m 0) →
        sdRead ⟨other, (sdWrite addr data).syms⟩ = .uncorrectable true)) ∧
    (∀ s : State, s.Inv → s.mo.rails = true → s.mo.resetN = true →
      (s.cs.pfAt = none → s.cs.writing = none → (s.mo.mode = .train ∨ s.mo.mode = .run ∨ s.mo.mode = .commission ∨ s.mo.mode = .safe) →
        ∃ t, exec .powerFailWarning s = .next t ∧ t.cs.cut = true ∧ t.cs.pfAt = some s.elapsed ∧ t.mo.control = false ∧
          t.cs.writing = some ⟨s.nextSlot, 1, s.elapsed⟩ ∧ t.slotState s.nextSlot = .incomplete ∧ t.mo.mode = s.mo.mode) ∧
      (∀ w img us blk, s.cs.writing = some w → s.cs.sealed = some img → s.badNow = [] →
        (∃ t, exec (.slotWriteDone true us blk) s = .next t ∧ t.cs.writing = none ∧ t.slotState w.slot = .complete ∧
          t.slotImage w.slot = some img ∧ t.newestSlot = some w.slot) ∧
        (∃ t, exec (.slotWriteDone false us blk) s = .next t ∧ t.cs.writing = none ∧ t.slotState w.slot = .failed ∧
          t.newestSlot = s.newestSlot ∧ (⟨0x2802, 2⟩ ∈ t.ec.arrivals ∨ ⟨0x2802, 3⟩ ∈ t.ec.arrivals))) ∧
      (∀ x, s.cs.pfAt = some x → s.cs.writing = none → (s.mo.mode = .run ∨ s.mo.mode = .commission) → s.cs.pfFailed = false →
        ∃ t, exec .powerReturn s = .next t ∧ t.cs.pfAt = none ∧ t.cs.cut = false ∧ t.mo.control = true ∧
          t.rd CS_STAT_LAST_START 0 = 2 ∧ t.mo.mode = s.mo.mode)) ∧
    (∀ (s : State) (e : ErrRec) (l : List ErrRec), s.Inv → s.tu.running = true → s.ec.arrivals = e :: l → s.mo.mode = .run →
      (e.cls = 4 → e.code ≠ 0x0284 →
        ∃ t, exec .errorHandling s = .next t ∧ t.mo.mode = .safe ∧ t.mo.cause = 9 ∧ t.ec.handling = [] ∧ t.ec.queue = [] ∧
          t.ec.lastCode = e.code) ∧
      (e.cls = 3 → s.nestC = 2 →
        ∃ t, exec .errorHandling s = .next t ∧ t.mo.mode = .safe ∧ t.mo.cause = 0xA ∧ t.ec.handling = [] ∧ t.ec.queue = [] ∧
          t.ec.lastCode = 0x0283) ∧
      (e.cls < 4 → (e.cls = 3 → s.nestC ≠ 2) →
        (s.ec.handling = [] →
          ∃ t, exec .errorHandling s = .next t ∧ t.ec.handling = [e] ∧ t.ec.lastCode = e.code ∧ t.mo.mode = .run) ∧
        (∀ h r, s.ec.handling = h :: r → h.cls < e.cls →
          ∃ t, exec .errorHandling s = .next t ∧ t.ec.handling = e :: h :: r ∧ t.ec.queue = s.ec.queue) ∧
        (∀ h r, s.ec.handling = h :: r → e.cls ≤ h.cls → s.ec.queue.length < 32 →
          ∃ t, exec .errorHandling s = .next t ∧ t.ec.handling = h :: r ∧ t.ec.queue = s.ec.queue ++ [e]) ∧
        (∀ h r, s.ec.handling = h :: r → e.cls ≤ h.cls → 32 ≤ s.ec.queue.length → s.ec.ovf = false →
          ∃ t, exec .errorHandling s = .next t ∧ t.ec.queue = s.ec.queue ∧ ⟨0x0282, 3⟩ ∈ t.ec.arrivals))) ∧
    (∀ s : State, s.Inv → s.mo.letClass = 0 →
      (∀ h e q, s.ec.handling = [h] → s.ec.queue = e :: q →
        ∃ t, exec .errorHandlingEnd s = .next t ∧ t.ec.handling = [e] ∧ t.ec.queue = q) ∧
      (∀ h e r, s.ec.handling = h :: e :: r →
        ∃ t, exec .errorHandlingEnd s = .next t ∧ t.ec.handling = e :: r ∧ t.ec.queue = s.ec.queue))

/-- R384 to R392. -/
def Obligations.EventRecordsFreezesAndLastResortAct : Prop :=
  (∀ (s : State) (ring idx reached : Nat) (ok : Bool) (c : Cmd), s.Inv → s.Ready ring idx c → c.WithBuffer opEvFreeze 1 8 →
      c.bufLen = 32 * (c.par 1).toNat → c.objid = evCtlObj → (c.par 0).toNat = 0xFFFFFFFF → s.inMode modesTrain = true →
      s.ev.lr = false → s.ev.frozen = none → s.ev.drain = none → s.ev.copy = none → s.evFull 1 = false →
      ∃ t, exec (.evFreeze ring idx reached ok) s = .next t ∧ t.Awaits c ∧ t.ev.frozen = some 1 ∧
        t.ev.ring.getLast? = some ⟨s.ev.nextSeq, ⟨0xB001, 0, s.now, 1, 0, 0, true⟩⟩ ∧
        t.ev.copy = some ⟨c.ref, t.ev.ring.take (c.par 1).toNat, seqPrev t.ev.nextSeq, false⟩) ∧
    (∀ (s : State) (reached : Nat) (c : Cmd) (x : EvCopy), s.Inv → s.ev.copy = some x → x.cmd = c.ref →
      s.findCmd c.ring c.order = some c → c.undecided = true → s.evOn = true → s.cmdsRun = true → s.bufReach c = true →
      x.recs.length ≤ reached →
      ∃ t, exec (.evFreeze c.ring c.idx reached true) s = .next t ∧ t.ev.copy = none ∧
        t.mb.lastDma = some ⟨c.bufLoc, c.bufAddr, x.recs.flatMap EvEntry.words⟩ ∧
        t.Outcome c .ok (((x.recs.head?).map (·.seq)).getD 0) x.recs.length x.seq 0 (some s.now)) ∧
    (∀ (s : State) (ring idx : Nat) (c : Cmd), s.Inv → s.Ready ring idx c → c.Plain opEvRelease 0 → c.objid = evCtlObj →
      s.inMode modesAll = true →
      ∃ t, exec (.evRelease ring idx) s = .next t ∧
        (s.ev.frozen = some 1 → t.ev.frozen = none ∧ t.ev.drain = some 1 ∧ t.Outcome c .ok 0 0 0 0 (some s.now)) ∧
        (s.ev.frozen ≠ some 1 → t.ev = s.ev ∧ t.Outcome c .ok 0 0 0 0 none)) ∧
    (∀ (s : State) (fifo : Nat) (r : EvRec) (l : List EvRec), s.Inv → s.handedOver fifo = r :: l → s.evOn = true → s.ev.drain = none →
      (s.ev.lr = false → s.ev.frozen = none → s.evFull 1 = false →
        ∃ t, exec (.eventRecordWrite fifo) s = .next t ∧ t.handedOver fifo = l ∧
          t.ev.ring.getLast? = some ⟨s.ev.nextSeq, r⟩ ∧ t.ev.nextSeq = seqNext s.ev.nextSeq) ∧
      (s.ev.lr = false → s.ev.frozen = none → s.evFull 1 = true → s.ev.staging = [] →
        ∃ t, exec (.eventRecordWrite fifo) s = .next t ∧ t.handedOver fifo = l ∧ t.ev.frozen = some 3 ∧ t.ev.ring = s.ev.ring ∧
          t.ev.staging = [⟨0xB001, 0, s.now, 3, 0, 0, true⟩, r]) ∧
      (s.ev.lr = false → s.ev.frozen.isSome = true → (s.ev.staging.length < 3840 ∨ s.ev.staging.length < 4096 ∧ r.prio = true) →
        ∃ t, exec (.eventRecordWrite fifo) s = .next t ∧ t.handedOver fifo = l ∧ t.ev.ring = s.ev.ring ∧
          t.ev.staging = s.ev.staging ++ [r]) ∧
      (s.ev.lr = true → r.prio = true → s.kp.lring.length < 511 →
        ∃ t, exec (.eventRecordWrite fifo) s = .next t ∧ t.kp.lring = s.kp.lring ++ [⟨s.ev.nextSeq, r⟩] ∧
          t.ev.nextSeq = seqNext s.ev.nextSeq) ∧
      (s.ev.lr = true → r.prio = false →
        ∃ t, exec (.eventRecordWrite fifo) s = .next t ∧ t.kp.lring = s.kp.lring ∧ t.kp.npLost = satAdd 0xFFFFFFFF s.kp.npLost 1 ∧
          t.kp.npLast = r.time ∧ t.ev.nextSeq = s.ev.nextSeq)) ∧
    (∀ (s : State) (fifo : Nat) (l : Loss), s.Inv → mapOk (fun _ => Loss.none) s.ev.loss = true → s.evOn = true → s.ev.drain = none →
      s.ev.lr = false → s.ev.frozen = none → s.evFull 1 = false → mget (fun _ => Loss.none) s.ev.loss fifo = l → l.cnt ≠ 0 →
      2 * (s.handedOver fifo).length < fifoCap fifo →
      ∃ t, exec (.handoffLost fifo) s = .next t ∧ mget (fun _ => Loss.none) t.ev.loss fifo = Loss.none ∧
        t.ev.ring.getLast? = some ⟨s.ev.nextSeq,
          ⟨0x3003, if fifo = 0 then 0x10 else fifo, l.first, l.cnt, l.last.sec % 2 ^ 32, l.last.ns, true⟩⟩ ∧
        t.ev.lost = satAdd 0xFFFFFFFF s.ev.lost l.cnt ∧ ⟨0x3003, 1⟩ ∈ t.ec.arrivals) ∧
    (∀ s : State, s.Inv → s.evOn = true →
      (s.ev.frozen = some 1 → s.mo.letClass = 0 → s.ev.freezeAt + 400000000 ≤ s.elapsed →
        ∃ t, exec .freezeLimitExpiry s = .next t ∧ t.ev.frozen = none ∧ t.ev.drain = some 2) ∧
      (∀ cause r, s.ev.drain = some cause → s.ev.lr = false → s.ev.frozen = none → s.evFull 3 = false → s.ev.staging = [r] →
        s.ev.stLoss.cnt = 0 → s.ev.ring.length + 2 ≤ 1048576 →
        ∃ t, exec .freezeDrain s = .next t ∧ t.ev.drain = none ∧ t.ev.staging = [] ∧
          t.ev.ring = s.ev.ring ++ [⟨s.ev.nextSeq, r⟩, ⟨seqNext s.ev.nextSeq, ⟨0xB002, 0, s.now, cause, 1, 0, true⟩⟩]) ∧
      (s.ev.lr = false → s.ev.frozen = none → s.evFull 1 = true → s.ev.staging = [] →
        ∃ t, exec .archiveLagFreeze s = .next t ∧ t.ev.frozen = some 3 ∧ t.ev.staging = [⟨0xB001, 0, s.now, 3, 0, 0, true⟩]) ∧
      (s.ev.lr = false → s.ev.frozen = some 3 → s.ev.unarch + 4096 ≤ 1048576 →
        ∃ t, exec .archiveLagFreeze s = .next t ∧ t.ev.frozen = none ∧ t.ev.drain = some 4)) ∧
    (∀ (s : State) (first : Nat), s.Inv → s.evOn = true → s.ev.lr = false → s.kp.lring.length < 511 →
      ∃ t, exec (.lastResortEntry 1 first) s = .next t ∧ t.ev.lr = true ∧ t.ev.logDeg = true ∧ t.ev.frozen = none ∧
        ⟨s.ev.nextSeq, ⟨0x3002, 0, s.now, 1, first % 2 ^ 32, seqPrev s.ev.nextSeq, true⟩⟩ ∈ t.kp.lring ∧
        ⟨0x3002, 2⟩ ∈ t.ec.arrivals) ∧
    (∀ s : State, s.Inv → s.evOn = true → s.ev.lr = true → s.mo.letClass = 0 → s.inMode modesCrs = true →
      (∃ t, exec (.evRecover false) s = .next t ∧ t.ev.rcv = 2 ∧ t.ev.lr = true ∧ t.kp = s.kp) ∧
      (s.arch = true → s.arLives = [] → ∃ t, exec (.evRecover true) s = .next t ∧ t.ev.rcv = 3 ∧ t.ev.lr = true ∧ t.kp = s.kp) ∧
      (s.arch = false → s.ev.frozen = none → s.kp.npLost = 0 →
        ∃ t x, exec (.evRecover true) s = .next t ∧ t.ev.rcv = 1 ∧ t.ev.lr = false ∧ t.kp.lring = [] ∧
          t.ev.ring.getLast? = some x ∧ x.body = ⟨0xB004, 0, s.now, ((s.kp.lring.head?).map (·.seq)).getD 0,
            ((s.kp.lring.getLast?).map (·.seq)).getD 0, 0, true⟩))

/-- R394 to R408. -/
def Obligations.ChangesArchiveAndDisturbanceRecordsAct : Prop :=
  (∀ (s : State) (c : PtChange) (l : List PtChange), s.Inv → s.pd.changes = c :: l → s.chOn = true → s.chLosses = 0 →
      s.ch.epoch = some (epochOf c.time) →
      (s.chRoom 1 = true → ∃ t, exec .changeIngest s = .next t ∧ t.pd.changes = l ∧ t.ch.next = s.ch.next + 1 ∧
        t.ch.buf = s.ch.buf ++ [⟨epochOf c.time, c.time % 2 ^ 32, c.index, false, c.qual, c.raw⟩]) ∧
      (s.chRoom 1 = false → ∃ t, exec .changeIngest s = .next t ∧ t.pd.changes = l ∧ t.ch.buf = s.ch.buf ∧ t.ch.next = s.ch.next ∧
        t.ch.lossCnt = s.ch.lossCnt + 1 ∧ t.ch.lost = satAdd 0xFFFFFFFF s.ch.lost 1)) ∧
    (∀ s : State, s.Inv → s.chOn = true →
      (s.tu.running = true → s.ch.epoch ≠ some (epochOf s.tai) → s.chRoom 1 = true →
        ∃ t, exec .epochBoundary s = .next t ∧ t.ch.epoch = some (epochOf s.tai) ∧
          t.ch.buf = s.ch.buf ++ [⟨epochOf s.tai, 0, 1, true, 0, epochOf s.tai⟩]) ∧
      (s.chLosses ≠ 0 → s.chRoom 2 = true →
        ∃ t x, exec .chGapWrite s = .next t ∧ t.chLosses = 0 ∧ ⟨0x3101, 1⟩ ∈ t.ec.arrivals ∧ t.ch.buf.getLast? = some x ∧
          x.stream = true ∧ x.index = 2 ∧ x.epoch = epochOf s.chLossSpan.1 ∧ x.offset = s.chLossSpan.1 % 2 ^ 32 ∧
          x.value % 2 ^ 32 = min 0xFFFFFFFF s.chLosses)) ∧
    (∀ (s : State) (block bytes erased c un k first : Nat), s.Inv → s.arOn = true → s.arPick 0 = some c →
      un = min s.ev.unarch s.ev.ring.length → k = min 510 un →
      first = ((s.ev.ring[s.ev.ring.length - un]?).map (·.seq)).getD 0 →
      (s.arDue 0 = true → s.arRetired c 0 < s.arBlocks 0 →
        ∃ t, exec (.archivePageProgram true block bytes erased) s = .next t ∧ t.ev.unarch = un - k ∧
          t.ev.archNext = (first + k) % 2 ^ 32 ∧
          t.arPages c 0 = (s.arPages c 0).drop erased ++ [⟨mget (fun _ => 0) s.ar.pageSeq 0, first, k, 0⟩]) ∧
      (s.arDue 0 = true → s.arRetired c 0 + 1 < s.arBlocks 0 →
        ∃ t, exec (.archivePageProgram false block bytes erased) s = .next t ∧ t.arRetired c 0 = s.arRetired c 0 + 1 ∧
          t.ev.unarch = un - k ∧ ∃ p, p ∈ t.arPages c 0 ∧ p.first = first ∧ p.count = k) ∧
      (mget (fun _ => 0) s.ar.pageAt 0 ≠ 0 → mget (fun _ => 0) s.ar.pageAt 0 + 79999999 ≤ s.elapsed → s.arData 0 ≠ 0 →
        s.arData 0 < 510 → s.arRetired c 0 < s.arBlocks 0 →
        ∃ t, exec (.partialPageExpiry 0 true block erased) s = .next t ∧ t.ev.unarch = un - k ∧
          t.arPages c 0 = (s.arPages c 0).drop erased ++ [⟨mget (fun _ => 0) s.ar.pageSeq 0, first, k, 0⟩])) ∧
    (∀ (s : State) (chan : Nat), s.Inv → s.evOn = true →
      (s.arLive chan = true → ∃ t, exec (.readyBusyTimeout chan) s = .next t ∧ t.rd AR_STAT_STATE chan = 2 ∧
        ⟨0x3301, 2⟩ ∈ t.ec.arrivals) ∧
      (chan < s.byVar 2 1 1 → s.rd AR_STAT_STATE chan = 2 →
        ∃ t, exec (.arRetest chan true) s = .next t ∧ t.rd AR_STAT_STATE chan = 1 ∧ t.ar.failed = false)) ∧
    (∀ (s : State) (q : Nat × Nat) (l : List (Nat × Nat)), s.Inv → s.dr.queue = q :: l → s.drOn = true →
      (∀ n, s.drOpen q.2 = none → s.drFree (s.drNew q.1 q.2).bytes = some n →
        ∃ t, exec .drTriggerEvent s = .next t ∧ t.dr.queue = l ∧ t.drRec n = some (s.drNew q.1 q.2) ∧
          t.dr.serial = (s.dr.serial + 1) % 2 ^ 32 ∧ t.rd DR_REC_STATE n = 1) ∧
      (∀ n r, s.drOpen q.2 = some (n, r) → r.trigs.length < 16 →
        ∃ t, exec .drTriggerEvent s = .next t ∧ t.dr.queue = l ∧ t.dr.serial = s.dr.serial ∧
          t.drRec n = some { r with
            stop := max r.stop (min (q.2 + msNs (s.rd DR_CFG_POST 0)) (r.start + msNs (s.rd DR_CFG_MAXLEN 0)))
            trigs := r.trigs ++ [q] })) ∧
    (∀ (s : State) (ring idx n : Nat) (c : Cmd), s.Inv → s.Ready ring idx c → c.Plain opDrTrigger 0 → c.objid = 0x32000001 →
      s.inMode modesCrs = true → s.drOn = true → s.drOpen s.tai = none → s.drFree (s.drNew 32 s.tai).bytes = some n →
      ∃ t, exec (.drTrigger ring idx) s = .next t ∧ t.Outcome c .ok 0 0 0 0 (some s.now) ∧ t.drRec n = some (s.drNew 32 s.tai)) ∧
    (∀ (s : State) (n : Nat) (r : DrRec), s.Inv → s.drOn = true →
      s.drHeld.find? (fun e => e.2.state == 1 && s.drArrived e.2) = some (n, r) → (s.handedOver 0x32).length < 1024 →
      ∃ t, exec .drRecordComplete s = .next t ∧
        t.drRec n = some { r with state := 2, expKib := s.freeWord.toNat % 2 ^ 25 } ∧ t.free = s.free + 1 ∧
        ⟨0x3201, 0, s.now, n % 2 ^ 32, r.serial % 2 ^ 32, 0, false⟩ ∈ t.handedOver 0x32) ∧
    (∀ (s : State) (ring idx n : Nat) (c : Cmd) (r : DrRec), s.Inv → s.Ready ring idx c → c.WithBuffer opDrExport 1 4 →
      objUnit c.objid = 0x32 → objGrp c.objid = 4 → objInst c.objid = n → n < 64 → expBad (c.par 0) = false →
      s.inMode modesAll = true → s.drRec n = some r → r.state ≠ 1 → r.expKib * 1024 ≤ c.bufLen → s.bufReach c = true →
      ((c.par 0).get 26 26 = 1 ∨ r.chans (c.par 0) ≠ []) →
      ∃ t, exec (.drExport ring idx true) s = .next t ∧ t.dr = s.dr ∧
        t.mb.lastDma = some ⟨c.bufLoc, c.bufAddr, (s.drFiles r (c.par 0)).1.1 ++ (s.drFiles r (c.par 0)).2.1⟩ ∧
        t.Outcome c .ok (s.drFiles r (c.par 0)).1.2
          (if (c.par 0).get 27 27 = 1 then 0 else (s.drFiles r (c.par 0)).2.2) (r.chans (c.par 0)).length
          (32 + ((List.range 48).filter (natBit r.diMask)).length) none)

/-- R413 to R434. -/
def Obligations.FieldInputsOutputsWatchdogAndSupplyAct : Prop :=
  (∀ (s : State) (n mv ua : Nat) (inputs : List (Nat × Nat)), s.Inv → s.fieldMapsOk = true → s.mo.sent = .out → s.fieldOn = true →
      s.fd.diAt ≠ s.fieldIdx → n < 48 → inputs.getD n (0, 0) = (mv, ua) → s.inputsOff = false → s.rd FD_DI_CHAT_K n = 0 →
      s.rd FD_DI_FILT_N n ≠ 0 →
      (s.flag FD_DI_WB_EN n = false → s.flag FD_DI_TYPE n = false → 13500 ≤ mv → (s.din n).init = true →
        ∃ t, exec (.diSample inputs) s = .next t ∧ t.flag FD_DI_RAW n = true ∧ t.flag FD_DI_VALID n = true ∧
          t.rd FD_DI_CNT n = min (s.rd FD_DI_CNT n + 1) (s.rd FD_DI_FILT_N n) ∧
          t.flag FD_DI_VAL n = (decide (s.rd FD_DI_FILT_N n ≤ s.rd FD_DI_CNT n + 1) || (s.din n).flt)) ∧
      (s.flag FD_DI_WB_EN n = true → currClass (s.rd FD_STAT_FLD_MV 0) ua = 2 → (s.din n).ow = 19 →
        ∃ t, exec (.diSample inputs) s = .next t ∧ t.flag FD_DI_OW n = true ∧ t.flag FD_DI_VALID n = false ∧
          t.rd FD_DI_CNT n = s.rd FD_DI_CNT n)) ∧
    (∀ (s : State) (n : Nat), s.Inv → s.fieldOn = true → n < 48 → s.rd FD_DI_STUCK_T n ≠ 0 → s.flag FD_DI_VAL n = true →
      (s.din n).hi + s.rd FD_DI_STUCK_T n * 800000000 ≤ s.elapsed →
      ∃ t, exec (.diStuckExpiry n) s = .next t ∧ t.flag FD_DI_STUCK n = true ∧ t.flag FD_DI_VAL n = true ∧
        t.flag FD_DI_VALID n = s.flag FD_DI_VALID n) ∧
    (∀ (s : State) (n mv ma fldMv : Nat) (lim : Bool) (temp : Int) (outs : List (Nat × Nat × Bool)), s.Inv → s.fieldMapsOk = true →
      s.mo.sent = .out → s.fieldOn = true → s.fd.doAt ≠ s.fieldIdx → outs.getD n (0, 0, false) = (mv, ma, lim) →
      mv ≤ min 65535 fldMv + 500 → s.RowFree n →
      (n < 24 → s.flag FD_STAT_WD_EXP 0 = false → s.flag FD_STAT_HOLD 0 = false → (s.dout n).darkUntil ≤ s.elapsed →
        s.pulseSrc n = false →
        ∃ t, exec (.doStep outs fldMv temp) s = .next t ∧ t.rd FD_DO_ROW n = 9 ∧ t.flag FD_DO_ON n = s.flag UM_OWN_VALUE n ∧
          t.flag FD_DO_BALL n = decide (12000 < mv) ∧ t.rd FD_DO_I_MA n = min 4095 ma ∧ t.rd FD_STAT_FLD_MV 0 = min 65535 fldMv) ∧
      (24 ≤ n → n < 32 → (s.dout n).snt = false → (s.dout n).sntUntil ≤ s.elapsed → s.tripDrives (n - 24) = true →
        ∃ t, exec (.doStep outs fldMv temp) s = .next t ∧ t.rd FD_DO_ROW n = 8 ∧ t.flag FD_DO_ON n = true)) ∧
    (∀ (s : State) (n t0 : Nat), s.Inv → s.fieldMapsOk = true → s.mo.sent = .out → s.fieldOn = true → n < 24 →
      (s.flag FD_DO_ON n = true → (s.dout n).limAt = some t0 → t0 + 80000 < s.elapsed →
        (s.flag FD_DO_OL_RETRY n = false →
          ∃ t, exec (.overloadSwitchOff n) s = .next t ∧ (t.dout n).latched = true ∧ t.flag FD_DO_OL n = true ∧
            t.flag FD_DO_ON n = false ∧ t.rd FD_DO_OL_COUNT n = satAdd 65535 (s.rd FD_DO_OL_COUNT n) 1) ∧
        (s.flag FD_DO_OL_RETRY n = true → (s.dout n).retries < 3 → (s.doCmd n).2 = true →
          ∃ t, exec (.overloadSwitchOff n) s = .next t ∧ (t.dout n).latched = false ∧ (t.dout n).wait = true ∧
            t.flag FD_DO_ON n = false)) ∧
      ((s.dout n).wait = true → (s.dout n).latched = false → (s.dout n).offAt + 80000000 ≤ s.elapsed → (s.doCmd n).2 = true →
        ∃ t, exec (.overloadRetry n) s = .next t ∧ (t.dout n).wait = false ∧ (t.dout n).retries = (s.dout n).retries + 1 ∧
          (s.fd.cut = none → (s.dout n).cut = false → s.flag FD_DO_OL_T n = false → s.flag FD_DO_RF n = false →
            (s.dout n).rfEnd ≤ s.elapsed → mget (fun _ => false) s.fd.sfOff n = false → t.flag FD_DO_ON n = true))) ∧
    (∀ (s : State) (n : Nat) (temp : Int), s.Inv → s.fieldMapsOk = true → s.mo.sent = .out → s.fieldOn = true → n < 32 →
      (150 < temp → s.flag FD_DO_OL_T n = false →
        ∃ t, exec (.thermalShutdown n temp) s = .next t ∧ t.flag FD_DO_OL_T n = true ∧ t.flag FD_DO_ON n = false) ∧
      (temp < 135 → s.flag FD_DO_OL_T n = true → (s.dout n).latched = false → (s.dout n).wait = false →
        ∃ t, exec (.thermalShutdown n temp) s = .next t ∧ t.flag FD_DO_OL_T n = false ∧ t.flag FD_DO_OL n = false) ∧
      (s.flag FD_DO_ON n = false → (s.dout n).offAt + 800000 ≤ s.elapsed → (s.dout n).checkAt = 0 →
        (∃ t, exec (.offStateCheck n true true) s = .next t ∧ t.flag FD_DO_SCS n = true) ∧
        (∀ b, s.flag FD_DO_OW_OFF_EN n = true → ∃ t, exec (.offStateCheck n false b) s = .next t ∧
          t.flag FD_DO_SCS n = false ∧ t.flag FD_DO_OW_OFF n = b)) ∧
      (∀ mask : W32, natBit mask.toNat n = true → (s.dout n).latched = true →
        ∃ t, exec (.clrOl mask) s = .next t ∧ (t.dout n).latched = false ∧ t.flag FD_DO_OL n = s.flag FD_DO_OL_T n)) ∧
    (∀ (s : State) (n : Nat), s.Inv → s.fieldMapsOk = true → s.fieldOn = true → s.tu.running = true → n < 24 →
      s.flag FD_DO_TP_EN n = true → s.rd FD_DO_TP_W n ≠ 0 → (s.doCmd n).2 = true → (s.doRow n).1 = 9 →
      (s.dout n).darkSec ≠ s.tu.sec + 1 → s.fd.darkAt = 0 →
      (∃ t, exec (.darkTestPulse n true) s = .next t ∧ t.flag FD_DO_ON n = false ∧ t.flag FD_DO_XFEED n = false ∧
        (t.dout n).darkUntil = s.elapsed + s.rd FD_DO_TP_W n * 8000) ∧
      (s.sfOwned n = false → ∃ t, exec (.darkTestPulse n false) s = .next t ∧ t.flag FD_DO_ON n = false ∧
        t.flag FD_DO_XFEED n = true ∧ t.rd FD_DO_TP_FAIL n = satAdd 65535 (s.rd FD_DO_TP_FAIL n) 1)) ∧
    (∀ s : State, s.Inv → s.fieldMapsOk = true → s.fieldOn = true →
      (s.umOn = true → s.fd.wdIdx ≠ s.tai / 500000 + 1 → s.mo.mode ≠ .sentinel →
        ∃ t, exec .fieldWatchdogRefresh s = .next t ∧ t.fd.wdArmed = true ∧ t.fd.wdAt = s.elapsed ∧ t.flag FD_STAT_HOLD 0 = false ∧
          (s.fd.wdArmed = true → s.elapsed ≤ s.fd.wdAt + s.rd FD_CTL_WD_TIME 0 * 800000 → s.fd.wdRun = 2 →
            t.flag FD_STAT_WD_EXP 0 = false)) ∧
      (s.fd.wdArmed = true → s.flag FD_CTL_WD_EN 0 = true → s.flag FD_STAT_HOLD 0 = false → s.flag FD_STAT_WD_EXP 0 = false →
        s.fd.wdAt + s.rd FD_CTL_WD_TIME 0 * 800000 ≤ s.elapsed → mget (fun _ => (0, 0)) s.fd.ntf 256 = (0, 0) →
        ∃ t, exec .fieldWatchdogExpiry s = .next t ∧ t.flag FD_STAT_WD_EXP 0 = true ∧ ⟨0x3804, 3⟩ ∈ t.ec.arrivals ∧
          ∀ n, n < 24 → s.RowFree n → s.pulseSrc n = false → s.rd FD_DO_SAFE n = 1 →
            t.rd FD_DO_ROW n = 6 ∧ t.flag FD_DO_ON n = true) ∧
      (s.fd.hbAt ≠ 0 → s.flag FD_STAT_HB_LOST 0 = false → s.fd.hbHold = false → s.fd.hbAt + 200000 ≤ s.elapsed + 1 →
        ∃ t, exec .heartbeatLoss s = .next t ∧ t.flag FD_STAT_HB_LOST 0 = true) ∧
      (∀ line, line < 8 → s.RowFree (24 + line) → (s.dout (24 + line)).snt = false → (s.dout (24 + line)).sntUntil ≤ s.elapsed →
        s.tripDrives line = false → s.flag FD_STAT_HB_LOST 0 = false →
        ∃ t, exec (.directTripHoldExpiry line) s = .next t ∧ t.rd FD_DO_ROW (24 + line) = 10 ∧
          t.flag FD_DO_ON (24 + line) = false)) ∧
    (∀ (s : State) (mv : Nat), s.Inv → s.fieldMapsOk = true → s.mo.sent = .out → s.fieldOn = true → mv < 65536 →
      (s.rd FD_STAT_FLD 0 = 0 → 18000 ≤ mv → mv < 19200 → mget (fun _ => (0, 0)) s.fd.ntf 64 = (0, 0) →
        ∃ t, exec (.fldSupplyCrossing mv) s = .next t ∧ t.rd FD_STAT_FLD 0 = 1 ∧ t.rd FD_STAT_FLD_MV 0 = mv ∧
          t.fd.goodAt = none ∧ ⟨0x3801, 1⟩ ∈ t.ec.arrivals) ∧
      (s.rd FD_STAT_FLD 0 = 0 → mv < 15000 → s.fd.cut = none →
        ∃ t, exec (.fldSupplyCrossing mv) s = .next t ∧ t.rd FD_STAT_FLD 0 = 3 ∧ (t.dout 0).cut = true ∧
          t.flag FD_DO_ON 0 = false ∧ t.fd.cut = some (s.elapsed, mv, 1, b2n (s.flag FD_DO_ON 0)) ∧
          ∀ n, n < 48 → t.flag FD_DI_VALID n = false) ∧
      (s.rd FD_STAT_FLD 0 = 2 → 18400 < mv → mv ≤ 19600 →
        ∃ t, exec (.fldSupplyCrossing mv) s = .next t ∧ t.rd FD_STAT_FLD 0 = 1 ∧ ∀ n, n < 48 → (t.din n).init = false) ∧
      (s.rd FD_STAT_FLD 0 = 1 → 19600 < mv →
        ∃ t, exec (.fldSupplyCrossing mv) s = .next t ∧ t.rd FD_STAT_FLD 0 = 0 ∧ t.fd.goodAt = some s.elapsed)) ∧
    (∀ (s : State) (n : Nat), s.Inv → s.fieldMapsOk = true → s.fieldOn = true → s.rd FD_STAT_FLD 0 = 0 → s.fd.cut = none → n < 32 →
      (s.dout n).cut = true →
      (∀ t0, s.fd.goodAt = some t0 → t0 + 40000000 ≤ s.elapsed →
        ∃ t, exec .supplyGoodExpiry s = .next t ∧ t.fd.goodAt = none ∧ (t.dout n).cut = s.flag FD_DO_LATCH_UV n ∧
          (s.flag FD_DO_LATCH_UV n = false → t.flag FD_DO_UV_OFF n = false)) ∧
      (∀ mask : W32, natBit mask.toNat n = true → s.flag FD_DO_LATCH_UV n = true →
        ∃ t, exec (.clrUv mask) s = .next t ∧ (t.dout n).cut = false ∧ t.flag FD_DO_UV_OFF n = false))

/-- R439 to R457. -/
def Obligations.SafetyFunctionsEvaluateTestAndFail : Prop :=
  (∀ (s : State) (k : Nat) (x : SfFn), s.Inv → s.fieldMapsOk = true → s.sfOn = true → s.sf.cycleAt ≠ s.fieldIdx → s.sfFns = [k] →
      s.sfn k = x → s.rd SF_FUNC_KIND k = 1 → s.flag SF_FUNC_CONTACT k = false → x.testA = none → x.testB = none →
      (s.sfState k = 4 → x.chA.dem = false → s.rd SF_FUNC_DEB k ≤ x.chA.run + 1 → s.sfRaw (s.rd SF_FUNC_IN_A k) = false →
        ∃ t, exec .sfEvaluationCycle s = .next t ∧ t.sfState k = 1 ∧ t.rd SF_STAT_RUN_MASK 0 = 0 ∧
          ∀ n, n < 24 → natBit (s.rd SF_FUNC_OUT_MASK k) n = true →
            mget (fun _ => false) t.fd.sfOff n = true ∧ mget (fun _ => false) t.um.sfOff n = true ∧ t.flag FD_DO_ON n = false) ∧
      (x.chA.dem = false → x.chB.dem = false → s.sfRaw (s.rd SF_FUNC_IN_A k) = true → s.sfValid (s.rd SF_FUNC_IN_A k) = true →
        s.sfRaw (s.rd SF_FUNC_IN_B k) = true → s.sfValid (s.rd SF_FUNC_IN_B k) = true →
        (s.sfState k = 1 → (s.rd SF_FUNC_RST_DI k = 0x3F ∨ x.rst.dem = false ∧ s.sfRaw (s.rd SF_FUNC_RST_DI k) = false) →
          ∃ t, exec .sfEvaluationCycle s = .next t ∧ t.sfState k = 2) ∧
        (∀ p, s.sfState k = 2 → s.rd SF_FUNC_RST_MODE k = 0 → s.rd SF_FUNC_TPA k = 0x3F → s.rd SF_FUNC_TPB k = 0x3F →
          s.sfRaw (s.rd SF_FUNC_RST_DI k) = false → s.sfValid (s.rd SF_FUNC_RST_DI k) = true → x.rst.dem = true →
          s.rd SF_FUNC_DEB k ≤ x.rst.run + 1 → x.pressAt = some p → p + 80000000 ≤ s.elapsed → s.elapsed ≤ p + 4000000000 →
          ∃ t, exec .sfEvaluationCycle s = .next t ∧ t.sfState k = 4 ∧ t.rd SF_STAT_RUN_MASK 0 = 2 ^ k))) ∧
    (∀ s : State, s.Inv → s.fieldMapsOk = true → s.fieldOn = true → s.fd.sfHbAt ≠ 0 → s.fd.sfLost = false →
      s.flag FD_STAT_HOLD 0 = false → s.fd.sfHbAt + 800000 ≤ s.elapsed + 1 →
      ∃ t, exec .sfHeartbeatLoss s = .next t ∧ t.fd.sfLost = true ∧
        ∀ n, n < 24 → (s.sfOwned n = true ∨ s.pulseSrc n = true ∨ s.rd SF_CFG_OTE 0 = n) →
          mget (fun _ => false) t.fd.sfOff n = true ∧ t.flag FD_DO_ON n = false) ∧
    (∀ s : State, s.Inv → s.var ≠ .cpx9616 → s.fieldOn = true → s.tu.running = true →
      (∃ t, exec (.sfDiagnosticFailure 0) s = .next t ∧ t.rd SF_STAT_SEC_CNT 0 = satAdd 65535 (s.rd SF_STAT_SEC_CNT 0) 1) ∧
      (∀ cause, 1 ≤ cause → cause ≤ 4 → s.flag SF_STAT_PFAULT 0 = false →
        ∃ t, exec (.sfDiagnosticFailure cause) s = .next t ∧ t.flag SF_STAT_PFAULT 0 = true ∧ t.rd SF_STAT_PCAUSE 0 = cause ∧
          ⟨0x3904, 3⟩ ∈ t.ec.arrivals ∧ ∀ k, k ∈ s.sfFns → t.sfState k = 5 ∧ t.rd SF_FSTAT_FCAUSE k = 7)) ∧
    (∀ (s : State) (k : Nat), s.Inv → s.fieldMapsOk = true → s.sfOn = true → k < 32 →
      (∀ t0, 1 ≤ s.sfState k → s.sfState k ≤ 4 → (s.sfn k).disc0 = some t0 →
        t0 + s.rd SF_FUNC_DISC_T k * 800000 < s.elapsed →
        ∃ t, exec (.sfDiscrepancyExpiry k) s = .next t ∧ t.sfState k = 5 ∧ t.rd SF_FSTAT_FCAUSE k = 1 ∧
          ⟨0x3902, 2⟩ ∈ t.ec.arrivals) ∧
      (∀ n, n < 24 → s.sfFed n = [k] → s.rd SF_FUNC_TPA k = n → s.pulseSrc n = true → mget (fun _ => 0) s.sf.dark n ≤ s.elapsed →
        20000000 * n + 500000 ≤ s.tu.ns → s.tu.ns < 20000000 * n + 510000 → mget (fun _ => 0) s.sf.pulseSec n ≠ s.tu.sec + 1 → s.rd SF_FUNC_TP_W k ≠ 0 →
        ((s.sfn k).chA.dem = false →
          ∃ t x, exec (.sfTestPulse n) s = .next t ∧ (t.sfn k).testA = some x ∧ x.start = s.elapsed ∧ x.zero = false ∧
            x.pulseEnd = s.elapsed + s.rd SF_FUNC_TP_W k * 8000 ∧ x.stop = x.pulseEnd + s.rd SF_FUNC_TP_REC k * 8000 ∧
            t.flag FD_DO_ON n = false) ∧
        ((s.sfn k).chA.dem = true →
          ∃ t, exec (.sfTestPulse n) s = .next t ∧ t.rd SF_FSTAT_INCONC k = satAdd 65535 (s.rd SF_FSTAT_INCONC k) 1 ∧
            t.rd SF_FSTAT_TEST_A k = 2)) ∧
      (∀ x, (s.sfn k).testA = some x → x.stop ≤ s.elapsed → 1 ≤ s.sfState k → s.sfState k ≤ 4 →
        (x.zero = false → ∃ t, exec (.sfTestWindowEnd k false) s = .next t ∧ t.sfState k = 5 ∧ t.rd SF_FSTAT_FCAUSE k = 2 ∧
          t.rd SF_FSTAT_TEST_A k = 3) ∧
        (x.zero = true → x.other = false → x.reset = false → s.sfRaw (s.rd SF_FUNC_IN_A k) = true →
          ∃ t, exec (.sfTestWindowEnd k false) s = .next t ∧ t.sfState k = s.sfState k ∧ t.rd SF_FSTAT_TEST_A k = 1 ∧
            (t.sfn k).testA = none) ∧
        (x.zero = true → x.other = true → x.reset = false →
          ∃ t, exec (.sfTestWindowEnd k false) s = .next t ∧ t.sfState k = s.sfState k ∧ t.rd SF_FSTAT_TEST_A k = 2 ∧
            t.rd SF_FSTAT_INCONC k = satAdd 65535 (s.rd SF_FSTAT_INCONC k) 1))) ∧
    (∀ (s : State) (n : Nat), s.Inv → s.fieldMapsOk = true → s.sfOn = true → mget (fun _ => 0) s.sf.checks n ≠ 0 →
      mget (fun _ => 0) s.sf.checks n + 3999999 ≤ s.elapsed →
      (s.flag FD_DO_BALL n = false → ∃ t, exec (.sfReadbackCheck n) s = .next t ∧ mget (fun _ => 0) t.sf.checks n = 0 ∧
        t.sf.oteOff = s.sf.oteOff) ∧
      (s.flag FD_DO_BALL n = true → ∃ t, exec (.sfReadbackCheck n) s = .next t ∧ t.sf.oteOff = true ∧
        ⟨0x3903, 2⟩ ∈ t.ec.arrivals ∧ ∀ k, k ∈ s.sfNames n → t.sfState k = 5 ∧
          (s.sfState k ≠ 5 → t.rd SF_FSTAT_FCAUSE k = 4))) ∧
    (∀ s : State, s.Inv → s.fieldMapsOk = true → s.sfOn = true → s.sf.crcDue.isSome = true →
      ∃ t, exec .sfCrcRecompute s = .next t ∧ t.sf.crcDue = none ∧ t.rd SF_CFG_CRC 0 = s.sfCrc ∧
        (s.sfCrc ≠ s.rd SF_CFG_EXP_CRC 0 → ∀ k, k ∈ s.sfFns → t.sfState k = 5 ∧
          (s.sfState k ≠ 5 → t.rd SF_FSTAT_FCAUSE k = 6)))

/-- R463 to R495. -/
def Obligations.LanesPortsFramesStationsAndEthernetAct : Prop :=
  (∀ (prev d : BitVec 64), descramble prev (scramble prev d) = d) ∧
    (∀ (s : State) (lane : Nat) (los : Bool), s.Inv → lane < s.nLane → s.tu.running = true →
      ∃ t, exec (.laneDetectorChange lane los true true) s = .next t ∧ t.flag LN_LANE_LOS lane = los ∧
        ∀ k, k < 4 → t.flag LN_LANE_LOL (lane / 4 * 4 + k) = true) ∧
    (∀ (s : State) (lane : Nat) (los lol : Bool), s.Inv → lane < s.nLane → s.tu.running = true →
      ∃ t, exec (.laneDetectorChange lane los lol false) s = .next t ∧ t.flag LN_LANE_LOS lane = los ∧ t.flag LN_LANE_LOL lane = lol ∧
        (los = true → s.flag LN_LANE_LOS lane = false → t.rd LN_LANE_LOS_CNT lane = satAdd 65535 (s.rd LN_LANE_LOS_CNT lane) 1 ∧
          t.rd LN_LANE_STEP lane = 0 ∧ t.flag LN_LANE_UP lane = false ∧ ⟨0x4001, 1⟩ ∈ t.ec.arrivals)) ∧
    (∀ (s : State) (n step : Nat) (skew : List Nat), s.Inv → s.laneMapsOk = true → s.lanesOn = true →
      (s.laneMay n step = true → ∃ t, exec (.trainingStepReached false n step skew) s = .next t ∧ t.rd LN_LANE_STEP n = step ∧
        (step = 3 → s.rd LN_LANE_PROTO n ≠ 1 → t.flag LN_LANE_UP n = true ∧ t.flag LN_LANE_FAILED n = false)) ∧
      (n < s.nPort → s.portMay n step skew = true →
        ∃ t, exec (.trainingStepReached true n step skew) s = .next t ∧ (t.port n).step = step ∧
          (step = 7 → t.rd RB_PORT_KEPOCH n = (s.rd RB_PORT_KEPOCH n + 1) % 256) ∧
          (step = 8 → ∀ l, l ∈ s.portLanes n → t.flag LN_LANE_UP l = true ∧ t.flag LN_LANE_FAILED l = false)) ∧
      (s.portUsed n = true →
        ((s.port n).step = 5 → (s.port n).capBad = false → (s.port n).stepAt + 800000 < s.elapsed →
          ∃ t, exec (.trainingStepTimeout true n) s = .next t ∧ (t.port n).step = 0 ∧ (t.port n).retryAt = s.elapsed + 8000000) ∧
        ((s.port n).step = 6 → s.firmwareOn = true → (s.port n).stepAt + 400000000 < s.elapsed →
          ∃ t, exec (.trainingStepTimeout true n) s = .next t ∧ (t.port n).step = 6 ∧ (t.port n).auth = 0 ∧
            (t.port n).stepAt = s.elapsed + 800000000) ∧
        ((s.port n).step = 8 → s.mo.mode ≠ .train →
          ∃ t, exec (.portDown n) s = .next t ∧ (t.port n).step = 0 ∧ ⟨0x4102, 2⟩ ∈ t.ec.arrivals ∧
            ∀ l, l ∈ s.portLanes n → t.flag LN_LANE_UP l = false ∧ t.flag LN_LANE_FAILED l = true))) ∧
    (∀ (s : State) (p k sync : Nat) (x : BitVec 64) (ok : Bool), s.Inv → s.laneMapsOk = true → s.lanesOn = true → s.portUsed p = true →
      k < 2 ^ s.rd RB_PORT_BOND p → 3 ≤ s.rd LN_LANE_STEP (s.rd RB_PORT_LANE p + k) → syncOk sync = false →
      ((mget (fun _ => []) s.rb.badSync (s.rd RB_PORT_LANE p + k)).countP id < 15 →
        ∃ t, exec (.renbyFrameReceive p [⟨k, sync, x⟩] ok) s = .next t ∧ (t.port p).frames = [] ∧ (t.port p).step = (s.port p).step ∧
          t.rd LN_LANE_ERR_BLK (s.rd RB_PORT_LANE p + k) = satAdd (2 ^ 32 - 1) (s.rd LN_LANE_ERR_BLK (s.rd RB_PORT_LANE p + k)) 1) ∧
      ((mget (fun _ => []) s.rb.badSync (s.rd RB_PORT_LANE p + k)).countP id = 15 →
        (mget (fun _ => []) s.rb.badSync (s.rd RB_PORT_LANE p + k)).length < 64 →
        s.portOf (s.rd RB_PORT_LANE p + k) = some p →
        ∃ t, exec (.renbyFrameReceive p [⟨k, sync, x⟩] ok) s = .next t ∧ (t.port p).step = 0 ∧
          t.flag LN_LANE_UP (s.rd RB_PORT_LANE p + k) = false ∧ ⟨0x4001, 1⟩ ∈ t.ec.arrivals)) ∧
    (∀ (s : State) (p cls : Nat) (f h ws e : List W32) (bs : List LineBlock), s.Inv → s.laneMapsOk = true → s.lanesOn = true →
      s.portUsed p = true → 5 ≤ (s.port p).step → f = h ++ ws ++ e → h.length = 4 → e.length = 8 → cls < 3 → s.PortReads p →
      s.OnLine p cls f bs →
      (∀ ok, f.length % 2 = 0 → f.length ≠ 2 * (h.getD 0 0).get 10 0 →
        ∃ t, exec (.renbyFrameReceive p bs ok) s = .next t ∧ t.rd RB_PORT_FRAME_ERR p = satAdd 65535 (s.rd RB_PORT_FRAME_ERR p) 1) ∧
      (f.length = 2 * (h.getD 0 0).get 10 0 → f.length ≤ 2304 → (h.getD 0 0).get 31 28 = 1 →
        ((e.getD 2 0).toNat ≠ crc32c (h ++ ws ++ e.take 2) →
          ∃ t, exec (.renbyFrameReceive p bs true) s = .next t ∧ t.rd RB_PORT_CRC_ERR p = satAdd 65535 (s.rd RB_PORT_CRC_ERR p) 1) ∧
        ((e.getD 2 0).toNat = crc32c (h ++ ws ++ e.take 2) → 7 ≤ (s.port p).step →
          (∃ t, exec (.renbyFrameReceive p bs false) s = .next t ∧ t.rd RB_PORT_AUTH_ERR p = satAdd 65535 (s.rd RB_PORT_AUTH_ERR p) 1) ∧
          ((e.getD 3 0).get 7 0 = s.rd RB_PORT_KEPOCH p →
            ((e.getD 0 0).toNat + (e.getD 1 0).toNat * 2 ^ 32 < (s.port p).lctrRx →
              ∃ t, exec (.renbyFrameReceive p bs true) s = .next t ∧ t.rd RB_PORT_REPLAY p = satAdd 65535 (s.rd RB_PORT_REPLAY p) 1) ∧
            ((s.port p).lctrRx ≤ (e.getD 0 0).toNat + (e.getD 1 0).toNat * 2 ^ 32 → (h.getD 0 0).get 23 16 = 0x24 →
              (h.getD 0 0).get 27 26 = 2 → cls = 2 → (h.getD 1 0).get 11 10 = 0 → (h.getD 1 0).get 21 12 ≠ s.localDev →
              (h.getD 1 0).get 31 22 ≠ s.localDev → (h.getD 1 0).get 9 0 ≠ 0 → (h.getD 3 0).get 19 19 = 0 →
              (h.getD 2 0).toNat ∉ mget (fun _ => []) s.rb.seen (frameKey ((h.getD 1 0).get 31 22) 0 ((h.getD 3 0).get 31 20) 2) →
              s.forwardPorts p 0 ((h.getD 1 0).get 21 12) ((h.getD 3 0).get 15 0) ≠ [] →
              ∃ t, exec (.renbyFrameReceive p bs true) s = .next t ∧
                (h.getD 2 0).toNat ∈ mget (fun _ => []) t.rb.seen (frameKey ((h.getD 1 0).get 31 22) 0 ((h.getD 3 0).get 31 20) 2) ∧
                t.rb.fwd = ⟨[h.getD 0 0, h.getD 1 0 - 1, h.getD 2 0, h.getD 3 0].map (·.toNat) ++ ws.map (·.toNat),
                  s.forwardPorts p 0 ((h.getD 1 0).get 21 12) ((h.getD 3 0).get 15 0), s.rb.fwd.count + 1⟩))))) ∧
    (∀ (s : State) (p : Nat) (words : List W32), s.Inv → s.lanesOn = true → s.portUsed p = true →
      (s.port p).step = 5 → words.length = 6 → (words.getD 0 0).get 31 30 = 1 →
      ((words.getD 1 0).get 7 0 = 2 ^ s.rd RB_PORT_BOND p → (words.getD 0 0).get 21 12 ≠ s.localDev →
        ∃ t, exec (.capFrameReceive p words) s = .next t ∧ (t.port p).capOk = true ∧
          t.rd RB_PORT_NDEV p = (words.getD 0 0).get 21 12 ∧ t.rd RB_PORT_NKIND p = 1) ∧
      ((words.getD 1 0).get 7 0 ≠ 2 ^ s.rd RB_PORT_BOND p →
        ∃ t, exec (.capFrameReceive p words) s = .next t ∧ (t.port p).capOk = (s.port p).capOk ∧
          (t.port p).capBad = true ∧ (t.port p).step = 5 ∧ ⟨0x4102, 2⟩ ∈ t.ec.arrivals)) ∧
    (∀ (s : State) (d : Nat), s.Inv → s.laneMapsOk = true → s.lanesOn = true →
      (s.rb.topoAt ≠ s.tai / 1000000 + 1 → s.gridOk 1000000 = true → s.flag RB_CFG_EN 0 = true →
        ∃ t, exec .topoSend s = .next t ∧ t.rb.topoAt = s.tai / 1000000 + 1 ∧
          (mget (fun _ => FrameOut.init) t.rb.sent 1).ports = s.portsUp ∧
          (mget (fun _ => FrameOut.init) t.rb.sent 1).words.getD 4 0 = b2n s.holdover * 8 + s.mo.mode.code) ∧
      ((s.dev d).topoAt ≠ 0 → (s.dev d).lost = false → (s.dev d).topoAt + 2399999 ≤ s.elapsed →
        ((s.dev d).mode ≠ 5 → ∃ t, exec (.deviceUnreachable d) s = .next t ∧ (t.dev d).lost = true ∧ ⟨0x4103, 2⟩ ∈ t.ec.arrivals) ∧
        ((s.dev d).mode = 5 → ∃ t, exec (.deviceUnreachable d) s = .next t ∧ t.dev d = s.dev d ∧
          mget (fun _ => 0) t.rb.seg d = 0))) ∧
    (∀ (s : State) (n : Nat) (x : StnSt), s.Inv → s.laneMapsOk = true → s.lanesOn = true → n < 4096 → s.flag RB_STN_EN n = true →
      s.stn n = x →
      (s.stations = [n] → s.gridOk (s.stnCycle n) = true → x.cur = 0 → s.rd RB_STNST_STATE n ≠ 3 →
        ∃ t, exec .stationCycleBoundary s = .next t ∧ (t.stn n).cur = s.tai / s.stnCycle n * s.stnCycle n + 1 ∧
          (t.stn n).got = false ∧ (t.stn n).out = s.stOut n (s.tai / s.stnCycle n * s.stnCycle n)) ∧
      (∀ words : List W32, 4 ≤ words.length → (words.getD 0 0).get 12 0 = s.rd RB_STN_IN_LEN n →
        ((words.getD 0 0).get 31 30 ≠ 0 → s.rd RB_STNST_STATE n = 1 →
          ∃ t, exec (.stInReceive n words) s = .next t ∧ t.rd RB_STNST_STATE n = 2 ∧
            t.rd RB_STNST_DROPS n = (s.rd RB_STNST_DROPS n + 1) % 2 ^ 32 ∧ ⟨0x4105, 1⟩ ∈ t.ec.arrivals) ∧
        ((words.getD 0 0).get 31 30 = 0 →
          x.cur = s.nearSecond (words.getD 2 0).toNat * 1000000000 + (words.getD 3 0).get 29 0 + 1 →
          (s.rd RB_STNST_STATE n = 1 →
            ∃ t, exec (.stInReceive n words) s = .next t ∧ (t.stn n).got = true ∧ (t.stn n).run = 0 ∧
              t.rd RB_STNST_STATE n = 1 ∧ (t.stn n).inp = (wordsToBytes (words.drop 4)).take (s.rd RB_STN_IN_LEN n)) ∧
          (∀ e c, s.rd RB_STNST_STATE n = 2 → x.enable = some e → e.start + 1 ≤ x.cur → e.cmd = c.ref →
            s.findCmd c.ring c.order = some c → c.undecided = true →
            ∃ t, exec (.stInReceive n words) s = .next t ∧ t.rd RB_STNST_STATE n = 1 ∧ t.Outcome c .ok 0 0 0 0 (some s.now)))) ∧
      (s.rd RB_STNST_STATE n = 1 → x.cur ≠ 0 → x.got = false → x.judged = false → x.cur + s.stnCycle n ≤ s.tai + 1 →
        (x.run + 1 < s.rd RB_STN_MISS n →
          ∃ t, exec (.stationMiss n) s = .next t ∧ t.rd RB_STNST_STATE n = 1 ∧ (t.stn n).run = x.run + 1 ∧
            t.rd RB_STNST_MISSES n = satAdd 65535 (s.rd RB_STNST_MISSES n) 1) ∧
        (s.rd RB_STN_MISS n ≤ x.run + 1 →
          ∃ t, exec (.stationMiss n) s = .next t ∧ t.rd RB_STNST_STATE n = 2 ∧ ⟨0x4105, 1⟩ ∈ t.ec.arrivals)) ∧
      (∀ e c, x.enable = some e → e.cmd = c.ref → s.findCmd c.ring c.order = some c → c.undecided = true → e.deadline ≤ s.elapsed →
        ∃ t, exec (.stationEnableTimeout n) s = .next t ∧ (t.stn n).enable = none ∧ t.Outcome c .noMatch 0 0 0 0 none) ∧
      (∀ ring idx c, s.Ready ring idx c → c.Plain opStationEnable 0 → objUnit c.objid = 0x41 → objGrp c.objid = 3 →
        objInst c.objid = n → s.inMode modesTrain = true →
        (s.rd RB_STNST_STATE n = 2 →
          ∃ t, exec (.stationEnable ring idx) s = .next t ∧ t.Awaits c ∧ (t.stn n).enable = some ⟨c.ref,
            s.tai / s.stnCycle n * s.stnCycle n + s.stnCycle n, s.elapsed + max (100 * s.stnCycle n * 4 / 5) 80000000⟩) ∧
        (s.rd RB_STNST_STATE n = 1 →
          ∃ t, exec (.stationEnable ring idx) s = .next t ∧ t.rb = s.rb ∧ t.Outcome c .ok 0 0 0 0 none))) ∧
    (∀ (s : State) (p bytes : Nat), s.Inv → s.lanesOn = true → s.portUsed p = true →
      ∃ t, exec (.c0LoadWindow p bytes) s = .next t ∧
        t.flag RB_PORT_C0_OVER p = decide (2 ^ s.rd RB_PORT_BOND p * 390625 < bytes * 33) ∧
        (t.flag RB_PORT_C0_OVER p = true → s.flag RB_PORT_C0_OVER p = false → ⟨0x4109, 2⟩ ∈ t.ec.arrivals)) ∧
    (∀ (s : State) (lane type len : Nat) (m : Option PtpFrame), s.Inv → s.laneUsed lane = true → s.rd LN_LANE_PROTO lane ≠ 1 →
      s.flag LN_LANE_UP lane = true → 64 ≤ len → len ≤ 1522 →
      (∃ t, exec (.ethernetFrameReceive lane 0x8808 len m) s = .next t ∧ t.rb.pauses = s.rb.pauses + 1) ∧
      (type ≠ 0x8808 → type ≠ 0x88BA → type ≠ 0x88F7 →
        (s.mo.letClass = 0 → s.mo.mode ≠ .sentinel → s.rb.capQ < 4096 →
          ∃ t, exec (.ethernetFrameReceive lane type len m) s = .next t ∧
            t.rb.capQ = (if s.mo.captain = true then 0 else s.rb.capQ + 1)) ∧
        ((s.mo.letClass ≠ 0 ∨ s.mo.mode = .sentinel ∨ 4096 ≤ s.rb.capQ) →
          ∃ t, exec (.ethernetFrameReceive lane type len m) s = .next t ∧ t.rb.capQ = s.rb.capQ ∧
            t.rd EN_PORT_RX_DROP lane = satAdd 0xFFFFFFFF (s.rd EN_PORT_RX_DROP lane) 1))) ∧
    (∀ s : State, s.Inv → s.lanesOn = true → s.flag EN_GOOSE_EN 0 = true → s.firmwareOn = true → s.mo.mode ≠ .sentinel →
      (s.rb.goose.data ≠ s.gooseData →
        ∃ t, exec .goosePublish s = .next t ∧ t.rb.goose.data = s.gooseData ∧
          t.rb.goose.stNum = (s.rb.goose.stNum + 1) % 2 ^ 32 ∧ t.rb.goose.sqNum = 0 ∧ t.rb.goose.count = s.rb.goose.count + 1) ∧
      (s.rb.goose.data = s.gooseData → s.rb.goose.sentAt ≠ 0 → s.rb.goose.sentAt + s.rb.goose.interval * 800000 ≤ s.elapsed + 1 →
        ∃ t, exec .goosePublish s = .next t ∧ t.rb.goose.stNum = s.rb.goose.stNum ∧
          t.rb.goose.sqNum = (s.rb.goose.sqNum + 1) % 2 ^ 32 ∧
          t.rb.goose.interval = min (2 * s.rb.goose.interval) (s.rd EN_GOOSE_T0 0)))

/-- R500 to R517. -/
def Obligations.TimeUnitSteersStepsLocksAndSendsTime : Prop :=
  (∀ (s : State), s.Inv → s.tu.running = true →
      (∀ (frac : W32) (ns : Nat), ns < 4 → incOk (ns * 2 ^ 32 + frac.toNat) = true →
        ∃ t, exec (.tuIncrementWrite frac ns) s = .next t ∧ t.increment = ns * 2 ^ 32 + frac.toNat ∧ t.tu.adjAt = s.elapsed) ∧
      (∀ (ns : Int) (ms : Nat), slewOk ns ms = true → ms < 65536 →
        ∃ t, exec (.tuSlew ns ms) s = .next t ∧ t.tu.slewing = true ∧ t.tu.slewTotal = ns * 2 ^ 32 ∧ t.tu.slewCycles = ms * 800000 ∧
          t.tu.slewDone = 0 ∧ t.tu.state = (if s.tu.state = .unset then .acquire else s.tu.state)) ∧
      (∀ secs nanos : Int, s.stepAllowed = true → nanos.natAbs ≤ 999999999 →
        ∃ t, exec (.tuStepRequest secs nanos) s = .next t ∧ t.tu.step = some ⟨secs, nanos, none, commitPoint (s.tai + 2000)⟩) ∧
      (s.tu.state ≠ .locked → s.tu.state ≠ .gm →
        ∃ t, exec .tuLock s = .next t ∧ t.tu.state = (if s.rd TU_CFG_ROLE 0 = 1 then .gm else .locked) ∧ t.tu.ever = true ∧
          t.kp.rtcSec = s.tu.sec ∧ t.holdover = false) ∧
      ((s.tu.state = .locked ∨ s.tu.state = .gm ∨ s.tu.state = .acquire) →
        ∃ t, exec .tuHold s = .next t ∧ t.tu.state = .holdover ∧ ⟨0x4301, 1⟩ ∈ t.ec.arrivals) ∧
      ((s.tu.state = .locked ∨ s.tu.state = .gm) →
        (s.tu.adjAt + s.rd TU_CFG_SERVO_TO 0 * 800000 ≤ s.elapsed →
          ∃ t, exec .servoTimeout s = .next t ∧ t.tu.state = .holdover ∧ t.tu.holdSince = s.elapsed ∧ ⟨0x4301, 1⟩ ∈ t.ec.arrivals) ∧
        (s.tu.rtcAt + 48000000000 ≤ s.elapsed →
          ∃ t, exec .rtcSet s = .next t ∧ t.kp.rtcSec = s.tu.sec ∧ t.kp.rtcTick = s.tu.ns * 32768 / 1000000000 ∧
            t.tu.rtcAt = s.elapsed)) ∧
      (∀ r, s.tu.step = some r → r.notBefore ≤ s.tai → 0 ≤ Int.ofNat s.tai + r.secs * 1000000000 + r.nanos →
        ∃ t n, exec .timeStepApply s = .next t ∧ Int.ofNat n = Int.ofNat s.tai + r.secs * 1000000000 + r.nanos ∧
          t.tu.sec = n / 1000000000 % 2 ^ 48 ∧ t.tu.ns = n % 1000000000 ∧ t.tu.step = none ∧ t.tu.state = .acquire ∧
          t.tu.steps = satAdd 0xFFFFFFFF s.tu.steps 1 ∧ ⟨0x4302, 1⟩ ∈ t.ec.arrivals)) ∧
    (∀ s : State, s.Inv → s.tu.slewing = true → s.tu.slewCycles ≤ s.tu.slewDone →
      ∃ t, exec .slewEnd s = .next t ∧ t.tu.slewing = false ∧ t.now = s.now) ∧
    (∀ (s : State) (p : Nat), s.Inv → s.lanesOn = true → p ∈ s.portsUp →
      (s.tu.syncIdx ≠ s.tai * 2 ^ s.rd TU_CFG_RB_SYNC 0 / 1000000000 + 1 → s.gridOk (1000000000 / 2 ^ s.rd TU_CFG_RB_SYNC 0) = true →
        s.rd TU_PORT_PSTATE p = 1 →
        ∃ t m, exec .syncSend s = .next t ∧ mget (fun _ => none) t.tu.ptpTx (p * 16) = some m ∧ m.kind = 0 ∧ m.time = s.taiPs ∧
          m.port = p + 1 ∧ m.domain = s.rd TU_CFG_DOMAIN 0 ∧ m.identity = s.serial) ∧
      (s.tu.pdIdx ≠ s.tai / 62500000 + 1 → s.gridOk 62500000 = true →
        ∃ t m, exec .pdelayReqSend s = .next t ∧ mget (fun _ => none) t.tu.ptpTx (p * 16 + 2) = some m ∧ m.kind = 2 ∧
          m.time = s.taiPs ∧ m.port = p + 1) ∧
      (∀ states : List Nat, s.firmwareOn = true → s.tu.annIdx ≠ s.tu.sec + 1 → states.getD p 0 = 1 →
        ∃ t m, exec (.announceSend states) s = .next t ∧ t.rd TU_PORT_PSTATE p = 1 ∧
          mget (fun _ => none) t.tu.ptpTx (p * 16 + 11) = some m ∧ m.kind = 11 ∧ m.cls = t.clockClass) ∧
      (∀ m : PtpFrame, m.kind = 2 → m.domain = s.rd TU_CFG_DOMAIN 0 →
        ∃ t x, exec (.timeFrameReceive p m) s = .next t ∧ t.ptpLast p 3 = some x ∧ x.kind = 3 ∧ x.seq = m.seq ∧ x.time = s.taiPs) ∧
      (∀ m : PtpFrame, m.kind = 0 → m.domain = s.rd TU_CFG_DOMAIN 0 → s.rd TU_PORT_PSTATE p = 2 →
        (s.syncOffset p m).natAbs < 20000 → s.tu.syncRun = 15 → s.firmwareOn = true →
        s.flag TU_CFG_SERVO 0 = false → s.rd TU_CFG_ROLE 0 = 0 → s.tu.state = .acquire →
        ∃ t, exec (.timeFrameReceive p m) s = .next t ∧ t.tu.state = .locked ∧ t.tu.offset = s.syncOffset p m) ∧
      (∀ (m : PtpFrame) (q : PtpMsg) (v : Int) (h : List Int), m.kind = 3 → m.domain = s.rd TU_CFG_DOMAIN 0 →
        s.ptpLast p 2 = some q → q.seq = m.seq → v = (m.ingress - Int.ofNat q.time - m.origin) / 2 →
        mget (fun _ => []) s.tu.pdHist p = h → h.length = 2 → pdAgree (v :: h) = true →
        ∃ t, exec (.timeFrameReceive p m) s = .next t ∧ t.flag TU_PORT_PD_OK p = true ∧
          t.rd TU_PORT_MPD p = toSigned 32 v) ∧
      (∀ m : PtpFrame, m.kind = 11 → m.domain = s.rd TU_CFG_DOMAIN 0 → mget (fun _ => []) s.tu.announce p = [] →
        ∃ t, exec (.timeFrameReceive p m) s = .next t ∧
          mget (fun _ => []) t.tu.announce p = [m.clockClass, m.identity] ∧ mget (fun _ => 0) t.tu.annAt p = s.elapsed + 1 ∧
          (s.rd TU_PORT_PSTATE p = 2 → s.firmwareOn = true → s.rd TU_CFG_ROLE 0 = 0 →
            t.rd TU_CFG_UTC_OFS 0 = toSigned 16 m.utc)) ∧
      (∀ states : List Nat, s.slavePort = some p → s.firmwareOn = true → s.flag TU_CFG_SERVO 0 = false → s.tu.state = .locked →
        mget (fun _ => 0) s.tu.annAt p + 2399999999 ≤ s.elapsed →
        ∃ t, exec (.announceReceiptTimeout states) s = .next t ∧ t.tu.state = .holdover ∧
          t.rd TU_PORT_PSTATE p = states.getD p 0 % 4)) ∧
    (∀ (s : State) (lane len : Nat) (m : PtpFrame), s.Inv → s.laneUsed lane = true → s.rd LN_LANE_PROTO lane ≠ 1 →
      s.flag LN_LANE_UP lane = true → 64 ≤ len → len ≤ 1522 → s.firmwareOn = true → m.domain = 0 →
      mapOk (fun _ => 0) s.tu.ethDelay = true → mapOk (fun _ => none) s.tu.ethHalf = true →
      (s.tu.ethParent = some (lane, m.identity) →
        (m.kind = 0 → m.twoStep = false → (m.ingress - m.origin - mget (fun _ => 0) s.tu.ethDelay lane).natAbs < 20000 →
          s.tu.syncRun = 15 → s.flag TU_CFG_SERVO 0 = false → s.rd TU_CFG_ROLE 0 = 0 → s.tu.state = .acquire →
          ∃ t, exec (.ethernetFrameReceive lane 0x88F7 len (some m)) s = .next t ∧ t.tu.state = .locked) ∧
        (m.kind = 0 → m.twoStep = true →
          ∃ t, exec (.ethernetFrameReceive lane 0x88F7 len (some m)) s = .next t ∧ t.ethHalfOf lane 0 m.seq = some (m.ingress, 0) ∧
            t.tu.offset = s.tu.offset) ∧
        (∀ g x, m.kind = 8 → s.ethHalfOf lane 0 m.seq = some (g, x) →
          ∃ t, exec (.ethernetFrameReceive lane 0x88F7 len (some m)) s = .next t ∧ t.ethHalfOf lane 0 m.seq = none ∧
            t.tu.offset = g - m.origin - mget (fun _ => 0) s.tu.ethDelay lane)) ∧
      (m.kind = 2 →
        ∃ t x y, exec (.ethernetFrameReceive lane 0x88F7 len (some m)) s = .next t ∧ t.ptpLast (256 + lane) 3 = some x ∧
          t.ptpLast (256 + lane) 10 = some y ∧ x.seq = m.seq ∧ y.seq = m.seq ∧ x.time = s.taiPs) ∧
      (∀ d, m.kind = 3 → m.twoStep = false → s.peerDelay (256 + lane) m.seq m.ingress m.origin = some d →
        ∃ t, exec (.ethernetFrameReceive lane 0x88F7 len (some m)) s = .next t ∧ mget (fun _ => 0) t.tu.ethDelay lane = d) ∧
      (∀ g c d, m.kind = 10 → s.ethHalfOf lane 3 m.seq = some (g, c) →
        s.peerDelay (256 + lane) m.seq g (m.origin - c) = some d →
        ∃ t, exec (.ethernetFrameReceive lane 0x88F7 len (some m)) s = .next t ∧ mget (fun _ => 0) t.tu.ethDelay lane = d ∧
          t.ethHalfOf lane 3 m.seq = none) ∧
      (m.kind = 11 → m.best = true →
        ∃ t, exec (.ethernetFrameReceive lane 0x88F7 len (some m)) s = .next t ∧ t.tu.ethParent = some (lane, m.identity) ∧
          t.slavePort = none ∧ (s.rd TU_CFG_ROLE 0 = 0 → t.rd TU_CFG_UTC_OFS 0 = toSigned 16 m.utc)))

/-- R521 to R535. -/
def Obligations.IdentityOwnershipOpeningAndTamperAct : Prop :=
  (∀ (s : State) (ring idx : Nat) (c : Cmd), s.Inv → s.Ready ring idx c →
      (c.Plain opAuthChallenge 0 → s.inMode modesAll = true → s.openedLike = false → (s.authOf c.master).blockedUntil ≤ s.elapsed →
        ∀ n0 n1 n2 n3 : W32, ∃ t, exec (.authChallenge ring idx [n0, n1, n2, n3]) s = .next t ∧
          t.Outcome c .ok n0.toNat n1.toNat n2.toNat n3.toNat (some s.now) ∧
          (t.authOf c.master).nonce = some ([n0, n1, n2, n3], s.elapsed)) ∧
      (∀ (ok : Bool) (h : Nat), s.handleOk h = true → s.inMode modesAll = true → s.openedLike = false →
        (c.Plain opAuthResponse 48 → c.part ≤ 1 →
          ∃ t, exec (.authResponse ring idx ok h) s = .next t ∧ t.Outcome c .ok 0 0 0 0 (some s.now) ∧
            (c.part, c.pars 1) ∈ (t.authOf c.master).parts) ∧
        (∀ n, c.Plain opAuthResponse 12 → c.part = 2 → (s.authOf c.master).nonce = some n → s.elapsed ≤ n.2 + 24000000000 →
          (s.authOf c.master).parts.any (fun e => e.1 == 0) = true → (s.authOf c.master).parts.any (fun e => e.1 == 1) = true →
          (ok = true → ∃ t, exec (.authResponse ring idx ok h) s = .next t ∧ t.Outcome c .ok h 0 0 0 (some s.now) ∧
            (t.authOf c.master).session = h ∧ (t.authOf c.master).nonce = none) ∧
          (ok = false → ∃ t, exec (.authResponse ring idx ok h) s = .next t ∧ t.Outcome c .authFail 0 0 0 0 none ∧
            (t.authOf c.master).session = (s.authOf c.master).session ∧ (t.authOf c.master).nonce = none))) ∧
      (c.Plain opAuthEnd 0 → s.inMode modesAll = true → c.session ≠ 0 → (s.authOf c.master).session = c.session →
        ∃ t, exec (.authEnd ring idx) s = .next t ∧ t.Outcome c .ok 0 0 0 0 (some s.now) ∧ (t.authOf c.master).session = 0) ∧
      (∀ hashes : List W32, c.WithBuffer opAttest 1 32 → 4096 ≤ c.bufLen → s.inMode modesAll = true → s.openedLike = false → s.bufReach c = true →
        ∃ t, exec (.attest ring idx hashes true) s = .next t ∧ t.Outcome c .ok 356 s.sc.devCertLen 0 0 (some s.now) ∧
          t.mb.lastDma = some ⟨c.bufLoc, c.bufAddr, s.report (c.pars 0) hashes ++ s.sc.devCert⟩) ∧
      (∀ (adopt : Bool) (cert : List W32), c.WithBuffer opOwnerTransfer 0 0 → s.inMode modesCs = true → s.openedLike = false →
        s.bufReach c = true →
        (s.sc.owned = true → s.authorized c = true) →
        ∃ t, exec (.ownerTransfer ring idx (some (s.serial, s.sc.ownCnt + 1, adopt)) cert true) s = .next t ∧
          t.Outcome c .ok 0 0 0 0 (some s.now) ∧ t.sc.owned = true ∧ t.sc.ownerCert = cert ∧ t.sc.ownCnt = s.sc.ownCnt + 1 ∧
          t.sc.cfgSvn = 0 ∧ t.sc.authA.session = 0 ∧ t.sc.authB.session = 0 ∧ t.sc.authHp.session = 0 ∧
          (adopt = false → t.mb.committed = none)) ∧
      (∀ nonce : List W32, c.WithBuffer opUnlock 1 4 → (c.par 0).get 1 0 = 0 → 48 ≤ c.bufLen → s.inMode modesAll = true →
        nonce.length = 12 → s.bufReach c = true →
        ∃ t, exec (.unlockNonce ring idx nonce true) s = .next t ∧ t.Outcome c .ok 0 0 0 0 (some s.now) ∧
          t.sc.unlockNonce = some (nonce, s.elapsed) ∧ t.mb.lastDma = some ⟨c.bufLoc, c.bufAddr, nonce⟩) ∧
      (∀ (w : List W32) (h : Nat), s.handleOk h = true → c.WithBuffer opUnlock 0 4 → (c.par 0).get 1 0 = 1 →
        s.inMode modesAll = true → s.openedLike = false → s.tokenOk 1 c.bufLen w = true → s.sc.openCnt < 16 →
        s.bufReach c = true →
        ∃ t, exec (.unlockOpen ring idx (some w) true h) s = .next t ∧ t.Outcome c .ok h 0 0 0 (some s.now) ∧
          t.sc.openCnt = s.sc.openCnt + 1 ∧ t.sc.secrets = false ∧ t.sc.marker = false ∧ t.sc.ownCnt = 0 ∧ t.sc.ownerCert = [] ∧
          t.sc.debugEnabled = true ∧ t.sc.debugSession = h ∧ t.sc.unlockNonce = none ∧ t.sc.authA.session = 0 ∧
          ⟨0x4802, 2⟩ ∈ t.ec.arrivals ∧ (s.mo.mode = .run → s.mo.pend = none → t.mo.pend = some .commission)) ∧
      (∀ request : List W32, c.WithBuffer opUnlock 1 4 → (c.par 0).get 1 0 = 2 → 4 * request.length ≤ c.bufLen →
        s.inMode modesAll = true → s.sc.tamper = true → s.bufReach c = true →
        ∃ t, exec (.unlockReprovisionRequest ring idx request true) s = .next t ∧ t.Outcome c .ok 0 0 0 0 (some s.now) ∧
          t.sc.newKey = true ∧ t.mb.lastDma = some ⟨c.bufLoc, c.bufAddr, request⟩) ∧
      (∀ w : List W32, c.WithBuffer opUnlock 0 4 → (c.par 0).get 1 0 = 3 → s.inMode modesAll = true →
        s.tokenOk 2 c.bufLen w = true → s.sc.newKey = true → s.bufReach c = true →
        ∃ t, exec (.unlockProvision ring idx (some w) true true) s = .next t ∧ t.Outcome c .ok 0 0 0 0 (some s.now) ∧
          t.sc.provCnt = s.sc.openCnt ∧ t.opened = false ∧ t.sc.tamper = false ∧ t.sc.owned = false ∧ t.sc.debugSession = 0) ∧
      (∀ svn maj min : Nat, c.WithBuffer opFwUpdate 0 0 → s.inMode modesCs = true → (s.authorized c = true ∨ s.openedLike = true) →
        s.sc.fwSvn ≤ svn → svn ≤ 63 → 1 ≤ maj → maj ≤ 15 → s.bufReach c = true →
        ∃ t, exec (.fwUpdate ring idx (some (svn, maj, min)) true) s = .next t ∧ t.Outcome c .ok 0 0 0 0 (some s.now) ∧
          t.sc.fwPend = true ∧
          (s.sc.fwSlot = true → t.sc.slotA = some ⟨svn, maj, min⟩ ∧ t.sc.slotB = s.sc.slotB) ∧
          (s.sc.fwSlot = false → t.sc.slotB = some ⟨svn, maj, min⟩ ∧ t.sc.slotA = s.sc.slotA))) ∧
    (∀ (s : State) (p : Nat) (words : List W32), s.Inv → s.laneMapsOk = true → s.lanesOn = true → s.firmwareOn = true →
      s.portUsed p = true → (s.port p).step = 6 → (s.port p).stepAt ≤ s.elapsed →
      (words.getD 0 0).get 31 24 = 1 → s.sc.secrets = true →
      (∃ t, exec (.authFrameReceive p words 0) s = .next t ∧ natBit (t.port p).auth 0 = true ∧ (t.port p).step = 6) ∧
      (∀ v, v ≠ 0 → ∃ t, exec (.authFrameReceive p words v) s = .next t ∧ (t.port p).auth = 0 ∧
        (t.port p).stepAt = s.elapsed + 800000000)) ∧
    (∀ (s : State) (cause : Nat), s.Inv → 1 ≤ cause → cause ≤ 3 → s.mo.vddKeep = true →
      ∃ t, exec (.keyTamper cause) s = .next t ∧ t.sc.tamper = true ∧ t.sc.secrets = false ∧ t.openedLike = true ∧
        t.sc.openCnt = s.sc.openCnt ∧ t.sc.authA.session = 0 ∧ t.sc.authB.session = 0 ∧ t.sc.authHp.session = 0 ∧
        (s.mo.mode ≠ .keeper → ⟨0x4804, 3⟩ ∈ t.ec.arrivals)) ∧
    (∀ (s : State) (code : Nat), s.Inv →
      ∃ t, exec (.jtagInstruction code) s = .next t ∧ t.sc.jtag = jtagOf code ∧
        (3 ≤ code → code ≤ 5 → t.jtagActs = if s.mo.resetN then .bypass else jtagOf code))
end

