-- ==== Sys2Proof/Laws/Map.lean ====
section
/-! SUPPORT. Sparse tables: what reading after writing gives, and that every operation keeps the canonical form. -/

namespace Sys2Proof.Machine

variable {α : Type} [DecidableEq α] {d : Nat → α}

theorem mapOkFrom_mono {lo lo' : Nat} (h : lo' ≤ lo) : ∀ {m : AMap α}, mapOkFrom d lo m = true → mapOkFrom d lo' m = true
  | [], _ => rfl
  | (k, v) :: t, hm => by
    simp only [mapOkFrom, Bool.and_eq_true, decide_eq_true_eq] at hm ⊢
    exact ⟨⟨by omega, hm.1.2⟩, hm.2⟩

/-- A key below every listed key reads as unlisted. -/
theorem mget_below {lo k : Nat} (h : k < lo) : ∀ {m : AMap α}, mapOkFrom d lo m = true → mget d m k = d k
  | [], _ => rfl
  | (k', v) :: t, hm => by
    simp only [mapOkFrom, Bool.and_eq_true, decide_eq_true_eq] at hm
    have h1 : k ≠ k' := by omega
    have h2 : k < k' := by omega
    simp [mget, h1, h2]

omit [DecidableEq α] in
theorem mget_cons (k : Nat) (v : α) (t : AMap α) (j : Nat) :
    mget d ((k, v) :: t) j = if j = k then v else if j < k then d j else mget d t j := rfl

/-- Writing keeps the canonical form. -/
theorem mset_okFrom (k : Nat) (v : α) : ∀ {lo : Nat} {m : AMap α}, lo ≤ k → mapOkFrom d lo m = true →
    mapOkFrom d lo (mset d k v m) = true
  | lo, [], hk, _ => by
    unfold mset
    split
    · rfl
    · simp only [mapOkFrom, Bool.and_eq_true, decide_eq_true_eq]; exact ⟨⟨hk, ‹_›⟩, trivial⟩
  | lo, (k', v') :: t, hk, hm => by
    have hm' := hm
    simp only [mapOkFrom, Bool.and_eq_true, decide_eq_true_eq] at hm'
    unfold mset
    split
    · split
      · exact mapOkFrom_mono (by omega) hm'.2
      · simp only [mapOkFrom, Bool.and_eq_true, decide_eq_true_eq]
        subst_vars
        exact ⟨⟨hk, ‹_›⟩, hm'.2⟩
    · split
      · split
        · exact hm
        · simp only [mapOkFrom, Bool.and_eq_true, decide_eq_true_eq]
          exact ⟨⟨hk, ‹_›⟩, ⟨by omega, hm'.1.2⟩, hm'.2⟩
      · simp only [mapOkFrom, Bool.and_eq_true, decide_eq_true_eq]
        exact ⟨hm'.1, mset_okFrom k v (by omega) hm'.2⟩

theorem mset_ok {k : Nat} {v : α} {m : AMap α} (h : mapOk d m = true) : mapOk d (mset d k v m) = true :=
  mset_okFrom k v (Nat.zero_le k) h

/-- A write leaves every other key alone, in any table. -/
theorem mget_mset_ne {k j : Nat} (v : α) (hj : j ≠ k) : ∀ (m : AMap α) {lo : Nat}, mapOkFrom d lo m = true →
    mget d (mset d k v m) j = mget d m j
  | [], _, _ => by
    unfold mset
    split
    · rfl
    · simp [mget, hj]
  | (k', v') :: t, lo, hm => by
    have hm' := hm
    simp only [mapOkFrom, Bool.and_eq_true, decide_eq_true_eq] at hm'
    unfold mset
    split
    · next hkk =>
      subst hkk
      split
      · by_cases hlt : j < k
        · rw [mget_below (lo := k + 1) (by omega) hm'.2, mget_cons, if_neg hj, if_pos hlt]
        · rw [mget_cons, if_neg hj, if_neg hlt]
      · rw [mget_cons, mget_cons]; simp [hj]
    · split
      · split
        · rfl
        · rw [mget_cons, if_neg hj]
          by_cases hlt : j < k
          · rw [if_pos hlt, mget_cons, if_neg (by omega), if_pos (by omega)]
          · rw [if_neg hlt]
      · rw [mget_cons, mget_cons, mget_mset_ne v hj t hm'.2]

/-- A write reads back. -/
theorem mget_mset_same (k : Nat) (v : α) : ∀ (m : AMap α) {lo : Nat}, mapOkFrom d lo m = true →
    mget d (mset d k v m) k = v
  | [], _, _ => by
    unfold mset
    split
    · next h => simp [mget, h]
    · simp [mget]
  | (k', v') :: t, lo, hm => by
    have hm' := hm
    simp only [mapOkFrom, Bool.and_eq_true, decide_eq_true_eq] at hm'
    unfold mset
    split
    · next hkk =>
      subst hkk
      split
      · next h => rw [mget_below (lo := k + 1) (by omega) hm'.2, h]
      · simp [mget]
    · split
      · split
        · next h => rw [mget_cons, if_neg (by assumption), if_pos (by assumption), h]
        · simp [mget]
      · rw [mget_cons, if_neg (by assumption), if_neg (by assumption), mget_mset_same k v t hm'.2]

/-- Every table keeps its canonical form under a filter. -/
theorem filter_okFrom (p : Nat × α → Bool) : ∀ {lo : Nat} {m : AMap α}, mapOkFrom d lo m = true →
    mapOkFrom d lo (m.filter p) = true
  | _, [], _ => rfl
  | lo, (k, v) :: t, hm => by
    have hm' := hm
    simp only [mapOkFrom, Bool.and_eq_true, decide_eq_true_eq] at hm'
    have ht := filter_okFrom p hm'.2
    rw [List.filter_cons]
    split
    · simp only [mapOkFrom, Bool.and_eq_true, decide_eq_true_eq]; exact ⟨hm'.1, ht⟩
    · exact mapOkFrom_mono (by omega) ht

theorem filter_ok {p : Nat × α → Bool} {m : AMap α} (h : mapOk d m = true) : mapOk d (m.filter p) = true :=
  filter_okFrom p h

/-- A filter that keeps every entry of a key leaves what it reads. -/
theorem mget_filter {p : Nat × α → Bool} {k : Nat} (hp : ∀ v, p (k, v) = true) : ∀ {lo : Nat} {m : AMap α},
    mapOkFrom d lo m = true → mget d (m.filter p) k = mget d m k
  | _, [], _ => rfl
  | lo, (k', v) :: t, hm => by
    simp only [mapOkFrom, Bool.and_eq_true, decide_eq_true_eq] at hm
    have ht := mget_filter hp hm.2
    have hf := filter_okFrom (d := d) p hm.2
    rw [List.filter_cons]
    split
    · rw [mget_cons, mget_cons, ht]
    · next hn =>
      have hne : k ≠ k' := by
        rintro rfl
        exact hn (hp v)
      rw [mget_cons, if_neg hne, ht]
      split
      · next hlt => exact mget_below (lo := k' + 1) (by omega) hm.2
      · rfl

end Sys2Proof.Machine
end

