-- ==== Sys2Proof/Laws/Frame.lean ====
section
/-! SUPPORT. What a piece of a command may change: a relation between the state before and after, with the set of kinds
of state (a bit mask over `Part.bit`) outside which nothing differs, and its laws of composition. -/

namespace Sys2Proof.Machine

open Sys2Proof

/-- From a good state, nothing outside the set `m` differs afterwards, the state is good again, and no fuse is
unblown. -/
def Moves (m : Nat) (s t : State) : Prop :=
  s.Inv → t.Inv ∧ (∀ p : Part, m.testBit p.bit = false → p.kept s t)
    ∧ s.sc.openCnt ≤ t.sc.openCnt ∧ s.sc.provCnt ≤ t.sc.provCnt ∧ s.sc.fwSvn ≤ t.sc.fwSvn

/-- A meaning's answer is a next state that `Moves` allows. -/
def ResMoves (m : Nat) (s : State) (r : Res) : Prop := ∃ t, r = .next t ∧ Moves m s t

/-- One mask lies in another. -/
def sub (k m : Nat) : Bool := Nat.land k m == k

theorem Part.kept_refl (p : Part) (s : State) : p.kept s s := by
  cases p <;> simp [Part.kept]
  exact fun c hc _ => hc

theorem Part.kept_trans {p : Part} {a b c : State} (h1 : p.kept a b) (h2 : p.kept b c) : p.kept a c := by
  cases p
  case handed => exact fun u => (h1 u).trans (h2 u)
  case errors => exact List.IsPrefix.trans h1 h2
  all_goals simp_all [Part.kept]

theorem Moves.refl {m : Nat} {s : State} : Moves m s s := fun h =>
  ⟨h, fun p _ => p.kept_refl s, Nat.le_refl _, Nat.le_refl _, Nat.le_refl _⟩

theorem Moves.trans {m : Nat} {a b c : State} (h1 : Moves m a b) (h2 : Moves m b c) : Moves m a c := fun h => by
  obtain ⟨i1, k1, o1, p1, f1⟩ := h1 h
  obtain ⟨i2, k2, o2, p2, f2⟩ := h2 i1
  exact ⟨i2, fun p hp => Part.kept_trans (k1 p hp) (k2 p hp), by omega, by omega, by omega⟩

theorem sub_bit {k m i : Nat} (h : sub k m = true) (hm : m.testBit i = false) : k.testBit i = false := by
  have h1 : k &&& m = k := by simpa [sub] using h
  have h2 := congrArg (fun x => x.testBit i) h1
  simp only [Nat.testBit_and, hm, Bool.and_false] at h2
  exact h2.symm

theorem Moves.mono {k m : Nat} {a b : State} (h : sub k m = true) (h1 : Moves k a b) : Moves m a b := fun hi => by
  obtain ⟨i1, k1, r⟩ := h1 hi
  exact ⟨i1, fun p hp => k1 p (sub_bit h hp), r⟩

theorem Moves.foldl {m : Nat} {α : Type} {f : State → α → State} {s s0 : State} {l : List α} (h0 : Moves m s s0)
    (hf : ∀ st a, Moves m st (f st a)) : Moves m s (l.foldl f s0) := by
  induction l generalizing s0 with
  | nil => exact h0
  | cons a t ih => exact ih (h0.trans (hf s0 a))

theorem ResMoves.next {m : Nat} {s t : State} (h : Moves m s t) : ResMoves m s (.next t) := ⟨t, rfl, h⟩

/-- An update that leaves the registers and the fuses alone. -/
theorem Moves.upd {m : Nat} {s x y : State} (h : Moves m s x) (hk : ∀ p : Part, m.testBit p.bit = false → p.kept x y)
    (hr : y.regs = x.regs) (hq : y.ev.fifo = x.ev.fifo) (ho : y.sc.openCnt = x.sc.openCnt) (hp : y.sc.provCnt = x.sc.provCnt)
    (hf : y.sc.fwSvn = x.sc.fwSvn) : Moves m s y :=
  h.trans fun hi => ⟨⟨by simpa [State.regsOk, hr] using hi.1, by simpa [State.fifosOk, hq] using hi.2.1, by rw [ho, hp]; exact hi.2.2⟩, hk,
    Nat.le_of_eq ho.symm, Nat.le_of_eq hp.symm, Nat.le_of_eq hf.symm⟩

theorem regKey_unit (u g i w : Nat) : regKey u g i w / 2 ^ 36 = u := by
  unfold regKey
  omega

/-- Storing a word of a unit. -/
theorem Moves.putKey {m : Nat} {s x : State} {k : Nat} {v : W32} (h : Moves m s x) (hm : m.testBit (Part.regs (k / 2 ^ 36)).bit = true) :
    Moves m s { x with regs := mset regDefault k v x.regs } :=
  h.trans fun hi => ⟨⟨mset_ok hi.1, hi.2⟩, fun p hp => by
    cases p <;> first | rfl | exact ⟨rfl, rfl⟩ | exact ⟨rfl, rfl, rfl⟩ | exact ⟨rfl, rfl, rfl, rfl⟩ | exact fun _ => List.prefix_rfl | exact List.prefix_rfl | exact fun _ h _ => h | skip
    next u =>
      intro j hj
      have hne : j ≠ k := by
        rintro rfl
        rw [hj] at hm
        exact absurd (hm.symm.trans hp) (by decide)
      exact (mget_mset_ne v hne x.regs hi.1).symm, Nat.le_refl _, Nat.le_refl _, Nat.le_refl _⟩

theorem Moves.putWord {m : Nat} {s x : State} {u g i w : Nat} {v : W32} (h : Moves m s x) (hm : m.testBit (Part.regs u).bit = true) :
    Moves m s (x.putWord u g i w v) := h.putKey (by rw [regKey_unit]; exact hm)

/-- A filter that keeps a unit's words leaves them reading as before. -/
theorem regs_filter {f : AMap W32} {p : Nat × W32 → Bool} {u : Nat} (h : mapOk regDefault f = true)
    (hp : ∀ k, k / 2 ^ 36 = u → ∀ v, p (k, v) = true) :
    ∀ k, k / 2 ^ 36 = u → mget regDefault f k = mget regDefault (f.filter p) k := by
  intro k hk
  exact (mget_filter (hp k hk) h).symm

/-- Every unit's registers are in the set. -/
def allRegs (m : Nat) : Bool := m.testBit 31 && unitNumbers.all (fun u => m.testBit (32 + u))

theorem allRegs_bit {m : Nat} (h : allRegs m = true) (u : Nat) : m.testBit (Part.regs u).bit = true := by
  simp only [allRegs, Bool.and_eq_true, List.all_eq_true] at h
  simp only [Part.bit]
  split
  · next hu => exact h.2 u (by simpa using hu)
  · exact h.1

theorem Moves.wrk {m : Nat} {s x : State} {f : Field} {i k v : Nat} (h : Moves m s x) (hm : m.testBit (Part.regs f.unit).bit = true) :
    Moves m s (x.wrk f i k v) := h.putWord hm

theorem Moves.wr {m : Nat} {s x : State} {f : Field} {i v : Nat} (h : Moves m s x) (hm : m.testBit (Part.regs f.unit).bit = true) :
    Moves m s (x.wr f i v) := h.putWord hm

theorem Moves.setFlag {m : Nat} {s x : State} {f : Field} {i : Nat} {b : Bool} (h : Moves m s x)
    (hm : m.testBit (Part.regs f.unit).bit = true) : Moves m s (x.setFlag f i b) := h.putWord hm

theorem Moves.bump {m : Nat} {s x : State} {f : Field} {i n : Nat} (h : Moves m s x) (hm : m.testBit (Part.regs f.unit).bit = true) :
    Moves m s (x.bump f i n) := h.putWord hm

theorem Moves.wrapInc {m : Nat} {s x : State} {f : Field} {i n : Nat} (h : Moves m s x)
    (hm : m.testBit (Part.regs f.unit).bit = true) : Moves m s (x.wrapInc f i n) := h.putWord hm

/-! One update of one component. -/

theorem Moves.moKeep {m : Nat} {s x : State} {e} (h : Moves m s x) (hm : m.testBit 7 = true) (h1 : e.mode = x.mo.mode) (h2 : e.prev = x.mo.prev) (h3 : e.cause = x.mo.cause)
    (h4 : e.entry = x.mo.entry) :
    Moves m s { x with mo := e } :=
  h.upd (fun p hp => by cases p <;> first | rfl | exact ⟨rfl, rfl⟩ | exact ⟨rfl, rfl, rfl⟩ | exact ⟨h1.symm, h2.symm, h3.symm, h4.symm⟩ | exact ⟨rfl, rfl, rfl, rfl⟩ | exact fun _ => List.prefix_rfl | exact List.prefix_rfl | exact fun _ h _ => h | exact fun _ _ => rfl | exact absurd (hm.symm.trans hp) (by decide)) rfl rfl rfl rfl rfl

theorem Moves.mo {m : Nat} {s x : State} {e} (h : Moves m s x) (hm : m.testBit 7 = true) (hx : m.testBit 300 = true) :
    Moves m s { x with mo := e } :=
  h.upd (fun p hp => by cases p <;> first | rfl | exact ⟨rfl, rfl⟩ | exact ⟨rfl, rfl, rfl⟩ | exact ⟨rfl, rfl, rfl, rfl⟩ | exact fun _ => List.prefix_rfl | exact List.prefix_rfl | exact fun _ h _ => h | exact fun _ _ => rfl | exact absurd (hm.symm.trans hp) (by decide) | exact absurd (hx.symm.trans hp) (by decide)) rfl rfl rfl rfl rfl

theorem Moves.kp {m : Nat} {s x : State} {e} (h : Moves m s x) (hm : m.testBit 8 = true) :
    Moves m s { x with kp := e } :=
  h.upd (fun p hp => by cases p <;> first | rfl | exact ⟨rfl, rfl⟩ | exact ⟨rfl, rfl, rfl⟩ | exact ⟨rfl, rfl, rfl, rfl⟩ | exact fun _ => List.prefix_rfl | exact List.prefix_rfl | exact fun _ h _ => h | exact fun _ _ => rfl | exact absurd (hm.symm.trans hp) (by decide)) rfl rfl rfl rfl rfl

theorem Moves.tu {m : Nat} {s x : State} {e} (h : Moves m s x) (hm : m.testBit 9 = true) :
    Moves m s { x with tu := e } :=
  h.upd (fun p hp => by cases p <;> first | rfl | exact ⟨rfl, rfl⟩ | exact ⟨rfl, rfl, rfl⟩ | exact ⟨rfl, rfl, rfl, rfl⟩ | exact fun _ => List.prefix_rfl | exact List.prefix_rfl | exact fun _ h _ => h | exact fun _ _ => rfl | exact absurd (hm.symm.trans hp) (by decide)) rfl rfl rfl rfl rfl

theorem Moves.mb {m : Nat} {s x : State} {e} (h : Moves m s x) (hm : m.testBit 10 = true)
    (h1 : (m.testBit 301 = true ∧ m.testBit 304 = true ∧ m.testBit 306 = true) ∨ e.inflight = x.mb.inflight)
    (h2 : m.testBit 305 = true ∨ (e.staged = x.mb.staged ∧ e.committed = x.mb.committed ∧ e.older = x.mb.older)) :
    Moves m s { x with mb := e } :=
  h.upd (fun p hp => by
    cases p
    case mb => exact absurd (hm.symm.trans hp) (by decide)
    case flight =>
      rcases h1 with ⟨hx, _⟩ | h1
      · exact absurd (hx.symm.trans hp) (by decide)
      · exact congrArg (List.map _) h1.symm
    case phases =>
      rcases h1 with ⟨_, hy, _⟩ | h1
      · exact absurd (hy.symm.trans hp) (by decide)
      · exact h1.symm
    case outcomes =>
      rcases h1 with ⟨_, _, hy⟩ | h1
      · exact absurd (hy.symm.trans hp) (by decide)
      · exact fun c hc _ => h1.symm ▸ hc
    case images =>
      rcases h2 with hz | ⟨a, b, c⟩
      · exact absurd (hz.symm.trans hp) (by decide)
      · exact ⟨a.symm, b.symm, c.symm⟩
    all_goals first | rfl | exact ⟨rfl, rfl⟩ | exact ⟨rfl, rfl, rfl⟩ | exact ⟨rfl, rfl, rfl, rfl⟩ | exact fun _ => List.prefix_rfl | exact List.prefix_rfl | exact fun _ h _ => h | exact fun _ _ => rfl) rfl rfl rfl rfl rfl

theorem Moves.he {m : Nat} {s x : State} {e} (h : Moves m s x) (hm : m.testBit 11 = true) :
    Moves m s { x with he := e } :=
  h.upd (fun p hp => by cases p <;> first | rfl | exact ⟨rfl, rfl⟩ | exact ⟨rfl, rfl, rfl⟩ | exact ⟨rfl, rfl, rfl, rfl⟩ | exact fun _ => List.prefix_rfl | exact List.prefix_rfl | exact fun _ h _ => h | exact fun _ _ => rfl | exact absurd (hm.symm.trans hp) (by decide)) rfl rfl rfl rfl rfl

theorem Moves.sb {m : Nat} {s x : State} {e} (h : Moves m s x) (hm : m.testBit 12 = true) :
    Moves m s { x with sb := e } :=
  h.upd (fun p hp => by cases p <;> first | rfl | exact ⟨rfl, rfl⟩ | exact ⟨rfl, rfl, rfl⟩ | exact ⟨rfl, rfl, rfl, rfl⟩ | exact fun _ => List.prefix_rfl | exact List.prefix_rfl | exact fun _ h _ => h | exact fun _ _ => rfl | exact absurd (hm.symm.trans hp) (by decide)) rfl rfl rfl rfl rfl

theorem Moves.ecKeep {m : Nat} {s x : State} {e} (h : Moves m s x) (hm : m.testBit 13 = true) (h1 : e.arrivals = x.ec.arrivals) :
    Moves m s { x with ec := e } :=
  h.upd (fun p hp => by cases p <;> first | rfl | exact ⟨rfl, rfl⟩ | exact ⟨rfl, rfl, rfl⟩ | exact (by show x.ec.arrivals <+: e.arrivals; rw [h1]) | exact ⟨rfl, rfl, rfl, rfl⟩ | exact fun _ => List.prefix_rfl | exact List.prefix_rfl | exact fun _ h _ => h | exact fun _ _ => rfl | exact absurd (hm.symm.trans hp) (by decide)) rfl rfl rfl rfl rfl

theorem Moves.ec {m : Nat} {s x : State} {e} (h : Moves m s x) (hm : m.testBit 13 = true) (hx : m.testBit 303 = true) :
    Moves m s { x with ec := e } :=
  h.upd (fun p hp => by cases p <;> first | rfl | exact ⟨rfl, rfl⟩ | exact ⟨rfl, rfl, rfl⟩ | exact ⟨rfl, rfl, rfl, rfl⟩ | exact fun _ => List.prefix_rfl | exact List.prefix_rfl | exact fun _ h _ => h | exact fun _ _ => rfl | exact absurd (hm.symm.trans hp) (by decide) | exact absurd (hx.symm.trans hp) (by decide)) rfl rfl rfl rfl rfl

theorem Moves.evKeep {m : Nat} {s x : State} {e} (h : Moves m s x) (hm : m.testBit 14 = true) (h1 : e.fifo = x.ev.fifo) :
    Moves m s { x with ev := e } :=
  h.upd (fun p hp => by cases p <;> first | rfl | exact ⟨rfl, rfl⟩ | exact ⟨rfl, rfl, rfl⟩ | exact fun u => by simp only [State.handedOver, h1]; exact List.prefix_rfl | exact ⟨rfl, rfl, rfl, rfl⟩ | exact fun _ => List.prefix_rfl | exact List.prefix_rfl | exact fun _ h _ => h | exact fun _ _ => rfl | exact absurd (hm.symm.trans hp) (by decide)) rfl h1 rfl rfl rfl

/-- A change of the hand-off FIFOs that keeps their form. -/
theorem Moves.ev {m : Nat} {s x : State} {e} (h : Moves m s x) (hm : m.testBit 14 = true) (hx : m.testBit 302 = true)
    (hf : mapOk (fun _ => []) x.ev.fifo = true → mapOk (fun _ => []) e.fifo = true) : Moves m s { x with ev := e } :=
  h.trans fun hi => ⟨⟨hi.1, hf hi.2.1, hi.2.2⟩, fun p hp => by
    cases p <;> first | rfl | exact ⟨rfl, rfl⟩ | exact ⟨rfl, rfl, rfl⟩ | exact ⟨rfl, rfl, rfl, rfl⟩ | exact fun _ => List.prefix_rfl | exact List.prefix_rfl | exact fun _ h _ => h | exact fun _ _ => rfl | exact absurd (hm.symm.trans hp) (by decide) | exact absurd (hx.symm.trans hp) (by decide), Nat.le_refl _, Nat.le_refl _, Nat.le_refl _⟩

theorem Moves.ch {m : Nat} {s x : State} {e} (h : Moves m s x) (hm : m.testBit 15 = true) :
    Moves m s { x with ch := e } :=
  h.upd (fun p hp => by cases p <;> first | rfl | exact ⟨rfl, rfl⟩ | exact ⟨rfl, rfl, rfl⟩ | exact ⟨rfl, rfl, rfl, rfl⟩ | exact fun _ => List.prefix_rfl | exact List.prefix_rfl | exact fun _ h _ => h | exact fun _ _ => rfl | exact absurd (hm.symm.trans hp) (by decide)) rfl rfl rfl rfl rfl

theorem Moves.dr {m : Nat} {s x : State} {e} (h : Moves m s x) (hm : m.testBit 16 = true) :
    Moves m s { x with dr := e } :=
  h.upd (fun p hp => by cases p <;> first | rfl | exact ⟨rfl, rfl⟩ | exact ⟨rfl, rfl, rfl⟩ | exact ⟨rfl, rfl, rfl, rfl⟩ | exact fun _ => List.prefix_rfl | exact List.prefix_rfl | exact fun _ h _ => h | exact fun _ _ => rfl | exact absurd (hm.symm.trans hp) (by decide)) rfl rfl rfl rfl rfl

theorem Moves.ar {m : Nat} {s x : State} {e} (h : Moves m s x) (hm : m.testBit 17 = true) :
    Moves m s { x with ar := e } :=
  h.upd (fun p hp => by cases p <;> first | rfl | exact ⟨rfl, rfl⟩ | exact ⟨rfl, rfl, rfl⟩ | exact ⟨rfl, rfl, rfl, rfl⟩ | exact fun _ => List.prefix_rfl | exact List.prefix_rfl | exact fun _ h _ => h | exact fun _ _ => rfl | exact absurd (hm.symm.trans hp) (by decide)) rfl rfl rfl rfl rfl

theorem Moves.af {m : Nat} {s x : State} {e} (h : Moves m s x) (hm : m.testBit 18 = true) :
    Moves m s { x with af := e } :=
  h.upd (fun p hp => by cases p <;> first | rfl | exact ⟨rfl, rfl⟩ | exact ⟨rfl, rfl, rfl⟩ | exact ⟨rfl, rfl, rfl, rfl⟩ | exact fun _ => List.prefix_rfl | exact List.prefix_rfl | exact fun _ h _ => h | exact fun _ _ => rfl | exact absurd (hm.symm.trans hp) (by decide)) rfl rfl rfl rfl rfl

theorem Moves.fc {m : Nat} {s x : State} {e} (h : Moves m s x) (hm : m.testBit 19 = true) :
    Moves m s { x with fc := e } :=
  h.upd (fun p hp => by cases p <;> first | rfl | exact ⟨rfl, rfl⟩ | exact ⟨rfl, rfl, rfl⟩ | exact ⟨rfl, rfl, rfl, rfl⟩ | exact fun _ => List.prefix_rfl | exact List.prefix_rfl | exact fun _ h _ => h | exact fun _ _ => rfl | exact absurd (hm.symm.trans hp) (by decide)) rfl rfl rfl rfl rfl

theorem Moves.pe {m : Nat} {s x : State} {e} (h : Moves m s x) (hm : m.testBit 20 = true) :
    Moves m s { x with pe := e } :=
  h.upd (fun p hp => by cases p <;> first | rfl | exact ⟨rfl, rfl⟩ | exact ⟨rfl, rfl, rfl⟩ | exact ⟨rfl, rfl, rfl, rfl⟩ | exact fun _ => List.prefix_rfl | exact List.prefix_rfl | exact fun _ h _ => h | exact fun _ _ => rfl | exact absurd (hm.symm.trans hp) (by decide)) rfl rfl rfl rfl rfl

theorem Moves.tm {m : Nat} {s x : State} {e} (h : Moves m s x) (hm : m.testBit 21 = true) :
    Moves m s { x with tm := e } :=
  h.upd (fun p hp => by cases p <;> first | rfl | exact ⟨rfl, rfl⟩ | exact ⟨rfl, rfl, rfl⟩ | exact ⟨rfl, rfl, rfl, rfl⟩ | exact fun _ => List.prefix_rfl | exact List.prefix_rfl | exact fun _ h _ => h | exact fun _ _ => rfl | exact absurd (hm.symm.trans hp) (by decide)) rfl rfl rfl rfl rfl

theorem Moves.pd {m : Nat} {s x : State} {e} (h : Moves m s x) (hm : m.testBit 22 = true) :
    Moves m s { x with pd := e } :=
  h.upd (fun p hp => by cases p <;> first | rfl | exact ⟨rfl, rfl⟩ | exact ⟨rfl, rfl, rfl⟩ | exact ⟨rfl, rfl, rfl, rfl⟩ | exact fun _ => List.prefix_rfl | exact List.prefix_rfl | exact fun _ h _ => h | exact fun _ _ => rfl | exact absurd (hm.symm.trans hp) (by decide)) rfl rfl rfl rfl rfl

theorem Moves.um {m : Nat} {s x : State} {e} (h : Moves m s x) (hm : m.testBit 23 = true) :
    Moves m s { x with um := e } :=
  h.upd (fun p hp => by cases p <;> first | rfl | exact ⟨rfl, rfl⟩ | exact ⟨rfl, rfl, rfl⟩ | exact ⟨rfl, rfl, rfl, rfl⟩ | exact fun _ => List.prefix_rfl | exact List.prefix_rfl | exact fun _ h _ => h | exact fun _ _ => rfl | exact absurd (hm.symm.trans hp) (by decide)) rfl rfl rfl rfl rfl

theorem Moves.rp {m : Nat} {s x : State} {e} (h : Moves m s x) (hm : m.testBit 24 = true) :
    Moves m s { x with rp := e } :=
  h.upd (fun p hp => by cases p <;> first | rfl | exact ⟨rfl, rfl⟩ | exact ⟨rfl, rfl, rfl⟩ | exact ⟨rfl, rfl, rfl, rfl⟩ | exact fun _ => List.prefix_rfl | exact List.prefix_rfl | exact fun _ h _ => h | exact fun _ _ => rfl | exact absurd (hm.symm.trans hp) (by decide)) rfl rfl rfl rfl rfl

theorem Moves.le {m : Nat} {s x : State} {e} (h : Moves m s x) (hm : m.testBit 25 = true) :
    Moves m s { x with le := e } :=
  h.upd (fun p hp => by cases p <;> first | rfl | exact ⟨rfl, rfl⟩ | exact ⟨rfl, rfl, rfl⟩ | exact ⟨rfl, rfl, rfl, rfl⟩ | exact fun _ => List.prefix_rfl | exact List.prefix_rfl | exact fun _ h _ => h | exact fun _ _ => rfl | exact absurd (hm.symm.trans hp) (by decide)) rfl rfl rfl rfl rfl

theorem Moves.fd {m : Nat} {s x : State} {e} (h : Moves m s x) (hm : m.testBit 26 = true) :
    Moves m s { x with fd := e } :=
  h.upd (fun p hp => by cases p <;> first | rfl | exact ⟨rfl, rfl⟩ | exact ⟨rfl, rfl, rfl⟩ | exact ⟨rfl, rfl, rfl, rfl⟩ | exact fun _ => List.prefix_rfl | exact List.prefix_rfl | exact fun _ h _ => h | exact fun _ _ => rfl | exact absurd (hm.symm.trans hp) (by decide)) rfl rfl rfl rfl rfl

theorem Moves.sf {m : Nat} {s x : State} {e} (h : Moves m s x) (hm : m.testBit 27 = true) :
    Moves m s { x with sf := e } :=
  h.upd (fun p hp => by cases p <;> first | rfl | exact ⟨rfl, rfl⟩ | exact ⟨rfl, rfl, rfl⟩ | exact ⟨rfl, rfl, rfl, rfl⟩ | exact fun _ => List.prefix_rfl | exact List.prefix_rfl | exact fun _ h _ => h | exact fun _ _ => rfl | exact absurd (hm.symm.trans hp) (by decide)) rfl rfl rfl rfl rfl

theorem Moves.lg {m : Nat} {s x : State} {e} (h : Moves m s x) (hm : m.testBit 28 = true) :
    Moves m s { x with lg := e } :=
  h.upd (fun p hp => by cases p <;> first | rfl | exact ⟨rfl, rfl⟩ | exact ⟨rfl, rfl, rfl⟩ | exact ⟨rfl, rfl, rfl, rfl⟩ | exact fun _ => List.prefix_rfl | exact List.prefix_rfl | exact fun _ h _ => h | exact fun _ _ => rfl | exact absurd (hm.symm.trans hp) (by decide)) rfl rfl rfl rfl rfl

theorem Moves.cs {m : Nat} {s x : State} {e} (h : Moves m s x) (hm : m.testBit 29 = true) :
    Moves m s { x with cs := e } :=
  h.upd (fun p hp => by cases p <;> first | rfl | exact ⟨rfl, rfl⟩ | exact ⟨rfl, rfl, rfl⟩ | exact ⟨rfl, rfl, rfl, rfl⟩ | exact fun _ => List.prefix_rfl | exact List.prefix_rfl | exact fun _ h _ => h | exact fun _ _ => rfl | exact absurd (hm.symm.trans hp) (by decide)) rfl rfl rfl rfl rfl

theorem Moves.rb {m : Nat} {s x : State} {e} (h : Moves m s x) (hm : m.testBit 30 = true) :
    Moves m s { x with rb := e } :=
  h.upd (fun p hp => by cases p <;> first | rfl | exact ⟨rfl, rfl⟩ | exact ⟨rfl, rfl, rfl⟩ | exact ⟨rfl, rfl, rfl, rfl⟩ | exact fun _ => List.prefix_rfl | exact List.prefix_rfl | exact fun _ h _ => h | exact fun _ _ => rfl | exact absurd (hm.symm.trans hp) (by decide)) rfl rfl rfl rfl rfl

theorem Moves.ite {m : Nat} {s a b : State} {c : Prop} [Decidable c] (ha : Moves m s a) (hb : Moves m s b) :
    Moves m s (if c then a else b) := by
  split
  · exact ha
  · exact hb

theorem ResMoves.ite {m : Nat} {s : State} {a b : Res} {c : Prop} [Decidable c] (ha : ResMoves m s a) (hb : ResMoves m s b) :
    ResMoves m s (if c then a else b) := by
  split
  · exact ha
  · exact hb

theorem Moves.elim {m : Nat} {s b : State} {α : Type} {o : Option α} {f : α → State} (hb : Moves m s b) (hf : ∀ a, Moves m s (f a)) :
    Moves m s (o.elim b f) := by
  cases o
  · exact hb
  · exact hf _

theorem ResMoves.elim {m : Nat} {s : State} {b : Res} {α : Type} {o : Option α} {f : α → Res} (hb : ResMoves m s b)
    (hf : ∀ a, ResMoves m s (f a)) : ResMoves m s (o.elim b f) := by
  cases o
  · exact hb
  · exact hf _

theorem ResMoves.mono {k m : Nat} {s : State} {r : Res} (h : sub k m = true) : ResMoves k s r → ResMoves m s r
  | ⟨t, ht, hm⟩ => ⟨t, ht, hm.mono h⟩

theorem ResMoves.trans {m : Nat} {s x : State} {r : Res} (h : Moves m s x) : ResMoves m x r → ResMoves m s r
  | ⟨t, ht, hm⟩ => ⟨t, ht, h.trans hm⟩

theorem Moves.sc {m : Nat} {s x : State} {e} (h : Moves m s x) (hm : m.testBit 2 = true) (ho : e.openCnt = x.sc.openCnt)
    (hp : e.provCnt = x.sc.provCnt) (hf : e.fwSvn = x.sc.fwSvn) : Moves m s { x with sc := e } :=
  h.upd (fun p hp' => by cases p <;> first | rfl | exact ⟨rfl, rfl⟩ | exact ⟨ho.symm, hp.symm, hf.symm⟩ | exact ⟨rfl, rfl, rfl⟩ | exact ⟨rfl, rfl, rfl, rfl⟩ | exact fun _ => List.prefix_rfl | exact List.prefix_rfl | exact fun _ h _ => h | exact fun _ _ => rfl | exact absurd (hm.symm.trans hp') (by decide)) rfl rfl ho hp hf

/-- An update of the access state that may blow fuses. -/
theorem Moves.scUp {m : Nat} {s x : State} {e} (h : Moves m s x) (h1 : m.testBit 1 = true) (h2 : m.testBit 2 = true)
    (ho : x.sc.openCnt ≤ e.openCnt)
    (hp : x.sc.provCnt ≤ x.sc.openCnt → x.sc.provCnt ≤ e.provCnt ∧ e.provCnt ≤ e.openCnt)
    (hf : x.sc.fwSvn ≤ e.fwSvn) : Moves m s { x with sc := e } :=
  h.trans fun hi => ⟨⟨hi.1, hi.2.1, (hp hi.2.2).2⟩, fun p hp' => by
    cases p <;> first | rfl | exact ⟨rfl, rfl⟩ | exact ⟨rfl, rfl, rfl⟩ | exact ⟨rfl, rfl, rfl, rfl⟩ | exact fun _ => List.prefix_rfl | exact List.prefix_rfl | exact fun _ h _ => h | exact fun _ _ => rfl | exact absurd (h1.symm.trans hp') (by decide) | exact absurd (h2.symm.trans hp') (by decide),
    ho, (hp hi.2.2).1, hf⟩

theorem Moves.elapsed {m : Nat} {s x : State} {e} (h : Moves m s x) (hm : m.testBit 4 = true) : Moves m s { x with elapsed := e } :=
  h.upd (fun p hp => by cases p <;> first | rfl | exact ⟨rfl, rfl⟩ | exact ⟨rfl, rfl, rfl⟩ | exact ⟨rfl, rfl, rfl, rfl⟩ | exact fun _ => List.prefix_rfl | exact List.prefix_rfl | exact fun _ h _ => h | exact fun _ _ => rfl | exact absurd (hm.symm.trans hp) (by decide)) rfl rfl rfl rfl rfl

theorem Moves.pending {m : Nat} {s x : State} {e} (h : Moves m s x) (hm : m.testBit 3 = true) : Moves m s { x with pending := e } :=
  h.upd (fun p hp => by cases p <;> first | rfl | exact ⟨rfl, rfl⟩ | exact ⟨rfl, rfl, rfl⟩ | exact ⟨rfl, rfl, rfl, rfl⟩ | exact fun _ => List.prefix_rfl | exact List.prefix_rfl | exact fun _ h _ => h | exact fun _ _ => rfl | exact absurd (hm.symm.trans hp) (by decide)) rfl rfl rfl rfl rfl

theorem Moves.staged {m : Nat} {s x : State} {e} (h : Moves m s x) (hm : m.testBit 6 = true) : Moves m s { x with staged := e } :=
  h.upd (fun p hp => by cases p <;> first | rfl | exact ⟨rfl, rfl⟩ | exact ⟨rfl, rfl, rfl⟩ | exact ⟨rfl, rfl, rfl, rfl⟩ | exact fun _ => List.prefix_rfl | exact List.prefix_rfl | exact fun _ h _ => h | exact fun _ _ => rfl | exact absurd (hm.symm.trans hp) (by decide)) rfl rfl rfl rfl rfl

theorem Moves.free {m : Nat} {s x : State} {n : Nat} (h : Moves m s x) (hm : m.testBit 5 = true) :
    Moves m s { x with free := n } :=
  h.upd (fun p hp => by cases p <;> first | rfl | exact ⟨rfl, rfl⟩ | exact ⟨rfl, rfl, rfl⟩ | exact ⟨rfl, rfl, rfl, rfl⟩ | exact fun _ => List.prefix_rfl | exact List.prefix_rfl | exact fun _ h _ => h | exact fun _ _ => rfl | exact absurd (hm.symm.trans hp) (by decide)) rfl rfl rfl rfl rfl

end Sys2Proof.Machine
end

