-- ==== Sys2Proof/Laws/FrameOps.lean ====
section
/-! SUPPORT. What every definition of Machine/Ops.lean may change (masks over `Part.bit`), one lemma each. -/

namespace Sys2Proof.Machine

open Sys2Proof

/-- A round trip of the clocks leaves what the run between leaves, but for the clocks themselves. -/
theorem State.clocksRound_moves {m : Nat} (hm : sub 0x200 m = true) {s : State} {c b : Stamp} {later : Nat} {f : State → State}
    (hf : ∀ st, Moves m st (f st)) : Moves m s (State.withClocks (f (s.withClocks c later)) b s.elapsed) := fun hi => by
  have hb : ∀ p : Part, m.testBit p.bit = false → p ≠ .tu := by
    rintro p hp rfl
    exact absurd (sub_bit hm hp) (by decide)
  obtain ⟨i, k, o⟩ := hf (s.withClocks c later) hi
  refine ⟨i, fun p hp => ?_, o⟩
  have h1 := k p hp
  have h2 := hb p hp
  cases p
  case tu => exact absurd rfl h2
  case elapsed => rfl
  all_goals exact h1

theorem State.atInstant_moves {m : Nat} (hm : sub 0x200 m = true) {s : State} {t : Nat} {f : State → State}
    (hf : ∀ st, Moves m st (f st)) : Moves m s (State.atInstant s t f) := by
  unfold State.atInstant
  exact State.clocksRound_moves hm hf

theorem State.arrive_moves {s : State} {a0 : Nat} {a1 : Nat} : Moves 0x2000 s (State.arrive s a0 a1) := by
  unfold State.arrive
  refine Moves.upd (x := s) Moves.refl (fun p hp => ?_) rfl rfl rfl rfl rfl
  cases p <;> first | rfl | exact fun _ h _ => h | exact ⟨rfl, rfl⟩ | exact ⟨rfl, rfl, rfl⟩ | exact ⟨rfl, rfl, rfl, rfl⟩ | exact fun _ => List.prefix_rfl | exact List.prefix_append _ _ | exact fun _ _ => rfl | exact absurd hp (by decide)

theorem State.sendMessage_moves {s : State} {a0 : Nat} :
    Moves 0x800 s (State.sendMessage s a0) := by
  unfold State.sendMessage
  extract_lets -underBinder -merge -useContext v0
  try clear_value v0
  refine Moves.he ?_ rfl
  exact Moves.refl

theorem State.pendVector_moves {s : State} {a0 : Nat} :
    Moves 0x1000000000000000000000000000000000000000000000000000000000000000000000000 s (State.pendVector s a0) := by
  unfold State.pendVector
  refine Moves.wrk ?_ rfl
  exact Moves.refl

theorem State.raiseVector_moves {s : State} {a0 : Nat} :
    Moves 0x1000000000000000000000000000000000000000000000000000000000000000000000800 s (State.raiseVector s a0) := by
  unfold State.raiseVector
  refine Moves.ite ?_ ?_
  · refine Moves.trans ?_ (Moves.mono (k := 0x800) rfl State.sendMessage_moves)
    exact Moves.refl
  · refine Moves.trans ?_ (Moves.mono (k := 0x1000000000000000000000000000000000000000000000000000000000000000000000000) rfl State.pendVector_moves)
    exact Moves.refl

theorem State.ringPush_moves {s : State} {a0 : Nat} {a1 : List Sys2Proof.W32} :
    Moves 0x1000000000000000000000000000000000000000000000000000000000000000000000c00 s (State.ringPush s a0 a1) := by
  unfold State.ringPush
  extract_lets -underBinder -merge -useContext v0 v1 v2 v3 v4
  try clear_value v0
  try clear_value v1
  have h5 : Moves 0x1000000000000000000000000000000000000000000000000000000000000000000000c00 s v3 := by
    unfold v3
    refine Moves.mb ?_ rfl (.inr rfl) (.inr ⟨rfl, rfl, rfl⟩)
    exact Moves.refl
  try clear_value v3
  have h6 : Moves 0x1000000000000000000000000000000000000000000000000000000000000000000000c00 s v4 := by
    unfold v4
    refine Moves.wr ?_ rfl
    exact h5
  try clear_value v4
  refine Moves.ite ?_ ?_
  · refine Moves.trans ?_ (Moves.mono (k := 0x1000000000000000000000000000000000000000000000000000000000000000000000800) rfl State.raiseVector_moves)
    exact h6
  · exact h6

theorem State.deliver_moves {s : State} {a0 : Sys2Proof.Machine.Ntf} :
    Moves 0x1000000000000000000000000000000000000000000000000000000000000000000000c00 s (State.deliver s a0) := by
  unfold State.deliver
  split
  · exact Moves.refl
  · extract_lets -underBinder -merge -useContext v0 v1 v2
    try clear_value v0
    have h3 : Moves 0x1000000000000000000000000000000000000000000000000000000000000000000000c00 s v2 := by
      unfold v2
      refine Moves.mb ?_ rfl (.inr rfl) (.inr ⟨rfl, rfl, rfl⟩)
      exact Moves.refl
    try clear_value v2
    refine Moves.ite ?_ ?_
    · refine Moves.trans ?_ (Moves.mono (k := 0x1000000000000000000000000000000000000000000000000000000000000000000000c00) rfl State.ringPush_moves)
      exact h3
    · refine Moves.bump ?_ rfl
      exact h3

theorem State.deliverOrHold_moves {s : State} {a0 : Sys2Proof.Machine.Ntf} :
    Moves 0x1000000000000000000000000000000000000000000000000000000000000000000000c00 s (State.deliverOrHold s a0) := by
  unfold State.deliverOrHold
  extract_lets -underBinder -merge -useContext v0
  refine Moves.ite ?_ ?_
  · refine Moves.mb ?_ rfl (.inr rfl) (.inr ⟨rfl, rfl, rfl⟩)
    exact Moves.refl
  · refine Moves.trans ?_ (Moves.mono (k := 0x1000000000000000000000000000000000000000000000000000000000000000000000c00) rfl State.deliver_moves)
    exact Moves.refl

/-- A record handed over leaves those that wait. -/
theorem State.handOff_moves {s : State} {a0 : Nat} {a1 : EvRec} : Moves 0x4000 s (State.handOff s a0 a1) := by
  unfold State.handOff
  extract_lets -underBinder -merge -useContext q ev1 ev2
  refine Moves.ite ?_ ?_
  · refine Moves.trans (Moves.refl (m := 0x4000)) fun hi => ⟨⟨hi.1, mset_ok hi.2.1, hi.2.2⟩, fun p hp => ?_, Nat.le_refl _, Nat.le_refl _, Nat.le_refl _⟩
    cases p <;> first | rfl | exact fun _ h _ => h | exact ⟨rfl, rfl⟩ | exact ⟨rfl, rfl, rfl⟩ | exact ⟨rfl, rfl, rfl, rfl⟩ | exact List.prefix_rfl | exact fun _ _ => rfl | exact absurd hp (by decide) | skip
    intro u
    show mget (fun _ => []) s.ev.fifo u <+: mget (fun _ => []) (mset (fun _ => []) (fifoOf a0) (q ++ [a1]) s.ev.fifo) u
    by_cases h : u = fifoOf a0
    · subst h
      rw [mget_mset_same _ _ _ hi.2.1]
      exact List.prefix_append _ _
    · rw [mget_mset_ne _ h _ hi.2.1]
  · exact Moves.evKeep Moves.refl rfl rfl

/-- The record handed over waits in its FIFO where that has room. -/
theorem State.handOff_mem {s : State} {u : Nat} {r : EvRec} (hi : s.Inv) (hc : (s.handedOver (fifoOf u)).length < fifoCap
    (fifoOf u)) :
    r ∈ (State.handOff s u r).handedOver (fifoOf u) := by
  unfold State.handOff
  extract_lets -underBinder -merge -useContext q ev1 ev2
  rw [if_pos (show q.length < fifoCap (fifoOf u) from hc)]
  show r ∈ mget (fun _ => []) (mset (fun _ => []) (fifoOf u) _ s.ev.fifo) (fifoOf u)
  rw [mget_mset_same _ _ _ hi.2.1]
  exact List.mem_append_right _ (List.mem_singleton.2 rfl)

theorem State.notifyAt_moves {s : State} {a0 : Nat} {a1 : Nat} {a2 : Nat} {a3 : Sys2Proof.Machine.Stamp} {a4 : Nat} {a5 : Nat} {a6 : Nat}
    {a7 : Nat} :
    Moves 0x1000000000000000000000000000000000000000000000000000000000000000000006c00 s (State.notifyAt s a0 a1 a2 a3 a4 a5 a6 a7) := by
  unfold State.notifyAt
  extract_lets -underBinder -merge -useContext v0 v1 v2
  try clear_value v0
  have h3 : Moves 0x1000000000000000000000000000000000000000000000000000000000000000000006c00 s v1 := by
    unfold v1
    refine Moves.trans ?_ (Moves.mono (k := 0x4000) rfl State.handOff_moves)
    exact Moves.refl
  try clear_value v1
  have h4 : Moves 0x1000000000000000000000000000000000000000000000000000000000000000000006c00 s v2 := by
    unfold v2
    refine Moves.ite ?_ ?_
    · exact h3
    · refine Moves.trans ?_ (Moves.mono (k := 0x2000) rfl State.arrive_moves)
      exact h3
  try clear_value v2
  refine Moves.trans ?_ (Moves.mono (k := 0x1000000000000000000000000000000000000000000000000000000000000000000000c00) rfl State.deliverOrHold_moves)
  exact h4

theorem State.notify_moves {s : State} {a0 : Nat} {a1 : Nat} {a2 : Nat} {a3 : Nat} {a4 : Nat} {a5 : Nat} {a6 : Nat} :
    Moves 0x1000000000000000000000000000000000000000000000000000000000000000000006c00 s (State.notify s a0 a1 a2 a3 a4 a5 a6) := by
  unfold State.notify
  refine Moves.trans ?_ (Moves.mono (k := 0x1000000000000000000000000000000000000000000000000000000000000000000006c00) rfl State.notifyAt_moves)
  exact Moves.refl

theorem State.stateRecAt_moves {s : State} {a0 : Nat} {a1 : Nat} {a2 : Nat} {a3 : Sys2Proof.Machine.Stamp} {a4 : Nat} {a5 : Nat}
    {a6 : Nat} {a7 : Bool} :
    Moves 0x4000 s (State.stateRecAt s a0 a1 a2 a3 a4 a5 a6 a7) := by
  unfold State.stateRecAt
  refine Moves.trans ?_ (Moves.mono (k := 0x4000) rfl State.handOff_moves)
  exact Moves.refl

theorem State.stateRec_moves {s : State} {a0 : Nat} {a1 : Nat} {a2 : Nat} {a3 : Nat} {a4 : Nat} {a5 : Nat} {a6 : Bool} :
    Moves 0x4000 s (State.stateRec s a0 a1 a2 a3 a4 a5 a6) := by
  unfold State.stateRec
  refine Moves.trans ?_ (Moves.mono (k := 0x4000) rfl State.stateRecAt_moves)
  exact Moves.refl

theorem State.setPhase_moves {s : State} {a0 : Nat} {a1 : Nat}
    {a2 : CmdPhase} : Moves 0x10000000000000000000000000000000000000000000000000000000000000000000000000400 s
    (State.setPhase s a0 a1 a2) := by
  unfold State.setPhase
  refine Moves.upd (x := s) Moves.refl (fun p hp => ?_) rfl rfl rfl rfl rfl
  cases p
  case flight =>
    show s.mb.inflight.map _ = (s.mb.inflight.map _).map _
    rw [List.map_map]
    refine List.map_congr_left fun c _ => ?_
    simp only [Function.comp]
    split <;> rfl
  case outcomes =>
    intro c hc hu
    simp only [List.mem_map]
    exact ⟨c, hc, by simp [hu]⟩
  all_goals first | rfl | exact ⟨rfl, rfl⟩ | exact ⟨rfl, rfl, rfl⟩ | exact ⟨rfl, rfl, rfl, rfl⟩ | exact fun _ => List.prefix_rfl | exact List.prefix_rfl | exact fun _ h _ => h | exact fun _ _ => rfl | exact absurd hp (by decide)

theorem State.settle_moves {s : State} {a0 : Option (Nat × Nat)} {a1 : Sys2Proof.Machine.Status} {a2 : Nat} {a3 : Nat}
    {a4 : Option Sys2Proof.Machine.Stamp} :
    Moves 0x10000000000000000000000000000000000000000000000000000000000000000000000000400 s (State.settle s a0 a1 a2 a3 a4) := by
  unfold State.settle
  split
  · exact Moves.refl
  · split
    · split
      · exact Moves.refl
      · refine Moves.trans ?_ (Moves.mono (k := 0x10000000000000000000000000000000000000000000000000000000000000000000000000400) rfl State.setPhase_moves)
        exact Moves.refl
    · exact Moves.refl

theorem State.drFire_moves {s : State} {a0 : Nat} {a1 : Nat} {a2 : Nat} {a3 : Nat} :
    Moves 0x10000 s (State.drFire s a0 a1 a2 a3) := by
  unfold State.drFire
  extract_lets -underBinder -merge -useContext v0 v1
  try clear_value v0
  try clear_value v1
  refine Moves.ite ?_ ?_
  · refine Moves.dr ?_ rfl
    exact Moves.refl
  · exact Moves.refl

theorem State.sbCause_moves {s : State} {a0 : Sys2Proof.Machine.Field} {a1 : Nat} :
    Moves 0x1000000000000000000000000000000000000000000000000000000000000000000000800 s (State.sbCause s a0 a1) := by
  unfold State.sbCause
  extract_lets -underBinder -merge -useContext v0
  have h1 : Moves 0x1000000000000000000000000000000000000000000000000000000000000000000000800 s v0 := by
    unfold v0
    refine Moves.wr ?_ rfl
    exact Moves.refl
  try clear_value v0
  refine Moves.ite ?_ ?_
  · refine Moves.ite ?_ ?_
    · exact h1
    · refine Moves.trans ?_ (Moves.mono (k := 0x1000000000000000000000000000000000000000000000000000000000000000000000800) rfl State.raiseVector_moves)
      exact h1
  · exact Moves.refl

theorem State.answer_moves {s : State} {a0 : Sys2Proof.Machine.Cmd} {a1 : Nat} {a2 : Nat} {a3 : Nat} {a4 : Nat} :
    Moves 0x10000000000000000000000000000000000000000000000000000000000000000000000000400 s (State.answer s a0 a1 a2 a3 a4) := by
  unfold State.answer
  refine Moves.trans ?_ (Moves.mono (k := 0x10000000000000000000000000000000000000000000000000000000000000000000000000400) rfl State.setPhase_moves)
  exact Moves.refl

theorem State.fail_moves {s : State} {a0 : Sys2Proof.Machine.Cmd} {a1 : Sys2Proof.Machine.Status} {a2 : Nat} :
    Moves 0x10000000000000000000000000000000000000000000000000000000000000000000000000400 s (State.fail s a0 a1 a2) := by
  unfold State.fail
  refine Moves.trans ?_ (Moves.mono (k := 0x10000000000000000000000000000000000000000000000000000000000000000000000000400) rfl State.setPhase_moves)
  exact Moves.refl

theorem State.raiseErr_moves {s : State} {a0 : Nat} {a1 : Nat} :
    Moves 0x6000 s (State.raiseErr s a0 a1) := by
  unfold State.raiseErr
  refine Moves.trans ?_ (Moves.mono (k := 0x2000) rfl State.arrive_moves)
  refine Moves.trans ?_ (Moves.mono (k := 0x4000) rfl State.handOff_moves)
  exact Moves.refl

theorem State.drawn_moves {s : State} :
    Moves 0x20 s (State.drawn s) := by
  unfold State.drawn
  refine Moves.free ?_ rfl
  exact Moves.refl

theorem State.sendPending_moves {s : State} {a0 : State → Nat → Bool} :
    Moves 0x1000000000000000000000000000000000000000000000000000000000000000000000800 s (State.sendPending s a0) := by
  unfold State.sendPending
  refine Moves.ite ?_ ?_
  · refine Moves.foldl ?_ (fun st0 a1 => ?_)
    · exact Moves.refl
    · refine Moves.ite ?_ ?_
      · refine Moves.trans ?_ (Moves.mono (k := 0x800) rfl State.sendMessage_moves)
        refine Moves.wrk ?_ rfl
        exact Moves.refl
      · exact Moves.refl
  · exact Moves.refl

theorem State.flushPending_moves {s : State} :
    Moves 0x1000000000000000000000000000000000000000000000000000000000000000000000800 s (State.flushPending s) := by
  unfold State.flushPending
  refine Moves.trans ?_ (Moves.mono (k := 0x1000000000000000000000000000000000000000000000000000000000000000000000800) rfl State.sendPending_moves)
  exact Moves.refl

theorem State.dmaOut_moves {s : State} {a0 : Nat} {a1 : Nat} {a2 : List Sys2Proof.W32} :
    Moves 0x400 s (State.dmaOut s a0 a1 a2) := by
  unfold State.dmaOut
  extract_lets -underBinder -merge -useContext v0
  refine Moves.mb ?_ rfl (.inr rfl) (.inr ⟨rfl, rfl, rfl⟩)
  exact Moves.refl

theorem State.done_moves {s : State} {a0 : Sys2Proof.Machine.Cmd} {a1 : Nat} {a2 : Nat} {a3 : Nat} {a4 : Nat} :
    Moves 0x10000000000000000000000000000000000000000000000000000000000000000000000000400 s (State.done s a0 a1 a2 a3 a4) := by
  unfold State.done
  refine Moves.trans ?_ (Moves.mono (k := 0x10000000000000000000000000000000000000000000000000000000000000000000000000400) rfl State.setPhase_moves)
  exact Moves.refl

theorem State.sendWaiting_moves {s : State} :
    Moves 0x1000000000000000000000000000000000000000000000000000000000000000000000800 s (State.sendWaiting s) := by
  unfold State.sendWaiting
  refine Moves.ite ?_ ?_
  · exact Moves.refl
  · refine Moves.trans ?_ (Moves.mono (k := 0x1000000000000000000000000000000000000000000000000000000000000000000000800) rfl State.sendPending_moves)
    exact Moves.refl

end Sys2Proof.Machine
end

