-- ==== Sys2Proof/Laws/FrameRunner.lean ====
section
/-! SUPPORT. What every definition of Machine/Runner.lean may change (masks over `Part.bit`), one lemma each. -/

namespace Sys2Proof.Machine

open Sys2Proof

theorem State.refuse_moves {s : State} {a0 : Sys2Proof.Machine.Cmd} {a1 : Sys2Proof.Machine.Status × Nat × Nat} :
    Moves 0x10000000000000000000000000000000000000000000000000000000000000000000000002400 s (State.refuse s a0 a1) := by
  unfold State.refuse
  extract_lets -underBinder -merge -useContext v0
  have h1 : Moves 0x10000000000000000000000000000000000000000000000000000000000000000000000002400 s v0 := by
    unfold v0
    refine Moves.trans ?_ (Moves.mono (k := 0x10000000000000000000000000000000000000000000000000000000000000000000000000400) rfl State.setPhase_moves)
    exact Moves.refl
  try clear_value v0
  refine Moves.ite ?_ ?_
  · refine Moves.trans ?_ (Moves.mono (k := 0x2000) rfl State.arrive_moves)
    exact h1
  · exact h1

/-- A mailbox command changes what its effect changes, and its own place among the commands in flight. -/
theorem State.runCmd_moves {m : Nat} (hm : sub 0x10000000000000000000000000000000000000000000000000000000000000000000000002400 m = true) {s : State} {ring idx : Nat} {mine : Cmd → Bool}
    {checks : State → Cmd → Checks} {go : State → Cmd → State} (hg : ∀ st c, Moves m st (go st c)) :
    ResMoves m s (State.runCmd s ring idx mine checks go) := by
  unfold State.runCmd
  split
  · exact ResMoves.next Moves.refl
  · refine ResMoves.ite (ResMoves.next Moves.refl) (ResMoves.ite ?_ ?_)
    · exact ResMoves.next (Moves.mono hm State.refuse_moves)
    · split
      · exact ResMoves.next (Moves.mono hm State.refuse_moves)
      · exact ResMoves.next (hg _ _)

theorem State.start_moves {s : State} {a0 : Sys2Proof.Machine.Cmd} :
    Moves 0x10000000000000000000000000000000000000000000000000000000000000000000000000400 s (State.start s a0) := by
  unfold State.start
  refine Moves.trans ?_ (Moves.mono (k := 0x10000000000000000000000000000000000000000000000000000000000000000000000000400) rfl State.setPhase_moves)
  exact Moves.refl

end Sys2Proof.Machine
end

