-- ==== Sys2Proof/Laws/FrameEvents.lean ====
section
/-! SUPPORT. What every definition of Machine/Events.lean may change (masks over `Part.bit`), one lemma each. -/

namespace Sys2Proof.Machine

open Sys2Proof

theorem State.evError_moves {s : State} {a0 : Nat} {a1 : Nat} {a2 : Sys2Proof.Machine.Stamp} {a3 : Nat} {a4 : Nat} {a5 : Nat} :
    Moves 0x1000000000000000000000000000000000000000000000000000000000000000000002c00 s (State.evError s a0 a1 a2 a3 a4 a5) := by
  unfold State.evError
  extract_lets -underBinder -merge -useContext v0
  have h1 : Moves 0x1000000000000000000000000000000000000000000000000000000000000000000002c00 s v0 := by
    unfold v0
    refine Moves.trans ?_ (Moves.mono (k := 0x2000) rfl State.arrive_moves)
    exact Moves.refl
  try clear_value v0
  refine Moves.trans ?_ (Moves.mono (k := 0x1000000000000000000000000000000000000000000000000000000000000000000000c00) rfl State.deliverOrHold_moves)
  exact h1

theorem EvRec.error_moves {a0 : Sys2Proof.Machine.EvRec} {s : State} {a1 : Nat} {a2 : Nat} :
    Moves 0x1000000000000000000000000000000000000000000000000000000000000000000002c00 s (EvRec.error a0 s a1 a2) := by
  unfold EvRec.error
  refine Moves.trans ?_ (Moves.mono (k := 0x1000000000000000000000000000000000000000000000000000000000000000000002c00) rfl State.evError_moves)
  exact Moves.refl

theorem State.evLost_moves {s : State} {a0 : Nat} :
    Moves 0x4000 s (State.evLost s a0) := by
  unfold State.evLost
  extract_lets -underBinder -merge -useContext v0
  refine Moves.evKeep ?_ rfl rfl
  exact Moves.refl

theorem State.evLast_moves {s : State} {a0 : Sys2Proof.Machine.EvRec} :
    Moves 0x1000000000000000000000000000000000000000000000000000000000000000000006d00 s (State.evLast s a0) := by
  unfold State.evLast
  extract_lets -underBinder -merge -useContext v0 v1 v2 v3 v4 v5 v6 v7 v8 v9 v10 v11 v12 v13 v14
  try clear_value v0
  try clear_value v1
  try clear_value v3
  try clear_value v4
  try clear_value v5
  try clear_value v6
  try clear_value v7
  try clear_value v8
  try clear_value v9
  try clear_value v10
  try clear_value v11
  have h15 : Moves 0x1000000000000000000000000000000000000000000000000000000000000000000006d00 s v13 := by
    unfold v13
    refine Moves.upd (x := s) ?_ (fun p hp => by cases p <;> first | rfl | exact ⟨rfl, rfl⟩ | exact ⟨rfl, rfl, rfl⟩ | exact ⟨rfl, rfl, rfl, rfl⟩ | exact fun _ => List.prefix_rfl | exact List.prefix_rfl | exact fun _ h _ => h | exact fun _ _ => rfl | exact absurd hp (by decide)) rfl rfl rfl rfl rfl
    exact Moves.refl
  try clear_value v13
  have h16 : Moves 0x1000000000000000000000000000000000000000000000000000000000000000000006d00 s v14 := by
    unfold v14
    refine Moves.trans ?_ (Moves.mono (k := 0x4000) rfl State.evLost_moves)
    exact h15
  try clear_value v14
  refine Moves.ite ?_ ?_
  · refine Moves.kp ?_ rfl
    exact Moves.refl
  · refine Moves.ite ?_ ?_
    · refine Moves.upd (x := s) ?_ (fun p hp => by cases p <;> first | rfl | exact ⟨rfl, rfl⟩ | exact ⟨rfl, rfl, rfl⟩ | exact ⟨rfl, rfl, rfl, rfl⟩ | exact fun _ => List.prefix_rfl | exact List.prefix_rfl | exact fun _ h _ => h | exact fun _ _ => rfl | exact absurd hp (by decide)) rfl rfl rfl rfl rfl
      exact Moves.refl
    · refine Moves.ite ?_ ?_
      · refine Moves.trans ?_ (Moves.mono (k := 0x1000000000000000000000000000000000000000000000000000000000000000000002c00) rfl State.evError_moves)
        exact h16
      · exact h16

theorem State.evStage_moves {s : State} {a0 : Sys2Proof.Machine.EvRec} :
    Moves 0x4000 s (State.evStage s a0) := by
  unfold State.evStage
  extract_lets -underBinder -merge -useContext v0 v1 v2
  try clear_value v0
  refine Moves.ite ?_ ?_
  · refine Moves.evKeep ?_ rfl rfl
    exact Moves.refl
  · refine Moves.evKeep ?_ rfl rfl
    exact Moves.refl

theorem State.evRing_moves {s : State} {a0 : Sys2Proof.Machine.EvRec} :
    Moves 0x24000 s (State.evRing s a0) := by
  unfold State.evRing
  extract_lets -underBinder -merge -useContext v0 v1 v2 v3
  try clear_value v0
  have h4 : Moves 0x24000 s v2 := by
    unfold v2
    refine Moves.evKeep ?_ rfl rfl
    exact Moves.refl
  try clear_value v2
  try clear_value v3
  refine Moves.ite ?_ ?_
  · refine Moves.ar ?_ rfl
    exact h4
  · exact h4

theorem State.evFreeze_moves {s : State} {a0 : Nat} :
    Moves 0x24000 s (State.evFreeze s a0) := by
  unfold State.evFreeze
  extract_lets -underBinder -merge -useContext v0
  have h1 : ∀ y2, Moves 0x24000 y2 (v0 y2) := by
    intro y2
    unfold v0
    beta_reduce
    extract_lets -underBinder -merge -useContext v3
    refine Moves.evKeep ?_ rfl rfl
    exact Moves.refl
  try clear_value v0
  refine Moves.ite ?_ ?_
  · exact Moves.refl
  · refine Moves.ite ?_ ?_
    · refine Moves.trans ?_ (Moves.mono (k := 0x4000) rfl State.evStage_moves)
      refine Moves.trans ?_ (h1 _)
      exact Moves.refl
    · refine Moves.trans ?_ (h1 _)
      refine Moves.trans ?_ (Moves.mono (k := 0x24000) rfl State.evRing_moves)
      exact Moves.refl

theorem State.evWrite_moves {s : State} {a0 : Sys2Proof.Machine.EvRec} :
    Moves 0x1000000000000000000000000000000000000000000000000000000000000000000026d00 s (State.evWrite s a0) := by
  unfold State.evWrite
  refine Moves.ite ?_ ?_
  · refine Moves.trans ?_ (Moves.mono (k := 0x1000000000000000000000000000000000000000000000000000000000000000000006d00) rfl State.evLast_moves)
    exact Moves.refl
  · refine Moves.ite ?_ ?_
    · refine Moves.trans ?_ (Moves.mono (k := 0x4000) rfl State.evStage_moves)
      exact Moves.refl
    · refine Moves.ite ?_ ?_
      · refine Moves.trans ?_ (Moves.mono (k := 0x4000) rfl State.evStage_moves)
        refine Moves.trans ?_ (Moves.mono (k := 0x24000) rfl State.evFreeze_moves)
        exact Moves.refl
      · refine Moves.trans ?_ (Moves.mono (k := 0x24000) rfl State.evRing_moves)
        exact Moves.refl

theorem State.evUnstage_moves {s : State} :
    Moves 0x1000000000000000000000000000000000000000000000000000000000000000000026d00 s (State.evUnstage s) := by
  unfold State.evUnstage
  extract_lets -underBinder -merge -useContext v0 v1 v2 v3 v4
  try clear_value v0
  try clear_value v1
  have h5 : Moves 0x1000000000000000000000000000000000000000000000000000000000000000000026d00 s v3 := by
    unfold v3
    refine Moves.evKeep ?_ rfl rfl
    exact Moves.refl
  try clear_value v3
  have h6 : Moves 0x1000000000000000000000000000000000000000000000000000000000000000000026d00 s v4 := by
    unfold v4
    refine Moves.foldl ?_ (fun st7 a8 => ?_)
    · exact h5
    · refine Moves.trans ?_ (Moves.mono (k := 0x1000000000000000000000000000000000000000000000000000000000000000000026d00) rfl State.evWrite_moves)
      exact Moves.refl
  try clear_value v4
  refine Moves.ite ?_ ?_
  · exact h6
  · refine Moves.trans ?_ (Moves.mono (k := 0x1000000000000000000000000000000000000000000000000000000000000000000002c00) rfl EvRec.error_moves)
    refine Moves.trans ?_ (Moves.mono (k := 0x4000) rfl State.evLost_moves)
    refine Moves.trans ?_ (Moves.mono (k := 0x1000000000000000000000000000000000000000000000000000000000000000000026d00) rfl State.evWrite_moves)
    exact h6

theorem State.evLastResort_moves {s : State} {a0 : Nat} {a1 : Nat} {a2 : Bool} :
    Moves 0x1000000000000000000000000000000000000000000000000000000000000000000026d00 s (State.evLastResort s a0 a1 a2) := by
  unfold State.evLastResort
  extract_lets -underBinder -merge -useContext v0 v1 v2 v3 v4
  try clear_value v0
  have h5 : Moves 0x1000000000000000000000000000000000000000000000000000000000000000000026d00 s v2 := by
    unfold v2
    refine Moves.evKeep ?_ rfl rfl
    exact Moves.refl
  try clear_value v2
  have h6 : Moves 0x1000000000000000000000000000000000000000000000000000000000000000000026d00 s v3 := by
    unfold v3
    refine Moves.trans ?_ (Moves.mono (k := 0x1000000000000000000000000000000000000000000000000000000000000000000006d00) rfl State.evLast_moves)
    exact h5
  try clear_value v3
  have h7 : Moves 0x1000000000000000000000000000000000000000000000000000000000000000000026d00 s v4 := by
    unfold v4
    refine Moves.ite ?_ ?_
    · refine Moves.trans ?_ (Moves.mono (k := 0x1000000000000000000000000000000000000000000000000000000000000000000002c00) rfl EvRec.error_moves)
      exact h6
    · exact h6
  try clear_value v4
  refine Moves.ite ?_ ?_
  · exact Moves.refl
  · refine Moves.trans ?_ (Moves.mono (k := 0x1000000000000000000000000000000000000000000000000000000000000000000026d00) rfl State.evUnstage_moves)
    exact h7

theorem State.evReset_moves {s : State} {a0 : List Nat} :
    Moves 0x4000000000000000000000000000000000000000000000000000000000000000000000004000 s (State.evReset s a0) := by
  unfold State.evReset
  extract_lets -underBinder -merge -useContext v0
  refine Moves.ev ?_ rfl rfl (by first | exact fun h => mset_ok h | exact fun h => filter_ok h | exact fun _ => rfl)
  exact Moves.refl

theorem State.evCommit_moves {s : State} {a0 : State} :
    Moves 0x4000 s (State.evCommit s a0) := by
  unfold State.evCommit
  extract_lets -underBinder -merge -useContext v0
  refine Moves.ite ?_ ?_
  · exact Moves.refl
  · refine Moves.evKeep ?_ rfl rfl
    exact Moves.refl

theorem State.evCopyDrop_moves {s : State} {a0 : Nat × Nat} :
    Moves 0x4000 s (State.evCopyDrop s a0) := by
  unfold State.evCopyDrop
  split
  · extract_lets -underBinder -merge -useContext v0
    refine Moves.ite ?_ ?_
    · refine Moves.evKeep ?_ rfl rfl
      exact Moves.refl
    · exact Moves.refl
  · exact Moves.refl

theorem State.evRestart_moves {s : State} {a0 : Bool} :
    Moves 0x1000000000000000000000000000000000000000000000000000000000000000000026d00 s (State.evRestart s a0) := by
  unfold State.evRestart
  extract_lets -underBinder -merge -useContext v0 v1 v2 v3 v4 v5
  try clear_value v1
  try clear_value v2
  try clear_value v3
  have h6 : Moves 0x1000000000000000000000000000000000000000000000000000000000000000000026d00 s v5 := by
    unfold v5
    refine Moves.upd (x := s) ?_ (fun p hp => by cases p <;> first | rfl | exact ⟨rfl, rfl⟩ | exact ⟨rfl, rfl, rfl⟩ | exact ⟨rfl, rfl, rfl, rfl⟩ | exact fun _ => List.prefix_rfl | exact List.prefix_rfl | exact fun _ h _ => h | exact fun _ _ => rfl | exact absurd hp (by decide)) rfl rfl rfl rfl rfl
    exact Moves.refl
  try clear_value v5
  refine Moves.trans ?_ (Moves.mono (k := 0x1000000000000000000000000000000000000000000000000000000000000000000026d00) rfl State.evUnstage_moves)
  refine Moves.trans ?_ (Moves.mono (k := 0x1000000000000000000000000000000000000000000000000000000000000000000026d00) rfl State.evWrite_moves)
  exact h6

theorem State.evCopied_moves {s : State} {a0 : Sys2Proof.Machine.Cmd} {a1 : Sys2Proof.Machine.EvCopy} {a2 : Nat} :
    Moves 0x10000000000000000000000000000000000000000000000000000000000000000000000004400 s (State.evCopied s a0 a1 a2) := by
  unfold State.evCopied
  extract_lets -underBinder -merge -useContext v0 v1 v2
  try clear_value v0
  have h3 : Moves 0x10000000000000000000000000000000000000000000000000000000000000000000000004400 s v2 := by
    unfold v2
    refine Moves.evKeep ?_ rfl rfl
    exact Moves.refl
  try clear_value v2
  refine Moves.trans ?_ (Moves.mono (k := 0x10000000000000000000000000000000000000000000000000000000000000000000000000400) rfl State.done_moves)
  refine Moves.trans ?_ (Moves.mono (k := 0x400) rfl State.dmaOut_moves)
  exact h3

theorem State.evDrain_moves {s : State} :
    Moves 0x1000000000000000000000000000000000000000000000000000000000000000000026d00 s (State.evDrain s) := by
  unfold State.evDrain
  split
  · exact Moves.refl
  · extract_lets -underBinder -merge -useContext v0 v1 v2
    have h3 : Moves 0x1000000000000000000000000000000000000000000000000000000000000000000026d00 s v1 := by
      unfold v1
      refine Moves.evKeep ?_ rfl rfl
      exact Moves.refl
    try clear_value v1
    refine Moves.ite ?_ ?_
    · refine Moves.trans ?_ (Moves.mono (k := 0x4000) rfl State.evStage_moves)
      refine Moves.evKeep ?_ rfl rfl
      exact h3
    · refine Moves.trans ?_ (Moves.mono (k := 0x1000000000000000000000000000000000000000000000000000000000000000000026d00) rfl State.evWrite_moves)
      refine Moves.trans ?_ (Moves.mono (k := 0x1000000000000000000000000000000000000000000000000000000000000000000026d00) rfl State.evUnstage_moves)
      exact h3

theorem State.evFreezeCmd_moves {s : State} {a0 : Nat} {a1 : Nat} :
    ResMoves 0x10000000000000000000000000000000000000000000000000000000000000000000000026400 s (State.evFreezeCmd s a0 a1) := by
  unfold State.evFreezeCmd
  refine ResMoves.trans ?_ (State.runCmd_moves rfl (fun st0 c1 => ?_))
  · exact Moves.refl
  · extract_lets -underBinder -merge -useContext v2 v3 v4 v5
    have h6 : Moves 0x10000000000000000000000000000000000000000000000000000000000000000000000026400 st0 v2 := by
      unfold v2
      refine Moves.trans ?_ (Moves.mono (k := 0x24000) rfl State.evFreeze_moves)
      exact Moves.refl
    try clear_value v2
    try clear_value v3
    try clear_value v4
    refine Moves.trans ?_ (Moves.mono (k := 0x10000000000000000000000000000000000000000000000000000000000000000000000000400) rfl State.start_moves)
    refine Moves.evKeep ?_ rfl rfl
    exact h6

theorem State.evLetBegin_moves {s : State} :
    Moves 0x1000000000000000000000000000000000000000000000000000000000000000000026d00 s (State.evLetBegin s) := by
  unfold State.evLetBegin
  extract_lets -underBinder -merge -useContext v0 v1
  have h2 : Moves 0x1000000000000000000000000000000000000000000000000000000000000000000026d00 s v0 := by
    unfold v0
    refine Moves.trans ?_ (Moves.mono (k := 0x24000) rfl State.evFreeze_moves)
    refine Moves.trans ?_ (Moves.mono (k := 0x1000000000000000000000000000000000000000000000000000000000000000000026d00) rfl State.evDrain_moves)
    exact Moves.refl
  try clear_value v0
  refine Moves.evKeep ?_ rfl rfl
  exact h2

theorem State.evThaw_moves {s : State} {a0 : Nat} :
    Moves 0x4000 s (State.evThaw s a0) := by
  unfold State.evThaw
  extract_lets -underBinder -merge -useContext v0
  refine Moves.ite ?_ ?_
  · refine Moves.evKeep ?_ rfl rfl
    exact Moves.refl
  · exact Moves.refl

theorem State.evLetEnd_moves {s : State} :
    Moves 0x4000 s (State.evLetEnd s) := by
  unfold State.evLetEnd
  refine Moves.trans ?_ (Moves.mono (k := 0x4000) rfl State.evThaw_moves)
  exact Moves.refl

theorem State.evRecovered_moves {s : State} :
    Moves 0x1000000000000000000000000000000000000000000000000000000000000000000026d00 s (State.evRecovered s) := by
  unfold State.evRecovered
  extract_lets -underBinder -merge -useContext v0 v1 v2 v3 v4 v5 v6 v7
  try clear_value v0
  try clear_value v1
  try clear_value v2
  try clear_value v3
  have h8 : Moves 0x1000000000000000000000000000000000000000000000000000000000000000000026d00 s v5 := by
    unfold v5
    refine Moves.upd (x := s) ?_ (fun p hp => by cases p <;> first | rfl | exact ⟨rfl, rfl⟩ | exact ⟨rfl, rfl, rfl⟩ | exact ⟨rfl, rfl, rfl, rfl⟩ | exact fun _ => List.prefix_rfl | exact List.prefix_rfl | exact fun _ h _ => h | exact fun _ _ => rfl | exact absurd hp (by decide)) rfl rfl rfl rfl rfl
    exact Moves.refl
  try clear_value v5
  try clear_value v6
  have h9 : Moves 0x1000000000000000000000000000000000000000000000000000000000000000000026d00 s v7 := by
    unfold v7
    refine Moves.ite ?_ ?_
    · exact h8
    · refine Moves.trans ?_ (Moves.mono (k := 0x1000000000000000000000000000000000000000000000000000000000000000000002c00) rfl EvRec.error_moves)
      refine Moves.trans ?_ (Moves.mono (k := 0x4000) rfl State.evLost_moves)
      refine Moves.trans ?_ (Moves.mono (k := 0x1000000000000000000000000000000000000000000000000000000000000000000026d00) rfl State.evWrite_moves)
      exact h8
  try clear_value v7
  refine Moves.trans ?_ (Moves.mono (k := 0x1000000000000000000000000000000000000000000000000000000000000000000026d00) rfl State.evWrite_moves)
  exact h9

theorem State.pfMark_moves {s : State} :
    Moves 0x100 s (State.pfMark s) := by
  unfold State.pfMark
  extract_lets -underBinder -merge -useContext v0
  try clear_value v0
  refine Moves.kp ?_ rfl
  exact Moves.refl

theorem execArchiveLagFreeze_moves {s : State} :
    ResMoves 0x24000 s (execArchiveLagFreeze s) := by
  unfold execArchiveLagFreeze
  refine ResMoves.ite ?_ ?_
  · refine ResMoves.next ?_
    exact Moves.refl
  · refine ResMoves.ite ?_ ?_
    · refine ResMoves.ite ?_ ?_
      · refine ResMoves.next ?_
        refine Moves.trans ?_ (Moves.mono (k := 0x4000) rfl State.evThaw_moves)
        exact Moves.refl
      · refine ResMoves.next ?_
        exact Moves.refl
    · refine ResMoves.ite ?_ ?_
      · refine ResMoves.next ?_
        refine Moves.trans ?_ (Moves.mono (k := 0x24000) rfl State.evFreeze_moves)
        exact Moves.refl
      · refine ResMoves.next ?_
        exact Moves.refl

theorem execEvFreeze_moves {a0 : Nat} {a1 : Nat} {a2 : Nat} {a3 : Bool} {s : State} :
    ResMoves 0x10000000000000000000000000000000000000000000000000000000000000000000000026400 s (execEvFreeze a0 a1 a2 a3 s) := by
  unfold execEvFreeze
  split
  · extract_lets -underBinder -merge -useContext v0
    refine ResMoves.ite ?_ ?_
    · refine ResMoves.next ?_
      exact Moves.refl
    · refine ResMoves.ite ?_ ?_
      · refine ResMoves.next ?_
        refine Moves.trans ?_ (Moves.mono (k := 0x10000000000000000000000000000000000000000000000000000000000000000000000002400) rfl State.refuse_moves)
        refine Moves.evKeep ?_ rfl rfl
        exact Moves.refl
      · refine ResMoves.ite ?_ ?_
        · refine ResMoves.next ?_
          refine Moves.trans ?_ (Moves.mono (k := 0x10000000000000000000000000000000000000000000000000000000000000000000000004400) rfl State.evCopied_moves)
          exact Moves.refl
        · refine ResMoves.next ?_
          exact Moves.refl
  · refine ResMoves.trans ?_ (ResMoves.mono (k := 0x10000000000000000000000000000000000000000000000000000000000000000000000026400) rfl State.evFreezeCmd_moves)
    exact Moves.refl

theorem execEvRecover_moves {a0 : Bool} {s : State} :
    ResMoves 0x1000000000000000000000000000000000000000000000000000000000000000000026d00 s (execEvRecover a0 s) := by
  unfold execEvRecover
  extract_lets -underBinder -merge -useContext v0 v1 v2 v3
  have h4 : Moves 0x1000000000000000000000000000000000000000000000000000000000000000000026d00 s v1 := by
    unfold v1
    refine Moves.evKeep ?_ rfl rfl
    exact Moves.refl
  try clear_value v1
  refine ResMoves.ite ?_ ?_
  · refine ResMoves.ite ?_ ?_
    · refine ResMoves.next ?_
      refine Moves.evKeep ?_ rfl rfl
      exact h4
    · refine ResMoves.ite ?_ ?_
      · refine ResMoves.next ?_
        refine Moves.evKeep ?_ rfl rfl
        exact h4
      · refine ResMoves.next ?_
        refine Moves.trans ?_ (Moves.mono (k := 0x1000000000000000000000000000000000000000000000000000000000000000000026d00) rfl State.evRecovered_moves)
        exact h4
  · refine ResMoves.next ?_
    exact Moves.refl

theorem execEvRelease_moves {a0 : Nat} {a1 : Nat} {s : State} :
    ResMoves 0x10000000000000000000000000000000000000000000000000000000000000000000000006400 s (execEvRelease a0 a1 s) := by
  unfold execEvRelease
  refine ResMoves.trans ?_ (State.runCmd_moves rfl (fun st0 c1 => ?_))
  · exact Moves.refl
  · refine Moves.ite ?_ ?_
    · refine Moves.trans ?_ (Moves.mono (k := 0x10000000000000000000000000000000000000000000000000000000000000000000000000400) rfl State.done_moves)
      refine Moves.trans ?_ (Moves.mono (k := 0x4000) rfl State.evThaw_moves)
      exact Moves.refl
    · refine Moves.trans ?_ (Moves.mono (k := 0x10000000000000000000000000000000000000000000000000000000000000000000000000400) rfl State.answer_moves)
      exact Moves.refl

theorem execEventRecordWrite_moves {a0 : Nat} {s : State} :
    ResMoves 0x4001000000000000000000000000000000000000000000000000000000000000000000026d00 s (execEventRecordWrite a0 s) := by
  unfold execEventRecordWrite
  split
  · refine ResMoves.next ?_
    exact Moves.refl
  · extract_lets -underBinder -merge -useContext v0 v1
    have h2 : Moves 0x4001000000000000000000000000000000000000000000000000000000000000000000026d00 s v1 := by
      unfold v1
      refine Moves.ev ?_ rfl rfl (by first | exact fun h => mset_ok h | exact fun h => filter_ok h | exact fun _ => rfl)
      exact Moves.refl
    try clear_value v1
    refine ResMoves.ite ?_ ?_
    · refine ResMoves.next ?_
      refine Moves.trans ?_ (Moves.mono (k := 0x1000000000000000000000000000000000000000000000000000000000000000000026d00) rfl State.evWrite_moves)
      exact h2
    · refine ResMoves.ite ?_ ?_
      · refine ResMoves.next ?_
        refine Moves.trans ?_ (Moves.mono (k := 0x4000) rfl State.evStage_moves)
        exact h2
      · refine ResMoves.next ?_
        exact Moves.refl

theorem execFreezeDrain_moves {s : State} :
    ResMoves 0x1000000000000000000000000000000000000000000000000000000000000000000026d00 s (execFreezeDrain s) := by
  unfold execFreezeDrain
  refine ResMoves.ite ?_ ?_
  · refine ResMoves.next ?_
    refine Moves.trans ?_ (Moves.mono (k := 0x1000000000000000000000000000000000000000000000000000000000000000000026d00) rfl State.evDrain_moves)
    exact Moves.refl
  · refine ResMoves.next ?_
    exact Moves.refl

theorem execFreezeLimitExpiry_moves {s : State} :
    ResMoves 0x4000 s (execFreezeLimitExpiry s) := by
  unfold execFreezeLimitExpiry
  refine ResMoves.ite ?_ ?_
  · refine ResMoves.next ?_
    refine Moves.trans ?_ (Moves.mono (k := 0x4000) rfl State.evThaw_moves)
    exact Moves.refl
  · refine ResMoves.next ?_
    exact Moves.refl

theorem execHandoffLost_moves {a0 : Nat} {s : State} :
    ResMoves 0x1000000000000000000000000000000000000000000000000000000000000000000026d00 s (execHandoffLost a0 s) := by
  unfold execHandoffLost
  extract_lets -underBinder -merge -useContext v0 v1 v2 v3
  try clear_value v0
  try clear_value v1
  have h4 : Moves 0x1000000000000000000000000000000000000000000000000000000000000000000026d00 s v3 := by
    unfold v3
    refine Moves.evKeep ?_ rfl rfl
    exact Moves.refl
  try clear_value v3
  refine ResMoves.ite ?_ ?_
  · refine ResMoves.next ?_
    refine Moves.trans ?_ (Moves.mono (k := 0x1000000000000000000000000000000000000000000000000000000000000000000002c00) rfl EvRec.error_moves)
    refine Moves.trans ?_ (Moves.mono (k := 0x4000) rfl State.evLost_moves)
    refine Moves.trans ?_ (Moves.mono (k := 0x1000000000000000000000000000000000000000000000000000000000000000000026d00) rfl State.evWrite_moves)
    exact h4
  · refine ResMoves.next ?_
    exact Moves.refl

theorem execLastResortEntry_moves {a0 : Nat} {a1 : Nat} {s : State} :
    ResMoves 0x1000000000000000000000000000000000000000000000000000000000000000000026d00 s (execLastResortEntry a0 a1 s) := by
  unfold execLastResortEntry
  refine ResMoves.ite ?_ ?_
  · refine ResMoves.next ?_
    exact Moves.refl
  · refine ResMoves.ite ?_ ?_
    · refine ResMoves.next ?_
      refine Moves.trans ?_ (Moves.mono (k := 0x1000000000000000000000000000000000000000000000000000000000000000000026d00) rfl State.evLastResort_moves)
      exact Moves.refl
    · refine ResMoves.ite ?_ ?_
      · refine ResMoves.next ?_
        refine Moves.trans ?_ (Moves.mono (k := 0x1000000000000000000000000000000000000000000000000000000000000000000026d00) rfl State.evLastResort_moves)
        exact Moves.refl
      · refine ResMoves.next ?_
        exact Moves.refl

end Sys2Proof.Machine
end

