-- ==== Sys2Proof/Laws/FrameEcc.lean ====
section
/-! SUPPORT. What every definition of Machine/Ecc.lean may change (masks over `Part.bit`), one lemma each. -/

namespace Sys2Proof.Machine

open Sys2Proof

theorem State.sdJudge_moves {s : State} {a0 : Sys2Proof.SdBeat} :
    Moves 0x20002000 s (State.sdJudge s a0) := by
  unfold State.sdJudge
  split
  · extract_lets -underBinder -merge -useContext v0
    try clear_value v0
    refine Moves.ite ?_ ?_
    · exact Moves.refl
    · refine Moves.trans ?_ (Moves.mono (k := 0x2000) rfl State.arrive_moves)
      refine Moves.cs ?_ rfl
      exact Moves.refl
  · exact Moves.refl

end Sys2Proof.Machine
end

