-- ==== Sys2Proof/Laws/FrameAnalog.lean ====
section
/-! SUPPORT. What every definition of Machine/Analog.lean may change (masks over `Part.bit`), one lemma each. -/

namespace Sys2Proof.Machine

open Sys2Proof

theorem State.each_moves {m : Nat} {s : State} {l : List Nat} {f : State → Nat → State} (hf : ∀ st a, Moves m st (f st a)) :
    Moves m s (State.each s l f) := Moves.foldl Moves.refl hf

theorem State.setAfCore_moves {s : State} {a0 : Nat} {a1 : Sys2Proof.Machine.AfCore} :
    Moves 0x40000 s (State.setAfCore s a0 a1) := by
  unfold State.setAfCore
  extract_lets -underBinder -merge -useContext v0
  try clear_value v0
  refine Moves.af ?_ rfl
  exact Moves.refl

theorem State.setFcChan_moves {s : State} {a0 : Nat} {a1 : Sys2Proof.Machine.FcChan} :
    Moves 0x80000 s (State.setFcChan s a0 a1) := by
  unfold State.setFcChan
  extract_lets -underBinder -merge -useContext v0
  try clear_value v0
  refine Moves.fc ?_ rfl
  exact Moves.refl

theorem State.markFast_moves {s : State} {a0 : Nat} {a1 : Nat} {a2 : Bool} {a3 : Nat} :
    Moves 0x80000 s (State.markFast s a0 a1 a2 a3) := by
  unfold State.markFast
  extract_lets -underBinder -merge -useContext v0 v1
  try clear_value v0
  try clear_value v1
  refine Moves.trans ?_ (Moves.mono (k := 0x80000) rfl State.setFcChan_moves)
  exact Moves.refl

theorem State.markFine_moves {s : State} {a0 : Nat} {a1 : Nat} {a2 : Bool} {a3 : Nat} :
    Moves 0x80000 s (State.markFine s a0 a1 a2 a3) := by
  unfold State.markFine
  extract_lets -underBinder -merge -useContext v0 v1 v2
  try clear_value v0
  try clear_value v1
  try clear_value v2
  refine Moves.trans ?_ (Moves.mono (k := 0x80000) rfl State.setFcChan_moves)
  exact Moves.refl

theorem State.countChg_moves {s : State} {a0 : Nat} :
    Moves 0x80000 s (State.countChg s a0) := by
  unfold State.countChg
  extract_lets -underBinder -merge -useContext v0
  try clear_value v0
  refine Moves.trans ?_ (Moves.mono (k := 0x80000) rfl State.setFcChan_moves)
  exact Moves.refl

theorem State.evGain_moves {s : State} {a0 : Nat} {a1 : Nat} :
    Moves 0x80000 s (State.evGain s a0 a1) := by
  unfold State.evGain
  refine Moves.trans ?_ (Moves.mono (k := 0x80000) rfl State.markFast_moves)
  refine Moves.trans ?_ (Moves.mono (k := 0x80000) rfl State.markFine_moves)
  refine Moves.trans ?_ (Moves.mono (k := 0x80000) rfl State.countChg_moves)
  exact Moves.refl

theorem State.keepBefore_moves {s : State} :
    Moves 0x40000 s (State.keepBefore s) := by
  unfold State.keepBefore
  extract_lets -underBinder -merge -useContext v0
  try clear_value v0
  refine Moves.af ?_ rfl
  exact Moves.refl

theorem State.afShow_moves {s : State} {a0 : Nat} :
    Moves 0x10000000000 s (State.afShow s a0) := by
  unfold State.afShow
  extract_lets -underBinder -merge -useContext v0 v1 v2
  try clear_value v0
  have h3 : Moves 0x10000000000 s v1 := by
    unfold v1
    refine Moves.wr ?_ rfl
    exact Moves.refl
  try clear_value v1
  have h4 : Moves 0x10000000000 s v2 := by
    unfold v2
    refine Moves.wr ?_ rfl
    exact h3
  try clear_value v2
  refine Moves.wr ?_ rfl
  exact h4

theorem State.pathMoved_moves {s : State} {a0 : State} {a1 : Nat} :
    Moves 0x80000 s (State.pathMoved s a0 a1) := by
  unfold State.pathMoved
  extract_lets -underBinder -merge -useContext v0
  try clear_value v0
  refine Moves.ite ?_ ?_
  · exact Moves.refl
  · refine Moves.trans ?_ (Moves.mono (k := 0x80000) rfl State.setFcChan_moves)
    exact Moves.refl

theorem State.evStart_moves {s : State} {a0 : Nat} {a1 : Nat} :
    Moves 0x80000 s (State.evStart s a0 a1) := by
  unfold State.evStart
  refine Moves.trans ?_ (Moves.mono (k := 0x80000) rfl State.markFast_moves)
  refine Moves.trans ?_ (Moves.mono (k := 0x80000) rfl State.markFine_moves)
  refine Moves.trans ?_ (Moves.mono (k := 0x80000) rfl State.countChg_moves)
  exact Moves.refl

theorem State.evScan_moves {s : State} {a0 : Nat} {a1 : Nat} :
    Moves 0x80000 s (State.evScan s a0 a1) := by
  unfold State.evScan
  refine Moves.trans ?_ (Moves.mono (k := 0x80000) rfl State.markFine_moves)
  refine Moves.trans ?_ (Moves.mono (k := 0x80000) rfl State.countChg_moves)
  exact Moves.refl

theorem State.setSlice_moves {s : State} {a0 : Nat} {a1 : Nat} {a2 : Sys2Proof.Machine.Slice} :
    Moves 0x40000 s (State.setSlice s a0 a1 a2) := by
  unfold State.setSlice
  extract_lets -underBinder -merge -useContext v0
  try clear_value v0
  refine Moves.af ?_ rfl
  exact Moves.refl

end Sys2Proof.Machine
end

