-- ==== Sys2Proof/Laws/FrameConversions.lean ====
section
/-! SUPPORT. What every definition of Machine/Conversions.lean may change (masks over `Part.bit`), one lemma each. -/

namespace Sys2Proof.Machine

open Sys2Proof

theorem State.layCore_moves {s : State} {a0 : Nat} {a1 : List Sys2Proof.Machine.Planned} :
    Moves 0x40000 s (State.layCore s a0 a1) := by
  unfold State.layCore
  extract_lets -underBinder -merge -useContext v0 v1 v2 v3
  try clear_value v0
  try clear_value v1
  try clear_value v2
  try clear_value v3
  refine Moves.trans ?_ (Moves.mono (k := 0x40000) rfl State.setAfCore_moves)
  exact Moves.refl

theorem State.addScan_moves {s : State} {a0 : Nat} {a1 : Nat} :
    Moves 0x40000 s (State.addScan s a0 a1) := by
  unfold State.addScan
  extract_lets -underBinder -merge -useContext v0 v1
  try clear_value v0
  try clear_value v1
  refine Moves.trans ?_ (Moves.mono (k := 0x40000) rfl State.layCore_moves)
  exact Moves.refl

theorem State.addUrgent_moves {s : State} {a0 : Nat} {a1 : Nat} {a2 : Nat} :
    Moves 0x40000 s (State.addUrgent s a0 a1 a2) := by
  unfold State.addUrgent
  extract_lets -underBinder -merge -useContext v0
  try clear_value v0
  refine Moves.trans ?_ (Moves.mono (k := 0x40000) rfl State.layCore_moves)
  exact Moves.refl

theorem State.afCalWritten_moves {s : State} {a0 : Nat} :
    Moves 0x10000040000 s (State.afCalWritten s a0) := by
  unfold State.afCalWritten
  extract_lets -underBinder -merge -useContext v0 v1
  have h2 : Moves 0x10000040000 s v0 := by
    unfold v0
    refine Moves.wr ?_ rfl
    exact Moves.refl
  try clear_value v0
  try clear_value v1
  refine Moves.af ?_ rfl
  exact h2

theorem State.calFallback_moves {s : State} {a0 : Nat} :
    Moves 0x1000000000000000000000000000000000000000000000000000000000000000000046c00 s (State.calFallback s a0) := by
  unfold State.calFallback
  extract_lets -underBinder -merge -useContext v0 v1 v2 v3 v4 v5
  try clear_value v0
  try clear_value v1
  try clear_value v2
  try clear_value v3
  try clear_value v4
  have h6 : Moves 0x1000000000000000000000000000000000000000000000000000000000000000000046c00 s v5 := by
    unfold v5
    refine Moves.af ?_ rfl
    exact Moves.refl
  try clear_value v5
  refine Moves.ite ?_ ?_
  · refine Moves.trans ?_ (Moves.mono (k := 0x1000000000000000000000000000000000000000000000000000000000000000000006c00) rfl State.notify_moves)
    exact h6
  · exact h6

theorem State.afChanCommit_moves {s : State} {a0 : State} {a1 : Nat} :
    Moves 0x10000000000000000000000000000000000000000000000000000000000000000000c6c00 s (State.afChanCommit s a0 a1) := by
  unfold State.afChanCommit
  extract_lets -underBinder -merge -useContext v0
  have h1 : Moves 0x10000000000000000000000000000000000000000000000000000000000000000000c6c00 s v0 := by
    unfold v0
    refine Moves.ite ?_ ?_
    · refine Moves.trans ?_ (Moves.mono (k := 0x80000) rfl State.evGain_moves)
      exact Moves.refl
    · exact Moves.refl
  try clear_value v0
  refine Moves.trans ?_ (Moves.mono (k := 0x1000000000000000000000000000000000000000000000000000000000000000000046c00) rfl State.calFallback_moves)
  exact h1

theorem State.planCommit_moves {s : State} {a0 : State} {a1 : Nat} :
    Moves 0x40000 s (State.planCommit s a0 a1) := by
  unfold State.planCommit
  extract_lets -underBinder -merge -useContext v0 v1
  try clear_value v0
  try clear_value v1
  refine Moves.ite ?_ ?_
  · exact Moves.refl
  · refine Moves.trans ?_ (Moves.mono (k := 0x40000) rfl State.setAfCore_moves)
    refine Moves.af ?_ rfl
    exact Moves.refl

theorem State.refCommit_moves {s : State} {a0 : State} {a1 : Nat} :
    Moves 0x40000 s (State.refCommit s a0 a1) := by
  unfold State.refCommit
  extract_lets -underBinder -merge -useContext v0 v1
  try clear_value v0
  try clear_value v1
  refine Moves.ite ?_ ?_
  · refine Moves.trans ?_ (Moves.mono (k := 0x40000) rfl State.setAfCore_moves)
    exact Moves.refl
  · refine Moves.ite ?_ ?_
    · refine Moves.trans ?_ (Moves.mono (k := 0x40000) rfl State.setAfCore_moves)
      exact Moves.refl
    · exact Moves.refl

theorem State.chanEvent_moves {s : State} {a0 : State} {a1 : Nat} :
    Moves 0x80000 s (State.chanEvent s a0 a1) := by
  unfold State.chanEvent
  extract_lets -underBinder -merge -useContext v0 v1
  try clear_value v0
  try clear_value v1
  refine Moves.ite ?_ ?_
  · refine Moves.trans ?_ (Moves.mono (k := 0x80000) rfl State.evStart_moves)
    exact Moves.refl
  · refine Moves.ite ?_ ?_
    · refine Moves.trans ?_ (Moves.mono (k := 0x80000) rfl State.evScan_moves)
      exact Moves.refl
    · refine Moves.ite ?_ ?_
      · refine Moves.trans ?_ (Moves.mono (k := 0x80000) rfl State.evScan_moves)
        exact Moves.refl
      · exact Moves.refl

theorem State.afCoresCommit_moves {s : State} {a0 : State} {a1 : List Nat} :
    Moves 0x100000c0000 s (State.afCoresCommit s a0 a1) := by
  unfold State.afCoresCommit
  extract_lets -underBinder -merge -useContext v0 v1 v2 v3
  try clear_value v0
  try clear_value v1
  have h4 : Moves 0x100000c0000 s v2 := by
    unfold v2
    refine Moves.foldl ?_ (fun st5 a6 => ?_)
    · exact Moves.refl
    · refine Moves.trans ?_ (Moves.mono (k := 0x40000) rfl State.planCommit_moves)
      refine Moves.trans ?_ (Moves.mono (k := 0x40000) rfl State.refCommit_moves)
      exact Moves.refl
  try clear_value v2
  try clear_value v3
  refine Moves.trans ?_ (State.each_moves (fun st7 a8 => ?_))
  · exact h4
  · refine Moves.trans ?_ (Moves.mono (k := 0x10000000000) rfl State.afShow_moves)
    refine Moves.trans ?_ (Moves.mono (k := 0x80000) rfl State.pathMoved_moves)
    refine Moves.ite ?_ ?_
    · refine Moves.trans ?_ (Moves.mono (k := 0x80000) rfl State.chanEvent_moves)
      exact Moves.refl
    · exact Moves.refl

theorem State.afTimerCommit_moves {s : State} {a0 : Nat} :
    Moves 0x40000 s (State.afTimerCommit s a0) := by
  unfold State.afTimerCommit
  extract_lets -underBinder -merge -useContext v0
  try clear_value v0
  refine Moves.af ?_ rfl
  exact Moves.refl

theorem State.afCommit_moves {s : State} {a0 : State} {a1 : List Sys2Proof.Machine.WReq} :
    Moves 0x10000000000000000000000000000000000000000000000000000000000000100000c6c00 s (State.afCommit s a0 a1) := by
  unfold State.afCommit
  extract_lets -underBinder -merge -useContext v0 v1 v2 v3
  try clear_value v0
  have h4 : Moves 0x10000000000000000000000000000000000000000000000000000000000000100000c6c00 s v1 := by
    unfold v1
    refine Moves.af ?_ rfl
    exact Moves.refl
  try clear_value v1
  have h5 : Moves 0x10000000000000000000000000000000000000000000000000000000000000100000c6c00 s v2 := by
    unfold v2
    refine Moves.trans ?_ (Moves.mono (k := 0x100000c0000) rfl State.afCoresCommit_moves)
    refine Moves.trans ?_ (State.each_moves (fun st6 a7 => ?_))
    · exact h4
    · refine Moves.trans ?_ (Moves.mono (k := 0x10000040000) rfl State.afCalWritten_moves)
      exact Moves.refl
  try clear_value v2
  have h8 : Moves 0x10000000000000000000000000000000000000000000000000000000000000100000c6c00 s v3 := by
    unfold v3
    refine Moves.trans ?_ (State.each_moves (fun st9 a10 => ?_))
    · exact h5
    · refine Moves.trans ?_ (Moves.mono (k := 0x10000000000000000000000000000000000000000000000000000000000000000000c6c00) rfl State.afChanCommit_moves)
      exact Moves.refl
  try clear_value v3
  refine Moves.trans ?_ (State.each_moves (fun st11 a12 => ?_))
  · exact h8
  · refine Moves.trans ?_ (Moves.mono (k := 0x40000) rfl State.afTimerCommit_moves)
    exact Moves.refl

theorem State.converted_moves {s : State} {a0 : Nat} {a1 : Nat} {a2 : Nat} :
    Moves 0x40000 s (State.converted s a0 a1 a2) := by
  unfold State.converted
  extract_lets -underBinder -merge -useContext v0 v1 v2 v3 v4
  try clear_value v0
  try clear_value v1
  have h5 : Moves 0x40000 s v2 := by
    unfold v2
    refine Moves.trans ?_ (Moves.mono (k := 0x40000) rfl State.setSlice_moves)
    exact Moves.refl
  try clear_value v2
  try clear_value v3
  try clear_value v4
  refine Moves.trans ?_ (Moves.mono (k := 0x40000) rfl State.setAfCore_moves)
  exact h5

theorem State.coresOn_moves {s : State} {a0 : List Nat} :
    Moves 0x100000c0000 s (State.coresOn s a0) := by
  unfold State.coresOn
  extract_lets -underBinder -merge -useContext v0 v1
  try clear_value v0
  have h2 : Moves 0x100000c0000 s v1 := by
    unfold v1
    refine Moves.foldl ?_ (fun st3 a4 => ?_)
    · refine Moves.af ?_ rfl
      exact Moves.refl
    · refine Moves.setFlag ?_ rfl
      exact Moves.refl
  try clear_value v1
  refine Moves.trans ?_ (Moves.mono (k := 0x100000c0000) rfl State.afCoresCommit_moves)
  exact h2

theorem State.coresDue_moves {s : State} :
    Moves 0x100000c0000 s (State.coresDue s) := by
  unfold State.coresDue
  split
  · refine Moves.ite ?_ ?_
    · refine Moves.trans ?_ (Moves.mono (k := 0x100000c0000) rfl State.coresOn_moves)
      exact Moves.refl
    · exact Moves.refl
  · exact Moves.refl

theorem State.retireSlice_moves {s : State} {a0 : Nat} {a1 : Nat} {a2 : Nat} :
    Moves 0x100000c0000 s (State.retireSlice s a0 a1 a2) := by
  unfold State.retireSlice
  extract_lets -underBinder -merge -useContext v0 v1 v2 v3 v4 v5
  have h6 : Moves 0x100000c0000 s v0 := by
    unfold v0
    refine Moves.wrk ?_ rfl
    refine Moves.wrk ?_ rfl
    exact Moves.refl
  try clear_value v0
  try clear_value v1
  try clear_value v2
  try clear_value v3
  try clear_value v4
  have h8 : Moves 0x100000c0000 s v5 := by
    unfold v5
    refine Moves.trans ?_ (Moves.mono (k := 0x40000) rfl State.setAfCore_moves)
    exact h6
  try clear_value v5
  refine Moves.ite ?_ ?_
  · exact Moves.refl
  · refine Moves.trans ?_ (State.each_moves (fun st9 a10 => ?_))
    · exact h8
    · refine Moves.trans ?_ (Moves.mono (k := 0x80000) rfl State.evScan_moves)
      exact Moves.refl

theorem State.estimate_moves {s : State} {a0 : Nat} {a1 : Nat} {a2 : Int} {a3 : Int} {a4 : Int} :
    Moves 0x100000c0000 s (State.estimate s a0 a1 a2 a3 a4) := by
  unfold State.estimate
  extract_lets -underBinder -merge -useContext v0 v1 v2 v3 v4 v5
  try clear_value v0
  try clear_value v1
  have h6 : Moves 0x100000c0000 s v2 := by
    unfold v2
    refine Moves.trans ?_ (Moves.mono (k := 0x40000) rfl State.setSlice_moves)
    exact Moves.refl
  try clear_value v2
  try clear_value v3
  have h7 : Moves 0x100000c0000 s v4 := by
    unfold v4
    refine Moves.wrk ?_ rfl
    refine Moves.wrk ?_ rfl
    refine Moves.wrk ?_ rfl
    refine Moves.wrk ?_ rfl
    exact h6
  try clear_value v4
  try clear_value v5
  refine Moves.ite ?_ ?_
  · exact h7
  · refine Moves.trans ?_ (Moves.mono (k := 0x100000c0000) rfl State.retireSlice_moves)
    exact h7

theorem State.feedStreams_moves {s : State} {a0 : Nat} {a1 : Nat} {a2 : Bool} {a3 : Nat} {a4 : Sys2Proof.Machine.Smp} :
    Moves 0x40000 s (State.feedStreams s a0 a1 a2 a3 a4) := by
  unfold State.feedStreams
  extract_lets -underBinder -merge -useContext v0
  try clear_value v0
  refine Moves.ite ?_ ?_
  · exact Moves.refl
  · refine Moves.af ?_ rfl
    exact Moves.refl

theorem State.refSeen_moves {s : State} {a0 : Nat} {a1 : Nat} :
    Moves 0xc0000 s (State.refSeen s a0 a1) := by
  unfold State.refSeen
  extract_lets -underBinder -merge -useContext v0 v1 v2
  try clear_value v0
  try clear_value v1
  have h3 : Moves 0xc0000 s v2 := by
    unfold v2
    refine Moves.trans ?_ (Moves.mono (k := 0x40000) rfl State.setAfCore_moves)
    exact Moves.refl
  try clear_value v2
  refine Moves.ite ?_ ?_
  · refine Moves.trans ?_ (Moves.mono (k := 0x40000) rfl State.setAfCore_moves)
    exact Moves.refl
  · refine Moves.ite ?_ ?_
    · exact Moves.refl
    · refine Moves.trans ?_ (State.each_moves (fun st4 a5 => ?_))
      · exact h3
      · refine Moves.trans ?_ (Moves.mono (k := 0x80000) rfl State.evGain_moves)
        exact Moves.refl

theorem State.postRaw_moves {s : State} {a0 : State} {a1 : Nat} {a2 : Nat} {a3 : Nat} {a4 : Sys2Proof.W32} {a5 : Nat} {a6 : Bool} :
    Moves 0x100000c0000 s (State.postRaw s a0 a1 a2 a3 a4 a5 a6) := by
  unfold State.postRaw
  extract_lets -underBinder -merge -useContext v0 v1 v2 v3 v4
  have h5 : Moves 0x100000c0000 s v0 := by
    unfold v0
    refine Moves.trans ?_ (Moves.mono (k := 0x40000) rfl State.converted_moves)
    refine Moves.ite ?_ ?_
    · refine Moves.setFlag ?_ rfl
      exact Moves.refl
    · exact Moves.refl
  try clear_value v0
  try clear_value v1
  try clear_value v2
  have h6 : Moves 0x100000c0000 s v3 := by
    unfold v3
    refine Moves.trans ?_ (Moves.mono (k := 0xc0000) rfl State.refSeen_moves)
    refine Moves.wr ?_ rfl
    exact h5
  try clear_value v3
  try clear_value v4
  refine Moves.ite ?_ ?_
  · split
    · extract_lets -underBinder -merge -useContext v7
      have h8 : Moves 0x100000c0000 s v7 := by
        unfold v7
        refine Moves.trans ?_ (Moves.mono (k := 0x40000) rfl State.setAfCore_moves)
        exact h5
      try clear_value v7
      refine Moves.wr ?_ rfl
      refine Moves.wrk ?_ rfl
      exact h8
    · exact h5
  · refine Moves.trans ?_ (Moves.mono (k := 0x40000) rfl State.feedStreams_moves)
    refine Moves.trans ?_ (Moves.mono (k := 0x80000) rfl State.setFcChan_moves)
    exact h6

theorem State.sliceFault_moves {s : State} {a0 : Nat} {a1 : Nat} :
    Moves 0x100000c0000 s (State.sliceFault s a0 a1) := by
  unfold State.sliceFault
  extract_lets -underBinder -merge -useContext v0 v1 v2
  try clear_value v0
  try clear_value v1
  have h3 : Moves 0x100000c0000 s v2 := by
    unfold v2
    refine Moves.trans ?_ (Moves.mono (k := 0x40000) rfl State.setSlice_moves)
    exact Moves.refl
  try clear_value v2
  refine Moves.ite ?_ ?_
  · refine Moves.trans ?_ (Moves.mono (k := 0x100000c0000) rfl State.retireSlice_moves)
    exact h3
  · exact h3

theorem State.startDeferred_moves {s : State} {a0 : Nat} {a1 : Nat} :
    Moves 0x40000 s (State.startDeferred s a0 a1) := by
  unfold State.startDeferred
  split
  · extract_lets -underBinder -merge -useContext v0
    try clear_value v0
    refine Moves.ite ?_ ?_
    · refine Moves.trans ?_ (Moves.mono (k := 0x40000) rfl State.addScan_moves)
      refine Moves.trans ?_ (Moves.mono (k := 0x40000) rfl State.setAfCore_moves)
      exact Moves.refl
    · exact Moves.refl
  · exact Moves.refl

theorem State.trigDrop_moves {s : State} {a0 : Nat} :
    Moves 0x1000000000000000000000000000000000000000000000000000000000000010000046c00 s (State.trigDrop s a0) := by
  unfold State.trigDrop
  extract_lets -underBinder -merge -useContext v0 v1 v2
  try clear_value v0
  try clear_value v1
  have h3 : Moves 0x1000000000000000000000000000000000000000000000000000000000000010000046c00 s v2 := by
    unfold v2
    refine Moves.bump ?_ rfl
    exact Moves.refl
  try clear_value v2
  refine Moves.ite ?_ ?_
  · refine Moves.trans ?_ (Moves.mono (k := 0x1000000000000000000000000000000000000000000000000000000000000000000006c00) rfl State.notify_moves)
    refine Moves.trans ?_ (Moves.mono (k := 0x40000) rfl State.setAfCore_moves)
    exact h3
  · refine Moves.trans ?_ (Moves.mono (k := 0x40000) rfl State.setAfCore_moves)
    exact h3

theorem State.urgentAsk_moves {s : State} {a0 : Nat} {a1 : Nat} :
    Moves 0x40000 s (State.urgentAsk s a0 a1) := by
  unfold State.urgentAsk
  extract_lets -underBinder -merge -useContext v0 v1 v2 v3
  try clear_value v0
  try clear_value v1
  try clear_value v2
  have h4 : Moves 0x40000 s v3 := by
    unfold v3
    refine Moves.af ?_ rfl
    exact Moves.refl
  try clear_value v3
  refine Moves.ite ?_ ?_
  · refine Moves.ite ?_ ?_
    · exact h4
    · refine Moves.trans ?_ (Moves.mono (k := 0x40000) rfl State.addUrgent_moves)
      exact h4
  · exact h4

theorem State.trigEvent_moves {s : State} {a0 : Nat} {a1 : Bool} {a2 : Nat} :
    Moves 0x40000 s (State.trigEvent s a0 a1 a2) := by
  unfold State.trigEvent
  extract_lets -underBinder -merge -useContext v0 v1 v2 v3 v4
  try clear_value v0
  try clear_value v1
  try clear_value v2
  try clear_value v3
  have h5 : Moves 0x40000 s v4 := by
    unfold v4
    refine Moves.af ?_ rfl
    exact Moves.refl
  try clear_value v4
  refine Moves.trans ?_ (State.each_moves (fun st6 a7 => ?_))
  · exact h5
  · refine Moves.trans ?_ (Moves.mono (k := 0x40000) rfl State.urgentAsk_moves)
    exact Moves.refl

theorem State.urgentPost_moves {s : State} {a0 : Sys2Proof.W32} {a1 : Nat} {a2 : Nat} :
    Moves 0x10000000000 s (State.urgentPost s a0 a1 a2) := by
  unfold State.urgentPost
  refine Moves.wrapInc ?_ rfl
  refine Moves.wr ?_ rfl
  refine Moves.wr ?_ rfl
  exact Moves.refl

theorem State.urgentServe_moves {s : State} {a0 : Sys2Proof.W32} {a1 : Nat} {a2 : Nat × Nat → Bool} :
    Moves 0x10000040000 s (State.urgentServe s a0 a1 a2) := by
  unfold State.urgentServe
  extract_lets -underBinder -merge -useContext v0 v1 v2
  try clear_value v0
  try clear_value v1
  have h3 : Moves 0x10000040000 s v2 := by
    unfold v2
    refine Moves.af ?_ rfl
    exact Moves.refl
  try clear_value v2
  refine Moves.trans ?_ (State.each_moves (fun st4 a5 => ?_))
  · exact h3
  · refine Moves.trans ?_ (Moves.mono (k := 0x10000000000) rfl State.urgentPost_moves)
    exact Moves.refl

theorem execArcSupervisionTest_moves {a0 : Nat} {a1 : Nat} {s : State} :
    ResMoves 0x1000000000000000000000000000000000000000000000000000000000000010000006c00 s (execArcSupervisionTest a0 a1 s) := by
  unfold execArcSupervisionTest
  extract_lets -underBinder -merge -useContext v0
  have h1 : Moves 0x1000000000000000000000000000000000000000000000000000000000000010000006c00 s v0 := by
    unfold v0
    refine Moves.wr ?_ rfl
    exact Moves.refl
  try clear_value v0
  refine ResMoves.ite ?_ ?_
  · refine ResMoves.next ?_
    exact Moves.refl
  · refine ResMoves.next ?_
    refine Moves.ite ?_ ?_
    · refine Moves.trans ?_ (Moves.mono (k := 0x1000000000000000000000000000000000000000000000000000000000000000000006c00) rfl State.notify_moves)
      exact h1
    · exact h1

theorem execRefMonitorChange_moves {a0 : Nat} {a1 : Bool} {s : State} :
    ResMoves 0x1000000000000000000000000000000000000000000000000000000000000000000046c00 s (execRefMonitorChange a0 a1 s) := by
  unfold execRefMonitorChange
  extract_lets -underBinder -merge -useContext v0 v1 v2 v3
  try clear_value v0
  have h4 : Moves 0x1000000000000000000000000000000000000000000000000000000000000000000046c00 s v1 := by
    unfold v1
    refine Moves.trans ?_ (Moves.mono (k := 0x40000) rfl State.setAfCore_moves)
    exact Moves.refl
  try clear_value v1
  try clear_value v2
  have h5 : Moves 0x1000000000000000000000000000000000000000000000000000000000000000000046c00 s v3 := by
    unfold v3
    refine Moves.trans ?_ (Moves.mono (k := 0x40000) rfl State.setAfCore_moves)
    exact Moves.refl
  try clear_value v3
  refine ResMoves.ite ?_ ?_
  · refine ResMoves.next ?_
    exact Moves.refl
  · refine ResMoves.ite ?_ ?_
    · refine ResMoves.next ?_
      refine Moves.ite ?_ ?_
      · refine Moves.trans ?_ (Moves.mono (k := 0x1000000000000000000000000000000000000000000000000000000000000000000006c00) rfl State.notify_moves)
        exact h4
      · exact h4
    · refine ResMoves.next ?_
      refine Moves.ite ?_ ?_
      · refine Moves.trans ?_ (Moves.mono (k := 0x1000000000000000000000000000000000000000000000000000000000000000000006c00) rfl State.notify_moves)
        exact h5
      · exact h5

theorem execRefOkExpiry_moves {a0 : Nat} {s : State} :
    ResMoves 0xc0000 s (execRefOkExpiry a0 s) := by
  unfold execRefOkExpiry
  extract_lets -underBinder -merge -useContext v0 v1
  try clear_value v0
  have h2 : Moves 0xc0000 s v1 := by
    unfold v1
    refine Moves.trans ?_ (Moves.mono (k := 0x40000) rfl State.setAfCore_moves)
    exact Moves.refl
  try clear_value v1
  refine ResMoves.ite ?_ ?_
  · refine ResMoves.next ?_
    refine Moves.trans ?_ (State.each_moves (fun st3 a4 => ?_))
    · exact h2
    · refine Moves.trans ?_ (Moves.mono (k := 0x80000) rfl State.evGain_moves)
      exact Moves.refl
  · refine ResMoves.next ?_
    exact Moves.refl

theorem execSampleTimerEvent_moves {a0 : Nat} {s : State} :
    ResMoves 0x40000 s (execSampleTimerEvent a0 s) := by
  unfold execSampleTimerEvent
  extract_lets -underBinder -merge -useContext v0 v1
  try clear_value v0
  try clear_value v1
  refine ResMoves.ite ?_ ?_
  · refine ResMoves.next ?_
    refine Moves.trans ?_ (Moves.mono (k := 0x40000) rfl State.trigEvent_moves)
    refine Moves.af ?_ rfl
    exact Moves.refl
  · refine ResMoves.next ?_
    exact Moves.refl

theorem execScanTrigger_moves {a0 : Nat} {s : State} :
    ResMoves 0x1000000000000000000000000000000000000000000000000000000000000010000046c00 s (execScanTrigger a0 s) := by
  unfold execScanTrigger
  split
  · refine ResMoves.next ?_
    exact Moves.refl
  · extract_lets -underBinder -merge -useContext v0 v1 v2 v3
    try clear_value v0
    have h4 : Moves 0x1000000000000000000000000000000000000000000000000000000000000010000046c00 s v1 := by
      unfold v1
      refine Moves.af ?_ rfl
      exact Moves.refl
    try clear_value v1
    have h5 : Moves 0x1000000000000000000000000000000000000000000000000000000000000010000046c00 s v2 := by
      unfold v2
      refine Moves.trans ?_ (Moves.mono (k := 0x40000) rfl State.startDeferred_moves)
      exact h4
    try clear_value v2
    try clear_value v3
    refine ResMoves.ite ?_ ?_
    · refine ResMoves.next ?_
      exact Moves.refl
    · refine ResMoves.ite ?_ ?_
      · refine ResMoves.next ?_
        exact h4
      · refine ResMoves.ite ?_ ?_
        · refine ResMoves.next ?_
          refine Moves.trans ?_ (Moves.mono (k := 0x1000000000000000000000000000000000000000000000000000000000000010000046c00) rfl State.trigDrop_moves)
          exact h5
        · refine ResMoves.ite ?_ ?_
          · refine ResMoves.next ?_
            refine Moves.trans ?_ (Moves.mono (k := 0x40000) rfl State.addScan_moves)
            exact h5
          · refine ResMoves.next ?_
            refine Moves.trans ?_ (Moves.mono (k := 0x40000) rfl State.setAfCore_moves)
            exact h5

theorem execSliceConversion_moves {a0 : Nat} {a1 : Nat} {a2 : Nat} {a3 : Int} {a4 : Bool} {a5 : Bool} {s : State} :
    ResMoves 0x100000c0000 s (execSliceConversion a0 a1 a2 a3 a4 a5 s) := by
  unfold execSliceConversion
  extract_lets -underBinder -merge -useContext v0 v1 v2 v3
  have h4 : Moves 0x100000c0000 s v0 := by
    unfold v0
    refine Moves.trans ?_ (Moves.mono (k := 0x40000) rfl State.startDeferred_moves)
    exact Moves.refl
  try clear_value v0
  try clear_value v1
  try clear_value v2
  have h6 : Moves 0x100000c0000 s v3 := by
    unfold v3
    refine Moves.trans ?_ (Moves.mono (k := 0x100000c0000) rfl State.postRaw_moves)
    exact h4
  try clear_value v3
  refine ResMoves.ite ?_ ?_
  · refine ResMoves.next ?_
    exact Moves.refl
  · refine ResMoves.next ?_
    refine Moves.ite ?_ ?_
    · refine Moves.trans ?_ (Moves.mono (k := 0x100000c0000) rfl State.sliceFault_moves)
      exact h6
    · exact h6

theorem execSliceEstimate_moves {a0 : Nat} {a1 : Nat} {a2 : Int} {a3 : Int} {a4 : Int} {a5 : Bool} {s : State} :
    ResMoves 0x100000c0000 s (execSliceEstimate a0 a1 a2 a3 a4 a5 s) := by
  unfold execSliceEstimate
  extract_lets -underBinder -merge -useContext v0
  have h1 : Moves 0x100000c0000 s v0 := by
    unfold v0
    refine Moves.ite ?_ ?_
    · refine Moves.trans ?_ (Moves.mono (k := 0x100000c0000) rfl State.sliceFault_moves)
      exact Moves.refl
    · exact Moves.refl
  try clear_value v0
  refine ResMoves.ite ?_ ?_
  · refine ResMoves.next ?_
    exact Moves.refl
  · refine ResMoves.next ?_
    refine Moves.ite ?_ ?_
    · exact h1
    · refine Moves.trans ?_ (Moves.mono (k := 0x100000c0000) rfl State.estimate_moves)
      exact h1

theorem execSliceRetirementSwitch_moves {a0 : Nat} {s : State} :
    ResMoves 0x10000000000000000000000000000000000000000000000000000000000000100000c6c00 s (execSliceRetirementSwitch a0 s) := by
  unfold execSliceRetirementSwitch
  split
  · refine ResMoves.next ?_
    exact Moves.refl
  · extract_lets -underBinder -merge -useContext v0 v1 v2 v3 v4 v5 v6 v7
    try clear_value v0
    try clear_value v1
    have h8 : Moves 0x10000000000000000000000000000000000000000000000000000000000000100000c6c00 s v2 := by
      unfold v2
      refine Moves.af ?_ rfl
      exact Moves.refl
    try clear_value v2
    try clear_value v3
    have h9 : Moves 0x10000000000000000000000000000000000000000000000000000000000000100000c6c00 s v4 := by
      unfold v4
      refine Moves.wr ?_ rfl
      refine Moves.trans ?_ (Moves.mono (k := 0x40000) rfl State.setAfCore_moves)
      exact h8
    try clear_value v4
    have h10 : Moves 0x10000000000000000000000000000000000000000000000000000000000000100000c6c00 s v5 := by
      unfold v5
      refine Moves.trans ?_ (Moves.mono (k := 0x1000000000000000000000000000000000000000000000000000000000000000000006c00) rfl State.notify_moves)
      exact h9
    try clear_value v5
    have h11 : Moves 0x10000000000000000000000000000000000000000000000000000000000000100000c6c00 s v6 := by
      unfold v6
      refine Moves.ite ?_ ?_
      · refine Moves.trans ?_ (Moves.mono (k := 0x1000000000000000000000000000000000000000000000000000000000000000000006c00) rfl State.notify_moves)
        refine Moves.setFlag ?_ rfl
        exact h10
      · exact h10
    try clear_value v6
    have h12 : Moves 0x10000000000000000000000000000000000000000000000000000000000000100000c6c00 s v7 := by
      unfold v7
      refine Moves.trans ?_ (Moves.mono (k := 0x40000) rfl State.layCore_moves)
      exact h11
    try clear_value v7
    refine ResMoves.ite ?_ ?_
    · refine ResMoves.next ?_
      exact Moves.refl
    · refine ResMoves.next ?_
      refine Moves.trans ?_ (State.each_moves (fun st13 a14 => ?_))
      · exact h12
      · refine Moves.trans ?_ (Moves.mono (k := 0x10000000000) rfl State.afShow_moves)
        refine Moves.trans ?_ (Moves.mono (k := 0x80000) rfl State.pathMoved_moves)
        exact Moves.refl

theorem execUrgentConversion_moves {a0 : Nat} {a1 : Nat} {a2 : Nat} {a3 : Int} {a4 : Bool} {s : State} :
    ResMoves 0x10000040000 s (execUrgentConversion a0 a1 a2 a3 a4 s) := by
  unfold execUrgentConversion
  extract_lets -underBinder -merge -useContext v0
  try clear_value v0
  split
  · refine ResMoves.next ?_
    exact Moves.refl
  · extract_lets -underBinder -merge -useContext v1
    try clear_value v1
    refine ResMoves.ite ?_ ?_
    · refine ResMoves.next ?_
      exact Moves.refl
    · refine ResMoves.ite ?_ ?_
      · split
        · refine ResMoves.next ?_
          exact Moves.refl
        · extract_lets -underBinder -merge -useContext v2 v3 v4 v5
          try clear_value v2
          have h6 : Moves 0x10000040000 s v3 := by
            unfold v3
            refine Moves.trans ?_ (Moves.mono (k := 0x40000) rfl State.converted_moves)
            refine Moves.ite ?_ ?_
            · refine Moves.setFlag ?_ rfl
              exact Moves.refl
            · exact Moves.refl
          try clear_value v3
          try clear_value v4
          have h7 : Moves 0x10000040000 s v5 := by
            unfold v5
            refine Moves.trans ?_ (Moves.mono (k := 0x40000) rfl State.setAfCore_moves)
            exact h6
          try clear_value v5
          refine ResMoves.ite ?_ ?_
          · refine ResMoves.next ?_
            exact Moves.refl
          · refine ResMoves.next ?_
            refine Moves.trans ?_ (Moves.mono (k := 0x10000040000) rfl State.urgentServe_moves)
            exact h7
      · split
        · refine ResMoves.next ?_
          exact Moves.refl
        · refine ResMoves.ite ?_ ?_
          · refine ResMoves.next ?_
            refine Moves.trans ?_ (Moves.mono (k := 0x10000040000) rfl State.urgentServe_moves)
            exact Moves.refl
          · refine ResMoves.next ?_
            exact Moves.refl

end Sys2Proof.Machine
end

