-- ==== Sys2Proof/Laws/FrameChain.lean ====
section
/-! SUPPORT. What every definition of Machine/Chain.lean may change (masks over `Part.bit`), one lemma each. -/

namespace Sys2Proof.Machine

open Sys2Proof

theorem State.fcKeep_moves {s : State} {a0 : State} {a1 : Nat} {a2 : Nat} :
    Moves 0x80000 s (State.fcKeep s a0 a1 a2) := by
  unfold State.fcKeep
  extract_lets -underBinder -merge -useContext v0
  try clear_value v0
  refine Moves.trans ?_ (Moves.mono (k := 0x80000) rfl State.setFcChan_moves)
  exact Moves.refl

end Sys2Proof.Machine
end

