-- ==== Sys2Proof/Laws/FrameFilters.lean ====
section
/-! SUPPORT. What every definition of Machine/Filters.lean may change (masks over `Part.bit`), one lemma each. -/

namespace Sys2Proof.Machine

open Sys2Proof

theorem State.afBegin_moves {s : State} {a0 : Nat} :
    Moves 0x40000 s (State.afBegin s a0) := by
  unfold State.afBegin
  extract_lets -underBinder -merge -useContext v0 v1
  try clear_value v0
  try clear_value v1
  refine Moves.af ?_ rfl
  exact Moves.refl

theorem State.setTrack_moves {s : State} {a0 : Nat} {a1 : Sys2Proof.Machine.Track} :
    Moves 0x80000 s (State.setTrack s a0 a1) := by
  unfold State.setTrack
  extract_lets -underBinder -merge -useContext v0
  try clear_value v0
  refine Moves.fc ?_ rfl
  exact Moves.refl

theorem State.anchor_moves {s : State} {a0 : Nat} {a1 : Nat} :
    Moves 0x80000 s (State.anchor s a0 a1) := by
  unfold State.anchor
  extract_lets -underBinder -merge -useContext v0 v1 v2 v3
  try clear_value v0
  try clear_value v1
  try clear_value v2
  try clear_value v3
  refine Moves.trans ?_ (Moves.mono (k := 0x80000) rfl State.setTrack_moves)
  exact Moves.refl

theorem State.anchorAll_moves {s : State} {a0 : Nat} :
    Moves 0x80000 s (State.anchorAll s a0) := by
  unfold State.anchorAll
  refine Moves.trans ?_ (State.each_moves (fun st0 a1 => ?_))
  · exact Moves.refl
  · refine Moves.trans ?_ (Moves.mono (k := 0x80000) rfl State.anchor_moves)
    exact Moves.refl

theorem State.bankOwn_moves {s : State} {a0 : Nat} {a1 : Nat} :
    Moves 0x20000080000 s (State.bankOwn s a0 a1) := by
  unfold State.bankOwn
  extract_lets -underBinder -merge -useContext v0 v1 v2
  try clear_value v0
  have h3 : Moves 0x20000080000 s v1 := by
    unfold v1
    refine Moves.foldl ?_ (fun st4 a5 => ?_)
    · exact Moves.refl
    · refine Moves.putWord ?_ rfl
      exact Moves.refl
  try clear_value v1
  try clear_value v2
  refine Moves.ite ?_ ?_
  · exact Moves.refl
  · refine Moves.fc ?_ rfl
    exact h3

theorem State.bankCopy_moves {s : State} {a0 : Nat} :
    Moves 0x20000080000 s (State.bankCopy s a0) := by
  unfold State.bankCopy
  extract_lets -underBinder -merge -useContext v0 v1 v2
  try clear_value v0
  try clear_value v1
  try clear_value v2
  refine Moves.ite ?_ ?_
  · refine Moves.wr ?_ rfl
    refine Moves.fc ?_ rfl
    exact Moves.refl
  · exact Moves.refl

theorem State.banksLoad_moves {s : State} :
    Moves 0x20000080000 s (State.banksLoad s) := by
  unfold State.banksLoad
  refine Moves.trans ?_ (State.each_moves (fun st0 a1 => ?_))
  · exact Moves.refl
  · refine Moves.trans ?_ (Moves.mono (k := 0x80000) rfl State.fcKeep_moves)
    refine Moves.trans ?_ (Moves.mono (k := 0x20000080000) rfl State.bankCopy_moves)
    exact Moves.refl

theorem State.pathBegin_moves {s : State} {a0 : Nat} {a1 : Nat} :
    Moves 0x80000 s (State.pathBegin s a0 a1) := by
  unfold State.pathBegin
  extract_lets -underBinder -merge -useContext v0 v1
  try clear_value v0
  try clear_value v1
  refine Moves.trans ?_ (Moves.mono (k := 0x80000) rfl State.setFcChan_moves)
  exact Moves.refl

theorem State.pathsBegin_moves {s : State} {a0 : Nat} :
    Moves 0xc0000 s (State.pathsBegin s a0) := by
  unfold State.pathsBegin
  extract_lets -underBinder -merge -useContext v0
  have h1 : Moves 0xc0000 s v0 := by
    unfold v0
    refine Moves.trans ?_ (State.each_moves (fun st2 a3 => ?_))
    · refine Moves.trans ?_ (Moves.mono (k := 0x40000) rfl State.afBegin_moves)
      exact Moves.refl
    · refine Moves.trans ?_ (Moves.mono (k := 0x80000) rfl State.pathBegin_moves)
      exact Moves.refl
  try clear_value v0
  refine Moves.trans ?_ (State.each_moves (fun st4 a5 => ?_))
  · exact h1
  · refine Moves.trans ?_ (Moves.mono (k := 0x80000) rfl State.evStart_moves)
    exact Moves.refl

theorem State.pathsStart_moves {s : State} {a0 : Nat} :
    Moves 0xc0000 s (State.pathsStart s a0) := by
  unfold State.pathsStart
  refine Moves.trans ?_ (Moves.mono (k := 0x80000) rfl State.anchorAll_moves)
  refine Moves.trans ?_ (Moves.mono (k := 0xc0000) rfl State.pathsBegin_moves)
  exact Moves.refl

theorem State.fineRegrid_moves {s : State} {a0 : Nat} :
    Moves 0x80000 s (State.fineRegrid s a0) := by
  unfold State.fineRegrid
  extract_lets -underBinder -merge -useContext v0
  try clear_value v0
  refine Moves.trans ?_ (Moves.mono (k := 0x80000) rfl State.setFcChan_moves)
  exact Moves.refl

theorem State.fcChanCommit_moves {s : State} {a0 : State} {a1 : Nat} :
    Moves 0x20000080000 s (State.fcChanCommit s a0 a1) := by
  unfold State.fcChanCommit
  extract_lets -underBinder -merge -useContext v0 v1 v2 v3 v4 v5 v6 v7
  try clear_value v0
  try clear_value v1
  try clear_value v2
  have h8 : Moves 0x20000080000 s v3 := by
    unfold v3
    refine Moves.ite ?_ ?_
    · refine Moves.trans ?_ (Moves.mono (k := 0x80000) rfl State.fcKeep_moves)
      exact Moves.refl
    · exact Moves.refl
  try clear_value v3
  have h9 : Moves 0x20000080000 s v4 := by
    unfold v4
    refine Moves.ite ?_ ?_
    · refine Moves.trans ?_ (Moves.mono (k := 0x20000080000) rfl State.bankCopy_moves)
      exact h8
    · exact h8
  try clear_value v4
  have h10 : Moves 0x20000080000 s v5 := by
    unfold v5
    refine Moves.ite ?_ ?_
    · refine Moves.trans ?_ (Moves.mono (k := 0x80000) rfl State.fineRegrid_moves)
      exact h9
    · exact h9
  try clear_value v5
  have h11 : Moves 0x20000080000 s v6 := by
    unfold v6
    refine Moves.ite ?_ ?_
    · refine Moves.trans ?_ (Moves.mono (k := 0x80000) rfl State.evScan_moves)
      exact h10
    · exact h10
  try clear_value v6
  have h12 : Moves 0x20000080000 s v7 := by
    unfold v7
    refine Moves.ite ?_ ?_
    · refine Moves.trans ?_ (Moves.mono (k := 0x80000) rfl State.markFast_moves)
      refine Moves.trans ?_ (Moves.mono (k := 0x80000) rfl State.markFine_moves)
      refine Moves.trans ?_ (Moves.mono (k := 0x80000) rfl State.countChg_moves)
      exact h11
    · exact h11
  try clear_value v7
  refine Moves.wr ?_ rfl
  exact h12

theorem State.fcVchCommit_moves {s : State} {a0 : State} {a1 : Nat} :
    Moves 0x80000 s (State.fcVchCommit s a0 a1) := by
  unfold State.fcVchCommit
  extract_lets -underBinder -merge -useContext v0
  try clear_value v0
  refine Moves.ite ?_ ?_
  · refine Moves.trans ?_ (Moves.mono (k := 0x80000) rfl State.setFcChan_moves)
    exact Moves.refl
  · exact Moves.refl

theorem State.extendTrack_moves {s : State} {a0 : Nat} {a1 : Nat} :
    Moves 0x80000 s (State.extendTrack s a0 a1) := by
  unfold State.extendTrack
  extract_lets -underBinder -merge -useContext v0
  try clear_value v0
  split
  · exact Moves.refl
  · extract_lets -underBinder -merge -useContext v1 v2
    try clear_value v1
    try clear_value v2
    refine Moves.trans ?_ (Moves.mono (k := 0x80000) rfl State.setTrack_moves)
    exact Moves.refl

theorem State.fcTrackCommit_moves {s : State} {a0 : Nat} :
    Moves 0x20000080000 s (State.fcTrackCommit s a0) := by
  unfold State.fcTrackCommit
  refine Moves.ite ?_ ?_
  · exact Moves.refl
  · refine Moves.wr ?_ rfl
    refine Moves.wr ?_ rfl
    refine Moves.trans ?_ (Moves.mono (k := 0x80000) rfl State.extendTrack_moves)
    exact Moves.refl

theorem State.setSv_moves {s : State} {a0 : Nat} {a1 : Sys2Proof.Machine.SvSt} :
    Moves 0x80000 s (State.setSv s a0 a1) := by
  unfold State.setSv
  extract_lets -underBinder -merge -useContext v0
  try clear_value v0
  refine Moves.fc ?_ rfl
  exact Moves.refl

theorem State.fcStreamCommit_moves {s : State} {a0 : State} {a1 : Nat} :
    Moves 0x20000080000 s (State.fcStreamCommit s a0 a1) := by
  unfold State.fcStreamCommit
  refine Moves.ite ?_ ?_
  · refine Moves.wr ?_ rfl
    refine Moves.trans ?_ (Moves.mono (k := 0x80000) rfl State.setSv_moves)
    exact Moves.refl
  · exact Moves.refl

theorem State.setSwap_moves {s : State} {a0 : Nat} {a1 : Option Sys2Proof.Machine.Swap} :
    Moves 0x80000 s (State.setSwap s a0 a1) := by
  unfold State.setSwap
  extract_lets -underBinder -merge -useContext v0
  try clear_value v0
  refine Moves.fc ?_ rfl
  exact Moves.refl

theorem State.swapOver_moves {s : State} {a0 : Nat} :
    Moves 0x20000080000 s (State.swapOver s a0) := by
  unfold State.swapOver
  refine Moves.trans ?_ (State.each_moves (fun st0 a1 => ?_))
  · refine Moves.wr ?_ rfl
    refine Moves.setFlag ?_ rfl
    refine Moves.trans ?_ (Moves.mono (k := 0x80000) rfl State.setSwap_moves)
    exact Moves.refl
  · refine Moves.setFlag ?_ rfl
    exact Moves.refl

theorem State.fastDeliver_moves {s : State} {a0 : Nat} {a1 : Nat} :
    Moves 0x200000c0000 s (State.fastDeliver s a0 a1) := by
  unfold State.fastDeliver
  extract_lets -underBinder -merge -useContext v0 v1 v2
  try clear_value v0
  try clear_value v1
  have h3 : Moves 0x200000c0000 s v2 := by
    unfold v2
    refine Moves.trans ?_ (Moves.mono (k := 0x80000) rfl State.setFcChan_moves)
    exact Moves.refl
  try clear_value v2
  refine Moves.trans ?_ (Moves.mono (k := 0x40000) rfl State.feedStreams_moves)
  refine Moves.wr ?_ rfl
  refine Moves.wr ?_ rfl
  exact h3

theorem State.fcBankSwap_moves {s : State} {a0 : Sys2Proof.Machine.Cmd} :
    Moves 0x10000000000000000000000000000000000000000000000000000000000000000020000080400 s (State.fcBankSwap s a0) := by
  unfold State.fcBankSwap
  extract_lets -underBinder -merge -useContext v0 v1 v2
  try clear_value v0
  try clear_value v1
  try clear_value v2
  refine Moves.ite ?_ ?_
  · refine Moves.trans ?_ (Moves.mono (k := 0x10000000000000000000000000000000000000000000000000000000000000000000000000400) rfl State.fail_moves)
    exact Moves.refl
  · split
    · refine Moves.trans ?_ (Moves.mono (k := 0x10000000000000000000000000000000000000000000000000000000000000000000000000400) rfl State.fail_moves)
      exact Moves.refl
    · extract_lets -underBinder -merge -useContext v3 v4
      have h5 : Moves 0x10000000000000000000000000000000000000000000000000000000000000000020000080400 s v3 := by
        unfold v3
        refine Moves.trans ?_ (Moves.mono (k := 0x10000000000000000000000000000000000000000000000000000000000000000000000000400) rfl State.setPhase_moves)
        refine Moves.trans ?_ (Moves.mono (k := 0x80000) rfl State.setSwap_moves)
        exact Moves.refl
      try clear_value v3
      have h6 : Moves 0x10000000000000000000000000000000000000000000000000000000000000000020000080400 s v4 := by
        unfold v4
        refine Moves.wr ?_ rfl
        refine Moves.wr ?_ rfl
        refine Moves.setFlag ?_ rfl
        exact h5
      try clear_value v4
      refine Moves.ite ?_ ?_
      · refine Moves.trans ?_ (Moves.mono (k := 0x10000000000000000000000000000000000000000000000000000000000000000000000000400) rfl State.answer_moves)
        exact Moves.refl
      · refine Moves.trans ?_ (State.each_moves (fun st7 a8 => ?_))
        · exact h6
        · refine Moves.setFlag ?_ rfl
          exact Moves.refl

theorem State.fineDeliver_moves {s : State} {a0 : Nat} {a1 : Nat} :
    Moves 0x200000c0000 s (State.fineDeliver s a0 a1) := by
  unfold State.fineDeliver
  extract_lets -underBinder -merge -useContext v0 v1 v2 v3 v4 v5 v6
  try clear_value v0
  try clear_value v1
  try clear_value v2
  have h7 : Moves 0x200000c0000 s v3 := by
    unfold v3
    refine Moves.trans ?_ (Moves.mono (k := 0x80000) rfl State.setFcChan_moves)
    exact Moves.refl
  try clear_value v3
  have h8 : Moves 0x200000c0000 s v4 := by
    unfold v4
    refine Moves.wr ?_ rfl
    refine Moves.wr ?_ rfl
    exact h7
  try clear_value v4
  try clear_value v5
  have h9 : Moves 0x200000c0000 s v6 := by
    unfold v6
    refine Moves.ite ?_ ?_
    · exact h8
    · refine Moves.trans ?_ (Moves.mono (k := 0x80000) rfl State.anchor_moves)
      exact h8
  try clear_value v6
  refine Moves.trans ?_ (Moves.mono (k := 0x40000) rfl State.feedStreams_moves)
  exact h9

theorem State.trackUpdate_moves {s : State} {a0 : Nat} {a1 : Option Nat} :
    Moves 0x1000000000000000000000000000000000000000000000000000000000000020000086c00 s (State.trackUpdate s a0 a1) := by
  unfold State.trackUpdate
  extract_lets -underBinder -merge -useContext v0 v1
  have h2 : Moves 0x1000000000000000000000000000000000000000000000000000000000000020000086c00 s v0 := by
    unfold v0
    refine Moves.trans ?_ (Moves.mono (k := 0x80000) rfl State.extendTrack_moves)
    exact Moves.refl
  try clear_value v0
  try clear_value v1
  refine Moves.ite ?_ ?_
  · refine Moves.wr ?_ rfl
    refine Moves.wr ?_ rfl
    exact h2
  · split
    · extract_lets -underBinder -merge -useContext v3 v4
      have h5 : Moves 0x1000000000000000000000000000000000000000000000000000000000000020000086c00 s v3 := by
        unfold v3
        refine Moves.wr ?_ rfl
        refine Moves.wr ?_ rfl
        exact h2
      try clear_value v3
      try clear_value v4
      refine Moves.ite ?_ ?_
      · refine Moves.ite ?_ ?_
        · exact h5
        · refine Moves.trans ?_ (Moves.mono (k := 0x1000000000000000000000000000000000000000000000000000000000000000000006c00) rfl State.notify_moves)
          exact h5
      · refine Moves.ite ?_ ?_
        · refine Moves.trans ?_ (Moves.mono (k := 0x1000000000000000000000000000000000000000000000000000000000000000000006c00) rfl State.notify_moves)
          refine Moves.trans ?_ (Moves.mono (k := 0x80000) rfl State.setTrack_moves)
          refine Moves.wr ?_ rfl
          exact h2
        · exact h2
    · extract_lets -underBinder -merge -useContext v6
      try clear_value v6
      refine Moves.ite ?_ ?_
      · refine Moves.trans ?_ (Moves.mono (k := 0x1000000000000000000000000000000000000000000000000000000000000000000006c00) rfl State.notify_moves)
        refine Moves.trans ?_ (Moves.mono (k := 0x80000) rfl State.setTrack_moves)
        refine Moves.wr ?_ rfl
        exact h2
      · exact h2

theorem State.setStream_moves {s : State} {a0 : Nat} {a1 : Option Sys2Proof.Machine.Stream} :
    Moves 0x40000 s (State.setStream s a0 a1) := by
  unfold State.setStream
  extract_lets -underBinder -merge -useContext v0
  try clear_value v0
  refine Moves.af ?_ rfl
  exact Moves.refl

theorem State.streamEnd_moves {s : State} {a0 : Nat} {a1 : Sys2Proof.Machine.Stream} :
    Moves 0x10000000000000000000000000000000000000000000000000000000000000000000000040400 s (State.streamEnd s a0 a1) := by
  unfold State.streamEnd
  split
  · refine Moves.ite ?_ ?_
    · refine Moves.trans ?_ (Moves.mono (k := 0x10000000000000000000000000000000000000000000000000000000000000000000000000400) rfl State.settle_moves)
      refine Moves.trans ?_ (Moves.mono (k := 0x40000) rfl State.setStream_moves)
      exact Moves.refl
    · refine Moves.trans ?_ (Moves.mono (k := 0x40000) rfl State.setStream_moves)
      exact Moves.refl
  · refine Moves.trans ?_ (Moves.mono (k := 0x40000) rfl State.setStream_moves)
    exact Moves.refl

theorem State.streamClose_moves {s : State} {a0 : Sys2Proof.Machine.Cmd} :
    Moves 0x10000000000000000000000000000000000000000000000000000000000000000000000040400 s (State.streamClose s a0) := by
  unfold State.streamClose
  extract_lets -underBinder -merge -useContext v0
  try clear_value v0
  split
  · exact Moves.refl
  · refine Moves.trans ?_ (Moves.mono (k := 0x10000000000000000000000000000000000000000000000000000000000000000000000040400) rfl State.streamEnd_moves)
    refine Moves.trans ?_ (Moves.mono (k := 0x10000000000000000000000000000000000000000000000000000000000000000000000000400) rfl State.setPhase_moves)
    exact Moves.refl

theorem State.streamOpen_moves {s : State} {a0 : Sys2Proof.Machine.Cmd} :
    Moves 0x10000000000000000000000000000000000000000000000000000000000000000000000040400 s (State.streamOpen s a0) := by
  unfold State.streamOpen
  extract_lets -underBinder -merge -useContext v0 v1 v2 v3
  try clear_value v0
  try clear_value v1
  try clear_value v2
  try clear_value v3
  refine Moves.trans ?_ (Moves.mono (k := 0x10000000000000000000000000000000000000000000000000000000000000000000000000400) rfl State.done_moves)
  refine Moves.trans ?_ (Moves.mono (k := 0x40000) rfl State.setStream_moves)
  exact Moves.refl

theorem State.svTake_moves {s : State} {a0 : Nat} {a1 : Nat × Bool × List (Int × Nat)} :
    Moves 0x1000000000000000000000000000000000000000000000000000000000000020000086c00 s (State.svTake s a0 a1) := by
  unfold State.svTake
  extract_lets -underBinder -merge -useContext v0 v1 v2 v3 v4 v5 v6
  try clear_value v0
  try clear_value v1
  try clear_value v2
  try clear_value v3
  have h7 : Moves 0x1000000000000000000000000000000000000000000000000000000000000020000086c00 s v4 := by
    unfold v4
    refine Moves.trans ?_ (Moves.mono (k := 0x80000) rfl State.setSv_moves)
    exact Moves.refl
  try clear_value v4
  have h8 : Moves 0x1000000000000000000000000000000000000000000000000000000000000020000086c00 s v5 := by
    unfold v5
    refine Moves.wr ?_ rfl
    exact h7
  try clear_value v5
  have h9 : Moves 0x1000000000000000000000000000000000000000000000000000000000000020000086c00 s v6 := by
    unfold v6
    refine Moves.foldl ?_ (fun st10 a11 => ?_)
    · exact h8
    · refine Moves.trans ?_ (Moves.mono (k := 0x80000) rfl State.markFine_moves)
      refine Moves.trans ?_ (Moves.mono (k := 0x80000) rfl State.countChg_moves)
      exact Moves.refl
  try clear_value v6
  refine Moves.ite ?_ ?_
  · refine Moves.bump ?_ rfl
    exact Moves.refl
  · refine Moves.ite ?_ ?_
    · refine Moves.ite ?_ ?_
      · refine Moves.trans ?_ (Moves.mono (k := 0x1000000000000000000000000000000000000000000000000000000000000000000006c00) rfl State.notify_moves)
        exact h9
      · exact h9
    · exact h8

theorem execFcBankSwapInstant_moves {a0 : Nat} {s : State} :
    ResMoves 0x10001000000000000000000000000000000000000000000000000000000000000020000086c00 s (execFcBankSwapInstant a0 s) := by
  unfold execFcBankSwapInstant
  split
  · refine ResMoves.next ?_
    exact Moves.refl
  · extract_lets -underBinder -merge -useContext v0 v1 v2
    try clear_value v0
    have h3 : Moves 0x10001000000000000000000000000000000000000000000000000000000000000020000086c00 s v1 := by
      unfold v1
      refine Moves.trans ?_ (State.each_moves (fun st4 a5 => ?_))
      · exact Moves.refl
      · refine Moves.trans ?_ (Moves.mono (k := 0x80000) rfl State.markFine_moves)
        refine Moves.trans ?_ (Moves.mono (k := 0x80000) rfl State.countChg_moves)
        refine Moves.trans ?_ (Moves.mono (k := 0x80000) rfl State.fcKeep_moves)
        refine Moves.wr ?_ rfl
        exact Moves.refl
    try clear_value v1
    have h6 : Moves 0x10001000000000000000000000000000000000000000000000000000000000000020000086c00 s v2 := by
      unfold v2
      refine Moves.trans ?_ (Moves.mono (k := 0x20000080000) rfl State.swapOver_moves)
      exact h3
    try clear_value v2
    refine ResMoves.ite ?_ ?_
    · refine ResMoves.next ?_
      exact Moves.refl
    · refine ResMoves.next ?_
      refine Moves.trans ?_ (Moves.mono (k := 0x1000000000000000000000000000000000000000000000000000000000000000000006c00) rfl State.notifyAt_moves)
      refine Moves.trans ?_ (Moves.mono (k := 0x10000000000000000000000000000000000000000000000000000000000000000000000000400) rfl State.settle_moves)
      exact h6

theorem execResampledSample_moves {a0 : Nat} {s : State} :
    ResMoves 0x80000 s (execResampledSample a0 s) := by
  unfold execResampledSample
  extract_lets -underBinder -merge -useContext v0 v1
  try clear_value v0
  try clear_value v1
  refine ResMoves.ite ?_ ?_
  · refine ResMoves.next ?_
    exact Moves.refl
  · split
    · refine ResMoves.next ?_
      exact Moves.refl
    · extract_lets -underBinder -merge -useContext v2 v3 v4
      try clear_value v2
      try clear_value v3
      have h5 : Moves 0x80000 s v4 := by
        unfold v4
        refine Moves.ite ?_ ?_
        · refine Moves.trans ?_ (Moves.mono (k := 0x80000) rfl State.setFcChan_moves)
          exact Moves.refl
        · exact Moves.refl
      try clear_value v4
      split
      · refine ResMoves.next ?_
        exact h5
      · extract_lets -underBinder -merge -useContext v6 v7 v8
        try clear_value v6
        try clear_value v7
        try clear_value v8
        refine ResMoves.ite ?_ ?_
        · refine ResMoves.next ?_
          exact h5
        · refine ResMoves.ite ?_ ?_
          · refine ResMoves.next ?_
            exact Moves.refl
          · refine ResMoves.next ?_
            refine Moves.trans ?_ (Moves.mono (k := 0x80000) rfl State.setFcChan_moves)
            exact Moves.refl

theorem execStreamEntryWrite_moves {a0 : Nat} {s : State} :
    ResMoves 0x10001000000000000000000000000000000000000000000000000000000000000000000040c00 s (execStreamEntryWrite a0 s) := by
  unfold execStreamEntryWrite
  split
  · refine ResMoves.next ?_
    exact Moves.refl
  · extract_lets -underBinder -merge -useContext v0 v1
    try clear_value v0
    have h2 : Moves 0x10001000000000000000000000000000000000000000000000000000000000000000000040c00 s v1 := by
      unfold v1
      refine Moves.ite ?_ ?_
      · refine Moves.trans ?_ (Moves.mono (k := 0x1000000000000000000000000000000000000000000000000000000000000000000000c00) rfl State.ringPush_moves)
        exact Moves.refl
      · refine Moves.bump ?_ rfl
        exact Moves.refl
    try clear_value v1
    refine ResMoves.ite ?_ ?_
    · refine ResMoves.next ?_
      exact Moves.refl
    · refine ResMoves.ite ?_ ?_
      · refine ResMoves.next ?_
        refine Moves.trans ?_ (Moves.mono (k := 0x10000000000000000000000000000000000000000000000000000000000000000000000040400) rfl State.streamEnd_moves)
        exact Moves.refl
      · refine ResMoves.next ?_
        refine Moves.trans ?_ (Moves.mono (k := 0x10000000000000000000000000000000000000000000000000000000000000000000000040400) rfl State.streamEnd_moves)
        exact h2

theorem execSvFrameReceive_moves {a0 : Nat} {a1 : Nat} {a2 : Nat} {a3 : Nat} {a4 : Nat} {a5 : List (Nat × Bool × List (Int × Nat))} {s : State} :
    ResMoves 0x1000000000000000000000000000000000000000000000000000000000000020000086c00 s (execSvFrameReceive a0 a1 a2 a3 a4 a5 s) := by
  unfold execSvFrameReceive
  refine ResMoves.ite ?_ ?_
  · refine ResMoves.next ?_
    exact Moves.refl
  · split
    · refine ResMoves.next ?_
      exact Moves.refl
    · extract_lets -underBinder -merge -useContext v0 v1
      have h2 : Moves 0x1000000000000000000000000000000000000000000000000000000000000020000086c00 s v0 := by
        unfold v0
        refine Moves.bump ?_ rfl
        exact Moves.refl
      try clear_value v0
      try clear_value v1
      refine ResMoves.ite ?_ ?_
      · refine ResMoves.next ?_
        refine Moves.bump ?_ rfl
        exact Moves.refl
      · refine ResMoves.ite ?_ ?_
        · refine ResMoves.ite ?_ ?_
          · refine ResMoves.next ?_
            refine Moves.trans ?_ (Moves.mono (k := 0x1000000000000000000000000000000000000000000000000000000000000000000006c00) rfl State.notify_moves)
            refine Moves.trans ?_ (Moves.mono (k := 0x80000) rfl State.setSv_moves)
            exact h2
          · refine ResMoves.next ?_
            exact h2
        · refine ResMoves.next ?_
          refine Moves.foldl ?_ (fun st3 a4 => ?_)
          · exact Moves.refl
          · refine Moves.trans ?_ (Moves.mono (k := 0x1000000000000000000000000000000000000000000000000000000000000020000086c00) rfl State.svTake_moves)
            exact Moves.refl

theorem execSvStreamLost_moves {a0 : Nat} {s : State} :
    ResMoves 0x1000000000000000000000000000000000000000000000000000000000000020000006c00 s (execSvStreamLost a0 s) := by
  unfold execSvStreamLost
  split
  · refine ResMoves.next ?_
    exact Moves.refl
  · refine ResMoves.ite ?_ ?_
    · refine ResMoves.next ?_
      refine Moves.trans ?_ (Moves.mono (k := 0x1000000000000000000000000000000000000000000000000000000000000000000006c00) rfl State.notify_moves)
      refine Moves.wr ?_ rfl
      exact Moves.refl
    · refine ResMoves.next ?_
      exact Moves.refl

theorem execTrackerHoldExpiry_moves {a0 : Nat} {s : State} :
    ResMoves 0x20000080000 s (execTrackerHoldExpiry a0 s) := by
  unfold execTrackerHoldExpiry
  refine ResMoves.ite ?_ ?_
  · refine ResMoves.next ?_
    refine Moves.wr ?_ rfl
    refine Moves.wr ?_ rfl
    refine Moves.trans ?_ (Moves.mono (k := 0x80000) rfl State.extendTrack_moves)
    exact Moves.refl
  · refine ResMoves.next ?_
    exact Moves.refl

end Sys2Proof.Machine
end

