-- ==== Sys2Proof/Laws/FrameElements.lean ====
section
/-! SUPPORT. What every definition of Machine/Elements.lean may change (masks over `Part.bit`), one lemma each. -/

namespace Sys2Proof.Machine

open Sys2Proof

theorem State.opStamp_moves {s : State} {a0 : Nat} {a1 : Sys2Proof.Machine.PeEl} {a2 : Sys2Proof.Machine.Stamp} :
    Moves 0x1000000000000 s (State.opStamp s a0 a1 a2) := by
  unfold State.opStamp
  refine Moves.ite ?_ ?_
  · refine Moves.wr ?_ rfl
    refine Moves.wr ?_ rfl
    exact Moves.refl
  · exact Moves.refl

theorem State.elRecords_moves {s : State} {a0 : Nat} {a1 : Sys2Proof.Machine.PeEl} {a2 : Sys2Proof.Machine.Stamp} {a3 : Nat} :
    Moves 0x14000 s (State.elRecords s a0 a1 a2 a3) := by
  unfold State.elRecords
  extract_lets -underBinder -merge -useContext v0 v1 v2 v3 v4 v5
  try clear_value v0
  have h6 : ∀ y7 y8 y9, Moves 0x14000 y7 (v1 y7 y8 y9) := by
    intro y7 y8 y9
    unfold v1
    beta_reduce
    refine Moves.trans ?_ (Moves.mono (k := 0x4000) rfl State.stateRecAt_moves)
    exact Moves.refl
  try clear_value v1
  have h10 : Moves 0x14000 s v2 := by
    unfold v2
    refine Moves.ite ?_ ?_
    · refine Moves.trans ?_ (Moves.mono (k := 0x10000) rfl State.drFire_moves)
      exact Moves.refl
    · exact Moves.refl
  try clear_value v2
  have h11 : Moves 0x14000 s v3 := by
    unfold v3
    refine Moves.ite ?_ ?_
    · refine Moves.trans ?_ (h6 _ _ _)
      exact h10
    · exact h10
  try clear_value v3
  have h12 : Moves 0x14000 s v4 := by
    unfold v4
    refine Moves.ite ?_ ?_
    · refine Moves.trans ?_ (Moves.mono (k := 0x10000) rfl State.drFire_moves)
      exact h11
    · exact h11
  try clear_value v4
  have h13 : Moves 0x14000 s v5 := by
    unfold v5
    refine Moves.ite ?_ ?_
    · refine Moves.trans ?_ (h6 _ _ _)
      exact h12
    · exact h12
  try clear_value v5
  refine Moves.ite ?_ ?_
  · refine Moves.trans ?_ (h6 _ _ _)
    exact h13
  · exact h13

theorem State.setEl_moves {s : State} {a0 : Nat} {a1 : Sys2Proof.Machine.PeEl} :
    Moves 0x100000 s (State.setEl s a0 a1) := by
  unfold State.setEl
  extract_lets -underBinder -merge -useContext v0
  try clear_value v0
  refine Moves.pe ?_ rfl
  exact Moves.refl

theorem State.handEl_moves {s : State} {a0 : Nat} {a1 : Sys2Proof.Machine.PeEl} {a2 : Sys2Proof.Machine.Stamp} {a3 : Nat} :
    Moves 0x1000000114000 s (State.handEl s a0 a1 a2 a3) := by
  unfold State.handEl
  refine Moves.trans ?_ (Moves.mono (k := 0x1000000000000) rfl State.opStamp_moves)
  refine Moves.trans ?_ (Moves.mono (k := 0x14000) rfl State.elRecords_moves)
  refine Moves.trans ?_ (Moves.mono (k := 0x100000) rfl State.setEl_moves)
  exact Moves.refl

theorem State.setFast_moves {s : State} {a0 : Nat} {a1 : Sys2Proof.Machine.PeEl} :
    Moves 0x1000000114000 s (State.setFast s a0 a1) := by
  unfold State.setFast
  refine Moves.trans ?_ (Moves.mono (k := 0x1000000114000) rfl State.handEl_moves)
  exact Moves.refl

theorem State.arcElems_moves {s : State} :
    Moves 0x1000000114000 s (State.arcElems s) := by
  unfold State.arcElems
  refine Moves.foldl ?_ (fun st0 a1 => ?_)
  · exact Moves.refl
  · refine Moves.ite ?_ ?_
    · refine Moves.trans ?_ (Moves.mono (k := 0x1000000114000) rfl State.setFast_moves)
      exact Moves.refl
    · exact Moves.refl

theorem State.fastBlocks_moves {s : State} :
    Moves 0x1000000114000 s (State.fastBlocks s) := by
  unfold State.fastBlocks
  refine Moves.foldl ?_ (fun st0 a1 => ?_)
  · exact Moves.refl
  · refine Moves.ite ?_ ?_
    · refine Moves.ite ?_ ?_
      · refine Moves.trans ?_ (Moves.mono (k := 0x1000000114000) rfl State.setFast_moves)
        exact Moves.refl
      · refine Moves.trans ?_ (Moves.mono (k := 0x1000000114000) rfl State.setFast_moves)
        exact Moves.refl
    · exact Moves.refl

theorem State.peWake_moves {s : State} {a0 : Nat} :
    Moves 0x100000 s (State.peWake s a0) := by
  unfold State.peWake
  refine Moves.foldl ?_ (fun st0 a1 => ?_)
  · exact Moves.refl
  · extract_lets -underBinder -merge -useContext v2 v3
    try clear_value v2
    try clear_value v3
    refine Moves.ite ?_ ?_
    · refine Moves.trans ?_ (Moves.mono (k := 0x100000) rfl State.setEl_moves)
      exact Moves.refl
    · exact Moves.refl

theorem State.setZone_moves {s : State} {a0 : Nat} {a1 : Sys2Proof.Machine.ZoneSt} :
    Moves 0x200000 s (State.setZone s a0 a1) := by
  unfold State.setZone
  extract_lets -underBinder -merge -useContext v0
  try clear_value v0
  refine Moves.tm ?_ rfl
  exact Moves.refl

theorem State.peResetAll_moves {s : State} :
    Moves 0x100000 s (State.peResetAll s) := by
  unfold State.peResetAll
  extract_lets -underBinder -merge -useContext v0
  try clear_value v0
  refine Moves.foldl ?_ (fun st1 a2 => ?_)
  · refine Moves.pe ?_ rfl
    exact Moves.refl
  · refine Moves.trans ?_ (Moves.mono (k := 0x100000) rfl State.setEl_moves)
    exact Moves.refl

theorem State.peCommit_moves {s : State} {a0 : State} :
    Moves 0x100000 s (State.peCommit s a0) := by
  unfold State.peCommit
  refine Moves.foldl ?_ (fun st0 a1 => ?_)
  · exact Moves.refl
  · refine Moves.ite ?_ ?_
    · refine Moves.trans ?_ (Moves.mono (k := 0x100000) rfl State.setEl_moves)
      exact Moves.refl
    · exact Moves.refl

theorem State.fastElems_moves {s : State} {a0 : Nat} {a1 : Sys2Proof.Machine.Smp} :
    Moves 0x1000000114000 s (State.fastElems s a0 a1) := by
  unfold State.fastElems
  refine Moves.foldl ?_ (fun st0 a1 => ?_)
  · exact Moves.refl
  · extract_lets -underBinder -merge -useContext v2 v3 v4
    try clear_value v2
    try clear_value v3
    try clear_value v4
    refine Moves.ite ?_ ?_
    · exact Moves.refl
    · refine Moves.ite ?_ ?_
      · refine Moves.trans ?_ (Moves.mono (k := 0x1000000114000) rfl State.setFast_moves)
        exact Moves.refl
      · refine Moves.ite ?_ ?_
        · refine Moves.trans ?_ (Moves.mono (k := 0x1000000114000) rfl State.setFast_moves)
          exact Moves.refl
        · exact Moves.refl

theorem evalStage_moves {a0 : State} {s : State} {a1 : Nat} :
    Moves 0x100000 s (evalStage a0 s a1) := by
  unfold evalStage
  refine Moves.foldl ?_ (fun st0 a1 => ?_)
  · exact Moves.refl
  · refine Moves.trans ?_ (Moves.mono (k := 0x100000) rfl State.setEl_moves)
    exact Moves.refl

theorem State.showEl_moves {s : State} {a0 : Nat} :
    Moves 0x1000000000000 s (State.showEl s a0) := by
  unfold State.showEl
  extract_lets -underBinder -merge -useContext v0
  try clear_value v0
  refine Moves.wr ?_ rfl
  refine Moves.wr ?_ rfl
  refine Moves.putWord ?_ rfl
  exact Moves.refl

theorem State.peSleep_moves {s : State} :
    Moves 0x1000000100000 s (State.peSleep s) := by
  unfold State.peSleep
  refine Moves.foldl ?_ (fun st0 a1 => ?_)
  · exact Moves.refl
  · extract_lets -underBinder -merge -useContext v2 v3
    try clear_value v2
    try clear_value v3
    refine Moves.trans ?_ (Moves.mono (k := 0x1000000000000) rfl State.showEl_moves)
    refine Moves.trans ?_ (Moves.mono (k := 0x100000) rfl State.setEl_moves)
    exact Moves.refl

end Sys2Proof.Machine
end

