-- ==== Sys2Proof/Laws/FrameRenby.lean ====
section
/-! SUPPORT. What every definition of Machine/Renby.lean may change (masks over `Part.bit`), one lemma each. -/

namespace Sys2Proof.Machine

open Sys2Proof

theorem State.setPort_moves {s : State} {a0 : Nat} {a1 : Sys2Proof.Machine.PortSt} :
    Moves 0x40000000 s (State.setPort s a0 a1) := by
  unfold State.setPort
  extract_lets -underBinder -merge -useContext v0
  try clear_value v0
  refine Moves.rb ?_ rfl
  exact Moves.refl

theorem State.rbSend_moves {s : State} {a0 : Nat} {a1 : Nat} {a2 : Nat} {a3 : Nat} {a4 : Nat} {a5 : Nat} {a6 : List Nat} {a7 : List Nat} :
    Moves 0x40000000 s (State.rbSend s a0 a1 a2 a3 a4 a5 a6 a7) := by
  unfold State.rbSend
  extract_lets -underBinder -merge -useContext v0 v1 v2 v3 v4 v5
  try clear_value v0
  try clear_value v1
  try clear_value v2
  try clear_value v3
  try clear_value v4
  have h6 : Moves 0x40000000 s v5 := by
    unfold v5
    refine Moves.rb ?_ rfl
    exact Moves.refl
  try clear_value v5
  refine Moves.ite ?_ ?_
  · refine Moves.foldl ?_ (fun st7 a8 => ?_)
    · exact h6
    · extract_lets -underBinder -merge -useContext v9
      try clear_value v9
      refine Moves.trans ?_ (Moves.mono (k := 0x40000000) rfl State.setPort_moves)
      exact Moves.refl
  · exact Moves.refl

end Sys2Proof.Machine
end

