-- ==== Sys2Proof/Laws/FramePoints.lean ====
section
/-! SUPPORT. What every definition of Machine/Points.lean may change (masks over `Part.bit`), one lemma each. -/

namespace Sys2Proof.Machine

open Sys2Proof

theorem State.setStand_moves {s : State} {a0 : Nat} {a1 : Nat} {a2 : Option Sys2Proof.Machine.PDemand} :
    Moves 0x800000 s (State.setStand s a0 a1 a2) := by
  unfold State.setStand
  extract_lets -underBinder -merge -useContext v0
  try clear_value v0
  refine Moves.um ?_ rfl
  exact Moves.refl

theorem State.mapBump_moves {s : State} {a0 : State} :
    Moves 0x1000 s (State.mapBump s a0) := by
  unfold State.mapBump
  extract_lets -underBinder -merge -useContext v0 v1
  try clear_value v0
  try clear_value v1
  refine Moves.sb ?_ rfl
  exact Moves.refl

theorem State.putRec_moves {s : State} {a0 : Nat} {a1 : Sys2Proof.Machine.PtRec} :
    Moves 0x401000 s (State.putRec s a0 a1) := by
  unfold State.putRec
  extract_lets -underBinder -merge -useContext v0
  try clear_value v0
  refine Moves.trans ?_ (Moves.mono (k := 0x1000) rfl State.mapBump_moves)
  refine Moves.pd ?_ rfl
  exact Moves.refl

theorem State.pdHand_moves {s : State} {a0 : Sys2Proof.Machine.PtChange} :
    Moves 0x400000 s (State.pdHand s a0) := by
  unfold State.pdHand
  extract_lets -underBinder -merge -useContext v0 v1
  try clear_value v0
  try clear_value v1
  refine Moves.ite ?_ ?_
  · refine Moves.pd ?_ rfl
    exact Moves.refl
  · refine Moves.pd ?_ rfl
    exact Moves.refl

theorem State.ptSet_moves {s : State} {a0 : Nat} {a1 : Nat} {a2 : Nat} {a3 : Nat} {a4 : Nat} :
    Moves 0x401000 s (State.ptSet s a0 a1 a2 a3 a4) := by
  unfold State.ptSet
  split
  · exact Moves.refl
  · extract_lets -underBinder -merge -useContext v0 v1
    try clear_value v0
    have h2 : Moves 0x401000 s v1 := by
      unfold v1
      refine Moves.trans ?_ (Moves.mono (k := 0x401000) rfl State.putRec_moves)
      exact Moves.refl
    try clear_value v1
    refine Moves.ite ?_ ?_
    · refine Moves.trans ?_ (Moves.mono (k := 0x401000) rfl State.putRec_moves)
      exact Moves.refl
    · refine Moves.ite ?_ ?_
      · refine Moves.trans ?_ (Moves.mono (k := 0x400000) rfl State.pdHand_moves)
        exact h2
      · exact h2

theorem State.ptQual_moves {s : State} {a0 : Nat} {a1 : Nat} {a2 : Nat} :
    Moves 0x401000 s (State.ptQual s a0 a1 a2) := by
  unfold State.ptQual
  extract_lets -underBinder -merge -useContext v0
  try clear_value v0
  refine Moves.trans ?_ (Moves.mono (k := 0x401000) rfl State.ptSet_moves)
  exact Moves.refl

theorem State.ptSend_moves {s : State} {a0 : Nat} {a1 : Nat} {a2 : List Nat} :
    Moves 0x40400000 s (State.ptSend s a0 a1 a2) := by
  unfold State.ptSend
  extract_lets -underBinder -merge -useContext v0 v1
  try clear_value v0
  have h2 : Moves 0x40400000 s v1 := by
    unfold v1
    refine Moves.pd ?_ rfl
    exact Moves.refl
  try clear_value v1
  refine Moves.trans ?_ (Moves.mono (k := 0x40000000) rfl State.rbSend_moves)
  exact h2

theorem State.protPoints_moves {s : State} {a0 : Nat} :
    Moves 0x800000 s (State.protPoints s a0) := by
  unfold State.protPoints
  refine Moves.foldl ?_ (fun st0 a1 => ?_)
  · exact Moves.refl
  · extract_lets -underBinder -merge -useContext v2
    try clear_value v2
    split
    · refine Moves.ite ?_ ?_
      · exact Moves.refl
      · refine Moves.trans ?_ (Moves.mono (k := 0x800000) rfl State.setStand_moves)
        exact Moves.refl
    · refine Moves.trans ?_ (Moves.mono (k := 0x800000) rfl State.setStand_moves)
      exact Moves.refl

theorem State.pointsCold_moves {s : State} :
    Moves 0x401000 s (State.pointsCold s) := by
  unfold State.pointsCold
  refine Moves.foldl ?_ (fun st0 a1 => ?_)
  · exact Moves.refl
  · split
    · refine Moves.trans ?_ (Moves.mono (k := 0x401000) rfl State.putRec_moves)
      exact Moves.refl
    · exact Moves.refl

theorem State.mirrorOld_moves {s : State} {a0 : Nat} {a1 : Nat} :
    Moves 0x401000 s (State.mirrorOld s a0 a1) := by
  unfold State.mirrorOld
  refine Moves.trans ?_ (Moves.mono (k := 0x401000) rfl State.ptQual_moves)
  exact Moves.refl

theorem State.setMirror_moves {s : State} {a0 : Nat} {a1 : Sys2Proof.Machine.MirSt} :
    Moves 0x400000 s (State.setMirror s a0 a1) := by
  unfold State.setMirror
  extract_lets -underBinder -merge -useContext v0
  try clear_value v0
  refine Moves.pd ?_ rfl
  exact Moves.refl

theorem State.mirrorsAsleep_moves {s : State} {a0 : Nat} :
    Moves 0x401000 s (State.mirrorsAsleep s a0) := by
  unfold State.mirrorsAsleep
  refine Moves.foldl ?_ (fun st0 a1 => ?_)
  · exact Moves.refl
  · extract_lets -underBinder -merge -useContext v2
    try clear_value v2
    refine Moves.ite ?_ ?_
    · refine Moves.trans ?_ (Moves.mono (k := 0x401000) rfl State.mirrorOld_moves)
      refine Moves.trans ?_ (Moves.mono (k := 0x400000) rfl State.setMirror_moves)
      exact Moves.refl
    · exact Moves.refl

theorem State.ptSource_moves {s : State} {a0 : Nat} {a1 : Nat} {a2 : Nat} {a3 : Nat} :
    Moves 0x401000 s (State.ptSource s a0 a1 a2 a3) := by
  unfold State.ptSource
  split
  · exact Moves.refl
  · split
    · exact Moves.refl
    · extract_lets -underBinder -merge -useContext v0
      try clear_value v0
      refine Moves.ite ?_ ?_
      · exact Moves.refl
      · refine Moves.trans ?_ (Moves.mono (k := 0x401000) rfl State.ptSet_moves)
        exact Moves.refl

theorem State.stationPoints_moves {s : State} {a0 : Nat} {a1 : List Nat} {a2 : Bool} :
    Moves 0x401000 s (State.stationPoints s a0 a1 a2) := by
  unfold State.stationPoints
  refine Moves.foldl ?_ (fun st0 a1 => ?_)
  · exact Moves.refl
  · refine Moves.ite ?_ ?_
    · refine Moves.trans ?_ (Moves.mono (k := 0x401000) rfl State.ptSource_moves)
      exact Moves.refl
    · exact Moves.refl

theorem State.sendRec_moves {s : State} {a0 : Sys2Proof.Machine.SubSt} :
    Moves 0x40400000 s (State.sendRec s a0) := by
  unfold State.sendRec
  extract_lets -underBinder -merge -useContext v0 v1 v2
  try clear_value v0
  have h3 : Moves 0x40400000 s v1 := by
    unfold v1
    refine Moves.trans ?_ (Moves.mono (k := 0x40400000) rfl State.ptSend_moves)
    exact Moves.refl
  try clear_value v1
  try clear_value v2
  refine Moves.pd ?_ rfl
  exact h3

theorem execPtSubReceive_moves {a0 : Nat} {a1 : List Sys2Proof.W32} {s : State} :
    ResMoves 0x40400000 s (execPtSubReceive a0 a1 s) := by
  unfold execPtSubReceive
  extract_lets -underBinder -merge -useContext v0 v1 v2 v3 v4 v5
  try clear_value v0
  try clear_value v1
  try clear_value v2
  try clear_value v3
  try clear_value v4
  try clear_value v5
  refine ResMoves.ite ?_ ?_
  · refine ResMoves.next ?_
    exact Moves.refl
  · refine ResMoves.ite ?_ ?_
    · refine ResMoves.next ?_
      refine Moves.pd ?_ rfl
      exact Moves.refl
    · refine ResMoves.ite ?_ ?_
      · refine ResMoves.next ?_
        exact Moves.refl
      · refine ResMoves.next ?_
        refine Moves.trans ?_ (Moves.mono (k := 0x40400000) rfl State.sendRec_moves)
        refine Moves.pd ?_ rfl
        exact Moves.refl

theorem State.mirrorRec_moves {s : State} {a0 : Nat} {a1 : List Sys2Proof.W32} :
    Moves 0x401000 s (State.mirrorRec s a0 a1) := by
  unfold State.mirrorRec
  extract_lets -underBinder -merge -useContext v0
  try clear_value v0
  refine Moves.foldl ?_ (fun st1 a2 => ?_)
  · exact Moves.refl
  · extract_lets -underBinder -merge -useContext v3 v4 v5 v6 v7
    have h8 : Moves 0x401000 st1 v3 := by
      unfold v3
      refine Moves.trans ?_ (Moves.mono (k := 0x400000) rfl State.setMirror_moves)
      exact Moves.refl
    try clear_value v3
    try clear_value v4
    try clear_value v5
    try clear_value v6
    have h9 : Moves 0x401000 st1 v7 := by
      unfold v7
      refine Moves.trans ?_ (Moves.mono (k := 0x401000) rfl State.putRec_moves)
      exact h8
    try clear_value v7
    refine Moves.ite ?_ ?_
    · refine Moves.ite ?_ ?_
      · refine Moves.trans ?_ (Moves.mono (k := 0x400000) rfl State.pdHand_moves)
        exact h9
      · exact h9
    · exact Moves.refl

theorem execMirrorRecordReceive_moves {a0 : Nat} {a1 : List Sys2Proof.W32} {s : State} :
    ResMoves 0x401000 s (execMirrorRecordReceive a0 a1 s) := by
  unfold execMirrorRecordReceive
  extract_lets -underBinder -merge -useContext v0
  try clear_value v0
  refine ResMoves.ite ?_ ?_
  · refine ResMoves.next ?_
    exact Moves.refl
  · refine ResMoves.next ?_
    refine Moves.foldl ?_ (fun st1 a2 => ?_)
    · exact Moves.refl
    · refine Moves.ite ?_ ?_
      · refine Moves.trans ?_ (Moves.mono (k := 0x401000) rfl State.mirrorRec_moves)
        exact Moves.refl
      · exact Moves.refl

theorem State.mirrorStale_moves {s : State} {a0 : Nat} {a1 : Nat} :
    Moves 0x1000000000000000000000000000000000000000000000000000000000000000000407c00 s (State.mirrorStale s a0 a1) := by
  unfold State.mirrorStale
  extract_lets -underBinder -merge -useContext v0 v1 v2 v3 v4 v5 v6
  try clear_value v0
  have h7 : Moves 0x1000000000000000000000000000000000000000000000000000000000000000000407c00 s v1 := by
    unfold v1
    refine Moves.trans ?_ (Moves.mono (k := 0x401000) rfl State.mirrorOld_moves)
    refine Moves.trans ?_ (Moves.mono (k := 0x400000) rfl State.setMirror_moves)
    exact Moves.refl
  try clear_value v1
  try clear_value v2
  try clear_value v3
  try clear_value v4
  have h8 : Moves 0x1000000000000000000000000000000000000000000000000000000000000000000407c00 s v5 := by
    unfold v5
    refine Moves.pd ?_ rfl
    exact h7
  try clear_value v5
  try clear_value v6
  refine Moves.ite ?_ ?_
  · refine Moves.trans ?_ (Moves.mono (k := 0x1000000000000000000000000000000000000000000000000000000000000000000006c00) rfl State.notify_moves)
    exact h8
  · refine Moves.pd ?_ rfl
    exact h7

theorem State.mirrorsLost_moves {s : State} {a0 : Nat} :
    Moves 0x1000000000000000000000000000000000000000000000000000000000000000000407c00 s (State.mirrorsLost s a0) := by
  unfold State.mirrorsLost
  refine Moves.foldl ?_ (fun st0 a1 => ?_)
  · exact Moves.refl
  · refine Moves.ite ?_ ?_
    · refine Moves.trans ?_ (Moves.mono (k := 0x1000000000000000000000000000000000000000000000000000000000000000000407c00) rfl State.mirrorStale_moves)
      exact Moves.refl
    · exact Moves.refl

theorem State.setBit64_moves {s : State} {a0 : Sys2Proof.Machine.Field} {a1 : Sys2Proof.Machine.Field} {a2 : Nat} {a3 : Bool}
    (ha0 : Nat.testBit 0x3000000000000 (Part.regs a0.unit).bit = true) (ha1 : Nat.testBit 0x3000000000000
    (Part.regs a1.unit).bit = true) :
    Moves 0x3000000000000 s (State.setBit64 s a0 a1 a2 a3) := by
  unfold State.setBit64
  refine Moves.ite ?_ ?_
  · refine Moves.wr ?_ ha0
    exact Moves.refl
  · refine Moves.wr ?_ ha1
    exact Moves.refl

theorem State.takeSinks_moves {s : State} :
    Moves 0x3000000000000 s (State.takeSinks s) := by
  unfold State.takeSinks
  extract_lets -underBinder -merge -useContext v0
  have h1 : Moves 0x3000000000000 s v0 := by
    unfold v0
    refine Moves.foldl ?_ (fun st2 a3 => ?_)
    · exact Moves.refl
    · split
      · refine Moves.trans ?_ (Moves.mono (k := 0x3000000000000) rfl (State.setBit64_moves rfl rfl))
        exact Moves.refl
      · exact Moves.refl
  try clear_value v0
  refine Moves.foldl ?_ (fun st4 a5 => ?_)
  · exact h1
  · split
    · refine Moves.trans ?_ (Moves.mono (k := 0x3000000000000) rfl (State.setBit64_moves rfl rfl))
      exact Moves.refl
    · exact Moves.refl

theorem State.subscribe_moves {s : State} :
    Moves 0x40400000 s (State.subscribe s) := by
  unfold State.subscribe
  refine Moves.foldl ?_ (fun st0 a1 => ?_)
  · exact Moves.refl
  · refine Moves.trans ?_ (Moves.mono (k := 0x40400000) rfl State.ptSend_moves)
    exact Moves.refl

theorem State.pointsApply_moves {s : State} {a0 : List (List Sys2Proof.W32)} :
    Moves 0x40c01000 s (State.pointsApply s a0) := by
  unfold State.pointsApply
  extract_lets -underBinder -merge -useContext v0 v1 v2 v3 v4 v5 v6 v7
  try clear_value v0
  try clear_value v1
  try clear_value v2
  try clear_value v3
  try clear_value v4
  have h8 : Moves 0x40c01000 s v5 := by
    unfold v5
    refine Moves.pd ?_ rfl
    exact Moves.refl
  try clear_value v5
  try clear_value v6
  have h9 : Moves 0x40c01000 s v7 := by
    unfold v7
    refine Moves.um ?_ rfl
    exact h8
  try clear_value v7
  refine Moves.trans ?_ (Moves.mono (k := 0x40400000) rfl State.subscribe_moves)
  refine Moves.trans ?_ (Moves.mono (k := 0x1000) rfl State.mapBump_moves)
  refine Moves.trans ?_ (Moves.mono (k := 0x800000) rfl State.protPoints_moves)
  exact h9

theorem State.scanShow_moves {s : State} :
    Moves 0x401000 s (State.scanShow s) := by
  unfold State.scanShow
  extract_lets -underBinder -merge -useContext v0 v1
  try clear_value v0
  try clear_value v1
  refine Moves.foldl ?_ (fun st2 a3 => ?_)
  · refine Moves.pd ?_ rfl
    exact Moves.refl
  · refine Moves.foldl ?_ (fun st4 a5 => ?_)
    · exact Moves.refl
    · refine Moves.trans ?_ (Moves.mono (k := 0x401000) rfl State.ptSource_moves)
      exact Moves.refl

theorem State.sendChanged_moves {s : State} :
    Moves 0x40400000 s (State.sendChanged s) := by
  unfold State.sendChanged
  refine Moves.foldl ?_ (fun st0 a1 => ?_)
  · exact Moves.refl
  · refine Moves.ite ?_ ?_
    · refine Moves.trans ?_ (Moves.mono (k := 0x40400000) rfl State.sendRec_moves)
      exact Moves.refl
    · exact Moves.refl

theorem execMirrorStale_moves {a0 : Nat} {s : State} :
    ResMoves 0x1000000000000000000000000000000000000000000000000000000000000000000407c00 s (execMirrorStale a0 s) := by
  unfold execMirrorStale
  split
  · refine ResMoves.next ?_
    exact Moves.refl
  · extract_lets -underBinder -merge -useContext v0 v1 v2
    try clear_value v0
    try clear_value v1
    try clear_value v2
    refine ResMoves.ite ?_ ?_
    · refine ResMoves.next ?_
      refine Moves.trans ?_ (Moves.mono (k := 0x1000000000000000000000000000000000000000000000000000000000000000000407c00) rfl State.mirrorStale_moves)
      exact Moves.refl
    · refine ResMoves.next ?_
      exact Moves.refl

theorem execOriginPeriodBoundary_moves {a0 : Nat} {s : State} :
    ResMoves 0x40400000 s (execOriginPeriodBoundary a0 s) := by
  unfold execOriginPeriodBoundary
  extract_lets -underBinder -merge -useContext v0 v1 v2
  try clear_value v0
  try clear_value v1
  have h3 : Moves 0x40400000 s v2 := by
    unfold v2
    refine Moves.pd ?_ rfl
    exact Moves.refl
  try clear_value v2
  refine ResMoves.ite ?_ ?_
  · refine ResMoves.next ?_
    exact Moves.refl
  · refine ResMoves.next ?_
    refine Moves.foldl ?_ (fun st4 a5 => ?_)
    · exact h3
    · refine Moves.ite ?_ ?_
      · refine Moves.trans ?_ (Moves.mono (k := 0x40400000) rfl State.sendRec_moves)
        exact Moves.refl
      · exact Moves.refl

theorem execScanClassBoundary_moves {a0 : Nat} {s : State} :
    ResMoves 0x401000 s (execScanClassBoundary a0 s) := by
  unfold execScanClassBoundary
  extract_lets -underBinder -merge -useContext v0 v1 v2 v3 v4
  try clear_value v0
  try clear_value v1
  try clear_value v2
  try clear_value v3
  try clear_value v4
  refine ResMoves.ite ?_ ?_
  · refine ResMoves.next ?_
    exact Moves.refl
  · refine ResMoves.next ?_
    refine Moves.trans ?_ (Moves.mono (k := 0x401000) rfl State.scanShow_moves)
    refine Moves.pd ?_ rfl
    exact Moves.refl

end Sys2Proof.Machine
end

