-- ==== Sys2Proof/Laws/FrameTrip.lean ====
section
/-! SUPPORT. What every definition of Machine/Trip.lean may change (masks over `Part.bit`), one lemma each. -/

namespace Sys2Proof.Machine

open Sys2Proof

theorem State.setTch_moves {s : State} {a0 : Nat} {a1 : Sys2Proof.Machine.TmChan} :
    Moves 0x200000 s (State.setTch s a0 a1) := by
  unfold State.setTch
  extract_lets -underBinder -merge -useContext v0
  try clear_value v0
  refine Moves.tm ?_ rfl
  exact Moves.refl

theorem State.tchRecord_moves {s : State} {a0 : Nat} {a1 : Nat} {a2 : Bool} :
    Moves 0x4000 s (State.tchRecord s a0 a1 a2) := by
  unfold State.tchRecord
  refine Moves.trans ?_ (Moves.mono (k := 0x4000) rfl State.stateRec_moves)
  exact Moves.refl

theorem State.tchAssert_moves {s : State} {a0 : Nat} :
    Moves 0x1000000000000000000000000000000000000000000000000000000000002000000214800 s (State.tchAssert s a0) := by
  unfold State.tchAssert
  extract_lets -underBinder -merge -useContext v0 v1
  have h2 : Moves 0x1000000000000000000000000000000000000000000000000000000000002000000214800 s v0 := by
    unfold v0
    refine Moves.trans ?_ (Moves.mono (k := 0x200000) rfl State.setTch_moves)
    exact Moves.refl
  try clear_value v0
  have h3 : Moves 0x1000000000000000000000000000000000000000000000000000000000002000000214800 s v1 := by
    unfold v1
    refine Moves.wrapInc ?_ rfl
    refine Moves.wr ?_ rfl
    refine Moves.wr ?_ rfl
    exact h2
  try clear_value v1
  refine Moves.trans ?_ (Moves.mono (k := 0x1000000000000000000000000000000000000000000000000000000000000000000000800) rfl State.sbCause_moves)
  refine Moves.trans ?_ (Moves.mono (k := 0x10000) rfl State.drFire_moves)
  refine Moves.trans ?_ (Moves.mono (k := 0x4000) rfl State.tchRecord_moves)
  refine Moves.wr ?_ rfl
  refine Moves.wr ?_ rfl
  exact h3

theorem State.tblkApply_moves {s : State} {a0 : Nat} :
    Moves 0x1000000000000000000000000000000000000000000000000000000000002000000006c00 s (State.tblkApply s a0) := by
  unfold State.tblkApply
  extract_lets -underBinder -merge -useContext v0 v1
  try clear_value v0
  have h2 : Moves 0x1000000000000000000000000000000000000000000000000000000000002000000006c00 s v1 := by
    unfold v1
    refine Moves.wr ?_ rfl
    exact Moves.refl
  try clear_value v1
  refine Moves.ite ?_ ?_
  · exact h2
  · refine Moves.trans ?_ (Moves.mono (k := 0x1000000000000000000000000000000000000000000000000000000000000000000006c00) rfl State.notify_moves)
    refine Moves.trans ?_ (Moves.mono (k := 0x4000) rfl State.tchRecord_moves)
    refine Moves.wr ?_ rfl
    exact h2

theorem State.tchDeassert_moves {s : State} {a0 : Nat} :
    Moves 0x1000000000000000000000000000000000000000000000000000000000002000000206c00 s (State.tchDeassert s a0) := by
  unfold State.tchDeassert
  extract_lets -underBinder -merge -useContext v0 v1 v2 v3 v4
  try clear_value v0
  try clear_value v1
  have h5 : Moves 0x1000000000000000000000000000000000000000000000000000000000002000000206c00 s v2 := by
    unfold v2
    refine Moves.wr ?_ rfl
    refine Moves.wr ?_ rfl
    refine Moves.trans ?_ (Moves.mono (k := 0x200000) rfl State.setTch_moves)
    exact Moves.refl
  try clear_value v2
  have h6 : Moves 0x1000000000000000000000000000000000000000000000000000000000002000000206c00 s v3 := by
    unfold v3
    refine Moves.trans ?_ (Moves.mono (k := 0x1000000000000000000000000000000000000000000000000000000000000000000000800) rfl State.sbCause_moves)
    refine Moves.trans ?_ (Moves.mono (k := 0x4000) rfl State.tchRecord_moves)
    exact h5
  try clear_value v3
  have h7 : Moves 0x1000000000000000000000000000000000000000000000000000000000002000000206c00 s v4 := by
    unfold v4
    refine Moves.ite ?_ ?_
    · refine Moves.trans ?_ (Moves.mono (k := 0x4000) rfl State.tchRecord_moves)
      exact h6
    · exact h6
  try clear_value v4
  refine Moves.ite ?_ ?_
  · refine Moves.trans ?_ (Moves.mono (k := 0x1000000000000000000000000000000000000000000000000000000000002000000006c00) rfl State.tblkApply_moves)
    exact h7
  · exact h7

theorem State.tchStep_moves {s : State} {a0 : Nat} :
    Moves 0x1000000000000000000000000000000000000000000000000000000000002000000216c00 s (State.tchStep s a0) := by
  unfold State.tchStep
  extract_lets -underBinder -merge -useContext v0 v1 v2
  try clear_value v0
  have h3 : Moves 0x1000000000000000000000000000000000000000000000000000000000002000000216c00 s v1 := by
    unfold v1
    refine Moves.setFlag ?_ rfl
    exact Moves.refl
  try clear_value v1
  try clear_value v2
  refine Moves.ite ?_ ?_
  · refine Moves.ite ?_ ?_
    · refine Moves.trans ?_ (Moves.mono (k := 0x1000000000000000000000000000000000000000000000000000000000002000000214800) rfl State.tchAssert_moves)
      exact h3
    · exact h3
  · refine Moves.ite ?_ ?_
    · exact h3
    · refine Moves.ite ?_ ?_
      · refine Moves.ite ?_ ?_
        · exact h3
        · refine Moves.trans ?_ (Moves.mono (k := 0x1000000000000000000000000000000000000000000000000000000000002000000206c00) rfl State.tchDeassert_moves)
          exact h3
      · refine Moves.ite ?_ ?_
        · refine Moves.ite ?_ ?_
          · refine Moves.bump ?_ rfl
            refine Moves.trans ?_ (Moves.mono (k := 0x200000) rfl State.setTch_moves)
            exact h3
          · refine Moves.trans ?_ (Moves.mono (k := 0x1000000000000000000000000000000000000000000000000000000000002000000206c00) rfl State.tchDeassert_moves)
            exact h3
        · exact h3

theorem State.brkRecord_moves {s : State} {a0 : Nat} {a1 : Nat} {a2 : Bool} :
    Moves 0x4000 s (State.brkRecord s a0 a1 a2) := by
  unfold State.brkRecord
  refine Moves.trans ?_ (Moves.mono (k := 0x4000) rfl State.stateRec_moves)
  exact Moves.refl

theorem State.bfEnd_moves {s : State} {a0 : Nat} :
    Moves 0x2000000004000 s (State.bfEnd s a0) := by
  unfold State.bfEnd
  extract_lets -underBinder -merge -useContext v0 v1 v2 v3 v4
  try clear_value v0
  try clear_value v1
  have h5 : Moves 0x2000000004000 s v2 := by
    unfold v2
    refine Moves.wr ?_ rfl
    refine Moves.wr ?_ rfl
    refine Moves.wr ?_ rfl
    refine Moves.wr ?_ rfl
    exact Moves.refl
  try clear_value v2
  have h6 : Moves 0x2000000004000 s v3 := by
    unfold v3
    refine Moves.trans ?_ (Moves.mono (k := 0x4000) rfl State.brkRecord_moves)
    exact h5
  try clear_value v3
  have h7 : Moves 0x2000000004000 s v4 := by
    unfold v4
    refine Moves.ite ?_ ?_
    · refine Moves.trans ?_ (Moves.mono (k := 0x4000) rfl State.brkRecord_moves)
      exact h6
    · exact h6
  try clear_value v4
  refine Moves.ite ?_ ?_
  · refine Moves.trans ?_ (Moves.mono (k := 0x4000) rfl State.brkRecord_moves)
    exact h7
  · exact h7

theorem State.setBrk_moves {s : State} {a0 : Nat} {a1 : Sys2Proof.Machine.TmBrk} :
    Moves 0x200000 s (State.setBrk s a0 a1) := by
  unfold State.setBrk
  extract_lets -underBinder -merge -useContext v0
  try clear_value v0
  refine Moves.tm ?_ rfl
  exact Moves.refl

theorem State.brkStep_moves {a0 : Bool} {s : State} {a1 : Nat} :
    Moves 0x2000000204000 s (State.brkStep a0 s a1) := by
  unfold State.brkStep
  extract_lets -underBinder -merge -useContext v0 v1 v2 v3 v4
  try clear_value v0
  have h5 : Moves 0x2000000204000 s v1 := by
    unfold v1
    refine Moves.ite ?_ ?_
    · refine Moves.wrapInc ?_ rfl
      exact Moves.refl
    · exact Moves.refl
  try clear_value v1
  have h6 : Moves 0x2000000204000 s v2 := by
    unfold v2
    refine Moves.setFlag ?_ rfl
    refine Moves.setFlag ?_ rfl
    refine Moves.setFlag ?_ rfl
    exact h5
  try clear_value v2
  try clear_value v3
  have h7 : Moves 0x2000000204000 s v4 := by
    unfold v4
    refine Moves.ite ?_ ?_
    · exact h6
    · refine Moves.ite ?_ ?_
      · refine Moves.ite ?_ ?_
        · exact h6
        · refine Moves.trans ?_ (Moves.mono (k := 0x2000000004000) rfl State.bfEnd_moves)
          exact h6
      · refine Moves.ite ?_ ?_
        · refine Moves.trans ?_ (Moves.mono (k := 0x4000) rfl State.brkRecord_moves)
          refine Moves.wr ?_ rfl
          refine Moves.trans ?_ (Moves.mono (k := 0x200000) rfl State.setBrk_moves)
          exact h6
        · exact h6
  try clear_value v4
  refine Moves.setFlag ?_ rfl
  exact h7

theorem State.sendTrip_moves {s : State} {a0 : Bool} :
    Moves 0x40200000 s (State.sendTrip s a0) := by
  unfold State.sendTrip
  extract_lets -underBinder -merge -useContext v0 v1 v2 v3
  try clear_value v0
  try clear_value v1
  try clear_value v2
  have h4 : Moves 0x40200000 s v3 := by
    unfold v3
    refine Moves.tm ?_ rfl
    exact Moves.refl
  try clear_value v3
  refine Moves.trans ?_ (Moves.mono (k := 0x40000000) rfl State.rbSend_moves)
  exact h4

theorem State.tripMessage_moves {s : State} :
    Moves 0x40200000 s (State.tripMessage s) := by
  unfold State.tripMessage
  refine Moves.ite ?_ ?_
  · refine Moves.trans ?_ (Moves.mono (k := 0x40200000) rfl State.sendTrip_moves)
    exact Moves.refl
  · exact Moves.refl

theorem State.tmStep_moves {s : State} :
    Moves 0x1000000000000000000000000000000000000000000000000000000000002000040a16c00 s (State.tmStep s) := by
  unfold State.tmStep
  extract_lets -underBinder -merge -useContext v0 v1 v2 v3 v4
  have h5 : Moves 0x1000000000000000000000000000000000000000000000000000000000002000040a16c00 s v0 := by
    unfold v0
    refine Moves.foldl ?_ (fun st6 a7 => ?_)
    · exact Moves.refl
    · refine Moves.trans ?_ (Moves.mono (k := 0x1000000000000000000000000000000000000000000000000000000000002000000216c00) rfl State.tchStep_moves)
      exact Moves.refl
  try clear_value v0
  try clear_value v1
  have h8 : Moves 0x1000000000000000000000000000000000000000000000000000000000002000040a16c00 s v2 := by
    unfold v2
    refine Moves.foldl ?_ (fun st9 a10 => ?_)
    · exact h5
    · refine Moves.trans ?_ (Moves.mono (k := 0x2000000204000) rfl State.brkStep_moves)
      exact Moves.refl
  try clear_value v2
  try clear_value v3
  have h11 : Moves 0x1000000000000000000000000000000000000000000000000000000000002000040a16c00 s v4 := by
    unfold v4
    refine Moves.tm ?_ rfl
    exact h8
  try clear_value v4
  refine Moves.ite ?_ ?_
  · exact Moves.refl
  · refine Moves.trans ?_ (Moves.mono (k := 0x800000) rfl State.protPoints_moves)
    refine Moves.trans ?_ (Moves.mono (k := 0x40200000) rfl State.tripMessage_moves)
    exact h11

theorem State.setDev_moves {s : State} {a0 : Nat} {a1 : Sys2Proof.Machine.DevSt} :
    Moves 0x200000 s (State.setDev s a0 a1) := by
  unfold State.setDev
  extract_lets -underBinder -merge -useContext v0
  try clear_value v0
  refine Moves.tm ?_ rfl
  exact Moves.refl

theorem State.rxStale_moves {s : State} {a0 : Nat} :
    Moves 0x1000000000000000000000000000000000000000000000000000000000002000000006c00 s (State.rxStale s a0) := by
  unfold State.rxStale
  refine Moves.trans ?_ (Moves.mono (k := 0x1000000000000000000000000000000000000000000000000000000000000000000006c00) rfl State.notify_moves)
  refine Moves.wr ?_ rfl
  refine Moves.wr ?_ rfl
  exact Moves.refl

theorem State.rxJudge_moves {s : State} {a0 : Nat} :
    Moves 0x1000000000000000000000000000000000000000000000000000000000002000000006c00 s (State.rxJudge s a0) := by
  unfold State.rxJudge
  extract_lets -underBinder -merge -useContext v0
  try clear_value v0
  refine Moves.ite ?_ ?_
  · refine Moves.wr ?_ rfl
    refine Moves.wr ?_ rfl
    exact Moves.refl
  · refine Moves.ite ?_ ?_
    · refine Moves.wr ?_ rfl
      refine Moves.setFlag ?_ rfl
      exact Moves.refl
    · refine Moves.ite ?_ ?_
      · refine Moves.wr ?_ rfl
        exact Moves.refl
      · refine Moves.trans ?_ (Moves.mono (k := 0x1000000000000000000000000000000000000000000000000000000000002000000006c00) rfl State.rxStale_moves)
        exact Moves.refl

theorem State.rxOf_moves {s : State} {a0 : Nat} :
    Moves 0x1000000000000000000000000000000000000000000000000000000000002000000006c00 s (State.rxOf s a0) := by
  unfold State.rxOf
  refine Moves.foldl ?_ (fun st0 a1 => ?_)
  · exact Moves.refl
  · refine Moves.trans ?_ (Moves.mono (k := 0x1000000000000000000000000000000000000000000000000000000000002000000006c00) rfl State.rxJudge_moves)
    exact Moves.refl

theorem State.remoteAsleep_moves {s : State} {a0 : Nat} :
    Moves 0x2000000000000 s (State.remoteAsleep s a0) := by
  unfold State.remoteAsleep
  refine Moves.foldl ?_ (fun st0 a1 => ?_)
  · exact Moves.refl
  · refine Moves.wr ?_ rfl
    refine Moves.wr ?_ rfl
    exact Moves.refl

theorem execTripFrameReceive_moves {a0 : Nat} {a1 : List Sys2Proof.W32} {s : State} :
    ResMoves 0x1000000000000000000000000000000000000000000000000000000000002000040a16c00 s (execTripFrameReceive a0 a1 s) := by
  unfold execTripFrameReceive
  extract_lets -underBinder -merge -useContext v0 v1 v2
  try clear_value v0
  try clear_value v1
  have h3 : Moves 0x1000000000000000000000000000000000000000000000000000000000002000040a16c00 s v2 := by
    unfold v2
    refine Moves.tm ?_ rfl
    exact Moves.refl
  try clear_value v2
  refine ResMoves.ite ?_ ?_
  · refine ResMoves.next ?_
    exact Moves.refl
  · refine ResMoves.next ?_
    refine Moves.trans ?_ (Moves.mono (k := 0x1000000000000000000000000000000000000000000000000000000000002000040a16c00) rfl State.tmStep_moves)
    refine Moves.trans ?_ (Moves.mono (k := 0x1000000000000000000000000000000000000000000000000000000000002000000006c00) rfl State.rxOf_moves)
    exact h3

theorem State.setMember_moves {s : State} {a0 : Nat} {a1 : Nat} {a2 : Sys2Proof.Machine.ZMember} :
    Moves 0x200000 s (State.setMember s a0 a1 a2) := by
  unfold State.setMember
  extract_lets -underBinder -merge -useContext v0
  try clear_value v0
  refine Moves.trans ?_ (Moves.mono (k := 0x200000) rfl State.setZone_moves)
  exact Moves.refl

theorem State.zoneBlock_moves {s : State} {a0 : Nat} {a1 : Nat} {a2 : Nat} {a3 : List Sys2Proof.W32} :
    Moves 0x2000000080000 s (State.zoneBlock s a0 a1 a2 a3) := by
  unfold State.zoneBlock
  extract_lets -underBinder -merge -useContext v0 v1 v2
  try clear_value v0
  try clear_value v1
  have h3 : ∀ y4 y5 y6, Moves 0x2000000080000 y4 (v2 y4 y5 y6) := by
    intro y4 y5 y6
    unfold v2
    beta_reduce
    extract_lets -underBinder -merge -useContext v7 v8 v9 v10
    try clear_value v7
    try clear_value v8
    try clear_value v9
    try clear_value v10
    refine Moves.ite ?_ ?_
    · exact Moves.refl
    · refine Moves.trans ?_ (Moves.mono (k := 0x80000) rfl State.setFcChan_moves)
      exact Moves.refl
  try clear_value v2
  refine Moves.ite ?_ ?_
  · refine Moves.ite ?_ ?_
    · refine Moves.bump ?_ rfl
      exact Moves.refl
    · refine Moves.trans ?_ (h3 _ _ _)
      refine Moves.trans ?_ (h3 _ _ _)
      refine Moves.trans ?_ (h3 _ _ _)
      exact Moves.refl
  · exact Moves.refl

theorem execZoneFrameReceive_moves {a0 : Nat} {a1 : List Sys2Proof.W32} {s : State} :
    ResMoves 0x2000000280000 s (execZoneFrameReceive a0 a1 s) := by
  unfold execZoneFrameReceive
  extract_lets -underBinder -merge -useContext v0
  try clear_value v0
  refine ResMoves.ite ?_ ?_
  · refine ResMoves.next ?_
    exact Moves.refl
  · split
    · extract_lets -underBinder -merge -useContext v1
      try clear_value v1
      refine ResMoves.next ?_
      refine Moves.trans ?_ (Moves.mono (k := 0x200000) rfl State.setDev_moves)
      exact Moves.refl
    · extract_lets -underBinder -merge -useContext v2 v3
      try clear_value v2
      have h4 : Moves 0x2000000280000 s v3 := by
        unfold v3
        refine Moves.trans ?_ (Moves.mono (k := 0x200000) rfl State.setMember_moves)
        exact Moves.refl
      try clear_value v3
      refine ResMoves.next ?_
      refine Moves.foldl ?_ (fun st5 a6 => ?_)
      · exact h4
      · refine Moves.trans ?_ (Moves.mono (k := 0x2000000080000) rfl State.zoneBlock_moves)
        exact Moves.refl

theorem State.setPos_moves {s : State} {a0 : Nat} {a1 : Nat} :
    Moves 0x1000000000000000000000000000000000000000000000000000000000002000000006c00 s (State.setPos s a0 a1) := by
  unfold State.setPos
  extract_lets -underBinder -merge -useContext v0
  have h1 : Moves 0x1000000000000000000000000000000000000000000000000000000000002000000006c00 s v0 := by
    unfold v0
    refine Moves.trans ?_ (Moves.mono (k := 0x4000) rfl State.brkRecord_moves)
    refine Moves.wr ?_ rfl
    exact Moves.refl
  try clear_value v0
  refine Moves.ite ?_ ?_
  · exact Moves.refl
  · refine Moves.ite ?_ ?_
    · refine Moves.trans ?_ (Moves.mono (k := 0x1000000000000000000000000000000000000000000000000000000000000000000006c00) rfl State.notify_moves)
      refine Moves.wr ?_ rfl
      exact h1
    · exact h1

theorem State.brkOff_moves {s : State} {a0 : Nat} :
    Moves 0x1000000000000000000000000000000000000000000000000000000000002000000206c00 s (State.brkOff s a0) := by
  unfold State.brkOff
  extract_lets -underBinder -merge -useContext v0
  have h1 : Moves 0x1000000000000000000000000000000000000000000000000000000000002000000206c00 s v0 := by
    unfold v0
    refine Moves.trans ?_ (Moves.mono (k := 0x1000000000000000000000000000000000000000000000000000000000002000000006c00) rfl State.setPos_moves)
    refine Moves.ite ?_ ?_
    · refine Moves.trans ?_ (Moves.mono (k := 0x2000000004000) rfl State.bfEnd_moves)
      exact Moves.refl
    · exact Moves.refl
  try clear_value v0
  refine Moves.putWord ?_ rfl
  refine Moves.trans ?_ (Moves.mono (k := 0x200000) rfl State.setBrk_moves)
  exact h1

theorem State.brkSample_moves {s : State} {a0 : Nat} {a1 : Sys2Proof.Machine.Smp} :
    Moves 0x200000 s (State.brkSample s a0 a1) := by
  unfold State.brkSample
  refine Moves.foldl ?_ (fun st0 a1 => ?_)
  · exact Moves.refl
  · extract_lets -underBinder -merge -useContext v2 v3 v4
    try clear_value v2
    try clear_value v3
    try clear_value v4
    refine Moves.ite ?_ ?_
    · refine Moves.ite ?_ ?_
      · refine Moves.trans ?_ (Moves.mono (k := 0x200000) rfl State.setBrk_moves)
        exact Moves.refl
      · refine Moves.ite ?_ ?_
        · refine Moves.trans ?_ (Moves.mono (k := 0x200000) rfl State.setBrk_moves)
          exact Moves.refl
        · exact Moves.refl
    · exact Moves.refl

theorem State.latchReset_moves {s : State} {a0 : Nat} :
    Moves 0x1000000000000000000000000000000000000000000000000000000000002000000206c00 s (State.latchReset s a0) := by
  unfold State.latchReset
  extract_lets -underBinder -merge -useContext v0
  try clear_value v0
  refine Moves.ite ?_ ?_
  · refine Moves.ite ?_ ?_
    · refine Moves.bump ?_ rfl
      exact Moves.refl
    · refine Moves.ite ?_ ?_
      · refine Moves.trans ?_ (Moves.mono (k := 0x1000000000000000000000000000000000000000000000000000000000002000000206c00) rfl State.tchDeassert_moves)
        exact Moves.refl
      · refine Moves.trans ?_ (Moves.mono (k := 0x200000) rfl State.setTch_moves)
        exact Moves.refl
  · exact Moves.refl

theorem State.latchResets_moves {s : State} {a0 : Nat} :
    Moves 0x1000000000000000000000000000000000000000000000000000000000002000000206c00 s (State.latchResets s a0) := by
  unfold State.latchResets
  refine Moves.foldl ?_ (fun st0 a1 => ?_)
  · exact Moves.refl
  · refine Moves.trans ?_ (Moves.mono (k := 0x1000000000000000000000000000000000000000000000000000000000002000000206c00) rfl State.latchReset_moves)
    exact Moves.refl

theorem State.latchMode_moves {s : State} {a0 : Nat} :
    Moves 0x2000000204000 s (State.latchMode s a0) := by
  unfold State.latchMode
  extract_lets -underBinder -merge -useContext v0 v1 v2
  try clear_value v0
  try clear_value v1
  have h3 : Moves 0x2000000204000 s v2 := by
    unfold v2
    refine Moves.setFlag ?_ rfl
    refine Moves.trans ?_ (Moves.mono (k := 0x200000) rfl State.setTch_moves)
    exact Moves.refl
  try clear_value v2
  refine Moves.ite ?_ ?_
  · exact Moves.refl
  · refine Moves.ite ?_ ?_
    · exact h3
    · refine Moves.trans ?_ (Moves.mono (k := 0x4000) rfl State.tchRecord_moves)
      exact h3

theorem State.xinResets_moves {s : State} {a0 : State} :
    Moves 0x1000000000000000000000000000000000000000000000000000000000002000000206c00 s (State.xinResets s a0) := by
  unfold State.xinResets
  refine Moves.foldl ?_ (fun st0 a1 => ?_)
  · exact Moves.refl
  · refine Moves.trans ?_ (Moves.mono (k := 0x1000000000000000000000000000000000000000000000000000000000002000000206c00) rfl State.latchReset_moves)
    exact Moves.refl

theorem State.tmCommit_moves {s : State} {a0 : State} :
    Moves 0x1000000000000000000000000000000000000000000000000000000000002000000206c00 s (State.tmCommit s a0) := by
  unfold State.tmCommit
  extract_lets -underBinder -merge -useContext v0 v1 v2 v3
  have h4 : Moves 0x1000000000000000000000000000000000000000000000000000000000002000000206c00 s v0 := by
    unfold v0
    refine Moves.foldl ?_ (fun st5 a6 => ?_)
    · exact Moves.refl
    · extract_lets -underBinder -merge -useContext v7
      have h8 : Moves 0x1000000000000000000000000000000000000000000000000000000000002000000206c00 st5 v7 := by
        unfold v7
        refine Moves.trans ?_ (Moves.mono (k := 0x2000000204000) rfl State.latchMode_moves)
        exact Moves.refl
      try clear_value v7
      refine Moves.ite ?_ ?_
      · refine Moves.wr ?_ rfl
        exact h8
      · refine Moves.ite ?_ ?_
        · refine Moves.wr ?_ rfl
          exact h8
        · refine Moves.trans ?_ (Moves.mono (k := 0x1000000000000000000000000000000000000000000000000000000000002000000006c00) rfl State.tblkApply_moves)
          exact h8
  try clear_value v0
  have h9 : Moves 0x1000000000000000000000000000000000000000000000000000000000002000000206c00 s v1 := by
    unfold v1
    refine Moves.foldl ?_ (fun st10 a11 => ?_)
    · exact h4
    · extract_lets -underBinder -merge -useContext v12
      try clear_value v12
      refine Moves.ite ?_ ?_
      · exact Moves.refl
      · refine Moves.wr ?_ rfl
        refine Moves.wr ?_ rfl
        refine Moves.trans ?_ (Moves.mono (k := 0x200000) rfl State.setZone_moves)
        exact Moves.refl
  try clear_value v1
  have h13 : Moves 0x1000000000000000000000000000000000000000000000000000000000002000000206c00 s v2 := by
    unfold v2
    refine Moves.foldl ?_ (fun st14 a15 => ?_)
    · exact h9
    · extract_lets -underBinder -merge -useContext v16 v17
      try clear_value v16
      have h18 : Moves 0x1000000000000000000000000000000000000000000000000000000000002000000206c00 st14 v17 := by
        unfold v17
        refine Moves.setFlag ?_ rfl
        exact Moves.refl
      try clear_value v17
      refine Moves.ite ?_ ?_
      · refine Moves.trans ?_ (Moves.mono (k := 0x1000000000000000000000000000000000000000000000000000000000002000000206c00) rfl State.brkOff_moves)
        exact h18
      · exact h18
  try clear_value v2
  have h19 : Moves 0x1000000000000000000000000000000000000000000000000000000000002000000206c00 s v3 := by
    unfold v3
    refine Moves.foldl ?_ (fun st20 a21 => ?_)
    · exact h13
    · refine Moves.trans ?_ (Moves.mono (k := 0x1000000000000000000000000000000000000000000000000000000000002000000006c00) rfl State.rxJudge_moves)
      exact Moves.refl
  try clear_value v3
  refine Moves.trans ?_ (Moves.mono (k := 0x1000000000000000000000000000000000000000000000000000000000002000000206c00) rfl State.xinResets_moves)
  exact h19

theorem State.zoneRecover_moves {s : State} {a0 : Nat} :
    Moves 0x1000000000000000000000000000000000000000000000000000000000002000000206c00 s (State.zoneRecover s a0) := by
  unfold State.zoneRecover
  split
  · extract_lets -underBinder -merge -useContext v0
    try clear_value v0
    refine Moves.ite ?_ ?_
    · refine Moves.trans ?_ (Moves.mono (k := 0x1000000000000000000000000000000000000000000000000000000000000000000006c00) rfl State.notify_moves)
      refine Moves.wr ?_ rfl
      refine Moves.trans ?_ (Moves.mono (k := 0x200000) rfl State.setZone_moves)
      exact Moves.refl
    · exact Moves.refl
  · exact Moves.refl

theorem State.zoneStep_moves {s : State} {a0 : Nat} :
    Moves 0x1000000000000000000000000000000000000000000000000000000000002000000206c00 s (State.zoneStep s a0) := by
  unfold State.zoneStep
  extract_lets -underBinder -merge -useContext v0 v1 v2 v3 v4 v5 v6 v7 v8 v9
  try clear_value v0
  try clear_value v1
  try clear_value v2
  try clear_value v3
  have h10 : Moves 0x1000000000000000000000000000000000000000000000000000000000002000000206c00 s v4 := by
    unfold v4
    refine Moves.wrk ?_ rfl
    refine Moves.wrk ?_ rfl
    refine Moves.wr ?_ rfl
    exact Moves.refl
  try clear_value v4
  try clear_value v5
  try clear_value v6
  have h11 : Moves 0x1000000000000000000000000000000000000000000000000000000000002000000206c00 s v7 := by
    unfold v7
    refine Moves.trans ?_ (Moves.mono (k := 0x200000) rfl State.setZone_moves)
    exact h10
  try clear_value v7
  try clear_value v8
  try clear_value v9
  refine Moves.ite ?_ ?_
  · refine Moves.trans ?_ (Moves.mono (k := 0x1000000000000000000000000000000000000000000000000000000000002000000206c00) rfl State.zoneRecover_moves)
    refine Moves.ite ?_ ?_
    · refine Moves.trans ?_ (Moves.mono (k := 0x200000) rfl State.setZone_moves)
      exact h10
    · exact h10
  · refine Moves.ite ?_ ?_
    · exact h11
    · refine Moves.trans ?_ (Moves.mono (k := 0x1000000000000000000000000000000000000000000000000000000000000000000006c00) rfl State.notify_moves)
      refine Moves.wr ?_ rfl
      refine Moves.wr ?_ rfl
      refine Moves.trans ?_ (Moves.mono (k := 0x200000) rfl State.setZone_moves)
      exact h11

theorem State.posStep_moves {s : State} {a0 : Nat} :
    Moves 0x1000000000000000000000000000000000000000000000000000000000002000000206c00 s (State.posStep s a0) := by
  unfold State.posStep
  split
  · extract_lets -underBinder -merge -useContext v0
    try clear_value v0
    refine Moves.trans ?_ (Moves.mono (k := 0x1000000000000000000000000000000000000000000000000000000000002000000006c00) rfl State.setPos_moves)
    refine Moves.trans ?_ (Moves.mono (k := 0x200000) rfl State.setBrk_moves)
    exact Moves.refl
  · extract_lets -underBinder -merge -useContext v1
    try clear_value v1
    refine Moves.ite ?_ ?_
    · exact Moves.refl
    · refine Moves.trans ?_ (Moves.mono (k := 0x200000) rfl State.setBrk_moves)
      exact Moves.refl

theorem State.zoneSend_moves {s : State} {a0 : Nat} {a1 : Nat} :
    Moves 0x40200000 s (State.zoneSend s a0 a1) := by
  unfold State.zoneSend
  extract_lets -underBinder -merge -useContext v0 v1 v2 v3 v4 v5 v6 v7 v8 v9 v10
  try clear_value v0
  try clear_value v1
  try clear_value v2
  try clear_value v3
  try clear_value v4
  try clear_value v5
  try clear_value v6
  try clear_value v7
  try clear_value v8
  try clear_value v9
  have h11 : Moves 0x40200000 s v10 := by
    unfold v10
    refine Moves.tm ?_ rfl
    exact Moves.refl
  try clear_value v10
  refine Moves.ite ?_ ?_
  · exact Moves.refl
  · refine Moves.trans ?_ (Moves.mono (k := 0x40000000) rfl State.rbSend_moves)
    exact h11

theorem State.zoneFine_moves {s : State} {a0 : Nat} {a1 : Nat} :
    Moves 0x40200000 s (State.zoneFine s a0 a1) := by
  unfold State.zoneFine
  refine Moves.foldl ?_ (fun st0 a1 => ?_)
  · exact Moves.refl
  · refine Moves.trans ?_ (Moves.mono (k := 0x40200000) rfl State.zoneSend_moves)
    exact Moves.refl

theorem execBfBackupTimer_moves {a0 : Nat} {s : State} :
    ResMoves 0x1000000000000000000000000000000000000000000000000000000000002000040a16c00 s (execBfBackupTimer a0 s) := by
  unfold execBfBackupTimer
  extract_lets -underBinder -merge -useContext v0
  have h1 : Moves 0x1000000000000000000000000000000000000000000000000000000000002000040a16c00 s v0 := by
    unfold v0
    refine Moves.trans ?_ (Moves.mono (k := 0x4000) rfl State.brkRecord_moves)
    refine Moves.wrapInc ?_ rfl
    refine Moves.wr ?_ rfl
    refine Moves.wr ?_ rfl
    exact Moves.refl
  try clear_value v0
  refine ResMoves.ite ?_ ?_
  · refine ResMoves.next ?_
    refine Moves.trans ?_ (Moves.mono (k := 0x1000000000000000000000000000000000000000000000000000000000002000040a16c00) rfl State.tmStep_moves)
    refine Moves.trans ?_ (Moves.mono (k := 0x1000000000000000000000000000000000000000000000000000000000000000000006c00) rfl State.notify_moves)
    refine Moves.trans ?_ (Moves.mono (k := 0x10000) rfl State.drFire_moves)
    exact h1
  · refine ResMoves.next ?_
    exact Moves.refl

theorem execBfRetripTimer_moves {a0 : Nat} {s : State} :
    ResMoves 0x1000000000000000000000000000000000000000000000000000000000002000040a16c00 s (execBfRetripTimer a0 s) := by
  unfold execBfRetripTimer
  extract_lets -underBinder -merge -useContext v0
  have h1 : Moves 0x1000000000000000000000000000000000000000000000000000000000002000040a16c00 s v0 := by
    unfold v0
    refine Moves.trans ?_ (Moves.mono (k := 0x4000) rfl State.brkRecord_moves)
    refine Moves.wr ?_ rfl
    refine Moves.wr ?_ rfl
    exact Moves.refl
  try clear_value v0
  refine ResMoves.ite ?_ ?_
  · refine ResMoves.next ?_
    refine Moves.trans ?_ (Moves.mono (k := 0x1000000000000000000000000000000000000000000000000000000000002000040a16c00) rfl State.tmStep_moves)
    refine Moves.trans ?_ (Moves.mono (k := 0x1000000000000000000000000000000000000000000000000000000000000000000006c00) rfl State.notify_moves)
    exact h1
  · refine ResMoves.next ?_
    exact Moves.refl

theorem execBreakerPosDiscExpiry_moves {a0 : Nat} {s : State} :
    ResMoves 0x1000000000000000000000000000000000000000000000000000000000002000040a16c00 s (execBreakerPosDiscExpiry a0 s) := by
  unfold execBreakerPosDiscExpiry
  refine ResMoves.ite ?_ ?_
  · split
    · refine ResMoves.ite ?_ ?_
      · refine ResMoves.next ?_
        refine Moves.trans ?_ (Moves.mono (k := 0x1000000000000000000000000000000000000000000000000000000000002000040a16c00) rfl State.tmStep_moves)
        refine Moves.trans ?_ (Moves.mono (k := 0x1000000000000000000000000000000000000000000000000000000000002000000006c00) rfl State.setPos_moves)
        exact Moves.refl
      · refine ResMoves.next ?_
        exact Moves.refl
    · refine ResMoves.next ?_
      exact Moves.refl
  · refine ResMoves.next ?_
    exact Moves.refl

theorem execLatchReset_moves {a0 : Sys2Proof.W32} {s : State} :
    ResMoves 0x1000000000000000000000000000000000000000000000000000000000002000040a16c00 s (execLatchReset a0 s) := by
  unfold execLatchReset
  refine ResMoves.ite ?_ ?_
  · refine ResMoves.next ?_
    refine Moves.trans ?_ (Moves.mono (k := 0x1000000000000000000000000000000000000000000000000000000000002000040a16c00) rfl State.tmStep_moves)
    refine Moves.trans ?_ (Moves.mono (k := 0x1000000000000000000000000000000000000000000000000000000000002000000206c00) rfl State.latchResets_moves)
    exact Moves.refl
  · refine ResMoves.next ?_
    exact Moves.refl

theorem execMinOnExpiry_moves {a0 : Nat} {s : State} :
    ResMoves 0x1000000000000000000000000000000000000000000000000000000000002000040a16c00 s (execMinOnExpiry a0 s) := by
  unfold execMinOnExpiry
  refine ResMoves.ite ?_ ?_
  · refine ResMoves.next ?_
    refine Moves.trans ?_ (Moves.mono (k := 0x1000000000000000000000000000000000000000000000000000000000002000040a16c00) rfl State.tmStep_moves)
    exact Moves.refl
  · refine ResMoves.next ?_
    exact Moves.refl

theorem execProtectionMessageRepeat_moves {s : State} :
    ResMoves 0x40200000 s (execProtectionMessageRepeat s) := by
  unfold execProtectionMessageRepeat
  refine ResMoves.ite ?_ ?_
  · refine ResMoves.next ?_
    refine Moves.trans ?_ (Moves.mono (k := 0x40200000) rfl State.sendTrip_moves)
    exact Moves.refl
  · refine ResMoves.next ?_
    exact Moves.refl

theorem execRemoteBitStale_moves {a0 : Nat} {s : State} :
    ResMoves 0x1000000000000000000000000000000000000000000000000000000000002000040a16c00 s (execRemoteBitStale a0 s) := by
  unfold execRemoteBitStale
  refine ResMoves.ite ?_ ?_
  · refine ResMoves.next ?_
    refine Moves.trans ?_ (Moves.mono (k := 0x1000000000000000000000000000000000000000000000000000000000002000040a16c00) rfl State.tmStep_moves)
    refine Moves.trans ?_ (Moves.mono (k := 0x1000000000000000000000000000000000000000000000000000000000002000000006c00) rfl State.rxStale_moves)
    exact Moves.refl
  · refine ResMoves.next ?_
    exact Moves.refl

theorem execZoneRecoveryExpiry_moves {a0 : Nat} {s : State} :
    ResMoves 0x1000000000000000000000000000000000000000000000000000000000002000000206c00 s (execZoneRecoveryExpiry a0 s) := by
  unfold execZoneRecoveryExpiry
  refine ResMoves.ite ?_ ?_
  · refine ResMoves.next ?_
    refine Moves.trans ?_ (Moves.mono (k := 0x1000000000000000000000000000000000000000000000000000000000002000000206c00) rfl State.zoneRecover_moves)
    exact Moves.refl
  · refine ResMoves.next ?_
    exact Moves.refl

theorem execZoneSampleDeadline_moves {a0 : Nat} {a1 : Nat} {a2 : Nat} {s : State} :
    ResMoves 0x2000000080000 s (execZoneSampleDeadline a0 a1 a2 s) := by
  unfold execZoneSampleDeadline
  extract_lets -underBinder -merge -useContext v0 v1
  try clear_value v0
  try clear_value v1
  refine ResMoves.ite ?_ ?_
  · refine ResMoves.next ?_
    refine Moves.bump ?_ rfl
    refine Moves.trans ?_ (Moves.mono (k := 0x80000) rfl State.setFcChan_moves)
    exact Moves.refl
  · refine ResMoves.next ?_
    exact Moves.refl

end Sys2Proof.Machine
end

