-- ==== Sys2Proof/Laws/FrameUmpire.lean ====
section
/-! SUPPORT. What every definition of Machine/Umpire.lean may change (masks over `Part.bit`), one lemma each. -/

namespace Sys2Proof.Machine

open Sys2Proof

theorem State.resolveBytes_moves {s : State} :
    Moves 0x800000 s (State.resolveBytes s) := by
  unfold State.resolveBytes
  extract_lets -underBinder -merge -useContext v0
  try clear_value v0
  refine Moves.foldl ?_ (fun st1 a2 => ?_)
  · exact Moves.refl
  · split
    · extract_lets -underBinder -merge -useContext v3
      try clear_value v3
      refine Moves.um ?_ rfl
      exact Moves.refl
    · extract_lets -underBinder -merge -useContext v4
      try clear_value v4
      refine Moves.um ?_ rfl
      exact Moves.refl
    · exact Moves.refl

theorem State.forget_moves {s : State} {a0 : Nat} {a1 : Bool} :
    Moves 0x800000 s (State.forget s a0 a1) := by
  unfold State.forget
  extract_lets -underBinder -merge -useContext v0
  try clear_value v0
  refine Moves.ite ?_ ?_
  · refine Moves.um ?_ rfl
    exact Moves.refl
  · exact Moves.refl

theorem State.resolveDo_moves {s : State} {a0 : Nat} :
    Moves 0x20000000000800000 s (State.resolveDo s a0) := by
  unfold State.resolveDo
  split
  · exact Moves.refl
  · extract_lets -underBinder -merge -useContext v0
    have h1 : Moves 0x20000000000800000 s v0 := by
      unfold v0
      refine Moves.setFlag ?_ rfl
      exact Moves.refl
    try clear_value v0
    refine Moves.ite ?_ ?_
    · exact h1
    · refine Moves.trans ?_ (Moves.mono (k := 0x800000) rfl State.forget_moves)
      refine Moves.wr ?_ rfl
      refine Moves.wr ?_ rfl
      exact h1

theorem State.resolveOutputs_moves {s : State} :
    Moves 0x20000000000800000 s (State.resolveOutputs s) := by
  unfold State.resolveOutputs
  refine Moves.trans ?_ (Moves.mono (k := 0x800000) rfl State.resolveBytes_moves)
  refine Moves.foldl ?_ (fun st0 a1 => ?_)
  · exact Moves.refl
  · refine Moves.trans ?_ (Moves.mono (k := 0x20000000000800000) rfl State.resolveDo_moves)
    exact Moves.refl

theorem State.unforcePoint_moves {s : State} {a0 : Nat} :
    Moves 0xc01000 s (State.unforcePoint s a0) := by
  unfold State.unforcePoint
  extract_lets -underBinder -merge -useContext v0 v1 v2
  try clear_value v0
  have h3 : Moves 0xc01000 s v1 := by
    unfold v1
    refine Moves.pd ?_ rfl
    exact Moves.refl
  try clear_value v1
  have h4 : Moves 0xc01000 s v2 := by
    unfold v2
    refine Moves.trans ?_ (Moves.mono (k := 0x800000) rfl State.setStand_moves)
    exact h3
  try clear_value v2
  refine Moves.trans ?_ (Moves.mono (k := 0x401000) rfl State.ptQual_moves)
  exact h4

theorem State.unforcePoints_moves {s : State} :
    Moves 0xc01000 s (State.unforcePoints s) := by
  unfold State.unforcePoints
  refine Moves.foldl ?_ (fun st0 a1 => ?_)
  · exact Moves.refl
  · refine Moves.trans ?_ (Moves.mono (k := 0xc01000) rfl State.unforcePoint_moves)
    exact Moves.refl

theorem State.writeEnd_moves {s : State} {a0 : Sys2Proof.Machine.WriteCmd} {a1 : Sys2Proof.Machine.Stamp} :
    Moves 0x10000000000000000000000000000000000000000000000000000000000000000000000400400 s (State.writeEnd s a0 a1) := by
  unfold State.writeEnd
  extract_lets -underBinder -merge -useContext v0 v1
  try clear_value v0
  have h2 : Moves 0x10000000000000000000000000000000000000000000000000000000000000000000000400400 s v1 := by
    unfold v1
    refine Moves.pd ?_ rfl
    exact Moves.refl
  try clear_value v1
  split
  · refine Moves.trans ?_ (Moves.mono (k := 0x10000000000000000000000000000000000000000000000000000000000000000000000000400) rfl State.settle_moves)
    exact h2
  · refine Moves.ite ?_ ?_
    · refine Moves.trans ?_ (Moves.mono (k := 0x10000000000000000000000000000000000000000000000000000000000000000000000000400) rfl State.settle_moves)
      exact h2
    · split
      · refine Moves.trans ?_ (Moves.mono (k := 0x10000000000000000000000000000000000000000000000000000000000000000000000000400) rfl State.setPhase_moves)
        exact h2
      · exact h2

theorem State.entryDone_moves {s : State} {a0 : Nat × Nat} {a1 : Nat} {a2 : Bool} {a3 : Nat} {a4 : Option Sys2Proof.Machine.Status}
    {a5 : Sys2Proof.Machine.Stamp} :
    Moves 0x10000000000000000000000000000000000000000000000000000000000000000000000400400 s (State.entryDone s a0 a1 a2 a3 a4 a5) := by
  unfold State.entryDone
  split
  · exact Moves.refl
  · extract_lets -underBinder -merge -useContext v0 v1 v2 v3
    try clear_value v0
    try clear_value v1
    try clear_value v2
    have h4 : Moves 0x10000000000000000000000000000000000000000000000000000000000000000000000400400 s v3 := by
      unfold v3
      refine Moves.pd ?_ rfl
      exact Moves.refl
    try clear_value v3
    refine Moves.ite ?_ ?_
    · refine Moves.trans ?_ (Moves.mono (k := 0x10000000000000000000000000000000000000000000000000000000000000000000000400400) rfl State.writeEnd_moves)
      exact h4
    · exact h4

theorem State.conflict_moves {s : State} {a0 : Nat} {a1 : Nat} {a2 : Nat} {a3 : Nat} {a4 : Nat} :
    Moves 0x1000000000000000000000000000000000000000000000000000000020000000000806c00 s (State.conflict s a0 a1 a2 a3 a4) := by
  unfold State.conflict
  extract_lets -underBinder -merge -useContext v0 v1
  try clear_value v0
  have h2 : Moves 0x1000000000000000000000000000000000000000000000000000000020000000000806c00 s v1 := by
    unfold v1
    refine Moves.um ?_ rfl
    exact Moves.refl
  try clear_value v1
  refine Moves.ite ?_ ?_
  · exact Moves.refl
  · refine Moves.trans ?_ (Moves.mono (k := 0x1000000000000000000000000000000000000000000000000000000000000000000006c00) rfl State.notify_moves)
    refine Moves.bump ?_ rfl
    exact h2

theorem State.laneLost_moves {s : State} {a0 : Nat} :
    Moves 0x1000000 s (State.laneLost s a0) := by
  unfold State.laneLost
  extract_lets -underBinder -merge -useContext v0 v1 v2
  try clear_value v0
  try clear_value v1
  try clear_value v2
  refine Moves.rp ?_ rfl
  exact Moves.refl

theorem State.outcome_moves {s : State} {a0 : Sys2Proof.Machine.UWrite} {a1 : Bool} {a2 : Nat} {a3 : Nat} :
    Moves 0x10001000000000000000000000000000000000000000000000000000000020000000041c06c00 s (State.outcome s a0 a1 a2 a3) := by
  unfold State.outcome
  extract_lets -underBinder -merge -useContext v0 v1 v2 v3
  try clear_value v0
  have h4 : Moves 0x10001000000000000000000000000000000000000000000000000000000020000000041c06c00 s v1 := by
    unfold v1
    refine Moves.ite ?_ ?_
    · exact Moves.refl
    · refine Moves.bump ?_ rfl
      exact Moves.refl
  try clear_value v1
  have h5 : Moves 0x10001000000000000000000000000000000000000000000000000000000020000000041c06c00 s v2 := by
    unfold v2
    split
    · refine Moves.trans ?_ (Moves.mono (k := 0x10000000000000000000000000000000000000000000000000000000000000000000000400400) rfl State.entryDone_moves)
      exact h4
    · refine Moves.ite ?_ ?_
      · exact h4
      · refine Moves.trans ?_ (Moves.mono (k := 0x1000000000000000000000000000000000000000000000000000000020000000000806c00) rfl State.conflict_moves)
        exact h4
  try clear_value v2
  have h6 : Moves 0x10001000000000000000000000000000000000000000000000000000000020000000041c06c00 s v3 := by
    unfold v3
    split
    · refine Moves.trans ?_ (Moves.mono (k := 0x40400000) rfl State.ptSend_moves)
      exact h5
    · exact h5
  try clear_value v3
  split
  · refine Moves.ite ?_ ?_
    · exact h6
    · refine Moves.trans ?_ (Moves.mono (k := 0x1000000) rfl State.laneLost_moves)
      exact h6
  · exact h6

theorem State.allLose_moves {s : State} {a0 : Nat} {a1 : Nat} {a2 : List Sys2Proof.Machine.UWrite} :
    Moves 0x10001000000000000000000000000000000000000000000000000000000020000000041c06c00 s (State.allLose s a0 a1 a2) := by
  unfold State.allLose
  refine Moves.foldl ?_ (fun st0 a1 => ?_)
  · exact Moves.refl
  · refine Moves.trans ?_ (Moves.mono (k := 0x10001000000000000000000000000000000000000000000000000000000020000000041c06c00) rfl State.outcome_moves)
    exact Moves.refl

theorem State.umAdd_moves {s : State} {a0 : Sys2Proof.Machine.UWrite} :
    Moves 0x800000 s (State.umAdd s a0) := by
  unfold State.umAdd
  extract_lets -underBinder -merge -useContext v0 v1
  try clear_value v0
  try clear_value v1
  refine Moves.um ?_ rfl
  exact Moves.refl

theorem execPtReqReceive_moves {a0 : Nat} {a1 : List Sys2Proof.W32} {s : State} :
    ResMoves 0x40c00000 s (execPtReqReceive a0 a1 s) := by
  unfold execPtReqReceive
  extract_lets -underBinder -merge -useContext v0 v1 v2 v3 v4
  try clear_value v0
  try clear_value v1
  try clear_value v2
  try clear_value v3
  have h5 : ∀ y6, Moves 0x40c00000 s (v4 y6) := by
    intro y6
    unfold v4
    beta_reduce
    refine Moves.trans ?_ (Moves.mono (k := 0x40400000) rfl State.ptSend_moves)
    exact Moves.refl
  try clear_value v4
  refine ResMoves.ite ?_ ?_
  · refine ResMoves.next ?_
    exact Moves.refl
  · refine ResMoves.ite ?_ ?_
    · refine ResMoves.next ?_
      exact h5 _
    · split
      · refine ResMoves.next ?_
        exact h5 _
      · extract_lets -underBinder -merge -useContext v7
        try clear_value v7
        refine ResMoves.ite ?_ ?_
        · refine ResMoves.next ?_
          exact h5 _
        · refine ResMoves.next ?_
          refine Moves.trans ?_ (Moves.mono (k := 0x800000) rfl State.umAdd_moves)
          exact Moves.refl

theorem State.replied_moves {s : State} {a0 : Sys2Proof.Machine.RemReq} {a1 : Sys2Proof.Machine.Status} {a2 : Nat}
    {a3 : Sys2Proof.Machine.Stamp} {a4 : List Nat} :
    Moves 0x10000000000000000000000000000000000000000000000000000000000000000000000400400 s (State.replied s a0 a1 a2 a3 a4) := by
  unfold State.replied
  extract_lets -underBinder -merge -useContext v0 v1
  try clear_value v0
  have h2 : Moves 0x10000000000000000000000000000000000000000000000000000000000000000000000400400 s v1 := by
    unfold v1
    refine Moves.pd ?_ rfl
    exact Moves.refl
  try clear_value v1
  split
  · exact h2
  · refine Moves.ite ?_ ?_
    · split
      · extract_lets -underBinder -merge -useContext v3
        have h4 : Moves 0x10000000000000000000000000000000000000000000000000000000000000000000000400400 s v3 := by
          unfold v3
          refine Moves.ite ?_ ?_
          · refine Moves.trans ?_ (Moves.mono (k := 0x400) rfl State.dmaOut_moves)
            exact h2
          · exact h2
        try clear_value v3
        refine Moves.ite ?_ ?_
        · refine Moves.trans ?_ (Moves.mono (k := 0x10000000000000000000000000000000000000000000000000000000000000000000000400400) rfl State.entryDone_moves)
          exact h4
        · refine Moves.trans ?_ (Moves.mono (k := 0x10000000000000000000000000000000000000000000000000000000000000000000000000400) rfl State.setPhase_moves)
          exact h2
      · exact h2
    · refine Moves.trans ?_ (Moves.mono (k := 0x10000000000000000000000000000000000000000000000000000000000000000000000400400) rfl State.entryDone_moves)
      exact h2

theorem execPtRspReceive_moves {a0 : Nat} {a1 : List Sys2Proof.W32} {s : State} :
    ResMoves 0x10000000000000000000000000000000000000000000000000000000000000000000000400400 s (execPtRspReceive a0 a1 s) := by
  unfold execPtRspReceive
  extract_lets -underBinder -merge -useContext v0 v1
  try clear_value v0
  try clear_value v1
  split
  · refine ResMoves.ite ?_ ?_
    · refine ResMoves.next ?_
      refine Moves.trans ?_ (Moves.mono (k := 0x10000000000000000000000000000000000000000000000000000000000000000000000400400) rfl State.replied_moves)
      exact Moves.refl
    · refine ResMoves.next ?_
      exact Moves.refl
  · refine ResMoves.next ?_
    exact Moves.refl

theorem State.ptRequest_moves {s : State} {a0 : Nat} {a1 : Nat} {a2 : Bool} {a3 : Nat} {a4 : Option (Nat × Nat)} {a5 : Nat} :
    Moves 0x40400000 s (State.ptRequest s a0 a1 a2 a3 a4 a5) := by
  unfold State.ptRequest
  extract_lets -underBinder -merge -useContext v0 v1 v2
  try clear_value v0
  have h3 : Moves 0x40400000 s v1 := by
    unfold v1
    refine Moves.trans ?_ (Moves.mono (k := 0x40400000) rfl State.ptSend_moves)
    exact Moves.refl
  try clear_value v1
  try clear_value v2
  refine Moves.pd ?_ rfl
  exact h3

theorem State.umWrite_moves {s : State} {a0 : Sys2Proof.Machine.UWrite} :
    Moves 0x40c00000 s (State.umWrite s a0) := by
  unfold State.umWrite
  split
  · exact Moves.refl
  · refine Moves.ite ?_ ?_
    · refine Moves.trans ?_ (Moves.mono (k := 0x40400000) rfl State.ptRequest_moves)
      exact Moves.refl
    · refine Moves.trans ?_ (Moves.mono (k := 0x800000) rfl State.umAdd_moves)
      exact Moves.refl

theorem State.endOnce_moves {s : State} :
    Moves 0x800000 s (State.endOnce s) := by
  unfold State.endOnce
  extract_lets -underBinder -merge -useContext v0
  try clear_value v0
  refine Moves.um ?_ rfl
  exact Moves.refl

theorem State.forcePoint_moves {s : State} {a0 : Nat} {a1 : Nat} :
    Moves 0xc01000 s (State.forcePoint s a0 a1) := by
  unfold State.forcePoint
  split
  · exact Moves.refl
  · extract_lets -underBinder -merge -useContext v0
    try clear_value v0
    refine Moves.ite ?_ ?_
    · refine Moves.trans ?_ (Moves.mono (k := 0x800000) rfl State.setStand_moves)
      exact Moves.refl
    · refine Moves.trans ?_ (Moves.mono (k := 0x401000) rfl State.ptSet_moves)
      refine Moves.pd ?_ rfl
      exact Moves.refl

theorem State.keepBytes_moves {s : State} {a0 : Nat} :
    Moves 0x800000 s (State.keepBytes s a0) := by
  unfold State.keepBytes
  extract_lets -underBinder -merge -useContext v0
  try clear_value v0
  refine Moves.um ?_ rfl
  exact Moves.refl

theorem State.laneWrites_moves {s : State} {a0 : Nat} :
    Moves 0x41c00000 s (State.laneWrites s a0) := by
  unfold State.laneWrites
  extract_lets -underBinder -merge -useContext v0 v1 v2
  try clear_value v0
  try clear_value v1
  have h3 : Moves 0x41c00000 s v2 := by
    unfold v2
    refine Moves.rp ?_ rfl
    exact Moves.refl
  try clear_value v2
  refine Moves.foldl ?_ (fun st4 a5 => ?_)
  · exact h3
  · refine Moves.foldl ?_ (fun st6 a7 => ?_)
    · exact Moves.refl
    · refine Moves.trans ?_ (Moves.mono (k := 0x40c00000) rfl State.umWrite_moves)
      exact Moves.refl

theorem State.ptMemError_moves {s : State} {a0 : Nat} :
    Moves 0x1000000000000000000000000000000000000000000000000000000000000000000407c00 s (State.ptMemError s a0) := by
  unfold State.ptMemError
  extract_lets -underBinder -merge -useContext v0 v1
  have h2 : Moves 0x1000000000000000000000000000000000000000000000000000000000000000000407c00 s v0 := by
    unfold v0
    refine Moves.ite ?_ ?_
    · exact Moves.refl
    · refine Moves.trans ?_ (Moves.mono (k := 0x401000) rfl State.ptSet_moves)
      exact Moves.refl
  try clear_value v0
  try clear_value v1
  refine Moves.trans ?_ (Moves.mono (k := 0x1000000000000000000000000000000000000000000000000000000000000000000006c00) rfl State.notify_moves)
  refine Moves.pd ?_ rfl
  exact h2

theorem State.readEntries_moves {s : State} {a0 : Sys2Proof.Machine.Cmd} {a1 : Nat} :
    Moves 0x10000000000000000000000000000000000000000000000000000000000000000000040400400 s (State.readEntries s a0 a1) := by
  unfold State.readEntries
  extract_lets -underBinder -merge -useContext v0 v1
  have h2 : Moves 0x10000000000000000000000000000000000000000000000000000000000000000000040400400 s v0 := by
    unfold v0
    refine Moves.trans ?_ (Moves.mono (k := 0x10000000000000000000000000000000000000000000000000000000000000000000000000400) rfl State.start_moves)
    exact Moves.refl
  try clear_value v0
  try clear_value v1
  refine Moves.foldl ?_ (fun st3 a4 => ?_)
  · refine Moves.pd ?_ rfl
    exact h2
  · refine Moves.trans ?_ (Moves.mono (k := 0x40400000) rfl State.ptRequest_moves)
    exact Moves.refl

theorem State.recordBeat_moves {s : State} {a0 : Sys2Proof.Machine.Cmd} {a1 : Option (Nat × Sys2Proof.SdBeat)} :
    Moves 0x1000000000000000000000000000000000000000000000000000000000000000020407c00 s (State.recordBeat s a0 a1) := by
  unfold State.recordBeat
  split
  · exact Moves.refl
  · refine Moves.ite ?_ ?_
    · exact Moves.refl
    · split
      · refine Moves.trans ?_ (Moves.mono (k := 0x1000000000000000000000000000000000000000000000000000000000000000000407c00) rfl State.ptMemError_moves)
        refine Moves.trans ?_ (Moves.mono (k := 0x20002000) rfl State.sdJudge_moves)
        exact Moves.refl
      · refine Moves.trans ?_ (Moves.mono (k := 0x20002000) rfl State.sdJudge_moves)
        exact Moves.refl

theorem State.resolvePoint_moves {s : State} {a0 : Nat} :
    Moves 0x10001000000000000000000000000000000000000000000000000000000020000000041c07c00 s (State.resolvePoint s a0) := by
  unfold State.resolvePoint
  extract_lets -underBinder -merge -useContext v0
  try clear_value v0
  split
  · exact Moves.refl
  · extract_lets -underBinder -merge -useContext v1
    try clear_value v1
    split
    · refine Moves.trans ?_ (Moves.mono (k := 0x10001000000000000000000000000000000000000000000000000000000020000000041c06c00) rfl State.allLose_moves)
      exact Moves.refl
    · extract_lets -underBinder -merge -useContext v2 v3 v4 v5 v6 v7 v8 v9
      try clear_value v2
      try clear_value v3
      try clear_value v4
      try clear_value v5
      try clear_value v6
      have h10 : Moves 0x10001000000000000000000000000000000000000000000000000000000020000000041c07c00 s v7 := by
        unfold v7
        split
        · refine Moves.trans ?_ (Moves.mono (k := 0x800000) rfl State.forget_moves)
          refine Moves.trans ?_ (Moves.mono (k := 0x401000) rfl State.ptSet_moves)
          exact Moves.refl
        · exact Moves.refl
      try clear_value v7
      try clear_value v8
      have h11 : Moves 0x10001000000000000000000000000000000000000000000000000000000020000000041c07c00 s v9 := by
        unfold v9
        split
        · refine Moves.trans ?_ (Moves.mono (k := 0x1000000000000000000000000000000000000000000000000000000020000000000806c00) rfl State.conflict_moves)
          exact h10
        · exact h10
      try clear_value v9
      refine Moves.ite ?_ ?_
      · refine Moves.trans ?_ (Moves.mono (k := 0x10001000000000000000000000000000000000000000000000000000000020000000041c06c00) rfl State.allLose_moves)
        exact Moves.refl
      · refine Moves.foldl ?_ (fun st12 a13 => ?_)
        · exact h11
        · refine Moves.trans ?_ (Moves.mono (k := 0x10001000000000000000000000000000000000000000000000000000000020000000041c06c00) rfl State.outcome_moves)
          exact Moves.refl

theorem State.writeEntries_moves {s : State} {a0 : Sys2Proof.Machine.Cmd} {a1 : List (Nat × Nat × Nat)} :
    Moves 0x10000000000000000000000000000000000000000000000000000000000000000000040c00400 s (State.writeEntries s a0 a1) := by
  unfold State.writeEntries
  extract_lets -underBinder -merge -useContext v0 v1 v2 v3 v4 v5
  try clear_value v0
  try clear_value v1
  try clear_value v2
  have h6 : Moves 0x10000000000000000000000000000000000000000000000000000000000000000000040c00400 s v3 := by
    unfold v3
    refine Moves.trans ?_ (Moves.mono (k := 0x10000000000000000000000000000000000000000000000000000000000000000000000000400) rfl State.start_moves)
    exact Moves.refl
  try clear_value v3
  try clear_value v4
  have h7 : Moves 0x10000000000000000000000000000000000000000000000000000000000000000000040c00400 s v5 := by
    unfold v5
    refine Moves.pd ?_ rfl
    exact h6
  try clear_value v5
  refine Moves.foldl ?_ (fun st8 a9 => ?_)
  · exact h7
  · refine Moves.ite ?_ ?_
    · refine Moves.trans ?_ (Moves.mono (k := 0x40400000) rfl State.ptRequest_moves)
      exact Moves.refl
    · refine Moves.trans ?_ (Moves.mono (k := 0x40c00000) rfl State.umWrite_moves)
      exact Moves.refl

theorem execPointRead_moves {a0 : Nat} {a1 : Nat} {a2 : Bool} {a3 : Option (Nat × Sys2Proof.SdBeat)} {s : State} :
    ResMoves 0x10001000000000000000000000000000000000000000000000000000000000000000060407c00 s (execPointRead a0 a1 a2 a3 s) := by
  unfold execPointRead
  refine ResMoves.trans ?_ (State.runCmd_moves rfl (fun st0 c1 => ?_))
  · exact Moves.refl
  · extract_lets -underBinder -merge -useContext v2 v3 v4
    have h5 : Moves 0x10001000000000000000000000000000000000000000000000000000000000000000060407c00 st0 v2 := by
      unfold v2
      refine Moves.trans ?_ (Moves.mono (k := 0x1000000000000000000000000000000000000000000000000000000000000000020407c00) rfl State.recordBeat_moves)
      exact Moves.refl
    try clear_value v2
    try clear_value v3
    try clear_value v4
    refine Moves.ite ?_ ?_
    · refine Moves.trans ?_ (Moves.mono (k := 0x10000000000000000000000000000000000000000000000000000000000000000000040400400) rfl State.readEntries_moves)
      exact Moves.refl
    · refine Moves.ite ?_ ?_
      · refine Moves.trans ?_ (Moves.mono (k := 0x40400000) rfl State.ptRequest_moves)
        refine Moves.trans ?_ (Moves.mono (k := 0x10000000000000000000000000000000000000000000000000000000000000000000000000400) rfl State.start_moves)
        exact Moves.refl
      · refine Moves.ite ?_ ?_
        · refine Moves.trans ?_ (Moves.mono (k := 0x10000000000000000000000000000000000000000000000000000000000000000000000000400) rfl State.answer_moves)
          refine Moves.trans ?_ (Moves.mono (k := 0x400) rfl State.dmaOut_moves)
          exact h5
        · refine Moves.trans ?_ (Moves.mono (k := 0x10000000000000000000000000000000000000000000000000000000000000000000000000400) rfl State.answer_moves)
          exact h5

theorem execPointWrite_moves {a0 : Nat} {a1 : Nat} {a2 : Option (List Sys2Proof.W32)} {s : State} :
    ResMoves 0x10000000000000000000000000000000000000000000000000000000000000000000040c02400 s (execPointWrite a0 a1 a2 s) := by
  unfold execPointWrite
  refine ResMoves.trans ?_ (State.runCmd_moves rfl (fun st0 c1 => ?_))
  · exact Moves.refl
  · refine Moves.trans ?_ (Moves.mono (k := 0x10000000000000000000000000000000000000000000000000000000000000000000040c00400) rfl State.writeEntries_moves)
    exact Moves.refl

theorem execRemotePointTimeout_moves {a0 : Nat} {s : State} :
    ResMoves 0x10000000000000000000000000000000000000000000000000000000000000000000000400400 s (execRemotePointTimeout a0 s) := by
  unfold execRemotePointTimeout
  split
  · refine ResMoves.ite ?_ ?_
    · refine ResMoves.next ?_
      refine Moves.trans ?_ (Moves.mono (k := 0x10000000000000000000000000000000000000000000000000000000000000000000000400400) rfl State.replied_moves)
      exact Moves.refl
    · refine ResMoves.next ?_
      exact Moves.refl
  · refine ResMoves.next ?_
    exact Moves.refl

theorem execUmpireRound_moves {s : State} :
    ResMoves 0x10001000000000000000000000000000000000000000000000000000000020000000041c07c00 s (execUmpireRound s) := by
  unfold execUmpireRound
  extract_lets -underBinder -merge -useContext v0 v1 v2 v3 v4 v5 v6
  try clear_value v0
  try clear_value v1
  have h7 : Moves 0x10001000000000000000000000000000000000000000000000000000000020000000041c07c00 s v2 := by
    unfold v2
    refine Moves.um ?_ rfl
    exact Moves.refl
  try clear_value v2
  have h8 : Moves 0x10001000000000000000000000000000000000000000000000000000000020000000041c07c00 s v3 := by
    unfold v3
    refine Moves.trans ?_ (Moves.mono (k := 0x41c00000) rfl State.laneWrites_moves)
    exact h7
  try clear_value v3
  have h9 : Moves 0x10001000000000000000000000000000000000000000000000000000000020000000041c07c00 s v4 := by
    unfold v4
    refine Moves.foldl ?_ (fun st10 a11 => ?_)
    · exact h8
    · refine Moves.trans ?_ (Moves.mono (k := 0x10001000000000000000000000000000000000000000000000000000000020000000041c07c00) rfl State.resolvePoint_moves)
      exact Moves.refl
  try clear_value v4
  try clear_value v5
  have h12 : Moves 0x10001000000000000000000000000000000000000000000000000000000020000000041c07c00 s v6 := by
    unfold v6
    refine Moves.um ?_ rfl
    exact h9
  try clear_value v6
  refine ResMoves.ite ?_ ?_
  · refine ResMoves.next ?_
    exact Moves.refl
  · refine ResMoves.ite ?_ ?_
    · refine ResMoves.next ?_
      refine Moves.trans ?_ (Moves.mono (k := 0x800000) rfl State.keepBytes_moves)
      refine Moves.trans ?_ (Moves.mono (k := 0x20000000000800000) rfl State.resolveOutputs_moves)
      exact h7
    · refine ResMoves.next ?_
      refine Moves.trans ?_ (Moves.mono (k := 0x40400000) rfl State.sendChanged_moves)
      refine Moves.trans ?_ (Moves.mono (k := 0x800000) rfl State.endOnce_moves)
      refine Moves.trans ?_ (Moves.mono (k := 0x800000) rfl State.keepBytes_moves)
      refine Moves.trans ?_ (Moves.mono (k := 0x20000000000800000) rfl State.resolveOutputs_moves)
      exact h12

end Sys2Proof.Machine
end

