-- ==== Sys2Proof/Laws/FrameLogicCpu.lean ====
section
/-! SUPPORT. What every definition of Machine/LogicCpu.lean may change (masks over `Part.bit`), one lemma each. -/

namespace Sys2Proof.Machine

open Sys2Proof

theorem State.setLgTask_moves {s : State} {a0 : Nat} {a1 : Sys2Proof.Machine.LgTask} :
    Moves 0x10000000 s (State.setLgTask s a0 a1) := by
  unfold State.setLgTask
  extract_lets -underBinder -merge -useContext v0
  try clear_value v0
  refine Moves.lg ?_ rfl
  exact Moves.refl

theorem State.setStn_moves {s : State} {a0 : Nat} {a1 : Sys2Proof.Machine.StnSt} :
    Moves 0x40000000 s (State.setStn s a0 a1) := by
  unfold State.setStn
  extract_lets -underBinder -merge -useContext v0
  try clear_value v0
  refine Moves.rb ?_ rfl
  exact Moves.refl

end Sys2Proof.Machine
end

