-- ==== Sys2Proof/Laws/FrameLogic.lean ====
section
/-! SUPPORT. What every definition of Machine/Logic.lean may change (masks over `Part.bit`), one lemma each. -/

namespace Sys2Proof.Machine

open Sys2Proof

theorem State.busyTo_moves {s : State} {a0 : Nat} :
    Moves 0x10000000 s (State.busyTo s a0) := by
  unfold State.busyTo
  extract_lets -underBinder -merge -useContext v0 v1 v2
  try clear_value v0
  try clear_value v1
  try clear_value v2
  refine Moves.lg ?_ rfl
  exact Moves.refl

theorem State.dropCycle_moves {s : State} {a0 : Nat} :
    Moves 0x10000000 s (State.dropCycle s a0) := by
  unfold State.dropCycle
  extract_lets -underBinder -merge -useContext v0
  try clear_value v0
  split
  · exact Moves.refl
  · extract_lets -underBinder -merge -useContext v1 v2
    have h3 : Moves 0x10000000 s v1 := by
      unfold v1
      refine Moves.trans ?_ (Moves.mono (k := 0x10000000) rfl State.busyTo_moves)
      exact Moves.refl
    try clear_value v1
    try clear_value v2
    refine Moves.trans ?_ (Moves.mono (k := 0x10000000) rfl State.setLgTask_moves)
    refine Moves.lg ?_ rfl
    exact h3

theorem State.lgErrShow_moves {s : State} {a0 : Sys2Proof.Machine.LgCause} :
    Moves 0x10000000000000000 s (State.lgErrShow s a0) := by
  unfold State.lgErrShow
  refine Moves.foldl ?_ (fun st0 a1 => ?_)
  · exact Moves.refl
  · refine Moves.putWord ?_ rfl
    exact Moves.refl

theorem State.waitCause_moves {s : State} {a0 : Nat} {a1 : Sys2Proof.Machine.LgCause} :
    Moves 0x10000000010000000 s (State.waitCause s a0 a1) := by
  unfold State.waitCause
  extract_lets -underBinder -merge -useContext v0 v1 v2
  try clear_value v0
  try clear_value v1
  have h3 : Moves 0x10000000010000000 s v2 := by
    unfold v2
    refine Moves.lg ?_ rfl
    exact Moves.refl
  try clear_value v2
  refine Moves.ite ?_ ?_
  · exact Moves.refl
  · refine Moves.ite ?_ ?_
    · refine Moves.lg ?_ rfl
      exact Moves.refl
    · refine Moves.trans ?_ (Moves.mono (k := 0x10000000000000000) rfl State.lgErrShow_moves)
      exact h3

theorem State.causeAt_moves {s : State} {a0 : Nat} {a1 : Nat} {a2 : Nat} {a3 : Nat} {a4 : Nat} {a5 : Nat} {a6 : Nat} :
    Moves 0x10000000010004000 s (State.causeAt s a0 a1 a2 a3 a4 a5 a6) := by
  unfold State.causeAt
  extract_lets -underBinder -merge -useContext v0
  try clear_value v0
  refine Moves.trans ?_ (Moves.mono (k := 0x10000000010000000) rfl State.waitCause_moves)
  refine Moves.trans ?_ (Moves.mono (k := 0x4000) rfl State.stateRec_moves)
  refine Moves.trans ?_ (Moves.mono (k := 0x10000000000000000) rfl State.lgErrShow_moves)
  exact Moves.refl

theorem State.causeOn_moves {s : State} {a0 : Nat} {a1 : Nat} {a2 : Nat} {a3 : Nat} {a4 : Nat} {a5 : Nat} :
    Moves 0x10000000010004000 s (State.causeOn s a0 a1 a2 a3 a4 a5) := by
  unfold State.causeOn
  refine Moves.trans ?_ (Moves.mono (k := 0x10000000010004000) rfl State.causeAt_moves)
  exact Moves.refl

theorem State.taskCause_moves {s : State} {a0 : Nat} {a1 : Nat} {a2 : Nat} {a3 : Nat} {a4 : Nat} :
    Moves 0x10000000010004000 s (State.taskCause s a0 a1 a2 a3 a4) := by
  unfold State.taskCause
  refine Moves.trans ?_ (Moves.mono (k := 0x10000000010004000) rfl State.causeOn_moves)
  exact Moves.refl

theorem State.handQ_moves {s : State} {a0 : Nat} {a1 : Nat} :
    Moves 0x800000 s (State.handQ s a0 a1) := by
  unfold State.handQ
  extract_lets -underBinder -merge -useContext v0
  try clear_value v0
  refine Moves.um ?_ rfl
  exact Moves.refl

theorem State.safeOutputs_moves {s : State} {a0 : Nat} :
    Moves 0x10800000 s (State.safeOutputs s a0) := by
  unfold State.safeOutputs
  refine Moves.foldl ?_ (fun st0 a1 => ?_)
  · exact Moves.refl
  · extract_lets -underBinder -merge -useContext v2
    try clear_value v2
    refine Moves.trans ?_ (Moves.mono (k := 0x800000) rfl State.handQ_moves)
    refine Moves.lg ?_ rfl
    exact Moves.refl

theorem State.abandon_moves {s : State} {a0 : Nat} {a1 : Nat} {a2 : Nat} {a3 : Nat} :
    Moves 0x1000000000000000000000000000000000000000000000000000000010000000010806c00 s (State.abandon s a0 a1 a2 a3) := by
  unfold State.abandon
  extract_lets -underBinder -merge -useContext v0 v1 v2 v3
  have h4 : Moves 0x1000000000000000000000000000000000000000000000000000000010000000010806c00 s v0 := by
    unfold v0
    refine Moves.bump ?_ rfl
    refine Moves.trans ?_ (Moves.mono (k := 0x10000000) rfl State.dropCycle_moves)
    exact Moves.refl
  try clear_value v0
  try clear_value v1
  have h5 : Moves 0x1000000000000000000000000000000000000000000000000000000010000000010806c00 s v2 := by
    unfold v2
    refine Moves.trans ?_ (Moves.mono (k := 0x10000000010004000) rfl State.taskCause_moves)
    refine Moves.trans ?_ (Moves.mono (k := 0x10000000) rfl State.setLgTask_moves)
    exact h4
  try clear_value v2
  have h6 : Moves 0x1000000000000000000000000000000000000000000000000000000010000000010806c00 s v3 := by
    unfold v3
    refine Moves.trans ?_ (Moves.mono (k := 0x1000000000000000000000000000000000000000000000000000000000000000000006c00) rfl State.notify_moves)
    exact h5
  try clear_value v3
  refine Moves.ite ?_ ?_
  · refine Moves.trans ?_ (Moves.mono (k := 0x1000000000000000000000000000000000000000000000000000000000000000000006c00) rfl State.notify_moves)
    exact h4
  · refine Moves.ite ?_ ?_
    · exact h6
    · refine Moves.trans ?_ (Moves.mono (k := 0x1000000000000000000000000000000000000000000000000000000000000000000006c00) rfl State.notify_moves)
      refine Moves.trans ?_ (Moves.mono (k := 0x10800000) rfl State.safeOutputs_moves)
      refine Moves.wr ?_ rfl
      exact h6

theorem State.allSafe_moves {s : State} :
    Moves 0x10800000 s (State.allSafe s) := by
  unfold State.allSafe
  refine Moves.foldl ?_ (fun st0 a1 => ?_)
  · exact Moves.refl
  · refine Moves.trans ?_ (Moves.mono (k := 0x10800000) rfl State.safeOutputs_moves)
    exact Moves.refl

theorem State.stationCause_moves {s : State} {a0 : Nat} {a1 : Nat} {a2 : Nat → Nat} :
    Moves 0x10000000010004000 s (State.stationCause s a0 a1 a2) := by
  unfold State.stationCause
  refine Moves.foldl ?_ (fun st0 a1 => ?_)
  · exact Moves.refl
  · refine Moves.trans ?_ (Moves.mono (k := 0x10000000010004000) rfl State.taskCause_moves)
    exact Moves.refl

theorem State.lostStations_moves {s : State} {a0 : List Nat} :
    Moves 0x10000000010004000 s (State.lostStations s a0) := by
  unfold State.lostStations
  split
  · exact Moves.refl
  · refine Moves.foldl ?_ (fun st0 a1 => ?_)
    · exact Moves.refl
    · refine Moves.trans ?_ (Moves.mono (k := 0x10000000010004000) rfl State.stationCause_moves)
      exact Moves.refl

theorem State.lgShow_moves {s : State} :
    Moves 0x10000000000000000 s (State.lgShow s) := by
  unfold State.lgShow
  refine Moves.foldl ?_ (fun st0 a1 => ?_)
  · exact Moves.refl
  · extract_lets -underBinder -merge -useContext v2 v3
    try clear_value v2
    have h4 : Moves 0x10000000000000000 st0 v3 := by
      unfold v3
      refine Moves.wr ?_ rfl
      exact Moves.refl
    try clear_value v3
    refine Moves.ite ?_ ?_
    · exact h4
    · refine Moves.wr ?_ rfl
      exact h4

theorem State.homeTask_moves {s : State} {a0 : Nat} :
    Moves 0x10000000000000000 s (State.homeTask s a0) := by
  unfold State.homeTask
  extract_lets -underBinder -merge -useContext v0
  try clear_value v0
  refine Moves.wr ?_ rfl
  refine Moves.wr ?_ rfl
  refine Moves.wr ?_ rfl
  exact Moves.refl

theorem State.rehome_moves {s : State} :
    Moves 0x10000000000000000 s (State.rehome s) := by
  unfold State.rehome
  split
  · refine Moves.trans ?_ (Moves.mono (k := 0x10000000000000000) rfl State.lgShow_moves)
    exact Moves.refl
  · refine Moves.trans ?_ (Moves.mono (k := 0x10000000000000000) rfl State.lgShow_moves)
    refine Moves.foldl ?_ (fun st0 a1 => ?_)
    · exact Moves.refl
    · refine Moves.trans ?_ (Moves.mono (k := 0x10000000000000000) rfl State.homeTask_moves)
      exact Moves.refl

theorem State.lgCold_moves {s : State} :
    Moves 0x10000000010804000 s (State.lgCold s) := by
  unfold State.lgCold
  extract_lets -underBinder -merge -useContext v0 v1 v2 v3 v4 v5 v6
  try clear_value v0
  try clear_value v1
  have h7 : Moves 0x10000000010804000 s v2 := by
    unfold v2
    refine Moves.lg ?_ rfl
    exact Moves.refl
  try clear_value v2
  have h8 : Moves 0x10000000010804000 s v3 := by
    unfold v3
    refine Moves.foldl ?_ (fun st9 a10 => ?_)
    · exact h7
    · refine Moves.foldl ?_ (fun st11 a12 => ?_)
      · exact Moves.refl
      · refine Moves.putWord ?_ rfl
        exact Moves.refl
  try clear_value v3
  have h13 : Moves 0x10000000010804000 s v4 := by
    unfold v4
    refine Moves.foldl ?_ (fun st14 a15 => ?_)
    · exact h8
    · refine Moves.wr ?_ rfl
      exact Moves.refl
  try clear_value v4
  have h16 : Moves 0x10000000010804000 s v5 := by
    unfold v5
    refine Moves.trans ?_ (Moves.mono (k := 0x10000000000000000) rfl State.rehome_moves)
    exact h13
  try clear_value v5
  try clear_value v6
  refine Moves.trans ?_ (Moves.mono (k := 0x10000000010004000) rfl State.lostStations_moves)
  refine Moves.trans ?_ (Moves.mono (k := 0x10800000) rfl State.allSafe_moves)
  refine Moves.um ?_ rfl
  exact h16

theorem State.lgResumed_moves {s : State} {a0 : Nat} {a1 : Nat} :
    Moves 0x10000000010004000 s (State.lgResumed s a0 a1) := by
  unfold State.lgResumed
  refine Moves.foldl ?_ (fun st0 a1 => ?_)
  · exact Moves.refl
  · refine Moves.trans ?_ (Moves.mono (k := 0x10000000010004000) rfl State.taskCause_moves)
    exact Moves.refl

theorem State.stnLost_moves {s : State} {a0 : Nat} :
    Moves 0x10000000050004000 s (State.stnLost s a0) := by
  unfold State.stnLost
  extract_lets -underBinder -merge -useContext v0
  try clear_value v0
  refine Moves.ite ?_ ?_
  · refine Moves.trans ?_ (Moves.mono (k := 0x10000000010004000) rfl State.stationCause_moves)
    refine Moves.trans ?_ (Moves.mono (k := 0x40000000) rfl State.setStn_moves)
    exact Moves.refl
  · exact Moves.refl

theorem State.stnBack_moves {s : State} {a0 : Nat} :
    Moves 0x10000000050004000 s (State.stnBack s a0) := by
  unfold State.stnBack
  extract_lets -underBinder -merge -useContext v0
  try clear_value v0
  refine Moves.ite ?_ ?_
  · exact Moves.refl
  · refine Moves.trans ?_ (Moves.mono (k := 0x10000000010004000) rfl State.stationCause_moves)
    refine Moves.trans ?_ (Moves.mono (k := 0x40000000) rfl State.setStn_moves)
    exact Moves.refl

theorem State.homeTasks_moves {s : State} :
    Moves 0x10000000000000000 s (State.homeTasks s) := by
  unfold State.homeTasks
  extract_lets -underBinder -merge -useContext v0
  have h1 : Moves 0x10000000000000000 s v0 := by
    unfold v0
    refine Moves.foldl ?_ (fun st2 a3 => ?_)
    · exact Moves.refl
    · refine Moves.foldl ?_ (fun st4 a5 => ?_)
      · exact Moves.refl
      · refine Moves.putWord ?_ rfl
        exact Moves.refl
  try clear_value v0
  split
  · refine Moves.trans ?_ (Moves.mono (k := 0x10000000000000000) rfl State.lgShow_moves)
    exact h1
  · refine Moves.trans ?_ (Moves.mono (k := 0x10000000000000000) rfl State.rehome_moves)
    refine Moves.foldl ?_ (fun st6 a7 => ?_)
    · exact h1
    · refine Moves.foldl ?_ (fun st8 a9 => ?_)
      · exact Moves.refl
      · refine Moves.ite ?_ ?_
        · refine Moves.putWord ?_ rfl
          exact Moves.refl
        · exact Moves.refl

theorem State.busyRoll_moves {s : State} :
    Moves 0x10000000010000000 s (State.busyRoll s) := by
  unfold State.busyRoll
  refine Moves.foldl ?_ (fun st0 a1 => ?_)
  · exact Moves.refl
  · extract_lets -underBinder -merge -useContext v2 v3
    have h4 : Moves 0x10000000010000000 st0 v2 := by
      unfold v2
      refine Moves.trans ?_ (Moves.mono (k := 0x10000000) rfl State.busyTo_moves)
      exact Moves.refl
    try clear_value v2
    try clear_value v3
    refine Moves.wr ?_ rfl
    refine Moves.lg ?_ rfl
    exact h4

theorem State.countCycle_moves {s : State} {a0 : Nat} :
    Moves 0x10000000000000000 s (State.countCycle s a0) := by
  unfold State.countCycle
  extract_lets -underBinder -merge -useContext v0
  try clear_value v0
  refine Moves.wrk ?_ rfl
  refine Moves.wrk ?_ rfl
  exact Moves.refl

theorem State.outputWrite_moves {s : State} {a0 : Nat} {a1 : Sys2Proof.Machine.LgOpen} :
    Moves 0x50c00000 s (State.outputWrite s a0 a1) := by
  unfold State.outputWrite
  extract_lets -underBinder -merge -useContext v0
  have h1 : Moves 0x50c00000 s v0 := by
    unfold v0
    refine Moves.foldl ?_ (fun st2 a3 => ?_)
    · exact Moves.refl
    · extract_lets -underBinder -merge -useContext v4 v5 v6
      try clear_value v4
      try clear_value v5
      have h7 : Moves 0x50c00000 st2 v6 := by
        unfold v6
        refine Moves.lg ?_ rfl
        exact Moves.refl
      try clear_value v6
      refine Moves.ite ?_ ?_
      · refine Moves.trans ?_ (Moves.mono (k := 0x800000) rfl State.handQ_moves)
        exact h7
      · exact h7
  try clear_value v0
  refine Moves.foldl ?_ (fun st8 a9 => ?_)
  · exact h1
  · split
    · refine Moves.trans ?_ (Moves.mono (k := 0x40c00000) rfl State.umWrite_moves)
      exact Moves.refl
    · exact Moves.refl

theorem State.closeCycle_moves {s : State} {a0 : Nat} {a1 : Sys2Proof.Machine.LgOpen} :
    Moves 0x10000000050c00000 s (State.closeCycle s a0 a1) := by
  unfold State.closeCycle
  extract_lets -underBinder -merge -useContext v0 v1
  have h2 : Moves 0x10000000050c00000 s v0 := by
    unfold v0
    refine Moves.trans ?_ (Moves.mono (k := 0x10000000000000000) rfl State.countCycle_moves)
    refine Moves.trans ?_ (Moves.mono (k := 0x10000000) rfl State.busyTo_moves)
    refine Moves.trans ?_ (Moves.mono (k := 0x50c00000) rfl State.outputWrite_moves)
    exact Moves.refl
  try clear_value v0
  try clear_value v1
  refine Moves.trans ?_ (Moves.mono (k := 0x10000000) rfl State.setLgTask_moves)
  exact h2

theorem State.dropCycles_moves {s : State} :
    Moves 0x10000000010000000 s (State.dropCycles s) := by
  unfold State.dropCycles
  refine Moves.foldl ?_ (fun st0 a1 => ?_)
  · exact Moves.refl
  · refine Moves.ite ?_ ?_
    · refine Moves.bump ?_ rfl
      refine Moves.trans ?_ (Moves.mono (k := 0x10000000) rfl State.dropCycle_moves)
      exact Moves.refl
    · exact Moves.refl

theorem State.cycleTime_moves {s : State} {a0 : Nat} :
    Moves 0x10000000000000000 s (State.cycleTime s a0) := by
  unfold State.cycleTime
  extract_lets -underBinder -merge -useContext v0 v1 v2 v3
  try clear_value v0
  try clear_value v1
  have h4 : Moves 0x10000000000000000 s v2 := by
    unfold v2
    refine Moves.wr ?_ rfl
    exact Moves.refl
  try clear_value v2
  have h5 : Moves 0x10000000000000000 s v3 := by
    unfold v3
    refine Moves.ite ?_ ?_
    · refine Moves.wr ?_ rfl
      exact h4
    · exact h4
  try clear_value v3
  refine Moves.ite ?_ ?_
  · exact Moves.refl
  · refine Moves.ite ?_ ?_
    · refine Moves.wr ?_ rfl
      exact h5
    · exact h5

theorem State.nextCause_moves {s t : State} {k : Nat} {c : LgCause} (h : State.nextCause s k = some (c, t)) :
    Moves 0x10000000 s t := by
  unfold State.nextCause at h
  split at h
  · cases h
    exact Moves.lg Moves.refl rfl
  · split at h
    · cases h
    · cases h
      exact Moves.lg Moves.refl rfl

theorem State.execTask_moves {s : State} {a0 : Nat} {a1 : Option Sys2Proof.Machine.LgCause} :
    Moves 0x10000020 s (State.execTask s a0 a1).1 := by
  unfold State.execTask
  extract_lets -underBinder -merge -useContext v0 v1 v2 v3 v4
  try clear_value v0
  try clear_value v1
  try clear_value v2
  try clear_value v3
  try clear_value v4
  dsimp only
  refine Moves.upd (x := s) ?_ (fun p hp => by cases p <;> first | rfl | exact ⟨rfl, rfl⟩ | exact ⟨rfl, rfl, rfl⟩ | exact ⟨rfl, rfl, rfl, rfl⟩ | exact fun _ => List.prefix_rfl | exact List.prefix_rfl | exact fun _ h _ => h | exact fun _ _ => rfl | exact absurd hp (by decide)) rfl rfl rfl rfl rfl
  exact Moves.refl

theorem State.undoMark_moves {s : State} {a0 : Nat} {a1 : Nat} :
    Moves 0x10000000000000000 s (State.undoMark s a0 a1) := by
  unfold State.undoMark
  refine Moves.ite ?_ ?_
  · refine Moves.wr ?_ rfl
    exact Moves.refl
  · exact Moves.refl

theorem State.errorTaskRun_moves {s : State} {core : Nat} {x : State × Bool} (h : State.errorTaskRun s core = some x) :
    Moves 0x1000000000000000000000000000000000000000000000000000000010000000050c06c20 s x.1 := by
  unfold State.errorTaskRun at h
  split at h
  · cases h
  next n _ =>
    split at h
    · cases h
    · split at h
      · cases h
      next c s0 hc =>
        have h0 : Moves 0x1000000000000000000000000000000000000000000000000000000010000000050c06c20 s s0 := Moves.mono rfl (State.nextCause_moves hc)
        have h1 : Moves 0x1000000000000000000000000000000000000000000000000000000010000000050c06c20 s (((s0.cycleTime n).execTask n (some c)).1) :=
          Moves.trans (h0.trans (Moves.mono rfl State.cycleTime_moves)) (Moves.mono rfl State.execTask_moves)
        generalize (s0.cycleTime n).execTask n (some c) = r at h h1
        have h2 : Moves 0x1000000000000000000000000000000000000000000000000000000010000000050c06c20 s ((r.1.setLgTask n { r.1.lgTask n with open_ := some r.2, lastSnap := s.elapsed + 1 }).undoMark core r.2.entries) :=
          Moves.trans (h1.trans (Moves.mono rfl State.setLgTask_moves)) (Moves.mono rfl State.undoMark_moves)
        dsimp only at h
        split at h
        · cases h; exact h2.trans (Moves.mono rfl State.closeCycle_moves)
        · cases h; exact h2.trans (Moves.mono rfl State.abandon_moves)
        · cases h; exact h2.trans (Moves.mono rfl State.abandon_moves)

theorem State.evtLost_moves {s : State} {a0 : Nat} {a1 : Sys2Proof.Machine.LgTask} :
    Moves 0x1000000000000000000000000000000000000000000000000000000010000000010006c00 s (State.evtLost s a0 a1) := by
  unfold State.evtLost
  extract_lets -underBinder -merge -useContext v0 v1
  try clear_value v0
  have h2 : Moves 0x1000000000000000000000000000000000000000000000000000000010000000010006c00 s v1 := by
    unfold v1
    refine Moves.bump ?_ rfl
    exact Moves.refl
  try clear_value v1
  refine Moves.ite ?_ ?_
  · refine Moves.trans ?_ (Moves.mono (k := 0x1000000000000000000000000000000000000000000000000000000000000000000006c00) rfl State.notify_moves)
    refine Moves.trans ?_ (Moves.mono (k := 0x10000000) rfl State.setLgTask_moves)
    exact h2
  · refine Moves.trans ?_ (Moves.mono (k := 0x10000000) rfl State.setLgTask_moves)
    exact h2

theorem State.freeCause_moves {s : State} {a0 : Nat} {a1 : Nat} {a2 : Nat} :
    Moves 0x10000000010004000 s (State.freeCause s a0 a1 a2) := by
  unfold State.freeCause
  refine Moves.trans ?_ (Moves.mono (k := 0x10000000010004000) rfl State.causeOn_moves)
  exact Moves.refl

theorem State.moveCauses_moves {s : State} {a0 : Nat} {a1 : Nat} :
    Moves 0x10000000010000000 s (State.moveCauses s a0 a1) := by
  unfold State.moveCauses
  extract_lets -underBinder -merge -useContext v0 v1
  try clear_value v0
  have h2 : Moves 0x10000000010000000 s v1 := by
    unfold v1
    refine Moves.lg ?_ rfl
    exact Moves.refl
  try clear_value v1
  refine Moves.foldl ?_ (fun st3 a4 => ?_)
  · exact h2
  · refine Moves.trans ?_ (Moves.mono (k := 0x10000000010000000) rfl State.waitCause_moves)
    exact Moves.refl

theorem execEventTaskTrigger_moves {a0 : Nat} {s : State} :
    ResMoves 0x1000000000000000000000000000000000000000000000000000000010000000010006c00 s (execEventTaskTrigger a0 s) := by
  unfold execEventTaskTrigger
  extract_lets -underBinder -merge -useContext v0 v1
  try clear_value v0
  try clear_value v1
  refine ResMoves.ite ?_ ?_
  · refine ResMoves.next ?_
    exact Moves.refl
  · refine ResMoves.ite ?_ ?_
    · refine ResMoves.next ?_
      refine Moves.trans ?_ (Moves.mono (k := 0x10000000) rfl State.setLgTask_moves)
      exact Moves.refl
    · refine ResMoves.ite ?_ ?_
      · refine ResMoves.next ?_
        refine Moves.trans ?_ (Moves.mono (k := 0x10000000) rfl State.setLgTask_moves)
        exact Moves.refl
      · refine ResMoves.next ?_
        refine Moves.trans ?_ (Moves.mono (k := 0x1000000000000000000000000000000000000000000000000000000010000000010006c00) rfl State.evtLost_moves)
        exact Moves.refl

theorem execLogicCoreFailure_moves {a0 : Nat} {a1 : Nat} {s : State} :
    ResMoves 0x1000000000000000000000000000000000000000000000000000000010000000010806c00 s (execLogicCoreFailure a0 a1 s) := by
  unfold execLogicCoreFailure
  extract_lets -underBinder -merge -useContext v0 v1 v2 v3 v4 v5 v6 v7 v8
  try clear_value v0
  have h9 : Moves 0x1000000000000000000000000000000000000000000000000000000010000000010806c00 s v1 := by
    unfold v1
    refine Moves.wr ?_ rfl
    refine Moves.wr ?_ rfl
    exact Moves.refl
  try clear_value v1
  have h10 : Moves 0x1000000000000000000000000000000000000000000000000000000010000000010806c00 s v2 := by
    unfold v2
    refine Moves.foldl ?_ (fun st11 a12 => ?_)
    · exact h9
    · refine Moves.ite ?_ ?_
      · refine Moves.bump ?_ rfl
        refine Moves.trans ?_ (Moves.mono (k := 0x10000000) rfl State.dropCycle_moves)
        exact Moves.refl
      · exact Moves.refl
  try clear_value v2
  try clear_value v3
  have h13 : Moves 0x1000000000000000000000000000000000000000000000000000000010000000010806c00 s v4 := by
    unfold v4
    refine Moves.trans ?_ (Moves.mono (k := 0x10800000) rfl State.allSafe_moves)
    exact h10
  try clear_value v4
  try clear_value v5
  have h14 : Moves 0x1000000000000000000000000000000000000000000000000000000010000000010806c00 s v6 := by
    unfold v6
    refine Moves.foldl ?_ (fun st15 a16 => ?_)
    · exact h10
    · refine Moves.wr ?_ rfl
      exact Moves.refl
  try clear_value v6
  have h17 : Moves 0x1000000000000000000000000000000000000000000000000000000010000000010806c00 s v7 := by
    unfold v7
    refine Moves.trans ?_ (Moves.mono (k := 0x10000000010000000) rfl State.moveCauses_moves)
    exact h14
  try clear_value v7
  have h18 : Moves 0x1000000000000000000000000000000000000000000000000000000010000000010806c00 s v8 := by
    unfold v8
    refine Moves.foldl ?_ (fun st19 a20 => ?_)
    · exact h17
    · refine Moves.trans ?_ (Moves.mono (k := 0x10000000010004000) rfl State.causeAt_moves)
      exact Moves.refl
  try clear_value v8
  refine ResMoves.ite ?_ ?_
  · refine ResMoves.next ?_
    exact Moves.refl
  · refine ResMoves.ite ?_ ?_
    · refine ResMoves.next ?_
      refine Moves.trans ?_ (Moves.mono (k := 0x1000000000000000000000000000000000000000000000000000000000000000000006c00) rfl State.notify_moves)
      refine Moves.trans ?_ (Moves.mono (k := 0x10000000000000000) rfl State.lgShow_moves)
      refine Moves.lg ?_ rfl
      exact h13
    · refine ResMoves.next ?_
      refine Moves.trans ?_ (Moves.mono (k := 0x1000000000000000000000000000000000000000000000000000000000000000000006c00) rfl State.notify_moves)
      refine Moves.trans ?_ (Moves.mono (k := 0x10000000000000000) rfl State.lgShow_moves)
      exact h18

theorem execLogicCycleSnapshot_moves {a0 : Nat} {s : State} :
    ResMoves 0x1000000000000000000000000000000000000000000000000000000010000000010806c20 s (execLogicCycleSnapshot a0 s) := by
  unfold execLogicCycleSnapshot
  extract_lets -underBinder -merge -useContext v0 v1 v2 v3
  have h4 : Moves 0x1000000000000000000000000000000000000000000000000000000010000000010806c20 s v0 := by
    unfold v0
    refine Moves.trans ?_ (Moves.mono (k := 0x10000000) rfl State.busyTo_moves)
    refine Moves.trans ?_ (Moves.mono (k := 0x10000000000000000) rfl State.cycleTime_moves)
    exact Moves.refl
  try clear_value v0
  have h5 : Moves 0x1000000000000000000000000000000000000000000000000000000010000000010806c20 s v1.1 := by
    unfold v1
    refine Moves.trans ?_ (Moves.mono (k := 0x10000020) rfl State.execTask_moves)
    exact h4
  try clear_value v1
  try clear_value v2
  have h6 : Moves 0x1000000000000000000000000000000000000000000000000000000010000000010806c20 s v3 := by
    unfold v3
    refine Moves.trans ?_ (Moves.mono (k := 0x10000000000000000) rfl State.undoMark_moves)
    refine Moves.trans ?_ (Moves.mono (k := 0x10000000) rfl State.setLgTask_moves)
    exact h5
  try clear_value v3
  refine ResMoves.ite ?_ ?_
  · refine ResMoves.next ?_
    exact Moves.refl
  · split
    · refine ResMoves.next ?_
      refine Moves.trans ?_ (Moves.mono (k := 0x1000000000000000000000000000000000000000000000000000000010000000010806c00) rfl State.abandon_moves)
      exact h6
    · refine ResMoves.next ?_
      exact h6

end Sys2Proof.Machine
end

