-- ==== Sys2Proof/Laws/FrameBullpen.lean ====
section
/-! SUPPORT. What every definition of Machine/Bullpen.lean may change (masks over `Part.bit`), one lemma each. -/

namespace Sys2Proof.Machine

open Sys2Proof

theorem State.bankShow_moves {s : State} {a0 : Nat} :
    Moves 0x10000000000000000 s (State.bankShow s a0) := by
  unfold State.bankShow
  refine Moves.wr ?_ rfl
  refine Moves.wr ?_ rfl
  refine Moves.setFlag ?_ rfl
  refine Moves.wr ?_ rfl
  exact Moves.refl

theorem State.carryQ_moves {s : State} {a0 : Sys2Proof.LogicImage} {a1 : Sys2Proof.LogicImage} :
    Moves 0x10800000 s (State.carryQ s a0 a1) := by
  unfold State.carryQ
  extract_lets -underBinder -merge -useContext v0 v1 v2 v3 v4
  try clear_value v0
  try clear_value v1
  have h5 : Moves 0x10800000 s v2 := by
    unfold v2
    refine Moves.foldl ?_ (fun st6 a7 => ?_)
    · exact Moves.refl
    · refine Moves.trans ?_ (Moves.mono (k := 0x800000) rfl State.handQ_moves)
      exact Moves.refl
  try clear_value v2
  have h8 : Moves 0x10800000 s v3 := by
    unfold v3
    refine Moves.foldl ?_ (fun st9 a10 => ?_)
    · exact h5
    · extract_lets -underBinder -merge -useContext v11
      try clear_value v11
      refine Moves.trans ?_ (Moves.mono (k := 0x800000) rfl State.handQ_moves)
      refine Moves.lg ?_ rfl
      exact Moves.refl
  try clear_value v3
  try clear_value v4
  refine Moves.um ?_ rfl
  exact h8

theorem State.carryTasks_moves {s : State} {a0 : State} {a1 : Sys2Proof.LogicImage} {a2 : Sys2Proof.LogicImage} :
    Moves 0x10000000010000000 s (State.carryTasks s a0 a1 a2) := by
  unfold State.carryTasks
  extract_lets -underBinder -merge -useContext v0 v1
  try clear_value v0
  have h2 : Moves 0x10000000010000000 s v1 := by
    unfold v1
    refine Moves.foldl ?_ (fun st3 a4 => ?_)
    · refine Moves.lg ?_ rfl
      exact Moves.refl
    · refine Moves.foldl ?_ (fun st5 a6 => ?_)
      · exact Moves.refl
      · refine Moves.putWord ?_ rfl
        exact Moves.refl
  try clear_value v1
  refine Moves.foldl ?_ (fun st7 a8 => ?_)
  · exact h2
  · split
    · exact Moves.refl
    · extract_lets -underBinder -merge -useContext v9 v10 v11
      have h12 : Moves 0x10000000010000000 st7 v9 := by
        unfold v9
        refine Moves.foldl ?_ (fun st13 a14 => ?_)
        · exact Moves.refl
        · refine Moves.putWord ?_ rfl
          exact Moves.refl
      try clear_value v9
      try clear_value v10
      try clear_value v11
      refine Moves.trans ?_ (Moves.mono (k := 0x10000000) rfl State.setLgTask_moves)
      exact h12

theorem State.carryOver_moves {s : State} {a0 : Sys2Proof.LogicImage} {a1 : Sys2Proof.LogicImage} :
    Moves 0x10000000010804000 s (State.carryOver s a0 a1).1 := by
  unfold State.carryOver
  extract_lets -underBinder -merge -useContext v0 v1 v2 v3
  try clear_value v0
  try clear_value v1
  have h4 : Moves 0x10000000010804000 s v2 := by
    unfold v2
    refine Moves.lg ?_ rfl
    exact Moves.refl
  try clear_value v2
  have h5 : Moves 0x10000000010804000 s v3 := by
    unfold v3
    refine Moves.trans ?_ (Moves.mono (k := 0x10800000) rfl State.carryQ_moves)
    refine Moves.trans ?_ (Moves.mono (k := 0x10000000010000000) rfl State.carryTasks_moves)
    refine Moves.trans ?_ (Moves.mono (k := 0x10000000000000000) rfl State.homeTasks_moves)
    exact h4
  try clear_value v3
  dsimp only
  refine Moves.trans ?_ (Moves.mono (k := 0x10000000010004000) rfl State.lostStations_moves)
  exact h5

theorem State.lgCancel_moves {s : State} {a0 : Nat} :
    Moves 0x10001000000000000000000000000000000000000000000000000000000010000000010006c00 s (State.lgCancel s a0) := by
  unfold State.lgCancel
  split
  · exact Moves.refl
  · extract_lets -underBinder -merge -useContext v0 v1
    try clear_value v0
    have h2 : Moves 0x10001000000000000000000000000000000000000000000000000000000010000000010006c00 s v1 := by
      unfold v1
      refine Moves.wr ?_ rfl
      refine Moves.lg ?_ rfl
      exact Moves.refl
    try clear_value v1
    refine Moves.trans ?_ (Moves.mono (k := 0x10000000000000000000000000000000000000000000000000000000000000000000000000400) rfl State.settle_moves)
    refine Moves.trans ?_ (Moves.mono (k := 0x1000000000000000000000000000000000000000000000000000000000000000000006c00) rfl State.notify_moves)
    exact h2

theorem State.plan_moves {s : State} {a0 : Sys2Proof.LogicImage} :
    Moves 0x10000000000000000 s (State.plan s a0) := by
  unfold State.plan
  split
  · refine Moves.wr ?_ rfl
    refine Moves.wr ?_ rfl
    refine Moves.wr ?_ rfl
    refine Moves.wr ?_ rfl
    exact Moves.refl
  · extract_lets -underBinder -merge -useContext v0 v1
    try clear_value v0
    try clear_value v1
    refine Moves.wr ?_ rfl
    refine Moves.wr ?_ rfl
    refine Moves.wr ?_ rfl
    refine Moves.wr ?_ rfl
    exact Moves.refl

theorem State.switchStart_moves {s : State} {a0 : Sys2Proof.Machine.Cmd} {a1 : Bool} :
    Moves 0x10000000000000000000000000000000000000000000000000000000000010000000010000400 s (State.switchStart s a0 a1) := by
  unfold State.switchStart
  extract_lets -underBinder -merge -useContext v0
  try clear_value v0
  refine Moves.trans ?_ (Moves.mono (k := 0x10000000000000000000000000000000000000000000000000000000000000000000000000400) rfl State.start_moves)
  refine Moves.wr ?_ rfl
  refine Moves.lg ?_ rfl
  exact Moves.refl

theorem execBullpenLoad_moves {a0 : Nat} {a1 : Nat} {a2 : Option Sys2Proof.LogicImage} {a3 : Bool} {s : State} :
    ResMoves 0x10000000000000000000000000000000000000000000000000000000000010000000010002420 s (execBullpenLoad a0 a1 a2 a3 s) := by
  unfold execBullpenLoad
  refine ResMoves.trans ?_ (State.runCmd_moves rfl (fun st0 c1 => ?_))
  · exact Moves.refl
  · split
    · exact Moves.refl
    · split
      · extract_lets -underBinder -merge -useContext v2 v3 v4
        try clear_value v2
        have h5 : Moves 0x10000000000000000000000000000000000000000000000000000000000010000000010002420 st0 v3 := by
          unfold v3
          refine Moves.trans ?_ (Moves.mono (k := 0x10000000000000000) rfl State.bankShow_moves)
          refine Moves.lg ?_ rfl
          exact Moves.refl
        try clear_value v3
        have h6 : Moves 0x10000000000000000000000000000000000000000000000000000000000010000000010002420 st0 v4 := by
          unfold v4
          refine Moves.trans ?_ (Moves.mono (k := 0x10000000000000000000000000000000000000000000000000000000000000000000000000400) rfl State.fail_moves)
          exact h5
        try clear_value v4
        refine Moves.ite ?_ ?_
        · refine Moves.trans ?_ (Moves.mono (k := 0x20) rfl State.drawn_moves)
          exact h6
        · exact h6
      · extract_lets -underBinder -merge -useContext v7 v8
        try clear_value v7
        have h9 : Moves 0x10000000000000000000000000000000000000000000000000000000000010000000010002420 st0 v8 := by
          unfold v8
          refine Moves.trans ?_ (Moves.mono (k := 0x10000000000000000) rfl State.bankShow_moves)
          refine Moves.lg ?_ rfl
          exact Moves.refl
        try clear_value v8
        refine Moves.trans ?_ (Moves.mono (k := 0x10000000000000000000000000000000000000000000000000000000000000000000000000400) rfl State.done_moves)
        refine Moves.trans ?_ (Moves.mono (k := 0x10000000000000000) rfl State.plan_moves)
        exact h9

theorem execBullpenRollback_moves {a0 : Nat} {a1 : Nat} {s : State} :
    ResMoves 0x10000000000000000000000000000000000000000000000000000000000010000000010002400 s (execBullpenRollback a0 a1 s) := by
  unfold execBullpenRollback
  refine ResMoves.trans ?_ (State.runCmd_moves rfl (fun st0 c1 => ?_))
  · exact Moves.refl
  · split
    · refine Moves.trans ?_ (Moves.mono (k := 0x10000000000000000000000000000000000000000000000000000000000010000000010000400) rfl State.switchStart_moves)
      refine Moves.trans ?_ (Moves.mono (k := 0x10000000000000000) rfl State.plan_moves)
      exact Moves.refl
    · refine Moves.trans ?_ (Moves.mono (k := 0x10000000000000000000000000000000000000000000000000000000000010000000010000400) rfl State.switchStart_moves)
      exact Moves.refl

theorem execBullpenSwWaitExpiry_moves {s : State} :
    ResMoves 0x10001000000000000000000000000000000000000000000000000000000010000000010006c00 s (execBullpenSwWaitExpiry s) := by
  unfold execBullpenSwWaitExpiry
  split
  · refine ResMoves.ite ?_ ?_
    · refine ResMoves.next ?_
      refine Moves.trans ?_ (Moves.mono (k := 0x10001000000000000000000000000000000000000000000000000000000010000000010006c00) rfl State.lgCancel_moves)
      exact Moves.refl
    · refine ResMoves.next ?_
      exact Moves.refl
  · refine ResMoves.next ?_
    exact Moves.refl

theorem execBullpenSwap_moves {s : State} :
    ResMoves 0x10001000000000000000000000000000000000000000000000000000000010000000010806c04 s (execBullpenSwap s) := by
  unfold execBullpenSwap
  split
  · extract_lets -underBinder -merge -useContext v0 v1 v2 v3 v4 v5 v6 v7 v8 v9 v10 v11
    try clear_value v0
    try clear_value v1
    have h12 : Moves 0x10001000000000000000000000000000000000000000000000000000000010000000010806c04 s v2 := by
      unfold v2
      refine Moves.lg ?_ rfl
      exact Moves.refl
    try clear_value v2
    have h13 : Moves 0x10001000000000000000000000000000000000000000000000000000000010000000010806c04 s v4 := by
      unfold v4
      refine Moves.sc ?_ rfl rfl rfl rfl
      exact h12
    try clear_value v4
    have h14 : Moves 0x10001000000000000000000000000000000000000000000000000000000010000000010806c04 s v5.1 := by
      unfold v5
      split
      · refine Moves.trans ?_ (Moves.mono (k := 0x10000000010804000) rfl State.carryOver_moves)
        exact h13
      · dsimp only
        refine Moves.trans ?_ (Moves.mono (k := 0x10000000010804000) rfl State.lgCold_moves)
        exact h13
    try clear_value v5
    have h15 : Moves 0x10001000000000000000000000000000000000000000000000000000000010000000010806c04 s v6 := by
      unfold v6
      exact h14
    try clear_value v6
    try clear_value v7
    have h16 : Moves 0x10001000000000000000000000000000000000000000000000000000000010000000010806c04 s v8 := by
      unfold v8
      refine Moves.lg ?_ rfl
      exact h15
    try clear_value v8
    have h17 : Moves 0x10001000000000000000000000000000000000000000000000000000000010000000010806c04 s v9 := by
      unfold v9
      refine Moves.trans ?_ (Moves.mono (k := 0x10000000000000000) rfl State.bankShow_moves)
      exact h16
    try clear_value v9
    try clear_value v10
    have h18 : Moves 0x10001000000000000000000000000000000000000000000000000000000010000000010806c04 s v11 := by
      unfold v11
      refine Moves.wr ?_ rfl
      refine Moves.wr ?_ rfl
      refine Moves.wr ?_ rfl
      exact h17
    try clear_value v11
    refine ResMoves.ite ?_ ?_
    · refine ResMoves.next ?_
      exact Moves.refl
    · refine ResMoves.next ?_
      refine Moves.trans ?_ (Moves.mono (k := 0x10000000000000000000000000000000000000000000000000000000000000000000000000400) rfl State.settle_moves)
      refine Moves.trans ?_ (Moves.mono (k := 0x1000000000000000000000000000000000000000000000000000000000000000000006c00) rfl State.notify_moves)
      exact h18
  · refine ResMoves.next ?_
    exact Moves.refl

theorem execBullpenSwitch_moves {a0 : Nat} {a1 : Nat} {s : State} :
    ResMoves 0x10000000000000000000000000000000000000000000000000000000000010000000010002400 s (execBullpenSwitch a0 a1 s) := by
  unfold execBullpenSwitch
  refine ResMoves.trans ?_ (State.runCmd_moves rfl (fun st0 c1 => ?_))
  · exact Moves.refl
  · refine Moves.trans ?_ (Moves.mono (k := 0x10000000000000000000000000000000000000000000000000000000000010000000010000400) rfl State.switchStart_moves)
    exact Moves.refl

end Sys2Proof.Machine
end

