-- ==== Sys2Proof/Laws/FrameLoops.lean ====
section
/-! SUPPORT. What every definition of Machine/Loops.lean may change (masks over `Part.bit`), one lemma each. -/

namespace Sys2Proof.Machine

open Sys2Proof

theorem State.setLoop_moves {s : State} {a0 : Nat} {a1 : Sys2Proof.Machine.LoopSt} :
    Moves 0x2000000 s (State.setLoop s a0 a1) := by
  unfold State.setLoop
  extract_lets -underBinder -merge -useContext v0
  try clear_value v0
  refine Moves.le ?_ rfl
  exact Moves.refl

theorem State.tuneAbort_moves {s : State} {a0 : Nat} {a1 : Nat} :
    Moves 0x1000000000000000000000000000000000000000000000000000000000100000002006c00 s (State.tuneAbort s a0 a1) := by
  unfold State.tuneAbort
  extract_lets -underBinder -merge -useContext v0
  try clear_value v0
  split
  · exact Moves.refl
  · extract_lets -underBinder -merge -useContext v1
    have h2 : Moves 0x1000000000000000000000000000000000000000000000000000000000100000002006c00 s v1 := by
      unfold v1
      refine Moves.trans ?_ (Moves.mono (k := 0x2000000) rfl State.setLoop_moves)
      exact Moves.refl
    try clear_value v1
    refine Moves.trans ?_ (Moves.mono (k := 0x1000000000000000000000000000000000000000000000000000000000000000000006c00) rfl State.notify_moves)
    refine Moves.wr ?_ rfl
    refine Moves.wr ?_ rfl
    refine Moves.wr ?_ rfl
    exact h2

theorem State.tuneModeEnd_moves {s : State} :
    Moves 0x1000000000000000000000000000000000000000000000000000000000100000002006c00 s (State.tuneModeEnd s) := by
  unfold State.tuneModeEnd
  refine Moves.foldl ?_ (fun st0 a1 => ?_)
  · exact Moves.refl
  · refine Moves.ite ?_ ?_
    · refine Moves.trans ?_ (Moves.mono (k := 0x1000000000000000000000000000000000000000000000000000000000100000002006c00) rfl State.tuneAbort_moves)
      exact Moves.refl
    · exact Moves.refl

theorem State.showLanes_moves {s : State} :
    Moves 0x100000000000000 s (State.showLanes s) := by
  unfold State.showLanes
  refine Moves.foldl ?_ (fun st0 a1 => ?_)
  · exact Moves.refl
  · split
    · refine Moves.wr ?_ rfl
      exact Moves.refl
    · exact Moves.refl

theorem State.writeDst_moves {s : State} {a0 : Nat} {a1 : Nat} {a2 : Nat} {a3 : Nat} :
    Moves 0x2401000 s (State.writeDst s a0 a1 a2 a3) := by
  unfold State.writeDst
  extract_lets -underBinder -merge -useContext v0
  try clear_value v0
  split
  · extract_lets -underBinder -merge -useContext v1
    try clear_value v1
    refine Moves.ite ?_ ?_
    · refine Moves.trans ?_ (Moves.mono (k := 0x401000) rfl State.ptSet_moves)
      exact Moves.refl
    · exact Moves.refl
  · extract_lets -underBinder -merge -useContext v2
    try clear_value v2
    refine Moves.le ?_ rfl
    exact Moves.refl
  · extract_lets -underBinder -merge -useContext v3
    try clear_value v3
    refine Moves.le ?_ rfl
    exact Moves.refl
  · exact Moves.refl

theorem State.setEnc_moves {s : State} {a0 : Nat} {a1 : Sys2Proof.Machine.EncSt} :
    Moves 0x2000000 s (State.setEnc s a0 a1) := by
  unfold State.setEnc
  extract_lets -underBinder -merge -useContext v0
  try clear_value v0
  refine Moves.le ?_ rfl
  exact Moves.refl

theorem State.drawnFor_moves {s : State} {a0 : List Nat} :
    Moves 0x20 s (State.drawnFor s a0) := by
  unfold State.drawnFor
  refine Moves.ite ?_ ?_
  · refine Moves.free ?_ rfl
    exact Moves.refl
  · exact Moves.refl

theorem State.loopEnter_moves {s : State} {a0 : Nat} {a1 : Nat} :
    Moves 0x100000002000000 s (State.loopEnter s a0 a1) := by
  unfold State.loopEnter
  extract_lets -underBinder -merge -useContext v0 v1 v2
  try clear_value v0
  have h3 : Moves 0x100000002000000 s v1 := by
    unfold v1
    refine Moves.wr ?_ rfl
    exact Moves.refl
  try clear_value v1
  try clear_value v2
  refine Moves.ite ?_ ?_
  · refine Moves.trans ?_ (Moves.mono (k := 0x2000000) rfl State.setLoop_moves)
    refine Moves.wr ?_ rfl
    exact h3
  · refine Moves.ite ?_ ?_
    · refine Moves.trans ?_ (Moves.mono (k := 0x2000000) rfl State.setLoop_moves)
      exact h3
    · refine Moves.trans ?_ (Moves.mono (k := 0x2000000) rfl State.setLoop_moves)
      exact h3

theorem State.loopStart_moves {s : State} {a0 : Nat} :
    Moves 0x100000002000000 s (State.loopStart s a0) := by
  unfold State.loopStart
  extract_lets -underBinder -merge -useContext v0 v1 v2 v3 v4
  try clear_value v0
  try clear_value v1
  try clear_value v2
  try clear_value v3
  have h5 : Moves 0x100000002000000 s v4 := by
    unfold v4
    refine Moves.trans ?_ (Moves.mono (k := 0x2000000) rfl State.setLoop_moves)
    exact Moves.refl
  try clear_value v4
  refine Moves.trans ?_ (Moves.mono (k := 0x100000002000000) rfl State.loopEnter_moves)
  exact h5

theorem State.leCold_moves {s : State} :
    Moves 0x100000002000000 s (State.leCold s) := by
  unfold State.leCold
  refine Moves.foldl ?_ (fun st0 a1 => ?_)
  · exact Moves.refl
  · refine Moves.trans ?_ (Moves.mono (k := 0x100000002000000) rfl State.loopStart_moves)
    exact Moves.refl

theorem State.leStationLost_moves {s : State} {a0 : Nat} :
    Moves 0x1000000000000000000000000000000000000000000000000000000000100000002006c00 s (State.leStationLost s a0) := by
  unfold State.leStationLost
  refine Moves.foldl ?_ (fun st0 a1 => ?_)
  · exact Moves.refl
  · extract_lets -underBinder -merge -useContext v2
    try clear_value v2
    refine Moves.ite ?_ ?_
    · refine Moves.wr ?_ rfl
      refine Moves.trans ?_ (Moves.mono (k := 0x100000002000000) rfl State.loopEnter_moves)
      refine Moves.ite ?_ ?_
      · refine Moves.trans ?_ (Moves.mono (k := 0x1000000000000000000000000000000000000000000000000000000000100000002006c00) rfl State.tuneAbort_moves)
        exact Moves.refl
      · exact Moves.refl
    · exact Moves.refl

theorem State.derive_moves {s : State} {a0 : Nat} {a1 : Nat} :
    Moves 0x100000000000000 s (State.derive s a0 a1) := by
  unfold State.derive
  extract_lets -underBinder -merge -useContext v0 v1 v2
  try clear_value v0
  try clear_value v1
  try clear_value v2
  refine Moves.foldl ?_ (fun st3 a4 => ?_)
  · exact Moves.refl
  · refine Moves.putWord ?_ rfl
    exact Moves.refl

theorem State.loopSafeOut_moves {s : State} {a0 : Nat} :
    Moves 0x2401000 s (State.loopSafeOut s a0) := by
  unfold State.loopSafeOut
  refine Moves.trans ?_ (Moves.mono (k := 0x2401000) rfl State.writeDst_moves)
  exact Moves.refl

theorem State.leCommit_moves {s : State} {a0 : Nat} {a1 : Nat} :
    Moves 0x100000002401000 s (State.leCommit s a0 a1) := by
  unfold State.leCommit
  extract_lets -underBinder -merge -useContext v0
  have h1 : Moves 0x100000002401000 s v0 := by
    unfold v0
    refine Moves.ite ?_ ?_
    · refine Moves.trans ?_ (Moves.mono (k := 0x100000000000000) rfl State.derive_moves)
      refine Moves.trans ?_ (Moves.mono (k := 0x100000000000000) rfl State.derive_moves)
      exact Moves.refl
    · refine Moves.ite ?_ ?_
      · refine Moves.trans ?_ (Moves.mono (k := 0x100000000000000) rfl State.derive_moves)
        exact Moves.refl
      · exact Moves.refl
  try clear_value v0
  refine Moves.ite ?_ ?_
  · refine Moves.trans ?_ (Moves.mono (k := 0x100000000000000) rfl State.showLanes_moves)
    refine Moves.ite ?_ ?_
    · refine Moves.trans ?_ (Moves.mono (k := 0x2401000) rfl State.loopSafeOut_moves)
      exact h1
    · exact h1
  · exact h1

theorem State.leSwapOff_moves {s : State} {a0 : Nat} :
    Moves 0x100000002000000 s (State.leSwapOff s a0) := by
  unfold State.leSwapOff
  split
  · exact Moves.refl
  · extract_lets -underBinder -merge -useContext v0 v1
    try clear_value v0
    have h2 : Moves 0x100000002000000 s v1 := by
      unfold v1
      refine Moves.setFlag ?_ rfl
      refine Moves.trans ?_ (Moves.mono (k := 0x2000000) rfl State.setLoop_moves)
      exact Moves.refl
    try clear_value v1
    refine Moves.ite ?_ ?_
    · exact h2
    · refine Moves.wr ?_ rfl
      refine Moves.setFlag ?_ rfl
      exact h2

theorem State.leSwapDrop_moves {s : State} {a0 : Nat × Nat} :
    Moves 0x100000002000000 s (State.leSwapDrop s a0) := by
  unfold State.leSwapDrop
  refine Moves.foldl ?_ (fun st0 a1 => ?_)
  · exact Moves.refl
  · refine Moves.ite ?_ ?_
    · refine Moves.trans ?_ (Moves.mono (k := 0x100000002000000) rfl State.leSwapOff_moves)
      exact Moves.refl
    · exact Moves.refl

theorem State.leSafe_moves {s : State} :
    Moves 0x1000000000000000000000000000000000000000000000000000000000100000002407c00 s (State.leSafe s) := by
  unfold State.leSafe
  extract_lets -underBinder -merge -useContext v0
  have h1 : Moves 0x1000000000000000000000000000000000000000000000000000000000100000002407c00 s v0 := by
    unfold v0
    refine Moves.foldl ?_ (fun st2 a3 => ?_)
    · exact Moves.refl
    · refine Moves.trans ?_ (Moves.mono (k := 0x1000000000000000000000000000000000000000000000000000000000100000002006c00) rfl State.tuneAbort_moves)
      exact Moves.refl
  try clear_value v0
  refine Moves.foldl ?_ (fun st4 a5 => ?_)
  · exact h1
  · extract_lets -underBinder -merge -useContext v6 v7 v8
    have h9 : Moves 0x1000000000000000000000000000000000000000000000000000000000100000002407c00 st4 v6 := by
      unfold v6
      refine Moves.trans ?_ (Moves.mono (k := 0x100000002000000) rfl State.loopEnter_moves)
      exact Moves.refl
    try clear_value v6
    try clear_value v7
    try clear_value v8
    refine Moves.trans ?_ (Moves.mono (k := 0x2401000) rfl State.writeDst_moves)
    refine Moves.trans ?_ (Moves.mono (k := 0x2000000) rfl State.setLoop_moves)
    exact h9

theorem State.loopTrack_moves {s : State} {a0 : Nat} {a1 : Sys2Proof.Machine.LoopIn} :
    Moves 0x2000000 s (State.loopTrack s a0 a1) := by
  unfold State.loopTrack
  extract_lets -underBinder -merge -useContext v0 v1 v2
  try clear_value v0
  try clear_value v1
  try clear_value v2
  refine Moves.ite ?_ ?_
  · exact Moves.refl
  · refine Moves.trans ?_ (Moves.mono (k := 0x2000000) rfl State.setLoop_moves)
    exact Moves.refl

theorem State.loopMove_moves {s : State} {a0 : Nat} :
    Moves 0x2000000 s (State.loopMove s a0) := by
  unfold State.loopMove
  extract_lets -underBinder -merge -useContext v0
  try clear_value v0
  split
  · exact Moves.refl
  · extract_lets -underBinder -merge -useContext v1 v2 v3
    try clear_value v1
    try clear_value v2
    try clear_value v3
    refine Moves.trans ?_ (Moves.mono (k := 0x2000000) rfl State.setLoop_moves)
    exact Moves.refl

theorem State.loopSafeSlow_moves {s : State} {a0 : Nat} {a1 : Nat} :
    Moves 0x100000002000000 s (State.loopSafeSlow s a0 a1) := by
  unfold State.loopSafeSlow
  extract_lets -underBinder -merge -useContext v0
  try clear_value v0
  refine Moves.trans ?_ (Moves.mono (k := 0x2000000) rfl State.setLoop_moves)
  refine Moves.wr ?_ rfl
  refine Moves.wr ?_ rfl
  exact Moves.refl

theorem State.feFault_moves {s : State} {a0 : Nat} {a1 : Nat} {a2 : Sys2Proof.Machine.LoopIn} :
    Moves 0x1000000000000000000000000000000000000000000000000000000000100000002006c00 s (State.feFault s a0 a1 a2) := by
  unfold State.feFault
  extract_lets -underBinder -merge -useContext v0
  have h1 : Moves 0x1000000000000000000000000000000000000000000000000000000000100000002006c00 s v0 := by
    unfold v0
    refine Moves.trans ?_ (Moves.mono (k := 0x1000000000000000000000000000000000000000000000000000000000000000000006c00) rfl State.notify_moves)
    refine Moves.wr ?_ rfl
    exact Moves.refl
  try clear_value v0
  split
  · refine Moves.trans ?_ (Moves.mono (k := 0x100000002000000) rfl State.loopEnter_moves)
    exact h1
  · refine Moves.trans ?_ (Moves.mono (k := 0x2000000) rfl State.loopTrack_moves)
    refine Moves.trans ?_ (Moves.mono (k := 0x100000002000000) rfl State.loopEnter_moves)
    exact h1
  · refine Moves.trans ?_ (Moves.mono (k := 0x2000000) rfl State.loopMove_moves)
    refine Moves.trans ?_ (Moves.mono (k := 0x100000002000000) rfl State.loopSafeSlow_moves)
    exact h1

theorem State.loopApply_moves {s : State} {a0 : Nat} {a1 : Nat} :
    Moves 0x100000002401000 s (State.loopApply s a0 a1) := by
  unfold State.loopApply
  extract_lets -underBinder -merge -useContext v0 v1
  try clear_value v0
  have h2 : Moves 0x100000002401000 s v1 := by
    unfold v1
    refine Moves.setFlag ?_ rfl
    refine Moves.trans ?_ (Moves.mono (k := 0x2401000) rfl State.writeDst_moves)
    exact Moves.refl
  try clear_value v1
  refine Moves.ite ?_ ?_
  · exact Moves.refl
  · refine Moves.trans ?_ (Moves.mono (k := 0x2000000) rfl State.setLoop_moves)
    exact h2

theorem State.leBankSwap_moves {s : State} {a0 : Sys2Proof.Machine.Cmd} :
    Moves 0x10000000000000000000000000000000000000000000000000000000000000100000002000400 s (State.leBankSwap s a0) := by
  unfold State.leBankSwap
  extract_lets -underBinder -merge -useContext v0 v1 v2 v3 v4
  try clear_value v0
  try clear_value v1
  try clear_value v2
  try clear_value v3
  try clear_value v4
  refine Moves.ite ?_ ?_
  · refine Moves.trans ?_ (Moves.mono (k := 0x10000000000000000000000000000000000000000000000000000000000000000000000000400) rfl State.fail_moves)
    exact Moves.refl
  · split
    · refine Moves.trans ?_ (Moves.mono (k := 0x10000000000000000000000000000000000000000000000000000000000000000000000000400) rfl State.fail_moves)
      exact Moves.refl
    · extract_lets -underBinder -merge -useContext v5 v6 v7
      try clear_value v5
      have h8 : Moves 0x10000000000000000000000000000000000000000000000000000000000000100000002000400 s v6 := by
        unfold v6
        refine Moves.trans ?_ (Moves.mono (k := 0x10000000000000000000000000000000000000000000000000000000000000000000000000400) rfl State.start_moves)
        exact Moves.refl
      try clear_value v6
      have h9 : Moves 0x10000000000000000000000000000000000000000000000000000000000000100000002000400 s v7 := by
        unfold v7
        refine Moves.ite ?_ ?_
        · refine Moves.wr ?_ rfl
          refine Moves.wr ?_ rfl
          refine Moves.setFlag ?_ rfl
          exact h8
        · exact h8
      try clear_value v7
      refine Moves.ite ?_ ?_
      · refine Moves.trans ?_ (Moves.mono (k := 0x10000000000000000000000000000000000000000000000000000000000000000000000000400) rfl State.answer_moves)
        exact Moves.refl
      · refine Moves.trans ?_ (State.each_moves (fun st10 a11 => ?_))
        · exact h9
        · extract_lets -underBinder -merge -useContext v12
          try clear_value v12
          refine Moves.setFlag ?_ rfl
          refine Moves.trans ?_ (Moves.mono (k := 0x2000000) rfl State.setLoop_moves)
          exact Moves.refl

theorem State.loopBad_moves {s : State} {a0 : Nat} :
    Moves 0x1000000000000000000000000000000000000000000000000000000000100000002006c00 s (State.loopBad s a0) := by
  unfold State.loopBad
  extract_lets -underBinder -merge -useContext v0 v1 v2
  try clear_value v0
  try clear_value v1
  have h3 : Moves 0x1000000000000000000000000000000000000000000000000000000000100000002006c00 s v2 := by
    unfold v2
    refine Moves.ite ?_ ?_
    · exact Moves.refl
    · refine Moves.trans ?_ (Moves.mono (k := 0x1000000000000000000000000000000000000000000000000000000000000000000006c00) rfl State.notify_moves)
      exact Moves.refl
  try clear_value v2
  split
  · refine Moves.trans ?_ (Moves.mono (k := 0x2000000) rfl State.setLoop_moves)
    exact h3
  · refine Moves.trans ?_ (Moves.mono (k := 0x2000000) rfl State.loopMove_moves)
    refine Moves.trans ?_ (Moves.mono (k := 0x100000002000000) rfl State.loopSafeSlow_moves)
    exact h3
  · refine Moves.wr ?_ rfl
    refine Moves.trans ?_ (Moves.mono (k := 0x100000002000000) rfl State.loopEnter_moves)
    exact h3

theorem State.loopLaw_moves {s : State} {a0 : Nat} {a1 : Sys2Proof.Machine.LoopIn} :
    Moves 0x1000000000000000000000000000000000000000000000000000000000100000002006c00 s (State.loopLaw s a0 a1) := by
  unfold State.loopLaw
  extract_lets -underBinder -merge -useContext v0 v1 v2 v3 v4 v5 v6 v7 v8 v9 v10 v11 v12 v13 v14 v15 v16 v17
  try clear_value v0
  try clear_value v1
  try clear_value v2
  try clear_value v3
  try clear_value v4
  try clear_value v5
  try clear_value v6
  try clear_value v7
  try clear_value v8
  try clear_value v9
  try clear_value v10
  have h18 : Moves 0x1000000000000000000000000000000000000000000000000000000000100000002006c00 s v11 := by
    unfold v11
    refine Moves.trans ?_ (Moves.mono (k := 0x2000000) rfl State.setLoop_moves)
    exact Moves.refl
  try clear_value v11
  try clear_value v12
  try clear_value v13
  try clear_value v14
  try clear_value v15
  try clear_value v16
  try clear_value v17
  refine Moves.ite ?_ ?_
  · refine Moves.trans ?_ (Moves.mono (k := 0x2000000) rfl State.setLoop_moves)
    exact Moves.refl
  · refine Moves.ite ?_ ?_
    · refine Moves.trans ?_ (Moves.mono (k := 0x1000000000000000000000000000000000000000000000000000000000100000002006c00) rfl State.feFault_moves)
      refine Moves.trans ?_ (Moves.mono (k := 0x2000000) rfl State.setLoop_moves)
      exact h18
    · refine Moves.setFlag ?_ rfl
      refine Moves.setFlag ?_ rfl
      refine Moves.trans ?_ (Moves.mono (k := 0x2000000) rfl State.setLoop_moves)
      exact h18

theorem State.loopShow_moves {s : State} {a0 : Nat} :
    Moves 0x100000000000000 s (State.loopShow s a0) := by
  unfold State.loopShow
  extract_lets -underBinder -merge -useContext v0
  try clear_value v0
  refine Moves.wr ?_ rfl
  refine Moves.wr ?_ rfl
  refine Moves.wr ?_ rfl
  refine Moves.wr ?_ rfl
  exact Moves.refl

theorem State.loopOverrun_moves {s : State} {a0 : Nat} :
    Moves 0x1000000000000000000000000000000000000000000000000000000000100000002006c00 s (State.loopOverrun s a0) := by
  unfold State.loopOverrun
  extract_lets -underBinder -merge -useContext v0 v1 v2
  try clear_value v0
  try clear_value v1
  have h3 : Moves 0x1000000000000000000000000000000000000000000000000000000000100000002006c00 s v2 := by
    unfold v2
    refine Moves.trans ?_ (Moves.mono (k := 0x2000000) rfl State.setLoop_moves)
    exact Moves.refl
  try clear_value v2
  refine Moves.trans ?_ (Moves.mono (k := 0x1000000000000000000000000000000000000000000000000000000000000000000006c00) rfl State.notify_moves)
  refine Moves.trans ?_ (Moves.mono (k := 0x100000000000000) rfl State.loopShow_moves)
  refine Moves.bump ?_ rfl
  refine Moves.setFlag ?_ rfl
  exact h3

theorem State.loopRequests_moves {s : State} {a0 : Nat} {a1 : Nat} :
    Moves 0x10000000000000000000000000000000000000000000000000000000000000100000002000400 s (State.loopRequests s a0 a1) := by
  unfold State.loopRequests
  extract_lets -underBinder -merge -useContext v0 v1 v2 v3 v4 v5 v6 v7
  try clear_value v0
  try clear_value v1
  try clear_value v2
  try clear_value v3
  try clear_value v4
  have h8 : Moves 0x10000000000000000000000000000000000000000000000000000000000000100000002000400 s v5 := by
    unfold v5
    refine Moves.trans ?_ (Moves.mono (k := 0x2000000) rfl State.setLoop_moves)
    exact Moves.refl
  try clear_value v5
  have h9 : ∀ y10 y11, Moves 0x10000000000000000000000000000000000000000000000000000000000000100000002000400 y10 (v6 y10 y11) := by
    intro y10 y11
    unfold v6
    beta_reduce
    refine Moves.ite ?_ ?_
    · refine Moves.trans ?_ (Moves.mono (k := 0x100000002000000) rfl State.loopEnter_moves)
      exact Moves.refl
    · exact Moves.refl
  try clear_value v6
  have h12 : Moves 0x10000000000000000000000000000000000000000000000000000000000000100000002000400 s v7 := by
    unfold v7
    refine Moves.ite ?_ ?_
    · refine Moves.trans ?_ (h9 _ _)
      exact h8
    · split
      · refine Moves.trans ?_ (h9 _ _)
        exact h8
      · exact h8
  try clear_value v7
  split
  · refine Moves.trans ?_ (Moves.mono (k := 0x10000000000000000000000000000000000000000000000000000000000000000000000000400) rfl State.settle_moves)
    exact h12
  · exact h12

theorem State.tuneDone_moves {s : State} {a0 : Nat} {a1 : Sys2Proof.Machine.TuneRun} :
    Moves 0x1000000000000000000000000000000000000000000000000000000000100000002006c00 s (State.tuneDone s a0 a1) := by
  unfold State.tuneDone
  extract_lets -underBinder -merge -useContext v0 v1 v2 v3 v4 v5 v6 v7 v8 v9 v10 v11 v12 v13 v14 v15 v16 v17 v18
  try clear_value v0
  try clear_value v1
  try clear_value v2
  try clear_value v3
  try clear_value v4
  try clear_value v5
  try clear_value v6
  try clear_value v7
  try clear_value v8
  try clear_value v9
  try clear_value v10
  try clear_value v11
  have h19 : Moves 0x1000000000000000000000000000000000000000000000000000000000100000002006c00 s v12 := by
    unfold v12
    refine Moves.foldl ?_ (fun st20 a21 => ?_)
    · exact Moves.refl
    · refine Moves.putWord ?_ rfl
      exact Moves.refl
  try clear_value v12
  have h22 : ∀ y23 y24 y25, Moves 0x1000000000000000000000000000000000000000000000000000000000100000002006c00 y23 (v13 y23 y24 y25) := by
    intro y23 y24 y25
    unfold v13
    beta_reduce
    refine Moves.putWord ?_ rfl
    exact Moves.refl
  try clear_value v13
  have h26 : Moves 0x1000000000000000000000000000000000000000000000000000000000100000002006c00 s v14 := by
    unfold v14
    refine Moves.trans ?_ (h22 _ _ _)
    refine Moves.trans ?_ (h22 _ _ _)
    refine Moves.trans ?_ (h22 _ _ _)
    refine Moves.trans ?_ (h22 _ _ _)
    refine Moves.trans ?_ (h22 _ _ _)
    exact h19
  try clear_value v14
  have h27 : Moves 0x1000000000000000000000000000000000000000000000000000000000100000002006c00 s v15 := by
    unfold v15
    refine Moves.trans ?_ (Moves.mono (k := 0x100000000000000) rfl State.derive_moves)
    exact h26
  try clear_value v15
  try clear_value v16
  have h28 : Moves 0x1000000000000000000000000000000000000000000000000000000000100000002006c00 s v17 := by
    unfold v17
    refine Moves.trans ?_ (Moves.mono (k := 0x2000000) rfl State.setLoop_moves)
    exact h27
  try clear_value v17
  have h29 : Moves 0x1000000000000000000000000000000000000000000000000000000000100000002006c00 s v18 := by
    unfold v18
    refine Moves.wr ?_ rfl
    refine Moves.wr ?_ rfl
    refine Moves.wr ?_ rfl
    refine Moves.wr ?_ rfl
    refine Moves.wr ?_ rfl
    refine Moves.wr ?_ rfl
    refine Moves.wr ?_ rfl
    exact h28
  try clear_value v18
  refine Moves.trans ?_ (Moves.mono (k := 0x1000000000000000000000000000000000000000000000000000000000000000000006c00) rfl State.notify_moves)
  exact h29

theorem State.tuneSample_moves {s : State} {a0 : Nat} {a1 : Sys2Proof.Machine.LoopIn} :
    Moves 0x1000000000000000000000000000000000000000000000000000000000100000002006c00 s (State.tuneSample s a0 a1) := by
  unfold State.tuneSample
  extract_lets -underBinder -merge -useContext v0
  try clear_value v0
  split
  · exact Moves.refl
  · extract_lets -underBinder -merge -useContext v1 v2 v3 v4 v5 v6 v7 v8 v9 v10 v11 v12 v13 v14 v15 v16
    try clear_value v1
    try clear_value v2
    try clear_value v3
    try clear_value v4
    try clear_value v5
    try clear_value v6
    try clear_value v7
    try clear_value v8
    try clear_value v9
    try clear_value v10
    try clear_value v11
    try clear_value v12
    try clear_value v13
    try clear_value v14
    try clear_value v15
    have h17 : Moves 0x1000000000000000000000000000000000000000000000000000000000100000002006c00 s v16 := by
      unfold v16
      refine Moves.trans ?_ (Moves.mono (k := 0x2000000) rfl State.setLoop_moves)
      exact Moves.refl
    try clear_value v16
    refine Moves.ite ?_ ?_
    · refine Moves.trans ?_ (Moves.mono (k := 0x1000000000000000000000000000000000000000000000000000000000100000002006c00) rfl State.tuneAbort_moves)
      exact Moves.refl
    · refine Moves.ite ?_ ?_
      · refine Moves.trans ?_ (Moves.mono (k := 0x1000000000000000000000000000000000000000000000000000000000100000002006c00) rfl State.tuneAbort_moves)
        exact Moves.refl
      · refine Moves.ite ?_ ?_
        · refine Moves.ite ?_ ?_
          · refine Moves.trans ?_ (Moves.mono (k := 0x1000000000000000000000000000000000000000000000000000000000100000002006c00) rfl State.tuneAbort_moves)
            exact h17
          · refine Moves.trans ?_ (Moves.mono (k := 0x1000000000000000000000000000000000000000000000000000000000100000002006c00) rfl State.tuneDone_moves)
            exact h17
        · exact h17

theorem State.loopRun_moves {s : State} {a0 : Nat} {a1 : Nat} :
    Moves 0x10001000000000000000000000000000000000000000000000000000000000100000002006c20 s (State.loopRun s a0 a1) := by
  unfold State.loopRun
  extract_lets -underBinder -merge -useContext v0 v1 v2 v3 v4 v5 v6 v7 v8
  have h9 : Moves 0x10001000000000000000000000000000000000000000000000000000000000100000002006c20 s v0 := by
    unfold v0
    refine Moves.trans ?_ (Moves.mono (k := 0x10000000000000000000000000000000000000000000000000000000000000100000002000400) rfl State.loopRequests_moves)
    refine Moves.ite ?_ ?_
    · refine Moves.trans ?_ (Moves.mono (k := 0x100000002000000) rfl State.loopStart_moves)
      exact Moves.refl
    · exact Moves.refl
  try clear_value v0
  try clear_value v1
  try clear_value v2
  have h10 : Moves 0x10001000000000000000000000000000000000000000000000000000000000100000002006c20 s v3 := by
    unfold v3
    refine Moves.trans ?_ (Moves.mono (k := 0x2000000) rfl State.setLoop_moves)
    exact h9
  try clear_value v3
  try clear_value v4
  have h11 : Moves 0x10001000000000000000000000000000000000000000000000000000000000100000002006c20 s v5 := by
    unfold v5
    split
    · refine Moves.trans ?_ (Moves.mono (k := 0x2000000) rfl State.loopTrack_moves)
      exact h10
    · refine Moves.ite ?_ ?_
      · refine Moves.trans ?_ (Moves.mono (k := 0x1000000000000000000000000000000000000000000000000000000000100000002006c00) rfl State.loopBad_moves)
        exact h10
      · refine Moves.trans ?_ (Moves.mono (k := 0x1000000000000000000000000000000000000000000000000000000000100000002006c00) rfl State.loopLaw_moves)
        exact h10
    · refine Moves.trans ?_ (Moves.mono (k := 0x1000000000000000000000000000000000000000000000000000000000100000002006c00) rfl State.tuneSample_moves)
      exact h10
    · refine Moves.trans ?_ (Moves.mono (k := 0x2000000) rfl State.loopMove_moves)
      exact h10
  try clear_value v5
  try clear_value v6
  have h12 : Moves 0x10001000000000000000000000000000000000000000000000000000000000100000002006c20 s v7 := by
    unfold v7
    refine Moves.setFlag ?_ rfl
    exact h11
  try clear_value v7
  have h13 : Moves 0x10001000000000000000000000000000000000000000000000000000000000100000002006c20 s v8 := by
    unfold v8
    refine Moves.trans ?_ (Moves.mono (k := 0x2000000) rfl State.setLoop_moves)
    exact h12
  try clear_value v8
  refine Moves.trans ?_ (Moves.mono (k := 0x20) rfl State.drawnFor_moves)
  refine Moves.trans ?_ (Moves.mono (k := 0x100000000000000) rfl State.loopShow_moves)
  exact h13

theorem State.loopSample_moves {s : State} {a0 : Nat} {a1 : Nat} :
    Moves 0x10001000000000000000000000000000000000000000000000000000000000100000002006c20 s (State.loopSample s a0 a1) := by
  unfold State.loopSample
  extract_lets -underBinder -merge -useContext v0
  try clear_value v0
  refine Moves.ite ?_ ?_
  · refine Moves.trans ?_ (Moves.mono (k := 0x10001000000000000000000000000000000000000000000000000000000000100000002006c20) rfl State.loopRun_moves)
    exact Moves.refl
  · refine Moves.ite ?_ ?_
    · exact Moves.refl
    · refine Moves.trans ?_ (Moves.mono (k := 0x2000000) rfl State.setLoop_moves)
      refine Moves.wr ?_ rfl
      exact Moves.refl

theorem State.loopSamples_moves {s : State} {a0 : Nat} :
    Moves 0x10001000000000000000000000000000000000000000000000000000000000100000002407c20 s (State.loopSamples s a0) := by
  unfold State.loopSamples
  extract_lets -underBinder -merge -useContext v0
  try clear_value v0
  refine Moves.foldl ?_ (fun st1 a2 => ?_)
  · refine Moves.foldl ?_ (fun st3 a4 => ?_)
    · exact Moves.refl
    · refine Moves.trans ?_ (Moves.mono (k := 0x100000002401000) rfl State.loopApply_moves)
      exact Moves.refl
  · refine Moves.trans ?_ (Moves.mono (k := 0x10001000000000000000000000000000000000000000000000000000000000100000002006c20) rfl State.loopSample_moves)
    exact Moves.refl

theorem State.loopSwap_moves {s : State} {a0 : Nat} {a1 : Sys2Proof.Machine.LoopSwap} :
    Moves 0x100000002000000 s (State.loopSwap s a0 a1) := by
  unfold State.loopSwap
  extract_lets -underBinder -merge -useContext v0 v1 v2 v3
  try clear_value v0
  have h4 : Moves 0x100000002000000 s v1 := by
    unfold v1
    refine Moves.trans ?_ (Moves.mono (k := 0x100000002000000) rfl State.leSwapOff_moves)
    exact Moves.refl
  try clear_value v1
  try clear_value v2
  have h5 : Moves 0x100000002000000 s v3 := by
    unfold v3
    refine Moves.wr ?_ rfl
    exact h4
  try clear_value v3
  refine Moves.ite ?_ ?_
  · refine Moves.trans ?_ (Moves.mono (k := 0x2000000) rfl State.setLoop_moves)
    exact h5
  · exact h5

theorem execAutotuneStart_moves {a0 : Nat} {a1 : Nat} {s : State} :
    ResMoves 0x10000000000000000000000000000000000000000000000000000000000000100000002002400 s (execAutotuneStart a0 a1 s) := by
  unfold execAutotuneStart
  refine ResMoves.trans ?_ (State.runCmd_moves rfl (fun st0 c1 => ?_))
  · exact Moves.refl
  · extract_lets -underBinder -merge -useContext v2 v3 v4 v5
    try clear_value v2
    try clear_value v3
    try clear_value v4
    try clear_value v5
    refine Moves.trans ?_ (Moves.mono (k := 0x10000000000000000000000000000000000000000000000000000000000000000000000000400) rfl State.done_moves)
    refine Moves.wr ?_ rfl
    refine Moves.trans ?_ (Moves.mono (k := 0x2000000) rfl State.setLoop_moves)
    exact Moves.refl

theorem execAutotuneStop_moves {a0 : Nat} {a1 : Nat} {s : State} :
    ResMoves 0x10001000000000000000000000000000000000000000000000000000000000100000002006c00 s (execAutotuneStop a0 a1 s) := by
  unfold execAutotuneStop
  refine ResMoves.trans ?_ (State.runCmd_moves rfl (fun st0 c1 => ?_))
  · exact Moves.refl
  · refine Moves.trans ?_ (Moves.mono (k := 0x10000000000000000000000000000000000000000000000000000000000000000000000000400) rfl State.done_moves)
    refine Moves.trans ?_ (Moves.mono (k := 0x1000000000000000000000000000000000000000000000000000000000100000002006c00) rfl State.tuneAbort_moves)
    exact Moves.refl

theorem execAutotuneTmaxExpiry_moves {a0 : Nat} {s : State} :
    ResMoves 0x1000000000000000000000000000000000000000000000000000000000100000002006c00 s (execAutotuneTmaxExpiry a0 s) := by
  unfold execAutotuneTmaxExpiry
  split
  · refine ResMoves.ite ?_ ?_
    · refine ResMoves.next ?_
      refine Moves.trans ?_ (Moves.mono (k := 0x1000000000000000000000000000000000000000000000000000000000100000002006c00) rfl State.tuneAbort_moves)
      exact Moves.refl
    · refine ResMoves.next ?_
      exact Moves.refl
  · refine ResMoves.next ?_
    exact Moves.refl

theorem execLeSwapInstant_moves {s : State} :
    ResMoves 0x10001000000000000000000000000000000000000000000000000000000000100000002006c00 s (execLeSwapInstant s) := by
  unfold execLeSwapInstant
  extract_lets -underBinder -merge -useContext v0 v1 v2
  try clear_value v0
  have h3 : Moves 0x10001000000000000000000000000000000000000000000000000000000000100000002006c00 s v1 := by
    unfold v1
    refine Moves.foldl ?_ (fun st4 a5 => ?_)
    · exact Moves.refl
    · refine Moves.trans ?_ (Moves.mono (k := 0x100000002000000) rfl State.loopSwap_moves)
      exact Moves.refl
  try clear_value v1
  try clear_value v2
  refine ResMoves.ite ?_ ?_
  · refine ResMoves.next ?_
    exact Moves.refl
  · refine ResMoves.next ?_
    refine Moves.foldl ?_ (fun st6 a7 => ?_)
    · exact h3
    · extract_lets -underBinder -merge -useContext v8
      try clear_value v8
      refine Moves.trans ?_ (Moves.mono (k := 0x1000000000000000000000000000000000000000000000000000000000000000000006c00) rfl State.notifyAt_moves)
      refine Moves.trans ?_ (Moves.mono (k := 0x10000000000000000000000000000000000000000000000000000000000000000000000000400) rfl State.settle_moves)
      exact Moves.refl

end Sys2Proof.Machine
end

