-- ==== Sys2Proof/Laws/FrameAxes.lean ====
section
/-! SUPPORT. What every definition of Machine/Axes.lean may change (masks over `Part.bit`), one lemma each. -/

namespace Sys2Proof.Machine

open Sys2Proof

theorem State.setAxis_moves {s : State} {a0 : Nat} {a1 : Sys2Proof.Machine.AxisSt} :
    Moves 0x2000000 s (State.setAxis s a0 a1) := by
  unfold State.setAxis
  extract_lets -underBinder -merge -useContext v0
  try clear_value v0
  refine Moves.le ?_ rfl
  exact Moves.refl

theorem State.capEnd_moves {s : State} {a0 : Nat} {a1 : Sys2Proof.Machine.Status} {a2 : Option Sys2Proof.Machine.Stamp} :
    Moves 0x10000000000000000000000000000000000000000000000000000000000000000000002000400 s (State.capEnd s a0 a1 a2) := by
  unfold State.capEnd
  extract_lets -underBinder -merge -useContext v0
  try clear_value v0
  split
  · exact Moves.refl
  · refine Moves.trans ?_ (Moves.mono (k := 0x10000000000000000000000000000000000000000000000000000000000000000000000000400) rfl State.settle_moves)
    refine Moves.trans ?_ (Moves.mono (k := 0x2000000) rfl State.setAxis_moves)
    exact Moves.refl

theorem State.capModeEnd_moves {s : State} :
    Moves 0x10000000000000000000000000000000000000000000000000000000000000200000002000400 s (State.capModeEnd s) := by
  unfold State.capModeEnd
  refine Moves.foldl ?_ (fun st0 a1 => ?_)
  · exact Moves.refl
  · refine Moves.ite ?_ ?_
    · refine Moves.wr ?_ rfl
      refine Moves.trans ?_ (Moves.mono (k := 0x10000000000000000000000000000000000000000000000000000000000000000000002000400) rfl State.capEnd_moves)
      exact Moves.refl
    · exact Moves.refl

theorem State.axCold_moves {s : State} :
    Moves 0x200000002000000 s (State.axCold s) := by
  unfold State.axCold
  extract_lets -underBinder -merge -useContext v0 v1
  try clear_value v0
  have h2 : Moves 0x200000002000000 s v1 := by
    unfold v1
    refine Moves.le ?_ rfl
    exact Moves.refl
  try clear_value v1
  refine Moves.foldl ?_ (fun st3 a4 => ?_)
  · exact h2
  · extract_lets -underBinder -merge -useContext v5
    try clear_value v5
    refine Moves.trans ?_ (Moves.mono (k := 0x2000000) rfl State.setAxis_moves)
    refine Moves.wr ?_ rfl
    exact Moves.refl

theorem State.axisSafeOut_moves {s : State} {a0 : Nat} :
    Moves 0x2401000 s (State.axisSafeOut s a0) := by
  unfold State.axisSafeOut
  refine Moves.trans ?_ (Moves.mono (k := 0x2401000) rfl State.writeDst_moves)
  exact Moves.refl

theorem State.axCommit_moves {s : State} {a0 : State} {a1 : Nat} {a2 : Nat} :
    Moves 0x100000002401000 s (State.axCommit s a0 a1 a2) := by
  unfold State.axCommit
  extract_lets -underBinder -merge -useContext v0
  try clear_value v0
  refine Moves.ite ?_ ?_
  · refine Moves.trans ?_ (Moves.mono (k := 0x100000000000000) rfl State.showLanes_moves)
    refine Moves.ite ?_ ?_
    · refine Moves.trans ?_ (Moves.mono (k := 0x2401000) rfl State.axisSafeOut_moves)
      exact Moves.refl
    · exact Moves.refl
  · refine Moves.ite ?_ ?_
    · refine Moves.trans ?_ (Moves.mono (k := 0x2000000) rfl State.setEnc_moves)
      exact Moves.refl
    · exact Moves.refl

theorem State.axisHold_moves {s : State} {a0 : Nat} :
    Moves 0x10000000000000000000000000000000000000000000000000000000000000200000002000400 s (State.axisHold s a0) := by
  unfold State.axisHold
  extract_lets -underBinder -merge -useContext v0 v1 v2 v3 v4
  have h5 : Moves 0x10000000000000000000000000000000000000000000000000000000000000200000002000400 s v0 := by
    unfold v0
    refine Moves.trans ?_ (Moves.mono (k := 0x10000000000000000000000000000000000000000000000000000000000000000000002000400) rfl State.capEnd_moves)
    exact Moves.refl
  try clear_value v0
  try clear_value v1
  try clear_value v2
  try clear_value v3
  have h6 : Moves 0x10000000000000000000000000000000000000000000000000000000000000200000002000400 s v4 := by
    unfold v4
    refine Moves.wr ?_ rfl
    exact h5
  try clear_value v4
  refine Moves.trans ?_ (Moves.mono (k := 0x2000000) rfl State.setAxis_moves)
  split
  · extract_lets -underBinder -merge -useContext v7
    try clear_value v7
    refine Moves.trans ?_ (Moves.mono (k := 0x2000000) rfl State.setEnc_moves)
    exact h6
  · exact h6

theorem State.axPosLost_moves {s : State} {a0 : Bool} :
    Moves 0x10000000000000000000000000000000000000000000000000000000000000200000002000400 s (State.axPosLost s a0) := by
  unfold State.axPosLost
  refine Moves.foldl ?_ (fun st0 a1 => ?_)
  · exact Moves.refl
  · split
    · extract_lets -underBinder -merge -useContext v2
      have h3 : Moves 0x10000000000000000000000000000000000000000000000000000000000000200000002000400 st0 v2 := by
        unfold v2
        refine Moves.setFlag ?_ rfl
        exact Moves.refl
      try clear_value v2
      refine Moves.ite ?_ ?_
      · refine Moves.ite ?_ ?_
        · refine Moves.wr ?_ rfl
          exact h3
        · exact h3
      · refine Moves.ite ?_ ?_
        · refine Moves.trans ?_ (Moves.mono (k := 0x10000000000000000000000000000000000000000000000000000000000000200000002000400) rfl State.axisHold_moves)
          exact Moves.refl
        · exact Moves.refl
    · exact Moves.refl

theorem State.axisSafe_moves {s : State} {a0 : Nat} :
    Moves 0x10000000000000000000000000000000000000000000000000000000000000200000002000400 s (State.axisSafe s a0) := by
  unfold State.axisSafe
  extract_lets -underBinder -merge -useContext v0 v1
  have h2 : Moves 0x10000000000000000000000000000000000000000000000000000000000000200000002000400 s v0 := by
    unfold v0
    refine Moves.trans ?_ (Moves.mono (k := 0x10000000000000000000000000000000000000000000000000000000000000000000002000400) rfl State.capEnd_moves)
    exact Moves.refl
  try clear_value v0
  try clear_value v1
  refine Moves.trans ?_ (Moves.mono (k := 0x2000000) rfl State.setAxis_moves)
  refine Moves.wr ?_ rfl
  exact h2

theorem State.axSafe_moves {s : State} :
    Moves 0x10000000000000000000000000000000000000000000000000000000000000200000002401400 s (State.axSafe s) := by
  unfold State.axSafe
  extract_lets -underBinder -merge -useContext v0
  have h1 : Moves 0x10000000000000000000000000000000000000000000000000000000000000200000002401400 s v0 := by
    unfold v0
    refine Moves.foldl ?_ (fun st2 a3 => ?_)
    · exact Moves.refl
    · extract_lets -underBinder -merge -useContext v4 v5
      have h6 : Moves 0x10000000000000000000000000000000000000000000000000000000000000200000002401400 st2 v4 := by
        unfold v4
        refine Moves.trans ?_ (Moves.mono (k := 0x10000000000000000000000000000000000000000000000000000000000000200000002000400) rfl State.axisSafe_moves)
        exact Moves.refl
      try clear_value v4
      try clear_value v5
      refine Moves.trans ?_ (Moves.mono (k := 0x2401000) rfl State.writeDst_moves)
      refine Moves.trans ?_ (Moves.mono (k := 0x2000000) rfl State.setAxis_moves)
      exact h6
  try clear_value v0
  refine Moves.foldl ?_ (fun st7 a8 => ?_)
  · exact h1
  · refine Moves.wr ?_ rfl
    exact Moves.refl

theorem State.axisApply_moves {s : State} {a0 : Nat} {a1 : Nat} :
    Moves 0x200000002401000 s (State.axisApply s a0 a1) := by
  unfold State.axisApply
  extract_lets -underBinder -merge -useContext v0 v1
  try clear_value v0
  have h2 : Moves 0x200000002401000 s v1 := by
    unfold v1
    refine Moves.setFlag ?_ rfl
    refine Moves.trans ?_ (Moves.mono (k := 0x2401000) rfl State.writeDst_moves)
    exact Moves.refl
  try clear_value v1
  refine Moves.ite ?_ ?_
  · exact Moves.refl
  · refine Moves.trans ?_ (Moves.mono (k := 0x2000000) rfl State.setAxis_moves)
    exact h2

theorem State.axisBad_moves {s : State} {a0 : Nat} :
    Moves 0x10000000000000000000000000000000000000000000000000000000000000200000002000400 s (State.axisBad s a0) := by
  unfold State.axisBad
  extract_lets -underBinder -merge -useContext v0
  try clear_value v0
  refine Moves.ite ?_ ?_
  · refine Moves.trans ?_ (Moves.mono (k := 0x2000000) rfl State.setAxis_moves)
    exact Moves.refl
  · refine Moves.trans ?_ (Moves.mono (k := 0x10000000000000000000000000000000000000000000000000000000000000200000002000400) rfl State.axisSafe_moves)
    exact Moves.refl

theorem State.moveDone_moves {s : State} {a0 : Nat} :
    Moves 0x200000002000000 s (State.moveDone s a0) := by
  unfold State.moveDone
  extract_lets -underBinder -merge -useContext v0
  try clear_value v0
  refine Moves.trans ?_ (Moves.mono (k := 0x2000000) rfl State.setAxis_moves)
  refine Moves.wrapInc ?_ rfl
  refine Moves.wr ?_ rfl
  exact Moves.refl

theorem State.capDone_moves {s : State} {a0 : Nat} {a1 : Nat} {a2 : Sys2Proof.Machine.CapRun} :
    Moves 0x10001000000000000000000000000000000000000000000000000000000000200000002006c00 s (State.capDone s a0 a1 a2) := by
  unfold State.capDone
  extract_lets -underBinder -merge -useContext v0 v1 v2 v3 v4
  try clear_value v0
  try clear_value v1
  have h5 : Moves 0x10001000000000000000000000000000000000000000000000000000000000200000002006c00 s v2 := by
    unfold v2
    refine Moves.trans ?_ (Moves.mono (k := 0x2000000) rfl State.setAxis_moves)
    refine Moves.wr ?_ rfl
    exact Moves.refl
  try clear_value v2
  try clear_value v3
  have h6 : Moves 0x10001000000000000000000000000000000000000000000000000000000000200000002006c00 s v4 := by
    unfold v4
    refine Moves.foldl ?_ (fun st7 a8 => ?_)
    · exact h5
    · extract_lets -underBinder -merge -useContext v9 v10
      try clear_value v9
      try clear_value v10
      refine Moves.putWord ?_ rfl
      refine Moves.putWord ?_ rfl
      exact Moves.refl
  try clear_value v4
  refine Moves.ite ?_ ?_
  · refine Moves.trans ?_ (Moves.mono (k := 0x6000) rfl State.raiseErr_moves)
    refine Moves.trans ?_ (Moves.mono (k := 0x10000000000000000000000000000000000000000000000000000000000000000000002000400) rfl State.capEnd_moves)
    exact h5
  · refine Moves.trans ?_ (Moves.mono (k := 0x1000000000000000000000000000000000000000000000000000000000000000000006c00) rfl State.notifyAt_moves)
    refine Moves.trans ?_ (Moves.mono (k := 0x10000000000000000000000000000000000000000000000000000000000000000000002000400) rfl State.capEnd_moves)
    exact h6

theorem State.axisCourse_moves {s : State} {a0 : Nat} {a1 : Nat} :
    Moves 0x10001000000000000000000000000000000000000000000000000000000000200000002006c20 s (State.axisCourse s a0 a1) := by
  unfold State.axisCourse
  extract_lets -underBinder -merge -useContext v0
  try clear_value v0
  split
  · extract_lets -underBinder -merge -useContext v1 v2 v3
    try clear_value v1
    have h4 : Moves 0x10001000000000000000000000000000000000000000000000000000000000200000002006c20 s v2 := by
      unfold v2
      refine Moves.trans ?_ (Moves.mono (k := 0x2000000) rfl State.setAxis_moves)
      exact Moves.refl
    try clear_value v2
    have h5 : Moves 0x10001000000000000000000000000000000000000000000000000000000000200000002006c20 s v3 := by
      unfold v3
      refine Moves.free ?_ rfl
      exact h4
    try clear_value v3
    refine Moves.ite ?_ ?_
    · refine Moves.trans ?_ (Moves.mono (k := 0x200000002000000) rfl State.moveDone_moves)
      exact h5
    · exact h5
  · extract_lets -underBinder -merge -useContext v6 v7 v8
    try clear_value v6
    have h9 : Moves 0x10001000000000000000000000000000000000000000000000000000000000200000002006c20 s v7 := by
      unfold v7
      refine Moves.trans ?_ (Moves.mono (k := 0x2000000) rfl State.setAxis_moves)
      exact Moves.refl
    try clear_value v7
    have h10 : Moves 0x10001000000000000000000000000000000000000000000000000000000000200000002006c20 s v8 := by
      unfold v8
      refine Moves.free ?_ rfl
      exact h9
    try clear_value v8
    refine Moves.ite ?_ ?_
    · refine Moves.trans ?_ (Moves.mono (k := 0x200000002000000) rfl State.moveDone_moves)
      exact h10
    · exact h10
  · split
    · extract_lets -underBinder -merge -useContext v11 v12 v13
      try clear_value v11
      try clear_value v12
      have h14 : Moves 0x10001000000000000000000000000000000000000000000000000000000000200000002006c20 s v13 := by
        unfold v13
        refine Moves.trans ?_ (Moves.mono (k := 0x2000000) rfl State.setAxis_moves)
        exact Moves.refl
      try clear_value v13
      refine Moves.ite ?_ ?_
      · refine Moves.trans ?_ (Moves.mono (k := 0x10001000000000000000000000000000000000000000000000000000000000200000002006c00) rfl State.capDone_moves)
        exact h14
      · exact h14
    · exact Moves.refl
  · exact Moves.refl

theorem State.axisFault_moves {s : State} {a0 : Nat} {a1 : Nat} :
    Moves 0x10001000000000000000000000000000000000000000000000000000000000200000002006c00 s (State.axisFault s a0 a1) := by
  unfold State.axisFault
  extract_lets -underBinder -merge -useContext v0 v1 v2 v3
  have h4 : Moves 0x10001000000000000000000000000000000000000000000000000000000000200000002006c00 s v0 := by
    unfold v0
    refine Moves.trans ?_ (Moves.mono (k := 0x1000000000000000000000000000000000000000000000000000000000000000000006c00) rfl State.notify_moves)
    refine Moves.trans ?_ (Moves.mono (k := 0x10000000000000000000000000000000000000000000000000000000000000000000002000400) rfl State.capEnd_moves)
    exact Moves.refl
  try clear_value v0
  try clear_value v1
  have h5 : Moves 0x10001000000000000000000000000000000000000000000000000000000000200000002006c00 s v2 := by
    unfold v2
    refine Moves.trans ?_ (Moves.mono (k := 0x10000000000000000000000000000000000000000000000000000000000000200000002000400) rfl State.axisSafe_moves)
    exact h4
  try clear_value v2
  try clear_value v3
  refine Moves.ite ?_ ?_
  · refine Moves.trans ?_ (Moves.mono (k := 0x2000000) rfl State.setAxis_moves)
    refine Moves.wr ?_ rfl
    exact h4
  · refine Moves.trans ?_ (Moves.mono (k := 0x2000000) rfl State.setAxis_moves)
    exact h5

theorem State.axisHalt_moves {s : State} {a0 : Nat} :
    Moves 0x10000000000000000000000000000000000000000000000000000000000000200000002000400 s (State.axisHalt s a0) := by
  unfold State.axisHalt
  extract_lets -underBinder -merge -useContext v0 v1
  try clear_value v0
  have h2 : Moves 0x10000000000000000000000000000000000000000000000000000000000000200000002000400 s v1 := by
    unfold v1
    refine Moves.trans ?_ (Moves.mono (k := 0x10000000000000000000000000000000000000000000000000000000000000000000002000400) rfl State.capEnd_moves)
    exact Moves.refl
  try clear_value v1
  refine Moves.ite ?_ ?_
  · refine Moves.wr ?_ rfl
    exact h2
  · exact h2

theorem State.axisTarget_moves {s : State} {a0 : Nat} :
    Moves 0x200000002000000 s (State.axisTarget s a0) := by
  unfold State.axisTarget
  extract_lets -underBinder -merge -useContext v0 v1 v2 v3 v4
  try clear_value v0
  try clear_value v1
  try clear_value v2
  try clear_value v3
  try clear_value v4
  refine Moves.ite ?_ ?_
  · exact Moves.refl
  · refine Moves.trans ?_ (Moves.mono (k := 0x2000000) rfl State.setAxis_moves)
    refine Moves.wr ?_ rfl
    exact Moves.refl

theorem State.axisLaw_moves {s : State} {a0 : Nat} {a1 : Nat} :
    Moves 0x10001000000000000000000000000000000000000000000000000000000000200000002006c20 s (State.axisLaw s a0 a1) := by
  unfold State.axisLaw
  extract_lets -underBinder -merge -useContext v0 v1 v2 v3 v4 v5 v6 v7 v8 v9
  try clear_value v0
  have h10 : Moves 0x10001000000000000000000000000000000000000000000000000000000000200000002006c20 s v1 := by
    unfold v1
    refine Moves.ite ?_ ?_
    · refine Moves.trans ?_ (Moves.mono (k := 0x2000000) rfl State.setAxis_moves)
      exact Moves.refl
    · exact Moves.refl
  try clear_value v1
  have h11 : Moves 0x10001000000000000000000000000000000000000000000000000000000000200000002006c20 s v2 := by
    unfold v2
    refine Moves.trans ?_ (Moves.mono (k := 0x10001000000000000000000000000000000000000000000000000000000000200000002006c20) rfl State.axisCourse_moves)
    refine Moves.trans ?_ (Moves.mono (k := 0x200000002000000) rfl State.axisTarget_moves)
    exact h10
  try clear_value v2
  try clear_value v3
  try clear_value v4
  try clear_value v5
  try clear_value v6
  try clear_value v7
  try clear_value v8
  try clear_value v9
  refine Moves.ite ?_ ?_
  · refine Moves.trans ?_ (Moves.mono (k := 0x2000000) rfl State.setAxis_moves)
    exact Moves.refl
  · refine Moves.ite ?_ ?_
    · refine Moves.trans ?_ (Moves.mono (k := 0x10001000000000000000000000000000000000000000000000000000000000200000002006c00) rfl State.axisFault_moves)
      refine Moves.trans ?_ (Moves.mono (k := 0x2000000) rfl State.setAxis_moves)
      exact h11
    · refine Moves.trans ?_ (Moves.mono (k := 0x2000000) rfl State.setAxis_moves)
      exact h11

theorem State.axisOverrun_moves {s : State} {a0 : Nat} :
    Moves 0x200000002000000 s (State.axisOverrun s a0) := by
  unfold State.axisOverrun
  extract_lets -underBinder -merge -useContext v0 v1 v2
  try clear_value v0
  try clear_value v1
  try clear_value v2
  refine Moves.setFlag ?_ rfl
  refine Moves.trans ?_ (Moves.mono (k := 0x2000000) rfl State.setAxis_moves)
  exact Moves.refl

theorem State.axisTake_moves {s : State} {a0 : Nat} {a1 : Nat} :
    Moves 0x10000000000000000000000000000000000000000000000000000000000000200000002000400 s (State.axisTake s a0 a1) := by
  unfold State.axisTake
  refine Moves.ite ?_ ?_
  · exact Moves.refl
  · split
    · refine Moves.ite ?_ ?_
      · exact Moves.refl
      · refine Moves.trans ?_ (Moves.mono (k := 0x10000000000000000000000000000000000000000000000000000000000000200000002000400) rfl State.axisHold_moves)
        exact Moves.refl
    · refine Moves.trans ?_ (Moves.mono (k := 0x10000000000000000000000000000000000000000000000000000000000000200000002000400) rfl State.axisSafe_moves)
      exact Moves.refl
    · refine Moves.trans ?_ (Moves.mono (k := 0x10000000000000000000000000000000000000000000000000000000000000200000002000400) rfl State.axisHalt_moves)
      exact Moves.refl
    · exact Moves.refl

theorem State.axisRequests_moves {s : State} {a0 : Nat} {a1 : Nat} :
    Moves 0x10000000000000000000000000000000000000000000000000000000000000200000002000400 s (State.axisRequests s a0 a1) := by
  unfold State.axisRequests
  extract_lets -underBinder -merge -useContext v0 v1 v2 v3 v4 v5 v6 v7 v8
  try clear_value v0
  try clear_value v1
  try clear_value v2
  try clear_value v3
  try clear_value v4
  try clear_value v5
  try clear_value v6
  have h9 : Moves 0x10000000000000000000000000000000000000000000000000000000000000200000002000400 s v7 := by
    unfold v7
    refine Moves.trans ?_ (Moves.mono (k := 0x2000000) rfl State.setAxis_moves)
    exact Moves.refl
  try clear_value v7
  have h10 : Moves 0x10000000000000000000000000000000000000000000000000000000000000200000002000400 s v8 := by
    unfold v8
    refine Moves.ite ?_ ?_
    · refine Moves.trans ?_ (Moves.mono (k := 0x10000000000000000000000000000000000000000000000000000000000000200000002000400) rfl State.axisTake_moves)
      exact h9
    · split
      · refine Moves.trans ?_ (Moves.mono (k := 0x10000000000000000000000000000000000000000000000000000000000000200000002000400) rfl State.axisTake_moves)
        exact h9
      · exact h9
  try clear_value v8
  split
  · refine Moves.trans ?_ (Moves.mono (k := 0x10000000000000000000000000000000000000000000000000000000000000000000000000400) rfl State.settle_moves)
    exact h10
  · exact h10

theorem State.keepAxis_moves {s : State} {a0 : Nat} {a1 : Sys2Proof.Machine.AxisSt} {a2 : Nat} :
    Moves 0x2000000 s (State.keepAxis s a0 a1 a2) := by
  unfold State.keepAxis
  extract_lets -underBinder -merge -useContext v0
  try clear_value v0
  refine Moves.le ?_ rfl
  exact Moves.refl

theorem State.axisShow_moves {s : State} {a0 : Nat} {a1 : Bool} :
    Moves 0x200000000000000 s (State.axisShow s a0 a1) := by
  unfold State.axisShow
  extract_lets -underBinder -merge -useContext v0 v1
  try clear_value v0
  have h2 : Moves 0x200000000000000 s v1 := by
    unfold v1
    refine Moves.wrk ?_ rfl
    refine Moves.wrk ?_ rfl
    refine Moves.setFlag ?_ rfl
    refine Moves.setFlag ?_ rfl
    exact Moves.refl
  try clear_value v1
  refine Moves.wr ?_ rfl
  refine Moves.wr ?_ rfl
  refine Moves.wrk ?_ rfl
  refine Moves.wrk ?_ rfl
  exact h2

theorem State.axisRun_moves {s : State} {a0 : Nat} {a1 : Nat} :
    Moves 0x10001000000000000000000000000000000000000000000000000000000000200000002006c20 s (State.axisRun s a0 a1) := by
  unfold State.axisRun
  extract_lets -underBinder -merge -useContext v0 v1 v2 v3 v4 v5 v6 v7 v8
  try clear_value v0
  try clear_value v1
  try clear_value v2
  try clear_value v3
  try clear_value v4
  have h9 : Moves 0x10001000000000000000000000000000000000000000000000000000000000200000002006c20 s v5 := by
    unfold v5
    refine Moves.trans ?_ (Moves.mono (k := 0x10000000000000000000000000000000000000000000000000000000000000200000002000400) rfl State.axisRequests_moves)
    refine Moves.trans ?_ (Moves.mono (k := 0x2000000) rfl State.setAxis_moves)
    exact Moves.refl
  try clear_value v5
  have h10 : Moves 0x10001000000000000000000000000000000000000000000000000000000000200000002006c20 s v6 := by
    unfold v6
    refine Moves.ite ?_ ?_
    · exact h9
    · refine Moves.ite ?_ ?_
      · refine Moves.trans ?_ (Moves.mono (k := 0x10000000000000000000000000000000000000000000000000000000000000200000002000400) rfl State.axisBad_moves)
        exact h9
      · refine Moves.trans ?_ (Moves.mono (k := 0x10001000000000000000000000000000000000000000000000000000000000200000002006c20) rfl State.axisLaw_moves)
        exact h9
  try clear_value v6
  try clear_value v7
  have h11 : Moves 0x10001000000000000000000000000000000000000000000000000000000000200000002006c20 s v8 := by
    unfold v8
    refine Moves.ite ?_ ?_
    · exact h10
    · refine Moves.trans ?_ (Moves.mono (k := 0x2000000) rfl State.keepAxis_moves)
      refine Moves.trans ?_ (Moves.mono (k := 0x2000000) rfl State.setAxis_moves)
      exact h10
  try clear_value v8
  refine Moves.trans ?_ (Moves.mono (k := 0x20) rfl State.drawnFor_moves)
  refine Moves.trans ?_ (Moves.mono (k := 0x200000000000000) rfl State.axisShow_moves)
  exact h11

theorem State.axisSample_moves {s : State} {a0 : Nat} {a1 : Nat} :
    Moves 0x10001000000000000000000000000000000000000000000000000000000000200000002006c20 s (State.axisSample s a0 a1) := by
  unfold State.axisSample
  refine Moves.ite ?_ ?_
  · refine Moves.trans ?_ (Moves.mono (k := 0x10001000000000000000000000000000000000000000000000000000000000200000002006c20) rfl State.axisRun_moves)
    exact Moves.refl
  · refine Moves.ite ?_ ?_
    · exact Moves.refl
    · refine Moves.trans ?_ (Moves.mono (k := 0x2000000) rfl State.setAxis_moves)
      refine Moves.wr ?_ rfl
      refine Moves.trans ?_ (Moves.mono (k := 0x10000000000000000000000000000000000000000000000000000000000000000000002000400) rfl State.capEnd_moves)
      exact Moves.refl

theorem State.axisSamples_moves {s : State} {a0 : Nat} :
    Moves 0x10001000000000000000000000000000000000000000000000000000000000200000002407c20 s (State.axisSamples s a0) := by
  unfold State.axisSamples
  extract_lets -underBinder -merge -useContext v0
  try clear_value v0
  refine Moves.foldl ?_ (fun st1 a2 => ?_)
  · refine Moves.foldl ?_ (fun st3 a4 => ?_)
    · exact Moves.refl
    · refine Moves.trans ?_ (Moves.mono (k := 0x200000002401000) rfl State.axisApply_moves)
      exact Moves.refl
  · refine Moves.trans ?_ (Moves.mono (k := 0x10001000000000000000000000000000000000000000000000000000000000200000002006c20) rfl State.axisSample_moves)
    exact Moves.refl

theorem State.leReqDrop_moves {s : State} {a0 : Nat × Nat} :
    Moves 0x200000002000000 s (State.leReqDrop s a0) := by
  unfold State.leReqDrop
  extract_lets -underBinder -merge -useContext v0
  have h1 : Moves 0x200000002000000 s v0 := by
    unfold v0
    refine Moves.foldl ?_ (fun st2 a3 => ?_)
    · exact Moves.refl
    · split
      · extract_lets -underBinder -merge -useContext v4
        try clear_value v4
        refine Moves.ite ?_ ?_
        · refine Moves.trans ?_ (Moves.mono (k := 0x2000000) rfl State.setLoop_moves)
          exact Moves.refl
        · exact Moves.refl
      · exact Moves.refl
  try clear_value v0
  refine Moves.foldl ?_ (fun st5 a6 => ?_)
  · exact h1
  · extract_lets -underBinder -merge -useContext v7
    have h8 : Moves 0x200000002000000 st5 v7 := by
      unfold v7
      split
      · extract_lets -underBinder -merge -useContext v9
        try clear_value v9
        refine Moves.ite ?_ ?_
        · refine Moves.trans ?_ (Moves.mono (k := 0x2000000) rfl State.setAxis_moves)
          exact Moves.refl
        · exact Moves.refl
      · exact Moves.refl
    try clear_value v7
    split
    · extract_lets -underBinder -merge -useContext v10
      try clear_value v10
      refine Moves.ite ?_ ?_
      · refine Moves.wr ?_ rfl
        refine Moves.trans ?_ (Moves.mono (k := 0x2000000) rfl State.setAxis_moves)
        exact h8
      · exact h8
    · exact h8

theorem State.encError_moves {s : State} {a0 : Nat} {a1 : Bool} :
    Moves 0x1000000000000000000000000000000000000000000000000000000000200000002006c00 s (State.encError s a0 a1) := by
  unfold State.encError
  extract_lets -underBinder -merge -useContext v0 v1 v2
  have h3 : Moves 0x1000000000000000000000000000000000000000000000000000000000200000002006c00 s v0 := by
    unfold v0
    refine Moves.bump ?_ rfl
    exact Moves.refl
  try clear_value v0
  try clear_value v1
  try clear_value v2
  refine Moves.ite ?_ ?_
  · refine Moves.trans ?_ (Moves.mono (k := 0x1000000000000000000000000000000000000000000000000000000000000000000006c00) rfl State.notify_moves)
    refine Moves.trans ?_ (Moves.mono (k := 0x2000000) rfl State.setEnc_moves)
    exact h3
  · refine Moves.trans ?_ (Moves.mono (k := 0x2000000) rfl State.setEnc_moves)
    exact h3

theorem State.laneShort_moves {s : State} {a0 : Bool × Nat} :
    Moves 0x10000000000000000000000000000000000000000000000000000000000000300000002000400 s (State.laneShort s a0) := by
  unfold State.laneShort
  refine Moves.ite ?_ ?_
  · refine Moves.trans ?_ (Moves.mono (k := 0x10000000000000000000000000000000000000000000000000000000000000200000002000400) rfl State.axisSafe_moves)
    exact Moves.refl
  · refine Moves.ite ?_ ?_
    · exact Moves.refl
    · refine Moves.wr ?_ rfl
      refine Moves.trans ?_ (Moves.mono (k := 0x100000002000000) rfl State.loopEnter_moves)
      exact Moves.refl

theorem execEncoderEdge_moves {a0 : Nat} {a1 : Bool} {a2 : Bool} {a3 : Bool} {s : State} :
    ResMoves 0x1000000000000000000000000000000000000000000000000000000000200000002006c00 s (execEncoderEdge a0 a1 a2 a3 s) := by
  unfold execEncoderEdge
  extract_lets -underBinder -merge -useContext v0 v1 v2 v3 v4 v5 v6 v7 v8
  try clear_value v0
  have h9 : Moves 0x1000000000000000000000000000000000000000000000000000000000200000002006c00 s v1 := by
    unfold v1
    refine Moves.trans ?_ (Moves.mono (k := 0x2000000) rfl State.setEnc_moves)
    exact Moves.refl
  try clear_value v1
  try clear_value v2
  try clear_value v3
  try clear_value v4
  try clear_value v5
  try clear_value v6
  try clear_value v7
  have h10 : Moves 0x1000000000000000000000000000000000000000000000000000000000200000002006c00 s v8 := by
    unfold v8
    refine Moves.ite ?_ ?_
    · refine Moves.trans ?_ (Moves.mono (k := 0x1000000000000000000000000000000000000000000000000000000000200000002006c00) rfl State.encError_moves)
      refine Moves.trans ?_ (Moves.mono (k := 0x2000000) rfl State.setEnc_moves)
      refine Moves.setFlag ?_ rfl
      exact h9
    · refine Moves.ite ?_ ?_
      · exact h9
      · refine Moves.wr ?_ rfl
        refine Moves.trans ?_ (Moves.mono (k := 0x2000000) rfl State.setEnc_moves)
        exact h9
  try clear_value v8
  refine ResMoves.ite ?_ ?_
  · refine ResMoves.next ?_
    exact Moves.refl
  · refine ResMoves.ite ?_ ?_
    · refine ResMoves.next ?_
      refine Moves.setFlag ?_ rfl
      refine Moves.wr ?_ rfl
      exact h10
    · refine ResMoves.next ?_
      exact h10

theorem execEncoderTransfer_moves {a0 : Nat} {a1 : Option Nat} {a2 : Bool} {a3 : Bool} {a4 : Nat} {s : State} :
    ResMoves 0x1000000000000000000000000000000000000000000000000000000000200000002006c00 s (execEncoderTransfer a0 a1 a2 a3 a4 s) := by
  unfold execEncoderTransfer
  extract_lets -underBinder -merge -useContext v0 v1
  try clear_value v0
  try clear_value v1
  refine ResMoves.ite ?_ ?_
  · refine ResMoves.next ?_
    exact Moves.refl
  · split
    · refine ResMoves.next ?_
      refine Moves.trans ?_ (Moves.mono (k := 0x1000000000000000000000000000000000000000000000000000000000200000002006c00) rfl State.encError_moves)
      refine Moves.setFlag ?_ rfl
      refine Moves.setFlag ?_ rfl
      refine Moves.setFlag ?_ rfl
      exact Moves.refl
    · extract_lets -underBinder -merge -useContext v2 v3 v4 v5 v6 v7 v8 v9 v10
      try clear_value v2
      try clear_value v3
      try clear_value v4
      try clear_value v5
      try clear_value v6
      try clear_value v7
      have h11 : Moves 0x1000000000000000000000000000000000000000000000000000000000200000002006c00 s v8 := by
        unfold v8
        refine Moves.setFlag ?_ rfl
        refine Moves.setFlag ?_ rfl
        refine Moves.setFlag ?_ rfl
        exact Moves.refl
      try clear_value v8
      try clear_value v9
      have h12 : Moves 0x1000000000000000000000000000000000000000000000000000000000200000002006c00 s v10 := by
        unfold v10
        refine Moves.trans ?_ (Moves.mono (k := 0x2000000) rfl State.setEnc_moves)
        refine Moves.wr ?_ rfl
        exact h11
      try clear_value v10
      refine ResMoves.next ?_
      refine Moves.ite ?_ ?_
      · refine Moves.trans ?_ (Moves.mono (k := 0x1000000000000000000000000000000000000000000000000000000000200000002006c00) rfl State.encError_moves)
        exact h12
      · exact h12

theorem execLoopLaneFailure_moves {a0 : Nat} {a1 : Bool} {s : State} :
    ResMoves 0x10001000000000000000000000000000000000000000000000000000000000300000002006c00 s (execLoopLaneFailure a0 a1 s) := by
  unfold execLoopLaneFailure
  extract_lets -underBinder -merge -useContext v0 v1 v2 v3 v4 v5 v6
  try clear_value v0
  try clear_value v1
  have h7 : Moves 0x10001000000000000000000000000000000000000000000000000000000000300000002006c00 s v2 := by
    unfold v2
    refine Moves.le ?_ rfl
    exact Moves.refl
  try clear_value v2
  have h8 : Moves 0x10001000000000000000000000000000000000000000000000000000000000300000002006c00 s v3 := by
    unfold v3
    refine Moves.ite ?_ ?_
    · refine Moves.foldl ?_ (fun st9 a10 => ?_)
      · exact h7
      · refine Moves.ite ?_ ?_
        · refine Moves.ite ?_ ?_
          · refine Moves.trans ?_ (Moves.mono (k := 0x200000002000000) rfl State.axisOverrun_moves)
            exact Moves.refl
          · exact Moves.refl
        · refine Moves.ite ?_ ?_
          · refine Moves.trans ?_ (Moves.mono (k := 0x1000000000000000000000000000000000000000000000000000000000100000002006c00) rfl State.loopOverrun_moves)
            exact Moves.refl
          · exact Moves.refl
    · exact h7
  try clear_value v3
  have h11 : Moves 0x10001000000000000000000000000000000000000000000000000000000000300000002006c00 s v4 := by
    unfold v4
    refine Moves.trans ?_ (Moves.mono (k := 0x1000000000000000000000000000000000000000000000000000000000000000000006c00) rfl State.notify_moves)
    exact h8
  try clear_value v4
  try clear_value v5
  have h12 : Moves 0x10001000000000000000000000000000000000000000000000000000000000300000002006c00 s v6 := by
    unfold v6
    refine Moves.foldl ?_ (fun st13 a14 => ?_)
    · refine Moves.trans ?_ (Moves.mono (k := 0x100000000000000) rfl State.showLanes_moves)
      exact h11
    · refine Moves.trans ?_ (Moves.mono (k := 0x10000000000000000000000000000000000000000000000000000000000000300000002000400) rfl State.laneShort_moves)
      exact Moves.refl
  try clear_value v6
  refine ResMoves.ite ?_ ?_
  · refine ResMoves.next ?_
    exact Moves.refl
  · refine ResMoves.ite ?_ ?_
    · refine ResMoves.next ?_
      refine Moves.trans ?_ (Moves.mono (k := 0x6000) rfl State.raiseErr_moves)
      exact h12
    · refine ResMoves.ite ?_ ?_
      · refine ResMoves.next ?_
        exact h12
      · refine ResMoves.next ?_
        refine Moves.trans ?_ (Moves.mono (k := 0x6000) rfl State.raiseErr_moves)
        exact h12

theorem execLoopOverrun_moves {a0 : Bool} {a1 : Nat} {s : State} :
    ResMoves 0x1000000000000000000000000000000000000000000000000000000000300000002006c00 s (execLoopOverrun a0 a1 s) := by
  unfold execLoopOverrun
  extract_lets -underBinder -merge -useContext v0 v1
  try clear_value v0
  try clear_value v1
  refine ResMoves.ite ?_ ?_
  · refine ResMoves.next ?_
    exact Moves.refl
  · refine ResMoves.ite ?_ ?_
    · refine ResMoves.ite ?_ ?_
      · refine ResMoves.next ?_
        refine Moves.trans ?_ (Moves.mono (k := 0x200000002000000) rfl State.axisOverrun_moves)
        exact Moves.refl
      · refine ResMoves.next ?_
        exact Moves.refl
    · refine ResMoves.ite ?_ ?_
      · refine ResMoves.next ?_
        refine Moves.trans ?_ (Moves.mono (k := 0x1000000000000000000000000000000000000000000000000000000000100000002006c00) rfl State.loopOverrun_moves)
        exact Moves.refl
      · refine ResMoves.next ?_
        exact Moves.refl

theorem execLoopState_moves {a0 : Nat} {a1 : Nat} {s : State} :
    ResMoves 0x10000000000000000000000000000000000000000000000000000000000000000000002002400 s (execLoopState a0 a1 s) := by
  unfold execLoopState
  refine ResMoves.trans ?_ (State.runCmd_moves rfl (fun st0 c1 => ?_))
  · exact Moves.refl
  · extract_lets -underBinder -merge -useContext v2 v3 v4 v5 v6
    try clear_value v2
    try clear_value v3
    try clear_value v4
    try clear_value v5
    try clear_value v6
    refine Moves.ite ?_ ?_
    · refine Moves.trans ?_ (Moves.mono (k := 0x10000000000000000000000000000000000000000000000000000000000000000000000000400) rfl State.start_moves)
      refine Moves.trans ?_ (Moves.mono (k := 0x2000000) rfl State.setAxis_moves)
      exact Moves.refl
    · refine Moves.trans ?_ (Moves.mono (k := 0x10000000000000000000000000000000000000000000000000000000000000000000000000400) rfl State.start_moves)
      refine Moves.trans ?_ (Moves.mono (k := 0x2000000) rfl State.setLoop_moves)
      exact Moves.refl

theorem execPwmPeriodStart_moves {a0 : Nat} {s : State} :
    ResMoves 0x200000002040000 s (execPwmPeriodStart a0 s) := by
  unfold execPwmPeriodStart
  extract_lets -underBinder -merge -useContext v0 v1 v2 v3 v4
  try clear_value v0
  try clear_value v1
  try clear_value v2
  have h5 : Moves 0x200000002040000 s v3 := by
    unfold v3
    refine Moves.le ?_ rfl
    exact Moves.refl
  try clear_value v3
  have h6 : Moves 0x200000002040000 s v4 := by
    unfold v4
    refine Moves.wr ?_ rfl
    exact h5
  try clear_value v4
  refine ResMoves.ite ?_ ?_
  · refine ResMoves.next ?_
    exact Moves.refl
  · refine ResMoves.next ?_
    refine Moves.trans ?_ (Moves.mono (k := 0x40000) rfl State.trigEvent_moves)
    refine Moves.trans ?_ (Moves.mono (k := 0x40000) rfl State.trigEvent_moves)
    exact h6

theorem execTableCapture_moves {a0 : Nat} {a1 : Nat} {s : State} :
    ResMoves 0x10000000000000000000000000000000000000000000000000000000000000200000002002400 s (execTableCapture a0 a1 s) := by
  unfold execTableCapture
  refine ResMoves.trans ?_ (State.runCmd_moves rfl (fun st0 c1 => ?_))
  · exact Moves.refl
  · extract_lets -underBinder -merge -useContext v2 v3
    try clear_value v2
    try clear_value v3
    refine Moves.trans ?_ (Moves.mono (k := 0x10000000000000000000000000000000000000000000000000000000000000000000000000400) rfl State.start_moves)
    refine Moves.trans ?_ (Moves.mono (k := 0x2000000) rfl State.setAxis_moves)
    refine Moves.wr ?_ rfl
    exact Moves.refl

end Sys2Proof.Machine
end

