-- ==== Sys2Proof/Laws/FrameTime.lean ====
section
/-! SUPPORT. What every definition of Machine/Time.lean may change (masks over `Part.bit`), one lemma each. -/

namespace Sys2Proof.Machine

open Sys2Proof

theorem State.tuRefresh_moves {s : State} :
    Moves 0x200 s (State.tuRefresh s) := by
  unfold State.tuRefresh
  extract_lets -underBinder -merge -useContext v0
  try clear_value v0
  refine Moves.tu ?_ rfl
  exact Moves.refl

theorem State.setIncrement_moves {s : State} {a0 : Nat} {a1 : Nat} :
    Moves 0x8000000000000000000000000 s (State.setIncrement s a0 a1) := by
  unfold State.setIncrement
  refine Moves.wr ?_ rfl
  refine Moves.wr ?_ rfl
  exact Moves.refl

theorem State.rtcFromTime_moves {s : State} :
    Moves 0x300 s (State.rtcFromTime s) := by
  unfold State.rtcFromTime
  extract_lets -underBinder -merge -useContext v0 v1
  try clear_value v0
  try clear_value v1
  refine Moves.upd (x := s) ?_ (fun p hp => by cases p <;> first | rfl | exact ⟨rfl, rfl⟩ | exact ⟨rfl, rfl, rfl⟩ | exact ⟨rfl, rfl, rfl, rfl⟩ | exact fun _ => List.prefix_rfl | exact List.prefix_rfl | exact fun _ h _ => h | exact fun _ _ => rfl | exact absurd hp (by decide)) rfl rfl rfl rfl rfl
  exact Moves.refl

theorem State.tuEnter_moves {s : State} {a0 : Sys2Proof.Machine.TimeState} :
    Moves 0x1000000000000000000000000000000000000000000000000000000000000000000006f00 s (State.tuEnter s a0) := by
  unfold State.tuEnter
  extract_lets -underBinder -merge -useContext v0 v1 v2 v3 v4 v5 v6 v7
  try clear_value v0
  try clear_value v1
  try clear_value v2
  try clear_value v3
  have h8 : Moves 0x1000000000000000000000000000000000000000000000000000000000000000000006f00 s v4 := by
    unfold v4
    refine Moves.tu ?_ rfl
    exact Moves.refl
  try clear_value v4
  try clear_value v5
  have h9 : Moves 0x1000000000000000000000000000000000000000000000000000000000000000000006f00 s v6 := by
    unfold v6
    refine Moves.ite ?_ ?_
    · refine Moves.tu ?_ rfl
      exact h8
    · exact h8
  try clear_value v6
  have h10 : Moves 0x1000000000000000000000000000000000000000000000000000000000000000000006f00 s v7 := by
    unfold v7
    refine Moves.trans ?_ (Moves.mono (k := 0x1000000000000000000000000000000000000000000000000000000000000000000006c00) rfl State.notify_moves)
    exact h9
  try clear_value v7
  refine Moves.ite ?_ ?_
  · exact Moves.refl
  · refine Moves.ite ?_ ?_
    · refine Moves.trans ?_ (Moves.mono (k := 0x300) rfl State.rtcFromTime_moves)
      exact h10
    · exact h10

theorem State.setSlew_moves {s : State} {a0 : Int} {a1 : Nat} :
    Moves 0x1000000000000000000000000000000000000000000000000000000000000000000006f00 s (State.setSlew s a0 a1) := by
  unfold State.setSlew
  extract_lets -underBinder -merge -useContext v0 v1
  try clear_value v0
  have h2 : Moves 0x1000000000000000000000000000000000000000000000000000000000000000000006f00 s v1 := by
    unfold v1
    refine Moves.tu ?_ rfl
    exact Moves.refl
  try clear_value v1
  refine Moves.ite ?_ ?_
  · refine Moves.trans ?_ (Moves.mono (k := 0x1000000000000000000000000000000000000000000000000000000000000000000006f00) rfl State.tuEnter_moves)
    exact h2
  · exact h2

theorem State.setStep_moves {s : State} {a0 : Int} {a1 : Int} {a2 : Option (Nat × Nat)} :
    Moves 0x200 s (State.setStep s a0 a1 a2) := by
  unfold State.setStep
  extract_lets -underBinder -merge -useContext v0
  try clear_value v0
  refine Moves.tu ?_ rfl
  exact Moves.refl

theorem State.tuLock_moves {s : State} :
    Moves 0x1000000000000000000000000000000000000000000000000000000000000000000006f00 s (State.tuLock s) := by
  unfold State.tuLock
  refine Moves.ite ?_ ?_
  · exact Moves.refl
  · refine Moves.trans ?_ (Moves.mono (k := 0x1000000000000000000000000000000000000000000000000000000000000000000006f00) rfl State.tuEnter_moves)
    exact Moves.refl

theorem State.tuHold_moves {s : State} :
    Moves 0x1000000000000000000000000000000000000000000000000000000000000000000006f00 s (State.tuHold s) := by
  unfold State.tuHold
  refine Moves.ite ?_ ?_
  · refine Moves.trans ?_ (Moves.mono (k := 0x1000000000000000000000000000000000000000000000000000000000000000000006f00) rfl State.tuEnter_moves)
    exact Moves.refl
  · exact Moves.refl

theorem State.adjCommit_moves {s : State} {a0 : Sys2Proof.Machine.WReq} {a1 : Option (Nat × Nat)} :
    Moves 0x1000000000000000000000000000000000000000000000008000000000000000000006f00 s (State.adjCommit s a0 a1).1 := by
  unfold State.adjCommit
  extract_lets -underBinder -merge -useContext v0 v1 v2 v3 v4 v5 v6 v7 v8 v9
  have h10 : Moves 0x1000000000000000000000000000000000000000000000008000000000000000000006f00 s v0 := by
    unfold v0
    refine Moves.trans ?_ (Moves.mono (k := 0x200) rfl State.tuRefresh_moves)
    exact Moves.refl
  try clear_value v0
  try clear_value v1
  try clear_value v2
  have h11 : Moves 0x1000000000000000000000000000000000000000000000008000000000000000000006f00 s v3 := by
    unfold v3
    refine Moves.trans ?_ (Moves.mono (k := 0x8000000000000000000000000) rfl State.setIncrement_moves)
    exact h10
  try clear_value v3
  try clear_value v4
  have h12 : Moves 0x1000000000000000000000000000000000000000000000008000000000000000000006f00 s v5 := by
    unfold v5
    refine Moves.tu ?_ rfl
    exact h11
  try clear_value v5
  have h13 : Moves 0x1000000000000000000000000000000000000000000000008000000000000000000006f00 s v6 := by
    unfold v6
    refine Moves.ite ?_ ?_
    · refine Moves.trans ?_ (Moves.mono (k := 0x1000000000000000000000000000000000000000000000000000000000000000000006f00) rfl State.setSlew_moves)
      exact h12
    · exact h12
  try clear_value v6
  have h14 : Moves 0x1000000000000000000000000000000000000000000000008000000000000000000006f00 s v7 := by
    unfold v7
    refine Moves.ite ?_ ?_
    · refine Moves.trans ?_ (Moves.mono (k := 0x200) rfl State.setStep_moves)
      exact h13
    · exact h13
  try clear_value v7
  try clear_value v8
  have h15 : Moves 0x1000000000000000000000000000000000000000000000008000000000000000000006f00 s v9 := by
    unfold v9
    refine Moves.ite ?_ ?_
    · refine Moves.trans ?_ (Moves.mono (k := 0x1000000000000000000000000000000000000000000000000000000000000000000006f00) rfl State.tuLock_moves)
      exact h14
    · refine Moves.ite ?_ ?_
      · refine Moves.trans ?_ (Moves.mono (k := 0x1000000000000000000000000000000000000000000000000000000000000000000006f00) rfl State.tuHold_moves)
        exact h14
      · exact h14
  try clear_value v9
  dsimp only
  exact h15

theorem State.announceNote_moves {s : State} {a0 : Nat} {a1 : Sys2Proof.PtpFrame} :
    Moves 0x200 s (State.announceNote s a0 a1) := by
  unfold State.announceNote
  extract_lets -underBinder -merge -useContext v0
  try clear_value v0
  refine Moves.tu ?_ rfl
  exact Moves.refl

theorem State.tuPortDown_moves {s : State} {a0 : Nat} :
    Moves 0x1000000000000000000000000000000000000000000000008000000000000000000006f00 s (State.tuPortDown s a0) := by
  unfold State.tuPortDown
  extract_lets -underBinder -merge -useContext v0 v1 v2 v3
  try clear_value v0
  try clear_value v1
  have h4 : Moves 0x1000000000000000000000000000000000000000000000008000000000000000000006f00 s v2 := by
    unfold v2
    refine Moves.tu ?_ rfl
    exact Moves.refl
  try clear_value v2
  have h5 : Moves 0x1000000000000000000000000000000000000000000000008000000000000000000006f00 s v3 := by
    unfold v3
    refine Moves.wr ?_ rfl
    refine Moves.wr ?_ rfl
    exact h4
  try clear_value v3
  refine Moves.ite ?_ ?_
  · refine Moves.trans ?_ (Moves.mono (k := 0x1000000000000000000000000000000000000000000000000000000000000000000006f00) rfl State.tuEnter_moves)
    exact h5
  · exact h5

theorem State.setPstates_moves {s : State} {a0 : List Nat} :
    Moves 0x8000000000000000000000000 s (State.setPstates s a0) := by
  unfold State.setPstates
  refine Moves.foldl ?_ (fun st0 a1 => ?_)
  · exact Moves.refl
  · refine Moves.wr ?_ rfl
    exact Moves.refl

theorem State.servoHold_moves {s : State} :
    Moves 0x1000000000000000000000000000000000000000000000000000000000000000000006f00 s (State.servoHold s) := by
  unfold State.servoHold
  refine Moves.ite ?_ ?_
  · refine Moves.trans ?_ (Moves.mono (k := 0x1000000000000000000000000000000000000000000000000000000000000000000006f00) rfl State.tuEnter_moves)
    refine Moves.trans ?_ (Moves.mono (k := 0x200) rfl State.tuRefresh_moves)
    exact Moves.refl
  · exact Moves.refl

theorem State.bmca_moves {s : State} {a0 : List Nat} {a1 : Option (Nat × Nat)} :
    Moves 0x1000000000000000000000000000000000000000000000008000000000000000000006f00 s (State.bmca s a0 a1) := by
  unfold State.bmca
  extract_lets -underBinder -merge -useContext v0 v1 v2 v3 v4 v5
  have h6 : Moves 0x1000000000000000000000000000000000000000000000008000000000000000000006f00 s v0 := by
    unfold v0
    refine Moves.trans ?_ (Moves.mono (k := 0x8000000000000000000000000) rfl State.setPstates_moves)
    exact Moves.refl
  try clear_value v0
  try clear_value v1
  try clear_value v2
  have h7 : Moves 0x1000000000000000000000000000000000000000000000008000000000000000000006f00 s v3 := by
    unfold v3
    refine Moves.tu ?_ rfl
    exact h6
  try clear_value v3
  try clear_value v4
  have h8 : Moves 0x1000000000000000000000000000000000000000000000008000000000000000000006f00 s v5 := by
    unfold v5
    refine Moves.tu ?_ rfl
    exact h7
  try clear_value v5
  refine Moves.ite ?_ ?_
  · exact h7
  · refine Moves.ite ?_ ?_
    · refine Moves.trans ?_ (Moves.mono (k := 0x1000000000000000000000000000000000000000000000000000000000000000000006f00) rfl State.servoHold_moves)
      exact h8
    · exact h8

theorem State.delayTake_moves {s : State} {a0 : Nat} {a1 : Int} :
    Moves 0x8000000000000000000000200 s (State.delayTake s a0 a1) := by
  unfold State.delayTake
  extract_lets -underBinder -merge -useContext v0 v1 v2 v3
  try clear_value v0
  try clear_value v1
  have h4 : Moves 0x8000000000000000000000200 s v2 := by
    unfold v2
    refine Moves.tu ?_ rfl
    exact Moves.refl
  try clear_value v2
  have h5 : Moves 0x8000000000000000000000200 s v3 := by
    unfold v3
    refine Moves.wr ?_ rfl
    exact h4
  try clear_value v3
  refine Moves.ite ?_ ?_
  · refine Moves.wr ?_ rfl
    exact h5
  · exact h5

theorem State.utcTake_moves {s : State} {a0 : Sys2Proof.PtpFrame} :
    Moves 0x8000000000000000000000000 s (State.utcTake s a0) := by
  unfold State.utcTake
  refine Moves.ite ?_ ?_
  · refine Moves.wr ?_ rfl
    refine Moves.wr ?_ rfl
    refine Moves.wr ?_ rfl
    exact Moves.refl
  · exact Moves.refl

theorem State.ethAnnounce_moves {s : State} {a0 : Nat} {a1 : Sys2Proof.PtpFrame} :
    Moves 0x1000000000000000000000000000000000000000000000008000000000000000000006f00 s (State.ethAnnounce s a0 a1) := by
  unfold State.ethAnnounce
  extract_lets -underBinder -merge -useContext v0 v1
  have h2 : Moves 0x1000000000000000000000000000000000000000000000008000000000000000000006f00 s v0 := by
    unfold v0
    refine Moves.trans ?_ (Moves.mono (k := 0x200) rfl State.announceNote_moves)
    exact Moves.refl
  try clear_value v0
  have h3 : Moves 0x1000000000000000000000000000000000000000000000008000000000000000000006f00 s v1 := by
    unfold v1
    refine Moves.ite ?_ ?_
    · refine Moves.trans ?_ (Moves.mono (k := 0x1000000000000000000000000000000000000000000000008000000000000000000006f00) rfl State.bmca_moves)
      exact h2
    · exact h2
  try clear_value v1
  refine Moves.ite ?_ ?_
  · refine Moves.trans ?_ (Moves.mono (k := 0x8000000000000000000000000) rfl State.utcTake_moves)
    exact h3
  · exact h3

theorem State.ptpPut_moves {s : State} {a0 : Nat} {a1 : Sys2Proof.Machine.PtpMsg} :
    Moves 0x200 s (State.ptpPut s a0 a1) := by
  unfold State.ptpPut
  extract_lets -underBinder -merge -useContext v0
  try clear_value v0
  refine Moves.tu ?_ rfl
  exact Moves.refl

theorem State.ethSend_moves {s : State} {a0 : Nat} {a1 : Nat} {a2 : Nat} :
    Moves 0x200 s (State.ethSend s a0 a1 a2) := by
  unfold State.ethSend
  refine Moves.trans ?_ (Moves.mono (k := 0x200) rfl State.ptpPut_moves)
  exact Moves.refl

theorem State.syncTake_moves {s : State} {a0 : Int} :
    Moves 0x1000000000000000000000000000000000000000000000000000000000000000000006f00 s (State.syncTake s a0) := by
  unfold State.syncTake
  extract_lets -underBinder -merge -useContext v0 v1 v2
  try clear_value v0
  try clear_value v1
  have h3 : Moves 0x1000000000000000000000000000000000000000000000000000000000000000000006f00 s v2 := by
    unfold v2
    refine Moves.tu ?_ rfl
    exact Moves.refl
  try clear_value v2
  refine Moves.ite ?_ ?_
  · refine Moves.ite ?_ ?_
    · exact h3
    · refine Moves.trans ?_ (Moves.mono (k := 0x1000000000000000000000000000000000000000000000000000000000000000000006f00) rfl State.tuLock_moves)
      refine Moves.trans ?_ (Moves.mono (k := 0x200) rfl State.tuRefresh_moves)
      exact h3
  · exact h3

theorem State.ethSync_moves {s : State} {a0 : Nat} {a1 : Int} {a2 : Int} :
    Moves 0x1000000000000000000000000000000000000000000000000000000000000000000006f00 s (State.ethSync s a0 a1 a2) := by
  unfold State.ethSync
  refine Moves.trans ?_ (Moves.mono (k := 0x1000000000000000000000000000000000000000000000000000000000000000000006f00) rfl State.syncTake_moves)
  exact Moves.refl

theorem State.setEthHalf_moves {s : State} {a0 : Nat} {a1 : Nat} {a2 : Option (Nat × Int × Int)} :
    Moves 0x200 s (State.setEthHalf s a0 a1 a2) := by
  unfold State.setEthHalf
  extract_lets -underBinder -merge -useContext v0
  try clear_value v0
  refine Moves.tu ?_ rfl
  exact Moves.refl

theorem State.setEthDelay_moves {s : State} {a0 : Nat} {a1 : Int} :
    Moves 0x200 s (State.setEthDelay s a0 a1) := by
  unfold State.setEthDelay
  extract_lets -underBinder -merge -useContext v0
  try clear_value v0
  refine Moves.tu ?_ rfl
  exact Moves.refl

theorem State.ethTime_moves {s : State} {a0 : Nat} {a1 : Sys2Proof.PtpFrame} :
    Moves 0x1000000000000000000000000000000000000000000000008000000000000000000006f00 s (State.ethTime s a0 a1) := by
  unfold State.ethTime
  extract_lets -underBinder -merge -useContext v0
  try clear_value v0
  refine Moves.ite ?_ ?_
  · exact Moves.refl
  · split
    · refine Moves.ite ?_ ?_
      · exact Moves.refl
      · refine Moves.ite ?_ ?_
        · refine Moves.trans ?_ (Moves.mono (k := 0x200) rfl State.setEthHalf_moves)
          exact Moves.refl
        · refine Moves.trans ?_ (Moves.mono (k := 0x1000000000000000000000000000000000000000000000000000000000000000000006f00) rfl State.ethSync_moves)
          exact Moves.refl
    · split
      · refine Moves.ite ?_ ?_
        · refine Moves.trans ?_ (Moves.mono (k := 0x1000000000000000000000000000000000000000000000000000000000000000000006f00) rfl State.ethSync_moves)
          refine Moves.trans ?_ (Moves.mono (k := 0x200) rfl State.setEthHalf_moves)
          exact Moves.refl
        · exact Moves.refl
      · exact Moves.refl
    · refine Moves.trans ?_ (Moves.mono (k := 0x200) rfl State.ethSend_moves)
      refine Moves.trans ?_ (Moves.mono (k := 0x200) rfl State.ethSend_moves)
      exact Moves.refl
    · refine Moves.ite ?_ ?_
      · refine Moves.trans ?_ (Moves.mono (k := 0x200) rfl State.setEthHalf_moves)
        exact Moves.refl
      · refine Moves.elim ?_ (fun a1 => ?_)
        · exact Moves.refl
        · refine Moves.trans ?_ (Moves.mono (k := 0x200) rfl State.setEthDelay_moves)
          exact Moves.refl
    · split
      · refine Moves.trans ?_ (Moves.mono (k := 0x200) rfl State.setEthHalf_moves)
        refine Moves.elim ?_ (fun a2 => ?_)
        · exact Moves.refl
        · refine Moves.trans ?_ (Moves.mono (k := 0x200) rfl State.setEthDelay_moves)
          exact Moves.refl
      · exact Moves.refl
    · refine Moves.trans ?_ (Moves.mono (k := 0x1000000000000000000000000000000000000000000000008000000000000000000006f00) rfl State.ethAnnounce_moves)
      exact Moves.refl
    · exact Moves.refl

theorem State.ptpSend_moves {s : State} {a0 : Nat} {a1 : Nat} {a2 : Nat} {a3 : Nat} :
    Moves 0x40000200 s (State.ptpSend s a0 a1 a2 a3) := by
  unfold State.ptpSend
  extract_lets -underBinder -merge -useContext v0 v1 v2 v3
  have h4 : Moves 0x40000200 s v0 := by
    unfold v0
    refine Moves.trans ?_ (Moves.mono (k := 0x200) rfl State.ptpPut_moves)
    exact Moves.refl
  try clear_value v0
  try clear_value v1
  have h5 : Moves 0x40000200 s v2 := by
    unfold v2
    refine Moves.trans ?_ (Moves.mono (k := 0x40000000) rfl State.setPort_moves)
    exact h4
  try clear_value v2
  try clear_value v3
  refine Moves.rb ?_ rfl
  exact h5

theorem State.ptpNext_moves {s : State} {a0 : Nat} {a1 : Nat} {a2 : Nat} :
    Moves 0x40000200 s (State.ptpNext s a0 a1 a2) := by
  unfold State.ptpNext
  refine Moves.trans ?_ (Moves.mono (k := 0x40000200) rfl State.ptpSend_moves)
  exact Moves.refl

theorem execAnnounceReceiptTimeout_moves {a0 : List Nat} {s : State} :
    ResMoves 0x1000000000000000000000000000000000000000000000008000000000000000000006f00 s (execAnnounceReceiptTimeout a0 s) := by
  unfold execAnnounceReceiptTimeout
  split
  · refine ResMoves.next ?_
    exact Moves.refl
  · refine ResMoves.ite ?_ ?_
    · refine ResMoves.next ?_
      refine Moves.trans ?_ (Moves.mono (k := 0x1000000000000000000000000000000000000000000000008000000000000000000006f00) rfl State.bmca_moves)
      refine Moves.trans ?_ (Moves.mono (k := 0x1000000000000000000000000000000000000000000000000000000000000000000006f00) rfl State.servoHold_moves)
      exact Moves.refl
    · refine ResMoves.next ?_
      exact Moves.refl

theorem execAnnounceSend_moves {a0 : List Nat} {s : State} :
    ResMoves 0x1000000000000000000000000000000000000000000000008000000000000000040006f00 s (execAnnounceSend a0 s) := by
  unfold execAnnounceSend
  extract_lets -underBinder -merge -useContext v0 v1 v2
  try clear_value v0
  try clear_value v1
  have h3 : Moves 0x1000000000000000000000000000000000000000000000008000000000000000040006f00 s v2 := by
    unfold v2
    refine Moves.trans ?_ (Moves.mono (k := 0x1000000000000000000000000000000000000000000000008000000000000000000006f00) rfl State.bmca_moves)
    refine Moves.tu ?_ rfl
    exact Moves.refl
  try clear_value v2
  refine ResMoves.ite ?_ ?_
  · refine ResMoves.next ?_
    exact Moves.refl
  · refine ResMoves.next ?_
    refine Moves.foldl ?_ (fun st4 a5 => ?_)
    · exact h3
    · refine Moves.trans ?_ (Moves.mono (k := 0x40000200) rfl State.ptpNext_moves)
      exact Moves.refl

theorem execPdelayReqSend_moves {s : State} :
    ResMoves 0x40000200 s (execPdelayReqSend s) := by
  unfold execPdelayReqSend
  extract_lets -underBinder -merge -useContext v0 v1 v2 v3
  try clear_value v0
  try clear_value v1
  have h4 : Moves 0x40000200 s v2 := by
    unfold v2
    refine Moves.tu ?_ rfl
    exact Moves.refl
  try clear_value v2
  have h5 : Moves 0x40000200 s v3 := by
    unfold v3
    refine Moves.foldl ?_ (fun st6 a7 => ?_)
    · exact h4
    · refine Moves.trans ?_ (Moves.mono (k := 0x40000200) rfl State.ptpNext_moves)
      exact Moves.refl
  try clear_value v3
  refine ResMoves.ite ?_ ?_
  · refine ResMoves.next ?_
    exact Moves.refl
  · refine ResMoves.next ?_
    refine Moves.ite ?_ ?_
    · refine Moves.foldl ?_ (fun st8 a9 => ?_)
      · exact h5
      · refine Moves.trans ?_ (Moves.mono (k := 0x200) rfl State.ethSend_moves)
        exact Moves.refl
    · exact h5

theorem execRtcSet_moves {s : State} :
    ResMoves 0x300 s (execRtcSet s) := by
  unfold execRtcSet
  refine ResMoves.ite ?_ ?_
  · refine ResMoves.next ?_
    refine Moves.trans ?_ (Moves.mono (k := 0x300) rfl State.rtcFromTime_moves)
    exact Moves.refl
  · refine ResMoves.next ?_
    exact Moves.refl

theorem execServoTimeout_moves {s : State} :
    ResMoves 0x1000000000000000000000000000000000000000000000000000000000000000000006f00 s (execServoTimeout s) := by
  unfold execServoTimeout
  refine ResMoves.ite ?_ ?_
  · refine ResMoves.next ?_
    refine Moves.trans ?_ (Moves.mono (k := 0x1000000000000000000000000000000000000000000000000000000000000000000006f00) rfl State.tuEnter_moves)
    exact Moves.refl
  · refine ResMoves.next ?_
    exact Moves.refl

theorem execSlewEnd_moves {s : State} :
    ResMoves 0x200 s (execSlewEnd s) := by
  unfold execSlewEnd
  extract_lets -underBinder -merge -useContext v0
  try clear_value v0
  refine ResMoves.ite ?_ ?_
  · refine ResMoves.next ?_
    refine Moves.tu ?_ rfl
    exact Moves.refl
  · refine ResMoves.next ?_
    exact Moves.refl

theorem execSyncSend_moves {s : State} :
    ResMoves 0x40000200 s (execSyncSend s) := by
  unfold execSyncSend
  extract_lets -underBinder -merge -useContext v0 v1 v2
  try clear_value v0
  try clear_value v1
  have h3 : Moves 0x40000200 s v2 := by
    unfold v2
    refine Moves.tu ?_ rfl
    exact Moves.refl
  try clear_value v2
  refine ResMoves.ite ?_ ?_
  · refine ResMoves.next ?_
    exact Moves.refl
  · refine ResMoves.next ?_
    refine Moves.foldl ?_ (fun st4 a5 => ?_)
    · exact h3
    · refine Moves.trans ?_ (Moves.mono (k := 0x40000200) rfl State.ptpNext_moves)
      exact Moves.refl

theorem execTimeFrameReceive_moves {a0 : Nat} {a1 : Sys2Proof.PtpFrame} {s : State} :
    ResMoves 0x1000000000000000000000000000000000000000000000008000000000000000040006f00 s (execTimeFrameReceive a0 a1 s) := by
  unfold execTimeFrameReceive
  extract_lets -underBinder -merge -useContext v0
  try clear_value v0
  refine ResMoves.ite ?_ ?_
  · refine ResMoves.next ?_
    exact Moves.refl
  · split
    · refine ResMoves.next ?_
      refine Moves.ite ?_ ?_
      · refine Moves.trans ?_ (Moves.mono (k := 0x1000000000000000000000000000000000000000000000000000000000000000000006f00) rfl State.syncTake_moves)
        exact Moves.refl
      · exact Moves.refl
    · refine ResMoves.next ?_
      refine Moves.trans ?_ (Moves.mono (k := 0x40000200) rfl State.ptpSend_moves)
      exact Moves.refl
    · refine ResMoves.next ?_
      refine Moves.elim ?_ (fun a1 => ?_)
      · exact Moves.refl
      · refine Moves.trans ?_ (Moves.mono (k := 0x8000000000000000000000200) rfl State.delayTake_moves)
        exact Moves.refl
    · extract_lets -underBinder -merge -useContext v2 v3
      try clear_value v2
      have h4 : Moves 0x1000000000000000000000000000000000000000000000008000000000000000040006f00 s v3 := by
        unfold v3
        refine Moves.trans ?_ (Moves.mono (k := 0x200) rfl State.announceNote_moves)
        exact Moves.refl
      try clear_value v3
      refine ResMoves.next ?_
      refine Moves.ite ?_ ?_
      · refine Moves.trans ?_ (Moves.mono (k := 0x8000000000000000000000000) rfl State.utcTake_moves)
        refine Moves.ite ?_ ?_
        · refine Moves.trans ?_ (Moves.mono (k := 0x1000000000000000000000000000000000000000000000000000000000000000000006f00) rfl State.servoHold_moves)
          exact h4
        · exact h4
      · exact h4
    · refine ResMoves.next ?_
      exact Moves.refl

theorem execTimeStepApply_moves {s : State} :
    ResMoves 0x100010000000000000000000000000000000000000000000000000000000000000000000c6f00 s (execTimeStepApply s) := by
  unfold execTimeStepApply
  split
  · refine ResMoves.next ?_
    exact Moves.refl
  · extract_lets -underBinder -merge -useContext v0 v1 v2 v3 v4 v5
    try clear_value v0
    try clear_value v1
    have h6 : Moves 0x100010000000000000000000000000000000000000000000000000000000000000000000c6f00 s v2 := by
      unfold v2
      refine Moves.tu ?_ rfl
      exact Moves.refl
    try clear_value v2
    have h7 : Moves 0x100010000000000000000000000000000000000000000000000000000000000000000000c6f00 s v3 := by
      unfold v3
      refine Moves.trans ?_ (Moves.mono (k := 0x1000000000000000000000000000000000000000000000000000000000000000000006c00) rfl State.notify_moves)
      exact h6
    try clear_value v3
    have h8 : Moves 0x100010000000000000000000000000000000000000000000000000000000000000000000c6f00 s v4 := by
      unfold v4
      refine Moves.trans ?_ (Moves.mono (k := 0x1000000000000000000000000000000000000000000000000000000000000000000006f00) rfl State.tuEnter_moves)
      exact h7
    try clear_value v4
    have h9 : Moves 0x100010000000000000000000000000000000000000000000000000000000000000000000c6f00 s v5 := by
      unfold v5
      refine Moves.ite ?_ ?_
      · refine Moves.trans ?_ (Moves.mono (k := 0xc0000) rfl State.pathsStart_moves)
        exact h8
      · exact h8
    try clear_value v5
    refine ResMoves.ite ?_ ?_
    · refine ResMoves.next ?_
      exact Moves.refl
    · refine ResMoves.next ?_
      refine Moves.trans ?_ (Moves.mono (k := 0x10000000000000000000000000000000000000000000000000000000000000000000000000400) rfl State.settle_moves)
      exact h9

theorem execTuHold_moves {s : State} :
    ResMoves 0x1000000000000000000000000000000000000000000000000000000000000000000006f00 s (execTuHold s) := by
  unfold execTuHold
  refine ResMoves.ite ?_ ?_
  · refine ResMoves.next ?_
    refine Moves.trans ?_ (Moves.mono (k := 0x1000000000000000000000000000000000000000000000000000000000000000000006f00) rfl State.tuHold_moves)
    refine Moves.trans ?_ (Moves.mono (k := 0x200) rfl State.tuRefresh_moves)
    exact Moves.refl
  · refine ResMoves.next ?_
    exact Moves.refl

theorem execTuIncrementWrite_moves {a0 : Sys2Proof.W32} {a1 : Nat} {s : State} :
    ResMoves 0x8000000000000000000000200 s (execTuIncrementWrite a0 a1 s) := by
  unfold execTuIncrementWrite
  refine ResMoves.ite ?_ ?_
  · refine ResMoves.next ?_
    refine Moves.trans ?_ (Moves.mono (k := 0x8000000000000000000000000) rfl State.setIncrement_moves)
    refine Moves.trans ?_ (Moves.mono (k := 0x200) rfl State.tuRefresh_moves)
    exact Moves.refl
  · refine ResMoves.next ?_
    exact Moves.refl

theorem execTuLock_moves {s : State} :
    ResMoves 0x1000000000000000000000000000000000000000000000000000000000000000000006f00 s (execTuLock s) := by
  unfold execTuLock
  refine ResMoves.ite ?_ ?_
  · refine ResMoves.next ?_
    refine Moves.trans ?_ (Moves.mono (k := 0x1000000000000000000000000000000000000000000000000000000000000000000006f00) rfl State.tuLock_moves)
    refine Moves.trans ?_ (Moves.mono (k := 0x200) rfl State.tuRefresh_moves)
    exact Moves.refl
  · refine ResMoves.next ?_
    exact Moves.refl

theorem execTuSlew_moves {a0 : Int} {a1 : Nat} {s : State} :
    ResMoves 0x1000000000000000000000000000000000000000000000000000000000000000000006f00 s (execTuSlew a0 a1 s) := by
  unfold execTuSlew
  refine ResMoves.ite ?_ ?_
  · refine ResMoves.next ?_
    refine Moves.trans ?_ (Moves.mono (k := 0x1000000000000000000000000000000000000000000000000000000000000000000006f00) rfl State.setSlew_moves)
    refine Moves.trans ?_ (Moves.mono (k := 0x200) rfl State.tuRefresh_moves)
    exact Moves.refl
  · refine ResMoves.next ?_
    exact Moves.refl

theorem execTuStepRequest_moves {a0 : Int} {a1 : Int} {s : State} :
    ResMoves 0x200 s (execTuStepRequest a0 a1 s) := by
  unfold execTuStepRequest
  refine ResMoves.ite ?_ ?_
  · refine ResMoves.next ?_
    refine Moves.trans ?_ (Moves.mono (k := 0x200) rfl State.setStep_moves)
    refine Moves.trans ?_ (Moves.mono (k := 0x200) rfl State.tuRefresh_moves)
    exact Moves.refl
  · refine ResMoves.next ?_
    exact Moves.refl

end Sys2Proof.Machine
end

