-- ==== Sys2Proof/Laws/FrameLanes.lean ====
section
/-! SUPPORT. What every definition of Machine/Lanes.lean may change (masks over `Part.bit`), one lemma each. -/

namespace Sys2Proof.Machine

open Sys2Proof

theorem nextOf_moves {m : Nat} {s : State} {r : Res} (h : ResMoves m s r) : Moves m s (nextOf s r) := by
  obtain ⟨t, rfl, ht⟩ := h
  exact ht

theorem State.authDrop_moves {s : State} {a0 : Nat} {a1 : Sys2Proof.Machine.Field}
    (ha1 : Nat.testBit 0x1000000000000000000000000000000000000000000000003000000000000000040006c00
    (Part.regs a1.unit).bit = true) :
    Moves 0x1000000000000000000000000000000000000000000000003000000000000000040006c00 s (State.authDrop s a0 a1) := by
  unfold State.authDrop
  extract_lets -underBinder -merge -useContext v0 v1 v2
  try clear_value v0
  try clear_value v1
  have h3 : Moves 0x1000000000000000000000000000000000000000000000003000000000000000040006c00 s v2 := by
    unfold v2
    refine Moves.bump ?_ ha1
    exact Moves.refl
  try clear_value v2
  refine Moves.ite ?_ ?_
  · refine Moves.trans ?_ (Moves.mono (k := 0x1000000000000000000000000000000000000000000000000000000000000000000006c00) rfl State.notify_moves)
    refine Moves.trans ?_ (Moves.mono (k := 0x40000000) rfl State.setPort_moves)
    exact h3
  · refine Moves.trans ?_ (Moves.mono (k := 0x40000000) rfl State.setPort_moves)
    exact h3

theorem State.authFail_moves {s : State} {a0 : Nat} :
    Moves 0x40000000 s (State.authFail s a0) := by
  unfold State.authFail
  extract_lets -underBinder -merge -useContext v0
  try clear_value v0
  refine Moves.trans ?_ (Moves.mono (k := 0x40000000) rfl State.setPort_moves)
  exact Moves.refl

theorem State.authSend_moves {s : State} {a0 : Nat} {a1 : Nat} {a2 : Nat} :
    Moves 0x40000000 s (State.authSend s a0 a1 a2) := by
  unfold State.authSend
  refine Moves.trans ?_ (Moves.mono (k := 0x40000000) rfl State.rbSend_moves)
  exact Moves.refl

theorem State.authReceive_moves {s : State} {a0 : Nat} {a1 : List Sys2Proof.W32} {a2 : Nat} :
    Moves 0x40000000 s (State.authReceive s a0 a1 a2) := by
  unfold State.authReceive
  extract_lets -underBinder -merge -useContext v0 v1 v2
  try clear_value v0
  try clear_value v1
  have h3 : ∀ y4, Moves 0x40000000 s (v2 y4) := by
    intro y4
    unfold v2
    beta_reduce
    refine Moves.trans ?_ (Moves.mono (k := 0x40000000) rfl State.authSend_moves)
    refine Moves.trans ?_ (Moves.mono (k := 0x40000000) rfl State.setPort_moves)
    exact Moves.refl
  try clear_value v2
  refine Moves.ite ?_ ?_
  · refine Moves.trans ?_ (Moves.mono (k := 0x40000000) rfl State.authFail_moves)
    exact Moves.refl
  · refine Moves.ite ?_ ?_
    · refine Moves.trans ?_ (Moves.mono (k := 0x40000000) rfl State.authFail_moves)
      refine Moves.trans ?_ (Moves.mono (k := 0x40000000) rfl State.authSend_moves)
      exact Moves.refl
    · refine Moves.ite ?_ ?_
      · refine Moves.trans ?_ (Moves.mono (k := 0x40000000) rfl State.authFail_moves)
        refine Moves.trans ?_ (Moves.mono (k := 0x40000000) rfl State.authSend_moves)
        exact Moves.refl
      · refine Moves.ite ?_ ?_
        · exact h3 _
        · refine Moves.ite ?_ ?_
          · exact h3 _
          · refine Moves.ite ?_ ?_
            · exact h3 _
            · exact Moves.refl

theorem State.dropFrames_moves {s : State} {a0 : Nat} :
    Moves 0x40000000 s (State.dropFrames s a0) := by
  unfold State.dropFrames
  extract_lets -underBinder -merge -useContext v0
  try clear_value v0
  refine Moves.trans ?_ (Moves.mono (k := 0x40000000) rfl State.setPort_moves)
  exact Moves.refl

theorem State.setLaneAt_moves {s : State} {a0 : Nat} :
    Moves 0x40000000 s (State.setLaneAt s a0) := by
  unfold State.setLaneAt
  extract_lets -underBinder -merge -useContext v0
  try clear_value v0
  refine Moves.rb ?_ rfl
  exact Moves.refl

theorem State.laneDown_moves {s : State} {a0 : Nat} :
    Moves 0x1000000000000000040000000 s (State.laneDown s a0) := by
  unfold State.laneDown
  refine Moves.trans ?_ (Moves.mono (k := 0x40000000) rfl State.setLaneAt_moves)
  refine Moves.wr ?_ rfl
  refine Moves.wr ?_ rfl
  exact Moves.refl

theorem State.portDown_moves {s : State} {a0 : Nat} {a1 : Nat} :
    Moves 0x100000000000000000000000000000000000000000000000b000000000000000040006f00 s (State.portDown s a0 a1) := by
  unfold State.portDown
  extract_lets -underBinder -merge -useContext v0 v1 v2 v3 v4 v5 v6
  try clear_value v0
  try clear_value v1
  have h7 : Moves 0x100000000000000000000000000000000000000000000000b000000000000000040006f00 s v2 := by
    unfold v2
    refine Moves.foldl ?_ (fun st8 a9 => ?_)
    · exact Moves.refl
    · refine Moves.trans ?_ (Moves.mono (k := 0x1000000000000000040000000) rfl State.laneDown_moves)
      exact Moves.refl
  try clear_value v2
  try clear_value v3
  have h10 : Moves 0x100000000000000000000000000000000000000000000000b000000000000000040006f00 s v4 := by
    unfold v4
    refine Moves.trans ?_ (Moves.mono (k := 0x40000000) rfl State.setPort_moves)
    exact h7
  try clear_value v4
  have h11 : Moves 0x100000000000000000000000000000000000000000000000b000000000000000040006f00 s v5 := by
    unfold v5
    refine Moves.trans ?_ (Moves.mono (k := 0x1000000000000000000000000000000000000000000000008000000000000000000006f00) rfl State.tuPortDown_moves)
    refine Moves.putWord ?_ rfl
    exact h10
  try clear_value v5
  have h12 : Moves 0x100000000000000000000000000000000000000000000000b000000000000000040006f00 s v6 := by
    unfold v6
    refine Moves.ite ?_ ?_
    · exact h11
    · refine Moves.foldl ?_ (fun st13 a14 => ?_)
      · exact h11
      · refine Moves.wr ?_ rfl
        exact Moves.refl
  try clear_value v6
  refine Moves.ite ?_ ?_
  · refine Moves.trans ?_ (Moves.mono (k := 0x1000000000000000000000000000000000000000000000000000000000000000000006c00) rfl State.notify_moves)
    exact h12
  · exact h11

theorem State.laneFails_moves {s : State} {a0 : Nat} :
    Moves 0x100000000000000000000000000000000000000000000000b000000000000000040006f00 s (State.laneFails s a0) := by
  unfold State.laneFails
  split
  · refine Moves.trans ?_ (Moves.mono (k := 0x1000000000000000040000000) rfl State.laneDown_moves)
    refine Moves.trans ?_ (Moves.mono (k := 0x100000000000000000000000000000000000000000000000b000000000000000040006f00) rfl State.portDown_moves)
    exact Moves.refl
  · refine Moves.trans ?_ (Moves.mono (k := 0x1000000000000000040000000) rfl State.laneDown_moves)
    exact Moves.refl

theorem State.badBlock_moves {s : State} {a0 : Nat} {a1 : Nat} {a2 : Nat} :
    Moves 0x100000000000000000000000000000000000000000000000b000000000000000040006f00 s (State.badBlock s a0 a1 a2) := by
  unfold State.badBlock
  extract_lets -underBinder -merge -useContext v0 v1
  have h2 : Moves 0x100000000000000000000000000000000000000000000000b000000000000000040006f00 s v0 := by
    unfold v0
    refine Moves.trans ?_ (Moves.mono (k := 0x40000000) rfl State.dropFrames_moves)
    refine Moves.bump ?_ rfl
    exact Moves.refl
  try clear_value v0
  try clear_value v1
  refine Moves.ite ?_ ?_
  · refine Moves.trans ?_ (Moves.mono (k := 0x100000000000000000000000000000000000000000000000b000000000000000040006f00) rfl State.laneFails_moves)
    refine Moves.trans ?_ (Moves.mono (k := 0x1000000000000000000000000000000000000000000000000000000000000000000006c00) rfl State.notify_moves)
    refine Moves.rb ?_ rfl
    exact h2
  · exact h2

theorem State.sendTopo_moves {s : State} :
    Moves 0x40000000 s (State.sendTopo s) := by
  unfold State.sendTopo
  extract_lets -underBinder -merge -useContext v0 v1
  try clear_value v0
  try clear_value v1
  refine Moves.trans ?_ (Moves.mono (k := 0x40000000) rfl State.rbSend_moves)
  exact Moves.refl

theorem State.frameErr_moves {s : State} {a0 : Nat} :
    Moves 0x2000000000000000040000000 s (State.frameErr s a0) := by
  unfold State.frameErr
  refine Moves.bump ?_ rfl
  refine Moves.trans ?_ (Moves.mono (k := 0x40000000) rfl State.dropFrames_moves)
  exact Moves.refl

theorem State.topoReceive_moves {s : State} {a0 : Nat} {a1 : Nat} {a2 : List Sys2Proof.W32} :
    Moves 0x1000000000000000000000000000000000000000000000000000000000002000040607c00 s (State.topoReceive s a0 a1 a2) := by
  unfold State.topoReceive
  extract_lets -underBinder -merge -useContext v0 v1 v2 v3 v4 v5 v6 v7 v8
  try clear_value v0
  try clear_value v1
  try clear_value v2
  try clear_value v3
  try clear_value v4
  have h9 : Moves 0x1000000000000000000000000000000000000000000000000000000000002000040607c00 s v5 := by
    unfold v5
    refine Moves.trans ?_ (Moves.mono (k := 0x200000) rfl State.setDev_moves)
    exact Moves.refl
  try clear_value v5
  try clear_value v6
  have h10 : Moves 0x1000000000000000000000000000000000000000000000000000000000002000040607c00 s v7 := by
    unfold v7
    refine Moves.rb ?_ rfl
    exact h9
  try clear_value v7
  have h11 : Moves 0x1000000000000000000000000000000000000000000000000000000000002000040607c00 s v8 := by
    unfold v8
    refine Moves.ite ?_ ?_
    · refine Moves.trans ?_ (Moves.mono (k := 0x1000000000000000000000000000000000000000000000000000000000002000000006c00) rfl State.rxOf_moves)
      refine Moves.trans ?_ (Moves.mono (k := 0x1000000000000000000000000000000000000000000000000000000000000000000006c00) rfl State.notify_moves)
      exact h10
    · exact h10
  try clear_value v8
  refine Moves.ite ?_ ?_
  · refine Moves.ite ?_ ?_
    · exact Moves.refl
    · refine Moves.trans ?_ (Moves.mono (k := 0x1000000000000000000000000000000000000000000000000000000000000000000006c00) rfl State.notify_moves)
      exact Moves.refl
  · refine Moves.ite ?_ ?_
    · refine Moves.trans ?_ (Moves.mono (k := 0x401000) rfl State.mirrorsAsleep_moves)
      refine Moves.trans ?_ (Moves.mono (k := 0x2000000000000) rfl State.remoteAsleep_moves)
      exact h11
    · exact h11

theorem State.clearWindows_moves {s : State} {a0 : Nat} {a1 : Nat} {a2 : Nat} :
    Moves 0x40000000 s (State.clearWindows s a0 a1 a2) := by
  unfold State.clearWindows
  extract_lets -underBinder -merge -useContext v0
  try clear_value v0
  refine Moves.rb ?_ rfl
  exact Moves.refl

theorem State.stnDrop_moves {s : State} {a0 : Nat} {a1 : Nat} :
    Moves 0x1000000000000000000000000000000000000000000000002000000010100000052407c00 s (State.stnDrop s a0 a1) := by
  unfold State.stnDrop
  extract_lets -underBinder -merge -useContext v0 v1 v2
  try clear_value v0
  have h3 : Moves 0x1000000000000000000000000000000000000000000000002000000010100000052407c00 s v1 := by
    unfold v1
    refine Moves.trans ?_ (Moves.mono (k := 0x40000000) rfl State.setStn_moves)
    refine Moves.wrapInc ?_ rfl
    refine Moves.wr ?_ rfl
    exact Moves.refl
  try clear_value v1
  have h4 : Moves 0x1000000000000000000000000000000000000000000000002000000010100000052407c00 s v2 := by
    unfold v2
    refine Moves.trans ?_ (Moves.mono (k := 0x10000000050004000) rfl State.stnLost_moves)
    refine Moves.trans ?_ (Moves.mono (k := 0x1000000000000000000000000000000000000000000000000000000000000000000006c00) rfl State.notify_moves)
    exact h3
  try clear_value v2
  refine Moves.trans ?_ (Moves.mono (k := 0x40000000) rfl State.clearWindows_moves)
  refine Moves.trans ?_ (Moves.mono (k := 0x401000) rfl State.stationPoints_moves)
  refine Moves.trans ?_ (Moves.mono (k := 0x1000000000000000000000000000000000000000000000000000000000100000002006c00) rfl State.leStationLost_moves)
  exact h4

theorem State.stnLive_moves {s : State} {a0 : Nat} :
    Moves 0x2000000010000000050004000 s (State.stnLive s a0) := by
  unfold State.stnLive
  extract_lets -underBinder -merge -useContext v0
  try clear_value v0
  refine Moves.trans ?_ (Moves.mono (k := 0x10000000050004000) rfl State.stnBack_moves)
  refine Moves.trans ?_ (Moves.mono (k := 0x40000000) rfl State.setStn_moves)
  refine Moves.wr ?_ rfl
  exact Moves.refl

theorem State.stIn_moves {s : State} {a0 : Nat} {a1 : List Sys2Proof.W32} :
    Moves 0x10001000000000000000000000000000000000000000000000002000000010100000052407c00 s (State.stIn s a0 a1) := by
  unfold State.stIn
  extract_lets -underBinder -merge -useContext v0 v1 v2 v3 v4 v5 v6 v7
  try clear_value v0
  try clear_value v1
  try clear_value v2
  try clear_value v3
  have h8 : Moves 0x10001000000000000000000000000000000000000000000000002000000010100000052407c00 s v4 := by
    unfold v4
    refine Moves.wr ?_ rfl
    exact Moves.refl
  try clear_value v4
  try clear_value v5
  have h9 : Moves 0x10001000000000000000000000000000000000000000000000002000000010100000052407c00 s v6 := by
    unfold v6
    refine Moves.trans ?_ (Moves.mono (k := 0x40000000) rfl State.setStn_moves)
    exact h8
  try clear_value v6
  try clear_value v7
  refine Moves.ite ?_ ?_
  · exact Moves.refl
  · refine Moves.ite ?_ ?_
    · refine Moves.ite ?_ ?_
      · refine Moves.trans ?_ (Moves.mono (k := 0x1000000000000000000000000000000000000000000000002000000010100000052407c00) rfl State.stnDrop_moves)
        exact h8
      · exact h8
    · refine Moves.ite ?_ ?_
      · exact h8
      · refine Moves.ite ?_ ?_
        · refine Moves.trans ?_ (Moves.mono (k := 0x401000) rfl State.stationPoints_moves)
          refine Moves.trans ?_ (Moves.mono (k := 0x40000000) rfl State.setStn_moves)
          exact h9
        · split
          · extract_lets -underBinder -merge -useContext v10 v11
            try clear_value v10
            have h12 : Moves 0x10001000000000000000000000000000000000000000000000002000000010100000052407c00 s v11 := by
              unfold v11
              refine Moves.trans ?_ (Moves.mono (k := 0x2000000010000000050004000) rfl State.stnLive_moves)
              refine Moves.trans ?_ (Moves.mono (k := 0x40000000) rfl State.setStn_moves)
              exact h9
            try clear_value v11
            refine Moves.ite ?_ ?_
            · refine Moves.trans ?_ (Moves.mono (k := 0x10000000000000000000000000000000000000000000000000000000000000000000000000400) rfl State.settle_moves)
              refine Moves.trans ?_ (Moves.mono (k := 0x1000000000000000000000000000000000000000000000000000000000000000000006c00) rfl State.notify_moves)
              refine Moves.trans ?_ (Moves.mono (k := 0x401000) rfl State.stationPoints_moves)
              exact h12
            · exact h9
          · extract_lets -underBinder -merge -useContext v13
            try clear_value v13
            refine Moves.ite ?_ ?_
            · refine Moves.trans ?_ (Moves.mono (k := 0x40000000) rfl State.setStn_moves)
              exact h9
            · exact h9

theorem execStInReceive_moves {a0 : Nat} {a1 : List Sys2Proof.W32} {s : State} :
    ResMoves 0x10001000000000000000000000000000000000000000000000002000000010100000052407c00 s (execStInReceive a0 a1 s) := by
  unfold execStInReceive
  refine ResMoves.ite ?_ ?_
  · refine ResMoves.next ?_
    refine Moves.trans ?_ (Moves.mono (k := 0x10001000000000000000000000000000000000000000000000002000000010100000052407c00) rfl State.stIn_moves)
    exact Moves.refl
  · refine ResMoves.next ?_
    exact Moves.refl

theorem State.capSend_moves {s : State} {a0 : Nat} :
    Moves 0x40000000 s (State.capSend s a0) := by
  unfold State.capSend
  refine Moves.trans ?_ (Moves.mono (k := 0x40000000) rfl State.rbSend_moves)
  exact Moves.refl

theorem State.capReceive_moves {s : State} {a0 : Nat} {a1 : List Sys2Proof.W32} :
    Moves 0x1000000000000000000000000000000000000000000000002000000000000000040006c00 s (State.capReceive s a0 a1) := by
  unfold State.capReceive
  extract_lets -underBinder -merge -useContext v0 v1 v2 v3 v4 v5 v6 v7 v8
  try clear_value v0
  try clear_value v1
  try clear_value v2
  try clear_value v3
  have h9 : Moves 0x1000000000000000000000000000000000000000000000002000000000000000040006c00 s v4 := by
    unfold v4
    refine Moves.wr ?_ rfl
    refine Moves.wr ?_ rfl
    refine Moves.wr ?_ rfl
    exact Moves.refl
  try clear_value v4
  try clear_value v5
  try clear_value v6
  have h10 : Moves 0x1000000000000000000000000000000000000000000000002000000000000000040006c00 s v7 := by
    unfold v7
    refine Moves.trans ?_ (Moves.mono (k := 0x1000000000000000000000000000000000000000000000000000000000000000000006c00) rfl State.notify_moves)
    refine Moves.trans ?_ (Moves.mono (k := 0x40000000) rfl State.setPort_moves)
    exact h9
  try clear_value v7
  try clear_value v8
  refine Moves.ite ?_ ?_
  · refine Moves.ite ?_ ?_
    · refine Moves.trans ?_ (Moves.mono (k := 0x1000000000000000000000000000000000000000000000000000000000000000000006c00) rfl State.notify_moves)
      exact h10
    · exact h10
  · refine Moves.trans ?_ (Moves.mono (k := 0x40000000) rfl State.capSend_moves)
    refine Moves.trans ?_ (Moves.mono (k := 0x40000000) rfl State.setPort_moves)
    exact h9

theorem execCapFrameReceive_moves {a0 : Nat} {a1 : List Sys2Proof.W32} {s : State} :
    ResMoves 0x1000000000000000000000000000000000000000000000002000000000000000040006c00 s (execCapFrameReceive a0 a1 s) := by
  unfold execCapFrameReceive
  refine ResMoves.ite ?_ ?_
  · refine ResMoves.next ?_
    refine Moves.trans ?_ (Moves.mono (k := 0x1000000000000000000000000000000000000000000000002000000000000000040006c00) rfl State.capReceive_moves)
    exact Moves.refl
  · refine ResMoves.next ?_
    exact Moves.refl

theorem State.deliverFrame_moves {s : State} {a0 : Nat} {a1 : Nat} {a2 : Nat} {a3 : Nat} {a4 : List Sys2Proof.W32} :
    Moves 0x10001000000000000000000000000000000000000000000000002000000010102000052e97c00 s (State.deliverFrame s a0 a1 a2 a3 a4) := by
  unfold State.deliverFrame
  split
  · refine nextOf_moves ?_
    refine ResMoves.trans ?_ (ResMoves.mono (k := 0x1000000000000000000000000000000000000000000000000000000000002000040a16c00) rfl execTripFrameReceive_moves)
    exact Moves.refl
  · refine nextOf_moves ?_
    refine ResMoves.trans ?_ (ResMoves.mono (k := 0x2000000280000) rfl execZoneFrameReceive_moves)
    exact Moves.refl
  · refine Moves.ite ?_ ?_
    · refine nextOf_moves ?_
      refine ResMoves.trans ?_ (ResMoves.mono (k := 0x10001000000000000000000000000000000000000000000000002000000010100000052407c00) rfl execStInReceive_moves)
      exact Moves.refl
    · exact Moves.refl
  · refine Moves.trans ?_ (Moves.mono (k := 0x1000000000000000000000000000000000000000000000000000000000002000040607c00) rfl State.topoReceive_moves)
    exact Moves.refl
  · refine nextOf_moves ?_
    refine ResMoves.trans ?_ (ResMoves.mono (k := 0x1000000000000000000000000000000000000000000000002000000000000000040006c00) rfl execCapFrameReceive_moves)
    exact Moves.refl
  · refine nextOf_moves ?_
    refine ResMoves.trans ?_ (ResMoves.mono (k := 0x40400000) rfl execPtSubReceive_moves)
    exact Moves.refl
  · refine nextOf_moves ?_
    refine ResMoves.trans ?_ (ResMoves.mono (k := 0x401000) rfl execMirrorRecordReceive_moves)
    exact Moves.refl
  · refine nextOf_moves ?_
    refine ResMoves.trans ?_ (ResMoves.mono (k := 0x40c00000) rfl execPtReqReceive_moves)
    exact Moves.refl
  · refine nextOf_moves ?_
    refine ResMoves.trans ?_ (ResMoves.mono (k := 0x10000000000000000000000000000000000000000000000000000000000000000000000400400) rfl execPtRspReceive_moves)
    exact Moves.refl
  · exact Moves.refl

theorem State.frameAccepted_moves {s : State} {a0 : Nat} {a1 : List Sys2Proof.W32} {a2 : List Sys2Proof.W32} :
    Moves 0x10001000000000000000000000000000000000000000000000002000000010102000052e97c00 s (State.frameAccepted s a0 a1 a2) := by
  unfold State.frameAccepted
  extract_lets -underBinder -merge -useContext v0 v1 v2 v3 v4 v5 v6 v7 v8 v9 v10 v11 v12 v13 v14 v15 v16 v17 v18 v19 v20 v21 v22
  try clear_value v0
  try clear_value v1
  try clear_value v2
  try clear_value v3
  try clear_value v4
  try clear_value v5
  try clear_value v6
  try clear_value v7
  try clear_value v8
  try clear_value v9
  try clear_value v10
  try clear_value v11
  try clear_value v12
  try clear_value v13
  try clear_value v14
  try clear_value v15
  have h23 : Moves 0x10001000000000000000000000000000000000000000000000002000000010102000052e97c00 s v16 := by
    unfold v16
    refine Moves.rb ?_ rfl
    exact Moves.refl
  try clear_value v16
  try clear_value v17
  have h24 : Moves 0x10001000000000000000000000000000000000000000000000002000000010102000052e97c00 s v18 := by
    unfold v18
    refine Moves.ite ?_ ?_
    · refine Moves.trans ?_ (Moves.mono (k := 0x10001000000000000000000000000000000000000000000000002000000010102000052e97c00) rfl State.deliverFrame_moves)
      exact h23
    · exact h23
  try clear_value v18
  try clear_value v19
  try clear_value v20
  try clear_value v21
  have h25 : Moves 0x10001000000000000000000000000000000000000000000000002000000010102000052e97c00 s v22 := by
    unfold v22
    refine Moves.rb ?_ rfl
    exact h24
  try clear_value v22
  refine Moves.ite ?_ ?_
  · refine Moves.trans ?_ (Moves.mono (k := 0x1000000000000000000000000000000000000000000000000000000000002000040607c00) rfl State.topoReceive_moves)
    exact Moves.refl
  · refine Moves.ite ?_ ?_
    · exact Moves.refl
    · refine Moves.ite ?_ ?_
      · exact Moves.refl
      · refine Moves.ite ?_ ?_
        · exact h24
        · refine Moves.ite ?_ ?_
          · exact h24
          · refine Moves.foldl ?_ (fun st26 a27 => ?_)
            · exact h25
            · extract_lets -underBinder -merge -useContext v28
              try clear_value v28
              refine Moves.trans ?_ (Moves.mono (k := 0x40000000) rfl State.setPort_moves)
              exact Moves.refl

theorem State.frameTaken_moves {s : State} {a0 : Nat} {a1 : Nat} {a2 : List Sys2Proof.W32} {a3 : Bool} :
    Moves 0x10001000000000000000000000000000000000000000000000003000000010102000052e97c00 s (State.frameTaken s a0 a1 a2 a3) := by
  unfold State.frameTaken
  extract_lets -underBinder -merge -useContext v0 v1 v2 v3 v4 v5 v6 v7 v8 v9
  try clear_value v0
  try clear_value v1
  try clear_value v2
  try clear_value v3
  try clear_value v4
  try clear_value v5
  try clear_value v6
  try clear_value v7
  try clear_value v8
  have h10 : Moves 0x10001000000000000000000000000000000000000000000000003000000010102000052e97c00 s v9 := by
    unfold v9
    refine Moves.trans ?_ (Moves.mono (k := 0x40000000) rfl State.setPort_moves)
    exact Moves.refl
  try clear_value v9
  refine Moves.ite ?_ ?_
  · refine Moves.trans ?_ (Moves.mono (k := 0x2000000000000000040000000) rfl State.frameErr_moves)
    exact Moves.refl
  · refine Moves.ite ?_ ?_
    · refine Moves.bump ?_ rfl
      exact Moves.refl
    · refine Moves.ite ?_ ?_
      · refine Moves.bump ?_ rfl
        exact Moves.refl
      · refine Moves.ite ?_ ?_
        · exact Moves.refl
        · refine Moves.ite ?_ ?_
          · refine Moves.trans ?_ (Moves.mono (k := 0x1000000000000000000000000000000000000000000000003000000000000000040006c00) rfl (State.authDrop_moves rfl))
            exact Moves.refl
          · refine Moves.ite ?_ ?_
            · refine Moves.trans ?_ (Moves.mono (k := 0x1000000000000000000000000000000000000000000000003000000000000000040006c00) rfl (State.authDrop_moves rfl))
              exact Moves.refl
            · split
              · refine Moves.bump ?_ rfl
                exact h10
              · refine Moves.ite ?_ ?_
                · refine Moves.bump ?_ rfl
                  exact h10
                · refine Moves.trans ?_ (Moves.mono (k := 0x10001000000000000000000000000000000000000000000000002000000010102000052e97c00) rfl State.frameAccepted_moves)
                  exact h10

theorem State.frameBlock_moves {s : State} {a0 : Nat} {a1 : Sys2Proof.Machine.Block} {a2 : Bool} :
    Moves 0x10001000000000000000000000000000000000000000000000003000000010102000052e97c00 s (State.frameBlock s a0 a1 a2) := by
  unfold State.frameBlock
  extract_lets -underBinder -merge -useContext v0
  try clear_value v0
  split
  · split
    · refine Moves.trans ?_ (Moves.mono (k := 0x40000000) rfl State.setPort_moves)
      exact Moves.refl
    · refine Moves.trans ?_ (Moves.mono (k := 0x2000000000000000040000000) rfl State.frameErr_moves)
      exact Moves.refl
  · refine Moves.ite ?_ ?_
    · refine Moves.trans ?_ (Moves.mono (k := 0x40000000) rfl State.setPort_moves)
      exact Moves.refl
    · refine Moves.trans ?_ (Moves.mono (k := 0x2000000000000000040000000) rfl State.frameErr_moves)
      exact Moves.refl
  · split
    · refine Moves.ite ?_ ?_
      · refine Moves.trans ?_ (Moves.mono (k := 0x10001000000000000000000000000000000000000000000000003000000010102000052e97c00) rfl State.frameTaken_moves)
        refine Moves.trans ?_ (Moves.mono (k := 0x40000000) rfl State.setPort_moves)
        exact Moves.refl
      · refine Moves.trans ?_ (Moves.mono (k := 0x2000000000000000040000000) rfl State.frameErr_moves)
        exact Moves.refl
    · refine Moves.trans ?_ (Moves.mono (k := 0x2000000000000000040000000) rfl State.frameErr_moves)
      exact Moves.refl
  · exact Moves.refl

theorem State.blockIn_moves {s : State} {a0 : Nat} {a1 : Bool} {a2 : Sys2Proof.LineBlock} :
    Moves 0x1000100000000000000000000000000000000000000000000000b000000010102000052e97f00 s (State.blockIn s a0 a1 a2) := by
  unfold State.blockIn
  extract_lets -underBinder -merge -useContext v0 v1 v2 v3 v4
  try clear_value v0
  try clear_value v1
  try clear_value v2
  try clear_value v3
  have h5 : Moves 0x1000100000000000000000000000000000000000000000000000b000000010102000052e97f00 s v4 := by
    unfold v4
    refine Moves.rb ?_ rfl
    exact Moves.refl
  try clear_value v4
  refine Moves.ite ?_ ?_
  · exact h5
  · split
    · refine Moves.trans ?_ (Moves.mono (k := 0x100000000000000000000000000000000000000000000000b000000000000000040006f00) rfl State.badBlock_moves)
      exact h5
    · refine Moves.ite ?_ ?_
      · exact h5
      · refine Moves.trans ?_ (Moves.mono (k := 0x10001000000000000000000000000000000000000000000000003000000010102000052e97c00) rfl State.frameBlock_moves)
        exact h5

theorem State.lnCommit_moves {s : State} {a0 : State} {a1 : Nat} :
    Moves 0x100000000000000000000000000000000000000000000000b000000000000000040006f00 s (State.lnCommit s a0 a1) := by
  unfold State.lnCommit
  refine Moves.ite ?_ ?_
  · exact Moves.refl
  · refine Moves.trans ?_ (Moves.mono (k := 0x100000000000000000000000000000000000000000000000b000000000000000040006f00) rfl State.laneFails_moves)
    exact Moves.refl

theorem State.rbCommit_moves {s : State} {a0 : State} {a1 : Nat} {a2 : Nat} :
    Moves 0x100000000000000000000000000000000000000000000000b000000010000000050006f00 s (State.rbCommit s a0 a1 a2) := by
  unfold State.rbCommit
  extract_lets -underBinder -merge -useContext v0 v1 v2
  have h3 : Moves 0x100000000000000000000000000000000000000000000000b000000010000000050006f00 s v0 := by
    unfold v0
    refine Moves.ite ?_ ?_
    · refine Moves.foldl ?_ (fun st4 a5 => ?_)
      · refine Moves.trans ?_ (Moves.mono (k := 0x100000000000000000000000000000000000000000000000b000000000000000040006f00) rfl State.portDown_moves)
        exact Moves.refl
      · refine Moves.trans ?_ (Moves.mono (k := 0x1000000000000000040000000) rfl State.laneDown_moves)
        exact Moves.refl
    · exact Moves.refl
  try clear_value v0
  try clear_value v1
  try clear_value v2
  refine Moves.ite ?_ ?_
  · refine Moves.foldl ?_ (fun st6 a7 => ?_)
    · exact Moves.refl
    · refine Moves.trans ?_ (Moves.mono (k := 0x100000000000000000000000000000000000000000000000b000000000000000040006f00) rfl State.portDown_moves)
      exact Moves.refl
  · refine Moves.ite ?_ ?_
    · refine Moves.trans ?_ (Moves.mono (k := 0x40000000) rfl State.setPort_moves)
      exact h3
    · refine Moves.ite ?_ ?_
      · refine Moves.ite ?_ ?_
        · refine Moves.trans ?_ (Moves.mono (k := 0x40000000) rfl State.setStn_moves)
          refine Moves.wr ?_ rfl
          exact Moves.refl
        · refine Moves.ite ?_ ?_
          · refine Moves.wr ?_ rfl
            refine Moves.trans ?_ (Moves.mono (k := 0x10000000050004000) rfl State.stnLost_moves)
            exact Moves.refl
          · exact Moves.refl
      · exact Moves.refl

theorem State.detect_moves {s : State} {a0 : Nat} {a1 : Bool} {a2 : Bool} :
    Moves 0x100000000000000000000000000000000000000000000000b000000000000000040006f00 s (State.detect s a0 a1 a2) := by
  unfold State.detect
  extract_lets -underBinder -merge -useContext v0 v1 v2 v3 v4 v5
  try clear_value v0
  try clear_value v1
  have h6 : Moves 0x100000000000000000000000000000000000000000000000b000000000000000040006f00 s v2 := by
    unfold v2
    refine Moves.setFlag ?_ rfl
    refine Moves.setFlag ?_ rfl
    exact Moves.refl
  try clear_value v2
  have h7 : Moves 0x100000000000000000000000000000000000000000000000b000000000000000040006f00 s v3 := by
    unfold v3
    refine Moves.ite ?_ ?_
    · refine Moves.trans ?_ (Moves.mono (k := 0x1000000000000000000000000000000000000000000000000000000000000000000006c00) rfl State.notify_moves)
      refine Moves.bump ?_ rfl
      exact h6
    · refine Moves.ite ?_ ?_
      · refine Moves.trans ?_ (Moves.mono (k := 0x1000000000000000000000000000000000000000000000000000000000000000000006c00) rfl State.notify_moves)
        exact h6
      · exact h6
  try clear_value v3
  try clear_value v4
  have h8 : Moves 0x100000000000000000000000000000000000000000000000b000000000000000040006f00 s v5 := by
    unfold v5
    refine Moves.ite ?_ ?_
    · refine Moves.trans ?_ (Moves.mono (k := 0x1000000000000000000000000000000000000000000000000000000000000000000006c00) rfl State.notify_moves)
      refine Moves.bump ?_ rfl
      exact h7
    · refine Moves.ite ?_ ?_
      · refine Moves.trans ?_ (Moves.mono (k := 0x1000000000000000000000000000000000000000000000000000000000000000000006c00) rfl State.notify_moves)
        refine Moves.rb ?_ rfl
        exact h7
      · exact h7
  try clear_value v5
  refine Moves.ite ?_ ?_
  · refine Moves.trans ?_ (Moves.mono (k := 0x100000000000000000000000000000000000000000000000b000000000000000040006f00) rfl State.laneFails_moves)
    exact h8
  · exact h8

theorem State.stnEnableDrop_moves {s : State} {a0 : Nat × Nat} :
    Moves 0x40000000 s (State.stnEnableDrop s a0) := by
  unfold State.stnEnableDrop
  refine Moves.foldl ?_ (fun st0 a1 => ?_)
  · exact Moves.refl
  · split
    · extract_lets -underBinder -merge -useContext v2
      try clear_value v2
      refine Moves.ite ?_ ?_
      · refine Moves.trans ?_ (Moves.mono (k := 0x40000000) rfl State.setStn_moves)
        exact Moves.refl
      · exact Moves.refl
    · exact Moves.refl

theorem State.enDrop_moves {s : State} {a0 : Nat} :
    Moves 0x1000000000000000000000000000000000000000000000004000000000000000040006c00 s (State.enDrop s a0) := by
  unfold State.enDrop
  extract_lets -underBinder -merge -useContext v0 v1 v2 v3 v4
  try clear_value v0
  try clear_value v1
  try clear_value v2
  have h5 : Moves 0x1000000000000000000000000000000000000000000000004000000000000000040006c00 s v3 := by
    unfold v3
    refine Moves.bump ?_ rfl
    refine Moves.rb ?_ rfl
    exact Moves.refl
  try clear_value v3
  try clear_value v4
  refine Moves.ite ?_ ?_
  · refine Moves.trans ?_ (Moves.mono (k := 0x1000000000000000000000000000000000000000000000000000000000000000000006c00) rfl State.notify_moves)
    refine Moves.rb ?_ rfl
    exact h5
  · exact h5

theorem State.stationsWake_moves {s : State} {a0 : Nat → Bool} :
    Moves 0x2000000000000000040000000 s (State.stationsWake s a0) := by
  unfold State.stationsWake
  refine Moves.foldl ?_ (fun st0 a1 => ?_)
  · exact Moves.refl
  · extract_lets -underBinder -merge -useContext v2
    try clear_value v2
    refine Moves.ite ?_ ?_
    · refine Moves.trans ?_ (Moves.mono (k := 0x40000000) rfl State.setStn_moves)
      refine Moves.wr ?_ rfl
      exact Moves.refl
    · exact Moves.refl

theorem State.portServes_moves {s : State} {a0 : Nat} :
    Moves 0x1000000000000000000000000000000000000000000000003000000000000000040006c00 s (State.portServes s a0) := by
  unfold State.portServes
  extract_lets -underBinder -merge -useContext v0 v1
  have h2 : Moves 0x1000000000000000000000000000000000000000000000003000000000000000040006c00 s v0 := by
    unfold v0
    refine Moves.foldl ?_ (fun st3 a4 => ?_)
    · exact Moves.refl
    · refine Moves.wr ?_ rfl
      refine Moves.wr ?_ rfl
      exact Moves.refl
  try clear_value v0
  have h5 : Moves 0x1000000000000000000000000000000000000000000000003000000000000000040006c00 s v1 := by
    unfold v1
    refine Moves.trans ?_ (Moves.mono (k := 0x1000000000000000000000000000000000000000000000000000000000000000000006c00) rfl State.notify_moves)
    exact h2
  try clear_value v1
  refine Moves.trans ?_ (Moves.mono (k := 0x2000000000000000040000000) rfl State.stationsWake_moves)
  exact h5

theorem State.stationsHold_moves {s : State} :
    Moves 0x2000000000000000000000000 s (State.stationsHold s) := by
  unfold State.stationsHold
  refine Moves.foldl ?_ (fun st0 a1 => ?_)
  · exact Moves.refl
  · refine Moves.ite ?_ ?_
    · refine Moves.wr ?_ rfl
      exact Moves.refl
    · exact Moves.refl

theorem State.showStep_moves {s : State} {a0 : Nat} :
    Moves 0x1000000000000000000000000 s (State.showStep s a0) := by
  unfold State.showStep
  refine Moves.foldl ?_ (fun st0 a1 => ?_)
  · exact Moves.refl
  · refine Moves.wr ?_ rfl
    exact Moves.refl

theorem State.stationsStart_moves {s : State} :
    Moves 0x2000000000000000040000000 s (State.stationsStart s) := by
  unfold State.stationsStart
  refine Moves.foldl ?_ (fun st0 a1 => ?_)
  · exact Moves.refl
  · extract_lets -underBinder -merge -useContext v2
    try clear_value v2
    refine Moves.ite ?_ ?_
    · refine Moves.ite ?_ ?_
      · refine Moves.trans ?_ (Moves.mono (k := 0x40000000) rfl State.setStn_moves)
        refine Moves.wr ?_ rfl
        exact Moves.refl
      · refine Moves.trans ?_ (Moves.mono (k := 0x40000000) rfl State.setStn_moves)
        exact Moves.refl
    · exact Moves.refl

theorem State.stnUnhold_moves {s : State} {a0 : Nat} :
    Moves 0x2000000000000000040000000 s (State.stnUnhold s a0) := by
  unfold State.stnUnhold
  refine Moves.ite ?_ ?_
  · refine Moves.trans ?_ (Moves.mono (k := 0x2000000000000000040000000) rfl State.stationsWake_moves)
    exact Moves.refl
  · exact Moves.refl

theorem State.stnMiss_moves {s : State} {a0 : Nat} :
    Moves 0x1000000000000000000000000000000000000000000000002000000010100000052407c00 s (State.stnMiss s a0) := by
  unfold State.stnMiss
  extract_lets -underBinder -merge -useContext v0 v1 v2
  try clear_value v0
  have h3 : Moves 0x1000000000000000000000000000000000000000000000002000000010100000052407c00 s v1 := by
    unfold v1
    refine Moves.trans ?_ (Moves.mono (k := 0x40000000) rfl State.setStn_moves)
    exact Moves.refl
  try clear_value v1
  have h4 : Moves 0x1000000000000000000000000000000000000000000000002000000010100000052407c00 s v2 := by
    unfold v2
    refine Moves.bump ?_ rfl
    exact h3
  try clear_value v2
  refine Moves.ite ?_ ?_
  · exact Moves.refl
  · refine Moves.ite ?_ ?_
    · refine Moves.ite ?_ ?_
      · refine Moves.trans ?_ (Moves.mono (k := 0x1000000000000000000000000000000000000000000000002000000010100000052407c00) rfl State.stnDrop_moves)
        exact h4
      · exact h4
    · exact h3

theorem State.stnBoundary_moves {s : State} {a0 : Nat} :
    Moves 0x1000000000000000000000000000000000000000000000002000000010100000052407c00 s (State.stnBoundary s a0) := by
  unfold State.stnBoundary
  extract_lets -underBinder -merge -useContext v0 v1 v2 v3 v4 v5
  try clear_value v0
  try clear_value v1
  have h6 : Moves 0x1000000000000000000000000000000000000000000000002000000010100000052407c00 s v2 := by
    unfold v2
    refine Moves.trans ?_ (Moves.mono (k := 0x2000000000000000040000000) rfl State.stnUnhold_moves)
    refine Moves.trans ?_ (Moves.mono (k := 0x1000000000000000000000000000000000000000000000002000000010100000052407c00) rfl State.stnMiss_moves)
    exact Moves.refl
  try clear_value v2
  try clear_value v3
  try clear_value v4
  have h7 : Moves 0x1000000000000000000000000000000000000000000000002000000010100000052407c00 s v5 := by
    unfold v5
    refine Moves.trans ?_ (Moves.mono (k := 0x40000000) rfl State.setStn_moves)
    exact h6
  try clear_value v5
  refine Moves.ite ?_ ?_
  · exact Moves.refl
  · refine Moves.trans ?_ (Moves.mono (k := 0x40000000) rfl State.rbSend_moves)
    exact h7

theorem execAuthFrameReceive_moves {a0 : Nat} {a1 : List Sys2Proof.W32} {a2 : Nat} {s : State} :
    ResMoves 0x40000000 s (execAuthFrameReceive a0 a1 a2 s) := by
  unfold execAuthFrameReceive
  refine ResMoves.ite ?_ ?_
  · refine ResMoves.next ?_
    refine Moves.trans ?_ (Moves.mono (k := 0x40000000) rfl State.authReceive_moves)
    exact Moves.refl
  · refine ResMoves.next ?_
    exact Moves.refl

theorem execC0LoadWindow_moves {a0 : Nat} {a1 : Nat} {s : State} :
    ResMoves 0x1000000000000000000000000000000000000000000000002000000000000000000006c00 s (execC0LoadWindow a0 a1 s) := by
  unfold execC0LoadWindow
  extract_lets -underBinder -merge -useContext v0 v1
  try clear_value v0
  have h2 : Moves 0x1000000000000000000000000000000000000000000000002000000000000000000006c00 s v1 := by
    unfold v1
    refine Moves.setFlag ?_ rfl
    exact Moves.refl
  try clear_value v1
  refine ResMoves.ite ?_ ?_
  · refine ResMoves.next ?_
    exact Moves.refl
  · refine ResMoves.next ?_
    refine Moves.ite ?_ ?_
    · refine Moves.trans ?_ (Moves.mono (k := 0x1000000000000000000000000000000000000000000000000000000000000000000006c00) rfl State.notify_moves)
      exact h2
    · exact h2

theorem execDeviceUnreachable_moves {a0 : Nat} {s : State} :
    ResMoves 0x1000000000000000000000000000000000000000000000000000000000002000040607c00 s (execDeviceUnreachable a0 s) := by
  unfold execDeviceUnreachable
  extract_lets -underBinder -merge -useContext v0 v1 v2 v3
  try clear_value v0
  have h4 : Moves 0x1000000000000000000000000000000000000000000000000000000000002000040607c00 s v1 := by
    unfold v1
    refine Moves.trans ?_ (Moves.mono (k := 0x40000000) rfl State.clearWindows_moves)
    exact Moves.refl
  try clear_value v1
  try clear_value v2
  have h5 : Moves 0x1000000000000000000000000000000000000000000000000000000000002000040607c00 s v3 := by
    unfold v3
    refine Moves.rb ?_ rfl
    exact h4
  try clear_value v3
  refine ResMoves.ite ?_ ?_
  · refine ResMoves.ite ?_ ?_
    · refine ResMoves.next ?_
      exact h5
    · refine ResMoves.next ?_
      refine Moves.trans ?_ (Moves.mono (k := 0x1000000000000000000000000000000000000000000000000000000000000000000407c00) rfl State.mirrorsLost_moves)
      refine Moves.trans ?_ (Moves.mono (k := 0x1000000000000000000000000000000000000000000000000000000000002000000006c00) rfl State.rxOf_moves)
      refine Moves.trans ?_ (Moves.mono (k := 0x1000000000000000000000000000000000000000000000000000000000000000000006c00) rfl State.notify_moves)
      refine Moves.trans ?_ (Moves.mono (k := 0x200000) rfl State.setDev_moves)
      exact h5
  · refine ResMoves.next ?_
    exact Moves.refl

theorem execEthernetFrameReceive_moves {a0 : Nat} {a1 : Nat} {a2 : Nat} {a3 : Option Sys2Proof.PtpFrame} {s : State} :
    ResMoves 0x100000000000000000000000000000000000000000000000c000000000000000040006f00 s (execEthernetFrameReceive a0 a1 a2 a3 s) := by
  unfold execEthernetFrameReceive
  extract_lets -underBinder -merge -useContext v0 v1 v2
  try clear_value v0
  try clear_value v1
  try clear_value v2
  refine ResMoves.ite ?_ ?_
  · refine ResMoves.next ?_
    exact Moves.refl
  · refine ResMoves.ite ?_ ?_
    · refine ResMoves.next ?_
      refine Moves.rb ?_ rfl
      exact Moves.refl
    · refine ResMoves.ite ?_ ?_
      · refine ResMoves.next ?_
        exact Moves.refl
      · refine ResMoves.ite ?_ ?_
        · refine ResMoves.next ?_
          refine Moves.elim ?_ (fun a3 => ?_)
          · exact Moves.refl
          · refine Moves.trans ?_ (Moves.mono (k := 0x1000000000000000000000000000000000000000000000008000000000000000000006f00) rfl State.ethTime_moves)
            exact Moves.refl
        · refine ResMoves.ite ?_ ?_
          · refine ResMoves.next ?_
            refine Moves.trans ?_ (Moves.mono (k := 0x1000000000000000000000000000000000000000000000004000000000000000040006c00) rfl State.enDrop_moves)
            exact Moves.refl
          · refine ResMoves.ite ?_ ?_
            · refine ResMoves.next ?_
              refine Moves.rb ?_ rfl
              exact Moves.refl
            · refine ResMoves.next ?_
              refine Moves.rb ?_ rfl
              exact Moves.refl

theorem execGoosePublish_moves {s : State} :
    ResMoves 0x40000000 s (execGoosePublish s) := by
  unfold execGoosePublish
  extract_lets -underBinder -merge -useContext v0 v1 v2 v3 v4 v5
  try clear_value v0
  try clear_value v1
  try clear_value v2
  try clear_value v3
  try clear_value v4
  try clear_value v5
  refine ResMoves.ite ?_ ?_
  · refine ResMoves.next ?_
    exact Moves.refl
  · refine ResMoves.ite ?_ ?_
    · refine ResMoves.next ?_
      refine Moves.rb ?_ rfl
      exact Moves.refl
    · refine ResMoves.ite ?_ ?_
      · refine ResMoves.next ?_
        refine Moves.rb ?_ rfl
        exact Moves.refl
      · refine ResMoves.next ?_
        exact Moves.refl

theorem execLaneDetectorChange_moves {a0 : Nat} {a1 : Bool} {a2 : Bool} {a3 : Bool} {s : State} :
    ResMoves 0x100000000000000000000000000000000000000000000000b000000000000000040006f00 s (execLaneDetectorChange a0 a1 a2 a3 s) := by
  unfold execLaneDetectorChange
  refine ResMoves.ite ?_ ?_
  · refine ResMoves.next ?_
    exact Moves.refl
  · refine ResMoves.ite ?_ ?_
    · refine ResMoves.next ?_
      refine Moves.foldl ?_ (fun st0 a1 => ?_)
      · exact Moves.refl
      · extract_lets -underBinder -merge -useContext v2
        try clear_value v2
        refine Moves.trans ?_ (Moves.mono (k := 0x100000000000000000000000000000000000000000000000b000000000000000040006f00) rfl State.detect_moves)
        exact Moves.refl
    · refine ResMoves.next ?_
      refine Moves.trans ?_ (Moves.mono (k := 0x100000000000000000000000000000000000000000000000b000000000000000040006f00) rfl State.detect_moves)
      exact Moves.refl

theorem execPortDown_moves {a0 : Nat} {s : State} :
    ResMoves 0x100000000000000000000000000000000000000000000000b000000000000000040006f00 s (execPortDown a0 s) := by
  unfold execPortDown
  refine ResMoves.ite ?_ ?_
  · refine ResMoves.next ?_
    refine Moves.trans ?_ (Moves.mono (k := 0x100000000000000000000000000000000000000000000000b000000000000000040006f00) rfl State.portDown_moves)
    exact Moves.refl
  · refine ResMoves.next ?_
    exact Moves.refl

theorem execRenbyFrameReceive_moves {a0 : Nat} {a1 : List Sys2Proof.LineBlock} {a2 : Bool} {s : State} :
    ResMoves 0x1000100000000000000000000000000000000000000000000000b000000010102000052e97f00 s (execRenbyFrameReceive a0 a1 a2 s) := by
  unfold execRenbyFrameReceive
  refine ResMoves.ite ?_ ?_
  · refine ResMoves.next ?_
    exact Moves.refl
  · refine ResMoves.next ?_
    refine Moves.foldl ?_ (fun st0 a1 => ?_)
    · exact Moves.refl
    · refine Moves.trans ?_ (Moves.mono (k := 0x1000100000000000000000000000000000000000000000000000b000000010102000052e97f00) rfl State.blockIn_moves)
      exact Moves.refl

theorem execStationCycleBoundary_moves {s : State} :
    ResMoves 0x1000000000000000000000000000000000000000000000002000000010100000052407c00 s (execStationCycleBoundary s) := by
  unfold execStationCycleBoundary
  refine ResMoves.ite ?_ ?_
  · refine ResMoves.next ?_
    refine Moves.foldl ?_ (fun st0 a1 => ?_)
    · exact Moves.refl
    · refine Moves.trans ?_ (Moves.mono (k := 0x1000000000000000000000000000000000000000000000002000000010100000052407c00) rfl State.stnBoundary_moves)
      exact Moves.refl
  · refine ResMoves.next ?_
    exact Moves.refl

theorem execStationEnable_moves {a0 : Nat} {a1 : Nat} {s : State} :
    ResMoves 0x10000000000000000000000000000000000000000000000000000000000000000000040002400 s (execStationEnable a0 a1 s) := by
  unfold execStationEnable
  refine ResMoves.trans ?_ (State.runCmd_moves rfl (fun st0 c1 => ?_))
  · exact Moves.refl
  · extract_lets -underBinder -merge -useContext v2 v3 v4
    try clear_value v2
    try clear_value v3
    try clear_value v4
    refine Moves.ite ?_ ?_
    · refine Moves.trans ?_ (Moves.mono (k := 0x40000000) rfl State.setStn_moves)
      refine Moves.trans ?_ (Moves.mono (k := 0x10000000000000000000000000000000000000000000000000000000000000000000000000400) rfl State.start_moves)
      exact Moves.refl
    · refine Moves.trans ?_ (Moves.mono (k := 0x10000000000000000000000000000000000000000000000000000000000000000000000000400) rfl State.answer_moves)
      exact Moves.refl

theorem execStationEnableTimeout_moves {a0 : Nat} {s : State} :
    ResMoves 0x10000000000000000000000000000000000000000000000000000000000000000000040000400 s (execStationEnableTimeout a0 s) := by
  unfold execStationEnableTimeout
  split
  · extract_lets -underBinder -merge -useContext v0
    try clear_value v0
    refine ResMoves.ite ?_ ?_
    · refine ResMoves.next ?_
      refine Moves.trans ?_ (Moves.mono (k := 0x10000000000000000000000000000000000000000000000000000000000000000000000000400) rfl State.settle_moves)
      refine Moves.trans ?_ (Moves.mono (k := 0x40000000) rfl State.setStn_moves)
      exact Moves.refl
    · refine ResMoves.next ?_
      exact Moves.refl
  · refine ResMoves.next ?_
    exact Moves.refl

theorem execStationMiss_moves {a0 : Nat} {s : State} :
    ResMoves 0x1000000000000000000000000000000000000000000000002000000010100000052407c00 s (execStationMiss a0 s) := by
  unfold execStationMiss
  refine ResMoves.ite ?_ ?_
  · refine ResMoves.next ?_
    refine Moves.trans ?_ (Moves.mono (k := 0x1000000000000000000000000000000000000000000000002000000010100000052407c00) rfl State.stnMiss_moves)
    exact Moves.refl
  · refine ResMoves.next ?_
    exact Moves.refl

theorem execTopoSend_moves {s : State} :
    ResMoves 0x40000000 s (execTopoSend s) := by
  unfold execTopoSend
  extract_lets -underBinder -merge -useContext v0 v1
  try clear_value v0
  try clear_value v1
  refine ResMoves.ite ?_ ?_
  · refine ResMoves.next ?_
    exact Moves.refl
  · refine ResMoves.next ?_
    refine Moves.trans ?_ (Moves.mono (k := 0x40000000) rfl State.sendTopo_moves)
    refine Moves.rb ?_ rfl
    exact Moves.refl

theorem execTrainingStepReached_moves {a0 : Bool} {a1 : Nat} {a2 : Nat} {a3 : List Nat} {s : State} :
    ResMoves 0x1000000000000000000000000000000000000000000000003000000000000000040006c00 s (execTrainingStepReached a0 a1 a2 a3 s) := by
  unfold execTrainingStepReached
  extract_lets -underBinder -merge -useContext v0 v1 v2 v3 v4 v5
  try clear_value v0
  have h6 : Moves 0x1000000000000000000000000000000000000000000000003000000000000000040006c00 s v1 := by
    unfold v1
    refine Moves.trans ?_ (Moves.mono (k := 0x40000000) rfl State.setPort_moves)
    exact Moves.refl
  try clear_value v1
  have h7 : Moves 0x1000000000000000000000000000000000000000000000003000000000000000040006c00 s v2 := by
    unfold v2
    refine Moves.trans ?_ (Moves.mono (k := 0x1000000000000000000000000) rfl State.showStep_moves)
    exact h6
  try clear_value v2
  try clear_value v3
  have h8 : Moves 0x1000000000000000000000000000000000000000000000003000000000000000040006c00 s v4 := by
    unfold v4
    refine Moves.ite ?_ ?_
    · refine Moves.trans ?_ (Moves.mono (k := 0x40000000) rfl State.capSend_moves)
      refine Moves.foldl ?_ (fun st9 a10 => ?_)
      · exact h7
      · refine Moves.wr ?_ rfl
        exact Moves.refl
    · refine Moves.ite ?_ ?_
      · refine Moves.trans ?_ (Moves.mono (k := 0x40000000) rfl State.setPort_moves)
        refine Moves.wrapInc ?_ rfl
        exact h7
      · exact h7
  try clear_value v4
  have h11 : Moves 0x1000000000000000000000000000000000000000000000003000000000000000040006c00 s v5 := by
    unfold v5
    refine Moves.trans ?_ (Moves.mono (k := 0x40000000) rfl State.setLaneAt_moves)
    refine Moves.wr ?_ rfl
    exact Moves.refl
  try clear_value v5
  refine ResMoves.ite ?_ ?_
  · refine ResMoves.next ?_
    exact Moves.refl
  · refine ResMoves.ite ?_ ?_
    · refine ResMoves.ite ?_ ?_
      · refine ResMoves.next ?_
        exact Moves.refl
      · refine ResMoves.next ?_
        refine Moves.ite ?_ ?_
        · refine Moves.trans ?_ (Moves.mono (k := 0x1000000000000000000000000000000000000000000000003000000000000000040006c00) rfl State.portServes_moves)
          exact h8
        · exact h8
    · refine ResMoves.ite ?_ ?_
      · refine ResMoves.next ?_
        refine Moves.ite ?_ ?_
        · refine Moves.wr ?_ rfl
          refine Moves.wr ?_ rfl
          exact h11
        · exact h11
      · refine ResMoves.next ?_
        exact Moves.refl

theorem execTrainingStepTimeout_moves {a0 : Bool} {a1 : Nat} {s : State} :
    ResMoves 0x100000000000000000000000000000000000000000000000b000000000000000040006f00 s (execTrainingStepTimeout a0 a1 s) := by
  unfold execTrainingStepTimeout
  extract_lets -underBinder -merge -useContext v0 v1 v2
  try clear_value v0
  try clear_value v1
  try clear_value v2
  refine ResMoves.ite ?_ ?_
  · refine ResMoves.next ?_
    exact Moves.refl
  · refine ResMoves.ite ?_ ?_
    · refine ResMoves.ite ?_ ?_
      · refine ResMoves.next ?_
        exact Moves.refl
      · refine ResMoves.ite ?_ ?_
        · refine ResMoves.next ?_
          refine Moves.trans ?_ (Moves.mono (k := 0x40000000) rfl State.setPort_moves)
          exact Moves.refl
        · refine ResMoves.next ?_
          refine Moves.trans ?_ (Moves.mono (k := 0x100000000000000000000000000000000000000000000000b000000000000000040006f00) rfl State.portDown_moves)
          exact Moves.refl
    · refine ResMoves.ite ?_ ?_
      · refine ResMoves.next ?_
        refine Moves.trans ?_ (Moves.mono (k := 0x1000000000000000040000000) rfl State.laneDown_moves)
        exact Moves.refl
      · refine ResMoves.next ?_
        exact Moves.refl

end Sys2Proof.Machine
end

