-- ==== Sys2Proof/Laws/FrameAccess.lean ====
section
/-! SUPPORT. What every definition of Machine/Access.lean may change (masks over `Part.bit`), one lemma each. -/

namespace Sys2Proof.Machine

open Sys2Proof

theorem State.setAuth_moves {s : State} {a0 : Sys2Proof.Machine.Master} {a1 : Sys2Proof.Machine.AuthSt} :
    Moves 0x4 s (State.setAuth s a0 a1) := by
  unfold State.setAuth
  split
  · extract_lets -underBinder -merge -useContext v0
    refine Moves.sc ?_ rfl rfl rfl rfl
    exact Moves.refl
  · extract_lets -underBinder -merge -useContext v1
    refine Moves.sc ?_ rfl rfl rfl rfl
    exact Moves.refl
  · extract_lets -underBinder -merge -useContext v2
    refine Moves.sc ?_ rfl rfl rfl rfl
    exact Moves.refl

theorem State.authFailed_moves {s : State} {a0 : Sys2Proof.Machine.Cmd} :
    Moves 0x10001000000000000000000000000000000000000000000000000000000000000000000006c04 s (State.authFailed s a0) := by
  unfold State.authFailed
  extract_lets -underBinder -merge -useContext v0 v1 v2 v3
  try clear_value v0
  try clear_value v1
  have h4 : Moves 0x10001000000000000000000000000000000000000000000000000000000000000000000006c04 s v2 := by
    unfold v2
    refine Moves.trans ?_ (Moves.mono (k := 0x4) rfl State.setAuth_moves)
    exact Moves.refl
  try clear_value v2
  have h5 : Moves 0x10001000000000000000000000000000000000000000000000000000000000000000000006c04 s v3 := by
    unfold v3
    split
    · extract_lets -underBinder -merge -useContext v6
      refine Moves.ite ?_ ?_
      · exact h4
      · refine Moves.trans ?_ (Moves.mono (k := 0x1000000000000000000000000000000000000000000000000000000000000000000006c00) rfl State.notify_moves)
        refine Moves.sc ?_ rfl rfl rfl rfl
        exact h4
    · extract_lets -underBinder -merge -useContext v7
      refine Moves.trans ?_ (Moves.mono (k := 0x1000000000000000000000000000000000000000000000000000000000000000000006c00) rfl State.notify_moves)
      refine Moves.sc ?_ rfl rfl rfl rfl
      exact h4
  try clear_value v3
  refine Moves.trans ?_ (Moves.mono (k := 0x10000000000000000000000000000000000000000000000000000000000000000000000000400) rfl State.fail_moves)
  exact h5

theorem State.scBoot_moves {s : State} :
    Moves 0x4 s (State.scBoot s) := by
  unfold State.scBoot
  extract_lets -underBinder -merge -useContext v0 v1
  refine Moves.sc ?_ rfl rfl rfl rfl
  exact Moves.refl

theorem State.endDebug_moves {s : State} :
    Moves 0x4 s (State.endDebug s) := by
  unfold State.endDebug
  extract_lets -underBinder -merge -useContext v0
  refine Moves.sc ?_ rfl rfl rfl rfl
  exact Moves.refl

theorem State.endSessions_moves {s : State} :
    Moves 0x4 s (State.endSessions s) := by
  unfold State.endSessions
  extract_lets -underBinder -merge -useContext v0
  refine Moves.sc ?_ rfl rfl rfl rfl
  exact Moves.refl

theorem State.openStep2_moves {s : State} :
    Moves 0x6 s (State.openStep2 s) := by
  unfold State.openStep2
  extract_lets -underBinder -merge -useContext v0
  refine Moves.scUp ?_ rfl rfl (by simp +zetaDelta) (by intro hh; simp +zetaDelta; try omega) (by simp +zetaDelta)
  exact Moves.refl

theorem State.markerRecover_moves {s : State} :
    Moves 0x6 s (State.markerRecover s) := by
  unfold State.markerRecover
  extract_lets -underBinder -merge -useContext v0 v1 v2
  have h3 : Moves 0x6 s v1 := by
    unfold v1
    refine Moves.ite ?_ ?_
    · refine Moves.trans ?_ (Moves.mono (k := 0x6) rfl State.openStep2_moves)
      exact Moves.refl
    · refine Moves.sc ?_ rfl rfl rfl rfl
      exact Moves.refl
  try clear_value v1
  refine Moves.ite ?_ ?_
  · exact Moves.refl
  · refine Moves.sc ?_ rfl rfl rfl rfl
    exact h3

theorem State.noNonce_moves {s : State} :
    Moves 0x4 s (State.noNonce s) := by
  unfold State.noNonce
  extract_lets -underBinder -merge -useContext v0
  refine Moves.sc ?_ rfl rfl rfl rfl
  exact Moves.refl

theorem State.zeroIdentity_moves {s : State} :
    Moves 0x4 s (State.zeroIdentity s) := by
  unfold State.zeroIdentity
  extract_lets -underBinder -merge -useContext v0
  refine Moves.sc ?_ rfl rfl rfl rfl
  exact Moves.refl

theorem State.zeroise_moves {s : State} :
    Moves 0x100000000000000000000000000000000000000000000000b000000000000000040006f04 s (State.zeroise s) := by
  unfold State.zeroise
  extract_lets -underBinder -merge -useContext v0 v1
  have h2 : Moves 0x100000000000000000000000000000000000000000000000b000000000000000040006f04 s v1 := by
    unfold v1
    refine Moves.trans ?_ (Moves.mono (k := 0x4) rfl State.endSessions_moves)
    refine Moves.sc ?_ rfl rfl rfl rfl
    exact Moves.refl
  try clear_value v1
  refine Moves.foldl ?_ (fun st3 a4 => ?_)
  · exact h2
  · refine Moves.ite ?_ ?_
    · refine Moves.trans ?_ (Moves.mono (k := 0x100000000000000000000000000000000000000000000000b000000000000000040006f00) rfl State.portDown_moves)
      exact Moves.refl
    · exact Moves.refl

theorem State.openStep1_moves {s : State} :
    Moves 0x100000000000000000000000000000000000000000000000b000000000000000040006f04 s (State.openStep1 s) := by
  unfold State.openStep1
  extract_lets -underBinder -merge -useContext v0 v1
  have h2 : Moves 0x100000000000000000000000000000000000000000000000b000000000000000040006f04 s v0 := by
    unfold v0
    refine Moves.trans ?_ (Moves.mono (k := 0x4) rfl State.zeroIdentity_moves)
    refine Moves.trans ?_ (Moves.mono (k := 0x100000000000000000000000000000000000000000000000b000000000000000040006f04) rfl State.zeroise_moves)
    exact Moves.refl
  try clear_value v0
  refine Moves.sc ?_ rfl rfl rfl rfl
  exact h2

theorem State.openDevice_moves {s : State} :
    Moves 0x100000000000000000000000000000000000000000000000b000000000000000040006f86 s (State.openDevice s) := by
  unfold State.openDevice
  extract_lets -underBinder -merge -useContext v0 v1 v2 v3 v4
  have h5 : Moves 0x100000000000000000000000000000000000000000000000b000000000000000040006f86 s v0 := by
    unfold v0
    refine Moves.trans ?_ (Moves.mono (k := 0x6) rfl State.openStep2_moves)
    refine Moves.trans ?_ (Moves.mono (k := 0x100000000000000000000000000000000000000000000000b000000000000000040006f04) rfl State.openStep1_moves)
    exact Moves.refl
  try clear_value v0
  have h6 : Moves 0x100000000000000000000000000000000000000000000000b000000000000000040006f86 s v2 := by
    unfold v2
    refine Moves.sc ?_ rfl rfl rfl rfl
    exact h5
  try clear_value v2
  have h7 : Moves 0x100000000000000000000000000000000000000000000000b000000000000000040006f86 s v4 := by
    unfold v4
    refine Moves.ite ?_ ?_
    · refine Moves.moKeep ?_ rfl rfl rfl rfl rfl
      exact h6
    · exact h6
  try clear_value v4
  refine Moves.trans ?_ (Moves.mono (k := 0x1000000000000000000000000000000000000000000000000000000000000000000006c00) rfl State.notify_moves)
  exact h7

theorem State.provision_moves {s : State} {a0 : List Sys2Proof.W32} {a1 : Nat} :
    Moves 0x1000000000000000000000000000000000000000000000000000000000000000000006c06 s (State.provision s a0 a1) := by
  unfold State.provision
  extract_lets -underBinder -merge -useContext v0 v1 v2
  try clear_value v0
  refine Moves.trans ?_ (Moves.mono (k := 0x1000000000000000000000000000000000000000000000000000000000000000000006c00) rfl State.notify_moves)
  refine Moves.scUp ?_ rfl rfl (by simp +zetaDelta) (by intro hh; simp +zetaDelta; try omega) (by simp +zetaDelta)
  exact Moves.refl

theorem execAttest_moves {a0 : Nat} {a1 : Nat} {a2 : List Sys2Proof.W32} {a3 : Bool} {s : State} :
    ResMoves 0x10000000000000000000000000000000000000000000000000000000000000000000000002400 s (execAttest a0 a1 a2 a3 s) := by
  unfold execAttest
  refine ResMoves.trans ?_ (State.runCmd_moves rfl (fun st0 c1 => ?_))
  · exact Moves.refl
  · refine Moves.trans ?_ (Moves.mono (k := 0x10000000000000000000000000000000000000000000000000000000000000000000000000400) rfl State.done_moves)
    refine Moves.trans ?_ (Moves.mono (k := 0x400) rfl State.dmaOut_moves)
    exact Moves.refl

theorem execAuthChallenge_moves {a0 : Nat} {a1 : Nat} {a2 : List Sys2Proof.W32} {s : State} :
    ResMoves 0x10000000000000000000000000000000000000000000000000000000000000000000000002404 s (execAuthChallenge a0 a1 a2 s) := by
  unfold execAuthChallenge
  refine ResMoves.trans ?_ (State.runCmd_moves rfl (fun st0 c1 => ?_))
  · exact Moves.refl
  · extract_lets -underBinder -merge -useContext v2 v3
    try clear_value v2
    try clear_value v3
    refine Moves.trans ?_ (Moves.mono (k := 0x10000000000000000000000000000000000000000000000000000000000000000000000000400) rfl State.done_moves)
    refine Moves.trans ?_ (Moves.mono (k := 0x4) rfl State.setAuth_moves)
    exact Moves.refl

theorem execAuthEnd_moves {a0 : Nat} {a1 : Nat} {s : State} :
    ResMoves 0x10000000000000000000000000000000000000000000000000000000000000000000000002404 s (execAuthEnd a0 a1 s) := by
  unfold execAuthEnd
  refine ResMoves.trans ?_ (State.runCmd_moves rfl (fun st0 c1 => ?_))
  · exact Moves.refl
  · extract_lets -underBinder -merge -useContext v2 v3
    try clear_value v2
    have h4 : Moves 0x10000000000000000000000000000000000000000000000000000000000000000000000002404 st0 v3 := by
      unfold v3
      refine Moves.ite ?_ ?_
      · refine Moves.trans ?_ (Moves.mono (k := 0x4) rfl State.setAuth_moves)
        exact Moves.refl
      · refine Moves.ite ?_ ?_
        · refine Moves.trans ?_ (Moves.mono (k := 0x4) rfl State.endDebug_moves)
          exact Moves.refl
        · exact Moves.refl
    try clear_value v3
    refine Moves.trans ?_ (Moves.mono (k := 0x10000000000000000000000000000000000000000000000000000000000000000000000000400) rfl State.done_moves)
    exact h4

theorem execAuthResponse_moves {a0 : Nat} {a1 : Nat} {a2 : Bool} {a3 : Nat} {s : State} :
    ResMoves 0x10001000000000000000000000000000000000000000000000000000000000000000000006c04 s (execAuthResponse a0 a1 a2 a3 s) := by
  unfold execAuthResponse
  refine ResMoves.ite ?_ ?_
  · refine ResMoves.next ?_
    exact Moves.refl
  · refine ResMoves.trans ?_ (State.runCmd_moves rfl (fun st0 c1 => ?_))
    · exact Moves.refl
    · extract_lets -underBinder -merge -useContext v2 v3
      try clear_value v2
      try clear_value v3
      refine Moves.ite ?_ ?_
      · refine Moves.trans ?_ (Moves.mono (k := 0x10000000000000000000000000000000000000000000000000000000000000000000000000400) rfl State.done_moves)
        refine Moves.trans ?_ (Moves.mono (k := 0x4) rfl State.setAuth_moves)
        exact Moves.refl
      · refine Moves.ite ?_ ?_
        · refine Moves.trans ?_ (Moves.mono (k := 0x10000000000000000000000000000000000000000000000000000000000000000000000000400) rfl State.done_moves)
          refine Moves.trans ?_ (Moves.mono (k := 0x4) rfl State.setAuth_moves)
          exact Moves.refl
        · refine Moves.trans ?_ (Moves.mono (k := 0x10001000000000000000000000000000000000000000000000000000000000000000000006c04) rfl State.authFailed_moves)
          exact Moves.refl

theorem execFwUpdate_moves {a0 : Nat} {a1 : Nat} {a2 : Option (Nat × Nat × Nat)} {a3 : Bool} {s : State} :
    ResMoves 0x10000000000000000000000000000000000000000000000000000000000000000000000002404 s (execFwUpdate a0 a1 a2 a3 s) := by
  unfold execFwUpdate
  refine ResMoves.trans ?_ (State.runCmd_moves rfl (fun st0 c1 => ?_))
  · exact Moves.refl
  · split
    · exact Moves.refl
    · extract_lets -underBinder -merge -useContext v2 v3 v4
      try clear_value v2
      refine Moves.trans ?_ (Moves.mono (k := 0x10000000000000000000000000000000000000000000000000000000000000000000000000400) rfl State.done_moves)
      refine Moves.sc ?_ rfl (by first | rfl | (split <;> rfl)) (by first | rfl | (split <;> rfl)) (by first | rfl | (split <;> rfl))
      exact Moves.refl

theorem execJtagInstruction_moves {a0 : Nat} {s : State} :
    ResMoves 0x4 s (execJtagInstruction a0 s) := by
  unfold execJtagInstruction
  extract_lets -underBinder -merge -useContext v0
  refine ResMoves.next ?_
  refine Moves.sc ?_ rfl rfl rfl rfl
  exact Moves.refl

theorem execKeyTamper_moves {a0 : Nat} {s : State} :
    ResMoves 0x100000000000000000000000000000000000000000000000b000000000000000040006f04 s (execKeyTamper a0 s) := by
  unfold execKeyTamper
  extract_lets -underBinder -merge -useContext v0 v1 v2 v3
  have h4 : Moves 0x100000000000000000000000000000000000000000000000b000000000000000040006f04 s v0 := by
    unfold v0
    refine Moves.trans ?_ (Moves.mono (k := 0x100000000000000000000000000000000000000000000000b000000000000000040006f04) rfl State.zeroise_moves)
    exact Moves.refl
  try clear_value v0
  have h5 : Moves 0x100000000000000000000000000000000000000000000000b000000000000000040006f04 s v2 := by
    unfold v2
    refine Moves.sc ?_ rfl rfl rfl rfl
    exact h4
  try clear_value v2
  have h6 : Moves 0x100000000000000000000000000000000000000000000000b000000000000000040006f04 s v3 := by
    unfold v3
    refine Moves.trans ?_ (Moves.mono (k := 0x1000000000000000000000000000000000000000000000000000000000000000000006d00) rfl State.evLast_moves)
    exact h5
  try clear_value v3
  refine ResMoves.ite ?_ ?_
  · refine ResMoves.next ?_
    exact Moves.refl
  · refine ResMoves.ite ?_ ?_
    · refine ResMoves.next ?_
      exact h6
    · refine ResMoves.next ?_
      refine Moves.trans ?_ (Moves.mono (k := 0x1000000000000000000000000000000000000000000000000000000000000000000006c00) rfl State.notify_moves)
      exact h6

theorem execOwnerTransfer_moves {a0 : Nat} {a1 : Nat} {a2 : Option (Nat × Nat × Bool)} {a3 : List Sys2Proof.W32} {a4 : Bool} {s : State} :
    ResMoves 0x30001000000000000000000000000000000000000000000000000000000000000000010006c04 s (execOwnerTransfer a0 a1 a2 a3 a4 s) := by
  unfold execOwnerTransfer
  refine ResMoves.trans ?_ (State.runCmd_moves rfl (fun st0 c1 => ?_))
  · exact Moves.refl
  · split
    · exact Moves.refl
    · extract_lets -underBinder -merge -useContext v2 v3 v4 v5 v6 v7 v8
      try clear_value v2
      have h9 : Moves 0x30001000000000000000000000000000000000000000000000000000000000000000010006c04 st0 v5 := by
        unfold v5
        refine Moves.trans ?_ (Moves.mono (k := 0x4) rfl State.endSessions_moves)
        refine Moves.sc ?_ rfl rfl rfl rfl
        exact Moves.refl
      try clear_value v5
      try clear_value v7
      have h10 : Moves 0x30001000000000000000000000000000000000000000000000000000000000000000010006c04 st0 v8 := by
        unfold v8
        refine Moves.ite ?_ ?_
        · exact h9
        · refine Moves.upd (x := v5) ?_ (fun p hp => by cases p <;> first | rfl | exact ⟨rfl, rfl⟩ | exact ⟨rfl, rfl, rfl⟩ | exact ⟨rfl, rfl, rfl, rfl⟩ | exact fun _ => List.prefix_rfl | exact List.prefix_rfl | exact fun _ h _ => h | exact fun _ _ => rfl | exact absurd hp (by decide)) rfl rfl rfl rfl rfl
          exact h9
      try clear_value v8
      refine Moves.trans ?_ (Moves.mono (k := 0x10000000000000000000000000000000000000000000000000000000000000000000000000400) rfl State.done_moves)
      refine Moves.trans ?_ (Moves.mono (k := 0x1000000000000000000000000000000000000000000000000000000000000000000006c00) rfl State.notify_moves)
      exact h10

theorem execUnlockNonce_moves {a0 : Nat} {a1 : Nat} {a2 : List Sys2Proof.W32} {a3 : Bool} {s : State} :
    ResMoves 0x10000000000000000000000000000000000000000000000000000000000000000000000002404 s (execUnlockNonce a0 a1 a2 a3 s) := by
  unfold execUnlockNonce
  refine ResMoves.trans ?_ (State.runCmd_moves rfl (fun st0 c1 => ?_))
  · exact Moves.refl
  · extract_lets -underBinder -merge -useContext v2 v3
    try clear_value v2
    refine Moves.trans ?_ (Moves.mono (k := 0x10000000000000000000000000000000000000000000000000000000000000000000000000400) rfl State.done_moves)
    refine Moves.trans ?_ (Moves.mono (k := 0x400) rfl State.dmaOut_moves)
    refine Moves.sc ?_ rfl rfl rfl rfl
    exact Moves.refl

theorem execUnlockOpen_moves {a0 : Nat} {a1 : Nat} {a2 : Option (List Sys2Proof.W32)} {a3 : Bool} {a4 : Nat} {s : State} :
    ResMoves 0x1000100000000000000000000000000000000000000000000000b000000000000000040006f86 s (execUnlockOpen a0 a1 a2 a3 a4 s) := by
  unfold execUnlockOpen
  refine ResMoves.ite ?_ ?_
  · refine ResMoves.next ?_
    exact Moves.refl
  · refine ResMoves.trans ?_ (State.runCmd_moves rfl (fun st0 c1 => ?_))
    · exact Moves.refl
    · extract_lets -underBinder -merge -useContext v2
      have h3 : ∀ y4, Moves 0x1000100000000000000000000000000000000000000000000000b000000000000000040006f86 y4 (v2 y4) := by
        intro y4
        unfold v2
        beta_reduce
        extract_lets -underBinder -merge -useContext v5
        refine Moves.sc ?_ rfl rfl rfl rfl
        exact Moves.refl
      try clear_value v2
      refine Moves.ite ?_ ?_
      · refine Moves.trans ?_ (Moves.mono (k := 0x10000000000000000000000000000000000000000000000000000000000000000000000000400) rfl State.done_moves)
        refine Moves.trans ?_ (h3 _)
        exact Moves.refl
      · refine Moves.ite ?_ ?_
        · refine Moves.trans ?_ (Moves.mono (k := 0x10000000000000000000000000000000000000000000000000000000000000000000000000400) rfl State.answer_moves)
          exact Moves.refl
        · refine Moves.ite ?_ ?_
          · refine Moves.trans ?_ (Moves.mono (k := 0x10000000000000000000000000000000000000000000000000000000000000000000000000400) rfl State.done_moves)
            refine Moves.trans ?_ (h3 _)
            refine Moves.trans ?_ (Moves.mono (k := 0x100000000000000000000000000000000000000000000000b000000000000000040006f86) rfl State.openDevice_moves)
            refine Moves.trans ?_ (Moves.mono (k := 0x4) rfl State.noNonce_moves)
            exact Moves.refl
          · refine Moves.trans ?_ (Moves.mono (k := 0x10000000000000000000000000000000000000000000000000000000000000000000000000400) rfl State.fail_moves)
            refine Moves.trans ?_ (Moves.mono (k := 0x4) rfl State.noNonce_moves)
            exact Moves.refl

theorem execUnlockProvision_moves {a0 : Nat} {a1 : Nat} {a2 : Option (List Sys2Proof.W32)} {a3 : Bool} {a4 : Bool} {s : State} :
    ResMoves 0x10001000000000000000000000000000000000000000000000000000000000000000000006c06 s (execUnlockProvision a0 a1 a2 a3 a4 s) := by
  unfold execUnlockProvision
  refine ResMoves.trans ?_ (State.runCmd_moves rfl (fun st0 c1 => ?_))
  · exact Moves.refl
  · extract_lets -underBinder -merge -useContext v2 v3
    try clear_value v2
    try clear_value v3
    refine Moves.ite ?_ ?_
    · refine Moves.trans ?_ (Moves.mono (k := 0x10000000000000000000000000000000000000000000000000000000000000000000000000400) rfl State.done_moves)
      refine Moves.trans ?_ (Moves.mono (k := 0x1000000000000000000000000000000000000000000000000000000000000000000006c06) rfl State.provision_moves)
      refine Moves.trans ?_ (Moves.mono (k := 0x4) rfl State.noNonce_moves)
      exact Moves.refl
    · refine Moves.trans ?_ (Moves.mono (k := 0x10000000000000000000000000000000000000000000000000000000000000000000000000400) rfl State.fail_moves)
      refine Moves.trans ?_ (Moves.mono (k := 0x4) rfl State.noNonce_moves)
      exact Moves.refl

theorem execUnlockReprovisionRequest_moves {a0 : Nat} {a1 : Nat} {a2 : List Sys2Proof.W32} {a3 : Bool} {s : State} :
    ResMoves 0x10000000000000000000000000000000000000000000000000000000000000000000000002404 s (execUnlockReprovisionRequest a0 a1 a2 a3 s) := by
  unfold execUnlockReprovisionRequest
  refine ResMoves.trans ?_ (State.runCmd_moves rfl (fun st0 c1 => ?_))
  · exact Moves.refl
  · extract_lets -underBinder -merge -useContext v2
    refine Moves.trans ?_ (Moves.mono (k := 0x10000000000000000000000000000000000000000000000000000000000000000000000000400) rfl State.done_moves)
    refine Moves.trans ?_ (Moves.mono (k := 0x400) rfl State.dmaOut_moves)
    refine Moves.sc ?_ rfl rfl rfl rfl
    exact Moves.refl

end Sys2Proof.Machine
end

