-- ==== Sys2Proof/Laws/FrameArchive.lean ====
section
/-! SUPPORT. What every definition of Machine/Archive.lean may change (masks over `Part.bit`), one lemma each. -/

namespace Sys2Proof.Machine

open Sys2Proof

theorem State.arGone_moves {s : State} :
    Moves 0x1000000000000000000000000000000000000000000000000000000000000000000026d00 s (State.arGone s) := by
  unfold State.arGone
  extract_lets -underBinder -merge -useContext v0 v1
  try clear_value v0
  have h2 : Moves 0x1000000000000000000000000000000000000000000000000000000000000000000026d00 s v1 := by
    unfold v1
    refine Moves.trans ?_ (Moves.mono (k := 0x1000000000000000000000000000000000000000000000000000000000000000000006c00) rfl State.notify_moves)
    refine Moves.ar ?_ rfl
    exact Moves.refl
  try clear_value v1
  refine Moves.ite ?_ ?_
  · refine Moves.ite ?_ ?_
    · refine Moves.trans ?_ (Moves.mono (k := 0x1000000000000000000000000000000000000000000000000000000000000000000026d00) rfl State.evLastResort_moves)
      exact h2
    · exact h2
  · exact Moves.refl

theorem State.arFail_moves {s : State} {a0 : Nat} {a1 : Nat} :
    Moves 0x1000000000000000000000000000000000000000000000000000800000000000000026d00 s (State.arFail s a0 a1) := by
  unfold State.arFail
  refine Moves.trans ?_ (Moves.mono (k := 0x1000000000000000000000000000000000000000000000000000000000000000000026d00) rfl State.arGone_moves)
  refine Moves.trans ?_ (Moves.mono (k := 0x1000000000000000000000000000000000000000000000000000000000000000000006c00) rfl State.notify_moves)
  refine Moves.wr ?_ rfl
  exact Moves.refl

theorem State.arTake_moves {s : State} {a0 : Nat} {a1 : Nat} :
    Moves 0x1c000 s (State.arTake s a0 a1).2 := by
  unfold State.arTake
  extract_lets -underBinder -merge -useContext v0 v1 v2 v3 v4 v5 v6
  try clear_value v0
  try clear_value v1
  try clear_value v2
  try clear_value v4
  try clear_value v5
  try clear_value v6
  split
  · dsimp only
    refine Moves.evKeep ?_ rfl rfl
    exact Moves.refl
  · split
    · dsimp only
      refine Moves.ch ?_ rfl
      exact Moves.refl
    · split
      · extract_lets -underBinder -merge -useContext v7 v8
        try clear_value v7
        try clear_value v8
        dsimp only
        refine Moves.dr ?_ rfl
        exact Moves.refl
      · dsimp only
        exact Moves.refl

theorem State.arShow_moves {s : State} {a0 : Nat} :
    Moves 0x800000000000000000000 s (State.arShow s a0) := by
  unfold State.arShow
  extract_lets -underBinder -merge -useContext v0
  try clear_value v0
  refine Moves.wr ?_ rfl
  refine Moves.wr ?_ rfl
  refine Moves.wr ?_ rfl
  exact Moves.refl

theorem State.arWrite_moves {s : State} {a0 : Nat} {a1 : Nat} {a2 : Nat} {a3 : Nat} :
    Moves 0x80000000000000003c000 s (State.arWrite s a0 a1 a2 a3) := by
  unfold State.arWrite
  extract_lets -underBinder -merge -useContext v0 v1 v2 v3 v4 v5
  have h6 : Moves 0x80000000000000003c000 s v0.2 := by
    unfold v0
    refine Moves.trans ?_ (Moves.mono (k := 0x1c000) rfl State.arTake_moves)
    exact Moves.refl
  try clear_value v0
  try clear_value v1
  try clear_value v2
  have h7 : Moves 0x80000000000000003c000 s v3 := by
    unfold v3
    exact h6
  try clear_value v3
  try clear_value v4
  try clear_value v5
  refine Moves.trans ?_ (Moves.mono (k := 0x800000000000000000000) rfl State.arShow_moves)
  refine Moves.ar ?_ rfl
  exact h7

theorem State.arSlot_moves {s : State} {a0 : Nat} {a1 : Bool} {a2 : Nat} {a3 : Nat} {a4 : Nat} :
    Moves 0x100000000000000000000000000000000000000000000000000080000000000000003ed00 s (State.arSlot s a0 a1 a2 a3 a4) := by
  unfold State.arSlot
  split
  · exact Moves.refl
  · extract_lets -underBinder -merge -useContext v0 v1 v2
    try clear_value v0
    have h3 : Moves 0x100000000000000000000000000000000000000000000000000080000000000000003ed00 s v1 := by
      unfold v1
      refine Moves.ar ?_ rfl
      exact Moves.refl
    try clear_value v1
    have h4 : Moves 0x100000000000000000000000000000000000000000000000000080000000000000003ed00 s v2 := by
      unfold v2
      refine Moves.ite ?_ ?_
      · exact Moves.refl
      · refine Moves.trans ?_ (Moves.mono (k := 0x1000000000000000000000000000000000000000000000000000000000000000000006c00) rfl State.notify_moves)
        refine Moves.bump ?_ rfl
        exact h3
    try clear_value v2
    refine Moves.ite ?_ ?_
    · refine Moves.trans ?_ (Moves.mono (k := 0x1000000000000000000000000000000000000000000000000000800000000000000026d00) rfl State.arFail_moves)
      exact h4
    · refine Moves.trans ?_ (Moves.mono (k := 0x80000000000000003c000) rfl State.arWrite_moves)
      exact h4

theorem State.arAll_moves {s : State} {a0 : Nat} {a1 : Nat} :
    Moves 0x100000000000000000000000000000000000000000000000000080000000000000003ed00 s (State.arAll s a0 a1) := by
  unfold State.arAll
  split
  · exact Moves.refl
  · refine Moves.ite ?_ ?_
    · exact Moves.refl
    · refine Moves.trans ?_ (Moves.mono (k := 0x100000000000000000000000000000000000000000000000000080000000000000003ed00) rfl State.arAll_moves)
      refine Moves.trans ?_ (Moves.mono (k := 0x100000000000000000000000000000000000000000000000000080000000000000003ed00) rfl State.arSlot_moves)
      exact Moves.refl

theorem State.arEnable_moves {s : State} :
    Moves 0x800000000000000000000 s (State.arEnable s) := by
  unfold State.arEnable
  refine Moves.foldl ?_ (fun st0 a1 => ?_)
  · exact Moves.refl
  · refine Moves.ite ?_ ?_
    · exact Moves.refl
    · refine Moves.wr ?_ rfl
      exact Moves.refl

theorem State.arCommit_moves {s : State} {a0 : Nat} :
    Moves 0x800000000000000020000 s (State.arCommit s a0) := by
  unfold State.arCommit
  extract_lets -underBinder -merge -useContext v0
  have h1 : Moves 0x800000000000000020000 s v0 := by
    unfold v0
    refine Moves.ite ?_ ?_
    · refine Moves.trans ?_ (Moves.mono (k := 0x800000000000000000000) rfl State.arEnable_moves)
      exact Moves.refl
    · exact Moves.refl
  try clear_value v0
  refine Moves.foldl ?_ (fun st2 a3 => ?_)
  · exact h1
  · extract_lets -underBinder -merge -useContext v4
    try clear_value v4
    refine Moves.ite ?_ ?_
    · refine Moves.ar ?_ rfl
      exact Moves.refl
    · exact Moves.refl

theorem State.arPartial_moves {s : State} :
    Moves 0x100000000000000000000000000000000000000000000000000080000000000000003ed00 s (State.arPartial s) := by
  unfold State.arPartial
  extract_lets -underBinder -merge -useContext v0
  have h1 : Moves 0x100000000000000000000000000000000000000000000000000080000000000000003ed00 s v0 := by
    unfold v0
    refine Moves.trans ?_ (Moves.mono (k := 0x100000000000000000000000000000000000000000000000000080000000000000003ed00) rfl State.arAll_moves)
    exact Moves.refl
  try clear_value v0
  refine Moves.ite ?_ ?_
  · refine Moves.trans ?_ (Moves.mono (k := 0x100000000000000000000000000000000000000000000000000080000000000000003ed00) rfl State.arAll_moves)
    exact h1
  · exact Moves.refl

theorem State.chPut_moves {s : State} {a0 : Sys2Proof.Machine.ChRec} :
    Moves 0x28000 s (State.chPut s a0) := by
  unfold State.chPut
  extract_lets -underBinder -merge -useContext v0 v1 v2
  try clear_value v0
  have h3 : Moves 0x28000 s v1 := by
    unfold v1
    refine Moves.ch ?_ rfl
    exact Moves.refl
  try clear_value v1
  try clear_value v2
  refine Moves.ite ?_ ?_
  · refine Moves.ar ?_ rfl
    exact h3
  · exact h3

theorem State.chEpoch_moves {s : State} {a0 : Nat} :
    Moves 0x28000 s (State.chEpoch s a0) := by
  unfold State.chEpoch
  refine Moves.trans ?_ (Moves.mono (k := 0x28000) rfl State.chPut_moves)
  exact Moves.refl

theorem State.chAt_moves {s : State} {a0 : Nat} {a1 : Nat} {a2 : Bool} {a3 : Nat} {a4 : Nat} :
    Moves 0x28000 s (State.chAt s a0 a1 a2 a3 a4) := by
  unfold State.chAt
  extract_lets -underBinder -merge -useContext v0 v1
  try clear_value v0
  have h2 : Moves 0x28000 s v1 := by
    unfold v1
    refine Moves.ite ?_ ?_
    · exact Moves.refl
    · refine Moves.trans ?_ (Moves.mono (k := 0x28000) rfl State.chEpoch_moves)
      exact Moves.refl
  try clear_value v1
  refine Moves.trans ?_ (Moves.mono (k := 0x28000) rfl State.chPut_moves)
  exact h2

theorem State.chStart_moves {s : State} {a0 : Nat} :
    Moves 0x28000 s (State.chStart s a0) := by
  unfold State.chStart
  extract_lets -underBinder -merge -useContext v0 v1
  try clear_value v0
  have h2 : Moves 0x28000 s v1 := by
    unfold v1
    refine Moves.ch ?_ rfl
    exact Moves.refl
  try clear_value v1
  refine Moves.ite ?_ ?_
  · refine Moves.trans ?_ (Moves.mono (k := 0x28000) rfl State.chAt_moves)
    exact h2
  · exact h2

theorem State.chDrop_moves {s : State} {a0 : Nat} :
    Moves 0x100000000000000000000000000000000000000000000000000000000000000000000ec00 s (State.chDrop s a0) := by
  unfold State.chDrop
  extract_lets -underBinder -merge -useContext v0 v1 v2
  try clear_value v0
  have h3 : Moves 0x100000000000000000000000000000000000000000000000000000000000000000000ec00 s v1 := by
    unfold v1
    refine Moves.ch ?_ rfl
    exact Moves.refl
  try clear_value v1
  try clear_value v2
  refine Moves.ite ?_ ?_
  · refine Moves.trans ?_ (Moves.mono (k := 0x1000000000000000000000000000000000000000000000000000000000000000000006c00) rfl State.notify_moves)
    refine Moves.ch ?_ rfl
    exact h3
  · exact h3

theorem State.chGap_moves {s : State} :
    Moves 0x100000000000000000000000000000000000000000000000000000000000000000042ec00 s (State.chGap s) := by
  unfold State.chGap
  extract_lets -underBinder -merge -useContext v0 v1 v2 v3 v4 v5
  try clear_value v0
  try clear_value v1
  have h6 : Moves 0x100000000000000000000000000000000000000000000000000000000000000000042ec00 s v2 := by
    unfold v2
    refine Moves.trans ?_ (Moves.mono (k := 0x28000) rfl State.chAt_moves)
    exact Moves.refl
  try clear_value v2
  try clear_value v3
  try clear_value v4
  have h7 : Moves 0x100000000000000000000000000000000000000000000000000000000000000000042ec00 s v5 := by
    unfold v5
    refine Moves.upd (x := v2) ?_ (fun p hp => by cases p <;> first | rfl | exact ⟨rfl, rfl⟩ | exact ⟨rfl, rfl, rfl⟩ | exact ⟨rfl, rfl, rfl, rfl⟩ | exact fun _ => List.prefix_rfl | exact List.prefix_rfl | exact fun _ h _ => h | exact fun _ _ => rfl | exact absurd hp (by decide)) rfl rfl rfl rfl rfl
    exact h6
  try clear_value v5
  refine Moves.trans ?_ (Moves.mono (k := 0x1000000000000000000000000000000000000000000000000000000000000000000006c00) rfl State.notify_moves)
  exact h7

theorem State.chReset_moves {s : State} :
    Moves 0x8000 s (State.chReset s) := by
  unfold State.chReset
  extract_lets -underBinder -merge -useContext v0
  try clear_value v0
  refine Moves.ch ?_ rfl
  exact Moves.refl

theorem State.chSleep_moves {s : State} :
    Moves 0x28000 s (State.chSleep s) := by
  unfold State.chSleep
  refine Moves.ite ?_ ?_
  · refine Moves.trans ?_ (Moves.mono (k := 0x28000) rfl State.chAt_moves)
    exact Moves.refl
  · exact Moves.refl

theorem execArRetest_moves {a0 : Nat} {a1 : Bool} {s : State} :
    ResMoves 0x800000000000000020000 s (execArRetest a0 a1 s) := by
  unfold execArRetest
  extract_lets -underBinder -merge -useContext v0 v1 v2
  try clear_value v0
  have h3 : Moves 0x800000000000000020000 s v1 := by
    unfold v1
    refine Moves.ar ?_ rfl
    exact Moves.refl
  try clear_value v1
  try clear_value v2
  refine ResMoves.ite ?_ ?_
  · refine ResMoves.next ?_
    refine Moves.wr ?_ rfl
    refine Moves.ar ?_ rfl
    exact h3
  · refine ResMoves.next ?_
    exact h3

theorem execArchivePageProgram_moves {a0 : Bool} {a1 : Nat} {a2 : Nat} {a3 : Nat} {s : State} :
    ResMoves 0x100000000000000000000000000000000000000000000000000080000000000000003ed00 s (execArchivePageProgram a0 a1 a2 a3 s) := by
  unfold execArchivePageProgram
  refine ResMoves.ite ?_ ?_
  · split
    · refine ResMoves.next ?_
      refine Moves.trans ?_ (Moves.mono (k := 0x100000000000000000000000000000000000000000000000000080000000000000003ed00) rfl State.arSlot_moves)
      exact Moves.refl
    · refine ResMoves.next ?_
      exact Moves.refl
  · refine ResMoves.next ?_
    exact Moves.refl

theorem execChGapWrite_moves {s : State} :
    ResMoves 0x100000000000000000000000000000000000000000000000000000000000000000042ec00 s (execChGapWrite s) := by
  unfold execChGapWrite
  refine ResMoves.ite ?_ ?_
  · refine ResMoves.next ?_
    refine Moves.trans ?_ (Moves.mono (k := 0x100000000000000000000000000000000000000000000000000000000000000000042ec00) rfl State.chGap_moves)
    exact Moves.refl
  · refine ResMoves.next ?_
    exact Moves.refl

theorem execChangeIngest_moves {s : State} :
    ResMoves 0x100000000000000000000000000000000000000000000000000000000000000000042ec00 s (execChangeIngest s) := by
  unfold execChangeIngest
  split
  · refine ResMoves.next ?_
    exact Moves.refl
  · extract_lets -underBinder -merge -useContext v0 v1 v2
    try clear_value v0
    have h3 : Moves 0x100000000000000000000000000000000000000000000000000000000000000000042ec00 s v1 := by
      unfold v1
      refine Moves.pd ?_ rfl
      exact Moves.refl
    try clear_value v1
    have h4 : Moves 0x100000000000000000000000000000000000000000000000000000000000000000042ec00 s v2 := by
      unfold v2
      refine Moves.ite ?_ ?_
      · refine Moves.trans ?_ (Moves.mono (k := 0x100000000000000000000000000000000000000000000000000000000000000000042ec00) rfl State.chGap_moves)
        exact h3
      · exact h3
    try clear_value v2
    refine ResMoves.ite ?_ ?_
    · refine ResMoves.next ?_
      exact h3
    · refine ResMoves.ite ?_ ?_
      · refine ResMoves.next ?_
        refine Moves.trans ?_ (Moves.mono (k := 0x100000000000000000000000000000000000000000000000000000000000000000000ec00) rfl State.chDrop_moves)
        exact h4
      · refine ResMoves.next ?_
        refine Moves.trans ?_ (Moves.mono (k := 0x28000) rfl State.chAt_moves)
        exact h4

theorem execEpochBoundary_moves {s : State} :
    ResMoves 0x28000 s (execEpochBoundary s) := by
  unfold execEpochBoundary
  refine ResMoves.ite ?_ ?_
  · refine ResMoves.next ?_
    refine Moves.trans ?_ (Moves.mono (k := 0x28000) rfl State.chEpoch_moves)
    exact Moves.refl
  · refine ResMoves.next ?_
    exact Moves.refl

theorem execPartialPageExpiry_moves {a0 : Nat} {a1 : Bool} {a2 : Nat} {a3 : Nat} {s : State} :
    ResMoves 0x100000000000000000000000000000000000000000000000000080000000000000003ed00 s (execPartialPageExpiry a0 a1 a2 a3 s) := by
  unfold execPartialPageExpiry
  extract_lets -underBinder -merge -useContext v0
  try clear_value v0
  refine ResMoves.ite ?_ ?_
  · refine ResMoves.next ?_
    refine Moves.trans ?_ (Moves.mono (k := 0x100000000000000000000000000000000000000000000000000080000000000000003ed00) rfl State.arSlot_moves)
    exact Moves.refl
  · refine ResMoves.next ?_
    exact Moves.refl

theorem execReadyBusyTimeout_moves {a0 : Nat} {s : State} :
    ResMoves 0x1000000000000000000000000000000000000000000000000000800000000000000026d00 s (execReadyBusyTimeout a0 s) := by
  unfold execReadyBusyTimeout
  refine ResMoves.ite ?_ ?_
  · refine ResMoves.next ?_
    refine Moves.trans ?_ (Moves.mono (k := 0x1000000000000000000000000000000000000000000000000000800000000000000026d00) rfl State.arFail_moves)
    exact Moves.refl
  · refine ResMoves.next ?_
    exact Moves.refl

end Sys2Proof.Machine
end

