-- ==== Sys2Proof/Laws/FrameField.lean ====
section
/-! SUPPORT. What every definition of Machine/Field.lean may change (masks over `Part.bit`), one lemma each. -/

namespace Sys2Proof.Machine

open Sys2Proof

theorem State.setForceDi_moves {s : State} {a0 : Nat} {a1 : Option Bool} :
    Moves 0x10000000000000004010000 s (State.setForceDi s a0 a1) := by
  unfold State.setForceDi
  extract_lets -underBinder -merge -useContext v0 v1
  try clear_value v0
  have h2 : Moves 0x10000000000000004010000 s v1 := by
    unfold v1
    refine Moves.setFlag ?_ rfl
    refine Moves.fd ?_ rfl
    exact Moves.refl
  try clear_value v1
  refine Moves.ite ?_ ?_
  · exact h2
  · refine Moves.trans ?_ (Moves.mono (k := 0x10000) rfl State.drFire_moves)
    exact h2

theorem State.clearForces_moves {s : State} :
    Moves 0x10000000000000004c11000 s (State.clearForces s) := by
  unfold State.clearForces
  extract_lets -underBinder -merge -useContext v0 v1
  have h2 : Moves 0x10000000000000004c11000 s v0 := by
    unfold v0
    refine Moves.foldl ?_ (fun st3 a4 => ?_)
    · refine Moves.trans ?_ (Moves.mono (k := 0xc01000) rfl State.unforcePoints_moves)
      exact Moves.refl
    · refine Moves.trans ?_ (Moves.mono (k := 0x10000000000000004010000) rfl State.setForceDi_moves)
      exact Moves.refl
  try clear_value v0
  try clear_value v1
  refine Moves.um ?_ rfl
  exact h2

theorem State.setDout_moves {s : State} {a0 : Nat} {a1 : Sys2Proof.Machine.DoSt} :
    Moves 0x4000000 s (State.setDout s a0 a1) := by
  unfold State.setDout
  extract_lets -underBinder -merge -useContext v0
  try clear_value v0
  refine Moves.fd ?_ rfl
  exact Moves.refl

theorem State.olRelease_moves {s : State} {a0 : Nat} :
    Moves 0x10000000000000004000000 s (State.olRelease s a0) := by
  unfold State.olRelease
  extract_lets -underBinder -merge -useContext v0
  try clear_value v0
  refine Moves.ite ?_ ?_
  · refine Moves.wr ?_ rfl
    refine Moves.trans ?_ (Moves.mono (k := 0x4000000) rfl State.setDout_moves)
    exact Moves.refl
  · exact Moves.refl

theorem State.olEdges_moves {s : State} {a0 : Nat} :
    Moves 0x10000000000000004000000 s (State.olEdges s a0) := by
  unfold State.olEdges
  extract_lets -underBinder -merge -useContext v0 v1 v2 v3
  try clear_value v0
  try clear_value v1
  try clear_value v2
  have h4 : Moves 0x10000000000000004000000 s v3 := by
    unfold v3
    refine Moves.trans ?_ (Moves.mono (k := 0x4000000) rfl State.setDout_moves)
    exact Moves.refl
  try clear_value v3
  refine Moves.ite ?_ ?_
  · refine Moves.ite ?_ ?_
    · refine Moves.trans ?_ (Moves.mono (k := 0x10000000000000004000000) rfl State.olRelease_moves)
      exact Moves.refl
    · exact Moves.refl
  · refine Moves.ite ?_ ?_
    · refine Moves.trans ?_ (Moves.mono (k := 0x10000000000000004000000) rfl State.olRelease_moves)
      exact h4
    · exact h4

theorem State.doDrive_moves {s : State} {a0 : Nat} :
    Moves 0x10000000000000004000000 s (State.doDrive s a0) := by
  unfold State.doDrive
  extract_lets -underBinder -merge -useContext v0 v1 v2 v3 v4
  have h5 : Moves 0x10000000000000004000000 s v0 := by
    unfold v0
    refine Moves.trans ?_ (Moves.mono (k := 0x10000000000000004000000) rfl State.olEdges_moves)
    exact Moves.refl
  try clear_value v0
  try clear_value v1
  try clear_value v2
  have h6 : Moves 0x10000000000000004000000 s v3 := by
    unfold v3
    refine Moves.setFlag ?_ rfl
    refine Moves.wr ?_ rfl
    refine Moves.setFlag ?_ rfl
    refine Moves.setFlag ?_ rfl
    exact h5
  try clear_value v3
  try clear_value v4
  refine Moves.ite ?_ ?_
  · refine Moves.trans ?_ (Moves.mono (k := 0x4000000) rfl State.setDout_moves)
    exact h6
  · refine Moves.ite ?_ ?_
    · refine Moves.trans ?_ (Moves.mono (k := 0x4000000) rfl State.setDout_moves)
      exact h6
    · exact h6

theorem State.fdNotify_moves {s : State} {a0 : Nat} {a1 : Nat} {a2 : Nat} {a3 : Nat} {a4 : Nat} :
    Moves 0x1000000000000000000000000000000000000000000000000000000000000000004006c00 s (State.fdNotify s a0 a1 a2 a3 a4) := by
  unfold State.fdNotify
  extract_lets -underBinder -merge -useContext v0 v1 v2 v3
  try clear_value v0
  try clear_value v1
  have h4 : ∀ y5, Moves 0x1000000000000000000000000000000000000000000000000000000000000000004006c00 s (v2 y5) := by
    intro y5
    unfold v2
    beta_reduce
    extract_lets -underBinder -merge -useContext v6
    try clear_value v6
    refine Moves.fd ?_ rfl
    exact Moves.refl
  try clear_value v2
  have h7 : Moves 0x1000000000000000000000000000000000000000000000000000000000000000004006c00 s v3 := by
    unfold v3
    refine Moves.trans ?_ (Moves.mono (k := 0x4000) rfl State.handOff_moves)
    exact h4 _
  try clear_value v3
  refine Moves.ite ?_ ?_
  · refine Moves.ite ?_ ?_
    · exact h7
    · refine Moves.trans ?_ (Moves.mono (k := 0x2000) rfl State.arrive_moves)
      exact h7
  · refine Moves.trans ?_ (Moves.mono (k := 0x1000000000000000000000000000000000000000000000000000000000000000000006c00) rfl State.notify_moves)
    exact h4 _

theorem State.doDiag_moves {s : State} {a0 : Nat} {a1 : Nat} :
    Moves 0x1000000000000000000000000000000000000000000000000000000000000000004006c00 s (State.doDiag s a0 a1) := by
  unfold State.doDiag
  refine Moves.trans ?_ (Moves.mono (k := 0x1000000000000000000000000000000000000000000000000000000000000000004006c00) rfl State.fdNotify_moves)
  exact Moves.refl

theorem State.doSeen_moves {s : State} {a0 : Nat} {a1 : Nat} :
    Moves 0x10000000000000000000000 s (State.doSeen s a0 a1) := by
  unfold State.doSeen
  refine Moves.wr ?_ rfl
  exact Moves.refl

theorem State.doFlag_moves {s : State} {a0 : Sys2Proof.Machine.Field} {a1 : Nat} {a2 : Nat} {a3 : Nat}
    (ha0 : Nat.testBit 0x1000000000000000000000000000000000000000000000000010000000000000004006c00
    (Part.regs a0.unit).bit = true) :
    Moves 0x1000000000000000000000000000000000000000000000000010000000000000004006c00 s (State.doFlag s a0 a1 a2 a3) := by
  unfold State.doFlag
  refine Moves.ite ?_ ?_
  · exact Moves.refl
  · refine Moves.trans ?_ (Moves.mono (k := 0x1000000000000000000000000000000000000000000000000000000000000000004006c00) rfl State.doDiag_moves)
    refine Moves.trans ?_ (Moves.mono (k := 0x10000000000000000000000) rfl State.doSeen_moves)
    refine Moves.wr ?_ ha0
    exact Moves.refl

theorem State.cutSlots_moves {s : State} {a0 : Nat} :
    Moves 0x1000000000000000000000000000000000000000000000000010000000000000004006c00 s (State.cutSlots s a0) := by
  unfold State.cutSlots
  split
  · exact Moves.refl
  · split
    · exact Moves.refl
    · extract_lets -underBinder -merge -useContext v0 v1 v2 v3 v4 v5 v6
      try clear_value v0
      try clear_value v1
      try clear_value v2
      have h7 : Moves 0x1000000000000000000000000000000000000000000000000010000000000000004006c00 s v3 := by
        unfold v3
        refine Moves.trans ?_ (Moves.mono (k := 0x4000000) rfl State.setDout_moves)
        exact Moves.refl
      try clear_value v3
      have h8 : Moves 0x1000000000000000000000000000000000000000000000000010000000000000004006c00 s v4 := by
        unfold v4
        refine Moves.ite ?_ ?_
        · refine Moves.trans ?_ (Moves.mono (k := 0x1000000000000000000000000000000000000000000000000010000000000000004006c00) rfl (State.doFlag_moves rfl))
          exact h7
        · exact h7
      try clear_value v4
      try clear_value v5
      have h9 : Moves 0x1000000000000000000000000000000000000000000000000010000000000000004006c00 s v6 := by
        unfold v6
        refine Moves.fd ?_ rfl
        exact h8
      try clear_value v6
      refine Moves.ite ?_ ?_
      · refine Moves.trans ?_ (Moves.mono (k := 0x4000) rfl State.stateRec_moves)
        refine Moves.fd ?_ rfl
        exact Moves.refl
      · refine Moves.ite ?_ ?_
        · exact Moves.refl
        · refine Moves.trans ?_ (Moves.mono (k := 0x1000000000000000000000000000000000000000000000000010000000000000004006c00) rfl State.cutSlots_moves)
          exact h9

theorem State.fdDrive_moves {s : State} :
    Moves 0x1000000000000000000000000000000000000000000000000010000000000000004006c00 s (State.fdDrive s) := by
  unfold State.fdDrive
  refine Moves.foldl ?_ (fun st0 a1 => ?_)
  · refine Moves.trans ?_ (Moves.mono (k := 0x1000000000000000000000000000000000000000000000000010000000000000004006c00) rfl State.cutSlots_moves)
    exact Moves.refl
  · refine Moves.trans ?_ (Moves.mono (k := 0x10000000000000004000000) rfl State.doDrive_moves)
    exact Moves.refl

theorem State.clrOl_moves {s : State} {a0 : Nat} :
    Moves 0x1000000000000000000000000000000000000000000000000010000000000000004006c00 s (State.clrOl s a0) := by
  unfold State.clrOl
  refine Moves.trans ?_ (Moves.mono (k := 0x1000000000000000000000000000000000000000000000000010000000000000004006c00) rfl State.fdDrive_moves)
  refine Moves.foldl ?_ (fun st0 a1 => ?_)
  · exact Moves.refl
  · refine Moves.trans ?_ (Moves.mono (k := 0x10000000000000004000000) rfl State.olRelease_moves)
    exact Moves.refl

theorem State.uvRelease_moves {s : State} {a0 : List Nat} :
    Moves 0x10000000000000004000000 s (State.uvRelease s a0) := by
  unfold State.uvRelease
  refine Moves.foldl ?_ (fun st0 a1 => ?_)
  · exact Moves.refl
  · extract_lets -underBinder -merge -useContext v2
    try clear_value v2
    refine Moves.wr ?_ rfl
    refine Moves.trans ?_ (Moves.mono (k := 0x4000000) rfl State.setDout_moves)
    exact Moves.refl

theorem State.clrUv_moves {s : State} {a0 : Nat} :
    Moves 0x1000000000000000000000000000000000000000000000000010000000000000004006c00 s (State.clrUv s a0) := by
  unfold State.clrUv
  refine Moves.ite ?_ ?_
  · refine Moves.trans ?_ (Moves.mono (k := 0x1000000000000000000000000000000000000000000000000010000000000000004006c00) rfl State.fdDrive_moves)
    refine Moves.trans ?_ (Moves.mono (k := 0x10000000000000004000000) rfl State.uvRelease_moves)
    exact Moves.refl
  · exact Moves.refl

theorem State.sntLine_moves {s : State} {a0 : Nat} {a1 : Bool} :
    Moves 0x1000000000000000000000000000000000000000000000000010000000000000004006c00 s (State.sntLine s a0 a1) := by
  unfold State.sntLine
  extract_lets -underBinder -merge -useContext v0 v1
  try clear_value v0
  have h2 : Moves 0x1000000000000000000000000000000000000000000000000010000000000000004006c00 s v1 := by
    unfold v1
    refine Moves.trans ?_ (Moves.mono (k := 0x4000000) rfl State.setDout_moves)
    exact Moves.refl
  try clear_value v1
  refine Moves.trans ?_ (Moves.mono (k := 0x1000000000000000000000000000000000000000000000000010000000000000004006c00) rfl State.fdDrive_moves)
  refine Moves.ite ?_ ?_
  · refine Moves.trans ?_ (Moves.mono (k := 0x10000000000000004000000) rfl State.olRelease_moves)
    exact h2
  · exact h2

theorem State.diJudge_moves {s : State} {a0 : Nat} :
    Moves 0x10000000000000000000000 s (State.diJudge s a0) := by
  unfold State.diJudge
  refine Moves.setFlag ?_ rfl
  exact Moves.refl

theorem State.setDin_moves {s : State} {a0 : Nat} {a1 : Sys2Proof.Machine.DiSt} :
    Moves 0x4000000 s (State.setDin s a0 a1) := by
  unfold State.setDin
  extract_lets -underBinder -merge -useContext v0
  try clear_value v0
  refine Moves.fd ?_ rfl
  exact Moves.refl

theorem State.diRestart_moves {s : State} {a0 : Nat} :
    Moves 0x10000000000000004000000 s (State.diRestart s a0) := by
  unfold State.diRestart
  extract_lets -underBinder -merge -useContext v0
  try clear_value v0
  refine Moves.trans ?_ (Moves.mono (k := 0x10000000000000000000000) rfl State.diJudge_moves)
  refine Moves.trans ?_ (Moves.mono (k := 0x4000000) rfl State.setDin_moves)
  exact Moves.refl

theorem State.fdCommit_moves {s : State} {a0 : State} {a1 : Nat} {a2 : Nat} :
    Moves 0x1000000000000000000000000000000000000000000000000010000000000000004006c00 s (State.fdCommit s a0 a1 a2) := by
  unfold State.fdCommit
  refine Moves.ite ?_ ?_
  · refine Moves.ite ?_ ?_
    · refine Moves.trans ?_ (Moves.mono (k := 0x10000000000000004000000) rfl State.diRestart_moves)
      exact Moves.refl
    · exact Moves.refl
  · refine Moves.trans ?_ (Moves.mono (k := 0x1000000000000000000000000000000000000000000000000010000000000000004006c00) rfl State.fdDrive_moves)
    exact Moves.refl

theorem State.darkPulse_moves {s : State} {a0 : Nat} {a1 : Bool} :
    Moves 0x1000000000000000000000000000000000000000000000000010000000000000004006c00 s (State.darkPulse s a0 a1).1 := by
  unfold State.darkPulse
  extract_lets -underBinder -merge -useContext v0 v1 v2 v3 v4 v5 v6
  try clear_value v0
  try clear_value v1
  have h7 : Moves 0x1000000000000000000000000000000000000000000000000010000000000000004006c00 s v2 := by
    unfold v2
    refine Moves.trans ?_ (Moves.mono (k := 0x4000000) rfl State.setDout_moves)
    exact Moves.refl
  try clear_value v2
  have h8 : Moves 0x1000000000000000000000000000000000000000000000000010000000000000004006c00 s v3 := by
    unfold v3
    refine Moves.trans ?_ (Moves.mono (k := 0x4000000) rfl State.setDout_moves)
    exact h7
  try clear_value v3
  try clear_value v4
  have h9 : Moves 0x1000000000000000000000000000000000000000000000000010000000000000004006c00 s v5 := by
    unfold v5
    refine Moves.trans ?_ (Moves.mono (k := 0x1000000000000000000000000000000000000000000000000010000000000000004006c00) rfl State.fdDrive_moves)
    refine Moves.fd ?_ rfl
    exact h8
  try clear_value v5
  have h10 : Moves 0x1000000000000000000000000000000000000000000000000010000000000000004006c00 s v6 := by
    unfold v6
    refine Moves.ite ?_ ?_
    · refine Moves.wr ?_ rfl
      exact h9
    · refine Moves.trans ?_ (Moves.mono (k := 0x1000000000000000000000000000000000000000000000000000000000000000004006c00) rfl State.fdNotify_moves)
      refine Moves.bump ?_ rfl
      refine Moves.trans ?_ (Moves.mono (k := 0x10000000000000000000000) rfl State.doSeen_moves)
      refine Moves.wr ?_ rfl
      exact h9
  try clear_value v6
  split
  · split
    · dsimp only
      exact h7
    · dsimp only
      exact h10
  · dsimp only
    exact Moves.refl

theorem State.diEdge_moves {s : State} {a0 : Nat} {a1 : Bool} {a2 : Nat} :
    Moves 0x10000 s (State.diEdge s a0 a1 a2) := by
  unfold State.diEdge
  refine Moves.ite ?_ ?_
  · exact Moves.refl
  · refine Moves.trans ?_ (Moves.mono (k := 0x10000) rfl State.drFire_moves)
    exact Moves.refl

theorem State.diShow_moves {s : State} {a0 : Nat} {a1 : Bool} :
    Moves 0x10000000000000004010000 s (State.diShow s a0 a1) := by
  unfold State.diShow
  extract_lets -underBinder -merge -useContext v0 v1 v2
  try clear_value v0
  have h3 : Moves 0x10000000000000004010000 s v1 := by
    unfold v1
    refine Moves.trans ?_ (Moves.mono (k := 0x10000) rfl State.diEdge_moves)
    refine Moves.wr ?_ rfl
    refine Moves.wr ?_ rfl
    refine Moves.setFlag ?_ rfl
    exact Moves.refl
  try clear_value v1
  try clear_value v2
  refine Moves.ite ?_ ?_
  · exact Moves.refl
  · refine Moves.ite ?_ ?_
    · refine Moves.trans ?_ (Moves.mono (k := 0x4000000) rfl State.setDin_moves)
      exact h3
    · refine Moves.wr ?_ rfl
      exact h3

theorem State.diLet_moves {s : State} {a0 : Nat} {a1 : Bool} :
    Moves 0x10000000000000004010000 s (State.diLet s a0 a1) := by
  unfold State.diLet
  refine Moves.ite ?_ ?_
  · exact Moves.refl
  · refine Moves.trans ?_ (Moves.mono (k := 0x10000000000000004010000) rfl State.diShow_moves)
    exact Moves.refl

theorem State.diDiag_moves {s : State} {a0 : Nat} :
    Moves 0x1000000000000000000000000000000000000000000000000000000000000000004006c00 s (State.diDiag s a0) := by
  unfold State.diDiag
  refine Moves.trans ?_ (Moves.mono (k := 0x1000000000000000000000000000000000000000000000000000000000000000004006c00) rfl State.fdNotify_moves)
  exact Moves.refl

theorem State.diFlag_moves {s : State} {a0 : Sys2Proof.Machine.Field} {a1 : Nat}
    (ha0 : Nat.testBit 0x1000000000000000000000000000000000000000000000000010000000000000004006c00
    (Part.regs a0.unit).bit = true) :
    Moves 0x1000000000000000000000000000000000000000000000000010000000000000004006c00 s (State.diFlag s a0 a1) := by
  unfold State.diFlag
  refine Moves.ite ?_ ?_
  · exact Moves.refl
  · refine Moves.trans ?_ (Moves.mono (k := 0x1000000000000000000000000000000000000000000000000000000000000000004006c00) rfl State.diDiag_moves)
    refine Moves.wr ?_ ha0
    exact Moves.refl

theorem State.diChatter_moves {s : State} {a0 : Nat} {a1 : Bool} {a2 : Bool} :
    Moves 0x1000000000000000000000000000000000000000000000000010000000000000004016c00 s (State.diChatter s a0 a1 a2) := by
  unfold State.diChatter
  extract_lets -underBinder -merge -useContext v0 v1 v2 v3 v4
  try clear_value v0
  try clear_value v1
  try clear_value v2
  try clear_value v3
  try clear_value v4
  refine Moves.ite ?_ ?_
  · refine Moves.trans ?_ (Moves.mono (k := 0x10000000000000004010000) rfl State.diLet_moves)
    refine Moves.wr ?_ rfl
    refine Moves.trans ?_ (Moves.mono (k := 0x4000000) rfl State.setDin_moves)
    exact Moves.refl
  · refine Moves.ite ?_ ?_
    · refine Moves.ite ?_ ?_
      · refine Moves.trans ?_ (Moves.mono (k := 0x10000000000000004010000) rfl State.diLet_moves)
        refine Moves.wr ?_ rfl
        refine Moves.trans ?_ (Moves.mono (k := 0x4000000) rfl State.setDin_moves)
        exact Moves.refl
      · refine Moves.trans ?_ (Moves.mono (k := 0x4000000) rfl State.setDin_moves)
        exact Moves.refl
    · refine Moves.ite ?_ ?_
      · refine Moves.trans ?_ (Moves.mono (k := 0x1000000000000000000000000000000000000000000000000010000000000000004006c00) rfl (State.diFlag_moves rfl))
        refine Moves.trans ?_ (Moves.mono (k := 0x10000000000000004010000) rfl State.diShow_moves)
        refine Moves.trans ?_ (Moves.mono (k := 0x4000000) rfl State.setDin_moves)
        exact Moves.refl
      · refine Moves.trans ?_ (Moves.mono (k := 0x10000000000000004010000) rfl State.diLet_moves)
        refine Moves.trans ?_ (Moves.mono (k := 0x4000000) rfl State.setDin_moves)
        exact Moves.refl

theorem State.diFault_moves {s : State} {a0 : Nat} {a1 : Nat} :
    Moves 0x1000000000000000000000000000000000000000000000000010000000000000004016c00 s (State.diFault s a0 a1) := by
  unfold State.diFault
  extract_lets -underBinder -merge -useContext v0 v1 v2 v3
  try clear_value v0
  try clear_value v1
  have h4 : Moves 0x1000000000000000000000000000000000000000000000000010000000000000004016c00 s v2 := by
    unfold v2
    refine Moves.trans ?_ (Moves.mono (k := 0x4000000) rfl State.setDin_moves)
    exact Moves.refl
  try clear_value v2
  have h5 : Moves 0x1000000000000000000000000000000000000000000000000010000000000000004016c00 s v3 := by
    unfold v3
    refine Moves.ite ?_ ?_
    · refine Moves.trans ?_ (Moves.mono (k := 0x1000000000000000000000000000000000000000000000000010000000000000004006c00) rfl (State.diFlag_moves rfl))
      exact h4
    · refine Moves.ite ?_ ?_
      · refine Moves.trans ?_ (Moves.mono (k := 0x1000000000000000000000000000000000000000000000000010000000000000004006c00) rfl (State.diFlag_moves rfl))
        exact h4
      · exact h4
  try clear_value v3
  refine Moves.trans ?_ (Moves.mono (k := 0x1000000000000000000000000000000000000000000000000010000000000000004016c00) rfl State.diChatter_moves)
  exact h5

theorem State.diFilter_moves {s : State} {a0 : Nat} {a1 : Nat} :
    Moves 0x1000000000000000000000000000000000000000000000000010000000000000004016c00 s (State.diFilter s a0 a1) := by
  unfold State.diFilter
  extract_lets -underBinder -merge -useContext v0 v1 v2 v3 v4 v5 v6
  try clear_value v0
  try clear_value v1
  try clear_value v2
  try clear_value v3
  try clear_value v4
  have h7 : Moves 0x1000000000000000000000000000000000000000000000000010000000000000004016c00 s v5 := by
    unfold v5
    refine Moves.wr ?_ rfl
    refine Moves.trans ?_ (Moves.mono (k := 0x4000000) rfl State.setDin_moves)
    exact Moves.refl
  try clear_value v5
  have h8 : Moves 0x1000000000000000000000000000000000000000000000000010000000000000004016c00 s v6 := by
    unfold v6
    refine Moves.ite ?_ ?_
    · refine Moves.wrapInc ?_ rfl
      exact h7
    · exact h7
  try clear_value v6
  refine Moves.trans ?_ (Moves.mono (k := 0x1000000000000000000000000000000000000000000000000010000000000000004016c00) rfl State.diChatter_moves)
  exact h8

theorem State.voltClass_moves {s : State} {a0 : Nat} {a1 : Nat} :
    Moves 0x20 s (State.voltClass s a0 a1).2 := by
  unfold State.voltClass
  extract_lets -underBinder -merge -useContext v0
  try clear_value v0
  split
  · dsimp only
    exact Moves.refl
  · split
    · dsimp only
      exact Moves.refl
    · split
      · split
        · dsimp only
          exact Moves.refl
        · dsimp only
          refine Moves.trans ?_ (Moves.mono (k := 0x20) rfl State.drawn_moves)
          exact Moves.refl
      · split
        · dsimp only
          exact Moves.refl
        · dsimp only
          refine Moves.trans ?_ (Moves.mono (k := 0x20) rfl State.drawn_moves)
          exact Moves.refl

theorem State.diSample_moves {s : State} {a0 : Nat} {a1 : Nat × Nat} :
    Moves 0x1000000000000000000000000000000000000000000000000010000000000000004016c20 s (State.diSample s a0 a1) := by
  unfold State.diSample
  extract_lets -underBinder -merge -useContext v0 v1 v2 v3
  have h4 : Moves 0x1000000000000000000000000000000000000000000000000010000000000000004016c20 s v0.2 := by
    unfold v0
    split
    · dsimp only
      exact Moves.refl
    · refine Moves.trans ?_ (Moves.mono (k := 0x20) rfl State.voltClass_moves)
      exact Moves.refl
  try clear_value v0
  have h5 : Moves 0x1000000000000000000000000000000000000000000000000010000000000000004016c20 s v1 := by
    unfold v1
    refine Moves.wr ?_ rfl
    refine Moves.setFlag ?_ rfl
    exact h4
  try clear_value v1
  try clear_value v2
  have h6 : Moves 0x1000000000000000000000000000000000000000000000000010000000000000004016c20 s v3 := by
    unfold v3
    refine Moves.ite ?_ ?_
    · exact h5
    · refine Moves.ite ?_ ?_
      · refine Moves.trans ?_ (Moves.mono (k := 0x1000000000000000000000000000000000000000000000000010000000000000004016c00) rfl State.diFilter_moves)
        refine Moves.trans ?_ (Moves.mono (k := 0x4000000) rfl State.setDin_moves)
        refine Moves.wr ?_ rfl
        refine Moves.wr ?_ rfl
        exact h5
      · refine Moves.trans ?_ (Moves.mono (k := 0x1000000000000000000000000000000000000000000000000010000000000000004016c00) rfl State.diFault_moves)
        exact h5
  try clear_value v3
  refine Moves.trans ?_ (Moves.mono (k := 0x10000000000000000000000) rfl State.diJudge_moves)
  exact h6

theorem State.doMeasure_moves {s : State} {a0 : Nat} {a1 : Nat × Nat × Bool} :
    Moves 0x1000000000000000000000000000000000000000000000000010000000000000004006c00 s (State.doMeasure s a0 a1) := by
  unfold State.doMeasure
  extract_lets -underBinder -merge -useContext v0 v1 v2 v3 v4 v5 v6
  try clear_value v0
  try clear_value v1
  try clear_value v2
  try clear_value v3
  have h7 : Moves 0x1000000000000000000000000000000000000000000000000010000000000000004006c00 s v4 := by
    unfold v4
    refine Moves.wr ?_ rfl
    refine Moves.setFlag ?_ rfl
    refine Moves.trans ?_ (Moves.mono (k := 0x4000000) rfl State.setDout_moves)
    exact Moves.refl
  try clear_value v4
  have h8 : Moves 0x1000000000000000000000000000000000000000000000000010000000000000004006c00 s v5 := by
    unfold v5
    refine Moves.ite ?_ ?_
    · refine Moves.trans ?_ (Moves.mono (k := 0x1000000000000000000000000000000000000000000000000010000000000000004006c00) rfl (State.doFlag_moves rfl))
      exact h7
    · refine Moves.ite ?_ ?_
      · refine Moves.wr ?_ rfl
        exact h7
      · exact h7
  try clear_value v5
  have h9 : Moves 0x1000000000000000000000000000000000000000000000000010000000000000004006c00 s v6 := by
    unfold v6
    refine Moves.ite ?_ ?_
    · refine Moves.trans ?_ (Moves.mono (k := 0x1000000000000000000000000000000000000000000000000010000000000000004006c00) rfl (State.doFlag_moves rfl))
      exact h8
    · exact h8
  try clear_value v6
  refine Moves.ite ?_ ?_
  · refine Moves.trans ?_ (Moves.mono (k := 0x1000000000000000000000000000000000000000000000000010000000000000004006c00) rfl (State.doFlag_moves rfl))
    exact h9
  · refine Moves.ite ?_ ?_
    · refine Moves.wr ?_ rfl
      exact h9
    · exact h9

theorem State.doTemp_moves {s : State} {a0 : Int} :
    Moves 0x1000000000000000000000000000000000000000000000000010000000000000004006c00 s (State.doTemp s a0) := by
  unfold State.doTemp
  extract_lets -underBinder -merge -useContext v0
  have h1 : Moves 0x1000000000000000000000000000000000000000000000000010000000000000004006c00 s v0 := by
    unfold v0
    refine Moves.wr ?_ rfl
    exact Moves.refl
  try clear_value v0
  refine Moves.ite ?_ ?_
  · refine Moves.foldl ?_ (fun st2 a3 => ?_)
    · exact h1
    · refine Moves.trans ?_ (Moves.mono (k := 0x1000000000000000000000000000000000000000000000000010000000000000004006c00) rfl (State.doFlag_moves rfl))
      exact Moves.refl
  · refine Moves.ite ?_ ?_
    · refine Moves.foldl ?_ (fun st4 a5 => ?_)
      · exact h1
      · refine Moves.wr ?_ rfl
        exact Moves.refl
    · exact h1

theorem State.fieldHold_moves {s : State} :
    Moves 0x10000000000000004000000 s (State.fieldHold s) := by
  unfold State.fieldHold
  extract_lets -underBinder -merge -useContext v0 v1
  have h2 : Moves 0x10000000000000004000000 s v0 := by
    unfold v0
    refine Moves.foldl ?_ (fun st3 a4 => ?_)
    · exact Moves.refl
    · extract_lets -underBinder -merge -useContext v5
      try clear_value v5
      refine Moves.trans ?_ (Moves.mono (k := 0x4000000) rfl State.setDout_moves)
      exact Moves.refl
  try clear_value v0
  try clear_value v1
  refine Moves.wr ?_ rfl
  refine Moves.fd ?_ rfl
  exact h2

theorem State.fldEnter_moves {s : State} {a0 : Nat} {a1 : Nat} :
    Moves 0x1000000000000000000000000000000000000000000000000010000000000000004006c00 s (State.fldEnter s a0 a1) := by
  unfold State.fldEnter
  extract_lets -underBinder -merge -useContext v0 v1 v2 v3 v4 v5 v6 v7 v8
  try clear_value v0
  try clear_value v1
  have h9 : Moves 0x1000000000000000000000000000000000000000000000000010000000000000004006c00 s v2 := by
    unfold v2
    refine Moves.wr ?_ rfl
    exact Moves.refl
  try clear_value v2
  try clear_value v3
  try clear_value v4
  have h10 : Moves 0x1000000000000000000000000000000000000000000000000010000000000000004006c00 s v5 := by
    unfold v5
    refine Moves.ite ?_ ?_
    · refine Moves.fd ?_ rfl
      exact h9
    · refine Moves.fd ?_ rfl
      exact h9
  try clear_value v5
  have h11 : Moves 0x1000000000000000000000000000000000000000000000000010000000000000004006c00 s v6 := by
    unfold v6
    refine Moves.ite ?_ ?_
    · refine Moves.foldl ?_ (fun st12 a13 => ?_)
      · exact h10
      · refine Moves.trans ?_ (Moves.mono (k := 0x10000000000000004000000) rfl State.diRestart_moves)
        exact Moves.refl
    · refine Moves.ite ?_ ?_
      · refine Moves.foldl ?_ (fun st14 a15 => ?_)
        · exact h10
        · refine Moves.trans ?_ (Moves.mono (k := 0x10000000000000000000000) rfl State.diJudge_moves)
          exact Moves.refl
      · exact h10
  try clear_value v6
  try clear_value v7
  have h16 : Moves 0x1000000000000000000000000000000000000000000000000010000000000000004006c00 s v8 := by
    unfold v8
    refine Moves.ite ?_ ?_
    · refine Moves.fd ?_ rfl
      exact h11
    · exact h11
  try clear_value v8
  refine Moves.trans ?_ (Moves.mono (k := 0x1000000000000000000000000000000000000000000000000000000000000000004006c00) rfl State.fdNotify_moves)
  exact h16

theorem State.fldMove_moves {s : State} {a0 : Nat} {a1 : Nat} :
    Moves 0x1000000000000000000000000000000000000000000000000010000000000000004006c00 s (State.fldMove s a0 a1) := by
  unfold State.fldMove
  split
  · exact Moves.refl
  · extract_lets -underBinder -merge -useContext v0
    try clear_value v0
    refine Moves.ite ?_ ?_
    · refine Moves.trans ?_ (Moves.mono (k := 0x1000000000000000000000000000000000000000000000000010000000000000004006c00) rfl State.fldMove_moves)
      refine Moves.trans ?_ (Moves.mono (k := 0x1000000000000000000000000000000000000000000000000010000000000000004006c00) rfl State.fldEnter_moves)
      exact Moves.refl
    · refine Moves.ite ?_ ?_
      · refine Moves.trans ?_ (Moves.mono (k := 0x1000000000000000000000000000000000000000000000000010000000000000004006c00) rfl State.fldMove_moves)
        refine Moves.trans ?_ (Moves.mono (k := 0x1000000000000000000000000000000000000000000000000010000000000000004006c00) rfl State.fldEnter_moves)
        exact Moves.refl
      · exact Moves.refl

theorem State.flpHeartbeat_moves {s : State} :
    Moves 0x4000000 s (State.flpHeartbeat s) := by
  unfold State.flpHeartbeat
  extract_lets -underBinder -merge -useContext v0
  try clear_value v0
  refine Moves.fd ?_ rfl
  exact Moves.refl

theorem State.overload_moves {s : State} {a0 : Nat} :
    Moves 0x1000000000000000000000000000000000000000000000000010000000000000004006c00 s (State.overload s a0) := by
  unfold State.overload
  extract_lets -underBinder -merge -useContext v0 v1 v2
  try clear_value v0
  try clear_value v1
  have h3 : Moves 0x1000000000000000000000000000000000000000000000000010000000000000004006c00 s v2 := by
    unfold v2
    refine Moves.bump ?_ rfl
    refine Moves.trans ?_ (Moves.mono (k := 0x4000000) rfl State.setDout_moves)
    exact Moves.refl
  try clear_value v2
  refine Moves.trans ?_ (Moves.mono (k := 0x1000000000000000000000000000000000000000000000000010000000000000004006c00) rfl State.fdDrive_moves)
  refine Moves.trans ?_ (Moves.mono (k := 0x1000000000000000000000000000000000000000000000000010000000000000004006c00) rfl (State.doFlag_moves rfl))
  exact h3

theorem State.setForceDo_moves {s : State} {a0 : Nat} {a1 : Option Bool} :
    Moves 0x800000 s (State.setForceDo s a0 a1) := by
  unfold State.setForceDo
  extract_lets -underBinder -merge -useContext v0
  try clear_value v0
  refine Moves.um ?_ rfl
  exact Moves.refl

theorem execClrOl_moves {a0 : Sys2Proof.W32} {s : State} :
    ResMoves 0x1000000000000000000000000000000000000000000000000010000000000000004006c00 s (execClrOl a0 s) := by
  unfold execClrOl
  refine ResMoves.ite ?_ ?_
  · refine ResMoves.next ?_
    refine Moves.trans ?_ (Moves.mono (k := 0x1000000000000000000000000000000000000000000000000010000000000000004006c00) rfl State.clrOl_moves)
    exact Moves.refl
  · refine ResMoves.next ?_
    exact Moves.refl

theorem execClrUv_moves {a0 : Sys2Proof.W32} {s : State} :
    ResMoves 0x1000000000000000000000000000000000000000000000000010000000000000004006c00 s (execClrUv a0 s) := by
  unfold execClrUv
  refine ResMoves.ite ?_ ?_
  · refine ResMoves.next ?_
    refine Moves.trans ?_ (Moves.mono (k := 0x1000000000000000000000000000000000000000000000000010000000000000004006c00) rfl State.clrUv_moves)
    exact Moves.refl
  · refine ResMoves.next ?_
    exact Moves.refl

theorem fieldSample_moves {a0 : List (Nat × Nat)} {s : State} :
    ResMoves 0x1000000000000000000000000000000000000000000000000010000000000000004016c20 s (fieldSample a0 s) := by
  unfold fieldSample
  extract_lets -underBinder -merge -useContext v0 v1
  try clear_value v0
  have h2 : Moves 0x1000000000000000000000000000000000000000000000000010000000000000004016c20 s v1 := by
    unfold v1
    refine Moves.fd ?_ rfl
    exact Moves.refl
  try clear_value v1
  refine ResMoves.ite ?_ ?_
  · refine ResMoves.next ?_
    exact Moves.refl
  · refine ResMoves.next ?_
    refine Moves.foldl ?_ (fun st3 a4 => ?_)
    · exact h2
    · refine Moves.trans ?_ (Moves.mono (k := 0x1000000000000000000000000000000000000000000000000010000000000000004016c20) rfl State.diSample_moves)
      exact Moves.refl

theorem execDiStuckExpiry_moves {a0 : Nat} {s : State} :
    ResMoves 0x1000000000000000000000000000000000000000000000000010000000000000004006c00 s (execDiStuckExpiry a0 s) := by
  unfold execDiStuckExpiry
  extract_lets -underBinder -merge -useContext v0
  try clear_value v0
  refine ResMoves.ite ?_ ?_
  · refine ResMoves.next ?_
    refine Moves.trans ?_ (Moves.mono (k := 0x1000000000000000000000000000000000000000000000000010000000000000004006c00) rfl (State.diFlag_moves rfl))
    exact Moves.refl
  · refine ResMoves.next ?_
    exact Moves.refl

theorem execDirectTripHoldExpiry_moves {a0 : Nat} {s : State} :
    ResMoves 0x1000000000000000000000000000000000000000000000000010000000000000004006c00 s (execDirectTripHoldExpiry a0 s) := by
  unfold execDirectTripHoldExpiry
  refine ResMoves.ite ?_ ?_
  · refine ResMoves.next ?_
    refine Moves.trans ?_ (Moves.mono (k := 0x1000000000000000000000000000000000000000000000000010000000000000004006c00) rfl State.fdDrive_moves)
    exact Moves.refl
  · refine ResMoves.next ?_
    exact Moves.refl

theorem fieldStep_moves {a0 : List (Nat × Nat × Bool)} {a1 : Nat} {a2 : Int} {s : State} :
    ResMoves 0x1000000000000000000000000000000000000000000000000010000000000000004006c00 s (fieldStep a0 a1 a2 s) := by
  unfold fieldStep
  extract_lets -underBinder -merge -useContext v0 v1 v2
  try clear_value v0
  have h3 : Moves 0x1000000000000000000000000000000000000000000000000010000000000000004006c00 s v1 := by
    unfold v1
    refine Moves.wr ?_ rfl
    refine Moves.fd ?_ rfl
    exact Moves.refl
  try clear_value v1
  have h4 : Moves 0x1000000000000000000000000000000000000000000000000010000000000000004006c00 s v2 := by
    unfold v2
    refine Moves.foldl ?_ (fun st5 a6 => ?_)
    · exact h3
    · refine Moves.trans ?_ (Moves.mono (k := 0x1000000000000000000000000000000000000000000000000010000000000000004006c00) rfl State.doMeasure_moves)
      exact Moves.refl
  try clear_value v2
  refine ResMoves.ite ?_ ?_
  · refine ResMoves.next ?_
    exact Moves.refl
  · refine ResMoves.next ?_
    refine Moves.trans ?_ (Moves.mono (k := 0x1000000000000000000000000000000000000000000000000010000000000000004006c00) rfl State.fdDrive_moves)
    refine Moves.trans ?_ (Moves.mono (k := 0x1000000000000000000000000000000000000000000000000010000000000000004006c00) rfl State.doTemp_moves)
    exact h4

theorem execFieldWatchdogExpiry_moves {s : State} :
    ResMoves 0x1000000000000000000000000000000000000000000000000010000000000000004006c00 s (execFieldWatchdogExpiry s) := by
  unfold execFieldWatchdogExpiry
  extract_lets -underBinder -merge -useContext v0 v1 v2 v3
  have h4 : Moves 0x1000000000000000000000000000000000000000000000000010000000000000004006c00 s v0 := by
    unfold v0
    refine Moves.foldl ?_ (fun st5 a6 => ?_)
    · exact Moves.refl
    · extract_lets -underBinder -merge -useContext v7
      try clear_value v7
      refine Moves.trans ?_ (Moves.mono (k := 0x4000000) rfl State.setDout_moves)
      exact Moves.refl
  try clear_value v0
  have h8 : Moves 0x1000000000000000000000000000000000000000000000000010000000000000004006c00 s v1 := by
    unfold v1
    refine Moves.trans ?_ (Moves.mono (k := 0x1000000000000000000000000000000000000000000000000010000000000000004006c00) rfl State.fdDrive_moves)
    refine Moves.bump ?_ rfl
    refine Moves.wr ?_ rfl
    exact h4
  try clear_value v1
  try clear_value v2
  have h9 : Moves 0x1000000000000000000000000000000000000000000000000010000000000000004006c00 s v3 := by
    unfold v3
    refine Moves.fd ?_ rfl
    exact h8
  try clear_value v3
  refine ResMoves.ite ?_ ?_
  · refine ResMoves.next ?_
    refine Moves.trans ?_ (Moves.mono (k := 0x1000000000000000000000000000000000000000000000000000000000000000004006c00) rfl State.fdNotify_moves)
    refine Moves.trans ?_ (Moves.mono (k := 0x4000) rfl State.stateRec_moves)
    exact h9
  · refine ResMoves.next ?_
    exact Moves.refl

theorem execFieldWatchdogRefresh_moves {s : State} :
    ResMoves 0x1000000000000000000000000000000000000000000000000010000000000000004006c00 s (execFieldWatchdogRefresh s) := by
  unfold execFieldWatchdogRefresh
  extract_lets -underBinder -merge -useContext v0 v1 v2 v3 v4 v5
  try clear_value v0
  try clear_value v1
  try clear_value v2
  try clear_value v3
  have h6 : Moves 0x1000000000000000000000000000000000000000000000000010000000000000004006c00 s v4 := by
    unfold v4
    refine Moves.fd ?_ rfl
    exact Moves.refl
  try clear_value v4
  have h7 : Moves 0x1000000000000000000000000000000000000000000000000010000000000000004006c00 s v5 := by
    unfold v5
    refine Moves.wr ?_ rfl
    exact h6
  try clear_value v5
  refine ResMoves.ite ?_ ?_
  · refine ResMoves.next ?_
    exact Moves.refl
  · refine ResMoves.next ?_
    refine Moves.trans ?_ (Moves.mono (k := 0x1000000000000000000000000000000000000000000000000010000000000000004006c00) rfl State.fdDrive_moves)
    refine Moves.ite ?_ ?_
    · refine Moves.wr ?_ rfl
      exact h7
    · exact h7

theorem fieldCrossing_moves {a0 : Nat} {s : State} :
    ResMoves 0x1000000000000000000000000000000000000000000000000010000000000000004006c00 s (fieldCrossing a0 s) := by
  unfold fieldCrossing
  refine ResMoves.ite ?_ ?_
  · refine ResMoves.next ?_
    refine Moves.trans ?_ (Moves.mono (k := 0x1000000000000000000000000000000000000000000000000010000000000000004006c00) rfl State.fdDrive_moves)
    refine Moves.trans ?_ (Moves.mono (k := 0x1000000000000000000000000000000000000000000000000010000000000000004006c00) rfl State.fldMove_moves)
    refine Moves.wr ?_ rfl
    exact Moves.refl
  · refine ResMoves.next ?_
    exact Moves.refl

theorem execForceClear_moves {a0 : Nat} {a1 : Nat} {s : State} :
    ResMoves 0x10000000000000000000000000000000000000000000000000000010000000000000004c13400 s (execForceClear a0 a1 s) := by
  unfold execForceClear
  refine ResMoves.trans ?_ (State.runCmd_moves rfl (fun st0 c1 => ?_))
  · exact Moves.refl
  · split
    · extract_lets -underBinder -merge -useContext v2
      try clear_value v2
      refine Moves.ite ?_ ?_
      · refine Moves.trans ?_ (Moves.mono (k := 0x10000000000000000000000000000000000000000000000000000000000000000000000000400) rfl State.answer_moves)
        exact Moves.refl
      · refine Moves.trans ?_ (Moves.mono (k := 0x10000000000000000000000000000000000000000000000000000000000000000000000000400) rfl State.done_moves)
        refine Moves.foldl ?_ (fun st3 a4 => ?_)
        · exact Moves.refl
        · refine Moves.trans ?_ (Moves.mono (k := 0xc01000) rfl State.unforcePoint_moves)
          exact Moves.refl
    · refine Moves.ite ?_ ?_
      · refine Moves.trans ?_ (Moves.mono (k := 0x10000000000000000000000000000000000000000000000000000000000000000000000000400) rfl State.answer_moves)
        exact Moves.refl
      · refine Moves.trans ?_ (Moves.mono (k := 0x10000000000000000000000000000000000000000000000000000000000000000000000000400) rfl State.done_moves)
        refine Moves.trans ?_ (Moves.mono (k := 0x10000000000000004010000) rfl State.setForceDi_moves)
        exact Moves.refl
    · refine Moves.ite ?_ ?_
      · refine Moves.trans ?_ (Moves.mono (k := 0x10000000000000000000000000000000000000000000000000000000000000000000000000400) rfl State.answer_moves)
        exact Moves.refl
      · refine Moves.trans ?_ (Moves.mono (k := 0x10000000000000000000000000000000000000000000000000000000000000000000000000400) rfl State.done_moves)
        refine Moves.trans ?_ (Moves.mono (k := 0x800000) rfl State.setForceDo_moves)
        exact Moves.refl
    · exact Moves.refl

theorem execForceSet_moves {a0 : Nat} {a1 : Nat} {s : State} :
    ResMoves 0x10000000000000000000000000000000000000000000000000000010000000000000004c13400 s (execForceSet a0 a1 s) := by
  unfold execForceSet
  refine ResMoves.trans ?_ (State.runCmd_moves rfl (fun st0 c1 => ?_))
  · exact Moves.refl
  · split
    · refine Moves.trans ?_ (Moves.mono (k := 0x10000000000000000000000000000000000000000000000000000000000000000000000000400) rfl State.done_moves)
      refine Moves.trans ?_ (Moves.mono (k := 0xc01000) rfl State.forcePoint_moves)
      exact Moves.refl
    · refine Moves.trans ?_ (Moves.mono (k := 0x10000000000000000000000000000000000000000000000000000000000000000000000000400) rfl State.done_moves)
      refine Moves.trans ?_ (Moves.mono (k := 0x10000000000000004010000) rfl State.setForceDi_moves)
      exact Moves.refl
    · refine Moves.trans ?_ (Moves.mono (k := 0x10000000000000000000000000000000000000000000000000000000000000000000000000400) rfl State.done_moves)
      refine Moves.trans ?_ (Moves.mono (k := 0x800000) rfl State.setForceDo_moves)
      exact Moves.refl
    · exact Moves.refl

theorem execHeartbeatLoss_moves {s : State} :
    ResMoves 0x1000000000000000000000000000000000000000000000000010000000000000004006c00 s (execHeartbeatLoss s) := by
  unfold execHeartbeatLoss
  extract_lets -underBinder -merge -useContext v0 v1
  have h2 : Moves 0x1000000000000000000000000000000000000000000000000010000000000000004006c00 s v0 := by
    unfold v0
    refine Moves.foldl ?_ (fun st3 a4 => ?_)
    · exact Moves.refl
    · extract_lets -underBinder -merge -useContext v5
      try clear_value v5
      refine Moves.trans ?_ (Moves.mono (k := 0x4000000) rfl State.setDout_moves)
      exact Moves.refl
  try clear_value v0
  have h6 : Moves 0x1000000000000000000000000000000000000000000000000010000000000000004006c00 s v1 := by
    unfold v1
    refine Moves.trans ?_ (Moves.mono (k := 0x1000000000000000000000000000000000000000000000000010000000000000004006c00) rfl State.fdDrive_moves)
    refine Moves.wr ?_ rfl
    exact h2
  try clear_value v1
  refine ResMoves.ite ?_ ?_
  · refine ResMoves.next ?_
    refine Moves.trans ?_ (Moves.mono (k := 0x4000) rfl State.stateRec_moves)
    exact h6
  · refine ResMoves.next ?_
    exact Moves.refl

theorem fieldOffState_moves {a0 : Nat} {a1 : Bool} {a2 : Bool} {s : State} :
    ResMoves 0x1000000000000000000000000000000000000000000000000010000000000000004006c00 s (fieldOffState a0 a1 a2 s) := by
  unfold fieldOffState
  extract_lets -underBinder -merge -useContext v0 v1 v2
  try clear_value v0
  have h3 : Moves 0x1000000000000000000000000000000000000000000000000010000000000000004006c00 s v1 := by
    unfold v1
    refine Moves.trans ?_ (Moves.mono (k := 0x4000000) rfl State.setDout_moves)
    exact Moves.refl
  try clear_value v1
  have h4 : Moves 0x1000000000000000000000000000000000000000000000000010000000000000004006c00 s v2 := by
    unfold v2
    refine Moves.wr ?_ rfl
    exact h3
  try clear_value v2
  refine ResMoves.ite ?_ ?_
  · refine ResMoves.ite ?_ ?_
    · refine ResMoves.next ?_
      refine Moves.trans ?_ (Moves.mono (k := 0x1000000000000000000000000000000000000000000000000010000000000000004006c00) rfl (State.doFlag_moves rfl))
      exact h3
    · refine ResMoves.ite ?_ ?_
      · refine ResMoves.next ?_
        exact h4
      · refine ResMoves.ite ?_ ?_
        · refine ResMoves.next ?_
          refine Moves.trans ?_ (Moves.mono (k := 0x1000000000000000000000000000000000000000000000000010000000000000004006c00) rfl (State.doFlag_moves rfl))
          exact h4
        · refine ResMoves.next ?_
          refine Moves.wr ?_ rfl
          exact h4
  · refine ResMoves.next ?_
    exact Moves.refl

theorem execOverloadRetry_moves {a0 : Nat} {s : State} :
    ResMoves 0x1000000000000000000000000000000000000000000000000010000000000000004006c00 s (execOverloadRetry a0 s) := by
  unfold execOverloadRetry
  extract_lets -underBinder -merge -useContext v0
  try clear_value v0
  refine ResMoves.ite ?_ ?_
  · refine ResMoves.next ?_
    refine Moves.trans ?_ (Moves.mono (k := 0x1000000000000000000000000000000000000000000000000010000000000000004006c00) rfl State.fdDrive_moves)
    refine Moves.wr ?_ rfl
    refine Moves.trans ?_ (Moves.mono (k := 0x4000000) rfl State.setDout_moves)
    exact Moves.refl
  · refine ResMoves.next ?_
    exact Moves.refl

theorem fieldOverload_moves {a0 : Nat} {s : State} :
    ResMoves 0x1000000000000000000000000000000000000000000000000010000000000000004006c00 s (fieldOverload a0 s) := by
  unfold fieldOverload
  extract_lets -underBinder -merge -useContext v0
  try clear_value v0
  split
  · refine ResMoves.next ?_
    exact Moves.refl
  · extract_lets -underBinder -merge -useContext v1
    try clear_value v1
    refine ResMoves.ite ?_ ?_
    · refine ResMoves.next ?_
      refine Moves.trans ?_ (Moves.mono (k := 0x1000000000000000000000000000000000000000000000000010000000000000004006c00) rfl State.overload_moves)
      exact Moves.refl
    · refine ResMoves.next ?_
      exact Moves.refl

theorem execSupplyGoodExpiry_moves {s : State} :
    ResMoves 0x1000000000000000000000000000000000000000000000000010000000000000004006c00 s (execSupplyGoodExpiry s) := by
  unfold execSupplyGoodExpiry
  split
  · refine ResMoves.next ?_
    exact Moves.refl
  · extract_lets -underBinder -merge -useContext v0 v1 v2 v3 v4 v5
    try clear_value v0
    try clear_value v1
    try clear_value v2
    have h6 : Moves 0x1000000000000000000000000000000000000000000000000010000000000000004006c00 s v3 := by
      unfold v3
      refine Moves.trans ?_ (Moves.mono (k := 0x10000000000000004000000) rfl State.uvRelease_moves)
      refine Moves.fd ?_ rfl
      exact Moves.refl
    try clear_value v3
    try clear_value v4
    have h7 : Moves 0x1000000000000000000000000000000000000000000000000010000000000000004006c00 s v5 := by
      unfold v5
      refine Moves.ite ?_ ?_
      · exact h6
      · refine Moves.trans ?_ (Moves.mono (k := 0x4000) rfl State.stateRec_moves)
        exact h6
    try clear_value v5
    refine ResMoves.ite ?_ ?_
    · refine ResMoves.next ?_
      refine Moves.trans ?_ (Moves.mono (k := 0x1000000000000000000000000000000000000000000000000010000000000000004006c00) rfl State.fdDrive_moves)
      exact h7
    · refine ResMoves.next ?_
      exact Moves.refl

theorem fieldThermal_moves {a0 : Nat} {a1 : Int} {s : State} :
    ResMoves 0x1000000000000000000000000000000000000000000000000010000000000000004006c00 s (fieldThermal a0 a1 s) := by
  unfold fieldThermal
  extract_lets -underBinder -merge -useContext v0 v1
  have h2 : Moves 0x1000000000000000000000000000000000000000000000000010000000000000004006c00 s v0 := by
    unfold v0
    refine Moves.bump ?_ rfl
    refine Moves.wr ?_ rfl
    exact Moves.refl
  try clear_value v0
  have h3 : Moves 0x1000000000000000000000000000000000000000000000000010000000000000004006c00 s v1 := by
    unfold v1
    refine Moves.ite ?_ ?_
    · refine Moves.trans ?_ (Moves.mono (k := 0x1000000000000000000000000000000000000000000000000000000000000000004006c00) rfl State.doDiag_moves)
      exact h2
    · refine Moves.trans ?_ (Moves.mono (k := 0x1000000000000000000000000000000000000000000000000010000000000000004006c00) rfl (State.doFlag_moves rfl))
      exact h2
  try clear_value v1
  refine ResMoves.ite ?_ ?_
  · refine ResMoves.next ?_
    exact Moves.refl
  · refine ResMoves.ite ?_ ?_
    · refine ResMoves.next ?_
      refine Moves.trans ?_ (Moves.mono (k := 0x1000000000000000000000000000000000000000000000000010000000000000004006c00) rfl State.fdDrive_moves)
      exact h3
    · refine ResMoves.ite ?_ ?_
      · refine ResMoves.next ?_
        refine Moves.trans ?_ (Moves.mono (k := 0x1000000000000000000000000000000000000000000000000010000000000000004006c00) rfl State.fdDrive_moves)
        refine Moves.wr ?_ rfl
        refine Moves.wr ?_ rfl
        exact Moves.refl
      · refine ResMoves.next ?_
        exact Moves.refl

end Sys2Proof.Machine
end

