-- ==== Sys2Proof/Laws/FrameComparators.lean ====
section
/-! SUPPORT. What every definition of Machine/Comparators.lean may change (masks over `Part.bit`), one lemma each. -/

namespace Sys2Proof.Machine

open Sys2Proof

theorem State.arcSet_moves {s : State} {a0 : Nat} {a1 : Bool} :
    Moves 0x1000000000000000000000000000000000000000000000000000000000003010040b16c00 s (State.arcSet s a0 a1) := by
  unfold State.arcSet
  extract_lets -underBinder -merge -useContext v0 v1
  have h2 : Moves 0x1000000000000000000000000000000000000000000000000000000000003010040b16c00 s v0 := by
    unfold v0
    refine Moves.setFlag ?_ rfl
    exact Moves.refl
  try clear_value v0
  have h3 : Moves 0x1000000000000000000000000000000000000000000000000000000000003010040b16c00 s v1 := by
    unfold v1
    refine Moves.ite ?_ ?_
    · refine Moves.wr ?_ rfl
      exact h2
    · exact h2
  try clear_value v1
  refine Moves.ite ?_ ?_
  · refine Moves.trans ?_ (Moves.mono (k := 0x1000000000000000000000000000000000000000000000000000000000002000040a16c00) rfl State.tmStep_moves)
    refine Moves.trans ?_ (Moves.mono (k := 0x1000000114000) rfl State.fastBlocks_moves)
    refine Moves.trans ?_ (Moves.mono (k := 0x1000000114000) rfl State.arcElems_moves)
    exact h3
  · exact h3

theorem State.sntUpdate_moves {s : State} {a0 : State} :
    Moves 0x1000000000000000000000000000000000000000000000000010000000000000004006c00 s (State.sntUpdate s a0) := by
  unfold State.sntUpdate
  refine Moves.trans ?_ (State.each_moves (fun st0 a1 => ?_))
  · exact Moves.refl
  · refine Moves.ite ?_ ?_
    · exact Moves.refl
    · refine Moves.trans ?_ (Moves.mono (k := 0x1000000000000000000000000000000000000000000000000010000000000000004006c00) rfl State.sntLine_moves)
      exact Moves.refl

theorem State.dtripSet_moves {s : State} {a0 : Nat} {a1 : Bool} :
    Moves 0x1000000000000000000000000000000000000000000000000010000000000010004046c00 s (State.dtripSet s a0 a1) := by
  unfold State.dtripSet
  extract_lets -underBinder -merge -useContext v0 v1 v2 v3
  try clear_value v0
  have h4 : Moves 0x1000000000000000000000000000000000000000000000000010000000000010004046c00 s v1 := by
    unfold v1
    refine Moves.af ?_ rfl
    exact Moves.refl
  try clear_value v1
  try clear_value v2
  have h5 : Moves 0x1000000000000000000000000000000000000000000000000010000000000010004046c00 s v3 := by
    unfold v3
    refine Moves.trans ?_ (Moves.mono (k := 0x4000) rfl State.stateRecAt_moves)
    refine Moves.wr ?_ rfl
    exact h4
  try clear_value v3
  refine Moves.trans ?_ (Moves.mono (k := 0x1000000000000000000000000000000000000000000000000010000000000000004006c00) rfl State.sntUpdate_moves)
  exact h5

theorem State.thresholdsCommit_moves {s : State} {a0 : State} {a1 : List Nat} {a2 : List Nat} :
    Moves 0x1000000000000000000000000000000000000000000000000010000000003010044b56c00 s (State.thresholdsCommit s a0 a1 a2) := by
  unfold State.thresholdsCommit
  extract_lets -underBinder -merge -useContext v0 v1
  have h2 : Moves 0x1000000000000000000000000000000000000000000000000010000000003010044b56c00 s v0 := by
    unfold v0
    refine Moves.trans ?_ (State.each_moves (fun st3 a4 => ?_))
    · exact Moves.refl
    · refine Moves.trans ?_ (Moves.mono (k := 0x1000000000000000000000000000000000000000000000000010000000000010004046c00) rfl State.dtripSet_moves)
      exact Moves.refl
  try clear_value v0
  have h5 : Moves 0x1000000000000000000000000000000000000000000000000010000000003010044b56c00 s v1 := by
    unfold v1
    refine Moves.trans ?_ (State.each_moves (fun st6 a7 => ?_))
    · exact h2
    · refine Moves.ite ?_ ?_
      · exact Moves.refl
      · refine Moves.trans ?_ (Moves.mono (k := 0x1000000000000000000000000000000000000000000000000010000000000000004006c00) rfl State.sntLine_moves)
        exact Moves.refl
  try clear_value v1
  refine Moves.trans ?_ (State.each_moves (fun st8 a9 => ?_))
  · exact h5
  · refine Moves.trans ?_ (Moves.mono (k := 0x1000000000000000000000000000000000000000000000000000000000003010040b16c00) rfl State.arcSet_moves)
    exact Moves.refl

end Sys2Proof.Machine
end

