-- ==== Sys2Proof/Laws/FrameDisturb.lean ====
section
/-! SUPPORT. What every definition of Machine/Disturb.lean may change (masks over `Part.bit`), one lemma each. -/

namespace Sys2Proof.Machine

open Sys2Proof

theorem State.drShow_moves {s : State} {a0 : Nat} :
    Moves 0x400000000000000000000 s (State.drShow s a0) := by
  unfold State.drShow
  split
  · refine Moves.foldl ?_ (fun st0 a1 => ?_)
    · exact Moves.refl
    · refine Moves.putWord ?_ rfl
      exact Moves.refl
  · extract_lets -underBinder -merge -useContext v2 v3
    try clear_value v2
    have h4 : Moves 0x400000000000000000000 s v3 := by
      unfold v3
      refine Moves.wr ?_ rfl
      refine Moves.wr ?_ rfl
      refine Moves.wr ?_ rfl
      exact Moves.refl
    try clear_value v3
    refine Moves.wr ?_ rfl
    refine Moves.wrk ?_ rfl
    refine Moves.wrk ?_ rfl
    refine Moves.wr ?_ rfl
    exact h4

theorem State.setDrRec_moves {s : State} {a0 : Nat} {a1 : Option Sys2Proof.Machine.DrRec} :
    Moves 0x400000000000000010000 s (State.setDrRec s a0 a1) := by
  unfold State.setDrRec
  extract_lets -underBinder -merge -useContext v0
  try clear_value v0
  refine Moves.trans ?_ (Moves.mono (k := 0x400000000000000000000) rfl State.drShow_moves)
  refine Moves.dr ?_ rfl
  exact Moves.refl

theorem State.drReset_moves {s : State} :
    Moves 0x400000000000000010000 s (State.drReset s) := by
  unfold State.drReset
  refine Moves.foldl ?_ (fun st0 a1 => ?_)
  · refine Moves.dr ?_ rfl
    exact Moves.refl
  · refine Moves.trans ?_ (Moves.mono (k := 0x400000000000000010000) rfl State.setDrRec_moves)
    exact Moves.refl

theorem State.drEvict_moves {s t : State} (h : State.drEvict s = some t) : Moves 0x400000000000000010000 s t := by
  unfold State.drEvict at h
  split at h
  · cases h
  · split at h
    · cases h
    · cases h
      exact Moves.mono rfl State.setDrRec_moves

theorem State.drSlot_moves {need : Nat} : ∀ {k : Nat} {s : State}
    {x : Nat × State}, State.drSlot s need k = some x → Moves 0x400000000000000010000 s x.2
  | 0, s, x, h => by simp [State.drSlot] at h
  | k + 1, s, x, h => by
    unfold State.drSlot at h
    split at h
    · cases h
      exact Moves.refl
    · split at h
      next s1 h1 => exact (Moves.mono rfl (State.drEvict_moves h1)).trans (State.drSlot_moves h)
      · cases h

theorem State.drBegin_moves {s : State} {r : DrRec}
    {entry fuel : Nat} : Moves 0x1000000000000000000000000000000000000000000000000000400000000000000016c00 s
    (State.drBegin s r entry fuel) := by
  unfold State.drBegin
  split
  next n s1 h1 => exact (Moves.mono rfl (State.drSlot_moves h1)).trans (Moves.mono rfl State.setDrRec_moves)
  · exact Moves.mono rfl State.notify_moves

theorem State.drEach_moves {s : State} {a0 : Sys2Proof.Machine.DrRec → Sys2Proof.Machine.DrRec} :
    Moves 0x10000 s (State.drEach s a0) := by
  unfold State.drEach
  extract_lets -underBinder -merge -useContext v0
  try clear_value v0
  refine Moves.dr ?_ rfl
  exact Moves.refl

theorem State.drEnd_moves {s : State} {a0 : Nat} {a1 : Sys2Proof.Machine.DrRec} {a2 : Nat} {a3 : Nat} :
    Moves 0x400000000000000010020 s (State.drEnd s a0 a1 a2 a3) := by
  unfold State.drEnd
  refine Moves.trans ?_ (Moves.mono (k := 0x400000000000000010000) rfl State.setDrRec_moves)
  refine Moves.trans ?_ (Moves.mono (k := 0x20) rfl State.drawn_moves)
  exact Moves.refl

theorem State.drFast_moves {s : State} {a0 : Nat} {a1 : Sys2Proof.Machine.Smp} :
    Moves 0x10000 s (State.drFast s a0 a1) := by
  unfold State.drFast
  extract_lets -underBinder -merge -useContext v0 v1 v2
  try clear_value v0
  try clear_value v1
  have h3 : Moves 0x10000 s v2 := by
    unfold v2
    refine Moves.ite ?_ ?_
    · refine Moves.dr ?_ rfl
      exact Moves.refl
    · exact Moves.refl
  try clear_value v2
  refine Moves.ite ?_ ?_
  · refine Moves.trans ?_ (Moves.mono (k := 0x10000) rfl State.drEach_moves)
    exact h3
  · exact Moves.refl

theorem State.drFine_moves {s : State} {a0 : Nat} {a1 : Sys2Proof.Machine.Smp} :
    Moves 0x10000 s (State.drFine s a0 a1) := by
  unfold State.drFine
  extract_lets -underBinder -merge -useContext v0 v1 v2
  try clear_value v0
  try clear_value v1
  have h3 : Moves 0x10000 s v2 := by
    unfold v2
    refine Moves.ite ?_ ?_
    · refine Moves.dr ?_ rfl
      exact Moves.refl
    · exact Moves.refl
  try clear_value v2
  refine Moves.ite ?_ ?_
  · refine Moves.trans ?_ (Moves.mono (k := 0x10000) rfl State.drEach_moves)
    exact h3
  · exact Moves.refl

theorem State.drGrid_moves {s : State} :
    Moves 0x10000 s (State.drGrid s) := by
  unfold State.drGrid
  extract_lets -underBinder -merge -useContext v0 v1 v2 v3
  try clear_value v0
  try clear_value v1
  try clear_value v2
  have h4 : Moves 0x10000 s v3 := by
    unfold v3
    refine Moves.dr ?_ rfl
    exact Moves.refl
  try clear_value v3
  refine Moves.ite ?_ ?_
  · refine Moves.trans ?_ (Moves.mono (k := 0x10000) rfl State.drEach_moves)
    exact h4
  · exact Moves.refl

theorem State.drSleep_moves {s : State} :
    Moves 0x400000000000000010020 s (State.drSleep s) := by
  unfold State.drSleep
  refine Moves.foldl ?_ (fun st0 a1 => ?_)
  · exact Moves.refl
  · refine Moves.trans ?_ (Moves.mono (k := 0x400000000000000010020) rfl State.drEnd_moves)
    exact Moves.refl

theorem State.drTrigger_moves {s : State} {a0 : Nat} {a1 : Nat} :
    Moves 0x1000000000000000000000000000000000000000000000000000400000000000000016c00 s (State.drTrigger s a0 a1) := by
  unfold State.drTrigger
  split
  · extract_lets -underBinder -merge -useContext v0
    try clear_value v0
    refine Moves.trans ?_ (Moves.mono (k := 0x400000000000000010000) rfl State.setDrRec_moves)
    exact Moves.refl
  · extract_lets -underBinder -merge -useContext v1 v2 v3
    try clear_value v1
    try clear_value v2
    have h4 : Moves 0x1000000000000000000000000000000000000000000000000000400000000000000016c00 s v3 := by
      unfold v3
      refine Moves.dr ?_ rfl
      exact Moves.refl
    try clear_value v3
    refine Moves.trans ?_ (Moves.mono (k := 0x1000000000000000000000000000000000000000000000000000400000000000000016c00) rfl State.drBegin_moves)
    exact h4

theorem execDrExport_moves {a0 : Nat} {a1 : Nat} {a2 : Bool} {s : State} :
    ResMoves 0x10000000000000000000000000000000000000000000000000000000000000000000000002400 s (execDrExport a0 a1 a2 s) := by
  unfold execDrExport
  refine ResMoves.trans ?_ (State.runCmd_moves rfl (fun st0 c1 => ?_))
  · exact Moves.refl
  · split
    · exact Moves.refl
    · extract_lets -underBinder -merge -useContext v2 v3 v4
      try clear_value v2
      try clear_value v3
      try clear_value v4
      refine Moves.trans ?_ (Moves.mono (k := 0x10000000000000000000000000000000000000000000000000000000000000000000000000400) rfl State.answer_moves)
      refine Moves.trans ?_ (Moves.mono (k := 0x400) rfl State.dmaOut_moves)
      exact Moves.refl

theorem execDrRecordComplete_moves {s : State} :
    ResMoves 0x1000000000000000000000000000000000000000000000000000400000000000000016c20 s (execDrRecordComplete s) := by
  unfold execDrRecordComplete
  refine ResMoves.ite ?_ ?_
  · split
    · refine ResMoves.next ?_
      refine Moves.trans ?_ (Moves.mono (k := 0x1000000000000000000000000000000000000000000000000000000000000000000006c00) rfl State.notify_moves)
      refine Moves.trans ?_ (Moves.mono (k := 0x400000000000000010020) rfl State.drEnd_moves)
      exact Moves.refl
    · refine ResMoves.next ?_
      exact Moves.refl
  · refine ResMoves.next ?_
    exact Moves.refl

theorem execDrTrigger_moves {a0 : Nat} {a1 : Nat} {s : State} :
    ResMoves 0x10001000000000000000000000000000000000000000000000000000400000000000000016c00 s (execDrTrigger a0 a1 s) := by
  unfold execDrTrigger
  refine ResMoves.trans ?_ (State.runCmd_moves rfl (fun st0 c1 => ?_))
  · exact Moves.refl
  · refine Moves.ite ?_ ?_
    · refine Moves.trans ?_ (Moves.mono (k := 0x10000000000000000000000000000000000000000000000000000000000000000000000000400) rfl State.done_moves)
      refine Moves.trans ?_ (Moves.mono (k := 0x1000000000000000000000000000000000000000000000000000400000000000000016c00) rfl State.drTrigger_moves)
      exact Moves.refl
    · refine Moves.trans ?_ (Moves.mono (k := 0x10000000000000000000000000000000000000000000000000000000000000000000000000400) rfl State.answer_moves)
      exact Moves.refl

theorem execDrTriggerEvent_moves {s : State} :
    ResMoves 0x1000000000000000000000000000000000000000000000000000400000000000000016c00 s (execDrTriggerEvent s) := by
  unfold execDrTriggerEvent
  split
  · refine ResMoves.next ?_
    exact Moves.refl
  · extract_lets -underBinder -merge -useContext v0 v1
    try clear_value v0
    have h2 : Moves 0x1000000000000000000000000000000000000000000000000000400000000000000016c00 s v1 := by
      unfold v1
      refine Moves.dr ?_ rfl
      exact Moves.refl
    try clear_value v1
    refine ResMoves.ite ?_ ?_
    · refine ResMoves.next ?_
      refine Moves.trans ?_ (Moves.mono (k := 0x1000000000000000000000000000000000000000000000000000400000000000000016c00) rfl State.drTrigger_moves)
      exact h2
    · refine ResMoves.next ?_
      exact h2

end Sys2Proof.Machine
end

