-- ==== Sys2Proof/Laws/FrameSafe.lean ====
section
/-! SUPPORT. What every definition of Machine/Safe.lean may change (masks over `Part.bit`), one lemma each. -/

namespace Sys2Proof.Machine

open Sys2Proof

theorem State.setSfn_moves {s : State} {a0 : Nat} {a1 : Sys2Proof.Machine.SfFn} :
    Moves 0x8000000 s (State.setSfn s a0 a1) := by
  unfold State.setSfn
  extract_lets -underBinder -merge -useContext v0
  try clear_value v0
  refine Moves.sf ?_ rfl
  exact Moves.refl

theorem State.sfStart_moves {s : State} :
    Moves 0x8000000 s (State.sfStart s) := by
  unfold State.sfStart
  refine Moves.foldl ?_ (fun st0 a1 => ?_)
  · exact Moves.refl
  · extract_lets -underBinder -merge -useContext v2
    try clear_value v2
    refine Moves.trans ?_ (Moves.mono (k := 0x8000000) rfl State.setSfn_moves)
    exact Moves.refl

theorem State.sfPointOff_moves {s : State} {a0 : State} {a1 : Nat} :
    Moves 0x800000 s (State.sfPointOff s a0 a1) := by
  unfold State.sfPointOff
  refine Moves.ite ?_ ?_
  · refine Moves.trans ?_ (Moves.mono (k := 0x800000) rfl State.setStand_moves)
    exact Moves.refl
  · exact Moves.refl

theorem State.sfOutput_moves {s : State} {a0 : Nat} :
    Moves 0xc800000 s (State.sfOutput s a0) := by
  unfold State.sfOutput
  extract_lets -underBinder -merge -useContext v0 v1 v2 v3 v4 v5 v6 v7
  try clear_value v0
  try clear_value v1
  try clear_value v2
  try clear_value v3
  try clear_value v4
  try clear_value v5
  try clear_value v6
  try clear_value v7
  refine Moves.upd (x := s) ?_ (fun p hp => by cases p <;> first | rfl | exact ⟨rfl, rfl⟩ | exact ⟨rfl, rfl, rfl⟩ | exact ⟨rfl, rfl, rfl, rfl⟩ | exact fun _ => List.prefix_rfl | exact List.prefix_rfl | exact fun _ h _ => h | exact fun _ _ => rfl | exact absurd hp (by decide)) rfl rfl rfl rfl rfl
  exact Moves.refl

theorem State.sfPoint_moves {s : State} {a0 : Nat} :
    Moves 0x800000 s (State.sfPoint s a0) := by
  unfold State.sfPoint
  extract_lets -underBinder -merge -useContext v0 v1
  try clear_value v0
  try clear_value v1
  refine Moves.ite ?_ ?_
  · split
    · refine Moves.ite ?_ ?_
      · exact Moves.refl
      · refine Moves.trans ?_ (Moves.mono (k := 0x800000) rfl State.setStand_moves)
        exact Moves.refl
    · refine Moves.trans ?_ (Moves.mono (k := 0x800000) rfl State.setStand_moves)
      exact Moves.refl
  · exact Moves.refl

theorem State.sfOutputs_moves {s : State} :
    Moves 0x100000000000000000000000000000000000000000000000003000000000000000c806c00 s (State.sfOutputs s) := by
  unfold State.sfOutputs
  extract_lets -underBinder -merge -useContext v0 v1 v2
  try clear_value v0
  have h3 : Moves 0x100000000000000000000000000000000000000000000000003000000000000000c806c00 s v1 := by
    unfold v1
    refine Moves.wr ?_ rfl
    refine Moves.wr ?_ rfl
    exact Moves.refl
  try clear_value v1
  have h4 : Moves 0x100000000000000000000000000000000000000000000000003000000000000000c806c00 s v2 := by
    unfold v2
    refine Moves.foldl ?_ (fun st5 a6 => ?_)
    · exact h3
    · refine Moves.trans ?_ (Moves.mono (k := 0xc800000) rfl State.sfOutput_moves)
      exact Moves.refl
  try clear_value v2
  refine Moves.trans ?_ (Moves.mono (k := 0x1000000000000000000000000000000000000000000000000010000000000000004006c00) rfl State.fdDrive_moves)
  refine Moves.foldl ?_ (fun st7 a8 => ?_)
  · exact h4
  · refine Moves.trans ?_ (Moves.mono (k := 0x800000) rfl State.sfPoint_moves)
    exact Moves.refl

theorem State.sfEnter_moves {s : State} {a0 : Nat} {a1 : Nat} {a2 : Nat} :
    Moves 0x1000000000000000000000000000000000000000000000000020000000000000008006c00 s (State.sfEnter s a0 a1 a2) := by
  unfold State.sfEnter
  extract_lets -underBinder -merge -useContext v0 v1 v2 v3 v4 v5 v6
  try clear_value v0
  have h7 : Moves 0x1000000000000000000000000000000000000000000000000020000000000000008006c00 s v1 := by
    unfold v1
    refine Moves.wr ?_ rfl
    refine Moves.wr ?_ rfl
    refine Moves.wr ?_ rfl
    refine Moves.wr ?_ rfl
    exact Moves.refl
  try clear_value v1
  try clear_value v2
  have h8 : Moves 0x1000000000000000000000000000000000000000000000000020000000000000008006c00 s v3 := by
    unfold v3
    refine Moves.ite ?_ ?_
    · refine Moves.wrapInc ?_ rfl
      exact h7
    · exact h7
  try clear_value v3
  try clear_value v4
  have h9 : Moves 0x1000000000000000000000000000000000000000000000000020000000000000008006c00 s v5 := by
    unfold v5
    refine Moves.trans ?_ (Moves.mono (k := 0x8000000) rfl State.setSfn_moves)
    exact h8
  try clear_value v5
  have h10 : Moves 0x1000000000000000000000000000000000000000000000000020000000000000008006c00 s v6 := by
    unfold v6
    refine Moves.trans ?_ (Moves.mono (k := 0x4000) rfl State.stateRec_moves)
    exact h9
  try clear_value v6
  refine Moves.ite ?_ ?_
  · exact Moves.refl
  · refine Moves.ite ?_ ?_
    · refine Moves.trans ?_ (Moves.mono (k := 0x1000000000000000000000000000000000000000000000000000000000000000000006c00) rfl State.notify_moves)
      exact h10
    · refine Moves.ite ?_ ?_
      · refine Moves.trans ?_ (Moves.mono (k := 0x1000000000000000000000000000000000000000000000000000000000000000000006c00) rfl State.notify_moves)
        exact h10
      · refine Moves.ite ?_ ?_
        · refine Moves.trans ?_ (Moves.mono (k := 0x1000000000000000000000000000000000000000000000000000000000000000000006c00) rfl State.notify_moves)
          exact h10
        · exact h10

theorem State.sfRestart_moves {s : State} {a0 : Nat} :
    Moves 0x1000000000000000000000000000000000000000000000000020000000000000008006c00 s (State.sfRestart s a0) := by
  unfold State.sfRestart
  extract_lets -underBinder -merge -useContext v0
  have h1 : Moves 0x1000000000000000000000000000000000000000000000000020000000000000008006c00 s v0 := by
    unfold v0
    refine Moves.trans ?_ (Moves.mono (k := 0x8000000) rfl State.setSfn_moves)
    exact Moves.refl
  try clear_value v0
  refine Moves.trans ?_ (Moves.mono (k := 0x1000000000000000000000000000000000000000000000000020000000000000008006c00) rfl State.sfEnter_moves)
  exact h1

theorem State.sfJudge_moves {s : State} :
    Moves 0x1000000000000000000000000000000000000000000000000020000000000000008006c00 s (State.sfJudge s) := by
  unfold State.sfJudge
  refine Moves.ite ?_ ?_
  · refine Moves.foldl ?_ (fun st0 a1 => ?_)
    · exact Moves.refl
    · refine Moves.trans ?_ (Moves.mono (k := 0x1000000000000000000000000000000000000000000000000020000000000000008006c00) rfl State.sfRestart_moves)
      exact Moves.refl
  · refine Moves.foldl ?_ (fun st2 a3 => ?_)
    · exact Moves.refl
    · refine Moves.trans ?_ (Moves.mono (k := 0x1000000000000000000000000000000000000000000000000020000000000000008006c00) rfl State.sfEnter_moves)
      exact Moves.refl

theorem State.sfCommit_moves {s : State} {a0 : State} {a1 : Nat} {a2 : Nat} :
    Moves 0x100000000000000000000000000000000000000000000000003000000000000000c806c00 s (State.sfCommit s a0 a1 a2) := by
  unfold State.sfCommit
  extract_lets -underBinder -merge -useContext v0 v1 v2
  try clear_value v0
  have h3 : Moves 0x100000000000000000000000000000000000000000000000003000000000000000c806c00 s v1 := by
    unfold v1
    refine Moves.sf ?_ rfl
    exact Moves.refl
  try clear_value v1
  have h4 : Moves 0x100000000000000000000000000000000000000000000000003000000000000000c806c00 s v2 := by
    unfold v2
    refine Moves.trans ?_ (Moves.mono (k := 0x800000) rfl State.sfPointOff_moves)
    exact h3
  try clear_value v2
  refine Moves.ite ?_ ?_
  · refine Moves.ite ?_ ?_
    · refine Moves.trans ?_ (Moves.mono (k := 0x100000000000000000000000000000000000000000000000003000000000000000c806c00) rfl State.sfOutputs_moves)
      refine Moves.ite ?_ ?_
      · refine Moves.trans ?_ (Moves.mono (k := 0x1000000000000000000000000000000000000000000000000020000000000000008006c00) rfl State.sfEnter_moves)
        exact h4
      · refine Moves.trans ?_ (Moves.mono (k := 0x1000000000000000000000000000000000000000000000000020000000000000008006c00) rfl State.sfEnter_moves)
        exact h4
    · refine Moves.ite ?_ ?_
      · refine Moves.trans ?_ (Moves.mono (k := 0x100000000000000000000000000000000000000000000000003000000000000000c806c00) rfl State.sfOutputs_moves)
        refine Moves.ite ?_ ?_
        · refine Moves.trans ?_ (Moves.mono (k := 0x1000000000000000000000000000000000000000000000000020000000000000008006c00) rfl State.sfRestart_moves)
          exact h4
        · refine Moves.trans ?_ (Moves.mono (k := 0x1000000000000000000000000000000000000000000000000020000000000000008006c00) rfl State.sfEnter_moves)
          refine Moves.trans ?_ (Moves.mono (k := 0x8000000) rfl State.setSfn_moves)
          exact h4
      · refine Moves.trans ?_ (Moves.mono (k := 0x100000000000000000000000000000000000000000000000003000000000000000c806c00) rfl State.sfOutputs_moves)
        refine Moves.trans ?_ (Moves.mono (k := 0x1000000000000000000000000000000000000000000000000020000000000000008006c00) rfl State.sfEnter_moves)
        exact h4
  · refine Moves.ite ?_ ?_
    · refine Moves.trans ?_ (Moves.mono (k := 0x100000000000000000000000000000000000000000000000003000000000000000c806c00) rfl State.sfOutputs_moves)
      refine Moves.trans ?_ (Moves.mono (k := 0x1000000000000000000000000000000000000000000000000020000000000000008006c00) rfl State.sfJudge_moves)
      exact h3
    · exact h3

theorem State.sfSentinel_moves {s : State} :
    Moves 0x100000000000000000000000000000000000000000000000003000000000000000c806c00 s (State.sfSentinel s) := by
  unfold State.sfSentinel
  extract_lets -underBinder -merge -useContext v0 v1 v2 v3
  try clear_value v0
  have h4 : Moves 0x100000000000000000000000000000000000000000000000003000000000000000c806c00 s v1 := by
    unfold v1
    refine Moves.trans ?_ (Moves.mono (k := 0x100000000000000000000000000000000000000000000000003000000000000000c806c00) rfl State.sfOutputs_moves)
    refine Moves.foldl ?_ (fun st5 a6 => ?_)
    · exact Moves.refl
    · refine Moves.trans ?_ (Moves.mono (k := 0x1000000000000000000000000000000000000000000000000020000000000000008006c00) rfl State.sfRestart_moves)
      exact Moves.refl
  try clear_value v1
  try clear_value v2
  try clear_value v3
  refine Moves.trans ?_ (Moves.mono (k := 0x1000000000000000000000000000000000000000000000000010000000000000004006c00) rfl State.fdDrive_moves)
  refine Moves.upd (x := v1) ?_ (fun p hp => by cases p <;> first | rfl | exact ⟨rfl, rfl⟩ | exact ⟨rfl, rfl, rfl⟩ | exact ⟨rfl, rfl, rfl, rfl⟩ | exact fun _ => List.prefix_rfl | exact List.prefix_rfl | exact fun _ h _ => h | exact fun _ _ => rfl | exact absurd hp (by decide)) rfl rfl rfl rfl rfl
  exact h4

theorem State.sfTwoHand_moves {s : State} {a0 : Nat} :
    Moves 0x1000000000000000000000000000000000000000000000000020000000000000008006c00 s (State.sfTwoHand s a0) := by
  unfold State.sfTwoHand
  extract_lets -underBinder -merge -useContext v0 v1 v2 v3 v4 v5 v6
  try clear_value v0
  try clear_value v1
  try clear_value v2
  try clear_value v3
  try clear_value v4
  try clear_value v5
  try clear_value v6
  refine Moves.ite ?_ ?_
  · refine Moves.ite ?_ ?_
    · refine Moves.trans ?_ (Moves.mono (k := 0x1000000000000000000000000000000000000000000000000020000000000000008006c00) rfl State.sfEnter_moves)
      exact Moves.refl
    · exact Moves.refl
  · refine Moves.ite ?_ ?_
    · refine Moves.ite ?_ ?_
      · split
        · refine Moves.ite ?_ ?_
          · refine Moves.trans ?_ (Moves.mono (k := 0x1000000000000000000000000000000000000000000000000020000000000000008006c00) rfl State.sfEnter_moves)
            exact Moves.refl
          · refine Moves.trans ?_ (Moves.mono (k := 0x1000000000000000000000000000000000000000000000000020000000000000008006c00) rfl State.sfEnter_moves)
            exact Moves.refl
        · exact Moves.refl
      · refine Moves.trans ?_ (Moves.mono (k := 0x8000000) rfl State.setSfn_moves)
        exact Moves.refl
    · refine Moves.ite ?_ ?_
      · refine Moves.ite ?_ ?_
        · exact Moves.refl
        · refine Moves.trans ?_ (Moves.mono (k := 0x1000000000000000000000000000000000000000000000000020000000000000008006c00) rfl State.sfEnter_moves)
          exact Moves.refl
      · exact Moves.refl

theorem State.sfTest_moves {s : State} {a0 : Nat} :
    Moves 0x1000000000000000000000000000000000000000000000000020000000000000008006c00 s (State.sfTest s a0) := by
  unfold State.sfTest
  extract_lets -underBinder -merge -useContext v0 v1 v2 v3
  have h4 : Moves 0x1000000000000000000000000000000000000000000000000020000000000000008006c00 s v0 := by
    unfold v0
    refine Moves.trans ?_ (Moves.mono (k := 0x1000000000000000000000000000000000000000000000000020000000000000008006c00) rfl State.sfEnter_moves)
    exact Moves.refl
  try clear_value v0
  try clear_value v1
  try clear_value v2
  try clear_value v3
  refine Moves.ite ?_ ?_
  · refine Moves.trans ?_ (Moves.mono (k := 0x8000000) rfl State.setSfn_moves)
    exact h4
  · refine Moves.ite ?_ ?_
    · refine Moves.trans ?_ (Moves.mono (k := 0x8000000) rfl State.setSfn_moves)
      exact h4
    · refine Moves.trans ?_ (Moves.mono (k := 0x1000000000000000000000000000000000000000000000000020000000000000008006c00) rfl State.sfEnter_moves)
      exact h4

theorem State.sfOther_moves {s : State} {a0 : Nat} :
    Moves 0x1000000000000000000000000000000000000000000000000020000000000000008006c00 s (State.sfOther s a0) := by
  unfold State.sfOther
  extract_lets -underBinder -merge -useContext v0 v1 v2
  try clear_value v0
  try clear_value v1
  try clear_value v2
  refine Moves.ite ?_ ?_
  · refine Moves.ite ?_ ?_
    · refine Moves.trans ?_ (Moves.mono (k := 0x1000000000000000000000000000000000000000000000000020000000000000008006c00) rfl State.sfEnter_moves)
      exact Moves.refl
    · exact Moves.refl
  · refine Moves.ite ?_ ?_
    · refine Moves.ite ?_ ?_
      · refine Moves.trans ?_ (Moves.mono (k := 0x1000000000000000000000000000000000000000000000000020000000000000008006c00) rfl State.sfEnter_moves)
        exact Moves.refl
      · refine Moves.ite ?_ ?_
        · refine Moves.trans ?_ (Moves.mono (k := 0x1000000000000000000000000000000000000000000000000020000000000000008006c00) rfl State.sfTest_moves)
          exact Moves.refl
        · exact Moves.refl
    · refine Moves.ite ?_ ?_
      · refine Moves.ite ?_ ?_
        · refine Moves.trans ?_ (Moves.mono (k := 0x1000000000000000000000000000000000000000000000000020000000000000008006c00) rfl State.sfEnter_moves)
          exact Moves.refl
        · exact Moves.refl
      · exact Moves.refl

theorem State.sfReset_moves {s : State} {a0 : Nat} :
    Moves 0x1000000000000000000000000000000000000000000000000020000000000000008006c00 s (State.sfReset s a0) := by
  unfold State.sfReset
  extract_lets -underBinder -merge -useContext v0 v1 v2
  try clear_value v0
  try clear_value v1
  try clear_value v2
  refine Moves.ite ?_ ?_
  · refine Moves.trans ?_ (Moves.mono (k := 0x1000000000000000000000000000000000000000000000000020000000000000008006c00) rfl State.sfTest_moves)
    refine Moves.trans ?_ (Moves.mono (k := 0x8000000) rfl State.setSfn_moves)
    exact Moves.refl
  · refine Moves.ite ?_ ?_
    · refine Moves.trans ?_ (Moves.mono (k := 0x1000000000000000000000000000000000000000000000000020000000000000008006c00) rfl State.sfEnter_moves)
      refine Moves.trans ?_ (Moves.mono (k := 0x8000000) rfl State.setSfn_moves)
      exact Moves.refl
    · refine Moves.bump ?_ rfl
      exact Moves.refl

theorem State.sfResetInput_moves {s : State} {a0 : Nat} :
    Moves 0x1000000000000000000000000000000000000000000000000020000000000000008006c00 s (State.sfResetInput s a0) := by
  unfold State.sfResetInput
  extract_lets -underBinder -merge -useContext v0 v1 v2 v3
  try clear_value v0
  try clear_value v1
  try clear_value v2
  have h4 : Moves 0x1000000000000000000000000000000000000000000000000020000000000000008006c00 s v3 := by
    unfold v3
    refine Moves.trans ?_ (Moves.mono (k := 0x8000000) rfl State.setSfn_moves)
    exact Moves.refl
  try clear_value v3
  refine Moves.ite ?_ ?_
  · exact Moves.refl
  · refine Moves.ite ?_ ?_
    · refine Moves.trans ?_ (Moves.mono (k := 0x8000000) rfl State.setSfn_moves)
      exact Moves.refl
    · refine Moves.ite ?_ ?_
      · refine Moves.trans ?_ (Moves.mono (k := 0x8000000) rfl State.setSfn_moves)
        exact Moves.refl
      · refine Moves.ite ?_ ?_
        · split
          · exact h4
          · refine Moves.ite ?_ ?_
            · refine Moves.trans ?_ (Moves.mono (k := 0x1000000000000000000000000000000000000000000000000020000000000000008006c00) rfl State.sfReset_moves)
              exact h4
            · refine Moves.bump ?_ rfl
              exact h4
        · refine Moves.trans ?_ (Moves.mono (k := 0x8000000) rfl State.setSfn_moves)
          exact Moves.refl

theorem State.sfEval_moves {s : State} {a0 : Nat} :
    Moves 0x1000000000000000000000000000000000000000000000000020000000000000008006c00 s (State.sfEval s a0) := by
  unfold State.sfEval
  extract_lets -underBinder -merge -useContext v0 v1 v2 v3 v4
  try clear_value v0
  try clear_value v1
  try clear_value v2
  have h5 : Moves 0x1000000000000000000000000000000000000000000000000020000000000000008006c00 s v3 := by
    unfold v3
    refine Moves.wr ?_ rfl
    refine Moves.trans ?_ (Moves.mono (k := 0x8000000) rfl State.setSfn_moves)
    exact Moves.refl
  try clear_value v3
  have h6 : Moves 0x1000000000000000000000000000000000000000000000000020000000000000008006c00 s v4 := by
    unfold v4
    refine Moves.ite ?_ ?_
    · refine Moves.trans ?_ (Moves.mono (k := 0x1000000000000000000000000000000000000000000000000020000000000000008006c00) rfl State.sfTwoHand_moves)
      exact h5
    · refine Moves.trans ?_ (Moves.mono (k := 0x1000000000000000000000000000000000000000000000000020000000000000008006c00) rfl State.sfOther_moves)
      exact h5
  try clear_value v4
  refine Moves.trans ?_ (Moves.mono (k := 0x1000000000000000000000000000000000000000000000000020000000000000008006c00) rfl State.sfResetInput_moves)
  exact h6

theorem State.sfHeart_moves {s : State} :
    Moves 0x4000000 s (State.sfHeart s) := by
  unfold State.sfHeart
  extract_lets -underBinder -merge -useContext v0
  try clear_value v0
  refine Moves.ite ?_ ?_
  · refine Moves.fd ?_ rfl
    exact Moves.refl
  · exact Moves.refl

theorem State.sfOutFail_moves {s : State} {a0 : Nat} :
    Moves 0x100000000000000000000000000000000000000000000000003000000000000000c806c00 s (State.sfOutFail s a0) := by
  unfold State.sfOutFail
  extract_lets -underBinder -merge -useContext v0 v1 v2 v3
  try clear_value v0
  have h4 : Moves 0x100000000000000000000000000000000000000000000000003000000000000000c806c00 s v1 := by
    unfold v1
    refine Moves.trans ?_ (Moves.mono (k := 0x1000000000000000000000000000000000000000000000000000000000000000000006c00) rfl State.notify_moves)
    exact Moves.refl
  try clear_value v1
  have h5 : Moves 0x100000000000000000000000000000000000000000000000003000000000000000c806c00 s v2 := by
    unfold v2
    refine Moves.foldl ?_ (fun st6 a7 => ?_)
    · exact h4
    · refine Moves.ite ?_ ?_
      · exact Moves.refl
      · refine Moves.trans ?_ (Moves.mono (k := 0x1000000000000000000000000000000000000000000000000020000000000000008006c00) rfl State.sfEnter_moves)
        exact Moves.refl
  try clear_value v2
  try clear_value v3
  refine Moves.trans ?_ (Moves.mono (k := 0x100000000000000000000000000000000000000000000000003000000000000000c806c00) rfl State.sfOutputs_moves)
  refine Moves.sf ?_ rfl
  exact h5

theorem State.sfSources_moves {s : State} :
    Moves 0x4000000 s (State.sfSources s) := by
  unfold State.sfSources
  refine Moves.foldl ?_ (fun st0 a1 => ?_)
  · exact Moves.refl
  · extract_lets -underBinder -merge -useContext v2 v3
    try clear_value v2
    try clear_value v3
    refine Moves.fd ?_ rfl
    exact Moves.refl

theorem State.sfTestBegin_moves {s : State} {a0 : Nat} {a1 : Bool} {a2 : Sys2Proof.Machine.SfTest} :
    Moves 0x20000000000000008000000 s (State.sfTestBegin s a0 a1 a2) := by
  unfold State.sfTestBegin
  extract_lets -underBinder -merge -useContext v0
  try clear_value v0
  refine Moves.ite ?_ ?_
  · refine Moves.wr ?_ (by split <;> rfl)
    refine Moves.bump ?_ rfl
    exact Moves.refl
  · refine Moves.ite ?_ ?_
    · refine Moves.trans ?_ (Moves.mono (k := 0x8000000) rfl State.setSfn_moves)
      exact Moves.refl
    · refine Moves.trans ?_ (Moves.mono (k := 0x8000000) rfl State.setSfn_moves)
      exact Moves.refl

theorem State.sfTestNext_moves {s : State} {a0 : Nat} {a1 : Bool} :
    Moves 0x1000000000000000000000000000000000000000000000000020000000000000008006c00 s (State.sfTestNext s a0 a1) := by
  unfold State.sfTestNext
  extract_lets -underBinder -merge -useContext v0
  try clear_value v0
  refine Moves.ite ?_ ?_
  · exact Moves.refl
  · refine Moves.ite ?_ ?_
    · refine Moves.trans ?_ (Moves.mono (k := 0x8000000) rfl State.setSfn_moves)
      exact Moves.refl
    · refine Moves.trans ?_ (Moves.mono (k := 0x1000000000000000000000000000000000000000000000000020000000000000008006c00) rfl State.sfEnter_moves)
      exact Moves.refl

theorem execDarkTestPulse_moves {a0 : Nat} {a1 : Bool} {s : State} :
    ResMoves 0x100000000000000000000000000000000000000000000000003000000000000000c806c00 s (execDarkTestPulse a0 a1 s) := by
  unfold execDarkTestPulse
  extract_lets -underBinder -merge -useContext v0
  have h1 : Moves 0x100000000000000000000000000000000000000000000000003000000000000000c806c00 s v0.1 := by
    unfold v0
    refine Moves.trans ?_ (Moves.mono (k := 0x1000000000000000000000000000000000000000000000000010000000000000004006c00) rfl State.darkPulse_moves)
    exact Moves.refl
  try clear_value v0
  refine ResMoves.next ?_
  refine Moves.ite ?_ ?_
  · refine Moves.trans ?_ (Moves.mono (k := 0x100000000000000000000000000000000000000000000000003000000000000000c806c00) rfl State.sfOutFail_moves)
    exact h1
  · exact h1

theorem execSfCrcRecompute_moves {s : State} :
    ResMoves 0x100000000000000000000000000000000000000000000000003000000000000000c806c00 s (execSfCrcRecompute s) := by
  unfold execSfCrcRecompute
  extract_lets -underBinder -merge -useContext v0
  try clear_value v0
  refine ResMoves.ite ?_ ?_
  · refine ResMoves.next ?_
    refine Moves.trans ?_ (Moves.mono (k := 0x100000000000000000000000000000000000000000000000003000000000000000c806c00) rfl State.sfOutputs_moves)
    refine Moves.trans ?_ (Moves.mono (k := 0x1000000000000000000000000000000000000000000000000020000000000000008006c00) rfl State.sfJudge_moves)
    refine Moves.wr ?_ rfl
    refine Moves.sf ?_ rfl
    exact Moves.refl
  · refine ResMoves.next ?_
    exact Moves.refl

theorem execSfDiagnosticFailure_moves {a0 : Nat} {s : State} :
    ResMoves 0x100000000000000000000000000000000000000000000000003000000000000000c806c00 s (execSfDiagnosticFailure a0 s) := by
  unfold execSfDiagnosticFailure
  extract_lets -underBinder -merge -useContext v0 v1
  have h2 : Moves 0x100000000000000000000000000000000000000000000000003000000000000000c806c00 s v0 := by
    unfold v0
    refine Moves.wr ?_ rfl
    refine Moves.wr ?_ rfl
    exact Moves.refl
  try clear_value v0
  have h3 : Moves 0x100000000000000000000000000000000000000000000000003000000000000000c806c00 s v1 := by
    unfold v1
    refine Moves.foldl ?_ (fun st4 a5 => ?_)
    · exact h2
    · refine Moves.trans ?_ (Moves.mono (k := 0x1000000000000000000000000000000000000000000000000020000000000000008006c00) rfl State.sfEnter_moves)
      exact Moves.refl
  try clear_value v1
  refine ResMoves.ite ?_ ?_
  · refine ResMoves.next ?_
    exact Moves.refl
  · refine ResMoves.ite ?_ ?_
    · refine ResMoves.next ?_
      refine Moves.bump ?_ rfl
      exact Moves.refl
    · refine ResMoves.ite ?_ ?_
      · refine ResMoves.next ?_
        exact Moves.refl
      · refine ResMoves.next ?_
        refine Moves.trans ?_ (Moves.mono (k := 0x1000000000000000000000000000000000000000000000000000000000000000000006c00) rfl State.notify_moves)
        refine Moves.trans ?_ (Moves.mono (k := 0x100000000000000000000000000000000000000000000000003000000000000000c806c00) rfl State.sfOutputs_moves)
        exact h3

theorem execSfDiscrepancyExpiry_moves {a0 : Nat} {s : State} :
    ResMoves 0x100000000000000000000000000000000000000000000000003000000000000000c806c00 s (execSfDiscrepancyExpiry a0 s) := by
  unfold execSfDiscrepancyExpiry
  extract_lets -underBinder -merge -useContext v0 v1
  try clear_value v0
  try clear_value v1
  refine ResMoves.ite ?_ ?_
  · refine ResMoves.next ?_
    refine Moves.trans ?_ (Moves.mono (k := 0x100000000000000000000000000000000000000000000000003000000000000000c806c00) rfl State.sfOutputs_moves)
    refine Moves.trans ?_ (Moves.mono (k := 0x1000000000000000000000000000000000000000000000000020000000000000008006c00) rfl State.sfEnter_moves)
    exact Moves.refl
  · refine ResMoves.next ?_
    exact Moves.refl

theorem execSfEvaluationCycle_moves {s : State} :
    ResMoves 0x100000000000000000000000000000000000000000000000003000000000000000c806c00 s (execSfEvaluationCycle s) := by
  unfold execSfEvaluationCycle
  extract_lets -underBinder -merge -useContext v0 v1
  try clear_value v0
  have h2 : Moves 0x100000000000000000000000000000000000000000000000003000000000000000c806c00 s v1 := by
    unfold v1
    refine Moves.sf ?_ rfl
    exact Moves.refl
  try clear_value v1
  refine ResMoves.ite ?_ ?_
  · refine ResMoves.next ?_
    exact Moves.refl
  · refine ResMoves.next ?_
    refine Moves.trans ?_ (Moves.mono (k := 0x100000000000000000000000000000000000000000000000003000000000000000c806c00) rfl State.sfOutputs_moves)
    refine Moves.trans ?_ (Moves.mono (k := 0x4000000) rfl State.sfSources_moves)
    refine Moves.trans ?_ (Moves.mono (k := 0x4000000) rfl State.sfHeart_moves)
    refine Moves.foldl ?_ (fun st3 a4 => ?_)
    · exact h2
    · refine Moves.trans ?_ (Moves.mono (k := 0x1000000000000000000000000000000000000000000000000020000000000000008006c00) rfl State.sfEval_moves)
      exact Moves.refl

theorem execSfHeartbeatLoss_moves {s : State} :
    ResMoves 0x1000000000000000000000000000000000000000000000000010000000000000004006c00 s (execSfHeartbeatLoss s) := by
  unfold execSfHeartbeatLoss
  extract_lets -underBinder -merge -useContext v0 v1
  try clear_value v0
  try clear_value v1
  refine ResMoves.ite ?_ ?_
  · refine ResMoves.next ?_
    refine Moves.trans ?_ (Moves.mono (k := 0x1000000000000000000000000000000000000000000000000010000000000000004006c00) rfl State.fdDrive_moves)
    refine Moves.fd ?_ rfl
    exact Moves.refl
  · refine ResMoves.next ?_
    exact Moves.refl

theorem execSfReadbackCheck_moves {a0 : Nat} {s : State} :
    ResMoves 0x100000000000000000000000000000000000000000000000003000000000000000c806c00 s (execSfReadbackCheck a0 s) := by
  unfold execSfReadbackCheck
  extract_lets -underBinder -merge -useContext v0 v1 v2
  try clear_value v0
  try clear_value v1
  have h3 : Moves 0x100000000000000000000000000000000000000000000000003000000000000000c806c00 s v2 := by
    unfold v2
    refine Moves.sf ?_ rfl
    exact Moves.refl
  try clear_value v2
  refine ResMoves.ite ?_ ?_
  · refine ResMoves.next ?_
    refine Moves.ite ?_ ?_
    · refine Moves.trans ?_ (Moves.mono (k := 0x100000000000000000000000000000000000000000000000003000000000000000c806c00) rfl State.sfOutFail_moves)
      exact h3
    · exact h3
  · refine ResMoves.next ?_
    exact Moves.refl

theorem execSfTestPulse_moves {a0 : Nat} {s : State} :
    ResMoves 0x100000000000000000000000000000000000000000000000003000000000000000c006c00 s (execSfTestPulse a0 s) := by
  unfold execSfTestPulse
  extract_lets -underBinder -merge -useContext v0 v1 v2
  try clear_value v0
  try clear_value v1
  try clear_value v2
  split
  · refine ResMoves.next ?_
    exact Moves.refl
  · extract_lets -underBinder -merge -useContext v3 v4 v5 v6 v7
    try clear_value v3
    try clear_value v4
    try clear_value v5
    have h8 : Moves 0x100000000000000000000000000000000000000000000000003000000000000000c006c00 s v6 := by
      unfold v6
      refine Moves.sf ?_ rfl
      exact Moves.refl
    try clear_value v6
    have h9 : Moves 0x100000000000000000000000000000000000000000000000003000000000000000c006c00 s v7 := by
      unfold v7
      refine Moves.foldl ?_ (fun st10 a11 => ?_)
      · exact h8
      · refine Moves.trans ?_ (Moves.mono (k := 0x20000000000000008000000) rfl State.sfTestBegin_moves)
        exact Moves.refl
    try clear_value v7
    refine ResMoves.ite ?_ ?_
    · refine ResMoves.next ?_
      exact Moves.refl
    · refine ResMoves.next ?_
      refine Moves.trans ?_ (Moves.mono (k := 0x1000000000000000000000000000000000000000000000000010000000000000004006c00) rfl State.fdDrive_moves)
      refine Moves.trans ?_ (Moves.mono (k := 0x4000000) rfl State.sfSources_moves)
      exact h9

theorem execSfTestWindowEnd_moves {a0 : Nat} {a1 : Bool} {s : State} :
    ResMoves 0x100000000000000000000000000000000000000000000000003000000000000000c806c00 s (execSfTestWindowEnd a0 a1 s) := by
  unfold execSfTestWindowEnd
  extract_lets -underBinder -merge -useContext v0 v1
  try clear_value v0
  split
  · refine ResMoves.next ?_
    exact Moves.refl
  · extract_lets -underBinder -merge -useContext v2 v3 v4 v5 v6 v7 v8
    try clear_value v2
    try clear_value v3
    have h9 : Moves 0x100000000000000000000000000000000000000000000000003000000000000000c806c00 s v4 := by
      unfold v4
      refine Moves.trans ?_ (Moves.mono (k := 0x8000000) rfl State.setSfn_moves)
      exact Moves.refl
    try clear_value v4
    try clear_value v5
    have h10 : Moves 0x100000000000000000000000000000000000000000000000003000000000000000c806c00 s v6 := by
      unfold v6
      refine Moves.wr ?_ (by unfold v1; split <;> rfl)
      exact h9
    try clear_value v6
    have h11 : Moves 0x100000000000000000000000000000000000000000000000003000000000000000c806c00 s v7 := by
      unfold v7
      refine Moves.bump ?_ rfl
      refine Moves.wr ?_ (by unfold v1; split <;> rfl)
      exact h9
    try clear_value v7
    have h12 : Moves 0x100000000000000000000000000000000000000000000000003000000000000000c806c00 s v8 := by
      unfold v8
      refine Moves.wr ?_ (by unfold v1; split <;> rfl)
      exact h9
    try clear_value v8
    refine ResMoves.ite ?_ ?_
    · refine ResMoves.next ?_
      exact Moves.refl
    · refine ResMoves.ite ?_ ?_
      · refine ResMoves.next ?_
        refine Moves.trans ?_ (Moves.mono (k := 0x100000000000000000000000000000000000000000000000003000000000000000c806c00) rfl State.sfOutputs_moves)
        refine Moves.ite ?_ ?_
        · refine Moves.trans ?_ (Moves.mono (k := 0x1000000000000000000000000000000000000000000000000020000000000000008006c00) rfl State.sfEnter_moves)
          exact h10
        · exact h10
      · refine ResMoves.ite ?_ ?_
        · refine ResMoves.next ?_
          refine Moves.trans ?_ (Moves.mono (k := 0x100000000000000000000000000000000000000000000000003000000000000000c806c00) rfl State.sfOutputs_moves)
          refine Moves.ite ?_ ?_
          · refine Moves.trans ?_ (Moves.mono (k := 0x1000000000000000000000000000000000000000000000000020000000000000008006c00) rfl State.sfEnter_moves)
            exact h11
          · exact h11
        · refine ResMoves.next ?_
          refine Moves.trans ?_ (Moves.mono (k := 0x100000000000000000000000000000000000000000000000003000000000000000c806c00) rfl State.sfOutputs_moves)
          refine Moves.ite ?_ ?_
          · refine Moves.trans ?_ (Moves.mono (k := 0x1000000000000000000000000000000000000000000000000020000000000000008006c00) rfl State.sfTestNext_moves)
            exact h12
          · exact h12

end Sys2Proof.Machine
end

