-- ==== Sys2Proof/Laws/FrameRecipes.lean ====
section
/-! SUPPORT. What every definition of Machine/Recipes.lean may change (masks over `Part.bit`), one lemma each. -/

namespace Sys2Proof.Machine

open Sys2Proof

theorem State.rpCold_moves {s : State} :
    Moves 0x1000000 s (State.rpCold s) := by
  unfold State.rpCold
  extract_lets -underBinder -merge -useContext v0
  try clear_value v0
  refine Moves.rp ?_ rfl
  exact Moves.refl

theorem State.dirtySteps_moves {s : State} {a0 : Nat} {a1 : Nat} :
    Moves 0x1000000 s (State.dirtySteps s a0 a1) := by
  unfold State.dirtySteps
  extract_lets -underBinder -merge -useContext v0 v1
  try clear_value v0
  try clear_value v1
  refine Moves.rp ?_ rfl
  exact Moves.refl

theorem State.setLane_moves {s : State} {a0 : Nat} {a1 : Sys2Proof.Machine.RpLane} :
    Moves 0x1000000 s (State.setLane s a0 a1) := by
  unfold State.setLane
  extract_lets -underBinder -merge -useContext v0
  try clear_value v0
  refine Moves.rp ?_ rfl
  exact Moves.refl

theorem State.laneDrop_moves {s : State} {a0 : Nat × Nat} :
    Moves 0x1000000 s (State.laneDrop s a0) := by
  unfold State.laneDrop
  refine Moves.foldl ?_ (fun st0 a1 => ?_)
  · exact Moves.refl
  · extract_lets -underBinder -merge -useContext v2
    try clear_value v2
    refine Moves.ite ?_ ?_
    · refine Moves.trans ?_ (Moves.mono (k := 0x1000000) rfl State.setLane_moves)
      exact Moves.refl
    · exact Moves.refl

theorem State.rpHoldAll_moves {s : State} :
    Moves 0x1000000 s (State.rpHoldAll s) := by
  unfold State.rpHoldAll
  refine Moves.foldl ?_ (fun st0 a1 => ?_)
  · exact Moves.refl
  · extract_lets -underBinder -merge -useContext v2
    try clear_value v2
    refine Moves.ite ?_ ?_
    · refine Moves.trans ?_ (Moves.mono (k := 0x1000000) rfl State.setLane_moves)
      exact Moves.refl
    · exact Moves.refl

theorem State.rpDiscard_moves {s : State} :
    Moves 0x1000000 s (State.rpDiscard s) := by
  unfold State.rpDiscard
  extract_lets -underBinder -merge -useContext v0
  try clear_value v0
  refine Moves.foldl ?_ (fun st1 a2 => ?_)
  · refine Moves.rp ?_ rfl
    exact Moves.refl
  · extract_lets -underBinder -merge -useContext v3
    try clear_value v3
    refine Moves.trans ?_ (Moves.mono (k := 0x1000000) rfl State.setLane_moves)
    exact Moves.refl

theorem State.laneAsk_moves {s : State} {a0 : Nat} {a1 : Sys2Proof.Machine.Cmd} :
    Moves 0x10000000000000000000000000000000000000000000000000000000000000000000001000400 s (State.laneAsk s a0 a1) := by
  unfold State.laneAsk
  extract_lets -underBinder -merge -useContext v0 v1
  try clear_value v0
  try clear_value v1
  refine Moves.trans ?_ (Moves.mono (k := 0x10000000000000000000000000000000000000000000000000000000000000000000000000400) rfl State.start_moves)
  refine Moves.trans ?_ (Moves.mono (k := 0x1000000) rfl State.setLane_moves)
  exact Moves.refl

theorem State.putSteps_moves {s : State} {a0 : Nat} {a1 : List (List Sys2Proof.W32)} :
    Moves 0x1000000 s (State.putSteps s a0 a1) := by
  unfold State.putSteps
  extract_lets -underBinder -merge -useContext v0
  try clear_value v0
  refine Moves.rp ?_ rfl
  exact Moves.refl

theorem State.rpError_moves {s : State} {a0 : Nat} {a1 : Sys2Proof.Machine.RpLane} {a2 : Nat} :
    Moves 0x1000000000000000000000000000000000000000000000000000000010000000011006c00 s (State.rpError s a0 a1 a2) := by
  unfold State.rpError
  refine Moves.trans ?_ (Moves.mono (k := 0x10000000010004000) rfl State.freeCause_moves)
  refine Moves.trans ?_ (Moves.mono (k := 0x1000000000000000000000000000000000000000000000000000000000000000000006c00) rfl State.notify_moves)
  refine Moves.trans ?_ (Moves.mono (k := 0x1000000) rfl State.setLane_moves)
  exact Moves.refl

theorem State.rpWarm_moves {s : State} {a0 : List (Nat × List (List Sys2Proof.W32))} :
    Moves 0x1000000000000000000000000000000000000000000000000000000010000000011006c00 s (State.rpWarm s a0) := by
  unfold State.rpWarm
  extract_lets -underBinder -merge -useContext v0 v1 v2 v3
  try clear_value v0
  try clear_value v1
  have h4 : Moves 0x1000000000000000000000000000000000000000000000000000000010000000011006c00 s v2 := by
    unfold v2
    refine Moves.rp ?_ rfl
    exact Moves.refl
  try clear_value v2
  have h5 : Moves 0x1000000000000000000000000000000000000000000000000000000010000000011006c00 s v3 := by
    unfold v3
    refine Moves.foldl ?_ (fun st6 a7 => ?_)
    · exact h4
    · refine Moves.trans ?_ (Moves.mono (k := 0x1000000) rfl State.putSteps_moves)
      exact Moves.refl
  try clear_value v3
  refine Moves.foldl ?_ (fun st8 a9 => ?_)
  · exact h5
  · extract_lets -underBinder -merge -useContext v10 v11
    try clear_value v10
    try clear_value v11
    refine Moves.ite ?_ ?_
    · refine Moves.trans ?_ (Moves.mono (k := 0x1000000000000000000000000000000000000000000000000000000010000000011006c00) rfl State.rpError_moves)
      exact Moves.refl
    · refine Moves.trans ?_ (Moves.mono (k := 0x1000000) rfl State.setLane_moves)
      exact Moves.refl

theorem State.rpApply_moves {s : State} {a0 : List (Nat × List (List Sys2Proof.W32))} :
    Moves 0x1000000 s (State.rpApply s a0) := by
  unfold State.rpApply
  extract_lets -underBinder -merge -useContext v0
  try clear_value v0
  refine Moves.foldl ?_ (fun st1 a2 => ?_)
  · refine Moves.rp ?_ rfl
    exact Moves.refl
  · refine Moves.trans ?_ (Moves.mono (k := 0x1000000) rfl State.putSteps_moves)
    exact Moves.refl

theorem State.rpOps_moves {s : State} {a0 : Nat} {a1 : Nat} :
    Moves 0x10000000000000000000000000000000000000000000000000000000000000000000001000400 s (State.rpOps s a0 a1) := by
  unfold State.rpOps
  extract_lets -underBinder -merge -useContext v0 v1 v2
  try clear_value v0
  try clear_value v1
  have h3 : Moves 0x10000000000000000000000000000000000000000000000000000000000000000000001000400 s v2 := by
    unfold v2
    refine Moves.trans ?_ (Moves.mono (k := 0x1000000) rfl State.setLane_moves)
    exact Moves.refl
  try clear_value v2
  refine Moves.foldl ?_ (fun st4 a5 => ?_)
  · exact h3
  · split
    · refine Moves.trans ?_ (Moves.mono (k := 0x10000000000000000000000000000000000000000000000000000000000000000000000000400) rfl State.settle_moves)
      refine Moves.trans ?_ (Moves.mono (k := 0x1000000) rfl State.setLane_moves)
      exact Moves.refl
    · refine Moves.trans ?_ (Moves.mono (k := 0x10000000000000000000000000000000000000000000000000000000000000000000000000400) rfl State.settle_moves)
      exact Moves.refl

theorem State.rpRunLane_moves {s : State} {a0 : Nat} {a1 : Nat} :
    Moves 0x1000000000000000000000000000000000000000000000000000000010000000011006c00 s (State.rpRunLane s a0 a1) := by
  unfold State.rpRunLane
  extract_lets -underBinder -merge -useContext v0 v1
  try clear_value v0
  try clear_value v1
  refine Moves.ite ?_ ?_
  · exact Moves.refl
  · refine Moves.ite ?_ ?_
    · refine Moves.trans ?_ (Moves.mono (k := 0x1000000000000000000000000000000000000000000000000000000010000000011006c00) rfl State.rpError_moves)
      exact Moves.refl
    · split
      · refine Moves.trans ?_ (Moves.mono (k := 0x1000000000000000000000000000000000000000000000000000000010000000011006c00) rfl State.rpError_moves)
        exact Moves.refl
      · extract_lets -underBinder -merge -useContext v2 v3 v4
        have h5 : Moves 0x1000000000000000000000000000000000000000000000000000000010000000011006c00 s v2 := by
          unfold v2
          refine Moves.trans ?_ (Moves.mono (k := 0x1000000) rfl State.setLane_moves)
          exact Moves.refl
        try clear_value v2
        try clear_value v3
        have h6 : Moves 0x1000000000000000000000000000000000000000000000000000000010000000011006c00 s v4 := by
          unfold v4
          refine Moves.rp ?_ rfl
          exact h5
        try clear_value v4
        refine Moves.ite ?_ ?_
        · refine Moves.trans ?_ (Moves.mono (k := 0x1000000000000000000000000000000000000000000000000000000000000000000006c00) rfl State.notify_moves)
          exact h6
        · exact h6

theorem execRecipeCancel_moves {a0 : Nat} {a1 : Nat} {s : State} :
    ResMoves 0x10000000000000000000000000000000000000000000000000000000000000000000001002400 s (execRecipeCancel a0 a1 s) := by
  unfold execRecipeCancel
  refine ResMoves.trans ?_ (State.runCmd_moves rfl (fun st0 c1 => ?_))
  · exact Moves.refl
  · refine Moves.trans ?_ (Moves.mono (k := 0x10000000000000000000000000000000000000000000000000000000000000000000001000400) rfl State.laneAsk_moves)
    exact Moves.refl

theorem execRecipeHold_moves {a0 : Nat} {a1 : Nat} {s : State} :
    ResMoves 0x10000000000000000000000000000000000000000000000000000000000000000000001002400 s (execRecipeHold a0 a1 s) := by
  unfold execRecipeHold
  refine ResMoves.trans ?_ (State.runCmd_moves rfl (fun st0 c1 => ?_))
  · exact Moves.refl
  · refine Moves.trans ?_ (Moves.mono (k := 0x10000000000000000000000000000000000000000000000000000000000000000000001000400) rfl State.laneAsk_moves)
    exact Moves.refl

theorem execRecipeLoad_moves {a0 : Nat} {a1 : Nat} {a2 : Option (List Sys2Proof.W32)} {s : State} :
    ResMoves 0x10000000000000000000000000000000000000000000000000000000000000000000001002400 s (execRecipeLoad a0 a1 a2 s) := by
  unfold execRecipeLoad
  refine ResMoves.trans ?_ (State.runCmd_moves rfl (fun st0 c1 => ?_))
  · exact Moves.refl
  · extract_lets -underBinder -merge -useContext v2 v3
    try clear_value v2
    try clear_value v3
    refine Moves.trans ?_ (Moves.mono (k := 0x10000000000000000000000000000000000000000000000000000000000000000000000000400) rfl State.done_moves)
    refine Moves.trans ?_ (Moves.mono (k := 0x1000000) rfl State.dirtySteps_moves)
    refine Moves.trans ?_ (Moves.mono (k := 0x1000000) rfl State.putSteps_moves)
    exact Moves.refl

theorem execRecipeResume_moves {a0 : Nat} {a1 : Nat} {s : State} :
    ResMoves 0x10000000000000000000000000000000000000000000000000000000000000000000001002400 s (execRecipeResume a0 a1 s) := by
  unfold execRecipeResume
  refine ResMoves.trans ?_ (State.runCmd_moves rfl (fun st0 c1 => ?_))
  · exact Moves.refl
  · refine Moves.trans ?_ (Moves.mono (k := 0x10000000000000000000000000000000000000000000000000000000000000000000001000400) rfl State.laneAsk_moves)
    exact Moves.refl

theorem execRecipeStart_moves {a0 : Nat} {a1 : Nat} {s : State} :
    ResMoves 0x10000000000000000000000000000000000000000000000000000000000000000000001002400 s (execRecipeStart a0 a1 s) := by
  unfold execRecipeStart
  refine ResMoves.trans ?_ (State.runCmd_moves rfl (fun st0 c1 => ?_))
  · exact Moves.refl
  · refine Moves.trans ?_ (Moves.mono (k := 0x10000000000000000000000000000000000000000000000000000000000000000000001000400) rfl State.laneAsk_moves)
    exact Moves.refl

theorem execRecipeTick_moves {a0 : Nat} {s : State} :
    ResMoves 0x10001000000000000000000000000000000000000000000000000000000010000000011006c00 s (execRecipeTick a0 s) := by
  unfold execRecipeTick
  extract_lets -underBinder -merge -useContext v0 v1 v2 v3
  try clear_value v0
  try clear_value v1
  try clear_value v2
  have h4 : Moves 0x10001000000000000000000000000000000000000000000000000000000010000000011006c00 s v3 := by
    unfold v3
    refine Moves.trans ?_ (Moves.mono (k := 0x1000000) rfl State.setLane_moves)
    exact Moves.refl
  try clear_value v3
  refine ResMoves.ite ?_ ?_
  · refine ResMoves.next ?_
    exact Moves.refl
  · refine ResMoves.next ?_
    refine Moves.trans ?_ (Moves.mono (k := 0x1000000000000000000000000000000000000000000000000000000010000000011006c00) rfl State.rpRunLane_moves)
    refine Moves.trans ?_ (Moves.mono (k := 0x10000000000000000000000000000000000000000000000000000000000000000000001000400) rfl State.rpOps_moves)
    exact h4

end Sys2Proof.Machine
end

