-- ==== Sys2Proof/Laws/FrameSignals.lean ====
section
/-! SUPPORT. What every definition of Machine/Signals.lean may change (masks over `Part.bit`), one lemma each. -/

namespace Sys2Proof.Machine

open Sys2Proof

theorem State.injChange_moves {s : State} {a0 : Nat} {a1 : Nat} :
    Moves 0x80000 s (State.injChange s a0 a1) := by
  unfold State.injChange
  refine Moves.trans ?_ (State.each_moves (fun st0 a1 => ?_))
  · exact Moves.refl
  · refine Moves.trans ?_ (Moves.mono (k := 0x80000) rfl State.evGain_moves)
    exact Moves.refl

theorem State.injStop_moves {s : State} {a0 : Nat} :
    Moves 0xc0000 s (State.injStop s a0) := by
  unfold State.injStop
  split
  · exact Moves.refl
  · extract_lets -underBinder -merge -useContext v0
    try clear_value v0
    refine Moves.trans ?_ (Moves.mono (k := 0x80000) rfl State.injChange_moves)
    refine Moves.trans ?_ (Moves.mono (k := 0x40000) rfl State.setAfCore_moves)
    refine Moves.trans ?_ (Moves.mono (k := 0x40000) rfl State.keepBefore_moves)
    exact Moves.refl

theorem State.stopInjections_moves {s : State} :
    Moves 0xc0000 s (State.stopInjections s) := by
  unfold State.stopInjections
  refine Moves.trans ?_ (State.each_moves (fun st0 a1 => ?_))
  · exact Moves.refl
  · refine Moves.trans ?_ (Moves.mono (k := 0xc0000) rfl State.injStop_moves)
    exact Moves.refl

theorem execBankSwap_moves {a0 : Nat} {a1 : Nat} {s : State} :
    ResMoves 0x10000000000000000000000000000000000000000000000000000000000000100020002082400 s (execBankSwap a0 a1 s) := by
  unfold execBankSwap
  refine ResMoves.trans ?_ (State.runCmd_moves rfl (fun st0 c1 => ?_))
  · exact Moves.refl
  · refine Moves.ite ?_ ?_
    · refine Moves.trans ?_ (Moves.mono (k := 0x10000000000000000000000000000000000000000000000000000000000000000020000080400) rfl State.fcBankSwap_moves)
      exact Moves.refl
    · refine Moves.trans ?_ (Moves.mono (k := 0x10000000000000000000000000000000000000000000000000000000000000100000002000400) rfl State.leBankSwap_moves)
      exact Moves.refl

theorem execInjectStart_moves {a0 : Nat} {a1 : Nat} {s : State} :
    ResMoves 0x100000000000000000000000000000000000000000000000000000000000000000000000c2400 s (execInjectStart a0 a1 s) := by
  unfold execInjectStart
  refine ResMoves.trans ?_ (State.runCmd_moves rfl (fun st0 c1 => ?_))
  · exact Moves.refl
  · extract_lets -underBinder -merge -useContext v2 v3 v4
    try clear_value v2
    try clear_value v3
    try clear_value v4
    refine Moves.trans ?_ (Moves.mono (k := 0x10000000000000000000000000000000000000000000000000000000000000000000000000400) rfl State.done_moves)
    refine Moves.trans ?_ (Moves.mono (k := 0x80000) rfl State.injChange_moves)
    refine Moves.trans ?_ (Moves.mono (k := 0x40000) rfl State.setAfCore_moves)
    exact Moves.refl

theorem execInjectStop_moves {a0 : Nat} {a1 : Nat} {s : State} :
    ResMoves 0x100000000000000000000000000000000000000000000000000000000000000000000000c2400 s (execInjectStop a0 a1 s) := by
  unfold execInjectStop
  refine ResMoves.trans ?_ (State.runCmd_moves rfl (fun st0 c1 => ?_))
  · exact Moves.refl
  · refine Moves.ite ?_ ?_
    · refine Moves.trans ?_ (Moves.mono (k := 0x10000000000000000000000000000000000000000000000000000000000000000000000000400) rfl State.done_moves)
      refine Moves.trans ?_ (Moves.mono (k := 0xc0000) rfl State.injStop_moves)
      exact Moves.refl
    · refine Moves.trans ?_ (Moves.mono (k := 0x10000000000000000000000000000000000000000000000000000000000000000000000000400) rfl State.answer_moves)
      exact Moves.refl

theorem execStreamClose_moves {a0 : Nat} {a1 : Nat} {s : State} :
    ResMoves 0x10000000000000000000000000000000000000000000000000000000000000000000000042400 s (execStreamClose a0 a1 s) := by
  unfold execStreamClose
  refine ResMoves.trans ?_ (State.runCmd_moves rfl (fun st0 c1 => ?_))
  · exact Moves.refl
  · refine Moves.trans ?_ (Moves.mono (k := 0x10000000000000000000000000000000000000000000000000000000000000000000000040400) rfl State.streamClose_moves)
    exact Moves.refl

theorem execStreamOpen_moves {a0 : Nat} {a1 : Nat} {s : State} :
    ResMoves 0x10000000000000000000000000000000000000000000000000000000000000000000000042400 s (execStreamOpen a0 a1 s) := by
  unfold execStreamOpen
  refine ResMoves.trans ?_ (State.runCmd_moves rfl (fun st0 c1 => ?_))
  · exact Moves.refl
  · refine Moves.trans ?_ (Moves.mono (k := 0x10000000000000000000000000000000000000000000000000000000000000000000000040400) rfl State.streamOpen_moves)
    exact Moves.refl

end Sys2Proof.Machine
end

