-- ==== Sys2Proof/Laws/FrameStore.lean ====
section
/-! SUPPORT. What every definition of Machine/Store.lean may change (masks over `Part.bit`), one lemma each. -/

namespace Sys2Proof.Machine

open Sys2Proof

theorem State.journal_moves {s : State} {a0 : Sys2Proof.Machine.JKind} {a1 : Bool} {a2 : Nat} {a3 : Nat} :
    Moves 0x20000000 s (State.journal s a0 a1 a2 a3) := by
  unfold State.journal
  extract_lets -underBinder -merge -useContext v0 v1 v2
  try clear_value v0
  try clear_value v1
  try clear_value v2
  refine Moves.cs ?_ rfl
  exact Moves.refl

theorem State.firstOutput_moves {s : State} :
    Moves 0x20000080 s (State.firstOutput s) := by
  unfold State.firstOutput
  extract_lets -underBinder -merge -useContext v0 v1
  have h2 : Moves 0x20000080 s v1 := by
    unfold v1
    refine Moves.moKeep ?_ rfl rfl rfl rfl rfl
    exact Moves.refl
  try clear_value v1
  split
  · extract_lets -underBinder -merge -useContext v3
    try clear_value v3
    refine Moves.trans ?_ (Moves.mono (k := 0x20000000) rfl State.journal_moves)
    refine Moves.cs ?_ rfl
    exact h2
  · exact h2

theorem State.axesBack_moves {s : State} :
    Moves 0x10000000000000000000000000000000000000000000000000000000000000200000002000400 s (State.axesBack s) := by
  unfold State.axesBack
  refine Moves.trans ?_ (Moves.mono (k := 0x10000000000000000000000000000000000000000000000000000000000000200000002000400) rfl State.axPosLost_moves)
  refine Moves.foldl ?_ (fun st0 a1 => ?_)
  · exact Moves.refl
  · extract_lets -underBinder -merge -useContext v2 v3
    try clear_value v2
    have h4 : Moves 0x10000000000000000000000000000000000000000000000000000000000000200000002000400 st0 v3 := by
      unfold v3
      refine Moves.trans ?_ (Moves.mono (k := 0x2000000) rfl State.setAxis_moves)
      exact Moves.refl
    try clear_value v3
    refine Moves.ite ?_ ?_
    · refine Moves.wr ?_ rfl
      exact h4
    · exact h4

theorem State.backWord_moves {s : State} {a0 : Nat} {a1 : Sys2Proof.W32} :
    Moves 0x100000000000000000000000000000000000000000000010f030f010f0303030680000000 s (State.backWord s a0 a1) := by
  unfold State.backWord
  extract_lets -underBinder -merge -useContext v0 v1
  try clear_value v0
  try clear_value v1
  refine Moves.putKey ?_ (allRegs_bit rfl _)
  exact Moves.refl

theorem State.setSlot_moves {s : State} {a0 : Bool} {a1 : Sys2Proof.Machine.SlotState} {a2 : Option Sys2Proof.Machine.CsImage} :
    Moves 0x20000000 s (State.setSlot s a0 a1 a2) := by
  unfold State.setSlot
  extract_lets -underBinder -merge -useContext v0 v1
  try clear_value v0
  try clear_value v1
  refine Moves.ite ?_ ?_
  · refine Moves.cs ?_ rfl
    exact Moves.refl
  · refine Moves.cs ?_ rfl
    exact Moves.refl

theorem State.controlOn_moves {s : State} :
    Moves 0x21400080 s (State.controlOn s) := by
  unfold State.controlOn
  extract_lets -underBinder -merge -useContext v0 v1 v2 v3
  try clear_value v1
  try clear_value v2
  try clear_value v3
  refine Moves.upd (x := s) ?_ (fun p hp => by cases p <;> first | rfl | exact ⟨rfl, rfl⟩ | exact ⟨rfl, rfl, rfl⟩ | exact ⟨rfl, rfl, rfl, rfl⟩ | exact fun _ => List.prefix_rfl | exact List.prefix_rfl | exact fun _ h _ => h | exact fun _ _ => rfl | exact absurd hp (by decide)) rfl rfl rfl rfl rfl
  exact Moves.refl

theorem State.coldStart_moves {s : State} {a0 : Nat} :
    Moves 0x1000000000000000000000000000000000000000000000000010001010300000037c17c80 s (State.coldStart s a0) := by
  unfold State.coldStart
  extract_lets -underBinder -merge -useContext v0 v1 v2 v3 v4
  have h5 : Moves 0x1000000000000000000000000000000000000000000000000010001010300000037c17c80 s v0 := by
    unfold v0
    split
    · refine Moves.trans ?_ (Moves.mono (k := 0x20000000) rfl State.journal_moves)
      exact Moves.refl
    · exact Moves.refl
  try clear_value v0
  have h6 : Moves 0x1000000000000000000000000000000000000000000000000010001010300000037c17c80 s v1 := by
    unfold v1
    refine Moves.trans ?_ (Moves.mono (k := 0x200000002000000) rfl State.axCold_moves)
    refine Moves.trans ?_ (Moves.mono (k := 0x100000002000000) rfl State.leCold_moves)
    refine Moves.trans ?_ (Moves.mono (k := 0x1000000) rfl State.rpCold_moves)
    refine Moves.trans ?_ (Moves.mono (k := 0x401000) rfl State.pointsCold_moves)
    refine Moves.trans ?_ (Moves.mono (k := 0x10000000010804000) rfl State.lgCold_moves)
    refine Moves.trans ?_ (Moves.mono (k := 0x10000000000000004c11000) rfl State.clearForces_moves)
    exact h5
  try clear_value v1
  have h7 : Moves 0x1000000000000000000000000000000000000000000000000010001010300000037c17c80 s v2 := by
    unfold v2
    refine Moves.trans ?_ (Moves.mono (k := 0x21400080) rfl State.controlOn_moves)
    exact h6
  try clear_value v2
  try clear_value v3
  have h8 : Moves 0x1000000000000000000000000000000000000000000000000010001010300000037c17c80 s v4 := by
    unfold v4
    refine Moves.cs ?_ rfl
    exact h7
  try clear_value v4
  refine Moves.trans ?_ (Moves.mono (k := 0x1000000000000000000000000000000000000000000000000000000000000000000006c00) rfl State.notify_moves)
  refine Moves.wr ?_ rfl
  exact h8

theorem State.loopsBack_moves {s : State} :
    Moves 0x100000002000000 s (State.loopsBack s) := by
  unfold State.loopsBack
  refine Moves.foldl ?_ (fun st0 a1 => ?_)
  · exact Moves.refl
  · extract_lets -underBinder -merge -useContext v2 v3 v4
    try clear_value v2
    try clear_value v3
    have h5 : Moves 0x100000002000000 st0 v4 := by
      unfold v4
      refine Moves.trans ?_ (Moves.mono (k := 0x2000000) rfl State.setLoop_moves)
      exact Moves.refl
    try clear_value v4
    refine Moves.ite ?_ ?_
    · refine Moves.wr ?_ rfl
      exact h5
    · exact h5

theorem State.resumeControl_moves {s : State} {a0 : Option Bool} {a1 : Nat} {a2 : Nat} :
    Moves 0x10001000000000000000000000000000000000000000000000000000001010300000033406c80 s (State.resumeControl s a0 a1 a2) := by
  unfold State.resumeControl
  extract_lets -underBinder -merge -useContext v0 v1 v2 v3 v4 v5
  have h6 : Moves 0x10001000000000000000000000000000000000000000000000000000001010300000033406c80 s v0 := by
    unfold v0
    refine Moves.trans ?_ (Moves.mono (k := 0x10000000000000000000000000000000000000000000000000000000000000200000002000400) rfl State.axesBack_moves)
    refine Moves.trans ?_ (Moves.mono (k := 0x100000002000000) rfl State.loopsBack_moves)
    exact Moves.refl
  try clear_value v0
  have h7 : Moves 0x10001000000000000000000000000000000000000000000000000000001010300000033406c80 s v1 := by
    unfold v1
    refine Moves.trans ?_ (Moves.mono (k := 0x21400080) rfl State.controlOn_moves)
    exact h6
  try clear_value v1
  try clear_value v2
  have h8 : Moves 0x10001000000000000000000000000000000000000000000000000000001010300000033406c80 s v3 := by
    unfold v3
    refine Moves.lg ?_ rfl
    exact h7
  try clear_value v3
  try clear_value v4
  have h9 : Moves 0x10001000000000000000000000000000000000000000000000000000001010300000033406c80 s v5 := by
    unfold v5
    refine Moves.trans ?_ (Moves.mono (k := 0x10000000000000000) rfl State.lgShow_moves)
    refine Moves.trans ?_ (Moves.mono (k := 0x10000000010004000) rfl State.lgResumed_moves)
    refine Moves.cs ?_ rfl
    exact h8
  try clear_value v5
  refine Moves.trans ?_ (Moves.mono (k := 0x1000000000000000000000000000000000000000000000000000000000000000000006c00) rfl State.notify_moves)
  refine Moves.wr ?_ rfl
  exact h9

theorem State.pfResume_moves {s : State} :
    Moves 0x10001000000000000000000000000000000000000000000000000010001010300000037c17ca0 s (State.pfResume s) := by
  unfold State.pfResume
  refine Moves.ite ?_ ?_
  · refine Moves.trans ?_ (Moves.mono (k := 0x1000000000000000000000000000000000000000000000000010001010300000037c17c80) rfl State.coldStart_moves)
    refine Moves.trans ?_ (Moves.mono (k := 0x20) rfl State.drawn_moves)
    exact Moves.refl
  · refine Moves.trans ?_ (Moves.mono (k := 0x10001000000000000000000000000000000000000000000000000000001010300000033406c80) rfl State.resumeControl_moves)
    refine Moves.trans ?_ (Moves.mono (k := 0x10000000000000004c11000) rfl State.clearForces_moves)
    exact Moves.refl

theorem State.blockBad_moves {s : State} {a0 : Nat} :
    Moves 0x1000000000000000000000000000000000000000000000000000000000000000020006c00 s (State.blockBad s a0) := by
  unfold State.blockBad
  extract_lets -underBinder -merge -useContext v0
  try clear_value v0
  refine Moves.ite ?_ ?_
  · exact Moves.refl
  · refine Moves.trans ?_ (Moves.mono (k := 0x1000000000000000000000000000000000000000000000000000000000000000000006c00) rfl State.notify_moves)
    refine Moves.cs ?_ rfl
    exact Moves.refl

theorem State.landSamples_moves {s : State} :
    Moves 0x300000002401000 s (State.landSamples s) := by
  unfold State.landSamples
  extract_lets -underBinder -merge -useContext v0
  have h1 : Moves 0x300000002401000 s v0 := by
    unfold v0
    refine Moves.foldl ?_ (fun st2 a3 => ?_)
    · exact Moves.refl
    · refine Moves.trans ?_ (Moves.mono (k := 0x100000002401000) rfl State.loopApply_moves)
      exact Moves.refl
  try clear_value v0
  refine Moves.foldl ?_ (fun st4 a5 => ?_)
  · exact h1
  · refine Moves.trans ?_ (Moves.mono (k := 0x200000002401000) rfl State.axisApply_moves)
    exact Moves.refl

theorem State.pfOver_moves {s : State} :
    Moves 0x20020000 s (State.pfOver s) := by
  unfold State.pfOver
  extract_lets -underBinder -merge -useContext v0 v1
  try clear_value v0
  try clear_value v1
  refine Moves.upd (x := s) ?_ (fun p hp => by cases p <;> first | rfl | exact ⟨rfl, rfl⟩ | exact ⟨rfl, rfl, rfl⟩ | exact ⟨rfl, rfl, rfl, rfl⟩ | exact fun _ => List.prefix_rfl | exact List.prefix_rfl | exact fun _ h _ => h | exact fun _ _ => rfl | exact absurd hp (by decide)) rfl rfl rfl rfl rfl
  exact Moves.refl

theorem State.pfTake_moves {s : State} :
    Moves 0x20020100 s (State.pfTake s) := by
  unfold State.pfTake
  extract_lets -underBinder -merge -useContext v0 v1 v2
  have h3 : Moves 0x20020100 s v0 := by
    unfold v0
    refine Moves.trans ?_ (Moves.mono (k := 0x100) rfl State.pfMark_moves)
    exact Moves.refl
  try clear_value v0
  try clear_value v1
  try clear_value v2
  refine Moves.upd (x := v0) ?_ (fun p hp => by cases p <;> first | rfl | exact ⟨rfl, rfl⟩ | exact ⟨rfl, rfl, rfl⟩ | exact ⟨rfl, rfl, rfl, rfl⟩ | exact fun _ => List.prefix_rfl | exact List.prefix_rfl | exact fun _ h _ => h | exact fun _ _ => rfl | exact absurd hp (by decide)) rfl rfl rfl rfl rfl
  exact h3

theorem State.subsBack_moves {s : State} {a0 : List Nat} :
    Moves 0x40000000 s (State.subsBack s a0) := by
  unfold State.subsBack
  refine Moves.foldl ?_ (fun st0 a1 => ?_)
  · exact Moves.refl
  · extract_lets -underBinder -merge -useContext v2
    try clear_value v2
    refine Moves.trans ?_ (Moves.mono (k := 0x40000000) rfl State.setStn_moves)
    exact Moves.refl

theorem State.restore_moves {s : State} {a0 : Sys2Proof.Machine.CsImage} {a1 : Nat} :
    Moves 0x100000000000000000000000000000000000000000000010f030f010f03030306d7c17c00 s (State.restore s a0 a1) := by
  unfold State.restore
  extract_lets -underBinder -merge -useContext v0 v1 v2 v3 v4 v5 v6 v7 v8 v9
  have h10 : Moves 0x100000000000000000000000000000000000000000000010f030f010f03030306d7c17c00 s v0 := by
    unfold v0
    refine Moves.trans ?_ (Moves.mono (k := 0x401000) rfl State.pointsCold_moves)
    refine Moves.trans ?_ (Moves.mono (k := 0x10000000000000004c11000) rfl State.clearForces_moves)
    exact Moves.refl
  try clear_value v0
  try clear_value v1
  try clear_value v2
  try clear_value v3
  try clear_value v4
  try clear_value v5
  try clear_value v6
  try clear_value v7
  have h11 : Moves 0x100000000000000000000000000000000000000000000010f030f010f03030306d7c17c00 s v8 := by
    unfold v8
    refine Moves.upd (x := v0) ?_ (fun p hp => by cases p <;> first | rfl | exact ⟨rfl, rfl⟩ | exact ⟨rfl, rfl, rfl⟩ | exact ⟨rfl, rfl, rfl, rfl⟩ | exact fun _ => List.prefix_rfl | exact List.prefix_rfl | exact fun _ h _ => h | exact fun _ _ => rfl | exact absurd hp (by decide)) rfl rfl rfl rfl rfl
    exact h10
  try clear_value v8
  have h12 : Moves 0x100000000000000000000000000000000000000000000010f030f010f03030306d7c17c00 s v9 := by
    unfold v9
    refine Moves.foldl ?_ (fun st13 a14 => ?_)
    · refine Moves.trans ?_ (Moves.mono (k := 0x1000) rfl State.mapBump_moves)
      exact h11
    · refine Moves.trans ?_ (Moves.mono (k := 0x100000000000000000000000000000000000000000000010f030f010f0303030680000000) rfl State.backWord_moves)
      exact Moves.refl
  try clear_value v9
  refine Moves.trans ?_ (Moves.mono (k := 0x40000000) rfl State.subsBack_moves)
  refine Moves.trans ?_ (Moves.mono (k := 0x1000000000000000000000000000000000000000000000000000000010000000011006c00) rfl State.rpWarm_moves)
  exact h12

theorem State.writeStart_moves {s : State} {a0 : Nat} {a1 : Nat} :
    Moves 0x20000000 s (State.writeStart s a0 a1) := by
  unfold State.writeStart
  extract_lets -underBinder -merge -useContext v0 v1 v2
  try clear_value v0
  have h3 : Moves 0x20000000 s v1 := by
    unfold v1
    refine Moves.trans ?_ (Moves.mono (k := 0x20000000) rfl State.setSlot_moves)
    refine Moves.trans ?_ (Moves.mono (k := 0x20000000) rfl State.journal_moves)
    exact Moves.refl
  try clear_value v1
  try clear_value v2
  refine Moves.cs ?_ rfl
  exact h3

theorem State.stopControl_moves {s : State} :
    Moves 0x10300000013401080 s (State.stopControl s) := by
  unfold State.stopControl
  extract_lets -underBinder -merge -useContext v0 v1 v2
  have h3 : Moves 0x10300000013401080 s v0 := by
    unfold v0
    refine Moves.trans ?_ (Moves.mono (k := 0x300000002401000) rfl State.landSamples_moves)
    refine Moves.trans ?_ (Moves.mono (k := 0x1000000) rfl State.rpDiscard_moves)
    refine Moves.trans ?_ (Moves.mono (k := 0x10000000010000000) rfl State.dropCycles_moves)
    exact Moves.refl
  try clear_value v0
  try clear_value v2
  refine Moves.upd (x := v0) ?_ (fun p hp => by cases p <;> first | rfl | exact ⟨rfl, rfl⟩ | exact ⟨rfl, rfl, rfl⟩ | exact ⟨rfl, rfl, rfl, rfl⟩ | exact fun _ => List.prefix_rfl | exact List.prefix_rfl | exact fun _ h _ => h | exact fun _ _ => rfl | exact absurd hp (by decide)) rfl rfl rfl rfl rfl
  exact h3

theorem State.takeCut_moves {s : State} {a0 : Nat} {a1 : Nat} :
    Moves 0x10300000033401080 s (State.takeCut s a0 a1) := by
  unfold State.takeCut
  extract_lets -underBinder -merge -useContext v0 v1
  have h2 : Moves 0x10300000033401080 s v0 := by
    unfold v0
    refine Moves.trans ?_ (Moves.mono (k := 0x10300000013401080) rfl State.stopControl_moves)
    exact Moves.refl
  try clear_value v0
  try clear_value v1
  refine Moves.cs ?_ rfl
  exact h2

theorem State.warmStart_moves {s : State} {a0 : Bool} {a1 : Sys2Proof.Machine.CsImage} :
    Moves 0x1000100000000000000000000000000000000000000000000010f030f010f03030306f7c17c80 s (State.warmStart s a0 a1) := by
  unfold State.warmStart
  refine Moves.trans ?_ (Moves.mono (k := 0x10001000000000000000000000000000000000000000000000000000001010300000033406c80) rfl State.resumeControl_moves)
  refine Moves.trans ?_ (Moves.mono (k := 0x100000000000000000000000000000000000000000000010f030f010f03030306d7c17c00) rfl State.restore_moves)
  exact Moves.refl

theorem State.writeFailed_moves {s : State} {a0 : Sys2Proof.Machine.CsWrite} {a1 : Sys2Proof.Machine.SlotState} {a2 : Nat} :
    Moves 0x1000000000000000000000000000000000000000000000000000000000000000020006c00 s (State.writeFailed s a0 a1 a2) := by
  unfold State.writeFailed
  extract_lets -underBinder -merge -useContext v0 v1 v2 v3
  have h4 : Moves 0x1000000000000000000000000000000000000000000000000000000000000000020006c00 s v0 := by
    unfold v0
    refine Moves.trans ?_ (Moves.mono (k := 0x20000000) rfl State.setSlot_moves)
    exact Moves.refl
  try clear_value v0
  try clear_value v1
  try clear_value v2
  have h5 : Moves 0x1000000000000000000000000000000000000000000000000000000000000000020006c00 s v3 := by
    unfold v3
    refine Moves.cs ?_ rfl
    exact h4
  try clear_value v3
  refine Moves.trans ?_ (Moves.mono (k := 0x1000000000000000000000000000000000000000000000000000000000000000000006c00) rfl State.notify_moves)
  exact h5

theorem execPowerFailWarning_moves {s : State} :
    ResMoves 0x10001000000000000000000000000000000000000000000000000000000010300000033427d80 s (execPowerFailWarning s) := by
  unfold execPowerFailWarning
  extract_lets -underBinder -merge -useContext v0 v1 v2 v3
  have h4 : Moves 0x10001000000000000000000000000000000000000000000000000000000010300000033427d80 s v0 := by
    unfold v0
    refine Moves.trans ?_ (Moves.mono (k := 0x20020100) rfl State.pfTake_moves)
    exact Moves.refl
  try clear_value v0
  have h5 : Moves 0x10001000000000000000000000000000000000000000000000000000000010300000033427d80 s v1 := by
    unfold v1
    refine Moves.trans ?_ (Moves.mono (k := 0x10001000000000000000000000000000000000000000000000000000000010000000010006c00) rfl State.lgCancel_moves)
    refine Moves.trans ?_ (Moves.mono (k := 0x20020100) rfl State.pfTake_moves)
    exact Moves.refl
  try clear_value v1
  have h6 : Moves 0x10001000000000000000000000000000000000000000000000000000000010300000033427d80 s v2 := by
    unfold v2
    refine Moves.ite ?_ ?_
    · exact h5
    · refine Moves.trans ?_ (Moves.mono (k := 0x20000000) rfl State.writeStart_moves)
      refine Moves.trans ?_ (Moves.mono (k := 0x10300000033401080) rfl State.takeCut_moves)
      exact h5
  try clear_value v2
  refine ResMoves.ite ?_ ?_
  · refine ResMoves.next ?_
    exact Moves.refl
  · refine ResMoves.ite ?_ ?_
    · refine ResMoves.next ?_
      split
      · refine Moves.trans ?_ (Moves.mono (k := 0x20000000) rfl State.journal_moves)
        exact h4
      · exact h4
    · refine ResMoves.next ?_
      refine Moves.ite ?_ ?_
      · refine Moves.moKeep ?_ rfl rfl rfl rfl rfl
        exact h6
      · exact h6

theorem execSlotWriteDone_moves {a0 : Bool} {a1 : Nat} {a2 : Nat} {s : State} :
    ResMoves 0x1000000000000000000000000000000000000000000000000000001000000000020006d00 s (execSlotWriteDone a0 a1 a2 s) := by
  unfold execSlotWriteDone
  split
  · split
    · refine ResMoves.next ?_
      refine Moves.trans ?_ (Moves.mono (k := 0x1000000000000000000000000000000000000000000000000000000000000000020006c00) rfl State.writeFailed_moves)
      exact Moves.refl
    · extract_lets -underBinder -merge -useContext v0 v1 v2 v3 v4
      have h5 : Moves 0x1000000000000000000000000000000000000000000000000000001000000000020006d00 s v0 := by
        unfold v0
        refine Moves.trans ?_ (Moves.mono (k := 0x20000000) rfl State.setSlot_moves)
        refine Moves.trans ?_ (Moves.mono (k := 0x20000000) rfl State.journal_moves)
        exact Moves.refl
      try clear_value v0
      try clear_value v1
      have h6 : Moves 0x1000000000000000000000000000000000000000000000000000001000000000020006d00 s v2 := by
        unfold v2
        refine Moves.cs ?_ rfl
        exact h5
      try clear_value v2
      have h7 : Moves 0x1000000000000000000000000000000000000000000000000000001000000000020006d00 s v3 := by
        unfold v3
        refine Moves.wr ?_ rfl
        refine Moves.wr ?_ rfl
        exact h6
      try clear_value v3
      have h8 : Moves 0x1000000000000000000000000000000000000000000000000000001000000000020006d00 s v4 := by
        unfold v4
        refine Moves.trans ?_ (Moves.mono (k := 0x1000000000000000000000000000000000000000000000000000000000000000000006c00) rfl State.notify_moves)
        exact h7
      try clear_value v4
      refine ResMoves.ite ?_ ?_
      · refine ResMoves.next ?_
        refine Moves.trans ?_ (Moves.mono (k := 0x1000000000000000000000000000000000000000000000000000000000000000020006c00) rfl State.writeFailed_moves)
        exact Moves.refl
      · refine ResMoves.next ?_
        refine Moves.ite ?_ ?_
        · refine Moves.trans ?_ (Moves.mono (k := 0x100) rfl State.pfMark_moves)
          exact h8
        · exact h8
  · refine ResMoves.next ?_
    exact Moves.refl

theorem execStoreBlockError_moves {a0 : Nat} {a1 : Option Sys2Proof.SdBeat} {s : State} :
    ResMoves 0x1000000000000000000000000000000000000000000000000000000000000000020006c00 s (execStoreBlockError a0 a1 s) := by
  unfold execStoreBlockError
  refine ResMoves.ite ?_ ?_
  · refine ResMoves.next ?_
    exact Moves.refl
  · split
    · refine ResMoves.next ?_
      refine Moves.trans ?_ (Moves.mono (k := 0x1000000000000000000000000000000000000000000000000000000000000000020006c00) rfl State.blockBad_moves)
      exact Moves.refl
    · split
      · refine ResMoves.next ?_
        refine Moves.trans ?_ (Moves.mono (k := 0x1000000000000000000000000000000000000000000000000000000000000000020006c00) rfl State.blockBad_moves)
        refine Moves.trans ?_ (Moves.mono (k := 0x20002000) rfl State.sdJudge_moves)
        exact Moves.refl
      · refine ResMoves.next ?_
        refine Moves.trans ?_ (Moves.mono (k := 0x20002000) rfl State.sdJudge_moves)
        exact Moves.refl

end Sys2Proof.Machine
end

