-- ==== Sys2Proof/Laws/FrameModes.lean ====
section
/-! SUPPORT. What every definition of Machine/Modes.lean may change (masks over `Part.bit`), one lemma each. -/

namespace Sys2Proof.Machine

open Sys2Proof

theorem State.leaveCommission_moves {s : State} :
    Moves 0x10001000000000000000000000000000000000000000000000000010000020300000006cd7c00 s (State.leaveCommission s) := by
  unfold State.leaveCommission
  refine Moves.trans ?_ (Moves.mono (k := 0x1000000000000000000000000000000000000000000000000000000000100000002006c00) rfl State.tuneModeEnd_moves)
  refine Moves.trans ?_ (Moves.mono (k := 0xc0000) rfl State.stopInjections_moves)
  refine Moves.trans ?_ (Moves.mono (k := 0x20000000000800000) rfl State.resolveOutputs_moves)
  refine Moves.trans ?_ (Moves.mono (k := 0x10000000000000004c11000) rfl State.clearForces_moves)
  refine Moves.trans ?_ (Moves.mono (k := 0x10000000000000000000000000000000000000000000000000000000000000200000002000400) rfl State.capModeEnd_moves)
  exact Moves.refl

theorem State.setMode_moves {s : State} {a0 : Sys2Proof.Machine.Mode} {a1 : Nat} :
    Moves 0x11001000000000000000000000000000000000000000000000000010000020300000006cd7c80 s (State.setMode s a0 a1) := by
  unfold State.setMode
  extract_lets -underBinder -merge -useContext v0 v1 v2 v3 v4 v5 v6 v7
  try clear_value v0
  try clear_value v1
  have h8 : Moves 0x11001000000000000000000000000000000000000000000000000010000020300000006cd7c80 s v3 := by
    unfold v3
    refine Moves.mo ?_ rfl rfl
    exact Moves.refl
  try clear_value v3
  have h9 : Moves 0x11001000000000000000000000000000000000000000000000000010000020300000006cd7c80 s v4 := by
    unfold v4
    refine Moves.ite ?_ ?_
    · refine Moves.trans ?_ (Moves.mono (k := 0x10001000000000000000000000000000000000000000000000000010000020300000006cd7c00) rfl State.leaveCommission_moves)
      exact h8
    · exact h8
  try clear_value v4
  have h10 : Moves 0x11001000000000000000000000000000000000000000000000000010000020300000006cd7c80 s v5 := by
    unfold v5
    refine Moves.ite ?_ ?_
    · refine Moves.trans ?_ (Moves.mono (k := 0x10000000000000000000000000000000000000000000000000000000000000000000000000400) rfl State.settle_moves)
      exact h9
    · refine Moves.trans ?_ (Moves.mono (k := 0x10000000000000000000000000000000000000000000000000000000000000000000000000400) rfl State.settle_moves)
      exact h9
  try clear_value v5
  have h11 : Moves 0x11001000000000000000000000000000000000000000000000000010000020300000006cd7c80 s v7 := by
    unfold v7
    refine Moves.ite ?_ ?_
    · refine Moves.moKeep ?_ rfl rfl rfl rfl rfl
      exact h10
    · exact h10
  try clear_value v7
  refine Moves.trans ?_ (Moves.mono (k := 0x1000000000000000000000000000000000000000000000000000000000000000000000800) rfl State.sbCause_moves)
  refine Moves.trans ?_ (Moves.mono (k := 0x1000000000000000000000000000000000000000000000000000000000000000000006c00) rfl State.notify_moves)
  exact h11

theorem State.modeBoundary_moves {s : State} :
    Moves 0x11001000000000000000000000000000000000000000000000000010000020300000006cd7c80 s (State.modeBoundary s) := by
  unfold State.modeBoundary
  split
  · extract_lets -underBinder -merge -useContext v0
    refine Moves.ite ?_ ?_
    · exact Moves.refl
    · refine Moves.ite ?_ ?_
      · refine Moves.trans ?_ (Moves.mono (k := 0x10000000000000000000000000000000000000000000000000000000000000000000000000400) rfl State.settle_moves)
        refine Moves.moKeep ?_ rfl rfl rfl rfl rfl
        exact Moves.refl
      · refine Moves.trans ?_ (Moves.mono (k := 0x11001000000000000000000000000000000000000000000000000010000020300000006cd7c80) rfl State.setMode_moves)
        exact Moves.refl
  · exact Moves.refl

theorem State.afterCycle_moves {s : State} {a0 : Bool} :
    Moves 0x11001000000000000000000000000000000000000000000000000010000020300000026cd7c80 s (State.afterCycle s a0) := by
  unfold State.afterCycle
  extract_lets -underBinder -merge -useContext v0
  have h1 : Moves 0x11001000000000000000000000000000000000000000000000000010000020300000026cd7c80 s v0 := by
    unfold v0
    refine Moves.ite ?_ ?_
    · refine Moves.trans ?_ (Moves.mono (k := 0x20000080) rfl State.firstOutput_moves)
      exact Moves.refl
    · exact Moves.refl
  try clear_value v0
  refine Moves.trans ?_ (Moves.mono (k := 0x11001000000000000000000000000000000000000000000000000010000020300000006cd7c80) rfl State.modeBoundary_moves)
  exact h1

theorem State.pathsBack_moves {s : State} :
    Moves 0x1c0000 s (State.pathsBack s) := by
  unfold State.pathsBack
  extract_lets -underBinder -merge -useContext v0 v1
  have h2 : Moves 0x1c0000 s v0 := by
    unfold v0
    refine Moves.trans ?_ (Moves.mono (k := 0x100000) rfl State.peWake_moves)
    exact Moves.refl
  try clear_value v0
  try clear_value v1
  refine Moves.trans ?_ (Moves.mono (k := 0xc0000) rfl State.pathsStart_moves)
  refine Moves.pe ?_ rfl
  exact h2

theorem State.sentUndo_moves {s : State} :
    Moves 0x281e8080 s (State.sentUndo s) := by
  unfold State.sentUndo
  split
  · extract_lets -underBinder -merge -useContext v0 v1 v2 v3 v4 v5
    have h6 : Moves 0x281e8080 s v0 := by
      unfold v0
      refine Moves.ite ?_ ?_
      · refine Moves.trans ?_ (Moves.mono (k := 0x1c0000) rfl State.pathsBack_moves)
        exact Moves.refl
      · exact Moves.refl
    try clear_value v0
    try clear_value v3
    have h7 : Moves 0x281e8080 s v4 := by
      unfold v4
      refine Moves.upd (x := v0) ?_ (fun p hp => by cases p <;> first | rfl | exact ⟨rfl, rfl⟩ | exact ⟨rfl, rfl, rfl⟩ | exact ⟨rfl, rfl, rfl, rfl⟩ | exact fun _ => List.prefix_rfl | exact List.prefix_rfl | exact fun _ h _ => h | exact fun _ _ => rfl | exact absurd hp (by decide)) rfl rfl rfl rfl rfl
      exact h6
    try clear_value v4
    have h8 : Moves 0x281e8080 s v5 := by
      unfold v5
      refine Moves.ite ?_ ?_
      · refine Moves.trans ?_ (Moves.mono (k := 0x8000000) rfl State.sfStart_moves)
        exact h7
      · exact h7
    try clear_value v5
    refine Moves.ite ?_ ?_
    · refine Moves.trans ?_ (Moves.mono (k := 0x28000) rfl State.chStart_moves)
      exact h8
    · exact h8
  · extract_lets -underBinder -merge -useContext v9
    refine Moves.trans ?_ (Moves.mono (k := 0x28000) rfl State.chStart_moves)
    refine Moves.moKeep ?_ rfl rfl rfl rfl rfl
    exact Moves.refl
  · exact Moves.refl

theorem State.setHandling_moves {s : State} {a0 : List Sys2Proof.Machine.ErrRec} {a1 : List Sys2Proof.Machine.ErrRec} :
    Moves 0x1000000000000000000000000000000000000000000000000000000000000000000002800 s (State.setHandling s a0 a1) := by
  unfold State.setHandling
  extract_lets -underBinder -merge -useContext v0 v1
  have h2 : Moves 0x1000000000000000000000000000000000000000000000000000000000000000000002800 s v1 := by
    unfold v1
    refine Moves.ecKeep ?_ rfl rfl
    exact Moves.refl
  try clear_value v1
  refine Moves.ite ?_ ?_
  · exact h2
  · refine Moves.trans ?_ (Moves.mono (k := 0x1000000000000000000000000000000000000000000000000000000000000000000000800) rfl State.sbCause_moves)
    exact h2

theorem State.endHead_moves {s : State} :
    Moves 0x1000000000000000000000000000000000000000000000000000000000000000000002800 s (State.endHead s) := by
  unfold State.endHead
  split
  · exact Moves.refl
  · split
    · refine Moves.trans ?_ (Moves.mono (k := 0x1000000000000000000000000000000000000000000000000000000000000000000002800) rfl State.setHandling_moves)
      exact Moves.refl
    · refine Moves.trans ?_ (Moves.mono (k := 0x1000000000000000000000000000000000000000000000000000000000000000000002800) rfl State.setHandling_moves)
      exact Moves.refl
  · refine Moves.trans ?_ (Moves.mono (k := 0x1000000000000000000000000000000000000000000000000000000000000000000002800) rfl State.setHandling_moves)
    exact Moves.refl

theorem State.letOver_moves {s : State} :
    Moves 0x1000000000000000000 s (State.letOver s) := by
  unfold State.letOver
  refine Moves.ite ?_ ?_
  · exact Moves.refl
  · refine Moves.wr ?_ rfl
    refine Moves.wr ?_ rfl
    exact Moves.refl

theorem State.enterSafe_moves {s : State} {a0 : Nat} :
    Moves 0x1100100000000000000000000000000000000000000000000000001000103030000003fdffc80 s (State.enterSafe s a0) := by
  unfold State.enterSafe
  extract_lets -underBinder -merge -useContext v0 v1 v2 v3 v4 v5 v6 v7 v8
  have h9 : Moves 0x1100100000000000000000000000000000000000000000000000001000103030000003fdffc80 s v0 := by
    unfold v0
    refine Moves.trans ?_ (Moves.mono (k := 0x281e8080) rfl State.sentUndo_moves)
    refine Moves.trans ?_ (Moves.mono (k := 0x10001000000000000000000000000000000000000000000000000000000010000000010006c00) rfl State.lgCancel_moves)
    refine Moves.trans ?_ (Moves.mono (k := 0x1000000000000000000) rfl State.letOver_moves)
    exact Moves.refl
  try clear_value v0
  have h10 : Moves 0x1100100000000000000000000000000000000000000000000000001000103030000003fdffc80 s v1 := by
    unfold v1
    refine Moves.trans ?_ (Moves.mono (k := 0x1000000) rfl State.rpHoldAll_moves)
    refine Moves.trans ?_ (Moves.mono (k := 0x1000000) rfl State.rpDiscard_moves)
    refine Moves.trans ?_ (Moves.mono (k := 0x10000000010000000) rfl State.dropCycles_moves)
    exact h9
  try clear_value v1
  try clear_value v2
  have h11 : Moves 0x1100100000000000000000000000000000000000000000000000001000103030000003fdffc80 s v3 := by
    unfold v3
    refine Moves.trans ?_ (Moves.mono (k := 0x10000000000000000000000000000000000000000000000000000000000000200000002401400) rfl State.axSafe_moves)
    refine Moves.trans ?_ (Moves.mono (k := 0x1000000000000000000000000000000000000000000000000000000000100000002407c00) rfl State.leSafe_moves)
    refine Moves.trans ?_ (Moves.mono (k := 0x10000000000000000) rfl State.lgShow_moves)
    refine Moves.trans ?_ (Moves.mono (k := 0x10800000) rfl State.allSafe_moves)
    refine Moves.lg ?_ rfl
    exact h10
  try clear_value v3
  have h12 : Moves 0x1100100000000000000000000000000000000000000000000000001000103030000003fdffc80 s v4 := by
    unfold v4
    refine Moves.trans ?_ (Moves.mono (k := 0x11001000000000000000000000000000000000000000000000000010000020300000006cd7c80) rfl State.setMode_moves)
    exact h11
  try clear_value v4
  have h13 : Moves 0x1100100000000000000000000000000000000000000000000000001000103030000003fdffc80 s v8 := by
    unfold v8
    refine Moves.upd (x := v4) ?_ (fun p hp => by cases p <;> first | rfl | exact ⟨rfl, rfl⟩ | exact ⟨rfl, rfl, rfl⟩ | exact ⟨rfl, rfl, rfl, rfl⟩ | exact fun _ => List.prefix_rfl | exact List.prefix_rfl | exact fun _ h _ => h | exact fun _ _ => rfl | exact absurd hp (by decide)) rfl rfl rfl rfl rfl
    exact h12
  try clear_value v8
  refine Moves.ite ?_ ?_
  · exact Moves.refl
  · refine Moves.ite ?_ ?_
    · exact h13
    · refine Moves.trans ?_ (Moves.mono (k := 0x1000000000000000000000000000000000000000000000000000000000000000000000800) rfl State.sbCause_moves)
      exact h13

theorem State.errRecord_moves {s : State} {a0 : Nat} {a1 : Nat} :
    Moves 0x4000 s (State.errRecord s a0 a1) := by
  unfold State.errRecord
  refine Moves.trans ?_ (Moves.mono (k := 0x4000) rfl State.handOff_moves)
  exact Moves.refl

theorem State.handleError_moves {s : State} {a0 : Sys2Proof.Machine.ErrRec} {a1 : Bool} :
    Moves 0x1100100000000000000000000000000000000000000000000000001000103030000003fdffc80 s (State.handleError s a0 a1) := by
  unfold State.handleError
  extract_lets -underBinder -merge -useContext v0 v1 v2 v3 v4
  have h5 : Moves 0x1100100000000000000000000000000000000000000000000000001000103030000003fdffc80 s v1 := by
    unfold v1
    refine Moves.ecKeep ?_ rfl rfl
    exact Moves.refl
  try clear_value v1
  have h6 : Moves 0x1100100000000000000000000000000000000000000000000000001000103030000003fdffc80 s v3 := by
    unfold v3
    refine Moves.trans ?_ (Moves.mono (k := 0x4000) rfl State.errRecord_moves)
    exact h5
  try clear_value v3
  refine Moves.ite ?_ ?_
  · refine Moves.ite ?_ ?_
    · refine Moves.moKeep ?_ rfl rfl rfl rfl rfl
      exact h5
    · refine Moves.ite ?_ ?_
      · exact h5
      · refine Moves.trans ?_ (Moves.mono (k := 0x1100100000000000000000000000000000000000000000000000001000103030000003fdffc80) rfl State.enterSafe_moves)
        exact h5
  · refine Moves.ite ?_ ?_
    · refine Moves.trans ?_ (Moves.mono (k := 0x1100100000000000000000000000000000000000000000000000001000103030000003fdffc80) rfl State.enterSafe_moves)
      refine Moves.ecKeep ?_ rfl rfl
      exact h6
    · split
      · refine Moves.trans ?_ (Moves.mono (k := 0x1000000000000000000000000000000000000000000000000000000000000000000002800) rfl State.setHandling_moves)
        exact h5
      · extract_lets -underBinder -merge -useContext v7 v8 v9
        have h10 : Moves 0x1100100000000000000000000000000000000000000000000000001000103030000003fdffc80 s v8 := by
          unfold v8
          refine Moves.ecKeep ?_ rfl rfl
          exact h5
        try clear_value v8
        refine Moves.ite ?_ ?_
        · refine Moves.trans ?_ (Moves.mono (k := 0x1000000000000000000000000000000000000000000000000000000000000000000002800) rfl State.setHandling_moves)
          exact h5
        · refine Moves.ite ?_ ?_
          · refine Moves.ite ?_ ?_
            · exact h10
            · refine Moves.trans ?_ (Moves.mono (k := 0x6000) rfl State.raiseErr_moves)
              refine Moves.ecKeep ?_ rfl rfl
              exact h10
          · refine Moves.trans ?_ (Moves.mono (k := 0x1000000000000000000000000000000000000000000000000000000000000000000002800) rfl State.setHandling_moves)
            exact h5

theorem State.sentAccept_moves {s : State} :
    Moves 0x11001000000000000000000000000000000000000000000000000010000020300000006cd7c80 s (State.sentAccept s) := by
  unfold State.sentAccept
  extract_lets -underBinder -merge -useContext v0 v1
  have h2 : Moves 0x11001000000000000000000000000000000000000000000000000010000020300000006cd7c80 s v0 := by
    unfold v0
    refine Moves.trans ?_ (Moves.mono (k := 0x11001000000000000000000000000000000000000000000000000010000020300000006cd7c80) rfl State.setMode_moves)
    exact Moves.refl
  try clear_value v0
  refine Moves.moKeep ?_ rfl rfl rfl rfl rfl
  exact h2

theorem State.trainExit_moves {s : State} {a0 : Nat} :
    Moves 0x1100100000000000000000000000000000000000000000000010f030f010f03030306ffdffc80 s (State.trainExit s a0) := by
  unfold State.trainExit
  extract_lets -underBinder -merge -useContext v0 v1 v2 v3 v4 v5
  try clear_value v0
  have h6 : Moves 0x1100100000000000000000000000000000000000000000000010f030f010f03030306ffdffc80 s v2 := by
    unfold v2
    refine Moves.moKeep ?_ rfl rfl rfl rfl rfl
    exact Moves.refl
  try clear_value v2
  try clear_value v3
  have h7 : Moves 0x1100100000000000000000000000000000000000000000000010f030f010f03030306ffdffc80 s v4 := by
    unfold v4
    refine Moves.trans ?_ (Moves.mono (k := 0x11001000000000000000000000000000000000000000000000000010000020300000006cd7c80) rfl State.setMode_moves)
    exact h6
  try clear_value v4
  have h8 : Moves 0x1100100000000000000000000000000000000000000000000010f030f010f03030306ffdffc80 s v5 := by
    unfold v5
    split
    · refine Moves.trans ?_ (Moves.mono (k := 0x1000100000000000000000000000000000000000000000000010f030f010f03030306f7c17c80) rfl State.warmStart_moves)
      exact h7
    · refine Moves.trans ?_ (Moves.mono (k := 0x1000000000000000000000000000000000000000000000000010001010300000037c17c80) rfl State.coldStart_moves)
      exact h7
  try clear_value v5
  refine Moves.ite ?_ ?_
  · refine Moves.trans ?_ (Moves.mono (k := 0x1100100000000000000000000000000000000000000000000000001000103030000003fdffc80) rfl State.enterSafe_moves)
    exact h6
  · refine Moves.trans ?_ (Moves.mono (k := 0x2000000000000000040000000) rfl State.stationsStart_moves)
    exact h8

theorem execCycleWatchdogExpiry_moves {a0 : Nat} {s : State} :
    ResMoves 0x11001000000000000000000000000000000000000000000000000010000030300000036cd7c80 s (execCycleWatchdogExpiry a0 s) := by
  unfold execCycleWatchdogExpiry
  split
  · refine ResMoves.ite ?_ ?_
    · refine ResMoves.next ?_
      refine Moves.trans ?_ (Moves.mono (k := 0x11001000000000000000000000000000000000000000000000000010000020300000026cd7c80) rfl State.afterCycle_moves)
      refine Moves.trans ?_ (Moves.mono (k := 0x1000000000000000000000000000000000000000000000000000000010000000010806c00) rfl State.abandon_moves)
      exact Moves.refl
    · refine ResMoves.next ?_
      exact Moves.refl
  · refine ResMoves.next ?_
    exact Moves.refl

theorem execErrorHandling_moves {s : State} :
    ResMoves 0x1900100000000000000000000000000000000000000000000000001000103030000003fdffc80 s (execErrorHandling s) := by
  unfold execErrorHandling
  split
  · refine ResMoves.next ?_
    exact Moves.refl
  · extract_lets -underBinder -merge -useContext v0
    refine ResMoves.ite ?_ ?_
    · refine ResMoves.next ?_
      exact Moves.refl
    · refine ResMoves.next ?_
      refine Moves.trans ?_ (Moves.mono (k := 0x1100100000000000000000000000000000000000000000000000001000103030000003fdffc80) rfl State.handleError_moves)
      refine Moves.ec ?_ rfl rfl
      exact Moves.refl

theorem execErrorHandlingEnd_moves {s : State} :
    ResMoves 0x1000000000000000000000000000000000000000000000000000000000000000000002800 s (execErrorHandlingEnd s) := by
  unfold execErrorHandlingEnd
  split
  · refine ResMoves.next ?_
    exact Moves.refl
  · refine ResMoves.ite ?_ ?_
    · refine ResMoves.next ?_
      exact Moves.refl
    · refine ResMoves.next ?_
      refine Moves.trans ?_ (Moves.mono (k := 0x1000000000000000000000000000000000000000000000000000000000000000000002800) rfl State.endHead_moves)
      exact Moves.refl

theorem execErrorTaskRun_moves {core : Nat}
    {s : State} : ResMoves 0x11001000000000000000000000000000000000000000000000000010000030300000076cd7ca0 s
    (execErrorTaskRun core s) := by
  unfold execErrorTaskRun
  split
  next x hx => exact ResMoves.next ((Moves.mono rfl (State.errorTaskRun_moves hx)).trans (Moves.mono rfl State.afterCycle_moves))
  · exact ResMoves.next Moves.refl

theorem execLogicOutputWrite_moves {a0 : Nat} {s : State} :
    ResMoves 0x11001000000000000000000000000000000000000000000000000010000030300000076cd7c80 s (execLogicOutputWrite a0 s) := by
  unfold execLogicOutputWrite
  split
  · refine ResMoves.ite ?_ ?_
    · refine ResMoves.next ?_
      refine Moves.trans ?_ (Moves.mono (k := 0x11001000000000000000000000000000000000000000000000000010000020300000026cd7c80) rfl State.afterCycle_moves)
      refine Moves.trans ?_ (Moves.mono (k := 0x10000000050c00000) rfl State.closeCycle_moves)
      exact Moves.refl
    · refine ResMoves.next ?_
      exact Moves.refl
  · refine ResMoves.next ?_
    exact Moves.refl

theorem execModeRequest_moves {a0 : Nat} {a1 : Nat} {s : State} :
    ResMoves 0x1100100000000000000000000000000000000000000000000000001000103030000003fdffc80 s (execModeRequest a0 a1 s) := by
  unfold execModeRequest
  refine ResMoves.trans ?_ (State.runCmd_moves rfl (fun st0 c1 => ?_))
  · exact Moves.refl
  · extract_lets -underBinder -merge -useContext v2 v3 v4 v5
    try clear_value v2
    have h6 : Moves 0x1100100000000000000000000000000000000000000000000000001000103030000003fdffc80 st0 v3 := by
      unfold v3
      refine Moves.trans ?_ (Moves.mono (k := 0x10000000000000000000000000000000000000000000000000000000000000000000000000400) rfl State.start_moves)
      exact Moves.refl
    try clear_value v3
    have h7 : Moves 0x1100100000000000000000000000000000000000000000000000001000103030000003fdffc80 st0 v5 := by
      unfold v5
      refine Moves.moKeep ?_ rfl rfl rfl rfl rfl
      exact h6
    try clear_value v5
    refine Moves.ite ?_ ?_
    · refine Moves.trans ?_ (Moves.mono (k := 0x10000000000000000000000000000000000000000000000000000000000000000000000000400) rfl State.answer_moves)
      exact Moves.refl
    · refine Moves.ite ?_ ?_
      · refine Moves.trans ?_ (Moves.mono (k := 0x10000000000000000000000000000000000000000000000000000000000000000000000000400) rfl State.done_moves)
        refine Moves.trans ?_ (Moves.mono (k := 0x1100100000000000000000000000000000000000000000000000001000103030000003fdffc80) rfl State.enterSafe_moves)
        exact Moves.refl
      · refine Moves.ite ?_ ?_
        · refine Moves.trans ?_ (Moves.mono (k := 0x10000000000000000000000000000000000000000000000000000000000000000000000000400) rfl State.done_moves)
          refine Moves.trans ?_ (Moves.mono (k := 0x11001000000000000000000000000000000000000000000000000010000020300000006cd7c80) rfl State.sentAccept_moves)
          exact Moves.refl
        · refine Moves.ite ?_ ?_
          · exact h7
          · refine Moves.trans ?_ (Moves.mono (k := 0x11001000000000000000000000000000000000000000000000000010000020300000006cd7c80) rfl State.modeBoundary_moves)
            exact h7

theorem execSafeExit_moves {a0 : Nat} {a1 : Nat} {s : State} :
    ResMoves 0x11001000000000000000000000000000000000000000000000002010001030300000077cd7c80 s (execSafeExit a0 a1 s) := by
  unfold execSafeExit
  refine ResMoves.trans ?_ (State.runCmd_moves rfl (fun st0 c1 => ?_))
  · exact Moves.refl
  · extract_lets -underBinder -merge -useContext v2 v3
    have h4 : Moves 0x11001000000000000000000000000000000000000000000000002010001030300000077cd7c80 st0 v2 := by
      unfold v2
      refine Moves.trans ?_ (Moves.mono (k := 0x11001000000000000000000000000000000000000000000000000010000020300000006cd7c80) rfl State.setMode_moves)
      exact Moves.refl
    try clear_value v2
    have h5 : Moves 0x11001000000000000000000000000000000000000000000000002010001030300000077cd7c80 st0 v3 := by
      unfold v3
      refine Moves.trans ?_ (Moves.mono (k := 0x2000000000000000040000000) rfl State.stationsStart_moves)
      refine Moves.trans ?_ (Moves.mono (k := 0x1000000000000000000000000000000000000000000000000010001010300000037c17c80) rfl State.coldStart_moves)
      exact h4
    try clear_value v3
    refine Moves.trans ?_ (Moves.mono (k := 0x10000000000000000000000000000000000000000000000000000000000000000000000000400) rfl State.setPhase_moves)
    exact h5

theorem execTrainExit_moves {s : State} :
    ResMoves 0x1100100000000000000000000000000000000000000000000010f030f010f03030306ffdffc80 s (execTrainExit s) := by
  unfold execTrainExit
  refine ResMoves.ite ?_ ?_
  · refine ResMoves.next ?_
    refine Moves.trans ?_ (Moves.mono (k := 0x1100100000000000000000000000000000000000000000000010f030f010f03030306ffdffc80) rfl State.trainExit_moves)
    exact Moves.refl
  · refine ResMoves.next ?_
    exact Moves.refl

theorem execTrainTimeout_moves {s : State} :
    ResMoves 0x1100100000000000000000000000000000000000000000000010f030f010f03030306ffdffc80 s (execTrainTimeout s) := by
  unfold execTrainTimeout
  extract_lets -underBinder -merge -useContext v0 v1 v2
  try clear_value v0
  have h3 : Moves 0x1100100000000000000000000000000000000000000000000010f030f010f03030306ffdffc80 s v1 := by
    unfold v1
    refine Moves.foldl ?_ (fun st4 a5 => ?_)
    · exact Moves.refl
    · refine Moves.wr ?_ rfl
      exact Moves.refl
  try clear_value v1
  have h6 : Moves 0x1100100000000000000000000000000000000000000000000010f030f010f03030306ffdffc80 s v2 := by
    unfold v2
    refine Moves.ite ?_ ?_
    · exact h3
    · refine Moves.trans ?_ (Moves.mono (k := 0x6000) rfl State.raiseErr_moves)
      exact h3
  try clear_value v2
  refine ResMoves.ite ?_ ?_
  · refine ResMoves.ite ?_ ?_
    · refine ResMoves.next ?_
      refine Moves.trans ?_ (Moves.mono (k := 0x1100100000000000000000000000000000000000000000000000001000103030000003fdffc80) rfl State.enterSafe_moves)
      exact Moves.refl
    · refine ResMoves.next ?_
      refine Moves.trans ?_ (Moves.mono (k := 0x1100100000000000000000000000000000000000000000000010f030f010f03030306ffdffc80) rfl State.trainExit_moves)
      exact h6
  · refine ResMoves.next ?_
    exact Moves.refl

end Sys2Proof.Machine
end

