-- ==== Sys2Proof/Laws/FrameRings.lean ====
section
/-! SUPPORT. What every definition of Machine/Rings.lean may change (masks over `Part.bit`), one lemma each. -/

namespace Sys2Proof.Machine

open Sys2Proof

theorem State.ringFault_moves {s : State} {a0 : Nat} {a1 : Nat} :
    Moves 0x1000000000000000000000000000000000000000000000000000000000000000000000000 s (State.ringFault s a0 a1) := by
  unfold State.ringFault
  refine Moves.wr ?_ rfl
  refine Moves.wr ?_ rfl
  exact Moves.refl

theorem State.dbApply_moves {s : State} {a0 : Nat} {a1 : Nat} {a2 : Nat} :
    Moves 0x1000000000000000000000000000000000000000000000000000000000000000000000000 s (State.dbApply s a0 a1 a2) := by
  unfold State.dbApply
  refine Moves.ite ?_ ?_
  · exact Moves.refl
  · refine Moves.ite ?_ ?_
    · refine Moves.trans ?_ (Moves.mono (k := 0x1000000000000000000000000000000000000000000000000000000000000000000000000) rfl State.ringFault_moves)
      exact Moves.refl
    · refine Moves.ite ?_ ?_
      · refine Moves.wr ?_ rfl
        exact Moves.refl
      · refine Moves.wr ?_ rfl
        exact Moves.refl

theorem State.applyLatched_moves {s : State} :
    Moves 0x1000000000000000000000000000000000000000000000000000000000000000000000400 s (State.applyLatched s) := by
  unfold State.applyLatched
  extract_lets -underBinder -merge -useContext v0
  refine Moves.foldl ?_ (fun st1 a2 => ?_)
  · refine Moves.mb ?_ rfl (.inr rfl) (.inr ⟨rfl, rfl, rfl⟩)
    exact Moves.refl
  · refine Moves.trans ?_ (Moves.mono (k := 0x1000000000000000000000000000000000000000000000000000000000000000000000000) rfl State.dbApply_moves)
    exact Moves.refl

theorem State.putMirror_moves {s : State} {a0 : Nat} {a1 : List Sys2Proof.W32} :
    Moves 0x1000 s (State.putMirror s a0 a1) := by
  unfold State.putMirror
  extract_lets -underBinder -merge -useContext v0 v1 v2
  try clear_value v0
  try clear_value v1
  try clear_value v2
  refine Moves.sb ?_ rfl
  exact Moves.refl

theorem State.stagingPost_moves {s : State} {a0 : Nat} {a1 : Nat} :
    Moves 0x1000000000000000000000000000000000000000000000000000000000000000000001400 s (State.stagingPost s a0 a1) := by
  unfold State.stagingPost
  extract_lets -underBinder -merge -useContext v0 v1 v2 v3
  try clear_value v0
  try clear_value v1
  have h4 : Moves 0x1000000000000000000000000000000000000000000000000000000000000000000001400 s v3 := by
    unfold v3
    refine Moves.mb ?_ rfl (.inr rfl) (.inr ⟨rfl, rfl, rfl⟩)
    exact Moves.refl
  try clear_value v3
  refine Moves.ite ?_ ?_
  · refine Moves.wr ?_ rfl
    exact h4
  · refine Moves.trans ?_ (Moves.mono (k := 0x1000) rfl State.putMirror_moves)
    exact Moves.refl

theorem State.dbLatch_moves {s : State} {a0 : Nat} {a1 : Nat} {a2 : Nat} :
    Moves 0x400 s (State.dbLatch s a0 a1 a2) := by
  unfold State.dbLatch
  extract_lets -underBinder -merge -useContext v0
  refine Moves.mb ?_ rfl (.inr rfl) (.inr ⟨rfl, rfl, rfl⟩)
  exact Moves.refl

theorem State.dropWork_moves {s : State} {a0 : Nat × Nat} :
    Moves 0x300020043cc42c0 s (State.dropWork s a0) := by
  unfold State.dropWork
  extract_lets -underBinder -merge -useContext v0 v1 v2 v3 v4 v5 v6 v7
  try clear_value v0
  try clear_value v1
  try clear_value v2
  try clear_value v3
  have h8 : Moves 0x300020043cc42c0 s v4 := by
    unfold v4
    refine Moves.upd (x := s) ?_ (fun p hp => by cases p <;> first | rfl | exact ⟨rfl, rfl⟩ | exact ⟨rfl, rfl, rfl⟩ | exact ⟨rfl, rfl, rfl, rfl⟩ | exact fun _ => List.prefix_rfl | exact List.prefix_rfl | exact fun _ h _ => h | exact fun _ _ => rfl | exact absurd hp (by decide)) rfl rfl rfl rfl rfl
    exact Moves.refl
  try clear_value v4
  have h9 : Moves 0x300020043cc42c0 s v6 := by
    unfold v6
    refine Moves.moKeep ?_ rfl (by first | rfl | (split <;> rfl)) (by first | rfl | (split <;> rfl)) (by first | rfl | (split <;> rfl)) (by first | rfl | (split <;> rfl))
    exact h8
  try clear_value v6
  have h10 : Moves 0x300020043cc42c0 s v7 := by
    unfold v7
    refine Moves.foldl ?_ (fun st11 a12 => ?_)
    · exact h9
    · split
      · refine Moves.ite ?_ ?_
        · refine Moves.trans ?_ (Moves.mono (k := 0x20000080000) rfl State.swapOver_moves)
          exact Moves.refl
        · exact Moves.refl
      · exact Moves.refl
  try clear_value v7
  refine Moves.trans ?_ (Moves.mono (k := 0x4000) rfl State.evCopyDrop_moves)
  refine Moves.trans ?_ (Moves.mono (k := 0x40000000) rfl State.stnEnableDrop_moves)
  refine Moves.trans ?_ (Moves.mono (k := 0x1000000) rfl State.laneDrop_moves)
  refine Moves.trans ?_ (Moves.mono (k := 0x200000002000000) rfl State.leReqDrop_moves)
  refine Moves.trans ?_ (Moves.mono (k := 0x100000002000000) rfl State.leSwapDrop_moves)
  exact h10

theorem State.fetchEntry_moves {s : State} {a0 : Nat} {a1 : List Sys2Proof.W32} {a2 : Option Nat} :
    Moves 0x52001000000000000000000000000000000000000000000000000000000000000000000000400 s (State.fetchEntry s a0 a1 a2) := by
  unfold State.fetchEntry
  extract_lets -underBinder -merge -useContext v0 v1 v2 v3 v4 v5 v6
  try clear_value v0
  try clear_value v1
  try clear_value v2
  try clear_value v3
  try clear_value v4
  have h7 : Moves 0x52001000000000000000000000000000000000000000000000000000000000000000000000400 s v5 := by
    unfold v5
    refine Moves.wr ?_ rfl
    exact Moves.refl
  try clear_value v5
  refine Moves.mb ?_ rfl (.inl ⟨rfl, rfl, rfl⟩) (.inr ⟨rfl, rfl, rfl⟩)
  exact h7

theorem State.unflight_moves {s : State} {a0 : Sys2Proof.Machine.Cmd} :
    Moves 0x52000000000000000000000000000000000000000000000000000000000000000000000000400 s (State.unflight s a0) := by
  unfold State.unflight
  extract_lets -underBinder -merge -useContext v0
  refine Moves.mb ?_ rfl (.inl ⟨rfl, rfl, rfl⟩) (.inr ⟨rfl, rfl, rfl⟩)
  exact Moves.refl

theorem State.ringDmaFault_moves {s : State} {a0 : Nat} :
    Moves 0x1000000000000000000000000000000000000000000000000000000000000000000006c00 s (State.ringDmaFault s a0) := by
  unfold State.ringDmaFault
  extract_lets -underBinder -merge -useContext v0
  have h1 : Moves 0x1000000000000000000000000000000000000000000000000000000000000000000006c00 s v0 := by
    unfold v0
    refine Moves.trans ?_ (Moves.mono (k := 0x1000000000000000000000000000000000000000000000000000000000000000000006c00) rfl State.notify_moves)
    refine Moves.trans ?_ (Moves.mono (k := 0x1000000000000000000000000000000000000000000000000000000000000000000000000) rfl State.ringFault_moves)
    refine Moves.wr ?_ rfl
    exact Moves.refl
  try clear_value v0
  refine Moves.ite ?_ ?_
  · refine Moves.trans ?_ (Moves.mono (k := 0x2000) rfl State.arrive_moves)
    exact h1
  · exact h1

theorem State.writeCpl_moves {s : State} {a0 : Sys2Proof.Machine.Cmd} {a1 : Bool} :
    Moves 0x52001000000000000000000000000000000000000000000000000000000000000000000007c00 s (State.writeCpl s a0 a1) := by
  unfold State.writeCpl
  split
  · extract_lets -underBinder -merge -useContext v0 v1 v2
    try clear_value v0
    try clear_value v1
    have h3 : Moves 0x52001000000000000000000000000000000000000000000000000000000000000000000007c00 s v2 := by
      unfold v2
      split
      · refine Moves.trans ?_ (Moves.mono (k := 0x1000) rfl State.putMirror_moves)
        exact Moves.refl
      · exact Moves.refl
    try clear_value v2
    refine Moves.ite ?_ ?_
    · refine Moves.bump ?_ rfl
      refine Moves.trans ?_ (Moves.mono (k := 0x52000000000000000000000000000000000000000000000000000000000000000000000000400) rfl State.unflight_moves)
      exact h3
    · refine Moves.ite ?_ ?_
      · exact Moves.refl
      · refine Moves.ite ?_ ?_
        · refine Moves.bump ?_ rfl
          refine Moves.trans ?_ (Moves.mono (k := 0x52000000000000000000000000000000000000000000000000000000000000000000000000400) rfl State.unflight_moves)
          refine Moves.trans ?_ (Moves.mono (k := 0x1000000000000000000000000000000000000000000000000000000000000000000006c00) rfl State.ringDmaFault_moves)
          exact h3
        · refine Moves.trans ?_ (Moves.mono (k := 0x52000000000000000000000000000000000000000000000000000000000000000000000000400) rfl State.unflight_moves)
          refine Moves.trans ?_ (Moves.mono (k := 0x1000000000000000000000000000000000000000000000000000000000000000000000c00) rfl State.ringPush_moves)
          exact h3
  · exact Moves.refl

theorem execAbort_moves {a0 : Nat} {a1 : Nat} {s : State} :
    ResMoves 0x10001000000000000000000000000000000000000000000000000000000010300020053cc6ec0 s (execAbort a0 a1 s) := by
  unfold execAbort
  refine ResMoves.trans ?_ (State.runCmd_moves rfl (fun st0 c1 => ?_))
  · exact Moves.refl
  · split
    · extract_lets -underBinder -merge -useContext v2
      have h3 : Moves 0x10001000000000000000000000000000000000000000000000000000000010300020053cc6ec0 st0 v2 := by
        unfold v2
        split
        · refine Moves.ite ?_ ?_
          · refine Moves.trans ?_ (Moves.mono (k := 0x10001000000000000000000000000000000000000000000000000000000010000000010006c00) rfl State.lgCancel_moves)
            exact Moves.refl
          · exact Moves.refl
        · exact Moves.refl
      try clear_value v2
      refine Moves.ite ?_ ?_
      · refine Moves.trans ?_ (Moves.mono (k := 0x10000000000000000000000000000000000000000000000000000000000000000000000000400) rfl State.done_moves)
        refine Moves.trans ?_ (Moves.mono (k := 0x10000000000000000000000000000000000000000000000000000000000000000000000000400) rfl State.settle_moves)
        refine Moves.trans ?_ (Moves.mono (k := 0x300020043cc42c0) rfl State.dropWork_moves)
        exact h3
      · refine Moves.trans ?_ (Moves.mono (k := 0x10000000000000000000000000000000000000000000000000000000000000000000000000400) rfl State.fail_moves)
        exact Moves.refl
    · refine Moves.trans ?_ (Moves.mono (k := 0x10000000000000000000000000000000000000000000000000000000000000000000000000400) rfl State.fail_moves)
      exact Moves.refl

theorem execCommandFetch_moves {a0 : Option (List Sys2Proof.W32)} {s : State} :
    ResMoves 0x52001000000000000000000000000000000000000000000000000000000000000000000006c00 s (execCommandFetch a0 s) := by
  unfold execCommandFetch
  refine ResMoves.ite ?_ ?_
  · refine ResMoves.next ?_
    exact Moves.refl
  · split
    · refine ResMoves.next ?_
      exact Moves.refl
    · refine ResMoves.next ?_
      refine Moves.trans ?_ (Moves.mono (k := 0x1000000000000000000000000000000000000000000000000000000000000000000006c00) rfl State.ringDmaFault_moves)
      exact Moves.refl
    · extract_lets -underBinder -merge -useContext v0 v1
      try clear_value v0
      try clear_value v1
      refine ResMoves.ite ?_ ?_
      · refine ResMoves.next ?_
        refine Moves.trans ?_ (Moves.mono (k := 0x52001000000000000000000000000000000000000000000000000000000000000000000000400) rfl State.fetchEntry_moves)
        exact Moves.refl
      · refine ResMoves.next ?_
        refine Moves.trans ?_ (Moves.mono (k := 0x52001000000000000000000000000000000000000000000000000000000000000000000000400) rfl State.fetchEntry_moves)
        exact Moves.refl

theorem execCompletionWrite_moves {a0 : Nat} {a1 : Nat} {a2 : Bool} {s : State} :
    ResMoves 0x52001000000000000000000000000000000000000000000000000000000000000000000007c00 s (execCompletionWrite a0 a1 a2 s) := by
  unfold execCompletionWrite
  split
  · refine ResMoves.ite ?_ ?_
    · refine ResMoves.next ?_
      refine Moves.trans ?_ (Moves.mono (k := 0x52001000000000000000000000000000000000000000000000000000000000000000000007c00) rfl State.writeCpl_moves)
      exact Moves.refl
    · refine ResMoves.next ?_
      exact Moves.refl
  · refine ResMoves.next ?_
    exact Moves.refl

theorem execNop_moves {a0 : Nat} {a1 : Nat} {s : State} :
    ResMoves 0x10000000000000000000000000000000000000000000000000000000000000000000000002400 s (execNop a0 a1 s) := by
  unfold execNop
  refine ResMoves.trans ?_ (State.runCmd_moves rfl (fun st0 c1 => ?_))
  · exact Moves.refl
  · refine Moves.trans ?_ (Moves.mono (k := 0x10000000000000000000000000000000000000000000000000000000000000000000000000400) rfl State.fail_moves)
    exact Moves.refl

theorem execNotifyRoute_moves {a0 : Nat} {a1 : Nat} {s : State} :
    ResMoves 0x10000000000000000000000000000000000000000000000000000000000000000000000002400 s (execNotifyRoute a0 a1 s) := by
  unfold execNotifyRoute
  refine ResMoves.trans ?_ (State.runCmd_moves rfl (fun st0 c1 => ?_))
  · exact Moves.refl
  · extract_lets -underBinder -merge -useContext v2 v3 v4 v5 v6
    try clear_value v2
    try clear_value v3
    try clear_value v4
    have h7 : Moves 0x10000000000000000000000000000000000000000000000000000000000000000000000002400 st0 v6 := by
      unfold v6
      refine Moves.mb ?_ rfl (.inr rfl) (.inr ⟨rfl, rfl, rfl⟩)
      exact Moves.refl
    try clear_value v6
    refine Moves.trans ?_ (Moves.mono (k := 0x10000000000000000000000000000000000000000000000000000000000000000000000000400) rfl State.done_moves)
    exact h7

end Sys2Proof.Machine
end

