-- ==== Sys2Proof/Laws/FrameLet.lean ====
section
/-! SUPPORT. What every definition of Machine/Let.lean may change (masks over `Part.bit`), one lemma each. -/

namespace Sys2Proof.Machine

open Sys2Proof

theorem State.deliverHeld_moves {s : State} :
    Moves 0x1000000000000000000000000000000000000000000000000000000000000000000000c00 s (State.deliverHeld s) := by
  unfold State.deliverHeld
  extract_lets -underBinder -merge -useContext v0
  refine Moves.foldl ?_ (fun st1 a2 => ?_)
  · refine Moves.mb ?_ rfl (.inr rfl) (.inr ⟨rfl, rfl, rfl⟩)
    exact Moves.refl
  · refine Moves.trans ?_ (Moves.mono (k := 0x1000000000000000000000000000000000000000000000000000000000000000000000c00) rfl State.deliver_moves)
    exact Moves.refl

theorem State.spoil_moves {s : State} {a0 : Sys2Proof.Machine.Cmd} :
    Moves 0x52000000000000000000000000000000000000000000000000000000000000000000000000400 s (State.spoil s a0) := by
  unfold State.spoil
  extract_lets -underBinder -merge -useContext v0
  refine Moves.mb ?_ rfl (.inl ⟨rfl, rfl, rfl⟩) (.inr ⟨rfl, rfl, rfl⟩)
  exact Moves.refl

theorem State.journalled_moves {s : State} {a0 : List (Nat × Nat)} {a1 : Sys2Proof.Machine.Cmd} :
    Moves 0x52000000000000000000000000000000000000000000000000000000000000300020043cc66c0 s (State.journalled s a0 a1) := by
  unfold State.journalled
  extract_lets -underBinder -merge -useContext v0 v1 v2
  try clear_value v0
  try clear_value v1
  have h3 : Moves 0x52000000000000000000000000000000000000000000000000000000000000300020043cc66c0 s v2 := by
    unfold v2
    refine Moves.ite ?_ ?_
    · exact Moves.refl
    · refine Moves.trans ?_ (Moves.mono (k := 0x300020043cc42c0) rfl State.dropWork_moves)
      exact Moves.refl
  try clear_value v2
  refine Moves.ite ?_ ?_
  · refine Moves.trans ?_ (Moves.mono (k := 0x6000) rfl State.raiseErr_moves)
    refine Moves.trans ?_ (Moves.mono (k := 0x52000000000000000000000000000000000000000000000000000000000000000000000000400) rfl State.spoil_moves)
    exact h3
  · refine Moves.ite ?_ ?_
    · exact h3
    · refine Moves.trans ?_ (Moves.mono (k := 0x10000000000000000000000000000000000000000000000000000000000000000000000000400) rfl State.settle_moves)
      exact h3

theorem State.journalEnd_moves {s : State} {a0 : List (Nat × Nat)} :
    Moves 0x52001000000000000000000000000000000000000000000000000000000000300020043cc7ec0 s (State.journalEnd s a0).1 := by
  unfold State.journalEnd
  extract_lets -underBinder -merge -useContext v0 v1 v2
  try clear_value v0
  have h3 : Moves 0x52001000000000000000000000000000000000000000000000000000000000300020043cc7ec0 s v1 := by
    unfold v1
    refine Moves.foldl ?_ (fun st4 a5 => ?_)
    · exact Moves.refl
    · refine Moves.trans ?_ (Moves.mono (k := 0x52000000000000000000000000000000000000000000000000000000000000300020043cc66c0) rfl State.journalled_moves)
      exact Moves.refl
  try clear_value v1
  try clear_value v2
  dsimp only
  refine Moves.foldl ?_ (fun st6 a7 => ?_)
  · exact h3
  · refine Moves.trans ?_ (Moves.mono (k := 0x52001000000000000000000000000000000000000000000000000000000000000000000007c00) rfl State.writeCpl_moves)
    exact Moves.refl

theorem State.letErrsEnd_moves {s : State} :
    Moves 0x1000000000000000000000000000000000000000000000000000000000000000000002800 s (State.letErrsEnd s) := by
  unfold State.letErrsEnd
  split
  · refine Moves.ite ?_ ?_
    · refine Moves.trans ?_ (Moves.mono (k := 0x1000000000000000000000000000000000000000000000000000000000000000000002800) rfl State.endHead_moves)
      exact Moves.refl
    · exact Moves.refl
  · exact Moves.refl

theorem State.letTell_moves {s : State} {a0 : Nat} {a1 : List (Nat × Nat)} :
    Moves 0x52001000000000000000000000000000000000000000000000000000000000300020043cc7ec0 s (State.letTell s a0 a1) := by
  unfold State.letTell
  extract_lets -underBinder -merge -useContext v0 v1 v2 v3 v4
  have h5 : Moves 0x52001000000000000000000000000000000000000000000000000000000000300020043cc7ec0 s v0.1 := by
    unfold v0
    refine Moves.trans ?_ (Moves.mono (k := 0x52001000000000000000000000000000000000000000000000000000000000300020043cc7ec0) rfl State.journalEnd_moves)
    exact Moves.refl
  try clear_value v0
  have h6 : Moves 0x52001000000000000000000000000000000000000000000000000000000000300020043cc7ec0 s v1 := by
    unfold v1
    refine Moves.trans ?_ (Moves.mono (k := 0x1000000000000000000000000000000000000000000000000000000000000000000000c00) rfl State.deliverHeld_moves)
    refine Moves.trans ?_ (Moves.mono (k := 0x1000000000000000000000000000000000000000000000000000000000000000000000c00) rfl State.deliver_moves)
    exact h5
  try clear_value v1
  have h7 : Moves 0x52001000000000000000000000000000000000000000000000000000000000300020043cc7ec0 s v2 := by
    unfold v2
    refine Moves.trans ?_ (Moves.mono (k := 0x4000) rfl State.handOff_moves)
    exact h6
  try clear_value v2
  have h8 : Moves 0x52001000000000000000000000000000000000000000000000000000000000300020043cc7ec0 s v3 := by
    unfold v3
    refine Moves.trans ?_ (Moves.mono (k := 0x1000000000000000000000000000000000000000000000000000000000000000000000c00) rfl State.deliver_moves)
    exact h7
  try clear_value v3
  refine Moves.moKeep ?_ rfl rfl rfl rfl rfl
  exact h8

theorem State.letOpen_moves {s : State} :
    Moves 0x1000000000000000000000000000000000000000000000000000000000000000000004c00 s (State.letOpen s) := by
  unfold State.letOpen
  extract_lets -underBinder -merge -useContext v0 v1
  have h2 : Moves 0x1000000000000000000000000000000000000000000000000000000000000000000004c00 s v0 := by
    unfold v0
    refine Moves.trans ?_ (Moves.mono (k := 0x1000000000000000000000000000000000000000000000000000000000000000000000800) rfl State.flushPending_moves)
    refine Moves.trans ?_ (Moves.mono (k := 0x1000000000000000000000000000000000000000000000000000000000000000000000400) rfl State.applyLatched_moves)
    exact Moves.refl
  try clear_value v0
  have h3 : Moves 0x1000000000000000000000000000000000000000000000000000000000000000000004c00 s v1 := by
    unfold v1
    refine Moves.ite ?_ ?_
    · refine Moves.trans ?_ (Moves.mono (k := 0x1000000000000000000000000000000000000000000000000000000000000000000000800) rfl State.raiseVector_moves)
      exact h2
    · exact h2
  try clear_value v1
  refine Moves.trans ?_ (Moves.mono (k := 0x4000) rfl State.evLetEnd_moves)
  exact h3

theorem State.letFinish_moves {s : State} {a0 : List (Nat × Nat)} :
    Moves 0x53001000000000000000000000000000000000000000000000000010001020300020047cd7ec0 s (State.letFinish s a0) := by
  unfold State.letFinish
  extract_lets -underBinder -merge -useContext v0 v1 v2
  have h3 : Moves 0x53001000000000000000000000000000000000000000000000000010001020300020047cd7ec0 s v0 := by
    unfold v0
    refine Moves.trans ?_ (Moves.mono (k := 0x52001000000000000000000000000000000000000000000000000000000000300020043cc7ec0) rfl State.letTell_moves)
    refine Moves.trans ?_ (Moves.mono (k := 0x1000000000000000000) rfl State.letOver_moves)
    exact Moves.refl
  try clear_value v0
  have h4 : Moves 0x53001000000000000000000000000000000000000000000000000010001020300020047cd7ec0 s v2 := by
    unfold v2
    refine Moves.moKeep ?_ rfl rfl rfl rfl rfl
    exact h3
  try clear_value v2
  refine Moves.trans ?_ (Moves.mono (k := 0x1000000000000000000000000000000000000000000000000000000000000000000004c00) rfl State.letOpen_moves)
  refine Moves.trans ?_ (Moves.mono (k := 0x1000000000000000000000000000000000000000000000000000000000000000000002800) rfl State.letErrsEnd_moves)
  refine Moves.trans ?_ (Moves.mono (k := 0x11001000000000000000000000000000000000000000000000000010000020300000006cd7c80) rfl State.setMode_moves)
  exact h4

theorem State.letRestore_moves {s : State} :
    Moves 0x1000000000000000000000000000000000000000000000000000000010000000011006c80 s (State.letRestore s) := by
  unfold State.letRestore
  extract_lets -underBinder -merge -useContext v0 v1 v2 v3 v4
  try clear_value v0
  try clear_value v2
  try clear_value v3
  have h5 : Moves 0x1000000000000000000000000000000000000000000000000000000010000000011006c80 s v4 := by
    unfold v4
    refine Moves.upd (x := s) ?_ (fun p hp => by cases p <;> first | rfl | exact ⟨rfl, rfl⟩ | exact ⟨rfl, rfl, rfl⟩ | exact ⟨rfl, rfl, rfl, rfl⟩ | exact fun _ => List.prefix_rfl | exact List.prefix_rfl | exact fun _ h _ => h | exact fun _ _ => rfl | exact absurd hp (by decide)) rfl rfl rfl rfl rfl
    exact Moves.refl
  try clear_value v4
  refine Moves.ite ?_ ?_
  · refine Moves.trans ?_ (Moves.mono (k := 0x6000) rfl State.raiseErr_moves)
    exact Moves.refl
  · refine Moves.trans ?_ (Moves.mono (k := 0x1000000000000000000000000000000000000000000000000000000000000000000006c00) rfl State.notify_moves)
    refine Moves.trans ?_ (Moves.mono (k := 0x10000000000000000) rfl State.lgShow_moves)
    refine Moves.trans ?_ (Moves.mono (k := 0x10000000010004000) rfl State.lgResumed_moves)
    exact h5

theorem State.letTwo_moves {s : State} :
    Moves 0x10001000000000000000000000000000000000000000000000000000000010000000011006c80 s (State.letTwo s) := by
  unfold State.letTwo
  extract_lets -underBinder -merge -useContext v0 v1
  have h2 : Moves 0x10001000000000000000000000000000000000000000000000000000000010000000011006c80 s v0 := by
    unfold v0
    refine Moves.trans ?_ (Moves.mono (k := 0x1000000) rfl State.rpDiscard_moves)
    refine Moves.trans ?_ (Moves.mono (k := 0x10000000010000000) rfl State.dropCycles_moves)
    refine Moves.trans ?_ (Moves.mono (k := 0x10001000000000000000000000000000000000000000000000000000000010000000010006c00) rfl State.lgCancel_moves)
    exact Moves.refl
  try clear_value v0
  refine Moves.moKeep ?_ rfl rfl rfl rfl rfl
  exact h2

theorem State.letTrigger_moves {s : State} {a0 : Nat} :
    Moves 0x11001000000000000000000000000000000000000000000000000010801030300000017cffd80 s (State.letTrigger s a0) := by
  unfold State.letTrigger
  extract_lets -underBinder -merge -useContext v0 v1 v2 v3 v4
  have h5 : Moves 0x11001000000000000000000000000000000000000000000000000010801030300000017cffd80 s v0 := by
    unfold v0
    refine Moves.trans ?_ (Moves.mono (k := 0x4000) rfl State.handOff_moves)
    refine Moves.trans ?_ (Moves.mono (k := 0x1000000000000000000000000000000000000000000000000000000000000000000026d00) rfl State.evLetBegin_moves)
    refine Moves.trans ?_ (Moves.mono (k := 0x100000000000000000000000000000000000000000000000000080000000000000003ed00) rfl State.arPartial_moves)
    exact Moves.refl
  try clear_value v0
  have h6 : Moves 0x11001000000000000000000000000000000000000000000000000010801030300000017cffd80 s v1 := by
    unfold v1
    refine Moves.trans ?_ (Moves.mono (k := 0x11001000000000000000000000000000000000000000000000000010000020300000006cd7c80) rfl State.setMode_moves)
    exact h5
  try clear_value v1
  have h7 : Moves 0x11001000000000000000000000000000000000000000000000000010801030300000017cffd80 s v3 := by
    unfold v3
    refine Moves.moKeep ?_ rfl rfl rfl rfl rfl
    exact h6
  try clear_value v3
  have h8 : Moves 0x11001000000000000000000000000000000000000000000000000010801030300000017cffd80 s v4 := by
    unfold v4
    refine Moves.wrapInc ?_ rfl
    exact h7
  try clear_value v4
  refine Moves.ite ?_ ?_
  · refine Moves.trans ?_ (Moves.mono (k := 0x10001000000000000000000000000000000000000000000000000000000010000000011006c80) rfl State.letTwo_moves)
    exact h8
  · exact h8

theorem execCaptainFault_moves {s : State} :
    ResMoves 0x11001000000000000000000000000000000000000000000000000010801030300000017cffd80 s (execCaptainFault s) := by
  unfold execCaptainFault
  extract_lets -underBinder -merge -useContext v0 v1
  have h2 : Moves 0x11001000000000000000000000000000000000000000000000000010801030300000017cffd80 s v0 := by
    unfold v0
    refine Moves.trans ?_ (Moves.mono (k := 0x6000) rfl State.raiseErr_moves)
    exact Moves.refl
  try clear_value v0
  refine ResMoves.ite ?_ ?_
  · refine ResMoves.ite ?_ ?_
    · refine ResMoves.next ?_
      refine Moves.trans ?_ (Moves.mono (k := 0x10001000000000000000000000000000000000000000000000000000000010000000011006c80) rfl State.letTwo_moves)
      refine Moves.trans ?_ (Moves.mono (k := 0x6000) rfl State.raiseErr_moves)
      exact Moves.refl
    · refine ResMoves.next ?_
      refine Moves.trans ?_ (Moves.mono (k := 0x6000) rfl State.raiseErr_moves)
      exact Moves.refl
  · refine ResMoves.ite ?_ ?_
    · refine ResMoves.next ?_
      refine Moves.trans ?_ (Moves.mono (k := 0x6000) rfl State.raiseErr_moves)
      exact Moves.refl
    · refine ResMoves.ite ?_ ?_
      · refine ResMoves.next ?_
        exact Moves.refl
      · refine ResMoves.ite ?_ ?_
        · refine ResMoves.next ?_
          refine Moves.trans ?_ (Moves.mono (k := 0x11001000000000000000000000000000000000000000000000000010801030300000017cffd80) rfl State.letTrigger_moves)
          refine Moves.trans ?_ (Moves.mono (k := 0x6000) rfl State.raiseErr_moves)
          exact Moves.refl
        · refine ResMoves.next ?_
          refine Moves.moKeep ?_ rfl rfl rfl rfl rfl
          exact h2

theorem execCaptainRestartDone_moves {s : State} :
    ResMoves 0x52001000000000000000000000000000000000000000000000000000000000300020043cc7ec0 s (execCaptainRestartDone s) := by
  unfold execCaptainRestartDone
  extract_lets -underBinder -merge -useContext v0
  try clear_value v0
  refine ResMoves.ite ?_ ?_
  · refine ResMoves.next ?_
    exact Moves.refl
  · split
    · extract_lets -underBinder -merge -useContext v1 v2
      have h3 : Moves 0x52001000000000000000000000000000000000000000000000000000000000300020043cc7ec0 s v1 := by
        unfold v1
        refine Moves.trans ?_ (Moves.mono (k := 0x52001000000000000000000000000000000000000000000000000000000000300020043cc7ec0) rfl State.journalEnd_moves)
        exact Moves.refl
      try clear_value v1
      refine ResMoves.next ?_
      refine Moves.trans ?_ (Moves.mono (k := 0x1000000000000000000000000000000000000000000000000000000000000000000000c00) rfl State.deliverHeld_moves)
      refine Moves.moKeep ?_ rfl rfl rfl rfl rfl
      exact h3
    · extract_lets -underBinder -merge -useContext v4 v5
      have h6 : Moves 0x52001000000000000000000000000000000000000000000000000000000000300020043cc7ec0 s v4 := by
        unfold v4
        refine Moves.trans ?_ (Moves.mono (k := 0x52001000000000000000000000000000000000000000000000000000000000300020043cc7ec0) rfl State.journalEnd_moves)
        exact Moves.refl
      try clear_value v4
      refine ResMoves.next ?_
      refine Moves.trans ?_ (Moves.mono (k := 0x1000000000000000000000000000000000000000000000000000000000000000000000c00) rfl State.deliverHeld_moves)
      refine Moves.moKeep ?_ rfl rfl rfl rfl rfl
      exact h6
    · extract_lets -underBinder -merge -useContext v7 v8
      have h9 : Moves 0x52001000000000000000000000000000000000000000000000000000000000300020043cc7ec0 s v7 := by
        unfold v7
        refine Moves.trans ?_ (Moves.mono (k := 0x52001000000000000000000000000000000000000000000000000000000000300020043cc7ec0) rfl State.journalEnd_moves)
        exact Moves.refl
      try clear_value v7
      refine ResMoves.next ?_
      refine Moves.trans ?_ (Moves.mono (k := 0x1000000000000000000000000000000000000000000000000000000000000000000000c00) rfl State.deliverHeld_moves)
      refine Moves.moKeep ?_ rfl rfl rfl rfl rfl
      exact h9
    · extract_lets -underBinder -merge -useContext v10 v11
      have h12 : Moves 0x52001000000000000000000000000000000000000000000000000000000000300020043cc7ec0 s v10 := by
        unfold v10
        refine Moves.trans ?_ (Moves.mono (k := 0x52001000000000000000000000000000000000000000000000000000000000300020043cc7ec0) rfl State.journalEnd_moves)
        exact Moves.refl
      try clear_value v10
      refine ResMoves.next ?_
      refine Moves.trans ?_ (Moves.mono (k := 0x1000000000000000000000000000000000000000000000000000000000000000000000c00) rfl State.deliverHeld_moves)
      refine Moves.moKeep ?_ rfl rfl rfl rfl rfl
      exact h12
    · extract_lets -underBinder -merge -useContext v13 v14
      have h15 : Moves 0x52001000000000000000000000000000000000000000000000000000000000300020043cc7ec0 s v13 := by
        unfold v13
        refine Moves.trans ?_ (Moves.mono (k := 0x52001000000000000000000000000000000000000000000000000000000000300020043cc7ec0) rfl State.journalEnd_moves)
        exact Moves.refl
      try clear_value v13
      refine ResMoves.next ?_
      refine Moves.trans ?_ (Moves.mono (k := 0x1000000000000000000000000000000000000000000000000000000000000000000000c00) rfl State.deliverHeld_moves)
      refine Moves.moKeep ?_ rfl rfl rfl rfl rfl
      exact h15
    · refine ResMoves.next ?_
      exact Moves.refl

theorem execLetBoundExceeded_moves {s : State} :
    ResMoves 0x1100100000000000000000000000000000000000000000000000001000103030000003fdffc80 s (execLetBoundExceeded s) := by
  unfold execLetBoundExceeded
  extract_lets -underBinder -merge -useContext v0
  try clear_value v0
  refine ResMoves.ite ?_ ?_
  · refine ResMoves.next ?_
    refine Moves.trans ?_ (Moves.mono (k := 0x6000) rfl State.raiseErr_moves)
    refine Moves.trans ?_ (Moves.mono (k := 0x1100100000000000000000000000000000000000000000000000001000103030000003fdffc80) rfl State.enterSafe_moves)
    exact Moves.refl
  · refine ResMoves.next ?_
    exact Moves.refl

theorem execLetEnd_moves {a0 : Bool} {a1 : List (Nat × Nat)} {s : State} :
    ResMoves 0x53001000000000000000000000000000000000000000000000000010001030300020057cd7ec0 s (execLetEnd a0 a1 s) := by
  unfold execLetEnd
  extract_lets -underBinder -merge -useContext v0 v1
  try clear_value v0
  have h2 : Moves 0x53001000000000000000000000000000000000000000000000000010001030300020057cd7ec0 s v1 := by
    unfold v1
    refine Moves.ite ?_ ?_
    · refine Moves.trans ?_ (Moves.mono (k := 0x1000000000000000000000000000000000000000000000000000000010000000011006c80) rfl State.letRestore_moves)
      exact Moves.refl
    · exact Moves.refl
  try clear_value v1
  refine ResMoves.ite ?_ ?_
  · refine ResMoves.next ?_
    refine Moves.trans ?_ (Moves.mono (k := 0x1000000000000000000000000000000000000000000000000000000000000000000004c00) rfl State.letOpen_moves)
    refine Moves.trans ?_ (Moves.mono (k := 0x52001000000000000000000000000000000000000000000000000000000000300020043cc7ec0) rfl State.letTell_moves)
    exact Moves.refl
  · refine ResMoves.ite ?_ ?_
    · refine ResMoves.next ?_
      exact Moves.refl
    · refine ResMoves.ite ?_ ?_
      · refine ResMoves.next ?_
        exact h2
      · refine ResMoves.ite ?_ ?_
        · refine ResMoves.next ?_
          exact h2
        · refine ResMoves.next ?_
          refine Moves.trans ?_ (Moves.mono (k := 0x53001000000000000000000000000000000000000000000000000010001020300020047cd7ec0) rfl State.letFinish_moves)
          exact h2

theorem execLetL1Trigger_moves {s : State} :
    ResMoves 0x11001000000000000000000000000000000000000000000000000010801030300000017cffd80 s (execLetL1Trigger s) := by
  unfold execLetL1Trigger
  refine ResMoves.ite ?_ ?_
  · refine ResMoves.next ?_
    refine Moves.trans ?_ (Moves.mono (k := 0x11001000000000000000000000000000000000000000000000000010801030300000017cffd80) rfl State.letTrigger_moves)
    exact Moves.refl
  · refine ResMoves.next ?_
    exact Moves.refl

theorem execLetL2Trigger_moves {a0 : Nat} {s : State} :
    ResMoves 0x11001000000000000000000000000000000000000000000000000010801030300000017cffd80 s (execLetL2Trigger a0 s) := by
  unfold execLetL2Trigger
  extract_lets -underBinder -merge -useContext v0
  have h1 : Moves 0x11001000000000000000000000000000000000000000000000000010801030300000017cffd80 s v0 := by
    unfold v0
    refine Moves.trans ?_ (Moves.mono (k := 0x6000) rfl State.raiseErr_moves)
    exact Moves.refl
  try clear_value v0
  refine ResMoves.ite ?_ ?_
  · refine ResMoves.next ?_
    exact Moves.refl
  · refine ResMoves.ite ?_ ?_
    · refine ResMoves.next ?_
      refine Moves.trans ?_ (Moves.mono (k := 0x11001000000000000000000000000000000000000000000000000010801030300000017cffd80) rfl State.letTrigger_moves)
      exact h1
    · refine ResMoves.ite ?_ ?_
      · refine ResMoves.next ?_
        refine Moves.trans ?_ (Moves.mono (k := 0x10001000000000000000000000000000000000000000000000000000000010000000011006c80) rfl State.letTwo_moves)
        exact h1
      · refine ResMoves.next ?_
        exact h1

theorem execLetRequest_moves {a0 : Nat} {a1 : Nat} {s : State} :
    ResMoves 0x11001000000000000000000000000000000000000000000000000010801030300000017cffd80 s (execLetRequest a0 a1 s) := by
  unfold execLetRequest
  refine ResMoves.trans ?_ (State.runCmd_moves rfl (fun st0 c1 => ?_))
  · exact Moves.refl
  · refine Moves.trans ?_ (Moves.mono (k := 0x11001000000000000000000000000000000000000000000000000010801030300000017cffd80) rfl State.letTrigger_moves)
    refine Moves.trans ?_ (Moves.mono (k := 0x10000000000000000000000000000000000000000000000000000000000000000000000000400) rfl State.done_moves)
    exact Moves.refl

end Sys2Proof.Machine
end

