-- ==== Sys2Proof/Laws/FrameScoreboard.lean ====
section
/-! SUPPORT. What every definition of Machine/Scoreboard.lean may change (masks over `Part.bit`), one lemma each. -/

namespace Sys2Proof.Machine

open Sys2Proof

theorem State.keepScoreboard_moves {s : State} :
    Moves 0x1000 s (State.keepScoreboard s) := by
  unfold State.keepScoreboard
  extract_lets -underBinder -merge -useContext v0 v1 v2
  try clear_value v1
  try clear_value v2
  refine Moves.sb ?_ rfl
  exact Moves.refl

end Sys2Proof.Machine
end

