-- ==== Sys2Proof/Laws/FrameSentinel.lean ====
section
/-! SUPPORT. What every definition of Machine/Sentinel.lean may change (masks over `Part.bit`), one lemma each. -/

namespace Sys2Proof.Machine

open Sys2Proof

theorem State.wakeCause_moves {s : State} {a0 : Sys2Proof.Machine.WakeSrc} :
    Moves 0x200000000 s (State.wakeCause s a0) := by
  unfold State.wakeCause
  refine Moves.wr ?_ rfl
  exact Moves.refl

theorem State.sentResume_moves {s : State} {a0 : Option Bool} :
    Moves 0x10000000031404080 s (State.sentResume s a0) := by
  unfold State.sentResume
  extract_lets -underBinder -merge -useContext v0 v1 v2 v3
  have h4 : Moves 0x10000000031404080 s v0 := by
    unfold v0
    refine Moves.trans ?_ (Moves.mono (k := 0x21400080) rfl State.controlOn_moves)
    exact Moves.refl
  try clear_value v0
  try clear_value v1
  have h5 : Moves 0x10000000031404080 s v2 := by
    unfold v2
    refine Moves.cs ?_ rfl
    exact h4
  try clear_value v2
  try clear_value v3
  refine Moves.trans ?_ (Moves.mono (k := 0x10000000000000000) rfl State.lgShow_moves)
  refine Moves.trans ?_ (Moves.mono (k := 0x10000000010004000) rfl State.lgResumed_moves)
  refine Moves.lg ?_ rfl
  exact h5

theorem State.serviceBack_moves {s : State} :
    Moves 0x1000000000000000000000000000000000000000000000000000000000000000000000c00 s (State.serviceBack s) := by
  unfold State.serviceBack
  refine Moves.trans ?_ (Moves.mono (k := 0x1000000000000000000000000000000000000000000000000000000000000000000000800) rfl State.flushPending_moves)
  refine Moves.trans ?_ (Moves.mono (k := 0x1000000000000000000000000000000000000000000000000000000000000000000000400) rfl State.applyLatched_moves)
  refine Moves.trans ?_ (Moves.mono (k := 0x1000000000000000000000000000000000000000000000000000000000000000000000c00) rfl State.deliverHeld_moves)
  exact Moves.refl

theorem State.sentCancel_moves {s : State} :
    Moves 0x1100100000000000000000000000000000000000000000000000001000103030000007fdffca0 s (State.sentCancel s) := by
  unfold State.sentCancel
  split
  · extract_lets -underBinder -merge -useContext v0 v1 v2 v3 v4
    try clear_value v0
    have h5 : Moves 0x1100100000000000000000000000000000000000000000000000001000103030000007fdffca0 s v1 := by
      unfold v1
      refine Moves.ite ?_ ?_
      · exact Moves.refl
      · split
        · extract_lets -underBinder -merge -useContext v6
          try clear_value v6
          refine Moves.trans ?_ (Moves.mono (k := 0x20000000) rfl State.setSlot_moves)
          refine Moves.cs ?_ rfl
          exact Moves.refl
        · exact Moves.refl
    try clear_value v1
    have h7 : Moves 0x1100100000000000000000000000000000000000000000000000001000103030000007fdffca0 s v2 := by
      unfold v2
      refine Moves.trans ?_ (Moves.mono (k := 0x11001000000000000000000000000000000000000000000000000010000020300000006cd7c80) rfl State.setMode_moves)
      refine Moves.trans ?_ (Moves.mono (k := 0x281e8080) rfl State.sentUndo_moves)
      exact h5
    try clear_value v2
    have h8 : Moves 0x1100100000000000000000000000000000000000000000000000001000103030000007fdffca0 s v3 := by
      unfold v3
      refine Moves.ite ?_ ?_
      · refine Moves.trans ?_ (Moves.mono (k := 0x40000000) rfl State.sendTopo_moves)
        exact h7
      · exact h7
    try clear_value v3
    have h9 : Moves 0x1100100000000000000000000000000000000000000000000000001000103030000007fdffca0 s v4 := by
      unfold v4
      refine Moves.ite ?_ ?_
      · refine Moves.trans ?_ (Moves.mono (k := 0x10001000000000000000000000000000000000000000000000000010001010300000037c17ca0) rfl State.pfResume_moves)
        exact h8
      · refine Moves.ite ?_ ?_
        · refine Moves.trans ?_ (Moves.mono (k := 0x10000000031404080) rfl State.sentResume_moves)
          exact h8
        · exact h8
    try clear_value v4
    refine Moves.trans ?_ (Moves.mono (k := 0x1000000000000000000000000000000000000000000000000000000000000000000000c00) rfl State.serviceBack_moves)
    exact h9
  · exact Moves.refl

theorem State.wakeBy_moves {s : State} {a0 : Sys2Proof.Machine.WakeSrc} :
    Moves 0x1100100000000000000000000000000000000000000000000000001000103030000027fdffca0 s (State.wakeBy s a0) := by
  unfold State.wakeBy
  extract_lets -underBinder -merge -useContext v0
  have h1 : Moves 0x1100100000000000000000000000000000000000000000000000001000103030000027fdffca0 s v0 := by
    unfold v0
    refine Moves.trans ?_ (Moves.mono (k := 0x200000000) rfl State.wakeCause_moves)
    exact Moves.refl
  try clear_value v0
  refine Moves.ite ?_ ?_
  · exact Moves.refl
  · split
    · refine Moves.ite ?_ ?_
      · exact h1
      · refine Moves.trans ?_ (Moves.mono (k := 0x1100100000000000000000000000000000000000000000000000001000103030000007fdffca0) rfl State.sentCancel_moves)
        exact h1
    · extract_lets -underBinder -merge -useContext v2
      refine Moves.moKeep ?_ rfl rfl rfl rfl rfl
      exact h1
    · exact h1

theorem State.diWake_moves {a0 : State} {s : State} :
    Moves 0x1100100000000000000000000000000000000000000000000000001000103030000027fdffca0 s (State.diWake a0 s) := by
  unfold State.diWake
  extract_lets -underBinder -merge -useContext v0
  try clear_value v0
  refine Moves.ite ?_ ?_
  · refine Moves.trans ?_ (Moves.mono (k := 0x1100100000000000000000000000000000000000000000000000001000103030000027fdffca0) rfl State.wakeBy_moves)
    exact Moves.refl
  · exact Moves.refl

theorem State.evFlush_moves {s : State} :
    Moves 0x4001000000000000000000000000000000000000000000000000000000000000000000026d00 s (State.evFlush s) := by
  unfold State.evFlush
  extract_lets -underBinder -merge -useContext v0
  refine Moves.ite ?_ ?_
  · exact Moves.refl
  · refine Moves.foldl ?_ (fun st1 a2 => ?_)
    · refine Moves.ev ?_ rfl rfl (by first | exact fun h => mset_ok h | exact fun h => filter_ok h | exact fun _ => rfl)
      exact Moves.refl
    · refine Moves.trans ?_ (Moves.mono (k := 0x1000000000000000000000000000000000000000000000000000000000000000000026d00) rfl State.evWrite_moves)
      exact Moves.refl

theorem State.fieldWake_moves {a0 : State} {s : State} :
    Moves 0x1100100000000000000000000000000000000000000000000000001000103030000027fdffca0 s (State.fieldWake a0 s) := by
  unfold State.fieldWake
  refine Moves.ite ?_ ?_
  · refine Moves.trans ?_ (Moves.mono (k := 0x1100100000000000000000000000000000000000000000000000001000103030000027fdffca0) rfl State.wakeBy_moves)
    exact Moves.refl
  · exact Moves.refl

theorem State.lanesOff_moves {s : State} :
    Moves 0x100000000000000000000000000000000000000000000000b000000000000000040006f00 s (State.lanesOff s) := by
  unfold State.lanesOff
  extract_lets -underBinder -merge -useContext v0
  have h1 : Moves 0x100000000000000000000000000000000000000000000000b000000000000000040006f00 s v0 := by
    unfold v0
    refine Moves.foldl ?_ (fun st2 a3 => ?_)
    · exact Moves.refl
    · refine Moves.trans ?_ (Moves.mono (k := 0x1000000000000000040000000) rfl State.laneDown_moves)
      exact Moves.refl
  try clear_value v0
  refine Moves.foldl ?_ (fun st4 a5 => ?_)
  · exact h1
  · extract_lets -underBinder -merge -useContext v6 v7 v8
    try clear_value v6
    try clear_value v7
    try clear_value v8
    refine Moves.trans ?_ (Moves.mono (k := 0x1000000000000000000000000000000000000000000000008000000000000000000006f00) rfl State.tuPortDown_moves)
    refine Moves.putWord ?_ rfl
    refine Moves.trans ?_ (Moves.mono (k := 0x40000000) rfl State.setPort_moves)
    exact Moves.refl

theorem State.pfLetTwo_moves {s : State} :
    Moves 0x10000000000000000000000000000000000000000000000000000010000000300000037c11480 s (State.pfLetTwo s) := by
  unfold State.pfLetTwo
  extract_lets -underBinder -merge -useContext v0 v1 v2
  have h3 : Moves 0x10000000000000000000000000000000000000000000000000000010000000300000037c11480 s v0 := by
    unfold v0
    refine Moves.trans ?_ (Moves.mono (k := 0x21400080) rfl State.controlOn_moves)
    refine Moves.trans ?_ (Moves.mono (k := 0x10000000000000000000000000000000000000000000000000000000000000200000002000400) rfl State.axesBack_moves)
    refine Moves.trans ?_ (Moves.mono (k := 0x100000002000000) rfl State.loopsBack_moves)
    refine Moves.trans ?_ (Moves.mono (k := 0x10000000000000004c11000) rfl State.clearForces_moves)
    exact Moves.refl
  try clear_value v0
  try clear_value v1
  try clear_value v2
  refine Moves.upd (x := v0) ?_ (fun p hp => by cases p <;> first | rfl | exact ⟨rfl, rfl⟩ | exact ⟨rfl, rfl, rfl⟩ | exact ⟨rfl, rfl, rfl, rfl⟩ | exact fun _ => List.prefix_rfl | exact List.prefix_rfl | exact fun _ h _ => h | exact fun _ _ => rfl | exact absurd hp (by decide)) rfl rfl rfl rfl rfl
  exact h3

theorem State.protFault_moves {s : State} :
    Moves 0x6080 s (State.protFault s) := by
  unfold State.protFault
  extract_lets -underBinder -merge -useContext v0
  refine Moves.trans ?_ (Moves.mono (k := 0x6000) rfl State.raiseErr_moves)
  refine Moves.moKeep ?_ rfl rfl rfl rfl rfl
  exact Moves.refl

theorem State.sentFive_moves {s : State} :
    Moves 0x4000000010000001100a0 s (State.sentFive s) := by
  unfold State.sentFive
  extract_lets -underBinder -merge -useContext v0 v1
  have h2 : Moves 0x4000000010000001100a0 s v0 := by
    unfold v0
    refine Moves.trans ?_ (Moves.mono (k := 0x1000000100000) rfl State.peSleep_moves)
    refine Moves.trans ?_ (Moves.mono (k := 0x400000000000000010020) rfl State.drSleep_moves)
    exact Moves.refl
  try clear_value v0
  refine Moves.moKeep ?_ rfl rfl rfl rfl rfl
  exact h2

theorem State.sentFour_moves {s : State} :
    Moves 0x400100000000000000000000000000000000000000000000000000080000000000000003ed80 s (State.sentFour s) := by
  unfold State.sentFour
  extract_lets -underBinder -merge -useContext v0 v1 v2
  have h3 : Moves 0x400100000000000000000000000000000000000000000000000000080000000000000003ed80 s v0 := by
    unfold v0
    refine Moves.trans ?_ (Moves.mono (k := 0x100000000000000000000000000000000000000000000000000080000000000000003ed00) rfl State.arPartial_moves)
    refine Moves.trans ?_ (Moves.mono (k := 0x4001000000000000000000000000000000000000000000000000000000000000000000026d00) rfl State.evFlush_moves)
    exact Moves.refl
  try clear_value v0
  try clear_value v2
  refine Moves.upd (x := v0) ?_ (fun p hp => by cases p <;> first | rfl | exact ⟨rfl, rfl⟩ | exact ⟨rfl, rfl, rfl⟩ | exact ⟨rfl, rfl, rfl, rfl⟩ | exact fun _ => List.prefix_rfl | exact List.prefix_rfl | exact fun _ h _ => h | exact fun _ _ => rfl | exact absurd hp (by decide)) rfl rfl rfl rfl rfl
  exact h3

theorem State.sentOne_moves {s : State} :
    Moves 0x300000012429080 s (State.sentOne s) := by
  unfold State.sentOne
  extract_lets -underBinder -merge -useContext v0 v1 v2
  have h3 : Moves 0x300000012429080 s v0 := by
    unfold v0
    refine Moves.trans ?_ (Moves.mono (k := 0x28000) rfl State.chSleep_moves)
    refine Moves.trans ?_ (Moves.mono (k := 0x300000002401000) rfl State.landSamples_moves)
    exact Moves.refl
  try clear_value v0
  try clear_value v2
  refine Moves.upd (x := v0) ?_ (fun p hp => by cases p <;> first | rfl | exact ⟨rfl, rfl⟩ | exact ⟨rfl, rfl, rfl⟩ | exact ⟨rfl, rfl, rfl, rfl⟩ | exact fun _ => List.prefix_rfl | exact List.prefix_rfl | exact fun _ h _ => h | exact fun _ _ => rfl | exact absurd hp (by decide)) rfl rfl rfl rfl rfl
  exact h3

theorem State.sentSix_moves {s : State} :
    Moves 0x100000000000000000000000000000000000000000000000b000000000000000040007f80 s (State.sentSix s) := by
  unfold State.sentSix
  extract_lets -underBinder -merge -useContext v0 v1 v2 v3 v4
  have h5 : Moves 0x100000000000000000000000000000000000000000000000b000000000000000040007f80 s v0 := by
    unfold v0
    refine Moves.trans ?_ (Moves.mono (k := 0x100000000000000000000000000000000000000000000000b000000000000000040006f00) rfl State.lanesOff_moves)
    refine Moves.trans ?_ (Moves.mono (k := 0x1000) rfl State.keepScoreboard_moves)
    exact Moves.refl
  try clear_value v0
  try clear_value v1
  try clear_value v3
  try clear_value v4
  refine Moves.upd (x := v0) ?_ (fun p hp => by cases p <;> first | rfl | exact ⟨rfl, rfl⟩ | exact ⟨rfl, rfl, rfl⟩ | exact ⟨rfl, rfl, rfl, rfl⟩ | exact fun _ => List.prefix_rfl | exact List.prefix_rfl | exact fun _ h _ => h | exact fun _ _ => rfl | exact absurd hp (by decide)) rfl rfl rfl rfl rfl
  exact h5

theorem State.sentThree_moves {s : State} :
    Moves 0x100000000000000000000000000000000000000000000000203000000000000004c806c80 s (State.sentThree s) := by
  unfold State.sentThree
  extract_lets -underBinder -merge -useContext v0 v1
  have h2 : Moves 0x100000000000000000000000000000000000000000000000203000000000000004c806c80 s v0 := by
    unfold v0
    refine Moves.trans ?_ (Moves.mono (k := 0x40000000) rfl State.sendTopo_moves)
    refine Moves.trans ?_ (Moves.mono (k := 0x2000000000000000000000000) rfl State.stationsHold_moves)
    refine Moves.trans ?_ (Moves.mono (k := 0x10000000000000004000000) rfl State.fieldHold_moves)
    refine Moves.trans ?_ (Moves.mono (k := 0x100000000000000000000000000000000000000000000000003000000000000000c806c00) rfl State.sfSentinel_moves)
    exact Moves.refl
  try clear_value v0
  refine Moves.moKeep ?_ rfl rfl rfl rfl rfl
  exact h2

theorem State.sentTwo_moves {s : State} :
    Moves 0x10300000033401080 s (State.sentTwo s) := by
  unfold State.sentTwo
  extract_lets -underBinder -merge -useContext v0 v1
  have h2 : Moves 0x10300000033401080 s v0 := by
    unfold v0
    refine Moves.trans ?_ (Moves.mono (k := 0x20000000) rfl State.writeStart_moves)
    refine Moves.trans ?_ (Moves.mono (k := 0x10300000033401080) rfl State.takeCut_moves)
    exact Moves.refl
  try clear_value v0
  refine Moves.moKeep ?_ rfl rfl rfl rfl rfl
  exact h2

theorem State.timeBack_moves {s : State} :
    Moves 0x10000200 s (State.timeBack s) := by
  unfold State.timeBack
  extract_lets -underBinder -merge -useContext v0 v1 v2 v3
  try clear_value v0
  try clear_value v1
  try clear_value v2
  try clear_value v3
  refine Moves.upd (x := s) ?_ (fun p hp => by cases p <;> first | rfl | exact ⟨rfl, rfl⟩ | exact ⟨rfl, rfl, rfl⟩ | exact ⟨rfl, rfl, rfl, rfl⟩ | exact fun _ => List.prefix_rfl | exact List.prefix_rfl | exact fun _ h _ => h | exact fun _ _ => rfl | exact absurd hp (by decide)) rfl rfl rfl rfl rfl
  exact Moves.refl

theorem State.wakeFail_moves {s : State} :
    Moves 0x11001000000000000000000000000000000000000000000000000010000020300000006cf7d80 s (State.wakeFail s) := by
  unfold State.wakeFail
  extract_lets -underBinder -merge -useContext v0 v1 v2 v3 v4 v5 v6
  have h7 : Moves 0x11001000000000000000000000000000000000000000000000000010000020300000006cf7d80 s v0 := by
    unfold v0
    refine Moves.trans ?_ (Moves.mono (k := 0x1000000000000000000000000000000000000000000000000010000000000000004006c00) rfl State.fdDrive_moves)
    refine Moves.wr ?_ rfl
    exact Moves.refl
  try clear_value v0
  try clear_value v2
  have h8 : Moves 0x11001000000000000000000000000000000000000000000000000010000020300000006cf7d80 s v3 := by
    unfold v3
    refine Moves.upd (x := v0) ?_ (fun p hp => by cases p <;> first | rfl | exact ⟨rfl, rfl⟩ | exact ⟨rfl, rfl, rfl⟩ | exact ⟨rfl, rfl, rfl, rfl⟩ | exact fun _ => List.prefix_rfl | exact List.prefix_rfl | exact fun _ h _ => h | exact fun _ _ => rfl | exact absurd hp (by decide)) rfl rfl rfl rfl rfl
    exact h7
  try clear_value v3
  have h9 : Moves 0x11001000000000000000000000000000000000000000000000000010000020300000006cf7d80 s v4 := by
    unfold v4
    refine Moves.trans ?_ (Moves.mono (k := 0x11001000000000000000000000000000000000000000000000000010000020300000006cd7c80) rfl State.setMode_moves)
    exact h8
  try clear_value v4
  have h10 : Moves 0x11001000000000000000000000000000000000000000000000000010000020300000006cf7d80 s v5 := by
    unfold v5
    refine Moves.trans ?_ (Moves.mono (k := 0x1000000000000000000000000000000000000000000000000000000000000000000006d00) rfl State.evLast_moves)
    refine Moves.trans ?_ (Moves.mono (k := 0x1000000000000000000000000000000000000000000000000000000000000000000026d00) rfl State.evLastResort_moves)
    exact h9
  try clear_value v5
  refine Moves.ecKeep ?_ rfl rfl
  exact h10

theorem execClockLoss_moves {s : State} :
    ResMoves 0x6080 s (execClockLoss s) := by
  unfold execClockLoss
  refine ResMoves.ite ?_ ?_
  · refine ResMoves.next ?_
    refine Moves.trans ?_ (Moves.mono (k := 0x6080) rfl State.protFault_moves)
    exact Moves.refl
  · refine ResMoves.next ?_
    exact Moves.refl

theorem execCrystalStop_moves {s : State} :
    ResMoves 0x6100 s (execCrystalStop s) := by
  unfold execCrystalStop
  extract_lets -underBinder -merge -useContext v0 v1 v2
  try clear_value v0
  have h3 : Moves 0x6100 s v1 := by
    unfold v1
    refine Moves.kp ?_ rfl
    exact Moves.refl
  try clear_value v1
  try clear_value v2
  refine ResMoves.ite ?_ ?_
  · refine ResMoves.next ?_
    exact Moves.refl
  · refine ResMoves.ite ?_ ?_
    · refine ResMoves.next ?_
      refine Moves.kp ?_ rfl
      exact h3
    · refine ResMoves.next ?_
      refine Moves.trans ?_ (Moves.mono (k := 0x6000) rfl State.raiseErr_moves)
      exact h3

theorem execDiSample_moves {a0 : List (Nat × Nat)} {s : State} :
    ResMoves 0x1100100000000000000000000000000000000000000000000000001000103030000027fdffca0 s (execDiSample a0 s) := by
  unfold execDiSample
  refine ResMoves.next ?_
  refine Moves.trans ?_ (Moves.mono (k := 0x1100100000000000000000000000000000000000000000000000001000103030000027fdffca0) rfl State.diWake_moves)
  refine nextOf_moves ?_
  refine ResMoves.trans ?_ (ResMoves.mono (k := 0x1000000000000000000000000000000000000000000000000010000000000000004016c20) rfl fieldSample_moves)
  exact Moves.refl

theorem execDoStep_moves {a0 : List (Nat × Nat × Bool)} {a1 : Nat} {a2 : Int} {s : State} :
    ResMoves 0x1100100000000000000000000000000000000000000000000000001000103030000027fdffca0 s (execDoStep a0 a1 a2 s) := by
  unfold execDoStep
  refine ResMoves.next ?_
  refine Moves.trans ?_ (Moves.mono (k := 0x1100100000000000000000000000000000000000000000000000001000103030000027fdffca0) rfl State.fieldWake_moves)
  refine nextOf_moves ?_
  refine ResMoves.trans ?_ (ResMoves.mono (k := 0x1000000000000000000000000000000000000000000000000010000000000000004006c00) rfl fieldStep_moves)
  exact Moves.refl

theorem execFldSupplyCrossing_moves {a0 : Nat} {s : State} :
    ResMoves 0x1100100000000000000000000000000000000000000000000000001000103030000027fdffca0 s (execFldSupplyCrossing a0 s) := by
  unfold execFldSupplyCrossing
  refine ResMoves.next ?_
  refine Moves.trans ?_ (Moves.mono (k := 0x1100100000000000000000000000000000000000000000000000001000103030000027fdffca0) rfl State.fieldWake_moves)
  refine nextOf_moves ?_
  refine ResMoves.trans ?_ (ResMoves.mono (k := 0x1000000000000000000000000000000000000000000000000010000000000000004006c00) rfl fieldCrossing_moves)
  exact Moves.refl

theorem execKeeperAlarmDue_moves {s : State} :
    ResMoves 0x1100100000000000000000000000000000000000000000000000001000103030000027fdffda0 s (execKeeperAlarmDue s) := by
  unfold execKeeperAlarmDue
  extract_lets -underBinder -merge -useContext v0 v1 v2
  try clear_value v0
  have h3 : Moves 0x1100100000000000000000000000000000000000000000000000001000103030000027fdffda0 s v1 := by
    unfold v1
    refine Moves.kp ?_ rfl
    exact Moves.refl
  try clear_value v1
  try clear_value v2
  refine ResMoves.ite ?_ ?_
  · refine ResMoves.ite ?_ ?_
    · refine ResMoves.next ?_
      refine Moves.trans ?_ (Moves.mono (k := 0x200000000) rfl State.wakeCause_moves)
      refine Moves.kp ?_ rfl
      exact h3
    · refine ResMoves.next ?_
      refine Moves.trans ?_ (Moves.mono (k := 0x1100100000000000000000000000000000000000000000000000001000103030000027fdffca0) rfl State.wakeBy_moves)
      exact h3
  · refine ResMoves.next ?_
    exact Moves.refl

theorem execOffStateCheck_moves {a0 : Nat} {a1 : Bool} {a2 : Bool} {s : State} :
    ResMoves 0x1100100000000000000000000000000000000000000000000000001000103030000027fdffca0 s (execOffStateCheck a0 a1 a2 s) := by
  unfold execOffStateCheck
  refine ResMoves.next ?_
  refine Moves.trans ?_ (Moves.mono (k := 0x1100100000000000000000000000000000000000000000000000001000103030000027fdffca0) rfl State.fieldWake_moves)
  refine nextOf_moves ?_
  refine ResMoves.trans ?_ (ResMoves.mono (k := 0x1000000000000000000000000000000000000000000000000010000000000000004006c00) rfl fieldOffState_moves)
  exact Moves.refl

theorem execOverloadSwitchOff_moves {a0 : Nat} {s : State} :
    ResMoves 0x1100100000000000000000000000000000000000000000000000001000103030000027fdffca0 s (execOverloadSwitchOff a0 s) := by
  unfold execOverloadSwitchOff
  refine ResMoves.next ?_
  refine Moves.trans ?_ (Moves.mono (k := 0x1100100000000000000000000000000000000000000000000000001000103030000027fdffca0) rfl State.fieldWake_moves)
  refine nextOf_moves ?_
  refine ResMoves.trans ?_ (ResMoves.mono (k := 0x1000000000000000000000000000000000000000000000000010000000000000004006c00) rfl fieldOverload_moves)
  exact Moves.refl

theorem execPowerReturn_moves {s : State} :
    ResMoves 0x1100100000000000000000000000000000000000000000000000001000103030000007fdffca0 s (execPowerReturn s) := by
  unfold execPowerReturn
  refine ResMoves.ite ?_ ?_
  · refine ResMoves.next ?_
    exact Moves.refl
  · split
    · extract_lets -underBinder -merge -useContext v0
      try clear_value v0
      refine ResMoves.next ?_
      refine Moves.trans ?_ (Moves.mono (k := 0x20020000) rfl State.pfOver_moves)
      refine Moves.cs ?_ rfl
      exact Moves.refl
    · extract_lets -underBinder -merge -useContext v1
      try clear_value v1
      refine ResMoves.next ?_
      refine Moves.trans ?_ (Moves.mono (k := 0x20020000) rfl State.pfOver_moves)
      refine Moves.cs ?_ rfl
      exact Moves.refl
    · extract_lets -underBinder -merge -useContext v2 v3 v4
      try clear_value v3
      try clear_value v4
      refine ResMoves.next ?_
      refine Moves.trans ?_ (Moves.mono (k := 0x20020000) rfl State.pfOver_moves)
      refine Moves.upd (x := s) ?_ (fun p hp => by cases p <;> first | rfl | exact ⟨rfl, rfl⟩ | exact ⟨rfl, rfl, rfl⟩ | exact ⟨rfl, rfl, rfl, rfl⟩ | exact fun _ => List.prefix_rfl | exact List.prefix_rfl | exact fun _ h _ => h | exact fun _ _ => rfl | exact absurd hp (by decide)) rfl rfl rfl rfl rfl
      exact Moves.refl
    · refine ResMoves.next ?_
      refine Moves.trans ?_ (Moves.mono (k := 0x20020000) rfl State.pfOver_moves)
      refine Moves.trans ?_ (Moves.mono (k := 0x10001000000000000000000000000000000000000000000000000010001010300000037c17ca0) rfl State.pfResume_moves)
      exact Moves.refl
    · refine ResMoves.next ?_
      refine Moves.trans ?_ (Moves.mono (k := 0x20020000) rfl State.pfOver_moves)
      refine Moves.trans ?_ (Moves.mono (k := 0x10001000000000000000000000000000000000000000000000000010001010300000037c17ca0) rfl State.pfResume_moves)
      exact Moves.refl
    · refine ResMoves.ite ?_ ?_
      · refine ResMoves.next ?_
        refine Moves.trans ?_ (Moves.mono (k := 0x20020000) rfl State.pfOver_moves)
        refine Moves.trans ?_ (Moves.mono (k := 0x10000000000000000000000000000000000000000000000000000010000000300000037c11480) rfl State.pfLetTwo_moves)
        exact Moves.refl
      · refine ResMoves.next ?_
        refine Moves.trans ?_ (Moves.mono (k := 0x20020000) rfl State.pfOver_moves)
        refine Moves.trans ?_ (Moves.mono (k := 0x10001000000000000000000000000000000000000000000000000010001010300000037c17ca0) rfl State.pfResume_moves)
        exact Moves.refl
    · refine ResMoves.ite ?_ ?_
      · refine ResMoves.next ?_
        refine Moves.trans ?_ (Moves.mono (k := 0x20020000) rfl State.pfOver_moves)
        refine Moves.trans ?_ (Moves.mono (k := 0x1100100000000000000000000000000000000000000000000000001000103030000007fdffca0) rfl State.sentCancel_moves)
        exact Moves.refl
      · refine ResMoves.next ?_
        refine Moves.trans ?_ (Moves.mono (k := 0x20020000) rfl State.pfOver_moves)
        exact Moves.refl
    · refine ResMoves.next ?_
      exact Moves.refl

theorem execProtectionWatchdogExpiry_moves {s : State} :
    ResMoves 0x6080 s (execProtectionWatchdogExpiry s) := by
  unfold execProtectionWatchdogExpiry
  refine ResMoves.ite ?_ ?_
  · refine ResMoves.next ?_
    refine Moves.trans ?_ (Moves.mono (k := 0x6080) rfl State.protFault_moves)
    exact Moves.refl
  · refine ResMoves.next ?_
    exact Moves.refl

theorem execSentinelEntryCancel_moves {a0 : Nat} {s : State} :
    ResMoves 0x1100100000000000000000000000000000000000000000000000001000103030000027fdffca0 s (execSentinelEntryCancel a0 s) := by
  unfold execSentinelEntryCancel
  split
  · refine ResMoves.ite ?_ ?_
    · refine ResMoves.next ?_
      refine Moves.trans ?_ (Moves.mono (k := 0x1100100000000000000000000000000000000000000000000000001000103030000027fdffca0) rfl State.wakeBy_moves)
      exact Moves.refl
    · refine ResMoves.next ?_
      exact Moves.refl
  · refine ResMoves.next ?_
    exact Moves.refl

theorem execSentinelEntryStep_moves {s : State} :
    ResMoves 0x400100000000000000000000000000000000000000000000000b030c0001030100007fd3ffa0 s (execSentinelEntryStep s) := by
  unfold execSentinelEntryStep
  refine ResMoves.ite ?_ ?_
  · refine ResMoves.next ?_
    exact Moves.refl
  · split
    · refine ResMoves.ite ?_ ?_
      · refine ResMoves.next ?_
        exact Moves.refl
      · refine ResMoves.next ?_
        refine Moves.trans ?_ (Moves.mono (k := 0x300000012429080) rfl State.sentOne_moves)
        exact Moves.refl
    · refine ResMoves.ite ?_ ?_
      · refine ResMoves.next ?_
        exact Moves.refl
      · refine ResMoves.next ?_
        refine Moves.trans ?_ (Moves.mono (k := 0x10300000033401080) rfl State.sentTwo_moves)
        exact Moves.refl
    · refine ResMoves.ite ?_ ?_
      · refine ResMoves.next ?_
        exact Moves.refl
      · refine ResMoves.next ?_
        refine Moves.trans ?_ (Moves.mono (k := 0x100000000000000000000000000000000000000000000000203000000000000004c806c80) rfl State.sentThree_moves)
        exact Moves.refl
    · refine ResMoves.ite ?_ ?_
      · refine ResMoves.next ?_
        refine Moves.trans ?_ (Moves.mono (k := 0x400100000000000000000000000000000000000000000000000000080000000000000003ed80) rfl State.sentFour_moves)
        exact Moves.refl
      · refine ResMoves.next ?_
        exact Moves.refl
    · refine ResMoves.next ?_
      refine Moves.trans ?_ (Moves.mono (k := 0x4000000010000001100a0) rfl State.sentFive_moves)
      exact Moves.refl
    · refine ResMoves.next ?_
      refine Moves.trans ?_ (Moves.mono (k := 0x100000000000000000000000000000000000000000000000b000000000000000040007f80) rfl State.sentSix_moves)
      exact Moves.refl
    · refine ResMoves.next ?_
      exact Moves.refl

theorem execThermalShutdown_moves {a0 : Nat} {a1 : Int} {s : State} :
    ResMoves 0x1100100000000000000000000000000000000000000000000000001000103030000027fdffca0 s (execThermalShutdown a0 a1 s) := by
  unfold execThermalShutdown
  refine ResMoves.next ?_
  refine Moves.trans ?_ (Moves.mono (k := 0x1100100000000000000000000000000000000000000000000000001000103030000027fdffca0) rfl State.fieldWake_moves)
  refine nextOf_moves ?_
  refine ResMoves.trans ?_ (ResMoves.mono (k := 0x1000000000000000000000000000000000000000000000000010000000000000004006c00) rfl fieldThermal_moves)
  exact Moves.refl

theorem execWakeControlRunning_moves {s : State} :
    ResMoves 0x11001000000000000000000000000000000000000000000000000010000030300000037cffc80 s (execWakeControlRunning s) := by
  unfold execWakeControlRunning
  split
  · extract_lets -underBinder -merge -useContext v0 v1 v2 v3
    have h4 : Moves 0x11001000000000000000000000000000000000000000000000000010000030300000037cffc80 s v1 := by
      unfold v1
      refine Moves.moKeep ?_ rfl rfl rfl rfl rfl
      exact Moves.refl
    try clear_value v1
    have h5 : Moves 0x11001000000000000000000000000000000000000000000000000010000030300000037cffc80 s v2 := by
      unfold v2
      refine Moves.trans ?_ (Moves.mono (k := 0x11001000000000000000000000000000000000000000000000000010000020300000006cd7c80) rfl State.setMode_moves)
      exact h4
    try clear_value v2
    have h6 : Moves 0x11001000000000000000000000000000000000000000000000000010000030300000037cffc80 s v3 := by
      unfold v3
      refine Moves.trans ?_ (Moves.mono (k := 0x10000000031404080) rfl State.sentResume_moves)
      refine Moves.trans ?_ (Moves.mono (k := 0x10000000000000000000000000000000000000000000000000000000000000200000002000400) rfl State.axPosLost_moves)
      refine Moves.trans ?_ (Moves.mono (k := 0x28000) rfl State.chStart_moves)
      exact h5
    try clear_value v3
    refine ResMoves.next ?_
    refine Moves.trans ?_ (Moves.mono (k := 0x1000000000000000000000000000000000000000000000000000000000000000000000c00) rfl State.serviceBack_moves)
    exact h6
  · refine ResMoves.next ?_
    exact Moves.refl

theorem execWakeNLow_moves {s : State} :
    ResMoves 0x1100100000000000000000000000000000000000000000000000001000103030000027fdffca0 s (execWakeNLow s) := by
  unfold execWakeNLow
  refine ResMoves.next ?_
  refine Moves.trans ?_ (Moves.mono (k := 0x1100100000000000000000000000000000000000000000000000001000103030000027fdffca0) rfl State.wakeBy_moves)
  exact Moves.refl

theorem execWakePllLocked_moves {s : State} :
    ResMoves 0x10000000000000000000000000000000000000000000000000000000000000000181c6f80 s (execWakePllLocked s) := by
  unfold execWakePllLocked
  split
  · extract_lets -underBinder -merge -useContext v0 v1 v2 v3
    have h4 : Moves 0x10000000000000000000000000000000000000000000000000000000000000000181c6f80 s v0 := by
      unfold v0
      refine Moves.trans ?_ (Moves.mono (k := 0x10000200) rfl State.timeBack_moves)
      exact Moves.refl
    try clear_value v0
    have h5 : Moves 0x10000000000000000000000000000000000000000000000000000000000000000181c6f80 s v2 := by
      unfold v2
      refine Moves.moKeep ?_ rfl rfl rfl rfl rfl
      exact h4
    try clear_value v2
    have h6 : Moves 0x10000000000000000000000000000000000000000000000000000000000000000181c6f80 s v3 := by
      unfold v3
      refine Moves.trans ?_ (Moves.mono (k := 0x1c0000) rfl State.pathsBack_moves)
      refine Moves.trans ?_ (Moves.mono (k := 0x8000000) rfl State.sfStart_moves)
      exact h5
    try clear_value v3
    refine ResMoves.next ?_
    refine Moves.ite ?_ ?_
    · refine Moves.trans ?_ (Moves.mono (k := 0x1000000000000000000000000000000000000000000000000000000000000000000006f00) rfl State.tuEnter_moves)
      exact h6
    · exact h6
  · refine ResMoves.next ?_
    exact Moves.refl

theorem execWakePllTimeout_moves {s : State} :
    ResMoves 0x11001000000000000000000000000000000000000000000000000010000020300000006cf7d80 s (execWakePllTimeout s) := by
  unfold execWakePllTimeout
  split
  · extract_lets -underBinder -merge -useContext v0
    refine ResMoves.ite ?_ ?_
    · refine ResMoves.next ?_
      exact Moves.refl
    · refine ResMoves.ite ?_ ?_
      · refine ResMoves.next ?_
        refine Moves.trans ?_ (Moves.mono (k := 0x11001000000000000000000000000000000000000000000000000010000020300000006cf7d80) rfl State.wakeFail_moves)
        exact Moves.refl
      · refine ResMoves.next ?_
        refine Moves.moKeep ?_ rfl rfl rfl rfl rfl
        exact Moves.refl
  · refine ResMoves.next ?_
    exact Moves.refl

theorem execWakeSource_moves {a0 : Nat} {s : State} :
    ResMoves 0x1100100000000000000000000000000000000000000000000000001000103030000027fdffca0 s (execWakeSource a0 s) := by
  unfold execWakeSource
  split
  · refine ResMoves.ite ?_ ?_
    · refine ResMoves.next ?_
      exact Moves.refl
    · refine ResMoves.next ?_
      refine Moves.trans ?_ (Moves.mono (k := 0x1100100000000000000000000000000000000000000000000000001000103030000027fdffca0) rfl State.wakeBy_moves)
      exact Moves.refl
  · refine ResMoves.next ?_
    exact Moves.refl

end Sys2Proof.Machine
end

