-- ==== Sys2Proof/Laws/FrameObjects.lean ====
section
/-! SUPPORT. What every definition of Machine/Objects.lean may change (masks over `Part.bit`), one lemma each. -/

namespace Sys2Proof.Machine

open Sys2Proof

theorem State.applyDone_moves {s : State} :
    Moves 0x10000000000000000000000000000000000000000000000000000000000000000000000000400 s (State.applyDone s) := by
  unfold State.applyDone
  split
  · extract_lets -underBinder -merge -useContext v0
    refine Moves.ite ?_ ?_
    · exact Moves.refl
    · refine Moves.trans ?_ (Moves.mono (k := 0x10000000000000000000000000000000000000000000000000000000000000000000000000400) rfl State.settle_moves)
      refine Moves.mb ?_ rfl (.inr rfl) (.inr ⟨rfl, rfl, rfl⟩)
      exact Moves.refl
  · exact Moves.refl

theorem State.applyWords_moves {s : State} {a0 : Sys2Proof.Machine.WReq} :
    Moves 0x100000000000000000000000000000000000000000000010f030f010f0303030680080000 s (State.applyWords s a0) := by
  unfold State.applyWords
  extract_lets -underBinder -merge -useContext v0 v1
  have h2 : Moves 0x100000000000000000000000000000000000000000000010f030f010f0303030680080000 s v0 := by
    unfold v0
    refine Moves.ite ?_ ?_
    · refine Moves.trans ?_ (Moves.mono (k := 0x20000080000) rfl State.bankOwn_moves)
      exact Moves.refl
    · exact Moves.refl
  try clear_value v0
  try clear_value v1
  refine Moves.foldl ?_ (fun st3 a4 => ?_)
  · exact h2
  · extract_lets -underBinder -merge -useContext v5
    try clear_value v5
    refine Moves.putWord ?_ (allRegs_bit rfl _)
    exact Moves.refl

theorem State.asCmdMode_moves {s : State} :
    Moves 0x1000000000000000000000000000000000000000000000000000000000000000000000000080 s (State.asCmdMode s) := by
  unfold State.asCmdMode
  extract_lets -underBinder -merge -useContext v0
  refine Moves.mo ?_ rfl rfl
  exact Moves.refl

theorem State.protObject_moves {s : State} {a0 : State} {a1 : Sys2Proof.Machine.WReq} :
    Moves 0x1000000000000000000000000000000000000000000000000000000000002020000286c00 s (State.protObject s a0 a1) := by
  unfold State.protObject
  refine Moves.ite ?_ ?_
  · refine Moves.ite ?_ ?_
    · refine Moves.trans ?_ (Moves.mono (k := 0x20000080000) rfl State.fcChanCommit_moves)
      exact Moves.refl
    · refine Moves.ite ?_ ?_
      · refine Moves.trans ?_ (Moves.mono (k := 0x80000) rfl State.fcVchCommit_moves)
        exact Moves.refl
      · refine Moves.ite ?_ ?_
        · refine Moves.trans ?_ (Moves.mono (k := 0x20000080000) rfl State.fcTrackCommit_moves)
          exact Moves.refl
        · refine Moves.ite ?_ ?_
          · refine Moves.trans ?_ (Moves.mono (k := 0x20000080000) rfl State.fcStreamCommit_moves)
            exact Moves.refl
          · exact Moves.refl
  · refine Moves.ite ?_ ?_
    · refine Moves.trans ?_ (Moves.mono (k := 0x1000000000000000000000000000000000000000000000000000000000002000000206c00) rfl State.latchResets_moves)
      exact Moves.refl
    · exact Moves.refl

theorem State.protCommit_moves {s : State} {a0 : List Sys2Proof.Machine.WReq} :
    Moves 0x100000000000000000000000000000000000000000000010f030f010f03030306c4bd6c00 s (State.protCommit s a0) := by
  unfold State.protCommit
  extract_lets -underBinder -merge -useContext v0 v1 v2 v3
  have h4 : Moves 0x100000000000000000000000000000000000000000000010f030f010f03030306c4bd6c00 s v0 := by
    unfold v0
    refine Moves.foldl ?_ (fun st5 a6 => ?_)
    · exact Moves.refl
    · refine Moves.trans ?_ (Moves.mono (k := 0x100000000000000000000000000000000000000000000010f030f010f0303030680080000) rfl State.applyWords_moves)
      exact Moves.refl
  try clear_value v0
  have h7 : Moves 0x100000000000000000000000000000000000000000000010f030f010f03030306c4bd6c00 s v1 := by
    unfold v1
    refine Moves.ite ?_ ?_
    · refine Moves.trans ?_ (Moves.mono (k := 0x1000000000000000000000000000000000000000000000000010000000003010044b56c00) rfl State.thresholdsCommit_moves)
      refine Moves.trans ?_ (Moves.mono (k := 0x10000000000000000000000000000000000000000000000000000000000000100000c6c00) rfl State.afCommit_moves)
      exact h4
    · exact h4
  try clear_value v1
  have h8 : Moves 0x100000000000000000000000000000000000000000000010f030f010f03030306c4bd6c00 s v2 := by
    unfold v2
    refine Moves.foldl ?_ (fun st9 a10 => ?_)
    · refine Moves.foldl ?_ (fun st11 a12 => ?_)
      · exact h7
      · refine Moves.trans ?_ (Moves.mono (k := 0x1000000000000000000000000000000000000000000000000000000000002020000286c00) rfl State.protObject_moves)
        exact Moves.refl
    · refine Moves.trans ?_ (Moves.mono (k := 0x100000000000000000000000000000000000000000000010f030f010f0303030680080000) rfl State.applyWords_moves)
      exact Moves.refl
  try clear_value v2
  have h13 : Moves 0x100000000000000000000000000000000000000000000010f030f010f03030306c4bd6c00 s v3 := by
    unfold v3
    refine Moves.ite ?_ ?_
    · refine Moves.trans ?_ (Moves.mono (k := 0x100000) rfl State.peCommit_moves)
      exact h8
    · exact h8
  try clear_value v3
  refine Moves.ite ?_ ?_
  · refine Moves.trans ?_ (Moves.mono (k := 0x1000000000000000000000000000000000000000000000000000000000002000000206c00) rfl State.tmCommit_moves)
    exact h13
  · exact h13

theorem State.unitCommit_moves {s : State} {a0 : State} {a1 : Sys2Proof.Machine.WReq} :
    Moves 0x100000000000000000000000000000000000000000000000b03080001010000005ec27f00 s (State.unitCommit s a0 a1) := by
  unfold State.unitCommit
  split
  · extract_lets -underBinder -merge -useContext v0
    try clear_value v0
    refine Moves.ite ?_ ?_
    · refine Moves.kp ?_ rfl
      exact Moves.refl
    · exact Moves.refl
  · refine Moves.trans ?_ (Moves.mono (k := 0x100000002401000) rfl State.leCommit_moves)
    exact Moves.refl
  · refine Moves.trans ?_ (Moves.mono (k := 0x100000002401000) rfl State.axCommit_moves)
    exact Moves.refl
  · extract_lets -underBinder -merge -useContext v1
    refine Moves.ite ?_ ?_
    · refine Moves.ite ?_ ?_
      · exact Moves.refl
      · refine Moves.evKeep ?_ rfl rfl
        exact Moves.refl
    · refine Moves.trans ?_ (Moves.mono (k := 0x4000) rfl State.evCommit_moves)
      exact Moves.refl
  · refine Moves.ite ?_ ?_
    · refine Moves.trans ?_ (Moves.mono (k := 0x800000000000000020000) rfl State.arCommit_moves)
      exact Moves.refl
    · exact Moves.refl
  · extract_lets -underBinder -merge -useContext v2
    have h3 : Moves 0x100000000000000000000000000000000000000000000000b03080001010000005ec27f00 s v2 := by
      unfold v2
      refine Moves.trans ?_ (Moves.mono (k := 0x1000000000000000000000000000000000000000000000000010000000000000004006c00) rfl State.fdCommit_moves)
      exact Moves.refl
    try clear_value v2
    refine Moves.ite ?_ ?_
    · refine Moves.trans ?_ (Moves.mono (k := 0x1000000000000000000000000000000000000000000000000010000000000000004006c00) rfl State.clrOl_moves)
      refine Moves.trans ?_ (Moves.mono (k := 0x1000000000000000000000000000000000000000000000000010000000000000004006c00) rfl State.clrUv_moves)
      exact h3
    · exact h3
  · refine Moves.trans ?_ (Moves.mono (k := 0x100000000000000000000000000000000000000000000000003000000000000000c806c00) rfl State.sfCommit_moves)
    exact Moves.refl
  · refine Moves.trans ?_ (Moves.mono (k := 0x100000000000000000000000000000000000000000000000b000000000000000040006f00) rfl State.lnCommit_moves)
    exact Moves.refl
  · refine Moves.trans ?_ (Moves.mono (k := 0x100000000000000000000000000000000000000000000000b000000010000000050006f00) rfl State.rbCommit_moves)
    exact Moves.refl
  · exact Moves.refl

theorem State.commitWrite_moves {s : State} {a0 : Sys2Proof.Machine.WReq} {a1 : Option (Nat × Nat)} :
    Moves 0x100000000000000000000000000000000000000000000010f030f010f03030306deff7f00 s (State.commitWrite s a0 a1).1 := by
  unfold State.commitWrite
  split
  · dsimp only
    refine Moves.trans ?_ (Moves.mono (k := 0x100000000000000000000000000000000000000000000010f030f010f03030306c4bd6c00) rfl State.protCommit_moves)
    exact Moves.refl
  · split
    · refine Moves.trans ?_ (Moves.mono (k := 0x1000000000000000000000000000000000000000000000008000000000000000000006f00) rfl State.adjCommit_moves)
      exact Moves.refl
    · dsimp only
      refine Moves.trans ?_ (Moves.mono (k := 0x100000000000000000000000000000000000000000000000b03080001010000005ec27f00) rfl State.unitCommit_moves)
      refine Moves.trans ?_ (Moves.mono (k := 0x100000000000000000000000000000000000000000000010f030f010f0303030680080000) rfl State.applyWords_moves)
      exact Moves.refl

theorem State.planned_moves {s : State} :
    Moves 0x100000000000000000000000000000000000000000000010f030f010f0303030680080000 s (State.planned s) := by
  unfold State.planned
  refine Moves.foldl ?_ (fun st0 a1 => ?_)
  · exact Moves.refl
  · refine Moves.trans ?_ (Moves.mono (k := 0x100000000000000000000000000000000000000000000010f030f010f0303030680080000) rfl State.applyWords_moves)
    exact Moves.refl

theorem State.goWrite_moves {s : State} {a0 : Sys2Proof.Machine.Cmd} {a1 : Sys2Proof.Machine.WReq} :
    Moves 0x1000100000000000000000000000000000000000000000000010f030f010f03030306deff7f40 s (State.goWrite s a0 a1) := by
  unfold State.goWrite
  extract_lets -underBinder -merge -useContext v0
  have h1 : Moves 0x1000100000000000000000000000000000000000000000000010f030f010f03030306deff7f40 s v0.1 := by
    unfold v0
    refine Moves.trans ?_ (Moves.mono (k := 0x100000000000000000000000000000000000000000000010f030f010f03030306deff7f00) rfl State.commitWrite_moves)
    exact Moves.refl
  try clear_value v0
  refine Moves.ite ?_ ?_
  · refine Moves.trans ?_ (Moves.mono (k := 0x10000000000000000000000000000000000000000000000000000000000000000000000000400) rfl State.start_moves)
    refine Moves.staged ?_ rfl
    exact Moves.refl
  · refine Moves.ite ?_ ?_
    · refine Moves.trans ?_ (Moves.mono (k := 0x10000000000000000000000000000000000000000000000000000000000000000000000000400) rfl State.start_moves)
      exact h1
    · refine Moves.trans ?_ (Moves.mono (k := 0x10000000000000000000000000000000000000000000000000000000000000000000000000400) rfl State.done_moves)
      exact h1

theorem State.takeStaged_moves {s : State} {a0 : Sys2Proof.Machine.StagedWrite → Bool} {a1 : Nat} :
    Moves 0x1000100000000000000000000000000000000000000000000010f030f010f03030306deff7f40 s (State.takeStaged s a0 a1) := by
  unfold State.takeStaged
  extract_lets -underBinder -merge -useContext v0 v1 v2 v3 v4 v5
  try clear_value v0
  have h6 : Moves 0x1000100000000000000000000000000000000000000000000010f030f010f03030306deff7f40 s v1 := by
    unfold v1
    refine Moves.staged ?_ rfl
    exact Moves.refl
  try clear_value v1
  try clear_value v2
  have h7 : Moves 0x1000100000000000000000000000000000000000000000000010f030f010f03030306deff7f40 s v3 := by
    unfold v3
    refine Moves.ite ?_ ?_
    · refine Moves.trans ?_ (Moves.mono (k := 0x20000080000) rfl State.banksLoad_moves)
      exact h6
    · exact h6
  try clear_value v3
  have h8 : Moves 0x1000100000000000000000000000000000000000000000000010f030f010f03030306deff7f40 s v4 := by
    unfold v4
    refine Moves.ite ?_ ?_
    · refine Moves.trans ?_ (Moves.mono (k := 0x100000000000000000000000000000000000000000000010f030f010f03030306c4bd6c00) rfl State.protCommit_moves)
      exact h7
    · exact h7
  try clear_value v4
  have h9 : Moves 0x1000100000000000000000000000000000000000000000000010f030f010f03030306deff7f40 s v5 := by
    unfold v5
    refine Moves.foldl ?_ (fun st10 a11 => ?_)
    · exact h8
    · refine Moves.trans ?_ (Moves.mono (k := 0x100000000000000000000000000000000000000000000010f030f010f03030306deff7f00) rfl State.commitWrite_moves)
      exact Moves.refl
  try clear_value v5
  refine Moves.ite ?_ ?_
  · exact Moves.refl
  · refine Moves.trans ?_ (Moves.mono (k := 0x10000000000000000000000000000000000000000000000000000000000000000000000000400) rfl State.applyDone_moves)
    refine Moves.foldl ?_ (fun st12 a13 => ?_)
    · exact h9
    · refine Moves.trans ?_ (Moves.mono (k := 0x10000000000000000000000000000000000000000000000000000000000000000000000000400) rfl State.settle_moves)
      exact Moves.refl

theorem State.passTake_moves {s : State} {a0 : Nat} :
    Moves 0x1000100000000000000000000000000000000000000000000010f030f010f03030306deff7f40 s (State.passTake s a0) := by
  unfold State.passTake
  refine Moves.trans ?_ (State.atInstant_moves rfl (fun st0 => ?_))
  · exact Moves.refl
  · refine Moves.trans ?_ (Moves.mono (k := 0x1000100000000000000000000000000000000000000000000010f030f010f03030306deff7f40) rfl State.takeStaged_moves)
    exact Moves.refl

theorem State.sampleTake_moves {s : State} {a0 : Nat} {a1 : Nat} :
    Moves 0x1000100000000000000000000000000000000000000000000010f030f010f03030306deff7f40 s (State.sampleTake s a0 a1) := by
  unfold State.sampleTake
  extract_lets -underBinder -merge -useContext v0
  try clear_value v0
  refine Moves.trans ?_ (Moves.mono (k := 0x1000100000000000000000000000000000000000000000000010f030f010f03030306deff7f40) rfl State.takeStaged_moves)
  exact Moves.refl

theorem execObjDescribe_moves {a0 : Nat} {a1 : Nat} {s : State} :
    ResMoves 0x10000000000000000000000000000000000000000000000000000000000000000000000002400 s (execObjDescribe a0 a1 s) := by
  unfold execObjDescribe
  refine ResMoves.trans ?_ (State.runCmd_moves rfl (fun st0 c1 => ?_))
  · exact Moves.refl
  · split
    · refine Moves.trans ?_ (Moves.mono (k := 0x10000000000000000000000000000000000000000000000000000000000000000000000000400) rfl State.answer_moves)
      exact Moves.refl
    · refine Moves.trans ?_ (Moves.mono (k := 0x10000000000000000000000000000000000000000000000000000000000000000000000000400) rfl State.answer_moves)
      exact Moves.refl

theorem execObjModify_moves {a0 : Nat} {a1 : Nat} {s : State} :
    ResMoves 0x1000100000000000000000000000000000000000000000000010f030f010f03030306deff7f40 s (execObjModify a0 a1 s) := by
  unfold execObjModify
  refine ResMoves.trans ?_ (State.runCmd_moves rfl (fun st0 c1 => ?_))
  · exact Moves.refl
  · refine Moves.trans ?_ (Moves.mono (k := 0x1000100000000000000000000000000000000000000000000010f030f010f03030306deff7f40) rfl State.goWrite_moves)
    exact Moves.refl

theorem execObjRead_moves {a0 : Nat} {a1 : Nat} {a2 : Bool} {s : State} :
    ResMoves 0x10000000000000000000000000000000000000000000000000000000000000000000000002400 s (execObjRead a0 a1 a2 s) := by
  unfold execObjRead
  refine ResMoves.trans ?_ (State.runCmd_moves rfl (fun st0 c1 => ?_))
  · exact Moves.refl
  · extract_lets -underBinder -merge -useContext v2 v3
    try clear_value v2
    try clear_value v3
    refine Moves.ite ?_ ?_
    · refine Moves.trans ?_ (Moves.mono (k := 0x10000000000000000000000000000000000000000000000000000000000000000000000000400) rfl State.answer_moves)
      refine Moves.trans ?_ (Moves.mono (k := 0x400) rfl State.dmaOut_moves)
      exact Moves.refl
    · refine Moves.trans ?_ (Moves.mono (k := 0x10000000000000000000000000000000000000000000000000000000000000000000000000400) rfl State.answer_moves)
      exact Moves.refl

theorem execObjWrite_moves {a0 : Nat} {a1 : Nat} {a2 : Option (List Sys2Proof.W32)} {s : State} :
    ResMoves 0x1000100000000000000000000000000000000000000000000010f030f010f03030306deff7f40 s (execObjWrite a0 a1 a2 s) := by
  unfold execObjWrite
  refine ResMoves.trans ?_ (State.runCmd_moves rfl (fun st0 c1 => ?_))
  · exact Moves.refl
  · refine Moves.trans ?_ (Moves.mono (k := 0x1000100000000000000000000000000000000000000000000010f030f010f03030306deff7f40) rfl State.goWrite_moves)
    exact Moves.refl

end Sys2Proof.Machine
end

