-- ==== Sys2Proof/Laws/FrameImages.lean ====
section
/-! SUPPORT. What every definition of Machine/Images.lean may change (masks over `Part.bit`), one lemma each. -/

namespace Sys2Proof.Machine

open Sys2Proof

theorem State.bootPaths_moves {s : State} :
    Moves 0x100000c0000 s (State.bootPaths s) := by
  unfold State.bootPaths
  extract_lets -underBinder -merge -useContext v0 v1 v2
  try clear_value v0
  have h3 : Moves 0x100000c0000 s v1 := by
    unfold v1
    refine Moves.foldl ?_ (fun st4 a5 => ?_)
    · exact Moves.refl
    · refine Moves.setFlag ?_ rfl
      exact Moves.refl
  try clear_value v1
  try clear_value v2
  refine Moves.trans ?_ (Moves.mono (k := 0xc0000) rfl State.pathsBegin_moves)
  refine Moves.af ?_ rfl
  exact h3

theorem State.commitImage_moves {s : State} {a0 : Sys2Proof.Machine.CfgImage} :
    Moves 0x20000000000000000000000000000000000000000000000000000000000000000000000000404 s (State.commitImage s a0) := by
  unfold State.commitImage
  extract_lets -underBinder -merge -useContext v0 v1
  refine Moves.upd (x := s) ?_ (fun p hp => by cases p <;> first | rfl | exact ⟨rfl, rfl⟩ | exact ⟨rfl, rfl, rfl⟩ | exact ⟨rfl, rfl, rfl, rfl⟩ | exact fun _ => List.prefix_rfl | exact List.prefix_rfl | exact fun _ h _ => h | exact fun _ _ => rfl | exact absurd hp (by decide)) rfl rfl rfl rfl rfl
  exact Moves.refl

theorem State.withImage_moves {s : State} {a0 : Sys2Proof.Machine.CfgImage} :
    Moves 0x100000000000000000000000000000000000000000000010f030f010f0303030680480000 s (State.withImage s a0) := by
  unfold State.withImage
  extract_lets -underBinder -merge -useContext v0
  have h1 : Moves 0x100000000000000000000000000000000000000000000010f030f010f0303030680480000 s v0 := by
    unfold v0
    refine Moves.foldl ?_ (fun st2 a3 => ?_)
    · refine Moves.trans ?_ (Moves.mono (k := 0x100000000000000000000000000000000000000000000010f030f010f0303030680080000) rfl State.planned_moves)
      exact Moves.refl
    · refine Moves.trans ?_ (Moves.mono (k := 0x100000000000000000000000000000000000000000000010f030f010f0303030680080000) rfl State.applyWords_moves)
      exact Moves.refl
  try clear_value v0
  split
  · exact h1
  · extract_lets -underBinder -merge -useContext v4
    try clear_value v4
    refine Moves.pd ?_ rfl
    exact h1

theorem State.takeImage_moves {s : State} {a0 : Sys2Proof.Machine.CfgImage} :
    Moves 0x100000000000000000000000000000000000000000000010f030f010f03030306dfff7f40 s (State.takeImage s a0) := by
  unfold State.takeImage
  extract_lets -underBinder -merge -useContext v0 v1 v2 v3 v4 v5 v6 v7 v8 v9
  try clear_value v0
  try clear_value v1
  try clear_value v2
  try clear_value v3
  have h10 : Moves 0x100000000000000000000000000000000000000000000010f030f010f03030306dfff7f40 s v4 := by
    unfold v4
    refine Moves.ite ?_ ?_
    · exact Moves.refl
    · refine Moves.trans ?_ (Moves.mono (k := 0x20000080000) rfl State.banksLoad_moves)
      exact Moves.refl
  try clear_value v4
  have h11 : Moves 0x100000000000000000000000000000000000000000000010f030f010f03030306dfff7f40 s v5 := by
    unfold v5
    refine Moves.staged ?_ rfl
    exact h10
  try clear_value v5
  have h12 : Moves 0x100000000000000000000000000000000000000000000010f030f010f03030306dfff7f40 s v6 := by
    unfold v6
    refine Moves.foldl ?_ (fun st13 a14 => ?_)
    · refine Moves.ite ?_ ?_
      · exact h11
      · refine Moves.trans ?_ (Moves.mono (k := 0x100000000000000000000000000000000000000000000010f030f010f03030306c4bd6c00) rfl State.protCommit_moves)
        exact h11
    · refine Moves.trans ?_ (Moves.mono (k := 0x100000000000000000000000000000000000000000000010f030f010f03030306deff7f00) rfl State.commitWrite_moves)
      exact Moves.refl
  try clear_value v6
  have h15 : Moves 0x100000000000000000000000000000000000000000000010f030f010f03030306dfff7f40 s v7 := by
    unfold v7
    split
    · refine Moves.trans ?_ (Moves.mono (k := 0x40c01000) rfl State.pointsApply_moves)
      exact h12
    · exact h12
  try clear_value v7
  have h16 : Moves 0x100000000000000000000000000000000000000000000010f030f010f03030306dfff7f40 s v8 := by
    unfold v8
    refine Moves.trans ?_ (Moves.mono (k := 0x1000000) rfl State.rpApply_moves)
    exact h15
  try clear_value v8
  try clear_value v9
  refine Moves.ite ?_ ?_
  · exact h16
  · refine Moves.rb ?_ rfl
    exact h16

theorem execCfgApply_moves {a0 : Nat} {a1 : Nat} {s : State} :
    ResMoves 0x3000100000000000000000000000000000000000000000000010f030f010f03030306dfff7fc4 s (execCfgApply a0 a1 s) := by
  unfold execCfgApply
  refine ResMoves.trans ?_ (State.runCmd_moves rfl (fun st0 c1 => ?_))
  · exact Moves.refl
  · split
    · exact Moves.refl
    · extract_lets -underBinder -merge -useContext v2 v3 v4
      have h5 : Moves 0x3000100000000000000000000000000000000000000000000010f030f010f03030306dfff7fc4 st0 v2 := by
        unfold v2
        refine Moves.trans ?_ (Moves.mono (k := 0x100000000000000000000000000000000000000000000010f030f010f03030306dfff7f40) rfl State.takeImage_moves)
        refine Moves.trans ?_ (Moves.mono (k := 0x20000000000000000000000000000000000000000000000000000000000000000000000000404) rfl State.commitImage_moves)
        exact Moves.refl
      try clear_value v2
      refine Moves.ite ?_ ?_
      · refine Moves.trans ?_ (Moves.mono (k := 0x10000000000000000000000000000000000000000000000000000000000000000000000000400) rfl State.done_moves)
        refine Moves.trans ?_ (Moves.mono (k := 0x100000c0000) rfl State.bootPaths_moves)
        refine Moves.moKeep ?_ rfl rfl rfl rfl rfl
        exact h5
      · refine Moves.trans ?_ (Moves.mono (k := 0x10000000000000000000000000000000000000000000000000000000000000000000000000400) rfl State.applyDone_moves)
        refine Moves.trans ?_ (Moves.mono (k := 0x10000000000000000000000000000000000000000000000000000000000000000000000000400) rfl State.start_moves)
        refine Moves.mb ?_ rfl (.inr rfl) (.inr ⟨rfl, rfl, rfl⟩)
        exact h5

theorem execCfgDiscard_moves {a0 : Nat} {a1 : Nat} {s : State} :
    ResMoves 0x30000000000000000000000000000000000000000000000000000000000000000000000002400 s (execCfgDiscard a0 a1 s) := by
  unfold execCfgDiscard
  refine ResMoves.trans ?_ (State.runCmd_moves rfl (fun st0 c1 => ?_))
  · exact Moves.refl
  · extract_lets -underBinder -merge -useContext v2
    refine Moves.ite ?_ ?_
    · refine Moves.trans ?_ (Moves.mono (k := 0x10000000000000000000000000000000000000000000000000000000000000000000000000400) rfl State.answer_moves)
      exact Moves.refl
    · refine Moves.trans ?_ (Moves.mono (k := 0x10000000000000000000000000000000000000000000000000000000000000000000000000400) rfl State.done_moves)
      refine Moves.mb ?_ rfl (.inr rfl) (.inl rfl)
      exact Moves.refl

theorem execCfgLoad_moves {a0 : Nat} {a1 : Nat} {a2 : Option (List Sys2Proof.W32)} {a3 : Bool} {s : State} :
    ResMoves 0x30000000000000000000000000000000000000000000000000000000000000000000000002400 s (execCfgLoad a0 a1 a2 a3 s) := by
  unfold execCfgLoad
  refine ResMoves.trans ?_ (State.runCmd_moves rfl (fun st0 c1 => ?_))
  · exact Moves.refl
  · split
    · extract_lets -underBinder -merge -useContext v2
      refine Moves.trans ?_ (Moves.mono (k := 0x10000000000000000000000000000000000000000000000000000000000000000000000000400) rfl State.done_moves)
      refine Moves.mb ?_ rfl (.inr rfl) (.inl rfl)
      exact Moves.refl
    · exact Moves.refl

theorem execCfgRead_moves {a0 : Nat} {a1 : Nat} {a2 : Bool} {s : State} :
    ResMoves 0x10000000000000000000000000000000000000000000000000000000000000000000000002400 s (execCfgRead a0 a1 a2 s) := by
  unfold execCfgRead
  refine ResMoves.trans ?_ (State.runCmd_moves rfl (fun st0 c1 => ?_))
  · exact Moves.refl
  · split
    · extract_lets -underBinder -merge -useContext v2
      have h3 : Moves 0x10000000000000000000000000000000000000000000000000000000000000000000000002400 st0 v2 := by
        unfold v2
        refine Moves.ite ?_ ?_
        · refine Moves.trans ?_ (Moves.mono (k := 0x400) rfl State.dmaOut_moves)
          exact Moves.refl
        · exact Moves.refl
      try clear_value v2
      refine Moves.trans ?_ (Moves.mono (k := 0x10000000000000000000000000000000000000000000000000000000000000000000000000400) rfl State.answer_moves)
      exact h3
    · exact Moves.refl

end Sys2Proof.Machine
end

