-- ==== Sys2Proof/Laws/FrameHost.lean ====
section
/-! SUPPORT. What every definition of Machine/Host.lean may change (masks over `Part.bit`), one lemma each. -/

namespace Sys2Proof.Machine

open Sys2Proof

theorem State.bar0Fields_moves {s : State} {a0 : Nat} {a1 : Nat} {a2 : Nat} {a3 : Nat} :
    Moves 0x100000000000000000000000000000000000000000000010f030f010f0303030680080000 s (State.bar0Fields s a0 a1 a2 a3) := by
  unfold State.bar0Fields
  refine Moves.trans ?_ (Moves.mono (k := 0x100000000000000000000000000000000000000000000010f030f010f0303030680080000) rfl State.applyWords_moves)
  exact Moves.refl

theorem State.ringWord2_moves {s : State} {a0 : Nat} {a1 : Nat} :
    Moves 0x100000000000000000000000000000000000000000000010f030f010f0303030680080400 s (State.ringWord2 s a0 a1) := by
  unfold State.ringWord2
  extract_lets -underBinder -merge -useContext v0 v1 v2 v3
  try clear_value v0
  have h4 : Moves 0x100000000000000000000000000000000000000000000010f030f010f0303030680080400 s v1 := by
    unfold v1
    refine Moves.trans ?_ (Moves.mono (k := 0x100000000000000000000000000000000000000000000010f030f010f0303030680080000) rfl State.bar0Fields_moves)
    exact Moves.refl
  try clear_value v1
  have h5 : Moves 0x100000000000000000000000000000000000000000000010f030f010f0303030680080400 s v2 := by
    unfold v2
    refine Moves.wr ?_ rfl
    refine Moves.wr ?_ rfl
    refine Moves.wr ?_ rfl
    exact h4
  try clear_value v2
  refine Moves.ite ?_ ?_
  · refine Moves.ite ?_ ?_
    · exact Moves.refl
    · refine Moves.wr ?_ rfl
      exact Moves.refl
  · refine Moves.ite ?_ ?_
    · exact h4
    · refine Moves.ite ?_ ?_
      · refine Moves.trans ?_ (Moves.mono (k := 0x1000000000000000000000000000000000000000000000000000000000000000000000000) rfl State.ringFault_moves)
        exact h4
      · refine Moves.mb ?_ rfl (.inr rfl) (.inr ⟨rfl, rfl, rfl⟩)
        exact h5

theorem State.ringWrite_moves {s : State} {a0 : Nat} {a1 : Nat} {a2 : Nat} :
    Moves 0x100000000000000000000000000000000000000000000010f030f010f0303030680080400 s (State.ringWrite s a0 a1 a2) := by
  unfold State.ringWrite
  refine Moves.ite ?_ ?_
  · exact Moves.refl
  · refine Moves.ite ?_ ?_
    · refine Moves.trans ?_ (Moves.mono (k := 0x100000000000000000000000000000000000000000000010f030f010f0303030680080400) rfl State.ringWord2_moves)
      exact Moves.refl
    · refine Moves.ite ?_ ?_
      · refine Moves.ite ?_ ?_
        · exact Moves.refl
        · refine Moves.trans ?_ (Moves.mono (k := 0x100000000000000000000000000000000000000000000010f030f010f0303030680080000) rfl State.bar0Fields_moves)
          exact Moves.refl
      · refine Moves.trans ?_ (Moves.mono (k := 0x100000000000000000000000000000000000000000000010f030f010f0303030680080000) rfl State.bar0Fields_moves)
        exact Moves.refl

theorem State.doorbell_moves {s : State} {a0 : Sys2Proof.W32} :
    Moves 0x1100100000000000000000000000000000000000000000000000001000103030000027fdffca0 s (State.doorbell s a0) := by
  unfold State.doorbell
  extract_lets -underBinder -merge -useContext v0
  have h1 : Moves 0x1100100000000000000000000000000000000000000000000000001000103030000027fdffca0 s v0 := by
    unfold v0
    refine Moves.ite ?_ ?_
    · exact Moves.refl
    · refine Moves.ite ?_ ?_
      · refine Moves.trans ?_ (Moves.mono (k := 0x1000000000000000000000000000000000000000000000000000000000000000000001400) rfl State.stagingPost_moves)
        exact Moves.refl
      · refine Moves.ite ?_ ?_
        · refine Moves.trans ?_ (Moves.mono (k := 0x400) rfl State.dbLatch_moves)
          exact Moves.refl
        · refine Moves.trans ?_ (Moves.mono (k := 0x1000000000000000000000000000000000000000000000000000000000000000000000000) rfl State.dbApply_moves)
          exact Moves.refl
  try clear_value v0
  refine Moves.trans ?_ (Moves.mono (k := 0x1100100000000000000000000000000000000000000000000000001000103030000027fdffca0) rfl State.wakeBy_moves)
  exact h1

theorem State.intctlWrite_moves {s : State} {a0 : Nat} :
    Moves 0x100000000000000000000000000000000000000000000010f030f010f0303030680080800 s (State.intctlWrite s a0) := by
  unfold State.intctlWrite
  extract_lets -underBinder -merge -useContext v0
  have h1 : Moves 0x100000000000000000000000000000000000000000000010f030f010f0303030680080800 s v0 := by
    unfold v0
    refine Moves.trans ?_ (Moves.mono (k := 0x100000000000000000000000000000000000000000000010f030f010f0303030680080000) rfl State.bar0Fields_moves)
    exact Moves.refl
  try clear_value v0
  refine Moves.ite ?_ ?_
  · refine Moves.trans ?_ (Moves.mono (k := 0x1000000000000000000000000000000000000000000000000000000000000000000000800) rfl State.flushPending_moves)
    exact h1
  · exact h1

theorem State.bar0Word_moves {s : State} {a0 : Nat} {a1 : Nat} :
    Moves 0x1100100000000000000000000000000000000000000000000010f030f010f03030306ffdffca0 s (State.bar0Word s a0 a1) := by
  unfold State.bar0Word
  refine Moves.ite ?_ ?_
  · refine Moves.trans ?_ (Moves.mono (k := 0x100000000000000000000000000000000000000000000010f030f010f0303030680080400) rfl State.ringWrite_moves)
    exact Moves.refl
  · refine Moves.ite ?_ ?_
    · refine Moves.trans ?_ (Moves.mono (k := 0x1100100000000000000000000000000000000000000000000000001000103030000027fdffca0) rfl State.doorbell_moves)
      exact Moves.refl
    · refine Moves.ite ?_ ?_
      · refine Moves.trans ?_ (Moves.mono (k := 0x100000000000000000000000000000000000000000000010f030f010f0303030680080800) rfl State.intctlWrite_moves)
        exact Moves.refl
      · refine Moves.ite ?_ ?_
        · refine Moves.trans ?_ (Moves.mono (k := 0x100000000000000000000000000000000000000000000010f030f010f0303030680080000) rfl State.bar0Fields_moves)
          exact Moves.refl
        · refine Moves.ite ?_ ?_
          · refine Moves.trans ?_ (Moves.mono (k := 0x100000000000000000000000000000000000000000000010f030f010f0303030680080000) rfl State.bar0Fields_moves)
            exact Moves.refl
          · refine Moves.ite ?_ ?_
            · refine Moves.trans ?_ (Moves.mono (k := 0x1000000000000000000000000000000000000000000000000000000000000000000000800) rfl State.flushPending_moves)
              refine Moves.trans ?_ (Moves.mono (k := 0x100000000000000000000000000000000000000000000010f030f010f0303030680080000) rfl State.bar0Fields_moves)
              exact Moves.refl
            · exact Moves.refl

theorem State.doorbellRow_moves {s : State} {a0 : Bool} {a1 : Sys2Proof.W32} {a2 : Nat} :
    Moves 0x1100100000000000000000000000000000000000000000000000001000103030000027fdffca0 s (State.doorbellRow s a0 a1 a2) := by
  unfold State.doorbellRow
  refine Moves.ite ?_ ?_
  · refine Moves.trans ?_ (Moves.mono (k := 0x1100100000000000000000000000000000000000000000000000001000103030000027fdffca0) rfl State.doorbell_moves)
    exact Moves.refl
  · exact Moves.refl

theorem State.endpointReset_moves {s : State} :
    Moves 0x1000000000000000000000000000000000000000000000000000000000000000000000000 s (State.endpointReset s) := by
  unfold State.endpointReset
  extract_lets -underBinder -merge -useContext v0
  have h1 : Moves 0x1000000000000000000000000000000000000000000000000000000000000000000000000 s v0 := by
    unfold v0
    refine Moves.foldl ?_ (fun st2 a3 => ?_)
    · exact Moves.refl
    · refine Moves.ite ?_ ?_
      · refine Moves.wr ?_ rfl
        exact Moves.refl
      · exact Moves.refl
  try clear_value v0
  refine Moves.foldl ?_ (fun st4 a5 => ?_)
  · exact h1
  · refine Moves.foldl ?_ (fun st6 a7 => ?_)
    · exact Moves.refl
    · refine Moves.putWord ?_ rfl
      exact Moves.refl

theorem State.rejectWrite_moves {s : State} :
    Moves 0x1000 s (State.rejectWrite s) := by
  unfold State.rejectWrite
  extract_lets -underBinder -merge -useContext v0
  try clear_value v0
  refine Moves.sb ?_ rfl
  exact Moves.refl

theorem execBar0RegisterWrite_moves {a0 : Nat} {a1 : Nat} {a2 : Nat} {s : State} :
    ResMoves 0x1100100000000000000000000000000000000000000000000010f030f010f03030306ffdffca0 s (execBar0RegisterWrite a0 a1 a2 s) := by
  unfold execBar0RegisterWrite
  refine ResMoves.ite ?_ ?_
  · refine ResMoves.next ?_
    exact Moves.refl
  · refine ResMoves.ite ?_ ?_
    · refine ResMoves.next ?_
      refine Moves.trans ?_ (Moves.mono (k := 0x1100100000000000000000000000000000000000000000000010f030f010f03030306ffdffca0) rfl State.bar0Word_moves)
      exact Moves.refl
    · refine ResMoves.ite ?_ ?_
      · refine ResMoves.next ?_
        refine Moves.trans ?_ (Moves.mono (k := 0x1100100000000000000000000000000000000000000000000010f030f010f03030306ffdffca0) rfl State.bar0Word_moves)
        refine Moves.trans ?_ (Moves.mono (k := 0x1100100000000000000000000000000000000000000000000010f030f010f03030306ffdffca0) rfl State.bar0Word_moves)
        exact Moves.refl
      · refine ResMoves.next ?_
        exact Moves.refl

theorem execBar2Write_moves {a0 : Nat} {a1 : Nat} {a2 : Nat} {s : State} :
    ResMoves 0x1000 s (execBar2Write a0 a1 a2 s) := by
  unfold execBar2Write
  refine ResMoves.ite ?_ ?_
  · refine ResMoves.next ?_
    refine Moves.trans ?_ (Moves.mono (k := 0x1000) rfl State.rejectWrite_moves)
    exact Moves.refl
  · refine ResMoves.next ?_
    exact Moves.refl

theorem execBar4Write_moves {a0 : Nat} {a1 : Nat} {a2 : Nat} {s : State} :
    ResMoves 0x1000000000000000000000000000000000000000000000000000000000000000040c00000 s (execBar4Write a0 a1 a2 s) := by
  unfold execBar4Write
  extract_lets -underBinder -merge -useContext v0
  try clear_value v0
  refine ResMoves.ite ?_ ?_
  · refine ResMoves.next ?_
    exact Moves.refl
  · refine ResMoves.ite ?_ ?_
    · refine ResMoves.next ?_
      refine Moves.trans ?_ (Moves.mono (k := 0x40c00000) rfl State.umWrite_moves)
      exact Moves.refl
    · refine ResMoves.next ?_
      refine Moves.bump ?_ rfl
      exact Moves.refl

theorem execD0Restore_moves {s : State} :
    ResMoves 0x1000000000000000000000000000000000000000000000000000000000000000000000800 s (execD0Restore s) := by
  unfold execD0Restore
  extract_lets -underBinder -merge -useContext v0
  try clear_value v0
  refine ResMoves.ite ?_ ?_
  · refine ResMoves.next ?_
    refine Moves.trans ?_ (Moves.mono (k := 0x1000000000000000000000000000000000000000000000000000000000000000000000800) rfl State.flushPending_moves)
    refine Moves.he ?_ rfl
    exact Moves.refl
  · refine ResMoves.next ?_
    exact Moves.refl

theorem execD3hotEntry_moves {s : State} :
    ResMoves 0x1000000000000000000000000000000000000000000000000000000000000000000000800 s (execD3hotEntry s) := by
  unfold execD3hotEntry
  extract_lets -underBinder -merge -useContext v0 v1
  have h2 : Moves 0x1000000000000000000000000000000000000000000000000000000000000000000000800 s v0 := by
    unfold v0
    refine Moves.trans ?_ (Moves.mono (k := 0x1000000000000000000000000000000000000000000000000000000000000000000000000) rfl State.endpointReset_moves)
    exact Moves.refl
  try clear_value v0
  try clear_value v1
  refine ResMoves.ite ?_ ?_
  · refine ResMoves.next ?_
    refine Moves.he ?_ rfl
    exact h2
  · refine ResMoves.next ?_
    exact Moves.refl

theorem execDoorbellCons_moves {a0 : Bool} {a1 : Sys2Proof.W32} {s : State} :
    ResMoves 0x1100100000000000000000000000000000000000000000000000001000103030000027fdffca0 s (execDoorbellCons a0 a1 s) := by
  unfold execDoorbellCons
  refine ResMoves.next ?_
  refine Moves.trans ?_ (Moves.mono (k := 0x1100100000000000000000000000000000000000000000000000001000103030000027fdffca0) rfl State.doorbellRow_moves)
  exact Moves.refl

theorem execDoorbellProd_moves {a0 : Bool} {a1 : Sys2Proof.W32} {s : State} :
    ResMoves 0x1100100000000000000000000000000000000000000000000000001000103030000027fdffca0 s (execDoorbellProd a0 a1 s) := by
  unfold execDoorbellProd
  refine ResMoves.next ?_
  refine Moves.trans ?_ (Moves.mono (k := 0x1100100000000000000000000000000000000000000000000000001000103030000027fdffca0) rfl State.doorbellRow_moves)
  exact Moves.refl

theorem execHotPortWrite_moves {a0 : Nat} {a1 : Sys2Proof.W32} {s : State} :
    ResMoves 0x1100100000000000000000000000000000000000000000000000001000103030000027fdffca0 s (execHotPortWrite a0 a1 s) := by
  unfold execHotPortWrite
  extract_lets -underBinder -merge -useContext v0
  try clear_value v0
  refine ResMoves.ite ?_ ?_
  · refine ResMoves.next ?_
    exact Moves.refl
  · refine ResMoves.ite ?_ ?_
    · refine ResMoves.next ?_
      refine Moves.sb ?_ rfl
      exact Moves.refl
    · refine ResMoves.ite ?_ ?_
      · refine ResMoves.next ?_
        refine Moves.ite ?_ ?_
        · refine Moves.trans ?_ (Moves.mono (k := 0x1100100000000000000000000000000000000000000000000000001000103030000027fdffca0) rfl State.doorbell_moves)
          exact Moves.refl
        · exact Moves.refl
      · refine ResMoves.next ?_
        refine Moves.trans ?_ (Moves.mono (k := 0x1000) rfl State.rejectWrite_moves)
        exact Moves.refl

theorem execMsixGenEnable_moves {a0 : Sys2Proof.W32} {s : State} :
    ResMoves 0x100000000000000000000000000000000000000000000010f030f010f0303030680080800 s (execMsixGenEnable a0 s) := by
  unfold execMsixGenEnable
  refine ResMoves.ite ?_ ?_
  · refine ResMoves.next ?_
    refine Moves.trans ?_ (Moves.mono (k := 0x100000000000000000000000000000000000000000000010f030f010f0303030680080800) rfl State.intctlWrite_moves)
    exact Moves.refl
  · refine ResMoves.next ?_
    exact Moves.refl

theorem execPcieHotReset_moves {s : State} :
    ResMoves 0x1000000000000000000000000000000000000000000000000000000000000000000000000 s (execPcieHotReset s) := by
  unfold execPcieHotReset
  refine ResMoves.ite ?_ ?_
  · refine ResMoves.next ?_
    refine Moves.trans ?_ (Moves.mono (k := 0x1000000000000000000000000000000000000000000000000000000000000000000000000) rfl State.endpointReset_moves)
    exact Moves.refl
  · refine ResMoves.next ?_
    exact Moves.refl

theorem execPcieLinkTrained_moves {a0 : Bool} {s : State} :
    ResMoves 0x1000000000000000000000800 s (execPcieLinkTrained a0 s) := by
  unfold execPcieLinkTrained
  extract_lets -underBinder -merge -useContext v0
  try clear_value v0
  refine ResMoves.ite ?_ ?_
  · refine ResMoves.next ?_
    exact Moves.refl
  · refine ResMoves.next ?_
    refine Moves.foldl ?_ (fun st1 a2 => ?_)
    · refine Moves.he ?_ rfl
      exact Moves.refl
    · refine Moves.setFlag ?_ rfl
      exact Moves.refl

theorem execRingEnable_moves {a0 : Nat} {a1 : Sys2Proof.W32} {s : State} :
    ResMoves 0x100000000000000000000000000000000000000000000010f030f010f0303030680080400 s (execRingEnable a0 a1 s) := by
  unfold execRingEnable
  refine ResMoves.ite ?_ ?_
  · refine ResMoves.next ?_
    refine Moves.trans ?_ (Moves.mono (k := 0x100000000000000000000000000000000000000000000010f030f010f0303030680080400) rfl State.ringWrite_moves)
    exact Moves.refl
  · refine ResMoves.next ?_
    exact Moves.refl

theorem execStagingPost_moves {a0 : Bool} {a1 : Sys2Proof.W32} {s : State} :
    ResMoves 0x1100100000000000000000000000000000000000000000000000001000103030000027fdffca0 s (execStagingPost a0 a1 s) := by
  unfold execStagingPost
  refine ResMoves.next ?_
  refine Moves.trans ?_ (Moves.mono (k := 0x1100100000000000000000000000000000000000000000000000001000103030000027fdffca0) rfl State.doorbellRow_moves)
  exact Moves.refl

end Sys2Proof.Machine
end

