-- ==== Sys2Proof/Laws/FrameBoot.lean ====
section
/-! SUPPORT. What every definition of Machine/Boot.lean may change (masks over `Part.bit`), one lemma each. -/

namespace Sys2Proof.Machine

open Sys2Proof

theorem State.bootError_moves {s : State} {a0 : Nat} :
    Moves 0x6080 s (State.bootError s a0) := by
  unfold State.bootError
  extract_lets -underBinder -merge -useContext v0
  refine Moves.trans ?_ (Moves.mono (k := 0x6000) rfl State.raiseErr_moves)
  refine Moves.moKeep ?_ rfl rfl rfl rfl rfl
  exact Moves.refl

theorem State.bootLogic_moves {s : State} {a0 : Bool} :
    Moves 0x10000000010000080 s (State.bootLogic s a0) := by
  unfold State.bootLogic
  split
  · extract_lets -underBinder -merge -useContext v0
    try clear_value v0
    refine Moves.trans ?_ (Moves.mono (k := 0x10000000000000000) rfl State.bankShow_moves)
    refine Moves.trans ?_ (Moves.mono (k := 0x10000000000000000) rfl State.homeTasks_moves)
    refine Moves.lg ?_ rfl
    exact Moves.refl
  · extract_lets -underBinder -merge -useContext v1 v2 v3
    try clear_value v2
    try clear_value v3
    refine Moves.ite ?_ ?_
    · refine Moves.trans ?_ (Moves.mono (k := 0x10000000000000000) rfl State.bankShow_moves)
      refine Moves.trans ?_ (Moves.mono (k := 0x10000000000000000) rfl State.homeTasks_moves)
      refine Moves.upd (x := s) ?_ (fun p hp => by cases p <;> first | rfl | exact ⟨rfl, rfl⟩ | exact ⟨rfl, rfl, rfl⟩ | exact ⟨rfl, rfl, rfl, rfl⟩ | exact fun _ => List.prefix_rfl | exact List.prefix_rfl | exact fun _ h _ => h | exact fun _ _ => rfl | exact absurd hp (by decide)) rfl rfl rfl rfl rfl
      exact Moves.refl
    · refine Moves.ite ?_ ?_
      · refine Moves.trans ?_ (Moves.mono (k := 0x10000000000000000) rfl State.bankShow_moves)
        exact Moves.refl
      · refine Moves.trans ?_ (Moves.mono (k := 0x10000000000000000) rfl State.bankShow_moves)
        refine Moves.trans ?_ (Moves.mono (k := 0x10000000000000000) rfl State.homeTasks_moves)
        refine Moves.lg ?_ rfl
        exact Moves.refl

theorem State.bootTo_moves {s : State} {a0 : Sys2Proof.Machine.BootStep} {a1 : Nat} :
    Moves 0x80 s (State.bootTo s a0 a1) := by
  unfold State.bootTo
  extract_lets -underBinder -merge -useContext v0
  refine Moves.moKeep ?_ rfl rfl rfl rfl rfl
  exact Moves.refl

theorem State.calFound_moves {s : State} {a0 : List Nat} {a1 : List Nat} :
    Moves 0x40000 s (State.calFound s a0 a1) := by
  unfold State.calFound
  extract_lets -underBinder -merge -useContext v0 v1 v2
  try clear_value v0
  try clear_value v1
  try clear_value v2
  refine Moves.af ?_ rfl
  exact Moves.refl

theorem State.cleared_moves
    {s : State} : Moves 0x7f00100000000000000000000000000000000000000000000010f030f010f03030304fffffec0 s
    (State.cleared s) := fun hi =>
  ⟨⟨filter_ok hi.1, rfl, hi.2.2⟩, fun p hp => by
    cases p <;> first | rfl | exact fun _ h _ => h | exact ⟨rfl, rfl⟩ | exact ⟨rfl, rfl, rfl⟩ | exact ⟨rfl, rfl, rfl, rfl⟩ | exact fun _ => List.prefix_rfl | exact List.prefix_rfl | exact absurd hp (by decide) | skip
    next u => exact regs_filter hi.1 (fun k hk v => by
      have hu : u = 1 := by
        by_cases h : unitNumbers.contains u
        · simp only [Part.bit, h, if_true] at hp
          simp only [unitNumbers, List.contains_eq_mem, List.mem_cons, List.not_mem_nil, or_false, decide_eq_true_eq] at h
          rcases h with h | h | h | h | h | h | h | h | h | h | h | h | h | h | h | h | h | h | h | h | h | h | h | h | h <;>
            first | exact h | (subst h; exact absurd hp (by decide))
        · rw [show (Part.regs u).bit = 31 by simp only [Part.bit]; rw [if_neg h]] at hp
          exact absurd hp (by decide)
      have h1 : k / 268435456 / 256 = 1 := by omega
      simp [keptReg, h1]),
    Nat.le_refl _, Nat.le_refl _, Nat.le_refl _⟩

theorem State.controlLost_moves {s : State} :
    Moves 0x100000000000000000000000000000000000000000000010f030f010f03030306b7c11000 s (State.controlLost s) := by
  unfold State.controlLost
  extract_lets -underBinder -merge -useContext v0 v1 v2 v3 v4 v5 v6
  have h7 : Moves 0x100000000000000000000000000000000000000000000010f030f010f03030306b7c11000 s v0 := by
    unfold v0
    refine Moves.trans ?_ (Moves.mono (k := 0x1000000) rfl State.rpCold_moves)
    refine Moves.trans ?_ (Moves.mono (k := 0x10000000010000000) rfl State.dropCycles_moves)
    refine Moves.trans ?_ (Moves.mono (k := 0x10000000000000004c11000) rfl State.clearForces_moves)
    exact Moves.refl
  try clear_value v0
  try clear_value v1
  try clear_value v2
  try clear_value v3
  try clear_value v4
  try clear_value v5
  try clear_value v6
  refine Moves.foldl ?_ (fun st8 a9 => ?_)
  · refine Moves.upd (x := v0) ?_ (fun p hp => by cases p <;> first | rfl | exact ⟨rfl, rfl⟩ | exact ⟨rfl, rfl, rfl⟩ | exact ⟨rfl, rfl, rfl, rfl⟩ | exact fun _ => List.prefix_rfl | exact List.prefix_rfl | exact fun _ h _ => h | exact fun _ _ => rfl | exact absurd hp (by decide)) rfl rfl rfl rfl rfl
    exact h7
  · refine Moves.putKey ?_ (allRegs_bit rfl _)
    exact Moves.refl

theorem State.serviceLost_moves {s : State} :
    Moves 0x7600100000000000000000000000000000000000000000000000000040000000000000007e640 s (State.serviceLost s) := by
  unfold State.serviceLost
  extract_lets -underBinder -merge -useContext v0 v1 v2 v3 v4 v5 v6
  have h7 : Moves 0x7600100000000000000000000000000000000000000000000000000040000000000000007e640 s v0 := by
    unfold v0
    refine Moves.foldl ?_ (fun st8 a9 => ?_)
    · exact Moves.refl
    · refine Moves.wr ?_ rfl
      exact Moves.refl
  try clear_value v0
  try clear_value v1
  try clear_value v4
  try clear_value v5
  have h10 : Moves 0x7600100000000000000000000000000000000000000000000000000040000000000000007e640 s v6 := by
    unfold v6
    refine Moves.upd (x := v0) ?_ (fun p hp => by cases p <;> first | rfl | exact ⟨rfl, rfl⟩ | exact ⟨rfl, rfl, rfl⟩ | exact ⟨rfl, rfl, rfl, rfl⟩ | exact fun _ => List.prefix_rfl | exact List.prefix_rfl | exact fun _ h _ => h | exact fun _ _ => rfl | exact absurd hp (by decide)) rfl rfl rfl rfl rfl
    exact h7
  try clear_value v6
  refine Moves.trans ?_ (Moves.mono (k := 0x400000000000000010000) rfl State.drReset_moves)
  refine Moves.trans ?_ (Moves.mono (k := 0x8000) rfl State.chReset_moves)
  refine Moves.trans ?_ (Moves.mono (k := 0x4000000000000000000000000000000000000000000000000000000000000000000000004000) rfl State.evReset_moves)
  exact h10

theorem State.coldRestart_moves {s : State} :
    Moves 0x7700100000000000000000000000000000000000000000000010f030f010f03030306b7dffec4 s (State.coldRestart s) := by
  unfold State.coldRestart
  extract_lets -underBinder -merge -useContext v0 v1 v2 v3 v4 v5 v6
  have h7 : Moves 0x7700100000000000000000000000000000000000000000000010f030f010f03030306b7dffec4 s v0 := by
    unfold v0
    refine Moves.trans ?_ (Moves.mono (k := 0x100000000000000000000000000000000000000000000010f030f010f03030306b7c11000) rfl State.controlLost_moves)
    refine Moves.trans ?_ (Moves.mono (k := 0x7600100000000000000000000000000000000000000000000000000040000000000000007e640) rfl State.serviceLost_moves)
    exact Moves.refl
  try clear_value v0
  try clear_value v1
  have h8 : Moves 0x7700100000000000000000000000000000000000000000000010f030f010f03030306b7dffec4 s v4 := by
    unfold v4
    refine Moves.trans ?_ (Moves.mono (k := 0x4) rfl State.scBoot_moves)
    refine Moves.moKeep ?_ rfl rfl rfl rfl rfl
    exact h7
  try clear_value v4
  have h9 : Moves 0x7700100000000000000000000000000000000000000000000010f030f010f03030306b7dffec4 s v5 := by
    unfold v5
    refine Moves.trans ?_ (Moves.mono (k := 0x11001000000000000000000000000000000000000000000000000010000020300000006cd7c80) rfl State.setMode_moves)
    exact h8
  try clear_value v5
  try clear_value v6
  refine Moves.trans ?_ (Moves.mono (k := 0x100000) rfl State.peResetAll_moves)
  refine Moves.trans ?_ (Moves.mono (k := 0x1000000000000000000000000000000000000000000000000010000000000000004006c00) rfl State.fdDrive_moves)
  refine Moves.fd ?_ rfl
  exact h9

theorem State.controlSafe_moves {s : State} :
    Moves 0x12c01000 s (State.controlSafe s) := by
  unfold State.controlSafe
  extract_lets -underBinder -merge -useContext v0
  have h1 : Moves 0x12c01000 s v0 := by
    unfold v0
    refine Moves.foldl ?_ (fun st2 a3 => ?_)
    · refine Moves.trans ?_ (Moves.mono (k := 0x10800000) rfl State.allSafe_moves)
      exact Moves.refl
    · refine Moves.trans ?_ (Moves.mono (k := 0x2401000) rfl State.loopSafeOut_moves)
      exact Moves.refl
  try clear_value v0
  refine Moves.foldl ?_ (fun st4 a5 => ?_)
  · exact h1
  · refine Moves.trans ?_ (Moves.mono (k := 0x2401000) rfl State.axisSafeOut_moves)
    exact Moves.refl

theorem State.evBegin_moves {s : State} :
    Moves 0x1000000000000000000000000000000000000000000000000000000000000000000026d00 s (State.evBegin s) := by
  unfold State.evBegin
  extract_lets -underBinder -merge -useContext v0
  try clear_value v0
  refine Moves.trans ?_ (Moves.mono (k := 0x1000000000000000000000000000000000000000000000000000000000000000000026d00) rfl State.evRestart_moves)
  exact Moves.refl

theorem State.keeperReset_moves
    {s : State} : Moves 0x100000000000000000000000000000000000000000000010f030f010f0303030680000100 s
    (State.keeperReset s) := fun hi =>
  ⟨⟨filter_ok hi.1, hi.2.1, hi.2.2⟩, fun p hp => by
    cases p <;> first | rfl | exact fun _ h _ => h | exact ⟨rfl, rfl⟩ | exact ⟨rfl, rfl, rfl⟩ | exact ⟨rfl, rfl, rfl, rfl⟩ | exact fun _ => List.prefix_rfl | exact List.prefix_rfl | exact absurd hp (by decide) | skip
    next u => exact regs_filter hi.1 (fun k hk v => by
      have hu : u ≠ 1 := by
        rintro rfl
        exact absurd hp (by decide)
      have h1 : k / 268435456 / 256 ≠ 1 := by omega
      simp [h1]),
    Nat.le_refl _, Nat.le_refl _, Nat.le_refl _⟩

theorem State.timeLoad_moves {s : State} :
    Moves 0x200 s (State.timeLoad s) := by
  unfold State.timeLoad
  extract_lets -underBinder -merge -useContext v0 v1
  try clear_value v0
  try clear_value v1
  refine Moves.tu ?_ rfl
  exact Moves.refl

theorem execBootConfigApply_moves {a0 : Nat} {a1 : Bool} {a2 : List Nat} {a3 : List Nat} {s : State} :
    ResMoves 0x2000100000000000000000000000000000000000000000000010f030f010f03030306dfff7fc6 s (execBootConfigApply a0 a1 a2 a3 s) := by
  unfold execBootConfigApply
  extract_lets -underBinder -merge -useContext v0 v1 v2 v3
  have h4 : Moves 0x2000100000000000000000000000000000000000000000000010f030f010f03030306dfff7fc6 s v0 := by
    unfold v0
    refine Moves.trans ?_ (Moves.mono (k := 0x10000000010000080) rfl State.bootLogic_moves)
    exact Moves.refl
  try clear_value v0
  have h5 : Moves 0x2000100000000000000000000000000000000000000000000010f030f010f03030306dfff7fc6 s v2 := by
    unfold v2
    refine Moves.trans ?_ (Moves.mono (k := 0x40000) rfl State.calFound_moves)
    refine Moves.trans ?_ (Moves.mono (k := 0x6) rfl State.markerRecover_moves)
    exact Moves.refl
  try clear_value v2
  try clear_value v3
  refine ResMoves.ite ?_ ?_
  · refine ResMoves.next ?_
    exact Moves.refl
  · refine ResMoves.ite ?_ ?_
    · refine ResMoves.next ?_
      refine Moves.moKeep ?_ rfl rfl rfl rfl rfl
      exact h4
    · split
      · refine ResMoves.next ?_
        refine Moves.trans ?_ (Moves.mono (k := 0x80) rfl State.bootTo_moves)
        refine Moves.trans ?_ (Moves.mono (k := 0x10000000010000080) rfl State.bootLogic_moves)
        exact h5
      · extract_lets -underBinder -merge -useContext v6 v7 v8 v9 v10 v11 v12
        have h13 : Moves 0x2000100000000000000000000000000000000000000000000010f030f010f03030306dfff7fc6 s v8 := by
          unfold v8
          refine Moves.upd (x := v2) ?_ (fun p hp => by cases p <;> first | rfl | exact ⟨rfl, rfl⟩ | exact ⟨rfl, rfl, rfl⟩ | exact ⟨rfl, rfl, rfl, rfl⟩ | exact fun _ => List.prefix_rfl | exact List.prefix_rfl | exact fun _ h _ => h | exact fun _ _ => rfl | exact absurd hp (by decide)) rfl rfl rfl rfl rfl
          exact h5
        try clear_value v8
        have h14 : Moves 0x2000100000000000000000000000000000000000000000000010f030f010f03030306dfff7fc6 s v10 := by
          unfold v10
          refine Moves.ite ?_ ?_
          · exact h13
          · refine Moves.moKeep ?_ rfl rfl rfl rfl rfl
            exact h13
        try clear_value v10
        have h15 : Moves 0x2000100000000000000000000000000000000000000000000010f030f010f03030306dfff7fc6 s v11 := by
          unfold v11
          refine Moves.trans ?_ (Moves.mono (k := 0x100000c0000) rfl State.bootPaths_moves)
          refine Moves.trans ?_ (Moves.mono (k := 0x10000000010000080) rfl State.bootLogic_moves)
          refine Moves.trans ?_ (Moves.mono (k := 0x100000000000000000000000000000000000000000000010f030f010f03030306dfff7f40) rfl State.takeImage_moves)
          exact h14
        try clear_value v11
        refine ResMoves.next ?_
        refine Moves.moKeep ?_ rfl rfl rfl rfl rfl
        exact h15

theorem execCaptainReady_moves {s : State} :
    ResMoves 0x1000000000000000000000000000000000000000000000000000000000000000000000c86 s (execCaptainReady s) := by
  unfold execCaptainReady
  extract_lets -underBinder -merge -useContext v0 v1 v2
  have h3 : Moves 0x1000000000000000000000000000000000000000000000000000000000000000000000c86 s v1 := by
    unfold v1
    refine Moves.moKeep ?_ rfl rfl rfl rfl rfl
    exact Moves.refl
  try clear_value v1
  have h4 : Moves 0x1000000000000000000000000000000000000000000000000000000000000000000000c86 s v2 := by
    unfold v2
    split
    · extract_lets -underBinder -merge -useContext v5
      refine Moves.ite ?_ ?_
      · refine Moves.scUp ?_ rfl rfl (by simp +zetaDelta) (by intro hh; simp +zetaDelta; try omega) (by simp +zetaDelta)
        exact h3
      · exact h3
    · exact h3
  try clear_value v2
  refine ResMoves.ite ?_ ?_
  · refine ResMoves.next ?_
    exact Moves.refl
  · refine ResMoves.next ?_
    refine Moves.trans ?_ (Moves.mono (k := 0x1000000000000000000000000000000000000000000000000000000000000000000000c00) rfl State.deliverHeld_moves)
    exact h4

theorem execColdRestart_moves {a0 : Nat} {a1 : Nat} {s : State} :
    ResMoves 0x7700100000000000000000000000000000000000000000000010f030f010f03030306b7dffec4 s (execColdRestart a0 a1 s) := by
  unfold execColdRestart
  refine ResMoves.trans ?_ (State.runCmd_moves rfl (fun st0 c1 => ?_))
  · exact Moves.refl
  · refine Moves.trans ?_ (Moves.mono (k := 0x7700100000000000000000000000000000000000000000000010f030f010f03030306b7dffec4) rfl State.coldRestart_moves)
    exact Moves.refl

theorem execFirmwareVerified_moves {a0 : Bool} {a1 : Bool} {s : State} :
    ResMoves 0x84 s (execFirmwareVerified a0 a1 s) := by
  unfold execFirmwareVerified
  extract_lets -underBinder -merge -useContext v0
  try clear_value v0
  refine ResMoves.ite ?_ ?_
  · refine ResMoves.next ?_
    exact Moves.refl
  · split
    · extract_lets -underBinder -merge -useContext v1
      refine ResMoves.next ?_
      refine Moves.trans ?_ (Moves.mono (k := 0x80) rfl State.bootTo_moves)
      refine Moves.sc ?_ rfl rfl rfl rfl
      exact Moves.refl
    · refine ResMoves.next ?_
      refine Moves.trans ?_ (Moves.mono (k := 0x80) rfl State.bootTo_moves)
      exact Moves.refl

theorem execLocalProtectionReady_moves {s : State} :
    ResMoves 0x11001000000000000000000000000000000000000000000000000010000020300000016dffc80 s (execLocalProtectionReady s) := by
  unfold execLocalProtectionReady
  extract_lets -underBinder -merge -useContext v0 v1 v2 v3 v4
  have h5 : Moves 0x11001000000000000000000000000000000000000000000000000010000020300000016dffc80 s v0 := by
    unfold v0
    refine Moves.trans ?_ (Moves.mono (k := 0x11001000000000000000000000000000000000000000000000000010000020300000006cd7c80) rfl State.setMode_moves)
    exact Moves.refl
  try clear_value v0
  try clear_value v3
  try clear_value v4
  refine ResMoves.ite ?_ ?_
  · refine ResMoves.next ?_
    exact Moves.refl
  · refine ResMoves.next ?_
    refine Moves.trans ?_ (Moves.mono (k := 0x28000) rfl State.chStart_moves)
    refine Moves.trans ?_ (Moves.mono (k := 0x12c01000) rfl State.controlSafe_moves)
    refine Moves.upd (x := v0) ?_ (fun p hp => by cases p <;> first | rfl | exact ⟨rfl, rfl⟩ | exact ⟨rfl, rfl, rfl⟩ | exact ⟨rfl, rfl, rfl, rfl⟩ | exact fun _ => List.prefix_rfl | exact List.prefix_rfl | exact fun _ h _ => h | exact fun _ _ => rfl | exact absurd hp (by decide)) rfl rfl rfl rfl rfl
    exact h5

theorem execResetNLow_moves {s : State} :
    ResMoves 0x7f00100000000000000000000000000000000000000000000010f030f010f03030304fffffec0 s (execResetNLow s) := by
  unfold execResetNLow
  extract_lets -underBinder -merge -useContext v0 v1 v2 v3
  have h4 : Moves 0x7f00100000000000000000000000000000000000000000000010f030f010f03030304fffffec0 s v3 := by
    unfold v3
    refine Moves.trans ?_ (Moves.mono (k := 0x7f00100000000000000000000000000000000000000000000010f030f010f03030304fffffec0) rfl State.cleared_moves)
    exact Moves.refl
  try clear_value v3
  refine ResMoves.ite ?_ ?_
  · refine ResMoves.next ?_
    exact Moves.refl
  · refine ResMoves.ite ?_ ?_
    · refine ResMoves.next ?_
      refine Moves.moKeep ?_ rfl rfl rfl rfl rfl
      exact Moves.refl
    · refine ResMoves.next ?_
      refine Moves.mo ?_ rfl rfl
      exact h4

theorem execResetNRelease_moves {s : State} :
    ResMoves 0x7f00100000000000000000000000000000000000000000000010f030f010f03030304ffffffc4 s (execResetNRelease s) := by
  unfold execResetNRelease
  extract_lets -underBinder -merge -useContext v0 v1 v2 v3 v4 v5 v6 v7
  try clear_value v0
  try clear_value v1
  try clear_value v2
  have h8 : Moves 0x7f00100000000000000000000000000000000000000000000010f030f010f03030304ffffffc4 s v3 := by
    unfold v3
    refine Moves.trans ?_ (Moves.mono (k := 0x200) rfl State.timeLoad_moves)
    refine Moves.trans ?_ (Moves.mono (k := 0x7f00100000000000000000000000000000000000000000000010f030f010f03030304fffffec0) rfl State.cleared_moves)
    exact Moves.refl
  try clear_value v3
  try clear_value v5
  have h9 : Moves 0x7f00100000000000000000000000000000000000000000000010f030f010f03030304ffffffc4 s v6 := by
    unfold v6
    refine Moves.upd (x := v3) ?_ (fun p hp => by cases p <;> first | rfl | exact ⟨rfl, rfl⟩ | exact ⟨rfl, rfl, rfl⟩ | exact ⟨rfl, rfl, rfl, rfl⟩ | exact fun _ => List.prefix_rfl | exact List.prefix_rfl | exact fun _ h _ => h | exact fun _ _ => rfl | exact absurd hp (by decide)) rfl rfl rfl rfl rfl
    exact h8
  try clear_value v6
  have h10 : Moves 0x7f00100000000000000000000000000000000000000000000010f030f010f03030304ffffffc4 s v7 := by
    unfold v7
    refine Moves.trans ?_ (Moves.mono (k := 0x1000000000000000000000000000000000000000000000000000000000000000000006c00) rfl State.notify_moves)
    refine Moves.trans ?_ (Moves.mono (k := 0x4) rfl State.scBoot_moves)
    exact h9
  try clear_value v7
  refine ResMoves.ite ?_ ?_
  · refine ResMoves.next ?_
    exact Moves.refl
  · refine ResMoves.next ?_
    refine Moves.ite ?_ ?_
    · refine Moves.trans ?_ (Moves.mono (k := 0x6000) rfl State.raiseErr_moves)
      exact h10
    · exact h10

theorem execRomCheckDone_moves {a0 : Bool} {s : State} :
    ResMoves 0x80 s (execRomCheckDone a0 s) := by
  unfold execRomCheckDone
  refine ResMoves.ite ?_ ?_
  · refine ResMoves.next ?_
    refine Moves.ite ?_ ?_
    · refine Moves.trans ?_ (Moves.mono (k := 0x80) rfl State.bootTo_moves)
      exact Moves.refl
    · refine Moves.trans ?_ (Moves.mono (k := 0x80) rfl State.bootTo_moves)
      exact Moves.refl
  · refine ResMoves.next ?_
    exact Moves.refl

theorem execSdramTrained_moves {a0 : Bool} {a1 : Nat} {a2 : Bool} {s : State} :
    ResMoves 0x1000000000000000000000000000000000000000000000000000000000000000420026d80 s (execSdramTrained a0 a1 a2 s) := by
  unfold execSdramTrained
  extract_lets -underBinder -merge -useContext v0 v1 v2 v3
  have h4 : Moves 0x1000000000000000000000000000000000000000000000000000000000000000420026d80 s v1 := by
    unfold v1
    refine Moves.moKeep ?_ rfl rfl rfl rfl rfl
    exact Moves.refl
  try clear_value v1
  have h5 : Moves 0x1000000000000000000000000000000000000000000000000000000000000000420026d80 s v2 := by
    unfold v2
    refine Moves.trans ?_ (Moves.mono (k := 0x1000000000000000000000000000000000000000000000000000000000000000000026d00) rfl State.evBegin_moves)
    refine Moves.wr ?_ rfl
    exact h4
  try clear_value v2
  try clear_value v3
  refine ResMoves.ite ?_ ?_
  · refine ResMoves.next ?_
    exact Moves.refl
  · refine ResMoves.ite ?_ ?_
    · refine ResMoves.next ?_
      refine Moves.trans ?_ (Moves.mono (k := 0x1000000000000000000000000000000000000000000000000000000000000000000026d00) rfl State.evLastResort_moves)
      refine Moves.trans ?_ (Moves.mono (k := 0x1000000000000000000000000000000000000000000000000000000000000000000026d00) rfl State.evBegin_moves)
      refine Moves.trans ?_ (Moves.mono (k := 0x6080) rfl State.bootError_moves)
      exact h4
    · refine ResMoves.next ?_
      refine Moves.cs ?_ rfl
      exact h5

theorem execSramSelfTestDone_moves {a0 : Bool} {a1 : Bool} {s : State} :
    ResMoves 0x6080 s (execSramSelfTestDone a0 a1 s) := by
  unfold execSramSelfTestDone
  extract_lets -underBinder -merge -useContext v0 v1 v2
  have h3 : Moves 0x6080 s v1 := by
    unfold v1
    refine Moves.ite ?_ ?_
    · exact Moves.refl
    · refine Moves.trans ?_ (Moves.mono (k := 0x6080) rfl State.bootError_moves)
      exact Moves.refl
  try clear_value v1
  refine ResMoves.ite ?_ ?_
  · refine ResMoves.next ?_
    exact Moves.refl
  · refine ResMoves.ite ?_ ?_
    · refine ResMoves.next ?_
      refine Moves.trans ?_ (Moves.mono (k := 0x80) rfl State.bootTo_moves)
      refine Moves.moKeep ?_ rfl rfl rfl rfl rfl
      exact Moves.refl
    · refine ResMoves.next ?_
      refine Moves.moKeep ?_ rfl rfl rfl rfl rfl
      exact h3

theorem execVddCoreLow_moves {s : State} :
    ResMoves 0x7f00100000000000000000000000000000000000000000000010f030f010f03030304fffffec0 s (execVddCoreLow s) := by
  unfold execVddCoreLow
  extract_lets -underBinder -merge -useContext v0 v1 v2
  have h3 : Moves 0x7f00100000000000000000000000000000000000000000000010f030f010f03030304fffffec0 s v2 := by
    unfold v2
    refine Moves.trans ?_ (Moves.mono (k := 0x7f00100000000000000000000000000000000000000000000010f030f010f03030304fffffec0) rfl State.cleared_moves)
    exact Moves.refl
  try clear_value v2
  refine ResMoves.ite ?_ ?_
  · refine ResMoves.next ?_
    exact Moves.refl
  · refine ResMoves.next ?_
    refine Moves.mo ?_ rfl rfl
    exact h3

theorem execVddKeepApplied_moves {s : State} :
    ResMoves 0x100000000000000000000000000000000000000000000010f030f010f0303030680000180 s (execVddKeepApplied s) := by
  unfold execVddKeepApplied
  extract_lets -underBinder -merge -useContext v0 v1
  have h2 : Moves 0x100000000000000000000000000000000000000000000010f030f010f0303030680000180 s v0 := by
    unfold v0
    refine Moves.trans ?_ (Moves.mono (k := 0x100000000000000000000000000000000000000000000010f030f010f0303030680000100) rfl State.keeperReset_moves)
    exact Moves.refl
  try clear_value v0
  refine ResMoves.ite ?_ ?_
  · refine ResMoves.next ?_
    exact Moves.refl
  · refine ResMoves.next ?_
    refine Moves.moKeep ?_ rfl rfl rfl rfl rfl
    exact h2

theorem execVddKeepLoss_moves {s : State} :
    ResMoves 0x100000000000000000000000000000000000000000000010f030f010f0303030680000180 s (execVddKeepLoss s) := by
  unfold execVddKeepLoss
  extract_lets -underBinder -merge -useContext v0 v1
  have h2 : Moves 0x100000000000000000000000000000000000000000000010f030f010f0303030680000180 s v0 := by
    unfold v0
    refine Moves.trans ?_ (Moves.mono (k := 0x100000000000000000000000000000000000000000000010f030f010f0303030680000100) rfl State.keeperReset_moves)
    exact Moves.refl
  try clear_value v0
  refine ResMoves.next ?_
  refine Moves.moKeep ?_ rfl rfl rfl rfl rfl
  exact h2

end Sys2Proof.Machine
end

