-- ==== Sys2Proof/Laws/FramePass.lean ====
section
/-! SUPPORT. What every definition of Machine/Pass.lean may change (masks over `Part.bit`), one lemma each. -/

namespace Sys2Proof.Machine

open Sys2Proof

theorem State.atCommit_moves {m : Nat} (hm : sub 0x200 m = true) {s : State} {start : Nat} {f : State → State}
    (hf : ∀ st, Moves m st (f st)) : Moves m s (State.atCommit s start f) := by
  unfold State.atCommit
  exact State.clocksRound_moves hm hf

theorem State.passCommit_moves {s : State} {a0 : Nat} :
    Moves 0x1000000115080 s (State.passCommit s a0) := by
  unfold State.passCommit
  extract_lets -underBinder -merge -useContext v0 v1 v2 v3 v4 v5
  try clear_value v0
  try clear_value v1
  have h6 : Moves 0x1000000115080 s v2 := by
    unfold v2
    refine Moves.foldl ?_ (fun st7 a8 => ?_)
    · exact Moves.refl
    · refine Moves.trans ?_ (Moves.mono (k := 0x1000000000000) rfl State.showEl_moves)
      refine Moves.ite ?_ ?_
      · refine Moves.trans ?_ (Moves.mono (k := 0x1000000114000) rfl State.handEl_moves)
        exact Moves.refl
      · refine Moves.trans ?_ (Moves.mono (k := 0x1000000114000) rfl State.handEl_moves)
        exact Moves.refl
  try clear_value v2
  try clear_value v4
  try clear_value v5
  refine Moves.upd (x := v2) ?_ (fun p hp => by cases p <;> first | rfl | exact ⟨rfl, rfl⟩ | exact ⟨rfl, rfl, rfl⟩ | exact ⟨rfl, rfl, rfl, rfl⟩ | exact fun _ => List.prefix_rfl | exact List.prefix_rfl | exact fun _ h _ => h | exact fun _ _ => rfl | exact absurd hp (by decide)) rfl rfl rfl rfl rfl
  exact h6

theorem State.pass_moves {s : State} {a0 : List Nat} :
    Moves 0x1000100000000000000000000000000000000000000000000010f030f010f03030306deff7fc0 s (State.pass s a0) := by
  unfold State.pass
  extract_lets -underBinder -merge -useContext v0 v1 v2 v3 v4 v5 v6 v7
  try clear_value v0
  have h8 : Moves 0x1000100000000000000000000000000000000000000000000010f030f010f03030306deff7fc0 s v1 := by
    unfold v1
    refine Moves.trans ?_ (Moves.mono (k := 0x1000100000000000000000000000000000000000000000000010f030f010f03030306deff7f40) rfl State.passTake_moves)
    exact Moves.refl
  try clear_value v1
  have h9 : Moves 0x1000100000000000000000000000000000000000000000000010f030f010f03030306deff7fc0 s v2 := by
    unfold v2
    refine Moves.trans ?_ (Moves.mono (k := 0x1000000000000000000000000000000000000000000000000000000000002000000206c00) rfl State.xinResets_moves)
    refine Moves.trans ?_ (Moves.mono (k := 0x3000000000000) rfl State.takeSinks_moves)
    exact h8
  try clear_value v2
  have h10 : Moves 0x1000100000000000000000000000000000000000000000000010f030f010f03030306deff7fc0 s v3 := by
    unfold v3
    refine Moves.foldl ?_ (fun st11 a12 => ?_)
    · exact h9
    · refine Moves.trans ?_ (Moves.mono (k := 0x1000000000000000000000000000000000000000000000000000000000000020000086c00) rfl State.trackUpdate_moves)
      exact Moves.refl
  try clear_value v3
  have h13 : Moves 0x1000100000000000000000000000000000000000000000000010f030f010f03030306deff7fc0 s v4 := by
    unfold v4
    refine Moves.foldl ?_ (fun st14 a15 => ?_)
    · refine Moves.foldl ?_ (fun st16 a17 => ?_)
      · exact h10
      · refine Moves.trans ?_ (Moves.mono (k := 0x1000000000000000000000000000000000000000000000000000000000002000000206c00) rfl State.posStep_moves)
        exact Moves.refl
    · refine Moves.trans ?_ (Moves.mono (k := 0x1000000000000000000000000000000000000000000000000000000000002000000206c00) rfl State.zoneStep_moves)
      exact Moves.refl
  try clear_value v4
  have h18 : Moves 0x1000100000000000000000000000000000000000000000000010f030f010f03030306deff7fc0 s v5 := by
    unfold v5
    refine Moves.trans ?_ (Moves.mono (k := 0x100000) rfl evalStage_moves)
    refine Moves.trans ?_ (Moves.mono (k := 0x100000) rfl evalStage_moves)
    exact h13
  try clear_value v5
  have h19 : Moves 0x1000100000000000000000000000000000000000000000000010f030f010f03030306deff7fc0 s v6 := by
    unfold v6
    refine Moves.trans ?_ (Moves.mono (k := 0x1000000114000) rfl State.fastBlocks_moves)
    refine Moves.trans ?_ (Moves.mono (k := 0x1000000115080) rfl State.passCommit_moves)
    exact h18
  try clear_value v6
  have h20 : Moves 0x1000100000000000000000000000000000000000000000000010f030f010f03030306deff7fc0 s v7 := by
    unfold v7
    refine Moves.trans ?_ (State.atCommit_moves rfl (fun st21 => ?_))
    · exact h19
    · refine Moves.trans ?_ (Moves.mono (k := 0x1000000000000000000000000000000000000000000000000000000000002000040a16c00) rfl State.tmStep_moves)
      exact Moves.refl
  try clear_value v7
  refine Moves.ite ?_ ?_
  · refine Moves.trans ?_ (Moves.mono (k := 0x4000000) rfl State.flpHeartbeat_moves)
    exact h20
  · exact h20

theorem execArcLightChange_moves {a0 : Nat} {a1 : Bool} {s : State} :
    ResMoves 0x1100100000000000000000000000000000000000000000000000001000103030301027ffffca0 s (execArcLightChange a0 a1 s) := by
  unfold execArcLightChange
  extract_lets -underBinder -merge -useContext v0 v1
  try clear_value v0
  have h2 : Moves 0x1100100000000000000000000000000000000000000000000000001000103030301027ffffca0 s v1 := by
    unfold v1
    refine Moves.trans ?_ (Moves.mono (k := 0x1000000000000000000000000000000000000000000000000000000000003010040b16c00) rfl State.arcSet_moves)
    exact Moves.refl
  try clear_value v1
  refine ResMoves.ite ?_ ?_
  · refine ResMoves.next ?_
    refine Moves.ite ?_ ?_
    · refine Moves.trans ?_ (Moves.mono (k := 0x1100100000000000000000000000000000000000000000000000001000103030000027fdffca0) rfl State.wakeBy_moves)
      exact h2
    · exact h2
  · refine ResMoves.next ?_
    exact Moves.refl

theorem execAxisSample_moves {s : State} :
    ResMoves 0x1000100000000000000000000000000000000000000000000010f030f010f03030306deff7f60 s (execAxisSample s) := by
  unfold execAxisSample
  extract_lets -underBinder -merge -useContext v0 v1 v2
  try clear_value v0
  have h3 : Moves 0x1000100000000000000000000000000000000000000000000010f030f010f03030306deff7f60 s v1 := by
    unfold v1
    refine Moves.trans ?_ (Moves.mono (k := 0x1000100000000000000000000000000000000000000000000010f030f010f03030306deff7f40) rfl State.sampleTake_moves)
    exact Moves.refl
  try clear_value v1
  try clear_value v2
  refine ResMoves.ite ?_ ?_
  · refine ResMoves.next ?_
    refine Moves.trans ?_ (Moves.mono (k := 0x10001000000000000000000000000000000000000000000000000000000000200000002407c20) rfl State.axisSamples_moves)
    refine Moves.le ?_ rfl
    exact h3
  · refine ResMoves.next ?_
    exact Moves.refl

theorem execDirectTripComparatorSwitch_moves {a0 : Nat} {a1 : Bool} {s : State} :
    ResMoves 0x1100100000000000000000000000000000000000000000000000001000103030001027fdffca0 s (execDirectTripComparatorSwitch a0 a1 s) := by
  unfold execDirectTripComparatorSwitch
  extract_lets -underBinder -merge -useContext v0
  have h1 : Moves 0x1100100000000000000000000000000000000000000000000000001000103030001027fdffca0 s v0 := by
    unfold v0
    refine Moves.trans ?_ (Moves.mono (k := 0x1000000000000000000000000000000000000000000000000010000000000010004046c00) rfl State.dtripSet_moves)
    exact Moves.refl
  try clear_value v0
  refine ResMoves.ite ?_ ?_
  · refine ResMoves.next ?_
    refine Moves.ite ?_ ?_
    · refine Moves.trans ?_ (Moves.mono (k := 0x1100100000000000000000000000000000000000000000000000001000103030000027fdffca0) rfl State.wakeBy_moves)
      exact h1
    · exact h1
  · refine ResMoves.next ?_
    exact Moves.refl

theorem execFastSample_moves {a0 : Nat} {a1 : Nat} {s : State} :
    ResMoves 0x1000000000000000000000000000000000000000000000000000000000003020040bd6c00 s (execFastSample a0 a1 s) := by
  unfold execFastSample
  extract_lets -underBinder -merge -useContext v0 v1 v2
  have h3 : Moves 0x1000000000000000000000000000000000000000000000000000000000003020040bd6c00 s v0 := by
    unfold v0
    refine Moves.trans ?_ (Moves.mono (k := 0x200000c0000) rfl State.fastDeliver_moves)
    exact Moves.refl
  try clear_value v0
  try clear_value v1
  have h4 : Moves 0x1000000000000000000000000000000000000000000000000000000000003020040bd6c00 s v2 := by
    unfold v2
    refine Moves.trans ?_ (Moves.mono (k := 0x10000) rfl State.drFast_moves)
    exact h3
  try clear_value v2
  refine ResMoves.ite ?_ ?_
  · refine ResMoves.next ?_
    exact Moves.refl
  · refine ResMoves.next ?_
    refine Moves.ite ?_ ?_
    · refine Moves.trans ?_ (Moves.mono (k := 0x1000000000000000000000000000000000000000000000000000000000002000040a16c00) rfl State.tmStep_moves)
      refine Moves.trans ?_ (Moves.mono (k := 0x1000000114000) rfl State.fastBlocks_moves)
      refine Moves.trans ?_ (Moves.mono (k := 0x200000) rfl State.brkSample_moves)
      refine Moves.trans ?_ (Moves.mono (k := 0x1000000114000) rfl State.fastElems_moves)
      exact h4
    · exact h4

theorem execFineSample_moves {a0 : Nat} {a1 : Nat} {s : State} :
    ResMoves 0x200402d0000 s (execFineSample a0 a1 s) := by
  unfold execFineSample
  extract_lets -underBinder -merge -useContext v0
  have h1 : Moves 0x200402d0000 s v0 := by
    unfold v0
    refine Moves.trans ?_ (Moves.mono (k := 0x200000c0000) rfl State.fineDeliver_moves)
    exact Moves.refl
  try clear_value v0
  refine ResMoves.ite ?_ ?_
  · refine ResMoves.next ?_
    exact Moves.refl
  · split
    · extract_lets -underBinder -merge -useContext v2
      have h3 : Moves 0x200402d0000 s v2 := by
        unfold v2
        refine Moves.trans ?_ (Moves.mono (k := 0x10000) rfl State.drFine_moves)
        exact h1
      try clear_value v2
      refine ResMoves.next ?_
      refine Moves.ite ?_ ?_
      · refine Moves.trans ?_ (Moves.mono (k := 0x40200000) rfl State.zoneFine_moves)
        exact h3
      · exact h3
    · refine ResMoves.next ?_
      exact h1

theorem execLoopSample_moves {s : State} :
    ResMoves 0x1000100000000000000000000000000000000000000000000010f030f010f03030306deff7f60 s (execLoopSample s) := by
  unfold execLoopSample
  extract_lets -underBinder -merge -useContext v0 v1 v2
  try clear_value v0
  have h3 : Moves 0x1000100000000000000000000000000000000000000000000010f030f010f03030306deff7f60 s v1 := by
    unfold v1
    refine Moves.trans ?_ (Moves.mono (k := 0x1000100000000000000000000000000000000000000000000010f030f010f03030306deff7f40) rfl State.sampleTake_moves)
    exact Moves.refl
  try clear_value v1
  try clear_value v2
  refine ResMoves.ite ?_ ?_
  · refine ResMoves.next ?_
    refine Moves.trans ?_ (Moves.mono (k := 0x10001000000000000000000000000000000000000000000000000000000000100000002407c20) rfl State.loopSamples_moves)
    refine Moves.le ?_ rfl
    exact h3
  · refine ResMoves.next ?_
    exact Moves.refl

theorem execProtectionPass_moves {a0 : List Nat} {s : State} :
    ResMoves 0x1000100000000000000000000000000000000000000000000010f030f010f03030306deff7fc0 s (execProtectionPass a0 s) := by
  unfold execProtectionPass
  refine ResMoves.ite ?_ ?_
  · refine ResMoves.next ?_
    refine Moves.trans ?_ (Moves.mono (k := 0x1000100000000000000000000000000000000000000000000010f030f010f03030306deff7fc0) rfl State.pass_moves)
    exact Moves.refl
  · refine ResMoves.next ?_
    exact Moves.refl

theorem execWakeComparatorSwitch_moves {a0 : Nat} {s : State} :
    ResMoves 0x1100100000000000000000000000000000000000000000000000001000103030001027fdffca0 s (execWakeComparatorSwitch a0 s) := by
  unfold execWakeComparatorSwitch
  refine ResMoves.ite ?_ ?_
  · refine ResMoves.next ?_
    refine Moves.trans ?_ (Moves.mono (k := 0x1100100000000000000000000000000000000000000000000000001000103030000027fdffca0) rfl State.wakeBy_moves)
    refine Moves.wr ?_ rfl
    exact Moves.refl
  · refine ResMoves.next ?_
    exact Moves.refl

end Sys2Proof.Machine
end

