-- ==== Sys2Proof/Laws/FrameTick.lean ====
section
/-! SUPPORT. What every definition of Machine/Tick.lean may change (masks over `Part.bit`), one lemma each. -/

namespace Sys2Proof.Machine

open Sys2Proof

theorem State.clocks_moves {s : State} :
    Moves 0x310 s (State.clocks s) := by
  unfold State.clocks
  refine Moves.upd (x := s) ?_ (fun p hp => by cases p <;> first | rfl | exact ⟨rfl, rfl⟩ | exact ⟨rfl, rfl, rfl⟩ | exact ⟨rfl, rfl, rfl, rfl⟩ | exact fun _ => List.prefix_rfl | exact List.prefix_rfl | exact fun _ h _ => h | exact fun _ _ => rfl | exact absurd hp (by decide)) rfl rfl rfl rfl rfl
  exact Moves.refl

theorem State.tick_moves {s : State} :
    Moves 0x11001000000000000000000000000000000000000000000000000010000030302010056ed7f90 s (State.tick s) := by
  unfold State.tick
  extract_lets -underBinder -merge -useContext v0 v1 v2
  have h3 : Moves 0x11001000000000000000000000000000000000000000000000000010000030302010056ed7f90 s v0 := by
    unfold v0
    refine Moves.trans ?_ (Moves.mono (k := 0x401000) rfl State.scanShow_moves)
    refine Moves.trans ?_ (Moves.mono (k := 0x1000000000000000000000000000000000000000000000000000000000002000040a16c00) rfl State.tmStep_moves)
    refine Moves.trans ?_ (Moves.mono (k := 0x100000c0000) rfl State.coresDue_moves)
    refine Moves.trans ?_ (Moves.mono (k := 0x1000000000000000000000000000000000000000000000000000000000000000000000800) rfl State.sendWaiting_moves)
    refine Moves.trans ?_ (Moves.mono (k := 0x310) rfl State.clocks_moves)
    exact Moves.refl
  try clear_value v0
  have h4 : Moves 0x11001000000000000000000000000000000000000000000000000010000030302010056ed7f90 s v1 := by
    unfold v1
    refine Moves.ite ?_ ?_
    · exact h3
    · refine Moves.trans ?_ (Moves.mono (k := 0x10000) rfl State.drGrid_moves)
      exact h3
  try clear_value v1
  have h5 : Moves 0x11001000000000000000000000000000000000000000000000000010000030302010056ed7f90 s v2 := by
    unfold v2
    refine Moves.ite ?_ ?_
    · refine Moves.trans ?_ (Moves.mono (k := 0x10000000010000000) rfl State.busyRoll_moves)
      exact h4
    · exact h4
  try clear_value v2
  refine Moves.ite ?_ ?_
  · refine Moves.trans ?_ (Moves.mono (k := 0x11001000000000000000000000000000000000000000000000000010000020300000006cd7c80) rfl State.modeBoundary_moves)
    exact h5
  · exact h5

end Sys2Proof.Machine
end

