-- ==== Sys2Proof/Laws/FrameStep.lean ====
section
/-! SUPPORT. What every definition of Machine/Step.lean may change (masks over `Part.bit`), one lemma each. -/

namespace Sys2Proof.Machine

open Sys2Proof

theorem State.withFetchWord_moves {s : State} {a0 : Nat} {a1 : Nat} :
    Moves 0x8 s (State.withFetchWord s a0 a1) := by
  unfold State.withFetchWord
  split
  · refine Moves.pending ?_ rfl
    exact Moves.refl
  · exact Moves.refl

end Sys2Proof.Machine
end

