-- ==== Sys2Proof/Laws/State.lean ====
section
/-! SUPPORT. Register words and fields: what a write of one leaves of the rest of the state, what it reads back, and what it
leaves of other words and fields. -/

namespace Sys2Proof.Machine

open Sys2Proof

/-! A register write changes nothing but the register table. -/

@[simp] theorem State.putWord_var (s : State) (u g i w : Nat) (v : W32) : (s.putWord u g i w v).var = s.var := rfl
@[simp] theorem State.putWord_serial (s : State) (u g i w : Nat) (v : W32) : (s.putWord u g i w v).serial = s.serial := rfl
@[simp] theorem State.putWord_elapsed (s : State) (u g i w : Nat) (v : W32) : (s.putWord u g i w v).elapsed = s.elapsed := rfl
@[simp] theorem State.putWord_mo (s : State) (u g i w : Nat) (v : W32) : (s.putWord u g i w v).mo = s.mo := rfl
@[simp] theorem State.putWord_kp (s : State) (u g i w : Nat) (v : W32) : (s.putWord u g i w v).kp = s.kp := rfl
@[simp] theorem State.putWord_tu (s : State) (u g i w : Nat) (v : W32) : (s.putWord u g i w v).tu = s.tu := rfl
@[simp] theorem State.putWord_mb (s : State) (u g i w : Nat) (v : W32) : (s.putWord u g i w v).mb = s.mb := rfl
@[simp] theorem State.putWord_he (s : State) (u g i w : Nat) (v : W32) : (s.putWord u g i w v).he = s.he := rfl
@[simp] theorem State.putWord_sb (s : State) (u g i w : Nat) (v : W32) : (s.putWord u g i w v).sb = s.sb := rfl
@[simp] theorem State.putWord_ec (s : State) (u g i w : Nat) (v : W32) : (s.putWord u g i w v).ec = s.ec := rfl
@[simp] theorem State.putWord_ev (s : State) (u g i w : Nat) (v : W32) : (s.putWord u g i w v).ev = s.ev := rfl
@[simp] theorem State.putWord_ch (s : State) (u g i w : Nat) (v : W32) : (s.putWord u g i w v).ch = s.ch := rfl
@[simp] theorem State.putWord_dr (s : State) (u g i w : Nat) (v : W32) : (s.putWord u g i w v).dr = s.dr := rfl
@[simp] theorem State.putWord_ar (s : State) (u g i w : Nat) (v : W32) : (s.putWord u g i w v).ar = s.ar := rfl
@[simp] theorem State.putWord_sc (s : State) (u g i w : Nat) (v : W32) : (s.putWord u g i w v).sc = s.sc := rfl
@[simp] theorem State.putWord_af (s : State) (u g i w : Nat) (v : W32) : (s.putWord u g i w v).af = s.af := rfl
@[simp] theorem State.putWord_fc (s : State) (u g i w : Nat) (v : W32) : (s.putWord u g i w v).fc = s.fc := rfl
@[simp] theorem State.putWord_pe (s : State) (u g i w : Nat) (v : W32) : (s.putWord u g i w v).pe = s.pe := rfl
@[simp] theorem State.putWord_tm (s : State) (u g i w : Nat) (v : W32) : (s.putWord u g i w v).tm = s.tm := rfl
@[simp] theorem State.putWord_pd (s : State) (u g i w : Nat) (v : W32) : (s.putWord u g i w v).pd = s.pd := rfl
@[simp] theorem State.putWord_um (s : State) (u g i w : Nat) (v : W32) : (s.putWord u g i w v).um = s.um := rfl
@[simp] theorem State.putWord_rp (s : State) (u g i w : Nat) (v : W32) : (s.putWord u g i w v).rp = s.rp := rfl
@[simp] theorem State.putWord_le (s : State) (u g i w : Nat) (v : W32) : (s.putWord u g i w v).le = s.le := rfl
@[simp] theorem State.putWord_fd (s : State) (u g i w : Nat) (v : W32) : (s.putWord u g i w v).fd = s.fd := rfl
@[simp] theorem State.putWord_sf (s : State) (u g i w : Nat) (v : W32) : (s.putWord u g i w v).sf = s.sf := rfl
@[simp] theorem State.putWord_lg (s : State) (u g i w : Nat) (v : W32) : (s.putWord u g i w v).lg = s.lg := rfl
@[simp] theorem State.putWord_cs (s : State) (u g i w : Nat) (v : W32) : (s.putWord u g i w v).cs = s.cs := rfl
@[simp] theorem State.putWord_rb (s : State) (u g i w : Nat) (v : W32) : (s.putWord u g i w v).rb = s.rb := rfl
@[simp] theorem State.putWord_staged (s : State) (u g i w : Nat) (v : W32) : (s.putWord u g i w v).staged = s.staged := rfl
@[simp] theorem State.putWord_free (s : State) (u g i w : Nat) (v : W32) : (s.putWord u g i w v).free = s.free := rfl
@[simp] theorem State.putWord_pending (s : State) (u g i w : Nat) (v : W32) : (s.putWord u g i w v).pending = s.pending := rfl

@[simp] theorem State.wrk_var (s : State) (f : Field) (i k v : Nat) : (s.wrk f i k v).var = s.var := rfl
@[simp] theorem State.wrk_serial (s : State) (f : Field) (i k v : Nat) : (s.wrk f i k v).serial = s.serial := rfl
@[simp] theorem State.wrk_elapsed (s : State) (f : Field) (i k v : Nat) : (s.wrk f i k v).elapsed = s.elapsed := rfl
@[simp] theorem State.wrk_mo (s : State) (f : Field) (i k v : Nat) : (s.wrk f i k v).mo = s.mo := rfl
@[simp] theorem State.wrk_kp (s : State) (f : Field) (i k v : Nat) : (s.wrk f i k v).kp = s.kp := rfl
@[simp] theorem State.wrk_tu (s : State) (f : Field) (i k v : Nat) : (s.wrk f i k v).tu = s.tu := rfl
@[simp] theorem State.wrk_mb (s : State) (f : Field) (i k v : Nat) : (s.wrk f i k v).mb = s.mb := rfl
@[simp] theorem State.wrk_he (s : State) (f : Field) (i k v : Nat) : (s.wrk f i k v).he = s.he := rfl
@[simp] theorem State.wrk_sb (s : State) (f : Field) (i k v : Nat) : (s.wrk f i k v).sb = s.sb := rfl
@[simp] theorem State.wrk_ec (s : State) (f : Field) (i k v : Nat) : (s.wrk f i k v).ec = s.ec := rfl
@[simp] theorem State.wrk_ev (s : State) (f : Field) (i k v : Nat) : (s.wrk f i k v).ev = s.ev := rfl
@[simp] theorem State.wrk_ch (s : State) (f : Field) (i k v : Nat) : (s.wrk f i k v).ch = s.ch := rfl
@[simp] theorem State.wrk_dr (s : State) (f : Field) (i k v : Nat) : (s.wrk f i k v).dr = s.dr := rfl
@[simp] theorem State.wrk_ar (s : State) (f : Field) (i k v : Nat) : (s.wrk f i k v).ar = s.ar := rfl
@[simp] theorem State.wrk_sc (s : State) (f : Field) (i k v : Nat) : (s.wrk f i k v).sc = s.sc := rfl
@[simp] theorem State.wrk_af (s : State) (f : Field) (i k v : Nat) : (s.wrk f i k v).af = s.af := rfl
@[simp] theorem State.wrk_fc (s : State) (f : Field) (i k v : Nat) : (s.wrk f i k v).fc = s.fc := rfl
@[simp] theorem State.wrk_pe (s : State) (f : Field) (i k v : Nat) : (s.wrk f i k v).pe = s.pe := rfl
@[simp] theorem State.wrk_tm (s : State) (f : Field) (i k v : Nat) : (s.wrk f i k v).tm = s.tm := rfl
@[simp] theorem State.wrk_pd (s : State) (f : Field) (i k v : Nat) : (s.wrk f i k v).pd = s.pd := rfl
@[simp] theorem State.wrk_um (s : State) (f : Field) (i k v : Nat) : (s.wrk f i k v).um = s.um := rfl
@[simp] theorem State.wrk_rp (s : State) (f : Field) (i k v : Nat) : (s.wrk f i k v).rp = s.rp := rfl
@[simp] theorem State.wrk_le (s : State) (f : Field) (i k v : Nat) : (s.wrk f i k v).le = s.le := rfl
@[simp] theorem State.wrk_fd (s : State) (f : Field) (i k v : Nat) : (s.wrk f i k v).fd = s.fd := rfl
@[simp] theorem State.wrk_sf (s : State) (f : Field) (i k v : Nat) : (s.wrk f i k v).sf = s.sf := rfl
@[simp] theorem State.wrk_lg (s : State) (f : Field) (i k v : Nat) : (s.wrk f i k v).lg = s.lg := rfl
@[simp] theorem State.wrk_cs (s : State) (f : Field) (i k v : Nat) : (s.wrk f i k v).cs = s.cs := rfl
@[simp] theorem State.wrk_rb (s : State) (f : Field) (i k v : Nat) : (s.wrk f i k v).rb = s.rb := rfl
@[simp] theorem State.wrk_staged (s : State) (f : Field) (i k v : Nat) : (s.wrk f i k v).staged = s.staged := rfl
@[simp] theorem State.wrk_free (s : State) (f : Field) (i k v : Nat) : (s.wrk f i k v).free = s.free := rfl
@[simp] theorem State.wrk_pending (s : State) (f : Field) (i k v : Nat) : (s.wrk f i k v).pending = s.pending := rfl

@[simp] theorem State.wr_var (s : State) (f : Field) (i v : Nat) : (s.wr f i v).var = s.var := rfl
@[simp] theorem State.wr_serial (s : State) (f : Field) (i v : Nat) : (s.wr f i v).serial = s.serial := rfl
@[simp] theorem State.wr_elapsed (s : State) (f : Field) (i v : Nat) : (s.wr f i v).elapsed = s.elapsed := rfl
@[simp] theorem State.wr_mo (s : State) (f : Field) (i v : Nat) : (s.wr f i v).mo = s.mo := rfl
@[simp] theorem State.wr_kp (s : State) (f : Field) (i v : Nat) : (s.wr f i v).kp = s.kp := rfl
@[simp] theorem State.wr_tu (s : State) (f : Field) (i v : Nat) : (s.wr f i v).tu = s.tu := rfl
@[simp] theorem State.wr_mb (s : State) (f : Field) (i v : Nat) : (s.wr f i v).mb = s.mb := rfl
@[simp] theorem State.wr_he (s : State) (f : Field) (i v : Nat) : (s.wr f i v).he = s.he := rfl
@[simp] theorem State.wr_sb (s : State) (f : Field) (i v : Nat) : (s.wr f i v).sb = s.sb := rfl
@[simp] theorem State.wr_ec (s : State) (f : Field) (i v : Nat) : (s.wr f i v).ec = s.ec := rfl
@[simp] theorem State.wr_ev (s : State) (f : Field) (i v : Nat) : (s.wr f i v).ev = s.ev := rfl
@[simp] theorem State.wr_ch (s : State) (f : Field) (i v : Nat) : (s.wr f i v).ch = s.ch := rfl
@[simp] theorem State.wr_dr (s : State) (f : Field) (i v : Nat) : (s.wr f i v).dr = s.dr := rfl
@[simp] theorem State.wr_ar (s : State) (f : Field) (i v : Nat) : (s.wr f i v).ar = s.ar := rfl
@[simp] theorem State.wr_sc (s : State) (f : Field) (i v : Nat) : (s.wr f i v).sc = s.sc := rfl
@[simp] theorem State.wr_af (s : State) (f : Field) (i v : Nat) : (s.wr f i v).af = s.af := rfl
@[simp] theorem State.wr_fc (s : State) (f : Field) (i v : Nat) : (s.wr f i v).fc = s.fc := rfl
@[simp] theorem State.wr_pe (s : State) (f : Field) (i v : Nat) : (s.wr f i v).pe = s.pe := rfl
@[simp] theorem State.wr_tm (s : State) (f : Field) (i v : Nat) : (s.wr f i v).tm = s.tm := rfl
@[simp] theorem State.wr_pd (s : State) (f : Field) (i v : Nat) : (s.wr f i v).pd = s.pd := rfl
@[simp] theorem State.wr_um (s : State) (f : Field) (i v : Nat) : (s.wr f i v).um = s.um := rfl
@[simp] theorem State.wr_rp (s : State) (f : Field) (i v : Nat) : (s.wr f i v).rp = s.rp := rfl
@[simp] theorem State.wr_le (s : State) (f : Field) (i v : Nat) : (s.wr f i v).le = s.le := rfl
@[simp] theorem State.wr_fd (s : State) (f : Field) (i v : Nat) : (s.wr f i v).fd = s.fd := rfl
@[simp] theorem State.wr_sf (s : State) (f : Field) (i v : Nat) : (s.wr f i v).sf = s.sf := rfl
@[simp] theorem State.wr_lg (s : State) (f : Field) (i v : Nat) : (s.wr f i v).lg = s.lg := rfl
@[simp] theorem State.wr_cs (s : State) (f : Field) (i v : Nat) : (s.wr f i v).cs = s.cs := rfl
@[simp] theorem State.wr_rb (s : State) (f : Field) (i v : Nat) : (s.wr f i v).rb = s.rb := rfl
@[simp] theorem State.wr_staged (s : State) (f : Field) (i v : Nat) : (s.wr f i v).staged = s.staged := rfl
@[simp] theorem State.wr_free (s : State) (f : Field) (i v : Nat) : (s.wr f i v).free = s.free := rfl
@[simp] theorem State.wr_pending (s : State) (f : Field) (i v : Nat) : (s.wr f i v).pending = s.pending := rfl

@[simp] theorem State.setFlag_var (s : State) (f : Field) (i : Nat) (b : Bool) : (s.setFlag f i b).var = s.var := rfl
@[simp] theorem State.setFlag_serial (s : State) (f : Field) (i : Nat) (b : Bool) : (s.setFlag f i b).serial = s.serial := rfl
@[simp] theorem State.setFlag_elapsed (s : State) (f : Field) (i : Nat) (b : Bool) : (s.setFlag f i b).elapsed = s.elapsed := rfl
@[simp] theorem State.setFlag_mo (s : State) (f : Field) (i : Nat) (b : Bool) : (s.setFlag f i b).mo = s.mo := rfl
@[simp] theorem State.setFlag_kp (s : State) (f : Field) (i : Nat) (b : Bool) : (s.setFlag f i b).kp = s.kp := rfl
@[simp] theorem State.setFlag_tu (s : State) (f : Field) (i : Nat) (b : Bool) : (s.setFlag f i b).tu = s.tu := rfl
@[simp] theorem State.setFlag_mb (s : State) (f : Field) (i : Nat) (b : Bool) : (s.setFlag f i b).mb = s.mb := rfl
@[simp] theorem State.setFlag_he (s : State) (f : Field) (i : Nat) (b : Bool) : (s.setFlag f i b).he = s.he := rfl
@[simp] theorem State.setFlag_sb (s : State) (f : Field) (i : Nat) (b : Bool) : (s.setFlag f i b).sb = s.sb := rfl
@[simp] theorem State.setFlag_ec (s : State) (f : Field) (i : Nat) (b : Bool) : (s.setFlag f i b).ec = s.ec := rfl
@[simp] theorem State.setFlag_ev (s : State) (f : Field) (i : Nat) (b : Bool) : (s.setFlag f i b).ev = s.ev := rfl
@[simp] theorem State.setFlag_ch (s : State) (f : Field) (i : Nat) (b : Bool) : (s.setFlag f i b).ch = s.ch := rfl
@[simp] theorem State.setFlag_dr (s : State) (f : Field) (i : Nat) (b : Bool) : (s.setFlag f i b).dr = s.dr := rfl
@[simp] theorem State.setFlag_ar (s : State) (f : Field) (i : Nat) (b : Bool) : (s.setFlag f i b).ar = s.ar := rfl
@[simp] theorem State.setFlag_sc (s : State) (f : Field) (i : Nat) (b : Bool) : (s.setFlag f i b).sc = s.sc := rfl
@[simp] theorem State.setFlag_af (s : State) (f : Field) (i : Nat) (b : Bool) : (s.setFlag f i b).af = s.af := rfl
@[simp] theorem State.setFlag_fc (s : State) (f : Field) (i : Nat) (b : Bool) : (s.setFlag f i b).fc = s.fc := rfl
@[simp] theorem State.setFlag_pe (s : State) (f : Field) (i : Nat) (b : Bool) : (s.setFlag f i b).pe = s.pe := rfl
@[simp] theorem State.setFlag_tm (s : State) (f : Field) (i : Nat) (b : Bool) : (s.setFlag f i b).tm = s.tm := rfl
@[simp] theorem State.setFlag_pd (s : State) (f : Field) (i : Nat) (b : Bool) : (s.setFlag f i b).pd = s.pd := rfl
@[simp] theorem State.setFlag_um (s : State) (f : Field) (i : Nat) (b : Bool) : (s.setFlag f i b).um = s.um := rfl
@[simp] theorem State.setFlag_rp (s : State) (f : Field) (i : Nat) (b : Bool) : (s.setFlag f i b).rp = s.rp := rfl
@[simp] theorem State.setFlag_le (s : State) (f : Field) (i : Nat) (b : Bool) : (s.setFlag f i b).le = s.le := rfl
@[simp] theorem State.setFlag_fd (s : State) (f : Field) (i : Nat) (b : Bool) : (s.setFlag f i b).fd = s.fd := rfl
@[simp] theorem State.setFlag_sf (s : State) (f : Field) (i : Nat) (b : Bool) : (s.setFlag f i b).sf = s.sf := rfl
@[simp] theorem State.setFlag_lg (s : State) (f : Field) (i : Nat) (b : Bool) : (s.setFlag f i b).lg = s.lg := rfl
@[simp] theorem State.setFlag_cs (s : State) (f : Field) (i : Nat) (b : Bool) : (s.setFlag f i b).cs = s.cs := rfl
@[simp] theorem State.setFlag_rb (s : State) (f : Field) (i : Nat) (b : Bool) : (s.setFlag f i b).rb = s.rb := rfl
@[simp] theorem State.setFlag_staged (s : State) (f : Field) (i : Nat) (b : Bool) : (s.setFlag f i b).staged = s.staged := rfl
@[simp] theorem State.setFlag_free (s : State) (f : Field) (i : Nat) (b : Bool) : (s.setFlag f i b).free = s.free := rfl
@[simp] theorem State.setFlag_pending (s : State) (f : Field) (i : Nat) (b : Bool) : (s.setFlag f i b).pending = s.pending := rfl

@[simp] theorem State.bump_var (s : State) (f : Field) (i n : Nat) : (s.bump f i n).var = s.var := rfl
@[simp] theorem State.bump_serial (s : State) (f : Field) (i n : Nat) : (s.bump f i n).serial = s.serial := rfl
@[simp] theorem State.bump_elapsed (s : State) (f : Field) (i n : Nat) : (s.bump f i n).elapsed = s.elapsed := rfl
@[simp] theorem State.bump_mo (s : State) (f : Field) (i n : Nat) : (s.bump f i n).mo = s.mo := rfl
@[simp] theorem State.bump_kp (s : State) (f : Field) (i n : Nat) : (s.bump f i n).kp = s.kp := rfl
@[simp] theorem State.bump_tu (s : State) (f : Field) (i n : Nat) : (s.bump f i n).tu = s.tu := rfl
@[simp] theorem State.bump_mb (s : State) (f : Field) (i n : Nat) : (s.bump f i n).mb = s.mb := rfl
@[simp] theorem State.bump_he (s : State) (f : Field) (i n : Nat) : (s.bump f i n).he = s.he := rfl
@[simp] theorem State.bump_sb (s : State) (f : Field) (i n : Nat) : (s.bump f i n).sb = s.sb := rfl
@[simp] theorem State.bump_ec (s : State) (f : Field) (i n : Nat) : (s.bump f i n).ec = s.ec := rfl
@[simp] theorem State.bump_ev (s : State) (f : Field) (i n : Nat) : (s.bump f i n).ev = s.ev := rfl
@[simp] theorem State.bump_ch (s : State) (f : Field) (i n : Nat) : (s.bump f i n).ch = s.ch := rfl
@[simp] theorem State.bump_dr (s : State) (f : Field) (i n : Nat) : (s.bump f i n).dr = s.dr := rfl
@[simp] theorem State.bump_ar (s : State) (f : Field) (i n : Nat) : (s.bump f i n).ar = s.ar := rfl
@[simp] theorem State.bump_sc (s : State) (f : Field) (i n : Nat) : (s.bump f i n).sc = s.sc := rfl
@[simp] theorem State.bump_af (s : State) (f : Field) (i n : Nat) : (s.bump f i n).af = s.af := rfl
@[simp] theorem State.bump_fc (s : State) (f : Field) (i n : Nat) : (s.bump f i n).fc = s.fc := rfl
@[simp] theorem State.bump_pe (s : State) (f : Field) (i n : Nat) : (s.bump f i n).pe = s.pe := rfl
@[simp] theorem State.bump_tm (s : State) (f : Field) (i n : Nat) : (s.bump f i n).tm = s.tm := rfl
@[simp] theorem State.bump_pd (s : State) (f : Field) (i n : Nat) : (s.bump f i n).pd = s.pd := rfl
@[simp] theorem State.bump_um (s : State) (f : Field) (i n : Nat) : (s.bump f i n).um = s.um := rfl
@[simp] theorem State.bump_rp (s : State) (f : Field) (i n : Nat) : (s.bump f i n).rp = s.rp := rfl
@[simp] theorem State.bump_le (s : State) (f : Field) (i n : Nat) : (s.bump f i n).le = s.le := rfl
@[simp] theorem State.bump_fd (s : State) (f : Field) (i n : Nat) : (s.bump f i n).fd = s.fd := rfl
@[simp] theorem State.bump_sf (s : State) (f : Field) (i n : Nat) : (s.bump f i n).sf = s.sf := rfl
@[simp] theorem State.bump_lg (s : State) (f : Field) (i n : Nat) : (s.bump f i n).lg = s.lg := rfl
@[simp] theorem State.bump_cs (s : State) (f : Field) (i n : Nat) : (s.bump f i n).cs = s.cs := rfl
@[simp] theorem State.bump_rb (s : State) (f : Field) (i n : Nat) : (s.bump f i n).rb = s.rb := rfl
@[simp] theorem State.bump_staged (s : State) (f : Field) (i n : Nat) : (s.bump f i n).staged = s.staged := rfl
@[simp] theorem State.bump_free (s : State) (f : Field) (i n : Nat) : (s.bump f i n).free = s.free := rfl
@[simp] theorem State.bump_pending (s : State) (f : Field) (i n : Nat) : (s.bump f i n).pending = s.pending := rfl

@[simp] theorem State.wrapInc_var (s : State) (f : Field) (i n : Nat) : (s.wrapInc f i n).var = s.var := rfl
@[simp] theorem State.wrapInc_serial (s : State) (f : Field) (i n : Nat) : (s.wrapInc f i n).serial = s.serial := rfl
@[simp] theorem State.wrapInc_elapsed (s : State) (f : Field) (i n : Nat) : (s.wrapInc f i n).elapsed = s.elapsed := rfl
@[simp] theorem State.wrapInc_mo (s : State) (f : Field) (i n : Nat) : (s.wrapInc f i n).mo = s.mo := rfl
@[simp] theorem State.wrapInc_kp (s : State) (f : Field) (i n : Nat) : (s.wrapInc f i n).kp = s.kp := rfl
@[simp] theorem State.wrapInc_tu (s : State) (f : Field) (i n : Nat) : (s.wrapInc f i n).tu = s.tu := rfl
@[simp] theorem State.wrapInc_mb (s : State) (f : Field) (i n : Nat) : (s.wrapInc f i n).mb = s.mb := rfl
@[simp] theorem State.wrapInc_he (s : State) (f : Field) (i n : Nat) : (s.wrapInc f i n).he = s.he := rfl
@[simp] theorem State.wrapInc_sb (s : State) (f : Field) (i n : Nat) : (s.wrapInc f i n).sb = s.sb := rfl
@[simp] theorem State.wrapInc_ec (s : State) (f : Field) (i n : Nat) : (s.wrapInc f i n).ec = s.ec := rfl
@[simp] theorem State.wrapInc_ev (s : State) (f : Field) (i n : Nat) : (s.wrapInc f i n).ev = s.ev := rfl
@[simp] theorem State.wrapInc_ch (s : State) (f : Field) (i n : Nat) : (s.wrapInc f i n).ch = s.ch := rfl
@[simp] theorem State.wrapInc_dr (s : State) (f : Field) (i n : Nat) : (s.wrapInc f i n).dr = s.dr := rfl
@[simp] theorem State.wrapInc_ar (s : State) (f : Field) (i n : Nat) : (s.wrapInc f i n).ar = s.ar := rfl
@[simp] theorem State.wrapInc_sc (s : State) (f : Field) (i n : Nat) : (s.wrapInc f i n).sc = s.sc := rfl
@[simp] theorem State.wrapInc_af (s : State) (f : Field) (i n : Nat) : (s.wrapInc f i n).af = s.af := rfl
@[simp] theorem State.wrapInc_fc (s : State) (f : Field) (i n : Nat) : (s.wrapInc f i n).fc = s.fc := rfl
@[simp] theorem State.wrapInc_pe (s : State) (f : Field) (i n : Nat) : (s.wrapInc f i n).pe = s.pe := rfl
@[simp] theorem State.wrapInc_tm (s : State) (f : Field) (i n : Nat) : (s.wrapInc f i n).tm = s.tm := rfl
@[simp] theorem State.wrapInc_pd (s : State) (f : Field) (i n : Nat) : (s.wrapInc f i n).pd = s.pd := rfl
@[simp] theorem State.wrapInc_um (s : State) (f : Field) (i n : Nat) : (s.wrapInc f i n).um = s.um := rfl
@[simp] theorem State.wrapInc_rp (s : State) (f : Field) (i n : Nat) : (s.wrapInc f i n).rp = s.rp := rfl
@[simp] theorem State.wrapInc_le (s : State) (f : Field) (i n : Nat) : (s.wrapInc f i n).le = s.le := rfl
@[simp] theorem State.wrapInc_fd (s : State) (f : Field) (i n : Nat) : (s.wrapInc f i n).fd = s.fd := rfl
@[simp] theorem State.wrapInc_sf (s : State) (f : Field) (i n : Nat) : (s.wrapInc f i n).sf = s.sf := rfl
@[simp] theorem State.wrapInc_lg (s : State) (f : Field) (i n : Nat) : (s.wrapInc f i n).lg = s.lg := rfl
@[simp] theorem State.wrapInc_cs (s : State) (f : Field) (i n : Nat) : (s.wrapInc f i n).cs = s.cs := rfl
@[simp] theorem State.wrapInc_rb (s : State) (f : Field) (i n : Nat) : (s.wrapInc f i n).rb = s.rb := rfl
@[simp] theorem State.wrapInc_staged (s : State) (f : Field) (i n : Nat) : (s.wrapInc f i n).staged = s.staged := rfl
@[simp] theorem State.wrapInc_free (s : State) (f : Field) (i n : Nat) : (s.wrapInc f i n).free = s.free := rfl
@[simp] theorem State.wrapInc_pending (s : State) (f : Field) (i n : Nat) : (s.wrapInc f i n).pending = s.pending := rfl

@[simp] theorem State.drawn_var (s : State) : s.drawn.var = s.var := rfl
@[simp] theorem State.drawn_serial (s : State) : s.drawn.serial = s.serial := rfl
@[simp] theorem State.drawn_elapsed (s : State) : s.drawn.elapsed = s.elapsed := rfl
@[simp] theorem State.drawn_mo (s : State) : s.drawn.mo = s.mo := rfl
@[simp] theorem State.drawn_kp (s : State) : s.drawn.kp = s.kp := rfl
@[simp] theorem State.drawn_tu (s : State) : s.drawn.tu = s.tu := rfl
@[simp] theorem State.drawn_mb (s : State) : s.drawn.mb = s.mb := rfl
@[simp] theorem State.drawn_he (s : State) : s.drawn.he = s.he := rfl
@[simp] theorem State.drawn_sb (s : State) : s.drawn.sb = s.sb := rfl
@[simp] theorem State.drawn_ec (s : State) : s.drawn.ec = s.ec := rfl
@[simp] theorem State.drawn_ev (s : State) : s.drawn.ev = s.ev := rfl
@[simp] theorem State.drawn_ch (s : State) : s.drawn.ch = s.ch := rfl
@[simp] theorem State.drawn_dr (s : State) : s.drawn.dr = s.dr := rfl
@[simp] theorem State.drawn_ar (s : State) : s.drawn.ar = s.ar := rfl
@[simp] theorem State.drawn_sc (s : State) : s.drawn.sc = s.sc := rfl
@[simp] theorem State.drawn_af (s : State) : s.drawn.af = s.af := rfl
@[simp] theorem State.drawn_fc (s : State) : s.drawn.fc = s.fc := rfl
@[simp] theorem State.drawn_pe (s : State) : s.drawn.pe = s.pe := rfl
@[simp] theorem State.drawn_tm (s : State) : s.drawn.tm = s.tm := rfl
@[simp] theorem State.drawn_pd (s : State) : s.drawn.pd = s.pd := rfl
@[simp] theorem State.drawn_um (s : State) : s.drawn.um = s.um := rfl
@[simp] theorem State.drawn_rp (s : State) : s.drawn.rp = s.rp := rfl
@[simp] theorem State.drawn_le (s : State) : s.drawn.le = s.le := rfl
@[simp] theorem State.drawn_fd (s : State) : s.drawn.fd = s.fd := rfl
@[simp] theorem State.drawn_sf (s : State) : s.drawn.sf = s.sf := rfl
@[simp] theorem State.drawn_lg (s : State) : s.drawn.lg = s.lg := rfl
@[simp] theorem State.drawn_cs (s : State) : s.drawn.cs = s.cs := rfl
@[simp] theorem State.drawn_rb (s : State) : s.drawn.rb = s.rb := rfl
@[simp] theorem State.drawn_staged (s : State) : s.drawn.staged = s.staged := rfl
@[simp] theorem State.drawn_pending (s : State) : s.drawn.pending = s.pending := rfl
@[simp] theorem State.drawn_free (s : State) : s.drawn.free = s.free + 1 := rfl
@[simp] theorem State.drawn_regs (s : State) : s.drawn.regs = s.regs := rfl

/-! What a register write reads back. -/

theorem regKey_ne {u g i w u' g' i' w' : Nat} (h : u ≠ u' ∨ g % 256 ≠ g' % 256 ∨ i % 65536 ≠ i' % 65536 ∨ w % 4096 ≠ w' % 4096) :
    regKey u g i w ≠ regKey u' g' i' w' := by
  unfold regKey
  omega

theorem State.word_putWord_same {s : State} (hi : s.Inv) (u g i w : Nat) (v : W32) : (s.putWord u g i w v).word u g i w = v :=
  mget_mset_same _ v s.regs hi.1

theorem State.word_putWord_ne {s : State} (hi : s.Inv) {u g i w u' g' i' w' : Nat} (v : W32)
    (h : u' ≠ u ∨ g' % 256 ≠ g % 256 ∨ i' % 65536 ≠ i % 65536 ∨ w' % 4096 ≠ w % 4096) :
    (s.putWord u g i w v).word u' g' i' w' = s.word u' g' i' w' :=
  mget_mset_ne v (regKey_ne h) s.regs hi.1

theorem natBits_lt (n hi lo : Nat) : natBits n hi lo < 2 ^ (hi + 1 - lo) := Nat.mod_lt _ (Nat.two_pow_pos _)

theorem natPut_eq (n hi lo v : Nat) :
    natPut n hi lo v = n / 2 ^ lo / 2 ^ (hi + 1 - lo) * 2 ^ (hi + 1 - lo) * 2 ^ lo + v % 2 ^ (hi + 1 - lo) * 2 ^ lo + n % 2 ^ lo := by
  unfold natPut natBits
  have h1 := Nat.div_add_mod n (2 ^ lo)
  have h2 := Nat.div_add_mod (n / 2 ^ lo) (2 ^ (hi + 1 - lo))
  generalize 2 ^ lo = a at *
  generalize 2 ^ (hi + 1 - lo) = b at *
  generalize n / a = q at *
  generalize q / b = t at *
  generalize q % b = r at *
  generalize v % b = x
  subst h2
  have h3 : a * (b * t + r) = t * b * a + r * a := by ring
  omega

/-- A field reads back what was put there. -/
theorem natBits_natPut (n hi lo v : Nat) : natBits (natPut n hi lo v) hi lo = v % 2 ^ (hi + 1 - lo) := by
  rw [natPut_eq]
  unfold natBits
  have hb : 0 < 2 ^ (hi + 1 - lo) := Nat.two_pow_pos _
  have ha : 0 < 2 ^ lo := Nat.two_pow_pos _
  have hx : v % 2 ^ (hi + 1 - lo) < 2 ^ (hi + 1 - lo) := Nat.mod_lt _ hb
  have hr : n % 2 ^ lo < 2 ^ lo := Nat.mod_lt _ ha
  generalize 2 ^ lo = a at *
  generalize 2 ^ (hi + 1 - lo) = b at *
  generalize n / a / b = t
  generalize v % b = x at *
  generalize n % a = r at *
  have h : t * b * a + x * a + r = r + (t * b + x) * a := by ring
  rw [h, Nat.add_mul_div_right _ _ ha, Nat.div_eq_of_lt hr, Nat.zero_add, Nat.add_comm, Nat.add_mul_mod_self_right, Nat.mod_eq_of_lt hx]

theorem natPut_testBit_ne {n hi lo v j : Nat} (h : j < lo ∨ hi < j) (hl : lo ≤ hi + 1) : (natPut n hi lo v).testBit j = n.testBit j := by
  rw [natPut_eq]
  have hr : n % 2 ^ lo < 2 ^ lo := Nat.mod_lt _ (Nat.two_pow_pos _)
  have hx : v % 2 ^ (hi + 1 - lo) < 2 ^ (hi + 1 - lo) := Nat.mod_lt _ (Nat.two_pow_pos _)
  have e1 : n / 2 ^ lo / 2 ^ (hi + 1 - lo) * 2 ^ (hi + 1 - lo) * 2 ^ lo + v % 2 ^ (hi + 1 - lo) * 2 ^ lo + n % 2 ^ lo
      = 2 ^ lo * (2 ^ (hi + 1 - lo) * (n / 2 ^ lo / 2 ^ (hi + 1 - lo)) + v % 2 ^ (hi + 1 - lo)) + n % 2 ^ lo := by ring
  rw [e1, Nat.testBit_two_pow_mul_add _ hr]
  rcases h with h | h
  · rw [if_pos h, Nat.testBit_mod_two_pow]
    simp [h]
  · rw [if_neg (by omega), Nat.testBit_two_pow_mul_add _ hx, if_neg (by omega), Nat.testBit_div_two_pow, Nat.testBit_div_two_pow]
    congr 1
    omega

theorem natBits_testBit {n hi lo j : Nat} : (natBits n hi lo).testBit j = (decide (j < hi + 1 - lo) && n.testBit (lo + j)) := by
  unfold natBits
  rw [Nat.testBit_mod_two_pow, Nat.testBit_div_two_pow, Nat.add_comm j lo]

/-- A put leaves the fields beside it alone. -/
theorem natBits_natPut_ne {n hi lo v hi' lo' : Nat} (h : hi' < lo ∨ hi < lo') (hl : lo ≤ hi + 1) :
    natBits (natPut n hi lo v) hi' lo' = natBits n hi' lo' := by
  apply Nat.eq_of_testBit_eq
  intro j
  rw [natBits_testBit, natBits_testBit]
  by_cases hj : j < hi' + 1 - lo'
  · rw [natPut_testBit_ne (by omega) hl]
  · simp [hj]

theorem natPut_lt {n hi lo v m : Nat} (hn : n < 2 ^ m) (hm : hi < m) (hl : lo ≤ hi + 1) : natPut n hi lo v < 2 ^ m := by
  apply Nat.lt_pow_two_of_testBit
  intro j hj
  rw [natPut_testBit_ne (by omega) hl]
  exact Nat.testBit_lt_two_pow (Nat.lt_of_lt_of_le hn (Nat.pow_le_pow_right (by decide) hj))

theorem W32.get_put_same (w : W32) {hi lo : Nat} (v : Nat) (h : hi < 32) (hl : lo ≤ hi + 1) :
    (W32.put w hi lo v).get hi lo = v % 2 ^ (hi + 1 - lo) := by
  unfold W32.get W32.put
  rw [BitVec.toNat_ofNat, Nat.mod_eq_of_lt (natPut_lt w.isLt h hl), natBits_natPut]

theorem W32.get_put_ne (w : W32) {hi lo hi' lo' : Nat} (v : Nat) (h : hi < 32) (hl : lo ≤ hi + 1) (hd : hi' < lo ∨ hi < lo') :
    (W32.put w hi lo v).get hi' lo' = w.get hi' lo' := by
  unfold W32.get W32.put
  rw [BitVec.toNat_ofNat, Nat.mod_eq_of_lt (natPut_lt w.isLt h hl), natBits_natPut_ne hd hl]

/-- A field's bits lie in its word. -/
def Field.fits (f : Field) : Bool := decide (f.hi < 32) && decide (f.lo ≤ f.hi)

/-- A field that was set reads back. -/
theorem State.rdk_wrk_same {s : State} (hi : s.Inv) {f : Field} (hf : f.fits = true) (i k v : Nat) :
    (s.wrk f i k v).rdk f i k = v % 2 ^ (f.hi + 1 - f.lo) := by
  simp only [Field.fits, Bool.and_eq_true, decide_eq_true_eq] at hf
  unfold State.rdk State.wrk
  rw [State.word_putWord_same hi, W32.get_put_same _ _ hf.1 (by omega)]

theorem State.rd_wr_same {s : State} (hi : s.Inv) {f : Field} (hf : f.fits = true) (i v : Nat) :
    (s.wr f i v).rd f i = v % 2 ^ (f.hi + 1 - f.lo) := State.rdk_wrk_same hi hf i 0 v

theorem State.flag_setFlag_same {s : State} (hi : s.Inv) {f : Field} (hf : f.fits = true) (i : Nat) (b : Bool) :
    (s.setFlag f i b).flag f i = b := by
  unfold State.flag State.setFlag
  rw [State.rd_wr_same hi hf]
  simp only [Field.fits, Bool.and_eq_true, decide_eq_true_eq] at hf
  have : 2 ≤ 2 ^ (f.hi + 1 - f.lo) := by
    calc 2 = 2 ^ 1 := rfl
      _ ≤ 2 ^ (f.hi + 1 - f.lo) := Nat.pow_le_pow_right (by decide) (by omega)
  cases b
  · simp [b2n]
  · rw [Nat.mod_eq_of_lt (show b2n true < _ by simp [b2n]; omega)]
    rfl

/-- Two fields that no write of the one reaches the other: another word, or other bits of the same word. -/
def Field.apart (f g : Field) (i k j l : Nat) : Prop :=
  g.unit ≠ f.unit ∨ g.grp % 256 ≠ f.grp % 256 ∨ j % 65536 ≠ i % 65536 ∨ g.wordAt l % 4096 ≠ f.wordAt k % 4096 ∨ g.hi < f.lo ∨ f.hi < g.lo

theorem State.rdk_wrk_ne {s : State} (hi : s.Inv) {f g : Field} (hf : f.fits = true) {i k j l : Nat} (v : Nat) (h : f.apart g i k j l) :
    (s.wrk f i k v).rdk g j l = s.rdk g j l := by
  simp only [Field.fits, Bool.and_eq_true, decide_eq_true_eq] at hf
  unfold State.rdk State.wrk
  by_cases hk : g.unit ≠ f.unit ∨ g.grp % 256 ≠ f.grp % 256 ∨ j % 65536 ≠ i % 65536 ∨ g.wordAt l % 4096 ≠ f.wordAt k % 4096
  · rw [State.word_putWord_ne hi _ hk]
  · simp only [not_or, ne_eq, not_not] at hk
    obtain ⟨h1, h2, h3, h4⟩ := hk
    have hkey : regKey g.unit g.grp j (g.wordAt l) = regKey f.unit f.grp i (f.wordAt k) := by
      unfold regKey
      rw [h1, h2, h3, h4]
    have hw : ∀ t : State, t.word g.unit g.grp j (g.wordAt l) = t.word f.unit f.grp i (f.wordAt k) := fun t => by
      unfold State.word
      rw [hkey]
    rw [hw, hw, State.word_putWord_same hi, W32.get_put_ne _ _ hf.1 (by omega) (by
      rcases h with h | h | h | h | h | h
      · exact absurd h1 h
      · exact absurd h2 h
      · exact absurd h3 h
      · exact absurd h4 h
      · exact Or.inl h
      · exact Or.inr h)]

theorem State.rd_wr_ne {s : State} (hi : s.Inv) {f g : Field} (hf : f.fits = true) {i j : Nat} (v : Nat) (h : f.apart g i 0 j 0) :
    (s.wr f i v).rd g j = s.rd g j := State.rdk_wrk_ne hi hf v h

/-! The relation `Moves` at one kind of state, and at one register. -/

theorem Moves.inv {m : Nat} {s t : State} (h : Moves m s t) (hi : s.Inv) : t.Inv := (h hi).1

theorem Moves.keep {m : Nat} {s t : State} (h : Moves m s t) (hi : s.Inv) (p : Part) (hb : m.testBit p.bit = false) : p.kept s t :=
  (h hi).2.1 p hb

theorem Moves.word {m : Nat} {s t : State} (h : Moves m s t) (hi : s.Inv) {u : Nat} (hb : m.testBit (Part.regs u).bit = false)
    (g i w : Nat) : t.word u g i w = s.word u g i w :=
  (h.keep hi (.regs u) hb _ (regKey_unit u g i w)).symm

theorem Moves.rdk {m : Nat} {s t : State} (h : Moves m s t) (hi : s.Inv) {f : Field} (hb : m.testBit (Part.regs f.unit).bit = false)
    (i k : Nat) : t.rdk f i k = s.rdk f i k := by
  unfold State.rdk
  rw [h.word hi hb]

theorem Moves.rd {m : Nat} {s t : State} (h : Moves m s t) (hi : s.Inv) {f : Field} (hb : m.testBit (Part.regs f.unit).bit = false)
    (i : Nat) : t.rd f i = s.rd f i := h.rdk hi hb i 0

end Sys2Proof.Machine
end

