-- ==== Sys2Proof/Machine/Balls.lean ====
section
/-! DEFINITION. The states of the balls outside the work of their units (20_electrical_and_package.md, R554, Table 20.10). -/

namespace Sys2Proof.Machine

open Sys2Proof

/-- The groups of Table 20.10. -/
inductive BallGroup where
  | ain | arcIn | di | do_ | lane | sd | ar | hp | pwm | enc | tripAssert | wake
  deriving DecidableEq, Repr

/-- What a ball shows: no power (high impedance); 200 kΩ differential; 100 kΩ to AVSS; the sink of R414; off with the 100 kΩ pull-down;
transmitter off, receiver 100 Ω; SD_RESET_N and SD_CKE low; CE_N high and the strobes low; HP_D high impedance; driven low; an input
with its pull-down; released; and what its unit's chapter says. -/
inductive BallState where
  | unpowered | differential | toAvss | sink | offPullDown | laneOff | sdReset | arIdle | hpIdle | low | inputPull | released | owner
  deriving DecidableEq, Repr

/-- Balls that the variant lacks (Table 0.1), by instance: channels, lanes, archive channel, generators and encoders. -/
def State.ballAbsent (s : State) (g : BallGroup) (n : Nat) : Bool :=
  match g with
  | .ain => decide (s.byVar 64 32 16 ≤ n)
  | .lane => decide (s.byVar 20 12 8 ≤ n)
  | .ar => decide (s.byVar 2 1 1 ≤ n)
  | .pwm => s.var == .cpx9616
  | .enc => s.var == .cpx9616
  | _ => false

/-- The second column of Table 20.10. -/
def resetBall : BallGroup → BallState
  | .ain => .differential
  | .arcIn => .toAvss
  | .di => .sink
  | .do_ => .offPullDown
  | .lane => .laneOff
  | .sd => .sdReset
  | .ar => .arIdle
  | .hp => .hpIdle
  | .pwm => .low
  | .enc => .inputPull
  | .tripAssert => .released
  | .wake => .released

/-- The third column: KEEPER, and every time without main rails.  An output stays off; the wake controller drives WAKE_N. -/
def keeperBall : BallGroup → BallState
  | .do_ => .offPullDown
  | .wake => .owner
  | _ => .unpowered

/-- BOOT has not come to configuration apply: the second column goes on, except where the owning chapter says otherwise. -/
def State.beforeApply (s : State) : Bool := s.mo.mode == .boot && s.mo.boot != .protection && s.mo.boot != .done

/-- Groups whose chapter speaks of the time before configuration apply: lanes and SDRAM train, the firmware lies in NAND, the hot port
and the inputs are read, and the wake controller drives WAKE_N from release on. -/
def BallGroup.early : BallGroup → Bool
  | .di => true | .sd => true | .ar => true | .lane => true | .hp => true | .wake => true
  | _ => false

/-- The state of a ball (Table 20.10). -/
def State.ball (s : State) (g : BallGroup) (n : Nat) : BallState :=
  if !s.mo.rails || s.mo.mode == .keeper then keeperBall g
  else if s.ballAbsent g n || !s.mo.resetN then resetBall g
  else if s.beforeApply && !g.early then resetBall g
  else .owner

end Sys2Proof.Machine
end

