-- ==== Sys2Proof/WellFormed.lean ====
section
/-! DEFINITION. Well-formed commands: every operand within the range its row gives it.  A command outside it names nothing
the block has. -/

namespace Sys2Proof

/-- A two's complement number of `n` bits. -/
def fits (n : Nat) (i : Int) : Bool := decide (-(2 ^ (n - 1) : Int) ≤ i) && decide (i < 2 ^ (n - 1))

/-- An access of 1, 2, 4 or 8 bytes. -/
def width (bytes : Nat) : Bool := bytes == 1 || bytes == 2 || bytes == 4 || bytes == 8

/-- A PTP message whose fields have their widths. -/
def PtpFrame.wf (m : PtpFrame) : Bool :=
  decide (m.kind < 16) && decide (m.domain < 256) && decide (m.seq < 65536) && decide (m.clockClass < 256)
    && decide (m.identity < 2 ^ 64) && fits 16 m.utc && decide (m.leap < 4)

/-- A beat's address: a multiple of 8 in the 32 GiB that four address symbols cover (R548, R549). -/
def SdBeat.wf (b : SdBeat) : Bool := decide (b.addr < 2 ^ 35) && b.addr % 8 == 0

/-- Every operand lies in its range. -/
def Instr.wf : Instr → Bool
  | .nop ring idx => decide (ring < 64) && decide (idx < 65536)
  | .abort ring idx => decide (ring < 64) && decide (idx < 65536)
  | .objRead ring idx _ => decide (ring < 64) && decide (idx < 65536)
  | .objWrite ring idx _ => decide (ring < 64) && decide (idx < 65536)
  | .objModify ring idx => decide (ring < 64) && decide (idx < 65536)
  | .objDescribe ring idx => decide (ring < 64) && decide (idx < 65536)
  | .cfgLoad ring idx _ _ => decide (ring < 64) && decide (idx < 65536)
  | .cfgApply ring idx => decide (ring < 64) && decide (idx < 65536)
  | .cfgDiscard ring idx => decide (ring < 64) && decide (idx < 65536)
  | .cfgRead ring idx _ => decide (ring < 64) && decide (idx < 65536)
  | .modeRequest ring idx => decide (ring < 64) && decide (idx < 65536)
  | .safeExit ring idx => decide (ring < 64) && decide (idx < 65536)
  | .coldRestart ring idx => decide (ring < 64) && decide (idx < 65536)
  | .letRequest ring idx => decide (ring < 64) && decide (idx < 65536)
  | .notifyRoute ring idx => decide (ring < 64) && decide (idx < 65536)
  | .streamOpen ring idx => decide (ring < 64) && decide (idx < 65536)
  | .streamClose ring idx => decide (ring < 64) && decide (idx < 65536)
  | .evFreeze ring idx reached _ => decide (ring < 64) && decide (idx < 65536) && decide (reached < 1048577)
  | .evRelease ring idx => decide (ring < 64) && decide (idx < 65536)
  | .drTrigger ring idx => decide (ring < 64) && decide (idx < 65536)
  | .drExport ring idx _ => decide (ring < 64) && decide (idx < 65536)
  | .bankSwap ring idx => decide (ring < 64) && decide (idx < 65536)
  | .loopState ring idx => decide (ring < 64) && decide (idx < 65536)
  | .autotuneStart ring idx => decide (ring < 64) && decide (idx < 65536)
  | .autotuneStop ring idx => decide (ring < 64) && decide (idx < 65536)
  | .forceSet ring idx => decide (ring < 64) && decide (idx < 65536)
  | .forceClear ring idx => decide (ring < 64) && decide (idx < 65536)
  | .injectStart ring idx => decide (ring < 64) && decide (idx < 65536)
  | .injectStop ring idx => decide (ring < 64) && decide (idx < 65536)
  | .tableCapture ring idx => decide (ring < 64) && decide (idx < 65536)
  | .bullpenLoad ring idx _ _ => decide (ring < 64) && decide (idx < 65536)
  | .bullpenSwitch ring idx => decide (ring < 64) && decide (idx < 65536)
  | .bullpenRollback ring idx => decide (ring < 64) && decide (idx < 65536)
  | .pointRead ring idx _ beat => decide (ring < 64) && decide (idx < 65536)
      && beat.all (fun e => decide (e.1 < 2 ^ 23) && e.2.wf)
  | .pointWrite ring idx _ => decide (ring < 64) && decide (idx < 65536)
  | .recipeLoad ring idx _ => decide (ring < 64) && decide (idx < 65536)
  | .recipeStart ring idx => decide (ring < 64) && decide (idx < 65536)
  | .recipeHold ring idx => decide (ring < 64) && decide (idx < 65536)
  | .recipeResume ring idx => decide (ring < 64) && decide (idx < 65536)
  | .recipeCancel ring idx => decide (ring < 64) && decide (idx < 65536)
  | .stationEnable ring idx => decide (ring < 64) && decide (idx < 65536)
  | .authChallenge ring idx nonce => decide (ring < 64) && decide (idx < 65536) && decide (nonce.length = 4)
  | .authResponse ring idx _ handle => decide (ring < 64) && decide (idx < 65536) && decide (handle < 65536)
  | .authEnd ring idx => decide (ring < 64) && decide (idx < 65536)
  | .attest ring idx hashes _ => decide (ring < 64) && decide (idx < 65536) && decide (hashes.length = 72)
  | .ownerTransfer ring idx _ _ _ => decide (ring < 64) && decide (idx < 65536)
  | .unlockNonce ring idx nonce _ => decide (ring < 64) && decide (idx < 65536) && decide (nonce.length = 12)
  | .unlockOpen ring idx _ _ handle => decide (ring < 64) && decide (idx < 65536) && decide (handle < 65536)
  | .unlockReprovisionRequest ring idx _ _ => decide (ring < 64) && decide (idx < 65536)
  | .unlockProvision ring idx _ _ _ => decide (ring < 64) && decide (idx < 65536)
  | .fwUpdate ring idx image _ => decide (ring < 64) && decide (idx < 65536)
      && (match image with
    | some x => decide (x.1 < 64)
    | none => true)
  | .doorbellProd _ _ => true
  | .doorbellCons _ _ => true
  | .stagingPost _ _ => true
  | .commandFetch entry => (match entry with
    | some e => decide (e.length = 16)
    | none => true)
  | .completionWrite ring idx _ => decide (ring < 64) && decide (idx < 65536)
  | .ringEnable ring _ => decide (ring < 64)
  | .msixGenEnable _ => true
  | .bar0RegisterWrite addr bytes value => decide (addr < 65536) && width bytes && decide (value < 2 ^ (8 * bytes))
  | .bar4Write addr bytes value => decide (addr < 2 ^ 27) && width bytes && decide (value < 2 ^ (8 * bytes))
  | .bar2Write addr bytes value => decide (addr < 65536) && width bytes && decide (value < 2 ^ (8 * bytes))
  | .hotPortWrite addr _ => decide (addr < 16384)
  | .pcieHotReset => true
  | .d3hotEntry => true
  | .latchReset _ => true
  | .evRecover _ => true
  | .clrUv _ => true
  | .clrOl _ => true
  | .arRetest chan _ => decide (chan < 2)
  | .tuIncrementWrite _ ns => decide (ns < 2 ^ 32)
  | .tuSlew ns ms => fits 32 ns && decide (ms < 65536)
  | .tuStepRequest secs nanos => fits 32 secs && fits 32 nanos
  | .tuLock => true
  | .tuHold => true
  | .timeStepApply => true
  | .slewEnd => true
  | .servoTimeout => true
  | .rtcSet => true
  | .vddKeepApplied => true
  | .vddKeepLoss => true
  | .resetNRelease => true
  | .resetNLow => true
  | .vddCoreLow => true
  | .romCheckDone _ => true
  | .firmwareVerified _ _ => true
  | .captainReady => true
  | .sramSelfTestDone _ _ => true
  | .sdramTrained _ mib _ => decide (mib < 2 ^ 20)
  | .bootConfigApply _ _ badFactory badField => badFactory.all (fun c => decide (c < 64))
      && badField.all (fun c => decide (c < 64))
  | .localProtectionReady => true
  | .trainExit => true
  | .trainTimeout => true
  | .sentinelEntryStep => true
  | .sentinelEntryCancel source => decide (source < 8)
  | .wakeSource source => decide (source < 8)
  | .wakePllLocked => true
  | .wakeControlRunning => true
  | .wakePllTimeout => true
  | .wakeNLow => true
  | .keeperAlarmDue => true
  | .crystalStop => true
  | .clockLoss => true
  | .captainFault => true
  | .protectionWatchdogExpiry => true
  | .protectionPass freqs => decide (freqs.length = 8) && freqs.all (fun f => decide (f < 2 ^ 32))
  | .trackerHoldExpiry tracker => decide (tracker < 8)
  | .sliceConversion chan slice _ code _ _ => decide (chan < 64) && decide (slice < 32) && fits 16 code
  | .fastSample chan _ => decide (chan < 64)
  | .minOnExpiry channel => decide (channel < 32)
  | .fineSample chan _ => decide (chan < 96)
  | .resampledSample chan => decide (chan < 256 + 1536)
  | .arcLightChange input _ => decide (input < 8)
  | .wakeComparatorSwitch chan => decide (chan < 64)
  | .directTripComparatorSwitch chan _ => decide (chan < 64)
  | .directTripHoldExpiry line => decide (line < 8)
  | .heartbeatLoss => true
  | .bfRetripTimer breaker => decide (breaker < 32)
  | .bfBackupTimer breaker => decide (breaker < 32)
  | .breakerPosDiscExpiry breaker => decide (breaker < 32)
  | .remoteBitStale bit => decide (bit < 64)
  | .tripFrameReceive src _ => decide (src < 1024)
  | .zoneFrameReceive src _ => decide (src < 1024)
  | .zoneSampleDeadline zone slot _ => decide (zone < 8) && decide (slot < 64)
  | .zoneRecoveryExpiry zone => decide (zone < 8)
  | .sliceEstimate core slice offset gain skew _ => decide (core < 16) && decide (slice < 32)
      && fits 32 offset && fits 32 gain && fits 32 skew
  | .sliceRetirementSwitch core => decide (core < 16)
  | .refMonitorChange core _ => decide (core < 16)
  | .refOkExpiry core => decide (core < 16)
  | .scanTrigger core => decide (core < 16)
  | .sampleTimerEvent timer => decide (timer < 16)
  | .urgentConversion entry slice _ code _ => decide (entry < 64) && decide (slice < 32) && fits 16 code
  | .arcSupervisionTest input result => decide (input < 8) && decide (result < 3)
  | .fcBankSwapInstant group => decide (group < 16)
  | .svFrameReceive appid mac confRev ethertype flags _ => decide (appid < 65536) && decide (mac < 2 ^ 48)
      && decide (confRev < 2 ^ 32) && decide (ethertype < 65536) && decide (flags < 256)
  | .svStreamLost stream => decide (stream < 32)
  | .streamEntryWrite ring => decide (ring < 64)
  | .loopSample => true
  | .loopOverrun _ n => decide (n < 1024)
  | .leSwapInstant => true
  | .autotuneTmaxExpiry loop => decide (loop < 1024)
  | .axisSample => true
  | .encoderTransfer enc _ _ _ crc => decide (enc < 16) && decide (crc < 64)
  | .pwmPeriodStart pwm => decide (pwm < 16)
  | .loopLaneFailure lane _ => decide (lane < 4)
  | .logicCycleSnapshot task => decide (task < 64)
  | .logicOutputWrite task => decide (task < 64)
  | .cycleWatchdogExpiry task => decide (task < 64)
  | .eventTaskTrigger task => decide (task < 64)
  | .errorTaskRun core => decide (core < 4)
  | .logicCoreFailure core cause => decide (core < 4) && decide (cause < 256)
  | .bullpenSwap => true
  | .bullpenSwWaitExpiry => true
  | .umpireRound => true
  | .scanClassBoundary class_ => decide (class_ < 16)
  | .mirrorRecordReceive src _ => decide (src < 1024)
  | .mirrorStale index => decide (index < 8388608)
  | .ptSubReceive src _ => decide (src < 1024)
  | .ptReqReceive src _ => decide (src < 1024)
  | .ptRspReceive src _ => decide (src < 1024)
  | .remotePointTimeout tag => decide (tag < 2 ^ 32)
  | .recipeTick lane => decide (lane < 64)
  | .letL1Trigger => true
  | .letL2Trigger cause => (cause == 0x80 || cause == 0x81)
  | .letEnd _ _ => true
  | .letBoundExceeded => true
  | .storeBlockError block beat => decide (block < 3072) && beat.all SdBeat.wf
  | .powerFailWarning => true
  | .slotWriteDone _ us block => decide (us < 2 ^ 32) && decide (block < 3072)
  | .powerReturn => true
  | .errorHandling => true
  | .errorHandlingEnd => true
  | .eventRecordWrite fifo => decide (fifo < 256)
  | .handoffLost fifo => decide (fifo < 256)
  | .freezeLimitExpiry => true
  | .freezeDrain => true
  | .archiveLagFreeze => true
  | .lastResortEntry cause failed => (cause == 1 || cause == 2) && decide (failed < 2 ^ 32)
  | .changeIngest => true
  | .epochBoundary => true
  | .chGapWrite => true
  | .archivePageProgram _ _ bytes _ => decide (bytes ≤ 16384)
  | .partialPageExpiry stream _ _ _ => decide (stream < 3)
  | .readyBusyTimeout chan => decide (chan < 2)
  | .drTriggerEvent => true
  | .drRecordComplete => true
  | .diSample inputs => decide (inputs.length = 48)
  | .diStuckExpiry input => decide (input < 48)
  | .doStep outs fldMv temp => decide (outs.length = 32) && decide (fldMv < 65536) && fits 16 temp
  | .overloadSwitchOff out => decide (out < 32)
  | .overloadRetry out => decide (out < 32)
  | .thermalShutdown out temp => decide (out < 32) && fits 16 temp
  | .offStateCheck out _ _ => decide (out < 32)
  | .darkTestPulse out _ => decide (out < 32)
  | .fieldWatchdogRefresh => true
  | .fieldWatchdogExpiry => true
  | .fldSupplyCrossing mv => decide (mv < 65536)
  | .supplyGoodExpiry => true
  | .sfEvaluationCycle => true
  | .sfHeartbeatLoss => true
  | .sfDiagnosticFailure cause => decide (cause < 5)
  | .sfDiscrepancyExpiry fn => decide (fn < 32)
  | .sfTestPulse source => decide (source < 32)
  | .sfTestWindowEnd fn _ => decide (fn < 32)
  | .sfReadbackCheck out => decide (out < 32)
  | .sfCrcRecompute => true
  | .laneDetectorChange lane _ _ _ => decide (lane < 20)
  | .trainingStepReached _ n step _ => decide (n < 20) && decide (step < 16)
  | .trainingStepTimeout _ n => decide (n < 20)
  | .portDown port => decide (port < 16)
  | .renbyFrameReceive port blocks _ => decide (port < 16) && blocks.all (fun b => decide (b.lane < 4) && decide (b.sync < 4))
  | .capFrameReceive port _ => decide (port < 16)
  | .authFrameReceive port _ verdict => decide (port < 16) && decide (verdict < 16)
  | .topoSend => true
  | .deviceUnreachable dev => decide (dev < 1024)
  | .stationCycleBoundary => true
  | .stInReceive stn _ => decide (stn < 4096)
  | .stationMiss stn => decide (stn < 4096)
  | .stationEnableTimeout stn => decide (stn < 4096)
  | .ethernetFrameReceive lane ethertype len ptp => decide (lane < 20) && decide (ethertype < 65536)
      && decide (len < 65536) && ptp.all PtpFrame.wf
  | .goosePublish => true
  | .syncSend => true
  | .pdelayReqSend => true
  | .timeFrameReceive port m => decide (port < 16) && m.wf
  | .announceSend _ => true
  | .keyTamper cause => decide (1 ≤ cause) && decide (cause ≤ 3)
  | .d0Restore => true
  | .pcieLinkTrained _ => true
  | .protectionMessageRepeat => true
  | .originPeriodBoundary code => decide (code < 8)
  | .encoderEdge enc _ _ _ => decide (enc < 16)
  | .c0LoadWindow port _ => decide (port < 16)
  | .jtagInstruction code => decide (code < 7)
  | .announceReceiptTimeout _ => true
  | .captainRestartDone => true

end Sys2Proof
end

