-- ==== Sys2Proof/Tests/Slice0.lean ====
section
/-! SUPPORT. Tests: the refusals of WellFormed, values that the spec works out, and for every statement with hypotheses the states
and operands that meet them. -/

namespace Sys2Proof.Tests

set_option Elab.async false

open Sys2Proof Sys2Proof.Machine

/-! The check of operands. -/

/-- One term for each check, which the check refuses. -/
theorem smoke_illFormed_1 :
    ((
    [.nop 64 0, .nop 0 65536, .abort 64 0, .abort 0 65536, .objRead 64 0 true, .objRead 0 65536 true, .objWrite 64 0 none,
     .objWrite 0 65536 none, .objModify 64 0, .objModify 0 65536, .objDescribe 64 0, .objDescribe 0 65536,
     .cfgLoad 64 0 none true, .cfgLoad 0 65536 none true, .cfgApply 64 0, .cfgApply 0 65536, .cfgDiscard 64 0,
     .cfgDiscard 0 65536, .cfgRead 64 0 true, .cfgRead 0 65536 true, .modeRequest 64 0, .modeRequest 0 65536, .safeExit 64 0,
     .safeExit 0 65536, .coldRestart 64 0, .coldRestart 0 65536, .letRequest 64 0, .letRequest 0 65536, .notifyRoute 64 0,
     .notifyRoute 0 65536, .streamOpen 64 0, .streamOpen 0 65536, .streamClose 64 0, .streamClose 0 65536,
     .evFreeze 64 0 0 true, .evFreeze 0 65536 0 true, .evFreeze 0 0 1048577 true, .evRelease 64 0, .evRelease 0 65536,
     .drTrigger 64 0, .drTrigger 0 65536, .drExport 64 0 true, .drExport 0 65536 true, .bankSwap 64 0, .bankSwap 0 65536,
     .loopState 64 0, .loopState 0 65536, .autotuneStart 64 0, .autotuneStart 0 65536, .autotuneStop 64 0,
     .autotuneStop 0 65536, .forceSet 64 0, .forceSet 0 65536, .forceClear 64 0, .forceClear 0 65536, .injectStart 64 0,
     .injectStart 0 65536, .injectStop 64 0, .injectStop 0 65536, .tableCapture 64 0] : List Instr).all (fun i => !i.wf)) = true := by decide +kernel

/-- One term for each check, which the check refuses. -/
theorem smoke_illFormed_2 :
    ((
    [.tableCapture 0 65536, .bullpenLoad 64 0 none true, .bullpenLoad 0 65536 none true, .bullpenSwitch 64 0,
     .bullpenSwitch 0 65536, .bullpenRollback 64 0, .bullpenRollback 0 65536, .pointRead 64 0 true none, .pointWrite 64 0 none,
     .pointWrite 0 65536 none, .recipeLoad 64 0 none, .recipeLoad 0 65536 none, .recipeStart 64 0, .recipeStart 0 65536,
     .recipeHold 64 0, .recipeHold 0 65536, .recipeResume 64 0, .recipeResume 0 65536, .recipeCancel 64 0,
     .recipeCancel 0 65536, .stationEnable 64 0, .stationEnable 0 65536, .authChallenge 64 0 (List.replicate 4 0),
     .authChallenge 0 65536 (List.replicate 4 0), .authChallenge 0 0 [], .authResponse 64 0 true 0,
     .authResponse 0 65536 true 0, .authResponse 0 0 true 65536, .authEnd 64 0, .authEnd 0 65536,
     .attest 64 0 (List.replicate 72 0) true, .attest 0 65536 (List.replicate 72 0) true, .attest 0 0 [] true,
     .ownerTransfer 64 0 none [] true, .ownerTransfer 0 65536 none [] true, .unlockNonce 64 0 (List.replicate 12 0) true,
     .unlockNonce 0 65536 (List.replicate 12 0) true, .unlockNonce 0 0 [] true, .unlockOpen 64 0 none true 0,
     .unlockOpen 0 65536 none true 0, .unlockOpen 0 0 none true 65536, .unlockReprovisionRequest 64 0 [] true,
     .unlockReprovisionRequest 0 65536 [] true, .unlockProvision 64 0 none true true, .unlockProvision 0 65536 none true true,
     .fwUpdate 64 0 none true, .fwUpdate 0 65536 none true, .completionWrite 64 0 true, .completionWrite 0 65536 true,
     .ringEnable 64 0, .bar0RegisterWrite 65536 1 0, .bar0RegisterWrite 0 3 0, .bar0RegisterWrite 0 1 256,
     .bar4Write (2 ^ 27) 1 0, .bar4Write 0 3 0, .bar4Write 0 1 256, .bar2Write 65536 1 0, .bar2Write 0 3 0, .bar2Write 0 1 256,
     .hotPortWrite 16384 0] : List Instr).all (fun i => !i.wf)) = true := by decide +kernel

/-- One term for each check, which the check refuses. -/
theorem smoke_illFormed_3 :
    ((
    [.arRetest 2 true, .tuIncrementWrite 0 (2 ^ 32), .tuSlew (2 ^ 31) 0, .tuSlew 0 65536, .tuStepRequest (2 ^ 31) 0,
     .tuStepRequest 0 (2 ^ 31), .sdramTrained true (2 ^ 20) true, .sentinelEntryCancel 8, .wakeSource 8, .protectionPass [],
     .trackerHoldExpiry 8, .sliceConversion 64 0 0 0 true true, .sliceConversion 0 32 0 0 true true,
     .sliceConversion 0 0 0 (2 ^ 15) true true, .fastSample 64 0, .minOnExpiry 32, .fineSample 96 0,
     .resampledSample (256 + 1536), .arcLightChange 8 true, .wakeComparatorSwitch 64, .directTripComparatorSwitch 64 true,
     .directTripHoldExpiry 8, .bfRetripTimer 32, .bfBackupTimer 32, .breakerPosDiscExpiry 32, .remoteBitStale 64,
     .tripFrameReceive 1024 [], .zoneFrameReceive 1024 [], .zoneSampleDeadline 8 0 0, .zoneSampleDeadline 0 64 0,
     .zoneRecoveryExpiry 8, .sliceEstimate 16 0 0 0 0 true, .sliceEstimate 0 32 0 0 0 true,
     .sliceEstimate 0 0 (2 ^ 31) 0 0 true, .sliceEstimate 0 0 0 (2 ^ 31) 0 true, .sliceEstimate 0 0 0 0 (2 ^ 31) true,
     .sliceRetirementSwitch 16, .refMonitorChange 16 true, .refOkExpiry 16, .scanTrigger 16, .sampleTimerEvent 16,
     .urgentConversion 64 0 0 0 true, .urgentConversion 0 32 0 0 true, .urgentConversion 0 0 0 (2 ^ 15) true,
     .arcSupervisionTest 8 0, .arcSupervisionTest 0 3, .fcBankSwapInstant 16, .svFrameReceive 65536 0 0 0 0 [],
     .svFrameReceive 0 (2 ^ 48) 0 0 0 [], .svFrameReceive 0 0 (2 ^ 32) 0 0 [], .svFrameReceive 0 0 0 65536 0 [],
     .svFrameReceive 0 0 0 0 256 [], .svStreamLost 32, .streamEntryWrite 64, .loopOverrun true 1024, .autotuneTmaxExpiry 1024,
     .encoderTransfer 16 none true true 0, .encoderTransfer 0 none true true 64, .pwmPeriodStart 16, .loopLaneFailure 4 true] : List Instr).all (fun i => !i.wf)) = true := by decide +kernel

/-- One term for each check, which the check refuses. -/
theorem smoke_illFormed_4 :
    ((
    [.logicCycleSnapshot 64, .logicOutputWrite 64, .cycleWatchdogExpiry 64, .eventTaskTrigger 64, .errorTaskRun 4,
     .logicCoreFailure 4 0, .logicCoreFailure 0 256, .scanClassBoundary 16, .mirrorRecordReceive 1024 [], .mirrorStale 8388608,
     .ptSubReceive 1024 [], .ptReqReceive 1024 [], .ptRspReceive 1024 [], .remotePointTimeout (2 ^ 32), .recipeTick 64,
     .letL2Trigger 9, .slotWriteDone true (2 ^ 32) 0, .slotWriteDone true 0 3072, .eventRecordWrite 256, .handoffLost 256,
     .lastResortEntry 9 0, .lastResortEntry 1 (2 ^ 32), .archivePageProgram true 0 (16384 + 1) 0,
     .partialPageExpiry 3 true 0 0, .readyBusyTimeout 2, .diSample [], .diStuckExpiry 48, .doStep [] 0 0,
     .doStep (List.replicate 32 (0, 0, false)) 65536 0, .doStep (List.replicate 32 (0, 0, false)) 0 (2 ^ 15),
     .overloadSwitchOff 32, .overloadRetry 32, .thermalShutdown 32 0, .thermalShutdown 0 (2 ^ 15), .offStateCheck 32 true true,
     .darkTestPulse 32 true, .fldSupplyCrossing 65536, .sfDiagnosticFailure 5, .sfDiscrepancyExpiry 32, .sfTestPulse 32,
     .sfTestWindowEnd 32 true, .sfReadbackCheck 32, .laneDetectorChange 20 true true true, .trainingStepReached true 20 0 [],
     .trainingStepReached true 0 16 [], .trainingStepTimeout true 20, .portDown 16, .capFrameReceive 16 [],
     .authFrameReceive 16 [] 0, .authFrameReceive 0 [] 16, .deviceUnreachable 1024, .stInReceive 4096 [], .stationMiss 4096,
     .stationEnableTimeout 4096, .ethernetFrameReceive 20 0 0 none, .ethernetFrameReceive 0 65536 0 none, .keyTamper 0,
     .keyTamper (3 + 1), .originPeriodBoundary 8, .encoderEdge 16 true true true] : List Instr).all (fun i => !i.wf)) = true := by decide +kernel

/-- One term for each check, which the check refuses. -/
theorem smoke_illFormed_5 :
    ((
    [.c0LoadWindow 16 0, .jtagInstruction 7, .fwUpdate 0 0 (some (64, 0, 0)) true, .commandFetch (some []),
     .bootConfigApply 0 true [64] [], .bootConfigApply 0 true [] [64], .protectionPass [0, 0, 0, 0, 0, 0, 0, 2 ^ 32],
     .pointRead 0 65536 true none, .pointRead 0 0 true (some (2 ^ 23, ⟨0, 0⟩)), .pointRead 0 0 true (some (0, ⟨4, 0⟩)),
     .storeBlockError 3072 none, .storeBlockError 0 (some ⟨1, 0⟩), .renbyFrameReceive 16 [] true,
     .renbyFrameReceive 0 [⟨4, 0, 0⟩] true, .renbyFrameReceive 0 [⟨0, 4, 0⟩] true, .ethernetFrameReceive 0 0 65536 none,
     .ethernetFrameReceive 0 0 0 (some ⟨16, 0, false, 0, 0, 0, 0, 0, 0, 0, false⟩),
     .timeFrameReceive 16 ⟨0, 0, false, 0, 0, 0, 0, 0, 0, 0, false⟩,
     .timeFrameReceive 0 ⟨0, 256, false, 0, 0, 0, 0, 0, 0, 0, false⟩,
     .timeFrameReceive 0 ⟨0, 0, false, 65536, 0, 0, 0, 0, 0, 0, false⟩,
     .timeFrameReceive 0 ⟨0, 0, false, 0, 0, 0, 256, 0, 0, 0, false⟩,
     .timeFrameReceive 0 ⟨0, 0, false, 0, 0, 0, 0, 2 ^ 64, 0, 0, false⟩,
     .timeFrameReceive 0 ⟨0, 0, false, 0, 0, 0, 0, 0, 32768, 0, false⟩,
     .timeFrameReceive 0 ⟨0, 0, false, 0, 0, 0, 0, 0, 0, 4, false⟩, .storeBlockError 0 (some ⟨2 ^ 35, 0⟩)] : List Instr).all (fun i => !i.wf)) = true := by decide +kernel

/-- One well-formed term of each constructor. -/
theorem smoke_wellFormed_1 :
    ((
    [.nop 0 0, .abort 0 0, .objRead 0 0 true, .objWrite 0 0 none, .objModify 0 0, .objDescribe 0 0, .cfgLoad 0 0 none true,
     .cfgApply 0 0, .cfgDiscard 0 0, .cfgRead 0 0 true, .modeRequest 0 0, .safeExit 0 0, .coldRestart 0 0, .letRequest 0 0,
     .notifyRoute 0 0, .streamOpen 0 0, .streamClose 0 0, .evFreeze 0 0 0 true, .evRelease 0 0, .drTrigger 0 0,
     .drExport 0 0 true, .bankSwap 0 0, .loopState 0 0, .autotuneStart 0 0, .autotuneStop 0 0, .forceSet 0 0, .forceClear 0 0,
     .injectStart 0 0, .injectStop 0 0, .tableCapture 0 0, .bullpenLoad 0 0 none true, .bullpenSwitch 0 0,
     .bullpenRollback 0 0, .pointRead 0 0 true none, .pointWrite 0 0 none, .recipeLoad 0 0 none, .recipeStart 0 0,
     .recipeHold 0 0, .recipeResume 0 0, .recipeCancel 0 0, .stationEnable 0 0, .authChallenge 0 0 (List.replicate 4 0),
     .authResponse 0 0 true 0, .authEnd 0 0, .attest 0 0 (List.replicate 72 0) true, .ownerTransfer 0 0 none [] true,
     .unlockNonce 0 0 (List.replicate 12 0) true, .unlockOpen 0 0 none true 0, .unlockReprovisionRequest 0 0 [] true,
     .unlockProvision 0 0 none true true, .fwUpdate 0 0 none true, .doorbellProd true 0, .doorbellCons true 0,
     .stagingPost true 0, .commandFetch none, .completionWrite 0 0 true, .ringEnable 0 0, .msixGenEnable 0,
     .bar0RegisterWrite 0 1 0, .bar4Write 0 1 0] : List Instr).all (fun i => i.wf)) = true := by decide +kernel

/-- One well-formed term of each constructor. -/
theorem smoke_wellFormed_2 :
    ((
    [.bar2Write 0 1 0, .hotPortWrite 0 0, .pcieHotReset, .d3hotEntry, .latchReset 0, .evRecover true, .clrUv 0, .clrOl 0,
     .arRetest 0 true, .tuIncrementWrite 0 0, .tuSlew 0 0, .tuStepRequest 0 0, .tuLock, .tuHold, .timeStepApply, .slewEnd,
     .servoTimeout, .rtcSet, .vddKeepApplied, .vddKeepLoss, .resetNRelease, .resetNLow, .vddCoreLow, .romCheckDone true,
     .firmwareVerified true true, .captainReady, .sramSelfTestDone true true, .sdramTrained true 0 true,
     .bootConfigApply 0 true [] [], .localProtectionReady, .trainExit, .trainTimeout, .sentinelEntryStep,
     .sentinelEntryCancel 0, .wakeSource 0, .wakePllLocked, .wakeControlRunning, .wakePllTimeout, .wakeNLow, .keeperAlarmDue,
     .crystalStop, .clockLoss, .captainFault, .protectionWatchdogExpiry, .protectionPass (List.replicate 8 0),
     .trackerHoldExpiry 0, .sliceConversion 0 0 0 0 true true, .fastSample 0 0, .minOnExpiry 0, .fineSample 0 0,
     .resampledSample 0, .arcLightChange 0 true, .wakeComparatorSwitch 0, .directTripComparatorSwitch 0 true,
     .directTripHoldExpiry 0, .heartbeatLoss, .bfRetripTimer 0, .bfBackupTimer 0, .breakerPosDiscExpiry 0, .remoteBitStale 0] : List Instr).all (fun i => i.wf)) = true := by decide +kernel

/-- One well-formed term of each constructor. -/
theorem smoke_wellFormed_3 :
    ((
    [.tripFrameReceive 0 [], .zoneFrameReceive 0 [], .zoneSampleDeadline 0 0 0, .zoneRecoveryExpiry 0,
     .sliceEstimate 0 0 0 0 0 true, .sliceRetirementSwitch 0, .refMonitorChange 0 true, .refOkExpiry 0, .scanTrigger 0,
     .sampleTimerEvent 0, .urgentConversion 0 0 0 0 true, .arcSupervisionTest 0 0, .fcBankSwapInstant 0,
     .svFrameReceive 0 0 0 0 0 [], .svStreamLost 0, .streamEntryWrite 0, .loopSample, .loopOverrun true 0, .leSwapInstant,
     .autotuneTmaxExpiry 0, .axisSample, .encoderTransfer 0 none true true 0, .pwmPeriodStart 0, .loopLaneFailure 0 true,
     .logicCycleSnapshot 0, .logicOutputWrite 0, .cycleWatchdogExpiry 0, .eventTaskTrigger 0, .errorTaskRun 0,
     .logicCoreFailure 0 0, .bullpenSwap, .bullpenSwWaitExpiry, .umpireRound, .scanClassBoundary 0, .mirrorRecordReceive 0 [],
     .mirrorStale 0, .ptSubReceive 0 [], .ptReqReceive 0 [], .ptRspReceive 0 [], .remotePointTimeout 0, .recipeTick 0,
     .letL1Trigger, .letL2Trigger 0x80, .letEnd true [], .letBoundExceeded, .storeBlockError 0 none, .powerFailWarning,
     .slotWriteDone true 0 0, .powerReturn, .errorHandling, .errorHandlingEnd, .eventRecordWrite 0, .handoffLost 0,
     .freezeLimitExpiry, .freezeDrain, .archiveLagFreeze, .lastResortEntry 1 0, .changeIngest, .epochBoundary, .chGapWrite] : List Instr).all (fun i => i.wf)) = true := by decide +kernel

/-- One well-formed term of each constructor. -/
theorem smoke_wellFormed_4 :
    ((
    [.archivePageProgram true 0 0 0, .partialPageExpiry 0 true 0 0, .readyBusyTimeout 0, .drTriggerEvent, .drRecordComplete,
     .diSample (List.replicate 48 (0, 0)), .diStuckExpiry 0, .doStep (List.replicate 32 (0, 0, false)) 0 0,
     .overloadSwitchOff 0, .overloadRetry 0, .thermalShutdown 0 0, .offStateCheck 0 true true, .darkTestPulse 0 true,
     .fieldWatchdogRefresh, .fieldWatchdogExpiry, .fldSupplyCrossing 0, .supplyGoodExpiry, .sfEvaluationCycle,
     .sfHeartbeatLoss, .sfDiagnosticFailure 0, .sfDiscrepancyExpiry 0, .sfTestPulse 0, .sfTestWindowEnd 0 true,
     .sfReadbackCheck 0, .sfCrcRecompute, .laneDetectorChange 0 true true true, .trainingStepReached true 0 0 [],
     .trainingStepTimeout true 0, .portDown 0, .renbyFrameReceive 0 [] true, .capFrameReceive 0 [], .authFrameReceive 0 [] 0,
     .topoSend, .deviceUnreachable 0, .stationCycleBoundary, .stInReceive 0 [], .stationMiss 0, .stationEnableTimeout 0,
     .ethernetFrameReceive 0 0 0 none, .goosePublish, .syncSend, .pdelayReqSend,
     .timeFrameReceive 0 ⟨0, 0, false, 0, 0, 0, 0, 0, 0, 0, false⟩, .announceSend [], .keyTamper 1, .d0Restore,
     .pcieLinkTrained true, .protectionMessageRepeat, .originPeriodBoundary 0, .encoderEdge 0 true true true,
     .c0LoadWindow 0 0, .jtagInstruction 0, .announceReceiptTimeout [], .captainRestartDone] : List Instr).all (fun i => i.wf)) = true := by decide +kernel

/-! States for the tests. -/

/-- A device that has started up, in a given mode: 1,000 s after reset, at TAI 1,000 s, its host linked. -/
def dev (m : Mode) : State :=
  { State.reset with
    elapsed := 800000000000
    mo := { Modes.init with mode := m, boot := .done, captain := true, sdram := some true, controlLoaded := true, control := true, heartbeat := true }
    tu := { TimeUnit.init with sec := 1000 }
    he := { State.reset.he with linkUp := true }
    lg := { LgSt.init with running := true } }

/-- A state with fields of registers set. -/
def put (s : State) (l : List (Field × Nat × Nat)) : State := l.foldl (fun s x => s.wr x.1 x.2.1 x.2.2) s

/-- A state with fields of registers set, the repetition named too. -/
def putk (s : State) (l : List (Field × Nat × Nat × Nat)) : State := l.foldl (fun s x => s.wrk x.1 x.2.1 x.2.2.1 x.2.2.2) s

/-- Words of an entry. -/
def w32s (l : List Nat) : List W32 := l.map (BitVec.ofNat 32)

/-- An entry of ring 0, index 0, that host A issued, in flight with session 7. -/
def entry (words : List Nat) : Cmd :=
  { ring := 0, idx := 0, words := w32s (words ++ List.replicate (16 - words.length) 0), order := 1, prio := false, master := .hostA
    slot := none, fetchAt := 0, busy := false, phase := .fetched }

/-- A command without a buffer: opcode, object ID, inline parameter words. -/
def plain (op obj : Nat) (pars : List Nat) : Cmd := entry ([op * 65536, 4 * pars.length, obj, 7] ++ pars)

/-- A command with a buffer: opcode, object ID, direction and bytes of the buffer, inline parameter words. -/
def buffered (op obj dir bytes : Nat) (pars : List Nat) : Cmd :=
  entry ([op * 65536, 65536 + 4 * pars.length, obj, 7, 4096, 0, bytes, dir] ++ pars)

/-- The command is in flight, and session 7 of host A is open. -/
def has (s : State) (c : Cmd) : State :=
  { s with mb := { s.mb with inflight := [c] }, sc := { s.sc with authA := { s.sc.authA with session := 7 } } }

/-- An object ID. -/
def obj (unit grp inst : Nat) : Nat := mkObjId unit inst grp

/-- A device at a step of its start-up. -/
def booting (b : BootStep) : State := { State.reset with mo := { Modes.init with boot := b } }

/-- The device recorder of events runs with records for a hand-off FIFO. -/
def handed (s : State) (fifo : Nat) (l : List EvRec) : State := { s with ev := { s.ev with fifo := [(fifo, l)] } }

/-- A disturbance record that takes no channel: its state, its start and stop (TAI ns), whether it may be extended. -/
def drRecord (state start stop : Nat) : DrRec :=
  { state := state, serial := 4, trigs := [(1, start)], more := 0, start := start, stop := stop, fastStart := start, fastStop := start
    fineMask := 0, fastMask := 1, diMask := 0, rates := [], fine := [], fast := [], dig := [], expKib := 1, archOff := 0, archived := false }

/-- A record of the event recorder. -/
def evRec (code : Nat) (prio : Bool) : EvRec := ⟨code, 0, ⟨1000, 0⟩, 1, 2, 3, prio⟩

/-- Archive channel 0 is live and archives events; one record waits. -/
def archiving : State :=
  { put (dev .run) [(EV_CFG_ARCH, 0, 1), (AR_STAT_STATE, 0, 1), (AR_CFG_EV_BLK, 0, 16)] with
    ev := { EvSt.init with ring := [⟨3, evRec 0x4802 true⟩], unarch := 1, nextSeq := 4, anyWritten := true }
    ar := { ArSt.init with flush := true, pageAt := [(0, 5)] } }

/-- A device whose field dies hold inputs and outputs beyond their registers. -/
def fielded (s : State) (di : AMap DiSt) (dos : AMap DoSt) : State := { s with fd := { FdSt.init0 with di := di, dos := dos } }

/-- Twelve words that serve as a nonce. -/
def nonce12 : List W32 := w32s [1, 2, 3, 4, 5, 6, 7, 8, 9, 10, 11, 12]

/-- A device with a state of the access unit. -/
def secured (s : State) (f : SecSt → SecSt) : State := { s with sc := f s.sc }

/-- Renby port 0 is enabled and stands at a step. -/
def ported (p : PortSt) : State := { put (dev .run) [(RB_CFG_EN, 0, 1), (RB_CFG_DEVID, 0, 2), (RB_PORT_EN, 0, 1)] with rb := { RbSt.init with port := [(0, p)] } }

/-- The header of a Renby frame of 12 words from device 7 to device 9, and its trailer with a link counter, a checksum and key epoch 0. -/
def frameHead : List W32 := w32s [0x18240006, 0x01C09005, 3, 0]
def frameTail (ctr crc : Nat) : List W32 := w32s [ctr, 0, crc, 0, 0, 0, 0, 0]
/-- The checksum of that frame with link counter 4. -/
def frameCrc : Nat := crc32c (frameHead ++ w32s [4, 0])

/-- Station 4095 is enabled, in a state, with a record of its own. -/
def stationed (state : Nat) (x : StnSt) : State :=
  { put (dev .run) [(RB_STN_EN, 4095, 1), (RB_STN_IN_LEN, 4095, 16), (RB_STN_MISS, 4095, 3), (RB_STNST_STATE, 4095, state)] with
    rb := { RbSt.init with stn := [(4095, x)] } }

/-- A Let of a class in progress that began in RUN at an elapsed time. -/
def letting (cls at_ : Nat) : State :=
  { dev .letMode with mo := { (dev .letMode).mo with letClass := cls, letFrom := .run, letAt := at_, letL2At := at_, captain := false } }

/-- A sealed store with nothing in it. -/
def sealedStore : CsImage :=
  { mode := 4, cause := 1, time := ⟨1000, 0⟩, logicCrc := none, m := [], q := [], tasks := [], causes := [], merged := [], mono := 0
    loops := [], axes := [], stand := [], umQ := [], qOut := [], subs := [], recs := [], lanes := [], dirty := [], regs := [], key := 0 }

/-- Errors that wait, that are handled, that are queued. -/
def erring (s : State) (a h q : List ErrRec) : State := { s with ec := { ErrCtl.init with arrivals := a, handling := h, queue := q } }

/-- A logic image of one task of the given number and entry word, a piece of code and the Q byte 2 that the task owns, with safe value 7. -/
def image (task word0 : Nat) (code : List Nat) : LogicImage :=
  { version := 1, total := 256, sections := [(0, 0), (64, 4 * code.length), (128, 32), (160, 0), (160, 0), (160, 0), (160, 0), (160, 0)]
    vmask := 7, svn := 0, crc := 0x1234, code := w32s code, tasks := [(task, 5, w32s [word0, 1000, 1000, 0, 0])], insts := []
    qown := [(2, task, 7)], stations := [], psets := [] }

/-- The device runs that image; its task is 63, enabled on core 0. -/
def logic (code : List Nat) (regs : List (Field × Nat × Nat)) (tasks : AMap LgTask) : State :=
  { put (dev .run) ([(LG_TASK_EN, 63, 1), (LG_TASK_WDT, 63, 1000)] ++ regs) with
    lg := { LgSt.init with running := true, active := some (image 63 0 code), tasks := tasks } }

/-- An open cycle of a task. -/
def openCycle (ended : LgEnd) : LgOpen :=
  { snapAt := 799999200000, wdt := 1000, q := [(2, some 0x55)], p := [], undo := [], entries := 0, ended := ended, liveStn := [] }

/-- A data block of an image's instance records: address, size, symbol. -/
def dataBlock (addr size sym : Nat) : List W32 := w32s [0x40000000 + addr, size, sym, 0]

/-- A point of a type and binding. -/
def ptOf (type bind scan op : Nat) : PtDef := ⟨type, 0, false, false, 0, bind, scan, op, 0, 0, 0, 0⟩

/-- A write for the next round: point 5, value 1, rank 3, source 2, of the command of ring 0, fetch 1. -/
def roundWrite : UWrite := ⟨5, 1, false, 3, 2, 0, some (0, 1), 0, none, none, false⟩

/-- A device with loops and axes beyond their registers. -/
def looped (s : State) (loops : AMap LoopSt) (axes : AMap AxisSt) : State := { s with le := { LeSt.init with loops := loops, axes := axes } }

/-- A tuning run that began at an elapsed time. -/
def tuneRun (at_ : Nat) : TuneRun := ⟨0, at_, false, 0, 0, 0, [], [], 0, 0⟩

/-- A device with other modes state, Keeper state, time state, mailbox state. -/
def moded (s : State) (f : Modes → Modes) : State := { s with mo := f s.mo }
def kept (s : State) (f : Keeper → Keeper) : State := { s with kp := f s.kp }
def timed (s : State) (f : TimeUnit → TimeUnit) : State := { s with tu := f s.tu }

/-- Safety function 31 enabled as an emergency stop on inputs 46 and 47 with reset input 45, in a state, with registers and a record. -/
def safed (state : Nat) (l : List (Field × Nat × Nat)) (x : SfFn) : State :=
  { put (dev .run) ([(SF_FSTAT_STATE, 31, state), (SF_FUNC_EN, 31, 1), (SF_FUNC_KIND, 31, 1), (SF_FUNC_IN_A, 31, 46), (SF_FUNC_IN_B, 31, 47)] ++ l) with
    sf := { SfSt.init with fn := [(31, x)] } }

/-- A safety function whose channels are healthy. -/
def healthy : SfFn := { SfFn.init with chA := ⟨false, 0⟩, chB := ⟨false, 0⟩ }

/-- Renby port 15 is up. -/
def linked (s : State) : State :=
  { put s [(RB_CFG_EN, 0, 1), (RB_PORT_EN, 15, 1)] with rb := { RbSt.init with port := [(15, { PortSt.init with step := 7 })] } }

/-- A step of a recipe: kind, point, value (low word), ticks. -/
def rpStep (kind point value ticks : Nat) : List W32 := w32s [kind * 2 ^ 28 + point, value, 0, ticks, 0]

/-- Lane 63 stands at a state, with the step it runs and the points of the directory. -/
def recipe (x : RpLane) (step : List W32) (defs : AMap (Option PtDef)) (recs : AMap PtRec) : State :=
  { dev .run with rp := { RpSt.init with lanes := [(63, x)], steps := [(9, step)] }, pd := { PdSt.init with defs := defs, recs := recs } }

/-- Ring 63 is a stream ring of 16 entries with a stream of channel 0. -/
def streaming (st : Stream) (cons : Nat) : State :=
  { put (dev .run) [(MB_RINGREG_EN, 63, 1), (MB_RINGREG_KIND, 63, 3), (MB_RINGREG_SIZE_LOG2, 63, 4), (MB_RINGREG_CONS, 63, cons)] with
    af := { AfSt.init with streams := [(63, some st)] } }

/-- An outcome that answers the state that a test names. -/
theorem next_of_test (r : Host.Outcome State Fault Refusal) (t : State)
    (h : (match r with | .next x => decide (x = t) | _ => false) = true) : r = .next t := by
  cases r with
  | next x => exact congrArg _ (of_decide_eq_true h)
  | fault f => cases h
  | refused f => cases h

/-- The blocks of a frame of a class for port p, all on the first lane of its bond. -/
def onLane (s : State) (p cls : Nat) (words : List W32) : List LineBlock :=
  lineBlocks (fun k => mget (fun _ => 0) s.rb.lastBlk (s.rd RB_PORT_LANE p + k))
    ((frameBlocks cls (words.map (·.toNat))).map (fun x => (0, x)))

/-- Those blocks are on the line. -/
theorem onLane_onLine (s : State) (p cls : Nat) (words : List W32) : s.OnLine p cls words (onLane s p cls words) :=
  ⟨(frameBlocks cls (words.map (·.toNat))).map (fun x => (0, x)), by simp [Function.comp_def], by
    intro x hx
    obtain ⟨y, -, rfl⟩ := List.mem_map.mp hx
    exact Nat.two_pow_pos _, rfl⟩

/-- Renby port 0 is enabled and stands at a step; its lane has block lock. -/
def reading (p : PortSt) : State := put (ported p) [(LN_LANE_STEP, 4, 3)]

/-- A device whose Ethernet lane 19 is up, with a state of the time unit. -/
def ethernet (f : TimeUnit → TimeUnit) : State := timed (put (dev .run) [(LN_LANE_PROTO, 19, 2), (LN_LANE_UP, 19, 1)]) f

/-- A time message: type, two-step flag, sequence, arrival, time carried. -/
def ptp (kind : Nat) (two : Bool) (seq : Nat) (ingress origin : Int) : PtpFrame :=
  ⟨kind, 0, two, seq, ingress, origin, 6, 77, 37, 0, true⟩

/-! Values worked out by the spec. -/

/-- "Worked example: one calibrated sample" of 05_analog_front_end.md (R122). -/
theorem test_calibrate : calibrate 12000 Slice.init 40 0x4020C5 = 3077503 := by decide

/-- R141: AF_CORE[6]; 07_protection_elements.md: PE_ELEM[200]; Table 3.13: PE_ELEM[1033]. -/
theorem test_objectIds : mkObjId 8 6 1 = 0x08000601 ∧ mkObjId 0x10 200 1 = 0x1000C801 ∧ mkObjId 0x10 1033 1 = 0x10040901 := by decide

/-- Table 3.13: the fields of an entry. -/
theorem test_entryFields :
    let c := entry [0x0101002A, 0xC, 0x10040901, 3, 0x00020002, 0, 0]
    c.opcode = opWrite ∧ c.tag = 0x2A ∧ objUnit c.objid = 0x10 ∧ objInst c.objid = 1033 ∧ objGrp c.objid = 1 ∧ c.session = 3
      ∧ c.first = 2 ∧ c.count = 2 ∧ c.buf = false := by decide

/-- Table 12.7: step 0x00103 of lane 5, WAIT pressure ≥ 445.0 for at most 2,000 ticks; step 0x00100 is linked. -/
theorem test_recipeStepFields :
    let w := w32s [0x35004A20, 0x43DE8000, 0, 0x7D0, 0x110]
    stKind w = 3 ∧ stCmp w = 5 ∧ stPoint w = 0x4A20 ∧ stVal w = 0x43DE8000 ∧ stTicks w = 2000 ∧ stTarget w = 0x110 ∧ stLink w = false
      ∧ stLink (w32s [0x18004A12, 1, 0, 0, 0]) = true := by decide

/-- "Worked example: a pump start with ramp and wait": 400.0 is 0x43C80000 in binary32; 450.0 is 0x407C200000000000 in binary64,
and 0x43E10000 in binary32. -/
theorem test_pointConversions :
    toF64 4 0x43C80000 = 0x4079000000000000 ∧ fromF64 4 0x407C200000000000 = (0x43E10000, false) := by decide +kernel

/-- "Worked example: inverse curve with inverse reset": t(6) of the IEEE extremely inverse curve at TMS 2.000 is 1.854829 s. -/
theorem test_inverseCurve :
    let r := State.reset.curveRate 0x13 2000 (6 * 2 ^ 40)
    r.1 * 18548285 ≤ r.2 * 10000000 ∧ r.2 * 10000000 ≤ r.1 * 18548295 := by decide +kernel

/-- R21: the commit point of a pass lies 100 µs into it; "three commands across a Let L1" has a pass start at 600,000,000 ns. -/
theorem test_commitPoint : commitPoint 600000000 = 600100000 ∧ commitPoint 600100001 = 600225000 := by decide

/-- The CRC-32C of four zero bytes is 0x48674BC7 (the polynomial of R78 in its common published check). -/
theorem test_crc : crc32c [0] = 0x48674BC7 := by decide +kernel

/-- R549, by hand: data 1 at address 0 gives p1 + p0 = 1 and 2 · p1 + p0 = 4, so p1 = 3 and p0 = 2; a beat that lost d0 is corrected
at place 2. -/
theorem test_sdCode :
    (sdWrite 0 1).syms = BitVec.ofNat 80 (1 + 2 * 2 ^ 64 + 3 * 2 ^ 72)
      ∧ sdRead ⟨0, BitVec.ofNat 80 (2 * 2 ^ 64 + 3 * 2 ^ 72)⟩ = .corrected 2 (BitVec.ofNat 80 (1 + 2 * 2 ^ 64 + 3 * 2 ^ 72)) := by decide +kernel

/-- Table 17.3: START of class 2, IDLE, a type that is not in the table; R468: an invalid sync header. -/
theorem test_blocks :
    blockOf 2 0x8078 = .start 2 ∧ blockOf 2 0x1E = .idle ∧ blockOf 2 0x55 = .invalid ∧ blockOf 1 0x55 = .data 0x55 ∧ blockOf 3 0x1E = .invalid := by
  decide

/-- The table gives no row bits: no word spells a command, and nothing is put in the queue. -/
theorem test_noWordDecodes : decodeTableWord 32 0x10000 = none ∧ State.reset.withFetchWord 32 0x10000 = State.reset :=
  ⟨rfl, rfl⟩

/-! Witnesses: witness_<Name> is for Obligations.<Name>. -/

/-- States and operands that meet the hypotheses of each clause. -/
theorem witness_AbortEndsACommandBeforeItsCommitPoint :
    (∃ (s : State) (ring : ℕ) (idx : ℕ) (c : Cmd) (a : Cmd), s.Inv ∧ s.Ready ring idx c ∧ c.Plain opAbort 8 ∧ c.len = 8 ∧ c.objid =
      0 ∧ (c.par 0).get 31 30 = 0 ∧ (c.par 0).get 23 16 = 0 ∧ (c.par 1).get 30 16 = 0 ∧ s.inMode modesAll = true ∧ s.abortTarget
      c = some a ∧ a.undecided = true ∧ s.pastCommit a = false ∧ (∀ x ∈ s.mb.inflight, (x.ref = a.ref → x = a) ∧ (x.ref = c.ref
      → x = c)) ∧ s.lg.switch = none) ∧
    (∃ (s : State) (ring : ℕ) (idx : ℕ) (c : Cmd), s.Inv ∧ s.Ready ring idx c ∧ c.Plain opAbort 8 ∧ c.len = 8 ∧ c.objid = 0 ∧
      (c.par 0).get 31 30 = 0 ∧ (c.par 0).get 23 16 = 0 ∧ (c.par 1).get 30 16 = 0 ∧ s.inMode modesAll = true ∧ (s.abortTarget c
      = none ∨ ∃ a, s.abortTarget c = some a ∧ a.undecided = false)) :=
  ⟨⟨{ dev .run with mb := { Mailbox.init with inflight := [{ plain opBankSwap (obj 9 4 1) [1, 0] with phase := .started, idx := 5, order := 0 }, plain opAbort 0 [0, 0x80000005]] } },
     0, 0, plain opAbort 0 [0, 0x80000005],
     { plain opBankSwap (obj 9 4 1) [1, 0] with phase := .started, idx := 5, order := 0 },
    by unfold State.Inv State.Ready Cmd.Plain; decide +kernel⟩,
   ⟨has (dev .run) (plain opAbort 0 [0, 0x80000005]), 0, 0, plain opAbort 0 [0, 0x80000005],
    by unfold State.Inv State.Ready Cmd.Plain; decide +kernel⟩⟩

/-- States and operands that meet the hypotheses of each clause. -/
theorem witness_AccessCommandsChangeOnlyTheirKinds :
    (∃ (i : Instr) (s : State), commandFamily i = Family.access ∧ s.Inv) :=
  ⟨Instr.authEnd 0 0, dev .run,
    by unfold State.Inv; decide +kernel⟩

/-- States and operands that meet the hypotheses of each clause. -/
theorem witness_BanksInjectionsAndProcessBusAct :
    (∃ (s : State) (ring : ℕ) (idx : ℕ) (c : Cmd), s.Inv ∧ s.Ready ring idx c ∧ c.Plain opBankSwap 8 ∧ s.authorized c = true ∧
      s.inMode modesTrain = true ∧ s.var = Variant.cpx9640 ∧ objUnit c.objid = 9 ∧ objGrp c.objid = 4 ∧ objUnknown 9 4 (objInst
      c.objid) = false ∧ (c.par 0).get 31 1 = 0 ∧ s.boundaryOk (BitVec.toNat (c.par 1)) = true ∧ s.swapOf (objInst c.objid) =
      none ∧ s.swapMembers (objInst c.objid) ≠ [] ∧ (∀ k ∈ s.swapMembers (objInst c.objid), s.bankOk k ((c.par 0).get 0 0) =
      true)) ∧
    (∃ (s : State) (g : ℕ) (w : Swap) (c : Cmd), s.Inv ∧ s.pathsOn = true ∧ g < 16 ∧ s.swapOf g = some w ∧ w.tb ≤ s.tai ∧ w.bank
      < 2 ∧ c ∈ s.mb.inflight ∧ s.findCmd w.cmd.1 w.cmd.2 = some c ∧ c.phase = CmdPhase.started) ∧
    (∃ (s : State) (ring : ℕ) (idx : ℕ) (c : Cmd), s.Inv ∧ s.Ready ring idx c ∧ s.authorized c = true ∧ isCoreObj c = true ∧
      s.objAbsent 8 1 (objInst c.objid) = false ∧ objUnknown 8 1 (objInst c.objid) = false ∧ c.Plain opInjectStart 12 ∧ s.inMode
      modesC = true ∧ (c.par 0).get 31 4 = 0 ∧ (c.par 1).get 29 0 = 0 ∧ (c.par 1).get 31 30 ≠ 3 ∧ (c.par 2).get 15 0 ≠ 0 ∧
      (s.afCore (objInst c.objid)).inj = none) ∧
    (∃ (s : State) (ring : ℕ) (idx : ℕ) (c : Cmd), s.Inv ∧ s.Ready ring idx c ∧ s.authorized c = true ∧ isCoreObj c = true ∧
      s.objAbsent 8 1 (objInst c.objid) = false ∧ objUnknown 8 1 (objInst c.objid) = false ∧ c.Plain opInjectStop 0 ∧ s.inMode
      modesAll = true ∧ mapOk (fun _ => AfCore.init) s.af.cores = true) ∧
    (∃ (s : State) (k : ℕ) (appid : ℕ) (mac : ℕ) (confRev : ℕ) (cnt : ℕ), s.Inv ∧ s.pathsOn = true ∧ List.find? (fun k => s.flag
      FC_SVSTR_EN k && s.rd FC_SVSTR_APPID k == appid && s.rd FC_SVSTR_MAC_HI k * 65536 + s.rd FC_SVSTR_MAC_LO k == mac)
      (List.range 32) = some k ∧ s.flag FC_SVSTR_SPC k = false ∧ s.rd FC_SVSTR_CONFREV k = confRev ∧ cnt < s.fsv k ∧ s.svUsers k
      = [] ∧ (∀ v ∈ (s.sv k).hist, v.t ≠ s.svInstant k cnt)) ∧
    (∃ (s : State) (k : ℕ) (v : SvVal) (l : List SvVal), s.Inv ∧ k < 32 ∧ (s.sv k).hist = v :: l ∧ s.flag FC_SVSTR_EN k = true ∧
      s.rd FC_SVSTR_STATE k = 1 ∧ v.rx + 100000000 ≤ s.tai) ∧
    (∃ (s : State) (k : ℕ), s.Inv ∧ k < 8 ∧ s.rd FC_TRACK_STATE k = 2 ∧ (s.track k).holdAt + 2000000000 ≤ s.tai) :=
  ⟨⟨has (put { dev .run with fc := { FcSt.init with rom := [(10, 1), (11, 1)] } } [(FC_CHAN_SWAP_GRP, 5, 1)]) (plain opBankSwap
     (obj 9 4 1) [1, 0]), 0, 0, plain opBankSwap (obj 9 4 1) [1, 0],
    by unfold State.Inv State.Ready Cmd.Plain; decide +kernel⟩,
   ⟨{ has (put (dev .run) [(FC_CHAN_SWAP_GRP, 5, 1), (FC_GRP_PEND, 1, 1)]) { plain opBankSwap (obj 9 4 1) [1, 0] with phase := .started } with fc := { FcSt.init with swaps := [(1, some ⟨1, 999000000000, (0, 1)⟩)] } },
     1, ⟨1, 999000000000, (0, 1)⟩, { plain opBankSwap (obj 9 4 1) [1, 0] with phase := .started },
    by unfold State.Inv; decide +kernel⟩,
   ⟨has (dev .commission) (plain opInjectStart (obj 8 1 2) [3, 0x40000000, 0x00100005]), 0, 0, plain opInjectStart (obj 8 1 2)
     [3, 0x40000000, 0x00100005],
    by unfold State.Inv State.Ready Cmd.Plain; decide +kernel⟩,
   ⟨has (dev .run) (plain opInjectStop (obj 8 1 2) []), 0, 0, plain opInjectStop (obj 8 1 2) [],
    by unfold State.Inv State.Ready Cmd.Plain; decide +kernel⟩,
   ⟨put (dev .run) [(FC_SVSTR_EN, 2, 1), (FC_SVSTR_APPID, 2, 0x4000), (FC_SVSTR_MAC_HI, 2, 0x010CCD04), (FC_SVSTR_MAC_LO, 2, 1),
     (FC_SVSTR_CONFREV, 2, 1)], 2, 0x4000, 0x010CCD040001, 1, 3999,
    by unfold State.Inv; decide +kernel⟩,
   ⟨{ put (dev .run) [(FC_SVSTR_EN, 2, 1), (FC_SVSTR_STATE, 2, 1)] with fc := { FcSt.init with sv := [(2, ⟨[⟨999800000000, 999900000000, true, []⟩], 0⟩)] } },
     2, ⟨999800000000, 999900000000, true, []⟩, [],
    by unfold State.Inv; decide +kernel⟩,
   ⟨{ put (dev .run) [(FC_TRACK_STATE, 7, 2), (FC_TRACK_FREQ, 7, 49000000)] with fc := { FcSt.init with trk := [(7, ⟨[], 998000000000, false⟩)] } },
     7,
    by unfold State.Inv; decide +kernel⟩⟩

/-- States and operands that meet the hypotheses of each clause. -/
theorem witness_BootStepsFollowStartUpTimeline :
    (∃ (s : State), s.Inv ∧ s.bootAt BootStep.rom = true) ∧
    (∃ (s : State), s.Inv ∧ s.bootAt BootStep.firmware = true) ∧
    (∃ (s : State) (x : FwSlot), s.Inv ∧ s.bootAt BootStep.firmware = true ∧ s.sc.fwPend = false ∧ s.sc.fwSlot = false ∧
      s.sc.slotA = some x ∧ s.sc.fwSvn ≤ x.svn) ∧
    (∃ (s : State), s.Inv ∧ s.bootAt BootStep.captain = true) ∧
    (∃ (s : State), s.Inv ∧ s.bootAt BootStep.sram = true ∧ s.mo.coldBoot = false) ∧
    (∃ (s : State), s.Inv ∧ s.bootAt BootStep.sram = true) ∧
    (∃ (s : State) (mib : ℕ), s.Inv ∧ s.bootAt BootStep.sdram = true ∧ s.mo.sdram = none ∧ mib < 2 ^ 32) ∧
    (∃ (s : State), s.Inv ∧ s.bootAt BootStep.config = true ∧ s.mo.coldBoot = false ∧ s.lg.committed = none ∧ s.mb.committed =
      none ∧ s.mb.older = [] ∧ s.sc.marker = false) ∧
    (∃ (s : State) (im : CfgImage), s.Inv ∧ s.bootAt BootStep.config = true ∧ s.mo.coldBoot = false ∧ s.lg.committed = none ∧
      s.mb.committed = some im ∧ s.sc.marker = false) ∧
    (∃ (s : State), s.Inv ∧ s.bootAt BootStep.protection = true) :=
  ⟨⟨booting .rom,
    by unfold State.Inv; decide +kernel⟩,
   ⟨booting .firmware,
    by unfold State.Inv; decide +kernel⟩,
   ⟨booting .firmware, ⟨0, 1, 0⟩,
    by unfold State.Inv; decide +kernel⟩,
   ⟨booting .captain,
    by unfold State.Inv; decide +kernel⟩,
   ⟨booting .sram,
    by unfold State.Inv; decide +kernel⟩,
   ⟨booting .sram,
    by unfold State.Inv; decide +kernel⟩,
   ⟨booting .sdram, 2048,
    by unfold State.Inv; decide +kernel⟩,
   ⟨booting .config,
    by unfold State.Inv; decide +kernel⟩,
   ⟨{ booting .config with mb := { Mailbox.init with committed := some ⟨[], 0, 0, 0, 0, true, [], none, [], []⟩ } }, ⟨[], 0, 0,
     0, 0, true, [], none, [], []⟩,
    by unfold State.Inv; decide +kernel⟩,
   ⟨booting .protection,
    by unfold State.Inv; decide +kernel⟩⟩

/-- States and operands that meet the hypotheses of each clause. -/
theorem witness_BreakersRemoteBitsAndZonesAct :
    (∃ (s : State) (n : ℕ), s.Inv ∧ s.protOn = true ∧ n < 32 ∧ s.flag TM_BRKST_BF_RUN n = true ∧ (s.handedOver 0).length < 8190 ∧
      s.flag TM_BRK_RT_EN n = true ∧ s.flag TM_BRKST_RETRIP n = false ∧ (s.brk n).bfAt + usUnits (s.rd TM_BRK_RT_T n) ≤
      s.elapsed ∧ s.bfGoes n = true) ∧
    (∃ (s : State) (n : ℕ), s.Inv ∧ s.protOn = true ∧ n < 32 ∧ s.flag TM_BRKST_BF_RUN n = true ∧ (s.handedOver 0).length < 8190
      ∧ s.flag TM_BRKST_BACKUP n = false ∧ (s.brk n).bfAt + usUnits (s.rd TM_BRK_BF_T n) ≤ s.elapsed ∧ s.bfGoes n = true) ∧
    (∃ (s : State) (n : ℕ) (x : ℕ), s.Inv ∧ s.protOn = true ∧ n < 32 ∧ s.flag TM_BRK_EN n = true ∧ s.contactPos n = none ∧
      (s.brk n).discAt = some x ∧ x + usUnits (1000 * s.rd TM_BRK_DISC_T n) ≤ s.elapsed ∧ s.rd TM_BRKST_POS n ≠ 3) ∧
    (∃ (s : State), s.Inv ∧ s.protOn = true) ∧
    (∃ (s : State) (k : ℕ), s.Inv ∧ s.protOn = true ∧ k < 64 ∧ s.flag TM_RX_EN k = true ∧ s.flag TM_RX_STALE k = false ∧ (s.dev
      (s.rd TM_RX_DEVID k)).mode ≠ 5 ∧ (mget (fun _ => 0) s.tm.rxAt (s.rd TM_RX_DEVID k) + usUnits 2000 ≤ s.elapsed + 1 ∨
      s.linkFailed (s.rd TM_RX_DEVID k) = true)) ∧
    (∃ (s : State), s.Inv ∧ s.protOn = true ∧ s.flag RB_CFG_EN 0 = true ∧ s.tm.tx.time + usUnits 500 ≤ s.elapsed) ∧
    (∃ (s : State) (z : ℕ) (words : List W32), s.Inv ∧ s.protOn = true ∧ s.var = Variant.cpx9640 ∧ List.find? (fun z => s.flag
      TM_ZONE_EN z && s.rd TM_ZONE_ZID z == (words.getD 0 0).get 31 16) (List.range 8) = some z) ∧
    (∃ (s : State) (z : ℕ) (k : ℕ) (stamp : ℕ), s.Inv ∧ s.protOn = true ∧ z < 8 ∧ k < 64 ∧ s.flag TM_ZONE_EN z = true ∧ s.rdk
      TM_ZONE_SLOT_EN z k = 1 ∧ s.rdk TM_ZONE_DEVID z k ≠ s.localDev ∧ s.zoneDeadline z stamp ≤ s.tai ∧ (∀ x ∈ (s.fcChan
      (remoteChan z k 0)).fine, x.t ≠ stamp) ∧ (∀ m ∈ (s.fcChan (remoteChan z k 0)).fineMarks, m.a ≠ stamp)) ∧
    (∃ (s : State) (z : ℕ) (x : ℕ), s.Inv ∧ s.protOn = true ∧ z < 8 ∧ z ∈ s.zones ∧ s.rd TM_ZSTAT_CAUSE z = 0 ∧ s.flag
      TM_ZSTAT_BLK z = true ∧ (s.zoneSt z).clearAt = some x ∧ x + s.zoneRec z ≤ s.passElapsed ∧ (s.handedOver 0).length < 8192) :=
  ⟨⟨put (dev .run) [(TM_BRKST_BF_RUN, 31, 1), (TM_BRK_RT_EN, 31, 1), (TM_BRK_RT_T, 31, 50000), (TM_BRK_BF_MODE, 31, 2)], 31,
    by unfold State.Inv; decide +kernel⟩,
   ⟨put (dev .run) [(TM_BRKST_BF_RUN, 31, 1), (TM_BRK_BF_T, 31, 50000), (TM_BRK_BF_MODE, 31, 2), (TM_BRKST_BFOPS, 31, 65535)],
     31,
    by unfold State.Inv; decide +kernel⟩,
   ⟨{ put (dev .run) [(TM_BRK_EN, 3, 1), (TM_BRK_AUXA, 3, 1), (TM_BRK_AUXB, 3, 2), (TM_BRK_DISC_T, 3, 100)] with tm := { TmSt.init with brk := [(3, ⟨none, none, 0, some 5⟩)] } },
     3, 5,
    by unfold State.Inv; decide +kernel⟩,
   ⟨put (dev .run) [(TM_RX_EN, 63, 1), (TM_RX_DEVID, 63, 9), (TM_RX_CH, 63, 31)],
    by unfold State.Inv; decide +kernel⟩,
   ⟨put (dev .run) [(TM_RX_EN, 63, 1), (TM_RX_DEVID, 63, 9), (TM_RX_SUBST, 63, 1)], 63,
    by unfold State.Inv; decide +kernel⟩,
   ⟨put (dev .run) [(RB_CFG_EN, 0, 1)],
    by unfold State.Inv; decide +kernel⟩,
   ⟨put (dev .run) [(TM_ZONE_EN, 7, 1), (TM_ZONE_ZID, 7, 12)], 7, w32s [0x000CA005, 0x12345678],
    by unfold State.Inv; decide +kernel⟩,
   ⟨putk (put (dev .run) [(TM_ZONE_EN, 7, 1)]) [(TM_ZONE_SLOT_EN, 7, 63, 1), (TM_ZONE_DEVID, 7, 63, 9)], 7, 63, 999000000000,
    by unfold State.Inv; decide +kernel⟩,
   ⟨{ put (dev .run) [(TM_ZONE_EN, 7, 1), (TM_ZSTAT_BLK, 7, 1), (TM_ZSTAT_CAUSE, 7, 0)] with tm := { TmSt.init with zone := [(7, ⟨[], 80000, some 700000000000⟩)] } },
     7, 700000000000,
    by unfold State.Inv; decide +kernel⟩⟩

/-- States and operands that meet the hypotheses of each clause. -/
theorem witness_CalibratedValueFollowsItsFormula :
    (∃ (s : State) (chan : ℕ) (slice : ℕ) (t : ℕ), s.twinned chan = false ∧ slice < 4 ∧ s.injected chan t = false) :=
  ⟨dev .run, 63, 3, 1000000000000,
    by decide +kernel⟩

/-- States and operands that meet the hypotheses of each clause. -/
theorem witness_ChangesArchiveAndDisturbanceRecordsAct :
    (∃ (s : State) (c : PtChange) (l : List PtChange), s.Inv ∧ s.pd.changes = c :: l ∧ s.chOn = true ∧ s.chLosses = 0 ∧ s.ch.epoch =
      some (epochOf c.time) ∧ s.chRoom 1 = true) ∧
    (∃ (s : State) (c : PtChange) (l : List PtChange), s.Inv ∧ s.pd.changes = c :: l ∧ s.chOn = true ∧ s.chLosses = 0 ∧
      s.ch.epoch = some (epochOf c.time) ∧ s.chRoom 1 = false) ∧
    (∃ (s : State), s.Inv ∧ s.chOn = true ∧ s.tu.running = true ∧ s.ch.epoch ≠ some (epochOf s.tai) ∧ s.chRoom 1 = true) ∧
    (∃ (s : State), s.Inv ∧ s.chOn = true ∧ s.chLosses ≠ 0 ∧ s.chRoom 2 = true) ∧
    (∃ (s : State) (c : ℕ) (un : ℕ) (k : ℕ) (first : ℕ), s.Inv ∧ s.arOn = true ∧ s.arPick 0 = some c ∧ un = min s.ev.unarch
      s.ev.ring.length ∧ k = min 510 un ∧ first = (Option.map (fun x => x.seq) s.ev.ring[s.ev.ring.length - un]?).getD 0 ∧
      s.arDue 0 = true ∧ s.arRetired c 0 < s.arBlocks 0) ∧
    (∃ (s : State) (c : ℕ) (un : ℕ) (k : ℕ) (first : ℕ), s.Inv ∧ s.arOn = true ∧ s.arPick 0 = some c ∧ un = min s.ev.unarch
      s.ev.ring.length ∧ k = min 510 un ∧ first = (Option.map (fun x => x.seq) s.ev.ring[s.ev.ring.length - un]?).getD 0 ∧
      s.arDue 0 = true ∧ s.arRetired c 0 + 1 < s.arBlocks 0) ∧
    (∃ (s : State) (c : ℕ) (un : ℕ) (k : ℕ) (first : ℕ), s.Inv ∧ s.arOn = true ∧ s.arPick 0 = some c ∧ un = min s.ev.unarch
      s.ev.ring.length ∧ k = min 510 un ∧ first = (Option.map (fun x => x.seq) s.ev.ring[s.ev.ring.length - un]?).getD 0 ∧ mget
      (fun _ => 0) s.ar.pageAt 0 ≠ 0 ∧ mget (fun _ => 0) s.ar.pageAt 0 + 79999999 ≤ s.elapsed ∧ s.arData 0 ≠ 0 ∧ s.arData 0 <
      510 ∧ s.arRetired c 0 < s.arBlocks 0) ∧
    (∃ (s : State) (chan : ℕ), s.Inv ∧ s.evOn = true ∧ s.arLive chan = true) ∧
    (∃ (s : State) (chan : ℕ), s.Inv ∧ s.evOn = true ∧ chan < s.byVar 2 1 1 ∧ s.rd AR_STAT_STATE chan = 2) ∧
    (∃ (s : State) (q : ℕ × ℕ) (l : List (ℕ × ℕ)) (n : ℕ), s.Inv ∧ s.dr.queue = q :: l ∧ s.drOn = true ∧ s.drOpen q.2 = none ∧
      s.drFree (s.drNew q.1 q.2).bytes = some n) ∧
    (∃ (s : State) (q : ℕ × ℕ) (l : List (ℕ × ℕ)) (n : ℕ) (r : DrRec), s.Inv ∧ s.dr.queue = q :: l ∧ s.drOn = true ∧ s.drOpen
      q.2 = some (n, r) ∧ r.trigs.length < 16) ∧
    (∃ (s : State) (ring : ℕ) (idx : ℕ) (n : ℕ) (c : Cmd), s.Inv ∧ s.Ready ring idx c ∧ c.Plain opDrTrigger 0 ∧ c.objid =
      838860801 ∧ s.inMode modesCrs = true ∧ s.drOn = true ∧ s.drOpen s.tai = none ∧ s.drFree (s.drNew 32 s.tai).bytes = some n)
      ∧
    (∃ (s : State) (n : ℕ) (r : DrRec), s.Inv ∧ s.drOn = true ∧ List.find? (fun e => e.2.state == 1 && s.drArrived e.2) s.drHeld
      = some (n, r) ∧ (s.handedOver 50).length < 1024) ∧
    (∃ (s : State) (ring : ℕ) (idx : ℕ) (n : ℕ) (c : Cmd) (r : DrRec), s.Inv ∧ s.Ready ring idx c ∧ c.WithBuffer opDrExport 1 4
      ∧ objUnit c.objid = 50 ∧ objGrp c.objid = 4 ∧ objInst c.objid = n ∧ n < 64 ∧ expBad (c.par 0) = false ∧ s.inMode modesAll
      = true ∧ s.drRec n = some r ∧ r.state ≠ 1 ∧ r.expKib * 1024 ≤ c.bufLen ∧ s.bufReach c = true ∧ ((c.par 0).get 26 26 = 1 ∨
      r.chans (c.par 0) ≠ [])) :=
  ⟨⟨{ put (dev .run) [(CH_CFG_EN, 0, 1), (CH_CFG_BUF_MIB, 0, 1)] with pd := { PdSt.init with changes := [⟨5, 7, 0, 1000000000000⟩] }, ch := { ChSt.init with started := true, epoch := some 232 } },
     ⟨5, 7, 0, 1000000000000⟩, [],
    by unfold State.Inv; decide +kernel⟩,
   ⟨{ put (dev .run) [(CH_CFG_EN, 0, 1), (CH_CFG_BUF_MIB, 0, 0)] with pd := { PdSt.init with changes := [⟨5, 7, 0, 1000000000000⟩] }, ch := { ChSt.init with started := true, epoch := some 232 } },
     ⟨5, 7, 0, 1000000000000⟩, [],
    by unfold State.Inv; decide +kernel⟩,
   ⟨{ put (dev .run) [(CH_CFG_EN, 0, 1), (CH_CFG_BUF_MIB, 0, 1)] with ch := { ChSt.init with started := true, epoch := some 231 } },
    by unfold State.Inv; decide +kernel⟩,
   ⟨{ put (dev .run) [(CH_CFG_EN, 0, 1), (CH_CFG_BUF_MIB, 0, 1)] with ch := { ChSt.init with started := true, epoch := some 231, lossCnt := 2, lossFirst := 999000000000, lossLast := 999500000000 } },
    by unfold State.Inv; decide +kernel⟩,
   ⟨archiving, 0, 1, 1, 3,
    by unfold State.Inv; decide +kernel⟩,
   ⟨archiving, 0, 1, 1, 3,
    by unfold State.Inv; decide +kernel⟩,
   ⟨archiving, 0, 1, 1, 3,
    by unfold State.Inv; decide +kernel⟩,
   ⟨archiving, 0,
    by unfold State.Inv; decide +kernel⟩,
   ⟨put (dev .run) [(AR_STAT_STATE, 1, 2)], 1,
    by unfold State.Inv; decide +kernel⟩,
   ⟨{ put (dev .run) [(DR_CFG_EN, 0, 1), (DR_CFG_BUF_MIB, 0, 16)] with dr := { DrSt.init with queue := [(3, 1000000000000)] } },
     (3, 1000000000000), [], 0,
    by unfold State.Inv; decide +kernel⟩,
   ⟨{ put (dev .run) [(DR_CFG_EN, 0, 1), (DR_CFG_BUF_MIB, 0, 16), (DR_CFG_EXTEND, 0, 1)] with dr := { DrSt.init with queue := [(3, 1000000000000)], recs := [(2, some (drRecord 1 999900000000 1000100000000))] } },
     (3, 1000000000000), [], 2, drRecord 1 999900000000 1000100000000,
    by unfold State.Inv; decide +kernel⟩,
   ⟨has (put (dev .run) [(DR_CFG_EN, 0, 1), (DR_CFG_BUF_MIB, 0, 16)]) (plain opDrTrigger (obj 0x32 1 0) []), 0, 0, 0, plain
     opDrTrigger (obj 0x32 1 0) [],
    by unfold State.Inv State.Ready Cmd.Plain; decide +kernel⟩,
   ⟨{ put (dev .run) [(DR_CFG_EN, 0, 1)] with dr := { DrSt.init with recs := [(2, some (drRecord 1 999800000000 999900000000))] } },
     2, drRecord 1 999800000000 999900000000,
    by unfold State.Inv; decide +kernel⟩,
   ⟨has { dev .run with dr := { DrSt.init with recs := [(63, some (drRecord 2 999800000000 999900000000))] } } (buffered
     opDrExport (obj 0x32 4 63) 1 1024 [0x44000000]), 0, 0, 63, buffered opDrExport (obj 0x32 4 63) 1 1024 [0x44000000],
     drRecord 2 999800000000 999900000000,
    by unfold State.Inv State.Ready Cmd.WithBuffer; decide +kernel⟩⟩

/-- States and operands that meet the hypotheses of each clause. -/
theorem witness_ClockAndWatchdogFaultsStopHeartbeat :
    (∃ (s : State), s.Inv ∧ s.tu.running = true ∧ s.mo.protFail = false) ∧
    (∃ (s : State), s.Inv ∧ s.protOn = true ∧ s.pe.lastPass + 200000 ≤ s.elapsed) ∧
    (∃ (s : State), s.Inv ∧ s.mo.vddKeep = true ∧ s.kp.fromRc = false ∧ s.mo.mode ≠ Mode.keeper ∧ s.mo.resetN = true) :=
  ⟨⟨dev .run,
    by unfold State.Inv; decide +kernel⟩,
   ⟨dev .run,
    by unfold State.Inv; decide +kernel⟩,
   ⟨dev .run,
    by unfold State.Inv; decide +kernel⟩⟩

/-- States and operands that meet the hypotheses of each clause. -/
theorem witness_ConfigurationImagesAreStagedAppliedAndRead :
    (∃ (s : State) (ring : ℕ) (idx : ℕ) (ws : List W32) (sig : Bool) (c : Cmd), s.Inv ∧ s.Ready ring idx c ∧ c.WithBuffer opCfgLoad
      0 0 ∧ s.inMode modesAll = true ∧ s.bufReach c = true ∧ s.loadFault ws c.bufLen sig = none) ∧
    (∃ (s : State) (ring : ℕ) (idx : ℕ) (c : Cmd), s.Inv ∧ s.Ready ring idx c ∧ c.Plain opCfgDiscard 0 ∧ s.inMode modesAll =
      true) ∧
    (∃ (s : State) (ring : ℕ) (idx : ℕ) (c : Cmd) (im : CfgImage), s.Inv ∧ s.Ready ring idx c ∧ c.Plain opCfgApply 0 ∧
      s.authorized c = true ∧ s.mb.staged = some im ∧ s.applyFault = none ∧ s.inMode modesCrs = true) ∧
    (∃ (s : State) (ring : ℕ) (idx : ℕ) (c : Cmd) (im : CfgImage), s.Inv ∧ s.Ready ring idx c ∧ c.Plain opCfgApply 0 ∧
      s.authorized c = true ∧ s.mb.staged = some im ∧ s.applyFault = none ∧ s.mo.mode = Mode.boot ∧ s.mo.boot =
      BootStep.awaitConfig) ∧
    (∃ (s : State) (ring : ℕ) (idx : ℕ) (c : Cmd), s.Inv ∧ s.Ready ring idx c ∧ c.Plain opCfgRead 4 ∧ s.inMode modesAll = true ∧
      (c.par 0).get 31 1 = 0) :=
  ⟨⟨has (dev .run) (buffered opCfgLoad 0 0 64 []), 0, 0, w32s [1, 64, 0, 0, 0, 0, 0, 0, 0, 0, 0, 0, 7, 0, 0, 0], true, buffered
     opCfgLoad 0 0 64 [],
    by unfold State.Inv State.Ready Cmd.WithBuffer; decide +kernel⟩,
   ⟨has (dev .run) (plain opCfgDiscard 0 []), 0, 0, plain opCfgDiscard 0 [],
    by unfold State.Inv State.Ready Cmd.Plain; decide +kernel⟩,
   ⟨{ has (dev .run) (plain opCfgApply 0 []) with mb := { Mailbox.init with inflight := [plain opCfgApply 0 []], staged := some ⟨[], 64, 5, 0, 7, true, [], none, [], []⟩ } },
     0, 0, plain opCfgApply 0 [], ⟨[], 64, 5, 0, 7, true, [], none, [], []⟩,
    by unfold State.Inv State.Ready Cmd.Plain; decide +kernel⟩,
   ⟨{ has { State.reset with mo := { Modes.init with boot := .awaitConfig, captain := true, bootstat := 6 } } (plain opCfgApply 0 []) with mb := { Mailbox.init with inflight := [plain opCfgApply 0 []], staged := some ⟨[], 64, 5, 0, 7, true, [], none, [], []⟩ } },
     0, 0, plain opCfgApply 0 [], ⟨[], 64, 5, 0, 7, true, [], none, [], []⟩,
    by unfold State.Inv State.Ready Cmd.Plain; decide +kernel⟩,
   ⟨{ has (dev .run) (plain opCfgRead 0 [1]) with mb := { Mailbox.init with inflight := [plain opCfgRead 0 [1]], staged := some ⟨[], 64, 5, 0, 7, true, [], none, [], []⟩ } },
     0, 0, plain opCfgRead 0 [1],
    by unfold State.Inv State.Ready Cmd.Plain; decide +kernel⟩⟩

/-- States and operands that meet the hypotheses of each clause. -/
theorem witness_ContinuityCommandsChangeOnlyTheirKinds :
    (∃ (i : Instr) (s : State), commandFamily i = Family.continuity ∧ s.Inv) :=
  ⟨Instr.letL1Trigger, dev .run,
    by unfold State.Inv; decide +kernel⟩

/-- States and operands that meet the hypotheses of each clause. -/
theorem witness_ControlCommandsChangeOnlyTheirKinds :
    (∃ (i : Instr) (s : State), commandFamily i = Family.control ∧ s.Inv) :=
  ⟨Instr.loopSample, dev .run,
    by unfold State.Inv; decide +kernel⟩

/-- States and operands that meet the hypotheses of each clause. -/
theorem witness_ConversionsAreCorrectedJudgedAndDelivered :
    (∃ (s : State) (chan : ℕ) (slice : ℕ) (slot : ℕ), s.Inv ∧ s.pathsOn = true ∧ chan < s.nAin ∧ slot + 240 ≤ s.tai ∧ (s.afCore
      (chan / 4)).deferred = none ∧ (s.asOf slot).slotDue chan slice slot = true ∧ (s.afCore ((s.asOf slot).coreOf chan)).convAt
      ≤ slot ∧ (s.asOf slot).triggered chan = false) ∧
    (∃ (s : State) (chan : ℕ) (slice : ℕ) (slot : ℕ) (p : Planned), s.Inv ∧ s.pathsOn = true ∧ chan < s.nAin ∧ slot + 240 ≤
      s.tai ∧ (s.afCore (chan / 4)).deferred = none ∧ (s.asOf slot).slotDue chan slice slot = true ∧ (s.afCore ((s.asOf
      slot).coreOf chan)).convAt ≤ slot ∧ (s.asOf slot).triggered chan = true ∧ (s.asOf slot).planNext (chan / 4) chan slice
      slot false = some p) ∧
    (∃ (s : State) (entry : ℕ) (slot : ℕ) (w : ℕ × ℕ) (r : Raw), s.Inv ∧ s.pathsOn = true ∧ s.rd AF_URG_CHAN entry < s.nAin ∧ (∀
      e ∈ s.af.urg, e.1 < 64) ∧ s.triggered (s.rd AF_URG_CHAN entry) = false ∧ List.find? (fun e => e.1 == entry) s.af.urg =
      some w ∧ s.urgentRaw (s.rd AF_URG_CHAN entry) w.2 = some r ∧ r.t = slot) ∧
    (∃ (s : State) (entry : ℕ) (slice : ℕ) (slot : ℕ) (p : Planned), s.Inv ∧ s.pathsOn = true ∧ s.rd AF_URG_CHAN entry < s.nAin
      ∧ (∀ e ∈ s.af.urg, e.1 < 64) ∧ s.triggered (s.rd AF_URG_CHAN entry) = true ∧ (∃ w ∈ s.af.urg, w.1 = entry) ∧ s.planNext
      (s.rd AF_URG_CHAN entry / 4) (s.rd AF_URG_CHAN entry) slice slot true = some p ∧ slot + 240 ≤ s.tai ∧ s.flag AF_CORE_EN
      (s.rd AF_URG_CHAN entry / 4) = true) ∧
    (∃ (s : State) (core : ℕ) (slice : ℕ) (offset : ℤ) (gain : ℤ) (skew : ℤ), s.Inv ∧ s.pathsOn = true ∧ core < s.byVar 16 8 4 ∧
      slice < 4 ∧ (s.afCore core).inj = none ∧ s.rdk AF_HEALTH_STATE core slice ≠ 2 ∧ estimateCause (List.take 16 ((offset,
      gain, skew) :: (s.slice core slice).ests)) = 0) ∧
    (∃ (s : State) (core : ℕ) (slice : ℕ) (offset : ℤ) (gain : ℤ) (e : ℤ × ℤ × ℤ) (l : List (ℤ × ℤ × ℤ)), s.Inv ∧ s.pathsOn =
      true ∧ core < s.byVar 16 8 4 ∧ slice < 4 ∧ (s.afCore core).inj = none ∧ s.rdk AF_HEALTH_STATE core slice ≠ 2 ∧ (s.slice
      core slice).ests = e :: l ∧ 100 < gain ∧ 100 < e.2.1 ∧ -100 ≤ offset ∧ offset ≤ 100) ∧
    (∃ (s : State) (core : ℕ) (sl : ℕ) (dec : ℕ) (sw : ℕ) (l : List Retire), s.Inv ∧ core < 16 ∧ sl < 4 ∧ (s.afCore core).retire
      = { slice := sl, decided := dec, switch := sw } :: l ∧ sw ≤ s.tai ∧ (s.handedOver 0).length < 8191) :=
  ⟨⟨put (dev .run) [(AF_CORE_EN, 15, 1), (AF_CORE_SCAN, 15, 8), (AF_CORE_MODE, 15, 0)], 63, 3, 999999999750,
    by unfold State.Inv; decide +kernel⟩,
   ⟨{ put (dev .run) [(AF_CORE_EN, 15, 1), (AF_CORE_SCAN, 15, 8), (AF_CORE_MODE, 15, 1)] with        af := { AfSt.init with cores := [(15, { AfCore.init with plan := [⟨63, 999999999760, 3, some 999999999750⟩] })] } },
     63, 3, 999999999760, ⟨63, 999999999760, 3, some 999999999750⟩,
    by unfold State.Inv; decide +kernel⟩,
   ⟨{ put (dev .run) [(AF_CORE_EN, 15, 1), (AF_CORE_SCAN, 15, 8), (AF_URG_CHAN, 3, 63)] with        af := { AfSt.init with urg := [(3, 999999999700)] },        fc := { FcSt.init with ch := [(63, { FcChan.init with raws := [⟨999999999750, 0, 50, 0x1234⟩, ⟨999999999700, 0, 50, 0x77⟩] })] } },
     3, 999999999700, (3, 999999999700), ⟨999999999700, 0, 50, 0x77⟩,
    by unfold State.Inv; decide +kernel⟩,
   ⟨{ put (dev .run) [(AF_CORE_EN, 15, 1), (AF_CORE_MODE, 15, 1), (AF_URG_CHAN, 3, 63)] with        af := { AfSt.init with urg := [(3, 999999999000)], cores := [(15, { AfCore.init with plan := [⟨63, 999999999760, 0, none⟩] })] } },
     3, 0, 999999999760, ⟨63, 999999999760, 0, none⟩,
    by unfold State.Inv; decide +kernel⟩,
   ⟨dev .run, 15, 3, 5, -6, 7,
    by unfold State.Inv; decide +kernel⟩,
   ⟨{ dev .run with af := { AfSt.init with slices := [(63, { Slice.init with ests := [(0, 101, 0)] })] } }, 15, 3, 100, 101, (0,
     101, 0), [],
    by unfold State.Inv; decide +kernel⟩,
   ⟨{ put (dev .run) [(AF_CORE_LIVE, 15, 4)] with af := { AfSt.init with cores := [(15, { AfCore.init with retire := [⟨3, 999999999700, 999999999900⟩] })] } },
     15, 3, 999999999700, 999999999900, [],
    by unfold State.Inv; decide +kernel⟩⟩

/-- States and operands that meet the hypotheses of each clause. -/
theorem witness_DoorbellsMoveTheirRingIndices :
    (∃ (s : State) (hot : Bool) (w : W32), s.Inv ∧ s.rings hot = true ∧ dbKind w = 0 ∧ s.mo.mode ≠ Mode.letMode ∧ s.mo.mode ≠
      Mode.sentinel ∧ s.mo.sent = SentStep.out ∧ s.ringServed (dbRing w) = true ∧ s.ringIs (dbRing w) 0 = true ∧ dbIndex w <
      s.ringSize (dbRing w)) ∧
    (∃ (s : State) (hot : Bool) (w : W32), s.Inv ∧ s.rings hot = true ∧ dbKind w = 0 ∧ s.mo.mode ≠ Mode.letMode ∧ s.mo.mode ≠
      Mode.sentinel ∧ s.mo.sent = SentStep.out ∧ s.ringServed (dbRing w) = true ∧ (s.ringIs (dbRing w) 0 = false ∨ s.ringSize
      (dbRing w) ≤ dbIndex w)) ∧
    (∃ (s : State) (hot : Bool) (w : W32), s.Inv ∧ s.rings hot = true ∧ dbKind w = 1 ∧ s.mo.mode ≠ Mode.letMode ∧ s.mo.mode ≠
      Mode.sentinel ∧ s.mo.sent = SentStep.out ∧ s.ringServed (dbRing w) = true ∧ s.flag MB_RINGREG_EN (dbRing w) = true ∧ s.rd
      MB_RINGREG_KIND (dbRing w) ≠ 0 ∧ dbIndex w < s.ringSize (dbRing w)) ∧
    (∃ (s : State) (hot : Bool) (w : W32), s.Inv ∧ s.rings hot = true ∧ dbKind w = 0 ∧ s.mo.mode = Mode.letMode) ∧
    (∃ (s : State) (hot : Bool) (w : W32), s.Inv ∧ s.rings hot = true ∧ dbKind w = 2 ∧ s.mo.mode ≠ Mode.sentinel ∧ s.ringServed
      (dbRing w) = true ∧ s.ringActs (dbRing w) 0 = true ∧ s.flag MB_RINGREG_LOC (dbRing w) = true ∧ s.ringFull (dbRing w) =
      false ∧ s.rd MB_RINGREG_SIZE_LOG2 (dbRing w) ≤ 16) ∧
    (∃ (s : State) (hot : Bool) (w : W32), s.Inv ∧ s.rings hot = true ∧ dbKind w = 2 ∧ s.mo.mode ≠ Mode.sentinel ∧ s.ringServed
      (dbRing w) = true ∧ (s.ringActs (dbRing w) 0 = false ∨ s.flag MB_RINGREG_LOC (dbRing w) = false ∨ s.ringFull (dbRing w) =
      true)) :=
  ⟨⟨put (dev .run) [(MB_RINGREG_EN, 63, 1), (MB_RINGREG_SIZE_LOG2, 63, 4)], false, 0x3F00000F,
    by unfold State.Inv; decide +kernel⟩,
   ⟨put (dev .run) [(MB_RINGREG_EN, 63, 1), (MB_RINGREG_SIZE_LOG2, 63, 4)], false, 0x3F000010,
    by unfold State.Inv; decide +kernel⟩,
   ⟨put (dev .run) [(MB_RINGREG_EN, 63, 1), (MB_RINGREG_KIND, 63, 1), (MB_RINGREG_SIZE_LOG2, 63, 4)], false, 0x7F00000F,
    by unfold State.Inv; decide +kernel⟩,
   ⟨dev .letMode, false, 0x3F000010,
    by unfold State.Inv; decide +kernel⟩,
   ⟨put (dev .run) [(MB_RINGREG_EN, 63, 1), (MB_RINGREG_SIZE_LOG2, 63, 4), (MB_RINGREG_LOC, 63, 1)], false, 0xBF000000,
    by unfold State.Inv; decide +kernel⟩,
   ⟨put (dev .run) [(MB_RINGREG_EN, 63, 1), (MB_RINGREG_SIZE_LOG2, 63, 4), (MB_RINGREG_LOC, 63, 0)], false, 0xBF000000,
    by unfold State.Inv; decide +kernel⟩⟩

/-- States and operands that meet the hypotheses of each clause. -/
theorem witness_EarlierStatusOfTheOrderIsReturned :
    (∃ (c : Cmd), c.frameBad = true) ∧
    (∃ (c : Cmd) (k : Checks), c.frameBad = false ∧ (c.lengthOk = false ∨ k.form = false)) ∧
    (∃ (s : State) (c : Cmd) (k : Checks) (o : ℕ), c.frameBad = false ∧ c.lengthOk = true ∧ k.form = true ∧ (s.absentObj c =
      some o ∨ s.absentObj c = none ∧ k.absent = some o)) ∧
    (∃ (s : State) (c : Cmd) (k : Checks) (r : ℕ × ℕ), c.frameBad = false ∧ c.lengthOk = true ∧ k.form = true ∧ s.absentObj c =
      none ∧ k.absent = none ∧ c.bufBad = false ∧ k.bad = some r) ∧
    (∃ (s : State) (c : Cmd) (k : Checks), c.frameBad = false ∧ c.lengthOk = true ∧ k.form = true ∧ s.absentObj c = none ∧
      k.absent = none ∧ c.bufBad = false ∧ k.bad = none ∧ k.auth = true ∧ s.authorized c = false) ∧
    (∃ (s : State) (c : Cmd) (k : Checks), c.frameBad = false ∧ c.lengthOk = true ∧ k.form = true ∧ s.absentObj c = none ∧
      k.absent = none ∧ c.bufBad = false ∧ k.bad = none ∧ (k.auth = true → s.authorized c = true) ∧ k.modes = false) ∧
    (∃ (s : State) (c : Cmd) (k : Checks), c.frameBad = false ∧ c.lengthOk = true ∧ k.form = true ∧ s.absentObj c = none ∧
      k.absent = none ∧ c.bufBad = false ∧ k.bad = none ∧ (k.auth = true → s.authorized c = true) ∧ k.modes = true) ∧
    (∃ (s : State) (ring : ℕ) (idx : ℕ) (c : Cmd), s.Inv ∧ s.Ready ring idx c ∧ c.Plain opCfgApply 0 ∧ s.authorized c = false) ∧
    (∃ (s : State) (ring : ℕ) (idx : ℕ) (c : Cmd), s.Inv ∧ s.Ready ring idx c ∧ c.Plain opCfgApply 0 ∧ s.authorized c = true ∧
      s.mo.mode = Mode.boot ∧ s.mo.boot ≠ BootStep.awaitConfig) ∧
    (∃ (s : State) (ring : ℕ) (idx : ℕ) (c : Cmd), s.Inv ∧ s.Ready ring idx c ∧ c.Plain opCfgApply 0 ∧ s.authorized c = true ∧
      s.inMode modesCrs = true ∧ s.mb.staged = none) :=
  ⟨⟨entry [opNop * 65536, 0x80000, 0, 0],
    by decide +kernel⟩,
   ⟨entry [opNop * 65536, 2, 0, 0], { form := true, auth := true, modes := true },
    by decide +kernel⟩,
   ⟨dev .run, plain opInjectStop (obj 8 1 0) [], { form := true, absent := some (obj 8 1 0), auth := true, modes := true }, obj
     8 1 0,
    by decide +kernel⟩,
   ⟨dev .run, plain opInjectStop (obj 8 1 0) [], { form := true, bad := some (obj 8 1 0, 3), auth := true, modes := true }, (obj
     8 1 0, 3),
    by decide +kernel⟩,
   ⟨dev .run, plain opInjectStop (obj 8 1 0) [], { form := true, auth := true, modes := true },
    by decide +kernel⟩,
   ⟨dev .run, plain opInjectStop (obj 8 1 0) [], { form := true, auth := false, modes := false },
    by decide +kernel⟩,
   ⟨dev .run, plain opInjectStop (obj 8 1 0) [], { form := true, auth := false, modes := true, own := some (.noMatch, 0, 0) },
    by decide +kernel⟩,
   ⟨{ dev .run with mb := { Mailbox.init with inflight := [plain opCfgApply 0 []] } }, 0, 0, plain opCfgApply 0 [],
    by unfold State.Inv State.Ready Cmd.Plain; decide +kernel⟩,
   ⟨has { dev .boot with mo := { (dev .boot).mo with boot := .config } } (plain opCfgApply 0 []), 0, 0, plain opCfgApply 0 [],
    by unfold State.Inv State.Ready Cmd.Plain; decide +kernel⟩,
   ⟨has (dev .safe) (plain opCfgApply 0 []), 0, 0, plain opCfgApply 0 [],
    by unfold State.Inv State.Ready Cmd.Plain; decide +kernel⟩⟩

/-- States and operands that meet the hypotheses of each clause. -/
theorem witness_EmptyQueueStepIsOneFabricCycle :
    (∃ (s : State), s.Inv ∧ s.pending = []) :=
  ⟨dev .run,
    by unfold State.Inv; decide +kernel⟩

/-- States and operands that meet the hypotheses of each clause. -/
theorem witness_EndpointResetsDisableHostRings :
    (∃ (s : State), s.Inv ∧ s.endpointOn = true ∧ s.he.linkUp = true) ∧
    (∃ (s : State), s.Inv ∧ s.hostOn = true ∧ s.he.linkUp = true ∧ s.he.d3hot = false) ∧
    (∃ (s : State), s.Inv ∧ s.hostOn = true ∧ s.he.linkUp = true ∧ s.he.d3hot = true) ∧
    (∃ (s : State), s.Inv ∧ s.endpointOn = true) :=
  ⟨⟨put (dev .run) [(MB_RINGREG_EN, 63, 1), (MB_RINGREG_EN, 62, 1), (MB_RINGREG_LOC, 62, 1)],
    by unfold State.Inv; decide +kernel⟩,
   ⟨put (dev .run) [(MB_RINGREG_EN, 63, 1), (MB_RINGREG_EN, 62, 1), (MB_RINGREG_LOC, 62, 1)],
    by unfold State.Inv; decide +kernel⟩,
   ⟨{ dev .run with he := { State.reset.he with d3hot := true, linkUp := true } },
    by unfold State.Inv; decide +kernel⟩,
   ⟨dev .run,
    by unfold State.Inv; decide +kernel⟩⟩

/-- States and operands that meet the hypotheses of each clause. -/
theorem witness_EventRecordsFreezesAndLastResortAct :
    (∃ (s : State) (ring : ℕ) (idx : ℕ) (c : Cmd), s.Inv ∧ s.Ready ring idx c ∧ c.WithBuffer opEvFreeze 1 8 ∧ c.bufLen = 32 *
      BitVec.toNat (c.par 1) ∧ c.objid = evCtlObj ∧ BitVec.toNat (c.par 0) = 4294967295 ∧ s.inMode modesTrain = true ∧ s.ev.lr =
      false ∧ s.ev.frozen = none ∧ s.ev.drain = none ∧ s.ev.copy = none ∧ s.evFull 1 = false) ∧
    (∃ (s : State) (reached : ℕ) (c : Cmd) (x : EvCopy), s.Inv ∧ s.ev.copy = some x ∧ x.cmd = c.ref ∧ s.findCmd c.ring c.order =
      some c ∧ c.undecided = true ∧ s.evOn = true ∧ s.cmdsRun = true ∧ s.bufReach c = true ∧ x.recs.length ≤ reached) ∧
    (∃ (s : State) (ring : ℕ) (idx : ℕ) (c : Cmd), s.Inv ∧ s.Ready ring idx c ∧ c.Plain opEvRelease 0 ∧ c.objid = evCtlObj ∧
      s.inMode modesAll = true) ∧
    (∃ (s : State) (fifo : ℕ) (r : EvRec) (l : List EvRec), s.Inv ∧ s.handedOver fifo = r :: l ∧ s.evOn = true ∧ s.ev.drain =
      none ∧ s.ev.lr = false ∧ s.ev.frozen = none ∧ s.evFull 1 = false) ∧
    (∃ (s : State) (fifo : ℕ) (r : EvRec) (l : List EvRec), s.Inv ∧ s.handedOver fifo = r :: l ∧ s.evOn = true ∧ s.ev.drain =
      none ∧ s.ev.lr = false ∧ s.ev.frozen = none ∧ s.evFull 1 = true ∧ s.ev.staging = []) ∧
    (∃ (s : State) (fifo : ℕ) (r : EvRec) (l : List EvRec), s.Inv ∧ s.handedOver fifo = r :: l ∧ s.evOn = true ∧ s.ev.drain =
      none ∧ s.ev.lr = false ∧ s.ev.frozen.isSome = true ∧ (s.ev.staging.length < 3840 ∨ s.ev.staging.length < 4096 ∧ r.prio =
      true)) ∧
    (∃ (s : State) (fifo : ℕ) (r : EvRec) (l : List EvRec), s.Inv ∧ s.handedOver fifo = r :: l ∧ s.evOn = true ∧ s.ev.drain =
      none ∧ s.ev.lr = true ∧ r.prio = true ∧ s.kp.lring.length < 511) ∧
    (∃ (s : State) (fifo : ℕ) (r : EvRec) (l : List EvRec), s.Inv ∧ s.handedOver fifo = r :: l ∧ s.evOn = true ∧ s.ev.drain =
      none ∧ s.ev.lr = true ∧ r.prio = false) ∧
    (∃ (s : State) (fifo : ℕ) (l : Loss), s.Inv ∧ mapOk (fun _ => Loss.none) s.ev.loss = true ∧ s.evOn = true ∧ s.ev.drain =
      none ∧ s.ev.lr = false ∧ s.ev.frozen = none ∧ s.evFull 1 = false ∧ mget (fun _ => Loss.none) s.ev.loss fifo = l ∧ l.cnt ≠
      0 ∧ 2 * (s.handedOver fifo).length < fifoCap fifo) ∧
    (∃ (s : State), s.Inv ∧ s.evOn = true ∧ s.ev.frozen = some 1 ∧ s.mo.letClass = 0 ∧ s.ev.freezeAt + 400000000 ≤ s.elapsed) ∧
    (∃ (s : State) (cause : ℕ) (r : EvRec), s.Inv ∧ s.evOn = true ∧ s.ev.drain = some cause ∧ s.ev.lr = false ∧ s.ev.frozen =
      none ∧ s.evFull 3 = false ∧ s.ev.staging = [r] ∧ s.ev.stLoss.cnt = 0 ∧ s.ev.ring.length + 2 ≤ 1048576) ∧
    (∃ (s : State), s.Inv ∧ s.evOn = true ∧ s.ev.lr = false ∧ s.ev.frozen = none ∧ s.evFull 1 = true ∧ s.ev.staging = []) ∧
    (∃ (s : State), s.Inv ∧ s.evOn = true ∧ s.ev.lr = false ∧ s.ev.frozen = some 3 ∧ s.ev.unarch + 4096 ≤ 1048576) ∧
    (∃ (s : State), s.Inv ∧ s.evOn = true ∧ s.ev.lr = false ∧ s.kp.lring.length < 511) ∧
    (∃ (s : State), s.Inv ∧ s.evOn = true ∧ s.ev.lr = true ∧ s.mo.letClass = 0 ∧ s.inMode modesCrs = true) ∧
    (∃ (s : State), s.Inv ∧ s.evOn = true ∧ s.ev.lr = true ∧ s.mo.letClass = 0 ∧ s.inMode modesCrs = true ∧ s.arch = true ∧
      s.arLives = []) ∧
    (∃ (s : State), s.Inv ∧ s.evOn = true ∧ s.ev.lr = true ∧ s.mo.letClass = 0 ∧ s.inMode modesCrs = true ∧ s.arch = false ∧
      s.ev.frozen = none ∧ s.kp.npLost = 0) :=
  ⟨⟨has (dev .run) (buffered opEvFreeze evCtlObj 1 64 [0xFFFFFFFF, 2]), 0, 0, buffered opEvFreeze evCtlObj 1 64 [0xFFFFFFFF, 2],
    by unfold State.Inv State.Ready Cmd.WithBuffer; decide +kernel⟩,
   ⟨{ has (dev .run) { buffered opEvFreeze evCtlObj 1 64 [0xFFFFFFFF, 2] with phase := .started } with ev := { EvSt.init with copy := some ⟨(0, 1), [⟨3, evRec 0x4802 true⟩], 4, false⟩ } },
     1, { buffered opEvFreeze evCtlObj 1 64 [0xFFFFFFFF, 2] with phase := .started }, ⟨(0, 1), [⟨3, evRec 0x4802 true⟩], 4,
     false⟩,
    by unfold State.Inv; decide +kernel⟩,
   ⟨{ has (dev .run) (plain opEvRelease evCtlObj []) with ev := { EvSt.init with frozen := some 1 } }, 0, 0, plain opEvRelease
     evCtlObj [],
    by unfold State.Inv State.Ready Cmd.Plain; decide +kernel⟩,
   ⟨handed (dev .run) 48 [evRec 0x3001 true], 48, evRec 0x3001 true, [],
    by unfold State.Inv; decide +kernel⟩,
   ⟨{ put (dev .run) [(EV_CFG_ARCH, 0, 1)] with ev := { EvSt.init with fifo := [(48, [evRec 0x3001 true])], unarch := 1048576 } },
     48, evRec 0x3001 true, [],
    by unfold State.Inv; decide +kernel⟩,
   ⟨{ dev .run with ev := { EvSt.init with fifo := [(48, [evRec 0x3001 true])], frozen := some 1 } }, 48, evRec 0x3001 true, [],
    by unfold State.Inv; decide +kernel⟩,
   ⟨{ dev .run with ev := { EvSt.init with fifo := [(48, [evRec 0x3001 true])], lr := true } }, 48, evRec 0x3001 true, [],
    by unfold State.Inv; decide +kernel⟩,
   ⟨{ dev .run with ev := { EvSt.init with fifo := [(48, [evRec 0x3005 false])], lr := true } }, 48, evRec 0x3005 false, [],
    by unfold State.Inv; decide +kernel⟩,
   ⟨{ dev .run with ev := { EvSt.init with loss := [(48, ⟨2, ⟨999, 0⟩, ⟨999, 5⟩⟩)] } }, 48, ⟨2, ⟨999, 0⟩, ⟨999, 5⟩⟩,
    by unfold State.Inv; decide +kernel⟩,
   ⟨{ dev .run with ev := { EvSt.init with frozen := some 1, freezeAt := 799600000000 } },
    by unfold State.Inv; decide +kernel⟩,
   ⟨{ dev .run with ev := { EvSt.init with drain := some 2, staging := [evRec 0x3001 true] } }, 2, evRec 0x3001 true,
    by unfold State.Inv; decide +kernel⟩,
   ⟨{ put (dev .run) [(EV_CFG_ARCH, 0, 1)] with ev := { EvSt.init with unarch := 1048576 } },
    by unfold State.Inv; decide +kernel⟩,
   ⟨{ put (dev .run) [(EV_CFG_ARCH, 0, 1)] with ev := { EvSt.init with frozen := some 3, unarch := 1044480 } },
    by unfold State.Inv; decide +kernel⟩,
   ⟨dev .run,
    by unfold State.Inv; decide +kernel⟩,
   ⟨{ dev .run with ev := { EvSt.init with lr := true } },
    by unfold State.Inv; decide +kernel⟩,
   ⟨{ put (dev .run) [(EV_CFG_ARCH, 0, 1)] with ev := { EvSt.init with lr := true } },
    by unfold State.Inv; decide +kernel⟩,
   ⟨{ dev .run with ev := { EvSt.init with lr := true, nextSeq := 9 }, kp := { Keeper.init with lring := [⟨7, evRec 0x3001 true⟩, ⟨8, evRec 0x4802 true⟩] } },
    by unfold State.Inv; decide +kernel⟩⟩

/-- States and operands that meet the hypotheses of each clause. -/
theorem witness_EveryStepKeepsInvariant :
    (∃ (s : State), s.Inv) :=
  ⟨{ dev .run with pending := [.nop 0 0, .tuLock] },
    by unfold State.Inv; decide +kernel⟩

/-- States and operands that meet the hypotheses of each clause. -/
theorem witness_FetchTakesAnEntryAndCompletionFreesIt :
    (∃ (s : State) (n : ℕ) (ws : List W32), s.Inv ∧ s.fetches = true ∧ s.nextRing = some n ∧ s.flag MB_RINGREG_LOC n = false ∧
      ws.length = 16 ∧ s.rd MB_RINGREG_SIZE_LOG2 n ≤ 16) ∧
    (∃ (s : State) (n : ℕ), s.Inv ∧ s.fetches = true ∧ s.nextRing = some n) ∧
    (∃ (s : State) (ring : ℕ) (idx : ℕ) (ok : Bool) (c : Cmd) (st : Status) (r0 : ℕ) (r1 : ℕ) (r2 : ℕ) (r3 : ℕ) (tm : Option
      Stamp), s.Inv ∧ s.decidedAt ring idx = some c ∧ s.completes = true ∧ c.phase = CmdPhase.decided st r0 r1 r2 r3 tm ∧
      s.ringActs (s.rd MB_RINGREG_CPL_RING c.ring) 1 = true ∧ s.ringReach (s.rd MB_RINGREG_CPL_RING c.ring) = true ∧ s.ringFull
      (s.rd MB_RINGREG_CPL_RING c.ring) = false ∧ ok = true) ∧
    (∃ (s : State) (ring : ℕ) (idx : ℕ) (c : Cmd) (st : Status) (r0 : ℕ) (r1 : ℕ) (r2 : ℕ) (r3 : ℕ) (tm : Option Stamp), s.Inv ∧
      s.decidedAt ring idx = some c ∧ s.completes = true ∧ c.phase = CmdPhase.decided st r0 r1 r2 r3 tm ∧ s.ringActs (s.rd
      MB_RINGREG_CPL_RING c.ring) 1 = false) ∧
    (∃ (s : State) (ring : ℕ) (idx : ℕ) (c : Cmd) (st : Status) (r0 : ℕ) (r1 : ℕ) (r2 : ℕ) (r3 : ℕ) (tm : Option Stamp), s.Inv ∧
      s.decidedAt ring idx = some c ∧ s.completes = true ∧ c.phase = CmdPhase.decided st r0 r1 r2 r3 tm ∧ s.ringActs (s.rd
      MB_RINGREG_CPL_RING c.ring) 1 = true ∧ s.ringFull (s.rd MB_RINGREG_CPL_RING c.ring) = true) :=
  ⟨⟨put (dev .run) [(MB_RINGREG_EN, 63, 1), (MB_RINGREG_SIZE_LOG2, 63, 4), (MB_RINGREG_PROD, 63, 3), (MB_RINGREG_CONS, 63, 2)],
     63, List.replicate 16 5,
    by unfold State.Inv; decide +kernel⟩,
   ⟨put (dev .run) [(MB_RINGREG_EN, 63, 1), (MB_RINGREG_SIZE_LOG2, 63, 4), (MB_RINGREG_PROD, 63, 3), (MB_RINGREG_CONS, 63, 2)],
     63,
    by unfold State.Inv; decide +kernel⟩,
   ⟨has (put (dev .run) [(MB_RINGREG_EN, 0, 1), (MB_RINGREG_CPL_RING, 0, 1), (MB_RINGREG_EN, 1, 1), (MB_RINGREG_KIND, 1, 1),
     (MB_RINGREG_SIZE_LOG2, 1, 4)]) { plain opNop 0 [] with phase := .decided .ok 1 2 3 4 none }, 0, 0, true,
     { plain opNop 0 [] with phase := .decided .ok 1 2 3 4 none }, .ok, 1, 2, 3, 4, none,
    by unfold State.Inv; decide +kernel⟩,
   ⟨has (put (dev .run) [(MB_RINGREG_EN, 0, 1), (MB_RINGREG_CPL_RING, 0, 1)])
     { plain opNop 0 [] with phase := .decided .ok 1 2 3 4 none }, 0, 0,
     { plain opNop 0 [] with phase := .decided .ok 1 2 3 4 none }, .ok, 1, 2, 3, 4, none,
    by unfold State.Inv; decide +kernel⟩,
   ⟨has (put (dev .run) [(MB_RINGREG_EN, 0, 1), (MB_RINGREG_CPL_RING, 0, 1), (MB_RINGREG_EN, 1, 1), (MB_RINGREG_KIND, 1, 1),
     (MB_RINGREG_SIZE_LOG2, 1, 4), (MB_RINGREG_PROD, 1, 15)]) { plain opNop 0 [] with phase := .decided .ok 1 2 3 4 none }, 0,
     0, { plain opNop 0 [] with phase := .decided .ok 1 2 3 4 none }, .ok, 1, 2, 3, 4, none,
    by unfold State.Inv; decide +kernel⟩⟩

/-- States and operands that meet the hypotheses of each clause. -/
theorem witness_FieldCommandsChangeOnlyTheirKinds :
    (∃ (i : Instr) (s : State), commandFamily i = Family.field ∧ s.Inv) :=
  ⟨Instr.clrUv 0, dev .run,
    by unfold State.Inv; decide +kernel⟩

/-- States and operands that meet the hypotheses of each clause. -/
theorem witness_FieldInputsOutputsWatchdogAndSupplyAct :
    (∃ (s : State) (n : ℕ) (mv : ℕ) (ua : ℕ) (inputs : List (ℕ × ℕ)), s.Inv ∧ s.fieldMapsOk = true ∧ s.mo.sent = SentStep.out ∧
      s.fieldOn = true ∧ s.fd.diAt ≠ s.fieldIdx ∧ n < 48 ∧ inputs.getD n (0, 0) = (mv, ua) ∧ s.inputsOff = false ∧ s.rd
      FD_DI_CHAT_K n = 0 ∧ s.rd FD_DI_FILT_N n ≠ 0 ∧ s.flag FD_DI_WB_EN n = false ∧ s.flag FD_DI_TYPE n = false ∧ 13500 ≤ mv ∧
      (s.din n).init = true) ∧
    (∃ (s : State) (n : ℕ) (mv : ℕ) (ua : ℕ) (inputs : List (ℕ × ℕ)), s.Inv ∧ s.fieldMapsOk = true ∧ s.mo.sent = SentStep.out ∧
      s.fieldOn = true ∧ s.fd.diAt ≠ s.fieldIdx ∧ n < 48 ∧ inputs.getD n (0, 0) = (mv, ua) ∧ s.inputsOff = false ∧ s.rd
      FD_DI_CHAT_K n = 0 ∧ s.rd FD_DI_FILT_N n ≠ 0 ∧ s.flag FD_DI_WB_EN n = true ∧ currClass (s.rd FD_STAT_FLD_MV 0) ua = 2 ∧
      (s.din n).ow = 19) ∧
    (∃ (s : State) (n : ℕ), s.Inv ∧ s.fieldOn = true ∧ n < 48 ∧ s.rd FD_DI_STUCK_T n ≠ 0 ∧ s.flag FD_DI_VAL n = true ∧ (s.din
      n).hi + s.rd FD_DI_STUCK_T n * 800000000 ≤ s.elapsed) ∧
    (∃ (s : State) (n : ℕ) (mv : ℕ) (ma : ℕ) (fldMv : ℕ) (lim : Bool) (outs : List (ℕ × ℕ × Bool)), s.Inv ∧ s.fieldMapsOk = true
      ∧ s.mo.sent = SentStep.out ∧ s.fieldOn = true ∧ s.fd.doAt ≠ s.fieldIdx ∧ outs.getD n (0, 0, false) = (mv, ma, lim) ∧ mv ≤
      min 65535 fldMv + 500 ∧ s.RowFree n ∧ n < 24 ∧ s.flag FD_STAT_WD_EXP 0 = false ∧ s.flag FD_STAT_HOLD 0 = false ∧ (s.dout
      n).darkUntil ≤ s.elapsed ∧ s.pulseSrc n = false) ∧
    (∃ (s : State) (n : ℕ) (mv : ℕ) (ma : ℕ) (fldMv : ℕ) (lim : Bool) (outs : List (ℕ × ℕ × Bool)), s.Inv ∧ s.fieldMapsOk = true
      ∧ s.mo.sent = SentStep.out ∧ s.fieldOn = true ∧ s.fd.doAt ≠ s.fieldIdx ∧ outs.getD n (0, 0, false) = (mv, ma, lim) ∧ mv ≤
      min 65535 fldMv + 500 ∧ s.RowFree n ∧ 24 ≤ n ∧ n < 32 ∧ (s.dout n).snt = false ∧ (s.dout n).sntUntil ≤ s.elapsed ∧
      s.tripDrives (n - 24) = true) ∧
    (∃ (s : State) (n : ℕ) (t0 : ℕ), s.Inv ∧ s.fieldMapsOk = true ∧ s.mo.sent = SentStep.out ∧ s.fieldOn = true ∧ n < 24 ∧
      s.flag FD_DO_ON n = true ∧ (s.dout n).limAt = some t0 ∧ t0 + 80000 < s.elapsed ∧ s.flag FD_DO_OL_RETRY n = false) ∧
    (∃ (s : State) (n : ℕ) (t0 : ℕ), s.Inv ∧ s.fieldMapsOk = true ∧ s.mo.sent = SentStep.out ∧ s.fieldOn = true ∧ n < 24 ∧
      s.flag FD_DO_ON n = true ∧ (s.dout n).limAt = some t0 ∧ t0 + 80000 < s.elapsed ∧ s.flag FD_DO_OL_RETRY n = true ∧ (s.dout
      n).retries < 3 ∧ (s.doCmd n).2 = true) ∧
    (∃ (s : State) (n : ℕ), s.Inv ∧ s.fieldMapsOk = true ∧ s.mo.sent = SentStep.out ∧ s.fieldOn = true ∧ n < 24 ∧ (s.dout
      n).wait = true ∧ (s.dout n).latched = false ∧ (s.dout n).offAt + 80000000 ≤ s.elapsed ∧ (s.doCmd n).2 = true) ∧
    (∃ (s : State) (n : ℕ) (temp : ℤ), s.Inv ∧ s.fieldMapsOk = true ∧ s.mo.sent = SentStep.out ∧ s.fieldOn = true ∧ n < 32 ∧ 150
      < temp ∧ s.flag FD_DO_OL_T n = false) ∧
    (∃ (s : State) (n : ℕ) (temp : ℤ), s.Inv ∧ s.fieldMapsOk = true ∧ s.mo.sent = SentStep.out ∧ s.fieldOn = true ∧ n < 32 ∧
      temp < 135 ∧ s.flag FD_DO_OL_T n = true ∧ (s.dout n).latched = false ∧ (s.dout n).wait = false) ∧
    (∃ (s : State) (n : ℕ), s.Inv ∧ s.fieldMapsOk = true ∧ s.mo.sent = SentStep.out ∧ s.fieldOn = true ∧ n < 32 ∧ s.flag
      FD_DO_ON n = false ∧ (s.dout n).offAt + 800000 ≤ s.elapsed ∧ (s.dout n).checkAt = 0) ∧
    (∃ (s : State) (n : ℕ), s.Inv ∧ s.fieldMapsOk = true ∧ s.mo.sent = SentStep.out ∧ s.fieldOn = true ∧ n < 32 ∧ s.flag
      FD_DO_ON n = false ∧ (s.dout n).offAt + 800000 ≤ s.elapsed ∧ (s.dout n).checkAt = 0 ∧ s.flag FD_DO_OW_OFF_EN n = true) ∧
    (∃ (s : State) (n : ℕ) (mask : W32), s.Inv ∧ s.fieldMapsOk = true ∧ s.mo.sent = SentStep.out ∧ s.fieldOn = true ∧ n < 32 ∧
      natBit (BitVec.toNat mask) n = true ∧ (s.dout n).latched = true) ∧
    (∃ (s : State) (n : ℕ), s.Inv ∧ s.fieldMapsOk = true ∧ s.fieldOn = true ∧ s.tu.running = true ∧ n < 24 ∧ s.flag FD_DO_TP_EN
      n = true ∧ s.rd FD_DO_TP_W n ≠ 0 ∧ (s.doCmd n).2 = true ∧ (s.doRow n).1 = 9 ∧ (s.dout n).darkSec ≠ s.tu.sec + 1 ∧
      s.fd.darkAt = 0) ∧
    (∃ (s : State) (n : ℕ), s.Inv ∧ s.fieldMapsOk = true ∧ s.fieldOn = true ∧ s.tu.running = true ∧ n < 24 ∧ s.flag FD_DO_TP_EN
      n = true ∧ s.rd FD_DO_TP_W n ≠ 0 ∧ (s.doCmd n).2 = true ∧ (s.doRow n).1 = 9 ∧ (s.dout n).darkSec ≠ s.tu.sec + 1 ∧
      s.fd.darkAt = 0 ∧ s.sfOwned n = false) ∧
    (∃ (s : State), s.Inv ∧ s.fieldMapsOk = true ∧ s.fieldOn = true ∧ s.umOn = true ∧ s.fd.wdIdx ≠ s.tai / 500000 + 1 ∧
      s.mo.mode ≠ Mode.sentinel) ∧
    (∃ (s : State), s.Inv ∧ s.fieldMapsOk = true ∧ s.fieldOn = true ∧ s.fd.wdArmed = true ∧ s.flag FD_CTL_WD_EN 0 = true ∧
      s.flag FD_STAT_HOLD 0 = false ∧ s.flag FD_STAT_WD_EXP 0 = false ∧ s.fd.wdAt + s.rd FD_CTL_WD_TIME 0 * 800000 ≤ s.elapsed ∧
      mget (fun _ => (0, 0)) s.fd.ntf 256 = (0, 0)) ∧
    (∃ (s : State), s.Inv ∧ s.fieldMapsOk = true ∧ s.fieldOn = true ∧ s.fd.hbAt ≠ 0 ∧ s.flag FD_STAT_HB_LOST 0 = false ∧
      s.fd.hbHold = false ∧ s.fd.hbAt + 200000 ≤ s.elapsed + 1) ∧
    (∃ (s : State) (line : ℕ), s.Inv ∧ s.fieldMapsOk = true ∧ s.fieldOn = true ∧ line < 8 ∧ s.RowFree (24 + line) ∧ (s.dout (24
      + line)).snt = false ∧ (s.dout (24 + line)).sntUntil ≤ s.elapsed ∧ s.tripDrives line = false ∧ s.flag FD_STAT_HB_LOST 0 =
      false) ∧
    (∃ (s : State) (mv : ℕ), s.Inv ∧ s.fieldMapsOk = true ∧ s.mo.sent = SentStep.out ∧ s.fieldOn = true ∧ mv < 65536 ∧ s.rd
      FD_STAT_FLD 0 = 0 ∧ 18000 ≤ mv ∧ mv < 19200 ∧ mget (fun _ => (0, 0)) s.fd.ntf 64 = (0, 0)) ∧
    (∃ (s : State) (mv : ℕ), s.Inv ∧ s.fieldMapsOk = true ∧ s.mo.sent = SentStep.out ∧ s.fieldOn = true ∧ mv < 65536 ∧ s.rd
      FD_STAT_FLD 0 = 0 ∧ mv < 15000 ∧ s.fd.cut = none) ∧
    (∃ (s : State) (mv : ℕ), s.Inv ∧ s.fieldMapsOk = true ∧ s.mo.sent = SentStep.out ∧ s.fieldOn = true ∧ mv < 65536 ∧ s.rd
      FD_STAT_FLD 0 = 2 ∧ 18400 < mv ∧ mv ≤ 19600) ∧
    (∃ (s : State) (mv : ℕ), s.Inv ∧ s.fieldMapsOk = true ∧ s.mo.sent = SentStep.out ∧ s.fieldOn = true ∧ mv < 65536 ∧ s.rd
      FD_STAT_FLD 0 = 1 ∧ 19600 < mv) ∧
    (∃ (s : State) (n : ℕ) (t0 : ℕ), s.Inv ∧ s.fieldMapsOk = true ∧ s.fieldOn = true ∧ s.rd FD_STAT_FLD 0 = 0 ∧ s.fd.cut = none
      ∧ n < 32 ∧ (s.dout n).cut = true ∧ s.fd.goodAt = some t0 ∧ t0 + 40000000 ≤ s.elapsed) ∧
    (∃ (s : State) (n : ℕ) (mask : W32), s.Inv ∧ s.fieldMapsOk = true ∧ s.fieldOn = true ∧ s.rd FD_STAT_FLD 0 = 0 ∧ s.fd.cut =
      none ∧ n < 32 ∧ (s.dout n).cut = true ∧ natBit (BitVec.toNat mask) n = true ∧ s.flag FD_DO_LATCH_UV n = true) :=
  ⟨⟨fielded (put (dev .run) [(FD_STAT_FLD, 0, 0), (FD_DI_FILT_N, 47, 1)]) [(47, { DiSt.init0 with init := true })] [], 47, 13500,
     4000, List.replicate 48 (13500, 4000),
    by unfold State.Inv; decide +kernel⟩,
   ⟨fielded (put (dev .run) [(FD_STAT_FLD, 0, 0), (FD_STAT_FLD_MV, 0, 24000), (FD_DI_FILT_N, 47, 1), (FD_DI_WB_EN, 47, 1)])
     [(47, { DiSt.init0 with init := true, ow := 19 })] [], 47, 24000, 349, List.replicate 48 (24000, 349),
    by unfold State.Inv; decide +kernel⟩,
   ⟨fielded (put (dev .run) [(FD_DI_STUCK_T, 47, 1000), (FD_DI_VAL, 47, 1)]) [] [], 47,
    by unfold State.Inv; decide +kernel⟩,
   ⟨put (dev .run) [(FD_STAT_FLD, 0, 0), (UM_OWN_VALUE, 23, 1)], 23, 24000, 100, 24000, false, List.replicate 32 (24000, 100,
     false),
    by unfold State.Inv State.RowFree; decide +kernel⟩,
   ⟨putk (put (dev .run) [(FD_STAT_FLD, 0, 0), (TM_TCH_OUT, 31, 128), (TM_TCH_ASSERTED, 31, 1)]) [], 31, 24000, 100, 24000,
     false, List.replicate 32 (24000, 100, false),
    by unfold State.Inv State.RowFree; decide +kernel⟩,
   ⟨fielded (put (dev .run) [(FD_DO_ON, 23, 1)]) [] [(23, { DoSt.init with limAt := some 799999919999 })], 23, 799999919999,
    by unfold State.Inv; decide +kernel⟩,
   ⟨fielded (put (dev .run) [(FD_DO_ON, 23, 1), (FD_DO_OL_RETRY, 23, 1), (UM_OWN_VALUE, 23, 1)]) [] [(23,
     { DoSt.init with limAt := some 799999919999 })], 23, 799999919999,
    by unfold State.Inv; decide +kernel⟩,
   ⟨fielded (put (dev .run) [(UM_OWN_VALUE, 23, 1)]) [] [(23, { DoSt.init with wait := true, offAt := 5 })], 23,
    by unfold State.Inv; decide +kernel⟩,
   ⟨put (dev .run) [(FD_DO_ON, 31, 1)], 31, 151,
    by unfold State.Inv; decide +kernel⟩,
   ⟨put (dev .run) [(FD_DO_OL_T, 31, 1), (FD_DO_OL, 31, 1)], 31, 134,
    by unfold State.Inv; decide +kernel⟩,
   ⟨fielded (dev .run) [] [(31, { DoSt.init with offAt := 799999200000 })], 31,
    by unfold State.Inv; decide +kernel⟩,
   ⟨fielded (put (dev .run) [(FD_DO_OW_OFF_EN, 31, 1)]) [] [(31, { DoSt.init with offAt := 799999200000 })], 31,
    by unfold State.Inv; decide +kernel⟩,
   ⟨fielded (put (dev .run) [(FD_DO_OL, 31, 1)]) [] [(31, { DoSt.init with latched := true })], 31, 0x80000000,
    by unfold State.Inv; decide +kernel⟩,
   ⟨put (dev .run) [(FD_DO_TP_EN, 23, 1), (FD_DO_TP_W, 23, 5), (UM_OWN_VALUE, 23, 1), (FD_DO_ON, 23, 1)], 23,
    by unfold State.Inv; decide +kernel⟩,
   ⟨put (dev .run) [(FD_DO_TP_EN, 23, 1), (FD_DO_TP_W, 23, 5), (UM_OWN_VALUE, 23, 1), (FD_DO_ON, 23, 1)], 23,
    by unfold State.Inv; decide +kernel⟩,
   ⟨put (dev .run) [(FD_STAT_HOLD, 0, 1)],
    by unfold State.Inv; decide +kernel⟩,
   ⟨{ put (dev .run) [(FD_CTL_WD_EN, 0, 1), (FD_CTL_WD_TIME, 0, 10)] with fd := { FdSt.init0 with wdArmed := true, wdAt := 799992000000 } },
    by unfold State.Inv; decide +kernel⟩,
   ⟨{ dev .run with fd := { FdSt.init0 with hbAt := 799999800001 } },
    by unfold State.Inv; decide +kernel⟩,
   ⟨dev .run, 7,
    by unfold State.Inv State.RowFree; decide +kernel⟩,
   ⟨put (dev .run) [(FD_STAT_FLD, 0, 0), (FD_STAT_FLD_MV, 0, 24000)], 18000,
    by unfold State.Inv; decide +kernel⟩,
   ⟨put (dev .run) [(FD_STAT_FLD, 0, 0), (FD_STAT_FLD_MV, 0, 24000)], 14999,
    by unfold State.Inv; decide +kernel⟩,
   ⟨put (dev .run) [(FD_STAT_FLD, 0, 2), (FD_STAT_FLD_MV, 0, 17000)], 19600,
    by unfold State.Inv; decide +kernel⟩,
   ⟨put (dev .run) [(FD_STAT_FLD, 0, 1), (FD_STAT_FLD_MV, 0, 19000)], 19601,
    by unfold State.Inv; decide +kernel⟩,
   ⟨{ put (dev .run) [(FD_STAT_FLD, 0, 0)] with fd := { FdSt.init0 with dos := [(31, { DoSt.init with cut := true })], goodAt := some 799960000000 } },
     31, 799960000000,
    by unfold State.Inv; decide +kernel⟩,
   ⟨fielded (put (dev .run) [(FD_STAT_FLD, 0, 0), (FD_DO_LATCH_UV, 31, 1), (FD_DO_UV_OFF, 31, 1)]) [] [(31,
     { DoSt.init with cut := true })], 31, 0x80000000,
    by unfold State.Inv; decide +kernel⟩⟩

/-- States and operands that meet the hypotheses of each clause. -/
theorem witness_FrontEndEventsActOnTheirRegisters :
    (∃ (s : State) (core : ℕ), s.Inv ∧ core < s.byVar 16 8 4 ∧ s.refOn core = true ∧ (s.afCore core).refIn = true ∧ (s.afCore
      core).refEnAt + 2000000 ≤ s.tai) ∧
    (∃ (s : State) (core : ℕ), s.Inv ∧ core < s.byVar 16 8 4 ∧ s.refOn core = true ∧ (s.afCore core).refIn = false ∧ (s.afCore
      core).refFault = true ∧ (s.handedOver 0).length < 8192) ∧
    (∃ (s : State) (core : ℕ), s.Inv ∧ core < 16 ∧ (s.afCore core).refFault = true ∧ (s.afCore core).refIn = true ∧ (s.afCore
      core).refInAt + 100000 ≤ s.tai) ∧
    (∃ (s : State) (core : ℕ) (at_ : ℕ), s.Inv ∧ core < 16 ∧ s.pathsOn = true ∧ s.trigCore core = true ∧ List.find? (fun e =>
      e.1 == core) s.af.trigs = some (core, at_) ∧ (s.afCore core).deferred = none ∧ (s.afCore core).scanLast + 50 ≤ at_ ∧
      s.coreSlices core ≠ []) ∧
    (∃ (s : State) (core : ℕ) (at_ : ℕ), s.Inv ∧ core < 16 ∧ s.pathsOn = true ∧ s.trigCore core = true ∧ List.find? (fun e =>
      e.1 == core) s.af.trigs = some (core, at_) ∧ (s.afCore core).deferred = none ∧ at_ < (s.afCore core).scanLast + 50) ∧
    (∃ (s : State) (core : ℕ) (at_ : ℕ) (d : ℕ), s.Inv ∧ core < 16 ∧ s.pathsOn = true ∧ s.trigCore core = true ∧ List.find? (fun
      e => e.1 == core) s.af.trigs = some (core, at_) ∧ (s.afCore core).deferred = some d ∧ s.tai < d) ∧
    (∃ (s : State) (timer : ℕ), s.Inv ∧ s.pathsOn = true ∧ timer < 16 ∧ s.flag AF_TMR_EN timer = true ∧ mget (fun _ => 0)
      s.af.tmrAt timer ≤ s.timerInstant timer) ∧
    (∃ (s : State) (chan : ℕ), s.Inv ∧ s.armed = true ∧ chan < s.nAin ∧ s.rd AF_CHAN_KIND chan = 1 ∧ s.rd AF_CHAN_WAKE_THR chan
      ≠ 0) ∧
    (∃ (s : State) (chan : ℕ), s.Inv ∧ s.armed = true ∧ chan < s.nAin ∧ s.rd AF_CHAN_KIND chan = 1 ∧ s.rd AF_CHAN_TRIP_THR chan
      ≠ 0 ∧ mget (fun _ => false) s.af.dtrip chan = false ∧ s.tu.running = true ∧ s.mo.mode ≠ Mode.sentinel ∧ (s.handedOver
      0).length < 8192) ∧
    (∃ (s : State) (input : ℕ) (on : Bool), s.Inv ∧ s.armed = true ∧ input < 8 ∧ s.flag AF_ARC_LIGHT input ≠ (on && s.rd
      AF_ARC_THR input != 0)) ∧
    (∃ (s : State) (input : ℕ) (result : ℕ), s.Inv ∧ s.pathsOn = true ∧ input < 8 ∧ result < 3 ∧ s.flag AF_ARC_SUP_EN input =
      true) :=
  ⟨⟨{ put (dev .run) [(AF_CORE_REF_EN, 15, 1), (AF_CORE_REF_OK, 15, 1)] with af := { AfSt.init with cores := [(15, { AfCore.init with refIn := true, refEnAt := 999998000000 })] } },
     15,
    by unfold State.Inv; decide +kernel⟩,
   ⟨{ put (dev .run) [(AF_CORE_REF_EN, 15, 1)] with af := { AfSt.init with cores := [(15, { AfCore.init with refFault := true })] } },
     15,
    by unfold State.Inv; decide +kernel⟩,
   ⟨{ put (dev .run) [(AF_CORE_REF_EN, 15, 1)] with af := { AfSt.init with cores := [(15, { AfCore.init with refFault := true, refIn := true, refInAt := 999999900000 })] } },
     15,
    by unfold State.Inv; decide +kernel⟩,
   ⟨{ put (dev .run) [(AF_CORE_EN, 15, 1), (AF_CORE_MODE, 15, 1), (AF_CORE_SCAN, 15, 8)] with        af := { AfSt.init with trigs := [(15, 1000000000000)], cores := [(15, { AfCore.init with scanLast := 999999999950 })] } },
     15, 1000000000000,
    by unfold State.Inv; decide +kernel⟩,
   ⟨{ put (dev .run) [(AF_CORE_EN, 15, 1), (AF_CORE_MODE, 15, 1)] with        af := { AfSt.init with trigs := [(15, 1000000000000)], cores := [(15, { AfCore.init with scanLast := 999999999951 })] } },
     15, 1000000000000,
    by unfold State.Inv; decide +kernel⟩,
   ⟨{ put (dev .run) [(AF_CORE_EN, 15, 1), (AF_CORE_MODE, 15, 1), (AF_CORE_OVRUN, 15, 65535)] with        af := { AfSt.init with trigs := [(15, 1000000000000)], cores := [(15, { AfCore.init with scanLast := 999999999975, deferred := some 1000000000025 })] } },
     15, 1000000000000, 1000000000025,
    by unfold State.Inv; decide +kernel⟩,
   ⟨put (dev .run) [(AF_TMR_EN, 15, 1), (AF_CORE_EN, 15, 1), (AF_CORE_MODE, 15, 1), (AF_CORE_TRIG, 15, 15)], 15,
    by unfold State.Inv; decide +kernel⟩,
   ⟨{ put (dev .run) [(AF_CHAN_KIND, 63, 1), (AF_CHAN_WAKE_THR, 63, 5)] with mo := { (dev .run).mo with sentArmed := true } },
     63,
    by unfold State.Inv; decide +kernel⟩,
   ⟨{ put (dev .run) [(AF_CHAN_KIND, 63, 1), (AF_CHAN_TRIP_THR, 63, 5)] with mo := { (dev .run).mo with sentArmed := true } },
     63,
    by unfold State.Inv; decide +kernel⟩,
   ⟨{ put (dev .run) [(AF_ARC_THR, 7, 5)] with mo := { (dev .run).mo with sentArmed := true } }, 7, true,
    by unfold State.Inv; decide +kernel⟩,
   ⟨put (dev .run) [(AF_ARC_SUP_EN, 7, 1)], 7, 2,
    by unfold State.Inv; decide +kernel⟩⟩

/-- States and operands that meet the hypotheses of each clause. -/
theorem witness_HostCommandsChangeOnlyTheirKinds :
    (∃ (i : Instr) (s : State), commandFamily i = Family.host ∧ s.Inv) :=
  ⟨Instr.nop 0 0, dev .run,
    by unfold State.Inv; decide +kernel⟩

/-- States and operands that meet the hypotheses of each clause. -/
theorem witness_HostRegisterWritesAct :
    (∃ (s : State) (n : ℕ) (w : W32), s.Inv ∧ s.hostWrites = true ∧ n < 64 ∧ s.ringServed n = true ∧ w.get 31 31 = 1 ∧ s.flag
      MB_RINGREG_EN n = false ∧ 4 ≤ w.get 15 11 ∧ w.get 15 11 ≤ 16 ∧ (w.get 29 28 = 0 → w.get 26 25 < 2) ∧ (w.get 30 30 = 1 →
      s.rd MB_RINGREG_BASE_HI n = 0)) ∧
    (∃ (s : State) (n : ℕ) (w : W32), s.Inv ∧ s.hostWrites = true ∧ n < 64 ∧ s.ringServed n = true ∧ w.get 31 31 = 1 ∧ s.flag
      MB_RINGREG_EN n = false ∧ (w.get 15 11 < 4 ∨ 16 < w.get 15 11)) ∧
    (∃ (s : State) (w : W32), s.Inv ∧ s.hostWrites = true ∧ w.get 31 31 = 1 ∧ s.flag HE_INTCTL_GEN 0 = false ∧ s.mo.mode ≠
      Mode.letMode) ∧
    (∃ (s : State) (v : ℕ), s.Inv ∧ s.hostWrites = true ∧ v < 2 ^ 32) ∧
    (∃ (s : State) (a : ℕ), s.Inv ∧ s.hostWrites = true ∧ a % 4 ≠ 0) ∧
    (∃ (s : State), s.Inv ∧ s.hostWrites = true) ∧
    (∃ (s : State) (a : ℕ) (b : ℕ) (v : ℕ), s.Inv ∧ s.hostWrites = true ∧ s.bar4Acts a b v = false) ∧
    (∃ (s : State) (a : ℕ) (b : ℕ) (v : ℕ), s.Inv ∧ s.hostWrites = true ∧ s.bar4Acts a b v = true ∧ (∀ (d : PtDef), s.ptDef (a /
      16) = some d → d.bind ≠ 7)) ∧
    (∃ (s : State) (a : ℕ) (v : W32) (k : ℕ) (w : ℕ), s.Inv ∧ s.hotOn = true ∧ k < 4 ∧ w < 16 ∧ a = 3840 + 32 * k + w ∧ (v ≠ 0 ∨
      mapOk (fun _ => 0) s.sb.slots = true)) ∧
    (∃ (s : State) (a : ℕ), s.Inv ∧ s.hotOn = true ∧ (a < 3840 ∨ 3968 ≤ a) ∧ a ≠ 4080) :=
  ⟨⟨dev .run, 63, 0x80002000,
    by unfold State.Inv; decide +kernel⟩,
   ⟨dev .run, 63, 0x80001800,
    by unfold State.Inv; decide +kernel⟩,
   ⟨put (dev .run) [(MSIX_TABLE_MASK, 5, 0), (MSIX_PBA_PEND, 0, 0x20)], 0x80000000,
    by unfold State.Inv; decide +kernel⟩,
   ⟨dev .run, 0xC0000000,
    by unfold State.Inv; decide +kernel⟩,
   ⟨dev .run, 0x1202,
    by unfold State.Inv; decide +kernel⟩,
   ⟨dev .run,
    by unfold State.Inv; decide +kernel⟩,
   ⟨dev .run, 0xFF0, 4, 0xC0000000,
    by unfold State.Inv; decide +kernel⟩,
   ⟨{ put (dev .run) [(HE_BAR4CFG_WR_EN, 0, 1)] with pd := { PdSt.init with defs := [(5, some ⟨0, 0, false, false, 0, 0, 0, 0, 0, 0, 0, 0⟩)] } },
     80, 8, 1,
    by unfold State.Inv; decide +kernel⟩,
   ⟨dev .run, 3840 + 32 * 3 + 15, 5, 3, 15,
    by unfold State.Inv; decide +kernel⟩,
   ⟨dev .run, 3968,
    by unfold State.Inv; decide +kernel⟩⟩

/-- States and operands that meet the hypotheses of each clause. -/
theorem witness_IdentityOwnershipOpeningAndTamperAct :
    (∃ (s : State) (ring : ℕ) (idx : ℕ) (c : Cmd), s.Inv ∧ s.Ready ring idx c ∧ c.Plain opAuthChallenge 0 ∧ s.inMode modesAll = true
      ∧ s.openedLike = false ∧ (s.authOf c.master).blockedUntil ≤ s.elapsed) ∧
    (∃ (s : State) (ring : ℕ) (idx : ℕ) (c : Cmd) (h : ℕ), s.Inv ∧ s.Ready ring idx c ∧ s.handleOk h = true ∧ s.inMode modesAll
      = true ∧ s.openedLike = false ∧ c.Plain opAuthResponse 48 ∧ c.part ≤ 1) ∧
    (∃ (s : State) (ring : ℕ) (idx : ℕ) (c : Cmd) (ok : Bool) (h : ℕ) (n : List W32 × ℕ), s.Inv ∧ s.Ready ring idx c ∧
      s.handleOk h = true ∧ s.inMode modesAll = true ∧ s.openedLike = false ∧ c.Plain opAuthResponse 12 ∧ c.part = 2 ∧ (s.authOf
      c.master).nonce = some n ∧ s.elapsed ≤ n.2 + 24000000000 ∧ ((s.authOf c.master).parts.any fun e => e.1 == 0) = true ∧
      ((s.authOf c.master).parts.any fun e => e.1 == 1) = true ∧ ok = true) ∧
    (∃ (s : State) (ring : ℕ) (idx : ℕ) (c : Cmd) (ok : Bool) (h : ℕ) (n : List W32 × ℕ), s.Inv ∧ s.Ready ring idx c ∧
      s.handleOk h = true ∧ s.inMode modesAll = true ∧ s.openedLike = false ∧ c.Plain opAuthResponse 12 ∧ c.part = 2 ∧ (s.authOf
      c.master).nonce = some n ∧ s.elapsed ≤ n.2 + 24000000000 ∧ ((s.authOf c.master).parts.any fun e => e.1 == 0) = true ∧
      ((s.authOf c.master).parts.any fun e => e.1 == 1) = true ∧ ok = false) ∧
    (∃ (s : State) (ring : ℕ) (idx : ℕ) (c : Cmd), s.Inv ∧ s.Ready ring idx c ∧ c.Plain opAuthEnd 0 ∧ s.inMode modesAll = true ∧
      c.session ≠ 0 ∧ (s.authOf c.master).session = c.session) ∧
    (∃ (s : State) (ring : ℕ) (idx : ℕ) (c : Cmd), s.Inv ∧ s.Ready ring idx c ∧ c.WithBuffer opAttest 1 32 ∧ 4096 ≤ c.bufLen ∧
      s.inMode modesAll = true ∧ s.openedLike = false ∧ s.bufReach c = true) ∧
    (∃ (s : State) (ring : ℕ) (idx : ℕ) (c : Cmd), s.Inv ∧ s.Ready ring idx c ∧ c.WithBuffer opOwnerTransfer 0 0 ∧ s.inMode
      modesCs = true ∧ s.openedLike = false ∧ s.bufReach c = true ∧ (s.sc.owned = true → s.authorized c = true)) ∧
    (∃ (s : State) (ring : ℕ) (idx : ℕ) (c : Cmd) (nonce : List W32), s.Inv ∧ s.Ready ring idx c ∧ c.WithBuffer opUnlock 1 4 ∧
      (c.par 0).get 1 0 = 0 ∧ 48 ≤ c.bufLen ∧ s.inMode modesAll = true ∧ nonce.length = 12 ∧ s.bufReach c = true) ∧
    (∃ (s : State) (ring : ℕ) (idx : ℕ) (c : Cmd) (w : List W32) (h : ℕ), s.Inv ∧ s.Ready ring idx c ∧ s.handleOk h = true ∧
      c.WithBuffer opUnlock 0 4 ∧ (c.par 0).get 1 0 = 1 ∧ s.inMode modesAll = true ∧ s.openedLike = false ∧ s.tokenOk 1 c.bufLen
      w = true ∧ s.sc.openCnt < 16 ∧ s.bufReach c = true) ∧
    (∃ (s : State) (ring : ℕ) (idx : ℕ) (c : Cmd) (request : List W32), s.Inv ∧ s.Ready ring idx c ∧ c.WithBuffer opUnlock 1 4 ∧
      (c.par 0).get 1 0 = 2 ∧ 4 * request.length ≤ c.bufLen ∧ s.inMode modesAll = true ∧ s.sc.tamper = true ∧ s.bufReach c =
      true) ∧
    (∃ (s : State) (ring : ℕ) (idx : ℕ) (c : Cmd) (w : List W32), s.Inv ∧ s.Ready ring idx c ∧ c.WithBuffer opUnlock 0 4 ∧
      (c.par 0).get 1 0 = 3 ∧ s.inMode modesAll = true ∧ s.tokenOk 2 c.bufLen w = true ∧ s.sc.newKey = true ∧ s.bufReach c =
      true) ∧
    (∃ (s : State) (ring : ℕ) (idx : ℕ) (c : Cmd) (svn : ℕ) (maj : ℕ), s.Inv ∧ s.Ready ring idx c ∧ c.WithBuffer opFwUpdate 0 0
      ∧ s.inMode modesCs = true ∧ (s.authorized c = true ∨ s.openedLike = true) ∧ s.sc.fwSvn ≤ svn ∧ svn ≤ 63 ∧ 1 ≤ maj ∧ maj ≤
      15 ∧ s.bufReach c = true) ∧
    (∃ (s : State) (p : ℕ) (words : List W32), s.Inv ∧ s.laneMapsOk = true ∧ s.lanesOn = true ∧ s.firmwareOn = true ∧ s.portUsed
      p = true ∧ (s.port p).step = 6 ∧ (s.port p).stepAt ≤ s.elapsed ∧ (words.getD 0 0).get 31 24 = 1 ∧ s.sc.secrets = true) ∧
    (∃ (s : State) (p : ℕ) (words : List W32) (v : ℕ), s.Inv ∧ s.laneMapsOk = true ∧ s.lanesOn = true ∧ s.firmwareOn = true ∧
      s.portUsed p = true ∧ (s.port p).step = 6 ∧ (s.port p).stepAt ≤ s.elapsed ∧ (words.getD 0 0).get 31 24 = 1 ∧ s.sc.secrets
      = true ∧ v ≠ 0) ∧
    (∃ (s : State) (cause : ℕ), s.Inv ∧ 1 ≤ cause ∧ cause ≤ 3 ∧ s.mo.vddKeep = true) ∧
    (∃ (s : State), s.Inv) :=
  ⟨⟨has (dev .run) (plain opAuthChallenge 0 []), 0, 0, plain opAuthChallenge 0 [],
    by unfold State.Inv State.Ready Cmd.Plain; decide +kernel⟩,
   ⟨has (dev .run) (plain opAuthResponse 0 [0, 1, 2, 3, 4, 5, 6, 7, 8, 9, 10, 11]), 0, 0, plain opAuthResponse 0 [0, 1, 2, 3, 4,
     5, 6, 7, 8, 9, 10, 11], 5,
    by unfold State.Inv State.Ready Cmd.Plain; decide +kernel⟩,
   ⟨secured (has (dev .run) (plain opAuthResponse 0 [2, 1, 2])) (fun x =>
     { x with authA := { x.authA with nonce := some (w32s [1, 2, 3, 4], 799000000000), parts := [(0, w32s [1]), (1, w32s [2])] } }),
     0, 0, plain opAuthResponse 0 [2, 1, 2], true, 5, (w32s [1, 2, 3, 4], 799000000000),
    by unfold State.Inv State.Ready Cmd.Plain; decide +kernel⟩,
   ⟨secured (has (dev .run) (plain opAuthResponse 0 [2, 1, 2])) (fun x =>
     { x with authA := { x.authA with nonce := some (w32s [1, 2, 3, 4], 799000000000), parts := [(0, w32s [1]), (1, w32s [2])] } }),
     0, 0, plain opAuthResponse 0 [2, 1, 2], false, 5, (w32s [1, 2, 3, 4], 799000000000),
    by unfold State.Inv State.Ready Cmd.Plain; decide +kernel⟩,
   ⟨has (dev .run) (plain opAuthEnd 0 []), 0, 0, plain opAuthEnd 0 [],
    by unfold State.Inv State.Ready Cmd.Plain; decide +kernel⟩,
   ⟨has (dev .run) (buffered opAttest 0 1 4096 [1, 2, 3, 4, 5, 6, 7, 8]), 0, 0, buffered opAttest 0 1 4096 [1, 2, 3, 4, 5, 6, 7,
     8],
    by unfold State.Inv State.Ready Cmd.WithBuffer; decide +kernel⟩,
   ⟨has (dev .safe) (buffered opOwnerTransfer 0 0 1024 []), 0, 0, buffered opOwnerTransfer 0 0 1024 [],
    by unfold State.Inv State.Ready Cmd.WithBuffer; decide +kernel⟩,
   ⟨has (dev .run) (buffered opUnlock 0 1 48 [0]), 0, 0, buffered opUnlock 0 1 48 [0], nonce12,
    by unfold State.Inv State.Ready Cmd.WithBuffer; decide +kernel⟩,
   ⟨secured (has (dev .run) (buffered opUnlock 0 0 256 [1])) (fun x =>
     { x with unlockNonce := some (nonce12, 799000000000), openCnt := 15, provCnt := 15 }), 0, 0, buffered opUnlock 0 0 256 [1],
     w32s [0x10001, 0, 0] ++ nonce12 ++ w32s [15, 0], 5,
    by unfold State.Inv State.Ready Cmd.WithBuffer; decide +kernel⟩,
   ⟨secured (has (dev .run) (buffered opUnlock 0 1 64 [2])) (fun x => { x with tamper := true }), 0, 0, buffered opUnlock 0 1 64
     [2], nonce12,
    by unfold State.Inv State.Ready Cmd.WithBuffer; decide +kernel⟩,
   ⟨secured (has (dev .run) (buffered opUnlock 0 0 256 [3])) (fun x =>
     { x with unlockNonce := some (nonce12, 799000000000), openCnt := 2, provCnt := 1, newKey := true }), 0, 0, buffered
     opUnlock 0 0 256 [3], w32s [0x10002, 0, 0] ++ nonce12 ++ w32s [2, 0],
    by unfold State.Inv State.Ready Cmd.WithBuffer; decide +kernel⟩,
   ⟨has (dev .commission) (buffered opFwUpdate 0 0 4096 []), 0, 0, buffered opFwUpdate 0 0 4096 [], 63, 2,
    by unfold State.Inv State.Ready Cmd.WithBuffer; decide +kernel⟩,
   ⟨ported { PortSt.init with step := 6 }, 0, w32s [0x01000000],
    by unfold State.Inv; decide +kernel⟩,
   ⟨ported { PortSt.init with step := 6 }, 0, w32s [0x01000000], 1,
    by unfold State.Inv; decide +kernel⟩,
   ⟨dev .run, 3,
    by unfold State.Inv; decide +kernel⟩,
   ⟨dev .run,
    by unfold State.Inv; decide +kernel⟩⟩

/-- States and operands that meet the hypotheses of each clause. -/
theorem witness_LaneCommandsChangeOnlyTheirKinds :
    (∃ (i : Instr) (s : State), commandFamily i = Family.lanes ∧ s.Inv) :=
  ⟨Instr.topoSend, dev .run,
    by unfold State.Inv; decide +kernel⟩

/-- States and operands that meet the hypotheses of each clause. -/
theorem witness_LanesPortsFramesStationsAndEthernetAct :
    (∃ (s : State) (lane : ℕ), s.Inv ∧ lane < s.nLane ∧ s.tu.running = true) ∧
    (∃ (s : State) (n : ℕ) (step : ℕ), s.Inv ∧ s.laneMapsOk = true ∧ s.lanesOn = true ∧ s.laneMay n step = true) ∧
    (∃ (s : State) (n : ℕ) (step : ℕ) (skew : List ℕ), s.Inv ∧ s.laneMapsOk = true ∧ s.lanesOn = true ∧ n < s.nPort ∧ s.portMay
      n step skew = true) ∧
    (∃ (s : State) (n : ℕ), s.Inv ∧ s.laneMapsOk = true ∧ s.lanesOn = true ∧ s.portUsed n = true ∧ (s.port n).step = 5 ∧ (s.port
      n).capBad = false ∧ (s.port n).stepAt + 800000 < s.elapsed) ∧
    (∃ (s : State) (n : ℕ), s.Inv ∧ s.laneMapsOk = true ∧ s.lanesOn = true ∧ s.portUsed n = true ∧ (s.port n).step = 6 ∧
      s.firmwareOn = true ∧ (s.port n).stepAt + 400000000 < s.elapsed) ∧
    (∃ (s : State) (n : ℕ), s.Inv ∧ s.laneMapsOk = true ∧ s.lanesOn = true ∧ s.portUsed n = true ∧ (s.port n).step = 8 ∧
      s.mo.mode ≠ Mode.train) ∧
    (∃ (s : State) (p : ℕ) (k : ℕ) (sync : ℕ), s.Inv ∧ s.laneMapsOk = true ∧ s.lanesOn = true ∧ s.portUsed p = true ∧ k < 2 ^
      s.rd RB_PORT_BOND p ∧ 3 ≤ s.rd LN_LANE_STEP (s.rd RB_PORT_LANE p + k) ∧ syncOk sync = false ∧ List.countP id (mget (fun _
      => []) s.rb.badSync (s.rd RB_PORT_LANE p + k)) < 15) ∧
    (∃ (s : State) (p : ℕ) (k : ℕ) (sync : ℕ), s.Inv ∧ s.laneMapsOk = true ∧ s.lanesOn = true ∧ s.portUsed p = true ∧ k < 2 ^
      s.rd RB_PORT_BOND p ∧ 3 ≤ s.rd LN_LANE_STEP (s.rd RB_PORT_LANE p + k) ∧ syncOk sync = false ∧ List.countP id (mget (fun _
      => []) s.rb.badSync (s.rd RB_PORT_LANE p + k)) = 15 ∧ (mget (fun _ => []) s.rb.badSync (s.rd RB_PORT_LANE p + k)).length <
      64 ∧ s.portOf (s.rd RB_PORT_LANE p + k) = some p) ∧
    (∃ (s : State) (p : ℕ) (cls : ℕ) (f : List W32) (h : List W32) (ws : List W32) (e : List W32) (bs : List LineBlock), s.Inv ∧
      s.laneMapsOk = true ∧ s.lanesOn = true ∧ s.portUsed p = true ∧ 5 ≤ (s.port p).step ∧ f = h ++ ws ++ e ∧ h.length = 4 ∧
      e.length = 8 ∧ cls < 3 ∧ s.PortReads p ∧ s.OnLine p cls f bs ∧ f.length % 2 = 0 ∧ f.length ≠ 2 * (h.getD 0 0).get 10 0) ∧
    (∃ (s : State) (p : ℕ) (cls : ℕ) (f : List W32) (h : List W32) (ws : List W32) (e : List W32) (bs : List LineBlock), s.Inv ∧
      s.laneMapsOk = true ∧ s.lanesOn = true ∧ s.portUsed p = true ∧ 5 ≤ (s.port p).step ∧ f = h ++ ws ++ e ∧ h.length = 4 ∧
      e.length = 8 ∧ cls < 3 ∧ s.PortReads p ∧ s.OnLine p cls f bs ∧ f.length = 2 * (h.getD 0 0).get 10 0 ∧ f.length ≤ 2304 ∧
      (h.getD 0 0).get 31 28 = 1 ∧ BitVec.toNat (e.getD 2 0) ≠ crc32c (h ++ ws ++ List.take 2 e)) ∧
    (∃ (s : State) (p : ℕ) (cls : ℕ) (f : List W32) (h : List W32) (ws : List W32) (e : List W32) (bs : List LineBlock), s.Inv ∧
      s.laneMapsOk = true ∧ s.lanesOn = true ∧ s.portUsed p = true ∧ 5 ≤ (s.port p).step ∧ f = h ++ ws ++ e ∧ h.length = 4 ∧
      e.length = 8 ∧ cls < 3 ∧ s.PortReads p ∧ s.OnLine p cls f bs ∧ f.length = 2 * (h.getD 0 0).get 10 0 ∧ f.length ≤ 2304 ∧
      (h.getD 0 0).get 31 28 = 1 ∧ BitVec.toNat (e.getD 2 0) = crc32c (h ++ ws ++ List.take 2 e) ∧ 7 ≤ (s.port p).step) ∧
    (∃ (s : State) (p : ℕ) (cls : ℕ) (f : List W32) (h : List W32) (ws : List W32) (e : List W32) (bs : List LineBlock), s.Inv ∧
      s.laneMapsOk = true ∧ s.lanesOn = true ∧ s.portUsed p = true ∧ 5 ≤ (s.port p).step ∧ f = h ++ ws ++ e ∧ h.length = 4 ∧
      e.length = 8 ∧ cls < 3 ∧ s.PortReads p ∧ s.OnLine p cls f bs ∧ f.length = 2 * (h.getD 0 0).get 10 0 ∧ f.length ≤ 2304 ∧
      (h.getD 0 0).get 31 28 = 1 ∧ BitVec.toNat (e.getD 2 0) = crc32c (h ++ ws ++ List.take 2 e) ∧ 7 ≤ (s.port p).step ∧ (e.getD
      3 0).get 7 0 = s.rd RB_PORT_KEPOCH p ∧ BitVec.toNat (e.getD 0 0) + BitVec.toNat (e.getD 1 0) * 2 ^ 32 < (s.port p).lctrRx)
      ∧
    (∃ (s : State) (p : ℕ) (cls : ℕ) (f : List W32) (h : List W32) (ws : List W32) (e : List W32) (bs : List LineBlock), s.Inv ∧
      s.laneMapsOk = true ∧ s.lanesOn = true ∧ s.portUsed p = true ∧ 5 ≤ (s.port p).step ∧ f = h ++ ws ++ e ∧ h.length = 4 ∧
      e.length = 8 ∧ cls < 3 ∧ s.PortReads p ∧ s.OnLine p cls f bs ∧ f.length = 2 * (h.getD 0 0).get 10 0 ∧ f.length ≤ 2304 ∧
      (h.getD 0 0).get 31 28 = 1 ∧ BitVec.toNat (e.getD 2 0) = crc32c (h ++ ws ++ List.take 2 e) ∧ 7 ≤ (s.port p).step ∧ (e.getD
      3 0).get 7 0 = s.rd RB_PORT_KEPOCH p ∧ (s.port p).lctrRx ≤ BitVec.toNat (e.getD 0 0) + BitVec.toNat (e.getD 1 0) * 2 ^ 32
      ∧ (h.getD 0 0).get 23 16 = 36 ∧ (h.getD 0 0).get 27 26 = 2 ∧ cls = 2 ∧ (h.getD 1 0).get 11 10 = 0 ∧ (h.getD 1 0).get 21 12
      ≠ s.localDev ∧ (h.getD 1 0).get 31 22 ≠ s.localDev ∧ (h.getD 1 0).get 9 0 ≠ 0 ∧ (h.getD 3 0).get 19 19 = 0 ∧ BitVec.toNat
      (h.getD 2 0) ∉ mget (fun _ => []) s.rb.seen (frameKey ((h.getD 1 0).get 31 22) 0 ((h.getD 3 0).get 31 20) 2) ∧
      s.forwardPorts p 0 ((h.getD 1 0).get 21 12) ((h.getD 3 0).get 15 0) ≠ []) ∧
    (∃ (s : State) (p : ℕ) (words : List W32), s.Inv ∧ s.lanesOn = true ∧ s.portUsed p = true ∧ (s.port p).step = 5 ∧
      words.length = 6 ∧ (words.getD 0 0).get 31 30 = 1 ∧ (words.getD 1 0).get 7 0 = 2 ^ s.rd RB_PORT_BOND p ∧ (words.getD 0
      0).get 21 12 ≠ s.localDev) ∧
    (∃ (s : State) (p : ℕ) (words : List W32), s.Inv ∧ s.lanesOn = true ∧ s.portUsed p = true ∧ (s.port p).step = 5 ∧
      words.length = 6 ∧ (words.getD 0 0).get 31 30 = 1 ∧ (words.getD 1 0).get 7 0 ≠ 2 ^ s.rd RB_PORT_BOND p) ∧
    (∃ (s : State), s.Inv ∧ s.laneMapsOk = true ∧ s.lanesOn = true ∧ s.rb.topoAt ≠ s.tai / 1000000 + 1 ∧ s.gridOk 1000000 = true
      ∧ s.flag RB_CFG_EN 0 = true) ∧
    (∃ (s : State) (d : ℕ), s.Inv ∧ s.laneMapsOk = true ∧ s.lanesOn = true ∧ (s.dev d).topoAt ≠ 0 ∧ (s.dev d).lost = false ∧
      (s.dev d).topoAt + 2399999 ≤ s.elapsed ∧ (s.dev d).mode ≠ 5) ∧
    (∃ (s : State) (d : ℕ), s.Inv ∧ s.laneMapsOk = true ∧ s.lanesOn = true ∧ (s.dev d).topoAt ≠ 0 ∧ (s.dev d).lost = false ∧
      (s.dev d).topoAt + 2399999 ≤ s.elapsed ∧ (s.dev d).mode = 5) ∧
    (∃ (s : State) (n : ℕ) (x : StnSt), s.Inv ∧ s.laneMapsOk = true ∧ s.lanesOn = true ∧ n < 4096 ∧ s.flag RB_STN_EN n = true ∧
      s.stn n = x ∧ s.stations = [n] ∧ s.gridOk (s.stnCycle n) = true ∧ x.cur = 0 ∧ s.rd RB_STNST_STATE n ≠ 3) ∧
    (∃ (s : State) (n : ℕ) (x : StnSt) (words : List W32), s.Inv ∧ s.laneMapsOk = true ∧ s.lanesOn = true ∧ n < 4096 ∧ s.flag
      RB_STN_EN n = true ∧ s.stn n = x ∧ 4 ≤ words.length ∧ (words.getD 0 0).get 12 0 = s.rd RB_STN_IN_LEN n ∧ (words.getD 0
      0).get 31 30 ≠ 0 ∧ s.rd RB_STNST_STATE n = 1) ∧
    (∃ (s : State) (n : ℕ) (x : StnSt) (words : List W32), s.Inv ∧ s.laneMapsOk = true ∧ s.lanesOn = true ∧ n < 4096 ∧ s.flag
      RB_STN_EN n = true ∧ s.stn n = x ∧ 4 ≤ words.length ∧ (words.getD 0 0).get 12 0 = s.rd RB_STN_IN_LEN n ∧ (words.getD 0
      0).get 31 30 = 0 ∧ x.cur = s.nearSecond (BitVec.toNat (words.getD 2 0)) * 1000000000 + (words.getD 3 0).get 29 0 + 1 ∧
      s.rd RB_STNST_STATE n = 1) ∧
    (∃ (s : State) (n : ℕ) (x : StnSt) (words : List W32) (e : StnEnable) (c : Cmd), s.Inv ∧ s.laneMapsOk = true ∧ s.lanesOn =
      true ∧ n < 4096 ∧ s.flag RB_STN_EN n = true ∧ s.stn n = x ∧ 4 ≤ words.length ∧ (words.getD 0 0).get 12 0 = s.rd
      RB_STN_IN_LEN n ∧ (words.getD 0 0).get 31 30 = 0 ∧ x.cur = s.nearSecond (BitVec.toNat (words.getD 2 0)) * 1000000000 +
      (words.getD 3 0).get 29 0 + 1 ∧ s.rd RB_STNST_STATE n = 2 ∧ x.enable = some e ∧ e.start + 1 ≤ x.cur ∧ e.cmd = c.ref ∧
      s.findCmd c.ring c.order = some c ∧ c.undecided = true) ∧
    (∃ (s : State) (n : ℕ) (x : StnSt), s.Inv ∧ s.laneMapsOk = true ∧ s.lanesOn = true ∧ n < 4096 ∧ s.flag RB_STN_EN n = true ∧
      s.stn n = x ∧ s.rd RB_STNST_STATE n = 1 ∧ x.cur ≠ 0 ∧ x.got = false ∧ x.judged = false ∧ x.cur + s.stnCycle n ≤ s.tai + 1
      ∧ x.run + 1 < s.rd RB_STN_MISS n) ∧
    (∃ (s : State) (n : ℕ) (x : StnSt), s.Inv ∧ s.laneMapsOk = true ∧ s.lanesOn = true ∧ n < 4096 ∧ s.flag RB_STN_EN n = true ∧
      s.stn n = x ∧ s.rd RB_STNST_STATE n = 1 ∧ x.cur ≠ 0 ∧ x.got = false ∧ x.judged = false ∧ x.cur + s.stnCycle n ≤ s.tai + 1
      ∧ s.rd RB_STN_MISS n ≤ x.run + 1) ∧
    (∃ (s : State) (n : ℕ) (x : StnSt) (e : StnEnable) (c : Cmd), s.Inv ∧ s.laneMapsOk = true ∧ s.lanesOn = true ∧ n < 4096 ∧
      s.flag RB_STN_EN n = true ∧ s.stn n = x ∧ x.enable = some e ∧ e.cmd = c.ref ∧ s.findCmd c.ring c.order = some c ∧
      c.undecided = true ∧ e.deadline ≤ s.elapsed) ∧
    (∃ (s : State) (n : ℕ) (x : StnSt) (ring : ℕ) (idx : ℕ) (c : Cmd), s.Inv ∧ s.laneMapsOk = true ∧ s.lanesOn = true ∧ n < 4096
      ∧ s.flag RB_STN_EN n = true ∧ s.stn n = x ∧ s.Ready ring idx c ∧ c.Plain opStationEnable 0 ∧ objUnit c.objid = 65 ∧ objGrp
      c.objid = 3 ∧ objInst c.objid = n ∧ s.inMode modesTrain = true ∧ s.rd RB_STNST_STATE n = 2) ∧
    (∃ (s : State) (n : ℕ) (x : StnSt) (ring : ℕ) (idx : ℕ) (c : Cmd), s.Inv ∧ s.laneMapsOk = true ∧ s.lanesOn = true ∧ n < 4096
      ∧ s.flag RB_STN_EN n = true ∧ s.stn n = x ∧ s.Ready ring idx c ∧ c.Plain opStationEnable 0 ∧ objUnit c.objid = 65 ∧ objGrp
      c.objid = 3 ∧ objInst c.objid = n ∧ s.inMode modesTrain = true ∧ s.rd RB_STNST_STATE n = 1) ∧
    (∃ (s : State) (p : ℕ), s.Inv ∧ s.lanesOn = true ∧ s.portUsed p = true) ∧
    (∃ (s : State) (lane : ℕ) (len : ℕ), s.Inv ∧ s.laneUsed lane = true ∧ s.rd LN_LANE_PROTO lane ≠ 1 ∧ s.flag LN_LANE_UP lane =
      true ∧ 64 ≤ len ∧ len ≤ 1522) ∧
    (∃ (s : State) (lane : ℕ) (type : ℕ) (len : ℕ), s.Inv ∧ s.laneUsed lane = true ∧ s.rd LN_LANE_PROTO lane ≠ 1 ∧ s.flag
      LN_LANE_UP lane = true ∧ 64 ≤ len ∧ len ≤ 1522 ∧ type ≠ 34824 ∧ type ≠ 35002 ∧ type ≠ 35063 ∧ s.mo.letClass = 0 ∧
      s.mo.mode ≠ Mode.sentinel ∧ s.rb.capQ < 4096) ∧
    (∃ (s : State) (lane : ℕ) (type : ℕ) (len : ℕ), s.Inv ∧ s.laneUsed lane = true ∧ s.rd LN_LANE_PROTO lane ≠ 1 ∧ s.flag
      LN_LANE_UP lane = true ∧ 64 ≤ len ∧ len ≤ 1522 ∧ type ≠ 34824 ∧ type ≠ 35002 ∧ type ≠ 35063 ∧ (s.mo.letClass ≠ 0 ∨
      s.mo.mode = Mode.sentinel ∨ 4096 ≤ s.rb.capQ)) ∧
    (∃ (s : State), s.Inv ∧ s.lanesOn = true ∧ s.flag EN_GOOSE_EN 0 = true ∧ s.firmwareOn = true ∧ s.mo.mode ≠ Mode.sentinel ∧
      s.rb.goose.data ≠ s.gooseData) ∧
    (∃ (s : State), s.Inv ∧ s.lanesOn = true ∧ s.flag EN_GOOSE_EN 0 = true ∧ s.firmwareOn = true ∧ s.mo.mode ≠ Mode.sentinel ∧
      s.rb.goose.data = s.gooseData ∧ s.rb.goose.sentAt ≠ 0 ∧ s.rb.goose.sentAt + s.rb.goose.interval * 800000 ≤ s.elapsed + 1) :=
  ⟨⟨dev .run, 19,
    by unfold State.Inv; decide +kernel⟩,
   ⟨put (dev .run) [(LN_LANE_PROTO, 19, 2), (LN_LANE_STEP, 19, 2)], 19, 3,
    by unfold State.Inv; decide +kernel⟩,
   ⟨ported { PortSt.init with step := 6, auth := 7 }, 0, 7, [],
    by unfold State.Inv; decide +kernel⟩,
   ⟨ported { PortSt.init with step := 5, stepAt := 799999199999 }, 0,
    by unfold State.Inv; decide +kernel⟩,
   ⟨ported { PortSt.init with step := 6, stepAt := 799599999999 }, 0,
    by unfold State.Inv; decide +kernel⟩,
   ⟨ported { PortSt.init with step := 8 }, 0,
    by unfold State.Inv; decide +kernel⟩,
   ⟨put (reading { PortSt.init with step := 8, frames := [(2, [5])] }) [(LN_LANE_ERR_BLK, 4, 4294967295)], 0, 0, 3,
    by unfold State.Inv; decide +kernel⟩,
   ⟨{ put (reading PortSt.init) [(LN_LANE_UP, 4, 1), (LN_LANE_PROTO, 4, 1)] with rb := { RbSt.init with port := [(0, { PortSt.init with step := 8 })], badSync := [(4, List.replicate 15 true)] } },
     0, 0, 0,
    by unfold State.Inv; decide +kernel⟩,
   ⟨reading { PortSt.init with step := 8, lctrRx := 4 }, 0, 2, frameHead ++ w32s [1, 2] ++ frameTail 4 0, frameHead, w32s [1,
     2], frameTail 4 0, onLane (reading { PortSt.init with step := 8, lctrRx := 4 }) 0 2 (frameHead ++ w32s [1, 2] ++ frameTail
     4 0),
    ⟨(by unfold State.Inv; decide +kernel),
     (by decide +kernel),
     (by decide +kernel),
     (by decide +kernel),
     (by decide +kernel),
     (by decide +kernel),
     (by decide +kernel),
     (by decide +kernel),
     (by decide +kernel),
     (by unfold State.PortReads; decide +kernel),
     onLane_onLine _ _ _ _,
     by decide +kernel⟩⟩,
   ⟨reading { PortSt.init with step := 8, lctrRx := 4 }, 0, 2, frameHead ++ [] ++ frameTail 4 0, frameHead, [], frameTail 4 0,
     onLane (reading { PortSt.init with step := 8, lctrRx := 4 }) 0 2 (frameHead ++ [] ++ frameTail 4 0),
    ⟨(by unfold State.Inv; decide +kernel),
     (by decide +kernel),
     (by decide +kernel),
     (by decide +kernel),
     (by decide +kernel),
     (by decide +kernel),
     (by decide +kernel),
     (by decide +kernel),
     (by decide +kernel),
     (by unfold State.PortReads; decide +kernel),
     onLane_onLine _ _ _ _,
     by decide +kernel⟩⟩,
   ⟨reading { PortSt.init with step := 8, lctrRx := 4 }, 0, 2, frameHead ++ [] ++ frameTail 4 frameCrc, frameHead, [], frameTail
     4 frameCrc, onLane (reading { PortSt.init with step := 8, lctrRx := 4 }) 0 2 (frameHead ++ [] ++ frameTail 4 frameCrc),
    ⟨(by unfold State.Inv; decide +kernel),
     (by decide +kernel),
     (by decide +kernel),
     (by decide +kernel),
     (by decide +kernel),
     (by decide +kernel),
     (by decide +kernel),
     (by decide +kernel),
     (by decide +kernel),
     (by unfold State.PortReads; decide +kernel),
     onLane_onLine _ _ _ _,
     by decide +kernel⟩⟩,
   ⟨reading { PortSt.init with step := 8, lctrRx := 5 }, 0, 2, frameHead ++ [] ++ frameTail 4 frameCrc, frameHead, [], frameTail
     4 frameCrc, onLane (reading { PortSt.init with step := 8, lctrRx := 5 }) 0 2 (frameHead ++ [] ++ frameTail 4 frameCrc),
    ⟨(by unfold State.Inv; decide +kernel),
     (by decide +kernel),
     (by decide +kernel),
     (by decide +kernel),
     (by decide +kernel),
     (by decide +kernel),
     (by decide +kernel),
     (by decide +kernel),
     (by decide +kernel),
     (by unfold State.PortReads; decide +kernel),
     onLane_onLine _ _ _ _,
     by decide +kernel⟩⟩,
   ⟨{ put (reading PortSt.init) [(RB_PORT_EN, 1, 1), (RB_PORT_LANE, 1, 5)] with rb := { RbSt.init with port := [(0, { PortSt.init with step := 8, lctrRx := 4 }), (1, { PortSt.init with step := 8 })] } },
     0, 2, frameHead ++ [] ++ frameTail 4 frameCrc, frameHead, [], frameTail 4 frameCrc, onLane
     { put (reading PortSt.init) [(RB_PORT_EN, 1, 1), (RB_PORT_LANE, 1, 5)] with rb := { RbSt.init with port := [(0, { PortSt.init with step := 8, lctrRx := 4 }), (1, { PortSt.init with step := 8 })] } }
     0 2 (frameHead ++ [] ++ frameTail 4 frameCrc),
    ⟨(by unfold State.Inv; decide +kernel),
     (by decide +kernel),
     (by decide +kernel),
     (by decide +kernel),
     (by decide +kernel),
     (by decide +kernel),
     (by decide +kernel),
     (by decide +kernel),
     (by decide +kernel),
     (by unfold State.PortReads; decide +kernel),
     onLane_onLine _ _ _ _,
     by decide +kernel⟩⟩,
   ⟨ported { PortSt.init with step := 5 }, 0, w32s [0x40009000, 0x96400001, 0, 0, 0, 0],
    by unfold State.Inv; decide +kernel⟩,
   ⟨ported { PortSt.init with step := 5 }, 0, w32s [0x40009000, 0x96400002, 0, 0, 0, 0],
    by unfold State.Inv; decide +kernel⟩,
   ⟨put (dev .run) [(RB_CFG_EN, 0, 1)],
    by unfold State.Inv; decide +kernel⟩,
   ⟨{ dev .run with tm := { TmSt.init with devs := [(9, ⟨799997600001, 4, 0, false, 0, 0⟩)] } }, 9,
    by unfold State.Inv; decide +kernel⟩,
   ⟨{ dev .run with tm := { TmSt.init with devs := [(9, ⟨5, 5, 0, false, 0, 0⟩)] } }, 9,
    by unfold State.Inv; decide +kernel⟩,
   ⟨stationed 1 { StnSt.init with run := 1 }, 4095, { StnSt.init with run := 1 },
    by unfold State.Inv; decide +kernel⟩,
   ⟨stationed 1 { StnSt.init with run := 1 }, 4095, { StnSt.init with run := 1 }, w32s [0x40000010, 0, 1000, 0],
    by unfold State.Inv; decide +kernel⟩,
   ⟨stationed 1 { StnSt.init with cur := 1000000000001 }, 4095, { StnSt.init with cur := 1000000000001 }, w32s [0x10, 0, 1000,
     0, 1, 2, 3, 4],
    by unfold State.Inv; decide +kernel⟩,
   ⟨has (stationed 2 { StnSt.init with cur := 1000000000001, enable := some ⟨(0, 1), 1000000000000, 900000000000⟩ })
     { plain opStationEnable (obj 0x41 3 4095) [] with phase := .started }, 4095,
     { StnSt.init with cur := 1000000000001, enable := some ⟨(0, 1), 1000000000000, 900000000000⟩ }, w32s [0x10, 0, 1000, 0, 1,
     2, 3, 4], ⟨(0, 1), 1000000000000, 900000000000⟩, { plain opStationEnable (obj 0x41 3 4095) [] with phase := .started },
    by unfold State.Inv; decide +kernel⟩,
   ⟨stationed 1 { StnSt.init with cur := 999000000001, run := 1 }, 4095, { StnSt.init with cur := 999000000001, run := 1 },
    by unfold State.Inv; decide +kernel⟩,
   ⟨stationed 1 { StnSt.init with cur := 999000000001, run := 2 }, 4095, { StnSt.init with cur := 999000000001, run := 2 },
    by unfold State.Inv; decide +kernel⟩,
   ⟨has (stationed 2 { StnSt.init with enable := some ⟨(0, 1), 1000000000000, 800000000000⟩ })
     { plain opStationEnable (obj 0x41 3 4095) [] with phase := .started }, 4095,
     { StnSt.init with enable := some ⟨(0, 1), 1000000000000, 800000000000⟩ }, ⟨(0, 1), 1000000000000, 800000000000⟩,
     { plain opStationEnable (obj 0x41 3 4095) [] with phase := .started },
    by unfold State.Inv; decide +kernel⟩,
   ⟨has (stationed 2 { StnSt.init with run := 1 }) (plain opStationEnable (obj 0x41 3 4095) []), 4095,
     { StnSt.init with run := 1 }, 0, 0, plain opStationEnable (obj 0x41 3 4095) [],
    by unfold State.Inv State.Ready Cmd.Plain; decide +kernel⟩,
   ⟨has (stationed 1 { StnSt.init with run := 1 }) (plain opStationEnable (obj 0x41 3 4095) []), 4095,
     { StnSt.init with run := 1 }, 0, 0, plain opStationEnable (obj 0x41 3 4095) [],
    by unfold State.Inv State.Ready Cmd.Plain; decide +kernel⟩,
   ⟨ported PortSt.init, 0,
    by unfold State.Inv; decide +kernel⟩,
   ⟨put (dev .run) [(LN_LANE_PROTO, 19, 2), (LN_LANE_UP, 19, 1)], 19, 64,
    by unfold State.Inv; decide +kernel⟩,
   ⟨put (dev .run) [(LN_LANE_PROTO, 19, 2), (LN_LANE_UP, 19, 1)], 19, 0x0800, 1522,
    by unfold State.Inv; decide +kernel⟩,
   ⟨{ put (dev .run) [(LN_LANE_PROTO, 19, 2), (LN_LANE_UP, 19, 1)] with rb := { RbSt.init with capQ := 4096 } }, 19, 0x0800,
     1522,
    by unfold State.Inv; decide +kernel⟩,
   ⟨{ put (dev .run) [(EN_GOOSE_EN, 0, 1)] with rb := { RbSt.init with goose := ⟨5, 1, 2, 4, 700000000000, false, 9⟩ } },
    by unfold State.Inv; decide +kernel⟩,
   ⟨{ put (dev .run) [(EN_GOOSE_EN, 0, 1)] with rb := { RbSt.init with goose := ⟨0, 1, 2, 4, 799996800001, false, 9⟩ } },
    by unfold State.Inv; decide +kernel⟩⟩

/-- States and operands that meet the hypotheses of each clause. -/
theorem witness_LetsErrorsAndPowerFailsRunTheirCourse :
    (∃ (s : State), s.Inv ∧ (s.mo.mode = Mode.run ∨ s.mo.mode = Mode.commission)) ∧
    (∃ (s : State) (k : ℕ), s.Inv ∧ (s.mo.mode = Mode.run ∨ s.mo.mode = Mode.commission) ∧ (k = 128 ∨ k = 129) ∧ s.umOn = true)
      ∧
    (∃ (s : State), s.Inv ∧ (s.mo.mode = Mode.run ∨ s.mo.mode = Mode.commission) ∧ s.mo.captain = true ∧ s.mo.boot ≠
      BootStep.captain) ∧
    (∃ (s : State) (k : ℕ), s.Inv ∧ s.mo.mode = Mode.letMode ∧ s.mo.letClass = 1 ∧ (k = 128 ∨ k = 129) ∧ s.umOn = true) ∧
    (∃ (s : State), s.Inv ∧ s.mo.mode = Mode.letMode ∧ s.mo.letClass = 1) ∧
    (∃ (s : State), s.Inv ∧ s.mo.mode = Mode.letMode ∧ s.mo.letClass = 2) ∧
    (∃ (s : State), s.Inv ∧ s.mo.mode = Mode.letMode ∧ s.cs.cut = false ∧ (∀ e ∈ s.badNow, continuousBlock e.1 = false) ∧
      (s.mo.letClass = 1 ∨ s.mo.letClass = 2)) ∧
    (∃ (s : State), s.Inv ∧ s.mo.mode = Mode.letMode ∧ s.cs.cut = false ∧ (∀ e ∈ s.badNow, continuousBlock e.1 = false) ∧
      (s.mo.letClass = 1 ∨ s.mo.letClass = 2) ∧ s.mo.letClass = 2 ∧ s.mo.letResumed = false) ∧
    (∃ (s : State), s.Inv ∧ s.mo.mode = Mode.letMode ∧ s.mo.letAt + (if s.mo.letClass = 2 then 2000 else 800) * 800000 <
      s.elapsed) ∧
    (∃ (s : State), s.Inv ∧ (s.mo.mode = Mode.train ∨ s.mo.mode = Mode.safe) ∧ s.mo.boot = BootStep.done ∧ s.mo.captain = true)
      ∧
    (∃ (s : State), s.Inv ∧ (s.mo.mode = Mode.train ∨ s.mo.mode = Mode.safe) ∧ s.mo.boot = BootStep.done ∧ s.mo.captain = false
      ∧ s.mo.letOwed = 0 ∧ s.tu.running = true ∧ s.mo.sent = SentStep.out) ∧
    (∃ (s : State) (b : ℕ), s.Inv ∧ s.storeOn = true ∧ b < 3072 ∧ (∀ e ∈ s.badNow, e.1 ≠ b)) ∧
    (∃ (s : State) (b : ℕ) (x : SdBeat) (a : Bool), s.Inv ∧ s.storeOn = true ∧ b < 3072 ∧ (∀ e ∈ s.badNow, e.1 ≠ b) ∧ sdRead x =
      SdVerdict.uncorrectable a) ∧
    (∃ (s : State) (b : ℕ) (x : SdBeat) (j : ℕ) (y : BitVec 80), s.Inv ∧ s.storeOn = true ∧ b < 3072 ∧ (∀ e ∈ s.badNow, e.1 ≠ b)
      ∧ sdRead x = SdVerdict.corrected j y) ∧
    (∃ (s : State) (b : ℕ) (x : SdBeat), s.Inv ∧ s.storeOn = true ∧ b < 3072 ∧ (∀ e ∈ s.badNow, e.1 ≠ b) ∧ sdRead x =
      SdVerdict.good) ∧
    (∃ (lane : ℕ) (e : Machine.Sym), lane < 10 ∧ e ≠ 0) ∧
    (∃ (addr : ℕ) (k : ℕ) (other : ℕ), k < 4 ∧ (addrSyms addr).getD k 0 ≠ (addrSyms other).getD k 0 ∧ (∀ m < 4, m ≠ k →
      (addrSyms addr).getD m 0 = (addrSyms other).getD m 0)) ∧
    (∃ (s : State), s.Inv ∧ s.mo.rails = true ∧ s.mo.resetN = true ∧ s.cs.pfAt = none ∧ s.cs.writing = none ∧ (s.mo.mode =
      Mode.train ∨ s.mo.mode = Mode.run ∨ s.mo.mode = Mode.commission ∨ s.mo.mode = Mode.safe)) ∧
    (∃ (s : State) (w : CsWrite) (img : CsImage), s.Inv ∧ s.mo.rails = true ∧ s.mo.resetN = true ∧ s.cs.writing = some w ∧
      s.cs.sealed = some img ∧ s.badNow = []) ∧
    (∃ (s : State) (x : ℕ), s.Inv ∧ s.mo.rails = true ∧ s.mo.resetN = true ∧ s.cs.pfAt = some x ∧ s.cs.writing = none ∧
      (s.mo.mode = Mode.run ∨ s.mo.mode = Mode.commission) ∧ s.cs.pfFailed = false) ∧
    (∃ (s : State) (e : ErrRec) (l : List ErrRec), s.Inv ∧ s.tu.running = true ∧ s.ec.arrivals = e :: l ∧ s.mo.mode = Mode.run ∧
      e.cls = 4 ∧ e.code ≠ 644) ∧
    (∃ (s : State) (e : ErrRec) (l : List ErrRec), s.Inv ∧ s.tu.running = true ∧ s.ec.arrivals = e :: l ∧ s.mo.mode = Mode.run ∧
      e.cls = 3 ∧ s.nestC = 2) ∧
    (∃ (s : State) (e : ErrRec) (l : List ErrRec), s.Inv ∧ s.tu.running = true ∧ s.ec.arrivals = e :: l ∧ s.mo.mode = Mode.run ∧
      e.cls < 4 ∧ (e.cls = 3 → s.nestC ≠ 2) ∧ s.ec.handling = []) ∧
    (∃ (s : State) (e : ErrRec) (l : List ErrRec) (h : ErrRec) (r : List ErrRec), s.Inv ∧ s.tu.running = true ∧ s.ec.arrivals =
      e :: l ∧ s.mo.mode = Mode.run ∧ e.cls < 4 ∧ (e.cls = 3 → s.nestC ≠ 2) ∧ s.ec.handling = h :: r ∧ h.cls < e.cls) ∧
    (∃ (s : State) (e : ErrRec) (l : List ErrRec) (h : ErrRec) (r : List ErrRec), s.Inv ∧ s.tu.running = true ∧ s.ec.arrivals =
      e :: l ∧ s.mo.mode = Mode.run ∧ e.cls < 4 ∧ (e.cls = 3 → s.nestC ≠ 2) ∧ s.ec.handling = h :: r ∧ e.cls ≤ h.cls ∧
      s.ec.queue.length < 32) ∧
    (∃ (s : State) (e : ErrRec) (l : List ErrRec) (h : ErrRec) (r : List ErrRec), s.Inv ∧ s.tu.running = true ∧ s.ec.arrivals =
      e :: l ∧ s.mo.mode = Mode.run ∧ e.cls < 4 ∧ (e.cls = 3 → s.nestC ≠ 2) ∧ s.ec.handling = h :: r ∧ e.cls ≤ h.cls ∧ 32 ≤
      s.ec.queue.length ∧ s.ec.ovf = false) ∧
    (∃ (s : State) (h : ErrRec) (e : ErrRec) (q : List ErrRec), s.Inv ∧ s.mo.letClass = 0 ∧ s.ec.handling = [h] ∧ s.ec.queue = e
      :: q) ∧
    (∃ (s : State) (h : ErrRec) (e : ErrRec) (r : List ErrRec), s.Inv ∧ s.mo.letClass = 0 ∧ s.ec.handling = h :: e :: r) :=
  ⟨⟨dev .commission,
    by unfold State.Inv; decide +kernel⟩,
   ⟨dev .run, 129,
    by unfold State.Inv; decide +kernel⟩,
   ⟨dev .run,
    by unfold State.Inv; decide +kernel⟩,
   ⟨letting 1 799999000000, 128,
    by unfold State.Inv; decide +kernel⟩,
   ⟨letting 1 799999000000,
    by unfold State.Inv; decide +kernel⟩,
   ⟨letting 2 799999000000,
    by unfold State.Inv; decide +kernel⟩,
   ⟨letting 2 799999000000,
    by unfold State.Inv; decide +kernel⟩,
   ⟨letting 2 799999000000,
    by unfold State.Inv; decide +kernel⟩,
   ⟨letting 2 798399999999,
    by unfold State.Inv; decide +kernel⟩,
   ⟨dev .safe,
    by unfold State.Inv; decide +kernel⟩,
   ⟨{ dev .safe with mo := { (dev .safe).mo with captain := false } },
    by unfold State.Inv; decide +kernel⟩,
   ⟨{ dev .run with cs := { CsSt.init with bad := [(16, 800000000000 - 5)] } }, 3071,
    by unfold State.Inv; decide +kernel⟩,
   ⟨{ dev .run with cs := { CsSt.init with bad := [(16, 800000000000 - 5)] } }, 3071, ⟨128, (sdWrite 64 0x123).syms⟩, true,
    by unfold State.Inv; decide +kernel⟩,
   ⟨dev .run, 3071, ⟨64, (sdWrite 64 0x123).syms ^^^ 1⟩, 2, 0xecc60000000000000123#80,
    by unfold State.Inv; decide +kernel⟩,
   ⟨dev .run, 0, sdWrite 64 0x123,
    by unfold State.Inv; decide +kernel⟩,
   ⟨9, 0x80,
    by decide +kernel⟩,
   ⟨0x7fffffff8, 3, 0x7f7fffff8,
    by decide +kernel⟩,
   ⟨dev .run,
    by unfold State.Inv; decide +kernel⟩,
   ⟨{ dev .run with cs := { CsSt.init with writing := some ⟨true, 1, 799999000000⟩, sealed := some sealedStore, slotB := .incomplete } },
     ⟨true, 1, 799999000000⟩, sealedStore,
    by unfold State.Inv; decide +kernel⟩,
   ⟨{ dev .run with cs := { CsSt.init with pfAt := some 799999000000, sealed := some sealedStore, cut := true, slotB := .complete } },
     799999000000,
    by unfold State.Inv; decide +kernel⟩,
   ⟨erring (dev .run) [⟨0x1080, 4⟩] [] [], ⟨0x1080, 4⟩, [],
    by unfold State.Inv; decide +kernel⟩,
   ⟨erring (dev .run) [⟨0x2080, 3⟩] [⟨0x280, 3⟩] [⟨0x2081, 3⟩], ⟨0x2080, 3⟩, [],
    by unfold State.Inv; decide +kernel⟩,
   ⟨erring (dev .run) [⟨0x2080, 3⟩] [] [⟨0x2081, 3⟩], ⟨0x2080, 3⟩, [],
    by unfold State.Inv; decide +kernel⟩,
   ⟨erring (dev .run) [⟨0x2080, 3⟩] [⟨0x4001, 1⟩] [], ⟨0x2080, 3⟩, [], ⟨0x4001, 1⟩, [],
    by unfold State.Inv; decide +kernel⟩,
   ⟨erring (dev .run) [⟨0x2080, 3⟩] [⟨0x2081, 3⟩] (List.replicate 31 ⟨0x4001, 1⟩), ⟨0x2080, 3⟩, [], ⟨0x2081, 3⟩, [],
    by unfold State.Inv; decide +kernel⟩,
   ⟨erring (dev .run) [⟨0x2080, 3⟩] [⟨0x2081, 3⟩] (List.replicate 32 ⟨0x4001, 1⟩), ⟨0x2080, 3⟩, [], ⟨0x2081, 3⟩, [],
    by unfold State.Inv; decide +kernel⟩,
   ⟨erring (dev .run) [] [⟨0x2081, 3⟩] [⟨0x4001, 1⟩], ⟨0x2081, 3⟩, ⟨0x4001, 1⟩, [],
    by unfold State.Inv; decide +kernel⟩,
   ⟨erring (dev .run) [] [⟨0x2081, 3⟩, ⟨0x4001, 1⟩] [⟨0x4002, 2⟩], ⟨0x2081, 3⟩, ⟨0x4001, 1⟩, [],
    by unfold State.Inv; decide +kernel⟩⟩

/-- States and operands that meet the hypotheses of each clause. -/
theorem witness_LogicCommandsChangeOnlyTheirKinds :
    (∃ (i : Instr) (s : State), commandFamily i = Family.logic ∧ s.Inv) :=
  ⟨Instr.umpireRound, dev .run,
    by unfold State.Inv; decide +kernel⟩

/-- States and operands that meet the hypotheses of each clause. -/
theorem witness_LogicImagesSwitchAndDemandsResolve :
    (∃ (s : State) (ring : ℕ) (idx : ℕ) (im : LogicImage) (sig : Bool) (c : Cmd), s.Inv ∧ s.Ready ring idx c ∧ c.WithBuffer
      opBullpenLoad 0 0 ∧ c.objid = bullpenObj ∧ s.inMode modesTrain = true ∧ s.bufReach c = true ∧ s.imgFault im c.bufLen sig =
      none) ∧
    (∃ (s : State) (ring : ℕ) (idx : ℕ) (im : LogicImage) (sig : Bool) (c : Cmd) (st : Status) (r0 : ℕ), s.Inv ∧ s.Ready ring
      idx c ∧ c.WithBuffer opBullpenLoad 0 0 ∧ c.objid = bullpenObj ∧ s.inMode modesTrain = true ∧ s.bufReach c = true ∧
      s.imgFault im c.bufLen sig = some (st, r0, false)) ∧
    (∃ (s : State) (ring : ℕ) (idx : ℕ) (c : Cmd), s.Inv ∧ s.Ready ring idx c ∧ c.objid = bullpenObj ∧ s.authorized c = true ∧
      s.inMode modesCr = true ∧ c.Plain opBullpenSwitch 4 ∧ s.rd LG_BULLPEN_STATE 0 = 2 ∧ BitVec.toNat (c.par 0) = s.rd
      LG_BULLPEN_CRC 0) ∧
    (∃ (s : State) (ring : ℕ) (idx : ℕ) (c : Cmd), s.Inv ∧ s.Ready ring idx c ∧ c.objid = bullpenObj ∧ s.authorized c = true ∧
      s.inMode modesCr = true ∧ c.Plain opBullpenSwitch 4 ∧ s.rd LG_BULLPEN_STATE 0 = 2 ∧ BitVec.toNat (c.par 0) ≠ s.rd
      LG_BULLPEN_CRC 0) ∧
    (∃ (s : State) (ring : ℕ) (idx : ℕ) (c : Cmd), s.Inv ∧ s.Ready ring idx c ∧ c.objid = bullpenObj ∧ s.authorized c = true ∧
      s.inMode modesCr = true ∧ c.Plain opBullpenRollback 0 ∧ s.rd LG_BULLPEN_STATE 0 = 4) ∧
    (∃ (s : State) (x : LgSwitch) (new : LogicImage) (old : LogicImage) (c : Cmd), s.Inv ∧ s.umOn = true ∧ s.lg.switch = some x
      ∧ s.lg.bullpen = some new ∧ s.lg.active = some old ∧ (∀ n ∈ s.lgTasks, (s.lgTask n).open_ = none) ∧ mapOk (fun _ => 0)
      s.lg.m = true ∧ x.cmd = c.ref ∧ s.findCmd c.ring c.order = some c ∧ c.undecided = true) ∧
    (∃ (s : State) (x : LgSwitch) (n : ℕ) (c : Cmd), s.Inv ∧ s.umOn = true ∧ s.lg.switch = some x ∧ x.since + usUnits (s.rd
      LG_BULLPEN_SW_WAIT 0) ≤ s.elapsed ∧ n ∈ s.lgTasks ∧ (s.lgTask n).open_ ≠ none ∧ x.cmd = c.ref ∧ s.findCmd c.ring c.order =
      some c ∧ c.undecided = true) ∧
    (∃ (s : State) (w : UWrite) (d : PtDef) (c : Cmd), s.Inv ∧ s.umOn = true ∧ s.gridOk 1000 = true ∧ s.um.roundAt ≠ s.tai /
      1000 ∧ s.cs.cut = false ∧ s.um.stand = [] ∧ s.rp.out = [] ∧ s.um.writes = [w] ∧ w.gone = false ∧ w.bad = false ∧ w.tag =
      none ∧ w.lane = none ∧ w.cmd = some c.ref ∧ s.pd.writes =
      [{ cmd := c.ref, waiting := 1, buf := false, lossAt := 0, lossRank := 0, lost := 0, bad := none }] ∧ s.findCmd c.ring
      c.order = some c ∧ c.undecided = true ∧ s.ptDef w.index = some d ∧ d.bind = 0 ∧ s.engineOwner w.index = none ∧ 0 < w.rank)
      ∧
    (∃ (s : State), s.Inv ∧ s.umOn = true ∧ s.gridOk 1000 = true ∧ s.um.roundAt ≠ s.tai / 1000 ∧ s.cs.cut = false ∧ s.um.stand =
      [] ∧ s.rp.out = [] ∧ s.um.writes = []) :=
  ⟨⟨has (dev .run) (buffered opBullpenLoad bullpenObj 0 256 []), 0, 0, image 63 0 [0xFC000000], true, buffered opBullpenLoad
     bullpenObj 0 256 [],
    by unfold State.Inv State.Ready Cmd.WithBuffer; decide +kernel⟩,
   ⟨has (dev .run) (buffered opBullpenLoad bullpenObj 0 256 []), 0, 0, image 63 0 [0xFC000000], false, buffered opBullpenLoad
     bullpenObj 0 256 [], .authFail, 0,
    by unfold State.Inv State.Ready Cmd.WithBuffer; decide +kernel⟩,
   ⟨has (put (dev .run) [(LG_BULLPEN_STATE, 0, 2), (LG_BULLPEN_CRC, 0, 0x1234)]) (plain opBullpenSwitch bullpenObj [0x1234]), 0,
     0, plain opBullpenSwitch bullpenObj [0x1234],
    by unfold State.Inv State.Ready Cmd.Plain; decide +kernel⟩,
   ⟨has (put (dev .run) [(LG_BULLPEN_STATE, 0, 2), (LG_BULLPEN_CRC, 0, 0x1235)]) (plain opBullpenSwitch bullpenObj [0x1234]), 0,
     0, plain opBullpenSwitch bullpenObj [0x1234],
    by unfold State.Inv State.Ready Cmd.Plain; decide +kernel⟩,
   ⟨has (put (dev .run) [(LG_BULLPEN_STATE, 0, 4)]) (plain opBullpenRollback bullpenObj []), 0, 0, plain opBullpenRollback
     bullpenObj [],
    by unfold State.Inv State.Ready Cmd.Plain; decide +kernel⟩,
   ⟨{ has (dev .run) { plain opBullpenSwitch bullpenObj [0x1234] with phase := .started } with lg := { LgSt.init with running := true, switch := some ⟨(0, 1), false, 799999000000⟩, active := some { image 63 0 [0xFC000000] with insts := [dataBlock 0x100 16 9] }, bullpen := some { image 63 0 [0xFC000000] with insts := [dataBlock 0x200 24 9] }, m := [(64, 5), (67, 6), (68, 7)] } },
     ⟨(0, 1), false, 799999000000⟩, { image 63 0 [0xFC000000] with insts := [dataBlock 0x200 24 9] },
     { image 63 0 [0xFC000000] with insts := [dataBlock 0x100 16 9] },
     { plain opBullpenSwitch bullpenObj [0x1234] with phase := .started },
    by unfold State.Inv; decide +kernel⟩,
   ⟨has { logic [0xFC000000] [] [(63, { LgTask.init with open_ := some (openCycle .done) })] with lg := { LgSt.init with running := true, switch := some ⟨(0, 1), true, 0⟩, active := some (image 63 0 [0xFC000000]), tasks := [(63, { LgTask.init with open_ := some (openCycle .done) })] } }
     { plain opBullpenSwitch bullpenObj [0x1234] with phase := .started }, ⟨(0, 1), true, 0⟩, 63,
     { plain opBullpenSwitch bullpenObj [0x1234] with phase := .started },
    by unfold State.Inv; decide +kernel⟩,
   ⟨{ has (dev .run) { plain opPointWrite 0x22000000 [0, 5, 1, 0] with phase := .started } with um := { UmSt.init with writes := [roundWrite] }, pd := { PdSt.init with defs := [(5, some (ptOf 0 0 0 0))], writes := [⟨(0, 1), 1, false, 0, 0, 0, none⟩] } },
     roundWrite, ptOf 0 0 0 0, { plain opPointWrite 0x22000000 [0, 5, 1, 0] with phase := .started },
    by unfold State.Inv; decide +kernel⟩,
   ⟨dev .run,
    by unfold State.Inv; decide +kernel⟩⟩

/-- States and operands that meet the hypotheses of each clause. -/
theorem witness_LoopCommandsSwapsOverrunsAndLanes :
    (∃ (s : State) (ring : ℕ) (idx : ℕ) (c : Cmd), s.Inv ∧ s.controlMapsOk = true ∧ s.Ready ring idx c ∧ c.Plain opLoopState 4 ∧
      s.leAbsentOf c = none ∧ objGrp c.objid = 1 ∧ s.inMode modesCrs = true ∧ (s.mo.mode = Mode.safe → BitVec.toNat (c.par 0) =
      3) ∧ objUnit c.objid = 24 ∧ objInst c.objid < 1024 ∧ BitVec.toNat (c.par 0) ∈ [1, 2, 3, 4] ∧ s.loopState (objInst c.objid)
      ≠ 0 ∧ s.loopState (objInst c.objid) ≠ 6) ∧
    (∃ (s : State) (ring : ℕ) (idx : ℕ) (c : Cmd), s.Inv ∧ s.controlMapsOk = true ∧ s.Ready ring idx c ∧ c.Plain opLoopState 4 ∧
      s.leAbsentOf c = none ∧ objGrp c.objid = 1 ∧ s.inMode modesCrs = true ∧ (s.mo.mode = Mode.safe → BitVec.toNat (c.par 0) =
      3) ∧ objUnit c.objid = 25 ∧ objInst c.objid < 128 ∧ BitVec.toNat (c.par 0) ∈ [1, 3, 5] ∧ s.flag AX_AXIS_EN (objInst
      c.objid) = true) ∧
    (∃ (s : State) (ring : ℕ) (idx : ℕ) (c : Cmd), s.Inv ∧ s.controlMapsOk = true ∧ s.Ready ring idx c ∧ c.Plain opAutotune 4 ∧
      s.leAbsentOf c = none ∧ tuneBad c = false ∧ s.tuneMode (objInst c.objid) = true ∧ c.tuneOp = 1 ∧ s.rd LE_TUNE_RULE
      (objInst c.objid) ≤ 5 ∧ (s.loopState (objInst c.objid) = 1 ∨ s.loopState (objInst c.objid) = 2) ∧ s.actBank (objInst
      c.objid) = 0 ∧ (s.loop (objInst c.objid)).swap = none ∧ (s.loopIn (objInst c.objid)).bad = false) ∧
    (∃ (s : State) (ring : ℕ) (idx : ℕ) (c : Cmd) (r : TuneRun), s.Inv ∧ s.controlMapsOk = true ∧ s.Ready ring idx c ∧ c.Plain
      opAutotune 4 ∧ s.leAbsentOf c = none ∧ tuneBad c = false ∧ s.tuneMode (objInst c.objid) = true ∧ c.tuneOp = 2 ∧ (s.loop
      (objInst c.objid)).tune = some r) ∧
    (∃ (s : State) (n : ℕ) (r : TuneRun), s.Inv ∧ s.controlMapsOk = true ∧ n < 1024 ∧ s.leOn = true ∧ (s.loop n).tune = some r ∧
      r.startAt + s.rd LE_TUNE_TMAX n * unitsPerSec ≤ s.elapsed) ∧
    (∃ (s : State) (ring : ℕ) (idx : ℕ) (c : Cmd), s.Inv ∧ s.controlMapsOk = true ∧ s.Ready ring idx c ∧ c.Plain opTableCapture
      4 ∧ s.leAbsentOf c = none ∧ objUnit c.objid = 25 ∧ objGrp c.objid = 1 ∧ objInst c.objid < 128 ∧ finite f32 (BitVec.toNat
      (c.par 0)) = true ∧ flt f32 0 (BitVec.toNat (c.par 0)) = true ∧ s.authorized c = true ∧ s.inMode modesC = true ∧
      s.axisState (objInst c.objid) = 1 ∧ s.flag AX_AXIS_VLOOP (objInst c.objid) = true) ∧
    (∃ (s : State) (n : ℕ) (w : LoopSwap) (c : Cmd), s.Inv ∧ s.controlMapsOk = true ∧ n < 1024 ∧ s.leOn = true ∧ s.leSwaps =
      [(n, w)] ∧ w.tb ≤ s.tai ∧ w.bank < 2 ∧ w.grp = 0 ∧ c.ref = w.cmd ∧ s.findCmd c.ring c.order = some c ∧ c.undecided = true)
      ∧
    (∃ (s : State) (n : ℕ), s.Inv ∧ s.controlMapsOk = true ∧ s.leOn = true ∧ n < 1024 ∧ (s.loop n).flying = true ∧ (s.loop
      n).overran = false ∧ (s.loop n).at_ + periodNs (s.rd LE_LOOP_RATE n) ≤ s.tai) ∧
    (∃ (s : State) (n : ℕ), s.Inv ∧ s.controlMapsOk = true ∧ s.leOn = true ∧ n < 128 ∧ (s.axis n).flying = true ∧ (s.axis
      n).overran = false ∧ (s.axis n).at_ + periodNs (s.rd AX_AXIS_RATE n) ≤ s.tai) ∧
    (∃ (s : State) (lane : ℕ), s.Inv ∧ s.umOn = true ∧ lane < 4 ∧ s.var ≠ Variant.cpx9616 ∧ lane ∉ s.le.lanes) :=
  ⟨⟨has (put (dev .run) [(LE_STAT_STATE, 1023, 1)]) (plain opLoopState (obj 0x18 1 1023) [4]), 0, 0, plain opLoopState (obj 0x18 1
     1023) [4],
    by unfold State.Inv State.Ready Cmd.Plain; decide +kernel⟩,
   ⟨has (put (dev .run) [(AX_AXIS_EN, 127, 1)]) (plain opLoopState (obj 0x19 1 127) [5]), 0, 0, plain opLoopState (obj 0x19 1
     127) [5],
    by unfold State.Inv State.Ready Cmd.Plain; decide +kernel⟩,
   ⟨has (put (dev .commission) [(LE_STAT_STATE, 1023, 2), (LE_TUNE_RULE, 1023, 5)]) (plain opAutotune (obj 0x18 1 1023) [1]), 0,
     0, plain opAutotune (obj 0x18 1 1023) [1],
    by unfold State.Inv State.Ready Cmd.Plain; decide +kernel⟩,
   ⟨has (looped (put (dev .commission) [(LE_STAT_STATE, 1023, 6)]) [(1023, { LoopSt.init with tune := some (tuneRun 5) })] [])
     (plain opAutotune (obj 0x18 1 1023) [2]), 0, 0, plain opAutotune (obj 0x18 1 1023) [2], tuneRun 5,
    by unfold State.Inv State.Ready Cmd.Plain; decide +kernel⟩,
   ⟨looped (put (dev .commission) [(LE_STAT_STATE, 1023, 6), (LE_TUNE_TMAX, 1023, 10)]) [(1023,
     { LoopSt.init with tune := some (tuneRun 792000000000) })] [], 1023, tuneRun 792000000000,
    by unfold State.Inv; decide +kernel⟩,
   ⟨has (put (dev .commission) [(AX_AXIS_EN, 127, 1), (AX_AXIS_VLOOP, 127, 1), (AX_STAT_STATE, 127, 1)]) (plain opTableCapture
     (obj 0x19 1 127) [0x3F800000]), 0, 0, plain opTableCapture (obj 0x19 1 127) [0x3F800000],
    by unfold State.Inv State.Ready Cmd.Plain; decide +kernel⟩,
   ⟨looped (has (put (dev .run) [(LE_STAT_SWAP_PEND, 1023, 1)])
     { plain opBankSwap (obj 0x18 1 1023) [1, 0] with phase := .started }) [(1023,
     { LoopSt.init with swap := some ⟨1, 999000000000, (0, 1), 0⟩ })] [], 1023, ⟨1, 999000000000, (0, 1), 0⟩,
     { plain opBankSwap (obj 0x18 1 1023) [1, 0] with phase := .started },
    by unfold State.Inv; decide +kernel⟩,
   ⟨looped (put (dev .run) [(LE_LOOP_EN, 1023, 1), (LE_STAT_STATE, 1023, 4)]) [(1023,
     { LoopSt.init with flying := true, at_ := 999999000000, out := 5, next := 6 })] [], 1023,
    by unfold State.Inv; decide +kernel⟩,
   ⟨looped (put (dev .run) [(AX_AXIS_EN, 127, 1)]) [] [(127, { AxisSt.init with flying := true, at_ := 999999000000 })], 127,
    by unfold State.Inv; decide +kernel⟩,
   ⟨looped (put (dev .run) [(LE_LOOP_EN, 1023, 1)]) [] [], 3,
    by unfold State.Inv; decide +kernel⟩⟩

/-- States and operands that meet the hypotheses of each clause. -/
theorem witness_LoopsAxesEncodersAndPwmAct :
    (∃ (s : State) (n : ℕ), s.Inv ∧ s.controlMapsOk = true ∧ n < 1024 ∧ s.leOn = true ∧ s.gridOk 10000 = true ∧ s.staged = [] ∧
      s.le.loopAt ≠ s.tai / 10000 + 1 ∧ s.loopsAt (s.tai / 10000 * 10000) = [n] ∧ s.flag LE_LOOP_EN n = true ∧ s.flag
      LE_LOOP_CTL_EN n = false ∧ (s.loop n).req = none ∧ s.loopState n = 1 ∧ (s.loop n).flying = false ∧ (s.loop n).goal = none)
      ∧
    (∃ (s : State) (n : ℕ), s.Inv ∧ s.controlMapsOk = true ∧ n < 1024 ∧ s.leOn = true ∧ s.gridOk 10000 = true ∧ s.staged = [] ∧
      s.le.loopAt ≠ s.tai / 10000 + 1 ∧ s.loopsAt (s.tai / 10000 * 10000) = [n] ∧ s.flag LE_LOOP_EN n = true ∧ s.flag
      LE_LOOP_CTL_EN n = false ∧ (s.loop n).req = none ∧ s.loopState n = 4 ∧ (s.loop n).flying = false ∧ (s.loop n).frozen =
      false ∧ (s.loop n).entry = false ∧ (s.loop n).absorb = none ∧ s.flag LE_LOOP_ACT n = false ∧ s.rd LE_LOOP_FE_LIMIT n = 0 ∧
      (s.loopIn n).bad = false ∧ (s.loopIn n).rBad = false ∧ (s.loopIn n).ffBad = false) ∧
    (∃ (s : State) (n : ℕ), s.Inv ∧ s.controlMapsOk = true ∧ n < 1024 ∧ s.leOn = true ∧ s.gridOk 10000 = true ∧ s.staged = [] ∧
      s.le.loopAt ≠ s.tai / 10000 + 1 ∧ s.loopsAt (s.tai / 10000 * 10000) = [n] ∧ s.flag LE_LOOP_EN n = true ∧ s.flag
      LE_LOOP_CTL_EN n = false ∧ (s.loop n).req = none ∧ s.loopState n = 1 ∧ (s.loop n).flying = true ∧ s.rd LE_LOOP_OUT_DST n /
      2 ^ 28 = 10) ∧
    (∃ (s : State) (n : ℕ), s.Inv ∧ s.controlMapsOk = true ∧ n < 128 ∧ s.leOn = true ∧ s.gridOk 10000 = true ∧ s.staged = [] ∧
      s.le.axisAt ≠ s.tai / 10000 + 1 ∧ s.axesAt (s.tai / 10000 * 10000) = [n] ∧ s.flag AX_AXIS_EN n = true ∧ natBit (s.rd
      AX_AXIS_CTL n) 31 = false ∧ (s.axis n).req = none ∧ (s.axis n).flying = false ∧ s.axisState n = 1 ∧ (s.axis n).cap = none
      ∧ (s.axisPos n).2 = true) ∧
    (∃ (s : State) (n : ℕ) (p : ℕ) (v : ℕ), s.Inv ∧ s.controlMapsOk = true ∧ n < 128 ∧ s.leOn = true ∧ s.gridOk 10000 = true ∧
      s.staged = [] ∧ s.le.axisAt ≠ s.tai / 10000 + 1 ∧ s.axesAt (s.tai / 10000 * 10000) = [n] ∧ s.flag AX_AXIS_EN n = true ∧
      natBit (s.rd AX_AXIS_CTL n) 31 = false ∧ (s.axis n).req = none ∧ (s.axis n).flying = false ∧ s.axisState n = 1 ∧ (s.axis
      n).cap = none ∧ (s.axisPos n).2 = false ∧ (s.axisPos n).1.pos = p ∧ s.axisVel n (s.axis n).pos p = (v, false) ∧ finite f64
      p = true ∧ finite f32 v = true ∧ (s.axis n).frozen = false ∧ s.rd AX_AXIS_FE_LIMIT n = 0 ∧ (s.axis n).target = toF64
      (s.ptType (s.rd AX_AXIS_TGT_PT n)) (s.ptRec (s.rd AX_AXIS_TGT_PT n)).raw) ∧
    (∃ (s : State) (e : ℕ), s.Inv ∧ e < 16 ∧ s.leOn = true ∧ s.var ≠ Variant.cpx9616 ∧ s.flag AX_ENC_EN e = true ∧ s.rd
      AX_ENC_MODE e ≠ 0) ∧
    (∃ (s : State) (e : ℕ) (a : Bool) (b : Bool), s.Inv ∧ e < 16 ∧ s.leOn = true ∧ s.var ≠ Variant.cpx9616 ∧ s.flag AX_ENC_EN e
      = true ∧ s.rd AX_ENC_MODE e = 0 ∧ (s.enc e).edgeAt = 0 ∧ (s.enc e).a ≠ a ∧ (s.enc e).b = b) ∧
    (∃ (s : State) (e : ℕ) (a : Bool) (b : Bool), s.Inv ∧ e < 16 ∧ s.leOn = true ∧ s.var ≠ Variant.cpx9616 ∧ s.flag AX_ENC_EN e
      = true ∧ s.rd AX_ENC_MODE e = 0 ∧ (s.enc e).edgeAt = 0 ∧ (s.enc e).a = a ∧ (s.enc e).b ≠ b) ∧
    (∃ (s : State) (e : ℕ) (a : Bool) (b : Bool), s.Inv ∧ e < 16 ∧ s.leOn = true ∧ s.var ≠ Variant.cpx9616 ∧ s.flag AX_ENC_EN e
      = true ∧ s.rd AX_ENC_MODE e = 0 ∧ (s.enc e).edgeAt = 0 ∧ (s.enc e).a ≠ a ∧ (s.enc e).b ≠ b) ∧
    (∃ (s : State) (e : ℕ) (z : Bool), s.Inv ∧ e < 16 ∧ s.leOn = true ∧ s.var ≠ Variant.cpx9616 ∧ s.flag AX_ENC_EN e = true ∧
      s.rd AX_ENC_MODE e = 0 ∧ (s.enc e).edgeAt = 0 ∧ (s.enc e).z = false ∧ z = true) ∧
    (∃ (s : State) (p : ℕ), s.Inv ∧ s.controlMapsOk = true ∧ p < 16 ∧ s.pwmOn p = true ∧ s.gridOk (s.rd AX_PWM_PERIOD p * 5 / 4)
      = true ∧ mget (fun _ => 0) s.le.pwmAt p ≠ s.tai * 4 / 5 / s.rd AX_PWM_PERIOD p + 1) :=
  ⟨⟨looped (put (dev .run) [(LE_LOOP_EN, 1023, 1), (LE_STAT_STATE, 1023, 1)]) [(1023, { LoopSt.init with sp := 7 })] [], 1023,
    by unfold State.Inv; decide +kernel⟩,
   ⟨looped (put (dev .run) [(LE_LOOP_EN, 1023, 1), (LE_STAT_STATE, 1023, 4)]) [(1023, { LoopSt.init with sp := 7 })] [], 1023,
    by unfold State.Inv; decide +kernel⟩,
   ⟨looped (put (dev .run) [(LE_LOOP_EN, 1023, 1), (LE_STAT_STATE, 1023, 1), (LE_LOOP_OUT_DST, 1023, 0xA000000F)]) [(1023,
     { LoopSt.init with flying := true, next := 0x3F000000, at_ := 999999000000 })] [], 1023,
    by unfold State.Inv; decide +kernel⟩,
   ⟨put (dev .run) [(AX_AXIS_EN, 127, 1), (AX_STAT_STATE, 127, 1), (AX_AXIS_FB_SRC, 127, 0x7000000F), (AX_ENC_LATE, 15, 1)],
     127,
    by unfold State.Inv; decide +kernel⟩,
   ⟨put (dev .run) [(AX_AXIS_EN, 127, 1), (AX_STAT_STATE, 127, 1), (AX_AXIS_FB_SRC, 127, 0x7000000F)], 127, 0, 0,
    by unfold State.Inv; decide +kernel⟩,
   ⟨put (dev .run) [(AX_ENC_EN, 15, 1), (AX_ENC_MODE, 15, 2)], 15,
    by unfold State.Inv; decide +kernel⟩,
   ⟨put (dev .run) [(AX_ENC_EN, 15, 1)], 15, true, false,
    by unfold State.Inv; decide +kernel⟩,
   ⟨put (dev .run) [(AX_ENC_EN, 15, 1)], 15, false, true,
    by unfold State.Inv; decide +kernel⟩,
   ⟨put (dev .run) [(AX_ENC_EN, 15, 1)], 15, true, true,
    by unfold State.Inv; decide +kernel⟩,
   ⟨put (dev .run) [(AX_ENC_EN, 15, 1)], 15, true,
    by unfold State.Inv; decide +kernel⟩,
   ⟨{ put (dev .run) [(AX_PWM_EN, 15, 1), (AX_PWM_PERIOD, 15, 8000)] with le := { LeSt.init with duty := [(15, 0x3F000000)] } },
     15,
    by unfold State.Inv; decide +kernel⟩⟩

/-- States and operands that meet the hypotheses of each clause. -/
theorem witness_MeasurementCommandsChangeOnlyTheirKinds :
    (∃ (i : Instr) (s : State), commandFamily i = Family.measurement ∧ s.Inv) :=
  ⟨Instr.sampleTimerEvent 3, dev .run,
    by unfold State.Inv; decide +kernel⟩

/-- States and operands that meet the hypotheses of each clause. -/
theorem witness_ModeCommandsFollowTheTransitionTable :
    (∃ (s : State) (ring : ℕ) (idx : ℕ) (c : Cmd), s.Inv ∧ s.Ready ring idx c ∧ c.Plain opModeRequest 4 ∧ c.len = 4 ∧ c.targetBad =
      false ∧ s.inMode modesTrain = true ∧ c.busy = false ∧ s.inTransition = false ∧ (c.target = Mode.commission ∨ s.mo.mode =
      Mode.commission → s.authorized c = true) ∧ c.target = s.mo.mode) ∧
    (∃ (s : State) (ring : ℕ) (idx : ℕ) (c : Cmd), s.Inv ∧ s.Ready ring idx c ∧ c.Plain opModeRequest 4 ∧ c.len = 4 ∧
      c.targetBad = false ∧ s.inMode modesTrain = true ∧ c.busy = false ∧ s.inTransition = false ∧ (c.target = Mode.commission ∨
      s.mo.mode = Mode.commission → s.authorized c = true) ∧ c.target = Mode.safe ∧ (s.mo.mode = Mode.train ∨ s.mo.mode =
      Mode.commission ∨ s.mo.mode = Mode.run)) ∧
    (∃ (s : State) (ring : ℕ) (idx : ℕ) (c : Cmd), s.Inv ∧ s.Ready ring idx c ∧ c.Plain opModeRequest 4 ∧ c.len = 4 ∧
      c.targetBad = false ∧ s.inMode modesTrain = true ∧ c.busy = false ∧ s.inTransition = false ∧ (c.target = Mode.commission ∨
      s.mo.mode = Mode.commission → s.authorized c = true) ∧ c.target = Mode.sentinel ∧ s.sentAllowed = true) ∧
    (∃ (s : State) (ring : ℕ) (idx : ℕ) (c : Cmd), s.Inv ∧ s.Ready ring idx c ∧ c.Plain opModeRequest 4 ∧ c.len = 4 ∧
      c.targetBad = false ∧ s.inMode modesTrain = true ∧ c.busy = false ∧ s.inTransition = false ∧ (c.target = Mode.commission ∨
      s.mo.mode = Mode.commission → s.authorized c = true) ∧ c.target = Mode.commission ∧ s.mo.mode = Mode.run ∧ s.cyclesOpen =
      false ∧ s.findCmd c.ring c.order = some c) ∧
    (∃ (s : State) (ring : ℕ) (idx : ℕ) (c : Cmd), s.Inv ∧ s.Ready ring idx c ∧ c.Plain opModeRequest 4 ∧ c.len = 4 ∧
      c.targetBad = false ∧ s.inMode modesTrain = true ∧ c.busy = false ∧ s.inTransition = false ∧ (c.target = Mode.commission ∨
      s.mo.mode = Mode.commission → s.authorized c = true) ∧ c.target = Mode.commission ∧ s.mo.mode = Mode.run ∧ s.cyclesOpen =
      true) ∧
    (∃ (s : State) (ring : ℕ) (idx : ℕ) (c : Cmd), s.Inv ∧ s.Ready ring idx c ∧ c.Plain opModeRequest 4 ∧ c.len = 4 ∧
      c.targetBad = false ∧ s.inMode modesTrain = true ∧ c.busy = false ∧ s.inTransition = false ∧ (c.target = Mode.commission ∨
      s.mo.mode = Mode.commission → s.authorized c = true) ∧ c.target = Mode.run ∧ s.mo.mode = Mode.commission ∧ s.boundByR34 =
      false ∧ s.cyclesOpen = false) ∧
    (∃ (s : State) (ring : ℕ) (idx : ℕ) (c : Cmd), s.Inv ∧ s.Ready ring idx c ∧ c.Plain opModeRequest 4 ∧ c.len = 4 ∧
      c.targetBad = false ∧ s.inMode modesTrain = true ∧ c.busy = false ∧ s.inTransition = false ∧ (c.target = Mode.commission ∨
      s.mo.mode = Mode.commission → s.authorized c = true) ∧ c.target ≠ s.mo.mode ∧ (c.target = Mode.boot ∨ c.target =
      Mode.train ∨ c.target = Mode.letMode ∨ c.target = Mode.keeper)) ∧
    (∃ (s : State) (ring : ℕ) (idx : ℕ) (c : Cmd), s.Inv ∧ s.Ready ring idx c ∧ c.Plain opSafeExit 4 ∧ c.len = 4 ∧ c.targetBad =
      false ∧ (c.target = Mode.commission ∨ c.target = Mode.run) ∧ s.authorized c = true ∧ s.mo.mode = Mode.safe ∧ c.busy =
      false ∧ s.safeHolds = false ∧ (c.target = Mode.run → s.boundByR34 = false) ∧ s.mo.pend = none ∧ s.mo.pendCmd = none) :=
  ⟨⟨has (dev .run) (plain opModeRequest 0 [4]), 0, 0, plain opModeRequest 0 [4],
    by unfold State.Inv State.Ready Cmd.Plain; decide +kernel⟩,
   ⟨has (dev .run) (plain opModeRequest 0 [7]), 0, 0, plain opModeRequest 0 [7],
    by unfold State.Inv State.Ready Cmd.Plain; decide +kernel⟩,
   ⟨has (put (dev .run) [(MB_MODECFG_SENT_EN, 0, 1)]) (plain opModeRequest 0 [5]), 0, 0, plain opModeRequest 0 [5],
    by unfold State.Inv State.Ready Cmd.Plain; decide +kernel⟩,
   ⟨has (dev .run) (plain opModeRequest 0 [3]), 0, 0, plain opModeRequest 0 [3],
    by unfold State.Inv State.Ready Cmd.Plain; decide +kernel⟩,
   ⟨has (logic [0] [] [(63, { LgTask.init with open_ := some (openCycle .done) })]) (plain opModeRequest 0 [3]), 0, 0, plain
     opModeRequest 0 [3],
    by unfold State.Inv State.Ready Cmd.Plain; decide +kernel⟩,
   ⟨has (dev .commission) (plain opModeRequest 0 [4]), 0, 0, plain opModeRequest 0 [4],
    by unfold State.Inv State.Ready Cmd.Plain; decide +kernel⟩,
   ⟨has (dev .run) (plain opModeRequest 0 [2]), 0, 0, plain opModeRequest 0 [2],
    by unfold State.Inv State.Ready Cmd.Plain; decide +kernel⟩,
   ⟨has (dev .safe) (plain opSafeExit 0 [3]), 0, 0, plain opSafeExit 0 [3],
    by unfold State.Inv State.Ready Cmd.Plain; decide +kernel⟩⟩

/-- States and operands that meet the hypotheses of each clause. -/
theorem witness_NopCompletesAndDescribeNamesTheObject :
    (∃ (s : State) (ring : ℕ) (idx : ℕ) (c : Cmd), s.Inv ∧ s.Ready ring idx c ∧ c.Plain opNop 0 ∧ s.inMode modesAll = true) ∧
    (∃ (s : State) (ring : ℕ) (idx : ℕ) (c : Cmd) (o : ObjSpec), s.Inv ∧ s.Ready ring idx c ∧ c.Plain opDescribe 0 ∧ s.inMode
      modesAll = true ∧ findObj (objUnit c.objid) (objGrp c.objid) = some o ∧ o.full (objInst c.objid) = true ∧ s.objAbsent
      (objUnit c.objid) (objGrp c.objid) (objInst c.objid) = false) :=
  ⟨⟨has (dev .boot) (plain opNop 0x01000000 []), 0, 0, plain opNop 0x01000000 [],
    by unfold State.Inv State.Ready Cmd.Plain; decide +kernel⟩,
   ⟨has (dev .boot) (plain opDescribe (obj 0x31 1 0) []), 0, 0, plain opDescribe (obj 0x31 1 0) [], (findObj 0x31 1).getD
     ⟨0,0,0,0,0,0,0,0,0,[]⟩,
    by unfold State.Inv State.Ready Cmd.Plain; decide +kernel⟩⟩

/-- States and operands that meet the hypotheses of each clause. -/
theorem witness_NotifyRouteSetsTheRouteOfACode :
    (∃ (s : State) (ring : ℕ) (idx : ℕ) (c : Cmd), s.Inv ∧ s.Ready ring idx c ∧ c.Plain opNotifyRoute 4 ∧ s.inMode modesAll = true ∧
      objUnit c.objid ∈ unitIds ∧ c.objid % 2 ^ 24 = 0 ∧ (c.par 0).get 15 6 = 0 ∧ s.unitAbsent (objUnit c.objid) = false) :=
  ⟨has (dev .boot) (plain opNotifyRoute 0x50000000 [0x48020003]), 0, 0, plain opNotifyRoute 0x50000000 [0x48020003],
    by unfold State.Inv State.Ready Cmd.Plain; decide +kernel⟩

/-- States and operands that meet the hypotheses of each clause. -/
theorem witness_ObjReadReturnsTheWordsAsked :
    (∃ (s : State) (ring : ℕ) (idx : ℕ) (c : Cmd) (o : ObjSpec), s.Inv ∧ s.Ready ring idx c ∧ s.inMode modesAll = true ∧ findObj
      (objUnit c.objid) (objGrp c.objid) = some o ∧ o.full (objInst c.objid) = true ∧ s.objAbsent (objUnit c.objid) (objGrp
      c.objid) (objInst c.objid) = false ∧ 1 ≤ c.count ∧ c.first + c.count ≤ o.nwords ∧ c.Plain opRead 4 ∧ c.count ≤ 4) ∧
    (∃ (s : State) (ring : ℕ) (idx : ℕ) (dmaOk : Bool) (c : Cmd) (o : ObjSpec), s.Inv ∧ s.Ready ring idx c ∧ s.inMode modesAll =
      true ∧ findObj (objUnit c.objid) (objGrp c.objid) = some o ∧ o.full (objInst c.objid) = true ∧ s.objAbsent (objUnit
      c.objid) (objGrp c.objid) (objInst c.objid) = false ∧ 1 ≤ c.count ∧ c.first + c.count ≤ o.nwords ∧ c.WithBuffer opRead 1 4
      ∧ 4 * c.count ≤ c.bufLen ∧ dmaOk = true ∧ s.bufReach c = true) :=
  ⟨⟨has (put (dev .run) [(EN_GOOSE_EN, 0, 1)]) (plain opRead (obj 0x42 2 0) [2]), 0, 0, plain opRead (obj 0x42 2 0) [2],
     EN_GOOSE_obj,
    by unfold State.Inv State.Ready Cmd.Plain; decide +kernel⟩,
   ⟨has (put (dev .run) [(EN_GOOSE_EN, 0, 1)]) (buffered opRead (obj 0x42 2 0) 1 64 [3]), 0, 0, true, buffered opRead (obj 0x42
     2 0) 1 64 [3], EN_GOOSE_obj,
    by unfold State.Inv State.Ready Cmd.WithBuffer; decide +kernel⟩⟩

/-- States and operands that meet the hypotheses of each clause. -/
theorem witness_ObjWriteAndModifyWriteTheWordsNamed :
    (∃ (s : State) (ring : ℕ) (idx : ℕ) (buf : Option (List W32)) (c : Cmd) (o : ObjSpec), s.Inv ∧ s.Ready ring idx c ∧ c.Plain
      opWrite (4 + 4 * c.count) ∧ c.count ≤ 11 ∧ c.wordsFit = true ∧ objUnit c.objid ∈ plainUnits ∧ findObj (objUnit c.objid)
      (objGrp c.objid) = some o ∧ c.words.length = 16 ∧ s.verdict c (s.writeChecks c true (c.writeReq buf) none) = none) ∧
    (∃ (s : State) (ring : ℕ) (idx : ℕ) (c : Cmd) (o : ObjSpec), s.Inv ∧ s.Ready ring idx c ∧ c.Plain opModify 12 ∧ c.count = 1
      ∧ c.wordsFit = true ∧ objUnit c.objid ∈ plainUnits ∧ findObj (objUnit c.objid) (objGrp c.objid) = some o ∧ s.verdict c
      (s.writeChecks c true c.modifyReq none) = none) :=
  ⟨⟨has (dev .run) (plain opWrite (obj 0x42 2 0) [2, 1, 0x03E80003]), 0, 0, none, plain opWrite (obj 0x42 2 0) [2, 1, 0x03E80003],
     EN_GOOSE_obj,
    by unfold State.Inv State.Ready Cmd.Plain; decide +kernel⟩,
   ⟨has (dev .run) (plain opModify (obj 0x42 2 0) [1, 1, 1]), 0, 0, plain opModify (obj 0x42 2 0) [1, 1, 1], EN_GOOSE_obj,
    by unfold State.Inv State.Ready Cmd.Plain; decide +kernel⟩⟩

/-- States and operands that meet the hypotheses of each clause. -/
theorem witness_OneWayCountersNeverFall :
    (∃ (s : State) (t : State), s.Inv ∧ step s = Host.Outcome.next t) :=
  ⟨{ put (dev .run) [(EN_GOOSE_EN, 0, 1)] with pending := [.nop 0 0] }, put (dev .run) [(EN_GOOSE_EN, 0, 1)],
    by unfold State.Inv; exact ⟨by decide +kernel, next_of_test _ _ (by decide +kernel)⟩⟩

/-- States and operands that meet the hypotheses of each clause. -/
theorem witness_PointCommandsChangeOnlyTheirKinds :
    (∃ (i : Instr) (s : State), commandFamily i = Family.points ∧ s.Inv) :=
  ⟨Instr.pointRead 0 0 true none, dev .run,
    by unfold State.Inv; decide +kernel⟩

/-- States and operands that meet the hypotheses of each clause. -/
theorem witness_PointCommandsForcesAndRemoteTrafficAct :
    (∃ (s : State) (ring : ℕ) (idx : ℕ) (c : Cmd) (d : PtDef), s.Inv ∧ s.Ready ring idx c ∧ s.inMode modesTrain = true ∧ c.objid =
      pdObj ∧ c.remote = false ∧ c.p0Bad = false ∧ (c.par 1).get 31 23 = 0 ∧ s.ptDef c.ptIndex = some d ∧ c.Plain opPointRead 8)
      ∧
    (∃ (s : State) (ring : ℕ) (idx : ℕ) (c : Cmd) (d : PtDef) (b : SdBeat) (a : Bool), s.Inv ∧ s.Ready ring idx c ∧ s.inMode
      modesTrain = true ∧ c.objid = pdObj ∧ c.remote = false ∧ c.p0Bad = false ∧ (c.par 1).get 31 23 = 0 ∧ s.ptDef c.ptIndex =
      some d ∧ c.Plain opPointRead 8 ∧ sdRead b = SdVerdict.uncorrectable a ∧ s.ptPinned c.ptIndex = false) ∧
    (∃ (s : State) (ring : ℕ) (idx : ℕ) (c : Cmd) (d : PtDef), s.Inv ∧ s.Ready ring idx c ∧ s.inMode modesTrain = true ∧ c.objid
      = pdObj ∧ c.remote = false ∧ c.p0Bad = false ∧ (c.par 1).get 31 23 = 0 ∧ s.ptDef c.ptIndex = some d ∧ c.Plain opPointWrite
      16 ∧ d.bind ≠ 7 ∧ rawOk d.type c.rawPar = true) ∧
    (∃ (s : State) (ring : ℕ) (idx : ℕ) (c : Cmd) (d : PtDef), s.Inv ∧ s.pointMapsOk = true ∧ s.Ready ring idx c ∧ s.authorized
      c = true ∧ s.inMode modesC = true ∧ c.objid = pdObj ∧ c.remote = false ∧ c.p0Bad = false ∧ (c.par 1).get 31 23 = 0 ∧
      s.ptDef c.ptIndex = some d ∧ c.Plain opForceSet 16 ∧ s.forceBad c.ptIndex c.rawPar = false ∧ s.forceRefused c.ptIndex =
      none ∧ (d.bind = 0 ∨ d.bind = 8 ∨ d.bind = 9)) ∧
    (∃ (s : State) (ring : ℕ) (idx : ℕ) (c : Cmd) (d : PtDef), s.Inv ∧ s.pointMapsOk = true ∧ s.Ready ring idx c ∧ s.authorized
      c = true ∧ s.inMode modesC = true ∧ c.objid = pdObj ∧ c.remote = false ∧ c.p0Bad = false ∧ (c.par 1).get 31 23 = 0 ∧
      s.ptDef c.ptIndex = some d ∧ c.Plain opForceSet 16 ∧ s.forceBad c.ptIndex c.rawPar = false ∧ s.forceRefused c.ptIndex =
      none ∧ (d.bind = 1 ∨ d.bind = 2 ∨ d.bind = 6)) ∧
    (∃ (s : State) (ring : ℕ) (idx : ℕ) (c : Cmd) (d : PtDef), s.Inv ∧ s.pointMapsOk = true ∧ s.Ready ring idx c ∧ s.authorized
      c = true ∧ s.inMode modesC = true ∧ c.objid = pdObj ∧ c.remote = false ∧ c.p0Bad = false ∧ (c.par 1).get 31 23 = 0 ∧
      s.ptDef c.ptIndex = some d ∧ c.Plain opForceClear 8 ∧ BitVec.toNat (c.par 0) = 0 ∧ c.ptIndex ∉ s.forced) ∧
    (∃ (s : State) (ring : ℕ) (idx : ℕ) (c : Cmd) (d : PtDef), s.Inv ∧ s.pointMapsOk = true ∧ s.Ready ring idx c ∧ s.authorized
      c = true ∧ s.inMode modesC = true ∧ c.objid = pdObj ∧ c.remote = false ∧ c.p0Bad = false ∧ (c.par 1).get 31 23 = 0 ∧
      s.ptDef c.ptIndex = some d ∧ c.Plain opForceClear 8 ∧ BitVec.toNat (c.par 0) = 0 ∧ c.ptIndex ∈ s.forced) ∧
    (∃ (s : State) (ring : ℕ) (idx : ℕ) (c : Cmd) (n : ℕ), s.Inv ∧ s.pointMapsOk = true ∧ s.Ready ring idx c ∧ s.authorized c =
      true ∧ s.inMode modesC = true ∧ objUnit c.objid = 56 ∧ objGrp c.objid = 16 ∧ objInst c.objid = n ∧ n < 48 ∧ c.Plain
      opForceSet 4 ∧ BitVec.toNat (c.par 0) ≤ 1) ∧
    (∃ (s : State) (ring : ℕ) (idx : ℕ) (c : Cmd) (n : ℕ), s.Inv ∧ s.pointMapsOk = true ∧ s.Ready ring idx c ∧ s.authorized c =
      true ∧ s.inMode modesC = true ∧ objUnit c.objid = 56 ∧ objGrp c.objid = 16 ∧ objInst c.objid = n ∧ n < 48 ∧ c.Plain
      opForceClear 0 ∧ s.diForce n ≠ none) ∧
    (∃ (s : State) (ring : ℕ) (idx : ℕ) (c : Cmd) (n : ℕ), s.Inv ∧ s.pointMapsOk = true ∧ s.Ready ring idx c ∧ s.authorized c =
      true ∧ s.inMode modesC = true ∧ objUnit c.objid = 56 ∧ objGrp c.objid = 16 ∧ objInst c.objid = n ∧ n < 48 ∧ c.Plain
      opForceClear 0 ∧ s.diForce n = none) ∧
    (∃ (s : State) (k : ℕ) (i : ℕ) (d : PtDef), s.Inv ∧ s.pointMapsOk = true ∧ s.scanOn = true ∧ k < 16 ∧ s.gridOk (scanPeriod
      (s.rd PD_SCAN_PERIOD k)) = true ∧ mget (fun _ => 0) s.pd.scanAt k ≠ s.tai / scanPeriod (s.rd PD_SCAN_PERIOD k) + 1 ∧
      s.ptsOf 1 = [(i, d)] ∧ s.ptsOf 2 = [] ∧ s.ptDef i = some d ∧ d.bind = 1 ∧ d.scan = k ∧ mget (fun _ => none) s.pd.forces i
      = none ∧ s.pd.scanFrom ≤ s.elapsedAt (s.scanBound k) ∧ s.pd.scanned = [] ∧ s.elapsed < s.elapsedAt (s.scanBound k + 5002))
      ∧
    (∃ (s : State) (k : ℕ) (i : ℕ) (d : PtDef), s.Inv ∧ s.pointMapsOk = true ∧ s.scanOn = true ∧ k < 16 ∧ s.gridOk (scanPeriod
      (s.rd PD_SCAN_PERIOD k)) = true ∧ mget (fun _ => 0) s.pd.scanAt k ≠ s.tai / scanPeriod (s.rd PD_SCAN_PERIOD k) + 1 ∧
      s.ptsOf 1 = [(i, d)] ∧ s.ptsOf 2 = [] ∧ s.ptDef i = some d ∧ d.bind = 1 ∧ d.scan = k ∧ mget (fun _ => none) s.pd.forces i
      = none ∧ s.pd.scanFrom ≤ s.elapsedAt (s.scanBound k) ∧ s.pd.scanned = [] ∧ s.elapsedAt (s.scanBound k + 5002) ≤ s.elapsed)
      ∧
    (∃ (s : State) (src : ℕ) (i : ℕ) (d : PtDef) (r : PtRec), s.Inv ∧ s.pointMapsOk = true ∧ s.umOn = true ∧ s.ptsOf 7 = [(i,
      d)] ∧ s.ptDef i = some d ∧ d.bind = 7 ∧ d.op2 = src ∧ d.op < 2 ^ 23 ∧ r.raw < 2 ^ 64 ∧ r.owner < 256 ∧ r.qual < 2 ^ 16 ∧
      r.ctime < 2 ^ 32) ∧
    (∃ (s : State) (i : ℕ) (d : PtDef), s.Inv ∧ s.pointMapsOk = true ∧ s.umOn = true ∧ s.ptsOf 7 = [(i, d)] ∧ s.ptDef i = some d
      ∧ d.bind = 7 ∧ (s.mirror i).stale = false ∧ (s.mirror i).asleep = false ∧ (s.mirror i).rx + (2 * scanPeriod (s.rd
      PD_SCAN_PERIOD d.scan) + 2000000) * 4 / 5 ≤ s.elapsed) ∧
    (∃ (s : State) (r : RemReq) (c : Cmd) (words : List W32), s.Inv ∧ s.umOn = true ∧ s.pd.reqs = [r] ∧ r.cmd = some c.ref ∧
      r.read = true ∧ c.buf = false ∧ s.findCmd c.ring c.order = some c ∧ c.undecided = true ∧ words.length = 8 ∧ BitVec.toNat
      (words.getD 0 0) = r.tag ∧ BitVec.toNat (words.getD 1 0) = 0) ∧
    (∃ (s : State) (r : RemReq) (c : Cmd), s.Inv ∧ s.umOn = true ∧ s.pd.reqs = [r] ∧ r.cmd = some c.ref ∧ r.read = true ∧ c.buf
      = false ∧ s.findCmd c.ring c.order = some c ∧ c.undecided = true ∧ r.time + usUnits 50000 ≤ s.elapsed) ∧
    (∃ (s : State) (w : W32), s.Inv ∧ s.umOn = true ∧ w.get 31 31 = 1) ∧
    (∃ (s : State) (w : W32), s.Inv ∧ s.umOn = true ∧ w.get 31 31 = 0 ∧ s.pd.subs.length < 262144) ∧
    (∃ (s : State) (g : W32) (w : W32), s.Inv ∧ s.umOn = true ∧ g ≠ 0 ∧ w.get 31 30 = 0) ∧
    (∃ (s : State) (g : W32) (w : W32) (lo : W32) (hi : W32) (d : PtDef), s.Inv ∧ s.umOn = true ∧ g ≠ 0 ∧ w.get 31 30 = 1 ∧
      s.ptDef (w.get 22 0) = some d ∧ d.bind ≠ 7 ∧ rawOk d.type (BitVec.toNat lo + BitVec.toNat hi * 2 ^ 32) = true ∧ s.flag
      UM_CFG_PANEL_EN 0 = false) ∧
    (∃ (s : State) (k : ℕ) (x : SubSt), s.Inv ∧ s.umOn = true ∧ k < 16 ∧ mget (fun _ => 0) s.pd.originAt k ≠ s.tai / scanPeriod
      k + 1 ∧ s.pd.subs = [x] ∧ x.period = k) :=
  ⟨⟨{ has (dev .run) (plain opPointRead 0x22000000 [0, 5]) with pd := { PdSt.init with defs := [(5, some (ptOf 0 0 0 0))] } }, 0,
     0, plain opPointRead 0x22000000 [0, 5], ptOf 0 0 0 0,
    by unfold State.Inv State.Ready Cmd.Plain; decide +kernel⟩,
   ⟨{ has (dev .run) (plain opPointRead 0x22000000 [0, 5]) with pd := { PdSt.init with defs := [(5, some (ptOf 0 0 0 0))] } },
     0, 0, plain opPointRead 0x22000000 [0, 5], ptOf 0 0 0 0, ⟨128, (sdWrite 64 0x123).syms⟩, true,
    by unfold State.Inv State.Ready Cmd.Plain; decide +kernel⟩,
   ⟨{ has (dev .run) (plain opPointWrite 0x22000000 [0, 5, 1, 0]) with pd := { PdSt.init with defs := [(5, some (ptOf 0 0 0 0))] } },
     0, 0, plain opPointWrite 0x22000000 [0, 5, 1, 0], ptOf 0 0 0 0,
    by unfold State.Inv State.Ready Cmd.Plain; decide +kernel⟩,
   ⟨{ has (dev .commission) (plain opForceSet 0x22000000 [0, 5, 1, 0]) with pd := { PdSt.init with defs := [(5, some (ptOf 0 0 0 0))] } },
     0, 0, plain opForceSet 0x22000000 [0, 5, 1, 0], ptOf 0 0 0 0,
    by unfold State.Inv State.Ready Cmd.Plain; decide +kernel⟩,
   ⟨{ has (dev .commission) (plain opForceSet 0x22000000 [0, 5, 1, 0]) with pd := { PdSt.init with defs := [(5, some (ptOf 0 1 0 0))] } },
     0, 0, plain opForceSet 0x22000000 [0, 5, 1, 0], ptOf 0 1 0 0,
    by unfold State.Inv State.Ready Cmd.Plain; decide +kernel⟩,
   ⟨{ has (dev .commission) (plain opForceClear 0x22000000 [0, 5]) with pd := { PdSt.init with defs := [(5, some (ptOf 0 1 0 0))] } },
     0, 0, plain opForceClear 0x22000000 [0, 5], ptOf 0 1 0 0,
    by unfold State.Inv State.Ready Cmd.Plain; decide +kernel⟩,
   ⟨{ has (dev .commission) (plain opForceClear 0x22000000 [0, 5]) with pd := { PdSt.init with defs := [(5, some (ptOf 0 1 0 0))], forces := [(5, some 1)] } },
     0, 0, plain opForceClear 0x22000000 [0, 5], ptOf 0 1 0 0,
    by unfold State.Inv State.Ready Cmd.Plain; decide +kernel⟩,
   ⟨has (dev .commission) (plain opForceSet (obj 0x38 16 47) [1]), 0, 0, plain opForceSet (obj 0x38 16 47) [1], 47,
    by unfold State.Inv State.Ready Cmd.Plain; decide +kernel⟩,
   ⟨has { put (dev .commission) [(FD_DI_FORCED, 47, 1)] with fd := { FdSt.init0 with forceDi := [(47, some true)] } } (plain
     opForceClear (obj 0x38 16 47) []), 0, 0, plain opForceClear (obj 0x38 16 47) [], 47,
    by unfold State.Inv State.Ready Cmd.Plain; decide +kernel⟩,
   ⟨has (dev .commission) (plain opForceClear (obj 0x38 16 47) []), 0, 0, plain opForceClear (obj 0x38 16 47) [], 47,
    by unfold State.Inv State.Ready Cmd.Plain; decide +kernel⟩,
   ⟨{ put (dev .run) [(PD_SCAN_PERIOD, 15, 3)] with pd := { PdSt.init with defs := [(5, some (ptOf 0 1 15 0))] } }, 15, 5, ptOf
     0 1 15 0,
    by unfold State.Inv; decide +kernel⟩,
   ⟨timed { put (dev .run) [(PD_SCAN_PERIOD, 15, 3)] with pd := { PdSt.init with defs := [(5, some (ptOf 0 1 15 0))] } } (fun t
     => { t with ns := 6000 }), 15, 5, ptOf 0 1 15 0,
    by unfold State.Inv; decide +kernel⟩,
   ⟨{ dev .run with pd := { PdSt.init with defs := [(5, some { ptOf 0 7 0 9 with op2 := 77 })] } }, 77, 5,
     { ptOf 0 7 0 9 with op2 := 77 }, { PtRec.zero with raw := 1, owner := 3 },
    by unfold State.Inv; decide +kernel⟩,
   ⟨{ dev .run with pd := { PdSt.init with defs := [(5, some { ptOf 0 7 0 9 with op2 := 77 })] } }, 5,
     { ptOf 0 7 0 9 with op2 := 77 },
    by unfold State.Inv; decide +kernel⟩,
   ⟨{ has (dev .run) { plain opPointRead 0x22000000 [77 * 65536, 5] with phase := .started } with pd := { PdSt.init with reqs := [⟨1, 77, 799999200000, some (0, 1), 0, true⟩] } },
     ⟨1, 77, 799999200000, some (0, 1), 0, true⟩, { plain opPointRead 0x22000000 [77 * 65536, 5] with phase := .started }, w32s
     [1, 0, 0, 0, 1, 0, 0, 0],
    by unfold State.Inv; decide +kernel⟩,
   ⟨{ has (dev .run) { plain opPointRead 0x22000000 [77 * 65536, 5] with phase := .started } with pd := { PdSt.init with reqs := [⟨1, 77, 700000000000, some (0, 1), 0, true⟩] } },
     ⟨1, 77, 700000000000, some (0, 1), 0, true⟩, { plain opPointRead 0x22000000 [77 * 65536, 5] with phase := .started },
    by unfold State.Inv; decide +kernel⟩,
   ⟨{ dev .run with pd := { PdSt.init with subs := [⟨77, 5, 1, 0, []⟩] } }, 0x80000005,
    by unfold State.Inv; decide +kernel⟩,
   ⟨{ dev .run with pd := { PdSt.init with subs := [⟨77, 5, 1, 0, []⟩] } }, 0x78000005,
    by unfold State.Inv; decide +kernel⟩,
   ⟨dev .run, 9, 5,
    by unfold State.Inv; decide +kernel⟩,
   ⟨{ dev .run with pd := { PdSt.init with defs := [(5, some (ptOf 0 0 0 0))] } }, 9, 0x40000005, 1, 0, ptOf 0 0 0 0,
    by unfold State.Inv; decide +kernel⟩,
   ⟨{ dev .run with pd := { PdSt.init with subs := [⟨77, 5, 15, 0, []⟩] } }, 15, ⟨77, 5, 15, 0, []⟩,
    by unfold State.Inv; decide +kernel⟩⟩

/-- States and operands that meet the hypotheses of each clause. -/
theorem witness_PowerAndResetEventsAct :
    (∃ (s : State), s.Inv ∧ s.mo.vddKeep = false) ∧
    (∃ (s : State), s.Inv) ∧
    (∃ (s : State), s.Inv ∧ s.mo.resetN = true ∧ s.mo.mode ≠ Mode.keeper) ∧
    (∃ (s : State), s.Inv ∧ s.mo.mode ≠ Mode.keeper) ∧
    (∃ (s : State), s.Inv ∧ s.mo.resetN = false ∧ s.mo.vddKeep = true) :=
  ⟨⟨moded (dev .run) (fun m => { m with vddKeep := false }),
    by unfold State.Inv; decide +kernel⟩,
   ⟨dev .run,
    by unfold State.Inv; decide +kernel⟩,
   ⟨dev .run,
    by unfold State.Inv; decide +kernel⟩,
   ⟨dev .run,
    by unfold State.Inv; decide +kernel⟩,
   ⟨moded (dev .boot) (fun m => { m with resetN := false, boot := .resetLow }),
    by unfold State.Inv; decide +kernel⟩⟩

/-- States and operands that meet the hypotheses of each clause. -/
theorem witness_PowerCommandsChangeOnlyTheirKinds :
    (∃ (i : Instr) (s : State), commandFamily i = Family.power ∧ s.Inv) :=
  ⟨Instr.trainExit, dev .run,
    by unfold State.Inv; decide +kernel⟩

/-- States and operands that meet the hypotheses of each clause. -/
theorem witness_ProtectionCommandsChangeOnlyTheirKinds :
    (∃ (i : Instr) (s : State), commandFamily i = Family.protection ∧ s.Inv) :=
  ⟨Instr.latchReset 0, dev .run,
    by unfold State.Inv; decide +kernel⟩

/-- States and operands that meet the hypotheses of each clause. -/
theorem witness_ProtectionSettingsWaitForThePass :
    (∃ (s : State) (ring : ℕ) (idx : ℕ) (buf : Option (List W32)) (c : Cmd), s.Inv ∧ s.Ready ring idx c ∧ c.Plain opWrite (4 + 4 *
      c.count) ∧ c.count ≤ 11 ∧ c.wordsFit = true ∧ s.protOn = true ∧ s.mo.boot = BootStep.done ∧ protUnit (objUnit c.objid) =
      true ∧ s.verdict c (s.writeChecks c true (c.writeReq buf) none) = none) ∧
    (∃ (s : State) (ring : ℕ) (idx : ℕ) (c : Cmd), s.Inv ∧ s.Ready ring idx c ∧ c.Plain opModify 12 ∧ c.count = 1 ∧ c.wordsFit =
      true ∧ s.protOn = true ∧ s.mo.boot = BootStep.done ∧ protUnit (objUnit c.objid) = true ∧ s.verdict c (s.writeChecks c true
      c.modifyReq none) = none) :=
  ⟨⟨has (dev .run) (plain opWrite (obj 0x11 1 31) [1 * 65536 + 1, 100]), 0, 0, none, plain opWrite (obj 0x11 1 31) [1 * 65536 + 1,
     100],
    by unfold State.Inv State.Ready Cmd.Plain; decide +kernel⟩,
   ⟨has (dev .run) (plain opModify (obj 0x11 1 31) [1 * 65536 + 1, 255, 100]), 0, 0, plain opModify (obj 0x11 1 31) [1 * 65536 +
     1, 255, 100],
    by unfold State.Inv State.Ready Cmd.Plain; decide +kernel⟩⟩

/-- States and operands that meet the hypotheses of each clause. -/
theorem witness_RecipesLoadStartAndTick :
    (∃ (s : State) (ring : ℕ) (idx : ℕ) (ws : List W32) (c : Cmd), s.Inv ∧ s.pointMapsOk = true ∧ s.Ready ring idx c ∧ c.WithBuffer
      opRecipeCtl 0 12 ∧ c.rpOpOf = 1 ∧ c.objid = rpStepsObj ∧ (c.par 0).get 31 4 = 0 ∧ (c.par 1).get 31 20 = 0 ∧ c.bufLen % 32
      = 0 ∧ 32 ≤ c.bufLen ∧ s.bufReach c = true ∧ ws.length = c.bufLen / 4 ∧ (c.par 1).get 19 0 + c.bufLen / 32 ≤ 1048576 ∧
      s.inMode modesCr = true ∧ crc32c ws = BitVec.toNat (c.par 2) ∧ stepsBad s (stepsOf ws (c.bufLen / 32)) = none ∧ s.rpHolds
      ((c.par 1).get 19 0) (c.bufLen / 32) = false) ∧
    (∃ (s : State) (ring : ℕ) (idx : ℕ) (c : Cmd) (op : ℕ) (i : Instr), s.Inv ∧ s.Ready ring idx c ∧ c.Plain opRecipeCtl 8 ∧
      (op, i) ∈ [(2, Instr.recipeStart ring idx), (3, Instr.recipeHold ring idx), (4, Instr.recipeResume ring idx), (5,
      Instr.recipeCancel ring idx)] ∧ c.rpOpOf = op ∧ objUnit c.objid = 35 ∧ objGrp c.objid = 1 ∧ objInst c.objid < 64 ∧ (c.par
      0).get 31 4 = 0 ∧ (c.par 1).get 31 20 = 0 ∧ s.inMode modesCr = true ∧ rpOp op 0 (s.lane (objInst c.objid)) ≠ none) ∧
    (∃ (s : State) (n : ℕ) (c : Cmd) (step : ℕ) (nb : ℕ), s.Inv ∧ s.pointMapsOk = true ∧ n < 64 ∧ s.rpOn = true ∧ s.gridOk
      (s.rpPeriod n) = true ∧ (s.lane n).tickAt ≠ s.tai / s.rpPeriod n + 1 ∧ s.rp.ticksFrom ≤ s.elapsedAt (s.tai / s.rpPeriod n
      * s.rpPeriod n) ∧ (s.lane n).reqs = [{ op := 2, step := step, cmd := c.ref, notBefore := nb }] ∧ nb ≤ s.tai / s.rpPeriod n
      * s.rpPeriod n ∧ (s.lane n).state = 0 ∧ s.findCmd c.ring c.order = some c ∧ c.undecided = true ∧ stKind (s.stepOf step) =
      1 ∧ stLink (s.stepOf step) = false ∧ stPointBad s (s.stepOf step) = false) ∧
    (∃ (s : State) (n : ℕ) (st : ℕ), s.Inv ∧ s.pointMapsOk = true ∧ n < 64 ∧ s.rpOn = true ∧ s.gridOk (s.rpPeriod n) = true ∧
      (s.lane n).tickAt ≠ s.tai / s.rpPeriod n + 1 ∧ s.rp.ticksFrom ≤ s.elapsedAt (s.tai / s.rpPeriod n * s.rpPeriod n) ∧
      (s.lane n).reqs = [] ∧ (s.lane n).state = 1 ∧ (s.lane n).lostErr = false ∧ stKind (s.stepOf (s.lane n).pc) = 2 ∧
      stPointBad s (s.stepOf (s.lane n).pc) = false ∧ (s.lane n).inStep = false ∧ 1 < stTicks (s.stepOf (s.lane n).pc) ∧ st =
      toF64 (s.ptType (stPoint (s.stepOf (s.lane n).pc))) (s.ptRec (stPoint (s.stepOf (s.lane n).pc))).raw ∧ finite f64 st =
      true) ∧
    (∃ (s : State) (n : ℕ), s.Inv ∧ s.pointMapsOk = true ∧ n < 64 ∧ s.rpOn = true ∧ s.gridOk (s.rpPeriod n) = true ∧ (s.lane
      n).tickAt ≠ s.tai / s.rpPeriod n + 1 ∧ s.rp.ticksFrom ≤ s.elapsedAt (s.tai / s.rpPeriod n * s.rpPeriod n) ∧ (s.lane
      n).reqs = [] ∧ (s.lane n).state = 1 ∧ (s.lane n).lostErr = false ∧ stKind (s.stepOf (s.lane n).pc) = 6 ∧ stVal (s.stepOf
      (s.lane n).pc) % 256 ≠ 0) ∧
    (∃ (s : State) (n : ℕ), s.Inv ∧ s.pointMapsOk = true ∧ n < 64 ∧ s.rpOn = true ∧ s.gridOk (s.rpPeriod n) = true ∧ (s.lane
      n).tickAt ≠ s.tai / s.rpPeriod n + 1 ∧ s.rp.ticksFrom ≤ s.elapsedAt (s.tai / s.rpPeriod n * s.rpPeriod n) ∧ (s.lane
      n).reqs = [] ∧ (s.lane n).state = 1 ∧ (s.lane n).lostErr = false ∧ stKind (s.stepOf (s.lane n).pc) = 5 ∧ (s.ptDef (stPoint
      (s.stepOf (s.lane n).pc))).isSome = true ∧ stPointBad s (s.stepOf (s.lane n).pc) = false ∧ (s.ptRec (stPoint (s.stepOf
      (s.lane n).pc))).bad = true) :=
  ⟨⟨has (dev .run) (buffered opRecipeCtl rpStepsObj 0 32 [1, 1048575, crc32c (w32s [0x60000000, 0, 0, 0, 0, 0, 0, 0])]), 0, 0,
     w32s [0x60000000, 0, 0, 0, 0, 0, 0, 0], buffered opRecipeCtl rpStepsObj 0 32 [1, 1048575, crc32c (w32s [0x60000000, 0, 0,
     0, 0, 0, 0, 0])],
    by unfold State.Inv State.Ready Cmd.WithBuffer; decide +kernel⟩,
   ⟨has (dev .run) (plain opRecipeCtl (obj 0x23 1 63) [2, 9]), 0, 0, plain opRecipeCtl (obj 0x23 1 63) [2, 9], 2,
     Instr.recipeStart 0 0,
    by unfold State.Inv State.Ready Cmd.Plain; decide +kernel⟩,
   ⟨has (recipe { RpLane.init with reqs := [⟨2, 9, (0, 1), 0⟩] } (rpStep 1 5 1 0) [(5, some (ptOf 0 0 0 0))] [])
     { plain opRecipeCtl (obj 0x23 1 63) [2, 9] with phase := .started }, 63,
     { plain opRecipeCtl (obj 0x23 1 63) [2, 9] with phase := .started }, 9, 0,
    by unfold State.Inv; decide +kernel⟩,
   ⟨recipe { RpLane.init with state := 1, pc := 9 } (rpStep 2 5 0x40000000 10) [(5, some (ptOf 2 0 0 0))] [], 63, 0,
    by unfold State.Inv; decide +kernel⟩,
   ⟨recipe { RpLane.init with state := 1, pc := 9 } (rpStep 6 0 255 0) [] [], 63,
    by unfold State.Inv; decide +kernel⟩,
   ⟨recipe { RpLane.init with state := 1, pc := 9 } (rpStep 5 5 1 0) [(5, some (ptOf 0 0 0 0))] [(5,
     { PtRec.zero with qual := 0x4000 })], 63,
    by unfold State.Inv; decide +kernel⟩⟩

/-- States and operands that meet the hypotheses of each clause. -/
theorem witness_RecordingCommandsChangeOnlyTheirKinds :
    (∃ (i : Instr) (s : State), commandFamily i = Family.recording ∧ s.Inv) :=
  ⟨Instr.freezeDrain, dev .run,
    by unfold State.Inv; decide +kernel⟩

/-- States and operands that meet the hypotheses of each clause. -/
theorem witness_RegistersAtResetReadTheirFieldMaps :
    (∃ (u : ℕ) (g : ℕ) (i : ℕ) (w : ℕ), u < 2 ^ 12 ∧ g < 256 ∧ i < 65536 ∧ w < 4096) :=
  ⟨4095, 255, 65535, 4095,
    by decide +kernel⟩

/-- States and operands that meet the hypotheses of each clause. -/
theorem witness_RestartCommandsEnterBootOrLet :
    (∃ (s : State) (ring : ℕ) (idx : ℕ) (c : Cmd), s.Inv ∧ s.Ready ring idx c ∧ c.Plain opColdRestart 0 ∧ c.objid = 671088640 ∧
      s.authorized c = true ∧ s.inMode modesAll = true ∧ c.busy = false ∧ s.inTransition = false) ∧
    (∃ (s : State) (ring : ℕ) (idx : ℕ) (c : Cmd), s.Inv ∧ s.Ready ring idx c ∧ c.Plain opLetRequest 4 ∧ c.objid = 671088640 ∧
      (BitVec.toNat (c.par 0) = 1 ∨ BitVec.toNat (c.par 0) = 2) ∧ s.authorized c = true ∧ (s.mo.mode = Mode.run ∨ s.mo.mode =
      Mode.commission) ∧ c.busy = false ∧ s.inTransition = false) :=
  ⟨⟨has (dev .run) (plain opColdRestart 0x28000000 []), 0, 0, plain opColdRestart 0x28000000 [],
    by unfold State.Inv State.Ready Cmd.Plain; decide +kernel⟩,
   ⟨has (dev .commission) (plain opLetRequest 0x28000000 [2]), 0, 0, plain opLetRequest 0x28000000 [2],
    by unfold State.Inv State.Ready Cmd.Plain; decide +kernel⟩⟩

/-- States and operands that meet the hypotheses of each clause. -/
theorem witness_SafetyFunctionsEvaluateTestAndFail :
    (∃ (s : State) (k : ℕ) (x : SfFn), s.Inv ∧ s.fieldMapsOk = true ∧ s.sfOn = true ∧ s.sf.cycleAt ≠ s.fieldIdx ∧ s.sfFns = [k] ∧
      s.sfn k = x ∧ s.rd SF_FUNC_KIND k = 1 ∧ s.flag SF_FUNC_CONTACT k = false ∧ x.testA = none ∧ x.testB = none ∧ s.sfState k =
      4 ∧ x.chA.dem = false ∧ s.rd SF_FUNC_DEB k ≤ x.chA.run + 1 ∧ s.sfRaw (s.rd SF_FUNC_IN_A k) = false) ∧
    (∃ (s : State) (k : ℕ) (x : SfFn), s.Inv ∧ s.fieldMapsOk = true ∧ s.sfOn = true ∧ s.sf.cycleAt ≠ s.fieldIdx ∧ s.sfFns = [k]
      ∧ s.sfn k = x ∧ s.rd SF_FUNC_KIND k = 1 ∧ s.flag SF_FUNC_CONTACT k = false ∧ x.testA = none ∧ x.testB = none ∧ x.chA.dem =
      false ∧ x.chB.dem = false ∧ s.sfRaw (s.rd SF_FUNC_IN_A k) = true ∧ s.sfValid (s.rd SF_FUNC_IN_A k) = true ∧ s.sfRaw (s.rd
      SF_FUNC_IN_B k) = true ∧ s.sfValid (s.rd SF_FUNC_IN_B k) = true ∧ s.sfState k = 1 ∧ (s.rd SF_FUNC_RST_DI k = 63 ∨
      x.rst.dem = false ∧ s.sfRaw (s.rd SF_FUNC_RST_DI k) = false)) ∧
    (∃ (s : State) (k : ℕ) (x : SfFn) (p : ℕ), s.Inv ∧ s.fieldMapsOk = true ∧ s.sfOn = true ∧ s.sf.cycleAt ≠ s.fieldIdx ∧
      s.sfFns = [k] ∧ s.sfn k = x ∧ s.rd SF_FUNC_KIND k = 1 ∧ s.flag SF_FUNC_CONTACT k = false ∧ x.testA = none ∧ x.testB = none
      ∧ x.chA.dem = false ∧ x.chB.dem = false ∧ s.sfRaw (s.rd SF_FUNC_IN_A k) = true ∧ s.sfValid (s.rd SF_FUNC_IN_A k) = true ∧
      s.sfRaw (s.rd SF_FUNC_IN_B k) = true ∧ s.sfValid (s.rd SF_FUNC_IN_B k) = true ∧ s.sfState k = 2 ∧ s.rd SF_FUNC_RST_MODE k
      = 0 ∧ s.rd SF_FUNC_TPA k = 63 ∧ s.rd SF_FUNC_TPB k = 63 ∧ s.sfRaw (s.rd SF_FUNC_RST_DI k) = false ∧ s.sfValid (s.rd
      SF_FUNC_RST_DI k) = true ∧ x.rst.dem = true ∧ s.rd SF_FUNC_DEB k ≤ x.rst.run + 1 ∧ x.pressAt = some p ∧ p + 80000000 ≤
      s.elapsed ∧ s.elapsed ≤ p + 4000000000) ∧
    (∃ (s : State), s.Inv ∧ s.fieldMapsOk = true ∧ s.fieldOn = true ∧ s.fd.sfHbAt ≠ 0 ∧ s.fd.sfLost = false ∧ s.flag
      FD_STAT_HOLD 0 = false ∧ s.fd.sfHbAt + 800000 ≤ s.elapsed + 1) ∧
    (∃ (s : State), s.Inv ∧ s.var ≠ Variant.cpx9616 ∧ s.fieldOn = true ∧ s.tu.running = true) ∧
    (∃ (s : State) (cause : ℕ), s.Inv ∧ s.var ≠ Variant.cpx9616 ∧ s.fieldOn = true ∧ s.tu.running = true ∧ 1 ≤ cause ∧ cause ≤ 4
      ∧ s.flag SF_STAT_PFAULT 0 = false) ∧
    (∃ (s : State) (k : ℕ) (t0 : ℕ), s.Inv ∧ s.fieldMapsOk = true ∧ s.sfOn = true ∧ k < 32 ∧ 1 ≤ s.sfState k ∧ s.sfState k ≤ 4 ∧
      (s.sfn k).disc0 = some t0 ∧ t0 + s.rd SF_FUNC_DISC_T k * 800000 < s.elapsed) ∧
    (∃ (s : State) (k : ℕ) (n : ℕ), s.Inv ∧ s.fieldMapsOk = true ∧ s.sfOn = true ∧ k < 32 ∧ n < 24 ∧ s.sfFed n = [k] ∧ s.rd
      SF_FUNC_TPA k = n ∧ s.pulseSrc n = true ∧ mget (fun _ => 0) s.sf.dark n ≤ s.elapsed ∧ 20000000 * n + 500000 ≤ s.tu.ns ∧
      s.tu.ns < 20000000 * n + 510000 ∧ mget (fun _ => 0) s.sf.pulseSec n ≠ s.tu.sec + 1 ∧ s.rd SF_FUNC_TP_W k ≠ 0 ∧ (s.sfn
      k).chA.dem = false) ∧
    (∃ (s : State) (k : ℕ) (n : ℕ), s.Inv ∧ s.fieldMapsOk = true ∧ s.sfOn = true ∧ k < 32 ∧ n < 24 ∧ s.sfFed n = [k] ∧ s.rd
      SF_FUNC_TPA k = n ∧ s.pulseSrc n = true ∧ mget (fun _ => 0) s.sf.dark n ≤ s.elapsed ∧ 20000000 * n + 500000 ≤ s.tu.ns ∧
      s.tu.ns < 20000000 * n + 510000 ∧ mget (fun _ => 0) s.sf.pulseSec n ≠ s.tu.sec + 1 ∧ s.rd SF_FUNC_TP_W k ≠ 0 ∧ (s.sfn
      k).chA.dem = true) ∧
    (∃ (s : State) (k : ℕ) (x : SfTest), s.Inv ∧ s.fieldMapsOk = true ∧ s.sfOn = true ∧ k < 32 ∧ (s.sfn k).testA = some x ∧
      x.stop ≤ s.elapsed ∧ 1 ≤ s.sfState k ∧ s.sfState k ≤ 4 ∧ x.zero = false) ∧
    (∃ (s : State) (k : ℕ) (x : SfTest), s.Inv ∧ s.fieldMapsOk = true ∧ s.sfOn = true ∧ k < 32 ∧ (s.sfn k).testA = some x ∧
      x.stop ≤ s.elapsed ∧ 1 ≤ s.sfState k ∧ s.sfState k ≤ 4 ∧ x.zero = true ∧ x.other = false ∧ x.reset = false ∧ s.sfRaw (s.rd
      SF_FUNC_IN_A k) = true) ∧
    (∃ (s : State) (k : ℕ) (x : SfTest), s.Inv ∧ s.fieldMapsOk = true ∧ s.sfOn = true ∧ k < 32 ∧ (s.sfn k).testA = some x ∧
      x.stop ≤ s.elapsed ∧ 1 ≤ s.sfState k ∧ s.sfState k ≤ 4 ∧ x.zero = true ∧ x.other = true ∧ x.reset = false) ∧
    (∃ (s : State) (n : ℕ), s.Inv ∧ s.fieldMapsOk = true ∧ s.sfOn = true ∧ mget (fun _ => 0) s.sf.checks n ≠ 0 ∧ mget (fun _ =>
      0) s.sf.checks n + 3999999 ≤ s.elapsed ∧ s.flag FD_DO_BALL n = false) ∧
    (∃ (s : State) (n : ℕ), s.Inv ∧ s.fieldMapsOk = true ∧ s.sfOn = true ∧ mget (fun _ => 0) s.sf.checks n ≠ 0 ∧ mget (fun _ =>
      0) s.sf.checks n + 3999999 ≤ s.elapsed ∧ s.flag FD_DO_BALL n = true) ∧
    (∃ (s : State), s.Inv ∧ s.fieldMapsOk = true ∧ s.sfOn = true ∧ s.sf.crcDue.isSome = true) :=
  ⟨⟨safed 4 [(SF_FUNC_DEB, 31, 3), (SF_FUNC_OUT_MASK, 31, 0x800000)] { healthy with chA := ⟨false, 2⟩ }, 31,
     { healthy with chA := ⟨false, 2⟩ },
    by unfold State.Inv; decide +kernel⟩,
   ⟨safed 1 [(FD_DI_RAW, 46, 1), (FD_DI_VALID, 46, 1), (FD_DI_RAW, 47, 1), (FD_DI_VALID, 47, 1)] healthy, 31, healthy,
    by unfold State.Inv; decide +kernel⟩,
   ⟨safed 2 [(FD_DI_RAW, 46, 1), (FD_DI_VALID, 46, 1), (FD_DI_RAW, 47, 1), (FD_DI_VALID, 47, 1), (SF_FUNC_RST_DI, 31, 45),
     (FD_DI_VALID, 45, 1)] { healthy with needReset := false, rst := ⟨true, 2⟩, pressAt := some 799000000000 }, 31,
     { healthy with needReset := false, rst := ⟨true, 2⟩, pressAt := some 799000000000 }, 799000000000,
    by unfold State.Inv; decide +kernel⟩,
   ⟨{ dev .run with fd := { FdSt.init0 with sfHbAt := 799999200001 } },
    by unfold State.Inv; decide +kernel⟩,
   ⟨dev .run,
    by unfold State.Inv; decide +kernel⟩,
   ⟨dev .run, 4,
    by unfold State.Inv; decide +kernel⟩,
   ⟨safed 4 [] { healthy with disc0 := some 799000000000 }, 31, 799000000000,
    by unfold State.Inv; decide +kernel⟩,
   ⟨timed (safed 4 [(SF_FUNC_TPA, 31, 23), (FD_DO_MODE, 23, 1)] healthy) (fun t => { t with ns := 460509999 }), 31, 23,
    by unfold State.Inv; decide +kernel⟩,
   ⟨timed (safed 4 [(SF_FUNC_TPA, 31, 23), (FD_DO_MODE, 23, 1)] { SfFn.init with needReset := false }) (fun t =>
     { t with ns := 460500000 }), 31, 23,
    by unfold State.Inv; decide +kernel⟩,
   ⟨safed 4 [] { healthy with testA := some ⟨799999900000, 799999950000, 800000000000, false, false, false⟩ }, 31,
     ⟨799999900000, 799999950000, 800000000000, false, false, false⟩,
    by unfold State.Inv; decide +kernel⟩,
   ⟨safed 4 [(FD_DI_RAW, 46, 1)] { healthy with testA := some ⟨799999900000, 799999950000, 800000000000, true, false, false⟩ },
     31, ⟨799999900000, 799999950000, 800000000000, true, false, false⟩,
    by unfold State.Inv; decide +kernel⟩,
   ⟨safed 4 [] { healthy with testA := some ⟨799999900000, 799999950000, 800000000000, true, true, false⟩ }, 31, ⟨799999900000,
     799999950000, 800000000000, true, true, false⟩,
    by unfold State.Inv; decide +kernel⟩,
   ⟨{ dev .run with sf := { SfSt.init with checks := [(23, 796000000001)] } }, 23,
    by unfold State.Inv; decide +kernel⟩,
   ⟨{ safed 4 [(FD_DO_BALL, 23, 1), (SF_FUNC_OUT_MASK, 31, 0x800000)] healthy with sf := { SfSt.init with fn := [(31, healthy)], checks := [(23, 796000000001)] } },
     23,
    by unfold State.Inv; decide +kernel⟩,
   ⟨{ safed 4 [(SF_CFG_EXP_CRC, 0, 1)] healthy with sf := { SfSt.init with fn := [(31, healthy)], crcDue := some 5 } },
    by unfold State.Inv; decide +kernel⟩⟩

/-- States and operands that meet the hypotheses of each clause. -/
theorem witness_SamplesReachChannelsAndStreams :
    (∃ (s : State) (chan : ℕ) (stamp : ℕ), s.Inv ∧ s.fineNext chan stamp = true) ∧
    (∃ (s : State) (chan : ℕ) (stamp : ℕ), s.Inv ∧ s.fastNext chan stamp = true) ∧
    (∃ (s : State) (chan : ℕ) (u : ℕ) (i : ℕ) (w : Smp), s.Inv ∧ s.pathsOn = true ∧ s.fcHas chan = true ∧ (List.filter (fun x =>
      decide ((s.fcChan chan).resLast < x.1)) (s.track (s.streamTrack chan)).insts).getLast? = some (u, i) ∧ worst (s.nearFine
      chan u) = some w ∧ 8 ≤ (s.nearFine chan u).length ∧ s.resDue chan (u / 2 ^ 32) ≤ s.tai) ∧
    (∃ (s : State) (ring : ℕ) (idx : ℕ) (c : Cmd), s.Inv ∧ s.Ready ring idx c ∧ c.Plain opStreamOpen 8 ∧ s.inMode modesTrain =
      true ∧ (objUnit c.objid = 8 ∧ objGrp c.objid = 16 ∨ objUnit c.objid = 9 ∧ objGrp c.objid = 1) ∧ s.objAbsent (objUnit
      c.objid) (objGrp c.objid) (objInst c.objid) = false ∧ objUnknown (objUnit c.objid) (objGrp c.objid) (objInst c.objid) =
      false ∧ s.streamBad c = false) ∧
    (∃ (s : State) (ring : ℕ) (st : Machine.Stream), s.Inv ∧ s.pathsOn = true ∧ ring < 64 ∧ s.stream ring = some st ∧ st.buf ≠
      [] ∧ s.mo.mode ≠ Mode.sentinel ∧ s.ringIs ring 3 = true ∧ s.ringFull ring = false ∧ s.mo.mode ≠ Mode.letMode ∧ s.rd
      MB_RINGREG_SIZE_LOG2 ring ≤ 16) ∧
    (∃ (s : State) (ring : ℕ) (st : Machine.Stream), s.Inv ∧ s.pathsOn = true ∧ ring < 64 ∧ s.stream ring = some st ∧ st.buf ≠
      [] ∧ s.mo.mode ≠ Mode.sentinel ∧ s.ringFull ring = true) ∧
    (∃ (s : State) (ring : ℕ) (idx : ℕ) (c : Cmd) (st : Machine.Stream), s.Inv ∧ s.Ready ring idx c ∧ c.Plain opStreamClose 4 ∧
      s.inMode modesAll = true ∧ (c.par 0).get 31 6 = 0 ∧ s.stream ((c.par 0).get 5 0) = some st ∧ st.closing = none ∧ st.buf =
      [] ∧ s.findCmd c.ring c.order = some c ∧ mapOk (fun _ => none) s.af.streams = true) :=
  ⟨⟨{ put (dev .run) [(FC_VCH_EN, 95, 1), (FC_CHAN_RATE, 95, 3)] with fc := { FcSt.init with ch := [(95, { FcChan.init with fineAt := 999000000000 })] } },
     95, 999000000000,
    by unfold State.Inv; decide +kernel⟩,
   ⟨{ put (dev .run) [(AF_CORE_EN, 15, 1), (AF_CORE_SCAN, 15, 8)] with fc := { FcSt.init with ch := [(63, { FcChan.init with fastAt := 999000000000 })] } },
     63, 999000000000,
    by unfold State.Inv; decide +kernel⟩,
   ⟨{ put (dev .run) [(FC_CHAN_RATE, 63, 0), (FC_CHAN_TRACK, 63, 7)] with fc := { FcSt.init with trk := [(7, { Track.init with insts := [(999000000000 * 2 ^ 32, 0)] })], ch := [(63, { FcChan.init with fine := (List.range 8).map (fun k => ⟨999000093750 - 31250 * k, 7, 0⟩) })] } },
     63, 999000000000 * 2 ^ 32, 0, ⟨999000093750, 7, 0⟩,
    by unfold State.Inv; decide +kernel⟩,
   ⟨has (put (dev .run) [(MB_RINGREG_EN, 63, 1), (MB_RINGREG_KIND, 63, 3)]) (plain opStreamOpen (obj 9 1 0) [63 * 65536 + 1,
     0]), 0, 0, plain opStreamOpen (obj 9 1 0) [63 * 65536 + 1, 0],
    by unfold State.Inv State.Ready Cmd.Plain; decide +kernel⟩,
   ⟨streaming ⟨9, 0, false, 1, 0, 5, 0, [⟨⟨999000000000, 7, 0⟩, 800⟩], none⟩ 0, 63, ⟨9, 0, false, 1, 0, 5, 0, [⟨⟨999000000000,
     7, 0⟩, 800⟩], none⟩,
    by unfold State.Inv; decide +kernel⟩,
   ⟨streaming ⟨9, 0, false, 1, 0, 5, 0, [⟨⟨999000000000, 7, 0⟩, 800⟩], none⟩ 1, 63, ⟨9, 0, false, 1, 0, 5, 0, [⟨⟨999000000000,
     7, 0⟩, 800⟩], none⟩,
    by unfold State.Inv; decide +kernel⟩,
   ⟨has (streaming ⟨9, 0, false, 1, 0, 5, 0, [], none⟩ 0) (plain opStreamClose 0x09000000 [63]), 0, 0, plain opStreamClose
     0x09000000 [63], ⟨9, 0, false, 1, 0, 5, 0, [], none⟩,
    by unfold State.Inv State.Ready Cmd.Plain; decide +kernel⟩⟩

/-- States and operands that meet the hypotheses of each clause. -/
theorem witness_SentinelEntryRunsItsSteps :
    (∃ (s : State), s.Inv ∧ s.mo.mode = Mode.sentinel ∧ s.mo.sentHalt = false ∧ s.mo.sent = SentStep.entering 0 ∧ s.cyclesOpen =
      false) ∧
    (∃ (s : State), s.Inv ∧ s.mo.mode = Mode.sentinel ∧ s.mo.sentHalt = false ∧ s.mo.sent = SentStep.entering 1 ∧ s.cs.writing =
      none) ∧
    (∃ (s : State), s.Inv ∧ s.mo.mode = Mode.sentinel ∧ s.mo.sentHalt = false ∧ s.mo.sent = SentStep.entering 2 ∧ s.cs.writing =
      none) ∧
    (∃ (s : State), s.Inv ∧ s.mo.mode = Mode.sentinel ∧ s.mo.sentHalt = false ∧ s.mo.sent = SentStep.entering 3 ∧ s.mb.inflight
      = []) ∧
    (∃ (s : State), s.Inv ∧ s.mo.mode = Mode.sentinel ∧ s.mo.sentHalt = false ∧ s.mo.sent = SentStep.entering 4) ∧
    (∃ (s : State), s.Inv ∧ s.mo.mode = Mode.sentinel ∧ s.mo.sentHalt = false ∧ s.mo.sent = SentStep.entering 5) ∧
    (∃ (s : State) (n : ℕ) (k : ℕ) (src : WakeSrc), s.Inv ∧ s.mo.mode = Mode.sentinel ∧ s.mo.sent = SentStep.entering k ∧
      s.mo.sentHalt = false ∧ wakeSrcOf n = some src ∧ s.wakeEnabled src = true) :=
  ⟨⟨moded (dev .sentinel) (fun m => { m with sent := .entering 0 }),
    by unfold State.Inv; decide +kernel⟩,
   ⟨moded (dev .sentinel) (fun m => { m with sent := .entering 1 }),
    by unfold State.Inv; decide +kernel⟩,
   ⟨moded (dev .sentinel) (fun m => { m with sent := .entering 2 }),
    by unfold State.Inv; decide +kernel⟩,
   ⟨moded (dev .sentinel) (fun m => { m with sent := .entering 3 }),
    by unfold State.Inv; decide +kernel⟩,
   ⟨moded (dev .sentinel) (fun m => { m with sent := .entering 4 }),
    by unfold State.Inv; decide +kernel⟩,
   ⟨moded (dev .sentinel) (fun m => { m with sent := .entering 5 }),
    by unfold State.Inv; decide +kernel⟩,
   ⟨put (moded (dev .sentinel) (fun m => { m with sent := .entering 5 })) [(KP_WAKE_FLD_EN, 0, 1)], 7, 5, .field,
    by unfold State.Inv; decide +kernel⟩⟩

/-- States and operands that meet the hypotheses of each clause. -/
theorem witness_StepRunsFrontCommand :
    (∃ (s : State) (c : Instr) (rest : List Instr), s.pending = c :: rest) :=
  ⟨{ dev .run with pending := [.resetNLow, .nop 0 0] }, .resetNLow, [.nop 0 0],
    by decide +kernel⟩

/-- States and operands that meet the hypotheses of each clause. -/
theorem witness_TasksCycleAndCoresFail :
    (∃ (s : State) (n : ℕ) (o : LgOpen), s.Inv ∧ n < 64 ∧ s.lgOn = true ∧ s.lgFree = true ∧ s.taskReady n = true ∧ s.coreFree n =
      true ∧ (((s.cycleTime n).busyTo (s.rd LG_TASK_HOME n)).execTask n none).2 = o ∧ (∀ (k i : ℕ), o.ended ≠ LgEnd.fault k i))
      ∧
    (∃ (s : State) (n : ℕ) (o : LgOpen) (k : ℕ) (i : ℕ), s.Inv ∧ n < 64 ∧ s.lgOn = true ∧ s.lgFree = true ∧ s.taskReady n = true
      ∧ s.coreFree n = true ∧ (((s.cycleTime n).busyTo (s.rd LG_TASK_HOME n)).execTask n none).2 = o ∧ o.ended = LgEnd.fault k i
      ∧ (s.lgTask n).fails = 0) ∧
    (∃ (s : State) (n : ℕ) (o : LgOpen) (b : ℕ) (v : ℕ), s.Inv ∧ n < 64 ∧ (s.lgTask n).open_ = some o ∧ s.lgEnds = true ∧
      s.mo.pend = none ∧ s.mo.firstWrite = false ∧ mapOk (fun _ => 0) s.lg.q = true ∧ mapOk (fun _ => LgTask.init) s.lg.tasks =
      true ∧ o.ended = LgEnd.done ∧ s.notPreempted n = true ∧ o.p = [] ∧ s.owned n = [(b, v)] ∧ b < 4096 ∧ s.qStation b = none)
      ∧
    (∃ (s : State) (n : ℕ) (o : LgOpen), s.Inv ∧ n < 64 ∧ (s.lgTask n).open_ = some o ∧ s.lgEnds = true ∧ s.mo.pend = none ∧
      s.mo.firstWrite = false ∧ mapOk (fun _ => 0) s.lg.q = true ∧ mapOk (fun _ => LgTask.init) s.lg.tasks = true ∧ s.errorTask
      ≠ some n ∧ o.snapAt + usUnits o.wdt ≤ s.elapsed) ∧
    (∃ (s : State) (n : ℕ), s.Inv ∧ n < 64 ∧ s.umOn = true ∧ s.lg.running = true ∧ s.flag LG_TASK_EN n = true ∧ s.rd
      LG_TASK_KIND n = 1 ∧ s.flag LG_TASK_STOPPED n = false ∧ s.trigDue n = true ∧ (s.lgTask n).pend = false ∧ (s.lgTask
      n).open_ = none) ∧
    (∃ (s : State) (n : ℕ), s.Inv ∧ n < 64 ∧ s.umOn = true ∧ s.lg.running = true ∧ s.flag LG_TASK_EN n = true ∧ s.rd
      LG_TASK_KIND n = 1 ∧ s.flag LG_TASK_STOPPED n = false ∧ s.trigDue n = true ∧ ((s.lgTask n).pend = true ∨ (s.lgTask
      n).open_ ≠ none) ∧ (s.lgTask n).latched = false) ∧
    (∃ (s : State) (n : ℕ), s.Inv ∧ n < 64 ∧ s.umOn = true ∧ s.lg.running = true ∧ s.flag LG_TASK_EN n = true ∧ s.rd
      LG_TASK_KIND n = 1 ∧ s.flag LG_TASK_STOPPED n = false ∧ s.trigDue n = true ∧ ((s.lgTask n).pend = true ∨ (s.lgTask
      n).open_ ≠ none) ∧ (s.lgTask n).latched = true) ∧
    (∃ (s : State) (core : ℕ) (n : ℕ) (c : LgCause) (rest : List LgCause), s.Inv ∧ s.errorTask = some n ∧ s.lgOn = true ∧
      s.lgFree = true ∧ core < s.nCore ∧ s.coreFailed core = false ∧ s.flag LG_TASK_STOPPED n = false ∧ s.mo.pend = none ∧
      s.mo.firstWrite = false ∧ s.causes core = c :: rest ∧ mapOk (fun _ => []) s.lg.causes = true) ∧
    (∃ (s : State) (core : ℕ), s.Inv ∧ s.umOn = true ∧ core < s.nCore ∧ s.coreFailed core = false ∧ s.liveCores ≠ [core]) ∧
    (∃ (s : State) (core : ℕ), s.Inv ∧ s.umOn = true ∧ core < s.nCore ∧ s.coreFailed core = false ∧ s.liveCores = [core]) :=
  ⟨⟨logic [0x78000005, 0xFC000000] [] [], 63, ⟨800000000000, 1000, [], [], [], 0, .done, []⟩,
    by unfold State.Inv; refine ⟨by decide +kernel, by decide +kernel, by decide +kernel, by decide +kernel, by decide +kernel,
     by decide +kernel, by decide +kernel, ?_⟩; intro k i h; cases h⟩,
   ⟨logic [0xF8000000] [] [], 63, ⟨800000000000, 1000, [], [], [], 0, .fault 3 0, []⟩, 3, 0,
    by unfold State.Inv; decide +kernel⟩,
   ⟨logic [0xFC000000] [] [(63, { LgTask.init with open_ := some (openCycle .done), fails := 1 })], 63, openCycle .done, 2, 7,
    by unfold State.Inv; decide +kernel⟩,
   ⟨logic [0xFC000000] [] [(63, { LgTask.init with open_ := some (openCycle .done), fails := 1 })], 63, openCycle .done,
    by unfold State.Inv; decide +kernel⟩,
   ⟨logic [0xFC000000] [(LG_TASK_KIND, 63, 1)] [], 63,
    by unfold State.Inv; decide +kernel⟩,
   ⟨logic [0xFC000000] [(LG_TASK_KIND, 63, 1)] [(63, { LgTask.init with pend := true })], 63,
    by unfold State.Inv; decide +kernel⟩,
   ⟨logic [0xFC000000] [(LG_TASK_KIND, 63, 1)] [(63, { LgTask.init with pend := true, latched := true })], 63,
    by unfold State.Inv; decide +kernel⟩,
   ⟨{ logic [0xFC000000] [(LG_TASK_KIND, 63, 2)] [] with lg := { (logic [0xFC000000] [] []).lg with causes := [(3, [⟨2, 5, 3, 0, 0, 0, 0, ⟨999, 0⟩⟩])] } },
     3, 63, ⟨2, 5, 3, 0, 0, 0, 0, ⟨999, 0⟩⟩, [],
    by unfold State.Inv; decide +kernel⟩,
   ⟨logic [0xFC000000] [(LG_TASK_HOME, 63, 3)] [], 3,
    by unfold State.Inv; decide +kernel⟩,
   ⟨put (logic [0xFC000000] [(LG_TASK_HOME, 63, 3)] []) [(LG_CORE_STATE, 0, 2), (LG_CORE_STATE, 1, 2), (LG_CORE_STATE, 2, 2)],
     3,
    by unfold State.Inv; decide +kernel⟩⟩

/-- States and operands that meet the hypotheses of each clause. -/
theorem witness_TimeCommandsChangeOnlyTheirKinds :
    (∃ (i : Instr) (s : State), commandFamily i = Family.time ∧ s.Inv) :=
  ⟨Instr.tuLock, dev .run,
    by unfold State.Inv; decide +kernel⟩

/-- States and operands that meet the hypotheses of each clause. -/
theorem witness_TimeUnitSteersStepsLocksAndSendsTime :
    (∃ (s : State) (frac : W32) (ns : ℕ), s.Inv ∧ s.tu.running = true ∧ ns < 4 ∧ incOk (ns * 2 ^ 32 + BitVec.toNat frac) = true) ∧
    (∃ (s : State) (ns : ℤ) (ms : ℕ), s.Inv ∧ s.tu.running = true ∧ slewOk ns ms = true ∧ ms < 65536) ∧
    (∃ (s : State) (nanos : ℤ), s.Inv ∧ s.tu.running = true ∧ s.stepAllowed = true ∧ nanos.natAbs ≤ 999999999) ∧
    (∃ (s : State), s.Inv ∧ s.tu.running = true ∧ s.tu.state ≠ TimeState.locked ∧ s.tu.state ≠ TimeState.gm) ∧
    (∃ (s : State), s.Inv ∧ s.tu.running = true ∧ (s.tu.state = TimeState.locked ∨ s.tu.state = TimeState.gm ∨ s.tu.state =
      TimeState.acquire)) ∧
    (∃ (s : State), s.Inv ∧ s.tu.running = true ∧ (s.tu.state = TimeState.locked ∨ s.tu.state = TimeState.gm) ∧ s.tu.adjAt +
      s.rd TU_CFG_SERVO_TO 0 * 800000 ≤ s.elapsed) ∧
    (∃ (s : State), s.Inv ∧ s.tu.running = true ∧ (s.tu.state = TimeState.locked ∨ s.tu.state = TimeState.gm) ∧ s.tu.rtcAt +
      48000000000 ≤ s.elapsed) ∧
    (∃ (s : State) (r : StepReq), s.Inv ∧ s.tu.running = true ∧ s.tu.step = some r ∧ r.notBefore ≤ s.tai ∧ 0 ≤ Int.ofNat s.tai +
      r.secs * 1000000000 + r.nanos) ∧
    (∃ (s : State), s.Inv ∧ s.tu.slewing = true ∧ s.tu.slewCycles ≤ s.tu.slewDone) ∧
    (∃ (s : State) (p : ℕ), s.Inv ∧ s.lanesOn = true ∧ p ∈ s.portsUp ∧ s.tu.syncIdx ≠ s.tai * 2 ^ s.rd TU_CFG_RB_SYNC 0 /
      1000000000 + 1 ∧ s.gridOk (1000000000 / 2 ^ s.rd TU_CFG_RB_SYNC 0) = true ∧ s.rd TU_PORT_PSTATE p = 1) ∧
    (∃ (s : State) (p : ℕ), s.Inv ∧ s.lanesOn = true ∧ p ∈ s.portsUp ∧ s.tu.pdIdx ≠ s.tai / 62500000 + 1 ∧ s.gridOk 62500000 =
      true) ∧
    (∃ (s : State) (p : ℕ) (states : List ℕ), s.Inv ∧ s.lanesOn = true ∧ p ∈ s.portsUp ∧ s.firmwareOn = true ∧ s.tu.annIdx ≠
      s.tu.sec + 1 ∧ states.getD p 0 = 1) ∧
    (∃ (s : State) (p : ℕ) (m : PtpFrame), s.Inv ∧ s.lanesOn = true ∧ p ∈ s.portsUp ∧ m.kind = 2 ∧ m.domain = s.rd TU_CFG_DOMAIN
      0) ∧
    (∃ (s : State) (p : ℕ) (m : PtpFrame), s.Inv ∧ s.lanesOn = true ∧ p ∈ s.portsUp ∧ m.kind = 0 ∧ m.domain = s.rd TU_CFG_DOMAIN
      0 ∧ s.rd TU_PORT_PSTATE p = 2 ∧ (s.syncOffset p m).natAbs < 20000 ∧ s.tu.syncRun = 15 ∧ s.firmwareOn = true ∧ s.flag
      TU_CFG_SERVO 0 = false ∧ s.rd TU_CFG_ROLE 0 = 0 ∧ s.tu.state = TimeState.acquire) ∧
    (∃ (s : State) (p : ℕ) (m : PtpFrame) (q : PtpMsg) (v : ℤ) (h : List ℤ), s.Inv ∧ s.lanesOn = true ∧ p ∈ s.portsUp ∧ m.kind =
      3 ∧ m.domain = s.rd TU_CFG_DOMAIN 0 ∧ s.ptpLast p 2 = some q ∧ q.seq = m.seq ∧ v = (m.ingress - Int.ofNat q.time -
      m.origin) / 2 ∧ mget (fun _ => []) s.tu.pdHist p = h ∧ h.length = 2 ∧ pdAgree (v :: h) = true) ∧
    (∃ (s : State) (p : ℕ) (m : PtpFrame), s.Inv ∧ s.lanesOn = true ∧ p ∈ s.portsUp ∧ m.kind = 11 ∧ m.domain = s.rd
      TU_CFG_DOMAIN 0 ∧ mget (fun _ => []) s.tu.announce p = []) ∧
    (∃ (s : State) (p : ℕ), s.Inv ∧ s.lanesOn = true ∧ p ∈ s.portsUp ∧ s.slavePort = some p ∧ s.firmwareOn = true ∧ s.flag
      TU_CFG_SERVO 0 = false ∧ s.tu.state = TimeState.locked ∧ mget (fun _ => 0) s.tu.annAt p + 2399999999 ≤ s.elapsed) ∧
    (∃ (s : State) (lane : ℕ) (len : ℕ) (m : PtpFrame), s.Inv ∧ s.laneUsed lane = true ∧ s.rd LN_LANE_PROTO lane ≠ 1 ∧ s.flag
      LN_LANE_UP lane = true ∧ 64 ≤ len ∧ len ≤ 1522 ∧ s.firmwareOn = true ∧ m.domain = 0 ∧ mapOk (fun _ => 0) s.tu.ethDelay =
      true ∧ mapOk (fun _ => none) s.tu.ethHalf = true ∧ s.tu.ethParent = some (lane, m.identity) ∧ m.kind = 0 ∧ m.twoStep =
      false ∧ (m.ingress - m.origin - mget (fun _ => 0) s.tu.ethDelay lane).natAbs < 20000 ∧ s.tu.syncRun = 15 ∧ s.flag
      TU_CFG_SERVO 0 = false ∧ s.rd TU_CFG_ROLE 0 = 0 ∧ s.tu.state = TimeState.acquire) ∧
    (∃ (s : State) (lane : ℕ) (len : ℕ) (m : PtpFrame), s.Inv ∧ s.laneUsed lane = true ∧ s.rd LN_LANE_PROTO lane ≠ 1 ∧ s.flag
      LN_LANE_UP lane = true ∧ 64 ≤ len ∧ len ≤ 1522 ∧ s.firmwareOn = true ∧ m.domain = 0 ∧ mapOk (fun _ => 0) s.tu.ethDelay =
      true ∧ mapOk (fun _ => none) s.tu.ethHalf = true ∧ s.tu.ethParent = some (lane, m.identity) ∧ m.kind = 0 ∧ m.twoStep =
      true) ∧
    (∃ (s : State) (lane : ℕ) (len : ℕ) (m : PtpFrame) (g : ℤ) (x : ℤ), s.Inv ∧ s.laneUsed lane = true ∧ s.rd LN_LANE_PROTO lane
      ≠ 1 ∧ s.flag LN_LANE_UP lane = true ∧ 64 ≤ len ∧ len ≤ 1522 ∧ s.firmwareOn = true ∧ m.domain = 0 ∧ mapOk (fun _ => 0)
      s.tu.ethDelay = true ∧ mapOk (fun _ => none) s.tu.ethHalf = true ∧ s.tu.ethParent = some (lane, m.identity) ∧ m.kind = 8 ∧
      s.ethHalfOf lane 0 m.seq = some (g, x)) ∧
    (∃ (s : State) (lane : ℕ) (len : ℕ) (m : PtpFrame), s.Inv ∧ s.laneUsed lane = true ∧ s.rd LN_LANE_PROTO lane ≠ 1 ∧ s.flag
      LN_LANE_UP lane = true ∧ 64 ≤ len ∧ len ≤ 1522 ∧ s.firmwareOn = true ∧ m.domain = 0 ∧ mapOk (fun _ => 0) s.tu.ethDelay =
      true ∧ mapOk (fun _ => none) s.tu.ethHalf = true ∧ m.kind = 2) ∧
    (∃ (s : State) (lane : ℕ) (len : ℕ) (m : PtpFrame) (d : ℤ), s.Inv ∧ s.laneUsed lane = true ∧ s.rd LN_LANE_PROTO lane ≠ 1 ∧
      s.flag LN_LANE_UP lane = true ∧ 64 ≤ len ∧ len ≤ 1522 ∧ s.firmwareOn = true ∧ m.domain = 0 ∧ mapOk (fun _ => 0)
      s.tu.ethDelay = true ∧ mapOk (fun _ => none) s.tu.ethHalf = true ∧ m.kind = 3 ∧ m.twoStep = false ∧ s.peerDelay (256 +
      lane) m.seq m.ingress m.origin = some d) ∧
    (∃ (s : State) (lane : ℕ) (len : ℕ) (m : PtpFrame) (g : ℤ) (c : ℤ) (d : ℤ), s.Inv ∧ s.laneUsed lane = true ∧ s.rd
      LN_LANE_PROTO lane ≠ 1 ∧ s.flag LN_LANE_UP lane = true ∧ 64 ≤ len ∧ len ≤ 1522 ∧ s.firmwareOn = true ∧ m.domain = 0 ∧
      mapOk (fun _ => 0) s.tu.ethDelay = true ∧ mapOk (fun _ => none) s.tu.ethHalf = true ∧ m.kind = 10 ∧ s.ethHalfOf lane 3
      m.seq = some (g, c) ∧ s.peerDelay (256 + lane) m.seq g (m.origin - c) = some d) ∧
    (∃ (s : State) (lane : ℕ) (len : ℕ) (m : PtpFrame), s.Inv ∧ s.laneUsed lane = true ∧ s.rd LN_LANE_PROTO lane ≠ 1 ∧ s.flag
      LN_LANE_UP lane = true ∧ 64 ≤ len ∧ len ≤ 1522 ∧ s.firmwareOn = true ∧ m.domain = 0 ∧ mapOk (fun _ => 0) s.tu.ethDelay =
      true ∧ mapOk (fun _ => none) s.tu.ethHalf = true ∧ m.kind = 11 ∧ m.best = true) :=
  ⟨⟨dev .run, 0x40000005, 1,
    by unfold State.Inv; decide +kernel⟩,
   ⟨dev .run, -500, 1,
    by unfold State.Inv; decide +kernel⟩,
   ⟨dev .run, 999999999,
    by unfold State.Inv; decide +kernel⟩,
   ⟨dev .run,
    by unfold State.Inv; decide +kernel⟩,
   ⟨timed (dev .run) (fun t => { t with state := .gm }),
    by unfold State.Inv; decide +kernel⟩,
   ⟨timed (dev .run) (fun t => { t with state := .gm }),
    by unfold State.Inv; decide +kernel⟩,
   ⟨timed (dev .run) (fun t => { t with state := .gm }),
    by unfold State.Inv; decide +kernel⟩,
   ⟨timed (dev .run) (fun t => { t with step := some ⟨-1, 5, none, 999999975000⟩ }), ⟨-1, 5, none, 999999975000⟩,
    by unfold State.Inv; decide +kernel⟩,
   ⟨timed (dev .run) (fun t => { t with slewing := true, slewCycles := 800000, slewDone := 800000 }),
    by unfold State.Inv; decide +kernel⟩,
   ⟨put (linked (dev .run)) [(TU_PORT_PSTATE, 15, 1)], 15,
    by unfold State.Inv; decide +kernel⟩,
   ⟨put (linked (dev .run)) [(TU_PORT_PSTATE, 15, 1)], 15,
    by unfold State.Inv; decide +kernel⟩,
   ⟨put (linked (dev .run)) [(TU_PORT_PSTATE, 15, 1)], 15, List.replicate 16 1,
    by unfold State.Inv; decide +kernel⟩,
   ⟨linked (dev .run), 15, ⟨2, 0, false, 65535, 0, 0, 0, 0, 0, 0, false⟩,
    by unfold State.Inv; decide +kernel⟩,
   ⟨timed (put (linked (dev .run)) [(TU_PORT_PSTATE, 15, 2)]) (fun t => { t with syncRun := 15, state := .acquire }), 15, ⟨0, 0,
     false, 0, -19999, 0, 0, 0, 0, 0, false⟩,
    by unfold State.Inv; decide +kernel⟩,
   ⟨timed (linked (dev .run)) (fun t =>
     { t with pdHist := [(15, [100, 200])], ptpTx := [(15 * 16 + 2, some ⟨2, 0, 1, 15, 9, 4000, 0⟩)] }), 15, ⟨3, 0, false, 9,
     1200, 800, 0, 0, 0, 0, false⟩, ⟨2, 0, 1, 15, 9, 4000, 0⟩, -1800, [100, 200],
    by unfold State.Inv; decide +kernel⟩,
   ⟨timed (linked (dev .run)) (fun t => { t with pdHist := [(15, [100, 200])] }), 15, ⟨0xB, 0, false, 0, 0, 0, 6, 77, 37, 0,
     false⟩,
    by unfold State.Inv; decide +kernel⟩,
   ⟨timed (put (linked (dev .run)) [(TU_PORT_PSTATE, 15, 2)]) (fun t =>
     { t with state := .locked, annAt := [(15, 797600000001)] }), 15,
    by unfold State.Inv; decide +kernel⟩,
   ⟨ethernet (fun t => { t with ethParent := some (19, 77), ethDelay := [(19, 500)], syncRun := 15, state := .acquire }), 19,
     64, ptp 0 false 3 20499 0,
    by unfold State.Inv; decide +kernel⟩,
   ⟨ethernet (fun t => { t with ethParent := some (19, 77), ethHalf := [(19 * 16, some (2, 5, 6))] }), 19, 1522, ptp 0 true 3
     20499 0,
    by unfold State.Inv; decide +kernel⟩,
   ⟨ethernet (fun t => { t with ethParent := some (19, 77), ethHalf := [(19 * 16, some (3, 20499, 0))] }), 19, 64, ptp 8 false 3
     0 100, 20499, 0,
    by unfold State.Inv; decide +kernel⟩,
   ⟨ethernet (fun t => t), 19, 64, ptp 2 false 3 0 0,
    by unfold State.Inv; decide +kernel⟩,
   ⟨ethernet (fun t => { t with ptpTx := [((256 + 19) * 16 + 2, some ⟨2, 0, 1, 275, 9, 4000, 0⟩)] }), 19, 64, ptp 3 false 9 5001
     0, 500,
    by unfold State.Inv; decide +kernel⟩,
   ⟨ethernet (fun t =>
     { t with ptpTx := [((256 + 19) * 16 + 2, some ⟨2, 0, 1, 275, 9, 4000, 0⟩)], ethHalf := [(19 * 16 + 3, some (9, 5001, 100))] }),
     19, 64, ptp 10 false 9 0 101, 5001, 100, 500,
    by unfold State.Inv; decide +kernel⟩,
   ⟨ethernet (fun t => t), 19, 64, ptp 0xB false 9 0 0,
    by unfold State.Inv; decide +kernel⟩⟩

/-- States and operands that meet the hypotheses of each clause. -/
theorem witness_TrainExitsByLanesOrTimeout :
    (∃ (s : State), s.Inv ∧ s.mo.mode = Mode.train ∧ s.mo.controlLoaded = true ∧ s.missingLanes = [] ∧ s.cs.cut = false ∧
      s.bootFailed = false ∧ s.rd CS_CFG_WARM_POL 0 ≠ 2) ∧
    (∃ (s : State), s.Inv ∧ s.mo.mode = Mode.train ∧ s.cs.cut = false ∧ s.bootFailed = false ∧ s.mo.trainAt + s.rd
      MB_MODECFG_TRAIN_TIMEOUT 0 * 8000000 ≤ s.elapsed ∧ s.rd MB_MODECFG_TO_POLICY 0 = 1) ∧
    (∃ (s : State), s.Inv ∧ s.mo.mode = Mode.train ∧ s.cs.cut = false ∧ s.bootFailed = false ∧ s.mo.trainAt + s.rd
      MB_MODECFG_TRAIN_TIMEOUT 0 * 8000000 ≤ s.elapsed ∧ s.rd MB_MODECFG_TO_POLICY 0 = 0 ∧ s.rd CS_CFG_WARM_POL 0 ≠ 2) :=
  ⟨⟨dev .train,
    by unfold State.Inv; decide +kernel⟩,
   ⟨put (dev .train) [(MB_MODECFG_TO_POLICY, 0, 1)],
    by unfold State.Inv; decide +kernel⟩,
   ⟨put (dev .train) [(MB_MODECFG_TO_POLICY, 0, 0)],
    by unfold State.Inv; decide +kernel⟩⟩

/-- States and operands that meet the hypotheses of each clause. -/
theorem witness_TripChannelsFollowSourcesAndResets :
    (∃ (s : State), s.Inv ∧ s.protOn = true ∧ s.gridOk 125000 = true ∧ s.pe.passAt ≠ s.tai / 125000 + 1) ∧
    (∃ (s : State), s.Inv ∧ s.protOn = true ∧ s.gridOk 125000 = true ∧ s.pe.passAt ≠ s.tai / 125000 + 1 ∧ s.staged = []) ∧
    (∃ (s : State), s.Inv ∧ s.protOn = true) ∧
    (∃ (s : State) (c : ℕ), s.Inv ∧ s.protOn = true ∧ c < 32 ∧ s.flag TM_TCH_ASSERTED c = true ∧ s.minOnDone c = true ∧ s.rd
      TM_TCH_LATCH c = 0 ∧ s.srcState c = false) ∧
    (∃ (s : State) (c : ℕ), s.Inv ∧ s.protOn = true ∧ c < 32 ∧ s.flag TM_TCH_ASSERTED c = true ∧ s.minOnDone c = true ∧ s.rd
      TM_TCH_LATCH c = 1 ∧ (s.tch c).rstPend = true ∧ s.srcState c = false) ∧
    (∃ (s : State) (c : ℕ), s.Inv ∧ s.protOn = true ∧ c < 32 ∧ s.flag TM_TCH_ASSERTED c = true ∧ s.minOnDone c = true ∧ s.rd
      TM_TCH_LATCH c = 1 ∧ (s.tch c).rstPend = true ∧ s.srcState c = true) :=
  ⟨⟨{ dev .run with staged := [⟨none, obj 0x11 1 31, 1, [(0xFFFFFFFF, 5)]⟩] },
    by unfold State.Inv; decide +kernel⟩,
   ⟨dev .run,
    by unfold State.Inv; decide +kernel⟩,
   ⟨putk (dev .run) [(TM_MASK_W, 31, 128, 1), (TM_XIN_BITS_LO, 0, 0, 1)],
    by unfold State.Inv; decide +kernel⟩,
   ⟨put (dev .run) [(TM_TCH_ASSERTED, 31, 1), (TM_TCH_LATCH, 31, 0)], 31,
    by unfold State.Inv; decide +kernel⟩,
   ⟨{ put (dev .run) [(TM_TCH_ASSERTED, 31, 1), (TM_TCH_LATCHED, 31, 1), (TM_TCH_LATCH, 31, 1)] with tm := { TmSt.init with ch := [(31, ⟨1, true⟩)] } },
     31,
    by unfold State.Inv; decide +kernel⟩,
   ⟨{ putk (put (dev .run) [(TM_TCH_ASSERTED, 31, 1), (TM_TCH_LATCHED, 31, 1), (TM_TCH_LATCH, 31, 1)]) [(TM_MASK_W, 31, 128, 1), (TM_XIN_BITS_LO, 0, 0, 1)] with tm := { TmSt.init with ch := [(31, ⟨1, true⟩)] } },
     31,
    by unfold State.Inv; decide +kernel⟩⟩

/-- States and operands that meet the hypotheses of each clause. -/
theorem witness_WakeFollowsItsSequence :
    (∃ (s : State) (n : ℕ) (src : WakeSrc), s.Inv ∧ s.mo.mode = Mode.sentinel ∧ s.mo.sent = SentStep.asleep ∧ wakeSrcOf n = some src
      ∧ s.wakeEnabled src = true) ∧
    (∃ (s : State), s.Inv ∧ s.mo.mode = Mode.sentinel ∧ s.mo.sent = SentStep.asleep ∧ s.flag KP_WAKE_WAKEN_EN 0 = true) ∧
    (∃ (s : State) (r : Bool), s.Inv ∧ s.mo.sent = SentStep.waking r) ∧
    (∃ (s : State), s.Inv ∧ s.mo.mode = Mode.sentinel ∧ s.mo.sent = SentStep.locked) ∧
    (∃ (s : State), s.Inv ∧ s.mo.pllAt + 40000 ≤ s.elapsed ∧ s.mo.sent = SentStep.waking false) ∧
    (∃ (s : State), s.Inv ∧ s.mo.pllAt + 40000 ≤ s.elapsed ∧ s.mo.sent = SentStep.waking true) ∧
    (∃ (s : State), s.Inv ∧ s.mo.vddKeep = true ∧ s.flag KP_WAKE_ALARM_EN 0 = true ∧ s.kp.alarmSpent = false ∧ s.alarmPast =
      true ∧ s.mo.mode = Mode.keeper) :=
  ⟨⟨put (moded (dev .sentinel) (fun m => { m with sent := .asleep })) [(KP_WAKE_FLD_EN, 0, 1)], 7, .field,
    by unfold State.Inv; decide +kernel⟩,
   ⟨put (moded (dev .sentinel) (fun m => { m with sent := .asleep })) [(KP_WAKE_WAKEN_EN, 0, 1)],
    by unfold State.Inv; decide +kernel⟩,
   ⟨moded (dev .sentinel) (fun m => { m with sent := .waking true }), true,
    by unfold State.Inv; decide +kernel⟩,
   ⟨moded (dev .sentinel) (fun m => { m with sent := .locked }),
    by unfold State.Inv; decide +kernel⟩,
   ⟨moded (dev .sentinel) (fun m => { m with sent := .waking false, pllAt := 799999960000 }),
    by unfold State.Inv; decide +kernel⟩,
   ⟨moded (dev .sentinel) (fun m => { m with sent := .waking true, pllAt := 799999960000 }),
    by unfold State.Inv; decide +kernel⟩,
   ⟨kept (put (dev .keeper) [(KP_WAKE_ALARM_EN, 0, 1), (KP_WAKE_ALARM_SEC, 0, 500)]) (fun k =>
     { k with rtcSec := 500, rtcTick := 1 }),
    by unfold State.Inv; decide +kernel⟩⟩

end Sys2Proof.Tests
end

