-- ==== Sys2Proof/Proofs/Scope.lean ====
section
/-! A key of the register table read back as unit, field group and word, and the words that the reset state shows (R9). -/

namespace Sys2Proof.Machine

theorem regKey_grp (u g i w : Nat) : regKey u g i w / 4096 / 65536 % 256 = g % 256 := by
  unfold regKey
  omega

theorem regKey_word (u g i w : Nat) : regKey u g i w % 4096 = w % 4096 := by
  unfold regKey
  omega

/-- The index of an object has no part in its reset value. -/
theorem regDefault_regKey (u g i w : Nat) : regDefault (regKey u g i w) = resetWord u (g % 256) (w % 4096) := by
  have hu : regKey u g i w / 4096 / 65536 / 256 = u := by
    rw [Nat.div_div_eq_div_mul, Nat.div_div_eq_div_mul]
    exact regKey_unit u g i w
  rw [regDefault, hu, regKey_grp, regKey_word]

/-- The reset state stores no word, so each reads as the default of its key. -/
theorem State.word_reset (u g i w : Nat) : State.reset.word u g i w = resetWord u (g % 256) (w % 4096) :=
  regDefault_regKey u g i w

/-- Settles O3: a word of the reset state is the default of its key, and the key gives back unit, field group and word of the
object (R9). -/
theorem registersAtResetReadTheirFieldMaps : Obligations.RegistersAtResetReadTheirFieldMaps := by
  unfold Obligations.RegistersAtResetReadTheirFieldMaps
  refine ⟨fun u g i w _ hg _ hw => ?_, rfl, rfl⟩
  rw [State.word_reset, Nat.mod_eq_of_lt hg, Nat.mod_eq_of_lt hw]

end Sys2Proof.Machine
end

