-- ==== Sys2Proof/Proofs/Architecture.lean ====
section
/-! A mailbox command that may run takes the effect of its opcode once its checks pass (R80); a write of a protection object
while passes run is staged for the next pass boundary (R17, R73); an error that arises is recorded, and the faults of clocks and of
the protection watchdog raise theirs (R21, R40). -/

namespace Sys2Proof.Machine

open Sys2Proof

/-! A mailbox command that may run. -/

theorem State.Ready.mem {s : State} {ring idx : Nat} {c : Cmd} (hr : s.Ready ring idx c) : c ∈ s.mb.inflight :=
  List.mem_of_find?_eq_some hr.1

theorem State.Ready.fetched {s : State} {ring idx : Nat} {c : Cmd} (hr : s.Ready ring idx c) : c.phase = .fetched := by
  have h := List.find?_some hr.1
  simp only [Bool.and_eq_true, beq_iff_eq] at h
  exact h.2

theorem State.Ready.undecided {s : State} {ring idx : Nat} {c : Cmd} (hr : s.Ready ring idx c) : c.undecided = true := by
  rw [Cmd.undecided, hr.fetched]

/-- A command whose turn has come and whose checks pass takes its effect. -/
theorem State.Ready.runCmd {s : State} {ring idx : Nat} {c : Cmd} (hr : s.Ready ring idx c) {mine : Cmd → Bool}
    {checks : State → Cmd → Checks} {go : State → Cmd → State} (hm : mine c = true) (hv : s.verdict c (checks s c) = none) :
    s.runCmd ring idx mine checks go = .next (go s c) := by
  obtain ⟨hwait, hrun, hblocked, hrom, -⟩ := hr
  simp [State.runCmd, hwait, hm, hrun, hblocked, hrom, hv]

/-- A command in flight whose outcome is open stands there in the phase it is given. -/
theorem State.setPhase_mem {s : State} {c : Cmd} (hc : c ∈ s.mb.inflight) (hu : c.undecided = true) (p : CmdPhase) :
    { c with phase := p } ∈ (s.setPhase c.ring c.order p).mb.inflight :=
  List.mem_map.2 ⟨c, hc, by simp [Cmd.isThe, hu]⟩

/-! OBJ_WRITE and OBJ_MODIFY that pass their checks (R75). -/

theorem Cmd.Plain.isOp {c : Cmd} {op len : Nat} (hp : c.Plain op len) : isOp op c = true := beq_iff_eq.2 hp.1

theorem Cmd.Plain.buf {c : Cmd} {op len : Nat} (hp : c.Plain op len) : c.buf = false := hp.2.2.2.1

theorem Cmd.Plain.inline {c : Cmd} {op len : Nat} (hp : c.Plain op len) : c.inline len = true := by
  obtain ⟨-, -, -, hbuf, hlen⟩ := hp
  simp [Cmd.inline, hbuf, hlen]

/-- An OBJ_WRITE with inline words goes on to its write. -/
theorem exec_objWrite_inline {s : State} {ring idx : Nat} {buf : Option (List W32)} {c : Cmd} (hr : s.Ready ring idx c)
    (hp : c.Plain opWrite (4 + 4 * c.count)) (hn : c.count ≤ 11) (hw : c.wordsFit = true)
    (hv : s.verdict c (s.writeChecks c true (c.writeReq buf) none) = none) :
    exec (.objWrite ring idx buf) s = .next (s.goWrite c (c.writeReq buf)) := by
  show execObjWrite ring idx buf s = _
  exact hr.runCmd hp.isOp (by simpa [hp.buf, hp.inline, hn, hw] using hv)

/-- An OBJ_MODIFY of one word goes on to its write. -/
theorem exec_objModify_plain {s : State} {ring idx : Nat} {c : Cmd} (hr : s.Ready ring idx c) (hp : c.Plain opModify 12)
    (hn : c.count = 1) (hw : c.wordsFit = true) (hv : s.verdict c (s.writeChecks c true c.modifyReq none) = none) :
    exec (.objModify ring idx) s = .next (s.goWrite c c.modifyReq) := by
  show execObjModify ring idx s = _
  exact hr.runCmd hp.isOp (by simpa [hp.inline, hn, hw] using hv)

/-! Writes that wait (R17, R73). -/

theorem State.waits_protUnit {s : State} {u : Nat} (ho : s.protOn = true) (hb : s.mo.boot = .done) (hu : protUnit u = true) :
    s.waits u = true := by
  simp [State.waits, ho, hb, hu]

/-- A write that waits joins the staged ones: its command awaits the boundary, and no register word changes. -/
theorem State.goWrite_waits {s : State} {ring idx : Nat} {c : Cmd} (hr : s.Ready ring idx c) {r : WReq}
    (hw : s.waits r.unit = true) :
    (s.goWrite c r).Awaits c ∧ (s.goWrite c r).regs = s.regs ∧
      (s.goWrite c r).staged = s.staged ++ [⟨some c.ref, c.objid, r.first, r.ws⟩] := by
  rw [State.goWrite, if_pos hw]
  exact ⟨State.setPhase_mem (s := { s with staged := _ }) hr.mem hr.undecided .started, rfl, rfl⟩

/-- Settles O30: while passes run, the write of an OBJ_WRITE or OBJ_MODIFY of a protection object waits for its unit, so it is
staged and its command awaits the pass boundary (R17, R73). -/
theorem protectionSettingsWaitForThePass : Obligations.ProtectionSettingsWaitForThePass := by
  unfold Obligations.ProtectionSettingsWaitForThePass
  constructor
  · intro s ring idx buf c _ hr hp hn hw ho hb hu hv
    exact ⟨_, exec_objWrite_inline hr hp hn hw hv, State.goWrite_waits hr (State.waits_protUnit ho hb hu)⟩
  · intro s ring idx c _ hr hp hn hw ho hb hu hv
    exact ⟨_, exec_objModify_plain hr hp hn hw hv, State.goWrite_waits hr (State.waits_protUnit ho hb hu)⟩

/-! Errors that arise (R374), and the faults of R21 and R40. -/

/-- An error raised is among those that arrived. -/
theorem State.raiseErr_mem_arrivals (s : State) (code cls : Nat) : ⟨code, cls⟩ ∈ (s.raiseErr code cls).ec.arrivals :=
  List.mem_append_right _ (List.mem_singleton.2 rfl)

theorem State.raiseErr_mo {s : State} (hi : s.Inv) (code cls : Nat) : (s.raiseErr code cls).mo = s.mo :=
  (State.raiseErr_moves.keep hi .mo rfl).symm

theorem State.raiseErr_kp {s : State} (hi : s.Inv) (code cls : Nat) : (s.raiseErr code cls).kp = s.kp :=
  (State.raiseErr_moves.keep hi .kp rfl).symm

/-- A protection hardware fault sets the protection-failed flag, stops the heartbeat and raises 0x1080 of class D (R21). -/
theorem State.protFault_effect {s : State} (hi : s.Inv) :
    s.protFault.mo.protFail = true ∧ s.protFault.mo.heartbeat = false ∧ ⟨0x1080, 4⟩ ∈ s.protFault.ec.arrivals := by
  have hmo : s.protFault.mo = { s.mo with protFail := true, heartbeat := false } :=
    State.raiseErr_mo (s := { s with mo := { s.mo with protFail := true, heartbeat := false } }) hi _ _
  rw [hmo]
  exact ⟨rfl, rfl, State.raiseErr_mem_arrivals _ _ _⟩

theorem exec_clockLoss_running {s : State} (hr : s.tu.running = true) (hp : s.mo.protFail = false) :
    exec .clockLoss s = .next s.protFault :=
  if_pos (by simp [hr, hp])

theorem exec_protectionWatchdogExpiry_due {s : State} (ho : s.protOn = true) (hd : s.pe.lastPass + 200000 ≤ s.elapsed) :
    exec .protectionWatchdogExpiry s = .next s.protFault :=
  if_pos (by simp [ho, hd])

/-- With the core die powered, a crystal that stops hands the counter to the RC oscillator and raises 0x0180 of class A (R40). -/
theorem exec_crystalStop_powered {s : State} (hk : s.mo.vddKeep = true) (hf : s.kp.fromRc = false) (hm : s.mo.mode ≠ .keeper)
    (hn : s.mo.resetN = true) :
    exec .crystalStop s = .next (State.raiseErr { s with kp := { s.kp with fromRc := true } } 0x0180 1) := by
  show execCrystalStop s = _
  simp [execCrystalStop, hk, hf, hm, hn]

/-- Settles O25: a clock loss and the protection watchdog are one protection hardware fault (R21); a crystal that stops raises its
error, which leaves the Keeper as it was set (R40). -/
theorem clockAndWatchdogFaultsStopHeartbeat : Obligations.ClockAndWatchdogFaultsStopHeartbeat := by
  unfold Obligations.ClockAndWatchdogFaultsStopHeartbeat
  refine ⟨?clockLoss, ?watchdog, ?crystal⟩
  case clockLoss => exact fun s hi hr hp => ⟨_, exec_clockLoss_running hr hp, State.protFault_effect hi⟩
  case watchdog => exact fun s hi ho hd => ⟨_, exec_protectionWatchdogExpiry_due ho hd, State.protFault_effect hi⟩
  case crystal =>
    intro s hi hk hf hm hn
    have hkp := State.raiseErr_kp (s := { s with kp := { s.kp with fromRc := true } }) hi 0x0180 1
    exact ⟨_, exec_crystalStop_powered hk hf hm hn, congrArg (·.fromRc) hkp, State.raiseErr_mem_arrivals _ _ _⟩

end Sys2Proof.Machine
end

