-- ==== Sys2Proof/Proofs/PowerAndReset.lean ====
section
/-! Supplies and RESET_N (R32, R35, R50, R539, R542): what the Keeper's supply, the reset ball and the core supply leave. -/

namespace Sys2Proof.Machine

open Sys2Proof

/-! Registers: a write keeps the invariant, and what a reset keeps of them. -/

theorem State.wr_inv {s : State} (hi : s.Inv) (f : Field) (i v : Nat) : (s.wr f i v).Inv := ⟨mset_ok hi.1, hi.2⟩

/-- A filter that drops every entry of a key leaves it unlisted. -/
theorem mget_filter_dropped {α : Type} {d : Nat → α} {p : Nat × α → Bool} {k : Nat} (hp : ∀ v, p (k, v) = false) :
    ∀ m : AMap α, mget d (m.filter p) k = d k
  | [] => rfl
  | (k', v) :: t => by
    rw [List.filter_cons]
    split
    · next hkept =>
      have hne : k ≠ k' := by
        rintro rfl
        exact absurd hkept (by simp [hp])
      rw [mget_cons, if_neg hne, mget_filter_dropped hp t, ite_self]
    · exact mget_filter_dropped hp t

theorem regKey_object (u g i w : Nat) : regKey u g i w / 2 ^ 28 = u * 256 + g % 256 := by
  unfold regKey
  omega

/-- Only the Keeper's words and the field calibration constants outlast RESET_N (R35, R123). -/
theorem keptReg_regKey {u g : Nat} (i w : Nat) (hu : u ≠ 1) (hg : g < 256) (hc : ¬(u = 8 ∧ (g = 0x11 ∨ g = 0x12))) :
    keptReg (regKey u g i w) = false := by
  simp only [keptReg, regKey_object, Bool.or_eq_false_iff, beq_eq_false_iff_ne]
  omega

theorem State.word_cleared (s : State) {u g : Nat} (i w : Nat) (hu : u ≠ 1) (hg : g < 256)
    (hc : ¬(u = 8 ∧ (g = 0x11 ∨ g = 0x12))) : s.cleared.word u g i w = resetWord u g (w % 4096) := by
  have hdropped : s.cleared.word u g i w = regDefault (regKey u g i w) :=
    mget_filter_dropped (fun _ => keptReg_regKey i w hu hg hc) s.regs
  rw [hdropped, regDefault_regKey, Nat.mod_eq_of_lt hg]

/-! RESET_N released. -/

/-- The state in which BOOT begins, before the record of the mode change is handed over (R50). -/
def State.bootBegun (s : State) : State :=
  let prev := if s.mo.mode == .keeper then Mode.keeper else s.mo.prev
  let cause := if s.mo.mode == .keeper then 1 else 2
  let s0 := s.cleared.timeLoad
  State.scBoot { s0 with
    mo := { Modes.init with prev := prev, cause := cause, entry := s0.now }, kp := { s0.kp with wakeNLow := false, rcErr := false } }

theorem State.bootBegun_inv {s : State} (hi : s.Inv) : s.bootBegun.Inv := State.cleared_moves.inv hi

/-- From `bootBegun` on, RESET_N release only tells of the mode change, and of a crystal that stopped meanwhile (R40). -/
theorem exec_resetNRelease_tells {s : State} (hr : s.mo.resetN = false) (hk : s.mo.vddKeep = true) :
    ∃ t, exec .resetNRelease s = .next t ∧
      Moves 0x1000000000000000000000000000000000000000000000000000000000000000000006c00 s.bootBegun t := by
  refine ⟨_, if_neg (by simp [hr, hk]), Moves.ite ?_ ?_⟩
  · exact State.notify_moves.trans (State.raiseErr_moves.mono rfl)
  · exact State.notify_moves

/-- Settles O20: each supply or reset event leaves the state that its rule names; what RESET_N resets reads the default of its key,
and after its release only the record of the mode change follows (R32, R35, R50, R539, R542). -/
theorem powerAndResetEventsAct : Obligations.PowerAndResetEventsAct := by
  unfold Obligations.PowerAndResetEventsAct
  refine ⟨?keepApplied, ?keepLoss, ?resetLow, ?coreLow, ?release⟩
  case keepApplied => exact fun s _ hk => ⟨_, if_neg (by simp [hk]), rfl, rfl⟩
  case keepLoss => exact fun s _ => ⟨_, rfl, rfl, rfl⟩
  case resetLow =>
    intro s _ hr hm
    refine ⟨_, (if_neg (by simp [hr])).trans (if_neg (by simp [hm])), rfl, rfl, rfl, rfl, rfl, rfl, rfl, ?_⟩
    exact fun u g i w hu hg hc => s.word_cleared i w hu hg hc
  case coreLow => exact fun s _ hm => ⟨_, if_neg (by simp [hm]), rfl, rfl, rfl, rfl⟩
  case release =>
    intro s hi hr hk
    obtain ⟨t, ht, hmoves⟩ := exec_resetNRelease_tells hr hk
    have hmo : t.mo = s.bootBegun.mo := (hmoves.keep (State.bootBegun_inv hi) .mo rfl).symm
    have htu : t.tu = s.bootBegun.tu := (hmoves.keep (State.bootBegun_inv hi) .tu rfl).symm
    have hkp : t.kp = s.bootBegun.kp := (hmoves.keep (State.bootBegun_inv hi) .kp rfl).symm
    refine ⟨t, ht, by rw [hmo]; rfl, by rw [hmo]; rfl, by rw [hmo]; rfl, ?_, by rw [htu]; rfl, ?_, by rw [hkp]; rfl⟩
    · rw [hmo]
      simp [State.bootBegun, State.scBoot]
    · rw [State.holdover, htu]
      rfl

end Sys2Proof.Machine
end

