-- ==== Sys2Proof/Proofs/ModeChange.lean ====
section
/-! The mode code changes (R28, R30) and SAFE is entered (Table 2.2): what both leave of the modes. -/

namespace Sys2Proof.Machine

open Sys2Proof

/-! One change of the mode code, by its parts. -/

/-- The mode code has changed, and nothing has followed yet. -/
def State.modeCoded (s : State) (m : Mode) (cause : Nat) : State :=
  { s with mo := { s.mo with mode := m, prev := s.mo.mode, cause := cause, entry := s.now, pend := none, pendCmd := none } }

/-- Then COMMISSION is left, and the command that waited for the change is answered (R29, R32, R556). -/
def State.modeAnswered (s : State) (m : Mode) (cause : Nat) : State :=
  let coded := s.modeCoded m cause
  let left := if s.inCommission && m != .commission && m != .letMode then coded.leaveCommission else coded
  if s.mo.pend == some m then left.settle s.mo.pendCmd .ok m.code 0 (some s.now) else left.settle s.mo.pendCmd .busyRetry 0 0 none

/-- A device bound by R34 that is in RUN has a change to COMMISSION pending (R531). -/
def State.boundPend (s : State) (m : Mode) : State :=
  if m == .run && s.boundByR34 then { s with mo := { s.mo with pend := some .commission } } else s

theorem State.setMode_eq (s : State) (m : Mode) (cause : Nat) :
    s.setMode m cause =
      (((s.modeAnswered m cause).boundPend m).notify 0x02 1 0 s.mo.mode.code m.code cause 0).sbCause HE_INTCTL_SB_MODE 0 := rfl

theorem State.modeAnswered_moves {s : State} {m : Mode} {cause : Nat} :
    Moves 0x10001000000000000000000000000000000000000000000000000010000020300000006cd7c00 (s.modeCoded m cause)
      (s.modeAnswered m cause) := by
  have hleft : Moves 0x10001000000000000000000000000000000000000000000000000010000020300000006cd7c00 (s.modeCoded m cause)
      (if s.inCommission && m != .commission && m != .letMode then (s.modeCoded m cause).leaveCommission else s.modeCoded m cause) :=
    Moves.ite State.leaveCommission_moves Moves.refl
  exact Moves.ite (hleft.trans (State.settle_moves.mono rfl)) (hleft.trans (State.settle_moves.mono rfl))

theorem State.boundPend_inv {s : State} (hi : s.Inv) (m : Mode) : (s.boundPend m).Inv := by
  unfold State.boundPend
  split <;> exact hi

/-- What follows the answer is told: a notification and a cause of the Scoreboard. -/
theorem State.setMode_tells {s : State} {m : Mode} {cause : Nat} :
    Moves 0x1000000000000000000000000000000000000000000000000000000000000000000006c00 ((s.modeAnswered m cause).boundPend m)
      (s.setMode m cause) := by
  rw [State.setMode_eq]
  exact State.notify_moves.trans (State.sbCause_moves.mono rfl)

theorem State.boundByR34_eq {s t : State} (h : t.sc = s.sc) : t.boundByR34 = s.boundByR34 := by
  rw [State.boundByR34, State.boundByR34, State.opened, State.opened, h]

/-- A change of the mode code sets the mode, what it was before, the cause and the entry time, and ends the transition in
progress; the rest of the modes stays. -/
theorem State.setMode_mo {s : State} (hi : s.Inv) (m : Mode) (cause : Nat) :
    (s.setMode m cause).mo =
      { s.mo with
        mode := m, prev := s.mo.mode, cause := cause, entry := s.now, pendCmd := none
        pend := if m == .run && s.boundByR34 then some .commission else none } := by
  have ha : (s.modeAnswered m cause).Inv := State.modeAnswered_moves.inv hi
  have hmo : (s.modeAnswered m cause).mo = (s.modeCoded m cause).mo := (State.modeAnswered_moves.keep hi .mo rfl).symm
  have hsc : (s.modeAnswered m cause).sc = s.sc := (State.modeAnswered_moves.keep hi .access rfl).symm
  rw [← State.setMode_tells.keep (State.boundPend_inv ha m) .mo rfl, State.boundPend, State.boundByR34_eq hsc]
  split
  · rw [hmo]
    rfl
  · exact hmo

/-- The commands in flight after a change of the mode code are those that the answer left. -/
theorem State.setMode_inflight {s : State} (hi : s.Inv) (m : Mode) (cause : Nat) :
    (s.setMode m cause).mb.inflight = (s.modeAnswered m cause).mb.inflight := by
  have ha : (s.modeAnswered m cause).Inv := State.modeAnswered_moves.inv hi
  rw [← State.setMode_tells.keep (State.boundPend_inv ha m) .phases rfl, State.boundPend]
  split <;> rfl

/-! SAFE. -/

/-- A Let or a SENTINEL entry in progress has ended, control has stopped, and its outputs stand at their safe states. -/
def State.madeSafe (s : State) : State :=
  let stopped := (s.letOver.lgCancel 4).sentUndo.dropCycles.rpDiscard.rpHoldAll
  (State.allSafe { stopped with lg := { stopped.lg with running := false } }).lgShow.leSafe.axSafe

theorem State.madeSafe_moves {s : State} :
    Moves 0x1000100000000000000000000000000000000000000000000000001000103030000003fdffc80 s s.madeSafe := by
  unfold State.madeSafe
  refine Moves.trans ?_ (State.axSafe_moves.mono rfl)
  refine Moves.trans ?_ (State.leSafe_moves.mono rfl)
  refine Moves.trans ?_ (State.lgShow_moves.mono rfl)
  refine Moves.trans (Moves.lg ?_ rfl) (State.allSafe_moves.mono rfl)
  refine Moves.trans ?_ (State.rpHoldAll_moves.mono rfl)
  refine Moves.trans ?_ (State.rpDiscard_moves.mono rfl)
  refine Moves.trans ?_ (State.dropCycles_moves.mono rfl)
  refine Moves.trans ?_ (State.sentUndo_moves.mono rfl)
  exact (State.letOver_moves.mono rfl).trans (State.lgCancel_moves.mono rfl)

/-- The mode reads SAFE; a Let that ended here still owes its completions, and the error queue is clear (R82, R377). -/
def State.safeEntered (s : State) (cause : Nat) : State :=
  let coded := s.madeSafe.setMode .safe cause
  let owed := if coded.mo.letClass = 0 then coded.mo.letOwed else coded.mo.letClass
  { coded with
    mo := { coded.mo with letClass := 0, letOwed := owed, letResumed := false }
    ec := { coded.ec with handling := [], queue := [], ovf := false } }

theorem State.enterSafe_eq {s : State} (hs : s.mo.mode ≠ .safe) (hk : s.mo.mode ≠ .keeper) (hb : s.mo.mode ≠ .boot) (cause : Nat) :
    s.enterSafe cause = if s.errClass = 0 then s.safeEntered cause else (s.safeEntered cause).sbCause HE_INTCTL_SB_ERR 1 :=
  if_neg (by simp [hs, hk, hb])

/-- SAFE entry from a mode that has it to enter sets mode, cause and the mode before (Table 2.2). -/
theorem State.enterSafe_mode {s : State} (hi : s.Inv) (hs : s.mo.mode ≠ .safe) (hk : s.mo.mode ≠ .keeper) (hb : s.mo.mode ≠ .boot)
    (cause : Nat) :
    (s.enterSafe cause).mo.mode = .safe ∧ (s.enterSafe cause).mo.cause = cause ∧ (s.enterSafe cause).mo.prev = s.mo.mode := by
  have hmade : s.madeSafe.Inv := State.madeSafe_moves.inv hi
  have hprev : s.madeSafe.mo.mode = s.mo.mode := (State.madeSafe_moves.keep hi .mode rfl).1.symm
  have hset := State.setMode_mo hmade .safe cause
  have hsafe : (s.safeEntered cause).Inv := State.setMode_moves.inv hmade
  have hentered : Moves 0x1000000000000000000000000000000000000000000000000000000000000000000000800 (s.safeEntered cause)
      (s.enterSafe cause) := by
    rw [State.enterSafe_eq hs hk hb]
    exact Moves.ite Moves.refl State.sbCause_moves
  rw [← hentered.keep hsafe .mo rfl]
  exact ⟨congrArg (·.mode) hset, congrArg (·.cause) hset, (congrArg (·.prev) hset).trans hprev⟩

end Sys2Proof.Machine
end

