-- ==== Sys2Proof/Proofs/StartUp.lean ====
section
/-! The steps of BOOT and the ends of TRAIN (Table 2.10, Table 2.11; R50 to R55, R522, R562). -/

namespace Sys2Proof.Machine

open Sys2Proof

theorem State.bootAt_iff {s : State} {b : BootStep} :
    s.bootAt b = true ↔ s.mo.mode = .boot ∧ s.mo.resetN = true ∧ s.mo.rails = true ∧ s.mo.boot = b := by
  simp [State.bootAt, and_assoc]

/-! ROM, firmware, Captain. -/

/-- No slot verifies without a good signature. -/
theorem State.fwGood_unsigned (s : State) (b : Bool) : s.fwGood b false false = false := by
  cases b
  · unfold State.fwGood
    split <;> rfl
  · unfold State.fwGood
    split <;> rfl

theorem State.fwGood_slotA {s : State} {x : FwSlot} (hx : s.sc.slotA = some x) (hv : s.sc.fwSvn ≤ x.svn) (okB : Bool) :
    s.fwGood false true okB = true := by
  simp [State.fwGood, hx, hv]

/-- Firmware of which no slot verifies leads to ROM recovery (R522). -/
theorem exec_firmwareVerified_none {s : State} (hb : s.bootAt .firmware = true) :
    exec (.firmwareVerified false false) s = .next (s.bootTo .recovery 2) := by
  show execFirmwareVerified false false s = _
  have hnone : ∀ order : List Bool, order.find? (fun b => s.fwGood b false false) = none := fun order =>
    List.find?_eq_none.2 fun b _ => by simp [s.fwGood_unsigned b]
  simp [execFirmwareVerified, hb, hnone]

/-- With no slot pending, the slot that last booted is the one judged (R522). -/
theorem exec_firmwareVerified_booting {s : State} {b okA okB : Bool} (hb : s.bootAt .firmware = true) (hp : s.sc.fwPend = false)
    (hs : s.sc.fwSlot = b) (hg : s.fwGood b okA okB = true) :
    exec (.firmwareVerified okA okB) s = .next (State.bootTo { s with sc := { s.sc with fwBooted := b } } .captain s.mo.bootstat) := by
  show execFirmwareVerified okA okB s = _
  simp [execFirmwareVerified, hb, hp, hs, hg]

/-- After a boot from the pending slot, FW_SVN and the booting slot follow it (R523). -/
def State.fwFollowed (s : State) : State :=
  match s.runningFw with
  | some x =>
    if s.sc.fwPend && s.sc.fwBooted != s.sc.fwSlot then
      { s with sc := { s.sc with fwSvn := max s.sc.fwSvn x.svn, fwSlot := s.sc.fwBooted, fwPend := false } }
    else s
  | none => s

theorem State.fwFollowed_mo {s : State} (hi : s.Inv) : s.fwFollowed.Inv ∧ s.fwFollowed.mo = s.mo := by
  unfold State.fwFollowed
  split
  · split
    · exact ⟨hi, rfl⟩
    · exact ⟨hi, rfl⟩
  · exact ⟨hi, rfl⟩

theorem exec_captainReady_due {s : State} (hb : s.bootAt .captain = true) :
    exec .captainReady s =
      .next (State.fwFollowed { s with mo := { s.mo with captain := true, boot := .sram } }).deliverHeld :=
  if_neg (by simp [hb])

/-- The Captain that has come up opens the mailbox (R51). -/
theorem exec_captainReady_mo {s : State} (hi : s.Inv) (hb : s.bootAt .captain = true) :
    ∃ t, exec .captainReady s = .next t ∧ t.mo = { s.mo with captain := true, boot := .sram } := by
  obtain ⟨hi', hmo⟩ := State.fwFollowed_mo (s := { s with mo := { s.mo with captain := true, boot := .sram } }) hi
  exact ⟨_, exec_captainReady_due hb, (State.deliverHeld_moves.keep hi' .mo rfl).symm.trans hmo⟩

/-! A failure that leads to SAFE at TRAIN exit. -/

theorem State.bootError_mo {s : State} (hi : s.Inv) (stat : Nat) :
    (s.bootError stat).mo = { s.mo with bootFail := true, bootCode := stat, bootstat := stat } :=
  State.raiseErr_mo (s := { s with mo := { s.mo with bootFail := true, bootCode := stat, bootstat := stat } }) hi _ _

theorem State.bootError_arrives (s : State) (stat : Nat) : ⟨0x0284, 4⟩ ∈ (s.bootError stat).ec.arrivals :=
  State.raiseErr_mem_arrivals _ _ _

/-! The last-resort operation of the event recorder (R390, R391). -/

theorem State.evError_ev {s : State} (hi : s.Inv) (code cls : Nat) (t : Stamp) (p0 p1 p2 : Nat) :
    (s.evError code cls t p0 p1 p2).ev = s.ev :=
  (State.evError_moves.keep hi .ev rfl).symm

/-- A record in the last-resort ring leaves last-resort operation as it is. -/
theorem State.evLast_lr {s : State} (hi : s.Inv) (r : EvRec) : (s.evLast r).ev.lr = s.ev.lr := by
  unfold State.evLast
  split
  · rfl
  · split
    · rfl
    · extract_lets t first p a t0 seq e kpOld kp evOld s1 s2
      split
      · rw [State.evError_ev (show s2.Inv from hi)]
        rfl
      · rfl

/-- In last-resort operation a record goes to the last-resort ring, and the operation goes on. -/
theorem State.evWrite_lr {s : State} (hi : s.Inv) (hl : s.ev.lr = true) (r : EvRec) : (s.evWrite r).ev.lr = true := by
  rw [State.evWrite, if_pos hl, State.evLast_lr hi, hl]

theorem State.evWrite_all_lr {l : List EvRec} {s : State} (hi : s.Inv) (hl : s.ev.lr = true) :
    (l.foldl State.evWrite s).Inv ∧ (l.foldl State.evWrite s).ev.lr = true := by
  induction l generalizing s with
  | nil => exact ⟨hi, hl⟩
  | cons r t ih => exact ih (State.evWrite_moves.inv hi) (State.evWrite_lr hi hl r)

theorem State.evUnstage_lr {s : State} (hi : s.Inv) (hl : s.ev.lr = true) : s.evUnstage.ev.lr = true := by
  unfold State.evUnstage
  extract_lets l r evOld s0 s1
  obtain ⟨hi1, hl1⟩ := State.evWrite_all_lr (l := s.ev.staging) (s := s0) hi hl
  split
  · exact hl1
  · have hw : ((s1.evWrite r).evLost l.cnt).Inv := State.evLost_moves.inv (State.evWrite_moves.inv hi1)
    rw [EvRec.error, State.evError_ev hw]
    exact State.evWrite_lr hi1 hl1 r

/-- Once last-resort operation is asked for, it is in force. -/
theorem State.evLastResort_lr {s : State} (hi : s.Inv) (cause p1 : Nat) (tell : Bool) :
    (s.evLastResort cause p1 tell).ev.lr = true := by
  unfold State.evLastResort
  split
  · assumption
  · extract_lets r evOld s0 s1 s2
    have hi1 : s1.Inv := State.evLast_moves.inv (s := s0) hi
    have hl1 : s1.ev.lr = true := State.evLast_lr (s := s0) hi r
    have h2 : s2.Inv ∧ s2.ev = s1.ev := by
      unfold s2
      split
      · exact ⟨State.evError_moves.inv hi1, State.evError_ev hi1 ..⟩
      · exact ⟨hi1, rfl⟩
    exact State.evUnstage_lr h2.1 (h2.2 ▸ hl1)

/-! SDRAM training ends (R50, R52). -/

/-- How the training ended is noted, and the configuration step follows where BOOT waited for it. -/
def State.sdramNoted (s : State) (ok : Bool) : State :=
  { s with mo := { s.mo with
    sdram := some ok, boot := if s.mo.boot == .sdram then .config else s.mo.boot
    controlLoaded := s.mo.boot == .protection || s.mo.boot == .done } }

theorem State.sdramDue_of_bootAt {s : State} (hb : s.bootAt .sdram = true) (hn : s.mo.sdram = none) : s.sdramDue = true := by
  obtain ⟨hmode, hreset, hrails, hboot⟩ := State.bootAt_iff.1 hb
  simp [State.sdramDue, hn, hmode, hreset, hrails, hboot]

theorem State.sdramNoted_boot {s : State} (hb : s.bootAt .sdram = true) (ok : Bool) : (s.sdramNoted ok).mo.boot = .config := by
  simp [State.sdramNoted, (State.bootAt_iff.1 hb).2.2.2]

theorem exec_sdramTrained_ok {s : State} (hd : s.sdramDue = true) (hi : s.Inv) (mib : Nat) (slotOk : Bool) :
    ∃ t, exec (.sdramTrained true mib slotOk) s = .next t ∧ t.mo = (s.sdramNoted true).mo :=
  ⟨_, if_neg (by simp [hd]), ((State.evBegin_moves (s := (s.sdramNoted true).wr MB_CAP_SDRAM_MIB 0 mib)).keep
    (State.wr_inv (s := s.sdramNoted true) hi _ _ _) .mo rfl).symm⟩

theorem exec_sdramTrained_failed {s : State} (hd : s.sdramDue = true) (mib : Nat) (slotOk : Bool) :
    exec (.sdramTrained false mib slotOk) s = .next ((((s.sdramNoted false).bootError 5).evBegin).evLastResort 1 0 true) :=
  if_neg (by simp [hd])

/-! The configuration is applied (R50, R52, R562). -/

/-- Loading the logic image may set BOOTSTAT, and nothing else of the modes. -/
theorem State.bootLogic_mo {s : State} (hi : s.Inv) (ok : Bool) :
    (s.bootLogic ok).mo = s.mo ∨ (s.bootLogic ok).mo = { s.mo with bootstat := 6 } := by
  have hshown : ∀ x : State, x.Inv → (State.bankShow (State.homeTasks x) 0).mo = x.mo := fun x hx =>
    ((State.homeTasks_moves.trans (State.bankShow_moves.mono rfl)).keep hx .mo rfl).symm
  unfold State.bootLogic
  split
  · exact .inl (hshown _ hi)
  · split
    · exact .inr (hshown _ hi)
    · split
      · exact .inl (State.bankShow_moves.keep hi .mo rfl).symm
      · exact .inl (hshown _ hi)

theorem State.markerRecover_unmarked {s : State} (hm : s.sc.marker = false) : s.markerRecover = s :=
  if_pos (by simp [hm])

/-- With no committed image the logic image is loaded and the device awaits a configuration load. -/
theorem exec_bootConfigApply_none {s : State} (hb : s.bootAt .config = true) (hc : s.mo.coldBoot = false) (hm : s.sc.marker = false)
    (hn : s.mb.committed = none) (ho : s.mb.older = []) (ok : Bool) (fac fld : List Nat) :
    exec (.bootConfigApply 0 ok fac fld) s = .next (((s.calFound fac fld).bootLogic ok).bootTo .awaitConfig 6) := by
  have hlist : ((s.calFound fac fld).mb.committed.toList ++ (s.calFound fac fld).mb.older).drop 0 = [] := by
    show (s.mb.committed.toList ++ s.mb.older).drop 0 = []
    simp [hn, ho]
  show execBootConfigApply 0 ok fac fld s = _
  rw [execBootConfigApply, if_neg (by simp [hb]), if_neg (by simp [hc]), State.markerRecover_unmarked hm]
  simp only [hlist]

/-- The newest committed image and the logic image have taken effect, and the paths have begun. -/
def State.imageTaken (s : State) (im : CfgImage) (ok : Bool) (fac fld : List Nat) : State :=
  let found := s.calFound fac fld
  let named : State := { found with
    mb := { found.mb with committed := some im, older := found.mb.older }, sc := { found.sc with unsignedCfg := !im.signed } }
  ((named.takeImage im).bootLogic ok).bootPaths

theorem exec_bootConfigApply_image {s : State} {im : CfgImage} (hb : s.bootAt .config = true) (hc : s.mo.coldBoot = false)
    (hm : s.sc.marker = false) (him : s.mb.committed = some im) (ok : Bool) (fac fld : List Nat) :
    exec (.bootConfigApply 0 ok fac fld) s =
      .next { s.imageTaken im ok fac fld with
        mo := { (s.imageTaken im ok fac fld).mo with
          boot := .protection, controlLoaded := (s.imageTaken im ok fac fld).mo.sdram.isSome } } := by
  have hlist : ((s.calFound fac fld).mb.committed.toList ++ (s.calFound fac fld).mb.older).drop 0 = im :: s.mb.older := by
    show (s.mb.committed.toList ++ s.mb.older).drop 0 = _
    simp [him]
  show execBootConfigApply 0 ok fac fld s = _
  rw [execBootConfigApply, if_neg (by simp [hb]), if_neg (by simp [hc]), State.markerRecover_unmarked hm]
  simp only [hlist]
  rfl

theorem State.bootLogic_sdram {s : State} (hi : s.Inv) (ok : Bool) : (s.bootLogic ok).mo.sdram = s.mo.sdram := by
  obtain hmo | hmo := State.bootLogic_mo hi ok <;> rw [hmo]

/-- Taking the images leaves how SDRAM training stands, and the image named is the committed one. -/
theorem State.imageTaken_keeps {s : State} (hi : s.Inv) (im : CfgImage) (ok : Bool) (fac fld : List Nat) :
    (s.imageTaken im ok fac fld).mo.sdram = s.mo.sdram ∧ (s.imageTaken im ok fac fld).mb.committed = some im := by
  unfold State.imageTaken
  extract_lets found mbOld scOld named
  have htaken : (named.takeImage im).Inv := State.takeImage_moves.inv (s := named) hi
  have hlogic : ((named.takeImage im).bootLogic ok).Inv := State.bootLogic_moves.inv htaken
  constructor
  · rw [← State.bootPaths_moves.keep hlogic .mo rfl, State.bootLogic_sdram htaken,
      ← State.takeImage_moves.keep (s := named) hi .mo rfl]
    rfl
  · rw [← (State.bootPaths_moves.keep hlogic .images rfl).2.1, ← (State.bootLogic_moves.keep htaken .images rfl).2.1,
      ← (State.takeImage_moves.keep (s := named) hi .images rfl).2.1]

/-! TRAIN is entered (R50). -/

/-- The sentinel path is armed, and TRAIN_TIMEOUT counts from here. -/
def State.trainEntered (s : State) : State :=
  let coded := s.setMode .train 0xC
  { coded with
    mo := { coded.mo with
      boot := .done, trainAt := coded.elapsed, sentArmed := true
      bootstat := if coded.mo.bootstat = 6 then coded.mo.bootCode else coded.mo.bootstat
      heartbeat := if coded.mo.coldBoot then coded.mo.heartbeat else !coded.mo.protFail }
    pe := if coded.mo.coldBoot then coded.pe else { coded.pe with lastPass := coded.elapsed } }

theorem exec_localProtectionReady_mo {s : State} (hi : s.Inv) (hb : s.bootAt .protection = true) :
    ∃ t, exec .localProtectionReady s = .next t ∧ t.mo = s.trainEntered.mo := by
  have hmoves : Moves 0x12c39000 s.trainEntered (s.trainEntered.controlSafe.chStart 1) :=
    (State.controlSafe_moves.mono rfl).trans (State.chStart_moves.mono rfl)
  exact ⟨_, if_neg (by simp [hb]), (hmoves.keep (State.setMode_moves.inv hi) .mo rfl).symm⟩

/-- Settles O21: in the step that BOOT stands at, each row leads on or ends as Table 2.11 states; what a step sets off beyond the
modes (records, last-resort operation, images, logic) leaves the step it leads to. -/
theorem bootStepsFollowStartUpTimeline : Obligations.BootStepsFollowStartUpTimeline := by
  unfold Obligations.BootStepsFollowStartUpTimeline
  refine ⟨?rom, ?firmware, ?captain, ?sram, ?sdram, ?config, ?protection⟩
  case rom =>
    intro s _ hb
    have hmode := (State.bootAt_iff.1 hb).1
    exact ⟨⟨_, if_pos hb, rfl, hmode⟩, ⟨_, if_pos hb, rfl, rfl, hmode⟩⟩
  case firmware =>
    intro s _ hb
    refine ⟨⟨_, exec_firmwareVerified_none hb, rfl, rfl⟩, fun x hp hs hx hv => ?_⟩
    exact ⟨_, exec_firmwareVerified_booting hb hp (b := false) (by simp [hs]) (State.fwGood_slotA hx hv true), rfl, rfl⟩
  case captain =>
    intro s hi hb
    obtain ⟨t, ht, hmo⟩ := exec_captainReady_mo hi hb
    exact ⟨t, ht, by rw [hmo], by rw [hmo], by rw [hmo]; exact (State.bootAt_iff.1 hb).1⟩
  case sram =>
    intro s hi hb
    refine ⟨fun hc => ⟨_, (if_neg (by simp [hb])).trans (if_pos (by simp [hc])), rfl, rfl, rfl⟩,
      ⟨_, (if_neg (by simp [hb])).trans (if_neg (by simp)), rfl, rfl⟩,
      ⟨_, (if_neg (by simp [hb])).trans (if_neg (by simp)), rfl, ?_, ?_, s.bootError_arrives 4⟩⟩
    · exact congrArg (·.bootFail) (State.bootError_mo hi 4)
    · exact congrArg (·.bootstat) (State.bootError_mo hi 4)
  case sdram =>
    intro s mib slotOk hi hb hn _
    have hdue := State.sdramDue_of_bootAt hb hn
    have herr : ((s.sdramNoted false).bootError 5).Inv := State.bootError_moves.inv (s := s.sdramNoted false) hi
    have hmo : (((s.sdramNoted false).bootError 5).evBegin.evLastResort 1 0 true).mo = ((s.sdramNoted false).bootError 5).mo :=
      ((State.evBegin_moves.trans (State.evLastResort_moves.mono rfl)).keep herr .mo rfl).symm
    have herrmo := State.bootError_mo (s := s.sdramNoted false) hi 5
    obtain ⟨t, ht, hok⟩ := exec_sdramTrained_ok hdue hi mib slotOk
    refine ⟨⟨t, ht, by rw [hok]; exact State.sdramNoted_boot hb true⟩, ⟨_, exec_sdramTrained_failed hdue mib slotOk, ?_⟩⟩
    rw [hmo, herrmo]
    exact ⟨State.sdramNoted_boot hb false, rfl, rfl, State.evLastResort_lr (State.evBegin_moves.inv herr) 1 0 true⟩
  case config =>
    intro s fac fld hi hb hc _
    constructor
    · intro hn ho hm
      refine ⟨_, exec_bootConfigApply_none hb hc hm hn ho true fac fld, rfl, rfl, ?_⟩
      obtain hmo | hmo := State.bootLogic_mo (s := s.calFound fac fld) hi true
      · exact (congrArg (·.mode) hmo).trans (State.bootAt_iff.1 hb).1
      · exact (congrArg (·.mode) hmo).trans (State.bootAt_iff.1 hb).1
    · intro im him hm
      obtain ⟨hsdram, him'⟩ := State.imageTaken_keeps hi im true fac fld
      exact ⟨_, exec_bootConfigApply_image hb hc hm him true fac fld, rfl, congrArg Option.isSome hsdram, him'⟩
  case protection =>
    intro s hi hb
    obtain ⟨t, ht, hmo⟩ := exec_localProtectionReady_mo hi hb
    have hset := State.setMode_mo hi .train 0xC
    have helapsed : (s.setMode .train 0xC).elapsed = s.elapsed := (State.setMode_moves.keep hi .elapsed rfl).symm
    refine ⟨t, ht, ?_⟩
    rw [hmo]
    exact ⟨congrArg (·.mode) hset, congrArg (·.cause) hset, (congrArg (·.prev) hset).trans (State.bootAt_iff.1 hb).1, rfl, rfl,
      helapsed⟩

end Sys2Proof.Machine
end

