-- ==== Sys2Proof/Proofs/TrainExit.lean ====
section
/-! The ends of TRAIN (R54, R55): every required lane up, or TRAIN_TIMEOUT. -/

namespace Sys2Proof.Machine

open Sys2Proof

/-! TRAIN ends without a boot failure. -/

/-- The mode that TRAIN leads to: that of START_COMM, and COMMISSION where R34 binds the device. -/
def State.trainMode (s : State) : Mode := if s.flag MB_MODECFG_START_COMM 0 || s.boundByR34 then .commission else .run

/-- The mode code has changed at the end of TRAIN, and control has not started yet. -/
def State.trainLeft (s : State) (cause : Nat) : State :=
  State.setMode { s with mo := { s.mo with coldBoot := false } } s.trainMode cause

/-- Control then resumes or starts cold, and the stations start. -/
theorem State.trainExit_starts {s : State} (hf : s.bootFailed = false) (hp : s.rd CS_CFG_WARM_POL 0 ≠ 2) (cause : Nat) :
    Moves 0x1000100000000000000000000000000000000000000000000010f030f010f03030306f7c17c80 (s.trainLeft cause) (s.trainExit cause) := by
  unfold State.trainExit
  extract_lets warm moOld cold mode coded started
  rw [if_neg (by simp [hf, hp])]
  refine Moves.trans ?_ (State.stationsStart_moves.mono rfl)
  clear_value warm
  cases warm with
  | some x => exact State.warmStart_moves
  | none => exact State.coldStart_moves.mono rfl

theorem State.trainExit_mode {s : State} (hi : s.Inv) (hf : s.bootFailed = false) (hp : s.rd CS_CFG_WARM_POL 0 ≠ 2) (cause : Nat) :
    (s.trainExit cause).mo.mode = s.trainMode ∧ (s.trainExit cause).mo.cause = cause ∧ (s.trainExit cause).mo.prev = s.mo.mode := by
  have hset := State.setMode_mo (s := { s with mo := { s.mo with coldBoot := false } }) hi s.trainMode cause
  have hleft : (s.trainLeft cause).Inv := State.setMode_moves.inv (s := { s with mo := { s.mo with coldBoot := false } }) hi
  obtain ⟨hmode, hprev, hcause, -⟩ := (State.trainExit_starts hf hp cause).keep hleft .mode rfl
  exact ⟨hmode.symm.trans (congrArg (·.mode) hset), hcause.symm.trans (congrArg (·.cause) hset),
    hprev.symm.trans (congrArg (·.prev) hset)⟩

theorem State.trainMode_eq (s : State) :
    s.trainMode = if s.flag MB_MODECFG_START_COMM 0 = true ∨ s.boundByR34 = true then .commission else .run := by
  simp [State.trainMode]

theorem exec_trainExit_due {s : State} (hm : s.mo.mode = .train) (hl : s.mo.controlLoaded = true) (hn : s.missingLanes = [])
    (hc : s.cs.cut = false) : exec .trainExit s = .next (s.trainExit 4) :=
  if_pos (by simp [hm, hl, hn, hc])

/-! TRAIN_TIMEOUT. -/

/-- An error below class D that arises after BOOT is no boot failure. -/
theorem State.bootFailed_raiseErr {s : State} (hi : s.Inv) (hm : s.mo.mode ≠ .boot) (code : Nat) {cls : Nat} (hc : cls ≠ 4) :
    (s.raiseErr code cls).bootFailed = s.bootFailed := by
  have hec : (s.handOff (code / 256) ⟨code, 0, s.now, 0, 0, 0, decide (3 ≤ cls)⟩).ec = s.ec :=
    (State.handOff_moves.keep hi .ec rfl).symm
  have hmo : (s.handOff (code / 256) ⟨code, 0, s.now, 0, 0, 0, decide (3 ≤ cls)⟩).mo = s.mo :=
    (State.handOff_moves.keep hi .mo rfl).symm
  have hlate : ∀ n, (List.take n [(⟨code, cls⟩ : ErrRec)]).any (fun e => e.cls == 4) = false := by
    rintro (_ | n) <;> simp [hc]
  simp [State.bootFailed, State.raiseErr, State.arrive, hec, hmo, hm, List.take_append, hlate]

/-- The required lanes that are not up are marked failed, with their error where there is one (R55). -/
def State.lanesFailed (s : State) : State :=
  let marked := s.missingLanes.foldl (fun s n => s.wr LN_LANE_FAILED n 1) s
  if s.missingLanes.isEmpty then marked else marked.raiseErr 0x0285 2

theorem State.lanesMarked_moves {s : State} (l : List Nat) :
    Moves 0x1000000000000000000000000 s (l.foldl (fun s n => s.wr LN_LANE_FAILED n 1) s) :=
  Moves.foldl Moves.refl fun _ _ => Moves.wr Moves.refl rfl

theorem State.lanesFailed_moves {s : State} : Moves 0x1000000000000000000006000 s s.lanesFailed := by
  have hmarked := (State.lanesMarked_moves (s := s) s.missingLanes).mono (m := 0x1000000000000000000006000) rfl
  exact Moves.ite hmarked (hmarked.trans (State.raiseErr_moves.mono rfl))

theorem State.lanesFailed_bootFailed {s : State} (hi : s.Inv) (hm : s.mo.mode ≠ .boot) : s.lanesFailed.bootFailed = s.bootFailed := by
  have hmoves := State.lanesMarked_moves (s := s) s.missingLanes
  have hmo := hmoves.keep hi .mo rfl
  have hec := hmoves.keep hi .ec rfl
  have hmarked : (s.missingLanes.foldl (fun s n => s.wr LN_LANE_FAILED n 1) s).bootFailed = s.bootFailed := by
    unfold State.bootFailed
    rw [← hmo, ← hec]
  unfold State.lanesFailed
  split
  · exact hmarked
  · rw [State.bootFailed_raiseErr (hmoves.inv hi) (hmo ▸ hm) _ (by decide), hmarked]

theorem State.lanesFailed_trainMode {s : State} (hi : s.Inv) : s.lanesFailed.trainMode = s.trainMode := by
  rw [State.trainMode, State.trainMode, State.flag, State.flag, State.lanesFailed_moves.rd hi rfl,
    State.boundByR34_eq (State.lanesFailed_moves.keep hi .access rfl).symm]

section timeout

variable {s : State} (hm : s.mo.mode = .train) (hc : s.cs.cut = false)
  (ha : s.mo.trainAt + s.rd MB_MODECFG_TRAIN_TIMEOUT 0 * 8000000 ≤ s.elapsed)
include hm hc ha

theorem exec_trainTimeout_safe (hf : s.bootFailed = false) (hp : s.rd MB_MODECFG_TO_POLICY 0 = 1) :
    exec .trainTimeout s = .next (s.enterSafe 5) :=
  (if_pos (by simp [hm, hc, ha])).trans (if_pos (by simp [hf, hp]))

theorem exec_trainTimeout_goes_on (hp : s.rd MB_MODECFG_TO_POLICY 0 = 0) :
    exec .trainTimeout s = .next (s.lanesFailed.trainExit 5) :=
  (if_pos (by simp [hm, hc, ha])).trans (if_neg (by simp [hp]))

end timeout

/-- Settles O22: TRAIN ends in the mode of START_COMM and R34 when its lanes are up, and at its timeout in SAFE or, the missing lanes
marked, in that same mode (R54, R55). -/
theorem trainExitsByLanesOrTimeout : Obligations.TrainExitsByLanesOrTimeout := by
  unfold Obligations.TrainExitsByLanesOrTimeout
  constructor
  · intro s hi hm hl hn hc hf hp
    obtain ⟨hmode, hcause, hprev⟩ := State.trainExit_mode hi hf hp 4
    exact ⟨_, exec_trainExit_due hm hl hn hc, hcause, hprev.trans hm, hmode.trans s.trainMode_eq⟩
  · intro s hi hm hc hf ha
    constructor
    · intro hp
      obtain ⟨hmode, hcause, hprev⟩ := State.enterSafe_mode hi (by simp [hm]) (by simp [hm]) (by simp [hm]) 5
      exact ⟨_, exec_trainTimeout_safe hm hc ha hf hp, hmode, hcause, hprev.trans hm⟩
    · intro hp hw
      have hfail : s.lanesFailed.bootFailed = false := (State.lanesFailed_bootFailed hi (by simp [hm])).trans hf
      have hwarm : s.lanesFailed.rd CS_CFG_WARM_POL 0 ≠ 2 := by rwa [State.lanesFailed_moves.rd hi rfl]
      obtain ⟨hmode, hcause, -⟩ := State.trainExit_mode (State.lanesFailed_moves.inv hi) hfail hwarm 5
      exact ⟨_, exec_trainTimeout_goes_on hm hc ha hp, hcause,
        hmode.trans ((State.lanesFailed_trainMode hi).trans s.trainMode_eq)⟩

end Sys2Proof.Machine
end

