-- ==== Sys2Proof/Proofs/SentinelEntry.lean ====
section
/-! SENTINEL entry: its steps and its cancelling (Table 2.7; R36, R42, R46). -/

namespace Sys2Proof.Machine

open Sys2Proof

/-! The steps of the entry (R42). -/

section entry

variable {s : State} (hm : s.mo.mode = .sentinel) (hh : s.mo.sentHalt = false)
include hm hh

theorem exec_sentinelEntryStep_one (hs : s.mo.sent = .entering 0) (hc : s.cyclesOpen = false) :
    exec .sentinelEntryStep s = .next s.sentOne := by
  show execSentinelEntryStep s = _
  simp [execSentinelEntryStep, hm, hh, hs, hc]

theorem exec_sentinelEntryStep_two (hs : s.mo.sent = .entering 1) (hw : s.cs.writing = none) :
    exec .sentinelEntryStep s = .next s.sentTwo := by
  show execSentinelEntryStep s = _
  simp [execSentinelEntryStep, hm, hh, hs, hw]

theorem exec_sentinelEntryStep_three (hs : s.mo.sent = .entering 2) (hw : s.cs.writing = none) :
    exec .sentinelEntryStep s = .next s.sentThree := by
  show execSentinelEntryStep s = _
  simp [execSentinelEntryStep, hm, hh, hs, hw]

theorem exec_sentinelEntryStep_four (hs : s.mo.sent = .entering 3) (hf : s.mb.inflight = []) :
    exec .sentinelEntryStep s = .next s.sentFour := by
  show execSentinelEntryStep s = _
  simp [execSentinelEntryStep, hm, hh, hs, hf]

theorem exec_sentinelEntryStep_five (hs : s.mo.sent = .entering 4) : exec .sentinelEntryStep s = .next s.sentFive := by
  show execSentinelEntryStep s = _
  simp [execSentinelEntryStep, hm, hh, hs]

theorem exec_sentinelEntryStep_six (hs : s.mo.sent = .entering 5) : exec .sentinelEntryStep s = .next s.sentSix := by
  show execSentinelEntryStep s = _
  simp [execSentinelEntryStep, hm, hh, hs]

end entry

/-! What the latch of t6 is computed from: lanes and ports that go down leave the time, the crystal phase and INCREMENT. -/

/-- From a good state, time, crystal phase and INCREMENT are as before. -/
def State.KeepsClock (s t : State) : Prop :=
  s.Inv → t.Inv ∧ t.tai = s.tai ∧ t.kp.rtcPhase = s.kp.rtcPhase ∧ t.increment = s.increment

theorem State.KeepsClock.refl (s : State) : s.KeepsClock s := fun hi => ⟨hi, rfl, rfl, rfl⟩

theorem State.KeepsClock.trans {a b c : State} (h1 : a.KeepsClock b) (h2 : b.KeepsClock c) : a.KeepsClock c := fun hi => by
  obtain ⟨hib, htai, hphase, hinc⟩ := h1 hi
  obtain ⟨hic, htai', hphase', hinc'⟩ := h2 hib
  exact ⟨hic, htai'.trans htai, hphase'.trans hphase, hinc'.trans hinc⟩

theorem State.KeepsClock.foldl {α : Type} {f : State → α → State} (hf : ∀ st a, State.KeepsClock st (f st a)) :
    ∀ (l : List α) (s : State), s.KeepsClock (l.foldl f s)
  | [], s => .refl s
  | a :: l, s => (hf s a).trans (State.KeepsClock.foldl hf l (f s a))

/-- A change that names neither the time unit nor the Keeper keeps the clock. -/
theorem Moves.keepsClock {m : Nat} {s t : State} (h : Moves m s t) (hkp : m.testBit 8 = false) (htu : m.testBit 9 = false)
    (hns : m.testBit (Part.regs TU_ADJ_INC_NS.unit).bit = false) (hfrac : m.testBit (Part.regs TU_ADJ_INC_FRAC.unit).bit = false) :
    s.KeepsClock t := fun hi => by
  refine ⟨h.inv hi, ?_, congrArg (·.rtcPhase) (h.keep hi .kp hkp).symm, ?_⟩
  · rw [State.tai, State.tai, State.now, State.now, h.keep hi .tu htu]
  · rw [State.increment, State.increment, h.rd hi hns, h.rd hi hfrac]

/-- So does a write of a word of the time unit outside TU_ADJ. -/
theorem State.keepsClock_wr (s : State) {f : Field} (hf : f.fits = true) (hg : f.grp % 256 ≠ TU_ADJ_INC_NS.grp % 256) (i v : Nat) :
    s.KeepsClock (s.wr f i v) := fun hi => by
  refine ⟨State.wr_inv hi f i v, rfl, rfl, ?_⟩
  have hns : (s.wr f i v).rd TU_ADJ_INC_NS 0 = s.rd TU_ADJ_INC_NS 0 := State.rd_wr_ne hi hf v (.inr (.inl hg.symm))
  have hfrac : (s.wr f i v).rd TU_ADJ_INC_FRAC 0 = s.rd TU_ADJ_INC_FRAC 0 := State.rd_wr_ne hi hf v (.inr (.inl hg.symm))
  rw [State.increment, State.increment, hns, hfrac]

/-- The start of holdover does not move the counter. -/
theorem State.keepsClock_tuEnter_holdover (s : State) : s.KeepsClock (s.tuEnter .holdover) := by
  unfold State.tuEnter
  split
  · exact .refl s
  · extract_lets old was locks tuOld s1 tuOld1 s2 s3
    have h1 : s.KeepsClock s1 := fun hi => ⟨hi, rfl, rfl, rfl⟩
    have h2 : s1.KeepsClock s2 := by
      unfold s2
      split
      · exact fun hi => ⟨hi, rfl, rfl, rfl⟩
      · exact .refl s1
    have h3 : s2.KeepsClock s3 := Moves.keepsClock State.notify_moves rfl rfl rfl rfl
    rw [if_neg (show ¬locks = true by decide)]
    exact (h1.trans h2).trans h3

theorem State.keepsClock_tuPortDown (s : State) (p : Nat) : s.KeepsClock (s.tuPortDown p) := by
  unfold State.tuPortDown
  extract_lets slave tuOld s1 s2
  have h1 : s.KeepsClock s1 := fun hi => ⟨hi, rfl, rfl, rfl⟩
  have h2 : s1.KeepsClock s2 :=
    (s1.keepsClock_wr (by decide) (by decide) p 0).trans (State.keepsClock_wr _ (by decide) (by decide) p 0)
  split
  · exact (h1.trans h2).trans s2.keepsClock_tuEnter_holdover
  · exact h1.trans h2

theorem State.keepsClock_lanesOff (s : State) : s.KeepsClock s.lanesOff := by
  unfold State.lanesOff
  extract_lets s1
  have hlanes : s.KeepsClock s1 := State.KeepsClock.foldl (fun _ _ => Moves.keepsClock State.laneDown_moves rfl rfl rfl rfl) _ s
  refine hlanes.trans (State.KeepsClock.foldl (fun st p => ?_) _ s1)
  extract_lets x y
  have hport : Moves 0x2000000000000000040000000 st ((st.setPort p y).putWord 0x41 2 p 1 0) :=
    Moves.putWord (State.setPort_moves.mono rfl) rfl
  exact (hport.keepsClock rfl rfl rfl rfl).trans (State.keepsClock_tuPortDown _ p)

/-- t6 latches the counter as it stood at the last crystal edge (R36). -/
theorem State.sentSix_latchTai {s : State} (hi : s.Inv) :
    s.sentSix.kp.latchTai = s.tai - s.kp.rtcPhase * s.increment / 16 / 2 ^ 32 := by
  have hclock : s.KeepsClock s.keepScoreboard.lanesOff :=
    (Moves.keepsClock State.keepScoreboard_moves rfl rfl rfl rfl).trans (State.keepsClock_lanesOff _)
  obtain ⟨-, htai, hphase, hinc⟩ := hclock hi
  show s.keepScoreboard.lanesOff.tai
    - s.keepScoreboard.lanesOff.kp.rtcPhase * s.keepScoreboard.lanesOff.increment / 16 / 2 ^ 32 = _
  rw [htai, hphase, hinc]

/-! Cancelling the entry (R42, R362). -/

/-- What an entry stopped runs again, and the entry is over. -/
theorem State.sentUndo_entering {s : State} (hi : s.Inv) {k : Nat} (hs : s.mo.sent = .entering k) :
    s.sentUndo.mo.sent = .out ∧ s.sentUndo.mo.mode = s.mo.mode := by
  refine ⟨?_, (State.sentUndo_moves.keep hi .mode rfl).1.symm⟩
  unfold State.sentUndo
  rw [hs]
  dsimp -zeta only
  extract_lets s1 moOld mo csOld s2 s3
  have hback : s1.Inv := by
    unfold s1
    split
    · exact State.pathsBack_moves.inv hi
    · exact hi
  have hstarts : Moves 0x8028000 s2 (if 1 ≤ k then s3.chStart 2 else s3) := by
    have hsafety : Moves 0x8028000 s2 s3 := Moves.ite (State.sfStart_moves.mono rfl) Moves.refl
    exact Moves.ite (hsafety.trans (State.chStart_moves.mono rfl)) hsafety
  rw [← hstarts.keep hback .mo rfl]

/-- Control that resumes runs, its first output write still to come; the rest of the modes stays. -/
theorem State.sentResume_mo {s : State} (hi : s.Inv) (slot : Option Bool) :
    (s.sentResume slot).mo = { s.mo with control := true, firstWrite := true } := by
  unfold State.sentResume
  extract_lets on csOld s1 lgOld
  have hresumed := (State.lgResumed_moves (s := { s1 with lg := { s1.lg with running := s1.logicReady } }) (a0 := 2)
    (a1 := s.sleepMs)).trans (State.lgShow_moves.mono rfl)
  exact (hresumed.keep hi .mo rfl).symm

/-- An entry that is cancelled ends in RUN with cause 0x0D, and control resumes. -/
theorem State.sentCancel_mode {s : State} (hi : s.Inv) {k : Nat} (hs : s.mo.sent = .entering k) (hh : s.mo.sentHalt = false) :
    s.sentCancel.mo.mode = .run ∧ s.sentCancel.mo.cause = 0xD ∧ s.sentCancel.mo.prev = s.mo.mode ∧ s.sentCancel.mo.sent = .out := by
  unfold State.sentCancel
  rw [hs]
  dsimp -zeta only
  rw [hh]
  extract_lets slot csOld drop s1 s2 s3
  have hdrop : Moves 0x20000000 s drop := by
    unfold drop
    split
    · exact Moves.refl
    · split
      · exact Moves.trans (Moves.cs Moves.refl rfl) State.setSlot_moves
      · exact Moves.refl
  have hdropmo : drop.mo = s.mo := (hdrop.keep hi .mo rfl).symm
  obtain ⟨hout, hmode⟩ := State.sentUndo_entering (hdrop.inv hi) (hdropmo ▸ hs)
  have hundone : drop.sentUndo.Inv := State.sentUndo_moves.inv (hdrop.inv hi)
  have hset := State.setMode_mo hundone .run 0xD
  have hinv1 : s1.Inv := State.setMode_moves.inv hundone
  have h2 : Moves 0x40000000 s1 s2 := Moves.ite State.sendTopo_moves Moves.refl
  have hmo2 : s2.mo = s1.mo := (h2.keep hinv1 .mo rfl).symm
  have h3 : s3.Inv ∧ s3.mo.mode = s1.mo.mode ∧ s3.mo.cause = s1.mo.cause ∧ s3.mo.prev = s1.mo.prev ∧ s3.mo.sent = s1.mo.sent := by
    unfold s3
    rw [if_neg (by decide)]
    split
    · rw [State.sentResume_mo (h2.inv hinv1), hmo2]
      exact ⟨State.sentResume_moves.inv (h2.inv hinv1), rfl, rfl, rfl, rfl⟩
    · rw [hmo2]
      exact ⟨h2.inv hinv1, rfl, rfl, rfl, rfl⟩
  obtain ⟨hinv3, hm, hc, hp, ho⟩ := h3
  rw [← State.serviceBack_moves.keep hinv3 .mo rfl, hm, hc, hp, ho]
  exact ⟨congrArg (·.mode) hset, congrArg (·.cause) hset, (congrArg (·.prev) hset).trans (hmode.trans (congrArg (·.mode) hdropmo)),
    (congrArg (·.sent) hset).trans hout⟩

/-! Wake sources (Table 2.5). -/

theorem State.wakeCause_inv {s : State} (hi : s.Inv) (src : WakeSrc) : (s.wakeCause src).Inv := State.wr_inv hi _ _ _

/-- A source that may wake the device notes itself and cancels an entry (R42). -/
theorem State.wakeBy_entering {s : State} {src : WakeSrc} {k : Nat} (hm : s.mo.mode = .sentinel) (hs : s.mo.sent = .entering k)
    (hh : s.mo.sentHalt = false) (he : s.wakeEnabled src = true) : s.wakeBy src = (s.wakeCause src).sentCancel := by
  have hs' : (s.wakeCause src).mo.sent = .entering k := hs
  have hh' : (s.wakeCause src).mo.sentHalt = false := hh
  simp [State.wakeBy, hm, he, hs', hh']

theorem exec_sentinelEntryCancel_source {s : State} {n k : Nat} {src : WakeSrc} (hn : wakeSrcOf n = some src)
    (hs : s.mo.sent = .entering k) : exec (.sentinelEntryCancel n) s = .next (s.wakeBy src) := by
  show execSentinelEntryCancel n s = _
  simp [execSentinelEntryCancel, hn, State.entering, hs]

/-- Settles O23: each step of an entry leads to the next and keeps SENTINEL, the last latches the counter as of the last crystal
edge (R36), and an enabled wake source undoes the entry (R42). -/
theorem sentinelEntryRunsItsSteps : Obligations.SentinelEntryRunsItsSteps := by
  unfold Obligations.SentinelEntryRunsItsSteps
  constructor
  · intro s hi hm hh
    refine ⟨?one, ?two, ?three, ?four, ?five, ?six⟩
    case one =>
      intro hs hc
      exact ⟨_, exec_sentinelEntryStep_one hm hh hs hc, rfl, rfl, (State.sentOne_moves.keep hi .mode rfl).1.symm.trans hm⟩
    case two =>
      intro hs hw
      exact ⟨_, exec_sentinelEntryStep_two hm hh hs hw, rfl, (State.sentTwo_moves.keep hi .mode rfl).1.symm.trans hm⟩
    case three => exact fun hs hw => ⟨_, exec_sentinelEntryStep_three hm hh hs hw, rfl⟩
    case four => exact fun hs hf => ⟨_, exec_sentinelEntryStep_four hm hh hs hf, rfl, rfl⟩
    case five => exact fun hs => ⟨_, exec_sentinelEntryStep_five hm hh hs, rfl, rfl⟩
    case six => exact fun hs => ⟨_, exec_sentinelEntryStep_six hm hh hs, rfl, rfl, State.sentSix_latchTai hi⟩
  · intro s n k src hi hm hs hh hn he
    obtain ⟨hmode, hcause, hprev, hout⟩ := State.sentCancel_mode (State.wakeCause_inv hi src) hs hh
    refine ⟨_, exec_sentinelEntryCancel_source hn hs, ?_⟩
    rw [State.wakeBy_entering hm hs hh he]
    exact ⟨hmode, hcause, hprev.trans hm, hout⟩

end Sys2Proof.Machine
end

