-- ==== Sys2Proof/Proofs/SentinelWake.lean ====
section
/-! The wake from SENTINEL, its sources and its failure, and the alarm in KEEPER (Table 2.8; R37, R46, R48). -/

namespace Sys2Proof.Machine

open Sys2Proof

/-! The wake begins. -/

/-- A source that may wake the device notes itself and starts the wake (R46). -/
theorem State.wakeBy_asleep {s : State} {src : WakeSrc} (hm : s.mo.mode = .sentinel) (hs : s.mo.sent = .asleep)
    (he : s.wakeEnabled src = true) :
    s.wakeBy src = { s.wakeCause src with mo := { s.mo with sent := .waking false, pllAt := s.elapsed } } := by
  have hs' : (s.wakeCause src).mo.sent = .asleep := hs
  rw [State.wakeBy, if_neg (by simp [hm, he])]
  dsimp only
  rw [hs']
  rfl

theorem exec_wakeSource_asleep {s : State} {n : Nat} {src : WakeSrc} (hn : wakeSrcOf n = some src) (hs : s.mo.sent = .asleep) :
    exec (.wakeSource n) s = .next (s.wakeBy src) := by
  show execWakeSource n s = _
  simp [execWakeSource, hn, State.entering, hs]

/-! The PLLs lock: tiles, paths and the counter run again (w3 to w6). -/

/-- A time state is entered without stopping the counter. -/
theorem State.tuEnter_running {s : State} (hi : s.Inv) (st : TimeState) : (s.tuEnter st).tu.running = s.tu.running := by
  unfold State.tuEnter
  split
  · rfl
  · extract_lets old was locks tuOld s1 tuOld1 s2 s3
    have h2 : s2.Inv ∧ s2.tu.running = s.tu.running := by
      unfold s2
      split
      · exact ⟨hi, rfl⟩
      · exact ⟨hi, rfl⟩
    have h3 : s3.tu.running = s.tu.running :=
      (congrArg (·.running) (State.notify_moves.keep h2.1 .tu rfl).symm).trans h2.2
    split
    · exact h3
    · exact h3

/-- The counter is reloaded and the heartbeat runs again. -/
def State.pllsBack (s : State) : State :=
  { s.timeBack with mo := { s.timeBack.mo with sent := .locked, heartbeat := true } }

/-- Safety functions and paths run again too. -/
theorem State.pathsAfterWake_moves {s : State} : Moves 0x81c0000 s s.sfStart.pathsBack :=
  (State.sfStart_moves.mono rfl).trans (State.pathsBack_moves.mono rfl)

theorem exec_wakePllLocked_waking {s : State} {r : Bool} (hs : s.mo.sent = .waking r) :
    exec .wakePllLocked s =
      .next (if s.pllsBack.sfStart.pathsBack.tu.state == .locked || s.pllsBack.sfStart.pathsBack.tu.state == .gm then
        s.pllsBack.sfStart.pathsBack.tuEnter .holdover else s.pllsBack.sfStart.pathsBack) := by
  show execWakePllLocked s = _
  rw [execWakePllLocked, hs]
  rfl

theorem exec_wakePllLocked_effect {s : State} (hi : s.Inv) {r : Bool} (hs : s.mo.sent = .waking r) :
    ∃ t, exec .wakePllLocked s = .next t ∧ t.mo = s.pllsBack.mo ∧ t.tu.running = true := by
  have hback : s.pllsBack.Inv := State.timeBack_moves.inv hi
  have hpaths : s.pllsBack.sfStart.pathsBack.Inv := State.pathsAfterWake_moves.inv hback
  have hmo : s.pllsBack.sfStart.pathsBack.mo = s.pllsBack.mo := (State.pathsAfterWake_moves.keep hback .mo rfl).symm
  have htu : s.pllsBack.sfStart.pathsBack.tu = s.pllsBack.tu := (State.pathsAfterWake_moves.keep hback .tu rfl).symm
  have hrun : s.pllsBack.sfStart.pathsBack.tu.running = true := by rw [htu]; rfl
  refine ⟨_, exec_wakePllLocked_waking hs, ?_⟩
  split
  · exact ⟨(State.tuEnter_moves.keep hpaths .mo rfl).symm.trans hmo, (State.tuEnter_running hpaths .holdover).trans hrun⟩
  · exact ⟨hmo, hrun⟩

/-! Control runs again (w8). -/

/-- The wake has ended in RUN, and control has not resumed yet. -/
def State.wakeCoded (s : State) : State :=
  State.setMode { s with mo := { s.mo with sent := .out, captain := true } } .run 6

theorem exec_wakeControlRunning_locked {s : State} (hs : s.mo.sent = .locked) :
    exec .wakeControlRunning s =
      .next ((((s.wakeCoded.chStart 2).axPosLost false).sentResume s.wakeCoded.newestSlot).serviceBack) := by
  show execWakeControlRunning s = _
  rw [execWakeControlRunning, hs]
  rfl

theorem exec_wakeControlRunning_effect {s : State} (hi : s.Inv) (hs : s.mo.sent = .locked) :
    ∃ t, exec .wakeControlRunning s = .next t ∧ t.mo.mode = .run ∧ t.mo.cause = 6 ∧ t.mo.captain = true ∧ t.mo.sent = .out := by
  have hset := State.setMode_mo (s := { s with mo := { s.mo with sent := .out, captain := true } }) hi .run 6
  have hcoded : s.wakeCoded.Inv := State.setMode_moves.inv (s := { s with mo := { s.mo with sent := .out, captain := true } }) hi
  have hlost : Moves 0x10000000000000000000000000000000000000000000000000000000000000200000002028400 s.wakeCoded
      ((s.wakeCoded.chStart 2).axPosLost false) := (State.chStart_moves.mono rfl).trans (State.axPosLost_moves.mono rfl)
  have hresumed := State.sentResume_mo (hlost.inv hcoded) s.wakeCoded.newestSlot
  refine ⟨_, exec_wakeControlRunning_locked hs, ?_⟩
  rw [← State.serviceBack_moves.keep (State.sentResume_moves.inv (hlost.inv hcoded)) .mo rfl, hresumed, ← hlost.keep hcoded .mo rfl]
  exact ⟨congrArg (·.mode) hset, congrArg (·.cause) hset, congrArg (·.captain) hset, congrArg (·.sent) hset⟩

/-! The PLLs do not lock (R48). -/

/-- The field die's hold has ended, and the protection-failed flag stands. -/
def State.wakeFailing (s : State) : State :=
  let driven := (s.wr FD_STAT_HOLD 0 0).fdDrive
  { driven with
    mo := { driven.mo with sent := .out, protFail := true }
    fd := { driven.fd with hbAt := driven.elapsed + 1, hbHold := false, wdAt := driven.elapsed } }

theorem State.wakeFailing_inv {s : State} (hi : s.Inv) : s.wakeFailing.Inv := by
  have hdriven : (s.wr FD_STAT_HOLD 0 0).fdDrive.Inv := State.fdDrive_moves.inv (State.wr_inv hi _ _ _)
  exact hdriven

/-- A last record of last-resort operation leaves the modes, and the operation goes on. -/
theorem State.lastResortRecord {s : State} (hi : s.Inv) (cause p1 : Nat) (tell : Bool) (r : EvRec) :
    ((s.evLastResort cause p1 tell).evLast r).mo = s.mo ∧ ((s.evLastResort cause p1 tell).evLast r).ev.lr = true := by
  have hlast : (s.evLastResort cause p1 tell).Inv := State.evLastResort_moves.inv hi
  refine ⟨?_, (State.evLast_lr hlast r).trans (State.evLastResort_lr hi cause p1 tell)⟩
  rw [← State.evLast_moves.keep hlast .mo rfl, ← State.evLastResort_moves.keep hi .mo rfl]

/-- A second time without lock ends in SAFE with the protection-failed flag, and the recorder in last-resort operation. -/
theorem State.wakeFail_effect {s : State} (hi : s.Inv) :
    s.wakeFail.mo.mode = .safe ∧ s.wakeFail.mo.protFail = true ∧ s.wakeFail.mo.sent = .out ∧ s.wakeFail.ev.lr = true := by
  have hset := State.setMode_mo (State.wakeFailing_inv hi) .safe 9
  have hcoded : (s.wakeFailing.setMode .safe 9).Inv := State.setMode_moves.inv (State.wakeFailing_inv hi)
  have hrecord := State.lastResortRecord hcoded 3 (s.wakeFailing.setMode .safe 9).kp.sentSeq false
  have hmo : s.wakeFail.mo = (s.wakeFailing.setMode .safe 9).mo := (hrecord _).1
  have hlr : s.wakeFail.ev.lr = true := (hrecord _).2
  rw [hmo, hset]
  exact ⟨rfl, rfl, rfl, hlr⟩

section timeout

variable {s : State} (ha : s.mo.pllAt + 40000 ≤ s.elapsed)
include ha

theorem exec_wakePllTimeout_retry (hs : s.mo.sent = .waking false) :
    exec .wakePllTimeout s = .next { s with mo := { s.mo with sent := .waking true, pllAt := s.elapsed } } := by
  show execWakePllTimeout s = _
  rw [execWakePllTimeout, hs]
  exact (if_neg (by omega)).trans (if_neg (by decide))

theorem exec_wakePllTimeout_fail (hs : s.mo.sent = .waking true) : exec .wakePllTimeout s = .next s.wakeFail := by
  show execWakePllTimeout s = _
  rw [execWakePllTimeout, hs]
  exact (if_neg (by omega)).trans (if_pos rfl)

end timeout

/-! The alarm in KEEPER (R37). -/

theorem exec_keeperAlarmDue_keeper {s : State} (hk : s.mo.vddKeep = true) (he : s.flag KP_WAKE_ALARM_EN 0 = true)
    (hs : s.kp.alarmSpent = false) (ha : s.alarmPast = true) (hm : s.mo.mode = .keeper) :
    exec .keeperAlarmDue s =
      .next (State.wakeCause { s with kp := { s.kp with alarmSpent := true, wakeNLow := true } } .alarm) :=
  (if_pos (by simp [hk, he, hs, ha])).trans (if_pos (by simp [hm]))

/-- Settles O24: a wake source starts the wake and stands in KP_WAKE.CAUSE, PLL lock and control lead on to RUN, a PLL that does not
lock is tried twice, and in KEEPER a due alarm only pulls WAKE_N (R37, R46, R48). -/
theorem wakeFollowsItsSequence : Obligations.WakeFollowsItsSequence := by
  unfold Obligations.WakeFollowsItsSequence
  refine ⟨?source, ?wakeN, ?locked, ?running, ?timeout, ?alarm⟩
  case source =>
    intro s n src hi hm hs hn he
    refine ⟨_, exec_wakeSource_asleep hn hs, ?_⟩
    rw [State.wakeBy_asleep hm hs he]
    exact ⟨rfl, rfl, hm, State.rd_wr_same hi (by decide) 0 _⟩
  case wakeN =>
    intro s _ hm hs he
    have hsrc : s.wakeEnabled .wakeN = true := he
    refine ⟨_, rfl, ?_⟩
    rw [State.wakeBy_asleep hm hs hsrc]
  case locked =>
    intro s r hi hs
    obtain ⟨t, ht, hmo, hrun⟩ := exec_wakePllLocked_effect hi hs
    exact ⟨t, ht, by rw [hmo]; rfl, hrun, by rw [hmo]; rfl, by rw [hmo]; rfl⟩
  case running => exact fun s hi _ hs => exec_wakeControlRunning_effect hi hs
  case timeout =>
    exact fun s hi ha => ⟨fun hs => ⟨_, exec_wakePllTimeout_retry ha hs, rfl, rfl⟩,
      fun hs => ⟨_, exec_wakePllTimeout_fail ha hs, State.wakeFail_effect hi⟩⟩
  case alarm => exact fun s _ hk he hs ha hm => ⟨_, exec_keeperAlarmDue_keeper hk he hs ha hm, rfl, rfl, hm⟩

end Sys2Proof.Machine
end

