-- ==== Sys2Proof/Proofs/CommandChecks.lean ====
section
/-! Mailbox commands that may run: the checks of R80 that they pass or fail, and how they are answered (R63, R73). -/

namespace Sys2Proof.Machine

open Sys2Proof

/-! Checks (R80). -/

/-- With frame, object and parameters in order, authority where it is needed and an accepting mode, the opcode's own checks decide. -/
theorem State.verdict_own {s : State} {ring idx op len : Nat} {c : Cmd} (hr : s.Ready ring idx c) (hp : c.Plain op len) {k : Checks}
    (hform : k.form = true) (habsent : k.absent = none) (hbad : k.bad = none) (hauth : k.auth = true → s.authorized c = true)
    (hmodes : k.modes = true) : s.verdict c k = k.own := by
  obtain ⟨-, -, -, -, hobj⟩ := hr
  obtain ⟨-, hframe, hlength, hbuf, -⟩ := hp
  have hauthorized : (k.auth && !s.authorized c) = false := by
    cases h : k.auth
    · rfl
    · simp [hauth h]
  simp [State.verdict, hframe, hlength, hform, hobj, habsent, Cmd.bufBad, hbuf, hbad, hauthorized, hmodes]

/-- A command whose turn has come and that a check stops is refused. -/
theorem State.Ready.runCmd_refused {s : State} {ring idx : Nat} {c : Cmd} (hr : s.Ready ring idx c) {mine : Cmd → Bool}
    {checks : State → Cmd → Checks} {go : State → Cmd → State} (hm : mine c = true) {v : Status × Nat × Nat}
    (hv : s.verdict c (checks s c) = some v) : s.runCmd ring idx mine checks go = .next (s.refuse c v) := by
  obtain ⟨hwait, hrun, hblocked, hrom, -⟩ := hr
  simp [State.runCmd, hwait, hm, hrun, hblocked, hrom, hv]

/-! Answers. -/

@[simp] theorem State.setPhase_mo (s : State) (ring order : Nat) (p : CmdPhase) : (s.setPhase ring order p).mo = s.mo := rfl

theorem State.answer_outcome {s : State} {c : Cmd} (hc : c ∈ s.mb.inflight) (hu : c.undecided = true) (r0 r1 r2 r3 : Nat) :
    (s.answer c r0 r1 r2 r3).Outcome c .ok r0 r1 r2 r3 none :=
  State.setPhase_mem hc hu _

theorem State.done_outcome {s : State} {c : Cmd} (hc : c ∈ s.mb.inflight) (hu : c.undecided = true) (r0 r1 r2 r3 : Nat) :
    (s.done c r0 r1 r2 r3).Outcome c .ok r0 r1 r2 r3 (some s.now) :=
  State.setPhase_mem hc hu _

/-- A refusal other than DMA_FAULT only decides the command. -/
theorem State.refuse_eq {s : State} {c : Cmd} {v : Status × Nat × Nat} (hv : v.1 ≠ .dmaFault) :
    s.refuse c v = s.setPhase c.ring c.order (.decided v.1 v.2.1 v.2.2 0 0 none) :=
  if_neg (by simp [hv])

/-- A command found by its name is found again in the phase it was given. -/
theorem State.findCmd_setPhase {s : State} {c : Cmd} (hf : s.findCmd c.ring c.order = some c) (hu : c.undecided = true)
    (p : CmdPhase) : (s.setPhase c.ring c.order p).findCmd c.ring c.order = some { c with phase := p } := by
  have hthe : c.isThe c.ring c.order = true := by simp [Cmd.isThe]
  have hname : (fun x : Cmd => x.isThe c.ring c.order) ∘
      (fun x => if x.isThe c.ring c.order && x.undecided then { x with phase := p } else x) = fun x => x.isThe c.ring c.order := by
    funext x
    simp only [Function.comp]
    split <;> rfl
  show (s.mb.inflight.map _).find? _ = _
  rw [List.find?_map, hname]
  show Option.map _ (s.findCmd c.ring c.order) = _
  rw [hf]
  simp [hthe, hu]

/-- To settle a command in flight whose outcome is open decides it. -/
theorem State.settle_eq {s : State} {c : Cmd} (hf : s.findCmd c.ring c.order = some c) (hu : c.undecided = true) (st : Status)
    (r0 r1 : Nat) (t : Option Stamp) :
    s.settle (some c.ref) st r0 r1 t = s.setPhase c.ring c.order (.decided st r0 r1 0 0 t) := by
  simp only [State.settle, Cmd.ref, hf]
  split
  · next hphase =>
    simp [Cmd.undecided, hphase] at hu
  · rfl

end Sys2Proof.Machine
end

