-- ==== Sys2Proof/Proofs/ModeCommands.lean ====
section
/-! MODE_REQUEST and SAFE_EXIT (R30, R33, R41, R42, R556; Table 2.2). -/

namespace Sys2Proof.Machine

open Sys2Proof

/-! MODE_REQUEST. -/

/-- A change of mode waits for its boundary (Table 2.2). -/
def State.changePending (s : State) (c : Cmd) : State :=
  let started := s.start c
  { started with mo := { started.mo with pend := some c.target, pendCmd := some c.ref } }

/-- What an accepted MODE_REQUEST does: it answers for the mode in force, enters SAFE or SENTINEL, or changes the mode at the next
boundary. -/
def State.modeGo (s : State) (c : Cmd) : State :=
  if c.target == s.mo.mode then s.answer c c.target.code 0 0 0
  else if c.target == .safe then (s.enterSafe 3).done c 7 0 0 0
  else if c.target == .sentinel then s.sentAccept.done c 5 0 0 0
  else if (s.changePending c).cyclesOpen then s.changePending c
  else (s.changePending c).modeBoundary

section request

variable {s : State} {ring idx : Nat} {c : Cmd} (hr : s.Ready ring idx c) (hp : c.Plain opModeRequest 4) (hl : c.len = 4)
  (hb : c.targetBad = false) (hmodes : s.inMode modesTrain = true) (hbusy : c.busy = false) (hidle : s.inTransition = false)
  (hauth : c.target = .commission ∨ s.mo.mode = .commission → s.authorized c = true)
include hr hp hl hb hmodes hbusy hidle hauth

/-- A request for the mode in force, or for a transition that Table 2.2 lists, is accepted. -/
theorem exec_modeRequest_goes (ha : c.target = s.mo.mode ∨ s.mayGo c.target = true) :
    exec (.modeRequest ring idx) s = .next (s.modeGo c) := by
  show execModeRequest ring idx s = _
  refine hr.runCmd hp.isOp ((State.verdict_own hr hp ?_ rfl ?_ ?_ hmodes).trans ?_)
  · simp [hp.inline, hl]
  · simp [hb]
  · simpa using hauth
  · simpa [hbusy, hidle, or_iff_not_imp_left] using ha

/-- Any other is turned away. -/
theorem exec_modeRequest_forbidden (hne : c.target ≠ s.mo.mode) (hno : s.mayGo c.target = false) :
    exec (.modeRequest ring idx) s = .next (s.refuse c (.modeForbids, s.mo.mode.code, 0)) := by
  show execModeRequest ring idx s = _
  refine hr.runCmd_refused hp.isOp ((State.verdict_own hr hp ?_ rfl ?_ ?_ hmodes).trans ?_)
  · simp [hp.inline, hl]
  · simp [hb]
  · simpa using hauth
  · simp [hbusy, hidle, hne, hno]

end request

/-- Between RUN and COMMISSION a pending change takes place at its boundary, unless R34 binds the device. -/
theorem State.modeBoundary_pending {s : State} {m : Mode} (hpend : s.mo.pend = some m)
    (hm : s.mo.mode = .run ∨ s.mo.mode = .commission) (hb : m = .run → s.boundByR34 = false) : s.modeBoundary = s.setMode m 3 := by
  unfold State.modeBoundary
  rw [hpend]
  dsimp only
  rw [if_neg (by obtain h | h := hm <;> simp [h]), if_neg (by simp; exact hb)]

/-- A change of mode that leaves no COMMISSION answers the command that waited for it (R556). -/
theorem State.setMode_outcome {s : State} {c : Cmd} {m : Mode} (hi : s.Inv) (hm : s.inCommission = false) (hpend : s.mo.pend = some m)
    (hcmd : s.mo.pendCmd = some c.ref) (hc : c ∈ s.mb.inflight) (hf : s.findCmd c.ring c.order = some c) (hu : c.undecided = true)
    (cause : Nat) : (s.setMode m cause).Outcome c .ok m.code 0 0 0 (some s.now) := by
  have hanswered : s.modeAnswered m cause =
      (s.modeCoded m cause).setPhase c.ring c.order (.decided .ok m.code 0 0 0 (some s.now)) := by
    rw [← State.settle_eq (s := s.modeCoded m cause) hf hu]
    simp [State.modeAnswered, hm, hpend, hcmd]
  rw [State.Outcome, State.setMode_inflight hi, hanswered]
  exact State.setPhase_mem (s := s.modeCoded m cause) hc hu _

theorem State.changePending_cyclesOpen (s : State) (c : Cmd) : (s.changePending c).cyclesOpen = s.cyclesOpen := rfl

theorem State.modeGo_change {s : State} {c : Cmd} (hne : c.target ≠ s.mo.mode) (hs : c.target ≠ .safe) (hn : c.target ≠ .sentinel) :
    s.modeGo c = if s.cyclesOpen then s.changePending c else (s.changePending c).modeBoundary := by
  rw [← s.changePending_cyclesOpen c]
  simp [State.modeGo, hne, hs, hn]

/-- With no logic cycle open, a change between RUN and COMMISSION takes place at once. -/
theorem State.modeGo_change_now {s : State} {c : Cmd} (hm : s.mo.mode = .run ∨ s.mo.mode = .commission) (hne : c.target ≠ s.mo.mode)
    (hs : c.target ≠ .safe) (hn : c.target ≠ .sentinel) (hb : c.target = .run → s.boundByR34 = false) (ho : s.cyclesOpen = false) :
    s.modeGo c = (s.changePending c).setMode c.target 3 := by
  rw [State.modeGo_change hne hs hn, if_neg (by simp [ho])]
  exact State.modeBoundary_pending rfl hm hb

theorem State.changePending_mo {s : State} (c : Cmd) :
    (s.changePending c).mo = { s.mo with pend := some c.target, pendCmd := some c.ref } := rfl

/-- The command that waits for the change is answered when it takes place. -/
theorem State.changePending_outcome {s : State} {c : Cmd} (hi : s.Inv) (hc : s.inCommission = false) (hmem : c ∈ s.mb.inflight)
    (hu : c.undecided = true) (hf : s.findCmd c.ring c.order = some c) :
    ((s.changePending c).setMode c.target 3).Outcome c .ok c.target.code 0 0 0 (some s.now) :=
  State.setMode_outcome (s := s.changePending c) (c := { c with phase := .started }) hi hc rfl rfl (State.setPhase_mem hmem hu _)
    (State.findCmd_setPhase hf hu _) rfl 3

/-! SAFE_EXIT. -/

/-- A cold start leaves the modes but for control, which runs with its first output write still to come. -/
theorem State.coldStart_mo {s : State} (hi : s.Inv) (cause : Nat) :
    (s.coldStart cause).mo = { s.mo with control := true, firstWrite := true } := by
  unfold State.coldStart
  extract_lets s1 s2 on csOld s3 moOld
  have hcold : Moves 0x1000000000000000000000000000000000000000000000000010001010300000037c17c00 s s2 := by
    refine Moves.trans ?_ (State.axCold_moves.mono rfl)
    refine Moves.trans ?_ (State.leCold_moves.mono rfl)
    refine Moves.trans ?_ (State.rpCold_moves.mono rfl)
    refine Moves.trans ?_ (State.pointsCold_moves.mono rfl)
    refine Moves.trans ?_ (State.lgCold_moves.mono rfl)
    refine Moves.trans ?_ (State.clearForces_moves.mono rfl)
    unfold s1
    split
    · exact State.journal_moves.mono rfl
    · exact Moves.refl
  have hs2 : s2.Inv := hcold.inv hi
  have hmo : s2.mo = s.mo := (hcold.keep hi .mo rfl).symm
  clear_value s2
  have hs3 : s3.Inv := hs2
  have hs3mo : s3.mo = { s2.mo with control := true, firstWrite := true } := rfl
  rw [← State.notify_moves.keep (State.wr_inv hs3 _ _ _) .mo rfl, State.wr_mo, hs3mo, hmo]

/-- Control starts cold in the mode named, and the stations start (R33). -/
def State.safeLeft (s : State) (c : Cmd) : State := ((s.setMode c.target 3).coldStart 2).stationsStart

theorem exec_safeExit_goes {s : State} {ring idx : Nat} {c : Cmd} (hr : s.Ready ring idx c) (hp : c.Plain opSafeExit 4)
    (hl : c.len = 4) (hb : c.targetBad = false) (ht : c.target = .commission ∨ c.target = .run) (ha : s.authorized c = true)
    (hm : s.mo.mode = .safe) (hbusy : c.busy = false) (hs : s.safeHolds = false) (h34 : c.target = .run → s.boundByR34 = false) :
    exec (.safeExit ring idx) s =
      .next ((s.safeLeft c).setPhase c.ring c.order (.decided .ok c.target.code 0 0 0 (some s.now))) := by
  show execSafeExit ring idx s = _
  refine hr.runCmd hp.isOp ((State.verdict_own hr hp ?_ rfl ?_ (fun _ => ha) ?_).trans ?_)
  · simp [hp.inline, hl]
  · obtain ht | ht := ht <;> simp [hb, ht]
  · simp [State.inMode, State.cmdMode, hm]
  · simpa [hbusy, hs] using h34

/-- Leaving SAFE leaves the commands in flight. -/
theorem State.safeLeft_inflight {s : State} (hi : s.Inv) (hm : s.mo.mode = .safe) (hpend : s.mo.pend = none)
    (hcmd : s.mo.pendCmd = none) (c : Cmd) : (s.safeLeft c).mb.inflight = s.mb.inflight := by
  have hset : (s.setMode c.target 3).Inv := State.setMode_moves.inv hi
  have hcold : ((s.setMode c.target 3).coldStart 2).Inv := State.coldStart_moves.inv hset
  have hanswered : s.modeAnswered c.target 3 = s.modeCoded c.target 3 := by
    simp [State.modeAnswered, State.inCommission, hm, hpend, hcmd, State.settle]
  rw [State.safeLeft, ← State.stationsStart_moves.keep hcold .phases rfl, ← State.coldStart_moves.keep hset .phases rfl,
    State.setMode_inflight hi, hanswered]
  rfl

theorem State.safeLeft_mo {s : State} (hi : s.Inv) (c : Cmd) :
    (s.safeLeft c).mo = { (s.setMode c.target 3).mo with control := true, firstWrite := true } := by
  have hset : (s.setMode c.target 3).Inv := State.setMode_moves.inv hi
  rw [State.safeLeft, ← State.stationsStart_moves.keep (State.coldStart_moves.inv hset) .mo rfl, State.coldStart_mo hset]

/-- Settles O33: a mode command that may run passes its checks exactly where Table 2.2 lists its transition, and then does what the
table says of it; any other leaves the modes (R30, R33, R41, R42, R556). -/
theorem modeCommandsFollowTheTransitionTable : Obligations.ModeCommandsFollowTheTransitionTable := by
  unfold Obligations.ModeCommandsFollowTheTransitionTable
  constructor
  · intro s ring idx c hi hr hp hl hb hmodes hbusy hidle hauth
    have hgoes := exec_modeRequest_goes hr hp hl hb hmodes hbusy hidle hauth
    refine ⟨?same, ?safe, ?sentinel, ?commission, ?run, ?forbidden⟩
    case same =>
      intro ht
      have hgo : s.modeGo c = s.answer c s.mo.mode.code 0 0 0 := by simp [State.modeGo, ht]
      exact ⟨_, (hgoes (.inl ht)).trans (congrArg _ hgo), rfl, State.answer_outcome hr.mem hr.undecided _ _ _ _⟩
    case safe =>
      intro ht hm
      have hmay : s.mayGo c.target = true := by simpa [State.mayGo, ht, or_assoc] using hm
      have hgo : s.modeGo c = (s.enterSafe 3).done c 7 0 0 0 := by obtain h | h | h := hm <;> simp [State.modeGo, ht, h]
      have hne : s.mo.mode ≠ .safe ∧ s.mo.mode ≠ .keeper ∧ s.mo.mode ≠ .boot := by obtain h | h | h := hm <;> simp [h]
      exact ⟨_, (hgoes (.inr hmay)).trans (congrArg _ hgo), State.enterSafe_mode hi hne.1 hne.2.1 hne.2.2 3⟩
    case sentinel =>
      intro ht hallowed
      have hm : s.mo.mode = .run := by
        simp only [State.sentAllowed, Bool.and_eq_true, beq_iff_eq] at hallowed
        tauto
      have hgo : s.modeGo c = s.sentAccept.done c 5 0 0 0 := by simp [State.modeGo, ht, hm]
      have hset := State.setMode_mo hi .sentinel 3
      exact ⟨_, (hgoes (.inr (ht ▸ hallowed))).trans (congrArg _ hgo), congrArg (·.mode) hset, congrArg (·.cause) hset, rfl⟩
    case commission =>
      intro ht hm
      have hmay : s.mayGo c.target = true := by simp [State.mayGo, ht, hm]
      constructor
      · intro ho hf
        have hgo := State.modeGo_change_now (c := c) (.inl hm) (by simp [ht, hm]) (by simp [ht]) (by simp [ht]) (by simp [ht]) ho
        have hset := State.setMode_mo (s := s.changePending c) hi c.target 3
        have hout := State.changePending_outcome hi (by simp [State.inCommission, hm]) hr.mem hr.undecided hf
        rw [ht] at hgo hset hout
        exact ⟨_, (hgoes (.inr hmay)).trans (congrArg _ hgo), congrArg (·.mode) hset, congrArg (·.cause) hset,
          (congrArg (·.prev) hset).trans hm, hout⟩
      · intro ho
        have hgo : s.modeGo c = s.changePending c :=
          (State.modeGo_change (by simp [ht, hm]) (by simp [ht]) (by simp [ht])).trans (if_pos ho)
        exact ⟨_, (hgoes (.inr hmay)).trans (congrArg _ hgo), hm, congrArg some ht, State.setPhase_mem hr.mem hr.undecided .started⟩
    case run =>
      intro ht hm hbound ho
      have hmay : s.mayGo c.target = true := by simp [State.mayGo, ht, hm, hbound]
      have hgo := State.modeGo_change_now (c := c) (.inr hm) (by simp [ht, hm]) (by simp [ht]) (by simp [ht]) (fun _ => hbound) ho
      have hset := State.setMode_mo (s := s.changePending c) hi c.target 3
      rw [ht] at hgo hset
      exact ⟨_, (hgoes (.inr hmay)).trans (congrArg _ hgo), congrArg (·.mode) hset, congrArg (·.cause) hset,
        (congrArg (·.prev) hset).trans hm⟩
    case forbidden =>
      intro hne ht
      have hno : s.mayGo c.target = false := by obtain h | h | h | h := ht <;> rw [h] <;> rfl
      have hrefuse := State.refuse_eq (s := s) (c := c) (v := (.modeForbids, s.mo.mode.code, 0)) (by simp)
      exact ⟨_, (exec_modeRequest_forbidden hr hp hl hb hmodes hbusy hidle hauth hne hno).trans (congrArg _ hrefuse), rfl,
        State.setPhase_mem hr.mem hr.undecided _⟩
  · intro s ring idx c hi hr hp hl hb ht ha hm hbusy hs h34 hpend hcmd
    have hin : c ∈ (s.safeLeft c).mb.inflight := by rw [State.safeLeft_inflight hi hm hpend hcmd]; exact hr.mem
    refine ⟨_, exec_safeExit_goes hr hp hl hb ht ha hm hbusy hs h34, ?_⟩
    rw [State.setPhase_mo, State.safeLeft_mo hi c, State.setMode_mo hi c.target 3]
    exact ⟨rfl, rfl, hm, rfl, State.setPhase_mem hin hr.undecided _⟩

end Sys2Proof.Machine
end

