-- ==== Sys2Proof/Proofs/BankSwaps.lean ====
section
/-! Filter bank swaps of a group (R154 to R157): a field written of each member of a group, the swap armed, and the swap done. -/

namespace Sys2Proof.Machine

open Sys2Proof

/-! One field written for each index of a list. -/

theorem State.setFlag_inv {s : State} (hi : s.Inv) (f : Field) (i : Nat) (b : Bool) : (s.setFlag f i b).Inv :=
  State.wr_inv hi f i (b2n b)

theorem State.rd_setFlag_ne {s : State} (hi : s.Inv) {f g : Field} (hf : f.fits = true) {i j : Nat} (b : Bool)
    (h : f.apart g i 0 j 0) : (s.setFlag f i b).rd g j = s.rd g j := State.rd_wr_ne hi hf (b2n b) h

/-- A value other than the default reads back from any table. -/
theorem mget_mset_of_ne {α : Type} [DecidableEq α] {d : Nat → α} {k : Nat} {v : α} (hv : v ≠ d k) :
    ∀ m : AMap α, mget d (mset d k v m) k = v
  | [] => by simp [mset, hv, mget]
  | (k', v') :: t => by
    unfold mset
    split
    · simp [mget]
    · next hne =>
      split
      · simp [mget]
      · next hlt => simp [mget, hne, hlt, mget_mset_of_ne hv t]

section each

variable {m v : Nat} {f : Field} {step : State → Nat → State} (hf : f.fits = true)
  (hstep : ∀ st a, Moves m (st.wr f a v) (step st a))
include hf hstep

/-- Where each step writes one field and nothing else of the registers, the fields apart from it stay. -/
theorem State.rd_each_apart {g : Field} {j : Nat} (hg : m.testBit (Part.regs g.unit).bit = false) (ha : ∀ a, f.apart g a 0 j 0) :
    ∀ (l : List Nat) {s : State}, s.Inv → (s.each l step).rd g j = s.rd g j
  | [], _, _ => rfl
  | a :: l, s, hi => by
    have hw : (s.wr f a v).Inv := State.wr_inv hi f a v
    calc ((step s a).each l step).rd g j = (step s a).rd g j := State.rd_each_apart hg ha l ((hstep s a).inv hw)
      _ = (s.wr f a v).rd g j := (hstep s a).rd hw hg j
      _ = s.rd g j := State.rd_wr_ne hi hf v (ha a)

/-- Afterwards the field holds the value at every index of the list, and where it held it before. -/
theorem State.rd_each_same {k : Nat} (hu : m.testBit (Part.regs f.unit).bit = false) (hk : k < 65536) :
    ∀ (l : List Nat) {s : State}, s.Inv → (∀ a, a ∈ l → a < 65536) → k ∈ l ∨ s.rd f k = v % 2 ^ (f.hi + 1 - f.lo) →
      (s.each l step).rd f k = v % 2 ^ (f.hi + 1 - f.lo)
  | [], _, _, _, h => h.resolve_left (List.not_mem_nil)
  | a :: l, s, hi, hl, h => by
    have hw : (s.wr f a v).Inv := State.wr_inv hi f a v
    refine State.rd_each_same hu hk l ((hstep s a).inv hw) (fun b hb => hl b (List.mem_cons_of_mem a hb)) ?_
    by_cases hka : k = a
    · subst hka
      exact .inr (((hstep s k).rd hw hu k).trans (State.rd_wr_same hi hf k v))
    · refine h.imp (fun hm => (List.mem_cons.1 hm).resolve_left hka) fun hv => ?_
      have ha : a < 65536 := hl a List.mem_cons_self
      have hapart : f.apart f a 0 k 0 := .inr (.inr (.inl (by omega)))
      exact (((hstep s a).rd hw hu k).trans (State.rd_wr_ne hi hf v hapart)).trans hv

end each

/-! A group and its members. -/

theorem State.swapMembers_lt {s : State} {g k : Nat} (hk : k ∈ s.swapMembers g) : k < 65536 := by
  have := List.mem_range.1 (List.mem_filter.1 hk).1
  omega

theorem State.swapMembers_congr {s t : State} (h : ∀ k, t.rd FC_CHAN_SWAP_GRP k = s.rd FC_CHAN_SWAP_GRP k) (g : Nat) :
    t.swapMembers g = s.swapMembers g := by
  simp [State.swapMembers, h]

/-- Each step of marking the members writes SWAP_PEND. -/
theorem State.swapPend_step (b : Bool) (st : State) (a : Nat) :
    Moves 0 (st.wr FC_CHAN_SWAP_PEND a (b2n b)) (st.setFlag FC_CHAN_SWAP_PEND a b) := Moves.refl

/-- Marking the members leaves every field apart from SWAP_PEND. -/
theorem State.rd_each_swapPend {s : State} (hi : s.Inv) (b : Bool) {g : Field} {j : Nat}
    (ha : ∀ a, FC_CHAN_SWAP_PEND.apart g a 0 j 0) (l : List Nat) :
    (s.each l (fun s k => s.setFlag FC_CHAN_SWAP_PEND k b)).rd g j = s.rd g j :=
  State.rd_each_apart rfl (State.swapPend_step b) (Nat.zero_testBit _) ha l hi

/-! BANK_SWAP. -/

/-- The swap noted and its command started. -/
def State.swapNoted (s : State) (c : Cmd) : State :=
  (s.setSwap (objInst c.objid) (some ⟨(c.par 0).get 0 0, s.swapInstant (c.par 1).toNat, c.ref⟩)).setPhase c.ring c.order .started

/-- The group showing it. -/
def State.swapShown (s : State) (c : Cmd) : State :=
  (((s.swapNoted c).setFlag FC_GRP_PEND (objInst c.objid) true).wr FC_GRP_BANK (objInst c.objid) ((c.par 0).get 0 0)).wr
    FC_GRP_SWAP_SEC (objInst c.objid) (c.par 1).toNat

/-- The members marked as well: the swap is armed. -/
def State.swapArmed (s : State) (c : Cmd) : State :=
  (s.swapShown c).each (s.swapMembers (objInst c.objid)) (fun s k => s.setFlag FC_CHAN_SWAP_PEND k true)

/-- With no swap pending and members that all pass R156, the swap is armed. -/
theorem State.fcBankSwap_arms {s : State} {c : Cmd} (hnone : s.swapOf (objInst c.objid) = none)
    (hmembers : s.swapMembers (objInst c.objid) ≠ [])
    (hok : ∀ k, k ∈ s.swapMembers (objInst c.objid) → s.bankOk k ((c.par 0).get 0 0) = true) : s.fcBankSwap c = s.swapArmed c := by
  have hfind : (s.swapMembers (objInst c.objid)).find? (fun k => !s.bankOk k ((c.par 0).get 0 0)) = none := by
    simpa [List.find?_eq_none] using hok
  simp [State.fcBankSwap, hnone, hfind, hmembers, State.swapArmed, State.swapShown, State.swapNoted]

theorem exec_bankSwap_arms {s : State} {ring idx : Nat} {c : Cmd} (hr : s.Ready ring idx c) (hp : c.Plain opBankSwap 8)
    (ha : s.authorized c = true) (hmodes : s.inMode modesTrain = true) (hvar : s.var = .cpx9640) (hunit : objUnit c.objid = 9)
    (hgrp : objGrp c.objid = 4) (hknown : objUnknown 9 4 (objInst c.objid) = false) (hpar : (c.par 0).get 31 1 = 0)
    (hboundary : s.boundaryOk (c.par 1).toNat = true) (hnone : s.swapOf (objInst c.objid) = none)
    (hmembers : s.swapMembers (objInst c.objid) ≠ [])
    (hok : ∀ k, k ∈ s.swapMembers (objInst c.objid) → s.bankOk k ((c.par 0).get 0 0) = true) :
    exec (.bankSwap ring idx) s = .next (s.swapArmed c) := by
  show execBankSwap ring idx s = _
  refine (hr.runCmd hp.isOp ((State.verdict_own hr hp hp.inline ?_ ?_ (fun _ => ha) ?_).trans rfl)).trans (congrArg _ ?_)
  · simp [State.swapAbsent, State.unitAbsent, hvar]
  · simp [hunit, hgrp, hknown, hpar, hboundary]
  · simpa [hunit] using hmodes
  · rw [if_pos (by simp [hunit])]
    exact State.fcBankSwap_arms hnone hmembers hok

theorem State.swapNoted_inv {s : State} (hi : s.Inv) (c : Cmd) : (s.swapNoted c).Inv :=
  State.setPhase_moves.inv (State.setSwap_moves.inv hi)

theorem State.swapShown_inv {s : State} (hi : s.Inv) (c : Cmd) : (s.swapShown c).Inv :=
  State.wr_inv (State.wr_inv (State.setFlag_inv (State.swapNoted_inv hi c) _ _ _) _ _ _) _ _ _

/-- Marking the members changes nothing but registers of FC. -/
theorem State.swapArmed_moves (s : State) (c : Cmd) : Moves 0x20000000000 (s.swapShown c) (s.swapArmed c) :=
  State.each_moves fun _ _ => Moves.setFlag Moves.refl rfl

theorem State.swapArmed_awaits {s : State} (hi : s.Inv) {c : Cmd} (hc : c ∈ s.mb.inflight) (hu : c.undecided = true) :
    (s.swapArmed c).Awaits c := by
  have hkept : (s.swapShown c).mb.inflight = (s.swapArmed c).mb.inflight :=
    (s.swapArmed_moves c).keep (State.swapShown_inv hi c) .phases rfl
  rw [State.Awaits, ← hkept]
  exact State.setPhase_mem (s := s.setSwap _ _) hc hu .started

theorem State.swapArmed_swapOf {s : State} (hi : s.Inv) (c : Cmd) :
    (s.swapArmed c).swapOf (objInst c.objid) = some ⟨(c.par 0).get 0 0, s.swapInstant (c.par 1).toNat, c.ref⟩ := by
  have hkept : (s.swapShown c).fc = (s.swapArmed c).fc := (s.swapArmed_moves c).keep (State.swapShown_inv hi c) .fc rfl
  rw [State.swapOf, ← hkept]
  exact mget_mset_of_ne (d := fun _ => none) (Option.some_ne_none _) s.fc.swaps

theorem State.swapArmed_pend {s : State} (hi : s.Inv) (c : Cmd) : (s.swapArmed c).flag FC_GRP_PEND (objInst c.objid) = true := by
  have hnoted := State.swapNoted_inv hi c
  have hset := State.setFlag_inv hnoted FC_GRP_PEND (objInst c.objid) true
  refine Eq.trans ?_ (State.flag_setFlag_same hnoted (f := FC_GRP_PEND) rfl (objInst c.objid) true)
  rw [State.flag, State.swapArmed, State.rd_each_swapPend (State.swapShown_inv hi c) true (fun _ => .inr (.inl (by decide))),
    State.swapShown, State.rd_wr_ne (State.wr_inv hset _ _ _) rfl _ (.inr (.inr (.inr (.inl (by decide))))),
    State.rd_wr_ne hset rfl _ (.inr (.inr (.inr (.inr (.inr (by decide)))))), State.flag]

theorem State.swapArmed_sec {s : State} (hi : s.Inv) (c : Cmd) :
    (s.swapArmed c).rd FC_GRP_SWAP_SEC (objInst c.objid) = (c.par 1).toNat := by
  have hset := State.setFlag_inv (State.swapNoted_inv hi c) FC_GRP_PEND (objInst c.objid) true
  rw [State.swapArmed, State.rd_each_swapPend (State.swapShown_inv hi c) true (fun _ => .inr (.inl (by decide))), State.swapShown,
    State.rd_wr_same (State.wr_inv hset _ _ _) rfl]
  exact Nat.mod_eq_of_lt (c.par 1).isLt

/-! FC_BANK_SWAP_INSTANT. -/

/-- A member takes the bank of the swap and is marked settling. -/
def State.takeBank (w : Swap) (s : State) (k : Nat) : State :=
  (((s.wr FC_CHAN_ACT_BANK k w.bank).fcKeep s k w.tb).countChg k).markFine k w.tb true 6

/-- The members not yet on the bank. -/
def State.offBank (s : State) (g : Nat) (w : Swap) : List Nat :=
  (s.swapMembers g).filter (fun k => s.rd FC_CHAN_ACT_BANK k != w.bank)

/-- Every member on the bank. -/
def State.banksTaken (s : State) (g : Nat) (w : Swap) : State := s.each (s.offBank g w) (State.takeBank w)

/-- The swap over and its command answered. -/
def State.swapAnswered (s : State) (g : Nat) (w : Swap) : State :=
  ((s.banksTaken g w).swapOver g).settle (some w.cmd) .ok 0 0 (some (Stamp.ofTai w.tb))

theorem exec_fcBankSwapInstant_due {s : State} {g : Nat} {w : Swap} (hpaths : s.pathsOn = true) (hw : s.swapOf g = some w)
    (hdue : w.tb ≤ s.tai) :
    exec (.fcBankSwapInstant g) s =
      .next ((s.swapAnswered g w).notifyAt 0x09 1 0 (Stamp.ofTai w.tb) g w.bank (s.offBank g w).length 0) := by
  show execFcBankSwapInstant g s = _
  unfold execFcBankSwapInstant
  rw [hw]
  exact if_neg (by simp [hpaths, hdue])

theorem State.takeBank_moves (w : Swap) (st : State) (a : Nat) :
    Moves 0x80000 (st.wr FC_CHAN_ACT_BANK a w.bank) (State.takeBank w st a) :=
  (State.fcKeep_moves.trans State.countChg_moves).trans State.markFine_moves

theorem State.banksTaken_moves (s : State) (g : Nat) (w : Swap) : Moves 0x20000080000 s (s.banksTaken g w) :=
  State.each_moves fun st a => (Moves.wr Moves.refl rfl).trans ((State.takeBank_moves w st a).mono rfl)

/-- Taking the bank leaves the members of a group the same. -/
theorem State.banksTaken_swapMembers {s : State} (hi : s.Inv) (g : Nat) (w : Swap) :
    (s.banksTaken g w).swapMembers g = s.swapMembers g :=
  State.swapMembers_congr
    (fun _ => State.rd_each_apart rfl (State.takeBank_moves w) rfl (fun _ => .inr (.inr (.inr (.inl (by decide))))) _ hi) g

theorem State.banksTaken_actBank {s : State} (hi : s.Inv) {g : Nat} {w : Swap} (hbank : w.bank < 2) {k : Nat}
    (hk : k ∈ s.swapMembers g) : (s.banksTaken g w).rd FC_CHAN_ACT_BANK k = w.bank := by
  have hmod : w.bank % 2 ^ (FC_CHAN_ACT_BANK.hi + 1 - FC_CHAN_ACT_BANK.lo) = w.bank := Nat.mod_eq_of_lt hbank
  refine (State.rd_each_same rfl (State.takeBank_moves w) rfl (State.swapMembers_lt hk) _ hi
    (fun a ha => State.swapMembers_lt (List.mem_filter.1 ha).1) ?_).trans hmod
  by_cases hon : s.rd FC_CHAN_ACT_BANK k = w.bank
  · exact .inr (hon.trans hmod.symm)
  · exact .inl (List.mem_filter.2 ⟨hk, by simpa using hon⟩)

/-- A swap that is over, before its members' marks are cleared. -/
def State.swapCleared (s : State) (g : Nat) : State := ((s.setSwap g none).setFlag FC_GRP_PEND g false).wr FC_GRP_SWAP_SEC g 0

theorem State.swapOver_eq (s : State) (g : Nat) :
    s.swapOver g = (s.swapCleared g).each (s.swapMembers g) (fun s k => s.setFlag FC_CHAN_SWAP_PEND k false) := rfl

theorem State.swapCleared_inv {s : State} (hi : s.Inv) (g : Nat) : (s.swapCleared g).Inv :=
  State.wr_inv (State.setFlag_inv (State.setSwap_moves.inv hi) _ _ _) _ _ _

theorem State.swapOver_actBank {s : State} (hi : s.Inv) (g k : Nat) :
    (s.swapOver g).rd FC_CHAN_ACT_BANK k = s.rd FC_CHAN_ACT_BANK k := by
  have hset : (s.setSwap g none).Inv := State.setSwap_moves.inv hi
  rw [State.swapOver_eq, State.rd_each_swapPend (State.swapCleared_inv hi g) false
    (fun _ => .inr (.inr (.inr (.inr (.inr (by decide)))))), State.swapCleared,
    State.rd_wr_ne (State.setFlag_inv hset _ _ _) rfl _ (.inr (.inl (by decide))),
    State.rd_setFlag_ne hset rfl _ (.inr (.inl (by decide)))]
  exact State.setSwap_moves.rd hi rfl k

theorem State.swapOver_swapPend {s : State} (hi : s.Inv) {g k : Nat} (hk : k ∈ s.swapMembers g) :
    (s.swapOver g).flag FC_CHAN_SWAP_PEND k = false := by
  have hzero := State.rd_each_same rfl (State.swapPend_step false) (Nat.zero_testBit _) (State.swapMembers_lt hk) (s.swapMembers g)
    (State.swapCleared_inv hi g) (fun _ => State.swapMembers_lt) (.inl hk)
  rw [State.flag, State.swapOver_eq, hzero]
  rfl

theorem State.swapOver_pend {s : State} (hi : s.Inv) (g : Nat) : (s.swapOver g).flag FC_GRP_PEND g = false := by
  have hset : (s.setSwap g none).Inv := State.setSwap_moves.inv hi
  refine Eq.trans ?_ (State.flag_setFlag_same hset (f := FC_GRP_PEND) rfl g false)
  rw [State.flag, State.swapOver_eq, State.rd_each_swapPend (State.swapCleared_inv hi g) false (fun _ => .inr (.inl (by decide))),
    State.swapCleared, State.rd_wr_ne (State.setFlag_inv hset _ _ _) rfl _ (.inr (.inr (.inr (.inl (by decide))))), State.flag]

/-- The swap done leaves the commands in flight. -/
theorem State.swapOver_banksTaken_inflight {s : State} (hi : s.Inv) (g : Nat) (w : Swap) :
    ((s.banksTaken g w).swapOver g).mb.inflight = s.mb.inflight :=
  (((s.banksTaken_moves g w).trans State.swapOver_moves).keep hi .phases rfl).symm

theorem State.swapAnswered_outcome {s : State} (hi : s.Inv) (g : Nat) {w : Swap} {c : Cmd} (hc : c ∈ s.mb.inflight)
    (hfind : s.findCmd w.cmd.1 w.cmd.2 = some c) (hu : c.undecided = true) :
    (s.swapAnswered g w).Outcome c .ok 0 0 0 0 (some (Stamp.ofTai w.tb)) := by
  have hinflight := State.swapOver_banksTaken_inflight hi g w
  have hname : w.cmd = c.ref := by
    rw [State.findCmd] at hfind
    have h := List.find?_some hfind
    simp only [Cmd.isThe, Bool.and_eq_true, beq_iff_eq] at h
    exact Prod.ext h.1.symm h.2.symm
  have hthere : ((s.banksTaken g w).swapOver g).findCmd c.ring c.order = some c := by
    rw [State.findCmd, hinflight]
    rw [hname] at hfind
    exact hfind
  rw [State.swapAnswered, hname, State.settle_eq hthere hu]
  exact State.setPhase_mem (by rwa [hinflight]) hu _

/-- What follows the swap, its answer and its notification, leaves the registers of FC. -/
theorem State.swapNotified_rd {s : State} (hi : s.Inv) (g : Nat) (w : Swap) (t : Stamp) (p0 p1 p2 p3 : Nat) {f : Field}
    (hf : f.unit = 9) (k : Nat) :
    ((s.swapAnswered g w).notifyAt 0x09 1 0 t p0 p1 p2 p3).rd f k = ((s.banksTaken g w).swapOver g).rd f k := by
  have hover : ((s.banksTaken g w).swapOver g).Inv := State.swapOver_moves.inv ((s.banksTaken_moves g w).inv hi)
  rw [State.swapAnswered, State.notifyAt_moves.rd (State.settle_moves.inv hover) (by rw [hf]; decide),
    State.settle_moves.rd hover (by rw [hf]; decide)]

end Sys2Proof.Machine
end

