-- ==== Sys2Proof/Proofs/InjectionsAndProcessBus.lean ====
section
/-! Injection tests (R134), the process bus (R160 to R162, R165) and the trackers' hold (R158, R159); with the bank swaps, O43. -/

namespace Sys2Proof.Machine

open Sys2Proof

theorem State.notifyAt_inflight {s : State} (hi : s.Inv) (unit code cls : Nat) (t : Stamp) (p0 p1 p2 p3 : Nat) :
    (s.notifyAt unit code cls t p0 p1 p2 p3).mb.inflight = s.mb.inflight := (State.notifyAt_moves.keep hi .phases rfl).symm

/-! Injection tests. -/

/-- The injection that a command asks for, from now. -/
def State.injectOf (s : State) (c : Cmd) : Inject :=
  ⟨(c.par 0).get 3 0, (c.par 1).get 31 30, signedOf 16 ((c.par 2).get 31 16), (c.par 2).get 15 0, s.tai⟩

/-- The core with the injection in force, and the injected channels' gain changed. -/
def State.injectionStarted (s : State) (core : Nat) (j : Inject) : State :=
  (s.setAfCore core { s.afCore core with inj := some j }).injChange core j.mask

section inject

variable {s : State} {ring idx : Nat} {c : Cmd} (hr : s.Ready ring idx c) (ha : s.authorized c = true) (hcore : isCoreObj c = true)
  (hknown : objUnknown 8 1 (objInst c.objid) = false)
include hr ha hcore hknown

theorem exec_injectStart_starts (hp : c.Plain opInjectStart 12) (hm : s.inMode modesC = true) (h0 : (c.par 0).get 31 4 = 0)
    (h1 : (c.par 1).get 29 0 = 0) (hwave : (c.par 1).get 31 30 ≠ 3) (hfreq : (c.par 2).get 15 0 ≠ 0)
    (hfree : (s.afCore (objInst c.objid)).inj = none) :
    exec (.injectStart ring idx) s = .next ((s.injectionStarted (objInst c.objid) (s.injectOf c)).done c 0 0 0 0) := by
  show execInjectStart ring idx s = _
  refine hr.runCmd hp.isOp ((State.verdict_own hr hp hp.inline rfl ?_ (fun _ => ha) ?_).trans ?_)
  · simp [State.coreChecks, hcore, hknown, h0, h1, hwave, hfreq]
  · exact hm
  · simp [State.coreChecks, hfree]

theorem exec_injectStop_goes (hp : c.Plain opInjectStop 0) (hm : s.inMode modesAll = true) :
    exec (.injectStop ring idx) s = .next (if (s.afCore (objInst c.objid)).inj.isSome then
      (s.injStop (objInst c.objid)).done c 0 0 0 0 else s.answer c 0 0 0 0) := by
  have hbuf : c.buf = false := by
    obtain ⟨-, -, -, hbuf, -⟩ := hp
    exact hbuf
  show execInjectStop ring idx s = _
  refine hr.runCmd hp.isOp ((State.verdict_own hr hp ?_ rfl ?_ (fun _ => ha) ?_).trans rfl)
  · simp [State.coreChecks, hbuf]
  · simp [State.coreChecks, hcore, hknown]
  · exact hm

end inject

theorem State.injectionStarted_moves (s : State) (core : Nat) (j : Inject) : Moves 0xc0000 s (s.injectionStarted core j) :=
  (State.setAfCore_moves.mono rfl).trans (State.injChange_moves.mono rfl)

/-- A change of the analog front end and the filter chains alone leaves the commands in flight and the time, so that a command is then
answered with the time now. -/
theorem Moves.done_outcome {s t : State} (h : Moves 0xc0000 s t) (hi : s.Inv) {c : Cmd} (hc : c ∈ s.mb.inflight)
    (hu : c.undecided = true) (r0 r1 r2 r3 : Nat) : (t.done c r0 r1 r2 r3).Outcome c .ok r0 r1 r2 r3 (some s.now) := by
  have hmb : s.mb = t.mb := h.keep hi .mb rfl
  have htu : s.tu = t.tu := h.keep hi .tu rfl
  have hnow : t.now = s.now := by rw [State.now, State.now, htu]
  rw [← hnow]
  exact State.done_outcome (hmb ▸ hc) hu r0 r1 r2 r3

/-- The gain events of an injection leave the cores. -/
theorem State.injChange_afCore {s : State} (hi : s.Inv) (core mask k : Nat) : (s.injChange core mask).afCore k = s.afCore k := by
  have haf : s.af = (s.injChange core mask).af := State.injChange_moves.keep hi .af rfl
  rw [State.afCore, State.afCore, haf]

theorem State.injectionStarted_inj {s : State} (hi : s.Inv) (core : Nat) (j : Inject) :
    ((s.injectionStarted core j).afCore core).inj = some j := by
  have hread : (s.setAfCore core { s.afCore core with inj := some j }).afCore core = { s.afCore core with inj := some j } :=
    mget_mset_of_ne (fun h => Option.some_ne_none j (congrArg AfCore.inj h)) s.af.cores
  rw [State.injectionStarted, State.injChange_afCore (State.setAfCore_moves.inv hi), hread]

theorem State.injStop_inj {s : State} (hi : s.Inv) (hok : mapOk (fun _ => AfCore.init) s.af.cores = true) (core : Nat) :
    ((s.injStop core).afCore core).inj = none := by
  unfold State.injStop
  split
  · assumption
  · have hread : (s.keepBefore.setAfCore core { s.afCore core with inj := none }).afCore core =
        { s.afCore core with inj := none } := mget_mset_same core _ s.af.cores hok
    rw [State.injChange_afCore (State.setAfCore_moves.inv (State.keepBefore_moves.inv hi)), hread]

/-- INJECT_STOP ends the injection; only where one ran has it an effect to time. -/
theorem State.injStop_answered {s : State} {c : Cmd} (hi : s.Inv) (hc : c ∈ s.mb.inflight) (hu : c.undecided = true)
    (hok : mapOk (fun _ => AfCore.init) s.af.cores = true) (core : Nat) :
    ∃ t, (if (s.afCore core).inj.isSome then (s.injStop core).done c 0 0 0 0 else s.answer c 0 0 0 0) = t ∧
      t.Outcome c .ok 0 0 0 0 (if (s.afCore core).inj = none then none else some s.now) ∧ (t.afCore core).inj = none := by
  refine ⟨_, rfl, ?_⟩
  cases hinj : (s.afCore core).inj with
  | none => exact ⟨State.answer_outcome hc hu 0 0 0 0, hinj⟩
  | some j => exact ⟨State.injStop_moves.done_outcome hi hc hu 0 0 0 0, State.injStop_inj hi hok core⟩

/-! Sampled-value streams. -/

/-- A new value on top of its stream, which is live. -/
def State.svTaken (s : State) (k cnt : Nat) (sync : Bool) (vals : List (Int × Nat)) : State :=
  (s.setSv k { s.sv k with hist := (⟨s.svInstant k cnt, s.tai, sync, vals⟩ :: (s.sv k).hist).take 320 }).wr FC_SVSTR_STATE k 1

/-- A count in range that no held value has is taken; a stream that was lost is reported back. -/
theorem State.svTake_takes {s : State} {k cnt : Nat} (sync : Bool) (vals : List (Int × Nat)) (hcnt : cnt < s.fsv k)
    (husers : s.svUsers k = []) (hnew : ∀ v, v ∈ (s.sv k).hist → v.t ≠ s.svInstant k cnt) :
    s.svTake k (cnt, sync, vals) = if s.rd FC_SVSTR_STATE k = 2 then (s.svTaken k cnt sync vals).notify 0x09 5 0 k 0 0 0
      else s.svTaken k cnt sync vals := by
  have hany : (s.sv k).hist.any (fun v => v.t == s.svInstant k cnt) = false := by
    simpa [List.any_eq_false] using hnew
  unfold State.svTake
  extract_lets t x users first s1 s2 s3
  rw [if_neg (by simp [users, husers, x, t, hany, hcnt])]
  have hs3 : s3 = s.svTaken k cnt sync vals := by simp [s3, users, husers, s2, s1, x, t, State.svTaken]
  have hs2 : s2 = s.svTaken k cnt sync vals := rfl
  by_cases hlive : s.rd FC_SVSTR_STATE k = 1
  · simp [first, hlive, hs2]
  · simp [first, hlive, hs3]

/-- Taken, the value and the stream's registers stay as they are. -/
theorem State.svTake_kept {s : State} {k cnt : Nat} (sync : Bool) (vals : List (Int × Nat)) (hcnt : cnt < s.fsv k)
    (husers : s.svUsers k = []) (hnew : ∀ v, v ∈ (s.sv k).hist → v.t ≠ s.svInstant k cnt) :
    Moves 0x1000000000000000000000000000000000000000000000000000000000000000000006c00 (s.svTaken k cnt sync vals)
      (s.svTake k (cnt, sync, vals)) := by
  rw [State.svTake_takes sync vals hcnt husers hnew]
  exact Moves.ite State.notify_moves Moves.refl

theorem exec_svFrameReceive_takes {s : State} {k appid mac confRev : Nat} (hpaths : s.pathsOn = true)
    (hfind : (List.range 32).find? (fun k => s.flag FC_SVSTR_EN k && s.rd FC_SVSTR_APPID k == appid
      && s.rd FC_SVSTR_MAC_HI k * 65536 + s.rd FC_SVSTR_MAC_LO k == mac) = some k)
    (hsingle : s.flag FC_SVSTR_SPC k = false) (hrev : s.rd FC_SVSTR_CONFREV k = confRev) (a : Nat × Bool × List (Int × Nat)) :
    exec (.svFrameReceive appid mac confRev 0x88BA 0 [a]) s = .next (s.svTake k a) := by
  show execSvFrameReceive appid mac confRev 0x88BA 0 [a] s = _
  unfold execSvFrameReceive
  rw [if_neg (by simp [hpaths]), hfind]
  simp [hsingle, hrev]

theorem State.svTaken_inv {s : State} (hi : s.Inv) (k cnt : Nat) (sync : Bool) (vals : List (Int × Nat)) :
    (s.svTaken k cnt sync vals).Inv := State.wr_inv (State.setSv_moves.inv hi) _ _ _

theorem State.svTaken_live {s : State} (hi : s.Inv) (k cnt : Nat) (sync : Bool) (vals : List (Int × Nat)) :
    (s.svTaken k cnt sync vals).rd FC_SVSTR_STATE k = 1 := State.rd_wr_same (State.setSv_moves.inv hi) rfl k 1

theorem State.svTaken_drop {s : State} (hi : s.Inv) (k cnt : Nat) (sync : Bool) (vals : List (Int × Nat)) :
    (s.svTaken k cnt sync vals).rd FC_SVSTR_DROP k = s.rd FC_SVSTR_DROP k :=
  (State.rd_wr_ne (State.setSv_moves.inv hi) rfl 1 (.inr (.inr (.inr (.inl (by decide)))))).trans (State.setSv_moves.rd hi rfl k)

theorem State.svTaken_head (s : State) (k cnt : Nat) (sync : Bool) (vals : List (Int × Nat)) :
    ((s.svTaken k cnt sync vals).sv k).hist.head? = some ⟨s.svInstant k cnt, s.tai, sync, vals⟩ := by
  have hread : (s.svTaken k cnt sync vals).sv k =
      { s.sv k with hist := (⟨s.svInstant k cnt, s.tai, sync, vals⟩ :: (s.sv k).hist).take 320 } :=
    mget_mset_of_ne (fun h => List.cons_ne_nil _ _ (congrArg SvSt.hist h)) s.fc.sv
  rw [hread]
  rfl

theorem State.deliverOrHold_ec {s : State} (hi : s.Inv) (n : Ntf) : (s.deliverOrHold n).ec = s.ec :=
  (State.deliverOrHold_moves.keep hi .ec rfl).symm

/-- A notification of an error class raises the error, among those that arrived. -/
theorem State.notifyAt_mem_arrivals {s : State} (hi : s.Inv) {unit code cls : Nat} (hcls : cls ≠ 0) (t : Stamp) (p0 p1 p2 p3 : Nat) :
    ⟨unit * 256 + code, cls⟩ ∈ (s.notifyAt unit code cls t p0 p1 p2 p3).ec.arrivals := by
  unfold State.notifyAt
  extract_lets errorCode s1 s2
  have hs1 : s1.Inv := State.handOff_moves.inv hi
  have hs2 : s2 = s1.arrive errorCode cls := if_neg hcls
  rw [hs2, State.deliverOrHold_ec (State.arrive_moves.inv hs1)]
  exact List.mem_append_right _ (List.mem_singleton.2 rfl)

theorem exec_svStreamLost_loses {s : State} {k : Nat} {v : SvVal} {l : List SvVal} (hk : k < 32) (hhist : (s.sv k).hist = v :: l)
    (hen : s.flag FC_SVSTR_EN k = true) (hlive : s.rd FC_SVSTR_STATE k = 1) (hdue : v.rx + 100000000 ≤ s.tai) :
    exec (.svStreamLost k) s = .next ((s.wr FC_SVSTR_STATE k 2).notify 0x09 4 2 k 0 0 0) := by
  show execSvStreamLost k s = _
  unfold execSvStreamLost
  rw [hhist]
  exact if_pos (by simp [hk, hen, hlive, hdue])

/-! Trackers. -/

/-- A tracker back at its nominal frequency. -/
def State.trackNominal (s : State) (k : Nat) : State :=
  ((s.extendTrack k (nextPass s.tai)).wr FC_TRACK_FREQ k (s.trackNom k)).wr FC_TRACK_STATE k 0

theorem exec_trackerHoldExpiry_due {s : State} {k : Nat} (hk : k < 8) (hhold : s.rd FC_TRACK_STATE k = 2)
    (hdue : (s.track k).holdAt + 2000000000 ≤ s.tai) : exec (.trackerHoldExpiry k) s = .next (s.trackNominal k) := by
  show execTrackerHoldExpiry k s = _
  exact if_pos (by simp [hk, hhold, hdue])

theorem State.trackNominal_state {s : State} (hi : s.Inv) (k : Nat) : (s.trackNominal k).rd FC_TRACK_STATE k = 0 :=
  State.rd_wr_same (State.wr_inv (State.extendTrack_moves.inv hi) _ _ _) rfl k 0

theorem State.trackNominal_freq {s : State} (hi : s.Inv) (k : Nat) :
    (s.trackNominal k).rd FC_TRACK_FREQ k = if s.flag FC_TRACK_NOM k then 60000000 else 50000000 := by
  have hi1 : (s.extendTrack k (nextPass s.tai)).Inv := State.extendTrack_moves.inv hi
  rw [State.trackNominal, State.rd_wr_ne (State.wr_inv hi1 _ _ _) rfl 0 (.inr (.inr (.inr (.inl (by decide))))),
    State.rd_wr_same hi1 rfl, State.trackNom]
  split <;> rfl

/-- Settles O43: each command or instant is an equation for the next state, and what it leaves is read off the writes in it. -/
theorem banksInjectionsAndProcessBusAct : Obligations.BanksInjectionsAndProcessBusAct := by
  unfold Obligations.BanksInjectionsAndProcessBusAct
  refine ⟨?swap, ?instant, ?inject, ?frame, ?lost, ?hold⟩
  case swap =>
    intro s ring idx c hi hr hp ha hm hvar hunit hgrp hknown hpar hboundary hnone hmembers hok
    exact ⟨_, exec_bankSwap_arms hr hp ha hm hvar hunit hgrp hknown hpar hboundary hnone hmembers hok,
      State.swapArmed_awaits hi hr.mem hr.undecided, State.swapArmed_swapOf hi c, State.swapArmed_pend hi c,
      State.swapArmed_sec hi c⟩
  case instant =>
    intro s g w c hi hpaths _ hw hdue hbank hc hfind hphase
    have htaken : (s.banksTaken g w).Inv := (s.banksTaken_moves g w).inv hi
    have hanswered : (s.swapAnswered g w).Inv := State.settle_moves.inv (State.swapOver_moves.inv htaken)
    refine ⟨_, exec_fcBankSwapInstant_due hpaths hw hdue, fun k hk => ⟨?_, ?_⟩, ?_, ?_⟩
    · rw [State.swapNotified_rd hi g w _ _ _ _ _ rfl, State.swapOver_actBank htaken]
      exact State.banksTaken_actBank hi hbank hk
    · rw [State.flag, State.swapNotified_rd hi g w _ _ _ _ _ rfl]
      exact State.swapOver_swapPend htaken ((State.banksTaken_swapMembers hi g w).symm ▸ hk)
    · rw [State.flag, State.swapNotified_rd hi g w _ _ _ _ _ rfl]
      exact State.swapOver_pend htaken g
    · rw [State.Outcome, State.notifyAt_inflight hanswered]
      exact State.swapAnswered_outcome hi g hc hfind (by rw [Cmd.undecided, hphase])
  case inject =>
    intro s ring idx c hi hr ha hcore _ hknown
    refine ⟨fun hp hm h0 h1 hwave hfreq hfree => ?_, fun hp hm hok => ?_⟩
    · exact ⟨_, exec_injectStart_starts hr ha hcore hknown hp hm h0 h1 hwave hfreq hfree,
        (s.injectionStarted_moves _ _).done_outcome hi hr.mem hr.undecided 0 0 0 0, State.injectionStarted_inj hi _ _⟩
    · obtain ⟨t, ht, heffect⟩ := State.injStop_answered hi hr.mem hr.undecided hok (objInst c.objid)
      exact ⟨t, (exec_injectStop_goes hr ha hcore hknown hp hm).trans (congrArg _ ht), heffect⟩
  case frame =>
    intro s k appid mac confRev cnt sync vals hi hpaths hfind hsingle hrev hcnt husers hnew
    have hkept := State.svTake_kept sync vals hcnt husers hnew
    have htaken := State.svTaken_inv hi k cnt sync vals
    refine ⟨_, exec_svFrameReceive_takes hpaths hfind hsingle hrev _, ?_, ?_, ?_⟩
    · exact (hkept.rd htaken rfl k).trans (State.svTaken_live hi k cnt sync vals)
    · have hfc : (s.svTaken k cnt sync vals).fc = (s.svTake k (cnt, sync, vals)).fc := hkept.keep htaken .fc rfl
      rw [State.sv, ← hfc]
      exact State.svTaken_head s k cnt sync vals
    · exact (hkept.rd htaken rfl k).trans (State.svTaken_drop hi k cnt sync vals)
  case lost =>
    intro s k v l hi hk hhist hen hlive hdue
    have hw : (s.wr FC_SVSTR_STATE k 2).Inv := State.wr_inv hi _ _ _
    refine ⟨_, exec_svStreamLost_loses hk hhist hen hlive hdue, ?_, ?_⟩
    · exact (State.notify_moves.rd hw rfl k).trans (State.rd_wr_same hi rfl k 2)
    · exact State.notifyAt_mem_arrivals hw (by decide) _ _ _ _ _
  case hold =>
    intro s k hi hk hhold hdue
    exact ⟨_, exec_trackerHoldExpiry_due hk hhold hdue, State.trackNominal_state hi k, State.trackNominal_freq hi k⟩

end Sys2Proof.Machine
end

