-- ==== Sys2Proof/Proofs/CheckOrder.lean ====
section
/-! The order of the checks of R80, for every command; what a refusal leaves unchanged (R73); CFG_APPLY as it is refused. -/

namespace Sys2Proof.Machine

open Sys2Proof

/-! The statuses in their order (R80). -/

section order

variable {s : State} {c : Cmd} {k : Checks}

theorem State.verdict_frameBad (hframe : c.frameBad = true) : s.verdict c k = some (.badObject, c.objid, 0) := if_pos hframe

variable (hframe : c.frameBad = false)
include hframe

theorem State.verdict_badLength (hlength : c.lengthOk = false ∨ k.form = false) : s.verdict c k = some (.badLength, 0, 0) := by
  have hlength : (!c.lengthOk || !k.form) = true := by simpa using hlength
  simp [State.verdict, hframe, hlength]

variable (hlength : c.lengthOk = true) (hform : k.form = true)
include hlength hform

/-- The object ID is judged before an absence that a parameter names. -/
theorem State.verdict_unitAbsent {o : Nat} (habsent : s.absentObj c = some o ∨ s.absentObj c = none ∧ k.absent = some o) :
    s.verdict c k = some (.unitAbsent, o, 0) := by
  rcases habsent with hobj | ⟨hobj, hpar⟩
  · simp [State.verdict, hframe, hlength, hform, hobj]
  · simp [State.verdict, hframe, hlength, hform, hobj, hpar]

variable (hobj : s.absentObj c = none) (habsent : k.absent = none) (hbuf : c.bufBad = false)
include hobj habsent hbuf

theorem State.verdict_badObject {r : Nat × Nat} (hbad : k.bad = some r) : s.verdict c k = some (.badObject, r.1, r.2) := by
  simp [State.verdict, hframe, hlength, hform, hobj, habsent, hbuf, hbad]

/-- With the form and the objects in order, authority is judged first, then the mode, then the opcode's own checks. -/
theorem State.verdict_judged (hbad : k.bad = none) : s.verdict c k =
    if k.auth && !s.authorized c then some (.authRequired, 0, 0)
    else if !k.modes then some (.modeForbids, s.cmdMode.code, 0) else k.own := by
  simp [State.verdict, hframe, hlength, hform, hobj, habsent, hbuf, hbad]

end order

/-- Authority that is not needed, or that the command has. -/
theorem State.authority_given {s : State} {c : Cmd} {k : Checks} (hauth : k.auth = true → s.authorized c = true) :
    (k.auth && !s.authorized c) = false := by
  cases h : k.auth
  · rfl
  · simp [hauth h]

theorem Cmd.Plain.bufBad {c : Cmd} {op len : Nat} (hp : c.Plain op len) : c.bufBad = false := by
  simp [Cmd.bufBad, hp.buf]

/-- A command without a buffer that may run is judged by authority, mode and its own checks once form and parameters pass. -/
theorem State.Ready.verdict_plain {s : State} {ring idx op len : Nat} {c : Cmd} (hr : s.Ready ring idx c) (hp : c.Plain op len)
    {k : Checks} (hform : k.form = true) (habsent : k.absent = none) (hbad : k.bad = none) : s.verdict c k =
      if k.auth && !s.authorized c then some (.authRequired, 0, 0)
      else if !k.modes then some (.modeForbids, s.cmdMode.code, 0) else k.own := by
  obtain ⟨-, -, -, -, hobj⟩ := hr
  obtain ⟨-, hframe, hlength, -, -⟩ := id hp
  exact State.verdict_judged hframe hlength hform hobj habsent hp.bufBad hbad

theorem Cmd.WithBuffer.isOp {c : Cmd} {op dir len : Nat} (hb : c.WithBuffer op dir len) : isOp op c = true := beq_iff_eq.2 hb.1

theorem Cmd.WithBuffer.buf {c : Cmd} {op dir len : Nat} (hb : c.WithBuffer op dir len) : c.buf = true := hb.2.2.2.1

theorem Cmd.WithBuffer.buffer {c : Cmd} {op dir len : Nat} (hb : c.WithBuffer op dir len) : c.buffer dir len = true := by
  obtain ⟨-, -, -, hbuf, hdir, -, hlen⟩ := hb
  simp [Cmd.buffer, hbuf, hdir, hlen]

/-- A command with a buffer that needs no authority and is accepted in the mode is judged by its own checks. -/
theorem State.Ready.verdict_buffer {s : State} {ring idx op dir len : Nat} {c : Cmd} (hr : s.Ready ring idx c)
    (hb : c.WithBuffer op dir len) {k : Checks} (hform : k.form = true) (habsent : k.absent = none) (hbad : k.bad = none)
    (hauth : k.auth = false) (hmodes : k.modes = true) : s.verdict c k = k.own := by
  obtain ⟨-, -, -, -, hobj⟩ := hr
  obtain ⟨-, hframe, hlength, -, -, hbuf, -⟩ := hb
  simp [State.verdict_judged hframe hlength hform hobj habsent hbuf hbad, hauth, hmodes]

/-! Refusals (R73, R80). -/

theorem State.refuse_outcome {s : State} {c : Cmd} (hc : c ∈ s.mb.inflight) (hu : c.undecided = true) {v : Status × Nat × Nat}
    (hv : v.1 ≠ .dmaFault) : (s.refuse c v).Outcome c v.1 v.2.1 v.2.2 0 0 none := by
  rw [State.refuse_eq hv]
  exact State.setPhase_mem hc hu _

/-- The kinds of state that the phase of a command is part of are the mailbox and the phases. -/
theorem Part.phaseMask_testBit {p : Part} (hmb : p ≠ .mb) (hphases : p ≠ .phases) :
    (0x10000000000000000000000000000000000000000000000000000000000000000000000000400 : Nat).testBit p.bit = false := by
  cases p with
  | mb => exact absurd rfl hmb
  | phases => exact absurd rfl hphases
  | regs u =>
    have hunits : ∀ v ∈ unitNumbers,
        (0x10000000000000000000000000000000000000000000000000000000000000000000000000400 : Nat).testBit (32 + v) = false := by decide
    rw [Part.bit]
    split
    · next hu => exact hunits u (List.contains_iff_mem.1 hu)
    · rfl
  | _ => rfl

/-- A refusal other than DMA_FAULT leaves every kind of state but the phase of the command. -/
theorem State.refuse_kept {s : State} (hi : s.Inv) (c : Cmd) {v : Status × Nat × Nat} (hv : v.1 ≠ .dmaFault) (p : Part)
    (hmb : p ≠ .mb) (hphases : p ≠ .phases) : p.kept s (s.refuse c v) := by
  rw [State.refuse_eq hv]
  exact State.setPhase_moves.keep hi p (Part.phaseMask_testBit hmb hphases)

/-! CFG_APPLY (R78). -/

/-- What CFG_APPLY asks of a command. -/
def State.applyChecks (s : State) (c : Cmd) : Checks :=
  { form := !c.buf, auth := true
    modes := s.inMode modesCrs || (s.mo.mode == .boot && s.mo.boot == .awaitConfig)
    own := s.applyFault }

section cfgApply

variable {s : State} {ring idx : Nat} {c : Cmd} (hr : s.Ready ring idx c) (hp : c.Plain opCfgApply 0)
include hr hp

theorem State.verdict_cfgApply : s.verdict c (s.applyChecks c) =
    if !s.authorized c then some (.authRequired, 0, 0)
    else if !(s.applyChecks c).modes then some (.modeForbids, s.cmdMode.code, 0) else s.applyFault := by
  have hform : (s.applyChecks c).form = true := by simp [State.applyChecks, hp.buf]
  simpa [State.applyChecks] using hr.verdict_plain hp hform rfl rfl

theorem exec_cfgApply_refused {v : Status × Nat × Nat} (hv : s.verdict c (s.applyChecks c) = some v) :
    exec (.cfgApply ring idx) s = .next (s.refuse c v) := by
  show execCfgApply ring idx s = _
  exact hr.runCmd_refused hp.isOp hv

/-- A CFG_APPLY that a check stops is answered with its status, and has no effect. -/
theorem State.cfgApply_turned_away (hi : s.Inv) {v : Status × Nat × Nat} (hv : s.verdict c (s.applyChecks c) = some v)
    (hd : v.1 ≠ .dmaFault) : ∃ t, exec (.cfgApply ring idx) s = .next t ∧ t.Outcome c v.1 v.2.1 v.2.2 0 0 none ∧
      (∀ p : Part, p ≠ .mb → p ≠ .phases → p.kept s t) ∧ t.mb.staged = s.mb.staged := by
  refine ⟨_, exec_cfgApply_refused hr hp hv, State.refuse_outcome hr.mem hr.undecided hd, State.refuse_kept hi c hd, ?_⟩
  rw [State.refuse_eq hd]
  rfl

end cfgApply

/-- Settles O35: the checks in their order give the first status that applies; a CFG_APPLY that one of them stops is only
answered. -/
theorem earlierStatusOfTheOrderIsReturned : Obligations.EarlierStatusOfTheOrderIsReturned := by
  unfold Obligations.EarlierStatusOfTheOrderIsReturned
  refine ⟨fun s c k => ⟨State.verdict_frameBad, State.verdict_badLength, ?absent, ?bad, ?judged⟩, ?apply⟩
  case absent => exact fun o hf hl hform habsent => State.verdict_unitAbsent hf hl hform habsent
  case bad => exact fun r hf hl hform ho ha hb hbad => State.verdict_badObject hf hl hform ho ha hb hbad
  case judged =>
    intro hf hl hform ho ha hb hbad
    rw [State.verdict_judged hf hl hform ho ha hb hbad]
    refine ⟨fun hneed hnot => by simp [hneed, hnot], fun hauth hmodes => ?_, fun hauth hmodes => ?_⟩
    · simp [State.authority_given hauth, hmodes]
    · simp [State.authority_given hauth, hmodes]
  case apply =>
    intro s ring idx c hi hr hp
    have hverdict := State.verdict_cfgApply hr hp
    refine ⟨fun hauth => ?_, fun hauth hmode hboot => ?_, fun hauth hmode hnone => ?_⟩
    · exact State.cfgApply_turned_away hr hp hi (v := (.authRequired, 0, 0)) (by simp [hverdict, hauth]) (by decide)
    · have hcmd : s.cmdMode = .boot := by simp [State.cmdMode, hmode]
      have hmodes : (s.applyChecks c).modes = false := by simp [State.applyChecks, State.inMode, hcmd, modesCrs, hboot]
      exact State.cfgApply_turned_away hr hp hi (v := (.modeForbids, 1, 0)) (by simp [hverdict, hauth, hmodes, hcmd, Mode.code])
        (by decide)
    · have hmodes : (s.applyChecks c).modes = true := by simp [State.applyChecks, hmode]
      have hfault : s.applyFault = some (.noMatch, 0, 0) := by simp [State.applyFault, hnone]
      obtain ⟨t, ht, hout, hkept, -⟩ := State.cfgApply_turned_away hr hp hi (v := (.noMatch, 0, 0))
        (by simp [hverdict, hauth, hmodes, hfault]) (by decide)
      exact ⟨t, ht, hout, hkept⟩

end Sys2Proof.Machine
end

