-- ==== Sys2Proof/Proofs/ObjectAccess.lean ====
section
/-! NOP, OBJ_DESCRIBE, OBJ_READ, OBJ_WRITE and OBJ_MODIFY (R75 to R77): what they answer, and what a write leaves of each bit. -/

namespace Sys2Proof.Machine

open Sys2Proof

/-! NOP and OBJ_DESCRIBE (R75, R77). -/

theorem exec_nop_answers {s : State} {ring idx : Nat} {c : Cmd} (hr : s.Ready ring idx c) (hp : c.Plain opNop 0)
    (hm : s.inMode modesAll = true) : exec (.nop ring idx) s = .next (s.fail c .ok 0) := by
  show execNop ring idx s = _
  exact hr.runCmd hp.isOp (State.verdict_own hr hp (by simp [hp.buf]) rfl rfl (by simp) (by simp [hm]))

theorem Cmd.unknownObj_eq {c : Cmd} {o : ObjSpec} (ho : findObj (objUnit c.objid) (objGrp c.objid) = some o)
    (hfull : o.full (objInst c.objid) = true) : c.unknownObj = false := by
  simp [Cmd.unknownObj, objUnknown, ho, hfull]

theorem exec_objDescribe_answers {s : State} {ring idx : Nat} {c : Cmd} {o : ObjSpec} (hr : s.Ready ring idx c)
    (hp : c.Plain opDescribe 0) (hm : s.inMode modesAll = true) (ho : findObj (objUnit c.objid) (objGrp c.objid) = some o)
    (hfull : o.full (objInst c.objid) = true) :
    exec (.objDescribe ring idx) s = .next (s.answer c o.nwords (writableWords o) 0 0) := by
  show execObjDescribe ring idx s = _
  refine (hr.runCmd hp.isOp
    (State.verdict_own hr hp (by simp [hp.buf]) rfl (by simp [Cmd.unknownObj_eq ho hfull]) (by simp) hm)).trans ?_
  simp only [ho]

/-- Bits summed up in rising order, each where its word has a field, are those bits. -/
theorem sumOfBits_testBit (f : Nat → Nat) (n : Nat) :
    (List.range n).foldl (fun a w => if f w = 0 then a else a + 2 ^ w) 0 < 2 ^ n ∧
      ∀ k, ((List.range n).foldl (fun a w => if f w = 0 then a else a + 2 ^ w) 0).testBit k = (decide (k < n) && f k != 0) := by
  induction n with
  | zero => simp
  | succ n ih =>
    obtain ⟨hlt, hbits⟩ := ih
    rw [List.range_succ, List.foldl_append, List.foldl_cons, List.foldl_nil]
    generalize (List.range n).foldl _ 0 = a at hlt hbits ⊢
    by_cases hf : f n = 0
    · rw [if_pos hf]
      refine ⟨by rw [Nat.pow_succ]; omega, fun k => (hbits k).trans ?_⟩
      by_cases hk : k = n
      · simp [hk, hf]
      · congr 1
        exact decide_eq_decide.2 (by omega)
    · rw [if_neg hf]
      refine ⟨by rw [Nat.pow_succ]; omega, fun k => ?_⟩
      have hor : a + 2 ^ n = 2 ^ n ||| a := by
        rw [Nat.add_comm]
        simpa using Nat.two_pow_add_eq_or_of_lt hlt 1
      rw [hor, Nat.testBit_or, Nat.testBit_two_pow, hbits]
      by_cases hk : n = k
      · subst hk
        simp [hf]
      · have hiff : decide (k < n) = decide (k < n + 1) := decide_eq_decide.2 (by omega)
        simp [hk, hiff]

theorem writableWords_testBit (o : ObjSpec) {n : Nat} (hn : n < 32) :
    (writableWords o).testBit n = (maskOfFields (fun a => a != .ro) n o.fields != 0) := by
  have hbit := (sumOfBits_testBit (fun w => maskOfFields (fun a => a != .ro) w o.fields) 32).2 n
  rw [writableWords]
  simpa [hn] using hbit

/-- Settles O26: NOP and OBJ_DESCRIBE answer at once, the latter with the number of words and the bits of the words that have a
field which is not read-only. -/
theorem nopCompletesAndDescribeNamesTheObject : Obligations.NopCompletesAndDescribeNamesTheObject := by
  unfold Obligations.NopCompletesAndDescribeNamesTheObject
  constructor
  · intro s ring idx c _ hr hp hm
    exact ⟨_, exec_nop_answers hr hp hm, State.setPhase_mem hr.mem hr.undecided _⟩
  · intro s ring idx c o _ hr hp hm ho hfull _
    exact ⟨_, writableWords o, exec_objDescribe_answers hr hp hm ho hfull, State.answer_outcome hr.mem hr.undecided _ _ _ _,
      fun n hn => writableWords_testBit o hn⟩

/-! OBJ_READ (R75, R76). -/

/-- The words that an OBJ_READ asks for. -/
def State.readWords (s : State) (c : Cmd) : List W32 :=
  (List.range c.count).map (fun k => s.objWord (objUnit c.objid) (objGrp c.objid) (objInst c.objid) (c.first + k))

/-- What OBJ_READ asks of a command. -/
def State.readChecks (s : State) (dmaOk : Bool) (c : Cmd) : Checks :=
  { form := c.wordsFit && (if c.buf then c.buffer 1 4 && decide (4 * c.count ≤ c.bufLen) else c.inline 4 && decide (c.count ≤ 4))
    bad := if c.unknownObj then some (c.objid, 0) else none
    auth := false
    modes := s.romRecovery || s.inMode modesAll
    own := if c.buf then s.dmaCheck c dmaOk else none }

/-- The answer to an OBJ_READ: the words in the result, or in the buffer. -/
def State.readGo (s : State) (c : Cmd) : State :=
  if c.buf then (s.dmaOut c.bufLoc c.bufAddr (s.readWords c)).answer c 0 0 0 0
  else s.answer c ((s.readWords c).getD 0 0).toNat ((s.readWords c).getD 1 0).toNat ((s.readWords c).getD 2 0).toNat
    ((s.readWords c).getD 3 0).toNat

theorem State.readWords_getD (s : State) (c : Cmd) (k : Nat) : ((s.readWords c).getD k 0).toNat =
    if k < c.count then (s.objWord (objUnit c.objid) (objGrp c.objid) (objInst c.objid) (c.first + k)).toNat else 0 := by
  by_cases hk : k < c.count <;> simp [State.readWords, List.getD_eq_getElem?_getD, hk]

theorem State.readWords_getElem? (s : State) {c : Cmd} {k : Nat} (hk : k < c.count) : (s.readWords c)[k]? =
    some (s.objWord (objUnit c.objid) (objGrp c.objid) (objInst c.objid) (c.first + k)) := by
  simp [State.readWords, hk]

theorem Cmd.wordsFit_eq {c : Cmd} {o : ObjSpec} (ho : findObj (objUnit c.objid) (objGrp c.objid) = some o) (hn : 1 ≤ c.count)
    (hfit : c.first + c.count ≤ o.nwords) : c.wordsFit = true := by
  simp [Cmd.wordsFit, ho, hfit, Nat.ne_of_gt hn]

section objRead

variable {s : State} {ring idx : Nat} {dmaOk : Bool} {c : Cmd} (hr : s.Ready ring idx c)
include hr

theorem exec_objRead_goes (hop : isOp opRead c = true) (hv : s.verdict c (s.readChecks dmaOk c) = none) :
    exec (.objRead ring idx dmaOk) s = .next (s.readGo c) := by
  show execObjRead ring idx dmaOk s = _
  exact hr.runCmd hop hv

variable (hm : s.inMode modesAll = true) (hknown : c.unknownObj = false) (hfit : c.wordsFit = true)
include hm hknown hfit

theorem exec_objRead_inline (hp : c.Plain opRead 4) (hn : c.count ≤ 4) :
    exec (.objRead ring idx dmaOk) s = .next (s.readGo c) := by
  refine exec_objRead_goes hr hp.isOp ((State.verdict_own hr hp ?form rfl ?bad ?auth ?modes).trans ?own)
  case form => simp [State.readChecks, hfit, hp.buf, hp.inline, hn]
  case bad => simp [State.readChecks, hknown]
  case auth => simp [State.readChecks]
  case modes => simp [State.readChecks, hm]
  case own => simp [State.readChecks, hp.buf]

theorem exec_objRead_buffer (hb : c.WithBuffer opRead 1 4) (hroom : 4 * c.count ≤ c.bufLen) (hok : dmaOk = true)
    (hreach : s.bufReach c = true) : exec (.objRead ring idx dmaOk) s = .next (s.readGo c) := by
  refine exec_objRead_goes hr hb.isOp ((hr.verdict_buffer hb ?form rfl ?bad rfl ?modes).trans ?own)
  case form => simp [State.readChecks, hfit, hb.buf, hb.buffer, hroom]
  case bad => simp [State.readChecks, hknown]
  case modes => simp [State.readChecks, hm]
  case own => simp [State.readChecks, hb.buf, State.dmaCheck, hok, hreach]

end objRead

/-- Settles O28: an OBJ_READ whose form and buffer are in order is answered with the words it names, and changes no register. -/
theorem objReadReturnsTheWordsAsked : Obligations.ObjReadReturnsTheWordsAsked := by
  unfold Obligations.ObjReadReturnsTheWordsAsked
  intro s ring idx dmaOk c o _ hr hm ho hfull _ hn hend
  have hknown : c.unknownObj = false := Cmd.unknownObj_eq ho hfull
  have hfit : c.wordsFit = true := Cmd.wordsFit_eq ho hn hend
  constructor
  · intro hp hn4
    refine ⟨_, exec_objRead_inline hr hm hknown hfit hp hn4, ?_⟩
    rw [State.readGo, if_neg (by simp [hp.buf])]
    refine ⟨rfl, fun r hres => ?_⟩
    simp only [hres, ← State.readWords_getD]
    exact State.answer_outcome hr.mem hr.undecided _ _ _ _
  · intro hb hroom hok hreach
    refine ⟨_, exec_objRead_buffer hr hm hknown hfit hb hroom hok hreach, ?_⟩
    rw [State.readGo, if_pos hb.buf]
    refine ⟨rfl, State.answer_outcome (s := s.dmaOut _ _ _) hr.mem hr.undecided 0 0 0 0,
      ⟨c.bufLoc, c.bufAddr, s.readWords c⟩, rfl, rfl, rfl, ?_, fun k hk => State.readWords_getElem? s hk⟩
    simp [State.readWords]

end Sys2Proof.Machine
end

