-- ==== Sys2Proof/Proofs/ObjectWrites.lean ====
section
/-! OBJ_WRITE and OBJ_MODIFY of the units that take their settings at once (R73, R75): what a write leaves of each bit of the words
it names, and of the other words of the object. -/

namespace Sys2Proof.Machine

open Sys2Proof

/-! One word (R75). -/

/-- The bits of a 32-bit word that lie outside a mask. -/
theorem testBit_outside {m b : Nat} (hm : m < 2 ^ 32) (hb : b < 32) : (0xFFFFFFFF - m).testBit b = !m.testBit b := by
  have hsub : 0xFFFFFFFF - m = 2 ^ 32 - (m + 1) := by omega
  rw [hsub, Nat.testBit_two_pow_sub_succ hm]
  simp [hb]

theorem and_toNat_lt (n : Nat) (v : W32) : n &&& v.toNat < 2 ^ 32 := Nat.and_lt_two_pow n v.isLt

theorem blend_testBit {old v m b : Nat} (hm : m < 2 ^ 32) (hb : b < 32) :
    (blend old m v).testBit b = if m.testBit b then v.testBit b else old.testBit b := by
  rw [blend, Nat.testBit_or, Nat.testBit_and, Nat.testBit_and, testBit_outside hm hb]
  cases m.testBit b <;> simp

/-- Each bit of a word after a write is as R75 states. -/
theorem wroteWord_getLsbD (fs : List Field) (w : Nat) (old m v : W32) {b : Nat} (hb : b < 32) :
    (wroteWord fs w old.toNat m.toNat v.toNat).getLsbD b = bitWritten fs w b old m v := by
  have hclear : maskOfFields (· == .w1c) w fs &&& m.toNat &&& v.toNat < 2 ^ 32 := and_toNat_lt _ v
  simp only [wroteWord, BitVec.getLsbD_ofNat, hb, decide_true, Bool.true_and, Nat.testBit_and, testBit_outside hclear hb,
    blend_testBit (and_toNat_lt _ m) hb]
  rfl

/-! The words of a write, one after another. -/

/-- One word of a write of an object, as it is stored. -/
def WReq.store (r : WReq) (fs : List Field) (s : State) (e : (W32 × W32) × Nat) : State :=
  s.putWord r.unit r.grp r.i (r.first + e.2)
    (wroteWord fs (r.first + e.2) (s.word r.unit r.grp r.i (r.first + e.2)).toNat e.1.1.toNat e.1.2.toNat)

/-- Outside the filter chains a write stores its words and no more. -/
theorem State.applyWords_stores (s : State) {r : WReq} {o : ObjSpec} (hu : r.unit ≠ 9) (ho : findObj r.unit r.grp = some o) :
    s.applyWords r = r.ws.zipIdx.foldl (r.store o.fields) s := by
  simp only [State.applyWords, hu, false_and, if_false, ho]
  rfl

theorem WReq.store_inv {s : State} (hi : s.Inv) (r : WReq) (fs : List Field) (e : (W32 × W32) × Nat) : (r.store fs s e).Inv :=
  ⟨mset_ok hi.1, hi.2⟩

theorem WReq.store_word_ne {s : State} (hi : s.Inv) (r : WReq) (fs : List Field) (e : (W32 × W32) × Nat) {w : Nat} (hw : w < 4096)
    (hlt : r.first + e.2 < 4096) (hne : w ≠ r.first + e.2) :
    (r.store fs s e).word r.unit r.grp r.i w = s.word r.unit r.grp r.i w :=
  State.word_putWord_ne hi _ (.inr (.inr (.inr (by rwa [Nat.mod_eq_of_lt hw, Nat.mod_eq_of_lt hlt]))))

/-- Words of the object that a write does not name stay. -/
theorem WReq.stores_word_other (r : WReq) (fs : List Field) {w : Nat} (hw : w < 4096) : ∀ (ws : List (W32 × W32)) (n : Nat)
    {s : State}, s.Inv → r.first + n + ws.length ≤ 4096 → (w < r.first + n ∨ r.first + n + ws.length ≤ w) →
      ((ws.zipIdx n).foldl (r.store fs) s).word r.unit r.grp r.i w = s.word r.unit r.grp r.i w
  | [], _, _, _, _, _ => rfl
  | x :: ws, n, s, hi, hend, hout => by
    rw [List.length_cons] at hend hout
    rw [List.zipIdx_cons, List.foldl_cons,
      WReq.stores_word_other r fs hw ws (n + 1) (WReq.store_inv hi r fs (x, n)) (by omega) (by omega)]
    exact WReq.store_word_ne hi r fs (x, n) hw (show r.first + n < 4096 by omega) (show w ≠ r.first + n by omega)

/-- A word that a write names is written over what it held before. -/
theorem WReq.stores_word_named (r : WReq) (fs : List Field) : ∀ (ws : List (W32 × W32)) (n : Nat) {s : State} {k : Nat}
    {x : W32 × W32}, s.Inv → r.first + n + ws.length ≤ 4096 → ws[k]? = some x →
      ((ws.zipIdx n).foldl (r.store fs) s).word r.unit r.grp r.i (r.first + n + k) =
        wroteWord fs (r.first + n + k) (s.word r.unit r.grp r.i (r.first + n + k)).toNat x.1.toNat x.2.toNat
  | [], _, _, _, _, _, _, hx => by simp at hx
  | y :: ws, n, s, k, x, hi, hend, hx => by
    rw [List.length_cons] at hend
    have hstored : (r.store fs s (y, n)).Inv := WReq.store_inv hi r fs (y, n)
    rw [List.zipIdx_cons, List.foldl_cons]
    cases k with
    | zero =>
      obtain rfl : y = x := by simpa using hx
      rw [Nat.add_zero, WReq.stores_word_other r fs (by omega) ws (n + 1) hstored (by omega) (.inl (by omega))]
      exact State.word_putWord_same hi _ _ _ _ _
    | succ k =>
      have hx : ws[k]? = some x := hx
      have hk : k < ws.length := (List.getElem?_eq_some_iff.1 hx).1
      have hnext := WReq.stores_word_named r fs ws (n + 1) hstored (by omega) hx
      rw [show r.first + (n + 1) + k = r.first + n + (k + 1) by omega,
        WReq.store_word_ne hi r fs (y, n) (by omega) (show r.first + n < 4096 by omega)
          (show r.first + n + (k + 1) ≠ r.first + n by omega)] at hnext
      exact hnext

/-! Units that take their settings at once. -/

/-- No object of these units has more words than a word number can name. -/
theorem nwords_le_of_plainUnits {u g : Nat} {o : ObjSpec} (hu : u ∈ plainUnits) (ho : findObj u g = some o) : o.nwords ≤ 4096 := by
  have hall : ∀ u ∈ plainUnits, ∀ o ∈ unitObjs u, o.nwords ≤ 4096 := by decide
  exact hall u hu o (List.mem_of_find?_eq_some ho)

theorem State.waits_plainUnits (s : State) {u : Nat} (hu : u ∈ plainUnits) : s.waits u = false := by
  have hall : ∀ u ∈ plainUnits, protUnit u = false ∧ (u == 0x18 || u == 0x19) = false := by decide
  obtain ⟨hprot, hloop⟩ := hall u hu
  simp [State.waits, hprot, hloop]

/-- A write of these units stores its words, and nothing else happens. -/
theorem State.commitWrite_plainUnits (s : State) {r : WReq} (cmd : Option (Nat × Nat)) (hu : r.unit ∈ plainUnits) :
    s.commitWrite r cmd = (s.applyWords r, false) := by
  obtain ⟨u, g, i, first, ws⟩ := r
  simp only [plainUnits, List.mem_cons, List.not_mem_nil, or_false] at hu
  rcases hu with rfl | rfl | rfl | rfl | rfl | rfl | rfl | rfl | rfl <;> rfl

/-- The state after a write that is done at once. -/
theorem State.goWrite_plainUnits (s : State) (c : Cmd) {r : WReq} (hu : r.unit ∈ plainUnits) :
    s.goWrite c r = (s.applyWords r).done c 0 0 0 0 := by
  rw [State.goWrite, s.waits_plainUnits hu, if_neg Bool.false_ne_true, s.commitWrite_plainUnits _ hu]
  rfl

theorem State.applyWords_keeps {s : State} (hi : s.Inv) (r : WReq) :
    (s.applyWords r).mb = s.mb ∧ (s.applyWords r).now = s.now := by
  have hmoves := State.applyWords_moves (s := s) (a0 := r)
  refine ⟨(hmoves.keep hi .mb rfl).symm, ?_⟩
  rw [State.now, State.now, ← hmoves.keep hi .tu rfl]

/-- A write that is done at once answers with OK and the present instant, writes the words it names bit by bit, and leaves the other
words of its object. -/
theorem State.goWrite_effect {s : State} (hi : s.Inv) {c : Cmd} (hc : c ∈ s.mb.inflight) (hu : c.undecided = true) {r : WReq}
    {o : ObjSpec} (hplain : r.unit ∈ plainUnits) (ho : findObj r.unit r.grp = some o) (hend : r.first + r.ws.length ≤ 4096) :
    (s.goWrite c r).Outcome c .ok 0 0 0 0 (some s.now) ∧
      (∀ k x b, r.ws[k]? = some x → b < 32 → ((s.goWrite c r).word r.unit r.grp r.i (r.first + k)).getLsbD b =
        bitWritten o.fields (r.first + k) b (s.word r.unit r.grp r.i (r.first + k)) x.1 x.2) ∧
      ∀ w, w < 4096 → (w < r.first ∨ r.first + r.ws.length ≤ w) →
        (s.goWrite c r).word r.unit r.grp r.i w = s.word r.unit r.grp r.i w := by
  have hne : r.unit ≠ 9 := by
    intro h9
    rw [h9] at hplain
    exact absurd hplain (by decide)
  obtain ⟨hmb, hnow⟩ := State.applyWords_keeps hi r
  rw [s.goWrite_plainUnits c hplain]
  refine ⟨?_, fun k x b hx hb => ?_, fun w hw hout => ?_⟩
  · rw [← hnow]
    exact State.done_outcome (by rwa [hmb]) hu 0 0 0 0
  · show ((s.applyWords r).word r.unit r.grp r.i (r.first + k)).getLsbD b = _
    have hnamed := WReq.stores_word_named r o.fields r.ws 0 hi hend hx
    rw [s.applyWords_stores hne ho, ← wroteWord_getLsbD o.fields _ _ _ _ hb]
    exact congrArg (·.getLsbD b) hnamed
  · show (s.applyWords r).word r.unit r.grp r.i w = _
    rw [s.applyWords_stores hne ho]
    exact WReq.stores_word_other r o.fields hw r.ws 0 hi hend hout

/-! The words that a command names. -/

theorem Cmd.writeReq_length (c : Cmd) (buf : Option (List W32)) : (c.writeReq buf).ws.length = c.count := by
  simp [Cmd.writeReq, wreq, wholeWords]

/-- Inline, the words of an OBJ_WRITE are its parameters from the second on, whole. -/
theorem Cmd.writeReq_getElem? {c : Cmd} {op len : Nat} (hp : c.Plain op len) (buf : Option (List W32)) {k : Nat}
    (hk : k < c.count) : (c.writeReq buf).ws[k]? = some (0xFFFFFFFF, c.par (1 + k)) := by
  have hpar : (c.pars 1)[k]?.getD 0 = c.par (1 + k) := by
    have hword : 5 + k = 4 + (1 + k) := by omega
    simp [Cmd.pars, Cmd.par, Cmd.word, hp.buf, List.getD_eq_getElem?_getD, hword]
  simpa [Cmd.writeReq, wreq, wholeWords, hp.buf, hk] using hpar

theorem Cmd.words_end {c : Cmd} {o : ObjSpec} (hfit : c.wordsFit = true) (hu : objUnit c.objid ∈ plainUnits)
    (ho : findObj (objUnit c.objid) (objGrp c.objid) = some o) : c.first + c.count ≤ 4096 := by
  have hend : c.count ≠ 0 ∧ c.first + c.count ≤ o.nwords := by simpa [Cmd.wordsFit, ho] using hfit
  exact hend.2.trans (nwords_le_of_plainUnits hu ho)

/-- Settles O29: in a unit that takes its settings at once, a write that passed its checks stores the words it names, each bit by its
access, and answers. -/
theorem objWriteAndModifyWriteTheWordsNamed : Obligations.ObjWriteAndModifyWriteTheWordsNamed := by
  unfold Obligations.ObjWriteAndModifyWriteTheWordsNamed
  constructor
  · intro s ring idx buf c o hi hr hp hn hfit hu ho _ hv
    have hend := Cmd.words_end hfit hu ho
    have hlen := c.writeReq_length buf
    obtain ⟨hout, hnamed, hother⟩ := State.goWrite_effect (r := c.writeReq buf) hi hr.mem hr.undecided hu ho (by rwa [hlen])
    refine ⟨_, exec_objWrite_inline hr hp hn hfit hv, hout,
      fun k b hk hb => hnamed k _ b (Cmd.writeReq_getElem? hp buf hk) hb, fun w hw hout => hother w hw ?_⟩
    rwa [hlen]
  · intro s ring idx c o hi hr hp hn hfit hu ho hv
    have hend := Cmd.words_end hfit hu ho
    obtain ⟨hout, hnamed, hother⟩ := State.goWrite_effect (r := c.modifyReq) hi hr.mem hr.undecided hu ho
      (show c.first + 1 ≤ 4096 by omega)
    refine ⟨_, exec_objModify_plain hr hp hn hfit hv, hout, fun b hb => ?_, fun w hw hne => hother w hw ?_⟩
    · have hword := hnamed 0 (c.par 1, c.par 2) b rfl hb
      rw [Nat.add_zero] at hword
      exact hword
    · show w < c.first ∨ c.first + 1 ≤ w
      omega

end Sys2Proof.Machine
end

