-- ==== Sys2Proof/Proofs/AbortAndRoutes.lean ====
section
/-! ABORT (R74) and NOTIFY_ROUTE (R77): the target taken out of its unit's work and answered, and the route read back. -/

namespace Sys2Proof.Machine

open Sys2Proof

/-! ABORT (R74). -/

/-- A decided command keeps its outcome while another is given a phase. -/
theorem State.setPhase_mem_decided {s : State} {a : Cmd} (ha : a ∈ s.mb.inflight) (hu : a.undecided = false) (ring order : Nat)
    (p : CmdPhase) : a ∈ (s.setPhase ring order p).mb.inflight :=
  List.mem_map.2 ⟨a, ha, by simp [hu]⟩

theorem State.abortTarget_mem {s : State} {c a : Cmd} (ha : s.abortTarget c = some a) : a ∈ s.mb.inflight :=
  (List.mem_filter.1 (List.mem_of_mem_head? ha)).1

/-- A command that alone has its name is found by it. -/
theorem State.findCmd_of_unique {s : State} {a : Cmd} (ha : a ∈ s.mb.inflight)
    (hone : ∀ x ∈ s.mb.inflight, x.ref = a.ref → x = a) : s.findCmd a.ring a.order = some a := by
  have hname : ∀ x : Cmd, x.isThe a.ring a.order = true ↔ x.ref = a.ref := by simp [Cmd.isThe, Cmd.ref]
  cases hf : s.findCmd a.ring a.order with
  | none => exact absurd ((hname a).2 rfl) (List.find?_eq_none.1 hf a ha)
  | some x =>
    have hthe : x.isThe a.ring a.order = true := List.find?_some (p := fun x : Cmd => x.isThe a.ring a.order) hf
    rw [hone x (List.mem_of_find?_eq_some hf) ((hname x).1 hthe)]

section abort

variable {s : State} {ring idx : Nat} {c : Cmd} (hr : s.Ready ring idx c) (hp : c.Plain opAbort 8) (hlen : c.len = 8)
  (hobj : c.objid = 0) (h0 : (c.par 0).get 31 30 = 0) (h1 : (c.par 0).get 23 16 = 0) (h2 : (c.par 1).get 30 16 = 0)
  (hm : s.inMode modesAll = true)
include hr hp hlen hobj h0 h1 h2 hm

/-- An ABORT in good form passes its checks. -/
theorem State.verdict_abort : s.verdict c
    { form := !c.buf && c.len == 8
      bad := if c.objid != 0 || (c.par 0).get 31 30 != 0 || (c.par 0).get 23 16 != 0 || (c.par 1).get 30 16 != 0 then
          some (c.objid, 0) else none
      auth := false
      modes := s.inMode modesAll } = none :=
  State.verdict_own hr hp (by simp [hp.buf, hlen]) rfl (by simp [hobj, h0, h1, h2]) (by simp) hm

/-- The target's work goes from its unit, the target is answered with ABORTED, and the ABORT with OK. -/
theorem exec_abort_aborts {a : Cmd} (ha : s.abortTarget c = some a) (hu : a.undecided = true) (hc : s.pastCommit a = false)
    (hswitch : s.lg.switch = none) : exec (.abort ring idx) s =
      .next (((s.dropWork a.ref).settle (some a.ref) .aborted 0 0 none).done c 0 0 0 0) := by
  show execAbort ring idx s = _
  refine (hr.runCmd hp.isOp (State.verdict_abort hr hp hlen hobj h0 h1 h2 hm)).trans ?_
  simp [ha, hu, hc, hswitch]

theorem exec_abort_noMatch (ha : s.abortTarget c = none ∨ ∃ a, s.abortTarget c = some a ∧ a.undecided = false) :
    exec (.abort ring idx) s = .next (s.fail c .noMatch 0) := by
  show execAbort ring idx s = _
  refine (hr.runCmd hp.isOp (State.verdict_abort hr hp hlen hobj h0 h1 h2 hm)).trans ?_
  rcases ha with ha | ⟨a, ha, hu⟩
  · simp [ha]
  · simp [ha, hu]

end abort

/-- Settles O27: a target whose outcome is open leaves its unit's work and is answered with ABORTED; without one only the ABORT is
answered. -/
theorem abortEndsACommandBeforeItsCommitPoint : Obligations.AbortEndsACommandBeforeItsCommitPoint := by
  unfold Obligations.AbortEndsACommandBeforeItsCommitPoint
  constructor
  · intro s ring idx c a hi hr hp hlen hobj h0 h1 h2 hm ha hu hc hone hswitch
    refine ⟨_, exec_abort_aborts hr hp hlen hobj h0 h1 h2 hm ha hu hc hswitch, ?_⟩
    have hmem : a ∈ s.mb.inflight := State.abortTarget_mem ha
    have hmb : (s.dropWork a.ref).mb = s.mb := (State.dropWork_moves.keep hi .mb rfl).symm
    have hmem' : a ∈ (s.dropWork a.ref).mb.inflight := by rwa [hmb]
    have hfind : (s.dropWork a.ref).findCmd a.ring a.order = some a :=
      State.findCmd_of_unique hmem' fun x hx => (hone x (by rwa [hmb] at hx)).1
    rw [State.settle_eq hfind hu]
    exact State.setPhase_mem_decided (State.setPhase_mem hmem' hu _) rfl _ _ _
  · intro s ring idx c hi hr hp hlen hobj h0 h1 h2 hm ha
    exact ⟨_, exec_abort_noMatch hr hp hlen hobj h0 h1 h2 hm ha, State.setPhase_mem hr.mem hr.undecided _,
      fun x hx hu => State.setPhase_mem_decided hx hu _ _ _⟩

/-! NOTIFY_ROUTE (R77). -/

/-- Writing another key into a table that does not list a key leaves it unlisted, in any table. -/
theorem mget_mset_unlisted {α : Type} [DecidableEq α] {d : Nat → α} {j k : Nat} (v : α) (hne : j ≠ k) : ∀ (m : AMap α),
    (∀ e ∈ m, e.1 ≠ j) → mget d (mset d k v m) j = d j
  | [], _ => by
    unfold mset
    split
    · rfl
    · simp [hne, mget]
  | (k', v') :: t, hm => by
    obtain ⟨hk', ht⟩ := List.forall_mem_cons.1 hm
    have hkept : mget d t j = d j := by
      have hrest : t.filter (fun e => e.1 != j) = t := List.filter_eq_self.2 fun e he => by simpa using ht e he
      rw [← hrest]
      exact mget_filter_dropped (by simp) t
    have hk' : j ≠ k' := Ne.symm hk'
    unfold mset
    split
    · split
      · exact hkept
      · rw [mget_cons, if_neg hne, hkept, ite_self]
    · split
      · split
        · rw [mget_cons, if_neg hk', hkept, ite_self]
        · rw [mget_cons, if_neg hne, mget_cons, if_neg hk', hkept, ite_self, ite_self]
      · rw [mget_cons, if_neg hk', mget_mset_unlisted v hne t ht, ite_self]

/-- The routes that a new one leaves: with 0xFFFF those of the unit go. -/
def State.routesLeft (s : State) (u code : Nat) : AMap Nat :=
  if code = 0xFFFF then s.mb.routes.filter (fun e => e.1 / 65536 != u) else s.mb.routes

/-- The state with a code of a unit routed, or with 0xFFFF every code. -/
def State.routed (s : State) (u code ring : Nat) : State :=
  { s with mb := { s.mb with routes := mset (fun _ => 0) (u * 65536 + code) (ring + 1) (s.routesLeft u code) } }

theorem exec_notifyRoute_routes {s : State} {ring idx : Nat} {c : Cmd} (hr : s.Ready ring idx c) (hp : c.Plain opNotifyRoute 4)
    (hm : s.inMode modesAll = true) (hu : objUnit c.objid ∈ unitIds) (hobj : c.objid % 2 ^ 24 = 0) (h0 : (c.par 0).get 15 6 = 0) :
    exec (.notifyRoute ring idx) s =
      .next ((s.routed (objUnit c.objid) ((c.par 0).get 31 16) ((c.par 0).get 5 0)).done c 0 0 0 0) := by
  have hinst : c.objid % 16777216 = 0 := hobj
  show execNotifyRoute ring idx s = _
  exact hr.runCmd hp.isOp (State.verdict_own hr hp hp.inline rfl (by simp [hu, hinst, h0]) (by simp) hm)

theorem State.routed_routeOf (s : State) (u code ring : Nat) : (s.routed u code ring).routeOf u code = some ring := by
  have hroute : mget (fun _ => 0) (s.routed u code ring).mb.routes (u * 65536 + code) = ring + 1 :=
    mget_mset_of_ne (d := fun _ => 0) (Nat.succ_ne_zero ring) _
  rw [State.routeOf, hroute]

/-- With 0xFFFF every code of the unit is routed, since none keeps a route of its own. -/
theorem State.routed_all (s : State) (u ring : Nat) {code : Nat} (hcode : code < 65536) :
    (s.routed u 0xFFFF ring).routeOf u code = some ring := by
  by_cases hall : code = 0xFFFF
  · rw [hall]
    exact s.routed_routeOf u 0xFFFF ring
  · have hother : mget (fun _ => 0) (s.routed u 0xFFFF ring).mb.routes (u * 65536 + code) = 0 := by
      have hne : u * 65536 + code ≠ u * 65536 + 0xFFFF := by omega
      refine mget_mset_unlisted (d := fun _ => 0) (ring + 1) hne (s.routesLeft u 0xFFFF) fun e he => ?_
      obtain ⟨-, hunit⟩ := List.mem_filter.1 he
      have hunit : e.1 / 65536 ≠ u := by simpa using hunit
      omega
    have hevery : mget (fun _ => 0) (s.routed u 0xFFFF ring).mb.routes (u * 65536 + 0xFFFF) = ring + 1 :=
      mget_mset_of_ne (d := fun _ => 0) (Nat.succ_ne_zero ring) _
    rw [State.routeOf, hother, hevery]

/-- Settles O32: the route set reads back, and a route of all codes of a unit replaces those of its single codes. -/
theorem notifyRouteSetsTheRouteOfACode : Obligations.NotifyRouteSetsTheRouteOfACode := by
  unfold Obligations.NotifyRouteSetsTheRouteOfACode
  intro s ring idx c _ hr hp hm hu hobj h0 _
  refine ⟨_, exec_notifyRoute_routes hr hp hm hu hobj h0,
    State.done_outcome (s := s.routed _ _ _) hr.mem hr.undecided 0 0 0 0, s.routed_routeOf _ _ _, fun hall code hcode => ?_⟩
  rw [hall]
  exact s.routed_all _ _ hcode

end Sys2Proof.Machine
end

