-- ==== Sys2Proof/Proofs/ConfigImages.lean ====
section
/-! CFG_LOAD, CFG_DISCARD, CFG_APPLY and CFG_READ (R78, R558): which image they leave staged and which committed. -/

namespace Sys2Proof.Machine

open Sys2Proof

/-! CFG_LOAD. -/

/-- An image that nothing refuses has been read. -/
theorem State.readImage_of_loadFault {s : State} {ws : List W32} {room : Nat} {sig : Bool} (hf : s.loadFault ws room sig = none) :
    ∃ x, readImage ws room (sig || !s.openedLike) = .ok x := by
  unfold State.loadFault at hf
  split at hf
  · cases hf
  · split at hf
    · cases hf
    · next x hx => exact ⟨x, hx⟩

/-- The state with an image staged, or with none. -/
def State.withStaged (s : State) (im : Option CfgImage) : State := { s with mb := { s.mb with staged := im } }

theorem exec_cfgLoad_stages {s : State} {ring idx : Nat} {ws : List W32} {sig : Bool} {c : Cmd} {x : RawImage}
    (hr : s.Ready ring idx c) (hb : c.WithBuffer opCfgLoad 0 0) (hm : s.inMode modesAll = true) (hreach : s.bufReach c = true)
    (hfault : s.loadFault ws c.bufLen sig = none) (hx : readImage ws c.bufLen (sig || !s.openedLike) = .ok x) :
    exec (.cfgLoad ring idx (some ws) sig) s = .next ((s.withStaged (some x.image)).done c 0 0 0 0) := by
  show execCfgLoad ring idx (some ws) sig s = _
  refine (hr.runCmd hb.isOp ((hr.verdict_buffer hb ?form ?absent ?bad ?auth ?modes).trans ?own)).trans ?_
  case absent => rfl
  case bad => rfl
  case auth => rfl
  case modes => exact hm
  case form => exact hb.buffer
  case own => simp [State.reach, hreach, hfault]
  simp only [Option.getD_some, hx]
  rfl

/-! CFG_DISCARD. -/

theorem exec_cfgDiscard_goes {s : State} {ring idx : Nat} {c : Cmd} (hr : s.Ready ring idx c) (hp : c.Plain opCfgDiscard 0)
    (hm : s.inMode modesAll = true) : exec (.cfgDiscard ring idx) s =
      .next (if s.mb.staged.isNone then s.answer c 0 0 0 0 else (s.withStaged none).done c 0 0 0 0) := by
  show execCfgDiscard ring idx s = _
  exact hr.runCmd hp.isOp (State.verdict_own hr hp (by simp [hp.buf]) rfl rfl (by simp) hm)

/-! CFG_APPLY. -/

/-- The image is committed, and its parts are in force or staged for their units. -/
def State.imageApplied (s : State) (im : CfgImage) : State := (s.commitImage im).takeImage im

theorem State.imageApplied_images {s : State} (hi : s.Inv) (im : CfgImage) :
    (s.imageApplied im).Inv ∧ (s.imageApplied im).mb.committed = some im ∧ (s.imageApplied im).mb.staged = none ∧
      (s.imageApplied im).mb.older = s.mb.committed.toList ++ s.mb.older := by
  have hcommit : (s.commitImage im).Inv := State.commitImage_moves.inv hi
  obtain ⟨hstaged, hcommitted, holder⟩ := (State.takeImage_moves (a0 := im)).keep hcommit .images rfl
  exact ⟨State.takeImage_moves.inv hcommit, hcommitted.symm, hstaged.symm, holder.symm⟩

/-- Taking an image leaves the modes. -/
theorem State.imageApplied_mo {s : State} (hi : s.Inv) (im : CfgImage) : (s.imageApplied im).mo = s.mo :=
  (State.takeImage_moves.keep (s := s.commitImage im) (State.commitImage_moves.inv hi) .mo rfl).symm

/-- Outside BOOT the command waits for every unit of the image to take its part, and may end at once. -/
def State.applyStarted (s : State) (c : Cmd) (im : CfgImage) (t : Stamp) : State :=
  State.applyDone (State.start { s with mb := { s.mb with applying := some (c.ring, c.order, t), applyUnits := im.units } } c)

/-- In BOOT start-up goes on to the protection step, and the paths begin. -/
def State.applyBooted (s : State) : State :=
  State.bootPaths { s with mo := { s.mo with boot := .protection, controlLoaded := s.mo.sdram.isSome } }

theorem State.applyStarted_images {s : State} (hi : s.Inv) (c : Cmd) (im : CfgImage) (t : Stamp) :
    Part.images.kept s (s.applyStarted c im t) :=
  State.applyDone_moves.keep
    (s := State.start { s with mb := { s.mb with applying := some (c.ring, c.order, t), applyUnits := im.units } } c) hi .images rfl

theorem State.applyBooted_effect {s : State} (hi : s.Inv) :
    s.applyBooted.mb = s.mb ∧ s.applyBooted.mo.boot = .protection ∧ s.applyBooted.mo.bootstat = s.mo.bootstat := by
  have hmoves := State.bootPaths_moves (s := { s with mo := { s.mo with boot := .protection, controlLoaded := s.mo.sdram.isSome } })
  have hmo : { s.mo with boot := .protection, controlLoaded := s.mo.sdram.isSome } = s.applyBooted.mo := hmoves.keep hi .mo rfl
  exact ⟨(hmoves.keep hi .mb rfl).symm, by rw [← hmo], by rw [← hmo]⟩

theorem exec_cfgApply_takes {s : State} {ring idx : Nat} {c : Cmd} {im : CfgImage} (hr : s.Ready ring idx c)
    (hp : c.Plain opCfgApply 0) (ha : s.authorized c = true) (hstaged : s.mb.staged = some im) (hfault : s.applyFault = none)
    (hmodes : (s.applyChecks c).modes = true) : exec (.cfgApply ring idx) s =
      .next (if s.mo.mode == .boot then (s.imageApplied im).applyBooted.done c 0 0 0 0
        else (s.imageApplied im).applyStarted c im s.now) := by
  have hverdict : s.verdict c (s.applyChecks c) = none := by simp [State.verdict_cfgApply hr hp, ha, hmodes, hfault]
  show execCfgApply ring idx s = _
  refine (hr.runCmd hp.isOp hverdict).trans ?_
  simp only [hstaged]
  rfl

/-! CFG_READ (R558). -/

section cfgRead

variable {s : State} {ring idx : Nat} {dmaOk : Bool} {c : Cmd} (hr : s.Ready ring idx c) (hp : c.Plain opCfgRead 4)
  (hm : s.inMode modesAll = true) (h0 : (c.par 0).get 31 1 = 0)
include hr hp hm h0

theorem exec_cfgRead_answers {im : CfgImage} (him : s.selImage c = some im) :
    exec (.cfgRead ring idx dmaOk) s = .next (s.answer c im.len im.crc im.svn im.vmask) := by
  show execCfgRead ring idx dmaOk s = _
  refine (hr.runCmd hp.isOp ((State.verdict_own hr hp ?form rfl ?bad ?auth hm).trans ?own)).trans ?_
  case form => simp [hp.buf, hp.inline, him]
  case bad => simp [h0]
  case auth => simp
  case own => simp [him, hp.buf]
  simp [him, hp.buf]

theorem exec_cfgRead_noMatch (him : s.selImage c = none) :
    exec (.cfgRead ring idx dmaOk) s = .next (s.refuse c (.noMatch, 0, 0)) := by
  show execCfgRead ring idx dmaOk s = _
  refine hr.runCmd_refused hp.isOp ((State.verdict_own hr hp ?form rfl ?bad ?auth hm).trans ?own)
  case form => simp [hp.buf, hp.inline, him]
  case bad => simp [h0]
  case auth => simp
  case own => simp [him]

end cfgRead

/-- Settles O31: each command that passes its checks is an equation for the next state, in which the images are read off. -/
theorem configurationImagesAreStagedAppliedAndRead : Obligations.ConfigurationImagesAreStagedAppliedAndRead := by
  unfold Obligations.ConfigurationImagesAreStagedAppliedAndRead
  refine ⟨?load, ?discard, ?apply, ?read⟩
  case load =>
    intro s ring idx ws sig c _ hr hb hm hreach hfault
    obtain ⟨x, hx⟩ := State.readImage_of_loadFault hfault
    exact ⟨_, x, exec_cfgLoad_stages hr hb hm hreach hfault hx, hx, rfl, rfl, rfl,
      State.done_outcome (s := s.withStaged _) hr.mem hr.undecided 0 0 0 0⟩
  case discard =>
    intro s ring idx c _ hr hp hm
    refine ⟨_, exec_cfgDiscard_goes hr hp hm, ?_⟩
    cases hstaged : s.mb.staged with
    | none => exact ⟨hstaged, rfl, rfl, State.answer_outcome hr.mem hr.undecided 0 0 0 0⟩
    | some im => exact ⟨rfl, rfl, rfl, State.done_outcome (s := s.withStaged none) hr.mem hr.undecided 0 0 0 0⟩
  case apply =>
    intro s ring idx c im hi hr hp ha hstaged hfault
    refine ⟨fun hm => ?_, fun hm hboot => ?_⟩
    · have hmode : (s.mo.mode == .boot) = false := by
        rw [beq_eq_false_iff_ne]
        intro hmode
        simp [State.inMode, State.cmdMode, hmode, modesCrs] at hm
      refine ⟨_, exec_cfgApply_takes hr hp ha hstaged hfault (by simp [State.applyChecks, hm]), ?_⟩
      rw [hmode]
      obtain ⟨hinv, hcommitted, hstaged, holder⟩ := State.imageApplied_images hi im
      obtain ⟨hs, hc, ho⟩ := State.applyStarted_images hinv c im s.now
      exact ⟨hc.symm.trans hcommitted, hs.symm.trans hstaged, ho.symm.trans holder⟩
    · refine ⟨_, exec_cfgApply_takes hr hp ha hstaged hfault (by simp [State.applyChecks, hm, hboot]), ?_⟩
      rw [hm]
      obtain ⟨hinv, hcommitted, hstaged, -⟩ := State.imageApplied_images hi im
      obtain ⟨hmb, hboot, hstat⟩ := State.applyBooted_effect hinv
      exact ⟨(congrArg Mailbox.committed hmb).trans hcommitted, (congrArg Mailbox.staged hmb).trans hstaged, hboot,
        hstat.trans (congrArg Modes.bootstat (State.imageApplied_mo hi im))⟩
  case read =>
    intro s ring idx dmaOk c _ hr hp hm h0
    cases him : s.selImage c with
    | none =>
      refine ⟨_, exec_cfgRead_noMatch hr hp hm h0 him, ?_⟩
      rw [State.refuse_eq (by decide)]
      exact ⟨rfl, fun im h => absurd (him.symm.trans h) (by simp), fun _ => State.setPhase_mem hr.mem hr.undecided _⟩
    | some im =>
      refine ⟨_, exec_cfgRead_answers hr hp hm h0 him, rfl, fun im' h => ?_, fun h => absurd (him.symm.trans h) (by simp)⟩
      obtain rfl : im = im' := Option.some.inj (him.symm.trans h)
      exact State.answer_outcome hr.mem hr.undecided _ _ _ _

end Sys2Proof.Machine
end

