-- ==== Sys2Proof/Proofs/CommandRings.lean ====
section
/-! COMMAND_FETCH and COMPLETION_WRITE (R61, R62, R64, R70, R71): an entry taken into flight, a fetch that fails, and a completion
written, discarded or held back. -/

namespace Sys2Proof.Machine

open Sys2Proof

/-! Fetching (R70). -/

theorem State.nextRing_lt {s : State} {n : Nat} (hn : s.nextRing = some n) : n < 64 := by
  have hpending : ∀ {m : Nat}, m ∈ s.pendingRings → m < 64 := fun hm => List.mem_range.1 (List.mem_filter.1 hm).1
  simp only [State.nextRing] at hn
  split at hn
  · cases hn
  · split at hn
    · next m hm => exact Option.some.inj hn ▸ hpending (List.mem_of_find?_eq_some hm)
    · split at hn
      · cases hn
      · split at hn
        · next m hm => exact Option.some.inj hn ▸ hpending (List.mem_of_find?_eq_some hm)
        · exact hpending (List.mem_of_mem_head? hn)

theorem exec_commandFetch_fetches {s : State} {n : Nat} (ws : List W32) (hf : s.fetches = true) (hn : s.nextRing = some n)
    (hloc : s.flag MB_RINGREG_LOC n = false) : exec (.commandFetch (some ws)) s = .next (s.fetchEntry n ws none) := by
  show execCommandFetch (some ws) s = _
  simp [execCommandFetch, hf, hn, hloc]

theorem exec_commandFetch_fails {s : State} {n : Nat} (hf : s.fetches = true) (hn : s.nextRing = some n) :
    exec (.commandFetch none) s = .next (s.ringDmaFault n) := by
  show execCommandFetch none s = _
  simp [execCommandFetch, hf, hn]

/-- A PROD or CONS that wraps at the ring's size reads back. -/
theorem State.ringIndex_lt {s : State} {n : Nat} (hsize : s.rd MB_RINGREG_SIZE_LOG2 n ≤ 16) (p : Nat) :
    p % s.ringSize n % 2 ^ 16 = p % s.ringSize n := by
  have hpos : 0 < s.ringSize n := Nat.two_pow_pos _
  have hle : s.ringSize n ≤ 2 ^ 16 := Nat.pow_le_pow_right (by decide) hsize
  exact Nat.mod_eq_of_lt ((Nat.mod_lt p hpos).trans_le hle)

/-- The words of an entry, to sixteen. -/
theorem entryWords_eq {ws : List W32} (hlen : ws.length = 16) : (List.range 16).map (fun k => ws.getD k 0) = ws := by
  refine List.ext_getElem (by simp [hlen]) fun k hk hk' => ?_
  simp [hk']

/-- An entry fetched is in flight last, with its ring, its index and its words; its checks are still to run unless the opcode is
unknown. -/
theorem State.fetchEntry_takes {s : State} {n : Nat} {ws : List W32} (hlen : ws.length = 16) :
    ∃ c : Cmd, (s.fetchEntry n ws none).mb.inflight = s.mb.inflight ++ [c] ∧ c.ring = n ∧ c.idx = s.rd MB_RINGREG_CONS n ∧
      c.words = ws ∧ c.order = s.mb.fetchNo ∧ c.slot = none ∧ (opcodes.contains c.opcode = true → c.phase = .fetched) ∧
      (opcodes.contains c.opcode = false → c.phase = .decided .badOpcode 0 0 0 0 none) := by
  refine ⟨_, rfl, rfl, rfl, entryWords_eq hlen, rfl, rfl, fun hop => if_pos hop, fun hop => if_neg ?_⟩
  exact Bool.not_eq_true _ ▸ hop

theorem State.fetchEntry_cons {s : State} (hi : s.Inv) {n : Nat} (ws : List W32) (slot : Option Nat)
    (hsize : s.rd MB_RINGREG_SIZE_LOG2 n ≤ 16) : (s.fetchEntry n ws slot).rd MB_RINGREG_CONS n =
      (s.rd MB_RINGREG_CONS n + 1) % s.ringSize n :=
  (State.rd_wr_same hi rfl n _).trans (State.ringIndex_lt hsize _)

/-! An entry written to a ring (R64, R65, R67). -/

/-- The entry stands in the ring's memory, and the phase is inverted where PROD wraps. -/
def State.entryStored (s : State) (n : Nat) (entry : List W32) : State :=
  let p := s.rd MB_RINGREG_PROD n
  { s with mb := { s.mb with
    ringMem := mset (fun _ => []) (n * 65536 + p) entry s.mb.ringMem
    phase := if (p + 1) % s.ringSize n = 0 then mset (fun _ => true) n (!s.ringPhase n) s.mb.phase else s.mb.phase } }

/-- And PROD is advanced. -/
def State.entryPushed (s : State) (n : Nat) (entry : List W32) : State :=
  (s.entryStored n entry).wr MB_RINGREG_PROD n ((s.rd MB_RINGREG_PROD n + 1) % s.ringSize n)

/-- What is left of a write to a ring is the vector it may raise. -/
theorem State.ringPush_eq (s : State) (n : Nat) (entry : List W32) : s.ringPush n entry =
    if (s.entryPushed n entry).flag MB_RINGREG_INT_EN n then
      (s.entryPushed n entry).raiseVector ((s.entryPushed n entry).rd MB_RINGREG_VEC n)
    else s.entryPushed n entry := rfl

theorem State.entryPushed_inv {s : State} (hi : s.Inv) (n : Nat) (entry : List W32) : (s.entryPushed n entry).Inv :=
  State.wr_inv (s := s.entryStored n entry) hi _ _ _

theorem State.ringPush_mb {s : State} (hi : s.Inv) (n : Nat) (entry : List W32) :
    (s.ringPush n entry).mb = (s.entryStored n entry).mb := by
  rw [State.ringPush_eq]
  split
  · exact (State.raiseVector_moves.keep (State.entryPushed_inv hi n entry) .mb rfl).symm
  · rfl

/-- The entry reads back from the place of PROD. -/
theorem State.ringPush_entry {s : State} (hi : s.Inv) (n : Nat) {entry : List W32} (hne : entry ≠ []) :
    mget (fun _ => []) (s.ringPush n entry).mb.ringMem (n * 65536 + s.rd MB_RINGREG_PROD n) = entry := by
  rw [State.ringPush_mb hi]
  exact mget_mset_of_ne (d := fun _ => []) hne _

/-- Fields of different words are apart. -/
theorem Field.apart_of_word {f g : Field} (h : g.word % 4096 ≠ f.word % 4096) {i j : Nat} : f.apart g i 0 j 0 :=
  .inr (.inr (.inr (.inl (by simpa [Field.wordAt] using h))))

/-- A field that no delivery to a ring writes: apart from PROD, DROP and the pending bits of vectors. -/
def Field.offDelivery (g : Field) : Prop :=
  ∀ i j, MB_RINGREG_PROD.apart g i 0 j 0 ∧ MB_RINGREG_DROP.apart g i 0 j 0 ∧ ∀ k, MSIX_PBA_PEND.apart g i k j 0

theorem en_offDelivery : MB_RINGREG_EN.offDelivery := fun _ _ =>
  ⟨Field.apart_of_word (by decide), Field.apart_of_word (by decide), fun _ => .inr (.inl (by decide))⟩

/-- A notification for the ring takes the next sequence number. -/
def State.numbered (s : State) (r : Nat) : State :=
  { s with mb := { s.mb with nseq := mset (fun _ => 0) r ((mget (fun _ => 0) s.mb.nseq r + 1) % 2 ^ 31) s.mb.nseq } }

theorem State.deliver_unrouted {s : State} {x : Ntf} (hr : s.routeOf x.unit x.code = none) : s.deliver x = s := by
  simp only [State.deliver, hr]

theorem State.deliver_routed {s : State} {x : Ntf} {r : Nat} (hr : s.routeOf x.unit x.code = some r) : s.deliver x =
    if (s.numbered r).ringIs r 2 && !(s.numbered r).ringFull r then
      (s.numbered r).ringPush r (x.entry ((s.numbered r).ringPhase r) (mget (fun _ => 0) s.mb.nseq r))
    else (s.numbered r).bump MB_RINGREG_DROP r 1 := by
  simp only [State.deliver, hr]
  rfl

section delivery

variable {g : Field} (hg : g.offDelivery)
include hg

theorem State.raiseVector_rd {s : State} (hi : s.Inv) (vec j : Nat) : (s.raiseVector vec).rd g j = s.rd g j := by
  rw [State.raiseVector]
  split
  · rfl
  · exact State.rdk_wrk_ne hi rfl _ ((hg 0 j).2.2 (vec / 32))

theorem State.ringPush_rd {s : State} (hi : s.Inv) (n : Nat) (entry : List W32) (j : Nat) :
    (s.ringPush n entry).rd g j = s.rd g j := by
  have hprod : (s.entryPushed n entry).rd g j = s.rd g j :=
    State.rd_wr_ne (s := s.entryStored n entry) hi rfl _ (hg n j).1
  rw [State.ringPush_eq]
  split
  · exact (State.raiseVector_rd hg (State.entryPushed_inv hi n entry) _ j).trans hprod
  · exact hprod

theorem State.deliver_rd {s : State} (hi : s.Inv) (x : Ntf) (j : Nat) : (s.deliver x).rd g j = s.rd g j := by
  cases hr : s.routeOf x.unit x.code with
  | none => rw [State.deliver_unrouted hr]
  | some r =>
    have hnumbered : (s.numbered r).Inv := hi
    rw [State.deliver_routed hr]
    split
    · exact State.ringPush_rd hg hnumbered _ _ j
    · exact State.rd_wr_ne hnumbered rfl _ (hg r j).2.1

theorem State.deliverOrHold_rd {s : State} (hi : s.Inv) (x : Ntf) (j : Nat) : (s.deliverOrHold x).rd g j = s.rd g j := by
  rw [State.deliverOrHold]
  split
  · rfl
  · exact State.deliver_rd hg hi x j

end delivery

/-! A fetch or a completion write that fails (R62). -/

/-- The ring is disabled, with its fault. -/
def State.ringDown (s : State) (n : Nat) : State := (s.wr MB_RINGREG_EN n 0).ringFault n 3

/-- The record of RING_FAULT is handed over. -/
def State.ringDownNoted (s : State) (n : Nat) : State :=
  (s.ringDown n).handOff 0x02 ⟨0x0202, 0, s.now, n % 2 ^ 32, 3, 0, false⟩

/-- And the notification is on its way to its ring. -/
def State.ringDownTold (s : State) (n : Nat) : State := (s.ringDownNoted n).deliverOrHold ⟨2, 2, n % 2 ^ 32, 3, 0, 0, s.now⟩

theorem State.arrive_keeps (s : State) (code cls : Nat) :
    (s.arrive code cls).mb = s.mb ∧ (s.arrive code cls).regs = s.regs ∧ (s.arrive code cls).ev = s.ev := ⟨rfl, rfl, rfl⟩

/-- What is left is the error of a ring in device SDRAM. -/
theorem State.ringDmaFault_told (s : State) (n : Nat) : (s.ringDmaFault n).mb = (s.ringDownTold n).mb ∧
    (s.ringDmaFault n).regs = (s.ringDownTold n).regs ∧ (s.ringDmaFault n).ev = (s.ringDownTold n).ev := by
  have htold : s.ringDmaFault n =
      if s.flag MB_RINGREG_LOC n then (s.ringDownTold n).arrive 0x5080 2 else s.ringDownTold n := rfl
  rw [htold]
  split
  · exact State.arrive_keeps _ _ _
  · exact ⟨rfl, rfl, rfl⟩

theorem State.ringDown_inv {s : State} (hi : s.Inv) (n : Nat) : (s.ringDown n).Inv :=
  State.wr_inv (State.wr_inv (State.wr_inv hi _ _ _) _ _ _) _ _ _

theorem State.ringDown_en {s : State} (hi : s.Inv) (n : Nat) : (s.ringDown n).rd MB_RINGREG_EN n = 0 := by
  have hen : (s.wr MB_RINGREG_EN n 0).Inv := State.wr_inv hi _ _ _
  rw [State.ringDown, State.ringFault, State.rd_wr_ne (State.wr_inv hen _ _ _) rfl _ (Field.apart_of_word (by decide)),
    State.rd_wr_ne hen rfl _ (Field.apart_of_word (by decide)), State.rd_wr_same hi rfl]
  rfl

theorem State.rd_of_regs {s t : State} (h : t.regs = s.regs) {g : Field} {j : Nat} : t.rd g j = s.rd g j := by
  simp only [State.rd, State.rdk, State.word, h]

theorem State.handOff_rd (s : State) (unit : Nat) (r : EvRec) (g : Field) (j : Nat) : (s.handOff unit r).rd g j = s.rd g j := by
  rw [State.handOff]
  split <;> rfl

/-- Afterwards the ring is disabled, nothing has left flight, and the record waits where the hand-off has room. -/
theorem State.ringDmaFault_effect {s : State} (hi : s.Inv) {n : Nat} (hn : n < 64) :
    (s.ringDmaFault n).mb.inflight = s.mb.inflight ∧ (s.ringDmaFault n).flag MB_RINGREG_EN n = false ∧
      ((s.handedOver 2).length < 1024 → ⟨0x0202, 0, s.now, n, 3, 0, false⟩ ∈ (s.ringDmaFault n).handedOver 2) := by
  have hdown := State.ringDown_inv hi n
  have hnoted : (s.ringDownNoted n).Inv := State.handOff_moves.inv hdown
  obtain ⟨hmb, hregs, hev⟩ := s.ringDmaFault_told n
  refine ⟨?_, ?_, fun hroom => ?_⟩
  · rw [hmb]
    exact (State.deliverOrHold_moves.keep hnoted .phases rfl).symm.trans (State.handOff_moves.keep hdown .phases rfl).symm
  · rw [State.flag, State.rd_of_regs hregs, State.ringDownTold, State.deliverOrHold_rd en_offDelivery hnoted,
      State.ringDownNoted, State.handOff_rd, State.ringDown_en hi]
    rfl
  · have htold : (s.ringDownNoted n).ev = (s.ringDownTold n).ev := State.deliverOrHold_moves.keep hnoted .ev rfl
    rw [State.handedOver, hev, ← htold, State.ringDownNoted, Nat.mod_eq_of_lt (show n < 2 ^ 32 by omega)]
    exact State.handOff_mem (u := 2) hdown hroom

/-! Completions (R61, R64, R71). -/

/-- The completion entry of a decided command. -/
def State.cplEntry (s : State) (c : Cmd) (st : Status) (r0 r1 r2 r3 : Nat) (tm : Option Stamp) : List W32 :=
  cplWords st.code c.tag (b2n (s.ringPhase (s.rd MB_RINGREG_CPL_RING c.ring))) 0 c.ring c.idx [r0, r1, r2, r3] (tm.getD s.now)

theorem State.cplEntry_head (s : State) (c : Cmd) (st : Status) (r0 r1 r2 r3 : Nat) (tm : Option Stamp) :
    (s.cplEntry c st r0 r1 r2 r3 tm)[0]? = some (BitVec.ofNat 32 (st.code * 65536 + c.tag)) := rfl

theorem State.cplEntry_ne_nil (s : State) (c : Cmd) (st : Status) (r0 r1 r2 r3 : Nat) (tm : Option Stamp) :
    s.cplEntry c st r0 r1 r2 r3 tm ≠ [] := List.cons_ne_nil _ _

/-- A command from a staging slot shows its completion there too. -/
def State.mirrored (s : State) (c : Cmd) (entry : List W32) : State := c.slot.elim s fun k => s.putMirror k entry

/-- The mirror is no part of the registers or of the mailbox. -/
theorem State.mirrored_keeps {s : State} (hi : s.Inv) (c : Cmd) (entry : List W32) :
    (s.mirrored c entry).Inv ∧ (s.mirrored c entry).mb = s.mb ∧ ∀ (g : Field) (j : Nat), (s.mirrored c entry).rd g j = s.rd g j := by
  rw [State.mirrored]
  cases c.slot <;> exact ⟨hi, rfl, fun _ _ => rfl⟩

section completion

variable {s : State} {ring idx : Nat} {c : Cmd}

theorem exec_completionWrite_writes (ok : Bool) (hc : s.decidedAt ring idx = some c) (hcompletes : s.completes = true) :
    exec (.completionWrite ring idx ok) s = .next (s.writeCpl c ok) := by
  show execCompletionWrite ring idx ok s = _
  simp [execCompletionWrite, hc, hcompletes]

variable {st : Status} {r0 r1 r2 r3 : Nat} {tm : Option Stamp} (hphase : c.phase = .decided st r0 r1 r2 r3 tm)
include hphase

/-- A completion ring that is full keeps the command in flight, and nothing changes. -/
theorem State.writeCpl_full (ok : Bool) (hacts : s.ringActs (s.rd MB_RINGREG_CPL_RING c.ring) 1 = true)
    (hfull : s.ringFull (s.rd MB_RINGREG_CPL_RING c.ring) = true) : s.writeCpl c ok = s := by
  simp [State.writeCpl, hphase, hacts, hfull]

theorem State.writeCpl_dropped (ok : Bool) (hno : s.ringActs (s.rd MB_RINGREG_CPL_RING c.ring) 1 = false) : s.writeCpl c ok =
    ((s.mirrored c (s.cplEntry c st r0 r1 r2 r3 tm)).unflight c).bump MB_RINGREG_DROP (s.rd MB_RINGREG_CPL_RING c.ring) 1 := by
  simp only [State.writeCpl, hphase, hno, Bool.not_false, if_true]
  cases hslot : c.slot <;> simp only [State.mirrored, hslot] <;> rfl

theorem State.writeCpl_written (hacts : s.ringActs (s.rd MB_RINGREG_CPL_RING c.ring) 1 = true)
    (hreach : s.ringReach (s.rd MB_RINGREG_CPL_RING c.ring) = true)
    (hfull : s.ringFull (s.rd MB_RINGREG_CPL_RING c.ring) = false) : s.writeCpl c true =
      ((s.mirrored c (s.cplEntry c st r0 r1 r2 r3 tm)).ringPush (s.rd MB_RINGREG_CPL_RING c.ring)
        (s.cplEntry c st r0 r1 r2 r3 tm)).unflight c := by
  simp only [State.writeCpl, hphase, hacts, hreach, hfull, Bool.not_true, Bool.or_self, Bool.false_eq_true, if_false]
  cases hslot : c.slot <;> simp only [State.mirrored, hslot] <;> rfl

end completion

theorem satAdd_eq_min (top a b : Nat) : satAdd top a b = min top (a + b) := by
  rw [satAdd]
  split <;> omega

/-- A count of dropped entries saturates at its 24 bits. -/
theorem State.bump_drop {s : State} (hi : s.Inv) (n : Nat) :
    (s.bump MB_RINGREG_DROP n 1).rd MB_RINGREG_DROP n = min 0xFFFFFF (s.rd MB_RINGREG_DROP n + 1) := by
  rw [State.bump, State.rd_wr_same hi rfl, satAdd_eq_min]
  exact Nat.mod_eq_of_lt (show min 0xFFFFFF _ < 2 ^ 24 by omega)

/-- Settles O37: a fetch puts one command in flight and advances CONS, or disables its ring; a completion is written at PROD,
counted as dropped, or waits. -/
theorem fetchTakesAnEntryAndCompletionFreesIt : Obligations.FetchTakesAnEntryAndCompletionFreesIt := by
  unfold Obligations.FetchTakesAnEntryAndCompletionFreesIt
  refine ⟨?fetch, ?fail, ?complete⟩
  case fetch =>
    intro s n ws hi hf hn hloc hlen hsize
    obtain ⟨c, hflight, hring, hidx, hwords, horder, hslot, hknown, hunknown⟩ := State.fetchEntry_takes (s := s) (n := n) hlen
    exact ⟨_, c, exec_commandFetch_fetches ws hf hn hloc, hflight, hring, hidx, hwords, horder, hslot, hknown, hunknown,
      State.fetchEntry_cons hi ws none hsize⟩
  case fail =>
    intro s n hi hf hn
    exact ⟨_, exec_commandFetch_fails hf hn, State.ringDmaFault_effect hi (State.nextRing_lt hn)⟩
  case complete =>
    intro s ring idx ok c st r0 r1 r2 r3 tm hi hc hcompletes hphase
    have hexec := exec_completionWrite_writes ok hc hcompletes
    obtain ⟨hx, hmb, hrd⟩ := State.mirrored_keeps hi c (s.cplEntry c st r0 r1 r2 r3 tm)
    refine ⟨fun hacts hreach hfull hok => ?_, fun hno => ?_, fun hacts hfull => ?_⟩
    · subst hok
      refine ⟨_, hexec.trans (congrArg _ (State.writeCpl_written hphase hacts hreach hfull)), ?_, ?_⟩
      · show (State.ringPush _ _ _).mb.inflight.filter _ = _
        rw [State.ringPush_mb hx, ← hmb]
        rfl
      · show (mget (fun _ => []) (State.ringPush _ _ _).mb.ringMem _)[0]? = _
        rw [← hrd MB_RINGREG_PROD, State.ringPush_entry hx _ (s.cplEntry_ne_nil _ _ _ _ _ _ _)]
        exact s.cplEntry_head _ _ _ _ _ _ _
    · refine ⟨_, hexec.trans (congrArg _ (State.writeCpl_dropped hphase ok hno)), ?_, ?_⟩
      · rw [← hmb]
        rfl
      · rw [State.bump_drop (s := State.unflight _ c) hx, ← hrd MB_RINGREG_DROP]
        rfl
    · rw [hexec, State.writeCpl_full hphase ok hacts hfull]

end Sys2Proof.Machine
end

