-- ==== Sys2Proof/Proofs/Doorbells.lean ====
section
/-! Doorbells and staging posts (R60, R66, R68, R69, R81; Table 3.12): which index they set, how they are refused, and what a latched
one leaves. -/

namespace Sys2Proof.Machine

open Sys2Proof

/-! The doorbell word (Table 3.7). -/

theorem dbIndex_lt (w : W32) : dbIndex w < 2 ^ 16 := natBits_lt _ 15 0

theorem dbRing_lt (w : W32) : dbRing w < 2 ^ 6 := natBits_lt _ 29 24

theorem State.doorbellRow_eq {s : State} {hot : Bool} {w : W32} {k : Nat} (hr : s.rings hot = true) (hk : dbKind w = k) :
    s.doorbellRow hot w k = s.doorbell w := if_pos (by simp [hr, hk])

/-- Outside SENTINEL nothing wakes. -/
theorem State.wakeBy_awake {s : State} (hm : s.mo.mode ≠ .sentinel) (src : WakeSrc) : s.wakeBy src = s := if_pos (by simp [hm])

theorem State.dbApply_mo {s : State} (hi : s.Inv) (kind ring index : Nat) : (s.dbApply kind ring index).mo = s.mo :=
  (State.dbApply_moves.keep hi .mo rfl).symm

/-- Outside LET and SENTINEL a doorbell acts on its ring. -/
theorem State.doorbell_acts {s : State} (hi : s.Inv) {w : W32} (hk : dbKind w = 0 ∨ dbKind w = 1) (hl : s.mo.mode ≠ .letMode)
    (hm : s.mo.mode ≠ .sentinel) (hout : s.mo.sent = .out) : s.doorbell w = s.dbApply (dbKind w) (dbRing w) (dbIndex w) := by
  have hlatched : s.dbLatched = false := by simp [State.dbLatched, hl, hout]
  have h3 : dbKind w ≠ 3 := by omega
  have h2 : dbKind w ≠ 2 := by omega
  rw [State.doorbell, if_neg h3, if_neg h2, hlatched, if_neg Bool.false_ne_true]
  exact State.wakeBy_awake (by rwa [State.dbApply_mo hi]) _

/-- In LET a doorbell is latched. -/
theorem State.doorbell_latches {s : State} {w : W32} (hk : dbKind w = 0) (hl : s.mo.mode = .letMode) :
    s.doorbell w = s.dbLatch 0 (dbRing w) (dbIndex w) := by
  have hlatched : s.dbLatched = true := by simp [State.dbLatched, hl]
  rw [State.doorbell, hk, if_neg (by decide), if_neg (by decide), hlatched, if_pos rfl]
  exact State.wakeBy_awake (s := s.dbLatch 0 (dbRing w) (dbIndex w)) (by rw [State.dbLatch, hl]; decide) _

/-- Outside SENTINEL a staging post is no more than that. -/
theorem State.doorbell_posts {s : State} (hi : s.Inv) {w : W32} (hk : dbKind w = 2) (hm : s.mo.mode ≠ .sentinel) :
    s.doorbell w = s.stagingPost (dbRing w) (dbIndex w % 4) := by
  have hmo : s.mo = (s.stagingPost (dbRing w) (dbIndex w % 4)).mo := State.stagingPost_moves.keep hi .mo rfl
  rw [State.doorbell, hk, if_neg (by decide), if_pos rfl]
  exact State.wakeBy_awake (by rwa [← hmo]) _

/-! Ring indices (R60, R66). -/

section ring

variable {s : State} {n index : Nat} (hserved : s.ringServed n = true)
include hserved

theorem State.dbApply_prod (hring : s.ringIs n 0 = true) (hindex : index < s.ringSize n) :
    s.dbApply 0 n index = s.wr MB_RINGREG_PROD n index := by
  have hring : s.flag MB_RINGREG_EN n = true ∧ s.rd MB_RINGREG_KIND n = 0 := by simpa [State.ringIs] using hring
  simp [State.dbApply, hserved, hring, hindex]

theorem State.dbApply_cons (hen : s.flag MB_RINGREG_EN n = true) (hkind : s.rd MB_RINGREG_KIND n ≠ 0)
    (hindex : index < s.ringSize n) : s.dbApply 1 n index = s.wr MB_RINGREG_CONS n index := by
  simp [State.dbApply, hserved, hen, hkind, hindex]

/-- A disabled ring, one of another kind, or an index beyond the size is a fault of the ring. -/
theorem State.dbApply_fault (hbad : s.ringIs n 0 = false ∨ s.ringSize n ≤ index) : s.dbApply 0 n index = s.ringFault n 1 := by
  have hbad : (!s.flag MB_RINGREG_EN n || (s.rd MB_RINGREG_KIND n == 0) != (0 == 0) || decide (s.ringSize n ≤ index)) = true := by
    rcases hbad with hring | hindex
    · have hring : s.flag MB_RINGREG_EN n = true → s.rd MB_RINGREG_KIND n ≠ 0 := by simpa [State.ringIs] using hring
      cases hen : s.flag MB_RINGREG_EN n
      · rfl
      · simp [hring hen]
    · simp [hindex]
  rw [State.dbApply, if_neg (by simp [hserved]), if_pos hbad]

end ring

/-- A ring fault shows its code and leaves both indices. -/
theorem State.ringFault_rd {s : State} (hi : s.Inv) (n : Nat) {code : Nat} (hcode : code < 2 ^ 7) :
    (s.ringFault n code).rd MB_RINGREG_FAULT n = 1 ∧ (s.ringFault n code).rd MB_RINGREG_FCODE n = code ∧
      (s.ringFault n code).rd MB_RINGREG_PROD n = s.rd MB_RINGREG_PROD n ∧
      (s.ringFault n code).rd MB_RINGREG_CONS n = s.rd MB_RINGREG_CONS n := by
  have hf : (s.wr MB_RINGREG_FAULT n 1).Inv := State.wr_inv hi _ _ _
  refine ⟨?_, (State.rd_wr_same hf rfl n code).trans (Nat.mod_eq_of_lt hcode), ?_, ?_⟩
  · exact (State.rd_wr_ne hf rfl _ (.inr (.inr (.inr (.inr (.inr (by decide))))))).trans (State.rd_wr_same hi rfl n 1)
  · exact (State.rd_wr_ne hf rfl _ (Field.apart_of_word (by decide))).trans (State.rd_wr_ne hi rfl _ (Field.apart_of_word (by decide)))
  · exact (State.rd_wr_ne hf rfl _ (Field.apart_of_word (by decide))).trans (State.rd_wr_ne hi rfl _ (Field.apart_of_word (by decide)))

/-! Staging posts (R68, R69). -/

/-- The sixteen words of a staging slot, and its number. -/
def State.slotEntry (s : State) (slot : Nat) : List W32 :=
  (List.range 16).map (fun w => BitVec.ofNat 32 (s.slotWord slot w)) ++ [BitVec.ofNat 32 (slot + 1)]

/-- The entry that a post leaves at PROD. -/
def State.slotStored (s : State) (n slot : Nat) : State :=
  { s with mb := { s.mb with
    ringMem := mset (fun _ => []) (n * 65536 + s.rd MB_RINGREG_PROD n) (s.slotEntry slot) s.mb.ringMem } }

theorem State.stagingPost_enqueues {s : State} {n slot : Nat} (hacts : s.ringActs n 0 = true)
    (hloc : s.flag MB_RINGREG_LOC n = true) (hfull : s.ringFull n = false) : s.stagingPost n slot =
      (s.slotStored n slot).wr MB_RINGREG_PROD n ((s.rd MB_RINGREG_PROD n + 1) % s.ringSize n) := by
  simp only [State.stagingPost, hacts, hloc, hfull, Bool.not_false, Bool.and_self, if_true]
  rfl

theorem State.stagingPost_refused {s : State} {n : Nat} (slot : Nat)
    (hbad : s.ringActs n 0 = false ∨ s.flag MB_RINGREG_LOC n = false ∨ s.ringFull n = true) : s.stagingPost n slot =
      s.putMirror slot (cplWords Status.busyRetry.code (s.slotWord slot 0 % 65536) 0 1 n 0 [] s.now) := by
  have hbad : ¬(s.ringActs n 0 && s.flag MB_RINGREG_LOC n && !s.ringFull n) = true := by
    rcases hbad with h | h | h <;> simp [h]
  simp only [State.stagingPost, if_neg hbad]

/-- The words of the slot read back from the entry. -/
theorem State.slotStored_entry (s : State) (n slot : Nat) {k : Nat} (hk : k < 16) :
    (mget (fun _ => []) (s.slotStored n slot).mb.ringMem (n * 65536 + s.rd MB_RINGREG_PROD n))[k]? =
      some (BitVec.ofNat 32 (s.slotWord slot k)) := by
  have hne : s.slotEntry slot ≠ [] := by simp [State.slotEntry]
  have hentry : mget (fun _ => []) (s.slotStored n slot).mb.ringMem (n * 65536 + s.rd MB_RINGREG_PROD n) = s.slotEntry slot :=
    mget_mset_of_ne (d := fun _ => []) hne _
  rw [hentry, State.slotEntry, List.getElem?_append_left (by simpa using hk)]
  simp [hk]

/-! The completion mirror of a slot. -/

/-- In any table, a value that is found stays found when another key is written. -/
theorem mget_mset_found {α : Type} [DecidableEq α] {d : Nat → α} {j k : Nat} (v : α) (hne : j ≠ k) : ∀ (m : AMap α),
    mget d m j ≠ d j → mget d (mset d k v m) j = mget d m j
  | [], hm => absurd rfl hm
  | (k', v') :: t, hm => by
    rw [mget_cons] at hm
    by_cases hj : j = k'
    · subst hj
      unfold mset
      rw [if_neg (Ne.symm hne)]
      split
      · split
        · rfl
        · have hlt : ¬ j < k := by omega
          rw [mget_cons, if_neg hne, if_neg hlt]
      · rw [mget_cons, mget_cons, if_pos rfl, if_pos rfl]
    · rw [if_neg hj] at hm
      split at hm
      · exact absurd rfl hm
      · next hlt =>
        unfold mset
        split
        · next hk =>
          subst hk
          split <;> simp [mget_cons, hj, hlt]
        · split
          · next hkk =>
            have hjk : ¬ j < k := by omega
            split <;> simp [mget_cons, hj, hlt, hne, hjk]
          · simp [mget_cons, hj, hlt, mget_mset_found v hne t hm]

/-- Words stored at consecutive keys, from the key `base` and the place `n` on. -/
def storeWords (base n : Nat) (ws : List W32) (m : AMap Nat) : AMap Nat :=
  (ws.zipIdx n).foldl (fun m e => mset (fun _ => 0) (base + e.2) e.1.toNat m) m

theorem storeWords_cons (base n : Nat) (w : W32) (ws : List W32) (m : AMap Nat) :
    storeWords base n (w :: ws) m = storeWords base (n + 1) ws (mset (fun _ => 0) (base + n) w.toNat m) := rfl

/-- What stands below is left. -/
theorem storeWords_below {base j : Nat} : ∀ (ws : List W32) (n : Nat) {m : AMap Nat}, j < base + n →
    mget (fun _ => 0) m j ≠ 0 → mget (fun _ => 0) (storeWords base n ws m) j = mget (fun _ => 0) m j
  | [], _, _, _, _ => rfl
  | w :: ws, n, m, hj, hm => by
    have hstep : mget (fun _ => 0) (mset (fun _ => 0) (base + n) w.toNat m) j = mget (fun _ => 0) m j :=
      mget_mset_found (d := fun _ => 0) _ (by omega) m hm
    rw [storeWords_cons]
    exact (storeWords_below ws (n + 1) (by omega) (by rwa [hstep])).trans hstep

/-- A word that is not zero reads back. -/
theorem storeWords_at {base : Nat} : ∀ (ws : List W32) (n : Nat) {m : AMap Nat} {k : Nat} {w : W32}, ws[k]? = some w →
    w.toNat ≠ 0 → mget (fun _ => 0) (storeWords base n ws m) (base + n + k) = w.toNat
  | [], _, _, _, _, hw, _ => by simp at hw
  | x :: ws, n, m, k, w, hw, hne => by
    cases k with
    | zero =>
      obtain rfl : x = w := by simpa using hw
      have hstep : mget (fun _ => 0) (mset (fun _ => 0) (base + n) x.toNat m) (base + n) = x.toNat :=
        mget_mset_of_ne (d := fun _ => 0) hne m
      rw [storeWords_cons]
      exact (storeWords_below ws (n + 1) (j := base + n) (by omega) (by rwa [hstep])).trans hstep
    | succ k =>
      have hrest := storeWords_at (base := base) ws (n + 1) (m := mset (fun _ => 0) (base + n) x.toNat m)
        (show ws[k]? = some w from hw) hne
      rw [storeWords_cons, show base + n + (k + 1) = base + (n + 1) + k by omega]
      exact hrest

/-- A word of a slot's mirror that is not zero reads back. -/
theorem State.putMirror_slotWord (s : State) (slot : Nat) {ws : List W32} {k : Nat} {w : W32} (hw : ws[k]? = some w)
    (hne : w.toNat ≠ 0) : (s.putMirror slot ws).slotWord slot (17 + k) = w.toNat := by
  have hword := storeWords_at (base := slot * 32 + 17) ws 0
    (m := mset (fun _ => 0) (slot * 32 + 16) ((s.slotWord slot 16 + 2) % 2 ^ 32) s.sb.slots) hw hne
  rw [State.slotWord, show slot * 32 + (17 + k) = slot * 32 + 17 + 0 + k by omega]
  exact hword

/-- A refused post shows BUSY_RETRY with the tag, and NOTQ with the ring. -/
theorem State.refusedMirror {s : State} {n : Nat} (hn : n < 2 ^ 6) (slot : Nat) :
    let t := s.putMirror slot (cplWords Status.busyRetry.code (s.slotWord slot 0 % 65536) 0 1 n 0 [] s.now)
    t.slotWord slot 17 = 0x30 * 65536 + s.slotWord slot 0 % 65536 ∧ t.slotWord slot 18 = 2 ^ 30 + n * 2 ^ 24 := by
  have hstatus : (BitVec.ofNat 32 (0x30 * 2 ^ 16 + s.slotWord slot 0 % 65536)).toNat =
      0x30 * 65536 + s.slotWord slot 0 % 65536 := by
    rw [BitVec.toNat_ofNat, Nat.mod_eq_of_lt (by omega)]
    rfl
  have hring : (BitVec.ofNat 32 (0 * 2 ^ 31 + 1 * 2 ^ 30 + n * 2 ^ 24 + 0)).toNat = 2 ^ 30 + n * 2 ^ 24 := by
    rw [BitVec.toNat_ofNat, Nat.mod_eq_of_lt (by omega)]
    omega
  refine ⟨(s.putMirror_slotWord slot (k := 0) rfl ?_).trans hstatus, (s.putMirror_slotWord slot (k := 1) rfl ?_).trans hring⟩
  · exact ne_of_eq_of_ne hstatus (by omega)
  · exact ne_of_eq_of_ne hring (by omega)

/-- Settles O36: where a doorbell acts it is one write of its ring's registers; in LET it is latched; a staging post stores its slot
at PROD, or is refused in the slot's mirror. -/
theorem doorbellsMoveTheirRingIndices : Obligations.DoorbellsMoveTheirRingIndices := by
  unfold Obligations.DoorbellsMoveTheirRingIndices
  refine ⟨?prod, ?cons, ?latch, ?post⟩
  case prod =>
    intro s hot w hi hr hk hl hm hout hserved
    have hexec : exec (.doorbellProd hot w) s = .next (s.dbApply 0 (dbRing w) (dbIndex w)) := by
      show Host.Outcome.next (s.doorbellRow hot w 0) = _
      rw [State.doorbellRow_eq hr hk, State.doorbell_acts hi (.inl hk) hl hm hout, hk]
    refine ⟨fun hring hindex => ⟨_, hexec, ?_⟩, fun hbad => ⟨_, hexec, ?_⟩⟩
    · rw [State.dbApply_prod hserved hring hindex]
      exact ⟨(State.rd_wr_same hi rfl _ _).trans (Nat.mod_eq_of_lt (dbIndex_lt w)), State.rd_wr_ne hi rfl _ (Field.apart_of_word (by decide))⟩
    · rw [State.dbApply_fault hserved hbad]
      exact State.ringFault_rd hi _ (by decide)
  case cons =>
    intro s hot w hi hr hk hl hm hout hserved hen hkind hindex
    refine ⟨s.wr MB_RINGREG_CONS (dbRing w) (dbIndex w), ?_,
      (State.rd_wr_same hi rfl _ _).trans (Nat.mod_eq_of_lt (dbIndex_lt w)), State.rd_wr_ne hi rfl _ (Field.apart_of_word (by decide))⟩
    show Host.Outcome.next (s.doorbellRow hot w 1) = _
    rw [State.doorbellRow_eq hr hk, State.doorbell_acts hi (.inr hk) hl hm hout, hk, State.dbApply_cons hserved hen hkind hindex]
  case latch =>
    intro s hot w _ hr hk hl
    refine ⟨s.dbLatch 0 (dbRing w) (dbIndex w), ?_, rfl, ?_⟩
    · show Host.Outcome.next (s.doorbellRow hot w 0) = _
      rw [State.doorbellRow_eq hr hk, State.doorbell_latches hk hl]
    · rw [State.dbLatch, Nat.zero_mul, Nat.zero_add]
      exact mget_mset_of_ne (d := fun _ => 0) (Nat.succ_ne_zero _) _
  case post =>
    intro s hot w hi hr hk hm _
    have hexec : exec (.stagingPost hot w) s = .next (s.stagingPost (dbRing w) (dbIndex w % 4)) := by
      show Host.Outcome.next (s.doorbellRow hot w 2) = _
      rw [State.doorbellRow_eq hr hk, State.doorbell_posts hi hk hm]
    refine ⟨fun hacts hloc hfull hsize => ⟨_, hexec, ?_⟩, fun hbad => ⟨_, hexec, ?_⟩⟩
    · rw [State.stagingPost_enqueues hacts hloc hfull]
      have hstored : (s.slotStored (dbRing w) (dbIndex w % 4)).Inv := hi
      exact ⟨(State.rd_wr_same hstored rfl _ _).trans (State.ringIndex_lt hsize _), fun k hk => s.slotStored_entry _ _ hk⟩
    · rw [State.stagingPost_refused _ hbad]
      exact ⟨rfl, State.refusedMirror (dbRing_lt w) _⟩

end Sys2Proof.Machine
end

