-- ==== Sys2Proof/Proofs/HostWrites.lean ====
section
/-! Ring enables (R59): the phase of a ring whose table of phases is not in canonical form. -/

namespace Sys2Proof.Machine

open Sys2Proof

/-- A device in RUN with its link up, whose table of ring phases lists ring 0 twice. -/
def phaseListedTwice : State :=
  { State.reset with
    mo := { Modes.init with mode := .run, boot := .done }
    he := { State.reset.he with linkUp := true }
    mb := { Mailbox.init with phase := [(0, false), (0, false)] } }

theorem phaseListedTwice_inv : phaseListedTwice.Inv := ⟨rfl, rfl, Nat.le_refl _⟩

/-- An enable of ring 0 in it, a command ring of 16 entries in host memory, takes one of the two phases away and leaves the other. -/
theorem phaseListedTwice_enabled :
    ∃ t, exec (.ringEnable 0 0x80002000) phaseListedTwice = .next t ∧ t.ringPhase 0 = false :=
  ⟨_, rfl, by decide⟩

/-- Refutes O38: `State.Inv` does not ask for the canonical form of the table of ring phases, and an enable drops one entry of it, so
that a ring whose phase is listed twice keeps phase 0. -/
theorem not_hostRegisterWritesAct : ¬ Obligations.HostRegisterWritesAct := by
  unfold Obligations.HostRegisterWritesAct
  rintro ⟨hring, -⟩
  obtain ⟨henabled, -⟩ := hring phaseListedTwice 0 0x80002000 phaseListedTwice_inv (by decide) (by decide) (by decide) (by decide)
    (by decide)
  obtain ⟨t, ht, -, -, -, hphase, -⟩ := henabled (by decide) (by decide) (by decide) (by decide)
  obtain ⟨t', ht', hphase'⟩ := phaseListedTwice_enabled
  obtain rfl : t = t' := Host.Outcome.next.inj (ht.symm.trans ht')
  exact absurd (hphase.symm.trans hphase') (by decide)

end Sys2Proof.Machine
end

