-- ==== Sys2Proof/Proofs/EndpointResets.lean ====
section
/-! Hot reset, D3hot and link training (R50, R86): the host-memory rings disabled, then the MSI-X table stored over. -/

namespace Sys2Proof.Machine

open Sys2Proof

/-! The rings. -/

/-- One ring disabled where it is an enabled ring in host memory. -/
def State.hostRingOff (s : State) (n : Nat) : State :=
  if s.flag MB_RINGREG_EN n && !s.flag MB_RINGREG_LOC n then s.wr MB_RINGREG_EN n 0 else s

theorem State.hostRingOff_inv {s : State} (hi : s.Inv) (n : Nat) : (s.hostRingOff n).Inv := by
  unfold State.hostRingOff
  split
  · exact State.wr_inv hi _ _ _
  · exact hi

theorem State.hostRingOff_loc {s : State} (hi : s.Inv) (x n : Nat) :
    (s.hostRingOff x).flag MB_RINGREG_LOC n = s.flag MB_RINGREG_LOC n := by
  unfold State.hostRingOff
  split
  · have hapart : MB_RINGREG_EN.apart MB_RINGREG_LOC x 0 n 0 := .inr (.inr (.inr (.inr (.inl (by decide)))))
    rw [State.flag, State.rd_wr_ne hi rfl 0 hapart, State.flag]
  · rfl

theorem State.hostRingOff_en {s : State} (hi : s.Inv) {x n : Nat} (hx : x < 65536) (hn : n < 65536) :
    (s.hostRingOff x).flag MB_RINGREG_EN n = (s.flag MB_RINGREG_EN n && (s.flag MB_RINGREG_LOC n || decide (n ≠ x))) := by
  unfold State.hostRingOff
  by_cases hne : n = x
  · subst hne
    split
    · next hoff =>
      have hloc : s.flag MB_RINGREG_LOC n = false := by simpa using (Bool.and_eq_true_iff.1 hoff).2
      rw [State.flag, State.rd_wr_same hi rfl, hloc]
      simp
    · next hstays =>
      cases hen : s.flag MB_RINGREG_EN n
      · rfl
      · simpa [hen] using hstays
  · split
    · have hapart : MB_RINGREG_EN.apart MB_RINGREG_EN x 0 n 0 := .inr (.inr (.inl (by omega)))
      rw [State.flag, State.rd_wr_ne hi rfl 0 hapart, State.flag]
      simp [hne]
    · simp [hne]

/-- Disabling a list of rings keeps EN of the rings with LOC = 1 and of those that are not in the list. -/
theorem State.hostRingsOff_en {n : Nat} (hn : n < 65536) : ∀ (l : List Nat) {s : State}, s.Inv → (∀ x, x ∈ l → x < 65536) →
    (l.foldl State.hostRingOff s).flag MB_RINGREG_EN n = (s.flag MB_RINGREG_EN n && (s.flag MB_RINGREG_LOC n || decide (n ∉ l)))
  | [], s, _, _ => by simp
  | x :: l, s, hi, hl => by
    rw [List.foldl_cons, State.hostRingsOff_en hn l (State.hostRingOff_inv hi x) fun y hy => hl y (List.mem_cons_of_mem x hy),
      State.hostRingOff_en hi (hl x List.mem_cons_self) hn, State.hostRingOff_loc hi]
    simp only [List.mem_cons, not_or, Bool.decide_and, Bool.and_assoc, Bool.or_and_distrib_left]

/-- The first half of `State.endpointReset`. -/
def State.hostRingsOff (s : State) : State := (List.range 64).foldl State.hostRingOff s

theorem State.hostRingsOff_inv {s : State} (hi : s.Inv) : s.hostRingsOff.Inv :=
  List.foldlRecOn _ _ hi fun _ h n _ => State.hostRingOff_inv h n

/-! The MSI-X table. -/

/-- One word of a vector stored with its reset value. -/
def State.vectorWordReset (v : Nat) (s : State) (w : Nat) : State := s.putWord 0x100 3 v w (resetWord 0x100 3 w)

/-- The four words of a vector. -/
def State.vectorReset (s : State) (v : Nat) : State := (List.range 4).foldl (State.vectorWordReset v) s

/-- The second half of `State.endpointReset`. -/
def State.tableReset (s : State) : State := (List.range 64).foldl State.vectorReset s

theorem State.endpointReset_eq (s : State) : s.endpointReset = s.hostRingsOff.tableReset := rfl

theorem State.vectorWordReset_inv {s : State} (hi : s.Inv) (v w : Nat) : (s.vectorWordReset v w).Inv := ⟨mset_ok hi.1, hi.2⟩

theorem State.vectorReset_inv {s : State} (hi : s.Inv) (v : Nat) : (s.vectorReset v).Inv :=
  List.foldlRecOn _ _ hi fun _ h w _ => State.vectorWordReset_inv h v w

/-- No store to the table reaches a word of another object. -/
theorem State.tableReset_word_other {s : State} (hi : s.Inv) {g : Nat} (hg : g % 256 ≠ 3) (i w : Nat) :
    s.tableReset.word 0x100 g i w = s.word 0x100 g i w := by
  refine (List.foldlRecOn (motive := fun st : State => st.Inv ∧ st.word 0x100 g i w = s.word 0x100 g i w) _ _ ⟨hi, rfl⟩ ?_).2
  intro st hst v _
  refine List.foldlRecOn (motive := fun st : State => st.Inv ∧ st.word 0x100 g i w = s.word 0x100 g i w) _ _ hst ?_
  rintro st ⟨hst, hword⟩ x _
  exact ⟨State.vectorWordReset_inv hst v x, (State.word_putWord_ne hst _ (.inr (.inl hg))).trans hword⟩

/-- What the step for an index of a list establishes, and no step of the list undoes, holds after the list. -/
theorem State.foldl_establishes {f : State → Nat → State} {P : State → Prop} {Q : Nat → Prop}
    (hinv : ∀ st x, st.Inv → (f st x).Inv) :
    ∀ (l : List Nat), (∀ x, x ∈ l → ∀ st : State, st.Inv → Q x ∨ P st → P (f st x)) →
      ∀ {s : State}, s.Inv → (∃ x ∈ l, Q x) ∨ P s → P (l.foldl f s)
  | [], _, _, _, h => h.resolve_left (by simp)
  | x :: l, hstep, s, hi, h => by
    refine State.foldl_establishes hinv l (fun y hy => hstep y (List.mem_cons_of_mem x hy)) (hinv s x hi) ?_
    have hhere : Q x ∨ P s → P (f s x) := hstep x List.mem_cons_self s hi
    rw [List.exists_mem_cons_iff] at h
    rcases h with (hx | hlater) | hp
    · exact .inr (hhere (.inl hx))
    · exact .inl hlater
    · exact .inr (hhere (.inr hp))

/-- Word `w` of vector `v` holds its reset value. -/
def State.vectorAtReset (s : State) (v w : Nat) : Prop := s.word 0x100 3 v w = resetWord 0x100 3 w

theorem State.vectorWordReset_atReset {s : State} (hi : s.Inv) {v w v' w' : Nat} (hv : v < 65536) (hw : w < 4096)
    (hv' : v' < 65536) (hw' : w' < 4096) (h : (v = v' ∧ w = w') ∨ s.vectorAtReset v w) :
    (s.vectorWordReset v' w').vectorAtReset v w := by
  by_cases hsame : v = v' ∧ w = w'
  · obtain ⟨rfl, rfl⟩ := hsame
    exact State.word_putWord_same hi _ _ _ _ _
  · exact (State.word_putWord_ne hi _ (.inr (.inr (by omega)))).trans (h.resolve_left hsame)

theorem State.vectorReset_atReset {s : State} (hi : s.Inv) {v w v' : Nat} (hv : v < 65536) (hw : w < 4) (hv' : v' < 65536)
    (h : v = v' ∨ s.vectorAtReset v w) : (s.vectorReset v').vectorAtReset v w :=
  State.foldl_establishes (Q := fun x => v = v' ∧ w = x) (fun _ x hst => State.vectorWordReset_inv hst v' x) _
    (fun _ hx _ hst => State.vectorWordReset_atReset hst hv (by omega) hv' (Nat.lt_trans (List.mem_range.1 hx) (by decide)))
    hi (h.imp_left fun hvv => ⟨w, List.mem_range.2 hw, hvv, rfl⟩)

theorem State.tableReset_atReset {s : State} (hi : s.Inv) {v w : Nat} (hv : v < 64) (hw : w < 4) :
    s.tableReset.vectorAtReset v w :=
  State.foldl_establishes (Q := (v = ·)) (fun _ x hst => State.vectorReset_inv hst x) _
    (fun _ hx _ hst => State.vectorReset_atReset hst (by omega) hw (Nat.lt_trans (List.mem_range.1 hx) (by decide)))
    hi (.inl ⟨v, List.mem_range.2 hv, rfl⟩)

/-! The whole reset, and the commands. -/

theorem State.endpointReset_en {s : State} (hi : s.Inv) {n : Nat} (hn : n < 64) :
    s.endpointReset.flag MB_RINGREG_EN n = (s.flag MB_RINGREG_EN n && s.flag MB_RINGREG_LOC n) := by
  have htable : s.endpointReset.flag MB_RINGREG_EN n = s.hostRingsOff.flag MB_RINGREG_EN n := by
    rw [State.endpointReset_eq]
    exact congrArg (fun x : W32 => x.get 31 31 != 0) (State.tableReset_word_other (State.hostRingsOff_inv hi) (by decide) n 2)
  rw [htable, State.hostRingsOff, State.hostRingsOff_en (by omega) _ hi fun x hx => Nat.lt_trans (List.mem_range.1 hx) (by decide)]
  simp [hn]

theorem State.endpointReset_vector {s : State} (hi : s.Inv) {v w : Nat} (hv : v < 64) (hw : w < 4) :
    s.endpointReset.word 0x100 3 v w = resetWord 0x100 3 w :=
  State.tableReset_atReset (State.hostRingsOff_inv hi) hv hw

/-- The messages sent when the endpoint may send again leave its power state alone. -/
theorem State.flushPending_d3hot (s : State) : s.flushPending.he.d3hot = s.he.d3hot := by
  unfold State.flushPending State.sendPending
  split
  · refine List.foldlRecOn (motive := fun st : State => st.he.d3hot = s.he.d3hot) _ _ rfl fun st hst v _ => ?_
    split
    · exact hst
    · exact hst
  · rfl

theorem State.withHe_flag (s : State) (e : HostEp) (f : Field) (n : Nat) : State.flag { s with he := e } f n = s.flag f n := rfl

theorem State.withHe_word (s : State) (e : HostEp) (u g i w : Nat) : State.word { s with he := e } u g i w = s.word u g i w := rfl

theorem exec_pcieHotReset_up {s : State} (he : s.endpointOn = true) (hl : s.he.linkUp = true) :
    exec .pcieHotReset s = .next s.endpointReset := if_pos (by simp [he, hl])

theorem exec_d3hotEntry_enters {s : State} (hh : s.hostOn = true) (hl : s.he.linkUp = true) (hd : s.he.d3hot = false) :
    exec .d3hotEntry s = .next { s.endpointReset with he := { s.endpointReset.he with d3hot := true } } :=
  if_pos (by simp [hh, hl, hd])

theorem exec_d0Restore_leaves {s : State} (hh : s.hostOn = true) (hl : s.he.linkUp = true) (hd : s.he.d3hot = true) :
    exec .d0Restore s = .next (State.flushPending { s with he := { s.he with d3hot := false } }) := if_pos (by simp [hh, hl, hd])

/-- UP of the four lanes set, or cleared, with the link. -/
def State.lanesUp (s : State) (up : Bool) : State := s.each (List.range 4) (fun st n => st.setFlag LN_LANE_UP n up)

theorem State.lanesUp_he (s : State) (up : Bool) : (s.lanesUp up).he = s.he := rfl

theorem State.lanesUp_up {s : State} (hi : s.Inv) (up : Bool) {n : Nat} (hn : n < 4) : (s.lanesUp up).flag LN_LANE_UP n = up := by
  have hrd : (s.lanesUp up).rd LN_LANE_UP n = b2n up % 2 ^ 1 :=
    State.rd_each_same (m := 0) (f := LN_LANE_UP) rfl (fun _ _ => Moves.refl) (Nat.zero_testBit _) (by omega) _ hi
      (fun x hx => Nat.lt_trans (List.mem_range.1 hx) (by decide)) (.inl (List.mem_range.2 hn))
  rw [State.flag, hrd]
  cases up <;> rfl

theorem exec_pcieLinkTrained_on {s : State} (he : s.endpointOn = true) (up : Bool) :
    exec (.pcieLinkTrained up) s = .next (State.lanesUp { s with he := { s.he with linkUp := up } } up) := if_neg (by simp [he])

/-- Settles O39: the reset disables each ring whose LOC is 0 and then stores the whole table over; entry to D3hot is that reset with
bus mastering stopped. -/
theorem endpointResetsDisableHostRings : Obligations.EndpointResetsDisableHostRings := by
  unfold Obligations.EndpointResetsDisableHostRings
  refine ⟨?hotReset, ?d3hot, ?d0, ?link⟩
  case hotReset =>
    intro s hi he hl
    exact ⟨_, exec_pcieHotReset_up he hl, fun _ => State.endpointReset_en hi, fun _ _ => State.endpointReset_vector hi⟩
  case d3hot =>
    intro s hi hh hl hd
    refine ⟨_, exec_d3hotEntry_enters hh hl hd, rfl, fun n hn => ?_, fun v w hv hw => ?_⟩
    · rw [State.withHe_flag, State.endpointReset_en hi hn]
    · rw [State.withHe_word, State.endpointReset_vector hi hv hw]
  case d0 =>
    intro s _ hh hl hd
    exact ⟨_, exec_d0Restore_leaves hh hl hd, State.flushPending_d3hot _⟩
  case link =>
    intro s up hi he
    have hset : State.Inv { s with he := { s.he with linkUp := up } } := hi
    exact ⟨_, exec_pcieLinkTrained_on he up, congrArg HostEp.linkUp (State.lanesUp_he _ up), fun _ => State.lanesUp_up hset up⟩

end Sys2Proof.Machine
end

