-- ==== Sys2Proof/Proofs/Calibration.lean ====
section
/-! The calibrated value (R122): rounding with ties away from zero, and the fields of the sample word that carries the value and OVR
(R103, R104). -/

namespace Sys2Proof.Machine

open Sys2Proof

/-! Rounding. -/

/-- An integer nearest to a rational number, the one farther from zero of two. -/
def NearestAway (v : ℚ) (r : Int) : Prop := |v - r| ≤ 1 / 2 ∧ (|v - r| = 1 / 2 → |v| < |(r : ℚ)|)

theorem NearestAway.neg {v : ℚ} {r : Int} (h : NearestAway v r) : NearestAway (-v) (-r) := by
  have hdist : |-v - ((-r : Int) : ℚ)| = |v - r| := by
    rw [← abs_neg (v - r)]
    push_cast
    ring_nf
  rw [NearestAway, hdist, abs_neg, Int.cast_neg, abs_neg]
  exact h

/-- From zero up, half a step added before the floor. -/
theorem nearestAway_floor (n : Nat) {d : Nat} (hd : 0 < d) : NearestAway (n / d) ((n * 2 + d) / (2 * d) : Nat) := by
  have hsplit := Nat.div_add_mod (n * 2 + d) (2 * d)
  have hrest : (n * 2 + d) % (2 * d) < 2 * d := Nat.mod_lt _ (by omega)
  generalize (n * 2 + d) / (2 * d) = q at *
  generalize (n * 2 + d) % (2 * d) = m at *
  have hd' : (0 : ℚ) < d := by exact_mod_cast hd
  have hm : (m : ℚ) < 2 * d := by exact_mod_cast hrest
  have hm0 : (0 : ℚ) ≤ m := Nat.cast_nonneg m
  have hn : (n : ℚ) / d - q = m / (2 * d) - 1 / 2 := by
    have hcast : 2 * (d : ℚ) * q + m = n * 2 + d := by exact_mod_cast hsplit
    field_simp
    linarith
  have hlt : (m : ℚ) / (2 * d) < 1 := (div_lt_one (by linarith)).2 hm
  have hge : 0 ≤ (m : ℚ) / (2 * d) := by positivity
  rw [NearestAway, Int.cast_natCast]
  refine ⟨abs_le.2 ⟨by linarith, by linarith⟩, fun htie => ?_⟩
  have hbelow : (n : ℚ) / d - q = -(1 / 2) := ((abs_eq (by norm_num)).1 htie).resolve_left (by linarith)
  rw [abs_of_nonneg (by positivity), abs_of_nonneg (Nat.cast_nonneg q)]
  linarith

theorem roundAway_nearest (num : Int) {den : Nat} (hd : 0 < den) : NearestAway (num / den) (roundAway num den) := by
  unfold roundAway
  split
  · next hneg =>
    have hnum : (num : ℚ) / den = -(((-num).toNat : ℚ) / den) := by
      have hcast : (((-num).toNat : Int) : ℚ) = ((-num : Int) : ℚ) := by rw [Int.toNat_of_nonneg (by omega)]
      rw [← Int.cast_natCast (-num).toNat, hcast, Int.cast_neg, neg_div, neg_neg]
    rw [hnum]
    exact (nearestAway_floor _ hd).neg
  · next hpos =>
    have hnum : (num : ℚ) = (num.toNat : ℚ) := by
      rw [← Int.cast_natCast num.toNat, Int.toNat_of_nonneg (by omega)]
    rw [hnum]
    exact nearestAway_floor _ hd

/-! Words of the layout of Table 5.9 and Table 6.3. -/

/-- A word of quality, OVR, the flag beside it, four bits of reason or sequence, and the value. -/
def sampleLayout (q a b r v : Nat) : W32 := BitVec.ofNat 32 (q * 2 ^ 30 + a * 2 ^ 29 + b * 2 ^ 28 + r * 2 ^ 24 + v)

theorem sampleLayout_get {q a b r v : Nat} (hq : q < 4) (ha : a < 2) (hb : b < 2) (hr : r < 16) (hv : v < 2 ^ 24) :
    (sampleLayout q a b r v).get 31 30 = q ∧ (sampleLayout q a b r v).get 29 29 = a ∧
      (sampleLayout q a b r v).get 27 24 = r ∧ (sampleLayout q a b r v).get 23 0 = v := by
  unfold sampleLayout W32.get natBits
  rw [BitVec.toNat_ofNat]
  omega

theorem b2n_lt (b : Bool) : b2n b < 2 := by cases b <;> decide

theorem toSigned_lt (n : Nat) (i : Int) : toSigned n i < 2 ^ n := by
  have hpos : (0 : Int) < (2 ^ n : Nat) := by exact_mod_cast Nat.two_pow_pos n
  have hlt := Int.emod_lt_of_pos i hpos
  have hge := Int.emod_nonneg i hpos.ne'
  unfold toSigned
  omega

/-! The word of a conversion. -/

theorem firstCode_le {m : Nat} : ∀ {l : List (Bool × Nat)}, (∀ e ∈ l, e.2 ≤ m) → firstCode l ≤ m
  | [], _ => Nat.zero_le m
  | (b, n) :: t, h => by
    unfold firstCode
    split
    · exact h (b, n) (List.mem_cons_self ..)
    · exact firstCode_le fun e he => h e (List.mem_cons_of_mem _ he)

/-- Table 5.5 has no reason above 7. -/
theorem State.rawReason_le (s : State) (chan slice t : Nat) : s.rawReason chan slice t ≤ 7 := by
  unfold State.rawReason
  exact firstCode_le (by simp)

theorem rawWord_get {reason : Nat} (hr : reason ≤ 7) (ovr inj : Bool) (v : Int) :
    (rawWord reason ovr inj v).get 29 29 = b2n ovr ∧ (rawWord reason ovr inj v).get 23 0 = toSigned 24 v := by
  have hq : (if reason = 0 then 0 else 2) < 4 := by split <;> omega
  obtain ⟨-, hovr, -, hv⟩ := sampleLayout_get hq (b2n_lt ovr) (b2n_lt inj) (by omega : reason < 16) (toSigned_lt 24 v)
  exact ⟨hovr, hv⟩

theorem State.codeOf_uninjected {s : State} {chan t : Nat} (h : s.injected chan t = false) (code : Int) :
    s.codeOf chan t code = code := by
  unfold State.codeOf
  cases (s.afCore (chan / 4)).inj with
  | none => rfl
  | some j => exact if_neg (by simp [h])

/-- A conversion outside twin interleave and without injection: its own slice's correction, and OVR from the comparator or a code at
the end of the range. -/
theorem State.convert_uninjected {s : State} {chan slice t : Nat} (htwin : s.twinned chan = false) (hslice : slice < 4)
    (hinj : s.injected chan t = false) (code : Int) (window : Bool) :
    (s.convert chan slice t code window).1 = rawWord (s.rawReason chan slice t)
      (window || decide (32767 ≤ code) || decide (code ≤ -32768)) false
      (calibrate (max (-32768) (min 32767 code)) (s.slice (chan / 4) slice) (s.calOf chan).1 (s.calOf chan).2) := by
  have hcore : s.sliceCore chan slice = chan / 4 := by
    rw [State.sliceCore, htwin, Nat.div_eq_of_lt hslice]
    rfl
  have hhigh : (max (-32768) (min 32767 code) == 32767) = decide (32767 ≤ code) := by
    rw [Bool.eq_iff_iff, beq_iff_eq, decide_eq_true_eq]
    omega
  have hlow : (max (-32768) (min 32767 code) == -32768) = decide (code ≤ -32768) := by
    rw [Bool.eq_iff_iff, beq_iff_eq, decide_eq_true_eq]
    omega
  unfold State.convert
  simp only [State.codeOf_uninjected hinj, hinj, hcore, Nat.mod_eq_of_lt hslice, hhigh, hlow, Bool.not_false, Bool.and_true,
    Bool.false_and]

/-- The argument of the rounding is 256 v with the denominators of the formula brought together. -/
theorem calibrate_argument (x ofsC ofs : Int) (gnC gn : Nat) :
    256 * (((x : ℚ) - ofsC / 16) * (gnC / 4194304) - ofs / 16) * (gn / 4194304) =
      ((((16 * x - ofsC) * gnC - ofs * 4194304) * gn * 256 : Int) : ℚ) / (16 * 4194304 * 4194304 : Nat) := by
  push_cast
  ring

/-- Settles O44: the formula of R122 in exact arithmetic is the fraction that the model rounds. -/
theorem calibratedValueFollowsItsFormula : Obligations.CalibratedValueFollowsItsFormula := by
  unfold Obligations.CalibratedValueFollowsItsFormula
  refine ⟨fun x sl ofs gn => ⟨_, rfl, ?_⟩, by decide, by decide, fun s chan slice t code window htwin hslice hinj => ?_⟩
  · rw [calibrate_argument]
    exact roundAway_nearest _ (by norm_num)
  · rw [State.convert_uninjected htwin hslice hinj]
    exact (rawWord_get (s.rawReason_le chan slice t) _ _ _).symm

end Sys2Proof.Machine
end

