-- ==== Sys2Proof/Proofs/SliceRetirement.lean ====
section
/-! The switch of a retired slice (R118) in a table of converter cores that is not in canonical form. -/

namespace Sys2Proof.Machine

open Sys2Proof

/-- A device after reset, whose table of converter cores lists core 0 twice: once with the retirement of slice 0, due from the epoch
on, and once with that of slice 1. -/
def coreListedTwice : State :=
  { State.reset with
    af := { AfSt.init with
      cores := [(0, { AfCore.init with retire := [⟨0, 0, 0⟩] }), (0, { AfCore.init with retire := [⟨1, 0, 0⟩] })] } }

theorem coreListedTwice_inv : coreListedTwice.Inv := ⟨rfl, rfl, Nat.le_refl _⟩

/-- The retirements of core 0 after an answer. -/
def retireLeft : Res → List Retire
  | .next t => (t.afCore 0).retire
  | _ => []

/-- The switch of slice 0 takes the first entry of core 0 away, which is then as after reset, and bares the second. -/
theorem coreListedTwice_switched : retireLeft (exec (.sliceRetirementSwitch 0) coreListedTwice) = [⟨1, 0, 0⟩] := by decide +kernel

/-- Refutes O40: `State.Inv` does not ask for the canonical form of the table of converter cores, so that a core listed twice has a
retirement left after the switch of its only one. -/
theorem not_conversionsAreCorrectedJudgedAndDelivered : ¬ Obligations.ConversionsAreCorrectedJudgedAndDelivered := by
  unfold Obligations.ConversionsAreCorrectedJudgedAndDelivered
  rintro ⟨-, -, -, hswitch⟩
  obtain ⟨t, ht, -, -, -, hnone, -⟩ := hswitch coreListedTwice 0 0 0 0 [] coreListedTwice_inv (by decide) (by decide) (by decide)
    (by decide) (by decide)
  have hleft := coreListedTwice_switched
  rw [ht] at hleft
  exact absurd (hnone.symm.trans hleft) (by decide)

end Sys2Proof.Machine
end

