-- ==== Sys2Proof/Proofs/ScanTriggers.lean ====
section
/-! Triggered scans and sample timers (R109 to R112, R125): the plan of a core, a deferred and a dropped trigger, and the triggers that
an instant of a sample timer gives. -/

namespace Sys2Proof.Machine

open Sys2Proof

/-! Converter cores. -/

theorem State.setAfCore_afCore {k : Nat} {x : AfCore} (hx : x ≠ AfCore.init) (s : State) : (s.setAfCore k x).afCore k = x :=
  mget_mset_of_ne (d := fun _ => AfCore.init) hx s.af.cores

theorem Moves.afCore {m : Nat} {s t : State} (h : Moves m s t) (hi : s.Inv) (hb : m.testBit 18 = false) (k : Nat) :
    t.afCore k = s.afCore k := by
  have haf : s.af = t.af := h.keep hi .af hb
  rw [State.afCore, State.afCore, haf]

/-! The plan of a core. -/

theorem oldestSlice_isSome : ∀ {busy : List (Nat × Nat)}, busy ≠ [] → ∃ y, oldestSlice busy = some y
  | [], h => absurd rfl h
  | x :: t, _ => by
    unfold oldestSlice
    split
    · exact ⟨x, rfl⟩
    · split
      · exact ⟨_, rfl⟩
      · exact ⟨_, rfl⟩

/-- While slices are left, every conversion is laid, at its time or later. -/
theorem layPlan_lays {p : Planned} : ∀ {l : List Planned} {busy : List (Nat × Nat)} (prev : Nat), busy ≠ [] → p ∈ l →
    ∃ q, q ∈ layPlan busy prev l ∧ q.chan = p.chan ∧ q.scan = p.scan ∧ p.slot ≤ q.slot
  | a :: l, busy, prev, hbusy, hp => by
    obtain ⟨y, hy⟩ := oldestSlice_isSome hbusy
    unfold layPlan
    simp only [hy]
    rcases List.mem_cons.1 hp with rfl | hp
    · exact ⟨_, List.mem_cons_self, rfl, rfl, Nat.le_max_left _ _⟩
    · exact (layPlan_lays _ (by simpa using hbusy) hp).imp fun q ⟨hq, hsame⟩ => ⟨List.mem_cons_of_mem _ hq, hsame⟩

theorem State.layCore_lays {s : State} {core : Nat} {l : List Planned} {p : Planned} (hslices : s.coreSlices core ≠ []) (hp : p ∈ l) :
    ∃ q, q ∈ ((s.layCore core l).afCore core).plan ∧ q.chan = p.chan ∧ q.scan = p.scan ∧ p.slot ≤ q.slot := by
  unfold State.layCore
  extract_lets c busy plan last
  have hbusy : busy ≠ [] := by simpa [busy] using hslices
  obtain ⟨q, hq, hsame⟩ := layPlan_lays (c.convAt - 1) hbusy hp
  have hplan : plan ≠ [] := List.ne_nil_of_mem hq
  exact ⟨q, by rwa [State.setAfCore_afCore (fun h => hplan (congrArg AfCore.plan h))], hsame⟩

/-- A scan converts each enabled channel of its core, from its start on (R109). -/
theorem State.addScan_plans {s : State} {core start c : Nat} (hslices : s.coreSlices core ≠ []) (hc : c ∈ s.scanChans core) :
    ∃ p, p ∈ ((s.addScan core start).afCore core).plan ∧ p.chan = c ∧ p.scan = some start ∧ start ≤ p.slot := by
  obtain ⟨i, hi, hget⟩ := List.mem_iff_getElem.1 hc
  have hmem : (c, i) ∈ (s.scanChans core).zipIdx := List.mk_mem_zipIdx_iff_getElem?.2 (hget ▸ List.getElem?_eq_getElem hi)
  have hnew : (⟨c, start + 50 * i, 0, some start⟩ : Planned) ∈
      (s.scanChans core).zipIdx.map (fun e => (⟨e.1, start + 50 * e.2, 0, some start⟩ : Planned)) := List.mem_map.2 ⟨_, hmem, rfl⟩
  obtain ⟨q, hq, hchan, hscan, hslot⟩ :=
    State.layCore_lays hslices (List.mem_append_left _ (List.mem_append_right _ hnew))
  exact ⟨q, hq, hchan, hscan, Nat.le_trans (Nat.le_add_right _ _) hslot⟩

/-! SCAN_TRIGGER. -/

/-- The trigger event taken off those that wait. -/
def State.trigTaken (s : State) (e : Nat × Nat) : State := { s with af := { s.af with trigs := s.af.trigs.erase e } }

theorem State.startDeferred_none {s : State} {core : Nat} (h : (s.afCore core).deferred = none) (t : Nat) :
    s.startDeferred core t = s := by
  unfold State.startDeferred
  rw [h]

theorem State.startDeferred_early {s : State} {core d t : Nat} (h : (s.afCore core).deferred = some d) (ht : t < d) :
    s.startDeferred core t = s := by
  unfold State.startDeferred
  rw [h]
  exact if_neg (Nat.not_le.2 ht)

section scan

variable {s : State} {core at_ : Nat} (hpaths : s.pathsOn = true) (htrig : s.trigCore core = true)
  (hevent : s.af.trigs.find? (fun e => e.1 == core) = some (core, at_))
include hpaths htrig hevent

/-- Where no deferred start is due, the trigger is dropped, starts its scan or is deferred. -/
theorem exec_scanTrigger_takes (hdue : (s.trigTaken (core, at_)).startDeferred core s.tai = s.trigTaken (core, at_)) :
    exec (.scanTrigger core) s = .next (
      if (s.afCore core).deferred.isSome then (s.trigTaken (core, at_)).trigDrop core
      else if (s.afCore core).scanLast + 50 ≤ at_ then (s.trigTaken (core, at_)).addScan core at_
      else (s.trigTaken (core, at_)).setAfCore core { s.afCore core with deferred := some ((s.afCore core).scanLast + 50) }) := by
  have hpaths' : ¬((!s.pathsOn) = true) := by simp [hpaths]
  have htrig' : ¬((!s.trigCore core) = true) := by simp [htrig]
  show execScanTrigger core s = _
  unfold execScanTrigger
  rw [hevent]
  refine (if_neg hpaths').trans ((if_neg htrig').trans ?_)
  rw [show { s with af := { s.af with trigs := s.af.trigs.erase (core, at_) } } = s.trigTaken (core, at_) from rfl, hdue]
  rw [apply_ite Host.Outcome.next, apply_ite Host.Outcome.next]
  rfl

end scan

theorem State.bump_ovrun {s : State} (hi : s.Inv) (core : Nat) :
    (s.bump AF_CORE_OVRUN core 1).rd AF_CORE_OVRUN core = min 0xFFFF (s.rd AF_CORE_OVRUN core + 1) := by
  rw [State.bump, State.rd_wr_same hi (by decide), satAdd_eq_min]
  exact Nat.mod_eq_of_lt (Nat.lt_of_le_of_lt (Nat.min_le_left _ _) (by decide))

/-- A dropped trigger is counted, and the deferred start and the plan of its core stand. -/
theorem State.trigDrop_drops {s : State} (hi : s.Inv) {core d : Nat} (hd : (s.afCore core).deferred = some d) :
    (s.trigDrop core).rd AF_CORE_OVRUN core = min 0xFFFF (s.rd AF_CORE_OVRUN core + 1) ∧
      ((s.trigDrop core).afCore core).deferred = some d ∧ ((s.trigDrop core).afCore core).plan = (s.afCore core).plan := by
  have hw : (s.bump AF_CORE_OVRUN core 1).Inv := State.wr_inv hi _ _ _
  have hstore : ∀ x : AfCore, x.deferred = some d → x.plan = (s.afCore core).plan →
      ((s.bump AF_CORE_OVRUN core 1).setAfCore core x).rd AF_CORE_OVRUN core = min 0xFFFF (s.rd AF_CORE_OVRUN core + 1) ∧
        (((s.bump AF_CORE_OVRUN core 1).setAfCore core x).afCore core).deferred = some d ∧
        (((s.bump AF_CORE_OVRUN core 1).setAfCore core x).afCore core).plan = (s.afCore core).plan := by
    intro x hx hplan
    have hne : x ≠ AfCore.init := fun h => Option.some_ne_none d (hx.symm.trans (congrArg AfCore.deferred h))
    rw [State.setAfCore_afCore hne]
    exact ⟨State.bump_ovrun hi core, hx, hplan⟩
  unfold State.trigDrop
  extract_lets c drops s1
  split
  · have hset : (s1.setAfCore core { c with drops := drops, ovrAt := s.tai }).Inv := State.setAfCore_moves.inv hw
    rw [State.notify_moves.rd hset rfl, State.notify_moves.afCore hset rfl]
    exact hstore _ hd rfl
  · exact hstore _ hd rfl

/-! SAMPLE_TIMER_EVENT. -/

theorem State.urgentAsk_regs (s : State) (at8 e : Nat) : (s.urgentAsk at8 e).regs = s.regs := by
  unfold State.urgentAsk
  extract_lets chan d s1
  split
  · split <;> rfl
  · rfl

theorem State.urgentAsk_waiting (s : State) (at8 e : Nat) :
    (s.urgentAsk at8 e).af.trigs = s.af.trigs ∧
      (s.urgentAsk at8 e).af.urg = s.af.urg ++ [(e, edgeNs at8 (s.rd AF_URG_DELAY e))] := by
  unfold State.urgentAsk
  extract_lets chan d s1
  split
  · split <;> exact ⟨rfl, rfl⟩
  · exact ⟨rfl, rfl⟩

/-- Each entry asked waits afterwards with its delay, beside those that waited. -/
theorem State.each_urgentAsk (at8 : Nat) : ∀ (l : List Nat) (s : State),
    (s.each l (fun t e => t.urgentAsk at8 e)).af.trigs = s.af.trigs ∧
      (s.each l (fun t e => t.urgentAsk at8 e)).af.urg = s.af.urg ++ l.map (fun e => (e, edgeNs at8 (s.rd AF_URG_DELAY e)))
  | [], s => ⟨rfl, (List.append_nil _).symm⟩
  | e :: l, s => by
    obtain ⟨htrigs, hurg⟩ := s.urgentAsk_waiting at8 e
    obtain ⟨htrigs', hurg'⟩ := State.each_urgentAsk at8 l (s.urgentAsk at8 e)
    have hdelay : ∀ k, (s.urgentAsk at8 e).rd AF_URG_DELAY k = s.rd AF_URG_DELAY k := fun k =>
      State.rd_of_regs (s.urgentAsk_regs at8 e)
    refine ⟨htrigs'.trans htrigs, hurg'.trans ?_⟩
    simp only [hurg, hdelay, List.map_cons, List.append_assoc, List.singleton_append]

/-- An instant of a source in 1/8 ns reaches the triggered cores and the urgent entries that name it, each after its delay (R109,
R125); `match_` of `State.trigEvent` holds of every name of a sample timer. -/
theorem State.trigEvent_timer {s : State} {src : Nat} (hsrc : src < 16) (at8 : Nat) :
    (∀ k, k < s.byVar 16 8 4 → s.trigCore k = true → s.rd AF_CORE_TRIG k = src →
      (k, edgeNs at8 (s.rd AF_CORE_DELAY k)) ∈ (s.trigEvent src false at8).af.trigs) ∧
    (∀ e, e < 64 → s.flag AF_URG_EN e = true → s.rd AF_URG_TRIG e = src →
      (e, edgeNs at8 (s.rd AF_URG_DELAY e)) ∈ (s.trigEvent src false at8).af.urg) := by
  unfold State.trigEvent
  extract_lets match_ cores urg af s1
  obtain ⟨htrigs, hurg⟩ := State.each_urgentAsk at8 urg s1
  have hmatch : ∀ ctr, match_ src ctr = true := fun ctr => by simp [match_, hsrc]
  rw [htrigs, hurg]
  refine ⟨fun k hk htrig hname => ?_, fun e he hen hname => ?_⟩
  · have hcore : k ∈ cores := List.mem_filter.2 ⟨List.mem_range.2 hk, by simp [htrig, hname, hmatch]⟩
    exact List.mem_append_right _ (List.mem_map.2 ⟨k, hcore, rfl⟩)
  · have hentry : e ∈ urg := List.mem_filter.2 ⟨List.mem_range.2 he, by simp [hen, hname, hmatch]⟩
    exact List.mem_append_right _ (List.mem_map.2 ⟨e, hentry, rfl⟩)

/-- The timer counts from behind its instant. -/
def State.timerTaken (s : State) (timer : Nat) : State :=
  { s with af := { s.af with tmrAt := mset (fun _ => 0) timer (s.timerInstant timer + 1) s.af.tmrAt } }

theorem exec_sampleTimerEvent_due {s : State} {timer : Nat} (hpaths : s.pathsOn = true) (htimer : timer < 16)
    (hen : s.flag AF_TMR_EN timer = true) (hdue : mget (fun _ => 0) s.af.tmrAt timer ≤ s.timerInstant timer) :
    exec (.sampleTimerEvent timer) s = .next ((s.timerTaken timer).trigEvent timer false (s.timerInstant timer)) :=
  if_pos (by simp [hpaths, htimer, hen, hdue])

end Sys2Proof.Machine
end

