-- ==== Sys2Proof/Proofs/FrontEndEvents.lean ====
section
/-! The reference monitors (R127, R128), the comparators (R131, R561) and the arc inputs (R132, R133); with the triggers, O41. -/

namespace Sys2Proof.Machine

open Sys2Proof

theorem Moves.tai {m : Nat} {s t : State} (h : Moves m s t) (hi : s.Inv) (hb : m.testBit 9 = false) : t.tai = s.tai := by
  have htu : s.tu = t.tu := h.keep hi .tu hb
  rw [State.tai, State.tai, State.now, State.now, htu]

/-- A notification is recorded once, where its FIFO has room (R382, R385). -/
theorem State.notifyAt_mem_handedOver {s : State} (hi : s.Inv) {unit : Nat}
    (hroom : (s.handedOver (fifoOf unit)).length < fifoCap (fifoOf unit)) (code cls : Nat) (t : Stamp) (p0 p1 p2 p3 : Nat) :
    ⟨unit * 256 + code, 0, t, p0 % 2 ^ 32, p1 % 2 ^ 32, p2 % 2 ^ 32, decide (3 ≤ cls) || alwaysPrio (unit * 256 + code)⟩ ∈
      (s.notifyAt unit code cls t p0 p1 p2 p3).handedOver (fifoOf unit) := by
  unfold State.notifyAt
  extract_lets errorCode s1 s2
  have hs1 : s1.Inv := State.handOff_moves.inv hi
  have hmoves : Moves 0x2000 s1 s2 := Moves.ite Moves.refl State.arrive_moves
  have hev : s1.ev = s2.ev := hmoves.keep hs1 .ev rfl
  have hkept : s2.handedOver (fifoOf unit) = s1.handedOver (fifoOf unit) := by rw [State.handedOver, ← hev, State.handedOver]
  have hdelivered : ∀ n, s2.handedOver (fifoOf unit) <+: (s2.deliverOrHold n).handedOver (fifoOf unit) := fun n =>
    State.deliverOrHold_moves.keep (hmoves.inv hs1) .handed rfl _
  exact (hdelivered _).mem (hkept ▸ State.handOff_mem hi hroom)

/-! Reference monitors. -/

theorem Moves.flag {m : Nat} {s t : State} (h : Moves m s t) (hi : s.Inv) {f : Field}
    (hb : m.testBit (Part.regs f.unit).bit = false) (i : Nat) : t.flag f i = s.flag f i := by
  rw [State.flag, State.flag, h.rd hi hb]

theorem Moves.refOn {m : Nat} {s t : State} (h : Moves m s t) (hi : s.Inv) (hb : m.testBit (Part.regs 8).bit = false) (core : Nat) :
    t.refOn core = s.refOn core := by
  have htwin : t.twinned (core * 4) = s.twinned (core * 4) := h.flag (f := AF_CORE_TWIN) hi hb _
  rw [State.refOn, State.refOn, htwin]
  exact h.flag (f := AF_CORE_REF_EN) hi hb _

theorem State.refOk_outside {s : State} {core : Nat} (h : (s.afCore core).refIn = false) : s.refOk core = false := by
  simp [State.refOk, State.refBad, h]

theorem State.refOk_inside {s : State} {core : Nat} (hon : s.refOn core = true) (hset : (s.afCore core).refEnAt + 2000000 ≤ s.tai)
    (hin : (s.afCore core).refIn = true) (hat : (s.afCore core).refInAt ≤ s.tai) (hfault : (s.afCore core).refFault = false) :
    s.refOk core = true := by
  simp [State.refOk, State.refBad, hon, hin, hfault, Nat.not_lt.2 hset, Nat.not_lt.2 hat]

/-- The reference of a core out of its window after it had settled. -/
def State.refLeft (s : State) (core : Nat) : State := s.setAfCore core { s.afCore core with refIn := false, refFault := true }

/-- The reference of a core back in its window. -/
def State.refBack (s : State) (core : Nat) : State := s.setAfCore core { s.afCore core with refIn := true, refInAt := s.tai }

/-- The REF interval of a core over. -/
def State.refOver (s : State) (core : Nat) : State := s.setAfCore core { s.afCore core with refFault := false, refSeen := false }

theorem exec_refMonitorChange_leaves {s : State} {core : Nat} (hcore : core < s.byVar 16 8 4) (hon : s.refOn core = true)
    (hin : (s.afCore core).refIn = true) (hset : (s.afCore core).refEnAt + 2000000 ≤ s.tai) :
    exec (.refMonitorChange core false) s = .next ((s.refLeft core).notify 0x08 3 2 core 0 0 0) := by
  have hguard : ¬((decide (s.byVar 16 8 4 ≤ core) || !s.refOn core || (s.afCore core).refIn == false) = true) := by
    simp [hcore, hon, hin]
  have hfault : (decide ((s.afCore core).refEnAt + 2000000 ≤ s.tai) || (s.afCore core).refFault) = true := by simp [hset]
  show execRefMonitorChange core false s = _
  unfold execRefMonitorChange
  rw [if_neg hguard]
  simp only [hfault, State.refLeft, if_true, Bool.false_eq_true, if_false]

theorem exec_refMonitorChange_returns {s : State} {core : Nat} (hcore : core < s.byVar 16 8 4) (hon : s.refOn core = true)
    (hin : (s.afCore core).refIn = false) (hfault : (s.afCore core).refFault = true) :
    exec (.refMonitorChange core true) s = .next ((s.refBack core).notify 0x08 4 0 core 0 0 0) := by
  have hguard : ¬((decide (s.byVar 16 8 4 ≤ core) || !s.refOn core || (s.afCore core).refIn == true) = true) := by
    simp [hcore, hon, hin]
  show execRefMonitorChange core true s = _
  unfold execRefMonitorChange
  rw [if_neg hguard]
  simp only [hfault, State.refBack, if_true]

theorem exec_refOkExpiry_due {s : State} {core : Nat} (hfault : (s.afCore core).refFault = true)
    (hin : (s.afCore core).refIn = true) (hdue : (s.afCore core).refInAt + 100000 ≤ s.tai) :
    exec (.refOkExpiry core) s = .next ((s.refOver core).each ((s.refOver core).coreChans core) (fun t k => t.evGain k t.tai)) := by
  have hguard : ((s.afCore core).refFault && (s.afCore core).refIn && decide ((s.afCore core).refInAt + 100000 ≤ s.tai)) = true := by
    simp [hfault, hin, hdue]
  show execRefOkExpiry core s = _
  unfold execRefOkExpiry
  rw [if_pos hguard]
  rfl

theorem State.refLeft_afCore (s : State) (core : Nat) :
    (s.refLeft core).afCore core = { s.afCore core with refIn := false, refFault := true } :=
  State.setAfCore_afCore (fun h => Bool.noConfusion (congrArg AfCore.refFault h)) s

theorem State.refBack_afCore (s : State) (core : Nat) :
    (s.refBack core).afCore core = { s.afCore core with refIn := true, refInAt := s.tai } :=
  State.setAfCore_afCore (fun h => Bool.noConfusion (congrArg AfCore.refIn h)) s

theorem State.refOver_afCore {s : State} {core : Nat} (hin : (s.afCore core).refIn = true) :
    (s.refOver core).afCore core = { s.afCore core with refFault := false, refSeen := false } := by
  refine State.setAfCore_afCore (fun h => ?_) s
  have hout : (s.afCore core).refIn = false := congrArg AfCore.refIn h
  exact Bool.noConfusion (hin.symm.trans hout)

/-! Comparators. -/

theorem exec_wakeComparatorSwitch_armed {s : State} {chan : Nat} (harmed : s.armed = true) (hchan : chan < s.nAin)
    (hkind : s.rd AF_CHAN_KIND chan = 1) (hthr : s.rd AF_CHAN_WAKE_THR chan ≠ 0) :
    exec (.wakeComparatorSwitch chan) s = .next ((s.wr AF_CHAN_WAKE_SEEN chan 1).wakeBy .comparator) :=
  if_pos (by simp [harmed, hchan, hkind, hthr])

theorem exec_directTripComparatorSwitch_on {s : State} {chan : Nat} (harmed : s.armed = true) (hchan : chan < s.nAin)
    (hkind : s.rd AF_CHAN_KIND chan = 1) (hthr : s.rd AF_CHAN_TRIP_THR chan ≠ 0)
    (hoff : mget (fun _ => false) s.af.dtrip chan = false) :
    exec (.directTripComparatorSwitch chan true) s = .next ((s.dtripSet chan true).wakeBy .directTrip) :=
  if_pos (by simp [State.dtripCan, harmed, hchan, hkind, hthr, hoff])

/-- The comparator noted as switched on, with TRIP_SEEN. -/
def State.tripSeen (s : State) (chan : Nat) : State :=
  State.wr { s with af := { s.af with dtrip := mset (fun _ => false) chan true s.af.dtrip } } AF_CHAN_TRIP_SEEN chan 1

/-- PAR1 of AF_DTRIP: the line of the channel and whether it takes part. -/
def State.tripLine (s : State) (chan : Nat) : Nat := s.rd AF_CHAN_SNT_EN chan * 2 ^ 31 + s.rd AF_CHAN_SNT_LINE chan

theorem State.tripLine_lt (s : State) (chan : Nat) : s.tripLine chan < 2 ^ 32 := by
  have hen : s.rd AF_CHAN_SNT_EN chan < 2 ^ 1 := natBits_lt _ 26 26
  have hline : s.rd AF_CHAN_SNT_LINE chan < 2 ^ 3 := natBits_lt _ 25 23
  rw [State.tripLine]
  omega

theorem State.dtripSet_on {s : State} (hrun : s.tu.running = true) (chan : Nat) : s.dtripSet chan true =
    ((s.tripSeen chan).handOff 0x08 ⟨0x8801, chan, s.now, 1, s.tripLine chan, 0, true⟩).sntUpdate s := by
  have hstamp : s.switchStamp = s.now := if_pos hrun
  have hrec : ∀ t : State, t.stateRecAt 0x08 1 chan s.now (b2n true) (s.tripLine chan) 0 true =
      t.handOff 0x08 ⟨0x8801, chan, s.now, 1, s.tripLine chan, 0, true⟩ := fun t => by
    rw [State.stateRecAt, Nat.mod_eq_of_lt (s.tripLine_lt chan)]
    rfl
  rw [← hrec, ← hstamp]
  rfl

/-- A direct-trip comparator that switches on: TRIP_SEEN, the comparator, its record. -/
theorem State.dtripSet_on_effect {s : State} (hi : s.Inv) (hrun : s.tu.running = true) (chan : Nat)
    (hroom : (s.handedOver 0).length < 8192) :
    (s.dtripSet chan true).flag AF_CHAN_TRIP_SEEN chan = true ∧
      mget (fun _ => false) (s.dtripSet chan true).af.dtrip chan = true ∧
      ⟨0x8801, chan, s.now, 1, s.tripLine chan, 0, true⟩ ∈ (s.dtripSet chan true).handedOver 0 := by
  have hset : State.Inv { s with af := { s.af with dtrip := mset (fun _ => false) chan true s.af.dtrip } } := hi
  have hseen : (s.tripSeen chan).Inv := State.wr_inv hset _ _ _
  rw [State.dtripSet_on hrun]
  generalize hr : (⟨0x8801, chan, s.now, 1, s.tripLine chan, 0, true⟩ : EvRec) = r
  have hrecorded : ((s.tripSeen chan).handOff 0x08 r).Inv := State.handOff_moves.inv hseen
  have haf : ((s.tripSeen chan).handOff 0x08 r).af = (((s.tripSeen chan).handOff 0x08 r).sntUpdate s).af :=
    State.sntUpdate_moves.keep hrecorded .af rfl
  have haf' : (s.tripSeen chan).af = ((s.tripSeen chan).handOff 0x08 r).af := State.handOff_moves.keep hseen .af rfl
  have hhanded : ((s.tripSeen chan).handOff 0x08 r).handedOver 0 <+: (((s.tripSeen chan).handOff 0x08 r).sntUpdate s).handedOver 0 :=
    State.sntUpdate_moves.keep hrecorded .handed rfl 0
  refine ⟨?_, ?_, ?_⟩
  · rw [State.flag, State.sntUpdate_moves.rd hrecorded rfl, State.handOff_rd, State.tripSeen, State.rd_wr_same hset (by decide)]
    rfl
  · rw [← haf, ← haf']
    exact mget_mset_of_ne (d := fun _ => false) (by decide) s.af.dtrip
  · exact hhanded.mem (State.handOff_mem (u := 0x08) hseen hroom)

/-! Arc inputs. -/

theorem exec_arcLightChange_changes {s : State} {input : Nat} {on : Bool} (harmed : s.armed = true) (hinput : input < 8)
    (hchange : s.flag AF_ARC_LIGHT input ≠ (on && s.rd AF_ARC_THR input != 0)) :
    exec (.arcLightChange input on) s = .next (
      if on && s.rd AF_ARC_THR input != 0 then (s.arcSet input (on && s.rd AF_ARC_THR input != 0)).wakeBy .arcLight
      else s.arcSet input (on && s.rd AF_ARC_THR input != 0)) :=
  if_pos (by simpa [harmed, hinput] using hchange)

/-- LIGHT shows the light state, and SEEN is set with it. -/
theorem State.arcSet_shows {s : State} (hi : s.Inv) (input : Nat) (lit : Bool) :
    (s.arcSet input lit).flag AF_ARC_LIGHT input = lit ∧ (lit = true → (s.arcSet input lit).flag AF_ARC_SEEN input = true) := by
  have h1 : (s.setFlag AF_ARC_LIGHT input lit).Inv := State.setFlag_inv hi _ _ _
  have hlight : (s.setFlag AF_ARC_LIGHT input lit).flag AF_ARC_LIGHT input = lit := State.flag_setFlag_same hi (by decide) input lit
  have hacts : ∀ u : State, u.Inv → ∀ f : Field, f.unit = 8 →
      (if u.protOn then u.arcElems.fastBlocks.tmStep else u).flag f input = u.flag f input := fun u hu f hf => by
    split
    · have ha : u.arcElems.Inv := State.arcElems_moves.inv hu
      have hf' : u.arcElems.fastBlocks.Inv := State.fastBlocks_moves.inv ha
      rw [State.tmStep_moves.flag hf' (by rw [hf]; rfl), State.fastBlocks_moves.flag ha (by rw [hf]; rfl),
        State.arcElems_moves.flag hu (by rw [hf]; rfl)]
    · rfl
  unfold State.arcSet
  cases lit with
  | false => exact ⟨(hacts _ h1 _ rfl).trans hlight, fun h => Bool.noConfusion h⟩
  | true =>
    have h2 : ((s.setFlag AF_ARC_LIGHT input true).wr AF_ARC_SEEN input 1).Inv := State.wr_inv h1 _ _ _
    refine ⟨(hacts _ h2 _ rfl).trans ?_, fun _ => (hacts _ h2 _ rfl).trans ?_⟩
    · rw [State.flag, State.rd_wr_ne h1 (by decide) 1 (.inr (.inr (.inr (.inr (.inr (by decide))))))]
      exact hlight
    · rw [State.flag, State.rd_wr_same h1 (by decide)]
      rfl

theorem State.wakeBy_flag {s : State} (hi : s.Inv) (src : WakeSrc) {f : Field} (hf : f.unit = 8) (i : Nat) :
    (s.wakeBy src).flag f i = s.flag f i := State.wakeBy_moves.flag hi (by rw [hf]; rfl) i

theorem exec_arcSupervisionTest_tests {s : State} {input result : Nat} (hpaths : s.pathsOn = true) (hinput : input < 8)
    (hresult : result < 3) (hen : s.flag AF_ARC_SUP_EN input = true) :
    exec (.arcSupervisionTest input result) s = .next (
      if result != 0 && s.rd AF_ARC_SUP input != result then (s.wr AF_ARC_SUP input result).notify 0x08 6 2 input result 0 0
      else s.wr AF_ARC_SUP input result) :=
  if_neg (by simp [hpaths, hinput, hresult, hen])

/-- Settles O41: each event is an equation for the next state, and what it leaves is read off the writes in it. -/
theorem frontEndEventsActOnTheirRegisters : Obligations.FrontEndEventsActOnTheirRegisters := by
  unfold Obligations.FrontEndEventsActOnTheirRegisters
  refine ⟨?monitor, ?expiry, ?scan, ?timer, ?comparators, ?arc, ?supervision⟩
  case monitor =>
    intro s core hi hcore hon
    refine ⟨fun hin hset => ?_, fun hin hfault hroom => ?_⟩
    · have hleft : (s.refLeft core).Inv := State.setAfCore_moves.inv hi
      have hafter : ((s.refLeft core).notify 0x08 3 2 core 0 0 0).afCore core =
          { s.afCore core with refIn := false, refFault := true } :=
        (State.notify_moves.afCore hleft rfl core).trans (s.refLeft_afCore core)
      refine ⟨_, exec_refMonitorChange_leaves hcore hon hin hset, ?_, ?_, State.refOk_outside ?_,
        State.notifyAt_mem_arrivals hleft (by decide) _ _ _ _ _⟩ <;> rw [hafter]
    · have hback : (s.refBack core).Inv := State.setAfCore_moves.inv hi
      have hafter : ((s.refBack core).notify 0x08 4 0 core 0 0 0).afCore core =
          { s.afCore core with refIn := true, refInAt := s.tai } :=
        (State.notify_moves.afCore hback rfl core).trans (s.refBack_afCore core)
      have hrec := State.notifyAt_mem_handedOver hback (unit := 0x08) hroom 4 0 s.now core 0 0 0
      have hcore32 : core % 2 ^ 32 = core := by
        refine Nat.mod_eq_of_lt (Nat.lt_of_lt_of_le hcore ?_)
        unfold State.byVar
        split <;> decide
      rw [hcore32] at hrec
      refine ⟨_, exec_refMonitorChange_returns hcore hon hin hfault, ?_, ?_, hrec⟩ <;> rw [hafter]
  case expiry =>
    intro s core hi _ hfault hin hdue
    have hset : Moves 0x40000 s (s.refOver core) := State.setAfCore_moves
    have hover : (s.refOver core).Inv := hset.inv hi
    have hmoves : Moves 0x80000 (s.refOver core)
        ((s.refOver core).each ((s.refOver core).coreChans core) (fun t k => t.evGain k t.tai)) :=
      State.each_moves fun _ _ => State.evGain_moves
    have hafter := (hmoves.afCore hover rfl core).trans (State.refOver_afCore hin)
    have htai := (hmoves.tai hover rfl).trans (hset.tai hi rfl)
    refine ⟨_, exec_refOkExpiry_due hfault hin hdue, by rw [hafter], fun hon hsettled => State.refOk_inside ?_ ?_ ?_ ?_ ?_⟩
    · rw [hmoves.refOn hover rfl, hset.refOn hi rfl, hon]
    · rw [hafter, htai]
      exact hsettled
    · rw [hafter]
      exact hin
    · rw [hafter, htai]
      exact Nat.le_trans (Nat.le_add_right _ _) hdue
    · rw [hafter]
  case scan =>
    intro s core at_ hi _ hpaths htrig hevent
    refine ⟨fun hnone hlate hslices => ?_, fun hnone hearly => ?_, fun d hd hwait => ?_⟩
    · have hexec := exec_scanTrigger_takes hpaths htrig hevent (State.startDeferred_none (s := s.trigTaken (core, at_)) hnone _)
      rw [hnone, if_neg (by simp), if_pos hlate] at hexec
      exact ⟨_, hexec, rfl, rfl, fun c hc => State.addScan_plans (s := s.trigTaken (core, at_)) hslices hc⟩
    · have hexec := exec_scanTrigger_takes hpaths htrig hevent (State.startDeferred_none (s := s.trigTaken (core, at_)) hnone _)
      rw [hnone, if_neg (by simp), if_neg (Nat.not_le.2 hearly)] at hexec
      refine ⟨_, hexec, ?_, rfl⟩
      rw [State.setAfCore_afCore (fun h => Option.some_ne_none _ (congrArg AfCore.deferred h))]
    · have hexec := exec_scanTrigger_takes hpaths htrig hevent (State.startDeferred_early (s := s.trigTaken (core, at_)) hd hwait)
      rw [hd, if_pos (show (some d).isSome = true from rfl)] at hexec
      exact ⟨_, hexec, State.trigDrop_drops (s := s.trigTaken (core, at_)) hi hd⟩
  case timer =>
    intro s timer _ hpaths htimer hen hdue
    exact ⟨_, exec_sampleTimerEvent_due hpaths htimer hen hdue,
      State.trigEvent_timer (s := s.timerTaken timer) htimer (s.timerInstant timer)⟩
  case comparators =>
    intro s chan hi harmed hchan hkind
    refine ⟨fun hthr => ?_, fun hthr hoff hrun hmode hroom => ?_⟩
    · refine ⟨_, exec_wakeComparatorSwitch_armed harmed hchan hkind hthr, ?_⟩
      rw [State.wakeBy_flag (State.wr_inv hi _ _ _) _ rfl, State.flag, State.rd_wr_same hi (by decide)]
      rfl
    · have hmo : s.mo = (s.dtripSet chan true).mo := State.dtripSet_moves.keep hi .mo rfl
      refine ⟨_, exec_directTripComparatorSwitch_on harmed hchan hkind hthr hoff, ?_⟩
      rw [State.wakeBy_awake (hmo ▸ hmode)]
      exact State.dtripSet_on_effect hi hrun chan hroom
  case arc =>
    intro s input on hi harmed hinput hchange
    have hset : (s.arcSet input (on && s.rd AF_ARC_THR input != 0)).Inv := State.arcSet_moves.inv hi
    have hwoken : ∀ f : Field, f.unit = 8 → (if on && s.rd AF_ARC_THR input != 0 then
        (s.arcSet input (on && s.rd AF_ARC_THR input != 0)).wakeBy .arcLight
        else s.arcSet input (on && s.rd AF_ARC_THR input != 0)).flag f input =
          (s.arcSet input (on && s.rd AF_ARC_THR input != 0)).flag f input := fun f hf => by
      split
      · exact State.wakeBy_flag hset _ hf input
      · rfl
    obtain ⟨hlight, hseen⟩ := State.arcSet_shows hi input (on && s.rd AF_ARC_THR input != 0)
    refine ⟨_, exec_arcLightChange_changes harmed hinput hchange, (hwoken _ rfl).trans hlight, fun hlit => ?_⟩
    exact (hwoken _ rfl).trans (hseen (hlight.symm.trans ((hwoken _ rfl).symm.trans hlit)))
  case supervision =>
    intro s input result hi hpaths hinput hresult hen
    have hw : (s.wr AF_ARC_SUP input result).Inv := State.wr_inv hi _ _ _
    have hsup : (s.wr AF_ARC_SUP input result).rd AF_ARC_SUP input = result :=
      (State.rd_wr_same hi (by decide) input result).trans (Nat.mod_eq_of_lt (Nat.lt_of_lt_of_le hresult (by decide)))
    refine ⟨_, exec_arcSupervisionTest_tests hpaths hinput hresult hen, ?_, fun hbad hnew => ?_⟩
    · split
      · exact (State.notify_moves.rd hw rfl input).trans hsup
      · exact hsup
    · rw [if_pos (by simp [hbad, hnew])]
      exact State.notifyAt_mem_arrivals hw (by decide) _ _ _ _ _

end Sys2Proof.Machine
end

