-- ==== Sys2Proof/Proofs/ChannelSamples.lean ====
section
/-! Fine, fast and resampled samples (R143, R145, R148 to R151, R159): what they put into FC_CHAN and the history of their channel. -/

namespace Sys2Proof.Machine

open Sys2Proof

theorem State.setFcChan_fcChan {c : Nat} {x : FcChan} (hx : x ≠ FcChan.init) (s : State) : (s.setFcChan c x).fcChan c = x :=
  mget_mset_of_ne (d := fun _ => FcChan.init) hx s.fc.ch

theorem Moves.fcChan {m : Nat} {s t : State} (h : Moves m s t) (hi : s.Inv) (hb : m.testBit 19 = false) (c : Nat) :
    t.fcChan c = s.fcChan c := by
  have hfc : s.fc = t.fc := h.keep hi .fc hb
  rw [State.fcChan, State.fcChan, hfc]

/-- A field of a whole word written from a word reads back as it. -/
theorem State.rd_wr_word {s : State} (hi : s.Inv) {f : Field} (hf : f.hi = 31 ∧ f.lo = 0) (i : Nat) (w : W32) :
    (s.wr f i w.toNat).rd f i = w.toNat := by
  obtain ⟨hhi, hlo⟩ := hf
  have hfits : f.fits = true := by simp [Field.fits, hhi, hlo]
  rw [State.rd_wr_same hi hfits, hhi, hlo]
  exact Nat.mod_eq_of_lt w.isLt

/-- Two words of FC_CHAN written one after the other. -/
def State.showSample (s : State) (stat last : Field) (c : Nat) (w : W32 × W32) : State :=
  (s.wr stat c w.2.toNat).wr last c w.1.toNat

theorem State.showSample_inv {s : State} (hi : s.Inv) (stat last : Field) (c : Nat) (w : W32 × W32) :
    (s.showSample stat last c w).Inv := State.wr_inv (State.wr_inv hi _ _ _) _ _ _

theorem State.showSample_rd {s : State} (hi : s.Inv) {stat last : Field} (hstat : stat.hi = 31 ∧ stat.lo = 0)
    (hlast : last.hi = 31 ∧ last.lo = 0) (hword : stat.word % 4096 ≠ last.word % 4096) (c : Nat) (w : W32 × W32) :
    (s.showSample stat last c w).rd last c = w.1.toNat ∧ (s.showSample stat last c w).rd stat c = w.2.toNat := by
  have hw : (s.wr stat c w.2.toNat).Inv := State.wr_inv hi _ _ _
  have hfits : last.fits = true := by simp [Field.fits, hlast]
  refine ⟨State.rd_wr_word hw hlast c w.1, ?_⟩
  rw [State.showSample, State.rd_wr_ne hw hfits _ (Field.apart_of_word hword)]
  exact State.rd_wr_word hi hstat c w.2

/-! FINE_SAMPLE. -/

/-- The fine sample of a channel at a stamp. -/
def State.fineSmp (s : State) (c t : Nat) : Smp := ⟨t, (s.fineWords c t).1, (s.fineWords c t).2⟩

/-- The sample in the history of its channel and in FC_CHAN. -/
def State.finePut (s : State) (c t : Nat) : State :=
  (s.setFcChan c { s.fcChan c with
    fine := (s.fineSmp c t :: (s.fcChan c).fine).take 32
    fineMarks := (s.fcChan c).fineMarks.filter (fun m => decide (t < m.b))
    fineAt := t + s.finePeriod c }).showSample FC_CHAN_FINE_STAT FC_CHAN_FINE_LAST c (s.fineWords c t)

/-- The tracker of the channel, started by its first fine sample. -/
def State.fineAnchored (s : State) (c t : Nat) : State :=
  if ((s.finePut c t).track ((s.finePut c t).rd FC_CHAN_TRACK c)).anchored then s.finePut c t
  else (s.finePut c t).anchor ((s.finePut c t).rd FC_CHAN_TRACK c) t

theorem State.fineDeliver_eq (s : State) (c t : Nat) :
    s.fineDeliver c t = (s.fineAnchored c t).feedStreams 0x09 c false (s.finePeriod c) (s.fineSmp c t) := rfl

theorem State.finePut_inv {s : State} (hi : s.Inv) (c t : Nat) : (s.finePut c t).Inv :=
  State.showSample_inv (State.setFcChan_moves.inv hi) _ _ _ _

theorem State.fineAnchored_inv {s : State} (hi : s.Inv) (c t : Nat) : (s.fineAnchored c t).Inv := by
  unfold State.fineAnchored
  split
  · exact State.finePut_inv hi c t
  · exact State.anchor_moves.inv (State.finePut_inv hi c t)

theorem State.fineAnchored_fcChan (s : State) (c t : Nat) : (s.fineAnchored c t).fcChan c = (s.finePut c t).fcChan c := by
  unfold State.fineAnchored
  split <;> rfl

theorem State.fineAnchored_rd {s : State} (hi : s.Inv) (c t : Nat) (f : Field) (hf : f.unit = 9) :
    (s.fineAnchored c t).rd f c = (s.finePut c t).rd f c := by
  unfold State.fineAnchored
  split
  · rfl
  · exact State.anchor_moves.rd (State.finePut_inv hi c t) (by rw [hf]; rfl) c

theorem State.finePut_fine (s : State) (c t : Nat) :
    ((s.finePut c t).fcChan c).fine = (s.fineSmp c t :: (s.fcChan c).fine).take 32 := by
  have hread : (s.finePut c t).fcChan c = { s.fcChan c with
      fine := (s.fineSmp c t :: (s.fcChan c).fine).take 32
      fineMarks := (s.fcChan c).fineMarks.filter (fun m => decide (t < m.b))
      fineAt := t + s.finePeriod c } :=
    State.setFcChan_fcChan (fun h => List.cons_ne_nil _ _ (congrArg FcChan.fine h)) s
  rw [hread]

theorem State.fineDeliver_fine {s : State} (hi : s.Inv) (c t : Nat) :
    ((s.fineDeliver c t).fcChan c).fine = s.fineSmp c t :: (s.fcChan c).fine.take 31 := by
  rw [State.fineDeliver_eq, State.feedStreams_moves.fcChan (s.fineAnchored_inv hi c t) rfl, State.fineAnchored_fcChan,
    State.finePut_fine]
  rfl

theorem State.fineDeliver_rd {s : State} (hi : s.Inv) (c t : Nat) :
    (s.fineDeliver c t).rd FC_CHAN_FINE_LAST c = (s.fineWords c t).1.toNat ∧
      (s.fineDeliver c t).rd FC_CHAN_FINE_STAT c = (s.fineWords c t).2.toNat := by
  have ha := s.fineAnchored_inv hi c t
  rw [State.fineDeliver_eq, State.feedStreams_moves.rd ha rfl, State.feedStreams_moves.rd ha rfl, State.fineAnchored_rd hi c t _ rfl,
    State.fineAnchored_rd hi c t _ rfl]
  exact State.showSample_rd (State.setFcChan_moves.inv hi) ⟨rfl, rfl⟩ ⟨rfl, rfl⟩ (by decide) c _

/-- The disturbance recorder and the zones take the delivered sample. -/
def State.fineTaken (s : State) (c t : Nat) : State :=
  let s2 := (s.fineDeliver c t).drFine c (s.fineSmp c t)
  if s2.protOn then s2.zoneFine c t else s2

theorem State.fineTaken_moves (s : State) (c t : Nat) : Moves 0x40210000 (s.fineDeliver c t) (s.fineTaken c t) := by
  have hdr : Moves 0x40210000 (s.fineDeliver c t) ((s.fineDeliver c t).drFine c (s.fineSmp c t)) := State.drFine_moves.mono rfl
  exact Moves.ite (hdr.trans (State.zoneFine_moves.mono rfl)) hdr

theorem exec_fineSample_next {s : State} (hi : s.Inv) {c t : Nat} (hnext : s.fineNext c t = true) :
    exec (.fineSample c t) s = .next (s.fineTaken c t) := by
  show execFineSample c t s = _
  unfold execFineSample
  simp only [hnext, State.fineDeliver_fine hi, Bool.not_true, Bool.false_eq_true, if_false]
  rfl

/-! FAST_SAMPLE. -/

/-- The fast sample in FC_CHAN. -/
def State.fastPut (s : State) (c t : Nat) : State :=
  (s.setFcChan c { s.fcChan c with
    fastMarks := (s.fcChan c).fastMarks.filter (fun m => decide (t < m.b))
    fastAt := t + 800 }).showSample FC_CHAN_FAST_STAT FC_CHAN_FAST_LAST c (s.fastWords c t)

theorem State.fastDeliver_rd {s : State} (hi : s.Inv) (c t : Nat) :
    (s.fastDeliver c t).rd FC_CHAN_FAST_LAST c = (s.fastWords c t).1.toNat ∧
      (s.fastDeliver c t).rd FC_CHAN_FAST_STAT c = (s.fastWords c t).2.toNat := by
  have hput : (s.fastPut c t).Inv := State.showSample_inv (State.setFcChan_moves.inv hi) _ _ _ _
  have hkept : ∀ f : Field, f.unit = 9 → (s.fastDeliver c t).rd f c = (s.fastPut c t).rd f c := fun f hf =>
    State.feedStreams_moves.rd hput (by rw [hf]; rfl) c
  rw [hkept _ rfl, hkept _ rfl]
  exact State.showSample_rd (State.setFcChan_moves.inv hi) ⟨rfl, rfl⟩ ⟨rfl, rfl⟩ (by decide) c _

/-- The disturbance recorder, the fast elements, the breakers and the trip matrix take the delivered sample. -/
def State.fastTaken (s : State) (c t : Nat) : State :=
  let x := (s.fastDeliver c t).lastFast c t
  let s2 := (s.fastDeliver c t).drFast c x
  if s2.protOn then ((s2.fastElems c x).brkSample c x).fastBlocks.tmStep else s2

theorem State.fastTaken_rd {s : State} (hi : s.Inv) (c t : Nat) (f : Field) (hf : f.unit = 9) :
    (s.fastTaken c t).rd f c = (s.fastDeliver c t).rd f c := by
  have h1 : (s.fastDeliver c t).Inv := State.fastDeliver_moves.inv hi
  unfold State.fastTaken
  extract_lets x s2
  have h2 : s2.Inv := State.drFast_moves.inv h1
  have hrecorded : s2.rd f c = (s.fastDeliver c t).rd f c := State.drFast_moves.rd h1 (by rw [hf]; rfl) c
  split
  · have h3 : (s2.fastElems c x).Inv := State.fastElems_moves.inv h2
    have h4 : ((s2.fastElems c x).brkSample c x).Inv := State.brkSample_moves.inv h3
    have h5 : ((s2.fastElems c x).brkSample c x).fastBlocks.Inv := State.fastBlocks_moves.inv h4
    rw [State.tmStep_moves.rd h5 (by rw [hf]; rfl), State.fastBlocks_moves.rd h4 (by rw [hf]; rfl),
      State.brkSample_moves.rd h3 (by rw [hf]; rfl), State.fastElems_moves.rd h2 (by rw [hf]; rfl), hrecorded]
  · exact hrecorded

theorem exec_fastSample_next {s : State} {c t : Nat} (hnext : s.fastNext c t = true) :
    exec (.fastSample c t) s = .next (s.fastTaken c t) := by
  show execFastSample c t s = _
  unfold execFastSample
  simp only [hnext, Bool.not_true, Bool.false_eq_true, if_false]
  rfl

/-! RESAMPLED_SAMPLE. -/

theorem sampleWord_get {qual : Nat} (hq : qual < 4) (ovr syn : Bool) (seq : Nat) (v : Int) :
    (sampleWord qual ovr syn seq v).get 31 30 = qual ∧ (sampleWord qual ovr syn seq v).get 27 24 = seq % 16 ∧
      (sampleWord qual ovr syn seq v).get 23 0 = toSigned 24 (clamp24 v) := by
  obtain ⟨hqual, -, hseq, hv⟩ := sampleLayout_get hq (b2n_lt ovr) (b2n_lt syn) (Nat.mod_lt seq (by decide : 0 < 16))
    (toSigned_lt 24 (clamp24 v))
  exact ⟨hqual, hseq, hv⟩

/-- The value at a resampling instant from the fine samples around it. -/
def State.resValue (s : State) (c u : Nat) : Int :=
  resampleValue (s.streamPeriod c) u ((s.nearFine c u).map (fun f => (f.t, f.value)))

/-- The resampled sample at an instant, of index `i` in its second, with the quality of the worst of those fine samples. -/
def State.resSmp (s : State) (c u i : Nat) (w : Smp) : Smp :=
  ⟨u, sampleWord w.qual ((s.nearFine c u).any (fun f => f.word.get 29 29 == 1) || clamp24 (s.resValue c u) != s.resValue c u)
    (u % secFrac == 0) i (s.resValue c u), w.stat⟩

/-- The resampled sample in the history of its channel. -/
def State.resTaken (s : State) (c u i : Nat) (w : Smp) : State :=
  s.setFcChan c { s.fcChan c with res := (s.resSmp c u i w :: (s.fcChan c).res).take 224, resLast := u }

theorem exec_resampledSample_due {s : State} {c u i : Nat} {w : Smp} (hpaths : s.pathsOn = true) (hhas : s.fcHas c = true)
    (hinst : ((s.track (s.streamTrack c)).insts.filter (fun x => decide ((s.fcChan c).resLast < x.1))).getLast? = some (u, i))
    (hworst : worst (s.nearFine c u) = some w) (hfull : 8 ≤ (s.nearFine c u).length) (hdue : s.resDue c (u / 2 ^ 32) ≤ s.tai) :
    exec (.resampledSample c) s = .next (s.resTaken c u i w) := by
  have hguard : ¬((!s.pathsOn || !(s.fcHas c || (decide (256 ≤ c) && decide (c < 256 + 1536)))) = true) := by simp [hpaths, hhas]
  have hfew : ¬(decide ((s.nearFine c u).length < 8) = true) := by simpa using hfull
  show execResampledSample c s = _
  unfold execResampledSample
  rw [if_neg hguard]
  simp only [hinst]
  rw [State.nearFine] at hworst
  simp only [hworst]
  exact (if_neg hfew).trans (if_neg (Nat.not_lt.2 hdue))

theorem State.resTaken_fcChan (s : State) (c u i : Nat) (w : Smp) : (s.resTaken c u i w).fcChan c =
    { s.fcChan c with res := (s.resSmp c u i w :: (s.fcChan c).res).take 224, resLast := u } :=
  State.setFcChan_fcChan (fun h => List.cons_ne_nil _ _ (congrArg FcChan.res h)) s

end Sys2Proof.Machine
end

