-- ==== Sys2Proof/Proofs/Streams.lean ====
section
/-! Sample streams (R135 to R137, R166): opened, an entry written or lost, closed; with the samples of the channels, O42. -/

namespace Sys2Proof.Machine

open Sys2Proof

/-! STREAM_OPEN. -/

/-- The stream that a command asks for. -/
def State.streamOf (s : State) (c : Cmd) : Stream :=
  { unit := objUnit c.objid, chan := objInst c.objid, fast := objUnit c.objid == 0x09 && (c.par 0).get 31 31 == 1
    decim := (c.par 0).get 15 0
    startSec := if (c.par 1).toNat = 0 then 0 else namedSecond s.tu.sec (c.par 1).toNat
    seq := mget (fun _ => 0) s.mb.nseq ((c.par 0).get 21 16), skip := (c.par 0).get 15 0, buf := [], closing := none }

theorem exec_streamOpen_opens {s : State} {ring idx : Nat} {c : Cmd} (hr : s.Ready ring idx c) (hp : c.Plain opStreamOpen 8)
    (hm : s.inMode modesTrain = true)
    (hobj : objUnit c.objid = 0x08 ∧ objGrp c.objid = 0x10 ∨ objUnit c.objid = 0x09 ∧ objGrp c.objid = 1)
    (hknown : objUnknown (objUnit c.objid) (objGrp c.objid) (objInst c.objid) = false) (hgood : s.streamBad c = false) :
    exec (.streamOpen ring idx) s =
      .next ((s.setStream ((c.par 0).get 21 16) (some (s.streamOf c))).done c 0 0 0 0) := by
  have hnamed : ((objUnit c.objid == 0x08 && objGrp c.objid == 0x10) || (objUnit c.objid == 0x09 && objGrp c.objid == 1)) = true := by
    rcases hobj with ⟨hu, hg⟩ | ⟨hu, hg⟩ <;> simp [hu, hg]
  show execStreamOpen ring idx s = _
  refine hr.runCmd hp.isOp ((State.verdict_own hr hp hp.inline rfl ?_ (fun h => Bool.noConfusion h) hm).trans rfl)
  simp only [hnamed, hknown, hgood, Bool.not_true, Bool.or_self, Bool.false_eq_true, if_false]

theorem State.setStream_stream (s : State) (ring : Nat) (st : Stream) : (s.setStream ring (some st)).stream ring = some st :=
  mget_mset_of_ne (d := fun _ => none) (Option.some_ne_none st) s.af.streams

/-! STREAM_ENTRY_WRITE. -/

/-- The stream after its next entry. -/
def Stream.advanced (st : Stream) : Stream := { st with seq := (st.seq + 1) % 2 ^ 32, buf := st.buf.drop st.take.length }

section entry

variable {s : State} {ring : Nat} {st : Stream} (hpaths : s.pathsOn = true) (hst : s.stream ring = some st) (hbuf : st.buf ≠ [])
  (hmode : s.mo.mode ≠ .sentinel)
include hpaths hst hbuf hmode

theorem exec_streamEntryWrite_enters : exec (.streamEntryWrite ring) s = .next (
    (if s.ringIs ring 3 && !s.ringFull ring && !(s.mo.mode == .letMode && !s.flag MB_RINGREG_LOC ring) then
      s.ringPush ring (streamEntry st) else s.bump MB_RINGREG_DROP ring 1).streamEnd ring st.advanced) := by
  have hguard : ¬((!s.pathsOn || s.mo.mode == .sentinel) = true) := by simp [hpaths, hmode]
  have hempty : ¬(st.buf.isEmpty = true) := by simpa using hbuf
  show execStreamEntryWrite ring s = _
  unfold execStreamEntryWrite
  rw [hst]
  exact (if_neg hguard).trans ((if_neg hempty).trans rfl)

theorem exec_streamEntryWrite_written (hkind : s.ringIs ring 3 = true) (hfull : s.ringFull ring = false)
    (hlet : s.mo.mode ≠ .letMode) :
    exec (.streamEntryWrite ring) s = .next ((s.ringPush ring (streamEntry st)).streamEnd ring st.advanced) := by
  rw [exec_streamEntryWrite_enters hpaths hst hbuf hmode, if_pos (by simp [hkind, hfull, hlet])]

theorem exec_streamEntryWrite_dropped (hfull : s.ringFull ring = true) :
    exec (.streamEntryWrite ring) s = .next ((s.bump MB_RINGREG_DROP ring 1).streamEnd ring st.advanced) := by
  rw [exec_streamEntryWrite_enters hpaths hst hbuf hmode, if_neg (by simp [hfull])]

end entry

theorem State.settle_ringMem (s : State) (at_ : Option (Nat × Nat)) (st : Status) (r0 r1 : Nat) (t : Option Stamp) :
    (s.settle at_ st r0 r1 t).mb.ringMem = s.mb.ringMem := by
  unfold State.settle
  split
  · rfl
  · split
    · split <;> rfl
    · rfl

/-- The end of a stream leaves what its ring holds. -/
theorem State.streamEnd_ringMem (s : State) (ring : Nat) (st : Stream) : (s.streamEnd ring st).mb.ringMem = s.mb.ringMem := by
  unfold State.streamEnd
  split
  · split
    · exact State.settle_ringMem _ _ _ _ _ _
    · rfl
  · rfl

/-- PROD is advanced, whatever vector the ring raises. -/
theorem State.ringPush_prod {s : State} (hi : s.Inv) {n : Nat} (hsize : s.rd MB_RINGREG_SIZE_LOG2 n ≤ 16) (entry : List W32) :
    (s.ringPush n entry).rd MB_RINGREG_PROD n = (s.rd MB_RINGREG_PROD n + 1) % s.ringSize n := by
  have hpushed : (s.entryPushed n entry).Inv := State.entryPushed_inv hi n entry
  have hprod : (s.entryPushed n entry).rd MB_RINGREG_PROD n = (s.rd MB_RINGREG_PROD n + 1) % s.ringSize n :=
    (State.rd_wr_same (s := s.entryStored n entry) hi rfl n _).trans (State.ringIndex_lt hsize _)
  rw [State.ringPush_eq]
  split
  · rw [State.raiseVector]
    split
    · exact hprod
    · exact (State.rdk_wrk_ne hpushed rfl _ (.inr (.inl (by decide)))).trans hprod
  · exact hprod

/-! STREAM_CLOSE. -/

/-- The command with its effect begun. -/
def Cmd.begun (c : Cmd) : Cmd := { c with phase := .started }

/-- The stream gone, its command waiting for the last entry. -/
def State.streamGone (s : State) (c : Cmd) : State :=
  (s.setPhase c.ring c.order .started).setStream ((c.par 0).get 5 0) none

theorem exec_streamClose_closes {s : State} {ring idx : Nat} {c : Cmd} {st : Stream} (hr : s.Ready ring idx c)
    (hp : c.Plain opStreamClose 4) (hm : s.inMode modesAll = true) (hpar : (c.par 0).get 31 6 = 0)
    (hst : s.stream ((c.par 0).get 5 0) = some st) (hopen : st.closing = none) (hbuf : st.buf = []) :
    exec (.streamClose ring idx) s = .next ((s.streamGone c).settle (some c.ref) .ok 0 0 (some s.now)) := by
  show execStreamClose ring idx s = _
  refine (hr.runCmd hp.isOp ((State.verdict_own hr hp hp.inline rfl ?_ (fun h => Bool.noConfusion h) hm).trans rfl)).trans
    (congrArg _ ?_)
  · simp [hst, hopen, hpar]
  · simp only [State.streamClose, hst, State.streamEnd, hbuf, List.isEmpty_nil, if_true]
    rfl

/-- The command is decided: nothing of its stream is left to write. -/
theorem State.streamGone_settle {s : State} {c : Cmd} (hf : s.findCmd c.ring c.order = some c) (hu : c.undecided = true) :
    (s.streamGone c).settle (some c.ref) .ok 0 0 (some s.now) =
      (s.streamGone c).setPhase c.ring c.order (.decided .ok 0 0 0 0 (some s.now)) :=
  State.settle_eq (s := s.streamGone c) (c := c.begun) (State.findCmd_setPhase hf hu .started) rfl .ok 0 0 _

/-- Settles O42: each sample, entry or command is an equation for the next state, and what it leaves is read off it. -/
theorem samplesReachChannelsAndStreams : Obligations.SamplesReachChannelsAndStreams := by
  unfold Obligations.SamplesReachChannelsAndStreams
  refine ⟨?fine, ?fast, ?resampled, ?opened, ?entry, ?closed⟩
  case fine =>
    intro s chan stamp hi hnext
    have hdelivered : (s.fineDeliver chan stamp).Inv := State.fineDeliver_moves.inv hi
    have hkept := s.fineTaken_moves chan stamp
    obtain ⟨hlast, hstat⟩ := State.fineDeliver_rd hi chan stamp
    refine ⟨_, exec_fineSample_next hi hnext, (hkept.rd hdelivered rfl chan).trans hlast, (hkept.rd hdelivered rfl chan).trans hstat,
      ?_⟩
    rw [hkept.fcChan hdelivered rfl, State.fineDeliver_fine hi]
    rfl
  case fast =>
    intro s chan stamp hi hnext
    obtain ⟨hlast, hstat⟩ := State.fastDeliver_rd hi chan stamp
    exact ⟨_, exec_fastSample_next hnext, (State.fastTaken_rd hi chan stamp _ rfl).trans hlast,
      (State.fastTaken_rd hi chan stamp _ rfl).trans hstat⟩
  case resampled =>
    intro s chan u i w _ hpaths hhas hinst hworst hfull hdue
    obtain ⟨hqual, hseq, hvalue⟩ := sampleWord_get (natBits_lt w.stat.toNat 31 30)
      ((s.nearFine chan u).any (fun f => f.word.get 29 29 == 1) || clamp24 (s.resValue chan u) != s.resValue chan u)
      (u % secFrac == 0) i (s.resValue chan u)
    refine ⟨_, s.resSmp chan u i w, exec_resampledSample_due hpaths hhas hinst hworst hfull hdue, ?_, rfl, rfl, hqual, hseq, hvalue, ?_⟩
    · rw [State.resTaken_fcChan]
      rfl
    · rw [State.resTaken_fcChan]
  case opened =>
    intro s ring idx c _ hr hp hm hobj _ hknown hgood
    exact ⟨_, s.streamOf c, exec_streamOpen_opens hr hp hm hobj hknown hgood,
      State.done_outcome (s := s.setStream _ _) hr.mem hr.undecided 0 0 0 0, s.setStream_stream _ _, rfl, rfl, rfl, rfl, rfl⟩
  case entry =>
    intro s ring st hi hpaths _ hst hbuf hmode
    refine ⟨fun hkind hfull hlet hsize => ?_, fun hfull => ?_⟩
    · have hpushed : (s.ringPush ring (streamEntry st)).Inv := State.ringPush_moves.inv hi
      refine ⟨_, exec_streamEntryWrite_written hpaths hst hbuf hmode hkind hfull hlet, ?_, ?_⟩
      · rw [State.streamEnd_ringMem]
        exact State.ringPush_entry hi ring (List.cons_ne_nil _ _)
      · exact (State.streamEnd_moves.rd hpushed rfl ring).trans (State.ringPush_prod hi hsize _)
    · have hcounted : (s.bump MB_RINGREG_DROP ring 1).Inv := State.wr_inv hi _ _ _
      refine ⟨_, exec_streamEntryWrite_dropped hpaths hst hbuf hmode hfull, State.streamEnd_ringMem _ _ _, ?_⟩
      exact (State.streamEnd_moves.rd hcounted rfl ring).trans (State.bump_drop hi ring)
  case closed =>
    intro s ring idx c st _ hr hp hm hpar hst hopen hbuf hfind hok
    have hexec := exec_streamClose_closes hr hp hm hpar hst hopen hbuf
    rw [State.streamGone_settle hfind hr.undecided] at hexec
    refine ⟨_, hexec, ?_, ?_⟩
    · exact mget_mset_same (d := fun _ => none) _ none s.af.streams hok
    · exact State.setPhase_mem (s := s.streamGone c) (c := c.begun) (State.setPhase_mem hr.mem hr.undecided .started) rfl _

end Sys2Proof.Machine
end

