-- ==== Sys2Proof/Proofs/LatchResets.lean ====
section
/-! Latch resets (R213) in a table of trip channels that is not in canonical form. -/

namespace Sys2Proof.Machine

open Sys2Proof

/-- A device after reset that has started up to RUN. -/
def startedUp : State := { State.reset with mo := { Modes.init with mode := .run, boot := .done } }

theorem startedUp_inv : startedUp.Inv := ⟨rfl, rfl, Nat.le_refl _⟩

/-- The invariant does not speak of the tables of the trip path. -/
theorem State.withTm_inv {s : State} (hi : s.Inv) (tm : TmSt) : State.Inv { s with tm := tm } := hi

/-- A trip channel in latch mode that has captured its assertion (R212). -/
def State.captured (s : State) (c : Nat) : State :=
  ((s.wr TM_TCH_LATCH c 1).wr TM_TCH_ASSERTED c 1).wr TM_TCH_LATCHED c 1

theorem State.wrk_inv {s : State} (hi : s.Inv) (f : Field) (i k v : Nat) : (s.wrk f i k v).Inv := ⟨mset_ok hi.1, hi.2⟩

theorem State.captured_inv {s : State} (hi : s.Inv) (c : Nat) : (s.captured c).Inv :=
  State.wr_inv (State.wr_inv (State.wr_inv hi _ _ _) _ _ _) _ _ _

/-- TM_XIN bit 0 is set, and channel 0 names it as its source (Table 8.1); channels 0 and 1 have captured. -/
def sourcedAndFreed : State :=
  (((startedUp.wr TM_XIN_BITS_LO 0 1).wrk TM_MASK_W 0 128 1).captured 0).captured 1

theorem sourcedAndFreed_inv : sourcedAndFreed.Inv :=
  State.captured_inv (State.captured_inv (State.wrk_inv (State.wr_inv startedUp_inv _ _ _) _ _ _ _) 0) 1

/-- The same device with its table of channels out of order: an entry of channel 1 as after reset, then one of channel 0 that holds a
reset pending, which reads only once the entry of channel 1 is gone. -/
def channelHidden : State := { sourcedAndFreed with tm := { TmSt.init with ch := [(1, ⟨0, false⟩), (0, ⟨0, true⟩)] } }

theorem channelHidden_inv : channelHidden.Inv := State.withTm_inv sourcedAndFreed_inv _

/-- RSTIGN of channel 0 after an answer. -/
def resetsIgnored : Res → Nat
  | .next t => t.rd TM_TCH_RSTIGN 0
  | _ => 0

/-- A LATCH_RESET of both channels is ignored on channel 0, which has its source, and releases channel 1: its entry goes, and the
pending reset that shows on channel 0 is judged, and counted, too. -/
theorem channelHidden_reset : resetsIgnored (exec (.latchReset 3) channelHidden) = 2 := by decide +kernel

/-- Refutes O45: `State.Inv` does not ask for the canonical form of the table of trip channels, so that the release of one channel
bares a pending reset of another, whose one ignored LATCH_RESET counts twice in RSTIGN. -/
theorem not_tripChannelsFollowSourcesAndResets : ¬ Obligations.TripChannelsFollowSourcesAndResets := by
  unfold Obligations.TripChannelsFollowSourcesAndResets
  rintro ⟨-, hreset, -⟩
  obtain ⟨t, ht, -, hchannels⟩ := hreset channelHidden 3 channelHidden_inv (by decide)
  obtain ⟨-, -, hignored⟩ := hchannels 0 (by decide) (by decide) (by decide +kernel) (by decide +kernel) (by decide +kernel)
    (by decide)
  have hcount := channelHidden_reset
  rw [ht] at hcount
  exact absurd ((hignored (by decide +kernel)).symm.trans hcount) (by decide +kernel)

end Sys2Proof.Machine
end

