-- ==== Sys2Proof/Proofs/RemoteBits.lean ====
section
/-! Protection messages (R217) in a table of received bits that is not in canonical form. -/

namespace Sys2Proof.Machine

open Sys2Proof

/-- A device in RUN with remote bit 0 mapped on channel 0 of device 0, whose table of received bits lists device 0 twice, each time
with bit 0 set. -/
def bitsListedTwice : State :=
  { startedUp.wr TM_RX_EN 0 1 with tm := { TmSt.init with rxBits := [(0, 1), (0, 1)] } }

theorem bitsListedTwice_inv : bitsListedTwice.Inv :=
  State.withTm_inv (State.wr_inv startedUp_inv TM_RX_EN 0 1) _

/-- Remote bit 0 shows 1 after an answer. -/
def remoteBitShown : Res → Bool
  | .next t => t.flag TM_RX_VAL 0
  | _ => false

/-- A message with STATE 0 from device 0 takes one entry of the device away and leaves the other. -/
theorem bitsListedTwice_received : remoteBitShown (exec (.tripFrameReceive 0 [0, 0, 0, 0]) bitsListedTwice) = true := by
  decide +kernel

/-- Refutes O46: `State.Inv` does not ask for the canonical form of the table of received bits, and a message with STATE 0 drops
one entry of it, so that a remote bit of a device listed twice stays set. -/
theorem not_breakersRemoteBitsAndZonesAct : ¬ Obligations.BreakersRemoteBitsAndZonesAct := by
  unfold Obligations.BreakersRemoteBitsAndZonesAct
  rintro ⟨-, -, hmessage, -⟩
  obtain ⟨t, ht, hbits⟩ := hmessage bitsListedTwice 0 0 0 0 0 bitsListedTwice_inv (by decide)
  obtain ⟨hawake, -⟩ := hbits 0 (by decide) (by decide +kernel) (by decide +kernel)
  obtain ⟨hval, -⟩ := hawake (by decide) (by decide)
  have hshown := bitsListedTwice_received
  rw [ht] at hshown
  exact absurd (hval.symm.trans hshown) (by decide +kernel)

end Sys2Proof.Machine
end

