-- ==== Sys2Proof/Proofs/LoopTables.lean ====
section
/-! The tables of the loop engine, which read back what was put in, and registers written one after another. -/

namespace Sys2Proof.Machine

open Sys2Proof

/-! Registers written one after another. -/

/-- No write of `f` at repetition `k` reaches `g` at repetition `l`, whatever their indices: another object, another word, or other
bits of the word. -/
def Field.beside (f g : Field) (k l : Nat) : Bool :=
  f.fits && (g.unit != f.unit || g.grp % 256 != f.grp % 256 || g.wordAt l % 4096 != f.wordAt k % 4096
    || decide (g.hi < f.lo) || decide (f.hi < g.lo))

theorem State.rdk_wrk_beside {s : State} (hi : s.Inv) {f g : Field} {k l : Nat} (h : f.beside g k l = true) (i j v : Nat) :
    (s.wrk f i k v).rdk g j l = s.rdk g j l := by
  simp only [Field.beside, Bool.and_eq_true, Bool.or_eq_true, bne_iff_ne, decide_eq_true_eq] at h
  obtain ⟨hf, h⟩ := h
  refine State.rdk_wrk_ne hi hf v ?_
  unfold Field.apart
  tauto

/-- Fields written in order: field, index, repetition, value. -/
def State.written (s : State) (l : List (Field × Nat × Nat × Nat)) : State :=
  l.foldl (fun s w => s.wrk w.1 w.2.1 w.2.2.1 w.2.2.2) s

/-- None of the writes reaches the field. -/
def besideAll (l : List (Field × Nat × Nat × Nat)) (g : Field) (k : Nat) : Bool := l.all (fun w => w.1.beside g w.2.2.1 k)

theorem State.written_cons (s : State) (w : Field × Nat × Nat × Nat) (l : List (Field × Nat × Nat × Nat)) :
    s.written (w :: l) = (s.wrk w.1 w.2.1 w.2.2.1 w.2.2.2).written l := rfl

theorem State.written_inv {s : State} (hi : s.Inv) (l : List (Field × Nat × Nat × Nat)) : (s.written l).Inv :=
  List.foldlRecOn _ _ hi fun _ h w _ => State.wrk_inv h w.1 w.2.1 w.2.2.1 w.2.2.2

@[simp] theorem State.written_le (s : State) (l : List (Field × Nat × Nat × Nat)) : (s.written l).le = s.le :=
  List.foldlRecOn (motive := fun t : State => t.le = s.le) _ _ rfl fun _ h _ _ => h

/-- What is written depends on the registers alone. -/
theorem State.written_regs : ∀ (l : List (Field × Nat × Nat × Nat)) {s t : State}, t.regs = s.regs →
    (t.written l).regs = (s.written l).regs
  | [], _, _, h => h
  | w :: l, s, t, h => State.written_regs l (s := s.wrk w.1 w.2.1 w.2.2.1 w.2.2.2) (by
      simp only [State.wrk, State.putWord, State.word, h])

/-- A field beside all of them stays. -/
theorem State.rdk_written_beside {g : Field} {k : Nat} (j : Nat) : ∀ (l : List (Field × Nat × Nat × Nat)) {s : State}, s.Inv →
    besideAll l g k = true → (s.written l).rdk g j k = s.rdk g j k
  | [], _, _, _ => rfl
  | w :: l, s, hi, h => by
    simp only [besideAll, List.all_cons, Bool.and_eq_true] at h
    exact (State.rdk_written_beside j l (State.wrk_inv hi _ _ _ _) h.2).trans (State.rdk_wrk_beside hi h.1 _ _ _)

theorem State.rd_written_beside {s : State} (hi : s.Inv) {g : Field} {l : List (Field × Nat × Nat × Nat)}
    (h : besideAll l g 0 = true) (j : Nat) : (s.written l).rd g j = s.rd g j := State.rdk_written_beside j l hi h

theorem State.flag_written_beside {s : State} (hi : s.Inv) {g : Field} {l : List (Field × Nat × Nat × Nat)}
    (h : besideAll l g 0 = true) (j : Nat) : (s.written l).flag g j = s.flag g j :=
  congrArg (· != 0) (State.rd_written_beside hi h j)

/-- The field written first reads back when it lies beside the others. -/
theorem State.rdk_written_head {s : State} (hi : s.Inv) {f : Field} {k : Nat} {l : List (Field × Nat × Nat × Nat)}
    (hf : f.fits = true) (h : besideAll l f k = true) (i v : Nat) :
    (s.written ((f, i, k, v) :: l)).rdk f i k = v % 2 ^ (f.hi + 1 - f.lo) :=
  (State.rdk_written_beside i l (State.wrk_inv hi _ _ _ _) h).trans (State.rdk_wrk_same hi hf i k v)

theorem State.rd_written_head {s : State} (hi : s.Inv) {f : Field} {l : List (Field × Nat × Nat × Nat)} (hf : f.fits = true)
    (h : besideAll l f 0 = true) (i v : Nat) : (s.written ((f, i, 0, v) :: l)).rd f i = v % 2 ^ (f.hi + 1 - f.lo) :=
  State.rdk_written_head hi hf h i v

theorem State.flag_written_head {s : State} (hi : s.Inv) {f : Field} {l : List (Field × Nat × Nat × Nat)} (hf : f.fits = true)
    (h : besideAll l f 0 = true) (i : Nat) (b : Bool) : (s.written ((f, i, 0, b2n b) :: l)).flag f i = b :=
  (State.flag_written_beside (State.wrk_inv hi _ _ _ _) h i).trans (State.flag_setFlag_same hi hf i b)

/-! The tables of loops and axes. -/

/-- The later of two writes of a key stands. -/
theorem mset_mset_same {α : Type} [DecidableEq α] {d : Nat → α} (k : Nat) (v w : α) : ∀ (m : AMap α) {lo : Nat},
    mapOkFrom d lo m = true → mset d k w (mset d k v m) = mset d k w m
  | [], _, _ => by
    by_cases hv : v = d k <;> simp [mset, hv]
  | (k', v') :: t, lo, hm => by
    simp only [mapOkFrom, Bool.and_eq_true, decide_eq_true_eq] at hm
    have htail : ∀ {j : Nat}, k < j → mapOkFrom d j t = true → mset d k w t = if w = d k then t else (k, w) :: t := by
      intro j hj ht
      cases t with
      | nil => rfl
      | cons e t =>
        simp only [mapOkFrom, Bool.and_eq_true, decide_eq_true_eq] at ht
        have hne : k ≠ e.1 := by omega
        have hlt : k < e.1 := by omega
        simp [mset, hne, hlt]
    by_cases hk : k = k'
    · subst hk
      by_cases hv : v = d k
      · simp only [mset, hv, if_true]
        exact htail (Nat.lt_succ_self k) hm.2
      · simp [mset, hv]
    · by_cases hlt : k < k'
      · by_cases hv : v = d k <;> simp [mset, hk, hlt, hv]
      · simp [mset, hk, hlt, mset_mset_same k v w t hm.2]

section loops

variable {s : State} (hok : mapOk (fun _ => LoopSt.init) s.le.loops = true)
include hok

theorem State.setLoop_loop (n : Nat) (x : LoopSt) : (s.setLoop n x).loop n = x := mget_mset_same n x s.le.loops hok

theorem State.setLoop_loop_ne {n j : Nat} (h : j ≠ n) (x : LoopSt) : (s.setLoop n x).loop j = s.loop j :=
  mget_mset_ne x h s.le.loops hok

theorem State.setLoop_ok (n : Nat) (x : LoopSt) : mapOk (fun _ => LoopSt.init) (s.setLoop n x).le.loops = true := mset_ok hok

theorem State.setLoop_setLoop (n : Nat) (x y : LoopSt) : (s.setLoop n x).setLoop n y = s.setLoop n y :=
  congrArg (fun l => { s with le := { s.le with loops := l } }) (mset_mset_same n x y s.le.loops hok)

end loops

section axes

variable {s : State} (hok : mapOk (fun _ => AxisSt.init) s.le.axes = true)
include hok

theorem State.setAxis_axis (n : Nat) (x : AxisSt) : (s.setAxis n x).axis n = x := mget_mset_same n x s.le.axes hok

theorem State.setAxis_setAxis (n : Nat) (x y : AxisSt) : (s.setAxis n x).setAxis n y = s.setAxis n y :=
  congrArg (fun l => { s with le := { s.le with axes := l } }) (mset_mset_same n x y s.le.axes hok)

end axes

/-- The tables that `State.controlMapsOk` speaks of, one by one. -/
theorem State.controlMapsOk_iff {s : State} : s.controlMapsOk = true ↔
    mapOk (fun _ => LoopSt.init) s.le.loops = true ∧ mapOk (fun _ => AxisSt.init) s.le.axes = true ∧
      mapOk (fun _ => EncSt.init) s.le.encs = true ∧ mapOk (fun _ => 0) s.le.duty = true ∧ mapOk (fun _ => 0) s.le.pwmAt = true := by
  simp only [State.controlMapsOk, Bool.and_eq_true, and_assoc]

end Sys2Proof.Machine
end

