-- ==== Sys2Proof/Proofs/LoopSamples.lean ====
section
/-! LOOP_SAMPLE (R238, R240, R242, R244): the output of the sample before applied, a sample in HOLD and in CLOSED, and how it ends. -/

namespace Sys2Proof.Machine

open Sys2Proof

/-! The loops that sample. -/

/-- The grid instant of the samples is taken. -/
def State.loopTick (s : State) : State := { s with le := { s.le with loopAt := s.tai / 10000 + 1 } }

theorem State.sampleTake_unstaged {s : State} (hstaged : s.staged = []) (u t : Nat) : s.sampleTake u t = s := by
  simp [State.sampleTake, State.takeStaged, hstaged]

theorem exec_loopSample_one {s : State} {n : Nat} (hon : s.leOn = true) (hgrid : s.gridOk 10000 = true) (hstaged : s.staged = [])
    (hat : s.le.loopAt ≠ s.tai / 10000 + 1) (hone : s.loopsAt (s.tai / 10000 * 10000) = [n]) :
    exec .loopSample s =
      .next ((s.loopTick.loopApply n (s.tai / 10000 * 10000)).loopSample n (s.tai / 10000 * 10000)) := by
  have hindex : s.tai / 10000 * 10000 / 10000 = s.tai / 10000 := Nat.mul_div_cancel _ (by decide)
  have htick : s.loopTick.loopsAt (s.tai / 10000 * 10000) = [n] := hone
  show execLoopSample s = _
  rw [execLoopSample, if_pos (by simp [hon, hgrid, hindex, hat]), State.sampleTake_unstaged hstaged, hindex]
  show Host.Outcome.next (s.loopTick.loopSamples _) = _
  simp only [State.loopSamples, htick, List.foldl_cons, List.foldl_nil]

theorem State.loopSample_enabled {s : State} {n : Nat} (hen : s.flag LE_LOOP_EN n = true) (tk : Nat) :
    s.loopSample n tk = s.loopRun n tk := if_pos hen

/-! The output of the sample before. -/

theorem State.loopApply_landed {s : State} {n : Nat} (hfly : (s.loop n).flying = false) (t : Nat) : s.loopApply n t = s := by
  simp [State.loopApply, hfly]

/-- A PWM duty takes the output. -/
def State.dutyTaken (s : State) (n : Nat) : State :=
  { s with le := { s.le with duty := mset (fun _ => 0) (s.rd LE_LOOP_OUT_DST n % 16) (s.loop n).next s.le.duty } }

/-- The output of the sample before is no longer in flight. -/
def LoopSt.landed (x : LoopSt) : LoopSt :=
  { x with out := x.next, flying := false, overran := false, overruns := if x.overran then x.overruns else 0 }

theorem State.loopApply_duty {s : State} {n : Nat} (hfly : (s.loop n).flying = true)
    (hdst : s.rd LE_LOOP_OUT_DST n / 2 ^ 28 = 0xA) (t : Nat) :
    s.loopApply n t = ((s.dutyTaken n).setFlag LE_STAT_REPEAT n (s.loop n).overran).setLoop n (s.loop n).landed := by
  have hnum : s.rd LE_LOOP_OUT_DST n % 2 ^ 28 % 16 = s.rd LE_LOOP_OUT_DST n % 16 := by omega
  simp only [State.loopApply, hfly, Bool.not_true, Bool.false_eq_true, if_false, State.writeDst, hdst, hnum]
  rfl

/-! How a sample begins and ends. -/

/-- The loop with its requests taken, none of them there, and the law's state kept for an overrun. -/
def LoopSt.begun (x : LoopSt) : LoopSt := { x with ctl := 0, req := none, old := x.law }

theorem State.loopRequests_none {s : State} {n : Nat} (hctl : s.flag LE_LOOP_CTL_EN n = false) (hreq : (s.loop n).req = none)
    (tk : Nat) : s.loopRequests n tk = s.setLoop n { s.loop n with ctl := 0, req := none } := by
  simp [State.loopRequests, hctl, hreq]

/-- A selector reads no more of a loop than its output. -/
theorem State.readSel_setLoop {s : State} (hok : mapOk (fun _ => LoopSt.init) s.le.loops = true) {n : Nat} {x : LoopSt}
    (hout : x.out = (s.loop n).out) (j sel : Nat) : (s.setLoop n x).readSel j sel = s.readSel j sel := by
  have hread : ∀ k, ((s.setLoop n x).loop k).out = (s.loop k).out := fun k => by
    by_cases hk : k = n
    · rw [hk, State.setLoop_loop hok, hout]
    · rw [State.setLoop_loop_ne hok hk]
  unfold State.readSel
  simp only [hread]
  rfl

theorem State.loopIn_setLoop {s : State} (hok : mapOk (fun _ => LoopSt.init) s.le.loops = true) {n : Nat} {x : LoopSt}
    (hout : x.out = (s.loop n).out) : (s.setLoop n x).loopIn n = s.loopIn n := by
  unfold State.loopIn
  simp only [State.readSel_setLoop hok hout]
  rfl

/-- The end of a sample: validity, output in flight, the law's words shown. -/
def State.loopEnd (s : State) (n tk : Nat) (bad : Bool) : State :=
  let shown := s.setFlag LE_STAT_INBAD n (bad || (s.loop n).frozen)
  let flown := shown.setLoop n
    { s.loop n with next := shown.loopDest n (s.loop n).law.u, flying := true, at_ := tk }
  (flown.loopShow n).drawnFor (flown.loopSels n)

/-- Some input of the sample is invalid. -/
def LoopIn.anyBad (x : LoopIn) : Bool := x.bad || x.rBad || x.ffBad

/-- A sample's work in the state of the loop. -/
def State.loopWork (s : State) (n : Nat) (inp : LoopIn) : State :=
  match s.loopState n with
  | 2 => s.loopTrack n inp
  | 4 => if inp.bad then s.loopBad n else s.loopLaw n inp
  | 6 => s.tuneSample n inp
  | _ => s.loopMove n

theorem State.loopWork_held {s : State} {n : Nat} (hst : s.loopState n = 1) (inp : LoopIn) : s.loopWork n inp = s.loopMove n := by
  simp only [State.loopWork, hst]

theorem State.loopWork_closed {s : State} {n : Nat} (hst : s.loopState n = 4) {inp : LoopIn} (hbad : inp.bad = false) :
    s.loopWork n inp = s.loopLaw n inp := by
  simp [State.loopWork, hst, hbad]

/-- A sample of a loop that runs, without a request. -/
theorem State.loopRun_eq {s : State} {n : Nat} (hok : mapOk (fun _ => LoopSt.init) s.le.loops = true)
    (hctl : s.flag LE_LOOP_CTL_EN n = false) (hreq : (s.loop n).req = none) (hst : s.loopState n ≠ 0) (tk : Nat) :
    s.loopRun n tk =
      ((s.setLoop n (s.loop n).begun).loopWork n (s.loopIn n)).loopEnd n tk (s.loopIn n).anyBad := by
  have hasked : (if s.loopState n = 0 then s.loopStart n else s).loopRequests n tk =
      s.setLoop n { s.loop n with ctl := 0, req := none } := by
    rw [if_neg hst, State.loopRequests_none hctl hreq]
  have hin : (s.setLoop n { s.loop n with ctl := 0, req := none }).loopIn n = s.loopIn n := State.loopIn_setLoop hok rfl
  unfold State.loopRun
  simp only [hasked, hin, State.setLoop_loop hok, State.setLoop_setLoop hok]
  rfl

/-! What the end of a sample leaves. -/

@[simp] theorem State.drawnFor_le (s : State) (sels : List Nat) : (s.drawnFor sels).le = s.le := by
  unfold State.drawnFor
  split <;> rfl

@[simp] theorem State.drawnFor_regs (s : State) (sels : List Nat) : (s.drawnFor sels).regs = s.regs := by
  unfold State.drawnFor
  split <;> rfl

/-- The words of LE_STAT that a sample writes. -/
def State.loopWords (s : State) (n : Nat) (bad : Bool) : List (Field × Nat × Nat × Nat) :=
  (LE_STAT_INBAD, n, 0, b2n (bad || (s.loop n).frozen)) :: (LE_STAT_U, n, 0, (s.loop n).law.u) ::
    [(LE_STAT_Y, n, 0, (s.loop n).law.y), (LE_STAT_R, n, 0, (s.loop n).law.r), (LE_STAT_I, n, 0, (s.loop n).law.i)]

/-- The loop with its output in flight. -/
def State.loopFlown (s : State) (n tk : Nat) : LoopSt :=
  { s.loop n with next := s.loopDest n (s.loop n).law.u, flying := true, at_ := tk }

section ends

variable {s : State} (hi : s.Inv) (n tk : Nat) (bad : Bool)

theorem State.loopEnd_le (hi : s.Inv) : (s.loopEnd n tk bad).le = (s.setLoop n (s.loopFlown n tk)).le := by
  have hdest : ∀ u, (s.setFlag LE_STAT_INBAD n (bad || (s.loop n).frozen)).loopDest n u = s.loopDest n u := fun u => by
    have hkept := fun g h => State.rd_written_beside (g := g) (l := [(LE_STAT_INBAD, n, 0, b2n (bad || (s.loop n).frozen))]) hi h n
    exact congrArg₂ (fun g o => fadd f32 (fmul f32 g u) o) (hkept LE_LOOP_OUT_GAIN rfl) (hkept LE_LOOP_OUT_OFS rfl)
  unfold State.loopEnd State.loopFlown
  simp only [State.drawnFor_le, hdest]
  rfl

theorem State.loopEnd_rd (hok : mapOk (fun _ => LoopSt.init) s.le.loops = true) (g : Field) (j : Nat) :
    (s.loopEnd n tk bad).rd g j = (s.written (s.loopWords n bad)).rd g j := by
  refine State.rd_of_regs ?_
  unfold State.loopEnd State.loopShow
  rw [State.drawnFor_regs, State.setLoop_loop (s := s.setFlag LE_STAT_INBAD n _) hok]
  rfl

/-- A sample that ends: what it leaves of its loop, shows in LE_STAT and keeps of the engine. -/
theorem State.loopEnd_effect (hi : s.Inv) (hok : mapOk (fun _ => LoopSt.init) s.le.loops = true) :
    (s.loopEnd n tk bad).loop n = s.loopFlown n tk ∧ (s.loopEnd n tk bad).le.loopAt = s.le.loopAt ∧
      (s.loopEnd n tk bad).le.duty = s.le.duty ∧ (s.loopEnd n tk bad).loopState n = s.loopState n ∧
      (s.loopEnd n tk bad).flag LE_STAT_INBAD n = (bad || (s.loop n).frozen) ∧
      (s.loopEnd n tk bad).rd LE_STAT_U n = (s.loop n).law.u % 2 ^ 32 := by
  have hle := State.loopEnd_le (s := s) n tk bad hi
  refine ⟨?_, by rw [hle]; rfl, by rw [hle]; rfl, ?_, ?_, ?_⟩
  · rw [State.loop, hle]
    exact State.setLoop_loop hok n _
  · exact (State.loopEnd_rd n tk bad hok _ _).trans (State.rd_written_beside hi rfl n)
  · rw [State.flag, State.loopEnd_rd n tk bad hok]
    exact State.flag_written_head hi rfl rfl n _
  · rw [State.loopEnd_rd n tk bad hok]
    rw [State.loopWords, State.written_cons]
    exact State.rd_written_head (State.wrk_inv hi _ _ _ _) rfl rfl n _

end ends

/-! HOLD and CLOSED. -/

theorem State.loopMove_still {s : State} {n : Nat} (hgoal : (s.loop n).goal = none) : s.loopMove n = s := by
  simp only [State.loopMove, hgoal]

/-- A move of the output leaves what is applied already, the registers and the duties. -/
theorem State.loopMove_keeps {s : State} (hok : mapOk (fun _ => LoopSt.init) s.le.loops = true) (n : Nat) :
    ((s.loopMove n).loop n).out = (s.loop n).out ∧ (s.loopMove n).le.duty = s.le.duty ∧ (s.loopMove n).loopState n = s.loopState n ∧
      mapOk (fun _ => LoopSt.init) (s.loopMove n).le.loops = true ∧ (s.loopMove n).Inv = s.Inv := by
  cases hgoal : (s.loop n).goal with
  | none =>
    rw [State.loopMove_still hgoal]
    exact ⟨rfl, rfl, rfl, hok, rfl⟩
  | some g =>
    simp only [State.loopMove, hgoal]
    exact ⟨by rw [State.setLoop_loop hok], rfl, rfl, State.setLoop_ok hok n _, rfl⟩

/-- What the law computes of valid inputs in CLOSED, without an entry, a swap to absorb or ACT. -/
def State.closedStep (s : State) (n : Nat) (inp : LoopIn) : LawOut :=
  lawStep (s.bk n (s.actBank n)) (s.rd LE_LOOP_RATE n) (s.rd LE_LOOP_NOTCH n) inp.r inp.y inp.ff false none
    (s.rd LE_LOOP_LAW n == 1) (s.loop n).law

/-- The loop after that step. -/
def State.closedLoop (s : State) (n : Nat) (inp : LoopIn) : LoopSt :=
  { s.loop n with
    sp := inp.r, ff := inp.ff, feCount := 0, frozen := false, good := 0, law := (s.closedStep n inp).st, entry := false
    absorb := none }

/-- The limits that the step met, as LE_STAT shows them. -/
def State.limitWords (s : State) (n : Nat) (inp : LoopIn) : List (Field × Nat × Nat × Nat) :=
  [(LE_STAT_LIMIT, n, 0, b2n (s.closedStep n inp).limit), (LE_STAT_RLIMIT, n, 0, b2n (s.closedStep n inp).rlimit)]

theorem State.loopLaw_closed {s : State} {n : Nat} {inp : LoopIn} (hok : mapOk (fun _ => LoopSt.init) s.le.loops = true)
    (hfrozen : (s.loop n).frozen = false) (hentry : (s.loop n).entry = false) (habsorb : (s.loop n).absorb = none)
    (hact : s.flag LE_LOOP_ACT n = false) (hlimit : s.rd LE_LOOP_FE_LIMIT n = 0) (hr : inp.rBad = false) (hff : inp.ffBad = false) :
    s.loopLaw n inp = (s.setLoop n (s.closedLoop n inp)).written (s.limitWords n inp) := by
  have hzero : flt f32 0 0 = false := by decide
  have hfe : ∀ diff x, s.feNext n diff x = 0 := fun diff x => by
    simp [State.feNext, hlimit, hzero]
  unfold State.loopLaw
  simp only [hfrozen, hentry, habsorb, hact, hr, hff, hfe, Bool.false_and, Bool.or_false, Bool.false_eq_true, if_false, bne_self_eq_false,
    State.setLoop_loop hok, State.setLoop_setLoop hok, Option.map_none]
  rfl

/-- The state in which a loop's sample begins its work. -/
def State.loopBegun (s : State) (n : Nat) : State := s.setLoop n (s.loop n).begun

section samples

variable {s : State} {n : Nat} (hi : s.Inv) (hok : mapOk (fun _ => LoopSt.init) s.le.loops = true)
  (hen : s.flag LE_LOOP_EN n = true) (hctl : s.flag LE_LOOP_CTL_EN n = false) (hreq : (s.loop n).req = none)
include hok hen hctl hreq

theorem State.loopSample_held (hst : s.loopState n = 1) (tk : Nat) :
    s.loopSample n tk = ((s.loopBegun n).loopMove n).loopEnd n tk (s.loopIn n).anyBad := by
  have hst' : (s.loopBegun n).loopState n = 1 := hst
  rw [State.loopSample_enabled hen, State.loopRun_eq hok hctl hreq (by rw [hst]; decide), ← State.loopBegun,
    State.loopWork_held hst']

theorem State.loopSample_closed (hst : s.loopState n = 4) (hbad : (s.loopIn n).bad = false) (tk : Nat) :
    s.loopSample n tk = ((s.loopBegun n).loopLaw n (s.loopIn n)).loopEnd n tk (s.loopIn n).anyBad := by
  have hst' : (s.loopBegun n).loopState n = 4 := hst
  rw [State.loopSample_enabled hen, State.loopRun_eq hok hctl hreq (by rw [hst]; decide), ← State.loopBegun,
    State.loopWork_closed hst' hbad]

include hi

/-- In HOLD without a goal the law stands, and its output goes to the destination's scale (R247). -/
theorem State.loopSample_held_effect (hst : s.loopState n = 1) (hgoal : (s.loop n).goal = none) (tk : Nat) :
    (s.loopSample n tk).le.loopAt = s.le.loopAt ∧ ((s.loopSample n tk).loop n).law = (s.loop n).law ∧
      ((s.loopSample n tk).loop n).next = s.loopDest n (s.loop n).law.u ∧ ((s.loopSample n tk).loop n).flying = true ∧
      ((s.loopSample n tk).loop n).at_ = tk ∧ (s.loopSample n tk).loopState n = 1 ∧
      (s.loopSample n tk).rd LE_STAT_U n = (s.loop n).law.u % 2 ^ 32 := by
  have hloop : (s.loopBegun n).loop n = (s.loop n).begun := State.setLoop_loop hok n _
  have hstill : (s.loopBegun n).loopMove n = s.loopBegun n := State.loopMove_still (by rw [hloop]; exact hgoal)
  obtain ⟨hend, hat, -, hstate, -, hu⟩ := State.loopEnd_effect (s := s.loopBegun n) n tk (s.loopIn n).anyBad hi
    (State.setLoop_ok hok n _)
  rw [State.loopFlown, hloop] at hend
  rw [State.loopSample_held hok hen hctl hreq hst, hstill, hend]
  rw [hloop] at hu
  exact ⟨hat, rfl, rfl, rfl, rfl, hstate.trans hst, hu⟩

/-- In HOLD the sample leaves the duties and what is applied of its loop (R240). -/
theorem State.loopSample_held_keeps (hst : s.loopState n = 1) (tk : Nat) :
    (s.loopSample n tk).le.duty = s.le.duty ∧ ((s.loopSample n tk).loop n).out = (s.loop n).out := by
  have hloop : (s.loopBegun n).loop n = (s.loop n).begun := State.setLoop_loop hok n _
  obtain ⟨hout, hduty, -, hok', hinv⟩ := State.loopMove_keeps (s := s.loopBegun n) (State.setLoop_ok hok n _) n
  obtain ⟨hend, -, hduty', -⟩ := State.loopEnd_effect n tk (s.loopIn n).anyBad (hinv.mpr hi) hok'
  rw [State.loopSample_held hok hen hctl hreq hst, hend]
  exact ⟨hduty'.trans hduty, hout.trans (by rw [hloop]; rfl)⟩

/-- In CLOSED with valid inputs the law takes its step, and its output goes to the destination's scale (R242, R244). -/
theorem State.loopSample_closed_effect (hst : s.loopState n = 4) (hfrozen : (s.loop n).frozen = false)
    (hentry : (s.loop n).entry = false) (habsorb : (s.loop n).absorb = none) (hact : s.flag LE_LOOP_ACT n = false)
    (hlimit : s.rd LE_LOOP_FE_LIMIT n = 0) (hbad : (s.loopIn n).bad = false) (hr : (s.loopIn n).rBad = false)
    (hff : (s.loopIn n).ffBad = false) (tk : Nat) :
    ((s.loopSample n tk).loop n).law = (s.closedStep n (s.loopIn n)).st ∧
      ((s.loopSample n tk).loop n).next = s.loopDest n ((s.loopSample n tk).loop n).law.u ∧ (s.loopSample n tk).loopState n = 4 ∧
      (s.loopSample n tk).flag LE_STAT_INBAD n = false := by
  have hok' : mapOk (fun _ => LoopSt.init) (s.loopBegun n).le.loops = true := State.setLoop_ok hok n _
  have hloop : (s.loopBegun n).loop n = (s.loop n).begun := State.setLoop_loop hok n _
  have hstep : (s.loopBegun n).closedStep n (s.loopIn n) = s.closedStep n (s.loopIn n) := by
    simp only [State.closedStep, hloop]
    rfl
  have hlaw := State.loopLaw_closed (s := s.loopBegun n) (n := n) (inp := s.loopIn n) hok' (by rw [hloop]; exact hfrozen)
    (by rw [hloop]; exact hentry) (by rw [hloop]; exact habsorb) hact hlimit hr hff
  have hdone : ((s.loopBegun n).loopLaw n (s.loopIn n)).loop n = (s.loopBegun n).closedLoop n (s.loopIn n) := by
    rw [hlaw, State.loop, State.written_le]
    exact State.setLoop_loop hok' n _
  have hinv : ((s.loopBegun n).loopLaw n (s.loopIn n)).Inv := State.loopLaw_moves.inv hi
  have hkept : ∀ g : Field, besideAll ((s.loopBegun n).limitWords n (s.loopIn n)) g 0 = true →
      ((s.loopBegun n).loopLaw n (s.loopIn n)).rd g n = s.rd g n := fun g hg => by
    rw [hlaw]
    exact State.rd_written_beside (s := (s.loopBegun n).setLoop n _) hi hg n
  obtain ⟨hend, -, -, hstate, hflag, -⟩ := State.loopEnd_effect n tk (s.loopIn n).anyBad hinv
    (by rw [hlaw, State.written_le]; exact State.setLoop_ok hok' n _)
  rw [State.loopFlown, hdone] at hend
  rw [hdone] at hflag
  rw [State.loopSample_closed hok hen hctl hreq hst hbad, hend]
  refine ⟨by rw [State.closedLoop, hstep], ?_, hstate.trans ((hkept LE_STAT_STATE rfl).trans hst), ?_⟩
  · simp only [State.loopDest, hkept LE_LOOP_OUT_GAIN rfl, hkept LE_LOOP_OUT_OFS rfl]
  · rw [hflag]
    simp [LoopIn.anyBad, hbad, hr, hff, State.closedLoop]

end samples

end Sys2Proof.Machine
end

