-- ==== Sys2Proof/Proofs/AxisSamples.lean ====
section
/-! AXIS_SAMPLE (R242, R261, R263): a sample of an axis in HELD, with an invalid input and with valid ones. -/

namespace Sys2Proof.Machine

open Sys2Proof

/-! The axes that sample. -/

/-- The grid instant of the samples is taken. -/
def State.axisTick (s : State) : State := { s with le := { s.le with axisAt := s.tai / 10000 + 1 } }

theorem exec_axisSample_one {s : State} {n : Nat} (hon : s.leOn = true) (hgrid : s.gridOk 10000 = true) (hstaged : s.staged = [])
    (hat : s.le.axisAt ≠ s.tai / 10000 + 1) (hone : s.axesAt (s.tai / 10000 * 10000) = [n])
    (hfly : (s.axis n).flying = false) :
    exec .axisSample s = .next (s.axisTick.axisSample n (s.tai / 10000 * 10000)) := by
  have hindex : s.tai / 10000 * 10000 / 10000 = s.tai / 10000 := Nat.mul_div_cancel _ (by decide)
  have htick : s.axisTick.axesAt (s.tai / 10000 * 10000) = [n] := hone
  have hlanded : s.axisTick.axisApply n (s.tai / 10000 * 10000) = s.axisTick := if_pos (by
    rw [show (s.axisTick.axis n).flying = false from hfly]
    rfl)
  show execAxisSample s = _
  rw [execAxisSample, if_pos (by simp [hon, hgrid, hindex, hat]), State.sampleTake_unstaged hstaged, hindex]
  show Host.Outcome.next (s.axisTick.axisSamples _) = _
  simp only [State.axisSamples, htick, List.foldl_cons, List.foldl_nil, hlanded]

/-! How a sample begins and ends. -/

/-- The position taken touches no more of the axis than its position and the count behind it. -/
theorem State.axisPos_keeps (s : State) (n : Nat) :
    ∃ count raw seen pos, (s.axisPos n).1 = { s.axis n with count := count, rawCount := raw, seen := seen, pos := pos } := by
  cases h : selEnc (s.rd AX_AXIS_FB_SRC n) <;> simp only [State.axisPos, h] <;> exact ⟨_, _, _, _, rfl⟩

/-- No request is there. -/
def AxisSt.idle (x : AxisSt) : AxisSt := { x with ctl := 0, req := none }

theorem State.axisRequests_none {s : State} {n : Nat} (hctl : natBit (s.rd AX_AXIS_CTL n) 31 = false) (hreq : (s.axis n).req = none)
    (tk : Nat) : s.axisRequests n tk = s.setAxis n (s.axis n).idle := by
  simp [State.axisRequests, AxisSt.idle, hctl, hreq]

theorem State.axisRequests_setAxis {s : State} (hok : mapOk (fun _ => AxisSt.init) s.le.axes = true) {n : Nat} {x : AxisSt}
    (hctl : natBit (s.rd AX_AXIS_CTL n) 31 = false) (hreq : x.req = none) (tk : Nat) :
    (s.setAxis n x).axisRequests n tk = s.setAxis n x.idle := by
  have hread := State.setAxis_axis hok n x
  rw [State.axisRequests_none (s := s.setAxis n x) hctl (by rw [hread, hreq]), hread, State.setAxis_setAxis hok]

/-- The axis as an invalid input leaves it: its position stands. -/
def State.axisUnread (s : State) (n : Nat) : AxisSt := AxisSt.idle { (s.axisPos n).1 with pos := (s.axis n).pos }

/-- The axis with the position and the velocity of the sample. -/
def State.axisRead (s : State) (n : Nat) : AxisSt :=
  AxisSt.idle { (s.axisPos n).1 with vel := (s.axisVel n (s.axis n).pos (s.axisPos n).1.pos).1 }

/-- The axis with its output in flight. -/
def AxisSt.flown (x : AxisSt) (tk : Nat) : AxisSt := { x with next := x.u, flying := true, at_ := tk }

/-- The end of a sample, `before` the state in which it began: output in flight unless OFF, words shown. -/
def State.axisEnd (s before : State) (n tk : Nat) (bad : Bool) : State :=
  let flown := if s.axisState n = 0 then s
    else (s.setAxis n ((s.axis n).flown tk)).keepAxis n (before.axis n) (before.axisState n)
  (flown.axisShow n bad).drawnFor [before.rd AX_AXIS_FB_SRC n, before.rd AX_AXIS_VFB_SRC n]

section run

variable {s : State} {n : Nat} (hok : mapOk (fun _ => AxisSt.init) s.le.axes = true)
  (hctl : natBit (s.rd AX_AXIS_CTL n) 31 = false) (hreq : (s.axis n).req = none) (hst : s.axisState n = 1)

theorem State.axisPos_req (s : State) (n : Nat) : (s.axisPos n).1.req = (s.axis n).req := by
  obtain ⟨count, raw, seen, pos, hp⟩ := s.axisPos_keeps n
  rw [hp]

include hok hctl hreq hst

/-- A sample in HELD with an invalid position. -/
theorem State.axisRun_bad (hpos : (s.axisPos n).2 = true) (tk : Nat) :
    s.axisRun n tk = ((s.setAxis n (s.axisUnread n)).axisBad n).axisEnd s n tk true := by
  have htaken : (s.setAxis n { (s.axisPos n).1 with pos := (s.axis n).pos }).axisRequests n tk = s.setAxis n (s.axisUnread n) :=
    State.axisRequests_setAxis (x := { (s.axisPos n).1 with pos := (s.axis n).pos }) hok hctl ((s.axisPos_req n).trans hreq) tk
  have hreg : regulating ((s.setAxis n (s.axisUnread n)).axisState n) = true := congrArg regulating hst
  unfold State.axisRun
  simp only [hpos, Bool.true_or, if_true, htaken, hreg, Bool.not_true, Bool.false_eq_true, if_false]
  rfl

/-- A sample in HELD with valid inputs. -/
theorem State.axisRun_good (hpos : (s.axisPos n).2 = false) (hvel : (s.axisVel n (s.axis n).pos (s.axisPos n).1.pos).2 = false)
    (hp : finite f64 (s.axisPos n).1.pos = true) (hv : finite f32 (s.axisVel n (s.axis n).pos (s.axisPos n).1.pos).1 = true)
    (tk : Nat) : s.axisRun n tk = ((s.setAxis n (s.axisRead n)).axisLaw n tk).axisEnd s n tk false := by
  have htaken : (s.setAxis n { (s.axisPos n).1 with vel := (s.axisVel n (s.axis n).pos (s.axisPos n).1.pos).1 }).axisRequests n tk =
      s.setAxis n (s.axisRead n) :=
    State.axisRequests_setAxis (x := { (s.axisPos n).1 with vel := (s.axisVel n (s.axis n).pos (s.axisPos n).1.pos).1 }) hok hctl
      ((s.axisPos_req n).trans hreq) tk
  have hreg : regulating ((s.setAxis n (s.axisRead n)).axisState n) = true := congrArg regulating hst
  unfold State.axisRun
  simp only [hpos, hvel, hp, hv, Bool.not_true, Bool.or_self, Bool.false_eq_true, if_false, htaken, hreg]
  rfl

end run

/-! What the end of a sample leaves. -/

/-- The words of AX_STAT that a sample writes, up to the position. -/
def AxisSt.words (x : AxisSt) (n : Nat) (bad : Bool) : List (Field × Nat × Nat × Nat) :=
  (AX_STAT_TBL_ACT, n, 0, b2n (notZero 4 x.g)) :: (AX_STAT_INBAD, n, 0, b2n (bad || x.frozen)) ::
    (AX_STAT_POS, n, 0, x.pos % 2 ^ 32) ::
    [(AX_STAT_POS, n, 1, x.pos / 2 ^ 32), (AX_STAT_RPOS, n, 0, x.rPos % 2 ^ 32), (AX_STAT_RPOS, n, 1, x.rPos / 2 ^ 32),
      (AX_STAT_VEL, n, 0, x.vel), (AX_STAT_FERR, n, 0, toW (fsub f64 x.rPos x.pos))]

theorem State.axisShow_eq (s : State) (n : Nat) (bad : Bool) : s.axisShow n bad = s.written ((s.axis n).words n bad) := rfl

/-- A sample that ends: what it leaves of its axis, shows in AX_STAT and keeps of the engine. -/
theorem State.axisEnd_effect {s : State} (hi : s.Inv) (hok : mapOk (fun _ => AxisSt.init) s.le.axes = true) (before : State) (n tk : Nat)
    (bad : Bool) (hst : s.axisState n ≠ 0) :
    (s.axisEnd before n tk bad).axis n = (s.axis n).flown tk ∧ (s.axisEnd before n tk bad).le.axisAt = s.le.axisAt ∧
      (s.axisEnd before n tk bad).axisState n = s.axisState n ∧
      (s.axisEnd before n tk bad).flag AX_STAT_INBAD n = (bad || (s.axis n).frozen) ∧
      (s.axisEnd before n tk bad).rdk AX_STAT_POS n 0 = (s.axis n).pos % 2 ^ 32 := by
  have hflown : ((s.setAxis n ((s.axis n).flown tk)).keepAxis n (before.axis n) (before.axisState n)).axis n = (s.axis n).flown tk :=
    State.setAxis_axis hok n _
  have hle : (s.axisEnd before n tk bad).le =
      ((s.setAxis n ((s.axis n).flown tk)).keepAxis n (before.axis n) (before.axisState n)).le := by
    rw [State.axisEnd, if_neg hst, State.drawnFor_le, State.axisShow_eq, State.written_le]
  have hregs : (s.axisEnd before n tk bad).regs = (s.written ((s.axis n).words n bad)).regs := by
    rw [State.axisEnd, if_neg hst, State.drawnFor_regs, State.axisShow_eq, hflown]
    exact State.written_regs _ rfl
  refine ⟨?_, by rw [hle]; rfl, ?_, ?_, ?_⟩
  · rw [State.axis, hle]
    exact hflown
  · exact (State.rd_of_regs hregs).trans (State.rd_written_beside hi rfl n)
  · rw [State.flag, State.rd_of_regs hregs, AxisSt.words, State.written_cons]
    exact State.flag_written_head (State.wrk_inv hi _ _ _ _) rfl rfl n _
  · rw [State.rdk, State.word, hregs, ← State.word, ← State.rdk, AxisSt.words, State.written_cons, State.written_cons,
      State.rdk_written_head (State.wrk_inv (State.wrk_inv hi _ _ _ _) _ _ _ _) rfl rfl]
    exact Nat.mod_mod _ _

/-! HELD. -/

/-- An invalid input with BAD_ACT 0 freezes the axis. -/
theorem State.axisBad_freezes {s : State} {n : Nat} (hact : s.rd AX_AXIS_BAD_ACT n = 0) :
    s.axisBad n = s.setAxis n { s.axis n with frozen := true, good := 0, feCount := 0 } := if_pos hact

/-- An invalid input with another BAD_ACT makes an axis that captures nothing SAFE. -/
theorem State.axisBad_safe {s : State} {n : Nat} (hact : s.rd AX_AXIS_BAD_ACT n ≠ 0) (hcap : (s.axis n).cap = none) :
    s.axisBad n = (s.wr AX_STAT_STATE n 5).setAxis n
      { s.axis n with u := s.rd AX_AXIS_SAFE_OUT n, vRef := 0, aRef := 0, frozen := false, feCount := 0 } := by
  have hend : s.capEnd n .aborted none = s := by simp only [State.capEnd, hcap]
  rw [State.axisBad, if_neg hact, State.axisSafe, hend]

theorem State.axisTarget_same {s : State} {n : Nat}
    (htarget : (s.axis n).target = toF64 (s.ptType (s.rd AX_AXIS_TGT_PT n)) (s.ptRec (s.rd AX_AXIS_TGT_PT n)).raw) :
    s.axisTarget n = s := if_pos (by simp [htarget])

theorem State.axisCourse_held {s : State} {n : Nat} (hst : s.axisState n = 1) (tk : Nat) : s.axisCourse n tk = s := by
  simp only [State.axisCourse, hst]

/-- The regulator touches no more of the axis than its effort, its integral and its notch. -/
theorem State.regulate_keeps (s : State) (n : Nat) (x : AxisSt) :
    ∃ iv ev notch u, (s.regulate n x).1 = { x with iv := iv, ev := ev, notch := notch, u := u } := by
  cases hv : s.flag AX_AXIS_VLOOP n with
  | false =>
    simp only [State.regulate, hv, Bool.not_false, if_true]
    exact ⟨_, _, _, _, rfl⟩
  | true =>
    simp only [State.regulate, hv, Bool.not_true, Bool.false_eq_true, if_false]
    exact ⟨_, _, _, _, rfl⟩

/-- Without the velocity loop the effort is the velocity command between the limits (R261). -/
theorem State.regulate_direct {s : State} {n : Nat} (hv : s.flag AX_AXIS_VLOOP n = false) (x : AxisSt) :
    (s.regulate n x).1.u = fmin f32 (fmax f32 (fadd f32
      (fmul f32 (s.rd AX_AXIS_KPP n) (toW (fsub f64 x.rPos x.pos)))
      (fmul f32 (s.rd AX_AXIS_KVFF n) (toW x.vRef))) (s.rd AX_AXIS_UMIN n)) (s.rd AX_AXIS_UMAX n) := by
  simp only [State.regulate, hv, Bool.not_false, if_true]

/-- The axis as the regulator sees it: not frozen, its compensation faded, no following error. -/
def State.axisFaded (s : State) (n : Nat) : AxisSt := { s.axis n with frozen := false, g := s.fade n (s.axis n), feCount := 0 }

/-- A valid sample in HELD regulates at the reference that stands. -/
theorem State.axisLaw_held {s : State} {n : Nat} (hst : s.axisState n = 1) (hfrozen : (s.axis n).frozen = false)
    (hcap : (s.axis n).cap = none) (hlimit : s.rd AX_AXIS_FE_LIMIT n = 0)
    (htarget : (s.axis n).target = toF64 (s.ptType (s.rd AX_AXIS_TGT_PT n)) (s.ptRec (s.rd AX_AXIS_TGT_PT n)).raw) (tk : Nat) :
    s.axisLaw n tk = s.setAxis n (s.regulate n (s.axisFaded n)).1 := by
  have hzero : flt f32 0 0 = false := by decide
  have hnone : (s.regulate n (s.axisFaded n)).1.cap = none := by
    obtain ⟨iv, ev, notch, u, hr⟩ := s.regulate_keeps n (s.axisFaded n)
    rw [hr]
    exact hcap
  rw [State.axisFaded] at hnone
  unfold State.axisLaw
  simp only [hfrozen, hlimit, hzero, Bool.false_and, Bool.false_eq_true, if_false, State.axisTarget_same htarget,
    State.axisCourse_held hst, bne_self_eq_false, hnone]
  rfl

/-- The axis as a sample with an invalid input freezes it. -/
def AxisSt.iced (x : AxisSt) : AxisSt := { x with frozen := true, good := 0, feCount := 0 }

/-- The axis as a sample with an invalid input makes it SAFE. -/
def State.axisSaved (s : State) (n : Nat) (x : AxisSt) : AxisSt :=
  { x with u := s.rd AX_AXIS_SAFE_OUT n, vRef := 0, aRef := 0, frozen := false, feCount := 0 }

section samples

variable {s : State} {n : Nat} (hi : s.Inv) (hok : mapOk (fun _ => AxisSt.init) s.le.axes = true)
  (hen : s.flag AX_AXIS_EN n = true) (hctl : natBit (s.rd AX_AXIS_CTL n) 31 = false) (hreq : (s.axis n).req = none)
  (hst : s.axisState n = 1) (hcap : (s.axis n).cap = none)
include hi hok hen hctl hreq hst hcap

/-- In HELD an invalid position freezes the axis under BAD_ACT 0 and makes it SAFE under another value (R242). -/
theorem State.axisSample_bad_effect (hpos : (s.axisPos n).2 = true) (tk : Nat) :
    (s.axisSample n tk).le.axisAt = s.le.axisAt ∧ (s.axisSample n tk).flag AX_STAT_INBAD n = true ∧
      ((s.axisSample n tk).axis n).flying = true ∧ ((s.axisSample n tk).axis n).at_ = tk ∧
      ((s.axisSample n tk).axis n).pos = (s.axis n).pos ∧
      (s.rd AX_AXIS_BAD_ACT n = 0 → (s.axisSample n tk).axisState n = 1 ∧ ((s.axisSample n tk).axis n).frozen = true ∧
        ((s.axisSample n tk).axis n).next = (s.axis n).u) ∧
      (s.rd AX_AXIS_BAD_ACT n ≠ 0 → (s.axisSample n tk).axisState n = 5 ∧
        ((s.axisSample n tk).axis n).next = s.rd AX_AXIS_SAFE_OUT n) := by
  obtain ⟨count, raw, seen, pos, hp⟩ := s.axisPos_keeps n
  have hread : (s.setAxis n (s.axisUnread n)).axis n = s.axisUnread n := State.setAxis_axis hok n _
  have hu : (s.axisUnread n).u = (s.axis n).u := by rw [State.axisUnread, hp]; rfl
  have hnone : ((s.setAxis n (s.axisUnread n)).axis n).cap = none := by
    rw [hread, State.axisUnread, hp]
    exact hcap
  rw [State.axisSample, if_pos hen, State.axisRun_bad hok hctl hreq hst hpos]
  by_cases hact : s.rd AX_AXIS_BAD_ACT n = 0
  · have hbad : (s.setAxis n (s.axisUnread n)).axisBad n = s.setAxis n (s.axisUnread n).iced := by
      rw [State.axisBad_freezes (s := s.setAxis n _) hact, hread, State.setAxis_setAxis hok]
      rfl
    have hiced : (s.setAxis n (s.axisUnread n).iced).axis n = (s.axisUnread n).iced := State.setAxis_axis hok n _
    have hst1 : (s.setAxis n (s.axisUnread n).iced).axisState n = 1 := hst
    obtain ⟨haxis, hat, hstate, hflag, -⟩ := State.axisEnd_effect (s := s.setAxis n (s.axisUnread n).iced) hi (mset_ok hok) s n tk true
      (by rw [hst1]; decide)
    rw [hiced] at haxis
    rw [hbad, haxis]
    exact ⟨hat, hflag, rfl, rfl, rfl, fun _ => ⟨hstate.trans hst1, rfl, hu⟩, fun h => absurd hact h⟩
  · have hbad : (s.setAxis n (s.axisUnread n)).axisBad n =
        (s.wr AX_STAT_STATE n 5).setAxis n (s.axisSaved n (s.axisUnread n)) := by
      rw [State.axisBad_safe (s := s.setAxis n _) hact hnone, hread]
      exact State.setAxis_setAxis (s := s.wr AX_STAT_STATE n 5) hok n _ _
    have hsaved : ((s.wr AX_STAT_STATE n 5).setAxis n (s.axisSaved n (s.axisUnread n))).axis n = s.axisSaved n (s.axisUnread n) :=
      State.setAxis_axis (s := s.wr AX_STAT_STATE n 5) hok n _
    have hst5 : ((s.wr AX_STAT_STATE n 5).setAxis n (s.axisSaved n (s.axisUnread n))).axisState n = 5 :=
      State.rd_wr_same hi (f := AX_STAT_STATE) rfl n 5
    obtain ⟨haxis, hat, hstate, hflag, -⟩ := State.axisEnd_effect
      (s := (s.wr AX_STAT_STATE n 5).setAxis n (s.axisSaved n (s.axisUnread n))) (State.wr_inv hi _ _ _) (mset_ok hok) s n tk true
      (by rw [hst5]; decide)
    rw [hsaved] at haxis
    rw [hbad, haxis]
    exact ⟨hat, hflag, rfl, rfl, rfl, fun h => absurd h hact, fun _ => ⟨hstate.trans hst5, rfl⟩⟩

/-- In HELD valid inputs and an unchanged target leave the reference, and the effort goes out (R261, R263). -/
theorem State.axisSample_good_effect (hpos : (s.axisPos n).2 = false) {p v : Nat} (hp : (s.axisPos n).1.pos = p)
    (hvel : s.axisVel n (s.axis n).pos p = (v, false)) (hfp : finite f64 p = true) (hfv : finite f32 v = true)
    (hfrozen : (s.axis n).frozen = false) (hlimit : s.rd AX_AXIS_FE_LIMIT n = 0)
    (htarget : (s.axis n).target = toF64 (s.ptType (s.rd AX_AXIS_TGT_PT n)) (s.ptRec (s.rd AX_AXIS_TGT_PT n)).raw) (tk : Nat) :
    (s.axisSample n tk).le.axisAt = s.le.axisAt ∧ (s.axisSample n tk).flag AX_STAT_INBAD n = false ∧
      (s.axisSample n tk).axisState n = 1 ∧ ((s.axisSample n tk).axis n).pos = p ∧ ((s.axisSample n tk).axis n).vel = v ∧
      ((s.axisSample n tk).axis n).rPos = (s.axis n).rPos ∧ ((s.axisSample n tk).axis n).flying = true ∧
      ((s.axisSample n tk).axis n).at_ = tk ∧ ((s.axisSample n tk).axis n).next = ((s.axisSample n tk).axis n).u ∧
      (s.axisSample n tk).rdk AX_STAT_POS n 0 = p % 2 ^ 32 ∧
      (s.flag AX_AXIS_VLOOP n = false → ((s.axisSample n tk).axis n).u = fmin f32 (fmax f32 (fadd f32
        (fmul f32 (s.rd AX_AXIS_KPP n) (toW (fsub f64 (s.axis n).rPos p)))
        (fmul f32 (s.rd AX_AXIS_KVFF n) (toW (s.axis n).vRef))) (s.rd AX_AXIS_UMIN n)) (s.rd AX_AXIS_UMAX n)) := by
  obtain ⟨count, raw, seen, pos, hkeep⟩ := s.axisPos_keeps n
  have hpos' : pos = p := by rw [hkeep] at hp; exact hp
  have hread : (s.setAxis n (s.axisRead n)).axis n = s.axisRead n := State.setAxis_axis hok n _
  have htaken : s.axisRead n =
      AxisSt.idle { s.axis n with count := count, rawCount := raw, seen := seen, pos := p, vel := v } := by
    rw [State.axisRead, hp, hvel, hkeep, hpos']
  have hlaw : (s.setAxis n (s.axisRead n)).axisLaw n tk =
      s.setAxis n (s.regulate n ((s.setAxis n (s.axisRead n)).axisFaded n)).1 := by
    rw [State.axisLaw_held (s := s.setAxis n _) hst (by rw [hread, htaken]; exact hfrozen) (by rw [hread, htaken]; exact hcap) hlimit
      (by rw [hread, htaken]; exact htarget), State.setAxis_setAxis hok]
    rfl
  have hfaded : (s.setAxis n (s.axisRead n)).axisFaded n = { s.axisRead n with
      frozen := false, g := s.fade n (s.axisRead n), feCount := 0 } := by
    rw [State.axisFaded, hread]
    rfl
  obtain ⟨y, hy, hyp, hyv, hyr, hyf, hdirect⟩ : ∃ y, (s.regulate n ((s.setAxis n (s.axisRead n)).axisFaded n)).1 = y ∧ y.pos = p ∧
      y.vel = v ∧ y.rPos = (s.axis n).rPos ∧ y.frozen = false ∧
      (s.flag AX_AXIS_VLOOP n = false → y.u = fmin f32 (fmax f32 (fadd f32
        (fmul f32 (s.rd AX_AXIS_KPP n) (toW (fsub f64 (s.axis n).rPos p)))
        (fmul f32 (s.rd AX_AXIS_KVFF n) (toW (s.axis n).vRef))) (s.rd AX_AXIS_UMIN n)) (s.rd AX_AXIS_UMAX n)) := by
    obtain ⟨iv, ev, notch, u, hreg⟩ := s.regulate_keeps n ((s.setAxis n (s.axisRead n)).axisFaded n)
    refine ⟨_, rfl, ?_, ?_, ?_, ?_, fun hv => ?_⟩
    · rw [hreg, hfaded, htaken]; rfl
    · rw [hreg, hfaded, htaken]; rfl
    · rw [hreg, hfaded, htaken]; rfl
    · rw [hreg, hfaded, htaken]
    · rw [State.regulate_direct hv, hfaded, htaken]; rfl
  have hended : (s.setAxis n y).axis n = y := State.setAxis_axis hok n y
  have hst1 : (s.setAxis n y).axisState n = 1 := hst
  obtain ⟨haxis, hat, hstate, hflag, hshow⟩ := State.axisEnd_effect (s := s.setAxis n y) hi (mset_ok hok) s n tk false
    (by rw [hst1]; decide)
  rw [hended] at haxis hflag hshow
  rw [State.axisSample, if_pos hen, State.axisRun_good hok hctl hreq hst hpos (by rw [hp, hvel]) (by rw [hp]; exact hfp)
    (by rw [hp, hvel]; exact hfv), hlaw, hy, haxis]
  exact ⟨hat, hflag.trans hyf, hstate.trans hst1, hyp, hyv, hyr, rfl, rfl, rfl, by rw [hshow, hyp], hdirect⟩

end samples

end Sys2Proof.Machine
end

