-- ==== Sys2Proof/Proofs/EncodersAndPwm.lean ====
section
/-! Encoders (R266) and PWM generators (R267): transfers, quadrature edges, period starts; with the samples, O48. -/

namespace Sys2Proof.Machine

open Sys2Proof

/-! A counted encoder error. -/

theorem State.setEnc_regs (s : State) (e : Nat) (y : EncSt) : (s.setEnc e y).regs = s.regs := rfl

/-- A counted error writes no register of the axes but ERRS. -/
theorem State.encError_rd {s : State} (hi : s.Inv) (e : Nat) (tell : Bool) {g : Field} (hg : g.unit = 0x19) (j : Nat) :
    (s.encError e tell).rd g j = (s.bump AX_ENC_ERRS e 1).rd g j := by
  have hbit : (0x1000000000000000000000000000000000000000000000000000000000000000000006c00 : Nat).testBit
      (Part.regs g.unit).bit = false := by rw [hg]; rfl
  unfold State.encError
  extract_lets s1 x k
  have hset : ∀ y, (s1.setEnc e y).Inv := fun _ => State.wr_inv (s := s) hi _ _ _
  split
  · exact State.notify_moves.rd (hset _) hbit j
  · rfl

theorem State.encError_errs {s : State} (hi : s.Inv) (e : Nat) (tell : Bool) :
    (s.encError e tell).rd AX_ENC_ERRS e = min 0xFFFF (s.rd AX_ENC_ERRS e + 1) := by
  rw [State.encError_rd hi e tell rfl, State.bump, State.rd_wr_same hi (by decide), satAdd_eq_min]
  exact Nat.mod_eq_of_lt (Nat.lt_of_le_of_lt (Nat.min_le_left _ _) (by decide))

theorem State.encError_beside {s : State} (hi : s.Inv) (e : Nat) (tell : Bool) {g : Field} (hg : g.unit = 0x19)
    (h : AX_ENC_ERRS.beside g 0 0 = true) (j : Nat) : (s.encError e tell).rd g j = s.rd g j :=
  (State.encError_rd hi e tell hg j).trans (State.rdk_wrk_beside hi h e j _)

theorem State.encError_inv {s : State} (hi : s.Inv) (e : Nat) (tell : Bool) : (s.encError e tell).Inv := State.encError_moves.inv hi

/-! ENCODER_TRANSFER. -/

/-- What a transfer without data writes: LATE, ERR and WARN. -/
def lateWords (e : Nat) : List (Field × Nat × Nat × Nat) :=
  [(AX_ENC_LATE, e, 0, b2n true), (AX_ENC_ERR, e, 0, b2n false), (AX_ENC_WARN, e, 0, b2n false)]

section transfer

variable {s : State} {e : Nat} (he : e < 16) (hon : s.leOn = true) (hvar : s.var ≠ .cpx9616) (hen : s.flag AX_ENC_EN e = true)
include he hon hvar hen

/-- An encoder that acts: the guard of its events. -/
theorem State.encoder_acts {b : Bool} (hmode : b = false) :
    ¬ (!s.leOn || decide (16 ≤ e) || s.var == .cpx9616 || !s.flag AX_ENC_EN e || b) = true := by
  simp [hon, he, hvar, hen, hmode]

theorem exec_encoderTransfer_none (hmode : s.rd AX_ENC_MODE e ≠ 0) (error warn : Bool) (crc : Nat) :
    exec (.encoderTransfer e none error warn crc) s = .next ((s.written (lateWords e)).encError e true) :=
  if_neg (State.encoder_acts he hon hvar hen (by simpa using hmode))

end transfer

/-- The position that a transfer delivers. -/
def State.encRead (s : State) (e d : Nat) : Nat :=
  if s.rd AX_ENC_MODE e = 2 then grayToBin (s.rd AX_ENC_BITS e) (d % 2 ^ s.rd AX_ENC_BITS e) else d % 2 ^ s.rd AX_ENC_BITS e

/-- BiSS-C: a low error bit, or a wrong CRC. -/
def State.encWrong (s : State) (e d : Nat) (error warn : Bool) (crc : Nat) : Bool :=
  s.rd AX_ENC_MODE e == 3 && (!error || crc % 64 != 63 - crc6 (s.rd AX_ENC_BITS e + 2)
    (d % 2 ^ s.rd AX_ENC_BITS e * 4 + b2n error * 2 + b2n warn))

/-- The registers a transfer with data writes. -/
def State.encWords (s : State) (e d : Nat) (error warn : Bool) (crc : Nat) : List (Field × Nat × Nat × Nat) :=
  (AX_ENC_LATE, e, 0, b2n false) :: (AX_ENC_ERR, e, 0, b2n (s.encWrong e d error warn crc)) ::
    [(AX_ENC_WARN, e, 0, b2n (s.rd AX_ENC_MODE e == 3 && !warn)), (AX_ENC_COUNT, e, 0, s.encRead e d)]

theorem State.encWords_read {s : State} (hi : s.Inv) (e d : Nat) (error warn : Bool) (crc : Nat) :
    (s.written (s.encWords e d error warn crc)).flag AX_ENC_LATE e = false ∧
      (s.written (s.encWords e d error warn crc)).flag AX_ENC_ERR e = s.encWrong e d error warn crc ∧
      (s.written (s.encWords e d error warn crc)).flag AX_ENC_WARN e = (s.rd AX_ENC_MODE e == 3 && !warn) ∧
      (s.written (s.encWords e d error warn crc)).rd AX_ENC_COUNT e = s.encRead e d % 2 ^ 32 := by
  have h1 : (s.setFlag AX_ENC_LATE e false).Inv := State.setFlag_inv hi _ _ _
  have h2 : ((s.setFlag AX_ENC_LATE e false).setFlag AX_ENC_ERR e (s.encWrong e d error warn crc)).Inv := State.setFlag_inv h1 _ _ _
  refine ⟨State.flag_written_head hi rfl rfl e _, ?_, ?_, ?_⟩
  · rw [State.encWords, State.written_cons]
    exact State.flag_written_head h1 rfl rfl e _
  · rw [State.encWords, State.written_cons, State.written_cons]
    exact State.flag_written_head h2 rfl rfl e _
  · rw [State.encWords, State.written_cons, State.written_cons, State.written_cons]
    exact State.rd_written_head (State.setFlag_inv h2 _ _ _) rfl rfl e _

theorem exec_encoderTransfer_some {s : State} {e : Nat} (he : e < 16) (hon : s.leOn = true) (hvar : s.var ≠ .cpx9616)
    (hen : s.flag AX_ENC_EN e = true) (hmode : s.rd AX_ENC_MODE e ≠ 0) (d : Nat) (error warn : Bool) (crc : Nat) :
    ∃ y, ∃ bad : Bool, exec (.encoderTransfer e (some d) error warn crc) s = .next
      (if bad then ((s.written (s.encWords e d error warn crc)).setEnc e y).encError e (s.encWrong e d error warn crc)
        else (s.written (s.encWords e d error warn crc)).setEnc e y) :=
  ⟨_, _, if_neg (State.encoder_acts he hon hvar hen (b := s.rd AX_ENC_MODE e == 0) (by simpa using hmode))⟩

/-- What a transfer with data leaves in a register beside ERRS. -/
theorem encoderTransfer_rd {s : State} (hi : s.Inv) {e : Nat} (he : e < 16) (hon : s.leOn = true) (hvar : s.var ≠ .cpx9616)
    (hen : s.flag AX_ENC_EN e = true) (hmode : s.rd AX_ENC_MODE e ≠ 0) (d : Nat) (error warn : Bool) (crc : Nat) :
    ∃ t, exec (.encoderTransfer e (some d) error warn crc) s = .next t ∧ ∀ g : Field, g.unit = 0x19 →
      AX_ENC_ERRS.beside g 0 0 = true → ∀ j, t.rd g j = (s.written (s.encWords e d error warn crc)).rd g j := by
  obtain ⟨y, bad, hexec⟩ := exec_encoderTransfer_some he hon hvar hen hmode d error warn crc
  have hw : (s.written (s.encWords e d error warn crc)).Inv := State.written_inv hi _
  refine ⟨_, hexec, fun g hg hbeside j => ?_⟩
  have hset : ((s.written (s.encWords e d error warn crc)).setEnc e y).rd g j = (s.written (s.encWords e d error warn crc)).rd g j :=
    State.rd_of_regs (State.setEnc_regs _ e y)
  split
  · exact (State.encError_beside (State.setEnc_moves.inv hw) e _ hg hbeside j).trans hset
  · exact hset

/-! ENCODER_EDGE. -/

/-- The state after a quadrature edge, before the index. -/
def State.edgeTaken (s : State) (e : Nat) (a b z : Bool) : State :=
  let x := s.enc e
  let s0 := s.setEnc e { x with a := a, b := b, z := z }
  if x.a != a && x.b != b then ((s0.setFlag AX_ENC_ERR e true).setEnc e { s0.enc e with bad := true }).encError e true
  else if x.a == a && x.b == b then s0
  else
    let sig := if x.a != a then 0 else 1
    let pair := x.edgeAt != 0 && x.edgeSig == sig && decide (s.elapsed + 1 < x.edgeAt + s.rd AX_ENC_FILT e)
    let d := if pair then -x.edgeDelta else quadStep x.a x.b a b
    (s0.setEnc e { s0.enc e with
      edgeAt := (if pair then 0 else s.elapsed + 1)
      edgeSig := sig
      edgeDelta := d }).wr AX_ENC_COUNT e (toSigned 32 (signedOf 32 (s.rd AX_ENC_COUNT e) + d))

/-- The registers an index writes. -/
def State.indexWords (s : State) (e : Nat) : List (Field × Nat × Nat × Nat) :=
  [(AX_ENC_ZPOS, e, 0, s.rd AX_ENC_COUNT e), (AX_ENC_ZSEEN, e, 0, b2n true)]

theorem exec_encoderEdge {s : State} {e : Nat} (he : e < 16) (hon : s.leOn = true) (hvar : s.var ≠ .cpx9616)
    (hen : s.flag AX_ENC_EN e = true) (hmode : s.rd AX_ENC_MODE e = 0) (a b z : Bool) :
    exec (.encoderEdge e a b z) s = .next (if z && !(s.enc e).z then (s.edgeTaken e a b z).written ((s.edgeTaken e a b z).indexWords e)
      else s.edgeTaken e a b z) :=
  (if_neg (State.encoder_acts he hon hvar hen (by simpa using hmode))).trans (apply_ite Host.Outcome.next _ _ _).symm

section edge

variable {s : State} (hi : s.Inv) (e : Nat) (a b z : Bool)

theorem State.edgeTaken_inv (hi : s.Inv) : (s.edgeTaken e a b z).Inv := by
  unfold State.edgeTaken
  extract_lets x s0 y sig pair d
  split
  · exact State.encError_inv (s := (s0.setFlag AX_ENC_ERR e true).setEnc e _) (State.setFlag_inv (s := s0) hi _ _ _) e true
  · split
    · exact hi
    · exact State.wr_inv (s := s0.setEnc e _) hi _ _ _

/-- One edge moves the count by one step. -/
theorem State.edgeTaken_single (hi : s.Inv) (hone : (s.enc e).a ≠ a ∧ (s.enc e).b = b ∨ (s.enc e).a = a ∧ (s.enc e).b ≠ b)
    (hat : (s.enc e).edgeAt = 0) : (s.edgeTaken e a b z).rd AX_ENC_COUNT e =
      toSigned 32 (signedOf 32 (s.rd AX_ENC_COUNT e) + quadStep (s.enc e).a (s.enc e).b a b) := by
  have hnotboth : ¬ ((s.enc e).a != a && (s.enc e).b != b) = true := by
    rcases hone with ⟨_, h⟩ | ⟨h, _⟩ <;> simp [h]
  have hnotnone : ¬ ((s.enc e).a == a && (s.enc e).b == b) = true := by
    rcases hone with ⟨h, _⟩ | ⟨_, h⟩ <;> simp [h]
  unfold State.edgeTaken
  extract_lets x s0 y sig pair d
  have hpair : pair = false := by simp [pair, x, hat]
  have hd : d = quadStep x.a x.b a b := by simp [d, hpair]
  rw [if_neg hnotboth, if_neg hnotnone, hd]
  refine (State.rd_wr_same (s := s0.setEnc e _) hi rfl e _).trans (Nat.mod_eq_of_lt (toSigned_lt 32 _))

/-- Both edges at once are an error that counts nothing. -/
theorem State.edgeTaken_both (hi : s.Inv) (ha : (s.enc e).a ≠ a) (hb : (s.enc e).b ≠ b) :
    (s.edgeTaken e a b z).flag AX_ENC_ERR e = true ∧
      (s.edgeTaken e a b z).rd AX_ENC_ERRS e = min 0xFFFF (s.rd AX_ENC_ERRS e + 1) ∧
      (s.edgeTaken e a b z).rd AX_ENC_COUNT e = s.rd AX_ENC_COUNT e := by
  unfold State.edgeTaken
  extract_lets x s0 y sig pair d
  rw [if_pos (by simp [x, ha, hb])]
  have hset : ∀ y, ((s0.setFlag AX_ENC_ERR e true).setEnc e y).Inv := fun _ => State.setFlag_inv (s := s0) hi _ _ _
  refine ⟨?_, ?_, ?_⟩
  · rw [State.flag, State.encError_beside (hset _) e true rfl rfl]
    exact State.flag_setFlag_same (s := s0) hi rfl e true
  · rw [State.encError_errs (hset _)]
    exact congrArg (fun k => min 0xFFFF (k + 1)) (State.rdk_wrk_beside (s := s0) (f := AX_ENC_ERR) (g := AX_ENC_ERRS) hi rfl e e _)
  · rw [State.encError_beside (hset _) e true rfl rfl]
    exact State.rdk_wrk_beside (s := s0) (f := AX_ENC_ERR) (g := AX_ENC_COUNT) hi rfl e e _

end edge

/-- The count of an edge, up. -/
theorem toSigned_add_one (c : Nat) : toSigned 32 (signedOf 32 c + 1) = (c + 1) % 2 ^ 32 := by
  unfold toSigned signedOf
  split <;> omega

/-- The count of an edge, down. -/
theorem toSigned_sub_one (c : Nat) : toSigned 32 (signedOf 32 c + -1) = (c + (2 ^ 32 - 1)) % 2 ^ 32 := by
  unfold toSigned signedOf
  split <;> omega

theorem quadStep_a {a b a' : Bool} (h : a ≠ a') : quadStep a b a' b = if a' = b then -1 else 1 := by
  simp [quadStep, h]

theorem quadStep_b {a b b' : Bool} (h : b ≠ b') : quadStep a b a b' = if a = b' then 1 else -1 := by
  simp [quadStep, h]

/-- An edge that the encoder counts, with or without the index: registers beside ZPOS and ZSEEN are as the edge leaves them. -/
theorem encoderEdge_rd {s : State} (hi : s.Inv) {e : Nat} (he : e < 16) (hon : s.leOn = true) (hvar : s.var ≠ .cpx9616)
    (hen : s.flag AX_ENC_EN e = true) (hmode : s.rd AX_ENC_MODE e = 0) (a b z : Bool) :
    ∃ t, exec (.encoderEdge e a b z) s = .next t ∧
      (∀ g : Field, AX_ENC_ZPOS.beside g 0 0 = true → AX_ENC_ZSEEN.beside g 0 0 = true → ∀ j,
        t.rd g j = (s.edgeTaken e a b z).rd g j) ∧
      ((s.enc e).z = false → z = true → t.flag AX_ENC_ZSEEN e = true ∧ t.rd AX_ENC_ZPOS e = t.rd AX_ENC_COUNT e) := by
  have hinv : (s.edgeTaken e a b z).Inv := State.edgeTaken_inv e a b z hi
  refine ⟨_, exec_encoderEdge he hon hvar hen hmode a b z, fun g hpos hseen j => ?_, fun hz0 hz => ?_⟩
  · split
    · exact State.rd_written_beside hinv (by simp [State.indexWords, besideAll, hpos, hseen]) j
    · rfl
  · rw [if_pos (by simp [hz0, hz])]
    have hcount : ((s.edgeTaken e a b z).written ((s.edgeTaken e a b z).indexWords e)).rd AX_ENC_COUNT e =
        (s.edgeTaken e a b z).rd AX_ENC_COUNT e := State.rd_written_beside hinv rfl e
    refine ⟨?_, ?_⟩
    · rw [State.indexWords, State.written_cons]
      exact State.flag_written_head (State.wrk_inv hinv _ _ _ _) rfl rfl e true
    · rw [hcount, State.indexWords, State.rd_written_head hinv rfl rfl]
      exact Nat.mod_eq_of_lt (natBits_lt _ 31 0)

/-! PWM_PERIOD_START. -/

theorem State.trigEvent_regs (s : State) (src : Nat) (centre : Bool) (at8 : Nat) : (s.trigEvent src centre at8).regs = s.regs :=
  List.foldlRecOn (motive := fun t : State => t.regs = s.regs) _ _ rfl fun t h e _ => (t.urgentAsk_regs at8 e).trans h

theorem State.trigEvent_trigs {s : State} {src : Nat} {centre : Bool} (at8 : Nat) :
    (∀ x, x ∈ s.af.trigs → x ∈ (s.trigEvent src centre at8).af.trigs) ∧
      ∀ k, k < s.byVar 16 8 4 → s.trigCore k = true → s.rd AF_CORE_TRIG k = src → (s.rd AF_CORE_TRIG_CTR k == 1) = centre →
        (k, edgeNs at8 (s.rd AF_CORE_DELAY k)) ∈ (s.trigEvent src centre at8).af.trigs := by
  unfold State.trigEvent
  extract_lets match_ cores urg af s1
  rw [(State.each_urgentAsk at8 urg s1).1]
  refine ⟨fun x hx => List.mem_append_left _ hx, fun k hk htrig hname hcentre => List.mem_append_right _ ?_⟩
  have hcore : k ∈ cores := List.mem_filter.2 ⟨List.mem_range.2 hk, by simp [htrig, match_, hname, hcentre]⟩
  exact List.mem_map.2 ⟨k, hcore, rfl⟩

/-- The start of a period is taken. -/
def State.pwmTaken (s : State) (p k : Nat) : State := { s with le := { s.le with pwmAt := mset (fun _ => 0) p (k + 1) s.le.pwmAt } }

/-- The period `k` with its duty. -/
def State.pwmTimed (s : State) (p k : Nat) : State :=
  (s.pwmTaken p k).wr AX_PWM_DUTY p (pwmHigh (mget (fun _ => 0) s.le.duty p) (s.rd AX_PWM_PERIOD p))

theorem exec_pwmPeriodStart_due {s : State} {p : Nat} (hp : p < 16) (hon : s.pwmOn p = true)
    (hgrid : s.gridOk (s.rd AX_PWM_PERIOD p * 5 / 4) = true)
    (hdue : mget (fun _ => 0) s.le.pwmAt p ≠ s.tai * 4 / 5 / s.rd AX_PWM_PERIOD p + 1) :
    exec (.pwmPeriodStart p) s = .next (((s.pwmTimed p (s.tai * 4 / 5 / s.rd AX_PWM_PERIOD p)).trigEvent (16 + p) false
      (s.tai * 4 / 5 / s.rd AX_PWM_PERIOD p * s.rd AX_PWM_PERIOD p * 10)).trigEvent (16 + p) true
      (s.tai * 4 / 5 / s.rd AX_PWM_PERIOD p * s.rd AX_PWM_PERIOD p * 10 + s.rd AX_PWM_PERIOD p / 2 * 10)) := by
  have hpos : s.rd AX_PWM_PERIOD p ≠ 0 := by
    intro h
    simp [State.pwmOn, h] at hon
  have hmax : max 1 (s.rd AX_PWM_PERIOD p) = s.rd AX_PWM_PERIOD p := Nat.max_eq_right (Nat.one_le_iff_ne_zero.2 hpos)
  show execPwmPeriodStart p s = _
  simp only [execPwmPeriodStart, hmax]
  exact if_neg (by simp [hp, hon, hgrid, hdue])

section pwm

variable {s : State} (hi : s.Inv) (p k : Nat)
include hi

theorem State.pwmTimed_duty : (s.pwmTimed p k).rd AX_PWM_DUTY p =
    pwmHigh (mget (fun _ => 0) s.le.duty p) (s.rd AX_PWM_PERIOD p) % 2 ^ 32 :=
  State.rd_wr_same (s := s.pwmTaken p k) hi rfl p _

theorem State.pwmTimed_rd {g : Field} (h : AX_PWM_DUTY.beside g 0 0 = true) (j : Nat) : (s.pwmTimed p k).rd g j = s.rd g j :=
  State.rdk_wrk_beside (s := s.pwmTaken p k) hi h p j _

theorem State.pwmTimed_trigCore (core : Nat) : (s.pwmTimed p k).trigCore core = s.trigCore core := by
  simp only [State.trigCore, State.twinned, State.flag, State.pwmTimed_rd hi p k (g := AF_CORE_EN) rfl,
    State.pwmTimed_rd hi p k (g := AF_CORE_MODE) rfl, State.pwmTimed_rd hi p k (g := AF_CORE_TWIN) rfl]

end pwm

theorem State.trigCore_of_regs {s t : State} (h : t.regs = s.regs) (core : Nat) : t.trigCore core = s.trigCore core := by
  simp only [State.trigCore, State.twinned, State.flag, State.rd_of_regs h]

/-- Both instants of a period: its start reaches the cores without TRIG_CTR, its centre the others. -/
theorem State.trigEvent_both {s : State} (hi : s.Inv) {src : Nat} (start centre : Nat) {core : Nat} (hcore : core < s.byVar 16 8 4)
    (htrig : s.trigCore core = true) (hsrc : s.rd AF_CORE_TRIG core = src) :
    (core, edgeNs (if s.rd AF_CORE_TRIG_CTR core = 1 then centre else start) (s.rd AF_CORE_DELAY core)) ∈
      ((s.trigEvent src false start).trigEvent src true centre).af.trigs := by
  have hregs := s.trigEvent_regs src false start
  have hvar : (s.trigEvent src false start).byVar 16 8 4 = s.byVar 16 8 4 := by
    obtain ⟨hkept, -⟩ : Part.ident.kept s (s.trigEvent src false start) := State.trigEvent_moves.keep hi .ident rfl
    rw [State.byVar, ← hkept, State.byVar]
  by_cases hctr : s.rd AF_CORE_TRIG_CTR core = 1
  · rw [if_pos hctr, ← State.rd_of_regs (g := AF_CORE_DELAY) hregs]
    exact (State.trigEvent_trigs centre).2 core (hvar ▸ hcore) ((State.trigCore_of_regs hregs core).trans htrig)
      ((State.rd_of_regs hregs).trans hsrc) (by rw [State.rd_of_regs hregs, hctr]; rfl)
  · rw [if_neg hctr]
    exact (State.trigEvent_trigs centre).1 _ ((State.trigEvent_trigs start).2 core hcore htrig hsrc (by simp [hctr]))

/-! The obligation. -/

/-- A loop in HOLD applies the output of the sample before to its duty, and samples. -/
theorem State.loopSample_applies {s : State} (hi : s.Inv) {n : Nat} (hok : mapOk (fun _ => LoopSt.init) s.le.loops = true)
    (hduty : mapOk (fun _ => 0) s.le.duty = true) (hen : s.flag LE_LOOP_EN n = true) (hctl : s.flag LE_LOOP_CTL_EN n = false)
    (hreq : (s.loop n).req = none) (hst : s.loopState n = 1) (hfly : (s.loop n).flying = true)
    (hdst : s.rd LE_LOOP_OUT_DST n / 2 ^ 28 = 0xA) (tk : Nat) :
    mget (fun _ => 0) ((s.loopApply n tk).loopSample n tk).le.duty (s.rd LE_LOOP_OUT_DST n % 16) = (s.loop n).next ∧
      (((s.loopApply n tk).loopSample n tk).loop n).out = (s.loop n).next := by
  have hkept : ∀ g : Field, LE_STAT_REPEAT.beside g 0 0 = true → ∀ j, (s.loopApply n tk).rd g j = s.rd g j := fun g hg j => by
    rw [State.loopApply_duty hfly hdst]
    exact State.rdk_wrk_beside (s := s.dutyTaken n) hi hg n j _
  have hloop : (s.loopApply n tk).loop n = (s.loop n).landed := by
    rw [State.loopApply_duty hfly hdst]
    exact State.setLoop_loop (s := (s.dutyTaken n).setFlag LE_STAT_REPEAT n _) hok n _
  have hok' : mapOk (fun _ => LoopSt.init) (s.loopApply n tk).le.loops = true := by
    rw [State.loopApply_duty hfly hdst]
    exact State.setLoop_ok (s := (s.dutyTaken n).setFlag LE_STAT_REPEAT n _) hok n _
  obtain ⟨hkeep, hout⟩ := State.loopSample_held_keeps (s := s.loopApply n tk) (n := n) (State.loopApply_moves.inv hi) hok'
    (by rw [State.flag, hkept LE_LOOP_EN rfl]; exact hen) (by rw [State.flag, hkept LE_LOOP_CTL_EN rfl]; exact hctl)
    (by rw [hloop]; exact hreq) (by rw [State.loopState, hkept LE_STAT_STATE rfl]; exact hst) tk
  rw [hkeep, hout, hloop, State.loopApply_duty hfly hdst]
  exact ⟨mget_mset_same _ _ _ hduty, rfl⟩

/-- Settles O48: a loop and an axis by their sample's case, a transfer, an edge and a period start by what they write. -/
theorem loopsAxesEncodersAndPwmAct : Obligations.LoopsAxesEncodersAndPwmAct := by
  unfold Obligations.LoopsAxesEncodersAndPwmAct
  refine ⟨?loops, ?axes, ?transfers, ?edges, ?periods⟩
  case loops =>
    intro s n hi hmaps _ hon hgrid hstaged hat hone hen hctl hreq
    obtain ⟨hok, _, _, hduty, _⟩ := State.controlMapsOk_iff.1 hmaps
    have hexec := exec_loopSample_one hon hgrid hstaged hat hone
    refine ⟨fun hst hfly hgoal => ⟨_, hexec, ?_⟩, fun hst hfly hfrozen hentry habsorb hact hlimit hbad hr hff => ⟨_, hexec, ?_⟩,
      fun hst hfly hdst => ⟨_, hexec, State.loopSample_applies (s := s.loopTick) hi hok hduty hen hctl hreq hst hfly hdst _⟩⟩
    · rw [State.loopApply_landed (s := s.loopTick) hfly]
      exact State.loopSample_held_effect (s := s.loopTick) hi hok hen hctl hreq hst hgoal _
    · rw [State.loopApply_landed (s := s.loopTick) hfly]
      exact State.loopSample_closed_effect (s := s.loopTick) hi hok hen hctl hreq hst hfrozen hentry habsorb hact hlimit hbad hr hff _
  case axes =>
    intro s n hi hmaps _ hon hgrid hstaged hat hone hen hctl hreq hfly hst hcap
    obtain ⟨_, hok, _⟩ := State.controlMapsOk_iff.1 hmaps
    have hexec := exec_axisSample_one hon hgrid hstaged hat hone hfly
    refine ⟨fun hpos => ⟨_, hexec, ?_⟩, fun p v hpos hp hvel hfp hfv hfrozen hlimit htarget => ⟨_, hexec, ?_⟩⟩
    · exact State.axisSample_bad_effect (s := s.axisTick) hi hok hen hctl hreq hst hcap hpos _
    · exact State.axisSample_good_effect (s := s.axisTick) hi hok hen hctl hreq hst hcap hpos hp hvel hfp hfv hfrozen hlimit htarget _
  case transfers =>
    intro s e error warn crc hi he hon hvar hen hmode
    refine ⟨?late, fun d => ?data⟩
    case late =>
      have hw : (s.written (lateWords e)).Inv := State.written_inv hi _
      refine ⟨_, exec_encoderTransfer_none he hon hvar hen hmode error warn crc, ?_, ?_, ?_, ?_⟩
      · rw [State.flag, State.encError_beside hw e true rfl rfl]
        exact State.flag_written_head hi rfl rfl e true
      · rw [State.flag, State.encError_beside hw e true rfl rfl, lateWords, State.written_cons]
        exact State.flag_written_head (State.wrk_inv hi _ _ _ _) rfl rfl e false
      · rw [State.encError_errs hw, State.rd_written_beside hi rfl]
      · rw [State.encError_beside hw e true rfl rfl, State.rd_written_beside hi rfl]
    case data =>
      obtain ⟨t, hexec, hrd⟩ := encoderTransfer_rd hi he hon hvar hen hmode d error warn crc
      obtain ⟨hlate, herr, hwarn, hcount⟩ := State.encWords_read hi e d error warn crc
      rw [← hrd AX_ENC_COUNT rfl rfl] at hcount
      rw [State.flag, ← hrd _ rfl rfl] at hlate herr hwarn
      refine ⟨t, hexec, hlate, fun h2 => ?_, fun h2 => ?_, fun h3 => ⟨hwarn.trans ?_, herr.trans ?_⟩⟩
      · rw [hcount, State.encRead, if_pos h2]
      · rw [hcount, State.encRead, if_neg h2]
      · simp [h3]
      · simp [State.encWrong, h3]
  case edges =>
    intro s e a b z hi he hon hvar hen hmode hat
    obtain ⟨t, hexec, hrd, hz⟩ := encoderEdge_rd hi he hon hvar hen hmode a b z
    have hcount := hrd AX_ENC_COUNT rfl rfl e
    refine ⟨fun ha hb => ⟨t, hexec, ?_⟩, fun ha hb => ⟨t, hexec, ?_⟩, fun ha hb => ⟨t, hexec, ?_⟩,
      fun hz0 hz1 => ⟨t, hexec, hz hz0 hz1⟩⟩
    · rw [hcount, State.edgeTaken_single e a b z hi (Or.inl ⟨ha, hb⟩) hat, hb, quadStep_a ha]
      split
      · exact toSigned_sub_one _
      · exact toSigned_add_one _
    · rw [hcount, State.edgeTaken_single e a b z hi (Or.inr ⟨ha, hb⟩) hat, ha, quadStep_b hb]
      split
      · exact toSigned_add_one _
      · exact toSigned_sub_one _
    · obtain ⟨herr, herrs, hstand⟩ := State.edgeTaken_both e a b z hi ha hb
      exact ⟨by rw [State.flag, hrd AX_ENC_ERR rfl rfl]; exact herr, (hrd AX_ENC_ERRS rfl rfl e).trans herrs, hcount.trans hstand⟩
  case periods =>
    intro s p hi _ hp hon hgrid hdue
    have hw : (s.pwmTimed p (s.tai * 4 / 5 / s.rd AX_PWM_PERIOD p)).Inv := State.wr_inv (s := s.pwmTaken p _) hi _ _ _
    refine ⟨_, exec_pwmPeriodStart_due hp hon hgrid hdue, ?_, fun k hk htrig hsrc => ?_⟩
    · rw [State.rd_of_regs (State.trigEvent_regs _ _ _ _), State.rd_of_regs (State.trigEvent_regs _ _ _ _)]
      exact State.pwmTimed_duty hi p _
    · have hboth := State.trigEvent_both hw (s.tai * 4 / 5 / s.rd AX_PWM_PERIOD p * s.rd AX_PWM_PERIOD p * 10)
        (s.tai * 4 / 5 / s.rd AX_PWM_PERIOD p * s.rd AX_PWM_PERIOD p * 10 + s.rd AX_PWM_PERIOD p / 2 * 10) (core := k) hk
        ((State.pwmTimed_trigCore hi p _ k).trans htrig) ((State.pwmTimed_rd hi p _ rfl k).trans hsrc)
      rw [State.pwmTimed_rd hi p _ rfl, State.pwmTimed_rd hi p _ rfl] at hboth
      split_ifs at hboth ⊢
      · exact hboth
      · rwa [Nat.add_zero]

end Sys2Proof.Machine
end

