-- ==== Sys2Proof/Proofs/LoopCommands.lean ====
section
/-! LOOP_STATE (R247, R263), AUTOTUNE (R257, R260), TABLE_CAPTURE (R265) and the instant of a swap (R251). -/

namespace Sys2Proof.Machine

open Sys2Proof

/-! LOOP_STATE. -/

/-- The loop with a request that waits for its next sample. -/
def LoopSt.asked (x : LoopSt) (want : Nat) (ref : Nat × Nat) : LoopSt := { x with req := some (want, ref) }

/-- The axis with a request that waits for its next sample. -/
def AxisSt.asked (x : AxisSt) (want : Nat) (ref : Nat × Nat) : AxisSt := { x with req := some (want, ref) }

section loopState

variable {s : State} {ring idx : Nat} {c : Cmd} (hr : s.Ready ring idx c) (hp : c.Plain opLoopState 4)
  (habsent : s.leAbsentOf c = none) (hgrp : objGrp c.objid = 1) (hmodes : s.inMode modesCrs = true)
  (hsafe : s.mo.mode = .safe → (c.par 0).toNat = 3)
include hr hp habsent hgrp hmodes hsafe

theorem exec_loopState_loop (hunit : objUnit c.objid = 0x18) (hn : objInst c.objid < 1024) (hwant : (c.par 0).toNat ∈ [1, 2, 3, 4])
    (hoff : s.loopState (objInst c.objid) ≠ 0) (htune : s.loopState (objInst c.objid) ≠ 6) :
    exec (.loopState ring idx) s = .next ((s.setLoop (objInst c.objid)
      ((s.loop (objInst c.objid)).asked (c.par 0).toNat c.ref)).start c) := by
  show execLoopState ring idx s = _
  refine (hr.runCmd hp.isOp ((State.verdict_own hr hp hp.inline habsent ?bad (fun h => Bool.noConfusion h) ?modes).trans ?own)).trans
    (congrArg _ ?effect)
  case bad => simp [hgrp, hunit, hn, hwant]
  case modes => simpa [hmodes, imp_iff_not_or] using hsafe
  case own => simp [hunit, hoff, htune]
  case effect => exact if_neg (by simp [hunit])

theorem exec_loopState_axis (hunit : objUnit c.objid = 0x19) (hn : objInst c.objid < 128) (hwant : (c.par 0).toNat ∈ [1, 3, 5])
    (hen : s.flag AX_AXIS_EN (objInst c.objid) = true) :
    exec (.loopState ring idx) s = .next ((s.setAxis (objInst c.objid)
      ((s.axis (objInst c.objid)).asked (c.par 0).toNat c.ref)).start c) := by
  show execLoopState ring idx s = _
  refine (hr.runCmd hp.isOp ((State.verdict_own hr hp hp.inline habsent ?bad (fun h => Bool.noConfusion h) ?modes).trans ?own)).trans
    (congrArg _ ?effect)
  case bad => simp [hgrp, hunit, hn, hwant]
  case modes => simpa [hmodes, imp_iff_not_or] using hsafe
  case own => simp [hunit, hen]
  case effect => exact if_pos hunit

end loopState

/-! AUTOTUNE. -/

/-- A tuning of loop `n` from its present output. -/
def State.tuneRun (s : State) (n : Nat) : TuneRun :=
  ⟨(s.loop n).law.u, s.elapsed, false, 0, 0, 0, [], [], (s.loopIn n).y, (s.loopIn n).y⟩

/-- The loop that begins to tune. -/
def State.tuningLoop (s : State) (n : Nat) : LoopSt :=
  { s.loop n with
    tune := some (s.tuneRun n), goal := none, sp := (if (s.loopIn n).rBad then (s.loop n).sp else (s.loopIn n).r) }

/-- The loop whose tuning ends without a result moves back to `u0`. -/
def LoopSt.untuned (x : LoopSt) (r : TuneRun) : LoopSt := { x with tune := none, goal := some r.u0 }

section autotune

variable {s : State} {ring idx : Nat} {c : Cmd} (hr : s.Ready ring idx c) (hp : c.Plain opAutotune 4)
  (habsent : s.leAbsentOf c = none) (hform : tuneBad c = false) (hmode : s.tuneMode (objInst c.objid) = true)
include hr hp habsent hform hmode

theorem exec_autotuneStart_begins (hop : c.tuneOp = 1) (hrule : s.rd LE_TUNE_RULE (objInst c.objid) ≤ 5)
    (hst : s.loopState (objInst c.objid) = 1 ∨ s.loopState (objInst c.objid) = 2) (hbank : s.actBank (objInst c.objid) = 0)
    (hswap : (s.loop (objInst c.objid)).swap = none) (hbad : (s.loopIn (objInst c.objid)).bad = false) :
    exec (.autotuneStart ring idx) s = .next (((s.setLoop (objInst c.objid) (s.tuningLoop (objInst c.objid))).wr
      LE_STAT_STATE (objInst c.objid) 6).done c 0 0 0 0) := by
  have hmine : (c.opcode == opAutotune && c.tuneOp != 2) = true := by simp [hp.1, hop]
  have hrule' : ¬ 5 < s.rd LE_TUNE_RULE (objInst c.objid) := Nat.not_lt.2 hrule
  have hst' : (s.loopState (objInst c.objid) != 1 && s.loopState (objInst c.objid) != 2) = false := by
    rcases hst with h | h <;> simp [h]
  show execAutotuneStart ring idx s = _
  refine hr.runCmd hmine ((State.verdict_own hr hp hp.inline habsent ?bad (fun h => Bool.noConfusion h) hmode).trans ?own)
  case bad => simp [hform, hop, hrule']
  case own => simp [hst', hbank, hswap, hbad]

theorem exec_autotuneStop_ends (hop : c.tuneOp = 2) :
    exec (.autotuneStop ring idx) s = .next ((s.tuneAbort (objInst c.objid) 5).done c 0 0 0 0) := by
  have hmine : (c.opcode == opAutotune && c.tuneOp == 2) = true := by simp [hp.1, hop]
  show execAutotuneStop ring idx s = _
  exact hr.runCmd hmine (State.verdict_own hr hp hp.inline habsent (by simp [hform]) (fun h => Bool.noConfusion h) hmode)

end autotune

theorem exec_autotuneTmaxExpiry_due {s : State} {n : Nat} {r : TuneRun} (hon : s.leOn = true) (htune : (s.loop n).tune = some r)
    (hdue : r.startAt + s.rd LE_TUNE_TMAX n * unitsPerSec ≤ s.elapsed) :
    exec (.autotuneTmaxExpiry n) s = .next (s.tuneAbort n 2) := by
  show execAutotuneTmaxExpiry n s = _
  simp only [execAutotuneTmaxExpiry, htune]
  exact if_pos (by simp [hon, hdue])

/-- The registers that the end of a tuning writes. -/
def tuneEndWords (n cause : Nat) : List (Field × Nat × Nat × Nat) :=
  [(LE_STAT_STATE, n, 0, 1), (LE_TUNE_RES, n, 0, 2), (LE_TUNE_CAUSE, n, 0, cause)]

theorem State.tuneAbort_eq {s : State} {n : Nat} {r : TuneRun} (htune : (s.loop n).tune = some r) (cause : Nat) :
    s.tuneAbort n cause = ((s.setLoop n ((s.loop n).untuned r)).written (tuneEndWords n cause)).notify 0x18 6 0 n cause 0 0 := by
  simp only [State.tuneAbort, htune]
  rfl

/-- A tuning that ends without a result: HOLD, RES 2 and the cause, the output back to `u0` (R260). -/
theorem State.tuneAbort_effect {s : State} (hi : s.Inv) (hok : mapOk (fun _ => LoopSt.init) s.le.loops = true) {n : Nat} {r : TuneRun}
    (htune : (s.loop n).tune = some r) {cause : Nat} (hcause : cause < 2 ^ 6) :
    (s.tuneAbort n cause).loopState n = 1 ∧ (s.tuneAbort n cause).rd LE_TUNE_RES n = 2 ∧
      (s.tuneAbort n cause).rd LE_TUNE_CAUSE n = cause ∧ ((s.tuneAbort n cause).loop n).tune = none ∧
      ((s.tuneAbort n cause).loop n).goal = some r.u0 := by
  have h1 : (s.setLoop n ((s.loop n).untuned r)).Inv := hi
  have hw : ((s.setLoop n ((s.loop n).untuned r)).written (tuneEndWords n cause)).Inv := State.written_inv h1 _
  have hle : ((s.setLoop n ((s.loop n).untuned r)).written (tuneEndWords n cause)).le = (s.tuneAbort n cause).le := by
    rw [State.tuneAbort_eq htune]
    exact State.notify_moves.keep hw .le rfl
  have hloop : (s.tuneAbort n cause).loop n = (s.loop n).untuned r := by
    rw [State.loop, ← hle, State.written_le]
    exact State.setLoop_loop hok n _
  have hrd : ∀ g : Field, g.unit = 0x18 → (s.tuneAbort n cause).rd g n =
      ((s.setLoop n ((s.loop n).untuned r)).written (tuneEndWords n cause)).rd g n := fun g hg => by
    rw [State.tuneAbort_eq htune]
    exact State.notify_moves.rd hw (by rw [hg]; rfl) n
  refine ⟨(hrd LE_STAT_STATE rfl).trans (State.rd_written_head h1 rfl rfl n 1), (hrd LE_TUNE_RES rfl).trans ?_,
    (hrd LE_TUNE_CAUSE rfl).trans ?_, by rw [hloop]; rfl, by rw [hloop]; rfl⟩
  · rw [tuneEndWords, State.written_cons]
    exact State.rd_written_head (State.wrk_inv h1 _ _ _ _) rfl rfl n 2
  · rw [tuneEndWords, State.written_cons, State.written_cons]
    exact (State.rd_written_head (State.wrk_inv (State.wrk_inv h1 _ _ _ _) _ _ _ _) rfl rfl n cause).trans (Nat.mod_eq_of_lt hcause)

theorem State.tuneAbort_inflight {s : State} (hi : s.Inv) (n cause : Nat) :
    (s.tuneAbort n cause).mb.inflight = s.mb.inflight := (State.tuneAbort_moves.keep hi .phases rfl).symm

/-! TABLE_CAPTURE. -/

/-- A capture of axis `n` begins at its reference. -/
def State.capturing (s : State) (n : Nat) (c : Cmd) : AxisSt :=
  { s.axis n with cap := some ⟨c.ref, (c.par 0).toNat, 0, (s.axis n).rPos, [], []⟩ }

theorem exec_tableCapture_begins {s : State} {ring idx : Nat} {c : Cmd} (hr : s.Ready ring idx c) (hp : c.Plain opTableCapture 4)
    (habsent : s.leAbsentOf c = none) (hunit : objUnit c.objid = 0x19) (hgrp : objGrp c.objid = 1) (hn : objInst c.objid < 128)
    (hfin : finite f32 (c.par 0).toNat = true) (hpos : flt f32 0 (c.par 0).toNat = true) (hauth : s.authorized c = true)
    (hmodes : s.inMode modesC = true) (hst : s.axisState (objInst c.objid) = 1) (hloop : s.flag AX_AXIS_VLOOP (objInst c.objid) = true) :
    exec (.tableCapture ring idx) s = .next (((s.wr AX_STAT_STATE (objInst c.objid) 6).setAxis (objInst c.objid)
      (s.capturing (objInst c.objid) c)).start c) := by
  show execTableCapture ring idx s = _
  refine hr.runCmd hp.isOp ((State.verdict_own hr hp hp.inline habsent ?bad (fun _ => hauth) hmodes).trans ?own)
  case bad => simp [hunit, hgrp, hn, hfin, hpos]
  case own => simp [hst, hloop]

/-! LE_SWAP_INSTANT. -/

/-- A listed key reads its value. -/
theorem mget_of_mem {α : Type} [DecidableEq α] {d : Nat → α} {k : Nat} {v : α} : ∀ {m : AMap α} {lo : Nat},
    mapOkFrom d lo m = true → (k, v) ∈ m → mget d m k = v ∧ lo ≤ k
  | (k', v') :: t, lo, hm, h => by
    simp only [mapOkFrom, Bool.and_eq_true, decide_eq_true_eq] at hm
    obtain ⟨⟨hlo, -⟩, ht⟩ := hm
    rcases List.mem_cons.1 h with heq | hmem
    · obtain ⟨rfl, rfl⟩ := Prod.mk.inj heq
      exact ⟨if_pos rfl, hlo⟩
    · obtain ⟨hread, hlt⟩ := mget_of_mem ht hmem
      rw [mget, if_neg (by omega), if_neg (by omega)]
      exact ⟨hread, by omega⟩

theorem State.swap_of_leSwaps {s : State} (hok : mapOk (fun _ => LoopSt.init) s.le.loops = true) {n : Nat} {w : LoopSwap}
    (h : (n, w) ∈ s.leSwaps) : (s.loop n).swap = some w := by
  obtain ⟨⟨k, x⟩, hmem, hx⟩ := List.mem_filterMap.1 h
  obtain ⟨w', hswap, heq⟩ := Option.map_eq_some_iff.1 hx
  obtain ⟨rfl, rfl⟩ := Prod.mk.inj heq
  rw [State.loop, (mget_of_mem hok hmem).1]
  exact hswap

/-- The loop without a pending swap. -/
def LoopSt.unswapped (x : LoopSt) : LoopSt := { x with swap := none }

/-- The loop `n` with its pending swap gone and its bank changed. -/
def State.swapEnded (s : State) (n bank : Nat) : State :=
  ((s.setLoop n (s.loop n).unswapped).setFlag LE_STAT_SWAP_PEND n false).wr LE_STAT_ACT_BANK n bank

/-- A loop that swaps; it may have its output to absorb (R252). -/
theorem State.loopSwap_eq {s : State} {n : Nat} {w : LoopSwap} (hswap : (s.loop n).swap = some w) (hgrp : w.grp = 0) :
    ∃ b : Bool, s.loopSwap n w = if b then (s.swapEnded n w.bank).setLoop n
      { ((s.setLoop n (s.loop n).unswapped).setFlag LE_STAT_SWAP_PEND n false).loop n with absorb := some (s.actBank n) }
      else s.swapEnded n w.bank := by
  have hoff : s.leSwapOff n = (s.setLoop n (s.loop n).unswapped).setFlag LE_STAT_SWAP_PEND n false := by
    simp only [State.leSwapOff, hswap, hgrp, if_true]
    rfl
  rw [State.loopSwap, hoff]
  exact ⟨_, rfl⟩

theorem State.loopSwap_mb {s : State} {n : Nat} {w : LoopSwap} (hswap : (s.loop n).swap = some w) (hgrp : w.grp = 0) :
    (s.loopSwap n w).mb = s.mb := by
  obtain ⟨b, heq⟩ := State.loopSwap_eq hswap hgrp
  rw [heq]
  cases b <;> rfl

theorem State.loopSwap_effect {s : State} (hi : s.Inv) (hok : mapOk (fun _ => LoopSt.init) s.le.loops = true) {n : Nat} {w : LoopSwap}
    (hswap : (s.loop n).swap = some w) (hgrp : w.grp = 0) (hbank : w.bank < 2) :
    (s.loopSwap n w).actBank n = w.bank ∧ ((s.loopSwap n w).loop n).swap = none ∧
      (s.loopSwap n w).flag LE_STAT_SWAP_PEND n = false := by
  obtain ⟨b, heq⟩ := State.loopSwap_eq hswap hgrp
  have hi1 : (s.setLoop n (s.loop n).unswapped).Inv := hi
  have hok1 : mapOk (fun _ => LoopSt.init) (s.setLoop n (s.loop n).unswapped).le.loops = true := State.setLoop_ok hok n _
  have hread : (s.setLoop n (s.loop n).unswapped).loop n = (s.loop n).unswapped := State.setLoop_loop hok n _
  have hregs : (s.loopSwap n w).regs = (s.swapEnded n w.bank).regs := by
    rw [heq]
    cases b <;> rfl
  have hnone : ((s.loopSwap n w).loop n).swap = none := by
    rw [heq]
    cases b
    · exact congrArg LoopSt.swap hread
    · rw [if_pos rfl, State.setLoop_loop (s := s.swapEnded n w.bank) hok1]
      exact congrArg LoopSt.swap hread
  refine ⟨?_, hnone, ?_⟩
  · rw [State.actBank, State.rd_of_regs hregs]
    exact (State.rd_wr_same (State.setFlag_inv hi1 _ _ _) rfl n w.bank).trans (Nat.mod_eq_of_lt hbank)
  · rw [State.flag, State.rd_of_regs hregs, State.swapEnded]
    exact (congrArg (· != 0) (State.rdk_wrk_beside (State.setFlag_inv hi1 LE_STAT_SWAP_PEND n false) rfl n n _)).trans
      (State.flag_setFlag_same hi1 rfl n false)

/-- The one swap that is due takes effect; its command is answered and its notification sent. -/
theorem exec_leSwapInstant_one {s : State} {n : Nat} {w : LoopSwap} (hon : s.leOn = true) (hone : s.leSwaps = [(n, w)])
    (hdue : w.tb ≤ s.tai) (hgrp : w.grp = 0) : exec .leSwapInstant s =
      .next (((s.loopSwap n w).settle (some w.cmd) .ok 0 0 (some (Stamp.ofTai w.tb))).notifyAt 0x18 4 0
        (Stamp.ofTai w.tb) n w.bank 0 0) := by
  show execLeSwapInstant s = _
  simp [execLeSwapInstant, hon, hone, hdue, hgrp, List.eraseDups_cons]

/-- A swap at its instant: the bank, the pending swap gone, and the answer stamped with the instant (R251). -/
theorem leSwapInstant_effect {s : State} (hi : s.Inv) (hok : mapOk (fun _ => LoopSt.init) s.le.loops = true) {n : Nat} {w : LoopSwap}
    {c : Cmd} (hon : s.leOn = true) (hone : s.leSwaps = [(n, w)]) (hdue : w.tb ≤ s.tai) (hbank : w.bank < 2) (hgrp : w.grp = 0)
    (hcmd : c.ref = w.cmd) (hfind : s.findCmd c.ring c.order = some c) (hu : c.undecided = true) :
    ∃ t, exec .leSwapInstant s = .next t ∧ t.actBank n = w.bank ∧ (t.loop n).swap = none ∧ t.flag LE_STAT_SWAP_PEND n = false ∧
      t.Outcome c .ok 0 0 0 0 (some (Stamp.ofTai w.tb)) := by
  have hswap : (s.loop n).swap = some w := State.swap_of_leSwaps hok (by rw [hone]; exact List.mem_singleton.2 rfl)
  obtain ⟨hact, hnone, hpend⟩ := State.loopSwap_effect hi hok hswap hgrp hbank
  have hmb := State.loopSwap_mb hswap hgrp
  have hthere : (s.loopSwap n w).findCmd c.ring c.order = some c := by rw [State.findCmd, hmb]; exact hfind
  have hsettled := State.settle_eq hthere hu .ok 0 0 (some (Stamp.ofTai w.tb))
  have hs : ((s.loopSwap n w).setPhase c.ring c.order (.decided .ok 0 0 0 0 (some (Stamp.ofTai w.tb)))).Inv :=
    State.setPhase_moves.inv (State.loopSwap_moves.inv hi)
  refine ⟨_, exec_leSwapInstant_one hon hone hdue hgrp, ?_⟩
  rw [← hcmd, hsettled]
  refine ⟨(State.notifyAt_moves.rd hs rfl n).trans hact, ?_, (State.notifyAt_moves.flag hs rfl n).trans hpend, ?_⟩
  · rw [State.loop, ← (State.notifyAt_moves.keep hs .le rfl : _ = _)]
    exact hnone
  · rw [State.Outcome, State.notifyAt_inflight hs]
    exact State.setPhase_mem (by rw [hmb]; exact List.mem_of_find?_eq_some hfind) hu _

end Sys2Proof.Machine
end

