-- ==== Sys2Proof/Proofs/LoopOverrunsAndLanes.lean ====
section
/-! LOOP_OVERRUN (R240) and LOOP_LANE_FAILURE (R268); with the commands of loops, O47. -/

namespace Sys2Proof.Machine

open Sys2Proof

/-! LOOP_OVERRUN. -/

/-- The loop whose sample in flight is lost: the law and the output from before it. -/
def LoopSt.repeated (x : LoopSt) : LoopSt := { x with law := x.old, next := x.out, overran := true, overruns := x.overruns + 1 }

/-- The registers that an overrun of a loop writes; `count` is its count after it. -/
def LoopSt.overrunWords (x : LoopSt) (n count : Nat) : List (Field × Nat × Nat × Nat) :=
  (LE_STAT_REPEAT, n, 0, b2n true) :: (LE_STAT_OVRUN, n, 0, count) ::
    [(LE_STAT_U, n, 0, x.law.u), (LE_STAT_Y, n, 0, x.law.y), (LE_STAT_R, n, 0, x.law.r), (LE_STAT_I, n, 0, x.law.i)]

/-- The state of an overrun before its notification. -/
def State.overrunShown (s : State) (n : Nat) : State :=
  (s.setLoop n (s.loop n).repeated).written ((s.loop n).repeated.overrunWords n (min 0xFFFFFFFF (s.rd LE_STAT_OVRUN n + 1)))

section overrun

variable {s : State} (hi : s.Inv) (hok : mapOk (fun _ => LoopSt.init) s.le.loops = true) (n : Nat)
include hi hok

theorem State.loopOverrun_eq : s.loopOverrun n = (s.overrunShown n).notify 0x18 7
    (if (s.loop n).overruns + 1 = 3 then 2 else 1) n ((s.loop n).overruns + 1) 0 0 := by
  have hread : (s.setLoop n (s.loop n).repeated).loop n = (s.loop n).repeated := State.setLoop_loop hok n _
  have hcount : ((s.setLoop n (s.loop n).repeated).setFlag LE_STAT_REPEAT n true).rd LE_STAT_OVRUN n = s.rd LE_STAT_OVRUN n :=
    State.rdk_wrk_beside (s := s.setLoop n (s.loop n).repeated) (f := LE_STAT_REPEAT) (g := LE_STAT_OVRUN) hi rfl n n _
  have hshown : (((s.setLoop n (s.loop n).repeated).setFlag LE_STAT_REPEAT n true).bump LE_STAT_OVRUN n 1).loopShow n =
      s.overrunShown n := by
    have hloop : (((s.setLoop n (s.loop n).repeated).setFlag LE_STAT_REPEAT n true).bump LE_STAT_OVRUN n 1).loop n =
        (s.loop n).repeated := hread
    rw [State.loopShow, hloop, State.bump, hcount, satAdd_eq_min]
    rfl
  exact congrArg (fun t : State => t.notify 0x18 7 (if (s.loop n).overruns + 1 = 3 then 2 else 1) n ((s.loop n).overruns + 1) 0 0) hshown

/-- An overrun of a loop repeats its output, takes back its law, shows REPEAT, counts and reports (R240). -/
theorem State.loopOverrun_effect :
    ((s.loopOverrun n).loop n).next = (s.loop n).out ∧ ((s.loopOverrun n).loop n).law = (s.loop n).old ∧
      (s.loopOverrun n).flag LE_STAT_REPEAT n = true ∧
      (s.loopOverrun n).rd LE_STAT_OVRUN n = min 0xFFFFFFFF (s.rd LE_STAT_OVRUN n + 1) ∧
      ⟨0x1807, if (s.loop n).overruns = 2 then 2 else 1⟩ ∈ (s.loopOverrun n).ec.arrivals := by
  have h1 : (s.setLoop n (s.loop n).repeated).Inv := hi
  have hw : (s.overrunShown n).Inv := State.written_inv h1 _
  have hle : (s.overrunShown n).le = (s.loopOverrun n).le := by
    rw [State.loopOverrun_eq hi hok n]
    exact State.notify_moves.keep hw .le rfl
  have hloop : (s.loopOverrun n).loop n = (s.loop n).repeated := by
    rw [State.loop, ← hle, State.overrunShown, State.written_le]
    exact State.setLoop_loop hok n _
  refine ⟨by rw [hloop]; rfl, by rw [hloop]; rfl, ?_, ?_, ?_⟩
  · rw [State.loopOverrun_eq hi hok n, State.notify_moves.flag hw rfl]
    exact State.flag_written_head h1 rfl rfl n true
  · rw [State.loopOverrun_eq hi hok n, State.notify_moves.rd hw rfl, State.overrunShown, LoopSt.overrunWords, State.written_cons]
    refine (State.rd_written_head (State.wrk_inv h1 _ _ _ _) rfl rfl n _).trans (Nat.mod_eq_of_lt ?_)
    exact Nat.lt_of_le_of_lt (Nat.min_le_left _ _) (by decide)
  · have hthird : (s.loop n).overruns = 2 ↔ (s.loop n).overruns + 1 = 3 := by omega
    rw [State.loopOverrun_eq hi hok n]
    simp only [hthird]
    exact State.notifyAt_mem_arrivals hw (by split <;> decide) _ _ _ _ _

end overrun

theorem exec_loopOverrun_loop {s : State} {n : Nat} (hon : s.leOn = true) (hfly : (s.loop n).flying = true)
    (hover : (s.loop n).overran = false) (hdue : (s.loop n).at_ + periodNs (s.rd LE_LOOP_RATE n) ≤ s.tai) :
    exec (.loopOverrun false n) s = .next (s.loopOverrun n) := by
  show execLoopOverrun false n s = _
  simp [execLoopOverrun, hon, hfly, hover, hdue]

theorem exec_loopOverrun_axis {s : State} {n : Nat} (hon : s.leOn = true) (hfly : (s.axis n).flying = true)
    (hover : (s.axis n).overran = false) (hdue : (s.axis n).at_ + periodNs (s.rd AX_AXIS_RATE n) ≤ s.tai) :
    exec (.loopOverrun true n) s = .next (s.axisOverrun n) := by
  show execLoopOverrun true n s = _
  simp [execLoopOverrun, hon, hfly, hover, hdue]

/-- The state of an axis before its sample in flight, and AX_STAT.STATE then. -/
def State.axisOld (s : State) (n : Nat) : AxisSt × Nat := mget (fun _ => (AxisSt.init, 0)) s.le.axOld n

/-- An overrun of an axis repeats its output, and takes the axis back unless its state changed (R240, R263). -/
theorem State.axisOverrun_effect {s : State} (hi : s.Inv) (hok : mapOk (fun _ => AxisSt.init) s.le.axes = true) (n : Nat) :
    ((s.axisOverrun n).axis n).overran = true ∧ (s.axisOverrun n).flag AX_STAT_REPEAT n = true ∧
      ((s.axisOverrun n).axis n).next = (s.axisOld n).1.u ∧
      ((s.axisOld n).2 = s.axisState n →
        ((s.axisOverrun n).axis n).u = (s.axisOld n).1.u ∧ ((s.axisOverrun n).axis n).rPos = (s.axisOld n).1.rPos) := by
  have hread := State.setAxis_axis hok n
  have haxis : ∀ x, ((s.setAxis n x).setFlag AX_STAT_REPEAT n true).axis n = x := hread
  unfold State.axisOverrun
  extract_lets x o y
  rw [haxis]
  refine ⟨rfl, State.flag_setFlag_same (s := s.setAxis n _) hi rfl n true, rfl, fun hsame => ?_⟩
  have hy : y = { x with
      pos := o.1.pos, vel := o.1.vel, rPos := o.1.rPos, vRef := o.1.vRef, aRef := o.1.aRef, iv := o.1.iv, ev := o.1.ev, u := o.1.u
      notch := o.1.notch, g := o.1.g } := if_pos hsame
  rw [hy]
  exact ⟨rfl, rfl⟩

/-! The lanes in use, which only LOOP_LANE_FAILURE changes. -/

@[simp] theorem State.settle_lanes (s : State) (a : Option (Nat × Nat)) (st : Status) (r0 r1 : Nat) (t : Option Stamp) :
    (s.settle a st r0 r1 t).le.lanes = s.le.lanes := by
  unfold State.settle
  split
  · rfl
  · split
    · split <;> rfl
    · rfl

@[simp] theorem State.axisSafe_lanes (s : State) (n : Nat) : (s.axisSafe n).le.lanes = s.le.lanes := by
  show (s.capEnd n .aborted none).le.lanes = _
  cases h : (s.axis n).cap <;> simp only [State.capEnd, h]
  exact State.settle_lanes _ _ _ _ _ _

@[simp] theorem State.loopEnter_lanes (s : State) (n st : Nat) : (s.loopEnter n st).le.lanes = s.le.lanes := by
  unfold State.loopEnter
  split
  · rfl
  · split <;> rfl

@[simp] theorem State.laneShort_lanes (s : State) (e : Bool × Nat) : (s.laneShort e).le.lanes = s.le.lanes := by
  unfold State.laneShort
  split
  · exact State.axisSafe_lanes _ _
  · split
    · rfl
    · exact State.loopEnter_lanes _ _ _

theorem State.laneShort_foldl_lanes (s : State) (l : List (Bool × Nat)) : (l.foldl State.laneShort s).le.lanes = s.le.lanes :=
  List.foldlRecOn (motive := fun t : State => t.le.lanes = s.le.lanes) _ _ rfl fun t h e _ => (t.laneShort_lanes e).trans h

@[simp] theorem State.showLanes_lanes (s : State) : s.showLanes.le.lanes = s.le.lanes := by
  refine List.foldlRecOn (motive := fun t : State => t.le.lanes = s.le.lanes) _ _ rfl fun t h e _ => ?_
  split <;> exact h

theorem State.loopOverrun_lanes {s : State} (hi : s.Inv) (n : Nat) : (s.loopOverrun n).le.lanes = s.le.lanes := by
  unfold State.loopOverrun
  extract_lets x k s1
  have hs1 : s1.Inv := hi
  have hshown : (((s1.setFlag LE_STAT_REPEAT n true).bump LE_STAT_OVRUN n 1).loopShow n).Inv :=
    State.wr_inv (State.wr_inv (State.wr_inv (State.wr_inv (State.wr_inv (State.setFlag_inv hs1 _ _ _) _ _ _) _ _ _) _ _ _) _ _ _) _ _ _
  rw [← (State.notify_moves.keep hshown .le rfl : _ = _)]
  rfl

/-- The samples in flight of the items of a lane are lost. -/
def State.flightsLost (s : State) (moved : List (Bool × Nat)) : State :=
  moved.foldl (fun s e =>
    if e.1 then (if (s.axis e.2).flying then s.axisOverrun e.2 else s)
    else if (s.loop e.2).flying then s.loopOverrun e.2 else s) s

theorem State.flightsLost_keeps {s : State} (hi : s.Inv) (moved : List (Bool × Nat)) :
    (s.flightsLost moved).Inv ∧ (s.flightsLost moved).le.lanes = s.le.lanes := by
  refine List.foldlRecOn (motive := fun t : State => t.Inv ∧ t.le.lanes = s.le.lanes) _ _ ⟨hi, rfl⟩ fun t h e _ => ?_
  obtain ⟨ht, hlanes⟩ := h
  split
  · split
    · exact ⟨State.axisOverrun_moves.inv ht, hlanes⟩
    · exact ⟨ht, hlanes⟩
  · split
    · exact ⟨State.loopOverrun_moves.inv ht, (State.loopOverrun_lanes ht _).trans hlanes⟩
    · exact ⟨ht, hlanes⟩

/-! LOOP_LANE_FAILURE. -/

/-- Lane `lane` is out of use. -/
def State.laneOut (s : State) (lane : Nat) : State := { s with le := { s.le with lanes := lane :: s.le.lanes } }

/-- The loops and axes of a lane. -/
def State.laneItems (s : State) (lane : Nat) : List (Bool × Nat) := (s.placement.filter (fun e => e.2 == some lane)).map (·.1)

/-- Lane `lane` out of use, its samples in flight lost or not. -/
def State.laneHit (s : State) (lane : Nat) (lost : Bool) : State :=
  if lost then (s.laneOut lane).flightsLost (s.laneItems lane) else s.laneOut lane

/-- The failure of a lane reported. -/
def State.laneTold (s : State) (lane : Nat) (lost : Bool) : State :=
  (s.laneHit lane lost).notify 0x18 3 2 lane (s.laneItems lane).length (s.laneOut lane).liveLanes.length 0

/-- What no lane carries. -/
def State.laneless (s : State) : List (Bool × Nat) := (s.placement.filter (fun e => e.2.isNone)).map (·.1)

/-- Lanes anew, and SAFE for what none carries. -/
def State.laneMoved (s : State) (lane : Nat) (lost : Bool) : State :=
  (s.laneTold lane lost).laneless.foldl State.laneShort (s.laneTold lane lost).showLanes

theorem exec_loopLaneFailure_fails {s : State} {lane : Nat} (lost : Bool) (hon : s.umOn = true) (hlane : lane < 4)
    (hvar : s.var ≠ .cpx9616) (hlive : lane ∉ s.le.lanes) : exec (.loopLaneFailure lane lost) s = .next
      (if (s.laneMoved lane lost).liveLanes.isEmpty then (s.laneMoved lane lost).raiseErr 0x1880 4
        else if (s.laneTold lane lost).laneless.isEmpty then s.laneMoved lane lost else (s.laneMoved lane lost).raiseErr 0x1803 3) := by
  show execLoopLaneFailure lane lost s = _
  refine (if_neg (by simp [hon, hlane, hvar, hlive])).trans ?_
  rw [apply_ite Host.Outcome.next, apply_ite Host.Outcome.next]
  rfl

section lanes

variable {s : State} (hi : s.Inv) (lane : Nat) (lost : Bool)
include hi

theorem State.laneHit_keeps : (s.laneHit lane lost).Inv ∧ (s.laneHit lane lost).le.lanes = lane :: s.le.lanes := by
  have hout : (s.laneOut lane).Inv := hi
  cases lost
  · exact ⟨hout, rfl⟩
  · exact State.flightsLost_keeps hout (s.laneItems lane)

theorem State.laneTold_keeps : (s.laneTold lane lost).Inv ∧ (s.laneTold lane lost).le.lanes = lane :: s.le.lanes ∧
    ⟨0x1803, 2⟩ ∈ (s.laneTold lane lost).ec.arrivals := by
  obtain ⟨hhit, hlanes⟩ := State.laneHit_keeps hi lane lost
  have hle : (s.laneHit lane lost).le = (s.laneTold lane lost).le := State.notify_moves.keep hhit .le rfl
  refine ⟨State.notify_moves.inv hhit, by rw [← hle, hlanes], ?_⟩
  exact State.notifyAt_mem_arrivals (unit := 0x18) (code := 3) (cls := 2) hhit (by decide) _ _ _ _ _

theorem State.laneMoved_keeps : (s.laneMoved lane lost).Inv ∧ (s.laneMoved lane lost).le.lanes = lane :: s.le.lanes ∧
    ⟨0x1803, 2⟩ ∈ (s.laneMoved lane lost).ec.arrivals := by
  obtain ⟨htold, hlanes, hmem⟩ := State.laneTold_keeps hi lane lost
  have hmoves : Moves 0x10000000000000000000000000000000000000000000000000000000000000300000002000400
      (s.laneTold lane lost) (s.laneMoved lane lost) :=
    (State.showLanes_moves.mono rfl).trans (Moves.foldl Moves.refl fun _ _ => State.laneShort_moves)
  have hgrown : (s.laneTold lane lost).ec.arrivals <+: (s.laneMoved lane lost).ec.arrivals := hmoves.keep htold .errors rfl
  refine ⟨hmoves.inv htold, ?_, hgrown.mem hmem⟩
  rw [State.laneMoved, State.laneShort_foldl_lanes, State.showLanes_lanes, hlanes]

end lanes

/-- A lane fails: it is out of use and reported, the last one with 0x1880 (R268). -/
theorem loopLaneFailure_effect {s : State} (hi : s.Inv) {lane : Nat} (lost : Bool) (hon : s.umOn = true) (hlane : lane < 4)
    (hvar : s.var ≠ .cpx9616) (hlive : lane ∉ s.le.lanes) :
    ∃ t, exec (.loopLaneFailure lane lost) s = .next t ∧ t.le.lanes = lane :: s.le.lanes ∧ ⟨0x1803, 2⟩ ∈ t.ec.arrivals ∧
      (s.liveLanes = [lane] → ⟨0x1880, 4⟩ ∈ t.ec.arrivals) := by
  obtain ⟨hmoved, hlanes, hmem⟩ := State.laneMoved_keeps hi lane lost
  have hraise : ∀ code cls, ((s.laneMoved lane lost).raiseErr code cls).le.lanes = lane :: s.le.lanes ∧
      ⟨0x1803, 2⟩ ∈ ((s.laneMoved lane lost).raiseErr code cls).ec.arrivals := fun code cls => by
    have hgrown : (s.laneMoved lane lost).ec.arrivals <+: ((s.laneMoved lane lost).raiseErr code cls).ec.arrivals :=
      State.raiseErr_moves.keep hmoved .errors rfl
    refine ⟨?_, hgrown.mem hmem⟩
    rw [← (State.raiseErr_moves.keep hmoved .le rfl : _ = _), hlanes]
  have hlast : s.liveLanes = [lane] → (s.laneMoved lane lost).liveLanes = [] := fun hone => by
    rw [State.liveLanes, List.filter_eq_nil_iff, hlanes]
    intro k hk hfree
    have hne : k ≠ lane ∧ k ∉ s.le.lanes := by simpa using hfree
    have hkeep : k ∈ s.liveLanes := List.mem_filter.2 ⟨hk, by simpa using hne.2⟩
    rw [hone] at hkeep
    exact hne.1 (List.mem_singleton.1 hkeep)
  refine ⟨_, exec_loopLaneFailure_fails lost hon hlane hvar hlive, ?_⟩
  by_cases hempty : (s.laneMoved lane lost).liveLanes.isEmpty = true
  · rw [if_pos hempty]
    exact ⟨(hraise _ _).1, (hraise _ _).2, fun _ => State.raiseErr_mem_arrivals _ _ _⟩
  · have hmore : s.liveLanes ≠ [lane] := fun hone => hempty (by rw [hlast hone]; rfl)
    rw [if_neg hempty]
    split
    · exact ⟨hlanes, hmem, fun hone => absurd hone hmore⟩
    · exact ⟨(hraise _ _).1, (hraise _ _).2, fun hone => absurd hone hmore⟩

/-! The obligation. -/

/-- Settles O47: each command by the state it leaves, each event by its effect. -/
theorem loopCommandsSwapsOverrunsAndLanes : Obligations.LoopCommandsSwapsOverrunsAndLanes := by
  unfold Obligations.LoopCommandsSwapsOverrunsAndLanes
  refine ⟨?request, ?tuning, ?expiry, ?capture, ?swap, ?overrun, ?lane⟩
  case request =>
    intro s ring idx c _ hmaps hr hp habsent hgrp hmodes hsafe
    obtain ⟨hloops, haxes, _⟩ := State.controlMapsOk_iff.1 hmaps
    refine ⟨fun hunit hn hwant hoff htune =>
        ⟨_, exec_loopState_loop hr hp habsent hgrp hmodes hsafe hunit hn hwant hoff htune, ?_, rfl, ?_⟩,
      fun hunit hn hwant hen => ⟨_, exec_loopState_axis hr hp habsent hgrp hmodes hsafe hunit hn hwant hen, ?_, rfl, ?_⟩⟩
    · exact State.setPhase_mem (s := s.setLoop _ _) hr.mem hr.undecided .started
    · exact congrArg LoopSt.req (State.setLoop_loop hloops _ _)
    · exact State.setPhase_mem (s := s.setAxis _ _) hr.mem hr.undecided .started
    · exact congrArg AxisSt.req (State.setAxis_axis haxes _ _)
  case tuning =>
    intro s ring idx c hi hmaps hr hp habsent hform hmode
    obtain ⟨hok, _⟩ := State.controlMapsOk_iff.1 hmaps
    refine ⟨fun hop hrule hst hbank hswap hbad =>
        ⟨_, s.tuneRun (objInst c.objid), exec_autotuneStart_begins hr hp habsent hform hmode hop hrule hst hbank hswap hbad,
          ?_, ?_, ?_, rfl, rfl⟩,
      fun hop r htune => ⟨_, exec_autotuneStop_ends hr hp habsent hform hmode hop, ?_, ?_⟩⟩
    · exact State.done_outcome (s := (s.setLoop _ _).wr _ _ _) hr.mem hr.undecided _ _ _ _
    · exact State.rd_wr_same (s := s.setLoop _ _) (f := LE_STAT_STATE) hi rfl _ 6
    · exact congrArg LoopSt.tune (State.setLoop_loop hok _ _)
    · have hnow : (s.tuneAbort (objInst c.objid) 5).now = s.now := by
        rw [State.now, ← (State.tuneAbort_moves.keep hi .tu rfl : _ = _), State.now]
      rw [← hnow]
      exact State.done_outcome (by rw [State.tuneAbort_inflight hi]; exact hr.mem) hr.undecided _ _ _ _
    · exact State.tuneAbort_effect hi hok htune (by decide)
  case expiry =>
    intro s n r hi hmaps _ hon htune hdue
    obtain ⟨hok, _⟩ := State.controlMapsOk_iff.1 hmaps
    exact ⟨_, exec_autotuneTmaxExpiry_due hon htune hdue, State.tuneAbort_effect hi hok htune (by decide)⟩
  case capture =>
    intro s ring idx c hi hmaps hr hp habsent hunit hgrp hn hfin hpos hauth hmodes hst hloop
    obtain ⟨_, hok, _⟩ := State.controlMapsOk_iff.1 hmaps
    refine ⟨_, ⟨c.ref, (c.par 0).toNat, 0, (s.axis (objInst c.objid)).rPos, [], []⟩,
      exec_tableCapture_begins hr hp habsent hunit hgrp hn hfin hpos hauth hmodes hst hloop, ?_, ?_, ?_, rfl, rfl, rfl, rfl⟩
    · exact State.setPhase_mem (s := (s.wr AX_STAT_STATE _ 6).setAxis _ _) hr.mem hr.undecided .started
    · exact State.rd_wr_same (f := AX_STAT_STATE) hi rfl _ 6
    · exact congrArg AxisSt.cap (State.setAxis_axis hok _ _)
  case swap =>
    intro s n w c hi hmaps _ hon hone hdue hbank hgrp hcmd hfind hu
    obtain ⟨hok, _⟩ := State.controlMapsOk_iff.1 hmaps
    exact leSwapInstant_effect hi hok hon hone hdue hbank hgrp hcmd hfind hu
  case overrun =>
    intro s n hi hmaps hon
    obtain ⟨hloops, haxes, _⟩ := State.controlMapsOk_iff.1 hmaps
    exact ⟨fun _ hfly hover hdue => ⟨_, exec_loopOverrun_loop hon hfly hover hdue, State.loopOverrun_effect hi hloops n⟩,
      fun _ hfly hover hdue => ⟨_, exec_loopOverrun_axis hon hfly hover hdue, State.axisOverrun_effect hi haxes n⟩⟩
  case lane =>
    intro s lane lost hi hon hlane hvar hlive
    exact loopLaneFailure_effect hi lost hon hlane hvar hlive

end Sys2Proof.Machine
end

