-- ==== Sys2Proof/Proofs/LogicTables.lean ====
section
/-! The registers and tables of the logic engine: what each operation of a cycle leaves of a register field, of the tasks and of the
Q images. -/

namespace Sys2Proof.Machine

open Sys2Proof

/-! A field that a piece of a command leaves alone. -/

/-- From a good state, the second state is good and shows the field of every index as the first does. -/
def State.KeepsField (f : Field) (s t : State) : Prop := s.Inv → t.Inv ∧ ∀ i, t.rd f i = s.rd f i

theorem State.KeepsField.refl (f : Field) (s : State) : s.KeepsField f s := fun hi => ⟨hi, fun _ => rfl⟩

theorem State.KeepsField.trans {f : Field} {a b c : State} (h1 : a.KeepsField f b) (h2 : b.KeepsField f c) : a.KeepsField f c := by
  intro hi
  obtain ⟨hb, hab⟩ := h1 hi
  obtain ⟨hc, hbc⟩ := h2 hb
  exact ⟨hc, fun i => (hbc i).trans (hab i)⟩

theorem State.KeepsField.foldl {α : Type} {f : Field} {step : State → α → State} (hstep : ∀ st a, State.KeepsField f st (step st a))
    (l : List α) (s : State) : s.KeepsField f (l.foldl step s) :=
  List.foldlRecOn (motive := fun t => s.KeepsField f t) _ _ (.refl f s) fun t h a _ => h.trans (hstep t a)

theorem State.KeepsField.ite {f : Field} {s a b : State} {p : Prop} [Decidable p] (ha : s.KeepsField f a) (hb : s.KeepsField f b) :
    s.KeepsField f (if p then a else b) := by
  split
  · exact ha
  · exact hb

theorem Moves.keepsField {m : Nat} {s t : State} (h : Moves m s t) {f : Field} (hb : m.testBit (Part.regs f.unit).bit = false) :
    s.KeepsField f t := fun hi => ⟨h.inv hi, h.rd hi hb⟩

/-- A write of a field beside it. -/
theorem State.keepsField_wrk {f g : Field} {k : Nat} (h : g.beside f k 0 = true) (s : State) (i v : Nat) :
    s.KeepsField f (s.wrk g i k v) := fun hi => ⟨State.wrk_inv hi _ _ _ _, fun j => State.rdk_wrk_beside hi h i j v⟩

theorem State.keepsField_wr {f g : Field} (h : g.beside f 0 0 = true) (s : State) (i v : Nat) : s.KeepsField f (s.wr g i v) :=
  State.keepsField_wrk h s i v

theorem State.keepsField_bump {f g : Field} (h : g.beside f 0 0 = true) (s : State) (i n : Nat) : s.KeepsField f (s.bump g i n) :=
  State.keepsField_wrk h s i _

/-- No write of one of the fields reaches `f`. -/
def Field.besideEach (f : Field) (l : List Field) : Bool := l.all (fun g => g.beside f 0 0)

theorem Field.besideEach_mem {f g : Field} {l : List Field} (h : f.besideEach l = true) (hg : g ∈ l) : g.beside f 0 0 = true :=
  List.all_eq_true.1 h g hg

theorem State.keepsField_notify {f : Field} (hf : f.unit = 0x20) (s : State) (unit code cls p0 p1 p2 p3 : Nat) :
    s.KeepsField f (s.notify unit code cls p0 p1 p2 p3) := State.notify_moves.keepsField (by rw [hf]; decide)

theorem State.keepsField_busyTo (f : Field) (s : State) (k : Nat) : s.KeepsField f (s.busyTo k) := fun hi => ⟨hi, fun _ => rfl⟩

theorem State.keepsField_setLgTask (f : Field) (s : State) (n : Nat) (x : LgTask) : s.KeepsField f (s.setLgTask n x) :=
  fun hi => ⟨hi, fun _ => rfl⟩

theorem State.keepsField_cycleTime {f : Field} (h : f.besideEach [LG_TSTAT_LAST, LG_TSTAT_MIN, LG_TSTAT_MAX] = true) (s : State)
    (n : Nat) : s.KeepsField f (s.cycleTime n) := by
  have hwr : ∀ g ∈ [LG_TSTAT_LAST, LG_TSTAT_MIN, LG_TSTAT_MAX], ∀ (t : State) (v : Nat), t.KeepsField f (t.wr g n v) :=
    fun g hg t v => State.keepsField_wr (Field.besideEach_mem h hg) t n v
  unfold State.cycleTime
  extract_lets x t s1 s2
  have h1 : s.KeepsField f s1 := hwr _ (by simp) _ _
  have h2 : s.KeepsField f s2 := .ite (h1.trans (hwr _ (by simp) _ _)) h1
  exact .ite (.refl f s) (.ite (h2.trans (hwr _ (by simp) _ _)) h2)

theorem State.keepsField_undoMark {f : Field} (h : LG_CORE_UNDO_HWM.beside f 0 0 = true) (s : State) (k entries : Nat) :
    s.KeepsField f (s.undoMark k entries) := .ite (State.keepsField_wr h _ _ _) (.refl f s)

/-- LG_ERR is field group 4. -/
theorem State.keepsField_lgErrShow {f : Field} (hf : f.grp % 256 ≠ 4) (s : State) (c : LgCause) : s.KeepsField f (s.lgErrShow c) :=
  .foldl (step := fun st (e : Nat × Nat) => st.putWord 0x20 4 0 e.2 (BitVec.ofNat 32 e.1)) (fun _ _ hi =>
    ⟨⟨mset_ok hi.1, hi.2⟩, fun _ => congrArg (W32.get · f.hi f.lo) (State.word_putWord_ne hi _ (.inr (.inl hf)))⟩) _ s

theorem State.keepsField_waitCause {f : Field} (hf : f.grp % 256 ≠ 4) (s : State) (core : Nat) (c : LgCause) :
    s.KeepsField f (s.waitCause core c) := by
  unfold State.waitCause
  extract_lets _ s1
  have hmerged : s.KeepsField f s1 := fun hi => ⟨hi, fun _ => rfl⟩
  exact .ite (.refl f s) (.ite (fun hi => ⟨hi, fun _ => rfl⟩) (hmerged.trans (State.keepsField_lgErrShow hf _ _)))

theorem State.keepsField_causeAt {f : Field} (hf : f.grp % 256 ≠ 4) (s : State) (arose core cause task par0 par1 index : Nat) :
    s.KeepsField f (s.causeAt arose core cause task par0 par1 index) := by
  have hrec : ∀ (t : State) (p0 p1 p2 p3 p4 p5 : Nat) (b : Bool), t.KeepsField f (t.stateRec p0 p1 p2 p3 p4 p5 b) :=
    fun t _ _ _ _ _ _ _ hi => ⟨State.stateRec_moves.inv hi, fun i => State.handOff_rd t _ _ f i⟩
  exact ((State.keepsField_lgErrShow hf _ _).trans (hrec _ _ _ _ _ _ _ _)).trans (State.keepsField_waitCause hf _ _ _)

theorem State.keepsField_dropCycle {f : Field} (s : State) (n : Nat) : s.KeepsField f (s.dropCycle n) := by
  unfold State.dropCycle
  extract_lets x
  split
  · exact .refl f s
  · exact fun hi => ⟨hi, fun _ => rfl⟩

/-- LG_CORE.NTASK and LG_CORE.STATE are all that `lgShow` writes. -/
theorem State.keepsField_lgShow {f : Field} (h : f.besideEach [LG_CORE_NTASK, LG_CORE_STATE] = true) (s : State) :
    s.KeepsField f s.lgShow := by
  refine .foldl (fun st k => ?_) _ s
  have hshown := State.keepsField_wr (Field.besideEach_mem h (g := LG_CORE_NTASK) (by simp)) st k (st.homed k).length
  exact .ite hshown (hshown.trans (State.keepsField_wr (Field.besideEach_mem h (by simp)) _ _ _))

theorem State.keepsField_moveCauses {f : Field} (hf : f.grp % 256 ≠ 4) (s : State) (core k : Nat) :
    s.KeepsField f (s.moveCauses core k) := by
  unfold State.moveCauses
  extract_lets _ s1
  have h1 : s.KeepsField f s1 := fun hi => ⟨hi, fun _ => rfl⟩
  exact h1.trans (.foldl (fun st c => State.keepsField_waitCause hf st _ c) _ _)

/-- A count of 16 bits saturates. -/
theorem State.bump_half {s : State} (hi : s.Inv) {f : Field} (hf : f.fits = true) (hw : f.hi + 1 - f.lo = 16) (n : Nat) :
    (s.bump f n 1).rd f n = min 0xFFFF (s.rd f n + 1) := by
  rw [State.bump, State.rd_wr_same hi hf, satAdd_eq_min, hw]
  exact Nat.mod_eq_of_lt (show min 0xFFFF _ < 2 ^ 16 by omega)

/-! The tables of tasks and of Q. -/

/-- A task reads back where the table is in its canonical form, and any but the initial one from any table. -/
theorem State.setLgTask_lgTask {s : State} {n : Nat} {x : LgTask}
    (h : mapOk (fun _ => LgTask.init) s.lg.tasks = true ∨ x ≠ LgTask.init) : (s.setLgTask n x).lgTask n = x :=
  h.elim (mget_mset_same n x s.lg.tasks) fun hx => mget_mset_of_ne (d := fun _ => LgTask.init) hx s.lg.tasks

/-- A task that had a snapshot is not the initial one. -/
theorem LgTask.ne_init {x : LgTask} (h : x.lastSnap ≠ 0) : x ≠ LgTask.init := by
  rintro rfl
  exact h rfl

theorem State.lgTask_of_lg {s t : State} (h : t.lg = s.lg) (n : Nat) : t.lgTask n = s.lgTask n := by
  rw [State.lgTask, h, State.lgTask]

theorem State.notify_lg {s : State} (hi : s.Inv) (unit code cls p0 p1 p2 p3 : Nat) : (s.notify unit code cls p0 p1 p2 p3).lg = s.lg :=
  (State.notify_moves.keep hi .lg rfl).symm

theorem State.handOff_lg (s : State) (unit : Nat) (r : EvRec) : (s.handOff unit r).lg = s.lg := by
  rw [State.handOff]
  split <;> rfl

theorem State.lgErrShow_lg (s : State) (c : LgCause) : (s.lgErrShow c).lg = s.lg := rfl

theorem State.waitCause_lg (s : State) (core : Nat) (c : LgCause) :
    (s.waitCause core c).lg.tasks = s.lg.tasks ∧ (s.waitCause core c).lg.q = s.lg.q := by
  unfold State.waitCause
  split
  · exact ⟨rfl, rfl⟩
  · split <;> exact ⟨rfl, rfl⟩

/-- A cause is recorded, and waits; no task and no Q byte changes. -/
theorem State.taskCause_lg (s : State) (cause task par0 par1 index : Nat) :
    (s.taskCause cause task par0 par1 index).lg.tasks = s.lg.tasks ∧ (s.taskCause cause task par0 par1 index).lg.q = s.lg.q := by
  have hrec : ∀ (t : State) (p0 p1 p2 p3 p4 p5 : Nat) (b : Bool), (t.stateRec p0 p1 p2 p3 p4 p5 b).lg = t.lg :=
    fun t _ _ _ _ _ _ _ => State.handOff_lg t _ _
  unfold State.taskCause State.causeOn State.causeAt
  extract_lets c
  obtain ⟨htasks, hq⟩ := State.waitCause_lg
    ((s.lgErrShow c).stateRec 0x20 (cause % 256) (task % 256) (par0 % 2 ^ 32) (par1 % 2 ^ 32) index false) (s.rd LG_TASK_HOME task) c
  rw [hrec, State.lgErrShow_lg] at htasks hq
  exact ⟨htasks, hq⟩

theorem State.safeOutputs_tasks (s : State) (n : Nat) : (s.safeOutputs n).lg.tasks = s.lg.tasks :=
  List.foldlRecOn (motive := fun t : State => t.lg.tasks = s.lg.tasks) _ _ rfl fun _ h _ _ => h

/-! The error task. -/

/-- Only a task of kind 2 is the error task. -/
theorem State.errorTask_ne {s : State} {n : Nat} (h : s.rd LG_TASK_KIND n ≠ 2) : s.errorTask ≠ some n := by
  intro herr
  exact h (beq_iff_eq.1 (List.find?_some (p := fun k => s.rd LG_TASK_KIND k == 2) herr))

/-- The error task is a matter of LG_TASK.EN and LG_TASK.KIND. -/
theorem State.errorTask_congr {s t : State} (hen : ∀ i, t.rd LG_TASK_EN i = s.rd LG_TASK_EN i)
    (hkind : ∀ i, t.rd LG_TASK_KIND i = s.rd LG_TASK_KIND i) : t.errorTask = s.errorTask := by
  simp only [State.errorTask, State.lgTasks, State.flag, hen, hkind]

end Sys2Proof.Machine
end

