-- ==== Sys2Proof/Proofs/LogicCycles.lean ====
section
/-! A logic cycle from its snapshot (R288) to its output write (R290), or to its end by a fault or the watchdog (R294). -/

namespace Sys2Proof.Machine

open Sys2Proof

/-! A cycle dropped (R293, R294). -/

/-- A task whose cycle is over: a trigger latched during it pends. -/
def LgTask.closed (x : LgTask) : LgTask := { x with open_ := none, pend := x.pend || x.latched, latched := false }

/-- The open cycle dropped and counted. -/
def State.cycleDropped (s : State) (n : Nat) : State := (s.dropCycle n).bump LG_TSTAT_ABANDON n 1

theorem State.cycleDropped_moves (s : State) (n : Nat) : Moves 0x10000000010000000 s (s.cycleDropped n) :=
  Moves.bump (State.dropCycle_moves.mono rfl) rfl

theorem State.cycleDropped_q (s : State) (n : Nat) : (s.cycleDropped n).lg.q = s.lg.q := by
  show (s.dropCycle n).lg.q = _
  unfold State.dropCycle
  extract_lets x
  split <;> rfl

theorem State.cycleDropped_causes (s : State) (n core : Nat) : (s.cycleDropped n).causes core = s.causes core := by
  show (s.dropCycle n).causes core = _
  unfold State.dropCycle
  extract_lets x
  split <;> rfl

/-- LG_TSTAT.ABANDON counts the cycle dropped. -/
theorem State.cycleDropped_abandoned {s : State} (hi : s.Inv) (n : Nat) :
    (s.cycleDropped n).rd LG_TSTAT_ABANDON n = min 0xFFFF (s.rd LG_TSTAT_ABANDON n + 1) := by
  obtain ⟨hdrop, hkeep⟩ := State.keepsField_dropCycle (f := LG_TSTAT_ABANDON) s n hi
  rw [State.cycleDropped, State.bump_half hdrop rfl rfl, hkeep]

/-- The table of tasks reads back what becomes of task `n`: it is in its canonical form, or the task had a snapshot. -/
def State.taskStands (s : State) (n : Nat) : Prop :=
  mapOk (fun _ => LgTask.init) s.lg.tasks = true ∨ (s.lgTask n).lastSnap ≠ 0

theorem State.cycleDropped_lgTask {s : State} {n : Nat} {o : LgOpen} (hopen : (s.lgTask n).open_ = some o) (hst : s.taskStands n) :
    (s.cycleDropped n).lgTask n = (s.lgTask n).closed := by
  show (s.dropCycle n).lgTask n = _
  unfold State.dropCycle
  extract_lets x
  split
  next hnone => exact absurd (hopen.symm.trans hnone) (by simp)
  next => exact State.setLgTask_lgTask (hst.imp id LgTask.ne_init)

/-! A cycle abandoned (R294). -/

/-- The cycle of a user task abandoned, its cause on the way to the error task, and the class B error raised. -/
def State.abandonTold (s : State) (n cause par1 index : Nat) : State :=
  (((s.cycleDropped n).setLgTask n
    { (s.cycleDropped n).lgTask n with fails := ((s.cycleDropped n).lgTask n).fails + 1 }).taskCause cause n n par1 index).notify
      0x20 1 2 n cause 0 0

/-- The second abandonment in succession stops the task. -/
def State.taskStopped (s : State) (n : Nat) : State := ((s.wr LG_TASK_STOPPED n 1).safeOutputs n).notify 0x20 2 3 n 0 0 0

theorem State.abandon_user {s : State} {n : Nat} (herr : s.errorTask ≠ some n) (cause par1 index : Nat) :
    s.abandon n cause par1 index = if ((s.cycleDropped n).lgTask n).fails = 0 then s.abandonTold n cause par1 index
      else (s.abandonTold n cause par1 index).taskStopped n := if_neg herr

theorem State.abandon_errorTask {s : State} {n : Nat} (herr : s.errorTask = some n) (cause par1 index : Nat) :
    s.abandon n cause par1 index = (s.cycleDropped n).notify 0x20 1 3 n cause 0 0 := if_pos herr

/-- What becomes of a user task and of the errors when its open cycle is abandoned: the cycle is closed, counted and reported; the task
stops unless it is the first abandonment in succession, which leaves Q and its demands (R294). -/
structure State.CycleAbandoned (s t : State) (n : Nat) : Prop where
  closed : (t.lgTask n).open_ = none
  counted : t.rd LG_TSTAT_ABANDON n = min 0xFFFF (s.rd LG_TSTAT_ABANDON n + 1)
  fails : (t.lgTask n).fails = (s.lgTask n).fails + 1
  raised : ⟨0x2001, 2⟩ ∈ t.ec.arrivals
  stopped : (s.lgTask n).fails ≠ 0 → t.flag LG_TASK_STOPPED n = true ∧ ⟨0x2002, 3⟩ ∈ t.ec.arrivals
  quiet : (s.lgTask n).fails = 0 → t.lg.q = s.lg.q ∧ t.um = s.um

section abandon

variable {s : State} (hi : s.Inv) {n : Nat} {o : LgOpen} (hopen : (s.lgTask n).open_ = some o) (hst : s.taskStands n)

theorem State.abandonTold_moves (s : State) (n cause par1 index : Nat) :
    Moves 0x1000000000000000000000000000000000000000000000000000000010000000010006c00 s (s.abandonTold n cause par1 index) :=
  ((((s.cycleDropped_moves n).mono rfl).trans (State.setLgTask_moves.mono rfl)).trans (State.taskCause_moves.mono rfl)).trans
    (State.notify_moves.mono rfl)

include hi in
theorem State.abandonTold_lg (cause par1 index : Nat) :
    (s.abandonTold n cause par1 index).lg.q = s.lg.q ∧ (s.abandonTold n cause par1 index).lg.tasks =
      ((s.cycleDropped n).setLgTask n
        { (s.cycleDropped n).lgTask n with fails := ((s.cycleDropped n).lgTask n).fails + 1 }).lg.tasks := by
  have hdropped : (s.cycleDropped n).Inv := (s.cycleDropped_moves n).inv hi
  unfold State.abandonTold
  generalize hy : { (s.cycleDropped n).lgTask n with fails := ((s.cycleDropped n).lgTask n).fails + 1 } = y
  have hset : ((s.cycleDropped n).setLgTask n y).Inv := hdropped
  obtain ⟨htasks, hq⟩ := State.taskCause_lg ((s.cycleDropped n).setLgTask n y) cause n n par1 index
  rw [State.notify_lg (State.taskCause_moves.inv hset)]
  exact ⟨hq.trans (s.cycleDropped_q n), htasks⟩

include hi hopen hst in
theorem State.abandonTold_lgTask (cause par1 index : Nat) :
    (s.abandonTold n cause par1 index).lgTask n = { (s.lgTask n).closed with fails := (s.lgTask n).fails + 1 } := by
  obtain ⟨-, htasks⟩ := State.abandonTold_lg hi (n := n) cause par1 index
  rw [State.lgTask, htasks, State.cycleDropped_lgTask hopen hst]
  exact State.setLgTask_lgTask (.inr fun h => absurd (congrArg LgTask.fails h) (Nat.succ_ne_zero _))

include hi in
theorem State.abandonTold_abandoned (cause par1 index : Nat) :
    (s.abandonTold n cause par1 index).rd LG_TSTAT_ABANDON n = min 0xFFFF (s.rd LG_TSTAT_ABANDON n + 1) := by
  have hkeep : (s.cycleDropped n).KeepsField LG_TSTAT_ABANDON (s.abandonTold n cause par1 index) :=
    ((State.keepsField_setLgTask _ _ _ _).trans (State.keepsField_causeAt (by decide) _ _ _ _ _ _ _ _)).trans
      (State.keepsField_notify rfl _ _ _ _ _ _ _ _)
  rw [(hkeep ((s.cycleDropped_moves n).inv hi)).2, State.cycleDropped_abandoned hi]

include hi in
theorem State.abandonTold_arrives (cause par1 index : Nat) : ⟨0x2001, 2⟩ ∈ (s.abandonTold n cause par1 index).ec.arrivals := by
  refine State.notifyAt_mem_arrivals (unit := 0x20) (code := 1) (cls := 2) ?_ (by decide) _ _ _ _ _
  exact State.taskCause_moves.inv (State.setLgTask_moves.inv ((s.cycleDropped_moves n).inv hi))

/-- A task is stopped with a class C error, its abandonments as they were. -/
theorem State.taskStopped_effect {s : State} (hi : s.Inv) (n : Nat) :
    (s.taskStopped n).lg.tasks = s.lg.tasks ∧ (s.taskStopped n).flag LG_TASK_STOPPED n = true ∧
      (s.taskStopped n).rd LG_TSTAT_ABANDON n = s.rd LG_TSTAT_ABANDON n ∧ ⟨0x2002, 3⟩ ∈ (s.taskStopped n).ec.arrivals ∧
      s.ec.arrivals <+: (s.taskStopped n).ec.arrivals := by
  have hwr : (s.wr LG_TASK_STOPPED n 1).Inv := State.wr_inv hi _ _ _
  have hsafe : ((s.wr LG_TASK_STOPPED n 1).safeOutputs n).Inv := State.safeOutputs_moves.inv hwr
  have hmoves : Moves 0x1000000000000000000000000000000000000000000000000000000000000000010806c00 (s.wr LG_TASK_STOPPED n 1)
      (s.taskStopped n) := (State.safeOutputs_moves.mono rfl).trans (State.notify_moves.mono rfl)
  refine ⟨?_, ?_, ?_, ?_, hmoves.keep hwr .errors rfl⟩
  · rw [State.taskStopped, State.notify_lg hsafe, State.safeOutputs_tasks]
    rfl
  · rw [hmoves.flag hwr rfl]
    exact State.flag_setFlag_same hi (f := LG_TASK_STOPPED) rfl n true
  · rw [hmoves.rd hwr rfl]
    exact State.rdk_wrk_beside hi (f := LG_TASK_STOPPED) (g := LG_TSTAT_ABANDON) rfl _ _ _
  · exact State.notifyAt_mem_arrivals (unit := 0x20) (code := 2) (cls := 3) hsafe (by decide) _ _ _ _ _

include hi hopen hst in
/-- An abandonment ends so, whatever its cause. -/
theorem State.abandon_effect (herr : s.errorTask ≠ some n) (cause par1 index : Nat) :
    s.CycleAbandoned (s.abandon n cause par1 index) n := by
  have htold := State.abandonTold_lgTask hi hopen hst cause par1 index
  have hcount := State.abandonTold_abandoned hi (n := n) cause par1 index
  have hmem := State.abandonTold_arrives hi (n := n) cause par1 index
  have hmoves := State.abandonTold_moves s n cause par1 index
  have hfails : ((s.cycleDropped n).lgTask n).fails = (s.lgTask n).fails := by rw [State.cycleDropped_lgTask hopen hst]; rfl
  rw [State.abandon_user herr, hfails]
  split
  next hfirst =>
    exact ⟨by rw [htold]; rfl, hcount, by rw [htold], hmem, fun h => absurd hfirst h, fun _ =>
      ⟨(State.abandonTold_lg hi _ _ _).1, (hmoves.keep hi .um rfl).symm⟩⟩
  next hagain =>
    obtain ⟨htasks, hflag, habandon, hstop, hgrown⟩ := State.taskStopped_effect (hmoves.inv hi) n
    have htask : ((s.abandonTold n cause par1 index).taskStopped n).lgTask n = (s.abandonTold n cause par1 index).lgTask n :=
      congrArg (mget (fun _ => LgTask.init) · n) htasks
    have htold' := htask.trans htold
    exact ⟨by rw [htold']; rfl, habandon.trans hcount, by rw [htold'], hgrown.mem hmem, fun _ => ⟨hflag, hstop⟩,
      fun h => absurd h hagain⟩

end abandon

/-! LOGIC_CYCLE_SNAPSHOT. -/

/-- The execution of a task at its snapshot. -/
def State.snapRun (s : State) (n : Nat) : State × LgOpen := ((s.cycleTime n).busyTo (s.rd LG_TASK_HOME n)).execTask n none

/-- The task with its cycle open. -/
def State.snapTask (s : State) (n : Nat) : LgTask :=
  { (s.snapRun n).1.lgTask n with
    open_ := some (s.snapRun n).2, lastSnap := s.elapsed + 1, minInt := s.rd LG_TASK_MIN_INT n, pend := false }

/-- The state with the cycle open. -/
def State.snapTaken (s : State) (n : Nat) : State :=
  ((s.snapRun n).1.setLgTask n (s.snapTask n)).undoMark (s.rd LG_TASK_HOME n) (s.snapRun n).2.entries

section snapshot

variable {s : State} {n : Nat} (hn : n < 64) (hon : s.lgOn = true) (hfree : s.lgFree = true) (hready : s.taskReady n = true)
  (hcore : s.coreFree n = true)

include hn hon hfree hready hcore in
theorem exec_logicCycleSnapshot_opens (hend : ∀ k i, (s.snapRun n).2.ended ≠ .fault k i) :
    exec (.logicCycleSnapshot n) s = .next (s.snapTaken n) := by
  show execLogicCycleSnapshot n s = _
  refine (if_neg (by simp [hon, hfree, hready, hcore, hn])).trans ?_
  extract_lets s0 r x s1
  split
  next k i hfault => exact absurd hfault (hend k i)
  next => rfl

include hn hon hfree hready hcore in
theorem exec_logicCycleSnapshot_faults {k i : Nat} (hend : (s.snapRun n).2.ended = .fault k i) :
    exec (.logicCycleSnapshot n) s = .next ((s.snapTaken n).abandon n k i i) := by
  show execLogicCycleSnapshot n s = _
  refine (if_neg (by simp [hon, hfree, hready, hcore, hn])).trans ?_
  extract_lets s0 r x s1
  split
  next k' i' hfault =>
    obtain ⟨rfl, rfl⟩ := LgEnd.fault.inj (hend.symm.trans hfault)
    rfl
  next hno => exact absurd hend (hno k i)

end snapshot

theorem State.undoMark_lg (s : State) (k entries : Nat) : (s.undoMark k entries).lg = s.lg := by
  rw [State.undoMark]
  split <;> rfl

theorem State.undoMark_um (s : State) (k entries : Nat) : (s.undoMark k entries).um = s.um := by
  rw [State.undoMark]
  split <;> rfl

/-- The busy time of a core is counted. -/
theorem State.busyTo_keeps (s : State) (k : Nat) : (s.busyTo k).lg.tasks = s.lg.tasks ∧ (s.busyTo k).lg.q = s.lg.q ∧
    (s.busyTo k).lg.causes = s.lg.causes := ⟨rfl, rfl, rfl⟩

/-- An execution writes M and draws free values. -/
theorem State.execTask_keeps (s : State) (n : Nat) (err : Option LgCause) : (s.execTask n err).1.lg.tasks = s.lg.tasks ∧
    (s.execTask n err).1.lg.q = s.lg.q ∧ (s.execTask n err).1.lg.causes = s.lg.causes ∧ (s.execTask n err).1.um = s.um :=
  ⟨rfl, rfl, rfl, rfl⟩

theorem State.snapTaken_lgTask (s : State) (n : Nat) : (s.snapTaken n).lgTask n = s.snapTask n :=
  (State.lgTask_of_lg (State.undoMark_lg _ _ _) n).trans
    (State.setLgTask_lgTask (.inr (LgTask.ne_init (Nat.succ_ne_zero _))))

section taken

variable {s : State} (hi : s.Inv) (n : Nat)
include hi

theorem State.cycleTime_lg : (s.cycleTime n).lg = s.lg := (State.cycleTime_moves.keep hi .lg rfl).symm

/-- A snapshot changes neither Q nor the demands of logic. -/
theorem State.snapTaken_q : (s.snapTaken n).lg.q = s.lg.q ∧ (s.snapTaken n).um = s.um := by
  have hum : (s.cycleTime n).um = s.um := (State.cycleTime_moves.keep hi .um rfl).symm
  obtain ⟨-, hbusy, -⟩ := State.busyTo_keeps (s.cycleTime n) (s.rd LG_TASK_HOME n)
  obtain ⟨-, hrun, -, hum'⟩ := State.execTask_keeps ((s.cycleTime n).busyTo (s.rd LG_TASK_HOME n)) n none
  rw [State.snapTaken, State.undoMark_lg, State.undoMark_um]
  exact ⟨(hrun.trans hbusy).trans (congrArg LgSt.q (State.cycleTime_lg hi n)), hum'.trans hum⟩

/-- The abandonments in succession as they were. -/
theorem State.snapTask_fails : (s.snapTask n).fails = (s.lgTask n).fails := by
  obtain ⟨hbusy, -⟩ := State.busyTo_keeps (s.cycleTime n) (s.rd LG_TASK_HOME n)
  obtain ⟨htasks, -⟩ := State.execTask_keeps ((s.cycleTime n).busyTo (s.rd LG_TASK_HOME n)) n none
  have hrun : (s.snapRun n).1.lg.tasks = s.lg.tasks :=
    (htasks.trans hbusy).trans (congrArg LgSt.tasks (State.cycleTime_lg hi n))
  exact congrArg (fun l => (mget (fun _ => LgTask.init) l n).fails) hrun

theorem State.snapRun_at : (s.snapRun n).2.snapAt = s.elapsed := (State.cycleTime_moves.keep hi .elapsed rfl).symm

omit hi in
/-- A snapshot writes the cycle times of its task and the high-water mark of a core. -/
theorem State.keepsField_snapTaken {f : Field} (h : f.besideEach [LG_TSTAT_LAST, LG_TSTAT_MIN, LG_TSTAT_MAX] = true)
    (hmark : LG_CORE_UNDO_HWM.beside f 0 0 = true) (hu : f.unit = 0x20) : s.KeepsField f (s.snapTaken n) := by
  have hrun : s.KeepsField f (s.snapRun n).1 :=
    ((State.keepsField_cycleTime h s n).trans (State.keepsField_busyTo f _ _)).trans
      (State.execTask_moves.keepsField (by rw [hu]; decide))
  exact (hrun.trans (State.keepsField_setLgTask f _ _ _)).trans (State.keepsField_undoMark hmark _ _ _)

end taken

/-- A task that is ready is no error task. -/
theorem State.taskReady_kind {s : State} {n : Nat} (h : s.taskReady n = true) : s.rd LG_TASK_KIND n ≠ 2 := by
  intro hkind
  simp [State.taskReady, hkind] at h

/-- A fault abandons the cycle just opened. -/
theorem State.snapTaken_abandon {s : State} (hi : s.Inv) {n : Nat} (hready : s.taskReady n = true) (cause par1 index : Nat) :
    (s.snapTaken n).CycleAbandoned ((s.snapTaken n).abandon n cause par1 index) n := by
  obtain ⟨htaken, hkind⟩ := State.keepsField_snapTaken n (f := LG_TASK_KIND) rfl rfl rfl hi
  have htask := State.snapTaken_lgTask s n
  refine State.abandon_effect (o := (s.snapRun n).2) htaken (by rw [htask]; rfl) (.inr ?_) (State.errorTask_ne ?_) cause par1 index
  · rw [htask]
    exact Nat.succ_ne_zero _
  · rw [hkind]
    exact State.taskReady_kind hready

/-- A fault at the snapshot of a task that had no abandonment before it (R294). -/
theorem logicCycleSnapshot_fault_effect {s : State} (hi : s.Inv) {n : Nat} (hn : n < 64) (hon : s.lgOn = true)
    (hfree : s.lgFree = true) (hready : s.taskReady n = true) (hcore : s.coreFree n = true) {k i : Nat}
    (hend : (s.snapRun n).2.ended = .fault k i) (hfails : (s.lgTask n).fails = 0) :
    ∃ t, exec (.logicCycleSnapshot n) s = .next t ∧ (t.lgTask n).open_ = none ∧ (t.lgTask n).fails = 1 ∧
      t.rd LG_TSTAT_ABANDON n = min 0xFFFF (s.rd LG_TSTAT_ABANDON n + 1) ∧ ⟨0x2001, 2⟩ ∈ t.ec.arrivals ∧
      t.lg.q = s.lg.q ∧ t.um.q = s.um.q := by
  have habandoned := (State.keepsField_snapTaken n (f := LG_TSTAT_ABANDON) rfl rfl rfl hi).2 n
  have hzero : ((s.snapTaken n).lgTask n).fails = 0 := by rw [State.snapTaken_lgTask, State.snapTask_fails hi, hfails]
  have heffect := State.snapTaken_abandon hi hready k i i
  obtain ⟨hq, hum⟩ := heffect.quiet hzero
  obtain ⟨hq', hum'⟩ := State.snapTaken_q hi n
  exact ⟨_, exec_logicCycleSnapshot_faults hn hon hfree hready hcore hend, heffect.closed, heffect.fails.trans (by rw [hzero]),
    heffect.counted.trans (by rw [habandoned]), heffect.raised, hq.trans hq', by rw [hum, hum']⟩

/-- Any other end leaves the cycle open, with what it staged (R288). -/
theorem logicCycleSnapshot_open_effect {s : State} (hi : s.Inv) {n : Nat} (hn : n < 64) (hon : s.lgOn = true)
    (hfree : s.lgFree = true) (hready : s.taskReady n = true) (hcore : s.coreFree n = true)
    (hend : ∀ k i, (s.snapRun n).2.ended ≠ .fault k i) :
    ∃ t, exec (.logicCycleSnapshot n) s = .next t ∧ (t.lgTask n).open_ = some (s.snapRun n).2 ∧ (s.snapRun n).2.snapAt = s.elapsed ∧
      t.lg.m = (s.snapRun n).1.lg.m ∧ t.lg.q = s.lg.q ∧ t.um.q = s.um.q := by
  obtain ⟨hq, hum⟩ := State.snapTaken_q hi n
  refine ⟨_, exec_logicCycleSnapshot_opens hn hon hfree hready hcore hend, ?_, State.snapRun_at hi n, ?_, hq, by rw [hum]⟩
  · rw [State.snapTaken_lgTask]
    rfl
  · rw [State.snapTaken, State.undoMark_lg]
    rfl

/-! LOGIC_OUTPUT_WRITE. -/

/-- Between modes and after the first output, a cycle's end leads to nothing more. -/
theorem State.afterCycle_settled {s : State} (hpend : s.mo.pend = none) (hfirst : s.mo.firstWrite = false) (wrote : Bool) :
    s.afterCycle wrote = s := by
  simp [State.afterCycle, State.modeBoundary, hpend, hfirst]

/-- The output write leaves the tasks and the causes. -/
theorem State.outputWrite_lg {s : State} (hi : s.Inv) (n : Nat) (o : LgOpen) :
    (s.outputWrite n o).lg.tasks = s.lg.tasks ∧ (s.outputWrite n o).lg.causes = s.lg.causes := by
  unfold State.outputWrite
  extract_lets s1
  have h1 : s1.Inv ∧ s1.lg.tasks = s.lg.tasks ∧ s1.lg.causes = s.lg.causes := by
    refine List.foldlRecOn (motive := fun t : State => t.Inv ∧ t.lg.tasks = s.lg.tasks ∧ t.lg.causes = s.lg.causes) _ _
      ⟨hi, rfl, rfl⟩ fun t h e _ => ?_
    extract_lets v t1
    split <;> exact h
  refine (List.foldlRecOn (motive := fun t : State => t.Inv ∧ t.lg.tasks = s.lg.tasks ∧ t.lg.causes = s.lg.causes) _ _
    h1 fun t h e _ => ?_).2
  split
  next v _ =>
    obtain ⟨ht, hlg⟩ := h
    refine ⟨State.umWrite_moves.inv ht, ?_⟩
    rw [← (State.umWrite_moves.keep ht .lg rfl : _ = _)]
    exact hlg
  next => exact h

/-- A task that owns one byte, of no station, writes it to Q and hands it to the Umpire (R290). -/
theorem State.outputWrite_owned {s : State} {n b v : Nat} {o : LgOpen} (hp : o.p = []) (howned : s.owned n = [(b, v)])
    (hstation : s.qStation b = none) {x : Nat} (hx : mget (fun _ => none) o.q b = some x) :
    s.outputWrite n o = State.handQ { s with lg := { s.lg with q := mset (fun _ => 0) b x s.lg.q } } b x := by
  simp [State.outputWrite, howned, hp, State.qSent, hstation, hx]

/-- The count of completed cycles goes on by one. -/
theorem State.countCycle_low {s : State} (hi : s.Inv) (n : Nat) :
    (s.countCycle n).rdk LG_TSTAT_CYCLE n 0 = (s.rdk LG_TSTAT_CYCLE n 0 + 1) % 2 ^ 32 := by
  have hwidth : LG_TSTAT_CYCLE.hi + 1 - LG_TSTAT_CYCLE.lo = 32 := rfl
  have hcarry : ∀ lo hi : Nat, (lo + hi * 2 ^ 32 + 1) % 2 ^ 32 % 2 ^ 32 = (lo + 1) % 2 ^ 32 := fun lo hi => by omega
  rw [State.countCycle, State.rdk_wrk_beside (State.wrk_inv hi _ _ _ _) rfl, State.rdk_wrk_same hi rfl, hwidth]
  exact hcarry _ _

section close

variable {s : State} (hi : s.Inv) (n : Nat) (o : LgOpen)
include hi

theorem State.closeCycle_lgTask (hst : s.taskStands n) : (s.closeCycle n o).lgTask n = { (s.lgTask n).closed with fails := 0 } := by
  unfold State.closeCycle
  extract_lets s1 x
  have htasks : s1.lg.tasks = s.lg.tasks := (State.outputWrite_lg hi n o).1
  have hx : x = s.lgTask n := congrArg (mget (fun _ => LgTask.init) · n) htasks
  rw [hx]
  exact State.setLgTask_lgTask (by rw [htasks]; exact hst.imp id LgTask.ne_init)

omit hi in
/-- Closing a cycle counts it; its tasks, demands and staged bytes are no registers. -/
theorem State.keepsField_close (f : Field) :
    (((s.outputWrite n o).busyTo (s.rd LG_TASK_HOME n)).countCycle n).KeepsField f (s.closeCycle n o) := by
  unfold State.closeCycle
  extract_lets s1 x
  exact State.keepsField_setLgTask f s1 n _

theorem State.closeCycle_causes (core : Nat) : (s.closeCycle n o).causes core = s.causes core :=
  congrArg (mget (fun _ => []) · core) (State.outputWrite_lg hi n o).2

theorem State.closeCycle_mo : (s.closeCycle n o).mo = s.mo := (State.closeCycle_moves.keep hi .mo rfl).symm

theorem State.closeCycle_counted : (s.closeCycle n o).rdk LG_TSTAT_CYCLE n 0 = (s.rdk LG_TSTAT_CYCLE n 0 + 1) % 2 ^ 32 := by
  have hmoves : Moves 0x50c00000 s ((s.outputWrite n o).busyTo (s.rd LG_TASK_HOME n)) :=
    State.outputWrite_moves.trans (State.busyTo_moves.mono rfl)
  obtain ⟨-, hshown⟩ := State.keepsField_close n o LG_TSTAT_CYCLE (State.countCycle_moves.inv (hmoves.inv hi))
  have hcount := State.countCycle_low (hmoves.inv hi) n
  rw [hmoves.rdk hi rfl] at hcount
  exact (hshown n).trans hcount

end close

/-- The cycle that ends with the one owned byte `b` hands it to the Umpire and leaves it in Q. -/
theorem State.closeCycle_owned {s : State} {n b v : Nat} {o : LgOpen} (hp : o.p = []) (howned : s.owned n = [(b, v)])
    (hstation : s.qStation b = none) (hq : mapOk (fun _ => 0) s.lg.q = true) {x : Nat} (hx : mget (fun _ => none) o.q b = some x) :
    mget (fun _ => none) (s.closeCycle n o).um.q b = some (x % 256) ∧ mget (fun _ => 0) (s.closeCycle n o).lg.q b = x := by
  have hum : (s.closeCycle n o).um = (s.outputWrite n o).um := rfl
  have hlg : (s.closeCycle n o).lg.q = (s.outputWrite n o).lg.q := rfl
  rw [hum, hlg, State.outputWrite_owned hp howned hstation hx]
  exact ⟨mget_mset_of_ne (d := fun _ => none) (Option.some_ne_none _) _, mget_mset_same b x s.lg.q hq⟩

theorem exec_logicOutputWrite_closes {s : State} {n : Nat} {o : LgOpen} (hi : s.Inv) (hopen : (s.lgTask n).open_ = some o)
    (hends : s.lgEnds = true) (hpend : s.mo.pend = none) (hfirst : s.mo.firstWrite = false) (hdone : o.ended = .done)
    (htop : s.notPreempted n = true) : exec (.logicOutputWrite n) s = .next (s.closeCycle n o) := by
  have hmo := State.closeCycle_mo hi n o
  have hafter : (s.closeCycle n o).afterCycle true = s.closeCycle n o :=
    State.afterCycle_settled (by rw [hmo, hpend]) (by rw [hmo, hfirst]) true
  show execLogicOutputWrite n s = _
  simp [execLogicOutputWrite, hopen, hends, hdone, htop, hafter]

/-! CYCLE_WATCHDOG_EXPIRY. -/

/-- PAR1 of a watchdog's cause: the age of the cycle in ns. -/
def State.cycleAge (s : State) (o : LgOpen) : Nat := min 0xFFFFFFFF ((s.elapsed - o.snapAt) * 5 / 4)

theorem exec_cycleWatchdogExpiry_due {s : State} {n : Nat} {o : LgOpen} (hi : s.Inv) (hopen : (s.lgTask n).open_ = some o)
    (hends : s.lgEnds = true) (hpend : s.mo.pend = none) (hfirst : s.mo.firstWrite = false)
    (hdue : o.snapAt + usUnits o.wdt ≤ s.elapsed) :
    exec (.cycleWatchdogExpiry n) s = .next (s.abandon n 1 (s.cycleAge o) 0) := by
  have hmo : s.mo = (s.abandon n 1 (s.cycleAge o) 0).mo := State.abandon_moves.keep hi .mo rfl
  have hafter : (s.abandon n 1 (s.cycleAge o) 0).afterCycle false = s.abandon n 1 (s.cycleAge o) 0 :=
    State.afterCycle_settled (by rw [← hmo, hpend]) (by rw [← hmo, hfirst]) false
  show execCycleWatchdogExpiry n s = _
  refine Eq.trans ?_ (congrArg Host.Outcome.next hafter)
  simp [execCycleWatchdogExpiry, hopen, hends, hdue, State.cycleAge]

end Sys2Proof.Machine
end

