-- ==== Sys2Proof/Proofs/TriggersAndErrorTask.lean ====
section
/-! EVENT_TASK_TRIGGER (R293): a trigger pends, is latched or is lost; ERROR_TASK_RUN (R295): the error task takes the oldest cause of
a core. -/

namespace Sys2Proof.Machine

open Sys2Proof

/-! EVENT_TASK_TRIGGER. -/

/-- A task at its trigger: an interval notes its instant. -/
def State.taskAtTrigger (s : State) (n : Nat) : LgTask :=
  if s.rd LG_TASK_TRIG n = 3 then { s.lgTask n with trigAt := s.intervalAt n + 1 } else s.lgTask n

/-- The trigger leaves what pends, what is latched and the open cycle. -/
theorem State.taskAtTrigger_keeps (s : State) (n : Nat) : (s.taskAtTrigger n).pend = (s.lgTask n).pend ∧
    (s.taskAtTrigger n).latched = (s.lgTask n).latched ∧ (s.taskAtTrigger n).open_ = (s.lgTask n).open_ := by
  rw [State.taskAtTrigger]
  split <;> exact ⟨rfl, rfl, rfl⟩

section trigger

variable {s : State} {n : Nat} (hon : s.umOn = true) (hrun : s.lg.running = true) (hen : s.flag LG_TASK_EN n = true)
  (hkind : s.rd LG_TASK_KIND n = 1) (hstop : s.flag LG_TASK_STOPPED n = false) (hdue : s.trigDue n = true)
include hon hrun hen hkind hstop hdue

theorem exec_eventTaskTrigger_due : exec (.eventTaskTrigger n) s = .next
    (if !(s.taskAtTrigger n).pend && (s.taskAtTrigger n).open_.isNone then s.setLgTask n { s.taskAtTrigger n with pend := true }
      else if !(s.taskAtTrigger n).latched then s.setLgTask n { s.taskAtTrigger n with latched := true }
      else s.evtLost n (s.taskAtTrigger n)) := by
  show execEventTaskTrigger n s = _
  refine (if_neg (by simp [hon, hrun, hen, hkind, hstop, hdue])).trans ?_
  rw [apply_ite Host.Outcome.next, apply_ite Host.Outcome.next]
  rfl

theorem exec_eventTaskTrigger_pends (hpend : (s.lgTask n).pend = false) (hopen : (s.lgTask n).open_ = none) :
    exec (.eventTaskTrigger n) s = .next (s.setLgTask n { s.taskAtTrigger n with pend := true }) := by
  obtain ⟨hp, -, ho⟩ := s.taskAtTrigger_keeps n
  rw [exec_eventTaskTrigger_due hon hrun hen hkind hstop hdue, if_pos (by simp [hp, ho, hpend, hopen])]

/-- Where one pends, or a cycle is open, the trigger does not pend anew. -/
theorem exec_eventTaskTrigger_busy (hbusy : (s.lgTask n).pend = true ∨ (s.lgTask n).open_ ≠ none) :
    exec (.eventTaskTrigger n) s = .next
      (if !(s.lgTask n).latched then s.setLgTask n { s.taskAtTrigger n with latched := true } else s.evtLost n (s.taskAtTrigger n)) := by
  obtain ⟨hp, hl, ho⟩ := s.taskAtTrigger_keeps n
  have hnot : ¬((!(s.taskAtTrigger n).pend && (s.taskAtTrigger n).open_.isNone) = true) := by
    simp only [hp, ho, Bool.and_eq_true, Bool.not_eq_true', Option.isNone_iff_eq_none, not_and]
    exact fun hidle => hbusy.resolve_left (by simp [hidle])
  rw [exec_eventTaskTrigger_due hon hrun hen hkind hstop hdue, if_neg hnot, hl]

end trigger

/-- A task with a trigger that pends, or one latched, is not the initial one. -/
theorem LgTask.ne_init_of_trigger {x : LgTask} (h : x.pend = true ∨ x.latched = true) : x ≠ LgTask.init := by
  rintro rfl
  simp [LgTask.init] at h

/-- A lost trigger is counted, and the latched one stays. -/
theorem State.evtLost_effect {s : State} (hi : s.Inv) (n : Nat) {x : LgTask} (hx : x.latched = true) :
    ((s.evtLost n x).lgTask n).latched = true ∧
      (s.evtLost n x).rd LG_TSTAT_EVT_LOST n = min 0xFFFF (s.rd LG_TSTAT_EVT_LOST n + 1) := by
  have hcount := State.bump_half hi (f := LG_TSTAT_EVT_LOST) rfl rfl n
  have hbump : (s.bump LG_TSTAT_EVT_LOST n 1).Inv := State.wr_inv hi _ _ _
  have hread : ∀ y : LgTask, y.latched = true → (((s.bump LG_TSTAT_EVT_LOST n 1).setLgTask n y).lgTask n).latched = true :=
    fun y hy => by rw [State.setLgTask_lgTask (.inr (LgTask.ne_init_of_trigger (.inr hy))), hy]
  unfold State.evtLost
  extract_lets lost s1
  split
  · generalize hy : { x with lost := lost, lostAt := s.elapsed + 1 } = y
    have hlatched : y.latched = true := by rw [← hy]; exact hx
    have hset : (s1.setLgTask n y).Inv := hbump
    rw [State.lgTask_of_lg (State.notify_lg hset _ _ _ _ _ _ _), (State.keepsField_notify rfl _ _ _ _ _ _ _ _ hset).2 n]
    exact ⟨hread y hlatched, hcount⟩
  · exact ⟨hread _ hx, hcount⟩

/-! ERROR_TASK_RUN. -/

/-- The oldest cause of a core taken. -/
def State.causeTaken (s : State) (core : Nat) (rest : List LgCause) : State :=
  { s with lg := { s.lg with causes := mset (fun _ => []) core rest s.lg.causes } }

theorem State.nextCause_oldest {s : State} {core : Nat} {c : LgCause} {rest : List LgCause} (hc : s.causes core = c :: rest) :
    s.nextCause core = some (c, s.causeTaken core rest) := by
  simp only [State.nextCause, hc]
  rfl

/-- The execution of the error task for a cause. -/
def State.errorRun (s : State) (core n : Nat) (c : LgCause) (rest : List LgCause) : State × LgOpen :=
  ((s.causeTaken core rest).cycleTime n).execTask n (some c)

/-- The state with the error task's cycle open. -/
def State.errorTaken (s : State) (core n : Nat) (c : LgCause) (rest : List LgCause) : State :=
  ((s.errorRun core n c rest).1.setLgTask n
    { (s.errorRun core n c rest).1.lgTask n with open_ := some (s.errorRun core n c rest).2, lastSnap := s.elapsed + 1 }).undoMark core
      (s.errorRun core n c rest).2.entries

/-- The cycle for the oldest cause closes at its END, or is abandoned. -/
theorem State.errorTaskRun_takes {s : State} {core n : Nat} {c : LgCause} {rest : List LgCause} (herr : s.errorTask = some n)
    (hon : s.lgOn = true) (hfree : s.lgFree = true) (hcore : core < s.nCore) (hlive : s.coreFailed core = false)
    (hstop : s.flag LG_TASK_STOPPED n = false) (hc : s.causes core = c :: rest) :
    ∃ x, s.errorTaskRun core = some x ∧ (x.1 = (s.errorTaken core n c rest).closeCycle n (s.errorRun core n c rest).2 ∨
      ∃ k p i, x.1 = (s.errorTaken core n c rest).abandon n k p i) := by
  have hguard : ¬((!s.lgOn || !s.lgFree || decide (s.nCore ≤ core) || s.coreFailed core || s.flag LG_TASK_STOPPED n) = true) := by
    simp [hon, hfree, hcore, hlive, hstop]
  simp only [State.errorTaskRun, herr, if_neg hguard, State.nextCause_oldest hc]
  split
  next => exact ⟨_, rfl, .inl rfl⟩
  next k i _ => exact ⟨_, rfl, .inr ⟨k, i, i, rfl⟩⟩
  next => exact ⟨_, rfl, .inr ⟨1, _, 0, rfl⟩⟩

theorem State.errorTaken_moves (s : State) (core n : Nat) (c : LgCause) (rest : List LgCause) :
    Moves 0x10000000010000020 s (s.errorTaken core n c rest) := by
  have htaken : Moves 0x10000000 s (s.causeTaken core rest) := Moves.lg Moves.refl rfl
  have hrun : Moves 0x10000000010000020 s (s.errorRun core n c rest).1 :=
    ((htaken.mono rfl).trans (State.cycleTime_moves.mono rfl)).trans (State.execTask_moves.mono rfl)
  exact (hrun.trans (State.setLgTask_moves.mono rfl)).trans (State.undoMark_moves.mono rfl)

section errorTaken

variable {s : State} (hi : s.Inv) (core n : Nat) (c : LgCause) (rest : List LgCause)
include hi

theorem State.errorTaken_errorTask : (s.errorTaken core n c rest).errorTask = s.errorTask := by
  have hkeeps : ∀ f : Field, f.besideEach [LG_TSTAT_LAST, LG_TSTAT_MIN, LG_TSTAT_MAX] = true → LG_CORE_UNDO_HWM.beside f 0 0 = true →
      f.unit = 0x20 → s.KeepsField f (s.errorTaken core n c rest) := fun f htimes hmark hu => by
    have htaken : s.KeepsField f (s.causeTaken core rest) := fun hi => ⟨hi, fun _ => rfl⟩
    have hrun : s.KeepsField f (s.errorRun core n c rest).1 :=
      (htaken.trans (State.keepsField_cycleTime htimes _ n)).trans (State.execTask_moves.keepsField (by rw [hu]; decide))
    exact (hrun.trans (State.keepsField_setLgTask f _ _ _)).trans (State.keepsField_undoMark hmark _ _ _)
  exact State.errorTask_congr (hkeeps LG_TASK_EN rfl rfl rfl hi).2 (hkeeps LG_TASK_KIND rfl rfl rfl hi).2

theorem State.errorTaken_causes (hok : mapOk (fun _ => []) s.lg.causes = true) : (s.errorTaken core n c rest).causes core = rest := by
  have htime : ((s.causeTaken core rest).cycleTime n).lg = (s.causeTaken core rest).lg :=
    State.cycleTime_lg (s := s.causeTaken core rest) hi n
  obtain ⟨-, -, hrun, -⟩ := State.execTask_keeps ((s.causeTaken core rest).cycleTime n) n (some c)
  have hcauses : (s.errorTaken core n c rest).lg.causes = (s.causeTaken core rest).lg.causes := by
    rw [State.errorTaken, State.undoMark_lg, ← htime]
    exact hrun
  rw [State.causes, hcauses]
  exact mget_mset_same core rest s.lg.causes hok

omit hi in
theorem State.errorTaken_lgTask : (s.errorTaken core n c rest).lgTask n =
    { (s.errorRun core n c rest).1.lgTask n with open_ := some (s.errorRun core n c rest).2, lastSnap := s.elapsed + 1 } :=
  (State.lgTask_of_lg (State.undoMark_lg _ _ _) n).trans
    (State.setLgTask_lgTask (.inr (LgTask.ne_init (Nat.succ_ne_zero _))))

end errorTaken

/-- The error task takes the oldest cause of a core, and its cycle is over in the same step. -/
theorem errorTaskRun_effect {s : State} (hi : s.Inv) {core n : Nat} {c : LgCause} {rest : List LgCause} (herr : s.errorTask = some n)
    (hon : s.lgOn = true) (hfree : s.lgFree = true) (hcore : core < s.nCore) (hlive : s.coreFailed core = false)
    (hstop : s.flag LG_TASK_STOPPED n = false) (hpend : s.mo.pend = none) (hfirst : s.mo.firstWrite = false)
    (hc : s.causes core = c :: rest) (hok : mapOk (fun _ => []) s.lg.causes = true) :
    ∃ t, exec (.errorTaskRun core) s = .next t ∧ t.causes core = rest ∧ (t.lgTask n).open_ = none := by
  have htaken := State.errorTaken_moves s core n c rest
  have hinv := htaken.inv hi
  have hcauses := State.errorTaken_causes hi core n c rest hok
  have htask := State.errorTaken_lgTask (s := s) core n c rest
  have hst : (s.errorTaken core n c rest).taskStands n := .inr (by rw [htask]; exact Nat.succ_ne_zero _)
  obtain ⟨x, hrun, hx⟩ := State.errorTaskRun_takes herr hon hfree hcore hlive hstop hc
  have hmo : s.mo = x.1.mo := (State.errorTaskRun_moves hrun).keep hi .mo rfl
  have hexec : exec (.errorTaskRun core) s = .next x.1 := by
    show execErrorTaskRun core s = _
    rw [execErrorTaskRun, hrun]
    exact congrArg Host.Outcome.next (State.afterCycle_settled (by rw [← hmo, hpend]) (by rw [← hmo, hfirst]) x.2)
  refine ⟨x.1, hexec, ?_⟩
  rcases hx with hclose | ⟨k, p, i, habandon⟩
  · rw [hclose, State.closeCycle_causes hinv, State.closeCycle_lgTask hinv n _ hst]
    exact ⟨hcauses, rfl⟩
  · have herr' : (s.errorTaken core n c rest).errorTask = some n := (State.errorTaken_errorTask hi core n c rest).trans herr
    have hdropped : ((s.errorTaken core n c rest).cycleDropped n).Inv := (State.cycleDropped_moves _ n).inv hinv
    have hlg := State.notify_lg hdropped 0x20 1 3 n k 0 0
    rw [habandon, State.abandon_errorTask herr', State.lgTask_of_lg hlg, State.causes, hlg,
      State.cycleDropped_lgTask (by rw [htask]) hst]
    exact ⟨(State.cycleDropped_causes _ n core).trans hcauses, rfl⟩

end Sys2Proof.Machine
end

