-- ==== Sys2Proof/Proofs/LogicCoreFailures.lean ====
section
/-! LOGIC_CORE_FAILURE (R299, R300); with snapshots, output writes, the watchdog, triggers and the error task, O50. -/

namespace Sys2Proof.Machine

open Sys2Proof

/-! Cores. -/

theorem State.nCore_le (s : State) : s.nCore ≤ 4 := by
  unfold State.nCore State.byVar
  split <;> decide

theorem State.liveCores_lt {s : State} {k : Nat} (h : k ∈ s.liveCores) : k < 4 :=
  Nat.lt_of_lt_of_le (List.mem_range.1 (List.mem_filter.1 h).1) s.nCore_le

theorem State.liveCores_nodup (s : State) : s.liveCores.Nodup := List.nodup_range.filter _

theorem State.mem_liveCores {s : State} {k : Nat} (hk : k < s.nCore) (hf : s.coreFailed k = false) : k ∈ s.liveCores :=
  List.mem_filter.2 ⟨List.mem_range.2 hk, by rw [hf]; rfl⟩

/-- The core with the least busy time is one of those named. -/
theorem State.idlest_mem (s : State) {l : List Nat} (h : l ≠ []) : s.idlest l ∈ l := by
  refine List.foldlRecOn (motive := fun b => b ∈ l) _ _ ?_ fun b hb k hk => ?_
  · rw [List.headD_eq_head?_getD, List.head?_eq_some_head h]
    exact List.head_mem h
  · split
    · exact hk
    · exact hb

/-- A failed core shows as failed. -/
theorem State.lgShow_failed {s : State} (hi : s.Inv) {core : Nat} (hc : core < 4) (hf : s.rd LG_CORE_STATE core = 2) :
    s.lgShow.rd LG_CORE_STATE core = 2 := by
  refine (List.foldlRecOn (motive := fun t : State => t.Inv ∧ t.rd LG_CORE_STATE core = 2) _ _ ⟨hi, hf⟩ fun t h k hk => ?_).2
  obtain ⟨ht, hstate⟩ := h
  extract_lets count s1
  have h1 : s1.Inv := State.wr_inv ht _ _ _
  have hstate1 : s1.rd LG_CORE_STATE core = 2 :=
    (State.rdk_wrk_beside ht (f := LG_CORE_NTASK) (g := LG_CORE_STATE) rfl k core count).trans hstate
  split
  next => exact ⟨h1, hstate1⟩
  next hup =>
    have hne : core ≠ k := by
      rintro rfl
      exact hup (by rw [State.coreFailed, hstate1]; rfl)
    have hk4 : k < 4 := Nat.lt_of_lt_of_le (List.mem_range.1 hk) s.nCore_le
    refine ⟨State.wr_inv h1 _ _ _, (State.rd_wr_ne h1 rfl _ ?_).trans hstate1⟩
    exact .inr (.inr (.inl (by omega)))

/-! The core fails. -/

/-- Core `core` failed, with its cause. -/
def State.coreDown (s : State) (core cause : Nat) : State := (s.wr LG_CORE_STATE core 2).wr LG_CORE_FCAUSE core cause

/-- The open cycles of its tasks are abandoned. -/
def State.coreEmptied (s : State) (core cause : Nat) : State :=
  (s.homed core).foldl (fun t n => if (t.lgTask n).open_.isSome then t.cycleDropped n else t) (s.coreDown core cause)

/-- Its tasks run on other cores. -/
def State.tasksMoved (s : State) (core cause : Nat) : State :=
  (s.homed core).foldl (fun t n => t.wr LG_TASK_HOME n (t.idlest (s.coreEmptied core cause).liveCores)) (s.coreEmptied core cause)

/-- The causes that waited follow them. -/
def State.causesMoved (s : State) (core cause : Nat) : State :=
  (s.tasksMoved core cause).moveCauses core ((s.coreEmptied core cause).liveCores.headD 0)

/-- A cause for each task that moved, the error task aside. -/
def State.moveTold (s : State) (core cause : Nat) : State :=
  ((s.homed core).filter (fun n => s.rd LG_TASK_KIND n != 2)).foldl
    (fun t n => t.causeAt core (t.rd LG_TASK_HOME n) 0x20 n core (t.rd LG_TASK_HOME n) 0) (s.causesMoved core cause)

/-- LG stops, its outputs safe. -/
def State.lgStopped (s : State) : State :=
  { s.allSafe with lg := { s.allSafe.lg with running := false } }

/-- The failure reported, another core living on. -/
def State.coreTold (s : State) (core cause : Nat) : State :=
  (s.moveTold core cause).lgShow.notify 0x20 3 2 core (s.homed core).length (s.coreEmptied core cause).liveCores.length 0

/-- The failure of the last core reported. -/
def State.lastCoreTold (s : State) (core cause : Nat) : State :=
  (s.coreEmptied core cause).lgStopped.lgShow.notify 0x20 3 4 core (s.homed core).length 0 0

theorem exec_logicCoreFailure_fails {s : State} {core : Nat} (cause : Nat) (hon : s.umOn = true) (hcore : core < s.nCore)
    (hlive : s.coreFailed core = false) : exec (.logicCoreFailure core cause) s = .next
      (if (s.coreEmptied core cause).liveCores.isEmpty then s.lastCoreTold core cause else s.coreTold core cause) := by
  show execLogicCoreFailure core cause s = _
  refine (if_neg (by simp [hon, hcore, hlive])).trans ?_
  rw [apply_ite Host.Outcome.next]
  rfl

section failure

variable {s : State} (hi : s.Inv) {core : Nat} (hcore : core < s.nCore) (hlive : s.coreFailed core = false) (cause : Nat)

include hi in
theorem State.coreDown_inv : (s.coreDown core cause).Inv := State.wr_inv (State.wr_inv hi _ _ _) _ _ _

theorem State.coreEmptied_moves (s : State) (core cause : Nat) :
    Moves 0x10000000010000000 (s.coreDown core cause) (s.coreEmptied core cause) :=
  Moves.foldl Moves.refl fun t n => Moves.ite (t.cycleDropped_moves n) Moves.refl

/-- What the fields of the core show is left by the end of its cycles. -/
theorem State.keepsField_coreEmptied {f : Field} (h : LG_TSTAT_ABANDON.beside f 0 0 = true) (s : State) (core cause : Nat) :
    (s.coreDown core cause).KeepsField f (s.coreEmptied core cause) :=
  .foldl (fun t n => .ite ((State.keepsField_dropCycle t n).trans (State.keepsField_bump h _ _ _)) (.refl f t)) _ _

include hi in
theorem State.coreEmptied_inv : (s.coreEmptied core cause).Inv := (s.coreEmptied_moves core cause).inv (State.coreDown_inv hi cause)

include hi in
theorem State.coreEmptied_state : (s.coreEmptied core cause).rd LG_CORE_STATE core = 2 := by
  rw [(State.keepsField_coreEmptied rfl s core cause (State.coreDown_inv hi cause)).2]
  exact (State.rdk_wrk_beside (State.wr_inv hi _ _ _) (f := LG_CORE_FCAUSE) (g := LG_CORE_STATE) rfl _ _ _).trans
    (State.rd_wr_same hi (f := LG_CORE_STATE) rfl core 2)

include hi in
theorem State.coreEmptied_state_other {k : Nat} (hk : k % 65536 ≠ core % 65536) :
    (s.coreEmptied core cause).rd LG_CORE_STATE k = s.rd LG_CORE_STATE k := by
  rw [(State.keepsField_coreEmptied rfl s core cause (State.coreDown_inv hi cause)).2]
  exact (State.rdk_wrk_beside (State.wr_inv hi _ _ _) (f := LG_CORE_FCAUSE) (g := LG_CORE_STATE) rfl _ _ _).trans
    (State.rd_wr_ne hi rfl _ (.inr (.inr (.inl hk))))

include hi in
theorem State.coreEmptied_fcause : (s.coreEmptied core cause).rd LG_CORE_FCAUSE core = cause % 256 := by
  rw [(State.keepsField_coreEmptied rfl s core cause (State.coreDown_inv hi cause)).2]
  exact State.rd_wr_same (State.wr_inv hi _ _ _) (f := LG_CORE_FCAUSE) rfl core cause

include hi hcore in
/-- The cores that live on. -/
theorem State.coreEmptied_liveCores : (s.coreEmptied core cause).liveCores = s.liveCores.erase core := by
  obtain ⟨hvar, -⟩ : (s.coreDown core cause).var = (s.coreEmptied core cause).var ∧ _ :=
    (s.coreEmptied_moves core cause).keep (State.coreDown_inv hi cause) .ident rfl
  have hcores : (s.coreEmptied core cause).nCore = s.nCore := by
    rw [State.nCore, State.byVar, ← hvar]
    rfl
  rw [s.liveCores_nodup.erase_eq_filter, State.liveCores, State.liveCores, hcores, List.filter_filter]
  refine List.filter_congr fun k hk => ?_
  by_cases hkc : k = core
  · rw [hkc, State.coreFailed, State.coreEmptied_state hi]
    simp
  · have hne : k % 65536 ≠ core % 65536 := by
      have := s.nCore_le
      have := List.mem_range.1 hk
      omega
    rw [State.coreFailed, State.coreEmptied_state_other hi cause hne, State.coreFailed]
    simp [hkc]

include hi in
/-- A task of the core moves to a core that lives on. -/
theorem State.tasksMoved_home (hmore : (s.coreEmptied core cause).liveCores ≠ []) {n : Nat} (hn : n ∈ s.homed core) :
    (s.tasksMoved core cause).rd LG_TASK_HOME n ∈ (s.coreEmptied core cause).liveCores := by
  have hlt : ∀ k ∈ s.homed core, k < 64 := fun k hk => List.mem_range.1 (List.mem_filter.1 (List.mem_filter.1 hk).1).1
  refine State.foldl_establishes (P := fun t => t.rd LG_TASK_HOME n ∈ (s.coreEmptied core cause).liveCores) (Q := fun k => k = n)
    (fun t k ht => State.wr_inv ht _ _ _) (s.homed core) (fun k hk t ht h => ?_) (State.coreEmptied_inv hi cause) (.inl ⟨n, hn, rfl⟩)
  by_cases hkn : k = n
  · have hnew := t.idlest_mem hmore
    subst hkn
    rw [State.rd_wr_same ht rfl]
    exact (Nat.mod_eq_of_lt (State.liveCores_lt hnew)).symm ▸ hnew
  · have hk64 := hlt k hk
    have hn64 := hlt n hn
    rw [State.rd_wr_ne ht rfl _ (.inr (.inr (.inl (by omega))))]
    exact h.resolve_left hkn

/-- Only LG_TASK.HOME and LG_ERR change on the way from there. -/
theorem State.keepsField_moveTold {f : Field} (hf : f.grp % 256 ≠ 4) (s : State) (core cause : Nat) :
    (s.tasksMoved core cause).KeepsField f (s.moveTold core cause) :=
  (State.keepsField_moveCauses hf _ _ _).trans (.foldl (fun t _ => State.keepsField_causeAt hf t _ _ _ _ _ _ _) _ _)

theorem State.keepsField_tasksMoved {f : Field} (h : LG_TASK_HOME.beside f 0 0 = true) (s : State) (core cause : Nat) :
    (s.coreEmptied core cause).KeepsField f (s.tasksMoved core cause) :=
  .foldl (fun t n => State.keepsField_wr h t n _) _ _

include hi hcore hlive in
theorem State.coreEmptied_more (hmore : s.liveCores ≠ [core]) : (s.coreEmptied core cause).liveCores ≠ [] := by
  rw [State.coreEmptied_liveCores hi hcore, Ne, List.erase_eq_nil_iff, not_or]
  exact ⟨List.ne_nil_of_mem (State.mem_liveCores hcore hlive), hmore⟩

include hi hcore in
theorem State.coreEmptied_none (hlast : s.liveCores = [core]) : (s.coreEmptied core cause).liveCores = [] := by
  rw [State.coreEmptied_liveCores hi hcore, hlast]
  simp

/-- A field beside those of the move, from the end of the core's cycles on. -/
theorem State.keepsField_coreMove {f : Field} (h : LG_TASK_HOME.beside f 0 0 = true) (hf : f.grp % 256 ≠ 4) (s : State)
    (core cause : Nat) : (s.coreEmptied core cause).KeepsField f (s.moveTold core cause) :=
  (State.keepsField_tasksMoved h s core cause).trans (State.keepsField_moveTold hf s core cause)

/-- A field that LG_CORE does not show anew, from there to the report. -/
theorem State.keepsField_coreTold {f : Field} (h : f.besideEach [LG_CORE_NTASK, LG_CORE_STATE] = true) (hu : f.unit = 0x20)
    (s : State) (core cause : Nat) : (s.moveTold core cause).KeepsField f (s.coreTold core cause) :=
  (State.keepsField_lgShow h _).trans (State.keepsField_notify hu _ _ _ _ _ _ _ _)

include hi hcore hlive in
/-- A core that is not the last fails: its tasks run on others, reported with class B (R299). -/
theorem State.coreTold_effect (hmore : s.liveCores ≠ [core]) : (s.coreTold core cause).rd LG_CORE_STATE core = 2 ∧
    (s.coreTold core cause).rd LG_CORE_FCAUSE core = cause % 256 ∧ ⟨0x2003, 2⟩ ∈ (s.coreTold core cause).ec.arrivals ∧
    ∀ n, n ∈ s.homed core →
      (s.coreTold core cause).rd LG_TASK_HOME n ≠ core ∧ (s.coreTold core cause).rd LG_TASK_HOME n ∈ s.liveCores := by
  have hemptied := State.coreEmptied_inv hi (core := core) cause
  obtain ⟨htold, hstate⟩ := State.keepsField_coreMove (f := LG_CORE_STATE) rfl (by decide) s core cause hemptied
  obtain ⟨-, hfcause⟩ := State.keepsField_coreMove (f := LG_CORE_FCAUSE) rfl (by decide) s core cause hemptied
  obtain ⟨htasks, -⟩ := State.keepsField_tasksMoved (f := LG_CORE_STATE) rfl s core cause hemptied
  have hshow : (s.moveTold core cause).lgShow.Inv := State.lgShow_moves.inv htold
  refine ⟨?_, ?_, ?_, fun n hn => ?_⟩
  · rw [State.coreTold, (State.keepsField_notify rfl _ _ _ _ _ _ _ _ hshow).2]
    exact State.lgShow_failed htold (Nat.lt_of_lt_of_le hcore s.nCore_le) ((hstate core).trans (State.coreEmptied_state hi cause))
  · rw [(State.keepsField_coreTold rfl rfl s core cause htold).2, hfcause, State.coreEmptied_fcause hi]
  · exact State.notifyAt_mem_arrivals (unit := 0x20) (code := 3) (cls := 2) hshow (by decide) _ _ _ _ _
  · have hhome := State.tasksMoved_home hi cause (State.coreEmptied_more hi hcore hlive cause hmore) hn
    rw [State.coreEmptied_liveCores hi hcore, s.liveCores_nodup.mem_erase_iff] at hhome
    rw [(State.keepsField_coreTold rfl rfl s core cause htold).2,
      (State.keepsField_moveTold (by decide) s core cause htasks).2]
    exact hhome

include hi hcore in
/-- The last core fails: LG stops with a class D error (R300). -/
theorem State.lastCoreTold_effect : (s.lastCoreTold core cause).rd LG_CORE_STATE core = 2 ∧
    (s.lastCoreTold core cause).lg.running = false ∧ ⟨0x2003, 4⟩ ∈ (s.lastCoreTold core cause).ec.arrivals := by
  have hstopped : (s.coreEmptied core cause).KeepsField LG_CORE_STATE (s.coreEmptied core cause).lgStopped :=
    (State.allSafe_moves.keepsField rfl).trans fun hi => ⟨hi, fun _ => rfl⟩
  obtain ⟨hinv, hstate⟩ := hstopped (State.coreEmptied_inv hi cause)
  have hshow : (s.coreEmptied core cause).lgStopped.lgShow.Inv := State.lgShow_moves.inv hinv
  refine ⟨?_, ?_, ?_⟩
  · rw [State.lastCoreTold, (State.keepsField_notify rfl _ _ _ _ _ _ _ _ hshow).2]
    exact State.lgShow_failed hinv (Nat.lt_of_lt_of_le hcore s.nCore_le) ((hstate core).trans (State.coreEmptied_state hi cause))
  · rw [State.lastCoreTold, State.notify_lg hshow, ← (State.lgShow_moves.keep hinv .lg rfl : _ = _)]
    rfl
  · exact State.notifyAt_mem_arrivals (unit := 0x20) (code := 3) (cls := 4) hshow (by decide) _ _ _ _ _

end failure

/-! The obligation. -/

/-- Settles O50: each event by the state it leads to, and that state by what its operations keep. -/
theorem tasksCycleAndCoresFail : Obligations.TasksCycleAndCoresFail := by
  unfold Obligations.TasksCycleAndCoresFail
  refine ⟨?snapshot, ?cycle, ?trigger, ?errorTask, ?core⟩
  case snapshot =>
    intro s n hi hn hon hfree hready hcore o ho
    subst ho
    exact ⟨logicCycleSnapshot_open_effect hi hn hon hfree hready hcore,
      fun _ _ => logicCycleSnapshot_fault_effect hi hn hon hfree hready hcore⟩
  case cycle =>
    intro s n o hi _ hopen hends hpend hfirst hq htasks
    refine ⟨fun hdone htop hp b v howned _ hstation => ?_, fun herr hdue => ?_⟩
    · have htask := State.closeCycle_lgTask hi n o (.inl htasks)
      exact ⟨_, exec_logicOutputWrite_closes hi hopen hends hpend hfirst hdone htop, by rw [htask]; rfl, by rw [htask],
        State.closeCycle_counted hi n o, fun x hx => State.closeCycle_owned hp howned hstation hq hx⟩
    · have heffect := State.abandon_effect hi hopen (.inl htasks) herr 1 (s.cycleAge o) 0
      exact ⟨_, exec_cycleWatchdogExpiry_due hi hopen hends hpend hfirst hdue, heffect.closed, heffect.counted, heffect.fails,
        heffect.raised, heffect.stopped⟩
  case trigger =>
    intro s n hi _ hon hrun hen hkind hstop hdue
    have hbusy := fun h => exec_eventTaskTrigger_busy hon hrun hen hkind hstop hdue (n := n) h
    refine ⟨fun hpend hopen => ?_, fun hb hlatched => ?_, fun hb hlatched => ?_⟩
    · refine ⟨_, exec_eventTaskTrigger_pends hon hrun hen hkind hstop hdue hpend hopen, ?_, rfl⟩
      rw [State.setLgTask_lgTask (.inr (LgTask.ne_init_of_trigger (.inl rfl)))]
    · refine ⟨s.setLgTask n { s.taskAtTrigger n with latched := true }, ?_, ?_, rfl⟩
      · rw [hbusy hb, hlatched]
        rfl
      · rw [State.setLgTask_lgTask (.inr (LgTask.ne_init_of_trigger (.inr rfl)))]
    · refine ⟨s.evtLost n (s.taskAtTrigger n), ?_, State.evtLost_effect hi n ((s.taskAtTrigger_keeps n).2.1.trans hlatched)⟩
      rw [hbusy hb, hlatched]
      rfl
  case errorTask =>
    intro s core n c rest hi herr hon hfree hcore hlive hstop hpend hfirst hc hok
    exact errorTaskRun_effect hi herr hon hfree hcore hlive hstop hpend hfirst hc hok
  case core =>
    intro s core cause hi hon hcore hlive
    have hexec := exec_logicCoreFailure_fails cause hon hcore hlive
    refine ⟨fun hmore => ?_, fun hlast => ?_⟩
    · rw [if_neg (by rw [List.isEmpty_iff]; exact State.coreEmptied_more hi hcore hlive cause hmore)] at hexec
      exact ⟨_, hexec, State.coreTold_effect hi hcore hlive cause hmore⟩
    · rw [if_pos (by rw [State.coreEmptied_none hi hcore cause hlast]; rfl)] at hexec
      exact ⟨_, hexec, State.lastCoreTold_effect hi hcore cause⟩

end Sys2Proof.Machine
end

