-- ==== Sys2Proof/Proofs/BullpenCommands.lean ====
section
/-! BULLPEN_LOAD (R308), BULLPEN_SWITCH (R310) and BULLPEN_ROLLBACK (R316): the checks they pass, and what each leaves of LG_BULLPEN,
of the images and of its command. -/

namespace Sys2Proof.Machine

open Sys2Proof

/-! What LG_BULLPEN shows. -/

/-- The fields of LG_BULLPEN that show what the two banks hold. -/
def State.bankWords (s : State) (state : Nat) : List (Field × Nat × Nat × Nat) :=
  [(LG_BULLPEN_STATE, 0, 0, state), (LG_BULLPEN_ACTIVE, 0, 0, b2n s.lg.active.isSome),
    (LG_BULLPEN_CRC, 0, 0, (s.lg.bullpen.map (·.crc)).getD 0), (LG_BULLPEN_ACT_CRC, 0, 0, (s.lg.active.map (·.crc)).getD 0)]

theorem State.written_lg (s : State) (l : List (Field × Nat × Nat × Nat)) : (s.written l).lg = s.lg :=
  List.foldlRecOn (motive := fun t : State => t.lg = s.lg) l _ rfl fun _ h _ _ => h

theorem State.written_mb (s : State) (l : List (Field × Nat × Nat × Nat)) : (s.written l).mb = s.mb :=
  List.foldlRecOn (motive := fun t : State => t.mb = s.mb) l _ rfl fun _ h _ _ => h

/-- The images are shown in the registers alone. -/
theorem State.bankShow_keeps (s : State) (state : Nat) : (s.bankShow state).lg = s.lg ∧ (s.bankShow state).mb = s.mb :=
  ⟨s.written_lg (s.bankWords state), s.written_mb (s.bankWords state)⟩

theorem State.bankShow_inv {s : State} (hi : s.Inv) (state : Nat) : (s.bankShow state).Inv := State.bankShow_moves.inv hi

theorem State.bankShow_state {s : State} (hi : s.Inv) (state : Nat) : (s.bankShow state).rd LG_BULLPEN_STATE 0 = state % 8 :=
  State.rd_written_head hi (f := LG_BULLPEN_STATE) (l := (s.bankWords state).tail) rfl rfl 0 state

theorem State.bankShow_crc {s : State} (hi : s.Inv) (state : Nat) :
    (s.bankShow state).rd LG_BULLPEN_CRC 0 = (s.lg.bullpen.map (·.crc)).getD 0 % 2 ^ 32 :=
  State.rd_written_head (State.written_inv hi ((s.bankWords state).take 2)) (f := LG_BULLPEN_CRC)
    (l := (s.bankWords state).drop 3) rfl rfl 0 _

/-- The plan is written to the registers alone. -/
theorem State.plan_keeps (s : State) (im : LogicImage) :
    (s.plan im).lg = s.lg ∧ (s.plan im).mb = s.mb ∧ (s.plan im).tu = s.tu ∧ (s.plan im).elapsed = s.elapsed := by
  unfold State.plan
  split <;> exact ⟨rfl, rfl, rfl, rfl⟩

/-- The plan's counts are all that it writes. -/
theorem State.keepsField_plan {f : Field}
    (h : f.besideEach [LG_BULLPEN_KEPT, LG_BULLPEN_NEW, LG_BULLPEN_DROPPED, LG_BULLPEN_RESIZED] = true) (s : State)
    (im : LogicImage) : s.KeepsField f (s.plan im) := by
  have hwr : ∀ g ∈ [LG_BULLPEN_KEPT, LG_BULLPEN_NEW, LG_BULLPEN_DROPPED, LG_BULLPEN_RESIZED], ∀ (t : State) (v : Nat),
      t.KeepsField f (t.wr g 0 v) := fun g hg t v => State.keepsField_wr (Field.besideEach_mem h hg) t 0 v
  have hcounts : ∀ a b c d : Nat, s.KeepsField f
      ((((s.wr LG_BULLPEN_KEPT 0 a).wr LG_BULLPEN_NEW 0 b).wr LG_BULLPEN_DROPPED 0 c).wr LG_BULLPEN_RESIZED 0 d) := fun _ _ _ _ =>
    (((hwr _ (by simp) _ _).trans (hwr _ (by simp) _ _)).trans (hwr _ (by simp) _ _)).trans (hwr _ (by simp) _ _)
  unfold State.plan
  split
  · exact hcounts _ _ _ _
  · exact hcounts _ _ _ _

/-! BULLPEN_LOAD (R308, R309). -/

/-- The Bullpen holds an image, with or without a signature (R533), or none. -/
def State.bullpenHolds (s : State) (im : Option LogicImage) (unsigned : Bool) : State :=
  { s with lg := { s.lg with bullpen := im, bpUnsigned := unsigned } }

theorem State.bullpenHolds_inv {s : State} (hi : s.Inv) (im : Option LogicImage) (unsigned : Bool) :
    (s.bullpenHolds im unsigned).Inv := hi

/-- The Bullpen holds a loaded image, READY. -/
def State.bullpenReady (s : State) (im : LogicImage) (sig : Bool) : State :=
  (s.bullpenHolds (some im) (s.openedLike && !sig)).bankShow 2

/-- The Bullpen is empty. -/
def State.bullpenEmptied (s : State) : State := (s.bullpenHolds none false).bankShow 0

/-- An image without fault is loaded, its plan shown, and its command done. -/
def State.imageLoaded (s : State) (im : LogicImage) (sig : Bool) (c : Cmd) : State :=
  ((s.bullpenReady im sig).plan im).done c 0 0 0 0

section load

variable {s : State} {ring idx : Nat} {im : LogicImage} {sig : Bool} {c : Cmd} (hr : s.Ready ring idx c)
  (hb : c.WithBuffer opBullpenLoad 0 0) (hobj : c.objid = bullpenObj) (hmodes : s.inMode modesTrain = true)
  (hreach : s.bufReach c = true)
include hr hb hobj hmodes hreach

theorem exec_bullpenLoad_ready (hf : s.imgFault im c.bufLen sig = none) :
    exec (.bullpenLoad ring idx (some im) sig) s = .next (s.imageLoaded im sig c) := by
  show execBullpenLoad ring idx (some im) sig s = _
  refine (hr.runCmd hb.isOp ((hr.verdict_buffer hb hb.buffer rfl (if_pos hobj) rfl hmodes).trans ?_)).trans (congrArg _ ?_)
  · exact if_pos hreach
  · simp only [hf]
    rfl

theorem exec_bullpenLoad_faulty {st : Status} {r0 : Nat} (hf : s.imgFault im c.bufLen sig = some (st, r0, false)) :
    exec (.bullpenLoad ring idx (some im) sig) s = .next (s.bullpenEmptied.fail c st r0) := by
  show execBullpenLoad ring idx (some im) sig s = _
  refine (hr.runCmd hb.isOp ((hr.verdict_buffer hb hb.buffer rfl (if_pos hobj) rfl hmodes).trans ?_)).trans (congrArg _ ?_)
  · exact if_pos hreach
  · simp only [hf]
    rfl

end load

/-- An image that passes its checks is READY in the Bullpen, and its command is done (R308, R309). -/
theorem bullpenLoad_ready_effect {s : State} (hi : s.Inv) {c : Cmd} (hc : c ∈ s.mb.inflight) (hu : c.undecided = true)
    (im : LogicImage) (sig : Bool) :
    (s.imageLoaded im sig c).lg = { s.lg with bullpen := some im, bpUnsigned := s.openedLike && !sig } ∧
      (s.imageLoaded im sig c).rd LG_BULLPEN_STATE 0 = 2 ∧
      (s.imageLoaded im sig c).rd LG_BULLPEN_CRC 0 = im.crc % 2 ^ 32 ∧
      (s.imageLoaded im sig c).Outcome c .ok 0 0 0 0 (some s.now) := by
  obtain ⟨hlg, hmb, htu, -⟩ := (s.bullpenReady im sig).plan_keeps im
  have hheld := State.bullpenHolds_inv hi (some im) (s.openedLike && !sig)
  have hready : (s.bullpenReady im sig).Inv := State.bankShow_inv hheld 2
  have hnow : ((s.bullpenReady im sig).plan im).now = s.now := by
    rw [State.now, htu]
    rfl
  refine ⟨hlg, ?_, ?_, ?_⟩
  · exact ((State.keepsField_plan rfl _ im hready).2 0).trans (State.bankShow_state hheld 2)
  · exact ((State.keepsField_plan rfl _ im hready).2 0).trans (State.bankShow_crc hheld 2)
  · rw [State.imageLoaded, ← hnow]
    exact State.done_outcome (by rwa [hmb]) hu 0 0 0 0

theorem State.setPhase_lg (s : State) (ring order : Nat) (p : CmdPhase) : (s.setPhase ring order p).lg = s.lg := rfl

theorem State.setPhase_rd (s : State) (ring order : Nat) (p : CmdPhase) (f : Field) (i : Nat) :
    (s.setPhase ring order p).rd f i = s.rd f i := rfl

/-- A faulty image leaves the Bullpen empty, and its command ends with the fault (R308). -/
theorem bullpenLoad_faulty_effect {s : State} (hi : s.Inv) {c : Cmd} (hc : c ∈ s.mb.inflight) (hu : c.undecided = true)
    (st : Status) (r0 : Nat) : (s.bullpenEmptied.fail c st r0).lg = { s.lg with bullpen := none, bpUnsigned := false } ∧
      (s.bullpenEmptied.fail c st r0).rd LG_BULLPEN_STATE 0 = 0 ∧ (s.bullpenEmptied.fail c st r0).Outcome c st r0 0 0 0 none := by
  obtain ⟨hlg, hmb⟩ := (s.bullpenHolds none false).bankShow_keeps 0
  have hmem : c ∈ s.bullpenEmptied.mb.inflight := by
    rw [State.bullpenEmptied, hmb]
    exact hc
  refine ⟨?_, ?_, State.setPhase_mem hmem hu _⟩
  · rw [State.fail, State.setPhase_lg, State.bullpenEmptied, hlg]
    rfl
  · rw [State.fail, State.setPhase_rd]
    exact State.bankShow_state (State.bullpenHolds_inv hi none false) 0

/-! BULLPEN_SWITCH and BULLPEN_ROLLBACK (R310, R311, R316). -/

/-- A switch quiesces from now on, and its command awaits the swap. -/
theorem State.switchStart_effect {s : State} (hi : s.Inv) {c : Cmd} (hc : c ∈ s.mb.inflight) (hu : c.undecided = true)
    (rollback : Bool) : (s.switchStart c rollback).lg.switch = some ⟨c.ref, rollback, s.elapsed⟩ ∧
      (s.switchStart c rollback).rd LG_BULLPEN_STATE 0 = 3 ∧ (s.switchStart c rollback).lg.active = s.lg.active ∧
      (s.switchStart c rollback).Awaits c :=
  ⟨rfl, State.rd_wr_same (s := { s with lg := _ }) hi rfl 0 3, rfl, State.setPhase_mem (s := State.wr { s with lg := _ } _ _ _) hc hu .started⟩

/-- A rollback shows its plan where the Bullpen holds an image, and starts. -/
def State.rollbackStart (s : State) (c : Cmd) : State := (s.lg.bullpen.elim s s.plan).switchStart c true

section switch

variable {s : State} {ring idx : Nat} {c : Cmd} (hr : s.Ready ring idx c) (hobj : c.objid = bullpenObj)
include hr hobj

theorem exec_bullpenSwitch_wrongCrc (hp : c.Plain opBullpenSwitch 4) (hcrc : (c.par 0).toNat ≠ s.rd LG_BULLPEN_CRC 0) :
    exec (.bullpenSwitch ring idx) s = .next (s.refuse c (.badObject, bullpenObj, 0)) := by
  show execBullpenSwitch ring idx s = _
  obtain ⟨-, -, -, -, habsent⟩ := id hr
  obtain ⟨-, hframe, hlength, -, -⟩ := id hp
  refine hr.runCmd_refused hp.isOp (State.verdict_badObject hframe hlength hp.inline habsent rfl hp.bufBad (r := (bullpenObj, 0)) ?_)
  exact (if_pos hobj).trans (if_pos (by simpa using hcrc))

variable (ha : s.authorized c = true) (hmodes : s.inMode modesCr = true)
include ha hmodes

theorem exec_bullpenSwitch_starts (hp : c.Plain opBullpenSwitch 4) (hstate : s.rd LG_BULLPEN_STATE 0 = 2)
    (hcrc : (c.par 0).toNat = s.rd LG_BULLPEN_CRC 0) : exec (.bullpenSwitch ring idx) s = .next (s.switchStart c false) := by
  show execBullpenSwitch ring idx s = _
  refine hr.runCmd hp.isOp ((State.verdict_own hr hp hp.inline rfl ?_ (fun _ => ha) hmodes).trans ?_)
  · exact (if_pos hobj).trans (if_neg (by simpa using hcrc))
  · exact if_neg (by simpa using hstate)

theorem exec_bullpenRollback_starts (hp : c.Plain opBullpenRollback 0) (hstate : s.rd LG_BULLPEN_STATE 0 = 4) :
    exec (.bullpenRollback ring idx) s = .next (s.rollbackStart c) := by
  show execBullpenRollback ring idx s = _
  refine (hr.runCmd hp.isOp ((State.verdict_own hr hp hp.inline rfl (if_pos hobj) (fun _ => ha) hmodes).trans ?_)).trans
    (congrArg _ ?_)
  · exact if_neg (by simpa using hstate)
  · rw [State.rollbackStart]
    cases s.lg.bullpen <;> rfl

end switch

theorem State.planned_keeps (s : State) (o : Option LogicImage) : (o.elim s s.plan).lg = s.lg ∧ (o.elim s s.plan).mb = s.mb ∧
    (o.elim s s.plan).elapsed = s.elapsed := by
  cases o with
  | none => exact ⟨rfl, rfl, rfl⟩
  | some im =>
    obtain ⟨hlg, hmb, -, helapsed⟩ := s.plan_keeps im
    exact ⟨hlg, hmb, helapsed⟩

/-- A rollback quiesces from now on, and its command awaits the swap (R316). -/
theorem bullpenRollback_effect {s : State} (hi : s.Inv) {c : Cmd} (hc : c ∈ s.mb.inflight) (hu : c.undecided = true) :
    (s.rollbackStart c).lg.switch = some ⟨c.ref, true, s.elapsed⟩ ∧
      (s.rollbackStart c).rd LG_BULLPEN_STATE 0 = 3 ∧
      (s.rollbackStart c).lg.active = s.lg.active ∧
      (s.rollbackStart c).Awaits c := by
  obtain ⟨hlg, hmb, helapsed⟩ := s.planned_keeps s.lg.bullpen
  have hplanned : (s.lg.bullpen.elim s s.plan).Inv := (Moves.elim Moves.refl fun _ => State.plan_moves).inv hi
  obtain ⟨hswitch, hstate, hactive, hawaits⟩ := State.switchStart_effect hplanned (by rwa [hmb]) hu true
  rw [helapsed] at hswitch
  rw [hlg] at hactive
  exact ⟨hswitch, hstate, hactive, hawaits⟩

end Sys2Proof.Machine
end

