-- ==== Sys2Proof/Proofs/BullpenSwap.lean ====
section
/-! The swap of a quiesced switch with its carry-over of M (R311, R313 to R316), and its cancellation at the end of SW_WAIT (R312). -/

namespace Sys2Proof.Machine

open Sys2Proof

/-! M after the carry-over (R313). -/

/-- Word `k` of a block is carried over, or cleared, and counted. -/
def copyWord (m : AMap Nat) (r : List W32) (src : Option (List W32)) (a : AMap Nat × Nat) (k : Nat) : AMap Nat × Nat :=
  (mset (fun _ => 0) (instAddr r / 4 + k) (carriedWord m r src k).1 a.1, a.2 + b2n (carriedWord m r src k).2)

/-- The words of a block are carried over. -/
def copyInst (old : LogicImage) (m : AMap Nat) (a : AMap Nat × Nat) (r : List W32) : AMap Nat × Nat :=
  (List.range (instSize r / 4)).foldl (copyWord m r (carriedFrom old.insts r)) a

theorem carryM_eq (old new : LogicImage) (m : AMap Nat) : carryM old new m = new.insts.foldl (copyInst old m) (m, 0) := rfl

section carry

variable {m : AMap Nat} {a : AMap Nat × Nat} (ha : mapOk (fun _ => 0) a.1 = true)
include ha

/-- After the first `n` words: the form of M, the words beside them, and each of them. -/
theorem copyWords_effect (r : List W32) (src : Option (List W32)) : ∀ n : Nat,
    mapOk (fun _ => 0) ((List.range n).foldl (copyWord m r src) a).1 = true ∧
      (∀ w, (∀ k, k < n → instAddr r / 4 + k ≠ w) →
        mget (fun _ => 0) ((List.range n).foldl (copyWord m r src) a).1 w = mget (fun _ => 0) a.1 w) ∧
      ∀ k, k < n → mget (fun _ => 0) ((List.range n).foldl (copyWord m r src) a).1 (instAddr r / 4 + k) = (carriedWord m r src k).1
  | 0 => ⟨ha, fun _ _ => rfl, fun _ hk => absurd hk (Nat.not_lt_zero _)⟩
  | n + 1 => by
    obtain ⟨hok, hother, hcopied⟩ := copyWords_effect r src n
    rw [List.range_succ, List.foldl_append]
    refine ⟨mset_ok hok, fun w hw => ?_, fun k hk => ?_⟩
    · exact (mget_mset_ne _ (hw n (Nat.lt_succ_self n)).symm _ hok).trans (hother w fun k hk => hw k (by omega))
    · rcases Nat.lt_succ_iff_lt_or_eq.1 hk with hlt | rfl
      · exact (mget_mset_ne _ (by omega) _ hok).trans (hcopied k hlt)
      · exact mget_mset_same _ _ _ hok

/-- A word of M that no block of the image covers stands. -/
theorem copyInsts_other (old : LogicImage) {w : Nat} : ∀ l : List (List W32),
    (∀ r, r ∈ l → ∀ k, k < instSize r / 4 → instAddr r / 4 + k ≠ w) →
      mget (fun _ => 0) (l.foldl (copyInst old m) a).1 w = mget (fun _ => 0) a.1 w := by
  intro l hw
  refine (List.foldlRecOn (motive := fun b : AMap Nat × Nat =>
    mapOk (fun _ => 0) b.1 = true ∧ mget (fun _ => 0) b.1 w = mget (fun _ => 0) a.1 w) l _ ⟨ha, rfl⟩ fun b hb r hr => ?_).2
  obtain ⟨hok, hsame⟩ := hb
  obtain ⟨hok', hother, -⟩ := copyWords_effect (m := m) hok r (carriedFrom old.insts r) (instSize r / 4)
  exact ⟨hok', (hother w (hw r hr)).trans hsame⟩

end carry

/-- A block carried on from an old one, a timer aside, takes the old words, and zero beyond them. -/
theorem carriedWord_carried (m : AMap Nat) {r : List W32} (o : List W32) (hkind : instKind r ≠ 3) (k : Nat) :
    (carriedWord m r (some o) k).1 = if 4 * k < instSize o then mget (fun _ => 0) m (instAddr o / 4 + k) else 0 := by
  simp only [carriedWord, hkind, false_and, if_false]
  split <;> rfl

/-! What the rest of the carry-over leaves of the images and of M. -/

/-- The images, the switch under way, and M. -/
def LgSt.standing (x : LgSt) : Option LogicImage × Option LogicImage × Option LogicImage × Option LgSwitch × AMap Nat :=
  (x.active, x.bullpen, x.committed, x.switch, x.m)

theorem LgSt.standing_holdTo (x : LgSt) (n : Nat) : { x with holdTo := n }.standing = x.standing := rfl

theorem State.waitCause_standing (s : State) (core : Nat) (c : LgCause) : (s.waitCause core c).lg.standing = s.lg.standing := by
  unfold State.waitCause
  split
  · rfl
  · split <;> rfl

theorem State.taskCause_standing (s : State) (cause task par0 par1 index : Nat) :
    (s.taskCause cause task par0 par1 index).lg.standing = s.lg.standing := by
  refine (State.waitCause_standing _ _ _).trans (congrArg LgSt.standing ?_)
  exact State.handOff_lg _ _ _

theorem State.stationCause_standing (s : State) (cause stn : Nat) (par1 : Nat → Nat) :
    (s.stationCause cause stn par1).lg.standing = s.lg.standing :=
  List.foldlRecOn (motive := fun t : State => t.lg.standing = s.lg.standing) _ _ rfl fun _ h _ _ =>
    (State.taskCause_standing _ _ _ _ _ _).trans h

theorem State.lostStations_standing (s : State) (old : List Nat) : (s.lostStations old).lg.standing = s.lg.standing := by
  unfold State.lostStations
  split
  · rfl
  · exact List.foldlRecOn (motive := fun t : State => t.lg.standing = s.lg.standing) _ _ rfl fun _ h _ _ =>
      (State.stationCause_standing _ _ _ _).trans h

theorem State.putWords_lg {α : Type} (l : List α) (u g i w : α → Nat) (v : α → W32) (s : State) :
    (l.foldl (fun t a => t.putWord (u a) (g a) (i a) (w a) (v a)) s).lg = s.lg :=
  List.foldlRecOn (motive := fun t : State => t.lg = s.lg) l _ rfl fun _ h _ _ => h

theorem State.carryTasks_standing (s before : State) (old new : LogicImage) :
    (s.carryTasks before old new).lg.standing = s.lg.standing := by
  unfold State.carryTasks
  extract_lets _ s0
  have h0 : s0.lg.standing = s.lg.standing :=
    List.foldlRecOn (motive := fun t : State => t.lg.standing = s.lg.standing) _ _ rfl fun t h _ _ => by
      rw [State.putWords_lg]
      exact h
  refine List.foldlRecOn (motive := fun t : State => t.lg.standing = s.lg.standing) _ _ h0 fun t h task _ => ?_
  split
  · exact h
  · extract_lets s1 x
    have h1 : s1.lg = t.lg := State.putWords_lg _ _ _ _ _ _ t
    exact (congrArg LgSt.standing h1).trans h

theorem State.carryQ_standing (s : State) (old new : LogicImage) : (s.carryQ old new).lg.standing = s.lg.standing := by
  unfold State.carryQ
  extract_lets gone fresh s1 s2
  have h1 : s1.lg.standing = s.lg.standing :=
    List.foldlRecOn (motive := fun t : State => t.lg.standing = s.lg.standing) gone _ rfl fun _ h _ _ => h
  exact List.foldlRecOn (motive := fun t : State => t.lg.standing = s.lg.standing) fresh _ h1 fun _ h _ _ => h

/-- The carry-over leaves the images and the switch, and M as `carryM` gives it. -/
theorem State.carryOver_standing {s : State} (hi : s.Inv) (old new : LogicImage) : (s.carryOver old new).1.lg.standing =
    (s.lg.active, s.lg.bullpen, s.lg.committed, s.lg.switch, (carryM old new s.lg.m).1) := by
  have hcarried : ∀ t : State, t.Inv → (((t.homeTasks).carryTasks s old new).carryQ old new).lg.standing = t.lg.standing :=
    fun t ht => ((State.carryQ_standing _ _ _).trans (State.carryTasks_standing _ _ _ _)).trans
      (congrArg LgSt.standing (State.homeTasks_moves.keep ht .lg rfl : _ = _).symm)
  exact (State.lostStations_standing _ _).trans (hcarried { s with lg := { s.lg with m := (carryM old new s.lg.m).1 } } hi)

/-! The swap (R311, R314 to R316). -/

/-- The Bullpen's image is active and committed, and the Bullpen holds the one before it. -/
def State.imagesSwapped (s : State) (new : LogicImage) : State :=
  { s with
    lg := { s.lg with
      active := some new
      bullpen := s.lg.active
      committed := some new
      switch := none
      bpUnsigned := s.sc.unsignedLogic }
    sc := { s.sc with unsignedLogic := s.lg.bpUnsigned } }

/-- The carry-over at the swap, and its length. -/
def State.swapCarry (s : State) (old new : LogicImage) : State × Nat := (s.imagesSwapped new).carryOver old new

/-- The carry-over done: no task runs before its end. -/
def State.swapHeld (s : State) (old new : LogicImage) : State :=
  { (s.swapCarry old new).1 with
    lg := { (s.swapCarry old new).1.lg with holdTo := s.elapsed + (s.swapCarry old new).2 } }

/-- The gap and the instant of the swap, as they show. -/
def State.swapWords (s : State) (old new : LogicImage) : List (Field × Nat × Nat × Nat) :=
  [(LG_BULLPEN_GAP_NS, 0, 0, (s.swapCarry old new).2 * 5 / 4), (LG_BULLPEN_SW_SEC, 0, 0, s.tu.sec), (LG_BULLPEN_SW_NS, 0, 0, s.tu.ns)]

/-- The swap shown, the Bullpen PREVIOUS. -/
def State.swapShow (s : State) (old new : LogicImage) : State :=
  ((s.swapHeld old new).bankShow 4).written (s.swapWords old new)

/-- The swap reported. -/
def State.swapTold (s : State) (x : LgSwitch) (old new : LogicImage) : State :=
  (s.swapShow old new).notify 0x20 5 0 (if x.rollback then 2 else 1) new.crc ((s.swapCarry old new).2 * 5 / 4) 0

/-- The swap done, and its command. -/
def State.swapDone (s : State) (x : LgSwitch) (old new : LogicImage) : State :=
  (s.swapTold x old new).settle (some x.cmd) .ok 0 0 (some s.now)

theorem exec_bullpenSwap_swaps {s : State} {x : LgSwitch} {new old : LogicImage} (hon : s.umOn = true)
    (hswitch : s.lg.switch = some x) (hbullpen : s.lg.bullpen = some new) (hactive : s.lg.active = some old)
    (hopen : ∀ n, n ∈ s.lgTasks → (s.lgTask n).open_ = none) :
    exec .bullpenSwap s = .next (s.swapDone x old new) := by
  show execBullpenSwap s = _
  have hfree : (!s.umOn || s.lgTasks.any (fun n => (s.lgTask n).open_.isSome)) = false := by
    simpa [hon] using hopen
  unfold execBullpenSwap
  simp only [hswitch, hbullpen, hfree, Bool.false_eq_true, if_false, hactive]
  rw [State.swapDone, State.swapTold, State.swapShow, State.swapHeld, State.swapWords, State.swapCarry, State.imagesSwapped, hactive]
  rfl

section swap

variable {s : State} (hi : s.Inv) (x : LgSwitch) (old new : LogicImage)
include hi

theorem State.imagesSwapped_inv : (s.imagesSwapped new).Inv := hi

theorem State.swapHeld_inv : (s.swapHeld old new).Inv :=
  (State.carryOver_moves (s := s.imagesSwapped new) (a0 := old) (a1 := new)).inv (State.imagesSwapped_inv hi new)

theorem State.swapShow_inv : (s.swapShow old new).Inv := State.written_inv (State.bankShow_inv (State.swapHeld_inv hi old new) 4) _

/-- Commands stay in flight as they were. -/
theorem State.swapTold_inflight : (s.swapTold x old new).mb.inflight = s.mb.inflight := by
  have hcarried : (s.imagesSwapped new).mb.inflight = (s.swapCarry old new).1.mb.inflight :=
    State.carryOver_moves.keep (State.imagesSwapped_inv hi new) .phases rfl
  have hheld : (s.swapHeld old new).mb = (s.swapCarry old new).1.mb := rfl
  have hshown : (s.swapShow old new).mb = (s.swapHeld old new).mb := by
    rw [State.swapShow, State.written_mb, (State.bankShow_keeps _ 4).2]
  rw [State.swapTold, State.notify, State.notifyAt_inflight (State.swapShow_inv hi old new), hshown, hheld, ← hcarried]
  rfl

theorem State.swapTold_state : (s.swapTold x old new).rd LG_BULLPEN_STATE 0 = 4 := by
  have hshown := State.bankShow_inv (State.swapHeld_inv hi old new) 4
  have htold := (State.keepsField_notify (f := LG_BULLPEN_STATE) rfl (s.swapShow old new) 0x20 5 0 (if x.rollback then 2 else 1)
    new.crc ((s.swapCarry old new).2 * 5 / 4) 0 (State.swapShow_inv hi old new)).2 0
  refine htold.trans ((State.rd_written_beside hshown ?_ 0).trans (State.bankShow_state (State.swapHeld_inv hi old new) 4))
  rfl

theorem State.swapTold_standing : (s.swapTold x old new).lg.standing =
    (some new, s.lg.active, some new, none, (carryM old new s.lg.m).1) := by
  have htold : (s.swapTold x old new).lg = (s.swapShow old new).lg := State.notify_lg (State.swapShow_inv hi old new) _ _ _ _ _ _ _
  have hshown : (s.swapShow old new).lg = (s.swapHeld old new).lg := by
    rw [State.swapShow, State.written_lg, (State.bankShow_keeps _ 4).1]
  rw [htold, hshown, State.swapHeld, LgSt.standing_holdTo]
  exact State.carryOver_standing (State.imagesSwapped_inv hi new) old new

end swap

/-- With no cycle open the swap takes place: the images change places, M is carried over, and the command is done (R311 to R316). -/
theorem bullpenSwap_effect {s : State} (hi : s.Inv) {x : LgSwitch} {c : Cmd} (hx : x.cmd = c.ref)
    (hfind : s.findCmd c.ring c.order = some c) (hu : c.undecided = true) (old new : LogicImage) :
    (s.swapDone x old new).lg.standing =
        (some new, s.lg.active, some new, none, (carryM old new s.lg.m).1) ∧
      (s.swapDone x old new).rd LG_BULLPEN_STATE 0 = 4 ∧
      (s.swapDone x old new).Outcome c .ok 0 0 0 0 (some s.now) := by
  have hinflight := State.swapTold_inflight hi x old new
  have hthere : (s.swapTold x old new).findCmd c.ring c.order = some c := by
    rw [State.findCmd, hinflight]
    exact hfind
  rw [State.swapDone, hx, State.settle_eq hthere hu]
  refine ⟨?_, ?_, State.setPhase_mem (List.mem_of_find?_eq_some hthere) hu _⟩
  · rw [State.setPhase_lg]
    exact State.swapTold_standing hi x old new
  · rw [State.setPhase_rd]
    exact State.swapTold_state hi x old new

/-! SW_WAIT is over (R312). -/

/-- The switch given up, the Bullpen as it was before. -/
def State.switchGivenUp (s : State) (x : LgSwitch) : State :=
  State.wr { s with lg := { s.lg with switch := none } } LG_BULLPEN_STATE 0 (if x.rollback then 4 else 2)

/-- The switch cancelled and reported, and its command answered. -/
def State.switchCancelled (s : State) (x : LgSwitch) : State :=
  ((s.switchGivenUp x).notify 0x20 6 0 1 0 0 0).settle (some x.cmd) .busyRetry 0 0 none

theorem exec_bullpenSwWaitExpiry_cancels {s : State} {x : LgSwitch} {n : Nat} (hon : s.umOn = true)
    (hswitch : s.lg.switch = some x) (hdue : x.since + usUnits (s.rd LG_BULLPEN_SW_WAIT 0) ≤ s.elapsed) (hn : n ∈ s.lgTasks)
    (hopen : (s.lgTask n).open_ ≠ none) : exec .bullpenSwWaitExpiry s = .next (s.switchCancelled x) := by
  show execBullpenSwWaitExpiry s = _
  have hany : s.lgTasks.any (fun n => (s.lgTask n).open_.isSome) = true :=
    List.any_eq_true.2 ⟨n, hn, Option.isSome_iff_ne_none.2 hopen⟩
  unfold execBullpenSwWaitExpiry State.lgCancel
  simp only [hswitch, hon, hdue, hany, decide_true, Bool.and_self, if_true]
  rfl

theorem State.switchGivenUp_inv {s : State} (hi : s.Inv) (x : LgSwitch) : (s.switchGivenUp x).Inv :=
  State.wr_inv (s := { s with lg := _ }) hi _ _ _

/-- A switch that waited too long is cancelled: its command ends with BUSY_RETRY, and nothing else of the images changes (R312). -/
theorem bullpenSwWaitExpiry_effect {s : State} (hi : s.Inv) {x : LgSwitch} {c : Cmd} (hx : x.cmd = c.ref)
    (hfind : s.findCmd c.ring c.order = some c) (hu : c.undecided = true) :
    (s.switchCancelled x).lg = { s.lg with switch := none } ∧
      (s.switchCancelled x).rd LG_BULLPEN_STATE 0 =
        (if x.rollback then 4 else 2) ∧
      (s.switchCancelled x).Outcome c .busyRetry 0 0 0 0 none := by
  have hgiven := State.switchGivenUp_inv hi x
  have hthere : ((s.switchGivenUp x).notify 0x20 6 0 1 0 0 0).findCmd c.ring c.order = some c := by
    rw [State.findCmd, State.notify, State.notifyAt_inflight hgiven]
    exact hfind
  rw [State.switchCancelled, hx, State.settle_eq hthere hu]
  refine ⟨State.notify_lg hgiven _ _ _ _ _ _ _, ?_, State.setPhase_mem (List.mem_of_find?_eq_some hthere) hu _⟩
  refine ((State.keepsField_notify (f := LG_BULLPEN_STATE) rfl _ _ _ _ _ _ _ _ hgiven).2 0).trans
    ((State.rd_wr_same (s := { s with lg := _ }) hi rfl 0 _).trans ?_)
  cases x.rollback <;> rfl

end Sys2Proof.Machine
end

