-- ==== Sys2Proof/Proofs/UmpireRounds.lean ====
section
/-! UMPIRE_ROUND (R318, R320, R322): the one write of a round, and what the outputs show after it; with the Bullpen, O49. -/

namespace Sys2Proof.Machine

open Sys2Proof

/-! A value equals itself in the type of its point. -/

/-- A number and its opposite cancel. -/
theorem addExact_opposite (n : Bool) (m : Nat) (e : Int) : (addExact n m e (!n) m e).2.1 = 0 := by
  cases n <;> simp [addExact]

theorem flt_irrefl (f : Fmt) (a : Nat) : flt f a a = false := by
  cases h : unpack f a with
  | fin n m e => simp [flt, h, addExact_opposite]
  | inf n => simp [flt, h]
  | nan => simp [flt, h]

theorem ptLt_irrefl (ty a : Nat) : ptLt ty a a = false := by
  simp [ptLt, flt_irrefl]

theorem ptEq_refl (ty a : Nat) : ptEq ty a a = true := by
  simp [ptEq, ptLt_irrefl]

/-! The record of a point. -/

theorem State.mapBump_pd (s old : State) : (s.mapBump old).pd = s.pd := rfl

/-- A record with an owner reads back from any table. -/
theorem State.putRec_ptRec (s : State) (i : Nat) {r : PtRec} (hr : r.owner ≠ 0) : (s.putRec i r).ptRec i = r := by
  rw [State.ptRec, State.putRec, State.mapBump_pd]
  refine mget_mset_of_ne (d := fun _ => PtRec.zero) ?_ s.pd.recs
  rintro rfl
  exact hr rfl

theorem State.pdHand_recs (s : State) (c : PtChange) : (s.pdHand c).pd.recs = s.pd.recs ∧ (s.pdHand c).pd.writes = s.pd.writes := by
  rw [State.pdHand]
  split <;> exact ⟨rfl, rfl⟩

/-- A point that is given a value with its owner shows both. -/
theorem State.ptSet_ptRec {s : State} {i owner : Nat} {d : PtDef} (hd : s.ptDef i = some d) (howner : owner ≠ 0)
    (raw qual t : Nat) : ((s.ptSet i raw owner qual t).ptRec i).raw = raw ∧
      ((s.ptSet i raw owner qual t).ptRec i).owner = owner := by
  simp only [State.ptSet, hd]
  split
  next hsame =>
    rw [State.putRec_ptRec]
    · exact ⟨hsame.1, rfl⟩
    · exact howner
  next =>
    have hput := s.putRec_ptRec i (r := ⟨raw, owner, qual, ctimeOf t⟩) howner
    split
    · rw [State.ptRec, (State.pdHand_recs _ _).1, ← State.ptRec, hput]
      exact ⟨rfl, rfl⟩
    · rw [hput]
      exact ⟨rfl, rfl⟩

theorem State.ptSet_writes (s : State) (i raw owner qual t : Nat) : (s.ptSet i raw owner qual t).pd.writes = s.pd.writes := by
  unfold State.ptSet
  split
  · rfl
  · extract_lets r s1
    split
    · rfl
    · split
      · exact (State.pdHand_recs _ _).2
      · rfl

/-! The one write of a round (R320, R322). -/

/-- The last entry of a POINT_WRITE is won: the command is done at the round's end, and leaves the list. -/
theorem State.entryDone_last {s : State} {r : Nat × Nat} (hw : s.pd.writes = [⟨r, 1, false, 0, 0, 0, none⟩]) (pos rank : Nat)
    (t : Stamp) : s.entryDone r pos true rank none t =
      State.settle { s with pd := { s.pd with writes := [] } } (some r) .ok 0 0 (some t) := by
  simp [State.entryDone, hw, State.writeEnd, b2n]

/-- A write that won, of a command, brings it its outcome. -/
theorem State.outcome_won {s : State} {w : UWrite} {r : Nat × Nat} (hcmd : w.cmd = some r) (htag : w.tag = none)
    (hlane : w.lane = none) (winner value : Nat) :
    s.outcome w true winner value = s.entryDone r w.pos true (winner / 16) none (Stamp.ofTai s.roundEnd) := by
  simp [State.outcome, hcmd, htag, hlane]

theorem State.laneWrites_none {s : State} (hout : s.rp.out = []) (start : Nat) : s.laneWrites start = s := by
  have hrp : { s.rp with out := [] } = s.rp := by rw [← hout]
  simp only [State.laneWrites, hout, List.filter_nil, List.mergeSort_nil, List.foldl_nil, hrp]

/-- The owner byte of a write's source. -/
def UWrite.owner (w : UWrite) : Nat := w.rank * 16 + w.src

/-- A point takes the value of the one write to it, and the owner of its source. -/
def State.pointTaken (s : State) (w : UWrite) : State :=
  (s.ptSet w.index w.raw w.owner (if w.rank = 7 then qForced else 0) s.roundEnd).forget w.index
    ((s.ptRec w.index).owner != w.owner)

/-- A round whose one member is a write of a POINT_WRITE, to a plain point that no engine owns. -/
structure LoneWrite (s : State) (w : UWrite) (d : PtDef) (c : Cmd) : Prop where
  stand : s.um.stand = []
  writes : s.um.writes = [w]
  stays : w.gone = false
  good : w.bad = false
  tag : w.tag = none
  lane : w.lane = none
  ranked : 0 < w.rank
  cmd : w.cmd = some c.ref
  entry : s.pd.writes = [⟨c.ref, 1, false, 0, 0, 0, none⟩]
  found : s.findCmd c.ring c.order = some c
  undecided : c.undecided = true
  defined : s.ptDef w.index = some d
  plain : d.bind = 0
  unowned : s.engineOwner w.index = none

/-- The write is the one member of its round: it wins. -/
theorem LoneWrite.wins {s : State} {w : UWrite} {d : PtDef} {c : Cmd} (h : LoneWrite s w d c) : s.resolvePoint w.index =
    (s.pointTaken w).outcome w true ((s.pointTaken w).ptRec w.index).owner w.raw := by
  have hnone : s.standing w.index = [] := by simp [State.standing, State.standOf, h.stand, mget]
  simp [State.resolvePoint, h.defined, h.unowned, h.plain, h.writes, hnone, h.stays, h.good, roundValue, ptEq_refl,
    State.pointTaken, UWrite.owner]

theorem State.forget_eq (s : State) (target : Nat) (changed : Bool) :
    ∃ told, s.forget target changed = { s with um := { s.um with told := told } } := by
  cases changed with
  | false => exact ⟨s.um.told, rfl⟩
  | true => exact ⟨_, rfl⟩

/-- The point shows the write, and nothing else of the round changes. -/
theorem State.pointTaken_effect {s : State} (hi : s.Inv) {w : UWrite} {d : PtDef} (hd : s.ptDef w.index = some d)
    (hrank : 0 < w.rank) : ((s.pointTaken w).ptRec w.index).raw = w.raw ∧ ((s.pointTaken w).ptRec w.index).owner = w.owner ∧
      (s.pointTaken w).pd.writes = s.pd.writes ∧ (s.pointTaken w).mb = s.mb ∧ (s.pointTaken w).um.roundAt = s.um.roundAt := by
  obtain ⟨hraw, howner⟩ := State.ptSet_ptRec (owner := w.owner) hd (by rw [UWrite.owner]; omega) w.raw
    (if w.rank = 7 then qForced else 0) s.roundEnd
  obtain ⟨told, htold⟩ := (s.ptSet w.index w.raw w.owner (if w.rank = 7 then qForced else 0) s.roundEnd).forget_eq w.index
    ((s.ptRec w.index).owner != w.owner)
  have hmb : s.mb = (s.ptSet w.index w.raw w.owner (if w.rank = 7 then qForced else 0) s.roundEnd).mb :=
    State.ptSet_moves.keep hi .mb rfl
  have hum : s.um = (s.ptSet w.index w.raw w.owner (if w.rank = 7 then qForced else 0) s.roundEnd).um :=
    State.ptSet_moves.keep hi .um rfl
  have hround : (s.ptSet w.index w.raw w.owner (if w.rank = 7 then qForced else 0) s.roundEnd).um.roundAt = s.um.roundAt := by
    rw [← hum]
  rw [State.pointTaken, htold]
  exact ⟨hraw, howner, State.ptSet_writes _ _ _ _ _ _, hmb.symm, hround⟩

/-! What the outputs show (R318). -/

/-- UM_OWN of an output shows an owner and a value. -/
def State.doShown (s : State) (n o : Nat) (v : Bool) : Prop := s.flag UM_OWN_VALUE n = v ∧ s.rd UM_OWN_OWNER n = o

theorem State.doDemand_owner {s : State} {n o : Nat} {v : Bool} (h : s.doDemand n = some (o, v)) : o < 2 ^ 8 := by
  unfold State.doDemand at h
  repeat' split at h
  all_goals simp at h
  all_goals omega

/-- A demand is a matter of TM's registers and of the demands that the Umpire holds. -/
theorem State.doDemand_congr {s t : State} (hreg : ∀ (f : Field) (i : Nat), f.unit = 0x11 → t.rd f i = s.rd f i)
    (hsf : t.um.sfOff = s.um.sfOff) (hforce : t.um.forceDo = s.um.forceDo) (hq : t.um.q = s.um.q) (n : Nat) :
    t.doDemand n = s.doDemand n := by
  have hen := fun i => hreg TM_BRK_EN i rfl
  have hinh := fun i => hreg TM_BRKST_CLOSE_INH i rfl
  have hdo := fun i => hreg TM_BRK_CLOSE_DO i rfl
  have htm : t.tmOff n = s.tmOff n := by simp only [State.tmOff, State.brks, State.flag, hen, hinh, hdo]
  rw [State.doDemand, State.doDemand, htm, hsf, hforce, hq]

/-- An output shows the demand that governs it. -/
def State.doTaken (s : State) (n o : Nat) (v : Bool) : State :=
  if s.rd UM_OWN_OWNER n = o then s.setFlag UM_OWN_VALUE n v
  else (((s.setFlag UM_OWN_VALUE n v).wr UM_OWN_OWNER n o).wr UM_OWN_SEC n s.tu.sec).forget (0x800000 + n) true

theorem State.resolveDo_governed {s : State} {n o : Nat} {v : Bool} (hmode : s.rd FD_DO_MODE n ≠ 1)
    (hd : s.doDemand n = some (o, v)) : s.resolveDo n = s.doTaken n o v := by
  simp only [State.resolveDo, if_neg hmode, hd]
  rfl

theorem State.resolveDo_ungoverned {s : State} {n : Nat} (h : s.rd FD_DO_MODE n = 1 ∨ s.doDemand n = none) :
    s.resolveDo n = s := by
  rcases h with hmode | hd
  · simp only [State.resolveDo, if_pos hmode]
  · simp only [State.resolveDo, hd, ite_self]

/-- An output is left alone, or takes the demand that governs it. -/
theorem State.resolveDo_cases (s : State) (n : Nat) :
    s.resolveDo n = s ∨ ∃ o v, s.resolveDo n = s.doTaken n o v := by
  by_cases hmode : s.rd FD_DO_MODE n = 1
  · exact .inl (State.resolveDo_ungoverned (.inl hmode))
  · cases hd : s.doDemand n with
    | none => exact .inl (State.resolveDo_ungoverned (.inr hd))
    | some e => exact .inr ⟨e.1, e.2, State.resolveDo_governed hmode hd⟩

/-- Of the Umpire an output changes only what was told of its conflicts. -/
theorem State.doTaken_um (s : State) (n o : Nat) (v : Bool) : ∃ told, (s.doTaken n o v).um = { s.um with told := told } := by
  unfold State.doTaken
  split
  · exact ⟨s.um.told, rfl⟩
  · exact ⟨_, rfl⟩

theorem State.resolveDo_um (s : State) (n : Nat) : ∃ told, (s.resolveDo n).um = { s.um with told := told } := by
  rcases s.resolveDo_cases n with h | ⟨o, v, h⟩
  · exact ⟨s.um.told, by rw [h]⟩
  · rw [h]
    exact s.doTaken_um n o v

theorem State.doTaken_shown {s : State} (hi : s.Inv) (n : Nat) {o : Nat} (ho : o < 2 ^ 8) (v : Bool) :
    (s.doTaken n o v).doShown n o v := by
  have hvalue : (s.setFlag UM_OWN_VALUE n v).Inv := State.setFlag_inv hi _ _ _
  have howner : ((s.setFlag UM_OWN_VALUE n v).wr UM_OWN_OWNER n o).Inv := State.wr_inv hvalue _ _ _
  have hset : (s.setFlag UM_OWN_VALUE n v).flag UM_OWN_VALUE n = v := State.flag_setFlag_same hi rfl n v
  unfold State.doTaken
  split
  next hsame => exact ⟨hset, (State.rdk_wrk_beside hi (f := UM_OWN_VALUE) rfl n n _).trans hsame⟩
  next =>
    have hsec : ∀ g : Field, UM_OWN_SEC.beside g 0 0 = true → ∀ k, (State.wr ((s.setFlag UM_OWN_VALUE n v).wr UM_OWN_OWNER n o)
        UM_OWN_SEC k s.tu.sec).rd g n = ((s.setFlag UM_OWN_VALUE n v).wr UM_OWN_OWNER n o).rd g n :=
      fun g hg k => State.rdk_wrk_beside howner hg k n _
    refine ⟨(congrArg (· != 0) ((hsec UM_OWN_VALUE rfl n).trans ?_)).trans hset, (hsec UM_OWN_OWNER rfl n).trans ?_⟩
    · exact State.rdk_wrk_beside hvalue (f := UM_OWN_OWNER) rfl n n o
    · exact (State.rd_wr_same hvalue (f := UM_OWN_OWNER) rfl n o).trans (Nat.mod_eq_of_lt ho)

/-- Another output is left as it shows. -/
theorem State.doTaken_other {s : State} (hi : s.Inv) {k n : Nat} (hn : n % 65536 ≠ k % 65536) (o : Nat) (v : Bool) (g : Field) :
    (s.doTaken k o v).rd g n = s.rd g n := by
  have hvalue : (s.setFlag UM_OWN_VALUE k v).Inv := State.setFlag_inv hi _ _ _
  have hset : (s.setFlag UM_OWN_VALUE k v).rd g n = s.rd g n := State.rd_wr_ne hi rfl _ (.inr (.inr (.inl hn)))
  unfold State.doTaken
  split
  · exact hset
  · refine (State.rd_wr_ne (State.wr_inv hvalue UM_OWN_OWNER k o) (f := UM_OWN_SEC) rfl _ (.inr (.inr (.inl hn)))).trans ?_
    exact (State.rd_wr_ne hvalue rfl _ (.inr (.inr (.inl hn)))).trans hset

theorem State.resolveDo_other {s : State} (hi : s.Inv) {k n : Nat} (hn : n % 65536 ≠ k % 65536) (g : Field) :
    (s.resolveDo k).rd g n = s.rd g n := by
  rcases s.resolveDo_cases k with h | ⟨o, v, h⟩
  · rw [h]
  · rw [h]
    exact State.doTaken_other hi hn o v g

/-- A demand outlasts the turn of any output. -/
theorem State.resolveDo_doDemand {s : State} (hi : s.Inv) (k n : Nat) : (s.resolveDo k).doDemand n = s.doDemand n := by
  obtain ⟨told, hum⟩ := s.resolveDo_um k
  refine State.doDemand_congr (fun f i hf => State.resolveDo_moves.rd hi (by rw [hf]; decide) i) ?_ ?_ ?_ n <;> rw [hum]

/-- When the outputs had their turns, each shows the demand that governs it. -/
theorem State.resolveDos_shown {n o : Nat} {v : Bool} (hn : n < 65536) : ∀ (l : List Nat) {s : State}, s.Inv →
    (∀ k, k ∈ l → k < 65536) → s.rd FD_DO_MODE n ≠ 1 → s.doDemand n = some (o, v) → n ∈ l ∨ s.doShown n o v →
      (l.foldl State.resolveDo s).doShown n o v
  | [], _, _, _, _, _, h => h.resolve_left List.not_mem_nil
  | k :: l, s, hi, hl, hmode, hd, h => by
    refine State.resolveDos_shown hn l (State.resolveDo_moves.inv hi) (fun j hj => hl j (List.mem_cons_of_mem k hj))
      (by rwa [State.resolveDo_moves.rd hi rfl]) (by rwa [State.resolveDo_doDemand hi]) ?_
    by_cases hkn : n = k
    · subst hkn
      rw [State.resolveDo_governed hmode hd]
      exact .inr (State.doTaken_shown hi n (State.doDemand_owner hd) v)
    · have hk := hl k List.mem_cons_self
      have hother := State.resolveDo_other hi (k := k) (n := n) (by omega)
      refine h.imp (fun hm => (List.mem_cons.1 hm).resolve_left hkn) fun hshown => ?_
      rwa [State.doShown, State.flag, hother, hother]

/-! The end of a round. -/

/-- The round with the given end, in µs, is taken up. -/
def State.roundBegun (s : State) (e : Nat) : State := { s with um := { s.um with roundAt := e } }

/-- The writes of the round are through. -/
def State.roundCleared (s : State) : State := { s with um := { s.um with writes := [] } }

/-- The station bytes are kept for the frames, and the demands handed over once end. -/
def State.roundTidied (s : State) (e : Nat) : State := (s.keepBytes e).endOnce

/-- The outputs and station bytes take their values, and what changed is sent. -/
def State.roundEnded (s : State) (e : Nat) : State := (s.roundCleared.resolveOutputs.roundTidied e).sendChanged

theorem State.roundTidied_inv {s : State} (hi : s.Inv) (e : Nat) : (s.roundTidied e).Inv := hi

theorem State.roundTidied_keeps (s : State) (e : Nat) : (s.roundTidied e).regs = s.regs ∧ (s.roundTidied e).pd = s.pd ∧
    (s.roundTidied e).mb = s.mb ∧ (s.roundTidied e).um.roundAt = s.um.roundAt ∧ (s.roundTidied e).um.writes = s.um.writes :=
  ⟨rfl, rfl, rfl, rfl, rfl⟩

/-- The points that have a demand or a write are resolved, and the round ends. -/
def State.roundResolved (s : State) (e : Nat) : State :=
  ((s.roundBegun e).targets.foldl State.resolvePoint (s.roundBegun e)).roundEnded e

theorem State.roundBegun_laneWrites {s : State} (hout : s.rp.out = []) (e start : Nat) :
    (s.roundBegun e).laneWrites start = s.roundBegun e := State.laneWrites_none (s := s.roundBegun e) hout start

/-- A round whose lanes write nothing. -/
theorem exec_umpireRound_runs {s : State} (hon : s.umOn = true) (hgrid : s.gridOk 1000 = true) (hnew : s.um.roundAt ≠ s.tai / 1000)
    (hcut : s.cs.cut = false) (hout : s.rp.out = []) : exec .umpireRound s = .next (s.roundResolved (s.tai / 1000)) := by
  show execUmpireRound s = _
  have hdue : (!s.umOn || !s.gridOk 1000 || s.tai / 1000 == s.um.roundAt) = false := by simp [hon, hgrid, hnew.symm]
  unfold execUmpireRound
  extract_lets e _ s0 s1 s2 _ s3
  have h1 : s1 = s.roundBegun (s.tai / 1000) := State.roundBegun_laneWrites hout _ _
  have h3 : s3 = s2.roundCleared := rfl
  rw [if_neg (by rw [hdue]; decide), if_neg (by rw [hcut]; decide), h3, State.roundResolved, State.roundEnded,
    State.roundTidied, ← h1]

theorem State.rbSend_pd (s : State) (cls type dmode dst stn group : Nat) (payload ports : List Nat) :
    (s.rbSend cls type dmode dst stn group payload ports).pd = s.pd := by
  unfold State.rbSend
  split
  · exact List.foldlRecOn (motive := fun t : State => t.pd = s.pd) _ _ rfl fun _ h _ _ => h
  · rfl

/-- Sending records changes none. -/
theorem State.sendChanged_recs (s : State) : s.sendChanged.pd.recs = s.pd.recs := by
  refine List.foldlRecOn (motive := fun t : State => t.pd.recs = s.pd.recs) _ _ rfl fun t h x _ => ?_
  split
  · exact (congrArg PdSt.recs (State.rbSend_pd _ _ _ _ _ _ _ _ _)).trans h
  · exact h

theorem State.resolveBytes_um (s : State) : ∃ qOut, s.resolveBytes.um = { s.um with qOut := qOut } := by
  refine List.foldlRecOn (motive := fun t : State => ∃ qOut, t.um = { s.um with qOut := qOut }) _ _ ⟨s.um.qOut, rfl⟩
    fun t h k _ => ?_
  obtain ⟨qOut, h⟩ := h
  split
  · exact ⟨_, by rw [h]⟩
  · exact ⟨_, by rw [h]⟩
  · exact ⟨_, h⟩

theorem State.resolveDos_um (s : State) (l : List Nat) : ∃ told, (l.foldl State.resolveDo s).um = { s.um with told := told } := by
  refine List.foldlRecOn (motive := fun t : State => ∃ told, t.um = { s.um with told := told }) l _ ⟨s.um.told, rfl⟩
    fun t h k _ => ?_
  obtain ⟨told, h⟩ := h
  obtain ⟨told', h'⟩ := t.resolveDo_um k
  exact ⟨told', by rw [h', h]⟩

/-- The end of a round leaves the records of the points and the commands in flight. -/
theorem State.roundEnded_keeps {s : State} (hi : s.Inv) (e : Nat) : (s.roundEnded e).pd.recs = s.pd.recs ∧
    (s.roundEnded e).mb.inflight = s.mb.inflight ∧ (s.roundEnded e).um.roundAt = s.um.roundAt ∧ (s.roundEnded e).um.writes = [] := by
  have hcleared : s.roundCleared.Inv := hi
  have htidied := State.roundTidied_inv (State.resolveOutputs_moves.inv hcleared) e
  obtain ⟨-, hpd', hmb', hround', hwrites'⟩ := s.roundCleared.resolveOutputs.roundTidied_keeps e
  have hpd : s.pd = s.roundCleared.resolveOutputs.pd := State.resolveOutputs_moves.keep hcleared .pd rfl
  have hmb : s.mb = s.roundCleared.resolveOutputs.mb := State.resolveOutputs_moves.keep hcleared .mb rfl
  have hsent : (s.roundCleared.resolveOutputs.roundTidied e).um = (s.roundEnded e).um := State.sendChanged_moves.keep htidied .um rfl
  have hflight : (s.roundCleared.resolveOutputs.roundTidied e).mb = (s.roundEnded e).mb :=
    State.sendChanged_moves.keep htidied .mb rfl
  obtain ⟨told, htold⟩ := s.roundCleared.resolveDos_um (List.range 24)
  obtain ⟨qOut, hbytes⟩ := ((List.range 24).foldl State.resolveDo s.roundCleared).resolveBytes_um
  have hum : s.roundCleared.resolveOutputs.um = { s.um with writes := [], told := told, qOut := qOut } := by
    rw [State.resolveOutputs, hbytes, htold]
    rfl
  refine ⟨?_, ?_, ?_, ?_⟩
  · rw [State.roundEnded, State.sendChanged_recs, hpd', ← hpd]
  · rw [← hflight, hmb', ← hmb]
  · rw [← hsent, hround', hum]
  · rw [← hsent, hwrites', hum]

/-- At the end of a round each output shows the demand that governs it. -/
theorem State.roundEnded_shown {s : State} (hi : s.Inv) (e : Nat) {n o : Nat} {v : Bool} (hn : n < 24)
    (hmode : s.rd FD_DO_MODE n ≠ 1) (hd : s.doDemand n = some (o, v)) : (s.roundEnded e).doShown n o v := by
  have hcleared : s.roundCleared.Inv := hi
  have hshown : ((List.range 24).foldl State.resolveDo s.roundCleared).doShown n o v :=
    State.resolveDos_shown (by omega) _ hcleared (fun k hk => by have := List.mem_range.1 hk; omega) hmode hd
      (.inl (List.mem_range.2 hn))
  have hdone : ((List.range 24).foldl State.resolveDo s.roundCleared).Inv :=
    (Moves.foldl Moves.refl fun _ _ => State.resolveDo_moves).inv hcleared
  have htidied := State.roundTidied_inv (State.resolveOutputs_moves.inv hcleared) e
  have hrd : ∀ f : Field, f.unit = 0x21 →
      (s.roundEnded e).rd f n = ((List.range 24).foldl State.resolveDo s.roundCleared).rd f n := fun f hf => by
    rw [State.roundEnded, State.sendChanged_moves.rd htidied (by rw [hf]; decide),
      State.rd_of_regs (s.roundCleared.resolveOutputs.roundTidied_keeps e).1, State.resolveOutputs,
      State.resolveBytes_moves.rd hdone (by rw [hf]; decide)]
  rwa [State.doShown, State.flag, hrd UM_OWN_VALUE rfl, hrd UM_OWN_OWNER rfl]

/-! A round with one write, and one without (R320, R322). -/

theorem LoneWrite.roundBegun {s : State} {w : UWrite} {d : PtDef} {c : Cmd} (h : LoneWrite s w d c) (e : Nat) :
    LoneWrite (s.roundBegun e) w d c :=
  ⟨h.stand, h.writes, h.stays, h.good, h.tag, h.lane, h.ranked, h.cmd, h.entry, h.found, h.undecided, h.defined, h.plain, h.unowned⟩

/-- The point takes the one write, whose command is done at the round's end. -/
theorem LoneWrite.resolved {s : State} {w : UWrite} {d : PtDef} {c : Cmd} (h : LoneWrite s w d c) (hi : s.Inv) :
    (s.resolvePoint w.index).um.roundAt = s.um.roundAt ∧ ((s.resolvePoint w.index).ptRec w.index).raw = w.raw ∧
      ((s.resolvePoint w.index).ptRec w.index).owner = w.owner ∧
      (s.resolvePoint w.index).Outcome c .ok 0 0 0 0 (some (Stamp.ofTai s.roundEnd)) := by
  obtain ⟨hraw, howner, hlist, hmb, hround⟩ := State.pointTaken_effect hi h.defined h.ranked
  have hthere : State.findCmd { s.pointTaken w with pd := { (s.pointTaken w).pd with writes := [] } } c.ring c.order = some c := by
    rw [State.findCmd]
    exact (congrArg (fun m : Mailbox => m.inflight.find? _) hmb).trans h.found
  have hend : (s.pointTaken w).roundEnd = s.roundEnd := congrArg (· * 1000) hround
  rw [h.wins, State.outcome_won h.cmd h.tag h.lane, State.entryDone_last (hlist.trans h.entry),
    State.settle_eq hthere h.undecided, hend]
  exact ⟨hround, hraw, howner, State.setPhase_mem (List.mem_of_find?_eq_some hthere) h.undecided _⟩

theorem LoneWrite.targets {s : State} {w : UWrite} {d : PtDef} {c : Cmd} (h : LoneWrite s w d c) : s.targets = [w.index] := by
  rw [State.targets, h.stand, h.writes]
  rfl

/-- A round with one write gives it its point, and its command the outcome (R322). -/
theorem LoneWrite.roundResolved {s : State} {w : UWrite} {d : PtDef} {c : Cmd} (h : LoneWrite s w d c) (hi : s.Inv) (e : Nat) :
    (s.roundResolved e).um.roundAt = e ∧ (s.roundResolved e).um.writes = [] ∧
      ((s.roundResolved e).ptRec w.index).raw = w.raw ∧ ((s.roundResolved e).ptRec w.index).owner = w.rank * 16 + w.src ∧
      (s.roundResolved e).Outcome c .ok 0 0 0 0 (some (Stamp.ofTai (e * 1000))) := by
  have hbegun : (s.roundBegun e).Inv := hi
  obtain ⟨hround, hraw, howner, houtcome⟩ := (h.roundBegun e).resolved hbegun
  obtain ⟨hrecs, hflight, hround', hcleared⟩ := State.roundEnded_keeps ((State.resolvePoint_moves (a0 := w.index)).inv hbegun) e
  rw [State.roundResolved, (h.roundBegun e).targets, List.foldl_cons, List.foldl_nil, State.ptRec, hrecs, ← State.ptRec,
    State.Outcome, hflight]
  exact ⟨hround'.trans hround, hcleared, hraw, howner, houtcome⟩

/-- A round without demands on points or writes leaves the points, and each output shows the demand that governs it (R318). -/
theorem State.roundResolved_quiet {s : State} (hi : s.Inv) (hstand : s.um.stand = []) (hwrites : s.um.writes = []) (e : Nat) :
    (s.roundResolved e).um.roundAt = e ∧ (s.roundResolved e).pd.recs = s.pd.recs ∧
      ∀ n o v, n < 24 → s.rd FD_DO_MODE n ≠ 1 → s.doDemand n = some (o, v) → (s.roundResolved e).doShown n o v := by
  have hbegun : (s.roundBegun e).Inv := hi
  have htargets : (s.roundBegun e).targets = [] := by
    rw [State.targets, State.roundBegun, hstand, hwrites]
    rfl
  obtain ⟨hrecs, -, hround, -⟩ := State.roundEnded_keeps hbegun e
  rw [State.roundResolved, htargets, List.foldl_nil]
  exact ⟨hround, hrecs, fun n o v hn hmode hd => State.roundEnded_shown hbegun e hn hmode hd⟩

/-! The obligation. -/

/-- Settles O49: each command or event by the state it leads to, and that state by what its operations write and leave. -/
theorem logicImagesSwitchAndDemandsResolve : Obligations.LogicImagesSwitchAndDemandsResolve := by
  unfold Obligations.LogicImagesSwitchAndDemandsResolve
  refine ⟨?load, ?switch, ?swap, ?wait, ?round⟩
  case load =>
    intro s ring idx im sig c hi hr hb hobj hmodes hreach
    refine ⟨fun hf => ?_, fun st r0 hf => ?_⟩
    · obtain ⟨hlg, hstate, hcrc, houtcome⟩ := bullpenLoad_ready_effect hi hr.mem hr.undecided im sig
      refine ⟨_, exec_bullpenLoad_ready hr hb hobj hmodes hreach hf, ?_, ?_, ?_, hstate, hcrc, houtcome⟩ <;> rw [hlg]
    · obtain ⟨hlg, hstate, houtcome⟩ := bullpenLoad_faulty_effect hi hr.mem hr.undecided st r0
      refine ⟨_, exec_bullpenLoad_faulty hr hb hobj hmodes hreach hf, ?_, ?_, ?_, hstate, houtcome⟩ <;> rw [hlg]
  case switch =>
    intro s ring idx c hi hr hobj ha hmodes
    refine ⟨fun hp hstate => ⟨fun hcrc => ?_, fun hcrc => ?_⟩, fun hp hstate => ?_⟩
    · obtain ⟨hswitch, hstate', hactive, hawaits⟩ := State.switchStart_effect hi hr.mem hr.undecided false
      exact ⟨_, exec_bullpenSwitch_starts hr hobj ha hmodes hp hstate hcrc, hswitch, hstate', hactive, hawaits⟩
    · refine ⟨_, exec_bullpenSwitch_wrongCrc hr hobj hp hcrc, ?_, ?_, State.refuse_outcome hr.mem hr.undecided (by decide)⟩
      · rw [State.refuse_eq (by decide)]
        rfl
      · rw [State.refuse_eq (by decide)]
        rfl
    · obtain ⟨hswitch, hstate', hactive, hawaits⟩ := bullpenRollback_effect hi hr.mem hr.undecided
      exact ⟨_, exec_bullpenRollback_starts hr hobj ha hmodes hp hstate, hswitch, hstate', hactive, hawaits⟩
  case swap =>
    intro s x new old c hi hon hswitch hbullpen hactive hopen hm hx hfind hu
    obtain ⟨hstanding, hstate, houtcome⟩ := bullpenSwap_effect hi hx hfind hu old new
    simp only [LgSt.standing, Prod.mk.injEq] at hstanding
    obtain ⟨hactive', hbullpen', hcommitted, hnone, hm'⟩ := hstanding
    refine ⟨_, exec_bullpenSwap_swaps hon hswitch hbullpen hactive hopen, hactive', hbullpen'.trans hactive, hcommitted, hnone,
      hstate, houtcome, fun w hw => ?_, fun r o k hinsts ho hkind hk => ?_⟩
    · rw [hm', carryM_eq]
      exact copyInsts_other hm old new.insts hw
    · rw [hm', carryM_eq, hinsts, ← carriedWord_carried _ o hkind, ← ho]
      exact (copyWords_effect hm r _ _).2.2 k hk
  case wait =>
    intro s x n c hi hon hswitch hdue hn hopen hx hfind hu
    obtain ⟨hlg, hstate, houtcome⟩ := bullpenSwWaitExpiry_effect hi hx hfind hu
    refine ⟨_, exec_bullpenSwWaitExpiry_cancels hon hswitch hdue hn hopen, ?_, ?_, ?_, hstate, houtcome⟩ <;> rw [hlg]
  case round =>
    intro s hi hon hgrid hnew hcut hstand hout
    have hexec := exec_umpireRound_runs hon hgrid hnew hcut hout
    refine ⟨fun w d c hw hgone hbad htag hlane hcmd hwrites hfind hu hd hbind hengine hrank => ?_, fun hw => ?_⟩
    · have hlone : LoneWrite s w d c :=
        ⟨hstand, hw, hgone, hbad, htag, hlane, hrank, hcmd, hwrites, hfind, hu, hd, hbind, hengine⟩
      exact ⟨_, hexec, hlone.roundResolved hi _⟩
    · exact ⟨_, hexec, State.roundResolved_quiet hi hstand hw _⟩

end Sys2Proof.Machine
end

