-- ==== Sys2Proof/Proofs/PointTables.lean ====
section
/-! The tables of the point directory, the Umpire's demands and the lanes: what they read after a write, and what a point that is given
a value leaves of the directory (R334). -/

namespace Sys2Proof.Machine

open Sys2Proof

/-- The tables that `State.pointMapsOk` speaks of, one by one. -/
theorem State.pointMapsOk_iff {s : State} : s.pointMapsOk = true ↔
    mapOk (fun _ => PtRec.zero) s.pd.recs = true ∧ mapOk (fun _ => none) s.pd.forces = true ∧
      mapOk (fun _ => none) s.um.stand = true ∧ mapOk (fun _ => MirSt.init) s.pd.mirrors = true ∧
      mapOk (fun _ => none) s.fd.forceDi = true ∧ mapOk (fun _ => none) s.um.forceDo = true ∧
      mapOk (fun _ => []) s.rp.steps = true ∧ mapOk (fun _ => RpLane.init) s.rp.lanes = true := by
  simp only [State.pointMapsOk, Bool.and_eq_true, and_assoc]

/-! Records of points (R334). -/

/-- The record of a point that is given a value: without a change of value or of quality bits [15:8] its CTIME stays. -/
def PtRec.given (r : PtRec) (raw owner qual t : Nat) : PtRec :=
  ⟨raw, owner, qual, if r.raw = raw ∧ r.high = qual / 256 % 256 then r.ctime else ctimeOf t⟩

theorem State.pdHand_pd (s : State) (x : PtChange) :
    ∃ changes chLoss, (s.pdHand x).pd = { s.pd with changes := changes, chLoss := chLoss } := by
  rw [State.pdHand]
  split
  · exact ⟨_, s.pd.chLoss, rfl⟩
  · exact ⟨s.pd.changes, _, rfl⟩

/-- Of the directory, a value given to a point changes its record, and what is handed to the change recorder. -/
theorem State.ptSet_pd {s : State} {i : Nat} {d : PtDef} (hd : s.ptDef i = some d) (raw owner qual t : Nat) :
    ∃ changes chLoss, (s.ptSet i raw owner qual t).pd = { s.pd with
      recs := mset (fun _ => PtRec.zero) i ((s.ptRec i).given raw owner qual t) s.pd.recs
      changes := changes, chLoss := chLoss } := by
  simp only [State.ptSet, hd]
  split
  next hsame =>
    refine ⟨s.pd.changes, s.pd.chLoss, ?_⟩
    rw [PtRec.given, if_pos hsame, ← hsame.1]
    rfl
  next hnew =>
    rw [PtRec.given, if_neg hnew]
    split
    · exact State.pdHand_pd _ _
    · exact ⟨s.pd.changes, s.pd.chLoss, rfl⟩

/-- A record with a quality other than 0 reads back from any table. -/
theorem mget_mset_rec {i : Nat} {r : PtRec} (hr : r.qual ≠ 0) (m : AMap PtRec) :
    mget (fun _ => PtRec.zero) (mset (fun _ => PtRec.zero) i r m) i = r :=
  mget_mset_of_ne (d := fun _ => PtRec.zero) (fun h => hr (congrArg PtRec.qual h)) m

/-! Quality bits. -/

theorem natBit_eq_natBits (n i : Nat) : natBit n i = (natBits n i i == 1) := by
  simp [natBit, natBits]

theorem natBit_natSetBit (n i : Nat) (b : Bool) : natBit (natSetBit n i b) i = b := by
  rw [natBit_eq_natBits, natSetBit, natBits_natPut]
  cases b <;> simp

/-! Demands on points. -/

theorem State.setStand_standOf {s : State} (hok : mapOk (fun _ => none) s.um.stand = true) (i rank : Nat) (x : Option PDemand) :
    (s.setStand i rank x).standOf i rank = x :=
  mget_mset_same _ x s.um.stand hok

/-! Lanes. -/

section lanes

variable {s : State} (hok : mapOk (fun _ => RpLane.init) s.rp.lanes = true)
include hok

theorem State.setLane_lane (n : Nat) (x : RpLane) : (s.setLane n x).lane n = x := mget_mset_same n x s.rp.lanes hok

theorem State.setLane_ok (n : Nat) (x : RpLane) : mapOk (fun _ => RpLane.init) (s.setLane n x).rp.lanes = true := mset_ok hok

theorem State.setLane_setLane (n : Nat) (x y : RpLane) : (s.setLane n x).setLane n y = s.setLane n y :=
  congrArg (fun l => { s with rp := { s.rp with lanes := l } }) (mset_mset_same n x y s.rp.lanes hok)

end lanes

/-! Frames of point traffic (R479). -/

/-- Of the directory, a frame sent shows itself and counts. -/
theorem State.ptSend_pd (s : State) (dev type : Nat) (ws : List Nat) :
    (s.ptSend dev type ws).pd = { s.pd with tx := dev :: type :: ws, txCount := s.pd.txCount + 1 } :=
  State.rbSend_pd _ _ _ _ _ _ _ _ _

end Sys2Proof.Machine
end

