-- ==== Sys2Proof/Proofs/PointCommands.lean ====
section
/-! POINT_READ and POINT_WRITE of a local point (R337, R343). -/

namespace Sys2Proof.Machine

open Sys2Proof

/-! Commands that name a local point. -/

section named

variable {s : State} {c : Cmd}

theorem State.goesOut_local (hlocal : c.remote = false) : s.goesOut c = false := by
  simp [State.goesOut, hlocal]

theorem State.ptAbsentOf_local (hlocal : c.remote = false) : s.ptAbsentOf c = none := by
  simp [State.ptAbsentOf, hlocal]

theorem State.ptBadOf_local (hobj : c.objid = pdObj) (hlocal : c.remote = false) (hp0 : c.p0Bad = false) : s.ptBadOf c = false := by
  simp [State.ptBadOf, hobj, hp0, State.goesOut_local hlocal]

/-- With bits [31:23] zero, the parameter word is the index. -/
theorem Cmd.par_eq_ptIndex (hpar : (c.par 1).get 31 23 = 0) : (c.par 1).toNat = c.ptIndex := by
  have hlt := (c.par 1).isLt
  simp only [Cmd.ptIndex, W32.get, natBits] at hpar ⊢
  omega

end named

/-! POINT_READ. -/

/-- A POINT_READ is answered with the record of its point. -/
def State.pointAnswered (s : State) (c : Cmd) : State :=
  s.answer c ((s.ptWords c.ptIndex).getD 0 0) ((s.ptWords c.ptIndex).getD 1 0) ((s.ptWords c.ptIndex).getD 2 0)
    ((s.ptWords c.ptIndex).getD 3 0)

theorem exec_pointRead_answers {s : State} {ring idx : Nat} {c : Cmd} (hr : s.Ready ring idx c) (hp : c.Plain opPointRead 8)
    (hmodes : s.inMode modesTrain = true) (hobj : c.objid = pdObj) (hlocal : c.remote = false) (hp0 : c.p0Bad = false)
    (hpar : (c.par 1).get 31 23 = 0) (ok : Bool) (beat : Option (Nat × SdBeat)) :
    exec (.pointRead ring idx ok beat) s = .next ((s.recordBeat c beat).pointAnswered c) := by
  show execPointRead ring idx ok beat s = _
  refine (hr.runCmd hp.isOp ((State.verdict_own hr hp ?_ ?_ ?_ ?_ hmodes).trans ?_)).trans (congrArg _ ?_)
  · simp [hp.inline]
  · exact State.ptAbsentOf_local hlocal
  · simp [State.ptBadOf_local hobj hlocal hp0, hpar]
  · simp
  · simp [State.goesOut_local hlocal, hp.buf]
  · simp [State.goesOut_local hlocal, hp.buf, State.pointAnswered]

theorem State.pointAnswered_outcome {s : State} {c : Cmd} {d : PtDef} (hd : s.ptDef c.ptIndex = some d) (hc : c ∈ s.mb.inflight)
    (hu : c.undecided = true) : (s.pointAnswered c).Outcome c .ok ((s.ptRec c.ptIndex).raw % 2 ^ 32)
      ((s.ptRec c.ptIndex).raw / 2 ^ 32 % 2 ^ 32) (ptWord2 d (s.ptRec c.ptIndex)) ((s.ptRec c.ptIndex).ctime % 2 ^ 32) none := by
  simp only [State.pointAnswered, State.ptWords, hd]
  exact State.answer_outcome hc hu _ _ _ _

/-- A beat of the record that cannot be corrected is an error of the point's memory (R343). -/
theorem State.recordBeat_uncorrectable {s : State} {c : Cmd} {d : PtDef} {b : SdBeat} {a : Bool} (hlocal : c.remote = false)
    (hbuf : c.buf = false) (hd : s.ptDef c.ptIndex = some d) (hb : sdRead b = .uncorrectable a) :
    s.recordBeat c (some (c.ptIndex, b)) = s.ptMemError c.ptIndex := by
  have hreads : s.readsPoint c c.ptIndex = true := by simp [State.readsPoint, State.goesOut_local hlocal, hbuf, hd]
  simp [State.recordBeat, hreads, hb, State.sdJudge]

/-- The point that lost its record reads 0, invalid with DETAIL 0x5, and the error is counted. -/
def State.recordLost (s : State) (i : Nat) : State :=
  let zeroed := s.ptSet i 0 (s.ptRec i).owner (qInvalid + qDetail 5) s.tai
  { zeroed with pd := { zeroed.pd with memErrs := min (zeroed.pd.memErrs + 1) (2 ^ 32 - 1) } }

theorem State.ptMemError_unpinned {s : State} {i : Nat} (hpin : s.ptPinned i = false) :
    s.ptMemError i = (s.recordLost i).notify 0x22 2 2 i 0 0 0 := by
  rw [State.ptMemError, hpin]
  rfl

theorem State.recordLost_effect {s : State} {i : Nat} {d : PtDef} (hd : s.ptDef i = some d) :
    (s.recordLost i).ptRec i = (s.ptRec i).given 0 (s.ptRec i).owner (qInvalid + qDetail 5) s.tai ∧
      (s.recordLost i).ptDef i = some d ∧ (s.recordLost i).pd.memErrs = min (s.pd.memErrs + 1) (2 ^ 32 - 1) := by
  obtain ⟨changes, chLoss, hpd⟩ := State.ptSet_pd hd 0 (s.ptRec i).owner (qInvalid + qDetail 5) s.tai
  rw [State.ptRec, State.ptDef, State.recordLost, hpd]
  exact ⟨mget_mset_rec (by decide : qInvalid + qDetail 5 ≠ 0) s.pd.recs, hd, rfl⟩

/-- A point that is not pinned reads 0, invalid, and the error is counted and raised (R343). -/
theorem State.ptMemError_effect {s : State} (hi : s.Inv) {i : Nat} {d : PtDef} (hd : s.ptDef i = some d)
    (hpin : s.ptPinned i = false) : ((s.ptMemError i).ptRec i).raw = 0 ∧ ((s.ptMemError i).ptRec i).bad = true ∧
      (s.ptMemError i).ptDef i = some d ∧ (s.ptMemError i).pd.memErrs = min (s.pd.memErrs + 1) (2 ^ 32 - 1) ∧
      ⟨0x2202, 2⟩ ∈ (s.ptMemError i).ec.arrivals ∧ (s.ptMemError i).mb.inflight = s.mb.inflight := by
  obtain ⟨hrec, hdef, herrs⟩ := State.recordLost_effect hd
  have hlost : (s.recordLost i).Inv := State.ptSet_moves.inv hi
  have hpd : (s.recordLost i).pd = ((s.recordLost i).notify 0x22 2 2 i 0 0 0).pd := State.notify_moves.keep hlost .pd rfl
  have hset : s.mb.inflight = (s.recordLost i).mb.inflight :=
    State.ptSet_moves.keep (t := s.ptSet i 0 (s.ptRec i).owner (qInvalid + qDetail 5) s.tai) hi .phases rfl
  have htold : (s.recordLost i).mb.inflight = ((s.recordLost i).notify 0x22 2 2 i 0 0 0).mb.inflight :=
    State.notify_moves.keep hlost .phases rfl
  rw [State.ptMemError_unpinned hpin, State.ptRec, State.ptDef, ← hpd, ← State.ptRec, ← State.ptDef, hrec]
  exact ⟨rfl, (by decide : natBit (qInvalid + qDetail 5) 14 = true), hdef, herrs,
    State.notifyAt_mem_arrivals hlost (by decide) _ _ _ _ _, (hset.trans htold).symm⟩

/-! POINT_WRITE. -/

/-- The write of a POINT_WRITE without a buffer, at its master's rank. -/
def State.masterWrite (s : State) (c : Cmd) : UWrite :=
  ⟨c.ptIndex, c.rawPar, false, (s.masterRank c.master).1, (s.masterRank c.master).2, 0, some c.ref, 0, none, none, false⟩

/-- A POINT_WRITE of one entry is under way. -/
def State.writeBegun (s : State) (c : Cmd) : State :=
  { s.start c with pd := { s.pd with writes := s.pd.writes ++ [⟨c.ref, 1, false, 0, 0, 0, none⟩] } }

theorem State.umWrite_local {s : State} {w : UWrite} {d : PtDef} (hd : s.ptDef w.index = some d) (hbind : d.bind ≠ 7) :
    s.umWrite w = s.umAdd w := by
  simp [State.umWrite, hd, hbind]

theorem State.umAdd_mem (s : State) (w : UWrite) : w ∈ (s.umAdd w).um.writes :=
  List.mem_append_right _ (List.mem_singleton.2 rfl)

theorem exec_pointWrite_registers {s : State} {ring idx : Nat} {c : Cmd} {d : PtDef} (hr : s.Ready ring idx c)
    (hp : c.Plain opPointWrite 16) (hmodes : s.inMode modesTrain = true) (hobj : c.objid = pdObj) (hlocal : c.remote = false)
    (hp0 : c.p0Bad = false) (hpar : (c.par 1).get 31 23 = 0) (hd : s.ptDef c.ptIndex = some d) (hbind : d.bind ≠ 7)
    (hraw : rawOk d.type c.rawPar = true) :
    exec (.pointWrite ring idx none) s = .next ((s.writeBegun c).umAdd (s.masterWrite c)) := by
  have hout : s.goesOut c = false := State.goesOut_local hlocal
  have hentries : c.entries [] = [(c.ptIndex, 0, c.rawPar)] := by simp [Cmd.entries, hp.buf, Cmd.par_eq_ptIndex hpar]
  have hgood : s.entryBad false (c.ptIndex, 0, c.rawPar) = false := by
    have hindex : ¬2 ^ 23 ≤ c.ptIndex := Nat.not_le.2 (natBits_lt _ 22 0)
    simp only [State.entryBad, hd, hraw, hindex]
    rfl
  have hup : s.entryDown (c.ptIndex, 0, c.rawPar) = false := by simp [State.entryDown, hd, hbind]
  have hbegun : (s.writeBegun c).ptDef (s.masterWrite c).index = some d := hd
  show execPointWrite ring idx none s = _
  refine (hr.runCmd hp.isOp ((State.verdict_own hr hp ?_ ?_ ?_ ?_ hmodes).trans ?_)).trans (congrArg _ ?_)
  · simp [hp.inline]
  · exact State.ptAbsentOf_local hlocal
  · simp [State.ptBadOf_local hobj hlocal hp0, hentries, hout, hgood]
  · simp
  · simp [hp.buf, hentries, hout, hup, downCheck]
  · rw [← State.umWrite_local hbegun hbind]
    simp [State.writeEntries, hentries, hout, State.writeBegun, State.masterWrite, hp.buf]

end Sys2Proof.Machine
end

