-- ==== Sys2Proof/Proofs/PointForces.lean ====
section
/-! FORCE_SET and FORCE_CLEAR of points and of field inputs (R340, R421). -/

namespace Sys2Proof.Machine

open Sys2Proof

/-- A command done after steps that leave the commands in flight and the clock is done at the time before them. -/
theorem Moves.done_in_time {m : Nat} {s t : State} (h : Moves m s t) (hi : s.Inv) (hflight : m.testBit Part.phases.bit = false)
    (hclock : m.testBit Part.tu.bit = false) {c : Cmd} (hc : c ∈ s.mb.inflight) (hu : c.undecided = true) :
    (t.done c 0 0 0 0).Outcome c .ok 0 0 0 0 (some s.now) := by
  have hphases : s.mb.inflight = t.mb.inflight := h.keep hi .phases hflight
  have htu : s.tu = t.tu := h.keep hi .tu hclock
  rw [State.now, htu]
  exact State.done_outcome (hphases ▸ hc) hu 0 0 0 0

/-! Forces of points. -/

/-- The object of a force of field input `n`. -/
structure NamesInput (c : Cmd) (n : Nat) : Prop where
  unit : objUnit c.objid = 0x38
  grp : objGrp c.objid = 0x10
  inst : objInst c.objid = n
  bound : n < 48

theorem NamesInput.forceObj {c : Cmd} {n : Nat} (h : NamesInput c n) (s : State) : forceObj s c.objid = .di n := by
  have hpoint : c.objid ≠ pdObj := by
    intro hobj
    have hunit := h.unit
    rw [hobj] at hunit
    exact absurd hunit (by decide)
  simp [Machine.forceObj, hpoint, h.unit, h.grp, h.inst, h.bound]

section force

variable {s : State} {ring idx : Nat} {c : Cmd} (hr : s.Ready ring idx c) (hauth : s.authorized c = true)
  (hmodes : s.inMode modesC = true)
include hr hauth hmodes

theorem exec_forceSet_point (hp : c.Plain opForceSet 16) (hobj : c.objid = pdObj) (hlocal : c.remote = false)
    (hp0 : c.p0Bad = false) (hpar : (c.par 1).get 31 23 = 0) (hgood : s.forceBad c.ptIndex c.rawPar = false)
    (hfree : s.forceRefused c.ptIndex = none) :
    exec (.forceSet ring idx) s = .next ((s.forcePoint c.ptIndex c.rawPar).done c 0 0 0 0) := by
  have hpoint : forceObj s c.objid = .point := if_pos hobj
  show execForceSet ring idx s = _
  refine (hr.runCmd hp.isOp ((State.verdict_own hr hp ?_ rfl ?_ (fun _ => hauth) hmodes).trans ?_)).trans (congrArg _ ?_)
  · simp [hpoint, hp.inline]
  · simp [hpoint, hlocal, hp0, hpar, hgood]
  · simp [hpoint, hfree]
  · simp [hpoint]

theorem exec_forceSet_input {n : Nat} (hp : c.Plain opForceSet 4) (hobj : NamesInput c n) (hpar : (c.par 0).toNat ≤ 1) :
    exec (.forceSet ring idx) s = .next ((s.setForceDi n (some ((c.par 0).toNat == 1))).done c 0 0 0 0) := by
  have hdi : forceObj s c.objid = .di n := hobj.forceObj s
  have hbit : natBit (c.par 0).toNat 0 = ((c.par 0).toNat == 1) := by
    rcases Nat.le_one_iff_eq_zero_or_eq_one.1 hpar with h | h <;> rw [h] <;> rfl
  show execForceSet ring idx s = _
  refine (hr.runCmd hp.isOp ((State.verdict_own hr hp ?_ rfl ?_ (fun _ => hauth) hmodes).trans ?_)).trans (congrArg _ ?_)
  · simp [hdi, hp.inline]
  · simp [hdi, hpar]
  · simp [hdi]
  · simp [hdi, hbit]

/-- FORCE_CLEAR of a point withdraws each force that it has, or is answered where it has none. -/
theorem exec_forceClear_point {d : PtDef} (hp : c.Plain opForceClear 8) (hobj : c.objid = pdObj)
    (hpar0 : (c.par 0).toNat = 0) (hpar : (c.par 1).get 31 23 = 0) (hd : s.ptDef c.ptIndex = some d) :
    exec (.forceClear ring idx) s = .next (if (s.forced.filter (· == c.ptIndex)).isEmpty then s.answer c 0 0 0 0
      else ((s.forced.filter (· == c.ptIndex)).foldl State.unforcePoint s).done c 0 0 0 0) := by
  have hpoint : forceObj s c.objid = .point := if_pos hobj
  have hzero : ∀ hi lo, (c.par 0).get hi lo = 0 := fun hi lo => by simp [W32.get, natBits, hpar0]
  have hclear : c.clearBad = false := by simp [Cmd.clearBad, hzero, hpar]
  show execForceClear ring idx s = _
  refine (hr.runCmd hp.isOp (State.verdict_own hr hp ?_ rfl ?_ (fun _ => hauth) hmodes)).trans (congrArg _ ?_)
  · simp [hpoint, hp.inline]
  · simp [hpoint, hclear, hd]
  · simp [hpoint, hzero]

theorem exec_forceClear_input {n : Nat} (hp : c.Plain opForceClear 0) (hobj : NamesInput c n) :
    exec (.forceClear ring idx) s = .next (if (s.diForce n).isNone then s.answer c 0 0 0 0
      else (s.setForceDi n none).done c 0 0 0 0) := by
  have hdi : forceObj s c.objid = .di n := hobj.forceObj s
  show execForceClear ring idx s = _
  refine (hr.runCmd hp.isOp (State.verdict_own hr hp ?_ rfl ?_ (fun _ => hauth) hmodes)).trans (congrArg _ ?_)
  · simp [hdi, hp.buf]
  · simp [hdi]
  · simp [hdi, State.diForce]

end force

/-- A plain point, or a sink, stands at a demand of rank 7. -/
theorem State.forcePoint_demands {s : State} {i : Nat} {d : PtDef} (hd : s.ptDef i = some d)
    (hbind : d.bind = 0 ∨ d.bind = 8 ∨ d.bind = 9) (raw : Nat) :
    s.forcePoint i raw = s.setStand i 7 (some ⟨raw, s.tai⟩) := by
  simp [State.forcePoint, hd, hbind]

/-- A point with a source of its own takes the value. -/
theorem State.forcePoint_sets {s : State} {i : Nat} {d : PtDef} (hd : s.ptDef i = some d)
    (hbind : d.bind = 1 ∨ d.bind = 2 ∨ d.bind = 6) (raw : Nat) : ((s.forcePoint i raw).ptRec i).raw = raw ∧
      ((s.forcePoint i raw).ptRec i).owner = 0xF0 ∧ mget (fun _ => none) (s.forcePoint i raw).pd.forces i = some raw := by
  have hplain : ¬(d.bind = 0 ∨ d.bind = 8 ∨ d.bind = 9) := by omega
  let marked : State := { s with pd := { s.pd with forces := mset (fun _ => none) i (some raw) s.pd.forces } }
  have hset : s.forcePoint i raw = marked.ptSet i raw 0xF0 qForced s.tai := by simp [State.forcePoint, hd, hplain, marked]
  obtain ⟨changes, chLoss, hpd⟩ := State.ptSet_pd (s := marked) hd raw 0xF0 qForced s.tai
  have hrec : mget (fun _ => PtRec.zero) (marked.ptSet i raw 0xF0 qForced s.tai).pd.recs i =
      (marked.ptRec i).given raw 0xF0 qForced s.tai := by
    rw [hpd]
    exact mget_mset_rec (by decide : qForced ≠ 0) _
  rw [hset, State.ptRec, hrec, hpd]
  exact ⟨rfl, rfl, mget_mset_of_ne (d := fun _ => none) (by simp) _⟩

/-! Forces withdrawn. -/

/-- The tables that a withdrawal writes, in canonical form, and the definition of the point. -/
structure State.ForceTables (s : State) (i : Nat) (d : PtDef) : Prop where
  recs : mapOk (fun _ => PtRec.zero) s.pd.recs = true
  forces : mapOk (fun _ => none) s.pd.forces = true
  stand : mapOk (fun _ => none) s.um.stand = true
  defined : s.ptDef i = some d

/-- The point has no force, keeps its value, and is not marked as forced. -/
structure State.Unforced (s : State) (i raw : Nat) : Prop where
  stand : s.standOf i 7 = none
  forces : mget (fun _ => none) s.pd.forces i = none
  raw : (s.ptRec i).raw = raw
  mark : natBit (s.ptRec i).qual 9 = false

/-- The forces of a point dropped, of an input and as a demand. -/
def State.forceDropped (s : State) (i : Nat) : State :=
  State.setStand { s with pd := { s.pd with forces := mset (fun _ => none) i none s.pd.forces } } i 7 none

theorem State.unforcePoint_eq (s : State) (i : Nat) : s.unforcePoint i =
    (s.forceDropped i).ptSet i (s.ptRec i).raw (s.ptRec i).owner (natSetBit (s.ptRec i).qual 9 false) s.tai := rfl

theorem State.unforcePoint_effect {s : State} (hi : s.Inv) {i : Nat} {d : PtDef} (hok : s.ForceTables i d) :
    (s.unforcePoint i).ForceTables i d ∧ (s.unforcePoint i).Unforced i (s.ptRec i).raw := by
  obtain ⟨changes, chLoss, hpd⟩ := State.ptSet_pd (s := s.forceDropped i) hok.defined (s.ptRec i).raw (s.ptRec i).owner
    (natSetBit (s.ptRec i).qual 9 false) s.tai
  rw [← State.unforcePoint_eq] at hpd
  have hdropped : (s.forceDropped i).Inv := hi
  have hum : (s.forceDropped i).um = (s.unforcePoint i).um := State.ptSet_moves.keep hdropped .um rfl
  have hrec : (s.unforcePoint i).ptRec i = ((s.forceDropped i).ptRec i).given (s.ptRec i).raw (s.ptRec i).owner
      (natSetBit (s.ptRec i).qual 9 false) s.tai := by
    rw [State.ptRec, hpd]
    exact mget_mset_same i _ s.pd.recs hok.recs
  refine ⟨⟨?_, ?_, ?_, ?_⟩, ⟨?_, ?_, ?_, ?_⟩⟩
  · rw [hpd]
    exact mset_ok hok.recs
  · rw [hpd]
    exact mset_ok hok.forces
  · rw [← hum]
    exact mset_ok hok.stand
  · rw [State.ptDef, hpd]
    exact hok.defined
  · rw [State.standOf, ← hum]
    exact State.setStand_standOf (s := { s with pd := _ }) hok.stand i 7 none
  · rw [hpd]
    exact mget_mset_same i none s.pd.forces hok.forces
  · rw [hrec]
    rfl
  · rw [hrec]
    exact natBit_natSetBit _ _ _

/-- Withdrawn as often as it stands listed, the force of a point is gone. -/
theorem State.unforcePoints_effect {i : Nat} {d : PtDef} : ∀ (l : List Nat) {s : State}, s.Inv → s.ForceTables i d →
    (∀ k, k ∈ l → k = i) → l ≠ [] → (l.foldl State.unforcePoint s).Unforced i (s.ptRec i).raw
  | [], _, _, _, _, hl => absurd rfl hl
  | k :: l, s, hi, hok, hall, _ => by
    obtain rfl : k = i := hall k List.mem_cons_self
    obtain ⟨hok', hdone⟩ := State.unforcePoint_effect hi hok
    by_cases hl : l = []
    · subst hl
      exact hdone
    · have hrest := State.unforcePoints_effect l (State.unforcePoint_moves.inv hi) hok'
        (fun j hj => hall j (List.mem_cons_of_mem k hj)) hl
      rwa [hdone.raw] at hrest

theorem State.unforcePoint_foldl_moves (s : State) (l : List Nat) : Moves 0xc01000 s (l.foldl State.unforcePoint s) :=
  Moves.foldl Moves.refl fun _ _ => State.unforcePoint_moves

/-! Forces of field inputs (R421). -/

/-- A forced input reads its force, and reads valid. -/
theorem State.diVal_forced {s : State} {n : Nat} {b : Bool} (h : s.diForce n = some b) : s.diVal n = b := by
  rw [State.diVal, h]
  rfl

theorem State.diValid_forced {s : State} {n : Nat} {b : Bool} (h : s.diForce n = some b) : s.diValid n = true := by
  rw [State.diValid, h]
  rfl

/-- Any other reads its level. -/
theorem State.diVal_free {s : State} {n : Nat} (h : s.diForce n = none) : s.diVal n = s.flag FD_DI_VAL n := by
  rw [State.diVal, h]
  rfl

/-- The force of an input, held and shown. -/
def State.inputForced (s : State) (n : Nat) (b : Option Bool) : State :=
  State.setFlag { s with fd := { s.fd with forceDi := mset (fun _ => none) n b s.fd.forceDi } } FD_DI_FORCED n b.isSome

/-- The step of the value is told to the disturbance recorder only. -/
theorem State.setForceDi_moves_inputForced (s : State) (n : Nat) (b : Option Bool) :
    Moves 0x10000 (s.inputForced n b) (s.setForceDi n b) :=
  Moves.ite Moves.refl State.drFire_moves

theorem State.setForceDi_effect {s : State} (hi : s.Inv) (hok : mapOk (fun _ => none) s.fd.forceDi = true) (n : Nat)
    (b : Option Bool) : (s.setForceDi n b).diForce n = b ∧ (s.setForceDi n b).flag FD_DI_FORCED n = b.isSome ∧
      (s.setForceDi n b).flag FD_DI_VAL n = s.flag FD_DI_VAL n := by
  have hmoves := s.setForceDi_moves_inputForced n b
  have hforced : (s.inputForced n b).Inv := State.setFlag_inv (s := { s with fd := _ }) hi _ _ _
  have hfd : (s.inputForced n b).fd = (s.setForceDi n b).fd := hmoves.keep hforced .fd rfl
  rw [State.diForce, ← hfd, hmoves.flag hforced rfl, hmoves.flag hforced rfl]
  refine ⟨mget_mset_same n b s.fd.forceDi hok, State.flag_setFlag_same (s := { s with fd := _ }) hi rfl n _, ?_⟩
  exact congrArg (· != 0) (State.rdk_wrk_beside (s := { s with fd := _ }) hi (f := FD_DI_FORCED) (g := FD_DI_VAL) rfl n n _)

end Sys2Proof.Machine
end

