-- ==== Sys2Proof/Proofs/ScansAndMirrors.lean ====
section
/-! Scan classes with a field-input point (R332, R333), and the mirrors of points of other devices (R338). -/

namespace Sys2Proof.Machine

open Sys2Proof

/-! Scan classes. -/

/-- What a field-input point takes from its input: value, quality and CTIME (R333). -/
def State.inputValue (s : State) (d : PtDef) : Nat × Nat × Nat :=
  (fromI32 d.type (b2n (s.diVal d.op)), if s.diValid d.op then 0 else qInvalid + qDetail 7,
    s.nearSecond (s.rd FD_DI_LAST_SEC d.op) * 1000000000 + s.rd FD_DI_LAST_NS d.op)

/-- The boundary of a class whose one point is of a field input is noted, and the value waits for its instant (R332). -/
def State.scanTaken (s : State) (k i : Nat) (d : PtDef) : State :=
  { s with pd := { s.pd with
    scanAt := mset (fun _ => 0) k (s.tai / scanPeriod (s.rd PD_SCAN_PERIOD k) + 1) s.pd.scanAt
    scanned := [⟨s.elapsedAt (s.scanBound k + 5002), [(i, s.inputValue d)]⟩] } }

theorem exec_scanClassBoundary_input {s : State} {k i : Nat} {d : PtDef} (hon : s.scanOn = true) (hk : k < 16)
    (hgrid : s.gridOk (scanPeriod (s.rd PD_SCAN_PERIOD k)) = true)
    (hnew : mget (fun _ => 0) s.pd.scanAt k ≠ s.tai / scanPeriod (s.rd PD_SCAN_PERIOD k) + 1) (hpts : s.ptsOf 1 = [(i, d)])
    (hanalog : s.ptsOf 2 = []) (hbind : d.bind = 1) (hscan : d.scan = k) (hfrom : s.pd.scanFrom ≤ s.elapsedAt (s.scanBound k))
    (hnone : s.pd.scanned = []) : exec (.scanClassBoundary k) s = .next (s.scanTaken k i d).scanShow := by
  have hof : s.scanOf k = [(i, d)] := by simp [State.scanOf, hpts, hanalog, hscan]
  have hpoint : s.scanPoint (s.scanBound k) d = some (s.inputValue d) := if_pos hbind
  show execScanClassBoundary k s = _
  refine (if_neg ?_).trans ?_
  · simp [hon, hk, hgrid, hnew.symm, hfrom]
  · simp [hof, hpoint, hnone, State.scanTaken, Nat.add_assoc]

/-- Before their instant no value is visible. -/
theorem State.scanShow_early {s : State} (h : ∀ o, o ∈ s.pd.scanned → s.elapsed < o.due) : s.scanShow = s := by
  have hdue : s.pd.scanned.filter (fun o => decide (o.due ≤ s.elapsed)) = [] := by
    simpa [List.filter_eq_nil_iff] using h
  have hwait : s.pd.scanned.filter (fun o => decide (s.elapsed < o.due)) = s.pd.scanned := by
    simpa [List.filter_eq_self] using h
  rw [State.scanShow, hdue, hwait]
  rfl

/-- At its instant a value that waits alone reaches its point. -/
theorem State.scanShow_due {s : State} {due i : Nat} {v : Nat × Nat × Nat} (h : s.pd.scanned = [⟨due, [(i, v)]⟩])
    (hdue : due ≤ s.elapsed) :
    s.scanShow = State.ptSource { s with pd := { s.pd with scanned := [] } } i v.1 v.2.1 v.2.2 := by
  simp [State.scanShow, h, hdue, Nat.not_lt.2 hdue]

/-- A field-input point that is not forced takes each value, without a deadband. -/
theorem State.ptSource_input {s : State} {i : Nat} {d : PtDef} (hd : s.ptDef i = some d) (hbind : d.bind = 1)
    (hfree : mget (fun _ => none) s.pd.forces i = none) (raw qual ctime : Nat) :
    s.ptSource i raw qual ctime = s.ptSet i raw 0xF0 qual ctime := by
  simp [State.ptSource, hd, hfree, hbind]

theorem State.inputValue_bad (s : State) (d : PtDef) : natBit (s.inputValue d).2.1 14 = !s.diValid d.op := by
  cases h : s.diValid d.op <;> simp only [State.inputValue, h] <;> rfl

/-- The value of the input is in its point, under the owner of sources. -/
theorem State.scanTaken_visible {s : State} (hok : mapOk (fun _ => PtRec.zero) s.pd.recs = true) {k i : Nat} {d : PtDef}
    (hd : s.ptDef i = some d) (hbind : d.bind = 1)
    (hfree : mget (fun _ => none) s.pd.forces i = none) (hdue : s.elapsedAt (s.scanBound k + 5002) ≤ s.elapsed) :
    (((s.scanTaken k i d).scanShow).ptRec i).raw = (s.inputValue d).1 ∧ (((s.scanTaken k i d).scanShow).ptRec i).owner = 0xF0 ∧
      (((s.scanTaken k i d).scanShow).ptRec i).bad = !s.diValid d.op := by
  let shown : State := { s.scanTaken k i d with pd := { (s.scanTaken k i d).pd with scanned := [] } }
  have hdef : shown.ptDef i = some d := hd
  obtain ⟨changes, chLoss, hpd⟩ := State.ptSet_pd hdef (s.inputValue d).1 0xF0 (s.inputValue d).2.1 (s.inputValue d).2.2
  have hrec : (shown.ptSet i (s.inputValue d).1 0xF0 (s.inputValue d).2.1 (s.inputValue d).2.2).ptRec i =
      (shown.ptRec i).given (s.inputValue d).1 0xF0 (s.inputValue d).2.1 (s.inputValue d).2.2 := by
    rw [State.ptRec, hpd]
    exact mget_mset_same i _ s.pd.recs hok
  rw [State.scanShow_due (s := s.scanTaken k i d) rfl hdue, State.ptSource_input hdef hbind hfree, hrec]
  exact ⟨rfl, rfl, s.inputValue_bad d⟩

/-! Records of an origin (R338, R479). -/

/-- The words of a PT_REC frame with one record, which answers no request. -/
def PtRec.frame (r : PtRec) (index : Nat) : List W32 :=
  [1, 0, index, 0, r.raw % 2 ^ 32, r.raw / 2 ^ 32, r.owner * 2 ^ 16 + r.qual, r.ctime].map (BitVec.ofNat 32)

theorem exec_mirrorRecordReceive_one {s : State} (hon : s.umOn = true) (src index : Nat) (r : PtRec) :
    exec (.mirrorRecordReceive src (r.frame index)) s = .next (s.mirrorRec src ((r.frame index).drop 2)) := by
  show execMirrorRecordReceive src (r.frame index) s = _
  refine (if_neg ?_).trans ?_
  · simp [hon, PtRec.frame, W32.get, natBits]
  · simp [PtRec.frame, W32.get, natBits, blocks6]

/-- A mirror shows a record received now. -/
def State.mirrorTaken (s : State) (i : Nat) (r : PtRec) : State := (s.setMirror i ⟨s.elapsed + 1, false, false⟩).putRec i r

/-- The words of a frame give back the record. -/
theorem PtRec.frame_words {r : PtRec} (hraw : r.raw < 2 ^ 64) (howner : r.owner < 256) (hqual : r.qual < 2 ^ 16)
    (hctime : r.ctime < 2 ^ 32) (index : Nat) :
    let w (k : Nat) : Nat := (((r.frame index).drop 2).getD k 0).toNat
    (⟨w 2 + w 3 * 2 ^ 32, w 4 / 2 ^ 16 % 256, w 4 % 2 ^ 16, w 5⟩ : PtRec) = r := by
  simp only [PtRec.frame, List.map_cons, List.map_nil, List.drop_succ_cons, List.drop_zero, List.getD_cons_succ,
    List.getD_cons_zero, BitVec.toNat_ofNat]
  rw [PtRec.mk.injEq]
  omega

/-- The one mirror of the point takes the record, and a change may be handed to the change recorder. -/
theorem State.mirrorRec_eq {s : State} {i : Nat} {d : PtDef} {r : PtRec} (hpts : s.ptsOf 7 = [(i, d)]) (hindex : d.op < 2 ^ 23)
    (hraw : r.raw < 2 ^ 64) (howner : r.owner < 256) (hqual : r.qual < 2 ^ 16) (hctime : r.ctime < 2 ^ 32) :
    s.mirrorRec d.op2 ((r.frame d.op).drop 2) = s.mirrorTaken i r ∨
      ∃ x, s.mirrorRec d.op2 ((r.frame d.op).drop 2) = (s.mirrorTaken i r).pdHand x := by
  have hnamed : d.op = (((r.frame d.op).drop 2).getD 0 0).toNat % 2 ^ 23 := by
    simp only [PtRec.frame, List.map_cons, List.drop_succ_cons, List.drop_zero, List.getD_cons_zero, BitVec.toNat_ofNat]
    omega
  have hwords := PtRec.frame_words hraw howner hqual hctime d.op
  simp only [State.mirrorRec, hpts, List.foldl_cons, List.foldl_nil, true_and, if_pos hnamed, hwords, State.mirrorTaken]
  split
  · exact .inr ⟨_, rfl⟩
  · exact .inl rfl

theorem State.mirrorTaken_effect {s : State} (hrecs : mapOk (fun _ => PtRec.zero) s.pd.recs = true)
    (hmirrors : mapOk (fun _ => MirSt.init) s.pd.mirrors = true) (i : Nat) (r : PtRec) :
    (s.mirrorTaken i r).ptRec i = r ∧ (s.mirrorTaken i r).mirror i = ⟨s.elapsed + 1, false, false⟩ :=
  ⟨mget_mset_same i r s.pd.recs hrecs, mget_mset_same i _ s.pd.mirrors hmirrors⟩

theorem State.mirrorRec_effect {s : State} (hrecs : mapOk (fun _ => PtRec.zero) s.pd.recs = true)
    (hmirrors : mapOk (fun _ => MirSt.init) s.pd.mirrors = true) {i : Nat} {d : PtDef} {r : PtRec} (hpts : s.ptsOf 7 = [(i, d)])
    (hindex : d.op < 2 ^ 23) (hraw : r.raw < 2 ^ 64) (howner : r.owner < 256) (hqual : r.qual < 2 ^ 16)
    (hctime : r.ctime < 2 ^ 32) : (s.mirrorRec d.op2 ((r.frame d.op).drop 2)).ptRec i = r ∧
      (s.mirrorRec d.op2 ((r.frame d.op).drop 2)).mirror i = ⟨s.elapsed + 1, false, false⟩ := by
  have htaken := State.mirrorTaken_effect hrecs hmirrors i r
  rcases State.mirrorRec_eq hpts hindex hraw howner hqual hctime with h | ⟨x, h⟩
  · rwa [h]
  · obtain ⟨changes, chLoss, hpd⟩ := (s.mirrorTaken i r).pdHand_pd x
    rw [h, State.ptRec, State.mirror, hpd]
    exact htaken

/-! Mirrors that go stale (R338). -/

theorem exec_mirrorStale_late {s : State} {i : Nat} {d : PtDef} (hon : s.umOn = true) (hd : s.ptDef i = some d)
    (hbind : d.bind = 7) (hfresh : (s.mirror i).stale = false) (hawake : (s.mirror i).asleep = false)
    (hlate : (s.mirror i).rx + (2 * scanPeriod (s.rd PD_SCAN_PERIOD d.scan) + 2000000) * 4 / 5 ≤ s.elapsed) :
    exec (.mirrorStale i) s = .next (s.mirrorStale i d.op2) := by
  show execMirrorStale i s = _
  have hlate' := Nat.le_succ_of_le hlate
  simp [execMirrorStale, hd, hon, hbind, hfresh, hawake, hlate']

/-- The quality of a mirror that is stale: invalid, old, with DETAIL 0x4. -/
def staleQual (q : Nat) : Nat := natPut (natSetBit (natPut q 15 14 1) 10 true) 7 4 4

theorem staleQual_bits (q : Nat) : natBits (staleQual q) 15 14 = 1 ∧ natBit (staleQual q) 10 = true := by
  constructor
  · rw [staleQual, natBits_natPut_ne (by decide) (by decide), natSetBit, natBits_natPut_ne (by decide) (by decide), natBits_natPut]
    rfl
  · rw [staleQual, natBit_eq_natBits, natBits_natPut_ne (by decide) (by decide), ← natBit_eq_natBits, natBit_natSetBit]

/-- A mirror is marked stale, with the quality that goes with it. -/
def State.staleMarked (s : State) (i : Nat) : State := (s.setMirror i { s.mirror i with stale := true }).mirrorOld i 1

/-- What follows counts the mirror, or tells of those counted. -/
theorem State.mirrorStale_tells {s : State} (hi : s.Inv) (i dev : Nat) :
    (s.mirrorStale i dev).pd.recs = (s.staleMarked i).pd.recs ∧ (s.mirrorStale i dev).pd.mirrors = (s.staleMarked i).pd.mirrors := by
  have hmarked : (s.staleMarked i).Inv := State.ptQual_moves.inv hi
  unfold State.mirrorStale
  extract_lets mirror s1 first count told s2
  have hs2 : s2.Inv := hmarked
  split
  · rw [← State.notify_moves.keep hs2 .pd rfl]
    exact ⟨rfl, rfl⟩
  · exact ⟨rfl, rfl⟩

theorem State.mirrorStale_effect {s : State} (hi : s.Inv) (hrecs : mapOk (fun _ => PtRec.zero) s.pd.recs = true)
    (hmirrors : mapOk (fun _ => MirSt.init) s.pd.mirrors = true) {i : Nat} {d : PtDef} (hd : s.ptDef i = some d) (dev : Nat) :
    ((s.mirrorStale i dev).mirror i).stale = true ∧ ((s.mirrorStale i dev).ptRec i).raw = (s.ptRec i).raw ∧
      ((s.mirrorStale i dev).ptRec i).qual = staleQual (s.ptRec i).qual := by
  obtain ⟨htoldRecs, htoldMirrors⟩ := State.mirrorStale_tells hi i dev
  obtain ⟨changes, chLoss, hpd⟩ := State.ptSet_pd (s := s.setMirror i { s.mirror i with stale := true }) hd (s.ptRec i).raw
    (s.ptRec i).owner (staleQual (s.ptRec i).qual) s.tai
  have hmarked : (s.staleMarked i).pd = _ := hpd
  rw [State.mirror, State.ptRec, htoldRecs, htoldMirrors, hmarked]
  have hrec := mget_mset_same i ((s.ptRec i).given (s.ptRec i).raw (s.ptRec i).owner (staleQual (s.ptRec i).qual) s.tai) s.pd.recs
    hrecs
  have hmirror := mget_mset_same i { s.mirror i with stale := true } s.pd.mirrors hmirrors
  exact ⟨(congrArg MirSt.stale hmirror).trans rfl, (congrArg PtRec.raw hrec).trans rfl, (congrArg PtRec.qual hrec).trans rfl⟩

end Sys2Proof.Machine
end

