-- ==== Sys2Proof/Proofs/RemotePoints.lean ====
section
/-! Requests to origins and of peers (R339, R479), subscriptions served (R338); with point commands, forces, scans and mirrors, O51. -/

namespace Sys2Proof.Machine

open Sys2Proof

/-! Requests of this device (R339). -/

/-- The one request that waits for its reply is a POINT_READ's of one record. -/
structure LoneRequest (s : State) (r : RemReq) (c : Cmd) : Prop where
  reqs : s.pd.reqs = [r]
  cmd : r.cmd = some c.ref
  read : r.read = true
  plain : c.buf = false
  found : s.findCmd c.ring c.order = some c
  undecided : c.undecided = true

/-- No request waits. -/
def State.requestsDone (s : State) : State := { s with pd := { s.pd with reqs := [] } }

/-- A reply with OK completes the command with the record that it brings, any other with its status. -/
theorem LoneRequest.replied {s : State} {r : RemReq} {c : Cmd} (h : LoneRequest s r c) (st : Status) (res0 : Nat) (t : Stamp)
    (ws : List Nat) : s.replied r st res0 t ws = s.requestsDone.setPhase c.ring c.order
      (if st = .ok then .decided .ok (ws.getD 0 0) (ws.getD 1 0) (ws.getD 2 0) (ws.getD 3 0) (some t)
        else .decided st res0 0 0 0 (some t)) := by
  have hfound : s.requestsDone.findCmd c.ref.1 c.ref.2 = some c := h.found
  have hdone : { s with pd := { s.pd with reqs := s.pd.reqs.filter (fun x => x.tag != r.tag) } } = s.requestsDone := by
    simp [h.reqs, State.requestsDone]
  simp only [State.replied, hdone, h.cmd, h.read, hfound, h.plain]
  rfl

theorem LoneRequest.outcome {s : State} {r : RemReq} {c : Cmd} (h : LoneRequest s r c) (st : Status) (r0 r1 r2 r3 : Nat)
    (t : Option Stamp) : (s.requestsDone.setPhase c.ring c.order (.decided st r0 r1 r2 r3 t)).pd.reqs = [] ∧
      (s.requestsDone.setPhase c.ring c.order (.decided st r0 r1 r2 r3 t)).Outcome c st r0 r1 r2 r3 t :=
  ⟨rfl, State.setPhase_mem (s := s.requestsDone) (List.mem_of_find?_eq_some h.found) h.undecided _⟩

/-- The TIME of a reply. -/
def replyTime (words : List W32) : Stamp :=
  ⟨((words.getD 2 0).toNat + (words.getD 3 0).toNat * 2 ^ 32) / 2 ^ 30, ((words.getD 2 0).toNat + (words.getD 3 0).toNat * 2 ^ 32) % 2 ^ 30⟩

/-- The record of a reply stands in its words from the fifth on. -/
theorem replyRecord_getD (words : List W32) (k : Nat) :
    ((words.drop 4).map (·.toNat)).getD k 0 = (words.getD (4 + k) 0).toNat := by
  rw [List.getD_eq_getElem?_getD, List.getElem?_map, List.getElem?_drop, List.getD_eq_getElem?_getD]
  cases words[4 + k]? <;> rfl

theorem exec_ptRspReceive_ok {s : State} {r : RemReq} {c : Cmd} (hreq : LoneRequest s r c) (hon : s.umOn = true)
    {words : List W32} (hlen : words.length = 8) (htag : (words.getD 0 0).toNat = r.tag) (hok : (words.getD 1 0).toNat = 0) :
    exec (.ptRspReceive r.dev words) s =
      .next (s.replied r .ok 0 (replyTime words) ((words.drop 4).map (·.toNat))) := by
  show execPtRspReceive r.dev words s = _
  have hfind : s.pd.reqs.find? (fun x => x.tag == (words.getD 0 0).toNat && x.dev == r.dev) = some r := by
    simp only [hreq.reqs, htag, List.find?_cons, beq_self_eq_true, Bool.and_self]
  have hstatus : Status.ofCode 0 = .ok := by decide
  simp only [execPtRspReceive, hfind, hon, hlen, hok]
  simp only [Nat.zero_div, hstatus]
  rfl

theorem exec_remotePointTimeout_due {s : State} {r : RemReq} {c : Cmd} (hreq : LoneRequest s r c)
    (hdue : r.time + usUnits 50000 ≤ s.elapsed) :
    exec (.remotePointTimeout r.tag) s = .next (s.replied r .internal 1 s.now []) := by
  show execRemotePointTimeout r.tag s = _
  simp [execRemotePointTimeout, hreq.reqs, hdue]

/-! Subscriptions (R338, R479). -/

/-- The subscriptions but those of one device to one point. -/
def State.subsBut (s : State) (dev index : Nat) : List SubSt := s.pd.subs.filter (fun x => !(x.dev == dev && x.index == index))

theorem State.subsBut_mem {s : State} {dev index : Nat} {x : SubSt} (h : x ∈ s.subsBut dev index) :
    ¬(x.dev = dev ∧ x.index = index) := by
  rintro ⟨hdev, hindex⟩
  simpa [hdev, hindex] using (List.mem_filter.1 h).2

/-- A subscription `y` as the record of `x` goes out. -/
def State.noteSent (s : State) (x y : SubSt) : SubSt :=
  if y.dev = x.dev ∧ y.index = x.index then { y with sentAt := s.elapsed + 1, sent := s.ptWords x.index } else y

theorem State.noteSent_self (s : State) (x : SubSt) :
    s.noteSent x x = { x with sentAt := s.elapsed + 1, sent := s.ptWords x.index } := if_pos ⟨rfl, rfl⟩

/-- The record of a subscription goes out, and is noted with each subscription of the device to the point. -/
theorem State.sendRec_pd (s : State) (x : SubSt) :
    (s.sendRec x).pd.tx = x.dev :: 0x23 :: 1 :: 0 :: x.index :: 0 :: s.ptWords x.index ∧
      (s.sendRec x).pd.subs = s.pd.subs.map (s.noteSent x) := by
  have hpd := s.ptSend_pd x.dev 0x23 ([1, 0, x.index, 0] ++ s.ptWords x.index)
  exact ⟨congrArg PdSt.tx hpd, (congrArg (fun p : PdSt => p.subs.map (s.noteSent x)) hpd).trans rfl⟩

theorem exec_ptSubReceive_cancels {s : State} (hon : s.umOn = true) (src : Nat) {w v : W32} (hw : w.get 31 31 = 1) :
    exec (.ptSubReceive src [w, v]) s = .next { s with pd := { s.pd with subs := s.subsBut src (w.get 22 0) } } := by
  show execPtSubReceive src [w, v] s = _
  simp [execPtSubReceive, hon, hw, State.subsBut]

/-- The subscription that a PT_SUB frame asks for. -/
def subOf (src : Nat) (w : W32) : SubSt := ⟨src, w.get 22 0, w.get 30 27, 0, []⟩

/-- It stands once among those served. -/
def State.subscribed (s : State) (src : Nat) (w : W32) : State :=
  { s with pd := { s.pd with subs := s.subsBut src (w.get 22 0) ++ [subOf src w] } }

theorem exec_ptSubReceive_subscribes {s : State} (hon : s.umOn = true) (src : Nat) {w v : W32} (hw : w.get 31 31 = 0)
    (hroom : s.pd.subs.length < 262144) :
    exec (.ptSubReceive src [w, v]) s = .next ((s.subscribed src w).sendRec (subOf src w)) := by
  have hrest : ¬262144 ≤ (s.subsBut src (w.get 22 0)).length :=
    Nat.not_le.2 (Nat.lt_of_le_of_lt (List.length_filter_le _ _) hroom)
  rw [State.subsBut] at hrest
  show execPtSubReceive src [w, v] s = _
  simp only [execPtSubReceive, List.getD_cons_zero, hw, if_neg hrest]
  simp [hon, State.subscribed, State.subsBut, subOf]

theorem State.subscribed_served (s : State) (src : Nat) (w : W32) :
    { subOf src w with sentAt := s.elapsed + 1, sent := s.ptWords (w.get 22 0) } ∈
      ((s.subscribed src w).sendRec (subOf src w)).pd.subs := by
  rw [((s.subscribed src w).sendRec_pd (subOf src w)).2]
  exact List.mem_map.2 ⟨subOf src w, List.mem_append_right _ (List.mem_singleton.2 rfl), State.noteSent_self _ _⟩

/-- The boundary of an origin period is noted. -/
def State.originNoted (s : State) (k : Nat) : State :=
  { s with pd := { s.pd with originAt := mset (fun _ => 0) k (s.tai / scanPeriod k + 1) s.pd.originAt } }

theorem exec_originPeriodBoundary_one {s : State} {k : Nat} {x : SubSt} (hon : s.umOn = true) (hk : k < 16)
    (hnew : mget (fun _ => 0) s.pd.originAt k ≠ s.tai / scanPeriod k + 1) (hsubs : s.pd.subs = [x]) (hperiod : x.period = k) :
    exec (.originPeriodBoundary k) s = .next ((s.originNoted k).sendRec x) := by
  show execOriginPeriodBoundary k s = _
  refine (if_neg ?_).trans ?_
  · simp [hon, hk, hnew.symm]
  · simp [hsubs, hperiod, State.originNoted]

/-! Requests of peers (R339, R479). -/

theorem exec_ptReqReceive_reads {s : State} (hon : s.umOn = true) (src : Nat) {g w lo hi : W32} (hg : g ≠ 0)
    (hw : w.get 31 30 = 0) : exec (.ptReqReceive src [g, w, lo, hi]) s = .next (s.ptSend src 0x25
      ([g.toNat, 0, s.now.word % 2 ^ 32, s.now.word / 2 ^ 32] ++ s.ptWords (w.get 22 0))) := by
  have htag : g.toNat ≠ 0 := fun h => hg (BitVec.eq_of_toNat_eq h)
  show execPtReqReceive src [g, w, lo, hi] s = _
  simp [execPtReqReceive, hon, hw, htag, Status.code]

/-- A write of a peer that is no local panel has rank 2 and source 9 (R319). -/
theorem exec_ptReqReceive_writes {s : State} (hon : s.umOn = true) (src : Nat) {g w lo hi : W32} {d : PtDef} (hg : g ≠ 0)
    (hw : w.get 31 30 = 1) (hd : s.ptDef (w.get 22 0) = some d) (hbind : d.bind ≠ 7)
    (hraw : rawOk d.type (lo.toNat + hi.toNat * 2 ^ 32) = true) (hpanel : s.flag UM_CFG_PANEL_EN 0 = false) :
    exec (.ptReqReceive src [g, w, lo, hi]) s = .next (s.umAdd
      ⟨w.get 22 0, lo.toNat + hi.toNat * 2 ^ 32, false, 2, 9, src, none, 0, some g.toNat, none, false⟩) := by
  have htag : g.toNat ≠ 0 := fun h => hg (BitVec.eq_of_toNat_eq h)
  have hrank : s.rankOf 2 9 src = (2, 9) := by simp [State.rankOf, hpanel]
  show execPtReqReceive src [g, w, lo, hi] s = _
  simp only [execPtReqReceive, List.getD_cons_zero, List.getD_cons_succ, hw, hd, hraw, hrank]
  simp [hon, htag, hbind]

/-! The obligation. -/

/-- Settles O51: each command or frame by the state it leads to, and that state by what its operations write and leave. -/
theorem pointCommandsForcesAndRemoteTrafficAct : Obligations.PointCommandsForcesAndRemoteTrafficAct := by
  unfold Obligations.PointCommandsForcesAndRemoteTrafficAct
  refine ⟨?commands, ?forces, ?scan, ?mirror, ?request, ?subscription, ?peer, ?origin⟩
  case commands =>
    intro s ring idx c d hi hr hmodes hobj hlocal hp0 hpar hd
    refine ⟨fun hp => ⟨fun ok => ?_, fun ok b a hb hpin => ?_⟩, fun hp hbind hraw => ?_⟩
    · exact ⟨_, exec_pointRead_answers hr hp hmodes hobj hlocal hp0 hpar ok none, rfl,
        State.pointAnswered_outcome hd hr.mem hr.undecided⟩
    · obtain ⟨hzero, hbad, hdef, herrs, harrived, hflight⟩ := State.ptMemError_effect hi hd hpin
      have houtcome := State.pointAnswered_outcome hdef (hflight ▸ hr.mem) hr.undecided
      rw [hzero] at houtcome
      refine ⟨_, exec_pointRead_answers hr hp hmodes hobj hlocal hp0 hpar ok (some (c.ptIndex, b)), ?_⟩
      rw [State.recordBeat_uncorrectable hlocal hp.buf hd hb]
      generalize s.ptMemError c.ptIndex = lost at hzero hbad herrs harrived houtcome ⊢
      exact ⟨hzero, hbad, herrs, harrived, houtcome⟩
    · exact ⟨_, exec_pointWrite_registers hr hp hmodes hobj hlocal hp0 hpar hd hbind hraw,
        State.setPhase_mem hr.mem hr.undecided .started, rfl, State.umAdd_mem _ _⟩
  case forces =>
    intro s ring idx c hi hok hr hauth hmodes
    obtain ⟨hrecs, hforces, hstand, -, hdi, -, -, -⟩ := State.pointMapsOk_iff.1 hok
    constructor
    · intro d hobj hlocal hp0 hpar hd
      refine ⟨fun hp hgood hfree => ?_, fun hp hpar0 hnone => ?_, fun hp hpar0 hforced => ?_⟩
      · have hexec := exec_forceSet_point hr hauth hmodes hp hobj hlocal hp0 hpar hgood hfree
        have houtcome := (State.forcePoint_moves (a0 := c.ptIndex) (a1 := c.rawPar)).done_in_time hi rfl rfl hr.mem hr.undecided
        refine ⟨fun hbind => ⟨_, hexec, ?_, houtcome⟩, fun hbind => ?_⟩
        · rw [State.forcePoint_demands hd hbind]
          exact State.setStand_standOf hstand _ _ _
        · obtain ⟨hraw, howner, hheld⟩ := State.forcePoint_sets hd hbind c.rawPar
          exact ⟨_, hexec, hraw, howner, hheld, houtcome⟩
      · have hexec := exec_forceClear_point hr hauth hmodes hp hobj hpar0 hpar hd
        have hempty : (s.forced.filter (· == c.ptIndex)).isEmpty = true := by
          simpa [List.filter_eq_nil_iff] using fun k hk (h : k = c.ptIndex) => hnone (h ▸ hk)
        rw [if_pos hempty] at hexec
        exact ⟨_, hexec, rfl, rfl, State.answer_outcome hr.mem hr.undecided _ _ _ _⟩
      · have hexec := exec_forceClear_point hr hauth hmodes hp hobj hpar0 hpar hd
        have hmem : c.ptIndex ∈ s.forced.filter (· == c.ptIndex) := List.mem_filter.2 ⟨hforced, beq_self_eq_true _⟩
        rw [if_neg (by simpa using List.ne_nil_of_mem hmem)] at hexec
        obtain ⟨hdemand, hheld, hraw, hmark⟩ := State.unforcePoints_effect _ hi ⟨hrecs, hforces, hstand, hd⟩
          (fun k hk => beq_iff_eq.1 (List.mem_filter.1 hk).2) (List.ne_nil_of_mem hmem)
        exact ⟨_, hexec, hdemand, hheld, hraw, hmark,
          (s.unforcePoint_foldl_moves _).done_in_time hi rfl rfl hr.mem hr.undecided⟩
    · intro n hunit hgrp hinst hn
      have hnamed : NamesInput c n := ⟨hunit, hgrp, hinst, hn⟩
      have houtcome : ∀ b, ((s.setForceDi n b).done c 0 0 0 0).Outcome c .ok 0 0 0 0 (some s.now) := fun b =>
        State.setForceDi_moves.done_in_time hi rfl rfl hr.mem hr.undecided
      refine ⟨fun hp hpar0 => ?_, fun hp hforced => ?_, fun hp hnone => ?_⟩
      · obtain ⟨hforce, hshown, -⟩ := State.setForceDi_effect hi hdi n (some ((c.par 0).toNat == 1))
        exact ⟨_, exec_forceSet_input hr hauth hmodes hp hnamed hpar0, State.diVal_forced hforce, State.diValid_forced hforce, hshown,
          houtcome _⟩
      · obtain ⟨hforce, hshown, hval⟩ := State.setForceDi_effect hi hdi n none
        have hexec := exec_forceClear_input hr hauth hmodes hp hnamed
        rw [if_neg (by simpa using hforced)] at hexec
        exact ⟨_, hexec, (State.diVal_free hforce).trans hval, hshown, houtcome _⟩
      · have hexec := exec_forceClear_input hr hauth hmodes hp hnamed
        rw [if_pos (by simp [hnone])] at hexec
        exact ⟨_, hexec, rfl, rfl, State.answer_outcome hr.mem hr.undecided _ _ _ _⟩
  case scan =>
    intro s k i d hi hok hon hk hgrid hnew hpts hanalog hd hbind hscan hfree hfrom hnone
    obtain ⟨hrecs, -⟩ := State.pointMapsOk_iff.1 hok
    have hexec := exec_scanClassBoundary_input hon hk hgrid hnew hpts hanalog hbind hscan hfrom hnone
    refine ⟨fun hearly => ?_, fun hdue => ?_⟩
    · rw [State.scanShow_early fun o ho => by rw [List.mem_singleton.1 ho]; exact hearly] at hexec
      exact ⟨_, _, _, hexec, rfl, rfl, rfl⟩
    · exact ⟨_, hexec, State.scanTaken_visible hrecs hd hbind hfree hdue⟩
  case mirror =>
    intro s src i d r hi hok hon hpts hd hbind
    obtain ⟨hrecs, -, -, hmirrors, -⟩ := State.pointMapsOk_iff.1 hok
    refine ⟨fun hsrc hindex hraw howner hqual hctime => ?_, fun hfresh hawake hlate => ?_⟩
    · subst hsrc
      exact ⟨_, exec_mirrorRecordReceive_one hon d.op2 d.op r,
        State.mirrorRec_effect hrecs hmirrors hpts hindex hraw howner hqual hctime⟩
    · obtain ⟨hstale, hraw, hqual⟩ := State.mirrorStale_effect hi hrecs hmirrors hd d.op2
      refine ⟨_, exec_mirrorStale_late hon hd hbind hfresh hawake hlate, hstale, hraw, ?_⟩
      rw [hqual]
      exact staleQual_bits _
  case request =>
    intro s r c hi hon hreqs hcmd hread hplain hfound hu
    have hreq : LoneRequest s r c := ⟨hreqs, hcmd, hread, hplain, hfound, hu⟩
    refine ⟨fun words hlen htag hok => ?_, fun hdue => ?_⟩
    · have hexec := exec_ptRspReceive_ok hreq hon hlen htag hok
      rw [hreq.replied, if_pos rfl] at hexec
      simp only [replyRecord_getD] at hexec
      obtain ⟨hdone, houtcome⟩ := hreq.outcome .ok _ _ _ _ (some (replyTime words))
      exact ⟨_, hexec, hdone, replyTime words, houtcome⟩
    · have hexec := exec_remotePointTimeout_due hreq hdue
      rw [hreq.replied, if_neg (by decide)] at hexec
      exact ⟨_, hexec, hreq.outcome _ _ _ _ _ _⟩
  case subscription =>
    intro s src w v hi hon
    refine ⟨fun hw => ?_, fun hw hroom => ?_⟩
    · exact ⟨_, exec_ptSubReceive_cancels hon src hw, fun x hx => State.subsBut_mem hx⟩
    · exact ⟨_, _, exec_ptSubReceive_subscribes hon src hw hroom, s.subscribed_served src w, rfl, rfl, rfl, rfl,
        ((s.subscribed src w).sendRec_pd (subOf src w)).1⟩
  case peer =>
    intro s src g w lo hi hinv hon hg
    refine ⟨fun hw => ?_, fun d hw hd hbind hraw hpanel => ?_⟩
    · exact ⟨_, exec_ptReqReceive_reads hon src hg hw, (State.ptSend_moves.keep hinv .um rfl).symm,
        congrArg PdSt.tx (s.ptSend_pd _ _ _)⟩
    · exact ⟨_, exec_ptReqReceive_writes hon src hg hw hd hbind hraw hpanel, State.umAdd_mem _ _⟩
  case origin =>
    intro s k x hi hon hk hnew hsubs hperiod
    obtain ⟨htx, hsent⟩ := (s.originNoted k).sendRec_pd x
    have hone : (s.originNoted k).pd.subs = [x] := hsubs
    rw [hone, List.map_singleton, State.noteSent_self] at hsent
    exact ⟨_, exec_originPeriodBoundary_one hon hk hnew hsubs hperiod, htx, hsent⟩

end Sys2Proof.Machine
end

