-- ==== Sys2Proof/Proofs/RecipeCommands.lean ====
section
/-! RECIPE_CTL: LOAD, and the operations that wait for a tick of their lane (R349). -/

namespace Sys2Proof.Machine

open Sys2Proof

/-! Step memory. -/

/-- Steps stored at consecutive places, from `first + n` on. -/
def stepsStored (first n : Nat) (l : List (List W32)) (m : AMap (List W32)) : AMap (List W32) :=
  (l.zipIdx n).foldl (fun m e => mset (fun _ => []) (first + e.2) (e.1.take 5) m) m

theorem stepsStored_cons (first n : Nat) (w : List W32) (l : List (List W32)) (m : AMap (List W32)) :
    stepsStored first n (w :: l) m = stepsStored first (n + 1) l (mset (fun _ => []) (first + n) (w.take 5) m) := rfl

/-- What stands below is left. -/
theorem stepsStored_below {first j : Nat} : ∀ (l : List (List W32)) (n : Nat) {m : AMap (List W32)},
    mapOk (fun _ => []) m = true → j < first + n → mget (fun _ => []) (stepsStored first n l m) j = mget (fun _ => []) m j
  | [], _, _, _, _ => rfl
  | w :: l, n, m, hm, hj => by
    rw [stepsStored_cons]
    exact (stepsStored_below l (n + 1) (mset_ok hm) (by omega)).trans (mget_mset_ne _ (Nat.ne_of_lt hj) m hm)

/-- Words 0 to 4 of each step read back. -/
theorem stepsStored_at {first : Nat} : ∀ (l : List (List W32)) (n : Nat) {m : AMap (List W32)} {k : Nat} {w : List W32},
    mapOk (fun _ => []) m = true → l[k]? = some w → mget (fun _ => []) (stepsStored first n l m) (first + n + k) = w.take 5
  | [], _, _, _, _, _, hw => by simp at hw
  | x :: l, n, m, 0, w, hm, hw => by
    obtain rfl : x = w := by simpa using hw
    rw [stepsStored_cons]
    exact (stepsStored_below l (n + 1) (mset_ok hm) (by omega)).trans (mget_mset_same (first + n) _ m hm)
  | x :: l, n, m, k + 1, w, hm, hw => by
    rw [stepsStored_cons, show first + n + (k + 1) = first + (n + 1) + k by omega]
    exact stepsStored_at l (n + 1) (mset_ok hm) hw

theorem State.putSteps_stepOf {s : State} (hok : mapOk (fun _ => []) s.rp.steps = true) (first : Nat) {ws : List W32} {n k : Nat}
    (hk : k < n) : (s.putSteps first (stepsOf ws n)).stepOf (first + k) = (ws.drop (8 * k)).take 5 := by
  have hstep : (stepsOf ws n)[k]? = some ((ws.drop (8 * k)).take 8) := by simp [stepsOf, hk]
  have hread := stepsStored_at (first := first) (stepsOf ws n) 0 hok hstep
  rwa [List.take_take] at hread

/-! LOAD. -/

/-- Steps of a buffer are in step memory, their blocks dirty. -/
def State.loaded (s : State) (c : Cmd) (ws : List W32) : State :=
  (s.putSteps ((c.par 1).get 19 0) (stepsOf ws (c.bufLen / 32))).dirtySteps ((c.par 1).get 19 0) (c.bufLen / 32)

theorem exec_recipeLoad_loads {s : State} {ring idx : Nat} {ws : List W32} {c : Cmd} (hr : s.Ready ring idx c)
    (hb : c.WithBuffer opRecipeCtl 0 12) (hop : c.rpOpOf = 1) (hobj : c.objid = rpStepsObj) (hp0 : (c.par 0).get 31 4 = 0)
    (hp1 : (c.par 1).get 31 20 = 0) (hwhole : c.bufLen % 32 = 0) (hsome : 32 ≤ c.bufLen) (hreach : s.bufReach c = true)
    (hlen : ws.length = c.bufLen / 4) (hfits : (c.par 1).get 19 0 + c.bufLen / 32 ≤ 1048576) (hmodes : s.inMode modesCr = true)
    (hcrc : crc32c ws = (c.par 2).toNat) (hgood : stepsBad s (stepsOf ws (c.bufLen / 32)) = none)
    (hfree : s.rpHolds ((c.par 1).get 19 0) (c.bufLen / 32) = false) :
    exec (.recipeLoad ring idx (some ws)) s = .next ((s.loaded c ws).done c 0 0 0 0) := by
  have hall : ws.take (8 * (c.bufLen / 32)) = ws := List.take_of_length_le (by omega)
  have hmine : (c.opcode == opRecipeCtl && !([2, 3, 4, 5].contains c.rpOpOf)) = true := by
    simpa [hop, isOp] using hb.isOp
  show execRecipeLoad ring idx (some ws) s = _
  refine hr.runCmd hmine ((State.Ready.verdict_buffer hr hb ?_ rfl ?_ rfl hmodes).trans ?_)
  · simp [hop, hb.buffer, hwhole, hsome, hfits]
  · simp [hop, hobj, hp0, hp1]
  · simp [State.reach, hreach, hall, hcrc, hgood, hfree]

/-! START, HOLD, RESUME and CANCEL. -/

/-- The parameters of a lane operation are good, and the state of the lane takes it. -/
def AsksLane (s : State) (c : Cmd) (op : Nat) : Prop :=
  c.rpOpOf = op ∧ objUnit c.objid = 0x23 ∧ objGrp c.objid = 1 ∧ objInst c.objid < 64 ∧ (c.par 0).get 31 4 = 0 ∧
    (c.par 1).get 31 20 = 0 ∧ rpOp op 0 (s.lane (objInst c.objid)) ≠ none

/-- A lane operation in a state that takes it is handed to its lane. -/
theorem State.Ready.runCmd_laneAsk {s : State} {ring idx op : Nat} {c : Cmd} (hr : s.Ready ring idx c) (hp : c.Plain opRecipeCtl 8)
    (hask : AsksLane s c op) (hmodes : s.inMode modesCr = true) :
    s.runCmd ring idx (isRp op) (laneChecks op) (fun s c => s.laneAsk op c) = .next (s.laneAsk op c) := by
  obtain ⟨hop, hunit, hgrp, hinst, hp0, hp1, htaken⟩ := hask
  have hmine : isRp op c = true := by simpa [isRp, hop, isOp] using hp.isOp
  have hlen : 8 ≤ c.len := hp.2.2.2.2
  refine hr.runCmd hmine ((State.verdict_own hr hp ?_ rfl ?_ (fun h => absurd h Bool.false_ne_true) hmodes).trans ?_)
  · have hneed : (if op = 2 then 8 else 4) ≤ c.len := by split <;> omega
    simp [laneChecks, Cmd.inline, hp.buf, hneed]
  · simp [laneChecks, hunit, hgrp, hinst, hp0, hp1]
  · simp [laneChecks, htaken]

theorem exec_laneOperation {s : State} {ring idx op : Nat} {i : Instr} {c : Cmd} (hr : s.Ready ring idx c)
    (hp : c.Plain opRecipeCtl 8) (hi : (op, i) ∈ [(2, Instr.recipeStart ring idx), (3, .recipeHold ring idx),
      (4, .recipeResume ring idx), (5, .recipeCancel ring idx)]) (hask : AsksLane s c op) (hmodes : s.inMode modesCr = true) :
    exec i s = .next (s.laneAsk op c) := by
  have hrun := hr.runCmd_laneAsk hp hask hmodes
  simp only [List.mem_cons, Prod.mk.injEq, List.not_mem_nil, or_false] at hi
  obtain ⟨rfl, rfl⟩ | ⟨rfl, rfl⟩ | ⟨rfl, rfl⟩ | ⟨rfl, rfl⟩ := hi
  · exact hrun
  · exact hrun
  · exact hrun
  · exact hrun

/-- The operation waits at its lane, not before 10 µs after the fetch. -/
theorem State.laneAsk_mem (s : State) (op : Nat) (c : Cmd) :
    ⟨op, (c.par 1).get 19 0, c.ref, c.fetchAt + 10000⟩ ∈ ((s.laneAsk op c).lane (objInst c.objid)).reqs := by
  let asked : RpLane := { s.lane (objInst c.objid) with
    reqs := (s.lane (objInst c.objid)).reqs ++ [⟨op, (c.par 1).get 19 0, c.ref, c.fetchAt + 10000⟩] }
  have hne : asked ≠ RpLane.init := fun h => by
    have hreqs : asked.reqs = [] := congrArg RpLane.reqs h
    simp [asked] at hreqs
  have hlane : (s.laneAsk op c).lane (objInst c.objid) = asked :=
    mget_mset_of_ne (d := fun _ => RpLane.init) hne s.rp.lanes
  rw [hlane]
  exact List.mem_append_right _ (List.mem_singleton.2 rfl)

end Sys2Proof.Machine
end

