-- ==== Sys2Proof/Proofs/RecipeTicks.lean ====
section
/-! Ticks of the recipe lanes: operations taken, steps run, errors (R346 to R350). -/

namespace Sys2Proof.Machine

open Sys2Proof

/-! Steps of a tick (R347, R348). -/

section steps

variable {s : State} {r q : RpRun} {w : List W32}

theorem State.rpSteps_halt {m : Nat} (h : s.rpStep r (s.stepOf r.x.pc) = .halt q) : s.rpSteps (m + 1) r = q := by
  simp [State.rpSteps, h]

theorem State.rpSteps_linked {m : Nat} (h : s.rpStep r (s.stepOf r.x.pc) = .linked q) (hlast : stLink (s.stepOf r.x.pc) = false) :
    s.rpSteps (m + 1) r = q := by
  simp [State.rpSteps, h, hlast]

theorem State.rpStep_set (hkind : stKind w = 1) (hgood : stPointBad s w = false) :
    s.rpStep r w = .linked ((r.stage (stPoint w) (stVal w, false)).to (r.x.pc + 1)) := by
  simp [State.rpStep, hkind, hgood]

/-- The lane after the first tick of a RAMP from `start`. -/
def RpLane.ramping (x : RpLane) (start : Nat) : RpLane := { x with inStep := true, start := start, count := 1 }

/-- A RAMP over more than one tick stages its first value and stays. -/
theorem State.rpStep_ramp_first (hkind : stKind w = 2) (hgood : stPointBad s w = false) (hfirst : r.x.inStep = false)
    (hlong : 1 < stTicks w) {start : Nat} (hstart : start = toF64 (s.ptType (stPoint w)) (s.ptRec (stPoint w)).raw)
    (hfinite : finite f64 start = true) :
    s.rpStep r w = .halt { r.stage (stPoint w) (fromF64 (s.ptType (stPoint w)) (rampAt start (stVal w) 1 (stTicks w))) with
      x := r.x.ramping start } := by
  subst hstart
  simp [State.rpStep, hkind, hgood, hfirst, hfinite, hlong, RpLane.ramping]

theorem rampAt_first {start target ticks : Nat} (hlong : 1 < ticks) : rampAt start target 1 ticks =
    fadd f64 start (fdiv f64 (fmul f64 (fsub f64 target start) (ofInt f64 1)) (ofInt f64 ticks)) :=
  if_neg (Nat.ne_of_lt hlong)

/-- The lane after END with a code. -/
def RpLane.endedWith (x : RpLane) (code : Nat) : RpLane := { x with state := 3, endCode := code, err := 8 }

/-- END with a code ends the lane, whatever calls are open. -/
theorem State.rpStep_end_code (hkind : stKind w = 6) (hcode : stVal w % 256 ≠ 0) :
    s.rpStep r w = .halt { r with x := r.x.endedWith (stVal w % 256), ended := true } := by
  cases hcalls : r.x.stack with
  | nil => simp [State.rpStep, hkind, hcalls, hcode, RpLane.endedWith]
  | cons p calls => simp [State.rpStep, hkind, hcalls, hcode, RpLane.endedWith]

theorem State.rpStep_branch_bad (hkind : stKind w = 5) (hknown : (s.ptDef (stPoint w)).isSome = true)
    (hgood : stPointBad s w = false) (hbad : (s.ptRec (stPoint w)).bad = true) : s.rpStep r w = r.fail 5 := by
  simp [State.rpStep, hkind, hknown, hgood, hbad]

end steps

/-! A lane runs for one tick. -/

/-- A lane before any step of its tick. -/
def RpRun.begin (x : RpLane) : RpRun := ⟨x, [], none, false⟩

/-- What a tick of lane `x` leaves: the lane, and its writes on their way to the round that begins 50 µs later. -/
def State.laneRan (s : State) (n t : Nat) (x : RpLane) (q : RpRun) : State :=
  let s1 := s.setLane n q.x
  { s1 with rp := { s1.rp with out := s1.rp.out ++ [⟨n, t + 50000, q.out, x⟩] } }

section ran

variable {s : State} (hok : mapOk (fun _ => RpLane.init) s.rp.lanes = true)
include hok

theorem State.laneRan_lane (n t : Nat) (x : RpLane) (q : RpRun) : (s.laneRan n t x q).lane n = q.x := State.setLane_lane hok n q.x

/-- The event of a lane that ended leaves the lane and the writes. -/
theorem State.laneRan_notify (hi : s.Inv) (n t : Nat) (x : RpLane) (q : RpRun) :
    ((s.laneRan n t x q).notify 0x23 1 0 n q.x.endCode 0 0).lane n = q.x ∧
      ((s.laneRan n t x q).notify 0x23 1 0 n q.x.endCode 0 0).rp.out = s.rp.out ++ [⟨n, t + 50000, q.out, x⟩] := by
  have hran : (s.laneRan n t x q).Inv := hi
  have hrp : (s.laneRan n t x q).rp = ((s.laneRan n t x q).notify 0x23 1 0 n q.x.endCode 0 0).rp :=
    State.notify_moves.keep hran .rp rfl
  rw [State.lane, ← hrp]
  exact ⟨State.laneRan_lane hok n t x q, rfl⟩

end ran

section run

variable {s : State} {n t : Nat} {x : RpLane} {q : RpRun} (hlane : s.lane n = x) (hrunning : x.state = 1)
  (hkept : x.lostErr = false) (hsteps : s.rpSteps 64 (RpRun.begin x) = q)
include hlane hrunning hkept hsteps

theorem State.rpRunLane_ran (herr : q.err = none) (hended : q.ended = false) : s.rpRunLane n t = s.laneRan n t x q := by
  subst hsteps
  simp only [RpRun.begin] at herr hended
  simp [State.rpRunLane, hlane, hrunning, hkept, herr, hended, State.laneRan, RpRun.begin]

theorem State.rpRunLane_ended (herr : q.err = none) (hended : q.ended = true) :
    s.rpRunLane n t = (s.laneRan n t x q).notify 0x23 1 0 n q.x.endCode 0 0 := by
  subst hsteps
  simp only [RpRun.begin] at herr hended
  simp [State.rpRunLane, hlane, hrunning, hkept, herr, hended, State.laneRan, RpRun.begin]

theorem State.rpRunLane_failed {e : Nat} (herr : q.err = some e) : s.rpRunLane n t = s.rpError n q.x e := by
  subst hsteps
  simp only [RpRun.begin] at herr
  simp [State.rpRunLane, hlane, hrunning, hkept, herr, RpRun.begin]

end run

/-- A recipe error leaves the lane in ERROR and writes on their way alone, and an event of class A arrives (R350). -/
theorem State.rpError_effect {s : State} (hi : s.Inv) (hok : mapOk (fun _ => RpLane.init) s.rp.lanes = true) (n : Nat) (x : RpLane)
    (code : Nat) : (s.rpError n x code).lane n = { x with state := 4, err := code, lostErr := false } ∧
      (s.rpError n x code).rp.out = s.rp.out ∧ ⟨0x2302, 1⟩ ∈ (s.rpError n x code).ec.arrivals := by
  let failed := s.setLane n { x with state := 4, err := code, lostErr := false }
  let told := failed.notify 0x23 2 1 n code x.pc 0
  have hfailed : failed.Inv := State.setLane_moves.inv hi
  have htold : told.Inv := State.notify_moves.inv hfailed
  have hrp : failed.rp = (s.rpError n x code).rp :=
    (State.notify_moves.keep (t := told) hfailed .rp rfl).trans (State.freeCause_moves.keep htold .rp rfl)
  have harrivals : told.ec = (s.rpError n x code).ec := State.freeCause_moves.keep htold .ec rfl
  rw [State.lane, ← hrp, ← harrivals]
  exact ⟨State.setLane_lane hok n _, rfl, State.notifyAt_mem_arrivals hfailed (by decide) _ _ _ _ _⟩

/-! The tick (R346, R349). -/

/-- The instant of the tick that is due. -/
def State.tickTime (s : State) (n : Nat) : Nat := s.tai / s.rpPeriod n * s.rpPeriod n

/-- The lane once its tick is noted. -/
def State.tickedLane (s : State) (n : Nat) : RpLane := { s.lane n with tickAt := s.tai / s.rpPeriod n + 1 }

/-- The lane that a START due at the tick has taken to its step. -/
def State.startedLane (s : State) (n step : Nat) : RpLane :=
  { s.tickedLane n with reqs := [], state := 1, pc := step, stack := [], count := 0, inStep := false, lostErr := false }

theorem exec_recipeTick_due {s : State} {n : Nat} (hn : n < 64) (hon : s.rpOn = true) (hgrid : s.gridOk (s.rpPeriod n) = true)
    (hnew : (s.lane n).tickAt ≠ s.tai / s.rpPeriod n + 1) (hfrom : s.rp.ticksFrom ≤ s.elapsedAt (s.tickTime n)) :
    exec (.recipeTick n) s = .next (((s.setLane n (s.tickedLane n)).rpOps n (s.tickTime n)).rpRunLane n (s.tickTime n)) := by
  have hfrom' : s.rp.ticksFrom ≤ s.elapsedAt (s.tai / s.rpPeriod n * s.rpPeriod n) := hfrom
  show execRecipeTick n s = _
  exact if_neg (by simp [hon, hn, hgrid, hnew, hfrom'])

section ops

variable {s : State} (hok : mapOk (fun _ => RpLane.init) s.rp.lanes = true)
include hok

/-- No operation waits. -/
theorem State.rpOps_none {n t : Nat} {x : RpLane} (hreqs : x.reqs = []) : (s.setLane n x).rpOps n t = s.setLane n x := by
  have hsame : ({ x with reqs := [] } : RpLane) = x := by rw [← hreqs]
  simp [State.rpOps, State.setLane_lane hok, hreqs, hsame, State.setLane_setLane hok]

/-- The one operation that waits is due, and the lane takes it. -/
theorem State.rpOps_taken {n t op step nb : Nat} {x y : RpLane} {c : Cmd} (hreqs : x.reqs = [⟨op, step, c.ref, nb⟩]) (hdue : nb ≤ t)
    (hop : rpOp op step { x with reqs := [] } = some y) (hfound : s.findCmd c.ring c.order = some c) (hu : c.undecided = true) :
    (s.setLane n x).rpOps n t =
      (s.setLane n y).setPhase c.ring c.order (.decided .ok 0 0 0 0 (some (Stamp.ofTai t))) := by
  have hfound' : (s.setLane n y).findCmd c.ring c.order = some c := hfound
  simp [State.rpOps, State.setLane_lane hok, hreqs, hdue, Nat.not_lt.2 hdue, hop, State.setLane_setLane hok,
    State.settle_eq hfound' hu]

end ops

/-- A START that is due takes an IDLE lane to its step. -/
theorem State.rpOps_start {s : State} (hok : mapOk (fun _ => RpLane.init) s.rp.lanes = true) {n t step nb : Nat} {c : Cmd}
    (hreqs : (s.lane n).reqs = [⟨2, step, c.ref, nb⟩]) (hdue : nb ≤ t) (hidle : (s.lane n).state = 0)
    (hfound : s.findCmd c.ring c.order = some c) (hu : c.undecided = true) :
    (s.setLane n (s.tickedLane n)).rpOps n t =
      (s.setLane n (s.startedLane n step)).setPhase c.ring c.order (.decided .ok 0 0 0 0 (some (Stamp.ofTai t))) :=
  State.rpOps_taken hok hreqs hdue (by simp [rpOp, State.tickedLane, hidle, State.startedLane]) hfound hu

/-! The obligation. -/

/-- Settles O52: each command and each tick by the state it leads to, and that state by its lane and its staged writes. -/
theorem recipesLoadStartAndTick : Obligations.RecipesLoadStartAndTick := by
  unfold Obligations.RecipesLoadStartAndTick
  refine ⟨?load, ?ask, ?tick⟩
  case load =>
    intro s ring idx ws c _ hok hr hb hop hobj hp0 hp1 hwhole hsome hreach hlen hfits hmodes hcrc hgood hfree
    obtain ⟨-, -, -, -, -, -, hsteps, -⟩ := State.pointMapsOk_iff.1 hok
    exact ⟨_, exec_recipeLoad_loads hr hb hop hobj hp0 hp1 hwhole hsome hreach hlen hfits hmodes hcrc hgood hfree,
      State.done_outcome hr.mem hr.undecided _ _ _ _, rfl, fun k hk => State.putSteps_stepOf hsteps _ hk⟩
  case ask =>
    intro s ring idx c op i _ hr hp hi hop hunit hgrp hinst hp0 hp1 hmodes htaken
    exact ⟨_, exec_laneOperation hr hp hi ⟨hop, hunit, hgrp, hinst, hp0, hp1, htaken⟩ hmodes,
      State.setPhase_mem hr.mem hr.undecided .started, s.laneAsk_mem op c⟩
  case tick =>
    intro s n hi hok hn hon hgrid hnew hfrom
    obtain ⟨-, -, -, -, -, -, -, hlanes⟩ := State.pointMapsOk_iff.1 hok
    have hexec := exec_recipeTick_due hn hon hgrid hnew hfrom
    constructor
    · intro c step nb hreqs hdue hidle hfound hu hkind hlast hgood
      let taken := (s.setLane n (s.startedLane n step)).setPhase c.ring c.order
        (.decided .ok 0 0 0 0 (some (Stamp.ofTai (s.tickTime n))))
      have hlane : taken.lane n = s.startedLane n step := State.setLane_lane hlanes n _
      have hsteps := State.rpSteps_linked (s := taken) (r := .begin (s.startedLane n step)) (m := 63)
        (State.rpStep_set hkind hgood) hlast
      rw [State.rpOps_start (t := s.tickTime n) hlanes hreqs hdue hidle hfound hu,
        State.rpRunLane_ran hlane rfl rfl hsteps rfl rfl] at hexec
      have hran := State.laneRan_lane (s := taken) (State.setLane_ok hlanes n _) n (s.tickTime n) (s.startedLane n step)
      exact ⟨_, s.startedLane n step, hexec, congrArg RpLane.state (hran _), congrArg RpLane.pc (hran _), rfl,
        State.setPhase_mem (List.mem_of_find?_eq_some hfound) hu _, rfl⟩
    · intro hreqs hrunning hkept
      let ticked := s.setLane n (s.tickedLane n)
      have hinv : ticked.Inv := State.setLane_moves.inv hi
      have hlanes' : mapOk (fun _ => RpLane.init) ticked.rp.lanes = true := State.setLane_ok hlanes n _
      have hlane : ticked.lane n = s.tickedLane n := State.setLane_lane hlanes n _
      rw [State.rpOps_none hlanes (x := s.tickedLane n) hreqs] at hexec
      refine ⟨fun hkind hgood hfirst hlong st hst hfinite => ?_, fun hkind hcode => ?_, fun hkind hknown hgood hbad => ?_⟩
      · have hsteps := State.rpSteps_halt (s := ticked) (r := .begin (s.tickedLane n)) (m := 63)
          (State.rpStep_ramp_first hkind hgood hfirst hlong hst hfinite)
        rw [State.rpRunLane_ran hlane hrunning hkept hsteps rfl rfl] at hexec
        have hran := State.laneRan_lane hlanes' n (s.tickTime n) (s.tickedLane n)
        exact ⟨_, _, s.tickedLane n, hexec, (congrArg RpLane.pc (hran _)).trans rfl, rfl, hfirst,
          congrArg RpLane.count (hran _), congrArg RpLane.start (hran _), congrArg _ (rampAt_first hlong), rfl⟩
      · have hsteps := State.rpSteps_halt (s := ticked) (r := .begin (s.tickedLane n)) (m := 63)
          (State.rpStep_end_code hkind hcode)
        rw [State.rpRunLane_ended hlane hrunning hkept hsteps rfl rfl] at hexec
        obtain ⟨hran, hout⟩ := State.laneRan_notify hlanes' hinv n (s.tickTime n) (s.tickedLane n)
          { RpRun.begin ((s.tickedLane n).endedWith (stVal (s.stepOf (s.lane n).pc) % 256)) with ended := true }
        exact ⟨_, s.tickedLane n, hexec, congrArg RpLane.state hran, congrArg RpLane.err hran, congrArg RpLane.endCode hran, rfl,
          hout⟩
      · have hsteps := State.rpSteps_halt (s := ticked) (r := .begin (s.tickedLane n)) (m := 63)
          (State.rpStep_branch_bad hkind hknown hgood hbad)
        rw [State.rpRunLane_failed hlane hrunning hkept hsteps rfl] at hexec
        obtain ⟨hfailed, hout, harrived⟩ := State.rpError_effect hinv hlanes' n (s.tickedLane n) 5
        exact ⟨_, hexec, congrArg RpLane.state hfailed, congrArg RpLane.err hfailed, hout, harrived⟩

end Sys2Proof.Machine
end

