-- ==== Sys2Proof/Proofs/CommandFrames.lean ====
section
/-! Every command answers a next state, in which only the kinds of state differ that its rules name: the kinds of a row as one bit
mask, and what the command's meaning moves (Laws/Frame) within that mask. -/

namespace Sys2Proof.Machine

open Sys2Proof

/-! Kinds of state as a bit mask. -/

/-- The mask of one kind. It is a product of two powers, since `rfl` evaluates none with an exponent above 256. -/
def Part.mask (p : Part) : Nat := 2 ^ (p.bit / 2) * 2 ^ (p.bit - p.bit / 2)

/-- The mask of a list of kinds. -/
def partsMask (ps : List Part) : Nat := ps.foldr (fun p m => p.mask ||| m) 0

theorem Part.mask_eq (p : Part) : p.mask = 2 ^ p.bit := by
  rw [Part.mask, ← Nat.pow_add, Nat.add_sub_cancel' (Nat.div_le_self _ _)]

theorem testBit_partsMask (ps : List Part) (n : Nat) : (partsMask ps).testBit n = ps.any (fun p => p.bit == n) := by
  induction ps with
  | nil => simp [partsMask]
  | cons p ps ih =>
    rw [show partsMask (p :: ps) = p.mask ||| partsMask ps from rfl, Part.mask_eq, Nat.testBit_or, ih, List.any_cons, Nat.testBit_two_pow]
    rfl

/-- The kinds that are no registers. -/
def plainParts : List Part :=
  [.ident, .fuses, .access, .queue, .elapsed, .free, .staged, .mo, .kp, .tu, .mb, .he, .sb, .ec, .ev, .ch, .dr, .ar, .af, .fc, .pe,
    .tm, .pd, .um, .rp, .le, .fd, .sf, .lg, .cs, .rb, .mode, .flight, .phases, .outcomes, .images, .handed, .errors]

/-- The kind of a bit, where the bit is not the one shared by the units that do not exist. -/
def Part.ofBit (n : Nat) : Part := (plainParts.find? (fun p => p.bit == n)).getD (.regs (n - 32))

theorem Part.bit_regs_known {u : Nat} (h : unitNumbers.contains u = true) : (Part.regs u).bit = 32 + u := if_pos h

theorem Part.bit_regs_unknown {u : Nat} (h : unitNumbers.contains u = false) : (Part.regs u).bit = 31 := if_neg (by rw [h]; decide)

theorem Part.ofBit_known : ∀ u ∈ unitNumbers, Part.ofBit (32 + u) = .regs u := by decide

/-- Only the units that do not exist share a bit. -/
theorem Part.ofBit_bit {p : Part} (h : p.bit ≠ 31) : Part.ofBit p.bit = p := by
  cases p with
  | regs u =>
    cases hu : unitNumbers.contains u with
    | true => rw [Part.bit_regs_known hu, Part.ofBit_known u (by simpa using hu)]
    | false => exact absurd (Part.bit_regs_unknown hu) h
  | _ => rfl

theorem Part.eq_of_bit {p q : Part} (h : p.bit = q.bit) (hq : q.bit ≠ 31) : p = q := by
  rw [← Part.ofBit_bit hq, ← h, Part.ofBit_bit (h ▸ hq)]

/-! The kinds of a command. -/

/-- The kinds that a command may change, with every unit's registers where it may write those of any. -/
def commandKinds (i : Instr) : List Part :=
  commandParts i ++ if commandAnyRegs i then .regs 0 :: unitNumbers.map .regs else []

/-- No command's row names the fused identity, or registers of a unit that does not exist. -/
theorem commandParts_bits (i : Instr) : (commandParts i).all (fun q => q.bit != 31 && q.bit != 0) = true := by
  cases i <;> rfl

theorem commandParts_bit {i : Instr} {q : Part} (hq : q ∈ commandParts i) : q.bit ≠ 31 ∧ q.bit ≠ 0 := by
  have h := List.all_eq_true.1 (commandParts_bits i) q hq
  simpa using h

theorem anyRegs_regs {q : Part} (hq : q ∈ (.regs 0 :: unitNumbers.map .regs : List Part)) : ∃ u, q = .regs u := by
  rcases List.mem_cons.1 hq with rfl | h
  · exact ⟨0, rfl⟩
  · obtain ⟨u, -, rfl⟩ := List.mem_map.1 h
    exact ⟨u, rfl⟩

theorem Part.bit_regs_ge (u : Nat) : 31 ≤ (Part.regs u).bit := by
  cases hu : unitNumbers.contains u with
  | true => rw [Part.bit_regs_known hu]; omega
  | false => rw [Part.bit_regs_unknown hu]

/-- The fused identity is no command's to change. -/
theorem commandKinds_ident (i : Instr) : (partsMask (commandKinds i)).testBit Part.ident.bit = false := by
  rw [testBit_partsMask, List.any_eq_false]
  intro q hq
  rw [show Part.ident.bit = 0 from rfl, beq_iff_eq]
  rcases List.mem_append.1 hq with hq | hq
  · exact (commandParts_bit hq).2
  · split at hq
    · obtain ⟨u, rfl⟩ := anyRegs_regs hq
      have := Part.bit_regs_ge u
      omega
    · exact absurd hq (List.not_mem_nil)

/-- A kind outside those of the row, and no register of a command that may write any, is outside the mask. -/
theorem commandKinds_outside {i : Instr} {p : Part} (hp : p ∉ commandParts i) (hr : commandAnyRegs i = true → ∀ u, p ≠ .regs u) :
    (partsMask (commandKinds i)).testBit p.bit = false := by
  rw [testBit_partsMask, List.any_eq_false]
  intro q hq hbit
  have hqp : q.bit = p.bit := beq_iff_eq.1 hbit
  rcases List.mem_append.1 hq with hq | hq
  · have h31 := (commandParts_bit hq).1
    exact hp (Part.eq_of_bit hqp (hqp ▸ h31) ▸ hq)
  · split at hq
    · next hany =>
      obtain ⟨u, rfl⟩ := anyRegs_regs hq
      cases p with
      | regs v => exact hr hany v rfl
      | _ =>
        have hge := Part.bit_regs_ge u
        by_cases h31 : (Part.regs u).bit = 31
        · exact absurd (hqp.symm.trans h31) (by decide)
        · exact Part.noConfusion (Part.eq_of_bit hqp.symm h31)
    · exact absurd hq List.not_mem_nil

/-! What each command moves. -/

theorem ResMoves.ofRow {i : Instr} {k : Nat} {s : State} {r : Res} (ps : List Part) (hp : commandParts i = ps)
    (hr : commandAnyRegs i = false) (hk : sub k (partsMask ps) = true) (h : ResMoves k s r) :
    ResMoves (partsMask (commandKinds i)) s r := by
  rw [commandKinds, hp, hr, if_neg Bool.false_ne_true, List.append_nil]
  exact h.mono hk

theorem ResMoves.ofRowAnyRegs {i : Instr} {k : Nat} {s : State} {r : Res} (ps : List Part) (hp : commandParts i = ps)
    (hr : commandAnyRegs i = true) (hk : sub k (partsMask (ps ++ .regs 0 :: unitNumbers.map .regs)) = true) (h : ResMoves k s r) :
    ResMoves (partsMask (commandKinds i)) s r := by
  rw [commandKinds, hp, hr, if_pos rfl]
  exact h.mono hk

/-- Every command answers a next state that differs in the kinds of its row only. -/
theorem exec_moves (i : Instr) (s : State) : ResMoves (partsMask (commandKinds i)) s (exec i s) := by
  cases i with
  | nop _ _ => exact .ofRow nopParts rfl rfl rfl execNop_moves
  | abort _ _ => exact .ofRow abortParts rfl rfl rfl execAbort_moves
  | objRead _ _ _ => exact .ofRow nopParts rfl rfl rfl execObjRead_moves
  | objWrite _ _ _ => exact .ofRowAnyRegs objWriteParts rfl rfl rfl execObjWrite_moves
  | objModify _ _ => exact .ofRowAnyRegs objWriteParts rfl rfl rfl execObjModify_moves
  | objDescribe _ _ => exact .ofRow nopParts rfl rfl rfl execObjDescribe_moves
  | cfgLoad _ _ _ _ => exact .ofRow cfgLoadParts rfl rfl rfl execCfgLoad_moves
  | cfgApply _ _ => exact .ofRowAnyRegs cfgApplyParts rfl rfl rfl execCfgApply_moves
  | cfgDiscard _ _ => exact .ofRow cfgLoadParts rfl rfl rfl execCfgDiscard_moves
  | cfgRead _ _ _ => exact .ofRow nopParts rfl rfl rfl execCfgRead_moves
  | modeRequest _ _ => exact .ofRow modeRequestParts rfl rfl rfl execModeRequest_moves
  | safeExit _ _ => exact .ofRow safeExitParts rfl rfl rfl execSafeExit_moves
  | coldRestart _ _ => exact .ofRowAnyRegs coldRestartParts rfl rfl rfl execColdRestart_moves
  | letRequest _ _ => exact .ofRow letRequestParts rfl rfl rfl execLetRequest_moves
  | notifyRoute _ _ => exact .ofRow nopParts rfl rfl rfl execNotifyRoute_moves
  | streamOpen _ _ => exact .ofRow streamOpenParts rfl rfl rfl execStreamOpen_moves
  | streamClose _ _ => exact .ofRow streamOpenParts rfl rfl rfl execStreamClose_moves
  | evFreeze _ _ _ _ => exact .ofRow evFreezeParts rfl rfl rfl execEvFreeze_moves
  | evRelease _ _ => exact .ofRow evReleaseParts rfl rfl rfl execEvRelease_moves
  | drTrigger _ _ => exact .ofRow drTriggerParts rfl rfl rfl execDrTrigger_moves
  | drExport _ _ _ => exact .ofRow nopParts rfl rfl rfl execDrExport_moves
  | bankSwap _ _ => exact .ofRow bankSwapParts rfl rfl rfl execBankSwap_moves
  | loopState _ _ => exact .ofRow loopStateParts rfl rfl rfl execLoopState_moves
  | autotuneStart _ _ => exact .ofRow autotuneStartParts rfl rfl rfl execAutotuneStart_moves
  | autotuneStop _ _ => exact .ofRow autotuneStopParts rfl rfl rfl execAutotuneStop_moves
  | forceSet _ _ => exact .ofRow forceSetParts rfl rfl rfl execForceSet_moves
  | forceClear _ _ => exact .ofRow forceSetParts rfl rfl rfl execForceClear_moves
  | injectStart _ _ => exact .ofRow injectStartParts rfl rfl rfl execInjectStart_moves
  | injectStop _ _ => exact .ofRow injectStartParts rfl rfl rfl execInjectStop_moves
  | tableCapture _ _ => exact .ofRow tableCaptureParts rfl rfl rfl execTableCapture_moves
  | bullpenLoad _ _ _ _ => exact .ofRow bullpenLoadParts rfl rfl rfl execBullpenLoad_moves
  | bullpenSwitch _ _ => exact .ofRow bullpenSwitchParts rfl rfl rfl execBullpenSwitch_moves
  | bullpenRollback _ _ => exact .ofRow bullpenSwitchParts rfl rfl rfl execBullpenRollback_moves
  | pointRead _ _ _ _ => exact .ofRow pointReadParts rfl rfl rfl execPointRead_moves
  | pointWrite _ _ _ => exact .ofRow pointWriteParts rfl rfl rfl execPointWrite_moves
  | recipeLoad _ _ _ => exact .ofRow recipeLoadParts rfl rfl rfl execRecipeLoad_moves
  | recipeStart _ _ => exact .ofRow recipeLoadParts rfl rfl rfl execRecipeStart_moves
  | recipeHold _ _ => exact .ofRow recipeLoadParts rfl rfl rfl execRecipeHold_moves
  | recipeResume _ _ => exact .ofRow recipeLoadParts rfl rfl rfl execRecipeResume_moves
  | recipeCancel _ _ => exact .ofRow recipeLoadParts rfl rfl rfl execRecipeCancel_moves
  | stationEnable _ _ => exact .ofRow stationEnableParts rfl rfl rfl execStationEnable_moves
  | authChallenge _ _ _ => exact .ofRow authChallengeParts rfl rfl rfl execAuthChallenge_moves
  | authResponse _ _ _ _ => exact .ofRow authResponseParts rfl rfl rfl execAuthResponse_moves
  | authEnd _ _ => exact .ofRow authChallengeParts rfl rfl rfl execAuthEnd_moves
  | attest _ _ _ _ => exact .ofRow nopParts rfl rfl rfl execAttest_moves
  | ownerTransfer _ _ _ _ _ => exact .ofRow ownerTransferParts rfl rfl rfl execOwnerTransfer_moves
  | unlockNonce _ _ _ _ => exact .ofRow authChallengeParts rfl rfl rfl execUnlockNonce_moves
  | unlockOpen _ _ _ _ _ => exact .ofRow unlockOpenParts rfl rfl rfl execUnlockOpen_moves
  | unlockReprovisionRequest _ _ _ _ => exact .ofRow authChallengeParts rfl rfl rfl execUnlockReprovisionRequest_moves
  | unlockProvision _ _ _ _ _ => exact .ofRow unlockProvisionParts rfl rfl rfl execUnlockProvision_moves
  | fwUpdate _ _ _ _ => exact .ofRow authChallengeParts rfl rfl rfl execFwUpdate_moves
  | doorbellProd _ _ => exact .ofRow doorbellProdParts rfl rfl rfl execDoorbellProd_moves
  | doorbellCons _ _ => exact .ofRow doorbellProdParts rfl rfl rfl execDoorbellCons_moves
  | stagingPost _ _ => exact .ofRow doorbellProdParts rfl rfl rfl execStagingPost_moves
  | commandFetch _ => exact .ofRow commandFetchParts rfl rfl rfl execCommandFetch_moves
  | completionWrite _ _ _ => exact .ofRow completionWriteParts rfl rfl rfl execCompletionWrite_moves
  | ringEnable _ _ => exact .ofRowAnyRegs ringEnableParts rfl rfl rfl execRingEnable_moves
  | msixGenEnable _ => exact .ofRowAnyRegs msixGenEnableParts rfl rfl rfl execMsixGenEnable_moves
  | bar0RegisterWrite _ _ _ => exact .ofRowAnyRegs bar0RegisterWriteParts rfl rfl rfl execBar0RegisterWrite_moves
  | bar4Write _ _ _ => exact .ofRow bar4WriteParts rfl rfl rfl execBar4Write_moves
  | bar2Write addr bytes value => exact .ofRow bar2WriteParts rfl rfl rfl (execBar2Write_moves (a0 := addr) (a1 := bytes) (a2 := value))
  | hotPortWrite _ _ => exact .ofRow doorbellProdParts rfl rfl rfl execHotPortWrite_moves
  | pcieHotReset => exact .ofRow pcieHotResetParts rfl rfl rfl execPcieHotReset_moves
  | d3hotEntry => exact .ofRow d3hotEntryParts rfl rfl rfl execD3hotEntry_moves
  | latchReset _ => exact .ofRow latchResetParts rfl rfl rfl execLatchReset_moves
  | evRecover _ => exact .ofRow evRecoverParts rfl rfl rfl execEvRecover_moves
  | clrUv _ => exact .ofRow clrUvParts rfl rfl rfl execClrUv_moves
  | clrOl _ => exact .ofRow clrUvParts rfl rfl rfl execClrOl_moves
  | arRetest _ _ => exact .ofRow arRetestParts rfl rfl rfl execArRetest_moves
  | tuIncrementWrite _ _ => exact .ofRow tuIncrementWriteParts rfl rfl rfl execTuIncrementWrite_moves
  | tuSlew _ _ => exact .ofRow tuSlewParts rfl rfl rfl execTuSlew_moves
  | tuStepRequest _ _ => exact .ofRow tuStepRequestParts rfl rfl rfl execTuStepRequest_moves
  | tuLock => exact .ofRow tuSlewParts rfl rfl rfl execTuLock_moves
  | tuHold => exact .ofRow tuSlewParts rfl rfl rfl execTuHold_moves
  | timeStepApply => exact .ofRow timeStepApplyParts rfl rfl rfl execTimeStepApply_moves
  | slewEnd => exact .ofRow tuStepRequestParts rfl rfl rfl execSlewEnd_moves
  | servoTimeout => exact .ofRow tuSlewParts rfl rfl rfl execServoTimeout_moves
  | rtcSet => exact .ofRow rtcSetParts rfl rfl rfl execRtcSet_moves
  | vddKeepApplied => exact .ofRowAnyRegs vddKeepAppliedParts rfl rfl rfl execVddKeepApplied_moves
  | vddKeepLoss => exact .ofRowAnyRegs vddKeepAppliedParts rfl rfl rfl execVddKeepLoss_moves
  | resetNRelease => exact .ofRowAnyRegs resetNReleaseParts rfl rfl rfl execResetNRelease_moves
  | resetNLow => exact .ofRowAnyRegs resetNLowParts rfl rfl rfl execResetNLow_moves
  | vddCoreLow => exact .ofRowAnyRegs resetNLowParts rfl rfl rfl execVddCoreLow_moves
  | romCheckDone _ => exact .ofRow romCheckDoneParts rfl rfl rfl execRomCheckDone_moves
  | firmwareVerified _ _ => exact .ofRow firmwareVerifiedParts rfl rfl rfl execFirmwareVerified_moves
  | captainReady => exact .ofRow captainReadyParts rfl rfl rfl execCaptainReady_moves
  | sramSelfTestDone _ _ => exact .ofRow sramSelfTestDoneParts rfl rfl rfl execSramSelfTestDone_moves
  | sdramTrained _ _ _ => exact .ofRow sdramTrainedParts rfl rfl rfl execSdramTrained_moves
  | bootConfigApply _ _ _ _ => exact .ofRowAnyRegs bootConfigApplyParts rfl rfl rfl execBootConfigApply_moves
  | localProtectionReady => exact .ofRow localProtectionReadyParts rfl rfl rfl execLocalProtectionReady_moves
  | trainExit => exact .ofRowAnyRegs trainExitParts rfl rfl rfl execTrainExit_moves
  | trainTimeout => exact .ofRowAnyRegs trainExitParts rfl rfl rfl execTrainTimeout_moves
  | sentinelEntryStep => exact .ofRow sentinelEntryStepParts rfl rfl rfl execSentinelEntryStep_moves
  | sentinelEntryCancel _ => exact .ofRow doorbellProdParts rfl rfl rfl execSentinelEntryCancel_moves
  | wakeSource _ => exact .ofRow doorbellProdParts rfl rfl rfl execWakeSource_moves
  | wakePllLocked => exact .ofRow wakePllLockedParts rfl rfl rfl execWakePllLocked_moves
  | wakeControlRunning => exact .ofRow wakeControlRunningParts rfl rfl rfl execWakeControlRunning_moves
  | wakePllTimeout => exact .ofRow wakePllTimeoutParts rfl rfl rfl execWakePllTimeout_moves
  | wakeNLow => exact .ofRow doorbellProdParts rfl rfl rfl execWakeNLow_moves
  | keeperAlarmDue => exact .ofRow keeperAlarmDueParts rfl rfl rfl execKeeperAlarmDue_moves
  | crystalStop => exact .ofRow crystalStopParts rfl rfl rfl execCrystalStop_moves
  | clockLoss => exact .ofRow sramSelfTestDoneParts rfl rfl rfl execClockLoss_moves
  | captainFault => exact .ofRow letRequestParts rfl rfl rfl execCaptainFault_moves
  | protectionWatchdogExpiry => exact .ofRow sramSelfTestDoneParts rfl rfl rfl execProtectionWatchdogExpiry_moves
  | protectionPass _ => exact .ofRowAnyRegs protectionPassParts rfl rfl rfl execProtectionPass_moves
  | trackerHoldExpiry _ => exact .ofRow trackerHoldExpiryParts rfl rfl rfl execTrackerHoldExpiry_moves
  | sliceConversion _ _ _ _ _ _ => exact .ofRow sliceConversionParts rfl rfl rfl execSliceConversion_moves
  | fastSample _ _ => exact .ofRow fastSampleParts rfl rfl rfl execFastSample_moves
  | minOnExpiry _ => exact .ofRow latchResetParts rfl rfl rfl execMinOnExpiry_moves
  | fineSample _ _ => exact .ofRow fineSampleParts rfl rfl rfl execFineSample_moves
  | resampledSample _ => exact .ofRow resampledSampleParts rfl rfl rfl execResampledSample_moves
  | arcLightChange _ _ => exact .ofRow arcLightChangeParts rfl rfl rfl execArcLightChange_moves
  | wakeComparatorSwitch _ => exact .ofRow wakeComparatorSwitchParts rfl rfl rfl execWakeComparatorSwitch_moves
  | directTripComparatorSwitch _ _ => exact .ofRow wakeComparatorSwitchParts rfl rfl rfl execDirectTripComparatorSwitch_moves
  | directTripHoldExpiry _ => exact .ofRow clrUvParts rfl rfl rfl execDirectTripHoldExpiry_moves
  | heartbeatLoss => exact .ofRow clrUvParts rfl rfl rfl execHeartbeatLoss_moves
  | bfRetripTimer _ => exact .ofRow latchResetParts rfl rfl rfl execBfRetripTimer_moves
  | bfBackupTimer _ => exact .ofRow latchResetParts rfl rfl rfl execBfBackupTimer_moves
  | breakerPosDiscExpiry _ => exact .ofRow latchResetParts rfl rfl rfl execBreakerPosDiscExpiry_moves
  | remoteBitStale _ => exact .ofRow latchResetParts rfl rfl rfl execRemoteBitStale_moves
  | tripFrameReceive _ _ => exact .ofRow latchResetParts rfl rfl rfl execTripFrameReceive_moves
  | zoneFrameReceive _ _ => exact .ofRow zoneFrameReceiveParts rfl rfl rfl execZoneFrameReceive_moves
  | zoneSampleDeadline _ _ _ => exact .ofRow zoneSampleDeadlineParts rfl rfl rfl execZoneSampleDeadline_moves
  | zoneRecoveryExpiry _ => exact .ofRow zoneRecoveryExpiryParts rfl rfl rfl execZoneRecoveryExpiry_moves
  | sliceEstimate _ _ _ _ _ _ => exact .ofRow sliceConversionParts rfl rfl rfl execSliceEstimate_moves
  | sliceRetirementSwitch _ => exact .ofRow sliceRetirementSwitchParts rfl rfl rfl execSliceRetirementSwitch_moves
  | refMonitorChange _ _ => exact .ofRow refMonitorChangeParts rfl rfl rfl execRefMonitorChange_moves
  | refOkExpiry _ => exact .ofRow refOkExpiryParts rfl rfl rfl execRefOkExpiry_moves
  | scanTrigger _ => exact .ofRow scanTriggerParts rfl rfl rfl execScanTrigger_moves
  | sampleTimerEvent _ => exact .ofRow sampleTimerEventParts rfl rfl rfl execSampleTimerEvent_moves
  | urgentConversion _ _ _ _ _ => exact .ofRow urgentConversionParts rfl rfl rfl execUrgentConversion_moves
  | arcSupervisionTest _ _ => exact .ofRow arcSupervisionTestParts rfl rfl rfl execArcSupervisionTest_moves
  | fcBankSwapInstant _ => exact .ofRow fcBankSwapInstantParts rfl rfl rfl execFcBankSwapInstant_moves
  | svFrameReceive _ _ _ _ _ _ => exact .ofRow svFrameReceiveParts rfl rfl rfl execSvFrameReceive_moves
  | svStreamLost _ => exact .ofRow svStreamLostParts rfl rfl rfl execSvStreamLost_moves
  | streamEntryWrite _ => exact .ofRow streamEntryWriteParts rfl rfl rfl execStreamEntryWrite_moves
  | loopSample => exact .ofRowAnyRegs loopSampleParts rfl rfl rfl execLoopSample_moves
  | loopOverrun _ _ => exact .ofRow loopOverrunParts rfl rfl rfl execLoopOverrun_moves
  | leSwapInstant => exact .ofRow autotuneStopParts rfl rfl rfl execLeSwapInstant_moves
  | autotuneTmaxExpiry _ => exact .ofRow autotuneTmaxExpiryParts rfl rfl rfl execAutotuneTmaxExpiry_moves
  | axisSample => exact .ofRowAnyRegs loopSampleParts rfl rfl rfl execAxisSample_moves
  | encoderTransfer _ _ _ _ _ => exact .ofRow encoderTransferParts rfl rfl rfl execEncoderTransfer_moves
  | pwmPeriodStart _ => exact .ofRow pwmPeriodStartParts rfl rfl rfl execPwmPeriodStart_moves
  | loopLaneFailure _ _ => exact .ofRow loopLaneFailureParts rfl rfl rfl execLoopLaneFailure_moves
  | logicCycleSnapshot _ => exact .ofRow logicCycleSnapshotParts rfl rfl rfl execLogicCycleSnapshot_moves
  | logicOutputWrite _ => exact .ofRow logicOutputWriteParts rfl rfl rfl execLogicOutputWrite_moves
  | cycleWatchdogExpiry _ => exact .ofRow cycleWatchdogExpiryParts rfl rfl rfl execCycleWatchdogExpiry_moves
  | eventTaskTrigger _ => exact .ofRow eventTaskTriggerParts rfl rfl rfl execEventTaskTrigger_moves
  | errorTaskRun _ => exact .ofRow errorTaskRunParts rfl rfl rfl execErrorTaskRun_moves
  | logicCoreFailure _ _ => exact .ofRow logicCoreFailureParts rfl rfl rfl execLogicCoreFailure_moves
  | bullpenSwap => exact .ofRow bullpenSwapParts rfl rfl rfl execBullpenSwap_moves
  | bullpenSwWaitExpiry => exact .ofRow bullpenSwWaitExpiryParts rfl rfl rfl execBullpenSwWaitExpiry_moves
  | umpireRound => exact .ofRow umpireRoundParts rfl rfl rfl execUmpireRound_moves
  | scanClassBoundary _ => exact .ofRow scanClassBoundaryParts rfl rfl rfl execScanClassBoundary_moves
  | mirrorRecordReceive _ _ => exact .ofRow scanClassBoundaryParts rfl rfl rfl execMirrorRecordReceive_moves
  | mirrorStale _ => exact .ofRow mirrorStaleParts rfl rfl rfl execMirrorStale_moves
  | ptSubReceive _ _ => exact .ofRow ptSubReceiveParts rfl rfl rfl execPtSubReceive_moves
  | ptReqReceive _ _ => exact .ofRow ptReqReceiveParts rfl rfl rfl execPtReqReceive_moves
  | ptRspReceive _ _ => exact .ofRow ptRspReceiveParts rfl rfl rfl execPtRspReceive_moves
  | remotePointTimeout _ => exact .ofRow ptRspReceiveParts rfl rfl rfl execRemotePointTimeout_moves
  | recipeTick _ => exact .ofRow recipeTickParts rfl rfl rfl execRecipeTick_moves
  | letL1Trigger => exact .ofRow letRequestParts rfl rfl rfl execLetL1Trigger_moves
  | letL2Trigger _ => exact .ofRow letRequestParts rfl rfl rfl execLetL2Trigger_moves
  | letEnd _ _ => exact .ofRow letEndParts rfl rfl rfl execLetEnd_moves
  | letBoundExceeded => exact .ofRow modeRequestParts rfl rfl rfl execLetBoundExceeded_moves
  | storeBlockError _ _ => exact .ofRow storeBlockErrorParts rfl rfl rfl execStoreBlockError_moves
  | powerFailWarning => exact .ofRow powerFailWarningParts rfl rfl rfl execPowerFailWarning_moves
  | slotWriteDone _ _ _ => exact .ofRow slotWriteDoneParts rfl rfl rfl execSlotWriteDone_moves
  | powerReturn => exact .ofRow powerReturnParts rfl rfl rfl execPowerReturn_moves
  | errorHandling => exact .ofRow errorHandlingParts rfl rfl rfl execErrorHandling_moves
  | errorHandlingEnd => exact .ofRow errorHandlingEndParts rfl rfl rfl execErrorHandlingEnd_moves
  | eventRecordWrite _ => exact .ofRow eventRecordWriteParts rfl rfl rfl execEventRecordWrite_moves
  | handoffLost _ => exact .ofRow evRecoverParts rfl rfl rfl execHandoffLost_moves
  | freezeLimitExpiry => exact .ofRow freezeLimitExpiryParts rfl rfl rfl execFreezeLimitExpiry_moves
  | freezeDrain => exact .ofRow evRecoverParts rfl rfl rfl execFreezeDrain_moves
  | archiveLagFreeze => exact .ofRow archiveLagFreezeParts rfl rfl rfl execArchiveLagFreeze_moves
  | lastResortEntry _ _ => exact .ofRow evRecoverParts rfl rfl rfl execLastResortEntry_moves
  | changeIngest => exact .ofRow changeIngestParts rfl rfl rfl execChangeIngest_moves
  | epochBoundary => exact .ofRow epochBoundaryParts rfl rfl rfl execEpochBoundary_moves
  | chGapWrite => exact .ofRow changeIngestParts rfl rfl rfl execChGapWrite_moves
  | archivePageProgram _ _ _ _ => exact .ofRow archivePageProgramParts rfl rfl rfl execArchivePageProgram_moves
  | partialPageExpiry _ _ _ _ => exact .ofRow archivePageProgramParts rfl rfl rfl execPartialPageExpiry_moves
  | readyBusyTimeout _ => exact .ofRow readyBusyTimeoutParts rfl rfl rfl execReadyBusyTimeout_moves
  | drTriggerEvent => exact .ofRow drTriggerEventParts rfl rfl rfl execDrTriggerEvent_moves
  | drRecordComplete => exact .ofRow drRecordCompleteParts rfl rfl rfl execDrRecordComplete_moves
  | diSample _ => exact .ofRow doorbellProdParts rfl rfl rfl execDiSample_moves
  | diStuckExpiry _ => exact .ofRow clrUvParts rfl rfl rfl execDiStuckExpiry_moves
  | doStep _ _ _ => exact .ofRow doorbellProdParts rfl rfl rfl execDoStep_moves
  | overloadSwitchOff _ => exact .ofRow doorbellProdParts rfl rfl rfl execOverloadSwitchOff_moves
  | overloadRetry _ => exact .ofRow clrUvParts rfl rfl rfl execOverloadRetry_moves
  | thermalShutdown _ _ => exact .ofRow doorbellProdParts rfl rfl rfl execThermalShutdown_moves
  | offStateCheck _ _ _ => exact .ofRow doorbellProdParts rfl rfl rfl execOffStateCheck_moves
  | darkTestPulse _ _ => exact .ofRow darkTestPulseParts rfl rfl rfl execDarkTestPulse_moves
  | fieldWatchdogRefresh => exact .ofRow clrUvParts rfl rfl rfl execFieldWatchdogRefresh_moves
  | fieldWatchdogExpiry => exact .ofRow clrUvParts rfl rfl rfl execFieldWatchdogExpiry_moves
  | fldSupplyCrossing _ => exact .ofRow doorbellProdParts rfl rfl rfl execFldSupplyCrossing_moves
  | supplyGoodExpiry => exact .ofRow clrUvParts rfl rfl rfl execSupplyGoodExpiry_moves
  | sfEvaluationCycle => exact .ofRow darkTestPulseParts rfl rfl rfl execSfEvaluationCycle_moves
  | sfHeartbeatLoss => exact .ofRow clrUvParts rfl rfl rfl execSfHeartbeatLoss_moves
  | sfDiagnosticFailure _ => exact .ofRow darkTestPulseParts rfl rfl rfl execSfDiagnosticFailure_moves
  | sfDiscrepancyExpiry _ => exact .ofRow darkTestPulseParts rfl rfl rfl execSfDiscrepancyExpiry_moves
  | sfTestPulse _ => exact .ofRow sfTestPulseParts rfl rfl rfl execSfTestPulse_moves
  | sfTestWindowEnd _ _ => exact .ofRow darkTestPulseParts rfl rfl rfl execSfTestWindowEnd_moves
  | sfReadbackCheck _ => exact .ofRow darkTestPulseParts rfl rfl rfl execSfReadbackCheck_moves
  | sfCrcRecompute => exact .ofRow darkTestPulseParts rfl rfl rfl execSfCrcRecompute_moves
  | laneDetectorChange _ _ _ _ => exact .ofRow laneDetectorChangeParts rfl rfl rfl execLaneDetectorChange_moves
  | trainingStepReached _ _ _ _ => exact .ofRow trainingStepReachedParts rfl rfl rfl execTrainingStepReached_moves
  | trainingStepTimeout _ _ => exact .ofRow laneDetectorChangeParts rfl rfl rfl execTrainingStepTimeout_moves
  | portDown _ => exact .ofRow laneDetectorChangeParts rfl rfl rfl execPortDown_moves
  | renbyFrameReceive _ _ _ => exact .ofRow renbyFrameReceiveParts rfl rfl rfl execRenbyFrameReceive_moves
  | capFrameReceive _ _ => exact .ofRow capFrameReceiveParts rfl rfl rfl execCapFrameReceive_moves
  | authFrameReceive _ _ _ => exact .ofRow authFrameReceiveParts rfl rfl rfl execAuthFrameReceive_moves
  | topoSend => exact .ofRow authFrameReceiveParts rfl rfl rfl execTopoSend_moves
  | deviceUnreachable _ => exact .ofRow deviceUnreachableParts rfl rfl rfl execDeviceUnreachable_moves
  | stationCycleBoundary => exact .ofRow stationCycleBoundaryParts rfl rfl rfl execStationCycleBoundary_moves
  | stInReceive _ _ => exact .ofRow stInReceiveParts rfl rfl rfl execStInReceive_moves
  | stationMiss _ => exact .ofRow stationCycleBoundaryParts rfl rfl rfl execStationMiss_moves
  | stationEnableTimeout _ => exact .ofRow stationEnableTimeoutParts rfl rfl rfl execStationEnableTimeout_moves
  | ethernetFrameReceive _ _ _ _ => exact .ofRow ethernetFrameReceiveParts rfl rfl rfl execEthernetFrameReceive_moves
  | goosePublish => exact .ofRow authFrameReceiveParts rfl rfl rfl execGoosePublish_moves
  | syncSend => exact .ofRow syncSendParts rfl rfl rfl execSyncSend_moves
  | pdelayReqSend => exact .ofRow syncSendParts rfl rfl rfl execPdelayReqSend_moves
  | timeFrameReceive _ _ => exact .ofRow timeFrameReceiveParts rfl rfl rfl execTimeFrameReceive_moves
  | announceSend _ => exact .ofRow timeFrameReceiveParts rfl rfl rfl execAnnounceSend_moves
  | keyTamper _ => exact .ofRow keyTamperParts rfl rfl rfl execKeyTamper_moves
  | d0Restore => exact .ofRow d3hotEntryParts rfl rfl rfl execD0Restore_moves
  | pcieLinkTrained _ => exact .ofRow pcieLinkTrainedParts rfl rfl rfl execPcieLinkTrained_moves
  | protectionMessageRepeat => exact .ofRow protectionMessageRepeatParts rfl rfl rfl execProtectionMessageRepeat_moves
  | originPeriodBoundary _ => exact .ofRow ptSubReceiveParts rfl rfl rfl execOriginPeriodBoundary_moves
  | encoderEdge _ _ _ _ => exact .ofRow encoderTransferParts rfl rfl rfl execEncoderEdge_moves
  | c0LoadWindow _ _ => exact .ofRow c0LoadWindowParts rfl rfl rfl execC0LoadWindow_moves
  | jtagInstruction _ => exact .ofRow jtagInstructionParts rfl rfl rfl execJtagInstruction_moves
  | announceReceiptTimeout _ => exact .ofRow announceReceiptTimeoutParts rfl rfl rfl execAnnounceReceiptTimeout_moves
  | captainRestartDone => exact .ofRow captainRestartDoneParts rfl rfl rfl execCaptainRestartDone_moves

/-- Every command is framed by its row. -/
theorem exec_framed (i : Instr) {s : State} (hi : s.Inv) : ∃ t, exec i s = .next t ∧ Framed i s t := by
  obtain ⟨t, ht, hm⟩ := exec_moves i s
  exact ⟨t, ht, fun p hp hr => hm.keep hi p (commandKinds_outside hp hr)⟩

/-- Settles O7: every command is framed by its row, those of this family among them. -/
theorem powerCommandsChangeOnlyTheirKinds : Obligations.PowerCommandsChangeOnlyTheirKinds :=
  fun i _ _ hi => exec_framed i hi

/-- Settles O8: every command is framed by its row, those of this family among them. -/
theorem hostCommandsChangeOnlyTheirKinds : Obligations.HostCommandsChangeOnlyTheirKinds :=
  fun i _ _ hi => exec_framed i hi

/-- Settles O9: every command is framed by its row, those of this family among them. -/
theorem measurementCommandsChangeOnlyTheirKinds : Obligations.MeasurementCommandsChangeOnlyTheirKinds :=
  fun i _ _ hi => exec_framed i hi

/-- Settles O10: every command is framed by its row, those of this family among them. -/
theorem protectionCommandsChangeOnlyTheirKinds : Obligations.ProtectionCommandsChangeOnlyTheirKinds :=
  fun i _ _ hi => exec_framed i hi

/-- Settles O11: every command is framed by its row, those of this family among them. -/
theorem controlCommandsChangeOnlyTheirKinds : Obligations.ControlCommandsChangeOnlyTheirKinds :=
  fun i _ _ hi => exec_framed i hi

/-- Settles O12: every command is framed by its row, those of this family among them. -/
theorem logicCommandsChangeOnlyTheirKinds : Obligations.LogicCommandsChangeOnlyTheirKinds :=
  fun i _ _ hi => exec_framed i hi

/-- Settles O13: every command is framed by its row, those of this family among them. -/
theorem pointCommandsChangeOnlyTheirKinds : Obligations.PointCommandsChangeOnlyTheirKinds :=
  fun i _ _ hi => exec_framed i hi

/-- Settles O14: every command is framed by its row, those of this family among them. -/
theorem continuityCommandsChangeOnlyTheirKinds : Obligations.ContinuityCommandsChangeOnlyTheirKinds :=
  fun i _ _ hi => exec_framed i hi

/-- Settles O15: every command is framed by its row, those of this family among them. -/
theorem recordingCommandsChangeOnlyTheirKinds : Obligations.RecordingCommandsChangeOnlyTheirKinds :=
  fun i _ _ hi => exec_framed i hi

/-- Settles O16: every command is framed by its row, those of this family among them. -/
theorem fieldCommandsChangeOnlyTheirKinds : Obligations.FieldCommandsChangeOnlyTheirKinds :=
  fun i _ _ hi => exec_framed i hi

/-- Settles O17: every command is framed by its row, those of this family among them. -/
theorem laneCommandsChangeOnlyTheirKinds : Obligations.LaneCommandsChangeOnlyTheirKinds :=
  fun i _ _ hi => exec_framed i hi

/-- Settles O18: every command is framed by its row, those of this family among them. -/
theorem timeCommandsChangeOnlyTheirKinds : Obligations.TimeCommandsChangeOnlyTheirKinds :=
  fun i _ _ hi => exec_framed i hi

/-- Settles O19: every command is framed by its row, those of this family among them. -/
theorem accessCommandsChangeOnlyTheirKinds : Obligations.AccessCommandsChangeOnlyTheirKinds :=
  fun i _ _ hi => exec_framed i hi

end Sys2Proof.Machine
end

