-- ==== Sys2Proof/Proofs/StepInvariant.lean ====
section
/-! What every step keeps: the invariant, the fused identity, and the one-way counters. A step is the command at the front of the
queue, or one fabric cycle. -/

namespace Sys2Proof.Machine

open Sys2Proof

/-- Every step answers a next state; from a good state it is good again, of the same identity, and no fuse is unblown. -/
theorem step_keeps {s : State} (hi : s.Inv) :
    ∃ t, step s = .next t ∧ t.Inv ∧ Part.ident.kept s t ∧
      s.sc.openCnt ≤ t.sc.openCnt ∧ s.sc.provCnt ≤ t.sc.provCnt ∧ s.sc.fwSvn ≤ t.sc.fwSvn := by
  unfold step
  split
  · obtain ⟨hinv, hkept, hfuses⟩ := State.tick_moves (s := s) hi
    exact ⟨_, rfl, hinv, hkept .ident rfl, hfuses⟩
  · next c rest hq =>
    obtain ⟨t, ht, hm⟩ := exec_moves c { s with pending := rest }
    obtain ⟨hinv, hkept, hfuses⟩ := hm hi
    exact ⟨t, ht, hinv, hkept .ident (commandKinds_ident c), hfuses⟩

/-- Settles O5: a step keeps the invariant, whatever stands at the front of the queue. -/
theorem everyStepKeepsInvariant : Obligations.EveryStepKeepsInvariant := by
  intro s hi
  obtain ⟨t, ht, hinv, -⟩ := step_keeps hi
  exact ⟨t, ht, hinv⟩

/-- Settles O6: a step keeps the fused identity, and no one-way counter falls (R523, R531, R534). -/
theorem oneWayCountersNeverFall : Obligations.OneWayCountersNeverFall := by
  intro s t hi ht
  obtain ⟨t', ht', -, ⟨hvar, hserial⟩, hfuses⟩ := step_keeps hi
  cases ht.symm.trans ht'
  exact ⟨hvar.symm, hserial.symm, hfuses⟩

/-- Settles O4: the reset state stores no register word and no record, and counts nothing. -/
theorem resetMeetsInvariant : Obligations.ResetMeetsInvariant := ⟨rfl, rfl, Nat.le_refl _⟩

/-- Settles O1: the definition of a step, at a queue that is not empty. -/
theorem stepRunsFrontCommand : Obligations.StepRunsFrontCommand := by
  intro s c rest hq
  rw [step, hq]

/-! One fabric cycle, with no command waiting (R499). -/

/-- After the clocks, a cycle leaves elapsed time, the time unit and the queue alone. -/
theorem State.tick_afterClocks (s : State) :
    Moves 0x11001000000000000000000000000000000000000000000000000010000030302010056ed7c80 s.clocks s.tick := by
  unfold State.tick
  extract_lets s1 s2 s3
  have h1 : Moves 0x11001000000000000000000000000000000000000000000000000010000030302010056ed7c80 s.clocks s1 :=
    State.sendWaiting_moves.mono rfl |>.trans (State.coresDue_moves.mono rfl) |>.trans (State.tmStep_moves.mono rfl)
      |>.trans (State.scanShow_moves.mono rfl)
  have h2 : Moves 0x11001000000000000000000000000000000000000000000000000010000030302010056ed7c80 s.clocks s2 :=
    Moves.ite h1 (h1.trans (State.drGrid_moves.mono rfl))
  have h3 : Moves 0x11001000000000000000000000000000000000000000000000000010000030302010056ed7c80 s.clocks s3 :=
    Moves.ite (h2.trans (State.busyRoll_moves.mono rfl)) h2
  exact Moves.ite (h3.trans (State.modeBoundary_moves.mono rfl)) h3

theorem State.increment_lt (s : State) : s.increment < 2 ^ 34 := by
  have hns : s.rd TU_ADJ_INC_NS 0 < 2 ^ 2 := natBits_lt _ _ _
  have hfrac : s.rd TU_ADJ_INC_FRAC 0 < 2 ^ 32 := natBits_lt _ _ _
  unfold State.increment
  omega

/-- Without a slew a cycle adds INCREMENT to the counter, kept as seconds, nanoseconds and fraction (R499). -/
theorem TimeUnit.advance_adds {t : TimeUnit} {inc : Nat} (hslew : t.slewing = false) (hinc : inc < 2 ^ 34) (hsec : t.sec + 1 < 2 ^ 48)
    (hns : t.ns < 1000000000) (hfrac : t.frac < 2 ^ 32) :
    ((t.advance inc).sec * 1000000000 + (t.advance inc).ns) * 2 ^ 32 + (t.advance inc).frac
        = (t.sec * 1000000000 + t.ns) * 2 ^ 32 + t.frac + inc ∧ (t.advance inc).ns < 1000000000 := by
  have hshare : t.share = 0 := by simp [TimeUnit.share, hslew]
  have hn : (Int.ofNat (t.ns * 2 ^ 32 + t.frac + inc) + t.share).toNat = t.ns * 2 ^ 32 + t.frac + inc := by
    rw [hshare, Int.add_zero]
    rfl
  simp only [TimeUnit.advance, hn]
  omega

/-- Settles O2: the clocks advance by one cycle, and what else passes in it leaves them and the queue alone (R499). -/
theorem emptyQueueStepIsOneFabricCycle : Obligations.EmptyQueueStepIsOneFabricCycle := by
  intro s hi hq
  have hclocks : s.clocks.Inv := State.clocks_moves.inv hi
  have hmoves := s.tick_afterClocks
  have htu : s.tick.tu = if s.tu.running then s.tu.advance s.increment else s.tu := (hmoves.keep hclocks .tu rfl).symm
  refine ⟨s.tick, by rw [step, hq], (hmoves.keep hclocks .elapsed rfl).symm, (hmoves.keep hclocks .queue rfl).symm.trans hq,
    fun hstill => by rw [htu, hstill]; rfl, fun hruns hslew hsec hns hfrac => ?_⟩
  rw [State.tai, State.tai, State.now, State.now, Stamp.tai, Stamp.tai, htu, if_pos hruns]
  exact TimeUnit.advance_adds hslew s.increment_lt hsec hns hfrac

end Sys2Proof.Machine
end

