-- ==== Sys2Proof/Proofs/ServiceKept.lean ====
section
/-! What notifications, answers and causes of the Scoreboard leave of the service partition: the routes, the ring enables, and the
last error handled (R65, R77, R374). -/

namespace Sys2Proof.Machine

open Sys2Proof

/-- From a good state, routes, ring enables and the last error handled stand as before, and the state is good again. -/
def State.KeepsService (s t : State) : Prop :=
  s.Inv → t.Inv ∧ t.mb.routes = s.mb.routes ∧ (∀ n, t.rd MB_RINGREG_EN n = s.rd MB_RINGREG_EN n) ∧ t.ec.lastCode = s.ec.lastCode

theorem State.KeepsService.refl (s : State) : s.KeepsService s := fun hi => ⟨hi, rfl, fun _ => rfl, rfl⟩

theorem State.KeepsService.trans {a b c : State} (h1 : a.KeepsService b) (h2 : b.KeepsService c) : a.KeepsService c := fun hi => by
  obtain ⟨hib, hroutes, hen, hlast⟩ := h1 hi
  obtain ⟨hic, hroutes', hen', hlast'⟩ := h2 hib
  exact ⟨hic, hroutes'.trans hroutes, fun n => (hen' n).trans (hen n), hlast'.trans hlast⟩

theorem State.KeepsService.foldl {α : Type} {f : State → α → State} (hf : ∀ st a, State.KeepsService st (f st a)) :
    ∀ (l : List α) (s : State), s.KeepsService (l.foldl f s)
  | [], s => .refl s
  | a :: l, s => (hf s a).trans (State.KeepsService.foldl hf l (f s a))

theorem State.KeepsService.ite {s a b : State} {c : Prop} [Decidable c] (ha : s.KeepsService a) (hb : s.KeepsService b) :
    s.KeepsService (if c then a else b) := by
  split
  · exact ha
  · exact hb

/-- A change that names neither the mailbox, nor the error controller, nor BAR0 keeps the service partition. -/
theorem Moves.keepsService {m : Nat} {s t : State} (h : Moves m s t) (hmb : m.testBit 10 = false) (hec : m.testBit 13 = false)
    (hregs : m.testBit (Part.regs MB_RINGREG_EN.unit).bit = false) : s.KeepsService t := fun hi =>
  ⟨h.inv hi, congrArg (·.routes) (h.keep hi .mb hmb).symm, fun n => h.rd hi hregs n, congrArg (·.lastCode) (h.keep hi .ec hec).symm⟩

theorem State.keepsService_withMo (s : State) (mo : Modes) : s.KeepsService { s with mo := mo } :=
  fun hi => ⟨hi, rfl, fun _ => rfl, rfl⟩

theorem State.keepsService_setPhase (s : State) (ring order : Nat) (p : CmdPhase) : s.KeepsService (s.setPhase ring order p) :=
  fun hi => ⟨hi, rfl, fun _ => rfl, rfl⟩

theorem State.keepsService_settle (s : State) (at_ : Option (Nat × Nat)) (st : Status) (r0 r1 : Nat) (t : Option Stamp) :
    s.KeepsService (s.settle at_ st r0 r1 t) := by
  unfold State.settle
  split
  · exact .refl s
  · split
    · split
      · exact .refl s
      · exact s.keepsService_setPhase _ _ _
    · exact .refl s

theorem State.keepsService_raiseVector (s : State) (vec : Nat) : s.KeepsService (s.raiseVector vec) := fun hi =>
  ⟨State.raiseVector_moves.inv hi, congrArg (·.routes) (State.raiseVector_moves.keep hi .mb rfl).symm,
    fun n => State.raiseVector_rd en_offDelivery hi vec n, congrArg (·.lastCode) (State.raiseVector_moves.keep hi .ec rfl).symm⟩

theorem State.deliver_routes {s : State} (hi : s.Inv) (x : Ntf) : (s.deliver x).mb.routes = s.mb.routes := by
  cases hr : s.routeOf x.unit x.code with
  | none => rw [State.deliver_unrouted hr]
  | some r =>
    rw [State.deliver_routed hr]
    split
    · rw [State.ringPush_mb (s := s.numbered r) hi]
      rfl
    · rfl

theorem State.keepsService_deliverOrHold (s : State) (x : Ntf) : s.KeepsService (s.deliverOrHold x) := fun hi => by
  refine ⟨State.deliverOrHold_moves.inv hi, ?_, fun n => State.deliverOrHold_rd en_offDelivery hi x n,
    congrArg (·.lastCode) (State.deliverOrHold_moves.keep hi .ec rfl).symm⟩
  unfold State.deliverOrHold
  split
  · rfl
  · exact State.deliver_routes hi x

theorem State.keepsService_arrive (s : State) (code cls : Nat) : s.KeepsService (s.arrive code cls) :=
  fun hi => ⟨hi, rfl, fun _ => rfl, rfl⟩

theorem State.keepsService_raiseErr (s : State) (code cls : Nat) : s.KeepsService (s.raiseErr code cls) :=
  (State.handOff_moves.keepsService rfl rfl rfl).trans (State.keepsService_arrive _ _ _)

theorem State.keepsService_notifyAt (s : State) (unit code cls : Nat) (t : Stamp) (p0 p1 p2 p3 : Nat) :
    s.KeepsService (s.notifyAt unit code cls t p0 p1 p2 p3) := by
  unfold State.notifyAt
  extract_lets c s1 s2
  have h1 : s.KeepsService s1 := State.handOff_moves.keepsService rfl rfl rfl
  exact (h1.trans (.ite (.refl s1) (s1.keepsService_arrive _ _))).trans (s2.keepsService_deliverOrHold _)

theorem State.keepsService_notify (s : State) (unit code cls p0 p1 p2 p3 : Nat) :
    s.KeepsService (s.notify unit code cls p0 p1 p2 p3) :=
  s.keepsService_notifyAt _ _ _ _ _ _ _ _

theorem State.keepsService_wr (s : State) {f : Field} (hf : f.fits = true) (hg : f.grp % 256 ≠ MB_RINGREG_EN.grp % 256) (i v : Nat) :
    s.KeepsService (s.wr f i v) := fun hi =>
  ⟨State.wr_inv hi f i v, rfl, fun _ => State.rd_wr_ne hi hf v (.inr (.inl hg.symm)), rfl⟩

theorem State.keepsService_sbCause (s : State) (en : Field) (bit : Nat) : s.KeepsService (s.sbCause en bit) := by
  unfold State.sbCause
  extract_lets s1
  have h1 : s.KeepsService s1 := s.keepsService_wr (by decide) (by decide) _ _
  exact .ite (.ite h1 (h1.trans (s1.keepsService_raiseVector _))) (.refl s)

/-! What leaving COMMISSION and a change of mode keep. -/

theorem State.keepsService_tuneAbort (s : State) (n cause : Nat) : s.KeepsService (s.tuneAbort n cause) := by
  unfold State.tuneAbort
  extract_lets x
  split
  · exact .refl s
  · extract_lets s1
    have h1 : Moves 0x100000002000000 s (((s1.wr LE_STAT_STATE n 1).wr LE_TUNE_RES n 2).wr LE_TUNE_CAUSE n cause) :=
      .wr (.wr (.wr (State.setLoop_moves.mono rfl) rfl) rfl) rfl
    exact (h1.keepsService rfl rfl rfl).trans (State.keepsService_notify _ _ _ _ _ _ _ _)

theorem State.keepsService_capEnd (s : State) (n : Nat) (st : Status) (t : Option Stamp) : s.KeepsService (s.capEnd n st t) := by
  unfold State.capEnd
  extract_lets x
  split
  · exact .refl s
  · exact (State.setAxis_moves.keepsService rfl rfl rfl).trans (State.keepsService_settle _ _ _ _ _ _)

theorem State.keepsService_leaveCommission (s : State) : s.KeepsService s.leaveCommission := by
  have hcaptures : s.KeepsService s.capModeEnd := by
    unfold State.capModeEnd
    refine .foldl (fun st e => .ite (.trans (st.keepsService_capEnd e.1 .aborted none) ?_) (.refl st)) _ s
    exact State.keepsService_wr _ (by decide) (by decide) _ _
  have htunes : ∀ x : State, x.KeepsService x.tuneModeEnd := fun x => by
    unfold State.tuneModeEnd
    exact .foldl (fun st _ => .ite (st.keepsService_tuneAbort _ 6) (.refl st)) _ x
  exact (((hcaptures.trans (State.clearForces_moves.keepsService rfl rfl rfl)).trans
    (State.resolveOutputs_moves.keepsService rfl rfl rfl)).trans (State.stopInjections_moves.keepsService rfl rfl rfl)).trans (htunes _)

theorem State.keepsService_setMode (s : State) (m : Mode) (cause : Nat) : s.KeepsService (s.setMode m cause) := by
  have hcoded : s.KeepsService (s.modeCoded m cause) := s.keepsService_withMo _
  have hleft : s.KeepsService
      (if s.inCommission && m != .commission && m != .letMode then (s.modeCoded m cause).leaveCommission else s.modeCoded m cause) :=
    .ite (hcoded.trans (State.keepsService_leaveCommission _)) hcoded
  have hanswered : s.KeepsService (s.modeAnswered m cause) :=
    .ite (hleft.trans (State.keepsService_settle _ _ _ _ _ _)) (hleft.trans (State.keepsService_settle _ _ _ _ _ _))
  have hbound : s.KeepsService ((s.modeAnswered m cause).boundPend m) := by
    unfold State.boundPend
    exact .ite (hanswered.trans (State.keepsService_withMo _ _)) hanswered
  rw [State.setMode_eq]
  exact (hbound.trans (State.keepsService_notify _ _ _ _ _ _ _ _)).trans (State.keepsService_sbCause _ _ _)

end Sys2Proof.Machine
end

