-- ==== Sys2Proof/Proofs/ColdRestart.lean ====
section
/-! COLD_RESTART (R83, R367): the service partition loses its state, and BOOT begins at the firmware step. -/

namespace Sys2Proof.Machine

open Sys2Proof

/-! The service partition loses its state. -/

/-- Every ring is disabled. -/
def State.ringsOff (s : State) : State := (List.range 64).foldl (fun st n => st.wr MB_RINGREG_EN n 0) s

theorem State.ringsOff_moves {s : State} :
    Moves 0x1000000000000000000000000000000000000000000000000000000000000000000000000 s s.ringsOff :=
  .foldl .refl fun _ _ => .wr .refl rfl

theorem State.rd_disabled {s : State} (hi : s.Inv) (k n : Nat) (hn : n < 65536) (hk : k < 65536)
    (h : s.rd MB_RINGREG_EN n = 0 ∨ k = n) : (s.wr MB_RINGREG_EN k 0).rd MB_RINGREG_EN n = 0 := by
  by_cases hkn : k = n
  · rw [hkn]
    exact State.rd_wr_same hi rfl n 0
  · rw [State.rd_wr_ne hi rfl 0 (.inr (.inr (.inl (by omega))))]
    exact h.resolve_right hkn

theorem State.ringsOff_en {s : State} (hi : s.Inv) {n : Nat} (hn : n < 64) : s.ringsOff.rd MB_RINGREG_EN n = 0 := by
  have hall : ∀ (l : List Nat) (st : State), st.Inv → (∀ k ∈ l, k < 64) → (st.rd MB_RINGREG_EN n = 0 ∨ n ∈ l) →
      (l.foldl (fun st k => st.wr MB_RINGREG_EN k 0) st).rd MB_RINGREG_EN n = 0 := by
    intro l
    induction l with
    | nil => exact fun st _ _ h => h.resolve_right List.not_mem_nil
    | cons k l ih =>
      intro st hst hl h
      have hk := hl k List.mem_cons_self
      refine ih _ (State.wr_inv hst _ _ _) (fun j hj => hl j (List.mem_cons_of_mem _ hj)) ?_
      rcases h with h | h
      · exact .inl (State.rd_disabled hst k n (by omega) (by omega) (.inl h))
      · rcases List.mem_cons.1 h with h | h
        · exact .inl (State.rd_disabled hst k n (by omega) (by omega) (.inr h.symm))
        · exact .inr h
  exact hall _ s hi (fun k hk => List.mem_range.1 hk) (.inr (List.mem_range.2 hn))

/-- Of rings and journal nothing is left, and of staged writes, streams and a step of the counter what no command waits for. -/
def State.serviceBared (x : State) : State :=
  { x with
    mb := { Mailbox.init with committed := x.mb.committed, older := x.mb.older }
    staged := x.staged.filter (fun w => w.cmd == none)
    af := { x.af with streams := [] }
    tu := { x.tu with step := match x.tu.step with
      | some r => if r.cmd.isSome then none else some r
      | none => none }
    ec := { x.ec with handling := [], queue := [], ovf := false }
    ar := { x.ar with pageAt := [], retest := [] } }

theorem State.serviceBared_effect (x : State) :
    x.serviceBared.mb.inflight = [] ∧ x.serviceBared.mb.routes = [] ∧ x.serviceBared.regs = x.regs ∧
      x.serviceBared.tu.sec = x.tu.sec ∧ x.serviceBared.tu.ns = x.tu.ns ∧ x.serviceBared.tu.state = x.tu.state :=
  ⟨rfl, rfl, rfl, rfl, rfl, rfl⟩

theorem State.serviceBared_inv {x : State} (hx : x.Inv) : x.serviceBared.Inv := hx

/-- Then the recorders start over. -/
theorem State.serviceLost_records {s : State} :
    Moves 0x400000000000000000000000000000000000000000000000000000040000000000000001c000 s.ringsOff.serviceBared s.serviceLost :=
  ((State.evReset_moves.mono rfl).trans (State.chReset_moves.mono rfl)).trans (State.drReset_moves.mono rfl)

/-- What the loss of the service partition leaves of rings, commands in flight and the time counter. -/
theorem State.serviceLost_effect {s : State} (hi : s.Inv) :
    s.serviceLost.mb.inflight = [] ∧ s.serviceLost.mb.routes = [] ∧ (∀ n, n < 64 → s.serviceLost.rd MB_RINGREG_EN n = 0) ∧
      s.serviceLost.tu.sec = s.tu.sec ∧ s.serviceLost.tu.ns = s.tu.ns ∧ s.serviceLost.tu.state = s.tu.state := by
  have hbare := State.serviceBared_inv (State.ringsOff_moves.inv hi)
  obtain ⟨hflight, hroutes, hregs, hsec, hns, hstate⟩ := s.ringsOff.serviceBared_effect
  have hring : s.ringsOff.tu = s.tu := (State.ringsOff_moves.keep hi .tu rfl).symm
  rw [hring] at hsec hns hstate
  rw [← State.serviceLost_records.keep hbare .mb rfl, ← State.serviceLost_records.keep hbare .tu rfl]
  refine ⟨hflight, hroutes, fun n hn => ?_, hsec, hns, hstate⟩
  rw [State.serviceLost_records.rd hbare rfl]
  exact (State.rd_of_regs hregs).trans (State.ringsOff_en hi hn)

/-! The control partition loses its state: of the registers, status words of its engines. -/

theorem State.KeepsService.foldl_mem {α : Type} {f : State → α → State} : ∀ (l : List α) (s : State),
    (∀ a ∈ l, ∀ st, State.KeepsService st (f st a)) → s.KeepsService (l.foldl f s)
  | [], s, _ => .refl s
  | a :: l, s, hf => (hf a List.mem_cons_self s).trans
      (State.KeepsService.foldl_mem l (f s a) fun b hb => hf b (List.mem_cons_of_mem _ hb))

/-- A status word of the control partition is none of a ring. -/
theorem coldStatus_en {k : Nat} (hk : coldStatus k = true) (n : Nat) :
    regKey MB_RINGREG_EN.unit MB_RINGREG_EN.grp n (MB_RINGREG_EN.wordAt 0) ≠ k := by
  intro h
  have hunit : k / 2 ^ 36 = 0x100 := h ▸ regKey_unit _ _ _ _
  have hsmall : k / 2 ^ 28 < 0x10000 := by
    simp only [coldStatus, Bool.or_eq_true, beq_iff_eq] at hk
    omega
  omega

theorem State.keepsService_coldStatus (s : State) {k : Nat} (hk : coldStatus k = true) (v : W32) :
    s.KeepsService { s with regs := mset regDefault k v s.regs } := fun hi => by
  refine ⟨⟨mset_ok hi.1, hi.2⟩, rfl, fun n => ?_, rfl⟩
  exact congrArg (W32.get · _ _) (mget_mset_ne v (coldStatus_en hk n) s.regs hi.1)

theorem State.keepsService_controlLost (s : State) : s.KeepsService s.controlLost := by
  have hdropped : s.KeepsService s.clearForces.dropCycles.rpCold :=
    ((State.clearForces_moves.keepsService rfl rfl rfl).trans (State.dropCycles_moves.keepsService rfl rfl rfl)).trans
      (State.rpCold_moves.keepsService rfl rfl rfl)
  refine .trans (hdropped.trans ?_) (.foldl_mem _ _ fun e he st => ?_)
  · exact fun hi => ⟨hi, rfl, fun _ => rfl, rfl⟩
  · exact st.keepsService_coldStatus (List.mem_filter.1 he).2 _

/-! Outputs of the field die take their safe values. -/

theorem State.keepsService_withFd (s : State) (fd : FdSt) : s.KeepsService { s with fd := fd } :=
  fun hi => ⟨hi, rfl, fun _ => rfl, rfl⟩

theorem State.keepsService_fdNotify (s : State) (code ch cls p0 p1 : Nat) : s.KeepsService (s.fdNotify code ch cls p0 p1) := by
  unfold State.fdNotify
  refine .ite (.ite ?_ (.trans ?_ (State.keepsService_arrive _ _ _))) (.trans (s.keepsService_withFd _) (State.keepsService_notify _ _ _ _ _ _ _ _))
  all_goals exact (s.keepsService_withFd _).trans (State.handOff_moves.keepsService rfl rfl rfl)

theorem State.keepsService_doFlag (s : State) {f : Field} (hf : f.fits = true) (hg : f.grp % 256 ≠ MB_RINGREG_EN.grp % 256)
    (n bit cls : Nat) : s.KeepsService (s.doFlag f n bit cls) := by
  have hdiag : ∀ x : State, x.KeepsService (x.doDiag n cls) := fun x => x.keepsService_fdNotify _ _ _ _ _
  refine .ite (.refl s) (.trans (.trans (s.keepsService_wr hf hg n 1) ?_) (hdiag _))
  exact State.doSeen_moves.keepsService rfl rfl rfl

theorem State.keepsService_cutSlots : ∀ (fuel : Nat) (s : State), s.KeepsService (s.cutSlots fuel)
  | 0, s => .refl s
  | fuel + 1, s => by
    unfold State.cutSlots
    split
    · exact .refl s
    · refine .ite ((s.keepsService_withFd _).trans (State.stateRec_moves.keepsService rfl rfl rfl)) (.ite (.refl s) ?_)
      refine .trans (.trans (.ite (.trans ?_ (State.keepsService_doFlag _ (by decide) (by decide) _ _ _)) ?_)
        (State.keepsService_withFd _ _)) (State.keepsService_cutSlots fuel _)
      all_goals exact State.setDout_moves.keepsService rfl rfl rfl

theorem State.keepsService_fdDrive (s : State) : s.KeepsService s.fdDrive :=
  (State.keepsService_cutSlots 34 s).trans
    (.foldl (fun _ _ => State.doDrive_moves.keepsService rfl rfl rfl) _ _)

/-! The restart. -/

/-- Both partitions have lost their state, and the modes stand at the firmware step of BOOT. -/
def State.coldBooting (s : State) : State :=
  let lost := s.serviceLost.controlLost
  State.scBoot { lost with mo := { lost.mo with
    captain := false, boot := .firmware, bootstat := 0, coldBoot := s.mo.coldBoot || s.mo.boot == .done, bootFail := false
    bootCode := 0, sdram := none, control := false, controlLoaded := false, firstWrite := false, letClass := 0, letOwed := 0
    letResumed := false } }

/-- Then the mode code changes, and the field watchdog stands unarmed. -/
def State.coldCoded (s : State) : State :=
  { s.coldBooting.setMode .boot 3 with fd := { (s.coldBooting.setMode .boot 3).fd with wdArmed := false } }

theorem State.coldRestart_eq (s : State) : s.coldRestart = s.coldCoded.fdDrive.peResetAll := rfl

theorem State.coldBooting_inv {s : State} (hi : s.Inv) : s.coldBooting.Inv :=
  State.controlLost_moves.inv (State.serviceLost_moves.inv hi)

/-- After the modes are set the restart drives outputs and resets the elements. -/
theorem State.coldRestart_drives {s : State} :
    Moves 0x1000000000000000000000000000000000000000000000000010000000000000004106c00 s.coldCoded s.coldRestart := by
  rw [State.coldRestart_eq]
  exact (State.fdDrive_moves.mono rfl).trans (State.peResetAll_moves.mono rfl)

theorem State.coldRestart_mo {s : State} (hi : s.Inv) :
    s.coldRestart.mo.mode = .boot ∧ s.coldRestart.mo.cause = 3 ∧ s.coldRestart.mo.boot = .firmware ∧ s.coldRestart.mo.captain = false := by
  have hcoded : s.coldCoded.Inv := State.setMode_moves.inv (State.coldBooting_inv hi)
  have hmo : s.coldRestart.mo = (s.coldBooting.setMode .boot 3).mo := (State.coldRestart_drives.keep hcoded .mo rfl).symm
  rw [hmo, State.setMode_mo (State.coldBooting_inv hi)]
  exact ⟨rfl, rfl, rfl, rfl⟩

/-- No command is in flight, no route stands, and no ring is enabled (R83). -/
theorem State.coldRestart_mb {s : State} (hi : s.Inv) :
    s.coldRestart.mb.inflight = [] ∧ s.coldRestart.mb.routes = [] ∧ ∀ n, n < 64 → s.coldRestart.flag MB_RINGREG_EN n = false := by
  obtain ⟨hflight, hroutes, hen, -⟩ := State.serviceLost_effect hi
  have hlost : s.serviceLost.Inv := State.serviceLost_moves.inv hi
  have hbooting : s.serviceLost.KeepsService s.coldBooting :=
    (State.keepsService_controlLost _).trans fun hx => ⟨hx, rfl, fun _ => rfl, rfl⟩
  have hcoded : s.coldBooting.KeepsService s.coldCoded :=
    (State.keepsService_setMode _ _ _).trans fun hx => ⟨hx, rfl, fun _ => rfl, rfl⟩
  have hdriven : s.coldCoded.KeepsService s.coldRestart :=
    (State.keepsService_fdDrive _).trans (State.peResetAll_moves.keepsService rfl rfl rfl)
  obtain ⟨-, hroutes', hen', -⟩ := ((hbooting.trans hcoded).trans hdriven) hlost
  refine ⟨?_, hroutes'.trans hroutes, fun n hn => ?_⟩
  · have hsame : s.coldRestart.mb.inflight.map Cmd.bare = [] := by
      rw [← State.coldRestart_drives.keep (State.setMode_moves.inv (State.coldBooting_inv hi)) .flight rfl]
      show (s.coldBooting.setMode .boot 3).mb.inflight.map Cmd.bare = []
      rw [← State.setMode_moves.keep (State.coldBooting_inv hi) .flight rfl]
      show s.serviceLost.controlLost.mb.inflight.map Cmd.bare = []
      rw [← State.controlLost_moves.keep hlost .flight rfl, hflight]
      rfl
    exact List.map_eq_nil_iff.1 hsame
  · rw [State.flag, hen' n, hen n hn]
    rfl

/-- The time counter runs on (R367). -/
theorem State.coldRestart_tu {s : State} (hi : s.Inv) :
    s.coldRestart.tu.sec = s.tu.sec ∧ s.coldRestart.tu.ns = s.tu.ns ∧ s.coldRestart.tu.state = s.tu.state := by
  obtain ⟨-, -, -, htime⟩ := State.serviceLost_effect hi
  have htu : s.coldRestart.tu = s.serviceLost.tu := by
    rw [← State.coldRestart_drives.keep (State.setMode_moves.inv (State.coldBooting_inv hi)) .tu rfl]
    show (s.coldBooting.setMode .boot 3).tu = _
    rw [← State.setMode_moves.keep (State.coldBooting_inv hi) .tu rfl]
    exact (State.controlLost_moves.keep (State.serviceLost_moves.inv hi) .tu rfl).symm
  rw [htu]
  exact htime

theorem exec_coldRestart_goes {s : State} {ring idx : Nat} {c : Cmd} (hr : s.Ready ring idx c) (hp : c.Plain opColdRestart 0)
    (hobj : c.objid = 0x28000000) (ha : s.authorized c = true) (hm : s.inMode modesAll = true) (hb : c.busy = false)
    (ht : s.inTransition = false) : exec (.coldRestart ring idx) s = .next s.coldRestart := by
  show execColdRestart ring idx s = _
  have hv : s.verdict c
      { form := !c.buf
        bad := if c.objid != 0x28000000 then some (c.objid, 0) else none
        auth := true
        modes := s.inMode modesAll
        own := if c.busy || s.inTransition then some (.busyRetry, 0, 0) else none } = none := by
    rw [State.verdict_own hr hp (by simp [hp.buf]) rfl (by simp [hobj]) (fun _ => ha) hm]
    simp [hb, ht]
  exact hr.runCmd hp.isOp hv

end Sys2Proof.Machine
end

