-- ==== Sys2Proof/Proofs/LetTriggers.lean ====
section
/-! The triggers of a Let (R368, R369, R370) and LET_REQUEST: the mode, the class and the Captain of the Let that begins. -/

namespace Sys2Proof.Machine

open Sys2Proof

/-! What a change that names neither outcomes nor errors leaves. -/

/-- A command that is decided stays so. -/
theorem Moves.outcome {m : Nat} {s t : State} (h : Moves m s t) (hi : s.Inv) (hm : m.testBit 306 = false) {c : Cmd} {st : Status}
    {r0 r1 r2 r3 : Nat} {time : Option Stamp} (ho : s.Outcome c st r0 r1 r2 r3 time) : t.Outcome c st r0 r1 r2 r3 time :=
  h.keep hi .outcomes hm _ ho rfl

/-- An error that arrived still waits. -/
theorem Moves.arrived {m : Nat} {s t : State} (h : Moves m s t) (hi : s.Inv) (hm : m.testBit 303 = false) {e : ErrRec}
    (he : e ∈ s.ec.arrivals) : e ∈ t.ec.arrivals :=
  (h.keep hi .errors hm).mem he

/-! The trigger. -/

/-- Before the mode changes, partial archive pages go out, the ring freezes, and the record of the Let is handed over (R370). -/
def State.letNoted (s : State) (cls : Nat) : State :=
  s.arPartial.evLetBegin.handOff 0x02 ⟨0x0203, 0, s.now, cls, 0, 0, true⟩

theorem State.letNoted_moves {s : State} {cls : Nat} :
    Moves 0x100000000000000000000000000000000000000000000000000080000000000000003ed00 s (s.letNoted cls) :=
  (State.arPartial_moves.trans (State.evLetBegin_moves.mono rfl)).trans (State.handOff_moves.mono rfl)

/-- The mode reads LET, and the Captain is held in reset. -/
def State.letHeld (s : State) (cls : Nat) : State :=
  let coded := (s.letNoted cls).setMode .letMode 7
  State.wrapInc { coded with mo := { coded.mo with
    letClass := cls, letStart := s.now, letFrom := s.mo.mode, letAt := s.elapsed, captain := false } }
    CS_STAT_LETS 0 1

/-- The mode a Let is taken from, its class and the Captain, as a Let that stands in LET shows them. -/
def State.LetStands (t : State) (cls : Nat) (fromMode : Mode) : Prop :=
  t.mo.mode = .letMode ∧ t.mo.cause = 7 ∧ t.mo.letClass = cls ∧ t.mo.letFrom = fromMode ∧ t.mo.captain = false

/-- What a Let L2 adds gives up a switch, open cycles and the recipe tick; of the modes only the class and its time change. -/
theorem State.letTwo_mo {s : State} (hi : s.Inv) :
    s.letTwo.mo.letClass = 2 ∧ s.letTwo.mo.mode = s.mo.mode ∧ s.letTwo.mo.cause = s.mo.cause ∧ s.letTwo.mo.letFrom = s.mo.letFrom ∧
      s.letTwo.mo.captain = s.mo.captain := by
  have hgiven : Moves 0x10001000000000000000000000000000000000000000000000000000000010000000011006c00 s
      (s.lgCancel 3).dropCycles.rpDiscard :=
    ((State.lgCancel_moves.mono rfl).trans (State.dropCycles_moves.mono rfl)).trans (State.rpDiscard_moves.mono rfl)
  have hmo : (s.lgCancel 3).dropCycles.rpDiscard.mo = s.mo := (hgiven.keep hi .mo rfl).symm
  exact ⟨rfl, congrArg (·.mode) hmo, congrArg (·.cause) hmo, congrArg (·.letFrom) hmo, congrArg (·.captain) hmo⟩

theorem State.letTrigger_eq (s : State) (cls : Nat) :
    s.letTrigger cls = if cls = 2 then (s.letHeld cls).letTwo else s.letHeld cls := by
  rfl

theorem State.letHeld_stands {s : State} (hi : s.Inv) (cls : Nat) : (s.letHeld cls).LetStands cls s.mo.mode := by
  have hmo := State.setMode_mo ((State.letNoted_moves (cls := cls)).inv hi) .letMode 7
  exact ⟨congrArg (·.mode) hmo, congrArg (·.cause) hmo, rfl, rfl, rfl⟩

/-- A trigger of either class leads to LET with cause 0x07, the Captain held (R368, R369). -/
theorem State.letTrigger_stands {s : State} (hi : s.Inv) (cls : Nat) : (s.letTrigger cls).LetStands cls s.mo.mode := by
  have hheld := s.letHeld_stands hi cls
  rw [State.letTrigger_eq]
  split
  · next htwo =>
    obtain ⟨hmode, hcause, -, hfrom, hcaptain⟩ := hheld
    have hcoded : (s.letHeld cls).Inv := State.wr_inv (State.setMode_moves.inv (State.letNoted_moves.inv hi)) _ _ _
    obtain ⟨hclass, hmode', hcause', hfrom', hcaptain'⟩ := State.letTwo_mo hcoded
    exact ⟨hmode'.trans hmode, hcause'.trans hcause, hclass.trans htwo.symm, hfrom'.trans hfrom, hcaptain'.trans hcaptain⟩
  · exact hheld

/-! LET_REQUEST (R368). -/

theorem exec_letRequest_goes {s : State} {ring idx : Nat} {c : Cmd} (hr : s.Ready ring idx c) (hp : c.Plain opLetRequest 4)
    (hobj : c.objid = 0x28000000) (hclass : (c.par 0).toNat = 1 ∨ (c.par 0).toNat = 2) (ha : s.authorized c = true)
    (hm : s.inMode modesCr = true) (hb : c.busy = false) (ht : s.inTransition = false) :
    exec (.letRequest ring idx) s = .next ((s.done c 0 0 0 0).letTrigger (c.par 0).toNat) := by
  show execLetRequest ring idx s = _
  have hv : s.verdict c
      { form := c.inline 4
        bad := if c.objid != 0x28000000 || !((c.par 0).toNat == 1 || (c.par 0).toNat == 2) then some (c.objid, 0) else none
        auth := true
        modes := s.inMode modesCr
        own := if c.busy || s.inTransition then some (.busyRetry, 0, 0) else none } = none := by
    rw [State.verdict_own hr hp hp.inline rfl (by rcases hclass with h | h <;> simp [hobj, h]) (fun _ => ha) hm]
    simp [hb, ht]
  exact hr.runCmd hp.isOp hv

theorem State.inMode_modesCr {s : State} (hm : s.mo.mode = .run ∨ s.mo.mode = .commission) : s.inMode modesCr = true := by
  rcases hm with hm | hm <;> simp [State.inMode, State.cmdMode, modesCr, hm]

/-- Settles O34: COLD_RESTART is an equation for the next state, whose rings, routes, modes and time counter are read off; the
trigger of LET_REQUEST leads to LET and leaves the command's outcome (R367, R368). -/
theorem restartCommandsEnterBootOrLet : Obligations.RestartCommandsEnterBootOrLet := by
  unfold Obligations.RestartCommandsEnterBootOrLet
  refine ⟨?coldRestart, ?letRequest⟩
  case coldRestart =>
    intro s ring idx c hi hr hp hobj ha hm hb ht
    obtain ⟨hmode, hcause, hboot, hcaptain⟩ := State.coldRestart_mo hi
    obtain ⟨hflight, hroutes, hrings⟩ := State.coldRestart_mb hi
    exact ⟨_, exec_coldRestart_goes hr hp hobj ha hm hb ht, hmode, hcause, hboot, hcaptain, hflight, hroutes, hrings,
      State.coldRestart_tu hi⟩
  case letRequest =>
    intro s ring idx c hi hr hp hobj hclass ha hm hb ht
    obtain ⟨hmode, hcause, hcls, hfrom, hcaptain⟩ := State.letTrigger_stands (s := s.done c 0 0 0 0) hi (c.par 0).toNat
    have hdone : (s.done c 0 0 0 0).Inv := hi
    exact ⟨_, exec_letRequest_goes hr hp hobj hclass ha (State.inMode_modesCr hm) hb ht, hmode, hcause, hcls, hfrom, hcaptain,
      State.letTrigger_moves.outcome hdone rfl (State.done_outcome hr.mem hr.undecided 0 0 0 0)⟩

end Sys2Proof.Machine
end

