-- ==== Sys2Proof/Proofs/SdramCode.lean ====
section
/-! The code of the SDRAM port (R549): its two syndromes are linear in the symbols, so that a changed symbol shows as itself and as
its product with a power of α, which names its place. -/

namespace Sys2Proof.Machine

open Sys2Proof

/-! The syndromes are linear. -/

theorem Sym.dbl_xor (a b : Sym) : (a ^^^ b).dbl = a.dbl ^^^ b.dbl := by
  have hcarry : (if (a ^^^ b).getLsbD 7 then 0x1D#8 else 0#8) =
      (if a.getLsbD 7 then 0x1D#8 else 0#8) ^^^ (if b.getLsbD 7 then 0x1D#8 else 0#8) := by
    rw [BitVec.getLsbD_xor]
    cases a.getLsbD 7 <;> cases b.getLsbD 7 <;> rfl
  unfold Sym.dbl
  rw [BitVec.shiftLeft_xor_distrib, hcarry]
  ac_rfl

theorem atOne_xor : ∀ (l m : List Sym), l.length = m.length → atOne (l.zipWith (· ^^^ ·) m) = atOne l ^^^ atOne m
  | [], [], _ => by simp [atOne]
  | a :: l, b :: m, h => by
    rw [List.zipWith_cons_cons, atOne, atOne, atOne, atOne_xor l m (Nat.succ.inj h)]
    ac_rfl

theorem atAlpha_xor : ∀ (l m : List Sym), l.length = m.length → atAlpha (l.zipWith (· ^^^ ·) m) = atAlpha l ^^^ atAlpha m
  | [], [], _ => by simp [atAlpha]
  | a :: l, b :: m, h => by
    rw [List.zipWith_cons_cons, atAlpha, atAlpha, atAlpha, atAlpha_xor l m (Nat.succ.inj h), Sym.dbl_xor]
    ac_rfl

/-! Errors of one symbol, as beats: of a byte lane, and of an address symbol. -/

/-- A symbol alone on a byte lane. -/
def laneError (lane : Nat) (e : Sym) : BitVec 80 := e.zeroExtend 80 <<< (8 * lane)

/-- The codeword that is zero but for a symbol in one place. -/
def placeError (j : Nat) (e : Sym) : List Sym := (List.replicate 14 0#8).set j e

/-- The place in c(x) of a byte lane. -/
def placeOf (lane : Nat) : Nat := if lane < 8 then lane + 2 else lane - 8

theorem laneOf_placeOf {lane : Nat} (h : lane < 10) : laneOf (placeOf lane) = lane ∧ placeOf lane ≤ 9 := by
  unfold laneOf placeOf
  split_ifs <;> omega

theorem beatCode_length (b : SdBeat) : (beatCode b).length = 14 := by simp [beatCode, addrSyms]

theorem laneSym_xor (v w : BitVec 80) (lane : Nat) : laneSym (v ^^^ w) lane = laneSym v lane ^^^ laneSym w lane :=
  BitVec.extractLsb'_xor

theorem laneSym_laneError (lane k : Nat) (e : Sym) (hk : k < 10) : laneSym (laneError lane e) k = if k = lane then e else 0#8 := by
  unfold laneSym laneError
  ext i hi
  simp only [BitVec.getElem_extractLsb', BitVec.getLsbD_shiftLeft, BitVec.truncate_eq_setWidth, BitVec.getLsbD_setWidth]
  have hin : decide (8 * k + i < 80) = true := by simp; omega
  split
  · next h =>
    subst h
    simp [hin, show ¬8 * k + i < 8 * k by omega, show 8 * k + i - 8 * k = i by omega, hi, show i < 80 by omega]
  · next h =>
    have hout : 8 * k + i < 8 * lane ∨ 8 ≤ 8 * k + i - 8 * lane := by omega
    rcases hout with hout | hout
    · simp [hout]
    · simp [BitVec.getLsbD_of_ge e _ hout]

/-- A symbol changed on a byte lane changes its place in c(x). -/
theorem beatCode_laneError (addr : Nat) (w : BitVec 80) {lane : Nat} (hlane : lane < 10) (e : Sym) :
    beatCode ⟨addr, w ^^^ laneError lane e⟩ = (beatCode ⟨addr, w⟩).zipWith (· ^^^ ·) (placeError (placeOf lane) e) := by
  have hl : ∀ k, k < 10 → laneSym (w ^^^ laneError lane e) k = laneSym w k ^^^ if k = lane then e else 0#8 := fun k hk => by
    rw [laneSym_xor, laneSym_laneError lane k e hk]
  simp only [beatCode, addrSyms, List.range, List.range.loop, List.map, hl 0 (by decide), hl 1 (by decide), hl 2 (by decide),
    hl 3 (by decide), hl 4 (by decide), hl 5 (by decide), hl 6 (by decide), hl 7 (by decide), hl 8 (by decide), hl 9 (by decide)]
  interval_cases lane <;> simp [placeError, placeOf, List.replicate]

theorem placeError_length (j : Nat) (e : Sym) : (placeError j e).length = 14 := by simp [placeError]

/-- A single symbol shows as itself at 1. -/
theorem atOne_placeError {j : Nat} (hj : j < 14) (e : Sym) : atOne (placeError j e) = e := by
  interval_cases j <;> simp [placeError, atOne, List.replicate]

/-- At α it shows times a power of α that names its place: of the 14 powers none repeats. -/
theorem atAlpha_placeError : ∀ j : Fin 14, ∀ e : Fin 256, e ≠ 0 →
    atAlpha (placeError j (BitVec.ofFin e)) ≠ 0#8 ∧
      logAlpha (BitVec.ofFin e) (atAlpha (placeError j (BitVec.ofFin e))) 0 14 = some j.val := by
  decide +kernel

theorem logAlpha_placeError {j : Nat} (hj : j < 14) {e : Sym} (he : e ≠ 0#8) :
    atAlpha (placeError j e) ≠ 0#8 ∧ logAlpha e (atAlpha (placeError j e)) 0 14 = some j :=
  atAlpha_placeError ⟨j, hj⟩ e.toFin fun h => he (BitVec.toFin_inj.1 h)

/-! What a write stores reads good. -/

/-- c(1) = 0 and c(α) = 0. -/
def Codeword (b : SdBeat) : Prop := atOne (beatCode b) = 0#8 ∧ atAlpha (beatCode b) = 0#8

/-- The factor that a write divides by is 1 + α. -/
theorem mul_invThree : ∀ x : Fin 256, Sym.mul (BitVec.ofFin x) invThree ^^^ (Sym.mul (BitVec.ofFin x) invThree).dbl = BitVec.ofFin x := by
  decide +kernel

theorem sdWrite_syms (data : BitVec 64) (p0 p1 : Sym) :
    data.zeroExtend 80 ||| (p0.zeroExtend 80 <<< 64) ||| (p1.zeroExtend 80 <<< 72) =
      data.zeroExtend 80 ^^^ laneError 8 p0 ^^^ laneError 9 p1 := by
  unfold laneError
  ext i hi
  simp only [BitVec.getElem_or, BitVec.getElem_xor, BitVec.getElem_shiftLeft, BitVec.truncate_eq_setWidth, BitVec.getElem_setWidth]
  rcases Nat.lt_or_ge i 64 with h | h
  · simp [h, show i < 72 by omega]
  · rcases Nat.lt_or_ge i 72 with h' | h'
    · simp [h', BitVec.getLsbD_of_ge data i h]
    · simp [BitVec.getLsbD_of_ge data i h, BitVec.getLsbD_of_ge p0 (i - 64) (by omega)]

/-- The two syndromes after a change of one byte lane. -/
theorem syndromes_laneError (addr : Nat) (w : BitVec 80) {lane : Nat} (hlane : lane < 10) (e : Sym) :
    atOne (beatCode ⟨addr, w ^^^ laneError lane e⟩) = atOne (beatCode ⟨addr, w⟩) ^^^ e ∧
      atAlpha (beatCode ⟨addr, w ^^^ laneError lane e⟩) =
        atAlpha (beatCode ⟨addr, w⟩) ^^^ atAlpha (placeError (placeOf lane) e) := by
  have hlen : (beatCode ⟨addr, w⟩).length = (placeError (placeOf lane) e).length := by rw [beatCode_length, placeError_length]
  have hplace : placeOf lane < 14 := by have := (laneOf_placeOf hlane).2; omega
  rw [beatCode_laneError addr w hlane e]
  exact ⟨by rw [atOne_xor _ _ hlen, atOne_placeError hplace], atAlpha_xor _ _ hlen⟩

theorem atAlpha_check (p0 p1 : Sym) : atAlpha (placeError (placeOf 8) p0) = p0 ∧ atAlpha (placeError (placeOf 9) p1) = p1.dbl := by
  have hzero : Sym.dbl 0#8 = 0#8 := by decide
  constructor <;> simp [placeError, placeOf, atAlpha, List.replicate, hzero]

theorem sdWrite_codeword (addr : Nat) (data : BitVec 64) : Codeword (sdWrite addr data) := by
  let s0 := atOne (beatCode ⟨addr, data.zeroExtend 80⟩)
  let s1 := atAlpha (beatCode ⟨addr, data.zeroExtend 80⟩)
  let p1 := Sym.mul (s0 ^^^ s1) invThree
  have hp : p1 ^^^ p1.dbl = s0 ^^^ s1 := mul_invThree (s0 ^^^ s1).toFin
  have hwrite : sdWrite addr data = ⟨addr, data.zeroExtend 80 ^^^ laneError 8 (s0 ^^^ p1) ^^^ laneError 9 p1⟩ :=
    congrArg (SdBeat.mk addr) (sdWrite_syms data _ _)
  obtain ⟨hone8, halpha8⟩ := syndromes_laneError addr (data.zeroExtend 80) (show 8 < 10 by decide) (s0 ^^^ p1)
  obtain ⟨hone9, halpha9⟩ :=
    syndromes_laneError addr (data.zeroExtend 80 ^^^ laneError 8 (s0 ^^^ p1)) (show 9 < 10 by decide) p1
  have hone : s0 ^^^ (s0 ^^^ p1) ^^^ p1 = 0#8 := by rw [← BitVec.xor_assoc, BitVec.xor_self]; simp
  have halpha : s1 ^^^ (s0 ^^^ p1) ^^^ p1.dbl = 0#8 := by
    calc s1 ^^^ (s0 ^^^ p1) ^^^ p1.dbl = (s0 ^^^ s1) ^^^ (p1 ^^^ p1.dbl) := by ac_rfl
      _ = 0#8 := by rw [hp, BitVec.xor_self]
  rw [hwrite]
  refine ⟨?_, ?_⟩
  · rw [hone9, hone8]
    exact hone
  · rw [halpha9, halpha8, (atAlpha_check (s0 ^^^ p1) p1).1, (atAlpha_check (s0 ^^^ p1) p1).2]
    exact halpha

theorem sdRead_codeword {b : SdBeat} (h : Codeword b) : sdRead b = .good := if_pos h

/-! What a read finds. -/

/-- A beat whose syndromes are those of one changed symbol names its place. -/
theorem sdRead_place {b : SdBeat} {j : Nat} (hj : j < 14) {e : Sym} (he : e ≠ 0#8) (hone : atOne (beatCode b) = e)
    (halpha : atAlpha (beatCode b) = atAlpha (placeError j e)) :
    sdRead b = if j ≤ 9 then .corrected j (b.syms ^^^ laneError (laneOf j) e) else .uncorrectable true := by
  obtain ⟨hne, hlog⟩ := logAlpha_placeError hj he
  unfold sdRead
  simp only [hone, halpha]
  rw [if_neg (fun h => he h.1), if_pos ⟨he, hne⟩, hlog]
  rfl

/-- One wrong symbol on a byte lane is mended. -/
theorem sdRead_laneError {addr : Nat} {w : BitVec 80} (hw : Codeword ⟨addr, w⟩) {lane : Nat} (hlane : lane < 10) {e : Sym} (he : e ≠ 0#8) :
    sdRead ⟨addr, w ^^^ laneError lane e⟩ = .corrected (placeOf lane) w := by
  obtain ⟨hone, halpha⟩ := syndromes_laneError addr w hlane e
  obtain ⟨hback, hplace⟩ := laneOf_placeOf hlane
  rw [hw.1, BitVec.zero_xor] at hone
  rw [hw.2, BitVec.zero_xor] at halpha
  rw [sdRead_place (by omega) he hone halpha, if_pos hplace, hback]
  simp

/-- A beat read under an address that differs in one symbol has one wrong symbol past the byte lanes. -/
theorem beatCode_addrError {addr other k : Nat} (w : BitVec 80) (hk : k < 4)
    (hsame : ∀ m, m < 4 → m ≠ k → (addrSyms addr).getD m 0 = (addrSyms other).getD m 0) :
    beatCode ⟨other, w⟩ = (beatCode ⟨addr, w⟩).zipWith (· ^^^ ·)
      (placeError (10 + k) ((addrSyms addr).getD k 0 ^^^ (addrSyms other).getD k 0)) := by
  have hback : ∀ a b : Sym, a ^^^ (a ^^^ b) = b := fun a b => by rw [← BitVec.xor_assoc, BitVec.xor_self, BitVec.zero_xor]
  obtain ⟨a0, a1, a2, a3, ha⟩ : ∃ a0 a1 a2 a3, addrSyms addr = [a0, a1, a2, a3] := ⟨_, _, _, _, rfl⟩
  obtain ⟨b0, b1, b2, b3, hb⟩ : ∃ b0 b1 b2 b3, addrSyms other = [b0, b1, b2, b3] := ⟨_, _, _, _, rfl⟩
  rw [ha, hb] at hsame
  have h0 : 0 ≠ k → b0 = a0 := fun h => (hsame 0 (by decide) h).symm
  have h1 : 1 ≠ k → b1 = a1 := fun h => (hsame 1 (by decide) h).symm
  have h2 : 2 ≠ k → b2 = a2 := fun h => (hsame 2 (by decide) h).symm
  have h3 : 3 ≠ k → b3 = a3 := fun h => (hsame 3 (by decide) h).symm
  simp only [beatCode, ha, hb]
  interval_cases k <;>
    simp_all [placeError, List.range, List.range.loop, List.replicate]

/-- One wrong address symbol is an address error. -/
theorem sdRead_addrError {addr other k : Nat} {w : BitVec 80} (hw : Codeword ⟨addr, w⟩) (hk : k < 4)
    (hne : (addrSyms addr).getD k 0 ≠ (addrSyms other).getD k 0)
    (hsame : ∀ m, m < 4 → m ≠ k → (addrSyms addr).getD m 0 = (addrSyms other).getD m 0) :
    sdRead ⟨other, w⟩ = .uncorrectable true := by
  have he : (addrSyms addr).getD k 0 ^^^ (addrSyms other).getD k 0 ≠ 0#8 := fun h => hne (BitVec.xor_eq_zero_iff.1 h)
  have hcode := beatCode_addrError w hk hsame
  have hlen : (beatCode ⟨addr, w⟩).length = (placeError (10 + k) ((addrSyms addr).getD k 0 ^^^ (addrSyms other).getD k 0)).length := by
    rw [beatCode_length, placeError_length]
  have hone := congrArg atOne hcode
  rw [atOne_xor _ _ hlen, hw.1, BitVec.zero_xor, atOne_placeError (by omega)] at hone
  have halpha := congrArg atAlpha hcode
  rw [atAlpha_xor _ _ hlen, hw.2, BitVec.zero_xor] at halpha
  rw [sdRead_place (by omega) he hone halpha, if_neg (by omega)]

end Sys2Proof.Machine
end

