-- ==== Sys2Proof/Proofs/LetEnds.lean ====
section
/-! How Lets begin, escalate and end (R31, R57, R82, R368 to R372), and blocks of the store that fail (R357). -/

namespace Sys2Proof.Machine

open Sys2Proof

/-! What a change that does not name the modes, the store or the errors leaves of them. -/

theorem Moves.mo_kept {m : Nat} {s t : State} (h : Moves m s t) (hi : s.Inv) (hm : m.testBit Part.mo.bit = false) : t.mo = s.mo :=
  (h.keep hi .mo hm).symm

theorem Moves.cs_kept {m : Nat} {s t : State} (h : Moves m s t) (hi : s.Inv) (hm : m.testBit Part.cs.bit = false) : t.cs = s.cs :=
  (h.keep hi .cs hm).symm

theorem Moves.ec_kept {m : Nat} {s t : State} (h : Moves m s t) (hi : s.Inv) (hm : m.testBit Part.ec.bit = false) : t.ec = s.ec :=
  (h.keep hi .ec hm).symm

/-- A notification of an error class raises its error. -/
theorem State.notify_mem_arrivals {s : State} (hi : s.Inv) {unit code cls : Nat} (hcls : cls ≠ 0) (p0 p1 p2 p3 : Nat) :
    ⟨unit * 256 + code, cls⟩ ∈ (s.notify unit code cls p0 p1 p2 p3).ec.arrivals :=
  State.notifyAt_mem_arrivals hi hcls _ _ _ _ _

/-! Triggers (R368, R369), and a Let L1 that becomes a Let L2. -/

theorem State.letFromHere_of {s : State} (hm : s.mo.mode = .run ∨ s.mo.mode = .commission) : s.letFromHere = true := by
  rcases hm with hm | hm <;> simp [State.letFromHere, hm]

theorem exec_letL1Trigger_triggers {s : State} (hm : s.mo.mode = .run ∨ s.mo.mode = .commission) :
    exec .letL1Trigger s = .next (s.letTrigger 1) :=
  if_pos (State.letFromHere_of hm)

theorem exec_letL2Trigger_triggers {s : State} (hm : s.mo.mode = .run ∨ s.mo.mode = .commission) {k : Nat} (hk : k = 0x80 ∨ k = 0x81)
    (ho : s.umOn = true) : exec (.letL2Trigger k) s = .next ((s.raiseErr (0x2000 + k) 3).letTrigger 2) := by
  show execLetL2Trigger k s = _
  have hgo : (!(k == 0x80 || k == 0x81) || !s.umOn) = false := by rcases hk with hk | hk <;> simp [hk, ho]
  rw [execLetL2Trigger, if_neg (by rw [hgo]; decide), if_pos (State.letFromHere_of hm)]

theorem exec_letL2Trigger_escalates {s : State} (hm : s.mo.mode = .letMode) (hc : s.mo.letClass = 1) {k : Nat}
    (hk : k = 0x80 ∨ k = 0x81) (ho : s.umOn = true) : exec (.letL2Trigger k) s = .next (s.raiseErr (0x2000 + k) 3).letTwo := by
  show execLetL2Trigger k s = _
  have hgo : (!(k == 0x80 || k == 0x81) || !s.umOn) = false := by rcases hk with hk | hk <;> simp [hk, ho]
  rw [execLetL2Trigger, if_neg (by rw [hgo]; decide), if_neg (by simp [State.letFromHere, hm]), if_pos (by simp [hm, hc])]

theorem exec_captainFault_inLet {s : State} (hm : s.mo.mode = .letMode) :
    exec .captainFault s = .next (if s.mo.letClass = 1 then (s.raiseErr 0x0280 3).letTwo else s.raiseErr 0x0280 4) := by
  show execCaptainFault s = _
  rw [execCaptainFault, if_pos (by simp [hm])]
  split <;> rfl

theorem exec_captainFault_triggers {s : State} (hm : s.mo.mode = .run ∨ s.mo.mode = .commission) (hc : s.mo.captain = true)
    (hb : s.mo.boot ≠ .captain) : exec .captainFault s = .next ((s.raiseErr 0x0280 3).letTrigger 1) := by
  show execCaptainFault s = _
  have hlet : s.mo.mode ≠ .letMode := by rcases hm with hm | hm <;> simp [hm]
  simp [execCaptainFault, hlet, hb, hc, State.letFromHere_of hm]

/-- The Captain has stopped. -/
def State.captainStopped (s : State) : State := { s with mo := { s.mo with captain := false } }

theorem exec_captainFault_stops {s : State} (hm : s.mo.mode = .train ∨ s.mo.mode = .safe) (hc : s.mo.captain = true)
    (hb : s.mo.boot = .done) : exec .captainFault s = .next (s.raiseErr 0x0280 3).captainStopped := by
  show execCaptainFault s = _
  have hlet : s.mo.mode ≠ .letMode := by rcases hm with hm | hm <;> simp [hm]
  have hhere : s.letFromHere = false := by rcases hm with hm | hm <;> simp [State.letFromHere, hm]
  simp [execCaptainFault, hlet, hb, hc, hhere]
  rfl

/-- A trigger after its error: the Let stands, and the error has arrived. -/
theorem State.letTrigger_raised {s : State} (hi : s.Inv) (code cls : Nat) :
    ((s.raiseErr code 3).letTrigger cls).LetStands cls s.mo.mode ∧ ⟨code, 3⟩ ∈ ((s.raiseErr code 3).letTrigger cls).ec.arrivals := by
  have hraised : (s.raiseErr code 3).Inv := State.raiseErr_moves.inv hi
  have hstands := State.letTrigger_stands hraised cls
  rw [State.raiseErr_mo hi] at hstands
  exact ⟨hstands, State.letTrigger_moves.arrived hraised rfl (State.raiseErr_mem_arrivals _ _ _)⟩

/-- An escalation after its error: class 2 in the mode as it was. -/
theorem State.letTwo_raised {s : State} (hi : s.Inv) (code : Nat) :
    (s.raiseErr code 3).letTwo.mo.mode = s.mo.mode ∧ (s.raiseErr code 3).letTwo.mo.letClass = 2 ∧
      ⟨code, 3⟩ ∈ (s.raiseErr code 3).letTwo.ec.arrivals := by
  have hraised : (s.raiseErr code 3).Inv := State.raiseErr_moves.inv hi
  obtain ⟨hclass, hmode, -⟩ := State.letTwo_mo hraised
  exact ⟨hmode.trans (congrArg (·.mode) (State.raiseErr_mo hi _ _)), hclass,
    State.letTwo_moves.arrived hraised rfl (State.raiseErr_mem_arrivals _ _ _)⟩

/-! The end of a Let (R82, R370). -/

theorem State.letRestore_mo {s : State} (hi : s.Inv) (hgood : ∀ e, e ∈ s.badNow → continuousBlock e.1 = false) :
    s.letRestore.mo = { s.mo with letResumed := true } := by
  have hno : s.badNow.any (fun e => continuousBlock e.1) = false := by
    rw [List.any_eq_false]
    exact fun e he => by simp [hgood e he]
  unfold State.letRestore
  rw [if_neg (by simp [hno])]
  extract_lets gap lg rp mo s1
  have hs1 : s1.Inv := hi
  have hresumed : (s1.lgResumed 1 gap).Inv := State.lgResumed_moves.inv hs1
  exact ((State.notify_moves.mo_kept (State.lgShow_moves.inv hresumed) rfl).trans (State.lgShow_moves.mo_kept hresumed rfl)).trans
    (State.lgResumed_moves.mo_kept hs1 rfl)

theorem State.letRestore_inv {s : State} (hi : s.Inv) : s.letRestore.Inv := State.letRestore_moves.inv hi

theorem State.letTell_captain (s : State) (cls : Nat) (bad : List (Nat × Nat)) : (s.letTell cls bad).mo.captain = true := by
  unfold State.letTell
  rfl

/-- The class of a Let that is over. -/
def State.letShut (s : State) : State := { s with mo := { s.mo with letClass := 0, letResumed := false } }

theorem State.letShut_inv {x : State} (hi : x.Inv) : x.letShut.Inv := hi

/-- The restarted Captain has told of the Let. -/
def State.letTold (s : State) : State := s.letOver.letTell s.mo.letClass []

theorem State.letTold_inv {s : State} (hi : s.Inv) : s.letTold.Inv := State.letTell_moves.inv (State.letOver_moves.inv hi)

theorem State.letFinish_eq (s : State) : s.letFinish [] = (s.letTold.letShut.setMode s.mo.letFrom 0xE).letErrsEnd.letOpen := by
  unfold State.letFinish
  rfl

theorem State.letShut_setMode {x : State} (hi : x.Inv) (hc : x.mo.captain = true) (m : Mode) (cause : Nat) :
    (x.letShut.setMode m cause).mo.mode = m ∧ (x.letShut.setMode m cause).mo.cause = cause ∧
      (x.letShut.setMode m cause).mo.letClass = 0 ∧ (x.letShut.setMode m cause).mo.captain = true := by
  rw [State.setMode_mo (s := x.letShut) hi]
  exact ⟨rfl, rfl, rfl, hc⟩

/-- The mode left is restored (Table 2.2); doorbells, messages and the recorder's freeze follow and change no mode. -/
theorem State.letFinish_mo {s : State} (hi : s.Inv) :
    (s.letFinish []).mo.mode = s.mo.letFrom ∧ (s.letFinish []).mo.cause = 0xE ∧ (s.letFinish []).mo.letClass = 0 ∧
      (s.letFinish []).mo.captain = true := by
  have hshut : s.letTold.letShut.Inv := State.letShut_inv (State.letTold_inv hi)
  have hcoded : (s.letTold.letShut.setMode s.mo.letFrom 0xE).Inv := State.setMode_moves.inv hshut
  rw [State.letFinish_eq, State.letOpen_moves.mo_kept (State.letErrsEnd_moves.inv hcoded) rfl, State.letErrsEnd_moves.mo_kept hcoded rfl]
  exact State.letShut_setMode (State.letTold_inv hi) (State.letTell_captain _ _ _) _ _

theorem exec_letEnd_resumes {s : State} (hm : s.mo.mode = .letMode) (hcut : s.cs.cut = false) (hc : s.mo.letClass = 2)
    (hr : s.mo.letResumed = false) : exec (.letEnd true []) s = .next s.letRestore := by
  show execLetEnd true [] s = _
  simp [execLetEnd, hm, hcut, hc, hr]

/-- The state in which a Let ends: its engines have been resumed. -/
def State.letReady (s : State) : State := if s.mo.letClass == 2 && !s.mo.letResumed then s.letRestore else s

theorem State.letReady_mo {s : State} (hi : s.Inv) (hgood : ∀ e, e ∈ s.badNow → continuousBlock e.1 = false) :
    s.letReady.Inv ∧ s.letReady.mo.letFrom = s.mo.letFrom ∧
      ((s.mo.letClass == 2 && !s.mo.letResumed) = true → s.letReady.mo.letResumed = true) := by
  have hmo := State.letRestore_mo hi hgood
  unfold State.letReady
  split
  · exact ⟨State.letRestore_inv hi, congrArg (·.letFrom) hmo, fun _ => congrArg (·.letResumed) hmo⟩
  · next h => exact ⟨hi, rfl, fun h' => absurd h' h⟩

theorem exec_letEnd_ends {s : State} (hi : s.Inv) (hm : s.mo.mode = .letMode) (hcut : s.cs.cut = false)
    (hgood : ∀ e, e ∈ s.badNow → continuousBlock e.1 = false) : exec (.letEnd false []) s = .next (s.letReady.letFinish []) := by
  obtain ⟨-, -, hresumed⟩ := State.letReady_mo hi hgood
  show execLetEnd false [] s = _
  unfold execLetEnd
  rw [if_neg (by simp [hm]), if_neg (by simp [hm, hcut])]
  extract_lets two s1
  have hs1 : s1 = s.letReady := rfl
  rw [if_neg (by simp), hs1]
  refine if_neg fun h => ?_
  have htwo : two = true := by simp_all
  have := hresumed htwo
  simp_all

/-! SAFE ends a Let (R372). -/

/-- Of the modes, what follows the SAFE entry changes nothing. -/
theorem State.enterSafe_mo {s : State} (hi : s.Inv) (hs : s.mo.mode ≠ .safe) (hk : s.mo.mode ≠ .keeper) (hb : s.mo.mode ≠ .boot)
    (cause : Nat) : (s.enterSafe cause).mo = (s.safeEntered cause).mo := by
  have hsafe : (s.safeEntered cause).Inv := State.setMode_moves.inv (State.madeSafe_moves.inv hi)
  rw [State.enterSafe_eq hs hk hb]
  split
  · rfl
  · exact State.sbCause_moves.mo_kept hsafe rfl

theorem exec_letBoundExceeded_late {s : State} (hm : s.mo.mode = .letMode)
    (hlate : s.mo.letAt + (if s.mo.letClass = 2 then 2000 else 800) * 800000 < s.elapsed) :
    exec .letBoundExceeded s = .next ((s.enterSafe 8).raiseErr 0x0281 4) :=
  if_pos (by rw [Bool.and_eq_true]; exact ⟨by simp [hm], decide_eq_true hlate⟩)

theorem State.letBoundExceeded_effect {s : State} (hi : s.Inv) (hm : s.mo.mode = .letMode) :
    ((s.enterSafe 8).raiseErr 0x0281 4).mo.mode = .safe ∧ ((s.enterSafe 8).raiseErr 0x0281 4).mo.cause = 8 ∧
      ((s.enterSafe 8).raiseErr 0x0281 4).mo.letClass = 0 := by
  have hs : s.mo.mode ≠ .safe := by simp [hm]
  have hk : s.mo.mode ≠ .keeper := by simp [hm]
  have hb : s.mo.mode ≠ .boot := by simp [hm]
  obtain ⟨hmode, hcause, -⟩ := State.enterSafe_mode hi hs hk hb 8
  have hentered : (s.enterSafe 8).Inv := State.enterSafe_moves.inv hi
  rw [State.raiseErr_mo hentered]
  exact ⟨hmode, hcause, congrArg (·.letClass) (State.enterSafe_mo hi hs hk hb 8)⟩

/-! The Captain runs again without a Let (R31). -/

/-- Journalled commands are completed, the Captain runs, and notifications that waited are delivered. -/
def State.captainBack (s : State) : State :=
  State.deliverHeld { (s.journalEnd []).1 with mo := { (s.journalEnd []).1.mo with captain := true } }

theorem exec_captainRestartDone_restarts {s : State} (hm : s.mo.mode = .train ∨ s.mo.mode = .safe) (hb : s.mo.boot = .done)
    (hc : s.mo.captain = false) (ho : s.mo.letOwed = 0) (hr : s.tu.running = true) (hsent : s.mo.sent = .out) :
    exec .captainRestartDone s = .next s.captainBack := by
  show execCaptainRestartDone s = _
  unfold execCaptainRestartDone
  rw [if_neg (by rcases hm with hm | hm <;> simp [hm, hb, hc, ho, hr]), hsent]
  rfl

theorem State.captainBack_mo {s : State} (hi : s.Inv) : s.captainBack.mo.mode = s.mo.mode ∧ s.captainBack.mo.captain = true := by
  have hj : (s.journalEnd []).1.Inv := State.journalEnd_moves.inv hi
  have hmo : s.captainBack.mo = { (s.journalEnd []).1.mo with captain := true } :=
    State.deliverHeld_moves.mo_kept (s := { (s.journalEnd []).1 with mo := { (s.journalEnd []).1.mo with captain := true } }) hj rfl
  rw [hmo]
  exact ⟨(State.journalEnd_moves.keep hi .mode rfl).1.symm, rfl⟩

/-! Blocks of the store (R357, R549). -/

section
variable {s : State} {b : Nat}

theorem exec_storeBlockError_failed (ho : s.storeOn = true) (hb : b < 3072) :
    exec (.storeBlockError b none) s = .next (s.blockBad b) :=
  if_neg (by simp [ho, hb])

/-- A read judges the beat, and gives the block up when its code does. -/
theorem exec_storeBlockError_beat (ho : s.storeOn = true) (hb : b < 3072) (x : SdBeat) :
    exec (.storeBlockError b (some x)) s = .next (match sdRead x with
      | .uncorrectable _ => (s.sdJudge x).blockBad b
      | _ => s.sdJudge x) := by
  show execStoreBlockError b (some x) s = _
  unfold execStoreBlockError
  rw [if_neg (by simp [ho, hb])]
  dsimp only
  cases sdRead x <;> rfl

theorem State.blockBad_effect (hi : s.Inv) (hnew : ∀ e, e ∈ s.badNow → e.1 ≠ b) :
    (b, s.elapsed) ∈ (s.blockBad b).cs.bad ∧ ⟨0x2803, 2⟩ ∈ (s.blockBad b).ec.arrivals := by
  have hno : s.badNow.any (fun e => e.1 == b) = false := by
    rw [List.any_eq_false]
    exact fun e he => by simp [hnew e he]
  have hmarked : State.Inv { s with cs := { s.cs with bad := s.badNow ++ [(b, s.elapsed)] } } := hi
  unfold State.blockBad
  rw [if_neg (by simp [hno])]
  refine ⟨?_, State.notify_mem_arrivals hmarked (by decide) _ _ _ _⟩
  rw [State.notify_moves.cs_kept hmarked rfl]
  exact List.mem_append_right _ (List.mem_singleton.2 rfl)

theorem State.sdJudge_corrected {x : SdBeat} {j : Nat} {y : BitVec 80} (hx : sdRead x = .corrected j y) :
    (s.sdJudge x).cs.bad = s.cs.bad ∧ (s.sdJudge x).cs.sdSeen.contains (laneOf j) = true ∧
      (s.cs.sdSeen.contains (laneOf j) = false → ⟨0x5080 + Config.sdFirstCause.toNat, 2⟩ ∈ (s.sdJudge x).ec.arrivals) := by
  unfold State.sdJudge
  rw [hx]
  dsimp only
  split
  · next hseen => exact ⟨rfl, hseen, fun h => absurd hseen (by rw [h]; decide)⟩
  · exact ⟨rfl, by simp [State.arrive], fun _ => List.mem_append_right _ (List.mem_singleton.2 rfl)⟩

theorem State.sdJudge_uncorrected {x : SdBeat} (hx : ∀ j y, sdRead x ≠ .corrected j y) : s.sdJudge x = s := by
  unfold State.sdJudge
  split
  · next j y hj => exact absurd hj (hx j y)
  · rfl

end

end Sys2Proof.Machine
end

