-- ==== Sys2Proof/Proofs/PowerFail.lean ====
section
/-! A power-fail warning, the write of its slot, and the return of power (R359 to R363, R365). -/

namespace Sys2Proof.Machine

open Sys2Proof

/-! Slots and the journal (R358, R360). -/

/-- The slot that a write takes depends on the journal and on the state of slot A alone. -/
theorem State.nextSlot_congr {s t : State} (hj : t.cs.journal = s.cs.journal) (ha : t.cs.slotA = s.cs.slotA) : t.nextSlot = s.nextSlot := by
  unfold State.nextSlot State.newestSlot State.newestOf
  rw [hj, ha]

theorem State.newestSlot_congr {s t : State} (hj : t.cs.journal = s.cs.journal) : t.newestSlot = s.newestSlot := by
  unfold State.newestSlot State.newestOf
  rw [hj]

theorem State.slotState_congr {s t : State} (h : t.cs = s.cs) (b : Bool) : t.slotState b = s.slotState b := by
  unfold State.slotState
  rw [h]

theorem State.slotImage_congr {s t : State} (h : t.cs = s.cs) (b : Bool) : t.slotImage b = s.slotImage b := by
  unfold State.slotImage
  rw [h]

theorem State.setSlot_slot (s : State) (b : Bool) (st : SlotState) (img : Option CsImage) :
    (s.setSlot b st img).slotState b = st ∧ (s.setSlot b st img).slotImage b = img := by
  cases b <;> exact ⟨rfl, rfl⟩

theorem State.setSlot_journal (s : State) (b : Bool) (st : SlotState) (img : Option CsImage) :
    (s.setSlot b st img).cs.journal = s.cs.journal := by
  cases b <;> rfl

/-- Setting a slot leaves the warning and the cut. -/
theorem State.setSlot_warning (s : State) (b : Bool) (st : SlotState) (img : Option CsImage) :
    (s.setSlot b st img).cs.cut = s.cs.cut ∧ (s.setSlot b st img).cs.pfAt = s.cs.pfAt := by
  cases b <;> exact ⟨rfl, rfl⟩

/-- A journalled end of a slot write makes its slot the newest. -/
theorem State.journal_newest (s : State) (slot : Bool) (mode cause : Nat) :
    (s.journal .writeDone slot mode cause).newestSlot = some slot := by
  unfold State.newestSlot State.newestOf State.journal
  simp

/-- A slot write that begins: the slot is incomplete, and the write under way is of it. -/
theorem State.writeStart_effect (s : State) (mode cause : Nat) :
    (s.writeStart mode cause).cs.writing = some ⟨s.nextSlot, cause, s.elapsed⟩ ∧
      (s.writeStart mode cause).slotState s.nextSlot = .incomplete ∧ (s.writeStart mode cause).mo = s.mo ∧
      (s.writeStart mode cause).cs.cut = s.cs.cut ∧ (s.writeStart mode cause).cs.pfAt = s.cs.pfAt := by
  unfold State.writeStart
  cases s.nextSlot <;> exact ⟨rfl, rfl, rfl, rfl, rfl⟩

/-! The warning (R361). -/

/-- The warning stands, and a switch in progress is cancelled. -/
def State.pfWarned (s : State) : State := s.pfTake.lgCancel 5

/-- The cut that the warning takes. -/
def State.pfCut (s : State) : State := s.pfWarned.takeCut s.pfWarned.cutMode 1

theorem State.pfWarned_inv {s : State} (hi : s.Inv) : s.pfWarned.Inv := State.lgCancel_moves.inv (State.pfTake_moves.inv hi)

theorem State.pfWarned_cs {s : State} (hi : s.Inv) :
    s.pfWarned.cs = { s.cs with pfAt := some s.elapsed, pfFailed := false } :=
  State.lgCancel_moves.cs_kept (State.pfTake_moves.inv hi) rfl

theorem State.pfWarned_mo {s : State} (hi : s.Inv) : s.pfWarned.mo = s.mo :=
  State.lgCancel_moves.mo_kept (State.pfTake_moves.inv hi) rfl

theorem State.pfWarned_elapsed {s : State} (hi : s.Inv) : s.pfWarned.elapsed = s.elapsed :=
  (State.lgCancel_moves.keep (State.pfTake_moves.inv hi) .elapsed rfl).symm

/-- A cut stops control and keeps the journal, the slots and the warning. -/
theorem State.takeCut_effect {s : State} (hi : s.Inv) (mode cause : Nat) :
    (s.takeCut mode cause).cs.cut = true ∧ (s.takeCut mode cause).cs.pfAt = s.cs.pfAt ∧
      (s.takeCut mode cause).cs.journal = s.cs.journal ∧ (s.takeCut mode cause).cs.slotA = s.cs.slotA ∧
      (s.takeCut mode cause).mo.control = false ∧ (s.takeCut mode cause).mo.mode = s.mo.mode ∧
      (s.takeCut mode cause).elapsed = s.elapsed := by
  have hcs : s.stopControl.cs = s.cs := State.stopControl_moves.cs_kept hi rfl
  have hmode : s.mo.mode = s.stopControl.mo.mode := (State.stopControl_moves.keep hi .mode rfl).1
  have helapsed : s.elapsed = s.stopControl.elapsed := State.stopControl_moves.keep hi .elapsed rfl
  have hcontrol : s.stopControl.mo.control = false := rfl
  unfold State.takeCut
  generalize s.stopControl = x at hcs hmode helapsed hcontrol
  exact ⟨rfl, congrArg (·.pfAt) hcs, congrArg (·.journal) hcs, congrArg (·.slotA) hcs, hcontrol, hmode.symm, helapsed.symm⟩

theorem State.pfWarned_writing {s : State} (hi : s.Inv) (hwriting : s.cs.writing = none) : s.pfWarned.cs.writing.isSome = false := by
  rw [State.pfWarned_cs hi]
  exact congrArg Option.isSome hwriting

theorem exec_powerFailWarning_cuts {s : State} (hi : s.Inv) (hrails : s.mo.rails = true) (hreset : s.mo.resetN = true)
    (hnone : s.cs.pfAt = none) (hwriting : s.cs.writing = none)
    (hm : s.mo.mode = .train ∨ s.mo.mode = .run ∨ s.mo.mode = .commission ∨ s.mo.mode = .safe) :
    exec .powerFailWarning s = .next (s.pfCut.writeStart s.pfWarned.cutMode 1) := by
  have hwarned : s.pfWarned.Inv := State.pfWarned_inv hi
  have hmode : (s.pfCut.writeStart s.pfWarned.cutMode 1).mo.mode = s.mo.mode := by
    obtain ⟨-, -, hmo, -⟩ := s.pfCut.writeStart_effect s.pfWarned.cutMode 1
    obtain ⟨-, -, -, -, -, hcut, -⟩ := State.takeCut_effect hwarned s.pfWarned.cutMode 1
    exact ((congrArg (·.mode) hmo).trans hcut).trans (congrArg (·.mode) (State.pfWarned_mo hi))
  show execPowerFailWarning s = _
  unfold execPowerFailWarning
  rw [if_neg (by rcases hm with hm | hm | hm | hm <;> simp [hm, hrails, hreset, hnone]),
    if_neg (by rcases hm with hm | hm | hm | hm <;> simp [hm])]
  extract_lets s1 s2
  have hs2 : s2 = s.pfCut.writeStart s.pfWarned.cutMode 1 := if_neg fun h => Bool.noConfusion ((State.pfWarned_writing hi hwriting).symm.trans h)
  rw [hs2, if_neg (by rcases hm with hm | hm | hm | hm <;> simp [hmode, hm])]

/-- The warning stops control at a cut and begins the write of the next slot. -/
theorem State.powerFailWarning_effect {s : State} (hi : s.Inv) :
    let t := s.pfCut.writeStart s.pfWarned.cutMode 1
    t.cs.cut = true ∧ t.cs.pfAt = some s.elapsed ∧ t.mo.control = false ∧ t.cs.writing = some ⟨s.nextSlot, 1, s.elapsed⟩ ∧
      t.slotState s.nextSlot = .incomplete ∧ t.mo.mode = s.mo.mode := by
  intro t
  obtain ⟨hwriting, hslot, hmo, hcut, hat⟩ := s.pfCut.writeStart_effect s.pfWarned.cutMode 1
  obtain ⟨hcut', hat', hjournal, hslotA, hcontrol, hmode, helapsed⟩ :=
    State.takeCut_effect (State.pfWarned_inv hi) s.pfWarned.cutMode 1
  have hnext : s.pfCut.nextSlot = s.nextSlot :=
    State.nextSlot_congr (hjournal.trans (congrArg (·.journal) (State.pfWarned_cs hi)))
      (hslotA.trans (congrArg (·.slotA) (State.pfWarned_cs hi)))
  have hnow : s.pfCut.elapsed = s.elapsed := helapsed.trans (State.pfWarned_elapsed hi)
  rw [hnext, hnow] at hwriting
  rw [hnext] at hslot
  exact ⟨hcut.trans hcut', (hat.trans hat').trans (congrArg (·.pfAt) (State.pfWarned_cs hi)), (congrArg (·.control) hmo).trans hcontrol,
    hwriting, hslot, (congrArg (·.mode) hmo).trans (hmode.trans (congrArg (·.mode) (State.pfWarned_mo hi)))⟩

/-! The write of the slot ends (R360). -/

section
variable {s : State} {w : CsWrite} {img : CsImage}

/-- The slot holds the sealed image, and no write is under way. -/
def State.slotWritten (s : State) (w : CsWrite) (img : CsImage) : State :=
  let done := (s.journal .writeDone w.slot img.mode w.cause).setSlot w.slot .complete (some img)
  { done with cs := { done.cs with writing := none } }

/-- The write is told; what EV had is marked when a power fail asked for it. -/
def State.slotTold (s : State) (w : CsWrite) (us : Nat) : State :=
  let told := ((s.wr CS_STAT_WRITE_US 0 us).wr CS_STAT_WRITE_SEC 0 s.now.sec).notify 0x28 1 0 (b2n w.slot) w.cause us 0
  if w.cause = 1 then told.pfMark else told

theorem exec_slotWriteDone_completes (hw : s.cs.writing = some w) (hsealed : s.cs.sealed = some img) (hgood : s.badNow = [])
    (us blk : Nat) : exec (.slotWriteDone true us blk) s = .next ((s.slotWritten w img).slotTold w us) := by
  show execSlotWriteDone true us blk s = _
  unfold execSlotWriteDone
  rw [hw, hsealed]
  dsimp only
  rw [hgood]
  rfl

theorem exec_slotWriteDone_fails (hw : s.cs.writing = some w) (hsealed : s.cs.sealed = some img) (hgood : s.badNow = [])
    (us blk : Nat) : exec (.slotWriteDone false us blk) s = .next (s.writeFailed w .failed blk) := by
  show execSlotWriteDone false us blk s = _
  unfold execSlotWriteDone
  rw [hw, hsealed]
  dsimp only
  rw [hgood]
  rfl

theorem State.slotWritten_inv (hi : s.Inv) (w : CsWrite) (img : CsImage) : (s.slotWritten w img).Inv := by
  unfold State.slotWritten State.setSlot
  cases w.slot <;> exact hi

theorem State.slotWritten_effect (s : State) (w : CsWrite) (img : CsImage) :
    (s.slotWritten w img).cs.writing = none ∧ (s.slotWritten w img).slotState w.slot = .complete ∧
      (s.slotWritten w img).slotImage w.slot = some img ∧ (s.slotWritten w img).newestSlot = some w.slot := by
  have hnewest := s.journal_newest w.slot img.mode w.cause
  unfold State.slotWritten
  generalize s.journal .writeDone w.slot img.mode w.cause = x at hnewest ⊢
  obtain ⟨hslot, himage⟩ := x.setSlot_slot w.slot .complete (some img)
  exact ⟨rfl, hslot, himage, (State.newestSlot_congr (State.setSlot_journal x _ _ _)).trans hnewest⟩

/-- Telling of the write changes nothing of the store but status words. -/
theorem State.slotTold_cs (hi : s.Inv) (us : Nat) : (s.slotTold w us).cs = s.cs := by
  have htold : (((s.wr CS_STAT_WRITE_US 0 us).wr CS_STAT_WRITE_SEC 0 s.now.sec).notify 0x28 1 0 (b2n w.slot) w.cause us 0).cs = s.cs :=
    State.notify_moves.cs_kept (s := (s.wr CS_STAT_WRITE_US 0 us).wr CS_STAT_WRITE_SEC 0 s.now.sec)
      (State.wr_inv (State.wr_inv hi _ _ _) _ _ _) rfl
  unfold State.slotTold
  split
  · exact htold
  · exact htold

/-- What a failed slot write leaves before it is told. -/
def State.slotFailed (s : State) (w : CsWrite) (st : SlotState) : State :=
  let shown := s.setSlot w.slot st none
  { shown with cs := { shown.cs with
    writing := none, pfFailed := shown.cs.pfFailed || w.cause == 1
    dead := shown.cs.dead || (shown.cs.slotA == .failed && shown.cs.slotB == .failed) } }

theorem State.writeFailed_eq (s : State) (w : CsWrite) (st : SlotState) (block : Nat) :
    s.writeFailed w st block = (s.slotFailed w st).notify 0x28 2
      (if (s.setSlot w.slot st none).cs.slotA == .failed && (s.setSlot w.slot st none).cs.slotB == .failed then 3 else 2)
      (b2n w.slot) block 0 0 := rfl

theorem State.slotFailed_inv (hi : s.Inv) (st : SlotState) : (s.slotFailed w st).Inv := by
  unfold State.slotFailed State.setSlot
  cases w.slot <;> exact hi

theorem State.writeFailed_effect (hi : s.Inv) (st : SlotState) (blk : Nat) :
    (s.writeFailed w st blk).cs.writing = none ∧ (s.writeFailed w st blk).slotState w.slot = st ∧
      (s.writeFailed w st blk).newestSlot = s.newestSlot ∧
      (⟨0x2802, 2⟩ ∈ (s.writeFailed w st blk).ec.arrivals ∨ ⟨0x2802, 3⟩ ∈ (s.writeFailed w st blk).ec.arrivals) := by
  have hfailed : (s.slotFailed w st).Inv := State.slotFailed_inv hi st
  have hcs : (s.writeFailed w st blk).cs = (s.slotFailed w st).cs := State.notify_moves.cs_kept hfailed rfl
  have hslot : (s.slotFailed w st).slotState w.slot = st := by
    unfold State.slotFailed
    cases w.slot <;> rfl
  have hnewest : (s.slotFailed w st).newestSlot = s.newestSlot :=
    State.newestSlot_congr (State.setSlot_journal s w.slot st none)
  refine ⟨congrArg (·.writing) hcs, (State.slotState_congr hcs _).trans hslot,
    (State.newestSlot_congr (congrArg (·.journal) hcs)).trans hnewest, ?_⟩
  rw [State.writeFailed_eq]
  split
  · exact .inr (State.notify_mem_arrivals hfailed (by decide) _ _ _ _)
  · exact .inl (State.notify_mem_arrivals hfailed (by decide) _ _ _ _)

end

/-! Power returns (R363, R365). -/

/-- Control runs again from the state it holds. -/
def State.runsFrom (s : State) (slot : Option Bool) : State :=
  { s.controlOn with lg := { s.lg with running := s.logicReady }, cs := { s.controlOn.cs with consume := slot } }

theorem State.runsFrom_keeps {x : State} (hi : x.Inv) (slot : Option Bool) :
    (x.runsFrom slot).Inv ∧ (x.runsFrom slot).cs.cut = false ∧ (x.runsFrom slot).mo.control = true ∧
      (x.runsFrom slot).mo.mode = x.mo.mode :=
  ⟨hi, rfl, rfl, rfl⟩

/-- Loops and axes come back first, and RESUMED comes first on every task. -/
def State.resumedShown (s : State) (slot : Option Bool) (gapMs : Nat) : State :=
  ((s.loopsBack.axesBack.runsFrom slot).lgResumed 3 gapMs).lgShow

theorem State.resumeControl_eq (s : State) (slot : Option Bool) (start gapMs : Nat) : s.resumeControl slot start gapMs =
    ((s.resumedShown slot gapMs).wr CS_STAT_LAST_START 0 start).notify 0x28 4 0 3 gapMs 0 0 := by
  unfold State.resumeControl State.resumedShown
  generalize s.loopsBack.axesBack = x
  rfl

theorem State.resumeControl_effect {s : State} (hi : s.Inv) (slot : Option Bool) {start : Nat} (hstart : start < 4) (gapMs : Nat) :
    (s.resumeControl slot start gapMs).cs.cut = false ∧ (s.resumeControl slot start gapMs).mo.control = true ∧
      (s.resumeControl slot start gapMs).mo.mode = s.mo.mode ∧ (s.resumeControl slot start gapMs).rd CS_STAT_LAST_START 0 = start := by
  have hloops : s.loopsBack.Inv := State.loopsBack_moves.inv hi
  have hback : s.loopsBack.axesBack.Inv := State.axesBack_moves.inv hloops
  have hmoved : s.loopsBack.axesBack.mo = s.mo :=
    (State.axesBack_moves.mo_kept hloops rfl).trans (State.loopsBack_moves.mo_kept hi rfl)
  obtain ⟨hfrom, hcut, hcontrol, hmode⟩ := State.runsFrom_keeps hback slot
  have hresumed : ((s.loopsBack.axesBack.runsFrom slot).lgResumed 3 gapMs).Inv := State.lgResumed_moves.inv hfrom
  have hshown : (s.resumedShown slot gapMs).Inv := State.lgShow_moves.inv hresumed
  have hmo : (s.resumedShown slot gapMs).mo = (s.loopsBack.axesBack.runsFrom slot).mo :=
    (State.lgShow_moves.mo_kept hresumed rfl).trans (State.lgResumed_moves.mo_kept hfrom rfl)
  have hcs : (s.resumedShown slot gapMs).cs = (s.loopsBack.axesBack.runsFrom slot).cs :=
    (State.lgShow_moves.cs_kept hresumed rfl).trans (State.lgResumed_moves.cs_kept hfrom rfl)
  have hwritten : ((s.resumedShown slot gapMs).wr CS_STAT_LAST_START 0 start).Inv := State.wr_inv hshown _ _ _
  rw [State.resumeControl_eq, State.notify_moves.cs_kept hwritten rfl, State.notify_moves.mo_kept hwritten rfl,
    State.notify_moves.rd hwritten rfl, State.rd_wr_same hshown rfl]
  exact ⟨(congrArg (·.cut) hcs).trans hcut, (congrArg (·.control) hmo).trans hcontrol,
    (congrArg (·.mode) hmo).trans (hmode.trans (congrArg (·.mode) hmoved)), Nat.mod_eq_of_lt hstart⟩

theorem exec_powerReturn_resumes {s : State} {x : Nat} (hat : s.cs.pfAt = some x) (hw : s.cs.writing = none) (hrails : s.mo.rails = true)
    (hm : s.mo.mode = .run ∨ s.mo.mode = .commission) (hgood : s.cs.pfFailed = false) :
    exec .powerReturn s = .next (s.clearForces.resumeControl s.newestSlot 2 s.pfGap).pfOver := by
  show execPowerReturn s = _
  have hresume : s.pfResume = s.clearForces.resumeControl s.newestSlot 2 s.pfGap := if_neg (by simp [hgood])
  unfold execPowerReturn
  rw [if_neg (by simp [hat, hw, hrails])]
  rcases hm with hm | hm
  all_goals
    rw [hm]
    exact congrArg (fun t => (.next t.pfOver : Res)) hresume

theorem State.pfOver_keeps (x : State) : x.pfOver.cs.pfAt = none ∧ x.pfOver.cs.cut = x.cs.cut ∧ x.pfOver.mo = x.mo ∧
    ∀ (f : Field) (n : Nat), x.pfOver.rd f n = x.rd f n :=
  ⟨rfl, rfl, rfl, fun _ _ => rfl⟩

/-- Control has resumed from the image just written, and the warning is over. -/
theorem State.powerReturn_effect {s : State} (hi : s.Inv) :
    let t := (s.clearForces.resumeControl s.newestSlot 2 s.pfGap).pfOver
    t.cs.pfAt = none ∧ t.cs.cut = false ∧ t.mo.control = true ∧ t.rd CS_STAT_LAST_START 0 = 2 ∧ t.mo.mode = s.mo.mode := by
  intro t
  have hclear : s.clearForces.Inv := State.clearForces_moves.inv hi
  obtain ⟨hcut, hcontrol, hmode, hstart⟩ := State.resumeControl_effect hclear s.newestSlot (show 2 < 4 by decide) s.pfGap
  obtain ⟨hat, hcut', hmo, hrd⟩ := State.pfOver_keeps (s.clearForces.resumeControl s.newestSlot 2 s.pfGap)
  exact ⟨hat, hcut'.trans hcut, (congrArg (·.control) hmo).trans hcontrol, (hrd _ _).trans hstart,
    (congrArg (·.mode) hmo).trans (hmode.trans (congrArg (·.mode) (State.clearForces_moves.mo_kept hi rfl)))⟩

end Sys2Proof.Machine
end

