-- ==== Sys2Proof/Proofs/ErrorHandling.lean ====
section
/-! The error controller (R374 to R377): what one arriving error does, and how its handling ends. -/

namespace Sys2Proof.Machine

open Sys2Proof

/-! SAFE entry keeps the last error handled. -/

theorem State.keepsService_withLg (s : State) (lg : LgSt) : s.KeepsService { s with lg := lg } :=
  fun hi => ⟨hi, rfl, fun _ => rfl, rfl⟩

theorem State.keepsService_lgCancel (s : State) (cause : Nat) : s.KeepsService (s.lgCancel cause) := by
  unfold State.lgCancel
  split
  · exact .refl s
  · next x _ =>
    extract_lets lg s1
    have h1 : s.KeepsService s1 := (s.keepsService_withLg _).trans (State.keepsService_wr _ (by decide) (by decide) _ _)
    exact (h1.trans (s1.keepsService_notify _ _ _ _ _ _ _)).trans (State.keepsService_settle _ _ _ _ _ _)

theorem State.keepsService_leSafe (s : State) : s.KeepsService s.leSafe := by
  unfold State.leSafe
  refine .trans (.foldl (fun st n => st.keepsService_tuneAbort n 6) _ s) (.foldl (fun st n => ?_) _ _)
  exact ((State.loopEnter_moves.keepsService rfl rfl rfl).trans (State.setLoop_moves.keepsService rfl rfl rfl)).trans
    (State.writeDst_moves.keepsService rfl rfl rfl)

theorem State.keepsService_axisSafe (s : State) (n : Nat) : s.KeepsService (s.axisSafe n) := by
  unfold State.axisSafe
  extract_lets s1
  have h1 : s.KeepsService s1 := s.keepsService_capEnd _ _ _
  exact (h1.trans (s1.keepsService_wr (by decide) (by decide) _ _)).trans (State.setAxis_moves.keepsService rfl rfl rfl)

theorem State.keepsService_axSafe (s : State) : s.KeepsService s.axSafe := by
  unfold State.axSafe
  refine .trans (.foldl (fun st n => ?_) _ s) (.foldl (fun st k => st.keepsService_wr (by decide) (by decide) _ _) _ _)
  exact ((st.keepsService_axisSafe n).trans (State.setAxis_moves.keepsService rfl rfl rfl)).trans
    (State.writeDst_moves.keepsService rfl rfl rfl)

theorem State.keepsService_madeSafe (s : State) : s.KeepsService s.madeSafe := by
  unfold State.madeSafe
  refine .trans (.trans (.trans (.trans ?_ (State.allSafe_moves.keepsService rfl rfl rfl)) (State.lgShow_moves.keepsService rfl rfl rfl))
    (State.keepsService_leSafe _)) (State.keepsService_axSafe _)
  refine .trans ?_ (State.keepsService_withLg _ _)
  refine .trans (.trans (.trans (.trans (.trans (State.letOver_moves.keepsService rfl rfl rfl) (State.keepsService_lgCancel _ 4)) ?_)
    (State.dropCycles_moves.keepsService rfl rfl rfl)) (State.rpDiscard_moves.keepsService rfl rfl rfl))
    (State.rpHoldAll_moves.keepsService rfl rfl rfl)
  exact State.sentUndo_moves.keepsService rfl rfl rfl

/-- SAFE entry clears the errors in handling and queued; the last error handled stays (R377). -/
theorem State.enterSafe_ec {s : State} (hi : s.Inv) (hs : s.mo.mode ≠ .safe) (hk : s.mo.mode ≠ .keeper) (hb : s.mo.mode ≠ .boot)
    (cause : Nat) :
    (s.enterSafe cause).ec.handling = [] ∧ (s.enterSafe cause).ec.queue = [] ∧ (s.enterSafe cause).ec.lastCode = s.ec.lastCode := by
  have hmade : s.madeSafe.Inv := State.madeSafe_moves.inv hi
  have hsafe : (s.safeEntered cause).Inv := State.setMode_moves.inv hmade
  obtain ⟨-, -, -, hlast⟩ := (s.keepsService_madeSafe.trans (State.keepsService_setMode _ .safe cause)) hi
  have hec : (s.enterSafe cause).ec = (s.safeEntered cause).ec := by
    rw [State.enterSafe_eq hs hk hb]
    split
    · rfl
    · exact State.sbCause_moves.ec_kept hsafe rfl
  rw [hec]
  exact ⟨rfl, rfl, hlast⟩

/-! One arriving error (R376). -/

/-- A change of the errors in handling, and what it leaves. -/
theorem State.setHandling_effect {s : State} (hi : s.Inv) (h q : List ErrRec) :
    (s.setHandling h q).ec.handling = h ∧ (s.setHandling h q).ec.queue = q ∧ (s.setHandling h q).ec.lastCode = s.ec.lastCode ∧
      (s.setHandling h q).mo = s.mo := by
  unfold State.setHandling
  extract_lets ec s1
  have hs1 : s1.Inv := hi
  split
  · exact ⟨rfl, rfl, rfl, rfl⟩
  · rw [State.sbCause_moves.ec_kept hs1 rfl, State.sbCause_moves.mo_kept hs1 rfl]
    exact ⟨rfl, rfl, rfl, rfl⟩

/-- The error controller takes the error that arrived first. -/
def State.errTaken (s : State) (l : List ErrRec) : State := { s with ec := { s.ec with arrivals := l, inBoot := s.ec.inBoot - 1 } }

/-- Its code is the last one handled. -/
def State.errNoted (s : State) (code : Nat) : State := { s with ec := { s.ec with lastCode := code } }

/-- The overflow of the queue is noted. -/
def State.queueLost (s : State) : State := { s with ec := { s.ec with lost := satAdd 0xFFFFFFFF s.ec.lost 1, ovf := true } }

theorem exec_errorHandling_takes {s : State} {e : ErrRec} {l : List ErrRec} (hr : s.tu.running = true) (ha : s.ec.arrivals = e :: l) :
    exec .errorHandling s = .next ((s.errTaken l).handleError e (decide (0 < s.ec.inBoot))) := by
  show execErrorHandling s = _
  unfold execErrorHandling
  rw [ha]
  simp [hr]
  rfl

section
variable {s : State} {e : ErrRec} {boot : Bool}

theorem State.handleError_d (hm : s.mo.mode = .run) (hd : e.cls = 4) (hc : e.code ≠ 0x0284) :
    s.handleError e boot = (s.errNoted e.code).enterSafe 9 := by
  unfold State.handleError
  rw [if_pos hd]
  exact (if_neg (by simp [hm])).trans (if_neg hc)

theorem State.handleError_nested (hc : e.cls = 3) (hn : s.nestC = 2) :
    s.handleError e boot = (((s.errNoted e.code).errRecord 0x0283 4).errNoted 0x0283).enterSafe 0xA := by
  unfold State.handleError
  rw [if_neg (by omega)]
  extract_lets ec s1 s2
  exact if_pos ⟨hc, hn⟩

/-- The error is handled, preempts, queues, or is lost (R376). -/
def State.errQueued (s : State) (e : ErrRec) : State :=
  match s.ec.handling with
  | [] => s.setHandling [e] s.ec.queue
  | h :: t =>
    if h.cls < e.cls then s.setHandling (e :: h :: t) s.ec.queue
    else if 32 ≤ s.ec.queue.length then
      if s.ec.ovf then { s with ec := { s.ec with lost := satAdd 0xFFFFFFFF s.ec.lost 1 } } else s.queueLost.raiseErr 0x0282 3
    else s.setHandling (h :: t) (s.ec.queue ++ [e])

theorem State.handleError_queues (hd : e.cls < 4) (hn : e.cls = 3 → s.nestC ≠ 2) :
    s.handleError e boot = (s.errNoted e.code).errQueued e := by
  unfold State.handleError
  rw [if_neg (by omega)]
  exact if_neg fun h => hn h.1 h.2

variable {h : ErrRec} {t : List ErrRec}

theorem State.errQueued_first (hh : s.ec.handling = []) : s.errQueued e = s.setHandling [e] s.ec.queue := by
  unfold State.errQueued
  rw [hh]

theorem State.errQueued_preempts (hh : s.ec.handling = h :: t) (hc : h.cls < e.cls) :
    s.errQueued e = s.setHandling (e :: h :: t) s.ec.queue := by
  unfold State.errQueued
  rw [hh]
  exact if_pos hc

theorem State.errQueued_waits (hh : s.ec.handling = h :: t) (hc : e.cls ≤ h.cls) (hq : s.ec.queue.length < 32) :
    s.errQueued e = s.setHandling (h :: t) (s.ec.queue ++ [e]) := by
  unfold State.errQueued
  rw [hh]
  exact (if_neg (by omega)).trans (if_neg (by omega))

theorem State.errQueued_lost (hh : s.ec.handling = h :: t) (hc : e.cls ≤ h.cls) (hq : 32 ≤ s.ec.queue.length) (ho : s.ec.ovf = false) :
    s.errQueued e = s.queueLost.raiseErr 0x0282 3 := by
  unfold State.errQueued
  rw [hh]
  exact (if_neg (by omega)).trans ((if_pos hq).trans (if_neg (by simp [ho])))

end

/-! Handling ends (R375). -/

theorem exec_errorHandlingEnd_ends {s : State} {h : ErrRec} {t : List ErrRec} (hl : s.mo.letClass = 0) (hh : s.ec.handling = h :: t) :
    exec .errorHandlingEnd s = .next s.endHead := by
  show execErrorHandlingEnd s = _
  unfold execErrorHandlingEnd
  rw [hh]
  exact if_neg (by simp [hl])

theorem State.endHead_serves {s : State} {h e : ErrRec} {q : List ErrRec} (hh : s.ec.handling = [h]) (hq : s.ec.queue = e :: q) :
    s.endHead = s.setHandling [e] q := by
  unfold State.endHead
  rw [hh, hq]

theorem State.endHead_resumes {s : State} {h e : ErrRec} {r : List ErrRec} (hh : s.ec.handling = h :: e :: r) :
    s.endHead = s.setHandling (e :: r) s.ec.queue := by
  unfold State.endHead
  rw [hh]

end Sys2Proof.Machine
end

