-- ==== Sys2Proof/Proofs/LetsAndErrors.lean ====
section
/-! Lets, the store, power fail and error handling run their course (R357 to R377, R549). -/

namespace Sys2Proof.Machine

open Sys2Proof

/-! Each error handled in RUN, by what the instruction answers. -/

section
variable {s : State} {e : ErrRec} {l : List ErrRec}

/-- The error controller handles the error that it took. -/
def State.errHandled (s : State) (e : ErrRec) (l : List ErrRec) : State := (s.errTaken l).errNoted e.code

theorem exec_errorHandling_enters (hr : s.tu.running = true) (ha : s.ec.arrivals = e :: l) (hm : s.mo.mode = .run) (hd : e.cls = 4)
    (hc : e.code ≠ 0x0284) : exec .errorHandling s = .next ((s.errHandled e l).enterSafe 9) := by
  rw [exec_errorHandling_takes hr ha, State.handleError_d (s := s.errTaken l) hm hd hc]
  rfl

theorem exec_errorHandling_nested (hr : s.tu.running = true) (ha : s.ec.arrivals = e :: l) (hc : e.cls = 3) (hn : s.nestC = 2) :
    exec .errorHandling s = .next ((((s.errHandled e l).errRecord 0x0283 4).errNoted 0x0283).enterSafe 0xA) := by
  rw [exec_errorHandling_takes hr ha, State.handleError_nested (s := s.errTaken l) hc hn]
  rfl

theorem exec_errorHandling_queues (hr : s.tu.running = true) (ha : s.ec.arrivals = e :: l) (hd : e.cls < 4)
    (hn : e.cls = 3 → s.nestC ≠ 2) : exec .errorHandling s = .next ((s.errHandled e l).errQueued e) := by
  rw [exec_errorHandling_takes hr ha, State.handleError_queues (s := s.errTaken l) hd hn]
  rfl

/-- SAFE entry from RUN by the error controller. -/
theorem State.enterSafe_fromRun {x : State} (hi : x.Inv) (hm : x.mo.mode = .run) (cause : Nat) :
    (x.enterSafe cause).mo.mode = .safe ∧ (x.enterSafe cause).mo.cause = cause ∧ (x.enterSafe cause).ec.handling = [] ∧
      (x.enterSafe cause).ec.queue = [] ∧ (x.enterSafe cause).ec.lastCode = x.ec.lastCode := by
  have hs : x.mo.mode ≠ .safe := by simp [hm]
  have hk : x.mo.mode ≠ .keeper := by simp [hm]
  have hb : x.mo.mode ≠ .boot := by simp [hm]
  obtain ⟨hmode, hcause, -⟩ := State.enterSafe_mode hi hs hk hb cause
  exact ⟨hmode, hcause, State.enterSafe_ec hi hs hk hb cause⟩

theorem State.errRecord_mo {x : State} (hi : x.Inv) (code cls : Nat) : (x.errRecord code cls).mo = x.mo :=
  State.errRecord_moves.mo_kept hi rfl

theorem State.queueLost_effect {x : State} (hi : x.Inv) : (x.queueLost.raiseErr 0x0282 3).ec.queue = x.ec.queue ∧
    ⟨0x0282, 3⟩ ∈ (x.queueLost.raiseErr 0x0282 3).ec.arrivals := by
  refine ⟨?_, State.raiseErr_mem_arrivals _ _ _⟩
  have hec : (x.queueLost.handOff (0x0282 / 256) ⟨0x0282, 0, x.queueLost.now, 0, 0, 0, decide (3 ≤ 3)⟩).ec = x.queueLost.ec :=
    State.handOff_moves.ec_kept (show x.queueLost.Inv from hi) rfl
  exact congrArg (·.queue) hec

end

/-- Settles O53: Lets through the trigger and the restored mode; the code of the SDRAM through its syndromes; the warning, the slot
and the return through the store; the error controller through its cases (R357, R360, R361, R363, R368 to R377, R549). -/
theorem letsErrorsAndPowerFailsRunTheirCourse : Obligations.LetsErrorsAndPowerFailsRunTheirCourse := by
  unfold Obligations.LetsErrorsAndPowerFailsRunTheirCourse
  refine ⟨?triggers, ?inLet, ?captain, ?store, ?code, ?power, ?errors, ?ends⟩
  case triggers =>
    intro s hi hm
    refine ⟨?_, fun k hk ho => ?_, fun hc hb => ?_⟩
    · exact ⟨_, exec_letL1Trigger_triggers hm, State.letTrigger_stands hi 1⟩
    · obtain ⟨⟨hmode, hcause, hclass, hfrom, hcaptain⟩, harrived⟩ := State.letTrigger_raised hi (0x2000 + k) 2
      exact ⟨_, exec_letL2Trigger_triggers hm hk ho, hmode, hcause, hclass, hfrom, hcaptain, harrived⟩
    · obtain ⟨⟨hmode, -, hclass, -, hcaptain⟩, harrived⟩ := State.letTrigger_raised hi 0x0280 1
      exact ⟨_, exec_captainFault_triggers hm hc hb, hmode, hclass, hcaptain, harrived⟩
  case inLet =>
    intro s hi hm
    refine ⟨fun hclass => ⟨fun k hk ho => ?_, ?_⟩, fun hclass => ?_, fun hcut hgood hclass => ⟨?_, fun htwo hresumed => ?_⟩, fun hlate => ?_⟩
    · obtain ⟨hmode, htwo, harrived⟩ := State.letTwo_raised hi (0x2000 + k)
      exact ⟨_, exec_letL2Trigger_escalates hm hclass hk ho, hmode.trans hm, htwo, harrived⟩
    · obtain ⟨hmode, htwo, harrived⟩ := State.letTwo_raised hi 0x0280
      exact ⟨_, (exec_captainFault_inLet hm).trans (congrArg _ (if_pos hclass)), hmode.trans hm, htwo, harrived⟩
    · exact ⟨_, (exec_captainFault_inLet hm).trans (congrArg _ (if_neg (by omega))), State.raiseErr_mem_arrivals _ _ _⟩
    · obtain ⟨hready, hfrom, -⟩ := State.letReady_mo hi hgood
      obtain ⟨hmode, hcause, hover, hcaptain⟩ := State.letFinish_mo hready
      exact ⟨_, exec_letEnd_ends hi hm hcut hgood, hmode.trans hfrom, hcause, hover, hcaptain⟩
    · have hmo := State.letRestore_mo hi hgood
      exact ⟨_, exec_letEnd_resumes hm hcut htwo hresumed, (congrArg (·.mode) hmo).trans hm, congrArg (·.letResumed) hmo⟩
    · obtain ⟨hmode, hcause, hover⟩ := State.letBoundExceeded_effect hi hm
      exact ⟨_, exec_letBoundExceeded_late hm hlate, hmode, hcause, hover, State.raiseErr_mem_arrivals _ _ _⟩
  case captain =>
    intro s hi hm hb
    refine ⟨fun hc => ?_, fun hc howed hr hsent => ?_⟩
    · exact ⟨_, exec_captainFault_stops hm hc hb, congrArg (·.mode) (State.raiseErr_mo hi _ _), rfl,
        State.raiseErr_mem_arrivals _ _ _⟩
    · obtain ⟨hmode, hcaptain⟩ := State.captainBack_mo hi
      exact ⟨_, exec_captainRestartDone_restarts hm hb hc howed hr hsent, hmode, hcaptain⟩
  case store =>
    intro s b hi ho hb hnew
    obtain ⟨hbad, harrived⟩ := State.blockBad_effect hi hnew
    refine ⟨⟨_, exec_storeBlockError_failed ho hb, hbad, harrived⟩, fun x a hx => ?_, fun x j y hx => ?_, fun x hx => ?_⟩
    · have hgo := exec_storeBlockError_beat ho hb x
      rw [hx] at hgo
      refine ⟨_, hgo, ?_⟩
      rw [State.sdJudge_uncorrected (by simp [hx])]
      exact ⟨hbad, harrived⟩
    · have hgo := exec_storeBlockError_beat ho hb x
      rw [hx] at hgo
      exact ⟨_, hgo, State.sdJudge_corrected hx⟩
    · have hgo := exec_storeBlockError_beat ho hb x
      rw [hx] at hgo
      rw [hgo, State.sdJudge_uncorrected (by simp [hx])]
  case code =>
    intro addr data
    have hcode := sdWrite_codeword addr data
    refine ⟨sdRead_codeword hcode, fun lane e hlane he => ?_, fun k other hk hne hsame => ?_⟩
    · exact ⟨placeOf lane, (laneOf_placeOf hlane).1, sdRead_laneError (addr := addr) hcode hlane he⟩
    · exact sdRead_addrError (addr := addr) hcode hk hne hsame
  case power =>
    intro s hi hrails hreset
    refine ⟨fun hnone hwriting hm => ?_, fun w img us blk hw hsealed hgood => ⟨?_, ?_⟩, fun x hat hw hm hpf => ?_⟩
    · exact ⟨_, exec_powerFailWarning_cuts hi hrails hreset hnone hwriting hm, State.powerFailWarning_effect hi⟩
    · obtain ⟨hwriting, hstate, himage, hnewest⟩ := s.slotWritten_effect w img
      have hwritten : (s.slotWritten w img).Inv := State.slotWritten_inv hi w img
      have hcs := State.slotTold_cs (w := w) hwritten us
      exact ⟨_, exec_slotWriteDone_completes hw hsealed hgood us blk, (congrArg (·.writing) hcs).trans hwriting,
        (State.slotState_congr hcs _).trans hstate, (State.slotImage_congr hcs _).trans himage,
        (State.newestSlot_congr (congrArg (·.journal) hcs)).trans hnewest⟩
    · exact ⟨_, exec_slotWriteDone_fails hw hsealed hgood us blk, State.writeFailed_effect hi .failed blk⟩
    · exact ⟨_, exec_powerReturn_resumes hat hw hrails hm hpf, State.powerReturn_effect hi⟩
  case errors =>
    intro s e l hi hr ha hm
    have hhandled : (s.errHandled e l).Inv := hi
    refine ⟨fun hd hc => ?_, fun hc hn => ?_, fun hd hn => ⟨fun hh => ?_, fun h r hh hlt => ?_, fun h r hh hle hq => ?_,
      fun h r hh hle hq hovf => ?_⟩⟩
    · exact ⟨_, exec_errorHandling_enters hr ha hm hd hc, State.enterSafe_fromRun hhandled hm 9⟩
    · have hrecorded : (((s.errHandled e l).errRecord 0x0283 4).errNoted 0x0283).Inv := State.errRecord_moves.inv hhandled
      exact ⟨_, exec_errorHandling_nested hr ha hc hn,
        State.enterSafe_fromRun hrecorded ((congrArg (·.mode) (State.errRecord_mo hhandled _ _)).trans hm) 0xA⟩
    · obtain ⟨hhead, -, hlast, hmo⟩ := State.setHandling_effect hhandled [e] s.ec.queue
      exact ⟨_, (exec_errorHandling_queues hr ha hd hn).trans (congrArg _ (State.errQueued_first hh)), hhead, hlast,
        (congrArg (·.mode) hmo).trans hm⟩
    · obtain ⟨hhead, hqueue, -⟩ := State.setHandling_effect hhandled (e :: h :: r) s.ec.queue
      exact ⟨_, (exec_errorHandling_queues hr ha hd hn).trans (congrArg _ (State.errQueued_preempts hh hlt)), hhead, hqueue⟩
    · obtain ⟨hhead, hqueue, -⟩ := State.setHandling_effect hhandled (h :: r) (s.ec.queue ++ [e])
      exact ⟨_, (exec_errorHandling_queues hr ha hd hn).trans (congrArg _ (State.errQueued_waits hh hle hq)), hhead, hqueue⟩
    · obtain ⟨hqueue, harrived⟩ := State.queueLost_effect hhandled
      exact ⟨_, (exec_errorHandling_queues hr ha hd hn).trans (congrArg _ (State.errQueued_lost hh hle hq hovf)), hqueue, harrived⟩
  case ends =>
    intro s hi hlet
    refine ⟨fun h e q hh hq => ?_, fun h e r hh => ?_⟩
    · obtain ⟨hhead, hqueue, -⟩ := State.setHandling_effect hi [e] q
      exact ⟨_, (exec_errorHandlingEnd_ends hlet hh).trans (congrArg _ (State.endHead_serves hh hq)), hhead, hqueue⟩
    · obtain ⟨hhead, hqueue, -⟩ := State.setHandling_effect hi (e :: r) s.ec.queue
      exact ⟨_, (exec_errorHandlingEnd_ends hlet hh).trans (congrArg _ (State.endHead_resumes hh)), hhead, hqueue⟩

end Sys2Proof.Machine
end

