-- ==== Sys2Proof/Proofs/EventRing.lean ====
section
/-! The event recorder (R384 to R392): records and where they go, freezes and their drains, losses, last resort and recovery. -/

namespace Sys2Proof.Machine

open Sys2Proof

/-! A record goes to the ring, to the staging buffer, or to the last-resort ring. -/

/-- The recorder after a record went to the ring. -/
def State.ringed (s : State) (r : EvRec) : EvSt :=
  { s.ev with
    ring := (if s.ev.ring.length < ringCap then s.ev.ring else s.ev.ring.drop 1) ++ [(⟨s.ev.nextSeq, r⟩ : EvEntry)]
    nextSeq := seqNext s.ev.nextSeq, anyWritten := true, unarch := if s.arch then min ringCap (s.ev.unarch + 1) else 0 }

/-- Of the state, a record in the ring changes the recorder, and the archive's first page to write. -/
theorem State.evRing_eq (s : State) (r : EvRec) : ∃ ar, s.evRing r = { s with ev := s.ringed r, ar := ar } := by
  unfold State.evRing
  extract_lets kept ev s1
  split
  · exact ⟨_, rfl⟩
  · exact ⟨s.ar, rfl⟩

theorem State.ringed_getLast (s : State) (r : EvRec) : (s.ringed r).ring.getLast? = some ⟨s.ev.nextSeq, r⟩ :=
  List.getLast?_concat

theorem State.evWrite_ring {s : State} (hl : s.ev.lr = false) (hf : s.ev.frozen = none) (hn : s.evFull 1 = false) (r : EvRec) :
    s.evWrite r = s.evRing r := by
  simp [State.evWrite, hl, hf, hn]

theorem State.evWrite_stage {s : State} (hl : s.ev.lr = false) (hf : s.ev.frozen.isSome = true) (r : EvRec) :
    s.evWrite r = s.evStage r := by
  simp [State.evWrite, hl, hf]

theorem State.evWrite_last {s : State} (hl : s.ev.lr = true) (r : EvRec) : s.evWrite r = s.evLast r := if_pos hl

/-- A priority record that the last-resort ring has room for. -/
theorem State.evLast_room {s : State} {r : EvRec} (hp : r.prio = true) (hn : s.kp.lring.length < 511) : s.evLast r =
    { s with
      kp := { s.kp with lring := s.kp.lring ++ [(⟨s.ev.nextSeq, r⟩ : EvEntry)] }
      ev := { s.ev with nextSeq := seqNext s.ev.nextSeq, anyWritten := true } } :=
  (if_neg (by simp [hp])).trans (if_pos hn)

/-- Another record is counted. -/
theorem State.evLast_other {s : State} {r : EvRec} (hp : r.prio = false) : s.evLast r =
    { s with kp := { s.kp with
      npLost := satAdd 0xFFFFFFFF s.kp.npLost 1, npFirst := if s.kp.npLost = 0 then r.time else s.kp.npFirst, npLast := r.time } } :=
  if_pos (by simp [hp])

theorem State.evStage_room {s : State} {r : EvRec} (hn : s.ev.staging.length < 3840 ∨ s.ev.staging.length < 4096 ∧ r.prio = true) :
    s.evStage r = { s with ev := { s.ev with staging := s.ev.staging ++ [r] } } := by
  have htaken : (decide (s.ev.staging.length < stageAny) || (decide (s.ev.staging.length < stageCap) && r.prio)) = true := by
    rw [Bool.or_eq_true, Bool.and_eq_true, decide_eq_true_iff, decide_eq_true_iff]
    exact hn
  exact if_pos htaken

/-- The archive leaves room for what is to be written. -/
theorem State.evFull_false {s : State} {n : Nat} : s.evFull n = false ↔ (s.arch = true → s.ev.unarch + n ≤ ringCap) := by
  unfold State.evFull
  cases s.arch <;> simp

/-- A state whose ring has frozen. -/
def State.frozenAs (s : State) (cause : Nat) : State := { s with ev := { s.ev with frozen := some cause, freezeAt := s.elapsed } }

theorem State.evFreeze_ring {s : State} (hl : s.ev.lr = false) (hf : s.ev.frozen = none) (hn : s.evFull 1 = false) (cause : Nat) :
    s.evFreeze cause = (s.evRing (freezeRec s cause)).frozenAs cause :=
  (if_neg (by simp [hl, hf])).trans (if_neg (by simp [hn]))

/-- A ring that takes no more records freezes with its EV_FREEZE record staged. -/
theorem State.evFreeze_full {s : State} (hl : s.ev.lr = false) (hf : s.ev.frozen = none) (hn : s.evFull 1 = true) (cause : Nat) :
    s.evFreeze cause = (s.frozenAs cause).evStage (freezeRec s cause) :=
  (if_neg (by simp [hl, hf])).trans (if_pos hn)

/-- With nothing staged before, a full ring freezes with cause 3 and stages the record of it. -/
theorem State.evFreeze_lag {s : State} (hl : s.ev.lr = false) (hf : s.ev.frozen = none) (hn : s.evFull 1 = true)
    (he : s.ev.staging = []) :
    s.evFreeze 3 = { s with ev := { s.ev with frozen := some 3, freezeAt := s.elapsed, staging := [freezeRec s 3] } } := by
  have hroom : (s.frozenAs 3).ev.staging.length < 3840 ∨ (s.frozenAs 3).ev.staging.length < 4096 ∧ (freezeRec s 3).prio = true :=
    .inl (by show s.ev.staging.length < 3840; rw [he]; decide)
  rw [State.evFreeze_full hl hf hn, State.evStage_room hroom]
  show ({ s with ev := { s.ev with frozen := _, freezeAt := _, staging := s.ev.staging ++ _ } } : State) = _
  rw [he]
  rfl

/-! EV_FREEZE, EV_RELEASE (R387). -/

/-- EV_FREEZE has frozen the ring, and its copy runs. -/
def State.copyBegun (s : State) (c : Cmd) : State :=
  let frozen := s.evFreeze 1
  { frozen with ev := { frozen.ev with
    copy := some ⟨c.ref, (fromSeq frozen.ev.ring (c.par 0).toNat).take (c.par 1).toNat, seqPrev frozen.ev.nextSeq, false⟩ } }

section
variable {s : State} {ring idx : Nat} {c : Cmd}

theorem exec_evFreeze_starts (hr : s.Ready ring idx c) (hb : c.WithBuffer opEvFreeze 1 8) (hlen : c.bufLen = 32 * (c.par 1).toNat)
    (hobj : c.objid = evCtlObj) (hfirst : (c.par 0).toNat = 0xFFFFFFFF) (hm : s.inMode modesTrain = true) (hl : s.ev.lr = false)
    (hf : s.ev.frozen = none) (hd : s.ev.drain = none) (hcopy : s.ev.copy = none) (reached : Nat) (ok : Bool) :
    exec (.evFreeze ring idx reached ok) s = .next ((s.copyBegun c).start c) := by
  show execEvFreeze ring idx reached ok s = _
  have hno : s.copyAt ring idx = none := by rw [State.copyAt, hcopy]
  have hv : s.verdict c
      { form := c.buffer 1 8 && c.bufLen == 32 * (c.par 1).toNat
        bad := if c.objid != evCtlObj || ((c.par 0).toNat != 0xFFFFFFFF && (fromSeq s.ev.ring (c.par 0).toNat).isEmpty) then
            some (c.objid, 0) else none
        auth := false
        modes := s.inMode modesTrain
        own := if s.ev.lr then some (.modeForbids, s.cmdMode.code, 0)
          else if s.ev.frozen.isSome || s.ev.drain.isSome then some (.busyRetry, 0, 0)
          else none } = none := by
    rw [hr.verdict_buffer hb (by simp [hb.buffer, hlen]) rfl (by simp [hobj, hfirst]) rfl hm]
    simp [hl, hf, hd]
  unfold execEvFreeze
  rw [hno]
  exact hr.runCmd hb.isOp hv

theorem State.copyBegun_effect (hl : s.ev.lr = false) (hf : s.ev.frozen = none) (hn : s.evFull 1 = false)
    (hfirst : (c.par 0).toNat = 0xFFFFFFFF) :
    (s.copyBegun c).mb = s.mb ∧ (s.copyBegun c).ev.frozen = some 1 ∧
      (s.copyBegun c).ev.ring.getLast? = some ⟨s.ev.nextSeq, freezeRec s 1⟩ ∧
      (s.copyBegun c).ev.copy =
        some ⟨c.ref, (s.copyBegun c).ev.ring.take (c.par 1).toNat, seqPrev (s.copyBegun c).ev.nextSeq, false⟩ := by
  obtain ⟨ar, hring⟩ := s.evRing_eq (freezeRec s 1)
  have hall : ∀ l : List EvEntry, fromSeq l (c.par 0).toNat = l := fun l => if_pos hfirst
  unfold State.copyBegun
  rw [State.evFreeze_ring hl hf hn, hring]
  exact ⟨rfl, rfl, s.ringed_getLast _, by simp only [hall]⟩

theorem exec_evFreeze_ends {x : EvCopy} (hcopy : s.ev.copy = some x) (hx : x.cmd = c.ref) (hfind : s.findCmd c.ring c.order = some c)
    (hon : s.evOn = true) (hrun : s.cmdsRun = true) (hreach : s.bufReach c = true) {reached : Nat} (hn : x.recs.length ≤ reached) :
    exec (.evFreeze c.ring c.idx reached true) s = .next (s.evCopied c x reached) := by
  show execEvFreeze c.ring c.idx reached true s = _
  have hat : s.copyAt c.ring c.idx = some (x, c) := by
    have hfound : s.findCmd x.cmd.1 x.cmd.2 = some c := by rw [hx]; exact hfind
    rw [State.copyAt, hcopy]
    simp [hfound, Cmd.isAt]
  unfold execEvFreeze
  rw [hat]
  simp [hon, hrun, hreach, hn]

theorem State.evCopied_effect (hc : c ∈ s.mb.inflight) (hu : c.undecided = true) {x : EvCopy} {reached : Nat}
    (hn : x.recs.length ≤ reached) :
    (s.evCopied c x reached).ev.copy = none ∧
      (s.evCopied c x reached).mb.lastDma = some ⟨c.bufLoc, c.bufAddr, x.recs.flatMap EvEntry.words⟩ ∧
      (s.evCopied c x reached).Outcome c .ok (((x.recs.head?).map (·.seq)).getD 0) x.recs.length x.seq 0 (some s.now) := by
  have hall : x.recs.take reached = x.recs := List.take_of_length_le hn
  unfold State.evCopied
  rw [hall]
  refine ⟨rfl, rfl, ?_⟩
  have hc' : c ∈ (State.dmaOut { s with ev := { s.ev with copy := none } } c.bufLoc c.bufAddr
      (x.recs.flatMap EvEntry.words)).mb.inflight := hc
  exact State.done_outcome hc' hu _ _ _ _

theorem exec_evRelease_goes (hr : s.Ready ring idx c) (hp : c.Plain opEvRelease 0) (hobj : c.objid = evCtlObj)
    (hm : s.inMode modesAll = true) :
    exec (.evRelease ring idx) s =
      .next (if s.ev.frozen == some 1 then (s.evThaw 1).done c 0 0 0 0 else s.answer c 0 0 0 0) := by
  show execEvRelease ring idx s = _
  have hv : s.verdict c
      { form := !c.buf
        bad := if c.objid != evCtlObj then some (c.objid, 0) else none
        auth := false
        modes := s.inMode modesAll } = none :=
    State.verdict_own hr hp (by simp [hp.buf]) rfl (by simp [hobj]) (fun h => Bool.noConfusion h) hm
  exact hr.runCmd hp.isOp hv

end

/-- A freeze that ends leaves its drain to come. -/
theorem State.evThaw_eq {s : State} (hf : s.ev.frozen.isSome = true) (cause : Nat) : s.evThaw cause =
    { s with ev := { s.ev with frozen := none, drain := some cause, copy := s.ev.copy.map (fun c => { c with ended := true }) } } :=
  if_pos hf

/-! A record handed over (R384, R385, R388, R391). -/

/-- The recorder took the oldest record of a FIFO. -/
def State.recordTaken (s : State) (fifo : Nat) (l : List EvRec) : State :=
  { s with ev := { s.ev with fifo := mset (fun _ => []) fifo l s.ev.fifo } }

section
variable {s : State} {fifo : Nat} {r : EvRec} {l : List EvRec}

theorem exec_eventRecordWrite_writes (hh : s.handedOver fifo = r :: l) (hon : s.evOn = true) (hd : s.ev.drain = none) :
    exec (.eventRecordWrite fifo) s = .next ((s.recordTaken fifo l).evWrite r) := by
  show execEventRecordWrite fifo s = _
  have hread : mget (fun _ => []) s.ev.fifo fifo = r :: l := hh
  unfold execEventRecordWrite
  rw [hread]
  exact if_pos (by simp [hon, hd])

theorem State.recordTaken_handedOver (hi : s.Inv) (fifo : Nat) (l : List EvRec) : (s.recordTaken fifo l).handedOver fifo = l :=
  mget_mset_same _ _ _ hi.2.1

end

/-! A loss in a hand-off FIFO (R385). -/

/-- The record HANDOFF_LOST of a FIFO. -/
def lossRec (fifo : Nat) (l : Loss) : EvRec :=
  ⟨0x3003, if fifo = 0 then 0x10 else fifo, l.first, l.cnt, l.last.sec % 2 ^ 32, l.last.ns, true⟩

/-- The loss is noted, and counted from anew. -/
def State.lossTaken (s : State) (fifo : Nat) : State :=
  { s with ev := { s.ev with loss := mset (fun _ => Loss.none) fifo Loss.none s.ev.loss } }

theorem exec_handoffLost_tells {s : State} {fifo : Nat} {l : Loss} (hon : s.evOn = true) (hd : s.ev.drain = none)
    (hl : mget (fun _ => Loss.none) s.ev.loss fifo = l) (hc : l.cnt ≠ 0) (hn : 2 * (s.handedOver fifo).length < fifoCap fifo) :
    exec (.handoffLost fifo) s =
      .next ((lossRec fifo l).error (((s.lossTaken fifo).evWrite (lossRec fifo l)).evLost l.cnt) 3 1) := by
  show execHandoffLost fifo s = _
  have hread : 2 * (mget (fun _ => []) s.ev.fifo fifo).length < fifoCap fifo := hn
  unfold execHandoffLost
  rw [hl]
  exact if_pos (by simp [hon, hd, hc, hread])

/-- An error of the recorder itself arrives, and changes nothing of the recorder. -/
theorem EvRec.error_effect {s : State} (hi : s.Inv) (r : EvRec) (code cls : Nat) :
    (r.error s code cls).ev = s.ev ∧ (r.error s code cls).kp = s.kp ∧ ⟨0x3000 + code, cls⟩ ∈ (r.error s code cls).ec.arrivals := by
  refine ⟨State.evError_ev hi _ _ _ _ _ _, (State.evError_moves.keep hi .kp rfl).symm, ?_⟩
  have hec : (s.evError code cls r.time r.par0 r.par1 r.par2).ec = (s.arrive (0x3000 + code) cls).ec :=
    State.deliverOrHold_ec (State.arrive_moves.inv hi) _
  rw [EvRec.error, hec]
  exact List.mem_append_right _ (List.mem_singleton.2 rfl)

theorem State.lossTold_effect {s : State} (hi : s.Inv) (hok : mapOk (fun _ => Loss.none) s.ev.loss = true) (hl : s.ev.lr = false)
    (hf : s.ev.frozen = none) (hn : s.evFull 1 = false) (fifo : Nat) (l : Loss) :
    let t := (lossRec fifo l).error (((s.lossTaken fifo).evWrite (lossRec fifo l)).evLost l.cnt) 3 1
    mget (fun _ => Loss.none) t.ev.loss fifo = Loss.none ∧ t.ev.ring.getLast? = some ⟨s.ev.nextSeq, lossRec fifo l⟩ ∧
      t.ev.lost = satAdd 0xFFFFFFFF s.ev.lost l.cnt ∧ ⟨0x3003, 1⟩ ∈ t.ec.arrivals := by
  intro t
  have htaken : (s.lossTaken fifo).Inv := hi
  have hwritten : (((s.lossTaken fifo).evWrite (lossRec fifo l)).evLost l.cnt).Inv :=
    State.evLost_moves.inv (State.evWrite_moves.inv htaken)
  obtain ⟨hev, -, harrived⟩ := EvRec.error_effect hwritten (lossRec fifo l) 3 1
  obtain ⟨ar, hring⟩ := (s.lossTaken fifo).evRing_eq (lossRec fifo l)
  have hwrite : (s.lossTaken fifo).evWrite (lossRec fifo l) =
      { s.lossTaken fifo with ev := (s.lossTaken fifo).ringed (lossRec fifo l), ar := ar } :=
    (State.evWrite_ring (s := s.lossTaken fifo) hl hf hn _).trans hring
  refine ⟨?_, ?_, ?_, harrived⟩
  · rw [hev, hwrite]
    exact mget_mset_same _ _ _ hok
  · rw [hev, hwrite]
    exact (s.lossTaken fifo).ringed_getLast _
  · rw [hev, hwrite]
    rfl

/-! Freezes end (R386, R387, R388). -/

theorem exec_freezeLimitExpiry_due {s : State} (hon : s.evOn = true) (hf : s.ev.frozen = some 1) (hl : s.mo.letClass = 0)
    (hd : s.ev.freezeAt + 400000000 ≤ s.elapsed) : exec .freezeLimitExpiry s = .next (s.evThaw 2) :=
  if_pos (by rw [hf, hl, hon, decide_eq_true hd]; rfl)

theorem exec_archiveLagFreeze_freezes {s : State} (hon : s.evOn = true) (hl : s.ev.lr = false) (hf : s.ev.frozen = none)
    (hn : s.evFull 1 = true) : exec .archiveLagFreeze s = .next (s.evFreeze 3) := by
  show execArchiveLagFreeze s = _
  simp [execArchiveLagFreeze, hon, hl, hf, hn]

theorem exec_archiveLagFreeze_thaws {s : State} (hon : s.evOn = true) (hl : s.ev.lr = false) (hf : s.ev.frozen = some 3)
    (hn : s.ev.unarch + 4096 ≤ ringCap) : exec .archiveLagFreeze s = .next (s.evThaw 4) := by
  show execArchiveLagFreeze s = _
  simp [execArchiveLagFreeze, hon, hl, hf, hn]

/-- The staged records and the end of the freeze are to be written, nothing else. -/
def State.stagingTaken (s : State) : State :=
  { s with ev := { s.ev with drain := none, staging := [], stLoss := Loss.none, stPrioLost := 0 } }

theorem exec_freezeDrain_one {s : State} (hon : s.evOn = true) {cause : Nat} (hd : s.ev.drain = some cause) {r : EvRec}
    (hst : s.ev.staging = [r]) (hloss : s.ev.stLoss.cnt = 0) (hn : s.evFull 3 = false) :
    exec .freezeDrain s = .next ((s.stagingTaken.evWrite r).evWrite ⟨0xB002, 0, s.now, cause, 1, 0, true⟩) := by
  have hunstage : State.evUnstage { s with ev := { s.ev with drain := none } } = s.stagingTaken.evWrite r := by
    have hwritten : s.ev.staging.foldl State.evWrite s.stagingTaken = s.stagingTaken.evWrite r := by rw [hst]; rfl
    exact (if_pos hloss).trans hwritten
  have hroom : s.evFull (s.ev.staging.length + 2) = false := by rw [hst]; exact hn
  refine (if_pos hon).trans (congrArg _ ?_)
  unfold State.evDrain
  rw [hd]
  dsimp only
  rw [if_neg (by simp [hroom]), hunstage, hst, hloss]
  rfl

/-- Two records in a row fill the ring by two, where it has room for both. -/
theorem State.evWrite_two {s : State} (hl : s.ev.lr = false) (hf : s.ev.frozen = none) (hn : s.evFull 2 = false)
    (hroom : s.ev.ring.length + 2 ≤ ringCap) (r q : EvRec) :
    ((s.evWrite r).evWrite q).ev.drain = s.ev.drain ∧ ((s.evWrite r).evWrite q).ev.staging = s.ev.staging ∧
      ((s.evWrite r).evWrite q).ev.ring = s.ev.ring ++ [⟨s.ev.nextSeq, r⟩, ⟨seqNext s.ev.nextSeq, q⟩] := by
  obtain ⟨ar, hone⟩ := s.evRing_eq r
  have hfull := State.evFull_false.1 hn
  have hwrite : s.evWrite r = { s with ev := s.ringed r, ar := ar } :=
    (State.evWrite_ring hl hf (State.evFull_false.2 fun h => by have := hfull h; omega) r).trans hone
  obtain ⟨ar', htwo⟩ := State.evRing_eq { s with ev := s.ringed r, ar := ar } q
  have hlater : State.evFull { s with ev := s.ringed r, ar := ar } 1 = false := by
    refine State.evFull_false.2 fun h => ?_
    have harch : s.arch = true := h
    have := hfull harch
    show (if s.arch then min ringCap (s.ev.unarch + 1) else 0) + 1 ≤ ringCap
    rw [if_pos harch]
    omega
  have hfirst : (s.ringed r).ring = s.ev.ring ++ [⟨s.ev.nextSeq, r⟩] := by
    show (if s.ev.ring.length < ringCap then s.ev.ring else _) ++ _ = _
    rw [if_pos (by omega)]
  rw [hwrite, State.evWrite_ring (s := { s with ev := s.ringed r, ar := ar }) hl hf hlater, htwo]
  refine ⟨rfl, rfl, ?_⟩
  show (if (s.ringed r).ring.length < ringCap then (s.ringed r).ring else _) ++ _ = _
  rw [hfirst, if_pos (by simp; omega), List.append_assoc]
  rfl

/-! Last resort (R390, R391). -/

/-- In last-resort operation the operation, its reason and the freeze stand, and of the last-resort ring the first 511 entries. -/
def State.KeepsLast (s t : State) : Prop :=
  s.Inv → s.ev.lr = true → t.Inv ∧ t.ev.lr = true ∧ t.ev.logDeg = s.ev.logDeg ∧ t.ev.frozen = s.ev.frozen ∧
    ∀ i e, i < 511 → s.kp.lring[i]? = some e → t.kp.lring[i]? = some e

theorem State.KeepsLast.trans {a b c : State} (h1 : a.KeepsLast b) (h2 : b.KeepsLast c) : a.KeepsLast c := fun hi hl => by
  obtain ⟨hib, hlb, hdeg, hfrozen, hring⟩ := h1 hi hl
  obtain ⟨hic, hlc, hdeg', hfrozen', hring'⟩ := h2 hib hlb
  exact ⟨hic, hlc, hdeg'.trans hdeg, hfrozen'.trans hfrozen, fun i e h he => hring' i e h (hring i e h he)⟩

theorem State.KeepsLast.of_ev {s t : State} (hi : s.Inv → t.Inv) (he : s.Inv → t.ev = s.ev) (hk : s.Inv → t.kp = s.kp) : s.KeepsLast t :=
  fun hs hl => ⟨hi hs, by rw [he hs, hl], by rw [he hs], by rw [he hs], fun _ _ _ h => by rw [hk hs]; exact h⟩

theorem State.keepsLast_error (s : State) (r : EvRec) (code cls : Nat) : s.KeepsLast (r.error s code cls) :=
  .of_ev (fun hi => State.evError_moves.inv hi) (fun hi => (EvRec.error_effect hi r code cls).1)
    (fun hi => (EvRec.error_effect hi r code cls).2.1)

theorem State.keepsLast_evLast (s : State) (r : EvRec) : s.KeepsLast (s.evLast r) := fun hi hl => by
  have hlast : (s.evLast r).Inv := State.evLast_moves.inv hi
  refine ⟨hlast, (State.evLast_lr hi r).trans hl, ?_⟩
  unfold State.evLast
  split
  · exact ⟨rfl, rfl, fun _ _ _ h => h⟩
  · split
    · refine ⟨rfl, rfl, fun i e _ h => ?_⟩
      exact (List.getElem?_append_left (List.getElem?_eq_some_iff.1 h).1).trans h
    · extract_lets t first p a t0 seq e kpOld kp evOld s1 s2
      have hkept : ∀ i x, i < 511 → s.kp.lring[i]? = some x → kp.lring[i]? = some x := fun i x hlt h => by
        have htake : (s.kp.lring.take 511)[i]? = some x := by rw [List.getElem?_take, if_pos hlt, h]
        exact (List.getElem?_append_left (List.getElem?_eq_some_iff.1 htake).1).trans htake
      have hs2 : s2.Inv := hi
      split
      · rw [State.evError_ev hs2, ← State.evError_moves.keep hs2 .kp rfl]
        exact ⟨rfl, rfl, hkept⟩
      · exact ⟨rfl, rfl, hkept⟩

theorem State.keepsLast_evWrite (s : State) (r : EvRec) : s.KeepsLast (s.evWrite r) := fun hi hl => by
  rw [State.evWrite_last hl]
  exact s.keepsLast_evLast r hi hl

theorem State.keepsLast_evWrites : ∀ (l : List EvRec) (s : State), s.KeepsLast (l.foldl State.evWrite s)
  | [], _ => fun hi hl => ⟨hi, hl, rfl, rfl, fun _ _ _ h => h⟩
  | r :: l, s => (s.keepsLast_evWrite r).trans (State.keepsLast_evWrites l _)

/-- Records that were staged follow into the last-resort ring. -/
theorem State.keepsLast_evUnstage (s : State) : s.KeepsLast s.evUnstage := by
  unfold State.evUnstage
  extract_lets l r ev s0 s1
  have h0 : s.KeepsLast s0 := fun hi hl => ⟨hi, hl, rfl, rfl, fun _ _ _ h => h⟩
  have h1 : s.KeepsLast s1 := h0.trans (State.keepsLast_evWrites _ _)
  split
  · exact h1
  · have hlost : ∀ x : State, x.KeepsLast (x.evLost l.cnt) := fun x hi hl => ⟨hi, hl, rfl, rfl, fun _ _ _ h => h⟩
    exact ((h1.trans (s1.keepsLast_evWrite r)).trans (hlost _)).trans (State.keepsLast_error _ _ _ _)

/-- Last-resort operation has begun, with nothing written yet. -/
def State.lastBegun (s : State) : State :=
  { s with ev := { s.ev with
    lr := true, logDeg := true, frozen := none, drain := none, copy := s.ev.copy.map (fun c => { c with ended := true }) } }

/-- The record of last-resort operation. -/
def State.lastRec (s : State) (cause p1 : Nat) : EvRec := ⟨0x3002, 0, s.now, cause, p1 % 2 ^ 32, seqPrev s.ev.nextSeq, true⟩

theorem State.evLastResort_eq {s : State} (hl : s.ev.lr = false) (cause p1 : Nat) : s.evLastResort cause p1 true =
    ((s.lastRec cause p1).error (s.lastBegun.evLast (s.lastRec cause p1)) 2 2).evUnstage := by
  unfold State.evLastResort
  rw [if_neg (by simp [hl])]
  rfl

theorem State.evLastResort_effect {s : State} (hi : s.Inv) (hl : s.ev.lr = false) (hn : s.kp.lring.length < 511) (cause p1 : Nat) :
    let t := s.evLastResort cause p1 true
    t.ev.lr = true ∧ t.ev.logDeg = true ∧ t.ev.frozen = none ∧ ⟨s.ev.nextSeq, s.lastRec cause p1⟩ ∈ t.kp.lring ∧
      ⟨0x3002, 2⟩ ∈ t.ec.arrivals := by
  intro t
  have ht : t = ((s.lastRec cause p1).error (s.lastBegun.evLast (s.lastRec cause p1)) 2 2).evUnstage := State.evLastResort_eq hl cause p1
  have hfirst := State.evLast_room (s := s.lastBegun) (r := s.lastRec cause p1) rfl hn
  have hlast : (s.lastBegun.evLast (s.lastRec cause p1)).Inv := State.evLast_moves.inv (s := s.lastBegun) hi
  have htold : ((s.lastRec cause p1).error (s.lastBegun.evLast (s.lastRec cause p1)) 2 2).Inv := State.evError_moves.inv hlast
  have hlr : (s.lastBegun.evLast (s.lastRec cause p1)).ev.lr = true := by rw [hfirst]; rfl
  obtain ⟨-, hlr', hdeg, hfrozen, hring⟩ :=
    ((State.keepsLast_error _ (s.lastRec cause p1) 2 2).trans (State.keepsLast_evUnstage _)) hlast hlr
  obtain ⟨-, -, harrived⟩ := EvRec.error_effect hlast (s.lastRec cause p1) 2 2
  rw [ht]
  refine ⟨hlr', hdeg.trans ?_, hfrozen.trans ?_, ?_, State.evUnstage_moves.arrived htold rfl harrived⟩
  · rw [hfirst]
    rfl
  · rw [hfirst]
    rfl
  · refine List.mem_of_getElem? (hring s.kp.lring.length _ hn ?_)
    rw [hfirst]
    exact List.getElem?_concat_length

theorem exec_lastResortEntry_block {s : State} (hon : s.evOn = true) (first : Nat) :
    exec (.lastResortEntry 1 first) s = .next (s.evLastResort 1 first true) := by
  show execLastResortEntry 1 first s = _
  simp [execLastResortEntry, hon]

/-! Recovery (R392). -/

/-- A recovery was asked for, and is under way. -/
def State.recoverTaken (s : State) : State := { s with ev := { s.ev with rcvReq := false } }

section
variable {s : State}

theorem exec_evRecover_judged (hon : s.evOn = true) (hl : s.ev.lr = true) (hlet : s.mo.letClass = 0) (hm : s.inMode modesCrs = true)
    (ok : Bool) : exec (.evRecover ok) s = .next
      (if !ok then { s.recoverTaken with ev := { s.recoverTaken.ev with rcv := 2 } }
      else if s.arch && s.arLives.isEmpty then { s.recoverTaken with ev := { s.recoverTaken.ev with rcv := 3 } }
      else s.recoverTaken.evRecovered) := by
  show execEvRecover ok s = _
  unfold execEvRecover
  rw [if_pos (by simp [hon, hl, hlet, hm])]
  cases ok
  · rfl
  · show (if (s.arch && s.arLives.isEmpty) = true then _ else _ : Res) = .next (if (s.arch && s.arLives.isEmpty) = true then _ else _)
    cases s.arch && s.arLives.isEmpty <;> rfl

/-- The records of the last-resort ring are back in the ring, and it is empty. -/
def State.recordsBack (s : State) : State :=
  { s with
    ev := { s.ev with
      ring := s.ev.ring.drop (s.ev.ring.length - (ringCap - s.kp.lring.length)) ++ s.kp.lring, lr := false, logDeg := false, rcv := 1
      rcvReq := false, unarch := if s.arch then min ringCap (s.ev.unarch + s.kp.lring.length) else 0 }
    kp := { s.kp with lring := [], npLost := 0, npFirst := ⟨0, 0⟩, npLast := ⟨0, 0⟩, lrPrioLost := 0, lrLost := 0 } }

/-- The record EV_RECOVERED. -/
def State.recoveredRec (s : State) : EvRec :=
  ⟨0xB004, 0, s.now, ((s.kp.lring.head?).map (·.seq)).getD 0, ((s.kp.lring.getLast?).map (·.seq)).getD 0, 0, true⟩

theorem State.evRecovered_lossless (hn : s.kp.npLost = 0) : s.evRecovered = s.recordsBack.evWrite s.recoveredRec := by
  unfold State.evRecovered
  extract_lets l n room ev kp s1 o s2
  have hs2 : s2 = s1 := if_pos hn
  rw [hs2]
  rfl

theorem State.evRecovered_effect (ha : s.arch = false) (hf : s.ev.frozen = none) (hn : s.kp.npLost = 0) :
    s.evRecovered.ev.rcv = 1 ∧ s.evRecovered.ev.lr = false ∧ s.evRecovered.kp.lring = [] ∧
      s.evRecovered.ev.ring.getLast? = some ⟨s.ev.nextSeq, s.recoveredRec⟩ := by
  obtain ⟨ar, hring⟩ := s.recordsBack.evRing_eq s.recoveredRec
  have hroom : s.recordsBack.evFull 1 = false := State.evFull_false.2 fun h => by
    have harch : s.arch = true := h
    simp [ha] at harch
  rw [State.evRecovered_lossless hn, State.evWrite_ring (s := s.recordsBack) rfl hf hroom, hring]
  exact ⟨rfl, rfl, rfl, s.recordsBack.ringed_getLast _⟩

end

/-- Settles O54: a record goes where the recorder's state sends it, freezes and drains through that, and in last-resort operation
what stands in the last-resort ring stays (R384 to R392). -/
theorem eventRecordsFreezesAndLastResortAct : Obligations.EventRecordsFreezesAndLastResortAct := by
  unfold Obligations.EventRecordsFreezesAndLastResortAct
  refine ⟨?freeze, ?copied, ?release, ?record, ?loss, ?ends, ?lastResort, ?recover⟩
  case freeze =>
    intro s ring idx reached ok c hi hr hb hlen hobj hfirst hm hl hf hd hcopy hn
    obtain ⟨hmb, hfrozen, hring, hrun⟩ := State.copyBegun_effect (c := c) hl hf hn hfirst
    have hc : c ∈ (s.copyBegun c).mb.inflight := by rw [hmb]; exact hr.mem
    exact ⟨_, exec_evFreeze_starts hr hb hlen hobj hfirst hm hl hf hd hcopy reached ok, State.setPhase_mem hc hr.undecided _, hfrozen,
      hring, hrun⟩
  case copied =>
    intro s reached c x hi hcopy hx hfind hu hon hrun hreach hn
    exact ⟨_, exec_evFreeze_ends hcopy hx hfind hon hrun hreach hn, State.evCopied_effect (List.mem_of_find?_eq_some hfind) hu hn⟩
  case release =>
    intro s ring idx c hi hr hp hobj hm
    refine ⟨_, exec_evRelease_goes hr hp hobj hm, fun hf => ?_, fun hf => ?_⟩
    · rw [if_pos (by simp [hf]), State.evThaw_eq (by simp [hf])]
      exact ⟨rfl, rfl, State.done_outcome (s := { s with ev := _ }) hr.mem hr.undecided _ _ _ _⟩
    · rw [if_neg (by simpa using hf)]
      exact ⟨rfl, State.answer_outcome hr.mem hr.undecided _ _ _ _⟩
  case record =>
    intro s fifo r l hi hh hon hd
    have hgo := exec_eventRecordWrite_writes hh hon hd
    have htaken := State.recordTaken_handedOver hi fifo l
    refine ⟨fun hl hf hn => ?_, fun hl hf hn hst => ?_, fun hl hf hroom => ?_, fun hl hprio hroom => ?_, fun hl hprio => ?_⟩
    · obtain ⟨ar, hring⟩ := (s.recordTaken fifo l).evRing_eq r
      rw [State.evWrite_ring (s := s.recordTaken fifo l) hl hf hn, hring] at hgo
      exact ⟨_, hgo, htaken, (s.recordTaken fifo l).ringed_getLast r, rfl⟩
    · have hlag := State.evFreeze_lag (s := s.recordTaken fifo l) hl hf hn hst
      have hwrite : (s.recordTaken fifo l).evWrite r = ((s.recordTaken fifo l).evFreeze 3).evStage r := by
        have hl' : (s.recordTaken fifo l).ev.lr = false := hl
        have hf' : (s.recordTaken fifo l).ev.frozen = none := hf
        have hn' : (s.recordTaken fifo l).evFull 1 = true := hn
        simp [State.evWrite, hl', hf', hn']
      have hone : ((s.recordTaken fifo l).evFreeze 3).ev.staging.length < 3840 := by rw [hlag]; show 1 < 3840; decide
      rw [hwrite, State.evStage_room (.inl hone), hlag] at hgo
      exact ⟨_, hgo, htaken, rfl, rfl, rfl⟩
    · rw [State.evWrite_stage (s := s.recordTaken fifo l) hl hf, State.evStage_room (s := s.recordTaken fifo l) hroom] at hgo
      exact ⟨_, hgo, htaken, rfl, rfl⟩
    · rw [State.evWrite_last (s := s.recordTaken fifo l) hl, State.evLast_room (s := s.recordTaken fifo l) hprio hroom] at hgo
      exact ⟨_, hgo, rfl, rfl⟩
    · rw [State.evWrite_last (s := s.recordTaken fifo l) hl, State.evLast_other hprio] at hgo
      exact ⟨_, hgo, rfl, rfl, rfl, rfl⟩
  case loss =>
    intro s fifo l hi hok hon hd hl hf hn hloss hc hroom
    exact ⟨_, exec_handoffLost_tells hon hd hloss hc hroom, State.lossTold_effect hi hok hl hf hn fifo l⟩
  case ends =>
    intro s hi hon
    refine ⟨fun hf hlet hdue => ?_, fun cause r hd hl hf hn hst hloss hroom => ?_, fun hl hf hn hst => ?_, fun hl hf hn => ?_⟩
    · refine ⟨_, exec_freezeLimitExpiry_due hon hf hlet hdue, ?_⟩
      rw [State.evThaw_eq (by simp [hf])]
      exact ⟨rfl, rfl⟩
    · have hfull : s.evFull 2 = false := State.evFull_false.2 fun h => by have := State.evFull_false.1 hn h; omega
      exact ⟨_, exec_freezeDrain_one hon hd hst hloss hn, State.evWrite_two (s := s.stagingTaken) hl hf hfull hroom _ _⟩
    · refine ⟨_, exec_archiveLagFreeze_freezes hon hl hf hn, ?_⟩
      rw [State.evFreeze_lag hl hf hn hst]
      exact ⟨rfl, rfl⟩
    · refine ⟨_, exec_archiveLagFreeze_thaws hon hl hf hn, ?_⟩
      rw [State.evThaw_eq (by simp [hf])]
      exact ⟨rfl, rfl⟩
  case lastResort =>
    intro s first hi hon hl hn
    exact ⟨_, exec_lastResortEntry_block hon first, State.evLastResort_effect hi hl hn 1 first⟩
  case recover =>
    intro s hi hon hl hlet hm
    refine ⟨?_, fun ha hno => ?_, fun ha hf hn => ?_⟩
    · exact ⟨_, (exec_evRecover_judged hon hl hlet hm false).trans (congrArg _ (if_pos rfl)), rfl, hl, rfl⟩
    · have hdead : (s.arch && s.arLives.isEmpty) = true := by simp [ha, hno]
      exact ⟨_, (exec_evRecover_judged hon hl hlet hm true).trans (congrArg _ ((if_neg (by decide)).trans (if_pos hdead))), rfl, hl, rfl⟩
    · have hlive : ¬(s.arch && s.arLives.isEmpty) = true := by simp [ha]
      obtain ⟨hrcv, hlr, hempty, hlast⟩ := State.evRecovered_effect (s := s.recoverTaken) ha hf hn
      exact ⟨_, _, (exec_evRecover_judged hon hl hlet hm true).trans (congrArg _ ((if_neg (by decide)).trans (if_neg hlive))), hrcv, hlr,
        hempty, hlast, rfl⟩

end Sys2Proof.Machine
end

