-- ==== Sys2Proof/Proofs/ChangesAndArchive.lean ====
section
/-! The change recorder (R394 to R397) and the archive port (R398 to R402). -/

namespace Sys2Proof.Machine

open Sys2Proof

/-! Changes (R395, R396). -/

/-- The recorder after one record. -/
def State.chAppended (s : State) (r : ChRec) : ChSt :=
  { s.ch with buf := s.ch.buf ++ [r], next := s.ch.next + 1, epoch := some r.epoch }

/-- Of the state, a record of CH changes the recorder, and the archive's first page to write. -/
theorem State.chPut_eq (s : State) (r : ChRec) : ∃ ar, s.chPut r = { s with ch := s.chAppended r, ar := ar } := by
  unfold State.chPut
  extract_lets ch s1
  split
  · exact ⟨_, rfl⟩
  · exact ⟨s.ar, rfl⟩

/-- PD's oldest change was taken. -/
def State.changeTaken (s : State) (l : List PtChange) : State := { s with pd := { s.pd with changes := l } }

section
variable {s : State} {c : PtChange} {l : List PtChange}

/-- With no loss to name and no new epoch, a change is recorded where the buffer has room for it (R395, R396). -/
theorem exec_changeIngest_judged (hc : s.pd.changes = c :: l) (hon : s.chOn = true) (hloss : s.chLosses = 0)
    (he : s.ch.epoch = some (epochOf c.time)) : exec .changeIngest s = .next
      (if s.chRoom 1 then (s.changeTaken l).chPut ⟨epochOf c.time, c.time % 2 ^ 32, c.index, false, c.qual, c.raw⟩
      else (s.changeTaken l).chDrop c.time) := by
  have hon' : (s.changeTaken l).chOn = true := hon
  have hnone : (s.changeTaken l).chLosses = 0 := hloss
  have hepoch : (s.changeTaken l).ch.epoch = some (epochOf c.time) := he
  have hroom : (s.changeTaken l).chRoom 1 = s.chRoom 1 := rfl
  have hgo : exec .changeIngest s = (let x := s.changeTaken l
      if !x.chOn then .next x
      else
        let s1 := if x.chLosses != 0 && x.chRoom 4 then x.chGap else x
        if s1.chLosses != 0 || !s1.chRoom (s1.chNeed c.time) then .next (s1.chDrop c.time)
        else .next (s1.chAt c.time c.index false c.qual c.raw)) := by
    show execChangeIngest s = _
    unfold execChangeIngest
    rw [hc]
    rfl
  have hsame : (if (s.changeTaken l).chLosses != 0 && (s.changeTaken l).chRoom 4 then (s.changeTaken l).chGap else s.changeTaken l) =
      s.changeTaken l := if_neg (by simp [hnone])
  have hneed : (s.changeTaken l).chNeed c.time = 1 := if_pos hepoch
  have hput : (s.changeTaken l).chAt c.time c.index false c.qual c.raw =
      (s.changeTaken l).chPut ⟨epochOf c.time, c.time % 2 ^ 32, c.index, false, c.qual, c.raw⟩ := by
    unfold State.chAt
    dsimp only
    rw [if_pos hepoch]
  rw [hgo]
  dsimp only
  rw [if_neg (by simp [hon']), hsame, hnone, hneed, hput, hroom]
  cases s.chRoom 1 <;> rfl

/-- A change that is dropped is counted (R396). -/
theorem State.chDrop_effect (hi : s.Inv) (t : Nat) :
    (s.chDrop t).pd = s.pd ∧ (s.chDrop t).ch.buf = s.ch.buf ∧ (s.chDrop t).ch.next = s.ch.next ∧
      (s.chDrop t).ch.lossCnt = s.ch.lossCnt + 1 ∧ (s.chDrop t).ch.lost = satAdd 0xFFFFFFFF s.ch.lost 1 := by
  refine ⟨(State.chDrop_moves.keep hi .pd rfl).symm, ?_⟩
  unfold State.chDrop
  extract_lets ch s1
  split
  · have hs1 : State.Inv { s1 with ch := { s1.ch with stopped := true } } := hi
    rw [← State.notify_moves.keep hs1 .ch rfl]
    exact ⟨rfl, rfl, rfl, rfl⟩
  · exact ⟨rfl, rfl, rfl, rfl⟩

theorem exec_epochBoundary_due (hon : s.chOn = true) (hr : s.tu.running = true) (he : s.ch.epoch ≠ some (epochOf s.tai))
    (hroom : s.chRoom 1 = true) :
    exec .epochBoundary s = .next (s.chPut ⟨epochOf s.tai, 0, 1, true, 0, epochOf s.tai⟩) :=
  if_pos (by simp [hon, hr, he, hroom])

theorem exec_chGapWrite_due (hon : s.chOn = true) (hl : s.chLosses ≠ 0) (hroom : s.chRoom 2 = true) :
    exec .chGapWrite s = .next s.chGap :=
  if_pos (by simp [hon, hl, hroom])

/-- A record of its epoch comes last in the buffer; PD stays. -/
theorem State.chAt_last (s : State) (t index : Nat) (stream : Bool) (qual value : Nat) :
    (s.chAt t index stream qual value).ch.buf.getLast? = some ⟨epochOf t, t % 2 ^ 32, index, stream, qual, value⟩ := by
  unfold State.chAt
  extract_lets e s1
  obtain ⟨ar, hput⟩ := s1.chPut_eq ⟨e, t % 2 ^ 32, index, stream, qual, value⟩
  rw [hput]
  exact List.getLast?_concat

/-- The value of the GAP record: how many changes were lost, over what time. -/
def State.gapValue (s : State) : Nat :=
  min 0xFFFFFFFF s.chLosses + min 0xFFFFFFFF ((s.chLossSpan.2 - s.chLossSpan.1) / 1000) * 2 ^ 32

/-- The GAP record stands, and the losses are counted from anew. -/
def State.gapWritten (s : State) : State :=
  let put := s.chAt s.chLossSpan.1 2 true 0 s.gapValue
  { put with
    ch := { put.ch with lost := satAdd 0xFFFFFFFF put.ch.lost s.pd.chLoss.cnt, lossCnt := 0, stopped := false }
    pd := { put.pd with chLoss := Loss.none } }

theorem State.chGap_eq (s : State) : s.chGap = s.gapWritten.notify 0x31 1 1 (min 0xFFFFFFFF s.chLosses) 0 0 0 := rfl

theorem State.chGap_effect (hi : s.Inv) :
    s.chGap.chLosses = 0 ∧ ⟨0x3101, 1⟩ ∈ s.chGap.ec.arrivals ∧
      s.chGap.ch.buf.getLast? = some ⟨epochOf s.chLossSpan.1, s.chLossSpan.1 % 2 ^ 32, 2, true, 0, s.gapValue⟩ := by
  have hwritten : s.gapWritten.Inv := 
    (State.chAt_moves (s := s) (a0 := s.chLossSpan.1) (a1 := 2) (a2 := true) (a3 := 0) (a4 := s.gapValue)).inv hi
  have hch : s.chGap.ch = s.gapWritten.ch := by
    rw [State.chGap_eq]
    exact (State.notify_moves.keep hwritten .ch rfl).symm
  have hpd : s.chGap.pd = s.gapWritten.pd := by
    rw [State.chGap_eq]
    exact (State.notify_moves.keep hwritten .pd rfl).symm
  refine ⟨?_, ?_, ?_⟩
  · rw [State.chLosses, hch, hpd]
    rfl
  · rw [State.chGap_eq]
    exact State.notify_mem_arrivals hwritten (by decide) _ _ _ _
  · rw [hch]
    exact s.chAt_last _ _ _ _ _

theorem State.gapValue_mod (s : State) : s.gapValue % 2 ^ 32 = min 0xFFFFFFFF s.chLosses := by
  unfold State.gapValue
  omega

end

/-! A page of events (R399, R400). -/

/-- What a notification leaves of the recorder: everything but the hand-off FIFOs. -/
theorem State.notify_ring {s : State} (hi : s.Inv) (unit code cls p0 p1 p2 p3 : Nat) :
    (s.notify unit code cls p0 p1 p2 p3).ev.unarch = s.ev.unarch ∧ (s.notify unit code cls p0 p1 p2 p3).ev.ring = s.ev.ring := by
  have hhand : ∀ r : EvRec, (s.handOff unit r).ev.unarch = s.ev.unarch ∧ (s.handOff unit r).ev.ring = s.ev.ring := fun r => by
    unfold State.handOff
    extract_lets q
    split <;> exact ⟨rfl, rfl⟩
  unfold State.notify State.notifyAt
  extract_lets c s1 s2
  have hs1 : s1.Inv := State.handOff_moves.inv hi
  have harrived : Moves 0x2000 s1 s2 := Moves.ite Moves.refl State.arrive_moves
  rw [← State.deliverOrHold_moves.keep (harrived.inv hs1) .ev rfl, ← harrived.keep hs1 .ev rfl]
  exact hhand _

/-- The oldest records that wait for the archive: how many a page takes, and the SEQ of the first. -/
def State.evWaiting (s : State) : Nat := min s.ev.unarch s.ev.ring.length
def State.evFirst (s : State) : Nat := ((s.ev.ring[s.ev.ring.length - s.evWaiting]?).map (·.seq)).getD 0

theorem State.arShow_keeps (x : State) (c : Nat) : (x.arShow c).ev = x.ev ∧ (x.arShow c).ar = x.ar := ⟨rfl, rfl⟩

/-- A page of events takes up to 510 records, and stands last among the channel's pages. -/
theorem State.arWrite_events (s : State) (c bytes erased : Nat) :
    (s.arWrite c 0 bytes erased).ev.unarch = s.evWaiting - min 510 s.evWaiting ∧
      (s.arWrite c 0 bytes erased).ev.archNext = (s.evFirst + min 510 s.evWaiting) % 2 ^ 32 ∧
      (s.arWrite c 0 bytes erased).arPages c 0 =
        (s.arPages c 0).drop erased ++ [⟨mget (fun _ => 0) s.ar.pageSeq 0, s.evFirst, min 510 s.evWaiting, 0⟩] ∧
      (s.arWrite c 0 bytes erased).arRetired c 0 = s.arRetired c 0 := by
  unfold State.arWrite State.arPages State.arRetired
  extract_lets t seq page s1 at_ ar
  rw [(State.arShow_keeps _ c).1, (State.arShow_keeps _ c).2]
  refine ⟨rfl, rfl, ?_, rfl⟩
  exact mget_mset_of_ne (fun h => List.append_ne_nil_of_right_ne_nil _ (List.cons_ne_nil _ _) h) _

section
variable {s : State} {c : Nat}

theorem State.arSlot_writes {stream : Nat} (hpick : s.arPick stream = some c) (hroom : s.arRetired c stream < s.arBlocks stream)
    (block bytes erased : Nat) : s.arSlot stream true block bytes erased = s.arWrite c stream bytes erased := by
  unfold State.arSlot
  rw [hpick]
  exact if_neg (by simpa using hroom)

/-- A block that fails is retired, and its failure is told. -/
def State.blockRetired (s : State) (c stream block : Nat) : State :=
  let retired : State := { s with ar := { s.ar with retired := mmod (fun _ => 0) (arKey c stream) (· + 1) s.ar.retired } }
  (retired.bump AR_STAT_RETIRED c 1).notify 0x33 3 0 c block 0 0

theorem State.blockRetired_effect (hi : s.Inv) (c block : Nat) :
    (s.blockRetired c 0 block).arRetired c 0 = s.arRetired c 0 + 1 ∧ (s.blockRetired c 0 block).arBlocks 0 = s.arBlocks 0 ∧
      (s.blockRetired c 0 block).evWaiting = s.evWaiting ∧ (s.blockRetired c 0 block).evFirst = s.evFirst := by
  unfold State.blockRetired
  extract_lets ar retired
  have hretired : retired.Inv := hi
  have hbump : (retired.bump AR_STAT_RETIRED c 1).Inv := State.wr_inv hretired _ _ _
  obtain ⟨hun, hring⟩ := State.notify_ring hbump 0x33 3 0 c block 0 0
  have har : ((retired.bump AR_STAT_RETIRED c 1).notify 0x33 3 0 c block 0 0).ar = retired.ar :=
    (State.notify_moves.keep hbump .ar rfl).symm
  have hwaiting : ((retired.bump AR_STAT_RETIRED c 1).notify 0x33 3 0 c block 0 0).evWaiting = s.evWaiting := by
    rw [State.evWaiting, hun, hring]
    rfl
  refine ⟨?_, ?_, hwaiting, ?_⟩
  · rw [State.arRetired, har]
    exact mget_mset_of_ne (Nat.succ_ne_zero _) _
  · show ((retired.bump AR_STAT_RETIRED c 1).notify 0x33 3 0 c block 0 0).rd AR_CFG_EV_BLK 0 = s.rd AR_CFG_EV_BLK 0
    rw [State.notify_moves.rd hbump rfl]
    exact State.rd_wr_ne hretired rfl _ (.inr (.inl (by decide)))
  · rw [State.evFirst, hwaiting, hring]
    rfl

theorem State.arSlot_retires {stream : Nat} (hpick : s.arPick stream = some c) (block bytes erased : Nat)
    (hroom : (s.blockRetired c stream block).arRetired c stream < (s.blockRetired c stream block).arBlocks stream) :
    s.arSlot stream false block bytes erased = (s.blockRetired c stream block).arWrite c stream bytes erased := by
  unfold State.arSlot
  rw [hpick]
  exact if_neg (Nat.not_le.2 hroom)

theorem exec_archivePageProgram_events (hon : s.arOn = true) (hdue : s.arDue 0 = true) (ok : Bool) (block bytes erased : Nat) :
    exec (.archivePageProgram ok block bytes erased) s = .next (s.arSlot 0 ok block bytes erased) := by
  show execArchivePageProgram ok block bytes erased s = _
  have hfirst : [0, 1, 2].find? s.arDue = some 0 := by rw [List.find?_cons_of_pos hdue]
  unfold execArchivePageProgram
  rw [if_pos hon, hfirst]

theorem exec_partialPageExpiry_due (hon : s.arOn = true) {stream : Nat} (hs : stream < 2) (ht : mget (fun _ => 0) s.ar.pageAt stream ≠ 0)
    (hlate : mget (fun _ => 0) s.ar.pageAt stream + 79999999 ≤ s.elapsed) (hdata : s.arData stream ≠ 0)
    (hpart : s.arData stream < arFull stream) (block erased : Nat) :
    exec (.partialPageExpiry stream true block erased) s = .next (s.arSlot stream true block 0 erased) := by
  have hwaited : mget (fun _ => 0) s.ar.pageAt stream - 1 + 80000000 ≤ s.elapsed := by omega
  exact if_pos (by simp [hon, hs, ht, hwaited, hdata, hpart])

/-! Channels (R401). -/

theorem exec_readyBusyTimeout_fails (hon : s.evOn = true) (hl : s.arLive c = true) :
    exec (.readyBusyTimeout c) s = .next (s.arFail c 2) :=
  if_pos (by simp [hon, hl])

theorem State.arFail_effect (hi : s.Inv) (c cause : Nat) :
    (s.arFail c cause).rd AR_STAT_STATE c = 2 ∧ ⟨0x3301, 2⟩ ∈ (s.arFail c cause).ec.arrivals := by
  have hshown : (s.wr AR_STAT_STATE c 2).Inv := State.wr_inv hi _ _ _
  have htold : ((s.wr AR_STAT_STATE c 2).notify 0x33 1 2 c cause 0 0).Inv := State.notify_moves.inv hshown
  unfold State.arFail
  refine ⟨?_, State.arGone_moves.arrived htold rfl (State.notify_mem_arrivals hshown (by decide) _ _ _ _)⟩
  rw [State.arGone_moves.rd htold rfl, State.notify_moves.rd hshown rfl]
  exact State.rd_wr_same hi rfl c 2

/-- A channel that passed its retest. -/
def State.arBack (s : State) (c : Nat) : State :=
  State.wr { s with ar := { s.ar with retest := mset (fun _ => false) c false s.ar.retest, failed := false } } AR_STAT_STATE c 1

theorem exec_arRetest_passes (hon : s.evOn = true) (hc : c < s.byVar 2 1 1) (hst : s.rd AR_STAT_STATE c = 2) :
    exec (.arRetest c true) s = .next (s.arBack c) :=
  if_pos (by simp [hon, hc, hst])

theorem State.arBack_effect (hi : s.Inv) (c : Nat) : (s.arBack c).rd AR_STAT_STATE c = 1 ∧ (s.arBack c).ar.failed = false :=
  ⟨State.rd_wr_same (s := { s with ar := _ }) hi rfl c 1, rfl⟩

end

end Sys2Proof.Machine
end

