-- ==== Sys2Proof/Proofs/DisturbanceRecords.lean ====
section
/-! The disturbance recorder (R403 to R408): triggers, records that end, and their export. -/

namespace Sys2Proof.Machine

open Sys2Proof

/-! The slots of the records. -/

/-- Showing a record writes registers of the recorder only. -/
theorem State.setDrRec_keeps {s : State} (hi : s.Inv) (n : Nat) (r : DrRec) :
    (s.setDrRec n (some r)).drRec n = some r ∧ (s.setDrRec n (some r)).dr.queue = s.dr.queue ∧
      (s.setDrRec n (some r)).dr.serial = s.dr.serial ∧ (s.setDrRec n (some r)).mb = s.mb ∧ (s.setDrRec n (some r)).now = s.now ∧
      (s.setDrRec n (some r)).free = s.free ∧ (s.setDrRec n (some r)).ev = s.ev := by
  have hstored : State.Inv { s with dr := { s.dr with recs := mset (fun _ => none) n (some r) s.dr.recs } } := hi
  have hshown := State.drShow_moves (s := { s with dr := { s.dr with recs := mset (fun _ => none) n (some r) s.dr.recs } }) (a0 := n)
  have hdr := hshown.keep hstored .dr rfl
  have htu := hshown.keep hstored .tu rfl
  refine ⟨?_, congrArg (·.queue) hdr.symm, congrArg (·.serial) hdr.symm, (hshown.keep hstored .mb rfl).symm, ?_,
    (hshown.keep hstored .free rfl).symm, (hshown.keep hstored .ev rfl).symm⟩
  · refine (congrArg (fun d => mget (fun _ => none) d.recs n) hdr.symm).trans ?_
    exact mget_mset_of_ne (Option.some_ne_none r) _
  · exact congrArg (fun tu => (⟨tu.sec, tu.ns⟩ : Stamp)) htu.symm

/-- A record that captures shows state 1. -/
theorem State.setDrRec_state {s : State} (hi : s.Inv) (n : Nat) (r : DrRec) :
    (s.setDrRec n (some r)).rd DR_REC_STATE n = r.state % 4 := by
  unfold State.setDrRec State.drShow
  have hrec : State.drRec { s with dr := { s.dr with recs := mset (fun _ => none) n (some r) s.dr.recs } } n = some r :=
    mget_mset_of_ne (Option.some_ne_none r) _
  rw [hrec]
  generalize hx : ({ s with dr := { s.dr with recs := mset (fun _ => none) n (some r) s.dr.recs } } : State) = x
  have hi0 : x.Inv := hx ▸ hi
  dsimp only
  generalize (Stamp.ofTai ((Option.map (fun x => x.2) r.trigs.head?).getD 0)).word = tr
  have h1 : (x.wr DR_REC_STATE n r.state).Inv := State.wr_inv hi0 _ _ _
  have h2 : ((x.wr DR_REC_STATE n r.state).wr DR_REC_NTRIG n r.trigs.length).Inv := State.wr_inv h1 _ _ _
  have h3 := State.wr_inv h2 DR_REC_EXP_KIB n r.expKib
  have h4 := State.wr_inv h3 DR_REC_SERIAL n r.serial
  have h5 := State.wrk_inv h4 DR_REC_TR n 0 tr
  have h6 := State.wrk_inv h5 DR_REC_TR n 1 (tr / 2 ^ 32)
  have hbits : ∀ f : Field, f.hi < 30 → f.apart DR_REC_STATE n 0 n 0 := fun f h => .inr (.inr (.inr (.inr (.inr h))))
  rw [State.rd_wr_ne h6 rfl _ (Field.apart_of_word (by decide))]
  have htr : ∀ (y : State) (k v : Nat), y.Inv → DR_REC_TR.wordAt k % 4096 ≠ 0 →
      (y.wrk DR_REC_TR n k v).rd DR_REC_STATE n = y.rd DR_REC_STATE n := fun y k v hy hk =>
    State.rdk_wrk_ne hy rfl v (.inr (.inr (.inr (.inl fun h => hk h.symm))))
  rw [htr _ 1 _ h5 (by decide), htr _ 0 _ h4 (by decide), State.rd_wr_ne h3 rfl _ (Field.apart_of_word (by decide)),
    State.rd_wr_ne h2 rfl _ (hbits _ (by decide)), State.rd_wr_ne h1 rfl _ (hbits _ (by decide))]
  exact State.rd_wr_same hi0 rfl _ _

/-! Triggers (R403, R405, R406). -/

/-- The number of the next record, and the triggers that wait. -/
def State.withDr (s : State) (serial : Nat) (queue : List (Nat × Nat)) : State :=
  { s with dr := { s.dr with serial := serial, queue := queue } }

section
variable {s : State}

/-- Neither number nor triggers count for what the slots hold and have room for. -/
theorem State.withDr_held (serial : Nat) (queue : List (Nat × Nat)) : (s.withDr serial queue).drHeld = s.drHeld := by
  unfold State.drHeld State.drRec State.withDr
  rfl

theorem State.withDr_drFree (serial : Nat) (queue : List (Nat × Nat)) (need : Nat) :
    (s.withDr serial queue).drFree need = s.drFree need := by
  unfold State.drFree
  rw [State.withDr_held]
  rfl

theorem State.withDr_drOpen (serial : Nat) (queue : List (Nat × Nat)) (tr : Nat) :
    (s.withDr serial queue).drOpen tr = s.drOpen tr := by
  unfold State.drOpen
  rw [State.withDr_held]
  rfl

/-- A new record draws on settings, masks, the next number and the history. -/
theorem State.drNew_congr {t : State} (entry tr : Nat) (hrd : ∀ (f : Field) (i : Nat), t.rd f i = s.rd f i)
    (hfineMask : t.drFineMask = s.drFineMask) (hfastMask : t.drFastMask = s.drFastMask) (hdiMask : t.drDiMask = s.drDiMask)
    (hserial : t.dr.serial = s.dr.serial) (hfine : t.dr.fine = s.dr.fine) (hfast : t.dr.fast = s.dr.fast)
    (hdig : t.dr.dig = s.dr.dig) : t.drNew entry tr = s.drNew entry tr := by
  unfold State.drNew
  simp only [hrd, hfineMask, hfastMask, hdiMask, hserial, hfine, hfast, hdig]

theorem State.withDr_drNew (queue : List (Nat × Nat)) (entry tr : Nat) :
    (s.withDr s.dr.serial queue).drNew entry tr = s.drNew entry tr :=
  State.drNew_congr entry tr (fun _ _ => rfl) rfl rfl rfl rfl rfl rfl rfl

/-- A free slot is taken as it is. -/
theorem State.drSlot_free {need n : Nat} (hfree : s.drFree need = some n) (k : Nat) : s.drSlot need (k + 1) = some (n, s) := by
  unfold State.drSlot
  rw [hfree]

theorem State.drBegin_free {r : DrRec} {n : Nat} (hfree : s.drFree r.bytes = some n) (entry k : Nat) :
    s.drBegin r entry (k + 1) = s.setDrRec n (some r) := by
  unfold State.drBegin
  rw [State.drSlot_free hfree]

/-- A trigger that extends no record asks for a slot for one. -/
theorem State.drTrigger_asks {entry tr : Nat} (hopen : s.drOpen tr = none) : s.drTrigger entry tr =
    (s.withDr ((s.dr.serial + 1) % 2 ^ 32) s.dr.queue).drBegin (s.drNew entry tr) entry 65 := by
  unfold State.drTrigger
  rw [hopen]
  generalize s.drNew entry tr = r
  rfl

/-- It starts in the free slot. -/
theorem State.drTrigger_begins {entry tr n : Nat} (hopen : s.drOpen tr = none) (hfree : s.drFree (s.drNew entry tr).bytes = some n) :
    s.drTrigger entry tr = (s.withDr ((s.dr.serial + 1) % 2 ^ 32) s.dr.queue).setDrRec n (some (s.drNew entry tr)) := by
  rw [State.drTrigger_asks hopen]
  generalize s.drNew entry tr = r at hfree
  exact State.drBegin_free ((State.withDr_drFree _ _ _).trans hfree) entry 64

/-- A record that a trigger extends: its end moves, within MAXLEN, and the trigger is listed. -/
def State.extended (s : State) (r : DrRec) (q : Nat × Nat) : DrRec :=
  { r with
    stop := max r.stop (min (q.2 + msNs (s.rd DR_CFG_POST 0)) (r.start + msNs (s.rd DR_CFG_MAXLEN 0)))
    trigs := r.trigs ++ [q] }

theorem State.drTrigger_extends {q : Nat × Nat} {n : Nat} {r : DrRec} (hopen : s.drOpen q.2 = some (n, r)) (hlist : r.trigs.length < 16) :
    s.drTrigger q.1 q.2 = s.setDrRec n (some (s.extended r q)) := by
  unfold State.drTrigger
  rw [hopen]
  dsimp only
  rw [if_pos hlist, if_pos hlist]
  rfl

theorem exec_drTriggerEvent_triggers {q : Nat × Nat} {l : List (Nat × Nat)} (hq : s.dr.queue = q :: l) (hon : s.drOn = true) :
    exec .drTriggerEvent s = .next ((s.withDr s.dr.serial l).drTrigger q.1 q.2) := by
  show execDrTriggerEvent s = _
  unfold execDrTriggerEvent
  rw [hq]
  exact if_pos hon

theorem exec_drTrigger_goes {ring idx : Nat} {c : Cmd} (hr : s.Ready ring idx c) (hp : c.Plain opDrTrigger 0) (hobj : c.objid = 0x32000001)
    (hm : s.inMode modesCrs = true) (hon : s.drOn = true) :
    exec (.drTrigger ring idx) s = .next ((s.drTrigger 32 s.tai).done c 0 0 0 0) := by
  show execDrTrigger ring idx s = _
  have hv : s.verdict c
      { form := !c.buf
        bad := if c.objid != 0x32000001 then some (c.objid, 0) else none
        auth := false
        modes := s.inMode modesCrs } = none :=
    State.verdict_own hr hp (by simp [hp.buf]) rfl (by simp [hobj]) (fun h => Bool.noConfusion h) hm
  exact (hr.runCmd hp.isOp hv).trans (congrArg _ (if_pos hon))

/-! A record whose last samples are there (R404, R406). -/

/-- The record is complete, and its export bound is drawn. -/
def State.completed (s : State) (r : DrRec) : DrRec := { r with state := 2, expKib := s.freeWord.toNat % 2 ^ 25 }

theorem exec_drRecordComplete_ends {n : Nat} {r : DrRec} (hon : s.drOn = true)
    (hfind : s.drHeld.find? (fun e => e.2.state == 1 && s.drArrived e.2) = some (n, r)) :
    exec .drRecordComplete s = .next ((s.drawn.setDrRec n (some (s.completed r))).notify 0x32 1 0 n r.serial 0 0) := by
  show execDrRecordComplete s = _
  unfold execDrRecordComplete
  rw [if_pos hon, hfind]
  rfl

theorem State.drRecordComplete_effect (hi : s.Inv) {n : Nat} (r : DrRec) (hroom : (s.handedOver 0x32).length < 1024) :
    let t := (s.drawn.setDrRec n (some (s.completed r))).notify 0x32 1 0 n r.serial 0 0
    t.drRec n = some (s.completed r) ∧ t.free = s.free + 1 ∧
      ⟨0x3201, 0, s.now, n % 2 ^ 32, r.serial % 2 ^ 32, 0, false⟩ ∈ t.handedOver 0x32 := by
  intro t
  have hdrawn : s.drawn.Inv := hi
  obtain ⟨hrec, -, -, -, hnow, hfree, hev⟩ := State.setDrRec_keeps hdrawn n (s.completed r)
  have hset : (s.drawn.setDrRec n (some (s.completed r))).Inv := State.setDrRec_moves.inv hdrawn
  have htold := State.notify_moves (s := s.drawn.setDrRec n (some (s.completed r))) (a0 := 0x32) (a1 := 1) (a2 := 0) (a3 := n)
    (a4 := r.serial) (a5 := 0) (a6 := 0)
  refine ⟨?_, (htold.keep hset .free rfl).symm.trans hfree, ?_⟩
  · have hdr : t.dr = (s.drawn.setDrRec n (some (s.completed r))).dr := (htold.keep hset .dr rfl).symm
    rw [State.drRec, hdr]
    exact hrec
  · have hroom' : ((s.drawn.setDrRec n (some (s.completed r))).handedOver (fifoOf 0x32)).length < fifoCap (fifoOf 0x32) := by
      rw [State.handedOver, hev]
      exact hroom
    have hmem := State.notifyAt_mem_handedOver hset hroom' 1 0 s.now n r.serial 0 0
    have hat : t = (s.drawn.setDrRec n (some (s.completed r))).notifyAt 0x32 1 0 s.now n r.serial 0 0 :=
      congrArg (fun time => (s.drawn.setDrRec n (some (s.completed r))).notifyAt 0x32 1 0 time n r.serial 0 0) hnow
    rw [hat]
    exact hmem

/-! DR_EXPORT (R407, R408). -/

/-- The files of the export are written, and their lengths are returned. -/
def State.exported (s : State) (c : Cmd) (r : DrRec) : State :=
  (s.dmaOut c.bufLoc c.bufAddr ((s.drFiles r (c.par 0)).1.1 ++ (s.drFiles r (c.par 0)).2.1)).answer c (s.drFiles r (c.par 0)).1.2
    (if (c.par 0).get 27 27 = 1 then 0 else (s.drFiles r (c.par 0)).2.2) (r.chans (c.par 0)).length
    (32 + ((List.range 48).filter (natBit r.diMask)).length)

theorem exec_drExport_exports {ring idx n : Nat} {c : Cmd} {r : DrRec} (hr : s.Ready ring idx c) (hb : c.WithBuffer opDrExport 1 4)
    (hunit : objUnit c.objid = 0x32) (hgrp : objGrp c.objid = 4) (hinst : objInst c.objid = n) (hn : n < 64)
    (hgood : expBad (c.par 0) = false) (hm : s.inMode modesAll = true) (hrec : s.drRec n = some r) (hstate : r.state ≠ 1)
    (hsize : r.expKib * 1024 ≤ c.bufLen) (hreach : s.bufReach c = true) (hchans : (c.par 0).get 26 26 = 1 ∨ r.chans (c.par 0) ≠ []) :
    exec (.drExport ring idx true) s = .next (s.exported c r) := by
  show execDrExport ring idx true s = _
  have hrec' : s.drRec (objInst c.objid) = some r := by rw [hinst]; exact hrec
  have hsome : ¬((c.par 0).get 26 26 = 0 ∧ (r.chans (c.par 0)).isEmpty = true) := by
    rintro ⟨hzero, hempty⟩
    rcases hchans with h | h
    · omega
    · exact h (List.isEmpty_iff.1 hempty)
  refine (hr.runCmd hb.isOp ?verdict).trans ?go
  case verdict =>
    refine (hr.verdict_buffer hb ?form rfl ?bad rfl hm).trans ?own
    case form => simp [hb.buffer, hrec', hsize]
    case bad => simp [hunit, hgrp, hinst, hn, hgood]
    case own =>
      show (match s.drRec (objInst c.objid) with
        | none => _
        | some r => _ : Option (Status × Nat × Nat)) = none
      rw [hrec']
      exact (if_neg hstate).trans ((if_neg hsome).trans (by simp [State.dmaCheck, hreach]))
  case go =>
    dsimp only
    rw [hrec']
    rfl

end

/-- Settles O55: what CH, AR and DR do is read off their own states, which notifications leave but for the hand-off FIFOs
(R395 to R408). -/
theorem changesArchiveAndDisturbanceRecordsAct : Obligations.ChangesArchiveAndDisturbanceRecordsAct := by
  unfold Obligations.ChangesArchiveAndDisturbanceRecordsAct
  refine ⟨?change, ?epoch, ?page, ?channel, ?trigger, ?command, ?complete, ?exported⟩
  case change =>
    intro s c l hi hc hon hloss he
    have hgo := exec_changeIngest_judged hc hon hloss he
    refine ⟨fun hroom => ?_, fun hroom => ?_⟩
    · obtain ⟨ar, hput⟩ := (s.changeTaken l).chPut_eq ⟨epochOf c.time, c.time % 2 ^ 32, c.index, false, c.qual, c.raw⟩
      rw [if_pos hroom, hput] at hgo
      exact ⟨_, hgo, rfl, rfl, rfl⟩
    · obtain ⟨hpd, hbuf, hnext, hcnt, hlost⟩ := State.chDrop_effect (s := s.changeTaken l) hi c.time
      rw [if_neg (by simp [hroom])] at hgo
      exact ⟨_, hgo, congrArg (·.changes) hpd, hbuf, hnext, hcnt, hlost⟩
  case epoch =>
    intro s hi hon
    refine ⟨fun hr he hroom => ?_, fun hl hroom => ?_⟩
    · obtain ⟨ar, hput⟩ := s.chPut_eq ⟨epochOf s.tai, 0, 1, true, 0, epochOf s.tai⟩
      have hgo := exec_epochBoundary_due hon hr he hroom
      rw [hput] at hgo
      exact ⟨_, hgo, rfl, rfl⟩
    · obtain ⟨hnone, harrived, hlast⟩ := State.chGap_effect hi
      exact ⟨_, _, exec_chGapWrite_due hon hl hroom, hnone, harrived, hlast, rfl, rfl, rfl, rfl, s.gapValue_mod⟩
  case page =>
    intro s block bytes erased c un k first hi hon hpick hun hk hfirst
    have hun' : un = s.evWaiting := hun
    subst hun' hk hfirst
    refine ⟨fun hdue hroom => ?_, fun hdue hroom => ?_, fun ht hlate hdata hpart hroom => ?_⟩
    · obtain ⟨hleft, hnext, hpages, -⟩ := s.arWrite_events c bytes erased
      refine ⟨_, exec_archivePageProgram_events hon hdue true block bytes erased, ?_⟩
      rw [State.arSlot_writes hpick hroom]
      exact ⟨hleft, hnext, hpages⟩
    · obtain ⟨hretired, hblocks, hwaiting, hsame⟩ := State.blockRetired_effect hi c block
      obtain ⟨hleft, -, hpages, hkept⟩ := (s.blockRetired c 0 block).arWrite_events c bytes erased
      have hroom' : (s.blockRetired c 0 block).arRetired c 0 < (s.blockRetired c 0 block).arBlocks 0 := by
        rw [hretired, hblocks]
        exact hroom
      rw [hwaiting] at hleft
      rw [hwaiting, hsame] at hpages
      refine ⟨_, exec_archivePageProgram_events hon hdue false block bytes erased, ?_⟩
      rw [State.arSlot_retires hpick block bytes erased hroom']
      exact ⟨hkept.trans hretired, hleft, _, hpages ▸ List.mem_append_right _ (List.mem_singleton.2 rfl), rfl, rfl⟩
    · obtain ⟨hleft, -, hpages, -⟩ := s.arWrite_events c 0 erased
      refine ⟨_, exec_partialPageExpiry_due hon (by decide) ht hlate hdata hpart block erased, ?_⟩
      rw [State.arSlot_writes hpick hroom]
      exact ⟨hleft, hpages⟩
  case channel =>
    intro s chan hi hon
    refine ⟨fun hl => ?_, fun hc hst => ?_⟩
    · exact ⟨_, exec_readyBusyTimeout_fails hon hl, State.arFail_effect hi chan 2⟩
    · exact ⟨_, exec_arRetest_passes hon hc hst, State.arBack_effect hi chan⟩
  case trigger =>
    intro s q l hi hq hon
    have hgo := exec_drTriggerEvent_triggers hq hon
    have htaken : (s.withDr s.dr.serial l).Inv := hi
    refine ⟨fun n hopen hfree => ?_, fun n r hopen hlist => ?_⟩
    · have hnew := s.withDr_drNew l q.1 q.2
      have hbegins := State.drTrigger_begins (s := s.withDr s.dr.serial l) ((State.withDr_drOpen _ _ _).trans hopen)
        ((State.withDr_drFree _ _ _).trans (hnew ▸ hfree))
      rw [hnew] at hbegins
      have hnumbered : ((s.withDr s.dr.serial l).withDr ((s.dr.serial + 1) % 2 ^ 32) l).Inv := hi
      obtain ⟨hrec, hqueue, hserial, -⟩ := State.setDrRec_keeps hnumbered n (s.drNew q.1 q.2)
      exact ⟨_, hgo.trans (congrArg _ hbegins), hqueue, hrec, hserial, State.setDrRec_state hnumbered n (s.drNew q.1 q.2)⟩
    · have hextends := State.drTrigger_extends (s := s.withDr s.dr.serial l) ((State.withDr_drOpen _ _ _).trans hopen) hlist
      obtain ⟨hrec, hqueue, hserial, -⟩ := State.setDrRec_keeps htaken n ((s.withDr s.dr.serial l).extended r q)
      exact ⟨_, hgo.trans (congrArg _ hextends), hqueue, hserial, hrec⟩
  case command =>
    intro s ring idx n c hi hr hp hobj hm hon hopen hfree
    have hbegins := State.drTrigger_begins hopen hfree
    have hnumbered : (s.withDr ((s.dr.serial + 1) % 2 ^ 32) s.dr.queue).Inv := hi
    obtain ⟨hrec, -, -, hmb, hnow, -⟩ := State.setDrRec_keeps hnumbered n (s.drNew 32 s.tai)
    have hc : c ∈ (s.drTrigger 32 s.tai).mb.inflight := by
      rw [hbegins, hmb]
      exact hr.mem
    have hdone := State.done_outcome hc hr.undecided 0 0 0 0
    have hnow' : (s.drTrigger 32 s.tai).now = s.now := by rw [hbegins]; exact hnow
    rw [hnow'] at hdone
    refine ⟨_, exec_drTrigger_goes hr hp hobj hm hon, hdone, ?_⟩
    show (s.drTrigger 32 s.tai).drRec n = _
    rw [hbegins]
    exact hrec
  case complete =>
    intro s n r hi hon hfind hroom
    exact ⟨_, exec_drRecordComplete_ends hon hfind, State.drRecordComplete_effect hi r hroom⟩
  case exported =>
    intro s ring idx n c r hi hr hb hunit hgrp hinst hn hgood hm hrec hstate hsize hreach hchans
    have hc : c ∈ (s.dmaOut c.bufLoc c.bufAddr ((s.drFiles r (c.par 0)).1.1 ++ (s.drFiles r (c.par 0)).2.1)).mb.inflight := hr.mem
    exact ⟨_, exec_drExport_exports hr hb hunit hgrp hinst hn hgood hm hrec hstate hsize hreach hchans, rfl, rfl,
      State.answer_outcome hc hr.undecided _ _ _ _⟩

end Sys2Proof.Machine
end

