-- ==== Sys2Proof/Proofs/LinkTime.lean ====
section
/-! Links that go down, and time states that change, leave the second and the nanosecond that the time counter stands at. -/

namespace Sys2Proof.Machine

open Sys2Proof

/-- From a good state, the instant is as before, and the state is good again. -/
def State.KeepsNow (s t : State) : Prop := s.Inv → t.Inv ∧ t.now = s.now

theorem State.KeepsNow.refl (s : State) : s.KeepsNow s := fun hi => ⟨hi, rfl⟩

theorem State.KeepsNow.trans {a b c : State} (h1 : a.KeepsNow b) (h2 : b.KeepsNow c) : a.KeepsNow c := fun hi => by
  obtain ⟨hib, hnow⟩ := h1 hi
  obtain ⟨hic, hnow'⟩ := h2 hib
  exact ⟨hic, hnow'.trans hnow⟩

theorem State.KeepsNow.ite {s a b : State} {c : Prop} [Decidable c] (ha : s.KeepsNow a) (hb : s.KeepsNow b) :
    s.KeepsNow (if c then a else b) := by
  split
  · exact ha
  · exact hb

theorem State.KeepsNow.foldl {α : Type} {f : State → α → State} (hf : ∀ st a, State.KeepsNow st (f st a)) :
    ∀ (l : List α) (s : State), s.KeepsNow (l.foldl f s)
  | [], s => .refl s
  | a :: l, s => (hf s a).trans (State.KeepsNow.foldl hf l (f s a))

/-- A change that does not name the time unit. -/
theorem Moves.keepsNow {m : Nat} {s t : State} (h : Moves m s t) (htu : m.testBit 9 = false) : s.KeepsNow t := fun hi =>
  ⟨h.inv hi, by rw [State.now, State.now, h.keep hi .tu htu]⟩

theorem State.keepsNow_tuEnter (s : State) (st : TimeState) : s.KeepsNow (s.tuEnter st) := by
  unfold State.tuEnter
  split
  · exact .refl s
  · extract_lets old was locks tuOld s1 tuOld1 s2 s3
    have h1 : s.KeepsNow s1 := fun hi => ⟨hi, rfl⟩
    have h2 : s1.KeepsNow s2 := .ite (fun hi => ⟨hi, rfl⟩) (.refl s1)
    have h3 : s2.KeepsNow s3 := State.notify_moves.keepsNow rfl
    exact .ite (((h1.trans h2).trans h3).trans fun hi => ⟨hi, rfl⟩) ((h1.trans h2).trans h3)

theorem State.keepsNow_tuPortDown (s : State) (p : Nat) : s.KeepsNow (s.tuPortDown p) := by
  unfold State.tuPortDown
  extract_lets slave tuOld s1 s2
  have h1 : s.KeepsNow s1 := fun hi => ⟨hi, rfl⟩
  have h2 : s1.KeepsNow s2 := fun hi => ⟨State.wr_inv (State.wr_inv hi _ _ _) _ _ _, rfl⟩
  exact .ite ((h1.trans h2).trans (s2.keepsNow_tuEnter _)) (h1.trans h2)

theorem State.keepsNow_portDown (s : State) (p wait : Nat) : s.KeepsNow (s.portDown p wait) := by
  unfold State.portDown
  extract_lets x served s1 fresh s2 s3 s4
  have h1 : s.KeepsNow s1 := .foldl (fun _ _ => State.laneDown_moves.keepsNow rfl) _ s
  have h2 : s1.KeepsNow s2 := State.setPort_moves.keepsNow rfl
  have hput : Moves 0x2000000000000000000000000 s2 (s2.putWord 0x41 2 p 1 0) := .putWord .refl rfl
  have h3 : s.KeepsNow s3 := ((h1.trans h2).trans (hput.keepsNow rfl)).trans (State.keepsNow_tuPortDown _ p)
  have h4 : s3.KeepsNow s4 := .ite (.refl s3) (.foldl (fun st l hi => ⟨State.wr_inv hi _ _ _, rfl⟩) _ s3)
  exact .ite ((h3.trans h4).trans (State.notify_moves.keepsNow rfl)) h3

end Sys2Proof.Machine
end

