-- ==== Sys2Proof/Proofs/Access.lean ====
section
/-! Identity and access (R521 to R535): sessions, attestation, ownership, opening, re-provisioning, firmware, link
authentication, tampering and boundary scan. -/

namespace Sys2Proof.Machine

open Sys2Proof

/-! The checks of commands that need a session. -/

theorem State.Ready.verdict_buffer_auth {s : State} {ring idx op dir len : Nat} {c : Cmd} (hr : s.Ready ring idx c)
    (hb : c.WithBuffer op dir len) {k : Checks} (hform : k.form = true) (habsent : k.absent = none) (hbad : k.bad = none)
    (hauth : k.auth = true → s.authorized c = true) (hmodes : k.modes = true) : s.verdict c k = k.own := by
  obtain ⟨-, -, -, -, hobj⟩ := hr
  obtain ⟨-, hframe, hlength, -, -, hbuf, -⟩ := hb
  rw [State.verdict_judged hframe hlength hform hobj habsent hbuf hbad]
  have hauthorized : (k.auth && !s.authorized c) = false := by
    cases h : k.auth
    · rfl
    · simp [hauth h]
  simp [hauthorized, hmodes]

/-! What the security controller notes of a master. -/

theorem State.authOf_congr {s t : State} (h : t.sc = s.sc) (m : Master) : t.authOf m = s.authOf m := by
  cases m <;> simp [State.authOf, h]

section
variable (s : State) (m : Master) (a : AuthSt)

@[simp] theorem State.authOf_setAuth : (s.setAuth m a).authOf m = a := by cases m <;> rfl

@[simp] theorem State.setAuth_mb : (s.setAuth m a).mb = s.mb := by cases m <;> rfl

@[simp] theorem State.setAuth_now : (s.setAuth m a).now = s.now := by cases m <;> rfl

end

section
variable {s : State} {ring idx : Nat} {c : Cmd}

/-- A command that notes something of its master and completes. -/
theorem State.setAuth_done (hc : c ∈ s.mb.inflight) (hu : c.undecided = true) (a : AuthSt) (r0 r1 r2 r3 : Nat) :
    ((s.setAuth c.master a).done c r0 r1 r2 r3).Outcome c .ok r0 r1 r2 r3 (some s.now) ∧
      ((s.setAuth c.master a).done c r0 r1 r2 r3).authOf c.master = a := by
  have hdone := State.done_outcome (s := s.setAuth c.master a) (by rw [State.setAuth_mb]; exact hc) hu r0 r1 r2 r3
  rw [State.setAuth_now] at hdone
  exact ⟨hdone, State.authOf_setAuth s c.master a⟩

/-! Sessions (R526). -/

theorem exec_authChallenge_goes (hr : s.Ready ring idx c) (hp : c.Plain opAuthChallenge 0) (hm : s.inMode modesAll = true)
    (ho : s.openedLike = false) (hblocked : (s.authOf c.master).blockedUntil ≤ s.elapsed) (n0 n1 n2 n3 : W32) :
    exec (.authChallenge ring idx [n0, n1, n2, n3]) s = .next
      ((s.setAuth c.master { s.authOf c.master with nonce := some ([n0, n1, n2, n3], s.elapsed), parts := [] }).done c
        n0.toNat n1.toNat n2.toNat n3.toNat) := by
  show execAuthChallenge ring idx [n0, n1, n2, n3] s = _
  refine hr.runCmd hp.isOp ((State.verdict_own hr hp (by simp [hp.buf]) rfl rfl (fun h => Bool.noConfusion h) hm).trans ?_)
  simp [ho, hblocked]

/-- A response as it runs, once its checks let it. -/
theorem exec_authResponse_goes {len : Nat} (hr : s.Ready ring idx c) (hp : c.Plain opAuthResponse len) (hm : s.inMode modesAll = true)
    (ho : s.openedLike = false) {handle : Nat} (hh : s.handleOk handle = true) (hpart : c.part ≠ 3)
    (hlen : (if c.part = 2 then 12 else 48) ≤ len) (sigOk : Bool) :
    exec (.authResponse ring idx sigOk handle) s = .next
      (let a := s.authOf c.master
      if c.part ≠ 2 then
        (s.setAuth c.master { a with parts := (c.part, c.pars 1) :: a.parts.filter (fun e => e.1 != c.part) }).done c 0 0 0 0
      else
        let live := match a.nonce with
          | some n => decide (s.elapsed ≤ n.2 + 24000000000)
          | none => false
        if live && a.parts.any (fun e => e.1 == 0) && a.parts.any (fun e => e.1 == 1) && sigOk then
          (s.setAuth c.master { a with session := handle, nonce := none, parts := [] }).done c handle 0 0 0
        else s.authFailed c) := by
  show execAuthResponse ring idx sigOk handle s = _
  unfold execAuthResponse
  rw [if_neg (by simp [hh])]
  obtain ⟨-, -, -, -, hlong⟩ := id hp
  have hinline : c.inline (if c.part = 2 then 12 else 48) = true := by
    simp only [Cmd.inline, hp.buf, Bool.not_false, Bool.true_and, decide_eq_true_eq]
    exact hlen.trans hlong
  refine hr.runCmd hp.isOp ((State.verdict_own hr hp hinline rfl (if_neg hpart) (fun h => Bool.noConfusion h) hm).trans ?_)
  simp [ho]

/-- A response that fails spends the nonce, and completes with AUTH_FAIL. -/
theorem State.authFailed_effect (hi : s.Inv) (hc : c ∈ s.mb.inflight) (hu : c.undecided = true) :
    (s.authFailed c).Outcome c .authFail 0 0 0 0 none ∧
      ((s.authFailed c).authOf c.master).session = (s.authOf c.master).session ∧ ((s.authFailed c).authOf c.master).nonce = none := by
  unfold State.authFailed
  extract_lets a f s1 scOld s2
  let spent : AuthSt := { a with
    nonce := none, parts := [], fails := f
    blockedUntil := if 5 ≤ f.length then s.elapsed + 48000000000 else a.blockedUntil }
  have h1 : s1.Inv := State.setAuth_moves.inv hi
  have ha : s1.authOf c.master = spent := State.authOf_setAuth s c.master spent
  have hc1 : c ∈ s1.mb.inflight := by rw [State.setAuth_mb]; exact hc
  have hkept : s2.authOf c.master = spent ∧ c ∈ s2.mb.inflight := by
    have hnoted : ∀ x : State, x.Inv → x.authOf c.master = spent → c ∈ x.mb.inflight →
        (x.notify 0x48 5 1 c.master.source f.length 0 0).authOf c.master = spent ∧
          c ∈ (x.notify 0x48 5 1 c.master.source f.length 0 0).mb.inflight := fun x hx hax hcx => by
      have hsc : x.sc = (x.notify 0x48 5 1 c.master.source f.length 0 0).sc := State.notify_moves.keep hx .access rfl
      have hmb : x.mb.inflight = (x.notify 0x48 5 1 c.master.source f.length 0 0).mb.inflight := State.notify_moves.keep hx .phases rfl
      exact ⟨(State.authOf_congr hsc.symm _).trans hax, hmb ▸ hcx⟩
    have hreported := hnoted { s1 with sc := { s1.sc with lastReject := some s.elapsed } } h1
      (by cases hmaster : c.master <;> simpa [State.authOf, hmaster] using ha) hc1
    unfold s2
    split
    · split
      · exact ⟨ha, hc1⟩
      · exact hreported
    · exact hreported
  obtain ⟨ha2, hc2⟩ := hkept
  refine ⟨State.setPhase_mem hc2 hu _, ?_, ?_⟩
  · show (s2.authOf c.master).session = _
    rw [ha2]
  · show (s2.authOf c.master).nonce = none
    rw [ha2]

theorem exec_authEnd_own (hr : s.Ready ring idx c) (hp : c.Plain opAuthEnd 0) (hm : s.inMode modesAll = true) (hsession : c.session ≠ 0)
    (hown : (s.authOf c.master).session = c.session) :
    exec (.authEnd ring idx) s = .next ((s.setAuth c.master (s.authOf c.master).closed).done c 0 0 0 0) := by
  show execAuthEnd ring idx s = _
  unfold execAuthEnd
  rw [hr.runCmd hp.isOp (State.verdict_own hr hp (by simp [hp.buf]) rfl rfl (fun h => Bool.noConfusion h) hm)]
  have howns : (c.session != 0 && (s.authOf c.master).session == c.session) = true := by simp [hsession, hown]
  exact congrArg _ (congrArg (fun x => State.done x c 0 0 0 0) (if_pos howns))

/-! Attestation (R527). -/

theorem exec_attest_goes (hr : s.Ready ring idx c) (hb : c.WithBuffer opAttest 1 32) (hlen : 4096 ≤ c.bufLen) (hm : s.inMode modesAll = true)
    (ho : s.openedLike = false) (hreach : s.bufReach c = true) (hashes : List W32) :
    exec (.attest ring idx hashes true) s = .next
      ((s.dmaOut c.bufLoc c.bufAddr (s.report (c.pars 0) hashes ++ s.sc.devCert)).done c 356 s.sc.devCertLen 0 0) := by
  show execAttest ring idx hashes true s = _
  refine hr.runCmd hb.isOp ((hr.verdict_buffer hb (by simp [hb.buffer, hlen]) rfl rfl rfl hm).trans ?_)
  simp [ho, State.dmaCheck, hreach]

/-! OWNER_TRANSFER (R525). -/

/-- The new owner is installed: sessions have ended, and images that are not adopted are gone. -/
def State.ownerInstalled (s : State) (cert : List W32) (adopt : Bool) : State :=
  let sc : SecSt := { s.sc with
    owned := true, ownerCert := cert, ownCnt := s.sc.ownCnt + 1, cfgSvn := 0
    adoptedCfg := if adopt then s.mb.committed.map (·.crc) else none
    adoptedLogic := if adopt then s.lg.committed.map (·.crc) else none }
  let s1 : State := State.endSessions { s with sc := sc }
  if adopt then s1
  else { s1 with mb := { s1.mb with committed := none, older := [] }, lg := { s1.lg with committed := none } }

theorem exec_ownerTransfer_goes (hr : s.Ready ring idx c) (hb : c.WithBuffer opOwnerTransfer 0 0) (hm : s.inMode modesCs = true)
    (ho : s.openedLike = false) (hreach : s.bufReach c = true) (hauth : s.sc.owned = true → s.authorized c = true) (adopt : Bool)
    (cert : List W32) :
    exec (.ownerTransfer ring idx (some (s.serial, s.sc.ownCnt + 1, adopt)) cert true) s = .next
      (((s.ownerInstalled cert adopt).notify 0x48 1 0 (s.ownerInstalled cert adopt).sc.ownCnt 0 0 0).done c 0 0 0 0) := by
  show execOwnerTransfer ring idx _ cert true s = _
  refine hr.runCmd hb.isOp ((hr.verdict_buffer_auth hb hb.buffer rfl rfl (fun h => hauth ?_) hm).trans ?_)
  · exact (Bool.and_eq_true _ _ ▸ h).1
  · simp [ho, State.reach, hreach]

theorem State.ownerInstalled_effect (cert : List W32) (adopt : Bool) :
    let t := s.ownerInstalled cert adopt
    t.now = s.now ∧ t.mb.inflight = s.mb.inflight ∧ t.sc.owned = true ∧ t.sc.ownerCert = cert ∧ t.sc.ownCnt = s.sc.ownCnt + 1 ∧
      t.sc.cfgSvn = 0 ∧ t.sc.authA.session = 0 ∧ t.sc.authB.session = 0 ∧ t.sc.authHp.session = 0 ∧
      (adopt = false → t.mb.committed = none) := by
  cases adopt
  · exact ⟨rfl, rfl, rfl, rfl, rfl, rfl, rfl, rfl, rfl, fun _ => rfl⟩
  · exact ⟨rfl, rfl, rfl, rfl, rfl, rfl, rfl, rfl, rfl, fun h => Bool.noConfusion h⟩

theorem State.ownerInstalled_inv (hi : s.Inv) (cert : List W32) (adopt : Bool) : (s.ownerInstalled cert adopt).Inv := by
  cases adopt <;> exact hi

/-! Opening (R530, R531). -/

theorem exec_unlockNonce_goes {nonce : List W32} (hr : s.Ready ring idx c) (hb : c.WithBuffer opUnlock 1 4) (hop : (c.par 0).get 1 0 = 0)
    (hlen : 48 ≤ c.bufLen) (hm : s.inMode modesAll = true) (hnonce : nonce.length = 12) (hreach : s.bufReach c = true) :
    exec (.unlockNonce ring idx nonce true) s = .next
      ((State.dmaOut { s with sc := { s.sc with unlockNonce := some (nonce, s.elapsed) } } c.bufLoc c.bufAddr nonce).done c 0 0 0 0) := by
  show execUnlockNonce ring idx nonce true s = _
  have hmine : isUnlock 0 c = true := by
    rw [isUnlock, hop]
    exact (Bool.and_true _).trans hb.isOp
  have hwords : (List.range 12).map (fun k => nonce.getD k 0) = nonce := by
    refine List.ext_getElem (by simp [hnonce]) fun k h1 h2 => ?_
    simp [h2]
  unfold execUnlockNonce
  rw [hr.runCmd hmine ((hr.verdict_buffer hb (by simp [hb.buffer, hlen]) rfl rfl rfl hm).trans (by simp [State.dmaCheck, hreach]))]
  dsimp only
  rw [hwords]

/-- The ports that zeroising takes down. -/
theorem State.zeroise_keeps (hi : s.Inv) : s.zeroise.Inv ∧ s.zeroise.now = s.now ∧ s.zeroise.mb.inflight = s.mb.inflight ∧
    s.zeroise.mo = s.mo ∧ s.zeroise.sc = (State.endSessions { s with sc := { s.sc with secrets := false } }).sc := by
  unfold State.zeroise
  extract_lets scOld s1
  have h1 : s1.Inv := hi
  have hports : s1.KeepsNow ((List.range s1.nPort).foldl (fun s p => if s.flag RB_PORT_EN p then s.portDown p 0 else s) s1) :=
    .foldl (fun st p => .ite (st.keepsNow_portDown p 0) (.refl st)) _ _
  have hmoves := Moves.foldl (.refl (s := s1)) (l := List.range s1.nPort)
    (f := fun s p => if s.flag RB_PORT_EN p then s.portDown p 0 else s)
    fun st p => Moves.ite (State.portDown_moves (s := st) (a0 := p) (a1 := 0)) .refl
  obtain ⟨hinv, hnow⟩ := hports h1
  exact ⟨hinv, hnow, (hmoves.keep h1 .phases rfl).symm, (hmoves.keep h1 .mo rfl).symm, (hmoves.keep h1 .access rfl).symm⟩

/-- Debug is enabled, and the session that opened the device is its debug session. -/
def State.debugOpen (s : State) (c : Cmd) (handle : Nat) : State :=
  { s with sc := { s.sc with debugEnabled := true, debugSession := handle, debugMaster := c.master } }

theorem State.opened_false_of_openedLike (ho : s.openedLike = false) : s.opened = false := by
  simp only [State.openedLike, Bool.or_eq_false_iff] at ho
  exact ho.1.1

theorem exec_unlockOpen_opens {w : List W32} {handle : Nat} (hr : s.Ready ring idx c) (hh : s.handleOk handle = true)
    (hb : c.WithBuffer opUnlock 0 4) (hop : (c.par 0).get 1 0 = 1) (hm : s.inMode modesAll = true) (ho : s.openedLike = false)
    (htoken : s.tokenOk 1 c.bufLen w = true) (hcnt : s.sc.openCnt < 16) (hreach : s.bufReach c = true) :
    exec (.unlockOpen ring idx (some w) true handle) s = .next ((s.noNonce.openDevice.debugOpen c handle).done c handle 0 0 0) := by
  show execUnlockOpen ring idx (some w) true handle s = _
  have hmine : isUnlock 1 c = true := by
    rw [isUnlock, hop]
    exact (Bool.and_true _).trans hb.isOp
  unfold execUnlockOpen
  rw [if_neg (by simp [hh])]
  refine (hr.runCmd hmine ((hr.verdict_buffer hb hb.buffer rfl rfl rfl hm).trans (by simp [ho, State.dmaCheck, hreach]))).trans ?_
  have hgo : (s.tokenOk 1 c.bufLen w && true && decide (s.sc.openCnt < 16)) = true := by simp [htoken, hcnt]
  exact congrArg _ ((if_neg (by simp [State.opened_false_of_openedLike ho])).trans ((if_neg (by simp [ho])).trans (if_pos hgo)))

/-- Opening zeroises secrets and owner, blows one bit of OPEN_CNT, enables debug and leaves RUN. -/
theorem State.openDevice_effect (hi : s.Inv) :
    let t := s.openDevice
    t.Inv ∧ t.now = s.now ∧ t.mb.inflight = s.mb.inflight ∧ t.sc.openCnt = s.sc.openCnt + 1 ∧ t.sc.secrets = false ∧
      t.sc.marker = false ∧ t.sc.ownCnt = 0 ∧ t.sc.ownerCert = [] ∧ t.sc.unlockNonce = s.sc.unlockNonce ∧
      t.sc.authA.session = 0 ∧ ⟨0x4802, 2⟩ ∈ t.ec.arrivals ∧ (s.mo.mode = .run → s.mo.pend = none → t.mo.pend = some .commission) := by
  obtain ⟨hzinv, hznow, hzflight, hzmo, hzsc⟩ := State.zeroise_keeps hi
  generalize hz : s.zeroise = z at hzinv hznow hzflight hzmo hzsc
  unfold State.openDevice State.openStep1
  rw [hz]
  extract_lets s0 sc1 s1 sc2 s2 mo2 s3 t
  have h2 : s2.Inv := ⟨hzinv.1, hzinv.2.1, Nat.le_succ_of_le hzinv.2.2⟩
  have h2sc : s2.sc = { z.sc with
      ownerCert := [], ownCnt := 0, adoptedCfg := none, adoptedLogic := none, marker := false, openCnt := z.sc.openCnt + 1
      debugEnabled := true } := rfl
  have h3 : s3.Inv ∧ s3.now = s.now ∧ s3.mb.inflight = s.mb.inflight ∧ s3.sc = s2.sc ∧
      (s.mo.mode = .run → s.mo.pend = none → s3.mo.pend = some .commission) := by
    unfold s3
    split
    · exact ⟨h2, hznow, hzflight, rfl, fun _ _ => rfl⟩
    · next hstays =>
      refine ⟨h2, hznow, hzflight, rfl, fun hrun hpend => absurd ?_ hstays⟩
      show (z.mo.mode == .run && z.mo.pend.isNone) = true
      rw [hzmo, hrun, hpend]
      rfl
  obtain ⟨h3inv, h3now, h3flight, h3sc, h3pend⟩ := h3
  have htold := State.notify_moves (s := s3) (a0 := 0x48) (a1 := 2) (a2 := 2) (a3 := s3.sc.openCnt) (a4 := 0) (a5 := 0) (a6 := 0)
  have hsc : (s3.notify 0x48 2 2 s3.sc.openCnt 0 0 0).sc = { z.sc with
      ownerCert := [], ownCnt := 0, adoptedCfg := none, adoptedLogic := none, marker := false, openCnt := z.sc.openCnt + 1
      debugEnabled := true } := (htold.keep h3inv .access rfl).symm.trans (h3sc.trans h2sc)
  rw [hzsc] at hsc
  refine ⟨htold.inv h3inv, ?_, ?_, ?_, ?_, ?_, ?_, ?_, ?_, ?_, State.notify_mem_arrivals h3inv (by decide) _ _ _ _, ?_⟩
  · exact ((htold.keepsNow rfl) h3inv).2.trans h3now
  · exact (htold.keep h3inv .phases rfl).symm.trans h3flight
  · exact (congrArg SecSt.openCnt hsc).trans rfl
  · exact (congrArg SecSt.secrets hsc).trans rfl
  · exact (congrArg SecSt.marker hsc).trans rfl
  · exact (congrArg SecSt.ownCnt hsc).trans rfl
  · exact (congrArg SecSt.ownerCert hsc).trans rfl
  · exact (congrArg SecSt.unlockNonce hsc).trans rfl
  · exact (congrArg (fun sc : SecSt => sc.authA.session) hsc).trans rfl
  · intro hrun hpend
    rw [show t.mo = s3.mo from (htold.keep h3inv .mo rfl).symm]
    exact h3pend hrun hpend

/-! Re-provisioning (R534). -/

theorem exec_unlockReprovisionRequest_goes {request : List W32} (hr : s.Ready ring idx c) (hb : c.WithBuffer opUnlock 1 4)
    (hop : (c.par 0).get 1 0 = 2) (hlen : 4 * request.length ≤ c.bufLen) (hm : s.inMode modesAll = true) (htamper : s.sc.tamper = true)
    (hreach : s.bufReach c = true) :
    exec (.unlockReprovisionRequest ring idx request true) s = .next
      ((State.dmaOut { s with sc := { s.sc with newKey := true, keyNo := s.sc.keyNo + 1 } } c.bufLoc c.bufAddr request).done c 0 0 0 0) := by
  show execUnlockReprovisionRequest ring idx request true s = _
  have hmine : isUnlock 2 c = true := by
    rw [isUnlock, hop]
    exact (Bool.and_true _).trans hb.isOp
  refine hr.runCmd hmine ((hr.verdict_buffer_auth hb (by simp [hb.buffer, hlen]) rfl rfl ?_ hm).trans ?_)
  · simp [htamper]
  · simp [htamper, State.dmaCheck, hreach]

/-- The certificate that a PROVISION token carries. -/
def tokenCert (w : List W32) : List W32 := (w.drop 17).take (((w.getD 16 0).toNat + 3) / 4)

theorem exec_unlockProvision_installs {w : List W32} (hr : s.Ready ring idx c) (hb : c.WithBuffer opUnlock 0 4)
    (hop : (c.par 0).get 1 0 = 3) (hm : s.inMode modesAll = true) (htoken : s.tokenOk 2 c.bufLen w = true) (hkey : s.sc.newKey = true)
    (hreach : s.bufReach c = true) :
    exec (.unlockProvision ring idx (some w) true true) s = .next
      ((s.noNonce.provision (tokenCert w) (w.getD 16 0).toNat).done c 0 0 0 0) := by
  show execUnlockProvision ring idx (some w) true true s = _
  have hmine : isUnlock 3 c = true := by
    rw [isUnlock, hop]
    exact (Bool.and_true _).trans hb.isOp
  refine (hr.runCmd hmine ((hr.verdict_buffer hb hb.buffer rfl rfl rfl hm).trans (by simp [State.dmaCheck, hreach]))).trans ?_
  have hgo : (s.tokenOk 2 c.bufLen w && true && true && s.sc.newKey) = true := by simp [htoken, hkey]
  exact congrArg _ (if_pos hgo)

theorem State.provision_effect (hi : s.Inv) (cert : List W32) (len : Nat) :
    let t := s.provision cert len
    t.now = s.now ∧ t.mb.inflight = s.mb.inflight ∧ t.sc.provCnt = s.sc.openCnt ∧ t.opened = false ∧ t.sc.tamper = false ∧
      t.sc.owned = false ∧ t.sc.debugSession = 0 := by
  unfold State.provision
  extract_lets was scOld sc t
  have h1 : State.Inv { s with sc := sc } := ⟨hi.1, hi.2.1, Nat.le_refl s.sc.openCnt⟩
  have htold := State.notify_moves (s := { s with sc := sc }) (a0 := 0x48) (a1 := 3) (a2 := 0) (a3 := 0) (a4 := 0) (a5 := 0) (a6 := 0)
  have hsc : t.sc = sc := (htold.keep h1 .access rfl).symm
  refine ⟨((htold.keepsNow rfl) h1).2, (htold.keep h1 .phases rfl).symm, ?_, ?_, ?_, ?_, ?_⟩
  · rw [hsc]
  · rw [State.opened, hsc]
    exact decide_eq_false (Nat.lt_irrefl _)
  · rw [hsc]
  · rw [hsc]
  · rw [hsc]

/-! FW_UPDATE (R523). -/

/-- The slot that is not booting holds the new image. -/
def State.fwWritten (s : State) (img : FwSlot) : State :=
  let sc : SecSt := { s.sc with fwPend := true }
  { s with sc := if s.sc.fwSlot then { sc with slotA := some img } else { sc with slotB := some img } }

theorem exec_fwUpdate_writes {svn maj min : Nat} (hr : s.Ready ring idx c) (hb : c.WithBuffer opFwUpdate 0 0) (hm : s.inMode modesCs = true)
    (hauth : s.authorized c = true ∨ s.openedLike = true) (hsvn : s.sc.fwSvn ≤ svn) (hsvn63 : svn ≤ 63) (hmaj : 1 ≤ maj) (hmaj15 : maj ≤ 15)
    (hreach : s.bufReach c = true) :
    exec (.fwUpdate ring idx (some (svn, maj, min)) true) s = .next ((s.fwWritten ⟨svn, maj, min⟩).done c 0 0 0 0) := by
  show execFwUpdate ring idx (some (svn, maj, min)) true s = _
  obtain ⟨-, -, -, hrom, -⟩ := id hr
  refine hr.runCmd hb.isOp ((hr.verdict_buffer_auth hb hb.buffer rfl rfl (fun h => ?_) ?_).trans ?_)
  · refine hauth.resolve_right fun hopen => ?_
    simp [hrom, hopen] at h
  · simp [hrom, hm]
  · have h1 : ¬svn < s.sc.fwSvn := Nat.not_lt.2 hsvn
    have h2 : ¬63 < svn := Nat.not_lt.2 hsvn63
    have h3 : maj ≠ 0 := by omega
    have h4 : ¬15 < maj := Nat.not_lt.2 hmaj15
    simp [State.reach, hreach, h1, h2, h3, h4]

/-! Link authentication (R528). -/

/-- A frame that leaves one port counts there; nothing else of the port changes. -/
theorem State.rbSend_port {p : Nat} (hmap : mapOk (fun _ => PortSt.init) s.rb.port = true) (cls type dmode dst stn group : Nat)
    (payload : List Nat) :
    mapOk (fun _ => PortSt.init) (s.rbSend cls type dmode dst stn group payload [p]).rb.port = true ∧
      ∃ n, (s.rbSend cls type dmode dst stn group payload [p]).port p = { s.port p with lctrTx := n } := by
  unfold State.rbSend
  split
  · exact ⟨mset_ok hmap, _, mget_mset_same p _ _ hmap⟩
  · exact ⟨hmap, _, rfl⟩

theorem State.authFail_port (hmap : mapOk (fun _ => PortSt.init) s.rb.port = true) (p : Nat) :
    (s.authFail p).port p = { s.port p with auth := 0, stepAt := s.elapsed + 800000000 } :=
  mget_mset_same p _ _ hmap

theorem exec_authFrameReceive_received {p : Nat} (hon : s.lanesOn = true) (hfw : s.firmwareOn = true) (hp : s.portUsed p = true)
    (hstep : (s.port p).step = 6) (hat : (s.port p).stepAt ≤ s.elapsed) (words : List W32) (verdict : Nat) :
    exec (.authFrameReceive p words verdict) s = .next (s.authReceive p words verdict) := by
  show execAuthFrameReceive p words verdict s = _
  exact if_pos (by simp [hon, hfw, hp, hstep, hat])

/-- A good HELLO is noted and answered. -/
theorem State.authReceive_hello {p : Nat} {words : List W32} (hmap : mapOk (fun _ => PortSt.init) s.rb.port = true)
    (hmsg : (words.getD 0 0).get 31 24 = 1) (hsecrets : s.sc.secrets = true) :
    ∃ n, (s.authReceive p words 0).port p = { s.port p with auth := natSetBit (s.port p).auth 0 true, lctrTx := n } := by
  have hgo : s.authReceive p words 0 =
      (s.setPort p { s.port p with auth := natSetBit (s.port p).auth 0 true }).authSend p ((words.getD 0 0).get 31 24) 0 :=
    (if_neg (by omega)).trans ((if_neg (by simp [hsecrets])).trans ((if_neg (fun h => h rfl)).trans (if_pos hmsg)))
  have hset : mapOk (fun _ => PortSt.init) (s.setPort p { s.port p with auth := natSetBit (s.port p).auth 0 true }).rb.port = true :=
    mset_ok hmap
  obtain ⟨-, n, hn⟩ := State.rbSend_port (p := p) hset 2 0x21 3 0 0 0 [(words.getD 0 0).get 31 24 * 2 ^ 24 + 0 * 2 ^ 16, 0]
  refine ⟨n, ?_⟩
  have hport : (s.setPort p { s.port p with auth := natSetBit (s.port p).auth 0 true }).port p = _ := mget_mset_same p _ _ hmap
  rw [hport] at hn
  exact hgo ▸ hn

/-- A HELLO that proves nothing is answered by an ALERT, and the attempt ends. -/
theorem State.authReceive_alert {p v : Nat} {words : List W32} (hmap : mapOk (fun _ => PortSt.init) s.rb.port = true)
    (hmsg : (words.getD 0 0).get 31 24 = 1) (hsecrets : s.sc.secrets = true) (hv : v ≠ 0) :
    ((s.authReceive p words v).port p).auth = 0 ∧ ((s.authReceive p words v).port p).stepAt = s.elapsed + 800000000 := by
  have hgo : s.authReceive p words v = (s.authSend p 4 v).authFail p :=
    (if_neg (by omega)).trans ((if_neg (by simp [hsecrets])).trans (if_pos hv))
  obtain ⟨hsent, -⟩ := State.rbSend_port (p := p) hmap 2 0x21 3 0 0 0 [4 * 2 ^ 24 + v * 2 ^ 16, 0]
  have helapsed : (s.authSend p 4 v).elapsed = s.elapsed := by
    unfold State.authSend State.rbSend
    split <;> rfl
  have hfail : ((s.authSend p 4 v).authFail p).port p = _ := State.authFail_port hsent p
  rw [hgo]
  exact ⟨congrArg PortSt.auth hfail, (congrArg PortSt.stepAt hfail).trans (congrArg (· + 800000000) helapsed)⟩

/-! The key-store monitor (R521). -/

/-- The key store as a tamper cause leaves it. -/
def State.tampered (s : State) : State := { s.zeroise with sc := { s.zeroise.sc with tamper := true } }

theorem exec_keyTamper_acts {cause : Nat} (hlow : 1 ≤ cause) (hhigh : cause ≤ 3) (hkeep : s.mo.vddKeep = true) :
    let last := s.tampered.evLast ⟨0x4804, 0, s.tampered.now, cause, 0, 0, true⟩
    exec (.keyTamper cause) s = .next (if s.mo.mode = .keeper then last else last.notify 0x48 4 3 cause 0 0 0) := by
  intro last
  show execKeyTamper cause s = _
  refine (if_neg (by simp [hlow, hhigh, hkeep])).trans ?_
  show (if (s.mo.mode == .keeper) = true then _ else _ : Res) = _
  by_cases hk : s.mo.mode = .keeper
  · exact (if_pos (beq_iff_eq.2 hk)).trans (congrArg _ (if_pos hk).symm)
  · exact (if_neg (fun h => hk (beq_iff_eq.1 h))).trans (congrArg _ (if_neg hk).symm)

theorem State.tampered_effect (hi : s.Inv) :
    s.tampered.Inv ∧ s.tampered.sc.tamper = true ∧ s.tampered.sc.secrets = false ∧ s.tampered.openedLike = true ∧
      s.tampered.sc.openCnt = s.sc.openCnt ∧ s.tampered.sc.authA.session = 0 ∧ s.tampered.sc.authB.session = 0 ∧
      s.tampered.sc.authHp.session = 0 := by
  obtain ⟨hzinv, -, -, -, hzsc⟩ := State.zeroise_keeps hi
  have htamper : s.tampered.sc.tamper = true := rfl
  refine ⟨hzinv, htamper, (congrArg SecSt.secrets hzsc).trans rfl, ?_, (congrArg SecSt.openCnt hzsc).trans rfl, (congrArg (fun sc : SecSt => sc.authA.session) hzsc).trans rfl,
    (congrArg (fun sc : SecSt => sc.authB.session) hzsc).trans rfl, (congrArg (fun sc : SecSt => sc.authHp.session) hzsc).trans rfl⟩
  simp [State.openedLike, htamper]

end

/-- Boundary-scan instructions that drive the balls act only while RESET_N is low (R535). -/
theorem State.jtagActs_drives {s : State} {code : Nat} (hjtag : s.sc.jtag = jtagOf code) (hlow : 3 ≤ code) (hhigh : code ≤ 5) :
    s.jtagActs = if s.mo.resetN then .bypass else jtagOf code := by
  have hcode : code = 3 ∨ code = 4 ∨ code = 5 := by omega
  unfold State.jtagActs
  rw [hjtag]
  rcases hcode with rfl | rfl | rfl <;> rfl

end Sys2Proof.Machine
end

