-- ==== Sys2Proof/Proofs/AccessSettled.lean ====
section
/-! The statement about identity and access (R521 to R535), from what each command does. -/

namespace Sys2Proof.Machine

open Sys2Proof

/-- Settles O60: each command's checks pass, and what it does is read off the security controller's state, which notifications and
links that go down leave alone (R521 to R535). -/
theorem identityOwnershipOpeningAndTamperAct : Obligations.IdentityOwnershipOpeningAndTamperAct := by
  unfold Obligations.IdentityOwnershipOpeningAndTamperAct
  refine ⟨fun s ring idx c hi hr => ⟨?challenge, ?response, ?authEnd, ?attest, ?owner, ?nonce, ?opening, ?request, ?provision, ?firmware⟩,
    ?hello, ?tamper, ?jtag⟩
  case challenge =>
    intro hp hm ho hblocked n0 n1 n2 n3
    obtain ⟨hdone, hauth⟩ := State.setAuth_done hr.mem hr.undecided
      { s.authOf c.master with nonce := some ([n0, n1, n2, n3], s.elapsed), parts := [] } n0.toNat n1.toNat n2.toNat n3.toNat
    exact ⟨_, exec_authChallenge_goes hr hp hm ho hblocked n0 n1 n2 n3, hdone, congrArg AuthSt.nonce hauth⟩
  case response =>
    intro ok h hh hm ho
    refine ⟨fun hp hpart => ?_, fun n hp hpart hnonce hlive hpart0 hpart1 => ?_⟩
    · have hgo := exec_authResponse_goes hr hp hm ho hh (by omega) (by rw [if_neg (by omega)]) ok
      dsimp only at hgo
      rw [if_pos (by omega)] at hgo
      obtain ⟨hdone, hauth⟩ := State.setAuth_done hr.mem hr.undecided
        { s.authOf c.master with
          parts := (c.part, c.pars 1) :: (s.authOf c.master).parts.filter (fun e => e.1 != c.part) } 0 0 0 0
      refine ⟨_, hgo, hdone, ?_⟩
      rw [hauth]
      exact List.mem_cons_self
    · have hgo := exec_authResponse_goes hr hp hm ho hh (by omega) (by rw [if_pos hpart]) ok
      simp only [hpart, hnonce, hlive, hpart0, hpart1, ne_eq, not_true_eq_false, if_false, decide_true, Bool.true_and] at hgo
      refine ⟨fun hok => ?_, fun hok => ?_⟩
      · rw [if_pos hok] at hgo
        obtain ⟨hdone, hauth⟩ := State.setAuth_done hr.mem hr.undecided
          { s.authOf c.master with session := h, nonce := none, parts := [] } h 0 0 0
        exact ⟨_, hgo, hdone, congrArg AuthSt.session hauth, congrArg AuthSt.nonce hauth⟩
      · rw [if_neg (by simp [hok])] at hgo
        exact ⟨_, hgo, State.authFailed_effect hi hr.mem hr.undecided⟩
  case authEnd =>
    intro hp hm hsession hown
    obtain ⟨hdone, hauth⟩ := State.setAuth_done hr.mem hr.undecided (s.authOf c.master).closed 0 0 0 0
    exact ⟨_, exec_authEnd_own hr hp hm hsession hown, hdone, congrArg AuthSt.session hauth⟩
  case attest =>
    intro hashes hb hlen hm ho hreach
    exact ⟨_, exec_attest_goes hr hb hlen hm ho hreach hashes, State.done_outcome hr.mem hr.undecided _ _ _ _, rfl⟩
  case owner =>
    intro adopt cert hb hm ho hreach hauth
    obtain ⟨hnow, hflight, howned, hcert, hcnt, hsvn, hA, hB, hHp, himage⟩ := s.ownerInstalled_effect cert adopt
    have hinst := State.ownerInstalled_inv hi cert adopt
    have htold := State.notify_moves (s := s.ownerInstalled cert adopt) (a0 := 0x48) (a1 := 1) (a2 := 0)
      (a3 := (s.ownerInstalled cert adopt).sc.ownCnt) (a4 := 0) (a5 := 0) (a6 := 0)
    have hgo := exec_ownerTransfer_goes hr hb hm ho hreach hauth adopt cert
    generalize (s.ownerInstalled cert adopt).notify 0x48 1 0 (s.ownerInstalled cert adopt).sc.ownCnt 0 0 0 = t at htold hgo
    have hsc : t.sc = (s.ownerInstalled cert adopt).sc := (htold.keep hinst .access rfl).symm
    have hc : c ∈ t.mb.inflight := by
      rw [← htold.keep hinst .phases rfl, hflight]
      exact hr.mem
    have htime : t.now = s.now := ((htold.keepsNow rfl) hinst).2.trans hnow
    obtain ⟨-, hcommitted, -⟩ := htold.keep hinst .images rfl
    refine ⟨_, hgo, htime ▸ State.done_outcome hc hr.undecided 0 0 0 0, ?_⟩
    show t.sc.owned = true ∧ t.sc.ownerCert = cert ∧ t.sc.ownCnt = s.sc.ownCnt + 1 ∧ t.sc.cfgSvn = 0 ∧ t.sc.authA.session = 0 ∧
      t.sc.authB.session = 0 ∧ t.sc.authHp.session = 0 ∧ (adopt = false → t.mb.committed = none)
    rw [hsc, ← hcommitted]
    exact ⟨howned, hcert, hcnt, hsvn, hA, hB, hHp, himage⟩
  case nonce =>
    intro nonce hb hop hlen hm hnonce hreach
    exact ⟨_, exec_unlockNonce_goes hr hb hop hlen hm hnonce hreach, State.done_outcome hr.mem hr.undecided _ _ _ _, rfl, rfl⟩
  case opening =>
    intro w h hh hb hop hm ho htoken hcnt hreach
    have hspent : s.noNonce.Inv := hi
    obtain ⟨-, hnow, hflight, hopen, hsecrets, hmarker, hown, hcert, hnonce, hA, harrived, hpend⟩ := State.openDevice_effect hspent
    have hgo := exec_unlockOpen_opens hr hh hb hop hm ho htoken hcnt hreach
    generalize s.noNonce.openDevice = t at hnow hflight hopen hsecrets hmarker hown hcert hnonce hA harrived hpend hgo
    have hc : c ∈ (t.debugOpen c h).mb.inflight := by
      show c ∈ t.mb.inflight
      rw [hflight]
      exact hr.mem
    have htime : (t.debugOpen c h).now = s.now := hnow
    have hdone := State.done_outcome hc hr.undecided h 0 0 0
    rw [htime] at hdone
    exact ⟨_, hgo, hdone, hopen, hsecrets, hmarker, hown, hcert, rfl, rfl, hnonce, hA, harrived, hpend⟩
  case request =>
    intro request hb hop hlen hm htamper hreach
    exact ⟨_, exec_unlockReprovisionRequest_goes hr hb hop hlen hm htamper hreach, State.done_outcome hr.mem hr.undecided _ _ _ _,
      rfl, rfl⟩
  case provision =>
    intro w hb hop hm htoken hkey hreach
    have hspent : s.noNonce.Inv := hi
    obtain ⟨hnow, hflight, hprov, hopened, htamper, howned, hdebug⟩ :=
      State.provision_effect hspent (tokenCert w) (w.getD 16 0).toNat
    have hgo := exec_unlockProvision_installs hr hb hop hm htoken hkey hreach
    generalize s.noNonce.provision (tokenCert w) (w.getD 16 0).toNat = t at hnow hflight hprov hopened htamper howned hdebug hgo
    have hc : c ∈ t.mb.inflight := by
      rw [hflight]
      exact hr.mem
    have htime : t.now = s.now := hnow
    have hdone := State.done_outcome hc hr.undecided 0 0 0 0
    rw [htime] at hdone
    exact ⟨_, hgo, hdone, hprov, hopened, htamper, howned, hdebug⟩
  case firmware =>
    intro svn maj min hb hm hauth hsvn hsvn63 hmaj hmaj15 hreach
    refine ⟨_, exec_fwUpdate_writes hr hb hm hauth hsvn hsvn63 hmaj hmaj15 hreach, State.done_outcome hr.mem hr.undecided 0 0 0 0, ?_⟩
    show (s.fwWritten ⟨svn, maj, min⟩).sc.fwPend = true ∧ _ ∧ _
    unfold State.fwWritten
    cases hslot : s.sc.fwSlot
    · exact ⟨rfl, fun h => Bool.noConfusion h, fun _ => ⟨rfl, rfl⟩⟩
    · exact ⟨rfl, fun _ => ⟨rfl, rfl⟩, fun h => Bool.noConfusion h⟩
  case hello =>
    intro s p words _ hmaps hon hfw hp hstep hat hmsg hsecrets
    have hmap : mapOk (fun _ => PortSt.init) s.rb.port = true := by
      simp only [State.laneMapsOk, Bool.and_eq_true] at hmaps
      exact hmaps.1.1.1.1.1
    refine ⟨?_, fun v hv => ⟨_, exec_authFrameReceive_received hon hfw hp hstep hat words v, State.authReceive_alert hmap hmsg hsecrets hv⟩⟩
    obtain ⟨n, hport⟩ := State.authReceive_hello hmap hmsg hsecrets (p := p)
    refine ⟨_, exec_authFrameReceive_received hon hfw hp hstep hat words 0, ?_⟩
    rw [hport]
    exact ⟨natBit_natSetBit _ _ _, hstep⟩
  case tamper =>
    intro s cause hi hlow hhigh hkeep
    obtain ⟨hinv, hstored⟩ := State.tampered_effect hi
    have hgo := exec_keyTamper_acts hlow hhigh hkeep
    have hlast := State.evLast_moves (s := s.tampered) (a0 := ⟨0x4804, 0, s.tampered.now, cause, 0, 0, true⟩)
    dsimp only at hgo
    generalize s.tampered.evLast ⟨0x4804, 0, s.tampered.now, cause, 0, 0, true⟩ = last at hgo hlast
    have hlastInv : last.Inv := hlast.inv hinv
    have hsc : (if s.mo.mode = .keeper then last else last.notify 0x48 4 3 cause 0 0 0).sc = s.tampered.sc := by
      split
      · exact (hlast.keep hinv .access rfl).symm
      · exact ((hlast.keep hinv .access rfl).trans (State.notify_moves.keep hlastInv .access rfl)).symm
    refine ⟨_, hgo, ?_⟩
    simp only [State.openedLike, State.opened] at hstored ⊢
    rw [hsc]
    obtain ⟨htamper, hsecrets, hopened, hcnt, hA, hB, hHp⟩ := hstored
    refine ⟨htamper, hsecrets, hopened, hcnt, hA, hB, hHp, fun hk => ?_⟩
    rw [if_neg hk]
    exact State.notify_mem_arrivals hlastInv (by decide) _ _ _ _
  case jtag =>
    intro s code _
    exact ⟨_, rfl, rfl, fun hlow hhigh => State.jtagActs_drives rfl hlow hhigh⟩

end Sys2Proof.Machine
end

