-- ==== Sys2Proof/Proofs/TimeStates.lean ====
section
/-! The time unit (R500 to R506): INCREMENT, slews, steps, and the time states. -/

namespace Sys2Proof.Machine

open Sys2Proof

/-! A change of the time state. -/

theorem State.tuEnter_same {s : State} {st : TimeState} (h : s.tu.state = st) : s.tuEnter st = s := if_pos h

/-- The state locks the counter to a master. -/
def TimeState.locks (st : TimeState) : Bool := st == .locked || st == .gm

/-- The unit after it entered a state. -/
def TimeUnit.entered (tu : TimeUnit) (elapsed : Nat) (st : TimeState) : TimeUnit :=
  { tu with
    state := st, ever := tu.ever || st.locks, syncRun := 0
    holdSince := if !st.locks && tu.state.locks then elapsed else tu.holdSince
    rtcAt := if st.locks then elapsed else tu.rtcAt }

theorem State.tuEnter_effect {s : State} (hi : s.Inv) {st : TimeState} (h : s.tu.state ≠ st) :
    (s.tuEnter st).tu = s.tu.entered s.elapsed st ∧ (st.locks = true → (s.tuEnter st).kp.rtcSec = s.tu.sec) ∧
      (st = .holdover → ⟨0x4301, 1⟩ ∈ (s.tuEnter st).ec.arrivals) := by
  unfold State.tuEnter
  rw [if_neg h]
  extract_lets old was locks tuOld s1 tuOld1 s2 s3
  have hlocks : st.locks = locks := rfl
  have h2 : s2.Inv ∧ s2.tu = { s1.tu with holdSince := if !st.locks && s.tu.state.locks then s.elapsed else s.tu.holdSince } := by
    unfold s2
    have hcond : (s1.holdover && !was) = (!st.locks && s.tu.state.locks) := by
      show (!st.locks && !!s.tu.state.locks) = _
      rw [Bool.not_not]
    rw [hcond]
    split
    · exact ⟨hi, rfl⟩
    · exact ⟨hi, rfl⟩
  obtain ⟨h2inv, h2tu⟩ := h2
  have h3 : s3.tu = s2.tu := (State.notify_moves.keep h2inv .tu rfl).symm
  rw [h2tu] at h3
  refine ⟨?_, fun hl => ?_, fun hhold => ?_⟩
  · unfold TimeUnit.entered
    rw [hlocks]
    cases hl : locks
    · rw [if_neg Bool.false_ne_true, h3]
      simp only [s1, hlocks, hl, if_neg Bool.false_ne_true]
      rfl
    · rw [if_pos rfl]
      show ({ s3.tu with rtcAt := s3.elapsed } : TimeUnit) = _
      have helapsed : s3.elapsed = s.elapsed := by
        refine (State.notify_moves.keep h2inv .elapsed rfl).symm.trans ?_
        unfold s2
        split <;> rfl
      rw [h3, helapsed]
      simp only [s1, hlocks, hl, if_pos]
      rfl
  · rw [if_pos (hlocks ▸ hl)]
    exact congrArg (·.sec) h3
  · subst hhold
    rw [if_neg (show ¬locks = true by decide)]
    exact State.notify_mem_arrivals h2inv (by decide) _ _ _ _

theorem TimeState.locks_iff {st : TimeState} : st.locks = true ↔ st = .locked ∨ st = .gm := by cases st <;> decide

theorem State.holdover_eq (s : State) : s.holdover = !s.tu.state.locks := rfl

/-! What the servo's writes do (R500 to R505). -/

section
variable {s : State}

theorem State.setIncrement_increment (hi : s.Inv) {frac ns : Nat} (hfrac : frac < 2 ^ 32) (hns : ns < 4) :
    (s.setIncrement frac ns).increment = ns * 2 ^ 32 + frac := by
  have hw : (s.wr TU_ADJ_INC_FRAC 0 frac).Inv := State.wr_inv hi _ _ _
  have hrdns : (s.setIncrement frac ns).rd TU_ADJ_INC_NS 0 = ns % 2 ^ 2 := State.rd_wr_same hw (by decide) 0 ns
  have hrdfrac : (s.setIncrement frac ns).rd TU_ADJ_INC_FRAC 0 = frac % 2 ^ 32 :=
    (State.rd_wr_ne hw (by decide) ns (Field.apart_of_word (by decide))).trans (State.rd_wr_same hi (by decide) 0 frac)
  rw [State.increment, hrdns, hrdfrac, Nat.mod_eq_of_lt hfrac, Nat.mod_eq_of_lt (show ns < 2 ^ 2 from hns)]

theorem State.setSlew_tu (hi : s.Inv) (ns : Int) (ms : Nat) :
    let t := s.setSlew ns ms
    t.tu.slewing = true ∧ t.tu.slewTotal = ns * 2 ^ 32 ∧ t.tu.slewCycles = ms * 800000 ∧ t.tu.slewDone = 0 ∧
      t.tu.state = (if s.tu.state = .unset then .acquire else s.tu.state) := by
  unfold State.setSlew
  extract_lets tuOld s1 t
  have h1 : s1.Inv := hi
  by_cases hu : s.tu.state = .unset
  · have ht : t = s1.tuEnter .acquire := if_pos hu
    obtain ⟨htu, -⟩ := State.tuEnter_effect h1 (st := .acquire) (by rw [show s1.tu.state = s.tu.state from rfl, hu]; decide)
    rw [ht, htu, if_pos hu]
    exact ⟨rfl, rfl, rfl, rfl, rfl⟩
  · have ht : t = s1 := if_neg hu
    rw [ht, if_neg hu]
    exact ⟨rfl, rfl, rfl, rfl, rfl⟩

/-- The state that LOCK = 1 leads to. -/
def State.lockState (s : State) : TimeState := if s.rd TU_CFG_ROLE 0 = 1 then .gm else .locked

theorem State.lockState_locks (s : State) : s.lockState.locks = true := by
  unfold State.lockState
  split <;> rfl

/-- LOCK = 1 in a state that is not locked. -/
theorem State.tuLock_enters (h : s.tu.state ≠ .locked) (h' : s.tu.state ≠ .gm) : s.tuLock = s.tuEnter s.lockState :=
  if_neg (not_or.2 ⟨h, h'⟩)

theorem State.tuLock_effect (hi : s.Inv) (h : s.tu.state ≠ .locked) (h' : s.tu.state ≠ .gm) :
    s.tuLock.tu = s.tu.entered s.elapsed s.lockState ∧ s.tuLock.kp.rtcSec = s.tu.sec := by
  have hne : s.tu.state ≠ s.lockState := by
    unfold State.lockState
    split
    · exact h'
    · exact h
  obtain ⟨htu, hrtc, -⟩ := State.tuEnter_effect hi hne
  rw [State.tuLock_enters h h']
  exact ⟨htu, hrtc s.lockState_locks⟩

/-! Steps (R502, R508). -/

/-- The instant that a step leads to. -/
def State.stepTai (s : State) (r : StepReq) : Nat := (max 0 (Int.ofNat s.tai + r.secs * 1000000000 + r.nanos)).toNat

/-- The counter after its step. -/
def State.stepped (s : State) (r : StepReq) : State :=
  { s with tu := { s.tu with
    sec := (Stamp.ofTai (s.stepTai r)).sec % 2 ^ 48, ns := (Stamp.ofTai (s.stepTai r)).ns, step := none
    steps := satAdd 0xFFFFFFFF s.tu.steps 1, stepOld := s.tai, stepNew := (Stamp.ofTai (s.stepTai r)).tai } }

/-- Told, and in ACQUIRE. -/
def State.steppedTold (s : State) (r : StepReq) : State :=
  ((s.stepped r).notify 0x43 2 1 (toSigned 32 r.secs) (toSigned 32 r.nanos) 0 0).tuEnter .acquire

/-- The paths begin anew where they run. -/
def State.steppedOn (s : State) (r : StepReq) : State :=
  if (s.steppedTold r).pathsOn then (s.steppedTold r).pathsStart (Stamp.ofTai (s.stepTai r)).tai else s.steppedTold r

theorem exec_timeStepApply_due {r : StepReq} (hr : s.tu.step = some r) (hrun : s.tu.running = true) (hdue : r.notBefore ≤ s.tai) :
    exec .timeStepApply s = .next ((s.steppedOn r).settle r.cmd .ok 0 0 (some (s.steppedOn r).now)) := by
  have hgo : ¬(!s.tu.running || decide (s.tai < r.notBefore)) = true := by simp [hrun, hdue]
  show execTimeStepApply s = _
  unfold execTimeStepApply
  rw [hr]
  exact if_neg hgo

/-- Neither the paths nor the answer touch the counter, or take an error back. -/
theorem State.steppedOn_settle_moves (r : StepReq) (t : Option Stamp) :
    Moves 0x100000000000000000000000000000000000000000000000000000000000000000000000c0400 (s.steppedTold r)
      ((s.steppedOn r).settle r.cmd .ok 0 0 t) := by
  have hpaths : Moves 0xc0000 (s.steppedTold r) (s.steppedOn r) := .ite State.pathsStart_moves .refl
  exact (hpaths.mono rfl).trans (State.settle_moves.mono rfl)

theorem State.steppedTold_effect (hi : s.Inv) (r : StepReq) :
    (s.steppedTold r).Inv ∧ (s.steppedTold r).tu.sec = (s.stepped r).tu.sec ∧ (s.steppedTold r).tu.ns = (s.stepped r).tu.ns ∧
      (s.steppedTold r).tu.step = none ∧ (s.steppedTold r).tu.state = .acquire ∧
      (s.steppedTold r).tu.steps = satAdd 0xFFFFFFFF s.tu.steps 1 ∧ ⟨0x4302, 1⟩ ∈ (s.steppedTold r).ec.arrivals := by
  have h1 : (s.stepped r).Inv := hi
  have htold := State.notify_moves (s := s.stepped r) (a0 := 0x43) (a1 := 2) (a2 := 1) (a3 := toSigned 32 r.secs)
    (a4 := toSigned 32 r.nanos) (a5 := 0) (a6 := 0)
  have harrived : ⟨0x4302, 1⟩ ∈ ((s.stepped r).notify 0x43 2 1 (toSigned 32 r.secs) (toSigned 32 r.nanos) 0 0).ec.arrivals :=
    State.notify_mem_arrivals h1 (by decide) _ _ _ _
  unfold State.steppedTold
  generalize (s.stepped r).notify 0x43 2 1 (toSigned 32 r.secs) (toSigned 32 r.nanos) 0 0 = x at htold harrived
  have hx : x.Inv := htold.inv h1
  have htu : x.tu = (s.stepped r).tu := (htold.keep h1 .tu rfl).symm
  have henter := State.tuEnter_moves (s := x) (a0 := .acquire)
  refine ⟨henter.inv hx, ?_⟩
  have hmore := (henter.keep hx .errors rfl).subset harrived
  by_cases ha : x.tu.state = .acquire
  · rw [State.tuEnter_same ha, ha, htu]
    exact ⟨rfl, rfl, rfl, rfl, rfl, harrived⟩
  · obtain ⟨hentered, -⟩ := State.tuEnter_effect hx ha
    rw [hentered, htu]
    exact ⟨rfl, rfl, rfl, rfl, rfl, hmore⟩

end

end Sys2Proof.Machine
end

