-- ==== Sys2Proof/Proofs/TimeMessages.lean ====
section
/-! Time messages on Renby ports (R509 to R512): what is sent, and what the best master clock algorithm and the servo do. -/

namespace Sys2Proof.Machine

open Sys2Proof

/-! Messages that leave. -/

/-- The state with other messages sent, and other frame counts. -/
def State.withSent (s : State) (tx : AMap (Option PtpMsg)) (rb : RbSt) : State := { s with tu := { s.tu with ptpTx := tx }, rb := rb }

/-- The last message of a kind that left port `p` left at the instant of `s`, from this device. -/
def State.SentAt (s : State) (tx : AMap (Option PtpMsg)) (p kind cls : Nat) : Prop :=
  ∃ m, mget (fun _ => none) tx (p * 16 + kind) = some m ∧ m.kind = kind ∧ m.time = s.taiPs ∧ m.port = p + 1 ∧
    m.domain = s.rd TU_CFG_DOMAIN 0 ∧ m.identity = s.serial ∧ m.cls = cls

section
variable {s : State}

theorem State.SentAt.mset {tx : AMap (Option PtpMsg)} {p kind cls k : Nat} (h : s.SentAt tx p kind cls) (hk : p * 16 + kind ≠ k)
    (v : Option PtpMsg) : s.SentAt (mset (fun _ => none) k v tx) p kind cls := by
  obtain ⟨m, hm, hrest⟩ := h
  have hfound : mget (fun _ => none) tx (p * 16 + kind) ≠ none := by rw [hm]; exact Option.some_ne_none m
  have hkept := mget_mset_found (d := fun _ => (none : Option PtpMsg)) v hk tx hfound
  rw [hm] at hkept
  exact ⟨m, hkept, hrest⟩

theorem State.withSent_ptpPut (s : State) (tx : AMap (Option PtpMsg)) (rb : RbSt) (p : Nat) (m : PtpMsg) :
    (s.withSent tx rb).ptpPut p m = s.withSent (mset (fun _ => none) (p * 16 + m.kind) (some m) tx) rb := rfl

/-- A frame that leaves a port is counted. -/
def State.frameCounted (s : State) (p : Nat) : State :=
  let s2 := s.setPort p { s.port p with lctrTx := (s.port p).lctrTx + 1 }
  { s2 with rb := { s2.rb with seq := mmod (fun _ => 0) 1 (fun n => (n + 1) % 2 ^ 32) s2.rb.seq } }

theorem State.frameCounted_rb (s : State) (p : Nat) : ∃ rb, s.frameCounted p = { s with rb := rb } := ⟨_, rfl⟩

/-- A message is sent, and no other kind of state than messages and frame counts changes. -/
theorem State.ptpSend_withSent (s : State) (tx : AMap (Option PtpMsg)) (rb : RbSt) (p kind cls seq : Nat) :
    ∃ rb', (s.withSent tx rb).ptpSend p kind cls seq =
      s.withSent (mset (fun _ => none) (p * 16 + kind)
        (some ⟨kind, s.rd TU_CFG_DOMAIN 0, s.serial, p + 1, seq, s.taiPs, cls⟩) tx) rb' := by
  have hput := s.withSent_ptpPut tx rb p ⟨kind, s.rd TU_CFG_DOMAIN 0, s.serial, p + 1, seq, s.taiPs, cls⟩
  obtain ⟨rb', hrb⟩ := ((s.withSent tx rb).ptpPut p
    ⟨kind, s.rd TU_CFG_DOMAIN 0, s.serial, p + 1, seq, s.taiPs, cls⟩).frameCounted_rb p
  rw [hput] at hrb
  exact ⟨rb', hrb⟩

theorem State.ptpNext_foldl {p kind cls : Nat} : ∀ (l : List Nat) (tx : AMap (Option PtpMsg)) (rb : RbSt),
    p ∈ l ∨ s.SentAt tx p kind cls →
      ∃ tx' rb', l.foldl (fun s p => s.ptpNext p kind cls) (s.withSent tx rb) = s.withSent tx' rb' ∧ s.SentAt tx' p kind cls
  | [], tx, rb, h => ⟨tx, rb, rfl, h.resolve_left List.not_mem_nil⟩
  | q :: l, tx, rb, h => by
    obtain ⟨rb', hq⟩ := s.ptpSend_withSent tx rb q kind cls ((s.withSent tx rb).ptpSeq q kind)
    have hsent : p = q ∨ s.SentAt tx p kind cls ∨ p ∈ l := by
      rcases h with hp | hp
      · exact (List.mem_cons.1 hp).imp_right .inr
      · exact .inr (.inl hp)
    rw [List.foldl_cons, State.ptpNext, hq]
    refine State.ptpNext_foldl l _ rb' ?_
    by_cases hpq : p = q
    · subst hpq
      exact .inr ⟨_, mget_mset_of_ne (d := fun _ => none) (Option.some_ne_none _) tx, rfl, rfl, rfl, rfl, rfl, rfl⟩
    · exact ((hsent.resolve_left hpq).symm).imp_right fun h => h.mset (by omega) _

/-- Messages on Ethernet lanes leave those of the ports alone. -/
theorem State.ethSend_foldl {p kind cls : Nat} (hp : p < 256) {seq : State → Nat → Nat} : ∀ (l : List Nat) (tx : AMap (Option PtpMsg)) (rb : RbSt),
    s.SentAt tx p kind cls →
      ∃ tx', l.foldl (fun s l => s.ethSend l kind (seq s l)) (s.withSent tx rb) = s.withSent tx' rb ∧ s.SentAt tx' p kind cls
  | [], tx, rb, h => ⟨tx, rfl, h⟩
  | q :: l, tx, rb, h => State.ethSend_foldl hp l _ rb (h.mset (show p * 16 + kind ≠ (256 + q) * 16 + kind by omega) _)

theorem exec_syncSend_sends (hon : s.lanesOn = true)
    (hidx : s.tu.syncIdx ≠ s.tai * 2 ^ s.rd TU_CFG_RB_SYNC 0 / 1000000000 + 1)
    (hgrid : s.gridOk (1000000000 / 2 ^ s.rd TU_CFG_RB_SYNC 0) = true) :
    exec .syncSend s = .next ((s.portsUp.filter (fun p => s.rd TU_PORT_PSTATE p == 1)).foldl (fun s p => s.ptpNext p 0 0)
      { s with tu := { s.tu with syncIdx := s.tai * 2 ^ s.rd TU_CFG_RB_SYNC 0 / 1000000000 + 1 } }) := by
  show execSyncSend s = _
  exact if_neg (by simp [hon, hidx, hgrid])

/-- The state with its Pdelay_Req counted. -/
def State.pdCounted (s : State) : State := { s with tu := { s.tu with pdIdx := s.tai / 62500000 + 1 } }

theorem exec_pdelayReqSend_sends (hon : s.lanesOn = true) (hidx : s.tu.pdIdx ≠ s.tai / 62500000 + 1)
    (hgrid : s.gridOk 62500000 = true) :
    let asked := s.portsUp.foldl (fun s p => s.ptpNext p 2 0) s.pdCounted
    exec .pdelayReqSend s = .next
      (if asked.firmwareOn && decide (s.tai / 1000000000 ≠ (s.tu.pdIdx - 1) / 16 ∨ s.tu.pdIdx = 0) then
        asked.ethLanes.foldl (fun s l => s.ethSend l 2 (s.ptpSeq (256 + l) 2)) asked
      else asked) := by
  intro asked
  show execPdelayReqSend s = _
  exact if_neg (by simp [hon, hidx, hgrid])

/-! What the best master clock algorithm decides (R510). -/

theorem State.pstate_foldl (v : Nat → Nat) {p : Nat} (hp : p < 65536) : ∀ (l : List Nat) {s : State}, s.Inv → (∀ q ∈ l, q < 65536) →
    p ∈ l ∨ s.rd TU_PORT_PSTATE p = v p % 4 →
      (l.foldl (fun s q => s.wr TU_PORT_PSTATE q (v q)) s).rd TU_PORT_PSTATE p = v p % 4
  | [], _, _, _, h => h.resolve_left List.not_mem_nil
  | q :: l, s, hi, hl, h => by
    refine State.pstate_foldl v hp l (State.wr_inv hi _ _ _) (fun r hr => hl r (List.mem_cons_of_mem q hr)) ?_
    by_cases hpq : p = q
    · subst hpq
      exact .inr (State.rd_wr_same hi (by decide) p (v p))
    · refine h.imp (fun hm => (List.mem_cons.1 hm).resolve_left hpq) fun hv => ?_
      have hq : q < 65536 := hl q List.mem_cons_self
      exact (State.rd_wr_ne hi (by decide) (v q) (.inr (.inr (.inl (by omega))))).trans hv

theorem State.port_congr {t : State} (h : t.rb = s.rb) (p : Nat) : t.port p = s.port p := by
  unfold State.port
  rw [h]

theorem State.setPstates_eq (states : List Nat) : s.setPstates states =
    (List.range s.nPort).foldl (fun x p => x.wr TU_PORT_PSTATE p (if 7 ≤ (s.port p).step then states.getD p 0 else 0)) s := by
  have hstep : ∀ (l : List Nat) (x : State), x.rb = s.rb →
      l.foldl (fun x p => x.wr TU_PORT_PSTATE p (if 7 ≤ (x.port p).step then states.getD p 0 else 0)) x =
        l.foldl (fun x p => x.wr TU_PORT_PSTATE p (if 7 ≤ (s.port p).step then states.getD p 0 else 0)) x := by
    intro l
    induction l with
    | nil =>
      intro x _
      rw [List.foldl_nil, List.foldl_nil]
    | cons p l ih =>
      intro x hx
      rw [List.foldl_cons, List.foldl_cons, State.port_congr hx]
      exact ih _ hx
  exact hstep _ s rfl

theorem State.nPort_le (s : State) : s.nPort ≤ 16 := by
  unfold State.nPort State.byVar
  split <;> omega

theorem State.setPstates_pstate (hi : s.Inv) (states : List Nat) {p : Nat} (hp : p < s.nPort) :
    (s.setPstates states).rd TU_PORT_PSTATE p = (if 7 ≤ (s.port p).step then states.getD p 0 else 0) % 4 := by
  have hle := s.nPort_le
  rw [State.setPstates_eq]
  exact State.pstate_foldl (fun p => if 7 ≤ (s.port p).step then states.getD p 0 else 0) (by omega) _ hi
    (fun q hq => by have := List.mem_range.1 hq; omega) (.inl (List.mem_range.2 hp))

/-- Holdover by the servo needs a locked state. -/
theorem State.servoHold_unlocked (h : s.tu.state.locks = false) : s.servoHold = s :=
  if_neg (by
    show ¬(s.firmwareOn && !s.flag TU_CFG_SERVO 0 && s.tu.state.locks) = true
    simp [h])

theorem State.servoHold_holds (hi : s.Inv) (hfw : s.firmwareOn = true) (hservo : s.flag TU_CFG_SERVO 0 = false)
    (h : s.tu.state.locks = true) : s.servoHold.tu.state = .holdover := by
  have hgo : s.servoHold = s.tuRefresh.tuEnter .holdover := if_pos (by
    show (s.firmwareOn && !s.flag TU_CFG_SERVO 0 && s.tu.state.locks) = true
    simp [hfw, hservo, h])
  have hrefreshed : s.tuRefresh.Inv := hi
  have hne : s.tuRefresh.tu.state ≠ .holdover := fun he => by
    rw [show s.tu.state = .holdover from he] at h
    exact absurd h (by decide)
  rw [hgo, (State.tuEnter_effect hrefreshed hne).1]
  rfl

/-- The servo's holdover leaves the parent on Ethernet alone. -/
theorem State.servoHold_ethParent (hi : s.Inv) : s.servoHold.tu.ethParent = s.tu.ethParent := by
  unfold State.servoHold
  split
  · have hrefreshed : s.tuRefresh.Inv := hi
    by_cases he : s.tuRefresh.tu.state = .holdover
    · rw [State.tuEnter_same he]
      rfl
    · rw [(State.tuEnter_effect hrefreshed he).1]
      rfl
  · rfl

/-- The unit after the algorithm: holdover may have begun. -/
theorem State.bmca_cases (states : List Nat) (eth : Option (Nat × Nat)) :
    ∃ (x : State) (run : Nat), x = { s.setPstates states with tu := { (s.setPstates states).tu with
        ethParent := if (s.setPstates states).slavePort.isSome then none else eth, syncRun := run } } ∧
      (s.bmca states eth = x ∨ s.bmca states eth = x.servoHold) := by
  unfold State.bmca
  extract_lets s1 tuA e tuB s2 tuC s3
  by_cases hsame : (s.slavePort, s.tu.ethParent) = (s2.slavePort, e)
  · exact ⟨s2, s1.tu.syncRun, rfl, .inl (if_pos hsame)⟩
  · by_cases hchange : (s.slavePort.isSome || s.tu.ethParent.isSome) = true
    · exact ⟨s3, 0, rfl, .inr ((if_neg hsame).trans (if_pos hchange))⟩
    · exact ⟨s3, 0, rfl, .inl ((if_neg hsame).trans (if_neg hchange))⟩

theorem State.bmca_ethParent (hi : s.Inv) (states : List Nat) (eth : Option (Nat × Nat)) :
    (s.bmca states eth).tu.ethParent = if (s.setPstates states).slavePort.isSome then none else eth := by
  obtain ⟨x, run, hx, hb | hb⟩ := s.bmca_cases states eth
  · rw [hb, hx]
  · have hxi : x.Inv := hx ▸ State.setPstates_moves.inv hi
    rw [hb, State.servoHold_ethParent hxi, hx]

theorem State.bmca_rd (hi : s.Inv) (states : List Nat) (eth : Option (Nat × Nat)) {f : Field} (hf : f.unit = 0x43) (i : Nat) :
    (s.bmca states eth).rd f i = (s.setPstates states).rd f i := by
  obtain ⟨x, run, hx, hb | hb⟩ := s.bmca_cases states eth
  · rw [hb, hx]
    rfl
  · have hxi : x.Inv := hx ▸ State.setPstates_moves.inv hi
    rw [hb, State.servoHold_moves.rd hxi (by rw [hf]; rfl) i, hx]
    rfl

theorem State.bmca_state (states : List Nat) (eth : Option (Nat × Nat)) (h : s.tu.state.locks = false) (hi : s.Inv) :
    (s.bmca states eth).tu.state = s.tu.state := by
  have htu : (s.setPstates states).tu = s.tu := (State.setPstates_moves.keep hi .tu rfl).symm
  obtain ⟨x, run, hx, hb | hb⟩ := s.bmca_cases states eth
  · rw [hb, hx]
    exact congrArg (·.state) htu
  · have hstate : x.tu.state = s.tu.state := by
      rw [hx]
      exact congrArg (·.state) htu
    rw [hb, State.servoHold_unlocked (hstate ▸ h), hstate]

/-- The slave port is one whose shown state is 2. -/
theorem State.slavePort_some {p : Nat} (h : s.slavePort = some p) : p < s.nPort ∧ s.rd TU_PORT_PSTATE p = 2 :=
  ⟨List.mem_range.1 (List.mem_of_find?_eq_some h), by simpa using List.find?_some h⟩

theorem State.mem_portsUp {p : Nat} (h : p ∈ s.portsUp) : p < s.nPort ∧ s.portUsed p = true ∧ 7 ≤ (s.port p).step := by
  obtain ⟨hrange, hup⟩ := List.mem_filter.1 h
  simp only [Bool.and_eq_true, decide_eq_true_eq] at hup
  exact ⟨List.mem_range.1 hrange, hup⟩

/-- Ports stay up through what the algorithm decides. -/
theorem State.bmca_portsUp (hi : s.Inv) (states : List Nat) (eth : Option (Nat × Nat)) : (s.bmca states eth).portsUp = s.portsUp := by
  have hm := State.bmca_moves (s := s) (a0 := states) (a1 := eth)
  have hvar : s.var = (s.bmca states eth).var := (hm.keep hi .ident rfl).1
  have hrb : s.rb = (s.bmca states eth).rb := hm.keep hi .rb rfl
  have hport : ∀ p, (s.bmca states eth).port p = s.port p := fun p => State.port_congr hrb.symm p
  have hused : ∀ p, (s.bmca states eth).portUsed p = s.portUsed p := fun p => by
    unfold State.portUsed State.nPort State.byVar State.flag
    rw [hm.rd hi rfl, hm.rd hi rfl, hvar]
  have hn : (s.bmca states eth).nPort = s.nPort := by
    unfold State.nPort State.byVar
    rw [hvar]
  unfold State.portsUp
  rw [hn]
  simp only [hport, hused]

/-! Offsets and the lock of the firmware servo (R505, R511). -/

/-- The unit after an offset was noted, and maybe the lock. -/
theorem State.syncTake_kept (hi : s.Inv) (o : Int) : (s.syncTake o).tu.offset = o ∧ (s.syncTake o).tu.ethHalf = s.tu.ethHalf := by
  unfold State.syncTake
  extract_lets run tuOld s1
  have h1 : s1.tuRefresh.Inv := hi
  split
  · split
    · exact ⟨rfl, rfl⟩
    · next hstate =>
      rw [(State.tuLock_effect h1 (fun h => hstate (.inl h)) (fun h => hstate (.inr h))).1]
      exact ⟨rfl, rfl⟩
  · exact ⟨rfl, rfl⟩

/-- The sixteenth small offset in a row locks. -/
theorem State.syncTake_locks (hi : s.Inv) {o : Int} (hsmall : o.natAbs < 20000) (hrun : s.tu.syncRun = 15) (hfw : s.firmwareOn = true)
    (hservo : s.flag TU_CFG_SERVO 0 = false) (hrole : s.rd TU_CFG_ROLE 0 = 0) (hstate : s.tu.state = .acquire) :
    (s.syncTake o).tu.state = .locked := by
  unfold State.syncTake
  extract_lets run tuOld s1
  have h1 : s1.tuRefresh.Inv := hi
  have hrun' : run = 16 := by
    rw [show run = s.tu.syncRun + 1 from if_pos hsmall, hrun]
  have hst : s1.tu.state = .acquire := hstate
  have hlock : (s1.firmwareOn && !s1.flag TU_CFG_SERVO 0 && decide (16 ≤ run)) = true := by
    have hf1 : s1.firmwareOn = true := hfw
    have hs1 : s1.flag TU_CFG_SERVO 0 = false := hservo
    simp [hf1, hs1, hrun']
  have hto : s1.tuRefresh.lockState = .locked := if_neg (by
    show ¬s.rd TU_CFG_ROLE 0 = 1
    omega)
  rw [if_pos hlock, if_neg (by simp [hst]),
    (State.tuLock_effect h1 (by rw [show s1.tuRefresh.tu.state = .acquire from hst]; decide)
      (by rw [show s1.tuRefresh.tu.state = .acquire from hst]; decide)).1, hto]
  rfl

/-- Three results of a port that agree (R512). -/
theorem State.delayTake_agree (hi : s.Inv) {p : Nat} {d : Int} (hlen : (mget (fun _ => []) s.tu.pdHist p).length = 2)
    (hagree : pdAgree (d :: mget (fun _ => []) s.tu.pdHist p) = true) :
    (s.delayTake p d).flag TU_PORT_PD_OK p = true ∧ (s.delayTake p d).rd TU_PORT_MPD p = toSigned 32 d := by
  unfold State.delayTake
  extract_lets h tuOld s1 s2
  have h1 : s1.Inv := hi
  have h2 : s2.Inv := State.wr_inv h1 _ _ _
  have hall : h = d :: mget (fun _ => []) s.tu.pdHist p := List.take_of_length_le (by simp [hlen])
  have hbound : toSigned 32 d < 2 ^ 32 := by
    unfold toSigned
    omega
  rw [if_pos (hall ▸ hagree)]
  refine ⟨?_, ?_⟩
  · rw [State.flag, State.rd_wr_same h2 (by decide)]
    rfl
  · rw [State.rd_wr_ne h2 (by decide) 1 (Field.apart_of_word (by decide)), State.rd_wr_same h1 (by decide)]
    exact Nat.mod_eq_of_lt hbound

/-- The UTC offset of the parent's Announce (R515). -/
theorem State.utcTake_offset (hi : s.Inv) (hfw : s.firmwareOn = true) (hrole : s.rd TU_CFG_ROLE 0 = 0) (m : PtpFrame) :
    (s.utcTake m).rd TU_CFG_UTC_OFS 0 = toSigned 16 m.utc := by
  have h1 : (s.wr TU_CFG_UTC_OFS 0 (toSigned 16 m.utc)).Inv := State.wr_inv hi _ _ _
  have h2 := State.wr_inv h1 TU_CFG_LEAP61 0 (m.leap / 2 % 2)
  have hbits : ∀ f : Field, f.hi < 16 → f.apart TU_CFG_UTC_OFS 0 0 0 0 := fun f h => .inr (.inr (.inr (.inr (.inr h))))
  have hbound : toSigned 16 m.utc < 2 ^ 16 := by
    unfold toSigned
    omega
  unfold State.utcTake
  rw [if_pos (by simp [hfw, hrole]), State.rd_wr_ne h2 (by decide) _ (hbits _ (by decide)),
    State.rd_wr_ne h1 (by decide) _ (hbits _ (by decide)), State.rd_wr_same hi (by decide)]
  exact Nat.mod_eq_of_lt hbound

end

end Sys2Proof.Machine
end

