-- ==== Sys2Proof/Proofs/TimeSettled.lean ====
section
/-! Time messages as they arrive, on Renby ports and on Ethernet lanes (R509 to R515), and the statement about the time unit. -/

namespace Sys2Proof.Machine

open Sys2Proof

section
variable {s : State}

/-! On a Renby port that is up. -/

theorem exec_timeFrameReceive_up {p : Nat} {m : PtpFrame} (hon : s.lanesOn = true) (hp : p ∈ s.portsUp)
    (hdomain : m.domain = s.rd TU_CFG_DOMAIN 0) : exec (.timeFrameReceive p m) s =
      (let slave := s.rd TU_PORT_PSTATE p == 2
      match m.kind with
      | 0 => .next (if slave then s.syncTake (s.syncOffset p m) else s)
      | 2 => .next (s.ptpSend p 3 0 m.seq)
      | 3 => .next ((s.peerDelay p m.seq m.ingress m.origin).elim s (s.delayTake p))
      | 0xB =>
        let old := mget (fun _ => []) s.tu.announce p
        let s1 := s.announceNote p m
        .next (if slave then (if !old.isEmpty && old.getD 1 0 != m.identity then s1.servoHold else s1).utcTake m else s1)
      | _ => .next s) := by
  show execTimeFrameReceive p m s = _
  exact if_neg (by simp [hon, hp, hdomain])

/-- The first Announce of a port's parent. -/
theorem exec_timeFrameReceive_announce {p : Nat} {m : PtpFrame} (hon : s.lanesOn = true) (hp : p ∈ s.portsUp)
    (hdomain : m.domain = s.rd TU_CFG_DOMAIN 0) (hkind : m.kind = 11) (hnone : mget (fun _ => []) s.tu.announce p = []) :
    exec (.timeFrameReceive p m) s =
      .next (if s.rd TU_PORT_PSTATE p = 2 then (s.announceNote p m).utcTake m else s.announceNote p m) := by
  rw [exec_timeFrameReceive_up hon hp hdomain, hkind]
  dsimp only
  rw [hnone]
  by_cases hslave : s.rd TU_PORT_PSTATE p = 2
  · rw [if_pos hslave]
    exact congrArg _ (if_pos (beq_iff_eq.2 hslave))
  · rw [if_neg hslave]
    exact congrArg _ (if_neg (fun h => hslave (beq_iff_eq.1 h)))

theorem State.announceNote_noted (port : Nat) (m : PtpFrame) :
    mget (fun _ => []) (s.announceNote port m).tu.announce port = [m.clockClass, m.identity] ∧
      mget (fun _ => 0) (s.announceNote port m).tu.annAt port = s.elapsed + 1 :=
  ⟨mget_mset_of_ne (d := fun _ => []) (List.cons_ne_nil _ _) _, mget_mset_of_ne (d := fun _ => 0) (Nat.succ_ne_zero _) _⟩

/-- The UTC offset is a setting: what was noted of the parent stands. -/
theorem State.utcTake_tu (m : PtpFrame) : (s.utcTake m).tu = s.tu := by
  unfold State.utcTake
  split <;> rfl

theorem State.utcTake_pstate (hi : s.Inv) (m : PtpFrame) (p : Nat) : (s.utcTake m).rd TU_PORT_PSTATE p = s.rd TU_PORT_PSTATE p := by
  have hgroup : ∀ (x : State) (f : Field) (v : Nat), x.Inv → f.fits = true → f.grp % 256 = 1 →
      (x.wr f 0 v).Inv ∧ (x.wr f 0 v).rd TU_PORT_PSTATE p = x.rd TU_PORT_PSTATE p := fun x f v hx hf hg =>
    ⟨State.wr_inv hx f 0 v, State.rd_wr_ne hx hf v (.inr (.inl (by rw [hg]; decide)))⟩
  unfold State.utcTake
  split
  · obtain ⟨h1, hrd1⟩ := hgroup s TU_CFG_UTC_OFS (toSigned 16 m.utc) hi (by decide) rfl
    obtain ⟨h2, hrd2⟩ := hgroup _ TU_CFG_LEAP61 (m.leap / 2 % 2) h1 (by decide) rfl
    obtain ⟨-, hrd3⟩ := hgroup _ TU_CFG_LEAP59 (m.leap % 2) h2 (by decide) rfl
    exact hrd3.trans (hrd2.trans hrd1)
  · rfl

/-- What the algorithm decides is shown in the port states only. -/
theorem State.pstate_foldl_role (v : Nat → Nat) : ∀ (l : List Nat) {s : State}, s.Inv →
    (l.foldl (fun s q => s.wr TU_PORT_PSTATE q (v q)) s).rd TU_CFG_ROLE 0 = s.rd TU_CFG_ROLE 0
  | [], _, _ => rfl
  | q :: l, _, hi => (State.pstate_foldl_role v l (State.wr_inv hi _ _ _)).trans
    (State.rd_wr_ne hi (by decide) (v q) (.inr (.inl (by decide))))

theorem State.setPstates_role (hi : s.Inv) (states : List Nat) : (s.setPstates states).rd TU_CFG_ROLE 0 = s.rd TU_CFG_ROLE 0 := by
  rw [State.setPstates_eq]
  exact State.pstate_foldl_role (fun p => if 7 ≤ (s.port p).step then states.getD p 0 else 0) _ hi

/-! On an Ethernet lane that is up (R513). -/

theorem exec_ethernetFrameReceive_time {lane len : Nat} {m : PtpFrame} (hused : s.laneUsed lane = true)
    (hproto : s.rd LN_LANE_PROTO lane ≠ 1) (hup : s.flag LN_LANE_UP lane = true) (hlow : 64 ≤ len) (hhigh : len ≤ 1522) :
    exec (.ethernetFrameReceive lane 0x88F7 len (some m)) s = .next (s.ethTime lane m) := by
  have h1 : ¬len < 64 := Nat.not_lt.2 hlow
  have h2 : ¬1522 < len := Nat.not_lt.2 hhigh
  show execEthernetFrameReceive lane 0x88F7 len (some m) s = _
  exact (if_neg (by simp [hused, hproto, hup, h1, h2])).trans
    ((if_neg (by decide)).trans ((if_neg (by decide)).trans (if_pos rfl)))

theorem State.ethTime_eq {lane : Nat} {m : PtpFrame} (hfw : s.firmwareOn = true) (hdomain : m.domain = 0) : s.ethTime lane m =
    (let parent := s.tu.ethParent == some (lane, m.identity)
    match m.kind with
    | 0 => if !parent then s else if m.twoStep then s.setEthHalf lane 0 (some (m.seq, m.ingress, 0)) else s.ethSync lane m.ingress m.origin
    | 8 => (match s.ethHalfOf lane 0 m.seq with
      | some h => if parent then (s.setEthHalf lane 0 none).ethSync lane h.1 m.origin else s
      | none => s)
    | 2 => (s.ethSend lane 3 m.seq).ethSend lane 0xA m.seq
    | 3 => if m.twoStep then s.setEthHalf lane 3 (some (m.seq, m.ingress, m.origin))
        else (s.peerDelay (256 + lane) m.seq m.ingress m.origin).elim s (s.setEthDelay lane)
    | 0xA => (match s.ethHalfOf lane 3 m.seq with
      | some h => ((s.peerDelay (256 + lane) m.seq h.1 (m.origin - h.2)).elim s (s.setEthDelay lane)).setEthHalf lane 3 none
      | none => s)
    | 0xB => s.ethAnnounce lane m
    | _ => s) :=
  if_neg (by simp [hfw, hdomain])

/-- The Syncs of the parent. -/
theorem State.ethTime_sync {lane : Nat} {m : PtpFrame} (hfw : s.firmwareOn = true) (hdomain : m.domain = 0)
    (hparent : s.tu.ethParent = some (lane, m.identity)) (hkind : m.kind = 0) : s.ethTime lane m =
      if m.twoStep then s.setEthHalf lane 0 (some (m.seq, m.ingress, 0)) else s.ethSync lane m.ingress m.origin := by
  rw [State.ethTime_eq hfw hdomain, hkind]
  exact if_neg (by simp [hparent])

theorem State.ethTime_followUp {lane : Nat} {m : PtpFrame} {g x : Int} (hfw : s.firmwareOn = true) (hdomain : m.domain = 0)
    (hparent : s.tu.ethParent = some (lane, m.identity)) (hkind : m.kind = 8) (hhalf : s.ethHalfOf lane 0 m.seq = some (g, x)) :
    s.ethTime lane m = (s.setEthHalf lane 0 none).ethSync lane g m.origin := by
  rw [State.ethTime_eq hfw hdomain, hkind]
  dsimp only
  rw [hhalf]
  exact if_pos (by simp [hparent])

theorem State.ethHalfOf_of_none {lane kind : Nat} (h : mget (fun _ => none) s.tu.ethHalf (lane * 16 + kind) = none) (seq : Nat) :
    s.ethHalfOf lane kind seq = none := by
  unfold State.ethHalfOf
  rw [h]

theorem State.ethHalfOf_cleared (hmap : mapOk (fun _ => none) s.tu.ethHalf = true) (lane kind seq : Nat) :
    (s.setEthHalf lane kind none).ethHalfOf lane kind seq = none :=
  State.ethHalfOf_of_none (mget_mset_same _ none _ hmap) seq

theorem State.ethHalfOf_noted (lane kind seq : Nat) (h : Int × Int) :
    (s.setEthHalf lane kind (some (seq, h))).ethHalfOf lane kind seq = some h := by
  have hget : mget (fun _ => none) (s.setEthHalf lane kind (some (seq, h))).tu.ethHalf (lane * 16 + kind) = some (seq, h) :=
    mget_mset_of_ne (d := fun _ => none) (Option.some_ne_none _) _
  unfold State.ethHalfOf
  rw [hget]
  exact if_pos rfl

/-- What an Announce that wins does: its sender is the parent, and no Renby port is slave. -/
theorem State.ethAnnounce_best {lane : Nat} {m : PtpFrame} (hi : s.Inv) (hbest : m.best = true) (hfw : s.firmwareOn = true) :
    (s.ethAnnounce lane m).tu.ethParent = some (lane, m.identity) ∧ (s.ethAnnounce lane m).slavePort = none ∧
      (s.rd TU_CFG_ROLE 0 = 0 → (s.ethAnnounce lane m).rd TU_CFG_UTC_OFS 0 = toSigned 16 m.utc) := by
  unfold State.ethAnnounce
  extract_lets s1 s2
  have h1 : s1.Inv := State.announceNote_moves.inv hi
  let masters := (List.range s1.nPort).map (fun p => if s1.rd TU_PORT_PSTATE p = 2 then 1 else s1.rd TU_PORT_PSTATE p)
  have hs2 : s2 = s1.bmca masters (some (lane, m.identity)) := if_pos hbest
  have hnoSlave : ∀ p, p < s1.nPort → (s1.setPstates masters).rd TU_PORT_PSTATE p ≠ 2 := fun p hp => by
    have hsmall : s1.rd TU_PORT_PSTATE p < 4 := natBits_lt _ 30 29
    have hget : masters.getD p 0 = if s1.rd TU_PORT_PSTATE p = 2 then 1 else s1.rd TU_PORT_PSTATE p := by
      simp [masters, hp]
    rw [State.setPstates_pstate h1 masters hp, hget]
    split
    · split <;> omega
    · omega
  have hslave : ∀ x : State, x.nPort = s1.nPort → (∀ p, x.rd TU_PORT_PSTATE p = (s1.setPstates masters).rd TU_PORT_PSTATE p) →
      x.slavePort = none := fun x hn hrd => by
    unfold State.slavePort
    rw [List.find?_eq_none, hn]
    intro p hp
    rw [hrd, beq_iff_eq]
    exact hnoSlave p (List.mem_range.1 hp)
  have hport : (s1.setPstates masters).nPort = s1.nPort := by
    have hvar : s1.var = (s1.setPstates masters).var := (State.setPstates_moves.keep h1 .ident rfl).1
    unfold State.nPort State.byVar
    rw [hvar]
  have hparent : s2.tu.ethParent = some (lane, m.identity) := by
    rw [hs2, State.bmca_ethParent h1, hslave _ hport fun _ => rfl]
    rfl
  have h2 : s2.Inv := hs2 ▸ State.bmca_moves.inv h1
  have hmoves := State.bmca_moves (s := s1) (a0 := masters) (a1 := some (lane, m.identity))
  rw [← hs2] at hmoves
  have hmo : s2.mo = s.mo := (hmoves.keep h1 .mo rfl).symm
  rw [if_pos hparent]
  refine ⟨(congrArg (fun tu : TimeUnit => tu.ethParent) (s2.utcTake_tu m)).trans hparent, ?_, fun hrole => ?_⟩
  · have hn : s2.nPort = s1.nPort := by
      have hvar : s1.var = s2.var := (hmoves.keep h1 .ident rfl).1
      unfold State.nPort State.byVar
      rw [hvar]
    refine hslave (s2.utcTake m) ?_ fun p => ?_
    · rw [← hn]
      unfold State.utcTake
      split <;> rfl
    · rw [State.utcTake_pstate h2, hs2]
      exact State.bmca_rd h1 _ _ rfl p
  · refine State.utcTake_offset h2 ?_ ?_ m
    · unfold State.firmwareOn
      rw [hmo]
      exact hfw
    · rw [hs2, State.bmca_rd h1 _ _ rfl, State.setPstates_role h1]
      exact hrole

end

/-- Settles O59: the unit's state is computed in closed form through each write, step and message, and notifications leave it alone
(R500 to R517). -/
theorem timeUnitSteersStepsLocksAndSendsTime : Obligations.TimeUnitSteersStepsLocksAndSendsTime := by
  unfold Obligations.TimeUnitSteersStepsLocksAndSendsTime
  refine ⟨fun s hi hrun => ⟨?increment, ?slew, ?step, ?lock, ?hold, ?locked, ?apply⟩, ?slewEnd,
    fun s p hi hon hup => ⟨?sync, ?ask, ?announce, ?answer, ?offset, ?delay, ?parent, ?timeout⟩,
    fun s lane len m hi hused hproto hlaneUp hlow hhigh hfw hdomain hdelays hhalves => ⟨?ethSync, ?ethAsk, ?ethDelay, ?ethTwo, ?ethBest⟩⟩
  case increment =>
    intro frac ns hns hok
    have hrefreshed : s.tuRefresh.Inv := hi
    exact ⟨_, if_pos (by rw [hrun, hok, decide_eq_true hns]; rfl), State.setIncrement_increment hrefreshed frac.isLt hns, rfl⟩
  case slew =>
    intro ns ms hok hms
    have hrefreshed : s.tuRefresh.Inv := hi
    exact ⟨_, if_pos (by simp [hrun, hok, hms]), State.setSlew_tu hrefreshed ns ms⟩
  case step =>
    intro secs nanos hallowed hnanos
    exact ⟨_, if_pos (by simp [hrun, hallowed, hnanos]), rfl⟩
  case lock =>
    intro hl hg
    have hrefreshed : s.tuRefresh.Inv := hi
    obtain ⟨htu, hrtc⟩ := State.tuLock_effect hrefreshed hl hg
    refine ⟨_, if_pos hrun, ?_, ?_, hrtc, ?_⟩
    · rw [htu]
      rfl
    · rw [htu]
      show (s.tuRefresh.tu.ever || s.tuRefresh.lockState.locks) = true
      rw [State.lockState_locks, Bool.or_true]
    · rw [State.holdover_eq, htu]
      show (!s.tuRefresh.lockState.locks) = false
      rw [State.lockState_locks]
      rfl
  case hold =>
    intro hstate
    have hrefreshed : s.tuRefresh.Inv := hi
    have hne : s.tuRefresh.tu.state ≠ .holdover := fun h => by
      have h' : s.tu.state = .holdover := h
      simp [h'] at hstate
    obtain ⟨htu, -, harrived⟩ := State.tuEnter_effect hrefreshed hne
    have hgo : s.tuRefresh.tuHold = s.tuRefresh.tuEnter .holdover := if_pos hstate
    refine ⟨s.tuRefresh.tuHold, if_pos hrun, ?_, ?_⟩
    · rw [hgo, htu]
      rfl
    · rw [hgo]
      exact harrived rfl
  case locked =>
    intro hstate
    have hlocks : s.tu.state.locks = true := TimeState.locks_iff.2 hstate
    have hne : s.tu.state ≠ .holdover := fun h => by simp [h] at hstate
    refine ⟨fun hlate => ?_, fun hlate => ?_⟩
    · obtain ⟨htu, -, harrived⟩ := State.tuEnter_effect hi hne
      refine ⟨s.tuEnter .holdover, if_pos ?_, ?_, ?_, harrived rfl⟩
      · simpa [hrun, hlate] using hstate
      · rw [htu]
        rfl
      · rw [htu]
        show (if (!TimeState.locks .holdover && s.tu.state.locks) = true then s.elapsed else _) = s.elapsed
        rw [hlocks]
        rfl
    · refine ⟨s.rtcFromTime, if_pos ?_, rfl, rfl, rfl⟩
      simpa [hrun, hlate] using hstate
  case apply =>
    intro r hr hdue hnonneg
    obtain ⟨hinv, hsec, hns, hstep, hstate, hsteps, harrived⟩ := State.steppedTold_effect hi r
    have hmoves := s.steppedOn_settle_moves r (some (s.steppedOn r).now)
    have htu := hmoves.keep hinv .tu rfl
    have htai : Int.ofNat (s.stepTai r) = Int.ofNat s.tai + r.secs * 1000000000 + r.nanos := by
      exact (Int.toNat_of_nonneg (le_max_left _ _)).trans (max_eq_right hnonneg)
    refine ⟨_, s.stepTai r, exec_timeStepApply_due hr hrun hdue, htai, ?_⟩
    rw [← htu]
    exact ⟨hsec, hns, hstep, hstate, hsteps, (hmoves.keep hinv .errors rfl).subset harrived⟩
  case slewEnd =>
    intro s _ hslew hdone
    exact ⟨_, if_pos (by simp [hslew, hdone]), rfl, rfl⟩
  case sync =>
    intro hidx hgrid hmaster
    have hmem : p ∈ s.portsUp.filter (fun p => s.rd TU_PORT_PSTATE p == 1) := List.mem_filter.2 ⟨hup, by simp [hmaster]⟩
    let counted : State := { s with tu := { s.tu with syncIdx := s.tai * 2 ^ s.rd TU_CFG_RB_SYNC 0 / 1000000000 + 1 } }
    obtain ⟨tx, rb, hfold, m, hm, hkind, htime, hport, hdom, hid, -⟩ :=
      State.ptpNext_foldl (s := counted) (kind := 0) (cls := 0) _ counted.tu.ptpTx counted.rb (.inl hmem)
    exact ⟨_, m, (exec_syncSend_sends hon hidx hgrid).trans (congrArg _ hfold), hm, hkind, htime, hport, hdom, hid⟩
  case ask =>
    intro hidx hgrid
    have hp : p < 256 := by
      have := s.nPort_le
      have := (State.mem_portsUp hup).1
      omega
    have hgo := exec_pdelayReqSend_sends hon hidx hgrid
    obtain ⟨tx, rb, hfold, hsent⟩ :=
      State.ptpNext_foldl (s := s.pdCounted) (kind := 2) (cls := 0) _ s.pdCounted.tu.ptpTx s.pdCounted.rb (.inl hup)
    have hfold' : s.portsUp.foldl (fun s p => s.ptpNext p 2 0) s.pdCounted = s.pdCounted.withSent tx rb := hfold
    rw [hfold'] at hgo
    obtain ⟨tx', heth, hsent'⟩ := State.ethSend_foldl hp (seq := fun s l => s.ptpSeq (256 + l) 2) (s.pdCounted.withSent tx rb).ethLanes tx rb hsent
    dsimp only at hgo
    by_cases hfirm : ((s.pdCounted.withSent tx rb).firmwareOn && decide (s.tai / 1000000000 ≠ (s.tu.pdIdx - 1) / 16 ∨ s.tu.pdIdx = 0)) = true
    · obtain ⟨m, hm, hkind, htime, hport, -⟩ := hsent'
      rw [if_pos hfirm, heth] at hgo
      exact ⟨_, m, hgo, hm, hkind, htime, hport⟩
    · obtain ⟨m, hm, hkind, htime, hport, -⟩ := hsent
      rw [if_neg hfirm] at hgo
      exact ⟨_, m, hgo, hm, hkind, htime, hport⟩
  case announce =>
    intro states hfw hidx hmaster
    obtain ⟨hp, -, hstep⟩ := State.mem_portsUp hup
    let counted : State := { s with tu := { s.tu with annIdx := s.tu.sec + 1 } }
    have hcounted : counted.Inv := hi
    let judged := counted.bmca states s.tu.ethParent
    have hpstate : judged.rd TU_PORT_PSTATE p = 1 := by
      rw [State.bmca_rd hcounted states s.tu.ethParent rfl p, State.setPstates_pstate hcounted states hp]
      have hstep' : 7 ≤ (counted.port p).step := hstep
      rw [if_pos hstep', hmaster]
    have hmem : p ∈ judged.portsUp.filter (fun p => judged.rd TU_PORT_PSTATE p == 1) := by
      refine List.mem_filter.2 ⟨?_, by simp [hpstate]⟩
      rw [State.bmca_portsUp hcounted]
      exact hup
    obtain ⟨tx, rb, hfold, m, hm, hkind, -, -, -, -, hcls⟩ :=
      State.ptpNext_foldl (s := judged) (kind := 11) (cls := judged.clockClass) _ judged.tu.ptpTx judged.rb (.inl hmem)
    have hgo : exec (.announceSend states) s = .next ((judged.portsUp.filter (fun p => judged.rd TU_PORT_PSTATE p == 1)).foldl
        (fun s p => s.ptpNext p 0xB judged.clockClass) judged) := by
      show execAnnounceSend states s = _
      exact if_neg (by simp [hon, hfw, hidx])
    exact ⟨_, m, hgo.trans (congrArg _ hfold), hpstate, hm, hkind, hcls⟩
  case answer =>
    intro m hkind hdomain
    have hgo := exec_timeFrameReceive_up hon hup hdomain
    rw [hkind] at hgo
    obtain ⟨rb, hsent⟩ := s.ptpSend_withSent s.tu.ptpTx s.rb p 3 0 m.seq
    exact ⟨_, _, hgo.trans (congrArg _ hsent), mget_mset_of_ne (d := fun _ => none) (Option.some_ne_none _) _, rfl, rfl, rfl⟩
  case offset =>
    intro m hkind hdomain hslave hsmall hrun hfw hservo hrole hstate
    have hgo := exec_timeFrameReceive_up hon hup hdomain
    rw [hkind] at hgo
    refine ⟨_, hgo.trans (congrArg _ (if_pos (by simp [hslave]))), ?_, (State.syncTake_kept hi _).1⟩
    exact State.syncTake_locks hi hsmall hrun hfw hservo hrole hstate
  case delay =>
    intro m q v h hkind hdomain hlast hseq hv hhist hlen hagree
    have hgo := exec_timeFrameReceive_up hon hup hdomain
    rw [hkind] at hgo
    have hpeer : s.peerDelay p m.seq m.ingress m.origin = some v := by
      unfold State.peerDelay
      rw [hlast]
      exact (if_pos hseq).trans (congrArg some hv.symm)
    dsimp only at hgo
    rw [hpeer] at hgo
    exact ⟨_, hgo, State.delayTake_agree hi (hhist ▸ hlen) (hhist ▸ hagree)⟩
  case parent =>
    intro m hkind hdomain hnone
    have hgo := exec_timeFrameReceive_announce hon hup hdomain hkind hnone
    obtain ⟨hnoted, hat⟩ := s.announceNote_noted p m
    have hkept : (if s.rd TU_PORT_PSTATE p = 2 then (s.announceNote p m).utcTake m else s.announceNote p m).tu =
        (s.announceNote p m).tu := by
      split
      · exact State.utcTake_tu m
      · rfl
    refine ⟨_, hgo, ?_, ?_, fun hslave hfw hrole => ?_⟩
    · rw [hkept]
      exact hnoted
    · rw [hkept]
      exact hat
    · have hnotedInv : (s.announceNote p m).Inv := hi
      rw [if_pos hslave]
      exact State.utcTake_offset hnotedInv hfw hrole m
  case timeout =>
    intro states hslave hfw hservo hstate hlate
    obtain ⟨hp, -, hstep⟩ := State.mem_portsUp hup
    have hparent : s.parentPort = some p := by
      unfold State.parentPort
      rw [hslave]
    have hlate' : mget (fun _ => 0) s.tu.annAt p + 3 * 800000000 ≤ s.elapsed + 1 := by omega
    have hgo : exec (.announceReceiptTimeout states) s = .next (s.servoHold.bmca states none) := by
      show execAnnounceReceiptTimeout states s = _
      unfold execAnnounceReceiptTimeout
      rw [hparent]
      exact if_pos (by simp [hon, hfw, hlate'])
    have hheld := State.servoHold_holds hi hfw hservo (by rw [hstate]; rfl)
    have hmoves := State.servoHold_moves (s := s)
    have hinv : s.servoHold.Inv := hmoves.inv hi
    have hvar : s.var = s.servoHold.var := (hmoves.keep hi .ident rfl).1
    have hport : s.servoHold.port p = s.port p := State.port_congr (hmoves.keep hi .rb rfl).symm p
    refine ⟨_, hgo, ?_, ?_⟩
    · rw [State.bmca_state _ _ (by rw [hheld]; rfl) hinv, hheld]
    · have hp' : p < s.servoHold.nPort := by
        unfold State.nPort State.byVar at hp ⊢
        rw [← hvar]
        exact hp
      rw [State.bmca_rd hinv _ _ rfl, State.setPstates_pstate hinv states hp', hport, if_pos hstep]
  case ethSync =>
    intro hparent
    refine ⟨fun hkind hone hsmall hrun hservo hrole hstate => ?_, fun hkind htwo => ?_, fun g x hkind hhalf => ?_⟩
    · have hgo := exec_ethernetFrameReceive_time (m := m) hused hproto hlaneUp hlow hhigh
      rw [State.ethTime_sync hfw hdomain hparent hkind, hone] at hgo
      exact ⟨_, hgo, State.syncTake_locks hi hsmall hrun hfw hservo hrole hstate⟩
    · have hgo := exec_ethernetFrameReceive_time (m := m) hused hproto hlaneUp hlow hhigh
      rw [State.ethTime_sync hfw hdomain hparent hkind, if_pos htwo] at hgo
      exact ⟨_, hgo, s.ethHalfOf_noted lane 0 m.seq (m.ingress, 0), rfl⟩
    · have hgo := exec_ethernetFrameReceive_time (m := m) hused hproto hlaneUp hlow hhigh
      rw [State.ethTime_followUp hfw hdomain hparent hkind hhalf] at hgo
      have hcleared : (s.setEthHalf lane 0 none).Inv := hi
      obtain ⟨hoffset, hkept⟩ := State.syncTake_kept hcleared (g - m.origin - mget (fun _ => 0) s.tu.ethDelay lane)
      refine ⟨_, hgo, State.ethHalfOf_of_none ?_ _, hoffset⟩
      exact (congrArg (fun half => mget (fun _ => none) half (lane * 16 + 0)) hkept).trans (mget_mset_same _ none _ hhalves)
  case ethAsk =>
    intro hkind
    have hgo := exec_ethernetFrameReceive_time (m := m) hused hproto hlaneUp hlow hhigh
    rw [State.ethTime_eq hfw hdomain, hkind] at hgo
    have hresp := mget_mset_of_ne (d := fun _ => none) (k := (256 + lane) * 16 + 3)
      (Option.some_ne_none (⟨3, 0, s.serial, lane, m.seq, s.taiPs, 255⟩ : PtpMsg)) s.tu.ptpTx
    refine ⟨_, ⟨3, 0, s.serial, lane, m.seq, s.taiPs, 255⟩, _, hgo, ?_, mget_mset_of_ne (d := fun _ => none) (Option.some_ne_none _) _,
      rfl, rfl, rfl⟩
    refine (mget_mset_found (d := fun _ => none) _ (by show (256 + lane) * 16 + 3 ≠ (256 + lane) * 16 + 10; omega) _ ?_).trans hresp
    exact hresp.trans_ne (Option.some_ne_none _)
  case ethDelay =>
    intro d hkind hone hpeer
    have hgo := exec_ethernetFrameReceive_time (m := m) hused hproto hlaneUp hlow hhigh
    rw [State.ethTime_eq hfw hdomain, hkind, hone] at hgo
    dsimp only at hgo
    rw [if_neg Bool.false_ne_true, hpeer] at hgo
    exact ⟨_, hgo, mget_mset_same lane d _ hdelays⟩
  case ethTwo =>
    intro g c d hkind hhalf hpeer
    have hgo := exec_ethernetFrameReceive_time (m := m) hused hproto hlaneUp hlow hhigh
    rw [State.ethTime_eq hfw hdomain, hkind] at hgo
    dsimp only at hgo
    rw [hhalf] at hgo
    dsimp only at hgo
    rw [hpeer] at hgo
    exact ⟨_, hgo, mget_mset_same lane d _ hdelays, State.ethHalfOf_cleared (s := s.setEthDelay lane d) hhalves lane 3 m.seq⟩
  case ethBest =>
    intro hkind hbest
    have hgo := exec_ethernetFrameReceive_time (m := m) hused hproto hlaneUp hlow hhigh
    rw [State.ethTime_eq hfw hdomain, hkind] at hgo
    exact ⟨_, hgo, State.ethAnnounce_best hi hbest hfw⟩

end Sys2Proof.Machine
end

