-- ==== Sys2Proof/Proofs/LineCode.lean ====
section
/-! Renby coding (R468, R470): the scrambler is undone, and a frame's blocks read back as its words. -/

namespace Sys2Proof.Machine

open Sys2Proof

/-! The scrambler. -/

theorem xor_swap_pairs (a b c d : BitVec 64) : (a ^^^ b) ^^^ (c ^^^ d) = (a ^^^ c) ^^^ (b ^^^ d) := by
  rw [BitVec.xor_assoc, BitVec.xor_assoc, ← BitVec.xor_assoc b, BitVec.xor_comm b c, BitVec.xor_assoc c]

/-- The part of the mixed bits that comes from the block itself. -/
def lineSelf (x : BitVec 64) : BitVec 64 := (x <<< 39) ^^^ (x <<< 58)

theorem lineMix_eq (prev x : BitVec 64) : lineMix prev x = lineMix prev 0 ^^^ lineSelf x := by
  unfold lineMix lineSelf
  simp only [BitVec.zero_shiftLeft, BitVec.ofNat_eq_ofNat, BitVec.xor_zero]
  exact xor_swap_pairs _ _ _ _

theorem lineSelf_xor (x y : BitVec 64) : lineSelf (x ^^^ y) = lineSelf x ^^^ lineSelf y := by
  unfold lineSelf
  rw [BitVec.shiftLeft_xor_distrib, BitVec.shiftLeft_xor_distrib]
  exact xor_swap_pairs _ _ _ _

/-- Two passes move every bit past the end of the block. -/
theorem lineSelf_lineSelf (x : BitVec 64) : lineSelf (lineSelf x) = 0 := by
  have hout : ∀ m n : Nat, 64 ≤ m + n → (x <<< m) <<< n = 0 := fun m n h => by
    rw [← BitVec.shiftLeft_add]
    exact BitVec.shiftLeft_eq_zero h
  have h1 : lineSelf (x <<< 39) = 0 := by
    unfold lineSelf
    rw [hout 39 39 (by decide), hout 39 58 (by decide)]
    rfl
  have h2 : lineSelf (x <<< 58) = 0 := by
    unfold lineSelf
    rw [hout 58 39 (by decide), hout 58 58 (by decide)]
    rfl
  conv_lhs => arg 1; unfold lineSelf
  rw [lineSelf_xor, h1, h2]
  rfl

theorem descramble_scramble (prev d : BitVec 64) : descramble prev (scramble prev d) = d := by
  have hline : scramble prev d = d ^^^ lineMix prev 0 ^^^ lineSelf (d ^^^ lineMix prev 0) := by
    unfold scramble
    rw [lineMix_eq, BitVec.xor_assoc]
  generalize hm : d ^^^ lineMix prev 0 = m at hline
  have hself : lineSelf (m ^^^ lineSelf m) = lineSelf m := by
    rw [lineSelf_xor, lineSelf_lineSelf]
    exact BitVec.xor_zero
  unfold descramble
  rw [lineMix_eq, hline, hself, ← hm]
  generalize lineMix prev 0 = q
  generalize lineSelf (d ^^^ q) = l
  calc d ^^^ q ^^^ l ^^^ (q ^^^ l) = (d ^^^ q ^^^ q) ^^^ (l ^^^ l) := xor_swap_pairs _ _ _ _
    _ = d := by rw [BitVec.xor_self, BitVec.xor_zero, BitVec.xor_assoc, BitVec.xor_self, BitVec.xor_zero]

/-! Blocks of a frame. -/

theorem blockOf_data (d : BitVec 64) : blockOf 1 d = .data d := rfl

theorem frameMark_toNat {m cls : Nat} (hm : m < 256) (hcls : cls < 3) : (BitVec.ofNat 64 (m + cls * 2 ^ 14)).toNat = m + cls * 2 ^ 14 := by
  rw [BitVec.toNat_ofNat]
  omega

theorem natBits_frameMark {m cls : Nat} (hm : m < 256) (hcls : cls < 3) : natBits (m + cls * 2 ^ 14) 15 14 = cls := by
  unfold natBits
  omega

theorem blockOf_start {cls : Nat} (hcls : cls < 3) : blockOf 2 (BitVec.ofNat 64 (0x78 + cls * 2 ^ 14)) = .start cls := by
  have hlow : (0x78 + cls * 2 ^ 14) % 256 = 0x78 := by omega
  unfold blockOf
  rw [frameMark_toNat (by decide) hcls, natBits_frameMark (by decide) hcls, hlow]
  rfl

theorem blockOf_stop {cls : Nat} (hcls : cls < 3) : blockOf 2 (BitVec.ofNat 64 (0x87 + cls * 2 ^ 14)) = .stop cls := by
  have hlow : (0x87 + cls * 2 ^ 14) % 256 = 0x87 := by omega
  unfold blockOf
  rw [frameMark_toNat (by decide) hcls, natBits_frameMark (by decide) hcls, hlow]
  rfl

theorem blockOf_badSync {sync : Nat} (h : syncOk sync = false) (d : BitVec 64) : blockOf sync d = .invalid := by
  simp only [syncOk, Bool.or_eq_false_iff, beq_eq_false_iff_ne] at h
  exact (if_neg h.1).trans (if_neg h.2)

/-- The words of an even frame come back from its data blocks. -/
theorem blockWords_wordBlocks : ∀ f : List W32, f.length % 2 = 0 → blockWords (wordBlocks (f.map (·.toNat))) = f
  | [], _ => rfl
  | [a], h => absurd h (by simp)
  | a :: b :: r, h => by
    have hr : r.length % 2 = 0 := by
      simp only [List.length_cons] at h
      omega
    have ha := a.isLt
    have hb := b.isLt
    have hd : (BitVec.ofNat 64 (a.toNat % 2 ^ 32 + b.toNat % 2 ^ 32 * 2 ^ 32)).toNat = a.toNat + b.toNat * 2 ^ 32 := by
      rw [BitVec.toNat_ofNat]
      omega
    have hlow : BitVec.ofNat 32 (a.toNat + b.toNat * 2 ^ 32) = a := BitVec.eq_of_toNat_eq (by rw [BitVec.toNat_ofNat]; omega)
    have hhigh : BitVec.ofNat 32 ((a.toNat + b.toNat * 2 ^ 32) / 2 ^ 32) = b :=
      BitVec.eq_of_toNat_eq (by rw [BitVec.toNat_ofNat]; omega)
    have ih := blockWords_wordBlocks r hr
    simp only [blockWords] at ih
    simp only [List.map_cons, wordBlocks, blockWords, List.flatMap_cons, hd, hlow, hhigh, ih]
    rfl

end Sys2Proof.Machine
end

