-- ==== Sys2Proof/Proofs/FieldsKept.lean ====
section
/-! One field at every index: what leaves it alone, and what sets it over a list of indices. -/

namespace Sys2Proof.Machine

open Sys2Proof

/-- From a good state, a field reads as before at every index, and the state is good again. -/
def State.KeepsRd (g : Field) (s t : State) : Prop := s.Inv → t.Inv ∧ ∀ j, t.rd g j = s.rd g j

section
variable {g : Field}

theorem State.KeepsRd.refl (s : State) : s.KeepsRd g s := fun hi => ⟨hi, fun _ => rfl⟩

theorem State.KeepsRd.trans {a b c : State} (h1 : State.KeepsRd g a b) (h2 : State.KeepsRd g b c) : State.KeepsRd g a c := fun hi => by
  obtain ⟨hib, hrd⟩ := h1 hi
  obtain ⟨hic, hrd'⟩ := h2 hib
  exact ⟨hic, fun j => (hrd' j).trans (hrd j)⟩

theorem State.KeepsRd.ite {s a b : State} {c : Prop} [Decidable c] (ha : State.KeepsRd g s a) (hb : State.KeepsRd g s b) :
    State.KeepsRd g s (if c then a else b) := by
  split
  · exact ha
  · exact hb

theorem State.KeepsRd.foldl {α : Type} {f : State → α → State} (hf : ∀ st a, State.KeepsRd g st (f st a)) :
    ∀ (l : List α) (s : State), State.KeepsRd g s (l.foldl f s)
  | [], s => .refl s
  | a :: l, s => (hf s a).trans (State.KeepsRd.foldl hf l (f s a))

/-- A change that does not name the registers of the field's unit. -/
theorem Moves.keepsRd {m : Nat} {s t : State} (h : Moves m s t) (hu : m.testBit (Part.regs g.unit).bit = false) : State.KeepsRd g s t :=
  fun hi => ⟨h.inv hi, h.rd hi hu⟩

/-- A write of a field that lies beside it. -/
theorem State.keepsRd_wr (s : State) {f : Field} (h : f.beside g 0 0 = true) (i v : Nat) : State.KeepsRd g s (s.wr f i v) :=
  fun hi => ⟨State.wr_inv hi f i v, fun j => State.rdk_wrk_beside hi h i j v⟩

theorem State.KeepsRd.flag {s t : State} (h : State.KeepsRd g s t) (hi : s.Inv) (j : Nat) : t.flag g j = s.flag g j :=
  congrArg (· != 0) ((h hi).2 j)

end

/-! A field that is written. -/

theorem State.rd_mod (s : State) (f : Field) (j : Nat) : s.rd f (j % 65536) = s.rd f j := by
  have hkey : regKey f.unit f.grp (j % 65536) (f.wordAt 0) = regKey f.unit f.grp j (f.wordAt 0) := by
    unfold regKey
    rw [Nat.mod_mod]
  unfold State.rd State.rdk State.word
  rw [hkey]

theorem State.rd_wr_at {s : State} (hi : s.Inv) {f : Field} (hf : f.fits = true) (i v j : Nat) :
    (s.wr f i v).rd f j = if j % 65536 = i % 65536 then v % 2 ^ (f.hi + 1 - f.lo) else s.rd f j := by
  split
  · next h => rw [← State.rd_mod, h, State.rd_mod, State.rd_wr_same hi hf]
  · next h => exact State.rd_wr_ne hi hf v (.inr (.inr (.inl h)))

theorem State.flag_wr_one {s : State} (hi : s.Inv) {f : Field} (hf : f.fits = true) (i : Nat) : (s.wr f i 1).flag f i = true :=
  State.flag_setFlag_same hi hf i true

theorem State.flag_wr_zero {s : State} (hi : s.Inv) {f : Field} (hf : f.fits = true) (i : Nat) : (s.wr f i 0).flag f i = false :=
  State.flag_setFlag_same hi hf i false

/-- A step that sets a field at its own index and leaves it at the others sets it at each index of a list. -/
theorem State.rd_foldl_set {f : Field} {v : Nat} {step : State → Nat → State}
    (hstep : ∀ x a, State.Inv x → (step x a).Inv ∧ ∀ j, (step x a).rd f j = if j % 65536 = a % 65536 then v else x.rd f j) {j : Nat} :
    ∀ (l : List Nat) {s : State}, s.Inv → j ∈ l ∨ s.rd f j = v → (l.foldl step s).Inv ∧ (l.foldl step s).rd f j = v
  | [], _, hi, h => ⟨hi, h.resolve_left List.not_mem_nil⟩
  | a :: l, s, hi, h => by
    obtain ⟨hinv, hrd⟩ := hstep s a hi
    refine State.rd_foldl_set hstep l hinv ?_
    by_cases hja : j % 65536 = a % 65536
    · exact .inr ((hrd j).trans (if_pos hja))
    · have hne : j ≠ a := fun h => hja (h ▸ rfl)
      exact h.imp (fun hm => (List.mem_cons.1 hm).resolve_left hne) fun hv => ((hrd j).trans (if_neg hja)).trans hv

end Sys2Proof.Machine
end

