-- ==== Sys2Proof/Proofs/Lanes.lean ====
section
/-! Lanes and ports (R463 to R467): what takes them down, and the training steps. -/

namespace Sys2Proof.Machine

open Sys2Proof

/-! Fields that lanes and ports going down leave alone. -/

/-- A field of lanes or ports, apart from the lanes' step, service and failure, and from what a port knows of its neighbour. -/
def Field.offDown (g : Field) : Bool :=
  (g.unit == 0x40 || g.unit == 0x41) && LN_LANE_STEP.beside g 0 0 && LN_LANE_UP.beside g 0 0 && LN_LANE_FAILED.beside g 0 0
    && (g.unit != 0x41 || g.wordAt 0 % 4096 != 1)

section
variable {s : State} {g : Field}

theorem State.keepsRd_setLaneAt (s : State) (l : Nat) : State.KeepsRd g s (s.setLaneAt l) := fun hi => ⟨hi, fun _ => rfl⟩

theorem State.keepsRd_laneDown (s : State) (hstep : LN_LANE_STEP.beside g 0 0 = true) (hup : LN_LANE_UP.beside g 0 0 = true) (l : Nat) :
    State.KeepsRd g s (s.laneDown l) :=
  ((s.keepsRd_wr hstep l 0).trans (State.keepsRd_wr _ hup l 0)).trans (State.keepsRd_setLaneAt _ l)

theorem State.keepsRd_neighbour (s : State) (h : g.unit ≠ 0x41 ∨ g.wordAt 0 % 4096 ≠ 1) (p : Nat) :
    State.KeepsRd g s (s.putWord 0x41 2 p 1 0) := fun hi =>
  ⟨(Moves.putWord (m := 0x2000000000000000000000000) .refl rfl).inv hi, fun j => by
    unfold State.rd State.rdk
    rw [State.word_putWord_ne hi]
    exact h.imp_right fun hw => .inr (.inr hw)⟩

theorem State.keepsRd_tuPortDown (s : State) (h : g.unit = 0x40 ∨ g.unit = 0x41) (p : Nat) : State.KeepsRd g s (s.tuPortDown p) :=
  State.tuPortDown_moves.keepsRd (by rcases h with h | h <;> rw [h] <;> rfl)

theorem State.keepsRd_notify (s : State) (h : g.unit = 0x40 ∨ g.unit = 0x41) (unit code cls p0 p1 p2 p3 : Nat) :
    State.KeepsRd g s (s.notify unit code cls p0 p1 p2 p3) :=
  State.notify_moves.keepsRd (by rcases h with h | h <;> rw [h] <;> rfl)

theorem Field.offDown_iff : g.offDown = true ↔ (g.unit = 0x40 ∨ g.unit = 0x41) ∧ LN_LANE_STEP.beside g 0 0 = true ∧
    LN_LANE_UP.beside g 0 0 = true ∧ LN_LANE_FAILED.beside g 0 0 = true ∧ (g.unit ≠ 0x41 ∨ g.wordAt 0 % 4096 ≠ 1) := by
  simp only [Field.offDown, Bool.and_eq_true, Bool.or_eq_true, beq_iff_eq, bne_iff_ne, and_assoc]

/-- A port that went down: its lanes are down, and what it was in service for has failed. -/
theorem State.keepsRd_portDown (s : State) (h : g.offDown = true) (p wait : Nat) : State.KeepsRd g s (s.portDown p wait) := by
  obtain ⟨hunit, hstep, hup, hfailed, hword⟩ := Field.offDown_iff.1 h
  unfold State.portDown
  extract_lets x served s1 fresh s2 s3 s4
  have h1 : State.KeepsRd g s s1 := .foldl (fun st l => st.keepsRd_laneDown hstep hup l) _ s
  have h2 : State.KeepsRd g s1 s2 := fun hi => ⟨hi, fun _ => rfl⟩
  have h3 : State.KeepsRd g s2 s3 := (s2.keepsRd_neighbour hword p).trans (State.keepsRd_tuPortDown _ hunit p)
  have h4 : State.KeepsRd g s3 s4 := .ite (.refl s3) (.foldl (fun st l => st.keepsRd_wr hfailed l 1) _ s3)
  exact .ite ((((h1.trans h2).trans h3).trans h4).trans (State.keepsRd_notify _ hunit _ _ _ _ _ _ _)) ((h1.trans h2).trans h3)

theorem State.keepsRd_laneFails (s : State) (h : g.offDown = true) (l : Nat) : State.KeepsRd g s (s.laneFails l) := by
  obtain ⟨-, hstep, hup, -, -⟩ := Field.offDown_iff.1 h
  unfold State.laneFails
  split
  · exact (s.keepsRd_portDown h _ 0).trans (State.keepsRd_laneDown _ hstep hup l)
  · exact s.keepsRd_laneDown hstep hup l

/-! Lanes of a port. -/

theorem State.portLanes_congr {t : State} (hbond : ∀ j, t.rd RB_PORT_BOND j = s.rd RB_PORT_BOND j)
    (hlane : ∀ j, t.rd RB_PORT_LANE j = s.rd RB_PORT_LANE j) (p : Nat) : t.portLanes p = s.portLanes p := by
  unfold State.portLanes
  rw [hbond, hlane]

theorem State.KeepsRd.portLanes {t : State} (hbond : State.KeepsRd RB_PORT_BOND s t) (hlane : State.KeepsRd RB_PORT_LANE s t)
    (hi : s.Inv) (p : Nat) : t.portLanes p = s.portLanes p :=
  State.portLanes_congr (hbond hi).2 (hlane hi).2 p

/-- A lane that went down starts over, and is not in service. -/
theorem State.laneDown_at (hi : s.Inv) (l : Nat) : (s.laneDown l).Inv ∧
    (∀ j, (s.laneDown l).rd LN_LANE_STEP j = if j % 65536 = l % 65536 then 0 else s.rd LN_LANE_STEP j) ∧
    ∀ j, (s.laneDown l).rd LN_LANE_UP j = if j % 65536 = l % 65536 then 0 else s.rd LN_LANE_UP j := by
  have h1 : (s.wr LN_LANE_STEP l 0).Inv := State.wr_inv hi _ _ _
  have h2 : ((s.wr LN_LANE_STEP l 0).wr LN_LANE_UP l 0).Inv := State.wr_inv h1 _ _ _
  unfold State.laneDown
  refine ⟨(State.keepsRd_setLaneAt (g := LN_LANE_UP) _ l h2).1, fun j => ?_, fun j => ?_⟩
  · rw [(State.keepsRd_setLaneAt _ l h2).2 j, (State.keepsRd_wr _ (by decide) l 0 h1).2 j, State.rd_wr_at hi (by decide), Nat.zero_mod]
  · rw [(State.keepsRd_setLaneAt _ l h2).2 j, State.rd_wr_at h1 (by decide), (State.keepsRd_wr _ (by decide) l 0 hi).2 j, Nat.zero_mod]

theorem State.laneDown_down (hi : s.Inv) (l : Nat) :
    (s.laneDown l).Inv ∧ (s.laneDown l).rd LN_LANE_STEP l = 0 ∧ (s.laneDown l).flag LN_LANE_UP l = false := by
  obtain ⟨hinv, hstep, hup⟩ := State.laneDown_at hi l
  refine ⟨hinv, (hstep l).trans (if_pos rfl), ?_⟩
  rw [State.flag, hup, if_pos rfl]
  rfl

theorem State.laneDown_foldl_up (hi : s.Inv) {l : List Nat} {j : Nat} (hj : j ∈ l) : (l.foldl State.laneDown s).flag LN_LANE_UP j = false := by
  obtain ⟨-, hrd⟩ := State.rd_foldl_set (f := LN_LANE_UP) (v := 0) (step := State.laneDown) (j := j)
    (fun x a hx => ⟨(State.laneDown_at hx a).1, (State.laneDown_at hx a).2.2⟩) l hi (.inl hj)
  rw [State.flag, hrd]
  rfl

theorem State.laneDown_foldl_port (l : List Nat) : ∀ s : State, (l.foldl State.laneDown s).rb.port = s.rb.port := by
  induction l with
  | nil => exact fun _ => rfl
  | cons a l ih => exact fun s => ih (s.laneDown a)

theorem State.failed_foldl (hi : s.Inv) {l : List Nat} {j : Nat} (hj : j ∈ l) :
    (l.foldl (fun s l => s.wr LN_LANE_FAILED l 1) s).flag LN_LANE_FAILED j = true := by
  have hset := State.rd_foldl_set (f := LN_LANE_FAILED) (v := 1) (step := fun s l => s.wr LN_LANE_FAILED l 1) (j := j)
    (fun x a hx => ⟨State.wr_inv hx _ _ _, State.rd_wr_at hx (by decide) a 1⟩) l hi (.inl hj)
  rw [State.flag, hset.2]
  rfl

/-- What a port keeps when it goes down. -/
def PortSt.downAt (x : PortSt) (elapsed wait : Nat) : PortSt :=
  { PortSt.init with stepAt := elapsed, retryAt := elapsed + wait, drops := x.drops, alarmAt := x.alarmAt }

theorem State.portDown_effect (hi : s.Inv) (p wait : Nat) :
    let t := s.portDown p wait
    t.Inv ∧ t.rb.port = mset (fun _ => PortSt.init) p ((s.port p).downAt s.elapsed wait) s.rb.port ∧
      (∀ l, l ∈ s.portLanes p → t.flag LN_LANE_UP l = false) ∧
      ((s.port p).step = 8 → ⟨0x4102, 2⟩ ∈ t.ec.arrivals ∧
        (s.mo.mode ≠ .train → ∀ l, l ∈ s.portLanes p → t.flag LN_LANE_FAILED l = true)) := by
  unfold State.portDown
  extract_lets x served s1 fresh s2 s3 s4 t
  have h1 : s1.Inv := (Moves.foldl .refl (fun _ _ => State.laneDown_moves)).inv hi
  have h2 : s2.Inv := h1
  have h12 : ∀ g, State.KeepsRd g s1 s2 := fun _ hi => ⟨hi, fun _ => rfl⟩
  have hup1 : ∀ l, l ∈ s.portLanes p → s1.flag LN_LANE_UP l = false := fun l hl => State.laneDown_foldl_up hi hl
  have hput : Moves 0x2000000000000000000000000 s2 (s2.putWord 0x41 2 p 1 0) := .putWord .refl rfl
  have hmoves3 : Moves _ (s2.putWord 0x41 2 p 1 0) s3 := State.tuPortDown_moves
  have hput2 : (s2.putWord 0x41 2 p 1 0).Inv := hput.inv h2
  have h3 : s3.Inv := hmoves3.inv hput2
  have hport3 : s3.rb.port = mset (fun _ => PortSt.init) p ((s.port p).downAt s.elapsed wait) s.rb.port := by
    rw [← hmoves3.keep hput2 .rb rfl]
    exact congrArg (mset (fun _ => PortSt.init) p ((s.port p).downAt s.elapsed wait)) (State.laneDown_foldl_port _ s)
  have hmode3 : s3.mo.mode = s.mo.mode := by
    rw [← hmoves3.keep hput2 .mo rfl]
    exact congrArg (·.mode) ((Moves.foldl .refl (fun _ _ => State.laneDown_moves)).keep hi .mo rfl).symm
  have hlanes3 : ∀ g : Field, g.offDown = true → State.KeepsRd g s s3 := fun g hg => by
    obtain ⟨hunit, hstep, hup, -, hword⟩ := Field.offDown_iff.1 hg
    exact (State.KeepsRd.foldl (fun st l => st.keepsRd_laneDown hstep hup l) _ s).trans
      ((h12 g).trans
        ((s2.keepsRd_neighbour hword p).trans (State.keepsRd_tuPortDown _ hunit p)))
  have hportLanes : s3.portLanes p = s.portLanes p := (hlanes3 _ (by decide)).portLanes (hlanes3 _ (by decide)) hi p
  have hup3 : State.KeepsRd LN_LANE_UP s1 s3 :=
    (h12 _).trans
      ((s2.keepsRd_neighbour (.inl (by decide)) p).trans (State.keepsRd_tuPortDown _ (.inl rfl) p))
  by_cases hserved : (s.port p).step = 8
  · have ht : t = s4.notify 0x41 2 2 p x.step 0 0 := if_pos (beq_iff_eq.2 hserved)
    have h4 : s4.Inv ∧ s4.rb = s3.rb := by
      have hwr : Moves 0x1000000000000000000000000 s3 s4 :=
        .ite .refl (.foldl .refl (fun st l => .wr .refl rfl))
      exact ⟨hwr.inv h3, (hwr.keep h3 .rb rfl).symm⟩
    have hup4 : State.KeepsRd LN_LANE_UP s3 s4 :=
      .ite (.refl s3) (.foldl (fun st l => st.keepsRd_wr (by decide) l 1) _ s3)
    rw [ht]
    refine ⟨State.notify_moves.inv h4.1, ?_, fun l hl => ?_, fun _ => ⟨State.notify_mem_arrivals h4.1 (by decide) _ _ _ _, fun hm l hl => ?_⟩⟩
    · rw [← State.notify_moves.keep h4.1 .rb rfl, h4.2]
      exact hport3
    · exact (((hup3.trans hup4).trans (State.keepsRd_notify _ (.inl rfl) _ _ _ _ _ _ _)).flag h1 l).trans (hup1 l hl)
    · rw [(State.keepsRd_notify s4 (.inl rfl) _ _ _ _ _ _ _).flag h4.1 l, show s4 = _ from if_neg (hmode3 ▸ hm)]
      exact State.failed_foldl h3 (hportLanes ▸ hl)
  · have ht : t = s3 := if_neg (fun h => hserved (beq_iff_eq.1 h))
    rw [ht]
    exact ⟨h3, hport3, fun l hl => (hup3.flag h1 l).trans (hup1 l hl), fun h => absurd h hserved⟩

theorem State.laneFails_effect (hi : s.Inv) (l : Nat) :
    (s.laneFails l).rd LN_LANE_STEP l = 0 ∧ (s.laneFails l).flag LN_LANE_UP l = false ∧
      ∀ p, s.portOf l = some p →
        (s.laneFails l).rb.port = mset (fun _ => PortSt.init) p ((s.port p).downAt s.elapsed 0) s.rb.port := by
  unfold State.laneFails
  cases hp : s.portOf l with
  | none =>
    obtain ⟨-, hstep, hup⟩ := State.laneDown_down hi l
    exact ⟨hstep, hup, fun p h => absurd h (by simp)⟩
  | some q =>
    obtain ⟨hinv, hport, -⟩ := State.portDown_effect hi q 0
    obtain ⟨-, hstep, hup⟩ := State.laneDown_down hinv l
    exact ⟨hstep, hup, fun p h => by obtain rfl := Option.some.inj h; exact hport⟩

end

end Sys2Proof.Machine
end

