-- ==== Sys2Proof/Proofs/Training.lean ====
section
/-! Lane detectors, and the training steps of lanes and ports (R463 to R467, R478, R486). -/

namespace Sys2Proof.Machine

open Sys2Proof

theorem satAdd_le (top a b : Nat) : satAdd top a b ≤ top := by
  unfold satAdd
  split <;> omega

theorem State.rd_bump_same {s : State} (hi : s.Inv) {f : Field} (hf : f.fits = true) (i n : Nat) :
    (s.bump f i n).rd f i = satAdd (2 ^ (f.hi + 1 - f.lo) - 1) (s.rd f i) n := by
  have hle := satAdd_le (2 ^ (f.hi + 1 - f.lo) - 1) (s.rd f i) n
  have hpos := Nat.two_pow_pos (f.hi + 1 - f.lo)
  unfold State.bump
  rw [State.rd_wr_same hi hf]
  exact Nat.mod_eq_of_lt (by omega)

section
variable {s : State}

/-! Detectors (R463). -/

/-- Both detectors shown. -/
def State.detected (s : State) (lane : Nat) (los lol : Bool) : State := (s.setFlag LN_LANE_LOS lane los).setFlag LN_LANE_LOL lane lol

/-- A change of LOS is reported, and its start is counted. -/
def State.losTold (s : State) (lane : Nat) (los old : Bool) : State :=
  if los && !old then (s.bump LN_LANE_LOS_CNT lane 1).notify 0x40 1 1 lane 1 0 0
  else if old && !los then s.notify 0x40 2 0 lane 0 0 0 else s

/-- The instant at which the lane locks again. -/
def State.lolClear (s : State) (at_ lane : Nat) : State :=
  { s with rb := { s.rb with lolClr := mset (fun _ => 0) lane at_ s.rb.lolClr } }

/-- A change of LOL is reported, its start is counted, and its end is noted. -/
def State.lolTold (s : State) (at_ lane : Nat) (lol old : Bool) : State :=
  if lol && !old then (s.bump LN_LANE_LOL_CNT lane 1).notify 0x40 1 1 lane 2 0 0
  else if old && !lol then (s.lolClear at_ lane).notify 0x40 2 0 lane 0 0 0
  else s

/-- Reported, before the lane goes down. -/
def State.detectTold (s : State) (lane : Nat) (los lol : Bool) : State :=
  ((s.detected lane los lol).losTold lane los (s.flag LN_LANE_LOS lane)).lolTold s.elapsed lane lol (s.flag LN_LANE_LOL lane)

theorem State.detect_eq (lane : Nat) (los lol : Bool) : s.detect lane los lol =
    if (los && !s.flag LN_LANE_LOS lane) || (lol && !s.flag LN_LANE_LOL lane) then (s.detectTold lane los lol).laneFails lane
    else s.detectTold lane los lol := by
  unfold State.detect State.detectTold State.lolTold State.lolClear State.losTold State.detected
  rfl

theorem State.lolTold_moves (s : State) (at_ lane : Nat) (lol old : Bool) :
    Moves 0x100000000000000000000000000000000000000000000000b000000000000000040006f00 s (s.lolTold at_ lane lol old) :=
  .ite (.trans (.bump .refl rfl) (State.notify_moves.mono rfl))
    (.ite (.trans (.rb .refl rfl) (State.notify_moves.mono rfl)) .refl)

section
variable {g : Field}

theorem State.keepsRd_losTold (s : State) (hu : g.unit = 0x40) (hc : LN_LANE_LOS_CNT.beside g 0 0 = true) (lane : Nat) (los old : Bool) :
    State.KeepsRd g s (s.losTold lane los old) :=
  .ite ((s.keepsRd_wr hc lane _).trans (State.keepsRd_notify _ (.inl hu) _ _ _ _ _ _ _))
    (.ite (s.keepsRd_notify (.inl hu) _ _ _ _ _ _ _) (.refl s))

theorem State.keepsRd_lolClear (s : State) (at_ lane : Nat) : State.KeepsRd g s (s.lolClear at_ lane) := fun hi => ⟨hi, fun _ => rfl⟩

theorem State.keepsRd_lolTold (s : State) (hu : g.unit = 0x40) (hc : LN_LANE_LOL_CNT.beside g 0 0 = true) (at_ lane : Nat) (lol old : Bool) :
    State.KeepsRd g s (s.lolTold at_ lane lol old) :=
  .ite ((s.keepsRd_wr hc lane _).trans (State.keepsRd_notify _ (.inl hu) _ _ _ _ _ _ _))
    (.ite ((s.keepsRd_lolClear at_ lane).trans (State.keepsRd_notify _ (.inl hu) _ _ _ _ _ _ _)) (.refl s))

/-- From the detectors shown to the lane down, only counts, service and training of lanes and ports change. -/
theorem State.keepsRd_detect (s : State) (hu : g.unit = 0x40) (hlos : LN_LANE_LOS_CNT.beside g 0 0 = true)
    (hlol : LN_LANE_LOL_CNT.beside g 0 0 = true) (hd : g.offDown = true) (lane : Nat) (los lol : Bool) :
    State.KeepsRd g (s.detected lane los lol) (s.detect lane los lol) := by
  have htold : State.KeepsRd g (s.detected lane los lol) (s.detectTold lane los lol) :=
    (State.keepsRd_losTold _ hu hlos lane los _).trans (State.keepsRd_lolTold _ hu hlol _ lane lol _)
  rw [State.detect_eq]
  exact .ite (htold.trans (State.keepsRd_laneFails _ hd lane)) htold

end

theorem State.flag_setFlag_at {x : State} (hx : x.Inv) {f : Field} (hf : f.fits = true) (hone : f.hi + 1 - f.lo = 1) (i : Nat) (b : Bool)
    (j : Nat) : (x.setFlag f i b).flag f j = if j % 65536 = i % 65536 then b else x.flag f j := by
  unfold State.flag State.setFlag
  rw [State.rd_wr_at hx hf, hone]
  split
  · cases b <;> rfl
  · rfl

theorem State.detect_flags (hi : s.Inv) (lane : Nat) (los lol : Bool) : (s.detect lane los lol).Inv ∧
    (∀ j, (s.detect lane los lol).flag LN_LANE_LOS j = if j % 65536 = lane % 65536 then los else s.flag LN_LANE_LOS j) ∧
    ∀ j, (s.detect lane los lol).flag LN_LANE_LOL j = if j % 65536 = lane % 65536 then lol else s.flag LN_LANE_LOL j := by
  have hset : (s.setFlag LN_LANE_LOS lane los).Inv := State.setFlag_inv hi _ _ _
  have h1 : (s.detected lane los lol).Inv := State.setFlag_inv hset _ _ _
  have hlos := s.keepsRd_detect (g := LN_LANE_LOS) rfl (by decide) (by decide) (by decide) lane los lol
  have hlol := s.keepsRd_detect (g := LN_LANE_LOL) rfl (by decide) (by decide) (by decide) lane los lol
  refine ⟨(hlos h1).1, fun j => (hlos.flag h1 j).trans ?_, fun j => (hlol.flag h1 j).trans ?_⟩
  · exact ((State.keepsRd_wr _ (by decide) lane (b2n lol)).flag hset j).trans (State.flag_setFlag_at hi (by decide) rfl lane los j)
  · refine (State.flag_setFlag_at hset (by decide) rfl lane lol j).trans ?_
    exact congrArg (fun b => if j % 65536 = lane % 65536 then lol else b) ((State.keepsRd_wr s (by decide) lane (b2n los)).flag hi j)

/-- A lane that loses its signal is counted, reported, and down. -/
theorem State.detect_los (hi : s.Inv) {lane : Nat} (hold : s.flag LN_LANE_LOS lane = false) (lol : Bool) :
    (s.detect lane true lol).rd LN_LANE_LOS_CNT lane = satAdd 65535 (s.rd LN_LANE_LOS_CNT lane) 1 ∧
      (s.detect lane true lol).rd LN_LANE_STEP lane = 0 ∧ (s.detect lane true lol).flag LN_LANE_UP lane = false ∧
      ⟨0x4001, 1⟩ ∈ (s.detect lane true lol).ec.arrivals := by
  have hset : (s.setFlag LN_LANE_LOS lane true).Inv := State.setFlag_inv hi _ _ _
  have h1 : (s.detected lane true lol).Inv := State.setFlag_inv hset _ _ _
  have hcnt1 : (s.detected lane true lol).rd LN_LANE_LOS_CNT lane = s.rd LN_LANE_LOS_CNT lane :=
    (((State.keepsRd_wr s (by decide) lane (b2n true)).trans (State.keepsRd_wr _ (by decide) lane (b2n lol))) hi).2 lane
  have hdown : s.detect lane true lol = (s.detectTold lane true lol).laneFails lane := by
    rw [State.detect_eq, hold]
    rfl
  rw [hdown]
  unfold State.detectTold
  generalize hx : s.detected lane true lol = x at h1 hcnt1
  have hlos : x.losTold lane true (s.flag LN_LANE_LOS lane) = (x.bump LN_LANE_LOS_CNT lane 1).notify 0x40 1 1 lane 1 0 0 := by
    rw [hold]
    rfl
  rw [hlos]
  have hbumped : (x.bump LN_LANE_LOS_CNT lane 1).Inv := State.wr_inv h1 _ _ _
  have hcnt := ((State.keepsRd_notify _ (.inl rfl) 0x40 1 1 lane 1 0 0 hbumped).2 lane).trans (State.rd_bump_same h1 (by decide) lane 1)
  have harrived := State.notify_mem_arrivals hbumped (unit := 0x40) (code := 1) (cls := 1) (by decide) lane 1 0 0
  have h2 : ((x.bump LN_LANE_LOS_CNT lane 1).notify 0x40 1 1 lane 1 0 0).Inv := State.notify_moves.inv hbumped
  generalize (x.bump LN_LANE_LOS_CNT lane 1).notify 0x40 1 1 lane 1 0 0 = y at hcnt harrived h2
  obtain ⟨h3, hcnt3⟩ := y.keepsRd_lolTold (g := LN_LANE_LOS_CNT) rfl (by decide) s.elapsed lane lol (s.flag LN_LANE_LOL lane) h2
  have harrived3 := ((y.lolTold_moves s.elapsed lane lol (s.flag LN_LANE_LOL lane)).keep h2 .errors rfl).subset harrived
  generalize y.lolTold s.elapsed lane lol (s.flag LN_LANE_LOL lane) = z at h3 hcnt3 harrived3
  obtain ⟨hstep, hup, -⟩ := State.laneFails_effect h3 lane
  refine ⟨?_, hstep, hup, (State.laneFails_moves.keep h3 .errors rfl).subset harrived3⟩
  rw [(z.keepsRd_laneFails (by decide) lane h3).2, hcnt3, hcnt, hcnt1]
  rfl

/-- The detectors of a lane whose quad's PLL has unlocked: LOL shows on all four lanes. -/
theorem exec_laneDetectorChange_quad {lane : Nat} (hi : s.Inv) (hlane : lane < s.nLane) (hrun : s.tu.running = true) (los : Bool) :
    ∃ t, exec (.laneDetectorChange lane los true true) s = .next t ∧ t.flag LN_LANE_LOS lane = los ∧
      ∀ k, k < 4 → t.flag LN_LANE_LOL (lane / 4 * 4 + k) = true := by
  have hsmall : lane < 65536 := by
    have : s.nLane ≤ 20 := by
      unfold State.nLane State.byVar
      split <;> omega
    omega
  let step : State → Nat → State := fun s k =>
    s.detect (lane / 4 * 4 + k) (if lane / 4 * 4 + k = lane then los else s.flag LN_LANE_LOS (lane / 4 * 4 + k)) true
  have hinv : ∀ st x, State.Inv st → (step st x).Inv := fun st x h => (State.detect_flags h _ _ _).1
  have hgo : exec (.laneDetectorChange lane los true true) s = .next ((List.range 4).foldl step s) := by
    show execLaneDetectorChange lane los true true s = _
    exact (if_neg (by simp [hrun, hlane])).trans (if_pos rfl)
  refine ⟨_, hgo, ?_, fun k hk => ?_⟩
  · refine State.foldl_establishes (P := fun st => st.flag LN_LANE_LOS lane = los) (Q := fun x => x = lane % 4) hinv _
      (fun x hx st hst h => ?_) hi (.inl ⟨lane % 4, List.mem_range.2 (Nat.mod_lt _ (by decide)), rfl⟩)
    have hx4 : x < 4 := List.mem_range.1 hx
    refine ((State.detect_flags hst _ _ _).2.1 lane).trans ?_
    by_cases hhere : lane / 4 * 4 + x = lane
    · rw [hhere, if_pos rfl, if_pos rfl]
    · have hkept : st.flag LN_LANE_LOS lane = los := h.resolve_left (by omega)
      rw [if_neg (by omega)]
      exact hkept
  · refine State.foldl_establishes (P := fun st => st.flag LN_LANE_LOL (lane / 4 * 4 + k) = true) (Q := fun x => x = k) hinv _
      (fun x hx st hst h => ?_) hi (.inl ⟨k, List.mem_range.2 hk, rfl⟩)
    refine ((State.detect_flags hst _ _ _).2.2 _).trans ?_
    by_cases hhere : x = k
    · rw [hhere, if_pos rfl]
    · split
      · rfl
      · exact h.resolve_left hhere

theorem exec_laneDetectorChange_one {lane : Nat} (hlane : lane < s.nLane) (hrun : s.tu.running = true) (los lol : Bool) :
    exec (.laneDetectorChange lane los lol false) s = .next (s.detect lane los lol) := by
  show execLaneDetectorChange lane los lol false s = _
  exact (if_neg (by simp [hrun, hlane])).trans (if_neg Bool.false_ne_true)

/-! Training steps (R464, R465). -/

/-- The steps that a lane may reach. -/
theorem State.laneMay_step {lane step : Nat} (h : s.laneMay lane step = true) : step ≤ 4 := by
  by_contra hbig
  obtain ⟨k, rfl⟩ : ∃ k, step = k + 5 := ⟨step - 5, by omega⟩
  simp [State.laneMay] at h

/-- A lane reaches its step; at step 3 a lane that is not Renby's is in service. -/
def State.laneReached (s : State) (n step : Nat) : State :=
  let s1 := (s.wr LN_LANE_STEP n step).setLaneAt n
  if step = 3 ∧ s1.rd LN_LANE_PROTO n ≠ 1 then (s1.wr LN_LANE_UP n 1).wr LN_LANE_FAILED n 0 else s1

theorem exec_trainingStepReached_lane {n step : Nat} (hon : s.lanesOn = true) (hmay : s.laneMay n step = true) (skew : List Nat) :
    exec (.trainingStepReached false n step skew) s = .next (s.laneReached n step) := by
  show execTrainingStepReached false n step skew s = _
  exact (if_neg (by simp [hon])).trans ((if_neg Bool.false_ne_true).trans (if_pos hmay))

theorem State.laneReached_effect (hi : s.Inv) {n step : Nat} (hstep : step ≤ 4) :
    (s.laneReached n step).rd LN_LANE_STEP n = step ∧
      (step = 3 → s.rd LN_LANE_PROTO n ≠ 1 →
        (s.laneReached n step).flag LN_LANE_UP n = true ∧ (s.laneReached n step).flag LN_LANE_FAILED n = false) := by
  unfold State.laneReached
  extract_lets s1
  have hw : (s.wr LN_LANE_STEP n step).Inv := State.wr_inv hi _ _ _
  obtain ⟨h1, hrd1⟩ := State.keepsRd_setLaneAt (g := LN_LANE_STEP) _ n hw
  have hstep1 : s1.rd LN_LANE_STEP n = step := by
    refine (hrd1 n).trans ((State.rd_wr_same hi (by decide) n step).trans (Nat.mod_eq_of_lt ?_))
    show step < 2 ^ 4
    omega
  have hup : (s1.wr LN_LANE_UP n 1).Inv := State.wr_inv h1 _ _ _
  have hproto1 : s1.rd LN_LANE_PROTO n = s.rd LN_LANE_PROTO n :=
    (((s.keepsRd_wr (by decide) n step).trans (State.keepsRd_setLaneAt _ n)) hi).2 n
  refine ⟨?_, fun h3 hproto => ?_⟩
  · split
    · rw [(State.keepsRd_wr _ (by decide) n 0 hup).2, (State.keepsRd_wr _ (by decide) n 1 h1).2]
      exact hstep1
    · exact hstep1
  · rw [if_pos ⟨h3, hproto1 ▸ hproto⟩]
    exact ⟨((State.keepsRd_wr _ (by decide) n 0).flag hup n).trans (State.flag_wr_one h1 (by decide) n), State.flag_wr_zero hup (by decide) n⟩

/-- A port has reached a step, and its lanes show it. -/
def State.portStepped (s : State) (n step : Nat) : State :=
  (s.setPort n { s.port n with step := step, stepAt := s.elapsed }).showStep n

/-- Each lane's skew shown. -/
def State.skewShown (s : State) (n : Nat) (skew : List Nat) : State :=
  ((s.portLanes n).zipIdx).foldl (fun s e => s.wr LN_LANE_SKEW e.1 (skew.getD e.2 0)) s

/-- What each step of a port brings: the capability exchange, fresh link keys, or service. -/
def State.portReached (s : State) (n step : Nat) (skew : List Nat) : State :=
  let s2 := s.portStepped n step
  let s3 := if step = 5 then State.capSend (s2.skewShown n skew) n
    else if step = 7 then (s2.wrapInc RB_PORT_KEPOCH n 1).setPort n { s2.port n with lctrRx := 0, lctrTx := 0 }
    else s2
  if step = 8 then s3.portServes n else s3

theorem exec_trainingStepReached_port {n step : Nat} {skew : List Nat} (hon : s.lanesOn = true) (hn : n < s.nPort)
    (hmay : s.portMay n step skew = true) : exec (.trainingStepReached true n step skew) s = .next (s.portReached n step skew) := by
  show execTrainingStepReached true n step skew s = _
  exact (if_neg (by simp [hon])).trans ((if_pos rfl).trans (if_neg (by simp [hn, hmay])))

theorem State.showStep_moves' (s : State) (p : Nat) : Moves 0x1000000000000000000000000 s (s.showStep p) :=
  .foldl .refl (fun _ _ => .wr .refl rfl)

theorem State.portStepped_effect (hi : s.Inv) (hmap : mapOk (fun _ => PortSt.init) s.rb.port = true) (n step : Nat) :
    (s.portStepped n step).Inv ∧ mapOk (fun _ => PortSt.init) (s.portStepped n step).rb.port = true ∧
      (s.portStepped n step).port n = { s.port n with step := step, stepAt := s.elapsed } ∧
      (∀ g : Field, g.unit = 0x41 → ∀ j, (s.portStepped n step).rd g j = s.rd g j) := by
  have hset : (s.setPort n { s.port n with step := step, stepAt := s.elapsed }).Inv := hi
  have hmoves := State.showStep_moves' (s.setPort n { s.port n with step := step, stepAt := s.elapsed }) n
  have hrb : (s.portStepped n step).rb = (s.setPort n { s.port n with step := step, stepAt := s.elapsed }).rb := (hmoves.keep hset .rb rfl).symm
  refine ⟨hmoves.inv hset, ?_, ?_, fun g hg j => hmoves.rd hset (by rw [hg]; rfl) j⟩
  · rw [hrb]
    exact mset_ok hmap
  · exact (State.port_congr hrb n).trans (mget_mset_same n _ _ hmap)

/-- A port in service: stations wake, and its state stands. -/
theorem State.stationsWake_port (mine : Nat → Bool) : (s.stationsWake mine).rb.port = s.rb.port := by
  unfold State.stationsWake
  generalize s.listed 0x41 3 0 = l
  induction l generalizing s with
  | nil => rfl
  | cons n l ih =>
    rw [List.foldl_cons, ih]
    split <;> rfl

theorem State.portServes_effect (hi : s.Inv) (p : Nat) :
    (s.portServes p).rb.port = s.rb.port ∧
      ∀ l, l ∈ s.portLanes p → (s.portServes p).flag LN_LANE_UP l = true ∧ (s.portServes p).flag LN_LANE_FAILED l = false := by
  unfold State.portServes
  extract_lets s1 s2
  have hstep : ∀ (x : State) (a : Nat), x.Inv → ((x.wr LN_LANE_UP a 1).wr LN_LANE_FAILED a 0).Inv ∧
      (∀ j, ((x.wr LN_LANE_UP a 1).wr LN_LANE_FAILED a 0).rd LN_LANE_UP j = if j % 65536 = a % 65536 then 1 else x.rd LN_LANE_UP j) ∧
      ∀ j, ((x.wr LN_LANE_UP a 1).wr LN_LANE_FAILED a 0).rd LN_LANE_FAILED j =
        if j % 65536 = a % 65536 then 0 else x.rd LN_LANE_FAILED j := fun x a hx => by
    have h1 : (x.wr LN_LANE_UP a 1).Inv := State.wr_inv hx _ _ _
    refine ⟨State.wr_inv h1 _ _ _, fun j => ?_, fun j => ?_⟩
    · rw [(State.keepsRd_wr _ (by decide) a 0 h1).2, State.rd_wr_at hx (by decide)]
      rfl
    · rw [State.rd_wr_at h1 (by decide), (State.keepsRd_wr _ (by decide) a 1 hx).2, Nat.zero_mod]
  have hmoves1 : Moves 0x1000000000000000000000000 s s1 := .foldl .refl (fun _ _ => .wr (.wr .refl rfl) rfl)
  have h1 : s1.Inv := hmoves1.inv hi
  have h2 : s2.Inv := State.notify_moves.inv h1
  have hkept : ∀ g : Field, g.unit = 0x40 → State.KeepsRd g s1 (s2.stationsWake (fun n => s2.rd RB_STN_SEG n == s2.rd RB_PORT_SEG p)) :=
    fun g hg => (State.keepsRd_notify s1 (.inl hg) _ _ _ _ _ _ _).trans (State.stationsWake_moves.keepsRd (by rw [hg]; rfl))
  refine ⟨?_, fun l hl => ⟨?_, ?_⟩⟩
  · rw [State.stationsWake_port, ← State.notify_moves.keep h1 .rb rfl, ← hmoves1.keep hi .rb rfl]
  · have hset := (State.rd_foldl_set (f := LN_LANE_UP) (v := 1) (fun x a hx => ⟨(hstep x a hx).1, (hstep x a hx).2.1⟩) _ hi (.inl hl)).2
    rw [(hkept _ rfl).flag h1, State.flag, hset]
    rfl
  · have hset := (State.rd_foldl_set (f := LN_LANE_FAILED) (v := 0) (fun x a hx => ⟨(hstep x a hx).1, (hstep x a hx).2.2⟩) _ hi (.inl hl)).2
    rw [(hkept _ rfl).flag h1, State.flag, hset]
    rfl

theorem State.portReached_step (hi : s.Inv) (hmap : mapOk (fun _ => PortSt.init) s.rb.port = true) (n step : Nat) (skew : List Nat) :
    ((s.portReached n step skew).port n).step = step ∧
      (step = 7 → (s.portReached n step skew).rd RB_PORT_KEPOCH n = (s.rd RB_PORT_KEPOCH n + 1) % 256) ∧
      (step = 8 → ∀ l, l ∈ s.portLanes n →
        (s.portReached n step skew).flag LN_LANE_UP l = true ∧ (s.portReached n step skew).flag LN_LANE_FAILED l = false) := by
  obtain ⟨h2, hmap2, hport2, hrd2⟩ := State.portStepped_effect hi hmap n step
  have hlanes2 : (s.portStepped n step).portLanes n = s.portLanes n := State.portLanes_congr (hrd2 _ rfl) (hrd2 _ rfl) n
  unfold State.portReached
  dsimp only
  generalize s.portStepped n step = x at h2 hmap2 hport2 hrd2 hlanes2
  by_cases h5 : step = 5
  · subst h5
    rw [if_neg (by decide), if_pos rfl]
    refine ⟨?_, fun h => absurd h (by decide), fun h => absurd h (by decide)⟩
    have hskew : (x.skewShown n skew).rb = x.rb :=
      ((Moves.foldl (m := 0x1000000000000000000000000) .refl (fun _ _ => .wr .refl rfl)).keep h2 .rb rfl).symm
    obtain ⟨-, k, hk⟩ := State.rbSend_port (s := x.skewShown n skew) (p := n) (hskew ▸ hmap2) 2 0x20 3 0 0 0
      ((x.skewShown n skew).capWords n)
    rw [State.capSend, hk, State.port_congr hskew, hport2]
  · rw [if_neg h5]
    by_cases h7 : step = 7
    · subst h7
      rw [if_neg (by decide), if_pos rfl]
      refine ⟨?_, fun _ => ?_, fun h => absurd h (by decide)⟩
      · have hset : ((x.wrapInc RB_PORT_KEPOCH n 1).setPort n { x.port n with lctrRx := 0, lctrTx := 0 }).port n =
            { x.port n with lctrRx := 0, lctrTx := 0 } := mget_mset_same n _ _ hmap2
        rw [hset, hport2]
      · show (x.wrapInc RB_PORT_KEPOCH n 1).rd RB_PORT_KEPOCH n = _
        rw [State.wrapInc, State.rd_wr_same h2 (by decide), hrd2 _ rfl]
        rfl
    · rw [if_neg h7]
      by_cases h8 : step = 8
      · subst h8
        rw [if_pos rfl]
        obtain ⟨hport, hserves⟩ := State.portServes_effect h2 n
        refine ⟨?_, fun h => absurd h (by decide), fun _ l hl => hserves l (hlanes2 ▸ hl)⟩
        rw [State.port, hport]
        exact congrArg PortSt.step hport2
      · rw [if_neg h8]
        exact ⟨congrArg PortSt.step hport2, fun h => absurd h h7, fun h => absurd h h8⟩

/-! Steps that come too late (R464). -/

theorem exec_trainingStepTimeout_late {n : Nat} (hon : s.lanesOn = true) (hused : s.portUsed n = true)
    (hlow : 5 ≤ (s.port n).step) {bound : Nat} (hbound : stepBound (s.port n).step = some bound)
    (hlate : (s.port n).stepAt + bound < s.elapsed) (hcap : (s.port n).step = 5 → (s.port n).capBad = false)
    (hfw : (s.port n).step = 6 → s.firmwareOn = true) :
    exec (.trainingStepTimeout true n) s = .next (if (s.port n).step = 6 then s.setPort n { s.port n with auth := 0, stepAt := s.elapsed + 800000000 }
      else s.portDown n 8000000) := by
  have hstep : s.portStep n = (s.port n).step := if_pos hlow
  show execTrainingStepTimeout true n s = _
  unfold execTrainingStepTimeout
  rw [if_neg (by simp [hon]), if_pos rfl]
  dsimp only
  rw [hstep, hbound, if_pos hlow, if_neg (by
    have h6 : ¬((s.port n).step = 6 ∧ s.firmwareOn = false) := fun h => by
      rw [hfw h.1] at h
      exact Bool.noConfusion h.2
    have h5 : ¬((s.port n).step = 5 ∧ (s.port n).capBad = true) := fun h => by
      rw [hcap h.1] at h
      exact Bool.noConfusion h.2
    simp [hused, hlate, h6, h5])]
  split <;> rfl

theorem exec_portDown_down {n : Nat} (hon : s.lanesOn = true) (hused : s.portUsed n = true) :
    exec (.portDown n) s = .next (s.portDown n 0) := by
  show execPortDown n s = _
  exact if_pos (by simp [hon, hused])

/-! The capability exchange (R478), and the load of class 0 (R486). -/

theorem State.keepsRd_capNoted (s : State) {g : Field} (hkind : RB_PORT_NKIND.beside g 0 0 = true) (hdev : RB_PORT_NDEV.beside g 0 0 = true)
    (hstn : RB_PORT_NSTN.beside g 0 0 = true) (p kind dev stn : Nat) :
    State.KeepsRd g s (((s.wr RB_PORT_NKIND p kind).wr RB_PORT_NDEV p dev).wr RB_PORT_NSTN p stn) :=
  ((s.keepsRd_wr hkind p kind).trans (State.keepsRd_wr _ hdev p dev)).trans (State.keepsRd_wr _ hstn p stn)

/-- What a CAP frame says of the neighbour is shown. -/
def State.capNoted (s : State) (p : Nat) (w0 : W32) : State :=
  ((s.wr RB_PORT_NKIND p (w0.get 31 30)).wr RB_PORT_NDEV p (w0.get 21 12)).wr RB_PORT_NSTN p (w0.get 11 0)

theorem State.capNoted_effect (hi : s.Inv) (p : Nat) (w0 : W32) :
    (s.capNoted p w0).Inv ∧ (s.capNoted p w0).rd RB_PORT_NDEV p = w0.get 21 12 ∧ (s.capNoted p w0).rd RB_PORT_NKIND p = w0.get 31 30 := by
  have h1 : (s.wr RB_PORT_NKIND p (w0.get 31 30)).Inv := State.wr_inv hi _ _ _
  have h2 : ((s.wr RB_PORT_NKIND p (w0.get 31 30)).wr RB_PORT_NDEV p (w0.get 21 12)).Inv := State.wr_inv h1 _ _ _
  have hdev : w0.get 21 12 < 2 ^ 10 := natBits_lt _ 21 12
  have hkind : w0.get 31 30 < 2 ^ 2 := natBits_lt _ 31 30
  unfold State.capNoted
  refine ⟨State.wr_inv h2 _ _ _, ?_, ?_⟩
  · rw [(State.keepsRd_wr _ (by decide) p _ h2).2, State.rd_wr_same h1 (by decide)]
    exact Nat.mod_eq_of_lt hdev
  · rw [(State.keepsRd_wr _ (by decide) p _ h2).2, (State.keepsRd_wr _ (by decide) p _ h1).2, State.rd_wr_same hi (by decide)]
    exact Nat.mod_eq_of_lt hkind

theorem exec_capFrameReceive_received {p : Nat} {words : List W32} (hon : s.lanesOn = true) (hused : s.portUsed p = true)
    (hstep : (s.port p).step = 5) (hlen : words.length = 6) : exec (.capFrameReceive p words) s = .next (s.capReceive p words) := by
  show execCapFrameReceive p words s = _
  exact if_pos (by simp [hon, hused, hstep, hlen])

/-- The port of a neighbour that fits. -/
def State.capFit (s : State) (elapsed p : Nat) : State :=
  s.setPort p { s.port p with capOk := true, capBad := false, stepAt := if (s.port p).capBad then elapsed else (s.port p).stepAt }

/-- The port of a neighbour that does not fit. -/
def State.capRefused (s : State) (p : Nat) : State :=
  (s.setPort p { s.port p with capBad := true }).notify 0x41 2 2 p 6 0 0

theorem State.capReceive_eq (s : State) (p : Nat) (words : List W32) : s.capReceive p words =
    if (words.getD 0 0).get 31 30 = 0 ∨ (words.getD 1 0).get 7 0 ≠ 2 ^ s.rd RB_PORT_BOND p ∨
        ((words.getD 0 0).get 31 30 == 1 && (words.getD 0 0).get 21 12 == s.localDev) = true then
      if (words.getD 0 0).get 31 30 == 1 && (words.getD 0 0).get 21 12 == s.localDev then
        ((s.capNoted p (words.getD 0 0)).capRefused p).notify 0x41 8 2 ((words.getD 0 0).get 21 12) p 0 0
      else (s.capNoted p (words.getD 0 0)).capRefused p
    else ((s.capNoted p (words.getD 0 0)).capFit s.elapsed p).capSend p := by
  unfold State.capReceive State.capRefused State.capFit State.capNoted
  rfl

theorem State.rbSend_capOk {p : Nat} (h : (s.port p).capOk = true) (cls type dmode dst stn group : Nat) (payload : List Nat) :
    ((s.rbSend cls type dmode dst stn group payload [p]).port p).capOk = true := by
  unfold State.rbSend
  split
  · extract_lets pay seq words was rbOld s1
    have h1 : (s1.port p).capOk = true := h
    have hset : (s1.setPort p { s1.port p with lctrTx := (s1.port p).lctrTx + 1 }).port p =
        { s1.port p with lctrTx := (s1.port p).lctrTx + 1 } :=
      mget_mset_of_ne (d := fun _ => PortSt.init) (fun hinit => by
        have hok : (s1.port p).capOk = PortSt.init.capOk := (congrArg PortSt.capOk hinit :)
        rw [h1] at hok
        exact Bool.noConfusion hok) _
    exact (congrArg PortSt.capOk hset).trans h1
  · exact h

theorem State.capFit_capOk (elapsed p : Nat) : ((s.capFit elapsed p).port p).capOk = true := by
  have hset : (s.capFit elapsed p).port p = { s.port p with
      capOk := true, capBad := false, stepAt := if (s.port p).capBad then elapsed else (s.port p).stepAt } :=
    mget_mset_of_ne (d := fun _ => PortSt.init) (fun h => Bool.noConfusion (congrArg PortSt.capOk h)) _
  rw [hset]

theorem State.capFit_effect {x : State} (hx : x.Inv) (elapsed p : Nat) :
    (((x.capFit elapsed p).capSend p).port p).capOk = true ∧
      ∀ g : Field, g.unit = 0x41 → ((x.capFit elapsed p).capSend p).rd g p = x.rd g p := by
  have hfit : (x.capFit elapsed p).Inv := hx
  have hrd : ∀ (f : Field) (j : Nat), (x.capFit elapsed p).rd f j = x.rd f j := fun _ _ => rfl
  refine ⟨State.rbSend_capOk (State.capFit_capOk _ p) _ _ _ _ _ _ _, fun g hg => ?_⟩
  rw [State.capSend_moves.rd hfit (by rw [hg]; rfl), hrd]

/-- A neighbour that fits. -/
theorem State.capReceive_fits {p : Nat} {words : List W32} (hi : s.Inv) (hkind : (words.getD 0 0).get 31 30 = 1)
    (hbond : (words.getD 1 0).get 7 0 = 2 ^ s.rd RB_PORT_BOND p) (hdev : (words.getD 0 0).get 21 12 ≠ s.localDev) :
    ((s.capReceive p words).port p).capOk = true ∧ (s.capReceive p words).rd RB_PORT_NDEV p = (words.getD 0 0).get 21 12 ∧
      (s.capReceive p words).rd RB_PORT_NKIND p = 1 := by
  obtain ⟨h1, hndev, hnkind⟩ := State.capNoted_effect hi p (words.getD 0 0)
  have hfits : ¬((words.getD 0 0).get 31 30 = 0 ∨ (words.getD 1 0).get 7 0 ≠ 2 ^ s.rd RB_PORT_BOND p ∨
      ((words.getD 0 0).get 31 30 == 1 && (words.getD 0 0).get 21 12 == s.localDev) = true) := by
    rintro (h | h | h)
    · omega
    · exact h hbond
    · rw [Bool.and_eq_true, beq_iff_eq, beq_iff_eq] at h
      exact hdev h.2
  obtain ⟨hok, hrd⟩ := State.capFit_effect h1 s.elapsed p
  rw [State.capReceive_eq, if_neg hfits]
  exact ⟨hok, (hrd _ rfl).trans hndev, (hrd _ rfl).trans (hnkind.trans hkind)⟩

theorem State.capRefused_effect {x : State} (hx : x.Inv) (p : Nat) :
    (x.capRefused p).Inv ∧ (x.capRefused p).port p = { x.port p with capBad := true } ∧
      ⟨0x4102, 2⟩ ∈ (x.capRefused p).ec.arrivals := by
  have hset : (x.setPort p { x.port p with capBad := true }).Inv := hx
  have hget : (x.setPort p { x.port p with capBad := true }).port p = { x.port p with capBad := true } :=
    mget_mset_of_ne (d := fun _ => PortSt.init) (fun h => Bool.noConfusion (congrArg PortSt.capBad h)) _
  exact ⟨State.notify_moves.inv hset, (State.port_congr (State.notify_moves.keep hset .rb rfl).symm p).trans hget,
    State.notify_mem_arrivals hset (by decide) _ _ _ _⟩

theorem State.capNoted_port (p : Nat) (w0 : W32) : (s.capNoted p w0).port p = s.port p := rfl

/-- A neighbour that does not fit keeps the port where it is. -/
theorem State.capReceive_refused {p : Nat} {words : List W32} (hi : s.Inv) (hbond : (words.getD 1 0).get 7 0 ≠ 2 ^ s.rd RB_PORT_BOND p) :
    ((s.capReceive p words).port p).capOk = (s.port p).capOk ∧ ((s.capReceive p words).port p).capBad = true ∧
      ((s.capReceive p words).port p).step = (s.port p).step ∧ ⟨0x4102, 2⟩ ∈ (s.capReceive p words).ec.arrivals := by
  obtain ⟨h1, -⟩ := State.capNoted_effect hi p (words.getD 0 0)
  obtain ⟨hy, hport, harrived⟩ := State.capRefused_effect h1 p
  rw [State.capNoted_port] at hport
  rw [State.capReceive_eq, if_pos (.inr (.inl hbond))]
  split
  · rw [State.port_congr (State.notify_moves.keep hy .rb rfl).symm p, hport]
    exact ⟨rfl, rfl, rfl, (State.notify_moves.keep hy .errors rfl).subset harrived⟩
  · rw [hport]
    exact ⟨rfl, rfl, rfl, harrived⟩

/-- Class 0 bytes of a port against its payload rate. -/
theorem State.c0Load_effect (hi : s.Inv) (p : Nat) (tight : Bool) :
    let t := if tight && !s.flag RB_PORT_C0_OVER p then (s.setFlag RB_PORT_C0_OVER p tight).notify 0x41 9 2 p 0 0 0
      else s.setFlag RB_PORT_C0_OVER p tight
    t.flag RB_PORT_C0_OVER p = tight ∧
      (t.flag RB_PORT_C0_OVER p = true → s.flag RB_PORT_C0_OVER p = false → ⟨0x4109, 2⟩ ∈ t.ec.arrivals) := by
  intro t
  have h1 : (s.setFlag RB_PORT_C0_OVER p tight).Inv := State.setFlag_inv hi _ _ _
  have hshown : (s.setFlag RB_PORT_C0_OVER p tight).flag RB_PORT_C0_OVER p = tight := State.flag_setFlag_same hi (by decide) p tight
  have hflag : t.flag RB_PORT_C0_OVER p = tight := by
    unfold t
    split
    · exact ((State.keepsRd_notify _ (.inr rfl) _ _ _ _ _ _ _).flag h1 p).trans hshown
    · exact hshown
  refine ⟨hflag, fun hover hold => ?_⟩
  have ht : t = (s.setFlag RB_PORT_C0_OVER p tight).notify 0x41 9 2 p 0 0 0 := if_pos (by rw [← hflag, hover, hold]; rfl)
  rw [ht]
  exact State.notify_mem_arrivals h1 (by decide) _ _ _ _

theorem exec_c0LoadWindow_judged {p : Nat} (hon : s.lanesOn = true) (hused : s.portUsed p = true) (bytes : Nat) :
    exec (.c0LoadWindow p bytes) s = .next
      (if decide (2 ^ s.rd RB_PORT_BOND p * 390625 < bytes * 33) && !s.flag RB_PORT_C0_OVER p then
        (s.setFlag RB_PORT_C0_OVER p (decide (2 ^ s.rd RB_PORT_BOND p * 390625 < bytes * 33))).notify 0x41 9 2 p 0 0 0
      else s.setFlag RB_PORT_C0_OVER p (decide (2 ^ s.rd RB_PORT_BOND p * 390625 < bytes * 33))) := by
  show execC0LoadWindow p bytes s = _
  exact if_neg (by simp [hon, hused])

end

end Sys2Proof.Machine
end

