-- ==== Sys2Proof/Proofs/FramesRead.lean ====
section
/-! Blocks as they arrive on a port's lanes, and the frames that they make up (R468, R470). -/

namespace Sys2Proof.Machine

open Sys2Proof

/-- The lane that carries a block of a port. -/
def State.blockLane (s : State) (p k : Nat) : Nat := s.rd RB_PORT_LANE p + k

/-- A block has arrived: its lane's descrambler holds it, and its sync header is remembered. -/
def State.blockNoted (s : State) (lane : Nat) (b : LineBlock) : State :=
  { s with rb := { s.rb with
    lastBlk := mset (fun _ => 0) lane b.bits s.rb.lastBlk
    badSync := mset (fun _ => []) lane (((!syncOk b.sync) :: mget (fun _ => []) s.rb.badSync lane).take 64) s.rb.badSync } }

section
variable {s : State}

/-- A block on a lane with block lock. -/
theorem State.blockIn_locked {p : Nat} {b : LineBlock} (hk : b.lane < 2 ^ s.rd RB_PORT_BOND p)
    (hstep : 3 ≤ s.rd LN_LANE_STEP (s.blockLane p b.lane)) (tagOk : Bool) : s.blockIn p tagOk b =
      (match blockOf b.sync (descramble (mget (fun _ => 0) s.rb.lastBlk (s.blockLane p b.lane)) b.bits) with
      | .invalid => (s.blockNoted (s.blockLane p b.lane) b).badBlock p (s.blockLane p b.lane) b.sync
      | k => if (s.port p).step < 5 then s.blockNoted (s.blockLane p b.lane) b
          else (s.blockNoted (s.blockLane p b.lane) b).frameBlock p k tagOk) := by
  have hlane : s.rd RB_PORT_LANE p + b.lane % 2 ^ s.rd RB_PORT_BOND p = s.blockLane p b.lane := by
    rw [Nat.mod_eq_of_lt hk]
    rfl
  unfold State.blockIn
  rw [hlane]
  exact if_neg (by omega)

theorem exec_renbyFrameReceive_blocks {p : Nat} (hon : s.lanesOn = true) (hused : s.portUsed p = true) (blocks : List LineBlock)
    (tagOk : Bool) : exec (.renbyFrameReceive p blocks tagOk) s = .next (blocks.foldl (fun s b => s.blockIn p tagOk b) s) := by
  show execRenbyFrameReceive p blocks tagOk s = _
  exact if_neg (by simp [hon, hused])

/-! Invalid sync headers (R466, R468). -/

/-- The block counted as invalid, and open frames dropped. -/
def State.blockDropped (s : State) (p lane : Nat) : State := (s.bump LN_LANE_ERR_BLK lane 1).dropFrames p

theorem State.blockDropped_effect (hi : s.Inv) (hmap : mapOk (fun _ => PortSt.init) s.rb.port = true) (p lane : Nat) :
    (s.blockDropped p lane).Inv ∧ (s.blockDropped p lane).port p = { s.port p with frames := [] } ∧
      (s.blockDropped p lane).rd LN_LANE_ERR_BLK lane = satAdd (2 ^ 32 - 1) (s.rd LN_LANE_ERR_BLK lane) 1 := by
  have hbump : (s.bump LN_LANE_ERR_BLK lane 1).Inv := State.wr_inv hi _ _ _
  exact ⟨hbump, mget_mset_same p _ _ hmap, State.rd_bump_same hi (by decide) lane 1⟩

/-- Sixteen invalid headers lose block lock. -/
def State.lockLost (s : State) (p lane : Nat) : State :=
  let x := s.blockDropped p lane
  State.notify { x with rb := { x.rb with badSync := mset (fun _ => []) lane [] x.rb.badSync } } 0x40 1 1 lane 3 0 0

theorem State.badBlock_few {p lane sync : Nat} (h : (mget (fun _ => []) s.rb.badSync lane).countP id < 16) :
    s.badBlock p lane sync = s.blockDropped p lane := by
  have hfew : ¬(syncOk sync = false ∧ 16 ≤ (mget (fun _ => []) (s.blockDropped p lane).rb.badSync lane).countP id) := fun h' =>
    absurd h'.2 (Nat.not_le.2 h)
  exact if_neg hfew

theorem State.badBlock_many {p lane sync : Nat} (hsync : syncOk sync = false) (h : 16 ≤ (mget (fun _ => []) s.rb.badSync lane).countP id) :
    s.badBlock p lane sync = (s.lockLost p lane).laneFails lane := if_pos ⟨hsync, h⟩

theorem State.portOf_congr {t : State} (hvar : t.var = s.var) (hrd : ∀ g : Field, g.unit = 0x41 → ∀ j, t.rd g j = s.rd g j) (lane : Nat) :
    t.portOf lane = s.portOf lane := by
  have hlanes : ∀ p, t.portLanes p = s.portLanes p := State.portLanes_congr (hrd _ rfl) (hrd _ rfl)
  have hn : t.nPort = s.nPort := by
    unfold State.nPort State.byVar
    rw [hvar]
  have hused : ∀ p, t.portUsed p = s.portUsed p := fun p => by
    unfold State.portUsed State.flag
    rw [hrd _ rfl, hrd _ rfl, hn]
  unfold State.portOf
  rw [hn]
  simp only [hlanes, hused]

/-- The port goes down with the lane that lost block lock. -/
theorem State.lockLost_effect (hi : s.Inv) (hmap : mapOk (fun _ => PortSt.init) s.rb.port = true) {p lane : Nat}
    (hport : s.portOf lane = some p) :
    let t := (s.lockLost p lane).laneFails lane
    (t.port p).step = 0 ∧ t.flag LN_LANE_UP lane = false ∧ ⟨0x4001, 1⟩ ∈ t.ec.arrivals := by
  have hdropped : (s.blockDropped p lane).Inv := (State.blockDropped_effect hi hmap p lane).1
  have hmoves : Moves 0x1000000000000000000000000000000000000000000000001000000000000000040006c00 s (s.lockLost p lane) :=
    .trans (.rb (.rb (.bump .refl rfl) rfl) rfl) (State.notify_moves.mono rfl)
  have hcleared : State.Inv { s.blockDropped p lane with rb := { (s.blockDropped p lane).rb with
      badSync := mset (fun _ => []) lane [] (s.blockDropped p lane).rb.badSync } } := hdropped
  have hrb := State.notify_moves (a0 := 0x40) (a1 := 1) (a2 := 1) (a3 := lane) (a4 := 3) (a5 := 0) (a6 := 0) |>.keep hcleared .rb rfl
  have harrived : ⟨0x4001, 1⟩ ∈ (s.lockLost p lane).ec.arrivals := State.notify_mem_arrivals hcleared (by decide) _ _ _ _
  have hlost : (s.lockLost p lane).Inv := hmoves.inv hi
  have hportOf : (s.lockLost p lane).portOf lane = some p :=
    (State.portOf_congr (hmoves.keep hi .ident rfl).1.symm (fun g hg j => hmoves.rd hi (by rw [hg]; rfl) j) lane).trans hport
  have hports : mapOk (fun _ => PortSt.init) (s.lockLost p lane).rb.port = true := by
    rw [State.lockLost, ← hrb]
    exact mset_ok hmap
  intro t
  obtain ⟨-, hup, hdown⟩ := State.laneFails_effect hlost lane
  refine ⟨?_, hup, (State.laneFails_moves.keep hlost .errors rfl).subset harrived⟩
  rw [State.port, hdown p hportOf, mget_mset_same p _ _ hports]
  rfl

/-! Frames that arrive whole. -/

/-- State `y` is `s` with blocks read on port `p`: its open frames, and what its lanes' descramblers hold. -/
structure State.Reading (s : State) (p : Nat) (y : State) (frames : List (Nat × List (BitVec 64))) (prev : Nat → BitVec 64) : Prop where
  same : ∃ last bad port, y = { s with rb := { s.rb with lastBlk := last, badSync := bad, port := port } }
  ports : mapOk (fun _ => PortSt.init) y.rb.port = true
  blocks : mapOk (fun _ => 0) y.rb.lastBlk = true
  here : y.port p = { s.port p with frames := frames }
  others : ∀ q, q ≠ p → y.port q = s.port q
  last : ∀ k, k < 2 ^ s.rd RB_PORT_BOND p → mget (fun _ => 0) y.rb.lastBlk (s.rd RB_PORT_LANE p + k) = prev k

theorem State.Reading.rd {p : Nat} {y : State} {frames : List (Nat × List (BitVec 64))} {prev : Nat → BitVec 64}
    (h : s.Reading p y frames prev) (f : Field) (j : Nat) : y.rd f j = s.rd f j := by
  obtain ⟨last, bad, port, rfl⟩ := h.same
  rfl

/-- A port whose open frames are replaced. -/
theorem State.Reading.setFrames {p : Nat} {y : State} {frames : List (Nat × List (BitVec 64))} {prev : Nat → BitVec 64}
    (h : s.Reading p y frames prev) (fs : List (Nat × List (BitVec 64))) :
    s.Reading p (y.setPort p { y.port p with frames := fs }) fs prev where
  same := by
    obtain ⟨last, bad, port, rfl⟩ := h.same
    exact ⟨last, bad, _, rfl⟩
  ports := mset_ok h.ports
  blocks := h.blocks
  here := (mget_mset_same p _ _ h.ports).trans (by rw [h.here])
  others := fun q hq => (mget_mset_ne _ hq _ h.ports).trans (h.others q hq)
  last := h.last

/-- The blocks that the lanes hold after another. -/
def blockAfter (prev : Nat → BitVec 64) (k : Nat) (x : BitVec 64) : Nat → BitVec 64 := fun j => if j = k then x else prev j

theorem State.Reading.noted {p : Nat} {y : State} {frames : List (Nat × List (BitVec 64))} {prev : Nat → BitVec 64}
    (h : s.Reading p y frames prev) (b : LineBlock) :
    s.Reading p (y.blockNoted (s.rd RB_PORT_LANE p + b.lane) b) frames (blockAfter prev b.lane b.bits) where
  same := by
    obtain ⟨last, bad, port, rfl⟩ := h.same
    exact ⟨_, _, port, rfl⟩
  ports := h.ports
  blocks := mset_ok h.blocks
  here := h.here
  others := h.others
  last := fun j hj => by
    unfold blockAfter
    show mget (fun _ => 0) (mset (fun _ => 0) (s.rd RB_PORT_LANE p + b.lane) b.bits y.rb.lastBlk) (s.rd RB_PORT_LANE p + j) = _
    by_cases hjk : j = b.lane
    · rw [if_pos hjk, hjk]
      exact mget_mset_same _ _ _ h.blocks
    · rw [if_neg hjk]
      exact (mget_mset_ne _ (by omega) _ h.blocks).trans (h.last j hj)

/-- What holds of a port that reads frames. -/
structure State.ReadsFrames (s : State) (p : Nat) : Prop where
  locked : ∀ k, k < 2 ^ s.rd RB_PORT_BOND p → 3 ≤ s.rd LN_LANE_STEP (s.rd RB_PORT_LANE p + k)
  step : 5 ≤ (s.port p).step

/-- A scrambled block is read as it was sent. -/
theorem State.Reading.blockIn {p : Nat} {y : State} {frames : List (Nat × List (BitVec 64))} {prev : Nat → BitVec 64}
    (h : s.Reading p y frames prev) (hp : s.ReadsFrames p) {k sync : Nat} {d : BitVec 64} (hk : k < 2 ^ s.rd RB_PORT_BOND p)
    (hvalid : blockOf sync d ≠ .invalid) (tagOk : Bool) :
    y.blockIn p tagOk ⟨k, sync, scramble (prev k) d⟩ =
      (y.blockNoted (s.rd RB_PORT_LANE p + k) ⟨k, sync, scramble (prev k) d⟩).frameBlock p (blockOf sync d) tagOk := by
  have hlane : y.blockLane p k = s.rd RB_PORT_LANE p + k := congrArg (· + k) (h.rd _ _)
  have hstep : ¬(y.port p).step < 5 := by
    rw [h.here]
    exact Nat.not_lt.2 hp.step
  have hbits : descramble (mget (fun _ => 0) y.rb.lastBlk (s.rd RB_PORT_LANE p + k)) (scramble (prev k) d) = d := by
    rw [h.last k hk, descramble_scramble]
  rw [State.blockIn_locked (b := ⟨k, sync, scramble (prev k) d⟩) (by rw [h.rd]; exact hk) (by rw [h.rd, hlane]; exact hp.locked k hk)]
  show (match blockOf sync (descramble (mget (fun _ => 0) y.rb.lastBlk (y.blockLane p k)) (scramble (prev k) d)) with
    | .invalid => _
    | k => _ : State) = _
  rw [hlane, hbits]
  cases hb : blockOf sync d with
  | invalid => exact absurd hb hvalid
  | data _ => exact if_neg hstep
  | idle => exact if_neg hstep
  | start _ => exact if_neg hstep
  | stop _ => exact if_neg hstep
  | marker => exact if_neg hstep

/-- Data blocks join the innermost open frame. -/
theorem State.Reading.dataBlocks {p cls : Nat} (hp : s.ReadsFrames p) (tagOk : Bool) :
    ∀ (l : List (Nat × Nat × BitVec 64)) (ds acc : List (BitVec 64)) (rest : List (Nat × Nat × BitVec 64)) {y : State} {prev : Nat → BitVec 64},
      s.Reading p y [(cls, acc)] prev → l.map (·.2) = ds.map (fun d => (1, d)) → (∀ x, x ∈ l → x.1 < 2 ^ s.rd RB_PORT_BOND p) →
      ∃ y' prev', s.Reading p y' [(cls, ds.reverse ++ acc)] prev' ∧
        (lineBlocks prev (l ++ rest)).foldl (fun s b => s.blockIn p tagOk b) y = (lineBlocks prev' rest).foldl (fun s b => s.blockIn p tagOk b) y'
  | [], ds, acc, rest, y, prev, h, hl, _ => by
    obtain rfl : ds = [] := by
      cases ds with
      | nil => rfl
      | cons d ds => exact absurd hl (by simp)
    exact ⟨y, prev, h, rfl⟩
  | (k, sync, d) :: l, ds, acc, rest, y, prev, h, hl, hlanes => by
    obtain ⟨d', ds, rfl⟩ : ∃ d' ds', ds = d' :: ds' := by
      cases ds with
      | nil => exact absurd hl (by simp)
      | cons d' ds' => exact ⟨d', ds', rfl⟩
    simp only [List.map_cons, List.cons.injEq, Prod.mk.injEq] at hl
    obtain ⟨⟨rfl, rfl⟩, hl⟩ := hl
    have hk : k < 2 ^ s.rd RB_PORT_BOND p := hlanes _ List.mem_cons_self
    have hnoted := h.noted ⟨k, 1, scramble (prev k) d⟩
    have hblock := h.blockIn hp hk (sync := 1) (d := d) (by rw [blockOf_data]; exact fun h => Block.noConfusion h) tagOk
    generalize y.blockNoted (s.rd RB_PORT_LANE p + k) ⟨k, 1, scramble (prev k) d⟩ = z at hnoted hblock
    have hframe : z.frameBlock p (blockOf 1 d) tagOk = z.setPort p { z.port p with frames := [(cls, d :: acc)] } := by
      rw [blockOf_data]
      unfold State.frameBlock
      dsimp only
      rw [hnoted.here]
    obtain ⟨y', prev', h', hfold⟩ := State.Reading.dataBlocks hp tagOk l ds (d :: acc) rest (hnoted.setFrames [(cls, d :: acc)]) hl
      (fun x hx => hlanes x (List.mem_cons_of_mem _ hx))
    refine ⟨y', prev', ?_, ?_⟩
    · rw [List.reverse_cons, List.append_assoc]
      exact h'
    · rw [List.cons_append, lineBlocks, List.foldl_cons, hblock, hframe]
      exact hfold

/-- A frame on the line, on a port that reads and holds no open frame, is taken whole once its END block is there. -/
theorem State.frame_taken {p cls : Nat} {f : List W32} {bs : List LineBlock} (hmap : mapOk (fun _ => PortSt.init) s.rb.port = true)
    (hlast : mapOk (fun _ => 0) s.rb.lastBlk = true) (hp : s.ReadsFrames p) (hnone : (s.port p).frames = []) (hcls : cls < 3)
    (heven : f.length % 2 = 0) (hline : s.OnLine p cls f bs) (tagOk : Bool) :
    ∃ y prev, s.Reading p y [] prev ∧ bs.foldl (fun s b => s.blockIn p tagOk b) s = y.frameTaken p cls f tagOk := by
  obtain ⟨l, hl, hlanes, rfl⟩ := hline
  have hbegin : s.Reading p s [] (fun k => mget (fun _ => 0) s.rb.lastBlk (s.rd RB_PORT_LANE p + k)) :=
    ⟨⟨_, _, _, rfl⟩, hmap, hlast, by rw [← hnone], fun _ _ => rfl, fun _ _ => rfl⟩
  generalize (fun k => mget (fun _ => 0) s.rb.lastBlk (s.rd RB_PORT_LANE p + k)) = prev at hbegin
  unfold frameBlocks at hl
  obtain ⟨⟨k0, mark⟩, l, rfl⟩ : ∃ x l', l = x :: l' := by
    cases l with
    | nil => exact absurd hl (by simp)
    | cons x l => exact ⟨x, l, rfl⟩
  rw [List.map_cons, List.cons_append, List.cons.injEq] at hl
  obtain ⟨rfl, hl⟩ := hl
  obtain ⟨l1, l2, rfl, hl1, hl2⟩ := List.map_eq_append_iff.1 hl
  obtain ⟨⟨kn, mark⟩, rfl, rfl⟩ := List.map_eq_singleton_iff.1 hl2
  have hk0 : k0 < 2 ^ s.rd RB_PORT_BOND p := hlanes _ List.mem_cons_self
  have hkn : kn < 2 ^ s.rd RB_PORT_BOND p := hlanes _ (List.mem_cons_of_mem _ (List.mem_append_right _ (List.mem_singleton.2 rfl)))
  have hstartNoted := hbegin.noted ⟨k0, 2, scramble (prev k0) (BitVec.ofNat 64 (0x78 + cls * 2 ^ 14))⟩
  have hstart := hbegin.blockIn hp hk0 (sync := 2) (d := BitVec.ofNat 64 (0x78 + cls * 2 ^ 14))
    (by rw [blockOf_start hcls]; exact fun h => Block.noConfusion h) tagOk
  generalize s.blockNoted (s.rd RB_PORT_LANE p + k0) ⟨k0, 2, scramble (prev k0) (BitVec.ofNat 64 (0x78 + cls * 2 ^ 14))⟩ = z
    at hstartNoted hstart
  have hopen : z.frameBlock p (blockOf 2 (BitVec.ofNat 64 (0x78 + cls * 2 ^ 14))) tagOk = z.setPort p { z.port p with frames := [(cls, [])] } := by
    rw [blockOf_start hcls]
    unfold State.frameBlock
    dsimp only
    rw [hstartNoted.here]
    exact if_pos ⟨hcls, rfl⟩
  obtain ⟨y, prev', hy, hfold⟩ := State.Reading.dataBlocks hp tagOk l1 (wordBlocks (f.map (·.toNat))) []
    [(kn, 2, BitVec.ofNat 64 (0x87 + cls * 2 ^ 14))] (hstartNoted.setFrames [(cls, [])]) hl1
    (fun x hx => hlanes x (List.mem_cons_of_mem _ (List.mem_append_left _ hx)))
  have hstopNoted := hy.noted ⟨kn, 2, scramble (prev' kn) (BitVec.ofNat 64 (0x87 + cls * 2 ^ 14))⟩
  have hstop := hy.blockIn hp hkn (sync := 2) (d := BitVec.ofNat 64 (0x87 + cls * 2 ^ 14))
    (by rw [blockOf_stop hcls]; exact fun h => Block.noConfusion h) tagOk
  generalize y.blockNoted (s.rd RB_PORT_LANE p + kn) ⟨kn, 2, scramble (prev' kn) (BitVec.ofNat 64 (0x87 + cls * 2 ^ 14))⟩ = w
    at hstopNoted hstop
  have hclose : w.frameBlock p (blockOf 2 (BitVec.ofNat 64 (0x87 + cls * 2 ^ 14))) tagOk =
      (w.setPort p { w.port p with frames := [] }).frameTaken p cls f tagOk := by
    rw [blockOf_stop hcls]
    unfold State.frameBlock
    dsimp only
    rw [hstopNoted.here]
    refine (if_pos rfl).trans ?_
    rw [List.append_nil, List.reverse_reverse, blockWords_wordBlocks f heven]
  refine ⟨_, _, hstopNoted.setFrames [], ?_⟩
  rw [lineBlocks, List.foldl_cons, hstart, hopen]
  refine hfold.trans ?_
  rw [lineBlocks, List.foldl_cons, hstop, hclose]
  rfl

end

end Sys2Proof.Machine
end

