-- ==== Sys2Proof/Proofs/FramesTaken.lean ====
section
/-! A whole frame: its checks in order, what is forwarded (R471 to R473, R482, R483), and what devices make known (R476, R477). -/

namespace Sys2Proof.Machine

open Sys2Proof

section
variable {s : State}

/-! The parts of a frame. -/

theorem frame_head {h ws e : List W32} (hh : h.length = 4) : (h ++ ws ++ e).take 4 = h := by
  rw [List.append_assoc, ← hh, List.take_left]

theorem frame_tail {h ws e : List W32} (he : e.length = 8) : (h ++ ws ++ e).drop ((h ++ ws ++ e).length - 8) = e := by
  have hlen : (h ++ ws ++ e).length - 8 = (h ++ ws).length := by
    rw [List.length_append, he, Nat.add_sub_cancel]
  rw [hlen, List.drop_left]

theorem frame_body {h ws e : List W32} (hh : h.length = 4) (he : e.length = 8) :
    ((h ++ ws ++ e).drop 4).take ((h ++ ws ++ e).length - 12) = ws := by
  have hlen : (h ++ ws ++ e).length - 12 = ws.length := by
    rw [List.length_append, List.length_append, hh, he]
    omega
  rw [hlen, List.append_assoc, ← hh, List.drop_left, List.take_left]

/-! Checks (R472, R473). -/

/-- A length that the header does not state is an error of framing. -/
theorem State.frameTaken_length {p cls : Nat} {f : List W32} (h : f.length ≠ 2 * ((f.take 4).getD 0 0).get 10 0) (tagOk : Bool) :
    s.frameTaken p cls f tagOk = s.frameErr p :=
  if_pos (by
    have hne : (f.length != 2 * ((f.take 4).getD 0 0).get 10 0) = true := bne_iff_ne.2 h
    rw [hne]
    rfl)

theorem State.frameErr_counts (hi : s.Inv) (p : Nat) :
    (s.frameErr p).rd RB_PORT_FRAME_ERR p = satAdd 65535 (s.rd RB_PORT_FRAME_ERR p) 1 := by
  have hdropped : (s.dropFrames p).Inv := hi
  exact State.rd_bump_same hdropped (by decide) p 1

/-- What holds of a frame whose length and version are right. -/
structure FrameFits (f h ws e : List W32) : Prop where
  parts : f = h ++ ws ++ e
  head : h.length = 4
  trailer : e.length = 8
  stated : f.length = 2 * (h.getD 0 0).get 10 0
  short : f.length ≤ 2304
  version : (h.getD 0 0).get 31 28 = 1

/-- A frame that fits, as the checks after its length read it. -/
theorem State.frameTaken_fits {p cls : Nat} {f h ws e : List W32} (hf : FrameFits f h ws e) (tagOk : Bool) :
    s.frameTaken p cls f tagOk =
      (let h0 := h.getD 0 0
      let x := s.port p
      let lctr := (e.getD 0 0).toNat + (e.getD 1 0).toNat * 2 ^ 32
      if (e.getD 2 0).toNat != crc32c (h ++ ws ++ e.take 2) then s.bump RB_PORT_CRC_ERR p 1
      else
        let link := (h0.get 23 16 == 0x20 || h0.get 23 16 == 0x21) && (h.getD 1 0).get 11 10 == 3
        let zero := (e.drop 4).all (fun w => w == 0) && (e.getD 3 0).get 7 0 == 0
        if x.step < 7 && !(link && zero) then s
        else if decide (7 ≤ x.step) && ((e.getD 3 0).get 7 0 != s.rd RB_PORT_KEPOCH p || !tagOk) then s.authDrop p RB_PORT_AUTH_ERR
        else if lctr < x.lctrRx then s.authDrop p RB_PORT_REPLAY
        else
          let s1 := s.setPort p { x with lctrRx := lctr + 1 }
          match frameType (h0.get 23 16) with
          | none => s1.bump RB_PORT_FRAME_ERR p 1
          | some (c, d) =>
            if c != h0.get 27 26 || c != cls || d != (h.getD 1 0).get 11 10 then s1.bump RB_PORT_FRAME_ERR p 1
            else s1.frameAccepted p h ws) := by
  obtain ⟨rfl, hhead, htrailer, hstated, hshort, hversion⟩ := hf
  have hlen : (h ++ ws ++ e).length = h.length + ws.length + e.length := by rw [List.length_append, List.length_append]
  have hgood : ¬((h ++ ws ++ e).length != 2 * (h.getD 0 0).get 10 0 || decide ((h.getD 0 0).get 10 0 < 6)
      || decide (1152 < (h.getD 0 0).get 10 0)) = true := by
    have h1 : ¬(h.getD 0 0).get 10 0 < 6 := by omega
    have h2 : ¬1152 < (h.getD 0 0).get 10 0 := by omega
    rw [← hstated, decide_eq_false h1, decide_eq_false h2, bne_self_eq_false]
    exact Bool.false_ne_true
  have hold : ¬((h.getD 0 0).get 31 28 != 1) = true := by
    rw [hversion]
    decide
  unfold State.frameTaken
  rw [frame_head hhead, frame_tail htrailer, frame_body hhead htrailer]
  exact (if_neg hgood).trans (if_neg hold)

/-- A dropped frame is counted by what it failed. -/
theorem State.authDrop_counts (hi : s.Inv) (p : Nat) {f : Field} (hf : f.fits = true) (hu : f.unit = 0x41) :
    (s.authDrop p f).rd f p = satAdd (2 ^ (f.hi + 1 - f.lo) - 1) (s.rd f p) 1 := by
  unfold State.authDrop
  extract_lets x d s1
  have h1 : s1.Inv := State.wr_inv hi _ _ _
  have hcount : s1.rd f p = satAdd (2 ^ (f.hi + 1 - f.lo) - 1) (s.rd f p) 1 := State.rd_bump_same hi hf p 1
  have hset : ∀ y : PortSt, (s1.setPort p y).Inv ∧ (s1.setPort p y).rd f p = s1.rd f p := fun y => ⟨h1, rfl⟩
  split
  · exact ((State.keepsRd_notify _ (.inr hu) _ _ _ _ _ _ _ (hset _).1).2 p).trans ((hset _).2.trans hcount)
  · exact (hset _).2.trans hcount

theorem State.frameTaken_crc {p cls : Nat} {f h ws e : List W32} (hi : s.Inv) (hf : FrameFits f h ws e)
    (hcrc : (e.getD 2 0).toNat ≠ crc32c (h ++ ws ++ e.take 2)) (tagOk : Bool) :
    (s.frameTaken p cls f tagOk).rd RB_PORT_CRC_ERR p = satAdd 65535 (s.rd RB_PORT_CRC_ERR p) 1 := by
  rw [State.frameTaken_fits hf]
  dsimp only
  rw [if_pos (bne_iff_ne.2 hcrc)]
  exact State.rd_bump_same hi (by decide) p 1

/-- From step 7 on, a frame with a good CRC stands or falls by its tag, its key epoch and its counter. -/
theorem State.frameTaken_keyed {p cls : Nat} {f h ws e : List W32} (hf : FrameFits f h ws e)
    (hcrc : (e.getD 2 0).toNat = crc32c (h ++ ws ++ e.take 2)) (hstep : 7 ≤ (s.port p).step) (tagOk : Bool) :
    s.frameTaken p cls f tagOk =
      if (e.getD 3 0).get 7 0 != s.rd RB_PORT_KEPOCH p || !tagOk then s.authDrop p RB_PORT_AUTH_ERR
      else if (e.getD 0 0).toNat + (e.getD 1 0).toNat * 2 ^ 32 < (s.port p).lctrRx then s.authDrop p RB_PORT_REPLAY
      else match frameType ((h.getD 0 0).get 23 16) with
        | none => (s.setPort p { s.port p with lctrRx := (e.getD 0 0).toNat + (e.getD 1 0).toNat * 2 ^ 32 + 1 }).bump RB_PORT_FRAME_ERR p 1
        | some (c, d) =>
          if c != (h.getD 0 0).get 27 26 || c != cls || d != (h.getD 1 0).get 11 10 then
            (s.setPort p { s.port p with lctrRx := (e.getD 0 0).toNat + (e.getD 1 0).toNat * 2 ^ 32 + 1 }).bump RB_PORT_FRAME_ERR p 1
          else (s.setPort p { s.port p with lctrRx := (e.getD 0 0).toNat + (e.getD 1 0).toNat * 2 ^ 32 + 1 }).frameAccepted p h ws := by
  have hkeyed : ¬(decide ((s.port p).step < 7) && !(((h.getD 0 0).get 23 16 == 0x20 || (h.getD 0 0).get 23 16 == 0x21)
      && (h.getD 1 0).get 11 10 == 3 && ((e.drop 4).all (fun w => w == 0) && (e.getD 3 0).get 7 0 == 0))) = true := by
    rw [decide_eq_false (Nat.not_lt.2 hstep), Bool.false_and]
    exact Bool.false_ne_true
  have hcrc' : ¬((e.getD 2 0).toNat != crc32c (h ++ ws ++ e.take 2)) = true := by
    rw [bne_iff_ne]
    exact fun hne => hne hcrc
  rw [State.frameTaken_fits hf]
  dsimp only
  rw [if_neg hcrc', if_neg hkeyed, decide_eq_true hstep, Bool.true_and]

/-! Forwarding (R482, R483). -/

/-- A frame for another device, by its header. -/
structure ForOther (s : State) (h : List W32) : Prop where
  type : (h.getD 0 0).get 23 16 = 0x24
  cls : (h.getD 0 0).get 27 26 = 2
  dmode : (h.getD 1 0).get 11 10 = 0
  dst : (h.getD 1 0).get 21 12 ≠ s.localDev
  src : (h.getD 1 0).get 31 22 ≠ s.localDev
  hops : (h.getD 1 0).get 9 0 ≠ 0
  device : (h.getD 3 0).get 19 19 = 0

/-- The key of its sequence window. -/
def seenKey (h : List W32) : Nat := frameKey ((h.getD 1 0).get 31 22) 0 ((h.getD 3 0).get 31 20) 2

/-- Its number noted. -/
def State.seenNoted (s : State) (h : List W32) : State :=
  { s with rb := { s.rb with
    seen := mset (fun _ => []) (seenKey h) (((h.getD 2 0).toNat :: mget (fun _ => []) s.rb.seen (seenKey h)).take 1024) s.rb.seen } }

/-- The frame `words` forwarded on `ports`. -/
def State.sentOn (s : State) (words ports : List Nat) : State :=
  ports.foldl (fun s p => s.setPort p { s.port p with lctrTx := (s.port p).lctrTx + 1 })
    { s with rb := { s.rb with fwd := ⟨words, ports, s.rb.fwd.count + 1⟩ } }

/-- The frame as it is forwarded, one hop nearer. -/
def forwarded (h ws : List W32) : List Nat := [h.getD 0 0, h.getD 1 0 - 1, h.getD 2 0, h.getD 3 0].map (·.toNat) ++ ws.map (·.toNat)

theorem State.sendCounted_foldl (l : List Nat) : ∀ s : State,
    (l.foldl (fun s p => s.setPort p { s.port p with lctrTx := (s.port p).lctrTx + 1 }) s).rb.seen = s.rb.seen ∧
      (l.foldl (fun s p => s.setPort p { s.port p with lctrTx := (s.port p).lctrTx + 1 }) s).rb.fwd = s.rb.fwd ∧
      (l.foldl (fun s p => s.setPort p { s.port p with lctrTx := (s.port p).lctrTx + 1 }) s).rb.sent = s.rb.sent := by
  induction l with
  | nil => exact fun _ => ⟨rfl, rfl, rfl⟩
  | cons p l ih => exact fun s => ih (s.setPort p { s.port p with lctrTx := (s.port p).lctrTx + 1 })

theorem State.frameAccepted_other {p : Nat} {h ws : List W32} (hother : ForOther s h)
    (hnew : (h.getD 2 0).toNat ∉ mget (fun _ => []) s.rb.seen (seenKey h)) {ports : List Nat}
    (hports : (s.seenNoted h).forwardPorts p 0 ((h.getD 1 0).get 21 12) ((h.getD 3 0).get 15 0) = ports) (hsome : ports ≠ []) :
    s.frameAccepted p h ws = (s.seenNoted h).sentOn (forwarded h ws) ports := by
  obtain ⟨htype, hcls, hdmode, hdst, hsrc, hhops, hdevice⟩ := hother
  have hown : ¬(0 = 0 ∧ (h.getD 1 0).get 31 22 = s.localDev ∧ 0x24 ≠ 0x20) := fun h' => hsrc h'.2.1
  have hunseen : ¬(mget (fun _ => []) s.rb.seen (seenKey h)).contains (h.getD 2 0).toNat = true := fun h' =>
    hnew (List.contains_iff_mem.1 h')
  have hmine : ¬((0 == 1 || 0 == 3 || (0 == 0 && (h.getD 1 0).get 21 12 == s.localDev)
      || (0 == 2 && s.zones.any (fun z => s.rd TM_ZONE_ZID z == (h.getD 3 0).get 15 0)))
      && !(s.var == .cpx9616 && decide (64 ≤ (h.getD 1 0).get 31 22))) = true := by
    rw [beq_eq_false_iff_ne.2 hdst]
    exact Bool.false_ne_true
  have hgoes : ¬(0 = 3 ∨ (0 = 0 ∧ (h.getD 1 0).get 21 12 = s.localDev) ∨ (h.getD 1 0).get 9 0 = 0) := by
    rintro (h' | h' | h')
    · exact absurd h' (by decide)
    · exact hdst h'.2
    · exact hhops h'
  have hempty : ¬ports.isEmpty = true := fun h' => hsome (List.isEmpty_iff.1 h')
  unfold State.frameAccepted
  dsimp only
  rw [htype, hcls, hdmode, hdevice, if_neg (fun h' => absurd h'.1 (by decide)), if_neg hown]
  refine (if_neg hunseen).trans ?_
  rw [if_neg hmine, if_neg hgoes]
  show (if ((s.seenNoted h).forwardPorts p 0 ((h.getD 1 0).get 21 12) ((h.getD 3 0).get 15 0)).isEmpty = true then _ else
    (s.seenNoted h).sentOn (forwarded h ws) ((s.seenNoted h).forwardPorts p 0 ((h.getD 1 0).get 21 12) ((h.getD 3 0).get 15 0))) = _
  rw [hports, if_neg hempty]

/-- States whose ports, segments and settings agree forward alike. -/
structure State.LinksAs (s t : State) : Prop where
  var : t.var = s.var
  rd : ∀ f j, t.rd f j = s.rd f j
  step : ∀ q, (t.port q).step = (s.port q).step
  seg : t.rb.seg = s.rb.seg
  zids : t.rb.zids = s.rb.zids

theorem State.LinksAs.portsUp {t : State} (h : s.LinksAs t) : t.portsUp = s.portsUp := by
  have hn : t.nPort = s.nPort := by
    unfold State.nPort State.byVar
    rw [h.var]
  have hused : ∀ q, t.portUsed q = s.portUsed q := fun q => by
    unfold State.portUsed State.flag
    rw [h.rd, h.rd, hn]
  unfold State.portsUp
  rw [hn]
  simp only [hused, h.step]

theorem State.LinksAs.forwardPorts {t : State} (h : s.LinksAs t) (p dmode dst group : Nat) :
    t.forwardPorts p dmode dst group = s.forwardPorts p dmode dst group := by
  have hof : ∀ seg, t.portsOf seg = s.portsOf seg := fun seg => by
    unfold State.portsOf
    rw [h.portsUp]
    simp only [h.rd]
  unfold State.forwardPorts
  simp only [hof, h.portsUp, h.rd, h.seg, h.zids]

/-- What is forwarded of a frame that port `p` took while it read. -/
theorem State.Reading.forwards {p cls : Nat} {y : State} {prev : Nat → BitVec 64} {f h ws e : List W32} (hy : s.Reading p y [] prev)
    (hnone : (s.port p).frames = []) (hf : FrameFits f h ws e) (hcrc : (e.getD 2 0).toNat = crc32c (h ++ ws ++ e.take 2))
    (hstep : 7 ≤ (s.port p).step) (hepoch : (e.getD 3 0).get 7 0 = s.rd RB_PORT_KEPOCH p)
    (hlctr : (s.port p).lctrRx ≤ (e.getD 0 0).toNat + (e.getD 1 0).toNat * 2 ^ 32) (hother : ForOther s h) (hcls : cls = 2)
    (hnew : (h.getD 2 0).toNat ∉ mget (fun _ => []) s.rb.seen (seenKey h))
    (hports : s.forwardPorts p 0 ((h.getD 1 0).get 21 12) ((h.getD 3 0).get 15 0) ≠ []) :
    (h.getD 2 0).toNat ∈ mget (fun _ => []) (y.frameTaken p cls f true).rb.seen (seenKey h) ∧
      (y.frameTaken p cls f true).rb.fwd = ⟨forwarded h ws, s.forwardPorts p 0 ((h.getD 1 0).get 21 12) ((h.getD 3 0).get 15 0),
        s.rb.fwd.count + 1⟩ := by
  have hport : y.port p = s.port p := by rw [hy.here, ← hnone]
  let taken : State := y.setPort p { y.port p with lctrRx := (e.getD 0 0).toNat + (e.getD 1 0).toNat * 2 ^ 32 + 1 }
  have hsame : taken.rb.seen = s.rb.seen ∧ taken.rb.fwd = s.rb.fwd ∧ taken.rb.seg = s.rb.seg ∧ taken.rb.zids = s.rb.zids ∧
      taken.var = s.var ∧ ∀ g j, taken.rd g j = s.rd g j := by
    obtain ⟨last, bad, port, rfl⟩ := hy.same
    exact ⟨rfl, rfl, rfl, rfl, rfl, fun _ _ => rfl⟩
  obtain ⟨hseen, hfwd, hseg, hzids, hvar, hrd⟩ := hsame
  have hlinks : s.LinksAs (taken.seenNoted h) := by
    refine ⟨hvar, hrd, fun q => ?_, hseg, hzids⟩
    show (taken.port q).step = _
    by_cases hq : q = p
    · subst hq
      rw [show taken.port q = _ from mget_mset_same q _ _ hy.ports, hport]
    · rw [show taken.port q = y.port q from mget_mset_ne _ hq _ hy.ports, hy.others q hq]
  have hdev : taken.localDev = s.localDev := hrd _ _
  have hother' : ForOther taken h := ⟨hother.type, hother.cls, hother.dmode, hdev ▸ hother.dst, hdev ▸ hother.src, hother.hops, hother.device⟩
  have hgo : y.frameTaken p cls f true = taken.frameAccepted p h ws := by
    rw [State.frameTaken_keyed hf hcrc (hport ▸ hstep), hy.rd, hepoch, bne_self_eq_false, Bool.not_true, Bool.or_false,
      if_neg Bool.false_ne_true, if_neg (by rw [hport]; omega), hother.type,
      hother.cls, hother.dmode, hcls]
    rfl
  have haccepted := State.frameAccepted_other (ws := ws) hother' (hseen ▸ hnew) (hlinks.forwardPorts p 0 _ _) hports
  rw [hgo, haccepted]
  obtain ⟨hseen', hfwd', -⟩ := State.sendCounted_foldl (s.forwardPorts p 0 ((h.getD 1 0).get 21 12) ((h.getD 3 0).get 15 0))
    { taken.seenNoted h with rb := { (taken.seenNoted h).rb with
      fwd := ⟨forwarded h ws, s.forwardPorts p 0 ((h.getD 1 0).get 21 12) ((h.getD 3 0).get 15 0), (taken.seenNoted h).rb.fwd.count + 1⟩ } }
  unfold State.sentOn
  rw [hseen', hfwd']
  refine ⟨?_, ?_⟩
  · have hget : mget (fun _ => []) (taken.seenNoted h).rb.seen (seenKey h) =
        ((h.getD 2 0).toNat :: mget (fun _ => []) taken.rb.seen (seenKey h)).take 1024 :=
      mget_mset_of_ne (d := fun _ => []) (by simp) _
    show (h.getD 2 0).toNat ∈ mget (fun _ => []) (taken.seenNoted h).rb.seen (seenKey h)
    rw [hget]
    exact List.mem_cons_self
  · show (⟨forwarded h ws, _, taken.rb.fwd.count + 1⟩ : FrameOut) = _
    rw [hfwd]

/-! Devices (R476, R477). -/

/-- This device's TOPO frame of a millisecond. -/
def State.topoCounted (s : State) : State := { s with rb := { s.rb with topoAt := s.tai / 1000000 + 1, topoMode := s.mo.mode.code } }

theorem exec_topoSend_sends (hon : s.lanesOn = true) (hat : s.rb.topoAt ≠ s.tai / 1000000 + 1) (hgrid : s.gridOk 1000000 = true) :
    exec .topoSend s = .next s.topoCounted.sendTopo := by
  show execTopoSend s = _
  exact if_neg (by simp [hon, hat, hgrid])

/-- The last frame of a class, after one was sent. -/
theorem State.rbSend_sent (hen : s.flag RB_CFG_EN 0 = true) (hmap : mapOk (fun _ => FrameOut.init) s.rb.sent = true)
    (cls type dmode dst stn group w : Nat) (payload ports : List Nat) :
    (s.rbSend cls type dmode dst stn group (w :: payload) ports).rb.topoAt = s.rb.topoAt ∧
      (mget (fun _ => FrameOut.init) (s.rbSend cls type dmode dst stn group (w :: payload) ports).rb.sent cls).ports = ports ∧
      (mget (fun _ => FrameOut.init) (s.rbSend cls type dmode dst stn group (w :: payload) ports).rb.sent cls).words.getD 4 0 = w := by
  unfold State.rbSend
  rw [if_pos hen]
  extract_lets pay seq words was rbOld s1
  obtain ⟨-, -, hsent⟩ := State.sendCounted_foldl ports s1
  have htopo : ∀ (l : List Nat) (x : State),
      (l.foldl (fun s p => s.setPort p { s.port p with lctrTx := (s.port p).lctrTx + 1 }) x).rb.topoAt = x.rb.topoAt := by
    intro l
    induction l with
    | nil => exact fun _ => rfl
    | cons p l ih => exact fun x => ih (x.setPort p { x.port p with lctrTx := (x.port p).lctrTx + 1 })
  have hget : mget (fun _ => FrameOut.init) s1.rb.sent cls = ⟨words, ports, was.count + 1⟩ := mget_mset_same cls _ _ hmap
  have hfirst : words.getD 4 0 = w := by
    unfold words pay
    split <;> rfl
  rw [hsent, hget]
  exact ⟨htopo ports s1, rfl, hfirst⟩

/-- A device of which no TOPO frame came is lost: its windows and its segment are forgotten. -/
def State.forgotten (s : State) (dev : Nat) : State :=
  let s1 := s.clearWindows dev 0 0
  { s1 with rb := { s1.rb with seg := mset (fun _ => 0) dev 0 s1.rb.seg } }

theorem exec_deviceUnreachable_late {d : Nat} (hon : s.lanesOn = true) (hknown : (s.dev d).topoAt ≠ 0) (hlost : (s.dev d).lost = false)
    (hlate : (s.dev d).topoAt + 2399999 ≤ s.elapsed) :
    exec (.deviceUnreachable d) s = .next (if (s.dev d).mode = 5 then s.forgotten d
      else ((((s.forgotten d).setDev d { s.dev d with lost := true }).notify 0x41 3 2 d 0 0 0).rxOf d).mirrorsLost d) := by
  have hlate' : (s.dev d).topoAt + 2400000 ≤ s.elapsed + 1 := by omega
  show execDeviceUnreachable d s = _
  refine (if_pos (by simp [hon, hknown, hlost, hlate'])).trans ?_
  by_cases hmode : (s.dev d).mode = 5
  · exact (if_pos hmode).trans (congrArg _ (if_pos hmode).symm)
  · exact (if_neg hmode).trans (congrArg _ (if_neg hmode).symm)

/-- What trips and mirrors make of the loss leaves the device lost. -/
theorem State.deviceLost_effect (hi : s.Inv) (d : Nat) (x : DevSt) :
    let t := (((s.setDev d { x with lost := true }).notify 0x41 3 2 d 0 0 0).rxOf d).mirrorsLost d
    (t.dev d).lost = true ∧ ⟨0x4103, 2⟩ ∈ t.ec.arrivals := by
  have hset : (s.setDev d { x with lost := true }).Inv := hi
  have hget : (s.setDev d { x with lost := true }).dev d = { x with lost := true } :=
    mget_mset_of_ne (d := fun _ => DevSt.init) (fun h => Bool.noConfusion (congrArg DevSt.lost h)) _
  have htold := State.notify_moves (s := s.setDev d { x with lost := true }) (a0 := 0x41) (a1 := 3) (a2 := 2) (a3 := d) (a4 := 0) (a5 := 0)
    (a6 := 0)
  have harrived : ⟨0x4103, 2⟩ ∈ ((s.setDev d { x with lost := true }).notify 0x41 3 2 d 0 0 0).ec.arrivals :=
    State.notify_mem_arrivals hset (by decide) _ _ _ _
  have hdev : ((s.setDev d { x with lost := true }).notify 0x41 3 2 d 0 0 0).dev d = { x with lost := true } := by
    rw [State.dev, ← htold.keep hset .tm rfl]
    exact hget
  have h1 := htold.inv hset
  generalize (s.setDev d { x with lost := true }).notify 0x41 3 2 d 0 0 0 = y at harrived hdev h1
  have hrx := State.rxOf_moves (s := y) (a0 := d)
  have hmir := State.mirrorsLost_moves (s := y.rxOf d) (a0 := d)
  have h2 := hrx.inv h1
  intro t
  refine ⟨?_, (hmir.keep h2 .errors rfl).subset ((hrx.keep h1 .errors rfl).subset harrived)⟩
  have hkeep : (y.rxOf d |>.mirrorsLost d).tm = y.tm := (hmir.keep h2 .tm rfl).symm.trans (hrx.keep h1 .tm rfl).symm
  show (mget (fun _ => DevSt.init) (y.rxOf d |>.mirrorsLost d).tm.devs d).lost = true
  rw [hkeep]
  exact congrArg DevSt.lost hdev

end

end Sys2Proof.Machine
end

