-- ==== Sys2Proof/Proofs/Stations.lean ====
section
/-! Remote stations (R487 to R492), Ethernet lanes (R493, R494) and GOOSE (R495). -/

namespace Sys2Proof.Machine

open Sys2Proof

section
variable {s : State}

/-! What a station's cycle writes. -/

/-- What leaves the arrivals leaves an error raised. -/
theorem Moves.raised {m : Nat} {s t : State} (h : Moves m s t) (hi : s.Inv) (hb : m.testBit Part.errors.bit = false) {e : ErrRec}
    (he : e ∈ s.ec.arrivals) : e ∈ t.ec.arrivals := (h.keep hi .errors hb).subset he

/-- To settle a command in flight, after what left the commands in flight, decides it. -/
theorem State.settle_outcome {t : State} {c : Cmd} (hsame : t.mb.inflight = s.mb.inflight) (hf : s.findCmd c.ring c.order = some c)
    (hu : c.undecided = true) (st : Status) (r0 r1 : Nat) (time : Option Stamp) :
    (t.settle (some c.ref) st r0 r1 time).Outcome c st r0 r1 0 0 time := by
  have hfound : t.findCmd c.ring c.order = some c := (congrArg _ hsame).trans hf
  have hc : c ∈ t.mb.inflight := List.mem_of_find?_eq_some hfound
  rw [State.settle_eq hfound hu]
  exact State.setPhase_mem hc hu _

/-- A station in Substitute, the drop counted. -/
def State.stnDown (s : State) (n : Nat) : State :=
  ((s.wr RB_STNST_STATE n 2).wrapInc RB_STNST_DROPS n 1).setStn n { s.stn n with run := 0 }

theorem State.setStn_rd (y : State) (n : Nat) (x : StnSt) (f : Field) (j : Nat) : (y.setStn n x).rd f j = y.rd f j := rfl

theorem State.setStn_inv {y : State} (hi : y.Inv) (n : Nat) (x : StnSt) : (y.setStn n x).Inv := hi

theorem State.clearWindows_rd (y : State) (src fstn stn : Nat) (f : Field) (j : Nat) : (y.clearWindows src fstn stn).rd f j = y.rd f j := rfl

theorem State.clearWindows_ec (y : State) (src fstn stn : Nat) : (y.clearWindows src fstn stn).ec = y.ec := rfl

theorem State.stnDown_effect (hi : s.Inv) (n : Nat) : (s.stnDown n).Inv ∧ (s.stnDown n).rd RB_STNST_STATE n = 2 ∧
    (s.stnDown n).rd RB_STNST_DROPS n = (s.rd RB_STNST_DROPS n + 1) % 2 ^ (RB_STNST_DROPS.hi + 1 - RB_STNST_DROPS.lo) := by
  have hstate : (s.wr RB_STNST_STATE n 2).Inv := State.wr_inv hi _ _ _
  have hwas : (s.wr RB_STNST_STATE n 2).rd RB_STNST_DROPS n = s.rd RB_STNST_DROPS n := State.rdk_wrk_beside hi (by decide) n n _
  have hinv : ((s.wr RB_STNST_STATE n 2).wrapInc RB_STNST_DROPS n 1).Inv := State.wr_inv hstate _ _ _
  have hlost : ((s.wr RB_STNST_STATE n 2).wrapInc RB_STNST_DROPS n 1).rd RB_STNST_STATE n = 2 :=
    (State.rdk_wrk_beside hstate (by decide) n n _).trans (State.rd_wr_same hi rfl n 2)
  have hcount : ((s.wr RB_STNST_STATE n 2).wrapInc RB_STNST_DROPS n 1).rd RB_STNST_DROPS n = _ := State.rd_wr_same hstate rfl n _
  rw [hwas] at hcount
  exact ⟨State.setStn_inv hinv _ _, (State.setStn_rd _ _ _ _ _).trans hlost, (State.setStn_rd _ _ _ _ _).trans hcount⟩

/-- What logic, loops and points make of the drop. -/
def State.stnGone (y : State) (n cause : Nat) : State := (y.notify 0x41 5 1 n cause 0 0).stnLost n

theorem State.stnDrop_eq (n cause : Nat) : s.stnDrop n cause =
    ((((s.stnDown n).stnGone n cause).leStationLost n).stationPoints n (((s.stnDown n).stnGone n cause).stn n).inp false).clearWindows
      ((s.stnDown n).stnGone n cause).localDev 1 n := rfl

theorem State.stnGone_effect {y : State} (hi : y.Inv) (n cause : Nat) (bytes : List Nat) :
    (∀ f : Field, f.unit = 0x41 → ∀ j, (((y.stnGone n cause).leStationLost n).stationPoints n bytes false).rd f j = y.rd f j) ∧
      ⟨0x4105, 1⟩ ∈ (((y.stnGone n cause).leStationLost n).stationPoints n bytes false).ec.arrivals := by
  have htold := State.notify_moves (s := y) (a0 := 0x41) (a1 := 5) (a2 := 1) (a3 := n) (a4 := cause) (a5 := 0) (a6 := 0)
  have harrived : ⟨0x4105, 1⟩ ∈ (y.notify 0x41 5 1 n cause 0 0).ec.arrivals := State.notify_mem_arrivals hi (by decide) _ _ _ _
  have h1 := htold.inv hi
  have hgone : Moves _ (y.notify 0x41 5 1 n cause 0 0) (y.stnGone n cause) := State.stnLost_moves
  have h2 := hgone.inv h1
  have hloops := State.leStationLost_moves (s := y.stnGone n cause) (a0 := n)
  have h3 := hloops.inv h2
  have hpts := State.stationPoints_moves (s := (y.stnGone n cause).leStationLost n) (a0 := n) (a1 := bytes) (a2 := false)
  have hsame : ∀ f : Field, f.unit = 0x41 → ∀ j, (((y.stnGone n cause).leStationLost n).stationPoints n bytes false).rd f j = y.rd f j :=
      fun f hf j => by
    have hmask : ∀ m : Nat, m.testBit (Part.regs 0x41).bit = false → m.testBit (Part.regs f.unit).bit = false := fun m hm => by rwa [hf]
    rw [hpts.rd h3 (hmask _ rfl), hloops.rd h2 (hmask _ rfl), hgone.rd h1 (hmask _ rfl), htold.rd hi (hmask _ rfl)]
  exact ⟨hsame, hpts.raised h3 rfl (hloops.raised h2 rfl (hgone.raised h1 rfl harrived))⟩

/-- A Live station that drops out. -/
theorem State.stnDrop_effect (hi : s.Inv) (n cause : Nat) :
    (s.stnDrop n cause).rd RB_STNST_STATE n = 2 ∧
      (s.stnDrop n cause).rd RB_STNST_DROPS n = (s.rd RB_STNST_DROPS n + 1) % 2 ^ (RB_STNST_DROPS.hi + 1 - RB_STNST_DROPS.lo) ∧
      ⟨0x4105, 1⟩ ∈ (s.stnDrop n cause).ec.arrivals := by
  obtain ⟨hinv, hstate, hdrops⟩ := s.stnDown_effect hi n
  obtain ⟨hrd, harrived⟩ := State.stnGone_effect hinv n cause (((s.stnDown n).stnGone n cause).stn n).inp
  rw [State.stnDrop_eq, State.clearWindows_rd, State.clearWindows_rd, State.clearWindows_ec]
  exact ⟨(hrd _ rfl n).trans hstate, (hrd _ rfl n).trans hdrops, harrived⟩

/-! Cycle boundaries (R488). -/

/-- A station that was idle, at a boundary of its cycle. -/
theorem State.stnBoundary_idle {n : Nat} (hgrid : s.gridOk (s.stnCycle n) = true) (hcur : (s.stn n).cur = 0)
    (hstate : s.rd RB_STNST_STATE n ≠ 3) :
    let t := s.tai / s.stnCycle n * s.stnCycle n
    let y := s.setStn n { s.stn n with cur := t + 1, got := false, judged := false, out := s.stOut n t }
    s.stnBoundary n = y.rbSend 1 0x10 0 y.localDev n 0 (s.stOut n t) (y.portsOf (y.rd RB_STN_SEG n)) := by
  intro t y
  have hmiss : s.stnMiss n = s := if_pos (.inl hcur)
  have hhold : s.stnUnhold n = s := by
    refine if_neg ?_
    rw [beq_eq_false_iff_ne.2 hstate, Bool.and_false, Bool.false_and]
    exact Bool.false_ne_true
  have hdue : ¬((s.stn n).cur = s.tai / s.stnCycle n * s.stnCycle n + 1 ∨ s.gridOk (s.stnCycle n) = false) := by
    rw [hcur, hgrid]
    rintro (h | h)
    · omega
    · exact Bool.noConfusion h
  unfold State.stnBoundary
  dsimp only
  rw [if_neg hdue, hmiss, hhold]

theorem State.sendCounted_stn (l : List Nat) : ∀ s : State,
    (l.foldl (fun s p => s.setPort p { s.port p with lctrTx := (s.port p).lctrTx + 1 }) s).rb.stn = s.rb.stn := by
  induction l with
  | nil => exact fun _ => rfl
  | cons p l ih => exact fun s => ih (s.setPort p { s.port p with lctrTx := (s.port p).lctrTx + 1 })

theorem State.rbSend_stn (s : State) (cls type dmode dst stn group : Nat) (payload ports : List Nat) (n : Nat) :
    (s.rbSend cls type dmode dst stn group payload ports).stn n = s.stn n := by
  unfold State.rbSend
  split
  · extract_lets pay seq words was rbOld s1
    have hstn : _ = s1.rb.stn := State.sendCounted_stn ports s1
    unfold State.stn
    rw [hstn]
  · rfl

theorem State.stnBoundary_sends {n : Nat} (hgrid : s.gridOk (s.stnCycle n) = true) (hcur : (s.stn n).cur = 0)
    (hstate : s.rd RB_STNST_STATE n ≠ 3) :
    (s.stnBoundary n).stn n = { s.stn n with
      cur := s.tai / s.stnCycle n * s.stnCycle n + 1, got := false, judged := false
      out := s.stOut n (s.tai / s.stnCycle n * s.stnCycle n) } := by
  rw [State.stnBoundary_idle hgrid hcur hstate, State.rbSend_stn]
  exact mget_mset_of_ne (d := fun _ => StnSt.init) (fun h => Nat.succ_ne_zero _ (congrArg StnSt.cur h)) _

/-! ST_IN (R490, R492). -/

/-- The SST of the frame noted. -/
def State.sstNoted (s : State) (n : Nat) (words : List W32) : State := s.wr RB_STNST_SST n ((words.getD 0 0).get 31 30)

section received
variable {n : Nat} {words : List W32}

theorem exec_stInReceive_takes (hon : s.lanesOn = true) (hn : n < 4096) (hen : s.flag RB_STN_EN n = true) (hlen : 4 ≤ words.length) :
    exec (.stInReceive n words) s = .next (s.stIn n words) := by
  show execStInReceive n words s = _
  exact if_pos (by simp [hon, hn, hen, hlen])

/-- An SST other than running. -/
theorem State.stIn_stopped (hlen : (words.getD 0 0).get 12 0 = s.rd RB_STN_IN_LEN n) (hsst : (words.getD 0 0).get 31 30 ≠ 0)
    (hlive : (s.sstNoted n words).rd RB_STNST_STATE n = 1) : s.stIn n words = (s.sstNoted n words).stnDrop n 2 :=
  (if_neg (not_not_intro hlen)).trans ((if_pos hsst).trans (if_pos hlive))

/-- The input bytes of the frame. -/
def State.stBytes (s : State) (n : Nat) (words : List W32) : List Nat := (wordsToBytes (words.drop 4)).take (s.rd RB_STN_IN_LEN n)

/-- A running station, in its cycle: Live, its bytes are its inputs. -/
def State.stTaken (s : State) (n : Nat) (words : List W32) : State :=
  let y := (s.sstNoted n words).setStn n { s.stn n with got := true, run := 0, seen := true }
  y.setStn n { y.stn n with inp := s.stBytes n words }

/-- The boundary that a frame names. -/
def State.stCycleOf (s : State) (words : List W32) : Nat :=
  s.nearSecond (words.getD 2 0).toNat * 1000000000 + (words.getD 3 0).get 29 0

theorem State.stIn_live (hi : s.Inv) (hlen : (words.getD 0 0).get 12 0 = s.rd RB_STN_IN_LEN n) (hsst : (words.getD 0 0).get 31 30 = 0)
    (hcur : (s.stn n).cur = s.stCycleOf words + 1) (hlive : s.rd RB_STNST_STATE n = 1) :
    s.stIn n words = (s.stTaken n words).stationPoints n (s.stBytes n words) true := by
  have hrd : (s.sstNoted n words).rd RB_STNST_STATE n = 1 := (State.rdk_wrk_beside hi (by decide) n n _).trans hlive
  exact (if_neg (not_not_intro hlen)).trans ((if_neg (not_not_intro hsst)).trans ((if_neg (not_not_intro hcur)).trans (if_pos hrd)))

/-- A station that is enabled and was not Live becomes Live, and its STATION_ENABLE completes. -/
def State.stEnabled (s : State) (n : Nat) (words : List W32) : State :=
  (((s.stTaken n words).stnLive n).stationPoints n (s.stBytes n words) true).notify 0x41 6 0 n 0 0 0

theorem State.stIn_enables (hi : s.Inv) (hlen : (words.getD 0 0).get 12 0 = s.rd RB_STN_IN_LEN n)
    (hsst : (words.getD 0 0).get 31 30 = 0) (hcur : (s.stn n).cur = s.stCycleOf words + 1) (hstate : s.rd RB_STNST_STATE n = 2)
    {e : StnEnable} (henable : (s.stn n).enable = some e) (hstart : e.start ≤ s.stCycleOf words) :
    s.stIn n words = (s.stEnabled n words).settle (some e.cmd) .ok 0 0 (some ((s.stTaken n words).stnLive n).now) := by
  have hrd : ¬(s.sstNoted n words).rd RB_STNST_STATE n = 1 := by
    rw [show (s.sstNoted n words).rd RB_STNST_STATE n = 2 from (State.rdk_wrk_beside hi (by decide) n n _).trans hstate]
    decide
  refine (if_neg (not_not_intro hlen)).trans ?_
  refine (if_neg (not_not_intro hsst)).trans ?_
  refine (if_neg (not_not_intro hcur)).trans ?_
  refine (if_neg hrd).trans ?_
  split
  · next e' he' =>
    obtain rfl : e' = e := Option.some.inj (he'.symm.trans henable)
    exact if_pos hstart
  · next hnone => exact absurd (hnone.symm.trans henable) (Option.some_ne_none e).symm

theorem State.stTaken_stn : (s.stTaken n words).stn n =
    { s.stn n with got := true, run := 0, seen := true, inp := s.stBytes n words } := by
  have hgot : ∀ y : StnSt, y.got = true → y ≠ StnSt.init := fun y hy h => by
    rw [h] at hy
    exact Bool.noConfusion hy
  have hin : ((s.sstNoted n words).setStn n { s.stn n with got := true, run := 0, seen := true }).stn n =
      { s.stn n with got := true, run := 0, seen := true } := mget_mset_of_ne (d := fun _ => StnSt.init) (hgot _ rfl) _
  unfold State.stTaken
  dsimp only
  rw [hin]
  exact mget_mset_of_ne (d := fun _ => StnSt.init) (hgot _ rfl) _

theorem State.stTaken_inv (hi : s.Inv) : (s.stTaken n words).Inv := State.wr_inv hi RB_STNST_SST n _

theorem State.stEnabled_effect (hi : s.Inv) :
    (s.stEnabled n words).Inv ∧ (s.stEnabled n words).rd RB_STNST_STATE n = 1 ∧ (s.stEnabled n words).mb.inflight = s.mb.inflight ∧
      ((s.stTaken n words).stnLive n).now = s.now := by
  have h0 := State.stTaken_inv (n := n) (words := words) hi
  have hsame : (s.stTaken n words).mb = s.mb ∧ (s.stTaken n words).tu = s.tu := ⟨rfl, rfl⟩
  obtain ⟨hmb, htu⟩ := hsame
  unfold State.stEnabled
  generalize s.stTaken n words = y at h0 hmb htu
  have hlive := State.stnLive_moves (s := y) (a0 := n)
  have h1 := hlive.inv h0
  have hpts := State.stationPoints_moves (s := y.stnLive n) (a0 := n) (a1 := s.stBytes n words) (a2 := true)
  have h2 := hpts.inv h1
  have htold := State.notify_moves (s := (y.stnLive n).stationPoints n (s.stBytes n words) true) (a0 := 0x41) (a1 := 6) (a2 := 0)
    (a3 := n) (a4 := 0) (a5 := 0) (a6 := 0)
  have hset : (y.stnLive n).rd RB_STNST_STATE n = 1 := by
    have hwr : (y.wr RB_STNST_STATE n 1).Inv := State.wr_inv h0 _ _ _
    have hput : ∀ x : StnSt, ((y.wr RB_STNST_STATE n 1).setStn n x).Inv := fun _ => hwr
    exact (State.stnBack_moves.rd (hput _) rfl n).trans (State.rd_wr_same h0 rfl n 1)
  refine ⟨htold.inv h2, ?_, ?_, ?_⟩
  · rw [htold.rd h2 rfl, hpts.rd h1 rfl, hset]
  · rw [← htold.keep h2 .phases rfl, ← hpts.keep h1 .phases rfl, ← hlive.keep h0 .phases rfl, hmb]
  · exact (congrArg (fun tu => (State.now { y with tu := tu })) (hlive.keep h0 .tu rfl)).symm.trans
      (congrArg (fun tu => (State.now { y with tu := tu })) htu)

end received

/-! Misses (R490). -/

/-- The miss counted. -/
def State.stnMissed (s : State) (n : Nat) : State :=
  (s.setStn n { s.stn n with judged := true, run := (s.stn n).run + 1 }).bump RB_STNST_MISSES n 1

theorem exec_stationMiss_judged {n : Nat} (hon : s.lanesOn = true) (hen : s.flag RB_STN_EN n = true)
    (hlive : s.rd RB_STNST_STATE n = 1) (hcur : (s.stn n).cur ≠ 0) (hgot : (s.stn n).got = false) (hjudged : (s.stn n).judged = false)
    (hover : (s.stn n).cur + s.stnCycle n ≤ s.tai + 1) :
    exec (.stationMiss n) s =
      .next (if s.rd RB_STN_MISS n ≤ (s.stn n).run + 1 then (s.stnMissed n).stnDrop n 1 else s.stnMissed n) := by
  have hdue : ¬((s.stn n).cur = 0 ∨ (s.stn n).got = true ∨ (s.stn n).judged = true ∨ s.tai + 1 < (s.stn n).cur + s.stnCycle n) := by
    rw [hgot, hjudged]
    rintro (h | h | h | h)
    · exact hcur h
    · exact Bool.noConfusion h
    · exact Bool.noConfusion h
    · omega
  have hmiss : s.stnMiss n = if s.rd RB_STN_MISS n ≤ (s.stn n).run + 1 then (s.stnMissed n).stnDrop n 1 else s.stnMissed n :=
    (if_neg hdue).trans (if_pos hlive)
  show execStationMiss n s = _
  exact (if_pos (by simp [hon, hen])).trans (congrArg _ hmiss)

/-- What the miss itself writes. -/
theorem State.stnMissed_effect (hi : s.Inv) (n : Nat) : (s.stnMissed n).Inv ∧
    (s.stnMissed n).stn n = { s.stn n with judged := true, run := (s.stn n).run + 1 } ∧
      (s.stnMissed n).rd RB_STNST_STATE n = s.rd RB_STNST_STATE n ∧
      (s.stnMissed n).rd RB_STNST_MISSES n = satAdd 65535 (s.rd RB_STNST_MISSES n) 1 := by
  have hset : ∀ x, (s.setStn n x).Inv := fun _ => hi
  refine ⟨State.wr_inv (hset _) _ _ _, ?_, State.rdk_wrk_beside (hset _) (by decide) n n _, State.rd_bump_same (hset _) rfl n 1⟩
  exact mget_mset_of_ne (d := fun _ => StnSt.init) (fun h => Bool.noConfusion (congrArg StnSt.judged h)) _

/-! STATION_ENABLE (R492). -/

theorem exec_stationEnableTimeout_late {n : Nat} {e : StnEnable} (henable : (s.stn n).enable = some e) (hlate : e.deadline ≤ s.elapsed) :
    exec (.stationEnableTimeout n) s =
      .next ((s.setStn n { s.stn n with enable := none }).settle (some e.cmd) .noMatch 0 0 none) := by
  show execStationEnableTimeout n s = _
  unfold execStationEnableTimeout
  rw [henable]
  exact if_pos (decide_eq_true hlate)

theorem State.settle_rb (s : State) (at_ : Option (Nat × Nat)) (st : Status) (r0 r1 : Nat) (t : Option Stamp) :
    (s.settle at_ st r0 r1 t).rb = s.rb := by
  unfold State.settle
  split
  · rfl
  · split
    · split <;> rfl
    · rfl

/-- A STATION_ENABLE that waits for its station. -/
def State.enableAwaited (s : State) (c : Cmd) : State :=
  let n := objInst c.objid
  let cy := s.stnCycle n
  (s.start c).setStn n { s.stn n with
    enable := some ⟨c.ref, s.tai / cy * cy + cy, s.elapsed + max (100 * cy * 4 / 5) 80000000⟩ }

theorem exec_stationEnable_goes {ring idx : Nat} {c : Cmd} (hr : s.Ready ring idx c) (hp : c.Plain opStationEnable 0)
    (hunit : objUnit c.objid = 0x41) (hgrp : objGrp c.objid = 3) (hn : objInst c.objid < 4096)
    (hen : s.flag RB_STN_EN (objInst c.objid) = true) (hm : s.inMode modesTrain = true) :
    exec (.stationEnable ring idx) s =
      .next (if s.rd RB_STNST_STATE (objInst c.objid) = 2 then s.enableAwaited c else s.answer c 0 0 0 0) := by
  have hbuf : c.buf = false := hp.buf
  show execStationEnable ring idx s = _
  refine hr.runCmd hp.isOp ((State.verdict_own hr hp ?_ rfl ?_ (fun h => Bool.noConfusion h) hm).trans rfl)
  · simp [hbuf]
  · simp [hunit, hgrp, hn, hen]

theorem State.enableAwaited_effect {c : Cmd} (hc : c ∈ s.mb.inflight) (hu : c.undecided = true) :
    (s.enableAwaited c).Awaits c ∧ ((s.enableAwaited c).stn (objInst c.objid)).enable = some ⟨c.ref,
      s.tai / s.stnCycle (objInst c.objid) * s.stnCycle (objInst c.objid) + s.stnCycle (objInst c.objid),
      s.elapsed + max (100 * s.stnCycle (objInst c.objid) * 4 / 5) 80000000⟩ := by
  have hset : ∀ x : StnSt, x.enable ≠ none → ((s.start c).setStn (objInst c.objid) x).stn (objInst c.objid) = x := fun x hx =>
    mget_mset_of_ne (d := fun _ => StnSt.init) (fun h => hx (congrArg StnSt.enable h)) _
  exact ⟨State.setPhase_mem hc hu _, congrArg StnSt.enable (hset _ (Option.some_ne_none _))⟩

/-! Ethernet lanes and GOOSE (R493 to R495). -/

/-- A frame on an Ethernet lane in service. -/
structure EthernetFrame (s : State) (lane len : Nat) : Prop where
  used : s.laneUsed lane = true
  proto : s.rd LN_LANE_PROTO lane ≠ 1
  up : s.flag LN_LANE_UP lane = true
  long : 64 ≤ len
  short : len ≤ 1522

section ethernet
variable {lane len type : Nat} {m : Option PtpFrame} (hf : EthernetFrame s lane len)
include hf

theorem EthernetFrame.taken : ¬(!s.laneUsed lane || s.rd LN_LANE_PROTO lane == 1 || !s.flag LN_LANE_UP lane || decide (len < 64)
    || decide (1522 < len)) = true := by
  obtain ⟨hused, hproto, hup, hlong, hshort⟩ := hf
  rw [hused, hup, beq_eq_false_iff_ne.2 hproto, decide_eq_false (Nat.not_lt.2 hlong), decide_eq_false (Nat.not_lt.2 hshort)]
  exact Bool.false_ne_true

theorem exec_ethernetFrameReceive_pause :
    exec (.ethernetFrameReceive lane 0x8808 len m) s = .next { s with rb := { s.rb with pauses := s.rb.pauses + 1 } } :=
  (show execEthernetFrameReceive lane 0x8808 len m s = _ from (if_neg hf.taken).trans (if_pos rfl))

theorem exec_ethernetFrameReceive_captain (hpause : type ≠ 0x8808) (hsv : type ≠ 0x88BA) (hptp : type ≠ 0x88F7) :
    exec (.ethernetFrameReceive lane type len m) s =
      (if s.mo.letClass != 0 || s.mo.mode == .sentinel || decide (4096 ≤ s.rb.capQ) then .next (s.enDrop lane)
      else if s.mo.captain then .next { s with rb := { s.rb with capQ := 0 } }
      else .next { s with rb := { s.rb with capQ := s.rb.capQ + 1 } }) :=
  (show execEthernetFrameReceive lane type len m s = _ from
    (if_neg hf.taken).trans ((if_neg hpause).trans ((if_neg hsv).trans (if_neg hptp))))

end ethernet

/-- The drops of a lane in the last second, this one first. -/
def State.enRecent (s : State) (lane : Nat) : List Nat :=
  (s.elapsed :: mget (fun _ => []) s.rb.enDrops lane).filter (fun t => decide (s.elapsed < t + 800000000))

/-- A frame dropped on a lane. -/
def State.rxDropped (s : State) (lane : Nat) : State :=
  State.bump { s with rb := { s.rb with enDrops := mset (fun _ => []) lane (s.enRecent lane) s.rb.enDrops } } EN_PORT_RX_DROP lane 1

/-- The instant at which EN_DROP is sent. -/
def State.enDropAt (y : State) (lane now : Nat) : State := { y with rb := { y.rb with enAt := mset (fun _ => 0) lane (now + 1) y.rb.enAt } }

theorem State.enDrop_eq (lane : Nat) : s.enDrop lane =
    if mget (fun _ => 0) s.rb.enAt lane = 0 ∨ mget (fun _ => 0) s.rb.enAt lane + 800000000 ≤ s.elapsed + 1 then
      ((s.rxDropped lane).enDropAt lane s.elapsed).notify 0x42 1 1 lane (s.enRecent lane).length 0 0
    else s.rxDropped lane := rfl

theorem State.enDrop_effect (hi : s.Inv) (lane : Nat) : (s.enDrop lane).rb.capQ = s.rb.capQ ∧ (s.enDrop lane).rd EN_PORT_RX_DROP lane =
    satAdd (2 ^ (EN_PORT_RX_DROP.hi + 1 - EN_PORT_RX_DROP.lo) - 1) (s.rd EN_PORT_RX_DROP lane) 1 := by
  have hlist : ∀ l, State.Inv { s with rb := { s.rb with enDrops := l } } := fun _ => hi
  have hcount : (s.rxDropped lane).rd EN_PORT_RX_DROP lane = _ := State.rd_bump_same (hlist _) rfl lane 1
  have h1 : (s.rxDropped lane).Inv := State.wr_inv (hlist _) _ _ _
  have hq : (s.rxDropped lane).rb.capQ = s.rb.capQ := rfl
  rw [State.enDrop_eq]
  generalize s.rxDropped lane = y at hcount h1 hq
  have h2 : (y.enDropAt lane s.elapsed).Inv := h1
  split
  · have htold := State.notify_moves (s := y.enDropAt lane s.elapsed) (a0 := 0x42) (a1 := 1) (a2 := 1) (a3 := lane)
      (a4 := (s.enRecent lane).length) (a5 := 0) (a6 := 0)
    exact ⟨(congrArg RbSt.capQ (htold.keep h2 .rb rfl)).symm.trans hq, (htold.rd h2 rfl lane).trans hcount⟩
  · exact ⟨hq, hcount⟩

theorem exec_goosePublish_goes (hon : s.lanesOn = true) (hen : s.flag EN_GOOSE_EN 0 = true) (hfw : s.firmwareOn = true)
    (hm : s.mo.mode ≠ .sentinel) :
    exec .goosePublish s =
      (if s.rb.goose.sentAt = 0 ∨ s.rb.goose.data ≠ s.gooseData then
        .next { s with rb := { s.rb with goose := ⟨s.gooseData, (s.rb.goose.stNum + 1) % 2 ^ 32, 0,
          min (s.rd EN_GOOSE_T1 0) (s.rd EN_GOOSE_T0 0), s.elapsed + 1, s.mo.mode == .commission, s.rb.goose.count + 1⟩ } }
      else if s.rb.goose.sentAt + s.rb.goose.interval * 800000 ≤ s.elapsed + 1 then
        .next { s with rb := { s.rb with goose := ⟨s.gooseData, s.rb.goose.stNum, (s.rb.goose.sqNum + 1) % 2 ^ 32,
          min (2 * s.rb.goose.interval) (s.rd EN_GOOSE_T0 0), s.elapsed + 1, s.mo.mode == .commission, s.rb.goose.count + 1⟩ } }
      else .next s) := by
  have hgo : ¬(!s.lanesOn || !s.flag EN_GOOSE_EN 0 || !s.firmwareOn || s.mo.mode == .sentinel) = true := by
    rw [hon, hen, hfw, beq_eq_false_iff_ne.2 hm]
    exact Bool.false_ne_true
  exact (show execGoosePublish s = _ from if_neg hgo)

end

end Sys2Proof.Machine
end

