-- ==== Sys2Proof/Proofs/LanesSettled.lean ====
section
/-! O58, assembled: the clauses of `LanesPortsFramesStationsAndEthernetAct`, one group each. -/

namespace Sys2Proof.Machine

open Sys2Proof

section
variable {s : State}

/-- The tables of the lanes in canonical form. -/
theorem State.laneMapsOk_iff : s.laneMapsOk = true ↔ mapOk (fun _ => PortSt.init) s.rb.port = true ∧
    mapOk (fun _ => StnSt.init) s.rb.stn = true ∧ mapOk (fun _ => 0) s.rb.seg = true ∧ mapOk (fun _ => []) s.rb.seen = true ∧
    mapOk (fun _ => FrameOut.init) s.rb.sent = true ∧ mapOk (fun _ => 0) s.rb.lastBlk = true := by
  simp only [State.laneMapsOk, Bool.and_eq_true, and_assoc]

/-! Ports (R464, R467). -/

theorem exec_portDown_effect (hi : s.Inv) (hmap : mapOk (fun _ => PortSt.init) s.rb.port = true) (hon : s.lanesOn = true) {n : Nat}
    (hused : s.portUsed n = true) (hstep : (s.port n).step = 8) (hm : s.mo.mode ≠ .train) :
    ∃ t, exec (.portDown n) s = .next t ∧ (t.port n).step = 0 ∧ ⟨0x4102, 2⟩ ∈ t.ec.arrivals ∧
      ∀ l, l ∈ s.portLanes n → t.flag LN_LANE_UP l = false ∧ t.flag LN_LANE_FAILED l = true := by
  obtain ⟨-, hport, hup, hserved⟩ := State.portDown_effect hi n 0
  obtain ⟨harrived, hfailed⟩ := hserved hstep
  refine ⟨_, exec_portDown_down hon hused, ?_, harrived, fun l hl => ⟨hup l hl, hfailed hm l hl⟩⟩
  rw [State.port, hport]
  exact congrArg PortSt.step (mget_mset_same n _ _ hmap)

theorem exec_trainingStepTimeout_negotiating (hi : s.Inv) (hmap : mapOk (fun _ => PortSt.init) s.rb.port = true)
    (hon : s.lanesOn = true) {n : Nat} (hused : s.portUsed n = true) (hstep : (s.port n).step = 5) (hbad : (s.port n).capBad = false)
    (hlate : (s.port n).stepAt + 800000 < s.elapsed) :
    ∃ t, exec (.trainingStepTimeout true n) s = .next t ∧ (t.port n).step = 0 ∧ (t.port n).retryAt = s.elapsed + 8000000 := by
  obtain ⟨-, hport, -⟩ := State.portDown_effect hi n 8000000
  have hgo := exec_trainingStepTimeout_late hon hused (by omega) (bound := 800000) (by rw [hstep]; rfl) hlate (fun _ => hbad)
    (fun h => absurd (hstep.symm.trans h) (by decide))
  have hnot : ¬(s.port n).step = 6 := by omega
  rw [if_neg hnot] at hgo
  have hget : (s.portDown n 8000000).port n = (s.port n).downAt s.elapsed 8000000 := by
    rw [State.port, hport]
    exact mget_mset_same n _ _ hmap
  exact ⟨_, hgo, congrArg PortSt.step hget, congrArg PortSt.retryAt hget⟩

theorem exec_trainingStepTimeout_keying (hmap : mapOk (fun _ => PortSt.init) s.rb.port = true) (hon : s.lanesOn = true) {n : Nat}
    (hused : s.portUsed n = true) (hstep : (s.port n).step = 6) (hfw : s.firmwareOn = true)
    (hlate : (s.port n).stepAt + 400000000 < s.elapsed) :
    ∃ t, exec (.trainingStepTimeout true n) s = .next t ∧ (t.port n).step = 6 ∧ (t.port n).auth = 0 ∧
      (t.port n).stepAt = s.elapsed + 800000000 := by
  have hgo := exec_trainingStepTimeout_late hon hused (by omega) (bound := 400000000) (by rw [hstep]; rfl) hlate
    (fun h => absurd (hstep.symm.trans h) (by decide)) (fun _ => hfw)
  rw [if_pos hstep] at hgo
  have hget : ∀ x, (s.setPort n x).port n = x := fun x => mget_mset_same n x _ hmap
  refine ⟨_, hgo, ?_, ?_, ?_⟩
  · rw [hget]
    exact hstep
  · rw [hget]
  · rw [hget]

/-! Invalid blocks (R466, R468). -/

section blocks
variable {p k sync : Nat} {x : BitVec 64} (hk : k < 2 ^ s.rd RB_PORT_BOND p)
  (hstep : 3 ≤ s.rd LN_LANE_STEP (s.rd RB_PORT_LANE p + k)) (hsync : syncOk sync = false)
include hk hstep hsync

theorem exec_renbyFrameReceive_invalid (hon : s.lanesOn = true) (hused : s.portUsed p = true) (ok : Bool) :
    exec (.renbyFrameReceive p [⟨k, sync, x⟩] ok) s =
      .next ((s.blockNoted (s.blockLane p k) ⟨k, sync, x⟩).badBlock p (s.blockLane p k) sync) := by
  have hin := State.blockIn_locked (b := ⟨k, sync, x⟩) hk hstep ok
  rw [blockOf_badSync hsync] at hin
  rw [exec_renbyFrameReceive_blocks hon hused]
  exact congrArg _ hin

omit hk hstep in
/-- Invalid headers of a lane among its last 64, this one counted. -/
theorem State.blockNoted_bad (lane : Nat) : mget (fun _ => []) (s.blockNoted lane ⟨k, sync, x⟩).rb.badSync lane =
    (true :: mget (fun _ => []) s.rb.badSync lane).take 64 := by
  have hbad : (!syncOk sync) = true := by rw [hsync]; rfl
  refine (mget_mset_of_ne (d := fun _ => []) ?_ _).trans ?_
  · exact fun h => by simp at h
  · exact congrArg (fun b => (b :: mget (fun _ => []) s.rb.badSync lane).take 64) hbad

end blocks

/-! Frames (R472, R473, R482). -/

section frames
variable {p cls : Nat} {f h ws e : List W32} {bs : List LineBlock}

/-- A frame on the line, received, is a frame taken by a state that read it. -/
theorem exec_renbyFrameReceive_taken (hmaps : s.laneMapsOk = true) (hon : s.lanesOn = true) (hused : s.portUsed p = true)
    (hstep : 5 ≤ (s.port p).step) (hcls : cls < 3) (hreads : s.PortReads p) (hline : s.OnLine p cls f bs) (heven : f.length % 2 = 0)
    (ok : Bool) :
    ∃ y prev, s.Reading p y [] prev ∧ exec (.renbyFrameReceive p bs ok) s = .next (y.frameTaken p cls f ok) := by
  obtain ⟨hport, -, -, -, -, hlast⟩ := State.laneMapsOk_iff.1 hmaps
  obtain ⟨hlocked, hnone⟩ := hreads
  obtain ⟨y, prev, hy, htaken⟩ := State.frame_taken hport hlast ⟨hlocked, hstep⟩ hnone hcls heven hline ok
  exact ⟨y, prev, hy, (exec_renbyFrameReceive_blocks hon hused bs ok).trans (congrArg _ htaken)⟩

theorem State.Reading.inv {y : State} {prev : Nat → BitVec 64} (hi : s.Inv) (hy : s.Reading p y [] prev) : y.Inv := by
  obtain ⟨last, bad, port, rfl⟩ := hy.same
  exact hi

theorem State.Reading.port_eq {y : State} {prev : Nat → BitVec 64} (hnone : (s.port p).frames = []) (hy : s.Reading p y [] prev) :
    y.port p = s.port p := by rw [hy.here, ← hnone]

/-- A frame whose tag fails, or whose counter is behind. -/
theorem State.Reading.keyed {y : State} {prev : Nat → BitVec 64} (hi : s.Inv) (hy : s.Reading p y [] prev)
    (hnone : (s.port p).frames = []) (hf : FrameFits f h ws e) (hcrc : (e.getD 2 0).toNat = crc32c (h ++ ws ++ e.take 2))
    (hstep : 7 ≤ (s.port p).step) :
    (y.frameTaken p cls f false).rd RB_PORT_AUTH_ERR p = satAdd 65535 (s.rd RB_PORT_AUTH_ERR p) 1 ∧
      ((e.getD 3 0).get 7 0 = s.rd RB_PORT_KEPOCH p → (e.getD 0 0).toNat + (e.getD 1 0).toNat * 2 ^ 32 < (s.port p).lctrRx →
        (y.frameTaken p cls f true).rd RB_PORT_REPLAY p = satAdd 65535 (s.rd RB_PORT_REPLAY p) 1) := by
  have hport := hy.port_eq hnone
  have hyi := hy.inv hi
  refine ⟨?_, fun hepoch hbehind => ?_⟩
  · rw [State.frameTaken_keyed hf hcrc (hport ▸ hstep), if_pos (by rw [Bool.not_false, Bool.or_true]), State.authDrop_counts hyi p rfl rfl, hy.rd]
    rfl
  · rw [State.frameTaken_keyed hf hcrc (hport ▸ hstep), hy.rd, hepoch, bne_self_eq_false, Bool.not_true, Bool.or_false,
      if_neg Bool.false_ne_true, if_pos (by rw [hport]; exact hbehind), State.authDrop_counts hyi p rfl rfl, hy.rd]
    rfl

end frames

/-! Stations (R488, R490, R492). -/

section stations
variable {n : Nat}

theorem exec_stationCycleBoundary_one (hon : s.lanesOn = true) (hall : s.stations = [n]) (hgrid : s.gridOk (s.stnCycle n) = true)
    (hcur : (s.stn n).cur = 0) (hstate : s.rd RB_STNST_STATE n ≠ 3) :
    ∃ t, exec .stationCycleBoundary s = .next t ∧ (t.stn n).cur = s.tai / s.stnCycle n * s.stnCycle n + 1 ∧
      (t.stn n).got = false ∧ (t.stn n).out = s.stOut n (s.tai / s.stnCycle n * s.stnCycle n) := by
  have hgo : exec .stationCycleBoundary s = .next (s.stnBoundary n) := by
    show execStationCycleBoundary s = _
    unfold execStationCycleBoundary
    rw [if_pos hon, hall]
    rfl
  have hsends := State.stnBoundary_sends hgrid hcur hstate
  exact ⟨_, hgo, congrArg StnSt.cur hsends, congrArg StnSt.got hsends, congrArg StnSt.out hsends⟩

section received
variable {words : List W32} (hi : s.Inv) (hon : s.lanesOn = true) (hn : n < 4096) (hen : s.flag RB_STN_EN n = true)
  (hlong : 4 ≤ words.length) (hlen : (words.getD 0 0).get 12 0 = s.rd RB_STN_IN_LEN n)
include hi hon hn hen hlong hlen

theorem exec_stInReceive_stopped (hsst : (words.getD 0 0).get 31 30 ≠ 0) (hlive : s.rd RB_STNST_STATE n = 1) :
    ∃ t, exec (.stInReceive n words) s = .next t ∧ t.rd RB_STNST_STATE n = 2 ∧
      t.rd RB_STNST_DROPS n = (s.rd RB_STNST_DROPS n + 1) % 2 ^ 32 ∧ ⟨0x4105, 1⟩ ∈ t.ec.arrivals := by
  have hnoted : (s.sstNoted n words).Inv := State.wr_inv hi _ _ _
  have hrd : ∀ f : Field, RB_STNST_SST.beside f 0 0 = true → (s.sstNoted n words).rd f n = s.rd f n := fun f hf =>
    State.rdk_wrk_beside hi hf n n _
  have hstopped := State.stIn_stopped hlen hsst ((hrd _ (by decide)).trans hlive)
  obtain ⟨hstate, hdrops, harrived⟩ := State.stnDrop_effect hnoted n 2
  rw [hrd _ (by decide)] at hdrops
  exact ⟨_, (exec_stInReceive_takes hon hn hen hlong).trans (congrArg _ hstopped), hstate, hdrops, harrived⟩

variable (hsst : (words.getD 0 0).get 31 30 = 0) (hcur : (s.stn n).cur = s.stCycleOf words + 1)
include hsst hcur

theorem exec_stInReceive_live (hlive : s.rd RB_STNST_STATE n = 1) :
    ∃ t, exec (.stInReceive n words) s = .next t ∧ (t.stn n).got = true ∧ (t.stn n).run = 0 ∧ t.rd RB_STNST_STATE n = 1 ∧
      (t.stn n).inp = (wordsToBytes (words.drop 4)).take (s.rd RB_STN_IN_LEN n) := by
  have htaken : (s.stTaken n words).Inv := State.stTaken_inv hi
  have hpts := State.stationPoints_moves (s := s.stTaken n words) (a0 := n) (a1 := s.stBytes n words) (a2 := true)
  have hkept : (s.stTaken n words).rd RB_STNST_STATE n = 1 := (State.rdk_wrk_beside hi (by decide) n n _).trans hlive
  have hget : ((s.stTaken n words).stationPoints n (s.stBytes n words) true).stn n =
      { s.stn n with got := true, run := 0, seen := true, inp := s.stBytes n words } := by
    rw [State.stn, ← hpts.keep htaken .rb rfl]
    exact State.stTaken_stn
  exact ⟨_, (exec_stInReceive_takes hon hn hen hlong).trans (congrArg _ (State.stIn_live hi hlen hsst hcur hlive)),
    congrArg StnSt.got hget, congrArg StnSt.run hget, (hpts.rd htaken rfl n).trans hkept, congrArg StnSt.inp hget⟩

theorem exec_stInReceive_enables {e : StnEnable} {c : Cmd} (hstate : s.rd RB_STNST_STATE n = 2) (henable : (s.stn n).enable = some e)
    (hstart : e.start + 1 ≤ (s.stn n).cur) (hcmd : e.cmd = c.ref) (hfind : s.findCmd c.ring c.order = some c) (hu : c.undecided = true) :
    ∃ t, exec (.stInReceive n words) s = .next t ∧ t.rd RB_STNST_STATE n = 1 ∧ t.Outcome c .ok 0 0 0 0 (some s.now) := by
  obtain ⟨hinv, hlive, hflight, hnow⟩ := State.stEnabled_effect (n := n) (words := words) hi
  have hdone := State.stIn_enables hi hlen hsst hcur hstate henable (by omega)
  rw [hcmd, hnow] at hdone
  exact ⟨_, (exec_stInReceive_takes hon hn hen hlong).trans (congrArg _ hdone), (State.settle_moves.rd hinv rfl n).trans hlive,
    State.settle_outcome hflight hfind hu _ _ _ _⟩

end received

section missed
variable (hi : s.Inv) (hon : s.lanesOn = true) (hen : s.flag RB_STN_EN n = true) (hlive : s.rd RB_STNST_STATE n = 1)
  (hcur : (s.stn n).cur ≠ 0) (hgot : (s.stn n).got = false) (hjudged : (s.stn n).judged = false)
  (hover : (s.stn n).cur + s.stnCycle n ≤ s.tai + 1)
include hi hon hen hlive hcur hgot hjudged hover

theorem exec_stationMiss_counts (hfew : (s.stn n).run + 1 < s.rd RB_STN_MISS n) :
    ∃ t, exec (.stationMiss n) s = .next t ∧ t.rd RB_STNST_STATE n = 1 ∧ (t.stn n).run = (s.stn n).run + 1 ∧
      t.rd RB_STNST_MISSES n = satAdd 65535 (s.rd RB_STNST_MISSES n) 1 := by
  obtain ⟨-, hget, hkept, hcount⟩ := s.stnMissed_effect hi n
  have hgo := (exec_stationMiss_judged hon hen hlive hcur hgot hjudged hover).trans (congrArg _ (if_neg (Nat.not_le.2 hfew)))
  exact ⟨_, hgo, hkept.trans hlive, congrArg StnSt.run hget, hcount⟩

theorem exec_stationMiss_drops (hmany : s.rd RB_STN_MISS n ≤ (s.stn n).run + 1) :
    ∃ t, exec (.stationMiss n) s = .next t ∧ t.rd RB_STNST_STATE n = 2 ∧ ⟨0x4105, 1⟩ ∈ t.ec.arrivals := by
  obtain ⟨hinv, -⟩ := s.stnMissed_effect hi n
  have hgo := (exec_stationMiss_judged hon hen hlive hcur hgot hjudged hover).trans (congrArg _ (if_pos hmany))
  obtain ⟨hstate, -, harrived⟩ := State.stnDrop_effect hinv n 1
  exact ⟨_, hgo, hstate, harrived⟩

end missed

theorem exec_stationEnableTimeout_answers (hmap : mapOk (fun _ => StnSt.init) s.rb.stn = true) {e : StnEnable} {c : Cmd}
    (henable : (s.stn n).enable = some e) (hlate : e.deadline ≤ s.elapsed) (hcmd : e.cmd = c.ref)
    (hfind : s.findCmd c.ring c.order = some c) (hu : c.undecided = true) :
    ∃ t, exec (.stationEnableTimeout n) s = .next t ∧ (t.stn n).enable = none ∧ t.Outcome c .noMatch 0 0 0 0 none := by
  have hgo := exec_stationEnableTimeout_late henable hlate
  rw [hcmd] at hgo
  refine ⟨_, hgo, ?_, State.settle_outcome (s := s) (t := s.setStn n _) rfl hfind hu _ _ _ _⟩
  rw [State.stn, State.settle_rb]
  exact congrArg StnSt.enable (mget_mset_same n _ _ hmap)

end stations

end

/-- Settles O58: each event is an equation for the next state, and what it leaves is read off the writes in it. -/
theorem lanesPortsFramesStationsAndEthernetAct : Obligations.LanesPortsFramesStationsAndEthernetAct := by
  unfold Obligations.LanesPortsFramesStationsAndEthernetAct
  refine ⟨descramble_scramble, ?quad, ?detector, ?training, ?blocks, ?frames, ?cap, ?devices, ?stations, ?load, ?ethernet, ?goose⟩
  case quad => exact fun s lane los hi hlane hrun => exec_laneDetectorChange_quad hi hlane hrun los
  case detector =>
    intro s lane los lol hi hlane hrun
    obtain ⟨-, hlos, hlol⟩ := State.detect_flags hi lane los lol
    refine ⟨_, exec_laneDetectorChange_one hlane hrun los lol, (hlos lane).trans (if_pos rfl), (hlol lane).trans (if_pos rfl), ?_⟩
    rintro rfl hold
    exact State.detect_los hi hold lol
  case training =>
    intro s n step skew hi hmaps hon
    obtain ⟨hport, -⟩ := State.laneMapsOk_iff.1 hmaps
    refine ⟨fun hmay => ?_, fun hn hmay => ?_, fun hused => ⟨fun hstep hbad hlate => ?_, fun hstep hfw hlate => ?_, fun hstep hm => ?_⟩⟩
    · exact ⟨_, exec_trainingStepReached_lane hon hmay skew, State.laneReached_effect hi (State.laneMay_step hmay)⟩
    · exact ⟨_, exec_trainingStepReached_port hon hn hmay, State.portReached_step hi hport n step skew⟩
    · exact exec_trainingStepTimeout_negotiating hi hport hon hused hstep hbad hlate
    · exact exec_trainingStepTimeout_keying hport hon hused hstep hfw hlate
    · exact exec_portDown_effect hi hport hon hused hstep hm
  case blocks =>
    intro s p k sync x ok hi hmaps hon hused hk hstep hsync
    obtain ⟨hport, -⟩ := State.laneMapsOk_iff.1 hmaps
    have hgo := exec_renbyFrameReceive_invalid (x := x) hk hstep hsync hon hused ok
    have hbad := State.blockNoted_bad (s := s) (k := k) (x := x) hsync (s.blockLane p k)
    have hsame : ∀ f j, (s.blockNoted (s.blockLane p k) ⟨k, sync, x⟩).rd f j = s.rd f j := fun _ _ => rfl
    have hinv : (s.blockNoted (s.blockLane p k) ⟨k, sync, x⟩).Inv := hi
    have hports : (s.blockNoted (s.blockLane p k) ⟨k, sync, x⟩).rb.port = s.rb.port := rfl
    have hof := State.portOf_congr (s := s) (t := s.blockNoted (s.blockLane p k) ⟨k, sync, x⟩) rfl (fun _ _ _ => rfl) (s.blockLane p k)
    refine ⟨fun hfew => ?_, fun hmany hroom hlane => ?_⟩
    · rw [State.badBlock_few (by
        rw [hbad]
        refine Nat.lt_of_le_of_lt ((List.take_sublist _ _).countP_le) ?_
        rw [List.countP_cons]
        exact Nat.succ_lt_succ hfew)] at hgo
      obtain ⟨-, hkept, hcount⟩ := State.blockDropped_effect hinv (hports ▸ hport) p (s.blockLane p k)
      have hwas : (s.blockNoted (s.blockLane p k) ⟨k, sync, x⟩).port p = s.port p := rfl
      rw [hwas] at hkept
      rw [hsame] at hcount
      exact ⟨_, hgo, congrArg PortSt.frames hkept, (congrArg PortSt.step hkept :), hcount⟩
    · rw [State.badBlock_many hsync (by
        rw [hbad, List.take_of_length_le (Nat.succ_le_of_lt hroom), List.countP_cons]
        exact Nat.succ_le_succ hmany.ge)] at hgo
      exact ⟨_, hgo, State.lockLost_effect hinv (hports ▸ hport) (hof.trans hlane)⟩
  case frames =>
    intro s p cls f h ws e bs hi hmaps hon hused hstep hparts hhead htrailer hcls hreads hline
    have hnone := hreads.2
    have hparts4 : (f.take 4).getD 0 0 = h.getD 0 0 := by rw [hparts, frame_head hhead]
    refine ⟨fun ok heven hne => ?_, fun hstated hshort hversion => ?_⟩
    · obtain ⟨y, prev, hy, hgo⟩ := exec_renbyFrameReceive_taken hmaps hon hused hstep hcls hreads hline heven ok
      rw [State.frameTaken_length (by rw [hparts4]; exact hne)] at hgo
      exact ⟨_, hgo, (State.frameErr_counts (hy.inv hi) p).trans (congrArg (satAdd 65535 · 1) (hy.rd _ _))⟩
    have hf : FrameFits f h ws e := ⟨hparts, hhead, htrailer, hstated, hshort, hversion⟩
    have heven : f.length % 2 = 0 := by omega
    have htaken := exec_renbyFrameReceive_taken hmaps hon hused hstep hcls hreads hline heven
    refine ⟨fun hcrc => ?_, fun hcrc hkeyed => ⟨?_, fun hepoch => ⟨fun hbehind => ?_, ?_⟩⟩⟩
    · obtain ⟨y, prev, hy, hgo⟩ := htaken true
      exact ⟨_, hgo, (State.frameTaken_crc (hy.inv hi) hf hcrc true).trans (congrArg (satAdd 65535 · 1) (hy.rd _ _))⟩
    · obtain ⟨y, prev, hy, hgo⟩ := htaken false
      exact ⟨_, hgo, (hy.keyed hi hnone hf hcrc hkeyed).1⟩
    · obtain ⟨y, prev, hy, hgo⟩ := htaken true
      exact ⟨_, hgo, (hy.keyed hi hnone hf hcrc hkeyed).2 hepoch hbehind⟩
    · intro hahead htype hclass hcls2 hdmode hdst hsrc hhops hdevice hnew hports
      obtain ⟨y, prev, hy, hgo⟩ := htaken true
      exact ⟨_, hgo, hy.forwards hnone hf hcrc hkeyed hepoch hahead ⟨htype, hclass, hdmode, hdst, hsrc, hhops, hdevice⟩ hcls2 hnew hports⟩
  case cap =>
    intro s p words hi hon hused hstep hlen hkind
    refine ⟨fun hbond hdev => ?_, fun hbond => ?_⟩
    · exact ⟨_, exec_capFrameReceive_received hon hused hstep hlen, State.capReceive_fits hi hkind hbond hdev⟩
    · obtain ⟨hok, hbad, hkept, harrived⟩ := State.capReceive_refused hi hbond
      exact ⟨_, exec_capFrameReceive_received hon hused hstep hlen, hok, hbad, hkept.trans hstep, harrived⟩
  case devices =>
    intro s d hi hmaps hon
    obtain ⟨-, -, hseg, -, hsent, -⟩ := State.laneMapsOk_iff.1 hmaps
    refine ⟨fun hat hgrid hen => ?_, fun hknown hlost hlate => ⟨fun hm => ?_, fun hm => ?_⟩⟩
    · exact ⟨_, exec_topoSend_sends hon hat hgrid, State.rbSend_sent (s := s.topoCounted) hen hsent _ _ _ _ _ _ _ _ _⟩
    · have hgo := exec_deviceUnreachable_late hon hknown hlost hlate
      rw [if_neg hm] at hgo
      have hforgot : (s.forgotten d).Inv := hi
      exact ⟨_, hgo, State.deviceLost_effect hforgot d (s.dev d)⟩
    · have hgo := exec_deviceUnreachable_late hon hknown hlost hlate
      rw [if_pos hm] at hgo
      exact ⟨_, hgo, rfl, mget_mset_same d _ _ hseg⟩
  case stations =>
    intro s n x hi hmaps hon hn hen hx
    obtain ⟨-, hstn, -⟩ := State.laneMapsOk_iff.1 hmaps
    subst hx
    refine ⟨fun hall hgrid hcur hstate => ?_, fun words hlong hlen => ⟨fun hsst hlive => ?_, fun hsst hcur => ⟨fun hlive => ?_, ?_⟩⟩,
      fun hlive hcur hgot hjudged hover => ⟨fun hfew => ?_, fun hmany => ?_⟩, fun e c henable hcmd hfind hu hlate => ?_,
      fun ring idx c hr hp hunit hgrp hinst hm => ?_⟩
    · exact exec_stationCycleBoundary_one hon hall hgrid hcur hstate
    · exact exec_stInReceive_stopped hi hon hn hen hlong hlen hsst hlive
    · exact exec_stInReceive_live hi hon hn hen hlong hlen hsst hcur hlive
    · exact fun e c hstate henable hstart hcmd hfind hu =>
        exec_stInReceive_enables hi hon hn hen hlong hlen hsst hcur hstate henable hstart hcmd hfind hu
    · exact exec_stationMiss_counts hi hon hen hlive hcur hgot hjudged hover hfew
    · exact exec_stationMiss_drops hi hon hen hlive hcur hgot hjudged hover hmany
    · exact exec_stationEnableTimeout_answers hstn henable hlate hcmd hfind hu
    · subst hinst
      have hgo := exec_stationEnable_goes hr hp hunit hgrp hn hen hm
      refine ⟨fun hstate => ?_, fun hstate => ?_⟩
      · exact ⟨_, hgo.trans (congrArg _ (if_pos hstate)), State.enableAwaited_effect hr.mem hr.undecided⟩
      · have hnot : ¬s.rd RB_STNST_STATE (objInst c.objid) = 2 := by rw [hstate]; decide
        exact ⟨_, hgo.trans (congrArg _ (if_neg hnot)), rfl, State.answer_outcome hr.mem hr.undecided 0 0 0 0⟩
  case load =>
    intro s p bytes hi hon hused
    exact ⟨_, exec_c0LoadWindow_judged hon hused bytes, State.c0Load_effect hi p _⟩
  case ethernet =>
    intro s lane type len m hi hused hproto hup hlong hshort
    have hf : EthernetFrame s lane len := ⟨hused, hproto, hup, hlong, hshort⟩
    refine ⟨⟨_, exec_ethernetFrameReceive_pause hf, rfl⟩, fun hpause hsv hptp => ?_⟩
    have hgo := exec_ethernetFrameReceive_captain (m := m) hf hpause hsv hptp
    refine ⟨fun hlet hm hroom => ?_, fun hfull => ?_⟩
    · rw [if_neg (by simp [hlet, hm, hroom])] at hgo
      split at hgo
      · next hcap => exact ⟨_, hgo, (if_pos hcap).symm⟩
      · next hcap => exact ⟨_, hgo, (if_neg hcap).symm⟩
    · rw [if_pos (by simpa [or_assoc] using hfull)] at hgo
      exact ⟨_, hgo, State.enDrop_effect hi lane⟩
  case goose =>
    intro s hi hon hen hfw hm
    have hgo := exec_goosePublish_goes hon hen hfw hm
    refine ⟨fun hne => ?_, fun hsame hsent hdue => ?_⟩
    · rw [if_pos (.inr hne)] at hgo
      exact ⟨_, hgo, rfl, rfl, rfl, rfl⟩
    · rw [if_neg (by rintro (h | h) <;> contradiction), if_pos hdue] at hgo
      exact ⟨_, hgo, rfl, rfl, rfl⟩

end Sys2Proof.Machine
end

