-- ==== Sys2Proof/Proofs/OutputsKept.lean ====
section
/-! One field output: what steps of the field die that concern other outputs, or other fields, leave of it. -/

namespace Sys2Proof.Machine

open Sys2Proof

/-- A field apart from every field of a list. -/
def Field.off (fs : List Field) (g : Field) : Bool := fs.all (fun f => f.beside g 0 0)

theorem Field.off_mem {fs : List Field} {f g : Field} (h : g.off fs = true) (hf : f ∈ fs) : f.beside g 0 0 = true := List.all_eq_true.1 h f hf

theorem Field.off_mono {fs gs : List Field} {g : Field} (hsub : fs ⊆ gs) (h : g.off gs = true) : g.off fs = true :=
  List.all_eq_true.2 fun _ hf => Field.off_mem h (hsub hf)

/-- The kinds of state that the outputs' steps may change. -/
def outputKinds : Nat := 0x1000000000000000000000000000000000000000000000000010000000000000004006c00

/-- A good state whose table of outputs is in canonical form. -/
def State.OutsGood (s : State) : Prop := s.Inv ∧ mapOk (fun _ => DoSt.init) s.fd.dos = true

/-- From a good state, output `n`, the registers of the field die that are not of another output nor among `fs`, and the rest of the
field die but its notifications are as before. -/
structure State.OutSame (fs : List Field) (n : Nat) (s t : State) : Prop where
  good : t.OutsGood
  rd : ∀ g : Field, g.unit = 0x38 → g.off fs = true → ∀ j, (g.grp % 256 = 0x20 → j = n) → t.rd g j = s.rd g j
  dout : t.dout n = s.dout n
  fd : t.fd = { s.fd with dos := t.fd.dos, ntf := t.fd.ntf }
  kept : Moves outputKinds s t

def State.OutKept (fs : List Field) (n : Nat) (s t : State) : Prop := s.OutsGood → s.OutSame fs n t

section
variable {fs : List Field} {n m : Nat}

theorem State.OutSame.flag {s t : State} (h : s.OutSame fs n t) {g : Field} (hu : g.unit = 0x38) (hg : g.off fs = true) {j : Nat}
    (hj : g.grp % 256 = 0x20 → j = n) : t.flag g j = s.flag g j := congrArg (· != 0) (h.rd g hu hg j hj)

theorem State.OutKept.refl (s : State) : State.OutKept fs n s s := fun h =>
  { good := h, rd := fun _ _ _ _ _ => rfl, dout := rfl, fd := rfl, kept := .refl }

theorem State.OutSame.trans {a b c : State} (h : a.OutSame fs n b) (h' : b.OutSame fs n c) : a.OutSame fs n c where
  good := h'.good
  rd g hu hg j hj := (h'.rd g hu hg j hj).trans (h.rd g hu hg j hj)
  dout := h'.dout.trans h.dout
  fd := by
    rw [h'.fd, h.fd]
  kept := h.kept.trans h'.kept

theorem State.OutKept.trans {a b c : State} (h : State.OutKept fs n a b) (h' : State.OutKept fs n b c) : State.OutKept fs n a c := fun ha =>
  (h ha).trans (h' (h ha).good)

theorem State.OutKept.ite {s a b : State} {c : Prop} [Decidable c] (ha : State.OutKept fs n s a) (hb : State.OutKept fs n s b) :
    State.OutKept fs n s (if c then a else b) := by
  split
  · exact ha
  · exact hb

theorem State.OutKept.foldl {α : Type} {f : State → α → State} :
    ∀ (l : List α), (∀ st a, a ∈ l → State.OutKept fs n st (f st a)) → ∀ s : State, State.OutKept fs n s (l.foldl f s)
  | [], _, s => .refl s
  | a :: l, hf, s => (hf s a List.mem_cons_self).trans (State.OutKept.foldl l (fun st b hb => hf st b (List.mem_cons_of_mem a hb)) (f s a))

theorem State.OutSame.mono {gs : List Field} {s t : State} (h : s.OutSame fs n t) (hsub : fs ⊆ gs) : s.OutSame gs n t :=
  { h with rd := fun g hu hg j hj => h.rd g hu (Field.off_mono hsub hg) j hj }

theorem State.OutKept.mono {gs : List Field} {s t : State} (h : State.OutKept fs n s t) (hsub : fs ⊆ gs) : State.OutKept gs n s t := fun hs =>
  (h hs).mono hsub

/-- A register field that a step may write: it is among the exempt ones, or another output's. -/
structure Field.Elsewhere (fs : List Field) (n : Nat) (f : Field) (m : Nat) : Prop where
  unit : f.unit = 0x38
  fits : f.fits = true
  away : f ∈ fs ∨ f.grp % 256 = 0x20 ∧ m % 65536 ≠ n % 65536

theorem State.outKept_wr {f : Field} (h : f.Elsewhere fs n m) (s : State) (v : Nat) : State.OutKept fs n s (s.wr f m v) := fun hs =>
  { good := ⟨State.wr_inv hs.1 f m v, hs.2⟩
    rd := fun g hu hg j hj => by
      rcases h.away with hmem | ⟨hgrp, hne⟩
      · exact State.rdk_wrk_beside hs.1 (Field.off_mem hg hmem) m j v
      · refine State.rd_wr_ne hs.1 h.fits v ?_
        by_cases hg' : g.grp % 256 = 0x20
        · exact .inr (.inr (.inl (by rw [hj hg']; exact hne.symm)))
        · exact .inr (.inl (by rw [hgrp]; exact hg'))
    dout := rfl
    fd := rfl
    kept := .wr .refl (by rw [h.unit]; rfl) }

theorem State.outKept_setFlag {f : Field} (h : f.Elsewhere fs n m) (s : State) (b : Bool) : State.OutKept fs n s (s.setFlag f m b) :=
  State.outKept_wr h s _

theorem State.outKept_bump {f : Field} (h : f.Elsewhere fs n m) (s : State) (k : Nat) : State.OutKept fs n s (s.bump f m k) :=
  State.outKept_wr h s _

theorem State.outKept_setDout (hne : n ≠ m) (s : State) (x : DoSt) : State.OutKept fs n s (s.setDout m x) := fun hs =>
  { good := ⟨hs.1, mset_ok hs.2⟩
    rd := fun _ _ _ _ _ => rfl
    dout := mget_mset_ne x hne _ hs.2
    fd := rfl
    kept := State.setDout_moves.mono rfl }

/-- What changes none of the registers of the field die, and of the die itself at most its notifications. -/
theorem State.outKept_told {k : Nat} {s t : State} (h : Moves k s t) (hk : sub k outputKinds = true)
    (hregs : k.testBit (Part.regs 0x38).bit = false) (hfd : s.Inv → t.fd = { s.fd with ntf := t.fd.ntf }) : State.OutKept fs n s t := fun hs => by
  have hfd' := hfd hs.1
  have hdos : t.fd.dos = s.fd.dos := by rw [hfd']
  exact
    { good := ⟨h.inv hs.1, hdos.symm ▸ hs.2⟩
      rd := fun g hu _ j _ => h.rd hs.1 (by rw [hu]; exact hregs) j
      dout := by
        unfold State.dout
        rw [hdos]
      fd := by rw [hfd']
      kept := h.mono hk }

/-! Reports (R436) and the conditions of Table 15.5. -/

theorem State.fdNotify_fd {s : State} (hi : s.Inv) (code ch cls p0 p1 : Nat) :
    (s.fdNotify code ch cls p0 p1).fd = { s.fd with ntf := (s.fdNotify code ch cls p0 p1).fd.ntf } := by
  have hput : ∀ v : AMap (Nat × Nat), State.Inv { s with fd := { s.fd with ntf := v } } := fun _ => hi
  unfold State.fdNotify
  extract_lets k x old put s1
  split
  · have hs1 : s1.fd = { s.fd with ntf := s1.fd.ntf } := by
      rw [← State.handOff_moves.keep (hput _) .fd rfl]
    split
    · exact hs1
    · exact hs1
  · rw [← State.notify_moves.keep (hput _) .fd rfl]

theorem State.outKept_fdNotify (s : State) (code ch cls p0 p1 : Nat) : State.OutKept fs n s (s.fdNotify code ch cls p0 p1) :=
  State.outKept_told State.fdNotify_moves rfl rfl fun hi => State.fdNotify_fd hi code ch cls p0 p1

theorem State.outKept_doDiag (s : State) (m cls : Nat) : State.OutKept fs n s (s.doDiag m cls) := State.outKept_fdNotify s _ _ _ _ _

theorem State.outKept_doFlag {f : Field} (h : f.Elsewhere fs n m) (hseen : FD_DO_SEEN.Elsewhere fs n m) (s : State) (bit cls : Nat) :
    State.OutKept fs n s (s.doFlag f m bit cls) :=
  .ite (.refl s) (((State.outKept_wr h s 1).trans (State.outKept_wr hseen _ _)).trans (State.outKept_doDiag _ m cls))

/-! Steps at another output. -/

section other
variable (hne : n % 65536 ≠ m % 65536)
include hne

theorem Field.elsewhere_other {f : Field} (hu : f.unit = 0x38) (hf : f.fits = true) (hg : f.grp % 256 = 0x20) : f.Elsewhere fs n m :=
  ⟨hu, hf, .inr ⟨hg, hne.symm⟩⟩

theorem State.outKept_setDout_other (s : State) (x : DoSt) : State.OutKept fs n s (s.setDout m x) :=
  State.outKept_setDout (fun h => hne (congrArg (· % 65536) h)) s x

theorem State.outKept_olRelease (s : State) : State.OutKept fs n s (s.olRelease m) :=
  .ite ((State.outKept_setDout_other hne s _).trans (State.outKept_wr (Field.elsewhere_other hne rfl rfl rfl) _ _)) (.refl s)

theorem State.outKept_olEdges (s : State) : State.OutKept fs n s (s.olEdges m) := by
  unfold State.olEdges
  refine .ite (.ite (State.outKept_olRelease hne s) (.refl s)) ?_
  have hseen := State.outKept_setDout_other (fs := fs) hne s { s.dout m with flp := s.tripDrives (m - 24) }
  exact .ite (hseen.trans (State.outKept_olRelease hne _)) hseen

theorem State.outKept_doDrive (s : State) : State.OutKept fs n s (s.doDrive m) := by
  unfold State.doDrive
  extract_lets s0 r was s1 x
  have h1 : State.OutKept fs n s s1 :=
    ((((State.outKept_olEdges hne s).trans (State.outKept_setFlag (Field.elsewhere_other hne rfl rfl rfl) _ _)).trans
      (State.outKept_setFlag (Field.elsewhere_other hne rfl rfl rfl) _ _)).trans
      (State.outKept_wr (Field.elsewhere_other hne rfl rfl rfl) _ _)).trans
      (State.outKept_setFlag (Field.elsewhere_other hne rfl rfl rfl) _ _)
  exact .ite (h1.trans (State.outKept_setDout_other hne _ _)) (.ite (h1.trans (State.outKept_setDout_other hne _ _)) h1)

end other

end

end Sys2Proof.Machine
end

