-- ==== Sys2Proof/Proofs/OutputsDriven.lean ====
section
/-! What drives an output (R423, R433): the ruling row as a function of the output's own state, and what `fdDrive` makes of it. -/

namespace Sys2Proof.Machine

open Sys2Proof

/-! The ruling row. -/

/-- Two records of an output that command it alike. -/
structure DoSt.Commanded (x y : DoSt) : Prop where
  held : y.held = x.held
  ball : y.ball = x.ball
  darkUntil : y.darkUntil = x.darkUntil
  snt : y.snt = x.snt
  sntUntil : y.sntUntil = x.sntUntil

/-- Two records of an output that rule it alike, the supply cut-off aside, with the same count of retries. -/
structure DoSt.Alike (x y : DoSt) : Prop extends x.Commanded y where
  rfEnd : y.rfEnd = x.rfEnd
  latched : y.latched = x.latched
  wait : y.wait = x.wait
  retries : y.retries = x.retries

theorem DoSt.Alike.refl (x : DoSt) : x.Alike x := ⟨⟨rfl, rfl, rfl, rfl, rfl⟩, rfl, rfl, rfl, rfl⟩

theorem DoSt.Alike.trans {x y z : DoSt} (h : x.Alike y) (h' : y.Alike z) : x.Alike z :=
  ⟨⟨h'.held.trans h.held, h'.ball.trans h.ball, h'.darkUntil.trans h.darkUntil, h'.snt.trans h.snt, h'.sntUntil.trans h.sntUntil⟩,
    h'.rfEnd.trans h.rfEnd, h'.latched.trans h.latched, h'.wait.trans h.wait, h'.retries.trans h.retries⟩

/-- The registers that the driver of an output writes, and those of a cut-off. -/
def driverFields : List Field := [FD_DO_CMD, FD_DO_ON, FD_DO_ROW, FD_DO_FORCED]
def cutFields : List Field := [FD_DO_UV_OFF, FD_DO_SEEN]

/-- The registers of outputs, and of the field die, that do not rule an output's command. -/
def statusFields : List Field := driverFields ++ cutFields ++ [FD_DO_OL, FD_DO_OL_COUNT, FD_DO_BALL, FD_DO_I_MA, FD_DO_OW_ON, FD_DO_OW_OFF,
  FD_DO_SCS, FD_DO_RF, FD_DO_OVT, FD_DO_XFEED, FD_DO_TP_FAIL,
  FD_STAT_FLD, FD_STAT_FLD_MV, FD_STAT_TEMP, FD_STAT_WD_COUNT]

/-- What an output's command depends on, its record aside. -/
structure State.RowInputs (n : Nat) (s t : State) : Prop where
  rd : ∀ g : Field, g.unit = 0x38 → g.off statusFields = true → ∀ j, (g.grp % 256 = 0x20 → j = n) →
    t.rd g j = s.rd g j
  sfOff : t.fd.sfOff = s.fd.sfOff
  sfPulse : t.fd.sfPulse = s.fd.sfPulse
  elapsed : t.elapsed = s.elapsed
  value : ∀ j, t.rd UM_OWN_VALUE j = s.rd UM_OWN_VALUE j
  trips : ∀ k, t.tripDrives k = s.tripDrives k

/-- What an output's command and its ruling row depend on. -/
structure State.Commands (n : Nat) (s t : State) : Prop extends State.RowInputs n s t where
  alike : (s.dout n).Alike (t.dout n)
  rf : t.rd FD_DO_RF n = s.rd FD_DO_RF n

section
variable {n : Nat} {s t : State}

theorem State.tripDrives_congr (h : ∀ f : Field, f.unit = 0x11 → ∀ j, t.rd f j = s.rd f j) (k : Nat) : t.tripDrives k = s.tripDrives k := by
  unfold State.tripDrives State.drives State.flag
  simp only [h TM_TCH_ASSERTED rfl, h TM_TCH_TBLK_EFF rfl, h TM_TCH_OUT rfl]

/-- What the outputs' steps leave of the rest of the device. -/
theorem Moves.commands (h : Moves outputKinds s t) (hi : s.Inv) : t.elapsed = s.elapsed ∧
    (∀ j, t.rd UM_OWN_VALUE j = s.rd UM_OWN_VALUE j) ∧ ∀ k, t.tripDrives k = s.tripDrives k :=
  ⟨(h.keep hi .elapsed rfl).symm, h.rd hi rfl, State.tripDrives_congr fun f hf => h.rd hi (by rw [hf]; rfl)⟩

theorem State.OutSame.inputs {fs : List Field} (h : s.OutSame fs n t) (hi : s.Inv) (hsub : fs ⊆ statusFields) : s.RowInputs n t := by
  obtain ⟨helapsed, hvalue, htrips⟩ := h.kept.commands hi
  exact ⟨fun g hu hg => h.rd g hu (Field.off_mono hsub hg), by rw [h.fd], by rw [h.fd], helapsed, hvalue, htrips⟩

theorem State.OutSame.commands (h : s.OutSame [] n t) (hi : s.Inv) : s.Commands n t :=
  ⟨h.inputs hi (List.nil_subset _), h.dout ▸ .refl _, h.rd FD_DO_RF rfl rfl n fun _ => rfl⟩

theorem State.RowInputs.flag (h : s.RowInputs n t) {g : Field} (hu : g.unit = 0x38)
    (hg : g.off statusFields = true) {j : Nat} (hj : g.grp % 256 = 0x20 → j = n) : t.flag g j = s.flag g j :=
  congrArg (· != 0) (h.rd g hu hg j hj)

theorem State.RowInputs.trans {u : State} (h : s.RowInputs n t) (h' : t.RowInputs n u) : s.RowInputs n u :=
  ⟨fun g hu hg j hj => (h'.rd g hu hg j hj).trans (h.rd g hu hg j hj), h'.sfOff.trans h.sfOff,
    h'.sfPulse.trans h.sfPulse, h'.elapsed.trans h.elapsed, fun j => (h'.value j).trans (h.value j), fun k => (h'.trips k).trans (h.trips k)⟩

theorem State.Commands.trans {u : State} (h : s.Commands n t) (h' : t.Commands n u) : s.Commands n u :=
  ⟨h.toRowInputs.trans h'.toRowInputs, h.alike.trans h'.alike, h'.rf.trans h.rf⟩

theorem State.RowInputs.pulseSrc (h : s.RowInputs n t) : t.pulseSrc n = s.pulseSrc n := by
  unfold State.pulseSrc
  rw [h.rd FD_DO_MODE rfl rfl n fun _ => rfl]

theorem State.RowInputs.doCmd (h : s.RowInputs n t) (hx : (s.dout n).Commanded (t.dout n)) : t.doCmd n = s.doCmd n := by
  have hsafe : t.doSafe n = s.doSafe n := by
    unfold State.doSafe
    rw [h.rd FD_DO_SAFE rfl rfl n fun _ => rfl, hx.ball]
  have hvalue : t.flag UM_OWN_VALUE n = s.flag UM_OWN_VALUE n := congrArg (· != 0) (h.value n)
  unfold State.doCmd
  dsimp only
  rw [h.flag (g := FD_STAT_WD_EXP) rfl rfl (fun h => absurd h (by decide)), h.flag (g := FD_CTL_WD_EN) rfl rfl (fun h => absurd h (by decide)),
    h.flag (g := FD_STAT_HOLD) rfl rfl (fun h => absurd h (by decide)), h.flag (g := FD_STAT_HB_LOST) rfl rfl (fun h => absurd h (by decide)),
    h.pulseSrc, hsafe, hvalue, h.sfPulse, h.elapsed, h.trips, hx.held, hx.darkUntil, hx.snt, hx.sntUntil]

theorem State.Commands.doCmd (h : s.Commands n t) : t.doCmd n = s.doCmd n := h.toRowInputs.doCmd h.alike.toCommanded

theorem State.Commands.doRow (h : s.Commands n t) (hcut : (t.dout n).cut = (s.dout n).cut) : t.doRow n = s.doRow n := by
  unfold State.doRow
  dsimp only
  rw [hcut, h.flag (g := FD_DO_OL_T) rfl rfl (fun _ => rfl), show t.flag FD_DO_RF n = s.flag FD_DO_RF n from congrArg (· != 0) h.rf, h.alike.rfEnd, h.sfOff,
    h.elapsed, h.alike.latched, h.alike.wait, h.doCmd]

/-- What switches an output off, whatever its overloads. -/
def State.heldOff (s : State) (n : Nat) : Prop :=
  (s.dout n).cut = true ∨ s.flag FD_DO_OL_T n = true ∨ n < 24 ∧ mget (fun _ => false) s.fd.sfOff n = true

theorem State.heldOff.doRow (h : s.heldOff n) : (s.doRow n).2 = false := by
  unfold State.doRow
  dsimp only
  split
  · rfl
  split
  · rfl
  split
  · rfl
  split
  · rfl
  next hcut hol _ hsf =>
  rcases h with h | h | ⟨hn, h⟩
  · exact absurd h hcut
  · exact absurd h hol
  · exact absurd (by rw [h, decide_eq_true hn]; rfl) hsf

/-- An overload, or no command, leaves an output off. -/
theorem State.doRow_uncommanded (h : (s.dout n).latched = true ∨ (s.dout n).wait = true ∨ (s.doCmd n).2 = false) : (s.doRow n).2 = false := by
  unfold State.doRow
  dsimp only
  split
  · rfl
  split
  · rfl
  split
  · rfl
  split
  · rfl
  split
  · rfl
  next hol =>
  rcases h with h | h | h
  · exact absurd (by rw [h]; rfl) hol
  · exact absurd (by rw [h, Bool.or_true]) hol
  · exact h

theorem State.RowFree.doRow (h : s.RowFree n) : s.doRow n = s.doCmd n := by
  obtain ⟨-, hcut, hol, hrf, hend, hsf, hlatched, hwait⟩ := h
  have hsf' : (decide (n < 24) && mget (fun _ => false) s.fd.sfOff n) = false := by
    rcases hsf with h | h
    · rw [decide_eq_false (by omega)]
      rfl
    · rw [h, Bool.and_false]
  unfold State.doRow
  dsimp only
  rw [hcut, hol, hrf, decide_eq_false (Nat.not_lt.2 hend), hsf', hlatched, hwait]
  rfl

/-- An output stays free while what it depends on stays. -/
theorem State.RowInputs.rowFree (h : s.RowInputs n t) (hfree : s.RowFree n) (hslots : t.fd.cut = none) (hrf : t.flag FD_DO_RF n = false)
    (hx : (t.dout n).cut = (s.dout n).cut ∧ (t.dout n).rfEnd = (s.dout n).rfEnd ∧ (t.dout n).latched = (s.dout n).latched ∧
      (t.dout n).wait = (s.dout n).wait) : t.RowFree n := by
  obtain ⟨-, hcut, hol, -, hend, hsf, hlatched, hwait⟩ := hfree
  obtain ⟨hcut', hend', hlatched', hwait'⟩ := hx
  refine ⟨hslots, hcut'.trans hcut, (h.flag (g := FD_DO_OL_T) rfl rfl fun _ => rfl).trans hol, hrf, ?_, ?_, hlatched'.trans hlatched,
    hwait'.trans hwait⟩
  · rw [hend', h.elapsed]
    exact hend
  · rw [h.sfOff]
    exact hsf

/-! Overloads and the driver (R424). -/

/-- An overload is released by no edge now. -/
def State.olQuiet (s : State) (n : Nat) : Prop :=
  n < 24 ∧ ((s.dout n).wait = true → (s.doCmd n).2 = true) ∨ (s.dout n).latched = false ∧ (s.dout n).wait = false

theorem State.setDout_dout {x : DoSt} (hs : s.OutsGood) : (s.setDout n x).dout n = x := mget_mset_same n x _ hs.2

theorem State.setDout_rd (s : State) (n : Nat) (x : DoSt) (g : Field) (j : Nat) : (s.setDout n x).rd g j = s.rd g j := rfl

theorem State.setDout_good (hs : s.OutsGood) (x : DoSt) : (s.setDout n x).OutsGood := ⟨hs.1, mset_ok hs.2⟩

theorem State.setDout_fd (s : State) (n : Nat) (x : DoSt) : (s.setDout n x).fd = { s.fd with dos := (s.setDout n x).fd.dos } := rfl

theorem State.olRelease_idle (hl : (s.dout n).latched = false) (hw : (s.dout n).wait = false) : s.olRelease n = s := by
  unfold State.olRelease
  dsimp only
  rw [hl, hw]
  exact if_neg Bool.false_ne_true

/-- An edge that releases nothing leaves at most the command last seen. -/
theorem State.olEdges_quiet (hs : s.OutsGood) (h : s.olQuiet n) :
    s.olEdges n = s ∨ s.olEdges n = s.setDout n { s.dout n with flp := s.tripDrives (n - 24) } := by
  unfold State.olEdges
  split
  · refine .inl ?_
    split
    · next hrel =>
      rw [Bool.and_eq_true, Bool.not_eq_true'] at hrel
      rcases h with ⟨-, h⟩ | ⟨-, h⟩
      · exact absurd (h hrel.1) (by rw [hrel.2]; exact Bool.false_ne_true)
      · exact absurd (h.symm.trans hrel.1) Bool.false_ne_true
    · rfl
  · next hn =>
    obtain ⟨hl, hw⟩ : (s.dout n).latched = false ∧ (s.dout n).wait = false := h.resolve_left fun h => hn h.1
    have hset : (s.setDout n { s.dout n with flp := s.tripDrives (n - 24) }).dout n =
        { s.dout n with flp := s.tripDrives (n - 24) } := State.setDout_dout hs
    refine .inr ?_
    dsimp only
    split
    · exact State.olRelease_idle (by rw [hset]; exact hl) (by rw [hset]; exact hw)
    · rfl

theorem State.setDout_inputs (s : State) (n : Nat) (x : DoSt) : s.RowInputs n (s.setDout n x) :=
  ⟨fun _ _ _ _ _ => rfl, rfl, rfl, rfl, fun _ => rfl, fun _ => rfl⟩

theorem State.setDout_commands (hs : s.OutsGood) {x : DoSt} (hx : (s.dout n).Alike x) : s.Commands n (s.setDout n x) :=
  ⟨s.setDout_inputs n x, by rw [State.setDout_dout hs]; exact hx, s.setDout_rd n x _ n⟩

/-- What the edges leave in any case: the registers but that of the overload, and what holds the output off. -/
theorem State.olEdges_left (hs : s.OutsGood) : (s.olEdges n).OutsGood ∧ Moves outputKinds s (s.olEdges n) ∧
    (∀ g : Field, g.unit = 0x38 → g.off [FD_DO_OL] = true → ∀ j, (s.olEdges n).rd g j = s.rd g j) ∧
    ((s.olEdges n).dout n).cut = (s.dout n).cut ∧ (s.olEdges n).fd = { s.fd with dos := (s.olEdges n).fd.dos } := by
  have hset : ∀ (y : State) (x : DoSt), y.OutsGood → (y.setDout n x).OutsGood := fun y x hy => ⟨hy.1, mset_ok hy.2⟩
  have hrelease : ∀ y : State, y.OutsGood → (y.olRelease n).OutsGood ∧
      (∀ g : Field, g.unit = 0x38 → g.off [FD_DO_OL] = true → ∀ j, (y.olRelease n).rd g j = y.rd g j) ∧
      ((y.olRelease n).dout n).cut = (y.dout n).cut ∧ (y.olRelease n).fd = { y.fd with dos := (y.olRelease n).fd.dos } := by
    intro y hy
    unfold State.olRelease
    dsimp only
    split
    · have hput := hset y { y.dout n with latched := false, wait := false, retries := 0, limAt := none } hy
      refine ⟨⟨State.wr_inv hput.1 _ _ _, hput.2⟩, fun g _ hg j => ?_, ?_, rfl⟩
      · exact State.rdk_wrk_beside hput.1 (Field.off_mem hg (List.mem_singleton.2 rfl)) n j _
      · exact (congrArg DoSt.cut (State.setDout_dout (n := n) (x := { y.dout n with latched := false, wait := false, retries := 0, limAt := none }) hy) :)
    · exact ⟨hy, fun _ _ _ _ => rfl, rfl, rfl⟩
  refine ⟨?_, State.olEdges_moves.mono rfl, ?_⟩
  · unfold State.olEdges
    split
    · split
      · exact (hrelease s hs).1
      · exact hs
    · dsimp only
      split
      · exact (hrelease _ (hset s _ hs)).1
      · exact hset s _ hs
  · unfold State.olEdges
    split
    · split
      · exact (hrelease s hs).2
      · exact ⟨fun _ _ _ _ => rfl, rfl, rfl⟩
    · have hcut : ∀ b, ((s.setDout n { s.dout n with flp := b }).dout n).cut = (s.dout n).cut := fun b =>
        (congrArg DoSt.cut (State.setDout_dout (n := n) (x := { s.dout n with flp := b }) hs) :)
      dsimp only
      split
      · obtain ⟨-, hrd, hkept, hfd⟩ := hrelease _ (hset s { s.dout n with flp := s.tripDrives (n - 24) } hs)
        exact ⟨hrd, hkept.trans (hcut _), hfd⟩
      · exact ⟨fun _ _ _ _ => rfl, hcut _, rfl⟩

/-- The registers and the record that the driver leaves behind, from the state after the edges. -/
def State.driven (s : State) (n : Nat) : State :=
  (((s.setFlag FD_DO_CMD n (s.doRow n).2).setFlag FD_DO_ON n (s.doRow n).2).wr FD_DO_ROW n (s.doRow n).1).setFlag FD_DO_FORCED n
    (decide (n < 24) && s.rd UM_OWN_OWNER n == 0x73)

/-- The row's number fits its field. -/
theorem State.doRow_lt : (s.doRow n).1 < 16 := by
  have hcmd : (s.doCmd n).1 < 16 := by
    unfold State.doCmd
    dsimp only
    repeat' split
    all_goals simp
  unfold State.doRow
  dsimp only
  repeat' split
  any_goals exact hcmd
  all_goals simp

theorem State.driven_fd (s : State) (n : Nat) : (s.driven n).fd = s.fd := by
  unfold State.driven
  rw [State.setFlag_fd, State.wr_fd, State.setFlag_fd, State.setFlag_fd]

/-- The driver's registers. -/
theorem State.driven_effect (hi : s.Inv) : (s.driven n).Inv ∧ (s.driven n).flag FD_DO_ON n = (s.doRow n).2 ∧
    (s.driven n).rd FD_DO_ROW n = (s.doRow n).1 ∧
    ∀ g : Field, g.off driverFields = true → ∀ j, (s.driven n).rd g j = s.rd g j := by
  have h1 : (s.setFlag FD_DO_CMD n (s.doRow n).2).Inv := State.setFlag_inv hi _ _ _
  have h2 : ((s.setFlag FD_DO_CMD n (s.doRow n).2).setFlag FD_DO_ON n (s.doRow n).2).Inv := State.setFlag_inv h1 _ _ _
  have h3 := State.wr_inv h2 FD_DO_ROW n (s.doRow n).1
  have hon := State.flag_setFlag_same h1 (f := FD_DO_ON) rfl n (s.doRow n).2
  have hrow := State.rd_wr_same h2 (f := FD_DO_ROW) rfl n (s.doRow n).1
  rw [Nat.mod_eq_of_lt (show (s.doRow n).1 < 2 ^ (FD_DO_ROW.hi + 1 - FD_DO_ROW.lo) from State.doRow_lt)] at hrow
  refine ⟨State.setFlag_inv h3 _ _ _, ?_, ?_, fun g hg j => ?_⟩
  · refine Eq.trans (congrArg (· != 0) ?_) hon
    exact (State.rdk_wrk_beside h3 (by decide) n n _).trans (State.rdk_wrk_beside h2 (by decide) n n _)
  · exact (State.rdk_wrk_beside h3 (by decide) n n _).trans hrow
  · have hmem : ∀ f, f ∈ driverFields → f.beside g 0 0 = true := fun f hf => Field.off_mem hg hf
    exact (State.rdk_wrk_beside h3 (hmem _ (by simp [driverFields])) n j _).trans
      ((State.rdk_wrk_beside h2 (hmem _ (by simp [driverFields])) n j _).trans
      ((State.rdk_wrk_beside h1 (hmem _ (by simp [driverFields])) n j _).trans
      (State.rdk_wrk_beside hi (hmem _ (by simp [driverFields])) n j _)))

/-- The driver sets its registers, and when it switches a record of it. -/
def State.switched (s : State) (n now : Nat) : State :=
  if (s.doRow n).2 && !s.flag FD_DO_ON n then
    (s.driven n).setDout n { (s.driven n).dout n with onAt := now, limAt := none, owAt := none }
  else if s.flag FD_DO_ON n && !(s.doRow n).2 then
    (s.driven n).setDout n { (s.driven n).dout n with offAt := now, limAt := none, owAt := none, scsAt := none }
  else s.driven n

theorem State.doDrive_eq : s.doDrive n = (s.olEdges n).switched n s.elapsed := rfl

theorem State.switched_effect (hs : s.OutsGood) (now : Nat) : (∀ g j, (s.switched n now).rd g j = (s.driven n).rd g j) ∧
    (s.dout n).Alike ((s.switched n now).dout n) ∧ ((s.switched n now).dout n).cut = (s.dout n).cut ∧
    (s.switched n now).OutsGood ∧ (s.switched n now).fd = { s.fd with dos := (s.switched n now).fd.dos } := by
  have hgood : (s.driven n).OutsGood := ⟨(State.driven_effect hs.1).1, (s.driven_fd n).symm ▸ hs.2⟩
  have hfd := s.driven_fd n
  unfold State.switched
  generalize s.driven n = y at hgood hfd
  have hdout : y.dout n = s.dout n := congrArg (fun d : FdSt => mget (fun _ => DoSt.init) d.dos n) hfd
  have hput : ∀ x, (y.dout n).Alike x → x.cut = (y.dout n).cut → (∀ g j, (y.setDout n x).rd g j = y.rd g j) ∧
      (s.dout n).Alike ((y.setDout n x).dout n) ∧ ((y.setDout n x).dout n).cut = (s.dout n).cut ∧
      (y.setDout n x).OutsGood ∧ (y.setDout n x).fd = { s.fd with dos := (y.setDout n x).fd.dos } := by
    intro x hx hcut
    rw [State.setDout_dout hgood, ← hdout]
    exact ⟨fun _ _ => y.setDout_rd n x _ _, hx, hcut, State.setDout_good hgood x, (y.setDout_fd n x).trans (by rw [hfd])⟩
  split
  · exact hput _ ⟨⟨rfl, rfl, rfl, rfl, rfl⟩, rfl, rfl, rfl, rfl⟩ rfl
  · split
    · exact hput _ ⟨⟨rfl, rfl, rfl, rfl, rfl⟩, rfl, rfl, rfl, rfl⟩ rfl
    · exact ⟨fun _ _ => rfl, hdout ▸ .refl _, congrArg DoSt.cut hdout, hgood, by rw [hfd]⟩

theorem State.driven_rd (hs : s.Inv) {g : Field} (hg : g.off driverFields = true) (j : Nat) : (s.driven n).rd g j = s.rd g j :=
  (State.driven_effect hs).2.2.2 g hg j

/-! One output's driver. -/

/-- Held off before its edges, an output is driven off. -/
theorem State.doDrive_heldOff (hs : s.OutsGood) (h : s.heldOff n) : (s.doDrive n).flag FD_DO_ON n = false := by
  obtain ⟨hy, -, hrd, hcut, hfd⟩ := State.olEdges_left (n := n) hs
  have hheld : (s.olEdges n).heldOff n := by
    refine h.imp (fun h => hcut.trans h) (.imp (fun h => ?_) fun h => ⟨h.1, ?_⟩)
    · exact (congrArg (· != 0) (hrd FD_DO_OL_T rfl rfl n)).trans h
    · rw [hfd]
      exact h.2
  rw [State.doDrive_eq]
  exact (congrArg (· != 0) ((State.switched_effect hy _).1 FD_DO_ON n)).trans ((State.driven_effect hy.1).2.1.trans hheld.doRow)

/-- An output with no overload released now takes its row; its record and its other registers rule it as before. -/
theorem State.doDrive_quiet (hs : s.OutsGood) (hq : s.olQuiet n) : (s.doDrive n).flag FD_DO_ON n = (s.doRow n).2 ∧
    (s.doDrive n).rd FD_DO_ROW n = (s.doRow n).1 ∧ (s.dout n).Alike ((s.doDrive n).dout n) ∧
    ((s.doDrive n).dout n).cut = (s.dout n).cut ∧
    ∀ g : Field, g.off driverFields = true → ∀ j, (s.doDrive n).rd g j = s.rd g j := by
  obtain ⟨hy, hcommands, hcut, hrd⟩ : (s.olEdges n).OutsGood ∧ s.Commands n (s.olEdges n) ∧ ((s.olEdges n).dout n).cut = (s.dout n).cut ∧
      ∀ g j, (s.olEdges n).rd g j = s.rd g j := by
    rcases State.olEdges_quiet hs hq with h | h
    · rw [h]
      exact ⟨hs, ⟨⟨fun _ _ _ _ _ => rfl, rfl, rfl, rfl, fun _ => rfl, fun _ => rfl⟩, .refl _, rfl⟩, rfl, fun _ _ => rfl⟩
    · rw [h]
      refine ⟨State.setDout_good hs _, State.setDout_commands hs ⟨⟨rfl, rfl, rfl, rfl, rfl⟩, rfl, rfl, rfl, rfl⟩, ?_, fun g j => s.setDout_rd n _ g j⟩
      exact (congrArg DoSt.cut (State.setDout_dout (x := { s.dout n with flp := s.tripDrives (n - 24) }) hs) :)
  obtain ⟨hinv, hon, hrow, hkept⟩ := State.driven_effect (n := n) hy.1
  obtain ⟨hleft, halike, hcut', -, -⟩ := State.switched_effect hy s.elapsed
  rw [State.doDrive_eq, ← hcommands.doRow hcut]
  exact ⟨(congrArg (· != 0) (hleft FD_DO_ON n)).trans hon, (hleft FD_DO_ROW n).trans hrow, hcommands.alike.trans halike, hcut'.trans hcut,
    fun g hg j => (hleft g j).trans ((hkept g hg j).trans (hrd g j))⟩

/-- In any case the driver leaves the registers but its own and the overload's, the cut-off, and the rest of the die. -/
theorem State.doDrive_left (hs : s.OutsGood) : (s.doDrive n).OutsGood ∧
    (∀ g : Field, g.unit = 0x38 → g.off (driverFields ++ [FD_DO_OL]) = true → ∀ j, (s.doDrive n).rd g j = s.rd g j) ∧
    ((s.doDrive n).dout n).cut = (s.dout n).cut ∧ (s.doDrive n).fd = { s.fd with dos := (s.doDrive n).fd.dos } := by
  obtain ⟨hy, -, hrd, hcut, hfd⟩ := State.olEdges_left (n := n) hs
  obtain ⟨hleft, -, hcut', hgood, hfd'⟩ := State.switched_effect hy s.elapsed
  rw [State.doDrive_eq]
  refine ⟨hgood, fun g hu hg j => ?_, hcut'.trans hcut, ?_⟩
  · have hdriver : g.off driverFields = true := Field.off_mono (List.subset_append_left _ _) hg
    have hol : g.off [FD_DO_OL] = true := Field.off_mono (List.subset_append_right _ _) hg
    exact (hleft g j).trans ((State.driven_rd hy.1 hdriver j).trans (hrd g hu hol j))
  · rw [hfd', hfd]

/-! Every output's driver. -/

/-- The supply cut-off under way switches outputs off, and leaves all else of them. -/
structure State.CutKept (n : Nat) (s t : State) : Prop where
  good : t.OutsGood
  rd : ∀ g : Field, g.unit = 0x38 → g.off cutFields = true → ∀ j, (g.grp % 256 = 0x20 → j = n) → t.rd g j = s.rd g j
  alike : (s.dout n).Alike (t.dout n)
  cut : (s.dout n).cut = true → (t.dout n).cut = true
  fd : t.fd = { s.fd with dos := t.fd.dos, ntf := t.fd.ntf, cut := t.fd.cut }
  kept : Moves outputKinds s t

theorem State.CutKept.refl (hs : s.OutsGood) : s.CutKept n s :=
  ⟨hs, fun _ _ _ _ _ => rfl, .refl _, id, rfl, .refl⟩

theorem State.CutKept.trans {u : State} (h : s.CutKept n t) (h' : t.CutKept n u) : s.CutKept n u where
  good := h'.good
  rd g hu hg j hj := (h'.rd g hu hg j hj).trans (h.rd g hu hg j hj)
  alike := h.alike.trans h'.alike
  cut hc := h'.cut (h.cut hc)
  fd := by rw [h'.fd, h.fd]
  kept := h.kept.trans h'.kept

theorem State.OutSame.cutKept (h : s.OutSame cutFields n t) : s.CutKept n t :=
  ⟨h.good, h.rd, h.dout ▸ .refl _, fun hc => (congrArg DoSt.cut h.dout).trans hc, by
    rw [h.fd], h.kept⟩

/-- An output that a cut-off switches off. -/
def State.cutOff (s : State) (k : Nat) : State :=
  if s.flag FD_DO_ON k then (s.setDout k { s.dout k with cut := true }).doFlag FD_DO_UV_OFF k 0 1
  else s.setDout k { s.dout k with cut := true }

theorem State.cutOff_kept (hs : s.OutsGood) (k : Nat) : s.CutKept n (s.cutOff k) := by
  have hset : s.CutKept n (s.setDout k { s.dout k with cut := true }) := by
    by_cases hk : n = k
    · subst hk
      have hget := State.setDout_dout (n := n) (x := { s.dout n with cut := true }) hs
      exact ⟨State.setDout_good hs _, fun g _ _ j _ => s.setDout_rd n _ g j, by rw [hget]; exact ⟨⟨rfl, rfl, rfl, rfl, rfl⟩, rfl, rfl, rfl, rfl⟩,
        fun _ => (congrArg DoSt.cut hget :), by
          rw [State.setDout_fd], State.setDout_moves.mono rfl⟩
    · exact (State.outKept_setDout hk s _ hs).cutKept
  unfold State.cutOff
  split
  · refine hset.trans (State.OutSame.cutKept ?_)
    exact State.outKept_doFlag ⟨rfl, rfl, .inl (by decide)⟩ ⟨rfl, rfl, .inl (by decide)⟩ _ 0 1 hset.good
  · exact hset

/-- The slots of a cut-off: it is over, its next slot is still to come, or an output is switched off and the next slot follows. -/
theorem State.cutSlots_succ {t0 mv k m fuel : Nat} (h : s.fd.cut = some (t0, mv, k, m)) : s.cutSlots (fuel + 1) =
    if k = 32 then State.stateRec { s with fd := { s.fd with cut := none } } 0x38 0x02 0 m mv 0 true
    else if s.elapsed < t0 + 4000 * k then s
    else State.cutSlots { s.cutOff k with fd := { (s.cutOff k).fd with
      cut := some (t0, mv, k + 1, m + b2n (s.flag FD_DO_ON k) * 2 ^ k) } } fuel := by
  conv_lhs => unfold State.cutSlots
  split
  · next hnone => exact absurd (hnone.symm.trans h) (by simp)
  · next t' mv' k' m' hsome =>
    obtain ⟨rfl, rfl, rfl, rfl⟩ : t' = t0 ∧ mv' = mv ∧ k' = k ∧ m' = m := by simpa using hsome.symm.trans h
    rfl

theorem State.cutSlots_none {fuel : Nat} (h : s.fd.cut = none) : s.cutSlots fuel = s := by
  cases fuel with
  | zero => rfl
  | succ fuel =>
    unfold State.cutSlots
    rw [h]

theorem State.cutSlots_kept : ∀ (fuel : Nat) {s : State}, s.OutsGood → s.CutKept n (s.cutSlots fuel)
  | 0, _, hs => .refl hs
  | fuel + 1, s, hs => by
    match hcut : s.fd.cut with
    | none =>
      rw [State.cutSlots_none hcut]
      exact .refl hs
    | some (t0, mv, k, m) =>
      have hput : ∀ (y : State) (c : Option (Nat × Nat × Nat × Nat)), s.CutKept n y →
          s.CutKept n { y with fd := { y.fd with cut := c } } := fun y c h =>
        ⟨h.good, h.rd, h.alike, h.cut, by rw [h.fd], h.kept.trans (.fd .refl rfl)⟩
      rw [State.cutSlots_succ hcut]
      split
      · have hended := hput s none (.refl hs)
        refine hended.trans (State.OutSame.cutKept (State.outKept_told State.stateRec_moves rfl rfl (fun hi => ?_) hended.good))
        rw [← State.stateRec_moves.keep hi .fd rfl]
      · split
        · exact .refl hs
        · have hnext := hput (s.cutOff k) (some (t0, mv, k + 1, m + b2n (s.flag FD_DO_ON k) * 2 ^ k)) (State.cutOff_kept hs k)
          exact hnext.trans (State.cutSlots_kept fuel hnext.good)

/-- A pass over the outputs runs each output's step once, between steps that leave the output alone. -/
theorem State.outPass {f : State → Nat → State} (hother : ∀ y m, m < 65536 → m ≠ n → State.OutKept [] n y (f y m))
    (hgood : ∀ y, y.OutsGood → (f y n).OutsGood) : ∀ (l : List Nat), (∀ m, m ∈ l → m < 65536) → l.Nodup → n ∈ l → ∀ {s : State},
    s.OutsGood → ∃ y, s.OutSame [] n y ∧ (f y n).OutSame [] n (l.foldl f s)
  | m :: l, hl, hd, hn, s, hs => by
    have hl' : ∀ k, k ∈ l → k < 65536 := fun k hk => hl k (List.mem_cons_of_mem m hk)
    obtain ⟨hm, hd'⟩ := List.nodup_cons.1 hd
    by_cases hnm : m = n
    · subst hnm
      refine ⟨s, State.OutKept.refl s hs, State.OutKept.foldl l (fun y k hk => ?_) (f s m) (hgood s hs)⟩
      exact hother y k (hl' k hk) fun h => hm (h ▸ hk)
    · have hn' : n ∈ l := (List.mem_cons.1 hn).resolve_left fun h => hnm h.symm
      have hfirst := hother s m (hl m List.mem_cons_self) hnm hs
      obtain ⟨y, hy, hrest⟩ := State.outPass hother hgood l hl' hd' hn' hfirst.good
      exact ⟨y, hfirst.trans hy, hrest⟩

theorem State.fdDrive_pass (hs : s.OutsGood) (hn : n < 32) :
    ∃ y, (s.cutSlots 34).OutSame [] n y ∧ (y.doDrive n).OutSame [] n s.fdDrive := by
  have hslots := (State.cutSlots_kept (n := n) 34 hs).good
  have hgood : ∀ y : State, y.OutsGood → (y.doDrive n).OutsGood := fun y hy => (State.doDrive_left hy).1
  unfold State.fdDrive
  generalize s.cutSlots 34 = c at hslots
  refine State.outPass (f := State.doDrive) (fun y m hm hne => State.outKept_doDrive ?_ y) hgood (List.range 32) (fun m hm => ?_)
    List.nodup_range (List.mem_range.2 hn) hslots
  · rw [Nat.mod_eq_of_lt hm, Nat.mod_eq_of_lt (by omega)]
    exact hne.symm
  · have := List.mem_range.1 hm
    omega

/-- The cut-off's slots leave what an output's command depends on. -/
theorem State.CutKept.commands (h : s.CutKept n t) (hi : s.Inv) : s.Commands n t := by
  obtain ⟨helapsed, hvalue, htrips⟩ := h.kept.commands hi
  refine ⟨⟨fun g hu hg => h.rd g hu (Field.off_mono ?_ hg), by rw [h.fd], by rw [h.fd], helapsed, hvalue, htrips⟩, h.alike, h.rd FD_DO_RF rfl rfl n fun _ => rfl⟩
  exact List.subset_append_of_subset_left _ (List.subset_append_right _ _)

theorem State.Commands.heldOff (h : s.Commands n t) (hcut : (s.dout n).cut = true → (t.dout n).cut = true) (hs : s.heldOff n) :
    t.heldOff n := by
  refine hs.imp hcut (.imp (fun h' => ?_) fun h' => ⟨h'.1, by rw [h.sfOff]; exact h'.2⟩)
  exact (h.flag (g := FD_DO_OL_T) rfl rfl fun _ => rfl).trans h'

theorem State.Commands.olQuiet (h : s.Commands n t) (hs : s.olQuiet n) : t.olQuiet n := by
  unfold State.olQuiet
  rw [h.alike.latched, h.alike.wait, h.doCmd]
  exact hs

/-- The registers that `fdDrive` may write at an output. -/
def driveFields : List Field := driverFields ++ cutFields ++ [FD_DO_OL]

/-- In any case `fdDrive` leaves the registers but those of drivers and cut-offs, and the rest of the field die but the cut-off's
progress. -/
theorem State.fdDrive_left (hs : s.OutsGood) (hn : n < 32) : s.fdDrive.OutsGood ∧ Moves outputKinds s s.fdDrive ∧
    (∀ g : Field, g.unit = 0x38 → g.off driveFields = true → ∀ j, (g.grp % 256 = 0x20 → j = n) → s.fdDrive.rd g j = s.rd g j) ∧
    ((s.dout n).cut = true → (s.fdDrive.dout n).cut = true) ∧
    s.fdDrive.fd = { s.fd with dos := s.fdDrive.fd.dos, ntf := s.fdDrive.fd.ntf, cut := (s.cutSlots 34).fd.cut } := by
  obtain ⟨y, hy, hrest⟩ := State.fdDrive_pass hs hn
  have hslots := State.cutSlots_kept (n := n) 34 hs
  obtain ⟨-, hrd, hcut, hfd⟩ := State.doDrive_left (n := n) hy.good
  refine ⟨hrest.good, State.fdDrive_moves, fun g hu hg j hj => ?_, fun hc => ?_, ?_⟩
  · have hdriver : g.off (driverFields ++ [FD_DO_OL]) = true := Field.off_mono (by simp [driveFields, driverFields]) hg
    have hcuts : g.off cutFields = true := Field.off_mono (by simp [driveFields]) hg
    rw [hrest.rd g hu rfl j hj, hrd g hu hdriver, hy.rd g hu rfl j hj, hslots.rd g hu hcuts j hj]
  · rw [hrest.dout, hcut, hy.dout]
    exact hslots.cut hc
  · rw [hrest.fd, hfd, hy.fd, hslots.fd]

/-- Held off, an output is off after `fdDrive`. -/
theorem State.fdDrive_heldOff (hs : s.OutsGood) (hn : n < 32) (h : s.heldOff n) : s.fdDrive.flag FD_DO_ON n = false := by
  obtain ⟨y, hy, hrest⟩ := State.fdDrive_pass hs hn
  have hslots := State.cutSlots_kept (n := n) 34 hs
  have hheld := (hslots.commands hs.1).heldOff hslots.cut h
  have hheld' := (hy.commands hslots.good.1).heldOff (fun hc => (congrArg DoSt.cut hy.dout).trans hc) hheld
  exact (hrest.flag (g := FD_DO_ON) rfl rfl fun _ => rfl).trans (State.doDrive_heldOff hy.good hheld')

/-- With no overload released now, an output's record rules it as before, its overload reads as before, and it is off if it is
overloaded or not commanded. -/
theorem State.fdDrive_quiet (hs : s.OutsGood) (hn : n < 32) (hq : s.olQuiet n) :
    (s.dout n).Alike (s.fdDrive.dout n) ∧ s.fdDrive.rd FD_DO_OL n = s.rd FD_DO_OL n ∧
      ((s.dout n).latched = true ∨ (s.dout n).wait = true ∨ (s.doCmd n).2 = false → s.fdDrive.flag FD_DO_ON n = false) := by
  obtain ⟨y, hy, hrest⟩ := State.fdDrive_pass hs hn
  have hslots := State.cutSlots_kept (n := n) 34 hs
  have hcommands := (hslots.commands hs.1).trans (hy.commands hslots.good.1)
  obtain ⟨hon, -, halike, -, hrd⟩ := State.doDrive_quiet hy.good (hcommands.olQuiet hq)
  refine ⟨(hcommands.alike.trans halike).trans (hrest.dout ▸ .refl _), ?_, fun h => ?_⟩
  · rw [hrest.rd FD_DO_OL rfl rfl n fun _ => rfl, hrd FD_DO_OL rfl, hy.rd FD_DO_OL rfl rfl n fun _ => rfl,
      hslots.rd FD_DO_OL rfl rfl n fun _ => rfl]
  · refine (hrest.flag (g := FD_DO_ON) rfl rfl fun _ => rfl).trans (hon.trans (State.doRow_uncommanded ?_))
    rw [hcommands.alike.latched, hcommands.alike.wait, hcommands.doCmd]
    exact h

/-- With no cut-off under way either, the output takes its row. -/
theorem State.fdDrive_row (hs : s.OutsGood) (hn : n < 32) (hq : s.olQuiet n) (hcut : s.fd.cut = none) :
    s.fdDrive.rd FD_DO_ROW n = (s.doRow n).1 ∧ s.fdDrive.flag FD_DO_ON n = (s.doRow n).2 ∧
      (s.fdDrive.dout n).cut = (s.dout n).cut ∧ s.fdDrive.rd FD_DO_UV_OFF n = s.rd FD_DO_UV_OFF n := by
  obtain ⟨y, hy, hrest⟩ := State.fdDrive_pass hs hn
  rw [State.cutSlots_none hcut] at hy
  have hcommands := hy.commands hs.1
  obtain ⟨hon, hrow, -, hcut', hrd⟩ := State.doDrive_quiet hy.good (hcommands.olQuiet hq)
  have hsame := hcommands.doRow (congrArg DoSt.cut hy.dout)
  refine ⟨?_, ?_, ?_, ?_⟩
  · rw [hrest.rd FD_DO_ROW rfl rfl n fun _ => rfl, hrow, hsame]
  · rw [hrest.flag (g := FD_DO_ON) rfl rfl fun _ => rfl, hon, hsame]
  · rw [hrest.dout, hcut', hy.dout]
  · rw [hrest.rd FD_DO_UV_OFF rfl rfl n fun _ => rfl, hrd FD_DO_UV_OFF rfl, hy.rd FD_DO_UV_OFF rfl rfl n fun _ => rfl]

/-- An output that nothing holds off takes the row of its command. -/
theorem State.fdDrive_free (hs : s.OutsGood) (hn : n < 32) (hfree : s.RowFree n) :
    s.fdDrive.rd FD_DO_ROW n = (s.doCmd n).1 ∧ s.fdDrive.flag FD_DO_ON n = (s.doCmd n).2 := by
  obtain ⟨hcut, -, -, -, -, -, hlatched, hwait⟩ := id hfree
  obtain ⟨hrow, hon, -⟩ := State.fdDrive_row hs hn (.inr ⟨hlatched, hwait⟩) hcut
  rw [← State.RowFree.doRow hfree]
  exact ⟨hrow, hon⟩

end

end Sys2Proof.Machine
end

