-- ==== Sys2Proof/Proofs/OutputFaults.lean ====
section
/-! Overload, thermal shutdown, the off-state check and dark test pulses of field outputs (R424, R426, R427). -/

namespace Sys2Proof.Machine

open Sys2Proof

section
variable {s : State} {n : Nat}

/-! In no SENTINEL transition an event of the field die wakes nothing but the latch of causes (R43). -/

theorem State.wakeBy_out (h : s.mo.sent = .out) (src : WakeSrc) : Moves 0x200000000 s (s.wakeBy src) := by
  have hcause : Moves 0x200000000 s (s.wakeCause src) := State.wakeCause_moves
  have hout : (s.wakeCause src).mo.sent = .out := h
  unfold State.wakeBy
  split
  · exact .refl
  · dsimp only
    rw [hout]
    exact hcause

theorem nextOf_next (s t : State) : nextOf s (.next t) = t := rfl

/-- A command of the field die that may wake: what the next state keeps of the state before the wake. -/
theorem exec_wakes {c : Instr} {y : State} {k : Nat} (hgo : exec c s = .next (s.fieldWake y)) (hi : s.Inv) (hsent : s.mo.sent = .out)
    (hkept : Moves k s y) (hmo : k.testBit Part.mo.bit = false) :
    ∃ t, exec c s = .next t ∧ (∀ f : Field, f.unit = 0x38 → ∀ j, t.rd f j = y.rd f j) ∧ t.fd = y.fd ∧
      ∀ e, e ∈ y.ec.arrivals → e ∈ t.ec.arrivals := by
  have hout : y.mo.sent = .out := by rw [← hkept.keep hi .mo hmo]; exact hsent
  have hy := hkept.inv hi
  have hwake : Moves 0x200000000 y (s.fieldWake y) := .ite (State.wakeBy_out hout _) .refl
  exact ⟨_, hgo, fun f hf j => hwake.rd hy (by rw [hf]; rfl) j, (hwake.keep hy .fd rfl).symm, fun e he => hwake.raised hy rfl he⟩

/-- The tables of the field die in canonical form. -/
theorem State.fieldMapsOk_iff : s.fieldMapsOk = true ↔ mapOk (fun _ => DiSt.init0) s.fd.di = true ∧
    mapOk (fun _ => DoSt.init) s.fd.dos = true ∧ mapOk (fun _ => false) s.fd.sfOff = true ∧ mapOk (fun _ => false) s.fd.sfPulse = true ∧
    mapOk (fun _ => (0, 0)) s.fd.ntf = true ∧ mapOk (fun _ => SfFn.init) s.sf.fn = true ∧ mapOk (fun _ => 0) s.sf.checks = true ∧
    mapOk (fun _ => 0) s.sf.dark = true ∧ mapOk (fun _ => 0) s.sf.pulseSec = true ∧ mapOk (fun _ => false) s.um.sfOff = true := by
  simp only [State.fieldMapsOk, Bool.and_eq_true, and_assoc]

theorem State.outsGood (hi : s.Inv) (hmaps : s.fieldMapsOk = true) : s.OutsGood := ⟨hi, (State.fieldMapsOk_iff.1 hmaps).2.1⟩

/-! Conditions of Table 15.5. -/

/-- A condition that arises, or stood already, reads 1. -/
theorem State.doFlag_flag (hs : s.OutsGood) {f : Field} (hf : f.fits = true) (hu : f.unit = 0x38) (hseen : FD_DO_SEEN.beside f 0 0 = true)
    (m bit cls : Nat) : (s.doFlag f m bit cls).flag f m = true := by
  unfold State.doFlag
  split
  · assumption
  · have h1 := State.wr_inv hs.1 f m 1
    have h2 : ((s.wr f m 1).doSeen m bit).Inv := State.wr_inv h1 _ _ _
    have hset := State.flag_wr_one hs.1 hf m
    have hkept : ((s.wr f m 1).doSeen m bit).rd f m = (s.wr f m 1).rd f m := State.rdk_wrk_beside h1 hseen m m _
    have htold : (((s.wr f m 1).doSeen m bit).doDiag m cls).rd f m = ((s.wr f m 1).doSeen m bit).rd f m :=
      State.doDiag_moves.rd h2 (by rw [hu]; rfl) m
    exact (congrArg (· != 0) (htold.trans hkept)).trans hset

theorem State.outKept_doFlag_here {f : Field} (hf : f.fits = true) (hu : f.unit = 0x38) (s : State) (bit cls : Nat) :
    State.OutKept [f, FD_DO_SEEN] n s (s.doFlag f n bit cls) :=
  State.outKept_doFlag ⟨hu, hf, .inl List.mem_cons_self⟩ ⟨rfl, rfl, .inl (List.mem_cons_of_mem _ List.mem_cons_self)⟩ s bit cls

/-! Overload (R424). -/

/-- The channel's record when it switches off for current limit. -/
def DoSt.overloaded (x : DoSt) (latch : Bool) : DoSt := { x with latched := latch, wait := !latch, limAt := none }

/-- The overload shown and counted. -/
def State.olShown (s : State) (n : Nat) (latch : Bool) : State :=
  ((s.setDout n ((s.dout n).overloaded latch)).bump FD_DO_OL_COUNT n 1).doFlag FD_DO_OL n 7 2

theorem State.overload_eq : s.overload n = (s.olShown n (!s.flag FD_DO_OL_RETRY n || decide (3 ≤ (s.dout n).retries))).fdDrive := rfl

theorem State.olShown_effect (hs : s.OutsGood) (latch : Bool) : (s.olShown n latch).OutsGood ∧ Moves outputKinds s (s.olShown n latch) ∧
    (s.olShown n latch).dout n = (s.dout n).overloaded latch ∧ (s.olShown n latch).flag FD_DO_OL n = true ∧
    (s.olShown n latch).rd FD_DO_OL_COUNT n = satAdd 65535 (s.rd FD_DO_OL_COUNT n) 1 ∧ s.RowInputs n (s.olShown n latch) := by
  have hset := State.setDout_good (n := n) hs ((s.dout n).overloaded latch)
  have hget := State.setDout_dout (n := n) (x := (s.dout n).overloaded latch) hs
  have hinputs := s.setDout_inputs n ((s.dout n).overloaded latch)
  have hmoves : Moves outputKinds s (s.setDout n ((s.dout n).overloaded latch)) := State.setDout_moves.mono rfl
  have hcount0 := s.setDout_rd n ((s.dout n).overloaded latch) FD_DO_OL_COUNT n
  unfold State.olShown
  generalize s.setDout n ((s.dout n).overloaded latch) = y at hset hget hinputs hmoves hcount0
  have hbump := State.outKept_bump (fs := [FD_DO_OL_COUNT]) (n := n) (m := n) (f := FD_DO_OL_COUNT) ⟨rfl, rfl, .inl List.mem_cons_self⟩ y 1 hset
  have hcount := State.rd_bump_same hset.1 (f := FD_DO_OL_COUNT) rfl n 1
  rw [hcount0] at hcount
  generalize y.bump FD_DO_OL_COUNT n 1 = z at hbump hcount
  have hflag := State.outKept_doFlag_here (n := n) (f := FD_DO_OL) rfl rfl z 7 2 hbump.good
  have hshown := State.doFlag_flag hbump.good (f := FD_DO_OL) rfl rfl (by decide) n 7 2
  refine ⟨hflag.good, (hmoves.trans hbump.kept).trans hflag.kept, (hflag.dout.trans hbump.dout).trans hget, hshown,
    (hflag.rd FD_DO_OL_COUNT rfl rfl n fun _ => rfl).trans hcount, hinputs.trans ?_⟩
  exact (hbump.inputs hset.1 (by decide)).trans (hflag.inputs hbump.good.1 (by decide))

theorem exec_overloadSwitchOff_due (hon : s.fieldOn = true) (hn : n < 24) {t0 : Nat} (hlit : s.flag FD_DO_ON n = true)
    (hlim : (s.dout n).limAt = some t0) (hdue : t0 + 80000 < s.elapsed) :
    exec (.overloadSwitchOff n) s = .next (s.fieldWake (s.overload n)) := by
  have hfield : fieldOverload n s = .next (s.overload n) := by
    unfold fieldOverload
    dsimp only
    rw [hlim]
    exact if_pos (by simp [hon, hlit, hn, show n < 32 by omega, hdue])
  show execOverloadSwitchOff n s = _
  unfold execOverloadSwitchOff
  rw [hfield, nextOf_next]

section overload
variable (hi : s.Inv) (hmaps : s.fieldMapsOk = true) (hsent : s.mo.sent = .out) (hon : s.fieldOn = true) (hn : n < 24) {t0 : Nat}
  (hlit : s.flag FD_DO_ON n = true) (hlim : (s.dout n).limAt = some t0) (hdue : t0 + 80000 < s.elapsed)
include hi hmaps hsent hon hn hlit hlim hdue

/-- The channel latches, or waits for its retry while it is still commanded on. -/
theorem exec_overloadSwitchOff_effect {latch : Bool} (hlatch : (!s.flag FD_DO_OL_RETRY n || decide (3 ≤ (s.dout n).retries)) = latch)
    (hcmd : latch = true ∨ (s.doCmd n).2 = true) :
    ∃ t, exec (.overloadSwitchOff n) s = .next t ∧ (t.dout n).latched = latch ∧ (t.dout n).wait = !latch ∧ t.flag FD_DO_OL n = true ∧
      t.flag FD_DO_ON n = false ∧ t.rd FD_DO_OL_COUNT n = satAdd 65535 (s.rd FD_DO_OL_COUNT n) 1 := by
  obtain ⟨hgood, hmoves, hdout, hshown, hcount, hinputs⟩ := State.olShown_effect (n := n) (State.outsGood hi hmaps) latch
  have hgo := exec_overloadSwitchOff_due hon hn hlit hlim hdue
  rw [State.overload_eq, hlatch] at hgo
  have hcommand : ((s.olShown n latch).doCmd n) = s.doCmd n := hinputs.doCmd (by rw [hdout]; exact ⟨rfl, rfl, rfl, rfl, rfl⟩)
  have hquiet : (s.olShown n latch).olQuiet n := by
    refine .inl ⟨hn, fun hwait => ?_⟩
    rw [hdout] at hwait
    have hno : latch = false := by simpa [DoSt.overloaded] using hwait
    rw [hcommand]
    exact hcmd.resolve_left (by simp [hno])
  obtain ⟨halike, hol, hoff⟩ := State.fdDrive_quiet hgood (by omega) hquiet
  obtain ⟨-, -, hrd, -⟩ := State.fdDrive_left hgood (n := n) (by omega)
  obtain ⟨t, ht, htrd, htfd, -⟩ := exec_wakes hgo hi hsent (hmoves.trans State.fdDrive_moves) rfl
  have htdout : t.dout n = (s.olShown n latch).fdDrive.dout n := by rw [State.dout, htfd, State.dout]
  refine ⟨t, ht, ?_, ?_, ?_, ?_, ?_⟩
  · rw [htdout, halike.latched, hdout]
    rfl
  · rw [htdout, halike.wait, hdout]
    rfl
  · exact (congrArg (· != 0) ((htrd FD_DO_OL rfl n).trans hol)).trans hshown
  · refine (congrArg (· != 0) (htrd FD_DO_ON rfl n)).trans (hoff ?_)
    rw [hdout]
    cases latch
    · exact .inr (.inl rfl)
    · exact .inl rfl
  · rw [htrd FD_DO_OL_COUNT rfl, hrd FD_DO_OL_COUNT rfl rfl n fun _ => rfl, hcount]

end overload

/-- A retry. -/
def State.retried (s : State) (n : Nat) : State :=
  (s.setDout n { s.dout n with wait := false, retries := (s.dout n).retries + 1 }).wr FD_DO_OL n (s.rd FD_DO_OL_T n)

theorem exec_overloadRetry_due (hon : s.fieldOn = true) (hn : n < 24) (hwait : (s.dout n).wait = true)
    (hdue : (s.dout n).offAt + 80000000 ≤ s.elapsed) (hcmd : (s.doCmd n).2 = true) :
    exec (.overloadRetry n) s = .next (s.retried n).fdDrive := by
  show execOverloadRetry n s = _
  exact if_pos (by simp [hon, hwait, hdue, hcmd, show n < 32 by omega])

/-- The registers after an output's record and its overload are rewritten. -/
theorem State.setDout_wr_ol (hs : s.OutsGood) (x : DoSt) (v : Nat) : let t := (s.setDout n x).wr FD_DO_OL n v
    t.OutsGood ∧ t.dout n = x ∧ s.RowInputs n t ∧ t.fd = { s.fd with dos := t.fd.dos } ∧ t.rd FD_DO_OL n = v % 2 ∧
      (∀ g : Field, g.off [FD_DO_OL] = true → ∀ j, t.rd g j = s.rd g j) := by
  have hset := State.setDout_good (n := n) hs x
  have hget := State.setDout_dout (n := n) (x := x) hs
  have hinputs := s.setDout_inputs n x
  have hrd := s.setDout_rd n x
  have hfd := s.setDout_fd n x
  intro t
  have hkept := State.outKept_wr (fs := [FD_DO_OL]) (n := n) (m := n) (f := FD_DO_OL) ⟨rfl, rfl, .inl List.mem_cons_self⟩ (s.setDout n x) v hset
  exact ⟨hkept.good, hkept.dout.trans hget, hinputs.trans (hkept.inputs hset.1 (by decide)), hfd,
    State.rd_wr_same hset.1 rfl n v, fun g hg j =>
      (State.rdk_wrk_beside hset.1 (Field.off_mem hg List.mem_cons_self) n j v).trans (hrd g j)⟩

theorem exec_overloadRetry_effect (hi : s.Inv) (hmaps : s.fieldMapsOk = true) (hon : s.fieldOn = true) (hn : n < 24)
    (hwait : (s.dout n).wait = true) (hlatched : (s.dout n).latched = false) (hdue : (s.dout n).offAt + 80000000 ≤ s.elapsed)
    (hcmd : (s.doCmd n).2 = true) :
    ∃ t, exec (.overloadRetry n) s = .next t ∧ (t.dout n).wait = false ∧ (t.dout n).retries = (s.dout n).retries + 1 ∧
      (s.fd.cut = none → (s.dout n).cut = false → s.flag FD_DO_OL_T n = false → s.flag FD_DO_RF n = false →
        (s.dout n).rfEnd ≤ s.elapsed → mget (fun _ => false) s.fd.sfOff n = false → t.flag FD_DO_ON n = true) := by
  obtain ⟨hgood, hdout, hinputs, hfd, -, hleft⟩ := State.setDout_wr_ol (n := n) (State.outsGood hi hmaps)
    { s.dout n with wait := false, retries := (s.dout n).retries + 1 } (s.rd FD_DO_OL_T n)
  have hgo := exec_overloadRetry_due hon hn hwait hdue hcmd
  unfold State.retried at hgo
  generalize (s.setDout n { s.dout n with wait := false, retries := (s.dout n).retries + 1 }).wr FD_DO_OL n (s.rd FD_DO_OL_T n) = y at *
  have hcommand : y.doCmd n = s.doCmd n := hinputs.doCmd (by rw [hdout]; exact ⟨rfl, rfl, rfl, rfl, rfl⟩)
  have hquiet : y.olQuiet n := .inr ⟨by rw [hdout]; exact hlatched, by rw [hdout]⟩
  obtain ⟨halike, -, -⟩ := State.fdDrive_quiet hgood (by omega) hquiet
  refine ⟨_, hgo, ?_, ?_, fun hcut hkeep hol hrf hend hsf => ?_⟩
  · rw [halike.wait, hdout]
  · rw [halike.retries, hdout]
  · have hfree : y.RowFree n := by
      refine ⟨by rw [hfd]; exact hcut, by rw [hdout]; exact hkeep, ?_, ?_, ?_, .inr (by rw [hfd]; exact hsf), by rw [hdout]; exact hlatched,
        by rw [hdout]⟩
      · exact (hinputs.flag (g := FD_DO_OL_T) rfl rfl fun _ => rfl).trans hol
      · exact (congrArg (· != 0) (hleft FD_DO_RF rfl n)).trans hrf
      · rw [hdout, hinputs.elapsed]
        exact hend
    obtain ⟨-, hlit, -⟩ := State.fdDrive_row hgood (by omega) hquiet (by rw [hfd]; exact hcut)
    rw [hlit, State.RowFree.doRow hfree, hcommand]
    exact hcmd

/-! Thermal shutdown and the release of overloads (R424). -/

/-- The shutdown shown and counted. -/
def State.hotShown (s : State) (n : Nat) : State :=
  let y := (s.wr FD_DO_OL_T n 1).bump FD_DO_OL_COUNT n 1
  if y.flag FD_DO_OL n then y.doDiag n 2 else y.doFlag FD_DO_OL n 7 2

theorem exec_thermalShutdown_hot (hon : s.fieldOn = true) (hn : n < 32) {temp : Int} (htemp : 150 < temp)
    (hold : s.flag FD_DO_OL_T n = false) : exec (.thermalShutdown n temp) s = .next (s.fieldWake (s.hotShown n).fdDrive) := by
  have hfield : fieldThermal n temp s = .next (s.hotShown n).fdDrive := by
    unfold fieldThermal
    rw [if_neg (by simp [hon, hn]), if_pos ⟨htemp, hold⟩]
    rfl
  show execThermalShutdown n temp s = _
  unfold execThermalShutdown
  rw [hfield, nextOf_next]

theorem exec_thermalShutdown_hot_effect (hi : s.Inv) (hmaps : s.fieldMapsOk = true) (hsent : s.mo.sent = .out) (hon : s.fieldOn = true)
    (hn : n < 32) {temp : Int} (htemp : 150 < temp) (hold : s.flag FD_DO_OL_T n = false) :
    ∃ t, exec (.thermalShutdown n temp) s = .next t ∧ t.flag FD_DO_OL_T n = true ∧ t.flag FD_DO_ON n = false := by
  have hgood := State.outsGood hi hmaps
  have hwr : s.OutSame [FD_DO_OL_T] n (s.wr FD_DO_OL_T n 1) := State.outKept_wr ⟨rfl, rfl, .inl List.mem_cons_self⟩ s 1 hgood
  have hset := State.flag_wr_one hi (f := FD_DO_OL_T) rfl n
  have hbump : State.OutSame [FD_DO_OL_COUNT] n (s.wr FD_DO_OL_T n 1) ((s.wr FD_DO_OL_T n 1).bump FD_DO_OL_COUNT n 1) :=
    State.outKept_bump ⟨rfl, rfl, .inl List.mem_cons_self⟩ _ 1 hwr.good
  have hshown : State.OutSame [FD_DO_OL, FD_DO_SEEN] n ((s.wr FD_DO_OL_T n 1).bump FD_DO_OL_COUNT n 1) (s.hotShown n) :=
    State.OutKept.ite (State.outKept_doDiag _ n 2) (State.outKept_doFlag_here rfl rfl _ 7 2) hbump.good
  have hhot : (s.hotShown n).flag FD_DO_OL_T n = true :=
    (hshown.flag (g := FD_DO_OL_T) rfl rfl fun _ => rfl).trans ((hbump.flag (g := FD_DO_OL_T) rfl rfl fun _ => rfl).trans hset)
  obtain ⟨-, -, hrd, -⟩ := State.fdDrive_left hshown.good hn
  obtain ⟨t, ht, htrd, -⟩ := exec_wakes (exec_thermalShutdown_hot hon hn htemp hold) hi hsent
    (((hwr.kept.trans hbump.kept).trans hshown.kept).trans State.fdDrive_moves) rfl
  refine ⟨t, ht, ?_, ?_⟩
  · exact (congrArg (· != 0) ((htrd FD_DO_OL_T rfl n).trans (hrd FD_DO_OL_T rfl rfl n fun _ => rfl))).trans hhot
  · exact (congrArg (· != 0) (htrd FD_DO_ON rfl n)).trans (State.fdDrive_heldOff hshown.good hn (.inr (.inl hhot)))

/-- A channel cool again, with no other overload. -/
def State.cooled (s : State) (n : Nat) : State :=
  (s.wr FD_DO_OL_T n 0).wr FD_DO_OL n (b2n ((s.dout n).latched || (s.dout n).wait))

theorem exec_thermalShutdown_cool (hon : s.fieldOn = true) (hn : n < 32) {temp : Int} (htemp : temp < 135)
    (hold : s.flag FD_DO_OL_T n = true) : exec (.thermalShutdown n temp) s = .next (s.fieldWake (s.cooled n).fdDrive) := by
  have hfield : fieldThermal n temp s = .next (s.cooled n).fdDrive := by
    unfold fieldThermal
    rw [if_neg (by simp [hon, hn]), if_neg (fun h => by omega), if_pos ⟨htemp, hold⟩]
    rfl
  show execThermalShutdown n temp s = _
  unfold execThermalShutdown
  rw [hfield, nextOf_next]

theorem exec_thermalShutdown_cool_effect (hi : s.Inv) (hmaps : s.fieldMapsOk = true) (hsent : s.mo.sent = .out) (hon : s.fieldOn = true)
    (hn : n < 32) {temp : Int} (htemp : temp < 135) (hold : s.flag FD_DO_OL_T n = true) (hlatched : (s.dout n).latched = false)
    (hwait : (s.dout n).wait = false) :
    ∃ t, exec (.thermalShutdown n temp) s = .next t ∧ t.flag FD_DO_OL_T n = false ∧ t.flag FD_DO_OL n = false := by
  have hgood := State.outsGood hi hmaps
  have hwr : s.OutSame [FD_DO_OL_T] n (s.wr FD_DO_OL_T n 0) := State.outKept_wr ⟨rfl, rfl, .inl List.mem_cons_self⟩ s 0 hgood
  have hset := State.flag_wr_zero hi (f := FD_DO_OL_T) rfl n
  have hcool : State.OutSame [FD_DO_OL] n (s.wr FD_DO_OL_T n 0) (s.cooled n) := State.outKept_wr ⟨rfl, rfl, .inl List.mem_cons_self⟩ _ _ hwr.good
  have hol : (s.cooled n).flag FD_DO_OL n = false := by
    unfold State.cooled
    rw [hlatched, hwait]
    exact State.flag_wr_zero hwr.good.1 rfl n
  have hdout := hcool.dout.trans hwr.dout
  obtain ⟨-, hkept, -⟩ := State.fdDrive_quiet hcool.good hn (.inr ⟨by rw [hdout]; exact hlatched, by rw [hdout]; exact hwait⟩)
  obtain ⟨-, -, hrd, -⟩ := State.fdDrive_left hcool.good hn
  obtain ⟨t, ht, htrd, -⟩ := exec_wakes (exec_thermalShutdown_cool hon hn htemp hold) hi hsent
    ((hwr.kept.trans hcool.kept).trans State.fdDrive_moves) rfl
  refine ⟨t, ht, ?_, ?_⟩
  · exact (congrArg (· != 0) ((htrd FD_DO_OL_T rfl n).trans (hrd FD_DO_OL_T rfl rfl n fun _ => rfl))).trans
      ((hcool.flag (g := FD_DO_OL_T) rfl rfl fun _ => rfl).trans hset)
  · exact (congrArg (· != 0) ((htrd FD_DO_OL rfl n).trans hkept)).trans hol

theorem State.outsGood_olRelease (hs : s.OutsGood) : (s.olRelease n).OutsGood := by
  unfold State.olRelease
  dsimp only
  split
  · have hset := State.setDout_good (n := n) hs { s.dout n with latched := false, wait := false, retries := 0, limAt := none }
    exact ⟨State.wr_inv hset.1 _ _ _, hset.2⟩
  · exact hs

/-- A latched overload released. -/
theorem State.olRelease_latched (hs : s.OutsGood) (h : (s.dout n).latched = true) :
    ((s.olRelease n).dout n).latched = false ∧ ((s.olRelease n).dout n).wait = false ∧
      (s.olRelease n).rd FD_DO_OL n = s.rd FD_DO_OL_T n % 2 := by
  have hgo : s.olRelease n = (s.setDout n { s.dout n with latched := false, wait := false, retries := 0, limAt := none }).wr FD_DO_OL n
      (s.rd FD_DO_OL_T n) := if_pos (by rw [h]; rfl)
  obtain ⟨-, hdout, -, -, hol, -⟩ := State.setDout_wr_ol (n := n) hs { s.dout n with latched := false, wait := false, retries := 0, limAt := none }
    (s.rd FD_DO_OL_T n)
  rw [hgo, hdout]
  exact ⟨rfl, rfl, hol⟩

theorem exec_clrOl_effect (hi : s.Inv) (hmaps : s.fieldMapsOk = true) (hon : s.fieldOn = true) (hn : n < 32) {mask : W32}
    (hmask : natBit mask.toNat n = true) (hlatched : (s.dout n).latched = true) :
    ∃ t, exec (.clrOl mask) s = .next t ∧ (t.dout n).latched = false ∧ t.flag FD_DO_OL n = s.flag FD_DO_OL_T n := by
  have hgood := State.outsGood hi hmaps
  have hgo : exec (.clrOl mask) s = .next (s.clrOl mask.toNat) := (show execClrOl mask s = _ from if_pos hon)
  have hmem : n ∈ (List.range 32).filter (fun n => natBit mask.toNat n && (s.dout n).latched) :=
    List.mem_filter.2 ⟨List.mem_range.2 hn, by rw [hmask, hlatched]; rfl⟩
  obtain ⟨y, hy, hrest⟩ := State.outPass (n := n) (f := State.olRelease) (s := s)
    (fun y m hm hne => State.outKept_olRelease (by rw [Nat.mod_eq_of_lt hm, Nat.mod_eq_of_lt (by omega)]; exact hne.symm) y)
    (fun y hy => State.outsGood_olRelease hy) _ (fun m hm => by have := List.mem_range.1 (List.mem_filter.1 hm).1; omega)
    (List.nodup_range.filter _) hmem hgood
  obtain ⟨hl, hw, hol⟩ := State.olRelease_latched hy.good (by rw [hy.dout]; exact hlatched)
  obtain ⟨halike, hkept, -⟩ := State.fdDrive_quiet hrest.good hn (.inr ⟨by rw [hrest.dout]; exact hl, by rw [hrest.dout]; exact hw⟩)
  refine ⟨_, hgo, ?_, ?_⟩
  · exact halike.latched.trans ((congrArg DoSt.latched hrest.dout).trans hl)
  · have hsmall : s.rd FD_DO_OL_T n < 2 ^ 1 := natBits_lt _ 27 27
    have hread : (s.clrOl mask.toNat).rd FD_DO_OL n = s.rd FD_DO_OL_T n := by
      refine hkept.trans ((hrest.rd FD_DO_OL rfl rfl n fun _ => rfl).trans (hol.trans ?_))
      rw [hy.rd FD_DO_OL_T rfl rfl n fun _ => rfl]
      omega
    exact congrArg (· != 0) hread

/-! The off-state check (R426). -/

/-- The check's instant. -/
def State.offChecked (s : State) (n : Nat) : State := s.setDout n { s.dout n with checkAt := s.elapsed + 1 }

section check
variable (hon : s.fieldOn = true) (hn : n < 32) (hdark : s.flag FD_DO_ON n = false) (hdue : (s.dout n).offAt + 800000 ≤ s.elapsed)
  (hfirst : (s.dout n).checkAt = 0)
include hon hn hdark hdue hfirst

theorem exec_offStateCheck_shorted (test : Bool) :
    exec (.offStateCheck n true test) s = .next (s.fieldWake ((s.offChecked n).doFlag FD_DO_SCS n 4 1)) := by
  have hfield : fieldOffState n true test s = .next ((s.offChecked n).doFlag FD_DO_SCS n 4 1) := by
    unfold fieldOffState
    dsimp only
    rw [if_pos (by simp [hon, hn, hdark, hdue, hfirst])]
    rfl
  show execOffStateCheck n true test s = _
  unfold execOffStateCheck
  rw [hfield, nextOf_next]

theorem exec_offStateCheck_tested (hen : s.flag FD_DO_OW_OFF_EN n = true) (test : Bool) :
    exec (.offStateCheck n false test) s = .next (s.fieldWake
      (if test then ((s.offChecked n).wr FD_DO_SCS n 0).doFlag FD_DO_OW_OFF n 5 1
      else ((s.offChecked n).wr FD_DO_SCS n 0).wr FD_DO_OW_OFF n 0)) := by
  have hfield : fieldOffState n false test s = .next (if test then ((s.offChecked n).wr FD_DO_SCS n 0).doFlag FD_DO_OW_OFF n 5 1
      else ((s.offChecked n).wr FD_DO_SCS n 0).wr FD_DO_OW_OFF n 0) := by
    have hnot : ¬(!s.flag FD_DO_OW_OFF_EN n) = true := by
      rw [hen]
      exact Bool.false_ne_true
    unfold fieldOffState
    dsimp only
    rw [if_pos (by simp [hon, hn, hdark, hdue, hfirst]), if_neg Bool.false_ne_true, if_neg hnot]
    cases test
    · rfl
    · rfl
  show execOffStateCheck n false test s = _
  unfold execOffStateCheck
  rw [hfield, nextOf_next]

variable (hi : s.Inv) (hmaps : s.fieldMapsOk = true) (hsent : s.mo.sent = .out)
include hi hmaps hsent

theorem exec_offStateCheck_shorted_effect (test : Bool) :
    ∃ t, exec (.offStateCheck n true test) s = .next t ∧ t.flag FD_DO_SCS n = true := by
  have hset := State.setDout_good (n := n) (State.outsGood hi hmaps) { s.dout n with checkAt := s.elapsed + 1 }
  have hmoves : Moves outputKinds s (s.offChecked n) := State.setDout_moves.mono rfl
  have hflag := State.outKept_doFlag_here (n := n) (f := FD_DO_SCS) rfl rfl (s.offChecked n) 4 1 hset
  obtain ⟨t, ht, htrd, -⟩ := exec_wakes (exec_offStateCheck_shorted hon hn hdark hdue hfirst test) hi hsent (hmoves.trans hflag.kept) rfl
  exact ⟨t, ht, (congrArg (· != 0) (htrd FD_DO_SCS rfl n)).trans (State.doFlag_flag hset (f := FD_DO_SCS) rfl rfl (by decide) n 4 1)⟩

theorem exec_offStateCheck_tested_effect (hen : s.flag FD_DO_OW_OFF_EN n = true) (test : Bool) :
    ∃ t, exec (.offStateCheck n false test) s = .next t ∧ t.flag FD_DO_SCS n = false ∧ t.flag FD_DO_OW_OFF n = test := by
  have hset := State.setDout_good (n := n) (State.outsGood hi hmaps) { s.dout n with checkAt := s.elapsed + 1 }
  have hmoves : Moves outputKinds s (s.offChecked n) := State.setDout_moves.mono rfl
  have hclear : State.OutSame [FD_DO_SCS] n (s.offChecked n) ((s.offChecked n).wr FD_DO_SCS n 0) :=
    State.outKept_wr ⟨rfl, rfl, .inl List.mem_cons_self⟩ _ 0 hset
  have hscs := State.flag_wr_zero hset.1 (f := FD_DO_SCS) rfl n
  have hgo := exec_offStateCheck_tested hon hn hdark hdue hfirst hen test
  have hopen : State.OutSame [FD_DO_OW_OFF, FD_DO_SEEN] n ((s.offChecked n).wr FD_DO_SCS n 0)
      (if test then ((s.offChecked n).wr FD_DO_SCS n 0).doFlag FD_DO_OW_OFF n 5 1 else ((s.offChecked n).wr FD_DO_SCS n 0).wr FD_DO_OW_OFF n 0) :=
    State.OutKept.ite (State.outKept_doFlag_here rfl rfl _ 5 1) (State.outKept_wr ⟨rfl, rfl, .inl List.mem_cons_self⟩ _ 0) hclear.good
  obtain ⟨t, ht, htrd, -⟩ := exec_wakes hgo hi hsent ((hmoves.trans hclear.kept).trans hopen.kept) rfl
  refine ⟨t, ht, ?_, (congrArg (· != 0) (htrd FD_DO_OW_OFF rfl n)).trans ?_⟩
  · exact (congrArg (· != 0) (htrd FD_DO_SCS rfl n)).trans ((hopen.flag (g := FD_DO_SCS) rfl rfl fun _ => rfl).trans hscs)
  · cases test
    · exact State.flag_wr_zero hclear.good.1 (f := FD_DO_OW_OFF) rfl n
    · exact State.doFlag_flag hclear.good (f := FD_DO_OW_OFF) rfl rfl (by decide) n 5 1

end check

/-! Dark test pulses (R427). -/

/-- The pulse begins. -/
def DoSt.dark (x : DoSt) (sec till : Nat) : DoSt := { x with darkSec := sec, darkUntil := till }

def State.darkened (s : State) (n : Nat) : State :=
  let y := (s.setDout n { s.dout n with darkSec := s.tu.sec + 1 }).setDout n
    ((s.dout n).dark (s.tu.sec + 1) (s.elapsed + s.rd FD_DO_TP_W n * 8000))
  { y with fd := { y.fd with darkAt := s.elapsed + 1 } }

/-- A pulse that failed, reported. -/
def State.darkFailed (y : State) (n : Nat) : State :=
  (((y.wr FD_DO_XFEED n 1).doSeen n 1).bump FD_DO_TP_FAIL n 1).fdNotify 5 n 2 n y.onMask

theorem State.darkPulse_goes (hon : s.fieldOn = true) (hrun : s.tu.running = true) (hn : n < 24) (hen : s.flag FD_DO_TP_EN n = true)
    (hcmd : (s.doCmd n).2 = true) (hrow : (s.doRow n).1 = 9) (hsec : (s.dout n).darkSec ≠ s.tu.sec + 1) (hfirst : s.fd.darkAt = 0)
    (fell : Bool) :
    s.darkPulse n fell = (if fell then (s.darkened n).fdDrive.wr FD_DO_XFEED n 0 else (s.darkened n).fdDrive.darkFailed n, !fell) := by
  have hnine : ¬((s.doRow n).1 != 9) = true := by
    rw [hrow]
    decide
  unfold State.darkPulse
  dsimp only
  rw [if_pos (by simp [hon, hrun, hn, hen, hcmd, hsec, hfirst]), if_neg hnine]
  cases fell
  · rfl
  · rfl

theorem State.darkened_effect (hs : s.OutsGood) : (s.darkened n).OutsGood ∧ Moves outputKinds s (s.darkened n) ∧
    (s.darkened n).dout n = (s.dout n).dark (s.tu.sec + 1) (s.elapsed + s.rd FD_DO_TP_W n * 8000) ∧ s.RowInputs n (s.darkened n) ∧
    ∀ g j, (s.darkened n).rd g j = s.rd g j := by
  have hfirst := State.setDout_good (n := n) hs { s.dout n with darkSec := s.tu.sec + 1 }
  have hset := State.setDout_good (n := n) hfirst ((s.dout n).dark (s.tu.sec + 1) (s.elapsed + s.rd FD_DO_TP_W n * 8000))
  have hget := State.setDout_dout (n := n) (x := (s.dout n).dark (s.tu.sec + 1) (s.elapsed + s.rd FD_DO_TP_W n * 8000)) hfirst
  have hmoves : Moves outputKinds s (s.darkened n) :=
    .fd (.trans (State.setDout_moves.mono rfl) (State.setDout_moves.mono rfl)) rfl
  exact ⟨hset, hmoves, hget, ⟨fun _ _ _ _ _ => rfl, rfl, rfl, rfl, fun _ => rfl, fun _ => rfl⟩, fun _ _ => rfl⟩

/-- Row 9 rules: no overload, and the command of row 9. -/
theorem State.doRow_nine (h : (s.doRow n).1 = 9) : (s.dout n).latched = false ∧ (s.dout n).wait = false ∧ (s.doCmd n).1 = 9 := by
  unfold State.doRow at h
  dsimp only at h
  split at h
  · exact absurd h (by simp)
  split at h
  · exact absurd h (by simp)
  split at h
  · exact absurd h (by simp)
  split at h
  · exact absurd h (by simp)
  split at h
  · exact absurd h (by simp)
  next hol =>
  rw [Bool.or_eq_true, not_or, Bool.not_eq_true, Bool.not_eq_true] at hol
  exact ⟨hol.1, hol.2, h⟩

/-- While its pulse lasts, an output that row 9 ruled is commanded off. -/
theorem State.doCmd_dark {t : State} (hn : n < 24) (h : (s.doCmd n).1 = 9) (hin : s.RowInputs n t) (hdark : t.elapsed < (t.dout n).darkUntil) :
    (t.doCmd n).2 = false := by
  have hexp := hin.flag (g := FD_STAT_WD_EXP) (j := 0) rfl rfl (fun h => absurd h (by decide))
  have hen := hin.flag (g := FD_CTL_WD_EN) (j := 0) rfl rfl (fun h => absurd h (by decide))
  have hhold := hin.flag (g := FD_STAT_HOLD) (j := 0) rfl rfl (fun h => absurd h (by decide))
  unfold State.doCmd at h ⊢
  dsimp only at h ⊢
  rw [if_pos hn] at h ⊢
  rw [hexp, hen, hhold]
  split at h
  · exact absurd h (by simp)
  next hwd =>
  split at h
  · exact absurd h (by simp)
  next hho =>
  rw [if_neg hwd, if_neg hho, if_pos hdark]

section pulse
variable (hi : s.Inv) (hmaps : s.fieldMapsOk = true) (hon : s.fieldOn = true) (hrun : s.tu.running = true) (hn : n < 24)
  (hen : s.flag FD_DO_TP_EN n = true) (hwidth : s.rd FD_DO_TP_W n ≠ 0) (hcmd : (s.doCmd n).2 = true) (hrow : (s.doRow n).1 = 9)
  (hsec : (s.dout n).darkSec ≠ s.tu.sec + 1) (hfirst : s.fd.darkAt = 0)
include hi hmaps hn hwidth hrow

theorem State.darkDriven_effect : (s.darkened n).fdDrive.OutsGood ∧ (s.darkened n).fdDrive.flag FD_DO_ON n = false ∧
    ((s.darkened n).fdDrive.dout n).darkUntil = s.elapsed + s.rd FD_DO_TP_W n * 8000 ∧
    (s.darkened n).fdDrive.rd FD_DO_TP_FAIL n = s.rd FD_DO_TP_FAIL n := by
  obtain ⟨hgood, -, hdout, hinputs, hrd⟩ := State.darkened_effect (n := n) (State.outsGood hi hmaps)
  obtain ⟨hlatched, hwait, hnine⟩ := State.doRow_nine hrow
  have hquiet : (s.darkened n).olQuiet n := .inr ⟨by rw [hdout]; exact hlatched, by rw [hdout]; exact hwait⟩
  have hoff : ((s.darkened n).doCmd n).2 = false := by
    refine State.doCmd_dark hn hnine hinputs ?_
    rw [hdout, hinputs.elapsed]
    show s.elapsed < s.elapsed + s.rd FD_DO_TP_W n * 8000
    omega
  obtain ⟨halike, -, hdark⟩ := State.fdDrive_quiet hgood (by omega) hquiet
  obtain ⟨hdriven, -, hleft, -⟩ := State.fdDrive_left hgood (n := n) (by omega)
  refine ⟨hdriven, hdark (.inr (.inr hoff)), ?_, (hleft FD_DO_TP_FAIL rfl rfl n fun _ => rfl).trans (hrd _ _)⟩
  rw [halike.darkUntil, hdout]
  rfl

include hon hrun hen hcmd hsec hfirst

theorem exec_darkTestPulse_falls : ∃ t, exec (.darkTestPulse n true) s = .next t ∧ t.flag FD_DO_ON n = false ∧
    t.flag FD_DO_XFEED n = false ∧ (t.dout n).darkUntil = s.elapsed + s.rd FD_DO_TP_W n * 8000 := by
  obtain ⟨hgood, hdark, htill, -⟩ := State.darkDriven_effect hi hmaps hn hwidth hrow
  have hwr : State.OutSame [FD_DO_XFEED] n (s.darkened n).fdDrive ((s.darkened n).fdDrive.wr FD_DO_XFEED n 0) :=
    State.outKept_wr ⟨rfl, rfl, .inl List.mem_cons_self⟩ _ 0 hgood
  have hgo : exec (.darkTestPulse n true) s = .next ((s.darkened n).fdDrive.wr FD_DO_XFEED n 0) := by
    show execDarkTestPulse n true s = _
    unfold execDarkTestPulse
    rw [State.darkPulse_goes hon hrun hn hen hcmd hrow hsec hfirst]
    rfl
  exact ⟨_, hgo, (hwr.flag (g := FD_DO_ON) rfl rfl fun _ => rfl).trans hdark, State.flag_wr_zero hgood.1 rfl n,
    (congrArg DoSt.darkUntil hwr.dout).trans htill⟩

theorem exec_darkTestPulse_stays (howned : s.sfOwned n = false) : ∃ t, exec (.darkTestPulse n false) s = .next t ∧
    t.flag FD_DO_ON n = false ∧ t.flag FD_DO_XFEED n = true ∧ t.rd FD_DO_TP_FAIL n = satAdd 65535 (s.rd FD_DO_TP_FAIL n) 1 := by
  obtain ⟨hgood, hdark, -, hfail⟩ := State.darkDriven_effect hi hmaps hn hwidth hrow
  have hgo : exec (.darkTestPulse n false) s = .next ((s.darkened n).fdDrive.darkFailed n) := by
    show execDarkTestPulse n false s = _
    unfold execDarkTestPulse
    rw [State.darkPulse_goes hon hrun hn hen hcmd hrow hsec hfirst, howned]
    dsimp only
    rw [Bool.and_false, if_neg Bool.false_ne_true, if_neg Bool.false_ne_true]
  refine ⟨_, hgo, ?_⟩
  generalize (s.darkened n).fdDrive = y at hgood hdark hfail
  have hx : State.OutSame [FD_DO_XFEED] n y (y.wr FD_DO_XFEED n 1) := State.outKept_wr ⟨rfl, rfl, .inl List.mem_cons_self⟩ _ 1 hgood
  have hseen : State.OutSame [FD_DO_SEEN] n (y.wr FD_DO_XFEED n 1) ((y.wr FD_DO_XFEED n 1).doSeen n 1) :=
    State.outKept_wr ⟨rfl, rfl, .inl List.mem_cons_self⟩ _ _ hx.good
  have hbump : State.OutSame [FD_DO_TP_FAIL] n ((y.wr FD_DO_XFEED n 1).doSeen n 1)
      (((y.wr FD_DO_XFEED n 1).doSeen n 1).bump FD_DO_TP_FAIL n 1) := State.outKept_bump ⟨rfl, rfl, .inl List.mem_cons_self⟩ _ 1 hseen.good
  have htold : State.OutSame [] n (((y.wr FD_DO_XFEED n 1).doSeen n 1).bump FD_DO_TP_FAIL n 1) (y.darkFailed n) :=
    State.outKept_fdNotify _ _ _ _ _ _ hbump.good
  have hcount := State.rd_bump_same hseen.good.1 (f := FD_DO_TP_FAIL) rfl n 1
  rw [hseen.rd FD_DO_TP_FAIL rfl rfl n fun _ => rfl, hx.rd FD_DO_TP_FAIL rfl rfl n fun _ => rfl, hfail] at hcount
  refine ⟨?_, ?_, (htold.rd FD_DO_TP_FAIL rfl rfl n fun _ => rfl).trans hcount⟩
  · rw [htold.flag (g := FD_DO_ON) rfl rfl fun _ => rfl, hbump.flag (g := FD_DO_ON) rfl rfl fun _ => rfl,
      hseen.flag (g := FD_DO_ON) rfl rfl fun _ => rfl, hx.flag (g := FD_DO_ON) rfl rfl fun _ => rfl]
    exact hdark
  · rw [htold.flag (g := FD_DO_XFEED) rfl rfl fun _ => rfl, hbump.flag (g := FD_DO_XFEED) rfl rfl fun _ => rfl,
      hseen.flag (g := FD_DO_XFEED) rfl rfl fun _ => rfl]
    exact State.flag_wr_one hgood.1 rfl n

end pulse

end

end Sys2Proof.Machine
end

