-- ==== Sys2Proof/Proofs/OutputSteps.lean ====
section
/-! DO_STEP, the field watchdog, the heartbeat and the hold of direct trips (R45, R423, R425, R429, R430). -/

namespace Sys2Proof.Machine

open Sys2Proof

section
variable {s : State} {n : Nat}

/-! The measurements (Table 15.5). -/

/-- An output's record after its measurement. -/
def State.measured (s : State) (n : Nat) (m : Nat × Nat × Bool) : DoSt :=
  let e := s.elapsed
  let on := s.flag FD_DO_ON n
  let x := s.dout n
  { x with
    limAt := since (on && m.2.2) x.limAt e
    retries := if on && !m.2.2 then 0 else x.retries
    owAt := since (on && s.flag FD_DO_OW_ON_EN n && decide (m.2.1 < 3)) x.owAt e
    scsAt := since (!on && decide (12000 < m.1)) x.scsAt e
    rfAt := since (decide (s.rd FD_STAT_FLD_MV 0 + 500 < m.1)) x.rfAt e
    rfEnd := if s.flag FD_DO_RF n && decide (m.1 ≤ s.rd FD_STAT_FLD_MV 0 + 500) then e + 800000 else x.rfEnd }

/-- The ball and the current shown. -/
def State.ballShown (s : State) (n : Nat) (m : Nat × Nat × Bool) : State :=
  ((s.setDout n (s.measured n m)).setFlag FD_DO_BALL n (decide (12000 < m.1))).wr FD_DO_I_MA n (min 4095 m.2.1)

/-- The open wire and the short to supply judged. -/
def State.owJudged (s : State) (n : Nat) (y : DoSt) (e : Nat) : State :=
  if held y.owAt 16000000 e then s.doFlag FD_DO_OW_ON n 6 1 else if y.owAt.isNone then s.wr FD_DO_OW_ON n 0 else s

def State.scsJudged (s : State) (n : Nat) (y : DoSt) (e : Nat) : State := if held y.scsAt 800000 e then s.doFlag FD_DO_SCS n 4 1 else s

/-- The reverse feed judged. -/
def State.rfJudged (s : State) (n : Nat) (y : DoSt) (e : Nat) : State :=
  if held y.rfAt 80000 e then s.doFlag FD_DO_RF n 3 2 else if y.rfAt.isNone then s.wr FD_DO_RF n 0 else s

theorem State.doMeasure_eq (m : Nat × Nat × Bool) : s.doMeasure n m =
    (((s.ballShown n m).owJudged n (s.measured n m) s.elapsed).scsJudged n (s.measured n m) s.elapsed).rfJudged n (s.measured n m) s.elapsed := rfl

/-- The registers that the judgement of a measurement may write, and those of the whole measurement. -/
def judgeFields : List Field := [FD_DO_OW_ON, FD_DO_SCS, FD_DO_RF, FD_DO_SEEN]
def measureFields : List Field := FD_DO_BALL :: FD_DO_I_MA :: judgeFields

section kept
variable {fs : List Field} {k : Nat} (hw : ∀ f, f ∈ judgeFields → f.Elsewhere fs n k)
include hw

theorem State.outKept_owScsJudged (s : State) (y : DoSt) (e : Nat) : State.OutKept fs n s ((s.owJudged k y e).scsJudged k y e) := by
  have how : State.OutKept fs n s (s.owJudged k y e) :=
    .ite (State.outKept_doFlag (hw _ (by decide)) (hw _ (by decide)) s 6 1) (.ite (State.outKept_wr (hw _ (by decide)) s 0) (.refl s))
  exact how.trans (.ite (State.outKept_doFlag (hw _ (by decide)) (hw _ (by decide)) _ 4 1) (.refl _))

theorem State.outKept_judged (s : State) (y : DoSt) (e : Nat) :
    State.OutKept fs n s (((s.owJudged k y e).scsJudged k y e).rfJudged k y e) :=
  (State.outKept_owScsJudged hw s y e).trans
    (.ite (State.outKept_doFlag (hw _ (by decide)) (hw _ (by decide)) _ 3 2) (.ite (State.outKept_wr (hw _ (by decide)) _ 0) (.refl _)))

end kept

theorem Field.elsewhere_measure_other {fs : List Field} {k : Nat} (hne : n % 65536 ≠ k % 65536) :
    ∀ f, f ∈ measureFields → f.Elsewhere fs n k := by
  intro f hf
  have hall : ∀ f, f ∈ measureFields → f.unit = 0x38 ∧ f.fits = true ∧ f.grp % 256 = 0x20 := by decide
  obtain ⟨hu, hfits, hgrp⟩ := hall f hf
  exact Field.elsewhere_other hne hu hfits hgrp

theorem Field.elsewhere_judge_here : ∀ f, f ∈ judgeFields → f.Elsewhere judgeFields n n := by
  intro f hf
  have hall : ∀ f, f ∈ judgeFields → f.unit = 0x38 ∧ f.fits = true := by decide
  obtain ⟨hu, hfits⟩ := hall f hf
  exact ⟨hu, hfits, .inl hf⟩

theorem State.outKept_doMeasure {k : Nat} (hne : n % 65536 ≠ k % 65536) (s : State) (m : Nat × Nat × Bool) :
    State.OutKept [] n s (s.doMeasure k m) := by
  have hw := Field.elsewhere_measure_other (fs := []) hne
  have hshown : State.OutKept [] n s (s.ballShown k m) :=
    ((State.outKept_setDout_other hne s _).trans (State.outKept_setFlag (hw _ (by decide)) _ _)).trans
      (State.outKept_wr (hw _ (by decide)) _ _)
  rw [State.doMeasure_eq]
  exact hshown.trans (State.outKept_judged (fun f hf => hw f (List.mem_cons_of_mem _ (List.mem_cons_of_mem _ hf))) _ _ _)

/-- A measurement of output `n` with no reverse feed. -/
structure State.Measured (n : Nat) (m : Nat × Nat × Bool) (s t : State) : Prop where
  good : t.OutsGood
  kept : Moves outputKinds s t
  dout : t.dout n = s.measured n m
  ball : t.flag FD_DO_BALL n = decide (12000 < m.1)
  amps : t.rd FD_DO_I_MA n = min 4095 m.2.1
  rf : t.flag FD_DO_RF n = false
  rd : ∀ g : Field, g.unit = 0x38 → g.off measureFields = true → ∀ j, (g.grp % 256 = 0x20 → j = n) → t.rd g j = s.rd g j
  fd : t.fd = { s.fd with dos := t.fd.dos, ntf := t.fd.ntf }

theorem State.doMeasure_measured (hs : s.OutsGood) {m : Nat × Nat × Bool} (hfeed : m.1 ≤ s.rd FD_STAT_FLD_MV 0 + 500) :
    s.Measured n m (s.doMeasure n m) := by
  have hset := State.setDout_good (n := n) hs (s.measured n m)
  have hget := State.setDout_dout (n := n) (x := s.measured n m) hs
  have hmoves : Moves outputKinds s (s.setDout n (s.measured n m)) := State.setDout_moves.mono rfl
  have hrd0 := s.setDout_rd n (s.measured n m)
  have hfd0 := s.setDout_fd n (s.measured n m)
  have hnone : (s.measured n m).rfAt = none := by
    show since (decide (s.rd FD_STAT_FLD_MV 0 + 500 < m.1)) _ _ = none
    rw [decide_eq_false (Nat.not_lt.2 hfeed)]
    rfl
  rw [State.doMeasure_eq]
  unfold State.ballShown
  generalize s.setDout n (s.measured n m) = y at hset hget hmoves hrd0 hfd0
  generalize hx : s.measured n m = x at hget hnone
  have hb : State.OutSame [FD_DO_BALL] n y (y.setFlag FD_DO_BALL n (decide (12000 < m.1))) :=
    State.outKept_setFlag ⟨rfl, rfl, .inl List.mem_cons_self⟩ y _ hset
  have hball := State.flag_setFlag_same hset.1 (f := FD_DO_BALL) rfl n (decide (12000 < m.1))
  generalize y.setFlag FD_DO_BALL n (decide (12000 < m.1)) = z at hb hball
  have ha : State.OutSame [FD_DO_I_MA] n z (z.wr FD_DO_I_MA n (min 4095 m.2.1)) :=
    State.outKept_wr ⟨rfl, rfl, .inl List.mem_cons_self⟩ z _ hb.good
  have hamps : (z.wr FD_DO_I_MA n (min 4095 m.2.1)).rd FD_DO_I_MA n = min 4095 m.2.1 :=
    (State.rd_wr_same hb.good.1 rfl n _).trans (Nat.mod_eq_of_lt (by
      show min 4095 m.2.1 < 4096
      omega))
  generalize z.wr FD_DO_I_MA n (min 4095 m.2.1) = a at ha hamps
  have hj := State.outKept_judged (k := n) Field.elsewhere_judge_here a x s.elapsed ha.good
  have hscs : ((a.owJudged n x s.elapsed).scsJudged n x s.elapsed).Inv := (State.outKept_owScsJudged (k := n) Field.elsewhere_judge_here a x s.elapsed ha.good).good.1
  have hrf : (((a.owJudged n x s.elapsed).scsJudged n x s.elapsed).rfJudged n x s.elapsed).flag FD_DO_RF n = false := by
    unfold State.rfJudged
    rw [hnone]
    exact State.flag_wr_zero hscs rfl n
  refine ⟨hj.good, ((hmoves.trans hb.kept).trans ha.kept).trans hj.kept, ?_, ?_, ?_, hrf, fun g hu hg j hj' => ?_, ?_⟩
  · rw [hj.dout, ha.dout, hb.dout, hget, hx]
  · rw [hj.flag (g := FD_DO_BALL) rfl rfl fun _ => rfl, ha.flag (g := FD_DO_BALL) rfl rfl fun _ => rfl, hball]
  · rw [hj.rd FD_DO_I_MA rfl rfl n fun _ => rfl, hamps]
  · have hjudge : g.off judgeFields = true := Field.off_mono (by simp [measureFields]) hg
    rw [hj.rd g hu hjudge j hj', ha.rd g hu (Field.off_mono (by simp [measureFields]) hg) j hj',
      hb.rd g hu (Field.off_mono (by simp [measureFields]) hg) j hj', hrd0]
  · rw [hj.fd, ha.fd, hb.fd, hfd0]

theorem State.doMeasure_good (hs : s.OutsGood) (m : Nat × Nat × Bool) : (s.doMeasure n m).OutsGood := by
  have hset := State.setDout_good (n := n) hs (s.measured n m)
  have hball : State.OutSame [FD_DO_BALL] n (s.setDout n (s.measured n m))
      ((s.setDout n (s.measured n m)).setFlag FD_DO_BALL n (decide (12000 < m.1))) :=
    State.outKept_setFlag ⟨rfl, rfl, .inl List.mem_cons_self⟩ _ _ hset
  have hamps : State.OutSame [FD_DO_I_MA] n _ (s.ballShown n m) :=
    State.outKept_wr ⟨rfl, rfl, .inl List.mem_cons_self⟩ ((s.setDout n (s.measured n m)).setFlag FD_DO_BALL n (decide (12000 < m.1))) _ hball.good
  rw [State.doMeasure_eq]
  exact (State.outKept_judged (k := n) Field.elsewhere_judge_here _ _ _ hamps.good).good

theorem State.Measured.inputs {m : Nat × Nat × Bool} {t : State} (h : s.Measured n m t) (hi : s.Inv) : s.RowInputs n t := by
  obtain ⟨helapsed, hvalue, htrips⟩ := h.kept.commands hi
  exact ⟨fun g hu hg => h.rd g hu (Field.off_mono (by decide) hg), by rw [h.fd], by rw [h.fd], helapsed, hvalue, htrips⟩

/-- What a measurement leaves of the record that rules an output without reverse feed. -/
theorem State.measured_record {m : Nat × Nat × Bool} (hrf : s.flag FD_DO_RF n = false) : (s.dout n).Commanded (s.measured n m) ∧
    (s.measured n m).cut = (s.dout n).cut ∧ (s.measured n m).rfEnd = (s.dout n).rfEnd ∧ (s.measured n m).latched = (s.dout n).latched ∧
    (s.measured n m).wait = (s.dout n).wait := by
  refine ⟨⟨rfl, rfl, rfl, rfl, rfl⟩, rfl, ?_, rfl, rfl⟩
  show (if s.flag FD_DO_RF n && decide (m.1 ≤ s.rd FD_STAT_FLD_MV 0 + 500) then _ else _) = _
  rw [hrf]
  rfl

/-! The junction temperature. -/

/-- The registers of the junction temperature. -/
def tempFields : List Field := [FD_STAT_TEMP, FD_DO_OVT, FD_DO_SEEN]

theorem State.outKept_doTemp (s : State) (temp : Int) : State.OutKept tempFields n s (s.doTemp temp) := by
  have htemp : State.OutKept tempFields n s (s.wr FD_STAT_TEMP 0 (toSigned 8 (max (-128) (min 127 temp)))) :=
    State.outKept_wr ⟨rfl, rfl, .inl (by decide)⟩ s _
  unfold State.doTemp
  dsimp only
  split
  · exact htemp.trans (.foldl _ (fun y k _ => State.outKept_doFlag ⟨rfl, rfl, .inl (by decide)⟩ ⟨rfl, rfl, .inl (by decide)⟩ y 2 1) _)
  · split
    · exact htemp.trans (.foldl _ (fun y k _ => State.outKept_wr ⟨rfl, rfl, .inl (by decide)⟩ y 0) _)
    · exact htemp

/-! DO_STEP (R423). -/

/-- The step's measurements. -/
def State.stepStart (s : State) (fldMv : Nat) : State :=
  State.wr { s with fd := { s.fd with doAt := s.fieldIdx } } FD_STAT_FLD_MV 0 (min 65535 fldMv)

def State.stepMeasured (s : State) (outs : List (Nat × Nat × Bool)) : State :=
  (List.range 32).foldl (fun s n => s.doMeasure n (outs.getD n (0, 0, false))) s

theorem exec_doStep_due (hon : s.fieldOn = true) (hfirst : s.fd.doAt ≠ s.fieldIdx) (outs : List (Nat × Nat × Bool)) (fldMv : Nat) (temp : Int) :
    exec (.doStep outs fldMv temp) s = .next (s.fieldWake (((s.stepStart fldMv).stepMeasured outs).doTemp temp).fdDrive) := by
  have hfield : fieldStep outs fldMv temp s = .next (((s.stepStart fldMv).stepMeasured outs).doTemp temp).fdDrive := by
    unfold fieldStep
    exact if_neg (by simp [hon, hfirst])
  show execDoStep outs fldMv temp s = _
  unfold execDoStep
  rw [hfield, nextOf_next]

theorem State.stepStart_effect (hs : s.OutsGood) (fldMv : Nat) : (s.stepStart fldMv).OutsGood ∧ Moves outputKinds s (s.stepStart fldMv) ∧
    s.RowInputs n (s.stepStart fldMv) ∧ (s.stepStart fldMv).dout n = s.dout n ∧ (s.stepStart fldMv).fd.cut = s.fd.cut ∧
    (s.stepStart fldMv).rd FD_DO_RF n = s.rd FD_DO_RF n ∧ (s.stepStart fldMv).rd FD_STAT_FLD_MV 0 = min 65535 fldMv := by
  have hput : State.Inv { s with fd := { s.fd with doAt := s.fieldIdx } } := hs.1
  have hmoves : Moves outputKinds s (s.stepStart fldMv) := .wr (.fd .refl rfl) rfl
  have hrd : ∀ g : Field, g.off [FD_STAT_FLD_MV] = true → ∀ j, (s.stepStart fldMv).rd g j = s.rd g j := fun g hg j =>
    State.rdk_wrk_beside hput (Field.off_mem hg List.mem_cons_self) 0 j _
  obtain ⟨helapsed, hvalue, htrips⟩ := hmoves.commands hs.1
  refine ⟨⟨State.wr_inv hput _ _ _, hs.2⟩, hmoves, ⟨fun g _ hg j _ => hrd g (Field.off_mono (by decide) hg) j, rfl, rfl, helapsed, hvalue, htrips⟩,
    rfl, rfl, hrd _ rfl n, (State.rd_wr_same hput rfl 0 _).trans (Nat.mod_eq_of_lt ?_)⟩
  show min 65535 fldMv < 65536
  omega

section step
variable (hi : s.Inv) (hmaps : s.fieldMapsOk = true) (hsent : s.mo.sent = .out) (hon : s.fieldOn = true) (hfirst : s.fd.doAt ≠ s.fieldIdx)
  {outs : List (Nat × Nat × Bool)} {fldMv mv ma : Nat} {lim : Bool} (hout : outs.getD n (0, 0, false) = (mv, ma, lim))
  (hfeed : mv ≤ min 65535 fldMv + 500) (hfree : s.RowFree n) (hn : n < 32)
include hi hmaps hout hfeed hfree hn

/-- The state that a step drives: what it keeps, and what it shows of a free output. -/
theorem State.stepEnd_effect (temp : Int) :
    (((s.stepStart fldMv).stepMeasured outs).doTemp temp).OutsGood ∧
    Moves outputKinds s (((s.stepStart fldMv).stepMeasured outs).doTemp temp) ∧
    (((s.stepStart fldMv).stepMeasured outs).doTemp temp).RowFree n ∧
    (((s.stepStart fldMv).stepMeasured outs).doTemp temp).doCmd n = s.doCmd n ∧
    (((s.stepStart fldMv).stepMeasured outs).doTemp temp).flag FD_DO_BALL n = decide (12000 < mv) ∧
    (((s.stepStart fldMv).stepMeasured outs).doTemp temp).rd FD_DO_I_MA n = min 4095 ma ∧
    (((s.stepStart fldMv).stepMeasured outs).doTemp temp).rd FD_STAT_FLD_MV 0 = min 65535 fldMv := by
  obtain ⟨hgood, hmoves, hinputs, hdout, hcut, hrf, hmv⟩ := State.stepStart_effect (n := n) (State.outsGood hi hmaps) fldMv
  have hvolts : mv ≤ (s.stepStart fldMv).rd FD_STAT_FLD_MV 0 + 500 := by omega
  generalize s.stepStart fldMv = a at *
  obtain ⟨y, hy, hrest⟩ := State.outPass (n := n) (f := fun s k => s.doMeasure k (outs.getD k (0, 0, false)))
    (fun y k hk hne => State.outKept_doMeasure (by rw [Nat.mod_eq_of_lt hk, Nat.mod_eq_of_lt (by omega)]; exact hne.symm) y _)
    (fun y hy => State.doMeasure_good hy _) (List.range 32) (fun k hk => by
      have := List.mem_range.1 hk
      omega) List.nodup_range (List.mem_range.2 hn) hgood
  rw [hout] at hrest
  have hmeasured := State.doMeasure_measured (n := n) (m := (mv, ma, lim)) hy.good (by
    rw [hy.rd FD_STAT_FLD_MV rfl rfl 0 fun h => absurd h (by decide)]
    exact hvolts)
  have hstep : (y.doMeasure n (mv, ma, lim)).OutSame [] n (a.stepMeasured outs) := hrest
  have htemp : (a.stepMeasured outs).OutSame tempFields n ((a.stepMeasured outs).doTemp temp) := State.outKept_doTemp _ temp hstep.good
  have hall := (((hinputs.trans (hy.inputs hgood.1 (List.nil_subset _))).trans (hmeasured.inputs hy.good.1)).trans
    (hstep.inputs hmeasured.good.1 (List.nil_subset _))).trans (htemp.inputs hstep.good.1 (by decide))
  have hkept := (((hmoves.trans hy.kept).trans hmeasured.kept).trans hstep.kept).trans htemp.kept
  have hdoutEnd : ((a.stepMeasured outs).doTemp temp).dout n = y.measured n (mv, ma, lim) :=
    htemp.dout.trans (hstep.dout.trans hmeasured.dout)
  have hdoutStart : y.dout n = s.dout n := hy.dout.trans hdout
  have hcutEnd : ((a.stepMeasured outs).doTemp temp).fd.cut = none := by
    rw [htemp.fd, hstep.fd, hmeasured.fd, hy.fd]
    exact hcut.trans hfree.1
  have hrfStart : y.flag FD_DO_RF n = false :=
    (hy.flag (g := FD_DO_RF) rfl rfl fun _ => rfl).trans ((congrArg (· != 0) hrf).trans hfree.2.2.2.1)
  have hrfEnd : ((a.stepMeasured outs).doTemp temp).flag FD_DO_RF n = false :=
    (htemp.flag (g := FD_DO_RF) rfl rfl fun _ => rfl).trans ((hstep.flag (g := FD_DO_RF) rfl rfl fun _ => rfl).trans hmeasured.rf)
  have hrecord := State.measured_record hrfStart (m := (mv, ma, lim))
  rw [hdoutStart, ← hdoutEnd] at hrecord
  obtain ⟨hcommanded, hx⟩ := hrecord
  have hballEnd : ((a.stepMeasured outs).doTemp temp).flag FD_DO_BALL n = decide (12000 < mv) :=
    (htemp.flag (g := FD_DO_BALL) rfl rfl fun _ => rfl).trans ((hstep.flag (g := FD_DO_BALL) rfl rfl fun _ => rfl).trans hmeasured.ball)
  have hampsEnd : ((a.stepMeasured outs).doTemp temp).rd FD_DO_I_MA n = min 4095 ma :=
    (htemp.rd FD_DO_I_MA rfl rfl n fun _ => rfl).trans ((hstep.rd FD_DO_I_MA rfl rfl n fun _ => rfl).trans hmeasured.amps)
  have hmvEnd : ((a.stepMeasured outs).doTemp temp).rd FD_STAT_FLD_MV 0 = min 65535 fldMv := by
    rw [htemp.rd FD_STAT_FLD_MV rfl rfl 0 fun h => absurd h (by decide), hstep.rd FD_STAT_FLD_MV rfl rfl 0 fun h => absurd h (by decide),
      hmeasured.rd FD_STAT_FLD_MV rfl rfl 0 fun h => absurd h (by decide), hy.rd FD_STAT_FLD_MV rfl rfl 0 fun h => absurd h (by decide), hmv]
  exact ⟨htemp.good, hkept, hall.rowFree hfree hcutEnd hrfEnd hx, hall.doCmd hcommanded, hballEnd, hampsEnd, hmvEnd⟩

include hsent hon hfirst

/-- With nothing that holds it off and no reverse feed, an output takes the row of its command, and its measurement shows. -/
theorem exec_doStep_effect (temp : Int) : ∃ t, exec (.doStep outs fldMv temp) s = .next t ∧
    t.rd FD_DO_ROW n = (s.doCmd n).1 ∧ t.flag FD_DO_ON n = (s.doCmd n).2 ∧
    t.flag FD_DO_BALL n = decide (12000 < mv) ∧ t.rd FD_DO_I_MA n = min 4095 ma ∧ t.rd FD_STAT_FLD_MV 0 = min 65535 fldMv := by
  obtain ⟨hend, hkept, hfreeEnd, hcmd, hball, hamps, hmv⟩ := State.stepEnd_effect hi hmaps hout hfeed hfree hn temp
  have hgo := exec_doStep_due hon hfirst outs fldMv temp
  obtain ⟨hrow, hlit⟩ := State.fdDrive_free hend hn hfreeEnd
  obtain ⟨-, -, hleft, -⟩ := State.fdDrive_left hend hn
  obtain ⟨t, ht, htrd, -⟩ := exec_wakes hgo hi hsent (hkept.trans State.fdDrive_moves) rfl
  rw [hcmd] at hrow hlit
  refine ⟨t, ht, (htrd FD_DO_ROW rfl n).trans hrow, (congrArg (· != 0) (htrd FD_DO_ON rfl n)).trans hlit, ?_, ?_, ?_⟩
  · exact (congrArg (· != 0) ((htrd FD_DO_BALL rfl n).trans (hleft FD_DO_BALL rfl rfl n fun _ => rfl))).trans hball
  · exact ((htrd FD_DO_I_MA rfl n).trans (hleft FD_DO_I_MA rfl rfl n fun _ => rfl)).trans hamps
  · exact ((htrd FD_STAT_FLD_MV rfl 0).trans (hleft FD_STAT_FLD_MV rfl rfl 0 fun h => absurd h (by decide))).trans hmv

end step

/-! Rows 6 to 10 (Table 15.4). -/

/-- The watchdog expired: an output goes to its safe state. -/
theorem State.doCmd_expired (hn : n < 24) (hexp : s.flag FD_STAT_WD_EXP 0 = true) (hen : s.flag FD_CTL_WD_EN 0 = true)
    (hsrc : s.pulseSrc n = false) (hsafe : s.rd FD_DO_SAFE n = 1) : s.doCmd n = (6, true) := by
  unfold State.doCmd State.doSafe
  dsimp only
  rw [if_pos hn, hexp, hen, hsrc, hsafe]
  rfl

/-- Nothing above row 9: an output takes the value that the Umpire shows. -/
theorem State.doCmd_owned (hn : n < 24) (hexp : s.flag FD_STAT_WD_EXP 0 = false) (hhold : s.flag FD_STAT_HOLD 0 = false)
    (hdark : (s.dout n).darkUntil ≤ s.elapsed) (hsrc : s.pulseSrc n = false) : s.doCmd n = (9, s.flag UM_OWN_VALUE n) := by
  unfold State.doCmd
  dsimp only
  rw [if_pos hn, hexp, hhold, hsrc, if_neg (show ¬(s.elapsed < (s.dout n).darkUntil) by omega)]
  rfl

section line
variable (hn : 24 ≤ n) (hsnt : (s.dout n).snt = false) (huntil : (s.dout n).sntUntil ≤ s.elapsed)
include hn hsnt huntil

/-- A trip-class output without a direct trip takes the trip that drives it. -/
theorem State.doCmd_trips (htrips : s.tripDrives (n - 24) = true) : s.doCmd n = (8, true) := by
  unfold State.doCmd
  dsimp only
  rw [if_neg (show ¬n < 24 by omega), hsnt, decide_eq_false (Nat.not_lt.2 huntil), htrips]
  rfl

theorem State.doCmd_idle (htrips : s.tripDrives (n - 24) = false) (hlost : s.flag FD_STAT_HB_LOST 0 = false) : s.doCmd n = (10, false) := by
  unfold State.doCmd
  dsimp only
  rw [if_neg (show ¬n < 24 by omega), hsnt, decide_eq_false (Nat.not_lt.2 huntil), htrips, hlost]
  rfl

end line

/-! The hold of a direct trip (R45). -/

theorem exec_directTripHoldExpiry_effect {line : Nat} (hi : s.Inv) (hmaps : s.fieldMapsOk = true) (hon : s.fieldOn = true) (hline : line < 8)
    (hfree : s.RowFree (24 + line)) (hsnt : (s.dout (24 + line)).snt = false) (huntil : (s.dout (24 + line)).sntUntil ≤ s.elapsed)
    (htrips : s.tripDrives line = false) (hlost : s.flag FD_STAT_HB_LOST 0 = false) :
    ∃ t, exec (.directTripHoldExpiry line) s = .next t ∧ t.rd FD_DO_ROW (24 + line) = 10 ∧ t.flag FD_DO_ON (24 + line) = false := by
  have hgo : exec (.directTripHoldExpiry line) s = .next s.fdDrive := by
    show execDirectTripHoldExpiry line s = _
    exact if_pos (by simp [hon, hline, huntil])
  obtain ⟨hrow, hlit⟩ := State.fdDrive_free (State.outsGood hi hmaps) (show 24 + line < 32 by omega) hfree
  rw [State.doCmd_idle (by omega) hsnt huntil (by rwa [Nat.add_sub_cancel_left]) hlost] at hrow hlit
  exact ⟨_, hgo, hrow, hlit⟩

/-! The watchdog (R429). -/

/-- The state that a refresh drives, with `run` refreshes on time. -/
def State.wdShown (s : State) (run : Nat) : State :=
  let y := State.wr { s with fd := { s.fd with wdArmed := true, wdAt := s.elapsed, wdRun := run, wdIdx := s.tai / 500000 + 1 } } FD_STAT_HOLD 0 0
  if 3 ≤ run then y.wr FD_STAT_WD_EXP 0 0 else y

/-- The refreshes on time. -/
def State.wdRuns (s : State) : Nat :=
  if s.fd.wdArmed && decide (s.elapsed ≤ s.fd.wdAt + s.rd FD_CTL_WD_TIME 0 * 800000) then min 3 (s.fd.wdRun + 1) else 0

theorem exec_fieldWatchdogRefresh_due (hon : s.fieldOn = true) (hum : s.umOn = true) (hidx : s.fd.wdIdx ≠ s.tai / 500000 + 1)
    (hmode : s.mo.mode ≠ .sentinel) : exec .fieldWatchdogRefresh s = .next (s.wdShown s.wdRuns).fdDrive := by
  have hnone : ¬((!s.fieldOn || !s.umOn || s.fd.wdIdx == s.tai / 500000 + 1 || (s.mo.mode == .sentinel && s.flag FD_STAT_HOLD 0)) = true) := by
    simp [hon, hum, hidx, hmode]
  exact (show execFieldWatchdogRefresh s = _ from if_neg hnone)

theorem State.wdShown_effect (hs : s.OutsGood) (run : Nat) : (s.wdShown run).OutsGood ∧ (s.wdShown run).fd.wdArmed = true ∧
    (s.wdShown run).fd.wdAt = s.elapsed ∧ (s.wdShown run).flag FD_STAT_HOLD 0 = false ∧
    (3 ≤ run → (s.wdShown run).flag FD_STAT_WD_EXP 0 = false) := by
  have hput : State.Inv { s with fd := { s.fd with wdArmed := true, wdAt := s.elapsed, wdRun := run, wdIdx := s.tai / 500000 + 1 } } := hs.1
  have hwr := State.wr_inv hput FD_STAT_HOLD 0 0
  have hhold := State.flag_wr_zero hput (f := FD_STAT_HOLD) rfl 0
  unfold State.wdShown
  dsimp only
  split
  · exact ⟨⟨State.wr_inv hwr _ _ _, hs.2⟩, rfl, rfl, (congrArg (· != 0) (State.rdk_wrk_beside hwr (by decide) 0 0 0)).trans hhold,
      fun _ => State.flag_wr_zero hwr rfl 0⟩
  · next hrun => exact ⟨⟨hwr, hs.2⟩, rfl, rfl, hhold, fun h => absurd h hrun⟩

theorem exec_fieldWatchdogRefresh_effect (hi : s.Inv) (hmaps : s.fieldMapsOk = true) (hon : s.fieldOn = true) (hum : s.umOn = true)
    (hidx : s.fd.wdIdx ≠ s.tai / 500000 + 1) (hmode : s.mo.mode ≠ .sentinel) :
    ∃ t, exec .fieldWatchdogRefresh s = .next t ∧ t.fd.wdArmed = true ∧ t.fd.wdAt = s.elapsed ∧ t.flag FD_STAT_HOLD 0 = false ∧
      (s.fd.wdArmed = true → s.elapsed ≤ s.fd.wdAt + s.rd FD_CTL_WD_TIME 0 * 800000 → s.fd.wdRun = 2 → t.flag FD_STAT_WD_EXP 0 = false) := by
  obtain ⟨hgood, harmed, hat, hhold, hexp⟩ := State.wdShown_effect (State.outsGood hi hmaps) s.wdRuns
  obtain ⟨-, -, hleft, -, hfd⟩ := State.fdDrive_left hgood (n := 0) (by decide)
  refine ⟨_, exec_fieldWatchdogRefresh_due hon hum hidx hmode, ?_, ?_, ?_, fun hready htime hruns => ?_⟩
  · rw [hfd]
    exact harmed
  · rw [hfd]
    exact hat
  · exact (congrArg (· != 0) (hleft FD_STAT_HOLD rfl rfl 0 fun _ => rfl)).trans hhold
  · refine (congrArg (· != 0) (hleft FD_STAT_WD_EXP rfl rfl 0 fun _ => rfl)).trans (hexp ?_)
    unfold State.wdRuns
    rw [hready, hruns, decide_eq_true htime]
    decide

/-- The state that an expiry drives: the outputs hold what their balls showed. -/
def State.ballsKept (s : State) (lo k : Nat) : State :=
  (List.range k).foldl (fun s n => s.setDout (lo + n) { s.dout (lo + n) with ball := s.flag FD_DO_BALL (lo + n) }) s

theorem State.ballsKept_good (lo k : Nat) (hs : s.OutsGood) : (s.ballsKept lo k).OutsGood := by
  unfold State.ballsKept
  generalize List.range k = l
  induction l generalizing s with
  | nil => exact hs
  | cons m l ih => exact ih (State.setDout_good hs _)

/-- An output that nothing holds off stays so under steps elsewhere. -/
theorem State.OutSame.rowFree {fs : List Field} {t : State} (h : s.OutSame fs n t) (hi : s.Inv) (hol : FD_DO_OL_T.off fs = true)
    (hrf : FD_DO_RF.off fs = true) (hfree : s.RowFree n) : t.RowFree n := by
  obtain ⟨hslots, hcut, hhot, hfeed, hend, hsf, hlatched, hwait⟩ := hfree
  obtain ⟨helapsed, -, -⟩ := h.kept.commands hi
  refine ⟨?_, ?_, (h.flag rfl hol fun _ => rfl).trans hhot, (h.flag rfl hrf fun _ => rfl).trans hfeed, ?_, ?_, ?_, ?_⟩
  · rw [h.fd]
    exact hslots
  · rw [h.dout]
    exact hcut
  · rw [h.dout, helapsed]
    exact hend
  · rw [h.fd]
    exact hsf
  · rw [h.dout]
    exact hlatched
  · rw [h.dout]
    exact hwait

theorem State.ballsKept_effect (hs : s.OutsGood) (hn : n < 24) : s.RowInputs n (s.ballsKept 0 24) ∧
    (s.RowFree n → (s.ballsKept 0 24).RowFree n) := by
  obtain ⟨y, hy, hrest⟩ := State.outPass (n := n) (f := fun s k => s.setDout (0 + k) { s.dout (0 + k) with ball := s.flag FD_DO_BALL (0 + k) })
    (fun y k _ hne => State.outKept_setDout (by omega) y _) (fun y hy => State.setDout_good hy _) (List.range 24)
    (fun k hk => by
      have := List.mem_range.1 hk
      omega) List.nodup_range (List.mem_range.2 hn) hs
  rw [Nat.zero_add] at hrest
  have hset := State.setDout_inputs y n { y.dout n with ball := y.flag FD_DO_BALL n }
  have hget := State.setDout_dout (n := n) (x := { y.dout n with ball := y.flag FD_DO_BALL n }) hy.good
  have hfd := y.setDout_fd n { y.dout n with ball := y.flag FD_DO_BALL n }
  have hgood := State.setDout_good (n := n) hy.good { y.dout n with ball := y.flag FD_DO_BALL n }
  have hrd := y.setDout_rd n { y.dout n with ball := y.flag FD_DO_BALL n }
  refine ⟨((hy.inputs hs.1 (List.nil_subset _)).trans hset).trans (hrest.inputs hgood.1 (List.nil_subset _)), fun hfree => ?_⟩
  refine hrest.rowFree hgood.1 rfl rfl (hset.rowFree (hy.rowFree hs.1 rfl rfl hfree) ?_ ?_ ?_)
  · rw [hfd]
    exact (congrArg FdSt.cut hy.fd).trans hfree.1
  · exact (congrArg (· != 0) (hrd FD_DO_RF n)).trans ((hy.flag (g := FD_DO_RF) rfl rfl fun _ => rfl).trans hfree.2.2.2.1)
  · rw [hget]
    exact ⟨rfl, rfl, rfl, rfl⟩

/-- The expiry shown and counted. -/
def State.wdExpired (s : State) : State := ((s.ballsKept 0 24).wr FD_STAT_WD_EXP 0 1).bump FD_STAT_WD_COUNT 0 1

/-- The expiry recorded and reported. -/
def State.wdReported (s : State) : State :=
  let y : State := { s with fd := { s.fd with wdRun := 0 } }
  (y.stateRec 0x38 0x01 0 (outsWhere 0 24 (fun n => y.rd FD_DO_ROW n == 6)) 0 0 true).fdNotify 4 0 3 (y.rd FD_CTL_WD_TIME 0) 0

theorem exec_fieldWatchdogExpiry_due (hon : s.fieldOn = true) (harmed : s.fd.wdArmed = true) (hen : s.flag FD_CTL_WD_EN 0 = true)
    (hhold : s.flag FD_STAT_HOLD 0 = false) (hexp : s.flag FD_STAT_WD_EXP 0 = false)
    (hdue : s.fd.wdAt + s.rd FD_CTL_WD_TIME 0 * 800000 ≤ s.elapsed) :
    exec .fieldWatchdogExpiry s = .next s.wdExpired.fdDrive.wdReported := by
  have hballs : (List.range 24).foldl (fun s n => s.setDout n { s.dout n with ball := s.flag FD_DO_BALL n }) s = s.ballsKept 0 24 := by
    simp only [State.ballsKept, Nat.zero_add]
  show execFieldWatchdogExpiry s = _
  unfold execFieldWatchdogExpiry
  rw [if_pos (by simp [hon, harmed, hen, hhold, hexp, hdue]), hballs]
  rfl

theorem State.fdNotify_mem_arrivals (hs : s.OutsGood) {code ch cls p0 p1 : Nat} (hcls : cls ≠ 0) :
    (⟨0x3800 + code, cls⟩ : ErrRec) ∈ (s.fdNotify code ch cls p0 p1).ec.arrivals := by
  have hput : ∀ v : AMap (Nat × Nat), State.Inv { s with fd := { s.fd with ntf := v } } := fun _ => hs.1
  unfold State.fdNotify
  extract_lets k x old put s1
  split
  · exact List.mem_append_right _ (List.mem_singleton.2 rfl)
  · exact State.notify_mem_arrivals (hput _) hcls _ _ _ _

theorem State.wdReported_effect (hs : s.OutsGood) : s.wdReported.rd FD_DO_ROW n = s.rd FD_DO_ROW n ∧
    s.wdReported.rd FD_DO_ON n = s.rd FD_DO_ON n ∧ s.wdReported.rd FD_STAT_WD_EXP 0 = s.rd FD_STAT_WD_EXP 0 ∧
    ⟨0x3804, 3⟩ ∈ s.wdReported.ec.arrivals := by
  have hput : State.OutsGood { s with fd := { s.fd with wdRun := 0 } } := hs
  have hrec : State.OutKept [] n _ (State.stateRec { s with fd := { s.fd with wdRun := 0 } } 0x38 0x01 0
      (outsWhere 0 24 (fun n => State.rd { s with fd := { s.fd with wdRun := 0 } } FD_DO_ROW n == 6)) 0 0 true) :=
    State.outKept_told State.stateRec_moves rfl rfl (fun hi => by rw [← State.stateRec_moves.keep hi .fd rfl])
  have hall := (hrec.trans (State.outKept_fdNotify _ 4 0 3 (s.rd FD_CTL_WD_TIME 0) 0)) hput
  exact ⟨hall.rd FD_DO_ROW rfl rfl n fun _ => rfl, hall.rd FD_DO_ON rfl rfl n fun _ => rfl,
    hall.rd FD_STAT_WD_EXP rfl rfl 0 fun h => absurd h (by decide), State.fdNotify_mem_arrivals (hrec hput).good (by decide)⟩

section expiry
variable (hs : s.OutsGood)
include hs

/-- The expiry leaves what rules an output but the watchdog itself. -/
theorem State.wdExpired_effect : s.wdExpired.OutsGood ∧ s.wdExpired.flag FD_STAT_WD_EXP 0 = true ∧
    (s.ballsKept 0 24).OutSame [FD_STAT_WD_EXP, FD_STAT_WD_COUNT] n s.wdExpired := by
  have hballs := State.ballsKept_good 0 24 hs
  unfold State.wdExpired
  generalize s.ballsKept 0 24 = y at hballs
  have hexp : y.OutSame [FD_STAT_WD_EXP] n (y.wr FD_STAT_WD_EXP 0 1) := State.outKept_wr ⟨rfl, rfl, .inl List.mem_cons_self⟩ y 1 hballs
  have hcount : (y.wr FD_STAT_WD_EXP 0 1).OutSame [FD_STAT_WD_COUNT] n ((y.wr FD_STAT_WD_EXP 0 1).bump FD_STAT_WD_COUNT 0 1) :=
    State.outKept_bump ⟨rfl, rfl, .inl List.mem_cons_self⟩ _ 1 hexp.good
  refine ⟨hcount.good, ?_, (hexp.mono (by simp)).trans (hcount.mono (by simp))⟩
  exact (hcount.flag (g := FD_STAT_WD_EXP) rfl rfl fun h => absurd h (by decide)).trans (State.flag_wr_one hballs.1 rfl 0)

/-- An output that nothing holds off goes to its safe state when the watchdog expires. -/
theorem State.wdExpired_row (hn : n < 24) (hen : s.flag FD_CTL_WD_EN 0 = true) (hfree : s.RowFree n) (hsrc : s.pulseSrc n = false)
    (hsafe : s.rd FD_DO_SAFE n = 1) : s.wdExpired.RowFree n ∧ s.wdExpired.doCmd n = (6, true) := by
  obtain ⟨hin, hballs⟩ := State.ballsKept_effect hs hn
  obtain ⟨-, hexp, hsame⟩ := State.wdExpired_effect (n := n) hs
  refine ⟨hsame.rowFree (State.ballsKept_good 0 24 hs).1 rfl rfl (hballs hfree), State.doCmd_expired hn hexp ?_ ?_ ?_⟩
  · rw [hsame.flag (g := FD_CTL_WD_EN) rfl rfl fun h => absurd h (by decide),
      hin.flag (g := FD_CTL_WD_EN) rfl rfl fun h => absurd h (by decide), hen]
  · unfold State.pulseSrc
    rw [hsame.rd FD_DO_MODE rfl rfl n fun _ => rfl, hin.rd FD_DO_MODE rfl rfl n fun _ => rfl]
    exact hsrc
  · rw [hsame.rd FD_DO_SAFE rfl rfl n fun _ => rfl, hin.rd FD_DO_SAFE rfl rfl n fun _ => rfl, hsafe]

end expiry

theorem exec_fieldWatchdogExpiry_effect (hi : s.Inv) (hmaps : s.fieldMapsOk = true) (hon : s.fieldOn = true) (harmed : s.fd.wdArmed = true)
    (hen : s.flag FD_CTL_WD_EN 0 = true) (hhold : s.flag FD_STAT_HOLD 0 = false) (hexp : s.flag FD_STAT_WD_EXP 0 = false)
    (hdue : s.fd.wdAt + s.rd FD_CTL_WD_TIME 0 * 800000 ≤ s.elapsed) :
    ∃ t, exec .fieldWatchdogExpiry s = .next t ∧ t.flag FD_STAT_WD_EXP 0 = true ∧ ⟨0x3804, 3⟩ ∈ t.ec.arrivals ∧
      ∀ n, n < 24 → s.RowFree n → s.pulseSrc n = false → s.rd FD_DO_SAFE n = 1 → t.rd FD_DO_ROW n = 6 ∧ t.flag FD_DO_ON n = true := by
  have hs := State.outsGood hi hmaps
  obtain ⟨hgood, hshown, -⟩ := State.wdExpired_effect (n := 0) hs
  obtain ⟨hdriven, -, hleft, -⟩ := State.fdDrive_left hgood (n := 0) (by decide)
  obtain ⟨-, -, hexpEnd, harrived⟩ := State.wdReported_effect (n := 0) hdriven
  refine ⟨_, exec_fieldWatchdogExpiry_due hon harmed hen hhold hexp hdue, ?_, harrived, fun n hn hfree hsrc hsafe => ?_⟩
  · exact (congrArg (· != 0) (hexpEnd.trans (hleft FD_STAT_WD_EXP rfl rfl 0 fun _ => rfl))).trans hshown
  · obtain ⟨hfreeEnd, hcmd⟩ := State.wdExpired_row hs hn hen hfree hsrc hsafe
    obtain ⟨hrow, hlit⟩ := State.fdDrive_free hgood (by omega) hfreeEnd
    obtain ⟨hrowEnd, hlitEnd, -, -⟩ := State.wdReported_effect (n := n) hdriven
    rw [hcmd] at hrow hlit
    exact ⟨hrowEnd.trans hrow, (congrArg (· != 0) hlitEnd).trans hlit⟩

/-! The heartbeat (R14, R430). -/

/-- The loss shown, and recorded. -/
def State.hbShown (s : State) : State := (s.ballsKept 24 8).wr FD_STAT_HB_LOST 0 1

def State.hbReported (s : State) : State := s.stateRec 0x38 0x01 1 (outsWhere 24 8 (fun n => s.rd FD_DO_ROW n == 9)) 0 0 true

theorem exec_heartbeatLoss_due (hon : s.fieldOn = true) (hat : s.fd.hbAt ≠ 0) (hlost : s.flag FD_STAT_HB_LOST 0 = false)
    (hhold : s.fd.hbHold = false) (hdue : s.fd.hbAt + 200000 ≤ s.elapsed + 1) : exec .heartbeatLoss s = .next s.hbShown.fdDrive.hbReported := by
  show execHeartbeatLoss s = _
  unfold execHeartbeatLoss
  rw [if_pos (by simp [hon, hat, hlost, hhold, hdue])]
  rfl

theorem State.hbReported_rd (hs : s.OutsGood) {f : Field} (hf : f.unit = 0x38) (j : Nat) : s.hbReported.rd f j = s.rd f j :=
  State.stateRec_moves.rd hs.1 (by rw [hf]; rfl) j

theorem State.hbShown_effect (hs : s.OutsGood) : s.hbShown.OutsGood ∧ s.hbShown.flag FD_STAT_HB_LOST 0 = true := by
  have hballs := State.ballsKept_good 24 8 hs
  unfold State.hbShown
  generalize s.ballsKept 24 8 = y at hballs
  have hlost : y.OutSame [FD_STAT_HB_LOST] 0 (y.wr FD_STAT_HB_LOST 0 1) := State.outKept_wr ⟨rfl, rfl, .inl List.mem_cons_self⟩ y 1 hballs
  exact ⟨hlost.good, State.flag_wr_one hballs.1 rfl 0⟩

theorem exec_heartbeatLoss_effect (hi : s.Inv) (hmaps : s.fieldMapsOk = true) (hon : s.fieldOn = true) (hat : s.fd.hbAt ≠ 0)
    (hlost : s.flag FD_STAT_HB_LOST 0 = false) (hhold : s.fd.hbHold = false) (hdue : s.fd.hbAt + 200000 ≤ s.elapsed + 1) :
    ∃ t, exec .heartbeatLoss s = .next t ∧ t.flag FD_STAT_HB_LOST 0 = true := by
  obtain ⟨hgood, hshown⟩ := State.hbShown_effect (State.outsGood hi hmaps)
  obtain ⟨hdriven, -, hleft, -⟩ := State.fdDrive_left hgood (n := 0) (by decide)
  have hend := (State.hbReported_rd hdriven (f := FD_STAT_HB_LOST) rfl 0).trans (hleft FD_STAT_HB_LOST rfl rfl 0 fun _ => rfl)
  exact ⟨_, exec_heartbeatLoss_due hon hat hlost hhold hdue, (congrArg (· != 0) hend).trans hshown⟩

end

end Sys2Proof.Machine
end

