-- ==== Sys2Proof/Proofs/OutputRelease.lean ====
section
/-! Outputs that the supply switched off come back (R434). -/

namespace Sys2Proof.Machine

open Sys2Proof

section
variable {s : State} {n : Nat}

/-- With no cut-off under way, `fdDrive` leaves what the supply did to an output. -/
theorem State.fdDrive_uncut (hs : s.OutsGood) (hn : n < 32) (hcut : s.fd.cut = none) :
    (s.fdDrive.dout n).cut = (s.dout n).cut ∧ s.fdDrive.rd FD_DO_UV_OFF n = s.rd FD_DO_UV_OFF n := by
  obtain ⟨y, hy, hrest⟩ := State.fdDrive_pass hs hn
  rw [State.cutSlots_none hcut] at hy
  obtain ⟨-, hrd, hkept, -⟩ := State.doDrive_left (n := n) hy.good
  rw [hrest.dout, hkept, hy.dout, hrest.rd FD_DO_UV_OFF rfl rfl n fun _ => rfl, hrd FD_DO_UV_OFF rfl rfl, hy.rd FD_DO_UV_OFF rfl rfl n fun _ => rfl]
  exact ⟨rfl, rfl⟩

/-- One output let go. -/
def State.uvLet (s : State) (n : Nat) : State := (s.setDout n { s.dout n with cut := false }).wr FD_DO_UV_OFF n 0

theorem State.uvRelease_eq (l : List Nat) : s.uvRelease l = l.foldl State.uvLet s := rfl

theorem State.uvLet_effect (hs : s.OutsGood) : (s.uvLet n).OutsGood ∧ ((s.uvLet n).dout n).cut = false ∧
    (s.uvLet n).flag FD_DO_UV_OFF n = false := by
  have hset := State.setDout_good (n := n) hs { s.dout n with cut := false }
  have hget := State.setDout_dout (n := n) (x := { s.dout n with cut := false }) hs
  unfold State.uvLet
  generalize s.setDout n { s.dout n with cut := false } = y at hset hget
  have hwr : y.OutSame [FD_DO_UV_OFF] n (y.wr FD_DO_UV_OFF n 0) := State.outKept_wr ⟨rfl, rfl, .inl List.mem_cons_self⟩ y 0 hset
  refine ⟨hwr.good, ?_, State.flag_wr_zero hset.1 rfl n⟩
  rw [hwr.dout, hget]

theorem State.outKept_uvLet {m : Nat} (hne : n % 65536 ≠ m % 65536) (s : State) : State.OutKept [] n s (s.uvLet m) :=
  (State.outKept_setDout_other hne s _).trans (State.outKept_wr (Field.elsewhere_other hne rfl rfl rfl) _ 0)

section release
variable {l : List Nat} (hs : s.OutsGood) (hl : ∀ m, m ∈ l → m < 32) (hn : n < 32)
include hs hl hn

/-- An output outside a release stays as it is. -/
theorem State.uvRelease_kept (hm : n ∉ l) : s.OutSame [] n (s.uvRelease l) := by
  rw [State.uvRelease_eq]
  refine State.OutKept.foldl l (fun y m hmem => State.outKept_uvLet ?_ y) s hs
  have := hl m hmem
  rw [Nat.mod_eq_of_lt (by omega), Nat.mod_eq_of_lt (by omega)]
  exact fun h => hm (h ▸ hmem)

/-- An output of a release is let go. -/
theorem State.uvRelease_let (hd : l.Nodup) (hm : n ∈ l) : (s.uvRelease l).OutsGood ∧ ((s.uvRelease l).dout n).cut = false ∧
    (s.uvRelease l).flag FD_DO_UV_OFF n = false ∧ (s.uvRelease l).fd = { s.fd with dos := (s.uvRelease l).fd.dos, ntf := (s.uvRelease l).fd.ntf } := by
  obtain ⟨y, hy, hrest⟩ := State.outPass (n := n) (f := State.uvLet) (s := s)
    (fun y m hlt hne => State.outKept_uvLet (by rw [Nat.mod_eq_of_lt hlt, Nat.mod_eq_of_lt (by omega)]; exact hne.symm) y)
    (fun y hy => (State.uvLet_effect hy).1) l (fun m hmem => by
      have := hl m hmem
      omega) hd hm hs
  obtain ⟨-, hcut, hoff⟩ := State.uvLet_effect (n := n) hy.good
  have hfd : (y.uvLet n).fd = { y.fd with dos := (y.uvLet n).fd.dos } := rfl
  rw [State.uvRelease_eq]
  refine ⟨hrest.good, (congrArg DoSt.cut hrest.dout).trans hcut, (hrest.flag (g := FD_DO_UV_OFF) rfl rfl fun _ => rfl).trans hoff, ?_⟩
  rw [hrest.fd, hfd, hy.fd]

end release

/-! The supply is good for 50 ms. -/

/-- The outputs that return by themselves. -/
def State.uvFree (s : State) : List Nat := ((List.range 32).filter (fun n => (s.dout n).cut)).filter (fun n => !s.flag FD_DO_LATCH_UV n)

theorem State.mem_uvFree (hn : n < 32) (hcut : (s.dout n).cut = true) : n ∈ s.uvFree ↔ s.flag FD_DO_LATCH_UV n = false := by
  unfold State.uvFree
  rw [List.mem_filter, List.mem_filter, List.mem_range]
  simp [hn, hcut]

theorem State.uvFree_lt {m : Nat} (h : m ∈ s.uvFree) : m < 32 := List.mem_range.1 (List.mem_filter.1 (List.mem_filter.1 h).1).1

theorem State.uvFree_nodup : s.uvFree.Nodup := (List.nodup_range.filter _).filter _

/-- The outputs that return, let go; and the record of it. -/
def State.uvBack (s : State) : State := State.uvRelease { s with fd := { s.fd with goodAt := none } } s.uvFree

theorem exec_supplyGoodExpiry_due {t0 : Nat} (hat : s.fd.goodAt = some t0) (hon : s.fieldOn = true) (hgood : s.rd FD_STAT_FLD 0 = 0)
    (hdue : t0 + 40000000 ≤ s.elapsed) (hcut : s.fd.cut = none) (hoff : n < 32 ∧ (s.dout n).cut = true) :
    ∃ p q, exec .supplyGoodExpiry s = .next (s.uvBack.stateRec 0x38 0x03 0 p q 0 true).fdDrive := by
  have hsome : ((List.range 32).filter (fun n => (s.dout n).cut)).isEmpty = false := by
    rw [List.isEmpty_eq_false_iff_exists_mem]
    exact ⟨n, List.mem_filter.2 ⟨List.mem_range.2 hoff.1, hoff.2⟩⟩
  have hgo : exec .supplyGoodExpiry s = execSupplyGoodExpiry s := rfl
  rw [hgo]
  unfold execSupplyGoodExpiry
  rw [hat]
  dsimp only
  rw [if_pos (by simp [hon, hgood, hdue, hcut]), hsome, if_neg Bool.false_ne_true]
  exact ⟨_, _, rfl⟩

theorem State.uvBack_effect (hs : s.OutsGood) (hn : n < 32) (hoff : (s.dout n).cut = true) : s.uvBack.OutsGood ∧
    (s.uvBack.dout n).cut = s.flag FD_DO_LATCH_UV n ∧ (s.flag FD_DO_LATCH_UV n = false → s.uvBack.flag FD_DO_UV_OFF n = false) ∧
    s.uvBack.fd.goodAt = none ∧ s.uvBack.fd.cut = s.fd.cut := by
  have hput : State.OutsGood { s with fd := { s.fd with goodAt := none } } := hs
  unfold State.uvBack
  cases hlatch : s.flag FD_DO_LATCH_UV n with
  | false =>
    have hmem : n ∈ s.uvFree := (State.mem_uvFree hn hoff).2 hlatch
    obtain ⟨hgood, hcut, huv, hfd⟩ := State.uvRelease_let (n := n) hput (fun m hm => State.uvFree_lt hm) hn State.uvFree_nodup hmem
    exact ⟨hgood, hcut, fun _ => huv, by rw [hfd], by rw [hfd]⟩
  | true =>
    have hmem : n ∉ s.uvFree := fun h => Bool.false_ne_true (((State.mem_uvFree hn hoff).1 h).symm.trans hlatch)
    have hkept := State.uvRelease_kept (n := n) hput (fun m hm => State.uvFree_lt hm) hn hmem
    exact ⟨hkept.good, (congrArg DoSt.cut hkept.dout).trans hoff, fun h => absurd h (by decide), by rw [hkept.fd], by rw [hkept.fd]⟩

theorem exec_supplyGoodExpiry_effect {t0 : Nat} (hi : s.Inv) (hmaps : s.fieldMapsOk = true) (hon : s.fieldOn = true)
    (hgood : s.rd FD_STAT_FLD 0 = 0) (hcut : s.fd.cut = none) (hn : n < 32) (hoff : (s.dout n).cut = true) (hat : s.fd.goodAt = some t0)
    (hdue : t0 + 40000000 ≤ s.elapsed) :
    ∃ t, exec .supplyGoodExpiry s = .next t ∧ t.fd.goodAt = none ∧ (t.dout n).cut = s.flag FD_DO_LATCH_UV n ∧
      (s.flag FD_DO_LATCH_UV n = false → t.flag FD_DO_UV_OFF n = false) := by
  obtain ⟨p, q, hgo⟩ := exec_supplyGoodExpiry_due hat hon hgood hdue hcut ⟨hn, hoff⟩
  obtain ⟨hback, hcutBack, huv, hat', hslots⟩ := State.uvBack_effect (State.outsGood hi hmaps) hn hoff
  generalize s.uvBack = y at *
  have hrec : y.OutSame [] n (y.stateRec 0x38 0x03 0 p q 0 true) :=
    State.outKept_told State.stateRec_moves rfl rfl (fun hi => by rw [← State.stateRec_moves.keep hi .fd rfl]) hback
  obtain ⟨hend, huvEnd⟩ := State.fdDrive_uncut hrec.good hn (by rw [hrec.fd]; exact hslots.trans hcut)
  obtain ⟨-, -, -, -, hfd⟩ := State.fdDrive_left hrec.good hn
  refine ⟨_, hgo, ?_, ?_, fun h => ?_⟩
  · rw [hfd]
    exact (congrArg FdSt.goodAt hrec.fd).trans hat'
  · rw [hend, hrec.dout, hcutBack]
  · exact (congrArg (· != 0) (huvEnd.trans (hrec.rd FD_DO_UV_OFF rfl rfl n fun _ => rfl))).trans (huv h)

/-! CLR_UV. -/

/-- The outputs that a mask lets go. -/
def State.uvMasked (s : State) (mask : Nat) : List Nat :=
  (List.range 32).filter (fun n => natBit mask n && (s.dout n).cut && (s.flag FD_DO_LATCH_UV n || s.fd.goodAt.isNone))

theorem exec_clrUv_effect {mask : W32} (hi : s.Inv) (hmaps : s.fieldMapsOk = true) (hon : s.fieldOn = true)
    (hgood : s.rd FD_STAT_FLD 0 = 0) (hcut : s.fd.cut = none) (hn : n < 32) (hoff : (s.dout n).cut = true)
    (hmask : natBit mask.toNat n = true) (hlatch : s.flag FD_DO_LATCH_UV n = true) :
    ∃ t, exec (.clrUv mask) s = .next t ∧ (t.dout n).cut = false ∧ t.flag FD_DO_UV_OFF n = false := by
  have hgo : exec (.clrUv mask) s = .next (s.clrUv mask.toNat) := (show execClrUv mask s = _ from if_pos hon)
  have hclr : s.clrUv mask.toNat = (s.uvRelease (s.uvMasked mask.toNat)).fdDrive := if_pos hgood
  have hmem : n ∈ s.uvMasked mask.toNat := List.mem_filter.2 ⟨List.mem_range.2 hn, by rw [hmask, hoff, hlatch]; rfl⟩
  obtain ⟨hend, hlet, huv, hfd⟩ := State.uvRelease_let (State.outsGood hi hmaps)
    (fun m hm => List.mem_range.1 (List.mem_filter.1 hm).1) hn (List.nodup_range.filter _) hmem
  obtain ⟨hcutEnd, huvEnd⟩ := State.fdDrive_uncut hend hn (by rw [hfd]; exact hcut)
  rw [hclr] at hgo
  exact ⟨_, hgo, hcutEnd.trans hlet, (congrArg (· != 0) huvEnd).trans huv⟩

end

end Sys2Proof.Machine
end

