-- ==== Sys2Proof/Proofs/SupplyStates.lean ====
section
/-! The states of the field supply (R431 to R433): what each entry does to the inputs, and the cut-off of the outputs. -/

namespace Sys2Proof.Machine

open Sys2Proof

/-- The registers that a supply state writes. -/
def supplyFields : List Field := [FD_STAT_FLD, FD_DI_VALID]

/-- What the supply's steps leave: the other registers of the field die, the outputs, and the rest of the die but its inputs. -/
structure State.SupplyKept (s t : State) : Prop where
  good : t.OutsGood
  ins : mapOk (fun _ => DiSt.init0) s.fd.di = true → mapOk (fun _ => DiSt.init0) t.fd.di = true
  rd : ∀ g : Field, g.unit = 0x38 → g.off supplyFields = true → ∀ j, t.rd g j = s.rd g j
  fd : t.fd = { s.fd with di := t.fd.di, goodAt := t.fd.goodAt, cut := t.fd.cut, ntf := t.fd.ntf }
  kept : Moves outputKinds s t

section
variable {s t : State} {n : Nat}

theorem State.SupplyKept.refl (hs : s.OutsGood) : s.SupplyKept s := ⟨hs, id, fun _ _ _ _ => rfl, rfl, .refl⟩

theorem State.SupplyKept.trans {u : State} (h : s.SupplyKept t) (h' : t.SupplyKept u) : s.SupplyKept u where
  good := h'.good
  ins hm := h'.ins (h.ins hm)
  rd g hu hg j := (h'.rd g hu hg j).trans (h.rd g hu hg j)
  fd := by rw [h'.fd, h.fd]
  kept := h.kept.trans h'.kept

theorem State.SupplyKept.dout (h : s.SupplyKept t) (n : Nat) : t.dout n = s.dout n := by
  unfold State.dout
  rw [h.fd]

theorem State.SupplyKept.flag (h : s.SupplyKept t) {g : Field} (hu : g.unit = 0x38) (hg : g.off supplyFields = true) (j : Nat) :
    t.flag g j = s.flag g j := congrArg (· != 0) (h.rd g hu hg j)

theorem State.supplyKept_wr (hs : s.OutsGood) {f : Field} (hf : f ∈ supplyFields) (j v : Nat) : s.SupplyKept (s.wr f j v) := by
  have hall : ∀ f, f ∈ supplyFields → f.unit = 0x38 := by decide
  have hfd : (s.wr f j v).fd = s.fd := State.wr_fd s f j v
  exact ⟨⟨State.wr_inv hs.1 f j v, hfd.symm ▸ hs.2⟩, fun hm => hfd.symm ▸ hm,
    fun g _ hg i => State.rdk_wrk_beside hs.1 (Field.off_mem hg hf) j i v, by rw [hfd], .wr .refl (by rw [hall f hf]; rfl)⟩

theorem State.supplyKept_setFd (hs : s.OutsGood) (d : FdSt) (hd : d = { s.fd with di := d.di, goodAt := d.goodAt, cut := d.cut, ntf := d.ntf })
    (hm : mapOk (fun _ => DiSt.init0) s.fd.di = true → mapOk (fun _ => DiSt.init0) d.di = true) : s.SupplyKept { s with fd := d } :=
  ⟨⟨hs.1, by rw [show State.fd { s with fd := d } = d from rfl, hd]; exact hs.2⟩, hm, fun _ _ _ _ => rfl, hd, .fd .refl rfl⟩

theorem State.SupplyKept.foldl {f : State → Nat → State} (hf : ∀ y m, State.OutsGood y → y.SupplyKept (f y m)) :
    ∀ (l : List Nat) {s : State}, s.OutsGood → s.SupplyKept (l.foldl f s)
  | [], _, hs => .refl hs
  | m :: l, s, hs => (hf s m hs).trans (State.SupplyKept.foldl hf l (hf s m hs).good)

/-! The inputs (R420, R432). -/

theorem State.supplyKept_diJudge (hs : s.OutsGood) (m : Nat) : s.SupplyKept (s.diJudge m) := State.supplyKept_wr hs (by decide) m _

theorem State.supplyKept_diRestart (hs : s.OutsGood) (m : Nat) : s.SupplyKept (s.diRestart m) := by
  have hset : s.SupplyKept (s.setDin m { s.din m with init := false, ow := 0, bad := 0 }) := State.supplyKept_setFd hs _ rfl mset_ok
  exact hset.trans (State.supplyKept_diJudge hset.good m)

theorem State.wr_din (s : State) (f : Field) (i v n : Nat) : (s.wr f i v).din n = s.din n := by
  unfold State.din
  rw [State.wr_fd]

/-- A judgement of an input while the supply makes every input invalid. -/
theorem State.diJudge_off (hs : s.OutsGood) (hoff : s.inputsOff = true) (m j : Nat) :
    (s.diJudge m).flag FD_DI_VALID j = if j % 65536 = m % 65536 then false else s.flag FD_DI_VALID j := by
  unfold State.diJudge
  rw [State.flag_setFlag_at hs.1 rfl rfl, hoff, Bool.not_true, Bool.and_false, Bool.false_and, Bool.false_and, Bool.false_and]

theorem State.inputsOff_congr (hfld : t.rd FD_STAT_FLD 0 = s.rd FD_STAT_FLD 0) : t.inputsOff = s.inputsOff := by
  unfold State.inputsOff
  rw [hfld]

theorem State.diJudge_fld (hs : s.OutsGood) (m : Nat) : (s.diJudge m).rd FD_STAT_FLD 0 = s.rd FD_STAT_FLD 0 :=
  State.rdk_wrk_beside hs.1 (by decide) m 0 _

theorem State.diJudges_off : ∀ (l : List Nat) {s : State}, s.OutsGood → s.inputsOff = true → n ∈ l ∨ s.flag FD_DI_VALID n = false →
    (l.foldl State.diJudge s).flag FD_DI_VALID n = false
  | [], _, _, _, h => h.resolve_left List.not_mem_nil
  | m :: l, s, hs, hoff, h => by
    have hkept := State.supplyKept_diJudge hs m
    refine State.diJudges_off l hkept.good ((State.inputsOff_congr (State.diJudge_fld hs m)).trans hoff) ?_
    rw [State.diJudge_off hs hoff]
    split
    · exact .inr rfl
    · next hne => exact h.imp (fun hm => (List.mem_cons.1 hm).resolve_left fun h => hne (by rw [h])) id

theorem State.diRestart_din (hm : mapOk (fun _ => DiSt.init0) s.fd.di = true) (m j : Nat) :
    ((s.diRestart m).din j).init = if j = m then false else (s.din j).init := by
  have hkept : (s.diRestart m).din j = (s.setDin m { s.din m with init := false, ow := 0, bad := 0 }).din j := State.wr_din _ _ _ _ _
  rw [hkept]
  split
  · next h =>
    subst h
    exact congrArg DiSt.init (mget_mset_same j { s.din j with init := false, ow := 0, bad := 0 } _ hm :)
  · next h => exact congrArg DiSt.init (mget_mset_ne _ h _ hm)

theorem State.diRestarts_init : ∀ (l : List Nat) {s : State}, s.OutsGood → mapOk (fun _ => DiSt.init0) s.fd.di = true →
    n ∈ l ∨ (s.din n).init = false → ((l.foldl State.diRestart s).din n).init = false
  | [], _, _, _, h => h.resolve_left List.not_mem_nil
  | m :: l, s, hs, hmap, h => by
    have hkept := State.supplyKept_diRestart hs m
    refine State.diRestarts_init l hkept.good (hkept.ins hmap) ?_
    rw [State.diRestart_din hmap]
    split
    · exact .inr rfl
    · next hne => exact h.imp (fun hm => (List.mem_cons.1 hm).resolve_left hne) id

/-! The entry of a supply state. -/

/-- The state shown, and since when the supply is good. -/
def State.fldShown (s : State) (k : Nat) : State :=
  let y := s.wr FD_STAT_FLD 0 k
  if k = 0 then { y with fd := { y.fd with goodAt := some s.elapsed } } else { y with fd := { y.fd with goodAt := none } }

/-- What it does to the inputs: they start again, or are invalid. -/
def State.fldInputs (s : State) (back : Bool) : State :=
  if back then (List.range 48).foldl State.diRestart s
  else if s.inputsOff then (List.range 48).foldl State.diJudge s else s

/-- The cut-off of the outputs begins. -/
def State.cutBegun (s : State) (k mv now : Nat) : State :=
  if k = 3 ∧ s.fd.cut.isNone then { s with fd := { s.fd with cut := some (now, mv, 0, 0) } } else s

/-- The class of a report of a supply state. -/
def fldClass (k : Nat) : Nat := if k = 0 then 0 else if k = 1 then 1 else 2

theorem State.fldShown_effect (hs : s.OutsGood) {k : Nat} (hk : k < 4) : s.SupplyKept (s.fldShown k) ∧
    (s.fldShown k).rd FD_STAT_FLD 0 = k ∧ (s.fldShown k).fd.goodAt = (if k = 0 then some s.elapsed else none) ∧
    (s.fldShown k).fd.cut = s.fd.cut := by
  have hwr : s.SupplyKept (s.wr FD_STAT_FLD 0 k) := State.supplyKept_wr hs (by decide) 0 k
  have hfld : (s.wr FD_STAT_FLD 0 k).rd FD_STAT_FLD 0 = k := (State.rd_wr_same hs.1 rfl 0 k).trans (Nat.mod_eq_of_lt hk)
  have hfd : (s.wr FD_STAT_FLD 0 k).fd = s.fd := State.wr_fd s _ 0 k
  unfold State.fldShown
  dsimp only
  generalize s.wr FD_STAT_FLD 0 k = y at *
  split
  · exact ⟨hwr.trans (State.supplyKept_setFd hwr.good _ rfl id), hfld, rfl, (congrArg FdSt.cut hfd :)⟩
  · exact ⟨hwr.trans (State.supplyKept_setFd hwr.good _ rfl id), hfld, rfl, (congrArg FdSt.cut hfd :)⟩

theorem State.diJudge_fd (s : State) (m : Nat) : (s.diJudge m).fd = { s.fd with di := (s.diJudge m).fd.di } := rfl

theorem State.diRestart_fd (s : State) (m : Nat) : (s.diRestart m).fd = { s.fd with di := (s.diRestart m).fd.di } := rfl

theorem State.foldl_fd_di {f : State → Nat → State} (hf : ∀ y m, (f y m).fd = { y.fd with di := (f y m).fd.di }) :
    ∀ (l : List Nat) (s : State), (l.foldl f s).fd = { s.fd with di := (l.foldl f s).fd.di }
  | [], _ => rfl
  | m :: l, s => by
    have hrest := State.foldl_fd_di hf l (f s m)
    rw [hf s m] at hrest
    exact hrest

theorem State.fldInputs_effect (hs : s.OutsGood) (back : Bool) : s.SupplyKept (s.fldInputs back) ∧
    (s.fldInputs back).rd FD_STAT_FLD 0 = s.rd FD_STAT_FLD 0 ∧ (s.fldInputs back).fd = { s.fd with di := (s.fldInputs back).fd.di } ∧
    (back = false → s.inputsOff = true → ∀ n, n < 48 → (s.fldInputs back).flag FD_DI_VALID n = false) ∧
    (back = true → mapOk (fun _ => DiSt.init0) s.fd.di = true → ∀ n, n < 48 → ((s.fldInputs back).din n).init = false) := by
  have hjudge : ∀ y m, State.KeepsRd FD_STAT_FLD y (y.diJudge m) := fun y m => State.keepsRd_wr y (by decide) m _
  have hrestart : ∀ y m, State.KeepsRd FD_STAT_FLD y (y.diRestart m) := fun y m hy => State.keepsRd_wr _ (by decide) m _ hy
  unfold State.fldInputs
  cases back with
  | true =>
    rw [if_pos rfl]
    exact ⟨.foldl (fun y m hy => State.supplyKept_diRestart hy m) _ hs, (State.KeepsRd.foldl hrestart _ s hs.1).2 0,
      State.foldl_fd_di (fun y m => State.diRestart_fd y m) _ s, fun h => absurd h (by decide),
      fun _ hmap n hn => State.diRestarts_init _ hs hmap (.inl (List.mem_range.2 hn))⟩
  | false =>
    rw [if_neg Bool.false_ne_true]
    split
    · next hoff =>
      exact ⟨.foldl (fun y m hy => State.supplyKept_diJudge hy m) _ hs, (State.KeepsRd.foldl hjudge _ s hs.1).2 0,
        State.foldl_fd_di (fun y m => State.diJudge_fd y m) _ s,
        fun _ _ n hn => State.diJudges_off _ hs hoff (.inl (List.mem_range.2 hn)), fun h => absurd h (by decide)⟩
    · next hon => exact ⟨.refl hs, rfl, rfl, fun _ h => absurd h hon, fun h => absurd h (by decide)⟩

theorem State.cutBegun_effect (hs : s.OutsGood) (k mv now : Nat) : s.SupplyKept (s.cutBegun k mv now) ∧
    (∀ g j, (s.cutBegun k mv now).rd g j = s.rd g j) ∧
    (s.cutBegun k mv now).fd = { s.fd with cut := if k = 3 ∧ s.fd.cut.isNone then some (now, mv, 0, 0) else s.fd.cut } := by
  unfold State.cutBegun
  split
  · exact ⟨State.supplyKept_setFd hs _ rfl id, fun _ _ => rfl, rfl⟩
  · exact ⟨.refl hs, fun _ _ => rfl, rfl⟩

theorem State.fldEnter_eq (k mv : Nat) : s.fldEnter k mv =
    (((s.fldShown k).fldInputs (decide (k < s.rd FD_STAT_FLD 0) && s.inputsOff && decide (k < 2))).cutBegun k mv s.elapsed).fdNotify 1 0
      (fldClass k) k mv := rfl

theorem State.supplyKept_fdNotify (hs : s.OutsGood) (code ch cls p0 p1 : Nat) : s.SupplyKept (s.fdNotify code ch cls p0 p1) := by
  have hfd := State.fdNotify_fd hs.1 code ch cls p0 p1
  have hmoves : Moves outputKinds s (s.fdNotify code ch cls p0 p1) := State.fdNotify_moves.mono rfl
  have hdi : (s.fdNotify code ch cls p0 p1).fd.di = s.fd.di := by rw [hfd]
  exact ⟨(State.outKept_fdNotify (fs := []) (n := 0) s code ch cls p0 p1 hs).good, fun hm => hdi.symm ▸ hm,
    fun g hu _ j => (State.outKept_fdNotify (fs := []) s code ch cls p0 p1 hs).rd g hu rfl j fun _ => rfl, by rw [hfd], hmoves⟩

/-- What the entry of a supply state does. -/
structure State.FldEntered (k mv : Nat) (s t : State) : Prop extends s.SupplyKept t where
  fld : t.rd FD_STAT_FLD 0 = k
  goodAt : t.fd.goodAt = if k = 0 then some s.elapsed else none
  cut : t.fd.cut = if k = 3 ∧ s.fd.cut.isNone then some (s.elapsed, mv, 0, 0) else s.fd.cut
  invalid : 2 ≤ k → ∀ n, n < 48 → t.flag FD_DI_VALID n = false
  restart : k = 1 → s.rd FD_STAT_FLD 0 = 2 → mapOk (fun _ => DiSt.init0) s.fd.di = true → ∀ n, n < 48 → (t.din n).init = false
  told : k ≠ 0 → ⟨0x3801, fldClass k⟩ ∈ t.ec.arrivals

theorem State.fldEnter_entered (hs : s.OutsGood) {k : Nat} (hk : k < 4) (mv : Nat) : s.FldEntered k mv (s.fldEnter k mv) := by
  obtain ⟨h1, hfld1, hgood1, hcut1⟩ := State.fldShown_effect hs hk
  rw [State.fldEnter_eq]
  have hback : 2 ≤ k → (decide (k < s.rd FD_STAT_FLD 0) && s.inputsOff && decide (k < 2)) = false := fun h => by
    rw [decide_eq_false (show ¬k < 2 by omega), Bool.and_false]
  have hstart : k = 1 → s.rd FD_STAT_FLD 0 = 2 → (decide (k < s.rd FD_STAT_FLD 0) && s.inputsOff && decide (k < 2)) = true := fun h h' => by
    unfold State.inputsOff
    rw [h, h']
    rfl
  generalize (decide (k < s.rd FD_STAT_FLD 0) && s.inputsOff && decide (k < 2)) = back at *
  generalize s.fldShown k = a at *
  obtain ⟨h2, hfld2, hfd2, hoff2, hinit2⟩ := State.fldInputs_effect h1.good back
  have hoff : 2 ≤ k → a.inputsOff = true := fun h => by
    unfold State.inputsOff
    rw [hfld1]
    exact decide_eq_true h
  generalize a.fldInputs back = b at *
  obtain ⟨h3, hrd3, hfd3⟩ := State.cutBegun_effect h2.good k mv s.elapsed
  generalize b.cutBegun k mv s.elapsed = c at *
  have h4 := State.supplyKept_fdNotify h3.good 1 0 (fldClass k) k mv
  have hfd4 := State.fdNotify_fd h3.good.1 1 0 (fldClass k) k mv
  have hrd4 : ∀ g : Field, g.unit = 0x38 → ∀ j, (c.fdNotify 1 0 (fldClass k) k mv).rd g j = b.rd g j := fun g hu j => by
    rw [State.fdNotify_moves.rd h3.good.1 (by rw [hu]; rfl), hrd3]
  refine ⟨((h1.trans h2).trans h3).trans h4, ?_, ?_, ?_, fun h n hn => ?_, fun h h' hm n hn => ?_, fun h => ?_⟩
  · rw [hrd4 _ rfl, hfld2, hfld1]
  · rw [hfd4, hfd3, hfd2]
    exact hgood1
  · rw [hfd4, hfd3, hfd2]
    show (if k = 3 ∧ a.fd.cut.isNone then _ else a.fd.cut) = _
    rw [hcut1]
  · exact (congrArg (· != 0) (hrd4 FD_DI_VALID rfl n)).trans (hoff2 (hback h) (hoff h) n hn)
  · unfold State.din
    rw [hfd4, hfd3]
    exact hinit2 (hstart h h') (h1.ins hm) n hn
  · refine State.fdNotify_mem_arrivals h3.good ?_
    unfold fldClass
    rw [if_neg h]
    split <;> decide

/-! Passing through the states one by one (R431). -/

theorem State.fldMove_down {mv k : Nat} (fuel : Nat) (hfld : s.rd FD_STAT_FLD 0 = k) (hk : k < 3) (hmv : mv < fldEntry (k + 1)) :
    s.fldMove mv (fuel + 1) = (s.fldEnter (k + 1) mv).fldMove mv fuel := by
  subst hfld
  exact if_pos ⟨hk, hmv⟩

theorem State.fldMove_up {mv k : Nat} (fuel : Nat) (hfld : s.rd FD_STAT_FLD 0 = k + 1) (hno : ¬(k + 1 < 3 ∧ mv < fldEntry (k + 1 + 1)))
    (hmv : fldExit (k + 1) < mv) : s.fldMove mv (fuel + 1) = (s.fldEnter k mv).fldMove mv fuel := by
  show (if s.rd FD_STAT_FLD 0 < 3 ∧ mv < fldEntry (s.rd FD_STAT_FLD 0 + 1) then _ else if 0 < s.rd FD_STAT_FLD 0 ∧
    fldExit (s.rd FD_STAT_FLD 0) < mv then (s.fldEnter (s.rd FD_STAT_FLD 0 - 1) mv).fldMove mv fuel else s) = _
  rw [hfld, if_neg hno, if_pos ⟨by omega, hmv⟩]
  rfl

theorem State.fldMove_rest {mv k : Nat} (fuel : Nat) (hfld : s.rd FD_STAT_FLD 0 = k) (hdown : ¬(k < 3 ∧ mv < fldEntry (k + 1)))
    (hup : ¬(0 < k ∧ fldExit k < mv)) : s.fldMove mv (fuel + 1) = s := by
  subst hfld
  exact (if_neg hdown).trans (if_neg hup)

/-! The first slot of a cut-off (R433). -/

/-- An output that a slot switches off stays off. -/
theorem State.fdDrive_slotOff (hs : s.OutsGood) (hn : n < 32) (hoff : ((s.cutSlots 34).dout n).cut = true) :
    (s.fdDrive.dout n).cut = true ∧ s.fdDrive.flag FD_DO_ON n = false := by
  obtain ⟨y, hy, hrest⟩ := State.fdDrive_pass hs hn
  have hcut : (y.dout n).cut = true := (congrArg DoSt.cut hy.dout).trans hoff
  obtain ⟨-, -, hkept, -⟩ := State.doDrive_left (n := n) hy.good
  exact ⟨(congrArg DoSt.cut hrest.dout).trans (hkept.trans hcut),
    (hrest.flag (g := FD_DO_ON) rfl rfl fun _ => rfl).trans (State.doDrive_heldOff hy.good (.inl hcut))⟩

theorem State.cutOff_cut (hs : s.OutsGood) : ((s.cutOff n).dout n).cut = true := by
  have hset := State.setDout_good (n := n) hs { s.dout n with cut := true }
  have hget := State.setDout_dout (n := n) (x := { s.dout n with cut := true }) hs
  unfold State.cutOff
  generalize s.setDout n { s.dout n with cut := true } = y at hset hget
  split
  · rw [(State.outKept_doFlag_here (n := n) (f := FD_DO_UV_OFF) rfl rfl y 0 1 hset).dout, hget]
  · rw [hget]

/-- A cut-off begins with output 0; its next slot is still to come. -/
theorem State.cutSlots_first {mv : Nat} (hs : s.OutsGood) (hcut : s.fd.cut = some (s.elapsed, mv, 0, 0)) :
    (s.cutSlots 34).fd.cut = some (s.elapsed, mv, 1, b2n (s.flag FD_DO_ON 0)) ∧ ((s.cutSlots 34).dout 0).cut = true := by
  have hkept := State.cutOff_kept (n := 0) hs 0
  have helapsed : (s.cutOff 0).elapsed = s.elapsed := (hkept.kept.commands hs.1).1
  have hoff := State.cutOff_cut (n := 0) hs
  rw [State.cutSlots_succ hcut, if_neg (by decide), if_neg (by omega)]
  rw [State.cutSlots_succ (t0 := s.elapsed) (mv := mv) (k := 1) (m := b2n (s.flag FD_DO_ON 0)) (by simp), if_neg (by decide),
    if_pos (by rw [show State.elapsed { s.cutOff 0 with fd := _ } = (s.cutOff 0).elapsed from rfl, helapsed]; omega)]
  exact ⟨by simp, hoff⟩

/-! FLD_SUPPLY_CROSSING (R431). -/

/-- The voltage shown. -/
def State.fldMeasured (s : State) (mv : Nat) : State := s.wr FD_STAT_FLD_MV 0 (min 65535 mv)

theorem State.fldMeasured_effect (hs : s.OutsGood) {mv : Nat} (hmv : mv < 65536) : (s.fldMeasured mv).OutsGood ∧
    Moves outputKinds s (s.fldMeasured mv) ∧ (s.fldMeasured mv).fd = s.fd ∧ (s.fldMeasured mv).rd FD_STAT_FLD_MV 0 = mv ∧
    ∀ g : Field, g.unit = 0x38 → g.off [FD_STAT_FLD_MV] = true → ∀ j, (s.fldMeasured mv).rd g j = s.rd g j := by
  have hfd : (s.fldMeasured mv).fd = s.fd := State.wr_fd s _ 0 _
  have hshown : (s.fldMeasured mv).rd FD_STAT_FLD_MV 0 = min 65535 mv % 65536 := State.rd_wr_same hs.1 rfl 0 _
  refine ⟨⟨State.wr_inv hs.1 _ _ _, hfd.symm ▸ hs.2⟩, .wr .refl rfl, hfd, hshown.trans (by omega), fun g _ hg j => ?_⟩
  exact State.rdk_wrk_beside hs.1 (Field.off_mem hg List.mem_cons_self) 0 j _

section crossing
variable {mv : Nat} {z : State} (hi : s.Inv) (hmaps : s.fieldMapsOk = true) (hsent : s.mo.sent = .out) (hon : s.fieldOn = true)
  (hmv : mv < 65536) (hz : (s.fldMeasured mv).fldMove mv 4 = z) (hkept : (s.fldMeasured mv).SupplyKept z)
include hi hmaps hsent hon hmv hz hkept

/-- What the outputs' drivers leave of the states passed through. -/
theorem exec_fldSupplyCrossing_left : ∃ t, exec (.fldSupplyCrossing mv) s = .next t ∧ t.rd FD_STAT_FLD 0 = z.rd FD_STAT_FLD 0 ∧
    t.rd FD_STAT_FLD_MV 0 = mv ∧ (∀ j, t.flag FD_DI_VALID j = z.flag FD_DI_VALID j) ∧ (∀ j, t.din j = z.din j) ∧ t.fd.goodAt = z.fd.goodAt ∧
    (∀ e, e ∈ z.ec.arrivals → e ∈ t.ec.arrivals) ∧ t.fd.cut = (z.cutSlots 34).fd.cut ∧
    (((z.cutSlots 34).dout 0).cut = true → (t.dout 0).cut = true ∧ t.flag FD_DO_ON 0 = false) := by
  obtain ⟨hgood, hmoves, -, hshown, -⟩ := State.fldMeasured_effect (State.outsGood hi hmaps) hmv
  have hfield : fieldCrossing mv s = .next (z.fdDrive) := by
    unfold fieldCrossing
    rw [if_pos hon, ← hz]
    rfl
  have hgo : exec (.fldSupplyCrossing mv) s = .next (s.fieldWake z.fdDrive) := by
    show execFldSupplyCrossing mv s = _
    unfold execFldSupplyCrossing
    rw [hfield, nextOf_next]
  obtain ⟨t, ht, htrd, htfd, harr⟩ := exec_wakes hgo hi hsent ((hmoves.trans hkept.kept).trans State.fdDrive_moves) rfl
  obtain ⟨-, hdriven, hleft, -, hfd⟩ := State.fdDrive_left hkept.good (n := 0) (by decide)
  have hmvz : z.rd FD_STAT_FLD_MV 0 = mv := (hkept.rd FD_STAT_FLD_MV rfl rfl 0).trans hshown
  refine ⟨t, ht, ?_, ?_, fun j => ?_, fun j => ?_, ?_, fun e he => harr e (hdriven.raised hkept.good.1 rfl he), ?_, fun hoff => ?_⟩
  · exact (htrd FD_STAT_FLD rfl 0).trans (hleft FD_STAT_FLD rfl rfl 0 fun _ => rfl)
  · exact ((htrd FD_STAT_FLD_MV rfl 0).trans (hleft FD_STAT_FLD_MV rfl rfl 0 fun _ => rfl)).trans hmvz
  · exact congrArg (· != 0) ((htrd FD_DI_VALID rfl j).trans (hleft FD_DI_VALID rfl rfl j fun h => absurd h (by decide)))
  · unfold State.din
    rw [htfd, hfd]
  · rw [htfd, hfd]
  · rw [htfd, hfd]
  · obtain ⟨hcut, hlit⟩ := State.fdDrive_slotOff hkept.good (by decide) hoff
    refine ⟨?_, (congrArg (· != 0) (htrd FD_DO_ON rfl 0)).trans hlit⟩
    unfold State.dout
    rw [htfd]
    exact hcut

end crossing

section states
variable {mv : Nat} (hi : s.Inv) (hmaps : s.fieldMapsOk = true) (hsent : s.mo.sent = .out) (hon : s.fieldOn = true) (hmv : mv < 65536)
include hi hmaps hsent hon hmv

/-- Below 19.2 V the supply is low. -/
theorem exec_fldSupplyCrossing_low (hfld : s.rd FD_STAT_FLD 0 = 0) (hlo : 18000 ≤ mv) (hup : mv < 19200) :
    ∃ t, exec (.fldSupplyCrossing mv) s = .next t ∧ t.rd FD_STAT_FLD 0 = 1 ∧ t.rd FD_STAT_FLD_MV 0 = mv ∧ t.fd.goodAt = none ∧
      ⟨0x3801, 1⟩ ∈ t.ec.arrivals := by
  obtain ⟨hgood, -, -, -, hrd⟩ := State.fldMeasured_effect (State.outsGood hi hmaps) hmv
  have hfld0 : (s.fldMeasured mv).rd FD_STAT_FLD 0 = 0 := (hrd FD_STAT_FLD rfl rfl 0).trans hfld
  have h1 := State.fldEnter_entered hgood (k := 1) (by decide) mv
  have hz : (s.fldMeasured mv).fldMove mv 4 = (s.fldMeasured mv).fldEnter 1 mv := by
    rw [State.fldMove_down 3 hfld0 (by decide) hup]
    exact State.fldMove_rest 2 h1.fld (by simp [fldEntry]; omega) (by simp [fldExit]; omega)
  obtain ⟨t, ht, htfld, htmv, -, -, htgood, harr, -⟩ := exec_fldSupplyCrossing_left hi hmaps hsent hon hmv hz h1.toSupplyKept
  exact ⟨t, ht, htfld.trans h1.fld, htmv, htgood.trans h1.goodAt, harr _ (h1.told (by decide))⟩

/-- Below 15 V the inputs are invalid and the outputs are cut off. -/
theorem exec_fldSupplyCrossing_lost (hfld : s.rd FD_STAT_FLD 0 = 0) (hlo : mv < 15000) (hcut : s.fd.cut = none) :
    ∃ t, exec (.fldSupplyCrossing mv) s = .next t ∧ t.rd FD_STAT_FLD 0 = 3 ∧ (t.dout 0).cut = true ∧ t.flag FD_DO_ON 0 = false ∧
      t.fd.cut = some (s.elapsed, mv, 1, b2n (s.flag FD_DO_ON 0)) ∧ ∀ n, n < 48 → t.flag FD_DI_VALID n = false := by
  obtain ⟨hgood, hmoves, hfd0, -, hrd⟩ := State.fldMeasured_effect (State.outsGood hi hmaps) hmv
  have hfld0 : (s.fldMeasured mv).rd FD_STAT_FLD 0 = 0 := (hrd FD_STAT_FLD rfl rfl 0).trans hfld
  have h1 := State.fldEnter_entered hgood (k := 1) (by decide) mv
  have h2 := State.fldEnter_entered h1.good (k := 2) (by decide) mv
  have h3 := State.fldEnter_entered h2.good (k := 3) (by decide) mv
  have hkept := (h1.toSupplyKept.trans h2.toSupplyKept).trans h3.toSupplyKept
  have hz : (s.fldMeasured mv).fldMove mv 4 = (((s.fldMeasured mv).fldEnter 1 mv).fldEnter 2 mv).fldEnter 3 mv := by
    rw [State.fldMove_down 3 hfld0 (by decide) (by simp [fldEntry]; omega),
      State.fldMove_down 2 h1.fld (by decide) (by simp [fldEntry]; omega),
      State.fldMove_down 1 h2.fld (by decide) (by simp [fldEntry]; omega)]
    exact State.fldMove_rest 0 h3.fld (by omega) (by simp [fldExit]; omega)
  have hall := hmoves.trans hkept.kept
  obtain ⟨helapsed, -, -⟩ := hall.commands hi
  obtain ⟨helapsed2, -, -⟩ := ((hmoves.trans h1.kept).trans h2.kept).commands hi
  have hlit : ((((s.fldMeasured mv).fldEnter 1 mv).fldEnter 2 mv).fldEnter 3 mv).flag FD_DO_ON 0 = s.flag FD_DO_ON 0 :=
    (hkept.flag (g := FD_DO_ON) rfl rfl 0).trans (congrArg (· != 0) (hrd FD_DO_ON rfl rfl 0))
  have hbegun := h3.cut
  have hnone : (((s.fldMeasured mv).fldEnter 1 mv).fldEnter 2 mv).fd.cut = none := by
    rw [h2.cut, if_neg (fun h => absurd h.1 (by decide)), h1.cut, if_neg (fun h => absurd h.1 (by decide)), hfd0, hcut]
  rw [hnone, if_pos ⟨rfl, rfl⟩, helapsed2, ← helapsed] at hbegun
  obtain ⟨hslot, hoff⟩ := State.cutSlots_first hkept.good hbegun
  obtain ⟨t, ht, htfld, -, htvalid, -, -, -, htcut, htoff⟩ := exec_fldSupplyCrossing_left hi hmaps hsent hon hmv hz hkept
  obtain ⟨hcut0, hon0⟩ := htoff hoff
  refine ⟨t, ht, htfld.trans h3.fld, hcut0, hon0, ?_, fun n hn => (htvalid n).trans (h3.invalid (by decide) n hn)⟩
  rw [htcut, hslot, hlit, helapsed]

/-- Back above 18.4 V the filters of the inputs start again. -/
theorem exec_fldSupplyCrossing_back (hfld : s.rd FD_STAT_FLD 0 = 2) (hlo : 18400 < mv) (hup : mv ≤ 19600) :
    ∃ t, exec (.fldSupplyCrossing mv) s = .next t ∧ t.rd FD_STAT_FLD 0 = 1 ∧ ∀ n, n < 48 → (t.din n).init = false := by
  obtain ⟨hgood, -, hfd0, -, hrd⟩ := State.fldMeasured_effect (State.outsGood hi hmaps) hmv
  have hfld0 : (s.fldMeasured mv).rd FD_STAT_FLD 0 = 2 := (hrd FD_STAT_FLD rfl rfl 0).trans hfld
  have h1 := State.fldEnter_entered hgood (k := 1) (by decide) mv
  have hz : (s.fldMeasured mv).fldMove mv 4 = (s.fldMeasured mv).fldEnter 1 mv := by
    rw [State.fldMove_up 3 hfld0 (by simp [fldEntry]; omega) hlo]
    exact State.fldMove_rest 2 h1.fld (by simp [fldEntry]; omega) (by simp [fldExit]; omega)
  obtain ⟨t, ht, htfld, -, -, htdin, -⟩ := exec_fldSupplyCrossing_left hi hmaps hsent hon hmv hz h1.toSupplyKept
  have hdi : mapOk (fun _ => DiSt.init0) (s.fldMeasured mv).fd.di = true := hfd0.symm ▸ (State.fieldMapsOk_iff.1 hmaps).1
  exact ⟨t, ht, htfld.trans h1.fld, fun n hn => (congrArg DiSt.init (htdin n)).trans (h1.restart rfl hfld0 hdi n hn)⟩

/-- Above 19.6 V the supply is good from now. -/
theorem exec_fldSupplyCrossing_good (hfld : s.rd FD_STAT_FLD 0 = 1) (hlo : 19600 < mv) :
    ∃ t, exec (.fldSupplyCrossing mv) s = .next t ∧ t.rd FD_STAT_FLD 0 = 0 ∧ t.fd.goodAt = some s.elapsed := by
  obtain ⟨hgood, hmoves, -, -, hrd⟩ := State.fldMeasured_effect (State.outsGood hi hmaps) hmv
  have hfld0 : (s.fldMeasured mv).rd FD_STAT_FLD 0 = 1 := (hrd FD_STAT_FLD rfl rfl 0).trans hfld
  have h0 := State.fldEnter_entered hgood (k := 0) (by decide) mv
  have hz : (s.fldMeasured mv).fldMove mv 4 = (s.fldMeasured mv).fldEnter 0 mv := by
    rw [State.fldMove_up 3 hfld0 (by simp [fldEntry]; omega) hlo]
    exact State.fldMove_rest 2 h0.fld (by simp [fldEntry]; omega) (by simp)
  obtain ⟨t, ht, htfld, -, -, -, htgood, -⟩ := exec_fldSupplyCrossing_left hi hmaps hsent hon hmv hz h0.toSupplyKept
  refine ⟨t, ht, htfld.trans h0.fld, htgood.trans (h0.goodAt.trans ?_)⟩
  rw [if_pos rfl, (hmoves.commands hi).1]

end states

end

end Sys2Proof.Machine
end

