-- ==== Sys2Proof/Proofs/InputsKept.lean ====
section
/-! One field input: what steps of the field die that concern other inputs, or other fields, leave of it. -/

namespace Sys2Proof.Machine

open Sys2Proof

/-- The table of inputs in canonical form. -/
def State.insOk (s : State) : Prop := mapOk (fun _ => DiSt.init0) s.fd.di = true

/-- From a good state, the registers of the field die that are not of another input nor among `fs` are as before. -/
structure State.InShown (fs : List Field) (n : Nat) (s t : State) : Prop where
  inv : t.Inv
  ins : s.insOk → t.insOk
  rd : ∀ g : Field, g.unit = 0x38 → g.off fs = true → ∀ j, (g.grp % 256 = 0x10 → j = n) → t.rd g j = s.rd g j

/-- The record of the input is as before too. -/
structure State.InSame (fs : List Field) (n : Nat) (s t : State) : Prop extends s.InShown fs n t where
  din : s.insOk → t.din n = s.din n

def State.InKept (fs : List Field) (n : Nat) (s t : State) : Prop := s.Inv → s.InSame fs n t

section
variable {fs : List Field} {n m : Nat}

theorem State.InShown.flag {s t : State} (h : s.InShown fs n t) {g : Field} (hu : g.unit = 0x38) (hg : g.off fs = true) {j : Nat}
    (hj : g.grp % 256 = 0x10 → j = n) : t.flag g j = s.flag g j := congrArg (· != 0) (h.rd g hu hg j hj)

theorem State.InShown.trans {a b c : State} (h : a.InShown fs n b) (h' : b.InShown fs n c) : a.InShown fs n c :=
  ⟨h'.inv, fun hm => h'.ins (h.ins hm), fun g hu hg j hj => (h'.rd g hu hg j hj).trans (h.rd g hu hg j hj)⟩

theorem State.InShown.mono {gs : List Field} {s t : State} (h : s.InShown fs n t) (hsub : fs ⊆ gs) : s.InShown gs n t :=
  { h with rd := fun g hu hg j hj => h.rd g hu (Field.off_mono hsub hg) j hj }

theorem State.InKept.refl (s : State) : State.InKept fs n s s := fun h => ⟨⟨h, id, fun _ _ _ _ _ => rfl⟩, fun _ => rfl⟩

theorem State.InSame.trans {a b c : State} (h : a.InSame fs n b) (h' : b.InSame fs n c) : a.InSame fs n c :=
  ⟨h.toInShown.trans h'.toInShown, fun hm => (h'.din (h.ins hm)).trans (h.din hm)⟩

theorem State.InKept.trans {a b c : State} (h : State.InKept fs n a b) (h' : State.InKept fs n b c) : State.InKept fs n a c := fun ha =>
  (h ha).trans (h' (h ha).inv)

theorem State.InKept.ite {s a b : State} {c : Prop} [Decidable c] (ha : State.InKept fs n s a) (hb : State.InKept fs n s b) :
    State.InKept fs n s (if c then a else b) := by
  split
  · exact ha
  · exact hb

theorem State.InKept.foldl {α : Type} {f : State → α → State} :
    ∀ (l : List α), (∀ st a, a ∈ l → State.InKept fs n st (f st a)) → ∀ s : State, State.InKept fs n s (l.foldl f s)
  | [], _, s => .refl s
  | a :: l, hf, s => (hf s a List.mem_cons_self).trans (State.InKept.foldl l (fun st b hb => hf st b (List.mem_cons_of_mem a hb)) (f s a))

theorem State.InKept.mono {gs : List Field} {s t : State} (h : State.InKept fs n s t) (hsub : fs ⊆ gs) : State.InKept gs n s t := fun hs =>
  { (h hs) with rd := ((h hs).toInShown.mono hsub).rd }

/-- A register field that a step may write: it is among the exempt ones, or another input's. -/
structure Field.Apart (fs : List Field) (n : Nat) (f : Field) (m : Nat) : Prop where
  fits : f.fits = true
  away : f ∈ fs ∨ f.grp % 256 = 0x10 ∧ m % 65536 ≠ n % 65536

theorem State.inKept_wr {f : Field} (h : f.Apart fs n m) (s : State) (v : Nat) : State.InKept fs n s (s.wr f m v) := fun hs =>
  { inv := State.wr_inv hs f m v
    ins := fun hm => by
      unfold State.insOk
      rw [State.wr_fd]
      exact hm
    rd := fun g _ hg j hj => by
      rcases h.away with hmem | ⟨hgrp, hne⟩
      · exact State.rdk_wrk_beside hs (Field.off_mem hg hmem) m j v
      · refine State.rd_wr_ne hs h.fits v ?_
        by_cases hg' : g.grp % 256 = 0x10
        · exact .inr (.inr (.inl (by rw [hj hg']; exact hne.symm)))
        · exact .inr (.inl (by rw [hgrp]; exact hg'))
    din := fun _ => State.wr_din s f m v n }

theorem State.inKept_wr_here {f : Field} (hf : f.fits = true) (s : State) (v : Nat) : State.InKept [f] n s (s.wr f n v) :=
  State.inKept_wr ⟨hf, .inl List.mem_cons_self⟩ s v

theorem State.inShown_setDin {s : State} (hi : s.Inv) (m : Nat) (x : DiSt) : s.InShown fs n (s.setDin m x) :=
  ⟨hi, fun hm => mset_ok hm, fun _ _ _ _ _ => rfl⟩

theorem State.inKept_setDin (hne : n ≠ m) (s : State) (x : DiSt) : State.InKept fs n s (s.setDin m x) := fun hs =>
  ⟨State.inShown_setDin hs m x, fun hm => mget_mset_ne x hne _ hm⟩

theorem State.setDin_rd (s : State) (n : Nat) (x : DiSt) (g : Field) (j : Nat) : (s.setDin n x).rd g j = s.rd g j := rfl

theorem State.setDin_din {s : State} (hm : s.insOk) (n : Nat) (x : DiSt) : (s.setDin n x).din n = x := mget_mset_same n x _ hm

/-- What changes none of the registers of the field die, and none of its inputs. -/
theorem State.inKept_told {k : Nat} {s t : State} (h : Moves k s t) (hregs : k.testBit (Part.regs 0x38).bit = false)
    (hfd : s.Inv → t.fd.di = s.fd.di) : State.InKept fs n s t := fun hs =>
  { inv := h.inv hs
    ins := fun hm => by
      unfold State.insOk
      rw [hfd hs]
      exact hm
    rd := fun _ hu _ j _ => h.rd hs (by rw [hu]; exact hregs) j
    din := fun _ => by
      unfold State.din
      rw [hfd hs] }

theorem State.inKept_diDiag (s : State) (m : Nat) : State.InKept fs n s (s.diDiag m) :=
  State.inKept_told State.diDiag_moves rfl fun hi => by
    unfold State.diDiag
    rw [State.fdNotify_fd hi]

theorem State.inKept_diFlag {f : Field} (h : f.Apart fs n m) (s : State) : State.InKept fs n s (s.diFlag f m) :=
  .ite (.refl s) ((State.inKept_wr h s 1).trans (State.inKept_diDiag _ m))

theorem State.inKept_diEdge (s : State) (m : Nat) (v : Bool) (t : Nat) : State.InKept fs n s (s.diEdge m v t) :=
  State.inKept_told State.diEdge_moves rfl fun hi => by rw [← State.diEdge_moves.keep hi .fd rfl]

theorem State.inKept_drawn (s : State) : State.InKept fs n s s.drawn :=
  State.inKept_told State.drawn_moves rfl fun _ => rfl

theorem State.inKept_voltClass (s : State) (mv : Nat) : State.InKept fs n s (s.voltClass m mv).2 := by
  unfold State.voltClass
  dsimp only
  split
  · exact .refl s
  split
  · exact .refl s
  split
  · split
    · exact .refl s
    · exact State.inKept_drawn s
  split
  · exact .refl s
  · exact State.inKept_drawn s

/-! A sample of another input. -/

section other
variable (hne : n % 65536 ≠ m % 65536)
include hne

theorem Field.apart_other {f : Field} (hf : f.fits = true) (hg : f.grp % 256 = 0x10) : f.Apart fs n m := ⟨hf, .inr ⟨hg, hne.symm⟩⟩

theorem State.inKept_wr_other {f : Field} (hf : f.fits = true) (hg : f.grp % 256 = 0x10) (s : State) (v : Nat) :
    State.InKept fs n s (s.wr f m v) := State.inKept_wr (Field.apart_other hne hf hg) s v

theorem State.inKept_setDin_other (s : State) (x : DiSt) : State.InKept fs n s (s.setDin m x) :=
  State.inKept_setDin (fun h => hne (congrArg (· % 65536) h)) s x

theorem State.inKept_diShow (s : State) (v : Bool) : State.InKept fs n s (s.diShow m v) := by
  have hshown : State.InKept fs n s ((((s.setFlag FD_DI_VAL m v).wr FD_DI_LAST_NS m s.fieldStamp.ns).wr FD_DI_LAST_SEC m
      s.fieldStamp.sec).diEdge m v s.fieldStamp.tai) :=
    (((State.inKept_wr_other hne rfl rfl s _).trans (State.inKept_wr_other hne rfl rfl _ _)).trans
      (State.inKept_wr_other hne rfl rfl _ _)).trans (State.inKept_diEdge _ m v _)
  exact .ite (.refl s) (.ite (hshown.trans (State.inKept_setDin_other hne _ _)) (hshown.trans (State.inKept_wr_other hne rfl rfl _ 0)))

theorem State.inKept_diLet (s : State) (v : Bool) : State.InKept fs n s (s.diLet m v) := .ite (.refl s) (State.inKept_diShow hne s v)

theorem State.inKept_diChatter (s : State) (moved before : Bool) : State.InKept fs n s (s.diChatter m moved before) := by
  have hset : ∀ x, State.InKept fs n s (s.setDin m x) := State.inKept_setDin_other hne s
  have hclear : ∀ x v, State.InKept fs n s (((s.setDin m x).wr FD_DI_CHAT m 0).diLet m v) := fun x v =>
    ((hset x).trans (State.inKept_wr_other hne rfl rfl _ 0)).trans (State.inKept_diLet hne _ v)
  unfold State.diChatter
  extract_lets
  exact .ite (hclear _ _) (.ite (.ite (hclear _ _) (hset _)) (.ite (((hset _).trans (State.inKept_diShow hne _ _)).trans
    (State.inKept_diFlag (Field.apart_other hne rfl rfl) _)) ((hset _).trans (State.inKept_diLet hne _ _))))

theorem State.inKept_diFilter (s : State) (c : Nat) : State.InKept fs n s (s.diFilter m c) := by
  unfold State.diFilter
  extract_lets x top cnt v moved s1 s2
  have h1 : State.InKept fs n s s1 := (State.inKept_setDin_other hne s _).trans (State.inKept_wr_other hne rfl rfl _ _)
  have h2 : State.InKept fs n s s2 := .ite (h1.trans (State.inKept_wr_other hne rfl rfl _ _)) h1
  exact h2.trans (State.inKept_diChatter hne _ _ _)

theorem State.inKept_diFault (s : State) (c : Nat) : State.InKept fs n s (s.diFault m c) := by
  unfold State.diFault
  extract_lets x ow s1 s2
  have h1 : State.InKept fs n s s1 := State.inKept_setDin_other hne s _
  have h2 : State.InKept fs n s s2 := .ite (h1.trans (State.inKept_diFlag (Field.apart_other hne rfl rfl) _))
    (.ite (h1.trans (State.inKept_diFlag (Field.apart_other hne rfl rfl) _)) h1)
  exact h2.trans (State.inKept_diChatter hne _ _ _)

theorem State.inKept_diSample (s : State) (p : Nat × Nat) : State.InKept fs n s (s.diSample m p) := by
  unfold State.diSample
  extract_lets cs s1 x s2
  have h0 : State.InKept fs n s cs.2 := by
    show State.InKept fs n s (if s.flag FD_DI_WB_EN m then (currClass (s.rd FD_STAT_FLD_MV 0) p.2, s) else s.voltClass m p.1).2
    split
    · exact .refl s
    · exact State.inKept_voltClass s _
  have h1 : State.InKept fs n s s1 := (h0.trans (State.inKept_wr_other hne rfl rfl _ _)).trans (State.inKept_wr_other hne rfl rfl _ _)
  have h2 : State.InKept fs n s s2 := .ite h1 (.ite
    ((((h1.trans (State.inKept_wr_other hne rfl rfl _ 0)).trans (State.inKept_wr_other hne rfl rfl _ 0)).trans
      (State.inKept_setDin_other hne _ _)).trans (State.inKept_diFilter hne _ _))
    (h1.trans (State.inKept_diFault hne _ _)))
  exact h2.trans (State.inKept_wr_other hne rfl rfl _ _)

end other

/-- A pass over the inputs runs each input's step once, between steps that leave the input alone. -/
theorem State.inPass {f : State → Nat → State} {k : Nat} (hk : k < 65536) (hn : n < k)
    (hother : ∀ y m, n % 65536 ≠ m % 65536 → State.InKept [] n y (f y m)) (hinv : ∀ y, State.Inv y → (f y n).Inv) {s : State} (hs : s.Inv) :
    ∃ y, s.InSame [] n y ∧ (f y n).InSame [] n ((List.range k).foldl f s) := by
  obtain ⟨l, l', hl⟩ := List.append_of_mem (List.mem_range.2 hn)
  have hd : (l ++ n :: l').Nodup := hl ▸ List.nodup_range
  have hlt : ∀ m, m ∈ l ∨ m ∈ l' → m < k := fun m hm => by
    have hmem : m ∈ l ++ n :: l' := by
      rw [List.mem_append, List.mem_cons]
      exact hm.imp id .inr
    exact List.mem_range.1 (hl ▸ hmem)
  obtain ⟨-, hd', hdisj⟩ := List.nodup_append.1 hd
  have hne : ∀ m, m ∈ l ∨ m ∈ l' → n % 65536 ≠ m % 65536 := fun m hm => by
    rw [Nat.mod_eq_of_lt (by omega), Nat.mod_eq_of_lt (by have := hlt m hm; omega)]
    rintro rfl
    rcases hm with hm | hm
    · exact hdisj n hm n List.mem_cons_self rfl
    · exact (List.nodup_cons.1 hd').1 hm
  rw [hl, List.foldl_append, List.foldl_cons]
  have hfirst := State.InKept.foldl (fs := []) (n := n) l (fun y m hm => hother y m (hne m (.inl hm))) s hs
  exact ⟨_, hfirst, State.InKept.foldl l' (fun y m hm => hother y m (hne m (.inr hm))) _ (hinv _ hfirst.inv)⟩

end

end Sys2Proof.Machine
end

