-- ==== Sys2Proof/Proofs/InputSamples.lean ====
section
/-! One input's sample: the counter filter, the filtered value, open wire, and the valid bit (R413 to R420). -/

namespace Sys2Proof.Machine

open Sys2Proof

section
variable {s : State} {n : Nat}

/-! The value shown (R413). -/

/-- The registers that a shown value writes. -/
def valueFields : List Field := [FD_DI_VAL, FD_DI_LAST_NS, FD_DI_LAST_SEC, FD_DI_STUCK]

/-- The value and its stamp. -/
def State.diStamped (s : State) (n : Nat) (v : Bool) : State :=
  ((s.setFlag FD_DI_VAL n v).wr FD_DI_LAST_NS n s.fieldStamp.ns).wr FD_DI_LAST_SEC n s.fieldStamp.sec

theorem State.diStamped_effect (hi : s.Inv) (v : Bool) : s.InSame valueFields n (s.diStamped n v) ∧ (s.diStamped n v).flag FD_DI_VAL n = v := by
  have h1 : s.InSame [FD_DI_VAL] n (s.setFlag FD_DI_VAL n v) := State.inKept_wr_here rfl s _ hi
  have hval := State.flag_setFlag_same hi (f := FD_DI_VAL) rfl n v
  unfold State.diStamped
  generalize s.setFlag FD_DI_VAL n v = a at h1 hval
  have h2 : a.InSame [FD_DI_LAST_NS] n (a.wr FD_DI_LAST_NS n s.fieldStamp.ns) := State.inKept_wr_here rfl a _ h1.inv
  generalize a.wr FD_DI_LAST_NS n s.fieldStamp.ns = b at h2
  have h3 : b.InSame [FD_DI_LAST_SEC] n (b.wr FD_DI_LAST_SEC n s.fieldStamp.sec) := State.inKept_wr_here rfl b _ h2.inv
  refine ⟨⟨((h1.toInShown.mono (by decide)).trans (h2.toInShown.mono (by decide))).trans (h3.toInShown.mono (by decide)), fun hm => ?_⟩, ?_⟩
  · rw [h3.din (h2.ins (h1.ins hm)), h2.din (h1.ins hm), h1.din hm]
  · rw [h3.flag (g := FD_DI_VAL) rfl rfl fun _ => rfl, h2.flag (g := FD_DI_VAL) rfl rfl fun _ => rfl, hval]

/-- The end of a shown change. -/
def State.diRisen (s : State) (n : Nat) (v : Bool) (now : Nat) : State :=
  if v then s.setDin n { s.din n with hi := now } else s.wr FD_DI_STUCK n 0

theorem State.diShow_eq (v : Bool) : s.diShow n v = if s.flag FD_DI_VAL n == v then s else
    ((s.diStamped n v).diEdge n v s.fieldStamp.tai).diRisen n v s.elapsed := rfl

theorem State.diRisen_effect (hi : s.Inv) (hm : s.insOk) (v : Bool) (now : Nat) : s.InShown [FD_DI_STUCK] n (s.diRisen n v now) ∧
    ((s.diRisen n v now).din n).init = (s.din n).init := by
  cases v with
  | true => exact ⟨State.inShown_setDin hi n _, (congrArg DiSt.init (State.setDin_din hm n { s.din n with hi := now }) :)⟩
  | false =>
    have h := State.inKept_wr_here (n := n) (f := FD_DI_STUCK) rfl s 0 hi
    exact ⟨h.toInShown, congrArg DiSt.init (h.din hm)⟩

/-- The value shows; the other registers and the filter's start stay. -/
theorem State.diShow_effect (hi : s.Inv) (hm : s.insOk) (v : Bool) : s.InShown valueFields n (s.diShow n v) ∧
    ((s.diShow n v).din n).init = (s.din n).init ∧ (s.diShow n v).flag FD_DI_VAL n = v := by
  obtain ⟨h1, hval⟩ := State.diStamped_effect (n := n) hi v
  rw [State.diShow_eq]
  split
  · next h => exact ⟨(State.InKept.refl s hi).toInShown, rfl, of_decide_eq_true h⟩
  · generalize s.diStamped n v = a at h1 hval
    have h2 : a.InSame [] n (a.diEdge n v s.fieldStamp.tai) := State.inKept_diEdge a n v _ h1.inv
    generalize a.diEdge n v s.fieldStamp.tai = b at h2
    obtain ⟨h3, hinit⟩ := State.diRisen_effect (n := n) h2.inv (h2.ins (h1.ins hm)) v s.elapsed
    refine ⟨(h1.toInShown.trans (h2.toInShown.mono (by decide))).trans (h3.mono (by decide)), ?_, ?_⟩
    · rw [hinit, h2.din (h1.ins hm), h1.din hm]
    · rw [h3.flag (g := FD_DI_VAL) rfl rfl fun _ => rfl, h2.flag (g := FD_DI_VAL) rfl rfl fun _ => rfl, hval]

/-! Without chatter supervision (R418). -/

/-- The supervision off: the value goes through unless a fault holds it. -/
def State.diCalm (s : State) (n : Nat) : State := (s.setDin n { s.din n with trs := [] }).wr FD_DI_CHAT n 0

theorem State.diChatter_off (h : s.rd FD_DI_CHAT_K n = 0) (moved before : Bool) :
    s.diChatter n moved before = (s.diCalm n).diLet n (s.din n).flt := if_pos h

theorem State.diCalm_effect (hi : s.Inv) (hm : s.insOk) : s.InShown [FD_DI_CHAT] n (s.diCalm n) ∧
    ((s.diCalm n).din n).init = (s.din n).init ∧ (s.diCalm n).flag FD_DI_CHAT n = false := by
  have hset := State.inShown_setDin (fs := [FD_DI_CHAT]) (n := n) hi n { s.din n with trs := [] }
  have hget := State.setDin_din hm n { s.din n with trs := [] }
  unfold State.diCalm
  generalize s.setDin n { s.din n with trs := [] } = a at hset hget
  have hwr := State.inKept_wr_here (n := n) (f := FD_DI_CHAT) rfl a 0 hset.inv
  refine ⟨hset.trans hwr.toInShown, ?_, State.flag_wr_zero hset.inv rfl n⟩
  rw [hwr.din (hset.ins hm), hget]

/-- A value let through. -/
theorem State.diChatter_shows (hi : s.Inv) (hm : s.insOk) (hk : s.rd FD_DI_CHAT_K n = 0) (how : s.flag FD_DI_OW n = false)
    (hband : s.flag FD_DI_BAND n = false) (moved before : Bool) : s.InShown (FD_DI_CHAT :: valueFields) n (s.diChatter n moved before) ∧
    ((s.diChatter n moved before).din n).init = (s.din n).init ∧ (s.diChatter n moved before).flag FD_DI_CHAT n = false ∧
    (s.diChatter n moved before).flag FD_DI_VAL n = (s.din n).flt := by
  obtain ⟨h1, hinit1, hchat⟩ := State.diCalm_effect (n := n) hi hm
  have hlet : (s.diCalm n).diLet n (s.din n).flt = (s.diCalm n).diShow n (s.din n).flt := by
    unfold State.diLet
    rw [h1.flag (g := FD_DI_OW) rfl rfl fun _ => rfl, h1.flag (g := FD_DI_BAND) rfl rfl fun _ => rfl, how, hband]
    exact if_neg Bool.false_ne_true
  rw [State.diChatter_off hk, hlet]
  obtain ⟨h2, hinit2, hval⟩ := State.diShow_effect (n := n) h1.inv (h1.ins hm) (s.din n).flt
  exact ⟨(h1.mono (by decide)).trans (h2.mono (by decide)), hinit2.trans hinit1,
    (h2.flag (g := FD_DI_CHAT) rfl rfl fun _ => rfl).trans hchat, hval⟩

/-- A value that an open wire holds. -/
theorem State.diChatter_held (hi : s.Inv) (hm : s.insOk) (hk : s.rd FD_DI_CHAT_K n = 0) (how : s.flag FD_DI_OW n = true)
    (moved before : Bool) : s.InShown [FD_DI_CHAT] n (s.diChatter n moved before) := by
  obtain ⟨h1, -, -⟩ := State.diCalm_effect (n := n) hi hm
  have hlet : (s.diCalm n).diLet n (s.din n).flt = s.diCalm n := by
    unfold State.diLet
    rw [h1.flag (g := FD_DI_OW) rfl rfl fun _ => rfl, how]
    rfl
  rw [State.diChatter_off hk, hlet]
  exact h1

/-! The counter filter (R417). -/

/-- The counter after a valid sample, and the filtered value. -/
def State.diNext (s : State) (n c : Nat) : Nat :=
  if !(s.din n).init then s.rd FD_DI_FILT_N n * c else if c = 1 then min (s.rd FD_DI_CNT n + 1) (s.rd FD_DI_FILT_N n) else s.rd FD_DI_CNT n - 1

def State.diValue (s : State) (n cnt : Nat) : Bool :=
  if cnt = 0 then false else if cnt = s.rd FD_DI_FILT_N n then true else (s.din n).flt

def State.diCounted (s : State) (n cnt : Nat) (v : Bool) : State :=
  let y := (s.setDin n { s.din n with init := true, flt := v }).wr FD_DI_CNT n cnt
  if v != (s.din n).flt then y.wrapInc FD_DI_TRANS n 1 else y

theorem State.diFilter_eq (c : Nat) : s.diFilter n c = (s.diCounted n (s.diNext n c) (s.diValue n (s.diNext n c))).diChatter n
    (s.diValue n (s.diNext n c) != (s.din n).flt) (s.din n).flt := rfl

theorem State.diCounted_effect (hi : s.Inv) (hm : s.insOk) {cnt : Nat} (hcnt : cnt < 65536) (v : Bool) :
    s.InShown [FD_DI_CNT, FD_DI_TRANS] n (s.diCounted n cnt v) ∧ ((s.diCounted n cnt v).din n).init = true ∧
    ((s.diCounted n cnt v).din n).flt = v ∧ (s.diCounted n cnt v).rd FD_DI_CNT n = cnt := by
  have hset := State.inShown_setDin (fs := [FD_DI_CNT, FD_DI_TRANS]) (n := n) hi n { s.din n with init := true, flt := v }
  have hget := State.setDin_din hm n { s.din n with init := true, flt := v }
  unfold State.diCounted
  generalize s.setDin n { s.din n with init := true, flt := v } = a at hset hget
  have hwr := State.inKept_wr_here (n := n) (f := FD_DI_CNT) rfl a cnt hset.inv
  have hread : (a.wr FD_DI_CNT n cnt).rd FD_DI_CNT n = cnt := (State.rd_wr_same hset.inv rfl n cnt).trans (Nat.mod_eq_of_lt hcnt)
  dsimp only
  generalize a.wr FD_DI_CNT n cnt = b at hwr hread
  have htrans : b.InSame [FD_DI_TRANS] n (if v != (s.din n).flt then b.wrapInc FD_DI_TRANS n 1 else b) :=
    State.InKept.ite (State.inKept_wr_here rfl b _) (.refl b) hwr.inv
  have hdin := (htrans.din (hwr.ins (hset.ins hm))).trans ((hwr.din (hset.ins hm)).trans hget)
  refine ⟨(hset.trans (hwr.toInShown.mono (by decide))).trans (htrans.toInShown.mono (by decide)), ?_, ?_, ?_⟩
  · rw [hdin]
  · rw [hdin]
  · rw [htrans.rd FD_DI_CNT rfl rfl n fun _ => rfl, hread]

/-- The registers that the filter writes. -/
def filterFields : List Field := [FD_DI_CNT, FD_DI_TRANS, FD_DI_CHAT] ++ valueFields

theorem State.diFilter_effect (hi : s.Inv) (hm : s.insOk) (hk : s.rd FD_DI_CHAT_K n = 0) (how : s.flag FD_DI_OW n = false)
    (hband : s.flag FD_DI_BAND n = false) {c : Nat} (hcnt : s.diNext n c < 65536) : s.InShown filterFields n (s.diFilter n c) ∧
    ((s.diFilter n c).din n).init = true ∧ (s.diFilter n c).flag FD_DI_CHAT n = false ∧
    (s.diFilter n c).flag FD_DI_VAL n = s.diValue n (s.diNext n c) ∧ (s.diFilter n c).rd FD_DI_CNT n = s.diNext n c := by
  obtain ⟨h1, hinit, hflt, hread⟩ := State.diCounted_effect (n := n) hi hm hcnt (s.diValue n (s.diNext n c))
  obtain ⟨h2, hinit2, hchat, hval⟩ := State.diChatter_shows h1.inv (h1.ins hm) ((h1.rd FD_DI_CHAT_K rfl rfl n fun _ => rfl).trans hk)
    ((h1.flag (g := FD_DI_OW) rfl rfl fun _ => rfl).trans how) ((h1.flag (g := FD_DI_BAND) rfl rfl fun _ => rfl).trans hband)
    (s.diValue n (s.diNext n c) != (s.din n).flt) (s.din n).flt
  rw [State.diFilter_eq]
  exact ⟨(h1.mono (by decide)).trans (h2.mono (by decide)), hinit2.trans hinit, hchat, hval.trans hflt,
    (h2.rd FD_DI_CNT rfl rfl n fun _ => rfl).trans hread⟩

/-! A sample (R413, R416, R420). -/

/-- What the sample classes a voltage or a current as. -/
def State.diClass (s : State) (n : Nat) (m : Nat × Nat) : Nat × State :=
  if s.flag FD_DI_WB_EN n then (currClass (s.rd FD_STAT_FLD_MV 0) m.2, s) else s.voltClass n m.1

/-- The class and the current shown. -/
def State.diRead (s : State) (n c ua : Nat) : State := (s.setFlag FD_DI_RAW n (c == 1)).wr FD_DI_I_UA n (min 4095 ua)

/-- A valid sample ends the faults. -/
def State.diClean (s : State) (n : Nat) : State :=
  ((s.wr FD_DI_OW n 0).wr FD_DI_BAND n 0).setDin n { s.din n with ow := 0, bad := 0 }

/-- The class taken in. -/
def State.diTaken (s : State) (n c : Nat) : State :=
  if s.inputsOff then s else if c < 2 then (s.diClean n).diFilter n c else s.diFault n c

theorem State.diSample_parts (m : Nat × Nat) :
    s.diSample n m = (((s.diClass n m).2.diRead n (s.diClass n m).1 m.2).diTaken n (s.diClass n m).1).diJudge n := by
  unfold State.diSample
  extract_lets cs s1 x s2
  show s2.diJudge n = (s1.diTaken n cs.1).diJudge n
  refine congrArg (State.diJudge · n) ?_
  clear_value s1
  rfl

theorem State.diSample_eq {m : Nat × Nat} {c : Nat} {y : State} (h : s.diClass n m = (c, y)) :
    s.diSample n m = ((y.diRead n c m.2).diTaken n c).diJudge n := by
  have hc : (s.diClass n m).1 = c := congrArg Prod.fst h
  have hy : (s.diClass n m).2 = y := congrArg Prod.snd h
  rw [State.diSample_parts, hc, hy]

theorem State.diRead_effect (hi : s.Inv) (c ua : Nat) : s.InSame [FD_DI_RAW, FD_DI_I_UA] n (s.diRead n c ua) ∧
    (s.diRead n c ua).flag FD_DI_RAW n = (c == 1) := by
  have h1 : s.InSame [FD_DI_RAW] n (s.setFlag FD_DI_RAW n (c == 1)) := State.inKept_wr_here rfl s _ hi
  have hraw := State.flag_setFlag_same hi (f := FD_DI_RAW) rfl n (c == 1)
  unfold State.diRead
  generalize s.setFlag FD_DI_RAW n (c == 1) = a at h1 hraw
  have h2 := State.inKept_wr_here (n := n) (f := FD_DI_I_UA) rfl a (min 4095 ua) h1.inv
  exact ⟨⟨(h1.toInShown.mono (by decide)).trans (h2.toInShown.mono (by decide)), fun hm => (h2.din (h1.ins hm)).trans (h1.din hm)⟩,
    (h2.flag (g := FD_DI_RAW) rfl rfl fun _ => rfl).trans hraw⟩

theorem State.diClean_effect (hi : s.Inv) (hm : s.insOk) : s.InShown [FD_DI_OW, FD_DI_BAND] n (s.diClean n) ∧
    (s.diClean n).flag FD_DI_OW n = false ∧ (s.diClean n).flag FD_DI_BAND n = false ∧
    ((s.diClean n).din n).init = (s.din n).init ∧ ((s.diClean n).din n).flt = (s.din n).flt := by
  have h1 := State.inKept_wr_here (n := n) (f := FD_DI_OW) rfl s 0 hi
  have how := State.flag_wr_zero hi (f := FD_DI_OW) rfl n
  unfold State.diClean
  generalize s.wr FD_DI_OW n 0 = a at h1 how
  have h2 := State.inKept_wr_here (n := n) (f := FD_DI_BAND) rfl a 0 h1.inv
  have hband := State.flag_wr_zero h1.inv (f := FD_DI_BAND) rfl n
  generalize a.wr FD_DI_BAND n 0 = b at h2 hband
  have hset := State.inShown_setDin (fs := [FD_DI_OW, FD_DI_BAND]) (n := n) h2.inv n { s.din n with ow := 0, bad := 0 }
  have hget := State.setDin_din (h2.ins (h1.ins hm)) n { s.din n with ow := 0, bad := 0 }
  have hrd := b.setDin_rd n { s.din n with ow := 0, bad := 0 }
  generalize b.setDin n { s.din n with ow := 0, bad := 0 } = c at hset hget hrd
  refine ⟨((h1.toInShown.mono (by decide)).trans (h2.toInShown.mono (by decide))).trans hset, ?_, (congrArg (· != 0) (hrd _ _)).trans hband, ?_, ?_⟩
  · refine (congrArg (· != 0) (hrd _ _)).trans ?_
    refine Eq.trans ?_ how
    exact h2.flag (g := FD_DI_OW) rfl rfl fun _ => rfl
  · rw [hget]
  · rw [hget]

/-- The valid bit. -/
theorem State.diJudge_effect (hi : s.Inv) : s.InSame [FD_DI_VALID] n (s.diJudge n) ∧ (s.diJudge n).flag FD_DI_VALID n =
    ((s.din n).init && !s.inputsOff && !s.flag FD_DI_OW n && !s.flag FD_DI_BAND n && !(s.flag FD_DI_CHAT n && s.flag FD_DI_CHAT_INV n)) :=
  ⟨State.inKept_wr_here rfl s _ hi, State.flag_setFlag_same hi rfl n _⟩

theorem State.InShown.inputsOff {fs : List Field} {t : State} (h : s.InShown fs n t) (hfld : FD_STAT_FLD.off fs = true) :
    t.inputsOff = s.inputsOff := State.inputsOff_congr (h.rd FD_STAT_FLD rfl hfld 0 fun h => absurd h (by decide))

/-- A condition that arises at an input, or stood already, reads 1. -/
theorem State.diFlag_flag (hi : s.Inv) {f : Field} (hf : f.fits = true) (hu : f.unit = 0x38) : (s.diFlag f n).flag f n = true := by
  unfold State.diFlag
  split
  · assumption
  · have hkept : ((s.wr f n 1).diDiag n).rd f n = (s.wr f n 1).rd f n :=
      State.diDiag_moves.rd (State.wr_inv hi f n 1) (by rw [hu]; rfl) n
    exact (congrArg (· != 0) hkept).trans (State.flag_wr_one hi hf n)

/-- The twentieth sample of an open wire. -/
theorem State.diFault_openWire (hi : s.Inv) (hm : s.insOk) (hk : s.rd FD_DI_CHAT_K n = 0) (how : (s.din n).ow = 19) :
    s.InShown [FD_DI_OW, FD_DI_CHAT] n (s.diFault n 2) ∧ (s.diFault n 2).flag FD_DI_OW n = true := by
  have hgo : s.diFault n 2 = ((s.setDin n { s.din n with ow := min ((s.din n).ow + 1) 20, bad := min ((s.din n).bad + 1) 20 }).diFlag FD_DI_OW
      n).diChatter n false false := by
    unfold State.diFault
    dsimp only
    rw [if_pos rfl, if_pos (by omega)]
  have hset := State.inShown_setDin (fs := [FD_DI_OW, FD_DI_CHAT]) (n := n) hi n
    { s.din n with ow := min ((s.din n).ow + 1) 20, bad := min ((s.din n).bad + 1) 20 }
  rw [hgo]
  generalize s.setDin n { s.din n with ow := min ((s.din n).ow + 1) 20, bad := min ((s.din n).bad + 1) 20 } = a at *
  have h1 : a.InSame [FD_DI_OW] n (a.diFlag FD_DI_OW n) := State.inKept_diFlag ⟨rfl, .inl List.mem_cons_self⟩ a hset.inv
  have hshown := State.diFlag_flag (n := n) hset.inv (f := FD_DI_OW) rfl rfl
  generalize a.diFlag FD_DI_OW n = b at *
  have h2 := State.diChatter_held h1.inv (h1.ins (hset.ins hm))
    ((h1.rd FD_DI_CHAT_K rfl rfl n fun _ => rfl).trans ((hset.rd FD_DI_CHAT_K rfl rfl n fun _ => rfl).trans hk)) hshown false false
  exact ⟨(hset.trans (h1.toInShown.mono (by decide))).trans (h2.mono (by decide)), (h2.flag (g := FD_DI_OW) rfl rfl fun _ => rfl).trans hshown⟩

section sample
variable (hi : s.Inv) (hm : s.insOk) (hoff : s.inputsOff = false) (hk : s.rd FD_DI_CHAT_K n = 0) {m : Nat × Nat} {c : Nat}
  (hclass : s.diClass n m = (c, s))
include hi hm hoff hk hclass

/-- A sample that is a value goes into the filter, and the input is valid. -/
theorem State.diSample_value (hc : c < 2) (hcnt : s.diNext n c < 65536) :
    (s.diSample n m).Inv ∧ (s.diSample n m).flag FD_DI_RAW n = (c == 1) ∧ (s.diSample n m).flag FD_DI_VALID n = true ∧
    (s.diSample n m).rd FD_DI_CNT n = s.diNext n c ∧ (s.diSample n m).flag FD_DI_VAL n = s.diValue n (s.diNext n c) := by
  obtain ⟨h1, hraw⟩ := State.diRead_effect (n := n) hi c m.2
  have hdin1 := h1.din hm
  rw [State.diSample_eq hclass]
  generalize s.diRead n c m.2 = a at *
  have htaken : a.diTaken n c = (a.diClean n).diFilter n c := by
    unfold State.diTaken
    rw [h1.inputsOff rfl, hoff, if_neg Bool.false_ne_true, if_pos hc]
  rw [htaken]
  obtain ⟨h2, how, hband, hinit, hflt⟩ := State.diClean_effect (n := n) h1.inv (h1.ins hm)
  generalize a.diClean n = b at *
  have hrd : ∀ g, g ∈ [FD_DI_CNT, FD_DI_FILT_N, FD_DI_CHAT_K] → b.rd g n = s.rd g n := by
    intro g hg
    have hall : ∀ g, g ∈ [FD_DI_CNT, FD_DI_FILT_N, FD_DI_CHAT_K] → g.unit = 0x38 ∧ g.off [FD_DI_RAW, FD_DI_I_UA] = true ∧
      g.off [FD_DI_OW, FD_DI_BAND] = true := by decide
    obtain ⟨hu, hread, hclean⟩ := hall g hg
    exact (h2.rd g hu hclean n fun _ => rfl).trans (h1.rd g hu hread n fun _ => rfl)
  have hnext : b.diNext n c = s.diNext n c := by
    unfold State.diNext
    rw [hinit, hdin1, hrd _ (by decide), hrd _ (by decide)]
  have hvalue : b.diValue n (s.diNext n c) = s.diValue n (s.diNext n c) := by
    unfold State.diValue
    rw [hflt, hdin1, hrd _ (by decide)]
  obtain ⟨h3, hinit3, hchat, hval, hread⟩ := State.diFilter_effect h2.inv (h2.ins (h1.ins hm)) ((hrd _ (by decide)).trans hk) how hband
    (c := c) (by rw [hnext]; exact hcnt)
  rw [hnext] at hval hread
  rw [hvalue] at hval
  generalize b.diFilter n c = d at *
  obtain ⟨h4, hvalid⟩ := State.diJudge_effect (n := n) h3.inv
  refine ⟨h4.inv, ?_, ?_, (h4.rd FD_DI_CNT rfl rfl n fun _ => rfl).trans hread, (h4.flag (g := FD_DI_VAL) rfl rfl fun _ => rfl).trans hval⟩
  · rw [h4.flag (g := FD_DI_RAW) rfl rfl fun _ => rfl, h3.flag (g := FD_DI_RAW) rfl rfl fun _ => rfl,
      h2.flag (g := FD_DI_RAW) rfl rfl fun _ => rfl, hraw]
  · rw [hvalid, hinit3, hchat, h3.inputsOff rfl, h2.inputsOff rfl, h1.inputsOff rfl, hoff, h3.flag (g := FD_DI_OW) rfl rfl fun _ => rfl,
      h3.flag (g := FD_DI_BAND) rfl rfl fun _ => rfl, how, hband]
    rfl

/-- The twentieth sample of an open wire makes the input invalid and holds its counter. -/
theorem State.diSample_openWire (hc : c = 2) (how : (s.din n).ow = 19) :
    (s.diSample n m).Inv ∧ (s.diSample n m).flag FD_DI_OW n = true ∧ (s.diSample n m).flag FD_DI_VALID n = false ∧
    (s.diSample n m).rd FD_DI_CNT n = s.rd FD_DI_CNT n := by
  subst hc
  obtain ⟨h1, -⟩ := State.diRead_effect (n := n) hi 2 m.2
  have hdin1 := h1.din hm
  rw [State.diSample_eq hclass]
  generalize s.diRead n 2 m.2 = a at *
  have htaken : a.diTaken n 2 = a.diFault n 2 := by
    unfold State.diTaken
    rw [h1.inputsOff rfl, hoff]
    rfl
  rw [htaken]
  obtain ⟨h2, how2⟩ := State.diFault_openWire (n := n) h1.inv (h1.ins hm) ((h1.rd FD_DI_CHAT_K rfl rfl n fun _ => rfl).trans hk)
    (by rw [hdin1]; exact how)
  generalize a.diFault n 2 = b at *
  obtain ⟨h3, hvalid⟩ := State.diJudge_effect (n := n) h2.inv
  refine ⟨h3.inv, (h3.flag (g := FD_DI_OW) rfl rfl fun _ => rfl).trans how2, ?_, ?_⟩
  · rw [hvalid, how2, Bool.not_true, Bool.and_false, Bool.false_and, Bool.false_and]
  · rw [h3.rd FD_DI_CNT rfl rfl n fun _ => rfl, h2.rd FD_DI_CNT rfl rfl n fun _ => rfl, h1.rd FD_DI_CNT rfl rfl n fun _ => rfl]

end sample

/-! DI_SAMPLE (R413). -/

/-- Every input sampled. -/
def State.inputsSampled (s : State) (inputs : List (Nat × Nat)) : State :=
  (List.range 48).foldl (fun s n => s.diSample n (inputs.getD n (0, 0))) { s with fd := { s.fd with diAt := s.fieldIdx } }

section step
variable (hi : s.Inv) (hon : s.fieldOn = true) (hsent : s.mo.sent = .out) (hfirst : s.fd.diAt ≠ s.fieldIdx) {inputs : List (Nat × Nat)}
include hi hon hsent hfirst

/-- In no SENTINEL transition the samples' registers are those of the next state. -/
theorem exec_diSample_effect : ∃ t, exec (.diSample inputs) s = .next t ∧
    ∀ f : Field, f.unit = 0x38 → ∀ j, t.rd f j = (s.inputsSampled inputs).rd f j := by
  have hfield : fieldSample inputs s = .next (s.inputsSampled inputs) := by
    unfold fieldSample
    exact if_neg (by simp [hon, hfirst])
  have hgo : exec (.diSample inputs) s = .next (s.diWake (s.inputsSampled inputs)) := by
    show execDiSample inputs s = _
    unfold execDiSample
    rw [hfield, nextOf_next]
  have hmoves : Moves 0x1000000000000000000000000000000000000000000000000010000000000000004016c20 s (s.inputsSampled inputs) := by
    have h := fieldSample_moves (a0 := inputs) (s := s)
    rw [hfield] at h
    obtain ⟨t, ht, hmoves⟩ := h
    rw [Host.Outcome.next.inj ht]
    exact hmoves
  generalize s.inputsSampled inputs = z at *
  have hout : z.mo.sent = .out := by
    rw [← hmoves.keep hi .mo rfl]
    exact hsent
  have hwake : Moves 0x200000000 z (s.diWake z) := .ite (State.wakeBy_out hout _) .refl
  exact ⟨_, hgo, fun f hf j => hwake.rd (hmoves.inv hi) (by rw [hf]; rfl) j⟩

end step

/-- Each input is sampled once, between samples of the others. -/
theorem State.inputsSampled_pass (hi : s.Inv) (hn : n < 48) {inputs : List (Nat × Nat)} {mv ua : Nat}
    (hread : inputs.getD n (0, 0) = (mv, ua)) : ∃ y, s.InSame [] n y ∧
      (y.diSample n (mv, ua)).InSame [] n (s.inputsSampled inputs) := by
  have hput : s.InSame [] n { s with fd := { s.fd with diAt := s.fieldIdx } } := ⟨⟨hi, id, fun _ _ _ _ _ => rfl⟩, fun _ => rfl⟩
  obtain ⟨y, hy, hrest⟩ := State.inPass (n := n) (f := fun s n => s.diSample n (inputs.getD n (0, 0))) (k := 48) (by decide) hn
    (fun y m hne => State.inKept_diSample hne y _) (fun y hy => State.diSample_moves.inv hy) hput.inv
  rw [hread] at hrest
  exact ⟨y, hput.trans hy, hrest⟩

section sampled
variable (hi : s.Inv) (hmaps : s.fieldMapsOk = true) (hsent : s.mo.sent = .out) (hon : s.fieldOn = true) (hfirst : s.fd.diAt ≠ s.fieldIdx)
  (hn : n < 48) {inputs : List (Nat × Nat)} {mv ua : Nat} (hread : inputs.getD n (0, 0) = (mv, ua)) (hoff : s.inputsOff = false)
  (hk : s.rd FD_DI_CHAT_K n = 0)
include hi hmaps hsent hon hfirst hn hread hoff hk

/-- A sample at or above the highest rising limit of Type 1 counts the filter up. -/
theorem exec_diSample_closed (hn0 : s.rd FD_DI_FILT_N n ≠ 0) (hwb : s.flag FD_DI_WB_EN n = false) (htype : s.flag FD_DI_TYPE n = false)
    (hmv : 13500 ≤ mv) (hready : (s.din n).init = true) :
    ∃ t, exec (.diSample inputs) s = .next t ∧ t.flag FD_DI_RAW n = true ∧ t.flag FD_DI_VALID n = true ∧
      t.rd FD_DI_CNT n = min (s.rd FD_DI_CNT n + 1) (s.rd FD_DI_FILT_N n) ∧
      t.flag FD_DI_VAL n = (decide (s.rd FD_DI_FILT_N n ≤ s.rd FD_DI_CNT n + 1) || (s.din n).flt) := by
  have hm : s.insOk := (State.fieldMapsOk_iff.1 hmaps).1
  obtain ⟨y, hy, hend⟩ := State.inputsSampled_pass hi hn hread
  obtain ⟨t, ht, htrd⟩ := exec_diSample_effect hi hon hsent hfirst (inputs := inputs)
  have hclass : y.diClass n (mv, ua) = (1, y) := by
    unfold State.diClass State.voltClass diLimits
    rw [hy.flag (g := FD_DI_WB_EN) rfl rfl fun _ => rfl, hwb, hy.flag (g := FD_DI_TYPE) rfl rfl fun _ => rfl, htype]
    exact if_pos hmv
  have hdin := hy.din hm
  have hnext : y.diNext n 1 = min (s.rd FD_DI_CNT n + 1) (s.rd FD_DI_FILT_N n) := by
    unfold State.diNext
    rw [hdin, hready, hy.rd FD_DI_CNT rfl rfl n fun _ => rfl, hy.rd FD_DI_FILT_N rfl rfl n fun _ => rfl]
    rfl
  have hvalue : y.diValue n (min (s.rd FD_DI_CNT n + 1) (s.rd FD_DI_FILT_N n)) =
      (decide (s.rd FD_DI_FILT_N n ≤ s.rd FD_DI_CNT n + 1) || (s.din n).flt) := by
    unfold State.diValue
    rw [hdin, hy.rd FD_DI_FILT_N rfl rfl n fun _ => rfl, if_neg (by omega)]
    by_cases htop : s.rd FD_DI_FILT_N n ≤ s.rd FD_DI_CNT n + 1
    · rw [if_pos (by omega), decide_eq_true htop, Bool.true_or]
    · rw [if_neg (by omega), decide_eq_false htop, Bool.false_or]
  have hsmall : s.rd FD_DI_FILT_N n < 2 ^ 16 := natBits_lt _ 15 0
  obtain ⟨-, hraw, hvalid, hcnt, hval⟩ := State.diSample_value hy.inv (hy.ins hm) ((hy.inputsOff rfl).trans hoff)
    ((hy.rd FD_DI_CHAT_K rfl rfl n fun _ => rfl).trans hk) hclass (by decide) (by rw [hnext]; omega)
  rw [hnext] at hcnt hval
  refine ⟨t, ht, ?_, ?_, ?_, ?_⟩
  · exact (congrArg (· != 0) (htrd FD_DI_RAW rfl n)).trans ((hend.flag (g := FD_DI_RAW) rfl rfl fun _ => rfl).trans hraw)
  · exact (congrArg (· != 0) (htrd FD_DI_VALID rfl n)).trans ((hend.flag (g := FD_DI_VALID) rfl rfl fun _ => rfl).trans hvalid)
  · exact (htrd FD_DI_CNT rfl n).trans ((hend.rd FD_DI_CNT rfl rfl n fun _ => rfl).trans hcnt)
  · exact (congrArg (· != 0) (htrd FD_DI_VAL rfl n)).trans ((hend.flag (g := FD_DI_VAL) rfl rfl fun _ => rfl).trans (hval.trans hvalue))

theorem exec_diSample_openWire (hwb : s.flag FD_DI_WB_EN n = true) (hcurr : currClass (s.rd FD_STAT_FLD_MV 0) ua = 2)
    (how : (s.din n).ow = 19) :
    ∃ t, exec (.diSample inputs) s = .next t ∧ t.flag FD_DI_OW n = true ∧ t.flag FD_DI_VALID n = false ∧
      t.rd FD_DI_CNT n = s.rd FD_DI_CNT n := by
  have hm : s.insOk := (State.fieldMapsOk_iff.1 hmaps).1
  obtain ⟨y, hy, hend⟩ := State.inputsSampled_pass hi hn hread
  obtain ⟨t, ht, htrd⟩ := exec_diSample_effect hi hon hsent hfirst (inputs := inputs)
  have hclass : y.diClass n (mv, ua) = (2, y) := by
    unfold State.diClass
    rw [hy.flag (g := FD_DI_WB_EN) rfl rfl fun _ => rfl, hwb, hy.rd FD_STAT_FLD_MV rfl rfl 0 fun h => absurd h (by decide)]
    exact congrArg (·, y) hcurr
  obtain ⟨-, hopen, hvalid, hcnt⟩ := State.diSample_openWire hy.inv (hy.ins hm) ((hy.inputsOff rfl).trans hoff)
    ((hy.rd FD_DI_CHAT_K rfl rfl n fun _ => rfl).trans hk) hclass rfl (by rw [hy.din hm]; exact how)
  refine ⟨t, ht, ?_, ?_, ?_⟩
  · exact (congrArg (· != 0) (htrd FD_DI_OW rfl n)).trans ((hend.flag (g := FD_DI_OW) rfl rfl fun _ => rfl).trans hopen)
  · exact (congrArg (· != 0) (htrd FD_DI_VALID rfl n)).trans ((hend.flag (g := FD_DI_VALID) rfl rfl fun _ => rfl).trans hvalid)
  · rw [htrd FD_DI_CNT rfl, hend.rd FD_DI_CNT rfl rfl n fun _ => rfl, hcnt, hy.rd FD_DI_CNT rfl rfl n fun _ => rfl]

end sampled

/-! DI_STUCK_EXPIRY (R419). -/

theorem exec_diStuckExpiry_effect (hi : s.Inv) (hon : s.fieldOn = true) (hn : n < 48) (htime : s.rd FD_DI_STUCK_T n ≠ 0)
    (hval : s.flag FD_DI_VAL n = true) (hdue : (s.din n).hi + s.rd FD_DI_STUCK_T n * 800000000 ≤ s.elapsed) :
    ∃ t, exec (.diStuckExpiry n) s = .next t ∧ t.flag FD_DI_STUCK n = true ∧ t.flag FD_DI_VAL n = true ∧
      t.flag FD_DI_VALID n = s.flag FD_DI_VALID n := by
  have hgo : exec (.diStuckExpiry n) s = .next (s.diFlag FD_DI_STUCK n) := by
    show execDiStuckExpiry n s = _
    exact if_pos (by simp [hon, hn, htime, hval, hdue])
  have hkept : s.InSame [FD_DI_STUCK] n (s.diFlag FD_DI_STUCK n) := State.inKept_diFlag ⟨rfl, .inl List.mem_cons_self⟩ s hi
  exact ⟨_, hgo, State.diFlag_flag hi rfl rfl, (hkept.flag (g := FD_DI_VAL) rfl rfl fun _ => rfl).trans hval,
    hkept.flag (g := FD_DI_VALID) rfl rfl fun _ => rfl⟩

end

end Sys2Proof.Machine
end

