-- ==== Sys2Proof/Proofs/FieldDie.lean ====
section
/-! The field die's inputs, outputs, watchdog and supply: the obligation. -/

namespace Sys2Proof.Machine

open Sys2Proof

/-- Settles O56, from the commands of the field die: one input's sample, what drives one output, overload and the other faults, the
watchdog, and the states of the supply. -/
theorem fieldInputsOutputsWatchdogAndSupplyAct : Obligations.FieldInputsOutputsWatchdogAndSupplyAct := by
  unfold Obligations.FieldInputsOutputsWatchdogAndSupplyAct
  refine ⟨?inputs, ?stuck, ?step, ?overload, ?faults, ?dark, ?watchdog, ?supply, ?release⟩
  case inputs =>
    intro s n mv ua inputs hi hmaps hsent hon hfirst hn hread hoff hk hn0
    exact ⟨exec_diSample_closed hi hmaps hsent hon hfirst hn hread hoff hk hn0,
      exec_diSample_openWire hi hmaps hsent hon hfirst hn hread hoff hk⟩
  case stuck =>
    intro s n hi hon hn htime hval hdue
    exact exec_diStuckExpiry_effect hi hon hn htime hval hdue
  case step =>
    intro s n mv ma fldMv lim temp outs hi hmaps hsent hon hfirst hout hfeed hfree
    refine ⟨fun hn hexp hhold hdark hsrc => ?_, fun hlo hn hsnt huntil htrips => ?_⟩
    · have h := exec_doStep_effect hi hmaps hsent hon hfirst hout hfeed hfree (by omega) temp
      rwa [State.doCmd_owned hn hexp hhold hdark hsrc] at h
    · obtain ⟨t, ht, hrow, hlit, -⟩ := exec_doStep_effect hi hmaps hsent hon hfirst hout hfeed hfree hn temp
      rw [State.doCmd_trips hlo hsnt huntil htrips] at hrow hlit
      exact ⟨t, ht, hrow, hlit⟩
  case overload =>
    intro s n t0 hi hmaps hsent hon hn
    refine ⟨fun hlit hlim hdue => ⟨fun hretry => ?_, fun hretry hfew hcmd => ?_⟩,
      fun hwait hlatched hdue hcmd => exec_overloadRetry_effect hi hmaps hon hn hwait hlatched hdue hcmd⟩
    · obtain ⟨t, ht, hl, -, hol, hoff, hcount⟩ := exec_overloadSwitchOff_effect hi hmaps hsent hon hn hlit hlim hdue (latch := true)
        (by rw [hretry]; rfl) (.inl rfl)
      exact ⟨t, ht, hl, hol, hoff, hcount⟩
    · obtain ⟨t, ht, hl, hw, -, hoff, -⟩ := exec_overloadSwitchOff_effect hi hmaps hsent hon hn hlit hlim hdue (latch := false)
        (by rw [hretry, decide_eq_false (by omega)]; rfl) (.inr hcmd)
      exact ⟨t, ht, hl, hw, hoff⟩
  case faults =>
    intro s n temp hi hmaps hsent hon hn
    refine ⟨fun htemp hold => exec_thermalShutdown_hot_effect hi hmaps hsent hon hn htemp hold,
      fun htemp hold hl hw => exec_thermalShutdown_cool_effect hi hmaps hsent hon hn htemp hold hl hw, fun hdark hdue hfirst => ?_,
      fun mask hmask hl => exec_clrOl_effect hi hmaps hon hn hmask hl⟩
    exact ⟨exec_offStateCheck_shorted_effect hon hn hdark hdue hfirst hi hmaps hsent true,
      fun b hen => exec_offStateCheck_tested_effect hon hn hdark hdue hfirst hi hmaps hsent hen b⟩
  case dark =>
    intro s n hi hmaps hon hrun hn hen hwidth hcmd hrow hsec hfirst
    exact ⟨exec_darkTestPulse_falls hi hmaps hon hrun hn hen hwidth hcmd hrow hsec hfirst,
      exec_darkTestPulse_stays hi hmaps hon hrun hn hen hwidth hcmd hrow hsec hfirst⟩
  case watchdog =>
    intro s hi hmaps hon
    exact ⟨fun hum hidx hmode => exec_fieldWatchdogRefresh_effect hi hmaps hon hum hidx hmode,
      fun harmed hen hhold hexp hdue _ => exec_fieldWatchdogExpiry_effect hi hmaps hon harmed hen hhold hexp hdue,
      fun hat hlost hhold hdue => exec_heartbeatLoss_effect hi hmaps hon hat hlost hhold hdue,
      fun _ hline hfree hsnt huntil htrips hlost => exec_directTripHoldExpiry_effect hi hmaps hon hline hfree hsnt huntil htrips hlost⟩
  case supply =>
    intro s mv hi hmaps hsent hon hmv
    exact ⟨fun hfld hlo hup _ => exec_fldSupplyCrossing_low hi hmaps hsent hon hmv hfld hlo hup,
      fun hfld hlo hcut => exec_fldSupplyCrossing_lost hi hmaps hsent hon hmv hfld hlo hcut,
      fun hfld hlo hup => exec_fldSupplyCrossing_back hi hmaps hsent hon hmv hfld hlo hup,
      fun hfld hlo => exec_fldSupplyCrossing_good hi hmaps hsent hon hmv hfld hlo⟩
  case release =>
    intro s n hi hmaps hon hfld hcut hn hoff
    exact ⟨fun t0 hat hdue => exec_supplyGoodExpiry_effect hi hmaps hon hfld hcut hn hoff hat hdue,
      fun mask hmask hlatch => exec_clrUv_effect hi hmaps hon hfld hcut hn hoff hmask hlatch⟩

end Sys2Proof.Machine
end

