-- ==== Sys2Proof/Proofs/SafetyStates.lean ====
section
/-! The states of the machine safety functions (R445, R459): what the entry of a state does, and what it leaves. -/

namespace Sys2Proof.Machine

open Sys2Proof

/-- The kinds of state that the functions' steps may change. -/
def fnKinds : Nat := 0x1000000000000000000000000000000000000000000000000020000000000000008006c00

/-- The registers of a function's state. -/
def enterFields : List Field := [SF_FSTAT_STATE, SF_FSTAT_FCAUSE, SF_FSTAT_LAST_NS, SF_FSTAT_LAST_SEC, SF_FSTAT_DEMANDS]

/-- The table of functions in canonical form. -/
def State.fnsOk (s : State) : Prop := mapOk (fun _ => SfFn.init) s.sf.fn = true

/-- What the functions' steps leave: the registers of the safety unit but some, and the rest of the unit but its functions. -/
structure State.FnKept (fs : List Field) (s t : State) : Prop where
  rd : ∀ g : Field, g.unit = 0x39 → g.off fs = true → ∀ j, t.rd g j = s.rd g j
  sf : t.sf = { s.sf with fn := t.sf.fn }
  fns : s.fnsOk → t.fnsOk
  kept : Moves fnKinds s t

section
variable {fs : List Field} {s t : State} {k : Nat}

theorem State.FnKept.refl (s : State) : s.FnKept fs s := ⟨fun _ _ _ _ => rfl, rfl, id, .refl⟩

theorem State.FnKept.trans {u : State} (h : s.FnKept fs t) (h' : t.FnKept fs u) : s.FnKept fs u where
  rd g hu hg j := (h'.rd g hu hg j).trans (h.rd g hu hg j)
  sf := by rw [h'.sf, h.sf]
  fns hm := h'.fns (h.fns hm)
  kept := h.kept.trans h'.kept

theorem State.FnKept.mono {gs : List Field} (h : s.FnKept fs t) (hsub : fs ⊆ gs) : s.FnKept gs t :=
  { h with rd := fun g hu hg => h.rd g hu (Field.off_mono hsub hg) }

theorem State.FnKept.flag (h : s.FnKept fs t) {g : Field} (hu : g.unit = 0x39) (hg : g.off fs = true) (j : Nat) : t.flag g j = s.flag g j :=
  congrArg (· != 0) (h.rd g hu hg j)

theorem State.FnKept.ite {a b : State} {c : Prop} [Decidable c] (ha : s.FnKept fs a) (hb : s.FnKept fs b) :
    s.FnKept fs (if c then a else b) := by
  split
  · exact ha
  · exact hb

theorem State.fnKept_wr (hi : s.Inv) {f : Field} (hf : f ∈ fs) (hu : f.unit = 0x39) (i v : Nat) : s.FnKept fs (s.wr f i v) where
  rd g _ hg j := State.rdk_wrk_beside hi (Field.off_mem hg hf) i j v
  sf := rfl
  fns := id
  kept := .wr .refl (by rw [hu]; rfl)

theorem State.fnKept_setSfn (s : State) (k : Nat) (x : SfFn) : s.FnKept fs (s.setSfn k x) where
  rd _ _ _ _ := rfl
  sf := rfl
  fns hm := mset_ok hm
  kept := State.setSfn_moves.mono rfl

/-- What changes neither the unit's registers nor the rest of it. -/
theorem State.fnKept_told {m : Nat} (h : Moves m s t) (hi : s.Inv) (hm : sub m fnKinds = true) (hregs : m.testBit (Part.regs 0x39).bit = false)
    (hsf : m.testBit Part.sf.bit = false) : s.FnKept fs t := by
  have hsame : s.sf = t.sf := h.keep hi .sf hsf
  exact ⟨fun g hu _ j => h.rd hi (by rw [hu]; exact hregs) j, by rw [← hsame], fun hf => by
    unfold State.fnsOk
    rw [← hsame]
    exact hf, h.mono hm⟩

theorem State.setSfn_sfn (hm : s.fnsOk) (k : Nat) (x : SfFn) : (s.setSfn k x).sfn k = x := mget_mset_same k x _ hm

theorem State.setSfn_rd (s : State) (k : Nat) (x : SfFn) (g : Field) (j : Nat) : (s.setSfn k x).rd g j = s.rd g j := rfl

/-! The parts of an entry. -/

/-- The state, its cause and its stamp. -/
def State.sfShown (s : State) (k st cause : Nat) : State :=
  (((s.wr SF_FSTAT_STATE k st).wr SF_FSTAT_FCAUSE k cause).wr SF_FSTAT_LAST_NS k s.now.ns).wr SF_FSTAT_LAST_SEC k s.now.sec

/-- A demand counted, the reset's progress dropped, and the entry recorded. -/
def State.sfNoted (s : State) (k st : Nat) (stopped : Bool) : State :=
  let y := if stopped then s.wrapInc SF_FSTAT_DEMANDS k 1 else s
  let z := y.setSfn k { y.sfn k with
    phase := 0
    firstPress := none
    sawDem := if st = sfFault then false else (y.sfn k).sawDem
    sawHealthy := if st = sfFault then false else (y.sfn k).sawHealthy }
  z.stateRec 0x39 0x01 k (z.word 0x39 0x11 k 0).toNat (z.sfDemMask k) 0 true

/-- The entry reported. -/
def State.sfTold (s : State) (k st cause : Nat) (stopped : Bool) : State :=
  if stopped then s.notify 0x39 1 0 k (s.sfDemMask k) 0 0
  else if st = sfFault then s.notify 0x39 2 2 k cause 0 0
  else if st = sfRun then s.notify 0x39 5 0 k 0 0 0
  else s

theorem State.sfEnter_eq (st cause : Nat) : s.sfEnter k st cause = if s.sfState k = st ∧ s.rd SF_FSTAT_FCAUSE k = cause then s else
    ((s.sfShown k st cause).sfNoted k st (decide (st = sfStop ∧ 2 ≤ s.sfState k ∧ s.sfState k ≤ 4))).sfTold k st cause
      (decide (st = sfStop ∧ 2 ≤ s.sfState k ∧ s.sfState k ≤ 4)) := by
  unfold State.sfEnter State.sfShown State.sfNoted State.sfTold
  simp only [decide_eq_true_eq]

/-- Two records of a function that differ at most in its reset's progress. -/
def SfFn.Resumes (x y : SfFn) : Prop :=
  y = { x with phase := y.phase, firstPress := y.firstPress, sawDem := y.sawDem, sawHealthy := y.sawHealthy }

theorem State.sfShown_effect (hi : s.Inv) {st cause : Nat} (hst : st < 8) (hcause : cause < 32) : s.FnKept enterFields (s.sfShown k st cause) ∧
    (s.sfShown k st cause).sf = s.sf ∧
    (∀ j, (s.sfShown k st cause).sfState j = if j % 65536 = k % 65536 then st else s.sfState j) ∧
    ∀ j, (s.sfShown k st cause).rd SF_FSTAT_FCAUSE j = if j % 65536 = k % 65536 then cause else s.rd SF_FSTAT_FCAUSE j := by
  unfold State.sfShown State.sfState
  have h1 : s.FnKept [SF_FSTAT_STATE] (s.wr SF_FSTAT_STATE k st) := State.fnKept_wr hi List.mem_cons_self rfl k st
  have hstate := State.rd_wr_at hi (f := SF_FSTAT_STATE) rfl k st
  have hinv1 := h1.kept.inv hi
  have hsf1 := s.wr_sf SF_FSTAT_STATE k st
  generalize s.wr SF_FSTAT_STATE k st = a at *
  have h2 : a.FnKept [SF_FSTAT_FCAUSE] (a.wr SF_FSTAT_FCAUSE k cause) := State.fnKept_wr hinv1 List.mem_cons_self rfl k cause
  have hfault := State.rd_wr_at hinv1 (f := SF_FSTAT_FCAUSE) rfl k cause
  have hinv2 := h2.kept.inv hinv1
  have hsf2 := a.wr_sf SF_FSTAT_FCAUSE k cause
  generalize a.wr SF_FSTAT_FCAUSE k cause = b at *
  have h3 : b.FnKept [SF_FSTAT_LAST_NS] (b.wr SF_FSTAT_LAST_NS k s.now.ns) := State.fnKept_wr hinv2 List.mem_cons_self rfl k _
  have hinv3 := h3.kept.inv hinv2
  have hsf3 := b.wr_sf SF_FSTAT_LAST_NS k s.now.ns
  generalize b.wr SF_FSTAT_LAST_NS k s.now.ns = c at *
  have h4 : c.FnKept [SF_FSTAT_LAST_SEC] (c.wr SF_FSTAT_LAST_SEC k s.now.sec) := State.fnKept_wr hinv3 List.mem_cons_self rfl k _
  have hsf4 := c.wr_sf SF_FSTAT_LAST_SEC k s.now.sec
  refine ⟨(((h1.mono (by decide)).trans (h2.mono (by decide))).trans (h3.mono (by decide))).trans (h4.mono (by decide)), ?_, fun j => ?_, fun j => ?_⟩
  · rw [hsf4, hsf3, hsf2, hsf1]
  · rw [h4.rd SF_FSTAT_STATE rfl rfl, h3.rd SF_FSTAT_STATE rfl rfl, h2.rd SF_FSTAT_STATE rfl rfl, hstate]
    exact if_congr Iff.rfl (Nat.mod_eq_of_lt hst) rfl
  · rw [h4.rd SF_FSTAT_FCAUSE rfl rfl, h3.rd SF_FSTAT_FCAUSE rfl rfl, hfault, h1.rd SF_FSTAT_FCAUSE rfl rfl]
    exact if_congr Iff.rfl (Nat.mod_eq_of_lt hcause) rfl

theorem State.sfNoted_effect (hi : s.Inv) (st : Nat) (stopped : Bool) : s.FnKept [SF_FSTAT_DEMANDS] (s.sfNoted k st stopped) ∧
    (s.fnsOk → (s.sfn k).Resumes ((s.sfNoted k st stopped).sfn k)) := by
  unfold State.sfNoted
  have h1 : s.FnKept [SF_FSTAT_DEMANDS] (if stopped then s.wrapInc SF_FSTAT_DEMANDS k 1 else s) :=
    .ite (State.fnKept_wr hi List.mem_cons_self rfl k _) (.refl s)
  have hfn1 : (if stopped then s.wrapInc SF_FSTAT_DEMANDS k 1 else s).sfn k = s.sfn k := by
    split
    · exact congrArg (fun x : SfSt => mget (fun _ => SfFn.init) x.fn k) (s.wr_sf SF_FSTAT_DEMANDS k _)
    · rfl
  have hinv1 := h1.kept.inv hi
  dsimp only
  generalize (if stopped then s.wrapInc SF_FSTAT_DEMANDS k 1 else s) = y at *
  rw [← hfn1]
  have hresume : (y.sfn k).Resumes { y.sfn k with
      phase := 0
      firstPress := none
      sawDem := if st = sfFault then false else (y.sfn k).sawDem
      sawHealthy := if st = sfFault then false else (y.sfn k).sawHealthy } := rfl
  generalize ({ y.sfn k with
      phase := 0
      firstPress := none
      sawDem := if st = sfFault then false else (y.sfn k).sawDem
      sawHealthy := if st = sfFault then false else (y.sfn k).sawHealthy } : SfFn) = x at *
  have h2 : y.FnKept [SF_FSTAT_DEMANDS] (y.setSfn k x) := State.fnKept_setSfn y k x
  have hinv2 := h2.kept.inv hinv1
  have hget := fun hm => State.setSfn_sfn (s := y) hm k x
  generalize y.setSfn k x = z at *
  have hmoves : Moves 0x4000 z (z.stateRec 0x39 0x01 k (z.word 0x39 0x11 k 0).toNat (z.sfDemMask k) 0 true) := State.stateRec_moves
  have hsame : z.sf = (z.stateRec 0x39 0x01 k (z.word 0x39 0x11 k 0).toNat (z.sfDemMask k) 0 true).sf := hmoves.keep hinv2 .sf rfl
  refine ⟨(h1.trans h2).trans (State.fnKept_told hmoves hinv2 rfl rfl rfl), fun hm => ?_⟩
  have hfn : (z.stateRec 0x39 0x01 k (z.word 0x39 0x11 k 0).toNat (z.sfDemMask k) 0 true).sfn k = x := by
    unfold State.sfn
    rw [← hsame]
    exact hget (h1.fns hm)
  rw [hfn]
  exact hresume

theorem State.sfTold_effect (hi : s.Inv) (st cause : Nat) (stopped : Bool) : s.FnKept [] (s.sfTold k st cause stopped) ∧
    (s.sfTold k st cause stopped).sf = s.sf ∧ (stopped = false → st = sfFault → ⟨0x3902, 2⟩ ∈ (s.sfTold k st cause stopped).ec.arrivals) := by
  have hnotify : ∀ code cls p0 p1, s.FnKept [] (s.notify 0x39 code cls p0 p1 0 0) ∧ (s.notify 0x39 code cls p0 p1 0 0).sf = s.sf :=
    fun code cls p0 p1 => ⟨State.fnKept_told State.notify_moves hi rfl rfl rfl, (State.notify_moves.keep hi .sf rfl).symm⟩
  unfold State.sfTold
  split
  · next h => exact ⟨(hnotify _ _ _ _).1, (hnotify _ _ _ _).2, fun h' => absurd (h'.symm.trans h) (by decide)⟩
  · split
    · exact ⟨(hnotify _ _ _ _).1, (hnotify _ _ _ _).2, fun _ _ => State.notify_mem_arrivals hi (by decide) _ _ _ _⟩
    · next hno =>
      split
      · exact ⟨(hnotify _ _ _ _).1, (hnotify _ _ _ _).2, fun _ h => absurd h hno⟩
      · exact ⟨.refl s, rfl, fun _ h => absurd h hno⟩

/-! The entry of a state. -/

/-- Function `k` enters a state. -/
structure State.SfEntered (k st cause : Nat) (s t : State) : Prop extends s.FnKept enterFields t where
  state : ∀ j, t.sfState j = if j % 65536 = k % 65536 then st else s.sfState j
  fault : ∀ j, t.rd SF_FSTAT_FCAUSE j = if j % 65536 = k % 65536 then cause else s.rd SF_FSTAT_FCAUSE j
  resumes : s.fnsOk → (s.sfn k).Resumes (t.sfn k)
  told : st = sfFault → ¬(s.sfState k = st ∧ s.rd SF_FSTAT_FCAUSE k = cause) → ⟨0x3902, 2⟩ ∈ t.ec.arrivals

theorem State.sfEnter_entered (hi : s.Inv) {st cause : Nat} (hst : st < 8) (hcause : cause < 32) :
    s.SfEntered k st cause (s.sfEnter k st cause) := by
  rw [State.sfEnter_eq]
  split
  · next h =>
    obtain ⟨hstate, hfault⟩ := h
    have hmod : ∀ (f : Field) j, j % 65536 = k % 65536 → s.rd f j = s.rd f k := fun f j hj => by rw [← State.rd_mod, hj, State.rd_mod]
    refine ⟨.refl s, fun j => ?_, fun j => ?_, fun _ => rfl, fun _ hno => absurd ⟨hstate, hfault⟩ hno⟩
    · split
      · next hj => exact (hmod SF_FSTAT_STATE j hj).trans hstate
      · rfl
    · split
      · next hj => exact (hmod SF_FSTAT_FCAUSE j hj).trans hfault
      · rfl
  · obtain ⟨h1, hsf1, hstate, hfault⟩ := State.sfShown_effect (k := k) hi hst hcause
    have hstop : st = sfFault → decide (st = sfStop ∧ 2 ≤ s.sfState k ∧ s.sfState k ≤ 4) = false := fun h => by
      rw [h]
      exact decide_eq_false fun h => absurd h.1 (by decide)
    have hinv1 := h1.kept.inv hi
    have hfn1 : (s.sfShown k st cause).sfn k = s.sfn k := congrArg (fun x : SfSt => mget (fun _ => SfFn.init) x.fn k) hsf1
    generalize decide (st = sfStop ∧ 2 ≤ s.sfState k ∧ s.sfState k ≤ 4) = stopped at *
    generalize s.sfShown k st cause = a at *
    obtain ⟨h2, hresume⟩ := State.sfNoted_effect (k := k) hinv1 st stopped
    have hinv2 := h2.kept.inv hinv1
    generalize a.sfNoted k st stopped = b at *
    obtain ⟨h3, hsf3, htold⟩ := State.sfTold_effect (k := k) hinv2 st cause stopped
    have hfn3 : (b.sfTold k st cause stopped).sfn k = b.sfn k := congrArg (fun x : SfSt => mget (fun _ => SfFn.init) x.fn k) hsf3
    refine ⟨(h1.trans (h2.mono (by decide))).trans (h3.mono (List.nil_subset _)), fun j => ?_, fun j => ?_, fun hm => ?_,
      fun h _ => htold (hstop h) h⟩
    · rw [← hstate]
      exact (h3.rd SF_FSTAT_STATE rfl rfl j).trans (h2.rd SF_FSTAT_STATE rfl rfl j)
    · rw [← hfault]
      exact (h3.rd SF_FSTAT_FCAUSE rfl rfl j).trans (h2.rd SF_FSTAT_FCAUSE rfl rfl j)
    · rw [hfn3, ← hfn1]
      exact hresume (h1.fns hm)

theorem State.SfEntered.here {st cause : Nat} (h : s.SfEntered k st cause t) : t.sfState k = st ∧ t.rd SF_FSTAT_FCAUSE k = cause :=
  ⟨(h.state k).trans (if_pos rfl), (h.fault k).trans (if_pos rfl)⟩

/-- Every function of a list enters a state. -/
theorem State.sfEnters_effect {st cause : Nat} (hst : st < 8) (hcause : cause < 32) (l : List Nat) (hi : s.Inv) :
    s.FnKept enterFields (l.foldl (fun s k => s.sfEnter k st cause) s) ∧
    (∀ j, j ∈ l ∨ s.sfState j = st → (l.foldl (fun s k => s.sfEnter k st cause) s).sfState j = st) ∧
    ∀ j, j ∈ l → (l.foldl (fun s k => s.sfEnter k st cause) s).rd SF_FSTAT_FCAUSE j = cause := by
  have hstep : ∀ (y : State) a, y.Inv → y.SfEntered a st cause (y.sfEnter a st cause) := fun y a hy => State.sfEnter_entered hy hst hcause
  have hkept : ∀ (l : List Nat) {y : State}, y.Inv → y.FnKept enterFields (l.foldl (fun s k => s.sfEnter k st cause) y) := by
    intro l
    induction l with
    | nil => exact fun _ => .refl _
    | cons a l ih => exact fun hy => (hstep _ a hy).toFnKept.trans (ih ((hstep _ a hy).kept.inv hy))
  refine ⟨hkept l hi, fun j hj => ?_, fun j hj => ?_⟩
  · exact (State.rd_foldl_set (f := SF_FSTAT_STATE) (fun y a hy => ⟨(hstep y a hy).kept.inv hy, (hstep y a hy).state⟩) l hi hj).2
  · exact (State.rd_foldl_set (f := SF_FSTAT_FCAUSE) (fun y a hy => ⟨(hstep y a hy).kept.inv hy, (hstep y a hy).fault⟩) l hi (.inl hj)).2

end

end Sys2Proof.Machine
end

