-- ==== Sys2Proof/Proofs/SafetyOutputs.lean ====
section
/-! What follows the states of the safety functions: the masks, the safe-off commands of outputs, and their drivers (R452, R453). -/

namespace Sys2Proof.Machine

open Sys2Proof

section
variable {s t : State} {n : Nat}

/-! Masks. -/

theorem State.tchWord_none {p : Nat → Bool} (h : ∀ k, k < 32 → p k = false) : s.tchWord p = 0 := by
  have hfold : ∀ l : List Nat, (∀ k, k ∈ l → p k = false) → l.foldl (fun w c => if p c then w + 2 ^ c else w) 0 = 0 := by
    intro l
    induction l with
    | nil => exact fun _ => rfl
    | cons k l ih =>
      intro hl
      rw [List.foldl_cons, hl k List.mem_cons_self]
      exact ih fun j hj => hl j (List.mem_cons_of_mem k hj)
  exact hfold _ fun k hk => h k (List.mem_range.1 hk)

theorem State.tchWord_congr {p q : Nat → Bool} (h : ∀ k, k < 32 → p k = q k) : s.tchWord p = s.tchWord q := by
  unfold State.tchWord
  refine List.foldl_ext _ _ _ fun w k hk => ?_
  rw [h k (List.mem_range.1 hk)]

theorem State.tchWord_single {k : Nat} (hk : k < 32) : s.tchWord (fun c => c == k) = 2 ^ k := by
  have hall : ∀ k, k < 32 → (List.range 32).foldl (fun w c => if c == k then w + 2 ^ c else w) 0 = 2 ^ k := by decide
  exact hall k hk

/-! The safe-off command of an output (R452). -/

/-- The functions that name an output, and their states, are in two fields. -/
theorem State.sfNames_congr (hstate : ∀ j, t.sfState j = s.sfState j) (hmask : ∀ j, t.rd SF_FUNC_OUT_MASK j = s.rd SF_FUNC_OUT_MASK j) (n : Nat) :
    t.sfNames n = s.sfNames n := by
  unfold State.sfNames State.sfFns
  simp only [hstate, hmask]

theorem State.sfHeld_congr (hstate : ∀ j, t.sfState j = s.sfState j) (hmask : ∀ j, t.rd SF_FUNC_OUT_MASK j = s.rd SF_FUNC_OUT_MASK j) (n : Nat) :
    (t.sfOwned n && !t.sfReleased n) = (s.sfOwned n && !s.sfReleased n) := by
  unfold State.sfOwned State.sfReleased
  rw [State.sfNames_congr hstate hmask]
  simp only [hstate]

/-- The tables of safe-off commands in canonical form. -/
def State.offsOk (s : State) : Prop := mapOk (fun _ => false) s.fd.sfOff = true ∧ mapOk (fun _ => false) s.um.sfOff = true

/-- An output that the safety functions hold off, in the field die and in the Umpire. -/
def State.sfHolds (s : State) (n : Nat) : Prop := mget (fun _ => false) s.fd.sfOff n = true ∧ mget (fun _ => false) s.um.sfOff n = true

/-- What the safe-off commands leave: the registers, and all but the commands and the checks. -/
structure State.OffsKept (s t : State) : Prop where
  regs : t.regs = s.regs
  offs : s.offsOk → t.offsOk
  fd : t.fd = { s.fd with sfOff := t.fd.sfOff }
  sf : t.sf = { s.sf with checks := t.sf.checks }

theorem State.OffsKept.trans {u : State} (h : s.OffsKept t) (h' : t.OffsKept u) : s.OffsKept u where
  regs := h'.regs.trans h.regs
  offs hm := h'.offs (h.offs hm)
  fd := by rw [h'.fd, h.fd]
  sf := by rw [h'.sf, h.sf]

theorem State.sfOutput_kept (s : State) (m : Nat) : s.OffsKept (s.sfOutput m) := ⟨rfl, fun h => ⟨mset_ok h.1, mset_ok h.2⟩, rfl, rfl⟩

theorem State.sfOutput_holds (hm : s.offsOk) (hoff : (s.sfOwned n && !s.sfReleased n) = true) : (s.sfOutput n).sfHolds n := by
  unfold State.sfOutput
  dsimp only
  rw [hoff]
  exact ⟨mget_mset_same n _ _ hm.1, mget_mset_same n _ _ hm.2⟩

theorem State.sfOutput_other {m : Nat} (hm : s.offsOk) (hne : n ≠ m) (h : s.sfHolds n) : (s.sfOutput m).sfHolds n :=
  ⟨(mget_mset_ne _ hne _ hm.1).trans h.1, (mget_mset_ne _ hne _ hm.2).trans h.2⟩

theorem State.sfOutputPass_kept : ∀ (l : List Nat) (s : State), s.OffsKept (l.foldl State.sfOutput s)
  | [], _ => ⟨rfl, id, rfl, rfl⟩
  | m :: l, s => (s.sfOutput_kept m).trans (State.sfOutputPass_kept l (s.sfOutput m))

/-- An owned output that is not released is held off. -/
theorem State.sfOutputPass_holds : ∀ (l : List Nat) {s : State}, s.offsOk → (s.sfOwned n && !s.sfReleased n) = true → n ∈ l ∨ s.sfHolds n →
    (l.foldl State.sfOutput s).sfHolds n
  | [], _, _, _, h => h.resolve_left List.not_mem_nil
  | m :: l, s, hm, hoff, h => by
    have hrd : ∀ f i, (s.sfOutput m).rd f i = s.rd f i := fun f i => State.rd_of_regs (s.sfOutput_kept m).regs
    refine State.sfOutputPass_holds l ((s.sfOutput_kept m).offs hm) ((State.sfHeld_congr (hrd _) (hrd _) n).trans hoff) ?_
    by_cases hne : n = m
    · subst hne
      exact .inr (State.sfOutput_holds hm hoff)
    · exact h.imp (fun h => (List.mem_cons.1 h).resolve_left hne) (State.sfOutput_other hm hne)

/-! Status points. -/

theorem State.sfPoint_kept (s : State) (k : Nat) : (s.sfPoint k).um.sfOff = s.um.sfOff ∧ (s.sfPoint k).fd = s.fd ∧ (s.sfPoint k).sf = s.sf := by
  unfold State.sfPoint
  dsimp only
  split
  · split
    · split
      · exact ⟨rfl, rfl, rfl⟩
      · exact ⟨rfl, rfl, rfl⟩
    · exact ⟨rfl, rfl, rfl⟩
  · exact ⟨rfl, rfl, rfl⟩

theorem State.sfPoints_kept : ∀ (l : List Nat) (s : State), (l.foldl State.sfPoint s).um.sfOff = s.um.sfOff ∧
    (l.foldl State.sfPoint s).fd = s.fd ∧ (l.foldl State.sfPoint s).sf = s.sf
  | [], _ => ⟨rfl, rfl, rfl⟩
  | k :: l, s => by
    obtain ⟨hum, hfd, hsf⟩ := s.sfPoint_kept k
    obtain ⟨hum', hfd', hsf'⟩ := State.sfPoints_kept l (s.sfPoint k)
    exact ⟨hum'.trans hum, hfd'.trans hfd, hsf'.trans hsf⟩

/-! Masks, commands and drivers together. -/

/-- The masks shown. -/
def State.sfMasked (s : State) : State :=
  (s.wr SF_STAT_RUN_MASK 0 (s.tchWord (fun k => s.sfState k == sfRun))).wr SF_STAT_FAULT_MASK 0 (s.tchWord (fun k => s.sfState k == sfFault))

/-- The state that the drivers take. -/
def State.sfCommanded (s : State) : State := (List.range 32).foldl State.sfPoint ((List.range 24).foldl State.sfOutput s.sfMasked)

theorem State.sfOutputs_eq : s.sfOutputs = s.sfCommanded.fdDrive := rfl

/-- The registers that show the states. -/
def maskFields : List Field := [SF_STAT_RUN_MASK, SF_STAT_FAULT_MASK]

theorem State.sfMasked_effect (hi : s.Inv) : s.FnKept maskFields s.sfMasked ∧ s.sfMasked.fd = s.fd ∧ s.sfMasked.um = s.um ∧
    s.sfMasked.rd SF_STAT_RUN_MASK 0 = s.tchWord (fun k => s.sfState k == sfRun) % 2 ^ 32 := by
  unfold State.sfMasked
  generalize s.tchWord (fun k => s.sfState k == sfRun) = run
  generalize s.tchWord (fun k => s.sfState k == sfFault) = fault
  have h1 : s.FnKept [SF_STAT_RUN_MASK] (s.wr SF_STAT_RUN_MASK 0 run) := State.fnKept_wr hi List.mem_cons_self rfl 0 run
  have hread := State.rd_wr_same hi (f := SF_STAT_RUN_MASK) rfl 0 run
  have hfd := s.wr_fd SF_STAT_RUN_MASK 0 run
  have hum := s.wr_um SF_STAT_RUN_MASK 0 run
  have hinv := h1.kept.inv hi
  generalize s.wr SF_STAT_RUN_MASK 0 run = a at *
  have h2 : a.FnKept [SF_STAT_FAULT_MASK] (a.wr SF_STAT_FAULT_MASK 0 fault) := State.fnKept_wr hinv List.mem_cons_self rfl 0 fault
  exact ⟨(h1.mono (by decide)).trans (h2.mono (by decide)), (a.wr_fd _ _ _).trans hfd, (a.wr_um _ _ _).trans hum,
    (h2.rd SF_STAT_RUN_MASK rfl rfl 0).trans hread⟩

/-- What follows the states leaves the unit's registers but the masks, and the unit's state but the pending checks. -/
structure State.SfDriven (s t : State) : Prop where
  inv : t.Inv
  rd : ∀ g : Field, g.unit = 0x39 → g.off maskFields = true → ∀ j, t.rd g j = s.rd g j
  run : t.rd SF_STAT_RUN_MASK 0 = s.tchWord (fun k => s.sfState k == sfRun) % 2 ^ 32
  sf : t.sf = { s.sf with checks := t.sf.checks }
  raised : ∀ e, e ∈ s.ec.arrivals → e ∈ t.ec.arrivals

theorem State.sfOutputPass_moves : ∀ (l : List Nat) (s : State), Moves 0xc800000 s (l.foldl State.sfOutput s)
  | [], _ => .refl
  | m :: l, s => State.sfOutput_moves.trans (State.sfOutputPass_moves l (s.sfOutput m))

theorem State.sfPoints_moves : ∀ (l : List Nat) (s : State), Moves 0x800000 s (l.foldl State.sfPoint s)
  | [], _ => .refl
  | k :: l, s => State.sfPoint_moves.trans (State.sfPoints_moves l (s.sfPoint k))

theorem State.sfOutputs_driven (hi : s.Inv) : s.SfDriven s.sfOutputs := by
  obtain ⟨h1, -, -, hrun⟩ := State.sfMasked_effect hi
  have hinv1 := h1.kept.inv hi
  have h2 := State.sfOutputPass_moves (List.range 24) s.sfMasked
  have hsf2 := (State.sfOutputPass_kept (List.range 24) s.sfMasked).sf
  have hinv2 := h2.inv hinv1
  have h3 := State.sfPoints_moves (List.range 32) ((List.range 24).foldl State.sfOutput s.sfMasked)
  have hinv3 := h3.inv hinv2
  have hsf3 := (State.sfPoints_kept (List.range 32) ((List.range 24).foldl State.sfOutput s.sfMasked)).2.2
  have h4 : Moves outputKinds s.sfCommanded s.sfOutputs := State.fdDrive_moves
  have hrd : ∀ g : Field, g.unit = 0x39 → ∀ j, s.sfOutputs.rd g j = s.sfMasked.rd g j := fun g hu j =>
    (h4.rd hinv3 (by rw [hu]; rfl) j).trans ((h3.rd hinv2 (by rw [hu]; rfl) j).trans (h2.rd hinv1 (by rw [hu]; rfl) j))
  refine ⟨h4.inv hinv3, fun g hu hg j => (hrd g hu j).trans (h1.rd g hu hg j), (hrd _ rfl 0).trans hrun, ?_, fun e he => ?_⟩
  · have hsf4 : s.sfOutputs.sf = s.sfCommanded.sf := (h4.keep hinv3 .sf rfl).symm
    have hall : s.sfOutputs.sf = ((List.range 24).foldl State.sfOutput s.sfMasked).sf := hsf4.trans hsf3
    have hfirst : s.sfMasked.sf = s.sf := rfl
    rw [hall, hsf2, hfirst]
  · exact h4.raised hinv3 rfl (h3.raised hinv2 rfl (h2.raised hinv1 rfl (h1.kept.raised hi rfl he)))

/-- An owned output that is not released is held off, and off. -/
theorem State.sfOutputs_holds (hs : s.OutsGood) (hm : s.offsOk) (hn : n < 24) (hoff : (s.sfOwned n && !s.sfReleased n) = true) :
    s.sfOutputs.sfHolds n ∧ s.sfOutputs.flag FD_DO_ON n = false := by
  obtain ⟨h1, hfd1, hum1, -⟩ := State.sfMasked_effect hs.1
  have hinv1 := h1.kept.inv hs.1
  have hm1 : s.sfMasked.offsOk := by
    unfold State.offsOk
    rw [hfd1, hum1]
    exact hm
  have hheld := (State.sfHeld_congr (h1.rd SF_FSTAT_STATE rfl rfl) (h1.rd SF_FUNC_OUT_MASK rfl rfl) n).trans hoff
  have hholds2 := State.sfOutputPass_holds (List.range 24) hm1 hheld (.inl (List.mem_range.2 hn))
  have hkept2 := State.sfOutputPass_kept (List.range 24) s.sfMasked
  have hinv2 := (State.sfOutputPass_moves (List.range 24) s.sfMasked).inv hinv1
  rw [State.sfOutputs_eq]
  unfold State.sfCommanded
  generalize (List.range 24).foldl State.sfOutput s.sfMasked = y at *
  obtain ⟨hum3, hfd3, -⟩ := State.sfPoints_kept (List.range 32) y
  have hinv3 := (State.sfPoints_moves (List.range 32) y).inv hinv2
  generalize (List.range 32).foldl State.sfPoint y = z at *
  have hgood : z.OutsGood := ⟨hinv3, by rw [hfd3, hkept2.fd, hfd1]; exact hs.2⟩
  have hholds3 : z.sfHolds n := ⟨by rw [hfd3]; exact hholds2.1, by rw [hum3]; exact hholds2.2⟩
  obtain ⟨-, hmoves, -, -, hfd4⟩ := State.fdDrive_left hgood (n := n) (by omega)
  refine ⟨⟨?_, ?_⟩, State.fdDrive_heldOff hgood (by omega) (.inr (.inr ⟨hn, hholds3.1⟩))⟩
  · rw [hfd4]
    exact hholds3.1
  · rw [← hmoves.keep hinv3 .um rfl]
    exact hholds3.2

end

end Sys2Proof.Machine
end

