-- ==== Sys2Proof/Proofs/SafetyFaults.lean ====
section
/-! Faults of the machine safety unit: heartbeat, diagnostics, discrepancy, test windows, readback and CRC (R441 to R457). -/

namespace Sys2Proof.Machine

open Sys2Proof

section
variable {s : State} {k : Nat}

/-! The heartbeat (R442). -/

/-- Outputs held off, in a table of commands. -/
def offAll (ns : List Nat) (m : AMap Bool) : AMap Bool := ns.foldl (fun m n => mset (fun _ => false) n true m) m

theorem offAll_get {n : Nat} : ∀ (ns : List Nat) {m : AMap Bool}, mapOk (fun _ => false) m = true → n ∈ ns ∨ mget (fun _ => false) m n = true →
    mget (fun _ => false) (offAll ns m) n = true
  | [], _, _, h => h.resolve_left List.not_mem_nil
  | a :: ns, m, hm, h => by
    refine offAll_get ns (mset_ok hm) ?_
    by_cases hne : n = a
    · subst hne
      exact .inr (mget_mset_same n _ _ hm)
    · exact h.imp (fun h => (List.mem_cons.1 h).resolve_left hne) (mget_mset_ne _ hne _ hm).trans

/-- The outputs that the unit holds off without a heartbeat. -/
def State.sfLostOuts (s : State) : List Nat := (List.range 24).filter (fun n => s.sfOwned n || s.pulseSrc n || s.rd SF_CFG_OTE 0 == n)

def State.sfLostNow (s : State) : State :=
  { s with fd := { s.fd with sfLost := true, sfOff := offAll s.sfLostOuts s.fd.sfOff } }

theorem exec_sfHeartbeatLoss_effect (hi : s.Inv) (hmaps : s.fieldMapsOk = true) (hon : s.fieldOn = true) (hat : s.fd.sfHbAt ≠ 0)
    (hlost : s.fd.sfLost = false) (hhold : s.flag FD_STAT_HOLD 0 = false) (hdue : s.fd.sfHbAt + 800000 ≤ s.elapsed + 1) :
    ∃ t, exec .sfHeartbeatLoss s = .next t ∧ t.fd.sfLost = true ∧
      ∀ n, n < 24 → (s.sfOwned n = true ∨ s.pulseSrc n = true ∨ s.rd SF_CFG_OTE 0 = n) →
        mget (fun _ => false) t.fd.sfOff n = true ∧ t.flag FD_DO_ON n = false := by
  have hgo : exec .sfHeartbeatLoss s = .next s.sfLostNow.fdDrive := by
    show execSfHeartbeatLoss s = _
    exact if_pos (by simp [hon, hat, hlost, hhold, hdue])
  have hgood : s.sfLostNow.OutsGood := State.outsGood (s := s) hi hmaps
  obtain ⟨-, -, -, -, hfd⟩ := State.fdDrive_left hgood (n := 0) (by decide)
  refine ⟨_, hgo, by rw [hfd]; rfl, fun n hn hwhy => ?_⟩
  have hmem : n ∈ s.sfLostOuts := List.mem_filter.2 ⟨List.mem_range.2 hn, by
    rcases hwhy with h | h | h
    · rw [h]
      rfl
    · rw [h, Bool.or_true]
      rfl
    · rw [h, beq_self_eq_true, Bool.or_true]⟩
  have hoff : mget (fun _ => false) s.sfLostNow.fd.sfOff n = true := offAll_get _ (State.fieldMapsOk_iff.1 hmaps).2.2.1 (.inl hmem)
  refine ⟨?_, State.fdDrive_heldOff hgood (by omega) (.inr (.inr ⟨hn, hoff⟩))⟩
  rw [hfd]
  exact hoff

/-! Diagnostics (R441). -/

theorem exec_sfDiagnosticFailure_corrected (hi : s.Inv) (hvar : s.var ≠ .cpx9616) (hon : s.fieldOn = true) (hrun : s.tu.running = true) :
    ∃ t, exec (.sfDiagnosticFailure 0) s = .next t ∧ t.rd SF_STAT_SEC_CNT 0 = satAdd 65535 (s.rd SF_STAT_SEC_CNT 0) 1 := by
  have hgo : exec (.sfDiagnosticFailure 0) s = .next (s.bump SF_STAT_SEC_CNT 0 1) := by
    show execSfDiagnosticFailure 0 s = _
    exact (if_neg (by simp [hvar, hon, hrun])).trans (if_pos rfl)
  exact ⟨_, hgo, State.rd_bump_same hi rfl 0 1⟩

/-- The failure shown, and every function in FAULT. -/
def State.sfFailed (s : State) (cause : Nat) : State := (s.wr SF_STAT_PFAULT 0 1).wr SF_STAT_PCAUSE 0 cause

theorem State.sfFns_congr {t : State} (h : ∀ j, t.sfState j = s.sfState j) : t.sfFns = s.sfFns := by
  unfold State.sfFns
  simp only [h]

theorem State.sfFailed_effect (hi : s.Inv) {cause : Nat} (hcause : cause < 8) : s.FnKept [SF_STAT_PFAULT, SF_STAT_PCAUSE] (s.sfFailed cause) ∧
    (s.sfFailed cause).flag SF_STAT_PFAULT 0 = true ∧ (s.sfFailed cause).rd SF_STAT_PCAUSE 0 = cause := by
  unfold State.sfFailed
  have h1 : s.FnKept [SF_STAT_PFAULT] (s.wr SF_STAT_PFAULT 0 1) := State.fnKept_wr hi List.mem_cons_self rfl 0 1
  have hshown := State.flag_wr_one hi (f := SF_STAT_PFAULT) rfl 0
  have hinv := h1.kept.inv hi
  generalize s.wr SF_STAT_PFAULT 0 1 = a at *
  have h2 : a.FnKept [SF_STAT_PCAUSE] (a.wr SF_STAT_PCAUSE 0 cause) := State.fnKept_wr hinv List.mem_cons_self rfl 0 cause
  exact ⟨(h1.mono (by decide)).trans (h2.mono (by decide)), (h2.flag (g := SF_STAT_PFAULT) rfl rfl 0).trans hshown,
    (State.rd_wr_same hinv rfl 0 cause).trans (Nat.mod_eq_of_lt hcause)⟩

theorem exec_sfDiagnosticFailure_effect (hi : s.Inv) (hvar : s.var ≠ .cpx9616) (hon : s.fieldOn = true) (hrun : s.tu.running = true)
    {cause : Nat} (hlo : 1 ≤ cause) (hup : cause ≤ 4) (hfirst : s.flag SF_STAT_PFAULT 0 = false) :
    ∃ t, exec (.sfDiagnosticFailure cause) s = .next t ∧ t.flag SF_STAT_PFAULT 0 = true ∧ t.rd SF_STAT_PCAUSE 0 = cause ∧
      ⟨0x3904, 3⟩ ∈ t.ec.arrivals ∧ ∀ k, k ∈ s.sfFns → t.sfState k = 5 ∧ t.rd SF_FSTAT_FCAUSE k = 7 := by
  obtain ⟨h1, hshown, hcause⟩ := State.sfFailed_effect hi (cause := cause) (by omega)
  have hfns : (s.sfFailed cause).sfFns = s.sfFns := State.sfFns_congr (h1.rd SF_FSTAT_STATE rfl rfl)
  have hgo : exec (.sfDiagnosticFailure cause) s = .next
      ((s.sfFns.foldl (fun s k => s.sfEnter k sfFault 7) (s.sfFailed cause)).sfOutputs.notify 0x39 4 3 cause 0 0 0) := by
    rw [← hfns]
    show execSfDiagnosticFailure cause s = _
    exact ((if_neg (by simp [hvar, hon, hrun, hup])).trans (if_neg (by omega))).trans (if_neg (by rw [hfirst]; exact Bool.false_ne_true))
  have hinv1 := h1.kept.inv hi
  obtain ⟨h2, hstate, hfault⟩ := State.sfEnters_effect (st := sfFault) (cause := 7) (by decide) (by decide) s.sfFns hinv1
  have hinv2 := h2.kept.inv hinv1
  generalize s.sfFns.foldl (fun s k => s.sfEnter k sfFault 7) (s.sfFailed cause) = y at *
  have h3 := State.sfOutputs_driven hinv2
  have h4 : ∀ g : Field, g.unit = 0x39 → ∀ j, (y.sfOutputs.notify 0x39 4 3 cause 0 0 0).rd g j = y.sfOutputs.rd g j := fun g hu j =>
    State.notify_moves.rd h3.inv (by rw [hu]; rfl) j
  refine ⟨_, hgo, ?_, ?_, State.notify_mem_arrivals h3.inv (by decide) _ _ _ _, fun k hk => ⟨?_, ?_⟩⟩
  · refine Eq.trans (congrArg (· != 0) ?_) hshown
    exact (h4 SF_STAT_PFAULT rfl 0).trans ((h3.rd SF_STAT_PFAULT rfl rfl 0).trans (h2.rd SF_STAT_PFAULT rfl rfl 0))
  · rw [h4 SF_STAT_PCAUSE rfl, h3.rd SF_STAT_PCAUSE rfl rfl, h2.rd SF_STAT_PCAUSE rfl rfl, hcause]
  · exact (h4 SF_FSTAT_STATE rfl k).trans ((h3.rd SF_FSTAT_STATE rfl rfl k).trans (hstate k (.inl hk)))
  · rw [h4 SF_FSTAT_FCAUSE rfl, h3.rd SF_FSTAT_FCAUSE rfl rfl, hfault k hk]

/-! Discrepancy (R444). -/

theorem exec_sfDiscrepancyExpiry_effect (hi : s.Inv) (hon : s.sfOn = true) (hk : k < 32) {t0 : Nat} (hlo : 1 ≤ s.sfState k)
    (hup : s.sfState k ≤ 4) (hdisc : (s.sfn k).disc0 = some t0) (hdue : t0 + s.rd SF_FUNC_DISC_T k * 800000 < s.elapsed) :
    ∃ t, exec (.sfDiscrepancyExpiry k) s = .next t ∧ t.sfState k = 5 ∧ t.rd SF_FSTAT_FCAUSE k = 1 ∧ ⟨0x3902, 2⟩ ∈ t.ec.arrivals := by
  have hheld : held (s.sfn k).disc0 (s.rd SF_FUNC_DISC_T k * 800000 + 1) s.elapsed = true := by
    rw [hdisc]
    exact decide_eq_true (by omega)
  have hgo : exec (.sfDiscrepancyExpiry k) s = .next (s.sfEnter k sfFault 1).sfOutputs := by
    show execSfDiscrepancyExpiry k s = _
    exact if_pos (by simp [hon, hk, hlo, hup, hheld])
  have h1 := State.sfEnter_entered (k := k) hi (st := sfFault) (cause := 1) (by decide) (by decide)
  have h2 := State.sfOutputs_driven (h1.kept.inv hi)
  have htold := h1.told rfl fun h => by
    have h5 : s.sfState k = 5 := h.1
    omega
  exact ⟨_, hgo, (h2.rd SF_FSTAT_STATE rfl rfl k).trans h1.here.1, (h2.rd SF_FSTAT_FCAUSE rfl rfl k).trans h1.here.2, h2.raised _ htold⟩

/-! The end of a test window (R455). -/

/-- The function with its test over, its channel demanded when its input reads 0. -/
def SfFn.tested (x : SfFn) (low : Bool) : SfFn := { x with testA := none, chA := if low then ⟨true, 0⟩ else x.chA }

section window
variable {x : SfTest} (hon : s.sfOn = true) (htest : (s.sfn k).testA = some x) (hdue : x.stop ≤ s.elapsed)
include hon htest hdue

theorem exec_sfTestWindowEnd_due {y : State} (hy : s.setSfn k ((s.sfn k).tested (!s.sfRaw (s.rd SF_FUNC_IN_A k))) = y)
    (hreset : x.zero = true → x.reset = false) :
    exec (.sfTestWindowEnd k false) s = .next
      (if !x.zero then (if 1 ≤ (y.wr SF_FSTAT_TEST_A k 3).sfState k ∧ (y.wr SF_FSTAT_TEST_A k 3).sfState k ≤ 4 then
        (y.wr SF_FSTAT_TEST_A k 3).sfEnter k sfFault 2 else y.wr SF_FSTAT_TEST_A k 3)
      else if !s.sfRaw (s.rd SF_FUNC_IN_A k) || x.other then (y.wr SF_FSTAT_TEST_A k 2).bump SF_FSTAT_INCONC k 1
      else y.wr SF_FSTAT_TEST_A k 1).sfOutputs := by
  subst hy
  show execSfTestWindowEnd k false s = _
  unfold execSfTestWindowEnd
  simp only [Bool.false_eq_true, if_false, htest]
  rw [if_neg (by simp [hon, hdue])]
  cases hzero : x.zero
  · rfl
  · rw [hreset hzero]
    cases hlow : !s.sfRaw (s.rd SF_FUNC_IN_A k) || x.other
    · rfl
    · rfl

variable (hi : s.Inv)
include hi

theorem exec_sfTestWindowEnd_fails (hlo : 1 ≤ s.sfState k) (hup : s.sfState k ≤ 4) (hzero : x.zero = false) :
    ∃ t, exec (.sfTestWindowEnd k false) s = .next t ∧ t.sfState k = 5 ∧ t.rd SF_FSTAT_FCAUSE k = 2 ∧ t.rd SF_FSTAT_TEST_A k = 3 := by
  have h0 : s.FnKept [] (s.setSfn k ((s.sfn k).tested (!s.sfRaw (s.rd SF_FUNC_IN_A k)))) := State.fnKept_setSfn s k _
  generalize hy : s.setSfn k ((s.sfn k).tested (!s.sfRaw (s.rd SF_FUNC_IN_A k))) = y at h0
  have hinv0 := h0.kept.inv hi
  have h1 : y.FnKept [SF_FSTAT_TEST_A] (y.wr SF_FSTAT_TEST_A k 3) := State.fnKept_wr hinv0 List.mem_cons_self rfl k 3
  have hread : (y.wr SF_FSTAT_TEST_A k 3).rd SF_FSTAT_TEST_A k = 3 := State.rd_wr_same hinv0 rfl k 3
  have hstate : (y.wr SF_FSTAT_TEST_A k 3).sfState k = s.sfState k := (h1.rd SF_FSTAT_STATE rfl rfl k).trans (h0.rd SF_FSTAT_STATE rfl rfl k)
  have hgo := exec_sfTestWindowEnd_due hon htest hdue hy (fun h => absurd (hzero.symm.trans h) Bool.false_ne_true)
  rw [hzero, Bool.not_false, if_pos rfl, hstate, if_pos ⟨hlo, hup⟩] at hgo
  have hinv1 := h1.kept.inv hinv0
  have h2 := State.sfEnter_entered (k := k) hinv1 (st := sfFault) (cause := 2) (by decide) (by decide)
  have h3 := State.sfOutputs_driven (h2.kept.inv hinv1)
  exact ⟨_, hgo, (h3.rd SF_FSTAT_STATE rfl rfl k).trans h2.here.1, (h3.rd SF_FSTAT_FCAUSE rfl rfl k).trans h2.here.2,
    (h3.rd SF_FSTAT_TEST_A rfl rfl k).trans ((h2.rd SF_FSTAT_TEST_A rfl rfl k).trans hread)⟩

theorem exec_sfTestWindowEnd_passes (hm : s.fnsOk) (hzero : x.zero = true) (hother : x.other = false) (hreset : x.reset = false)
    (hraw : s.sfRaw (s.rd SF_FUNC_IN_A k) = true) :
    ∃ t, exec (.sfTestWindowEnd k false) s = .next t ∧ t.sfState k = s.sfState k ∧ t.rd SF_FSTAT_TEST_A k = 1 ∧ (t.sfn k).testA = none := by
  have h0 : s.FnKept [] (s.setSfn k ((s.sfn k).tested (!s.sfRaw (s.rd SF_FUNC_IN_A k)))) := State.fnKept_setSfn s k _
  have hget := State.setSfn_sfn hm k ((s.sfn k).tested (!s.sfRaw (s.rd SF_FUNC_IN_A k)))
  generalize hy : s.setSfn k ((s.sfn k).tested (!s.sfRaw (s.rd SF_FUNC_IN_A k))) = y at h0 hget
  have hinv0 := h0.kept.inv hi
  have h1 : y.FnKept [SF_FSTAT_TEST_A] (y.wr SF_FSTAT_TEST_A k 1) := State.fnKept_wr hinv0 List.mem_cons_self rfl k 1
  have hread : (y.wr SF_FSTAT_TEST_A k 1).rd SF_FSTAT_TEST_A k = 1 := State.rd_wr_same hinv0 rfl k 1
  have hsf1 := y.wr_sf SF_FSTAT_TEST_A k 1
  have hgo := exec_sfTestWindowEnd_due hon htest hdue hy (fun _ => hreset)
  rw [hzero, hraw, hother, Bool.not_true, Bool.false_or, if_neg Bool.false_ne_true, if_neg Bool.false_ne_true] at hgo
  have h2 := State.sfOutputs_driven (h1.kept.inv hinv0)
  refine ⟨_, hgo, ?_, (h2.rd SF_FSTAT_TEST_A rfl rfl k).trans hread, ?_⟩
  · exact (h2.rd SF_FSTAT_STATE rfl rfl k).trans ((h1.rd SF_FSTAT_STATE rfl rfl k).trans (h0.rd SF_FSTAT_STATE rfl rfl k))
  · have hsame : (y.wr SF_FSTAT_TEST_A k 1).sfOutputs.sfn k = y.sfn k := by
      unfold State.sfn
      rw [h2.sf, hsf1]
    exact (congrArg SfFn.testA hsame).trans (congrArg SfFn.testA hget)

theorem exec_sfTestWindowEnd_inconclusive (hzero : x.zero = true) (hother : x.other = true) (hreset : x.reset = false) :
    ∃ t, exec (.sfTestWindowEnd k false) s = .next t ∧ t.sfState k = s.sfState k ∧ t.rd SF_FSTAT_TEST_A k = 2 ∧
      t.rd SF_FSTAT_INCONC k = satAdd 65535 (s.rd SF_FSTAT_INCONC k) 1 := by
  have h0 : s.FnKept [] (s.setSfn k ((s.sfn k).tested (!s.sfRaw (s.rd SF_FUNC_IN_A k)))) := State.fnKept_setSfn s k _
  generalize hy : s.setSfn k ((s.sfn k).tested (!s.sfRaw (s.rd SF_FUNC_IN_A k))) = y at h0
  have hinv0 := h0.kept.inv hi
  have h1 : y.FnKept [SF_FSTAT_TEST_A] (y.wr SF_FSTAT_TEST_A k 2) := State.fnKept_wr hinv0 List.mem_cons_self rfl k 2
  have hread : (y.wr SF_FSTAT_TEST_A k 2).rd SF_FSTAT_TEST_A k = 2 := State.rd_wr_same hinv0 rfl k 2
  have hgo := exec_sfTestWindowEnd_due hon htest hdue hy (fun _ => hreset)
  rw [hzero, hother, Bool.or_true, Bool.not_true, if_neg Bool.false_ne_true, if_pos rfl] at hgo
  have hinv1 := h1.kept.inv hinv0
  generalize y.wr SF_FSTAT_TEST_A k 2 = z at *
  have h2 : z.FnKept [SF_FSTAT_INCONC] (z.bump SF_FSTAT_INCONC k 1) := State.fnKept_wr hinv1 List.mem_cons_self rfl k _
  have hcount := State.rd_bump_same hinv1 (f := SF_FSTAT_INCONC) rfl k 1
  rw [h1.rd SF_FSTAT_INCONC rfl rfl, h0.rd SF_FSTAT_INCONC rfl rfl] at hcount
  have h3 := State.sfOutputs_driven (h2.kept.inv hinv1)
  refine ⟨_, hgo, ?_, ?_, (h3.rd SF_FSTAT_INCONC rfl rfl k).trans hcount⟩
  · exact (h3.rd SF_FSTAT_STATE rfl rfl k).trans ((h2.rd SF_FSTAT_STATE rfl rfl k).trans
      ((h1.rd SF_FSTAT_STATE rfl rfl k).trans (h0.rd SF_FSTAT_STATE rfl rfl k)))
  · rw [h3.rd SF_FSTAT_TEST_A rfl rfl, h2.rd SF_FSTAT_TEST_A rfl rfl, hread]

end window

/-! Readback (R452). -/

theorem State.sfState_mod {j k : Nat} (h : j % 65536 = k % 65536) : s.sfState j = s.sfState k := by
  unfold State.sfState
  rw [← State.rd_mod, h, State.rd_mod]

/-- A function fails for readback, unless it is in FAULT already. -/
def State.sfFails (s : State) (k : Nat) : State := if s.sfState k = sfFault then s else s.sfEnter k sfFault 4

theorem State.sfFails_effect (hi : s.Inv) (a : Nat) : s.FnKept enterFields (s.sfFails a) ∧
    (∀ j, (s.sfFails a).sfState j = if j % 65536 = a % 65536 then sfFault else s.sfState j) ∧
    ∀ j, (s.sfFails a).rd SF_FSTAT_FCAUSE j =
      if j % 65536 = a % 65536 ∧ s.sfState a ≠ sfFault then 4 else s.rd SF_FSTAT_FCAUSE j := by
  unfold State.sfFails
  split
  · next h =>
    refine ⟨.refl s, fun j => ?_, fun j => (if_neg fun hno => hno.2 h).symm⟩
    split
    · next hj => exact (State.sfState_mod hj).trans h
    · rfl
  · next h =>
    have hent := State.sfEnter_entered (k := a) hi (st := sfFault) (cause := 4) (by decide) (by decide)
    exact ⟨hent.toFnKept, hent.state, fun j => (hent.fault j).trans (if_congr (and_iff_left h).symm rfl rfl)⟩

theorem State.sfFailAll_effect (l : List Nat) : ∀ {s : State}, s.Inv → s.FnKept enterFields (l.foldl State.sfFails s) ∧
    (∀ j, j ∈ l ∨ s.sfState j = sfFault → (l.foldl State.sfFails s).sfState j = sfFault) ∧
    ∀ j, (s.sfState j = sfFault → s.rd SF_FSTAT_FCAUSE j = 4) → (l.foldl State.sfFails s).sfState j = sfFault →
      (l.foldl State.sfFails s).rd SF_FSTAT_FCAUSE j = 4 := by
  induction l with
  | nil => exact fun _ => ⟨.refl _, fun j hj => hj.resolve_left List.not_mem_nil, fun j h => h⟩
  | cons a l ih =>
    intro s hi
    obtain ⟨h1, hstate, hfault⟩ := State.sfFails_effect hi a
    obtain ⟨h2, hstates, hfaults⟩ := ih (h1.kept.inv hi)
    refine ⟨h1.trans h2, fun j hj => hstates j ?_, fun j hj => hfaults j fun h5 => ?_⟩
    · rw [hstate]
      split
      · exact .inr rfl
      · next hne => exact hj.imp (fun h => (List.mem_cons.1 h).resolve_left fun h => hne (by rw [h])) id
    · rw [hfault]
      split
      · rfl
      · next hno =>
        refine hj ?_
        rw [hstate] at h5
        split at h5
        · next hja => exact (State.sfState_mod hja).trans (Classical.byContradiction fun h => hno ⟨hja, h⟩)
        · exact h5

/-- The check is over. -/
def State.sfChecked (s : State) (n : Nat) : State := { s with sf := { s.sf with checks := mset (fun _ => 0) n 0 s.sf.checks } }

/-- The failure reported, and the functions that name the output in FAULT. -/
def State.sfOutReported (s : State) (n : Nat) : State :=
  (s.sfNames n).foldl State.sfFails (s.notify 0x39 3 2 n (s.tchWord (fun k => (s.sfNames n).contains k)) 0 0)

/-- OTE held off from now on. -/
def State.oteHeld (s : State) : State := { s with sf := { s.sf with oteOff := true } }

theorem State.sfOutFail_eq (n : Nat) : s.sfOutFail n = (s.sfOutReported n).oteHeld.sfOutputs := rfl

theorem State.sfOutReported_effect (hi : s.Inv) (n : Nat) : (s.sfOutReported n).Inv ∧ ⟨0x3903, 2⟩ ∈ (s.sfOutReported n).ec.arrivals ∧
    ∀ k, k ∈ s.sfNames n → (s.sfOutReported n).sfState k = sfFault ∧
      (s.sfState k ≠ sfFault → (s.sfOutReported n).rd SF_FSTAT_FCAUSE k = 4) := by
  unfold State.sfOutReported
  generalize s.tchWord (fun k => (s.sfNames n).contains k) = w
  have h1 : s.FnKept [] (s.notify 0x39 3 2 n w 0 0) := State.fnKept_told State.notify_moves hi rfl rfl rfl
  have htold : ⟨0x3903, 2⟩ ∈ (s.notify 0x39 3 2 n w 0 0).ec.arrivals := State.notify_mem_arrivals hi (by decide) _ _ _ _
  have hinv := h1.kept.inv hi
  have hstate := h1.rd SF_FSTAT_STATE rfl rfl
  generalize s.notify 0x39 3 2 n w 0 0 = y at *
  obtain ⟨h2, hstates, hfaults⟩ := State.sfFailAll_effect (s.sfNames n) hinv
  refine ⟨h2.kept.inv hinv, h2.kept.raised hinv rfl htold, fun k hk => ⟨hstates k (.inl hk), fun hne => ?_⟩⟩
  exact hfaults k (fun h => absurd ((hstate k).symm.trans h) hne) (hstates k (.inl hk))

section readback
variable {n : Nat} (hon : s.sfOn = true) (hset : mget (fun _ => 0) s.sf.checks n ≠ 0)
  (hdue : mget (fun _ => 0) s.sf.checks n + 3999999 ≤ s.elapsed)
include hon hset hdue

theorem exec_sfReadbackCheck_due : exec (.sfReadbackCheck n) s =
    .next (if s.flag FD_DO_BALL n then (s.sfChecked n).sfOutFail n else s.sfChecked n) := by
  have hdue' : mget (fun _ => 0) s.sf.checks n + 4000000 ≤ s.elapsed + 1 := by omega
  show execSfReadbackCheck n s = _
  exact if_pos (by simp [hon, hset, hdue'])

theorem exec_sfReadbackCheck_fell (hmaps : s.fieldMapsOk = true) (hball : s.flag FD_DO_BALL n = false) :
    ∃ t, exec (.sfReadbackCheck n) s = .next t ∧ mget (fun _ => 0) t.sf.checks n = 0 ∧ t.sf.oteOff = s.sf.oteOff := by
  obtain ⟨-, -, -, -, -, -, hchecks, -⟩ := State.fieldMapsOk_iff.1 hmaps
  have hgo := exec_sfReadbackCheck_due hon hset hdue
  rw [hball, if_neg Bool.false_ne_true] at hgo
  exact ⟨_, hgo, mget_mset_same n 0 _ hchecks, rfl⟩

theorem exec_sfReadbackCheck_fails (hi : s.Inv) (hball : s.flag FD_DO_BALL n = true) :
    ∃ t, exec (.sfReadbackCheck n) s = .next t ∧ t.sf.oteOff = true ∧ ⟨0x3903, 2⟩ ∈ t.ec.arrivals ∧
      ∀ k, k ∈ s.sfNames n → t.sfState k = 5 ∧ (s.sfState k ≠ 5 → t.rd SF_FSTAT_FCAUSE k = 4) := by
  have hgo := exec_sfReadbackCheck_due hon hset hdue
  rw [hball, if_pos rfl, State.sfOutFail_eq] at hgo
  obtain ⟨hinv, htold, hnames⟩ := State.sfOutReported_effect (s := s.sfChecked n) hi n
  generalize (s.sfChecked n).sfOutReported n = y at *
  have hote : y.oteHeld.Inv := hinv
  have hdriven := State.sfOutputs_driven hote
  refine ⟨_, hgo, by rw [hdriven.sf]; rfl, hdriven.raised _ htold, fun k hk => ?_⟩
  obtain ⟨hstate, hfault⟩ := hnames k hk
  exact ⟨(hdriven.rd SF_FSTAT_STATE rfl rfl k).trans hstate, fun hne => (hdriven.rd SF_FSTAT_FCAUSE rfl rfl k).trans (hfault hne)⟩

end readback

/-! The CRC (R457). -/

theorem crcBit_lt {c : Nat} (h : c < 2 ^ 32) : crcBit c < 2 ^ 32 := by
  have hhalf : c / 2 < 2 ^ 32 := by omega
  exact iteInduction (motive := (· < 2 ^ 32)) (fun _ => Nat.xor_lt_two_pow hhalf (by decide)) (fun _ => hhalf)

theorem crcByte_lt {c b : Nat} (hc : c < 2 ^ 32) (hb : b < 2 ^ 32) : crcByte c b < 2 ^ 32 :=
  crcBit_lt (crcBit_lt (crcBit_lt (crcBit_lt (crcBit_lt (crcBit_lt (crcBit_lt (crcBit_lt (Nat.xor_lt_two_pow hc hb))))))))

theorem crcWord_lt {c : Nat} (hc : c < 2 ^ 32) (w : W32) : crcWord c w.toNat < 2 ^ 32 :=
  crcByte_lt (crcByte_lt (crcByte_lt (crcByte_lt hc (by omega)) (by omega)) (by omega)) (by omega)

theorem crc32c_lt (ws : List W32) : crc32c ws < 2 ^ 32 := by
  have hfold : ∀ (ws : List W32) {c : Nat}, c < 2 ^ 32 → ws.foldl (fun c w => crcWord c w.toNat) c < 2 ^ 32 := by
    intro ws
    induction ws with
    | nil => exact id
    | cons w ws ih => exact fun hc => ih (crcWord_lt hc w)
  exact Nat.xor_lt_two_pow (hfold ws (by decide)) (by decide)

/-- The CRC shown. -/
def State.crcShown (s : State) : State := State.wr { s with sf := { s.sf with crcDue := none } } SF_CFG_CRC 0 s.sfCrc

theorem State.crcShown_effect (hi : s.Inv) : s.crcShown.Inv ∧ s.crcShown.rd SF_CFG_CRC 0 = s.sfCrc ∧ s.crcShown.sf.crcDue = none ∧
    ∀ g : Field, g.off [SF_CFG_CRC] = true → ∀ j, s.crcShown.rd g j = s.rd g j := by
  have hput : State.Inv { s with sf := { s.sf with crcDue := none } } := hi
  refine ⟨State.wr_inv hput _ _ _, ?_, rfl, fun g hg j => State.rdk_wrk_beside hput (Field.off_mem hg List.mem_cons_self) 0 j _⟩
  exact (State.rd_wr_same hput rfl 0 _).trans (Nat.mod_eq_of_lt (crc32c_lt _))

/-- The functions that a CRC mismatch puts in FAULT. -/
def State.crcFaults (s : State) : List Nat := s.sfFns.filter (fun k => !(s.sfState k == sfFault && s.rd SF_FSTAT_FCAUSE k == 7))

theorem State.fnKept_restart (hi : s.Inv) (k : Nat) : s.FnKept enterFields (s.sfRestart k) := by
  have h1 : s.FnKept enterFields (s.setSfn k SfFn.init) := State.fnKept_setSfn s k _
  exact h1.trans (State.sfEnter_entered (k := k) (h1.kept.inv hi) (st := sfStop) (cause := 0) (by decide) (by decide)).toFnKept

theorem State.fnKept_restarts (l : List Nat) : ∀ {s : State}, s.Inv → s.FnKept enterFields (l.foldl State.sfRestart s) := by
  induction l with
  | nil => exact fun _ => .refl _
  | cons k l ih => exact fun hi => (State.fnKept_restart hi k).trans (ih ((State.fnKept_restart hi k).kept.inv hi))

/-- A mismatch puts every enabled function in FAULT. -/
theorem State.sfJudge_effect (hi : s.Inv) : s.FnKept enterFields s.sfJudge ∧ (s.rd SF_CFG_CRC 0 ≠ s.rd SF_CFG_EXP_CRC 0 → ∀ k, k ∈ s.sfFns →
    s.sfJudge.sfState k = sfFault ∧ (s.sfState k ≠ sfFault → s.sfJudge.rd SF_FSTAT_FCAUSE k = 6)) := by
  unfold State.sfJudge
  split
  · next h => exact ⟨State.fnKept_restarts _ hi, fun hne => absurd h hne⟩
  · obtain ⟨hkept, hstates, hfaults⟩ := State.sfEnters_effect (st := sfFault) (cause := 6) (by decide) (by decide) s.crcFaults hi
    refine ⟨hkept, fun _ k hk => ?_⟩
    have hmem : s.sfState k ≠ sfFault → k ∈ s.crcFaults := fun hne => List.mem_filter.2 ⟨hk, by
      rw [beq_false_of_ne hne]
      rfl⟩
    refine ⟨hstates k ?_, fun hne => hfaults k (hmem hne)⟩
    by_cases h5 : s.sfState k = sfFault
    · exact .inr h5
    · exact .inl (hmem h5)

theorem exec_sfCrcRecompute_effect (hi : s.Inv) (hon : s.sfOn = true) (hdue : s.sf.crcDue.isSome = true) :
    ∃ t, exec .sfCrcRecompute s = .next t ∧ t.sf.crcDue = none ∧ t.rd SF_CFG_CRC 0 = s.sfCrc ∧
      (s.sfCrc ≠ s.rd SF_CFG_EXP_CRC 0 → ∀ k, k ∈ s.sfFns → t.sfState k = 5 ∧ (s.sfState k ≠ 5 → t.rd SF_FSTAT_FCAUSE k = 6)) := by
  have hgo : exec .sfCrcRecompute s = .next s.crcShown.sfJudge.sfOutputs := by
    show execSfCrcRecompute s = _
    exact if_pos (by rw [hon, hdue]; rfl)
  obtain ⟨hinv, hcrc, hnone, hrd⟩ := State.crcShown_effect hi
  have hfns : s.crcShown.sfFns = s.sfFns := State.sfFns_congr (hrd SF_FSTAT_STATE rfl)
  have hstate : ∀ k, s.crcShown.sfState k = s.sfState k := hrd SF_FSTAT_STATE rfl
  have hexp := hrd SF_CFG_EXP_CRC rfl 0
  generalize s.crcShown = y at *
  obtain ⟨hkept, hjudge⟩ := State.sfJudge_effect hinv
  have hdriven := State.sfOutputs_driven (hkept.kept.inv hinv)
  refine ⟨_, hgo, ?_, ?_, fun hne k hk => ?_⟩
  · rw [hdriven.sf, hkept.sf]
    exact hnone
  · rw [hdriven.rd SF_CFG_CRC rfl rfl, hkept.rd SF_CFG_CRC rfl rfl, hcrc]
  · obtain ⟨hfault, hcause⟩ := hjudge (by rw [hcrc, hexp]; exact hne) k (by rw [hfns]; exact hk)
    exact ⟨(hdriven.rd SF_FSTAT_STATE rfl rfl k).trans hfault,
      fun h5 => (hdriven.rd SF_FSTAT_FCAUSE rfl rfl k).trans (hcause (by rw [hstate]; exact h5))⟩

end

end Sys2Proof.Machine
end

