-- ==== Sys2Proof/Proofs/SafetyPulses.lean ====
section
/-! Test pulses of the machine safety unit (R454 to R456). -/

namespace Sys2Proof.Machine

open Sys2Proof

section
variable {s : State} {n k : Nat}

/-! An output that is not commanded is off, whatever its overload. -/

theorem State.doDrive_uncommanded (hs : s.OutsGood) (hn : n < 24) (hcmd : (s.doCmd n).2 = false) : (s.doDrive n).flag FD_DO_ON n = false := by
  have hsame : (s.olEdges n).OutsGood ∧ ((s.olEdges n).doCmd n).2 = false := by
    unfold State.olEdges State.olRelease
    rw [if_pos hn]
    split
    · dsimp only
      split
      · obtain ⟨hgood, hdout, hinputs, -⟩ := State.setDout_wr_ol (n := n) hs
          { s.dout n with latched := false, wait := false, retries := 0, limAt := none } (s.rd FD_DO_OL_T n)
        exact ⟨hgood, by rw [hinputs.doCmd (by rw [hdout]; exact ⟨rfl, rfl, rfl, rfl, rfl⟩)]; exact hcmd⟩
      · exact ⟨hs, hcmd⟩
    · exact ⟨hs, hcmd⟩
  obtain ⟨hgood, hoff⟩ := hsame
  rw [State.doDrive_eq]
  exact (congrArg (· != 0) ((State.switched_effect hgood _).1 FD_DO_ON n)).trans
    ((State.driven_effect hgood.1).2.1.trans (State.doRow_uncommanded (.inr (.inr hoff))))

theorem State.fdDrive_uncommanded (hs : s.OutsGood) (hn : n < 24) (hcmd : (s.doCmd n).2 = false) : s.fdDrive.flag FD_DO_ON n = false := by
  obtain ⟨y, hy, hrest⟩ := State.fdDrive_pass hs (n := n) (by omega)
  have hslots := State.cutSlots_kept (n := n) 34 hs
  have hcommands := (hslots.commands hs.1).trans (hy.commands hslots.good.1)
  exact (hrest.flag (g := FD_DO_ON) rfl rfl fun _ => rfl).trans
    (State.doDrive_uncommanded hy.good hn (by rw [hcommands.doCmd]; exact hcmd))

/-! Pulse sources (R454). -/

/-- A pulse source driven dark is not commanded. -/
theorem State.doCmd_pulsed (hn : n < 24) (hsrc : s.pulseSrc n = true) (hdark : mget (fun _ => false) s.fd.sfPulse n = false) :
    (s.doCmd n).2 = false := by
  unfold State.doCmd
  dsimp only
  rw [if_pos hn, hsrc]
  split
  · rfl
  split
  · rfl
  split
  · rfl
  · exact hdark

/-- One source's level. -/
def State.sfSource (s : State) (n : Nat) : State :=
  { s with fd := { s.fd with sfPulse := mset (fun _ => false) n (s.pulseSrc n && decide (mget (fun _ => 0) s.sf.dark n ≤ s.elapsed)) s.fd.sfPulse } }

theorem State.sfSources_eq : s.sfSources = (List.range 24).foldl State.sfSource s := rfl

/-- What the sources' levels leave. -/
structure State.SourcesKept (s t : State) : Prop where
  regs : t.regs = s.regs
  fd : t.fd = { s.fd with sfPulse := t.fd.sfPulse }
  elapsed : t.elapsed = s.elapsed
  sf : t.sf = s.sf

theorem State.sfSourcePass_kept : ∀ (l : List Nat) (s : State), s.SourcesKept (l.foldl State.sfSource s)
  | [], _ => ⟨rfl, rfl, rfl, rfl⟩
  | m :: l, s => by
    obtain ⟨hregs, hfd, helapsed, hsf⟩ := State.sfSourcePass_kept l (s.sfSource m)
    exact ⟨hregs, hfd, helapsed, hsf⟩

/-- A source inside its pulse is dark. -/
theorem State.sfSourcePass_dark : ∀ (l : List Nat) {s : State}, mapOk (fun _ => false) s.fd.sfPulse = true →
    s.elapsed < mget (fun _ => 0) s.sf.dark n → n ∈ l ∨ mget (fun _ => false) s.fd.sfPulse n = false →
    mget (fun _ => false) (l.foldl State.sfSource s).fd.sfPulse n = false
  | [], _, _, _, h => h.resolve_left List.not_mem_nil
  | m :: l, s, hm, hdark, h => by
    refine State.sfSourcePass_dark (s := s.sfSource m) l (mset_ok hm) hdark ?_
    by_cases hne : n = m
    · subst hne
      refine .inr ((mget_mset_same n _ _ hm).trans ?_)
      rw [decide_eq_false (by omega), Bool.and_false]
    · exact h.imp (fun h => (List.mem_cons.1 h).resolve_left hne) (mget_mset_ne _ hne _ hm).trans

/-- After the sources' levels and the drivers: a source inside its pulse is off. -/
theorem State.sfSources_off (hs : s.OutsGood) (hm : mapOk (fun _ => false) s.fd.sfPulse = true) (hn : n < 24) (hsrc : s.pulseSrc n = true)
    (hdark : s.elapsed < mget (fun _ => 0) s.sf.dark n) : s.sfSources.fdDrive.flag FD_DO_ON n = false := by
  have hkept := State.sfSourcePass_kept (List.range 24) s
  have hoff := State.sfSourcePass_dark (List.range 24) hm hdark (.inl (List.mem_range.2 hn))
  rw [State.sfSources_eq]
  have hinv : ((List.range 24).foldl State.sfSource s).Inv := State.sfSources_moves.inv hs.1
  generalize (List.range 24).foldl State.sfSource s = y at *
  have hgood : y.OutsGood := ⟨hinv, by rw [hkept.fd]; exact hs.2⟩
  have hsrc' : y.pulseSrc n = true := by
    unfold State.pulseSrc
    rw [State.rd_of_regs hkept.regs]
    exact hsrc
  exact State.fdDrive_uncommanded hgood hn (State.doCmd_pulsed hn hsrc' hoff)

/-- The sources' levels and the drivers leave the safety unit. -/
theorem State.sfSources_left (hi : s.Inv) : (∀ g : Field, g.unit = 0x39 → ∀ j, s.sfSources.fdDrive.rd g j = s.rd g j) ∧
    s.sfSources.fdDrive.sf = s.sf := by
  have hinv : s.sfSources.Inv := State.sfSources_moves.inv hi
  have hdrive : Moves outputKinds s.sfSources s.sfSources.fdDrive := State.fdDrive_moves
  have hsf : s.sfSources.sf = s.sf := (State.sfSourcePass_kept (List.range 24) s).sf
  exact ⟨fun g hu j => (hdrive.rd hinv (by rw [hu]; rfl) j).trans (State.sfSources_moves.rd hi (by rw [hu]; rfl) j),
    (hdrive.keep hinv .sf rfl).symm.trans hsf⟩

/-! SF_TEST_PULSE. -/

/-- The pulse of this second begins. -/
def State.pulseBegun (s : State) (n stop : Nat) : State :=
  { s with sf := { s.sf with
    dark := mset (fun _ => 0) n stop s.sf.dark
    pulseSec := mset (fun _ => 0) n (s.tu.sec + 1) s.sf.pulseSec } }

/-- A test of a channel that reads healthy opens its window. -/
theorem State.sfTestBegin_opens (hdem : (s.sfn k).chA.dem = false) (t : SfTest) :
    ∃ x, s.sfTestBegin k false t = s.setSfn k { s.sfn k with testA := some x } ∧ x.start = t.start ∧ x.zero = t.zero ∧
      x.pulseEnd = t.pulseEnd ∧ x.stop = t.stop := by
  refine ⟨{ t with other := (s.sfn k).chB.dem || (s.sfn k).chC.dem, reset := (s.sfn k).phase == 1 }, ?_, rfl, rfl, rfl, rfl⟩
  unfold State.sfTestBegin
  dsimp only
  rw [if_neg Bool.false_ne_true, hdem]
  rfl

section pulse
variable (hi : s.Inv) (hmaps : s.fieldMapsOk = true) (hon : s.sfOn = true) (hn : n < 24) (hfed : s.sfFed n = [k])
  (hsource : s.rd SF_FUNC_TPA k = n) (hsrc : s.pulseSrc n = true) (hclear : mget (fun _ => 0) s.sf.dark n ≤ s.elapsed)
  (hlo : 20000000 * n + 500000 ≤ s.tu.ns) (hup : s.tu.ns < 20000000 * n + 510000)
  (hsec : mget (fun _ => 0) s.sf.pulseSec n ≠ s.tu.sec + 1)
include hon hfed hsource hsrc hclear hlo hup hsec

theorem exec_sfTestPulse_due {stop : Nat} (hstop : s.elapsed + s.rd SF_FUNC_TP_W k * 8000 = stop) : exec (.sfTestPulse n) s =
    .next (((s.pulseBegun n stop).sfTestBegin k false
      ⟨s.elapsed, stop, stop + s.rd SF_FUNC_TP_REC k * 8000, false, false, false⟩).sfSources.fdDrive) := by
  subst hstop
  have hperiodic : (decide (20000000 * n + 500000 ≤ s.tu.ns) && decide (s.tu.ns < 20000000 * n + 510000) &&
      mget (fun _ => 0) s.sf.pulseSec n != s.tu.sec + 1) = true := by simp [hlo, hup, hsec]
  have hchan : (s.rd SF_FUNC_TPA k != n) = false := by simp [hsource]
  show execSfTestPulse n s = _
  unfold execSfTestPulse
  dsimp only
  rw [hperiodic, hfed]
  dsimp only
  rw [if_neg (by simp [hon, hsrc, hclear]), if_pos rfl, List.foldl_cons, List.foldl_nil]
  exact congrArg (fun b => Host.Outcome.next (((s.pulseBegun n (s.elapsed + s.rd SF_FUNC_TP_W k * 8000)).sfTestBegin k b
    ⟨s.elapsed, s.elapsed + s.rd SF_FUNC_TP_W k * 8000, s.elapsed + s.rd SF_FUNC_TP_W k * 8000 + s.rd SF_FUNC_TP_REC k * 8000,
      false, false, false⟩).sfSources.fdDrive)) hchan

include hi

theorem exec_sfTestPulse_skips (hdem : (s.sfn k).chA.dem = true) :
    ∃ t, exec (.sfTestPulse n) s = .next t ∧ t.rd SF_FSTAT_INCONC k = satAdd 65535 (s.rd SF_FSTAT_INCONC k) 1 ∧
      t.rd SF_FSTAT_TEST_A k = 2 := by
  have hgo := exec_sfTestPulse_due hon hfed hsource hsrc hclear hlo hup hsec rfl
  generalize s.elapsed + s.rd SF_FUNC_TP_W k * 8000 = stop at hgo
  have hskip : (s.pulseBegun n stop).sfTestBegin k false ⟨s.elapsed, stop, stop + s.rd SF_FUNC_TP_REC k * 8000, false, false, false⟩ =
      ((s.pulseBegun n stop).bump SF_FSTAT_INCONC k 1).wr SF_FSTAT_TEST_A k 2 := by
    unfold State.sfTestBegin
    exact (if_pos (by rw [if_neg Bool.false_ne_true]; exact hdem))
  rw [hskip] at hgo
  have hbegun : (s.pulseBegun n stop).Inv := hi
  have hsame : (s.pulseBegun n stop).rd SF_FSTAT_INCONC k = s.rd SF_FSTAT_INCONC k := rfl
  generalize s.pulseBegun n stop = a at *
  have h1 : a.FnKept [SF_FSTAT_INCONC] (a.bump SF_FSTAT_INCONC k 1) := State.fnKept_wr hbegun List.mem_cons_self rfl k _
  have hcount : (a.bump SF_FSTAT_INCONC k 1).rd SF_FSTAT_INCONC k = satAdd 65535 (a.rd SF_FSTAT_INCONC k) 1 :=
    State.rd_bump_same hbegun rfl k 1
  rw [hsame] at hcount
  have hinv1 := h1.kept.inv hbegun
  generalize a.bump SF_FSTAT_INCONC k 1 = b at *
  have h2 : b.FnKept [SF_FSTAT_TEST_A] (b.wr SF_FSTAT_TEST_A k 2) := State.fnKept_wr hinv1 List.mem_cons_self rfl k 2
  have hread : (b.wr SF_FSTAT_TEST_A k 2).rd SF_FSTAT_TEST_A k = 2 := State.rd_wr_same hinv1 rfl k 2
  obtain ⟨hleft, -⟩ := State.sfSources_left (h2.kept.inv hinv1)
  refine ⟨_, hgo, ?_, ?_⟩
  · exact (hleft SF_FSTAT_INCONC rfl k).trans ((h2.rd SF_FSTAT_INCONC rfl rfl k).trans hcount)
  · rw [hleft SF_FSTAT_TEST_A rfl, hread]

include hmaps hn

/-- A channel that reads healthy is tested: its window opens, and the source is dark. -/
theorem exec_sfTestPulse_tests (hwidth : s.rd SF_FUNC_TP_W k ≠ 0) (hdem : (s.sfn k).chA.dem = false) :
    ∃ t x, exec (.sfTestPulse n) s = .next t ∧ (t.sfn k).testA = some x ∧ x.start = s.elapsed ∧ x.zero = false ∧
      x.pulseEnd = s.elapsed + s.rd SF_FUNC_TP_W k * 8000 ∧ x.stop = x.pulseEnd + s.rd SF_FUNC_TP_REC k * 8000 ∧
      t.flag FD_DO_ON n = false := by
  obtain ⟨-, -, -, hpulse, -, hfns, -, hdark, -⟩ := State.fieldMapsOk_iff.1 hmaps
  generalize hstop : s.elapsed + s.rd SF_FUNC_TP_W k * 8000 = stop
  have hgo := exec_sfTestPulse_due hon hfed hsource hsrc hclear hlo hup hsec hstop
  have hbegun : (s.pulseBegun n stop).OutsGood := State.outsGood (s := s) hi hmaps
  have hfn : (s.pulseBegun n stop).sfn k = s.sfn k := rfl
  have hok : (s.pulseBegun n stop).fnsOk := hfns
  have hsrc' : (s.pulseBegun n stop).pulseSrc n = true := hsrc
  have hmap : mapOk (fun _ => false) (s.pulseBegun n stop).fd.sfPulse = true := hpulse
  have hdark' : mget (fun _ => 0) (s.pulseBegun n stop).sf.dark n = stop := mget_mset_same n stop _ hdark
  have hnow : (s.pulseBegun n stop).elapsed = s.elapsed := rfl
  generalize s.pulseBegun n stop = a at *
  obtain ⟨x, htest, hstart, hzero, hend, hclose⟩ := State.sfTestBegin_opens (s := a) (k := k) (by rw [hfn]; exact hdem)
    ⟨s.elapsed, stop, stop + s.rd SF_FUNC_TP_REC k * 8000, false, false, false⟩
  rw [htest] at hgo
  have hget := State.setSfn_sfn hok k { a.sfn k with testA := some x }
  have hopen : ({ a.sfn k with testA := some x } : SfFn).testA = some x := rfl
  generalize ({ a.sfn k with testA := some x } : SfFn) = y at *
  have hset : (a.setSfn k y).OutsGood := hbegun
  have hoff := State.sfSources_off hset hmap hn hsrc' (show a.elapsed < mget (fun _ => 0) a.sf.dark n by omega)
  obtain ⟨-, hsf⟩ := State.sfSources_left hset.1
  have hfn' : (a.setSfn k y).sfSources.fdDrive.sfn k = y := by
    unfold State.sfn
    rw [hsf]
    exact hget
  exact ⟨_, x, hgo, (congrArg SfFn.testA hfn').trans hopen, hstart, hzero, hend, hclose.trans (by rw [hend]), hoff⟩

end pulse

end

end Sys2Proof.Machine
end

