-- ==== Sys2Proof/Proofs/SafetyEvaluation.lean ====
section
/-! The evaluation cycle of the machine safety unit, for an emergency stop of two NC contacts (R439, R443 to R446). -/

namespace Sys2Proof.Machine

open Sys2Proof

/-! Debouncing (R443). -/

theorem SfChan.sample_same (c : SfChan) (window : Bool) (deb : Nat) : c.sample c.dem window deb = ⟨c.dem, 0⟩ := if_pos (beq_self_eq_true _)

theorem SfChan.sample_turns {c : SfChan} {dem : Bool} {deb : Nat} (h : dem ≠ c.dem) (hdeb : deb ≤ c.run + 1) : c.sample dem false deb = ⟨dem, 0⟩ := by
  unfold SfChan.sample
  rw [if_neg (by rw [beq_false_of_ne h]; exact Bool.false_ne_true), if_pos hdeb]
  rfl

section
variable {s : State} {k : Nat}

/-! What one function reads. -/

/-- The function after its channels and timers. -/
def State.sfSampled (s : State) (k : Nat) : SfFn := (s.sfChannels k).timers (s.rd SF_FUNC_KIND k) s.elapsed

/-- Its tests have seen the sample. -/
def State.sfSeen (s : State) (k : Nat) (x : SfFn) : SfFn :=
  { x with
    testA := x.testA.map (fun t => t.see (!s.sfRaw (s.rd SF_FUNC_IN_A k)) (x.chB.dem || x.chC.dem) s.elapsed)
    testB := x.testB.map (fun t => t.see (!s.sfRaw (s.rd SF_FUNC_IN_B k)) (x.chA.dem || x.chC.dem) s.elapsed) }

/-- The demands shown. -/
def State.sfDemShown (s : State) (k : Nat) (y : SfFn) : State :=
  (s.setSfn k y).wr SF_FSTAT_DEM k (8 * b2n y.chA.dem + 4 * b2n y.chB.dem + 2 * b2n y.chC.dem + b2n y.chD.dem)

/-- The transition that the demands make. -/
def State.sfMoved (s : State) (k : Nat) : State := if s.twoHand k then s.sfTwoHand k else s.sfOther k

theorem State.sfEval_eq : s.sfEval k = ((s.sfDemShown k (s.sfSeen k (s.sfSampled k))).sfMoved k).sfResetInput k := rfl

/-- The readings of an emergency stop of two NC contacts without a test under way. -/
structure SfFn.StopReads (x y : SfFn) (a b : Bool) (deb now : Nat) : Prop where
  chA : y.chA = x.chA.sample a false deb
  chB : y.chB = x.chB.sample b false deb
  chC : y.chC = ⟨false, 0⟩
  rst : y.rst = x.rst
  pressAt : y.pressAt = x.pressAt
  disc0 : y.disc0 = since (y.chA.dem != y.chB.dem) x.disc0 now

/-- An NC contact reads demanded when it is invalid or open. -/
def State.ncReads (s : State) (n : Nat) : Bool := !s.sfValid n || s.sfRaw n == false

theorem State.sfSampled_stop (hkind : s.rd SF_FUNC_KIND k = 1) (hcontact : s.flag SF_FUNC_CONTACT k = false) (ha : (s.sfn k).testA = none)
    (hb : (s.sfn k).testB = none) : (s.sfn k).StopReads (s.sfSeen k (s.sfSampled k)) (s.ncReads (s.rd SF_FUNC_IN_A k))
      (s.ncReads (s.rd SF_FUNC_IN_B k)) (s.rd SF_FUNC_DEB k) s.elapsed := by
  have htwo : s.twoHand k = false := by
    unfold State.twoHand
    rw [hkind]
    rfl
  have hreads : ∀ n, s.sfReads k n false = s.ncReads n := fun n => by
    unfold State.sfReads State.ncReads
    rw [htwo]
    rfl
  have hchan : s.sfChannels k = { s.sfn k with
      chA := (s.sfn k).chA.sample (s.ncReads (s.rd SF_FUNC_IN_A k)) false (s.rd SF_FUNC_DEB k)
      chB := (s.sfn k).chB.sample (s.ncReads (s.rd SF_FUNC_IN_B k)) false (s.rd SF_FUNC_DEB k)
      chC := ⟨false, 0⟩
      chD := ⟨false, 0⟩ } := by
    unfold State.sfChannels
    dsimp only
    rw [hkind, hcontact, ha, hb, ← hreads, ← hreads]
    rfl
  unfold State.sfSeen State.sfSampled
  rw [hchan, hkind]
  exact ⟨rfl, rfl, rfl, rfl, rfl, rfl⟩

/-! The transition (R445). -/

/-- The registers of a cycle. -/
def evalFields : List Field := SF_FSTAT_DEM :: SF_FSTAT_RST_IGN :: enterFields

theorem State.sfDemShown_effect (hi : s.Inv) (hm : s.fnsOk) (y : SfFn) : s.FnKept [SF_FSTAT_DEM] (s.sfDemShown k y) ∧
    (s.sfDemShown k y).sfn k = y := by
  unfold State.sfDemShown
  generalize 8 * b2n y.chA.dem + 4 * b2n y.chB.dem + 2 * b2n y.chC.dem + b2n y.chD.dem = d
  have h1 : s.FnKept [SF_FSTAT_DEM] (s.setSfn k y) := State.fnKept_setSfn s k y
  have hget := State.setSfn_sfn hm k y
  have hinv := h1.kept.inv hi
  generalize s.setSfn k y = a at *
  have hsf := a.wr_sf SF_FSTAT_DEM k d
  refine ⟨h1.trans (State.fnKept_wr hinv List.mem_cons_self rfl k d), ?_⟩
  unfold State.sfn at hget ⊢
  rw [hsf, hget]

/-- An emergency stop's transition. -/
theorem State.sfMoved_stop (hkind : s.rd SF_FUNC_KIND k = 1) : s.sfMoved k = s.sfOther k := by
  unfold State.sfMoved State.twoHand
  rw [hkind]
  rfl

theorem SfFn.demanded_stop {x : SfFn} (hc : x.chC.dem = false) (tpw now : Nat) : x.demanded 1 tpw now = (x.chA.dem || x.chB.dem) := by
  unfold SfFn.demanded
  rw [if_neg (by decide), hc, Bool.or_false]

section moved
variable (hkind : s.rd SF_FUNC_KIND k = 1) (hc : (s.sfn k).chC.dem = false)
include hkind hc

/-- In RUN a demand stops the function. -/
theorem State.sfMoved_demanded (hstate : s.sfState k = sfRun) (hdem : (s.sfn k).chA.dem = true) : s.sfMoved k = s.sfEnter k sfStop 0 := by
  rw [State.sfMoved_stop hkind]
  unfold State.sfOther
  dsimp only
  rw [hkind, SfFn.demanded_stop hc, hstate, hdem]
  rfl

/-- In STOP both channels healthy make it ready. -/
theorem State.sfMoved_healthy (hstate : s.sfState k = sfStop) (ha : (s.sfn k).chA.dem = false) (hb : (s.sfn k).chB.dem = false)
    (hd : (s.sfn k).disc0 = none) : s.sfMoved k = s.sfEnter k sfReady 0 := by
  rw [State.sfMoved_stop hkind]
  unfold State.sfOther
  dsimp only
  rw [hkind, SfFn.demanded_stop hc, hstate, ha, hb, hd]
  rfl

/-- Ready and healthy, it waits for its reset. -/
theorem State.sfMoved_waits (hstate : s.sfState k = sfReady) (ha : (s.sfn k).chA.dem = false) (hb : (s.sfn k).chB.dem = false)
    (hmode : s.rd SF_FUNC_RST_MODE k = 0) : s.sfMoved k = s := by
  rw [State.sfMoved_stop hkind]
  unfold State.sfOther
  dsimp only
  rw [hkind, SfFn.demanded_stop hc, hstate, ha, hb, hmode]
  rfl

end moved

/-! The reset input (R446). -/

theorem State.sfReset_stopped (hstate : s.sfState k = sfStop) : s.sfReset k = s.bump SF_FSTAT_RST_IGN k 1 := by
  unfold State.sfReset
  dsimp only
  rw [hstate]
  rfl

/-- In STOP a reset changes no state. -/
theorem State.sfResetInput_stopped (hi : s.Inv) (hstate : s.sfState k = sfStop) : s.FnKept [SF_FSTAT_RST_IGN] (s.sfResetInput k) := by
  have hset : ∀ x, s.FnKept [SF_FSTAT_RST_IGN] (s.setSfn k x) := fun x => State.fnKept_setSfn s k x
  have hbump : ∀ x, s.FnKept [SF_FSTAT_RST_IGN] ((s.setSfn k x).bump SF_FSTAT_RST_IGN k 1) := fun x =>
    (hset x).trans (State.fnKept_wr ((hset x).kept.inv hi) List.mem_cons_self rfl k _)
  unfold State.sfResetInput
  extract_lets n x c
  refine .ite (.refl s) (.ite (hset _) (.ite (hset _) (.ite ?_ (hset _))))
  split
  · exact hset _
  · rw [State.sfReset_stopped ((s.setSfn_rd k _ SF_FSTAT_STATE k).trans hstate)]
    exact .ite (hbump _) (hbump _)

/-- Without an edge of its reset input a function stays as it is. -/
theorem State.sfResetInput_idle (h : s.rd SF_FUNC_RST_DI k = 0x3F ∨ (s.sfn k).rst.dem = false ∧ s.sfRaw (s.rd SF_FUNC_RST_DI k) = false) :
    s.FnKept [] (s.sfResetInput k) := by
  have hset : ∀ x, s.FnKept [] (s.setSfn k x) := fun x => State.fnKept_setSfn s k x
  unfold State.sfResetInput
  dsimp only
  rcases h with h | ⟨hdem, hraw⟩
  · rw [if_pos h]
    exact .refl s
  · have hsample : (s.sfn k).rst.sample (s.sfRaw (s.rd SF_FUNC_RST_DI k)) false (s.rd SF_FUNC_DEB k) = ⟨(s.sfn k).rst.dem, 0⟩ := by
      rw [hraw, ← hdem]
      exact SfChan.sample_same _ _ _
    rw [hsample, hdem]
    exact .ite (.refl s) (.ite (hset _) (hset _))

/-- A press of 100 ms to 5 s, released, is a reset. -/
theorem State.sfResetInput_released {p : Nat} (hvalid : s.sfValid (s.rd SF_FUNC_RST_DI k) = true)
    (hraw : s.sfRaw (s.rd SF_FUNC_RST_DI k) = false) (hdem : (s.sfn k).rst.dem = true) (hdeb : s.rd SF_FUNC_DEB k ≤ (s.sfn k).rst.run + 1)
    (hpress : (s.sfn k).pressAt = some p) (hlo : p + 80000000 ≤ s.elapsed) (hup : s.elapsed ≤ p + 4000000000) :
    s.sfResetInput k = (s.setSfn k { s.sfn k with rst := ⟨false, 0⟩, pressAt := none }).sfReset k := by
  have hsample : (s.sfn k).rst.sample (s.sfRaw (s.rd SF_FUNC_RST_DI k)) false (s.rd SF_FUNC_DEB k) = ⟨false, 0⟩ := by
    rw [hraw]
    exact SfChan.sample_turns (by rw [hdem]; decide) hdeb
  have hnone : s.rd SF_FUNC_RST_DI k ≠ 0x3F := fun h => by
    rw [h] at hvalid
    exact absurd hvalid (by unfold State.sfValid; simp)
  unfold State.sfResetInput
  dsimp only
  rw [if_neg hnone, if_neg (by rw [hvalid]; decide), hsample, hdem, hpress]
  dsimp only
  rw [decide_eq_true hlo, decide_eq_true hup]
  rfl

/-- Without pulse sources TESTING passes at once. -/
theorem State.sfTest_runs (ha : s.rd SF_FUNC_TPA k = 0x3F) (hb : s.rd SF_FUNC_TPB k = 0x3F) :
    s.sfTest k = (s.sfEnter k sfTesting 0).sfEnter k sfRun 0 := by
  unfold State.sfTest
  dsimp only
  rw [ha, hb]
  rfl

/-- A reset without pulse sources runs the function in the same cycle. -/
theorem State.sfReset_runs (hi : s.Inv) (hstate : s.sfState k = sfReady) (hmode : s.rd SF_FUNC_RST_MODE k = 0) (ha : s.rd SF_FUNC_TPA k = 0x3F)
    (hb : s.rd SF_FUNC_TPB k = 0x3F) : s.FnKept enterFields (s.sfReset k) ∧
      ∀ j, (s.sfReset k).sfState j = if j % 65536 = k % 65536 then sfRun else s.sfState j := by
  have hgo : s.sfReset k = (s.setSfn k { s.sfn k with needReset := false }).sfTest k := if_pos ⟨hstate, .inl hmode⟩
  have h0 : s.FnKept enterFields (s.setSfn k { s.sfn k with needReset := false }) := State.fnKept_setSfn s k _
  have hrd := s.setSfn_rd k { s.sfn k with needReset := false }
  generalize s.setSfn k { s.sfn k with needReset := false } = a at *
  rw [hgo, State.sfTest_runs ((hrd _ k).trans ha) ((hrd _ k).trans hb)]
  have hinv := h0.kept.inv hi
  have h1 := State.sfEnter_entered (k := k) hinv (st := sfTesting) (cause := 0) (by decide) (by decide)
  have hinv1 := h1.kept.inv hinv
  have h2 := State.sfEnter_entered (k := k) hinv1 (st := sfRun) (cause := 0) (by decide) (by decide)
  refine ⟨(h0.trans h1.toFnKept).trans h2.toFnKept, fun j => ?_⟩
  rw [h2.state, h1.state]
  split
  · rfl
  · exact hrd SF_FSTAT_STATE j

/-! One function in one cycle. -/

/-- After its cycle function `k` is in state `st`, and the others are in theirs. -/
structure State.SfEvaluated (k st : Nat) (s t : State) : Prop extends s.FnKept evalFields t where
  state : ∀ j, t.sfState j = if j % 65536 = k % 65536 then st else s.sfState j

section eval
variable {x : SfFn} (hi : s.Inv) (hm : s.fnsOk) (hx : s.sfn k = x) (hkind : s.rd SF_FUNC_KIND k = 1)
  (hcontact : s.flag SF_FUNC_CONTACT k = false) (htestA : x.testA = none) (htestB : x.testB = none)
include hi hm hx hkind hcontact htestA htestB

/-- The state that the transition of an emergency stop sees. -/
theorem State.sfDemShown_stop : ∃ (a : State) (y : SfFn), s.sfEval k = (a.sfMoved k).sfResetInput k ∧ s.FnKept [SF_FSTAT_DEM] a ∧
    a.sfn k = y ∧ x.StopReads y (s.ncReads (s.rd SF_FUNC_IN_A k)) (s.ncReads (s.rd SF_FUNC_IN_B k)) (s.rd SF_FUNC_DEB k) s.elapsed := by
  subst hx
  have hreads := State.sfSampled_stop hkind hcontact htestA htestB
  obtain ⟨hkept, hfn⟩ := State.sfDemShown_effect (k := k) hi hm (s.sfSeen k (s.sfSampled k))
  exact ⟨_, _, State.sfEval_eq, hkept, hfn, hreads⟩

/-- A demand of channel A stops it. -/
theorem State.sfEval_stops (hstate : s.sfState k = sfRun) (hdem : x.chA.dem = false) (hdeb : s.rd SF_FUNC_DEB k ≤ x.chA.run + 1)
    (hraw : s.sfRaw (s.rd SF_FUNC_IN_A k) = false) : s.SfEvaluated k sfStop (s.sfEval k) := by
  obtain ⟨a, y, heval, hkept, hfn, hreads⟩ := State.sfDemShown_stop hi hm hx hkind hcontact htestA htestB
  have hA : y.chA.dem = true := by
    have hopen : s.ncReads (s.rd SF_FUNC_IN_A k) = true := by
      unfold State.ncReads
      rw [hraw]
      exact Bool.or_true _
    rw [hreads.chA, hopen, SfChan.sample_turns (by rw [hdem]; decide) hdeb]
  have hinv := hkept.kept.inv hi
  have hmoved := State.sfMoved_demanded (s := a) ((hkept.rd SF_FUNC_KIND rfl rfl k).trans hkind) (by rw [hfn, hreads.chC])
    ((hkept.rd SF_FSTAT_STATE rfl rfl k).trans hstate) (by rw [hfn]; exact hA)
  have h1 := State.sfEnter_entered (k := k) hinv (st := sfStop) (cause := 0) (by decide) (by decide)
  have h2 := State.sfResetInput_stopped (h1.kept.inv hinv) h1.here.1
  rw [heval, hmoved]
  refine ⟨((hkept.mono (by decide)).trans (h1.toFnKept.mono (by decide))).trans (h2.mono (by decide)), fun j => ?_⟩
  refine (h2.rd SF_FSTAT_STATE rfl rfl j).trans ((h1.state j).trans (if_congr Iff.rfl rfl ?_))
  exact hkept.rd SF_FSTAT_STATE rfl rfl j

section healthy
variable (hdemA : x.chA.dem = false) (hdemB : x.chB.dem = false) (hrawA : s.sfRaw (s.rd SF_FUNC_IN_A k) = true)
  (hvalidA : s.sfValid (s.rd SF_FUNC_IN_A k) = true) (hrawB : s.sfRaw (s.rd SF_FUNC_IN_B k) = true)
  (hvalidB : s.sfValid (s.rd SF_FUNC_IN_B k) = true)
include hdemA hdemB hrawA hvalidA hrawB hvalidB

/-- Both channels healthy: the state that the transition sees. -/
theorem State.sfDemShown_healthy : ∃ (a : State) (y : SfFn), s.sfEval k = (a.sfMoved k).sfResetInput k ∧ s.FnKept [SF_FSTAT_DEM] a ∧
    a.sfn k = y ∧ y.chA.dem = false ∧ y.chB.dem = false ∧ y.chC.dem = false ∧ y.disc0 = none ∧ y.rst = x.rst ∧ y.pressAt = x.pressAt := by
  obtain ⟨a, y, heval, hkept, hfn, hreads⟩ := State.sfDemShown_stop hi hm hx hkind hcontact htestA htestB
  have hclosed : ∀ n, s.sfRaw n = true → s.sfValid n = true → s.ncReads n = false := fun n hraw hvalid => by
    unfold State.ncReads
    rw [hraw, hvalid]
    rfl
  have hA : y.chA.dem = false := by
    rw [hreads.chA, hclosed _ hrawA hvalidA, ← hdemA, SfChan.sample_same]
  have hB : y.chB.dem = false := by
    rw [hreads.chB, hclosed _ hrawB hvalidB, ← hdemB, SfChan.sample_same]
  refine ⟨a, y, heval, hkept, hfn, hA, hB, by rw [hreads.chC], ?_, hreads.rst, hreads.pressAt⟩
  rw [hreads.disc0, hA, hB]
  rfl

/-- Both channels healthy make it ready, without an edge of its reset input. -/
theorem State.sfEval_readies (hstate : s.sfState k = sfStop)
    (hreset : s.rd SF_FUNC_RST_DI k = 0x3F ∨ x.rst.dem = false ∧ s.sfRaw (s.rd SF_FUNC_RST_DI k) = false) :
    s.SfEvaluated k sfReady (s.sfEval k) := by
  obtain ⟨a, y, heval, hkept, hfn, hA, hB, hC, hD, hrst, -⟩ :=
    State.sfDemShown_healthy hi hm hx hkind hcontact htestA htestB hdemA hdemB hrawA hvalidA hrawB hvalidB
  have hinv := hkept.kept.inv hi
  have hmoved := State.sfMoved_healthy (s := a) ((hkept.rd SF_FUNC_KIND rfl rfl k).trans hkind) (by rw [hfn, hC])
    ((hkept.rd SF_FSTAT_STATE rfl rfl k).trans hstate) (by rw [hfn, hA]) (by rw [hfn, hB]) (by rw [hfn, hD])
  have h1 := State.sfEnter_entered (k := k) hinv (st := sfReady) (cause := 0) (by decide) (by decide)
  have hresumes := h1.resumes (hkept.fns hm)
  have hrd : ∀ f : Field, f.unit = 0x38 → ∀ j, (a.sfEnter k sfReady 0).rd f j = s.rd f j := fun f hu j =>
    (h1.kept.rd hinv (by rw [hu]; rfl) j).trans (hkept.kept.rd hi (by rw [hu]; rfl) j)
  have hdi : (a.sfEnter k sfReady 0).rd SF_FUNC_RST_DI k = s.rd SF_FUNC_RST_DI k :=
    (h1.rd SF_FUNC_RST_DI rfl rfl k).trans (hkept.rd SF_FUNC_RST_DI rfl rfl k)
  have h2 : (a.sfEnter k sfReady 0).FnKept [] ((a.sfEnter k sfReady 0).sfResetInput k) := by
    refine State.sfResetInput_idle ?_
    rw [hdi, hresumes, hfn, hrst]
    exact hreset.imp id fun h => ⟨h.1, (congrArg (· != 0) (hrd FD_DI_RAW rfl _)).trans h.2⟩
  rw [heval, hmoved]
  refine ⟨((hkept.mono (by decide)).trans (h1.toFnKept.mono (by decide))).trans (h2.mono (List.nil_subset _)), fun j => ?_⟩
  refine (h2.rd SF_FSTAT_STATE rfl rfl j).trans ((h1.state j).trans (if_congr Iff.rfl rfl ?_))
  exact hkept.rd SF_FSTAT_STATE rfl rfl j

/-- An accepted reset without pulse sources runs it. -/
theorem State.sfEval_runs {p : Nat} (hstate : s.sfState k = sfReady) (hmode : s.rd SF_FUNC_RST_MODE k = 0) (htpa : s.rd SF_FUNC_TPA k = 0x3F)
    (htpb : s.rd SF_FUNC_TPB k = 0x3F) (hraw : s.sfRaw (s.rd SF_FUNC_RST_DI k) = false) (hvalid : s.sfValid (s.rd SF_FUNC_RST_DI k) = true)
    (hrst : x.rst.dem = true) (hdeb : s.rd SF_FUNC_DEB k ≤ x.rst.run + 1) (hpress : x.pressAt = some p) (hlo : p + 80000000 ≤ s.elapsed)
    (hup : s.elapsed ≤ p + 4000000000) : s.SfEvaluated k sfRun (s.sfEval k) := by
  obtain ⟨a, y, heval, hkept, hfn, hA, hB, hC, hD, hrst', hpress'⟩ :=
    State.sfDemShown_healthy hi hm hx hkind hcontact htestA htestB hdemA hdemB hrawA hvalidA hrawB hvalidB
  have hinv := hkept.kept.inv hi
  have hmoved := State.sfMoved_waits (s := a) ((hkept.rd SF_FUNC_KIND rfl rfl k).trans hkind) (by rw [hfn, hC])
    ((hkept.rd SF_FSTAT_STATE rfl rfl k).trans hstate) (by rw [hfn, hA]) (by rw [hfn, hB])
    ((hkept.rd SF_FUNC_RST_MODE rfl rfl k).trans hmode)
  have hdi := hkept.rd SF_FUNC_RST_DI rfl rfl k
  have hflag : ∀ f : Field, f.unit = 0x38 → ∀ j, a.flag f j = s.flag f j := fun f hu j =>
    congrArg (· != 0) (hkept.kept.rd hi (by rw [hu]; rfl) j)
  have helapsed : a.elapsed = s.elapsed := (hkept.kept.keep hi .elapsed rfl).symm
  have hvalid' : a.sfValid (a.rd SF_FUNC_RST_DI k) = true := by
    unfold State.sfValid
    rw [hdi, hflag FD_DI_VALID rfl]
    exact hvalid
  have hreset := State.sfResetInput_released (s := a) (k := k) (p := p) hvalid' (by rw [hdi]; exact (hflag FD_DI_RAW rfl _).trans hraw)
    (by rw [hfn, hrst', hrst]) (by rw [hfn, hrst', hkept.rd SF_FUNC_DEB rfl rfl]; exact hdeb) (by rw [hfn, hpress', hpress])
    (by rw [helapsed]; exact hlo) (by rw [helapsed]; exact hup)
  have h1 : a.FnKept enterFields (a.setSfn k { a.sfn k with rst := ⟨false, 0⟩, pressAt := none }) := State.fnKept_setSfn a k _
  have hrd := a.setSfn_rd k { a.sfn k with rst := ⟨false, 0⟩, pressAt := none }
  rw [heval, hmoved, hreset]
  generalize a.setSfn k { a.sfn k with rst := ⟨false, 0⟩, pressAt := none } = b at *
  have hfield : ∀ f : Field, f.unit = 0x39 → f.off [SF_FSTAT_DEM] = true → ∀ j, b.rd f j = s.rd f j := fun f hu hf j =>
    (hrd f j).trans (hkept.rd f hu hf j)
  obtain ⟨h2, hstates⟩ := State.sfReset_runs (s := b) (k := k) (h1.kept.inv hinv) ((hfield SF_FSTAT_STATE rfl rfl k).trans hstate)
    ((hfield SF_FUNC_RST_MODE rfl rfl k).trans hmode) ((hfield SF_FUNC_TPA rfl rfl k).trans htpa) ((hfield SF_FUNC_TPB rfl rfl k).trans htpb)
  refine ⟨((hkept.mono (by decide)).trans (h1.mono (by decide))).trans (h2.mono (by decide)), fun j => ?_⟩
  exact (hstates j).trans (if_congr Iff.rfl rfl (hfield SF_FSTAT_STATE rfl rfl j))

end healthy

end eval

end

end Sys2Proof.Machine
end

