-- ==== Sys2Proof/Proofs/SafetyFunctions.lean ====
section
/-! The evaluation cycle to its end, and the machine safety unit's obligation. -/

namespace Sys2Proof.Machine

open Sys2Proof

section
variable {s : State} {k : Nat}

/-! The end of a cycle. -/

/-- The cycle's instant noted. -/
def State.sfCycled (s : State) : State := { s with sf := { s.sf with cycleAt := s.fieldIdx } }

theorem exec_sfEvaluationCycle_due (hon : s.sfOn = true) (hfirst : s.sf.cycleAt ≠ s.fieldIdx) (hfns : s.sfFns = [k]) :
    exec .sfEvaluationCycle s = .next (s.sfCycled.sfEval k).sfHeart.sfSources.sfOutputs := by
  have hsame : s.sfCycled.sfFns = [k] := hfns
  have hgo : exec .sfEvaluationCycle s = .next (s.sfCycled.sfFns.foldl State.sfEval s.sfCycled).sfHeart.sfSources.sfOutputs := by
    show execSfEvaluationCycle s = _
    exact if_neg (by simp [hon, hfirst])
  rw [hgo, hsame, List.foldl_cons, List.foldl_nil]

/-- The heartbeat and the sources' levels leave the registers, the outputs' records and the safe-off commands. -/
theorem State.sfBeaten_effect (hi : s.Inv) : s.sfHeart.sfSources.Inv ∧ (∀ f j, s.sfHeart.sfSources.rd f j = s.rd f j) ∧
    s.sfHeart.sfSources.fd.dos = s.fd.dos ∧ s.sfHeart.sfSources.fd.sfOff = s.fd.sfOff ∧ s.sfHeart.sfSources.um = s.um := by
  have hheart : s.sfHeart.regs = s.regs ∧ s.sfHeart.fd.dos = s.fd.dos ∧ s.sfHeart.fd.sfOff = s.fd.sfOff ∧ s.sfHeart.um = s.um := by
    unfold State.sfHeart
    split
    · exact ⟨rfl, rfl, rfl, rfl⟩
    · exact ⟨rfl, rfl, rfl, rfl⟩
  obtain ⟨hregs, hdos, hoff, hum⟩ := hheart
  have hinv : s.sfHeart.Inv := State.sfHeart_moves.inv hi
  have hkept := State.sfSourcePass_kept (List.range 24) s.sfHeart
  have hmoves : Moves 0x4000000 s.sfHeart s.sfHeart.sfSources := State.sfSources_moves
  rw [← State.sfSources_eq] at hkept
  refine ⟨hmoves.inv hinv, fun f j => State.rd_of_regs (hkept.regs.trans hregs), ?_, ?_, (hmoves.keep hinv .um rfl).symm.trans hum⟩
  · rw [hkept.fd]
    exact hdos
  · rw [hkept.fd]
    exact hoff

/-- Of the enabled functions only one is in this unit. -/
theorem State.sfState_off (hfns : s.sfFns = [k]) {j : Nat} (hj : j < 32) (hne : j ≠ k) : s.sfState j = sfOff := by
  have hnot : j ∉ s.sfFns := by
    rw [hfns, List.mem_singleton]
    exact hne
  refine Classical.byContradiction fun h => hnot (List.mem_filter.2 ⟨List.mem_range.2 hj, ?_⟩)
  exact bne_iff_ne.2 h

theorem State.sfFns_lt (hfns : s.sfFns = [k]) : k < 32 := by
  have hmem : k ∈ s.sfFns := by
    rw [hfns]
    exact List.mem_singleton.2 rfl
  exact List.mem_range.1 (List.mem_filter.1 hmem).1

/-- The mask of functions in RUN, with one function enabled. -/
theorem State.sfRunWord (s : State) {st : Nat} (hk : k < 32) (hstate : s.sfState k = st) (hother : ∀ j, j < 32 → j ≠ k → s.sfState j = sfOff) :
    s.tchWord (fun j => s.sfState j == sfRun) = if st = sfRun then 2 ^ k else 0 := by
  have hoff : ∀ j, j < 32 → j ≠ k → (s.sfState j == sfRun) = false := fun j hj hne => by
    rw [hother j hj hne]
    rfl
  split
  · next hrun =>
    rw [← State.tchWord_single (s := s) hk]
    refine State.tchWord_congr fun j hj => ?_
    by_cases hne : j = k
    · rw [hne, hstate, hrun, beq_self_eq_true, beq_self_eq_true]
    · rw [hoff j hj hne, beq_false_of_ne hne]
  · next hrun =>
    refine State.tchWord_none fun j hj => ?_
    by_cases hne : j = k
    · rw [hne, hstate, beq_false_of_ne hrun]
    · exact hoff j hj hne

/-- An output that a function in STOP names is not released. -/
theorem State.sfHeld_stopped {n : Nat} (hk : k < 32) (hstate : s.sfState k = sfStop) (hbit : natBit (s.rd SF_FUNC_OUT_MASK k) n = true) :
    (s.sfOwned n && !s.sfReleased n) = true := by
  have hmem : k ∈ s.sfNames n := List.mem_filter.2 ⟨List.mem_filter.2 ⟨List.mem_range.2 hk, by rw [hstate]; rfl⟩, hbit⟩
  have howned : s.sfOwned n = true := by
    unfold State.sfOwned
    rw [List.isEmpty_eq_false_iff_exists_mem.2 ⟨k, hmem⟩]
    rfl
  have hreleased : s.sfReleased n = false := by
    refine Bool.eq_false_iff.2 fun h => ?_
    have hrun := List.all_eq_true.1 h k hmem
    rw [hstate] at hrun
    exact absurd hrun (by decide)
  rw [howned, hreleased]
  rfl

section cycle
variable {st : Nat} (hi : s.Inv) (hmaps : s.fieldMapsOk = true) (hon : s.sfOn = true) (hfirst : s.sf.cycleAt ≠ s.fieldIdx)
  (hfns : s.sfFns = [k]) (heval : s.sfCycled.SfEvaluated k st (s.sfCycled.sfEval k))
include hi hmaps hon hfirst hfns heval

/-- The mask of functions in RUN follows the function's state. -/
theorem exec_sfEvaluationCycle_effect : ∃ t, exec .sfEvaluationCycle s = .next t ∧ t.sfState k = st ∧
    t.rd SF_STAT_RUN_MASK 0 = (if st = sfRun then 2 ^ k else 0) ∧
    (st = sfStop → ∀ n, n < 24 → natBit (s.rd SF_FUNC_OUT_MASK k) n = true → t.sfHolds n ∧ t.flag FD_DO_ON n = false) := by
  have hk := State.sfFns_lt hfns
  have hcycled : s.sfCycled.OutsGood := State.outsGood (s := s) hi hmaps
  have hother : ∀ j, j < 32 → j ≠ k → s.sfCycled.sfState j = sfOff := fun j hj hne => State.sfState_off hfns hj hne
  have hmask : s.sfCycled.rd SF_FUNC_OUT_MASK k = s.rd SF_FUNC_OUT_MASK k := rfl
  have hoffs : s.sfCycled.offsOk := by
    obtain ⟨-, -, hfd, -, -, -, -, -, -, hum⟩ := State.fieldMapsOk_iff.1 hmaps
    exact ⟨hfd, hum⟩
  have hgo := exec_sfEvaluationCycle_due hon hfirst hfns
  generalize s.sfCycled = a at *
  have hinv := heval.kept.inv hcycled.1
  have hfd : (a.sfEval k).fd = a.fd := (heval.kept.keep hcycled.1 .fd rfl).symm
  have hum : (a.sfEval k).um = a.um := (heval.kept.keep hcycled.1 .um rfl).symm
  have hstates := heval.state
  have hout := heval.rd SF_FUNC_OUT_MASK rfl rfl k
  generalize a.sfEval k = e at *
  obtain ⟨hzinv, hzrd, hzdos, hzoff, hzum⟩ := State.sfBeaten_effect hinv
  generalize e.sfHeart.sfSources = z at *
  have hdriven := State.sfOutputs_driven hzinv
  have hz : z.sfState k = st := (hzrd SF_FSTAT_STATE k).trans ((hstates k).trans (if_pos rfl))
  have hzother : ∀ j, j < 32 → j ≠ k → z.sfState j = sfOff := fun j hj hne => by
    refine (hzrd SF_FSTAT_STATE j).trans ((hstates j).trans ((if_neg ?_).trans (hother j hj hne)))
    rw [Nat.mod_eq_of_lt (by omega), Nat.mod_eq_of_lt (by omega)]
    exact hne
  refine ⟨_, hgo, (hdriven.rd SF_FSTAT_STATE rfl rfl k).trans hz, ?_, fun hstop n hn hbit => ?_⟩
  · rw [hdriven.run, z.sfRunWord hk hz hzother]
    split
    · exact Nat.mod_eq_of_lt (Nat.pow_lt_pow_right (by decide) hk)
    · rfl
  · have hgood : z.OutsGood := ⟨hzinv, by rw [hzdos, hfd]; exact hcycled.2⟩
    have hzoffs : z.offsOk := by
      unfold State.offsOk
      rw [hzoff, hzum, hfd, hum]
      exact hoffs
    refine State.sfOutputs_holds hgood hzoffs hn (State.sfHeld_stopped hk (hz.trans hstop) ?_)
    rw [hzrd, hout, hmask]
    exact hbit

end cycle

end

/-- Settles O57, from the safety unit's steps: one function's cycle, what follows the states, and each fault's own command. -/
theorem safetyFunctionsEvaluateTestAndFail : Obligations.SafetyFunctionsEvaluateTestAndFail := by
  unfold Obligations.SafetyFunctionsEvaluateTestAndFail
  refine ⟨?cycle, ?heartbeat, ?diagnostics, ?tests, ?readback, ?crc⟩
  case cycle =>
    intro s k x hi hmaps hon hfirst hfns hx hkind hcontact hA hB
    have hm : s.fnsOk := (State.fieldMapsOk_iff.1 hmaps).2.2.2.2.2.1
    refine ⟨fun hstate hdem hdeb hraw => ?_, fun hdemA hdemB hrawA hvalidA hrawB hvalidB => ⟨fun hstate hreset => ?_,
      fun p hstate hmode htpa htpb hraw hvalid hrst hdeb hpress hlo hup => ?_⟩⟩
    · have heval := State.sfEval_stops (s := s.sfCycled) hi hm hx hkind hcontact hA hB hstate hdem hdeb hraw
      obtain ⟨t, ht, hend, hrun, hheld⟩ := exec_sfEvaluationCycle_effect hi hmaps hon hfirst hfns heval
      refine ⟨t, ht, hend, hrun.trans (if_neg (by decide)), fun n hn hbit => ?_⟩
      obtain ⟨⟨hfd, hum⟩, hoff⟩ := hheld rfl n hn hbit
      exact ⟨hfd, hum, hoff⟩
    · have heval := State.sfEval_readies (s := s.sfCycled) hi hm hx hkind hcontact hA hB hdemA hdemB hrawA hvalidA hrawB hvalidB hstate hreset
      obtain ⟨t, ht, hend, -⟩ := exec_sfEvaluationCycle_effect hi hmaps hon hfirst hfns heval
      exact ⟨t, ht, hend⟩
    · have heval := State.sfEval_runs (s := s.sfCycled) hi hm hx hkind hcontact hA hB hdemA hdemB hrawA hvalidA hrawB hvalidB hstate hmode
        htpa htpb hraw hvalid hrst hdeb hpress hlo hup
      obtain ⟨t, ht, hend, hrun, -⟩ := exec_sfEvaluationCycle_effect hi hmaps hon hfirst hfns heval
      exact ⟨t, ht, hend, hrun.trans (if_pos rfl)⟩
  case heartbeat =>
    intro s hi hmaps hon hat hlost hhold hdue
    exact exec_sfHeartbeatLoss_effect hi hmaps hon hat hlost hhold hdue
  case diagnostics =>
    intro s hi hvar hon hrun
    exact ⟨exec_sfDiagnosticFailure_corrected hi hvar hon hrun,
      fun cause hlo hup hfirst => exec_sfDiagnosticFailure_effect hi hvar hon hrun hlo hup hfirst⟩
  case tests =>
    intro s k hi hmaps hon hk
    have hm : s.fnsOk := (State.fieldMapsOk_iff.1 hmaps).2.2.2.2.2.1
    refine ⟨fun t0 hlo hup hdisc hdue => exec_sfDiscrepancyExpiry_effect hi hon hk hlo hup hdisc hdue,
      fun n hn hfed hsource hsrc hclear hlo hup hsec hwidth => ⟨fun hdem => ?_, fun hdem => ?_⟩,
      fun x htest hdue hlo hup => ⟨fun hzero => ?_, fun hzero hother hreset hraw => ?_, fun hzero hother hreset => ?_⟩⟩
    · exact exec_sfTestPulse_tests hi hmaps hon hn hfed hsource hsrc hclear hlo hup hsec hwidth hdem
    · exact exec_sfTestPulse_skips hi hon hfed hsource hsrc hclear hlo hup hsec hdem
    · exact exec_sfTestWindowEnd_fails hon htest hdue hi hlo hup hzero
    · exact exec_sfTestWindowEnd_passes hon htest hdue hi hm hzero hother hreset hraw
    · exact exec_sfTestWindowEnd_inconclusive hon htest hdue hi hzero hother hreset
  case readback =>
    intro s n hi hmaps hon hset hdue
    exact ⟨exec_sfReadbackCheck_fell hon hset hdue hmaps, exec_sfReadbackCheck_fails hon hset hdue hi⟩
  case crc =>
    intro s hi _ hon hdue
    exact exec_sfCrcRecompute_effect hi hon hdue

end Sys2Proof.Machine
end
